-- ==== Sys2Proof/Word.lean ====
section
/-! DEFINITION. The word types of Flaed: a byte of a memory, a datagram or a packet. -/
namespace Sys2Proof

/-- One byte of a memory, a packet or a message. -/
abbrev Byte := BitVec 8

/-- A 32-bit word, as PCIe dwords and ray words are. -/
abbrev Word := BitVec 32

end Sys2Proof
end

