-- ==== Sys2Proof/Syntax.lean ====
section
/-! DEFINITION. The commands of Flaed, one constructor per row of spec/opcode_table.json, and the
types of their operands. What an operand carries is what comes from outside the block: who writes,
which instance is meant, the value or the bytes sent, and what the world shows at that instant (a
temperature, an eye width, an error a code word shows). -/
namespace Sys2Proof

/-- Output surface: 0 A, 1 B (R4). -/
abbrev Surface := Fin 2
/-- Last generator 0 to 3 (R23). -/
abbrev Gen := Fin 4
/-- Physical Welt lane 0 to 83 of a surface (R236). -/
abbrev Lane := Fin 84
/-- Return lane 0 or 1 of a surface. -/
abbrev RLane := Fin 2

/-- Who performs a dictionary access: a Plovan session, PCIe function F0 or F3 (R381, R395). -/
inductive Accessor where
  | session (n : Fin 1024)
  | f0
  | f3
  deriving DecidableEq, Repr

/-- The identity carried by a memory request: CORE or INGEST space and an 8-bit ID (R28). -/
structure Master where
  ingest : Bool
  id : Fin 256
  deriving DecidableEq, Repr

/-- The QoS ports in the order of their ranks (R285). -/
inductive Port where
  | plane | train | pip | ingest | writeback | pcie | cue | lace | codec | skiver | diag | scrub
  deriving DecidableEq, Repr

/-- What the error check shows of a code word that carries errors when it is read (R273, R277):
confined to one symbol, or confined to two. -/
inductive Finding where
  | correctable
  | uncorrectable
  deriving DecidableEq, Repr

/-- What the channels show the requests of one command: the code words whose check finds an error, and
how long its requests wait from acceptance to issue, in ns, in their order; a request beyond the list
waits 0 ns (R277, R287). -/
structure Seen where
  found : List (Nat × Finding)
  waits : List Nat
  deriving DecidableEq, Repr

/-- A 64b/66b block as it arrives on a return lane (R257): its sync header, bit 0 the first one sent, and its 64
scrambled bits, bit 0 first. -/
structure RBlock where
  sync : Fin 4
  bits : BitVec 64
  deriving DecidableEq, Repr

/-- What a cluster fetches into its cache for the tile it finishes: a coded tile of a buffer with its
index entry and the reference it needs, a row of 32 texels of an uncoded tile with its index entry, the
ray-map coefficients of the tile, or the ray-map offsets or the gains of its hogel `k` (R53, R78, R160). -/
inductive Fill where
  | coded (buf : Fin 1024) (tile : Nat)
  | row (buf : Fin 1024) (tile : Nat) (row : Fin 32)
  | coeffs
  | offsets (k : Fin 32)
  | gains (k : Fin 32)
  deriving DecidableEq, Repr

/-- The array-wide parameters that are held pending to the next array boundary (R133, R136, R138,
R420). -/
inductive ArrayParam where
  | clusterEn | shareA | bytesNs
  | spread (k : Fin 2)
  | fenceReq (n : Fin 16)
  | fence (n : Fin 16)
  deriving DecidableEq, Repr

/-- The parameters of a commit group that CG_PARAM_WRITE writes (R196). -/
inductive GroupParam where
  | surfaces | buffers | at_ | darkOk | trigger
  deriving DecidableEq, Repr

/-- The parameters of a buffer that are refused while it is busy (R181). -/
inductive BufParam where
  | kind | format | store | width | height | base | source | conceal
  deriving DecidableEq, Repr

/-- The parameters of a cue that are refused while it is busy (R204). -/
inductive CueParam where
  | base | size | crc | bind
  deriving DecidableEq, Repr

/-- The parameters of a calibration slot that are refused while it is busy (R56). -/
inductive CalParam where
  | t0 | t1 | t2 | base | crc
  deriving DecidableEq, Repr

/-- The parameters of a view tap that are refused while it runs, or above V_COUNT (R227). -/
inductive TapParam where
  | base | slots | v
  deriving DecidableEq, Repr

/-- The parameters of a ring that are refused unless its unit is disabled and the ring empty (R172,
R187, R340). -/
inductive RingParam where
  | base | size
  deriving DecidableEq, Repr

/-- An error met by a lace outside the store (R323): a poisoned TLP completion on F2 after the good
bytes before it, or an uncorrectable Keeper group, named by its byte address / 16. -/
inductive LaceFault where
  | poisonedCompletion (good : List Byte)
  | keeperGroup (g : Nat)
  deriving DecidableEq, Repr

/-- The parameters of an eyelet output that are refused while it is ARMED (R367). -/
inductive EyeParam where
  | mode | start | period | width | count | gen | every | offset
  deriving DecidableEq, Repr

/-- What a PTP message shows first (R345, R358): its domain, and the transport by which it came: 0 UDP over IPv4,
1 UDP over IPv6, 2 IEEE 802.3. -/
structure PtpHead where
  domain : BitVec 8
  transport : Fin 3
  deriving DecidableEq, Repr

/-- What an Announce message carries (R359): its head, the clock that sends it, the grandmaster's
priorities, quality and identity, the steps removed, currentUtcOffset and its interval. -/
structure Announce where
  head : PtpHead
  source : BitVec 80
  priority1 : BitVec 8
  clockClass : BitVec 8
  accuracy : BitVec 8
  variance : BitVec 16
  priority2 : BitVec 8
  gm : BitVec 64
  steps : BitVec 16
  utc : BitVec 16
  interval : BitVec 8
  deriving DecidableEq, Repr

/-- The regions of a function that a dword read reaches (R395). -/
inductive Region where
  | bar0 | bar2 | bar4
  deriving DecidableEq, Repr

/-- What the host does to MSI-X of F0 (R395, R483): it enables or disables it, or writes a dword of the table. -/
inductive MsixOp where
  | enable (on : Bool)
  | table (dword : Fin 8192) (be : BitVec 4) (v : BitVec 32)
  deriving DecidableEq, Repr

/-- What a module's management data declare of its interface (R342): copper, short-reach optics, or another. -/
inductive Module where
  | copper | shortReach | other
  deriving DecidableEq, Repr

/-- The parameters of an Ethernet port whose write takes its links down (R342). -/
inductive EthParam where
  | mode | fec | an
  deriving DecidableEq, Repr

/-- The parameters of a receive queue whose write empties it (R374). -/
inductive RqParam where
  | kind | value | ports
  deriving DecidableEq, Repr

/-- The two codec assignments (R162, R174). -/
inductive CodecUse where
  | ingest | taps
  deriving DecidableEq, Repr

/-- An operation of R39 that needs a grant. -/
inductive PowerOp where
  | keeperWrite (bank : Nat)
  | bringUp (s : Nat)
  | laneAttempt (s lane : Nat)
  | insole
  | skiver (k : Nat)
  | huskJob (codec : Nat)
  | huskStanding (codec : Nat)
  | sweepBurst
  | scrubBurst
  | clusterWake (n : Nat)
  deriving DecidableEq, Repr

/-- The commands of Flaed: one constructor per row of spec/opcode_table.json, in the table's order. -/
inductive Instr where
  /-- FRAME_BOUNDARY (R21): At the aligned instant that ends a surface's raster, the surface samples the panel temperature, applies the thermal stage, applies the pending commit, increments the frame number and opens the new frame record. -/
  | frameBoundary (surf : Surface)
  /-- FRAME_RECORD_PUBLISH (R38): The completed frame record of the previous frame, with its digest and flags, is published within 2 band periods after the boundary. -/
  | frameRecordPublish (surf : Surface)
  /-- COMMIT_DEADLINE (R193): Four band periods before a boundary the surface forms its cue step and implicit commit and evaluates up to 8 pending commits in ID order. -/
  | commitDeadline (surf : Surface) (seen : Seen)
  /-- BAND_DISPATCH (R108): At raster position 22 + b the tiles of active band b are queued for dispatch. -/
  | bandDispatch (surf : Surface)
  /-- TILE_ASSIGN (R109): The dispatcher gives the queued tile of earliest due time to the lowest ACTIVE cluster that holds fewer than 2 tiles. -/
  | tileAssign
  /-- TILE_COMPLETE (R110): A cluster writes the last ray of a tile into the band ring slot and sets the tile's done bit. `fills` lists what the cluster fetched into its cache for the tile. -/
  | tileComplete (c : Fin 16) (fills : List Fill) (seen : Seen)
  /-- SLOT_RELEASE (R111): At raster position 25 + b the slot of band b is released and its unfinished tiles are discarded or abandoned. `test` lists the words of the slot whose pattern test shows an error. -/
  | slotRelease (surf : Surface) (test : List (Nat × Finding))
  /-- RAY_LINE_START (R216): At each ray line of an active band the Last generator samples done bits, reads and sends the ray line, filling columns from the first undone tile. `bad` lists the rays (96 times column plus ray) whose ring word reads with an uncorrectable error. -/
  | rayLineStart (surf : Surface) (bad : List (Fin 92160))
  /-- TAP_ROW_CODED (R222): An encoder serving taps finishes coding a complete tap block row into the tap slot. -/
  | tapRowCoded (surf : Surface) (k : Fin 8) (seen : Seen)
  /-- TAP_FRAME_HEADER_WRITE (R225): After the frame record is published the tap frame header is written, TAP_HEAD advances and TAP_READY is posted. -/
  | tapFrameHeaderWrite (surf : Surface) (k : Fin 8) (seen : Seen)
  /-- MEMORY_READ (R277): A read request is checked, queued and served by its pseudo-channel, with correction, poison handling or zeros for uninitialised rows. `seen`: errors the check finds and how long the parts waited. -/
  | memoryRead (m : Master) (port : Port) (addr len : Nat) (seen : Seen)
  /-- MEMORY_WRITE (R274): A write request replaces whole code words or performs a read-modify-write, initialising an uninitialised row first. `seen` as for MEMORY_READ. -/
  | memoryWrite (m : Master) (port : Port) (addr : Nat) (data : List Byte) (seen : Seen)
  /-- CORRECTED_WRITE_BACK (R299): A corrected or poison write-back is issued, or dropped when a newer write to the word was accepted. The oldest waiting write-back. -/
  | correctedWriteBack (seen : Seen)
  /-- PIP_FREEZE_WATCHDOG (R32): 50 ms after all four Pip cores are frozen the hardware watchdog performs a warm restart. -/
  | pipFreezeWatchdog
  /-- POWER_GRANT_REQUEST (R40): An operation of R39 asks the governor for its fixed amount in its class. -/
  | powerGrantRequest (op : PowerOp)
  /-- POWER_GRANT (R41): The governor grants the head request of a class when its amount fits in free and no HIGH request waits ahead of a NORMAL one. -/
  | powerGrant
  /-- POWER_GRANT_RETURN (R39): A completed or abandoned operation returns its grant, or withdraws its waiting request. -/
  | powerGrantReturn (op : PowerOp)
  /-- PW_CEILING_WRITE (R43): A write of the admission ceiling is refused below the base and surface reservations, or applies at once to new requests. -/
  | pwCeilingWrite (acc : Accessor) (v : BitVec 16)
  /-- CAL_LOAD_VALIDATE (R56): CAL_LOAD 1 sets the slot LOADING and starts background validation of its region. `k` is the slot's parameter instance (R55). -/
  | calLoadValidate (acc : Accessor) (k : Fin 64)
  /-- CAL_LOAD_EMPTY (R56): CAL_LOAD 2 returns the calibration slot to EMPTY. -/
  | calLoadEmpty (acc : Accessor) (k : Fin 64)
  /-- CAL_VALIDATION_DONE (R56): Background validation of a calibration region ends and the slot becomes VALID or INVALID. -/
  | calValidationDone (k : Fin 64) (seen : Seen)
  /-- CAL_SLOT_WRITE (R56): A write to subindex 0x02 to 0x07 of a slot is refused when busy or LOADING, and makes a VALID slot INVALID. -/
  | calSlotWrite (acc : Accessor) (k : Fin 64) (p : CalParam) (v : Nat)
  /-- LUT_WRITE (R62): A LUT write is held in the shadow copy, or refused with CAL_SLOT_BUSY while an earlier write is not yet taken. `l`: 0 to 7 input LUTs, 8 to 11 output LUTs. -/
  | lutWrite (acc : Accessor) (l : Fin 12) (v : Nat)
  /-- PG_LOAD_VERIFY (R128): PG_LOAD 1 reads the image from PG_ADDR and starts its signature and length verification. -/
  | pgLoadVerify (acc : Accessor) (p : Fin 2)
  /-- PG_LOAD_EMPTY (R139): PG_LOAD 2 returns the program slot to EMPTY. -/
  | pgLoadEmpty (acc : Accessor) (p : Fin 2)
  /-- PG_LOAD_DONE (R128): Program verification ends and the slot becomes VALID or INVALID. `version` and `k` (PG_K) are what the image declares. -/
  | pgLoadDone (p : Fin 2) (version : BitVec 32) (k : BitVec 80) (seen : Seen)
  /-- HZ_PROG_TARGET (R129): A write of the target slot starts a program swap or is refused with reason CAPACITY. -/
  | hzProgTarget (acc : Accessor) (p : Fin 2)
  /-- CLUSTER_LOAD_DONE (R131): A SWAPPING cluster finishes loading its image and self-test, or fails and the swap is ABORTED. -/
  | clusterLoadDone (n : Fin 16) (ok : Bool)
  /-- ENGINE_FAULT_FENCE (R132): A parity, register-file or overrun fault fences an engine, reruns its hogels and may fence the whole cluster. `regFile`: a register-file check error; else a parity error. -/
  | engineFaultFence (n : Fin 16) (mask : BitVec 16) (regFile : Bool)
  /-- HOGEL_OVERRUN (R132): A hogel's cycle count reaches C_band on its engine, which is an overrun that fences the engine. `mask`: the engines whose hogel ran for `cycles` cycles. -/
  | hogelOverrun (n : Fin 16) (mask : BitVec 16) (cycles : Nat)
  /-- CLUSTER_FAULT_FENCE (R132): An uncorrectable cache tag error or decoder fault fences the whole cluster and requeues its tiles. -/
  | clusterFaultFence (n : Fin 16) (decoder : Bool)
  /-- ARRAY_PARAM_WRITE (R133): A write of a host fence, cluster enable, share, byte rate or HZ down-spread is checked against the budgets and held pending for the next array boundary. -/
  | arrayParamWrite (acc : Accessor) (p : ArrayParam) (v : Nat)
  /-- CL_FAULT_CLEAR (R134): A write of CL_FAULT_CLEAR starts self-test of the named engines or cluster. -/
  | clFaultClear (acc : Accessor) (n : Fin 16) (mask : BitVec 16)
  /-- SELF_TEST_DONE (R134): A cluster or engine self-test ends; on a pass it rejoins at the next array boundary, on a failure it stays fenced. -/
  | selfTestDone (n : Fin 16) (pass : Bool)
  /-- CLUSTER_WAKE_DONE (R134): A granted gated cluster has woken and run self-test, returns its grant and waits for the next array boundary. -/
  | clusterWakeDone (n : Fin 16)
  /-- GC_TAIL_WRITE (R163): The host posts general codec jobs by writing GC_TAIL. `n`: encoders 0 to 3, decoders 4 to 7. -/
  | gcTailWrite (acc : Accessor) (n : Fin 8) (tail : BitVec 16)
  /-- GC_JOB_START (R165): A general codec takes the job at GC_HEAD, validates its descriptor and requests its grant. -/
  | gcJobStart (n : Fin 8) (seen : Seen)
  /-- GC_JOB_RUN (R171): A ring job whose grant is given starts reading its input. -/
  | gcJobRun (n : Fin 8)
  /-- GC_JOB_END (R170): A job ends in success or failure, writes its record, advances GC_HEAD and posts HUSK_JOB_DONE. -/
  | gcJobEnd (n : Fin 8) (seen : Seen)
  /-- GC_ENABLE_DISABLE (R172): GC_ENABLE 0 drains or abandons the running job by GC_DRAIN and disables the codec. `done`: tiles of the running job complete by then. -/
  | gcEnableDisable (acc : Accessor) (n : Fin 8) (done : Nat)
  /-- GC_ENABLE_RESUME (R172): GC_ENABLE 1 resumes the ring at GC_HEAD. -/
  | gcEnableResume (acc : Accessor) (n : Fin 8)
  /-- GC_RING_WRITE (R172): A write of GC_RING_BASE or GC_RING_SIZE is refused with HUSK_RING_BUSY unless the codec is disabled and empty. -/
  | gcRingWrite (acc : Accessor) (n : Fin 8) (p : RingParam) (v : Nat)
  /-- CODEC_ASSIGN_WRITE (R162): A write of HK_INGEST_DEC or HK_TAP_ENC recomputes the assignment of stream slots and taps to codecs. -/
  | codecAssignWrite (acc : Accessor) (u : CodecUse) (v : BitVec 8)
  /-- INGEST_TILE_DECODED (R162): A general decoder finishes decoding an ingest tile on arrival and writes it, or rejects it. -/
  | ingestTileDecoded (slot : Fin 256) (seen : Seen)
  /-- STANDING_GRANT_REQUEST (R171): A codec that begins to serve ingest or taps asks for its standing grant, and returns it when it serves neither. -/
  | standingGrantRequest (n : Fin 8)
  /-- STREAM_TILES_PACKET (R186): A TILES packet is checked by R185 and its tiles are placed in the FILL bank of their frame. `p` is the datagram that arrived at ING_PORT. -/
  | streamTilesPacket (p : List Byte) (seen : Seen)
  /-- STREAM_END_PACKET (R186): An END packet is checked by R185, seals or opens and seals a FILL bank, and may act as GO for its group. `p` is the datagram that arrived at ING_PORT. -/
  | streamEndPacket (p : List Byte) (seen : Seen)
  /-- STR_RING_TAIL_WRITE (R187): The host rings the PCIe stream doorbell by writing STR_RING_TAIL. `acc` is none for the doorbell of F1. -/
  | strRingTailWrite (acc : Option Accessor) (n : Fin 256) (tail : BitVec 16)
  /-- STREAM_PACKET_FETCH (R187): Flaed fetches the next PCIe stream packet in ring order and advances STR_RING_HEAD. `desc`: the 16 bytes of the ring that host memory gives; `p`: the bytes it gives at the address they name. -/
  | streamPacketFetch (n : Fin 256) (desc : BitVec 128) (p : List Byte) (seen : Seen)
  /-- BUF_CTRL_OPEN (R182): BUF_CTRL 1 makes a free bank FILL with the next frame number, or is refused. -/
  | bufCtrlOpen (acc : Accessor) (n : Fin 1024)
  /-- BUF_CTRL_SEAL (R189): BUF_CTRL 2 seals the FILL bank. -/
  | bufCtrlSeal (acc : Accessor) (n : Fin 1024)
  /-- BUF_CTRL_DISCARD (R182): BUF_CTRL 3 frees the FILL bank. -/
  | bufCtrlDiscard (acc : Accessor) (n : Fin 1024)
  /-- BUF_PARAM_WRITE (R181): A write of a buffer's kind, format, store, dimensions, base or conceal mode is checked and frees the FRONT bank when accepted. -/
  | bufParamWrite (acc : Accessor) (n : Fin 1024) (p : BufParam) (v : Nat)
  /-- SEAL_COMPLETE (R182): When decoding and concealment of a SEALING bank end, it becomes READY and replaces any older READY bank. -/
  | sealComplete (n : Fin 1024) (seen : Seen)
  /-- CG_CTRL_OPEN (R195): CG_CTRL 1 opens an IDLE group into STAGING for the writing session. -/
  | cgCtrlOpen (acc : Accessor) (g : Fin 16)
  /-- CG_CTRL_GO (R195): CG_CTRL 2 takes a commit ID and makes the group PENDING, or is refused with CMT_CONFLICT. -/
  | cgCtrlGo (acc : Accessor) (g : Fin 16)
  /-- CG_CTRL_ABORT (R195): CG_CTRL 3 returns a STAGING or REFUSED group to IDLE. -/
  | cgCtrlAbort (acc : Accessor) (g : Fin 16)
  /-- CG_PARAM_WRITE (R195): A write of a group's surfaces, buffers, time, dark permission or trigger is permitted only in IDLE or by the owner in STAGING. -/
  | cgParamWrite (acc : Accessor) (g : Fin 16) (p : GroupParam) (v : Nat)
  /-- CUE_LOAD_VALIDATE (R204): CUE_LOAD 1 sets the cue LOADING and starts checking its region. -/
  | cueLoadValidate (acc : Accessor) (n : Fin 1024)
  /-- CUE_LOAD_EMPTY (R204): CUE_LOAD 2 returns the cue to EMPTY. -/
  | cueLoadEmpty (acc : Accessor) (n : Fin 1024)
  /-- CUE_VALIDATION_DONE (R204): Cue validation ends and the cue becomes VALID or INVALID. -/
  | cueValidationDone (n : Fin 1024) (seen : Seen)
  /-- CUE_PARAM_WRITE (R204): A write of a cue's base, size, CRC or bindings is refused with CUE_BUSY while busy and invalidates a VALID cue. -/
  | cueParamWrite (acc : Accessor) (n : Fin 1024) (p : CueParam) (v : Nat)
  /-- PB_CTRL_ARM (R206): PB_CTRL 1 arms cue playback on the surface or is refused with CUE_INVALID. -/
  | pbCtrlArm (acc : Accessor) (surf : Surface)
  /-- PB_CTRL_STOP (R206): PB_CTRL 2 stops forming cue steps and leaves the state in force. -/
  | pbCtrlStop (acc : Accessor) (surf : Surface)
  /-- LAST_RESYNC (R211): LAST_RESYNC 1 makes the generator realign its frame number at its next boundary. -/
  | lastResync (acc : Accessor) (g : Gen)
  /-- LAST_RATE_WRITE (R214): A write of LAST_RATE becomes a FRAME or DARK value of the timed surfaces, applies at the next boundary, or is refused with LAST_SHARED. -/
  | lastRateWrite (acc : Accessor) (g : Gen) (rate : BitVec 8)
  /-- SO_ENABLE_DISABLE (R220): SO_ENABLE 0 drains to the next boundary or abandons from the next ray line, and the lanes enter electrical idle. -/
  | soEnableDisable (acc : Accessor) (surf : Surface)
  /-- SO_ENABLE_RESUME (R220): SO_ENABLE 1 starts a dark transition at the next boundary and lets the lanes leave electrical idle. -/
  | soEnableResume (acc : Accessor) (surf : Surface)
  /-- TAP_TAIL_WRITE (R226): The host releases tap slots by writing TAP_TAIL. -/
  | tapTailWrite (acc : Accessor) (surf : Surface) (k : Fin 8) (tail : BitVec 16)
  /-- TAP_PARAM_WRITE (R227): A write of a tap's base or slots is refused with TAP_BUSY while enabled, and a TAP_V beyond V_COUNT is refused. -/
  | tapParamWrite (acc : Accessor) (surf : Surface) (k : Fin 8) (p : TapParam) (v : Nat)
  /-- RECEIVER_DETECT_PULSE (R246): Every 1 ms a DETECT lane sends a receiver-detection pulse and leaves DETECT for TRAIN or FAULT when its conditions are met. `present` is what the pulse sees. -/
  | receiverDetectPulse (surf : Surface) (p : Lane) (present : Bool)
  /-- LANE_TIMEOUT (R246): A TRAIN, LOCK, EXCHANGE or RETRAIN timeout expires and the lane goes back to DETECT, to SPARED or to FAULT. -/
  | laneTimeout (surf : Surface) (p : Lane)
  /-- LANE_ACTIVE_ENTRY (R246): A lane whose handshake is complete becomes ACTIVE at the next ray-line begin instant. -/
  | laneActiveEntry (surf : Surface) (p : Lane)
  /-- SPARED_ATTEMPT (R246): Every 1 s a SPARED lane runs one TRAIN, LOCK and EXCHANGE attempt. -/
  | sparedAttempt (surf : Surface) (p : Lane)
  /-- CAPS (R262): A CAPS message from the panel is held as new, starting a bring-up, or recorded as a repeat, and incompatible CAPS fault every lane. `raw`: the blocks that arrive on return lane `r`, IDLE blocks and then the message. -/
  | caps (surf : Surface) (r : RLane) (raw : List RBlock)
  /-- LANE_STATUS (R261): A LANE_STATUS message updates lane locks, error counts and eyes, and may trigger retraining or automatic sparing. `raw` as for CAPS. -/
  | laneStatus (surf : Surface) (r : RLane) (raw : List RBlock)
  /-- EQ_REQ (R245): An EQ_REQ from the panel requests new transmitter coefficients for a lane in EXCHANGE. `raw` as for CAPS. -/
  | eqReq (surf : Surface) (r : RLane) (raw : List RBlock)
  /-- EQ_APPLY (R245): An accepted coefficient request is applied at the first training group beginning 2 µs after it, or echoed as rejected. -/
  | eqApply (surf : Surface) (p : Lane)
  /-- EQ_DONE (R245): An EQ_DONE message ends coefficient negotiation of a lane. `raw` as for CAPS. -/
  | eqDone (surf : Surface) (r : RLane) (raw : List RBlock)
  /-- EQ_NEGOTIATION_TIMEOUT (R245): 8 ms after entering EXCHANGE, negotiation ends and the coefficients in force stay. -/
  | eqNegotiationTimeout (surf : Surface) (p : Lane)
  /-- SPARE_REQ (R254): A SPARE_REQ from the panel spares the named lane permanently when automatic sparing is on. `raw` as for CAPS. -/
  | spareReq (surf : Surface) (r : RLane) (raw : List RBlock)
  /-- SPARE_ACK (R253): A SPARE_ACK from the panel acknowledges a logical lane move. `raw` as for CAPS. -/
  | spareAck (surf : Surface) (r : RLane) (raw : List RBlock)
  /-- SENSORS (R260): A SENSORS message updates WL_PANEL_SENSORS used as a panel temperature source. `raw` as for CAPS. -/
  | sensors (surf : Surface) (r : RLane) (raw : List RBlock)
  /-- CAL_BEGIN (R263): A CAL_BEGIN message starts a panel calibration delivery or answers BUSY, SIZE or ORDER. `raw` as for CAPS. -/
  | calBegin (surf : Surface) (r : RLane) (raw : List RBlock)
  /-- CAL_DATA (R263): A CAL_DATA message writes its region bytes at CAL_BASE plus OFFSET, or ends the delivery with ORDER. `raw` as for CAPS. -/
  | calData (surf : Surface) (r : RLane) (raw : List RBlock) (seen : Seen)
  /-- CAL_END (R263): A CAL_END message checks completeness and CRC and makes the slot VALID or INVALID with CAL_RESULT. `raw` as for CAPS. -/
  | calEnd (surf : Surface) (r : RLane) (raw : List RBlock) (seen : Seen)
  /-- CAL_NONE (R260): A CAL_NONE message tells Flaed the panel holds no set of the requested kind. `raw` as for CAPS. -/
  | calNone (surf : Surface) (r : RLane) (raw : List RBlock)
  /-- PRBS_REPORT (R265): A PRBS_REPORT adds the panel's bit error counts to each lane's WL_PRBS_ERR. `raw` as for CAPS. -/
  | prbsReport (surf : Surface) (r : RLane) (raw : List RBlock)
  /-- RETURN_LANE_LOCK (R258): 64 consecutive valid sync headers make a return lane LOCKED. `raw` as for CAPS: what arrives up to the block that completes 64 valid sync headers. -/
  | returnLaneLock (surf : Surface) (r : RLane) (raw : List RBlock)
  /-- RETURN_LANE_UNLOCK (R258): 16 invalid sync headers within 64 blocks make a return lane leave LOCKED, raising WELT_RETURN_LOST when both are down. `raw` as for CAPS: what arrives up to the block that completes 16 invalid sync headers of 64. -/
  | returnLaneUnlock (surf : Surface) (r : RLane) (raw : List RBlock)
  /-- CAPS_HOLD_EXPIRE (R262): After 100 ms with neither return lane LOCKED, the held CAPS is discarded. -/
  | capsHoldExpire (surf : Surface)
  /-- FWD_MSG_RESEND (R259): A forward message unacknowledged for 100 µs is resent, and after 8 resends WELT_MSG_LOST is raised. -/
  | fwdMsgResend (surf : Surface)
  /-- LANE_IDLE_ENTRY (R249): An idle order sends 4 EIE blocks and puts the lane in electrical idle. -/
  | laneIdleEntry (surf : Surface) (p : Lane)
  /-- BLANK_IDLE_EXIT (R249): Under WL_BLANK_IDLE, 2 µs before raster position 23 the lanes are ordered out of idle. -/
  | blankIdleExit (surf : Surface)
  /-- FASTWAKE_DONE (R250): A FASTWAKE burst ends and the lane is ACTIVE from the next ray-line begin instant. -/
  | fastwakeDone (surf : Surface) (p : Lane)
  /-- SPARE_EFFECT (R253): At the effect line a logical lane moves to its new physical lane, the spare map updates and WELT_SPARED is raised. -/
  | spareEffect (surf : Surface) (l : Fin 80)
  /-- SPARE_ACK_TIMEOUT (R253): No SPARE_ACK within 100 µs of the effect line is counted in WL_SPARE_NOACK. -/
  | spareAckTimeout (surf : Surface) (l : Fin 80)
  /-- WL_CTRL_RETRAIN (R251): WL_CTRL 1 orders RETRAIN of the lane, covering its logical lane with a free spare. -/
  | wlCtrlRetrain (acc : Accessor) (surf : Surface) (p : Lane)
  /-- WL_CTRL_SPARE (R254): WL_CTRL 2 spares the lane permanently, or raises WELT_NO_SPARE. -/
  | wlCtrlSpare (acc : Accessor) (surf : Surface) (p : Lane)
  /-- WL_CTRL_RETRY (R246): WL_CTRL 3 returns a FAULT lane to DETECT. -/
  | wlCtrlRetry (acc : Accessor) (surf : Surface) (p : Lane)
  /-- WL_MAP_RESET (R255): WL_MAP_RESET restores the default spare map and clears marks at the next bring-up. -/
  | wlMapReset (acc : Accessor) (surf : Surface)
  /-- WL_CAL_FETCH (R263): WL_CAL_FETCH sends CAL_REQ for a ray map or gain set. -/
  | wlCalFetch (acc : Accessor) (surf : Surface) (gain : Bool)
  /-- WL_PRBS_MODE (R265): A write of WL_PRBS_MODE sends TEST_CMD and puts the lane in TEST, or is refused with WL_BUSY. -/
  | wlPrbsMode (acc : Accessor) (surf : Surface) (p : Lane) (mode : Fin 4)
  /-- PRBS_START (R265): 100 µs after TEST_CMD the lane begins sending the raw PRBS pattern. -/
  | prbsStart (surf : Surface) (p : Lane)
  /-- WR_PRBS_MODE (R266): A write of WR_PRBS_MODE asks the panel to send a PRBS pattern on a return lane, or returns it to 64b/66b. -/
  | wrPrbsMode (acc : Accessor) (surf : Surface) (r : RLane) (mode : Fin 4)
  /-- REFRESH (R292): A controller refreshes one bank per its refresh schedule. -/
  | refresh (pc : Fin 64)
  /-- STACK_TEMP_READ (R293): Every 1 ms a controller reads its stack temperature and doubles or restores the refresh rate. `temp` is Q8.4. -/
  | stackTempRead (stack : Fin 2) (temp : BitVec 16)
  /-- NEIGHBOUR_REFRESH (R294): A scheduled refresh of the two rows adjacent to an activated row is performed. -/
  | neighbourRefresh (pc bank : Fin 64)
  /-- RETRAIN_DUE (R295): At c × 3,125 µs of each 100 ms period, periodic retraining of channel c falls due. -/
  | retrainDue (c : Fin 32)
  /-- RETRAIN_PAUSE (R295): A retraining pause starts when no urgent PLANE request waits, or after 2 ms, and measures and adjusts one eye. `urgent`: a PLANE request at urgency 2 or 3 waits; `width` (1/64 UI; 0 no eye) and `height` (mV) are what the pause measures, `delay` and `vref` the settings in the middle of the eye, in steps. -/
  | retrainPause (c : Fin 32) (urgent : Bool) (width : Fin 65) (height : BitVec 16) (delay vref : BitVec 16) (seen : Seen)
  /-- CH_RETRAIN_NOW (R295): CH_RETRAIN_NOW 1 runs one retraining of the channel at once. -/
  | chRetrainNow (acc : Accessor) (c : Fin 32)
  /-- MS_RETRAIN_EN_DISABLE (R295): MS_RETRAIN_EN 0 drains or abandons retraining in progress by MS_RETRAIN_DRAIN. -/
  | msRetrainEnDisable (acc : Accessor)
  /-- SWEEP_BURST (R281): A granted initialisation sweep burst zeroes the next 256 local rows of every pseudo-channel. -/
  | sweepBurst (seen : Seen)
  /-- SCRUB_BURST (R297): A granted central-store scrub burst reads code words in idle cycles and corrects or poisons them. `found` lists the code words whose check finds an error. -/
  | scrubBurst (seen : Seen)
  /-- CACHE_SCRUB (R297): The cache scrubber checks cluster cache lines in idle cycles and invalidates uncorrectable lines. `last`: the line ends the lap. -/
  | cacheScrub (n : Fin 16) (found : Option Finding) (last : Bool)
  /-- SC_ENABLE_DISABLE (R300): SC_ENABLE 0 drains or abandons the current scrub work by SC_DRAIN. -/
  | scEnableDisable (acc : Accessor) (k : Fin 4)
  /-- SC_ENABLE_RESUME (R300): SC_ENABLE 1 resumes the walk at SC_POSITION. -/
  | scEnableResume (acc : Accessor) (k : Fin 4)
  /-- WIN_APPLY (R301): WIN_APPLY 1 checks every staged window and brings them all into force, or sets WIN_BAD. -/
  | winApply (acc : Accessor)
  /-- MS_RELEASE (R303): MS_RELEASE releases a frozen master to its idle state, or is refused with MASTER_NOT_FROZEN. -/
  | msRelease (acc : Accessor) (m : Master)
  /-- PN_CLEAR (R309): PN_CLEAR 1 empties the poison log and zeroes PN_LOST. -/
  | pnClear (acc : Accessor)
  /-- LC_SH_DESC_WRITE (R315): A write of the shadow descriptor, refused with LACE_BUSY while armed. -/
  | lcShDescWrite (acc : Accessor) (n : Fin 64) (d : BitVec 512)
  /-- LC_ARM (R315): LC_ARM 1 arms the shadow descriptor. -/
  | lcArm (acc : Accessor) (n : Fin 64)
  /-- LC_DISARM (R315): LC_ARM 2 returns an armed shadow not yet taken to EMPTY. -/
  | lcDisarm (acc : Accessor) (n : Fin 64)
  /-- LACE_DESCRIPTOR_START (R316): A lace takes its next descriptor from the shadow or NEXT and checks it by R314. -/
  | laceDescriptorStart (n : Fin 64) (seen : Seen)
  /-- LACE_BURST (R318): A lace starts the next burst when its peripheral request permits it. `src` and `dst` are the bytes that completions on F2 bring for a HOST source and for a HOST destination of a COMPARE; `withdrawn`: a level request is withdrawn after the burst's first memory request. -/
  | laceBurst (n : Fin 64) (src dst : List Byte) (withdrawn : Bool) (seen : Seen)
  /-- LACE_COMPLETE (R320): A descriptor's bytes are all complete, its record is written and LACE_DONE is posted. -/
  | laceComplete (n : Fin 64) (seen : Seen)
  /-- LACE_HALF (R321): The first half of a descriptor's bytes is complete and LACE_HALF is posted. -/
  | laceHalf (n : Fin 64)
  /-- LACE_ERROR (R323): A descriptor error, poison, Keeper refusal or window failure ends one lace's chain in ERROR. -/
  | laceError (n : Fin 64) (e : LaceFault)
  /-- LACE_BUS_ERROR (R324): A bus error stops all laces from issuing requests. `cause` + 1 is the code of LS_BUS_CAUSE. -/
  | laceBusError (n : Fin 64) (cause : Fin 6) (addr : BitVec 64)
  /-- LACE_BUS_STOPPED (R324): When the last in-flight request ends, LS_BUS_STATE becomes STOPPED, laces are STOPPED and LACE_BUS_ERROR is raised. -/
  | laceBusStopped
  /-- LS_BUS_CLEAR (R325): LS_BUS_CLEAR 1 resets the prefetcher and lets laces run again. -/
  | lsBusClear (acc : Accessor)
  /-- LC_CTRL_RESUME (R325): LC_CTRL 1 reruns a stopped or failed descriptor from LC_DONE. -/
  | lcCtrlResume (acc : Accessor) (n : Fin 64)
  /-- LC_CTRL_ABANDON (R325): LC_CTRL 2 makes a stopped or failed lace IDLE. -/
  | lcCtrlAbandon (acc : Accessor) (n : Fin 64)
  /-- LC_ENABLE_DISABLE (R326): LC_ENABLE 0 drains or abandons the lace's descriptor by LC_DRAIN. -/
  | lcEnableDisable (acc : Accessor) (n : Fin 64)
  /-- LC_ENABLE_RESUME (R326): LC_ENABLE 1 makes the lace IDLE so an armed shadow starts. -/
  | lcEnableResume (acc : Accessor) (n : Fin 64)
  /-- SK_TAIL_WRITE (R329): The host posts Skiver jobs by writing SK_TAIL. -/
  | skTailWrite (acc : Accessor) (k : Fin 4) (tail : BitVec 16)
  /-- SK_JOB_START (R333): A Skiver takes the job at SK_HEAD, checks it and requests a grant for a large destination. -/
  | skJobStart (k : Fin 4) (seen : Seen)
  /-- SK_JOB_END (R339): A Skiver job ends, writes its record, advances SK_HEAD and posts SKIVER_DONE. -/
  | skJobEnd (k : Fin 4) (seen : Seen)
  /-- SK_ENABLE_DISABLE (R340): SK_ENABLE 0 drains or abandons the running Skiver job. Under ABANDON, `done` pixels of the running job have been written. -/
  | skEnableDisable (acc : Accessor) (k : Fin 4) (done : Nat)
  /-- SK_ENABLE_RESUME (R340): SK_ENABLE 1 resumes the Skiver ring at SK_HEAD. -/
  | skEnableResume (acc : Accessor) (k : Fin 4)
  /-- SK_RING_WRITE (R340): A write of SK_RING_BASE or SK_RING_SIZE is refused with SKIVER_RING_BUSY unless disabled and empty. -/
  | skRingWrite (acc : Accessor) (k : Fin 4) (p : RingParam) (v : Nat)
  /-- ETH_FRAME_RECEIVE (R348): A frame arriving at a port is forwarded by cut-through or store and delivered to the device by the switch table. `f` runs from the destination address to the end of the payload; `bad`: its FCS fails or an FEC code word is uncorrectable; `corr` and `uncorr` are the FEC code words corrected and uncorrectable since the last frame; `rx` is its time stamp at the ball and `tx` that of its egress where it leaves at once, in 2^-48 ns. -/
  | ethFrameReceive (port : Fin 2) (sub : Fin 4) (f : List Byte) (bad : Bool) (corr uncorr rx tx : Nat)
  /-- ETH_MODE_WRITE (R342): A write of ETH_MODE, ETH_FEC or ETH_AN takes the port down and brings it up in the new setting. -/
  | ethModeWrite (acc : Accessor) (port : Fin 2) (p : EthParam) (v : BitVec 8)
  /-- LINK_UP (R342): A link comes up and LINK_UP is raised. `m`: what the module's management data declare. -/
  | linkUp (port : Fin 2) (sub : Fin 4) (m : Module)
  /-- LINK_DOWN (R342): A link goes down, its PTP port becomes FAULTY and LINK_DOWN is raised. -/
  | linkDown (port : Fin 2) (sub : Fin 4)
  /-- RQ_PARAM_WRITE (R374): A write of a receive queue's kind, value or ports empties the queue. -/
  | rqParamWrite (acc : Accessor) (q : Fin 64) (p : RqParam) (v : Nat)
  /-- PTP_SYNC (R361): A Sync message gives an offset that drives the servo's step, slew and lock state. Times and corrections are in 2^-16 ns; `log` is logMessageInterval. -/
  | ptpSync (port : Fin 2) (h : PtpHead) (source : BitVec 80) (log : BitVec 8) (t1 : Nat) (corr : Int) (t2 : Nat)
  /-- PTP_ANNOUNCE (R359): An Announce message feeds the best master clock algorithm and port states. -/
  | ptpAnnounce (port : Fin 2) (a : Announce)
  /-- PTP_ANNOUNCE_TIMEOUT (R359): PTP_ANN_TIMEOUT intervals without an Announce lose the master, sending the servo to HOLDOVER. -/
  | ptpAnnounceTimeout (port : Fin 2)
  /-- PTP_DELAY_RESP (R358): A Delay_Resp message updates the mean path delay and the Delay_Req interval. `every` is the Delay_Req interval the master states. -/
  | ptpDelayResp (port : Fin 2) (h : PtpHead) (seq : BitVec 16) (t4 : Nat) (corr : Int) (every : BitVec 8)
  /-- PTP_DELAY_REQ_SEND (R358): Flaed sends a Delay_Req at the interval the master states. `t3` is its time stamp at the ball, 2^-16 ns. -/
  | ptpDelayReqSend (t3 : Nat)
  /-- PDELAY_REQ_SEND (R365): Under P2P each enabled port sends Pdelay_Req once per second. `t1` is its time stamp at the ball, 2^-16 ns. -/
  | pdelayReqSend (port : Fin 2) (t1 : Nat)
  /-- PDELAY_REQ (R365): A received Pdelay_Req is answered with a one-step Pdelay_Resp. `t2` is its arrival and `t3` the departure of the answer. -/
  | pdelayReq (port : Fin 2) (h : PtpHead) (seq : BitVec 16) (corr : Int) (t2 t3 : Nat)
  /-- PDELAY_RESP (R365): A received Pdelay_Resp updates PP_PEER_DELAY. `corr` is the whole correction of the answer and `t4` its arrival. -/
  | pdelayResp (port : Fin 2) (h : PtpHead) (seq : BitVec 16) (corr : Int) (t4 : Nat)
  /-- PTP_MANAGEMENT (R358): A management message from the grandmaster records its SMPTE metadata TLV in PTP_SMPTE. -/
  | ptpManagement (h : PtpHead) (gm : BitVec 64) (tlv : List Byte)
  /-- TB_SOURCE_WRITE (R356): A change of TB_SOURCE switches the timebase discipline keeping count and rate. -/
  | tbSourceWrite (acc : Accessor) (v : BitVec 8)
  /-- TB_SET (R356): Under FREE, TB_SET steps the count; otherwise it is refused with TB_BUSY. -/
  | tbSet (acc : Accessor) (time : BitVec 64)
  /-- TB_ADJ (R356): Under FREE, TB_ADJ sets TB_RATE; otherwise it is refused with TB_BUSY. -/
  | tbAdj (acc : Accessor) (rate : BitVec 32)
  /-- SYNC_IN_EDGE (R369): A rising SYNC_IN edge is time-stamped, may discipline the timebase, and performs an armed divider alignment. `stamp` is the time of the edge in 2^-16 ns. -/
  | syncInEdge (stamp : Nat)
  /-- SYNC_IN_HOLDOVER (R369): 3 s without an accepted SYNC_IN edge puts the SYNC_IN discipline in HOLDOVER. -/
  | syncInHoldover
  /-- EYE_CTRL_ARM (R367): EYE_CTRL 1 starts the eyelet output in its mode or is refused with EYE_PAST or EYE_BAD. -/
  | eyeCtrlArm (acc : Accessor) (e : Fin 8)
  /-- EYE_CTRL_DISARM (R367): EYE_CTRL 2 stops further assert edges. -/
  | eyeCtrlDisarm (acc : Accessor) (e : Fin 8)
  /-- EYE_PARAM_WRITE (R367): A write of an eyelet's timing parameters is refused with EYE_BUSY while armed. -/
  | eyeParamWrite (acc : Accessor) (e : Fin 8) (p : EyeParam) (v : Nat)
  /-- EYE_ASSERT_EDGE (R368): The timebase reaches an edge time and the eyelet output asserts, counting the edge and signalling the lace request. -/
  | eyeAssertEdge (e : Fin 8)
  /-- EYE_PULSE_END (R366): An eyelet pulse ends after its width. -/
  | eyePulseEnd (e : Fin 8)
  /-- CAPTURE_EDGE (R370): A filtered edge on an eyelet capture writes a time-stamp record and posts EYE_CAPTURE, or overflows. `held`: how long the level held, in ns; `stamp`: the edge's time in 2^-16 ns. -/
  | captureEdge (e : Fin 8) (fall : Bool) (held stamp : Nat)
  /-- CAP_READ (R370): A read of CAP_READ returns and removes every held capture record. -/
  | capRead (acc : Accessor) (e : Fin 8)
  /-- PLOVAN_OPEN (R389): An OPEN request opens a session, binding a stream slot and keying authentication, or is refused. `p` is the UDP payload that arrived at PLV_PORT from MAC address `mac`, address `src` (an IPv4 address mapped) and UDP port `srcPort`. -/
  | plovanOpen (port : Fin 2) (sub : Fin 4) (mac : BitVec 48) (src : BitVec 128) (srcPort : BitVec 16) (p : List Byte)
  /-- PLOVAN_CLOSE (R392): A CLOSE request closes the session. Operands as for PLOVAN_OPEN. -/
  | plovanClose (port : Fin 2) (sub : Fin 4) (mac : BitVec 48) (src : BitVec 128) (srcPort : BitVec 16) (p : List Byte)
  /-- PLOVAN_KEEPALIVE (R387): A KEEPALIVE request resets the session's idle timer. Operands as for PLOVAN_OPEN. -/
  | plovanKeepalive (port : Fin 2) (sub : Fin 4) (mac : BitVec 48) (src : BitVec 128) (srcPort : BitVec 16) (p : List Byte)
  /-- PLOVAN_READ (R387): A READ request reads its items in order. Operands as for PLOVAN_OPEN. -/
  | plovanRead (port : Fin 2) (sub : Fin 4) (mac : BitVec 48) (src : BitVec 128) (srcPort : BitVec 16) (p : List Byte)
  /-- PLOVAN_WRITE (R381): A WRITE request performs its items consecutively, each succeeding or failing on its own. Operands as for PLOVAN_OPEN. -/
  | plovanWrite (port : Fin 2) (sub : Fin 4) (mac : BitVec 48) (src : BitVec 128) (srcPort : BitVec 16) (p : List Byte)
  /-- PLOVAN_DESCRIBE (R384): A DESCRIBE request returns the descriptor of each named parameter. Operands as for PLOVAN_OPEN. -/
  | plovanDescribe (port : Fin 2) (sub : Fin 4) (mac : BitVec 48) (src : BitVec 128) (srcPort : BitVec 16) (p : List Byte)
  /-- PLOVAN_SUBSCRIBE (R402): A SUBSCRIBE request adds the session as subscriber of each named queue. Operands as for PLOVAN_OPEN. -/
  | plovanSubscribe (port : Fin 2) (sub : Fin 4) (mac : BitVec 48) (src : BitVec 128) (srcPort : BitVec 16) (p : List Byte)
  /-- PLOVAN_UNSUBSCRIBE (R402): An UNSUBSCRIBE request ends the session's subscription of each named queue. Operands as for PLOVAN_OPEN. -/
  | plovanUnsubscribe (port : Fin 2) (sub : Fin 4) (mac : BitVec 48) (src : BitVec 128) (srcPort : BitVec 16) (p : List Byte)
  /-- SESSION_TIMEOUT (R392): PLV_TIMEOUT passes without a valid datagram and the session closes. -/
  | sessionTimeout (n : Fin 1024)
  /-- SS_CLOSE (R392): SS_CLOSE 1 closes the session. -/
  | ssClose (acc : Accessor) (n : Fin 1024)
  /-- PLV_KEY_SET (R393): A write of PLV_KEY_SET adds, replaces or deletes a key and closes sessions opened with it. `v` is the BLOB of 36 bytes. -/
  | plvKeySet (acc : Accessor) (v : BitVec 288)
  /-- WINDOW_READ (R397): A dword read in a PCIe dictionary window reads a parameter, filling the latch for wide values and BLOBs. `dword` counts dwords of the region (R395). -/
  | windowRead (f3 : Bool) (region : Region) (dword : BitVec 24)
  /-- WINDOW_WRITE (R397): A dword write at a parameter offset in a PCIe window performs the write, taking wide values from the latch. `be`: the byte enables. -/
  | windowWrite (f3 : Bool) (dword : BitVec 24) (be : BitVec 4) (v : BitVec 32)
  /-- LATCH_WRITE (R397): A write into a function's latch stages upper words or BLOB bytes. -/
  | latchWrite (f3 : Bool) (dword : BitVec 14) (be : BitVec 4) (v : BitVec 32)
  /-- PARAMETER_WRITE (R380): A write of a parameter without its own row is checked by R380 and takes effect by its commit class. `data` is the value as R379 encodes it. -/
  | parameterWrite (acc : Accessor) (index : BitVec 16) (sub : BitVec 8) (data : List Byte)
  /-- KEEP_WRITE (R383): A KEEP value that took effect is written as a record to the Keeper within 2 s. -/
  | keepWrite
  /-- KEEP_RETRY (R383): Every 10 s a refused KEEP write is repeated. -/
  | keepRetry
  /-- NQ_SIGNAL (R402): A queue reaches its coalescing count or time and signals by MSI-X, NOTIFY and IRQ pin. -/
  | nqSignal (q : Fin 2048)
  /-- NQ_READ (R399): A read of NQ_READ returns the held entries, removing them in LOCAL mode. -/
  | nqRead (acc : Accessor) (q : Fin 2048)
  /-- NQ_MODE_WRITE (R403): A write of NQ_MODE sets the mode and empties the queue. -/
  | nqModeWrite (acc : Accessor) (q : Fin 2048) (v : BitVec 8)
  /-- OD_FACTORY (R404): OD_FACTORY 1 returns every KEEP parameter to its default at the next warm restart. -/
  | odFactory (acc : Accessor)
  /-- REFCLK_LOSS (R412): 64 ns without a REFCLK edge sets LOST, treats every PLL as unlocked and moves all domains to the backup oscillator. 64 ns have passed without an edge of REFCLK. -/
  | refclkLoss
  /-- REFCLK_RETURN (R412): 1 ms of valid REFCLK edges sets PRESENT and each PLL relocks. REFCLK has shown valid edges for 1 ms. -/
  | refclkReturn
  /-- BACKUP_PERIOD_MEASURE (R412): Each 1 ms window the backup oscillator period is measured against REFCLK. `period` is the period measured, 2^-16 ns. -/
  | backupPeriodMeasure (period : BitVec 32)
  /-- VCO_SETTLED (R413): 1,024 ns after the domain is on bypass the VCO has settled and the PLL enters SEARCH. -/
  | vcoSettled (k : Fin 7)
  /-- BAND_SEARCH_DONE (R414): The band search ends with a band chosen and written to the table, or FAILED. `counts` lists the counts of bands 0 to 63 over 128 reference cycles. -/
  | bandSearchDone (k : Fin 7) (counts : List Nat)
  /-- PLL_LOCKED (R415): Lock is declared after CK_LOCK_N cycles in the window and the domain switches to the VCO. -/
  | pllLocked (k : Fin 7)
  /-- ACQUIRE_TIMEOUT (R413): 100 µs in ACQUIRE without lock sends the PLL to FAILED. -/
  | acquireTimeout (k : Fin 7)
  /-- PLL_RETRY (R413): A FAILED PLL retries from BYPASS after 1 ms, or every 100 ms after 8 failures. -/
  | pllRetry (k : Fin 7)
  /-- PLL_UNLOCK (R416): A LOCKED PLL loses lock, switches its domain to bypass, raises PLL_UNLOCK and starts relocking, with per-domain effects. -/
  | pllUnlock (k : Fin 7)
  /-- CK_MARGIN_WRITE (R419): A write of CK_MARGIN starts a frequency change or is refused with PLL_BUSY. -/
  | ckMarginWrite (acc : Accessor) (k : Fin 7) (v : BitVec 32)
  /-- CK_RELOCK (R419): CK_RELOCK 1 relocks the PLL or is refused with PLL_BUSY. -/
  | ckRelock (acc : Accessor) (k : Fin 7)
  /-- SSC_RAMP_END (R420): The 1 ms spread modulation ramp of PLL-HZ or PLL-FB ends. `k`: 0 PLL-HZ, 1 PLL-FB. -/
  | sscRampEnd (k : Fin 2)
  /-- CK_SYNC_ARM (R423): CK_SYNC_ARM 1 arms a single alignment of the named Welt dividers. -/
  | ckSyncArm (acc : Accessor)
  /-- THERMAL_SAMPLE (R432): Every 1 ms the die, HBM and panel sensors are read and the thresholds are evaluated. `die`: sensors 0 to 23, Q8.4; `diodes`: forward voltages of panel pairs 0 to 3 at 10 µA and 100 µA, in nV; `rails`: power of the nine rails, 0.25 W. -/
  | thermalSample (die : List (BitVec 16)) (diodes : List (Nat × Nat)) (rails : List (BitVec 16))
  /-- THERMAL_GRACE_EXPIRE (R437): The grace timer expires, raising or lowering the stage due by one. -/
  | thermalGraceExpire
  /-- TH_STAGE_MAX_WRITE (R437): A write of TH_STAGE_MAX lowers the stage due at once when needed. -/
  | thStageMaxWrite (acc : Accessor) (v : BitVec 8)
  /-- TH_SHUT_WRITE (R441): A write of TH_SHUT or TH_RESTART is checked for 10 °C hysteresis and reloaded into the comparators. `restart`: TH_RESTART, otherwise TH_SHUT. -/
  | thShutWrite (acc : Accessor) (restart : Bool) (v : BitVec 16)
  /-- HARDWARE_SHUTDOWN (R439): Two samples at or above TH_SHUT trip the comparator, idling lanes, stopping clocks and reducing rails. -/
  | hardwareShutdown
  /-- THERMAL_RESTART (R440): After 30 s with every die sensor below TH_RESTART a thermal restart runs and THERMAL_SHUTDOWN is raised. -/
  | thermalRestart
  /-- KEEPER_WRITE_START (R450): A page write at the head of its bank is checked, granted and started, or refused with KEEPER_REFUSED. -/
  | keeperWriteStart (bank : Fin 4)
  /-- KEEPER_WRITE_DONE (R450): A page write finishes, the bank's busy flag clears and the grant returns. -/
  | keeperWriteDone (bank : Fin 4)
  /-- TRIWORD_VOTE (R460): Every 1 s the tri-words are voted and disagreeing copies rewritten with TRIWORD_REPAIRED. `drift` lists tri-word copies whose stored value has changed by itself: copy, word and what it now holds. -/
  | triwordVote (drift : List (Fin 3 × Fin 16 × BitVec 64))
  /-- KEEPER_SCRUB (R458): Every 100 ms one Keeper page is read, corrected in place or logged as poisoned. `found` lists the groups of the page that show an error. -/
  | keeperScrub (found : List (Fin 16 × Finding))
  /-- KP_PROTECT_WRITE (R451): A write of KP_PROTECT changes the block-protected pages. -/
  | kpProtectWrite (acc : Accessor) (v : BitVec 8)
  /-- INSOLE_UPDATE_START (R468): A due update starts once enabled, idle, the glass gate open and the grant given, or is held. -/
  | insoleUpdateStart
  /-- INSOLE_FRAME (R465): Each 20 ms frame of an update drives every common slot with the waveform codes. -/
  | insoleFrame
  /-- INSOLE_UPDATE_END (R469): After the last frame the electrodes return to L0, INS_SHOWN takes the new image and the grant returns. -/
  | insoleUpdateEnd
  /-- INSOLE_IMAGE_WRITE (R468): A write of INS_IMAGE changes the pending image and may make an update due. -/
  | insoleImageWrite (acc : Accessor) (image : BitVec 192)
  /-- PWR_FAIL_LOW (R471): PWR_FAIL_N taken as low stops Keeper writes and discharges the Insole electrodes. -/
  | pwrFailLow
  /-- INS_ENABLE_DISABLE (R472): INS_ENABLE 0 drains or abandons the running update. -/
  | insEnableDisable (acc : Accessor)
  /-- INS_ENABLE_RESUME (R472): INS_ENABLE 1 lets a due update start. -/
  | insEnableResume (acc : Accessor)
  /-- SEAM_LOOP_SAMPLE (R474): Every 1 ms each enabled loop is measured and its state changes after SM_DEBOUNCE samples, raising SEAM_OPEN or SEAM_CLOSED. `ohms` lists the resistances measured on loops 0 to 3. -/
  | seamLoopSample (surf : Surface) (ohms : List Nat)
  /-- SM_CLEAR (R475): SM_CLEAR 1 clears SM_LATCHED when every enabled loop is CLOSED. -/
  | smClear (acc : Accessor) (surf : Surface)
  /-- SM_POLICY_WRITE (R476): A write of SM_POLICY ends or evaluates the seam cause at once. -/
  | smPolicyWrite (acc : Accessor) (surf : Surface) (v : BitVec 8)
  /-- SM_ENABLE_WRITE (R476): A write of SM_ENABLE starts or removes loops, new loops starting UNKNOWN. -/
  | smEnableWrite (acc : Accessor) (surf : Surface) (v : BitVec 8)
  /-- POWER_RESET (R480): RST_N rising after power-up resets everything and starts boot. `boot` and `defaultsN` are the straps; `groups` lists, per bank of the Keeper, the groups programmed of a page write that the loss of power cut. -/
  | powerReset (boot : Fin 4) (defaultsN : Bool) (groups : List (Fin 17))
  /-- DEVICE_RESET (R480): RST_N held low for 10 µs while powered resets everything. -/
  | deviceReset (boot : Fin 4) (defaultsN : Bool)
  /-- SV_RESET (R480): SV_RESET 1 starts a DEVICE reset. The straps are sampled at the reset. -/
  | svReset (acc : Accessor) (boot : Fin 4) (defaultsN : Bool)
  /-- WARM_RESTART (R496): The Pip cores are reset and reload the chosen image while the rest of Flaed continues. -/
  | warmRestart
  /-- PCIE_RESET (R483): PERST_N, hot reset or link-down resets the PCIe endpoint and ends HOST lace transfers as bus errors. -/
  | pcieReset
  /-- FIRMWARE_RUNNING (R491): The firmware reaches RUNNING, applies KEEP values and starts serving, generators and bring-up. `version` and `k` are what the image's Hazel program declares (R130); `failed` are the clusters whose self-test fails. -/
  | firmwareRunning (version : BitVec 32) (k : BitVec 80) (failed : BitVec 16)
  /-- STARTUP_DARK_LIMIT (R493): 1,000 ms after RUNNING a surface still dark at start-up lights at its next boundary. -/
  | startupDarkLimit (surf : Surface)
  /-- WATCHDOG_TIMEOUT (R495): A Pip core reports nothing for WD_TIMEOUT and a warm restart runs. -/
  | watchdogTimeout (core : Fin 4)
  /-- FW_PROGRAM (R497): FW_PROGRAM 1 starts verifying and writing the staged image into the target slot. -/
  | fwProgram (acc : Accessor)
  /-- FW_PROGRAM_DONE (R497): Programming ends in DONE or FAILED with FW_IMAGE_BAD. `host`: the image where it comes from host memory; `readBack`: the slot read back as it was written. -/
  | fwProgramDone (host : List Byte) (readBack : Bool) (seen : Seen)
  /-- FW_SWITCH_TRIAL (R498): FW_SWITCH 1 sets the other slot on trial and performs a warm restart. -/
  | fwSwitchTrial (acc : Accessor)
  /-- FW_SWITCH_COMMIT (R498): FW_SWITCH 2 makes the running trial image ACTIVE and raises FW_SWITCHED. -/
  | fwSwitchCommit (acc : Accessor)
  /-- FW_SWITCH_RESTART (R498): FW_SWITCH 3 performs a warm restart under the selector as it stands. -/
  | fwSwitchRestart (acc : Accessor)
  /-- TRIAL_TIMEOUT (R499): FW_TRIAL_TIMEOUT elapses without COMMIT and a warm restart returns to the ACTIVE image. -/
  | trialTimeout
  /-- LIFETIME_MINUTE (R503): Each powered minute the lifetime counters are updated from the minute's highest junction temperature. -/
  | lifetimeMinute
  /-- LIFETIME_HOUR_WRITE (R503): Once per powered hour the lifetime counters are written to the Keeper. -/
  | lifetimeHourWrite
  /-- SMB_READ_JUNCTION (R517): SMBus command 0x00 returns TH_JUNCTION. -/
  | smbReadJunction
  /-- SMB_READ_POWER (R517): SMBus command 0x01 returns PW_TOTAL. -/
  | smbReadPower
  /-- SMB_READ_STATUS (R517): SMBus command 0x02 returns FW_STATE, shutdown and TH_STATE bits. -/
  | smbReadStatus
  /-- SMB_READ_PEAK (R517): SMBus command 0x03 returns TH_LAST_PEAK. -/
  | smbReadPeak
  /-- SMB_READ_SERIAL (R517): SMBus command 0x04 returns ID_SERIAL as an 8-byte block. -/
  | smbReadSerial
  /-- SMB_ALERT_RESPONSE (R517): The SMBus alert response address returns 0x4C while SMB_ALERT_N is low. -/
  | smbAlertResponse
  /-- PWR_FAIL_HIGH (R471): PWR_FAIL_N returns high without a reset, so Keeper page writes may start again and the next Insole update becomes a clear-and-write. -/
  | pwrFailHigh
  /-- PCIE_LINK_UP (R428): The PCIe link comes up, adding the PCIe component to the base reservation and letting the host restart its stream rings. `gen` and `width` are what PCI_LINK shows; `f2`: bus mastering of F2 is enabled. -/
  | pcieLinkUp (gen : Fin 16) (width : Fin 64) (f2 : Bool)
  /-- EGRESS_FRAME_SENT (R349): An Ethernet port finishes sending a frame from an egress queue, frees its room and starts the next frame from the highest non-empty queue. `tx` is the time stamp at the ball, in 2^-48 ns, of the frame the port begins next. -/
  | egressFrameSent (port : Fin 2) (tx : Nat)
  /-- MSIX_ENABLE (R483): The host enables MSI-X or unmasks a vector, so a queue with a pending signal sends its message. a vector is unmasked by a write of its control word, dword 3 of its entry. -/
  | msixEnable (op : MsixOp)
  /-- SSC_RELOCK_RAMP (R420): 1 ms after a PLL that lost lock during a spread ramp relocks unspread, its modulation begins to ramp to the spread setting in force. -/
  | sscRelockRamp (k : Fin 2)
  deriving DecidableEq, Repr

end Sys2Proof
end

