-- ==== Sys2Proof/Decode.lean ====
section
/-! DEFINITION. Commands spelled as words. No row of spec/opcode_table.json gives any bits: Flaed takes
commands at its dictionary, its links and its pins, and none of them is a word. -/
namespace Sys2Proof

/-- The command that a word of `nbits` bits spells: none, as the table gives no row any bits. -/
def decodeTableWord (_nbits _w : Nat) : Option Instr := none

end Sys2Proof
end

