-- ==== Sys2Proof/Machine/Bits.lean ====
section
/-! DEFINITION. Bit fields, two's complement, byte orders and rounding: the helpers every chapter
uses. A register's value is held as the natural number its bits spell (R379: least significant byte
first; a signed type in two's complement). -/
namespace Sys2Proof.Machine

/-- The signed value of the `w`-bit number `v` (two's complement, R379). -/
def asInt (w v : Nat) : Int :=
  if v % 2 ^ w < 2 ^ (w - 1) then (v % 2 ^ w : Nat) else (v % 2 ^ w : Nat) - (2 ^ w : Nat)

/-- The `w`-bit two's complement number of `x`. -/
def ofInt (w : Nat) (x : Int) : Nat := (x % (2 ^ w : Nat)).toNat

/-- Bits `hi` down to `lo` of `v`, as the manual writes [hi:lo]. -/
def bits (v hi lo : Nat) : Nat := (v >>> lo) % 2 ^ (hi + 1 - lo)

/-- Bit `k` of `v`. -/
def bit (v k : Nat) : Bool := v.testBit k

/-- `v` with bits [hi:lo] replaced by `x`. -/
def withBits (v hi lo x : Nat) : Nat :=
  v - (bits v hi lo) * 2 ^ lo + (x % 2 ^ (hi + 1 - lo)) * 2 ^ lo

/-- `v` with bit `k` set or cleared. -/
def setBit (v k : Nat) (on : Bool) : Nat := withBits v k k (if on then 1 else 0)

/-- 1 for true, 0 for false. -/
def b2n (b : Bool) : Nat := if b then 1 else 0

/-- The `n` bytes of `v`, least significant first. -/
def leBytes : Nat → Nat → List Byte
  | 0, _ => []
  | n + 1, v => BitVec.ofNat 8 v :: leBytes n (v >>> 8)

/-- The number whose bytes are listed least significant first. -/
def leNat : List Byte → Nat
  | [] => 0
  | b :: bs => b.toNat + 256 * leNat bs

/-- The number whose bytes are listed most significant first (network order). -/
def beNat (bs : List Byte) : Nat := bs.foldl (fun a b => 256 * a + b.toNat) 0

/-- The `n` bytes of `v`, most significant first (network order). -/
def beBytes (n v : Nat) : List Byte := (leBytes n v).reverse

/-- Bytes `off` to `off + n - 1` of a list as a little-endian number. -/
def leAt (bs : List Byte) (off n : Nat) : Nat := leNat ((bs.drop off).take n)

/-- Bytes `off` to `off + n - 1` of a list as a network-order number. -/
def beAt (bs : List Byte) (off n : Nat) : Nat := beNat ((bs.drop off).take n)

/-- Bytes `off` to `off + n - 1` of a BLOB value. -/
def blobGet (v off n : Nat) : Nat := (v >>> (8 * off)) % 2 ^ (8 * n)

/-- A BLOB value with bytes `off` to `off + n - 1` replaced. -/
def blobSet (v off n x : Nat) : Nat := withBits v (8 * (off + n) - 1) (8 * off) x

/-- Fields packed from bit 0 upwards: (width, value) pairs, the first lowest. -/
def packBits : List (Nat × Nat) → Nat
  | [] => 0
  | (w, v) :: fs => v % 2 ^ w + 2 ^ w * packBits fs

/-- Rounds up to a multiple of `m`. -/
def roundUp (x m : Nat) : Nat := (x + m - 1) / m * m

/-- Quotient rounded up. -/
def ceilDiv (a b : Nat) : Nat := (a + b - 1) / b

/-- Clamps to a range. -/
def clampInt (lo hi x : Int) : Int := if x < lo then lo else if hi < x then hi else x

/-- The greatest natural number whose square is at most `n`, by bits. -/
def isqrt (n : Nat) : Nat := go (n.log2 / 2 + 1) 0
where
  go : Nat → Nat → Nat
    | 0, r => r
    | k + 1, r => if (r + 2 ^ k) * (r + 2 ^ k) ≤ n then go k (r + 2 ^ k) else go k r

/-- The number of set bits among the `w` low bits. -/
def popCount : Nat → Nat → Nat
  | 0, _ => 0
  | w + 1, v => v % 2 + popCount w (v / 2)

/-- The positions, below `n`, of the set bits of `v`, ascending. -/
def setBits (n v : Nat) : List Nat := (List.range n).filter (fun k => v.testBit k)

/-- Applies `f` to every number below `n` in ascending order. -/
def forN {α : Type} (n : Nat) (a : α) (f : α → Nat → α) : α := (List.range n).foldl f a

end Sys2Proof.Machine
end

