-- ==== Sys2Proof/Machine/Codes.lean ====
section
/-! DEFINITION. The status codes of R408 (12_control_dictionary.md), under the manual's names. -/
namespace Sys2Proof.Machine.Code

/-- JOB_ABANDONED. -/
def jobAbandoned : Nat := 0x0001
/-- FUNC_DRAINING. -/
def funcDraining : Nat := 0x0002
/-- FUNC_DISABLED. -/
def funcDisabled : Nat := 0x0003
/-- OD_NO_OBJECT. -/
def odNoObject : Nat := 0x1001
/-- OD_READ_ONLY. -/
def odReadOnly : Nat := 0x1002
/-- OD_WRITE_ONLY. -/
def odWriteOnly : Nat := 0x1003
/-- OD_LEVEL. -/
def odLevel : Nat := 0x1004
/-- OD_TYPE. -/
def odType : Nat := 0x1005
/-- OD_RANGE. -/
def odRange : Nat := 0x1006
/-- OD_NEED_GROUP. -/
def odNeedGroup : Nat := 0x1007
/-- KEEP_DEFERRED. -/
def keepDeferred : Nat := 0x1008
/-- PLV_AUTH. -/
def plvAuth : Nat := 0x1010
/-- PLV_ROLE. -/
def plvRole : Nat := 0x1011
/-- SESSION_FULL. -/
def sessionFull : Nat := 0x1012
/-- STREAM_FULL. -/
def streamFull : Nat := 0x1013
/-- PLV_TOO_BIG. -/
def plvTooBig : Nat := 0x1014
/-- SESSION_CLOSED. -/
def sessionClosed : Nat := 0x1015
/-- NQ_FULL. -/
def nqFull : Nat := 0x1016
/-- BUF_BUSY. -/
def bufBusy : Nat := 0x2001
/-- CMT_CONFLICT. -/
def cmtConflict : Nat := 0x2002
/-- CMT_NEED_DARK. -/
def cmtNeedDark : Nat := 0x2003
/-- CUE_BUSY. -/
def cueBusy : Nat := 0x2004
/-- CUE_INVALID. -/
def cueInvalid : Nat := 0x2005
/-- CMT_GROUP_STATE. -/
def cmtGroupState : Nat := 0x2006
/-- CONCEALED. -/
def concealed : Nat := 0x2010
/-- COMMIT_APPLIED. -/
def commitApplied : Nat := 0x2011
/-- ADMIT_REFUSED. -/
def admitRefused : Nat := 0x3001
/-- PROG_SLOT_BUSY. -/
def progSlotBusy : Nat := 0x3002
/-- UNDERRUN. -/
def underrun : Nat := 0x3010
/-- HAZEL_FAULT. -/
def hazelFault : Nat := 0x3011
/-- BUDGET_SHORT. -/
def budgetShort : Nat := 0x3012
/-- HUSK_BAD_CODE. -/
def huskBadCode : Nat := 0x4001
/-- HUSK_REF_RANGE. -/
def huskRefRange : Nat := 0x4002
/-- HUSK_LEN_OVER. -/
def huskLenOver : Nat := 0x4003
/-- HUSK_CHECK. -/
def huskCheck : Nat := 0x4004
/-- HUSK_OUT_LIMIT. -/
def huskOutLimit : Nat := 0x4005
/-- HUSK_NO_CHAIN. -/
def huskNoChain : Nat := 0x4006
/-- HUSK_BAD_DESC. -/
def huskBadDesc : Nat := 0x4007
/-- HUSK_RING_BUSY. -/
def huskRingBusy : Nat := 0x4008
/-- HUSK_JOB_DONE. -/
def huskJobDone : Nat := 0x4010
/-- LACE_BAD_DESC. -/
def laceBadDesc : Nat := 0x4801
/-- LACE_BUSY. -/
def laceBusy : Nat := 0x4802
/-- LACE_MISMATCH. -/
def laceMismatch : Nat := 0x4803
/-- LACE_BUS_ERROR. -/
def laceBusError : Nat := 0x4804
/-- LACE_HALF. -/
def laceHalf : Nat := 0x4805
/-- LACE_DONE. -/
def laceDone : Nat := 0x4806
/-- SKIVER_BAD_DESC. -/
def skiverBadDesc : Nat := 0x4808
/-- SKIVER_RING_BUSY. -/
def skiverRingBusy : Nat := 0x4809
/-- SKIVER_DONE. -/
def skiverDone : Nat := 0x480A
/-- LAST_SLIP. -/
def lastSlip : Nat := 0x5001
/-- LAST_SHARED. -/
def lastShared : Nat := 0x5002
/-- TAP_BUSY. -/
def tapBusy : Nat := 0x5003
/-- TAP_READY. -/
def tapReady : Nat := 0x5004
/-- WELT_LANE_FAULT. -/
def weltLaneFault : Nat := 0x5801
/-- WELT_SPARED. -/
def weltSpared : Nat := 0x5802
/-- WELT_NO_SPARE. -/
def weltNoSpare : Nat := 0x5803
/-- WELT_CAPS. -/
def weltCaps : Nat := 0x5804
/-- WELT_RETURN_LOST. -/
def weltReturnLost : Nat := 0x5805
/-- WELT_MSG_LOST. -/
def weltMsgLost : Nat := 0x5806
/-- WL_BUSY. -/
def wlBusy : Nat := 0x5807
/-- POISON. -/
def poison : Nat := 0x6001
/-- MASTER_FROZEN. -/
def masterFrozen : Nat := 0x6002
/-- MASTER_NOT_FROZEN. -/
def masterNotFrozen : Nat := 0x6003
/-- WIN_BAD. -/
def winBad : Nat := 0x6004
/-- HBM_HOT. -/
def hbmHot : Nat := 0x6005
/-- HBM_MARGIN. -/
def hbmMargin : Nat := 0x6006
/-- HBM_TRAIN_FAIL. -/
def hbmTrainFail : Nat := 0x6007
/-- SCRUB_SLOW. -/
def scrubSlow : Nat := 0x6008
/-- RING_FAULT. -/
def ringFault : Nat := 0x6009
/-- TB_BUSY. -/
def tbBusy : Nat := 0x6801
/-- TB_STEPPED. -/
def tbStepped : Nat := 0x6802
/-- PTP_LOCKED. -/
def ptpLocked : Nat := 0x6803
/-- PTP_HOLDOVER. -/
def ptpHoldover : Nat := 0x6804
/-- EYE_PAST. -/
def eyePast : Nat := 0x6805
/-- EYE_BAD. -/
def eyeBad : Nat := 0x6806
/-- EYE_BUSY. -/
def eyeBusy : Nat := 0x6807
/-- EYE_LATE. -/
def eyeLate : Nat := 0x6808
/-- EYE_CAPTURE. -/
def eyeCapture : Nat := 0x6809
/-- EYE_OVERFLOW. -/
def eyeOverflow : Nat := 0x680A
/-- LINK_UP. -/
def linkUp : Nat := 0x680B
/-- LINK_DOWN. -/
def linkDown : Nat := 0x680C
/-- PLL_UNLOCK. -/
def pllUnlock : Nat := 0x6C01
/-- PLL_LOCKED. -/
def pllLocked : Nat := 0x6C02
/-- PLL_BUSY. -/
def pllBusy : Nat := 0x6C03
/-- THERMAL. -/
def thermal : Nat := 0x7001
/-- THERMAL_STAGE. -/
def thermalStage : Nat := 0x7002
/-- THERMAL_SHUTDOWN. -/
def thermalShutdown : Nat := 0x7003
/-- CEILING_REFUSED. -/
def ceilingRefused : Nat := 0x7004
/-- KEEPER_TWIN. -/
def keeperTwin : Nat := 0x7401
/-- KEEPER_REFUSED. -/
def keeperRefused : Nat := 0x7402
/-- TRIWORD_REPAIRED. -/
def triwordRepaired : Nat := 0x7403
/-- SEAM_OPEN. -/
def seamOpen : Nat := 0x7404
/-- SEAM_CLOSED. -/
def seamClosed : Nat := 0x7405
/-- INSOLE_HELD. -/
def insoleHeld : Nat := 0x7406
/-- CAL_SLOT_BUSY. -/
def calSlotBusy : Nat := 0x7801
/-- FW_SWITCHED. -/
def fwSwitched : Nat := 0xF001
/-- FW_IMAGE_BAD. -/
def fwImageBad : Nat := 0xF002
/-- WATCHDOG_RESTART. -/
def watchdogRestart : Nat := 0xF003

end Sys2Proof.Machine.Code
end

