-- ==== Sys2Proof/Config.lean ====
section
/-! DEFINITION. What one device fixes and the manual leaves to it (values "per part", "per
firmware", "per board"), and the free values: constants with no body, so that nothing can be proved
of the value they give. -/
namespace Sys2Proof.Machine.Config

/-- The grade of this part (R3, "per part"); reduced to the three codes where it is read. -/
opaque gradeOfPart : Nat

/-- ID_GRADE of this part: 0 S, 1 L, 2 E (R3). -/
def idGrade : Nat := gradeOfPart % 3

/-- ID_SERIAL of this part (R3, "per part"). -/
opaque serialOfPart : Nat

/-- ID_SERIAL as a U64. -/
def idSerial : Nat := serialOfPart % 2 ^ 64

/-- The MAC address of a port ("per part", R373). -/
opaque macOfPart : Nat → Nat

/-- NET_MAC of port `p` in bits [47:0]. -/
def netMac (p : Nat) : Nat := macOfPart p % 2 ^ 48

/-- VERSION of the image the device runs after its manufacture ("per image", R505). -/
opaque imageVersionOfPart : Nat

/-- FW_VERSION before any image has been programmed. -/
def factoryImageVersion : Nat := imageVersionOfPart % 2 ^ 32

/-- PROG_LENGTH of that image ("computed", R485, R505). -/
opaque programLengthOfPart : Nat

/-- FW_PROG_LEN before any image has been programmed. -/
def factoryProgramLength : Nat := programLengthOfPart % 2 ^ 32

/-- The hardware noise source: the n-th word drawn from it (R294, R390). -/
opaque noise : Nat → Nat

/-- The `step`-th word of the 32-bit generator of a channel controller, which is seeded from the noise
source and is not readable (R294). -/
opaque neighbourDraw (controller step : Nat) : BitVec 32

/-- Whether the signature of a program image verifies (R128): the spec names the check and not its
keys. -/
opaque programSignatureOk : List (BitVec 8) → Bool

/-- Whether the signature of a firmware image verifies (R486, R497). -/
opaque firmwareSignatureOk : List (BitVec 8) → Bool

end Sys2Proof.Machine.Config
end

