-- ==== Sys2Proof/Machine/Reg.lean ====
section
/-! DEFINITION. The names of the machine's registers: one constructor for every parameter of the
object dictionary, under the manual's own name (its index and subindex, type and rule stand before
it), then one for every internal register (a name beginning with i) that the rules imply without
giving it a dictionary ID. An instance number picks the member of a family (surface, lane, buffer,
queue ...). Widths, access classes and reset values stand in Dictionary.lean. -/
namespace Sys2Proof.Machine

/-- Every register of the machine (R378 for the dictionary; the rule named for each internal one). -/
inductive Reg where
  /-- 0x1000.01, U32, R3 (00_scope.md) -/
  | ID_VENDOR
  /-- 0x1000.02, U16, R3 (00_scope.md) -/
  | ID_DEVICE
  /-- 0x1000.03, ENUM, R3 (00_scope.md) -/
  | ID_GRADE
  /-- 0x1000.04, U16, R3 (00_scope.md) -/
  | ID_STEPPING
  /-- 0x1000.05, U64, R3 (00_scope.md) -/
  | ID_SERIAL
  /-- 0x1010.01, U16, R393 (12_control_dictionary.md) -/
  | PLV_PORT
  /-- 0x1010.02, U32, R393 (12_control_dictionary.md) -/
  | PLV_TIMEOUT
  /-- 0x1010.03, BOOL, R393 (12_control_dictionary.md) -/
  | PLV_ANON_OBSERVER
  /-- 0x1010.04, BLOB, R393 (12_control_dictionary.md) -/
  | PLV_KEY_SET
  /-- 0x1010.05, BLOB, R393 (12_control_dictionary.md) -/
  | PLV_KEY_LIST
  /-- 0x1010.06, U16, R393 (12_control_dictionary.md) -/
  | PLV_SESSIONS
  /-- 0x1010.07, U16, R393 (12_control_dictionary.md) -/
  | PLV_STREAMS
  /-- 0x1010.08, U64, R393 (12_control_dictionary.md) -/
  | PLV_BAD_MSG
  /-- 0x1010.09, U64, R393 (12_control_dictionary.md) -/
  | PLV_BAD_AUTH
  /-- 0x1010.0A, U64, R393 (12_control_dictionary.md) -/
  | PLV_BAD_SEQ
  /-- 0x1040.01, BLOB, R404 (12_control_dictionary.md) -/
  | EV_ROUTE
  /-- 0x1040.02, BLOB, R404 (12_control_dictionary.md) -/
  | EV_LOG
  /-- 0x1040.03, U64, R404 (12_control_dictionary.md) -/
  | EV_COUNT
  /-- 0x1040.04, U32, R404 (12_control_dictionary.md) -/
  | OD_PARAMS
  /-- 0x1040.05, U16, R404 (12_control_dictionary.md) -/
  | OD_KEEP_PENDING
  /-- 0x1040.06, ENUM, R404 (12_control_dictionary.md) -/
  | OD_FACTORY
  /-- 0x1050.01, ENUM, R398 (12_control_dictionary.md) -/
  | PCI_F0_ROLE
  /-- 0x1050.02, ENUM, R398 (12_control_dictionary.md) -/
  | PCI_F3_ROLE
  /-- 0x1050.03, U16, R398 (12_control_dictionary.md) -/
  | PCI_LINK
  /-- 0x1400.01, ENUM, R394 (12_control_dictionary.md) -/
  | SS_STATE
  /-- 0x1400.02, ENUM, R394 (12_control_dictionary.md) -/
  | SS_ROLE
  /-- 0x1400.03, ENUM, R394 (12_control_dictionary.md) -/
  | SS_KIND
  /-- 0x1400.04, U16, R394 (12_control_dictionary.md) -/
  | SS_KEY_ID
  /-- 0x1400.05, BLOB, R394 (12_control_dictionary.md) -/
  | SS_PEER
  /-- 0x1400.06, U16, R394 (12_control_dictionary.md) -/
  | SS_SLOT
  /-- 0x1400.07, U32, R394 (12_control_dictionary.md) -/
  | SS_IDLE
  /-- 0x1400.08, ENUM, R394 (12_control_dictionary.md) -/
  | SS_CLOSE
  /-- 0x2000.01, U16, R45 (02_scene_model.md) -/
  | SURF_WIDTH
  /-- 0x2000.02, U16, R45 (02_scene_model.md) -/
  | SURF_HEIGHT
  /-- 0x2000.03, Q23.8, R45 (02_scene_model.md) -/
  | PITCH_X
  /-- 0x2000.04, Q23.8, R45 (02_scene_model.md) -/
  | PITCH_Y
  /-- 0x2000.05, Q23.8, R45 (02_scene_model.md) -/
  | ORIGIN_X
  /-- 0x2000.06, Q23.8, R45 (02_scene_model.md) -/
  | ORIGIN_Y
  /-- 0x2000.07, Q23.8, R45 (02_scene_model.md) -/
  | ORIGIN_Z
  /-- 0x2000.08, ENUM, R45 (02_scene_model.md) -/
  | SURF_MODE
  /-- 0x2000.09, U8, R45 (02_scene_model.md) -/
  | V_COUNT
  /-- 0x2000.0A, UQ0.16, R45 (02_scene_model.md) -/
  | BG_R
  /-- 0x2000.0B, UQ0.16, R45 (02_scene_model.md) -/
  | BG_G
  /-- 0x2000.0C, UQ0.16, R45 (02_scene_model.md) -/
  | BG_B
  /-- 0x2100.01, BOOL, R65 (02_scene_model.md) -/
  | PL_ENABLE
  /-- 0x2100.02, ENUM, R65 (02_scene_model.md) -/
  | PL_KIND
  /-- 0x2100.03, U16, R65 (02_scene_model.md) -/
  | PL_BUFFER
  /-- 0x2100.04, U16, R65 (02_scene_model.md) -/
  | PL_TEX_W
  /-- 0x2100.05, U16, R65 (02_scene_model.md) -/
  | PL_TEX_H
  /-- 0x2100.06, Q23.8, R65 (02_scene_model.md) -/
  | PL_P0_X
  /-- 0x2100.07, Q23.8, R65 (02_scene_model.md) -/
  | PL_P0_Y
  /-- 0x2100.08, Q23.8, R65 (02_scene_model.md) -/
  | PL_P0_Z
  /-- 0x2100.09, Q23.8, R65 (02_scene_model.md) -/
  | PL_EU_X
  /-- 0x2100.0A, Q23.8, R65 (02_scene_model.md) -/
  | PL_EU_Y
  /-- 0x2100.0B, Q23.8, R65 (02_scene_model.md) -/
  | PL_EU_Z
  /-- 0x2100.0C, Q23.8, R65 (02_scene_model.md) -/
  | PL_EV_X
  /-- 0x2100.0D, Q23.8, R65 (02_scene_model.md) -/
  | PL_EV_Y
  /-- 0x2100.0E, Q23.8, R65 (02_scene_model.md) -/
  | PL_EV_Z
  /-- 0x2100.0F, ENUM, R65 (02_scene_model.md) -/
  | PL_ALPHA
  /-- 0x2100.10, ENUM, R65 (02_scene_model.md) -/
  | PL_EDGE_U
  /-- 0x2100.11, ENUM, R65 (02_scene_model.md) -/
  | PL_EDGE_V
  /-- 0x2100.12, U8, R65 (02_scene_model.md) -/
  | PL_IN_LUT
  /-- 0x2100.13, UQ0.16, R65 (02_scene_model.md) -/
  | PL_OPACITY
  /-- 0x2200.01, U8, R70 (02_scene_model.md) -/
  | VS_COUNT
  /-- 0x2200.02, ENUM, R70 (02_scene_model.md) -/
  | VS_CAMERA
  /-- 0x2200.03, U16, R70 (02_scene_model.md) -/
  | VS_PIX_W
  /-- 0x2200.04, U16, R70 (02_scene_model.md) -/
  | VS_PIX_H
  /-- 0x2200.05, Q23.8, R70 (02_scene_model.md) -/
  | VS_WIN_X
  /-- 0x2200.06, Q23.8, R70 (02_scene_model.md) -/
  | VS_WIN_Y
  /-- 0x2200.07, Q23.8, R70 (02_scene_model.md) -/
  | VS_WIN_Z
  /-- 0x2200.08, Q23.8, R70 (02_scene_model.md) -/
  | VS_WIN_W
  /-- 0x2200.09, Q23.8, R70 (02_scene_model.md) -/
  | VS_WIN_H
  /-- 0x2200.0A, Q23.8, R70 (02_scene_model.md) -/
  | VS_RAIL_Z
  /-- 0x2200.0B, U8, R70 (02_scene_model.md) -/
  | VS_IN_LUT
  /-- 0x2200.0C, BLOB, R70 (02_scene_model.md) -/
  | VS_TABLE
  /-- 0x2300.01, U16, R73 (02_scene_model.md) -/
  | DR_BUFFER
  /-- 0x2300.02, U8, R73 (02_scene_model.md) -/
  | DR_V_COUNT
  /-- 0x2300.03, U8, R73 (02_scene_model.md) -/
  | DR_IN_LUT
  /-- 0x2400.01, ENUM, R180 (06_stream_ingest.md) -/
  | BUF_KIND
  /-- 0x2400.02, U8, R180 (06_stream_ingest.md) -/
  | BUF_FORMAT
  /-- 0x2400.03, ENUM, R180 (06_stream_ingest.md) -/
  | BUF_STORE
  /-- 0x2400.04, U16, R180 (06_stream_ingest.md) -/
  | BUF_WIDTH
  /-- 0x2400.05, U16, R180 (06_stream_ingest.md) -/
  | BUF_HEIGHT
  /-- 0x2400.06, U64, R180 (06_stream_ingest.md) -/
  | BUF_BASE
  /-- 0x2400.07, U64, R180 (06_stream_ingest.md) -/
  | BUF_BANK_SIZE
  /-- 0x2400.08, U16, R180 (06_stream_ingest.md) -/
  | BUF_SOURCE
  /-- 0x2400.09, ENUM, R180 (06_stream_ingest.md) -/
  | BUF_CONCEAL
  /-- 0x2400.0A, ENUM, R180 (06_stream_ingest.md) -/
  | BUF_SWAP
  /-- 0x2400.0B, ENUM, R180 (06_stream_ingest.md) -/
  | BUF_CTRL
  /-- 0x2400.0C, U32, R180 (06_stream_ingest.md) -/
  | BUF_BANKS
  /-- 0x2400.0D, BLOB, R180 (06_stream_ingest.md) -/
  | BUF_FRAMES
  /-- 0x2400.0E, U16, R180 (06_stream_ingest.md) -/
  | BUF_MAXB
  /-- 0x2400.0F, U32, R180 (06_stream_ingest.md) -/
  | BUF_CONCEALED
  /-- 0x2400.10, U64, R180 (06_stream_ingest.md) -/
  | BUF_SUPERSEDED
  /-- 0x2800.01, U16, R188 (06_stream_ingest.md) -/
  | ING_PORT
  /-- 0x2800.02, U64, R188 (06_stream_ingest.md) -/
  | ING_UNKNOWN
  /-- 0x2900.01, ENUM, R188 (06_stream_ingest.md) -/
  | STR_STATE
  /-- 0x2900.02, U16, R188 (06_stream_ingest.md) -/
  | STR_SESSION
  /-- 0x2900.03, ENUM, R188 (06_stream_ingest.md) -/
  | STR_TRANSPORT
  /-- 0x2900.04, BOOL, R188 (06_stream_ingest.md) -/
  | STR_AUTH
  /-- 0x2900.05, U32, R188 (06_stream_ingest.md) -/
  | STR_GROUP_V4
  /-- 0x2900.06, BLOB, R188 (06_stream_ingest.md) -/
  | STR_GROUP_V6
  /-- 0x2900.07, U64, R188 (06_stream_ingest.md) -/
  | STR_RING_BASE
  /-- 0x2900.08, U16, R188 (06_stream_ingest.md) -/
  | STR_RING_SIZE
  /-- 0x2900.09, U16, R188 (06_stream_ingest.md) -/
  | STR_RING_TAIL
  /-- 0x2900.0A, U16, R188 (06_stream_ingest.md) -/
  | STR_RING_HEAD
  /-- 0x2900.0B, U64, R188 (06_stream_ingest.md) -/
  | STR_PACKETS
  /-- 0x2900.0C, BLOB, R188 (06_stream_ingest.md) -/
  | STR_DISCARDS
  /-- 0x2900.0D, U64, R188 (06_stream_ingest.md) -/
  | STR_TILES_LOST
  /-- 0x2900.0E, U16, R188 (06_stream_ingest.md) -/
  | STR_QUEUE
  /-- 0x2A00.01, BOOL, R199 (06_stream_ingest.md) -/
  | CMT_DARK_OK
  /-- 0x2A00.02, U32, R199 (06_stream_ingest.md) -/
  | CMT_IN_FORCE
  /-- 0x2A00.03, U64, R199 (06_stream_ingest.md) -/
  | CMT_ACCEPTED
  /-- 0x2A00.04, U64, R199 (06_stream_ingest.md) -/
  | CMT_REFUSED
  /-- 0x2A00.05, U64, R199 (06_stream_ingest.md) -/
  | CMT_DEFERRED
  /-- 0x2A00.06, U64, R199 (06_stream_ingest.md) -/
  | CMT_LATE
  /-- 0x2A00.07, U8, R199 (06_stream_ingest.md) -/
  | CMT_DARK_LEFT
  /-- 0x2A00.08, U32, R199 (06_stream_ingest.md) -/
  | CMT_CONCEALED
  /-- 0x2A00.09, U16, R199 (06_stream_ingest.md) -/
  | CMT_QUEUE
  /-- 0x2A10.01, ENUM, R196 (06_stream_ingest.md) -/
  | CG_CTRL
  /-- 0x2A10.02, ENUM, R196 (06_stream_ingest.md) -/
  | CG_STATE
  /-- 0x2A10.03, U16, R196 (06_stream_ingest.md) -/
  | CG_OWNER
  /-- 0x2A10.04, U8, R196 (06_stream_ingest.md) -/
  | CG_SURFACES
  /-- 0x2A10.05, BLOB, R196 (06_stream_ingest.md) -/
  | CG_BUFFERS
  /-- 0x2A10.06, U64, R196 (06_stream_ingest.md) -/
  | CG_AT
  /-- 0x2A10.07, BOOL, R196 (06_stream_ingest.md) -/
  | CG_DARK_OK
  /-- 0x2A10.08, ENUM, R196 (06_stream_ingest.md) -/
  | CG_TRIGGER
  /-- 0x2A10.09, U32, R196 (06_stream_ingest.md) -/
  | CG_ID
  /-- 0x2A10.0A, U16, R196 (06_stream_ingest.md) -/
  | CG_RESULT
  /-- 0x2B00.01, U16, R205 (06_stream_ingest.md) -/
  | PB_CUE
  /-- 0x2B00.02, U64, R205 (06_stream_ingest.md) -/
  | PB_START
  /-- 0x2B00.03, U32, R205 (06_stream_ingest.md) -/
  | PB_FIRST
  /-- 0x2B00.04, ENUM, R205 (06_stream_ingest.md) -/
  | PB_END
  /-- 0x2B00.05, ENUM, R205 (06_stream_ingest.md) -/
  | PB_CTRL
  /-- 0x2B00.06, ENUM, R205 (06_stream_ingest.md) -/
  | PB_STATE
  /-- 0x2B00.07, U32, R205 (06_stream_ingest.md) -/
  | PB_FRAME
  /-- 0x2B00.08, U32, R205 (06_stream_ingest.md) -/
  | PB_REFUSED
  /-- 0x2C00.01, ENUM, R204 (06_stream_ingest.md) -/
  | CUE_STATE
  /-- 0x2C00.02, U64, R204 (06_stream_ingest.md) -/
  | CUE_BASE
  /-- 0x2C00.03, U64, R204 (06_stream_ingest.md) -/
  | CUE_SIZE
  /-- 0x2C00.04, U32, R204 (06_stream_ingest.md) -/
  | CUE_CRC
  /-- 0x2C00.05, ENUM, R204 (06_stream_ingest.md) -/
  | CUE_LOAD
  /-- 0x2C00.06, BLOB, R204 (06_stream_ingest.md) -/
  | CUE_BIND
  /-- 0x2C00.07, U32, R204 (06_stream_ingest.md) -/
  | CUE_TAG
  /-- 0x3000.01, U16, R136 (04_hazel_array.md) -/
  | HZ_ACTIVE
  /-- 0x3000.02, U16, R136 (04_hazel_array.md) -/
  | HZ_CLUSTER_EN
  /-- 0x3000.03, ENUM, R136 (04_hazel_array.md) -/
  | HZ_ARRAY_CLOCK
  /-- 0x3000.04, U16, R136 (04_hazel_array.md) -/
  | HZ_SHARE_A
  /-- 0x3000.05, U16, R136 (04_hazel_array.md) -/
  | HZ_BYTES_NS
  /-- 0x3000.06, U16, R136 (04_hazel_array.md) -/
  | HZ_ENGINES_FENCED
  /-- 0x3000.07, U64, R136 (04_hazel_array.md) -/
  | HZ_LATE_TILES
  /-- 0x3000.08, U8, R136 (04_hazel_array.md) -/
  | HZ_PROG_TARGET
  /-- 0x3000.09, ENUM, R136 (04_hazel_array.md) -/
  | HZ_SWAP_STATE
  /-- 0x3000.0A, U8, R136 (04_hazel_array.md) -/
  | HZ_SWAP_CLUSTER
  /-- 0x3000.0B, U8, R136 (04_hazel_array.md) -/
  | HZ_SHORT
  /-- 0x3010.01, U16, R77 (03_ray_synthesis.md) -/
  | SYN_ET_T
  /-- 0x3010.02, ENUM, R77 (03_ray_synthesis.md) -/
  | SYN_DITHER
  /-- 0x3010.03, U32, R77 (03_ray_synthesis.md) -/
  | SYN_DIR_CLAMPS
  /-- 0x3010.04, U32, R77 (03_ray_synthesis.md) -/
  | SYN_CAL_POISON
  /-- 0x3020.01, ENUM, R137 (04_hazel_array.md) -/
  | ADM_LAST_RESULT
  /-- 0x3020.02, ENUM, R137 (04_hazel_array.md) -/
  | ADM_LAST_REASON
  /-- 0x3020.03, U32, R137 (04_hazel_array.md) -/
  | ADM_LAST_COMMIT
  /-- 0x3020.04, U32, R137 (04_hazel_array.md) -/
  | ADM_COST_OPS
  /-- 0x3020.05, U32, R137 (04_hazel_array.md) -/
  | ADM_COST_SAMP
  /-- 0x3020.06, U32, R137 (04_hazel_array.md) -/
  | ADM_COST_DEC
  /-- 0x3020.07, U32, R137 (04_hazel_array.md) -/
  | ADM_COST_BYTES
  /-- 0x3020.08, U32, R137 (04_hazel_array.md) -/
  | ADM_BUDGET_OPS
  /-- 0x3020.09, U32, R137 (04_hazel_array.md) -/
  | ADM_BUDGET_SAMP
  /-- 0x3020.0A, U32, R137 (04_hazel_array.md) -/
  | ADM_BUDGET_DEC
  /-- 0x3020.0B, U32, R137 (04_hazel_array.md) -/
  | ADM_BUDGET_BYTES
  /-- 0x3020.0C, U16, R137 (04_hazel_array.md) -/
  | ADM_WORST_BAND
  /-- 0x3020.0D, U16, R137 (04_hazel_array.md) -/
  | ADM_RESERVATION
  /-- 0x3020.0E, BLOB, R137 (04_hazel_array.md) -/
  | ADM_REACH
  /-- 0x3020.0F, U8, R137 (04_hazel_array.md) -/
  | ADM_STAGE_MIN
  /-- 0x3020.10, U64, R137 (04_hazel_array.md) -/
  | UR_LINES_TOTAL
  /-- 0x3040.01, ENUM, R139 (04_hazel_array.md) -/
  | PG_STATE
  /-- 0x3040.02, U32, R139 (04_hazel_array.md) -/
  | PG_VERSION
  /-- 0x3040.03, U64, R139 (04_hazel_array.md) -/
  | PG_ADDR
  /-- 0x3040.04, U32, R139 (04_hazel_array.md) -/
  | PG_LENGTH
  /-- 0x3040.05, ENUM, R139 (04_hazel_array.md) -/
  | PG_LOAD
  /-- 0x3040.06, BLOB, R139 (04_hazel_array.md) -/
  | PG_K
  /-- 0x3100.01, ENUM, R138 (04_hazel_array.md) -/
  | CL_STATE
  /-- 0x3100.02, U16, R138 (04_hazel_array.md) -/
  | CL_FENCED
  /-- 0x3100.03, U16, R138 (04_hazel_array.md) -/
  | CL_FENCE_REQ
  /-- 0x3100.04, BOOL, R138 (04_hazel_array.md) -/
  | CL_FENCE
  /-- 0x3100.05, U16, R138 (04_hazel_array.md) -/
  | CL_FAULT_MASK
  /-- 0x3100.06, U16, R138 (04_hazel_array.md) -/
  | CL_FAULT_CLEAR
  /-- 0x3100.07, U8, R138 (04_hazel_array.md) -/
  | CL_PROG_SLOT
  /-- 0x3100.08, U16, R138 (04_hazel_array.md) -/
  | CL_LAST_FAULT
  /-- 0x3100.09, U64, R138 (04_hazel_array.md) -/
  | CL_TILES
  /-- 0x4000.01, U8, R174 (05_husk_codec.md) -/
  | HK_INGEST_DEC
  /-- 0x4000.02, U8, R174 (05_husk_codec.md) -/
  | HK_TAP_ENC
  /-- 0x4000.03, U8, R174 (05_husk_codec.md) -/
  | HK_VERSION
  /-- 0x4000.04, U64, R174 (05_husk_codec.md) -/
  | HK_CD_TILES
  /-- 0x4000.05, U64, R174 (05_husk_codec.md) -/
  | HK_CD_REJECTED
  /-- 0x4000.06, BLOB, R174 (05_husk_codec.md) -/
  | HK_CD_BY_CODE
  /-- 0x4000.07, U64, R174 (05_husk_codec.md) -/
  | HK_INGEST_REJECTED
  /-- 0x4010.01, BOOL, R175 (05_husk_codec.md) -/
  | GC_ENABLE
  /-- 0x4010.02, ENUM, R175 (05_husk_codec.md) -/
  | GC_DRAIN
  /-- 0x4010.03, U64, R175 (05_husk_codec.md) -/
  | GC_RING_BASE
  /-- 0x4010.04, U16, R175 (05_husk_codec.md) -/
  | GC_RING_SIZE
  /-- 0x4010.05, U16, R175 (05_husk_codec.md) -/
  | GC_TAIL
  /-- 0x4010.06, U16, R175 (05_husk_codec.md) -/
  | GC_HEAD
  /-- 0x4010.07, ENUM, R175 (05_husk_codec.md) -/
  | GC_STATE
  /-- 0x4010.08, U64, R175 (05_husk_codec.md) -/
  | GC_JOBS_OK
  /-- 0x4010.09, U64, R175 (05_husk_codec.md) -/
  | GC_JOBS_FAILED
  /-- 0x4010.0A, U64, R175 (05_husk_codec.md) -/
  | GC_ABANDONED
  /-- 0x4010.0B, U16, R175 (05_husk_codec.md) -/
  | GC_LAST_STATUS
  /-- 0x4010.0C, U16, R175 (05_husk_codec.md) -/
  | GC_QUEUE
  /-- 0x4020.01, U64, R176 (05_husk_codec.md) -/
  | CD_TILES
  /-- 0x4020.02, U64, R176 (05_husk_codec.md) -/
  | CD_REF_TILES
  /-- 0x4020.03, U64, R176 (05_husk_codec.md) -/
  | CD_REJECTED
  /-- 0x4020.04, U16, R176 (05_husk_codec.md) -/
  | CD_LAST_CODE
  /-- 0x4020.05, U16, R176 (05_husk_codec.md) -/
  | CD_LAST_BUFFER
  /-- 0x4020.06, U32, R176 (05_husk_codec.md) -/
  | CD_LAST_TILE
  /-- 0x4800.01, BOOL, R327 (10_laces_skivers.md) -/
  | LC_ENABLE
  /-- 0x4800.02, ENUM, R327 (10_laces_skivers.md) -/
  | LC_DRAIN
  /-- 0x4800.03, ENUM, R327 (10_laces_skivers.md) -/
  | LC_STATE
  /-- 0x4800.04, BLOB, R327 (10_laces_skivers.md) -/
  | LC_SH_DESC
  /-- 0x4800.05, ENUM, R327 (10_laces_skivers.md) -/
  | LC_SH_STATE
  /-- 0x4800.06, ENUM, R327 (10_laces_skivers.md) -/
  | LC_ARM
  /-- 0x4800.07, ENUM, R327 (10_laces_skivers.md) -/
  | LC_CTRL
  /-- 0x4800.08, BLOB, R327 (10_laces_skivers.md) -/
  | LC_CUR_DESC
  /-- 0x4800.09, U64, R327 (10_laces_skivers.md) -/
  | LC_CUR_ADDR
  /-- 0x4800.0A, U32, R327 (10_laces_skivers.md) -/
  | LC_DONE
  /-- 0x4800.0B, U16, R327 (10_laces_skivers.md) -/
  | LC_RESULT
  /-- 0x4800.0C, U32, R327 (10_laces_skivers.md) -/
  | LC_MISMATCH
  /-- 0x4800.0D, U8, R327 (10_laces_skivers.md) -/
  | LC_PRIO
  /-- 0x4800.0E, U16, R327 (10_laces_skivers.md) -/
  | LC_QUEUE
  /-- 0x4800.0F, U64, R327 (10_laces_skivers.md) -/
  | LC_BYTES
  /-- 0x4800.10, U32, R327 (10_laces_skivers.md) -/
  | LC_WITHDRAWN
  /-- 0x4800.11, U32, R327 (10_laces_skivers.md) -/
  | LC_REQ_MISSED
  /-- 0x4840.01, ENUM, R328 (10_laces_skivers.md) -/
  | LS_BUS_STATE
  /-- 0x4840.02, ENUM, R328 (10_laces_skivers.md) -/
  | LS_BUS_CLEAR
  /-- 0x4840.03, ENUM, R328 (10_laces_skivers.md) -/
  | LS_BUS_CAUSE
  /-- 0x4840.04, U8, R328 (10_laces_skivers.md) -/
  | LS_BUS_LACE
  /-- 0x4840.05, U64, R328 (10_laces_skivers.md) -/
  | LS_BUS_ADDR
  /-- 0x4840.06, U32, R328 (10_laces_skivers.md) -/
  | LS_BUS_ERRORS
  /-- 0x4900.01, BOOL, R341 (10_laces_skivers.md) -/
  | SK_ENABLE
  /-- 0x4900.02, ENUM, R341 (10_laces_skivers.md) -/
  | SK_DRAIN
  /-- 0x4900.03, U64, R341 (10_laces_skivers.md) -/
  | SK_RING_BASE
  /-- 0x4900.04, U16, R341 (10_laces_skivers.md) -/
  | SK_RING_SIZE
  /-- 0x4900.05, U16, R341 (10_laces_skivers.md) -/
  | SK_TAIL
  /-- 0x4900.06, U16, R341 (10_laces_skivers.md) -/
  | SK_HEAD
  /-- 0x4900.07, ENUM, R341 (10_laces_skivers.md) -/
  | SK_STATE
  /-- 0x4900.08, U64, R341 (10_laces_skivers.md) -/
  | SK_JOBS_OK
  /-- 0x4900.09, U64, R341 (10_laces_skivers.md) -/
  | SK_JOBS_FAILED
  /-- 0x4900.0A, U64, R341 (10_laces_skivers.md) -/
  | SK_ABANDONED
  /-- 0x4900.0B, U16, R341 (10_laces_skivers.md) -/
  | SK_LAST_STATUS
  /-- 0x4900.0C, U64, R341 (10_laces_skivers.md) -/
  | SK_BYTES
  /-- 0x4900.0D, U16, R341 (10_laces_skivers.md) -/
  | SK_QUEUE
  /-- 0x5000.01, ENUM, R212 (07_scanout.md) -/
  | LAST_RATE
  /-- 0x5000.02, U64, R212 (07_scanout.md) -/
  | LAST_PHASE
  /-- 0x5000.03, U32, R212 (07_scanout.md) -/
  | LAST_TOL
  /-- 0x5000.04, U64, R212 (07_scanout.md) -/
  | LAST_FRAME
  /-- 0x5000.05, U64, R212 (07_scanout.md) -/
  | LAST_NEXT
  /-- 0x5000.06, ENUM, R212 (07_scanout.md) -/
  | LAST_RESYNC
  /-- 0x5000.07, U64, R212 (07_scanout.md) -/
  | LAST_SLIPS
  /-- 0x5000.08, U8, R212 (07_scanout.md) -/
  | LAST_USERS
  /-- 0x5010.01, BLOB, R38 (01_architecture.md) -/
  | FR_LAST
  /-- 0x5010.02, U64, R38 (01_architecture.md) -/
  | FR_DIGEST
  /-- 0x5010.03, U64, R38 (01_architecture.md) -/
  | FR_FRAME
  /-- 0x5010.04, U16, R38 (01_architecture.md) -/
  | FR_FLAGS
  /-- 0x5010.05, BLOB, R38 (01_architecture.md) -/
  | FR_HISTORY
  /-- 0x5010.06, U64, R38 (01_architecture.md) -/
  | FR_GUARANTEED
  /-- 0x5020.01, BOOL, R213 (07_scanout.md) -/
  | SO_ENABLE
  /-- 0x5020.02, ENUM, R213 (07_scanout.md) -/
  | SO_DRAIN
  /-- 0x5020.03, U8, R213 (07_scanout.md) -/
  | SO_LAST_GEN
  /-- 0x5020.04, U32, R213 (07_scanout.md) -/
  | SO_FILL
  /-- 0x5020.05, BOOL, R213 (07_scanout.md) -/
  | SO_BLANK
  /-- 0x5020.06, ENUM, R213 (07_scanout.md) -/
  | SO_OUT_STATE
  /-- 0x5020.07, U8, R213 (07_scanout.md) -/
  | SO_FORCED
  /-- 0x5020.08, U32, R213 (07_scanout.md) -/
  | SO_BAND_NS
  /-- 0x5020.09, U32, R213 (07_scanout.md) -/
  | SO_LINE_PS
  /-- 0x5040.01, BOOL, R227 (07_scanout.md) -/
  | TAP_ENABLE
  /-- 0x5040.02, U8, R227 (07_scanout.md) -/
  | TAP_H
  /-- 0x5040.03, U8, R227 (07_scanout.md) -/
  | TAP_V
  /-- 0x5040.04, U8, R227 (07_scanout.md) -/
  | TAP_EVERY
  /-- 0x5040.05, U64, R227 (07_scanout.md) -/
  | TAP_BASE
  /-- 0x5040.06, U16, R227 (07_scanout.md) -/
  | TAP_SLOTS
  /-- 0x5040.07, U16, R227 (07_scanout.md) -/
  | TAP_HEAD
  /-- 0x5040.08, U16, R227 (07_scanout.md) -/
  | TAP_TAIL
  /-- 0x5040.09, U8, R227 (07_scanout.md) -/
  | TAP_REF_DIST
  /-- 0x5040.0A, U8, R227 (07_scanout.md) -/
  | TAP_K0
  /-- 0x5040.0B, BOOL, R227 (07_scanout.md) -/
  | TAP_XFORM
  /-- 0x5040.0C, U16, R227 (07_scanout.md) -/
  | TAP_QUEUE
  /-- 0x5040.0D, U64, R227 (07_scanout.md) -/
  | TAP_FRAMES
  /-- 0x5040.0E, U64, R227 (07_scanout.md) -/
  | TAP_SKIPPED
  /-- 0x5040.0F, U64, R227 (07_scanout.md) -/
  | TAP_DROPS
  /-- 0x5040.10, ENUM, R227 (07_scanout.md) -/
  | TAP_STATE
  /-- 0x5800.01, ENUM, R267 (08_welt_link.md) -/
  | WL_STATE
  /-- 0x5800.02, ENUM, R267 (08_welt_link.md) -/
  | WL_SSC
  /-- 0x5800.03, ENUM, R267 (08_welt_link.md) -/
  | WL_EQ_MODE
  /-- 0x5800.04, U8, R267 (08_welt_link.md) -/
  | WL_PRESET
  /-- 0x5800.05, BOOL, R267 (08_welt_link.md) -/
  | WL_BLANK_IDLE
  /-- 0x5800.06, BOOL, R267 (08_welt_link.md) -/
  | WL_AUTO_SPARE
  /-- 0x5800.07, U16, R267 (08_welt_link.md) -/
  | WL_SPARE_THRESH
  /-- 0x5800.08, U8, R267 (08_welt_link.md) -/
  | WL_FREE_SPARES
  /-- 0x5800.09, U8, R267 (08_welt_link.md) -/
  | WL_UNCARRIED
  /-- 0x5800.0A, BLOB, R267 (08_welt_link.md) -/
  | WL_SPARE_MAP
  /-- 0x5800.0B, ENUM, R267 (08_welt_link.md) -/
  | WL_MAP_RESET
  /-- 0x5800.0C, BLOB, R267 (08_welt_link.md) -/
  | WL_PANEL_CAPS
  /-- 0x5800.0D, BLOB, R267 (08_welt_link.md) -/
  | WL_PANEL_SENSORS
  /-- 0x5800.0E, ENUM, R267 (08_welt_link.md) -/
  | WL_CAL_FETCH
  /-- 0x5800.0F, U8, R267 (08_welt_link.md) -/
  | WL_CAL_RESULT
  /-- 0x5800.10, U64, R267 (08_welt_link.md) -/
  | WL_MSG_ERRORS
  /-- 0x5800.11, U32, R267 (08_welt_link.md) -/
  | WL_SPARE_NOACK
  /-- 0x5800.12, U16, R267 (08_welt_link.md) -/
  | WL_QUEUE
  /-- 0x5A00.01, ENUM, R268 (08_welt_link.md) -/
  | WL_LANE_STATE
  /-- 0x5A00.02, U8, R268 (08_welt_link.md) -/
  | WL_LOGICAL
  /-- 0x5A00.03, U16, R268 (08_welt_link.md) -/
  | WL_COEFF
  /-- 0x5A00.04, U8, R268 (08_welt_link.md) -/
  | WL_EYE_W
  /-- 0x5A00.05, U16, R268 (08_welt_link.md) -/
  | WL_EYE_H
  /-- 0x5A00.06, U64, R268 (08_welt_link.md) -/
  | WL_CRC_FAILS
  /-- 0x5A00.07, U64, R268 (08_welt_link.md) -/
  | WL_BLOCK_ERRS
  /-- 0x5A00.08, U32, R268 (08_welt_link.md) -/
  | WL_RETRAINS
  /-- 0x5A00.09, U32, R268 (08_welt_link.md) -/
  | WL_FW_FAILS
  /-- 0x5A00.0A, ENUM, R268 (08_welt_link.md) -/
  | WL_PRBS_MODE
  /-- 0x5A00.0B, U64, R268 (08_welt_link.md) -/
  | WL_PRBS_ERR
  /-- 0x5A00.0C, ENUM, R268 (08_welt_link.md) -/
  | WL_CTRL
  /-- 0x5A00.0D, U16, R268 (08_welt_link.md) -/
  | WL_CAUSE
  /-- 0x5B00.01, ENUM, R269 (08_welt_link.md) -/
  | WR_STATE
  /-- 0x5B00.02, U8, R269 (08_welt_link.md) -/
  | WR_EYE_W
  /-- 0x5B00.03, U16, R269 (08_welt_link.md) -/
  | WR_EYE_H
  /-- 0x5B00.04, U64, R269 (08_welt_link.md) -/
  | WR_BLOCK_ERRS
  /-- 0x5B00.05, U64, R269 (08_welt_link.md) -/
  | WR_MESSAGES
  /-- 0x5B00.06, ENUM, R269 (08_welt_link.md) -/
  | WR_PRBS_MODE
  /-- 0x5B00.07, U64, R269 (08_welt_link.md) -/
  | WR_PRBS_ERR
  /-- 0x5B00.08, U64, R269 (08_welt_link.md) -/
  | WR_PRBS_BITS
  /-- 0x6000.01, U64, R304 (09_central_store.md) -/
  | MS_SIZE
  /-- 0x6000.02, ENUM, R304 (09_central_store.md) -/
  | MS_INIT_STATE
  /-- 0x6000.03, U32, R304 (09_central_store.md) -/
  | MS_INIT_MIN
  /-- 0x6000.04, U64, R304 (09_central_store.md) -/
  | MS_CORRECTED
  /-- 0x6000.05, U64, R304 (09_central_store.md) -/
  | MS_POISONED
  /-- 0x6000.06, U64, R304 (09_central_store.md) -/
  | MS_POISON_READS
  /-- 0x6000.07, U64, R304 (09_central_store.md) -/
  | MS_RMW
  /-- 0x6000.08, U64, R304 (09_central_store.md) -/
  | MS_RMW_POISON
  /-- 0x6000.09, U64, R304 (09_central_store.md) -/
  | MS_WB_DROPPED
  /-- 0x6000.0A, U8, R304 (09_central_store.md) -/
  | MS_HOT
  /-- 0x6000.0B, U8, R304 (09_central_store.md) -/
  | MS_NRR_SHIFT
  /-- 0x6000.0C, U64, R304 (09_central_store.md) -/
  | MS_NRR_COUNT
  /-- 0x6000.0D, BOOL, R304 (09_central_store.md) -/
  | MS_RETRAIN_EN
  /-- 0x6000.0E, ENUM, R304 (09_central_store.md) -/
  | MS_RETRAIN_DRAIN
  /-- 0x6000.0F, U16, R304 (09_central_store.md) -/
  | MS_QUEUE
  /-- 0x6010.01, BLOB, R305 (09_central_store.md) -/
  | MS_FROZEN_CORE
  /-- 0x6010.02, BLOB, R305 (09_central_store.md) -/
  | MS_FROZEN_INGEST
  /-- 0x6010.03, U16, R305 (09_central_store.md) -/
  | MS_RELEASE
  /-- 0x6010.04, BLOB, R305 (09_central_store.md) -/
  | MS_FREEZE_LOG
  /-- 0x6010.05, U64, R305 (09_central_store.md) -/
  | MS_FREEZES
  /-- 0x6010.06, ENUM, R305 (09_central_store.md) -/
  | WIN_APPLY
  /-- 0x6010.07, U16, R305 (09_central_store.md) -/
  | WIN_STATUS
  /-- 0x6020.01, ENUM, R306 (09_central_store.md) -/
  | CH_MODE
  /-- 0x6020.02, U8, R306 (09_central_store.md) -/
  | CH_WM_HIGH
  /-- 0x6020.03, U8, R306 (09_central_store.md) -/
  | CH_WM_LOW
  /-- 0x6020.04, Q8.4, R306 (09_central_store.md) -/
  | CH_TEMP
  /-- 0x6020.05, ENUM, R306 (09_central_store.md) -/
  | CH_REFRESH
  /-- 0x6020.06, U64, R306 (09_central_store.md) -/
  | CH_INIT_PTR
  /-- 0x6020.07, U8, R306 (09_central_store.md) -/
  | CH_RD_EYE_W
  /-- 0x6020.08, U16, R306 (09_central_store.md) -/
  | CH_RD_EYE_H
  /-- 0x6020.09, U8, R306 (09_central_store.md) -/
  | CH_WR_EYE_W
  /-- 0x6020.0A, U16, R306 (09_central_store.md) -/
  | CH_WR_EYE_H
  /-- 0x6020.0B, ENUM, R306 (09_central_store.md) -/
  | CH_RETRAIN_NOW
  /-- 0x6020.0C, U64, R306 (09_central_store.md) -/
  | CH_RETRAINS
  /-- 0x6020.0D, U32, R306 (09_central_store.md) -/
  | CH_DEFERRALS
  /-- 0x6020.0E, U64, R306 (09_central_store.md) -/
  | CH_CORRECTED
  /-- 0x6020.0F, U64, R306 (09_central_store.md) -/
  | CH_UNCORRECTABLE
  /-- 0x6020.10, U16, R306 (09_central_store.md) -/
  | CH_UTIL
  /-- 0x6040.01, U32, R307 (09_central_store.md) -/
  | QP_TARGET
  /-- 0x6040.02, U32, R307 (09_central_store.md) -/
  | QP_MAX_WAIT
  /-- 0x6040.03, U64, R307 (09_central_store.md) -/
  | QP_OVER
  /-- 0x6040.04, U64, R307 (09_central_store.md) -/
  | QP_BYTES
  /-- 0x6050.01, BOOL, R308 (09_central_store.md) -/
  | SC_ENABLE
  /-- 0x6050.02, ENUM, R308 (09_central_store.md) -/
  | SC_DRAIN
  /-- 0x6050.03, U16, R308 (09_central_store.md) -/
  | SC_RATE
  /-- 0x6050.04, U64, R308 (09_central_store.md) -/
  | SC_LAP_LAST
  /-- 0x6050.05, U64, R308 (09_central_store.md) -/
  | SC_LAP_LIMIT
  /-- 0x6050.06, U64, R308 (09_central_store.md) -/
  | SC_CORRECTED
  /-- 0x6050.07, U64, R308 (09_central_store.md) -/
  | SC_UNCORRECTABLE
  /-- 0x6050.08, U64, R308 (09_central_store.md) -/
  | SC_POSITION
  /-- 0x6050.09, ENUM, R308 (09_central_store.md) -/
  | SC_STATE
  /-- 0x6060.01, BLOB, R309 (09_central_store.md) -/
  | PN_LOG
  /-- 0x6060.02, U64, R309 (09_central_store.md) -/
  | PN_LOST
  /-- 0x6060.03, ENUM, R309 (09_central_store.md) -/
  | PN_CLEAR
  /-- 0x6100.01, BOOL, R310 (09_central_store.md) -/
  | WIN_ENABLE
  /-- 0x6100.02, ENUM, R310 (09_central_store.md) -/
  | WIN_SPACE
  /-- 0x6100.03, U8, R310 (09_central_store.md) -/
  | WIN_ID_LO
  /-- 0x6100.04, U8, R310 (09_central_store.md) -/
  | WIN_ID_HI
  /-- 0x6100.05, U64, R310 (09_central_store.md) -/
  | WIN_BASE
  /-- 0x6100.06, U64, R310 (09_central_store.md) -/
  | WIN_LIMIT
  /-- 0x6100.07, U8, R310 (09_central_store.md) -/
  | WIN_PERM
  /-- 0x6100.08, BOOL, R310 (09_central_store.md) -/
  | WIN_PENDING
  /-- 0x6800.01, ENUM, R372 (11_network_time.md) -/
  | ETH_MODE
  /-- 0x6800.02, ENUM, R372 (11_network_time.md) -/
  | ETH_FEC
  /-- 0x6800.03, BOOL, R372 (11_network_time.md) -/
  | ETH_AN
  /-- 0x6800.04, U8, R372 (11_network_time.md) -/
  | ETH_LINK
  /-- 0x6800.05, U8, R372 (11_network_time.md) -/
  | ETH_DEF_PCP
  /-- 0x6800.06, U64, R372 (11_network_time.md) -/
  | ETH_RX_FRAMES
  /-- 0x6800.07, U64, R372 (11_network_time.md) -/
  | ETH_TX_FRAMES
  /-- 0x6800.08, U64, R372 (11_network_time.md) -/
  | ETH_FCS_ERR
  /-- 0x6800.09, U64, R372 (11_network_time.md) -/
  | ETH_FEC_CORR
  /-- 0x6800.0A, U64, R372 (11_network_time.md) -/
  | ETH_FEC_UNCORR
  /-- 0x6800.0B, U64, R372 (11_network_time.md) -/
  | ETH_CUT
  /-- 0x6800.0C, U64, R372 (11_network_time.md) -/
  | ETH_STORED
  /-- 0x6800.0D, U64, R372 (11_network_time.md) -/
  | ETH_STOMPED
  /-- 0x6800.0E, U64, R372 (11_network_time.md) -/
  | ETH_FWD_DROPS
  /-- 0x6800.0F, U64, R372 (11_network_time.md) -/
  | ETH_OVERSIZE
  /-- 0x6800.10, U16, R372 (11_network_time.md) -/
  | ETH_QUEUE
  /-- 0x6810.01, U64, R373 (11_network_time.md) -/
  | NET_MAC
  /-- 0x6810.02, U32, R373 (11_network_time.md) -/
  | NET_IP4
  /-- 0x6810.03, U8, R373 (11_network_time.md) -/
  | NET_IP4_PREFIX
  /-- 0x6810.04, U32, R373 (11_network_time.md) -/
  | NET_IP4_GW
  /-- 0x6810.05, BLOB, R373 (11_network_time.md) -/
  | NET_IP6
  /-- 0x6810.06, U8, R373 (11_network_time.md) -/
  | NET_IP6_PREFIX
  /-- 0x6810.07, U16, R373 (11_network_time.md) -/
  | NET_VID
  /-- 0x6810.08, U8, R373 (11_network_time.md) -/
  | NET_PCP_CTRL
  /-- 0x6810.09, U8, R373 (11_network_time.md) -/
  | NET_PCP_PTP
  /-- 0x6810.0A, U64, R373 (11_network_time.md) -/
  | NET_UNCLAIMED
  /-- 0x6840.01, ENUM, R374 (11_network_time.md) -/
  | RQ_KIND
  /-- 0x6840.02, U32, R374 (11_network_time.md) -/
  | RQ_VALUE
  /-- 0x6840.03, U8, R374 (11_network_time.md) -/
  | RQ_PORTS
  /-- 0x6840.04, U32, R374 (11_network_time.md) -/
  | RQ_LEVEL
  /-- 0x6840.05, U64, R374 (11_network_time.md) -/
  | RQ_FRAMES
  /-- 0x6840.06, U64, R374 (11_network_time.md) -/
  | RQ_DROPS
  /-- 0x6900.01, BOOL, R375 (11_network_time.md) -/
  | PTP_ENABLE
  /-- 0x6900.02, ENUM, R375 (11_network_time.md) -/
  | PTP_PROFILE
  /-- 0x6900.03, U8, R375 (11_network_time.md) -/
  | PTP_DOMAIN
  /-- 0x6900.04, ENUM, R375 (11_network_time.md) -/
  | PTP_TRANSPORT
  /-- 0x6900.05, ENUM, R375 (11_network_time.md) -/
  | PTP_DELAY_MECH
  /-- 0x6900.06, BOOL, R375 (11_network_time.md) -/
  | PTP_TC_EN
  /-- 0x6900.07, ENUM, R375 (11_network_time.md) -/
  | PTP_STATE
  /-- 0x6900.08, I64, R375 (11_network_time.md) -/
  | PTP_OFFSET
  /-- 0x6900.09, I64, R375 (11_network_time.md) -/
  | PTP_MEAN_DELAY
  /-- 0x6900.0A, U64, R375 (11_network_time.md) -/
  | PTP_GM_ID
  /-- 0x6900.0B, U8, R375 (11_network_time.md) -/
  | PTP_SLAVE_PORT
  /-- 0x6900.0C, U32, R375 (11_network_time.md) -/
  | PTP_STEP_LIMIT
  /-- 0x6900.0D, U32, R375 (11_network_time.md) -/
  | PTP_LOCK_THRESH
  /-- 0x6900.0E, U32, R375 (11_network_time.md) -/
  | PTP_SLEW_MAX
  /-- 0x6900.0F, UQ0.16, R375 (11_network_time.md) -/
  | PTP_KP
  /-- 0x6900.10, UQ0.16, R375 (11_network_time.md) -/
  | PTP_KI
  /-- 0x6900.11, U8, R375 (11_network_time.md) -/
  | PTP_ANN_TIMEOUT
  /-- 0x6900.12, I32, R375 (11_network_time.md) -/
  | PTP_UTC_OFFSET
  /-- 0x6900.13, BLOB, R375 (11_network_time.md) -/
  | PTP_SMPTE
  /-- 0x6900.14, U16, R375 (11_network_time.md) -/
  | PTP_QUEUE
  /-- 0x6910.01, BOOL, R375 (11_network_time.md) -/
  | PP_ENABLE
  /-- 0x6910.02, ENUM, R375 (11_network_time.md) -/
  | PP_STATE
  /-- 0x6910.03, I32, R375 (11_network_time.md) -/
  | PP_ASYM
  /-- 0x6910.04, I64, R375 (11_network_time.md) -/
  | PP_PEER_DELAY
  /-- 0x6910.05, U32, R375 (11_network_time.md) -/
  | PP_RESIDENCE_MAX
  /-- 0x6920.01, ENUM, R376 (11_network_time.md) -/
  | TB_SOURCE
  /-- 0x6920.02, U64, R376 (11_network_time.md) -/
  | TB_NOW
  /-- 0x6920.03, I32, R376 (11_network_time.md) -/
  | TB_RATE
  /-- 0x6920.04, U64, R376 (11_network_time.md) -/
  | TB_SET
  /-- 0x6920.05, I32, R376 (11_network_time.md) -/
  | TB_ADJ
  /-- 0x6920.06, U32, R376 (11_network_time.md) -/
  | TB_STEPS
  /-- 0x6920.07, U64, R376 (11_network_time.md) -/
  | TB_SYNC_LOAD
  /-- 0x6920.08, U64, R376 (11_network_time.md) -/
  | TB_SYNC_TIME
  /-- 0x6920.09, U32, R376 (11_network_time.md) -/
  | TB_SYNC_REJECT
  /-- 0x6A00.01, ENUM, R377 (11_network_time.md) -/
  | EYE_MODE
  /-- 0x6A00.02, U64, R377 (11_network_time.md) -/
  | EYE_START
  /-- 0x6A00.03, UQ48.16, R377 (11_network_time.md) -/
  | EYE_PERIOD
  /-- 0x6A00.04, U32, R377 (11_network_time.md) -/
  | EYE_WIDTH
  /-- 0x6A00.05, U32, R377 (11_network_time.md) -/
  | EYE_COUNT
  /-- 0x6A00.06, U8, R377 (11_network_time.md) -/
  | EYE_GEN
  /-- 0x6A00.07, U8, R377 (11_network_time.md) -/
  | EYE_EVERY
  /-- 0x6A00.08, I32, R377 (11_network_time.md) -/
  | EYE_OFFSET
  /-- 0x6A00.09, ENUM, R377 (11_network_time.md) -/
  | EYE_POL
  /-- 0x6A00.0A, ENUM, R377 (11_network_time.md) -/
  | EYE_LATE
  /-- 0x6A00.0B, ENUM, R377 (11_network_time.md) -/
  | EYE_CTRL
  /-- 0x6A00.0C, ENUM, R377 (11_network_time.md) -/
  | EYE_STATE
  /-- 0x6A00.0D, U64, R377 (11_network_time.md) -/
  | EYE_EDGES
  /-- 0x6A00.0E, U32, R377 (11_network_time.md) -/
  | EYE_LATE_COUNT
  /-- 0x6A00.0F, U16, R377 (11_network_time.md) -/
  | EYE_QUEUE
  /-- 0x6A08.01, ENUM, R377 (11_network_time.md) -/
  | CAP_EDGE
  /-- 0x6A08.02, U8, R377 (11_network_time.md) -/
  | CAP_FILTER
  /-- 0x6A08.03, U32, R377 (11_network_time.md) -/
  | CAP_HOLDOFF
  /-- 0x6A08.04, BLOB, R377 (11_network_time.md) -/
  | CAP_READ
  /-- 0x6A08.05, U64, R377 (11_network_time.md) -/
  | CAP_COUNT
  /-- 0x6A08.06, U32, R377 (11_network_time.md) -/
  | CAP_IGNORED
  /-- 0x6A08.07, U32, R377 (11_network_time.md) -/
  | CAP_OVERFLOW
  /-- 0x6A08.08, U16, R377 (11_network_time.md) -/
  | CAP_QUEUE
  /-- 0x6C00.01, ENUM, R425 (13_clocking.md) -/
  | CK_STATE
  /-- 0x6C00.02, U32, R425 (13_clocking.md) -/
  | CK_FREQ
  /-- 0x6C00.03, U32, R425 (13_clocking.md) -/
  | CK_CEILING
  /-- 0x6C00.04, I32, R425 (13_clocking.md) -/
  | CK_MARGIN
  /-- 0x6C00.05, ENUM, R425 (13_clocking.md) -/
  | CK_SSC
  /-- 0x6C00.06, U16, R425 (13_clocking.md) -/
  | CK_LOCK_N
  /-- 0x6C00.07, ENUM, R425 (13_clocking.md) -/
  | CK_LOCK_WIN
  /-- 0x6C00.08, ENUM, R425 (13_clocking.md) -/
  | CK_BYPASS
  /-- 0x6C00.09, U8, R425 (13_clocking.md) -/
  | CK_BAND
  /-- 0x6C00.0A, BLOB, R425 (13_clocking.md) -/
  | CK_BAND_TABLE
  /-- 0x6C00.0B, ENUM, R425 (13_clocking.md) -/
  | CK_RELOCK
  /-- 0x6C00.0C, U32, R425 (13_clocking.md) -/
  | CK_LOCK_TIME
  /-- 0x6C00.0D, U32, R425 (13_clocking.md) -/
  | CK_UNLOCKS
  /-- 0x6C00.0E, U32, R425 (13_clocking.md) -/
  | CK_PHASE_ERR
  /-- 0x6C00.0F, U64, R425 (13_clocking.md) -/
  | CK_BYPASS_NS
  /-- 0x6C10.01, ENUM, R426 (13_clocking.md) -/
  | CK_REF_STATE
  /-- 0x6C10.02, BOOL, R426 (13_clocking.md) -/
  | CK_THROTTLE_REQ
  /-- 0x6C10.03, U8, R426 (13_clocking.md) -/
  | CK_SYNC_MASK
  /-- 0x6C10.04, ENUM, R426 (13_clocking.md) -/
  | CK_SYNC_ARM
  /-- 0x6C10.05, U8, R426 (13_clocking.md) -/
  | CK_SYNC_SKIPPED
  /-- 0x6C10.06, U32, R426 (13_clocking.md) -/
  | CK_SYNC_COUNT
  /-- 0x6C10.07, U32, R426 (13_clocking.md) -/
  | CK_BACKUP_PERIOD
  /-- 0x7000.01, U16, R444 (14_power_thermal.md) -/
  | PW_CEILING
  /-- 0x7000.02, U16, R444 (14_power_thermal.md) -/
  | PW_BASE
  /-- 0x7000.03, I32, R444 (14_power_thermal.md) -/
  | PW_FREE
  /-- 0x7000.04, U16, R444 (14_power_thermal.md) -/
  | PW_GRANTED
  /-- 0x7000.05, U16, R444 (14_power_thermal.md) -/
  | PW_WAIT_HIGH
  /-- 0x7000.06, U16, R444 (14_power_thermal.md) -/
  | PW_WAIT_NORMAL
  /-- 0x7000.07, BOOL, R444 (14_power_thermal.md) -/
  | PW_BLOCKED
  /-- 0x7000.08, U64, R444 (14_power_thermal.md) -/
  | PW_GRANTS
  /-- 0x7000.09, U32, R444 (14_power_thermal.md) -/
  | PW_MAX_WAIT
  /-- 0x7000.0A, BLOB, R444 (14_power_thermal.md) -/
  | PW_MEASURED
  /-- 0x7000.0B, U16, R444 (14_power_thermal.md) -/
  | PW_TOTAL
  /-- 0x7010.01, Q8.4, R445 (14_power_thermal.md) -/
  | TH_JUNCTION
  /-- 0x7010.02, Q8.4, R445 (14_power_thermal.md) -/
  | TH_WARN
  /-- 0x7010.03, Q8.4, R445 (14_power_thermal.md) -/
  | TH_HBM_WARN
  /-- 0x7010.04, U32, R445 (14_power_thermal.md) -/
  | TH_GRACE
  /-- 0x7010.05, U8, R445 (14_power_thermal.md) -/
  | TH_STAGE_MAX
  /-- 0x7010.06, U8, R445 (14_power_thermal.md) -/
  | TH_STAGE_DUE
  /-- 0x7010.07, ENUM, R445 (14_power_thermal.md) -/
  | TH_STATE
  /-- 0x7010.08, Q8.4, R445 (14_power_thermal.md) -/
  | TH_SHUT
  /-- 0x7010.09, Q8.4, R445 (14_power_thermal.md) -/
  | TH_RESTART
  /-- 0x7010.0A, U32, R445 (14_power_thermal.md) -/
  | TH_SHUTDOWNS
  /-- 0x7010.0B, Q8.4, R445 (14_power_thermal.md) -/
  | TH_LAST_PEAK
  /-- 0x7010.0C, ENUM, R445 (14_power_thermal.md) -/
  | TH_KEEPER_GATE
  /-- 0x7010.0D, U8, R445 (14_power_thermal.md) -/
  | TH_GLASS_DIODE
  /-- 0x7010.0E, ENUM, R445 (14_power_thermal.md) -/
  | TH_GLASS_GATE
  /-- 0x7020.01, ENUM, R446 (14_power_thermal.md) -/
  | TP_SOURCE
  /-- 0x7020.02, U8, R446 (14_power_thermal.md) -/
  | TP_DIODES
  /-- 0x7020.03, BLOB, R446 (14_power_thermal.md) -/
  | TP_SENSORS
  /-- 0x7020.04, Q8.4, R446 (14_power_thermal.md) -/
  | TP_FIXED
  /-- 0x7020.05, Q8.4, R446 (14_power_thermal.md) -/
  | TP_TEMP
  /-- 0x7020.06, U32, R446 (14_power_thermal.md) -/
  | TP_STALE
  /-- 0x7020.07, Q8.4, R446 (14_power_thermal.md) -/
  | TP_WARN
  /-- 0x7040.01, Q8.4, R447 (14_power_thermal.md) -/
  | TS_TEMP
  /-- 0x7040.02, BOOL, R447 (14_power_thermal.md) -/
  | TS_VALID
  /-- 0x7040.03, Q8.4, R447 (14_power_thermal.md) -/
  | TS_MAX
  /-- 0x7040.04, UQ2.14, R447 (14_power_thermal.md) -/
  | TS_IDEALITY
  /-- 0x7040.05, UQ8.8, R447 (14_power_thermal.md) -/
  | TS_SERIES
  /-- 0x7040.06, U32, R447 (14_power_thermal.md) -/
  | TS_FAULTS
  /-- 0x7400.01, ENUM, R462 (15_keeper.md) -/
  | KP_PROTECT
  /-- 0x7400.02, U8, R462 (15_keeper.md) -/
  | KP_BUSY
  /-- 0x7400.03, U64, R462 (15_keeper.md) -/
  | KP_WRITES
  /-- 0x7400.04, U64, R462 (15_keeper.md) -/
  | KP_REFUSED
  /-- 0x7400.05, U16, R462 (15_keeper.md) -/
  | KP_POOL_FREE
  /-- 0x7400.06, U16, R462 (15_keeper.md) -/
  | KP_RETIRED
  /-- 0x7400.07, U32, R462 (15_keeper.md) -/
  | KP_WEAR_MAX
  /-- 0x7400.08, U32, R462 (15_keeper.md) -/
  | KP_WEAR_MEAN
  /-- 0x7400.09, U32, R462 (15_keeper.md) -/
  | KP_REC_LOST
  /-- 0x7400.0A, U32, R462 (15_keeper.md) -/
  | KP_TWINS
  /-- 0x7400.0B, U32, R462 (15_keeper.md) -/
  | KP_REPAIRS
  /-- 0x7400.0C, U32, R462 (15_keeper.md) -/
  | KP_TRI_REPAIRS
  /-- 0x7400.0D, U32, R462 (15_keeper.md) -/
  | KP_TRI_NOVOTE
  /-- 0x7400.0E, BLOB, R462 (15_keeper.md) -/
  | KP_TRIWORDS
  /-- 0x7400.0F, BLOB, R462 (15_keeper.md) -/
  | KP_BAD_LOG
  /-- 0x7500.01, BOOL, R477 (16_insole_seams.md) -/
  | INS_ENABLE
  /-- 0x7500.02, ENUM, R477 (16_insole_seams.md) -/
  | INS_DRAIN
  /-- 0x7500.03, BLOB, R477 (16_insole_seams.md) -/
  | INS_IMAGE
  /-- 0x7500.04, BLOB, R477 (16_insole_seams.md) -/
  | INS_SHOWN
  /-- 0x7500.05, BOOL, R477 (16_insole_seams.md) -/
  | INS_KNOWN
  /-- 0x7500.06, ENUM, R477 (16_insole_seams.md) -/
  | INS_STATE
  /-- 0x7500.07, UQ8.8, R477 (16_insole_seams.md) -/
  | INS_VHV
  /-- 0x7500.08, U8, R477 (16_insole_seams.md) -/
  | INS_BAND
  /-- 0x7500.09, U8, R477 (16_insole_seams.md) -/
  | INS_FRAME
  /-- 0x7500.0A, U64, R477 (16_insole_seams.md) -/
  | INS_UPDATES
  /-- 0x7500.0B, U32, R477 (16_insole_seams.md) -/
  | INS_DISCHARGES
  /-- 0x7510.01, U8, R478 (16_insole_seams.md) -/
  | INS_WAVE_N
  /-- 0x7510.02, BLOB, R478 (16_insole_seams.md) -/
  | INS_WAVE
  /-- 0x7580.01, U8, R479 (16_insole_seams.md) -/
  | SM_ENABLE
  /-- 0x7580.02, ENUM, R479 (16_insole_seams.md) -/
  | SM_POLICY
  /-- 0x7580.03, BOOL, R479 (16_insole_seams.md) -/
  | SM_LATCH
  /-- 0x7580.04, U32, R479 (16_insole_seams.md) -/
  | SM_THRESH
  /-- 0x7580.05, U16, R479 (16_insole_seams.md) -/
  | SM_DEBOUNCE
  /-- 0x7580.06, U8, R479 (16_insole_seams.md) -/
  | SM_STATE
  /-- 0x7580.07, BLOB, R479 (16_insole_seams.md) -/
  | SM_OHMS
  /-- 0x7580.08, BOOL, R479 (16_insole_seams.md) -/
  | SM_LATCHED
  /-- 0x7580.09, ENUM, R479 (16_insole_seams.md) -/
  | SM_CLEAR
  /-- 0x7580.0A, U32, R479 (16_insole_seams.md) -/
  | SM_OPENS
  /-- 0x7800.01, ENUM, R55 (02_scene_model.md) -/
  | CAL_STATE
  /-- 0x7800.02, Q8.4, R55 (02_scene_model.md) -/
  | CAL_T0
  /-- 0x7800.03, Q8.4, R55 (02_scene_model.md) -/
  | CAL_T1
  /-- 0x7800.04, Q8.4, R55 (02_scene_model.md) -/
  | CAL_T2
  /-- 0x7800.05, ENUM, R55 (02_scene_model.md) -/
  | CAL_SOURCE
  /-- 0x7800.06, U64, R55 (02_scene_model.md) -/
  | CAL_BASE
  /-- 0x7800.07, U32, R55 (02_scene_model.md) -/
  | CAL_CRC
  /-- 0x7800.08, ENUM, R55 (02_scene_model.md) -/
  | CAL_LOAD
  /-- 0x7800.09, U16, R55 (02_scene_model.md) -/
  | CAL_WIDTH
  /-- 0x7800.0A, U16, R55 (02_scene_model.md) -/
  | CAL_HEIGHT
  /-- 0x7800.0B, U32, R55 (02_scene_model.md) -/
  | CAL_RESIDUAL
  /-- 0x7800.0C, U32, R55 (02_scene_model.md) -/
  | CAL_TAG
  /-- 0x7840.01, U8, R57 (02_scene_model.md) -/
  | CAL_RAYMAP_SEL
  /-- 0x7840.02, U8, R57 (02_scene_model.md) -/
  | CAL_GAIN_SEL
  /-- 0x7840.03, BOOL, R57 (02_scene_model.md) -/
  | CAL_GAIN_BYPASS
  /-- 0x7840.04, U8, R57 (02_scene_model.md) -/
  | CAL_PANEL_SLOT
  /-- 0x7840.05, U8, R57 (02_scene_model.md) -/
  | OUT_LUT_SEL
  /-- 0x7850.01, BLOB, R60 (02_scene_model.md) -/
  | IN_LUT_DATA
  /-- 0x7850.02, U32, R60 (02_scene_model.md) -/
  | IN_LUT_CRC
  /-- 0x7858.01, BLOB, R60 (02_scene_model.md) -/
  | OUT_LUT_DATA
  /-- 0x7858.02, U32, R60 (02_scene_model.md) -/
  | OUT_LUT_CRC
  /-- 0x8000.01, ENUM, R403 (12_control_dictionary.md) -/
  | NQ_MODE
  /-- 0x8000.02, U8, R403 (12_control_dictionary.md) -/
  | NQ_COUNT
  /-- 0x8000.03, BLOB, R403 (12_control_dictionary.md) -/
  | NQ_READ
  /-- 0x8000.04, U8, R403 (12_control_dictionary.md) -/
  | NQ_COAL_COUNT
  /-- 0x8000.05, U32, R403 (12_control_dictionary.md) -/
  | NQ_COAL_NS
  /-- 0x8000.06, BOOL, R403 (12_control_dictionary.md) -/
  | NQ_MSIX
  /-- 0x8000.07, U8, R403 (12_control_dictionary.md) -/
  | NQ_IRQ
  /-- 0x8000.08, U32, R403 (12_control_dictionary.md) -/
  | NQ_LOST
  /-- 0x8000.09, U32, R403 (12_control_dictionary.md) -/
  | NQ_SEQ
  /-- 0x8000.0A, U8, R403 (12_control_dictionary.md) -/
  | NQ_SUBS
  /-- 0xF000.01, ENUM, R505 (17_startup_service.md) -/
  | FW_STATE
  /-- 0xF000.02, U8, R505 (17_startup_service.md) -/
  | FW_RUNNING
  /-- 0xF000.03, U32, R505 (17_startup_service.md) -/
  | FW_VERSION
  /-- 0xF000.04, BLOB, R505 (17_startup_service.md) -/
  | FW_IMAGES
  /-- 0xF000.05, U64, R505 (17_startup_service.md) -/
  | FW_SELECTOR
  /-- 0xF000.06, U64, R505 (17_startup_service.md) -/
  | FW_SRC
  /-- 0xF000.07, ENUM, R505 (17_startup_service.md) -/
  | FW_SRC_SPACE
  /-- 0xF000.08, U32, R505 (17_startup_service.md) -/
  | FW_LENGTH
  /-- 0xF000.09, ENUM, R505 (17_startup_service.md) -/
  | FW_PROGRAM
  /-- 0xF000.0A, ENUM, R505 (17_startup_service.md) -/
  | FW_PROG_STATE
  /-- 0xF000.0B, ENUM, R505 (17_startup_service.md) -/
  | FW_SWITCH
  /-- 0xF000.0C, U32, R505 (17_startup_service.md) -/
  | FW_TRIAL_TIMEOUT
  /-- 0xF000.0D, U32, R505 (17_startup_service.md) -/
  | FW_RESTARTS
  /-- 0xF000.0E, U32, R505 (17_startup_service.md) -/
  | WD_TIMEOUT
  /-- 0xF000.0F, U64, R505 (17_startup_service.md) -/
  | FW_PROG_ADDR
  /-- 0xF000.10, U32, R505 (17_startup_service.md) -/
  | FW_PROG_LEN
  /-- 0xF000.11, U8, R505 (17_startup_service.md) -/
  | SV_STRAPS
  /-- 0xF000.12, ENUM, R505 (17_startup_service.md) -/
  | SV_RESET
  /-- 0xF000.13, BOOL, R505 (17_startup_service.md) -/
  | SU_AUTO_RESYNC
  /-- 0xF000.14, ENUM, R505 (17_startup_service.md) -/
  | SU_LAST_RESET
  /-- 0xF010.01, U64, R504 (17_startup_service.md) -/
  | LF_HOURS
  /-- 0xF010.02, U32, R504 (17_startup_service.md) -/
  | LF_CYCLES
  /-- 0xF010.03, U64, R504 (17_startup_service.md) -/
  | LF_EQUIV_H
  /-- 0xF010.04, U16, R504 (17_startup_service.md) -/
  | LF_LIFE_USED
  /-- 0xF010.05, Q8.4, R504 (17_startup_service.md) -/
  | LF_TJ_MEAN
  /-- 0xF010.06, BLOB, R504 (17_startup_service.md) -/
  | LF_TJ_HIST
  /-- 0xF010.07, U32, R504 (17_startup_service.md) -/
  | LF_WARM
  /-- R480, R491 (17_startup_service.md), 8 bits, 1 instance(s): 0 BOOT, 1 RUNNING (dictionary served), 2 RECOVERY, 3 WARM RESTART under way, 4 HARDWARE SHUTDOWN -/
  | iPHASE
  /-- R495 (17_startup_service.md), 8 bits, 1 instance(s): WATCHDOG_RESTART cause owed at RUNNING; 0xFF none -/
  | iWARM_CAUSE
  /-- R493 (17_startup_service.md), 64 bits, 1 instance(s): network time of RUNNING -/
  | iRUN_NS
  /-- R493 (17_startup_service.md), 8 bits, 2 instance(s): 1 while surface s is in the start-up dark period -/
  | iSTARTUP
  /-- R493 (17_startup_service.md), 8 bits, 2 instance(s): 1 once the 1,000 ms start-up limit passed for surface s -/
  | iSTARTUP_OVER
  /-- R494 (17_startup_service.md), 8 bits, 1 instance(s): 1 once PTP has first entered LOCKED after the reset -/
  | iRESYNC_DONE
  /-- R499 (17_startup_service.md), 64 bits, 1 instance(s): local time, in ns, at which FW_STATE became TRIAL -/
  | iTRIAL_NS
  /-- R404, R382 (12_control_dictionary.md), 8 bits, 1 instance(s): 1: OD_FACTORY pending for the next warm restart -/
  | iFACTORY
  /-- R393, R382 (12_control_dictionary.md), 32 bits, 1 instance(s): pending RESTART value of PLV_PORT; 0x10000 none -/
  | iPEND_PLV_PORT
  /-- R188, R382 (06_stream_ingest.md), 32 bits, 1 instance(s): pending RESTART value of ING_PORT; 0x10000 none -/
  | iPEND_ING_PORT
  /-- R32 (01_architecture.md), 64 bits, 1 instance(s): network time at which all four Pip cores were frozen -/
  | iPIP_FROZE_NS
  /-- R503 (17_startup_service.md), 16 bits, 1 instance(s): highest TH_JUNCTION of the minute under way (Q8.4) -/
  | iMIN_MAX
  /-- R503 (17_startup_service.md), 64 bits, 1 instance(s): powered minutes since the last full hour of LF_HOURS -/
  | iMIN_COUNT
  /-- R503 (17_startup_service.md), 64 bits, 1 instance(s): equivalent minutes at 90 C, in units of 2^-32 minute, below one hour -/
  | iEQUIV_MIN
  /-- R503 (17_startup_service.md), 128 bits, 1 instance(s): sum of minute maxima over powered life (two complement) -/
  | iTJ_SUM
  /-- R503 (17_startup_service.md), 64 bits, 16 instance(s): minutes in band b of LF_TJ_HIST since its last full hour -/
  | iHIST_MIN
  /-- R209 (07_scanout.md), 64 bits, 4 instance(s): boundaries taken by generator g since reset; 0: first boundary still to come -/
  | iG_COUNT
  /-- R208, R209 (07_scanout.md), 128 bits, 4 instance(s): network time of the latest boundary, in 1/3 ns -/
  | iG_B3
  /-- R210 (07_scanout.md), 128 bits, 4 instance(s): local count at the latest boundary, 2^-48 ns -/
  | iG_BLOCAL
  /-- R214 (07_scanout.md), 8 bits, 4 instance(s): rate to be taken at the next boundary of a generator without users; 0xFF none -/
  | iG_PENDRATE
  /-- R211 (07_scanout.md), 8 bits, 4 instance(s): 1: LAST_RESYNC written and not yet taken -/
  | iG_RESYNC
  /-- R21 (01_architecture.md), 64 bits, 2 instance(s): iG_COUNT of the boundary surface s has taken -/
  | iS_SEEN
  /-- R216 (07_scanout.md), 32 bits, 2 instance(s): next active ray line (b x L + j) of surface s -/
  | iS_LINE
  /-- R209, R239 (08_welt_link.md), 32 bits, 2 instance(s): ray lines of the raster of the frame under way whose blanking slots were sent or passed -/
  | iS_RAST
  /-- R108 (04_hazel_array.md), 32 bits, 2 instance(s): next active band to be dispatched -/
  | iS_DISPATCHED
  /-- R111 (04_hazel_array.md), 32 bits, 2 instance(s): next band whose slot is to be released -/
  | iS_RELEASED
  /-- R126, R438 (04_hazel_array.md), 8 bits, 2 instance(s): throttle stage in force on surface s -/
  | iS_STAGE
  /-- R438 (14_power_thermal.md), 8 bits, 2 instance(s): thermal stage surface s last applied -/
  | iS_TSTAGE
  /-- R193 (06_stream_ingest.md), 64 bits, 2 instance(s): iG_COUNT of the frame whose deadline surface s has taken -/
  | iS_DEADLINE
  /-- R201 (06_stream_ingest.md), 8 bits, 2 instance(s): 1 while surface s is in a dark transition -/
  | iS_DARK
  /-- R201 (06_stream_ingest.md), 8 bits, 2 instance(s): 1: the deadline decided that the next boundary lights -/
  | iS_LIGHT
  /-- R220 (07_scanout.md), 8 bits, 2 instance(s): 1: SO_ENABLE 0 draining to the next boundary -/
  | iS_DISABLE
  /-- R220 (07_scanout.md), 8 bits, 2 instance(s): 1: SO_ENABLE 1 taken at the next boundary -/
  | iS_ENABLE
  /-- R247 (08_welt_link.md), 64 bits, 2 instance(s): network time at which the surface became OFF -/
  | iS_OFF_NS
  /-- R492 (17_startup_service.md), 8 bits, 2 instance(s): 1 once a commit was accepted on the surface (power-up state left) -/
  | iS_COMMITTED
  /-- R122 (04_hazel_array.md), 64 bits, 8 instance(s): cost of measure m (0 OPS, 1 SAMP, 2 DEC, 3 BYTES) of the state in force; instance 4s+m -/
  | iS_COST
  /-- R125, R42 (04_hazel_array.md), 16 bits, 2 instance(s): reservation of the state in force -/
  | iS_RESV
  /-- R54 (02_scene_model.md), 8 bits, 8 instance(s): lo, hi, w of the ray-map set and of the gain set: instance 4s+2k is lo + 4 x hi, 4s+2k+1 is w -/
  | iS_LOHI
  /-- R78, R492 (02_scene_model.md), 8 bits, 2 instance(s): 1 while the gain set of surface s is applied, as found at the boundary -/
  | iS_GAIN_ON
  /-- R134 (04_hazel_array.md), 32 bits, 16 instance(s): engines of cluster n under self-test; bit 16 the cluster -/
  | iCL_SELFTEST
  /-- R134 (04_hazel_array.md), 32 bits, 16 instance(s): engines whose self-test passed, waiting for the array boundary; bit 16 cluster -/
  | iCL_PASSED
  /-- R131 (04_hazel_array.md), 8 bits, 16 instance(s): program slot to load when the cluster next returns; 0xFF none -/
  | iCL_RELOAD
  /-- R129 (04_hazel_array.md), 8 bits, 1 instance(s): target slot of the running swap; 0xFF none -/
  | iSWAP_SLOT
  /-- R201 (06_stream_ingest.md), 8 bits, 2 instance(s): 1: the frame under way began with a change of the generator that times the surface -/
  | iS_GENCHG
  /-- R131 (04_hazel_array.md), 8 bits, 1 instance(s): program the cluster being swapped ran before -/
  | iSWAP_OLD
  /-- R136 (04_hazel_array.md), 32 bits, 21 instance(s): pending array-wide value: 0 HZ_CLUSTER_EN, 1 HZ_SHARE_A, 2 HZ_BYTES_NS, 3 CK_SSC HZ, 4 CK_SSC FB, 5.. none; 0xFFFFFFFF none -/
  | iARR
  /-- R136, R138 (04_hazel_array.md), 32 bits, 32 instance(s): pending CL_FENCE_REQ (instance n) and CL_FENCE (16+n); 0xFFFFFFFF none -/
  | iARR_CL
  /-- R136 (04_hazel_array.md), 8 bits, 37 instance(s): bit s: a deadline of surface s followed the write of that pending value -/
  | iARR_SEEN
  /-- R133 (04_hazel_array.md), 16 bits, 16 instance(s): host-fenced engines in force of cluster n (0xFFFF whole) -/
  | iFENCE_HOST
  /-- R173 (05_husk_codec.md), 8 bits, 8 instance(s): 1: a job was under way when the codec froze -/
  | iGC_FROZEN_JOB
  /-- R164 (05_husk_codec.md), 512 bits, 8 instance(s): job descriptor of the running job, as read; 0 where its read failed -/
  | iGC_JOB
  /-- R164, R170 (05_husk_codec.md), 16 bits, 8 instance(s): JOB_TAG of that job; a free value where its read failed -/
  | iGC_TAG
  /-- R361 (11_network_time.md), 8 bits, 1 instance(s): state of the PTP servo: 0 FREE, 1 ACQUIRING, 2 LOCKED, 3 HOLDOVER -/
  | iSERVO
  /-- R369 (11_network_time.md), 8 bits, 1 instance(s): state of the SYNC_IN discipline, coded as iSERVO -/
  | iSYNC_STATE
  /-- R395, R483 (12_control_dictionary.md), 8 bits, 1 instance(s): 1 while the host has enabled MSI-X on F0 -/
  | iMSIX_EN
  /-- R395 (12_control_dictionary.md), 64 bits, 2048 instance(s): address of vector q in the MSI-X table -/
  | iMSIX_ADDR
  /-- R395 (12_control_dictionary.md), 32 bits, 2048 instance(s): data of vector q in the MSI-X table -/
  | iMSIX_DATA
  /-- R395, R402 (12_control_dictionary.md), 8 bits, 2048 instance(s): 1 while vector q is masked in the MSI-X table -/
  | iMSIX_MASK
  /-- R402 (12_control_dictionary.md), 8 bits, 2048 instance(s): pending bit of vector q -/
  | iMSIX_PEND
  /-- R395 (12_control_dictionary.md), 32 bits, 2 instance(s): ACC_STATUS of F0 (instance 0) and F3 (instance 1) -/
  | iACC_STATUS
  /-- R395 (12_control_dictionary.md), 32 bits, 2 instance(s): ACC_ID of F0 and F3 -/
  | iACC_ID
  /-- R395, R397 (12_control_dictionary.md), 524288 bits, 2 instance(s): latch of F0 and F3, 65,536 bytes -/
  | iLATCH
  /-- R301, R310 (09_central_store.md), 8 bits, 64 instance(s): WIN_ENABLE in force -/
  | iWIN_ENABLE
  /-- R301, R310 (09_central_store.md), 8 bits, 64 instance(s): WIN_SPACE in force -/
  | iWIN_SPACE
  /-- R301, R310 (09_central_store.md), 8 bits, 64 instance(s): WIN_ID_LO in force -/
  | iWIN_ID_LO
  /-- R301, R310 (09_central_store.md), 8 bits, 64 instance(s): WIN_ID_HI in force -/
  | iWIN_ID_HI
  /-- R301, R310 (09_central_store.md), 64 bits, 64 instance(s): WIN_BASE in force -/
  | iWIN_BASE
  /-- R301, R310 (09_central_store.md), 64 bits, 64 instance(s): WIN_LIMIT in force -/
  | iWIN_LIMIT
  /-- R301, R310 (09_central_store.md), 8 bits, 64 instance(s): WIN_PERM in force -/
  | iWIN_PERM
  /-- R279 (09_central_store.md), 32 bits, 64 instance(s): sweep pointer of pseudo-channel p (published in CH_INIT_PTR) -/
  | iSWEEP
  /-- R293 (09_central_store.md), 64 bits, 2 instance(s): local time, in ns, from which stack n has reported 82 C or less; 0 none -/
  | iHOT_SINCE
  /-- R292 (09_central_store.md), 8 bits, 64 instance(s): next bank of pseudo-channel p to be refreshed -/
  | iREF_BANK
  /-- R294 (09_central_store.md), 64 bits, 32 instance(s): how many words controller c has drawn from its neighbour-refresh generator -/
  | iNRR_STEP
  /-- R292 (09_central_store.md), 64 bits, 64 instance(s): refreshes performed by pseudo-channel p -/
  | iREF_COUNT
  /-- R295 (09_central_store.md), 64 bits, 1 instance(s): local time, in ns, plus 1, at which the retraining periods started; 0 before -/
  | iRT_BASE
  /-- R295 (09_central_store.md), 64 bits, 32 instance(s): the first period of 100 ms whose retraining of channel c has neither fallen due nor passed -/
  | iRT_PERIOD
  /-- R295 (09_central_store.md), 8 bits, 32 instance(s): pauses still to run of the retraining in progress on channel c -/
  | iRT_LEFT
  /-- R295 (09_central_store.md), 64 bits, 32 instance(s): local time from which the next pause of channel c waits -/
  | iRT_SINCE
  /-- R295 (09_central_store.md), 64 bits, 32 instance(s): local time of the latest pause start of channel c -/
  | iRT_LAST
  /-- R295 (09_central_store.md), 8 bits, 32 instance(s): consecutive pauses of channel c that found no eye -/
  | iRT_NOEYE
  /-- R295 (09_central_store.md), 8 bits, 32 instance(s): least read eye width of the retraining in progress -/
  | iRT_RW
  /-- R295 (09_central_store.md), 16 bits, 32 instance(s): least read eye height -/
  | iRT_RH
  /-- R295 (09_central_store.md), 8 bits, 32 instance(s): least write eye width -/
  | iRT_WW
  /-- R295 (09_central_store.md), 16 bits, 32 instance(s): least write eye height -/
  | iRT_WH
  /-- R295, R405 (09_central_store.md), 8 bits, 1 instance(s): 1 while retraining drains after MS_RETRAIN_EN was written with 0 -/
  | iRT_DRAIN
  /-- R295 (09_central_store.md), 16 bits, 128 instance(s): settings in force of channel c: 4c read delay, 4c+1 read voltage, 4c+2 write delay, 4c+3 write voltage, in steps -/
  | iRT_SET
  /-- R295 (09_central_store.md), 16 bits, 128 instance(s): the same when the retraining in progress began -/
  | iRT_SET0
  /-- R297 (09_central_store.md), 64 bits, 4 instance(s): local time, in ns, at which the lap of scrubber k began -/
  | iLAP_START
  /-- R297 (09_central_store.md), 8 bits, 4 instance(s): 1 once the walk of scrubber k has begun, so that a lap is under way -/
  | iLAP_OPEN
  /-- R300 (09_central_store.md), 8 bits, 4 instance(s): 1: the lap of scrubber k was interrupted -/
  | iLAP_BROKEN
  /-- R297 (09_central_store.md), 8 bits, 4 instance(s): 1: SCRUB_SLOW was raised for the lap of scrubber k -/
  | iLAP_SLOW
  /-- R297 (09_central_store.md), 16 bits, 2 instance(s): released slots of the ring of surface s tested in the lap under way -/
  | iRING_TESTS
  /-- R297 (09_central_store.md), 64 bits, 16 instance(s): lines of the cache of cluster n invalidated by the cache scrubber -/
  | iCACHE_INVALID
  /-- R182 (06_stream_ingest.md), 32 bits, 3072 instance(s): source frame number of bank k of buffer n (instance 3n+k) -/
  | iBK_FRAME
  /-- R191 (06_stream_ingest.md), 16 bits, 3072 instance(s): MAXB of the bank -/
  | iBK_MAXB
  /-- R182, R189 (06_stream_ingest.md), 8 bits, 1024 instance(s): 1: the FILL bank of buffer n is to be sealed once its SEALING bank is READY -/
  | iBUF_SEAL
  /-- R191 (06_stream_ingest.md), 32 bits, 3072 instance(s): CONCEALED entries of the bank -/
  | iBK_CONC
  /-- R178, R206 (06_stream_ingest.md), 64 bits, 3072 instance(s): address of the tile index of the bank -/
  | iBK_INDEX
  /-- R179, R206 (06_stream_ingest.md), 64 bits, 3072 instance(s): address OFFSET is counted from -/
  | iBK_BASE
  /-- R206 (06_stream_ingest.md), 8 bits, 3072 instance(s): 1 while the bank is a cue frame -/
  | iBK_CUE
  /-- R119 (04_hazel_array.md), 32 bits, 2048 instance(s): TYLO and TYHI of ray-map slot i: instance 64i + 2v (+1 for TYHI), +32 for V_COUNT 6 -/
  | iTY
  /-- R192 (06_stream_ingest.md), 32 bits, 1 instance(s): next commit ID; skips 0 when it wraps -/
  | iCMT_NEXT
  /-- R195 (06_stream_ingest.md), 64 bits, 16 instance(s): order in which commit group g was last opened -/
  | iCG_SEQ
  /-- R195 (06_stream_ingest.md), 64 bits, 1 instance(s): next value of iCG_SEQ -/
  | iCG_NEXT
  /-- R206 (06_stream_ingest.md), 64 bits, 2 instance(s): frame number S at which the playback of surface s began -/
  | iPB_S
  /-- R206 (06_stream_ingest.md), 16 bits, 2 instance(s): cue the armed or running playback of surface s plays -/
  | iPB_CUE
  /-- R206 (06_stream_ingest.md), 32 bits, 2 instance(s): first cue frame of the armed or running playback -/
  | iPB_FIRST
  /-- R206 (06_stream_ingest.md), 8 bits, 2 instance(s): PB_END of the armed or running playback -/
  | iPB_ENDMODE
  /-- R185, R188 (06_stream_ingest.md), 40 bits, 256 instance(s): highest SEQ accepted of stream slot n, plus 1; 0 none -/
  | iSEQ_HIGH
  /-- R390 (12_control_dictionary.md), 256 bits, 1024 instance(s): session key of session n -/
  | iSS_KEY
  /-- R390 (12_control_dictionary.md), 8 bits, 1024 instance(s): 1: session n has a session key -/
  | iSS_KEYED
  /-- R268 (08_welt_link.md), 8 bits, 2 instance(s): 1: the default spare map is restored at the next bring-up -/
  | iWL_MAPRESET
  /-- R206 (06_stream_ingest.md), 64 bits, 2 instance(s): PB_START of the armed or running playback -/
  | iPB_START
  /-- R491, R439 (07_scanout.md), 8 bits, 1 instance(s): 1 while the Last generators run -/
  | iG_RUN
  /-- R56 (02_scene_model.md), 16 bits, 64 instance(s): W at the start of the validation of a slot -/
  | iCAL_W
  /-- R56 (02_scene_model.md), 16 bits, 64 instance(s): H at the start of the validation of a slot -/
  | iCAL_H
  /-- R244 to R266 (08_welt_link.md), 8 bits, 168 instance(s): what the training of the lane belongs to: 0 nothing, 1 bring-up, 2 RETRY, 3 RETRAIN, 4 SPARED attempt -/
  | iWL_CTX
  /-- R244 to R266 (08_welt_link.md), 8 bits, 168 instance(s): phase of a SPARED attempt: 0 none, 1 TRAIN, 2 LOCK, 3 EXCHANGE -/
  | iWL_PH
  /-- R244 to R266 (08_welt_link.md), 64 bits, 168 instance(s): local time, in ns, of entry to the state or phase -/
  | iWL_SINCE
  /-- R244 to R266 (08_welt_link.md), 8 bits, 168 instance(s): consecutive pulses that saw a receiver, at most 2 -/
  | iWL_PRES
  /-- R244 to R266 (08_welt_link.md), 8 bits, 168 instance(s): consecutive pulses that saw none -/
  | iWL_ABS
  /-- R244 to R266 (08_welt_link.md), 8 bits, 168 instance(s): failed attempts -/
  | iWL_FAILS
  /-- R244 to R266 (08_welt_link.md), 8 bits, 168 instance(s): 1 once negotiation has ended -/
  | iWL_NEG
  /-- R244 to R266 (08_welt_link.md), 16 bits, 168 instance(s): MSEQ of the CONFIG sent in EXCHANGE, plus 1; 0 none -/
  | iWL_CFG
  /-- R244 to R266 (08_welt_link.md), 8 bits, 168 instance(s): 1 once that CONFIG was acknowledged -/
  | iWL_CFGACK
  /-- R244 to R266 (08_welt_link.md), 8 bits, 168 instance(s): coefficient requests in this EXCHANGE -/
  | iWL_REQN
  /-- R244 to R266 (08_welt_link.md), 8 bits, 168 instance(s): EQ_ACK of the training sets -/
  | iWL_EQACK
  /-- R244 to R266 (08_welt_link.md), 8 bits, 168 instance(s): EQ_REJECT of the training sets -/
  | iWL_EQREJ
  /-- R244 to R266 (08_welt_link.md), 8 bits, 168 instance(s): BIT_LOCK last reported -/
  | iWL_BIT
  /-- R244 to R266 (08_welt_link.md), 8 bits, 168 instance(s): BLOCK_LOCK last reported -/
  | iWL_BLK
  /-- R244 to R266 (08_welt_link.md), 8 bits, 168 instance(s): physical lane that covers the lane during its RETRAIN; 0xFF none -/
  | iWL_COVER
  /-- R244 to R266 (08_welt_link.md), 8 bits, 168 instance(s): logical lane the lane gave up; 0xFF none -/
  | iWL_FORMER
  /-- R244 to R266 (08_welt_link.md), 64 bits, 168 instance(s): local time of TEST_CMD for the lane -/
  | iWL_PRBSAT
  /-- R244 to R266 (08_welt_link.md), 8 bits, 168 instance(s): 1 while the raw pattern is sent -/
  | iWL_PRBSRUN
  /-- R265 (08_welt_link.md), 32 bits, 168 instance(s): register of the raw pattern the lane sends -/
  | iWL_PRBSREG
  /-- R244 (08_welt_link.md), 8 bits, 168 instance(s): training sets sent on the lane, modulo 256 -/
  | iWL_TS
  /-- R244 (08_welt_link.md), 64 bits, 168 instance(s): local time, in ns, at which the next training group of the lane begins -/
  | iWL_TSAT
  /-- R246 (08_welt_link.md), 64 bits, 168 instance(s): local time of the latest receiver-detection pulse, plus 1; 0 none since DETECT was entered -/
  | iWL_PULSE
  /-- R257 (08_welt_link.md), 64 bits, 4 instance(s): the latest 58 bits of the return lane before descrambling, the oldest lowest -/
  | iWR_DESC
  /-- R258 (08_welt_link.md), 8 bits, 4 instance(s): consecutive valid sync headers on the return lane, at most 64 -/
  | iWR_RUN
  /-- R258 (08_welt_link.md), 64 bits, 4 instance(s): the latest 64 sync headers of the return lane: a bit is 1 where the header was invalid -/
  | iWR_HIST
  /-- R266 (08_welt_link.md), 64 bits, 4 instance(s): local time at which the test of the return lane began -/
  | iWR_PRBSAT
  /-- R248 (08_welt_link.md), 8 bits, 2 instance(s): lane of surface s in RETRAIN or a SPARED attempt, or waiting for its grant; 0xFF none -/
  | iWL_BUSY
  /-- R262 (08_welt_link.md), 8 bits, 2 instance(s): 1 while a CAPS is held -/
  | iWL_CAPS
  /-- R262 (08_welt_link.md), 16 bits, 2 instance(s): SEQ of the latest CAPS -/
  | iWL_CAPSSEQ
  /-- R259 (08_welt_link.md), 8 bits, 2 instance(s): next MSEQ of surface s -/
  | iWL_MSEQ
  /-- R258, R262 (08_welt_link.md), 64 bits, 2 instance(s): local time at which the last return lane left LOCKED -/
  | iWL_LOSTAT
  /-- R434 (08_welt_link.md), 64 bits, 2 instance(s): local time of the latest SENSORS message -/
  | iWL_SENSAT
  /-- R260 (08_welt_link.md), 8 bits, 2 instance(s): sensors in the latest SENSORS message -/
  | iWL_SENSN
  /-- R249 (08_welt_link.md), 8 bits, 2 instance(s): 1 while an idle order of the surface stands -/
  | iWL_IDLEORD
  /-- R249 (08_welt_link.md), 64 bits, 2 instance(s): frame (iG_COUNT) whose blanking exit order was given -/
  | iWL_IDLED
  /-- R240, R262 (08_welt_link.md), 64 bits, 2 instance(s): EFFECT_FRAME of the latest CONFIG that named one, plus 1; 0 none -/
  | iWL_CFGAT
  /-- R173 (05_husk_codec.md), 32 bits, 8 instance(s): TILES_DONE of the job that a freeze interrupted -/
  | iGC_DONE
  /-- R173 (05_husk_codec.md), 64 bits, 8 instance(s): OUT_BYTES of that job -/
  | iGC_OUT
  /-- R168, R173 (05_husk_codec.md), 64 bits, 8 instance(s): address of the output buffer descriptor in use by the job interrupted by a freeze; 0 none -/
  | iGC_BUF
  /-- R168, R173 (05_husk_codec.md), 32 bits, 8 instance(s): bytes that job had used of that buffer -/
  | iGC_OFF
  /-- R173 (05_husk_codec.md), 32 bits, 8 instance(s): N_INTRA of that job -/
  | iGC_NI
  /-- R173 (05_husk_codec.md), 32 bits, 8 instance(s): N_REF of that job -/
  | iGC_NR
  /-- R173 (05_husk_codec.md), 32 bits, 8 instance(s): N_RAW of that job -/
  | iGC_NW
  /-- R459 (15_keeper.md), 64 bits, 48 instance(s): copy c of tri-word w: instance 16c + w -/
  | iTRI
  /-- R450, R471 (15_keeper.md), 8 bits, 1 instance(s): 1 while PWR_FAIL_N is taken as low -/
  | iPWR_FAIL
  /-- R383 (12_control_dictionary.md), 64 bits, 1 instance(s): local time, in ns, of the latest repetition of refused KEEP writes -/
  | iKEEP_TRY
  /-- R318, R320 (10_laces_skivers.md), 32 bits, 64 instance(s): bytes of the active descriptor of lace n that have been moved -/
  | iLC_POS
  /-- R318 (10_laces_skivers.md), 32 bits, 64 instance(s): bytes still to move of the burst under way -/
  | iLC_BURST
  /-- R316 (10_laces_skivers.md), 64 bits, 64 instance(s): address of the next descriptor of the chain, still to be fetched; 0 none -/
  | iLC_NEXT
  /-- R318 (10_laces_skivers.md), 8 bits, 64 instance(s): 1 while an event request holds a pending burst -/
  | iLC_EVENT
  /-- R321 (10_laces_skivers.md), 8 bits, 64 instance(s): 1 once LACE_HALF was posted, or is no longer due, for the active descriptor -/
  | iLC_HALF
  /-- R316, R323 (10_laces_skivers.md), 8 bits, 64 instance(s): 1: the descriptor at LC_CUR_ADDR read as poisoned -/
  | iLC_NODESC
  /-- R322 (10_laces_skivers.md), 8 bits, 64 instance(s): 1 while a Keeper page write of the lace is requested or under way -/
  | iLC_PAGE
  /-- R319 (10_laces_skivers.md), 8 bits, 64 instance(s): 1 once the level request of the burst under way was withdrawn after its first memory request -/
  | iLC_WDRAW
  /-- R326 (10_laces_skivers.md), 8 bits, 64 instance(s): 1 while an abandoned lace waits for the end of its page write -/
  | iLC_ABANDON
  /-- R324 (10_laces_skivers.md), 8 bits, 1 instance(s): cause of the bus error that is stopping the laces -/
  | iLS_CAUSE
  /-- R324 (10_laces_skivers.md), 8 bits, 1 instance(s): lace that met it -/
  | iLS_LACE
  /-- R324 (10_laces_skivers.md), 64 bits, 1 instance(s): address of the failing access -/
  | iLS_ADDR
  /-- R366 (11_network_time.md), 72 bits, 8 instance(s): frame number plus 1 whose edge output e produced ahead of its boundary -/
  | iEYE_FRAME
  /-- R366, R368 (11_network_time.md), 64 bits, 8 instance(s): number k of the next edge of output e -/
  | iEYE_K
  /-- R366 (11_network_time.md), 8 bits, 8 instance(s): 1 while output e is active -/
  | iEYE_ON
  /-- R366 (11_network_time.md), 128 bits, 8 instance(s): local count, in 2^-48 ns, at which the pulse of output e ends, plus 1; 0 without end -/
  | iEYE_END
  /-- R366 (11_network_time.md), 8 bits, 8 instance(s): 1 once the last edge of output e is produced or skipped -/
  | iEYE_LAST
  /-- R370 (11_network_time.md), 96 bits, 8 instance(s): time of the latest counted edge of capture e, in 2^-16 ns, plus 1; 0 none -/
  | iCAP_AT
  /-- R370 (11_network_time.md), 8 bits, 8 instance(s): 1: the timebase stepped since the previous record -/
  | iCAP_STEPPED
  /-- R370 (11_network_time.md), 8 bits, 8 instance(s): 1 once EYE_OVERFLOW was raised since the queue was last emptied -/
  | iCAP_FULL
  /-- R361 (11_network_time.md), 8 bits, 1 instance(s): consecutive Sync messages inside the threshold (ACQUIRING), or outside four times it (LOCKED) -/
  | iPTP_RUN
  /-- R359, R361 (11_network_time.md), 8 bits, 1 instance(s): 1: the next offset is the first from its master -/
  | iPTP_FIRST
  /-- R361 (11_network_time.md), 128 bits, 1 instance(s): t2 - t1 of the latest Sync, corrected, 2^-16 ns -/
  | iPTP_DIFF
  /-- R358 (11_network_time.md), 128 bits, 1 instance(s): egress time stamp of the latest Delay_Req, 2^-16 ns -/
  | iPTP_T3
  /-- R358 (11_network_time.md), 16 bits, 1 instance(s): sequence number of the latest Delay_Req -/
  | iPTP_SEQ
  /-- R358 (11_network_time.md), 8 bits, 1 instance(s): 1 while a Delay_Resp is awaited -/
  | iPTP_WAIT
  /-- R358 (11_network_time.md), 8 bits, 1 instance(s): logMessageInterval of Delay_Req that the master states -/
  | iPTP_EVERY
  /-- R358 (11_network_time.md), 64 bits, 1 instance(s): local time, in ns, at which the latest Delay_Req was sent, plus 1 -/
  | iPTP_SENT
  /-- R359 (11_network_time.md), 128 bits, 1 instance(s): identity of the clock that sends Sync to the slave port -/
  | iPTP_SOURCE
  /-- R365 (11_network_time.md), 128 bits, 2 instance(s): egress time stamp of the latest Pdelay_Req of port p, 2^-16 ns -/
  | iPP_T1
  /-- R365 (11_network_time.md), 16 bits, 2 instance(s): its sequence number -/
  | iPP_SEQ
  /-- R365 (11_network_time.md), 64 bits, 2 instance(s): local time, in ns, at which it was sent, plus 1 -/
  | iPP_SENT
  /-- R369 (11_network_time.md), 8 bits, 1 instance(s): as iPTP_RUN, for the SYNC_IN discipline -/
  | iSYNC_RUN
  /-- R369 (11_network_time.md), 8 bits, 1 instance(s): 1: the next edge of SYNC_IN is the first after the selection -/
  | iSYNC_FIRST
  /-- R342 (11_network_time.md), 8 bits, 8 instance(s): FEC that sub-port i mod 4 of port i / 4 uses since its link came up: 0 none, 1 RS, 2 BASE-R -/
  | iETH_FEC
  /-- R369 (11_network_time.md), 64 bits, 1 instance(s): local time, in ns, of the latest accepted edge of SYNC_IN -/
  | iSYNC_AT
  /-- R312, R314 (10_laces_skivers.md), 8 bits, 1 instance(s): 1 while bus mastering of F2 is enabled -/
  | iF2_BM
  /-- R31, R339 (10_laces_skivers.md), 8 bits, 4 instance(s): 1: a job was under way when Skiver k froze -/
  | iSK_FROZEN_JOB
  /-- R330 (10_laces_skivers.md), 1024 bits, 4 instance(s): job descriptor of the running job, as read; 0 where its read failed -/
  | iSK_JOB
  /-- R330, R339 (10_laces_skivers.md), 16 bits, 4 instance(s): JOB_TAG of the running job; a free value where its descriptor could not be read -/
  | iSK_TAG
  /-- R339 (10_laces_skivers.md), 32 bits, 4 instance(s): pixels written by the job that a freeze interrupted -/
  | iSK_DONE
  /-- R439 (14_power_thermal.md), 16 bits, 1 instance(s): TH_SHUT as the comparators hold it -/
  | iCMP_SHUT
  /-- R439 (14_power_thermal.md), 16 bits, 1 instance(s): TH_RESTART as the comparators hold it -/
  | iCMP_RESTART
  /-- R413 (13_clocking.md), 64 bits, 7 instance(s): local time, in ns, at which PLL k entered its state -/
  | iCK_SINCE
  /-- R413, R425 (13_clocking.md), 64 bits, 7 instance(s): local time of its latest entry to BYPASS -/
  | iCK_START
  /-- R425 (13_clocking.md), 64 bits, 7 instance(s): local time at which PLL k left LOCKED -/
  | iCK_OUT
  /-- R413 (13_clocking.md), 8 bits, 7 instance(s): consecutive failures of PLL k -/
  | iCK_FAILS
  /-- R413, R417 (13_clocking.md), 8 bits, 7 instance(s): why PLL k is not LOCKED: 0 reset, 1 loss of lock, 2 a host write, 3 a change of WL_SSC -/
  | iCK_WHY
  /-- R414 (13_clocking.md), 16 bits, 7 instance(s): seed band of the search, plus 64 x (entry used + 1) -/
  | iCK_SEED
  /-- R415, R425 (13_clocking.md), 16 bits, 7 instance(s): CK_LOCK_N as taken at the entry to ACQUIRE -/
  | iCK_N
  /-- R420 (13_clocking.md), 8 bits, 2 instance(s): 1 while the spread of PLL k (0 HZ, 1 FB) ramps -/
  | iSSC_RAMP
  /-- R420 (13_clocking.md), 64 bits, 2 instance(s): local time, in ns, at which that ramp began -/
  | iSSC_AT
  /-- R420 (13_clocking.md), 8 bits, 2 instance(s): 1: the ramp to the setting in force is owed 1 ms after the lock -/
  | iSSC_WAIT
  /-- R412 (13_clocking.md), 64 bits, 1 instance(s): local time, in ns, of the start of the 1 ms window of the backup measurement, or of the loss of REFCLK -/
  | iCK_WIN
  /-- R296 (09_central_store.md), 32 bits, 1 instance(s): bit c: channel c is to be retrained before it issues requests -/
  | iHB_HELD
  /-- R433 (14_power_thermal.md), 512 bits, 4 instance(s): latest 16 measurements of diode pair n, newest lowest, 2^-16 C each -/
  | iTS_MEAS
  /-- R433 (14_power_thermal.md), 8 bits, 4 instance(s): consecutive good measurements of diode pair n, at most 16 -/
  | iTS_GOOD
  /-- R433 (14_power_thermal.md), 8 bits, 4 instance(s): 1 during an open or short episode of diode pair n -/
  | iTS_BAD
  /-- R435 (14_power_thermal.md), 8 bits, 7 instance(s): 1 while a condition is recognised: 0 warning, 1 and 2 panel warning of A and B, 3 Keeper HOT, 4 Keeper COLD, 5 glass HOT, 6 glass COLD -/
  | iTHR
  /-- R435 (14_power_thermal.md), 16 bits, 7 instance(s): samples in the run under way towards the other state -/
  | iTHR_RUN
  /-- R437 (14_power_thermal.md), 64 bits, 1 instance(s): local time, in ns, at which the grace timer started -/
  | iTH_TIMER
  /-- R439 (14_power_thermal.md), 8 bits, 24 instance(s): consecutive samples of die sensor n at or above TH_SHUT, at most 2 -/
  | iCMP_RUN
  /-- R439 (14_power_thermal.md), 8 bits, 1 instance(s): 1 once a comparator has tripped -/
  | iCMP_TRIP
  /-- R439 (14_power_thermal.md), 16 bits, 1 instance(s): peak junction reading latched at the trip -/
  | iCMP_PEAK
  /-- R440 (14_power_thermal.md), 32 bits, 1 instance(s): consecutive samples with every die sensor below TH_RESTART -/
  | iCMP_COOL
  /-- R439, R440 (14_power_thermal.md), 8 bits, 1 instance(s): 1: a shutdown is to be counted and reported once the firmware runs -/
  | iSHUT_OWED
  /-- R469 (16_insole_seams.md), 192 bits, 1 instance(s): image the running update draws from -/
  | iINS_OLD
  /-- R469 (16_insole_seams.md), 192 bits, 1 instance(s): image the running update draws -/
  | iINS_NEW
  /-- R466 (16_insole_seams.md), 8 bits, 1 instance(s): frames of each pass of the running update -/
  | iINS_N
  /-- R466 (16_insole_seams.md), 2048 bits, 1 instance(s): waveform table of the running update -/
  | iINS_WAVE
  /-- R464, R477 (16_insole_seams.md), 16 bits, 1 instance(s): INS_VHV as the running update took it -/
  | iINS_VHV
  /-- R470 (16_insole_seams.md), 8 bits, 1 instance(s): passes of the running update, 1 or 2 -/
  | iINS_PASSES
  /-- R469 (16_insole_seams.md), 8 bits, 1 instance(s): frames of the running update that have begun -/
  | iINS_NEXT
  /-- R472 (16_insole_seams.md), 8 bits, 1 instance(s): 1: the running update stops at the end of its frame -/
  | iINS_STOP
  /-- R464, R471 (16_insole_seams.md), 8 bits, 1 instance(s): Insole electrodes: 0 held at L0, 1 driven, 2 tied to ground -/
  | iINS_ELEC
  /-- R474 (16_insole_seams.md), 8 bits, 8 instance(s): kind of the run of samples of loop n of surface s (instance 4s+n): 0 none, 1 closed, 2 open -/
  | iSM_KIND
  /-- R474 (16_insole_seams.md), 16 bits, 8 instance(s): samples in that run, at most 1,000 -/
  | iSM_RUN
  /-- R493 (17_startup_service.md), 64 bits, 1 instance(s): local time, in ns, of RUNNING -/
  | iRUN_AT
  /-- R489 (17_startup_service.md), 8 bits, 1 instance(s): image the reset chose: 0 A, 1 B; 0xFF none -/
  | iBOOT_IMAGE
  /-- R489, R499 (17_startup_service.md), 8 bits, 1 instance(s): 1: that image is on trial -/
  | iBOOT_TRIAL
  /-- R485, R486 (17_startup_service.md), 8 bits, 2 instance(s): 1: the image of NOR slot n is valid -/
  | iNOR_VALID
  /-- R485 (17_startup_service.md), 32 bits, 2 instance(s): VERSION of the image of NOR slot n -/
  | iNOR_VERSION
  /-- R485 (17_startup_service.md), 32 bits, 2 instance(s): PROG_LENGTH of the image of NOR slot n -/
  | iNOR_PLEN
  /-- R497 (17_startup_service.md), 8 bits, 1 instance(s): slot that FW_PROGRAM writes -/
  | iFW_TARGET
  /-- R483 (06_stream_ingest.md), 8 bits, 256 instance(s): 1: slot n fetches nothing before STR_RING_TAIL is written again -/
  | iSTR_WAIT
  /-- R391 (12_control_dictionary.md), 32 bits, 1024 instance(s): SEQ of the latest request session n has performed -/
  | iSS_SEQ
  /-- R392, R394 (12_control_dictionary.md), 64 bits, 1024 instance(s): local time, in ns, of its latest valid datagram -/
  | iSS_SEEN
  /-- R386 (12_control_dictionary.md), 32 bits, 1024 instance(s): notify count of session n -/
  | iSS_NOTIFY
  /-- R346, R385 (12_control_dictionary.md), 8 bits, 1024 instance(s): 4 x port + sub-port from which its latest valid datagram came -/
  | iSS_FROM
  /-- R346 (12_control_dictionary.md), 48 bits, 1024 instance(s): MAC address from which its latest valid datagram came -/
  | iSS_MAC
  /-- R381 (12_control_dictionary.md), 16 bits, 1 instance(s): session, plus 1, whose WRITE message is being performed; 0 none -/
  | iPLV_CUR
  /-- R392 (12_control_dictionary.md), 8 bits, 1 instance(s): cause with which that session closes when the message is performed; 0xFF none -/
  | iPLV_CLOSE
  /-- R480, R496 (12_control_dictionary.md), 8 bits, 1 instance(s): what begins when the message is performed: 0 nothing, 1 a warm restart, 2 a DEVICE reset -/
  | iPLV_RESET
  deriving DecidableEq, Repr

end Sys2Proof.Machine
end

