-- ==== Sys2Proof/Machine/Dictionary.lean ====
section
/-! DEFINITION. The object dictionary as data: what the manual's tables say of every parameter
(R378, R379, R382, R384 of 12_control_dictionary.md; the owning chapter's table gives the row), and
the lookup from an index and subindex to a register and its instance. -/
namespace Sys2Proof.Machine

/-- Parameter types of R379, with the integer and fraction bits of a fixed-point type and the size
of a BLOB in bytes; `int` is an internal register of the given width. -/
inductive ParamType where
  | bool | u8 | u16 | u32 | u64 | i32 | i64
  | q (m n : Nat) | uq (m n : Nat) | enum | blob (bytes : Nat) | int (bits : Nat)
  deriving DecidableEq, Repr

/-- Access classes of R384. -/
inductive Access where
  | ro | rw | wo | const
  deriving DecidableEq, Repr

/-- Commit classes of R382. -/
inductive CommitClass where
  | immediate | frame | scheduled | dark | restart | byValue | none
  deriving DecidableEq, Repr

/-- The stated range of a writable scalar: bounds on the raw value and the grid it lies on. -/
structure Range where
  lo : Int
  hi : Int
  step : Nat
  deriving DecidableEq, Repr

/-- One row of the dictionary. -/
structure RegRow where
  index : Nat
  sub : Nat
  count : Nat
  ty : ParamType
  access : Access
  level : Nat
  dflt : Nat
  commit : CommitClass
  keep : Bool
  range : Option Range
  deriving DecidableEq, Repr

/-- The row of an internal register: it has no dictionary ID. -/
def RegRow.internal (count bits dflt : Nat) : RegRow :=
  ⟨0, 0, count, .int bits, .ro, 2, dflt, .none, false, Option.none⟩

/-- Width in bits of a value of the type (R379): a fixed-point type is rounded up to 8, 16, 32 or
64 bits. -/
def ParamType.width : ParamType → Nat
  | .bool => 8 | .u8 => 8 | .u16 => 16 | .u32 => 32 | .u64 => 64 | .i32 => 32 | .i64 => 64
  | .q m n => roundWidth (1 + m + n)
  | .uq m n => roundWidth (m + n)
  | .enum => 8
  | .blob b => 8 * b
  | .int b => b
where
  roundWidth (k : Nat) : Nat := if k ≤ 8 then 8 else if k ≤ 16 then 16 else if k ≤ 32 then 32 else 64

/-- Whether the raw value of the type is read as two's complement. -/
def ParamType.signed : ParamType → Bool
  | .i32 => true | .i64 => true | .q _ _ => true | _ => false

/-- Whether the type is a BLOB. -/
def ParamType.isBlob : ParamType → Bool
  | .blob _ => true | _ => false

/-- Type code of R379. -/
def ParamType.code : ParamType → Nat
  | .bool => 1 | .u8 => 2 | .u16 => 3 | .u32 => 4 | .u64 => 5 | .i32 => 6 | .i64 => 7
  | .q _ _ => 8 | .uq _ _ => 9 | .enum => 10 | .blob _ => 11 | .int _ => 0

/-- Integer bits of a fixed-point type, otherwise 0 (R384). -/
def ParamType.intBits : ParamType → Nat
  | .q m _ => m | .uq m _ => m | _ => 0

/-- Fraction bits of a fixed-point type, otherwise 0 (R384). -/
def ParamType.fracBits : ParamType → Nat
  | .q _ n => n | .uq _ n => n | _ => 0

/-- The row of every register: the dictionary's tables (index, subindex of instance 0, instances,
type, access, level, reset value, commit class, persistence and the stated range of a writable
scalar), and the width, count and reset value of the internal registers. Of CAL_BASE the
multiple of 4,096 is taken as its range, so that another value is refused with OD_RANGE: a DESIGN CHOICE (log 88). -/
def regRow : Reg → RegRow
  | .ID_VENDOR => ⟨0x1000, 0x01, 1, .u32, .const, 0, 1297762388, .none, true, none⟩
  | .ID_DEVICE => ⟨0x1000, 0x02, 1, .u16, .const, 0, 8544, .none, true, none⟩
  | .ID_GRADE => ⟨0x1000, 0x03, 1, .enum, .const, 0, 0, .none, true, none⟩
  | .ID_STEPPING => ⟨0x1000, 0x04, 1, .u16, .const, 0, 16897, .none, true, none⟩
  | .ID_SERIAL => ⟨0x1000, 0x05, 1, .u64, .const, 0, 0, .none, true, none⟩
  | .PLV_PORT => ⟨0x1010, 0x01, 1, .u16, .rw, 1, 7711, .restart, true, some ⟨0, 65535, 1⟩⟩
  | .PLV_TIMEOUT => ⟨0x1010, 0x02, 1, .u32, .rw, 1, 10000, .immediate, true, some ⟨1000, 600000, 1⟩⟩
  | .PLV_ANON_OBSERVER => ⟨0x1010, 0x03, 1, .bool, .rw, 2, 0, .immediate, true, some ⟨0, 1, 1⟩⟩
  | .PLV_KEY_SET => ⟨0x1010, 0x04, 1, .blob 36, .wo, 2, 0, .immediate, true, none⟩
  | .PLV_KEY_LIST => ⟨0x1010, 0x05, 1, .blob 256, .ro, 1, 0xffff0000ffff0000ffff0000ffff0000ffff0000ffff0000ffff0000ffff0000ffff0000ffff0000ffff0000ffff0000ffff0000ffff0000ffff0000ffff0000ffff0000ffff0000ffff0000ffff0000ffff0000ffff0000ffff0000ffff0000ffff0000ffff0000ffff0000ffff0000ffff0000ffff0000ffff0000ffff0000ffff0000ffff0000ffff0000ffff0000ffff0000ffff0000ffff0000ffff0000ffff0000ffff0000ffff0000ffff0000ffff0000ffff0000ffff0000ffff0000ffff0000ffff0000ffff0000ffff0000ffff0000ffff0000ffff0000ffff0000ffff0000ffff0000ffff0000ffff0000ffff0000ffff0000ffff0000ffff, .immediate, false, none⟩
  | .PLV_SESSIONS => ⟨0x1010, 0x06, 1, .u16, .ro, 0, 0, .immediate, false, none⟩
  | .PLV_STREAMS => ⟨0x1010, 0x07, 1, .u16, .ro, 0, 0, .immediate, false, none⟩
  | .PLV_BAD_MSG => ⟨0x1010, 0x08, 1, .u64, .ro, 1, 0, .immediate, false, none⟩
  | .PLV_BAD_AUTH => ⟨0x1010, 0x09, 1, .u64, .ro, 0, 0, .immediate, false, none⟩
  | .PLV_BAD_SEQ => ⟨0x1010, 0x0A, 1, .u64, .ro, 1, 0, .immediate, false, none⟩
  | .EV_ROUTE => ⟨0x1040, 0x01, 1, .blob 512, .rw, 1, 0, .immediate, true, none⟩
  | .EV_LOG => ⟨0x1040, 0x02, 1, .blob 8192, .ro, 0, 0, .immediate, false, none⟩
  | .EV_COUNT => ⟨0x1040, 0x03, 1, .u64, .ro, 0, 0, .immediate, false, none⟩
  | .OD_PARAMS => ⟨0x1040, 0x04, 1, .u32, .const, 0, 0, .none, false, none⟩
  | .OD_KEEP_PENDING => ⟨0x1040, 0x05, 1, .u16, .ro, 0, 0, .immediate, false, none⟩
  | .OD_FACTORY => ⟨0x1040, 0x06, 1, .enum, .wo, 2, 0, .restart, false, some ⟨1, 1, 1⟩⟩
  | .PCI_F0_ROLE => ⟨0x1050, 0x01, 1, .enum, .rw, 2, 2, .immediate, true, some ⟨0, 3, 1⟩⟩
  | .PCI_F3_ROLE => ⟨0x1050, 0x02, 1, .enum, .rw, 2, 0, .immediate, true, some ⟨0, 3, 1⟩⟩
  | .PCI_LINK => ⟨0x1050, 0x03, 1, .u16, .ro, 0, 0, .immediate, false, none⟩
  | .SS_STATE => ⟨0x1400, 0x01, 1024, .enum, .ro, 0, 0, .immediate, false, none⟩
  | .SS_ROLE => ⟨0x1400, 0x02, 1024, .enum, .ro, 0, 0, .immediate, false, none⟩
  | .SS_KIND => ⟨0x1400, 0x03, 1024, .enum, .ro, 0, 0, .immediate, false, none⟩
  | .SS_KEY_ID => ⟨0x1400, 0x04, 1024, .u16, .ro, 0, 65535, .immediate, false, none⟩
  | .SS_PEER => ⟨0x1400, 0x05, 1024, .blob 18, .ro, 0, 0, .immediate, false, none⟩
  | .SS_SLOT => ⟨0x1400, 0x06, 1024, .u16, .ro, 0, 65535, .immediate, false, none⟩
  | .SS_IDLE => ⟨0x1400, 0x07, 1024, .u32, .ro, 1, 0, .immediate, false, none⟩
  | .SS_CLOSE => ⟨0x1400, 0x08, 1024, .enum, .wo, 1, 0, .immediate, false, some ⟨1, 1, 1⟩⟩
  | .SURF_WIDTH => ⟨0x2000, 0x01, 2, .u16, .rw, 0, 960, .dark, true, some ⟨96, 960, 96⟩⟩
  | .SURF_HEIGHT => ⟨0x2000, 0x02, 2, .u16, .rw, 0, 1080, .dark, true, some ⟨8, 1080, 1⟩⟩
  | .PITCH_X => ⟨0x2000, 0x03, 2, .q 23 8, .rw, 0, 640000, .dark, true, some ⟨256000, 12800000, 1⟩⟩
  | .PITCH_Y => ⟨0x2000, 0x04, 2, .q 23 8, .rw, 0, 640000, .dark, true, some ⟨256000, 12800000, 1⟩⟩
  | .ORIGIN_X => ⟨0x2000, 0x05, 2, .q 23 8, .rw, 0, 3680887296, .dark, true, some ⟨(-2147483648), 2147483647, 1⟩⟩
  | .ORIGIN_Y => ⟨0x2000, 0x06, 2, .q 23 8, .rw, 0, 345280000, .dark, true, some ⟨(-2147483648), 2147483647, 1⟩⟩
  | .ORIGIN_Z => ⟨0x2000, 0x07, 2, .q 23 8, .rw, 0, 0, .dark, true, some ⟨(-2147483648), 2147483647, 1⟩⟩
  | .SURF_MODE => ⟨0x2000, 0x08, 2, .enum, .rw, 0, 0, .dark, true, some ⟨0, 2, 1⟩⟩
  | .V_COUNT => ⟨0x2000, 0x09, 2, .u8, .ro, 0, 12, .none, false, none⟩
  | .BG_R => ⟨0x2000, 0x0A, 2, .uq 0 16, .rw, 0, 0, .frame, true, some ⟨0, 65535, 1⟩⟩
  | .BG_G => ⟨0x2000, 0x0B, 2, .uq 0 16, .rw, 0, 0, .frame, true, some ⟨0, 65535, 1⟩⟩
  | .BG_B => ⟨0x2000, 0x0C, 2, .uq 0 16, .rw, 0, 0, .frame, true, some ⟨0, 65535, 1⟩⟩
  | .PL_ENABLE => ⟨0x2100, 0x01, 32, .bool, .rw, 0, 0, .frame, false, some ⟨0, 1, 1⟩⟩
  | .PL_KIND => ⟨0x2100, 0x02, 32, .enum, .rw, 0, 0, .frame, false, some ⟨0, 1, 1⟩⟩
  | .PL_BUFFER => ⟨0x2100, 0x03, 32, .u16, .rw, 0, 0, .frame, false, some ⟨0, 1023, 1⟩⟩
  | .PL_TEX_W => ⟨0x2100, 0x04, 32, .u16, .rw, 0, 1024, .frame, false, some ⟨1, 8192, 1⟩⟩
  | .PL_TEX_H => ⟨0x2100, 0x05, 32, .u16, .rw, 0, 1024, .frame, false, some ⟨1, 4096, 1⟩⟩
  | .PL_P0_X => ⟨0x2100, 0x06, 32, .q 23 8, .rw, 0, 0, .frame, false, some ⟨(-2147483648), 2147483647, 1⟩⟩
  | .PL_P0_Y => ⟨0x2100, 0x07, 32, .q 23 8, .rw, 0, 0, .frame, false, some ⟨(-2147483648), 2147483647, 1⟩⟩
  | .PL_P0_Z => ⟨0x2100, 0x08, 32, .q 23 8, .rw, 0, 0, .frame, false, some ⟨(-2147483648), 2147483647, 1⟩⟩
  | .PL_EU_X => ⟨0x2100, 0x09, 32, .q 23 8, .rw, 0, 0, .frame, false, some ⟨(-2147483648), 2147483647, 1⟩⟩
  | .PL_EU_Y => ⟨0x2100, 0x0A, 32, .q 23 8, .rw, 0, 0, .frame, false, some ⟨(-2147483648), 2147483647, 1⟩⟩
  | .PL_EU_Z => ⟨0x2100, 0x0B, 32, .q 23 8, .rw, 0, 0, .frame, false, some ⟨(-2147483648), 2147483647, 1⟩⟩
  | .PL_EV_X => ⟨0x2100, 0x0C, 32, .q 23 8, .rw, 0, 0, .frame, false, some ⟨(-2147483648), 2147483647, 1⟩⟩
  | .PL_EV_Y => ⟨0x2100, 0x0D, 32, .q 23 8, .rw, 0, 0, .frame, false, some ⟨(-2147483648), 2147483647, 1⟩⟩
  | .PL_EV_Z => ⟨0x2100, 0x0E, 32, .q 23 8, .rw, 0, 0, .frame, false, some ⟨(-2147483648), 2147483647, 1⟩⟩
  | .PL_ALPHA => ⟨0x2100, 0x0F, 32, .enum, .rw, 0, 0, .frame, false, some ⟨0, 2, 1⟩⟩
  | .PL_EDGE_U => ⟨0x2100, 0x10, 32, .enum, .rw, 1, 3, .frame, false, some ⟨0, 3, 1⟩⟩
  | .PL_EDGE_V => ⟨0x2100, 0x11, 32, .enum, .rw, 1, 3, .frame, false, some ⟨0, 3, 1⟩⟩
  | .PL_IN_LUT => ⟨0x2100, 0x12, 32, .u8, .rw, 0, 0, .frame, false, some ⟨0, 7, 1⟩⟩
  | .PL_OPACITY => ⟨0x2100, 0x13, 32, .uq 0 16, .rw, 0, 65535, .frame, false, some ⟨0, 65535, 1⟩⟩
  | .VS_COUNT => ⟨0x2200, 0x01, 2, .u8, .rw, 0, 1, .frame, false, some ⟨1, 128, 1⟩⟩
  | .VS_CAMERA => ⟨0x2200, 0x02, 2, .enum, .rw, 0, 0, .frame, false, some ⟨0, 1, 1⟩⟩
  | .VS_PIX_W => ⟨0x2200, 0x03, 2, .u16, .rw, 0, 3840, .frame, false, some ⟨1, 3840, 1⟩⟩
  | .VS_PIX_H => ⟨0x2200, 0x04, 2, .u16, .rw, 0, 2160, .frame, false, some ⟨1, 2160, 1⟩⟩
  | .VS_WIN_X => ⟨0x2200, 0x05, 2, .q 23 8, .rw, 0, 0, .frame, false, some ⟨(-2147483648), 2147483647, 1⟩⟩
  | .VS_WIN_Y => ⟨0x2200, 0x06, 2, .q 23 8, .rw, 0, 0, .frame, false, some ⟨(-2147483648), 2147483647, 1⟩⟩
  | .VS_WIN_Z => ⟨0x2200, 0x07, 2, .q 23 8, .rw, 0, 0, .frame, false, some ⟨(-2147483648), 2147483647, 1⟩⟩
  | .VS_WIN_W => ⟨0x2200, 0x08, 2, .q 23 8, .rw, 0, 0, .frame, false, some ⟨1, 2147483647, 1⟩⟩
  | .VS_WIN_H => ⟨0x2200, 0x09, 2, .q 23 8, .rw, 0, 0, .frame, false, some ⟨1, 2147483647, 1⟩⟩
  | .VS_RAIL_Z => ⟨0x2200, 0x0A, 2, .q 23 8, .rw, 0, 0, .frame, false, some ⟨(-2147483648), 2147483647, 1⟩⟩
  | .VS_IN_LUT => ⟨0x2200, 0x0B, 2, .u8, .rw, 0, 0, .frame, false, some ⟨0, 7, 1⟩⟩
  | .VS_TABLE => ⟨0x2200, 0x0C, 2, .blob 1024, .rw, 0, 0, .frame, false, none⟩
  | .DR_BUFFER => ⟨0x2300, 0x01, 2, .u16, .rw, 0, 0, .frame, false, some ⟨0, 1023, 1⟩⟩
  | .DR_V_COUNT => ⟨0x2300, 0x02, 2, .u8, .rw, 0, 12, .frame, false, some ⟨6, 12, 6⟩⟩
  | .DR_IN_LUT => ⟨0x2300, 0x03, 2, .u8, .rw, 0, 0, .frame, false, some ⟨0, 7, 1⟩⟩
  | .BUF_KIND => ⟨0x2400, 0x01, 1024, .enum, .rw, 0, 0, .immediate, false, some ⟨0, 3, 1⟩⟩
  | .BUF_FORMAT => ⟨0x2400, 0x02, 1024, .u8, .rw, 0, 1, .immediate, false, some ⟨0, 3, 1⟩⟩
  | .BUF_STORE => ⟨0x2400, 0x03, 1024, .enum, .rw, 0, 0, .immediate, false, some ⟨0, 1, 1⟩⟩
  | .BUF_WIDTH => ⟨0x2400, 0x04, 1024, .u16, .rw, 0, 1024, .immediate, false, some ⟨1, 8192, 1⟩⟩
  | .BUF_HEIGHT => ⟨0x2400, 0x05, 1024, .u16, .rw, 0, 1024, .immediate, false, some ⟨1, 4096, 1⟩⟩
  | .BUF_BASE => ⟨0x2400, 0x06, 1024, .u64, .rw, 1, 0, .immediate, false, some ⟨0, 0xffffffffffffffff, 4096⟩⟩
  | .BUF_BANK_SIZE => ⟨0x2400, 0x07, 1024, .u64, .ro, 1, 0, .immediate, false, none⟩
  | .BUF_SOURCE => ⟨0x2400, 0x08, 1024, .u16, .rw, 0, 65535, .immediate, false, some ⟨0, 65535, 1⟩⟩
  | .BUF_CONCEAL => ⟨0x2400, 0x09, 1024, .enum, .rw, 0, 0, .immediate, false, some ⟨0, 1, 1⟩⟩
  | .BUF_SWAP => ⟨0x2400, 0x0A, 1024, .enum, .rw, 0, 1, .immediate, false, some ⟨0, 1, 1⟩⟩
  | .BUF_CTRL => ⟨0x2400, 0x0B, 1024, .enum, .wo, 0, 0, .immediate, false, some ⟨1, 3, 1⟩⟩
  | .BUF_BANKS => ⟨0x2400, 0x0C, 1024, .u32, .ro, 0, 4294967295, .immediate, false, none⟩
  | .BUF_FRAMES => ⟨0x2400, 0x0D, 1024, .blob 16, .ro, 0, 0, .immediate, false, none⟩
  | .BUF_MAXB => ⟨0x2400, 0x0E, 1024, .u16, .ro, 1, 0, .immediate, false, none⟩
  | .BUF_CONCEALED => ⟨0x2400, 0x0F, 1024, .u32, .ro, 0, 0, .immediate, false, none⟩
  | .BUF_SUPERSEDED => ⟨0x2400, 0x10, 1024, .u64, .ro, 1, 0, .immediate, false, none⟩
  | .ING_PORT => ⟨0x2800, 0x01, 1, .u16, .rw, 1, 7712, .restart, true, some ⟨0, 65535, 1⟩⟩
  | .ING_UNKNOWN => ⟨0x2800, 0x02, 1, .u64, .ro, 1, 0, .immediate, false, none⟩
  | .STR_STATE => ⟨0x2900, 0x01, 256, .enum, .ro, 0, 0, .immediate, false, none⟩
  | .STR_SESSION => ⟨0x2900, 0x02, 256, .u16, .ro, 0, 65535, .immediate, false, none⟩
  | .STR_TRANSPORT => ⟨0x2900, 0x03, 256, .enum, .rw, 0, 0, .immediate, false, some ⟨0, 1, 1⟩⟩
  | .STR_AUTH => ⟨0x2900, 0x04, 256, .bool, .rw, 0, 1, .immediate, false, some ⟨0, 1, 1⟩⟩
  | .STR_GROUP_V4 => ⟨0x2900, 0x05, 256, .u32, .rw, 0, 0, .immediate, false, some ⟨0, 4294967295, 1⟩⟩
  | .STR_GROUP_V6 => ⟨0x2900, 0x06, 256, .blob 16, .rw, 0, 0, .immediate, false, none⟩
  | .STR_RING_BASE => ⟨0x2900, 0x07, 256, .u64, .rw, 1, 0, .immediate, false, some ⟨0, 0xffffffffffffffff, 16⟩⟩
  | .STR_RING_SIZE => ⟨0x2900, 0x08, 256, .u16, .rw, 1, 0, .immediate, false, some ⟨0, 65535, 1⟩⟩
  | .STR_RING_TAIL => ⟨0x2900, 0x09, 256, .u16, .rw, 1, 0, .immediate, false, some ⟨0, 65535, 1⟩⟩
  | .STR_RING_HEAD => ⟨0x2900, 0x0A, 256, .u16, .ro, 1, 0, .immediate, false, none⟩
  | .STR_PACKETS => ⟨0x2900, 0x0B, 256, .u64, .ro, 0, 0, .immediate, false, none⟩
  | .STR_DISCARDS => ⟨0x2900, 0x0C, 256, .blob 72, .ro, 0, 0, .immediate, false, none⟩
  | .STR_TILES_LOST => ⟨0x2900, 0x0D, 256, .u64, .ro, 0, 0, .immediate, false, none⟩
  | .STR_QUEUE => ⟨0x2900, 0x0E, 256, .u16, .rw, 0, 65535, .immediate, false, some ⟨0, 65535, 1⟩⟩
  | .CMT_DARK_OK => ⟨0x2A00, 0x01, 2, .bool, .rw, 1, 0, .immediate, false, some ⟨0, 1, 1⟩⟩
  | .CMT_IN_FORCE => ⟨0x2A00, 0x02, 2, .u32, .ro, 0, 0, .immediate, false, none⟩
  | .CMT_ACCEPTED => ⟨0x2A00, 0x03, 2, .u64, .ro, 0, 0, .immediate, false, none⟩
  | .CMT_REFUSED => ⟨0x2A00, 0x04, 2, .u64, .ro, 0, 0, .immediate, false, none⟩
  | .CMT_DEFERRED => ⟨0x2A00, 0x05, 2, .u64, .ro, 0, 0, .immediate, false, none⟩
  | .CMT_LATE => ⟨0x2A00, 0x06, 2, .u64, .ro, 1, 0, .immediate, false, none⟩
  | .CMT_DARK_LEFT => ⟨0x2A00, 0x07, 2, .u8, .ro, 0, 0, .immediate, false, none⟩
  | .CMT_CONCEALED => ⟨0x2A00, 0x08, 2, .u32, .ro, 0, 0, .immediate, false, none⟩
  | .CMT_QUEUE => ⟨0x2A00, 0x09, 2, .u16, .rw, 0, 65535, .immediate, true, some ⟨0, 65535, 1⟩⟩
  | .CG_CTRL => ⟨0x2A10, 0x01, 16, .enum, .wo, 0, 0, .immediate, false, some ⟨1, 3, 1⟩⟩
  | .CG_STATE => ⟨0x2A10, 0x02, 16, .enum, .ro, 0, 0, .immediate, false, none⟩
  | .CG_OWNER => ⟨0x2A10, 0x03, 16, .u16, .ro, 0, 65535, .immediate, false, none⟩
  | .CG_SURFACES => ⟨0x2A10, 0x04, 16, .u8, .rw, 0, 1, .immediate, false, some ⟨1, 3, 1⟩⟩
  | .CG_BUFFERS => ⟨0x2A10, 0x05, 16, .blob 128, .rw, 0, 0xffffffffffffffffffffffffffffffffffffffffffffffffffffffffffffffffffffffffffffffffffffffffffffffffffffffffffffffffffffffffffffffffffffffffffffffffffffffffffffffffffffffffffffffffffffffffffffffffffffffffffffffffffffffffffffffffffffffffffffffffffffffffffffffff, .immediate, false, none⟩
  | .CG_AT => ⟨0x2A10, 0x06, 16, .u64, .rw, 0, 0, .immediate, false, some ⟨0, 0xffffffffffffffff, 1⟩⟩
  | .CG_DARK_OK => ⟨0x2A10, 0x07, 16, .bool, .rw, 1, 0, .immediate, false, some ⟨0, 1, 1⟩⟩
  | .CG_TRIGGER => ⟨0x2A10, 0x08, 16, .enum, .rw, 0, 0, .immediate, false, some ⟨0, 1, 1⟩⟩
  | .CG_ID => ⟨0x2A10, 0x09, 16, .u32, .ro, 0, 0, .immediate, false, none⟩
  | .CG_RESULT => ⟨0x2A10, 0x0A, 16, .u16, .ro, 0, 0, .immediate, false, none⟩
  | .PB_CUE => ⟨0x2B00, 0x01, 2, .u16, .rw, 0, 0, .immediate, false, some ⟨0, 1023, 1⟩⟩
  | .PB_START => ⟨0x2B00, 0x02, 2, .u64, .rw, 0, 0, .immediate, false, some ⟨0, 0xffffffffffffffff, 1⟩⟩
  | .PB_FIRST => ⟨0x2B00, 0x03, 2, .u32, .rw, 0, 0, .immediate, false, some ⟨0, 4294967295, 1⟩⟩
  | .PB_END => ⟨0x2B00, 0x04, 2, .enum, .rw, 0, 0, .immediate, false, some ⟨0, 1, 1⟩⟩
  | .PB_CTRL => ⟨0x2B00, 0x05, 2, .enum, .wo, 0, 0, .immediate, false, some ⟨1, 2, 1⟩⟩
  | .PB_STATE => ⟨0x2B00, 0x06, 2, .enum, .ro, 0, 0, .immediate, false, none⟩
  | .PB_FRAME => ⟨0x2B00, 0x07, 2, .u32, .ro, 0, 0, .immediate, false, none⟩
  | .PB_REFUSED => ⟨0x2B00, 0x08, 2, .u32, .ro, 0, 0, .immediate, false, none⟩
  | .CUE_STATE => ⟨0x2C00, 0x01, 1024, .enum, .ro, 0, 0, .immediate, false, none⟩
  | .CUE_BASE => ⟨0x2C00, 0x02, 1024, .u64, .rw, 0, 0, .immediate, false, some ⟨0, 0xffffffffffffffff, 4096⟩⟩
  | .CUE_SIZE => ⟨0x2C00, 0x03, 1024, .u64, .rw, 0, 0, .immediate, false, some ⟨0, 0xffffffffffffffff, 1⟩⟩
  | .CUE_CRC => ⟨0x2C00, 0x04, 1024, .u32, .rw, 0, 0, .immediate, false, some ⟨0, 4294967295, 1⟩⟩
  | .CUE_LOAD => ⟨0x2C00, 0x05, 1024, .enum, .wo, 0, 0, .immediate, false, some ⟨1, 2, 1⟩⟩
  | .CUE_BIND => ⟨0x2C00, 0x06, 1024, .blob 64, .rw, 0, 0xffffffffffffffffffffffffffffffffffffffffffffffffffffffffffffffffffffffffffffffffffffffffffffffffffffffffffffffffffffffffffffffff, .immediate, false, none⟩
  | .CUE_TAG => ⟨0x2C00, 0x07, 1024, .u32, .rw, 0, 0, .immediate, false, some ⟨0, 4294967295, 1⟩⟩
  | .HZ_ACTIVE => ⟨0x3000, 0x01, 1, .u16, .ro, 0, 65535, .immediate, false, none⟩
  | .HZ_CLUSTER_EN => ⟨0x3000, 0x02, 1, .u16, .rw, 1, 65535, .frame, true, some ⟨0, 65535, 1⟩⟩
  | .HZ_ARRAY_CLOCK => ⟨0x3000, 0x03, 1, .enum, .rw, 1, 0, .immediate, true, some ⟨0, 1, 1⟩⟩
  | .HZ_SHARE_A => ⟨0x3000, 0x04, 1, .u16, .rw, 0, 128, .frame, true, some ⟨0, 256, 1⟩⟩
  | .HZ_BYTES_NS => ⟨0x3000, 0x05, 1, .u16, .rw, 1, 1400, .frame, true, some ⟨256, 1600, 1⟩⟩
  | .HZ_ENGINES_FENCED => ⟨0x3000, 0x06, 1, .u16, .ro, 0, 0, .immediate, false, none⟩
  | .HZ_LATE_TILES => ⟨0x3000, 0x07, 1, .u64, .ro, 0, 0, .immediate, false, none⟩
  | .HZ_PROG_TARGET => ⟨0x3000, 0x08, 1, .u8, .wo, 1, 0, .immediate, false, some ⟨0, 1, 1⟩⟩
  | .HZ_SWAP_STATE => ⟨0x3000, 0x09, 1, .enum, .ro, 1, 0, .immediate, false, none⟩
  | .HZ_SWAP_CLUSTER => ⟨0x3000, 0x0A, 1, .u8, .ro, 1, 255, .immediate, false, none⟩
  | .HZ_SHORT => ⟨0x3000, 0x0B, 1, .u8, .ro, 0, 0, .immediate, false, none⟩
  | .SYN_ET_T => ⟨0x3010, 0x01, 2, .u16, .rw, 1, 64, .frame, true, some ⟨0, 4096, 1⟩⟩
  | .SYN_DITHER => ⟨0x3010, 0x02, 2, .enum, .rw, 1, 0, .frame, true, some ⟨0, 2, 1⟩⟩
  | .SYN_DIR_CLAMPS => ⟨0x3010, 0x03, 2, .u32, .ro, 1, 0, .immediate, false, none⟩
  | .SYN_CAL_POISON => ⟨0x3010, 0x04, 2, .u32, .ro, 1, 0, .immediate, false, none⟩
  | .ADM_LAST_RESULT => ⟨0x3020, 0x01, 2, .enum, .ro, 0, 0, .immediate, false, none⟩
  | .ADM_LAST_REASON => ⟨0x3020, 0x02, 2, .enum, .ro, 0, 0, .immediate, false, none⟩
  | .ADM_LAST_COMMIT => ⟨0x3020, 0x03, 2, .u32, .ro, 0, 0, .immediate, false, none⟩
  | .ADM_COST_OPS => ⟨0x3020, 0x04, 2, .u32, .ro, 0, 0, .immediate, false, none⟩
  | .ADM_COST_SAMP => ⟨0x3020, 0x05, 2, .u32, .ro, 0, 0, .immediate, false, none⟩
  | .ADM_COST_DEC => ⟨0x3020, 0x06, 2, .u32, .ro, 0, 0, .immediate, false, none⟩
  | .ADM_COST_BYTES => ⟨0x3020, 0x07, 2, .u32, .ro, 0, 0, .immediate, false, none⟩
  | .ADM_BUDGET_OPS => ⟨0x3020, 0x08, 2, .u32, .ro, 0, 0, .immediate, false, none⟩
  | .ADM_BUDGET_SAMP => ⟨0x3020, 0x09, 2, .u32, .ro, 0, 0, .immediate, false, none⟩
  | .ADM_BUDGET_DEC => ⟨0x3020, 0x0A, 2, .u32, .ro, 0, 0, .immediate, false, none⟩
  | .ADM_BUDGET_BYTES => ⟨0x3020, 0x0B, 2, .u32, .ro, 0, 0, .immediate, false, none⟩
  | .ADM_WORST_BAND => ⟨0x3020, 0x0C, 2, .u16, .ro, 1, 0, .immediate, false, none⟩
  | .ADM_RESERVATION => ⟨0x3020, 0x0D, 2, .u16, .ro, 0, 0, .immediate, false, none⟩
  | .ADM_REACH => ⟨0x3020, 0x0E, 2, .blob 96, .ro, 1, 0, .immediate, false, none⟩
  | .ADM_STAGE_MIN => ⟨0x3020, 0x0F, 2, .u8, .rw, 1, 0, .frame, false, some ⟨0, 3, 1⟩⟩
  | .UR_LINES_TOTAL => ⟨0x3020, 0x10, 2, .u64, .ro, 0, 0, .immediate, false, none⟩
  | .PG_STATE => ⟨0x3040, 0x01, 2, .enum, .ro, 0, 2, .immediate, false, none⟩
  | .PG_VERSION => ⟨0x3040, 0x02, 2, .u32, .ro, 0, 131328, .immediate, false, none⟩
  | .PG_ADDR => ⟨0x3040, 0x03, 2, .u64, .rw, 1, 0, .immediate, false, some ⟨0, 0xffffffffffffffff, 1⟩⟩
  | .PG_LENGTH => ⟨0x3040, 0x04, 2, .u32, .rw, 1, 0, .immediate, false, some ⟨0, 262144, 1⟩⟩
  | .PG_LOAD => ⟨0x3040, 0x05, 2, .enum, .wo, 1, 0, .immediate, false, some ⟨1, 2, 1⟩⟩
  | .PG_K => ⟨0x3040, 0x06, 2, .blob 10, .ro, 1, 0x30008000e002c0026, .immediate, false, none⟩
  | .CL_STATE => ⟨0x3100, 0x01, 16, .enum, .ro, 0, 0, .immediate, false, none⟩
  | .CL_FENCED => ⟨0x3100, 0x02, 16, .u16, .ro, 0, 0, .immediate, false, none⟩
  | .CL_FENCE_REQ => ⟨0x3100, 0x03, 16, .u16, .rw, 1, 0, .frame, true, some ⟨0, 65535, 1⟩⟩
  | .CL_FENCE => ⟨0x3100, 0x04, 16, .bool, .rw, 1, 0, .frame, true, some ⟨0, 1, 1⟩⟩
  | .CL_FAULT_MASK => ⟨0x3100, 0x05, 16, .u16, .ro, 1, 0, .immediate, true, none⟩
  | .CL_FAULT_CLEAR => ⟨0x3100, 0x06, 16, .u16, .wo, 1, 0, .immediate, false, some ⟨0, 65535, 1⟩⟩
  | .CL_PROG_SLOT => ⟨0x3100, 0x07, 16, .u8, .ro, 0, 0, .immediate, false, none⟩
  | .CL_LAST_FAULT => ⟨0x3100, 0x08, 16, .u16, .ro, 1, 0, .immediate, false, none⟩
  | .CL_TILES => ⟨0x3100, 0x09, 16, .u64, .ro, 1, 0, .immediate, false, none⟩
  | .HK_INGEST_DEC => ⟨0x4000, 0x01, 1, .u8, .rw, 1, 12, .immediate, true, some ⟨0, 15, 1⟩⟩
  | .HK_TAP_ENC => ⟨0x4000, 0x02, 1, .u8, .rw, 1, 1, .immediate, true, some ⟨0, 15, 1⟩⟩
  | .HK_VERSION => ⟨0x4000, 0x03, 1, .u8, .const, 0, 1, .none, true, none⟩
  | .HK_CD_TILES => ⟨0x4000, 0x04, 1, .u64, .ro, 0, 0, .immediate, false, none⟩
  | .HK_CD_REJECTED => ⟨0x4000, 0x05, 1, .u64, .ro, 0, 0, .immediate, false, none⟩
  | .HK_CD_BY_CODE => ⟨0x4000, 0x06, 1, .blob 40, .ro, 1, 0, .immediate, false, none⟩
  | .HK_INGEST_REJECTED => ⟨0x4000, 0x07, 1, .u64, .ro, 0, 0, .immediate, false, none⟩
  | .GC_ENABLE => ⟨0x4010, 0x01, 8, .bool, .rw, 0, 1, .immediate, true, some ⟨0, 1, 1⟩⟩
  | .GC_DRAIN => ⟨0x4010, 0x02, 8, .enum, .rw, 1, 0, .immediate, true, some ⟨0, 1, 1⟩⟩
  | .GC_RING_BASE => ⟨0x4010, 0x03, 8, .u64, .rw, 1, 0, .immediate, false, some ⟨0, 0xffffffffffffffff, 64⟩⟩
  | .GC_RING_SIZE => ⟨0x4010, 0x04, 8, .u16, .rw, 1, 0, .immediate, false, some ⟨0, 65535, 1⟩⟩
  | .GC_TAIL => ⟨0x4010, 0x05, 8, .u16, .rw, 0, 0, .immediate, false, some ⟨0, 65535, 1⟩⟩
  | .GC_HEAD => ⟨0x4010, 0x06, 8, .u16, .ro, 0, 0, .immediate, false, none⟩
  | .GC_STATE => ⟨0x4010, 0x07, 8, .enum, .ro, 0, 0, .immediate, false, none⟩
  | .GC_JOBS_OK => ⟨0x4010, 0x08, 8, .u64, .ro, 0, 0, .immediate, false, none⟩
  | .GC_JOBS_FAILED => ⟨0x4010, 0x09, 8, .u64, .ro, 0, 0, .immediate, false, none⟩
  | .GC_ABANDONED => ⟨0x4010, 0x0A, 8, .u64, .ro, 0, 0, .immediate, false, none⟩
  | .GC_LAST_STATUS => ⟨0x4010, 0x0B, 8, .u16, .ro, 0, 0, .immediate, false, none⟩
  | .GC_QUEUE => ⟨0x4010, 0x0C, 8, .u16, .rw, 0, 65535, .immediate, true, some ⟨0, 65535, 1⟩⟩
  | .CD_TILES => ⟨0x4020, 0x01, 16, .u64, .ro, 1, 0, .immediate, false, none⟩
  | .CD_REF_TILES => ⟨0x4020, 0x02, 16, .u64, .ro, 1, 0, .immediate, false, none⟩
  | .CD_REJECTED => ⟨0x4020, 0x03, 16, .u64, .ro, 1, 0, .immediate, false, none⟩
  | .CD_LAST_CODE => ⟨0x4020, 0x04, 16, .u16, .ro, 1, 0, .immediate, false, none⟩
  | .CD_LAST_BUFFER => ⟨0x4020, 0x05, 16, .u16, .ro, 1, 0, .immediate, false, none⟩
  | .CD_LAST_TILE => ⟨0x4020, 0x06, 16, .u32, .ro, 1, 0, .immediate, false, none⟩
  | .LC_ENABLE => ⟨0x4800, 0x01, 64, .bool, .rw, 0, 1, .immediate, true, some ⟨0, 1, 1⟩⟩
  | .LC_DRAIN => ⟨0x4800, 0x02, 64, .enum, .rw, 1, 0, .immediate, true, some ⟨0, 1, 1⟩⟩
  | .LC_STATE => ⟨0x4800, 0x03, 64, .enum, .ro, 0, 0, .immediate, false, none⟩
  | .LC_SH_DESC => ⟨0x4800, 0x04, 64, .blob 64, .rw, 0, 0, .immediate, false, none⟩
  | .LC_SH_STATE => ⟨0x4800, 0x05, 64, .enum, .ro, 0, 0, .immediate, false, none⟩
  | .LC_ARM => ⟨0x4800, 0x06, 64, .enum, .wo, 0, 0, .immediate, false, some ⟨1, 2, 1⟩⟩
  | .LC_CTRL => ⟨0x4800, 0x07, 64, .enum, .wo, 1, 0, .immediate, false, some ⟨1, 2, 1⟩⟩
  | .LC_CUR_DESC => ⟨0x4800, 0x08, 64, .blob 64, .ro, 1, 0, .immediate, false, none⟩
  | .LC_CUR_ADDR => ⟨0x4800, 0x09, 64, .u64, .ro, 1, 0, .immediate, false, none⟩
  | .LC_DONE => ⟨0x4800, 0x0A, 64, .u32, .ro, 0, 0, .immediate, false, none⟩
  | .LC_RESULT => ⟨0x4800, 0x0B, 64, .u16, .ro, 0, 0, .immediate, false, none⟩
  | .LC_MISMATCH => ⟨0x4800, 0x0C, 64, .u32, .ro, 0, 4294967295, .immediate, false, none⟩
  | .LC_PRIO => ⟨0x4800, 0x0D, 64, .u8, .rw, 1, 1, .immediate, true, some ⟨0, 3, 1⟩⟩
  | .LC_QUEUE => ⟨0x4800, 0x0E, 64, .u16, .rw, 0, 65535, .immediate, true, some ⟨0, 65535, 1⟩⟩
  | .LC_BYTES => ⟨0x4800, 0x0F, 64, .u64, .ro, 1, 0, .immediate, false, none⟩
  | .LC_WITHDRAWN => ⟨0x4800, 0x10, 64, .u32, .ro, 1, 0, .immediate, false, none⟩
  | .LC_REQ_MISSED => ⟨0x4800, 0x11, 64, .u32, .ro, 1, 0, .immediate, false, none⟩
  | .LS_BUS_STATE => ⟨0x4840, 0x01, 1, .enum, .ro, 0, 0, .immediate, false, none⟩
  | .LS_BUS_CLEAR => ⟨0x4840, 0x02, 1, .enum, .wo, 1, 0, .immediate, false, some ⟨1, 1, 1⟩⟩
  | .LS_BUS_CAUSE => ⟨0x4840, 0x03, 1, .enum, .ro, 0, 0, .immediate, false, none⟩
  | .LS_BUS_LACE => ⟨0x4840, 0x04, 1, .u8, .ro, 0, 255, .immediate, false, none⟩
  | .LS_BUS_ADDR => ⟨0x4840, 0x05, 1, .u64, .ro, 0, 0, .immediate, false, none⟩
  | .LS_BUS_ERRORS => ⟨0x4840, 0x06, 1, .u32, .ro, 0, 0, .immediate, false, none⟩
  | .SK_ENABLE => ⟨0x4900, 0x01, 4, .bool, .rw, 0, 1, .immediate, true, some ⟨0, 1, 1⟩⟩
  | .SK_DRAIN => ⟨0x4900, 0x02, 4, .enum, .rw, 1, 0, .immediate, true, some ⟨0, 1, 1⟩⟩
  | .SK_RING_BASE => ⟨0x4900, 0x03, 4, .u64, .rw, 1, 0, .immediate, false, some ⟨0, 0xffffffffffffffff, 128⟩⟩
  | .SK_RING_SIZE => ⟨0x4900, 0x04, 4, .u16, .rw, 1, 0, .immediate, false, some ⟨0, 65535, 1⟩⟩
  | .SK_TAIL => ⟨0x4900, 0x05, 4, .u16, .rw, 0, 0, .immediate, false, some ⟨0, 65535, 1⟩⟩
  | .SK_HEAD => ⟨0x4900, 0x06, 4, .u16, .ro, 0, 0, .immediate, false, none⟩
  | .SK_STATE => ⟨0x4900, 0x07, 4, .enum, .ro, 0, 0, .immediate, false, none⟩
  | .SK_JOBS_OK => ⟨0x4900, 0x08, 4, .u64, .ro, 0, 0, .immediate, false, none⟩
  | .SK_JOBS_FAILED => ⟨0x4900, 0x09, 4, .u64, .ro, 0, 0, .immediate, false, none⟩
  | .SK_ABANDONED => ⟨0x4900, 0x0A, 4, .u64, .ro, 0, 0, .immediate, false, none⟩
  | .SK_LAST_STATUS => ⟨0x4900, 0x0B, 4, .u16, .ro, 0, 0, .immediate, false, none⟩
  | .SK_BYTES => ⟨0x4900, 0x0C, 4, .u64, .ro, 1, 0, .immediate, false, none⟩
  | .SK_QUEUE => ⟨0x4900, 0x0D, 4, .u16, .rw, 0, 65535, .immediate, true, some ⟨0, 65535, 1⟩⟩
  | .LAST_RATE => ⟨0x5000, 0x01, 4, .enum, .rw, 0, 9, .byValue, true, some ⟨0, 12, 1⟩⟩
  | .LAST_PHASE => ⟨0x5000, 0x02, 4, .u64, .rw, 1, 0, .immediate, true, some ⟨0, 999999999, 1⟩⟩
  | .LAST_TOL => ⟨0x5000, 0x03, 4, .u32, .rw, 1, 500, .immediate, true, some ⟨0, 100000, 1⟩⟩
  | .LAST_FRAME => ⟨0x5000, 0x04, 4, .u64, .ro, 0, 0, .immediate, false, none⟩
  | .LAST_NEXT => ⟨0x5000, 0x05, 4, .u64, .ro, 0, 0, .immediate, false, none⟩
  | .LAST_RESYNC => ⟨0x5000, 0x06, 4, .enum, .wo, 1, 0, .immediate, false, some ⟨1, 1, 1⟩⟩
  | .LAST_SLIPS => ⟨0x5000, 0x07, 4, .u64, .ro, 0, 0, .immediate, false, none⟩
  | .LAST_USERS => ⟨0x5000, 0x08, 4, .u8, .ro, 0, 0, .immediate, false, none⟩
  | .FR_LAST => ⟨0x5010, 0x01, 2, .blob 64, .ro, 0, 0, .immediate, false, none⟩
  | .FR_DIGEST => ⟨0x5010, 0x02, 2, .u64, .ro, 0, 0, .immediate, false, none⟩
  | .FR_FRAME => ⟨0x5010, 0x03, 2, .u64, .ro, 0, 0, .immediate, false, none⟩
  | .FR_FLAGS => ⟨0x5010, 0x04, 2, .u16, .ro, 0, 0, .immediate, false, none⟩
  | .FR_HISTORY => ⟨0x5010, 0x05, 2, .blob 65536, .ro, 0, 0, .immediate, false, none⟩
  | .FR_GUARANTEED => ⟨0x5010, 0x06, 2, .u64, .ro, 0, 0, .immediate, false, none⟩
  | .SO_ENABLE => ⟨0x5020, 0x01, 2, .bool, .rw, 0, 1, .immediate, true, some ⟨0, 1, 1⟩⟩
  | .SO_DRAIN => ⟨0x5020, 0x02, 2, .enum, .rw, 1, 0, .immediate, true, some ⟨0, 1, 1⟩⟩
  | .SO_LAST_GEN => ⟨0x5020, 0x03, 2, .u8, .rw, 0, 0, .dark, true, some ⟨0, 3, 1⟩⟩
  | .SO_FILL => ⟨0x5020, 0x04, 2, .u32, .rw, 0, 0, .frame, true, some ⟨0, 1073741823, 1⟩⟩
  | .SO_BLANK => ⟨0x5020, 0x05, 2, .bool, .rw, 0, 0, .frame, false, some ⟨0, 1, 1⟩⟩
  | .SO_OUT_STATE => ⟨0x5020, 0x06, 2, .enum, .ro, 0, 1, .immediate, false, none⟩
  | .SO_FORCED => ⟨0x5020, 0x07, 2, .u8, .ro, 0, 0, .immediate, false, none⟩
  | .SO_BAND_NS => ⟨0x5020, 0x08, 2, .u32, .ro, 1, 15096, .immediate, false, none⟩
  | .SO_LINE_PS => ⟨0x5020, 0x09, 2, .u32, .ro, 1, 1258051, .immediate, false, none⟩
  | .TAP_ENABLE => ⟨0x5040, 0x01, 16, .bool, .rw, 0, 0, .frame, true, some ⟨0, 1, 1⟩⟩
  | .TAP_H => ⟨0x5040, 0x02, 16, .u8, .rw, 0, 48, .frame, true, some ⟨0, 95, 1⟩⟩
  | .TAP_V => ⟨0x5040, 0x03, 16, .u8, .rw, 0, 6, .frame, true, some ⟨0, 11, 1⟩⟩
  | .TAP_EVERY => ⟨0x5040, 0x04, 16, .u8, .rw, 0, 2, .frame, true, some ⟨1, 255, 1⟩⟩
  | .TAP_BASE => ⟨0x5040, 0x05, 16, .u64, .rw, 1, 0, .immediate, false, some ⟨0, 0xffffffffffffffff, 4096⟩⟩
  | .TAP_SLOTS => ⟨0x5040, 0x06, 16, .u16, .rw, 1, 8, .immediate, false, some ⟨2, 1024, 1⟩⟩
  | .TAP_HEAD => ⟨0x5040, 0x07, 16, .u16, .ro, 0, 0, .immediate, false, none⟩
  | .TAP_TAIL => ⟨0x5040, 0x08, 16, .u16, .rw, 0, 0, .immediate, false, some ⟨0, 65535, 1⟩⟩
  | .TAP_REF_DIST => ⟨0x5040, 0x09, 16, .u8, .rw, 1, 30, .frame, true, some ⟨0, 64, 1⟩⟩
  | .TAP_K0 => ⟨0x5040, 0x0A, 16, .u8, .rw, 1, 4, .frame, true, some ⟨0, 11, 1⟩⟩
  | .TAP_XFORM => ⟨0x5040, 0x0B, 16, .bool, .rw, 1, 1, .frame, true, some ⟨0, 1, 1⟩⟩
  | .TAP_QUEUE => ⟨0x5040, 0x0C, 16, .u16, .rw, 0, 65535, .immediate, true, some ⟨0, 65535, 1⟩⟩
  | .TAP_FRAMES => ⟨0x5040, 0x0D, 16, .u64, .ro, 0, 0, .immediate, false, none⟩
  | .TAP_SKIPPED => ⟨0x5040, 0x0E, 16, .u64, .ro, 0, 0, .immediate, false, none⟩
  | .TAP_DROPS => ⟨0x5040, 0x0F, 16, .u64, .ro, 0, 0, .immediate, false, none⟩
  | .TAP_STATE => ⟨0x5040, 0x10, 16, .enum, .ro, 0, 0, .immediate, false, none⟩
  | .WL_STATE => ⟨0x5800, 0x01, 2, .enum, .ro, 0, 0, .immediate, false, none⟩
  | .WL_SSC => ⟨0x5800, 0x02, 2, .enum, .rw, 1, 0, .dark, true, some ⟨0, 2, 1⟩⟩
  | .WL_EQ_MODE => ⟨0x5800, 0x03, 2, .enum, .rw, 1, 0, .dark, true, some ⟨0, 1, 1⟩⟩
  | .WL_PRESET => ⟨0x5800, 0x04, 2, .u8, .rw, 1, 1, .dark, true, some ⟨0, 7, 1⟩⟩
  | .WL_BLANK_IDLE => ⟨0x5800, 0x05, 2, .bool, .rw, 1, 0, .frame, true, some ⟨0, 1, 1⟩⟩
  | .WL_AUTO_SPARE => ⟨0x5800, 0x06, 2, .bool, .rw, 0, 1, .immediate, true, some ⟨0, 1, 1⟩⟩
  | .WL_SPARE_THRESH => ⟨0x5800, 0x07, 2, .u16, .rw, 1, 8, .immediate, true, some ⟨1, 65535, 1⟩⟩
  | .WL_FREE_SPARES => ⟨0x5800, 0x08, 2, .u8, .ro, 0, 4, .immediate, false, none⟩
  | .WL_UNCARRIED => ⟨0x5800, 0x09, 2, .u8, .ro, 0, 0, .immediate, false, none⟩
  | .WL_SPARE_MAP => ⟨0x5800, 0x0A, 2, .blob 96, .ro, 1, 0, .immediate, true, none⟩
  | .WL_MAP_RESET => ⟨0x5800, 0x0B, 2, .enum, .wo, 2, 0, .dark, false, some ⟨1, 1, 1⟩⟩
  | .WL_PANEL_CAPS => ⟨0x5800, 0x0C, 2, .blob 24, .ro, 0, 0, .immediate, false, none⟩
  | .WL_PANEL_SENSORS => ⟨0x5800, 0x0D, 2, .blob 136, .ro, 0, 0, .immediate, false, none⟩
  | .WL_CAL_FETCH => ⟨0x5800, 0x0E, 2, .enum, .wo, 1, 0, .immediate, false, some ⟨1, 2, 1⟩⟩
  | .WL_CAL_RESULT => ⟨0x5800, 0x0F, 2, .u8, .ro, 0, 255, .immediate, false, none⟩
  | .WL_MSG_ERRORS => ⟨0x5800, 0x10, 2, .u64, .ro, 1, 0, .immediate, false, none⟩
  | .WL_SPARE_NOACK => ⟨0x5800, 0x11, 2, .u32, .ro, 1, 0, .immediate, false, none⟩
  | .WL_QUEUE => ⟨0x5800, 0x12, 2, .u16, .rw, 0, 65535, .immediate, true, some ⟨0, 65535, 1⟩⟩
  | .WL_LANE_STATE => ⟨0x5A00, 0x01, 168, .enum, .ro, 0, 0, .immediate, false, none⟩
  | .WL_LOGICAL => ⟨0x5A00, 0x02, 168, .u8, .ro, 0, 0, .immediate, false, none⟩
  | .WL_COEFF => ⟨0x5A00, 0x03, 168, .u16, .ro, 1, 24576, .immediate, false, none⟩
  | .WL_EYE_W => ⟨0x5A00, 0x04, 168, .u8, .ro, 0, 0, .immediate, false, none⟩
  | .WL_EYE_H => ⟨0x5A00, 0x05, 168, .u16, .ro, 0, 0, .immediate, false, none⟩
  | .WL_CRC_FAILS => ⟨0x5A00, 0x06, 168, .u64, .ro, 0, 0, .immediate, false, none⟩
  | .WL_BLOCK_ERRS => ⟨0x5A00, 0x07, 168, .u64, .ro, 0, 0, .immediate, false, none⟩
  | .WL_RETRAINS => ⟨0x5A00, 0x08, 168, .u32, .ro, 0, 0, .immediate, false, none⟩
  | .WL_FW_FAILS => ⟨0x5A00, 0x09, 168, .u32, .ro, 1, 0, .immediate, false, none⟩
  | .WL_PRBS_MODE => ⟨0x5A00, 0x0A, 168, .enum, .rw, 1, 0, .immediate, false, some ⟨0, 3, 1⟩⟩
  | .WL_PRBS_ERR => ⟨0x5A00, 0x0B, 168, .u64, .ro, 1, 0, .immediate, false, none⟩
  | .WL_CTRL => ⟨0x5A00, 0x0C, 168, .enum, .wo, 1, 0, .immediate, false, some ⟨1, 3, 1⟩⟩
  | .WL_CAUSE => ⟨0x5A00, 0x0D, 168, .u16, .ro, 1, 0, .immediate, false, none⟩
  | .WR_STATE => ⟨0x5B00, 0x01, 4, .enum, .ro, 0, 0, .immediate, false, none⟩
  | .WR_EYE_W => ⟨0x5B00, 0x02, 4, .u8, .ro, 0, 0, .immediate, false, none⟩
  | .WR_EYE_H => ⟨0x5B00, 0x03, 4, .u16, .ro, 0, 0, .immediate, false, none⟩
  | .WR_BLOCK_ERRS => ⟨0x5B00, 0x04, 4, .u64, .ro, 0, 0, .immediate, false, none⟩
  | .WR_MESSAGES => ⟨0x5B00, 0x05, 4, .u64, .ro, 1, 0, .immediate, false, none⟩
  | .WR_PRBS_MODE => ⟨0x5B00, 0x06, 4, .enum, .rw, 1, 0, .immediate, false, some ⟨0, 3, 1⟩⟩
  | .WR_PRBS_ERR => ⟨0x5B00, 0x07, 4, .u64, .ro, 1, 0, .immediate, false, none⟩
  | .WR_PRBS_BITS => ⟨0x5B00, 0x08, 4, .u64, .ro, 1, 0, .immediate, false, none⟩
  | .MS_SIZE => ⟨0x6000, 0x01, 1, .u64, .const, 0, 0xc00000000, .none, false, none⟩
  | .MS_INIT_STATE => ⟨0x6000, 0x02, 1, .enum, .ro, 0, 0, .immediate, false, none⟩
  | .MS_INIT_MIN => ⟨0x6000, 0x03, 1, .u32, .ro, 0, 0, .immediate, false, none⟩
  | .MS_CORRECTED => ⟨0x6000, 0x04, 1, .u64, .ro, 0, 0, .immediate, false, none⟩
  | .MS_POISONED => ⟨0x6000, 0x05, 1, .u64, .ro, 0, 0, .immediate, false, none⟩
  | .MS_POISON_READS => ⟨0x6000, 0x06, 1, .u64, .ro, 0, 0, .immediate, false, none⟩
  | .MS_RMW => ⟨0x6000, 0x07, 1, .u64, .ro, 1, 0, .immediate, false, none⟩
  | .MS_RMW_POISON => ⟨0x6000, 0x08, 1, .u64, .ro, 1, 0, .immediate, false, none⟩
  | .MS_WB_DROPPED => ⟨0x6000, 0x09, 1, .u64, .ro, 1, 0, .immediate, false, none⟩
  | .MS_HOT => ⟨0x6000, 0x0A, 1, .u8, .ro, 0, 0, .immediate, false, none⟩
  | .MS_NRR_SHIFT => ⟨0x6000, 0x0B, 1, .u8, .rw, 1, 11, .immediate, true, some ⟨8, 16, 1⟩⟩
  | .MS_NRR_COUNT => ⟨0x6000, 0x0C, 1, .u64, .ro, 1, 0, .immediate, false, none⟩
  | .MS_RETRAIN_EN => ⟨0x6000, 0x0D, 1, .bool, .rw, 1, 1, .immediate, true, some ⟨0, 1, 1⟩⟩
  | .MS_RETRAIN_DRAIN => ⟨0x6000, 0x0E, 1, .enum, .rw, 1, 0, .immediate, true, some ⟨0, 1, 1⟩⟩
  | .MS_QUEUE => ⟨0x6000, 0x0F, 1, .u16, .rw, 0, 65535, .immediate, true, some ⟨0, 65535, 1⟩⟩
  | .MS_FROZEN_CORE => ⟨0x6010, 0x01, 1, .blob 32, .ro, 0, 0, .immediate, false, none⟩
  | .MS_FROZEN_INGEST => ⟨0x6010, 0x02, 1, .blob 32, .ro, 0, 0, .immediate, false, none⟩
  | .MS_RELEASE => ⟨0x6010, 0x03, 1, .u16, .wo, 1, 0, .immediate, false, some ⟨0, 511, 1⟩⟩
  | .MS_FREEZE_LOG => ⟨0x6010, 0x04, 1, .blob 384, .ro, 0, 0, .immediate, false, none⟩
  | .MS_FREEZES => ⟨0x6010, 0x05, 1, .u64, .ro, 0, 0, .immediate, false, none⟩
  | .WIN_APPLY => ⟨0x6010, 0x06, 1, .enum, .wo, 1, 0, .immediate, false, some ⟨1, 1, 1⟩⟩
  | .WIN_STATUS => ⟨0x6010, 0x07, 1, .u16, .ro, 1, 0, .immediate, false, none⟩
  | .CH_MODE => ⟨0x6020, 0x01, 32, .enum, .rw, 1, 0, .immediate, true, some ⟨0, 1, 1⟩⟩
  | .CH_WM_HIGH => ⟨0x6020, 0x02, 32, .u8, .rw, 1, 48, .immediate, true, some ⟨2, 64, 1⟩⟩
  | .CH_WM_LOW => ⟨0x6020, 0x03, 32, .u8, .rw, 1, 16, .immediate, true, some ⟨0, 63, 1⟩⟩
  | .CH_TEMP => ⟨0x6020, 0x04, 32, .q 8 4, .ro, 0, 0, .immediate, false, none⟩
  | .CH_REFRESH => ⟨0x6020, 0x05, 32, .enum, .ro, 0, 0, .immediate, false, none⟩
  | .CH_INIT_PTR => ⟨0x6020, 0x06, 32, .u64, .ro, 1, 0, .immediate, false, none⟩
  | .CH_RD_EYE_W => ⟨0x6020, 0x07, 32, .u8, .ro, 0, 0, .immediate, false, none⟩
  | .CH_RD_EYE_H => ⟨0x6020, 0x08, 32, .u16, .ro, 0, 0, .immediate, false, none⟩
  | .CH_WR_EYE_W => ⟨0x6020, 0x09, 32, .u8, .ro, 0, 0, .immediate, false, none⟩
  | .CH_WR_EYE_H => ⟨0x6020, 0x0A, 32, .u16, .ro, 0, 0, .immediate, false, none⟩
  | .CH_RETRAIN_NOW => ⟨0x6020, 0x0B, 32, .enum, .wo, 1, 0, .immediate, false, some ⟨1, 1, 1⟩⟩
  | .CH_RETRAINS => ⟨0x6020, 0x0C, 32, .u64, .ro, 1, 0, .immediate, false, none⟩
  | .CH_DEFERRALS => ⟨0x6020, 0x0D, 32, .u32, .ro, 1, 0, .immediate, false, none⟩
  | .CH_CORRECTED => ⟨0x6020, 0x0E, 32, .u64, .ro, 1, 0, .immediate, false, none⟩
  | .CH_UNCORRECTABLE => ⟨0x6020, 0x0F, 32, .u64, .ro, 1, 0, .immediate, false, none⟩
  | .CH_UTIL => ⟨0x6020, 0x10, 32, .u16, .ro, 0, 0, .immediate, false, none⟩
  | .QP_TARGET => ⟨0x6040, 0x01, 12, .u32, .rw, 1, 0, .immediate, true, some ⟨100, 1000000, 1⟩⟩
  | .QP_MAX_WAIT => ⟨0x6040, 0x02, 12, .u32, .ro, 1, 0, .immediate, false, none⟩
  | .QP_OVER => ⟨0x6040, 0x03, 12, .u64, .ro, 0, 0, .immediate, false, none⟩
  | .QP_BYTES => ⟨0x6040, 0x04, 12, .u64, .ro, 1, 0, .immediate, false, none⟩
  | .SC_ENABLE => ⟨0x6050, 0x01, 4, .bool, .rw, 0, 1, .immediate, true, some ⟨0, 1, 1⟩⟩
  | .SC_DRAIN => ⟨0x6050, 0x02, 4, .enum, .rw, 1, 0, .immediate, true, some ⟨0, 1, 1⟩⟩
  | .SC_RATE => ⟨0x6050, 0x03, 4, .u16, .rw, 1, 32, .immediate, true, some ⟨1, 256, 1⟩⟩
  | .SC_LAP_LAST => ⟨0x6050, 0x04, 4, .u64, .ro, 0, 0, .immediate, false, none⟩
  | .SC_LAP_LIMIT => ⟨0x6050, 0x05, 4, .u64, .rw, 1, 0x34630b8a000, .immediate, true, some ⟨0, 0xffffffffffffffff, 1⟩⟩
  | .SC_CORRECTED => ⟨0x6050, 0x06, 4, .u64, .ro, 0, 0, .immediate, false, none⟩
  | .SC_UNCORRECTABLE => ⟨0x6050, 0x07, 4, .u64, .ro, 0, 0, .immediate, false, none⟩
  | .SC_POSITION => ⟨0x6050, 0x08, 4, .u64, .ro, 1, 0, .immediate, false, none⟩
  | .SC_STATE => ⟨0x6050, 0x09, 4, .enum, .ro, 0, 0, .immediate, false, none⟩
  | .PN_LOG => ⟨0x6060, 0x01, 1, .blob 1536, .ro, 0, 0, .immediate, false, none⟩
  | .PN_LOST => ⟨0x6060, 0x02, 1, .u64, .ro, 0, 0, .immediate, false, none⟩
  | .PN_CLEAR => ⟨0x6060, 0x03, 1, .enum, .wo, 1, 0, .immediate, false, some ⟨1, 1, 1⟩⟩
  | .WIN_ENABLE => ⟨0x6100, 0x01, 64, .bool, .rw, 1, 1, .immediate, true, some ⟨0, 1, 1⟩⟩
  | .WIN_SPACE => ⟨0x6100, 0x02, 64, .enum, .rw, 1, 0, .immediate, true, some ⟨0, 1, 1⟩⟩
  | .WIN_ID_LO => ⟨0x6100, 0x03, 64, .u8, .rw, 1, 0, .immediate, true, some ⟨0, 255, 1⟩⟩
  | .WIN_ID_HI => ⟨0x6100, 0x04, 64, .u8, .rw, 1, 255, .immediate, true, some ⟨0, 255, 1⟩⟩
  | .WIN_BASE => ⟨0x6100, 0x05, 64, .u64, .rw, 1, 0, .immediate, true, some ⟨0, 0xffffffffffffffff, 1⟩⟩
  | .WIN_LIMIT => ⟨0x6100, 0x06, 64, .u64, .rw, 1, 0xbffffffff, .immediate, true, some ⟨0, 0xffffffffffffffff, 1⟩⟩
  | .WIN_PERM => ⟨0x6100, 0x07, 64, .u8, .rw, 1, 3, .immediate, true, some ⟨0, 3, 1⟩⟩
  | .WIN_PENDING => ⟨0x6100, 0x08, 64, .bool, .ro, 1, 0, .immediate, false, none⟩
  | .ETH_MODE => ⟨0x6800, 0x01, 2, .enum, .rw, 0, 1, .immediate, true, some ⟨0, 3, 1⟩⟩
  | .ETH_FEC => ⟨0x6800, 0x02, 2, .enum, .rw, 1, 0, .immediate, true, some ⟨0, 3, 1⟩⟩
  | .ETH_AN => ⟨0x6800, 0x03, 2, .bool, .rw, 1, 1, .immediate, true, some ⟨0, 1, 1⟩⟩
  | .ETH_LINK => ⟨0x6800, 0x04, 2, .u8, .ro, 0, 0, .immediate, false, none⟩
  | .ETH_DEF_PCP => ⟨0x6800, 0x05, 2, .u8, .rw, 1, 0, .immediate, true, some ⟨0, 7, 1⟩⟩
  | .ETH_RX_FRAMES => ⟨0x6800, 0x06, 2, .u64, .ro, 0, 0, .immediate, false, none⟩
  | .ETH_TX_FRAMES => ⟨0x6800, 0x07, 2, .u64, .ro, 0, 0, .immediate, false, none⟩
  | .ETH_FCS_ERR => ⟨0x6800, 0x08, 2, .u64, .ro, 0, 0, .immediate, false, none⟩
  | .ETH_FEC_CORR => ⟨0x6800, 0x09, 2, .u64, .ro, 1, 0, .immediate, false, none⟩
  | .ETH_FEC_UNCORR => ⟨0x6800, 0x0A, 2, .u64, .ro, 1, 0, .immediate, false, none⟩
  | .ETH_CUT => ⟨0x6800, 0x0B, 2, .u64, .ro, 1, 0, .immediate, false, none⟩
  | .ETH_STORED => ⟨0x6800, 0x0C, 2, .u64, .ro, 1, 0, .immediate, false, none⟩
  | .ETH_STOMPED => ⟨0x6800, 0x0D, 2, .u64, .ro, 0, 0, .immediate, false, none⟩
  | .ETH_FWD_DROPS => ⟨0x6800, 0x0E, 2, .u64, .ro, 0, 0, .immediate, false, none⟩
  | .ETH_OVERSIZE => ⟨0x6800, 0x0F, 2, .u64, .ro, 1, 0, .immediate, false, none⟩
  | .ETH_QUEUE => ⟨0x6800, 0x10, 2, .u16, .rw, 0, 65535, .immediate, true, some ⟨0, 65535, 1⟩⟩
  | .NET_MAC => ⟨0x6810, 0x01, 1, .u64, .const, 0, 0, .none, true, none⟩
  | .NET_IP4 => ⟨0x6810, 0x02, 1, .u32, .rw, 0, 0, .immediate, true, some ⟨0, 4294967295, 1⟩⟩
  | .NET_IP4_PREFIX => ⟨0x6810, 0x03, 1, .u8, .rw, 0, 24, .immediate, true, some ⟨8, 30, 1⟩⟩
  | .NET_IP4_GW => ⟨0x6810, 0x04, 1, .u32, .rw, 0, 0, .immediate, true, some ⟨0, 4294967295, 1⟩⟩
  | .NET_IP6 => ⟨0x6810, 0x05, 1, .blob 16, .rw, 0, 0, .immediate, true, none⟩
  | .NET_IP6_PREFIX => ⟨0x6810, 0x06, 1, .u8, .rw, 0, 64, .immediate, true, some ⟨16, 127, 1⟩⟩
  | .NET_VID => ⟨0x6810, 0x07, 1, .u16, .rw, 0, 0, .immediate, true, some ⟨0, 4094, 1⟩⟩
  | .NET_PCP_CTRL => ⟨0x6810, 0x08, 1, .u8, .rw, 1, 5, .immediate, true, some ⟨0, 7, 1⟩⟩
  | .NET_PCP_PTP => ⟨0x6810, 0x09, 1, .u8, .rw, 1, 7, .immediate, true, some ⟨0, 7, 1⟩⟩
  | .NET_UNCLAIMED => ⟨0x6810, 0x0A, 1, .u64, .ro, 1, 0, .immediate, false, none⟩
  | .RQ_KIND => ⟨0x6840, 0x01, 64, .enum, .rw, 1, 0, .immediate, true, some ⟨0, 3, 1⟩⟩
  | .RQ_VALUE => ⟨0x6840, 0x02, 64, .u32, .rw, 1, 0, .immediate, true, some ⟨0, 65535, 1⟩⟩
  | .RQ_PORTS => ⟨0x6840, 0x03, 64, .u8, .rw, 1, 3, .immediate, true, some ⟨0, 3, 1⟩⟩
  | .RQ_LEVEL => ⟨0x6840, 0x04, 64, .u32, .ro, 1, 0, .immediate, false, none⟩
  | .RQ_FRAMES => ⟨0x6840, 0x05, 64, .u64, .ro, 1, 0, .immediate, false, none⟩
  | .RQ_DROPS => ⟨0x6840, 0x06, 64, .u64, .ro, 1, 0, .immediate, false, none⟩
  | .PTP_ENABLE => ⟨0x6900, 0x01, 1, .bool, .rw, 0, 1, .immediate, true, some ⟨0, 1, 1⟩⟩
  | .PTP_PROFILE => ⟨0x6900, 0x02, 1, .enum, .rw, 0, 0, .immediate, true, some ⟨0, 2, 1⟩⟩
  | .PTP_DOMAIN => ⟨0x6900, 0x03, 1, .u8, .rw, 0, 0, .immediate, true, some ⟨0, 127, 1⟩⟩
  | .PTP_TRANSPORT => ⟨0x6900, 0x04, 1, .enum, .rw, 0, 0, .immediate, true, some ⟨0, 2, 1⟩⟩
  | .PTP_DELAY_MECH => ⟨0x6900, 0x05, 1, .enum, .rw, 0, 0, .immediate, true, some ⟨0, 1, 1⟩⟩
  | .PTP_TC_EN => ⟨0x6900, 0x06, 1, .bool, .rw, 0, 1, .immediate, true, some ⟨0, 1, 1⟩⟩
  | .PTP_STATE => ⟨0x6900, 0x07, 1, .enum, .ro, 0, 0, .immediate, false, none⟩
  | .PTP_OFFSET => ⟨0x6900, 0x08, 1, .i64, .ro, 0, 0, .immediate, false, none⟩
  | .PTP_MEAN_DELAY => ⟨0x6900, 0x09, 1, .i64, .ro, 0, 0, .immediate, false, none⟩
  | .PTP_GM_ID => ⟨0x6900, 0x0A, 1, .u64, .ro, 0, 0, .immediate, false, none⟩
  | .PTP_SLAVE_PORT => ⟨0x6900, 0x0B, 1, .u8, .ro, 0, 255, .immediate, false, none⟩
  | .PTP_STEP_LIMIT => ⟨0x6900, 0x0C, 1, .u32, .rw, 1, 100000, .immediate, true, some ⟨0, 4294967295, 1⟩⟩
  | .PTP_LOCK_THRESH => ⟨0x6900, 0x0D, 1, .u32, .rw, 1, 1000, .immediate, true, some ⟨10, 1000000, 1⟩⟩
  | .PTP_SLEW_MAX => ⟨0x6900, 0x0E, 1, .u32, .rw, 1, 100000, .immediate, true, some ⟨1000, 500000, 1⟩⟩
  | .PTP_KP => ⟨0x6900, 0x0F, 1, .uq 0 16, .rw, 1, 8192, .immediate, true, some ⟨0, 65535, 1⟩⟩
  | .PTP_KI => ⟨0x6900, 0x10, 1, .uq 0 16, .rw, 1, 512, .immediate, true, some ⟨0, 65535, 1⟩⟩
  | .PTP_ANN_TIMEOUT => ⟨0x6900, 0x11, 1, .u8, .rw, 1, 3, .immediate, true, some ⟨2, 10, 1⟩⟩
  | .PTP_UTC_OFFSET => ⟨0x6900, 0x12, 1, .i32, .ro, 0, 0, .immediate, false, none⟩
  | .PTP_SMPTE => ⟨0x6900, 0x13, 1, .blob 64, .ro, 1, 0, .immediate, false, none⟩
  | .PTP_QUEUE => ⟨0x6900, 0x14, 1, .u16, .rw, 0, 65535, .immediate, true, some ⟨0, 65535, 1⟩⟩
  | .PP_ENABLE => ⟨0x6910, 0x01, 2, .bool, .rw, 0, 1, .immediate, true, some ⟨0, 1, 1⟩⟩
  | .PP_STATE => ⟨0x6910, 0x02, 2, .enum, .ro, 0, 0, .immediate, false, none⟩
  | .PP_ASYM => ⟨0x6910, 0x03, 2, .i32, .rw, 1, 0, .immediate, true, some ⟨(-2147483648), 2147483647, 1⟩⟩
  | .PP_PEER_DELAY => ⟨0x6910, 0x04, 2, .i64, .ro, 1, 0, .immediate, false, none⟩
  | .PP_RESIDENCE_MAX => ⟨0x6910, 0x05, 2, .u32, .ro, 1, 0, .immediate, false, none⟩
  | .TB_SOURCE => ⟨0x6920, 0x01, 1, .enum, .rw, 0, 0, .immediate, true, some ⟨0, 2, 1⟩⟩
  | .TB_NOW => ⟨0x6920, 0x02, 1, .u64, .ro, 0, 0, .immediate, false, none⟩
  | .TB_RATE => ⟨0x6920, 0x03, 1, .i32, .ro, 1, 0, .immediate, false, none⟩
  | .TB_SET => ⟨0x6920, 0x04, 1, .u64, .wo, 1, 0, .immediate, false, some ⟨0, 0xffffffffffffffff, 1⟩⟩
  | .TB_ADJ => ⟨0x6920, 0x05, 1, .i32, .wo, 1, 0, .immediate, false, some ⟨(-2048000000), 2048000000, 1⟩⟩
  | .TB_STEPS => ⟨0x6920, 0x06, 1, .u32, .ro, 0, 0, .immediate, false, none⟩
  | .TB_SYNC_LOAD => ⟨0x6920, 0x07, 1, .u64, .rw, 1, 0, .immediate, false, some ⟨0, 0xffffffffffffffff, 1000000000⟩⟩
  | .TB_SYNC_TIME => ⟨0x6920, 0x08, 1, .u64, .ro, 1, 0, .immediate, false, none⟩
  | .TB_SYNC_REJECT => ⟨0x6920, 0x09, 1, .u32, .ro, 1, 0, .immediate, false, none⟩
  | .EYE_MODE => ⟨0x6A00, 0x01, 8, .enum, .rw, 0, 0, .immediate, true, some ⟨0, 3, 1⟩⟩
  | .EYE_START => ⟨0x6A00, 0x02, 8, .u64, .rw, 0, 0, .immediate, false, some ⟨0, 0xffffffffffffffff, 1⟩⟩
  | .EYE_PERIOD => ⟨0x6A00, 0x03, 8, .uq 48 16, .rw, 0, 0, .immediate, true, some ⟨0, 0xffffffffffffffff, 1⟩⟩
  | .EYE_WIDTH => ⟨0x6A00, 0x04, 8, .u32, .rw, 0, 1000000, .immediate, true, some ⟨0, 1000000000, 1⟩⟩
  | .EYE_COUNT => ⟨0x6A00, 0x05, 8, .u32, .rw, 0, 0, .immediate, true, some ⟨0, 4294967295, 1⟩⟩
  | .EYE_GEN => ⟨0x6A00, 0x06, 8, .u8, .rw, 0, 0, .immediate, true, some ⟨0, 3, 1⟩⟩
  | .EYE_EVERY => ⟨0x6A00, 0x07, 8, .u8, .rw, 0, 1, .immediate, true, some ⟨1, 255, 1⟩⟩
  | .EYE_OFFSET => ⟨0x6A00, 0x08, 8, .i32, .rw, 0, 0, .immediate, true, some ⟨(-100000000), 100000000, 1⟩⟩
  | .EYE_POL => ⟨0x6A00, 0x09, 8, .enum, .rw, 0, 0, .immediate, true, some ⟨0, 1, 1⟩⟩
  | .EYE_LATE => ⟨0x6A00, 0x0A, 8, .enum, .rw, 0, 0, .immediate, true, some ⟨0, 1, 1⟩⟩
  | .EYE_CTRL => ⟨0x6A00, 0x0B, 8, .enum, .wo, 0, 0, .immediate, false, some ⟨1, 2, 1⟩⟩
  | .EYE_STATE => ⟨0x6A00, 0x0C, 8, .enum, .ro, 0, 0, .immediate, false, none⟩
  | .EYE_EDGES => ⟨0x6A00, 0x0D, 8, .u64, .ro, 0, 0, .immediate, false, none⟩
  | .EYE_LATE_COUNT => ⟨0x6A00, 0x0E, 8, .u32, .ro, 0, 0, .immediate, false, none⟩
  | .EYE_QUEUE => ⟨0x6A00, 0x0F, 8, .u16, .rw, 0, 65535, .immediate, true, some ⟨0, 65535, 1⟩⟩
  | .CAP_EDGE => ⟨0x6A08, 0x01, 8, .enum, .rw, 0, 0, .immediate, true, some ⟨0, 3, 1⟩⟩
  | .CAP_FILTER => ⟨0x6A08, 0x02, 8, .u8, .rw, 1, 4, .immediate, true, some ⟨0, 255, 1⟩⟩
  | .CAP_HOLDOFF => ⟨0x6A08, 0x03, 8, .u32, .rw, 0, 0, .immediate, true, some ⟨0, 1000000000, 1⟩⟩
  | .CAP_READ => ⟨0x6A08, 0x04, 8, .blob 256, .ro, 0, 0, .immediate, false, none⟩
  | .CAP_COUNT => ⟨0x6A08, 0x05, 8, .u64, .ro, 0, 0, .immediate, false, none⟩
  | .CAP_IGNORED => ⟨0x6A08, 0x06, 8, .u32, .ro, 1, 0, .immediate, false, none⟩
  | .CAP_OVERFLOW => ⟨0x6A08, 0x07, 8, .u32, .ro, 0, 0, .immediate, false, none⟩
  | .CAP_QUEUE => ⟨0x6A08, 0x08, 8, .u16, .rw, 0, 65535, .immediate, true, some ⟨0, 65535, 1⟩⟩
  | .CK_STATE => ⟨0x6C00, 0x01, 7, .enum, .ro, 0, 0, .immediate, false, none⟩
  | .CK_FREQ => ⟨0x6C00, 0x02, 7, .u32, .ro, 0, 0, .immediate, false, none⟩
  | .CK_CEILING => ⟨0x6C00, 0x03, 7, .u32, .const, 0, 0, .none, false, none⟩
  | .CK_MARGIN => ⟨0x6C00, 0x04, 7, .i32, .rw, 2, 0, .immediate, true, some ⟨(-3000), 3000, 100⟩⟩
  | .CK_SSC => ⟨0x6C00, 0x05, 7, .enum, .rw, 1, 0, .frame, true, some ⟨0, 1, 1⟩⟩
  | .CK_LOCK_N => ⟨0x6C00, 0x06, 7, .u16, .rw, 1, 512, .immediate, true, some ⟨64, 4096, 1⟩⟩
  | .CK_LOCK_WIN => ⟨0x6C00, 0x07, 7, .enum, .rw, 1, 1, .immediate, true, some ⟨0, 3, 1⟩⟩
  | .CK_BYPASS => ⟨0x6C00, 0x08, 7, .enum, .rw, 1, 0, .immediate, true, some ⟨0, 1, 1⟩⟩
  | .CK_BAND => ⟨0x6C00, 0x09, 7, .u8, .ro, 1, 0, .immediate, false, none⟩
  | .CK_BAND_TABLE => ⟨0x6C00, 0x0A, 7, .blob 64, .rw, 1, 0, .immediate, true, none⟩
  | .CK_RELOCK => ⟨0x6C00, 0x0B, 7, .enum, .wo, 2, 0, .immediate, false, some ⟨1, 1, 1⟩⟩
  | .CK_LOCK_TIME => ⟨0x6C00, 0x0C, 7, .u32, .ro, 1, 0, .immediate, false, none⟩
  | .CK_UNLOCKS => ⟨0x6C00, 0x0D, 7, .u32, .ro, 0, 0, .immediate, false, none⟩
  | .CK_PHASE_ERR => ⟨0x6C00, 0x0E, 7, .u32, .ro, 0, 0, .immediate, false, none⟩
  | .CK_BYPASS_NS => ⟨0x6C00, 0x0F, 7, .u64, .ro, 1, 0, .immediate, false, none⟩
  | .CK_REF_STATE => ⟨0x6C10, 0x01, 1, .enum, .ro, 0, 0, .immediate, false, none⟩
  | .CK_THROTTLE_REQ => ⟨0x6C10, 0x02, 1, .bool, .ro, 0, 0, .immediate, false, none⟩
  | .CK_SYNC_MASK => ⟨0x6C10, 0x03, 1, .u8, .rw, 1, 24, .immediate, true, some ⟨0, 24, 8⟩⟩
  | .CK_SYNC_ARM => ⟨0x6C10, 0x04, 1, .enum, .rw, 1, 0, .immediate, false, some ⟨0, 1, 1⟩⟩
  | .CK_SYNC_SKIPPED => ⟨0x6C10, 0x05, 1, .u8, .ro, 1, 0, .immediate, false, none⟩
  | .CK_SYNC_COUNT => ⟨0x6C10, 0x06, 1, .u32, .ro, 1, 0, .immediate, false, none⟩
  | .CK_BACKUP_PERIOD => ⟨0x6C10, 0x07, 1, .u32, .ro, 1, 655360, .immediate, false, none⟩
  | .PW_CEILING => ⟨0x7000, 0x01, 1, .u16, .rw, 2, 920, .immediate, true, some ⟨320, 960, 1⟩⟩
  | .PW_BASE => ⟨0x7000, 0x02, 1, .u16, .ro, 0, 0, .immediate, false, none⟩
  | .PW_FREE => ⟨0x7000, 0x03, 1, .i32, .ro, 0, 0, .immediate, false, none⟩
  | .PW_GRANTED => ⟨0x7000, 0x04, 1, .u16, .ro, 0, 0, .immediate, false, none⟩
  | .PW_WAIT_HIGH => ⟨0x7000, 0x05, 1, .u16, .ro, 0, 0, .immediate, false, none⟩
  | .PW_WAIT_NORMAL => ⟨0x7000, 0x06, 1, .u16, .ro, 0, 0, .immediate, false, none⟩
  | .PW_BLOCKED => ⟨0x7000, 0x07, 1, .bool, .ro, 0, 0, .immediate, false, none⟩
  | .PW_GRANTS => ⟨0x7000, 0x08, 1, .u64, .ro, 1, 0, .immediate, false, none⟩
  | .PW_MAX_WAIT => ⟨0x7000, 0x09, 1, .u32, .ro, 1, 0, .immediate, false, none⟩
  | .PW_MEASURED => ⟨0x7000, 0x0A, 1, .blob 18, .ro, 0, 0, .immediate, false, none⟩
  | .PW_TOTAL => ⟨0x7000, 0x0B, 1, .u16, .ro, 0, 0, .immediate, false, none⟩
  | .TH_JUNCTION => ⟨0x7010, 0x01, 1, .q 8 4, .ro, 0, 0, .immediate, false, none⟩
  | .TH_WARN => ⟨0x7010, 0x02, 1, .q 8 4, .rw, 1, 1600, .immediate, true, some ⟨1120, 1680, 1⟩⟩
  | .TH_HBM_WARN => ⟨0x7010, 0x03, 1, .q 8 4, .rw, 1, 1472, .immediate, true, some ⟨1360, 1520, 1⟩⟩
  | .TH_GRACE => ⟨0x7010, 0x04, 1, .u32, .rw, 1, 2000, .immediate, true, some ⟨500, 10000, 1⟩⟩
  | .TH_STAGE_MAX => ⟨0x7010, 0x05, 1, .u8, .rw, 2, 3, .immediate, true, some ⟨0, 3, 1⟩⟩
  | .TH_STAGE_DUE => ⟨0x7010, 0x06, 1, .u8, .ro, 0, 0, .immediate, false, none⟩
  | .TH_STATE => ⟨0x7010, 0x07, 1, .enum, .ro, 0, 0, .immediate, false, none⟩
  | .TH_SHUT => ⟨0x7010, 0x08, 1, .q 8 4, .rw, 2, 1840, .immediate, true, some ⟨1680, 1840, 1⟩⟩
  | .TH_RESTART => ⟨0x7010, 0x09, 1, .q 8 4, .rw, 2, 1520, .immediate, true, some ⟨1280, 1680, 1⟩⟩
  | .TH_SHUTDOWNS => ⟨0x7010, 0x0A, 1, .u32, .ro, 0, 0, .immediate, true, none⟩
  | .TH_LAST_PEAK => ⟨0x7010, 0x0B, 1, .q 8 4, .ro, 0, 0, .immediate, true, none⟩
  | .TH_KEEPER_GATE => ⟨0x7010, 0x0C, 1, .enum, .ro, 0, 0, .immediate, false, none⟩
  | .TH_GLASS_DIODE => ⟨0x7010, 0x0D, 1, .u8, .rw, 1, 3, .immediate, true, some ⟨0, 3, 1⟩⟩
  | .TH_GLASS_GATE => ⟨0x7010, 0x0E, 1, .enum, .ro, 0, 0, .immediate, false, none⟩
  | .TP_SOURCE => ⟨0x7020, 0x01, 2, .enum, .rw, 0, 0, .frame, true, some ⟨0, 2, 1⟩⟩
  | .TP_DIODES => ⟨0x7020, 0x02, 2, .u8, .rw, 0, 3, .frame, true, some ⟨1, 15, 1⟩⟩
  | .TP_SENSORS => ⟨0x7020, 0x03, 2, .blob 16, .rw, 1, 0xffffffffffffffffffffffffffffffff, .frame, true, none⟩
  | .TP_FIXED => ⟨0x7020, 0x04, 2, .q 8 4, .rw, 1, 400, .frame, true, some ⟨(-320), 1600, 1⟩⟩
  | .TP_TEMP => ⟨0x7020, 0x05, 2, .q 8 4, .ro, 0, 0, .immediate, false, none⟩
  | .TP_STALE => ⟨0x7020, 0x06, 2, .u32, .ro, 0, 0, .immediate, false, none⟩
  | .TP_WARN => ⟨0x7020, 0x07, 2, .q 8 4, .rw, 0, 960, .immediate, true, some ⟨320, 1600, 1⟩⟩
  | .TS_TEMP => ⟨0x7040, 0x01, 36, .q 8 4, .ro, 0, 0, .immediate, false, none⟩
  | .TS_VALID => ⟨0x7040, 0x02, 36, .bool, .ro, 0, 0, .immediate, false, none⟩
  | .TS_MAX => ⟨0x7040, 0x03, 36, .q 8 4, .ro, 0, 0, .immediate, false, none⟩
  | .TS_IDEALITY => ⟨0x7040, 0x04, 36, .uq 2 14, .rw, 1, 16515, .immediate, true, some ⟨16384, 18022, 1⟩⟩
  | .TS_SERIES => ⟨0x7040, 0x05, 36, .uq 8 8, .rw, 1, 0, .immediate, true, some ⟨0, 51200, 1⟩⟩
  | .TS_FAULTS => ⟨0x7040, 0x06, 36, .u32, .ro, 1, 0, .immediate, false, none⟩
  | .KP_PROTECT => ⟨0x7400, 0x01, 1, .enum, .rw, 2, 0, .immediate, true, some ⟨0, 3, 1⟩⟩
  | .KP_BUSY => ⟨0x7400, 0x02, 1, .u8, .ro, 0, 0, .immediate, false, none⟩
  | .KP_WRITES => ⟨0x7400, 0x03, 1, .u64, .ro, 1, 0, .immediate, false, none⟩
  | .KP_REFUSED => ⟨0x7400, 0x04, 1, .u64, .ro, 0, 0, .immediate, false, none⟩
  | .KP_POOL_FREE => ⟨0x7400, 0x05, 1, .u16, .ro, 0, 0, .immediate, false, none⟩
  | .KP_RETIRED => ⟨0x7400, 0x06, 1, .u16, .ro, 0, 0, .immediate, false, none⟩
  | .KP_WEAR_MAX => ⟨0x7400, 0x07, 1, .u32, .ro, 0, 0, .immediate, false, none⟩
  | .KP_WEAR_MEAN => ⟨0x7400, 0x08, 1, .u32, .ro, 1, 0, .immediate, false, none⟩
  | .KP_REC_LOST => ⟨0x7400, 0x09, 1, .u32, .ro, 0, 0, .immediate, false, none⟩
  | .KP_TWINS => ⟨0x7400, 0x0A, 1, .u32, .ro, 0, 0, .immediate, false, none⟩
  | .KP_REPAIRS => ⟨0x7400, 0x0B, 1, .u32, .ro, 1, 0, .immediate, false, none⟩
  | .KP_TRI_REPAIRS => ⟨0x7400, 0x0C, 1, .u32, .ro, 0, 0, .immediate, false, none⟩
  | .KP_TRI_NOVOTE => ⟨0x7400, 0x0D, 1, .u32, .ro, 1, 0, .immediate, false, none⟩
  | .KP_TRIWORDS => ⟨0x7400, 0x0E, 1, .blob 128, .ro, 1, 0, .immediate, false, none⟩
  | .KP_BAD_LOG => ⟨0x7400, 0x0F, 1, .blob 256, .ro, 0, 0, .immediate, false, none⟩
  | .INS_ENABLE => ⟨0x7500, 0x01, 1, .bool, .rw, 0, 1, .immediate, true, some ⟨0, 1, 1⟩⟩
  | .INS_DRAIN => ⟨0x7500, 0x02, 1, .enum, .rw, 1, 0, .immediate, true, some ⟨0, 1, 1⟩⟩
  | .INS_IMAGE => ⟨0x7500, 0x03, 1, .blob 24, .rw, 0, 0, .immediate, true, none⟩
  | .INS_SHOWN => ⟨0x7500, 0x04, 1, .blob 24, .ro, 0, 0, .immediate, false, none⟩
  | .INS_KNOWN => ⟨0x7500, 0x05, 1, .bool, .ro, 0, 0, .immediate, false, none⟩
  | .INS_STATE => ⟨0x7500, 0x06, 1, .enum, .ro, 0, 0, .immediate, false, none⟩
  | .INS_VHV => ⟨0x7500, 0x07, 1, .uq 8 8, .rw, 1, 6144, .immediate, true, some ⟨2560, 10240, 1⟩⟩
  | .INS_BAND => ⟨0x7500, 0x08, 1, .u8, .ro, 0, 0, .immediate, false, none⟩
  | .INS_FRAME => ⟨0x7500, 0x09, 1, .u8, .ro, 1, 0, .immediate, false, none⟩
  | .INS_UPDATES => ⟨0x7500, 0x0A, 1, .u64, .ro, 0, 0, .immediate, false, none⟩
  | .INS_DISCHARGES => ⟨0x7500, 0x0B, 1, .u32, .ro, 0, 0, .immediate, false, none⟩
  | .INS_WAVE_N => ⟨0x7510, 0x01, 16, .u8, .rw, 1, 64, .immediate, true, some ⟨32, 64, 1⟩⟩
  | .INS_WAVE => ⟨0x7510, 0x02, 16, .blob 256, .rw, 1, 0, .immediate, true, none⟩
  | .SM_ENABLE => ⟨0x7580, 0x01, 2, .u8, .rw, 0, 0, .immediate, true, some ⟨0, 15, 1⟩⟩
  | .SM_POLICY => ⟨0x7580, 0x02, 2, .enum, .rw, 0, 0, .immediate, true, some ⟨0, 1, 1⟩⟩
  | .SM_LATCH => ⟨0x7580, 0x03, 2, .bool, .rw, 1, 1, .immediate, true, some ⟨0, 1, 1⟩⟩
  | .SM_THRESH => ⟨0x7580, 0x04, 2, .u32, .rw, 1, 10000, .immediate, true, some ⟨1000, 50000, 1⟩⟩
  | .SM_DEBOUNCE => ⟨0x7580, 0x05, 2, .u16, .rw, 1, 20, .immediate, true, some ⟨1, 1000, 1⟩⟩
  | .SM_STATE => ⟨0x7580, 0x06, 2, .u8, .ro, 0, 0, .immediate, false, none⟩
  | .SM_OHMS => ⟨0x7580, 0x07, 2, .blob 16, .ro, 1, 0, .immediate, false, none⟩
  | .SM_LATCHED => ⟨0x7580, 0x08, 2, .bool, .ro, 0, 0, .immediate, false, none⟩
  | .SM_CLEAR => ⟨0x7580, 0x09, 2, .enum, .wo, 1, 0, .immediate, false, some ⟨1, 1, 1⟩⟩
  | .SM_OPENS => ⟨0x7580, 0x0A, 2, .u32, .ro, 0, 0, .immediate, false, none⟩
  | .CAL_STATE => ⟨0x7800, 0x01, 64, .enum, .ro, 0, 0, .immediate, false, none⟩
  | .CAL_T0 => ⟨0x7800, 0x02, 64, .q 8 4, .rw, 1, 400, .immediate, false, some ⟨(-4096), 4095, 1⟩⟩
  | .CAL_T1 => ⟨0x7800, 0x03, 64, .q 8 4, .rw, 1, 640, .immediate, false, some ⟨(-4096), 4095, 1⟩⟩
  | .CAL_T2 => ⟨0x7800, 0x04, 64, .q 8 4, .rw, 1, 880, .immediate, false, some ⟨(-4096), 4095, 1⟩⟩
  | .CAL_SOURCE => ⟨0x7800, 0x05, 64, .enum, .ro, 0, 0, .immediate, false, none⟩
  | .CAL_BASE => ⟨0x7800, 0x06, 64, .u64, .rw, 1, 0, .immediate, false, some ⟨0, 0xffffffffffffffff, 4096⟩⟩
  | .CAL_CRC => ⟨0x7800, 0x07, 64, .u32, .rw, 1, 0, .immediate, false, some ⟨0, 4294967295, 1⟩⟩
  | .CAL_LOAD => ⟨0x7800, 0x08, 64, .enum, .wo, 1, 0, .immediate, false, some ⟨1, 2, 1⟩⟩
  | .CAL_WIDTH => ⟨0x7800, 0x09, 64, .u16, .ro, 0, 0, .immediate, false, none⟩
  | .CAL_HEIGHT => ⟨0x7800, 0x0A, 64, .u16, .ro, 0, 0, .immediate, false, none⟩
  | .CAL_RESIDUAL => ⟨0x7800, 0x0B, 64, .u32, .ro, 0, 0, .immediate, false, none⟩
  | .CAL_TAG => ⟨0x7800, 0x0C, 64, .u32, .rw, 0, 0, .immediate, false, some ⟨0, 4294967295, 1⟩⟩
  | .CAL_RAYMAP_SEL => ⟨0x7840, 0x01, 2, .u8, .rw, 0, 0, .frame, true, some ⟨0, 15, 1⟩⟩
  | .CAL_GAIN_SEL => ⟨0x7840, 0x02, 2, .u8, .rw, 0, 0, .frame, true, some ⟨0, 15, 1⟩⟩
  | .CAL_GAIN_BYPASS => ⟨0x7840, 0x03, 2, .bool, .rw, 1, 0, .frame, true, some ⟨0, 1, 1⟩⟩
  | .CAL_PANEL_SLOT => ⟨0x7840, 0x04, 2, .u8, .rw, 1, 15, .immediate, true, some ⟨0, 15, 1⟩⟩
  | .OUT_LUT_SEL => ⟨0x7840, 0x05, 2, .u8, .rw, 0, 0, .frame, true, some ⟨0, 3, 1⟩⟩
  | .IN_LUT_DATA => ⟨0x7850, 0x01, 8, .blob 2048, .rw, 1, 0, .frame, true, none⟩
  | .IN_LUT_CRC => ⟨0x7850, 0x02, 8, .u32, .ro, 1, 0, .immediate, false, none⟩
  | .OUT_LUT_DATA => ⟨0x7858, 0x01, 4, .blob 8194, .rw, 1, 0, .frame, true, none⟩
  | .OUT_LUT_CRC => ⟨0x7858, 0x02, 4, .u32, .ro, 1, 0, .immediate, false, none⟩
  | .NQ_MODE => ⟨0x8000, 0x01, 2048, .enum, .rw, 0, 1, .immediate, true, some ⟨0, 1, 1⟩⟩
  | .NQ_COUNT => ⟨0x8000, 0x02, 2048, .u8, .ro, 0, 0, .immediate, false, none⟩
  | .NQ_READ => ⟨0x8000, 0x03, 2048, .blob 1024, .ro, 0, 0, .immediate, false, none⟩
  | .NQ_COAL_COUNT => ⟨0x8000, 0x04, 2048, .u8, .rw, 0, 1, .immediate, true, some ⟨1, 32, 1⟩⟩
  | .NQ_COAL_NS => ⟨0x8000, 0x05, 2048, .u32, .rw, 0, 0, .immediate, true, some ⟨0, 1000000000, 1⟩⟩
  | .NQ_MSIX => ⟨0x8000, 0x06, 2048, .bool, .rw, 0, 1, .immediate, true, some ⟨0, 1, 1⟩⟩
  | .NQ_IRQ => ⟨0x8000, 0x07, 2048, .u8, .rw, 0, 255, .immediate, true, some ⟨0, 255, 1⟩⟩
  | .NQ_LOST => ⟨0x8000, 0x08, 2048, .u32, .ro, 0, 0, .immediate, false, none⟩
  | .NQ_SEQ => ⟨0x8000, 0x09, 2048, .u32, .ro, 1, 0, .immediate, false, none⟩
  | .NQ_SUBS => ⟨0x8000, 0x0A, 2048, .u8, .ro, 0, 0, .immediate, false, none⟩
  | .FW_STATE => ⟨0xF000, 0x01, 1, .enum, .ro, 0, 0, .immediate, false, none⟩
  | .FW_RUNNING => ⟨0xF000, 0x02, 1, .u8, .ro, 0, 0, .immediate, false, none⟩
  | .FW_VERSION => ⟨0xF000, 0x03, 1, .u32, .ro, 0, 0, .immediate, false, none⟩
  | .FW_IMAGES => ⟨0xF000, 0x04, 1, .blob 16, .ro, 0, 0, .immediate, false, none⟩
  | .FW_SELECTOR => ⟨0xF000, 0x05, 1, .u64, .ro, 1, 0, .immediate, false, none⟩
  | .FW_SRC => ⟨0xF000, 0x06, 1, .u64, .rw, 2, 0, .immediate, false, some ⟨0, 0xffffffffffffffff, 1⟩⟩
  | .FW_SRC_SPACE => ⟨0xF000, 0x07, 1, .enum, .rw, 2, 0, .immediate, false, some ⟨0, 1, 1⟩⟩
  | .FW_LENGTH => ⟨0xF000, 0x08, 1, .u32, .rw, 2, 0, .immediate, false, some ⟨257, 16777216, 1⟩⟩
  | .FW_PROGRAM => ⟨0xF000, 0x09, 1, .enum, .wo, 2, 0, .immediate, false, some ⟨1, 1, 1⟩⟩
  | .FW_PROG_STATE => ⟨0xF000, 0x0A, 1, .enum, .ro, 0, 0, .immediate, false, none⟩
  | .FW_SWITCH => ⟨0xF000, 0x0B, 1, .enum, .wo, 2, 0, .immediate, false, some ⟨1, 3, 1⟩⟩
  | .FW_TRIAL_TIMEOUT => ⟨0xF000, 0x0C, 1, .u32, .rw, 2, 60, .immediate, true, some ⟨10, 600, 1⟩⟩
  | .FW_RESTARTS => ⟨0xF000, 0x0D, 1, .u32, .ro, 0, 0, .immediate, false, none⟩
  | .WD_TIMEOUT => ⟨0xF000, 0x0E, 1, .u32, .rw, 2, 2000, .immediate, true, some ⟨500, 30000, 1⟩⟩
  | .FW_PROG_ADDR => ⟨0xF000, 0x0F, 1, .u64, .ro, 1, 0, .immediate, false, none⟩
  | .FW_PROG_LEN => ⟨0xF000, 0x10, 1, .u32, .ro, 1, 0, .immediate, false, none⟩
  | .SV_STRAPS => ⟨0xF000, 0x11, 1, .u8, .ro, 0, 0, .immediate, false, none⟩
  | .SV_RESET => ⟨0xF000, 0x12, 1, .enum, .wo, 2, 0, .immediate, false, some ⟨1, 1, 1⟩⟩
  | .SU_AUTO_RESYNC => ⟨0xF000, 0x13, 1, .bool, .rw, 1, 1, .immediate, true, some ⟨0, 1, 1⟩⟩
  | .SU_LAST_RESET => ⟨0xF000, 0x14, 1, .enum, .ro, 0, 0, .immediate, false, none⟩
  | .LF_HOURS => ⟨0xF010, 0x01, 1, .u64, .ro, 0, 0, .immediate, true, none⟩
  | .LF_CYCLES => ⟨0xF010, 0x02, 1, .u32, .ro, 0, 0, .immediate, true, none⟩
  | .LF_EQUIV_H => ⟨0xF010, 0x03, 1, .u64, .ro, 0, 0, .immediate, true, none⟩
  | .LF_LIFE_USED => ⟨0xF010, 0x04, 1, .u16, .ro, 0, 0, .immediate, true, none⟩
  | .LF_TJ_MEAN => ⟨0xF010, 0x05, 1, .q 8 4, .ro, 0, 0, .immediate, true, none⟩
  | .LF_TJ_HIST => ⟨0xF010, 0x06, 1, .blob 64, .ro, 1, 0, .immediate, true, none⟩
  | .LF_WARM => ⟨0xF010, 0x07, 1, .u32, .ro, 0, 0, .immediate, true, none⟩
  | .iPHASE => .internal 1 8 0
  | .iWARM_CAUSE => .internal 1 8 0xFF
  | .iRUN_NS => .internal 1 64 0
  | .iSTARTUP => .internal 2 8 0
  | .iSTARTUP_OVER => .internal 2 8 0
  | .iRESYNC_DONE => .internal 1 8 0
  | .iTRIAL_NS => .internal 1 64 0
  | .iFACTORY => .internal 1 8 0
  | .iPEND_PLV_PORT => .internal 1 32 0x10000
  | .iPEND_ING_PORT => .internal 1 32 0x10000
  | .iPIP_FROZE_NS => .internal 1 64 0
  | .iMIN_MAX => .internal 1 16 32768
  | .iMIN_COUNT => .internal 1 64 0
  | .iEQUIV_MIN => .internal 1 64 0
  | .iTJ_SUM => .internal 1 128 0
  | .iHIST_MIN => .internal 16 64 0
  | .iG_COUNT => .internal 4 64 0
  | .iG_B3 => .internal 4 128 0
  | .iG_BLOCAL => .internal 4 128 0
  | .iG_PENDRATE => .internal 4 8 0xFF
  | .iG_RESYNC => .internal 4 8 0
  | .iS_SEEN => .internal 2 64 0
  | .iS_LINE => .internal 2 32 0
  | .iS_RAST => .internal 2 32 0
  | .iS_DISPATCHED => .internal 2 32 0
  | .iS_RELEASED => .internal 2 32 0
  | .iS_STAGE => .internal 2 8 0
  | .iS_TSTAGE => .internal 2 8 0
  | .iS_DEADLINE => .internal 2 64 0
  | .iS_DARK => .internal 2 8 0
  | .iS_LIGHT => .internal 2 8 0
  | .iS_DISABLE => .internal 2 8 0
  | .iS_ENABLE => .internal 2 8 0
  | .iS_OFF_NS => .internal 2 64 0
  | .iS_COMMITTED => .internal 2 8 0
  | .iS_COST => .internal 8 64 0
  | .iS_RESV => .internal 2 16 48
  | .iS_LOHI => .internal 8 8 0
  | .iS_GAIN_ON => .internal 2 8 0
  | .iCL_SELFTEST => .internal 16 32 0
  | .iCL_PASSED => .internal 16 32 0
  | .iCL_RELOAD => .internal 16 8 0xFF
  | .iSWAP_SLOT => .internal 1 8 0xFF
  | .iS_GENCHG => .internal 2 8 0
  | .iSWAP_OLD => .internal 1 8 0xFF
  | .iARR => .internal 21 32 0xFFFFFFFF
  | .iARR_CL => .internal 32 32 0xFFFFFFFF
  | .iARR_SEEN => .internal 37 8 0
  | .iFENCE_HOST => .internal 16 16 0
  | .iGC_FROZEN_JOB => .internal 8 8 0
  | .iGC_JOB => .internal 8 512 0
  | .iGC_TAG => .internal 8 16 0
  | .iSERVO => .internal 1 8 0
  | .iSYNC_STATE => .internal 1 8 0
  | .iMSIX_EN => .internal 1 8 0
  | .iMSIX_ADDR => .internal 2048 64 0
  | .iMSIX_DATA => .internal 2048 32 0
  | .iMSIX_MASK => .internal 2048 8 1
  | .iMSIX_PEND => .internal 2048 8 0
  | .iACC_STATUS => .internal 2 32 0
  | .iACC_ID => .internal 2 32 0
  | .iLATCH => .internal 2 524288 0
  | .iWIN_ENABLE => .internal 64 8 1
  | .iWIN_SPACE => .internal 64 8 0
  | .iWIN_ID_LO => .internal 64 8 0
  | .iWIN_ID_HI => .internal 64 8 255
  | .iWIN_BASE => .internal 64 64 0
  | .iWIN_LIMIT => .internal 64 64 51539607551
  | .iWIN_PERM => .internal 64 8 3
  | .iSWEEP => .internal 64 32 0
  | .iHOT_SINCE => .internal 2 64 0
  | .iREF_BANK => .internal 64 8 0
  | .iNRR_STEP => .internal 32 64 0
  | .iREF_COUNT => .internal 64 64 0
  | .iRT_BASE => .internal 1 64 0
  | .iRT_PERIOD => .internal 32 64 0
  | .iRT_LEFT => .internal 32 8 0
  | .iRT_SINCE => .internal 32 64 0
  | .iRT_LAST => .internal 32 64 0
  | .iRT_NOEYE => .internal 32 8 0
  | .iRT_RW => .internal 32 8 255
  | .iRT_RH => .internal 32 16 65535
  | .iRT_WW => .internal 32 8 255
  | .iRT_WH => .internal 32 16 65535
  | .iRT_DRAIN => .internal 1 8 0
  | .iRT_SET => .internal 128 16 0
  | .iRT_SET0 => .internal 128 16 0
  | .iLAP_START => .internal 4 64 0
  | .iLAP_OPEN => .internal 4 8 0
  | .iLAP_BROKEN => .internal 4 8 0
  | .iLAP_SLOW => .internal 4 8 0
  | .iRING_TESTS => .internal 2 16 0
  | .iCACHE_INVALID => .internal 16 64 0
  | .iBK_FRAME => .internal 3072 32 0
  | .iBK_MAXB => .internal 3072 16 0
  | .iBUF_SEAL => .internal 1024 8 0
  | .iBK_CONC => .internal 3072 32 0
  | .iBK_INDEX => .internal 3072 64 0
  | .iBK_BASE => .internal 3072 64 0
  | .iBK_CUE => .internal 3072 8 0
  | .iTY => .internal 2048 32 0
  | .iCMT_NEXT => .internal 1 32 1
  | .iCG_SEQ => .internal 16 64 0
  | .iCG_NEXT => .internal 1 64 1
  | .iPB_S => .internal 2 64 0
  | .iPB_CUE => .internal 2 16 0
  | .iPB_FIRST => .internal 2 32 0
  | .iPB_ENDMODE => .internal 2 8 0
  | .iSEQ_HIGH => .internal 256 40 0
  | .iSS_KEY => .internal 1024 256 0
  | .iSS_KEYED => .internal 1024 8 0
  | .iWL_MAPRESET => .internal 2 8 0
  | .iPB_START => .internal 2 64 0
  | .iG_RUN => .internal 1 8 0
  | .iCAL_W => .internal 64 16 0
  | .iCAL_H => .internal 64 16 0
  | .iWL_CTX => .internal 168 8 0
  | .iWL_PH => .internal 168 8 0
  | .iWL_SINCE => .internal 168 64 0
  | .iWL_PRES => .internal 168 8 0
  | .iWL_ABS => .internal 168 8 0
  | .iWL_FAILS => .internal 168 8 0
  | .iWL_NEG => .internal 168 8 0
  | .iWL_CFG => .internal 168 16 0
  | .iWL_CFGACK => .internal 168 8 0
  | .iWL_REQN => .internal 168 8 0
  | .iWL_EQACK => .internal 168 8 0
  | .iWL_EQREJ => .internal 168 8 0
  | .iWL_BIT => .internal 168 8 0
  | .iWL_BLK => .internal 168 8 0
  | .iWL_COVER => .internal 168 8 0xFF
  | .iWL_FORMER => .internal 168 8 0xFF
  | .iWL_PRBSAT => .internal 168 64 0
  | .iWL_PRBSRUN => .internal 168 8 0
  | .iWL_PRBSREG => .internal 168 32 0
  | .iWL_TS => .internal 168 8 0
  | .iWL_TSAT => .internal 168 64 0
  | .iWL_PULSE => .internal 168 64 0
  | .iWR_DESC => .internal 4 64 0
  | .iWR_RUN => .internal 4 8 0
  | .iWR_HIST => .internal 4 64 0
  | .iWR_PRBSAT => .internal 4 64 0
  | .iWL_BUSY => .internal 2 8 0xFF
  | .iWL_CAPS => .internal 2 8 0
  | .iWL_CAPSSEQ => .internal 2 16 0
  | .iWL_MSEQ => .internal 2 8 0
  | .iWL_LOSTAT => .internal 2 64 0
  | .iWL_SENSAT => .internal 2 64 0
  | .iWL_SENSN => .internal 2 8 0
  | .iWL_IDLEORD => .internal 2 8 0
  | .iWL_IDLED => .internal 2 64 0
  | .iWL_CFGAT => .internal 2 64 0
  | .iGC_DONE => .internal 8 32 0
  | .iGC_OUT => .internal 8 64 0
  | .iGC_BUF => .internal 8 64 0
  | .iGC_OFF => .internal 8 32 0
  | .iGC_NI => .internal 8 32 0
  | .iGC_NR => .internal 8 32 0
  | .iGC_NW => .internal 8 32 0
  | .iTRI => .internal 48 64 0
  | .iPWR_FAIL => .internal 1 8 0
  | .iKEEP_TRY => .internal 1 64 0
  | .iLC_POS => .internal 64 32 0
  | .iLC_BURST => .internal 64 32 0
  | .iLC_NEXT => .internal 64 64 0
  | .iLC_EVENT => .internal 64 8 0
  | .iLC_HALF => .internal 64 8 0
  | .iLC_NODESC => .internal 64 8 0
  | .iLC_PAGE => .internal 64 8 0
  | .iLC_WDRAW => .internal 64 8 0
  | .iLC_ABANDON => .internal 64 8 0
  | .iLS_CAUSE => .internal 1 8 0
  | .iLS_LACE => .internal 1 8 0xFF
  | .iLS_ADDR => .internal 1 64 0
  | .iEYE_FRAME => .internal 8 72 0
  | .iEYE_K => .internal 8 64 0
  | .iEYE_ON => .internal 8 8 0
  | .iEYE_END => .internal 8 128 0
  | .iEYE_LAST => .internal 8 8 0
  | .iCAP_AT => .internal 8 96 0
  | .iCAP_STEPPED => .internal 8 8 0
  | .iCAP_FULL => .internal 8 8 0
  | .iPTP_RUN => .internal 1 8 0
  | .iPTP_FIRST => .internal 1 8 0
  | .iPTP_DIFF => .internal 1 128 0
  | .iPTP_T3 => .internal 1 128 0
  | .iPTP_SEQ => .internal 1 16 0
  | .iPTP_WAIT => .internal 1 8 0
  | .iPTP_EVERY => .internal 1 8 0
  | .iPTP_SENT => .internal 1 64 0
  | .iPTP_SOURCE => .internal 1 128 0
  | .iPP_T1 => .internal 2 128 0
  | .iPP_SEQ => .internal 2 16 0
  | .iPP_SENT => .internal 2 64 0
  | .iSYNC_RUN => .internal 1 8 0
  | .iSYNC_FIRST => .internal 1 8 1
  | .iETH_FEC => .internal 8 8 0
  | .iSYNC_AT => .internal 1 64 0
  | .iF2_BM => .internal 1 8 0
  | .iSK_FROZEN_JOB => .internal 4 8 0
  | .iSK_JOB => .internal 4 1024 0
  | .iSK_TAG => .internal 4 16 0
  | .iSK_DONE => .internal 4 32 0
  | .iCMP_SHUT => .internal 1 16 1840
  | .iCMP_RESTART => .internal 1 16 1520
  | .iCK_SINCE => .internal 7 64 0
  | .iCK_START => .internal 7 64 0
  | .iCK_OUT => .internal 7 64 0
  | .iCK_FAILS => .internal 7 8 0
  | .iCK_WHY => .internal 7 8 0
  | .iCK_SEED => .internal 7 16 0
  | .iCK_N => .internal 7 16 512
  | .iSSC_RAMP => .internal 2 8 0
  | .iSSC_AT => .internal 2 64 0
  | .iSSC_WAIT => .internal 2 8 0
  | .iCK_WIN => .internal 1 64 0
  | .iHB_HELD => .internal 1 32 0
  | .iTS_MEAS => .internal 4 512 0
  | .iTS_GOOD => .internal 4 8 0
  | .iTS_BAD => .internal 4 8 0
  | .iTHR => .internal 7 8 0
  | .iTHR_RUN => .internal 7 16 0
  | .iTH_TIMER => .internal 1 64 0
  | .iCMP_RUN => .internal 24 8 0
  | .iCMP_TRIP => .internal 1 8 0
  | .iCMP_PEAK => .internal 1 16 0
  | .iCMP_COOL => .internal 1 32 0
  | .iSHUT_OWED => .internal 1 8 0
  | .iINS_OLD => .internal 1 192 0
  | .iINS_NEW => .internal 1 192 0
  | .iINS_N => .internal 1 8 0
  | .iINS_WAVE => .internal 1 2048 0
  | .iINS_VHV => .internal 1 16 6144
  | .iINS_PASSES => .internal 1 8 0
  | .iINS_NEXT => .internal 1 8 0
  | .iINS_STOP => .internal 1 8 0
  | .iINS_ELEC => .internal 1 8 0
  | .iSM_KIND => .internal 8 8 0
  | .iSM_RUN => .internal 8 16 0
  | .iRUN_AT => .internal 1 64 0
  | .iBOOT_IMAGE => .internal 1 8 0
  | .iBOOT_TRIAL => .internal 1 8 0
  | .iNOR_VALID => .internal 2 8 0
  | .iNOR_VERSION => .internal 2 32 0
  | .iNOR_PLEN => .internal 2 32 0
  | .iFW_TARGET => .internal 1 8 0
  | .iSTR_WAIT => .internal 256 8 0
  | .iSS_SEQ => .internal 1024 32 0
  | .iSS_SEEN => .internal 1024 64 0
  | .iSS_NOTIFY => .internal 1024 32 0
  | .iSS_FROM => .internal 1024 8 0
  | .iSS_MAC => .internal 1024 48 0
  | .iPLV_CUR => .internal 1 16 0
  | .iPLV_CLOSE => .internal 1 8 0xFF
  | .iPLV_RESET => .internal 1 8 0

/-- Part 0 of the dictionary parameters, in the order of their IDs. -/
def dictRegs0 : List Reg :=
  [.ID_VENDOR, .ID_DEVICE, .ID_GRADE, .ID_STEPPING, .ID_SERIAL, .PLV_PORT, .PLV_TIMEOUT, .PLV_ANON_OBSERVER, .PLV_KEY_SET, .PLV_KEY_LIST, .PLV_SESSIONS, .PLV_STREAMS, .PLV_BAD_MSG, .PLV_BAD_AUTH, .PLV_BAD_SEQ, .EV_ROUTE, .EV_LOG, .EV_COUNT, .OD_PARAMS, .OD_KEEP_PENDING, .OD_FACTORY, .PCI_F0_ROLE, .PCI_F3_ROLE, .PCI_LINK, .SS_STATE, .SS_ROLE, .SS_KIND, .SS_KEY_ID, .SS_PEER, .SS_SLOT, .SS_IDLE, .SS_CLOSE, .SURF_WIDTH, .SURF_HEIGHT, .PITCH_X, .PITCH_Y, .ORIGIN_X, .ORIGIN_Y, .ORIGIN_Z, .SURF_MODE, .V_COUNT, .BG_R, .BG_G, .BG_B, .PL_ENABLE, .PL_KIND, .PL_BUFFER, .PL_TEX_W, .PL_TEX_H, .PL_P0_X, .PL_P0_Y, .PL_P0_Z, .PL_EU_X, .PL_EU_Y, .PL_EU_Z, .PL_EV_X, .PL_EV_Y, .PL_EV_Z, .PL_ALPHA, .PL_EDGE_U, .PL_EDGE_V, .PL_IN_LUT, .PL_OPACITY, .VS_COUNT]

/-- Part 1 of the dictionary parameters, in the order of their IDs. -/
def dictRegs1 : List Reg :=
  [.VS_CAMERA, .VS_PIX_W, .VS_PIX_H, .VS_WIN_X, .VS_WIN_Y, .VS_WIN_Z, .VS_WIN_W, .VS_WIN_H, .VS_RAIL_Z, .VS_IN_LUT, .VS_TABLE, .DR_BUFFER, .DR_V_COUNT, .DR_IN_LUT, .BUF_KIND, .BUF_FORMAT, .BUF_STORE, .BUF_WIDTH, .BUF_HEIGHT, .BUF_BASE, .BUF_BANK_SIZE, .BUF_SOURCE, .BUF_CONCEAL, .BUF_SWAP, .BUF_CTRL, .BUF_BANKS, .BUF_FRAMES, .BUF_MAXB, .BUF_CONCEALED, .BUF_SUPERSEDED, .ING_PORT, .ING_UNKNOWN, .STR_STATE, .STR_SESSION, .STR_TRANSPORT, .STR_AUTH, .STR_GROUP_V4, .STR_GROUP_V6, .STR_RING_BASE, .STR_RING_SIZE, .STR_RING_TAIL, .STR_RING_HEAD, .STR_PACKETS, .STR_DISCARDS, .STR_TILES_LOST, .STR_QUEUE, .CMT_DARK_OK, .CMT_IN_FORCE, .CMT_ACCEPTED, .CMT_REFUSED, .CMT_DEFERRED, .CMT_LATE, .CMT_DARK_LEFT, .CMT_CONCEALED, .CMT_QUEUE, .CG_CTRL, .CG_STATE, .CG_OWNER, .CG_SURFACES, .CG_BUFFERS, .CG_AT, .CG_DARK_OK, .CG_TRIGGER, .CG_ID]

/-- Part 2 of the dictionary parameters, in the order of their IDs. -/
def dictRegs2 : List Reg :=
  [.CG_RESULT, .PB_CUE, .PB_START, .PB_FIRST, .PB_END, .PB_CTRL, .PB_STATE, .PB_FRAME, .PB_REFUSED, .CUE_STATE, .CUE_BASE, .CUE_SIZE, .CUE_CRC, .CUE_LOAD, .CUE_BIND, .CUE_TAG, .HZ_ACTIVE, .HZ_CLUSTER_EN, .HZ_ARRAY_CLOCK, .HZ_SHARE_A, .HZ_BYTES_NS, .HZ_ENGINES_FENCED, .HZ_LATE_TILES, .HZ_PROG_TARGET, .HZ_SWAP_STATE, .HZ_SWAP_CLUSTER, .HZ_SHORT, .SYN_ET_T, .SYN_DITHER, .SYN_DIR_CLAMPS, .SYN_CAL_POISON, .ADM_LAST_RESULT, .ADM_LAST_REASON, .ADM_LAST_COMMIT, .ADM_COST_OPS, .ADM_COST_SAMP, .ADM_COST_DEC, .ADM_COST_BYTES, .ADM_BUDGET_OPS, .ADM_BUDGET_SAMP, .ADM_BUDGET_DEC, .ADM_BUDGET_BYTES, .ADM_WORST_BAND, .ADM_RESERVATION, .ADM_REACH, .ADM_STAGE_MIN, .UR_LINES_TOTAL, .PG_STATE, .PG_VERSION, .PG_ADDR, .PG_LENGTH, .PG_LOAD, .PG_K, .CL_STATE, .CL_FENCED, .CL_FENCE_REQ, .CL_FENCE, .CL_FAULT_MASK, .CL_FAULT_CLEAR, .CL_PROG_SLOT, .CL_LAST_FAULT, .CL_TILES, .HK_INGEST_DEC, .HK_TAP_ENC]

/-- Part 3 of the dictionary parameters, in the order of their IDs. -/
def dictRegs3 : List Reg :=
  [.HK_VERSION, .HK_CD_TILES, .HK_CD_REJECTED, .HK_CD_BY_CODE, .HK_INGEST_REJECTED, .GC_ENABLE, .GC_DRAIN, .GC_RING_BASE, .GC_RING_SIZE, .GC_TAIL, .GC_HEAD, .GC_STATE, .GC_JOBS_OK, .GC_JOBS_FAILED, .GC_ABANDONED, .GC_LAST_STATUS, .GC_QUEUE, .CD_TILES, .CD_REF_TILES, .CD_REJECTED, .CD_LAST_CODE, .CD_LAST_BUFFER, .CD_LAST_TILE, .LC_ENABLE, .LC_DRAIN, .LC_STATE, .LC_SH_DESC, .LC_SH_STATE, .LC_ARM, .LC_CTRL, .LC_CUR_DESC, .LC_CUR_ADDR, .LC_DONE, .LC_RESULT, .LC_MISMATCH, .LC_PRIO, .LC_QUEUE, .LC_BYTES, .LC_WITHDRAWN, .LC_REQ_MISSED, .LS_BUS_STATE, .LS_BUS_CLEAR, .LS_BUS_CAUSE, .LS_BUS_LACE, .LS_BUS_ADDR, .LS_BUS_ERRORS, .SK_ENABLE, .SK_DRAIN, .SK_RING_BASE, .SK_RING_SIZE, .SK_TAIL, .SK_HEAD, .SK_STATE, .SK_JOBS_OK, .SK_JOBS_FAILED, .SK_ABANDONED, .SK_LAST_STATUS, .SK_BYTES, .SK_QUEUE, .LAST_RATE, .LAST_PHASE, .LAST_TOL, .LAST_FRAME, .LAST_NEXT]

/-- Part 4 of the dictionary parameters, in the order of their IDs. -/
def dictRegs4 : List Reg :=
  [.LAST_RESYNC, .LAST_SLIPS, .LAST_USERS, .FR_LAST, .FR_DIGEST, .FR_FRAME, .FR_FLAGS, .FR_HISTORY, .FR_GUARANTEED, .SO_ENABLE, .SO_DRAIN, .SO_LAST_GEN, .SO_FILL, .SO_BLANK, .SO_OUT_STATE, .SO_FORCED, .SO_BAND_NS, .SO_LINE_PS, .TAP_ENABLE, .TAP_H, .TAP_V, .TAP_EVERY, .TAP_BASE, .TAP_SLOTS, .TAP_HEAD, .TAP_TAIL, .TAP_REF_DIST, .TAP_K0, .TAP_XFORM, .TAP_QUEUE, .TAP_FRAMES, .TAP_SKIPPED, .TAP_DROPS, .TAP_STATE, .WL_STATE, .WL_SSC, .WL_EQ_MODE, .WL_PRESET, .WL_BLANK_IDLE, .WL_AUTO_SPARE, .WL_SPARE_THRESH, .WL_FREE_SPARES, .WL_UNCARRIED, .WL_SPARE_MAP, .WL_MAP_RESET, .WL_PANEL_CAPS, .WL_PANEL_SENSORS, .WL_CAL_FETCH, .WL_CAL_RESULT, .WL_MSG_ERRORS, .WL_SPARE_NOACK, .WL_QUEUE, .WL_LANE_STATE, .WL_LOGICAL, .WL_COEFF, .WL_EYE_W, .WL_EYE_H, .WL_CRC_FAILS, .WL_BLOCK_ERRS, .WL_RETRAINS, .WL_FW_FAILS, .WL_PRBS_MODE, .WL_PRBS_ERR, .WL_CTRL]

/-- Part 5 of the dictionary parameters, in the order of their IDs. -/
def dictRegs5 : List Reg :=
  [.WL_CAUSE, .WR_STATE, .WR_EYE_W, .WR_EYE_H, .WR_BLOCK_ERRS, .WR_MESSAGES, .WR_PRBS_MODE, .WR_PRBS_ERR, .WR_PRBS_BITS, .MS_SIZE, .MS_INIT_STATE, .MS_INIT_MIN, .MS_CORRECTED, .MS_POISONED, .MS_POISON_READS, .MS_RMW, .MS_RMW_POISON, .MS_WB_DROPPED, .MS_HOT, .MS_NRR_SHIFT, .MS_NRR_COUNT, .MS_RETRAIN_EN, .MS_RETRAIN_DRAIN, .MS_QUEUE, .MS_FROZEN_CORE, .MS_FROZEN_INGEST, .MS_RELEASE, .MS_FREEZE_LOG, .MS_FREEZES, .WIN_APPLY, .WIN_STATUS, .CH_MODE, .CH_WM_HIGH, .CH_WM_LOW, .CH_TEMP, .CH_REFRESH, .CH_INIT_PTR, .CH_RD_EYE_W, .CH_RD_EYE_H, .CH_WR_EYE_W, .CH_WR_EYE_H, .CH_RETRAIN_NOW, .CH_RETRAINS, .CH_DEFERRALS, .CH_CORRECTED, .CH_UNCORRECTABLE, .CH_UTIL, .QP_TARGET, .QP_MAX_WAIT, .QP_OVER, .QP_BYTES, .SC_ENABLE, .SC_DRAIN, .SC_RATE, .SC_LAP_LAST, .SC_LAP_LIMIT, .SC_CORRECTED, .SC_UNCORRECTABLE, .SC_POSITION, .SC_STATE, .PN_LOG, .PN_LOST, .PN_CLEAR, .WIN_ENABLE]

/-- Part 6 of the dictionary parameters, in the order of their IDs. -/
def dictRegs6 : List Reg :=
  [.WIN_SPACE, .WIN_ID_LO, .WIN_ID_HI, .WIN_BASE, .WIN_LIMIT, .WIN_PERM, .WIN_PENDING, .ETH_MODE, .ETH_FEC, .ETH_AN, .ETH_LINK, .ETH_DEF_PCP, .ETH_RX_FRAMES, .ETH_TX_FRAMES, .ETH_FCS_ERR, .ETH_FEC_CORR, .ETH_FEC_UNCORR, .ETH_CUT, .ETH_STORED, .ETH_STOMPED, .ETH_FWD_DROPS, .ETH_OVERSIZE, .ETH_QUEUE, .NET_MAC, .NET_IP4, .NET_IP4_PREFIX, .NET_IP4_GW, .NET_IP6, .NET_IP6_PREFIX, .NET_VID, .NET_PCP_CTRL, .NET_PCP_PTP, .NET_UNCLAIMED, .RQ_KIND, .RQ_VALUE, .RQ_PORTS, .RQ_LEVEL, .RQ_FRAMES, .RQ_DROPS, .PTP_ENABLE, .PTP_PROFILE, .PTP_DOMAIN, .PTP_TRANSPORT, .PTP_DELAY_MECH, .PTP_TC_EN, .PTP_STATE, .PTP_OFFSET, .PTP_MEAN_DELAY, .PTP_GM_ID, .PTP_SLAVE_PORT, .PTP_STEP_LIMIT, .PTP_LOCK_THRESH, .PTP_SLEW_MAX, .PTP_KP, .PTP_KI, .PTP_ANN_TIMEOUT, .PTP_UTC_OFFSET, .PTP_SMPTE, .PTP_QUEUE, .PP_ENABLE, .PP_STATE, .PP_ASYM, .PP_PEER_DELAY, .PP_RESIDENCE_MAX]

/-- Part 7 of the dictionary parameters, in the order of their IDs. -/
def dictRegs7 : List Reg :=
  [.TB_SOURCE, .TB_NOW, .TB_RATE, .TB_SET, .TB_ADJ, .TB_STEPS, .TB_SYNC_LOAD, .TB_SYNC_TIME, .TB_SYNC_REJECT, .EYE_MODE, .EYE_START, .EYE_PERIOD, .EYE_WIDTH, .EYE_COUNT, .EYE_GEN, .EYE_EVERY, .EYE_OFFSET, .EYE_POL, .EYE_LATE, .EYE_CTRL, .EYE_STATE, .EYE_EDGES, .EYE_LATE_COUNT, .EYE_QUEUE, .CAP_EDGE, .CAP_FILTER, .CAP_HOLDOFF, .CAP_READ, .CAP_COUNT, .CAP_IGNORED, .CAP_OVERFLOW, .CAP_QUEUE, .CK_STATE, .CK_FREQ, .CK_CEILING, .CK_MARGIN, .CK_SSC, .CK_LOCK_N, .CK_LOCK_WIN, .CK_BYPASS, .CK_BAND, .CK_BAND_TABLE, .CK_RELOCK, .CK_LOCK_TIME, .CK_UNLOCKS, .CK_PHASE_ERR, .CK_BYPASS_NS, .CK_REF_STATE, .CK_THROTTLE_REQ, .CK_SYNC_MASK, .CK_SYNC_ARM, .CK_SYNC_SKIPPED, .CK_SYNC_COUNT, .CK_BACKUP_PERIOD, .PW_CEILING, .PW_BASE, .PW_FREE, .PW_GRANTED, .PW_WAIT_HIGH, .PW_WAIT_NORMAL, .PW_BLOCKED, .PW_GRANTS, .PW_MAX_WAIT, .PW_MEASURED]

/-- Part 8 of the dictionary parameters, in the order of their IDs. -/
def dictRegs8 : List Reg :=
  [.PW_TOTAL, .TH_JUNCTION, .TH_WARN, .TH_HBM_WARN, .TH_GRACE, .TH_STAGE_MAX, .TH_STAGE_DUE, .TH_STATE, .TH_SHUT, .TH_RESTART, .TH_SHUTDOWNS, .TH_LAST_PEAK, .TH_KEEPER_GATE, .TH_GLASS_DIODE, .TH_GLASS_GATE, .TP_SOURCE, .TP_DIODES, .TP_SENSORS, .TP_FIXED, .TP_TEMP, .TP_STALE, .TP_WARN, .TS_TEMP, .TS_VALID, .TS_MAX, .TS_IDEALITY, .TS_SERIES, .TS_FAULTS, .KP_PROTECT, .KP_BUSY, .KP_WRITES, .KP_REFUSED, .KP_POOL_FREE, .KP_RETIRED, .KP_WEAR_MAX, .KP_WEAR_MEAN, .KP_REC_LOST, .KP_TWINS, .KP_REPAIRS, .KP_TRI_REPAIRS, .KP_TRI_NOVOTE, .KP_TRIWORDS, .KP_BAD_LOG, .INS_ENABLE, .INS_DRAIN, .INS_IMAGE, .INS_SHOWN, .INS_KNOWN, .INS_STATE, .INS_VHV, .INS_BAND, .INS_FRAME, .INS_UPDATES, .INS_DISCHARGES, .INS_WAVE_N, .INS_WAVE, .SM_ENABLE, .SM_POLICY, .SM_LATCH, .SM_THRESH, .SM_DEBOUNCE, .SM_STATE, .SM_OHMS, .SM_LATCHED]

/-- Part 9 of the dictionary parameters, in the order of their IDs. -/
def dictRegs9 : List Reg :=
  [.SM_CLEAR, .SM_OPENS, .CAL_STATE, .CAL_T0, .CAL_T1, .CAL_T2, .CAL_SOURCE, .CAL_BASE, .CAL_CRC, .CAL_LOAD, .CAL_WIDTH, .CAL_HEIGHT, .CAL_RESIDUAL, .CAL_TAG, .CAL_RAYMAP_SEL, .CAL_GAIN_SEL, .CAL_GAIN_BYPASS, .CAL_PANEL_SLOT, .OUT_LUT_SEL, .IN_LUT_DATA, .IN_LUT_CRC, .OUT_LUT_DATA, .OUT_LUT_CRC, .NQ_MODE, .NQ_COUNT, .NQ_READ, .NQ_COAL_COUNT, .NQ_COAL_NS, .NQ_MSIX, .NQ_IRQ, .NQ_LOST, .NQ_SEQ, .NQ_SUBS, .FW_STATE, .FW_RUNNING, .FW_VERSION, .FW_IMAGES, .FW_SELECTOR, .FW_SRC, .FW_SRC_SPACE, .FW_LENGTH, .FW_PROGRAM, .FW_PROG_STATE, .FW_SWITCH, .FW_TRIAL_TIMEOUT, .FW_RESTARTS, .WD_TIMEOUT, .FW_PROG_ADDR, .FW_PROG_LEN, .SV_STRAPS, .SV_RESET, .SU_AUTO_RESYNC, .SU_LAST_RESET, .LF_HOURS, .LF_CYCLES, .LF_EQUIV_H, .LF_LIFE_USED, .LF_TJ_MEAN, .LF_TJ_HIST, .LF_WARM]

/-- Every dictionary parameter, in the order of the IDs. -/
def dictRegs : List Reg :=
  dictRegs0 ++ dictRegs1 ++ dictRegs2 ++ dictRegs3 ++ dictRegs4 ++ dictRegs5 ++ dictRegs6 ++ dictRegs7 ++ dictRegs8 ++ dictRegs9

/-- Bits [47:0] of the default MAC addresses, the serial number and the other values the manual calls
"per part", "per firmware", "per image" and "per board" come from Config. The reset value of instance
`i` of a register, where the dictionary gives one per instance or one in words. -/
def regDefault (r : Reg) (i : Nat) : Nat :=
  match r with
  | .ID_GRADE => Config.idGrade
  | .ID_SERIAL => Config.idSerial
  | .NET_MAC => Config.netMac i
  | .FW_VERSION => Config.factoryImageVersion
  | .OD_PARAMS => dictParams
  | .ORIGIN_X => if i = 1 then 1250 * 256 else (regRow r).dflt
  | .LAST_USERS => if i = 0 then 1 else if i = 1 then 2 else 0
  | .SO_LAST_GEN => i
  | .iNOR_VALID => if i = 0 then 1 else 0
  | .iNOR_VERSION => if i = 0 then Config.factoryImageVersion else 0
  | .iNOR_PLEN | .FW_PROG_LEN => if i = 0 then Config.factoryProgramLength else 0
  | .PG_STATE => if i = 0 then 2 else 0
  | .SC_RATE => if i = 1 then 1 else 32
  | .SC_LAP_LIMIT =>
    (if i = 1 then 10 else if i = 2 then 1 else if i = 3 then 600 else 3600) * 1000000000
  | .WIN_ENABLE | .iWIN_ENABLE => if i < 2 then 1 else 0
  | .WIN_SPACE | .iWIN_SPACE => if i = 1 then 1 else 0
  | .TP_DIODES => if i = 1 then 12 else 3
  | .INS_WAVE_N => 64 - 2 * i
  | .iTRI => triFactory (i % 16)
  | .WL_SPARE_MAP => identityMap
  | .QP_TARGET => targets.getD i 0
  | .PTP_DOMAIN => 127
  | .CK_FREQ => nominal.getD i 0
  | .CK_CEILING => ceilings.getD i 0
  | .INS_WAVE => waves (64 - 2 * i)
  | .SV_STRAPS => 4
  | .TS_MAX => 0x8000
  -- R117 on the defaults of R115, R116 and R136: 256 engines, 16 clusters, share 128, 1,400 bytes/ns, 60 Hz
  | .ADM_BUDGET_OPS => 197861376
  | .ADM_BUDGET_SAMP => 18549504
  | .ADM_BUDGET_DEC => 6183168
  | .ADM_BUDGET_BYTES => 10567200
  | .TS_VALID => if i < 24 then 1 else 0
  | _ => (regRow r).dflt
where
  /-- The tri-words of a device as manufactured (R459): the identity words, and the defaults of the
  parameters that are tri-words; the boot selector of R487 at its reset values. -/
  triFactory : Nat → Nat
    | 0 => (regRow .ID_VENDOR).dflt | 1 => (regRow .ID_DEVICE).dflt | 2 => Config.idGrade
    | 3 => (regRow .ID_STEPPING).dflt | 4 => Config.idSerial | 5 => Config.netMac 0 | 6 => 0xFF00
    | 7 => (regRow .PW_CEILING).dflt | 8 => (regRow .TH_SHUT).dflt | 9 => (regRow .TH_RESTART).dflt
    | _ => 0
  /-- Logical lane p on physical lane p (R236). -/
  identityMap : Nat := (List.range 84).foldl (fun m p => m + p * 2 ^ (8 * p)) 0
  /-- The latency targets of the ports, in ns (R285). -/
  targets : List Nat := [500, 1000, 1000, 2000, 2000, 2000, 4000, 5000, 8000, 20000, 50000, 100000]
  /-- The nominal first outputs of the PLLs, in kHz (R409). -/
  nominal : List Nat := [1600000, 1200000, 1000000, 16000000, 16000000, 390625, 800000]
  /-- Their ceilings (R409, R419). -/
  ceilings : List Nat := [1608000, 1206000, 1005000, 16080000, 16080000, 392578, 804000]
  /-- The factory waveform of a band with `n` frames (R467): frames 0 to n − 9 drive the codes of
  the four transitions. -/
  waves (n : Nat) : Nat := ((List.range 256).map (fun k =>
    if k % 64 + 9 ≤ n then [0, 4, 2, 4].getD (k / 64) 0 * 2 ^ (8 * k) else 0)).sum
  /-- Parameters of the dictionary, every instance that exists counted (R404, R433). -/
  dictParams : Nat := dictRegs.foldl (fun n r =>
    n + (regRow r).count - (if (regRow r).index = 0x7040 then 6 else 0)) 0

/-- Whether instance `i` of the register exists: the sensor numbers 26 to 31 of index 0x7040 are
not assigned (R433). -/
def regExists (r : Reg) (i : Nat) : Bool :=
  decide (i < (regRow r).count) && !((regRow r).index == 0x7040 && decide (26 ≤ i) && decide (i < 32))

/-- The register and instance at an index and subindex, if there is one (R378). -/
def lookupReg (index sub : Nat) : Option (Reg × Nat) :=
  go dictRegs
where
  go : List Reg → Option (Reg × Nat)
    | [] => none
    | r :: rs =>
      if (regRow r).sub = sub ∧ (regRow r).index ≤ index ∧ regExists r (index - (regRow r).index) then
        some (r, index - (regRow r).index)
      else go rs

/-- Highest subindex present at an index; `none` where the index does not exist. -/
def highestSub (index : Nat) : Option Nat :=
  dictRegs.foldl (fun m r =>
    if (regRow r).index ≤ index ∧ regExists r (index - (regRow r).index) then
      some (max ((regRow r).sub) (m.getD 0)) else m) none

/-- Width in bits of a register's value. -/
def Reg.width (r : Reg) : Nat := (regRow r).ty.width

/-- The ID of instance `i` as the manual packs it: the index in [23:8], the subindex in [7:0]
(R387). -/
def Reg.id (r : Reg) (i : Nat) : Nat := ((regRow r).index + i) * 256 + (regRow r).sub

end Sys2Proof.Machine
end

