-- ==== Sys2Proof/Machine/Sparse.lean ====
section
/-! DEFINITION. Sparse data: the form of every memory and register file of the model. A map is a
list of (key, value) pairs in one canonical form: keys strictly rising, and no entry equal to what
an unlisted key reads as. `d` is what an unlisted key reads as. -/
namespace Sys2Proof.Machine
namespace Sparse

variable {α : Type}

/-- The value at key `k`. -/
def get (d : Nat → α) : List (Nat × α) → Nat → α
  | [], k => d k
  | (k', v) :: m, k => if k' = k then v else get d m k

/-- The map without an entry for `k`. -/
def erase : List (Nat × α) → Nat → List (Nat × α)
  | [], _ => []
  | (k', v) :: m, k => if k' = k then erase m k else (k', v) :: erase m k

/-- The map with the entry (k, v) in its sorted place. -/
def insert : List (Nat × α) → Nat → α → List (Nat × α)
  | [], k, v => [(k, v)]
  | (k', v') :: m, k, v => if k < k' then (k, v) :: (k', v') :: m else (k', v') :: insert m k v

/-- The map that reads `v` at `k` and is otherwise the same; writing what an unlisted key reads as
removes the entry. -/
def set [DecidableEq α] (d : Nat → α) (m : List (Nat × α)) (k : Nat) (v : α) : List (Nat × α) :=
  if v = d k then erase m k else insert (erase m k) k v

/-- Keys strictly rising and every key at least `lo`. -/
def sortedFrom : Nat → List (Nat × α) → Bool
  | _, [] => true
  | lo, (k, _) :: m => decide (lo ≤ k) && sortedFrom (k + 1) m

/-- No entry equals what an unlisted key reads as. -/
def noDefaults [DecidableEq α] (d : Nat → α) (m : List (Nat × α)) : Bool :=
  m.all (fun e => decide (e.2 ≠ d e.1))

/-- The canonical form. -/
def wf [DecidableEq α] (d : Nat → α) (m : List (Nat × α)) : Bool :=
  sortedFrom 0 m && noDefaults d m

end Sparse
end Sys2Proof.Machine
end

