-- ==== Sys2Proof/Machine/State.lean ====
section
/-! DEFINITION. The state of Flaed as plain data, the reasons a step can stop, and the state right
after reset. Every dictionary parameter and every internal register lives in `regs` under its own
name (Reg.lean, Dictionary.lean); queues, memories and work in progress have fields of their own. -/
namespace Sys2Proof.Machine

/-- Why the block could stop. The manual names no condition in which Flaed as a whole stops taking
commands, so there is no constructor: nothing raises a fault. -/
inductive Fault where
  deriving DecidableEq, Repr

/-- Why a command has no meaning. -/
inductive Refusal where
  /-- Raised by an arm of the dispatch whose command has no meaning yet; safe (no claim is made). -/
  | notModelled (mnemonic : String)
  deriving DecidableEq, Repr

/-- One notification entry (R400). `posted` is the local time of posting, from which NQ_COAL_NS is
counted (R402). -/
structure Entry where
  time : Nat
  seq : Nat
  code : Nat
  holdover : Bool
  lost : Bool
  arg : Nat
  posted : Nat
  deriving DecidableEq, Repr

/-- What one notification queue holds beside its registers: its entries, oldest first, how many of
the newest are unsignalled, whether an entry was dropped since the last one held, and the subscribed
sessions (R399, R402). -/
structure NQueue where
  entries : List Entry
  unsignalled : Nat
  dropped : Bool
  subscribers : List Nat
  deriving DecidableEq, Repr

/-- An empty queue. -/
def NQueue.empty : NQueue := ⟨[], 0, false, []⟩

/-- A corrected or poison write-back waiting to be issued (R277, R298, R299): the code word, whether
it writes the poison mark, whether a write to the word was accepted after the read, and whether the
scrubber found it. -/
structure WriteBack where
  word : Nat
  poison : Bool
  superseded : Bool
  byScrubber : Bool
  deriving DecidableEq, Repr

/-- A LUT write not yet taken by both surfaces (R62): the LUT (0 to 7 input, 8 to 11 output), the
contents, the surfaces that have taken it, and the surfaces whose commit deadline followed it. -/
structure LutWrite where
  lut : Nat
  data : Nat
  taken : Nat
  due : Nat
  deriving DecidableEq, Repr

/-- A tile of synthesis work (R108): surface, band, tile, and the local time it is due. -/
structure Tile where
  surf : Nat
  band : Nat
  tile : Nat
  due : Nat
  deriving DecidableEq, Repr

/-- A finished tile in the band ring (R110): its ray lines in order of v, each in scan order. -/
structure RingTile where
  surf : Nat
  band : Nat
  tile : Nat
  lines : List (List Nat)
  deriving DecidableEq, Repr

/-- A value staged for a commit (R192, R195): the group it is staged in, or none for the implicit
commit; the surfaces that own it (bit 0 A, bit 1 B); who wrote it; its register key and value. -/
structure Staged where
  group : Option Nat
  surfs : Nat
  owner : Nat
  key : Nat
  value : Nat
  deriving DecidableEq, Repr

/-- A commit that has its ID (R192): the group it came from, the surfaces it is to apply on, its
values as (surfaces, register key, value), the buffers it swaps, and whether it is a cue step. -/
structure Commit where
  id : Nat
  group : Option Nat
  surfs : Nat
  values : List (Nat × Nat × Nat)
  buffers : List Nat
  cue : Bool
  deriving DecidableEq, Repr

/-- A commit that admission accepted on a surface and that has not applied (R193): `skip` boundaries
of the surface pass before the one it applies at (R198); the worst-band costs and the reservation that its
evaluation found (R42, R125). -/
structure Accepted where
  surf : Nat
  skip : Nat
  commit : Commit
  costs : List Nat
  resv : Nat
  deriving DecidableEq, Repr

/-- An ingest tile waiting to be decoded on arrival (R162). -/
structure IngestTile where
  slot : Nat
  buf : Nat
  bank : Nat
  index : Nat
  data : List Byte
  deriving DecidableEq, Repr

/-- What Flaed keeps of a frame for its record (R37): the fields fixed at the boundary, and what
the frame has gathered. `digest` is the CRC register; `spared` has a bit per logical lane a spare
carried; `midChange` is set once the surface stopped sending synthesised rays inside the frame. -/
structure FrameRec where
  frameNo : Nat
  boundary : Nat
  commit : Nat
  temp : Nat
  rayMap : Nat
  gain : Nat
  stage : Nat
  mode : Nat
  highRate : Bool
  gen : Nat
  concealed : Bool
  darkTrans : Bool
  holdover : Bool
  fenced : Nat
  digest : Nat
  underLines : Nat
  underBands : Nat
  lastUnder : Nat
  poison : Nat
  clamps : Nat
  calPoison : Nat
  clusters : Nat
  spared : Nat
  laneFault : Bool
  midChange : Bool
  deriving DecidableEq, Repr

/-- A frame before any boundary. -/
def FrameRec.empty : FrameRec :=
  ⟨0, 0, 0, 0, 0, 0, 0, 3, false, 0, false, false, false, 0, 0, 0, 0, 0xFFFF, 0, 0, 0, 0, 0, false, false⟩

/-- A tap frame under way (R221 to R226): its tap (8 s + k), ring slot and frame number; the
direction, image size, slot address and coding parameters it began with; whether its frame has ended,
and the frame record once it is published; the bytes of tiles written; whether a row was dropped; the
pixels gathered of the block row that is filling, and whether that row is dropped; the rows waiting
for an encoder (block row and pixels), the rows coded, and the tiles that may serve as references. -/
structure TapFrame where
  tap : Nat
  frameNo : Nat
  h : Nat
  v : Nat
  width : Nat
  height : Nat
  base : Nat
  refDist : Nat
  k0 : Nat
  xform : Nat
  ended : Bool
  record : Option Nat
  bytes : Nat
  tiles : Nat
  dropped : Bool
  filling : List Nat
  skipRow : Bool
  rows : List (Nat × List Nat)
  coded : List Nat
  hist : List (Nat × List (List Int))
  deriving DecidableEq, Repr

/-- A panel calibration delivery under way (R263): the slot's parameter instance, kind, TOTAL, CRC,
RESIDUAL and the ranges written, as offset and length. -/
structure Delivery where
  surf : Nat
  inst : Nat
  kind : Nat
  total : Nat
  crc : Nat
  resid : Nat
  got : List (Nat × Nat)
  deriving DecidableEq, Repr

/-- A move of a logical lane (R252 to R255): kind 0 cover of a RETRAIN, 1 back to its own lane, 2
permanent sparing, 3 taken back by a recovered lane; the local time and frame number of its effect
line, whether that has passed, and whether the panel has acknowledged it. -/
structure Move where
  surf : Nat
  logical : Nat
  fromLane : Nat
  toLane : Nat
  kind : Nat
  effect : Nat
  frame : Nat
  done : Bool
  acked : Bool
  deriving DecidableEq, Repr

/-- A forward message that the panel has not acknowledged (R259): its sequence and type, its bytes,
how often it was resent and when it was last sent. -/
structure FwdMsg where
  surf : Nat
  mseq : Nat
  mtype : Nat
  bytes : List Byte
  resends : Nat
  sentAt : Nat
  deriving DecidableEq, Repr

/-- A coefficient request of a lane in EXCHANGE that waits to be applied (R245): the lane, PRE and POST, its
REQ_ID and the local time at which it arrived. -/
structure EqReq where
  surf : Nat
  lane : Nat
  pre : Nat
  post : Nat
  id : Nat
  at_ : Nat
  deriving DecidableEq, Repr

/-- One entry of a freeze log or a poison log as its bytes spell it. -/
abbrev LogEntry := Nat

/-- What a read of the central store answered: the data, and the code words answered as poisoned. -/
structure ReadAnswer where
  frozen : Bool
  data : List Byte
  poisoned : List Nat
  deriving DecidableEq, Repr

/-- What Flaed sends to the outside: MSI-X messages, notifications, Plovan responses, Ethernet
frames, SMBus bytes, blocks and raw test bits of the Welt lanes (`welt`: a forward message as it is handed to
the lanes, which carry it in MSG blocks), and the levels of the Insole electrodes (commons, segments) in the eight halves of a
frame. -/
inductive OutMsg where
  | msix (vector addr data : Nat)
  | notify (session queue : Nat) (entries : List Entry)
  | plovan (port : Nat) (dest : List Byte) (datagram : List Byte)
  | frame (port sub : Nat) (bytes : List Byte)
  | welt (surf mseq mtype : Nat) (bytes : List Byte)
  | slot (surf lane : Nat) (blocks : List (Bool × Nat))
  | pattern (surf lane count bits : Nat)
  | smbus (bytes : List Byte)
  | completion (data : List Byte) (status : Nat)
  | poisonedTlp (data : List Byte)
  | hostRead (addr len : Nat)
  | host (addr : Nat) (data : List Byte)
  | ptp (port kind seq : Nat) (fields : List Int)
  | stomped (port sub : Nat) (bytes : List Byte)
  | insole (halves : List (List Nat × List Nat))
  deriving DecidableEq, Repr

/-- What a page write of the Keeper is for: the page of a lace, a part of a record (with what is still
to be written after it), a copy of a tri-word that is written, one that a vote repairs, or a page the scrubber
corrected (R456, R458, R460). -/
inductive PageBy where
  | lace (n : Nat)
  | record (id : Nat)
  | tri (word value copy : Nat)
  | triFix (word value copy : Nat)
  | fix
  deriving DecidableEq, Repr

/-- A page write requested of the Keeper (R450): its page (2,048 and above: the configuration row of
tri-word 12), its 256 bytes and what it is for. -/
structure PageWrite where
  page : Nat
  data : List Byte
  by_ : PageBy
  deriving DecidableEq, Repr

/-- A record being written (R455 to R457): its ID, sequence number and payload, the copy and part of
each page still to be requested, and whether it is a repair. -/
structure RecordWrite where
  id : Nat
  seq : Nat
  payload : List Byte
  left : List (Nat × Nat)
  repair : Bool
  deriving DecidableEq, Repr

/-- A frame in an egress queue (R349): port, sub-port, queue, bytes, the lace that is still filling it,
whether the port has begun to send it, whether it cuts through, and its contents. `rx` is the ingress
port and time stamp, in 2^-48 ns, of a forwarded PTP message whose residence time is owed (R363). -/
structure EgressFrame where
  port : Nat
  sub : Nat
  queue : Nat
  len : Nat
  lace : Option Nat
  started : Bool
  cut : Bool
  rx : Option (Nat × Nat)
  msg : OutMsg
  deriving DecidableEq, Repr

/-- The Announce messages in view (R359): the port, the clock that sent it, the grandmaster's data
compared in order, the steps removed, its identity, the UTC offset, the interval, the local time of the latest
and that of the one before it, plus 1 (0 none). -/
structure ForeignMaster where
  port : Nat
  source : Nat
  rank : List Nat
  steps : Nat
  gm : Nat
  utc : Nat
  interval : Nat
  seenAt : Nat
  before : Nat
  deriving DecidableEq, Repr

/-- What the HBM banks hold beside their data (R292, R294): the open row of each bank (64 x pseudo-channel +
bank), the banks whose neighbour refresh is scheduled and not yet performed, and the neighbour refreshes
performed, which MS_NRR_COUNT shows. -/
structure Banks where
  rows : List (Nat × Nat)
  due : List Nat
  refreshes : Nat
  deriving DecidableEq, Repr

/-- The state of the machine. -/
structure State where
  /-- Commands waiting, first in, first out. -/
  pending : List Instr
  /-- Registers: dictionary parameters and internal registers, sparse (see `State.reg`). -/
  regs : List (Nat × Nat)
  /-- Status code of the latest dictionary access or command. -/
  status : Nat
  /-- Bytes the latest read returned. -/
  value : List Byte
  /-- Messages sent by the latest command that sends. -/
  sent : List OutMsg
  /-- The timebase accumulator: network time in units of 2^-48 ns (R354). -/
  tb : Nat
  /-- The same count without its steps, from which durations are taken (R210). -/
  local_ : Nat
  /-- The central store (R270): bytes, sparse; an unlisted byte reads 0 (R280). -/
  mem : List Host.Cell
  /-- Poisoned code words (R273). -/
  poison : List Nat
  /-- Rows initialised ahead of the sweep pointer, as pseudo-channel x 786,432 + local row (R279). -/
  rowsAhead : List Nat
  /-- Write-backs waiting to be issued, oldest first (R299). -/
  writeBacks : List WriteBack
  /-- The latest answer of the central store to a read command. -/
  answer : ReadAnswer
  /-- Waits seen by requests of the QoS ports: port, local time, wait, for QP_MAX_WAIT (R307). -/
  waits : List (Nat × Nat × Nat)
  /-- Bytes moved by the controllers: controller, local time, bytes, for CH_UTIL (R306). -/
  traffic : List (Nat × Nat × Nat)
  /-- The freeze log, oldest first (R305). -/
  freezeLog : List LogEntry
  /-- The poison log, oldest first (R309). -/
  poisonLog : List LogEntry
  /-- The event log, oldest first (R404). -/
  evLog : List Entry
  /-- Notification queues that are not empty and unsubscribed, by number (R399). -/
  queues : List (Nat × NQueue)
  /-- Waiting HIGH-class power requests with the local time each arrived, oldest first (R41). -/
  highReqs : List (PowerOp × Nat)
  /-- Waiting NORMAL-class power requests, likewise (R41). -/
  normalReqs : List (PowerOp × Nat)
  /-- Outstanding grants (R40). -/
  grants : List PowerOp
  /-- Tiles queued again ahead of all others (R132, R133). -/
  requeued : List Tile
  /-- Tiles queued for dispatch (R108). -/
  tileQueue : List Tile
  /-- Tiles clusters hold, in the order they were given: cluster and tile (R109); 16 stands for a
  cluster that froze (R31). -/
  held : List (Nat × Tile)
  /-- The band rings: finished tiles whose slot is not yet released (R110, R111). -/
  ring : List RingTile
  /-- Entries of the colour tables in force per surface that differ from the factory contents
  (R60 to R62). -/
  luts : List (Nat × Nat)
  /-- LUT writes held in the shadow copy: LUT, contents, and the surfaces (bit 0 A, bit 1 B) that
  have taken them or whose deadline has not yet followed the write (R62). -/
  lutShadow : List LutWrite
  /-- Values staged for group and implicit commits, oldest first (R192, R195). -/
  staged : List Staged
  /-- Commits that wait for a deadline, in order of ID (R192, R193). -/
  commits : List Commit
  /-- Commits accepted and not yet applied, in order of ID (R193). -/
  accepted : List Accepted
  /-- Ingest tiles waiting to be decoded, in order of acceptance (R162). -/
  ingest : List IngestTile
  /-- Tiles of FILL and SEALING banks that were stored from REF tiles: buffer, bank and index; a REF
  tile is no reference (R149). -/
  ingestRefs : List (Nat × Nat × Nat)
  /-- Packet sequence numbers accepted, as slot and SEQ, newest first (R185). -/
  replay : List (Nat × Nat)
  /-- The frame under way on surface A and on surface B (R21, R37). -/
  frameA : FrameRec
  frameB : FrameRec
  /-- Ended frames whose record is not yet published: surface and frame, oldest first (R38). -/
  awaiting : List (Nat × FrameRec)
  /-- The published records of surface A and of surface B, oldest first, at most 1,024 (R38). -/
  historyA : List Nat
  historyB : List Nat
  /-- Tap frames under way (R221 to R226). -/
  taps : List TapFrame
  /-- Surfaces that raised a cluster decoder's Husk code in the frame under way, with the code (R161). -/
  rejected : List (Nat × Nat)
  /-- Panel calibration deliveries under way (R263). -/
  deliveries : List Delivery
  /-- Moves of logical lanes under way or waiting for SPARE_ACK (R253). -/
  moves : List Move
  /-- Forward messages not yet acknowledged, oldest first (R259). -/
  fwd : List FwdMsg
  /-- MSG blocks handed to the lanes and not yet sent, oldest first: surface, physical lane and the bits of the
  block before scrambling (R259). -/
  msgBlocks : List (Nat × Nat × Nat)
  /-- Coefficient requests that wait to be applied, oldest first (R245). -/
  eqReqs : List EqReq
  /-- Sequence numbers of return messages processed, newest first, as surface and SEQ (R258). -/
  seqs : List (Nat × Nat)
  /-- Trailer CRC failures reported, as lane instance, local time and count (R254). -/
  crcWindow : List (Nat × Nat × Nat)
  /-- Lanes that wait for a RETRAIN or a SPARED attempt, in order of their triggers: surface, lane and
  whether it is a SPARED attempt (R248). -/
  retrains : List (Nat × Nat × Bool)
  /-- Keys of KEEP values in force and not yet in the Keeper, oldest first (R383). -/
  keepPending : List Nat
  /-- The Keeper (R448): bytes, sparse; pages 0 to 15 hold nothing here (tri-words: iTRI). -/
  keeper : List Host.Cell
  /-- Uncorrectable 16-byte groups of the Keeper, by byte address / 16 (R449). -/
  keeperBad : List Nat
  /-- Groups that were being programmed when power failed: unstable (R452). -/
  keeperTorn : List Nat
  /-- Page writes requested and not started, in order (R450). -/
  keeperQueue : List PageWrite
  /-- Page writes started, at most one per bank (R450). -/
  keeperBusy : List PageWrite
  /-- Records being written (R456, R457). -/
  records : List RecordWrite
  /-- Writes and repairs of tri-words that were refused and wait (R451, R460). -/
  triPending : List PageBy
  /-- Indices whose KEEP write was refused (R383). -/
  keepDeferred : List Nat
  /-- KP_BAD_LOG, oldest first (R458, R462). -/
  badLog : List LogEntry
  /-- Frames in the egress queues of both ports, oldest first (R349). -/
  egress : List EgressFrame
  /-- Bytes held by the receive queues (R353). -/
  rxq : List (Nat × List Byte)
  /-- Where a frame from each MAC address was last received: 4 x port + sub-port (R346). -/
  macs : List (Nat × Nat)
  /-- Bytes a lace has read and not yet handed to a Keeper page write (R320). -/
  laceBytes : List (Nat × List Byte)
  /-- Announce messages in view (R359). -/
  foreign : List ForeignMaster
  /-- TB_RATE over the latest 16 s of LOCKED: local time from which each value held (R361). -/
  rates : List (Nat × Nat)
  /-- Capture records held: capture and record, oldest first (R370). -/
  caps : List (Nat × Nat)
  /-- Assert edges of FRAME outputs scheduled and not yet produced: output and time in 1/3 ns (R366). -/
  eyeEdges : List (Nat × Int)
  /-- The key table: KEY_ID, role ceiling and key, in increasing KEY_ID (R393). -/
  keys : List (Nat × Nat × Nat)
  /-- The stored response of each session (R391). -/
  responses : List (Nat × List Byte)
  /-- The new request each session holds during a warm restart (R496). -/
  heldRequests : List (Nat × List Byte)
  /-- FUNC_DISABLED reports owed at RUNNING: register key and abandoned units, oldest first (R501). -/
  disabledOwed : List (Nat × Nat)
  /-- The banks of the HBM stacks (R292, R294). -/
  banks : Banks
  /-- What the channels show the requests of the command under way: the model's own field. -/
  seen : Seen
  /-- How many free values have been drawn: the model's own field. -/
  draws : Nat
  deriving DecidableEq, Repr

/-- The state right after reset: every register at its reset value (the sparse map lists none),
every queue, log and memory empty, network time 0 (R356), nothing pending. -/
def State.reset : State where
  pending := []
  regs := []
  status := 0
  value := []
  sent := []
  tb := 0
  local_ := 0
  mem := []
  poison := []
  rowsAhead := []
  writeBacks := []
  answer := ⟨false, [], []⟩
  waits := []
  traffic := []
  freezeLog := []
  poisonLog := []
  evLog := []
  queues := []
  highReqs := []
  normalReqs := []
  grants := []
  requeued := []
  tileQueue := []
  held := []
  ring := []
  luts := []
  lutShadow := []
  staged := []
  commits := []
  accepted := []
  ingest := []
  ingestRefs := []
  replay := []
  frameA := FrameRec.empty
  frameB := FrameRec.empty
  awaiting := []
  historyA := []
  historyB := []
  taps := []
  rejected := []
  deliveries := []
  moves := []
  fwd := []
  msgBlocks := []
  eqReqs := []
  seqs := []
  crcWindow := []
  retrains := []
  keepPending := []
  keeper := []
  keeperBad := []
  keeperTorn := []
  keeperQueue := []
  keeperBusy := []
  records := []
  triPending := []
  keepDeferred := []
  badLog := []
  egress := []
  rxq := []
  macs := []
  laceBytes := []
  foreign := []
  rates := []
  caps := []
  eyeEdges := []
  keys := []
  responses := []
  heldRequests := []
  disabledOwed := []
  banks := ⟨[], [], 0⟩
  seen := ⟨[], []⟩
  draws := 0

end Sys2Proof.Machine
end

