-- ==== Sys2Proof/Machine/Ops.lean ====
section
/-! DEFINITION. The named operations every command is written with: registers, time, events and
notification queues (R399 to R402), the power governor's ledger (R39 to R43, R428 to R430). -/
namespace Sys2Proof.Machine

/-! ## Registers -/

/-- The key of instance `i` of a register in the sparse register map. -/
def regKey (r : Reg) (i : Nat) : Nat := i * 1024 + r.ctorIdx

/-- What an unlisted key reads as: the register's reset value. -/
def keyDefault (k : Nat) : Nat := regDefault (Reg.ofNat (k % 1024)) (k / 1024)

/-- The value of instance `i` of a register, inside its width. -/
def State.reg (s : State) (r : Reg) (i : Nat) : Nat := Sparse.get keyDefault s.regs (regKey r i) % 2 ^ r.width

/-- Writes instance `i` of a register; the value is cut to the register's width (R379). -/
def State.setReg (s : State) (r : Reg) (i v : Nat) : State :=
  { s with regs := Sparse.set keyDefault s.regs (regKey r i) (v % 2 ^ r.width) }

/-- The value of a register read as two's complement (R379). -/
def State.regInt (s : State) (r : Reg) (i : Nat) : Int := asInt r.width (s.reg r i)

/-- Writes a signed value. -/
def State.setRegInt (s : State) (r : Reg) (i : Nat) (v : Int) : State :=
  s.setReg r i (ofInt r.width v)

/-- A counter, one up, modulo its width. -/
def State.bump (s : State) (r : Reg) (i : Nat) : State := s.setReg r i (s.reg r i + 1)

/-- A counter, `n` up, modulo its width. -/
def State.bumpBy (s : State) (r : Reg) (i n : Nat) : State := s.setReg r i (s.reg r i + n)

/-- Ends an access or a command with a status code (R408). -/
def State.setStatus (s : State) (code : Nat) : State := { s with status := code }

/-- Applies `f` where a condition holds. -/
def State.cond (s : State) (b : Bool) (f : State → State) : State := if b then f s else s

/-- Replaces what the latest sending command sent. -/
def State.send (s : State) (m : List OutMsg) : State := { s with sent := m }

/-- Adds to what the command under way sends. -/
def State.sendMore (s : State) (m : List OutMsg) : State := { s with sent := s.sent ++ m }

/-- The command under way sees `x` of the channels; at its end the state sees again what it saw before. -/
def State.see (s : State) (x : Seen) : State := { s with seen := x }

/-- A fresh free value of the noise source: a constant with no body applied to the count of draws. -/
def State.draw (s : State) : Nat × State := (Config.noise s.draws, { s with draws := s.draws + 1 })

/-! ## Time -/

/-- Network time, whole ns (R354). -/
def State.now (s : State) : Nat := (s.tb >>> 48) % 2 ^ 64

/-- Network time in 2^-16 ns (the visible fraction, R354). -/
def State.now16 (s : State) : Nat := s.tb >>> 32

/-- The local count in ns, which steps of the timebase do not move: durations are taken from it. -/
def State.clock (s : State) : Nat := s.local_ >>> 48

/-- The period of a TB cycle, in 2^-48 ns: 2 ns while PLL-NT is LOCKED, the bypass period of 6.4 ns while it
is not, and what CK_BACKUP_PERIOD holds while REFCLK is lost (R354, R357, R412). -/
def State.cyclePeriod (s : State) : Nat :=
  if s.reg .CK_REF_STATE 0 = 1 then s.reg .CK_BACKUP_PERIOD 0 * 2 ^ 32
  else if s.reg .CK_STATE 5 = 3 then 2 * 2 ^ 48
  else 64 * 2 ^ 48 / 10

/-- What the accumulator adds at a TB cycle: the period corrected by TB_RATE, in units of 2^-12 ppb (R354). -/
def State.cycleStep (s : State) : Nat :=
  (((s.cyclePeriod : Nat) : Int) * (4096000000000 + s.regInt .TB_RATE 0) / 4096000000000).toNat

/-- Whether a network time `t` has been reached: the signed 64-bit difference of R14. -/
def timeReached (now t : Nat) : Bool := decide (0 ≤ asInt 64 (now + 2 ^ 64 - t % 2 ^ 64))

/-- The state of what disciplines the timebase (R356, R361): 0 FREE, 1 ACQUIRING, 2 LOCKED, 3 HOLDOVER. -/
def State.discState (s : State) : Nat :=
  if s.reg .TB_SOURCE 0 = 0 then s.reg .iSERVO 0
  else if s.reg .TB_SOURCE 0 = 1 then s.reg .iSYNC_STATE 0 else 0

/-- Whether the state that disciplines the timebase is LOCKED (R362); a lost REFCLK is not (R412). -/
def State.timeLocked (s : State) : Bool := s.reg .CK_REF_STATE 0 == 0 && s.discState == 2

/-- Records a value of a quantity that is published as the largest over a recent interval. -/
def State.noteRecent (s : State) (key v : Nat) : State :=
  { s with waits :=
      (s.waits.filter (fun e => decide (s.clock < e.2.1 + 1000000000))) ++ [(key, s.clock, v)] }

/-- The largest recorded value of a quantity over the latest second. -/
def State.recentMax (s : State) (key : Nat) : Nat :=
  s.waits.foldl (fun m e =>
    if e.1 = key ∧ s.clock < e.2.1 + 1000000000 then max m e.2.2 else m) 0

/-! ## Events and notification queues -/

/-- What notification queue `q` holds. -/
def State.queue (s : State) (q : Nat) : NQueue := Sparse.get (fun _ => NQueue.empty) s.queues q

/-- Replaces what notification queue `q` holds. -/
def State.setQueue (s : State) (q : Nat) (n : NQueue) : State :=
  { s with queues := Sparse.set (fun _ => NQueue.empty) s.queues q n }

/-- Posts an entry to queue `q` (R399): in LOCAL mode a full queue drops it and counts it in NQ_LOST,
in STREAM mode it overwrites the oldest; every posted entry takes the next SEQ of its queue, and in
LOCAL mode the first entry held after a drop carries LOST. -/
def State.post (s : State) (q : Nat) (e : Entry) : State :=
  let n := s.queue q
  let seq := s.reg .NQ_SEQ q
  let s1 := s.bump .NQ_SEQ q
  if s.reg .NQ_MODE q = 0 then
    if 32 ≤ n.entries.length then
      (s1.bump .NQ_LOST q).setQueue q { n with dropped := true }
    else
      s1.setQueue q { n with
        entries := n.entries ++ [{ e with seq := seq, lost := n.dropped }]
        unsignalled := n.unsignalled + 1
        dropped := false }
  else
    s1.setQueue q { n with
      entries := (if 32 ≤ n.entries.length then n.entries.drop 1 else n.entries)
        ++ [{ e with seq := seq }]
      unsignalled := min 32 (n.unsignalled + 1) }

/-- The queue EV_ROUTE gives for the class of a code (R401). -/
def State.route (s : State) (code : Nat) : Nat :=
  blobGet (s.reg .EV_ROUTE 0) (2 * (code / 256)) 2

/-- Raises an event (R400, R401, R404): it is entered in EV_LOG, counted in EV_COUNT, and posted to
the queue the unit's queue parameter names (`some q`) or that EV_ROUTE gives (`none`), unless that is
0xFFFF. `args` are (width, value) pairs in the order of R408. -/
def State.raise (s : State) (code : Nat) (unit : Option Nat) (args : List (Nat × Nat)) : State :=
  let e : Entry := ⟨s.now, s.reg .EV_COUNT 0 % 2 ^ 32, code, !s.timeLocked, false, packBits args,
    s.clock⟩
  let s1 := { s with evLog := (if 256 ≤ s.evLog.length then s.evLog.drop 1 else s.evLog) ++ [e] }
  let s2 := s1.bump .EV_COUNT 0
  let q := unit.getD (s.route code)
  if q < 2048 then s2.post q e else s2

/-- The 32 bytes of an entry as a number (R400). -/
def Entry.raw (e : Entry) : Nat :=
  e.arg % 2 ^ 128 + 2 ^ 136 * b2n e.lost + 2 ^ 137 * b2n e.holdover + 2 ^ 144 * (e.code % 2 ^ 16)
    + 2 ^ 160 * (e.seq % 2 ^ 32) + 2 ^ 192 * (e.time % 2 ^ 64)

/-- A list of records of `n` bytes each, laid out one after the other. -/
def packRecords (n : Nat) : List Nat → Nat
  | [] => 0
  | r :: rs => r % 2 ^ (8 * n) + 2 ^ (8 * n) * packRecords n rs

/-- The diode pair of the Insole glass. -/
def State.glassPair (s : State) : Nat := 32 + s.reg .TH_GLASS_DIODE 0 % 4

/-- Whether the glass gate is open: not closed by R435, and its pair valid (R443). -/
def State.glassOpen (s : State) : Bool := s.reg .TH_GLASS_GATE 0 == 0 && s.reg .TS_VALID s.glassPair == 1

/-- Whether IRQ_N[n] is driven low: a LOCAL queue bound to it holds a signalled entry (R402). -/
def State.irqLow (s : State) (n : Nat) : Bool :=
  s.queues.any (fun e => s.reg .NQ_MODE e.1 == 0 && s.reg .NQ_IRQ e.1 == n
    && decide (e.2.unsignalled < e.2.entries.length))

/-! ## The governor's ledger -/

/-- Units of 0.25 W an operation asks for (R429). -/
def opAmount : PowerOp → Nat
  | .keeperWrite _ => 2 | .bringUp _ => 40 | .laneAttempt _ _ => 4 | .insole => 4
  | .skiver _ => 24 | .huskJob _ => 80 | .huskStanding _ => 48 | .sweepBurst => 32
  | .scrubBurst => 8 | .clusterWake _ => 16

/-- Whether an operation's request is of the HIGH class (R41). -/
def opHigh : PowerOp → Bool
  | .keeperWrite _ => true | .bringUp _ => true | .laneAttempt _ _ => true | .insole => true
  | .skiver _ => false | .huskJob _ => false | .huskStanding _ => false | .sweepBurst => false
  | .scrubBurst => false | .clusterWake _ => false

/-- The base reservation in units of 0.25 W (R428). -/
def State.powerBase (s : State) : Nat :=
  68 + 32 + (if s.reg .SO_OUT_STATE 0 = 0 then 0 else 24)
    + (if s.reg .SO_OUT_STATE 1 = 0 then 0 else 24)
    + (if s.reg .ETH_MODE 0 = 0 then 0 else 8) + (if s.reg .ETH_MODE 1 = 0 then 0 else 8)
    + (if s.reg .PCI_LINK 0 = 0 then 0 else 4)

/-- The sum of the outstanding grants. -/
def State.powerGranted (s : State) : Nat := (s.grants.map opAmount).sum

/-- What admission and the base leave of the ceiling: ceiling − base − A − B. -/
def State.powerBound (s : State) : Int :=
  (s.reg .PW_CEILING 0 : Int) - s.powerBase - s.reg .iS_RESV 0 - s.reg .iS_RESV 1

/-- free of R40. -/
def State.powerFree (s : State) : Int := s.powerBound - s.powerGranted

/-- Whether an operation holds a grant. -/
def State.granted (s : State) (op : PowerOp) : Bool := s.grants.contains op

/-- Whether an operation's request waits. -/
def State.waiting (s : State) (op : PowerOp) : Bool :=
  s.highReqs.any (fun e => e.1 == op) || s.normalReqs.any (fun e => e.1 == op)

/-- An operation asks for its grant in its class (R39, R41); it asks once. -/
def State.request (s : State) (op : PowerOp) : State :=
  if s.granted op || s.waiting op then s
  else if opHigh op then { s with highReqs := s.highReqs ++ [(op, s.clock)] }
  else { s with normalReqs := s.normalReqs ++ [(op, s.clock)] }

/-- An operation returns its grant, or its waiting request is withdrawn (R39, R430). -/
def State.release (s : State) (op : PowerOp) : State :=
  { s with
    grants := s.grants.erase op
    highReqs := s.highReqs.filter (fun e => !(e.1 == op))
    normalReqs := s.normalReqs.filter (fun e => !(e.1 == op)) }

/-- Gives the head request its grant. -/
def State.giveGrant (s : State) (op : PowerOp) (asked : Nat) : State :=
  (({ s with grants := s.grants ++ [op] } : State).bump .PW_GRANTS 0).noteRecent 12
    ((s.clock - asked) / 1000)

/-- The governor evaluates the head requests (R40, R41, R430): the head HIGH request is granted when
its amount fits in free; the head NORMAL request only when no HIGH request waits. -/
def State.governor (s : State) : State :=
  match s.highReqs with
  | (op, t) :: rest =>
    if ((opAmount op : Nat) : Int) ≤ s.powerFree then ({ s with highReqs := rest } : State).giveGrant op t else s
  | [] =>
    match s.normalReqs with
    | (op, t) :: rest =>
      if ((opAmount op : Nat) : Int) ≤ s.powerFree then
        ({ s with normalReqs := rest } : State).giveGrant op t else s
    | [] => s

/-- PW_BLOCKED: a request heads its class whose amount exceeds ceiling − base − A − B (R430). -/
def State.powerBlocked (s : State) : Bool :=
  (match s.highReqs with | (op, _) :: _ => decide (s.powerBound < (opAmount op : Int)) | [] => false) ||
  (match s.normalReqs with | (op, _) :: _ => decide (s.powerBound < (opAmount op : Int)) | [] => false)

end Sys2Proof.Machine
end

