-- ==== Sys2Proof/Machine/Access.lean ====
section
/-! DEFINITION. The dictionary's checks of an access (R378 to R383 of 12_control_dictionary.md,
roles and levels of R10 of 00_scope.md): who may read or write what, the type and range of a value,
and the plain effect of a write. -/
namespace Sys2Proof.Machine

/-- Whether only the boot ROM serves (R490). -/
def State.recovery (s : State) : Bool := s.reg .iPHASE 0 == 2

/-- The role an accessor acts with: its session's, or that of the PCIe function (R394, R395); in RECOVERY
both functions act with the service role (R490). -/
def State.role (s : State) : Accessor → Nat
  | .session n => s.reg .SS_ROLE n.val
  | .f0 => if s.recovery then 3 else s.reg .PCI_F0_ROLE 0
  | .f3 => if s.recovery then 3 else s.reg .PCI_F3_ROLE 0

/-- Whether the dictionary serves a register: in RECOVERY only the family of R505 (R490). -/
def State.served (s : State) (r : Reg) : Bool := !s.recovery || (regRow r).index == 0xF000

/-- The session number under which an accessor owns commit groups (R395). -/
def ownerOf : Accessor → Nat
  | .session n => n.val
  | .f0 => 0xFFFE
  | .f3 => 0xFFFD

/-- Whether a role may read a parameter of the level (R10). -/
def mayRead (role level : Nat) : Bool := decide (level + 1 ≤ max role 1)

/-- Whether a role may write a parameter of the level (R10): an observer writes nothing. -/
def mayWrite (role level : Nat) : Bool := decide (1 ≤ role) && decide (level + 1 ≤ role)

/-- The parameters that name a notification queue (R401). -/
def isQueueParam : Reg → Bool
  | .MS_QUEUE => true | .GC_QUEUE => true | .LC_QUEUE => true | .SK_QUEUE => true
  | .STR_QUEUE => true | .CMT_QUEUE => true | .TAP_QUEUE => true | .WL_QUEUE => true
  | .PTP_QUEUE => true | .EYE_QUEUE => true | .CAP_QUEUE => true | .ETH_QUEUE => true
  | _ => false

/-- A queue number from 0 to 2,047, or 0xFFFF (R401). -/
def queueOk (v : Nat) : Bool := decide (v < 2048) || v == 0xFFFF

/-- 0, or a power of two from 16 to 4,096: the ring sizes of R172, R187 and R340. -/
def ringSizeOk (v : Nat) : Bool := v == 0 || (decide (16 ≤ v) && decide (v ≤ 4096) && v == 2 ^ v.log2)

/-- The elements of `n` bytes of a BLOB of `count` elements. -/
def blobElems (v n count : Nat) : List Nat := (List.range count).map (fun k => blobGet v (n * k) n)

/-- The part of a register's stated range that the plain bounds of its row do not say (R380: an
element of a BLOB included). -/
def extraRangeOk (s : State) (r : Reg) (i v : Nat) : Bool :=
  match r with
  | .EV_ROUTE => (blobElems v 2 256).all queueOk
  | .CG_BUFFERS => (blobElems v 2 64).all (fun b => decide (b < 1024) || b == 0xFFFF)
  | .CUE_BIND => (blobElems v 2 32).all (fun b => decide (b < 1024) || b == 0xFFFF)
  | .PLV_KEY_SET => decide (blobGet v 0 2 ≤ 0xFFFE) && decide (blobGet v 2 1 ≤ 3)
    && blobGet v 3 1 == 0
  | .INS_WAVE => (blobElems v 1 256).all (fun c => decide (c ≤ 4))
  | .BUF_SOURCE => decide (v ≤ 0x101) || v == 0xFFFF
  | .NQ_IRQ => decide (v ≤ 7) || v == 0xFF
  | .DR_V_COUNT => v == 6 || v == 12
  | .EYE_WIDTH => v == 0 || decide (8 ≤ v)
  | .GC_RING_SIZE => ringSizeOk v
  | .STR_RING_SIZE => ringSizeOk v
  | .SK_RING_SIZE => ringSizeOk v
  | .GC_TAIL => decide (v < s.reg .GC_RING_SIZE i)
  | .STR_RING_TAIL => decide (v < s.reg .STR_RING_SIZE i)
  | .SK_TAIL => decide (v < s.reg .SK_RING_SIZE i)
  | .TAP_TAIL => decide (v < s.reg .TAP_SLOTS i)
  | .CH_WM_HIGH => decide (s.reg .CH_WM_LOW i < v)
  | .CH_WM_LOW => decide (v < s.reg .CH_WM_HIGH i)
  | .FW_SRC => !(s.reg .FW_SRC_SPACE 0 == 0) || v % 4096 == 0
  | .TS_IDEALITY => decide (32 ≤ i)
  | .TS_SERIES => decide (32 ≤ i)
  | .PTP_TRANSPORT => decide (v < 2) || !(s.reg .PTP_PROFILE 0 == 0)
  | .PTP_DELAY_MECH => s.reg .PTP_PROFILE 0 == 0 || v + 1 == s.reg .PTP_PROFILE 0
  | .CK_SSC => v == 0 || decide (i < 2)
  | .CK_MARGIN => v == 0 || !(i == 3 || i == 4 || i == 5)
  | .CK_BYPASS => v == 0 || !(i == 3 || i == 4 || i == 5)
  | .PLV_PORT => !(v == s.reg .ING_PORT 0) && !(v == s.reg .iPEND_ING_PORT 0)
  | .ING_PORT => !(v == s.reg .PLV_PORT 0) && !(v == s.reg .iPEND_PLV_PORT 0)
  | .TH_SHUT => decide (asInt 16 (s.reg .TH_RESTART 0) + 160 ≤ asInt 16 v)
  | .TH_RESTART => decide (asInt 16 v + 160 ≤ asInt 16 (s.reg .TH_SHUT 0))
  | _ => if isQueueParam r then queueOk v else true

/-- Whether a raw value lies in the register's stated range or value codes (R380). -/
def rangeOk (s : State) (r : Reg) (i v : Nat) : Bool :=
  (match (regRow r).range with
   | some g =>
     let x : Int := if (regRow r).ty.signed then asInt r.width v else v
     decide (g.lo ≤ x) && decide (x ≤ g.hi) && x % (g.step : Int) == 0
   | none => true)
  && extraRangeOk s r i v

/-- The checks of R380 on a write of `len` bytes, in the manual's order: the first that fails gives
the status; `none` where they pass. `inGroup` says whether the write joins a commit group in
STAGING. -/
def writeFault (s : State) (acc : Accessor) (r : Reg) (i len v : Nat) (inGroup : Bool) : Option Nat :=
  if !s.served r then some Code.odNoObject
  else match (regRow r).access with
  | .ro => some Code.odReadOnly
  | .const => some Code.odReadOnly
  | _ =>
    if !mayWrite (s.role acc) (regRow r).level then some Code.odLevel
    else if len * 8 ≠ r.width then some Code.odType
    else if !rangeOk s r i v then some Code.odRange
    else if (regRow r).commit = .scheduled ∧ inGroup = false then some Code.odNeedGroup
    else none

/-- The checks of R380 on a read. -/
def readFault (s : State) (acc : Accessor) (r : Reg) : Option Nat :=
  if !s.served r then some Code.odNoObject
  else if (regRow r).access = .wo then some Code.odWriteOnly
  else if !mayRead (s.role acc) (regRow r).level then some Code.odLevel
  else none

/-- Notes a KEEP value that took effect and is not yet in the Keeper (R383). -/
def State.noteKeep (s : State) (r : Reg) (i : Nat) : State :=
  if (regRow r).keep && !s.keepPending.contains (regKey r i) then
    { s with keepPending := s.keepPending ++ [regKey r i] } else s

/-- A value takes effect: it is in force, and a KEEP value is owed to the Keeper. -/
def State.putReg (s : State) (r : Reg) (i v : Nat) : State := (s.setReg r i v).noteKeep r i

/-- Whether all four Pip cores are frozen, so that none serves the dictionary (R32). -/
def State.pipsFrozen (s : State) : Bool := bits (s.reg .MS_FROZEN_CORE 0) 0x63 0x60 == 15

/-- Whether the firmware serves the dictionary: it is RUNNING (R491), on a Pip core that is not frozen (R32). -/
def State.firmwareServes (s : State) : Bool := s.reg .iPHASE 0 == 1 && !s.pipsFrozen

/-- Whether the accessor can reach the dictionary: the firmware serves it, and a session is open
(R388); in RECOVERY the PCIe functions reach it (R490). -/
def State.reachable (s : State) (acc : Accessor) : Bool :=
  match acc with
  | .session n => s.firmwareServes && s.reg .SS_STATE n.val == 1
  | _ => s.firmwareServes || s.recovery

/-- ACC_STATUS and ACC_ID of a PCIe function after an access (R395, R396). -/
def State.noteAccess (s : State) (acc : Accessor) (id : Nat) : State :=
  match acc with
  | .session _ => s
  | .f0 => (s.setReg .iACC_STATUS 0 s.status).setReg .iACC_ID 0 id
  | .f3 => (s.setReg .iACC_STATUS 1 s.status).setReg .iACC_ID 1 id

/-- A write access by `acc` of the raw value `v`, `len` bytes long, to instance `i` of `r`: refused
by R380 with its status and nothing else changed, or given to `eff`, which may itself refuse. -/
def writeAccess (s : State) (acc : Accessor) (r : Reg) (i len v : Nat) (inGroup : Bool)
    (eff : State → State) : State :=
  if s.reachable acc then
    (match writeFault s acc r i len v inGroup with
     | some code => s.setStatus code
     | none => eff (s.setStatus 0)).noteAccess acc (r.id i)
  else s

/-- A write access of a value of the register's own width. -/
def writeParam (s : State) (acc : Accessor) (r : Reg) (i v : Nat) (eff : State → State) : State :=
  writeAccess s acc r i (r.width / 8) v false eff

/-- Ends a write access with a refusal of the owning chapter. -/
def State.refuse (s : State) (code : Nat) : State := s.setStatus code

/-- FUNC_DISABLED: a function reached its disabled state (R405); while the firmware restarts the report
waits until it is RUNNING (R501). -/
def State.raiseDisabled (s : State) (r : Reg) (i abandoned : Nat) : State :=
  if s.reg .iPHASE 0 = 3 then { s with disabledOwed := s.disabledOwed ++ [(r.id i, abandoned)] }
  else s.raise Code.funcDisabled none [(32, r.id i), (32, abandoned)]

end Sys2Proof.Machine
end

