-- ==== Sys2Proof/Machine/Crc.lean ====
section
/-! DEFINITION. The two cyclic redundancy checks of the manual: CRC-32C (R144) and the CRC-64 of the
frame digest (R36), both reflected, and the CRC-32 register of the Welt link's messages. -/
namespace Sys2Proof.Machine

/-- One bit of a reflected CRC with reflected polynomial `p`. -/
def crcBit (p c : Nat) : Nat := if c % 2 = 1 then (c / 2) ^^^ p else c / 2

/-- One byte into a reflected CRC register. -/
def crcByte (p c b : Nat) : Nat :=
  let x := c ^^^ b
  crcBit p (crcBit p (crcBit p (crcBit p (crcBit p (crcBit p (crcBit p (crcBit p x)))))))

/-- Bytes into a reflected CRC register. -/
def crcBytes (p c : Nat) (bs : List Byte) : Nat := bs.foldl (fun c b => crcByte p c b.toNat) c

/-- CRC-32C: polynomial 0x1EDC_6F41, reflected (0x82F6_3B78), initial value and final XOR all ones
(R144). -/
def crc32c (bs : List Byte) : Nat := crcBytes 0x82F63B78 0xFFFFFFFF bs ^^^ 0xFFFFFFFF

/-- Reflected polynomial of the digest's CRC-64, 0x42F0_E1EB_A9EA_3693 (R36). -/
def digestPoly : Nat := 0xC96C5795D7870F42

/-- Initial value and final XOR of the digest (R36). -/
def digestInit : Nat := 0xFFFFFFFFFFFFFFFF

/-- One ray's 32-bit word, least significant byte first, into the digest register (R36). -/
def digestWord (c w : Nat) : Nat :=
  crcByte digestPoly (crcByte digestPoly (crcByte digestPoly (crcByte digestPoly c (w % 256))
    (w / 256 % 256)) (w / 65536 % 256)) (w / 16777216 % 256)

/-- Words into the digest register in order. -/
def digestWords (c : Nat) (ws : List Nat) : Nat := ws.foldl digestWord c

/-- The digest of a finished register. -/
def digestFinal (c : Nat) : Nat := c ^^^ digestInit

end Sys2Proof.Machine
end

