-- ==== Sys2Proof/Machine/Husk.lean ====
section
/-! DEFINITION. Husk, the lossless tile codec (05_husk_codec.md, R140 to R161): the header, the
transform, prediction, residue codes, the decoder with its errors, and the encoder with its choice. -/
namespace Sys2Proof.Machine.Husk

/-- Width of a row, rows and channels of a FORMAT (R141). -/
def dims : Nat → Nat × Nat × Nat
  | 0 => (32, 32, 4)
  | 1 => (32, 32, 3)
  | 2 => (96, 12, 3)
  | _ => (96, 6, 3)

/-- Raw payload bytes of a FORMAT (R141). -/
def rawBytes : Nat → Nat
  | 0 => 5120 | 1 => 3840 | 2 => 4320 | _ => 2160

/-- Largest LEN of a FORMAT, in units of 8 bytes (R141). -/
def maxLen : Nat → Nat
  | 0 => 641 | 1 => 481 | 2 => 541 | _ => 271

/-- The tile header (R143). -/
structure Header where
  check : Nat
  ver : Nat
  format : Nat
  pred : Nat
  ref : Nat
  xform : Nat
  k0 : Nat
  rsvd : Nat
  len : Nat
  deriving DecidableEq, Repr

/-- The header in a 64-bit word (R143). -/
def Header.ofWord (w : Nat) : Header :=
  ⟨bits w 63 32, bits w 31 29, bits w 28 27, bits w 26 25, bits w 24 19, bits w 18 18, bits w 17 14,
    bits w 13 10, bits w 9 0⟩

/-- The 64-bit word of a header (R143). -/
def Header.word (h : Header) : Nat :=
  packBits [(10, h.len), (4, h.rsvd), (4, h.k0), (1, h.xform), (6, h.ref), (2, h.pred),
    (2, h.format), (3, h.ver), (32, h.check)]

/-- A sample: its channels R, G, B and, in FORMAT 0, A, or the coded channels of R145. -/
abbrev Sample := List Int

/-- The reversible colour transform (R145); alpha is kept. -/
def forward (xform : Nat) : Sample → Sample
  | r :: g :: b :: rest =>
    if xform = 1 then
      let co := r - b
      let t := b + co.fdiv 2
      let cg := g - t
      (t + cg.fdiv 2) :: co :: cg :: rest
    else r :: g :: b :: rest
  | x => x

/-- The inverse transform (R145). -/
def inverse (xform : Nat) : Sample → Sample
  | y :: co :: cg :: rest =>
    if xform = 1 then
      let t := y - cg.fdiv 2
      let g := cg + t
      let b := t - co.fdiv 2
      (b + co) :: g :: b :: rest
    else y :: co :: cg :: rest
  | x => x

/-- Whether coded channel `c` has the signed range of Co and Cg (R146). -/
def wide (xform c : Nat) : Bool := xform == 1 && (c == 1 || c == 2)

/-- Least value of a coded channel (R146). -/
def chanLo (xform c : Nat) : Int := if wide xform c then -1023 else 0

/-- ZMAX of a coded channel (R146). -/
def zMax (xform c : Nat) : Nat := if wide xform c then 4092 else 2046

/-- Intra prediction of the first sample (R146). -/
def firstPred (xform c : Nat) : Int := if wide xform c then 0 else 512

/-- Zigzag value of a residue (R151). -/
def zigzag (e : Int) : Nat := if 0 ≤ e then (2 * e).toNat else (-2 * e - 1).toNat

/-- The residue of a zigzag value (R151). -/
def unzig (z : Nat) : Int := if z % 2 = 0 then (z / 2 : Nat) else -((z / 2 + 1 : Nat) : Int)

/-- The Rice parameter of the next row: the least k with n << k at least S, at most 11 (R152). -/
def nextK (n sum : Nat) : Nat :=
  ((List.range 11).find? (fun k => decide (sum ≤ n * 2 ^ k))).getD 11

/-- The clamped gradient of R147 from left, above and above-left. -/
def gradient (a b c : Int) : Int := clampInt (min a b) (max a b) (a + b - c)

/-- INTRA prediction at a position (R147): `left` and `above` where they exist. -/
def intraPred (first : Int) (left : Option Int) (above : Option (Int × Int)) : Int :=
  match left, above with
  | none, none => first
  | some a, none => a
  | none, some (b, _) => b
  | some a, some (b, c) => gradient a b c

/-- `n` bits of `v`, most significant first. -/
def msb : Nat → Nat → List Bool
  | 0, _ => []
  | n + 1, v => v.testBit n :: msb n v

/-- The bits of bytes, most significant first (R153). -/
def bitsOf (bs : List Byte) : List Bool := bs.flatMap (fun b => msb 8 b.toNat)

/-- Reads `n` bits, most significant first; `none` where they run out. -/
def takeBits : Nat → List Bool → Option (Nat × List Bool)
  | 0, bs => some (0, bs)
  | _ + 1, [] => none
  | n + 1, b :: bs =>
    match takeBits n bs with
    | none => none
    | some (v, rest) => some (b2n b * 2 ^ n + v, rest)

/-- Reads one-bits up to a zero-bit, at most 24: how many, and whether the zero was read. -/
def takeUnary : Nat → List Bool → Option (Nat × Bool × List Bool)
  | 0, bs => some (0, false, bs)
  | _ + 1, [] => none
  | n + 1, b :: bs =>
    if b then
      match takeUnary n bs with
      | none => none
      | some (q, z, rest) => some (q + 1, z, rest)
    else some (0, true, bs)

/-- Reads one code with Rice parameter `k` (R151). -/
def takeCode (k : Nat) (bs : List Bool) : Option (Nat × List Bool) :=
  match takeUnary 24 bs with
  | none => none
  | some (q, true, rest) => (takeBits k rest).map (fun (v, r) => (q * 2 ^ k + v, r))
  | some (_, false, rest) => takeBits 12 rest

/-- The bits of one code (R151). -/
def putCode (k z : Nat) : List Bool :=
  if z / 2 ^ k < 24 then List.replicate (z / 2 ^ k) true ++ false :: msb k z
  else List.replicate 24 true ++ msb 12 z

/-- One row of one channel is decoded (R147, R148, R151, R155 step 4). `refs` are the co-located
reference samples under REF; `above` the row above with its value at the left under INTRA. -/
def decodeRow (xform c k : Nat) (refs : Option (List Int)) (first : Int) :
    Nat → Option Int → Option (List Int × Int) → List Bool → Except Nat (List Int × Nat × List Bool)
  | 0, _, _, bs => .ok ([], 0, bs)
  | n + 1, left, above, bs =>
    match takeCode k bs with
    | none => .error Code.huskLenOver
    | some (z, rest) =>
      if zMax xform c < z then .error Code.huskBadCode
      else
        let p := match refs with
          | some (r :: _) => r
          | some [] => 0
          | none => intraPred first left (above.map (fun a => (a.1.headD 0, a.2)))
        let x := p + unzig z
        if x < chanLo xform c ∨ 1023 < x then .error Code.huskBadCode
        else
          match decodeRow xform c k (refs.map List.tail) first n (some x)
              (above.map (fun a => (a.1.tail, a.1.headD 0))) rest with
          | .error e => .error e
          | .ok (xs, s, r) => .ok (x :: xs, z + s, r)

/-- One row of every channel, in channel order (R153): the rows above and the Rice parameters per
channel go in, the row and the next parameters come out. -/
def decodeChans (xform w : Nat) (isRef : Bool) :
    Nat → Nat → List (Option (List Int)) → List Nat → List (List Int) → List Bool →
      Except Nat (List (List Int) × List Nat × List Bool)
  | 0, _, _, _, _, bs => .ok ([], [], bs)
  | n + 1, c, aboves, ks, refs, bs =>
    let above := (aboves.headD none).map (fun a => (a, 0))
    match decodeRow xform c (ks.headD 0) (if isRef then some (refs.headD []) else none)
        (firstPred xform c) w none above bs with
    | .error e => .error e
    | .ok (row, s, rest) =>
      match decodeChans xform w isRef n (c + 1) aboves.tail ks.tail refs.tail rest with
      | .error e => .error e
      | .ok (rows, ks', r) => .ok (row :: rows, nextK w s :: ks', r)

/-- All rows (R152, R153): the result is a list of rows, each a list of channels. -/
def decodeRows (xform w nch : Nat) (isRef : Bool) :
    Nat → List (Option (List Int)) → List Nat → List (List (List Int)) → List Bool →
      Except Nat (List (List (List Int)) × List Bool)
  | 0, _, _, _, bs => .ok ([], bs)
  | n + 1, aboves, ks, refs, bs =>
    match decodeChans xform w isRef nch 0 aboves ks (refs.headD []) bs with
    | .error e => .error e
    | .ok (row, ks', rest) =>
      match decodeRows xform w nch isRef n (row.map some) ks' refs.tail rest with
      | .error e => .error e
      | .ok (rows, r) => .ok (row :: rows, r)

/-- Channels of one row, list by list, turned into samples. -/
def zipChans : Nat → List (List Int) → List Sample
  | 0, _ => []
  | n + 1, chans => chans.map (fun c => c.headD 0) :: zipChans n (chans.map List.tail)

/-- Samples of one row turned into channels. -/
def splitChans (nch : Nat) (row : List Sample) : List (List Int) :=
  (List.range nch).map (fun c => row.map (fun s => s.getD c 0))

/-- A flat raster cut into rows of `w`. -/
def rowsOf : Nat → Nat → List Sample → List (List Sample)
  | 0, _, _ => []
  | n + 1, w, xs => xs.take w :: rowsOf n w (xs.drop w)

/-- A RAW payload's samples (R150). -/
def takeRaw (nch : Nat) : Nat → List Bool → Option (List Sample × List Bool)
  | 0, bs => some ([], bs)
  | n + 1, bs =>
    let rec chans : Nat → List Bool → Option (Sample × List Bool)
      | 0, b => some ([], b)
      | k + 1, b =>
        match takeBits 10 b with
        | none => none
        | some (v, r) => (chans k r).map (fun (xs, r') => ((v : Int) :: xs, r'))
    match chans nch bs with
    | none => none
    | some (x, r) => (takeRaw nch n r).map (fun (xs, r') => (x :: xs, r'))

/-- The bytes a sample enters CHECK with (R144). -/
def checkBytes (format : Nat) (s : Sample) : List Byte :=
  let v : Nat → Nat := fun c => (s.getD c 0).toNat
  if format = 0 then leBytes 5 (packBits [(10, v 0), (10, v 1), (10, v 2), (10, v 3)])
  else leBytes 4 (packBits [(10, v 0), (10, v 1), (10, v 2)])

/-- CHECK of a tile's samples (R144). -/
def checkOf (format : Nat) (xs : List Sample) : Nat :=
  crc32c (xs.flatMap (checkBytes format))

/-- Steps 1 to 2 of R155 on a header, against the accepted FORMATs. -/
def headerFault (h : Header) (accept : List Nat) : Option Nat :=
  if h.ver ≠ 1 ∨ h.rsvd ≠ 0 ∨ h.pred = 3 ∨ 11 < h.k0 ∨ (h.pred ≠ 1 ∧ h.ref ≠ 0)
      ∨ (h.pred = 2 ∧ (h.xform ≠ 0 ∨ h.k0 ≠ 0)) ∨ accept.contains h.format = false then
    some Code.huskBadCode
  else if h.len = 0 ∨ maxLen h.format < h.len then some Code.huskLenOver
  else none

/-- Steps 4 to 7 of R155: the samples of a tile whose header passed. `ref` holds the reference's
original samples under REF; the payload end is held against the header's LEN. -/
def decodeBody (h : Header) (ref : List Sample) (payload : List Byte) : Except Nat (List Sample) :=
  let (w, n, nch) := dims h.format
  let bs := bitsOf payload
  let body : Except Nat (List Sample × List Bool) :=
    if h.pred = 2 then
      match takeRaw nch (w * n) bs with
      | none => .error Code.huskLenOver
      | some r => .ok r
    else
      let refs := (rowsOf n w (ref.map (forward h.xform))).map (splitChans nch)
      match decodeRows h.xform w nch (h.pred == 1) n (List.replicate nch none)
          (List.replicate nch h.k0) refs bs with
      | .error e => .error e
      | .ok (rows, r) => .ok ((rows.flatMap (zipChans w)).map (inverse h.xform), r)
  match body with
  | .error e => .error e
  | .ok (xs, rest) =>
    if xs.any (fun s => s.any (fun v => decide (v < 0) || decide (1023 < v))) then
      .error Code.huskBadCode
    else if rest.any id then .error Code.huskBadCode
    else if 64 ≤ rest.length + (8 * (8 * h.len - 8) - bs.length) then .error Code.huskLenOver
    else if checkOf h.format xs ≠ h.check then .error Code.huskCheck
    else .ok xs

/-- The header of a tile's bytes; fewer than 8 bytes end at step 2 (R155). -/
def headerOf (tile : List Byte) : Except Nat Header :=
  if tile.length < 8 then .error Code.huskLenOver else .ok (Header.ofWord (leAt tile 0 8))

/-- Decodes a tile (R155). `refOf d` gives the original samples of the tile at distance d when it
is present, of the given FORMAT, INTRA or RAW and not rejected. -/
def decode (tile : List Byte) (accept : List Nat) (refOf : Nat → Nat → Option (List Sample)) :
    Except Nat (Header × List Sample) :=
  match headerOf tile with
  | .error e => .error e
  | .ok h =>
    match headerFault h accept with
    | some e => .error e
    | none =>
      if h.pred = 1 then
        match refOf (h.ref + 1) h.format with
        | none => .error Code.huskRefRange
        | some r => (decodeBody h r ((tile.take (8 * h.len)).drop 8)).map (fun xs => (h, xs))
      else (decodeBody h [] ((tile.take (8 * h.len)).drop 8)).map (fun xs => (h, xs))

/-! ## The encoder -/

/-- Predictions along one row (R147, R148). -/
def predRow (refs : Option (List Int)) (first : Int) :
    Option Int → Option (List Int × Int) → List Int → List Int
  | _, _, [] => []
  | left, above, x :: xs =>
    (match refs with
      | some rs => rs.headD 0
      | none => intraPred first left (above.map (fun a => (a.1.headD 0, a.2))))
      :: predRow (refs.map List.tail) first (some x)
        (above.map (fun a => (a.1.tail, a.1.headD 0))) xs

/-- The codes of one row of every channel and the next Rice parameters. -/
def encodeChans (xform w : Nat) (isRef : Bool) :
    Nat → List (List Int) → List (Option (List Int)) → List Nat → List (List Int) →
      List Bool × List Nat
  | _, [], _, _, _ => ([], [])
  | c, row :: rows, aboves, ks, refs =>
    let ps := predRow (if isRef then some (refs.headD []) else none) (firstPred xform c) none
      ((aboves.headD none).map (fun a => (a, 0))) row
    let zs := (row.zip ps).map (fun (x, p) => zigzag (x - p))
    let (bs, ks') := encodeChans xform w isRef (c + 1) rows aboves.tail ks.tail refs.tail
    (zs.flatMap (putCode (ks.headD 0)) ++ bs, nextK w zs.sum :: ks')

/-- The codes of all rows. -/
def encodeRows (xform w : Nat) (isRef : Bool) :
    List (List (List Int)) → List (Option (List Int)) → List Nat → List (List (List Int)) →
      List Bool
  | [], _, _, _ => []
  | row :: rows, aboves, ks, refs =>
    let (bs, ks') := encodeChans xform w isRef 0 row aboves ks (refs.headD [])
    bs ++ encodeRows xform w isRef rows (row.map some) ks' refs.tail

/-- Bytes filled from the most significant bit, the last padded with zeros (R153, R154). -/
def packBytes : Nat → List Bool → List Byte
  | 0, _ => []
  | n + 1, bs =>
    if bs = [] then []
    else
      BitVec.ofNat 8 ((bs.take 8 ++ List.replicate (8 - (bs.take 8).length) false).foldl
        (fun a b => 2 * a + b2n b) 0) :: packBytes n (bs.drop 8)

/-- A tile from its header fields and payload bits (R142, R154). -/
def assemble (format pred ref xform k0 check : Nat) (payload : List Bool) : List Byte :=
  let body := packBytes (payload.length / 8 + 1) payload
  let len := (8 + body.length + 7) / 8
  leBytes 8 (Header.word ⟨check, 1, format, pred, ref, xform, k0, 0, len⟩) ++ body
    ++ List.replicate (8 * len - 8 - body.length) 0

/-- The channels of a tile, row by row, after the transform. -/
def planes (format xform : Nat) (xs : List Sample) : List (List (List Int)) :=
  let (w, n, nch) := dims format
  (rowsOf n w (xs.map (forward xform))).map (splitChans nch)

/-- The INTRA candidate (R157). -/
def encodeIntra (format xform k0 : Nat) (xs : List Sample) : List Byte :=
  let (w, _, nch) := dims format
  assemble format 0 0 xform k0 (checkOf format xs)
    (encodeRows xform w false (planes format xform xs) (List.replicate nch none)
      (List.replicate nch k0) [])

/-- The REF candidate against a reference at distance `d`. -/
def encodeRef (format xform k0 d : Nat) (ref xs : List Sample) : List Byte :=
  let (w, _, nch) := dims format
  assemble format 1 (d - 1) xform k0 (checkOf format xs)
    (encodeRows xform w true (planes format xform xs) (List.replicate nch none)
      (List.replicate nch k0) (planes format xform ref))

/-- The RAW candidate (R150). -/
def encodeRaw (format : Nat) (xs : List Sample) : List Byte :=
  assemble format 2 0 0 0 (checkOf format xs)
    (xs.flatMap (fun s => s.flatMap (fun v => msb 10 v.toNat)))

/-- The encoder's choice (R157): the smallest LEN, preferring INTRA, then REF, then RAW. `ref` is
the tile at the job's REF_DIST when it was written as INTRA or RAW. -/
def encode (format xform k0 d : Nat) (ref : Option (List Sample)) (xs : List Sample) : List Byte :=
  let i := encodeIntra format xform k0 xs
  let a := match ref with
    | some r =>
      let t := encodeRef format xform k0 d r xs
      if t.length < i.length then t else i
    | none => i
  let w := encodeRaw format xs
  if w.length < a.length then w else a

end Sys2Proof.Machine.Husk
end

