-- ==== Sys2Proof/Machine/Pll.lean ====
section
/-! DEFINITION. The PLLs themselves (13_clocking.md, R409 to R420): frequencies, entry to BYPASS, band
search and spread ramps. What a loss of lock does to the domains is in Clocks.lean. -/
namespace Sys2Proof.Machine

/-- Nominal VCO frequency of PLL `k`, in kHz (R409). -/
def vcoNominal : Nat → Nat
  | 0 => 6400000 | 1 => 4800000 | 2 => 4000000 | 3 => 16000000 | 4 => 16000000 | 5 => 12890625
  | _ => 3200000

/-- VCO range of PLL `k`, in kHz (R409). -/
def vcoRange : Nat → Nat × Nat
  | 0 => (5600000, 7200000) | 1 => (4200000, 5400000) | 2 => (3500000, 4500000)
  | 3 => (14000000, 18000000) | 4 => (14000000, 18000000) | 5 => (11300000, 14500000)
  | _ => (2800000, 3600000)

/-- What the VCO is divided by for the first output of R409. -/
def vcoDivider : Nat → Nat
  | 3 => 1 | 4 => 1 | 5 => 33 | _ => 4

/-- The VCO frequency that PLL `k` aims at, in kHz x 10^6: nominal plus CK_MARGIN (R417, R419). -/
def State.vcoTarget (s : State) (k : Nat) : Nat :=
  (vcoNominal k * (1000000 + s.regInt .CK_MARGIN k)).toNat

/-- CK_FREQ follows the target (R425). -/
def State.showFreq (s : State) (k : Nat) : State :=
  s.setReg .CK_FREQ k (s.vcoTarget k / (1000000 * vcoDivider k))

/-- PLL `k` enters a state. -/
def State.setPll (s : State) (k st : Nat) : State := (s.setReg .CK_STATE k st).setReg .iCK_SINCE k s.clock

/-- How long PLL `k` has been in its state, in ns. -/
def State.pllAge (s : State) (k : Nat) : Nat := s.clock - s.reg .iCK_SINCE k

/-- A ramp of the spread that a loss of lock interrupts is made good after the next lock (R420). -/
def State.stopRamp (s : State) (k : Nat) : State :=
  if k < 2 ∧ s.reg .iSSC_RAMP k = 1 then (s.setReg .iSSC_RAMP k 0).setReg .iSSC_WAIT k 1 else s

/-- PLL `k` enters BYPASS (R413): its domain runs on the bypass clock, and the sequence begins. -/
def State.toBypass (s : State) (k : Nat) : State :=
  let s1 := if s.reg .CK_STATE k = 3 then s.setReg .iCK_OUT k s.clock else s
  (((s1.stopRamp k).setPll k 0).setReg .iCK_START k s1.clock).showFreq k

/-- PLL `k` fails (R413). -/
def State.pllFailed (s : State) (k : Nat) : State :=
  (s.setPll k 4).setReg .iCK_FAILS k (min 255 (s.reg .iCK_FAILS k + 1))

/-! ## Spread spectrum (R420) -/

/-- The ramp of the spread of PLL-HZ or PLL-FB begins. -/
def State.startRamp (s : State) (k : Nat) : State := (s.setReg .iSSC_RAMP k 1).setReg .iSSC_AT k s.clock

/-- A value of CK_SSC has come into force: the modulation ramps, or, while the PLL is not LOCKED, the
ramp is owed after the lock. -/
def State.spreadSet (s : State) (k : Nat) : State :=
  if s.reg .CK_STATE k = 3 then s.startRamp k else s.setReg .iSSC_WAIT k 1

/-- Whether down-spread is enabled or pending on HZ (R115, R420): until a ramp to 0 has ended. -/
def State.hzSpread (s : State) : Bool :=
  s.reg .CK_SSC 0 == 1 || s.reg .iARR 3 == 1 || s.reg .iSSC_RAMP 0 == 1 || s.reg .iSSC_WAIT 0 == 1

/-! ## The band search (R414) -/

/-- An entry of the band table: VCO frequency in kHz and band. -/
def State.bandEntry (s : State) (k e : Nat) : Nat × Nat :=
  (blobGet (s.reg .CK_BAND_TABLE k) (8 * e) 4, blobGet (s.reg .CK_BAND_TABLE k) (8 * e + 4) 1)

/-- Distance of a frequency in kHz from the target, in kHz x 10^6. -/
def State.offTarget (s : State) (k f : Nat) : Nat :=
  ((f * 1000000 : Nat) - (s.vcoTarget k : Int)).natAbs

/-- The entry nearest the target, where it lies within 1 % of it. -/
def State.nearEntry (s : State) (k : Nat) : Option Nat :=
  let best := (List.range 8).foldl (fun b e =>
    if (s.bandEntry k e).1 = 0 then b
    else match b with
      | none => some e
      | some x => if s.offTarget k (s.bandEntry k e).1 < s.offTarget k (s.bandEntry k x).1 then some e
        else some x) none
  best.filter (fun e => decide (100 * s.offTarget k (s.bandEntry k e).1 ≤ s.vcoTarget k))

/-- The seed of a search, with the entry it comes from. DEDUCED (log 62): the interpolation takes the ends of
the VCO range to bands 0 and 63. -/
def State.seedOf (s : State) (k : Nat) : Nat × Option Nat :=
  match s.nearEntry k with
  | some e => (min 63 (s.bandEntry k e).2, some e)
  | none =>
    let (lo, hi) := vcoRange k
    (min 63 ((s.vcoTarget k - lo * 1000000) * 63 / ((hi - lo) * 1000000)), none)

/-- How far a count over 128 reference cycles lies from the target's, in units of 8192 kHz / 10^6. -/
def State.countOff (s : State) (k count : Nat) : Nat :=
  ((count * 10000000 * 1000000 : Nat) - (8192 * s.vcoTarget k : Int)).natAbs

/-- Whether a count lies within 2,000 ppm of the target. -/
def State.bandFits (s : State) (k count : Nat) : Bool :=
  decide (1000000 * s.countOff k count ≤ 2000 * 8192 * s.vcoTarget k)

/-- The qualifying band of a list whose count is nearest the target, the first measured on ties. -/
def State.bestBand (s : State) (k : Nat) (counts : List Nat) (bands : List Nat) : Option Nat :=
  bands.foldl (fun b x =>
    let c := counts.getD x 0
    if s.bandFits k c = false then b
    else match b with
      | none => some x
      | some y => if s.countOff k c < s.countOff k (counts.getD y 0) then some x else some y) none

/-- The bands measured first: the seed and its neighbours, those outside 0 to 63 skipped. -/
def seedBands (seed : Nat) : List Nat :=
  ([(seed : Int), seed + 1, (seed : Int) - 1, seed + 2, (seed : Int) - 2].filter
    (fun b => decide (0 ≤ b) && decide (b ≤ 63))).map Int.toNat

/-- The band chosen from the counts of the bands: of the five, or of all 64. -/
def State.chosenBand (s : State) (k seed : Nat) (counts : List Nat) : Option Nat :=
  match s.bestBand k counts (seedBands seed) with
  | some b => some b
  | none => s.bestBand k counts (List.range 64)

/-- The chosen band is written back to the table: into the entry used as seed, else the first empty
entry, else the one farthest from the target. -/
def State.keepBand (s : State) (k band : Nat) (used : Option Nat) : State :=
  let t := s.reg .CK_BAND_TABLE k
  let f := s.vcoTarget k / 1000000
  let place (e : Nat) := blobSet t (8 * e) 8 (f + 2 ^ 32 * band)
  let t1 := match used with
    | some e => blobSet t (8 * e + 4) 1 band
    | none =>
      match (List.range 8).find? (fun e => (s.bandEntry k e).1 == 0) with
      | some e => place e
      | none => place ((List.range 8).foldl (fun x e =>
          if s.offTarget k (s.bandEntry k x).1 < s.offTarget k (s.bandEntry k e).1 then e else x) 0)
  if t1 = t then s else s.putReg .CK_BAND_TABLE k t1

end Sys2Proof.Machine
end

