-- ==== Sys2Proof/Machine/Store.lean ====
section
/-! DEFINITION. The central store (09_central_store.md): the address map (R271), code words, poison
and read-modify-write (R273 to R277), the initialisation state of rows (R279, R280), QoS accounting
(R285, R287), protection windows and frozen masters (R29 to R31, R301, R302). -/
namespace Sys2Proof.Machine

/-! ## The address map -/

/-- Bytes of the address space (R270). -/
def storeSize : Nat := 0xC00000000

/-- Row within the bank, A[35:22] (R271). -/
def addrRow (a : Nat) : Nat := bits a 35 22

/-- Pseudo-channel, A[13:8] ^ A[27:22] ^ A[33:28] (R271). -/
def addrPc (a : Nat) : Nat := bits a 13 8 ^^^ bits a 27 22 ^^^ bits a 33 28

/-- Bank, A[21:16] ^ A[27:22] (R271). -/
def addrBank (a : Nat) : Nat := bits a 21 16 ^^^ bits a 27 22

/-- Code word within the row, (A[15:14] << 3) | A[7:5] (R271). -/
def addrCol (a : Nat) : Nat := (bits a 15 14) * 8 + bits a 7 5

/-- Channel controller, pc >> 1 (R271). -/
def addrCtrl (a : Nat) : Nat := addrPc a / 2

/-- The row of an address numbered over the store: pseudo-channel × 786,432 + local row, where the
local row number RL is row × 64 + bank (R279). -/
def addrRowKey (a : Nat) : Nat := addrPc a * 786432 + addrRow a * 64 + addrBank a

/-! ## Bytes, code words and rows -/

/-- What a byte never written reads as: 0 (R280). -/
def memDefault : Nat → Byte := fun _ => 0

/-- One byte of the store. -/
def State.byte (s : State) (a : Nat) : Byte := Sparse.get memDefault s.mem a

/-- `n` bytes of the store from `a`. -/
def State.bytes (s : State) (a : Nat) : Nat → List Byte
  | 0 => []
  | n + 1 => s.byte a :: State.bytes s (a + 1) n

/-- `n` bytes of the store from `a`, little-endian. -/
def State.word (s : State) (a n : Nat) : Nat := leNat (s.bytes a n)

/-- Stores bytes from `a` upwards. -/
def memPut (m : List Host.Cell) (a : Nat) : List Byte → List Host.Cell
  | [] => m
  | b :: bs => memPut (Sparse.set memDefault m a b) (a + 1) bs

/-- Whether the row of an address is initialised: below the sweep pointer of its pseudo-channel, or
marked in the map (R279). -/
def State.rowInit (s : State) (a : Nat) : Bool :=
  s.reg .MS_INIT_STATE 0 == 1 || decide (addrRow a * 64 + addrBank a < s.reg .iSWEEP (addrPc a))
    || s.rowsAhead.contains (addrRowKey a)

/-- Marks the row of an address initialised; writing its zeros changes no byte, since a row not yet
initialised reads as zeros (R280). -/
def State.initRow (s : State) (a : Nat) : State :=
  if s.rowInit a then s else { s with rowsAhead := addrRowKey a :: s.rowsAhead }

/-- Whether code word `w` (address / 32) is poisoned. -/
def State.poisoned (s : State) (w : Nat) : Bool := s.poison.contains w

/-- Marks a code word poisoned; a word newly poisoned counts in MS_POISONED. -/
def State.markPoison (s : State) (w : Nat) : State :=
  if s.poisoned w then s else ({ s with poison := w :: s.poison } : State).bump .MS_POISONED 0

/-- Clears the poison mark of a code word (R274). -/
def State.clearPoison (s : State) (w : Nat) : State := { s with poison := s.poison.filter (· != w) }

/-! ## Logs -/

/-- Number of a master space: 0 CORE, 1 INGEST. -/
def masterSpace (m : Master) : Nat := b2n m.ingest

/-- A newly poisoned word is entered in PN_LOG and raises POISON (R275, R277, R298, R309): `finder`
is 0 scrubber, 1 demand read, 2 read-modify-write. -/
def State.logPoison (s : State) (w finder space id : Nat) : State :=
  let e := packBits [(64, 32 * w), (64, s.now), (8, finder), (8, space), (8, id), (40, 0)]
  let full := decide (64 ≤ s.poisonLog.length)
  let s1 := { s with poisonLog := (if full then s.poisonLog.drop 1 else s.poisonLog) ++ [e] }
  let s2 := if full then s1.bump .PN_LOST 0 else s1
  s2.raise Code.poison (some (s2.reg .MS_QUEUE 0)) [(64, 32 * w), (8, space), (8, id), (8, finder)]

/-! ## Masters and protection windows -/

/-- Whether a master is frozen (R30, R305). -/
def State.isFrozen (s : State) (m : Master) : Bool :=
  bit (s.reg (if m.ingest then .MS_FROZEN_INGEST else .MS_FROZEN_CORE) 0) m.id.val

/-- Whether window `w` in force allows a request (R29, R301): it is enabled, names the master, covers
the whole range and permits the direction. -/
def State.windowAllows (s : State) (w : Nat) (m : Master) (a len : Nat) (write : Bool) : Bool :=
  s.reg .iWIN_ENABLE w == 1 && s.reg .iWIN_SPACE w == masterSpace m
    && decide (s.reg .iWIN_ID_LO w ≤ m.id.val) && decide (m.id.val ≤ s.reg .iWIN_ID_HI w)
    && decide (s.reg .iWIN_BASE w ≤ a) && decide (a + len ≤ s.reg .iWIN_LIMIT w + 1)
    && bit (s.reg .iWIN_PERM w) (if write then 1 else 0)

/-- The scrubber and the HBM training agent bypass the check (R29): CORE 0x64 and 0x65. -/
def masterBypasses (m : Master) : Bool := !m.ingest && (m.id.val == 0x64 || m.id.val == 0x65)

/-- Whether a request passes the check of R29 and R302. -/
def State.allowed (s : State) (m : Master) (a len : Nat) (write : Bool) : Bool :=
  masterBypasses m || (decide (a + len ≤ storeSize)
    && (List.range 64).any (fun w => s.windowAllows w m a len write))

/-- The general decoders that serve ingest, in increasing number: assigned, enabled and not frozen (R162). -/
def State.ingestDecoders (s : State) : List Nat :=
  (List.range 4).filter (fun d => bit (s.reg .HK_INGEST_DEC 0) d && s.reg .GC_ENABLE (4 + d) == 1
    && s.reg .GC_STATE (4 + d) != 5)

/-- Tiles that wait to be decoded on arrival are lost when no decoder serves ingest any longer (R162). -/
def State.loseIngest (s : State) : State :=
  if s.ingestDecoders.isEmpty then { s with ingest := [] } else s

/-- The job of a codec is interrupted with nothing of it done (R173). -/
def State.interruptJob (s : State) (n : Nat) : State :=
  ((((((s.setReg .iGC_FROZEN_JOB n 1).setReg .iGC_DONE n 0).setReg .iGC_OUT n 0).setReg .iGC_BUF n 0).setReg
    .iGC_NI n 0).setReg .iGC_NR n 0).setReg .iGC_NW n 0

/-- Whether a codec or Skiver in state `st` has a job: WAIT_GRANT, RUNNING or DRAINING. -/
def hasJob (st : Nat) : Bool := st == 1 || st == 2 || st == 3

/-- What a freeze does to the unit behind the master (R31): a cluster, lace, Skiver or codec shows
FROZEN, and a job under way is kept for its record (R173, R339); an ingest path discards; when the fourth Pip core freezes the 50 ms of R32 begin. -/
def State.freezeUnit (s : State) (m : Master) : State :=
  let k := m.id.val
  if m.ingest then s.cond (s.reg .STR_STATE k == 1) (fun t => t.setReg .STR_STATE k 2)
  else if k < 0x10 then
    (s.setReg .CL_STATE k 5).setReg .HZ_ACTIVE 0 (setBit (s.reg .HZ_ACTIVE 0) k false)
  else if k < 0x50 then (s.setReg .LC_STATE (k - 0x10) 7).setReg .LC_RESULT (k - 0x10) Code.masterFrozen
  else if k < 0x54 then
    (s.cond (hasJob (s.reg .SK_STATE (k - 0x50))) (fun t =>
      (t.setReg .iSK_FROZEN_JOB (k - 0x50) 1).setReg .iSK_DONE (k - 0x50) 0)).setReg .SK_STATE (k - 0x50) 5
  else if k < 0x5C then
    ((s.cond (hasJob (s.reg .GC_STATE (k - 0x54))) (fun t => t.interruptJob (k - 0x54))).setReg .GC_STATE
      (k - 0x54) 5).loseIngest
  else if 0x60 ≤ k ∧ k < 0x64 ∧ s.pipsFrozen = true then
    s.setReg .iPIP_FROZE_NS 0 s.clock
  else s

/-- Freezes a master whose request failed the check (R30): the request is not performed,
MASTER_FROZEN is raised, and the freeze is logged (R305). A master already frozen issues nothing. -/
def State.freeze (s : State) (m : Master) (a : Nat) (write : Bool) : State :=
  if s.isFrozen m then s else
  let r : Reg := if m.ingest then .MS_FROZEN_INGEST else .MS_FROZEN_CORE
  let e := packBits [(64, a), (64, s.now), (8, masterSpace m), (8, m.id.val), (8, b2n write), (40, 0)]
  let s1 := (s.setReg r 0 (setBit (s.reg r 0) m.id.val true)).bump .MS_FREEZES 0
  let s2 := { s1 with
    freezeLog := (if 16 ≤ s1.freezeLog.length then s1.freezeLog.drop 1 else s1.freezeLog) ++ [e] }
  (s2.freezeUnit m).raise Code.masterFrozen (some (s2.reg .MS_QUEUE 0))
    [(8, masterSpace m), (8, m.id.val), (8, b2n write), (64, a)]

/-! ## Requests -/

/-- Index of a QoS port: its rank of R285 minus 1. -/
def portIndex : Port → Nat
  | .plane => 0 | .train => 1 | .pip => 2 | .ingest => 3 | .writeback => 4 | .pcie => 5
  | .cue => 6 | .lace => 7 | .codec => 8 | .skiver => 9 | .diag => 10 | .scrub => 11

/-- One request of a port is served: its bytes count, and its wait, the next that the command under way
sees, enters QP_MAX_WAIT and, at urgency 3, which begins at the port's target inclusive, QP_OVER (R287,
R307). -/
def State.serve (s : State) (p : Port) (n : Nat) : State :=
  let q := portIndex p
  let age := s.seen.waits.headD 0
  let s1 := { s.bumpBy .QP_BYTES q n with seen := { s.seen with waits := s.seen.waits.drop 1 } }
  (s1.cond (decide (s.reg .QP_TARGET q ≤ age)) (fun t => t.bump .QP_OVER q)).noteRecent q age

/-- All requests of a burst are served: together they move `n` bytes, and every wait the command sees is
one of theirs. -/
def State.serveAll (s : State) (p : Port) (n : Nat) : State :=
  let q := portIndex p
  let late := (s.seen.waits.filter (fun a => decide (s.reg .QP_TARGET q ≤ a))).length
  let s1 := { s.bumpBy .QP_BYTES q n with seen := { s.seen with waits := [] } }
  (s1.bumpBy .QP_OVER q late).noteRecent q (s.seen.waits.foldl max 0)

/-- Controller `c` moves `n` bytes over its data bus (R306). -/
def State.move (s : State) (c n : Nat) : State :=
  { s with traffic := (s.traffic.filter (fun e => decide (s.clock < e.2.1 + 1000000))) ++ [(c, s.clock, n)] }

/-- A request split at 256-byte boundaries (R272): (address, length) parts. -/
def splitParts (a len : Nat) : List (Nat × Nat) :=
  go (len / 256 + 2) a len
where
  go : Nat → Nat → Nat → List (Nat × Nat)
    | 0, _, _ => []
    | k + 1, a, len =>
      if len = 0 then []
      else
        let n := min len (256 - a % 256)
        (a, n) :: go k (a + n) (len - n)

/-- The code words a range touches. -/
def wordsOf (a len : Nat) : List Nat :=
  if len = 0 then [] else (List.range ((a + len - 1) / 32 - a / 32 + 1)).map (· + a / 32)

/-- What the check of a code word finds. -/
def findingOf (found : List (Nat × Finding)) (w : Nat) : Option Finding :=
  (found.find? (fun e => e.1 == w)).map Prod.snd

/-- Whether the draw of controller `c` at `step` schedules a neighbour refresh (R294). -/
def State.neighbourHit (s : State) (c step : Nat) : Bool :=
  (Config.neighbourDraw c step).toNat % 2 ^ s.reg .MS_NRR_SHIFT 0 == 0

/-- A neighbour refresh that bank `b` owes is performed and counted (R294). -/
def State.refreshNeighbours (s : State) (b : Nat) : State :=
  { s with banks := { s.banks with
      due := s.banks.due.filter (· != b)
      refreshes := s.banks.refreshes + (s.banks.due.filter (· == b)).length } }

/-- The row of an access is activated in its bank unless it is open there: a refresh of neighbours that is
due goes first, and the controller's draw decides whether another is scheduled (R294). -/
def State.activate (s : State) (a : Nat) : State :=
  let b := 64 * addrPc a + addrBank a
  let c := addrCtrl a
  if Sparse.get (fun _ => storeSize) s.banks.rows b = addrRow a then s
  else
    let s1 := (s.refreshNeighbours b).bump .iNRR_STEP c
    let hit := s1.neighbourHit c (s.reg .iNRR_STEP c)
    { s1 with banks := { s1.banks with
        rows := Sparse.set (fun _ => storeSize) s1.banks.rows b (addrRow a)
        due := if hit then b :: s1.banks.due else s1.banks.due } }

/-- Controller `c` activates `n` rows one after the other in a burst, and performs within it every
neighbour refresh they schedule (R294). -/
def State.activateRows (s : State) (c n : Nat) : State :=
  let k := s.reg .iNRR_STEP c
  let hits := ((List.range n).filter (fun j => s.neighbourHit c (k + j))).length
  { s.bumpBy .iNRR_STEP c n with banks := { s.banks with refreshes := s.banks.refreshes + hits } }

/-- Every bank closes its row: a burst over the whole store leaves none open. -/
def State.closeRows (s : State) : State := { s with banks := { s.banks with rows := [] } }

/-- One code word is read (R277): its report, and whether the answer is poisoned. -/
def State.readWord (s : State) (m : Master) (w : Nat) : Bool × State :=
  let c := addrCtrl (32 * w)
  if s.poisoned w then (true, s.bump .MS_POISON_READS 0)
  else match findingOf s.seen.found w with
    | none => (false, s)
    | some .correctable =>
      (false, { (s.bump .CH_CORRECTED c).bump .MS_CORRECTED 0 with
        writeBacks := s.writeBacks ++ [⟨w, false, false, false⟩] })
    | some .uncorrectable =>
      (true, ({ s.bump .CH_UNCORRECTABLE c with
        writeBacks := s.writeBacks ++ [⟨w, true, false, false⟩] } : State).logPoison w 1 (masterSpace m) m.id.val)

/-- The code words of a list are read in turn. -/
def State.readWords (s : State) (m : Master) : List Nat → List Nat × State
  | [] => ([], s)
  | w :: ws =>
    let (p, s1) := s.readWord m w
    let (ps, s2) := s1.readWords m ws
    ((if p then w :: ps else ps), s2)

/-- One part of a read, inside one 256-byte granule (R272, R277, R280): whole code words cross the data
bus, and none where the row is not initialised. -/
def State.readPart (s : State) (m : Master) (p : Port) (a len : Nat) : ReadAnswer × State :=
  if s.isFrozen m then (⟨true, [], []⟩, s)
  else if !s.allowed m a len false then (⟨true, [], []⟩, s.freeze m a false)
  else if !s.rowInit a then (⟨false, List.replicate len 0, []⟩, s.serve p len)
  else
    let ws := wordsOf a len
    let s1 := ((s.serve p len).move (addrCtrl a) (32 * ws.length)).activate a
    let (bad, s2) := s1.readWords m ws
    (⟨false, s.bytes a len, bad⟩, s2)

/-- A read of the store by a master: its parts in turn; a freeze ends it. -/
def State.read (s : State) (m : Master) (p : Port) : List (Nat × Nat) → ReadAnswer × State
  | [] => (⟨false, [], []⟩, s)
  | (a, n) :: ps =>
    let (r, s1) := s.readPart m p a n
    if r.frozen then (r, s1)
    else
      let (rs, s2) := s1.read m p ps
      (⟨rs.frozen, r.data ++ rs.data, r.poisoned ++ rs.poisoned⟩, s2)

/-- A write to a code word was accepted: write-backs still waiting for it are superseded (R299). -/
def State.supersede (s : State) (w : Nat) : State :=
  { s with writeBacks := s.writeBacks.map (fun b => if b.word = w then { b with superseded := true } else b) }

/-- One code word is written with `data` from byte `a` on (R274, R275): a whole word replaces it and
clears any poison mark; a part of it is a read-modify-write, which leaves a poisoned word poisoned. -/
def State.writeWord (s : State) (m : Master) (a : Nat) (data : List Byte) : State :=
  let w := a / 32
  let c := addrCtrl a
  let s1 := (s.supersede w)
  let s2 := { s1 with mem := memPut s1.mem a data }
  if data.length = 32 then s2.clearPoison w
  else
    let s3 := s2.bump .MS_RMW 0
    if s.poisoned w then s3.bump .MS_RMW_POISON 0
    else match findingOf s.seen.found w with
      | none => s3
      | some .correctable => (s3.bump .CH_CORRECTED c).bump .MS_CORRECTED 0
      | some .uncorrectable =>
        (((s3.bump .CH_UNCORRECTABLE c).bump .MS_RMW_POISON 0).markPoison w).logPoison w 2
          (masterSpace m) m.id.val

/-- The bytes a write is charged: 32 for a whole code word, 64 for a part (R274). -/
def chargedBytes (a len : Nat) : Nat :=
  ((wordsOf a len).map (fun w => if a ≤ 32 * w ∧ 32 * w + 32 ≤ a + len then 32 else 64)).sum

/-- The code words of a write in turn. -/
def State.writeWords (s : State) (m : Master) : Nat → Nat → List Byte → State
  | 0, _, _ => s
  | k + 1, a, data =>
    if data = [] then s
    else
      let n := 32 - a % 32
      (s.writeWord m a (data.take n)).writeWords m k (a + n) (data.drop n)

/-- One part of a write, inside one 256-byte granule (R272, R274, R280): the whole row is written first
where it is not initialised. -/
def State.writePart (s : State) (m : Master) (p : Port) (a : Nat) (data : List Byte) : Bool × State :=
  if s.isFrozen m then (true, s)
  else if !s.allowed m a data.length true then (true, s.freeze m a true)
  else
    let n := chargedBytes a data.length
    let row := if s.rowInit a then 0 else 1024
    let s1 := (((s.serve p n).move (addrCtrl a) (n + row)).initRow a).activate a
    (false, s1.writeWords m 9 a data)

/-- A write of the store by a master: its parts in turn; a freeze ends it. -/
def State.write (s : State) (m : Master) (p : Port) (data : List Byte) : List (Nat × Nat) → Bool × State
  | [] => (false, s)
  | (a, n) :: ps =>
    let (f, s1) := s.writePart m p a (data.take n)
    if f then (true, s1) else s1.write m p (data.drop n) ps

/-- A read by a master, split into its parts. -/
def State.fetch (s : State) (m : Master) (p : Port) (a len : Nat) : ReadAnswer × State :=
  s.read m p (splitParts a len)

/-- A write by a master, split into its parts. -/
def State.store (s : State) (m : Master) (p : Port) (a : Nat) (data : List Byte) : Bool × State :=
  s.write m p data (splitParts a data.length)

/-- Whether any code word of a range is poisoned. -/
def State.rangePoisoned (s : State) (a len : Nat) : Bool := (wordsOf a len).any s.poisoned

/-- A CORE master. -/
def coreMaster (id : Fin 256) : Master := ⟨false, id⟩

/-- The Pip core that issues a request of the firmware (R28, R31): the lowest-numbered one that is not
frozen, to which the tasks of a frozen core move. -/
def State.pipMaster (s : State) : Master :=
  if !s.isFrozen (coreMaster 0x60) then coreMaster 0x60
  else if !s.isFrozen (coreMaster 0x61) then coreMaster 0x61
  else if !s.isFrozen (coreMaster 0x62) then coreMaster 0x62
  else coreMaster 0x63

/-- The master of general codec `n`: encoder n below 4, decoder n - 4 otherwise (R28). -/
def codecMaster (n : Nat) : Master := coreMaster (Fin.ofNat 256 (0x54 + n))

/-- The store as a unit sees it that has read the words `ws`: a word found uncorrectable is answered as
poisoned (R277, R278). -/
def State.withFindings (s : State) (seen : Seen) (ws : List Nat) : State :=
  { s with poison := ws.filter (fun w => findingOf seen.found w == some .uncorrectable) ++ s.poison }

/-- Whether the channels serve requests: PLL-HB is LOCKED, and every channel has been retrained since
(R296). -/
def State.storeServes (s : State) : Bool := s.reg .CK_STATE 2 == 3 && s.reg .iHB_HELD 0 == 0

/-- Whether the channels of a request serve it (R296). -/
def State.rangeServed (s : State) (a len : Nat) : Bool :=
  s.reg .CK_STATE 2 == 3
    && (splitParts a len).all (fun p => !bit (s.reg .iHB_HELD 0) (addrCtrl p.1))

end Sys2Proof.Machine
end

