-- ==== Sys2Proof/Machine/Scene.lean ====
section
/-! DEFINITION. The scene a surface holds in force (02_scene_model.md, 06_stream_ingest.md): buffers
and their banks (R177 to R182), texels (R67, R102, R191), calibration sets (R52 to R58), colour
tables (R60 to R62) and the scene objects (R64 to R73). -/
namespace Sys2Proof.Machine

/-! ## Buffers -/

/-- The tile count Nt of a buffer (R177). -/
def bufTiles (kind w h : Nat) : Nat :=
  if kind = 3 then w * h else ceilDiv w 32 * ceilDiv h 32

/-- The slot size of a buffer (R178): the largest tile of its FORMAT under CODED, 5,120 under
SAMPLES. -/
def bufSlotSize (format store : Nat) : Nat := if store = 1 then 5120 else 8 * Husk.maxLen format

/-- The index size IX of a buffer (R178). -/
def bufIndexSize (kind w h : Nat) : Nat := roundUp (bufTiles kind w h * 8) 4096

/-- The bank size of a buffer (R178). -/
def bankSize (kind format store w h : Nat) : Nat :=
  roundUp (bufIndexSize kind w h + bufTiles kind w h * bufSlotSize format store) 4096

/-- Nt of buffer `n`. -/
def State.bufNt (s : State) (n : Nat) : Nat :=
  bufTiles (s.reg .BUF_KIND n) (s.reg .BUF_WIDTH n) (s.reg .BUF_HEIGHT n)

/-- BUF_BANK_SIZE of buffer `n` (R180). -/
def State.bufBankSize (s : State) (n : Nat) : Nat :=
  bankSize (s.reg .BUF_KIND n) (s.reg .BUF_FORMAT n) (s.reg .BUF_STORE n) (s.reg .BUF_WIDTH n)
    (s.reg .BUF_HEIGHT n)

/-- The bank that holds a role of buffer `n`: 0 FRONT, 1 READY, 2 FILL, 3 SEALING (R182). -/
def State.bankOf (s : State) (n role : Nat) : Option Nat :=
  let k := blobGet (s.reg .BUF_BANKS n) role 1
  if k = 0xFF then none else some k

/-- Gives a role of buffer `n` to a bank, or to none. -/
def State.setBank (s : State) (n role : Nat) (k : Option Nat) : State :=
  s.setReg .BUF_BANKS n (blobSet (s.reg .BUF_BANKS n) role 1 (k.getD 0xFF))

/-- The lowest free bank of buffer `n` (R182); a bank that a waiting concealment reads is not free. -/
def State.freeBank (s : State) (n : Nat) : Option Nat :=
  (List.range 3).find? (fun k =>
    !((List.range 4).any (fun r => s.bankOf n r == some k)))

/-- The bank record of bank `k` of buffer `n`. -/
def bankIx (n k : Nat) : Nat := 3 * n + k

/-- Address of entry `i` of the tile index of a bank (R178, R179). -/
def State.entryAddr (s : State) (n k i : Nat) : Nat := s.reg .iBK_INDEX (bankIx n k) + 8 * i

/-- Entry `i` of a bank's tile index (R179). -/
def State.entry (s : State) (n k i : Nat) : Nat := s.word (s.entryAddr n k i) 8

/-- PRESENT, CONCEALED and TRANSP of an index entry (R179). -/
def entryPresent (e : Nat) : Bool := e.testBit 47
/-- CONCEALED of an index entry (R179). -/
def entryConcealed (e : Nat) : Bool := e.testBit 46
/-- TRANSP of an index entry (R179). -/
def entryTransp (e : Nat) : Bool := e.testBit 45
/-- LEN of an index entry (R179). -/
def entryLen (e : Nat) : Nat := bits e 41 32
/-- OFFSET of an index entry, in bytes (R179). -/
def entryOffset (e : Nat) : Nat := 8 * bits e 31 0

/-- Address of the tile an entry of a bank names. -/
def State.tileAddr (s : State) (n k e : Nat) : Nat :=
  s.reg .iBK_BASE (bankIx n k) + entryOffset e

/-- Whether the code word of an index entry is poisoned (R102). -/
def State.entryPoisoned (s : State) (n k i : Nat) : Bool :=
  s.rangePoisoned (s.entryAddr n k i) 8

/-- The bytes of the tile an entry names. -/
def State.tileBytes (s : State) (n k i : Nat) : List Byte :=
  s.bytes (s.tileAddr n k (s.entry n k i)) (8 * entryLen (s.entry n k i))

/-- What a cluster decoder reads of one tile of a coded bank, as (address, length): its index entry, and the
tile where the entry names one (R102, R160). -/
def State.tileRanges (s : State) (n k i : Nat) : List (Nat × Nat) :=
  let e := s.entry n k i
  (s.entryAddr n k i, 8) :: (if entryPresent e && !entryTransp e then [(s.tileAddr n k e, 8 * entryLen e)] else [])

/-- All that a cluster decoder reads for tile `i`: the tile, and under REF, where the header passes steps 1
and 2 of R155, the reference (R160). -/
def State.codedRanges (s : State) (n k : Nat) (accept : List Nat) (i : Nat) : List (Nat × Nat) :=
  s.tileRanges n k i ++ (match Husk.headerOf (s.tileBytes n k i) with
    | .error _ => []
    | .ok h => if h.pred = 1 ∧ h.ref + 1 ≤ i ∧ Husk.headerFault h accept = none then
        s.tileRanges n k (i - (h.ref + 1)) else [])

/-- What a cluster finds of one Husk tile of a coded bank (R102, R155, R160): its samples, or the
code that rejected it; `none` where a code word read for it is poisoned. -/
def State.codedTile (s : State) (n k : Nat) (accept : List Nat) (i : Nat) :
    Option (Except Nat (Husk.Header × List Husk.Sample)) :=
  if (s.codedRanges n k accept i).any (fun r => s.rangePoisoned r.1 r.2) then none
  else some (Husk.decode (s.tileBytes n k i) accept (fun d f =>
    if i < d then none
    else
      let e := s.entry n k (i - d)
      if entryPresent e && !entryTransp e then
        match Husk.decode (s.tileBytes n k (i - d)) [f] (fun _ _ => none) with
        | .ok (_, xs) => some xs
        | .error _ => none
      else none))

/-- One tap as synthesis reads it: transparent (R191), poisoned (R102), or a texel's codes. -/
inductive Tap where
  | transparent
  | poisoned
  | texel (r g b a : Nat)
  deriving DecidableEq, Repr

/-- Sample `pos` of tile `i` of a bank, with the alpha a FORMAT without alpha gives (R102, R141,
R177, R191). -/
def State.readTap (s : State) (n : Nat) (accept : List Nat) (i pos : Nat) : Tap :=
  match s.bankOf n 0 with
  | none => .transparent
  | some k =>
    if s.entryPoisoned n k i then .poisoned
    else
      let e := s.entry n k i
      if !entryPresent e || entryTransp e then .transparent
      else if s.reg .BUF_STORE n = 1 then
        let a := s.tileAddr n k e + 5 * pos
        if s.rangePoisoned a 5 then .poisoned
        else
          let w := s.word a 5
          .texel (bits w 9 0) (bits w 19 10) (bits w 29 20)
            (if s.reg .BUF_FORMAT n = 1 then 1023 else bits w 39 30)
      else
        match s.codedTile n k accept i with
        | some (.ok (_, xs)) =>
          let x := xs.getD pos []
          .texel (x.getD 0 0).toNat (x.getD 1 0).toNat (x.getD 2 0).toNat (x.getD 3 1023).toNat
        | _ => .poisoned

/-- The tile of texel (x, y) of a buffer of 32 × 32 blocks that is `w` texels wide (R67, R177). -/
def texelTile (w x y : Nat) : Nat := y / 32 * ceilDiv w 32 + x / 32

/-- Its place within the tile (R67). -/
def texelPos (x y : Nat) : Nat := y % 32 * 32 + x % 32

/-- Texel (x, y) of a buffer of 32 × 32 blocks (R67). -/
def State.texel (s : State) (n w x y : Nat) : Tap := s.readTap n [0, 1] (texelTile w x y) (texelPos x y)

/-! ## Calibration sets -/

/-- The parameter instance of slot `n` of kind `k` (0 ray map, 1 gain) of surface `s` (R55). -/
def calIx (kind surf slot : Nat) : Nat := 32 * kind + 16 * surf + slot

/-- Bytes of one temperature point of a set (R53). -/
def calPointSize (kind w h : Nat) : Nat := if kind = 1 then w * h * 8 else w / 32 * h * 48 + w * h * 4

/-- The enabled planes of a surface of a kind (0 WORLD, 1 OVERLAY), in slot order (R65). -/
def State.planes (s : State) (surf kind : Nat) : List Nat :=
  (List.range 16).filter (fun p =>
    s.reg .PL_ENABLE (16 * surf + p) == 1 && s.reg .PL_KIND (16 * surf + p) == kind)

/-- Whether the state in force has scene objects: the power-up state has none (R492). -/
def State.hasScene (s : State) (surf : Nat) : Bool := s.reg .iS_COMMITTED surf == 1

/-- Whether a ray-map slot is used (R56). -/
def State.rayMapUsed (s : State) (surf : Nat) : Bool :=
  s.hasScene surf && (s.reg .SURF_MODE surf == 1
    || (s.reg .SURF_MODE surf == 0 && !(s.planes surf 0).isEmpty))

/-- Whether a gain slot is used (R56; in the power-up state a slot that is not VALID acts as unity
gain, R492). -/
def State.gainUsed (s : State) (surf : Nat) : Bool :=
  s.reg .CAL_GAIN_BYPASS surf == 0 &&
    (s.hasScene surf || s.reg .CAL_STATE (calIx 1 surf (s.reg .CAL_GAIN_SEL surf)) == 2)

/-- Whether the gain set is applied in the frame under way: decided where the sets are blended, at its
boundary (R78). -/
def State.gainOn (s : State) (surf : Nat) : Bool := s.reg .iS_GAIN_ON surf == 1

/-- The set of a kind a surface selects. -/
def State.calSel (s : State) (kind surf : Nat) : Nat :=
  calIx kind surf (if kind = 0 then s.reg .CAL_RAYMAP_SEL surf else s.reg .CAL_GAIN_SEL surf)

/-- The points lo and hi of a set and the weight w at temperature `t` (R54), as lo + 4 × hi and w. -/
def calBlend (t0 t1 t2 t : Int) : Nat × Nat :=
  if t ≤ t0 then (0, 0)
  else if t < t1 then (4, ((t - t0) * 256 / (t1 - t0)).toNat)
  else if t < t2 then (1 + 8, ((t - t1) * 256 / (t2 - t1)).toNat)
  else (2 + 8, 0)

/-- A value blended between two points (R78). -/
def blend (lo hi : Int) (w : Nat) : Int := lo + ((hi - lo) * w + 128) / 256

/-- Points and weight in force for kind `k` on a surface. -/
def State.calPoints (s : State) (kind surf : Nat) : Nat × Nat × Nat :=
  (s.reg .iS_LOHI (4 * surf + 2 * kind) % 4, s.reg .iS_LOHI (4 * surf + 2 * kind) / 4,
    s.reg .iS_LOHI (4 * surf + 2 * kind + 1))

/-- Where `n` bytes at byte `off` of both points in force lie, as (address, length) (R53, R78). -/
def State.calRanges (s : State) (kind surf off n : Nat) : List (Nat × Nat) :=
  let base := s.reg .CAL_BASE (s.calSel kind surf)
  let pt := calPointSize kind (s.reg .SURF_WIDTH surf) (s.reg .SURF_HEIGHT surf)
  let (lo, hi, _) := s.calPoints kind surf
  [(base + lo * pt + off, n), (base + hi * pt + off, n)].take (if lo = hi then 1 else 2)

/-- Elements of `size` bytes at byte `off` of both points in force, blended one by one (R78). -/
def State.calElems (s : State) (kind surf off size count : Nat) (signed : Bool) : List Int :=
  let base := s.reg .CAL_BASE (s.calSel kind surf)
  let pt := calPointSize kind (s.reg .SURF_WIDTH surf) (s.reg .SURF_HEIGHT surf)
  let (lo, hi, w) := s.calPoints kind surf
  (List.range count).map (fun j =>
    let rd (p : Nat) : Int :=
      let v := s.word (base + p * pt + off + j * size) size
      if signed then asInt (8 * size) v else v
    blend (rd lo) (rd hi) w)

/-- Whether elements at byte `off` of the points in force are poisoned. -/
def State.calPoisoned (s : State) (kind surf off size count : Nat) : Bool :=
  (s.calRanges kind surf off (size * count)).any (fun r => s.rangePoisoned r.1 r.2)

/-! ## Colour tables -/

/-- The greatest number whose bits pass `p`, by bits from `k` down (p is true up to a bound). -/
def greatestByBits (p : Nat → Bool) : Nat → Nat → Nat
  | 0, acc => acc
  | k + 1, acc => greatestByBits p k (if p (acc + 2 ^ k) then acc + 2 ^ k else acc)

/-- Factory contents of input LUT `n`, entry `i` (R61). Rounding half up of a power is decided by
comparing integers: round(x) is the greatest y with 2y − 1 ≤ 2x, both sides raised to the fifth
power. -/
def inLutFactory (n i : Nat) : Nat :=
  if n = 1 then
    greatestByBits (fun y => decide ((2 * y - 1) ^ 5 * 1023 ^ 12 ≤ (2 * 65535) ^ 5 * i ^ 12)) 16 0
  else if n = 2 then
    -- sRGB decoding: c/12.92 up to c = 0.04045, else ((c + 0.055)/1.055)^2.4 with c = i/1,023
    if i * 100000 ≤ 4045 * 1023 then (2 * 65535 * i * 100 + 1023 * 1292) / (2 * 1023 * 1292)
    else
      greatestByBits (fun y => decide ((2 * y - 1) ^ 5 * (1055 * 1023) ^ 12
        ≤ (2 * 65535) ^ 5 * (1000 * i + 55 * 1023) ^ 12)) 16 0
  else (i * 65535 + 511) / 1023

/-- Factory contents of output LUT `n`, entry `i` (R61). -/
def outLutFactory (n i : Nat) : Nat :=
  let x := min (16 * i) 65535
  if n = 1 then
    greatestByBits (fun y => decide ((2 * y - 1) ^ 12 * 65535 ^ 5 ≤ (2 * 65472) ^ 12 * x ^ 5)) 16 0
  else (x * 65472 + 32767) / 65535

/-- LUT numbers: 0 to 7 input, 8 to 11 output. Entries of a LUT. -/
def lutEntries (l : Nat) : Nat := if l < 8 then 1024 else 4097

/-- Factory contents of LUT `l`, entry `i`. -/
def lutFactory (l i : Nat) : Nat := if l < 8 then inLutFactory l i else outLutFactory (l - 8) i

/-- The key of an entry of a LUT as surface `surf` holds it in force (R62). -/
def lutKey (surf l i : Nat) : Nat := (surf * 16 + l) * 8192 + i

/-- What an unlisted LUT key reads as: the factory contents. -/
def lutDefault (k : Nat) : Nat := lutFactory (k / 8192 % 16) (k % 8192)

/-- Entry `i` of LUT `l` in force on a surface. -/
def State.lut (s : State) (surf l i : Nat) : Nat := Sparse.get lutDefault s.luts (lutKey surf l i)

/-- The contents of a LUT in force on a surface as a BLOB. -/
def State.lutBlob (s : State) (surf l : Nat) : Nat :=
  packRecords 2 ((List.range (lutEntries l)).map (s.lut surf l))

/-- A surface takes new contents of a LUT. -/
def State.takeLut (s : State) (surf l blob : Nat) : State :=
  forN (lutEntries l) s (fun t i =>
    { t with luts := Sparse.set lutDefault t.luts (lutKey surf l i) (blobGet blob (2 * i) 2) })

end Sys2Proof.Machine
end

