-- ==== Sys2Proof/Machine/Synth.lean ====
section
/-! DEFINITION. Ray synthesis, bit by bit (03_ray_synthesis.md, R75 to R105): direction, planes,
overlays, views, direct samples, compositing, gain, output transfer, dither, throttle stages and
poisoned data. -/
namespace Sys2Proof.Machine

/-- mul16 of R76. -/
def mul16 (x a : Nat) : Nat := if a = 65535 then x else (x * a + 32768) / 65536

/-- A layer of a ray: colour per channel and alpha (R87). -/
structure Layer where
  r : Nat
  g : Nat
  b : Nat
  a : Nat
  deriving DecidableEq, Repr

/-- A tap that synthesis read: buffer, tile and sample of it, and whether it was poisoned. -/
structure TapAt where
  buf : Nat
  tile : Nat
  pos : Nat
  bad : Bool
  deriving DecidableEq, Repr

/-- What is computed for one ray: its link value, whether a tangent was clamped, how much of it was
replaced because it was poisoned (R104, R105), and the taps read for it. -/
structure Ray where
  word : Nat
  clamped : Bool
  poisoned : Nat
  taps : List TapAt
  deriving DecidableEq, Repr

/-- What all rays of one hogel share: its centre, its blended coefficients and offsets where it has
directions, its gains, and whether calibration data were poisoned (R47, R78, R105). -/
structure Hogel where
  x0 : Int
  y0 : Int
  z0 : Int
  coeffs : Option (List Int)
  dtx : Int
  dty : Int
  gain : List Nat
  calPoison : Bool
  deriving DecidableEq, Repr

/-- The hogel in column `c` of band `b` (R47, R53, R78, R95, R105). -/
def State.hogel (s : State) (surf b c : Nat) : Hogel :=
  let w := s.reg .SURF_WIDTH surf
  let h := s.reg .SURF_HEIGHT surf
  let tile := b * (w / 32) + c / 32
  let hog := b * w + c
  let x0 := s.regInt .ORIGIN_X surf + c * s.regInt .PITCH_X surf
  let y0 := s.regInt .ORIGIN_Y surf - b * s.regInt .PITCH_Y surf
  let z0 := s.regInt .ORIGIN_Z surf
  let mapUsed := s.rayMapUsed surf
  let offs := w / 32 * h * 48 + 4 * hog
  let dirBad := mapUsed && (s.calPoisoned 0 surf (48 * tile) 4 12 || s.calPoisoned 0 surf offs 2 2)
  let gainUse := s.gainOn surf
  let gainBad := gainUse && s.calPoisoned 1 surf (8 * hog) 2 4
  let ds := if mapUsed && !dirBad then s.calElems 0 surf offs 2 2 true else [0, 0]
  { x0 := x0, y0 := y0, z0 := z0
    coeffs := if mapUsed && !dirBad then some (s.calElems 0 surf (48 * tile) 4 12 true) else none
    dtx := ds.getD 0 0, dty := ds.getD 1 0
    gain := if gainUse && !gainBad then (s.calElems 1 surf (8 * hog) 2 3 false).map Int.toNat
      else [0x4000, 0x4000, 0x4000]
    calPoison := dirBad || gainBad }

/-- hn and vn of R52 and R79. -/
def normIndex (vCount v h : Nat) : Int × Int :=
  (2 * (h : Int) - 95, if vCount = 12 then 2 * (v : Int) - 11 else 4 * (v : Int) - 10)

/-- One tangent before the clamp (R79) from six coefficients and the hogel's offset. -/
def tangentRaw (c : List Int) (hn vn off : Int) : Int :=
  let k (i : Nat) := c.getD i 0
  let sum := k 1 * hn + k 2 * vn + k 3 * hn * hn + k 4 * hn * vn + k 5 * vn * vn
  k 0 + (sum + 512) / 1024 + off

/-- The clamp of R79. -/
def clampTangent (u : Int) : Int := clampInt (-4194304) 4194303 u

/-- The direction (tx, ty) of a ray and whether a clamp changed it (R79). -/
def Hogel.direction (g : Hogel) (vCount v h : Nat) : Option (Int × Int × Bool) :=
  g.coeffs.map (fun c =>
    let (hn, vn) := normIndex vCount v h
    let ux := tangentRaw (c.take 6) hn vn g.dtx
    let uy := tangentRaw (c.drop 6) hn vn g.dty
    (clampTangent ux, clampTangent uy,
      decide (clampTangent ux ≠ ux) || decide (clampTangent uy ≠ uy)))

/-! ## Texel taps -/

/-- A tap converted to premultiplied linear light (R86, R103): colour per channel and alpha. -/
def convertTap (lut : Nat → Nat) (alphaMode : Nat) : Tap → Layer
  | .transparent => ⟨0, 0, 0, 0⟩
  | .poisoned => ⟨0, 0, 0, 0⟩
  | .texel r g b a =>
    if alphaMode = 2 then ⟨lut r, lut g, lut b, 65535⟩
    else
      let al := (a * 65535 + 511) / 1023
      if alphaMode = 1 then ⟨lut r, lut g, lut b, al⟩
      else ⟨mul16 (lut r) al, mul16 (lut g) al, mul16 (lut b) al, al⟩

/-- Whether a tap is poisoned. -/
def tapPoisoned : Tap → Bool
  | .poisoned => true | .transparent => false | .texel _ _ _ _ => false

/-- The bilinear filter of R87 on one channel. -/
def bilinear (c00 c10 c01 c11 fu fv : Nat) : Nat :=
  let top := c00 * (256 - fu) + c10 * fu
  let bot := c01 * (256 - fu) + c11 * fu
  (top * (256 - fv) + bot * fv + 32768) / 65536

/-- The four converted taps filtered (R87). -/
def filterTaps (t00 t10 t01 t11 : Layer) (fu fv : Nat) : Layer :=
  ⟨bilinear t00.r t10.r t01.r t11.r fu fv, bilinear t00.g t10.g t01.g t11.g fu fv,
    bilinear t00.b t10.b t01.b t11.b fu fv, bilinear t00.a t10.a t01.a t11.a fu fv⟩

/-- An index mapped by an edge mode (R85); `none` is a transparent tap. -/
def edge (mode w : Nat) (i : Int) : Option Nat :=
  if 0 ≤ i ∧ i < w then some i.toNat
  else if mode = 3 then none
  else if i < 0 then some (if mode = 1 then w - 1 else 0)
  else some (if mode = 1 then 0 else w - 1)

/-- i0, j0, fu, fv of R84 from (u, v). -/
def tapIndex (u v : Nat) : Int × Int × Nat × Nat :=
  let us : Int := (u : Int) - 32768
  let vs : Int := (v : Int) - 32768
  (us / 65536, vs / 65536, ((us / 256) % 256).toNat, ((vs / 256) % 256).toNat)

/-- A sample of a 32 × 32-block buffer at (u, v) with edge modes, LUT and alpha rule (R84 to R87),
and the taps read for it. -/
def State.sampleAt (s : State) (buf w h eu ev alphaMode : Nat) (lut : Nat → Nat) (u v : Nat) :
    Layer × List TapAt :=
  let (i0, j0, fu, fv) := tapIndex u v
  let tap (i j : Int) : Tap × List TapAt :=
    match edge eu w i, edge ev h j with
    | some x, some y =>
      let t := s.texel buf w x y
      (t, [⟨buf, texelTile w x y, texelPos x y, tapPoisoned t⟩])
    | _, _ => (.transparent, [])
  let (t00, l00) := tap i0 j0
  let (t10, l10) := tap (i0 + 1) j0
  let (t01, l01) := tap i0 (j0 + 1)
  let (t11, l11) := tap (i0 + 1) (j0 + 1)
  let cv := convertTap lut alphaMode
  (filterTaps (cv t00) (cv t10) (cv t01) (cv t11) fu fv, l00 ++ l10 ++ l01 ++ l11)

/-! ## Plane mode -/

/-- A vector of three exact integers. -/
structure V3 where
  x : Int
  y : Int
  z : Int
  deriving DecidableEq, Repr

/-- The vector product. -/
def V3.cross (a b : V3) : V3 :=
  ⟨a.y * b.z - a.z * b.y, a.z * b.x - a.x * b.z, a.x * b.y - a.y * b.x⟩

/-- The scalar product. -/
def V3.dot (a b : V3) : Int := a.x * b.x + a.y * b.y + a.z * b.z

/-- Corner and edge vectors of plane `p` of a surface (R65); `p` counts over both surfaces. -/
def State.planeVectors (s : State) (p : Nat) : V3 × V3 × V3 :=
  (⟨s.regInt .PL_P0_X p, s.regInt .PL_P0_Y p, s.regInt .PL_P0_Z p⟩,
    ⟨s.regInt .PL_EU_X p, s.regInt .PL_EU_Y p, s.regInt .PL_EU_Z p⟩,
    ⟨s.regInt .PL_EV_X p, s.regInt .PL_EV_Y p, s.regInt .PL_EV_Z p⟩)

/-- The hit of a ray on a WORLD plane (R81): (u, v, zq). -/
def worldHit (o p0 eu ev : V3) (tx ty : Int) (w h : Nat) : Option (Nat × Nat × Int) :=
  let d : V3 := ⟨tx, ty, 1048576⟩
  let rel : V3 := ⟨o.x - p0.x, o.y - p0.y, o.z - p0.z⟩
  let n := eu.cross ev
  let den0 := n.dot d
  if den0 = 0 then none
  else
    let sg : Int := if den0 < 0 then -1 else 1
    let den := sg * den0
    let sn := sg * rel.dot (ev.cross d)
    let tn := sg * rel.dot (d.cross eu)
    let zn := sg * -(rel.dot n)
    if sn < 0 ∨ den ≤ sn ∨ tn < 0 ∨ den ≤ tn then none
    else
      let zq := o.z + zn * 1048576 / den
      if zq < -2147483648 ∨ 2147483647 < zq then none
      else some ((sn * w * 65536 / den).toNat, (tn * h * 65536 / den).toNat, zq)

/-- The point of an overlay at a hogel's centre (R83): (u, v). -/
def overlayHit (x0 y0 : Int) (p0 eu ev : V3) (w h : Nat) : Option (Nat × Nat) :=
  let rx := x0 - p0.x
  let ry := y0 - p0.y
  let den0 := eu.x * ev.y - eu.y * ev.x
  let sg : Int := if den0 < 0 then -1 else 1
  let den := sg * den0
  let sn := sg * (rx * ev.y - ry * ev.x)
  let tn := sg * (eu.x * ry - eu.y * rx)
  if sn < 0 ∨ den ≤ sn ∨ tn < 0 ∨ den ≤ tn then none
  else some ((sn * w * 65536 / den).toNat, (tn * h * 65536 / den).toNat)

/-- A plane's layer at (u, v): filtered, with its opacity applied (R86, R87). -/
def State.planeLayer (s : State) (surf p u v : Nat) : Layer × List TapAt :=
  let (l, n) := s.sampleAt (s.reg .PL_BUFFER p) (s.reg .PL_TEX_W p) (s.reg .PL_TEX_H p)
    (s.reg .PL_EDGE_U p) (s.reg .PL_EDGE_V p) (s.reg .PL_ALPHA p) (s.lut surf (s.reg .PL_IN_LUT p)) u v
  let o := s.reg .PL_OPACITY p
  (⟨mul16 l.r o, mul16 l.g o, mul16 l.b o, mul16 l.a o⟩, n)

/-- The WORLD planes that take part under a stage: under stage 2, slots in order until 8 planes are
kept with the overlays (R100). -/
def State.worldKept (s : State) (surf stage : Nat) : List Nat :=
  if 2 ≤ stage then (s.planes surf 0).take (8 - (s.planes surf 1).length) else s.planes surf 0

/-- Inserts a hit into hits ordered by decreasing zq, equal ones by increasing slot (R82). -/
def insertHit (p : Nat) (u v : Nat) (z : Int) :
    List (Nat × Nat × Nat × Int) → List (Nat × Nat × Nat × Int)
  | [] => [(p, u, v, z)]
  | (p', u', v', z') :: hs =>
    if z' < z then (p, u, v, z) :: (p', u', v', z') :: hs
    else (p', u', v', z') :: insertHit p u v z hs

/-- The layers of a ray still to be read, in order: overlays, world hits, views, direct sample. -/
inductive Source where
  | plane (p u v : Nat)
  | view (u v k : Nat) (k1 : Option Nat) (w : Nat)
  | direct (tile pos : Nat)
  deriving DecidableEq, Repr

/-- Overlay sources of a hogel, the lowest slot first (R83). -/
def State.overlaySources (s : State) (surf : Nat) (g : Hogel) : List Source :=
  (s.planes surf 1).filterMap (fun slot =>
    let p := 16 * surf + slot
    let (p0, eu, ev) := s.planeVectors p
    (overlayHit g.x0 g.y0 p0 eu ev (s.reg .PL_TEX_W p) (s.reg .PL_TEX_H p)).map
      (fun (u, v) => .plane p u v))

/-- World-plane sources of a ray in decreasing zq (R81, R82). -/
def State.worldSources (s : State) (surf stage : Nat) (g : Hogel) (tx ty : Int) : List Source :=
  ((s.worldKept surf stage).foldl (fun hs slot =>
    let p := 16 * surf + slot
    let (p0, eu, ev) := s.planeVectors p
    match worldHit ⟨g.x0, g.y0, g.z0⟩ p0 eu ev tx ty (s.reg .PL_TEX_W p) (s.reg .PL_TEX_H p) with
    | none => hs
    | some (u, v, z) => insertHit p u v z hs) []).map (fun (p, u, v, _) => .plane p u v)

/-! ## View-set mode -/

/-- BUFFER and KEY of view entry `k` (R71). -/
def State.viewBuffer (s : State) (surf k : Nat) : Nat := blobGet (s.reg .VS_TABLE surf) (8 * k + 4) 2
/-- KEY of view entry `k` (R71). -/
def State.viewKey (s : State) (surf k : Nat) : Int := asInt 32 (blobGet (s.reg .VS_TABLE surf) (8 * k) 4)

/-- The views chosen for a key and their weight (R92). -/
def State.bracket (s : State) (surf : Nat) (key : Int) : Nat × Option Nat × Nat :=
  let m := s.reg .VS_COUNT surf
  if m = 1 ∨ key < s.viewKey surf 0 then (0, none, 0)
  else if s.viewKey surf (m - 1) ≤ key then (m - 1, none, 0)
  else
    let k := ((List.range (m - 1)).find? (fun k =>
      decide (s.viewKey surf k ≤ key) && decide (key < s.viewKey surf (k + 1)))).getD 0
    let lo := s.viewKey surf k
    let hi := s.viewKey surf (k + 1)
    (k, some (k + 1), ((key - lo) * 256 / (hi - lo)).toNat)

/-- The view source of a ray, if its line meets the window (R91, R92). -/
def State.viewSource (s : State) (surf : Nat) (g : Hogel) (tx ty : Int) : List Source :=
  let ww := s.regInt .VS_WIN_W surf
  let wh := s.regInt .VS_WIN_H surf
  let dz := s.regInt .VS_WIN_Z surf - g.z0
  let nx := (g.x0 - s.regInt .VS_WIN_X surf) * 1048576 + tx * dz
  let ny := (s.regInt .VS_WIN_Y surf - g.y0) * 1048576 - ty * dz
  if nx < 0 ∨ ww * 1048576 ≤ nx ∨ ny < 0 ∨ wh * 1048576 ≤ ny then []
  else
    let u := (nx * (s.reg .VS_PIX_W surf) * 65536 / (ww * 1048576)).toNat
    let v := (ny * (s.reg .VS_PIX_H surf) * 65536 / (wh * 1048576)).toNat
    let key := if s.reg .VS_CAMERA surf = 0 then tx
      else clampInt (-2147483648) 2147483647
        ((g.x0 * 1048576 + tx * (s.regInt .VS_RAIL_Z surf - g.z0)) / 1048576)
    let (k, k1, w) := s.bracket surf key
    [.view u v k (if w = 0 then none else k1) w]

/-- One view's sample (R93). -/
def State.viewSample (s : State) (surf k u v : Nat) : Layer × List TapAt :=
  s.sampleAt (s.viewBuffer surf k) (s.reg .VS_PIX_W surf) (s.reg .VS_PIX_H surf) 0 0 2
    (s.lut surf (s.reg .VS_IN_LUT surf)) u v

/-- Two view samples blended (R93). -/
def blendViews (a b : Layer) (w : Nat) : Layer :=
  let m (x y : Nat) := (x * (256 - w) + y * w + 128) / 256
  ⟨m a.r b.r, m a.g b.g, m a.b b.b, m a.a b.a⟩

/-! ## Layers and compositing -/

/-- The layer of a source and the taps read for it. -/
def State.layerOf (s : State) (surf : Nat) : Source → Layer × List TapAt
  | .plane p u v => s.planeLayer surf p u v
  | .view u v k none _ => s.viewSample surf k u v
  | .view u v k (some k1) w =>
    let (a, n) := s.viewSample surf k u v
    let (b, m) := s.viewSample surf k1 u v
    (blendViews a b w, n ++ m)
  | .direct tile pos =>
    let t := s.readTap (s.reg .DR_BUFFER surf) [if s.reg .DR_V_COUNT surf = 12 then 2 else 3] tile pos
    (convertTap (s.lut surf (s.reg .DR_IN_LUT surf)) 2 t,
      [⟨s.reg .DR_BUFFER surf, tile, pos, tapPoisoned t⟩])

/-- The compositing loop of R88: colour so far, transmittance, and the taps read so far. A layer is
read only while the loop runs (R90). -/
def State.composite (s : State) (surf : Nat) :
    List Source → (Nat × Nat × Nat) → Nat → List TapAt → (Nat × Nat × Nat) × List TapAt
  | [], (r, g, b), t, n =>
    let m (c bg : Nat) := c + (bg * t + 32768) / 65536
    ((m r (s.reg .BG_R surf), m g (s.reg .BG_G surf), m b (s.reg .BG_B surf)), n)
  | src :: rest, (r, g, b), t, n =>
    let (l, k) := s.layerOf surf src
    let m (c x : Nat) := c + (x * t + 32768) / 65536
    let a17 := if l.a = 65535 then 65536 else l.a
    let t' := (t * (65536 - a17) + 32768) / 65536
    if t' < s.reg .SYN_ET_T surf then ((m r l.r, m g l.g, m b l.b), n ++ k)
    else s.composite surf rest (m r l.r, m g l.g, m b l.b) t' (n ++ k)

/-- The layers of one ray in order (R75): stage 2 drops planes (R100); a hogel without directions
has overlays only (R105). -/
def State.raySources (s : State) (surf stage b c v h : Nat) (g : Hogel) : List Source × Bool :=
  if !s.hasScene surf then ([], false)
  else if s.reg .SURF_MODE surf = 2 then
    ([.direct (b * s.reg .SURF_WIDTH surf + c) (v * 96 + h)], false)
  else
    let laid := s.overlaySources surf g
    match g.direction (s.reg .V_COUNT surf) v h with
    | none => (laid, false)
    | some (tx, ty, cl) =>
      (laid ++ (if s.reg .SURF_MODE surf = 1 then s.viewSource surf g tx ty
        else s.worldSources surf stage g tx ty), cl)

/-! ## The colour pipeline -/

/-- Gain (R95). -/
def applyGain (l g : Nat) : Nat := min 65535 ((l * g + 8192) / 16384)

/-- Output transfer (R96) with output LUT entries `e`. -/
def outputTransfer (e : Nat → Nat) (l : Nat) : Int :=
  let i := l / 16
  let f := l % 16
  if i < 4095 then (e i : Int) + (((e (i + 1) : Int) - e i) * f + 8) / 16
  else (e 4095 : Int) + (((e 4096 : Int) - e 4095) * f + 7) / 15

/-- The dither value D at ray-line position X, ray-line index Y, channel ch and frame offset F
(R97); `mode` is SYN_DITHER. -/
def ditherValue (mode x y ch f : Nat) : Nat :=
  if mode = 2 then 32
  else
    let fx := if mode = 0 then f % 8 else 0
    let fy := if mode = 0 then f / 8 % 8 else 0
    let px := (x + fx + 3 * ch) % 8
    let py := (y + fy + 5 * ch) % 8
    let p := px ^^^ py
    (p % 2) * 32 + (py % 2) * 16 + (p / 2 % 2) * 8 + (py / 2 % 2) * 4 + (p / 4 % 2) * 2 + py / 4 % 2

/-- One channel's link code from its linear value, gain and dither (R89, R95 to R97). -/
def linkCode (e : Nat → Nat) (l g d : Nat) : Nat :=
  min 1023 (((outputTransfer e (applyGain (min l 65535) g)).toNat + d) / 64)

/-- The ray (b, c, v, h) of a surface under a stage (R75 to R105): its link value (R98). -/
def State.ray (s : State) (surf stage frame b c v h : Nat) (g : Hogel) : Ray :=
  let (srcs, cl) := s.raySources surf stage b c v h g
  let ((lr, lg, lb), n) := s.composite surf srcs (0, 0, 0) 65536 []
  let x := c * 96 + h
  let y := b * s.reg .V_COUNT surf + v
  let e := s.lut surf (8 + s.reg .OUT_LUT_SEL surf)
  let code (ch l : Nat) :=
    linkCode e l (g.gain.getD ch 0x4000) (ditherValue (s.reg .SYN_DITHER surf) x y ch (frame % 64))
  ⟨code 0 lr * 1048576 + code 1 lg * 1024 + code 2 lb, cl,
    (n.filter TapAt.bad).length + (if g.calPoison then 1 else 0), n⟩

/-- The rays of a tile for one vertical direction: 32 hogels of 96 rays each, in scan order. -/
def State.tileLine (s : State) (surf stage frame b t v : Nat) : List Ray :=
  (List.range 32).flatMap (fun k =>
    let g := s.hogel surf b (32 * t + k)
    (List.range 96).map (fun h => s.ray surf stage frame b (32 * t + k) v h g))

/-- The ray lines of a tile: under stage 1 and above an odd direction takes the values of the even
one before it, and only computed rays count (R99). -/
def State.tileLines (s : State) (surf stage frame b t : Nat) : List (List Ray) :=
  (List.range (s.reg .V_COUNT surf)).map (fun v =>
    if 1 ≤ stage ∧ v % 2 = 1 then
      (s.tileLine surf stage frame b t (v - 1)).map (fun r => ⟨r.word, false, 0, []⟩)
    else s.tileLine surf stage frame b t v)

end Sys2Proof.Machine
end

