-- ==== Sys2Proof/Machine/Admission.lean ====
section
/-! DEFINITION. Admission (04_hazel_array.md, R115 to R125; R46, R58, R74 of 02_scene_model.md; R193
of 06_stream_ingest.md): capacity, budgets, the cost model, the checks on scene objects and the
reservation. Every function reads a candidate state: the state a commit would bring into force. -/
namespace Sys2Proof.Machine

/-! ## Rates -/

/-- The frame period P of a rate code in 1/3 ns (R207). -/
def ratePeriod3 : Nat → Nat
  | 0 => 125125000 | 1 => 125000000 | 2 => 120000000 | 3 => 100100000 | 4 => 100000000
  | 5 => 62562500 | 6 => 62500000 | 7 => 60000000 | 8 => 50050000 | 9 => 50000000
  | 10 => 30000000 | 11 => 25025000 | _ => 25000000

/-- Ray lines per band of a rate code (R207). -/
def rateLines (r : Nat) : Nat := if r < 10 then 12 else 6

/-- The class of a rate code (R207). -/
def rateClass : Nat → Nat
  | 0 => 0 | 1 => 0 | 2 => 1 | 3 => 2 | 4 => 2 | 5 => 3 | 6 => 3 | 7 => 4 | 8 => 5 | 9 => 5
  | 10 => 6 | _ => 7

/-- The generator that times a surface. -/
def State.genOf (s : State) (surf : Nat) : Nat := s.reg .SO_LAST_GEN surf

/-- The rate code in force on a surface. -/
def State.rateOf (s : State) (surf : Nat) : Nat := s.reg .LAST_RATE (s.genOf surf)

/-- Vertical directions of a surface: L of its rate (R207). -/
def State.vCount (s : State) (surf : Nat) : Nat := rateLines (s.rateOf surf)

/-- Raster positions N of a frame (R209). -/
def State.rasterN (s : State) (surf : Nat) : Nat := 24 + s.reg .SURF_HEIGHT surf

/-- The band period in whole ns, rounded down (R115, R209). -/
def State.bandNs (s : State) (surf : Nat) : Nat :=
  ratePeriod3 (s.rateOf surf) / (3 * s.rasterN surf)

/-- The ray-line period in whole ps, rounded down (R209, R213). -/
def State.linePs (s : State) (surf : Nat) : Nat :=
  ratePeriod3 (s.rateOf surf) * 1000 / (3 * s.rasterN surf * s.vCount surf)

/-! ## Capacity -/

/-- Four measures in the order OPS, SAMPLES, DECODE, BYTES. -/
structure Measures where
  ops : Nat
  samp : Nat
  dec : Nat
  bytes : Nat
  deriving DecidableEq, Repr

/-- The measures as a list, in the order of R123. -/
def Measures.toList (m : Measures) : List Nat := [m.ops, m.samp, m.dec, m.bytes]

/-- HZ cycles per band (R115): 1,592 MHz while down-spread is enabled or pending on HZ. -/
def State.cBand (s : State) (surf : Nat) : Nat :=
  let f := if s.hzSpread then 1592 else 1600
  s.bandNs surf * f / 1000

/-- Unfenced engines of a cluster. -/
def State.engines (s : State) (n : Nat) : Nat := 16 - popCount 16 (s.reg .CL_FENCED n)

/-- The clusters that count in R116: those in state ACTIVE. -/
def State.activeClusters (s : State) : List Nat :=
  (List.range 16).filter (fun n => s.reg .CL_STATE n == 0)

/-- The capacity of `engines` engines in `clusters` clusters (R116). -/
def State.capacityOf (s : State) (surf engines clusters : Nat) : Measures :=
  ⟨engines * 64 * s.cBand surf, clusters * 96 * s.cBand surf, clusters * 32 * s.cBand surf,
    s.reg .HZ_BYTES_NS 0 * s.bandNs surf⟩

/-- Whether a program swap runs (R129, R131); HZ_SWAP_STATE shows REFUSED once a write was refused meanwhile. -/
def State.swapRuns (s : State) : Bool := s.reg .iSWAP_SLOT 0 != 0xFF

/-- Engines and clusters that count: those in ACTIVE clusters; while a swap runs, the cluster being
swapped counts as a member and the one with the most unfenced engines is taken off (R129). -/
def State.arraySize (s : State) (fewer : Bool) : Nat × Nat :=
  let members := s.activeClusters ++
    (if s.swapRuns = true ∧ s.reg .HZ_SWAP_CLUSTER 0 < 16 then [s.reg .HZ_SWAP_CLUSTER 0]
      else [])
  let es := members.map s.engines
  if fewer || s.swapRuns then (es.sum - es.foldl max 0, es.length - 1)
  else (es.sum, es.length)

/-- The share of a surface (R117). -/
def State.share (s : State) (surf : Nat) : Nat :=
  if surf = 0 then s.reg .HZ_SHARE_A 0 else 256 - s.reg .HZ_SHARE_A 0

/-- The budgets of a surface (R117). -/
def State.budgets (s : State) (surf : Nat) (fewer : Bool) : Measures :=
  let (e, k) := s.arraySize fewer
  let c := s.capacityOf surf e k
  let sh := s.share surf
  ⟨c.ops * sh / 256, c.samp * sh / 256, c.dec * sh / 256, c.bytes * sh / 256⟩

/-- The lane-operation constants in force (R130): of the slots that clusters run, the larger of each
while a swap runs or the slots differ. -/
def State.kConst (s : State) (both : Bool) (j : Nat) : Nat :=
  let k (p : Nat) := blobGet (s.reg .PG_K p) (2 * j) 2
  let runs (p : Nat) := (List.range 16).any (fun n => s.reg .CL_PROG_SLOT n == p)
  if both || s.swapRuns then max (k 0) (k 1)
  else max (if runs 0 then k 0 else 0) (if runs 1 then k 1 else 0)

/-! ## Reach and texel rows -/

/-- Instance of the stored reach of a ray-map slot: TYLO and TYHI of direction `v` at a V_COUNT. -/
def tyIx (slot vCount v hi : Nat) : Nat := slot * 64 + (if vCount = 12 then 0 else 32) + 2 * v + hi

/-- ty of every hogel and h of a point of a ray-map set, direction `v`, folded by `f` (R119). -/
def State.foldTy (s : State) (slot w h vCount v point : Nat) (f : Int → Int → Int) (a0 : Int) : Int :=
  let base := s.reg .CAL_BASE slot + point * calPointSize 0 w h
  forN h a0 (fun a b => forN w a (fun a c =>
    let tile := base + 48 * (b * (w / 32) + c / 32)
    let cy := (List.range 6).map (fun j => asInt 32 (s.word (tile + 24 + 4 * j) 4))
    let dty := asInt 16 (s.word (base + w / 32 * h * 48 + 4 * (b * w + c) + 2) 2)
    forN 96 a (fun a hh =>
      let (hn, vn) := normIndex vCount v hh
      f a (clampTangent (tangentRaw cy hn vn dty)))))

/-- TYLO(v) and TYHI(v) of a slot are computed when it becomes VALID (R119). -/
def State.computeReach (s : State) (slot w h : Nat) : State :=
  [12, 6].foldl (fun t vc => forN vc t (fun t v =>
    let lo := (List.range 3).foldl (fun a p => s.foldTy slot w h vc v p min a) 4194303
    let hi := (List.range 3).foldl (fun a p => s.foldTy slot w h vc v p max a) (-4194304)
    (t.setRegInt .iTY (tyIx slot vc v 0) (lo - 16)).setRegInt .iTY (tyIx slot vc v 1) (hi + 16))) s

/-- The vertical reach [Ylo, Yhi] of direction `v` of band `b` at heights zmin to zmax (R120). -/
def State.reachY (s : State) (surf b v : Nat) (zmin zmax : Int) : Int × Int :=
  let slot := s.calSel 0 surf
  let vc := s.vCount surf
  let y0 := s.regInt .ORIGIN_Y surf - b * s.regInt .PITCH_Y surf
  let z0 := s.regInt .ORIGIN_Z surf
  let tlo := s.regInt .iTY (tyIx slot vc v 0)
  let thi := s.regInt .iTY (tyIx slot vc v 1)
  let ps := [tlo * (zmin - z0), tlo * (zmax - z0), thi * (zmin - z0), thi * (zmax - z0)]
  let mn := ps.foldl min (ps.headD 0)
  let mx := ps.foldl max (ps.headD 0)
  (y0 + mn / 1048576, y0 - (-mx) / 1048576)

/-- The row ranges touched in a source with rows found by `j`, over the directions that reach
[ymin, ymax] (R120, R121). -/
def State.rowRanges (s : State) (surf b : Nat) (ymin ymax zmin zmax : Int) (h : Nat) (j : Int → Int) :
    List (Nat × Nat) :=
  (List.range (s.vCount surf)).filterMap (fun v =>
    let (lo, hi) := s.reachY surf b v zmin zmax
    if lo ≤ ymax ∧ ymin ≤ hi then
      let ja := j (max lo ymin)
      let jb := j (min hi ymax)
      some ((clampInt 0 (h - 1) (min ja jb - 1)).toNat, (clampInt 0 (h - 1) (max ja jb + 1)).toNat)
    else none)

/-- Distinct rows and distinct block rows of a list of ranges (R121). -/
def countRows (h : Nat) (rs : List (Nat × Nat)) : Nat × Nat :=
  let hit (j : Nat) := rs.any (fun r => decide (r.1 ≤ j) && decide (j ≤ r.2))
  (((List.range h).filter hit).length,
    ((List.range (ceilDiv h 32)).filter (fun q =>
      (List.range 32).any (fun k => decide (32 * q + k < h) && hit (32 * q + k)))).length)

/-- A source of the cost model in one band: whether the band reaches it, its row counts, its width in
block columns, its buffer. -/
structure CostSource where
  reached : Bool
  rows : Nat
  blockRows : Nat
  cols : Nat
  buffer : Nat
  deriving DecidableEq, Repr

/-- A WORLD plane as a source in band `b` (R120, R121). -/
def State.worldCost (s : State) (surf b p : Nat) : CostSource :=
  let (p0, eu, ev) := s.planeVectors p
  let ys := [p0.y, p0.y + eu.y, p0.y + ev.y, p0.y + eu.y + ev.y]
  let zs := [p0.z, p0.z + eu.z, p0.z + ev.z, p0.z + eu.z + ev.z]
  let h := s.reg .PL_TEX_H p
  let rs := s.rowRanges surf b (ys.foldl min p0.y) (ys.foldl max p0.y) (zs.foldl min p0.z)
    (zs.foldl max p0.z) h (fun y => ((y - p0.y) * h).fdiv ev.y)
  let (tr, br) :=
    if eu.y = 0 ∧ ev.y ≠ 0 then countRows h rs
    else if rs.isEmpty then (0, 0) else (h, ceilDiv h 32)
  ⟨!rs.isEmpty, tr, br, ceilDiv (s.reg .PL_TEX_W p) 32, s.reg .PL_BUFFER p⟩

/-- An overlay as a source: 2 rows and 2 block rows in every band (R121). -/
def State.overlayCost (s : State) (p : Nat) : CostSource :=
  ⟨true, 2, 2, ceilDiv (s.reg .PL_TEX_W p) 32, s.reg .PL_BUFFER p⟩

/-- The views as sources in band `b`, each against the window's rows (R120 to R122). -/
def State.viewCosts (s : State) (surf b : Nat) : List CostSource :=
  let wy := s.regInt .VS_WIN_Y surf
  let wh := s.regInt .VS_WIN_H surf
  let z := s.regInt .VS_WIN_Z surf
  let h := s.reg .VS_PIX_H surf
  let rs := s.rowRanges surf b (wy - wh) wy z z h (fun y => ((wy - y) * h).fdiv wh)
  let (tr, br) := countRows h rs
  (List.range (s.reg .VS_COUNT surf)).map (fun k =>
    ⟨!rs.isEmpty, tr, br, ceilDiv (s.reg .VS_PIX_W surf) 32, s.viewBuffer surf k⟩)

/-- MAXB of the FRONT bank of a buffer. -/
def State.frontMaxB (s : State) (n : Nat) : Nat :=
  match s.bankOf n 0 with
  | some k => s.reg .iBK_MAXB (bankIx n k)
  | none => 0

/-- Decoder samples a source is charged (R122): coded sources with a FRONT bank. -/
def State.decCost (s : State) (c : CostSource) : Nat :=
  if s.reg .BUF_STORE c.buffer = 0 ∧ s.bankOf c.buffer 0 ≠ none ∧ c.reached then
    1024 * c.cols * c.blockRows else 0

/-- Central-store bytes a source is charged (R122). -/
def State.byteCost (s : State) (c : CostSource) : Nat :=
  if s.bankOf c.buffer 0 = none ∨ c.reached = false then 0
  else if s.reg .BUF_STORE c.buffer = 1 then 160 * c.cols * c.rows
  else s.frontMaxB c.buffer * c.cols * c.blockRows

/-- CAL of R122. -/
def State.calCost (s : State) (surf : Nat) : Nat :=
  let w := s.reg .SURF_WIDTH surf
  (if s.rayMapUsed surf then 2 * (w / 32 * 48 + w * 4) else 0)
    + (if s.reg .CAL_GAIN_BYPASS surf = 0 then 2 * w * 8 else 0)

/-- The cost of band `b` (R122); a state without scene objects costs nothing (R492). `both` takes the
larger of each K constant of the two program slots. -/
def State.bandCost (s : State) (surf : Nat) (both : Bool) (b : Nat) : Measures :=
  if !s.hasScene surf then ⟨0, 0, 0, 0⟩
  else
    let w := s.reg .SURF_WIDTH surf
    let rc := w * 96 * s.vCount surf
    let laid := (s.planes surf 1).map (fun p => s.overlayCost (16 * surf + p))
    let no := laid.length
    let k := s.kConst both
    let charge (src : List CostSource) : Nat × Nat :=
      ((src.map s.decCost).sum, (src.map s.byteCost).sum + s.calCost surf)
    if s.reg .SURF_MODE surf = 2 then
      let n := s.reg .DR_BUFFER surf
      if s.bankOf n 0 = none then ⟨rc * k 2, 0, 0, s.calCost surf⟩
      else ⟨rc * k 2, 0, rc, s.frontMaxB n * w + s.calCost surf⟩
    else if s.reg .SURF_MODE surf = 1 then
      let (d, y) := charge (s.viewCosts surf b ++ laid)
      ⟨rc * (k 1 + k 4 * no), rc * 2 + w * no, d, y⟩
    else
      let world := (s.planes surf 0).map (fun p => s.worldCost surf b (16 * surf + p))
      let nw := (world.filter (fun c => c.reached)).length
      let (d, y) := charge (world ++ laid)
      ⟨rc * (k 0 + k 3 * nw + k 4 * no), rc * nw + w * no, d, y⟩

/-- The worst band of one measure: its cost and the lowest band that has it. -/
def worst (f : Nat → Nat) (h : Nat) : Nat × Nat :=
  forN h (0, 0) (fun m b => if m.1 < f b then (f b, b) else m)

/-- The cost of a state on a surface: the worst band of each measure, with that band (R122). -/
def State.surfaceCost (s : State) (surf : Nat) (both : Bool) : List (Nat × Nat) :=
  let costs := (List.range (s.reg .SURF_HEIGHT surf)).map (s.bandCost surf both)
  let at_ (f : Measures → Nat) := worst (fun b => ((costs[b]?).map f).getD 0) (s.reg .SURF_HEIGHT surf)
  [at_ Measures.ops, at_ Measures.samp, at_ Measures.dec, at_ Measures.bytes]

/-- Reasons of ADM_LAST_REASON (R137). -/
inductive Reason where
  | ops | samples | decode | bytes | power | geometry | cal | count | mode | format | capacity
  deriving DecidableEq, Repr

/-- Codes of ADM_LAST_REASON; 11 is CAPACITY (R133). -/
def Reason.code : Reason → Nat
  | .ops => 1 | .samples => 2 | .decode => 3 | .bytes => 4 | .power => 5 | .geometry => 6
  | .cal => 7 | .count => 8 | .mode => 9 | .format => 10 | .capacity => 11

/-- The first measure, in the order of R123, whose cost exceeds 95 % of its budget: its index. -/
def overBudget (costs budgets : List Nat) : Option Nat :=
  (List.range 4).find? (fun m => decide (95 * budgets.getD m 0 < 100 * costs.getD m 0))

/-- The reason of a failing measure. -/
def measureReason : Nat → Reason
  | 0 => .ops | 1 => .samples | 2 => .decode | _ => .bytes

/-- The reservation of costs on a surface (R125). -/
def State.reservation (s : State) (surf : Nat) (costs : List Nat) : Nat :=
  let cap := s.capacityOf surf 256 16
  48 + ceilDiv (240 * costs.getD 0 0) cap.ops + ceilDiv (64 * costs.getD 1 0) cap.samp
    + ceilDiv (48 * costs.getD 2 0) cap.dec + ceilDiv (80 * costs.getD 3 0) cap.bytes

/-! ## Checks on scene objects (R74) -/

/-- The buffers a surface's scene names (R177, R193). -/
def State.namedBuffers (s : State) (surf : Nat) : List Nat :=
  if !s.hasScene surf then []
  else
    let laid := (s.planes surf 1).map (fun p => s.reg .PL_BUFFER (16 * surf + p))
    match s.reg .SURF_MODE surf with
    | 0 => laid ++ (s.planes surf 0).map (fun p => s.reg .PL_BUFFER (16 * surf + p))
    | 1 => laid ++ (List.range (s.reg .VS_COUNT surf)).map (s.viewBuffer surf)
    | _ => [s.reg .DR_BUFFER surf]

/-- COUNT of R74. -/
def State.countBad (s : State) (surf : Nat) : Bool :=
  (s.reg .SURF_MODE surf == 0 && decide (16 < (s.planes surf 0).length + (s.planes surf 1).length))
    || decide (4 < (s.planes surf 1).length)

/-- MODE of R74. -/
def State.modeBad (s : State) (surf : Nat) : Bool :=
  (s.reg .SURF_MODE surf == 1 && !(s.planes surf 0).isEmpty)
    || (s.reg .SURF_MODE surf == 2 && !((s.planes surf 0).isEmpty && (s.planes surf 1).isEmpty))

/-- Whether a position lies in the Q23.8 range. -/
def inPosRange (x : Int) : Bool := decide (-2147483648 ≤ x) && decide (x ≤ 2147483647)

/-- The condition of R46: a hogel centre outside the Q23.8 range. -/
def State.centresBad (s : State) (surf : Nat) : Bool :=
  let xl := s.regInt .ORIGIN_X surf + (s.reg .SURF_WIDTH surf - 1 : Nat) * s.regInt .PITCH_X surf
  let yl := s.regInt .ORIGIN_Y surf - (s.reg .SURF_HEIGHT surf - 1 : Nat) * s.regInt .PITCH_Y surf
  !(inPosRange xl && inPosRange yl)

/-- GEOMETRY of R74. Its overlay condition, "EU or EV has a non-zero x–y cross product of 0", is read as the x–y
cross product of EU and EV being 0: a DESIGN CHOICE (log 88), since the words give no other sense. -/
def State.geometryBad (s : State) (surf : Nat) : Bool :=
  (s.planes surf 0 ++ s.planes surf 1).any (fun p =>
    let (_, eu, ev) := s.planeVectors (16 * surf + p)
    decide (eu.cross ev = ⟨0, 0, 0⟩))
  || (s.planes surf 1).any (fun p =>
    let (_, eu, ev) := s.planeVectors (16 * surf + p)
    eu.x * ev.y - eu.y * ev.x == 0)
  || (s.reg .SURF_MODE surf == 1 && (s.regInt .VS_WIN_W surf == 0 || s.regInt .VS_WIN_H surf == 0
    || (List.range (s.reg .VS_COUNT surf - 1)).any (fun k =>
      decide (s.viewKey surf (k + 1) ≤ s.viewKey surf k))
    || (s.reg .VS_CAMERA surf == 1 && decide (s.regInt .VS_RAIL_Z surf ≤ s.regInt .VS_WIN_Z surf))))
  || s.centresBad surf

/-- Whether a buffer fits its use: kind, FORMAT and dimensions (R74, R177, R193). -/
def State.bufferFits (s : State) (n kind w h : Nat) (formats : List Nat) : Bool :=
  s.reg .BUF_KIND n == kind && formats.contains (s.reg .BUF_FORMAT n) && s.reg .BUF_WIDTH n == w
    && s.reg .BUF_HEIGHT n == h

/-- The buffers of a surface's scene that do not fit. -/
def State.formatBad (s : State) (surf : Nat) : Bool :=
  let planeBad (p : Nat) := !(s.bufferFits (s.reg .PL_BUFFER (16 * surf + p)) 1
    (s.reg .PL_TEX_W (16 * surf + p)) (s.reg .PL_TEX_H (16 * surf + p)) [0, 1])
  match s.reg .SURF_MODE surf with
  | 0 => (s.planes surf 0 ++ s.planes surf 1).any planeBad
  | 1 => (s.planes surf 1).any planeBad || (List.range (s.reg .VS_COUNT surf)).any (fun k =>
      !(s.bufferFits (s.viewBuffer surf k) 2 (s.reg .VS_PIX_W surf) (s.reg .VS_PIX_H surf) [0, 1]))
  | _ => !(s.reg .DR_V_COUNT surf == s.vCount surf)
      || !(s.bufferFits (s.reg .DR_BUFFER surf) 3 (s.reg .SURF_WIDTH surf) (s.reg .SURF_HEIGHT surf)
        [if s.vCount surf = 12 then 2 else 3])

/-- A slot that is used and not VALID for the geometry (R58). -/
def State.slotBad (s : State) (kind surf : Nat) : Bool :=
  let i := s.calSel kind surf
  !(s.reg .CAL_STATE i == 2 && s.reg .CAL_WIDTH i == s.reg .SURF_WIDTH surf
    && s.reg .CAL_HEIGHT i == s.reg .SURF_HEIGHT surf)

/-- CAL of R74. -/
def State.calBad (s : State) (surf : Nat) : Bool :=
  (s.rayMapUsed surf && s.slotBad 0 surf)
    || (s.reg .CAL_GAIN_BYPASS surf == 0 && s.slotBad 1 surf)

/-- The checks of R74 on a candidate state in the order of the table; `names` are the buffers the commit
names, `others` those that the other surface names in force or by an accepted commit (R193). -/
def State.sceneFault (s : State) (surf : Nat) (names others : List Nat) : Option Reason :=
  if s.countBad surf then some .count
  else if s.modeBad surf then some .mode
  else if s.geometryBad surf then some .geometry
  else if s.formatBad surf || names.any others.contains then some .format
  else if s.calBad surf then some .cal
  else none

end Sys2Proof.Machine
end

