-- ==== Sys2Proof/Machine/CentralStore.lean ====
section
/-! DEFINITION. The commands of the central store (09_central_store.md): requests, write-backs, the
initialisation sweep, refresh, retraining, scrubbing, protection windows and frozen masters. -/
namespace Sys2Proof.Machine

/-- The outcome of a step of this block. -/
abbrev Out := Host.Outcome State Fault Refusal

/-- The oldest waiting write-back is issued on the SCRUB port, or dropped and counted when a write to its
word was accepted after the read that found the error (R299); a channel that does not serve lets it wait
(R296). -/
def State.writeBack (s : State) : State :=
  match s.writeBacks with
  | [] => s
  | b :: rest =>
    let s1 := { s with writeBacks := rest }
    let a := 32 * b.word
    if b.superseded then s1.bump .MS_WB_DROPPED 0
    else if !s.rangeServed a 32 then s
    else
      let s2 := ((s1.serve .scrub 32).move (addrCtrl a) 32).activate a
      if b.poison then s2.markPoison b.word else s2

/-- CORRECTED_WRITE_BACK (R299). -/
def execCorrectedWriteBack (seen : Seen) (s : State) : Out := .next ((s.see seen).writeBack.see s.seen)

/-! ## Initialisation sweep -/

/-- The local rows that a burst sweeps in pseudo-channel `p`: the next 256, those already marked left out
(R279, R280). -/
def State.sweepRows (s : State) (p : Nat) : Nat :=
  let lo := 786432 * p + s.reg .iSWEEP p
  let hi := 786432 * p + min 786432 (s.reg .iSWEEP p + 256)
  (hi - lo) - (s.rowsAhead.filter (fun r => decide (lo ≤ r) && decide (r < hi))).length

/-- The sweep's writes of controller `c` in one burst: whole rows of 1 KiB on the SCRUB port (R281). -/
def State.sweepWrites (s : State) (c : Nat) : Nat := s.sweepRows (2 * c) + s.sweepRows (2 * c + 1)

/-- The next 256 local rows of every pseudo-channel are swept (R279, R281); when every one has
completed, MS_INIT_STATE reads DONE and the maps are discarded. -/
def State.sweep (s : State) : State :=
  let rows := (List.range 32).map s.sweepWrites
  let s0 := (s.serveAll .scrub (1024 * rows.sum)).closeRows
  let s1 := forN 32 s0 (fun t c => (t.move c (1024 * rows.getD c 0)).activateRows c (rows.getD c 0))
  let s2 := forN 64 s1 (fun t p => t.setReg .iSWEEP p (min 786432 (t.reg .iSWEEP p + 256)))
  if (List.range 64).all (fun p => decide (786432 ≤ s2.reg .iSWEEP p)) then
    { s2.setReg .MS_INIT_STATE 0 1 with rowsAhead := [] }
  else s2

/-- SWEEP_BURST (R281): the sweep asks for its grant, or with the grant held sweeps one burst and
returns it; channels that do not serve hold it up (R296). -/
def execSweepBurst (seen : Seen) (s : State) : Out :=
  if s.reg .MS_INIT_STATE 0 = 1 then .next s
  else if s.granted .sweepBurst then
    if s.storeServes then .next (((s.see seen).sweep.release .sweepBurst).see s.seen) else .next s
  else .next (s.request .sweepBurst)

/-! ## Refresh, temperature, neighbours -/

/-- REFRESH (R292): the next bank of a pseudo-channel is refreshed, which closes only that bank. -/
def execRefresh (pc : Fin 64) (s : State) : Out :=
  let b := s.reg .iREF_BANK pc.val
  let s1 : State := { s with banks := { s.banks with
    rows := Sparse.erase s.banks.rows (pc.val * 64 + b % 64) } }
  .next ((s1.setReg .iREF_BANK pc.val ((b + 1) % 64)).bump .iREF_COUNT pc.val)

/-- The 16 controllers of a stack take a refresh state. -/
def State.setRefresh (s : State) (stack v : Nat) : State :=
  forN 16 s (fun t c => t.setReg .CH_REFRESH (stack * 16 + c) v)

/-- STACK_TEMP_READ (R293): the stack's temperature is published; above 85 °C the refresh rate is
doubled and HBM_HOT raised; after 250 ms at 82 °C or less the normal rate returns. -/
def execStackTempRead (stack : Fin 2) (temp : BitVec 16) (s : State) : Out :=
  let n := stack.val
  let s1 := forN 16 s (fun t c => t.setReg .CH_TEMP (n * 16 + c) temp.toNat)
  let q := temp.toInt
  if bit (s1.reg .MS_HOT 0) n then
    if q ≤ 82 * 16 then
      if s1.reg .iHOT_SINCE n = 0 then .next (s1.setReg .iHOT_SINCE n (s1.clock + 1))
      else if s1.reg .iHOT_SINCE n + 250000000 ≤ s1.clock + 1 then
        .next (((s1.setRefresh n 0).setReg .MS_HOT 0 (setBit (s1.reg .MS_HOT 0) n false)).setReg
          .iHOT_SINCE n 0)
      else .next s1
    else .next (s1.setReg .iHOT_SINCE n 0)
  else if q > 85 * 16 then
    let s2 := (s1.setRefresh n 1).setReg .MS_HOT 0 (setBit (s1.reg .MS_HOT 0) n true)
    .next ((s2.setReg .iHOT_SINCE n 0).raise Code.hbmHot (some (s2.reg .MS_QUEUE 0))
      [(8, n), (16, temp.toNat)])
  else .next s1

/-- NEIGHBOUR_REFRESH (R294): the refresh of the two neighbours that an activation scheduled in the bank is
performed; a bank that owes none is left alone. -/
def execNeighbourRefresh (pc bank : Fin 64) (s : State) : Out :=
  .next (s.refreshNeighbours (pc.val * 64 + bank.val))

/-! ## Retraining -/

/-- One retraining of channel `c` begins: 8 pauses are to run, from the settings then in force (R295). -/
def State.startRetrain (s : State) (c : Nat) : State :=
  forN 4 ((((((s.setReg .iRT_LEFT c 8).setReg .iRT_SINCE c s.clock).setReg .iRT_RW c 255).setReg .iRT_RH c
    65535).setReg .iRT_WW c 255).setReg .iRT_WH c 65535) (fun t k =>
    t.setReg .iRT_SET0 (4 * c + k) (t.reg .iRT_SET (4 * c + k)))

/-- The period of 100 ms in which the retraining of channel `c` fell due last, plus 1: c × 3,125 µs into
the period; 0 before the first (R295). -/
def State.retrainPeriod (s : State) (c : Nat) : Nat :=
  let first := s.reg .iRT_BASE 0 - 1 + c * 3125000
  if s.reg .iRT_BASE 0 = 0 ∨ s.clock < first then 0 else (s.clock - first) / 100000000 + 1

/-- RETRAIN_DUE (R295): once in every period, with MS_RETRAIN_EN 1, the retraining of channel c falls
due. -/
def execRetrainDue (c : Fin 32) (s : State) : Out :=
  let k := c.val
  if s.reg .MS_RETRAIN_EN 0 = 1 ∧ s.reg .iRT_PERIOD k < s.retrainPeriod k then
    .next ((s.startRetrain k).setReg .iRT_PERIOD k (s.retrainPeriod k))
  else .next s

/-- Whether any channel has pauses still to run. -/
def State.retraining (s : State) : Bool :=
  (List.range 32).any (fun c => !(s.reg .iRT_LEFT c == 0) && !bit (s.reg .iHB_HELD 0) c)

/-- Draining of the periodic retraining ends: FUNC_DISABLED is raised (R405). -/
def State.retrainDrained (s : State) : State :=
  if s.reg .iRT_DRAIN 0 = 1 ∧ s.retraining = false then
    (s.setReg .iRT_DRAIN 0 0).raiseDisabled .MS_RETRAIN_EN 0 0
  else s

/-- A setting moves to where the middle of the eye was measured, by at most `n` steps from its value at the
start of the retraining (R295). -/
def State.moveSetting (s : State) (k n : Nat) (v : Int) : State :=
  let v0 := s.regInt .iRT_SET0 k
  s.setRegInt .iRT_SET k (clampInt (v0 - n) (v0 + n) v)

/-- The eye a pause measured: the least width and height of the pauses are kept, and the settings move, a
delay by at most 2 steps and a voltage by at most 1; no eye leaves the settings in force, and the third
such pause in a row raises HBM_TRAIN_FAIL (R295). -/
def State.noteEye (s : State) (c width height : Nat) (delay vref : Int) (read : Bool) : State :=
  let rw : Reg := if read then .iRT_RW else .iRT_WW
  let rh : Reg := if read then .iRT_RH else .iRT_WH
  let k := if read then 4 * c else 4 * c + 2
  if width = 0 then
    let s1 := ((s.bump .iRT_NOEYE c).setReg rw c 0).setReg rh c 0
    if s1.reg .iRT_NOEYE c = 3 then
      s1.raise Code.hbmTrainFail (some (s1.reg .MS_QUEUE 0)) [(8, c)] else s1
  else
    let s1 := ((s.setReg .iRT_NOEYE c 0).setReg rw c (min (s.reg rw c) width)).setReg rh c
      (min (s.reg rh c) height)
    let s2 := (s1.moveSetting k 2 delay).moveSetting (k + 1) 1 vref
    if width < 16 then
      s2.raise Code.hbmMargin (some (s2.reg .MS_QUEUE 0)) [(8, c), (8, width)] else s2

/-- After pause 7 the eye margins are published and the retraining counts (R295); a channel that was to
retrain after a relock of PLL-HB serves again (R296). -/
def State.retrainDone (s : State) (c : Nat) : State :=
  ((((((s.setReg .CH_RD_EYE_W c (s.reg .iRT_RW c)).setReg .CH_RD_EYE_H c (s.reg .iRT_RH c)).setReg
    .CH_WR_EYE_W c (s.reg .iRT_WW c)).setReg .CH_WR_EYE_H c (s.reg .iRT_WH c)).bump .CH_RETRAINS c).setReg .iHB_HELD 0
    (setBit (s.reg .iHB_HELD 0) c false))

/-- The rereads of 64 code words by which a pause measures the read eye, on the TRAIN port (R285, R295). -/
def State.eyeReads (s : State) (c : Nat) : State := (s.serveAll .train 2048).move c 2048

/-- One pause of channel `c` (R295): pauses 0 to 3 measure the read eye, 4 to 7 the write eye, and the eighth
ends the retraining. -/
def State.retrainPause (s : State) (c width height : Nat) (delay vref : Int) : State :=
  let left := s.reg .iRT_LEFT c
  let read := decide (4 < left)
  let s1 := (s.cond read (fun t => t.eyeReads c)).noteEye c width height delay vref read
  let s2 := ((s1.setReg .iRT_LEFT c (left - 1)).setReg .iRT_LAST c s1.clock).setReg .iRT_SINCE c s1.clock
  if left = 1 then (s2.retrainDone c).retrainDrained else s2

/-- RETRAIN_PAUSE (R295): the next pause of channel c starts once 50 µs have passed since the last
and either no PLANE request is urgent (`urgent` false) or it has waited 2 ms, which counts a
deferral. -/
def execRetrainPause (c : Fin 32) (urgent : Bool) (width : Fin 65) (height : BitVec 16)
    (delay vref : BitVec 16) (seen : Seen) (s : State) : Out :=
  let k := c.val
  let left := s.reg .iRT_LEFT k
  if left = 0 ∨ s.reg .CK_STATE 2 ≠ 3 ∨ (left < 8 ∧ s.clock < s.reg .iRT_LAST k + 50000) then .next s
  else if urgent && decide (s.clock < s.reg .iRT_SINCE k + 2000000) then .next s
  else
    let s1 := (s.see seen).cond urgent (fun t => t.bump .CH_DEFERRALS k)
    .next ((s1.retrainPause k width.val height.toNat delay.toInt vref.toInt).see s.seen)

/-- CH_RETRAIN_NOW (R295): one retraining of the channel runs at once, outside the schedule. -/
def execChRetrainNow (acc : Accessor) (c : Fin 32) (s : State) : Out :=
  .next (writeParam s acc .CH_RETRAIN_NOW c.val 1 (fun t => t.startRetrain c.val))

/-- Whether the retraining under way on a channel is one of the periodic ones, or one asked for, and not
the one owed after a relock of PLL-HB (R295, R296). -/
def State.periodic (s : State) (c : Nat) : Bool :=
  !(s.reg .iRT_LEFT c == 0) && !bit (s.reg .iHB_HELD 0) c

/-- Retraining is abandoned: no further pause starts (R295), and the channels stopped are counted in
FUNC_DISABLED (R405). -/
def State.abandonRetrain (s : State) : State :=
  let n := ((List.range 32).filter s.periodic).length
  ((forN 32 s (fun t c => if s.periodic c then t.setReg .iRT_LEFT c 0 else t)).setReg .iRT_DRAIN 0 0).raiseDisabled
    .MS_RETRAIN_EN 0 n

/-- MS_RETRAIN_EN written with 0 (R295, R405). -/
def State.retrainDisable (s : State) : State :=
  if s.reg .MS_RETRAIN_EN 0 = 0 then s
  else
    let s1 := s.putReg .MS_RETRAIN_EN 0 0
    if s.reg .MS_RETRAIN_DRAIN 0 = 1 then s1.abandonRetrain
    else (s1.setReg .iRT_DRAIN 0 1).retrainDrained

/-- MS_RETRAIN_EN written with 1: refused while it drains (R405); what fell due while it was 0 has passed. -/
def State.retrainEnable (s : State) : State :=
  if s.reg .iRT_DRAIN 0 = 1 then s.refuse Code.funcDraining
  else if s.reg .MS_RETRAIN_EN 0 = 1 then s
  else forN 32 (s.putReg .MS_RETRAIN_EN 0 1) (fun t c => t.setReg .iRT_PERIOD c (t.retrainPeriod c))

/-- MS_RETRAIN_EN_DISABLE (R295). -/
def execMsRetrainEnDisable (acc : Accessor) (s : State) : Out :=
  .next (writeParam s acc .MS_RETRAIN_EN 0 0 State.retrainDisable)

/-! ## Scrubbing -/

/-- The walk of scrubber `k` has begun: its first lap counts from its first unit (R297). -/
def State.openLap (s : State) (k : Nat) : State :=
  if s.reg .iLAP_OPEN k = 1 then s else (s.setReg .iLAP_OPEN k 1).setReg .iLAP_START k s.clock

/-- SCRUB_SLOW is raised once for a lap longer than its limit (R297). -/
def State.scrubSlow (s : State) (k : Nat) : State :=
  let lap := s.clock - s.reg .iLAP_START k
  if s.reg .SC_LAP_LIMIT k < lap ∧ s.reg .iLAP_SLOW k = 0 then
    (s.setReg .iLAP_SLOW k 1).raise Code.scrubSlow (some (s.reg .MS_QUEUE 0)) [(8, k), (64, lap)]
  else s

/-- A lap of scrubber `k` ends: its time is published unless the lap was interrupted (R297, R300). -/
def State.lapEnd (s : State) (k : Nat) : State :=
  let s1 := if s.reg .iLAP_BROKEN k = 0 then
    s.setReg .SC_LAP_LAST k (s.clock - s.reg .iLAP_START k) else s
  ((s1.setReg .iLAP_BROKEN k 0).setReg .iLAP_SLOW k 0).setReg .iLAP_START k s1.clock

/-- The scrubber meets one code word whose check finds an error (R298); a word already poisoned is
passed over. -/
def State.scrubWord (s : State) (w : Nat) (f : Finding) : State :=
  if s.poisoned w then s
  else match f with
    | .correctable =>
      { ((s.bump .SC_CORRECTED 0).bump .CH_CORRECTED (addrCtrl (32 * w))).bump .MS_CORRECTED 0 with
        writeBacks := s.writeBacks ++ [⟨w, false, false, true⟩] }
    | .uncorrectable =>
      ({ (s.bump .SC_UNCORRECTABLE 0).bump .CH_UNCORRECTABLE (addrCtrl (32 * w)) with
        writeBacks := s.writeBacks ++ [⟨w, true, false, true⟩] } : State).logPoison w 0 0 0xFF

/-- The words of a burst in turn. -/
def State.scrubWords (s : State) : List (Nat × Finding) → State
  | [] => s
  | (w, f) :: ws => (s.scrubWord w f).scrubWords ws

/-- One burst of 16 MiB of the central-store scrubber at SC_POSITION (R297): every controller reads 512
KiB of it on the SCRUB port. -/
def State.scrubBurst (s : State) : State :=
  let a := s.reg .SC_POSITION 0
  let found := s.seen.found
  let s0 := (((s.openLap 0).scrubSlow 0).serveAll .scrub 16777216).closeRows
  let s1 := (forN 32 s0 (fun t c => (t.move c 524288).activateRows c 512)).scrubWords
    (found.filter (fun e => decide (a ≤ 32 * e.1) && decide (32 * e.1 < a + 16777216)))
  if storeSize ≤ a + 16777216 then (s1.setReg .SC_POSITION 0 0).lapEnd 0
  else s1.setReg .SC_POSITION 0 (a + 16777216)

/-- Scrubber `k` reaches its disabled state (R300, R405). -/
def State.scrubOff (s : State) (k abandoned : Nat) : State :=
  ((s.setReg .SC_STATE k 0).setReg .iLAP_BROKEN k 1).raiseDisabled .SC_ENABLE k abandoned

/-- SCRUB_BURST (R297, R298, R300): nothing before the store is initialised; the scrubber asks for
its grant, or with the grant held runs one burst and returns it, unless the channels do not serve (R296);
a draining scrubber is then OFF. -/
def execScrubBurst (seen : Seen) (s : State) : Out :=
  let draining := s.reg .SC_STATE 0 == 4
  if s.reg .SC_ENABLE 0 = 0 ∧ draining = false then .next s
  else if s.reg .MS_INIT_STATE 0 = 0 then .next (s.setReg .SC_STATE 0 1)
  else if s.granted .scrubBurst then
    if s.storeServes then
      let s1 := ((s.see seen).scrubBurst.release .scrubBurst).see s.seen
      .next (if draining then s1.scrubOff 0 0 else s1.setReg .SC_STATE 0 2)
    else .next s
  else .next ((s.request .scrubBurst).setReg .SC_STATE 0 2)

/-- CACHE_SCRUB (R297): the cache scrubber checks the next line of a cluster's cache; `last` says
that it was the last line of the lap. An uncorrectable line is invalidated, so its next use fetches
it from the store, whose contents it held. -/
def execCacheScrub (n : Fin 16) (found : Option Finding) (last : Bool) (s : State) : Out :=
  if s.reg .SC_ENABLE 1 = 0 then .next s
  else
    let s1 := ((s.openLap 1).scrubSlow 1).setReg .SC_STATE 1 3
    let s2 := match found with
      | none => s1
      | some .correctable => s1.bump .SC_CORRECTED 1
      | some .uncorrectable => (s1.bump .SC_UNCORRECTABLE 1).setReg .iCACHE_INVALID n.val
          (s1.reg .iCACHE_INVALID n.val + 1)
    .next (if last then (s2.setReg .SC_POSITION 1 0).lapEnd 1 else s2.bump .SC_POSITION 1)

/-- The write-backs that the scrubber asked for and that are not yet issued are dropped (R300). -/
def State.dropScrubbed (s : State) : State :=
  { s with writeBacks := s.writeBacks.filter (fun b => !b.byScrubber) }

/-- SC_ENABLE written with 0 (R300): under DRAIN a burst whose grant is held still runs; under
ABANDON it stops at once, the scrubber's write-backs not yet issued are dropped and the grant
returns. -/
def State.scrubDisable (s : State) (k : Nat) : State :=
  if s.reg .SC_ENABLE k = 0 then s
  else
    let s1 := s.putReg .SC_ENABLE k 0
    if k ≠ 0 then s1.scrubOff k 0
    else if s.reg .SC_DRAIN 0 = 1 then
      (s1.dropScrubbed.release .scrubBurst).scrubOff 0 (b2n (s.granted .scrubBurst))
    else if s.granted .scrubBurst then s1.setReg .SC_STATE 0 4
    else (s1.release .scrubBurst).scrubOff 0 0

/-- SC_ENABLE written with 1 (R300, R405). -/
def State.scrubEnable (s : State) (k : Nat) : State :=
  if s.reg .SC_STATE k = 4 then s.refuse Code.funcDraining
  else if s.reg .SC_ENABLE k = 1 then s
  else
    (s.putReg .SC_ENABLE k 1).setReg .SC_STATE k
      (if k = 0 then (if s.reg .MS_INIT_STATE 0 = 1 then 2 else 1) else 3)

/-- SC_ENABLE_DISABLE (R300). -/
def execScEnableDisable (acc : Accessor) (k : Fin 4) (s : State) : Out :=
  .next (writeParam s acc .SC_ENABLE k.val 0 (fun t => t.scrubDisable k.val))

/-- SC_ENABLE_RESUME (R300): the walk resumes at SC_POSITION. -/
def execScEnableResume (acc : Accessor) (k : Fin 4) (s : State) : Out :=
  .next (writeParam s acc .SC_ENABLE k.val 1 (fun t => t.scrubEnable k.val))

/-! ## Windows and masters -/

/-- Whether staged window `w` is well formed (R301). -/
def State.windowOk (s : State) (w : Nat) : Bool :=
  s.reg .WIN_BASE w % 4096 == 0 && (s.reg .WIN_LIMIT w + 1) % 4096 == 0
    && decide (s.reg .WIN_BASE w ≤ s.reg .WIN_LIMIT w) && decide (s.reg .WIN_LIMIT w < storeSize)
    && decide (s.reg .WIN_ID_LO w ≤ s.reg .WIN_ID_HI w)

/-- The staged fields of a window with the registers that hold them in force (R301). -/
def windowFields : List (Reg × Reg) :=
  [(.WIN_ENABLE, .iWIN_ENABLE), (.WIN_SPACE, .iWIN_SPACE), (.WIN_ID_LO, .iWIN_ID_LO), (.WIN_ID_HI, .iWIN_ID_HI),
    (.WIN_BASE, .iWIN_BASE), (.WIN_LIMIT, .iWIN_LIMIT), (.WIN_PERM, .iWIN_PERM)]

/-- Whether the staged values of window `w` differ from those in force (WIN_PENDING, R310). -/
def State.windowPending (s : State) (w : Nat) : Bool :=
  windowFields.any (fun e => !(s.reg e.2 w == s.reg e.1 w))

/-- Every window as the Keeper or the defaults give it is in force (R302). -/
def State.windowsInForce (s : State) : State :=
  forN 64 s (fun t w => windowFields.foldl (fun u e => u.setReg e.2 w (u.reg e.1 w)) t)

/-- Window `w` comes into force, and each value that changed is owed to the Keeper (R301, R383). -/
def State.takeWindow (s : State) (w : Nat) : State :=
  windowFields.foldl (fun t e =>
    if t.reg e.2 w = t.reg e.1 w then t else (t.setReg e.2 w (t.reg e.1 w)).noteKeep e.1 w) s

/-- WIN_APPLY written with 1 (R301). -/
def State.winApply (s : State) : State :=
  if (List.range 64).all s.windowOk then
    (forN 64 s State.takeWindow).setReg .WIN_STATUS 0 0
  else (s.setReg .WIN_STATUS 0 Code.winBad).refuse Code.winBad

/-- WIN_APPLY (R301). -/
def execWinApply (acc : Accessor) (s : State) : Out :=
  .next (writeParam s acc .WIN_APPLY 0 1 State.winApply)

/-- PN_CLEAR (R309): empties the poison log and zeroes PN_LOST. -/
def execPnClear (acc : Accessor) (s : State) : Out :=
  .next (writeParam s acc .PN_CLEAR 0 1 (fun t =>
    ({ t with poisonLog := [] } : State).setReg .PN_LOST 0 0))

end Sys2Proof.Machine
end

