-- ==== Sys2Proof/Machine/Hazel.lean ====
section
/-! DEFINITION. The Hazel array (04_hazel_array.md, R106 to R139): clusters, fences, gating, the array
boundary, program slots and the live swap. -/
namespace Sys2Proof.Machine

/-- "No value pending" in the registers that hold a pending array-wide value (R136). -/
def noValue : Nat := 0xFFFFFFFF

/-! ## Fences and capacity -/

/-- CL_FENCED and HZ_ENGINES_FENCED follow the fences (R135, R138): every cause counts, and all 16
bits are set while the cluster is fenced as a whole. -/
def State.refreshFences (s : State) (n : Nat) : State :=
  let m := s.reg .CL_FAULT_MASK n ||| s.reg .iFENCE_HOST n
  let s1 := s.setReg .CL_FENCED n m
  s1.setReg .HZ_ENGINES_FENCED 0
    (((List.range 16).map (fun k => popCount 16 (s1.reg .CL_FENCED k))).sum)

/-- A cluster takes a state; HZ_ACTIVE shows which are ACTIVE (R135, R136). -/
def State.setCluster (s : State) (n st : Nat) : State :=
  (s.setReg .CL_STATE n st).setReg .HZ_ACTIVE 0 (setBit (s.reg .HZ_ACTIVE 0) n (st == 0))

/-- The tiles a cluster holds are queued again ahead of all others (R132, R133). -/
def State.requeue (s : State) (n : Nat) : State :=
  { s with
    requeued := s.requeued ++ (s.held.filter (fun e => e.1 == n)).map Prod.snd
    held := s.held.filter (fun e => !(e.1 == n)) }

/-- The tiles a frozen cluster holds are not completed (R31): they stand under number 16, which is no
cluster, until their slot is released. -/
def State.abandonHeld (s : State) (n : Nat) : State :=
  { s with held := s.held.map (fun e => if e.1 = n then (16, e.2) else e) }

/-- The costs of the state in force on a surface, as recorded when it applied. -/
def State.costInForce (s : State) (surf : Nat) : List Nat :=
  (List.range 4).map (fun m => s.reg .iS_COST (4 * surf + m))

/-- A surface whose state in force exceeds 95 % of the reduced budget becomes short, and
BUDGET_SHORT is raised once (R124). -/
def State.shortCheck (s : State) (surf : Nat) : State :=
  match overBudget (s.costInForce surf) (s.budgets surf false).toList with
  | none => s
  | some m =>
    if bit (s.reg .HZ_SHORT 0) surf then s
    else (s.setReg .HZ_SHORT 0 (setBit (s.reg .HZ_SHORT 0) surf true)).raise Code.budgetShort none
      [(8, surf), (8, m + 1)]

/-- Capacity was lost inside a frame (R124). -/
def State.capacityLost (s : State) : State := (s.shortCheck 0).shortCheck 1

/-- Whether capacity returned between two states: a cluster became ACTIVE, an engine of an ACTIVE cluster is
fenced no more, or a swap ended (R116, R124, R129, R134). -/
def capacityReturned (a b : State) : Bool :=
  (a.swapRuns && !b.swapRuns) || (List.range 16).any (fun n => b.reg .CL_STATE n == 0
    && (!(a.reg .CL_STATE n == 0) || decide (a.engines n < b.engines n)))

/-- Capacity returned at an array boundary: a surface within 95 % again is no longer short (R124). -/
def State.shortClear (s : State) (surf : Nat) : State :=
  match overBudget (s.costInForce surf) (s.budgets surf false).toList with
  | none => s.setReg .HZ_SHORT 0 (setBit (s.reg .HZ_SHORT 0) surf false)
  | some _ => s

/-- HAZEL_FAULT (R408): cause 0 parity, 1 register file, 2 overrun, 3 cache tags, 4 decoder, 5 engines
below 8, 6 self-test, 7 program load. -/
def State.hazelFault (s : State) (n mask cause : Nat) : State :=
  (s.setReg .CL_LAST_FAULT n Code.hazelFault).raise Code.hazelFault none
    [(8, n), (16, mask), (8, cause)]

/-- The whole cluster is fault-fenced: its tiles are queued again, the fence is recorded (R132), and no
self-test of its engines counts any longer (R135). -/
def State.fenceCluster (s : State) (n cause : Nat) : State :=
  let s0 := (s.setReg .iCL_SELFTEST n 0).setReg .iCL_PASSED n 0
  let s1 := ((s0.setReg .CL_FAULT_MASK n 0xFFFF).noteKeep .CL_FAULT_MASK n).refreshFences n
  (((s1.setCluster n 4).requeue n).hazelFault n 0xFFFF cause).capacityLost

/-- Engines of a cluster are fault-fenced (R132): their hogels run on the other engines; fewer than 8
unfenced engines fence the whole cluster. -/
def State.fenceEngines (s : State) (n mask cause : Nat) : State :=
  let s1 := ((s.setReg .CL_FAULT_MASK n (s.reg .CL_FAULT_MASK n ||| mask)).noteKeep .CL_FAULT_MASK
    n).refreshFences n
  let s2 := s1.hazelFault n mask cause
  if s2.engines n < 8 then s2.fenceCluster n 5 else s2.capacityLost

/-- Whether a cluster computes, so that a fault on it can be seen: ACTIVE, or withdrawn for a swap and
finishing the tiles it holds (R131). -/
def State.clusterRuns (s : State) (n : Nat) : Bool := s.reg .CL_STATE n == 0 || s.reg .CL_STATE n == 3

/-- ENGINE_FAULT_FENCE (R132): a parity error (cause 0), a register-file check error (1) on engines
of a cluster. -/
def execEngineFaultFence (n : Fin 16) (mask : BitVec 16) (regFile : Bool) (s : State) : Out :=
  if s.clusterRuns n.val && !(mask == 0) then
    .next (s.fenceEngines n.val mask.toNat (b2n regFile))
  else .next s

/-- HOGEL_OVERRUN (R132): the cycle counts of hogels on the engines of a cluster reach C_band of the
running tile's surface; the count pauses while PLL-HB is not LOCKED. -/
def execHogelOverrun (n : Fin 16) (mask : BitVec 16) (cycles : Nat) (s : State) : Out :=
  match s.held.find? (fun e => e.1 == n.val) with
  | none => .next s
  | some (_, t) =>
    if s.clusterRuns n.val && s.reg .CK_STATE 2 == 3 && decide (s.cBand t.surf ≤ cycles) && !(mask == 0) then
      .next (s.fenceEngines n.val mask.toNat 2)
    else .next s

/-- CLUSTER_FAULT_FENCE (R132): an uncorrectable error in the cache tags (cause 3) or a fault of the
cluster decoder (4). -/
def execClusterFaultFence (n : Fin 16) (decoder : Bool) (s : State) : Out :=
  if s.clusterRuns n.val then .next (s.fenceCluster n.val (if decoder then 4 else 3)) else .next s

/-! ## Pending array-wide values and the array boundary -/

/-- The value an array-wide parameter will have: pending, or in force (R136, R382). -/
def pendingOr (p v : Nat) : Nat := if p = noValue then v else p

/-- Whether a pending value's array boundary has come: a deadline of the surface that HZ_ARRAY_CLOCK names
followed the write (R136). -/
def State.arrDue (s : State) (ix : Nat) : Bool := bit (s.reg .iARR_SEEN ix) (s.reg .HZ_ARRAY_CLOCK 0)

/-- A pending array-wide value applies and is pending no more. -/
def State.applyArr (s : State) (ix : Nat) (r : Reg) (i : Nat) : State :=
  if s.reg .iARR ix = noValue ∨ s.arrDue ix = false then s
  else ((s.putReg r i (s.reg .iARR ix)).setReg .iARR ix noValue).setReg .iARR_SEEN ix 0

/-- A pending value of CK_SSC applies, and the spread ramps to it (R420). -/
def State.applySpread (s : State) (k : Nat) : State :=
  let t := s.applyArr (3 + k) .CK_SSC k
  if t.reg .CK_SSC k = s.reg .CK_SSC k then t else t.spreadSet k

/-- A pending fence value of a cluster applies. -/
def State.applyArrCl (s : State) (ix : Nat) (r : Reg) (i : Nat) : State :=
  if s.reg .iARR_CL ix = noValue ∨ s.arrDue (5 + ix) = false then s
  else ((s.putReg r i (s.reg .iARR_CL ix)).setReg .iARR_CL ix noValue).setReg .iARR_SEEN (5 + ix) 0

/-- The host fence a cluster's parameters ask for: the whole cluster by CL_FENCE, or by a mask that
leaves fewer than 8 engines unfenced, every cause counted (R133). -/
def State.hostFence (s : State) (n : Nat) : Nat :=
  let m := s.reg .CL_FENCE_REQ n
  if s.reg .CL_FENCE n = 1 ∨ 16 - popCount 16 (m ||| s.reg .CL_FAULT_MASK n) < 8 then
    (if s.reg .CL_FAULT_MASK n = 0xFFFF ∧ s.reg .CL_FENCE n = 0 then m else 0xFFFF) else m

/-- A self-test of a whole cluster begins (R134, R135): bit 16 of iCL_SELFTEST. -/
def State.startSelfTest (s : State) (n : Nat) : State :=
  (s.setCluster n 6).setReg .iCL_SELFTEST n (s.reg .iCL_SELFTEST n ||| 0x10000)

/-- Gating and host fences of cluster `n` take effect at an array boundary (R133, R134). -/
def State.stepFences (s : State) (n : Nat) : State :=
  let before := s.reg .iFENCE_HOST n
  let s1 := (s.setReg .iFENCE_HOST n (s.hostFence n)).refreshFences n
  let gated := !(bit (s.reg .HZ_CLUSTER_EN 0) n)
  let st := s.reg .CL_STATE n
  if gated then
    if st = 0 then (s1.setCluster n 1).requeue n
    else if st = 2 then (s1.setCluster n 1).release (.clusterWake n)
    else if st = 4 ∧ before = 0xFFFF ∧ s1.reg .iFENCE_HOST n ≠ 0xFFFF ∧ s.reg .CL_FAULT_MASK n ≠ 0xFFFF then
      s1.setCluster n 1
    else s1
  else if st = 1 then (s1.setCluster n 2).request (.clusterWake n)
  else if s1.reg .iFENCE_HOST n = 0xFFFF then
    (if st = 0 then (s1.setCluster n 4).requeue n else s1)
  else if before = 0xFFFF ∧ st = 4 ∧ s.reg .CL_FAULT_MASK n ≠ 0xFFFF then s1.startSelfTest n
  else s1

/-- Engines of mask `m` are fault-fenced no more (R134). -/
def State.clearFault (s : State) (n m : Nat) : State :=
  let f := s.reg .CL_FAULT_MASK n
  ((s.setReg .CL_FAULT_MASK n (f - (f &&& m))).noteKeep .CL_FAULT_MASK n).refreshFences n

/-- A cluster whose self-test passed becomes ACTIVE, on the program it has loaded; one that was away
during a swap has loaded the target's (R131, R134). -/
def State.returnCluster (s : State) (n : Nat) : State :=
  let p := if s.reg .iCL_RELOAD n < 2 then s.reg .iCL_RELOAD n
    else if s.swapRuns then s.reg .iSWAP_SLOT 0 else s.reg .CL_PROG_SLOT n
  let s1 := (s.setReg .CL_PROG_SLOT n p).setReg .iCL_RELOAD n 0xFF
  (s1.cond (s1.reg .CL_FAULT_MASK n == 0xFFFF) (fun t => t.clearFault n 0xFFFF)).setCluster n 0

/-- Passed self-tests take effect: engines rejoin, and a cluster in TESTING becomes ACTIVE (R134). -/
def State.stepReturn (s : State) (n : Nat) : State :=
  let p := s.reg .iCL_PASSED n
  let s1 := s.setReg .iCL_PASSED n 0
  let s2 := s1.cond (bit p 16 && s1.reg .CL_STATE n == 6) (fun t => t.returnCluster n)
  s2.cond (p % 0x10000 != 0) (fun t => t.clearFault n (p % 0x10000))

/-- The lowest-numbered ACTIVE cluster that runs a slot other than `p` (R131). -/
def State.nextToSwap (s : State) (p : Nat) : Option Nat :=
  s.activeClusters.find? (fun n => !(s.reg .CL_PROG_SLOT n == p))

/-- A swap ends: a cluster that was away meanwhile loads the target image when it next returns to ACTIVE
(R131). -/
def State.endSwap (s : State) : State :=
  let p := s.reg .iSWAP_SLOT 0
  (forN 16 (s.setReg .HZ_SWAP_CLUSTER 0 0xFF) (fun t n =>
    if t.reg .CL_STATE n = 0 then t else t.setReg .iCL_RELOAD n p)).setReg .iSWAP_SLOT 0 0xFF

/-- The running swap steps (R131): the next cluster is withdrawn, or the swap ends. None is withdrawn
while the firmware restarts (R496). -/
def State.stepSwap (s : State) : State :=
  if s.swapRuns = false ∨ s.reg .iPHASE 0 ≠ 1 then s
  else
    let c := s.reg .HZ_SWAP_CLUSTER 0
    if c < 16 ∧ (s.reg .CL_STATE c = 3 ∨ s.reg .CL_STATE c = 6) then s
    else match s.nextToSwap (s.reg .iSWAP_SLOT 0) with
      | some n =>
        ((s.setCluster n 3).setReg .HZ_SWAP_CLUSTER 0 n).setReg .iCL_RELOAD n (s.reg .iSWAP_SLOT 0)
      | none =>
        s.endSwap.setReg .HZ_SWAP_STATE 0 0

/-- The array boundary (R131 to R136): pending values apply, clusters return, fences and gating take
effect, the swap steps, and capacity that returned is counted. -/
def State.arrayBoundary (s : State) : State :=
  let s1 := (((((s.applyArr 0 .HZ_CLUSTER_EN 0).applyArr 1 .HZ_SHARE_A 0).applyArr 2 .HZ_BYTES_NS
    0).applySpread 0).applySpread 1)
  let s2 := forN 16 s1 (fun t n =>
    ((t.applyArrCl n .CL_FENCE_REQ n).applyArrCl (16 + n) .CL_FENCE n))
  let s3 := (forN 16 s2 (fun t n => (t.stepReturn n).stepFences n)).stepSwap
  s3.cond (capacityReturned s s3) (fun t => (t.shortClear 0).shortClear 1)

/-- At a deadline of a surface, the values pending then are those of its next boundary, should it step the
array (R136). -/
def State.seeArray (s : State) (surf : Nat) : State :=
  let mark (t : State) (k : Nat) : State := t.setReg .iARR_SEEN k (setBit (t.reg .iARR_SEEN k) surf true)
  let s1 := forN 5 s (fun t k => if t.reg .iARR k = noValue then t else mark t k)
  forN 32 s1 (fun t k => if t.reg .iARR_CL k = noValue then t else mark t (5 + k))

/-- The array after the next array boundary, with the values pending now (R133). -/
def State.nextArray (s : State) : State := (s.seeArray (s.reg .HZ_ARRAY_CLOCK 0)).arrayBoundary

/-- Surfaces and bands that a change of the array would leave short: a budget lowered from `a` to
`b` in a measure whose cost then exceeds 95 % of it (R133). -/
def State.shortfalls (a b : State) : List (Nat × Nat) :=
  (List.range 2).filterMap (fun surf =>
    let cost := a.costInForce surf
    let ba := (a.budgets surf false).toList
    let bb := (b.budgets surf false).toList
    ((List.range 4).find? (fun m => decide (bb.getD m 0 < ba.getD m 0)
      && decide (95 * bb.getD m 0 < 100 * cost.getD m 0))).map
      (fun m => (surf, ((a.surfaceCost surf false).getD m (0, 0)).2)))

/-- ADMIT_REFUSED with reason CAPACITY as an event for each surface that fails (R129, R133). -/
def State.raiseCapacity (s : State) (fs : List (Nat × Nat)) : State :=
  fs.foldl (fun t f => t.raise Code.admitRefused (some (t.reg .CMT_QUEUE f.1))
    [(8, f.1), (8, Reason.capacity.code), (32, 0), (16, f.2)]) s

/-- The register, instance and pending place of an array-wide parameter. -/
def arrayTarget : ArrayParam → Reg × Nat × Bool × Nat
  | .clusterEn => (.HZ_CLUSTER_EN, 0, false, 0)
  | .shareA => (.HZ_SHARE_A, 0, false, 1)
  | .bytesNs => (.HZ_BYTES_NS, 0, false, 2)
  | .spread k => (.CK_SSC, k.val, false, 3 + k.val)
  | .fenceReq n => (.CL_FENCE_REQ, n.val, true, n.val)
  | .fence n => (.CL_FENCE, n.val, true, 16 + n.val)

/-- The value becomes pending, replacing an earlier one (R136). -/
def State.pend (s : State) (cl : Bool) (ix v : Nat) : State :=
  if cl then (s.setReg .iARR_CL ix v).setReg .iARR_SEEN (5 + ix) 0
  else (s.setReg .iARR ix v).setReg .iARR_SEEN ix 0

/-- A write of an array-wide parameter after the checks of R380: refused with CAPACITY when it would
leave a state in force short (R133), otherwise held pending (R136). -/
def State.arrayWrite (s : State) (p : ArrayParam) (v : Nat) : State :=
  let (_, _, cl, ix) := arrayTarget p
  let t := s.pend cl ix v
  let fs := State.shortfalls s.nextArray t.nextArray
  if fs.isEmpty then t else (s.raiseCapacity fs).refuse Code.admitRefused

/-- ARRAY_PARAM_WRITE (R133, R136, R420). -/
def execArrayParamWrite (acc : Accessor) (p : ArrayParam) (v : Nat) (s : State) : Out :=
  let (r, i, _, _) := arrayTarget p
  .next (writeParam s acc r i v (fun t => t.arrayWrite p v))

/-- CL_FAULT_CLEAR (R134): the named fault-fenced engines run self-test; of a cluster that is
fault-fenced as a whole only 0xFFFF, which names the cluster, clears the fence. -/
def State.faultClear (s : State) (n mask : Nat) : State :=
  if s.reg .CL_FAULT_MASK n = 0xFFFF then
    (if mask = 0xFFFF ∧ s.reg .CL_STATE n = 4 then s.startSelfTest n else s)
  else s.setReg .iCL_SELFTEST n (s.reg .iCL_SELFTEST n ||| (mask &&& s.reg .CL_FAULT_MASK n))

/-- CL_FAULT_CLEAR (R134). -/
def execClFaultClear (acc : Accessor) (n : Fin 16) (mask : BitVec 16) (s : State) : Out :=
  .next (writeParam s acc .CL_FAULT_CLEAR n.val mask.toNat (fun t => t.faultClear n.val mask.toNat))

/-- A running swap is aborted: the failing cluster reloads its previous program (R131). -/
def State.abortSwap (s : State) (n : Nat) : State :=
  ((s.endSwap).setReg .HZ_SWAP_STATE 0 3).setReg .iCL_RELOAD n (s.reg .iSWAP_OLD 0)

/-- The self-test that runs on a cluster: engines by number, bit 16 the cluster, which only a cluster in
TESTING runs (R135). -/
def State.selfTest (s : State) (n : Nat) : Nat :=
  if s.reg .CL_STATE n = 6 then s.reg .iCL_SELFTEST n else s.reg .iCL_SELFTEST n % 0x10000

/-- SELF_TEST_DONE (R131, R134): on a pass the engines or the cluster rejoin at the next array
boundary; on a failure they stay fenced and HAZEL_FAULT is raised; a cluster of a swap that fails
aborts it. -/
def execSelfTestDone (n : Fin 16) (pass : Bool) (s : State) : Out :=
  let k := n.val
  let m := s.selfTest k
  if m = 0 then .next s
  else
    let s1 := s.setReg .iCL_SELFTEST k 0
    let whole := bit m 16
    let s2 := if whole then s1.release (.clusterWake k) else s1
    if pass then
      .next (s2.setReg .iCL_PASSED k (s2.reg .iCL_PASSED k ||| m))
    else if whole && s.swapRuns && s.reg .HZ_SWAP_CLUSTER 0 == k then
      .next (((s2.abortSwap k).hazelFault k 0xFFFF 6).startSelfTest k)
    else if whole then
      .next ((((s2.setReg .CL_FAULT_MASK k 0xFFFF).noteKeep .CL_FAULT_MASK k).refreshFences k
        |>.setCluster k 4).hazelFault k 0xFFFF 6)
    else .next (s2.hazelFault k (m % 0x10000) 6)

/-- CLUSTER_WAKE_DONE (R134): a granted gated cluster has woken and runs self-test; SELF_TEST_DONE
returns the grant. -/
def execClusterWakeDone (n : Fin 16) (s : State) : Out :=
  if s.reg .CL_STATE n.val = 2 ∧ s.granted (.clusterWake n.val) then .next (s.startSelfTest n.val)
  else .next s

/-! ## Program slots and the swap -/

/-- Whether a slot is run by any cluster or is the target of a running swap (R128). -/
def State.slotInUse (s : State) (p : Nat) : Bool :=
  (List.range 16).any (fun n => s.reg .CL_PROG_SLOT n == p) || s.reg .iSWAP_SLOT 0 == p

/-- PG_LOAD_VERIFY (R128): the slot reads and verifies the image at PG_ADDR. -/
def execPgLoadVerify (acc : Accessor) (p : Fin 2) (s : State) : Out :=
  .next (writeParam s acc .PG_LOAD p.val 1 (fun t =>
    if t.slotInUse p.val then t.refuse Code.progSlotBusy else t.setReg .PG_STATE p.val 1))

/-- PG_LOAD_EMPTY (R128, R139). -/
def execPgLoadEmpty (acc : Accessor) (p : Fin 2) (s : State) : Out :=
  .next (writeParam s acc .PG_LOAD p.val 2 (fun t =>
    if t.slotInUse p.val then t.refuse Code.progSlotBusy else t.setReg .PG_STATE p.val 0))

/-- PG_LOAD_DONE (R128, R278): verification ends: VALID when the signature verifies and the length is
at most 262,144 bytes, INVALID otherwise, as when a word read is poisoned. `version` and `k` are what
the image declares (R130). PG_ADDR, PG_LENGTH and the bytes are those of this instant: a DESIGN CHOICE, since
R128 does not say when each is taken. -/
def execPgLoadDone (p : Fin 2) (version : BitVec 32) (k : BitVec 80) (seen : Seen) (s : State) : Out :=
  let i := p.val
  if s.reg .PG_STATE i ≠ 1 ∨ s.storeServes = false then .next s
  else
    let a := s.reg .PG_ADDR i
    let n := s.reg .PG_LENGTH i
    let (r, s1) := (s.see seen).fetch s.pipMaster .cue a n
    if !r.frozen && r.poisoned.isEmpty && decide (n ≤ 262144) && Config.programSignatureOk r.data then
      .next ((((s1.setReg .PG_STATE i 2).setReg .PG_VERSION i version.toNat).setReg .PG_K i k.toNat).see s.seen)
    else .next ((s1.setReg .PG_STATE i 3).see s.seen)

/-- Whether a surface's state in force is within 95 % of the budgets with one ACTIVE cluster fewer and
the larger constants of both slots (R129); else the band that gives the failing cost. -/
def State.swapShort (s : State) (surf : Nat) : Option (Nat × Nat) :=
  let costs := s.surfaceCost surf true
  match overBudget (costs.map Prod.fst) (s.budgets surf true).toList with
  | none => none
  | some m => some (surf, (costs.getD m (0, 0)).2)

/-- A write of HZ_PROG_TARGET (R129). A refusal while a swap runs leaves the swap running. -/
def State.swapTarget (s : State) (p : Nat) : State :=
  let shorts := [s.swapShort 0, s.swapShort 1].filterMap id
  if s.reg .PG_STATE p ≠ 2 ∨ s.swapRuns = true ∨ s.nextToSwap p = none then
    (s.setReg .HZ_SWAP_STATE 0 2).refuse Code.admitRefused
  else if !shorts.isEmpty then
    ((s.raiseCapacity shorts).setReg .HZ_SWAP_STATE 0 2).refuse Code.admitRefused
  else (((s.setReg .HZ_SWAP_STATE 0 1).setReg .iSWAP_SLOT 0 p).setReg .iSWAP_OLD 0 (1 - p)).setReg
    .HZ_SWAP_CLUSTER 0 0xFF

/-- HZ_PROG_TARGET (R129). -/
def execHzProgTarget (acc : Accessor) (p : Fin 2) (s : State) : Out :=
  .next (writeParam s acc .HZ_PROG_TARGET 0 p.val (fun t => t.swapTarget p.val))

/-- CLUSTER_LOAD_DONE (R131): a SWAPPING cluster that has finished the tiles it holds has loaded its
image and runs self-test, or failed to load, which aborts the swap. -/
def execClusterLoadDone (n : Fin 16) (ok : Bool) (s : State) : Out :=
  let k := n.val
  if s.reg .CL_STATE k ≠ 3 ∨ s.held.any (fun e => e.1 == k) then .next s
  else if ok then .next (s.startSelfTest k)
  else .next (((s.abortSwap k).hazelFault k 0xFFFF 7).startSelfTest k)

end Sys2Proof.Machine
end

