-- ==== Sys2Proof/Machine/Commit.lean ====
section
/-! DEFINITION. Staging, commit groups and commit IDs (06_stream_ingest.md, R192 to R200, R214). -/
namespace Sys2Proof.Machine

/-! ## Values by key -/

/-- The register a key names. -/
def keyReg (k : Nat) : Reg := Reg.ofNat (k % 1024)

/-- The instance a key names. -/
def keyInst (k : Nat) : Nat := k / 1024

/-- A committed value takes effect. WL_MAP_RESET has no value in force: it asks for the default spare
map at the next bring-up (R268). A commit changes no register that is RO (R381). -/
def State.putKey (s : State) (k v : Nat) : State :=
  if keyReg k = .WL_MAP_RESET then s.setReg .iWL_MAPRESET (keyInst k) 1
  else if (regRow (keyReg k)).access = .ro then s
  else s.putReg (keyReg k) (keyInst k) v

/-- The values of a commit on a surface, in the order they were staged. -/
def Commit.forSurf (c : Commit) (surf : Nat) : List (Nat × Nat) :=
  (c.values.filter (fun v => bit v.1 surf)).map Prod.snd

/-- Whether a commit carries a DARK-class value on a surface; LAST_RATE is of that class when the
class of the rate changes (R214). -/
def State.commitDark (s : State) (c : Commit) (surf : Nat) : Bool :=
  (c.forSurf surf).any (fun kv =>
    match (regRow (keyReg kv.1)).commit with
    | .dark => true
    | .byValue => !(rateClass kv.2 == rateClass (s.reg .LAST_RATE (keyInst kv.1)))
    | _ => false)

/-- The candidate state of a surface under the values of commits, scene objects included (R193). -/
def State.withValues (s : State) (surf : Nat) (cs : List Commit) : State :=
  (cs.foldl (fun t c => (c.forSurf surf).foldl (fun u kv =>
    if keyReg kv.1 = .WL_MAP_RESET then u else u.setReg (keyReg kv.1) (keyInst kv.1) kv.2) t) s).setReg
    .iS_COMMITTED surf 1

/-- Whether commit ID `a` comes before `b`: increasing commit ID, by the signed 32-bit difference, since the
counter wraps (R192, R193). -/
def idBefore (a b : Nat) : Bool :=
  let d := (b + 2 ^ 32 - a) % 2 ^ 32
  decide (0 < d) && decide (d < 2 ^ 31)

/-- `x` put into a list that is in the order of `id`. -/
def insertById (α : Type) (id : α → Nat) (x : α) : List α → List α
  | [] => [x]
  | y :: ys => if idBefore (id x) (id y) then x :: y :: ys else y :: insertById α id x ys

/-- A list in increasing ID; entries of one ID keep their order. -/
def sortById (α : Type) (id : α → Nat) (xs : List α) : List α :=
  xs.foldl (fun l x => insertById α id x l) []

/-- Accepted commits in increasing ID, in which they apply (R193). -/
def State.acceptedById (s : State) : List Accepted := sortById Accepted (fun a => a.commit.id) s.accepted

/-- The states that the accepted commits of a surface bring into force one after the other. -/
def State.acceptedStates (s : State) (surf : Nat) (except : Nat) : List State :=
  let cs := (s.acceptedById.filter (fun a => a.surf == surf && a.commit.id != except)).map Accepted.commit
  (List.range cs.length).map (fun j => s.withValues surf (cs.take (j + 1)))

/-! ## Owning surfaces and classes -/

/-- The surfaces that own instance `i` of a register (R192): by the place of its index in the
surface's families; a generator's rate belongs to the surfaces it times (R214). -/
def State.ownMask (s : State) (r : Reg) (i : Nat) : Nat :=
  match (regRow r).index with
  | 0x2100 => 2 ^ (i / 16)
  | 0x5040 => 2 ^ (i / 8)
  | 0x5000 => s.reg .LAST_USERS i
  | 0x2000 => 2 ^ i | 0x2200 => 2 ^ i | 0x2300 => 2 ^ i | 0x3010 => 2 ^ i | 0x3020 => 2 ^ i
  | 0x5020 => 2 ^ i | 0x5800 => 2 ^ i | 0x7020 => 2 ^ i | 0x7840 => 2 ^ i
  | _ => 0

/-- Whether writing `v` is a DARK-class write (R200, R214). -/
def State.isDark (s : State) (r : Reg) (i v : Nat) : Bool :=
  match (regRow r).commit with
  | .dark => true
  | .byValue => !(rateClass v == rateClass (s.reg r i))
  | _ => false

/-- The group in STAGING that a writer opened most recently (R195). -/
def State.stagingGroup (s : State) (owner : Nat) : Option Nat :=
  (List.range 16).foldl (fun best g =>
    if s.reg .CG_STATE g = 1 ∧ s.reg .CG_OWNER g = owner then
      match best with
      | none => some g
      | some b => if s.reg .iCG_SEQ b < s.reg .iCG_SEQ g then some g else some b
    else best) none

/-- Stages a value, replacing an earlier one of the same writing place (R193). -/
def State.stage (s : State) (e : Staged) : State :=
  { s with staged := (s.staged.filter (fun x =>
      !(x.key == e.key && x.group == e.group && (e.group != none || x.surfs == e.surfs)))) ++ [e] }

/-- The V_COUNT a surface will have when a value staged now in `group` applies (R227). -/
def State.vCountThen (s : State) (surf : Nat) (group : Option Nat) : Nat :=
  let pend := (s.acceptedById.filter (fun a => a.surf == surf)).map Accepted.commit
    ++ s.commits.filter (fun c => bit c.surfs surf)
  let mine : Commit := ⟨0, none, 3, (s.staged.filter (fun e => e.group == group)).map
    (fun e => (e.surfs, e.key, e.value)), [], false⟩
  (s.withValues surf (pend ++ [mine])).vCount surf

/-- A write of a FRAME-, SCHEDULED- or DARK-class value that a surface owns, after the checks of
R380 (R192, R195, R200, R214). -/
def State.stageWrite (s : State) (acc : Accessor) (r : Reg) (i v : Nat) : State :=
  let owner := ownerOf acc
  let m := s.ownMask r i
  let g := s.stagingGroup owner
  let inShared := match g with
    | some k => s.reg .CG_SURFACES k == 3
    | none => false
  if r = .LAST_RATE ∧ m = 0 then s.setReg .iG_PENDRATE i v
  else if r = .LAST_RATE ∧ m = 3 ∧ inShared = false then s.refuse Code.lastShared
  else match g with
    | some k =>
      if s.isDark r i v && s.reg .CG_DARK_OK k == 0 then s.refuse Code.cmtNeedDark
      else if m &&& s.reg .CG_SURFACES k ≠ m then s.refuse Code.cmtGroupState
      else s.stage ⟨some k, m, owner, regKey r i, v⟩
    | none =>
      if s.isDark r i v && (List.range 2).any (fun surf => bit m surf && s.reg .CMT_DARK_OK surf == 0)
      then s.refuse Code.cmtNeedDark
      else s.stage ⟨none, m, owner, regKey r i, v⟩

/-- Whether a write by an accessor would join a commit group in STAGING (R380). -/
def State.inGroup (s : State) (acc : Accessor) : Bool := (s.stagingGroup (ownerOf acc)).isSome

/-! ## Commit IDs and groups -/

/-- The ID of the next commit, from the device-wide counter that skips 0 (R192). -/
def State.newId (s : State) : Nat × State :=
  let id := s.reg .iCMT_NEXT 0
  (id, s.setReg .iCMT_NEXT 0 (if id = 0xFFFFFFFF then 1 else id + 1))

/-- The buffers a group lists (R196). -/
def State.groupBuffers (s : State) (g : Nat) : List Nat :=
  ((blobElems (s.reg .CG_BUFFERS g) 2 64).filter (fun b => b != 0xFFFF)).eraseDups

/-- A group returns to IDLE (R195): nothing is staged in it and nobody owns it. -/
def State.idleGroup (s : State) (g : Nat) : State :=
  ({ s with staged := s.staged.filter (fun e => !(e.group == some g)) } : State).setReg .CG_STATE g 0
    |>.setReg .CG_OWNER g 0xFFFF

/-- Whether `a` comes at or before `b` by the signed difference of R14. -/
def notAfter (a b : Nat) : Bool := timeReached b a

/-- Whether the deadline of a surface's next boundary has already been taken (R193). -/
def State.deadlineTaken (s : State) (surf : Nat) : Bool :=
  s.reg .iS_DEADLINE surf == s.reg .iS_SEEN surf + 1

/-- Network time of the boundary a surface took last, whole ns rounded up. -/
def State.lastBoundaryNs (s : State) (surf : Nat) : Nat := ceilDiv (s.reg .iG_B3 (s.genOf surf)) 3

/-- Whether at GO the deadline of the first boundary of a surface at or after CG_AT has passed
(R197). -/
def State.goLate (s : State) (surf at_ : Nat) : Bool :=
  at_ != 0 && s.reg .iS_SEEN surf != 0 &&
    (notAfter at_ (s.lastBoundaryNs surf)
      || (s.deadlineTaken surf && notAfter at_ (s.reg .LAST_NEXT (s.genOf surf))))

/-- A commit joins those that wait for a deadline, after all earlier ones (R193). -/
def State.addCommit (s : State) (c : Commit) : State := { s with commits := s.commits ++ [c] }

/-- CG_CTRL GO (R195 to R198): the group takes a commit ID and is PENDING; `none` where a listed
buffer is in another PENDING group. -/
def State.goGroup (s : State) (g : Nat) : Option State :=
  let bufs := s.groupBuffers g
  if (List.range 16).any (fun h => h != g && s.reg .CG_STATE h == 2
      && (s.groupBuffers h).any bufs.contains) then none
  else
    let (id, s1) := s.newId
    let c : Commit := ⟨id, some g, s.reg .CG_SURFACES g,
      (s.staged.filter (fun e => e.group == some g)).map (fun e => (e.surfs, e.key, e.value)), bufs, false⟩
    let s2 := s1.addCommit c
    let s3 := (s2.setReg .CG_STATE g 2).setReg .CG_ID g id
    some (forN 2 s3 (fun t surf =>
      if bit (s.reg .CG_SURFACES g) surf && s.goLate surf (s.reg .CG_AT g) then t.bump .CMT_LATE surf
      else t))

/-- Whether an accessor owns a group (R195). -/
def State.ownsGroup (s : State) (acc : Accessor) (g : Nat) : Bool :=
  s.reg .CG_OWNER g == ownerOf acc

/-- Whether the owner may write GO or ABORT: in STAGING and in REFUSED (R195). -/
def State.mayDrive (s : State) (acc : Accessor) (g : Nat) : Bool :=
  s.ownsGroup acc g && (s.reg .CG_STATE g == 1 || s.reg .CG_STATE g == 3)

/-- CG_CTRL_OPEN (R195). -/
def execCgCtrlOpen (acc : Accessor) (g : Fin 16) (s : State) : Out :=
  .next (writeParam s acc .CG_CTRL g.val 1 (fun t =>
    if t.reg .CG_STATE g.val = 0 then
      (((t.setReg .CG_STATE g.val 1).setReg .CG_OWNER g.val (ownerOf acc)).setReg .iCG_SEQ g.val
        (t.reg .iCG_NEXT 0)).bump .iCG_NEXT 0
    else t.refuse Code.cmtGroupState))

/-- CG_CTRL_GO (R195). -/
def execCgCtrlGo (acc : Accessor) (g : Fin 16) (s : State) : Out :=
  .next (writeParam s acc .CG_CTRL g.val 2 (fun t =>
    if t.mayDrive acc g.val then
      match t.goGroup g.val with
      | some u => u
      | none => t.refuse Code.cmtConflict
    else t.refuse Code.cmtGroupState))

/-- CG_CTRL_ABORT (R195). -/
def execCgCtrlAbort (acc : Accessor) (g : Fin 16) (s : State) : Out :=
  .next (writeParam s acc .CG_CTRL g.val 3 (fun t =>
    if t.mayDrive acc g.val then t.idleGroup g.val else t.refuse Code.cmtGroupState))

/-- The register a group parameter is. -/
def groupReg : GroupParam → Reg
  | .surfaces => .CG_SURFACES | .buffers => .CG_BUFFERS | .at_ => .CG_AT | .darkOk => .CG_DARK_OK
  | .trigger => .CG_TRIGGER

/-- CG_PARAM_WRITE (R195, R196): in IDLE by anyone, in STAGING by the owner; CG_SURFACES keeps every
surface for which values are staged. -/
def execCgParamWrite (acc : Accessor) (g : Fin 16) (p : GroupParam) (v : Nat) (s : State) : Out :=
  .next (writeParam s acc (groupReg p) g.val v (fun t =>
    let k := g.val
    if t.reg .CG_STATE k = 0 ∨ (t.reg .CG_STATE k = 1 ∧ t.ownsGroup acc k = true) then
      if p = .surfaces ∧ t.staged.any (fun e => e.group == some k && e.surfs &&& v != e.surfs) = true
      then t.refuse Code.cmtGroupState
      else t.setReg (groupReg p) k v
    else t.refuse Code.cmtGroupState))

/-! ## Buffers named by commits (R181) -/

/-- Commits that have their ID and have not applied: waiting, or accepted. -/
def State.liveCommits (s : State) : List Commit :=
  s.commits ++ s.accepted.map Accepted.commit

/-- Whether the state in force of a surface, or a commit that has not applied, names a buffer: a
commit names what it swaps and what the state it would give names (R181). -/
def State.bufferNamed (s : State) (n : Nat) : Bool :=
  (s.namedBuffers 0).contains n || (s.namedBuffers 1).contains n
    || s.liveCommits.any (fun c => c.buffers.contains n
        || (List.range 2).any (fun surf => bit c.surfs surf
            && ((s.withValues surf [c]).namedBuffers surf).contains n))

end Sys2Proof.Machine
end

