-- ==== Sys2Proof/Machine/Sha.lean ====
section
/-! DEFINITION. SHA-256 and HMAC-SHA-256, which the manual names for stream tags (R184) and for keys
and tags of control messages (R386, R390). -/
namespace Sys2Proof.Machine.Sha

/-- Eight 32-bit words of a 256-bit number, the most significant first. -/
def eightWords (v : Nat) : List Nat := (List.range 8).map (fun k => bits v (255 - 32 * k) (224 - 32 * k))

/-- The round constants, eight to a number. -/
def roundKeys : List Nat := [
  0x428a2f9871374491b5c0fbcfe9b5dba53956c25b59f111f1923f82a4ab1c5ed5,
  0xd807aa9812835b01243185be550c7dc372be5d7480deb1fe9bdc06a7c19bf174,
  0xe49b69c1efbe47860fc19dc6240ca1cc2de92c6f4a7484aa5cb0a9dc76f988da,
  0x983e5152a831c66db00327c8bf597fc7c6e00bf3d5a7914706ca635114292967,
  0x27b70a852e1b21384d2c6dfc53380d13650a7354766a0abb81c2c92e92722c85,
  0xa2bfe8a1a81a664bc24b8b70c76c51a3d192e819d6990624f40e3585106aa070,
  0x19a4c1161e376c082748774c34b0bcb5391c0cb34ed8aa4a5b9cca4f682e6ff3,
  0x748f82ee78a5636f84c878148cc7020890befffaa4506cebbef9a3f7c67178f2].flatMap eightWords

/-- The initial hash value. -/
def start : List Nat :=
  eightWords 0x6a09e667bb67ae853c6ef372a54ff53a510e527f9b05688c1f83d9ab5be0cd19

/-- Addition modulo 2^32. -/
def add (a b : Nat) : Nat := (a + b) % 4294967296

/-- Rotation to the right of a 32-bit word. -/
def rotr (x n : Nat) : Nat := (x >>> n ||| x <<< (32 - n)) % 4294967296

/-- The message schedule: 48 words added to the 16 of the block. -/
def schedule : Nat → List Nat → List Nat
  | 0, w => w
  | k + 1, w =>
    let n := w.length
    let g (j : Nat) := w.getD (n - j) 0
    let s0 := rotr (g 15) 7 ^^^ rotr (g 15) 18 ^^^ (g 15 >>> 3)
    let s1 := rotr (g 2) 17 ^^^ rotr (g 2) 19 ^^^ (g 2 >>> 10)
    schedule k (w ++ [add (add s0 s1) (add (g 16) (g 7))])

/-- One round on the eight working words. -/
def round (v : List Nat) (kw : Nat × Nat) : List Nat :=
  match v with
  | [a, b, c, d, e, f, g, h] =>
    let s1 := rotr e 6 ^^^ rotr e 11 ^^^ rotr e 25
    let ch := (e &&& f) ^^^ ((4294967295 ^^^ e) &&& g)
    let t1 := add (add h s1) (add ch (add kw.1 kw.2))
    let s0 := rotr a 2 ^^^ rotr a 13 ^^^ rotr a 22
    let mj := (a &&& b) ^^^ (a &&& c) ^^^ (b &&& c)
    [add t1 (add s0 mj), a, b, c, add d t1, e, f, g]
  | _ => v

/-- One block of 16 words. -/
def block (h : List Nat) (w : List Nat) : List Nat :=
  List.zipWith add h ((List.zip roundKeys (schedule 48 w)).foldl round h)

/-- The big-endian words of a list of bytes. -/
def words : Nat → List Byte → List Nat
  | 0, _ => []
  | n + 1, bs => beNat (bs.take 4) :: words n (bs.drop 4)

/-- The blocks of a padded message. -/
def blocks : Nat → List Byte → List Nat → List Nat
  | 0, _, h => h
  | n + 1, bs, h => blocks n (bs.drop 64) (block h (words 16 (bs.take 64)))

/-- SHA-256 of a message: 32 bytes. -/
def sha256 (m : List Byte) : List Byte :=
  let z := (119 - m.length % 64) % 64
  let p := m ++ [BitVec.ofNat 8 0x80] ++ List.replicate z (BitVec.ofNat 8 0) ++ beBytes 8 (8 * m.length)
  (blocks (p.length / 64) p start).flatMap (beBytes 4)

/-- HMAC-SHA-256 of a message under a key of at most 64 bytes. -/
def hmac (key m : List Byte) : List Byte :=
  let k := key ++ List.replicate (64 - key.length) (BitVec.ofNat 8 0)
  sha256 (k.map (· ^^^ BitVec.ofNat 8 0x5c)
    ++ sha256 (k.map (· ^^^ BitVec.ofNat 8 0x36) ++ m))

end Sys2Proof.Machine.Sha
end

