-- ==== Sys2Proof/Machine/Buffers.lean ====
section
/-! DEFINITION. Buffers and their banks, sealing and loss concealment, and stream ingest
(06_stream_ingest.md, R177 to R191; R155, R159, R162 of 05_husk_codec.md for tiles on arrival). -/
namespace Sys2Proof.Machine

/-! ## Banks -/

/-- The master and port of a buffer's seal and concealment: its slot's ingest path, or a Pip core
(R189, R190); for a frozen ingest path, whose tiles are still concealed, a Pip core as well (R31). Which of the four
cores it is, the spec leaves open: the lowest that is not frozen, a DESIGN CHOICE (log 40). -/
def State.bufMaster (s : State) (n : Nat) : Master × Port :=
  let m : Master := ⟨true, Fin.ofNat 256 (s.reg .BUF_SOURCE n)⟩
  if s.reg .BUF_SOURCE n < 256 && !s.isFrozen m then (m, .ingest) else (s.pipMaster, .pip)

/-- A read for a buffer's seal; where it freezes the ingest path, a Pip core makes it instead. -/
def State.bufFetch (s : State) (n a len : Nat) : ReadAnswer × State :=
  let (m, p) := s.bufMaster n
  let (r, s1) := s.fetch m p a len
  if r.frozen && m.ingest then s1.fetch s1.pipMaster .pip a len else (r, s1)

/-- A write for a buffer's seal, likewise. -/
def State.bufStore (s : State) (n a : Nat) (data : List Byte) : State :=
  let (m, p) := s.bufMaster n
  let (f, s1) := s.store m p a data
  if f && m.ingest then (s1.store s1.pipMaster .pip a data).2 else s1

/-- Address of bank `k` of buffer `n` (R178). -/
def State.bankAddr (s : State) (n k : Nat) : Nat := s.reg .BUF_BASE n + k * s.bufBankSize n

/-- Address of the slot of tile `i` in bank `k` (R178). -/
def State.slotAddr (s : State) (n k i : Nat) : Nat :=
  s.bankAddr n k + bufIndexSize (s.reg .BUF_KIND n) (s.reg .BUF_WIDTH n) (s.reg .BUF_HEIGHT n)
    + i * bufSlotSize (s.reg .BUF_FORMAT n) (s.reg .BUF_STORE n)

/-- Writes index entry `i` of bank `k`. -/
def State.putEntry (s : State) (n k i e : Nat) : State := s.bufStore n (s.entryAddr n k i) (leBytes 8 e)

/-- A free bank becomes FILL with a frame number, its index cleared to zeros (R182). -/
def State.openFill (s : State) (n k frame : Nat) : State :=
  let b := bankIx n k
  let s1 := (((((s.setBank n 2 (some k)).setReg .iBUF_SEAL n 0).setReg .iBK_FRAME b frame).setReg .iBK_CUE b
    0).setReg .iBK_INDEX b (s.bankAddr n k)).setReg .iBK_BASE b (s.bankAddr n k)
  let s2 := s1.bufStore n (s.bankAddr n k) (List.replicate (8 * s.bufNt n) (BitVec.ofNat 8 0))
  { s2 with ingestRefs := s2.ingestRefs.filter (fun e => !(e.1 == n && e.2.1 == k)) }

/-- The source frame number of the bank in a role. -/
def State.roleFrame (s : State) (n role : Nat) : Option Nat :=
  (s.bankOf n role).map (fun k => s.reg .iBK_FRAME (bankIx n k))

/-- The signed 32-bit difference `a - b` of sequence and frame numbers (R185). -/
def sdiff32 (a b : Nat) : Int := asInt 32 (a + 2 ^ 32 - b % 2 ^ 32)

/-- Whether frame `f` is newer than every frame of the roles listed (R185, R186). -/
def State.newerThan (s : State) (n f : Nat) (roles : List Nat) : Bool :=
  roles.all (fun r => match s.roleFrame n r with
    | some g => decide (0 < sdiff32 f g)
    | none => true)

/-! ## Sealing (R189 to R191) -/

/-- What the seal finds of tile `i`: `none` not present; else its PRED, distance and LEN. -/
def State.sealedTile (s : State) (n k i : Nat) : Option (Nat × Nat × Nat) :=
  let e := s.entry n k i
  if s.entryPoisoned n k i || !entryPresent e then none
  else if entryTransp e || s.reg .BUF_STORE n == 1 then some (0, 0, entryLen e)
  else if s.rangePoisoned (s.tileAddr n k e) 8 then none
  else
    let h := Husk.Header.ofWord (s.word (s.tileAddr n k e) 8)
    some (h.pred, h.ref + 1, entryLen e)

/-- Whether tile `i` of a sealed bank is missing: not present, or REF with its reference not present
(R190 step 1). -/
def State.tileMissing (s : State) (n k i : Nat) : Bool :=
  match s.sealedTile n k i with
  | none => true
  | some (pred, d, _) => pred == 1 && (decide (i < d) || (s.sealedTile n k (i - d)).isNone)

/-- Whether a missing tile `i` is held from source bank `k` (R190 step 3); `missing` says which tiles
of the bank being sealed are missing. -/
def State.tileHeld (s : State) (n k : Nat) (missing : Nat → Bool) (i : Nat) : Bool :=
  match s.sealedTile n k i with
  | none => false
  | some (pred, d, _) =>
    if pred = 1 then
      decide (d ≤ i) && missing (i - d) && (match s.sealedTile n k (i - d) with
        | some (p, _, _) => p != 1
        | none => false)
    else true

/-- MAXB of a bank (R160, R191): the largest fetch size of its PRESENT tiles that are not TRANSP. -/
def State.bankMaxB (s : State) (n k : Nat) : Nat :=
  if s.reg .BUF_STORE n = 1 then 0
  else (List.range (s.bufNt n)).foldl (fun mx i =>
    let e := s.entry n k i
    if entryTransp e then mx
    else match s.sealedTile n k i with
      | none => mx
      | some (pred, d, len) =>
        let r := if pred = 1 ∧ d ≤ i then
          (match s.sealedTile n k (i - d) with | some (_, _, l) => 8 * l | none => 0) else 0
        max mx (8 * len + r)) 0

/-- One missing tile is concealed (R190 steps 3 and 4). -/
def State.concealTile (s : State) (n k : Nat) (src : Option Nat) (held : Bool) (i : Nat) : State :=
  let transp := 2 ^ 47 + 2 ^ 46 + 2 ^ 45
  match src with
  | some j =>
    if held then
      let e := s.entry n j i
      let dst := s.slotAddr n k i
      let word := withBits (e ||| 2 ^ 46) 31 0 ((dst - s.bankAddr n k) / 8)
      if entryTransp e then s.putEntry n k i word
      else
        let len := if s.reg .BUF_STORE n = 1 then 5120 else 8 * entryLen e
        let (r, s1) := s.bufFetch n (s.tileAddr n j e) len
        if r.frozen || !r.poisoned.isEmpty then s1.putEntry n k i transp
        else (s1.bufStore n dst r.data).putEntry n k i word
    else s.putEntry n k i transp
  | none => s.putEntry n k i transp

/-- CONCEALED entries of a bank; in a cue frame an entry without PRESENT counts too (R191, R203). -/
def State.bankConcealed (s : State) (n k : Nat) : Nat :=
  let cue := s.reg .iBK_CUE (bankIx n k) == 1
  ((List.range (s.bufNt n)).filter (fun i =>
    entryConcealed (s.entry n k i) || (cue && !entryPresent (s.entry n k i)))).length

/-- A bank becomes READY; the READY bank it replaces becomes free (R182), and groups that wait for
their buffers are tested (R195). -/
def State.makeReady (s : State) (n k : Nat) : State :=
  let s1 := s.cond (s.bankOf n 1).isSome (fun t => t.bump .BUF_SUPERSEDED n)
  let s2 := s1.setBank n 1 (some k)
  forN 16 s2 (fun t g =>
    let bufs := t.groupBuffers g
    if t.reg .CG_STATE g = 1 ∧ t.reg .CG_TRIGGER g = 1 ∧ bufs.contains n = true
        ∧ bufs.all (fun b => (t.bankOf b 1).isSome) = true then (t.goGroup g).getD t
    else t)

/-- Counts in a slot's STR_DISCARDS: 0 FROZEN, 1 HEADER, 2 AUTH, 3 REPLAY, 4 BUFFER, 5 LATE, 6 TILE,
7 DUPLICATE, 8 NO_BANK (R185, R186, R188). -/
def State.discard (s : State) (slot cause : Nat) : State :=
  let v := s.reg .STR_DISCARDS slot
  s.setReg .STR_DISCARDS slot (blobSet v (8 * cause) 8 (blobGet v (8 * cause) 8 + 1))

/-- The entry that a REF tile of ingest takes as its reference (R162, R186): PRESENT and not concealed in the same
FILL bank. -/
def State.ingestRefEntry (s : State) (t : IngestTile) (d : Nat) : Option Nat :=
  let e := s.entry t.buf t.bank (t.index - d)
  if t.index < d ∨ entryPresent e = false ∨ entryConcealed e = true then none else some e

/-- The samples of that reference, which are kept as an uncoded block (R67). -/
def State.ingestRef (s : State) (t : IngestTile) (d f : Nat) : Option (List Husk.Sample) :=
  match s.ingestRefEntry t d with
  | none => none
  | some e =>
    if s.reg .BUF_FORMAT t.buf ≠ f then none
    else some ((List.range 1024).map (fun j =>
      let w := s.word (s.tileAddr t.buf t.bank e + 5 * j) 5
      let rgb := [(bits w 9 0 : Int), bits w 19 10, bits w 29 20]
      if f = 1 then rgb else rgb ++ [(bits w 39 30 : Int)]))

/-- Where the decoder reads the reference of a tile whose header passes (R155, R162). -/
def State.ingestRefAddr (s : State) (t : IngestTile) : Option Nat :=
  match Husk.headerOf t.data with
  | .error _ => none
  | .ok h =>
    if h.pred ≠ 1 ∨ Husk.headerFault h [s.reg .BUF_FORMAT t.buf] ≠ none then none
    else (s.ingestRefEntry t (h.ref + 1)).map (s.tileAddr t.buf t.bank)

/-- What the decoder makes of an ingest tile; `none` where it is rejected (R155, R162, R186). -/
def State.ingestDecode (s : State) (t : IngestTile) : Option (Husk.Header × List Husk.Sample) :=
  let h := Husk.Header.ofWord (leAt t.data 0 8)
  if h.pred == 1 && s.ingestRefs.contains (t.buf, t.bank, t.index - (h.ref + 1)) then none
  else match Husk.decode t.data [s.reg .BUF_FORMAT t.buf] (s.ingestRef t) with
    | .error _ => none
    | .ok r => some r

/-- The 5,120 bytes of a decoded tile (R67). -/
def ingestBytes (xs : List Husk.Sample) : List Byte :=
  xs.flatMap (fun x => leBytes 5 (packBits [(10, (x.getD 0 0).toNat), (10, (x.getD 1 0).toNat),
    (10, (x.getD 2 0).toNat), (10, (x.getD 3 1023).toNat)]))

/-- The decoder that serves a slot (R162). -/
def State.decoderOf (s : State) (slot : Nat) : Option Nat :=
  let ds := s.ingestDecoders
  if ds.isEmpty then none else some (4 + ds.getD (slot % ds.length) 0)

/-- A decoded tile is written by its decoder, and its entry by the slot's ingest path (R186). -/
def State.keepIngest (s : State) (t : IngestTile) (d : Nat) (pred : Nat) (data : List Byte) : State :=
  let dst := s.slotAddr t.buf t.bank t.index
  let (f, s1) := s.store (codecMaster d) .ingest dst data
  if f then s1
  else
    let (g, s2) := s1.store ⟨true, Fin.ofNat 256 t.slot⟩ .ingest (s1.entryAddr t.buf t.bank t.index)
      (leBytes 8 (2 ^ 47 + (dst - s1.bankAddr t.buf t.bank) / 8))
    if g || pred != 1 then s2 else { s2 with ingestRefs := (t.buf, t.bank, t.index) :: s2.ingestRefs }

/-- The ingest tile at the head of decoder `d` is decoded and written (R162, R186): the decoder reads the
reference it needs, and a poisoned reference, like a rejected tile, is discarded as TILE and counted in
HK_INGEST_REJECTED (R278); a decoder that a request freezes writes nothing. -/
def State.decodeIngest (s : State) (t : IngestTile) (d : Nat) : State :=
  if entryPresent (s.entry t.buf t.bank t.index) then s.discard t.slot 7
  else
    let (r, s1) := match s.ingestRefAddr t with
      | some a => s.fetch (codecMaster d) .ingest a 5120
      | none => (⟨false, [], []⟩, s)
    if r.frozen then s1
    else match (if r.poisoned.isEmpty then s1.ingestDecode t else none) with
      | none => (s1.discard t.slot 6).bump .HK_INGEST_REJECTED 0
      | some (hd, xs) => s1.keepIngest t d hd.pred (ingestBytes xs)

/-- The tiles of a buffer's SEALING bank that still wait are taken as decoded, in order: what its seal will
find (R189 step 1). -/
def State.decodeSealing (s : State) (n : Nat) : State :=
  match s.bankOf n 3 with
  | none => s
  | some k =>
    let mine (t : IngestTile) := t.buf == n && t.bank == k
    (s.ingest.filter mine).foldl (fun u t => u.decodeIngest t ((u.decoderOf t.slot).getD 4))
      { s with ingest := s.ingest.filter (fun t => !mine t) }

/-- The reads of a seal (R189 step 2): the index, and the header of every PRESENT tile. -/
def State.sealReads (s : State) (n k : Nat) : ReadAnswer × State :=
  let (r, s1) := s.bufFetch n (s.bankAddr n k) (8 * s.bufNt n)
  (r, forN (s.bufNt n) s1 (fun t i =>
    let e := t.entry n k i
    if entryPresent e && !entryTransp e && t.reg .BUF_STORE n == 0 && !t.entryPoisoned n k i then
      (t.bufFetch n (t.tileAddr n k e) 8).2 else t))

/-- The FILL bank is sealed (R182, R189). At most one bank is SEALING: where one still is, the FILL bank is
sealed as soon as that one is READY, a DESIGN CHOICE (log 88), since the spec does not say what a second seal does
meanwhile. -/
def State.sealFill (s : State) (n : Nat) : State :=
  match s.bankOf n 2 with
  | none => s
  | some k =>
    if (s.bankOf n 3).isSome then s.setReg .iBUF_SEAL n 1
    else ((s.setBank n 3 (some k)).setBank n 2 none).setReg .iBUF_SEAL n 0

/-- CONCEALED is raised where concealment supplied tiles, and a slot's lost tiles are counted (R190). -/
def State.noteConcealed (s : State) (n k count : Nat) : State :=
  if count = 0 then s
  else
    let src := s.reg .BUF_SOURCE n
    let s1 := s.cond (decide (src < 256)) (fun t => t.bumpBy .STR_TILES_LOST src count)
    s1.raise Code.concealed (if src < 256 then some (s1.reg .STR_QUEUE src) else none)
      [(16, n), (32, s1.reg .iBK_FRAME (bankIx n k)), (32, count)]

/-- Sealing of the SEALING bank ends (R189, R190, R191): the index and the headers are read, missing tiles are
concealed, and the bank becomes READY; a FILL bank that waits for that is sealed then. -/
def State.completeSeal (s : State) (n : Nat) : State :=
  match s.bankOf n 3 with
  | none => s
  | some k =>
    let nt := s.bufNt n
    let (r, s1) := s.sealReads n k
    let o := s1.withFindings s.seen (s.seen.found.map Prod.fst)
    let missing (i : Nat) : Bool := r.frozen || o.tileMissing n k i
    let src := if s.reg .BUF_CONCEAL n = 1 then none else (s.bankOf n 1).or (s.bankOf n 0)
    let todo := (List.range nt).filter missing
    let held (i : Nat) : Bool := match src with
      | some j => o.tileHeld n j missing i
      | none => false
    let s2 := todo.foldl (fun t i => t.concealTile n k src (held i) i) s1
    let b := bankIx n k
    let s3 := (((s2.setReg .iBK_MAXB b (s2.bankMaxB n k)).setReg .iBK_CONC b
      (s2.bankConcealed n k)).setBank n 3 none).makeReady n k
    (s3.noteConcealed n k todo.length).cond (s3.reg .iBUF_SEAL n == 1) (fun t => t.sealFill n)

/-! ## Buffer commands -/

/-- Whether a combination of kind, FORMAT and store is allowed (R177, R181). -/
def comboOk (kind format store : Nat) : Bool :=
  match kind with
  | 0 => true
  | 3 => store == 0 && (format == 2 || format == 3)
  | _ => decide (format ≤ 1) && decide (store ≤ 1)

/-- Whether a buffer refuses its geometry parameters (R181). -/
def State.bufBusy (s : State) (n : Nat) : Bool :=
  (s.bankOf n 1).isSome || (s.bankOf n 2).isSome || (s.bankOf n 3).isSome || s.bufferNamed n

/-- The register a buffer parameter is. -/
def bufReg : BufParam → Reg
  | .kind => .BUF_KIND | .format => .BUF_FORMAT | .store => .BUF_STORE | .width => .BUF_WIDTH
  | .height => .BUF_HEIGHT | .base => .BUF_BASE | .source => .BUF_SOURCE | .conceal => .BUF_CONCEAL

/-- Whether writing the parameter frees the FRONT bank: subindex 0x01 to 0x06 (R181). -/
def bufFrees : BufParam → Bool
  | .source => false | .conceal => false | _ => true

/-- BUF_PARAM_WRITE (R181). -/
def execBufParamWrite (acc : Accessor) (n : Fin 1024) (p : BufParam) (v : Nat) (s : State) : Out :=
  .next (writeParam s acc (bufReg p) n.val v (fun t =>
    if t.bufBusy n.val then t.refuse Code.bufBusy
    else
      let u := t.setReg (bufReg p) n.val v
      if !comboOk (u.reg .BUF_KIND n.val) (u.reg .BUF_FORMAT n.val) (u.reg .BUF_STORE n.val) then
        t.refuse Code.odRange
      else u.cond (bufFrees p) (fun w => w.setBank n.val 0 none)))

/-- The frame number BUF_CTRL OPEN gives (R182). -/
def State.openFrame (s : State) (n : Nat) : Nat :=
  match s.roleFrame n 0, s.roleFrame n 1 with
  | none, none => 0
  | some f, none => (f + 1) % 2 ^ 32
  | none, some f => (f + 1) % 2 ^ 32
  | some f, some g => ((if 0 < sdiff32 f g then f else g) + 1) % 2 ^ 32

/-- BUF_CTRL_OPEN (R182). -/
def execBufCtrlOpen (acc : Accessor) (n : Fin 1024) (s : State) : Out :=
  .next (writeParam s acc .BUF_CTRL n.val 1 (fun t =>
    if t.reg .BUF_KIND n.val = 0 then t.refuse Code.odRange
    else if (t.bankOf n.val 2).isSome || (t.bankOf n.val 3).isSome then t.refuse Code.bufBusy
    else match t.freeBank n.val with
      | none => t.refuse Code.bufBusy
      | some k => t.openFill n.val k (t.openFrame n.val)))

/-- BUF_CTRL_SEAL (R182, R189). -/
def execBufCtrlSeal (acc : Accessor) (n : Fin 1024) (s : State) : Out :=
  .next (writeParam s acc .BUF_CTRL n.val 2 (fun t =>
    if (t.bankOf n.val 2).isSome then t.sealFill n.val else t.refuse Code.bufBusy))

/-- BUF_CTRL_DISCARD (R182): tiles that wait for it are dropped with it. -/
def execBufCtrlDiscard (acc : Accessor) (n : Fin 1024) (s : State) : Out :=
  .next (writeParam s acc .BUF_CTRL n.val 3 (fun t =>
    match t.bankOf n.val 2 with
    | none => t.refuse Code.bufBusy
    | some k =>
      (({ t with ingest := t.ingest.filter (fun x => !(x.buf == n.val && x.bank == k)) } : State).setBank
        n.val 2 none).setReg .iBUF_SEAL n.val 0))

/-- SEAL_COMPLETE (R182, R190): decoding and concealment of the SEALING bank have ended. The copies
of a HOST buffer wait while the firmware restarts (R496), and all while the channels do not serve (R296). -/
def execSealComplete (n : Fin 1024) (seen : Seen) (s : State) : Out :=
  if (s.bankOf n.val 3).isNone || !s.storeServes || (s.reg .BUF_SOURCE n.val == 0x100 && s.reg .iPHASE 0 != 1)
      || s.ingest.any (fun t => t.buf == n.val && s.bankOf n.val 3 == some t.bank) then .next s
  else .next (((s.see seen).completeSeal n.val).see s.seen)

/-! ## Stream packets (R184 to R187) -/

/-- The fields of a packet header (R184). -/
structure PacketHead where
  magic : Nat
  ver : Nat
  type : Nat
  session : Nat
  buffer : Nat
  seq : Nat
  frame : Nat
  tileFirst : Nat
  count : Nat
  flags : Nat
  group : Nat
  rsvd : Nat
  deriving DecidableEq, Repr

/-- The header of a packet's first 32 bytes. -/
def PacketHead.ofBytes (p : List Byte) : PacketHead :=
  let w := leAt p 0 32
  ⟨bits w 15 0, bits w 23 16, bits w 31 24, bits w 47 32, bits w 63 48, bits w 95 64, bits w 127 96,
    bits w 159 128, bits w 175 160, bits w 183 176, bits w 207 192,
    bits w 255 208 + bits w 191 184 + bits w 183 177⟩

/-- Cuts `count` whole Husk tiles, each its own LEN × 8 bytes, from the front of a list; `none` where
they run out or a length is 0. -/
def takeTiles : Nat → List Byte → Option (List (List Byte) × List Byte)
  | 0, bs => some ([], bs)
  | k + 1, bs =>
    let len := 8 * (Husk.Header.ofWord (leAt bs 0 8)).len
    if bs.length < 8 ∨ len = 0 ∨ bs.length < len then none
    else match takeTiles k (bs.drop len) with
      | none => none
      | some (ts, rest) => some (bs.take len :: ts, rest)

/-- The body of a packet without its tag. -/
def packetBody (p : List Byte) (h : PacketHead) : List Byte :=
  if h.flags % 2 = 1 then (p.drop 32).take (p.length - 48) else p.drop 32

/-- The tiles of a packet whose header and lengths are right (R185 order 1); `none` otherwise. -/
def packetTiles (p : List Byte) (h : PacketHead) : Option (List (List Byte)) :=
  let tag := if h.flags % 2 = 1 then 16 else 0
  if h.magic ≠ 0x4C50 ∨ h.ver ≠ 1 ∨ h.rsvd ≠ 0 ∨ p.length < 32 + tag ∨ 9216 < p.length then none
  else if h.type = 1 then
    if h.count < 1 ∨ 64 < h.count ∨ h.group ≠ 0xFFFF then none
    else match takeTiles h.count (packetBody p h) with
      | some (ts, []) => some ts
      | _ => none
  else if h.type = 2 then
    if h.count = 0 ∧ (h.group < 16 ∨ h.group = 0xFFFF) ∧ packetBody p h = [] then some [] else none
  else none

/-- Whether the tag of a packet matches under its session's key (R184). -/
def State.tagOk (s : State) (slot : Nat) (p : List Byte) : Bool :=
  let sess := s.reg .STR_SESSION slot
  s.reg .iSS_KEYED sess == 1 &&
    (Sha.hmac (leBytes 32 (s.reg .iSS_KEY sess)) (p.take (p.length - 16))).take 16
      == p.drop (p.length - 16)

/-- Whether a SEQ fails the replay check of R185. -/
def State.replayed (s : State) (slot seq : Nat) : Bool :=
  let high := s.reg .iSEQ_HIGH slot
  high != 0 && (decide (sdiff32 seq (high - 1) ≤ -1024) || s.replay.contains (slot, seq))

/-- The first cause for which a packet is discarded (R185). -/
def State.packetFault (s : State) (slot : Nat) (eth : Bool) (p : List Byte) : Option Nat :=
  let h := PacketHead.ofBytes p
  let n := h.buffer
  let auth := h.flags % 2 == 1
  if s.isFrozen ⟨true, Fin.ofNat 256 slot⟩ then some 0
  else if h.session ≠ s.reg .STR_SESSION slot ∨ (packetTiles p h).isNone then some 1
  else if (auth && !s.tagOk slot p) || (!auth && eth && s.reg .STR_AUTH slot == 1) then some 2
  else if s.replayed slot h.seq then some 3
  else if 1023 < n ∨ s.reg .BUF_KIND n = 0 ∨ s.reg .BUF_SOURCE n ≠ slot then some 4
  else if (match s.roleFrame n 2 with
      | some f => decide (sdiff32 h.frame f < 0)
      | none => !s.newerThan n h.frame [3, 1, 0]) then some 5
  else if h.type = 1 ∧ s.bufNt n < h.tileFirst + h.count then some 6
  else none

/-- A packet is accepted: its SEQ enters the replay history (R185, R188). -/
def State.acceptSeq (s : State) (slot seq : Nat) : State :=
  let high := s.reg .iSEQ_HIGH slot
  let top := if high = 0 ∨ 0 < sdiff32 seq (high - 1) then seq else high - 1
  ({ s with replay := (slot, seq) :: s.replay.filter (fun e =>
      e.1 != slot || decide (-1024 < sdiff32 e.2 top)) } : State).setReg .iSEQ_HIGH slot (top + 1)
    |>.bump .STR_PACKETS slot

/-- The FILL bank for frame `f`, opened where the frame needs one (R182, R186, R189): an older FILL
is sealed first; no bank where none is free, or where the older FILL must wait for its seal. -/
def State.fillFor (s : State) (n f : Nat) : Option Nat × State :=
  if s.roleFrame n 2 = some f then (s.bankOf n 2, s)
  else
    let s1 := s.sealFill n
    match s1.bankOf n 2, s1.freeBank n with
    | none, some k => (some k, s1.openFill n k f)
    | _, _ => (none, s1)

/-- Whether step 3 of R155 refuses a REF tile for a coded bank: no tile at its distance, or one of another FORMAT
or itself REF. A reference that has not arrived is settled at the seal (R190). -/
def State.refRefused (s : State) (n k i : Nat) (h : Husk.Header) : Bool :=
  let d := h.ref + 1
  h.pred == 1 && (decide (i < d) || (
    let e := s.entry n k (i - d)
    entryPresent e && !entryTransp e && (
      let r := Husk.Header.ofWord (s.word (s.tileAddr n k e) 8)
      r.format != h.format || r.pred == 1)))

/-- A tile of a coded bank is written with its entry by the slot's ingest path (R186). -/
def State.keepCoded (s : State) (slot n k i len : Nat) (tile : List Byte) : State :=
  let m : Master := ⟨true, Fin.ofNat 256 slot⟩
  let dst := s.slotAddr n k i
  let (f, s1) := s.store m .ingest dst tile
  if f then s1
  else (s1.store m .ingest (s1.entryAddr n k i)
    (leBytes 8 (2 ^ 47 + 2 ^ 32 * len + (dst - s1.bankAddr n k) / 8))).2

/-- One tile of an accepted TILES packet is placed (R186); what follows a freeze of the path is lost (R31). -/
def State.placeTile (s : State) (slot n f i : Nat) (tile : List Byte) : State :=
  if s.isFrozen ⟨true, Fin.ofNat 256 slot⟩ then s
  else
    let (bank, s1) := s.fillFor n f
    match bank with
    | none => s1.discard slot 8
    | some k =>
      if entryPresent (s1.entry n k i) then s1.discard slot 7
      else if s1.reg .BUF_STORE n = 1 then
        ({ s1 with ingest := s1.ingest ++ [⟨slot, n, k, i, tile⟩] } : State).loseIngest
      else
        let h := Husk.Header.ofWord (leAt tile 0 8)
        if (Husk.headerFault h [s1.reg .BUF_FORMAT n]).isSome || s1.refRefused n k i h then s1.discard slot 6
        else s1.keepCoded slot n k i h.len tile

/-- An END packet (R186). -/
def State.endPacket (s : State) (slot : Nat) (h : PacketHead) : State :=
  let n := h.buffer
  let s1 :=
    if s.roleFrame n 2 = some h.frame then s.sealFill n
    else if s.newerThan n h.frame [3, 2, 1, 0] then
      let (bank, u) := s.fillFor n h.frame
      if bank.isSome then u.sealFill n else u
    else s
  if h.group < 16 ∧ s1.reg .CG_OWNER h.group = s1.reg .STR_SESSION slot
      ∧ (s1.reg .CG_STATE h.group = 1 ∨ s1.reg .CG_STATE h.group = 3) then
    (s1.goGroup h.group).getD s1
  else s1

/-- A packet that reached a slot (R185, R186). -/
def State.receivePacket (s : State) (slot : Nat) (eth : Bool) (p : List Byte) : State :=
  let h := PacketHead.ofBytes p
  match s.packetFault slot eth p with
  | some c => s.discard slot c
  | none =>
    let s1 := s.acceptSeq slot h.seq
    if h.type = 2 then s1.endPacket slot h
    else
      (((packetTiles p h).getD []).foldl (fun (acc : Nat × State) t =>
        (acc.1 + 1, acc.2.placeTile slot h.buffer h.frame acc.1 t)) (h.tileFirst, s1)).2

/-- The open slot whose session a datagram names, where it takes packets over Ethernet (R183,
R185). -/
def State.slotOfDatagram (s : State) (p : List Byte) : Option Nat :=
  if p.length < 32 then none
  else (List.range 256).find? (fun n => s.reg .STR_STATE n != 0
    && s.reg .STR_SESSION n == (PacketHead.ofBytes p).session && s.reg .STR_TRANSPORT n == 0)

/-- A UDP datagram to ING_PORT (R183, R185). -/
def State.streamDatagram (s : State) (p : List Byte) : State :=
  match s.slotOfDatagram p with
  | none => s.bump .ING_UNKNOWN 0
  | some n => s.receivePacket n true p

/-- Whether stream ingest is served: the channels serve, and Flaed is not in RECOVERY (R296, R490). -/
def State.ingestServes (s : State) : Bool := s.storeServes && !s.recovery

/-- STREAM_TILES_PACKET: a datagram to ING_PORT that is no END packet (R183 to R186). -/
def execStreamTilesPacket (p : List Byte) (seen : Seen) (s : State) : Out :=
  if (PacketHead.ofBytes p).type = 2 || !s.ingestServes then .next s
  else .next (((s.see seen).streamDatagram p).see s.seen)

/-- STREAM_END_PACKET: a datagram to ING_PORT of TYPE END (R183 to R186). -/
def execStreamEndPacket (p : List Byte) (seen : Seen) (s : State) : Out :=
  if (PacketHead.ofBytes p).type = 2 && s.ingestServes then .next (((s.see seen).streamDatagram p).see s.seen)
  else .next s

/-- STR_RING_TAIL takes a value; a slot that waited for it after a PCIE reset fetches again (R483). -/
def State.ringTail (s : State) (n v : Nat) : State := (s.setReg .STR_RING_TAIL n v).setReg .iSTR_WAIT n 0

/-- STR_RING_TAIL_WRITE (R187): by a dictionary write, or by the doorbell of F1 (`none`). A tail at or above
STR_RING_SIZE is refused with OD_RANGE, and by the doorbell it is ignored: a DESIGN CHOICE (log 88), since R187 does
not say. -/
def execStrRingTailWrite (acc : Option Accessor) (n : Fin 256) (tail : BitVec 16) (s : State) : Out :=
  match acc with
  | some a => .next (writeParam s a .STR_RING_TAIL n.val tail.toNat
      (fun t => t.ringTail n.val tail.toNat))
  | none =>
    if tail.toNat < s.reg .STR_RING_SIZE n.val ∧ s.reg .PCI_LINK 0 ≠ 0 then
      .next (s.ringTail n.val tail.toNat)
    else .next s

/-- Whether the ring of a slot has a packet that F1 can fetch (R187, R483). -/
def State.ringReady (s : State) (k : Nat) : Bool :=
  s.reg .STR_STATE k != 0 && s.reg .STR_TRANSPORT k == 1 && s.reg .STR_RING_SIZE k != 0
    && s.reg .STR_RING_HEAD k != s.reg .STR_RING_TAIL k && s.reg .PCI_LINK 0 != 0 && s.reg .iSTR_WAIT k == 0

/-- The packet at the head of a ring, whose descriptor host memory gives as `desc` (R187): HEAD advances, and the
packet is processed. A descriptor that is not as R187 says fetches nothing and is discarded as HEADER. -/
def State.ringPacket (s : State) (k desc : Nat) (p : List Byte) : State :=
  let head := s.reg .STR_RING_HEAD k
  let len := bits desc 63 32
  let s1 := (s.setReg .STR_RING_HEAD k ((head + 1) % s.reg .STR_RING_SIZE k)).send
    [.hostRead (s.reg .STR_RING_BASE k + 16 * head) 16]
  if bits desc 31 0 ≠ 0 ∨ len < 32 ∨ 9216 < len then s1.discard k 1
  else (s1.sendMore [.hostRead (bits desc 127 64) len]).receivePacket k false (p.take len)

/-- STREAM_PACKET_FETCH (R187): the next packet of a PCIe ring, fetched from host memory. -/
def execStreamPacketFetch (n : Fin 256) (desc : BitVec 128) (p : List Byte) (seen : Seen) (s : State) : Out :=
  if s.ringReady n.val && s.ingestServes then
    .next (((s.see seen).ringPacket n.val desc.toNat p).see s.seen)
  else .next s

/-- INGEST_TILE_DECODED (R162): the decoder of a slot, holding its standing grant, finishes the tile at the head of
its queue, where that tile is the slot's; it waits while ingest is not served. -/
def execIngestTileDecoded (slot : Fin 256) (seen : Seen) (s : State) : Out :=
  match s.decoderOf slot.val with
  | none => .next s
  | some d =>
    match s.ingest.find? (fun t => s.decoderOf t.slot == some d) with
    | none => .next s
    | some t =>
      if t.slot = slot.val ∧ s.granted (.huskStanding d) = true ∧ s.ingestServes = true then
        let s1 : State := { s with ingest := s.ingest.erase t }
        .next (((s1.see seen).decodeIngest t d).see s.seen)
      else .next s

end Sys2Proof.Machine
end

