-- ==== Sys2Proof/Machine/Events.lean ====
section
/-! DEFINITION. What a boundary sets off elsewhere: peripheral requests of laces (R318 of
10_laces_skivers.md) and the edges of eyelet outputs in FRAME mode (R366 of 11_network_time.md). -/
namespace Sys2Proof.Machine

/-- Whether a lace holds a descriptor in progress: WAIT_REQ, WAIT_GRANT or RUNNING. -/
def State.laceActive (s : State) (n : Nat) : Bool :=
  let st := s.reg .LC_STATE n
  st == 1 || st == 2 || st == 3

/-- REQ_SRC of a lace's active descriptor (R313). -/
def State.laceReq (s : State) (n : Nat) : Nat := bits (s.reg .LC_CUR_DESC n) 255 252

/-- An event of peripheral request `code` (R318): it permits one burst of every lace that waits for
it, or is counted as missed where a burst is still pending. -/
def State.laceEvent (s : State) (code : Nat) : State :=
  forN 64 s (fun t n =>
    if t.laceActive n && t.laceReq n == code then
      (if t.reg .iLC_EVENT n = 1 then t.bump .LC_REQ_MISSED n else t.setReg .iLC_EVENT n 1)
    else t)

/-- EYE_OFFSET of an output. -/
def State.eyeOffset (s : State) (e : Nat) : Int := s.regInt .EYE_OFFSET e

/-- Whether an output runs in FRAME mode on a generator's frame number (R366). -/
def State.eyeFrame (s : State) (e g frame : Nat) : Bool :=
  s.reg .EYE_STATE e == 1 && s.reg .EYE_MODE e == 3 && s.reg .EYE_GEN e == g
    && frame % s.reg .EYE_EVERY e == 0

/-- Rounded down to a multiple of 0.25 ns (R366). -/
def quarterNs (x : Int) : Int := x / 2 ^ 14 * 2 ^ 14

/-- The edge of a FRAME output at `t3` (1/3 ns), in 2^-16 ns, rounded down to a multiple of 0.25 ns (R366). -/
def edgeAt3 (t3 : Int) : Int := 4 * t3 / 3 * 2 ^ 14

/-- The signed difference between network time `now` and `e`, both in 2^-16 ns (R14, R368). -/
def since16 (now : Nat) (e : Int) : Int := asInt 80 (((now : Int) - e) % 2 ^ 80).toNat

/-- Whether network time, in 2^-16 ns, has reached `e`, by signed difference (R14, R368). -/
def reached16 (now : Nat) (e : Int) : Bool := decide (0 ≤ since16 now e)

/-- A boundary of generator `g` at network time `at3` (1/3 ns) with frame number `frame`: the edges
it gives to outputs in FRAME mode (R366). One with a negative offset whose edge was already passed
from LAST_NEXT gets none. -/
def State.eyeBoundary (s : State) (g frame : Nat) (at3 : Int) : State :=
  forN 8 s (fun t e =>
    if t.eyeFrame e g frame then
      (if t.eyeOffset e < 0 ∧ t.reg .iEYE_FRAME e = frame + 1 then t
       else { t with eyeEdges := t.eyeEdges ++ [(e, at3 + 3 * t.eyeOffset e)] })
    else t)

end Sys2Proof.Machine
end

