-- ==== Sys2Proof/Machine/Raster.lean ====
section
/-! DEFINITION. The timing grid (07_scanout.md, R207 to R211): aligned instants, boundaries and raster
positions of the Last generators; and which physical lanes carry a surface (R228 to R230 of
08_welt_link.md). Instants are compared exactly, in units of 2^-48 / 3 ns. -/
namespace Sys2Proof.Machine

/-- Units of 2^-48 / 3 ns in one third of a nanosecond. -/
def third : Nat := 2 ^ 48

/-! ## Generators -/

/-- Whether the generators run: from RUNNING on (R491), until a shutdown stops their clock (R439). -/
def State.gensRun (s : State) : Bool := s.reg .iG_RUN 0 == 1

/-- Period of a generator at the rate in force, in 1/3 ns (R207). -/
def State.genP3 (s : State) (g : Nat) : Nat := ratePeriod3 (s.reg .LAST_RATE g)

/-- Network time, in units, at which the raster of the frame under way ends by the local count
(R210). -/
def State.rasterEnd (s : State) (g : Nat) : Int :=
  3 * ((s.tb : Int) + s.reg .iG_BLOCAL g - s.local_) + s.genP3 g * third

/-- Whether a bank that a commit swaps is still SEALING (R194). -/
def State.sealing (s : State) (c : Commit) : Bool := c.buffers.any (fun b => (s.bankOf b 3).isSome)

/-- Whether an accepted commit applies at its surface's next boundary (R193, R194, R198, R496). -/
def State.applies (s : State) (a : Accepted) : Bool :=
  s.reg .iPHASE 0 == 1 && a.skip == 0 && !s.sealing a.commit

/-- The rate a generator has from its next boundary on (R214): that of the commits that apply there,
or, without users, the one written. -/
def State.comingRate (s : State) (g : Nat) : Nat :=
  let now := s.reg .LAST_RATE g
  if s.reg .LAST_USERS g = 0 then
    (if s.reg .iG_PENDRATE g < 13 then s.reg .iG_PENDRATE g else now)
  else s.acceptedById.foldl (fun r a =>
    if s.genOf a.surf = g ∧ s.applies a = true then
      (a.commit.forSurf a.surf).foldl (fun q kv =>
        if kv.1 = regKey .LAST_RATE g then kv.2 else q) r
    else r) now

/-- Period of the grid a generator's next boundary lies on, in 1/3 ns (R214). -/
def State.gridP3 (s : State) (g : Nat) : Nat := ratePeriod3 (s.comingRate g)

/-- The number m of the first aligned instant at or after `t` units (R208). -/
def State.alignedM (s : State) (g : Nat) (t : Int) : Int :=
  -((3 * s.reg .LAST_PHASE g * third - t) / (s.gridP3 g * third : Nat))

/-- The aligned instant A_m in 1/3 ns (R208). -/
def State.alignedAt (s : State) (g : Nat) (m : Int) : Int :=
  3 * (s.reg .LAST_PHASE g : Int) + m * s.gridP3 g

/-- The number of the aligned instant that is a generator's next boundary (R210, R211): from RUNNING
on for the first one, otherwise at or after the end of the raster less LAST_TOL. -/
def State.nextM (s : State) (g : Nat) : Int :=
  s.alignedM g (if s.reg .iG_COUNT g = 0 then 3 * s.reg .iRUN_NS 0 * third
    else s.rasterEnd g - 3 * s.reg .LAST_TOL g * third)

/-- The next boundary of a generator in 1/3 ns. -/
def State.nextB3 (s : State) (g : Nat) : Int := s.alignedAt g (s.nextM g)

/-- The frame number a generator will have at its next boundary (R211). -/
def State.openingNo (s : State) (g : Nat) : Nat :=
  if s.reg .iG_COUNT g = 0 ∨ s.reg .iG_RESYNC g = 1 then (s.nextM g % 2 ^ 64).toNat
  else (s.reg .LAST_FRAME g + 1) % 2 ^ 64

/-- The time, in 1/3 ns, of the boundary that LAST_NEXT gives (R212, R366). -/
def State.next3 (s : State) (g : Nat) : Int :=
  if ((s.nextB3 g / 3) % 2 ^ 64).toNat = s.reg .LAST_NEXT g then s.nextB3 g else 3 * s.reg .LAST_NEXT g

/-- The edge that output `e` in FRAME mode takes from LAST_NEXT, in 2^-16 ns: one with a negative EYE_OFFSET
that it has not passed (R366). -/
def State.aheadEdge (s : State) (e : Nat) : Option Int :=
  let g := s.reg .EYE_GEN e
  let n := s.openingNo g
  if s.eyeOffset e < 0 ∧ s.gensRun = true ∧ s.eyeFrame e g n = true ∧ s.reg .iEYE_FRAME e ≠ n + 1 then
    some (edgeAt3 (s.next3 g + 3 * s.eyeOffset e))
  else none

/-- An edge that output `e` would take from LAST_NEXT is not produced where its time has been reached at the
instant that it is scheduled: the difference of R368 does not change from negative (DEDUCED). -/
def State.passMissed (s : State) (e : Nat) : State :=
  match s.aheadEdge e with
  | some t => if reached16 s.now16 t then s.setReg .iEYE_FRAME e (s.openingNo (s.reg .EYE_GEN e) + 1) else s
  | none => s

/-- LAST_NEXT is brought up to date (R212); edges with a negative EYE_OFFSET are scheduled from it at the
instant that it is set (R366). -/
def State.refreshNext (s : State) (g : Nat) : State :=
  let v := ((s.nextB3 g / 3) % 2 ^ 64).toNat
  if v = s.reg .LAST_NEXT g then s
  else forN 8 (s.setReg .LAST_NEXT g v) (fun t e => if t.reg .EYE_GEN e = g then t.passMissed e else t)

/-- Whether a generator's next boundary has come: the raster of its frame has ended by the local count
and network time has reached the aligned instant (R209, R210). -/
def State.genDue (s : State) (g : Nat) : Bool :=
  s.gensRun && decide (s.nextB3 g * third ≤ 3 * s.tb)
    && (s.reg .iG_COUNT g == 0
      || decide (s.genP3 g * third + 3 * s.reg .iG_BLOCAL g ≤ 3 * s.local_))

/-- A generator takes its boundary (R210, R211, R214): slips are counted, the frame number moves, and a
rate that waits on a generator without users applies (R214). -/
def State.genAdvance (s : State) (g : Nat) : State :=
  let m := s.nextM g
  let a := s.nextB3 g
  let first := s.reg .iG_COUNT g == 0
  let late : Int := a * third - s.rasterEnd g
  let s1 := if !first && decide ((3 * s.reg .LAST_TOL g * third : Nat) < late) then
      (s.bump .LAST_SLIPS g).raise Code.lastSlip none [(8, g), (32, (late / (3 * third : Nat)).toNat)]
    else s
  let frame := if first || s.reg .iG_RESYNC g == 1 then (m % 2 ^ 64).toNat
    else s.reg .LAST_FRAME g + 1
  let b := (a * third / 3).toNat
  let s2 := ((((s1.setReg .LAST_FRAME g frame).setReg .iG_RESYNC g 0).bump .iG_COUNT g).setReg .iG_B3 g
    a.toNat).setReg .iG_BLOCAL g (s1.local_ + b - s1.tb)
  let p := s2.reg .iG_PENDRATE g
  let s3 := if p < 13 ∧ s2.reg .LAST_USERS g = 0 then
      (s2.putReg .LAST_RATE g p).setReg .iG_PENDRATE g 0xFF else s2
  (s3.eyeBoundary g (s3.reg .LAST_FRAME g) a).refreshNext g

/-- Whether ray line `j` of raster position `k` of a surface's frame has begun, by the local count
(R209, R210). -/
def State.rasterReached (s : State) (surf k j : Nat) : Bool :=
  let g := s.genOf surf
  let n := s.rasterN surf
  let l := s.vCount surf
  s.gensRun && s.reg .iS_SEEN surf != 0 && decide ((k * l + j) * s.genP3 g * third
    + 3 * n * l * s.reg .iG_BLOCAL g ≤ 3 * n * l * s.local_)

/-- Whether a surface's commit deadline has come: 4 band periods before its next boundary (R193). -/
def State.deadlineReached (s : State) (surf : Nat) : Bool :=
  let g := s.genOf surf
  s.gensRun && s.reg .iS_SEEN surf != 0 && s.reg .iS_SEEN surf == s.reg .iG_COUNT g
    && decide ((s.nextB3 g * third - 3 * s.tb) * s.rasterN surf ≤ 4 * s.genP3 g * third)

/-- The local time, in ns, at which raster position `k` of the frame under way begins. -/
def State.rasterLocal (s : State) (surf k : Nat) : Nat :=
  let g := s.genOf surf
  (s.reg .iG_BLOCAL g + k * s.genP3 g * third / (3 * s.rasterN surf)) >>> 48

/-! ## Lanes that carry a surface -/

/-- The instance of physical lane `p` of a surface (R268). -/
def laneIx (surf p : Nat) : Nat := 84 * surf + p

/-- Logical lanes of a surface (R228). -/
def State.logicalLanes (s : State) (surf : Nat) : Nat := s.reg .SURF_WIDTH surf / 12

/-- The physical lane the spare map gives logical lane `l` (R229); `none` where it gives none. -/
def State.mapLane (s : State) (surf l : Nat) : Option Nat :=
  let p := blobGet (s.reg .WL_SPARE_MAP surf) l 1
  if p < 84 then some p else none

/-- Whether logical lane `l` is carried: its physical lane is ACTIVE (R230). -/
def State.carried (s : State) (surf l : Nat) : Bool :=
  match s.mapLane surf l with
  | some p => s.reg .WL_LANE_STATE (laneIx surf p) == 4
  | none => false

/-- Whether every lane the state in force assigns is ACTIVE or FAULT (R201). -/
def State.lanesReady (s : State) (surf : Nat) : Bool :=
  (List.range (s.logicalLanes surf)).all (fun l =>
    match s.mapLane surf l with
    | some p => s.reg .WL_LANE_STATE (laneIx surf p) == 4 || s.reg .WL_LANE_STATE (laneIx surf p) == 9
    | none => true)

end Sys2Proof.Machine
end

