-- ==== Sys2Proof/Machine/Cue.lean ====
section
/-! DEFINITION. The cue store and cue playback (06_stream_ingest.md, R202 to R206, R215). -/
namespace Sys2Proof.Machine

/-! ## Cue regions -/

/-- A track entry (R203): kind, FORMAT, store, W, H and the offset of its frame table. -/
structure CueTrack where
  kind : Nat
  format : Nat
  store : Nat
  width : Nat
  height : Nat
  table : Nat
  deriving DecidableEq, Repr

/-- The 32 bytes of a track entry (R203). -/
def CueTrack.ofWord (w : Nat) : CueTrack :=
  ⟨bits w 7 0, bits w 15 8, bits w 23 16, bits w 47 32, bits w 63 48, bits w 127 64⟩

/-- Track `t` of the cue region at `base`, read from the store. -/
def State.cueTrack (s : State) (base t : Nat) : CueTrack :=
  CueTrack.ofWord (s.word (base + 64 + 32 * t) 32)

/-- The header of the cue region at `base` (R202). -/
def State.cueHeader (s : State) (base : Nat) : Nat := s.word base 64

/-- FRAMES, RATE, V_COUNT and TRACKS of a cue header (R202). -/
def cueFrames (h : Nat) : Nat := bits h 95 64
/-- RATE of a cue header (R202). -/
def cueRate (h : Nat) : Nat := bits h 63 56
/-- V_COUNT of a cue header (R202). -/
def cueVCount (h : Nat) : Nat := bits h 55 48
/-- TRACKS of a cue header (R202). -/
def cueTracks (h : Nat) : Nat := bits h 47 40

/-- Whether the fields of a cue header hold what R202 allows. -/
def cueHeaderOk (h : Nat) : Bool :=
  bits h 31 0 == 0x55434C46 && bits h 39 32 == 1 && decide (1 ≤ cueTracks h) && decide (cueTracks h ≤ 32)
    && (cueVCount h == 12 || cueVCount h == 6) && decide (cueRate h ≤ 12) && decide (1 ≤ cueFrames h)
    && decide (cueFrames h ≤ 16777216)

/-- Whether a cue entry's tile lies within the region (R204). Under SAMPLES, where LEN is 0, the tile's 5,120
bytes of R177 must lie within it, a DESIGN CHOICE. -/
def cueTileOk (size store e : Nat) : Bool :=
  !entryPresent e || entryTransp e
    || decide (entryOffset e + (if store = 1 then 5120 else 8 * entryLen e) ≤ size)

/-- Whether a track's tables, indices and tiles lie within the region, and its fields agree (R203,
R204). -/
def State.cueTrackOk (s : State) (base size frames : Nat) (t : CueTrack) : Bool :=
  decide (1 ≤ t.kind) && decide (t.kind ≤ 3) && comboOk t.kind t.format t.store
    && decide (1 ≤ t.width) && decide (1 ≤ t.height) && t.table % 16 == 0
    && decide (t.table + 16 * frames ≤ size)
    && (List.range frames).all (fun f =>
      let ix := s.word (base + t.table + 16 * f + 8) 8
      let nt := bufTiles t.kind t.width t.height
      ix % 8 == 0 && decide (ix + 8 * nt ≤ size)
        && (List.range nt).all (fun i => cueTileOk size t.store (s.word (base + ix + 8 * i) 8)))

/-- Whether the region of a cue passes every check of R204. -/
def State.cueOk (s : State) (n : Nat) (region : List Byte) : Bool :=
  let base := s.reg .CUE_BASE n
  let size := s.reg .CUE_SIZE n
  let h := s.cueHeader base
  decide (64 ≤ size) && crc32c region == s.reg .CUE_CRC n && cueHeaderOk h
    && decide (64 + 32 * cueTracks h ≤ size)
    && (List.range (cueTracks h)).all (fun t => s.cueTrackOk base size (cueFrames h) (s.cueTrack base t))

/-- Whether a cue is ARMED or PLAYING on a surface (R204). -/
def State.cueBusy (s : State) (n : Nat) : Bool :=
  (List.range 2).any (fun surf => (s.reg .PB_STATE surf == 1 || s.reg .PB_STATE surf == 2)
    && s.reg .iPB_CUE surf == n)

/-- CUE_LOAD_VALIDATE (R204). -/
def execCueLoadValidate (acc : Accessor) (n : Fin 1024) (s : State) : Out :=
  .next (writeParam s acc .CUE_LOAD n.val 1 (fun t =>
    if t.cueBusy n.val then t.refuse Code.cueBusy else t.setReg .CUE_STATE n.val 1))

/-- CUE_LOAD_EMPTY (R204). -/
def execCueLoadEmpty (acc : Accessor) (n : Fin 1024) (s : State) : Out :=
  .next (writeParam s acc .CUE_LOAD n.val 2 (fun t =>
    if t.cueBusy n.val then t.refuse Code.cueBusy else t.setReg .CUE_STATE n.val 0))

/-- CUE_VALIDATION_DONE (R204, R278): the region is read and checked. -/
def execCueValidationDone (n : Fin 1024) (seen : Seen) (s : State) : Out :=
  let k := n.val
  if s.reg .CUE_STATE k ≠ 1 ∨ s.reg .iPHASE 0 ≠ 1 ∨ s.storeServes = false then .next s
  else
    let (r, s1) := (s.see seen).fetch s.pipMaster .cue (s.reg .CUE_BASE k) (s.reg .CUE_SIZE k)
    let ok := !r.frozen && r.poisoned.isEmpty && s1.cueOk k r.data
    .next ((s1.setReg .CUE_STATE k (if ok then 2 else 3)).see s.seen)

/-- The register a cue parameter is. -/
def cueReg : CueParam → Reg
  | .base => .CUE_BASE | .size => .CUE_SIZE | .crc => .CUE_CRC | .bind => .CUE_BIND

/-- CUE_PARAM_WRITE (R204). -/
def execCueParamWrite (acc : Accessor) (n : Fin 1024) (p : CueParam) (v : Nat) (s : State) : Out :=
  .next (writeParam s acc (cueReg p) n.val v (fun t =>
    if t.cueBusy n.val then t.refuse Code.cueBusy
    else (t.setReg (cueReg p) n.val v).cond (t.reg .CUE_STATE n.val == 2)
      (fun u => u.setReg .CUE_STATE n.val 3)))

/-! ## Playback -/

/-- The buffer bound to track `t` of a cue (R204). -/
def State.boundBuffer (s : State) (n t : Nat) : Option Nat :=
  let b := blobGet (s.reg .CUE_BIND n) (2 * t) 2
  if b < 1024 then some b else none

/-- Whether a bound buffer matches its track (R206). -/
def State.bindingOk (s : State) (n t : Nat) : Bool :=
  match s.boundBuffer n t with
  | none => true
  | some b =>
    let c := s.cueTrack (s.reg .CUE_BASE n) t
    s.reg .BUF_SOURCE b == 0x101 && s.reg .BUF_KIND b == c.kind && s.reg .BUF_FORMAT b == c.format
      && s.reg .BUF_STORE b == c.store && s.reg .BUF_WIDTH b == c.width
      && s.reg .BUF_HEIGHT b == c.height

/-- Whether a cue can play on a surface (R206). -/
def State.cuePlayable (s : State) (surf n : Nat) : Bool :=
  let h := s.cueHeader (s.reg .CUE_BASE n)
  decide (n < 1024) && s.reg .CUE_STATE n == 2 && cueRate h == s.rateOf surf
    && cueVCount h == s.vCount surf && (List.range (cueTracks h)).all (s.bindingOk n)

/-- PB_CTRL_ARM (R206). -/
def execPbCtrlArm (acc : Accessor) (surf : Surface) (s : State) : Out :=
  let k := surf.val
  .next (writeParam s acc .PB_CTRL k 1 (fun t =>
    if t.cuePlayable k (t.reg .PB_CUE k) then
      (((((t.setReg .PB_STATE k 1).setReg .iPB_CUE k (t.reg .PB_CUE k)).setReg .iPB_FIRST k
        (t.reg .PB_FIRST k)).setReg .iPB_ENDMODE k (t.reg .PB_END k)).setReg .iPB_START k
        (t.reg .PB_START k)).setReg .PB_REFUSED k 0
    else t.refuse Code.cueInvalid))

/-- Playback ends on a surface; the state in force remains (R206). -/
def State.stopPlayback (s : State) (surf : Nat) : State := s.setReg .PB_STATE surf 0

/-- PB_CTRL_STOP (R206). -/
def execPbCtrlStop (acc : Accessor) (surf : Surface) (s : State) : Out :=
  .next (writeParam s acc .PB_CTRL surf.val 2 (fun t => t.stopPlayback surf.val))

/-- Playback starts at the first boundary at or after PB_START (R206). -/
def State.startPlayback (s : State) (surf : Nat) : State :=
  let g := s.genOf surf
  if s.reg .PB_STATE surf = 1 ∧ (s.reg .iPB_START surf = 0
      ∨ timeReached (s.reg .LAST_NEXT g) (s.reg .iPB_START surf) = true) then
    (s.setReg .PB_STATE surf 2).setReg .iPB_S surf (s.openingNo g)
  else s

/-- The cue frame a playing surface shows at its next boundary; `none` once HOLD has passed the last
frame (R206). -/
def State.cueFrameNo (s : State) (surf : Nat) : Option Nat :=
  let k := (s.openingNo (s.genOf surf) + 2 ^ 64 - s.reg .iPB_S surf) % 2 ^ 64
  let f := s.reg .iPB_FIRST surf + k
  let n := cueFrames (s.cueHeader (s.reg .CUE_BASE (s.reg .iPB_CUE surf)))
  if f < n then some f else if s.reg .iPB_ENDMODE surf = 1 then some (f % n) else none

/-- A Pip core reads the entry of frame `f` in the frame table of each bound track in turn, through the CUE port
(R203, R206, R285): (track, entry) pairs; `none` where a read aborts (R278) or freezes the core. -/
def State.frameEntries (s : State) (cue f : Nat) : List Nat → Option (List (Nat × Nat)) × State
  | [] => (some [], s)
  | t :: ts =>
    if (s.boundBuffer cue t).isNone then s.frameEntries cue f ts
    else
      let base := s.reg .CUE_BASE cue
      let (r, s1) := s.fetch s.pipMaster .cue (base + (s.cueTrack base t).table + 16 * f) 16
      if r.frozen || !r.poisoned.isEmpty then (none, s1)
      else
        let (es, s2) := s1.frameEntries cue f ts
        (es.map (fun l => (t, leNat r.data) :: l), s2)

/-- A bound buffer's READY bank becomes the index of cue frame `f`, whose table entry is `e` (R203, R206):
nothing is copied. -/
def State.bindFrame (s : State) (cue f t e : Nat) : State :=
  match s.boundBuffer cue t with
  | none => s
  | some b =>
    let base := s.reg .CUE_BASE cue
    let k := ((s.freeBank b).orElse (fun _ => s.bankOf b 1)).getD 0
    let ix := bankIx b k
    let s1 := (((((s.setReg .iBK_CUE ix 1).setReg .iBK_BASE ix base).setReg .iBK_INDEX ix
      (base + bits e 127 64)).setReg .iBK_FRAME ix f).setReg .iBK_MAXB ix (bits e 63 48))
    (s1.setReg .iBK_CONC ix (s1.bankConcealed b k)).makeReady b k

/-- Bound buffers of a cue. -/
def State.cueBuffers (s : State) (cue : Nat) : List Nat :=
  (List.range (cueTracks (s.cueHeader (s.reg .CUE_BASE cue)))).filterMap (s.boundBuffer cue)

/-- A cue step is formed (R192, R206): the bound buffers are pointed at frame `f` and a commit that swaps
them takes its ID. One whose table entries cannot be read counts in PB_REFUSED and forms no commit. -/
def State.formStep (s : State) (surf f : Nat) : State :=
  let cue := s.reg .iPB_CUE surf
  let s0 := s.setReg .PB_FRAME surf f
  let tracks := List.range (cueTracks (s.cueHeader (s.reg .CUE_BASE cue)))
  match s0.frameEntries cue f tracks with
  | (none, s1) => s1.bump .PB_REFUSED surf
  | (some es, s1) =>
    let p := (es.foldl (fun t e => t.bindFrame cue f e.1 e.2) s1).newId
    p.2.addCommit ⟨p.1, none, 2 ^ surf, [], p.2.cueBuffers cue, true⟩

/-- The cue step of a deadline (R192, R206): formed where one is due; while the firmware restarts none is
formed, which counts in PB_REFUSED (R496), nor while the store serves no request (R296). -/
def State.cueStep (s : State) (surf : Nat) : State :=
  let s1 := s.startPlayback surf
  if s1.reg .PB_STATE surf ≠ 2 then s1
  else
    match s1.cueFrameNo surf with
    | none => s1.setReg .PB_STATE surf 3
    | some f =>
      if s1.reg .iPHASE 0 ≠ 1 ∨ s1.storeServes = false then s1.bump .PB_REFUSED surf
      else s1.formStep surf f

/-- A rate change has applied: a playing cue whose RATE no longer matches stops (R215). -/
def State.checkPlayback (s : State) (surf : Nat) : State :=
  let cue := s.reg .iPB_CUE surf
  let h := s.cueHeader (s.reg .CUE_BASE cue)
  if s.reg .PB_STATE surf = 2 ∧ cueRate h ≠ s.rateOf surf then
    (s.stopPlayback surf).raise Code.cueInvalid (some (s.reg .CMT_QUEUE surf)) [(8, surf), (16, cue)]
  else s

end Sys2Proof.Machine
end

