-- ==== Sys2Proof/Machine/WeltBlocks.lean ====
section
/-! DEFINITION. The blocks of the Welt panel link as they leave the lanes (08_welt_link.md, R236 to
R244, R250, R257, R259, R265): headers, payload, trailers, training sets, message fragments, the
scrambler and the PRBS patterns. -/
namespace Sys2Proof.Machine.Welt

/-- A 130-bit block (R236): whether it is a control block, and its 128 block bits, bit 0 sent
first. -/
structure Block where
  control : Bool
  bits : Nat
  deriving DecidableEq, Repr

/-! ## The scrambler (R238) -/

/-- seed(p) of physical lane p. -/
def seed (p : Nat) : Nat := 0xA5005A + p * 256

/-- The bit the register gives out. -/
def outBit (s : Nat) : Nat := s >>> 23 &&& 1

/-- One step of the register. -/
def advance (s : Nat) : Nat :=
  let n := (s >>> 23 ^^^ s >>> 22 ^^^ s >>> 21 ^^^ s >>> 16) &&& 1
  (s <<< 1 ||| n) % 2 ^ 24

/-- The `n` bits given out from register `s`, the first lowest, and the register after them. -/
def stream : Nat → Nat → Nat × Nat
  | 0, s => (0, s)
  | n + 1, s =>
    let (m, t) := stream n (advance s)
    (outBit s + 2 * m, t)

/-- A block as sent with register `s`: a data block is scrambled in all bytes, a TRL, IDL or MSG block
in bytes 1 to 15; the register after it. -/
def scramble (b : Block) (s : Nat) : Block × Nat :=
  let (m, t) := stream 128 s
  (⟨b.control, b.bits ^^^ (if b.control then m / 256 * 256 else m)⟩, t)

/-- Blocks after a reset block, scrambled in turn. -/
def scrambleAll : List Block → Nat → List Block
  | [], _ => []
  | b :: bs, s => let (c, t) := scramble b s; c :: scrambleAll bs t

/-! ## Ray-line slots (R239 to R242) -/

/-- The fields of a ray-line header (R240). -/
structure Header where
  surface : Nat
  rate : Nat
  flags : Nat
  line : Nat
  raster : Nat
  frame : Nat
  logical : Nat
  phys : Nat
  deriving DecidableEq, Repr

/-- The header block (R240). -/
def Header.block (h : Header) : Block :=
  ⟨true, packBits [(8, 0xA1), (8, h.phys), (8, h.logical), (32, h.frame), (11, h.raster), (4, h.line),
    (8, h.flags), (4, h.rate), (1, h.surface)]⟩

/-- The payload of a logical lane in one ray line: its 1,152 link values as one number (R241). -/
def payload : List Nat → Nat
  | [] => 0
  | w :: ws => w % 2 ^ 30 + 2 ^ 30 * payload ws

/-- The 270 payload blocks (R241). -/
def payloadBlocks (seq : Nat) : List Block :=
  (List.range 270).map (fun k => ⟨false, seq >>> (128 * k) % 2 ^ 128⟩)

/-- The bytes of a block, byte 0 first. -/
def Block.bytes (b : Block) : List Byte := leBytes 16 b.bits

/-- The trailer block of a header and its payload (R242). -/
def trailer (hdr : Block) (pay : List Block) (phys : Nat) : Block :=
  ⟨true, packBits [(8, 0xA2), (8, phys), (32, crc32c ((hdr :: pay).flatMap Block.bytes))]⟩

/-- The blocks a carrying lane sends in a ray-line slot up to its messages (R239), as they are
sent. -/
def slot (h : Header) (words : List Nat) (msgs : List Block) : List Block :=
  let hb := h.block
  let pay := payloadBlocks (payload words)
  hb :: scrambleAll (pay ++ [trailer hb pay h.phys] ++ msgs) (seed h.phys)

/-- The blocks of a slot without payload (R239). -/
def emptySlot (h : Header) (msgs : List Block) : List Block :=
  h.block :: scrambleAll msgs (seed h.phys)

/-! ## Messages, training sets and bursts (R244, R250, R259) -/

/-- The MSG blocks of a forward message, 8 bytes to a fragment (R259), before scrambling. -/
def msgBlocks (mtype mseq : Nat) (bytes : List Byte) : List Block :=
  let n := (bytes.length + 7) / 8
  (List.range n).map (fun f =>
    let body := packBits [(8, 0xA6), (8, mtype), (8, mseq), (4, f), (1, b2n (f + 1 == n)), (3, 0),
      (64, leAt bytes (8 * f) 8)]
    ⟨true, body + 2 ^ 96 * crc32c (leBytes 12 body)⟩)

/-- The preset codes PRE, MAIN, POST of R233. -/
def preset : Nat → Nat × Nat × Nat
  | 0 => (0, 48, 0) | 1 => (0, 42, 6) | 2 => (0, 38, 10) | 3 => (0, 34, 14) | 4 => (4, 40, 4)
  | 5 => (4, 36, 8) | 6 => (6, 32, 10) | _ => (6, 30, 12)

/-- WL_COEFF of a coefficient pair (R233, R268): MAIN is 48 − PRE − POST. -/
def coeff (pre post : Nat) : Nat := packBits [(4, pre), (5, post), (6, 48 - pre - post)]

/-- Whether a coefficient pair is accepted (R233). -/
def coeffOk (pre post : Nat) : Bool :=
  decide (pre ≤ 8) && decide (post ≤ 16) && decide (12 + 2 * pre + 2 * post ≤ 48)

/-- The preset whose coefficients are in force, or 0xF (R244). -/
def presetOf (c : Nat) : Nat :=
  ((List.range 8).find? (fun k => coeff (preset k).1 (preset k).2.2 == c)).getD 0xF

/-- A training set (R244): `second` for TS2. -/
def trainingSet (second : Bool) (surface phys c count ack reject : Nat) : Block :=
  let pat := if second then 0x45 else 0x4A
  ⟨true, packBits [(8, if second then 0xB2 else 0xB1), (8, phys), (4, 1), (1, surface), (3, 0),
    (4, c % 16), (5, c / 16 % 32), (6, c / 512), (1, 0), (4, presetOf c), (4, 0), (7, 0), (1, reject),
    (8, ack), (8, count), (56, pat * 0x01010101010101)]⟩

/-- The idle block before scrambling (R237). -/
def idl : Block := ⟨true, 0xA3⟩

/-- The electrical idle entry block. R237 gives its type and says that it is not scrambled, and nothing of its
other bytes: the model sends them as 0, a DESIGN CHOICE. -/
def eie : Block := ⟨true, 0xB8⟩

/-- The FWK block with a COUNT (R250). -/
def fwk (phys c count : Nat) : Block :=
  ⟨true, packBits [(8, 0xB4), (8, phys), (8, 0), (4, c % 16), (5, c / 16 % 32), (6, c / 512), (1, 0),
    (8, count)]⟩

/-- The clock pattern block (R237). -/
def clk : Block := ⟨true, 0x55 * 0x01010101010101010101010101010101⟩

/-- The FASTWAKE burst (R250): 160 CLK blocks, 8 FWK blocks and 32 IDL blocks scrambled from the reset
at COUNT 0. -/
def burst (phys c : Nat) : List Block :=
  List.replicate 160 clk ++ (List.range 8).map (fun k => fwk phys c (7 - k))
    ++ scrambleAll (List.replicate 32 idl) (seed phys)

/-! ## PRBS patterns (R265) -/

/-- The length of a pattern's register, and its second tap: 1 PRBS7, 2 PRBS15, 3 PRBS31. -/
def prbsLength (mode : Nat) : Nat := match mode with | 1 => 7 | 2 => 15 | _ => 31

/-- One step of a pattern's register; the bit that enters it is the one sent. -/
def prbsNext (mode r : Nat) : Nat :=
  let n := prbsLength mode
  let t := match mode with | 1 => 6 | 2 => 14 | _ => 28
  (r <<< 1 ||| ((r >>> (n - 1) ^^^ r >>> (t - 1)) &&& 1)) % 2 ^ n

/-- The next `n` bits of a pattern, the first lowest, and its register after them. -/
def prbsBits (mode : Nat) : Nat → Nat → Nat × Nat
  | 0, r => (0, r)
  | n + 1, r =>
    let q := prbsNext mode r
    let (m, t) := prbsBits mode n q
    (q % 2 + 2 * m, t)

end Sys2Proof.Machine.Welt
end

