-- ==== Sys2Proof/Machine/WeltLanes.lean ====
section
/-! DEFINITION. The lanes of the Welt panel link and their spare map, and forward messages (08_welt_link.md,
R228 to R230, R253, R258 to R260, R262). -/
namespace Sys2Proof.Machine

/-! ## Lane states (R268) -/

/-- DETECT -/
def laneDetect : Nat := 0
/-- TRAIN -/
def laneTrain : Nat := 1
/-- LOCK -/
def laneLock : Nat := 2
/-- EXCHANGE -/
def laneExchange : Nat := 3
/-- ACTIVE -/
def laneActive : Nat := 4
/-- IDLE -/
def laneIdle : Nat := 5
/-- FASTWAKE -/
def laneFastwake : Nat := 6
/-- RETRAIN -/
def laneRetrain : Nat := 7
/-- SPARED -/
def laneSpared : Nat := 8
/-- FAULT -/
def laneFault : Nat := 9
/-- TEST -/
def laneTest : Nat := 10

/-- The state of physical lane `p` of a surface. -/
def State.lane (s : State) (surf p : Nat) : Nat := s.reg .WL_LANE_STATE (laneIx surf p)

/-- MSG blocks handed to a lane and not yet sent are dropped. -/
def State.dropMsgs (s : State) (surf p : Nat) : State :=
  { s with msgBlocks := s.msgBlocks.filter (fun e => !(e.1 == surf && e.2.1 == p)) }

/-- A lane enters a state; timeouts count from here (R246). MSG blocks it has not sent are dropped: a message
that is not acknowledged is sent again (R259). -/
def State.setLane (s : State) (surf p st : Nat) : State :=
  ((s.dropMsgs surf p).setReg .WL_LANE_STATE (laneIx surf p) st).setReg .iWL_SINCE (laneIx surf p) s.clock

/-- The local time a lane has spent in its state or phase, ns. -/
def State.laneAge (s : State) (surf p : Nat) : Nat := s.clock - s.reg .iWL_SINCE (laneIx surf p)

/-! ## The spare map (R229) -/

/-- Puts byte `k` of the spare map; the map is kept in the Keeper. -/
def State.putMap (s : State) (surf k p : Nat) : State :=
  (s.setReg .WL_SPARE_MAP surf (blobSet (s.reg .WL_SPARE_MAP surf) k 1 p)).noteKeep .WL_SPARE_MAP surf

/-- Whether a lane is marked FAULT. -/
def State.laneMarked (s : State) (surf p : Nat) : Bool := bit (s.reg .WL_SPARE_MAP surf) (672 + p)

/-- Sets or clears a lane's mark. -/
def State.markLane (s : State) (surf p : Nat) (on : Bool) : State :=
  (s.setReg .WL_SPARE_MAP surf (setBit (s.reg .WL_SPARE_MAP surf) (672 + p) on)).noteKeep .WL_SPARE_MAP
    surf

/-- The designated spares, in increasing number. -/
def State.designated (s : State) (surf : Nat) : List Nat :=
  (List.range 84).filter (fun p =>
    (List.range 4).any (fun k => blobGet (s.reg .WL_SPARE_MAP surf) (80 + k) 1 == p))

/-- Names the designated spares. -/
def State.setDesignated (s : State) (surf : Nat) (ps : List Nat) : State :=
  forN 4 s (fun t k => t.putMap surf (80 + k) (ps.getD k 0xFF))

/-- A lane is no longer a designated spare. -/
def State.undesignate (s : State) (surf p : Nat) : State :=
  if (s.designated surf).contains p then
    s.setDesignated surf ((s.designated surf).filter (· != p)) else s

/-- The logical lane a physical lane is given by the map, among those in use. -/
def State.laneLogical (s : State) (surf p : Nat) : Option Nat :=
  (List.range (s.logicalLanes surf)).find? (fun l => s.mapLane surf l == some p)

/-- Free spares: designated, ACTIVE, carrying nothing (R230). -/
def State.freeSpares (s : State) (surf : Nat) : List Nat :=
  (s.designated surf).filter (fun p => s.lane surf p == laneActive && (s.laneLogical surf p).isNone)

/-- The free spares to which a logical lane can be moved: not those to which a move is under way. -/
def State.openSpares (s : State) (surf : Nat) : List Nat :=
  (s.freeSpares surf).filter (fun p => !s.moves.any (fun m => m.surf == surf && m.toLane == p && !m.done))

/-- Lanes that take part: assigned to a logical lane in use, or designated spares (R229). -/
def State.takingPart (s : State) (surf : Nat) : List Nat :=
  (List.range 84).filter (fun p => (s.laneLogical surf p).isSome || (s.designated surf).contains p)

/-! ## The return side and CAPS -/

/-- Whether a return lane of the surface is LOCKED (R258). -/
def State.returnLocked (s : State) (surf : Nat) : Bool :=
  s.reg .WR_STATE (2 * surf) == 2 || s.reg .WR_STATE (2 * surf + 1) == 2

/-- Whether the CAPS held is compatible (R262). -/
def State.capsOk (s : State) (surf : Nat) : Bool :=
  let c := s.reg .WL_PANEL_CAPS surf
  let ssc := s.reg .WL_SSC surf
  s.reg .iWL_CAPS surf == 1 && blobGet c 12 1 == 1 && decide (s.reg .SURF_WIDTH surf ≤ blobGet c 14 2)
    && decide (s.reg .SURF_HEIGHT surf ≤ blobGet c 16 2) && bit (blobGet c 18 2) (s.rateOf surf)
    && (ssc == 0 || bit (blobGet c 20 1) (ssc - 1))

/-! ## Forward messages (R259, R260) -/

/-- The phase of a lane's training: its state, or that of its SPARED attempt; 0 none (R246). -/
def State.lanePhase (s : State) (surf p : Nat) : Nat :=
  if s.lane surf p = laneSpared then s.reg .iWL_PH (laneIx surf p)
  else if s.lane surf p ≤ 3 then s.lane surf p else 0

/-- The message lane: the lowest-numbered carrying lane in ACTIVE (R259). -/
def State.messageLane (s : State) (surf : Nat) : Option Nat :=
  (List.range 84).find? (fun p => s.lane surf p == laneActive && (s.laneLogical surf p).isSome)

/-- The lanes on which a forward message is sent: the message lane, every lane in EXCHANGE, and for
SPARE_CMD the lane that takes the logical lane (R253, R259). -/
def State.msgLanes (s : State) (surf mtype : Nat) (bytes : List Byte) : List Nat :=
  (List.range 84).filter (fun p => s.messageLane surf == some p || s.lanePhase surf p == 3
    || (mtype == 0x82 && leAt bytes 2 1 == p && s.lane surf p == laneActive))

/-- The MSG blocks of a message are handed to its lanes. -/
def State.handOver (s : State) (surf mseq mtype : Nat) (bytes : List Byte) : State :=
  { s with msgBlocks := s.msgBlocks ++ (s.msgLanes surf mtype bytes).flatMap (fun p =>
      (Welt.msgBlocks mtype mseq bytes).map (fun b => (surf, p, b.bits))) }

/-- A forward message is queued and sent; it waits for its acknowledgement. -/
def State.sendFwd (s : State) (surf mtype : Nat) (bytes : List Byte) : State :=
  let q := s.reg .iWL_MSEQ surf
  ((({ s with fwd := s.fwd ++ [⟨surf, q, mtype, bytes, 0, s.clock⟩] } : State).setReg .iWL_MSEQ surf
    (q + 1)).handOver surf q mtype bytes).sendMore [.welt surf q mtype bytes]

/-- The MSG blocks that a lane sends next, at most 16 (R259). -/
def State.laneMsgs (s : State) (surf p : Nat) : List Welt.Block :=
  ((s.msgBlocks.filter (fun e => e.1 == surf && e.2.1 == p)).take 16).map (fun e => ⟨true, e.2.2⟩)

/-- A list without the first `n` entries that pass a test. -/
def dropFirst (α : Type) (p : α → Bool) : Nat → List α → List α
  | 0, xs => xs
  | _, [] => []
  | n + 1, x :: xs => if p x then dropFirst α p n xs else x :: dropFirst α p (n + 1) xs

/-- A lane has sent the MSG blocks of one slot or training group. -/
def State.takeMsgs (s : State) (surf p : Nat) : State :=
  { s with msgBlocks := dropFirst _ (fun e => e.1 == surf && e.2.1 == p) 16 s.msgBlocks }

/-- The 16 bytes of CONFIG (R260). -/
def State.configBytes (s : State) (surf effect : Nat) : List Byte :=
  leBytes 2 (s.reg .iWL_CAPSSEQ surf) ++ leBytes 2 (s.reg .SURF_WIDTH surf)
    ++ leBytes 2 (s.reg .SURF_HEIGHT surf) ++ leBytes 1 (s.rateOf surf) ++ leBytes 1 (s.vCount surf)
    ++ leBytes 1 (s.reg .WL_SSC surf) ++ leBytes 1 (s.logicalLanes surf) ++ leBytes 4 effect
    ++ leBytes 2 0

/-- CONFIG with the values in force is sent, in effect at once (R262). -/
def State.sendConfig (s : State) (surf : Nat) : State :=
  s.sendFwd surf 0x81 (s.configBytes surf 0xFFFFFFFF)

/-- CONFIG is sent with the values that state `t` holds for the surface, in effect from frame `frame` (R262). A
frame that a CONFIG named already is not announced again. -/
def State.announce (s t : State) (surf frame : Nat) : State :=
  let e := frame % 2 ^ 32
  if s.reg .iWL_CFGAT surf = e + 1 then s
  else (s.setReg .iWL_CFGAT surf (e + 1)).sendFwd surf 0x81 (t.configBytes surf e)

/-- FWD_MSG_RESEND (R259): the oldest message unacknowledged for 100 µs is sent again; after 8 resends
it is lost. -/
def execFwdMsgResend (surf : Surface) (s : State) : Out :=
  match s.fwd.find? (fun m => m.surf == surf.val && decide (m.sentAt + 100000 ≤ s.clock)) with
  | none => .next s
  | some m =>
    if m.resends < 8 then
      .next ((({ s with fwd := s.fwd.map (fun x => if x = m then
        { x with resends := x.resends + 1, sentAt := s.clock } else x) } : State).handOver surf.val m.mseq m.mtype
          m.bytes).send [.welt surf.val m.mseq m.mtype m.bytes])
    else
      .next (({ s with fwd := s.fwd.erase m } : State).raise Code.weltMsgLost
        (some (s.reg .WL_QUEUE surf.val)) [(8, surf.val), (8, m.mtype), (8, m.mseq)])

end Sys2Proof.Machine
end

