-- ==== Sys2Proof/Machine/Deadline.lean ====
section
/-! DEFINITION. The commit deadline (06_stream_ingest.md, R189, R192 to R194, R197, R198, R201) and
the admission of a commit (R42, R118, R123 to R125 of chapters 1 and 4). -/
namespace Sys2Proof.Machine

/-! ## Forming commits -/

/-- The AUTO buffers the state in force of a surface names that have a READY bank (R192). -/
def State.autoSwaps (s : State) (surf : Nat) : List Nat :=
  ((s.namedBuffers surf).filter (fun b => s.reg .BUF_SWAP b == 1 && (s.bankOf b 1).isSome)).eraseDups

/-- The implicit commit of a deadline (R192): none is formed, and no ID taken, where there is neither
a staged write nor a swap. -/
def State.implicitCommit (s : State) (surf : Nat) : State :=
  let mine := s.staged.filter (fun e => e.group == none && e.surfs == 2 ^ surf)
  let swaps := s.autoSwaps surf
  if mine.isEmpty && swaps.isEmpty then s
  else
    let (id, s1) := s.newId
    { s1 with
      staged := s1.staged.filter (fun e => !(e.group == none && e.surfs == 2 ^ surf))
      commits := s1.commits ++
        [⟨id, none, 2 ^ surf, mine.map (fun e => (e.surfs, e.key, e.value)), swaps, false⟩] }

/-! ## Which commits are evaluated -/

/-- Whether a surface is in a dark period whose next boundary does not light (R201, R493). -/
def State.holdsDark (s : State) (surf : Nat) : Bool :=
  (s.reg .iS_DARK surf == 1 || s.reg .iSTARTUP surf == 1) && s.reg .iS_LIGHT surf == 0

/-- Whether a waiting commit is due at a surface's deadline (R193, R197, R201). -/
def State.commitDue (s : State) (surf : Nat) (c : Commit) : Bool :=
  bit c.surfs surf
    && (List.range 2).all (fun m => !(bit c.surfs m) || !s.holdsDark m)
    && (match c.group with
      | none => true
      | some g => s.reg .CG_AT g == 0
          || timeReached (s.reg .LAST_NEXT (s.genOf surf)) (s.reg .CG_AT g))

/-! ## Evaluation -/

/-- The boundaries of surface `m` that pass before a commit evaluated now applies on it: one where the
deadline of its next boundary has passed; surfaces that are phase-locked apply at the same boundary (R23,
R198). -/
def State.skipOf (s : State) (deadlineSurf m : Nat) : Nat :=
  if s.genOf m ≠ s.genOf deadlineSurf ∧ s.deadlineTaken m = true then 1 else 0

/-- The array as it will be at the frame boundary that a commit evaluated now targets on surface `m` (R118):
the array boundaries up to it, the next one and the one after, with the values that are pending. -/
def State.projectArray (s : State) (deadlineSurf m : Nat) : State :=
  let c := s.reg .HZ_ARRAY_CLOCK 0
  let g := s.genOf m
  let target := s.nextB3 g + s.skipOf deadlineSurf m * s.gridP3 g
  let first := s.nextB3 (s.genOf c)
  let s1 := if first ≤ target then (if s.deadlineTaken c then s else s.seeArray c).arrayBoundary else s
  if first + s.gridP3 (s.genOf c) ≤ target then s1.nextArray else s1

/-- READY becomes FRONT; the old FRONT becomes free (R182). -/
def State.swapBuffer (s : State) (n : Nat) : State :=
  match s.bankOf n 1 with
  | none => s
  | some k => (s.setBank n 0 (some k)).setBank n 1 none

/-- The state that the commits accepted before it and commit `c` would bring into force on surface
`m` (R118, R193, R194): sealing that runs is taken as ended. -/
def State.candidate (s : State) (deadlineSurf m : Nat) (c : Commit) : State :=
  let base := sortById Commit Commit.id (((s.accepted.filter (fun a => a.surf == m
    && decide (a.skip ≤ s.skipOf deadlineSurf m) && a.commit.id != c.id)).map Accepted.commit) ++ [c])
  let t := (s.projectArray deadlineSurf m).withValues m base
  (base.flatMap Commit.buffers).foldl (fun u b => ((u.decodeSealing b).completeSeal b).swapBuffer b) t

/-- What an evaluation finds of one surface: the refusing reason, the costs with their bands, the
budgets, the reservation and the band published, and the buffers the candidate names. The costs are
published as 0 after a refusal by R74, which computes no reservation (R123). -/
structure Verdict where
  surf : Nat
  reason : Option Reason
  costs : List Nat
  budgets : List Nat
  band : Nat
  resv : Nat
  names : List Nat
  deriving DecidableEq, Repr

/-- Whether a commit belongs to a group that names both surfaces (R198). -/
def State.spansBoth (s : State) (c : Commit) : Bool :=
  match c.group with
  | some g => s.reg .CG_SURFACES g == 3
  | none => c.surfs == 3

/-- The buffers a commit lists, where they can belong to no other surface than its own (R193). -/
def State.listedBuffers (s : State) (c : Commit) : List Nat := if s.spansBoth c then [] else c.buffers

/-- The buffers that surface `m` names in force, or by an accepted commit other than `except` that has not
applied (R193). -/
def State.heldBuffers (s : State) (m except : Nat) : List Nat :=
  s.namedBuffers m ++ (s.acceptedStates m except).flatMap (fun t => t.namedBuffers m)
    ++ (s.accepted.filter (fun a => a.surf == m && a.commit.id != except)).flatMap
      (fun a => s.listedBuffers a.commit)

/-- The reservation that a commit on the other surface must leave room for: the one in force, or a larger one
of an accepted commit that has not applied (R42). -/
def State.resvHeld (s : State) (m : Nat) : Nat :=
  ((s.accepted.filter (fun a => a.surf == m)).map Accepted.resv).foldl max (s.reg .iS_RESV m)

/-- Admission of commit `c` on surface `m` (R42, R74, R123, R193). After a refusal by R74 the budgets published
are those in force. -/
def State.judge (s : State) (deadlineSurf m : Nat) (c : Commit) : Verdict :=
  let t := s.candidate deadlineSurf m c
  let other := 1 - m
  let names := t.namedBuffers m ++ s.listedBuffers c
  match t.sceneFault m names (s.heldBuffers other c.id) with
  | some r => ⟨m, some r, [0, 0, 0, 0], (s.budgets m false).toList, 0, s.reg .iS_RESV m, names⟩
  | none =>
    let budgets := (t.budgets m false).toList
    let cost := t.surfaceCost m false
    let costs := cost.map Prod.fst
    let resv := t.reservation m costs
    match overBudget costs budgets with
    | some k => ⟨m, some (measureReason k), costs, budgets, (cost.getD k (0, 0)).2, resv, names⟩
    | none =>
      let room : Int := (s.reg .PW_CEILING 0 : Int) - s.powerBase - s.resvHeld other
      ⟨m, if room < resv then some .power else none, costs, budgets, (cost.getD 0 (0, 0)).2, resv,
        names⟩

/-- A U32 publication of a number that may exceed it: the manual states no value for one that does, so
that value is free (R117, R137). -/
def State.publish32 (s : State) (r : Reg) (i v : Nat) : State :=
  if v < 2 ^ 32 then s.setReg r i v else let (d, t) := s.draw; t.setReg r i d

/-- ADM_* of a surface after an evaluation (R123, R137). -/
def State.publishVerdict (s : State) (id : Nat) (accepted : Bool) (v : Verdict) : State :=
  let m := v.surf
  let c (k : Nat) := v.costs.getD k 0
  let b (k : Nat) := v.budgets.getD k 0
  let s1 := (((s.publish32 .ADM_COST_OPS m (c 0)).publish32 .ADM_COST_SAMP m (c 1)).publish32
    .ADM_COST_DEC m (c 2)).publish32 .ADM_COST_BYTES m (c 3)
  let s2 := (((s1.publish32 .ADM_BUDGET_OPS m (b 0)).publish32 .ADM_BUDGET_SAMP m (b 1)).publish32
    .ADM_BUDGET_DEC m (b 2)).publish32 .ADM_BUDGET_BYTES m (b 3)
  let s3 := ((s2.setReg .ADM_WORST_BAND m v.band).setReg .ADM_LAST_COMMIT m id)
  (s3.setReg .ADM_LAST_RESULT m (if accepted && v.reason.isNone then 1 else 2)).setReg
    .ADM_LAST_REASON m ((v.reason.map Reason.code).getD 0)

/-- A commit is accepted: it waits for its boundary on each member surface, and the short mark of the
surface is cleared (R124, R193, R198). -/
def State.acceptOn (s : State) (deadlineSurf : Nat) (c : Commit) (v : Verdict) : State :=
  let s1 := ({ s with accepted := s.accepted ++ [⟨v.surf, s.skipOf deadlineSurf v.surf, c, v.costs, v.resv⟩] } : State)
  s1.setReg .HZ_SHORT 0 (setBit (s1.reg .HZ_SHORT 0) v.surf false)

/-- The READY banks of a refused cue step are dropped, so that the previous frame stays in force (R206). -/
def State.dropStep (s : State) (c : Commit) : State := c.buffers.foldl (fun t b => t.setBank b 1 none) s

/-- A commit is refused on a surface: counted, and ADMIT_REFUSED raised where this surface refuses it
(R123, R193, R206). -/
def State.refuseOn (s : State) (c : Commit) (v : Verdict) : State :=
  let s1 := (s.bump .CMT_REFUSED v.surf).cond c.cue (fun t => (t.bump .PB_REFUSED v.surf).dropStep c)
  match v.reason with
  | none => s1
  | some r => s1.raise Code.admitRefused (some (s1.reg .CMT_QUEUE v.surf))
      [(8, v.surf), (8, r.code), (32, c.id), (16, v.band)]

/-- The verdicts of a commit on both surfaces held against each other: FORMAT where the states it brings into
force name a common buffer (R193), POWER where both reservations do not fit together (R42). -/
def State.judgePair (s : State) (vs : List Verdict) : List Verdict :=
  match vs with
  | [a, b] =>
    let format (v : Verdict) : Verdict := match v.reason with
      | some .count => v | some .mode => v | some .geometry => v
      | _ => { v with reason := some .format, costs := [0, 0, 0, 0], band := 0,
                      budgets := (s.budgets v.surf false).toList, resv := s.reg .iS_RESV v.surf }
    let power (v w : Verdict) : Verdict :=
      if v.reason = none ∧ w.reason = none ∧ s.reg .PW_CEILING 0 < s.powerBase + v.resv + w.resv then
        { v with reason := some .power }
      else v
    if a.names.any b.names.contains then [format a, format b] else [power a b, power b a]
  | _ => vs

/-- One commit is evaluated at a deadline of `surf` (R193, R198): it leaves the waiting commits, and
is accepted on every member surface or refused as a whole. -/
def State.evaluate (s : State) (surf : Nat) (c : Commit) : State :=
  let members := (List.range 2).filter (bit c.surfs)
  let vs0 := members.map (fun m => s.judge surf m c)
  let vs := s.judgePair vs0
  let ok := vs.all (fun v => v.reason.isNone)
  let s1 := ({ s with commits := s.commits.filter (fun x => x.id != c.id) } : State)
  let s2 := vs.foldl (fun t v => t.publishVerdict c.id ok v) s1
  if ok then vs.foldl (fun t v => t.acceptOn surf c v) s2
  else
    let s3 := ({ vs.foldl (fun t v => t.refuseOn c v) s2 with
      accepted := s2.accepted.filter (fun a => a.commit.id != c.id) } : State)
    match c.group with
    | none => s3
    | some g =>
      let s4 := s3.setReg .CG_RESULT g Code.admitRefused
      if s4.reg .CG_OWNER g = 0xFFFF then s4.idleGroup g else s4.setReg .CG_STATE g 3

/-- The commits evaluated at a deadline (R193, R194): at most 8 in order of ID; their buffers' FILL
banks are sealed; the others are counted in CMT_DEFERRED. -/
def State.evaluateDue (s : State) (surf : Nat) : State :=
  let due := sortById Commit Commit.id (s.commits.filter (s.commitDue surf))
  let s1 := s.bumpBy .CMT_DEFERRED surf (due.length - 8)
  let run := due.take 8
  let s2 := (run.flatMap Commit.buffers).foldl (fun t b => t.sealFill b) s1
  run.foldl (fun t c => t.evaluate surf c) s2

/-- Whether a surface is ready (R201): its lanes are ACTIVE or FAULT, and no change of its generator is
incomplete. A change of the generator is complete from the first boundary that the new generator gives the
surface; one of the raster is complete at the boundary where it applies. -/
def State.surfaceReady (s : State) (surf : Nat) : Bool := s.lanesReady surf && s.reg .iS_GENCHG surf == 0

/-- The decision of a deadline in a dark period (R201, R493): whether the next boundary lights. -/
def State.decideLight (s : State) (surf : Nat) : State :=
  let lights :=
    if s.reg .iSTARTUP surf = 1 then
      s.surfaceReady surf || decide (s.reg .iRUN_NS 0 + 1000000000 ≤ s.reg .LAST_NEXT (s.genOf surf))
    else s.surfaceReady surf || decide (s.reg .CMT_DARK_LEFT surf ≤ 1)
  if s.reg .iS_DARK surf = 1 ∨ s.reg .iSTARTUP surf = 1 then s.setReg .iS_LIGHT surf (b2n lights) else s

/-- LUT writes and pending array-wide values that this deadline follows (R62, R136). -/
def State.noteDeadline (s : State) (surf : Nat) : State :=
  let s1 := ({ s with lutShadow := s.lutShadow.map (fun l => { l with due := setBit l.due surf true }) }
    : State)
  s1.seeArray surf

/-- The number of the frame that a surface's next boundary begins, under the generator that times it then: its
next one, or the one in progress where its own boundary comes later. -/
def State.frameThen (s : State) (g h : Nat) : Nat :=
  if h = g ∨ s.nextB3 h ≤ s.nextB3 g then s.openingNo h else s.reg .LAST_FRAME h

/-- CONFIG goes ahead of the values that accepted commits change, with EFFECT_FRAME the frame from which they
apply (R240, R262). -/
def State.announceAccepted (s : State) (m : Nat) : State :=
  match s.accepted.find? (fun a => a.surf == m) with
  | none => s
  | some a =>
    let cs := (s.acceptedById.filter (fun b => b.surf == m && b.skip == a.skip)).map Accepted.commit
    let t := s.withValues m cs
    if t.configBytes m 0 = s.configBytes m 0 then s
    else s.announce t m (s.frameThen (s.genOf m) (t.genOf m) + a.skip)

/-- COMMIT_DEADLINE (R192 to R194, R201, R496): nothing is evaluated while the firmware restarts. -/
def execCommitDeadline (surf : Surface) (seen : Seen) (s : State) : Out :=
  let k := surf.val
  if s.deadlineReached k && !s.deadlineTaken k then
    let s1 := (((s.send []).see seen).refreshNext (s.genOf k)).setReg .iS_DEADLINE k (s.reg .iS_SEEN k + 1)
    let s2 := ((s1.noteDeadline k).decideLight k).cueStep k
    if s2.reg .iPHASE 0 ≠ 1 then .next (s2.see s.seen)
    else
      let s3 := s2.implicitCommit k
      let s4 := if s3.holdsDark k then s3 else s3.evaluateDue k
      .next ((forN 2 (forN 4 s4 State.refreshNext) State.announceAccepted).see s.seen)
  else .next s

end Sys2Proof.Machine
end

