-- ==== Sys2Proof/Machine/Cal.lean ====
section
/-! DEFINITION. Calibration slots and colour table writes (02_scene_model.md, R52 to R62). -/
namespace Sys2Proof.Machine

/-- Whether a state uses the slot that is instance `i` of kind `kind` on a surface (R56). -/
def State.usesSlot (s : State) (kind surf i : Nat) : Bool :=
  s.calSel kind surf == i && (if kind = 0 then s.rayMapUsed surf else s.gainUsed surf)

/-- Kind, surface and slot of a parameter instance (R55). -/
def calKind (i : Nat) : Nat := i / 32
/-- Surface of a slot's parameter instance (R55). -/
def calSurf (i : Nat) : Nat := i / 16 % 2

/-- Whether a slot is busy (R56): VALID and used by the state in force or by an accepted commit that has not
applied. -/
def State.calBusy (s : State) (i : Nat) : Bool :=
  let surf := calSurf i
  s.reg .CAL_STATE i == 2 && (s.usesSlot (calKind i) surf i
    || (s.acceptedStates surf 0).any (fun t => t.usesSlot (calKind i) surf i))

/-- A slot refuses writes while it is busy or LOADING (R56). -/
def State.calRefuses (s : State) (i : Nat) : Bool := s.calBusy i || s.reg .CAL_STATE i == 1

/-- Bytes of a set for a geometry: three temperature points (R53). -/
def calSetSize (kind w h : Nat) : Nat := 3 * calPointSize kind w h

/-- CAL_LOAD_VALIDATE (R56). -/
def execCalLoadValidate (acc : Accessor) (i : Fin 64) (s : State) : Out :=
  .next (writeParam s acc .CAL_LOAD i.val 1 (fun t =>
    if t.calRefuses i.val then t.refuse Code.calSlotBusy
    else ((t.setReg .CAL_STATE i.val 1).setReg .iCAL_W i.val (t.reg .SURF_WIDTH (calSurf i.val))).setReg
      .iCAL_H i.val (t.reg .SURF_HEIGHT (calSurf i.val))))

/-- CAL_LOAD_EMPTY (R56). CAL_SOURCE, CAL_WIDTH, CAL_HEIGHT and CAL_RESIDUAL keep the values of the set the
slot held, in EMPTY as in INVALID: a DESIGN CHOICE, since R55 says nothing of it. -/
def execCalLoadEmpty (acc : Accessor) (i : Fin 64) (s : State) : Out :=
  .next (writeParam s acc .CAL_LOAD i.val 2 (fun t =>
    if t.calRefuses i.val then t.refuse Code.calSlotBusy else t.setReg .CAL_STATE i.val 0))

/-- Whether T0 < T1 < T2 (R53, R56). -/
def State.calOrdered (s : State) (i : Nat) : Bool :=
  decide (s.regInt .CAL_T0 i < s.regInt .CAL_T1 i) && decide (s.regInt .CAL_T1 i < s.regInt .CAL_T2 i)

/-- A slot becomes VALID (R56): geometry and source are recorded, and a ray-map slot's reach is
computed (R119). -/
def State.calValid (s : State) (i w h source : Nat) : State :=
  let s1 := ((((s.setReg .CAL_STATE i 2).setReg .CAL_WIDTH i w).setReg .CAL_HEIGHT i h).setReg
    .CAL_SOURCE i source).setReg .CAL_RESIDUAL i 0
  if calKind i = 0 then s1.computeReach i w h else s1

/-- CAL_VALIDATION_DONE (R56): the region is read through the CUE port and checked. -/
def execCalValidationDone (i : Fin 64) (seen : Seen) (s : State) : Out :=
  let k := i.val
  if s.reg .CAL_STATE k ≠ 1 ∨ s.reg .iPHASE 0 ≠ 1 ∨ s.storeServes = false ∨ s.deliveries.any (fun d => d.inst == k) then .next s
  else
    let w := s.reg .iCAL_W k
    let h := s.reg .iCAL_H k
    let (r, s1) := (s.see seen).fetch s.pipMaster .cue (s.reg .CAL_BASE k) (calSetSize (calKind k) w h)
    let ok := !r.frozen && r.poisoned.isEmpty && s.reg .CAL_BASE k % 4096 == 0 && s.calOrdered k
      && crc32c r.data == s.reg .CAL_CRC k
    .next ((if ok then s1.calValid k w h 1 else s1.setReg .CAL_STATE k 3).see s.seen)

/-- The register a slot parameter is. -/
def calReg : CalParam → Reg
  | .t0 => .CAL_T0 | .t1 => .CAL_T1 | .t2 => .CAL_T2 | .base => .CAL_BASE | .crc => .CAL_CRC

/-- CAL_SLOT_WRITE (R56). A CAL_BASE that is no multiple of 4,096 is refused at the write with OD_RANGE, the step of
its range: a DESIGN CHOICE (log 88), since R56 also tests it at CAL_LOAD. -/
def execCalSlotWrite (acc : Accessor) (i : Fin 64) (p : CalParam) (v : Nat) (s : State) : Out :=
  .next (writeParam s acc (calReg p) i.val v (fun t =>
    if t.calRefuses i.val then t.refuse Code.calSlotBusy
    else (t.setReg (calReg p) i.val v).cond (t.reg .CAL_STATE i.val == 2)
      (fun u => u.setReg .CAL_STATE i.val 3)))

/-! ## Colour tables -/

/-- The data parameter of LUT `l`: 0 to 7 input, 8 to 11 output (R60). -/
def lutReg (l : Nat) : Reg × Nat := if l < 8 then (.IN_LUT_DATA, l) else (.OUT_LUT_DATA, l - 8)

/-- LUT_WRITE (R62): held in the shadow copy; refused while an earlier write is not yet taken by both
surfaces. -/
def execLutWrite (acc : Accessor) (l : Fin 12) (v : Nat) (s : State) : Out :=
  let (r, i) := lutReg l.val
  .next (writeParam s acc r i v (fun t =>
    if t.lutShadow.any (fun e => e.lut == l.val) then t.refuse Code.calSlotBusy
    else { t with lutShadow := t.lutShadow ++ [⟨l.val, v, 0, 0⟩] }))

/-- A surface takes the LUT writes whose deadline has followed them (R62); one taken by both surfaces
is in force and owed to the Keeper. -/
def State.takeLuts (s : State) (surf : Nat) : State :=
  let mine (e : LutWrite) := bit e.due surf && !(bit e.taken surf)
  let s1 := (s.lutShadow.filter mine).foldl (fun t e => t.takeLut surf e.lut e.data) s
  let shadow := s1.lutShadow.map (fun e => if mine e then { e with taken := setBit e.taken surf true }
    else e)
  let done := shadow.filter (fun e => e.taken == 3)
  done.foldl (fun t e => t.noteKeep (lutReg e.lut).1 (lutReg e.lut).2)
    { s1 with lutShadow := shadow.filter (fun e => e.taken != 3) }

end Sys2Proof.Machine
end

