-- ==== Sys2Proof/Machine/Welt.lean ====
section
/-! DEFINITION. The Welt panel link (08_welt_link.md, R229, R245 to R256, R262, R265): training, retraining,
electrical idle and sparing. -/
namespace Sys2Proof.Machine

/-! ## Training (R245 to R248) -/

/-- Stops whatever a lane trains for: its grant returns and it is no longer the busy lane (R248). -/
def State.haltLane (s : State) (surf p : Nat) : State :=
  let i := laneIx surf p
  let s1 := ((s.release (.laneAttempt surf p)).setReg .iWL_CTX i 0).setReg .iWL_PH i 0
  if s1.reg .iWL_BUSY surf = p then s1.setReg .iWL_BUSY surf 0xFF else s1

/-- A lane enters DETECT (R246). -/
def State.toDetect (s : State) (surf p ctx : Nat) : State :=
  let i := laneIx surf p
  ((((((s.haltLane surf p).setLane surf p laneDetect).setReg .iWL_CTX i ctx).setReg .iWL_PRES i 0).setReg
    .iWL_ABS i 0).setReg .iWL_FAILS i 0).setReg .iWL_PULSE i 0

/-- A lane moves to a phase of its training; a SPARED lane stays SPARED (R246). -/
def State.setPhase (s : State) (surf p ph : Nat) : State :=
  if s.lane surf p = laneSpared then
    (s.setReg .iWL_PH (laneIx surf p) ph).setReg .iWL_SINCE (laneIx surf p) s.clock
  else s.setLane surf p ph

/-- Full training begins with the preset of WL_PRESET (R245). -/
def State.toTrain (s : State) (surf p : Nat) : State :=
  let i := laneIx surf p
  let (pre, _, post) := Welt.preset (s.reg .WL_PRESET surf)
  (((((s.setPhase surf p 1).setReg .WL_COEFF i (Welt.coeff pre post)).setReg .iWL_BIT i 0).setReg .iWL_BLK
    i 0).setReg .iWL_EQREJ i 0).setReg .iWL_TSAT i s.clock

/-- The coefficient requests of a lane that wait are dropped. -/
def State.dropEqs (s : State) (surf p : Nat) : State :=
  { s with eqReqs := s.eqReqs.filter (fun q => !(q.surf == surf && q.lane == p)) }

/-- EXCHANGE is entered: CONFIG is sent; under PRESET there is nothing to negotiate (R245, R246). -/
def State.toExchange (s : State) (surf p : Nat) : State :=
  let i := laneIx surf p
  let q := s.reg .iWL_MSEQ surf
  ((((((s.setPhase surf p 3).dropEqs surf p).setReg .iWL_NEG i (s.reg .WL_EQ_MODE surf)).setReg .iWL_CFGACK i
    0).setReg .iWL_REQN i 0).setReg .iWL_CFG i (q + 1)).sendConfig surf

/-! ## Training groups (R244, R245) -/

/-- Whether a lane sends training groups: in TRAIN, LOCK, EXCHANGE or RETRAIN (R246). -/
def State.isTraining (s : State) (surf p : Nat) : Bool :=
  s.lanePhase surf p != 0 || s.lane surf p == laneRetrain

/-- Whether a lane's training set is TS2: outside TRAIN, and in RETRAIN from BIT_LOCK on (R246). -/
def State.trainsSecond (s : State) (surf p : Nat) : Bool :=
  if s.lane surf p = laneRetrain then s.reg .iWL_BIT (laneIx surf p) == 1 else s.lanePhase surf p != 1

/-- The blocks of the training group that a lane sends next (R244, R246): a training set and 31 blocks, in
EXCHANGE MSG blocks first where there are any, and IDL blocks. -/
def State.groupBlocks (s : State) (surf p : Nat) : List Welt.Block :=
  let i := laneIx surf p
  let msgs := if s.lanePhase surf p = 3 then s.laneMsgs surf p else []
  Welt.trainingSet (s.trainsSecond surf p) surf p (s.reg .WL_COEFF i) (s.reg .iWL_TS i) (s.reg .iWL_EQACK i)
    (s.reg .iWL_EQREJ i) :: Welt.scrambleAll (msgs ++ List.replicate (31 - msgs.length) Welt.idl) (Welt.seed p)

/-- A lane has begun a training group; the next one follows after 130 ns (R244). -/
def State.groupSent (s : State) (surf p : Nat) : State :=
  let i := laneIx surf p
  (((if s.lanePhase surf p = 3 then s.takeMsgs surf p else s).setReg .iWL_TS i ((s.reg .iWL_TS i + 1) % 256)).setReg
    .iWL_TSAT i (s.reg .iWL_TSAT i + 130))

/-- The coefficient request that is processed at the begin of a lane's next training group (R245): the oldest
one that arrived at least 2 µs before it. -/
def State.eqDue (s : State) (surf p : Nat) : Option EqReq :=
  s.eqReqs.find? (fun q => q.surf == surf && q.lane == p
    && decide (q.at_ + 2000 ≤ s.reg .iWL_TSAT (laneIx surf p)))

/-! ## Leaving DETECT (R246, R248) -/

/-- Whether a lane in DETECT meets every condition for leaving it but the grant (R246, R258). -/
def State.detectMet (s : State) (surf p : Nat) : Bool :=
  s.lane surf p == laneDetect && s.reg .iWL_CTX (laneIx surf p) != 0 && s.reg .CK_STATE (3 + surf) == 3
    && s.reg .iWL_PRES (laneIx surf p) == 2 && s.returnLocked surf && s.capsOk surf

/-- Whether a lane belongs to the surface bring-up. -/
def State.ofBringUp (s : State) (surf p : Nat) : Bool := s.reg .iWL_CTX (laneIx surf p) == 1

/-- Whether the bring-up needs its grant (R248). -/
def State.needsBringUp (s : State) (surf : Nat) : Bool :=
  (List.range 84).any (fun p => s.ofBringUp surf p
    && ((decide (1 ≤ s.lane surf p) && decide (s.lane surf p ≤ 3)) || s.detectMet surf p))

/-- Lanes in DETECT ask for their grant and leave for TRAIN when it is given; the bring-up's grant
returns when no lane needs it (R246, R248). -/
def State.stepDetect (s : State) (surf : Nat) : State :=
  let s1 := forN 84 s (fun t p =>
    if t.detectMet surf p then
      let op : PowerOp := if t.ofBringUp surf p then .bringUp surf else .laneAttempt surf p
      if t.granted op then t.toTrain surf p else t.request op
    else if t.lane surf p = laneDetect then t.release (.laneAttempt surf p)
    else t)
  if s1.needsBringUp surf then s1 else s1.release (.bringUp surf)

/-! ## Faults, retraining and sparing (R246, R248, R251 to R255) -/

/-- A lane enters FAULT (R229, R246): it gives up what it held, it may be marked, and WELT_LANE_FAULT
is raised; the manual lists no values of its cause argument, so that is a free value. -/
def State.laneToFault (s : State) (surf p : Nat) (mark : Bool) : State :=
  let s1 := (s.haltLane surf p).setLane surf p laneFault
  let s2 := s1.cond mark (fun t => (t.markLane surf p true).undesignate surf p)
  let (c, s3) := s2.draw
  ((s3.setReg .WL_CAUSE (laneIx surf p) Code.weltLaneFault).raise Code.weltLaneFault
    (some (s3.reg .WL_QUEUE surf)) [(8, surf), (8, p), (16, c)]).stepDetect surf

/-- A lane enters SPARED (R246, R254): it gives its logical lane up and is no designated spare. -/
def State.laneToSpared (s : State) (surf p : Nat) : State :=
  let s1 := s.haltLane surf p
  let s2 := match s1.laneLogical surf p with
    | some l => (s1.putMap surf l 0xFF).setReg .iWL_FORMER (laneIx surf p) l
    | none => s1
  ((s2.undesignate surf p).setLane surf p laneSpared).setReg .iWL_FAILS (laneIx surf p) 0

/-- A lane enters RETRAIN (R245, R246): the coefficients in force stay. -/
def State.toRetrain (s : State) (surf p : Nat) : State :=
  let i := laneIx surf p
  ((((s.setLane surf p laneRetrain).setReg .iWL_CTX i 3).setReg .iWL_BIT i 0).setReg .iWL_BLK i 0).setReg
    .iWL_TSAT i s.clock |>.bump .WL_RETRAINS i

/-- The effect line of a move decided now (R253): its raster position, line and frame offset, and its
local time. -/
def State.effectLine (s : State) (surf : Nat) : Nat × Nat × Nat × Nat :=
  let g := s.genOf surf
  let n := s.rasterN surf
  let l := s.vCount surf
  let p := s.genP3 g * third
  let e := ceilDiv (3 * n * l * (s.local_ - s.reg .iG_BLOCAL g)) p + 4
  let at_ := (s.reg .iG_BLOCAL g + e * p / (3 * n * l)) >>> 48
  if n * l ≤ e then ((e - n * l) / l, (e - n * l) % l, 1, at_) else (e / l, e % l, 0, at_)

/-- A move of logical lane `l` from lane `a` to lane `z` is decided (R253 steps 1 and 2): SPARE_CMD is
sent. -/
def State.startMove (s : State) (surf l a z kind : Nat) : State :=
  let (raster, line, df, at_) := s.effectLine surf
  let frame := s.reg .LAST_FRAME (s.genOf surf) + df
  let s1 : State := { s with moves := s.moves ++ [⟨surf, l, a, z, kind, at_, frame, false, false⟩] }
  s1.sendFwd surf 0x82 (leBytes 1 l ++ leBytes 1 a ++ leBytes 1 z ++ leBytes 1 line ++ leBytes 2 raster
    ++ leBytes 4 frame ++ leBytes 6 0)

/-- Whether a logical lane is being moved. -/
def State.moving (s : State) (surf l : Nat) : Bool :=
  s.moves.any (fun m => m.surf == surf && m.logical == l && !m.done)

/-- The busy lane of a surface holds its grant: its attempt starts, or its logical lane is covered
before it leaves ACTIVE (R246, R252). -/
def State.goBusy (s : State) (surf p : Nat) : State :=
  if s.lane surf p = laneSpared then (s.setReg .iWL_CTX (laneIx surf p) 4).toTrain surf p
  else
    match s.laneLogical surf p, s.openSpares surf with
    | some l, z :: _ =>
      if s.moving surf l ∨ s.lane surf p ≠ laneActive then s.toRetrain surf p
      else (s.setReg .iWL_FORMER (laneIx surf p) l).startMove surf l p z 0
    | _, _ => s.toRetrain surf p

/-- The next waiting lane becomes the busy one and asks for its grant; with it the attempt starts
(R248, R258). -/
def State.kick (s : State) (surf : Nat) : State :=
  let b := s.reg .iWL_BUSY surf
  if !s.returnLocked surf then s
  else if b < 84 then
    if s.granted (.laneAttempt surf b) && s.reg .iWL_CTX (laneIx surf b) == 0
        && !s.moves.any (fun m => m.surf == surf && m.fromLane == b && m.kind == 0 && !m.done) then
      s.goBusy surf b else s
  else
    match s.retrains.find? (fun r => r.1 == surf && (if r.2.2 then s.lane surf r.2.1 == laneSpared
        else s.lane surf r.2.1 == laneActive || s.lane surf r.2.1 == laneTest)) with
    | none => s
    | some r =>
      let s1 := { s with retrains := s.retrains.filter (fun x => x != r) }
      ((s1.setReg .iWL_BUSY surf r.2.1).request (.laneAttempt surf r.2.1))

/-- A RETRAIN or a SPARED attempt is ordered (R246, R248, R251). -/
def State.trigger (s : State) (surf p : Nat) (attempt : Bool) : State :=
  if s.retrains.contains (surf, p, attempt) || s.reg .iWL_BUSY surf == p then s
  else ({ s with retrains := s.retrains ++ [(surf, p, attempt)] } : State).kick surf

/-- Permanent sparing of a carrying lane (R254). -/
def State.spareLane (s : State) (surf p : Nat) : State :=
  match s.laneLogical surf p with
  | none => s
  | some l =>
    if s.lane surf p ≠ laneActive ∨ s.moving surf l = true then s
    else match s.openSpares surf with
      | [] => s.raise Code.weltNoSpare (some (s.reg .WL_QUEUE surf)) [(8, surf), (8, p)]
      | z :: _ => (s.setReg .iWL_FORMER (laneIx surf p) l).startMove surf l p z 2

/-- An attempt fails (R246, R248): a timeout, or BLOCK_LOCK lost in EXCHANGE. -/
def State.attemptFailed (s : State) (surf p : Nat) : State :=
  let i := laneIx surf p
  let ctx := s.reg .iWL_CTX i
  let s1 := s.bump .iWL_FAILS i
  if 3 ≤ s1.reg .iWL_FAILS i then (s1.laneToFault surf p true).kick surf
  else if s.lane surf p = laneSpared then ((s1.haltLane surf p).setLane surf p laneSpared).kick surf
  else
    let n := s1.reg .iWL_FAILS i
    ((s1.toDetect surf p ctx).setReg .iWL_FAILS i n).stepDetect surf

/-- A RETRAIN times out (R246, R252): the lane is SPARED and a cover becomes permanent. -/
def State.retrainFailed (s : State) (surf p : Nat) : State :=
  let z := s.reg .iWL_COVER (laneIx surf p)
  let s1 := (if z < 84 then s.undesignate surf z else s).setReg .iWL_COVER (laneIx surf p) 0xFF
  (s1.laneToSpared surf p).kick surf

/-- Whether a lane may become ACTIVE at the next ray-line begin instant (R246). -/
def State.laneMayActivate (s : State) (surf p : Nat) : Bool :=
  let i := laneIx surf p
  (s.lanePhase surf p == 3 && s.reg .iWL_CFGACK i == 1 && s.reg .iWL_NEG i == 1)
    || (s.lane surf p == laneRetrain && s.reg .iWL_BIT i == 1 && s.reg .iWL_BLK i == 1)

/-- LANE_TIMEOUT (R246): TRAIN 20 ms, LOCK 2 ms, EXCHANGE 12 ms, RETRAIN 200 µs. A lane whose training is
complete waits for the next ray-line begin instant and times out no longer. -/
def execLaneTimeout (surf : Surface) (p : Lane) (s : State) : Out :=
  let age := s.laneAge surf.val p.val
  let limit := match s.lanePhase surf.val p.val with
    | 1 => 20000000 | 2 => 2000000 | 3 => 12000000 | _ => 200000
  let phase := s.lanePhase surf.val p.val
  let s0 := s.send []
  if s.laneMayActivate surf.val p.val then .next s
  else if s.lane surf.val p.val = laneRetrain then
    .next (if limit ≤ age then s0.retrainFailed surf.val p.val else s)
  else if phase ≠ 0 ∧ limit ≤ age then .next (s0.attemptFailed surf.val p.val)
  else .next s

/-- RECEIVER_DETECT_PULSE (R246): one every 1 ms; `present` is what the pulse sees. -/
def execReceiverDetectPulse (surf : Surface) (p : Lane) (present : Bool) (s : State) : Out :=
  let i := laneIx surf.val p.val
  let s0 := s.setReg .iWL_PULSE i (s.clock + 1)
  if s.lane surf.val p.val ≠ laneDetect ∨ s.reg .iWL_CTX i = 0
      ∨ (s.reg .iWL_PULSE i ≠ 0 ∧ s.clock + 1 < s.reg .iWL_PULSE i + 1000000) then .next s
  else if present then
    .next (((s0.setReg .iWL_PRES i (min 2 (s.reg .iWL_PRES i + 1))).setReg .iWL_ABS i 0).stepDetect
      surf.val)
  else
    let s1 := (s0.setReg .iWL_PRES i 0).bump .iWL_ABS i
    .next (if 64 ≤ s1.reg .iWL_ABS i then s1.laneToFault surf.val p.val true else s1.stepDetect surf.val)

/-- A recovered lane takes its former logical lane back, or becomes a designated spare (R255). -/
def State.recovered (s : State) (surf p : Nat) : State :=
  let i := laneIx surf p
  let l := s.reg .iWL_FORMER i
  let s1 := s.setReg .iWL_FORMER i 0xFF
  if l < s.logicalLanes surf ∧ s.carried surf l = false ∧ s.moving surf l = false then
    s1.startMove surf l ((s.mapLane surf l).getD 0xFF) p 3
  else if (s1.laneLogical surf p).isNone && !(s1.designated surf).contains p then
    s1.setDesignated surf (s1.designated surf ++ [p])
  else s1

/-- Whether a ray line of a surface begins within the TB cycle that ends now (R209). -/
def State.lineBegins (s : State) (surf : Nat) : Bool :=
  let g := s.genOf surf
  let lines := s.rasterN surf * s.vCount surf
  let at_ := 3 * lines * (s.local_ - s.reg .iG_BLOCAL g)
  let line := s.genP3 g * third
  s.gensRun && s.reg .iS_SEEN surf != 0 && decide (at_ < lines * line)
    && decide (at_ % line < 3 * lines * s.cycleStep)

/-- LANE_ACTIVE_ENTRY (R229, R246, R252, R255): a lane whose training is complete becomes ACTIVE at the next
ray-line begin instant. -/
def execLaneActiveEntry (surf : Surface) (p : Lane) (s : State) : Out :=
  let k := surf.val
  let i := laneIx k p.val
  if s.laneMayActivate k p.val && s.lineBegins k then
    let ctx := s.reg .iWL_CTX i
    let s1 := ((s.send []).haltLane k p.val).setLane k p.val laneActive
    let s2 := if ctx = 2 then s1.markLane k p.val false else s1
    let z := s2.reg .iWL_COVER i
    let s3 :=
      if ctx = 2 ∨ ctx = 4 then s2.recovered k p.val
      else if ctx = 3 ∧ z < 84 then
        let l := s2.reg .iWL_FORMER i
        (s2.setReg .iWL_COVER i 0xFF).startMove k l ((s2.mapLane k l).getD 0xFF) p.val 1
      else s2
    .next ((s3.stepDetect k).kick k)
  else .next s

/-- SPARED_ATTEMPT (R246): every 1 s a SPARED lane asks for an attempt. -/
def execSparedAttempt (surf : Surface) (p : Lane) (s : State) : Out :=
  if s.lane surf.val p.val = laneSpared ∧ s.reg .iWL_PH (laneIx surf.val p.val) = 0
      ∧ 1000000000 ≤ s.laneAge surf.val p.val then
    .next (s.trigger surf.val p.val true)
  else .next s

/-- The busy lane goes back to the head of the waiting ones and returns its grant: no attempt starts while
neither return lane is LOCKED (R248, R258). -/
def State.holdLane (s : State) (surf p : Nat) : State :=
  ({ s with retrains := (surf, p, s.lane surf p == laneSpared) :: s.retrains } : State).haltLane surf p

/-- The lane that a spare covers. -/
def State.coveredBy (s : State) (surf z : Nat) : Option Nat :=
  (List.range 84).find? (fun p => s.reg .iWL_COVER (laneIx surf p) == z)

/-- A lane that gave up its logical lane for permanent sparing is SPARED (R254). Where it only covered another
lane, the spare that takes over covers that lane in its place (R252). -/
def State.sparedTo (s : State) (surf a z : Nat) : State :=
  match s.coveredBy surf a with
  | some p => (s.setReg .iWL_COVER (laneIx surf p) z).laneToSpared surf a
  | none => (s.undesignate surf z).laneToSpared surf a

/-- What the lane a move leaves does once the move is decided, `ok` when it was taken: the lane of a move
that covers a busy lane retrains, or is held while no return lane is locked, and remembers the lane that
covers it; the lane of a move that spares it is spared (R252, R258). -/
def State.moveTaken (s : State) (k : Nat) (m : Move) (ok : Bool) : State :=
  match m.kind with
  | 0 =>
    let s1 := if ok then s.setReg .iWL_COVER (laneIx k m.fromLane) m.toLane else s
    if s1.returnLocked k then s1.toRetrain k m.fromLane else s1.holdLane k m.fromLane
  | 2 => if ok then s.sparedTo k m.fromLane m.toLane else s
  | _ => s

/-- SPARE_EFFECT (R253): at the effect line the logical lane moves; a spare that is no longer ACTIVE
takes nothing. The lane that gave it up enters its next state (R252, R254). -/
def execSpareEffect (surf : Surface) (l : Fin 80) (s : State) : Out :=
  let k := surf.val
  match s.moves.find? (fun m => m.surf == k && m.logical == l.val && !m.done) with
  | none => .next s
  | some m =>
    if s.clock < m.effect then .next s
    else
      let ok := s.lane k m.toLane == laneActive
      let s0 := s.send []
      let s1 : State := if ok then
          { s0 with moves := s0.moves.map (fun x => if x = m then { x with done := true } else x) }
        else { s0 with moves := s0.moves.erase m }
      let s2 := if ok then
          (((s1.putMap k l.val m.toLane).setReg .WL_CAUSE (laneIx k m.toLane) Code.weltSpared).cond
            (decide (m.fromLane < 84))
            (fun t => t.setReg .WL_CAUSE (laneIx k m.fromLane) Code.weltSpared)).raise Code.weltSpared
            (some (s1.reg .WL_QUEUE k))
            [(8, k), (8, l.val), (8, m.fromLane), (8, m.toLane), (64, m.frame)]
        else s1
      .next ((s2.moveTaken k m ok).kick k)

/-- SPARE_ACK_TIMEOUT (R253). -/
def execSpareAckTimeout (surf : Surface) (l : Fin 80) (s : State) : Out :=
  match s.moves.find? (fun m => m.surf == surf.val && m.logical == l.val && m.done) with
  | none => .next s
  | some m =>
    if s.clock < m.effect + 100000 then .next s
    else
      let s1 : State := { s with moves := s.moves.erase m }
      .next (if m.acked then s1 else s1.bump .WL_SPARE_NOACK surf.val)

/-! ## Bring-up, idle and fast wake (R247, R249, R250) -/

/-- The default spare map (R229). -/
def defaultMap : Nat := packRecords 1 (List.range 84)

/-- The start-up rule for one logical lane: a lane that is missing or marked is replaced by the
lowest designated spare (R229). -/
def State.startUpLane (s : State) (surf l : Nat) : State :=
  match s.mapLane surf l with
  | some p =>
    if s.laneMarked surf p then
      (match s.designated surf with
        | z :: _ => (s.putMap surf l z).undesignate surf z
        | [] => s.putMap surf l 0xFF)
    else s
  | none =>
    match s.designated surf with
    | z :: _ => (s.putMap surf l z).undesignate surf z
    | [] => s

/-- Incompatible CAPS (R262): every lane of the surface goes to FAULT, unmarked, and WELT_CAPS is raised. -/
def State.capsFault (s : State) (surf : Nat) : State :=
  let s1 := s.raise Code.weltCaps (some (s.reg .WL_QUEUE surf)) [(8, surf)]
  forN 84 s1 (fun t p => if t.lane surf p = laneFault then t else t.laneToFault surf p false)

/-- CAPS held are looked at again: incompatible ones fault every lane (R262). -/
def State.checkCaps (s : State) (surf : Nat) : State :=
  if s.reg .iWL_CAPS surf = 1 ∧ s.capsOk surf = false then s.capsFault surf else s

/-- A surface brings up its assigned lanes and designated spares from DETECT (R229, R247). -/
def State.bringUp (s : State) (surf : Nat) : State :=
  let s1 : State := { s with
    moves := s.moves.filter (fun m => m.surf != surf || m.done)
    retrains := s.retrains.filter (fun r => r.1 != surf) }
  let s2 := forN 84 s1 (fun t p =>
    let i := laneIx surf p
    let t1 := if t.reg .iWL_COVER i < 84 then t.putMap surf (t.reg .iWL_FORMER i) p else t
    (t1.setReg .iWL_COVER i 0xFF).setReg .iWL_IDLEORD surf 0)
  let s3 := if s2.reg .iWL_MAPRESET surf = 1 then
      ((s2.setReg .WL_SPARE_MAP surf defaultMap).noteKeep .WL_SPARE_MAP surf).setReg .iWL_MAPRESET surf 0
    else s2
  let s4 := s3.setDesignated surf ((s3.designated surf).filter (fun p => !(s3.laneMarked surf p)))
  let s5 := forN (s4.logicalLanes surf) s4 (fun t l => t.startUpLane surf l)
  let part := s5.takingPart surf
  let s6 := forN 84 s5 (fun t p =>
    if part.contains p then t.toDetect surf p 1
    else if t.lane surf p = laneSpared then (t.haltLane surf p).setLane surf p laneSpared
    else (t.haltLane surf p).setLane surf p (if t.laneMarked surf p then laneFault else laneIdle))
  (s6.stepDetect surf).checkCaps surf

/-- A dark transition has applied (R247, R262): a full bring-up where WL_SSC, WL_EQ_MODE or WL_PRESET
changed, otherwise newly assigned lanes come up and lanes no longer assigned become unused; CONFIG names the
frame that begins. -/
def State.reconfigure (s : State) (surf oldLanes : Nat) (full : Bool) (frame : Nat) : State :=
  let s1 := s.announce s surf frame
  if full then s1.bringUp surf
  else
    let up := (List.range (s1.logicalLanes surf)).filter (fun l => oldLanes ≤ l)
    let t1 := up.foldl (fun t l => match t.mapLane surf l with
      | some p => if t.laneMarked surf p || t.lane surf p == laneActive then t else t.toDetect surf p 1
      | none => t) s1
    let down := (List.range oldLanes).filter (fun l => s1.logicalLanes surf ≤ l)
    let t2 := down.foldl (fun t l => match t.mapLane surf l with
      | some p => if (t.designated surf).contains p then t
          else (t.haltLane surf p).setLane surf p laneIdle
      | none => t) t1
    (t2.stepDetect surf).checkCaps surf

/-- An idle order of the surface (R220, R249, R421): training lanes stop; LANE_IDLE_ENTRY takes the
ACTIVE ones. -/
def State.idleOrder (s : State) (surf : Nat) : State :=
  let s1 : State := { s with
    moves := s.moves.filter (fun m => m.surf != surf || m.done)
    retrains := s.retrains.filter (fun r => r.1 != surf) }
  let s2 := forN 84 (s1.setReg .iWL_IDLEORD surf 1) (fun t p =>
    let st := t.lane surf p
    if st = laneSpared then (t.haltLane surf p).setLane surf p laneSpared
    else if st = laneFault ∨ st = laneActive ∨ st = laneIdle ∨ st = laneTest then t
    else (t.haltLane surf p).setLane surf p laneIdle)
  s2.stepDetect surf

/-- Whether the blanking idle of WL_BLANK_IDLE stands: after raster position 0 and before the exit
order, 2 µs before raster position 23 (R249). -/
def State.blankIdle (s : State) (surf : Nat) : Bool :=
  s.reg .WL_BLANK_IDLE surf == 1 && s.rasterReached surf 1 0
    && decide (s.clock + 2000 < s.rasterLocal surf 23)

/-- LANE_IDLE_ENTRY (R249): an ACTIVE lane under an idle order sends 4 EIE blocks and enters electrical
idle. -/
def execLaneIdleEntry (surf : Surface) (p : Lane) (s : State) : Out :=
  let k := surf.val
  if s.lane k p.val = laneActive ∧ (s.reg .iWL_IDLEORD k = 1 ∨ s.blankIdle k = true) then
    .next (((s.haltLane k p.val).setLane k p.val laneIdle).send
      [.slot k p.val (List.replicate 4 (Welt.eie.control, Welt.eie.bits))])
  else .next s

/-- A lane leaves electrical idle (R246, R249, R251): within 5 ms by FASTWAKE, later by RETRAIN. -/
def State.leaveIdle (s : State) (surf p : Nat) : State :=
  if s.lane surf p ≠ laneIdle ∨ (s.takingPart surf).contains p = false then s
  else if s.laneAge surf p ≤ 5000000 then
    (s.setLane surf p laneFastwake).sendMore
      [.slot surf p ((Welt.burst p (s.reg .WL_COEFF (laneIx surf p))).map (fun b => (b.control, b.bits)))]
  else (s.setLane surf p laneActive).trigger surf p false

/-- BLANK_IDLE_EXIT (R249, R250): 2 µs before raster position 23 the lanes are ordered out of idle. -/
def execBlankIdleExit (surf : Surface) (s : State) : Out :=
  let k := surf.val
  if s.reg .WL_BLANK_IDLE k = 1 ∧ s.reg .iS_SEEN k ≠ 0 ∧ s.reg .iWL_IDLED k ≠ s.reg .iS_SEEN k
      ∧ s.reg .iWL_IDLEORD k = 0 ∧ s.rasterLocal k 23 ≤ s.clock + 2000 then
    .next (forN 84 ((s.send []).setReg .iWL_IDLED k (s.reg .iS_SEEN k)) (fun t p => t.leaveIdle k p))
  else .next s

/-- FASTWAKE_DONE (R246, R250): the burst of 200 blocks has been sent. -/
def execFastwakeDone (surf : Surface) (p : Lane) (s : State) : Out :=
  if s.lane surf.val p.val = laneFastwake ∧ 812 ≤ s.laneAge surf.val p.val then
    .next ((s.setLane surf.val p.val laneActive).kick surf.val)
  else .next s

/-- The Welt domain of a surface has lost lock: its lanes go idle (R249, R421). -/
def State.weltDomainLost (s : State) (surf : Nat) : State := s.idleOrder surf

/-- A surface becomes OFF: its lanes are ordered into idle (R220, R249). -/
def State.surfaceOff (s : State) (surf : Nat) : State :=
  (s.idleOrder surf).setReg .iS_OFF_NS surf s.clock

/-- Scan-out is enabled again (R220, R247): within 5 ms by the exit rules, later by a bring-up. -/
def State.surfaceOn (s : State) (surf : Nat) : State :=
  if s.clock - s.reg .iS_OFF_NS surf ≤ 5000000 then
    let s1 := forN 84 (s.setReg .iWL_IDLEORD surf 0) (fun t p => t.leaveIdle surf p)
    s1.stepDetect surf
  else s.bringUp surf

/-! ## Lane control (R251, R254, R265, R268) -/

/-- WL_CTRL_RETRAIN (R251): a code that does not fit the lane's state changes nothing. -/
def execWlCtrlRetrain (acc : Accessor) (surf : Surface) (p : Lane) (s : State) : Out :=
  .next (writeParam (s.send []) acc .WL_CTRL (laneIx surf.val p.val) 1 (fun t =>
    if t.lane surf.val p.val = laneActive then t.trigger surf.val p.val false else t))

/-- WL_CTRL_SPARE (R254). -/
def execWlCtrlSpare (acc : Accessor) (surf : Surface) (p : Lane) (s : State) : Out :=
  .next (writeParam (s.send []) acc .WL_CTRL (laneIx surf.val p.val) 2 (fun t =>
    t.spareLane surf.val p.val))

/-- WL_CTRL_RETRY (R246): a FAULT lane returns to DETECT. -/
def execWlCtrlRetry (acc : Accessor) (surf : Surface) (p : Lane) (s : State) : Out :=
  .next (writeParam s acc .WL_CTRL (laneIx surf.val p.val) 3 (fun t =>
    if t.lane surf.val p.val = laneFault then t.toDetect surf.val p.val 2 else t))

/-- WL_MAP_RESET (R229, R268): a DARK-class value; the default map is restored at the next
bring-up. -/
def execWlMapReset (acc : Accessor) (surf : Surface) (s : State) : Out :=
  .next (writeParam s acc .WL_MAP_RESET surf.val 1 (fun t => t.stageWrite acc .WL_MAP_RESET surf.val 1))

/-- WL_CAL_FETCH (R263): CAL_REQ for a ray map (`gain` false) or a gain set. -/
def execWlCalFetch (acc : Accessor) (surf : Surface) (gain : Bool) (s : State) : Out :=
  .next (writeParam (s.send []) acc .WL_CAL_FETCH surf.val (1 + b2n gain) (fun t =>
    t.sendFwd surf.val 0x83 (leBytes 1 (b2n gain) ++ leBytes 7 0)))

/-- WL_PRBS_MODE (R246, R265). -/
def execWlPrbsMode (acc : Accessor) (surf : Surface) (p : Lane) (mode : Fin 4) (s : State) : Out :=
  let k := surf.val
  let i := laneIx k p.val
  .next (writeParam (s.send []) acc .WL_PRBS_MODE i mode.val (fun t =>
    let st := t.lane k p.val
    let test := t.sendFwd k 0x85 (leBytes 1 p.val ++ leBytes 1 0 ++ leBytes 1 mode.val ++ leBytes 5 0)
    if mode.val = 0 then
      (test.setReg .WL_PRBS_MODE i 0).setReg .iWL_PRBSRUN i 0 |>.cond (st == laneTest)
        (fun u => u.trigger k p.val false)
    else if (t.laneLogical k p.val).isNone || st == laneSpared || st == laneFault
        || t.reg .SO_OUT_STATE k == 0 then
      ((((test.haltLane k p.val).setLane k p.val laneTest).setReg .WL_PRBS_MODE i mode.val).setReg
        .iWL_PRBSAT i t.clock).setReg .iWL_PRBSRUN i 0
    else t.refuse Code.wlBusy))

/-- PRBS_START (R265): the raw pattern begins 100 µs after TEST_CMD, from a register that the manual does not
give: a free value that is not 0. -/
def execPrbsStart (surf : Surface) (p : Lane) (s : State) : Out :=
  let i := laneIx surf.val p.val
  let mode := s.reg .WL_PRBS_MODE i
  if s.lane surf.val p.val = laneTest ∧ mode ≠ 0 ∧ s.reg .iWL_PRBSAT i + 100000 ≤ s.clock then
    let (d, s1) := s.draw
    .next ((s1.setReg .iWL_PRBSREG i (1 + d % (2 ^ Welt.prbsLength mode - 1))).setReg .iWL_PRBSRUN i 1)
  else .next s

/-- WR_PRBS_MODE (R266): a return lane enters test while its fellow is LOCKED. -/
def execWrPrbsMode (acc : Accessor) (surf : Surface) (r : RLane) (mode : Fin 4) (s : State) : Out :=
  let k := surf.val
  let i := 2 * k + r.val
  .next (writeParam (s.send []) acc .WR_PRBS_MODE i mode.val (fun t =>
    let test := ((t.sendFwd k 0x85 (leBytes 1 r.val ++ leBytes 1 1 ++ leBytes 1 mode.val
      ++ leBytes 5 0)).setReg .WR_PRBS_MODE i mode.val).setReg .iWR_PRBSAT i t.clock
    if mode.val = 0 then test.cond (t.reg .WR_STATE i == 3) (fun u => u.setReg .WR_STATE i 1)
    else if t.reg .WR_STATE (2 * k + (1 - r.val)) = 2 then test.setReg .WR_STATE i 3
    else t.refuse Code.wlBusy))

end Sys2Proof.Machine
end

