-- ==== Sys2Proof/Machine/Frame.lean ====
section
/-! DEFINITION. The frame boundary (01_architecture.md, R21, R35 to R38; 07_scanout.md, R209 to R220;
06_stream_ingest.md, R193, R194, R198, R201; 14_power_thermal.md, R434, R438; 17_startup_service.md,
R493): panel temperature, stage, commits, frame records and output states. -/
namespace Sys2Proof.Machine

/-! ## The frame under way -/

/-- The frame under way on a surface. -/
def State.frame (s : State) (surf : Nat) : FrameRec := if surf = 0 then s.frameA else s.frameB

/-- Replaces it. -/
def State.setFrame (s : State) (surf : Nat) (f : FrameRec) : State :=
  if surf = 0 then { s with frameA := f } else { s with frameB := f }

/-- Active ray lines of a surface's frame. -/
def State.activeLines (s : State) (surf : Nat) : Nat := s.reg .SURF_HEIGHT surf * s.vCount surf

/-! ## Slot release (R111) -/

/-- Whether a tile belongs to band `b` of a surface. -/
def Tile.inBand (t : Tile) (surf b : Nat) : Bool := t.surf == surf && t.band == b

/-- The slot of band `b` is released: its unfinished tiles are discarded or abandoned and counted, and
the slot holds nothing. -/
def State.releaseBand (s : State) (surf b : Nat) : State :=
  let mine (t : Tile) := t.inBand surf b
  let late := (s.requeued.filter mine).length + (s.tileQueue.filter mine).length
    + (s.held.filter (fun e => mine e.2)).length
  ({ s with
    requeued := s.requeued.filter (fun t => !mine t)
    tileQueue := s.tileQueue.filter (fun t => !mine t)
    held := s.held.filter (fun e => !mine e.2)
    ring := s.ring.filter (fun r => !(r.surf == surf && r.band == b)) } : State).bumpBy .HZ_LATE_TILES 0
    late |>.setReg .iS_RELEASED surf (b + 1)

/-- A word of slot b & 3 whose pattern test shows an error (R297, class 2). -/
def State.ringFinding (s : State) (surf b : Nat) (e : Nat × Finding) : State :=
  match e.2 with
  | .correctable => s.bump .SC_CORRECTED 2
  | .uncorrectable => (s.bump .SC_UNCORRECTABLE 2).raise Code.ringFault (some (s.reg .MS_QUEUE 0))
      [(8, surf), (8, b % 4), (32, e.1)]

/-- Whether a surface's ring has been tested whole in the lap: 128 parts of each of its four slots (R297). -/
def State.ringLapped (s : State) (surf : Nat) : Bool := decide (512 ≤ s.reg .iRING_TESTS surf)

/-- The band-ring scrubber tests 1/128 of a slot that is released; `test` lists the words whose pattern
does not read back clean (R297). The spec gives no size of a ring word, so SC_POSITION within a lap is
a free value. -/
def State.ringTest (s : State) (surf b : Nat) (test : List (Nat × Finding)) : State :=
  if s.reg .SC_ENABLE 2 = 0 then s
  else
    let s1 := test.foldl (fun t e => t.ringFinding surf b e) (((s.openLap 2).scrubSlow 2).setReg .SC_STATE 2 3)
    let s2 := s1.setReg .iRING_TESTS surf (min 512 (s1.reg .iRING_TESTS surf + 1))
    if s2.ringLapped surf = true ∧ (s2.ringLapped (1 - surf) = true ∨ s2.reg .SO_OUT_STATE (1 - surf) = 0) then
      (((s2.setReg .iRING_TESTS 0 0).setReg .iRING_TESTS 1 0).setReg .SC_POSITION 2 0).lapEnd 2
    else
      let (x, s3) := s2.draw
      s3.setReg .SC_POSITION 2 x

/-- SLOT_RELEASE: at the start of raster position 25 + b. -/
def execSlotRelease (surf : Surface) (test : List (Nat × Finding)) (s : State) : Out :=
  let b := s.reg .iS_RELEASED surf.val
  if b < s.reg .SURF_HEIGHT surf.val ∧ s.rasterReached surf.val (25 + b) 0 = true then
    .next ((s.releaseBand surf.val b).ringTest surf.val b test)
  else .next s

/-! ## The end of a frame -/

/-- The frame that ends: its slots are released, its record waits for publication, its tap frames have
their rows, and a Husk code may be raised again (R38, R111, R161, R225). -/
def State.closeFrame (s : State) (surf : Nat) : State :=
  if s.reg .iS_SEEN surf = 0 then s
  else
    let h := s.reg .SURF_HEIGHT surf
    let s1 := forN h s (fun t b => if t.reg .iS_RELEASED surf ≤ b then (t.releaseBand surf b).ringTest surf b [] else t)
    { s1 with
      awaiting := s1.awaiting ++ [(surf, s1.frame surf)]
      taps := s1.taps.map (fun x => if x.tap / 8 = surf then { x with ended := true } else x)
      rejected := s1.rejected.filter (fun e => e.1 != surf) }

/-! ## Step 1: the panel temperature (R434) -/

/-- The valid readings of the source TP_SOURCE names, as Q8.4 counts. -/
def State.panelReadings (s : State) (surf : Nat) : List Int :=
  match s.reg .TP_SOURCE surf with
  | 0 =>
    ((List.range 4).filter (fun k => bit (s.reg .TP_DIODES surf) k && s.reg .TS_VALID (32 + k) == 1)).map
      (fun k => s.regInt .TS_TEMP (32 + k))
  | 1 =>
    let m := s.reg .WL_PANEL_SENSORS surf
    let n := s.reg .iWL_SENSN surf
    if s.clock ≤ s.reg .iWL_SENSAT surf + 100000000 then
      ((List.range 8).map (fun k => blobGet (s.reg .TP_SENSORS surf) (2 * k) 2)).filterMap (fun id =>
        if id = 0xFFFF then none
        else ((List.range n).find? (fun j => blobGet m (8 + 8 * j) 2 == id)).map
          (fun j => asInt 16 (blobGet m (10 + 8 * j) 2)))
    else []
  | _ => [s.regInt .TP_FIXED surf]

/-- Step 1 of R21: the mean, rounded half up; without a valid reading the previous temperature stands
and TP_STALE counts. -/
def State.samplePanel (s : State) (surf : Nat) : State :=
  let rs := s.panelReadings surf
  let n : Int := rs.length
  if rs.isEmpty then s.bump .TP_STALE surf
  else s.setRegInt .TP_TEMP surf ((2 * rs.sum + n) / (2 * n))

/-! ## Step 2: the throttle stage (R126, R438) -/

/-- Step 2 of R21: the greater of the thermal stage due and ADM_STAGE_MIN; THERMAL_STAGE when the
thermal stage applied changes. -/
def State.applyStage (s : State) (surf : Nat) : State :=
  let due := s.reg .TH_STAGE_DUE 0
  let s1 := s.setReg .iS_STAGE surf (max due (s.reg .ADM_STAGE_MIN surf))
  if s.reg .iS_TSTAGE surf = due then s1
  else (s1.setReg .iS_TSTAGE surf due).raise Code.thermalStage none [(8, surf), (8, due)]

/-! ## Step 3: commits (R193, R194, R198, R201, R206, R214, R247, R262) -/

/-- An accepted commit that cannot apply waits again with its ID (R194, R496). -/
def State.putBack (s : State) (a : Accepted) : State :=
  let c := { a.commit with surfs := 2 ^ a.surf }
  let merged := s.commits.map (fun x => if x.id = c.id then { x with surfs := x.surfs ||| c.surfs } else x)
  { s with commits := if s.commits.any (fun x => x.id == c.id) then merged
      else s.commits.filter (fun x => decide (x.id < c.id)) ++ [c]
        ++ s.commits.filter (fun x => decide (c.id < x.id)) }

/-- Whether a buffer a commit lists swaps at this surface's boundary (R198). -/
def State.swapsHere (s : State) (c : Commit) (surf b : Nat) : Bool :=
  let other := 1 - surf
  if !s.spansBoth c then true
  else if (s.namedBuffers surf).contains b then true
  else if (s.liveCommits).any (fun x => x.id == c.id) then false
  else !(s.namedBuffers other).contains b

/-- A commit with nothing left to apply returns its group to IDLE (R195, R196). -/
def State.finishGroup (s : State) (c : Commit) : State :=
  match c.group with
  | none => s
  | some g =>
    if s.liveCommits.any (fun x => x.id == c.id) then s
    else (s.idleGroup g).setReg .CG_RESULT g 0

/-- One commit takes effect on a surface. -/
def State.applyCommit (s : State) (surf : Nat) (c : Commit) : State :=
  let s1 := (c.forSurf surf).foldl (fun t kv => t.putKey kv.1 kv.2) s
  let s2 := s1.setReg .iS_COMMITTED surf 1
  let s3 := (c.buffers.filter (s2.swapsHere c surf)).foldl (fun t b => t.swapBuffer b) s2
  let last := s.reg .CMT_IN_FORCE surf
  ((s3.setReg .CMT_IN_FORCE surf (if last = 0 ∨ idBefore last c.id = true then c.id else last)).bump
    .CMT_ACCEPTED surf).finishGroup c

/-- Which generators time which surfaces (R212). -/
def State.refreshUsers (s : State) : State :=
  forN 4 s (fun t g => t.setReg .LAST_USERS g
    (b2n (t.reg .SO_LAST_GEN 0 == g) + 2 * b2n (t.reg .SO_LAST_GEN 1 == g)))

/-- What follows from the rate and geometry in force (R45, R207, R212, R213). -/
def State.refreshTiming (s : State) (surf : Nat) : State :=
  (((s.refreshUsers.setReg .V_COUNT surf (s.vCount surf)).setReg .SO_BAND_NS surf (s.bandNs surf)).setReg
    .SO_LINE_PS surf (s.linePs surf)).refreshNext (s.genOf surf)

/-- The cost and the reservation of the state in force (R42, R124, R125). -/
def State.setCost (s : State) (surf : Nat) (costs : List Nat) (r : Nat) : State :=
  (forN 4 s (fun t m => t.setReg .iS_COST (4 * surf + m) (costs.getD m 0))).setReg .iS_RESV surf r
    |>.setReg .ADM_RESERVATION surf r

/-- The cost and the reservation of the state that start-up brings into force. -/
def State.refreshCost (s : State) (surf : Nat) : State :=
  let costs := (s.surfaceCost surf false).map Prod.fst
  s.setCost surf costs (s.reservation surf costs)

/-- A change of WL_SSC relocks the PLL of the surface's Welt domain (R417); one that is not LOCKED is in
its sequence already. -/
def State.relockWelt (s : State) (surf : Nat) : State :=
  if s.reg .CK_STATE (3 + surf) = 3 then (s.setReg .iCK_WHY (3 + surf) 3).toBypass (3 + surf) else s

/-- Step 3 of R21 on commits `cs` that apply now, in increasing ID; `frame` is the number of the frame that
begins, and `found` the costs and the reservation that the last evaluation of them found (R42, R125). -/
def State.applyCommits (s : State) (surf frame : Nat) (cs : List Commit) (found : List Nat × Nat) : State :=
  let dark := cs.any (fun c => s.commitDark c surf)
  let oldLanes := s.logicalLanes surf
  let oldConfig := s.configBytes surf 0
  let s1 := cs.foldl (fun t c => t.applyCommit surf c) s
  let changes (rs : List Reg) : Bool := rs.any (fun r => s.reg r surf != s1.reg r surf)
  let s2 := ((s1.refreshTiming surf).setCost surf found.1 found.2).setReg .iS_GENCHG surf
    (b2n (s1.genOf surf != s.genOf surf))
  let s3 := if dark then
      ((((s2.cond (changes [.WL_SSC]) (fun t => t.relockWelt surf)).setReg .iS_DARK surf 1).setReg
        .CMT_DARK_LEFT surf 3).setReg .iS_LIGHT surf 0).reconfigure
        surf oldLanes (changes [.WL_SSC, .WL_EQ_MODE, .WL_PRESET]) frame
    else if s2.configBytes surf 0 = oldConfig then s2
    else (s2.announce s2 surf frame).cond (s.capsOk surf && !s2.capsOk surf) (fun t => t.capsFault surf)
  let s4 := s3.checkPlayback surf
  cs.foldl (fun t c => t.raise Code.commitApplied (some (t.reg .CMT_QUEUE surf))
    [(8, surf), (32, c.id), (64, frame)]) s4

/-- Step 3 of R21: accepted commits apply in order of their IDs; one whose buffers are still SEALING,
or any while the firmware restarts, waits again; those for a later boundary come one nearer. -/
def State.stepCommits (s0 : State) (surf frame : Nat) : State :=
  let s := s0.setReg .iS_GENCHG surf 0
  let mine := s.accepted.filter (fun a => a.surf == surf && a.skip == 0)
  let go := mine.filter s.applies
  let back := mine.filter (fun a => !s.applies a)
  let later := (s.accepted.filter (fun a => a.surf != surf || a.skip != 0)).map
    (fun a => if a.surf = surf then { a with skip := a.skip - 1 } else a)
  let s1 : State := { s with accepted := later }
  let s2 := back.foldl (fun t a => (t.putBack a).cond (s.reg .iPHASE 0 == 1)
    (fun u => u.bump .CMT_DEFERRED surf)) s1
  match go.getLast? with
  | none => s2.refreshNext (s2.genOf surf)
  | some a => s2.applyCommits surf frame (sortById Commit Commit.id (go.map Accepted.commit)) (a.costs, a.resv)

/-- The points and weights of both calibration sets for the frame, and whether gain is applied (R54, R78,
R492). -/
def State.blendSets (s : State) (surf : Nat) : State :=
  forN 2 (s.setReg .iS_GAIN_ON surf (b2n (s.gainUsed surf))) (fun t kind =>
    let i := t.calSel kind surf
    let (lohi, w) := calBlend (t.regInt .CAL_T0 i) (t.regInt .CAL_T1 i) (t.regInt .CAL_T2 i)
      (t.regInt .TP_TEMP surf)
    (t.setReg .iS_LOHI (4 * surf + 2 * kind) lohi).setReg .iS_LOHI (4 * surf + 2 * kind + 1) w)

/-! ## Dark periods, enabling and output states (R201, R218 to R220, R493) -/

/-- SO_ENABLE takes effect at a boundary (R220): OFF after a drain, or a dark transition. -/
def State.stepEnable (s : State) (surf : Nat) : State :=
  if s.reg .iS_DISABLE surf = 1 then
    (((s.setReg .iS_DISABLE surf 0).setReg .SO_OUT_STATE surf 0).surfaceOff surf).raiseDisabled .SO_ENABLE
      surf 0
  else if s.reg .iS_ENABLE surf = 1 then
    ((((s.setReg .iS_ENABLE surf 0).setReg .iS_DARK surf 1).setReg .CMT_DARK_LEFT surf 4).setReg .iS_LIGHT
      surf 0).setReg .SO_OUT_STATE surf 4 |>.surfaceOn surf
  else s

/-- A dark period counts on, or ends where its deadline decided so (R201, R493). -/
def State.stepDark (s : State) (surf : Nat) : State :=
  if s.reg .iSTARTUP surf = 1 then
    if s.reg .iS_LIGHT surf = 1 ∨ s.reg .iSTARTUP_OVER surf = 1 then
      ((s.setReg .iSTARTUP surf 0).setReg .CMT_DARK_LEFT surf 0).setReg .iS_LIGHT surf 0
    else s.setReg .CMT_DARK_LEFT surf 0xFF
  else if s.reg .iS_DARK surf = 1 then
    if s.reg .iS_LIGHT surf = 1 ∨ s.reg .CMT_DARK_LEFT surf ≤ 1 then
      ((s.setReg .iS_DARK surf 0).setReg .CMT_DARK_LEFT surf 0).setReg .iS_LIGHT surf 0
    else s.setReg .CMT_DARK_LEFT surf (s.reg .CMT_DARK_LEFT surf - 1)
  else s

/-- Whether every logical lane of a surface is carried by an ACTIVE lane (R218, R230). -/
def State.lanesActive (s : State) (surf : Nat) : Bool :=
  (List.range (s.logicalLanes surf)).all (s.carried surf)

/-- Whether FORCED goes on at a boundary (R218): a cause stands, or the lanes are not all ACTIVE. -/
def State.staysForced (s : State) (surf : Nat) : Bool :=
  s.reg .SO_FORCED surf != 0 || (s.reg .SO_OUT_STATE surf == 5 && !s.lanesActive surf)

/-- The output state at a boundary: the first that applies (R218). -/
def State.outState (s : State) (surf : Nat) : Nat :=
  if s.reg .SO_OUT_STATE surf = 0 then 0
  else if s.staysForced surf then 5
  else if s.reg .iS_DARK surf = 1 ∨ s.reg .iSTARTUP surf = 1 then 4
  else if 3 ≤ s.reg .iS_STAGE surf then 3
  else if s.reg .SO_BLANK surf = 1 then 2
  else 1

/-- A cause forces a surface dark, at any instant (R218, R219): bit 0 seam loop policy, bit 1
Welt-domain lock loss. -/
def State.force (s : State) (surf cause : Nat) : State :=
  let s1 := s.setReg .SO_FORCED surf (setBit (s.reg .SO_FORCED surf) cause true)
  if s.reg .SO_OUT_STATE surf = 0 ∨ s.reg .SO_OUT_STATE surf = 5 then s1
  else (if s.reg .iS_SEEN surf ≠ 0 then
      s1.setFrame surf { s1.frame surf with midChange := true } else s1).setReg .SO_OUT_STATE surf 5

/-- A cause is withdrawn; the surface leaves FORCED at a boundary. -/
def State.unforce (s : State) (surf cause : Nat) : State :=
  s.setReg .SO_FORCED surf (setBit (s.reg .SO_FORCED surf) cause false)

/-- Scan-out is abandoned (R220): OFF at once; the frame under way is cut. -/
def State.abandonScan (s : State) (surf : Nat) : State :=
  let cut := s.reg .iS_SEEN surf != 0
  let s1 := if cut then s.setFrame surf { s.frame surf with midChange := true } else s
  (((s1.setReg .iS_DISABLE surf 0).setReg .SO_OUT_STATE surf 0).surfaceOff surf).raiseDisabled .SO_ENABLE
    surf (b2n cut)

/-- SO_ENABLE written with 0 (R220, R405). -/
def State.scanDisable (s : State) (surf : Nat) : State :=
  let s1 := s.putReg .SO_ENABLE surf 0
  if s.reg .iS_ENABLE surf = 1 then s1.setReg .iS_ENABLE surf 0
  else if s.reg .SO_OUT_STATE surf = 0 ∨ s.reg .iS_DISABLE surf = 1 then s1
  else if s.reg .SO_DRAIN surf = 1 then s1.abandonScan surf
  else s1.setReg .iS_DISABLE surf 1

/-- SO_ENABLE written with 1 (R220, R405). -/
def State.scanEnable (s : State) (surf : Nat) : State :=
  if s.reg .iS_DISABLE surf = 1 then s.refuse Code.funcDraining
  else (s.putReg .SO_ENABLE surf 1).cond (s.reg .SO_OUT_STATE surf == 0)
    (fun t => t.setReg .iS_ENABLE surf 1)

/-- SO_ENABLE_DISABLE. -/
def execSoEnableDisable (acc : Accessor) (surf : Surface) (s : State) : Out :=
  .next (writeParam s acc .SO_ENABLE surf.val 0 (fun t => t.scanDisable surf.val))

/-- SO_ENABLE_RESUME. -/
def execSoEnableResume (acc : Accessor) (surf : Surface) (s : State) : Out :=
  .next (writeParam s acc .SO_ENABLE surf.val 1 (fun t => t.scanEnable surf.val))

/-- LAST_RESYNC (R211): taken at the generator's next boundary. -/
def execLastResync (acc : Accessor) (g : Gen) (s : State) : Out :=
  .next (writeParam s acc .LAST_RESYNC g.val 1 (fun t => t.setReg .iG_RESYNC g.val 1))

/-- LAST_RATE_WRITE (R214). -/
def execLastRateWrite (acc : Accessor) (g : Gen) (rate : BitVec 8) (s : State) : Out :=
  .next (writeParam s acc .LAST_RATE g.val rate.toNat (fun t =>
    (t.stageWrite acc .LAST_RATE g.val rate.toNat).cond (t.ownMask .LAST_RATE g.val == 0)
      (fun u => u.refreshNext g.val)))

/-! ## Step 5: the new record, and the tap frames that begin (R37, R221, R226) -/

/-- The encoders that serve view taps, in increasing number (R162). -/
def State.tapEncoders (s : State) : List Nat :=
  (List.range 4).filter (fun e => bit (s.reg .HK_TAP_ENC 0) e && s.reg .GC_ENABLE e == 1
    && s.reg .GC_STATE e != 5)

/-- The encoder that serves tap `t` = 8 s + k (R162). -/
def State.encoderOf (s : State) (t : Nat) : Option Nat :=
  let es := s.tapEncoders
  if es.isEmpty then none else some (es.getD (t % es.length) 0)

/-- Blocks of a tap image (R224). -/
def tapTiles (w h : Nat) : Nat := ceilDiv w 32 * ceilDiv h 32

/-- The slot size of a tap ring (R224). -/
def tapSlotSize (w h : Nat) : Nat := roundUp (64 + 8 * tapTiles w h + 3848 * tapTiles w h) 4096

/-- TAP_STATE of tap `t` (R223, R227); with no encoder that serves taps its waiting rows are dropped. -/
def State.refreshTap (s : State) (t : Nat) : State :=
  let none_ := s.tapEncoders.isEmpty
  let s1 := s.setReg .TAP_STATE t (if s.reg .TAP_ENABLE t = 0 then 0 else if none_ then 2 else 1)
  let waiting := ((s.taps.filter (fun x => x.tap == t)).map (fun x => x.rows.length)).sum
  if none_ = false ∨ waiting = 0 then s1
  else { s1.bumpBy .TAP_DROPS t waiting with
    taps := s.taps.map (fun x => if x.tap = t ∧ x.rows ≠ [] then { x with rows := [], dropped := true } else x) }

/-- The taps show whether an encoder serves them (R223). -/
def State.refreshTaps (s : State) : State := forN 16 s (fun t k => t.refreshTap k)

/-- A tap takes the frame that begins, unless its ring is full (R221, R226). The test is R226's own, on
TAP_HEAD as it stands at the boundary. -/
def State.openTap (s : State) (surf k : Nat) : State :=
  let t := 8 * surf + k
  let f := s.frame surf
  if s.reg .TAP_ENABLE t = 0 ∨ f.frameNo % s.reg .TAP_EVERY t ≠ 0 ∨ s.reg .SO_OUT_STATE surf = 0 then s
  else if (s.reg .TAP_HEAD t + 1) % s.reg .TAP_SLOTS t = s.reg .TAP_TAIL t then s.bump .TAP_SKIPPED t
  else { s with taps := s.taps ++
    [{ tap := t, frameNo := f.frameNo, h := s.reg .TAP_H t, v := s.reg .TAP_V t,
       width := s.reg .SURF_WIDTH surf, height := s.reg .SURF_HEIGHT surf, base := s.reg .TAP_BASE t,
       refDist := s.reg .TAP_REF_DIST t, k0 := s.reg .TAP_K0 t, xform := s.reg .TAP_XFORM t,
       ended := false, record := none, bytes := 0, tiles := 0, dropped := false, filling := [],
       skipRow := false, rows := [], coded := [], hist := [] }] }

/-- CONCEALED entries in the state in force of a surface (R191, R199). -/
def State.concealedNow (s : State) (surf : Nat) : Nat :=
  ((s.namedBuffers surf).eraseDups.map (fun n =>
    match s.bankOf n 0 with
    | some k => s.reg .iBK_CONC (bankIx n k)
    | none => 0)).sum

/-- Step 5 of R21: the record opens with the values the steps have fixed. -/
def State.openRecord (s : State) (surf : Nat) : State :=
  let g := s.genOf surf
  let out := s.outState surf
  let s1 := s.setReg .SO_OUT_STATE surf out
  let slot := s.reg .CAL_GAIN_SEL surf
  let f : FrameRec := { FrameRec.empty with
    frameNo := s.reg .LAST_FRAME g
    boundary := s.reg .iG_B3 g / 3
    commit := s.reg .CMT_IN_FORCE surf
    temp := s.reg .TP_TEMP surf
    rayMap := s.reg .CAL_RAYMAP_SEL surf
    gain := if s.reg .CAL_GAIN_BYPASS surf = 1 ∨ (s.hasScene surf = false
        ∧ s.reg .CAL_STATE (calIx 1 surf slot) ≠ 2) then 0xFF else slot
    stage := s.reg .iS_STAGE surf
    mode := if out = 1 then s.reg .SURF_MODE surf else 3
    highRate := s.vCount surf == 6
    gen := g
    concealed := decide (0 < s.concealedNow surf)
    darkTrans := out != 0 && (s.reg .iS_DARK surf == 1 || s.reg .iSTARTUP surf == 1)
    holdover := s.discState == 3 || s.reg .CK_REF_STATE 0 == 1
    fenced := s.reg .HZ_ENGINES_FENCED 0
    digest := digestInit }
  let s2 := ((((s1.setFrame surf f).setReg .iS_SEEN surf (s.reg .iG_COUNT g)).setReg .iS_LINE surf
    0).setReg .iS_RAST surf 0 |>.setReg .iS_DISPATCHED surf 0).setReg .iS_RELEASED surf 0
  forN 8 s2 (fun t k => (t.openTap surf k).refreshTap (8 * surf + k))

/-! ## The boundary -/

/-- Whether a surface's frame boundary has come and its frame has been read to the end. -/
def State.boundaryDue (s : State) (surf : Nat) : Bool :=
  let g := s.genOf surf
  (decide (s.reg .iS_SEEN surf < s.reg .iG_COUNT g) || s.genDue g)
    && (s.reg .iS_SEEN surf == 0 || s.reg .iS_LINE surf == s.activeLines surf)

/-- The frame boundary of a surface: the generator's boundary, once, and the steps of R21. -/
def State.frameBoundary (s : State) (surf : Nat) : State :=
  let g := s.genOf surf
  let s1 := s.closeFrame surf
  let s2 := if s1.reg .iS_SEEN surf < s1.reg .iG_COUNT g then s1 else s1.genAdvance g
  let s3 := ((s2.stepEnable surf).samplePanel surf).applyStage surf
  let s4 := (s3.stepDark surf).takeLuts surf
  let s5 := s4.stepCommits surf (s4.reg .LAST_FRAME g)
  let s6 := if s5.reg .HZ_ARRAY_CLOCK 0 = surf then s5.arrayBoundary else s5
  ((s6.blendSets surf).openRecord surf).laceEvent (12 + surf)

/-- FRAME_BOUNDARY. -/
def execFrameBoundary (surf : Surface) (s : State) : Out :=
  if s.boundaryDue surf.val then .next ((s.send []).frameBoundary surf.val) else .next s

/-! ## Publication (R37, R38, R112) -/

/-- FLAGS of a frame record (R37). -/
def FrameRec.flags (f : FrameRec) : Nat :=
  let u := decide (f.underLines ≠ 0)
  let p := decide (f.poison ≠ 0)
  packBits [(1, b2n (Config.idGrade == 2)), (1, b2n u), (1, b2n p), (1, b2n f.laneFault),
    (1, b2n f.midChange), (1, b2n f.concealed), (1, b2n f.darkTrans), (1, b2n f.holdover),
    (1, b2n !(u || p || f.laneFault || f.midChange))]

/-- The 64 bytes of a frame record (R37). -/
def FrameRec.word (f : FrameRec) (surf : Nat) : Nat :=
  let body := packBits [(32, 0), (64, 0), (16, f.fenced), (16, f.clusters),
    (16, popCount 80 f.spared), (32, min 0xFFFFFFFF f.poison), (16, f.underBands),
    (32, f.underLines), (16, f.flags), (8, f.gen), (1, b2n f.highRate), (1, surf), (2, f.mode),
    (4, f.stage), (8, f.gain), (8, f.rayMap), (16, f.temp), (32, f.commit), (64, f.boundary),
    (64, f.frameNo), (64, digestFinal f.digest)]
  body + crc32c (leBytes 60 (body >>> 32))

/-- A frame's record is published (R38): FR_*, the history, the counters of R77 and R137, and UNDERRUN
once where the flag is set. -/
def State.publish (s : State) (surf : Nat) (f : FrameRec) : State :=
  let w := f.word surf
  let keep (h : List Nat) : List Nat := (if 1024 ≤ h.length then h.drop 1 else h) ++ [w]
  let s1 : State := { s with
    historyA := if surf = 0 then keep s.historyA else s.historyA
    historyB := if surf = 0 then s.historyB else keep s.historyB
    taps := s.taps.map (fun x => if x.tap / 8 = surf ∧ x.ended ∧ x.record = none
        ∧ x.frameNo = f.frameNo then { x with record := some w } else x) }
  let s2 := (((s1.setReg .FR_LAST surf w).setReg .FR_DIGEST surf (digestFinal f.digest)).setReg .FR_FRAME
    surf f.frameNo).setReg .FR_FLAGS surf f.flags
  let s3 := ((s2.bumpBy .UR_LINES_TOTAL surf f.underLines).setReg .SYN_DIR_CLAMPS surf f.clamps).setReg
    .SYN_CAL_POISON surf f.calPoison
  let s4 := s3.cond (bit f.flags 8) (fun t => t.bump .FR_GUARANTEED surf)
  s4.cond (bit f.flags 1) (fun t => t.raise Code.underrun none
    [(8, surf), (64, f.frameNo), (32, f.underLines)])

/-- FRAME_RECORD_PUBLISH: the oldest ended frame of the surface. -/
def execFrameRecordPublish (surf : Surface) (s : State) : Out :=
  match s.awaiting.find? (fun e => e.1 == surf.val) with
  | none => .next s
  | some e => .next (State.publish { s with awaiting := s.awaiting.erase e } surf.val e.2)

end Sys2Proof.Machine
end

