-- ==== Sys2Proof/Machine/Lanes.lean ====
section
/-! DEFINITION. What the Welt lanes send: ray-line slots, also those of blanking positions, training groups and
raw test patterns, and the check of a raw pattern on a return lane (08_welt_link.md, R236 to R246, R249, R259,
R265, R266). -/
namespace Sys2Proof.Machine

/-! ## Ray-line slots (R239, R240, R243) -/

/-- Whether a CONFIG sent is not yet in effect (R240). -/
def State.cfgPending (s : State) (surf : Nat) : Bool :=
  s.reg .iWL_CFGAT surf != 0 && decide (0 < sdiff32 (s.reg .iWL_CFGAT surf - 1) (s.frame surf).frameNo)

/-- The header of lane `p` for a ray line (R240); `flags` without SPARE and CFG_PEND. -/
def State.lineHeader (s : State) (surf p raster j flags : Nat) : Welt.Header :=
  ⟨surf, s.rateOf surf, flags + 16 * b2n ((s.designated surf).contains p)
    + 32 * b2n (s.cfgPending surf), j, raster, (s.frame surf).frameNo, (s.laneLogical surf p).getD 0xFF, p⟩

/-- The blocks of a slot (R243): the whole blocks of 4.0625 ns that one ray line lasts. -/
def State.slotBlocks (s : State) (surf : Nat) : Nat :=
  16 * s.genP3 (s.genOf surf) / (195 * s.rasterN surf * s.vCount surf)

/-- The MSG blocks of a slot after `used` others, and IDL blocks until the next header (R239). -/
def State.slotTail (s : State) (surf p used : Nat) : List Welt.Block :=
  let msgs := s.laneMsgs surf p
  msgs ++ List.replicate (s.slotBlocks surf - used - msgs.length) Welt.idl

/-- What lane `p` sends in the slot of ray line `j` of a raster position (R218, R239): its payload and trailer in
an active band, where it carries a logical lane and the surface is not OFF, otherwise a header with MSG or IDL
blocks only. `line` is an active ray line's link values and which logical lanes hold underrun fill. -/
def State.laneSlot (s : State) (surf p raster j : Nat) (line : Option (List Nat × (Nat → Bool))) :
    List Welt.Block :=
  let hr := 8 * b2n (s.vCount surf == 6)
  let out := s.reg .SO_OUT_STATE surf
  match line, s.laneLogical surf p with
  | some (words, under), some l =>
    if out = 0 then Welt.emptySlot (s.lineHeader surf p raster j hr) (s.slotTail surf p 1)
    else
      let fl := 1 + 2 * b2n (out != 1) + 4 * b2n (under l) + hr
      Welt.slot (s.lineHeader surf p raster j fl) ((words.drop (1152 * l)).take 1152) (s.slotTail surf p 272)
  | _, _ => Welt.emptySlot (s.lineHeader surf p raster j hr) (s.slotTail surf p 1)

/-- Every lane of a surface that is ACTIVE sends its slot of a ray line; the MSG blocks in them are sent. -/
def State.sendSlots (s : State) (surf raster j : Nat) (line : Option (List Nat × (Nat → Bool))) : State :=
  let ps := (List.range 84).filter (fun p => s.lane surf p == laneActive)
  (ps.foldl (fun t p => t.takeMsgs surf p) s).send (ps.map (fun p =>
    .slot surf p ((s.laneSlot surf p raster j line).map (fun b => (b.control, b.bits)))))

/-! ## What falls due at a TB cycle -/

/-- The raster line that a surface is to send or pass next; the lines of active bands are passed here, since
RAY_LINE_START sends them. -/
def State.nextBlank (s : State) (surf : Nat) : Nat :=
  let n := s.reg .iS_RAST surf
  let l := s.vCount surf
  if 24 * l ≤ n then max n (24 * l + s.activeLines surf) else n

/-- A ray line of a blanking position that has begun is sent (R239, R249). -/
def State.blankLine (s : State) (surf : Nat) : List OutMsg × State :=
  let n := s.nextBlank surf
  let l := s.vCount surf
  if n < s.rasterN surf * l ∧ s.rasterReached surf (n / l) (n % l) = true then
    let t := (s.sendSlots surf (n / l) (n % l) none).setReg .iS_RAST surf (n + 1)
    (t.sent, { t with sent := s.sent })
  else ([], s)

/-- A training group that begins is sent (R244); one that shows a coefficient request is sent by EQ_APPLY. -/
def State.groupLine (s : State) (surf p : Nat) : List OutMsg × State :=
  if s.isTraining surf p = true ∧ s.reg .iWL_TSAT (laneIx surf p) ≤ s.clock
      ∧ ((s.eqDue surf p).isNone || s.lanePhase surf p != 3) = true then
    ([.slot surf p ((s.groupBlocks surf p).map (fun b => (b.control, b.bits)))], s.groupSent surf p)
  else ([], s)

/-- The raw pattern of a lane in TEST goes on for `ns` ns, at 32 bits a nanosecond (R231, R265). -/
def State.patternLine (s : State) (surf p ns : Nat) : List OutMsg × State :=
  let i := laneIx surf p
  if s.lane surf p = laneTest ∧ s.reg .iWL_PRBSRUN i = 1 ∧ 0 < ns then
    let (bits, r) := Welt.prbsBits (s.reg .WL_PRBS_MODE i) (32 * ns) (s.reg .iWL_PRBSREG i)
    ([.pattern surf p (32 * ns) bits], s.setReg .iWL_PRBSREG i r)
  else ([], s)

/-- Bits that the checker of a return lane has checked at local time `at_`: at 10.3125 Gb/s, after the 64 bits
that it synchronises on (R235, R266). -/
def State.checkedBits (s : State) (i at_ : Nat) : Nat := (at_ - s.reg .iWR_PRBSAT i) * 165 / 16 - 64

/-- A return lane in TEST is checked from local time `old` on (R266): the bits count, and so do the errors among
them, which are what the pins show: a free value. -/
def State.checkPattern (s : State) (i old : Nat) : State :=
  let n := s.checkedBits i s.clock - s.checkedBits i old
  if s.reg .WR_STATE i = 3 ∧ s.reg .WR_PRBS_MODE i ≠ 0 ∧ 0 < n then
    let (d, t) := s.draw
    (t.setReg .WR_PRBS_ERR i (min (2 ^ 48 - 1) (t.reg .WR_PRBS_ERR i + d % (n + 1)))).bumpBy .WR_PRBS_BITS i n
  else s

/-- What the lanes of a surface send at a TB cycle since local time `old`. -/
def State.lanesTick (s : State) (surf old : Nat) : List OutMsg × State :=
  forN 84 (s.blankLine surf) (fun (ms, t) p =>
    let (a, t1) := t.groupLine surf p
    let (b, t2) := t1.patternLine surf p (t1.clock - old)
    (ms ++ a ++ b, t2))

/-- The Welt links at a TB cycle since local time `old`: what falls due is sent, and return lanes in TEST are
checked. Where nothing falls due, the latest output stands. -/
def State.linksTick (s : State) (old : Nat) : State :=
  let (a, s1) := s.lanesTick 0 old
  let (b, s2) := s1.lanesTick 1 old
  let s3 := forN 4 s2 (fun t i => t.checkPattern i old)
  if a ++ b = [] then s3 else s3.send (a ++ b)

end Sys2Proof.Machine
end

