-- ==== Sys2Proof/Machine/Tiles.lean ====
section
/-! DEFINITION. From dispatch to the panel (04_hazel_array.md, R108 to R112; 05_husk_codec.md, R159 to
R161; 07_scanout.md, R216 to R227): tiles, ray lines and view taps. -/
namespace Sys2Proof.Machine

/-! ## Dispatch (R108, R109) -/

/-- BAND_DISPATCH: at raster position 22 + b the tiles of active band b are queued; only a LIT surface
queues tiles (R126, R218). -/
def execBandDispatch (surf : Surface) (s : State) : Out :=
  let k := surf.val
  let b := s.reg .iS_DISPATCHED k
  if b < s.reg .SURF_HEIGHT k ∧ s.rasterReached k (22 + b) 0 = true then
    let due := s.rasterLocal k (24 + b)
    let tiles : List Tile := if s.reg .SO_OUT_STATE k = 1 then
        (List.range (s.reg .SURF_WIDTH k / 32)).map (fun t => ⟨k, b, t, due⟩) else []
    let s1 : State := { s with tileQueue := s.tileQueue ++ tiles }
    .next (s1.setReg .iS_DISPATCHED k (b + 1))
  else .next s

/-- Whether tile `a` is served before tile `b` (R109). -/
def Tile.before (a b : Tile) : Bool :=
  decide (a.due < b.due) || (a.due == b.due && (decide (a.surf < b.surf) || (a.surf == b.surf
    && (decide (a.band < b.band) || (a.band == b.band && decide (a.tile < b.tile))))))

/-- The tile of a list that is served first: the earliest due (R109). -/
def firstTile (ts : List Tile) : Option Tile :=
  ts.foldl (fun m t =>
    match m with
    | none => some t
    | some x => if t.before x then some t else m) none

/-- The tile served next: one queued again, which keeps its due time, ahead of all others (R109, R132, R133). -/
def State.nextTile (s : State) : Option Tile := (firstTile s.requeued).orElse (fun _ => firstTile s.tileQueue)

/-- The lowest-numbered ACTIVE cluster that holds fewer than 2 tiles (R109). -/
def State.freeCluster (s : State) : Option Nat :=
  s.activeClusters.find? (fun n => decide ((s.held.filter (fun e => e.1 == n)).length < 2))

/-- TILE_ASSIGN. -/
def execTileAssign (s : State) : Out :=
  match s.nextTile, s.freeCluster with
  | some t, some n =>
    let f := s.frame t.surf
    let s1 : State := { s with
      requeued := s.requeued.erase t
      tileQueue := s.tileQueue.erase t
      held := s.held ++ [(n, t)] }
    .next (s1.setFrame t.surf { f with clusters := setBit f.clusters n true })
  | _, _ => .next s

/-! ## Cluster decoders (R159 to R161) -/

/-- The formats a cluster decoder accepts for a buffer (R159). -/
def State.acceptOf (s : State) (surf n : Nat) : List Nat :=
  if s.reg .BUF_KIND n = 3 then [if s.reg .DR_V_COUNT surf = 12 then 2 else 3] else [0, 1]

/-- One up in element `k` of HK_CD_BY_CODE (R174). -/
def State.countCode (s : State) (k : Nat) : State :=
  let b := s.reg .HK_CD_BY_CODE 0
  s.setReg .HK_CD_BY_CODE 0 (blobSet b (8 * k) 8 (blobGet b (8 * k) 8 + 1))

/-- A cluster decoder rejects tile `i` of buffer `n` with a code (R161). -/
def State.rejectTile (s : State) (surf c n i code : Nat) : State :=
  let s1 := (((((s.bump .CD_REJECTED c).bump .HK_CD_REJECTED 0).countCode (code - Code.huskBadCode)).setReg
    .CD_LAST_CODE c code).setReg .CD_LAST_BUFFER c n).setReg .CD_LAST_TILE c i
  if s1.rejected.any (fun e => e.1 == surf) then s1
  else ({ s1 with rejected := s1.rejected ++ [(surf, code)] } : State).raise code none
    [(8, surf), (64, (s.frame surf).frameNo), (16, n), (32, i)]

/-- A cluster fetches ranges in turn on the PLANE port until one is answered as poisoned or freezes it: whether
it was frozen, whether it met poison. -/
def State.fetchRanges (s : State) (m : Master) : List (Nat × Nat) → (Bool × Bool) × State
  | [] => ((false, false), s)
  | (a, n) :: rs =>
    let (r, s1) := s.fetch m .plane a n
    if r.frozen then ((true, false), s1)
    else if r.poisoned.isEmpty then s1.fetchRanges m rs
    else ((false, true), s1)

/-- Where what a fill fetches for tile `t` lies (R53, R67, R102, R160). -/
def State.fillRanges (s : State) (t : Tile) : Fill → List (Nat × Nat)
  | .coded n i =>
    match s.bankOf n.val 0 with
    | some k => s.codedRanges n.val k (s.acceptOf t.surf n.val) i
    | none => []
  | .row n i r =>
    match s.bankOf n.val 0 with
    | some k =>
      let e := s.entry n.val k i
      (s.entryAddr n.val k i, 8) :: (if entryPresent e && !entryTransp e then
        [(s.tileAddr n.val k e + 160 * r.val, 160)] else [])
    | none => []
  | .coeffs => s.calRanges 0 t.surf (48 * (t.band * (s.reg .SURF_WIDTH t.surf / 32) + t.tile)) 48
  | .offsets k =>
    let w := s.reg .SURF_WIDTH t.surf
    s.calRanges 0 t.surf (w / 32 * s.reg .SURF_HEIGHT t.surf * 48 + 4 * (t.band * w + 32 * t.tile + k.val)) 4
  | .gains k => s.calRanges 1 t.surf (8 * (t.band * s.reg .SURF_WIDTH t.surf + 32 * t.tile + k.val)) 8

/-- Whether the synthesis of a tile, whose rays are `ls`, reads what a fill brings: a layer skipped by early
termination is not read (R90). -/
def State.fillNeeded (s : State) (t : Tile) (ls : List (List Ray)) : Fill → Bool
  | .coded n i => s.reg .BUF_STORE n.val == 0
    && ls.any (fun l => l.any (fun r => r.taps.any (fun p => p.buf == n.val && p.tile == i)))
  | .row n i k => s.reg .BUF_STORE n.val == 1
    && ls.any (fun l => l.any (fun r => r.taps.any (fun p => p.buf == n.val && p.tile == i && p.pos / 32 == k.val)))
  | .coeffs => s.rayMapUsed t.surf
  | .offsets _ => s.rayMapUsed t.surf
  | .gains _ => s.gainOn t.surf

/-- The decoder's result for tile `i` of buffer `n`, which it fetched without poison (R160, R161). -/
def State.decodeFill (s : State) (surf c n i : Nat) : State :=
  match s.bankOf n 0 with
  | none => s
  | some k =>
    if entryPresent (s.entry n k i) = false ∨ entryTransp (s.entry n k i) = true then s
    else match s.codedTile n k (s.acceptOf surf n) i with
      | none => s
      | some (.error code) => s.rejectTile surf c n i code
      | some (.ok (h, _)) =>
        let r := b2n (h.pred == 1)
        ((s.bumpBy .CD_TILES c (1 + r)).bumpBy .CD_REF_TILES c r).bumpBy .HK_CD_TILES 0 (1 + r)

/-- One cache fill of cluster `c` for tile `t` (R29, R160, R161): a coded tile is decoded once it is fetched, and
a poisoned fetch of it is counted. A reference decoded for a tile that is then rejected counts nothing: a DESIGN
CHOICE (log 88), since R176 counts tiles decoded and does not speak of it. -/
def State.cacheFill (s : State) (t : Tile) (c : Fin 16) (x : Fill) : State :=
  let (r, s1) := s.fetchRanges (coreMaster (Fin.ofNat 256 c.val)) (s.fillRanges t x)
  match x with
  | .coded n i => if r.1 then s1 else if r.2 then s1.countCode 4 else s1.decodeFill t.surf c.val n.val i
  | _ => s1

/-! ## Synthesis (R110, R219) -/

/-- The rays of a finished tile go into its ring slot and its done bit is set; what synthesis counted
goes into the record (R77, R104, R105, R110); `bad` hogels lacked calibration data. -/
def State.finishTile (s : State) (t : Tile) (ls : List (List Ray)) (bad : Nat) : State :=
  let f := s.frame t.surf
  let rays := ls.flatten
  ({ s with ring := s.ring ++ [⟨t.surf, t.band, t.tile, ls.map (fun l => l.map Ray.word)⟩] } :
    State).setFrame t.surf { f with
      poison := f.poison + (rays.map Ray.poisoned).sum
      clamps := f.clamps + (rays.filter Ray.clamped).length
      calPoison := f.calPoison + bad }

/-- The hogels of a tile that lack calibration data (R105). -/
def State.badHogels (s : State) (t : Tile) : Nat :=
  ((List.range 32).filter (fun k => (s.hogel t.surf t.band (32 * t.tile + k)).calPoison)).length

/-- Cluster `c` finishes its running tile `t` with the rays `ls`, after the fetches `fills`; a fetch that freezes
it leaves the tile unfinished (R31); on a surface that has become FORCED or OFF the tile is discarded. -/
def State.completeTile (s : State) (c : Fin 16) (t : Tile) (fills : List Fill) (ls : List (List Ray)) (bad : Nat) :
    State :=
  let s1 := fills.foldl (fun u x => u.cacheFill t c x) s
  if s1.isFrozen (coreMaster (Fin.ofNat 256 c.val)) then (s1.abandonHeld c.val).capacityLost
  else
    let s2 := ({ s1 with held := s1.held.erase (c.val, t) } : State).bump .CL_TILES c.val
    if s.reg .SO_OUT_STATE t.surf = 1 then s2.finishTile t ls bad else s2

/-- TILE_COMPLETE: the running tile of a cluster is finished, once the channels serve what it fetches (R296). -/
def execTileComplete (c : Fin 16) (fills : List Fill) (seen : Seen) (s : State) : Out :=
  match s.held.find? (fun e => e.1 == c.val) with
  | none => .next s
  | some (_, t) =>
    let rs := fills.flatMap (s.fillRanges t)
    if rs.all (fun r => s.rangeServed r.1 r.2) = false then .next s
    else
      let f := s.frame t.surf
      let o := s.withFindings seen (rs.flatMap (fun r => wordsOf r.1 r.2))
      let ls := o.tileLines t.surf f.stage f.frameNo t.band t.tile
      .next (((s.see seen).completeTile c t (fills.filter (s.fillNeeded t ls)) ls (o.badHogels t)).see s.seen)

/-! ## Ray lines (R36, R216 to R218, R239 to R242, R256) -/

/-- The lowest tile of a band whose done bit is clear (R216). -/
def State.firstUndone (s : State) (surf b : Nat) : Nat :=
  let nt := s.reg .SURF_WIDTH surf / 32
  ((List.range nt).find? (fun t =>
    !(s.ring.any (fun r => r.surf == surf && r.band == b && r.tile == t)))).getD nt

/-- Line `j` of a finished tile. -/
def State.ringLine (s : State) (surf b t j : Nat) : List Nat :=
  match s.ring.find? (fun r => r.surf == surf && r.band == b && r.tile == t) with
  | some r => r.lines.getD j []
  | none => []

/-- The link values of ray line `j` of band `b`, of which tiles below `tu` are read and the rest is
SO_FILL (R216); so is a ray whose ring word reads with an uncorrectable error, listed in `bad` (R297). -/
def State.lineWords (s : State) (surf b j tu : Nat) (bad : List Nat) : List Nat :=
  let fill := s.reg .SO_FILL surf
  bad.foldl (fun ws i => ws.set i fill) ((List.range tu).flatMap (fun t => s.ringLine surf b t j)
    ++ List.replicate ((s.reg .SURF_WIDTH surf - 32 * tu) * 96) fill)

/-- The rays of a line whose ring word is read with an uncorrectable error: only words of tiles below
`tu` are read (R216, R297). -/
def badRays (tu : Nat) (bad : List (Fin 92160)) : List Nat :=
  (bad.map Fin.val).filter (fun i => decide (i < 3072 * tu))

/-- Whether block row `j` of a tap frame begins while the row two before it still waits (R223): the rows of
a tap follow one another, those of its earlier frames included. -/
def State.tapHeld (s : State) (x : TapFrame) (j : Nat) : Bool :=
  s.taps.any (fun y => y.tap == x.tap && y.rows.any (fun r =>
    decide (r.1 + 2 ≤ (if y.frameNo = x.frameNo then j else ceilDiv y.height 32 + j))))

/-- Pixels of a ray line for a view tap (R221, R222): rows gather, and a full row waits for an encoder.
A row that is dropped gathers nothing; `drop` says that it is dropped at this line. -/
def TapFrame.addLine (x : TapFrame) (b : Nat) (drop : Bool) (words : List Nat) : TapFrame :=
  let j := b / 32
  let pix := (List.range x.width).map (fun c => words.getD (96 * c + x.h) 0)
  let all := if b % 32 = 0 then pix else x.filling ++ pix
  if drop || (x.skipRow && b % 32 != 0) then { x with filling := [], skipRow := true, dropped := true }
  else if b + 1 = min (32 * j + 32) x.height then
    { x with filling := [], skipRow := false, rows := x.rows ++ [(j, all)] }
  else { x with filling := all, skipRow := false }

/-- Whether the block row that ray line `b` lies in is dropped at that line (R223): as it begins to fill, or
while no encoder serves taps. -/
def State.tapDrops (s : State) (x : TapFrame) (b : Nat) : Bool :=
  if b % 32 = 0 then s.tapHeld x (b / 32) || (s.encoderOf x.tap).isNone
  else !x.skipRow && (s.encoderOf x.tap).isNone

/-- The view taps of a surface see a ray line. -/
def State.tapLine (s : State) (surf b j : Nat) (words : List Nat) : State :=
  let mine (x : TapFrame) : Bool := x.tap / 8 == surf && !x.ended && x.v == j
  let s1 := (s.taps.filter (fun x => mine x && s.tapDrops x b)).foldl (fun t x => t.bump .TAP_DROPS x.tap) s
  { s1 with taps := s.taps.map (fun x => if mine x then x.addLine b (s.tapDrops x b) words else x) }

/-- What a ray line adds to the frame's record (R36, R112, R217, R256). -/
def State.noteLine (s : State) (surf b tu : Nat) (bad words : List Nat) : State :=
  let f := s.frame surf
  let out := s.reg .SO_OUT_STATE surf
  let under := out == 1 && (decide (32 * tu < s.reg .SURF_WIDTH surf) || !bad.isEmpty)
  let ls := List.range (s.logicalLanes surf)
  let uncarried := ls.any (fun l => !s.carried surf l)
  let spared := ls.foldl (fun m l =>
    if s.carried surf l && s.mapLane surf l != some l then setBit m l true else m) f.spared
  s.setFrame surf { f with
    digest := digestWords f.digest words
    underLines := f.underLines + b2n under
    underBands := f.underBands + b2n (under && f.lastUnder != b)
    lastUnder := if under then b else f.lastUnder
    spared := spared
    laneFault := f.laneFault || uncarried || out == 0 }

/-- RAY_LINE_START: ray line j of active band b is decided, read and sent. -/
def execRayLineStart (surf : Surface) (bad : List (Fin 92160)) (s : State) : Out :=
  let k := surf.val
  let n := s.reg .iS_LINE k
  let b := n / s.vCount k
  let j := n % s.vCount k
  if n < s.activeLines k ∧ s.rasterReached k (24 + b) j = true then
    let lit := s.reg .SO_OUT_STATE k == 1
    let tu := if lit then s.firstUndone k b else 0
    let be := badRays tu bad
    let words := s.lineWords k b j tu be
    let s1 := ((s.noteLine k b tu be words).tapLine k b j words).setReg .iS_LINE k (n + 1)
    let under (l : Nat) : Bool := lit && (decide (32 * tu < 12 * l + 12) || be.any (fun i => i / 1152 == l))
    let s2 := s1.sendSlots k (24 + b) j (some (words, under))
    .next (if (16 * n) % s.activeLines k < 16 ∧ (s2.messageLane k).isSome = true then s2.sendConfig k else s2)
  else .next s

/-! ## View taps (R222 to R227) -/

/-- The samples of block `x` of a block row of a tap image; rows beyond the image are 0 (R222). -/
def tapBlock (w : Nat) (pixels : List Nat) (x : Nat) : List Husk.Sample :=
  (List.range 1024).map (fun p =>
    let v := pixels.getD (p / 32 * w + 32 * x + p % 32) 0
    [(bits v 29 20 : Int), (bits v 19 10 : Int), (bits v 9 0 : Int)])

/-- Where the slot of a tap's oldest frame under way starts (R224, R226): slot TAP_HEAD. -/
def State.tapSlotAt (s : State) (x : TapFrame) : Nat :=
  x.base + s.reg .TAP_HEAD x.tap * tapSlotSize x.width x.height

/-- An encoder codes one block of a tap frame and stores it with its index entry (R222, R224); tiles are
numbered in the order in which they are coded (R148, R157). -/
def State.codeTapBlock (s : State) (e : Nat) (x : TapFrame) (j i : Nat) (pixels : List Nat) :
    Bool × State × TapFrame :=
  let ix := j * ceilDiv x.width 32 + i
  let k := x.tiles
  let xs := tapBlock x.width pixels i
  let ref := if x.refDist = 0 ∨ k < x.refDist then none
    else (x.hist.find? (fun r => r.1 == k - x.refDist)).map Prod.snd
  let tile := Husk.encode 1 x.xform x.k0 x.refDist ref xs
  let off := 64 + 8 * tapTiles x.width x.height + x.bytes
  let a := s.tapSlotAt x
  let m := codecMaster e
  let (f1, s1) := s.store m .writeback (a + off) tile
  let entry := packBits [(32, off / 8), (10, tile.length / 8), (3, 0), (1, 0), (1, 0), (1, 1)]
  let (f2, s2) := s1.store m .writeback (a + 64 + 8 * ix) (leBytes 8 entry)
  let hist := if (Husk.Header.ofWord (leAt tile 0 8)).pred = 1 then x.hist
    else (x.hist ++ [(k, xs)]).filter (fun r => decide (k < r.1 + 64))
  (f1 || f2, s2, { x with bytes := x.bytes + tile.length, tiles := k + 1, hist := hist })

/-- The oldest tap frame of a tap that is under way: later ones wait for its header, which moves TAP_HEAD
to their slot (R226). -/
def State.tapFrame (s : State) (t : Nat) : Option TapFrame := s.taps.find? (fun x => x.tap == t)

/-- The encoder that serves a tap and holds its standing grant (R162, R171). -/
def State.tapServer (s : State) (t : Nat) : Option Nat :=
  (s.encoderOf t).filter (fun e => s.granted (.huskStanding e))

/-- Encoder `e` codes the blocks of block row `j` of a tap frame in turn, until it freezes (R222, R226). -/
def State.codeTapRow (s : State) (e : Nat) (x : TapFrame) (j : Nat) (pixels : List Nat) :
    Bool × State × TapFrame :=
  forN (ceilDiv x.width 32) (false, s, x) (fun (f, u, z) i =>
    if f then (f, u, z) else u.codeTapBlock e z j i pixels)

/-- TAP_ROW_CODED: the oldest waiting block row of a tap is coded, left to right, once the store serves. A
row whose encoder freezes within it waits for the encoder that the use passes to (R173), which codes it
from its first block. -/
def execTapRowCoded (surf : Surface) (k : Fin 8) (seen : Seen) (s : State) : Out :=
  let t := 8 * surf.val + k.val
  match s.tapFrame t, s.tapServer t with
  | some x, some e =>
    if x.rows = [] ∨ s.storeServes = false then .next s
    else
      let (j, pixels) := x.rows.headD (0, [])
      let (frozen, s1, y) := (s.see seen).codeTapRow e x j pixels
      let z := { y with rows := x.rows.drop 1, coded := x.coded ++ [j] }
      .next ((if frozen then s1.refreshTaps
        else { s1 with taps := s1.taps.map (fun w => if w = x then z else w) } : State).see s.seen)
  | _, _ => .next s

/-- The 64 bytes of a tap frame header (R225), from the frame's record `w`. -/
def TapFrame.header (x : TapFrame) (w : Nat) : Nat :=
  let body := packBits [(32, 0), (203, 0), (1, b2n x.dropped), (1, x.tap / 8), (3, x.tap % 8), (8, x.v),
    (8, x.h), (16, x.height), (16, x.width), (16, tapTiles x.width x.height), (16, bits w 239 224),
    (32, x.bytes), (32, bits w 319 288), (64, bits w 511 448), (64, x.frameNo)]
  body + crc32c (leBytes 60 (body >>> 32))

/-- The index entries of the rows of a tap frame that were not coded are written not PRESENT, then its
header (R223 to R225); whether the encoder froze within it. -/
def State.writeTapHeader (s : State) (e : Nat) (x : TapFrame) (w : Nat) : Bool × State :=
  let m := codecMaster e
  let a := s.tapSlotAt x
  let row := 8 * ceilDiv x.width 32
  let (frozen, s1) := forN (ceilDiv x.height 32) (false, s) (fun (f, u) j =>
    if f || x.coded.contains j then (f, u)
    else u.store m .writeback (a + 64 + row * j) (List.replicate row 0))
  if frozen then (true, s1) else s1.store m .writeback a (leBytes 64 (x.header w))

/-- TAP_HEAD advances past a tap frame whose header is written, and TAP_READY follows (R226). -/
def State.tapReady (s : State) (x : TapFrame) : State :=
  let t := x.tap
  let slot := s.reg .TAP_HEAD t
  ((s.setReg .TAP_HEAD t ((slot + 1) % s.reg .TAP_SLOTS t)).bump .TAP_FRAMES t).raise Code.tapReady
    (some (s.reg .TAP_QUEUE t)) [(8, t / 8), (8, t % 8), (16, slot), (64, x.frameNo)]

/-- TAP_FRAME_HEADER_WRITE: once the record is published and every row is coded or dropped, and the store
serves. A tap frame that no encoder serves is not written; one whose encoder freezes waits for the encoder
that the use passes to. -/
def execTapFrameHeaderWrite (surf : Surface) (k : Fin 8) (seen : Seen) (s : State) : Out :=
  let t := 8 * surf.val + k.val
  match s.tapFrame t with
  | none => .next s
  | some x =>
    match x.record, s.encoderOf t with
    | none, _ => .next s
    | some _, none => .next { s with taps := s.taps.erase x }
    | some w, some e =>
      if x.rows ≠ [] ∨ s.storeServes = false ∨ s.granted (.huskStanding e) = false then .next s
      else
        let (frozen, s1) := (s.see seen).writeTapHeader e x w
        .next ((if frozen then s1.refreshTaps
          else ({ s1 with taps := s1.taps.erase x } : State).tapReady x).see s.seen)

/-- TAP_TAIL_WRITE (R226, R227). -/
def execTapTailWrite (acc : Accessor) (surf : Surface) (k : Fin 8) (tail : BitVec 16) (s : State) : Out :=
  let t := 8 * surf.val + k.val
  .next (writeParam s acc .TAP_TAIL t tail.toNat (fun u => u.setReg .TAP_TAIL t tail.toNat))

/-- The register a tap parameter is. -/
def tapReg : TapParam → Reg
  | .base => .TAP_BASE | .slots => .TAP_SLOTS | .v => .TAP_V

/-- TAP_PARAM_WRITE (R227). -/
def execTapParamWrite (acc : Accessor) (surf : Surface) (k : Fin 8) (p : TapParam) (v : Nat)
    (s : State) : Out :=
  let i := 8 * surf.val + k.val
  .next (writeParam s acc (tapReg p) i v (fun t =>
    if p = .v then
      if t.vCountThen surf.val (t.stagingGroup (ownerOf acc)) ≤ v then t.refuse Code.odRange
      else t.stageWrite acc .TAP_V i v
    else if t.reg .TAP_ENABLE i = 1 then t.refuse Code.tapBusy
    else t.setReg (tapReg p) i v))

end Sys2Proof.Machine
end

