-- ==== Sys2Proof/Machine/HuskJobs.lean ====
section
/-! DEFINITION. The general codecs (05_husk_codec.md, R162 to R175): job rings, jobs, chained buffers,
completion records, enabling, assignment and standing grants. Codec `n` is encoder n for n below 4 and
decoder n − 4 from 4 on. -/
namespace Sys2Proof.Machine

/-! ## Descriptors (R164 to R167) -/

/-- The host's half of a job descriptor, with the fields of R164. -/
structure Job where
  inAddr : Nat
  outDesc : Nat
  count : Nat
  limit : Nat
  tag : Nat
  refDist : Nat
  k0 : Nat
  xform : Nat
  pack32 : Bool
  format : Nat
  decode : Bool
  rsvd : Nat
  deriving DecidableEq, Repr

/-- The 64 bytes of a job descriptor (R164). -/
def Job.ofWord (w : Nat) : Job :=
  ⟨bits w 511 448, bits w 447 384, bits w 383 352, bits w 351 320, bits w 319 304, bits w 303 296,
    bits w 295 292, bits w 291 291, bit w 290, bits w 289 288, bit w 287, bits w 286 256⟩

/-- Whether a codec ends a job with HUSK_BAD_DESC before it asks for a grant (R165); an encoder takes
encode jobs and a decoder decode jobs. -/
def Job.bad (j : Job) (decoder : Bool) : Bool :=
  (j.decode != decoder) || j.inAddr % (if j.decode then 32 else 8) != 0 || j.outDesc % 32 != 0
    || j.outDesc == 0 || j.count == 0 || decide (16777216 < j.count) || j.rsvd != 0
    || (if j.decode then j.refDist != 0 || j.k0 != 0 || j.xform != 0
        else decide (64 < j.refDist) || decide (11 < j.k0))
    || (j.format == 0 && j.pack32) || (decide (2 ≤ j.format) && !j.pack32)

/-- Bytes of a sample in a source or output unit (R166). -/
def Job.sampleBytes (j : Job) : Nat := if j.pack32 then 4 else 5

/-- Samples of a tile of a FORMAT (R141). -/
def Job.samples (j : Job) : Nat := (Husk.dims j.format).1 * (Husk.dims j.format).2.1

/-- Bytes of a source or output unit (R166). -/
def Job.unit (j : Job) : Nat := j.sampleBytes * j.samples

/-- The largest output unit of a job (R167). -/
def Job.maxOut (j : Job) : Nat := if j.decode then j.unit else 8 * Husk.maxLen j.format

/-- The samples of a source unit (R166). -/
def Job.unpack (j : Job) (bs : List Byte) : List Husk.Sample :=
  (List.range j.samples).map (fun k =>
    let w := leAt bs (j.sampleBytes * k) j.sampleBytes
    let rgb : List Int := [(bits w 9 0 : Int), (bits w 19 10 : Int), (bits w 29 20 : Int)]
    if j.format = 0 then rgb ++ [(bits w 39 30 : Int)] else rgb)

/-- The bytes of an output unit of a decode job (R166). -/
def Job.pack (j : Job) (xs : List Husk.Sample) : List Byte :=
  xs.flatMap (fun x =>
    let c (k : Nat) : Nat := (x.getD k 0).toNat
    let rgb := [(10, c 0), (10, c 1), (10, c 2)]
    if j.pack32 then leBytes 4 (packBits rgb)
    else leBytes 5 (packBits (rgb ++ [(10, if j.format = 0 then c 3 else 1023)])))

/-- A chained buffer in use: its descriptor's address, its own address and size, the bytes used, the
next descriptor and the offset reached (R167). -/
structure JobBuf where
  desc : Nat
  addr : Nat
  size : Nat
  used : Nat
  next : Nat
  off : Nat
  deriving DecidableEq, Repr

/-! ## Running a job (R168 to R171) -/

/-- How a job stops before its last tile: a code, a freeze of the codec, or input that never ends. -/
inductive JobStop where
  | failed (code : Nat)
  | frozen
  | endless
  deriving DecidableEq, Repr

/-- A job under way: the state, the tiles completed, the bytes written, the kinds of tiles, the
buffers in use, the tiles that may serve as references, and how it stopped. -/
structure JobRun where
  s : State
  done : Nat
  outBytes : Nat
  ni : Nat
  nr : Nat
  nw : Nat
  inp : Option JobBuf
  out : Option JobBuf
  hist : List (Nat × List Husk.Sample)
  stop : Option JobStop

/-- A job before its first tile. -/
def JobRun.start (s : State) : JobRun := ⟨s, 0, 0, 0, 0, 0, none, none, [], none⟩

/-- The codec reads; a poisoned code word fails the job (R170), a freeze interrupts it (R173). -/
def JobRun.read (r : JobRun) (n a len : Nat) : JobRun × List Byte :=
  let (x, s1) := r.s.fetch (codecMaster n) .codec a len
  ({ r with s := s1, stop := if x.frozen then some .frozen
      else if x.poisoned.isEmpty then r.stop else some (.failed Code.poison) }, x.data)

/-- The codec writes. -/
def JobRun.write (r : JobRun) (n a : Nat) (data : List Byte) : JobRun :=
  let (f, s1) := r.s.store (codecMaster n) .codec a data
  { r with s := s1, stop := if f then some .frozen else r.stop }

/-- A buffer descriptor is reached and checked (R165, R167). -/
def JobRun.openBuf (r : JobRun) (n a : Nat) (input : Bool) (least : Nat) : JobRun × Option JobBuf :=
  let (r1, bs) := r.read n a 32
  let w := leNat bs
  let b : JobBuf := ⟨a, bits w 255 192, bits w 127 96, if input then bits w 95 64 else 0,
    bits w 191 128, 0⟩
  if r1.stop.isSome then (r1, none)
  else if a % 32 ≠ 0 ∨ b.addr % 8 ≠ 0 ∨ b.size % 8 ≠ 0 ∨ bits w 63 0 ≠ 0
      ∨ (input = true ∧ (b.used % 8 ≠ 0 ∨ b.size < b.used)) ∨ (input = false ∧ b.size < least) then
    ({ r1 with stop := some (.failed Code.huskBadDesc) }, none)
  else (r1, some b)

/-- Flaed writes USED of an output buffer (R168). -/
def JobRun.putUsed (r : JobRun) (n : Nat) (b : JobBuf) : JobRun := r.write n (b.desc + 8) (leBytes 4 b.off)

/-- The buffer an output unit of `len` bytes goes to: buffer `b` where it fits, the next one where it does not
(R155, R168). -/
def JobRun.roomFor (r : JobRun) (n : Nat) (j : Job) (b : JobBuf) (len : Nat) : JobRun × Option JobBuf :=
  if b.off + len ≤ b.size then (r, some b)
  else
    let u := r.putUsed n b
    if u.stop.isSome then (u, none)
    else if b.next = 0 then ({ u with stop := some (.failed Code.huskNoChain), out := some b }, none)
    else u.openBuf n b.next false j.maxOut

/-- An output unit is written at the offset reached in buffer `c`. -/
def JobRun.putUnit (r : JobRun) (n : Nat) (unit : List Byte) (c : JobBuf) : JobRun :=
  let r3 := r.write n (c.addr + c.off) unit
  if r3.stop.isSome then { r3 with out := some c }
  else { r3 with
    out := some { c with off := c.off + roundUp unit.length 8 }
    outBytes := r3.outBytes + unit.length }

/-- The output buffer in use, or the first one: the first is reached with the first output unit, a DESIGN
CHOICE, since R168 does not say when; a job that fails before has no buffer in use and writes no USED. -/
def JobRun.outBuf (r : JobRun) (n : Nat) (j : Job) : JobRun × Option JobBuf :=
  match r.out with
  | some b => (r, some b)
  | none => r.openBuf n j.outDesc false j.maxOut

/-- An output unit is written where it fits, in the next buffer where it does not (R155, R168). -/
def JobRun.emit (r : JobRun) (n : Nat) (j : Job) (unit : List Byte) : JobRun :=
  if j.limit ≠ 0 ∧ j.limit < r.outBytes + unit.length then
    { r with stop := some (.failed Code.huskOutLimit) }
  else
    match r.outBuf n j with
    | (r1, none) => r1
    | (r1, some b) =>
      match r1.roomFor n j b unit.length with
      | (r2, none) => r2
      | (r2, some c) => r2.putUnit n unit c

/-- A tile is complete: it is counted by its PRED, and kept as a reference unless it is REF (R149). -/
def JobRun.count (r : JobRun) (pred : Nat) (xs : List Husk.Sample) : JobRun :=
  { r with
    done := r.done + 1
    ni := r.ni + b2n (pred == 0)
    nr := r.nr + b2n (pred == 1)
    nw := r.nw + b2n (pred == 2)
    hist := (if pred = 1 then r.hist else r.hist ++ [(r.done, xs)]).filter
      (fun e => decide (r.done < e.1 + 64)) }

/-- The samples of the tile at distance `d`, where it may serve as a reference (R148, R149). -/
def JobRun.ref (r : JobRun) (d : Nat) : Option (List Husk.Sample) :=
  if d = 0 ∨ r.done < d then none else (r.hist.find? (fun e => e.1 == r.done - d)).map Prod.snd

/-- One tile of an encode job (R157, R166). -/
def JobRun.encodeTile (r : JobRun) (n : Nat) (j : Job) : JobRun :=
  let (r1, bs) := r.read n (j.inAddr + r.done * j.unit) j.unit
  if r1.stop.isSome then r1
  else
    let xs := j.unpack bs
    let tile := Husk.encode j.format j.xform j.k0 j.refDist (r.ref j.refDist) xs
    let r2 := r1.emit n j tile
    if r2.stop.isSome then r2 else r2.count (Husk.Header.ofWord (leAt tile 0 8)).pred xs

/-- The input buffer at whose offset the next tile starts; buffers consumed to USED are left behind
(R169). A chain longer than the store has descriptors for comes back on itself and never ends. -/
def JobRun.seek (n : Nat) : Nat → JobRun → JobBuf → JobRun × Option JobBuf
  | 0, r, _ => ({ r with stop := some .endless }, none)
  | k + 1, r, b =>
    if b.off ≠ b.used then (r, some b)
    else if b.next = 0 then ({ r with stop := some (.failed Code.huskNoChain) }, none)
    else
      match r.openBuf n b.next true 0 with
      | (r1, none) => (r1, none)
      | (r1, some c) => JobRun.seek n k r1 c

/-- The tile of a decode job that starts at the offset reached in buffer `b`; `r` is the run before the
chain was followed. -/
def JobRun.decodeAt (r q : JobRun) (n : Nat) (j : Job) (b : JobBuf) : JobRun :=
  let room := b.used - b.off
  let (r3, hb) := q.read n (b.addr + b.off) (min 8 room)
  if r3.stop.isSome then r3
  else if room < 8 then { r3 with stop := some (.failed Code.huskLenOver) }
  else
    let h := Husk.Header.ofWord (leNat hb)
    match Husk.headerFault h [j.format] with
    | some code => { r3 with stop := some (.failed code) }
    | none =>
      if room < 8 * h.len then { r3 with stop := some (.failed Code.huskLenOver) }
      else
        let (r4, bs) := r3.read n (b.addr + b.off) (8 * h.len)
        if r4.stop.isSome then r4
        else
          match Husk.decode bs [j.format] (fun d _ => r.ref d) with
          | .error code => { r4 with stop := some (.failed code) }
          | .ok (_, xs) =>
            let r5 := r4.emit n j (j.pack xs)
            if r5.stop.isSome then r5
            else { r5.count h.pred xs with inp := some { b with off := b.off + 8 * h.len } }

/-- One tile of a decode job (R155, R169). -/
def JobRun.decodeTile (r : JobRun) (n : Nat) (j : Job) : JobRun :=
  let (r1, b1) := match r.inp with
    | some b => (r, some b)
    | none => r.openBuf n j.inAddr true 0
  match b1 with
  | none => r1
  | some b0 =>
    match JobRun.seek n (storeSize / 32 + 1) r1 b0 with
    | (r2, none) => r2
    | (r2, some b) => r.decodeAt r2 n j b

/-- The next `k` tiles of a job. -/
def JobRun.tiles (n : Nat) (j : Job) : Nat → JobRun → JobRun
  | 0, r => r
  | k + 1, r =>
    if r.stop.isSome then r
    else JobRun.tiles n j k (if j.decode then r.decodeTile n j else r.encodeTile n j)

/-! ## Records (R164, R170) -/

/-- Address of the job descriptor at GC_HEAD (R163). -/
def State.jobAddr (s : State) (n : Nat) : Nat := s.reg .GC_RING_BASE n + 64 * s.reg .GC_HEAD n

/-- USED of the output buffer in use is written as a job ends in state `s` (R168). -/
def JobRun.ended (r : JobRun) (n : Nat) (s : State) : JobRun :=
  match r.out with
  | some b => ({ r with s := s } : JobRun).putUsed n b
  | none => { r with s := s }

/-- The counts a frozen job had reached, and its output buffer in use, are kept for its record (R168, R173);
the taps of a frozen encoder wait (R222). -/
def State.keepJob (s : State) (n : Nat) (r : JobRun) : State :=
  let desc := (r.out.map JobBuf.desc).getD 0
  let off := (r.out.map JobBuf.off).getD 0
  let t := (((((((s.setReg .iGC_BUF n desc).setReg .iGC_OFF n off).setReg .iGC_FROZEN_JOB n 1).setReg .iGC_DONE n
    r.done).setReg .iGC_OUT n r.outBytes).setReg .iGC_NI n r.ni).setReg .iGC_NR n r.nr).setReg .iGC_NW n r.nw
  t.refreshTaps

/-- The running job, as its descriptor spells it. -/
def State.gcJob (s : State) (n : Nat) : Job := Job.ofWord (s.reg .iGC_JOB n)

/-- The descriptor of a job that starts is held: `w` as read, with its JOB_TAG. -/
def State.gcTake (s : State) (n w tag : Nat) : State := (s.setReg .iGC_JOB n w).setReg .iGC_TAG n tag

/-- A job ends: USED and the completion record are written, GC_HEAD advances, the grant returns, and
HUSK_JOB_DONE is posted; `failed`: tile `r.done` ended it. A write of USED or of the record that fails its
check leaves the codec frozen with the job interrupted, and both come with its release (R173). -/
def State.jobRecord (s : State) (n : Nat) (r : JobRun) (result : Nat) (failed : Bool) : State :=
  let tag := s.reg .iGC_TAG n
  let r1 := r.ended n s
  if r1.stop = some .frozen then r1.s.keepJob n r else
  let (free, s0) := r1.s.draw
  let out := if r.outBytes < 2 ^ 32 then r.outBytes else free
  let s1 := if r.outBytes < 2 ^ 32 then r1.s else s0
  let rec_ := packBits [(1, 1), (47, 0), (32, r.nw), (32, r.nr), (32, r.ni), (32, out),
    (32, if failed then r.done else 0xFFFFFFFF), (32, r.done), (16, result)]
  let (f, s2) := s1.store (codecMaster n) .codec (s1.jobAddr n) (leBytes 32 rec_)
  if f then s2.keepJob n r else
  let s3 := (s2.setReg .GC_HEAD n ((s2.reg .GC_HEAD n + 1) % s2.reg .GC_RING_SIZE n)).release (.huskJob n)
  let s4 := (s3.setReg .GC_LAST_STATUS n result).bump (if result = 0 then .GC_JOBS_OK
    else if result = Code.jobAbandoned then .GC_ABANDONED else .GC_JOBS_FAILED) n
  s4.raise Code.huskJobDone (some (s4.reg .GC_QUEUE n)) [(8, n), (16, tag), (16, result), (32, r.done)]

/-- The state a codec takes when its job has ended: DISABLED after a drain (R172). -/
def State.jobOver (s : State) (n abandoned : Nat) : State :=
  if s.reg .GC_STATE n = 5 then s
  else if s.reg .GC_ENABLE n = 1 then s.setReg .GC_STATE n 0
  else (s.setReg .GC_STATE n 4).raiseDisabled .GC_ENABLE n abandoned

/-! ## The commands -/

/-- GC_TAIL_WRITE (R163). -/
def execGcTailWrite (acc : Accessor) (n : Fin 8) (tail : BitVec 16) (s : State) : Out :=
  .next (writeParam s acc .GC_TAIL n.val tail.toNat (fun t => t.setReg .GC_TAIL n.val tail.toNat))

/-- GC_JOB_START (R163, R165, R171): the job at GC_HEAD is validated; it asks for its grant, or ends
with HUSK_BAD_DESC, or with POISON where its descriptor is poisoned: no tile ended it then (R164). The
JOB_TAG of a descriptor whose read is poisoned, or freezes the codec, is not known. -/
def execGcJobStart (n : Fin 8) (seen : Seen) (s : State) : Out :=
  let k := n.val
  if s.reg .GC_STATE k ≠ 0 ∨ s.reg .GC_ENABLE k = 0 ∨ s.reg .GC_HEAD k = s.reg .GC_TAIL k
      ∨ s.reg .GC_RING_SIZE k = 0 ∨ s.storeServes = false then .next s
  else
    let (r, bs) := (JobRun.start (s.see seen)).read k (s.jobAddr k) 64
    let (tag, s1) := r.s.draw
    let t := s1.gcTake k 0 tag
    match r.stop with
    | some (.failed code) => .next (((t.jobRecord k (JobRun.start t) code false).jobOver k 0).see s.seen)
    | some _ => .next ((t.keepJob k (JobRun.start t)).see s.seen)
    | none =>
      let s2 := r.s.gcTake k (leNat bs) (Job.ofWord (leNat bs)).tag
      if (s2.gcJob k).bad (decide (4 ≤ k)) then
        .next (((s2.jobRecord k (JobRun.start s2) Code.huskBadDesc false).jobOver k 0).see s.seen)
      else .next (((s2.setReg .GC_STATE k 1).request (.huskJob k)).see s.seen)

/-- GC_JOB_RUN (R171): with its grant given the job is RUNNING. -/
def execGcJobRun (n : Fin 8) (s : State) : Out :=
  if s.reg .GC_STATE n.val = 1 ∧ s.granted (.huskJob n.val) then .next (s.setReg .GC_STATE n.val 2)
  else .next s

/-- GC_JOB_END (R168 to R170): every tile is processed in turn, and the record is written. A freeze
keeps the counts reached; a job whose input chain never ends does not end. -/
def execGcJobEnd (n : Fin 8) (seen : Seen) (s : State) : Out :=
  let k := n.val
  if (s.reg .GC_STATE k = 2 ∨ s.reg .GC_STATE k = 3) ∧ s.granted (.huskJob k) ∧ s.storeServes = true then
    let j := s.gcJob k
    let r := JobRun.tiles k j j.count (JobRun.start (s.see seen))
    match r.stop with
    | none => .next (((r.s.jobRecord k r 0 false).jobOver k 0).see s.seen)
    | some (.failed code) => .next (((r.s.jobRecord k r code true).jobOver k 0).see s.seen)
    | some .frozen => .next ((r.s.keepJob k r).see s.seen)
    | some .endless => .next s
  else .next s

/-- The work in flight of a codec is abandoned (R172); `done` tiles of the running job are complete. -/
def State.codecAbandon (s : State) (n done : Nat) : State :=
  let j := s.gcJob n
  let r := JobRun.tiles n j (if s.granted (.huskJob n) then min done j.count else 0) (JobRun.start s)
  if r.stop = some .frozen then r.s.keepJob n r
  else (r.s.jobRecord n r Code.jobAbandoned false).jobOver n 1

/-- GC_ENABLE written with 0 (R172); `done` tiles of the running job are complete under ABANDON. A job that
waits for its grant counts as the running one, a DESIGN CHOICE, since R172 names only running and queued
jobs. The codec serves ingest no longer (R162). -/
def State.codecDisable (s : State) (n done : Nat) : State :=
  let st := s.reg .GC_STATE n
  let s1 := (s.putReg .GC_ENABLE n 0).loseIngest
  if s.reg .GC_ENABLE n = 0 ∨ st = 5 then s1
  else if st = 0 then s1.jobOver n 0
  else if s.reg .GC_DRAIN n = 0 then s1.setReg .GC_STATE n 3
  else s1.codecAbandon n done

/-- GC_ENABLE_DISABLE. -/
def execGcEnableDisable (acc : Accessor) (n : Fin 8) (done : Nat) (s : State) : Out :=
  .next (writeParam s acc .GC_ENABLE n.val 0 (fun t => (t.codecDisable n.val done).refreshTaps))

/-- GC_ENABLE_RESUME (R172, R405). -/
def execGcEnableResume (acc : Accessor) (n : Fin 8) (s : State) : Out :=
  .next (writeParam s acc .GC_ENABLE n.val 1 (fun t =>
    if t.reg .GC_STATE n.val = 3 then t.refuse Code.funcDraining
    else ((t.putReg .GC_ENABLE n.val 1).cond (t.reg .GC_STATE n.val == 4)
      (fun u => u.setReg .GC_STATE n.val 0)).refreshTaps))

/-- GC_RING_WRITE (R172). -/
def execGcRingWrite (acc : Accessor) (n : Fin 8) (p : RingParam) (v : Nat) (s : State) : Out :=
  let r : Reg := match p with | .base => .GC_RING_BASE | .size => .GC_RING_SIZE
  .next (writeParam s acc r n.val v (fun t =>
    if t.reg .GC_STATE n.val = 4 ∧ t.reg .GC_HEAD n.val = t.reg .GC_TAIL n.val then t.setReg r n.val v
    else t.refuse Code.huskRingBusy))

/-- CODEC_ASSIGN_WRITE (R162): the assignment follows from the set of serving codecs. -/
def execCodecAssignWrite (acc : Accessor) (u : CodecUse) (v : BitVec 8) (s : State) : Out :=
  let r : Reg := match u with | .ingest => .HK_INGEST_DEC | .taps => .HK_TAP_ENC
  .next (writeParam s acc r 0 v.toNat (fun t => (t.putReg r 0 v.toNat).loseIngest.refreshTaps))

/-- Whether a stream slot is named by the BUF_SOURCE of a buffer decoded on arrival (R171). -/
def State.slotDecodes (s : State) (slot : Nat) : Bool :=
  s.reg .STR_STATE slot == 1 && (List.range 1024).any (fun b =>
    s.reg .BUF_SOURCE b == slot && s.reg .BUF_KIND b != 0 && s.reg .BUF_STORE b == 1)

/-- Whether a codec uses ingest decoding or tap encoding (R171). -/
def State.codecServes (s : State) (n : Nat) : Bool :=
  if n < 4 then
    (List.range 16).any (fun t => s.reg .TAP_ENABLE t == 1 && s.reg .SO_OUT_STATE (t / 8) != 0
      && s.encoderOf t == some n)
  else (List.range 256).any (fun slot => s.decoderOf slot == some n && s.slotDecodes slot)

/-- STANDING_GRANT_REQUEST (R171): asked for when a codec begins to serve, returned when it serves
neither. -/
def execStandingGrantRequest (n : Fin 8) (s : State) : Out :=
  .next (if s.codecServes n.val then s.request (.huskStanding n.val)
    else s.release (.huskStanding n.val))

/-- A frozen codec is released (R173): USED and the record of the interrupted job come first. -/
def State.releaseCodec (s : State) (n : Nat) : State :=
  let busy := s.reg .iGC_FROZEN_JOB n == 1
  let r : JobRun := { JobRun.start s with
    done := s.reg .iGC_DONE n, outBytes := s.reg .iGC_OUT n, ni := s.reg .iGC_NI n,
    nr := s.reg .iGC_NR n, nw := s.reg .iGC_NW n,
    out := if s.reg .iGC_BUF n = 0 then none
      else some ⟨s.reg .iGC_BUF n, 0, 0, 0, 0, s.reg .iGC_OFF n⟩ }
  let s1 := (s.setReg .GC_STATE n 0).setReg .iGC_FROZEN_JOB n 0
  let s2 := if busy then s1.jobRecord n r Code.masterFrozen false else s1
  (s2.jobOver n 0).refreshTaps

end Sys2Proof.Machine
end

