-- ==== Sys2Proof/Machine/Keeper.lean ====
section
/-! DEFINITION. The Keeper (15_keeper.md, R448 to R461): bytes and groups, page writes and what they are
for, the record pool, records and their resolution, tri-words. -/
namespace Sys2Proof.Machine

/-! ## Bytes and groups (R448, R449, R452) -/

/-- What a byte of the Keeper never written reads as. -/
def keeperDefault : Nat → Byte := fun _ => 0

/-- One stored byte of the Keeper. -/
def State.keeperByte (s : State) (a : Nat) : Byte := Sparse.get keeperDefault s.keeper a

/-- `n` stored bytes from `a`. -/
def State.keeperBytes (s : State) (a n : Nat) : List Byte := (List.range n).map (fun k => s.keeperByte (a + k))

/-- Stores bytes from `a` upwards in the Keeper's map. -/
def keeperPut (m : List Host.Cell) (a : Nat) : List Byte → List Host.Cell
  | [] => m
  | b :: bs => keeperPut (Sparse.set keeperDefault m a b) (a + 1) bs

/-- A page takes its new contents: its groups are good again (R449, R458). -/
def State.keeperPage (s : State) (page : Nat) (data : List Byte) : State :=
  { s with
    keeper := keeperPut s.keeper (256 * page) data
    keeperBad := s.keeperBad.filter (fun g => decide (g / 16 ≠ page))
    keeperTorn := s.keeperTorn.filter (fun g => decide (g / 16 ≠ page)) }

/-- Bank of a page (R448). -/
def keeperBank (page : Nat) : Nat := page / 512 % 4

/-- Whether a page is being written. -/
def State.pageBusy (s : State) (page : Nat) : Bool := s.keeperBusy.any (fun w => w.page == page)

/-- An uncorrectable group is entered in KP_BAD_LOG and raises POISON (R458): `finder` 0 scrubber, 1
read. -/
def State.logBadGroup (s : State) (g finder master : Nat) : State :=
  let e := packBits [(32, 16 * g), (64, s.now), (8, finder), (24, 0)]
  let s1 := { s with badLog := (if 16 ≤ s.badLog.length then s.badLog.drop 1 else s.badLog) ++ [e] }
  s1.raise Code.poison (some (s1.reg .MS_QUEUE 0)) [(64, 16 * g), (8, 2), (8, master), (8, finder)]

/-- One group as a demand read finds it (R449, R452): its 16 bytes, or `none` where it is
uncorrectable. Each read of an unstable group may find anything. -/
def State.readGroup (s : State) (g : Nat) : Option (List Byte) × State :=
  if s.keeperBad.contains g then (none, s)
  else if s.keeperTorn.contains g then
    let (x, s1) := s.draw
    let (v, s2) := s1.draw
    (if x % 2 = 0 then some (leBytes 16 v) else none, s2)
  else (some (s.keeperBytes (16 * g) 16), s)

/-- Groups read in turn up to the first that is uncorrectable: the bytes before it, and it. -/
def State.readGroups (s : State) : List Nat → List Byte × Option Nat × State
  | [] => ([], none, s)
  | g :: gs =>
    match s.readGroup g with
    | (none, s1) => ([], some g, s1)
    | (some bs, s1) =>
      let (rest, bad, s2) := s1.readGroups gs
      (bs ++ rest, bad, s2)

/-- A lace reads `n` bytes from `a`: the system area reads zeros (R448); the bytes before the first
uncorrectable group, and that group (R449). -/
def State.keeperRead (s : State) (a n : Nat) : List Byte × Option Nat × State :=
  if n = 0 then ([], none, s)
  else
    let g0 := a / 16
    let groups := (List.range ((a + n - 1) / 16 + 1 - g0)).map (· + g0)
    let sys := groups.filter (fun g => decide (g < 16384))
    let user := groups.filter (fun g => decide (16384 ≤ g))
    let (bs, bad, s1) := s.readGroups user
    let all := List.replicate (16 * sys.length) (BitVec.ofNat 8 0) ++ bs
    ((all.drop (a % 16)).take n, bad, s1)

/-! ## Checks of a page write (R442, R448, R450, R451) -/

/-- Whether block protect covers a page (R451). -/
def State.pageProtected (s : State) (page : Nat) : Bool :=
  match s.reg .KP_PROTECT 0 with
  | 0 => false
  | 1 => decide (1536 ≤ page) && decide (page < 2048)
  | 2 => decide (1024 ≤ page) && decide (page < 2048)
  | _ => decide (page < 2048)

/-- Whether the Keeper gate is open (R442). -/
def State.keeperOpen (s : State) : Bool := s.reg .TH_KEEPER_GATE 0 == 0

/-! ## The record pool (R454, R455) -/

/-- What the header of a pool page says (R455). -/
structure PageHead where
  wear : Nat
  seq : Nat
  parts : Nat
  copy : Nat
  part : Nat
  length : Nat
  record : Nat
  deriving DecidableEq, Repr

/-- Whether a group of a page from the `n` first is uncorrectable or unstable. -/
def State.groupsBad (s : State) (page n : Nat) : Bool :=
  (List.range n).any (fun k => s.keeperBad.contains (16 * page + k) || s.keeperTorn.contains (16 * page + k))

/-- The header of a page that is a valid part of a copy (R455). -/
def State.pageHead (s : State) (page : Nat) : Option PageHead :=
  let w := leNat (s.keeperBytes (256 * page) 32)
  if bits w 15 0 ≠ 0x4C4B then none
  else if s.groupsBad page 16 then none
  else if crc32c (s.keeperBytes (256 * page) 28 ++ s.keeperBytes (256 * page + 32) 224) ≠ bits w 255 224 then
    none
  else some ⟨bits w 127 96, bits w 95 64, bits w 63 56, bits w 55 55, bits w 53 48, bits w 47 32,
    bits w 31 16⟩

/-- The pages of the record pool (R448). -/
def poolPages : List Nat := (List.range 1008).map (· + 16)

/-- WEAR of a pool page; `none` where its header cannot be read. -/
def State.pageWear (s : State) (page : Nat) : Option Nat :=
  if s.groupsBad page 2 then none else some (leNat (s.keeperBytes (256 * page + 12) 4))

/-- KP_WEAR_MAX: the highest WEAR in the pool. -/
def State.wearMax (s : State) : Nat := poolPages.foldl (fun m p => max m ((s.pageWear p).getD 0)) 0

/-- WEAR a page counts with (R454). -/
def State.wearOf (s : State) (mx page : Nat) : Nat := (s.pageWear page).getD mx

/-- The valid pages of the pool with their headers. -/
def State.poolHeads (s : State) : List (Nat × PageHead) :=
  poolPages.filterMap (fun p => (s.pageHead p).map (fun h => (p, h)))

/-- The pages of a valid copy, part 0 first; `none` where it is not valid (R455). -/
def copyPages (hs : List (Nat × PageHead)) (id copy seq : Nat) : Option (List Nat) :=
  let mine := hs.filter (fun e => e.2.record == id && e.2.copy == copy && e.2.seq == seq)
  match mine.find? (fun e => e.2.part == 0) with
  | none => none
  | some h =>
    let ps := (List.range h.2.parts).map (fun k => mine.find? (fun e =>
      e.2.part == k && e.2.parts == h.2.parts && e.2.length == h.2.length))
    if ps.all Option.isSome then some (ps.filterMap (fun e => e.map Prod.fst)) else none

/-- Whether `a` is newer than `b` by signed 32-bit difference. -/
def newer32 (a b : Nat) : Bool := decide (0 < asInt 32 (a + 2 ^ 32 - b % 2 ^ 32))

/-- The highest SEQ among the valid copies of a record (R457). -/
def recordSeq (hs : List (Nat × PageHead)) (id : Nat) : Option Nat :=
  (hs.filter (fun e => e.2.record == id)).foldl (fun best e =>
    if (copyPages hs id e.2.copy e.2.seq).isNone then best
    else match best with
      | none => some e.2.seq
      | some b => if newer32 e.2.seq b then some e.2.seq else some b) none

/-- The records the pool holds pages of. -/
def recordIds (hs : List (Nat × PageHead)) : List Nat := (hs.map (fun e => e.2.record)).eraseDups

/-- The pages in use: those of the copies in force (R454, R457). -/
def pagesInUse (hs : List (Nat × PageHead)) : List Nat :=
  (recordIds hs).flatMap (fun id =>
    match recordSeq hs id with
    | none => []
    | some q => (copyPages hs id 0 q).getD [] ++ (copyPages hs id 1 q).getD [])

/-- Pages a page write has been requested of. -/
def State.pagesTaken (s : State) : List Nat := (s.keeperQueue ++ s.keeperBusy).map PageWrite.page

/-- The free pages of the pool that are not retired (R454). -/
def State.freePages (s : State) : List Nat :=
  let used := pagesInUse s.poolHeads ++ s.pagesTaken
  let mx := s.wearMax
  poolPages.filter (fun p => !used.contains p && decide (s.wearOf mx p < 1000000))

/-- Pages that hold parts of a copy that is still being written. They count as free by R454 but take no other
page meanwhile. DEDUCED (log 69). -/
def State.partsHeld (s : State) : List Nat :=
  (s.poolHeads.filter (fun e => s.records.any (fun r => r.id == e.2.record && r.seq == e.2.seq))).map Prod.fst

/-- The free pages a new page can be placed on. -/
def State.openPages (s : State) : List Nat :=
  let held := s.partsHeld
  s.freePages.filter (fun p => !held.contains p)

/-- The free page with the lowest WEAR, the lowest number on ties (R454). -/
def State.placePage (s : State) : Option Nat :=
  let mx := s.wearMax
  s.openPages.foldl (fun best p =>
    match best with
    | none => some p
    | some b => if s.wearOf mx p < s.wearOf mx b then some p else some b) none

/-- The 256 bytes of one part of a copy (R455). -/
def recordPage (wear seq parts copy part id : Nat) (payload : List Byte) : List Byte :=
  let head := leBytes 28 (packBits [(16, 0x4C4B), (16, id), (16, payload.length), (6, part), (1, 0),
    (1, copy), (8, parts), (32, seq), (32, wear), (96, 0)])
  let chunk := (payload.drop (224 * part)).take 224
  let body := chunk ++ List.replicate (224 - chunk.length) (BitVec.ofNat 8 0)
  head ++ leBytes 4 (crc32c (head ++ body)) ++ body

/-- Pages of a payload. -/
def recordParts (payload : List Byte) : Nat := max 1 (ceilDiv payload.length 224)

/-! ## Record writes (R456, R457) -/

/-- A write is refused with KEEPER_REFUSED (R450, R454). -/
def State.keeperRefuse (s : State) : State := s.bump .KP_REFUSED 0

/-- The next page of a record write is requested; where too few free pages remain for a copy, it is not written
(R454). -/
def State.nextPart (s : State) (r : RecordWrite) : Option State :=
  match r.left with
  | [] => none
  | (copy, part) :: _ =>
    if part = 0 ∧ s.openPages.length < recordParts r.payload then none
    else match s.placePage with
    | none => none
    | some p =>
      let wear := s.wearOf s.wearMax p + 1
      some { s with keeperQueue := s.keeperQueue ++
        [⟨p, recordPage wear r.seq (recordParts r.payload) copy part r.id r.payload, .record r.id⟩] }

/-- The order of a record's pages: every part of copy A, then every part of copy B (R456). -/
def recordOrder (payload : List Byte) (copies : List Nat) : List (Nat × Nat) :=
  copies.flatMap (fun c => (List.range (recordParts payload)).map (fun k => (c, k)))

/-- A record write is refused: a KEEP value waits for KEEP_RETRY (R383), a repair stays pending. -/
def State.recordRefused (s : State) (r : RecordWrite) : State :=
  let s1 := s.keeperRefuse
  if r.repair then s1
  else
    let keys := s1.keepPending.filter (fun k =>
      (regRow (Reg.ofNat (k % 1024))).index + k / 1024 == r.id)
    let s2 := { s1.cond s1.keepDeferred.isEmpty (fun t => t.setReg .iKEEP_TRY 0 t.clock) with
      records := s1.records.filter (fun x => x.id != r.id)
      keepDeferred := if s1.keepDeferred.contains r.id then s1.keepDeferred else s1.keepDeferred ++ [r.id] }
    keys.foldl (fun t k => t.raise Code.keepDeferred none [(32, (Reg.ofNat (k % 1024)).id (k / 1024))]) s2

/-- A record write begins. -/
def State.startRecord (s : State) (r : RecordWrite) : State :=
  let s1 := { s with records := s.records ++ [r] }
  match s1.nextPart r with
  | some t => t
  | none => s1.recordRefused r

/-- The content of a copy in force. -/
def State.copyContent (s : State) (hs : List (Nat × PageHead)) (pages : List Nat) : List Byte :=
  let len := match pages with
    | [] => 0
    | p :: _ => match hs.find? (fun e => e.1 == p) with
      | some e => e.2.length
      | none => 0
  (pages.flatMap (fun p => s.keeperBytes (256 * p + 32) 224)).take len

/-- A repair rewrites one copy at the SEQ resolved (R457). -/
def State.repairCopy (s : State) (id seq copy : Nat) (content : List Byte) : State :=
  if s.records.any (fun r => r.id == id) then s
  else (s.bump .KP_REPAIRS 0).startRecord ⟨id, seq, content, recordOrder content [copy], true⟩

/-- A record is resolved (R457): the content used, with what the table of R457 does. -/
def State.resolveRecord (s : State) (id : Nat) : Option (List Byte) × State :=
  let hs := s.poolHeads
  match recordSeq hs id with
  | none => (none, s)
  | some q =>
    match copyPages hs id 0 q, copyPages hs id 1 q with
    | some a, some b =>
      let ca := s.copyContent hs a
      if ca = s.copyContent hs b then (some ca, s)
      else (some ca, ((s.bump .KP_TWINS 0).raise Code.keeperTwin none [(16, id)]).repairCopy id q 1 ca)
    | some a, none => (some (s.copyContent hs a), s.repairCopy id q 1 (s.copyContent hs a))
    | none, some b => (some (s.copyContent hs b), s.repairCopy id q 0 (s.copyContent hs b))
    | none, none => (none, s)

/-- The record that the header of a pool page names, its CRC apart (R455, R457). -/
def State.pageNames (s : State) (page : Nat) : Option Nat :=
  let w := leNat (s.keeperBytes (256 * page) 32)
  if bits w 15 0 ≠ 0x4C4B ∨ s.groupsBad page 2 = true then none else some (bits w 31 16)

/-- The records that pages of the pool name, none of them valid. -/
def State.brokenRecords (s : State) : List Nat :=
  let good := recordIds s.poolHeads
  ((poolPages.filterMap s.pageNames).eraseDups).filter (fun id => !good.contains id)

/-- The firmware reads the pool at a reset: each uncorrectable group it finds raises POISON with a Pip core and
finder 1 (R449, R458); an unstable one may be found so. -/
def State.readPool (s : State) : State :=
  let found (t : State) (g : Nat) : State :=
    if 256 ≤ g ∧ g < 16384 then t.logBadGroup g 1 s.pipMaster.id else t
  s.keeperTorn.foldl (fun t g =>
    let (x, u) := t.draw
    if x % 2 = 0 then u else found u g) (s.keeperBad.foldl found s)

/-- Every record of the pool is resolved (R457); one without a valid copy counts as lost. -/
def State.resolveAll (s : State) : State :=
  (recordIds s.poolHeads ++ s.brokenRecords).foldl (fun t id =>
    match t.resolveRecord id with
    | (some _, u) => u
    | (none, u) => u.bump .KP_REC_LOST 0) s

/-! ## The content of a record (R455) -/

/-- The key table as the entry of PLV_KEY_SET holds it: 64 entries of 36 bytes, unused ones zero. -/
def State.keyTableBytes (s : State) : List Byte :=
  let es := s.keys.flatMap (fun k => leBytes 2 k.1 ++ leBytes 1 k.2.1 ++ leBytes 1 0 ++ leBytes 32 k.2.2)
  es ++ List.replicate (2304 - es.length) (BitVec.ofNat 8 0)

/-- The bytes of a KEEP value as its record holds them (R455, R379): the value in force, which is not the
staged one of a protection window (R301). -/
def State.keepBytes (s : State) (r : Reg) (i : Nat) : List Byte :=
  match r with
  | .PLV_KEY_SET => s.keyTableBytes
  | .IN_LUT_DATA => leBytes 2048 (s.lutBlob 0 i)
  | .OUT_LUT_DATA => leBytes 8194 (s.lutBlob 0 (8 + i))
  | _ => match windowFields.find? (fun e => e.1 == r) with
    | some e => leBytes (r.width / 8) (s.reg e.2 i)
    | none => leBytes (r.width / 8) (s.reg r i)

/-- The KEEP parameters of an index, in increasing subindex. -/
def keepRegsAt (index : Nat) : List (Reg × Nat) :=
  (dictRegs.filter (fun r => (regRow r).keep && decide ((regRow r).index ≤ index)
    && regExists r (index - (regRow r).index))).map (fun r => (r, index - (regRow r).index))

/-- The payload of the record of an index (R455). -/
def State.recordPayload (s : State) (index : Nat) : List Byte :=
  (keepRegsAt index).flatMap (fun e =>
    let b := s.keepBytes e.1 e.2
    leBytes 1 (regRow e.1).sub ++ leBytes 2 b.length ++ b)

/-- The index of a register key. -/
def keyIndex (k : Nat) : Nat := (regRow (Reg.ofNat (k % 1024))).index + k / 1024

/-- The entries of a payload: subindex and value bytes. -/
def payloadEntries : Nat → List Byte → List (Nat × List Byte)
  | 0, _ => []
  | n + 1, bs =>
    if bs.length < 3 then []
    else
      let len := leAt bs 1 2
      (leAt bs 0 1, (bs.drop 3).take len) :: payloadEntries n (bs.drop (3 + len))

/-- The key table that the entry of PLV_KEY_SET holds. -/
def keyTableOf (bs : List Byte) : List (Nat × Nat × Nat) :=
  ((List.range 64).map (fun k => (leAt bs (36 * k) 2, leAt bs (36 * k + 2) 1, leAt bs (36 * k + 4) 32))).filter
    (fun e => e.2.2 != 0)

/-- One KEEP value is restored from its record (R393, R455, R491). -/
def State.restoreKeep (s : State) (r : Reg) (i : Nat) (bs : List Byte) : State :=
  match r with
  | .PLV_KEY_SET => { s with keys := keyTableOf bs }
  | .IN_LUT_DATA => (s.takeLut 0 i (leNat bs)).takeLut 1 i (leNat bs)
  | .OUT_LUT_DATA => (s.takeLut 0 (8 + i) (leNat bs)).takeLut 1 (8 + i) (leNat bs)
  | _ => s.setReg r i (leNat bs)

/-- The values of a resolved record are applied. -/
def State.applyRecord (s : State) (index : Nat) (payload : List Byte) : State :=
  (payloadEntries 256 payload).foldl (fun t e =>
    match (keepRegsAt index).find? (fun x => (regRow x.1).sub == e.1) with
    | some x => t.restoreKeep x.1 x.2 e.2
    | none => t) s

/-! ## Tri-words (R459, R460) -/

/-- The instance of a tri-word copy. -/
def triIx (copy word : Nat) : Nat := 16 * copy + word

/-- The voted value of three copies, and whether a majority held it (R460). -/
def vote3 (a b c : Nat) : Nat × Bool :=
  if a = b ∨ a = c then (a, true) else if b = c then (b, true) else (c, false)

/-- The voted value of a tri-word (R460). -/
def State.triword (s : State) (w : Nat) : Nat :=
  (vote3 (s.reg .iTRI (triIx 0 w)) (s.reg .iTRI (triIx 1 w)) (s.reg .iTRI (triIx 2 w))).1

/-- The page a tri-word copy is written in: copy pages 0 to 2, or the configuration row (R451, R459). -/
def triPage (copy word : Nat) : Nat := if word = 12 then 2048 + copy else copy

/-- The tri-word copy that a page write writes: its word, value and copy. -/
def PageBy.triCopy : PageBy → Option (Nat × Nat × Nat)
  | .tri word value copy => some (word, value, copy)
  | .triFix word value copy => some (word, value, copy)
  | .lace _ => none
  | .record _ => none
  | .fix => none

/-- Whether a page write is for a word. -/
def PageBy.ofWord (p : PageBy) (word : Nat) : Bool := (p.triCopy.map Prod.fst) == some word

/-- One copy of a tri-word is requested. -/
def State.requestTri (s : State) (word value copy : Nat) : State :=
  { s with keeperQueue := s.keeperQueue ++ [⟨triPage copy word, [], .tri word value copy⟩] }

/-- A tri-word is written: copy 0, then 1, then 2 (R460). -/
def State.writeTri (s : State) (word value : Nat) : State :=
  ({ s with triPending := s.triPending.filter (fun p => !p.ofWord word) } : State).requestTri word value 0

/-- A copy that disagrees with the vote is rewritten (R460). -/
def State.repairTri (s : State) (word value copy : Nat) : State :=
  { s with keeperQueue := s.keeperQueue ++ [⟨triPage copy word, [], .triFix word value copy⟩] }

/-- Whether a write of a tri-word is requested, under way or refused and waiting. -/
def State.triBusy (s : State) (word : Nat) : Bool :=
  s.triPending.any (fun p => p.ofWord word) || (s.keeperQueue ++ s.keeperBusy).any (fun w => w.by_.ofWord word)

/-- The tri-word of a KEEP parameter that has one (R459). -/
def triOf : Reg → Option Nat
  | .PW_CEILING => some 7 | .TH_SHUT => some 8 | .TH_RESTART => some 9 | .KP_PROTECT => some 12
  | _ => none

/-- A tri-word parameter is written to its copies: sign-extended where it is signed (R459). -/
def State.saveTri (s : State) (r : Reg) : State :=
  match triOf r with
  | none => s
  | some w => s.writeTri w (if (regRow r).ty.signed then ofInt 64 (s.regInt r 0) else s.reg r 0)

/-- A KEEP value takes effect that has a tri-word as well (R459): in force, owed to the Keeper, and its
copies requested. -/
def State.putTri (s : State) (r : Reg) (v : Nat) : State := (s.putReg r 0 v).saveTri r

/-- The root of a surface's spare map as the table of R459 gives it: SEQ of the record and CRC-32C of
the map (R459, R461). -/
def mapRoot (seq map : Nat) : Nat := packBits [(32, crc32c (leBytes 96 map)), (32, seq)]

end Sys2Proof.Machine
end

