-- ==== Sys2Proof/Machine/Net.lean ====
section
/-! DEFINITION. Ethernet frames, egress queues, the switch and receive queues (11_network_time.md, R342 to
R353, R363, R364, R374). The formats of Ethernet, IPv4, IPv6, ICMP, ARP, IGMP and MLD, which the manual
names without laying them out, are those of their public standards. -/
namespace Sys2Proof.Machine

/-! ## Frames -/

/-- The multicast groups of PTP over IPv4 and IPv6, and its MAC addresses. -/
def ptpGroups4 : List Nat := [0xE0000181, 0xE000006B]
/-- Likewise for IPv6. -/
def ptpGroups6 : List Nat :=
  [0xFF0E0000000000000000000000000181, 0xFF02000000000000000000000000006B]
/-- Likewise for Ethernet. -/
def ptpMacs : List Nat := [0x011B19000000, 0x0180C200000E]

/-- What Flaed reads of a frame: addresses, the VLAN tag, the EtherType and what follows it. -/
structure Ether where
  dst : Nat
  src : Nat
  tagged : Bool
  pcp : Nat
  vid : Nat
  etype : Nat
  off : Nat
  body : List Byte
  deriving DecidableEq, Repr

/-- The fields of a frame that begins at its destination address. -/
def Ether.ofBytes (f : List Byte) : Ether :=
  if beAt f 12 2 = 0x8100 then
    ⟨beAt f 0 6, beAt f 6 6, true, beAt f 14 2 / 8192, beAt f 14 2 % 4096, beAt f 16 2, 18, f.drop 18⟩
  else ⟨beAt f 0 6, beAt f 6 6, false, 0, 0, beAt f 12 2, 14, f.drop 14⟩

/-- What Flaed reads of an IP datagram: version, addresses, protocol, whether it is a fragment, the
offset of what follows the header, and its bytes. -/
structure Packet where
  ver : Nat
  src : Nat
  dst : Nat
  proto : Nat
  fragment : Bool
  off : Nat
  body : List Byte
  deriving DecidableEq, Repr

/-- The IP datagram of a frame. An IPv6 hop-by-hop header is passed over. -/
def Packet.ofEther (e : Ether) : Option Packet :=
  let b := e.body
  if e.etype = 0x0800 ∧ beAt b 0 1 / 16 = 4 then
    let ihl := 4 * (beAt b 0 1 % 16)
    some ⟨4, beAt b 12 4, beAt b 16 4, beAt b 9 1, decide (beAt b 6 2 % 16384 ≠ 0), ihl,
      (b.take (beAt b 2 2)).drop ihl⟩
  else if e.etype = 0x86DD ∧ beAt b 0 1 / 16 = 6 then
    let next := beAt b 6 1
    let total := 40 + beAt b 4 2
    let off := if next = 0 then 48 + 8 * beAt b 41 1 else 40
    let proto := if next = 0 then beAt b 40 1 else next
    some ⟨6, beAt b 8 16, beAt b 24 16, proto, proto == 44, off, (b.take total).drop off⟩
  else none

/-- The destination port of a UDP datagram. -/
def Packet.udpPort (p : Packet) : Option Nat :=
  if p.proto = 17 ∧ p.fragment = false then some (beAt p.body 2 2) else none

/-- Where a PTP message begins in a frame and what carries it: 0 Ethernet, 4 IPv4, 6 IPv6 (R345). -/
def ptpAt (f : List Byte) : Option (Nat × Nat) :=
  let e := Ether.ofBytes f
  if e.etype = 0x88F7 then some (e.off, 0)
  else match Packet.ofEther e with
    | none => none
    | some p =>
      match p.udpPort with
      | none => none
      | some d => if d = 319 ∨ d = 320 then some (e.off + p.off + 8, p.ver) else none

/-! ## Checksums -/

/-- The sum of the 16-bit words of a list, network order. -/
def sum16 : List Byte → Nat
  | [] => 0
  | [a] => 256 * a.toNat
  | a :: b :: bs => 256 * a.toNat + b.toNat + sum16 bs

/-- The ones' complement checksum of a sum. -/
def onesCheck (n : Nat) : Nat := 65535 - (if n = 0 then 0 else (n - 1) % 65535 + 1)

/-- Bytes `off` onwards of a list replaced. -/
def putBytes (f : List Byte) (off : Nat) (bs : List Byte) : List Byte :=
  f.take off ++ bs ++ f.drop (off + bs.length)

/-! ## Addresses and memberships (R344, R347) -/

/-- The link-local address formed from a MAC address by the modified EUI-64 rule (R344). -/
def linkLocal (mac : Nat) : Nat :=
  0xFE80 * 2 ^ 112 + ((mac / 2 ^ 24) ^^^ 0x020000) * 2 ^ 40 + 0xFFFE * 2 ^ 24 + mac % 2 ^ 24

/-- NET_MAC. -/
def State.mac (s : State) : Nat := s.reg .NET_MAC 0 % 2 ^ 48

/-- NET_IP6 as an address: byte 0 of the BLOB is the first byte of the address. -/
def State.ip6 (s : State) : Nat := beNat (leBytes 16 (s.reg .NET_IP6 0))

/-- A group of a stream slot as an IPv6 address. -/
def groupV6 (s : State) (n : Nat) : Nat := beNat (leBytes 16 (s.reg .STR_GROUP_V6 n))

/-- The IPv4 groups that open stream slots name (R183, R347). -/
def State.groups4 (s : State) : List Nat :=
  ((List.range 256).filterMap (fun n =>
    if s.reg .STR_STATE n ≠ 0 ∧ s.reg .STR_TRANSPORT n = 0 ∧ s.reg .STR_GROUP_V4 n ≠ 0 then
      some (s.reg .STR_GROUP_V4 n) else none)).eraseDups

/-- The IPv6 groups that open stream slots name. -/
def State.groups6 (s : State) : List Nat :=
  ((List.range 256).filterMap (fun n =>
    if s.reg .STR_STATE n ≠ 0 ∧ s.reg .STR_TRANSPORT n = 0 ∧ groupV6 s n ≠ 0 then
      some (groupV6 s n) else none)).eraseDups

/-- The IPv4 groups Flaed is a member of (R347). -/
def State.members4 (s : State) : List Nat :=
  s.groups4 ++ (if s.reg .PTP_TRANSPORT 0 = 0 then ptpGroups4 else [])

/-- The IPv6 groups Flaed is a member of. -/
def State.members6 (s : State) : List Nat :=
  s.groups6 ++ (if s.reg .PTP_TRANSPORT 0 = 1 then ptpGroups6 else [])

/-- Whether a multicast MAC address is that of a group Flaed is a member of, of all hosts or nodes, to which
general queries go (R347), or of PTP, whatever its transport (R348). -/
def State.memberMac (s : State) (dst : Nat) : Bool :=
  ptpMacs.contains dst
    || (0xE0000001 :: (ptpGroups4 ++ s.members4)).any (fun g => dst == 0x01005E000000 + g % 2 ^ 23)
    || (1 :: (ptpGroups6 ++ s.members6)).any (fun g => dst == 0x333300000000 + g % 2 ^ 32)
    || [s.ip6, linkLocal s.mac].any (fun a => a != 0 && dst == 0x3333FF000000 + a % 2 ^ 24)

/-- Whether an IP destination is Flaed's own, or a group it is a member of (R344, R352). -/
def State.ownIp (s : State) (p : Packet) : Bool :=
  if p.ver = 4 then (p.dst != 0 && p.dst == s.reg .NET_IP4 0) || s.members4.contains p.dst
  else (p.dst != 0 && p.dst == s.ip6) || p.dst == linkLocal s.mac || s.members6.contains p.dst

/-! ## Egress queues (R349) -/

/-- Bytes of an egress queue (R349). -/
def egressSize : Nat := 262144

/-- Bytes held by egress queue `q` of a port. -/
def State.egressLevel (s : State) (port q : Nat) : Nat :=
  ((s.egress.filter (fun f => f.port == port && f.queue == q && !f.cut)).map EgressFrame.len).sum

/-- Whether a link of a port is up. -/
def State.linkUp (s : State) (port sub : Nat) : Bool := bit (s.reg .ETH_LINK port) sub

/-- Whether a port is sending. -/
def State.portSending (s : State) (port : Nat) : Bool :=
  s.egress.any (fun f => f.port == port && f.started)

/-- The frame a port sends next (R349): the oldest whole one of its highest queue. -/
def State.nextEgress (s : State) (port : Nat) : Option EgressFrame :=
  (List.range 8).reverse.findSome? (fun q => s.egress.find? (fun f =>
    f.port == port && f.queue == q && !f.started && f.lace.isNone && s.linkUp port f.sub))

/-- The ones' complement sum of a correctionField. -/
def corrSum (bs : List Byte) : Nat := sum16 (bs.take 8)

/-- A forwarded PTP message with its correctionField raised by `add` units of 2^-16 ns, and its UDP
checksum kept valid (R363, R364). -/
def correctPtp (f : List Byte) (add : Int) : List Byte :=
  match ptpAt f with
  | none => f
  | some (off, carrier) =>
    let old := (f.drop (off + 8)).take 8
    let new := beBytes 8 (ofInt 64 (asInt 64 (beNat old) + add))
    let g := putBytes f (off + 8) new
    if carrier = 4 then putBytes g (off - 2) (beBytes 2 0)
    else if carrier = 6 then
      let total := beAt f (off - 4) 2 - 8
      let len := beAt f (off + 2) 2
      let shift (x : Nat) (sign : Bool) : Nat :=
        (x + 65535 * 8 + (if sign then corrSum new else corrSum old)
          - (if sign then corrSum old else corrSum new)) % 65535
      if len + 2 ≤ total then
        putBytes g (off + len) (beBytes 2 (shift (beAt f (off + len) 2) false))
      else
        let c := shift (beAt f (off - 2) 2) false
        putBytes g (off - 2) (beBytes 2 (if c = 0 then 65535 else c))
    else g

/-- Nearest multiple of 2^-16 ns of a difference in 2^-48 ns, ties up (R363). -/
def roundResidence (x : Int) : Int := (x + 2 ^ 31) / 2 ^ 32

/-- Whether a frame is a PTP message to which residence is added: Sync or Delay_Req (R363). -/
def residenceOwed (f : List Byte) : Bool :=
  match ptpAt f with
  | some (off, _) => decide (beAt f off 1 % 16 ≤ 1)
  | none => false

/-- What residence adds to a forwarded PTP message (R363): under P2P, a Sync also carries the peer
delay of its ingress port. -/
def State.residence (s : State) (f : List Byte) (ingress : Nat) (rx tx : Nat) : Int :=
  let kind := match ptpAt f with
    | some (off, _) => beAt f off 1 % 16
    | none => 15
  let p2p := s.reg .PTP_DELAY_MECH 0 == 1
  if kind = 0 ∨ kind = 1 then
    roundResidence ((tx : Int) - rx)
      + (if kind = 0 ∧ p2p = true then s.regInt .PP_PEER_DELAY ingress else 0)
  else 0

/-- A frame leaves with its residence added, for a PTP message that owes it. -/
def State.stampFrame (s : State) (f : EgressFrame) (tx : Nat) : EgressFrame × State :=
  match f.rx, f.msg with
  | some (ingress, rx), .frame p sub bs =>
    let add := s.residence bs ingress rx tx
    ({ f with rx := none, msg := .frame p sub (if add = 0 then bs else correctPtp bs add) },
      s.noteRecent (100 + p) ((tx - rx) >>> 48))
  | _, _ => (f, s)

/-- An idle port begins its next frame (R349); `tx` is that frame's time stamp at the ball, in 2^-48
ns. -/
def State.portStart (s : State) (port tx : Nat) : State :=
  if s.portSending port then s
  else match s.nextEgress port with
    | none => s
    | some f =>
      let (g, s1) := s.stampFrame f tx
      { s1 with egress := { g with started := true } :: s1.egress.erase f }

/-- The time stamp a frame gets that begins at once: network time now. -/
def State.stampNow (s : State) : Nat := s.tb

/-- Flaed's own frame enters the queue its sender names; it is lost where the queue is full (R349). -/
def State.sendOwn (s : State) (port sub queue len : Nat) (msg : OutMsg) : State :=
  if egressSize < s.egressLevel port queue + len then s
  else ({ s with egress := s.egress ++ [⟨port, sub, queue, len, none, false, false, none, msg⟩] } :
    State).portStart port s.stampNow

/-- Where a unicast frame of Flaed's own leaves (R346): 4 x port + sub-port. -/
def State.macPort (s : State) (mac : Nat) : Nat := Sparse.get (fun _ => 0) s.macs mac

/-- A whole frame of Flaed's own: Ethernet header, the VLAN tag of NET_VID, padded to 60 bytes (R344). -/
def State.ownFrame (s : State) (dst pcp etype : Nat) (body : List Byte) : List Byte :=
  let vid := s.reg .NET_VID 0
  let tag := if vid = 0 then [] else beBytes 2 0x8100 ++ beBytes 2 (8192 * pcp + vid)
  let f := beBytes 6 dst ++ beBytes 6 s.mac ++ tag ++ beBytes 2 etype ++ body
  f ++ List.replicate (60 - f.length) (BitVec.ofNat 8 0)

/-- A network frame of Flaed's own leaves on a port and sub-port (R346, R349). -/
def State.netSend (s : State) (port sub dst etype : Nat) (body : List Byte) : State :=
  let q := s.reg .NET_PCP_CTRL 0
  let f := s.ownFrame dst q etype body
  (s.sendMore [.frame port sub f]).sendOwn port sub q f.length (.frame port sub f)

/-! ## Replies (R344, R345, R347) -/

/-- An IPv4 datagram with a router alert option where `alert` says so. -/
def ipv4 (src dst proto ttl : Nat) (alert : Bool) (body : List Byte) : List Byte :=
  let opt := if alert then beBytes 4 0x94040000 else []
  let n := 20 + opt.length
  let head (c : Nat) := beBytes 2 (256 * (0x40 + n / 4)) ++ beBytes 2 (n + body.length) ++ beBytes 4 0
    ++ beBytes 1 ttl ++ beBytes 1 proto ++ beBytes 2 c ++ beBytes 4 src ++ beBytes 4 dst ++ opt
  head (onesCheck (sum16 (head 0))) ++ body

/-- An IPv6 datagram of ICMPv6 with its checksum; `alert` puts a router alert before it. -/
def icmp6 (src dst hop : Nat) (alert : Bool) (body : List Byte) : List Byte :=
  let opt := if alert then beBytes 8 0x3A00050200000100 else []
  let pseudo := beBytes 16 src ++ beBytes 16 dst ++ beBytes 4 body.length ++ beBytes 4 58
  let c := onesCheck (sum16 (pseudo ++ body))
  beBytes 4 0x60000000 ++ beBytes 2 (opt.length + body.length) ++ beBytes 1 (if alert then 0 else 58)
    ++ beBytes 1 hop ++ beBytes 16 src ++ beBytes 16 dst ++ opt ++ putBytes body 2 (beBytes 2 c)

/-- An IGMPv3 report of groups with record type `kind` (2 is exclude; 4 change to exclude; 3 change to
include, a leave), with no source list (R347). -/
def State.igmpReport (s : State) (port kind : Nat) (groups : List Nat) : State :=
  if groups.isEmpty then s
  else
    let recs := groups.flatMap (fun g => beBytes 1 kind ++ beBytes 3 0 ++ beBytes 4 g)
    let m (c : Nat) := beBytes 2 0x2200 ++ beBytes 2 c ++ beBytes 2 0 ++ beBytes 2 groups.length ++ recs
    s.netSend port 0 0x01005E000016 0x0800
      (ipv4 (s.reg .NET_IP4 0) 0xE0000016 2 1 true (m (onesCheck (sum16 (m 0)))))

/-- An MLDv2 report, likewise. -/
def State.mldReport (s : State) (port kind : Nat) (groups : List Nat) : State :=
  if groups.isEmpty then s
  else
    let recs := groups.flatMap (fun g => beBytes 1 kind ++ beBytes 3 0 ++ beBytes 16 g)
    let m := beBytes 4 0x8F000000 ++ beBytes 2 0 ++ beBytes 2 groups.length ++ recs
    s.netSend port 0 0x333300000016 0x86DD
      (icmp6 (linkLocal s.mac) 0xFF020000000000000000000000000016 1 true m)

/-- The reports and leaves owed after memberships changed from those of `old` (R347): on both ports. -/
def State.reportGroups (s old : State) : State :=
  let new4 := s.members4.filter (fun g => !old.members4.contains g)
  let gone4 := old.members4.filter (fun g => !s.members4.contains g)
  let new6 := s.members6.filter (fun g => !old.members6.contains g)
  let gone6 := old.members6.filter (fun g => !s.members6.contains g)
  forN 2 s (fun t p => (((t.igmpReport p 4 new4).igmpReport p 3 gone4).mldReport p 4 new6).mldReport p 3
    gone6)

/-- Every membership is announced on both ports, as at the start (R347). -/
def State.announceGroups (s : State) : State :=
  forN 2 s (fun t p => (t.igmpReport p 4 s.members4).mldReport p 4 s.members6)

/-- The answer to an ARP request for Flaed's address; `none` where the frame is no such request. -/
def State.answerArp (s : State) (port sub : Nat) (e : Ether) : Option State :=
  let b := e.body
  let ip := s.reg .NET_IP4 0
  if beAt b 6 2 = 1 ∧ ip ≠ 0 ∧ beAt b 24 4 = ip then
    some (s.netSend port sub (beAt b 8 6) 0x0806
      (b.take 6 ++ beBytes 2 2 ++ beBytes 6 s.mac ++ beBytes 4 ip ++ (b.drop 8).take 10))
  else none

/-- Flaed's own address of an answer to a datagram (R344): the one it was sent to, or for one sent to a group
its IPv4 address, or the IPv6 address of the sender's scope. -/
def State.ownSource (s : State) (p : Packet) : Nat :=
  if p.ver = 4 then s.reg .NET_IP4 0
  else if p.dst = s.ip6 ∨ p.dst = linkLocal s.mac then p.dst
  else if p.src / 2 ^ 118 = 0x3FA ∨ s.ip6 = 0 then linkLocal s.mac
  else s.ip6

/-- The answer to an ICMP echo request; `none` where Flaed has no address to answer from. -/
def State.answerEcho4 (s : State) (port sub : Nat) (e : Ether) (p : Packet) : Option State :=
  let m := putBytes p.body 0 (beBytes 4 0)
  if s.reg .NET_IP4 0 = 0 then none
  else some (s.netSend port sub e.src 0x0800
    (ipv4 (s.ownSource p) p.src 1 64 false (putBytes m 2 (beBytes 2 (onesCheck (sum16 m))))))

/-- The answer to an ICMPv6 message: an echo request, or a neighbour solicitation for an address of Flaed's,
which goes to all nodes where its sender has none yet; `none` for another solicitation. -/
def State.answerIcmp6 (s : State) (port sub : Nat) (e : Ether) (p : Packet) : Option State :=
  if beAt p.body 0 1 = 128 then
    some (s.netSend port sub e.src 0x86DD
      (icmp6 (s.ownSource p) p.src 64 false (putBytes p.body 0 (beBytes 4 0x81000000))))
  else
    let target := beAt p.body 8 16
    let body (flags : Nat) := beBytes 4 0x88000000 ++ beBytes 4 flags ++ beBytes 16 target
      ++ beBytes 2 0x0201 ++ beBytes 6 s.mac
    if target = 0 ∨ (target ≠ s.ip6 ∧ target ≠ linkLocal s.mac) then none
    else if p.src = 0 then
      some (s.netSend port sub 0x333300000001 0x86DD (icmp6 target 0xFF020000000000000000000000000001 255 false
        (body 0x20000000)))
    else some (s.netSend port sub e.src 0x86DD (icmp6 target p.src 255 false (body 0x60000000)))

/-- The answer to an IGMP query: general, or for one group (R347); `none` where no membership answers it. -/
def State.answerIgmp (s : State) (port : Nat) (p : Packet) : Option State :=
  let g := beAt p.body 4 4
  let gs := s.members4.filter (fun x => g == 0 || x == g)
  if gs.isEmpty then none else some (s.igmpReport port 2 gs)

/-- The answer to an MLD query, likewise. -/
def State.answerMld (s : State) (port : Nat) (p : Packet) : Option State :=
  let g := beAt p.body 8 16
  let gs := s.members6.filter (fun x => g == 0 || x == g)
  if gs.isEmpty then none else some (s.mldReport port 2 gs)

/-! ## Receive queues (R352, R353) -/

/-- Bytes of a receive queue (R352). -/
def rxSize : Nat := 65536

/-- The bytes receive queue `q` holds. -/
def State.rxBytes (s : State) (q : Nat) : List Byte := Sparse.get (fun _ => []) s.rxq q

/-- Replaces them; RQ_LEVEL follows. -/
def State.setRx (s : State) (q : Nat) (bs : List Byte) : State :=
  ({ s with rxq := Sparse.set (fun _ => []) s.rxq q bs } : State).setReg .RQ_LEVEL q bs.length

/-- Whether a queue's filter matches a frame (R352). -/
def State.rxMatches (s : State) (q port : Nat) (e : Ether) : Bool :=
  bit (s.reg .RQ_PORTS q) port &&
    (match s.reg .RQ_KIND q with
     | 0 => false
     | 1 => e.etype == s.reg .RQ_VALUE q % 65536
     | 2 => (match Packet.ofEther e with
        | some p => p.udpPort == some (s.reg .RQ_VALUE q % 65536) && s.ownIp p
        | none => false)
     | _ => true)

/-- The record of a frame (R353). -/
def rxRecord (port sub time : Nat) (holdover : Bool) (f : List Byte) : List Byte :=
  let h := packBits [(14, f.length), (1, 0), (1, port), (8, sub), (8, b2n holdover), (32, 0), (64, time)]
  leBytes 16 h ++ f ++ List.replicate ((8 - f.length % 8) % 8) (BitVec.ofNat 8 0)

/-- A frame no rule before claims goes to the lowest-numbered receive queue whose filter matches it, or
is discarded and counted (R345, R352, R353). -/
def State.toQueue (s : State) (port sub time : Nat) (e : Ether) (f : List Byte) : State :=
  match (List.range 64).find? (fun q => s.rxMatches q port e) with
  | none => s.bump .NET_UNCLAIMED 0
  | some q =>
    let r := rxRecord port sub time (!s.timeLocked) f
    if rxSize < (s.rxBytes q).length + r.length then s.bump .RQ_DROPS q
    else (s.setRx q (s.rxBytes q ++ r)).bump .RQ_FRAMES q

/-- The answer of step 4 of R345 to a frame; `none` where it gets none and goes on to step 5. -/
def State.answerFrame (s : State) (port sub : Nat) (e : Ether) : Option State :=
  if e.etype = 0x0806 then s.answerArp port sub e
  else match Packet.ofEther e with
    | none => none
    | some p =>
      let own := s.ownIp p
      let type := beAt p.body 0 1
      if own && p.ver == 4 && p.proto == 1 && type == 8 then s.answerEcho4 port sub e p
      else if p.ver = 4 ∧ p.proto = 2 ∧ type = 0x11 then s.answerIgmp port p
      else if p.ver = 6 ∧ p.proto = 58 ∧ type = 130 then s.answerMld port p
      else if p.ver = 6 ∧ p.proto = 58 ∧ (type = 135 ∨ (own = true ∧ type = 128)) then s.answerIcmp6 port sub e p
      else none

/-- A frame reaches the device side of the switch (R344, R345). PTP messages, stream packets and control
datagrams are carried to their units by the commands of those units. -/
def State.deliver (s : State) (port sub time : Nat) (f : List Byte) : State :=
  let e := Ether.ofBytes f
  let toUnit (p : Packet) : Bool := s.ownIp p
    && (p.fragment || p.udpPort == some (s.reg .ING_PORT 0) || p.udpPort == some (s.reg .PLV_PORT 0))
  if e.tagged && e.vid != 0 && e.vid != s.reg .NET_VID 0 then s
  else if (ptpAt f).isSome || (Packet.ofEther e).any toUnit then s
  else (s.answerFrame port sub e).getD (s.toQueue port sub time e f)

/-! ## The switch (R348 to R351, R363) -/

/-- Whether a frame goes to the other port, and to the device (R348). -/
def State.switchTo (s : State) (dst : Nat) : Bool × Bool :=
  if dst = s.mac then (false, true)
  else if dst = 0xFFFFFFFFFFFF then (true, true)
  else if dst = 0x0180C2000000 then (true, false)
  else if dst = 0x0180C200000E then (false, true)
  else if 0x0180C2000001 ≤ dst ∧ dst ≤ 0x0180C200000F then (false, false)
  else if dst / 2 ^ 40 % 2 = 1 then (true, s.memberMac dst)
  else (true, false)

/-- Whether the transparent clock forwards a PTP message (R363). -/
def State.ptpForwarded (s : State) (f : List Byte) : Bool :=
  match ptpAt f with
  | none => true
  | some (off, _) =>
    let kind := beAt f off 1 % 16
    if s.reg .PTP_TC_EN 0 = 0 then true
    else if kind = 2 ∨ kind = 3 ∨ kind = 10 then false
    else if s.reg .PTP_DELAY_MECH 0 = 1 then !(kind == 1 || kind == 9)
    else true

/-- Whether a PTP message over IPv6 without trailing bytes must be stored whole (R364). -/
def storeWhole (f : List Byte) : Bool :=
  match ptpAt f with
  | some (off, 6) =>
    (beAt f off 1 % 16 == 0 || beAt f off 1 % 16 == 1)
      && decide (beAt f (off - 4) 2 < 8 + beAt f (off + 2) 2 + 2)
  | _ => false

/-- The rate of a mode's switch link, in Gb/s (R342). -/
def modeRate : Nat → Nat
  | 1 => 100 | 2 => 25 | 3 => 10 | _ => 0

/-- Whether a frame cuts through to port `out` (R350, R364). -/
def State.cutsThrough (s : State) (inp out : Nat) (f : List Byte) : Bool :=
  !s.egress.any (fun x => x.port == out)
    && decide (modeRate (s.reg .ETH_MODE out) ≤ modeRate (s.reg .ETH_MODE inp))
    && !(s.reg .PTP_TC_EN 0 == 1 && storeWhole f)

/-- A frame is forwarded (R349 to R351): `rx` and `tx` are its time stamps at the balls, in 2^-48 ns,
`tx` where it leaves at once. -/
def State.forward (s : State) (inp : Nat) (f : List Byte) (bad : Bool) (rx tx : Nat) : State :=
  let out := 1 - inp
  if !s.linkUp out 0 || !s.ptpForwarded f then s
  else
    let e := Ether.ofBytes f
    let q := if e.tagged then e.pcp else s.reg .ETH_DEF_PCP inp
    let owes := s.reg .PTP_TC_EN 0 == 1 && residenceOwed f
    let frame (cut : Bool) : EgressFrame := ⟨out, 0, q, f.length, none, false, cut,
      if owes then some (inp, rx) else none, .frame out 0 f⟩
    if s.cutsThrough inp out f then
      let (g, s1) := s.stampFrame (frame true) tx
      let msg := match bad, g.msg with
        | true, .frame p sub bs => OutMsg.stomped p sub bs
        | _, m => m
      let s2 := { s1 with egress := { g with started := true, msg := msg } :: s1.egress }
      (s2.bump .ETH_CUT out).cond bad (fun t => t.bump .ETH_STOMPED out)
    else if bad then s
    else if egressSize < s.egressLevel out q + f.length then s.bump .ETH_FWD_DROPS out
    else (({ s with egress := s.egress ++ [frame false] } : State).bump .ETH_STORED out).portStart out tx

/-- The longest frame (R343). -/
def frameMax : Nat := 9600

/-- ETH_FRAME_RECEIVE (R342 to R353): a frame of a link that is up is counted, forwarded by the switch
and delivered to the device, from sub-ports 1 to 3 to the device only (R343); a bad or oversized frame is discarded, or stomped where it cuts through. -/
def execEthFrameReceive (port : Fin 2) (sub : Fin 4) (f : List Byte) (bad : Bool) (corr uncorr rx tx : Nat)
    (s : State) : Out :=
  let p := port.val
  if s.linkUp p sub.val = false then .next s
  else
    let fec (n : Nat) : Nat := if s.reg .iETH_FEC (4 * p + sub.val) = 0 then 0 else n
    let s1 := (((s.send []).bump .ETH_RX_FRAMES p).bumpBy .ETH_FEC_CORR p (fec corr)).bumpBy .ETH_FEC_UNCORR p
      (fec uncorr)
    let tooLong := decide (frameMax < f.length)
    let s2 := s1.cond tooLong (fun t => t.bump .ETH_OVERSIZE p)
    let wrong := bad || tooLong
    let e := Ether.ofBytes f
    let (fwd, dev) := if sub.val = 0 then s2.switchTo e.dst else (false, true)
    let alive := s2.reg .iPHASE 0 != 4
    let cut := fwd && s2.linkUp (1 - p) 0 && s2.ptpForwarded f
      && s2.cutsThrough p (1 - p) f
    let s3 := s2.cond (wrong && !cut) (fun t => t.bump .ETH_FCS_ERR p)
    let s4 := s3.cond fwd (fun t => t.forward p f wrong rx tx)
    if wrong then .next s4
    else
      let s5 := { s4 with macs := Sparse.set (fun _ => 0) s4.macs e.src (4 * p + sub.val) }
      let ptpAway := sub.val != 0 && (ptpAt f).isSome
      .next (s5.cond (dev && alive && !ptpAway) (fun t => t.deliver p sub.val (rx >>> 48) f))

/-- EGRESS_FRAME_SENT (R349): the frame has left, its room is free, and the port begins its next frame,
whose time stamp is `tx`. -/
def execEgressFrameSent (port : Fin 2) (tx : Nat) (s : State) : Out :=
  match s.egress.find? (fun f => f.port == port.val && f.started) with
  | none => .next (s.portStart port.val tx)
  | some f =>
    let s1 := ({ s with egress := s.egress.erase f } : State).send [f.msg]
    .next ((s1.bump .ETH_TX_FRAMES port.val).portStart port.val tx)

/-! ## Links and parameters (R342, R357, R374) -/

/-- The sub-ports that a mode has (R342). -/
def modeSubs : Nat → Nat
  | 1 => 1 | 2 => 4 | 3 => 1 | _ => 0

/-- A link goes down (R342): its frame under way is lost, and the PTP port of sub-port 0 is FAULTY. -/
def State.dropLink (s : State) (port sub : Nat) : State :=
  if s.linkUp port sub = false then s
  else
    let s1 := s.setReg .ETH_LINK port (setBit (s.reg .ETH_LINK port) sub false)
    let s2 := { s1 with egress := s1.egress.filter (fun f => !(f.port == port && f.sub == sub && f.started)) }
    (s2.cond (sub == 0) (fun t => t.setReg .PP_STATE port 0)).raise Code.linkDown
      (some (s2.reg .ETH_QUEUE port)) [(8, port), (8, sub)]

/-- Every link of a port goes down. -/
def State.dropPort (s : State) (port : Nat) : State := forN 4 s (fun t k => t.dropLink port k)

/-- The parameter ETH_MODE_WRITE writes. -/
def ethReg : EthParam → Reg
  | .mode => .ETH_MODE | .fec => .ETH_FEC | .an => .ETH_AN

/-- ETH_MODE_WRITE (R342). -/
def execEthModeWrite (acc : Accessor) (port : Fin 2) (p : EthParam) (v : BitVec 8) (s : State) : Out :=
  .next (writeParam s acc (ethReg p) port.val v.toNat (fun t =>
    (t.putReg (ethReg p) port.val v.toNat).dropPort port.val))

/-- The FEC a link uses (R342): 0 none, 1 RS, 2 BASE-R. BASE-R is a FEC of 25G only, and the manual gives no
FEC to a 100G link on which ETH_FEC asks for it: the model uses none there (DESIGN CHOICE). -/
def State.fecOf (s : State) (port : Nat) (m : Module) : Nat :=
  let mode := s.reg .ETH_MODE port
  if mode = 3 then 0
  else match s.reg .ETH_FEC port with
    | 0 => b2n (m != .other)
    | 1 => 1
    | 2 => if mode = 2 then 2 else 0
    | _ => 0

/-- Whether the Ethernet ports have been started: at RUNNING or in RECOVERY (R490, R491), and they run on over a
thermal restart (R480). -/
def State.portsRun (s : State) : Bool := s.reg .iPHASE 0 != 0 || s.reg .SU_LAST_RESET 0 == 2

/-- LINK_UP (R342, R357): a link of the mode in force comes up while PLL-NT is locked, with the FEC that ETH_FEC
and the module give it. -/
def execLinkUp (port : Fin 2) (sub : Fin 4) (m : Module) (s : State) : Out :=
  let p := port.val
  if sub.val < modeSubs (s.reg .ETH_MODE p) ∧ s.linkUp p sub.val = false ∧ s.reg .CK_STATE 5 = 3 ∧ s.portsRun = true then
    let s1 := (s.setReg .ETH_LINK p (setBit (s.reg .ETH_LINK p) sub.val true)).setReg .iETH_FEC (4 * p + sub.val)
      (s.fecOf p m)
    let s2 := s1.cond (sub.val == 0) (fun t => t.setReg .PP_STATE p 1)
    .next (s2.raise Code.linkUp (some (s2.reg .ETH_QUEUE p)) [(8, p), (8, sub.val)])
  else .next s

/-- RQ_PARAM_WRITE (R374): the write empties the queue. -/
def execRqParamWrite (acc : Accessor) (q : Fin 64) (p : RqParam) (v : Nat) (s : State) : Out :=
  let r : Reg := match p with | .kind => .RQ_KIND | .value => .RQ_VALUE | .ports => .RQ_PORTS
  .next (writeParam s acc r q.val v (fun t => (t.putReg r q.val v).setRx q.val []))

end Sys2Proof.Machine
end

