-- ==== Sys2Proof/Machine/Lace.lean ====
section
/-! DEFINITION. Laces (10_laces_skivers.md, R312 to R326): descriptors, bursts, completion, errors, bus
errors, enabling. -/
namespace Sys2Proof.Machine

/-! ## Descriptors (R312 to R314) -/

/-- A lace descriptor with the fields of R313. -/
structure LaceDesc where
  src : Nat
  dst : Nat
  next : Nat
  length : Nat
  tag : Nat
  burst : Nat
  req : Nat
  srcSpace : Nat
  dstSpace : Nat
  op : Nat
  noteHalf : Bool
  noteFull : Bool
  portq : Nat
  writeback : Bool
  rsvd : Nat
  deriving DecidableEq, Repr

/-- The 64 bytes of a descriptor (R313). -/
def LaceDesc.ofWord (w : Nat) : LaceDesc :=
  ⟨bits w 511 448, bits w 447 384, bits w 383 320, bits w 319 288, bits w 287 272, bits w 271 256,
    bits w 255 252, bits w 251 248, bits w 247 244, bits w 243 242, bit w 241, bit w 240, bits w 239 232,
    bit w 231, bits w 230 128⟩

/-- The active descriptor of a lace. -/
def State.laceDesc (s : State) (n : Nat) : LaceDesc := LaceDesc.ofWord (s.reg .LC_CUR_DESC n)

/-- Bytes of the Keeper as a lace addresses it (R312). -/
def keeperSize : Nat := 524288

/-- Whether a descriptor reads a source. -/
def LaceDesc.reads (d : LaceDesc) : Bool := d.op != 1

/-- Whether a space of a descriptor reaches beyond its end (R314). -/
def spaceOver (space a len : Nat) : Bool :=
  (space == 0 && decide (storeSize < a + len)) || (space == 3 && decide (keeperSize < a + len))

/-- Whether a descriptor ends with LACE_BAD_DESC before any byte moves (R314). -/
def LaceDesc.bad (d : LaceDesc) (busMaster : Bool) : Bool :=
  d.rsvd != 0 || d.op == 3 || decide (14 ≤ d.req) || decide (1024 < d.burst)
    || (d.op == 1 && d.srcSpace != 0)
    || d.length == 0 || d.next % 64 != 0
    || (d.reads && (d.srcSpace == 2 || decide (4 < d.srcSpace)))
    || (d.srcSpace == 4 && (d.op != 0 || d.src != 0 || decide (63 < d.portq)))
    || decide (3 < d.dstSpace)
    || (d.dstSpace == 2 && (d.op == 2 || d.dst != 0 || bits d.portq 6 3 != 0
        || decide (d.length < 60) || decide (9600 < d.length)))
    || (d.dstSpace != 2 && d.srcSpace != 4 && d.req != 1 && d.req != 2 && d.req != 3 && d.portq != 0)
    || (d.dstSpace == 3 && (d.dst % 256 != 0 || d.length % 256 != 0))
    || (d.reads && spaceOver d.srcSpace d.src d.length) || spaceOver d.dstSpace d.dst d.length
    || (!busMaster && ((d.reads && d.srcSpace == 1) || d.dstSpace == 1))

/-- The master of a lace (R28). -/
def laceMaster (n : Nat) : Master := coreMaster (Fin.ofNat 256 (0x10 + n))

/-- Egress port and queue that PORTQ names (R313). -/
def LaceDesc.egress (d : LaceDesc) : Nat × Nat := (d.portq / 128, d.portq % 8)

/-! ## How a descriptor ends (R320, R321, R323, R326) -/

/-- A notification of a lace (R321, R408). -/
def State.laceNote (s : State) (n code tag result : Nat) : State :=
  s.raise code (some (s.reg .LC_QUEUE n)) [(8, n), (16, tag), (16, result), (64, s.reg .LC_CUR_ADDR n)]

/-- A window failure ended a lace's descriptor (R30, R321, R323): the lace is FROZEN with its progress, and
LACE_DONE carries MASTER_FROZEN. A frozen lace writes no record. -/
def State.laceFrozen (s : State) (n : Nat) : State :=
  let s1 := s.cond ((s.laceDesc n).op == 2) (fun t => t.setReg .LC_MISMATCH n 0xFFFFFFFF)
  ((s1.setReg .LC_STATE n 7).setReg .LC_RESULT n Code.masterFrozen).laceNote n Code.laceDone
    (s.laceDesc n).tag Code.masterFrozen

/-- The descriptor's completion record (R313), written where WRITEBACK is set and it came from the
store; true where that write froze the lace. -/
def State.laceRecord (s : State) (n result : Nat) : Bool × State :=
  let d := s.laceDesc n
  let mis := s.reg .LC_DONE n - 1
  let s1 := (s.setReg .LC_RESULT n result).cond (d.op == 2) (fun t =>
    t.setReg .LC_MISMATCH n (if result = Code.laceMismatch then mis else 0xFFFFFFFF))
  if d.writeback && s.reg .LC_CUR_ADDR n != 0 then
    let (f, s2) := s1.store (laceMaster n) .lace (s.reg .LC_CUR_ADDR n) (leBytes 16 (packBits [(1, 1),
      (47, 0), (32, if result = Code.laceMismatch then mis else 0xFFFFFFFF), (32, s.reg .LC_DONE n),
      (16, result)]))
    (f, s2.cond f (fun t => t.laceFrozen n))
  else (false, s1)

/-- The partial frame of a lace is discarded unsent (R324). -/
def State.dropPartial (s : State) (n : Nat) : State :=
  { s with egress := s.egress.filter (fun f => f.lace != some n) }

/-- A lace without a descriptor is IDLE, or DISABLED where its enable is 0 (R316, R326). -/
def State.laceIdle (s : State) (n abandoned : Nat) : State :=
  let s0 := s.setReg .iLC_ABANDON n 0
  let s1 := { s0 with laceBytes := Sparse.set (fun _ => []) s0.laceBytes n [] }
  if s1.reg .LC_ENABLE n = 1 then s1.setReg .LC_STATE n 0
  else (s1.setReg .LC_STATE n 8).raiseDisabled .LC_ENABLE n abandoned

/-- A descriptor completes, with RESULT 0 or LACE_MISMATCH: record and LACE_DONE; then the next of its
chain is due, or the lace is idle (R316, R320, R321). A lace that drains takes no further one, and
LC_CUR_ADDR points to it (R326). -/
def State.laceDone (s : State) (n result : Nat) : State :=
  let d := s.laceDesc n
  let (frozen, s1) := s.laceRecord n result
  if frozen then s1
  else
    let s2 := s1.cond d.noteFull (fun t => t.laceNote n Code.laceDone d.tag result)
    if s2.reg .LC_ENABLE n = 0 then (s2.setReg .LC_CUR_ADDR n d.next).laceIdle n 0
    else if d.next = 0 then s2.laceIdle n 0
    else (s2.setReg .iLC_NEXT n d.next).setReg .LC_STATE n 4

/-- A page write of a lace not yet started is withdrawn. -/
def State.dropPage (s : State) (n : Nat) : State :=
  let mine (w : PageWrite) := w.by_ == .lace n
  ({ s with keeperQueue := s.keeperQueue.filter (fun w => !mine w) } : State).setReg .iLC_PAGE n
    (b2n (s.keeperBusy.any mine))

/-- An error ends a descriptor and its chain (R321, R323): record, LACE_DONE, ERROR. -/
def State.laceFail (s : State) (n code tag : Nat) : State :=
  let (frozen, s1) := s.laceRecord n code
  if frozen then s1
  else
    let s2 := ((s1.laceNote n Code.laceDone tag code).dropPage n).setReg .iLC_BURST n 0
    if s2.reg .LC_ENABLE n = 0 then s2.laceIdle n 0
    else ({ s2 with laceBytes := Sparse.set (fun _ => []) s2.laceBytes n [] } : State).setReg .LC_STATE n 5

/-- A lace is abandoned (R326): no further request; a page write under way first runs to its end. -/
def State.laceAbandon (s : State) (n : Nat) : State :=
  let s1 := ((s.dropPage n).dropPartial n).setReg .iLC_ABANDON n 1
  if s1.reg .iLC_PAGE n = 1 then s1
  else
    let tag := (s1.laceDesc n).tag
    let (frozen, s2) := s1.laceRecord n Code.jobAbandoned
    if frozen then s2
    else ((s2.laceNote n Code.laceDone tag Code.jobAbandoned).setReg .iLC_BURST n 0).laceIdle n 1

/-- `k` more bytes of a descriptor are complete (R320). -/
def State.laceComplete (s : State) (n k : Nat) : State :=
  (s.bumpBy .LC_DONE n k).bumpBy .LC_BYTES n k

/-! ## Taking a descriptor (R315, R316) -/

/-- A descriptor comes into force: it is checked, and runs (R314, R316). -/
def State.laceBegin (s : State) (n word addr : Nat) : State :=
  let d := LaceDesc.ofWord word
  let s1 := ((((((((((s.setReg .iLC_WDRAW n 0).setReg .LC_CUR_DESC n word).setReg .LC_CUR_ADDR n addr).setReg .LC_DONE n 0).setReg
    .iLC_POS n 0).setReg .iLC_BURST n 0).setReg .iLC_EVENT n 0).setReg .iLC_NEXT n 0).setReg .iLC_NODESC n
    0).setReg .iLC_HALF n (b2n !d.noteHalf)).setReg .LC_STATE n 3
  if d.bad (s.reg .iF2_BM 0 == 1) then s1.laceFail n Code.laceBadDesc d.tag else s1

/-- Whether laces may start transfers (R324, R325, R439). -/
def State.lacesRun (s : State) : Bool := s.reg .LS_BUS_STATE 0 == 0 && s.reg .iPHASE 0 != 4

/-- LACE_DESCRIPTOR_START (R316): the next descriptor of the chain is fetched, or the armed shadow is
taken. One that reads as poisoned ends the lace with POISON; its TAG is not known. One whose read fails the
window check leaves the lace FROZEN, and no descriptor has ended. -/
def execLaceDescriptorStart (n : Fin 64) (seen : Seen) (s : State) : Out :=
  let k := n.val
  if !s.lacesRun || s.reg .LC_ENABLE k == 0 then .next s
  else if s.reg .LC_STATE k = 4 ∧ s.reg .iLC_NEXT k ≠ 0 ∧ s.storeServes = true then
    let a := s.reg .iLC_NEXT k
    let (r, s1) := (s.see seen).fetch (laceMaster k) .lace a 64
    if r.frozen then .next (s1.see s.seen)
    else if r.poisoned.isEmpty then .next ((s1.laceBegin k (leNat r.data) a).see s.seen)
    else
      let (tag, s2) := s1.draw
      .next (((((((s2.setReg .LC_CUR_ADDR k a).setReg .LC_CUR_DESC k 0).setReg .LC_DONE k 0).setReg .iLC_NEXT
        k 0).setReg .iLC_NODESC k 1).laceFail k Code.poison tag).see s.seen)
  else if s.reg .LC_STATE k = 0 ∧ s.reg .LC_SH_STATE k = 1 then
    .next ((s.setReg .LC_SH_STATE k 0).laceBegin k (s.reg .LC_SH_DESC k) 0)
  else .next s

/-- LC_SH_DESC_WRITE (R315). -/
def execLcShDescWrite (acc : Accessor) (n : Fin 64) (d : BitVec 512) (s : State) : Out :=
  .next (writeParam s acc .LC_SH_DESC n.val d.toNat (fun t =>
    if t.reg .LC_SH_STATE n.val = 1 then t.refuse Code.laceBusy
    else t.setReg .LC_SH_DESC n.val d.toNat))

/-- LC_ARM (R315). -/
def execLcArm (acc : Accessor) (n : Fin 64) (s : State) : Out :=
  .next (writeParam s acc .LC_ARM n.val 1 (fun t => t.setReg .LC_SH_STATE n.val 1))

/-- LC_DISARM (R315). -/
def execLcDisarm (acc : Accessor) (n : Fin 64) (s : State) : Out :=
  .next (writeParam s acc .LC_ARM n.val 2 (fun t => t.setReg .LC_SH_STATE n.val 0))

/-! ## Bursts (R317 to R319) -/

/-- Whether what a receive queue holds ends a frame or reaches `n` bytes (R318): whole records only
enter it, so any byte held belongs to a frame whose end is held. -/
def State.rxReady (s : State) (q n : Nat) : Bool :=
  decide (n ≤ (s.rxBytes q).length) || !(s.rxBytes q).isEmpty

/-- Whether the peripheral request permits a burst of `n` bytes (R318). -/
def State.lacePermits (s : State) (k : Nat) (d : LaceDesc) (n : Nat) : Bool :=
  match d.req with
  | 0 => true
  | 1 => decide (s.egressLevel 0 (d.portq % 8) + n ≤ egressSize)
  | 2 => decide (s.egressLevel 1 (d.portq % 8) + n ≤ egressSize)
  | 3 => s.rxReady (d.portq % 64) n
  | _ => s.reg .iLC_EVENT k == 1

/-- The pattern bytes of a FILL from offset `o` (R317). -/
def fillBytes (d : LaceDesc) (o n : Nat) : List Byte :=
  let base := if d.dstSpace = 2 then 0 else d.dst
  (List.range n).map (fun j => BitVec.ofNat 8 (d.src >>> (8 * ((base + o + j) % 8))))

/-- How a read or a write of a lace went wrong. -/
inductive LaceTrouble where
  | none_
  | poison
  | frozen
  deriving DecidableEq, Repr

/-- A lace reads a space (R312, R320): the bytes before the first poisoned unit, and what stopped it: a
freeze before poison, since a frozen lace is released only through MS_RELEASE (R323). `host` is what the
completion on F2 brings. -/
def State.laceRead (s : State) (k space a n portq : Nat) (host : List Byte) :
    List Byte × LaceTrouble × State :=
  match space with
  | 0 =>
    let (r, s1) := s.fetch (laceMaster k) .lace a n
    if r.poisoned.isEmpty then (r.data, if r.frozen then .frozen else .none_, s1)
    else
      let w := r.poisoned.foldl min (r.poisoned.headD 0)
      (r.data.take (32 * w - a), if r.frozen then .frozen else .poison, s1)
  | 1 => (host.take n, .none_, s)
  | 3 =>
    let (bs, bad, s1) := s.keeperRead a n
    match bad with
    | none => (bs, .none_, s1)
    | some g => (bs, .poison, s1.logBadGroup g 1 (0x10 + k))
  | _ =>
    let q := portq % 64
    let have_ := s.rxBytes q
    (have_.take n, .none_, s.setRx q (have_.drop n))

/-- Parts of a write in turn (R272), up to one that fails the check: the bytes written. -/
def State.laceStore (s : State) (k : Nat) : List (Nat × Nat) → List Byte → Nat × Bool × State
  | [], _ => (0, false, s)
  | (a, n) :: ps, data =>
    let (f, s1) := s.writePart (laceMaster k) .lace a (data.take n)
    if f then (0, true, s1)
    else
      let (m, g, s2) := s1.laceStore k ps (data.drop n)
      (n + m, g, s2)

/-- The position advances by `n` bytes moved; at the end of the descriptor the lace is COMPLETING. -/
def State.laceMoved (s : State) (k n : Nat) : State :=
  let s1 := (s.bumpBy .iLC_POS k n).setReg .iLC_BURST k (s.reg .iLC_BURST k - n)
  if s1.reg .iLC_POS k = (s1.laceDesc k).length ∧ s1.reg .iLC_PAGE k = 0 then s1.setReg .LC_STATE k 4 else s1

/-- Bytes enter the port buffer as part of a lace's frame; the whole frame is then the port's to send
(R312, R318). -/
def State.laceEgress (s : State) (k : Nat) (d : LaceDesc) (bs : List Byte) : State :=
  let (port, q) := d.egress
  let old := match s.egress.find? (fun f => f.lace == some k) with
    | some ⟨_, _, _, _, _, _, _, _, .frame _ _ b⟩ => b
    | _ => []
  let all := old ++ bs
  let whole := decide (d.length ≤ s.reg .iLC_POS k + bs.length)
  let f : EgressFrame := ⟨port, 0, q, all.length, if whole then none else some k, false, false, none,
    .frame port 0 all⟩
  let rest := s.egress.filter (fun x => x.lace != some k)
  let s1 := { s with egress := rest ++ [f] }
  if whole then s1.portStart port s1.stampNow else s1

/-- A lace's data reach their destination (R317, R320): the bytes taken, and whether a check failed. -/
def State.laceWrite (s : State) (k : Nat) (d : LaceDesc) (bs : List Byte) : State :=
  let o := s.reg .iLC_POS k
  match d.dstSpace with
  | 0 =>
    let (n, frozen, s1) := s.laceStore k (splitParts (d.dst + o) bs.length) bs
    let s2 := (s1.laceComplete k n).laceMoved k n
    s2.cond frozen (fun t => t.laceFrozen k)
  | 1 => (s.sendMore [.host (d.dst + o) bs]).laceMoved k bs.length
  | 2 => ((s.laceEgress k d bs).laceComplete k bs.length).laceMoved k bs.length
  | _ =>
    let page := Sparse.get (fun _ => []) s.laceBytes k ++ bs
    if page.length < 256 then
      ({ s with laceBytes := Sparse.set (fun _ => []) s.laceBytes k page } : State).laceMoved k bs.length
    else
      let s1 : State := { s with
        laceBytes := Sparse.set (fun _ => []) s.laceBytes k []
        keeperQueue := s.keeperQueue ++ [⟨(d.dst + o + bs.length - 1) / 256, page.take 256, .lace k⟩] }
      (((s1.setReg .iLC_PAGE k 1).laceMoved k bs.length).setReg .LC_STATE k 2)

/-- Whether the first half is complete and LACE_HALF is due. -/
def State.halfDue (s : State) (k : Nat) : Bool :=
  s.reg .iLC_HALF k == 0 && decide ((s.laceDesc k).length ≤ 2 * s.reg .LC_DONE k)

/-- LACE_HALF is posted, once. -/
def State.postHalf (s : State) (k : Nat) : State :=
  (s.setReg .iLC_HALF k 1).laceNote k Code.laceHalf (s.laceDesc k).tag 0

/-- The first offset at which two lists differ. -/
def firstDiff : List Byte → List Byte → Nat
  | a :: as, b :: bs => if a = b then firstDiff as bs + 1 else 0
  | _, _ => 0

/-- A COMPARE of bytes at the lace's position (R317): the first difference ends the descriptor, compared
itself and so complete, after the LACE_HALF that the bytes up to it made due (R320, R321). -/
def State.laceCompare (s : State) (k : Nat) (d : LaceDesc) (xs : List Byte) (host : List Byte) : State :=
  let o := s.reg .iLC_POS k
  let (ys, bad, s1) := s.laceRead k d.dstSpace (d.dst + o) xs.length d.portq host
  let n := min xs.length ys.length
  let j := firstDiff (xs.take n) (ys.take n)
  if bad = .frozen then (s1.laceComplete k j).laceFrozen k
  else if xs.take n ≠ ys.take n then
    let s2 := s1.laceComplete k (j + 1)
    (s2.cond (s2.halfDue k) (fun t => t.postHalf k)).laceDone k Code.laceMismatch
  else
    let s2 := (s1.laceComplete k n).laceMoved k n
    if bad = .poison then s2.laceFail k Code.poison d.tag else s2

/-- Bytes a lace can move now: what is left of the burst, of the page, and of what source and
destination hold or have room for. -/
def State.laceReady (s : State) (k : Nat) (d : LaceDesc) (left : Nat) (src dst : List Byte) : Nat :=
  let a := if d.reads && d.srcSpace == 1 then min left src.length else left
  let b := if d.op = 2 ∧ d.dstSpace = 1 then min a dst.length else a
  let c := if d.srcSpace = 4 then min b (s.rxBytes (d.portq % 64)).length else b
  if d.dstSpace = 2 then min c (egressSize - s.egressLevel d.egress.1 d.egress.2)
  else if d.dstSpace = 3 ∧ d.op ≠ 2 then min c (256 - (Sparse.get (fun _ => []) s.laceBytes k).length)
  else c

/-- Whether a range of the Keeper touches a page being written: a read of it waits (R450). -/
def State.keeperRangeBusy (s : State) (a n : Nat) : Bool :=
  s.keeperBusy.any (fun w => decide (a < 256 * w.page + 256) && decide (256 * w.page < a + n))

/-- Whether the spaces of a descriptor answer now (R296, R450). -/
def State.laceServed (s : State) (k : Nat) (d : LaceDesc) (n : Nat) : Bool :=
  let o := s.reg .iLC_POS k
  (s.storeServes || !((d.reads && d.srcSpace == 0) || d.dstSpace == 0))
    && !(d.reads && d.srcSpace == 3 && s.keeperRangeBusy (d.src + o) n)
    && !(d.op == 2 && d.dstSpace == 3 && s.keeperRangeBusy (d.dst + o) n)

/-- One move inside a burst. A freeze ends it with nothing more issued; poison in the source ends the
descriptor once the bytes before it moved, unless they ended it themselves (R323). -/
def State.laceMove (s : State) (k : Nat) (d : LaceDesc) (n : Nat) (src dst : List Byte) : State :=
  let o := s.reg .iLC_POS k
  let (xs, bad, s1) := if d.reads then s.laceRead k d.srcSpace (d.src + o) n d.portq src
    else (fillBytes d o n, .none_, s)
  if bad = .frozen then s1.laceFrozen k
  else
    let s2 := if xs.isEmpty then s1
      else if d.op = 2 then s1.laceCompare k d xs dst else s1.laceWrite k d xs
    if bad = .poison ∧ s2.reg .iLC_POS k = o + xs.length ∧ s2.reg .LC_STATE k ≠ 7 then
      s2.laceFail k Code.poison d.tag
    else s2

/-- The level request of the burst under way was withdrawn, now or before: once the burst has run to its end
that counts (R319). `from_` is the lace before its move. -/
def State.noteWithdrawn (s : State) (k : Nat) (withdrawn : Bool) (from_ : State) : State :=
  let s1 := s.cond withdrawn (fun t => t.setReg .iLC_WDRAW k 1)
  s1.cond (s1.reg .iLC_WDRAW k == 1 && s.reg .iLC_POS k == from_.reg .iLC_POS k + from_.reg .iLC_BURST k)
    (fun t => t.bump .LC_WITHDRAWN k)

/-- LACE_BURST (R318, R319): a burst starts when its request permits it, else the lace is WAIT_REQ; it
moves what it can. -/
def execLaceBurst (n : Fin 64) (src dst : List Byte) (withdrawn : Bool) (seen : Seen) (s : State) : Out :=
  let k := n.val
  let d := s.laceDesc k
  if !s.lacesRun || !s.laceActive k || s.reg .iLC_PAGE k == 1 || s.reg .iLC_POS k == d.length then .next s
  else
    let rest := d.length - s.reg .iLC_POS k
    let want := if d.burst = 0 then rest else min (64 * d.burst) rest
    let fresh := s.reg .iLC_BURST k == 0
    if fresh && !s.lacePermits k d want then .next (s.setReg .LC_STATE k 1)
    else
      let s1 := (s.send []).cond fresh (fun t =>
        ((t.setReg .iLC_BURST k want).setReg .iLC_WDRAW k 0).cond (decide (4 ≤ d.req)) (fun u => u.setReg .iLC_EVENT k 0))
      let s2 := s1.setReg .LC_STATE k 3
      let m := s2.laceReady k d (s2.reg .iLC_BURST k) src dst
      if m = 0 ∨ s2.laceServed k d m = false then .next s2
      else
        let level := decide (1 ≤ d.req) && decide (d.req ≤ 3)
        .next ((((s2.see seen).laceMove k d m src dst).noteWithdrawn k (withdrawn && level) s2).see s.seen)

/-! ## Completion (R320, R321) -/

/-- To a HOST destination the bytes issued become complete with the read that follows them (R320). -/
def State.hostComplete (s : State) (k : Nat) : State :=
  let d := s.laceDesc k
  if d.dstSpace = 1 ∧ d.op ≠ 2 then s.laceComplete k (s.reg .iLC_POS k - s.reg .LC_DONE k) else s

/-- LACE_HALF (R320, R321). -/
def execLaceHalf (n : Fin 64) (s : State) : Out :=
  let k := n.val
  if s.laceActive k || (s.reg .LC_STATE k == 4 && s.reg .iLC_NEXT k == 0) then
    let s1 := if (s.laceDesc k).length ≤ 2 * s.reg .iLC_POS k then s.hostComplete k else s
    .next (s1.cond (s1.halfDue k) (fun t => t.postHalf k))
  else .next s

/-- LACE_COMPLETE (R316, R320, R321): every byte of the descriptor is complete; a record that is due waits
for the store (R296). -/
def execLaceComplete (n : Fin 64) (seen : Seen) (s : State) : Out :=
  let k := n.val
  let served := s.storeServes || !((s.laceDesc k).writeback && s.reg .LC_CUR_ADDR k != 0)
  if s.reg .LC_STATE k = 4 ∧ s.reg .iLC_NEXT k = 0 ∧ s.reg .LS_BUS_STATE 0 = 0 ∧ served = true then
    let s1 := (s.see seen).hostComplete k
    .next (((s1.cond (s1.halfDue k) (fun t => t.postHalf k)).laceDone k 0).see s.seen)
  else .next s

/-! ## Errors (R323 to R325) -/

/-- LACE_ERROR (R323): a completion on F2 whose TLP is poisoned, after good bytes, or an uncorrectable
Keeper group that a read of the lace finds, ends the descriptor with POISON. Errors that the store, the
Keeper's checks and the descriptor itself show end it within the commands that meet them. -/
def execLaceError (n : Fin 64) (e : LaceFault) (s : State) : Out :=
  let k := n.val
  let d := s.laceDesc k
  if !s.lacesRun || !s.laceActive k then .next s
  else
    let o := s.reg .iLC_POS k
    match e with
    | .poisonedCompletion good =>
      if (d.reads && d.srcSpace == 1) || (d.op == 2 && d.dstSpace == 1) then
        let m := min good.length (d.length - o)
        let s1 := if m = 0 ∨ (d.reads && d.srcSpace == 1) = false ∨ d.op = 2 then s
          else (s.send []).laceWrite k d (good.take m)
        .next (if s1.reg .LC_STATE k = 7 then s1 else s1.laceFail k Code.poison d.tag)
      else .next s
    | .keeperGroup g =>
      let inSrc := d.reads && d.srcSpace == 3 && decide (d.src + o < 16 * g + 16)
        && decide (16 * g < d.src + d.length)
      let inDst := d.op == 2 && d.dstSpace == 3 && decide (d.dst + o < 16 * g + 16)
        && decide (16 * g < d.dst + d.length)
      if inSrc || inDst then
        let s1 := { s with keeperBad := g :: s.keeperBad.filter (· != g) }
        .next ((s1.logBadGroup g 1 (0x10 + k)).laceFail k Code.poison d.tag)
      else .next s

/-- A bus error begins to stop the laces (R324): cause, lace and address are kept for the record. -/
def State.busError (s : State) (lace cause addr : Nat) : State :=
  if s.reg .LS_BUS_STATE 0 ≠ 0 then s
  else
    ((((s.setReg .LS_BUS_STATE 0 1).setReg .iLS_CAUSE 0 cause).setReg .iLS_LACE 0 lace).setReg .iLS_ADDR 0
      addr).bump .LS_BUS_ERRORS 0

/-- LACE_BUS_ERROR (R324): `cause` is 1 UR, 2 CA, 3 malformed, 4 timeout, 5 prefetcher parity, 6 Keeper
fault. -/
def execLaceBusError (n : Fin 64) (cause : Fin 6) (addr : BitVec 64) (s : State) : Out :=
  .next (s.busError n.val (cause.val + 1) addr.toNat)

/-- A lace that held a descriptor is STOPPED (R324). -/
def State.stopLace (s : State) (n : Nat) : State :=
  if s.laceActive n || (s.reg .LC_STATE n == 4 && s.reg .iLC_NEXT n == 0) then
    let s1 := ((s.dropPage n).dropPartial n).setReg .LC_STATE n 6
    let s2 := { s1 with laceBytes := Sparse.set (fun _ => []) s1.laceBytes n [] }
    let d := s.laceDesc n
    if d.dstSpace = 2 then s2.setReg .LC_DONE n 0 else s2
  else s

/-- LACE_BUS_STOPPED (R324): the last request in flight has ended, a Keeper page write of a lace
included. -/
def execLaceBusStopped (s : State) : Out :=
  let busy := s.keeperBusy.any (fun w => match w.by_ with | .lace _ => true | _ => false)
  if s.reg .LS_BUS_STATE 0 ≠ 1 ∨ busy = true then .next s
  else
    let s1 := (((s.setReg .LS_BUS_STATE 0 2).setReg .LS_BUS_CAUSE 0 (s.reg .iLS_CAUSE 0)).setReg .LS_BUS_LACE
      0 (s.reg .iLS_LACE 0)).setReg .LS_BUS_ADDR 0 (s.reg .iLS_ADDR 0)
    let s2 := forN 64 s1 State.stopLace
    .next (s2.raise Code.laceBusError none [(8, s.reg .iLS_CAUSE 0), (8, s.reg .iLS_LACE 0),
      (64, s.reg .iLS_ADDR 0)])

/-- LS_BUS_CLEAR (R325, R328). -/
def execLsBusClear (acc : Accessor) (s : State) : Out :=
  .next (writeParam s acc .LS_BUS_CLEAR 0 1 (fun t =>
    if t.reg .LS_BUS_STATE 0 = 2 then t.setReg .LS_BUS_STATE 0 0 else t.refuse Code.laceBusy))

/-- A failed or stopped descriptor runs again from LC_DONE; one that could not be read is fetched again
(R323, R325). -/
def State.laceResume (s : State) (n : Nat) : State :=
  if s.reg .iLC_NODESC n = 1 then
    ((s.setReg .iLC_NODESC n 0).setReg .iLC_NEXT n (s.reg .LC_CUR_ADDR n)).setReg .LC_STATE n 4
  else
    let d := s.laceDesc n
    let s1 := ((s.setReg .iLC_POS n (s.reg .LC_DONE n)).setReg .iLC_BURST n 0).setReg .iLC_EVENT n 0
    if d.bad (s.reg .iF2_BM 0 == 1) then s1.laceFail n Code.laceBadDesc d.tag
    else s1.setReg .LC_STATE n (if s.reg .LC_DONE n = d.length then 4 else 3)

/-- Whether LC_CTRL acts on a lace: it is in ERROR or STOPPED, and the bus is cleared (R323, R325). -/
def State.laceWaits (s : State) (n : Nat) : Bool :=
  (s.reg .LC_STATE n == 5 || s.reg .LC_STATE n == 6) && s.reg .LS_BUS_STATE 0 == 0

/-- LC_CTRL_RESUME (R323, R325). -/
def execLcCtrlResume (acc : Accessor) (n : Fin 64) (s : State) : Out :=
  .next (writeParam s acc .LC_CTRL n.val 1 (fun t => t.cond (t.laceWaits n.val) (fun u => u.laceResume n.val)))

/-- LC_CTRL_ABANDON (R323, R325). -/
def execLcCtrlAbandon (acc : Accessor) (n : Fin 64) (s : State) : Out :=
  .next (writeParam s acc .LC_CTRL n.val 2 (fun t => t.cond (t.laceWaits n.val) (fun u =>
    ((u.dropPartial n.val).setReg .iLC_NEXT n.val 0).laceIdle n.val 0)))

/-! ## Enabling (R326, R405, R407) -/

/-- LC_ENABLE written with 0 (R326). -/
def State.laceDisable (s : State) (n : Nat) : State :=
  if s.reg .LC_ENABLE n = 0 then s
  else
    let s1 := s.putReg .LC_ENABLE n 0
    let st := s.reg .LC_STATE n
    let between := st == 4 && s.reg .iLC_NEXT n != 0
    if between then
      (((s1.setReg .LC_CUR_ADDR n (s.reg .iLC_NEXT n)).setReg .iLC_NEXT n 0)).laceIdle n 0
    else if st = 0 ∨ st = 5 then s1.laceIdle n 0
    else if st = 7 ∨ st = 8 then s1
    else if s.reg .LC_DRAIN n = 1 then s1.laceAbandon n
    else s1

/-- LC_ENABLE written with 1 (R326, R405). -/
def State.laceEnable (s : State) (n : Nat) : State :=
  if s.reg .LC_ENABLE n = 0 ∧ s.reg .LC_STATE n ≠ 8 then s.refuse Code.funcDraining
  else (s.putReg .LC_ENABLE n 1).cond (s.reg .LC_STATE n == 8) (fun t => t.setReg .LC_STATE n 0)

/-- LC_ENABLE_DISABLE. -/
def execLcEnableDisable (acc : Accessor) (n : Fin 64) (s : State) : Out :=
  .next (writeParam s acc .LC_ENABLE n.val 0 (fun t => t.laceDisable n.val))

/-- LC_ENABLE_RESUME. -/
def execLcEnableResume (acc : Accessor) (n : Fin 64) (s : State) : Out :=
  .next (writeParam s acc .LC_ENABLE n.val 1 (fun t => t.laceEnable n.val))

/-! ## Page writes and releases -/

/-- A page write of a lace has ended (R320): the page is complete. -/
def State.lacePageDone (s : State) (n : Nat) : State :=
  let s1 := (s.setReg .iLC_PAGE n 0).laceComplete n 256
  if s1.reg .iLC_ABANDON n = 1 then s1.laceAbandon n
  else if s1.laceActive n then
    s1.setReg .LC_STATE n (if s1.reg .iLC_POS n = (s1.laceDesc n).length then 4 else 3)
  else s1

/-- A page write of a lace is refused (R323, R448): its descriptor ends. -/
def State.lacePageRefused (s : State) (n : Nat) : State :=
  let s1 := s.setReg .iLC_PAGE n 0
  if s1.laceActive n then s1.laceFail n Code.keeperRefused (s1.laceDesc n).tag else s1

/-- A frozen lace is released: it starts IDLE (R30, R323), or DISABLED. -/
def State.releaseLace (s : State) (n : Nat) : State :=
  (((s.dropPage n).dropPartial n).setReg .iLC_NEXT n 0).laceIdle n 0

end Sys2Proof.Machine
end

