-- ==== Sys2Proof/Machine/Skiver.lean ====
section
/-! DEFINITION. Skivers (10_laces_skivers.md, R329 to R341): jobs, surfaces, raster operations and their
order. -/
namespace Sys2Proof.Machine

/-! ## Jobs (R330 to R333) -/

/-- One surface of a job: base, pitch, layout (0 LINEAR, 1 BLOCK32) and the rectangle's corner. -/
structure SkSurface where
  base : Nat
  pitch : Nat
  block : Bool
  x : Nat
  y : Nat
  deriving DecidableEq, Repr

/-- The host's part of a Skiver job descriptor (R330). -/
structure SkJob where
  src : SkSurface
  dst : SkSurface
  patAddr : Nat
  patColor : Nat
  rop : Nat
  width : Nat
  height : Nat
  tag : Nat
  format : Nat
  xdir : Bool
  ydir : Bool
  patMode : Nat
  patX : Nat
  patY : Nat
  rsvd : Nat
  deriving DecidableEq, Repr

/-- The 128 bytes of a job descriptor (R330). -/
def SkJob.ofWord (w : Nat) : SkJob :=
  ⟨⟨bits w 1023 960, bits w 783 752, bit w 605, bits w 719 704, bits w 703 688⟩,
    ⟨bits w 959 896, bits w 751 720, bit w 604, bits w 687 672, bits w 671 656⟩,
    bits w 895 832, bits w 831 792, bits w 791 784, bits w 655 640, bits w 639 624, bits w 623 608,
    bits w 607 606, bit w 603, bit w 602, bits w 601 600, bits w 599 597, bits w 596 594, bits w 593 256⟩

/-- Bytes per pixel (R331). -/
def SkJob.bpp (j : SkJob) : Nat := if j.format = 0 then 5 else if j.format = 1 then 4 else 1

/-- Bits of a pixel that the raster operation uses (R331). -/
def SkJob.pixelBits (j : SkJob) : Nat := if j.format = 0 then 40 else if j.format = 1 then 30 else 8

/-- Address of pixel (x, y) of a surface (R332). -/
def SkSurface.addr (u : SkSurface) (bpp x y : Nat) : Nat :=
  if u.block then
    u.base + ((y / 32) * ceilDiv u.pitch 32 + x / 32) * 5120 + ((y % 32) * 32 + x % 32) * 5
  else u.base + y * u.pitch + x * bpp

/-- Whether the raster operation reads the source, the pattern, the destination (R334). -/
def SkJob.readsSrc (j : SkJob) : Bool := j.rop / 16 != j.rop % 16
/-- Whether it reads the pattern. -/
def SkJob.readsPat (j : SkJob) : Bool := (j.rop / 4) &&& 0x33 != j.rop &&& 0x33
/-- Whether it reads the destination. -/
def SkJob.readsDst (j : SkJob) : Bool := (j.rop / 2) &&& 0x55 != j.rop &&& 0x55

/-- The last byte a rectangle reaches, plus 1. -/
def SkSurface.reach (u : SkSurface) (bpp w h : Nat) : Nat :=
  if u.block then
    -- the blocks of the last row of blocks, up to the last column of blocks and the last row in them
    (List.range 32).foldl (fun m dx => (List.range 32).foldl (fun m2 dy =>
      if dx < w ∧ dy < h then max m2 (u.addr bpp (u.x + w - 1 - dx) (u.y + h - 1 - dy) + bpp) else m2) m) 0
  else u.addr bpp (u.x + w - 1) (u.y + h - 1) + bpp

/-- Whether a rectangle breaks its surface (R333). -/
def SkSurface.bad (u : SkSurface) (format bpp w h : Nat) : Bool :=
  (if u.block then format != 0 || u.pitch == 0 || decide (8192 < u.pitch) || decide (u.pitch < u.x + w)
   else decide (u.pitch < (u.x + w) * bpp))
  || decide (storeSize < u.reach bpp w h)

/-- Whether a job ends with SKIVER_BAD_DESC (R333). -/
def SkJob.bad (j : SkJob) : Bool :=
  j.rsvd != 0 || j.format == 3 || decide (2 ≤ j.patMode)
    || (j.patMode == 1 && j.patAddr % 8 != 0)
    || j.width == 0 || decide (16384 < j.width) || j.height == 0 || decide (16384 < j.height)
    || j.src.bad j.format j.bpp j.width j.height || j.dst.bad j.format j.bpp j.width j.height
    || (j.patMode == 1 && decide (storeSize < j.patAddr + 64 * j.bpp))

/-- Bytes of the destination rectangle (R338). -/
def SkJob.area (j : SkJob) : Nat := j.width * j.height * j.bpp

/-! ## The raster operation (R334, R335) -/

/-- The result bits of a raster operation (R334). -/
def rop (op s p d : Nat) : Nat → Nat
  | 0 => 0
  | k + 1 =>
    2 * rop op (s / 2) (p / 2) (d / 2) k
      + b2n (bit op (4 * (s % 2) + 2 * (p % 2) + d % 2))

/-- The pattern pixel of destination pixel (x, y) (R335); `pat` is the pattern as read. -/
def SkJob.pattern (j : SkJob) (pat : List Byte) (x y : Nat) : Nat :=
  if j.patMode = 0 then j.patColor
  else leAt pat (j.bpp * (8 * ((y + j.patY) % 8) + (x + j.patX) % 8)) j.bpp

/-! ## Execution (R336, R339) -/

/-- How a job stopped. -/
inductive SkStop where
  | poison
  | frozen
  deriving DecidableEq, Repr

/-- A job under way: the state, the pixels written, and how it stopped. -/
structure SkRun where
  s : State
  done : Nat
  stop : Option SkStop

/-- The master of a Skiver (R28). -/
def skiverMaster (k : Nat) : Master := coreMaster (Fin.ofNat 256 (0x50 + k))

/-- A Skiver reads a pixel or the pattern. -/
def SkRun.read (r : SkRun) (k a n : Nat) : SkRun × List Byte :=
  let (x, s1) := r.s.fetch (skiverMaster k) .skiver a n
  ({ r with s := s1, stop := if x.frozen then some .frozen
      else if x.poisoned.isEmpty then r.stop else some .poison }, x.data)

/-- One pixel of the loop of R336. -/
def SkRun.pixel (r : SkRun) (k : Nat) (j : SkJob) (pat : List Byte) (i row : Nat) : SkRun :=
  if r.stop.isSome then r
  else
    let (r1, sb) := if j.readsSrc then
      r.read k (j.src.addr j.bpp (j.src.x + i) (j.src.y + row)) j.bpp else (r, [])
    if r1.stop.isSome then r1
    else
      let a := j.dst.addr j.bpp (j.dst.x + i) (j.dst.y + row)
      let (r2, db) := if j.readsDst then r1.read k a j.bpp else (r1, [])
      if r2.stop.isSome then r2
      else
        let p := j.pattern pat (j.dst.x + i) (j.dst.y + row)
        let v := rop j.rop (leNat sb) p (leNat db) j.pixelBits
        let (f, s1) := r2.s.store (skiverMaster k) .skiver a (leBytes j.bpp v)
        if f then { r2 with s := s1, stop := some .frozen }
        else { r2 with s := s1.bumpBy .SK_BYTES k j.bpp, done := r2.done + 1 }

/-- The coordinates of a direction (R336). -/
def dirList (n : Nat) (down : Bool) : List Nat := if down then (List.range n).reverse else List.range n

/-- The pixels of a job in programmed order (R336). -/
def SkJob.order (j : SkJob) : List (Nat × Nat) :=
  (dirList j.height j.ydir).flatMap (fun row => (dirList j.width j.xdir).map (fun i => (i, row)))

/-- The first `n` pixels of a job; the pattern is read once, when the job starts (R335). -/
def SkRun.run (s : State) (k : Nat) (j : SkJob) (n : Nat) : SkRun :=
  let r0 : SkRun := ⟨s, 0, none⟩
  let (r1, pat) := if j.readsPat && j.patMode == 1 then r0.read k j.patAddr (64 * j.bpp) else (r0, [])
  if r1.stop.isSome then r1
  else (j.order.take n).foldl (fun r e => r.pixel k j pat e.1 e.2) r1

/-! ## Records and rings (R329, R330, R339, R340) -/

/-- Address of the job descriptor at SK_HEAD (R329). -/
def State.skAddr (s : State) (k : Nat) : Nat := s.reg .SK_RING_BASE k + 128 * s.reg .SK_HEAD k

/-- What a job interrupted by a freeze keeps for its record (R339). -/
def State.keepSkiver (s : State) (k done : Nat) : State :=
  (s.setReg .iSK_FROZEN_JOB k 1).setReg .iSK_DONE k done

/-- The running job, as its descriptor spells it. -/
def State.skJob (s : State) (k : Nat) : SkJob := SkJob.ofWord (s.reg .iSK_JOB k)

/-- The descriptor of a job that starts is held: `w` as read, with its JOB_TAG. -/
def State.skTake (s : State) (k w tag : Nat) : State := (s.setReg .iSK_JOB k w).setReg .iSK_TAG k tag

/-- A job ends (R329, R330, R339): the record is written, SK_HEAD advances, the grant returns, and
SKIVER_DONE is posted. A record that fails its check leaves the Skiver frozen with the job interrupted, and
comes with its release. -/
def State.skRecord (s : State) (k done result : Nat) : State :=
  let tag := s.reg .iSK_TAG k
  let width := (s.skJob k).width
  let rows := if width = 0 then 0 else done / width
  let pix := if width = 0 then 0 else done % width
  let rec_ := packBits [(1, 1), (207, 0), (16, pix), (16, rows), (16, result)]
  let (f, s1) := s.store (skiverMaster k) .skiver (s.skAddr k) (leBytes 32 rec_)
  if f then s1.keepSkiver k done else
  let s2 := (s1.setReg .SK_HEAD k ((s1.reg .SK_HEAD k + 1) % s1.reg .SK_RING_SIZE k)).release (.skiver k)
  let s3 := (s2.setReg .SK_LAST_STATUS k result).bump (if result = 0 then .SK_JOBS_OK
    else if result = Code.jobAbandoned then .SK_ABANDONED else .SK_JOBS_FAILED) k
  s3.raise Code.skiverDone (some (s3.reg .SK_QUEUE k)) [(8, k), (16, tag), (16, result)]

/-- The state a Skiver takes when its job has ended (R340). -/
def State.skOver (s : State) (k abandoned : Nat) : State :=
  if s.reg .SK_STATE k = 5 then s
  else if s.reg .SK_ENABLE k = 1 then s.setReg .SK_STATE k 0
  else (s.setReg .SK_STATE k 4).raiseDisabled .SK_ENABLE k abandoned

/-- SK_TAIL_WRITE (R329). -/
def execSkTailWrite (acc : Accessor) (k : Fin 4) (tail : BitVec 16) (s : State) : Out :=
  .next (writeParam s acc .SK_TAIL k.val tail.toNat (fun t => t.setReg .SK_TAIL k.val tail.toNat))

/-- SK_JOB_START (R329, R333, R338): the job at SK_HEAD is read and checked; a large one asks for its
grant, any other runs. The JOB_TAG of a descriptor whose read is poisoned, or freezes the Skiver, is not
known. -/
def execSkJobStart (n : Fin 4) (seen : Seen) (s : State) : Out :=
  let k := n.val
  if s.reg .SK_STATE k ≠ 0 ∨ s.reg .SK_ENABLE k = 0 ∨ s.reg .SK_HEAD k = s.reg .SK_TAIL k
      ∨ s.reg .SK_RING_SIZE k = 0 ∨ s.storeServes = false then .next s
  else
    let (r, bs) := (⟨s.see seen, 0, none⟩ : SkRun).read k (s.skAddr k) 128
    let j := SkJob.ofWord (leNat bs)
    let (tag, s1) := r.s.draw
    match r.stop with
    | some .frozen => .next (((s1.skTake k 0 tag).keepSkiver k 0).see s.seen)
    | some .poison => .next ((((s1.skTake k 0 tag).skRecord k 0 Code.poison).skOver k 0).see s.seen)
    | none =>
      let s2 := r.s.skTake k (leNat bs) j.tag
      if j.bad then .next (((s2.skRecord k 0 Code.skiverBadDesc).skOver k 0).see s.seen)
      else if 1048576 < j.area then .next (((s2.setReg .SK_STATE k 1).request (.skiver k)).see s.seen)
      else .next ((s2.setReg .SK_STATE k 2).see s.seen)

/-- Whether a Skiver's job may run: its grant is given where it needs one (R338). -/
def State.skMayRun (s : State) (k : Nat) : Bool :=
  let st := s.reg .SK_STATE k
  ((st == 2 || st == 3) || (st == 1 && s.granted (.skiver k)))
    && (decide ((s.skJob k).area ≤ 1048576) || s.granted (.skiver k)) && s.storeServes

/-- SK_JOB_END (R334 to R339): the loop of R336 runs, and the record is written. -/
def execSkJobEnd (n : Fin 4) (seen : Seen) (s : State) : Out :=
  let k := n.val
  if s.skMayRun k = false then .next s
  else
    let j := s.skJob k
    let r := SkRun.run (s.see seen) k j (j.width * j.height)
    match r.stop with
    | none => .next (((r.s.skRecord k r.done 0).skOver k 0).see s.seen)
    | some .poison => .next (((r.s.skRecord k r.done Code.poison).skOver k 0).see s.seen)
    | some .frozen => .next ((r.s.keepSkiver k r.done).see s.seen)

/-- The work in flight of a Skiver is abandoned (R339): the first `done` pixels of its job have been
written. A job that waits for its grant has read nothing (R338). -/
def State.skAbandon (s : State) (k done : Nat) : State :=
  let r : SkRun := if s.skMayRun k ∧ done ≠ 0 then SkRun.run s k (s.skJob k) done else ⟨s, 0, none⟩
  match r.stop with
  | some .frozen => r.s.keepSkiver k r.done
  | _ => (r.s.skRecord k r.done Code.jobAbandoned).skOver k 1

/-- SK_ENABLE written with 0 (R339, R340). -/
def State.skDisable (s : State) (k done : Nat) : State :=
  let st := s.reg .SK_STATE k
  let s1 := s.putReg .SK_ENABLE k 0
  if s.reg .SK_ENABLE k = 0 ∨ st = 5 ∨ st = 4 then s1
  else if st = 0 then s1.skOver k 0
  else if s.reg .SK_DRAIN k = 0 then s1.setReg .SK_STATE k 3
  else s1.skAbandon k done

/-- SK_ENABLE_DISABLE. -/
def execSkEnableDisable (acc : Accessor) (k : Fin 4) (done : Nat) (s : State) : Out :=
  .next (writeParam s acc .SK_ENABLE k.val 0 (fun t => t.skDisable k.val done))

/-- SK_ENABLE written with 1 (R340, R405). -/
def State.skEnable (s : State) (k : Nat) : State :=
  if s.reg .SK_STATE k = 3 then s.refuse Code.funcDraining
  else (s.putReg .SK_ENABLE k 1).cond (s.reg .SK_STATE k == 4) (fun u => u.setReg .SK_STATE k 0)

/-- SK_ENABLE_RESUME (R340, R405). -/
def execSkEnableResume (acc : Accessor) (k : Fin 4) (s : State) : Out :=
  .next (writeParam s acc .SK_ENABLE k.val 1 (fun t => t.skEnable k.val))

/-- SK_RING_WRITE (R340). -/
def execSkRingWrite (acc : Accessor) (k : Fin 4) (p : RingParam) (v : Nat) (s : State) : Out :=
  let r : Reg := match p with | .base => .SK_RING_BASE | .size => .SK_RING_SIZE
  .next (writeParam s acc r k.val v (fun t =>
    if t.reg .SK_STATE k.val = 4 ∧ t.reg .SK_HEAD k.val = t.reg .SK_TAIL k.val then t.setReg r k.val v
    else t.refuse Code.skiverRingBusy))

/-- A frozen Skiver is released (R31, R339): the record of an interrupted job comes first. -/
def State.releaseSkiver (s : State) (k : Nat) : State :=
  let busy := s.reg .iSK_FROZEN_JOB k == 1
  let s1 := (s.setReg .SK_STATE k 0).setReg .iSK_FROZEN_JOB k 0
  let s2 := if busy then s1.skRecord k (s.reg .iSK_DONE k) Code.masterFrozen else s1
  s2.skOver k 0

end Sys2Proof.Machine
end

