-- ==== Sys2Proof/Machine/KeeperCmds.lean ====
section
/-! DEFINITION. The commands of the Keeper (15_keeper.md, R448 to R461) and of KEEP values (R383 of
12_control_dictionary.md). -/
namespace Sys2Proof.Machine

/-! ## Page writes (R450) -/

/-- The head of a bank's page writes. -/
def State.bankHead (s : State) (k : Nat) : Option PageWrite :=
  s.keeperQueue.find? (fun w => keeperBank w.page == k)

/-- Whether a page write comes from the firmware. -/
def PageWrite.firmware (w : PageWrite) : Bool := match w.by_ with | .lace _ => false | _ => true

/-- Whether a write passes the checks of R450: block protect, the gate, the system area for a lace, and
the pool for a record. -/
def State.pageAllowed (s : State) (w : PageWrite) : Bool :=
  !s.pageProtected w.page && s.keeperOpen
    && (match w.by_ with
        | .lace _ => decide (1024 ≤ w.page)
        | .record _ => !(pagesInUse s.poolHeads).contains w.page
            && decide (s.wearOf s.wearMax w.page < 1000000)
        | _ => true)

/-- A write is refused at the head of its bank (R323, R383, R451). -/
def State.pageRefused (s : State) (w : PageWrite) : State :=
  let s1 := { s with keeperQueue := s.keeperQueue.erase w }
  match w.by_ with
  | .lace n => s1.keeperRefuse.lacePageRefused n
  | .record id =>
    (match s1.records.find? (fun r => r.id == id) with
     | some r => s1.recordRefused r
     | none => s1.keeperRefuse)
  | .tri word value _ =>
    let s2 := s1.keeperRefuse
    { s2 with triPending := s2.triPending.filter (fun p => !p.ofWord word) ++ [.tri word value 0] }
  | .triFix word value copy =>
    let s2 := s1.keeperRefuse
    { s2 with triPending := s2.triPending ++ [.triFix word value copy] }
  | .fix => s1.keeperRefuse

/-- A write starts (R450). -/
def State.pageStart (s : State) (w : PageWrite) : State :=
  let s1 : State := { s with
    keeperQueue := s.keeperQueue.erase w
    keeperBusy := s.keeperBusy ++ [w] }
  let s2 := (s1.setReg .KP_BUSY 0 (setBit (s1.reg .KP_BUSY 0) (keeperBank w.page) true)).bump .KP_WRITES 0
  match w.by_ with
  | .lace n => if s2.laceActive n then s2.setReg .LC_STATE n 3 else s2
  | _ => s2

/-- KEEPER_WRITE_START (R450): the head of a bank is checked; it asks for its grant, starts with it
given, or is refused. The firmware's writes wait while it restarts (R496), and no page write of a lace starts
while a bus error (R324) or a hardware shutdown (R439) stops the laces. -/
def execKeeperWriteStart (bank : Fin 4) (s : State) : Out :=
  let k := bank.val
  match s.bankHead k with
  | none => .next s
  | some w =>
    if bit (s.reg .KP_BUSY 0) k || s.reg .iPWR_FAIL 0 == 1 || (w.firmware && s.reg .iPHASE 0 != 1) then
      .next s
    else if w.firmware = false ∧ s.lacesRun = false then .next s
    else if s.pageAllowed w = false then .next ((s.pageRefused w).release (.keeperWrite k))
    else if s.granted (.keeperWrite k) then .next (s.pageStart w)
    else .next (s.request (.keeperWrite k))

/-- The next copy of a tri-word, or the end of its write. -/
def State.triDone (s : State) (word value copy : Nat) : State :=
  let s1 := s.setReg .iTRI (triIx copy word) value
  if copy < 2 then s1.requestTri word value (copy + 1) else s1

/-- A record write has ended: values that it holds as they stand are in the Keeper (R383); the root of
a spare map follows its record (R461). -/
def State.recordEnd (s : State) (r : RecordWrite) : State :=
  let s1 := { s with records := s.records.filter (fun x => x.id != r.id) }
  let s2 := if s1.recordPayload r.id = r.payload then
      { s1 with keepPending := s1.keepPending.filter (fun k => keyIndex k != r.id) } else s1
  if r.id = 0x5800 ∨ r.id = 0x5801 then
    s2.writeTri (10 + (r.id - 0x5800)) (mapRoot r.seq (s2.reg .WL_SPARE_MAP (r.id - 0x5800)))
  else s2

/-- A page of a record is written: the next part follows, each write ending before the next starts
(R456). -/
def State.recordPart (s : State) (id : Nat) : State :=
  match s.records.find? (fun r => r.id == id) with
  | none => s
  | some r =>
    let r1 := { r with left := r.left.drop 1 }
    let s1 : State := { s with records := s.records.map (fun x => if x.id = id then r1 else x) }
    if r1.left.isEmpty then s1.recordEnd r1
    else match s1.nextPart r1 with
      | some t => t
      | none => s1.recordRefused r1

/-- A page write ends: its contents are in place, the bank is free and the grant returns (R450). -/
def State.pageDone (s : State) (w : PageWrite) : State :=
  let k := keeperBank w.page
  let s1 : State := { s with keeperBusy := s.keeperBusy.erase w }
  let s2 := (s1.setReg .KP_BUSY 0 (setBit (s1.reg .KP_BUSY 0) k false)).release (.keeperWrite k)
  match w.by_ with
  | .lace n => (s2.keeperPage w.page w.data).lacePageDone n
  | .record id => (s2.keeperPage w.page w.data).recordPart id
  | .tri word value copy => s2.triDone word value copy
  | .triFix word value copy => s2.setReg .iTRI (triIx copy word) value
  | .fix => s2.keeperPage w.page w.data

/-- KEEPER_WRITE_DONE (R450): the page write of a bank has ended. -/
def execKeeperWriteDone (bank : Fin 4) (s : State) : Out :=
  match s.keeperBusy.find? (fun w => keeperBank w.page == bank.val) with
  | none => .next s
  | some w => .next (s.pageDone w)

/-! ## KEEP values (R383) -/

/-- The record of an index is written with SEQ S + 1 over the highest resolved (R456, R484). -/
def State.writeRecord (s : State) (index : Nat) : State :=
  let p := s.recordPayload index
  let seq := match recordSeq s.poolHeads index with
    | some q => (q + 1) % 2 ^ 32
    | none => 1
  s.startRecord ⟨index, seq, p, recordOrder p [0, 1], false⟩

/-- The first index that owes a KEEP value and is neither being written nor refused. -/
def State.keepNext (s : State) : Option Nat :=
  (s.keepPending.map keyIndex).find? (fun ix =>
    !s.records.any (fun r => r.id == ix) && !s.keepDeferred.contains ix)

/-- KEEP_WRITE (R383): the record of the oldest value not yet in the Keeper is written. -/
def execKeepWrite (s : State) : Out :=
  if s.reg .iPHASE 0 ≠ 1 then .next s
  else match s.keepNext with
    | none => .next s
    | some ix => .next (s.writeRecord ix)

/-- Whether a record write waits without a page write of its own: it was refused. -/
def State.recordIdle (s : State) (r : RecordWrite) : Bool :=
  !(s.keeperQueue ++ s.keeperBusy).any (fun w => w.by_ == .record r.id)

/-- A write or repair of a tri-word that waited is requested again. -/
def State.retryTri (s : State) (p : PageBy) : State :=
  match p with
  | .tri word value _ => s.writeTri word value
  | .triFix word value copy => s.repairTri word value copy
  | .lace _ => s
  | .record _ => s
  | .fix => s

/-- KEEP_RETRY (R383, R451): every 10 s, refused KEEP writes, repairs and tri-words are tried again. -/
def execKeepRetry (s : State) : Out :=
  if s.reg .iPHASE 0 ≠ 1 ∨ s.clock < s.reg .iKEEP_TRY 0 + 10000000000 then .next s
  else
    let s1 := s.setReg .iKEEP_TRY 0 s.clock
    let again := s1.keepDeferred
    let idle := s1.records.filter s1.recordIdle
    let tris := s1.triPending
    let s2 := again.foldl (fun t ix => if t.records.any (fun r => r.id == ix) then t else t.writeRecord ix)
      { s1 with keepDeferred := [] }
    let s3 := idle.foldl (fun t r => match t.nextPart r with
      | some u => u
      | none => t.recordRefused r) s2
    .next (tris.foldl State.retryTri { s3 with triPending := [] })

/-- KP_PROTECT_WRITE (R451): tri-word 12 follows. -/
def execKpProtectWrite (acc : Accessor) (v : BitVec 8) (s : State) : Out :=
  .next (writeParam s acc .KP_PROTECT 0 v.toNat (fun t => t.putTri .KP_PROTECT v.toNat))

/-! ## Scrubbing and votes (R458, R460) -/

/-- A page with a correctable group is rewritten in place, its contents as they are, but for a protected page and
for pages 3 to 15, which are never written (R448, R458). -/
def State.scrubFix (s : State) (page : Nat) : State :=
  if s.pageProtected page || (decide (3 ≤ page) && decide (page < 16)) then s
  else
    let data := if page < 3 then [] else s.keeperBytes (256 * page) 256
    { s with keeperQueue := s.keeperQueue ++ [⟨page, data, .fix⟩] }

/-- An uncorrectable group (R458): counted, logged, raised; a pool page is resolved by R457. -/
def State.scrubBad (s : State) (page g : Nat) : State :=
  let key := 16 * page + g
  let s1 := ({ s with keeperBad := key :: s.keeperBad.filter (· != key) } : State).bump .SC_UNCORRECTABLE 3
  let s2 := s1.logBadGroup key 0 0xFF
  if 16 ≤ page ∧ page < 1024 then s2.resolveAll else s2

/-- KEEPER_SCRUB (R297, R300, R458): the next page is read, but for one being written; the groups that
show an error are given. A page that holds an uncorrectable group too is not rewritten. DEDUCED (log 69). -/
def execKeeperScrub (found : List (Fin 16 × Finding)) (s : State) : Out :=
  let draining := s.reg .SC_STATE 3 == 4
  if s.reg .SC_ENABLE 3 = 0 ∧ draining = false then .next s
  else
    let page := s.reg .SC_POSITION 3
    let s1 := ((s.openLap 3).scrubSlow 3).setReg .SC_STATE 3 3
    let bad := (found.filter (fun e => e.2 == .uncorrectable)).map (fun e => e.1.val)
    let s2 := if s.pageBusy page then s1
      else
        let good := (found.filter (fun e => e.2 == .correctable)).length
        let s3 := bad.foldl (fun t g => t.scrubBad page g) (s1.bumpBy .SC_CORRECTED 3 good)
        if bad.isEmpty && decide (0 < good) then s3.scrubFix page else s3
    let s4 := if 2047 ≤ page then (s2.setReg .SC_POSITION 3 0).lapEnd 3
      else s2.setReg .SC_POSITION 3 (page + 1)
    .next (if draining then s4.scrubOff 3 0 else s4)

/-- One tri-word is voted (R460): a copy that disagrees is rewritten, counted and reported. -/
def State.voteWord (s : State) (w : Nat) : State :=
  if s.triBusy w then s
  else
    let (v, majority) := vote3 (s.reg .iTRI (triIx 0 w)) (s.reg .iTRI (triIx 1 w)) (s.reg .iTRI (triIx 2 w))
    let wrong := (List.range 3).filter (fun c => s.reg .iTRI (triIx c w) != v)
    if wrong.isEmpty then s
    else
      let s1 := (s.bumpBy .KP_TRI_REPAIRS 0 wrong.length).cond (!majority) (fun t => t.bump .KP_TRI_NOVOTE 0)
      wrong.foldl (fun t c => t.repairTri w v c) (s1.raise Code.triwordRepaired none [(8, w)])

/-- The comparators take the voted shutdown limits (R439, R460). -/
def State.loadComparators (s : State) : State :=
  let s1 := if s.triBusy 8 then s else s.setReg .iCMP_SHUT 0 (s.triword 8)
  if s1.triBusy 9 then s1 else s1.setReg .iCMP_RESTART 0 (s1.triword 9)

/-- TRIWORD_VOTE (R460): every word is voted; `drift` lists copies whose stored value has changed by
itself, as copy, word and what it now holds. -/
def execTriwordVote (drift : List (Fin 3 × Fin 16 × BitVec 64)) (s : State) : Out :=
  if s.reg .iPHASE 0 ≠ 1 then .next s
  else
    let s1 := drift.foldl (fun t e => t.setReg .iTRI (triIx e.1.val e.2.1.val) e.2.2.toNat) s
    .next ((forN 16 s1 State.voteWord).loadComparators)

end Sys2Proof.Machine
end

