-- ==== Sys2Proof/Machine/Eye.lean ====
section
/-! DEFINITION. Eyelet outputs and captures, and steps of the timebase (11_network_time.md, R355, R366 to
R368, R370). Edge times are in 2^-16 ns. -/
namespace Sys2Proof.Machine

/-! ## Edges (R366) -/

/-- The time of edge `k` of an output in ONE_SHOT or PERIODIC mode. -/
def State.gridEdge (s : State) (e k : Nat) : Int :=
  quarterNs ((s.reg .EYE_START e * 65536 : Nat) + k * s.reg .EYE_PERIOD e : Nat)

/-- The next edge of an output in FRAME mode: a scheduled one, or that of a boundary to come, placed
ahead of it (R366). -/
def State.frameEdge (s : State) (e : Nat) : Option Int :=
  match s.eyeEdges.find? (fun x => x.1 == e) with
  | some x => some (edgeAt3 x.2)
  | none => s.aheadEdge e

/-- The next assert edge of an output (R366); `none` where it has none. -/
def State.nextEdge (s : State) (e : Nat) : Option Int :=
  if s.reg .EYE_STATE e ≠ 1 ∨ s.reg .iEYE_LAST e = 1 then none
  else match s.reg .EYE_MODE e with
    | 1 => some (s.gridEdge e 0)
    | 2 => some (s.gridEdge e (s.reg .iEYE_K e))
    | 3 => s.frameEdge e
    | _ => none

/-- The output has produced or skipped an edge: the next one is due. -/
def State.passEdge (s : State) (e : Nat) : State :=
  match s.reg .EYE_MODE e with
  | 1 => s.setReg .iEYE_LAST e 1
  | 2 =>
    let k := s.reg .iEYE_K e + 1
    let s1 := s.setReg .iEYE_K e k
    if s.reg .EYE_COUNT e ≠ 0 ∧ s.reg .EYE_COUNT e ≤ k then s1.setReg .iEYE_LAST e 1 else s1
  | _ =>
    match s.eyeEdges.find? (fun x => x.1 == e) with
    | some x => { s with eyeEdges := s.eyeEdges.erase x }
    | none => s.setReg .iEYE_FRAME e (s.openingNo (s.reg .EYE_GEN e) + 1)

/-- An output with no edge and no pulse left is DONE (R367). -/
def State.eyeDone (s : State) (e : Nat) : State :=
  if s.reg .EYE_STATE e = 1 ∧ s.reg .iEYE_LAST e = 1 ∧ s.reg .iEYE_ON e = 0 then s.setReg .EYE_STATE e 2 else s

/-- An assert edge is produced (R366, R368): the output is active for EYE_WIDTH; a ONE_SHOT of width 0
stays active. It is counted, and is the event of its lace request. -/
def State.fireEdge (s : State) (e : Nat) : State :=
  let w := s.reg .EYE_WIDTH e
  let end_ := if w = 0 ∧ s.reg .EYE_MODE e = 1 then 0 else s.local_ + w * 2 ^ 48 + 1
  ((((s.setReg .iEYE_ON e 1).setReg .iEYE_END e end_).bump .EYE_EDGES e).passEdge e).laceEvent (4 + e)

/-- EYE_ASSERT_EDGE (R368): the timebase has reached the next edge time. -/
def execEyeAssertEdge (e : Fin 8) (s : State) : Out :=
  match s.nextEdge e.val with
  | none => .next s
  | some t => if reached16 s.now16 t then .next (s.fireEdge e.val) else .next s

/-- EYE_PULSE_END (R366, R367): the pulse has lasted EYE_WIDTH. -/
def execEyePulseEnd (e : Fin 8) (s : State) : Out :=
  let k := e.val
  if s.reg .iEYE_ON k = 1 ∧ s.reg .iEYE_END k ≠ 0 ∧ s.reg .iEYE_END k ≤ s.local_ + 1 then
    .next ((s.setReg .iEYE_ON k 0).eyeDone k)
  else .next s

/-! ## Steps (R355, R368) -/

/-- An edge a step jumped past (R368): counted and raised, and produced at once under FIRE. -/
def State.lateEdge (s : State) (e : Nat) (t : Int) : State :=
  let s1 := (s.bump .EYE_LATE_COUNT e).raise Code.eyeLate (some (s.reg .EYE_QUEUE e))
    [(8, e), (64, (t / 65536 % 2 ^ 64).toNat)]
  if s1.reg .EYE_LATE e = 1 then s1.fireEdge e else (s1.passEdge e).eyeDone e

/-- The edges of an output between two network times, in turn; at most `n`. -/
def State.jumpEdges (s : State) (e old : Nat) : Nat → State
  | 0 => s
  | n + 1 =>
    match s.nextEdge e with
    | none => s
    | some t =>
      if reached16 s.now16 t && !reached16 s.now16 (t + 1) then s
      else if reached16 s.now16 t && !reached16 old t then (s.lateEdge e t).jumpEdges e old n
      else s

/-- How many edges of an output a step of `d` units of 2^-16 ns can jump past. -/
def State.jumpBound (s : State) (e d : Nat) : Nat :=
  if s.reg .EYE_MODE e = 2 then
    (if s.reg .EYE_PERIOD e = 0 then 0 else d / s.reg .EYE_PERIOD e + 2)
  else s.eyeEdges.length + 2

/-- The timebase steps by `d` units of 2^-48 ns (R355): counted and raised with its amount in whole ns;
captures note it, and eyelet edges that a forward step jumps past are late. -/
def State.stepTime (s : State) (d : Int) : State :=
  let old := s.now16
  let s1 := { s with tb := (((s.tb : Int) + d) % 2 ^ 112).toNat }
  let s2 := (forN 8 s1 (fun t k => t.setReg .iCAP_STEPPED k 1)).bump .TB_STEPS 0
  let s3 := s2.raise Code.tbStepped (some (s2.reg .PTP_QUEUE 0)) [(64, ofInt 64 (d / 2 ^ 48))]
  if 0 < d then forN 8 s3 (fun t e => t.jumpEdges e old (t.jumpBound e (d / 2 ^ 32).toNat)) else s3

/-! ## Arming (R367) -/

/-- The first edge of a PERIODIC output that is armed (R367): edge 0, or with EYE_START in the past, by
signed difference (R14), the first of the grid at least 1 µs after the arming. -/
def State.firstK (s : State) (e : Nat) : Nat :=
  let late := since16 s.now16 (s.reg .EYE_START e * 65536 : Nat)
  let p := s.reg .EYE_PERIOD e
  if p = 0 ∨ late ≤ 0 then 0 else
    let k := ceilDiv (late + 65536000).toNat p
    -- rounding to 0.25 ns may place edge k before that instant
    if -65536000 < since16 s.now16 (s.gridEdge e k) then k + 1 else k

/-- An output armed in FRAME mode inside a frame takes the edge of that frame's boundary where its time is
still to come, and none of a boundary ahead whose edge has passed (R366, R368). -/
def State.armFrame (s : State) (e : Nat) : State :=
  let g := s.reg .EYE_GEN e
  let t3 : Int := s.reg .iG_B3 g + 3 * s.eyeOffset e
  if s.reg .iG_COUNT g ≠ 0 ∧ 0 ≤ s.eyeOffset e ∧ s.eyeFrame e g (s.reg .LAST_FRAME g) = true
      ∧ reached16 s.now16 (edgeAt3 t3) = false then { s with eyeEdges := s.eyeEdges ++ [(e, t3)] }
  else s.passMissed e

/-- An output is armed in its mode; OFF has nothing to arm. -/
def State.armEye (s : State) (e : Nat) : State :=
  let m := s.reg .EYE_MODE e
  if m = 0 then s
  else
    let k := if m = 2 then s.firstK e else 0
    let none_ := m == 2 && s.reg .EYE_COUNT e != 0 && decide (s.reg .EYE_COUNT e ≤ k)
    let s1 := { s with eyeEdges := s.eyeEdges.filter (fun x => x.1 != e) }
    let s2 := (((s1.setReg .EYE_STATE e 1).setReg .iEYE_K e k).setReg .iEYE_LAST e (b2n none_)).setReg .iEYE_FRAME
      e 0
    (s2.cond (m == 3) (fun t => t.armFrame e)).eyeDone e

/-- EYE_CTRL_ARM (R367). -/
def execEyeCtrlArm (acc : Accessor) (e : Fin 8) (s : State) : Out :=
  .next (writeParam s acc .EYE_CTRL e.val 1 (fun t =>
    let k := e.val
    if t.reg .EYE_MODE k = 1 ∧ asInt 64 (t.reg .EYE_START k + 2 ^ 64 - t.now) < 1000 then
      t.refuse Code.eyePast
    else if t.reg .EYE_MODE k = 2 ∧ t.reg .EYE_PERIOD k ≤ t.reg .EYE_WIDTH k * 65536 then
      t.refuse Code.eyeBad
    else t.armEye k))

/-- EYE_CTRL_DISARM (R367): no further assert edge; a pulse without end ends at once. -/
def execEyeCtrlDisarm (acc : Accessor) (e : Fin 8) (s : State) : Out :=
  .next (writeParam s acc .EYE_CTRL e.val 2 (fun t =>
    let k := e.val
    let u := { t with eyeEdges := t.eyeEdges.filter (fun x => x.1 != k) }
    let v := (u.setReg .EYE_STATE k 0).setReg .iEYE_LAST k 1
    if t.reg .iEYE_END k = 0 then v.setReg .iEYE_ON k 0 else v))

/-- The parameter EYE_PARAM_WRITE writes. -/
def eyeReg : EyeParam → Reg
  | .mode => .EYE_MODE | .start => .EYE_START | .period => .EYE_PERIOD | .width => .EYE_WIDTH
  | .count => .EYE_COUNT | .gen => .EYE_GEN | .every => .EYE_EVERY | .offset => .EYE_OFFSET

/-- EYE_PARAM_WRITE (R367). -/
def execEyeParamWrite (acc : Accessor) (e : Fin 8) (p : EyeParam) (v : Nat) (s : State) : Out :=
  .next (writeParam s acc (eyeReg p) e.val v (fun t =>
    if t.reg .EYE_STATE e.val = 1 then t.refuse Code.eyeBusy else t.putReg (eyeReg p) e.val v))

/-- EYE_OUT[e] as a level: whether the pin is high (R366, R481). -/
def State.eyeLevel (s : State) (e : Nat) : Bool :=
  (s.reg .iEYE_ON e == 1) != (s.reg .EYE_POL e == 1)

/-! ## Captures (R370) -/

/-- Records held for a capture. -/
def State.capHeld (s : State) (e : Nat) : Nat := (s.caps.filter (fun c => c.1 == e)).length

/-- CAPTURE_EDGE (R370): an edge whose level held for `held` ns; `stamp` is its time at the ball in 2^-16
ns, the filter's delay removed. -/
def execCaptureEdge (e : Fin 8) (fall : Bool) (held stamp : Nat) (s : State) : Out :=
  let k := e.val
  let sel := s.reg .CAP_EDGE k
  let last := s.reg .iCAP_AT k
  if (if fall then sel < 2 else sel % 2 = 0) ∨ held < 2 * s.reg .CAP_FILTER k then .next s
  else if last ≠ 0 ∧ since16 stamp (last - 1 : Nat) < (s.reg .CAP_HOLDOFF k * 65536 : Nat)
      ∧ 0 ≤ since16 stamp (last - 1 : Nat) then .next (s.bump .CAP_IGNORED k)
  else
    let s1 := (s.bump .CAP_COUNT k).setReg .iCAP_AT k (stamp + 1)
    let seq := s1.reg .CAP_COUNT k % 65536
    if 16 ≤ s1.capHeld k then
      let s2 := s1.bump .CAP_OVERFLOW k
      if s2.reg .iCAP_FULL k = 1 then .next s2
      else .next ((s2.setReg .iCAP_FULL k 1).raise Code.eyeOverflow (some (s2.reg .CAP_QUEUE k)) [(8, k)])
    else
      let time := stamp / 65536 % 2 ^ 64
      let r := packBits [(1, b2n fall), (1, s1.reg .iCAP_STEPPED k), (1, b2n !s1.timeLocked), (29, 0),
        (16, seq), (16, stamp % 65536), (64, time)]
      let s2 := ({ s1 with caps := s1.caps ++ [(k, r)] } : State).setReg .iCAP_STEPPED k 0
      .next (s2.raise Code.eyeCapture (some (s2.reg .CAP_QUEUE k)) [(8, k), (16, seq), (64, time)])

end Sys2Proof.Machine
end

