-- ==== Sys2Proof/Machine/Time.lean ====
section
/-! DEFINITION. The timebase's disciplines and PTP (11_network_time.md, R354 to R365, R369; R423 of
13_clocking.md; R494 of 17_startup_service.md). Times of messages are in 2^-16 ns. -/
namespace Sys2Proof.Machine

/-! ## The rate (R354, R361) -/

/-- A new TB_RATE, held within 500 ppm (R354); while the discipline is LOCKED it enters the mean of
R361. -/
def State.setRate (s : State) (r : Int) : State :=
  let v := clampInt (-2048000000) 2048000000 r
  let s1 := s.setRegInt .TB_RATE 0 v
  if s1.discState = 2 then { s1 with rates := s1.rates ++ [(s1.clock, s1.reg .TB_RATE 0)] } else s1

/-- The parts of the latest 16 s over which each value of TB_RATE held, times the value. -/
def rateSum (lo now : Nat) : List (Nat × Nat) → Int
  | [] => 0
  | (t, r) :: rest =>
    let stop := match rest with
      | [] => now
      | (u, _) :: _ => u
    ((max stop lo - max t lo : Nat) : Int) * asInt 32 r + rateSum lo now rest

/-- The mean of TB_RATE over the latest 16 s of LOCKED, rounded down (R361). -/
def State.rateMean (s : State) : Int :=
  let lo := s.clock - 16000000000
  match s.rates with
  | [] => s.regInt .TB_RATE 0
  | (t, _) :: _ =>
    let span := s.clock - max t lo
    if span = 0 then s.regInt .TB_RATE 0 else rateSum lo s.clock s.rates / (span : Nat)

/-- The PI loop's slew (R361): the manual gives its gains and its limit, not the rate that results, which
is a free value inside the limit. -/
def State.slew (s : State) : State :=
  let (x, s1) := s.draw
  let lim : Int := s.reg .PTP_SLEW_MAX 0 * 4096
  s1.setRate (clampInt (-lim) lim (asInt 40 x))

/-! ## The servo (R361, R494) -/

/-- PTP_STATE shows the servo's state while TB_SOURCE is PTP (R361). -/
def State.showServo (s : State) : State :=
  s.setReg .PTP_STATE 0 (if s.reg .TB_SOURCE 0 = 0 then s.reg .iSERVO 0 else 0)

/-- PTP_STATE first enters LOCKED: LAST_RESYNC for every generator, once (R494). -/
def State.autoResync (s : State) : State :=
  if s.reg .iRESYNC_DONE 0 = 1 then s
  else
    let s1 := s.setReg .iRESYNC_DONE 0 1
    if s.reg .SU_AUTO_RESYNC 0 = 1 then forN 4 s1 (fun t g => t.setReg .iG_RESYNC g 1) else s1

/-- The registers of a discipline: state and run count, for PTP or SYNC_IN. -/
def discRegs (sync : Bool) : Reg × Reg := if sync then (.iSYNC_STATE, .iSYNC_RUN) else (.iSERVO, .iPTP_RUN)

/-- Whether a discipline acts on the timebase (R356). -/
def State.disciplines (s : State) (sync : Bool) : Bool := s.reg .TB_SOURCE 0 == (if sync then 1 else 0)

/-- A discipline becomes LOCKED (R361). -/
def State.discLocked (s : State) (sync : Bool) : State :=
  let (st, run) := discRegs sync
  let s1 := (s.setReg st 0 2).setReg run 0 0
  let s2 := if s1.disciplines sync then { s1 with rates := [(s1.clock, s1.reg .TB_RATE 0)] } else s1
  if sync then s2
  else
    let s3 := s2.showServo.raise Code.ptpLocked (some (s2.reg .PTP_QUEUE 0)) [(64, s2.reg .PTP_GM_ID 0)]
    s3.cond (s3.disciplines false) State.autoResync

/-- A discipline enters HOLDOVER (R361): TB_RATE is held at its mean over the last 16 s of LOCKED. -/
def State.discHoldover (s : State) (sync : Bool) : State :=
  let (st, run) := discRegs sync
  let s1 := if s.disciplines sync ∧ s.reg st 0 = 2 then s.setRegInt .TB_RATE 0 s.rateMean else s
  let s2 := (s1.setReg st 0 3).setReg run 0 0
  if sync then s2
  else s2.showServo.raise Code.ptpHoldover (some (s2.reg .PTP_QUEUE 0)) [(64, s2.reg .PTP_GM_ID 0)]

/-- A discipline begins to acquire (R361): the next offset may step. -/
def State.discAcquire (s : State) (sync : Bool) : State :=
  let (st, run) := discRegs sync
  let s1 := (s.setReg st 0 1).setReg run 0 0
  if sync then s1 else (s1.setReg .iPTP_FIRST 0 1).showServo

/-- An offset drives a discipline (R361): a step by the step rule on the first one, else the PI loop; then
the counts towards LOCKED and back. -/
def State.discOffset (s : State) (sync : Bool) (offset : Int) : State :=
  let (st, run) := discRegs sync
  let size := offset.natAbs
  let limit := s.reg .PTP_STEP_LIMIT 0 * 65536
  let first := !sync && s.reg .iPTP_FIRST 0 == 1
  let s1 := s.cond (!sync) (fun t => t.setReg .iPTP_FIRST 0 0)
  let s2 := if s1.disciplines sync then
      (if first && limit != 0 && decide (limit < size) then s1.stepTime (-(offset * 2 ^ 32)) else s1.slew)
    else s1
  let thresh := s2.reg .PTP_LOCK_THRESH 0 * 65536
  if s2.reg st 0 = 1 then
    (if size ≤ thresh then
      (if 16 ≤ s2.reg run 0 + 1 then s2.discLocked sync else s2.bump run 0)
     else s2.setReg run 0 0)
  else if s2.reg st 0 = 2 then
    (if 4 * thresh < size then
      (if 16 ≤ s2.reg run 0 + 1 then
        (let t := (s2.setReg st 0 1).setReg run 0 0
         if sync then t else t.showServo)
       else s2.bump run 0)
     else s2.setReg run 0 0)
  else s2

/-! ## The best master clock (R359) -/

/-- Whether the first rank comes before the second, compared in order. -/
def rankBefore : List Nat → List Nat → Bool
  | a :: as, b :: bs => if a = b then rankBefore as bs else decide (a < b)
  | _, _ => false

/-- The data set comparison of IEEE 1588-2019 (R359): two announcements of one grandmaster by the steps removed,
the sender and the port; others by the grandmaster's data in their order. -/
def ForeignMaster.better (m b : ForeignMaster) : Bool :=
  if m.gm = b.gm then rankBefore [m.steps, m.source, m.port] [b.steps, b.source, b.port]
  else rankBefore (m.rank ++ [m.gm]) (b.rank ++ [b.gm])

/-- An interval of 2^log seconds, in ns. -/
def logInterval (log : Int) : Nat :=
  if 0 ≤ log then 1000000000 * 2 ^ log.toNat else 1000000000 / 2 ^ (-log).toNat

/-- Whether a foreign master qualifies (IEEE 1588-2019, R359): two of its Announce messages came within the last
four of its intervals; the master in use needs none until its timeout. -/
def State.qualified (s : State) (m : ForeignMaster) : Bool :=
  (s.reg .PTP_SLAVE_PORT 0 == m.port && s.reg .iPTP_SOURCE 0 == m.source)
    || (m.before != 0 && decide (s.clock < m.before + 4 * logInterval (asInt 8 m.interval)))

/-- The best master in view on ports that run PTP (R359). -/
def State.bestMaster (s : State) : Option ForeignMaster :=
  s.foreign.foldl (fun best m =>
    if s.reg .PP_ENABLE m.port = 0 ∨ s.linkUp m.port 0 = false ∨ s.qualified m = false then best
    else match best with
      | none => some m
      | some b => if m.better b then some m else some b) none

/-- The state of a port: FAULTY while its link is down, SLAVE where it leads to the master (R359). -/
def State.showPort (s : State) (p : Nat) : State :=
  s.setReg .PP_STATE p (if s.linkUp p 0 = false then 0 else if s.reg .PTP_SLAVE_PORT 0 = p then 3 else 1)

/-- The ordinary clock chooses its master (R359, R361). Without one it keeps its place until the timeout. -/
def State.selectMaster (s : State) : State :=
  if s.reg .PTP_ENABLE 0 = 0 then (s.showPort 0).showPort 1
  else match s.bestMaster with
  | none => (s.showPort 0).showPort 1
  | some m =>
    let same := s.reg .PTP_SLAVE_PORT 0 == m.port && s.reg .iPTP_SOURCE 0 == m.source
    let s1 := ((((s.setReg .PTP_SLAVE_PORT 0 m.port).setReg .iPTP_SOURCE 0 m.source).setReg .PTP_GM_ID 0
      m.gm).setReg .PTP_UTC_OFFSET 0 m.utc)
    let s2 := (s1.showPort 0).showPort 1
    let s3 := if same then s2 else (s2.setReg .iPTP_FIRST 0 1).setReg .iPTP_RUN 0 0
    if s3.reg .CK_STATE 5 = 3 ∧ (s3.reg .iSERVO 0 = 0 ∨ s3.reg .iSERVO 0 = 3) then s3.discAcquire false else s3

/-- Whether a message is of the domain and by the transport in force (R358). -/
def State.ptpTaken (s : State) (h : PtpHead) : Bool :=
  h.domain.toNat == s.reg .PTP_DOMAIN 0 && h.transport.val == s.reg .PTP_TRANSPORT 0

/-- PTP_ANNOUNCE (R359); one with stepsRemoved of 255 or more is passed over, as IEEE 1588-2019 has it. -/
def execPtpAnnounce (port : Fin 2) (a : Announce) (s : State) : Out :=
  let p := port.val
  if s.reg .PP_ENABLE p = 0 ∨ s.linkUp p 0 = false ∨ s.ptpTaken a.head = false ∨ 255 ≤ a.steps.toNat then .next s
  else
    let mine (x : ForeignMaster) : Bool := x.port == p && x.source == a.source.toNat
    let m : ForeignMaster := ⟨p, a.source.toNat, [a.priority1.toNat, a.clockClass.toNat, a.accuracy.toNat,
      a.variance.toNat, a.priority2.toNat], a.steps.toNat, a.gm.toNat, ofInt 32 a.utc.toInt, a.interval.toNat,
      s.clock, ((s.foreign.find? mine).map (fun x => x.seenAt + 1)).getD 0⟩
    .next ({ s with foreign := s.foreign.filter (fun x => !mine x) ++ [m] } : State).selectMaster

/-- Whether a master has not been heard for PTP_ANN_TIMEOUT of its intervals (R359). -/
def State.masterStale (s : State) (m : ForeignMaster) : Bool :=
  decide (m.seenAt + s.reg .PTP_ANN_TIMEOUT 0 * logInterval (asInt 8 m.interval) ≤ s.clock)

/-- No master is left (R359, R361). -/
def State.masterLost (s : State) : State :=
  let s1 := (s.setReg .PTP_SLAVE_PORT 0 0xFF).setReg .iPTP_SOURCE 0 0
  let s2 := (s1.showPort 0).showPort 1
  if s2.reg .iSERVO 0 = 2 then s2.discHoldover false else s2

/-- Another domain or transport is in force: no master is in view in it yet (R358, R359). -/
def State.forgetMasters (s : State) : State :=
  let s1 : State := { s with foreign := [] }
  if s.reg .PTP_SLAVE_PORT 0 < 2 then s1.masterLost else s1

/-- PTP_ANNOUNCE_TIMEOUT (R359): the masters of a port that are no longer heard are given up. -/
def execPtpAnnounceTimeout (port : Fin 2) (s : State) : Out :=
  let stale (m : ForeignMaster) := m.port == port.val && s.masterStale m
  let used := s.foreign.any (fun m => stale m && s.reg .PTP_SLAVE_PORT 0 == m.port
    && s.reg .iPTP_SOURCE 0 == m.source)
  let s1 := { s with foreign := s.foreign.filter (fun m => !stale m) }
  if used then
    match s1.bestMaster with
    | some _ => .next s1.selectMaster
    | none => .next s1.masterLost
  else .next s1

/-- LINK_DOWN (R342, R359). -/
def execLinkDown (port : Fin 2) (sub : Fin 4) (s : State) : Out :=
  .next ((s.dropLink port.val sub.val).cond (sub.val == 0) State.selectMaster)

/-! ## Messages (R358 to R361, R365) -/

/-- delayAsymmetry of a port, 2^-16 ns (R360). -/
def State.asym (s : State) (p : Nat) : Int := s.regInt .PP_ASYM p * 65536

/-- The path delay of the delay mechanism in force, 2^-16 ns. -/
def State.pathDelay (s : State) (p : Nat) : Int :=
  if s.reg .PTP_DELAY_MECH 0 = 1 then s.regInt .PP_PEER_DELAY p else s.regInt .PTP_MEAN_DELAY 0

/-- Whether a Sync is one the ordinary clock uses (R358, R359). -/
def State.syncUsed (s : State) (p source : Nat) (log : Int) : Bool :=
  s.reg .PTP_ENABLE 0 == 1 && s.reg .PP_ENABLE p == 1 && s.reg .PTP_SLAVE_PORT 0 == p
    && s.reg .iPTP_SOURCE 0 == source && s.reg .CK_STATE 5 == 3 && s.linkUp p 0
    && decide (-7 ≤ log) && decide (log ≤ 1)

/-- PTP_SYNC (R358, R360, R361): `t1` is its origin time stamp, `corr` the correction fields of Sync and
Follow_Up, `t2` its time stamp at the ball, all in 2^-16 ns; `log` is its interval. -/
def execPtpSync (port : Fin 2) (h : PtpHead) (source : BitVec 80) (log : BitVec 8) (t1 : Nat) (corr : Int) (t2 : Nat)
    (s : State) : Out :=
  let p := port.val
  if s.ptpTaken h = false ∨ s.syncUsed p source.toNat log.toInt = false then .next s
  else
    let diff : Int := (t2 : Int) - t1 - corr
    let offset := diff - s.asym p - s.pathDelay p
    let s1 := (s.setRegInt .PTP_OFFSET 0 offset).setRegInt .iPTP_DIFF 0 diff
    let s2 := if s1.reg .iSERVO 0 = 0 ∨ s1.reg .iSERVO 0 = 3 then s1.discAcquire false else s1
    .next (s2.discOffset false offset)

/-- Bytes of a PTP message on the wire under the transport in force. -/
def State.ptpLen (s : State) (len : Nat) : Nat :=
  let tag := if s.reg .NET_VID 0 = 0 then 0 else 4
  match s.reg .PTP_TRANSPORT 0 with
  | 0 => max 60 (14 + tag + 28 + len)
  | 1 => max 60 (14 + tag + 48 + len + 2)
  | _ => max 60 (14 + tag + len)

/-- A PTP message of Flaed's own leaves on a port (R349). -/
def State.ptpSend (s : State) (p kind seq len : Nat) (fields : List Int) : State :=
  let m := OutMsg.ptp p kind seq fields
  (s.sendMore [m]).sendOwn p 0 (s.reg .NET_PCP_PTP 0) (s.ptpLen len) m

/-- A multicast message of Flaed's own leaves on both ports, where their links are up (R346). -/
def State.ptpSendBoth (s : State) (kind seq len : Nat) : State :=
  forN 2 (s.send []) (fun t p => t.cond (t.linkUp p 0) (fun u => u.ptpSend p kind seq len []))

/-- PTP_DELAY_REQ_SEND (R358, R346): at the interval the master states, on both ports; `t3` is its time stamp at
the ball of the slave port. -/
def execPtpDelayReqSend (t3 : Nat) (s : State) : Out :=
  let p := s.reg .PTP_SLAVE_PORT 0
  let due := s.reg .iPTP_SENT 0 == 0
    || decide (s.reg .iPTP_SENT 0 + logInterval (asInt 8 (s.reg .iPTP_EVERY 0)) ≤ s.clock + 1)
  if s.reg .PTP_ENABLE 0 = 0 ∨ 1 < p ∨ s.reg .PTP_DELAY_MECH 0 = 1 ∨ s.linkUp p 0 = false ∨ due = false then
    .next s
  else
    let seq := (s.reg .iPTP_SEQ 0 + 1) % 65536
    let s1 := (((s.setReg .iPTP_SEQ 0 seq).setReg .iPTP_T3 0 t3).setReg .iPTP_WAIT 0 1).setReg .iPTP_SENT 0
      (s.clock + 1)
    .next (s1.ptpSendBoth 1 seq 44)

/-- PTP_DELAY_RESP (R358, R360): `t4` is its receive time stamp, `corr` its correction field and `every`
the Delay_Req interval it states. The mean is rounded down. -/
def execPtpDelayResp (port : Fin 2) (h : PtpHead) (seq : BitVec 16) (t4 : Nat) (corr : Int) (every : BitVec 8)
    (s : State) : Out :=
  if s.ptpTaken h = false ∨ s.reg .iPTP_WAIT 0 = 0 ∨ s.reg .PTP_SLAVE_PORT 0 ≠ port.val ∨ seq.toNat ≠ s.reg .iPTP_SEQ 0
      ∨ s.reg .PTP_DELAY_MECH 0 = 1 then .next s
  else
    let mean := (s.regInt .iPTP_DIFF 0 + ((t4 : Int) - s.regInt .iPTP_T3 0 - corr)) / 2
    .next (((s.setReg .iPTP_WAIT 0 0).setRegInt .PTP_MEAN_DELAY 0 mean).setReg .iPTP_EVERY 0 every.toNat)

/-- Whether a port takes part in peer delay (R365). -/
def State.peerPort (s : State) (p : Nat) : Bool :=
  s.reg .PTP_DELAY_MECH 0 == 1 && s.reg .PP_ENABLE p == 1 && s.linkUp p 0

/-- PDELAY_REQ_SEND (R365): once per second; `t1` is its time stamp at the ball. -/
def execPdelayReqSend (port : Fin 2) (t1 : Nat) (s : State) : Out :=
  let p := port.val
  if s.peerPort p = false ∨ (s.reg .iPP_SENT p ≠ 0 ∧ s.clock + 1 < s.reg .iPP_SENT p + 1000000000) then .next s
  else
    let seq := (s.reg .iPP_SEQ p + 1) % 65536
    let s1 := ((s.setReg .iPP_SEQ p seq).setReg .iPP_T1 p t1).setReg .iPP_SENT p (s.clock + 1)
    .next ((s1.send []).ptpSend p 2 seq 54 [])

/-- PDELAY_REQ (R365): a one-step Pdelay_Resp answers it, whose correction is the request's and the time
from `t2`, its arrival, to `t3`, the departure of the answer. -/
def execPdelayReq (port : Fin 2) (h : PtpHead) (seq : BitVec 16) (corr : Int) (t2 t3 : Nat) (s : State) : Out :=
  if s.peerPort port.val && h.transport.val == s.reg .PTP_TRANSPORT 0 then
    .next ((s.send []).ptpSend port.val 3 seq.toNat 54 [corr + (t3 : Int) - t2])
  else .next s

/-- PDELAY_RESP (R365): `corr` is the correction of the answer (with a Follow_Up's, and the difference of
the time stamps a two-step answer carries) and `t4` its arrival. The mean is rounded down. -/
def execPdelayResp (port : Fin 2) (h : PtpHead) (seq : BitVec 16) (corr : Int) (t4 : Nat) (s : State) : Out :=
  let p := port.val
  if s.peerPort p = false ∨ h.transport.val ≠ s.reg .PTP_TRANSPORT 0 ∨ seq.toNat ≠ s.reg .iPP_SEQ p then .next s
  else .next (s.setRegInt .PP_PEER_DELAY p (((t4 : Int) - s.regInt .iPP_T1 p - corr) / 2))

/-- PTP_MANAGEMENT (R358): under profile 0, the SMPTE metadata TLV of the grandmaster. -/
def execPtpManagement (h : PtpHead) (gm : BitVec 64) (tlv : List Byte) (s : State) : Out :=
  if s.ptpTaken h = true ∧ s.reg .PTP_PROFILE 0 = 0 ∧ gm.toNat = s.reg .PTP_GM_ID 0 then
    .next (s.setReg .PTP_SMPTE 0 (leNat (tlv.take 64)))
  else .next s

/-! ## Sources (R356, R369) -/

/-- TB_SOURCE_WRITE (R356): count and rate stay; SYNC_IN begins with its first edge. -/
def execTbSourceWrite (acc : Accessor) (v : BitVec 8) (s : State) : Out :=
  .next (writeParam s acc .TB_SOURCE 0 v.toNat (fun t =>
    let changed := t.reg .TB_SOURCE 0 != v.toNat
    let u := (t.putReg .TB_SOURCE 0 v.toNat).showServo
    u.cond (changed && v.toNat == 1) (fun w =>
      ((w.setReg .iSYNC_FIRST 0 1).setReg .iSYNC_STATE 0 0).setReg .iSYNC_RUN 0 0)))

/-- TB_SET (R356). -/
def execTbSet (acc : Accessor) (time : BitVec 64) (s : State) : Out :=
  .next (writeParam s acc .TB_SET 0 time.toNat (fun t =>
    if t.reg .TB_SOURCE 0 = 2 then t.stepTime ((time.toNat * 2 ^ 48 : Nat) - (t.tb : Int))
    else t.refuse Code.tbBusy))

/-- TB_ADJ (R356). -/
def execTbAdj (acc : Accessor) (rate : BitVec 32) (s : State) : Out :=
  .next (writeParam s acc .TB_ADJ 0 rate.toNat (fun t =>
    if t.reg .TB_SOURCE 0 = 2 then t.setRate rate.toInt else t.refuse Code.tbBusy))

/-- The armed alignment of the Welt dividers (R423): PLLs whose surface is not OFF, or that are not
LOCKED, are skipped. -/
def State.alignDividers (s : State) : State :=
  if s.reg .CK_SYNC_ARM 0 = 0 then s
  else
    let skipped := (List.range 2).foldl (fun m surf =>
      let k := 3 + surf
      if bit (s.reg .CK_SYNC_MASK 0) k && !(s.reg .SO_OUT_STATE surf == 0 && s.reg .CK_STATE k == 3) then
        m + 2 ^ k else m) 0
    ((s.setReg .CK_SYNC_ARM 0 0).setReg .CK_SYNC_SKIPPED 0 skipped).bump .CK_SYNC_COUNT 0

/-- An edge of SYNC_IN as a whole second (R369). -/
def State.syncSecond (s : State) (stamp : Nat) : State :=
  let second := 1000000000 * 65536
  if s.reg .iSYNC_FIRST 0 = 1 then
    let load := s.reg .TB_SYNC_LOAD 0
    let s1 := ((s.setReg .iSYNC_FIRST 0 0).setReg .TB_SYNC_LOAD 0 (load + 1000000000)).setReg .iSYNC_AT 0
      s.clock
    (s1.stepTime (((load * 65536 : Nat) - (stamp : Int)) * 2 ^ 32)).discAcquire true
  else
    let near : Int := (stamp : Int) - ((stamp + second / 2) / second * second : Nat)
    if 100000 * 65536 < near.natAbs then s.bump .TB_SYNC_REJECT 0
    else
      let s1 := (s.setReg .iSYNC_AT 0 s.clock).setReg .TB_SYNC_LOAD 0 (s.reg .TB_SYNC_LOAD 0 + 1000000000)
      let s2 := if s1.reg .iSYNC_STATE 0 = 0 ∨ s1.reg .iSYNC_STATE 0 = 3 then s1.discAcquire true else s1
      s2.discOffset true near

/-- SYNC_IN_EDGE (R369, R423): `stamp` is the time of the rising edge in 2^-16 ns. -/
def execSyncInEdge (stamp : Nat) (s : State) : Out :=
  let s1 := (s.setReg .TB_SYNC_TIME 0 (stamp / 65536)).alignDividers
  .next (s1.cond (s1.reg .TB_SOURCE 0 == 1) (fun t => t.syncSecond stamp))

/-- SYNC_IN_HOLDOVER (R369): 3 s without an accepted edge. -/
def execSyncInHoldover (s : State) : Out :=
  if s.reg .TB_SOURCE 0 = 1 ∧ (s.reg .iSYNC_STATE 0 = 1 ∨ s.reg .iSYNC_STATE 0 = 2)
      ∧ s.reg .iSYNC_AT 0 + 3000000000 ≤ s.clock then .next (s.discHoldover true)
  else .next s

end Sys2Proof.Machine
end

