-- ==== Sys2Proof/Machine/Clocks.lean ====
section
/-! DEFINITION. The commands of the clocks (13_clocking.md, R412 to R423): loss and return of REFCLK, the
states of the PLLs, what they do to the domains, frequency changes and spread ramps. -/
namespace Sys2Proof.Machine

/-! ## What the domains do (R421, R422) -/

/-- A surface loses its Welt domain (R218, R219, R249, R421). -/
def State.weltLost (s : State) (surf : Nat) : State := (s.force surf 1).weltDomainLost surf

/-- A surface's Welt domain is back, once both PLL-FB and its own PLL are LOCKED (R422): bring-up from
DETECT (R247). -/
def State.weltBack (s : State) (surf : Nat) : State :=
  if s.reg .CK_STATE 1 = 3 ∧ s.reg .CK_STATE (3 + surf) = 3 then
    (s.unforce surf 1).bringUp surf
  else s

/-- NT and TB fall back to REF (R357, R421): links go down and the disciplines enter HOLDOVER. -/
def State.netClockLost (s : State) : State :=
  let s1 := ((s.dropPort 0).dropPort 1).selectMaster
  let s2 := s1.cond (s1.reg .iSERVO 0 == 2) (fun t => t.discHoldover false)
  s2.cond (s2.reg .iSYNC_STATE 0 == 2) (fun t => t.discHoldover true)

/-- The domains of PLL `k` leave the VCO (R421). -/
def State.domainLost (s : State) (k : Nat) : State :=
  match k with
  | 0 => s.setReg .CK_THROTTLE_REQ 0 1
  | 1 => (s.weltLost 0).weltLost 1
  | 3 => s.weltLost 0
  | 4 => s.weltLost 1
  | 5 => s.netClockLost
  | _ => s

/-- Every channel is to be retrained once before it serves requests (R296). -/
def State.holdChannels (s : State) : State :=
  (forN 32 s (fun t c => t.startRetrain c)).setReg .iHB_HELD 0 0xFFFFFFFF

/-- The initialisation of the channels completes, and the periods of retraining start (R295): it is taken to
complete when PLL-HB first locks after a reset. -/
def State.startPeriods (s : State) : State :=
  if s.reg .iRT_BASE 0 = 0 then s.setReg .iRT_BASE 0 (s.clock + 1) else s

/-- The domains of PLL `k` return to the VCO (R421); `why` says why they left it. A surface whose Welt domain was
lost meanwhile is brought up (R422). -/
def State.domainBack (s : State) (k why : Nat) : State :=
  match k with
  | 0 => s.setReg .CK_THROTTLE_REQ 0 0
  | 1 => if why = 0 then s else (s.weltBack 0).weltBack 1
  | 2 => s.startPeriods.cond (why != 0) State.holdChannels
  | 3 => if (why = 0 ∨ why = 3) ∧ bit (s.reg .SO_FORCED 0) 1 = false then s.stepDetect 0 else s.weltBack 0
  | 4 => if (why = 0 ∨ why = 3) ∧ bit (s.reg .SO_FORCED 1) 1 = false then s.stepDetect 1 else s.weltBack 1
  | _ => s

/-! ## Losing lock (R412, R416) -/

/-- PLL `k` is handled as having lost lock (R416): counted, reported, and relocked with its target
unchanged. -/
def State.pllLost (s : State) (k : Nat) : State :=
  let was := s.reg .CK_STATE k == 3
  let s1 := ((s.setReg .iCK_WHY k 1).toBypass k).bump .CK_UNLOCKS k
  (s1.raise Code.pllUnlock none [(8, k)]).cond was (fun t => t.domainLost k)

/-- PLL_UNLOCK (R416, R422): a LOCKED PLL loses lock; one in its sequence restarts it. -/
def execPllUnlock (k : Fin 7) (s : State) : Out :=
  let st := s.reg .CK_STATE k.val
  if st = 3 then .next (s.pllLost k.val)
  else if st = 4 then .next s
  else .next (s.toBypass k.val)

/-- REFCLK_LOSS (R412). -/
def execRefclkLoss (s : State) : Out :=
  if s.reg .CK_REF_STATE 0 = 1 then .next s
  else .next (forN 7 ((s.setReg .CK_REF_STATE 0 1).setReg .iCK_WIN 0 s.clock) State.pllLost)

/-- REFCLK_RETURN (R412): after 1 ms of valid edges; each PLL relocks. -/
def execRefclkReturn (s : State) : Out :=
  if s.reg .CK_REF_STATE 0 = 1 ∧ s.reg .iCK_WIN 0 + 1000000 ≤ s.clock then
    .next (forN 7 ((s.setReg .CK_REF_STATE 0 0).setReg .iCK_WIN 0 s.clock) State.toBypass)
  else .next s

/-- BACKUP_PERIOD_MEASURE (R412): at the end of each window of 1 ms while REFCLK is present. -/
def execBackupPeriodMeasure (period : BitVec 32) (s : State) : Out :=
  if s.reg .CK_REF_STATE 0 = 0 ∧ s.reg .iCK_WIN 0 + 1000000 ≤ s.clock then
    .next ((s.setReg .CK_BACKUP_PERIOD 0 period.toNat).setReg .iCK_WIN 0 s.clock)
  else .next s

/-! ## The sequence (R413 to R415) -/

/-- VCO_SETTLED (R413, R414): 1,024 ns after the domain came to the bypass clock; the seed is chosen. -/
def execVcoSettled (k : Fin 7) (s : State) : Out :=
  let p := k.val
  if s.reg .CK_STATE p = 0 ∧ s.reg .CK_REF_STATE 0 = 0 ∧ (s.reg .iPHASE 0 ≠ 4 ∨ p = 5)
      ∧ 1024 ≤ s.pllAge p then
    let (seed, used) := s.seedOf p
    .next ((s.setPll p 1).setReg .iCK_SEED p (seed + 64 * (match used with | some e => e + 1 | none => 0)))
  else .next s

/-- BAND_SEARCH_DONE (R414): `counts` are the counts of bands 0 to 63 over 128 reference cycles. -/
def execBandSearchDone (k : Fin 7) (counts : List Nat) (s : State) : Out :=
  let p := k.val
  if s.reg .CK_STATE p ≠ 1 then .next s
  else
    let v := s.reg .iCK_SEED p
    match s.chosenBand p (v % 64) counts with
    | none => .next (s.pllFailed p)
    | some b =>
      let s1 := (s.keepBand p b (if v / 64 = 0 then none else some (v / 64 - 1))).setReg .CK_BAND p b
      .next ((s1.setPll p 2).setReg .iCK_N p (s1.reg .CK_LOCK_N p))

/-- PLL_LOCKED (R413, R415): CK_LOCK_N reference cycles inside the window; the domain switches to the VCO,
and the event follows a PLL_UNLOCK only. -/
def execPllLocked (k : Fin 7) (s : State) : Out :=
  let p := k.val
  if s.reg .CK_STATE p = 2 ∧ 64 * s.reg .iCK_N p ≤ 10 * s.pllAge p then
    let why := s.reg .iCK_WHY p
    let s1 := ((s.setPll p 3).setReg .CK_LOCK_TIME p (s.clock - s.reg .iCK_START p)).bumpBy .CK_BYPASS_NS p
      (s.clock - s.reg .iCK_OUT p)
    let s2 := (s1.setReg .iCK_FAILS p 0).cond (why == 1) (fun t => t.raise Code.pllLocked none [(8, p)])
    .next (s2.domainBack p why)
  else .next s

/-- ACQUIRE_TIMEOUT (R413): 100 µs without lock. -/
def execAcquireTimeout (k : Fin 7) (s : State) : Out :=
  if s.reg .CK_STATE k.val = 2 ∧ 100000 ≤ s.pllAge k.val then .next (s.pllFailed k.val) else .next s

/-- PLL_RETRY (R413): after 1 ms, after 8 consecutive failures after 100 ms. -/
def execPllRetry (k : Fin 7) (s : State) : Out :=
  let wait := if 8 ≤ s.reg .iCK_FAILS k.val then 100000000 else 1000000
  if s.reg .CK_STATE k.val = 4 ∧ wait ≤ s.pllAge k.val then .next (s.toBypass k.val) else .next s

/-! ## Frequency changes (R410, R417 to R419) -/

/-- Whether the table of R419 refuses a change of PLL `k`; `relock` for CK_RELOCK. -/
def State.pllBusy (s : State) (k : Nat) (relock : Bool) : Bool :=
  s.reg .CK_STATE k != 3
    || (decide (k < 3) && (s.reg .SO_OUT_STATE 0 == 1 || s.reg .SO_OUT_STATE 1 == 1))
    || (relock && k == 3 && s.reg .SO_OUT_STATE 0 != 0) || (relock && k == 4 && s.reg .SO_OUT_STATE 1 != 0)

/-- A host write starts the sequence of PLL `k` (R413, R418). -/
def State.hostRelock (s : State) (k : Nat) : State := ((s.setReg .iCK_WHY k 2).toBypass k).domainLost k

/-- A write of CK_MARGIN after the checks of R380: a frequency change of the PLLs that have a margin. -/
def State.marginWrite (s : State) (k v : Nat) : State :=
  if s.pllBusy k false then s.refuse Code.pllBusy
  else
    let s1 := s.putReg .CK_MARGIN k v
    if k = 3 ∨ k = 4 ∨ k = 5 then s1 else s1.hostRelock k

/-- CK_MARGIN_WRITE (R417 to R419). -/
def execCkMarginWrite (acc : Accessor) (k : Fin 7) (v : BitVec 32) (s : State) : Out :=
  .next (writeParam s acc .CK_MARGIN k.val v.toNat (fun t => t.marginWrite k.val v.toNat))

/-- CK_RELOCK (R417, R419). -/
def execCkRelock (acc : Accessor) (k : Fin 7) (s : State) : Out :=
  .next (writeParam s acc .CK_RELOCK k.val 1 (fun t =>
    if t.pllBusy k.val true then t.refuse Code.pllBusy else t.hostRelock k.val))

/-- SSC_RAMP_END (R420): 1 ms after the ramp began. -/
def execSscRampEnd (k : Fin 2) (s : State) : Out :=
  if s.reg .iSSC_RAMP k.val = 1 ∧ s.reg .iSSC_AT k.val + 1000000 ≤ s.clock then
    .next (s.setReg .iSSC_RAMP k.val 0)
  else .next s

/-- SSC_RELOCK_RAMP (R420): 1 ms after the lock that follows an interrupted ramp. -/
def execSscRelockRamp (k : Fin 2) (s : State) : Out :=
  if s.reg .iSSC_WAIT k.val = 1 ∧ s.reg .CK_STATE k.val = 3 ∧ 1000000 ≤ s.pllAge k.val then
    .next ((s.setReg .iSSC_WAIT k.val 0).startRamp k.val)
  else .next s

/-- CK_SYNC_ARM (R423): the next edge of SYNC_IN aligns the dividers. -/
def execCkSyncArm (acc : Accessor) (s : State) : Out :=
  .next (writeParam s acc .CK_SYNC_ARM 0 1 (fun t => t.setReg .CK_SYNC_ARM 0 1))

end Sys2Proof.Machine
end

