-- ==== Sys2Proof/Machine/Masters.lean ====
section
/-! DEFINITION. Requests to the central store and what a freeze and a release do to the unit behind the
master (01_architecture.md, R28 to R32; 09_central_store.md, R272 to R280, R302, R303, R407). -/
namespace Sys2Proof.Machine

/-- What a freeze does beside showing it (R31, R124, R173, R321, R339): a cluster's tiles are not completed and
its capacity is lost; the descriptor of a lace ends; the job of a codec or Skiver ends when the unit is released. A job runs as a whole
at its end, so a freeze before that meets it with nothing done. -/
def State.frozeNow (s old : State) (m : Master) : State :=
  let k := m.id.val
  if old.isFrozen m || !s.isFrozen m || m.ingest then s
  else if k < 0x10 then (s.abandonHeld k).capacityLost
  else if k < 0x50 then
    s.cond (old.laceActive (k - 0x10) || (old.reg .LC_STATE (k - 0x10) == 4 && old.reg .iLC_NEXT (k - 0x10) == 0))
      (fun t => t.laceFrozen (k - 0x10))
  else if 0x54 ≤ k ∧ k < 0x58 then s.refreshTaps
  else s

/-- Whether an identity is reserved and never issued: CORE 0x66 to 0xFF (R28). -/
def masterReserved (m : Master) : Bool := !m.ingest && decide (0x66 ≤ m.id.val)

/-- What a PCIe function sends for a request: its data, as a poisoned TLP where a word of it is poisoned, or a
completer abort when the function is frozen (R31, R278). -/
def State.completeFor (s : State) (m : Master) (r : ReadAnswer) : State :=
  if m.ingest || decide (m.id.val < 0x5C) || decide (0x5F < m.id.val) then s
  else s.send [if r.frozen then .completion [] 4
    else if r.poisoned.isEmpty then .completion r.data 0 else .poisonedTlp r.data]

/-- MEMORY_READ (R272, R277, R280, R29): the request's parts are checked, served and reported, and
the answer kept; while PLL-HB is in bypass, or a channel of it retrains after that, it waits (R296). -/
def execMemoryRead (m : Master) (port : Port) (addr len : Nat) (seen : Seen) (s : State) : Out :=
  if s.rangeServed addr len && !masterReserved m then
    let (r, s1) := (s.see seen).read m port (splitParts addr len)
    .next ((({ s1 with answer := r } : State).completeFor m r).frozeNow s m |>.see s.seen)
  else .next s

/-- MEMORY_WRITE (R272, R274, R275, R280, R29); waits as a read does. -/
def execMemoryWrite (m : Master) (port : Port) (addr : Nat) (data : List Byte)
    (seen : Seen) (s : State) : Out :=
  if s.rangeServed addr data.length && !masterReserved m then
    let (f, s1) := (s.see seen).write m port data (splitParts addr data.length)
    let r : ReadAnswer := ⟨f, [], []⟩
    .next ((({ s1 with answer := r } : State).completeFor m r).frozeNow s m |>.see s.seen)
  else .next s

/-- A released unit starts from its idle state (R30): a cluster runs its self-test (R135), an ingest path
is OPEN again (R407), a codec or Skiver first writes the record of its interrupted job (R173, R339). -/
def State.releaseUnit (s : State) (m : Master) : State :=
  let k := m.id.val
  if m.ingest then s.cond (s.reg .STR_STATE k == 2) (fun t => t.setReg .STR_STATE k 1)
  else if k < 0x10 then s.startSelfTest k
  else if k < 0x50 then s.releaseLace (k - 0x10)
  else if k < 0x54 then s.releaseSkiver (k - 0x50)
  else if k < 0x5C then s.releaseCodec (k - 0x54)
  else if 0x60 ≤ k ∧ k < 0x64 then s.setReg .iPIP_FROZE_NS 0 0
  else s

/-- A frozen master is released (R30, R303). -/
def State.unfreeze (s : State) (m : Master) : State :=
  let r : Reg := if m.ingest then .MS_FROZEN_INGEST else .MS_FROZEN_CORE
  (s.setReg r 0 (setBit (s.reg r 0) m.id.val false)).releaseUnit m

/-- A write of MS_RELEASE after the checks of R380 (R303, R407). -/
def State.masterRelease (s : State) (m : Master) : State :=
  if s.isFrozen m then s.unfreeze m else s.refuse Code.masterNotFrozen

/-- MS_RELEASE. -/
def execMsRelease (acc : Accessor) (m : Master) (s : State) : Out :=
  .next (writeParam s acc .MS_RELEASE 0 (256 * masterSpace m + m.id.val) (fun t => t.masterRelease m))

end Sys2Proof.Machine
end

