-- ==== Sys2Proof/Machine/Governor.lean ====
section
/-! DEFINITION. The commands of the power governor (01_architecture.md, R39 to R43; 14_power_thermal.md,
R428 to R430). -/
namespace Sys2Proof.Machine

/-- Whether an operation that holds its grant is under way, so that the grant is still held (R429). -/
def State.opRuns (s : State) : PowerOp → Bool
  | .keeperWrite k => s.keeperBusy.any (fun w => keeperBank w.page == k)
  | .bringUp surf => s.needsBringUp surf
  | .laneAttempt surf p => s.reg .iWL_BUSY surf == p || s.detectMet surf p
      || (!s.ofBringUp surf p && decide (1 ≤ s.lane surf p) && decide (s.lane surf p ≤ 3))
  | .insole => s.reg .INS_STATE 0 == 3
  | .skiver k => s.reg .SK_STATE k == 2 || s.reg .SK_STATE k == 3
  | .huskJob n => s.reg .GC_STATE n == 2 || s.reg .GC_STATE n == 3
  | .huskStanding n => s.codecServes n
  | .sweepBurst => false
  | .scrubBurst => s.reg .SC_STATE 0 == 4
  | .clusterWake n => s.reg .CL_STATE n == 6

/-- POWER_GRANT_REQUEST (R39 to R41, R429): the operation asks for its amount in its class; one that
already waits or holds its grant asks for no second. -/
def execPowerGrantRequest (op : PowerOp) (s : State) : Out := .next (s.request op)

/-- What an operation does at once when its grant comes (R246, R248, R252, R308, R338). -/
def State.grantTaken (s : State) : PowerOp → State
  | .bringUp surf => s.stepDetect surf
  | .laneAttempt surf _ => (s.stepDetect surf).kick surf
  | .skiver k => if s.reg .SK_STATE k = 1 then s.setReg .SK_STATE k 2 else s
  | .scrubBurst => if s.reg .SC_STATE 0 = 2 then s.setReg .SC_STATE 0 3 else s
  | _ => s

/-- POWER_GRANT (R40, R41, R430): the governor evaluates the head requests, and the operation that is
granted begins where nothing else is awaited. PC, its clock, stands still in a hardware shutdown (R439). -/
def execPowerGrant (s : State) : Out :=
  let s1 := (s.send []).cond (s.reg .iPHASE 0 != 4) State.governor
  .next ((s1.grants.drop s.grants.length).foldl State.grantTaken s1)

/-- POWER_GRANT_RETURN (R39, R429, R430): an operation that is not, or no longer, under way returns its
grant or withdraws its request. -/
def execPowerGrantReturn (op : PowerOp) (s : State) : Out :=
  .next (if s.granted op && s.opRuns op then s else s.release op)

/-- A write of PW_CEILING after the checks of R380 (R43): refused below the base reservation plus both
reservations; tri-word 7 follows (R459). -/
def State.ceilingWrite (s : State) (v : Nat) : State :=
  if v < s.powerBase + s.reg .iS_RESV 0 + s.reg .iS_RESV 1 then s.refuse Code.ceilingRefused
  else s.putTri .PW_CEILING v

/-- PW_CEILING_WRITE (R43). -/
def execPwCeilingWrite (acc : Accessor) (v : BitVec 16) (s : State) : Out :=
  .next (writeParam s acc .PW_CEILING 0 v.toNat (fun t => t.ceilingWrite v.toNat))

end Sys2Proof.Machine
end

