-- ==== Sys2Proof/Machine/Thermal.lean ====
section
/-! DEFINITION. Temperatures (14_power_thermal.md, R432 to R443): sensors, recognition of thresholds, the
thermal state and the stage due, the gates, hardware shutdown. A reading is a Q8.4 count. -/
namespace Sys2Proof.Machine

/-! ## Panel diodes (R433) -/

/-- Whether a forward voltage at 10 µA, in nV, shows an open or shorted pair. -/
def pairBad (v10 : Nat) : Bool := decide (1000000000 < v10) || decide (v10 < 200000000)

/-- The temperature, in 2^-16 °C, that two forward voltages in nV give: the difference less that of 90 µA
across TS_SERIES, over the ideality factor. PRESUMED: q / (k ln 10) = 5,039.77847 K/V. -/
def diodeTemp (ideality series v10 v100 : Nat) : Int :=
  ((v100 : Int) - v10 - (90000 * series / 256 : Nat)) * 503977847 * 16384 * 65536
    / ((100000 * 1000000000 * (max ideality 1) : Nat) : Int) - 17901158

/-- The mean of the 16 measurements held, rounded half up to 1/16 °C. -/
def meanTemp (m : Nat) : Int :=
  let sum := ((List.range 16).map (fun k => asInt 32 (m >>> (32 * k)))).sum
  (2 * sum + 65536) / 131072

/-- One measurement of diode pair `n`: a bad one makes it invalid and counts an episode once; it is valid
again after 16 good ones. -/
def State.measurePair (s : State) (n v10 v100 : Nat) : State :=
  let i := 32 + n
  if pairBad v10 then
    let s1 := ((s.setReg .TS_VALID i 0).setReg .iTS_GOOD n 0).cond (s.reg .iTS_BAD n == 0)
      (fun t => t.bump .TS_FAULTS i)
    s1.setReg .iTS_BAD n 1
  else
    let t := diodeTemp (s.reg .TS_IDEALITY i) (s.reg .TS_SERIES i) v10 v100
    let m := s.reg .iTS_MEAS n * 2 ^ 32 + ofInt 32 t
    let good := min 16 (s.reg .iTS_GOOD n + 1)
    let s1 := (s.setReg .iTS_MEAS n m).setReg .iTS_GOOD n good
    if good < 16 then s1
    else
      let c := meanTemp (s1.reg .iTS_MEAS n)
      let s2 := ((s1.setReg .TS_VALID i 1).setReg .iTS_BAD n 0).setRegInt .TS_TEMP i c
      if s2.regInt .TS_MAX i < c then s2.setRegInt .TS_MAX i c else s2

/-! ## Sensors (R432) -/

/-- A sensor shows a reading. -/
def State.takeReading (s : State) (n v : Nat) : State :=
  let s1 := (s.setReg .TS_TEMP n v).setReg .TS_VALID n 1
  if s1.regInt .TS_MAX n < asInt 16 v then s1.setReg .TS_MAX n v else s1

/-- The readings of the die sensors. -/
def State.dieTemps (s : State) : List Int := (List.range 24).map (fun n => s.regInt .TS_TEMP n)

/-- The highest of a list of readings. -/
def highest (xs : List Int) : Int := xs.tail.foldl max (xs.headD 0)

/-- The lowest of a list of readings. -/
def lowest (xs : List Int) : Int := xs.tail.foldl min (xs.headD 0)

/-- TH_JUNCTION: the highest die reading. -/
def State.junction (s : State) : Int := s.regInt .TH_JUNCTION 0

/-- Every sensor is read. -/
def State.readSensors (s : State) (die : List (BitVec 16)) (diodes : List (Nat × Nat)) : State :=
  let s1 := forN 24 s (fun t n => match die[n]? with
    | some v => t.takeReading n v.toNat
    | none => t)
  let s2 := forN 2 s1 (fun t k => t.takeReading (24 + k) (t.reg .CH_TEMP (16 * k)))
  let s3 := forN 4 s2 (fun t n => match diodes[n]? with
    | some v => t.measurePair n v.1 v.2
    | none => t)
  s3.setRegInt .TH_JUNCTION 0 (highest s3.dieTemps)

/-! ## Recognition (R435) -/

/-- One sample of condition `c`: `enter` says whether the sample meets it, `leave` whether it meets the
opposite one moved to the safe side. A run is recognised at the sample 250 intervals after its first. -/
def State.recognise (s : State) (c : Nat) (enter leave : Bool) : State :=
  let on := s.reg .iTHR c == 1
  if (if on then leave else enter) = false then s.setReg .iTHR_RUN c 0
  else if 251 ≤ s.reg .iTHR_RUN c + 1 then (s.setReg .iTHR c (b2n !on)).setReg .iTHR_RUN c 0
  else s.bump .iTHR_RUN c

/-- A temperature above a limit, with 3.0 °C of hysteresis: entered above it, left at 3.0 °C below it. -/
def State.recogniseAbove (s : State) (c : Nat) (t limit : Int) : State :=
  s.recognise c (decide (limit < t)) (decide (t ≤ limit - 48))

/-- A temperature below a limit, likewise. -/
def State.recogniseBelow (s : State) (c : Nat) (t limit : Int) : State :=
  s.recognise c (decide (t < limit)) (decide (limit + 48 ≤ t))

/-! ## The warning and the thermal state (R436, R437) -/

/-- The sensors of the warning with their thresholds. -/
def State.warnMargins (s : State) : List (Nat × Int) :=
  (List.range 26).map (fun n => (n, s.regInt .TS_TEMP n
    - (if n < 24 then s.regInt .TH_WARN 0 else s.regInt .TH_HBM_WARN 0)))

/-- The sensor that stood highest above its threshold, the lowest number on ties. -/
def State.hottest (s : State) : Nat :=
  (s.warnMargins.foldl (fun b e => if b.2 < e.2 then e else b) (s.warnMargins.headD (0, 0))).1

/-- The warning has been recognised as entered: THERMAL is raised and the grace timer starts. -/
def State.warnEntered (s : State) : State :=
  let n := s.hottest
  let s1 := s.raise Code.thermal none [(8, n), (16, s.reg .TS_TEMP n)]
  if s1.reg .TH_STATE 0 = 0 ∨ s1.reg .TH_STATE 0 = 3 then
    (s1.setReg .TH_STATE 0 1).setReg .iTH_TIMER 0 s1.clock
  else s1

/-- The warning has been recognised as left. -/
def State.warnLeft (s : State) : State :=
  if s.reg .TH_STATE 0 = 1 ∨ s.reg .TH_STATE 0 = 2 then
    (if s.reg .TH_STAGE_DUE 0 = 0 then s.setReg .TH_STATE 0 0
     else (s.setReg .TH_STATE 0 3).setReg .iTH_TIMER 0 s.clock)
  else s

/-- One sample of the warning condition. -/
def State.stepWarning (s : State) : State :=
  let ms := s.warnMargins.map Prod.snd
  let s1 := s.recognise 0 (ms.any (fun m => decide (0 ≤ m))) (ms.all (fun m => decide (m < -48)))
  if s1.reg .iTHR 0 = s.reg .iTHR 0 then s1
  else if s1.reg .iTHR 0 = 1 then s1.warnEntered else s1.warnLeft

/-- The number the panel warning of a surface names: 32 + the lowest selected pair, or 0xFF. -/
def State.panelSensor (s : State) (surf : Nat) : Nat :=
  if s.reg .TP_SOURCE surf = 0 then 32 + ((setBits 4 (s.reg .TP_DIODES surf)).headD 0) else 0xFF

/-- One sample of the panel warning of a surface: it enforces nothing. -/
def State.stepPanelWarn (s : State) (surf : Nat) : State :=
  let t := s.regInt .TP_TEMP surf
  let w := s.regInt .TP_WARN surf
  let s1 := s.recognise (1 + surf) (decide (w ≤ t)) (decide (t < w - 48))
  if s1.reg .iTHR (1 + surf) = 1 ∧ s.reg .iTHR (1 + surf) = 0 then
    s1.raise Code.thermal none [(8, s.panelSensor surf), (16, s.reg .TP_TEMP surf)]
  else s1

/-! ## The gates (R442, R443) -/

/-- One sample of the Keeper gate: HOT above 95.0 °C, COLD below −20.0 °C. -/
def State.stepKeeperGate (s : State) : State :=
  let s1 := (s.recogniseAbove 3 s.junction 1520).recogniseBelow 4 (lowest s.dieTemps) (-320)
  s1.setReg .TH_KEEPER_GATE 0 (if s1.reg .iTHR 3 = 1 then 2 else if s1.reg .iTHR 4 = 1 then 1 else 0)

/-- One sample of the glass gate: HOT above 55.0 °C, COLD below 0.0 °C, and closed while its pair is
invalid. -/
def State.stepGlassGate (s : State) : State :=
  if s.reg .TS_VALID s.glassPair = 0 then
    ((s.setReg .iTHR_RUN 5 0).setReg .iTHR_RUN 6 0).setReg .TH_GLASS_GATE 0 3
  else
    let t := s.regInt .TS_TEMP s.glassPair
    let s1 := (s.recogniseAbove 5 t 880).recogniseBelow 6 t 0
    s1.setReg .TH_GLASS_GATE 0 (if s1.reg .iTHR 5 = 1 then 2 else if s1.reg .iTHR 6 = 1 then 1 else 0)

/-! ## Comparators (R439, R440) -/

/-- One sample of the comparators: two consecutive readings at or above TH_SHUT trip one, and the peak is
latched; samples with every die sensor below TH_RESTART are counted. -/
def State.stepComparators (s : State) : State :=
  let shut := asInt 16 (s.reg .iCMP_SHUT 0)
  let s1 := forN 24 s (fun t n => t.setReg .iCMP_RUN n
    (if shut ≤ t.regInt .TS_TEMP n then min 2 (t.reg .iCMP_RUN n + 1) else 0))
  let trip := (List.range 24).any (fun n => s1.reg .iCMP_RUN n == 2)
  let s2 := if trip ∧ s1.reg .iCMP_TRIP 0 = 0 then
      (s1.setReg .iCMP_TRIP 0 1).setReg .iCMP_PEAK 0 (s1.reg .TH_JUNCTION 0)
    else s1
  if s2.dieTemps.all (fun t => decide (t < asInt 16 (s2.reg .iCMP_RESTART 0))) then s2.bump .iCMP_COOL 0
  else s2.setReg .iCMP_COOL 0 0

/-- THERMAL_SAMPLE (R432 to R443): one sample. `die` lists the readings of sensors 0 to 23, `diodes` the
forward voltages of the panel pairs at 10 µA and at 100 µA in nV, `rails` the power of the rails (R431,
R444). During a hardware shutdown only the sensors and the comparators act (R439). -/
def execThermalSample (die : List (BitVec 16)) (diodes : List (Nat × Nat)) (rails : List (BitVec 16))
    (s : State) : Out :=
  let ps := (List.range 9).map (fun k => (rails.getD k 0).toNat)
  let s1 := ((s.readSensors die diodes).setReg .PW_MEASURED 0 (packRecords 2 ps)).setReg .PW_TOTAL 0 ps.sum
  let s2 := s1.stepComparators
  let s3 := s2.setReg .iMIN_MAX 0 (ofInt 16 (max (s2.regInt .iMIN_MAX 0) s2.junction))
  if s3.reg .iPHASE 0 = 4 then .next s3
  else .next ((((s3.stepWarning.stepPanelWarn 0).stepPanelWarn 1).stepKeeperGate).stepGlassGate)

/-- THERMAL_GRACE_EXPIRE (R437): TH_GRACE after the timer started, the stage due moves by one. -/
def execThermalGraceExpire (s : State) : Out :=
  let st := s.reg .TH_STATE 0
  if st = 0 ∨ s.reg .iPHASE 0 = 4 ∨ s.clock < s.reg .iTH_TIMER 0 + s.reg .TH_GRACE 0 * 1000000 then .next s
  else
    let s1 := s.setReg .iTH_TIMER 0 s.clock
    let due := s1.reg .TH_STAGE_DUE 0
    if st = 3 then
      let s2 := s1.setReg .TH_STAGE_DUE 0 (due - 1)
      .next (if due ≤ 1 then s2.setReg .TH_STATE 0 0 else s2)
    else .next ((s1.setReg .TH_STATE 0 2).setReg .TH_STAGE_DUE 0 (min (due + 1) (s1.reg .TH_STAGE_MAX 0)))

/-- A write of TH_STAGE_MAX after the checks of R380 (R437). -/
def State.stageMaxWrite (s : State) (v : Nat) : State :=
  let s1 := s.putReg .TH_STAGE_MAX 0 v
  if v < s1.reg .TH_STAGE_DUE 0 then
    let s2 := s1.setReg .TH_STAGE_DUE 0 v
    if v = 0 ∧ s2.reg .TH_STATE 0 = 3 then s2.setReg .TH_STATE 0 0 else s2
  else s1

/-- TH_STAGE_MAX_WRITE (R437). -/
def execThStageMaxWrite (acc : Accessor) (v : BitVec 8) (s : State) : Out :=
  .next (writeParam s acc .TH_STAGE_MAX 0 v.toNat (fun t => t.stageMaxWrite v.toNat))

/-- A write of TH_SHUT or TH_RESTART after the checks of R380 and R441: the comparators load it and its
tri-word is written (R439, R459). -/
def State.shutWrite (s : State) (restart : Bool) (v : Nat) : State :=
  if restart then (s.putTri .TH_RESTART v).setReg .iCMP_RESTART 0 v
  else (s.putTri .TH_SHUT v).setReg .iCMP_SHUT 0 v

/-- TH_SHUT_WRITE (R441). -/
def execThShutWrite (acc : Accessor) (restart : Bool) (v : BitVec 16) (s : State) : Out :=
  .next (writeParam s acc (if restart then .TH_RESTART else .TH_SHUT) 0 v.toNat
    (fun t => t.shutWrite restart v.toNat))

/-- HARDWARE_SHUTDOWN (R439): a tripped comparator idles the lanes, stops every clock but NT, TB and SL,
and holds the Pip cores in reset; page writes and an Insole update already under way run on. -/
def execHardwareShutdown (s : State) : Out :=
  if s.reg .iCMP_TRIP 0 = 0 ∨ s.reg .iPHASE 0 = 4 then .next s
  else
    let eie (surf p : Nat) : OutMsg := .slot surf p (List.replicate 4 (Welt.eie.control, Welt.eie.bits))
    let live := (List.range 2).flatMap (fun surf => ((List.range 84).filter (fun p =>
      s.lane surf p != laneIdle)).map (fun p => eie surf p))
    let s1 := s.send live
    let s2 := forN 2 s1 (fun t surf => forN 84 t (fun u p => (u.haltLane surf p).setLane surf p laneIdle))
    let s3 := forN 7 s2 (fun t k => if k = 5 then t else t.toBypass k)
    .next (((((s3.setReg .CK_THROTTLE_REQ 0 1).setReg .iG_RUN 0 0).setReg .iSHUT_OWED 0 1).setReg .iCMP_COOL
      0 0).setReg .iPHASE 0 4)

end Sys2Proof.Machine
end

