-- ==== Sys2Proof/Machine/WeltMsg.lean ====
section
/-! DEFINITION. The Welt return (08_welt_link.md, R257 to R263, R265): return messages, their checks
and what each does, return lane lock, panel calibration deliveries. -/
namespace Sys2Proof.Machine

/-! ## Framing (R257, R258, R260) -/

/-- A return message whose framing, CRC, MTYPE and LEN are right. -/
structure ReturnMsg where
  mtype : Nat
  mseq : Nat
  data : List Byte
  deriving DecidableEq, Repr

/-- Whether a message type is defined and its LEN, in words of 8 bytes, is that of R260. -/
def returnLenOk (mtype len : Nat) (data : List Byte) : Bool :=
  match mtype with
  | 0x01 => len == 3
  | 0x02 => len == 1 + leAt data 1 1
  | 0x03 => len == 1
  | 0x04 => len == 1
  | 0x05 => len == 1
  | 0x06 => len == 1
  | 0x07 => len == 1 + leAt data 0 1 && decide (leAt data 0 1 ≤ 16)
  | 0x08 => len == 4
  | 0x09 => decide (2 ≤ len) && decide (len ≤ 4097)
  | 0x0A => len == 0
  | 0x0B => len == 1
  | 0x0C => len == 1 + 2 * leAt data 0 1
  | _ => false

/-- A block of a return lane as it is descrambled (R257): whether it is a control block, and its 8 bytes, or none
where its sync header is invalid. -/
structure RBlockIn where
  valid : Bool
  control : Bool
  bytes : List Byte
  deriving DecidableEq, Repr

/-- A return lane takes one block (R257, R258): the sync header is followed, and counted where it is invalid
and the lane LOCKED; the 64 bits pass the self-synchronising descrambler 1 + x^39 + x^58. -/
def State.takeBlock (s : State) (i : Nat) (b : RBlock) : RBlockIn × State :=
  let valid := b.sync == 1 || b.sync == 2
  let w := s.reg .iWR_DESC i + 2 ^ 58 * b.bits.toNat
  let data := (w >>> 58 ^^^ w >>> 19 ^^^ w) % 2 ^ 64
  let s1 := ((s.setReg .iWR_DESC i (w >>> 64)).setReg .iWR_RUN i (if valid then min 64 (s.reg .iWR_RUN i + 1)
    else 0)).setReg .iWR_HIST i ((2 * s.reg .iWR_HIST i + b2n !valid) % 2 ^ 64)
  (⟨valid, b.sync == 1, leBytes 8 data⟩,
    s1.cond (!valid && s.reg .WR_STATE i == 2) (fun t => t.bump .WR_BLOCK_ERRS i))

/-- A return lane takes blocks in turn. -/
def State.takeBlocks (s : State) (i : Nat) : List RBlock → List RBlockIn × State
  | [] => ([], s)
  | b :: bs =>
    let (x, s1) := s.takeBlock i b
    let (xs, s2) := s1.takeBlocks i bs
    (x :: xs, s2)

/-- Whether a block is an IDLE block (R257). -/
def RBlockIn.idle (b : RBlockIn) : Bool := b.valid && b.control && leAt b.bytes 0 1 == 0x1E

/-- Reads the blocks of one message: SOM, LEN data blocks and EOM, with nothing between them (R257); none where
R258 discards it. -/
def parseReturn (bs : List RBlockIn) : Option ReturnMsg :=
  let raw := bs.flatMap RBlockIn.bytes
  let len := leAt raw 2 2
  let data := (raw.drop 8).take (8 * len)
  let eom := raw.drop (8 + 8 * len)
  if bs.length = len + 2 ∧ bs.all RBlockIn.valid = true
      ∧ bs.map RBlockIn.control = true :: (List.replicate len false ++ [true])
      ∧ leAt raw 0 1 = 0x33 ∧ leAt raw 6 1 = 1 ∧ leAt raw 7 1 = 0
      ∧ leAt eom 0 1 = 0x55 ∧ leAt eom 5 3 = 0 ∧ leAt eom 1 4 = crc32c ((raw.drop 1).take 7 ++ data)
      ∧ returnLenOk (leAt raw 1 1) len data = true then
    some ⟨leAt raw 1 1, leAt raw 4 2, data⟩
  else none

/-- A message of SEQ `mseq` is processed (R258): its copies are known among the latest 256 of the surface, and the
lane counts it. -/
def State.noteReturn (s : State) (surf : Surface) (r : RLane) (mseq : Nat) : State :=
  let mine := (s.seqs.filter (fun e => e.1 == surf.val)).take 255
  let others := s.seqs.filter (fun e => e.1 != surf.val)
  ({ s with seqs := (surf.val, mseq) :: mine ++ others, sent := [] } : State).bump .WR_MESSAGES
    (2 * surf.val + r.val)

/-- Blocks arrive on return lane `r`, a message after IDLE blocks (R257, R258): discarded and counted, dropped as
a copy, or processed by `eff` where it is of the type the command names. A lane in TEST carries no blocks, and
one that is not LOCKED no messages. -/
def State.receive (s : State) (surf : Surface) (r : RLane) (mtype : Nat) (raw : List RBlock)
    (eff : State → ReturnMsg → State) : State :=
  let i := 2 * surf.val + r.val
  if s.reg .WR_STATE i = 3 then s
  else
    let (bs, s1) := s.takeBlocks i raw
    let msg := bs.dropWhile RBlockIn.idle
    if s.reg .WR_STATE i ≠ 2 ∨ msg = [] then s1
    else match parseReturn msg with
      | none => s1.bump .WL_MSG_ERRORS surf.val
      | some m =>
        if m.mtype ≠ mtype ∨ s.seqs.contains (surf.val, m.mseq) = true then s1
        else eff (s1.noteReturn surf r m.mseq) m

/-! ## CAPS (R247, R262) -/

/-- CAPS: a new one is held and starts a bring-up, or faults every lane where it is incompatible; a
repeat records its SEQ. -/
def execCaps (surf : Surface) (r : RLane) (raw : List RBlock) (s : State) : Out :=
  let k := surf.val
  .next (s.receive surf r 0x01 raw (fun t m =>
    let content := leAt m.data 0 24
    let s1 := t.setReg .iWL_CAPSSEQ k m.mseq
    if t.reg .iWL_CAPS k = 1 ∧ t.reg .WL_PANEL_CAPS k = content then s1
    else ((s1.setReg .WL_PANEL_CAPS k content).setReg .iWL_CAPS k 1).bringUp k))

/-- CAPS_HOLD_EXPIRE (R262): neither return lane was LOCKED for 100 ms. -/
def execCapsHoldExpire (surf : Surface) (s : State) : Out :=
  let k := surf.val
  if s.reg .iWL_CAPS k = 1 ∧ s.returnLocked k = false ∧ s.reg .iWL_LOSTAT k + 100000000 ≤ s.clock then
    .next (((s.setReg .iWL_CAPS k 0).setReg .WL_PANEL_CAPS k 0).stepDetect k)
  else .next s

/-! ## LANE_STATUS (R246, R251, R254, R259, R261) -/

/-- Trailer CRC failures of a lane reported within the last second (R254). -/
def State.crcRecent (s : State) (i : Nat) : Nat :=
  ((s.crcWindow.filter (fun e => e.1 == i && decide (s.clock < e.2.1 + 1000000000))).map
    (fun e => e.2.2)).sum

/-- Reported trailer CRC failures; enough within 1 s spare a carrying lane (R254). -/
def State.noteCrcFails (s : State) (surf p n : Nat) : State :=
  if n = 0 then s
  else
    let i := laneIx surf p
    let s1 := ({ s with crcWindow :=
      (s.crcWindow.filter (fun e => decide (s.clock < e.2.1 + 1000000000))) ++ [(i, s.clock, n)] } :
        State).bumpBy .WL_CRC_FAILS i n
    if s1.reg .WL_AUTO_SPARE surf = 1 ∧ s1.reg .WL_SPARE_THRESH surf ≤ s1.crcRecent i then
      s1.spareLane surf p
    else s1

/-- The locks a lane reports move it through its training (R246, R251). -/
def State.noteLocks (s : State) (surf p : Nat) (bitLock blockLock : Bool) : State :=
  let i := laneIx surf p
  let s1 := (s.setReg .iWL_BIT i (b2n bitLock)).setReg .iWL_BLK i (b2n blockLock)
  if s1.lane surf p = laneActive then s1.cond (!blockLock) (fun t => t.trigger surf p false)
  else match s1.lanePhase surf p with
    | 1 =>
      if bitLock then
        let s2 := s1.setPhase surf p 2
        if blockLock then s2.toExchange surf p else s2
      else s1
    | 2 => if blockLock then s1.toExchange surf p else s1
    | 3 => if blockLock then s1 else s1.attemptFailed surf p
    | _ => s1

/-- One lane entry (R261). -/
def State.laneEntry (s : State) (surf w : Nat) : State :=
  let p := bits w 7 0
  if 84 ≤ p then s
  else
    let i := laneIx surf p
    let s1 := (((s.setReg .WL_EYE_W i (bits w 55 48)).setReg .WL_EYE_H i (4 * bits w 63 56)).bumpBy
      .WL_BLOCK_ERRS i (bits w 47 32)).noteLocks surf p (bit w 8) (bit w 9)
    let s2 := if bit w 10 then
        (s1.bump .WL_FW_FAILS i).cond (s1.lane surf p == laneActive) (fun t => t.trigger surf p false)
      else s1
    s2.noteCrcFails surf p (bits w 31 16)

/-- The panel acknowledges the latest complete message, and with it those sent before it (R259). -/
def State.fwdAck (s : State) (surf ack : Nat) : State :=
  let covered (q : Nat) : Bool := decide ((ack + 256 - q % 256) % 256 < 128)
  let s1 : State := { s with fwd := s.fwd.filter (fun m => !(m.surf == surf && covered m.mseq)) }
  forN 84 s1 (fun t p =>
    let i := laneIx surf p
    if t.lanePhase surf p = 3 ∧ t.reg .iWL_CFG i ≠ 0 ∧ covered (t.reg .iWL_CFG i - 1) = true then
      t.setReg .iWL_CFGACK i 1 else t)

/-- LANE_STATUS. -/
def execLaneStatus (surf : Surface) (r : RLane) (raw : List RBlock) (s : State) : Out :=
  .next (s.receive surf r 0x02 raw (fun t m => let d := m.data;
    let s1 := t.fwdAck surf.val (leAt d 0 1)
    let s2 := forN (leAt d 1 1) s1 (fun u k => u.laneEntry surf.val (leAt d (8 + 8 * k) 8))
    (s2.stepDetect surf.val).kick surf.val))

/-! ## Coefficient negotiation (R233, R245) -/

/-- EQ_REQ: honoured in EXCHANGE under NEGOTIATE; the 64th request ends the negotiation, and the
coefficients in force stay. -/
def execEqReq (surf : Surface) (r : RLane) (raw : List RBlock) (s : State) : Out :=
  .next (s.receive surf r 0x03 raw (fun t m =>
    let d := m.data
    let p := leAt d 0 1
    let i := laneIx surf.val p
    if 84 ≤ p ∨ t.lanePhase surf.val p ≠ 3 ∨ t.reg .iWL_NEG i ≠ 0 then t
    else
      let b1 := leAt d 1 1
      let pre := if bit b1 0 then (Welt.preset (bits b1 3 1)).1 else leAt d 2 1
      let post := if bit b1 0 then (Welt.preset (bits b1 3 1)).2.2 else leAt d 3 1
      let s1 := t.bump .iWL_REQN i
      if 64 ≤ s1.reg .iWL_REQN i then (s1.setReg .iWL_NEG i 1).dropEqs surf.val p
      else { s1 with eqReqs := s1.eqReqs ++ [⟨surf.val, p, pre, post, leAt d 4 1, s1.clock⟩] }))

/-- EQ_APPLY: at the first training group that begins 2 µs after a request, its TS2 shows the new
coefficients, or the rejection, with the request's REQ_ID. -/
def execEqApply (surf : Surface) (p : Lane) (s : State) : Out :=
  let k := surf.val
  let i := laneIx k p.val
  match s.eqDue k p.val with
  | none => .next s
  | some q =>
    if s.lanePhase k p.val = 3 ∧ s.reg .iWL_NEG i = 0 ∧ s.reg .iWL_TSAT i ≤ s.clock then
      let ok := Welt.coeffOk q.pre q.post
      let s1 := ((({ s with eqReqs := s.eqReqs.erase q } : State).setReg .iWL_EQACK i q.id).setReg .iWL_EQREJ i
        (b2n !ok)).cond ok (fun t => t.setReg .WL_COEFF i (Welt.coeff q.pre q.post))
      .next ((s1.groupSent k p.val).send [.slot k p.val ((s1.groupBlocks k p.val).map (fun b => (b.control, b.bits)))])
    else .next s

/-- EQ_DONE: the negotiation of a lane ends; the eye it reports is the lane's. -/
def execEqDone (surf : Surface) (r : RLane) (raw : List RBlock) (s : State) : Out :=
  .next (s.receive surf r 0x04 raw (fun t m => let d := m.data;
    let p := leAt d 0 1
    let i := laneIx surf.val p
    if 84 ≤ p then t
    else
      let s1 := (t.setReg .WL_EYE_W i (leAt d 1 1)).setReg .WL_EYE_H i (4 * leAt d 2 1)
      if s1.lanePhase surf.val p = 3 then (s1.setReg .iWL_NEG i 1).dropEqs surf.val p else s1))

/-- EQ_NEGOTIATION_TIMEOUT. -/
def execEqNegotiationTimeout (surf : Surface) (p : Lane) (s : State) : Out :=
  let i := laneIx surf.val p.val
  if s.lanePhase surf.val p.val = 3 ∧ s.reg .iWL_NEG i = 0 ∧ 8000000 ≤ s.laneAge surf.val p.val then
    .next ((s.setReg .iWL_NEG i 1).dropEqs surf.val p.val)
  else .next s

/-! ## Sparing, sensors, PRBS (R253, R254, R260, R265) -/

/-- SPARE_REQ. -/
def execSpareReq (surf : Surface) (r : RLane) (raw : List RBlock) (s : State) : Out :=
  .next (s.receive surf r 0x05 raw (fun t m => let d := m.data;
    if t.reg .WL_AUTO_SPARE surf.val = 1 ∧ leAt d 0 1 < 84 then t.spareLane surf.val (leAt d 0 1)
    else t))

/-- SPARE_ACK: the move of a logical lane is acknowledged. -/
def execSpareAck (surf : Surface) (r : RLane) (raw : List RBlock) (s : State) : Out :=
  .next (s.receive surf r 0x06 raw (fun t m => let d := m.data;
    { t with moves := t.moves.map (fun m =>
        if m.surf = surf.val ∧ m.logical = leAt d 0 1 ∧ m.toLane = leAt d 1 1 then
          { m with acked := true } else m) }))

/-- SENSORS: the message is kept whole in WL_PANEL_SENSORS. -/
def execSensors (surf : Surface) (r : RLane) (raw : List RBlock) (s : State) : Out :=
  .next (s.receive surf r 0x07 raw (fun t m => let d := m.data;
    ((t.setReg .WL_PANEL_SENSORS surf.val (leNat d)).setReg .iWL_SENSAT surf.val t.clock).setReg
      .iWL_SENSN surf.val (leAt d 0 1)))

/-- PRBS_REPORT: the reports of forward lanes are added to WL_PRBS_ERR, saturating at 2^48 − 1. -/
def execPrbsReport (surf : Surface) (r : RLane) (raw : List RBlock) (s : State) : Out :=
  .next (s.receive surf r 0x0C raw (fun t m => let d := m.data;
    forN (leAt d 0 1) t (fun u k =>
      let p := leAt d (8 + 16 * k) 1
      let i := laneIx surf.val p
      if p < 84 ∧ leAt d (9 + 16 * k) 1 = 0 then
        u.setReg .WL_PRBS_ERR i (min (2 ^ 48 - 1) (u.reg .WL_PRBS_ERR i + leAt d (16 + 16 * k) 8))
      else u)))

/-! ## Panel calibration deliveries (R263) -/

/-- CAL_RESULT is sent and shown in WL_CAL_RESULT. -/
def State.calResult (s : State) (surf kind result crc : Nat) : State :=
  (s.setReg .WL_CAL_RESULT surf result).sendFwd surf 0x84
    (leBytes 1 kind ++ leBytes 1 result ++ leBytes 2 0 ++ leBytes 4 crc)

/-- The delivery under way of a surface ends with a result; its slot becomes INVALID. -/
def State.endDelivery (s : State) (surf result : Nat) : State :=
  match s.deliveries.find? (fun d => d.surf == surf) with
  | none => s
  | some d =>
    (({ s with deliveries := s.deliveries.erase d } : State).setReg .CAL_STATE d.inst 3).calResult surf
      d.kind result d.crc

/-- CAL_BEGIN (R263 step 1). -/
def State.calBegin (s : State) (surf : Nat) (d : List Byte) : State :=
  let kind := leAt d 0 1
  let n := s.reg .CAL_PANEL_SLOT surf
  let i := 32 * kind + 16 * surf + n
  let w := leAt d 1 2
  let h := leAt d 3 2
  let total := leAt d 16 4
  let crc := leAt d 20 4
  let s1 := s.endDelivery surf 5
  if 2 ≤ kind then s1
  else if s1.calBusy i then
    (s1.raise Code.calSlotBusy none [(8, surf), (8, kind), (8, n)]).calResult surf kind 1 crc
  else if w ≠ s1.reg .SURF_WIDTH surf ∨ h ≠ s1.reg .SURF_HEIGHT surf ∨ total ≠ calSetSize kind w h then
    s1.calResult surf kind 2 crc
  else if asInt 16 (leAt d 10 2) ≤ asInt 16 (leAt d 8 2) ∨ asInt 16 (leAt d 12 2) ≤ asInt 16 (leAt d 10 2)
    then s1.calResult surf kind 4 crc
  else
    let s2 := (((((s1.setReg .CAL_STATE i 1).setReg .CAL_T0 i (leAt d 8 2)).setReg .CAL_T1 i
      (leAt d 10 2)).setReg .CAL_T2 i (leAt d 12 2)).setReg .iCAL_W i w).setReg .iCAL_H i h
    { s2 with deliveries := s2.deliveries ++ [⟨surf, i, kind, total, crc, leAt d 24 4, []⟩] }

/-- CAL_BEGIN. -/
def execCalBegin (surf : Surface) (r : RLane) (raw : List RBlock) (s : State) : Out :=
  .next (s.receive surf r 0x08 raw (fun t m => let d := m.data; t.calBegin surf.val d))

/-- CAL_DATA (R263 step 2); it waits for the store (R296). -/
def execCalData (surf : Surface) (r : RLane) (raw : List RBlock) (seen : Seen) (s : State) : Out :=
  if s.storeServes = false then .next s
  else .next (((s.see seen).receive surf r 0x09 raw (fun t m =>
    match t.deliveries.find? (fun x => x.surf == surf.val) with
    | none => t
    | some x =>
      let off := leAt m.data 0 4
      let body := m.data.drop 8
      if x.total < off + body.length then t.endDelivery surf.val 4
      else
        let (frozen, s1) := t.store t.pipMaster .pip (t.reg .CAL_BASE x.inst + off) body
        if frozen then s1
        else { s1 with deliveries := s1.deliveries.map (fun y =>
            if y = x then { y with got := y.got ++ [(off, body.length)] } else y) })).see s.seen)

/-- How far from byte 0 the ranges written reach without a gap. -/
def coveredTo (got : List (Nat × Nat)) : Nat :=
  forN got.length 0 (fun x _ => got.foldl (fun m e => if e.1 ≤ m then max m (e.1 + e.2) else m) x)

/-- CAL_END (R263 step 3); it waits for the store (R296). -/
def execCalEnd (surf : Surface) (r : RLane) (raw : List RBlock) (seen : Seen) (s : State) : Out :=
  if s.storeServes = false then .next s
  else .next (((s.see seen).receive surf r 0x0A raw (fun t _ =>
    match t.deliveries.find? (fun x => x.surf == surf.val) with
    | none => t
    | some x =>
      let i := x.inst
      if coveredTo x.got < x.total then t.endDelivery surf.val 4
      else
        let (a, s1) := t.fetch t.pipMaster .cue (t.reg .CAL_BASE i) x.total
        if a.frozen ∨ a.poisoned ≠ [] ∨ crc32c a.data ≠ x.crc then s1.endDelivery surf.val 3
        else
          let s2 := ({ s1 with deliveries := s1.deliveries.erase x } : State).calValid i
            (s1.reg .iCAL_W i) (s1.reg .iCAL_H i) 2
          (s2.setReg .CAL_RESIDUAL i (if x.kind = 0 then x.resid else 0)).calResult surf.val x.kind 0
            x.crc)).see s.seen)

/-- CAL_NONE (R260, R263): the panel's answer to CAL_REQ that it holds no set; it changes nothing. -/
def execCalNone (surf : Surface) (r : RLane) (raw : List RBlock) (s : State) : Out :=
  .next (s.receive surf r 0x0B raw (fun t _ => t))

/-! ## Return lane lock (R258) -/

/-- RETURN_LANE_LOCK: 64 consecutive sync headers are valid. The eye monitor of the lane then shows what it
measures. -/
def execReturnLaneLock (surf : Surface) (r : RLane) (raw : List RBlock) (s : State) : Out :=
  let i := 2 * surf.val + r.val
  if s.reg .WR_STATE i = 3 then .next s
  else
    let s1 := (s.takeBlocks i raw).2
    if s.reg .WR_STATE i = 2 ∨ s1.reg .iWR_RUN i < 64 then .next s1
    else
      let (w, s2) := s1.draw
      let (h, s3) := s2.draw
      let s4 := ((((s3.send []).setReg .WR_STATE i 2).setReg .iWR_HIST i 0).setReg .WR_EYE_W i (w % 256)).setReg
        .WR_EYE_H i (h % 65536)
      .next ((s4.stepDetect surf.val).kick surf.val)

/-- The busy lane that has not started waits again while neither return lane is LOCKED (R248, R258). -/
def State.holdAttempts (s : State) (surf : Nat) : State :=
  let b := s.reg .iWL_BUSY surf
  if b < 84 ∧ s.reg .iWL_CTX (laneIx surf b) = 0
      ∧ s.moves.any (fun m => m.surf == surf && m.fromLane == b && !m.done) = false then s.holdLane surf b
  else s

/-- RETURN_LANE_UNLOCK: 16 of the latest 64 sync headers are invalid. With neither return lane LOCKED,
WELT_RETURN_LOST is raised, a delivery ends with ABORTED and no attempt starts. -/
def execReturnLaneUnlock (surf : Surface) (r : RLane) (raw : List RBlock) (s : State) : Out :=
  let k := surf.val
  let i := 2 * k + r.val
  if s.reg .WR_STATE i = 3 then .next s
  else
    let s0 := (s.takeBlocks i raw).2
    if s.reg .WR_STATE i ≠ 2 ∨ popCount 64 (s0.reg .iWR_HIST i) < 16 then .next s0
    else
      let s1 := ((s0.send []).setReg .WR_STATE i 1).setReg .iWR_RUN i 0
      if s1.returnLocked k then .next s1
      else
        let s2 := (s1.setReg .iWL_LOSTAT k s1.clock).raise Code.weltReturnLost (some (s1.reg .WL_QUEUE k))
          [(8, k)]
        .next (((s2.endDelivery k 5).holdAttempts k).stepDetect k)

end Sys2Proof.Machine
end

