-- ==== Sys2Proof/Machine/Firmware.lean ====
section
/-! DEFINITION. Firmware images and the warm restart (17_startup_service.md, R485 to R499), lifetime
counters (R503) and the SMBus target (R517 of 18_electrical_package.md). Of the quad-SPI NOR, State holds
whether each slot's image is valid, its VERSION and its PROG_LENGTH. -/
namespace Sys2Proof.Machine

/-! ## Images and the boot selector (R485 to R489) -/

/-- Whether an image is valid (R486). A PROG_LENGTH or PROG_OFFSET that the header's table does not allow (R485)
makes it invalid. DEDUCED (log 12). -/
def imageOk (b : List Byte) : Bool :=
  let len := leAt b 8 4
  let off := leAt b 12 4
  let n := leAt b 16 4
  leAt b 0 4 == 0x46574C46 && decide (1 ≤ len) && decide (len ≤ 16776960) && decide (256 + len ≤ b.length)
    && decide (1 ≤ n) && decide (n ≤ 262144) && off % 8 == 0 && decide (off + n ≤ len)
    && crc32c ((b.drop 256).take len) == leAt b 20 4 && Config.firmwareSignatureOk (b.take (256 + len))

/-- BOOT_MODE as sampled (R484). -/
def State.bootMode (s : State) : Nat := bits (s.reg .SV_STRAPS 0) 1 0

/-- The boot selector (R487). -/
def selector (active trial attempts : Nat) : Nat :=
  packBits [(8, active), (8, trial), (8, 0), (8, attempts), (32, 0)]

/-- The voted boot selector: ACTIVE. -/
def State.selActive (s : State) : Nat := bits (s.triword 6) 7 0

/-- TRIAL. -/
def State.selTrial (s : State) : Nat := bits (s.triword 6) 15 8

/-- ATTEMPTS. -/
def State.selAttempts (s : State) : Nat := bits (s.triword 6) 31 24

/-- The selector is written, always as a whole tri-word (R488); where the Keeper refuses its pages it waits
(R451). -/
def State.setSelector (s : State) (v : Nat) : State :=
  if s.keeperOpen && !s.pageProtected 0 then
    (forN 3 s (fun t c => t.setReg .iTRI (triIx c 6) v)).bumpBy .KP_WRITES 0 3
  else { s.keeperRefuse with triPending := s.triPending.filter (fun p => !p.ofWord 6) ++ [.tri 6 v 0] }

/-- FW_IMAGE_BAD. -/
def State.imageBad (s : State) (i : Nat) : State := s.raise Code.fwImageBad none [(8, i)]

/-- Whether a slot holds a valid image. -/
def State.imageValid (s : State) (i : Nat) : Bool := s.reg .iNOR_VALID i == 1

/-- Image `i` is tried, then the other one; without either no image runs (R489). -/
def State.tryImage (s : State) (i : Nat) (trial : Bool) : State :=
  if s.imageValid i then (s.setReg .iBOOT_IMAGE 0 i).setReg .iBOOT_TRIAL 0 (b2n trial)
  else
    let s1 := (s.imageBad i).setReg .iBOOT_TRIAL 0 0
    if s1.imageValid (1 - i) then s1.setReg .iBOOT_IMAGE 0 (1 - i)
    else (s1.imageBad (1 - i)).setReg .iBOOT_IMAGE 0 0xFF

/-- The image is chosen at a POWER, DEVICE or WARM reset (R484, R489). -/
def State.chooseImage (s : State) : State :=
  match s.bootMode with
  | 0 =>
    let a := s.selActive % 2
    if s.selTrial = 0xFF then s.tryImage a false
    else if s.selAttempts = 0 then
      ((s.setSelector (selector a 0xFF 0)).imageBad s.selTrial).tryImage a false
    else (s.setSelector (selector a s.selTrial 0)).tryImage (s.selTrial % 2) true
  | 3 => (s.setReg .iBOOT_IMAGE 0 0xFF).setReg .iBOOT_TRIAL 0 0
  | m =>
    let s1 := s.setReg .iBOOT_TRIAL 0 0
    if s1.imageValid (m - 1) then s1.setReg .iBOOT_IMAGE 0 (m - 1)
    else (s1.imageBad (m - 1)).setReg .iBOOT_IMAGE 0 0xFF

/-! ## The warm restart (R32, R495, R496) -/

/-- The record of the lifetime counters is written (R503); one under way is followed by another. -/
def State.writeLife (s : State) : State :=
  if s.records.any (fun r => r.id == 0xF010) then s.noteKeep .LF_WARM 0 else s.writeRecord 0xF010

/-- Validations under way end INVALID (R496). -/
def State.endValidations (s : State) : State :=
  let stop (r : Reg) (t : State) (i : Nat) : State := if t.reg r i = 1 then t.setReg r i 3 else t
  forN 2 (forN 1024 (forN 64 s (stop .CAL_STATE)) (stop .CUE_STATE)) (stop .PG_STATE)

/-- An image being programmed when the firmware's tasks are reset ends FAILED, its slot invalid (R480, R497).
DEDUCED (log 79). -/
def State.endProgramming (s : State) : State :=
  let st := s.reg .FW_PROG_STATE 0
  if 1 ≤ st ∧ st ≤ 4 then (s.setReg .FW_PROG_STATE 0 6).imageBad (s.reg .iFW_TARGET 0) else s

/-- A warm restart begins; `cause` is that of the WATCHDOG_RESTART to be raised at RUNNING, 0xFF none. It
resets the Pip cores and releases them. One that an item of a WRITE message starts begins when the message
is performed. -/
def State.warmRestart (s : State) (cause : Nat) : State :=
  if s.reg .iPHASE 0 ≠ 1 then s
  else if s.reg .iPLV_CUR 0 ≠ 0 then s.setReg .iPLV_RESET 0 1
  else
    let frozen := s.reg .MS_FROZEN_CORE 0
    let s1 := (s.setReg .MS_FROZEN_CORE 0 (withBits frozen 0x63 0x60 0)).setReg .iPIP_FROZE_NS 0 0
    let s2 := (((s1.endDelivery 0 5).endDelivery 1 5).endValidations).endProgramming
    let s3 := ((s2.bump .FW_RESTARTS 0).bump .LF_WARM 0).setReg .SU_LAST_RESET 0 3
    ((s3.writeLife.chooseImage).setReg .iWARM_CAUSE 0 cause).setReg .iPHASE 0 3

/-- WARM_RESTART (R496): of its own it owes no WATCHDOG_RESTART. -/
def execWarmRestart (s : State) : Out := .next ((s.send []).warmRestart 0xFF)

/-- PIP_FREEZE_WATCHDOG (R32): 50 ms after all four Pip cores were frozen. -/
def execPipFreezeWatchdog (s : State) : Out :=
  if s.pipsFrozen = true ∧ s.reg .iPIP_FROZE_NS 0 + 50000000 ≤ s.clock then
    .next ((s.send []).warmRestart 0)
  else .next s

/-- WATCHDOG_TIMEOUT (R495): Pip core `core` has reported nothing for WD_TIMEOUT. -/
def execWatchdogTimeout (_core : Fin 4) (s : State) : Out := .next ((s.send []).warmRestart 1)

/-- TRIAL_TIMEOUT (R499). -/
def execTrialTimeout (s : State) : Out :=
  if s.reg .FW_STATE 0 = 1 ∧ s.reg .iTRIAL_NS 0 + s.reg .FW_TRIAL_TIMEOUT 0 * 1000000000 ≤ s.clock then
    .next ((s.send []).warmRestart 2)
  else .next s

/-! ## Firmware update (R497, R498) -/

/-- The slot that FW_PROGRAM writes (R497). -/
def State.programTarget (s : State) : Nat :=
  if s.reg .FW_STATE 0 = 2 then
    (match s.bootMode with
     | 1 => 0
     | 2 => 1
     | _ => 1 - s.selActive % 2)
  else 1 - s.reg .FW_RUNNING 0 % 2

/-- FW_PROGRAM written with 1 (R497): the slot's image is invalid until the sequence is DONE. -/
def State.programStart (s : State) : State :=
  let st := s.reg .FW_PROG_STATE 0
  if s.reg .FW_STATE 0 = 1 ∨ !(st == 0 || st == 5 || st == 6) then s.refuse Code.odRange
  else
    let k := s.programTarget
    ((s.setReg .iFW_TARGET 0 k).setReg .FW_PROG_STATE 0 1).setReg .iNOR_VALID k 0

/-- FW_PROGRAM. -/
def execFwProgram (acc : Accessor) (s : State) : Out :=
  .next (writeParam s acc .FW_PROGRAM 0 1 State.programStart)

/-- FW_PROGRAM_DONE (R486, R497): VERIFY, ERASE, WRITE and CHECK have run. `host` holds the image where it
comes from host memory; `readBack`: the slot read back as it was written. FW_SRC and FW_LENGTH are taken at this
instant: a DESIGN CHOICE (log 41), since R497 does not say when. -/
def execFwProgramDone (host : List Byte) (readBack : Bool) (seen : Seen) (s : State) : Out :=
  let st := s.reg .FW_PROG_STATE 0
  if st = 0 ∨ 5 ≤ st ∨ (s.reg .FW_SRC_SPACE 0 = 0 ∧ s.storeServes = false) then .next s
  else
    let n := s.reg .FW_LENGTH 0
    let k := s.reg .iFW_TARGET 0
    let (r, s1) := if s.reg .FW_SRC_SPACE 0 = 0 then (s.see seen).fetch s.pipMaster .pip (s.reg .FW_SRC 0) n
      else (⟨false, host.take n, []⟩, s)
    if !r.frozen && r.poisoned.isEmpty && imageOk r.data && readBack then
      .next (((((s1.setReg .FW_PROG_STATE 0 5).setReg .iNOR_VALID k 1).setReg .iNOR_VERSION k
        (leAt r.data 4 4)).setReg .iNOR_PLEN k (leAt r.data 16 4)).see s.seen)
    else .next (((s1.setReg .FW_PROG_STATE 0 6).imageBad k).see s.seen)

/-- A write of FW_SWITCH after the checks of R380 (R498). -/
def State.fwSwitch (s : State) (v : Nat) : State :=
  let run := s.reg .FW_RUNNING 0 % 2
  let st := s.reg .FW_STATE 0
  if v = 1 then
    if st = 0 ∧ s.imageValid (1 - run) = true then
      (s.setSelector (selector s.selActive (1 - run) 1)).warmRestart 0xFF
    else s.refuse Code.odRange
  else if v = 2 then
    if st = 1 then
      ((s.setSelector (selector run 0xFF 0)).raise Code.fwSwitched none
        [(8, run), (32, s.reg .FW_VERSION 0)]).setReg .FW_STATE 0 0
    else s.refuse Code.odRange
  else if st = 2 then s.refuse Code.odRange
  else s.warmRestart 0xFF

/-- FW_SWITCH_TRIAL. -/
def execFwSwitchTrial (acc : Accessor) (s : State) : Out :=
  .next (writeParam (s.send []) acc .FW_SWITCH 0 1 (fun t => t.fwSwitch 1))

/-- FW_SWITCH_COMMIT. -/
def execFwSwitchCommit (acc : Accessor) (s : State) : Out :=
  .next (writeParam s acc .FW_SWITCH 0 2 (fun t => t.fwSwitch 2))

/-- FW_SWITCH_RESTART. -/
def execFwSwitchRestart (acc : Accessor) (s : State) : Out :=
  .next (writeParam (s.send []) acc .FW_SWITCH 0 3 (fun t => t.fwSwitch 3))

/-! ## Service life (R503) -/

/-- 2^16 × 2^(k/16). PRESUMED: mathematics. -/
def pow2Table : List Nat :=
  [65536, 68438, 71468, 74632, 77936, 81386, 84990, 88752, 92682, 96785, 101070, 105545, 110218, 115098,
   120194, 125515, 131072]

/-- 2^((T − 90 °C) / 10 °C) in units of 2^-32, for a Q8.4 count; interpolated, to within 0.03 %. -/
def equivRate (t : Int) : Nat :=
  let e := t - 1440
  let q := e / 160
  let r := (e % 160).toNat
  let m := (pow2Table.getD (r / 10) 0 * (10 - r % 10) + pow2Table.getD (r / 10 + 1) 0 * (r % 10)) / 10
  if 0 ≤ q then m * 2 ^ (16 + q.toNat) else m * 2 ^ 16 / 2 ^ (-q).toNat

/-- The band of LF_TJ_HIST that holds a Q8.4 count (R504). -/
def tjBand (t : Int) : Nat := (max 0 (min 15 ((t + 320) / 160))).toNat

/-- Minutes collected in `r`, 60 to the hour: what is left, and the whole hours. -/
def wholeHours (minutes : Nat) : Nat × Nat := (minutes % 60, minutes / 60)

/-- LF_LIFE_USED (R503). -/
def lifeUsed (grade hours : Nat) : Nat :=
  if grade = 2 then 0xFFFF else min 0xFFFF (10000 * hours / (if grade = 1 then 350640 else 175320))

/-- LIFETIME_MINUTE (R503): the equivalent minutes are free within ±1 %. -/
def execLifetimeMinute (s : State) : Out :=
  let t := max (s.regInt .iMIN_MAX 0) s.junction
  let nominal := equivRate t
  let (x, s0) := s.draw
  let eq := nominal * 99 / 100 + x % (nominal / 50 + 1) + s0.reg .iEQUIV_MIN 0
  let hour := 60 * 2 ^ 32
  let s1 := (s0.setReg .iEQUIV_MIN 0 (eq % hour)).bumpBy .LF_EQUIV_H 0 (eq / hour)
  let b := tjBand t
  let (hm, hh) := wholeHours (s1.reg .iHIST_MIN b + 1)
  let hist := s1.reg .LF_TJ_HIST 0
  let s2 := (s1.setReg .iHIST_MIN b hm).setReg .LF_TJ_HIST 0 (blobSet hist (4 * b) 4 (blobGet hist (4 * b) 4 + hh))
  let (m, h) := wholeHours (s2.reg .iMIN_COUNT 0 + 1)
  let s3 := ((s2.setReg .iMIN_COUNT 0 m).bumpBy .LF_HOURS 0 h).setRegInt .iTJ_SUM 0 (s2.regInt .iTJ_SUM 0 + t)
  let n := 60 * s3.reg .LF_HOURS 0 + s3.reg .iMIN_COUNT 0
  let s4 := s3.setRegInt .LF_TJ_MEAN 0 (s3.regInt .iTJ_SUM 0 / (n : Nat))
  .next ((s4.setReg .LF_LIFE_USED 0 (lifeUsed Config.idGrade (s4.reg .LF_EQUIV_H 0))).setReg .iMIN_MAX 0
    0x8000)

/-- What the lifetime counters go on from after a reset: whole hours, and the mean (R503). -/
def State.restoreLife (s : State) : State :=
  let s1 := s.setRegInt .iTJ_SUM 0 (s.regInt .LF_TJ_MEAN 0 * (60 * s.reg .LF_HOURS 0 : Nat))
  s1.setReg .LF_LIFE_USED 0 (lifeUsed Config.idGrade (s1.reg .LF_EQUIV_H 0))

/-- LIFETIME_HOUR_WRITE (R503). -/
def execLifetimeHourWrite (s : State) : Out :=
  .next (if s.reg .iPHASE 0 = 1 then s.writeLife else s)

/-! ## The SMBus target (R517) -/

/-- Whether SMB_ALERT_N is low. -/
def State.smbAlert (s : State) : Bool := s.reg .TH_STATE 0 != 0 || s.reg .iPHASE 0 == 4

/-- The target sends bytes. -/
def State.smbSend (s : State) (n v : Nat) : Out := .next (s.send [.smbus (leBytes n v)])

/-- SMB_READ_JUNCTION. -/
def execSmbReadJunction (s : State) : Out := s.smbSend 2 (s.reg .TH_JUNCTION 0)

/-- SMB_READ_POWER. -/
def execSmbReadPower (s : State) : Out := s.smbSend 2 (s.reg .PW_TOTAL 0)

/-- SMB_READ_STATUS. -/
def execSmbReadStatus (s : State) : Out :=
  s.smbSend 1 (packBits [(2, s.reg .FW_STATE 0), (1, b2n (s.reg .iPHASE 0 == 4)), (3, s.reg .TH_STATE 0),
    (2, 0)])

/-- SMB_READ_PEAK. -/
def execSmbReadPeak (s : State) : Out := s.smbSend 2 (s.reg .TH_LAST_PEAK 0)

/-- SMB_READ_SERIAL: a block of 8 bytes, after its count. -/
def execSmbReadSerial (s : State) : Out := s.smbSend 9 (8 + 256 * s.reg .ID_SERIAL 0)

/-- SMB_ALERT_RESPONSE: the target's address while it pulls SMB_ALERT_N low. -/
def execSmbAlertResponse (s : State) : Out := if s.smbAlert then s.smbSend 1 0x4C else .next (s.send [])

end Sys2Proof.Machine
end

