-- ==== Sys2Proof/Machine/Insole.lean ====
section
/-! DEFINITION. The Insole legend (16_insole_seams.md, R463 to R472): updates, their frames and drive
levels, power failure and disabling. An image has bit 48c + j for pixel (c, j). -/
namespace Sys2Proof.Machine

/-! ## Drive levels (R464, R465) -/

/-- The code of transition `old` → `new` in frame `f` of a waveform table (R467). -/
def waveCode (table f old new : Nat) : Nat := blobGet table (64 * (2 * (old % 2) + new % 2) + f) 1

/-- The code of a pixel in frame `f` of the running update, counted across both passes (R467, R470). -/
def State.pixelCode (s : State) (f c j : Nat) : Nat :=
  let t := s.reg .iINS_WAVE 0
  let n := s.reg .iINS_N 0
  let old := b2n (bit (s.reg .iINS_OLD 0) (48 * c + j))
  let new := b2n (bit (s.reg .iINS_NEW 0) (48 * c + j))
  if s.reg .iINS_PASSES 0 < 2 then waveCode t f old new
  else if f < n then waveCode t f 1 0
  else waveCode t (f - n) 0 new

/-- The levels k of Lk of the commons and of the segments in one half of the slot of common `c`:
`plus` is the + half; `codes` are the codes of the slot's pixels (R465). -/
def halfLevels (plus : Bool) (c : Nat) (codes : List Nat) : List Nat × List Nat :=
  ((List.range 4).map (fun c' => if c' = c then (if plus then 0 else 4) else 2),
    codes.map (fun k => if plus then k else 4 - k))

/-- The eight halves of frame `f` in order: + first in even frames, − first in odd ones (R465). -/
def State.frameLevels (s : State) (f : Nat) : List (List Nat × List Nat) :=
  (List.range 4).flatMap (fun c =>
    let codes := (List.range 48).map (fun j => s.pixelCode f c j)
    let even := f % 2 == 0
    [halfLevels even c codes, halfLevels (!even) c codes])

/-! ## Updates (R466 to R470) -/

/-- The temperature band for a glass temperature count (R466). -/
def insoleBand (g : Int) : Nat := (min 15 (max 0 (g / 55))).toNat

/-- Whether an update is due (R468). -/
def State.insoleDue (s : State) : Bool :=
  s.reg .INS_IMAGE 0 != s.reg .INS_SHOWN 0 || s.reg .INS_KNOWN 0 == 0

/-- An update starts (R466, R469, R470). -/
def State.insoleStart (s : State) : State :=
  let b := insoleBand (s.regInt .TS_TEMP s.glassPair)
  let s1 := ((s.setReg .iINS_OLD 0 (s.reg .INS_SHOWN 0)).setReg .iINS_NEW 0 (s.reg .INS_IMAGE 0)).setReg
    .INS_BAND 0 b
  let s2 := ((s1.setReg .iINS_N 0 (s.reg .INS_WAVE_N b)).setReg .iINS_WAVE 0 (s.reg .INS_WAVE b)).setReg
    .iINS_VHV 0 (s.reg .INS_VHV 0)
  let s3 := (s2.setReg .iINS_PASSES 0 (if s.reg .INS_KNOWN 0 = 1 then 1 else 2)).setReg .iINS_NEXT 0 0
  ((s3.setReg .iINS_STOP 0 0).setReg .INS_FRAME 0 0).setReg .INS_STATE 0 3

/-- INSOLE_UPDATE_START (R468): enable, idle with PWR_FAIL_N high, glass gate and grant, in this order; a
hold raises INSOLE_HELD once. In a hardware shutdown no update starts (R439). -/
def execInsoleUpdateStart (s : State) : Out :=
  let st := s.reg .INS_STATE 0
  if s.insoleDue = false ∨ s.reg .INS_ENABLE 0 = 0 ∨ st = 3 ∨ s.reg .iPWR_FAIL 0 = 1 ∨ s.reg .iPHASE 0 = 4 then
    .next s
  else if s.glassOpen = false then
    let s1 := (s.release .insole).setReg .INS_STATE 0 1
    .next (s1.cond (st != 1) (fun t => t.raise Code.insoleHeld none
      [(16, t.reg .TS_TEMP t.glassPair)]))
  else if s.granted .insole then .next s.insoleStart
  else .next ((s.request .insole).setReg .INS_STATE 0 2)

/-- INSOLE_FRAME (R465): the next frame of the update drives every slot, unless it was the last or the
update is to stop. -/
def execInsoleFrame (s : State) : Out :=
  let f := s.reg .iINS_NEXT 0
  if s.reg .INS_STATE 0 = 3 ∧ f < s.reg .iINS_N 0 * s.reg .iINS_PASSES 0 ∧ s.reg .iINS_STOP 0 = 0 then
    .next ((((s.send [.insole (s.frameLevels f)]).setReg .INS_FRAME 0 f).setReg .iINS_NEXT 0 (f + 1)).setReg
      .iINS_ELEC 0 1)
  else .next s

/-- Insole electrodes are discharged: what they show is no longer known (R471, R472). -/
def State.insoleDischarge (s : State) : State :=
  (((s.setReg .INS_KNOWN 0 0).bump .INS_DISCHARGES 0).setReg .iINS_STOP 0 0).release .insole

/-- The Insole is disabled and says so (R405, R472). -/
def State.insoleOff (s : State) (abandoned : Nat) : State :=
  ((s.setReg .INS_STATE 0 5).setReg .iINS_ELEC 0 0).raiseDisabled .INS_ENABLE 0 abandoned

/-- INSOLE_UPDATE_END (R469, R470, R472): after the last frame the new image is shown; an update that is
to stop is discharged. -/
def execInsoleUpdateEnd (s : State) : Out :=
  if s.reg .INS_STATE 0 ≠ 3 then .next s
  else if s.reg .iINS_STOP 0 = 1 then .next (s.insoleDischarge.insoleOff 1)
  else if s.reg .iINS_NEXT 0 < s.reg .iINS_N 0 * s.reg .iINS_PASSES 0 then .next s
  else
    let s1 := ((s.setReg .INS_SHOWN 0 (s.reg .iINS_NEW 0)).setReg .INS_KNOWN 0 1).bump .INS_UPDATES 0
    let s2 := (s1.release .insole).setReg .iINS_ELEC 0 0
    .next (if s.reg .INS_ENABLE 0 = 0 then s2.insoleOff 0 else s2.setReg .INS_STATE 0 0)

/-- A held or waiting update that is no longer due is not made. -/
def State.insoleSettle (s : State) : State :=
  if (s.reg .INS_STATE 0 = 1 ∨ s.reg .INS_STATE 0 = 2) ∧ s.insoleDue = false then
    (s.release .insole).setReg .INS_STATE 0 0
  else s

/-- A write of INS_IMAGE after the checks of R380: only the pending image changes (R468, R469). -/
def State.insoleImage (s : State) (v : Nat) : State := (s.putReg .INS_IMAGE 0 v).insoleSettle

/-- INSOLE_IMAGE_WRITE. -/
def execInsoleImageWrite (acc : Accessor) (image : BitVec 192) (s : State) : Out :=
  .next (writeParam s acc .INS_IMAGE 0 image.toNat (fun t => t.insoleImage image.toNat))

/-! ## Power loss and disabling (R471, R472) -/

/-- PWR_FAIL_LOW (R450, R471): no Keeper write or update starts; the electrodes are equalised and tied to
ground, whether or not an update was running. A drain under way ends with its update abandoned. -/
def execPwrFailLow (s : State) : Out :=
  if s.reg .iPWR_FAIL 0 = 1 then .next s
  else
    let draining := s.reg .INS_STATE 0 == 3 && s.reg .INS_ENABLE 0 == 0
    let s1 := ((s.setReg .iPWR_FAIL 0 1).insoleDischarge.setReg .INS_STATE 0 4).setReg .iINS_ELEC 0 2
    .next (s1.cond draining (fun t => t.raiseDisabled .INS_ENABLE 0 1))

/-- PWR_FAIL_HIGH (R471): PWR_FAIL_N is high again without a reset. -/
def execPwrFailHigh (s : State) : Out :=
  if s.reg .iPWR_FAIL 0 = 0 then .next s
  else
    let s1 := (s.setReg .iPWR_FAIL 0 0).setReg .iINS_ELEC 0 0
    .next (s1.setReg .INS_STATE 0 (if s1.reg .INS_ENABLE 0 = 0 then 5 else 0))

/-- A write of INS_ENABLE with 0 (R405, R472). -/
def State.insoleDisable (s : State) : State :=
  let s1 := s.putReg .INS_ENABLE 0 0
  if s.reg .INS_ENABLE 0 = 0 then s1
  else if s.reg .INS_STATE 0 = 3 then s1.cond (s.reg .INS_DRAIN 0 == 1) (fun t => t.setReg .iINS_STOP 0 1)
  else
    let s2 := s1.release .insole
    if s.reg .INS_STATE 0 = 4 then s2.raiseDisabled .INS_ENABLE 0 0 else s2.insoleOff 0

/-- A write of INS_ENABLE with 1 (R405, R472). -/
def State.insoleEnable (s : State) : State :=
  if s.reg .INS_ENABLE 0 = 0 ∧ s.reg .INS_STATE 0 = 3 then s.refuse Code.funcDraining
  else (s.putReg .INS_ENABLE 0 1).cond (s.reg .INS_STATE 0 == 5) (fun t => t.setReg .INS_STATE 0 0)

/-- INS_ENABLE_DISABLE. -/
def execInsEnableDisable (acc : Accessor) (s : State) : Out :=
  .next (writeParam s acc .INS_ENABLE 0 0 (fun t => t.insoleDisable))

/-- INS_ENABLE_RESUME. -/
def execInsEnableResume (acc : Accessor) (s : State) : Out :=
  .next (writeParam s acc .INS_ENABLE 0 1 (fun t => t.insoleEnable))

/-- A write of INS_DRAIN: ABANDON written during a drain turns it into an abandonment (R405). -/
def State.insoleDrain (s : State) (v : Nat) : State :=
  (s.putReg .INS_DRAIN 0 v).cond (v == 1 && s.reg .INS_STATE 0 == 3 && s.reg .INS_ENABLE 0 == 0)
    (fun t => t.setReg .iINS_STOP 0 1)

end Sys2Proof.Machine
end

