-- ==== Sys2Proof/Machine/Resets.lean ====
section
/-! DEFINITION. Resets (17_startup_service.md, R480 to R484, R489; R440 of 14_power_thermal.md) and what
follows a reset before the firmware runs: votes, records and the choice of the image (R452, R457, R460,
R461). -/
namespace Sys2Proof.Machine

/-! ## From the reset to the choice of the image -/

/-- Every record is resolved; with DEFAULTS_N 1 its values are applied (R457, R484). -/
def State.restoreRecords (s : State) : State :=
  let apply := bit (s.reg .SV_STRAPS 0) 2
  (recordIds s.poolHeads ++ s.brokenRecords).foldl (fun t id =>
    match t.resolveRecord id with
    | (some c, u) => if apply then u.applyRecord id c else u
    | (none, u) => u.bump .KP_REC_LOST 0) s.readPool

/-- The spare map that a record's content holds. -/
def recordMap (content : List Byte) : Option Nat :=
  ((payloadEntries 256 content).find? (fun e => e.1 == (regRow .WL_SPARE_MAP).sub)).map (fun e => leNat e.2)

/-- The root of a surface's spare map is held against the record resolved; the record prevails (R461). -/
def State.checkRoot (s : State) (surf : Nat) : State :=
  let id := 0x5800 + surf
  let hs := s.poolHeads
  match recordSeq hs id, (s.resolveRecord id).1 with
  | some q, some c =>
    (match recordMap c with
     | some m =>
       if s.triword (10 + surf) = mapRoot q m ∨ s.triBusy (10 + surf) = true then s
       else ((s.bumpBy .KP_TRI_REPAIRS 0 3).raise Code.triwordRepaired none [(8, 10 + surf)]).writeTri
         (10 + surf) (mapRoot q m)
     | none => s)
  | _, _ => s

/-- The parameters that are tri-words, with the number of the word (R459). -/
def triParams : List (Reg × Nat) :=
  [(.ID_VENDOR, 0), (.ID_DEVICE, 1), (.ID_GRADE, 2), (.ID_STEPPING, 3), (.ID_SERIAL, 4), (.NET_MAC, 5),
    (.PW_CEILING, 7), (.TH_SHUT, 8), (.TH_RESTART, 9), (.KP_PROTECT, 12)]

/-- The parameters that are tri-words take the voted words (R459, R484). -/
def State.useTriwords (s : State) : State := triParams.foldl (fun t e => t.setReg e.1 0 (t.triword e.2)) s

/-- After a reset: words voted, records resolved and applied, windows in force (R302), tri-words used, LF_CYCLES counted at a POWER
reset, and the image chosen (R489, R491). A thermal restart takes the image that ran. -/
def State.startUp (s : State) (why : Nat) : State :=
  let s1 := (forN 16 s State.voteWord).loadComparators
  let s2 := (((s1.restoreRecords.windowsInForce.checkRoot 0).checkRoot 1).useTriwords).setReg .SU_LAST_RESET 0 why
  let s3 := if why = 2 then s2 else (s2.restoreLife).chooseImage
  s3.cond (why == 0) (fun t => t.bump .LF_CYCLES 0)

/-! ## What a reset keeps -/

/-- Registers outside the reset parts at any reset: the tri-word copies and what the NOR holds (R480). -/
def resetKeeps : Reg → Bool
  | .iTRI => true | .iNOR_VALID => true | .iNOR_VERSION => true | .iNOR_PLEN => true
  | _ => false

/-- Registers that a thermal restart keeps besides (R440, R480): those of the units in the NT, TB and SL
domains, the initialisation of the central store, and what the resets have counted and sampled. -/
def thermalKeeps (r : Reg) : Bool :=
  let ix := (regRow r).index
  resetKeeps r
    || (decide (0x6800 ≤ ix) && decide (ix < 0x6840)) || (decide (0x6910 ≤ ix) && decide (ix < 0x6930))
    || (decide (0x6C00 ≤ ix) && decide (ix < 0x6D00)) || (decide (0x7010 ≤ ix) && decide (ix < 0x7800))
    || (decide (0x6A00 ≤ ix) && decide (ix < 0x6A10)) || ix == 0xF010
    || [Reg.SV_STRAPS, .FW_RESTARTS, .MS_INIT_STATE, .iSWEEP, .iPWR_FAIL, .iINS_OLD, .iINS_NEW, .iINS_N,
      .iINS_WAVE, .iINS_VHV, .iINS_PASSES, .iINS_NEXT, .iINS_STOP, .iINS_ELEC, .iSM_KIND, .iSM_RUN, .iCMP_SHUT,
      .iCMP_RESTART, .iCMP_RUN, .iCMP_PEAK, .iCMP_COOL, .iSHUT_OWED, .iTHR, .iTHR_RUN, .iTH_TIMER, .iTS_MEAS,
      .iTS_GOOD, .iTS_BAD, .iETH_FEC, .iCK_SINCE, .iCK_START, .iCK_OUT, .iCK_FAILS, .iCK_WHY, .iCK_SEED, .iCK_N, .iCK_WIN,
      .iEYE_FRAME, .iEYE_K, .iEYE_ON, .iEYE_END, .iEYE_LAST, .iCAP_AT, .iCAP_STEPPED, .iCAP_FULL, .iSYNC_STATE,
      .iSYNC_RUN, .iSYNC_FIRST, .iSYNC_AT, .iMIN_MAX, .iMIN_COUNT, .iEQUIV_MIN, .iTJ_SUM, .iHIST_MIN, .iBOOT_IMAGE, .iBOOT_TRIAL].contains r

/-- The registers of a kind that are not at their reset values. -/
def State.keptRegs (s : State) (keeps : Reg → Bool) : List (Nat × Nat) :=
  s.regs.filter (fun e => keeps (Reg.ofNat (e.1 % 1024)))

/-- The state a POWER or DEVICE reset leaves (R480): everything reset but the contents of the Keeper and of
the NOR. The commands that wait and the count of free values are not part of Flaed. -/
def State.resetParts (s : State) : State :=
  { State.reset with
    pending := s.pending
    draws := s.draws
    regs := s.keptRegs resetKeeps
    keeper := s.keeper
    keeperBad := s.keeperBad
    keeperTorn := s.keeperTorn }

/-! ## Page writes that a reset meets (R452) -/

/-- A page write that ran to its end. -/
def State.landPage (s : State) (w : PageWrite) : State :=
  match w.by_.triCopy with
  | some (word, value, copy) => s.setReg .iTRI (triIx copy word) value
  | none => s.keeperPage w.page w.data

/-- The first `n` groups of a page hold new data, the next one is unstable. -/
def State.tearGroups (s : State) (page n : Nat) (data : List Byte) : State :=
  let g := 16 * page + n
  let good (x : Nat) : Bool := decide (x < 16 * page) || decide (g ≤ x)
  { s with
    keeper := keeperPut s.keeper (256 * page) data
    keeperBad := s.keeperBad.filter (fun x => good x && x != g)
    keeperTorn := g :: s.keeperTorn.filter (fun x => good x && x != g) }

/-- A page write that power loss cut after `n` groups: those before hold new data, the next one is unstable
and the rest hold old data. A tri-word copy holds two words in a group. -/
def State.tearPage (s : State) (w : PageWrite) (n : Nat) : State :=
  if 16 ≤ n then s.landPage w
  else match w.by_.triCopy with
    | some (word, value, copy) =>
      let g := if word = 12 then 0 else word / 2
      let s1 := s.cond (decide (g < n)) (fun t => t.setReg .iTRI (triIx copy word) value)
      if word = 12 then
        (if n = 0 then
          let (x, s2) := s1.draw
          s2.setReg .iTRI (triIx copy word) x
        else s1)
      else if n < 8 then
        let (x, s2) := s1.draw
        let (y, s3) := s2.draw
        ((s3.setReg .iTRI (triIx copy (2 * n)) x).setReg .iTRI (triIx copy (2 * n + 1)) y)
      else s1
    | none => s.tearGroups w.page n (w.data.take (16 * n))

/-! ## The resets -/

/-- Straps as SV_STRAPS shows them (R484). -/
def strapBits (boot : Fin 4) (defaultsN : Bool) : Nat := boot.val + 4 * b2n defaultsN

/-- The straps are sampled and start-up goes on from a reset that has ended. -/
def State.afterReset (s : State) (straps why : Nat) : State := (s.setReg .SV_STRAPS 0 straps).startUp why

/-- POWER_RESET (R452, R480 to R482, R484): `groups` lists, per bank of the Keeper, the groups programmed of
a page write that the loss of power cut. -/
def execPowerReset (boot : Fin 4) (defaultsN : Bool) (groups : List (Fin 17)) (s : State) : Out :=
  let s1 := s.keeperBusy.foldl (fun t w => t.tearPage w ((groups.getD (keeperBank w.page) 0).val)) s
  .next (s1.resetParts.afterReset (strapBits boot defaultsN) 0)

/-- A DEVICE reset: page writes already started run to their end. -/
def State.deviceReset (s : State) (straps : Nat) : State :=
  ((s.keeperBusy.foldl State.landPage s).resetParts).afterReset straps 1

/-- DEVICE_RESET (R480): RST_N low for 10 µs or more. -/
def execDeviceReset (boot : Fin 4) (defaultsN : Bool) (s : State) : Out :=
  .next (s.deviceReset (strapBits boot defaultsN))

/-- SV_RESET (R480, R484): an accepted write of 1 is a DEVICE reset. -/
def execSvReset (acc : Accessor) (boot : Fin 4) (defaultsN : Bool) (s : State) : Out :=
  if s.reachable acc && (writeFault s acc .SV_RESET 0 1 1 false).isNone then
    .next (s.deviceReset (strapBits boot defaultsN))
  else .next (writeParam s acc .SV_RESET 0 1 (fun t => t))

/-- The state a thermal restart leaves (R440, R480). -/
def State.thermalParts (s : State) : State :=
  { s.resetParts with
    regs := s.keptRegs thermalKeeps
    tb := s.tb
    local_ := s.local_
    mem := s.mem
    poison := s.poison
    rowsAhead := s.rowsAhead
    macs := s.macs
    egress := s.egress
    caps := s.caps
    eyeEdges := s.eyeEdges
    badLog := s.badLog
    keeperBusy := s.keeperBusy
    grants := s.grants.filter s.opRuns }

/-- THERMAL_RESTART (R440, R480, R482): 30 s after the last sample at or above TH_RESTART; every PLL but
PLL-NT relocks and every channel of the central store retrains once. -/
def execThermalRestart (s : State) : Out :=
  if s.reg .iPHASE 0 ≠ 4 ∨ s.reg .iCMP_COOL 0 < 30001 then .next s
  else
    let s1 := s.thermalParts
    let s2 := forN 7 s1 (fun t k => if k = 5 then t else (t.setReg .iCK_WHY k 0).toBypass k)
    .next ((s2.holdChannels).startUp 2)

/-! ## PCI Express (R483) -/

/-- The HOST transfer in flight of a lace: the address it stands at. -/
def State.hostTransfer (s : State) (n : Nat) : Option Nat :=
  let d := s.laceDesc n
  if s.laceActive n && d.reads && d.srcSpace == 1 then some (d.src + s.reg .iLC_POS n)
  else if s.laceActive n && (d.dstSpace == 1) then some (d.dst + s.reg .iLC_POS n)
  else none

/-- The PCIe endpoint is reset, and its link goes down. -/
def State.endpointReset (s : State) : State :=
  let gone : List Reg := [.iMSIX_EN, .iMSIX_ADDR, .iMSIX_DATA, .iMSIX_MASK, .iMSIX_PEND, .iLATCH, .iACC_STATUS, .iACC_ID, .iF2_BM, .PCI_LINK]
  { s with regs := s.regs.filter (fun e => !(gone.contains (Reg.ofNat (e.1 % 1024)))) }

/-- PCIE_RESET (R483): HOST transfers of laces end as bus errors of cause 4, and the PCIe rings wait for
their tails. -/
def execPcieReset (s : State) : Out :=
  let hosts := (List.range 64).filterMap (fun n => (s.hostTransfer n).map (fun a => (n, a)))
  let s1 := match hosts with
    | (n, a) :: _ => s.busError n 4 a
    | [] => s
  let s2 := forN 256 s1 (fun t k => t.cond (t.reg .STR_TRANSPORT k == 1) (fun u => u.setReg .iSTR_WAIT k 1))
  .next s2.endpointReset

/-- PCIE_LINK_UP (R398, R428): the link comes up with a generation and width as PCI_LINK shows them;
`f2` says whether the host enables bus mastering of F2. -/
def execPcieLinkUp (gen : Fin 16) (width : Fin 64) (f2 : Bool) (s : State) : Out :=
  if gen.val = 0 then .next s
  else .next ((s.setReg .PCI_LINK 0 (gen.val + 16 * width.val)).setReg .iF2_BM 0 (b2n f2))

end Sys2Proof.Machine
end

