-- ==== Sys2Proof/Machine/Seams.lean ====
section
/-! DEFINITION. Seam loops (16_insole_seams.md, R473 to R476). Loop n of surface s is instance 4s + n of
the run registers; its state stands in two bits of SM_STATE: 0 UNKNOWN, 1 CLOSED, 2 OPEN. -/
namespace Sys2Proof.Machine

/-- The state of a loop. -/
def State.loopState (s : State) (surf n : Nat) : Nat := bits (s.reg .SM_STATE surf) (2 * n + 1) (2 * n)

/-- Sets it. -/
def State.setLoop (s : State) (surf n st : Nat) : State :=
  s.setReg .SM_STATE surf (withBits (s.reg .SM_STATE surf) (2 * n + 1) (2 * n) st)

/-- Whether the seam cause holds (R475). -/
def State.seamCause (s : State) (surf : Nat) : Bool :=
  s.reg .SM_POLICY surf == 1 && (s.reg .SM_LATCHED surf == 1 ||
    (setBits 4 (s.reg .SM_ENABLE surf)).any (fun n => s.loopState surf n != 1))

/-- The seam cause arises or ends, bit 0 of SO_FORCED (R218, R475). -/
def State.seamPolicy (s : State) (surf : Nat) : State :=
  if s.seamCause surf = bit (s.reg .SO_FORCED surf) 0 then s
  else if s.seamCause surf then s.force surf 0 else s.unforce surf 0

/-- A loop enters OPEN (R474, R475). -/
def State.loopOpens (s : State) (surf n : Nat) : State :=
  let was := s.loopState surf n
  let s1 := (s.setLoop surf n 2).cond (was == 1) (fun t => t.bump .SM_OPENS surf)
  let s2 := s1.cond (s.reg .SM_POLICY surf == 1 && s.reg .SM_LATCH surf == 1)
    (fun t => t.setReg .SM_LATCHED surf 1)
  s2.raise Code.seamOpen none [(8, surf), (8, n)]

/-- A loop enters CLOSED: SEAM_CLOSED is raised only from OPEN. -/
def State.loopCloses (s : State) (surf n : Nat) : State :=
  (s.setLoop surf n 1).cond (s.loopState surf n == 2) (fun t => t.raise Code.seamClosed none
    [(8, surf), (8, n)])

/-- The kind of a sample: 1 closed, 2 open, 0 neither (R473). -/
def sampleKind (thresh ohms : Nat) : Nat := if thresh < ohms then 2 else if 2 * ohms < thresh then 1 else 0

/-- One sample of an enabled loop (R473, R474). -/
def State.loopSample (s : State) (surf n ohms : Nat) : State :=
  let x := 4 * surf + n
  let v := min 80000 ohms
  let kind := sampleKind (s.reg .SM_THRESH surf) v
  let run := if kind = 0 then 0 else if kind = s.reg .iSM_KIND x then min 1000 (s.reg .iSM_RUN x + 1) else 1
  let s1 := ((s.setReg .SM_OHMS surf (blobSet (s.reg .SM_OHMS surf) (4 * n) 4 v)).setReg .iSM_KIND x
    kind).setReg .iSM_RUN x run
  if kind = 0 ∨ run < s.reg .SM_DEBOUNCE surf ∨ s.loopState surf n = kind then s1
  else if kind = 2 then s1.loopOpens surf n else s1.loopCloses surf n

/-- SEAM_LOOP_SAMPLE: `ohms` lists the resistances of the surface's loops. -/
def execSeamLoopSample (surf : Surface) (ohms : List Nat) (s : State) : Out :=
  .next (((setBits 4 (s.reg .SM_ENABLE surf.val)).foldl (fun t n => match ohms[n]? with
    | some v => t.loopSample surf.val n v
    | none => t) s).seamPolicy surf.val)

/-- SM_CLEAR: clears the latch only when every enabled loop is CLOSED (R475). -/
def State.seamClear (s : State) (surf : Nat) : State :=
  if (setBits 4 (s.reg .SM_ENABLE surf)).all (fun n => s.loopState surf n == 1) then
    (s.setReg .SM_LATCHED surf 0).seamPolicy surf
  else s

/-- SM_CLEAR. -/
def execSmClear (acc : Accessor) (surf : Surface) (s : State) : Out :=
  .next (writeParam s acc .SM_CLEAR surf.val 1 (fun t => t.seamClear surf.val))

/-- A write of SM_POLICY (R476). -/
def State.seamPolicyWrite (s : State) (surf v : Nat) : State :=
  let s1 := s.putReg .SM_POLICY surf v
  let open_ := (setBits 4 (s.reg .SM_ENABLE surf)).any (fun n => s.loopState surf n == 2)
  let s2 := if v = 0 then s1.setReg .SM_LATCHED surf 0
    else s1.cond (open_ && s.reg .SM_LATCH surf == 1) (fun t => t.setReg .SM_LATCHED surf 1)
  s2.seamPolicy surf

/-- SM_POLICY_WRITE. -/
def execSmPolicyWrite (acc : Accessor) (surf : Surface) (v : BitVec 8) (s : State) : Out :=
  .next (writeParam s acc .SM_POLICY surf.val v.toNat (fun t => t.seamPolicyWrite surf.val v.toNat))

/-- A loop that is not enabled, or that is newly enabled, reads UNKNOWN and has no run (R474, R476). -/
def State.resetLoops (s : State) (surf old new : Nat) : State :=
  forN 4 s (fun t n => if bit old n && bit new n then t
    else ((t.setLoop surf n 0).setReg .iSM_KIND (4 * surf + n) 0).setReg .iSM_RUN (4 * surf + n) 0)

/-- A write of SM_ENABLE (R476). -/
def State.seamEnableWrite (s : State) (surf v : Nat) : State :=
  ((s.putReg .SM_ENABLE surf v).resetLoops surf (s.reg .SM_ENABLE surf) v).seamPolicy surf

/-- SM_ENABLE_WRITE. -/
def execSmEnableWrite (acc : Accessor) (surf : Surface) (v : BitVec 8) (s : State) : Out :=
  .next (writeParam s acc .SM_ENABLE surf.val v.toNat (fun t => t.seamEnableWrite surf.val v.toNat))

end Sys2Proof.Machine
end

