-- ==== Sys2Proof/Machine/Sessions.lean ====
section
/-! DEFINITION. Plovan sessions and keys (12_control_dictionary.md, R389 to R394; stream slots R183, R188). -/
namespace Sys2Proof.Machine

/-! ## Opening and closing -/

/-- The lowest free session number (R389). -/
def State.freeSession (s : State) : Option Nat := (List.range 1024).find? (fun n => s.reg .SS_STATE n == 0)

/-- The lowest free stream slot (R183). -/
def State.freeSlot (s : State) : Option Nat := (List.range 256).find? (fun k => s.reg .STR_STATE k == 0)

/-- A stream source session takes a slot: its counters and its replay history begin anew (R183, R188). -/
def State.bindSlot (s : State) (n k : Nat) : State :=
  let frozen := bit (s.reg .MS_FROZEN_INGEST 0) k
  let s1 := ((s.setReg .SS_SLOT n k).setReg .STR_SESSION k n).setReg .STR_STATE k (if frozen then 2 else 1)
  let s2 := ((s1.setReg .STR_PACKETS k 0).setReg .STR_DISCARDS k 0).setReg .STR_TILES_LOST k 0
  let s3 : State := { s2 with replay := s2.replay.filter (fun e => e.1 != k) }
  (s3.setReg .iSEQ_HIGH k 0).reportGroups s

/-- Session `n` opens with the role, kind and key of its OPEN (R389); `key` is its session key. -/
def State.openSession (s : State) (n role kind keyId : Nat) (key : Option Nat) (slot : Option Nat) : State :=
  let s1 := (((s.setReg .SS_STATE n 1).setReg .SS_ROLE n role).setReg .SS_KIND n kind).setReg .SS_KEY_ID n keyId
  let s2 := ((s1.setReg .iSS_KEYED n (b2n key.isSome)).setReg .iSS_KEY n (key.getD 0)).setReg .iSS_SEQ n 0
  let s3 := s2.setReg .iSS_NOTIFY n 0
  match slot with
  | some k => s3.bindSlot n k
  | none => s3

/-- The commit groups of a session that closes: one in STAGING or REFUSED returns to IDLE, one in PENDING
goes on without an owner (R392). -/
def State.closeGroups (s : State) (n : Nat) : State :=
  forN 16 s (fun t g =>
    if t.reg .CG_OWNER g ≠ n then t
    else if t.reg .CG_STATE g = 1 ∨ t.reg .CG_STATE g = 3 then t.idleGroup g
    else t.setReg .CG_OWNER g 0xFFFF)

/-- The stream slot of a session that closes is free (R392). -/
def State.freeStream (s : State) (n : Nat) : State :=
  let k := s.reg .SS_SLOT n
  if k < 256 then ((s.setReg .STR_STATE k 0).setReg .STR_SESSION k 0xFFFF).reportGroups s else s

/-- The subscriptions of a session end (R392). -/
def State.endSubscriptions (s : State) (n : Nat) : State :=
  (s.queues.map Prod.fst).foldl (fun t q =>
    let e := t.queue q
    t.setQueue q { e with subscribers := e.subscribers.filter (fun x => x != n) }) s

/-- The registers of a session. -/
def sessionRegs : List Reg :=
  [.SS_STATE, .SS_ROLE, .SS_KIND, .SS_KEY_ID, .SS_PEER, .SS_SLOT, .iSS_KEY, .iSS_KEYED, .iSS_SEQ, .iSS_SEEN,
    .iSS_NOTIFY, .iSS_FROM, .iSS_MAC]

/-- The registers of session `n` as they stand while it is free. -/
def State.clearSession (s : State) (n : Nat) : State :=
  let s1 := sessionRegs.foldl (fun t r => t.setReg r n (regDefault r n)) s
  { s1 with
    responses := s1.responses.filter (fun e => e.1 != n)
    heldRequests := s1.heldRequests.filter (fun e => e.1 != n) }

/-- A session closes (R392): cause 0 CLOSE, 1 timeout, 2 key, 3 SS_CLOSE. -/
def State.closeNow (s : State) (n cause : Nat) : State :=
  (((s.closeGroups n).freeStream n).endSubscriptions n).clearSession n
    |>.raise Code.sessionClosed none [(16, n), (8, cause)]

/-- A session that is open closes; one whose own message asks for it closes once the message's items are
performed, before the response leaves. -/
def State.closeSession (s : State) (n cause : Nat) : State :=
  if s.reg .SS_STATE n ≠ 1 then s
  else if s.reg .iPLV_CUR 0 = n + 1 then
    s.cond (s.reg .iPLV_CLOSE 0 == 0xFF) (fun t => t.setReg .iPLV_CLOSE 0 cause)
  else s.closeNow n cause

/-- SESSION_TIMEOUT (R392): PLV_TIMEOUT without a valid datagram. -/
def execSessionTimeout (n : Fin 1024) (s : State) : Out :=
  if s.reg .SS_STATE n.val = 1 ∧ s.reg .iSS_SEEN n.val + s.reg .PLV_TIMEOUT 0 * 1000000 ≤ s.clock then
    .next ((s.send []).closeSession n.val 1)
  else .next s

/-- SS_CLOSE (R392): on a free session it changes nothing. -/
def execSsClose (acc : Accessor) (n : Fin 1024) (s : State) : Out :=
  .next (writeParam s acc .SS_CLOSE n.val 1 (fun t => (t.send []).closeSession n.val 3))

/-! ## Keys (R393) -/

/-- The role ceiling and the key of a KEY_ID. -/
def State.keyOf (s : State) (id : Nat) : Option (Nat × Nat) :=
  (s.keys.find? (fun e => e.1 == id)).map Prod.snd

/-- The key table with one entry added, replaced or, for an all-zero key, deleted; by KEY_ID. -/
def putKeyEntry (ks : List (Nat × Nat × Nat)) (id ceiling key : Nat) : List (Nat × Nat × Nat) :=
  let low := ks.filter (fun e => decide (e.1 < id))
  let high := ks.filter (fun e => decide (id < e.1))
  if key = 0 then low ++ high else low ++ (id, ceiling, key) :: high

/-- A write of PLV_KEY_SET: refused where it would add a 65th key; every session opened with that KEY_ID
closes with cause 2 (R392, R393). -/
def State.keySet (s : State) (v : Nat) : State :=
  let id := blobGet v 0 2
  let key := blobGet v 4 32
  if (s.keyOf id).isNone ∧ key ≠ 0 ∧ 64 ≤ s.keys.length then s.refuse Code.odRange
  else
    let s1 := ({ s with keys := putKeyEntry s.keys id (blobGet v 2 1) key } : State).noteKeep .PLV_KEY_SET 0
    forN 1024 s1 (fun t n =>
      if t.reg .SS_STATE n = 1 ∧ t.reg .SS_KEY_ID n = id then t.closeSession n 2 else t)

/-- PLV_KEY_SET. -/
def execPlvKeySet (acc : Accessor) (v : BitVec 288) (s : State) : Out :=
  .next (writeParam s acc .PLV_KEY_SET 0 v.toNat (fun t => (t.send []).keySet v.toNat))

end Sys2Proof.Machine
end

