-- ==== Sys2Proof/Machine/Writes.lean ====
section
/-! DEFINITION. A write of any parameter of the dictionary (12_control_dictionary.md, R378 to R382, R403 to
R405): the parameters that have a command of their own act as that command, the others by their commit
class. -/
namespace Sys2Proof.Machine

/-- The state a command answers. -/
def stateOf (o : Out) (s : State) : State :=
  match o with
  | .next t => t
  | .fault _ => s
  | .refused _ => s

/-- Instance `i` as an operand. -/
abbrev inst (n : Nat) [NeZero n] (i : Nat) : Fin n := Fin.ofNat n i

/-- A write whose command is chosen by the value: `a` for 1, `b` for any other. -/
def oneOr (v : Nat) (a b : Out) : Out := if v = 1 then a else b

/-! ## Drains (R405) -/

/-- A write of GC_DRAIN; ABANDON ends the job in flight of a codec that drains. -/
def State.drainCodec (s : State) (n v : Nat) : State :=
  let s1 := s.putReg .GC_DRAIN n v
  if v = 1 ∧ s.reg .GC_ENABLE n = 0 ∧ s.reg .GC_STATE n = 3 then
    let (x, s2) := s1.draw
    s2.codecAbandon n x
  else s1

/-- A write of SK_DRAIN. -/
def State.drainSkiver (s : State) (k v : Nat) : State :=
  let s1 := s.putReg .SK_DRAIN k v
  if v = 1 ∧ s.reg .SK_ENABLE k = 0 ∧ s.reg .SK_STATE k = 3 then
    let (x, s2) := s1.draw
    s2.skAbandon k x
  else s1

/-- A write of SO_DRAIN. -/
def State.drainScan (s : State) (surf v : Nat) : State :=
  (s.putReg .SO_DRAIN surf v).cond (v == 1 && s.reg .iS_DISABLE surf == 1) (fun t => t.abandonScan surf)

/-- A write of LC_DRAIN. -/
def State.drainLace (s : State) (n v : Nat) : State :=
  (s.putReg .LC_DRAIN n v).cond
    (v == 1 && s.reg .LC_ENABLE n == 0 && !(s.reg .LC_STATE n == 7 || s.reg .LC_STATE n == 8))
    (fun t => t.laceAbandon n)

/-- A write of SC_DRAIN. -/
def State.drainScrub (s : State) (k v : Nat) : State :=
  (s.putReg .SC_DRAIN k v).cond (v == 1 && s.reg .SC_STATE k == 4) (fun t =>
    (t.dropScrubbed.release .scrubBurst).scrubOff k 1)

/-- A write of MS_RETRAIN_DRAIN. -/
def State.drainRetrain (s : State) (v : Nat) : State :=
  (s.putReg .MS_RETRAIN_DRAIN 0 v).cond (v == 1 && s.reg .iRT_DRAIN 0 == 1) State.abandonRetrain

/-! ## Parameters with an effect of their own -/

/-- A write of PTP_PROFILE (R358): a new profile brings its defaults. -/
def State.profileWrite (s : State) (v : Nat) : State :=
  let s1 := s.putReg .PTP_PROFILE 0 v
  if s.reg .PTP_PROFILE 0 = v then s1
  else
    let s2 := (s1.putReg .PTP_DOMAIN 0 (if v = 0 then 127 else 0)).putReg .PTP_DELAY_MECH 0 (if v = 2 then 1 else 0)
    let s3 := s2.cond (v == 0 && s.reg .PTP_TRANSPORT 0 == 2) (fun t => t.putReg .PTP_TRANSPORT 0 0)
    let moved := s3.reg .PTP_DOMAIN 0 != s.reg .PTP_DOMAIN 0 || s3.reg .PTP_TRANSPORT 0 != s.reg .PTP_TRANSPORT 0
    (s3.cond moved State.forgetMasters).reportGroups s

/-- A write of PTP_ENABLE: without the clock the servo is FREE (R361). -/
def State.ptpEnable (s : State) (v : Nat) : State :=
  let s1 := s.putReg .PTP_ENABLE 0 v
  ((if v = 0 then s1.setReg .iSERVO 0 0 else s1).showServo).selectMaster

/-- A write of NQ_MODE empties the queue (R403). -/
def State.modeQueue (s : State) (q v : Nat) : State :=
  let n := s.queue q
  (s.putReg .NQ_MODE q v).setQueue q { n with entries := [], unsignalled := 0, dropped := false }

/-- A write of PG_ADDR or PG_LENGTH: refused while the slot is in use (R128, R139). -/
def State.slotParam (s : State) (r : Reg) (p v : Nat) : State :=
  if s.slotInUse p then s.refuse Code.progSlotBusy else s.setReg r p v

/-- A write of 1 to SV_RESET: a DEVICE reset with the straps as they stand (R480). -/
def State.svReset (s : State) : State :=
  if s.reg .iPLV_CUR 0 ≠ 0 then s.setReg .iPLV_RESET 0 2 else s.deviceReset (s.reg .SV_STRAPS 0 % 8)

/-- A write of CK_SSC of any PLL: only the first two have a spread (R420). -/
def spreadWrite (acc : Accessor) (k v : Nat) (s : State) : Out :=
  if k < 2 then execArrayParamWrite acc (.spread (inst 2 k)) v s else .next s

/-- The effect of an accepted write of parameters of the scene, the streams, the commit and the array
(chapters 02 to 06): `none` where the parameter has none of its own. -/
def sceneWrite (acc : Accessor) (r : Reg) (i v : Nat) (s : State) : Option Out :=
  match r with
  | .BUF_KIND => some (execBufParamWrite acc (inst _ i) .kind v s)
  | .BUF_FORMAT => some (execBufParamWrite acc (inst _ i) .format v s)
  | .BUF_STORE => some (execBufParamWrite acc (inst _ i) .store v s)
  | .BUF_WIDTH => some (execBufParamWrite acc (inst _ i) .width v s)
  | .BUF_HEIGHT => some (execBufParamWrite acc (inst _ i) .height v s)
  | .BUF_BASE => some (execBufParamWrite acc (inst _ i) .base v s)
  | .BUF_SOURCE => some (execBufParamWrite acc (inst _ i) .source v s)
  | .BUF_CONCEAL => some (execBufParamWrite acc (inst _ i) .conceal v s)
  | .BUF_CTRL => some (oneOr v (execBufCtrlOpen acc (inst _ i) s)
      (if v = 2 then execBufCtrlSeal acc (inst _ i) s else execBufCtrlDiscard acc (inst _ i) s))
  | .STR_TRANSPORT => some (.next ((s.putReg r i v).reportGroups s))
  | .STR_GROUP_V4 => some (.next ((s.putReg r i v).reportGroups s))
  | .STR_GROUP_V6 => some (.next ((s.putReg r i v).reportGroups s))
  | .STR_RING_TAIL => some (execStrRingTailWrite (some acc) (inst _ i) (BitVec.ofNat _ v) s)
  | .CG_CTRL => some (oneOr v (execCgCtrlOpen acc (inst _ i) s)
      (if v = 2 then execCgCtrlGo acc (inst _ i) s else execCgCtrlAbort acc (inst _ i) s))
  | .CG_SURFACES => some (execCgParamWrite acc (inst _ i) .surfaces v s)
  | .CG_BUFFERS => some (execCgParamWrite acc (inst _ i) .buffers v s)
  | .CG_AT => some (execCgParamWrite acc (inst _ i) .at_ v s)
  | .CG_DARK_OK => some (execCgParamWrite acc (inst _ i) .darkOk v s)
  | .CG_TRIGGER => some (execCgParamWrite acc (inst _ i) .trigger v s)
  | .PB_CTRL => some (oneOr v (execPbCtrlArm acc (inst _ i) s) (execPbCtrlStop acc (inst _ i) s))
  | .CUE_BASE => some (execCueParamWrite acc (inst _ i) .base v s)
  | .CUE_SIZE => some (execCueParamWrite acc (inst _ i) .size v s)
  | .CUE_CRC => some (execCueParamWrite acc (inst _ i) .crc v s)
  | .CUE_BIND => some (execCueParamWrite acc (inst _ i) .bind v s)
  | .CUE_LOAD => some (oneOr v (execCueLoadValidate acc (inst _ i) s) (execCueLoadEmpty acc (inst _ i) s))
  | .CAL_T0 => some (execCalSlotWrite acc (inst _ i) .t0 v s)
  | .CAL_T1 => some (execCalSlotWrite acc (inst _ i) .t1 v s)
  | .CAL_T2 => some (execCalSlotWrite acc (inst _ i) .t2 v s)
  | .CAL_BASE => some (execCalSlotWrite acc (inst _ i) .base v s)
  | .CAL_CRC => some (execCalSlotWrite acc (inst _ i) .crc v s)
  | .CAL_LOAD => some (oneOr v (execCalLoadValidate acc (inst _ i) s) (execCalLoadEmpty acc (inst _ i) s))
  | .IN_LUT_DATA => some (execLutWrite acc (inst 12 i) v s)
  | .OUT_LUT_DATA => some (execLutWrite acc (inst 12 (8 + i)) v s)
  | .HZ_CLUSTER_EN => some (execArrayParamWrite acc .clusterEn v s)
  | .HZ_SHARE_A => some (execArrayParamWrite acc .shareA v s)
  | .HZ_BYTES_NS => some (execArrayParamWrite acc .bytesNs v s)
  | .CL_FENCE_REQ => some (execArrayParamWrite acc (.fenceReq (inst _ i)) v s)
  | .CL_FENCE => some (execArrayParamWrite acc (.fence (inst _ i)) v s)
  | .CL_FAULT_CLEAR => some (execClFaultClear acc (inst _ i) (BitVec.ofNat _ v) s)
  | .HZ_PROG_TARGET => some (execHzProgTarget acc (inst _ v) s)
  | .PG_ADDR => some (.next (s.slotParam r i v))
  | .PG_LENGTH => some (.next (s.slotParam r i v))
  | .PG_LOAD => some (oneOr v (execPgLoadVerify acc (inst _ i) s) (execPgLoadEmpty acc (inst _ i) s))
  | _ => none

/-- Likewise for the codecs, scan-out, taps and the Welt link (chapters 05, 07, 08). -/
def scanWrite (acc : Accessor) (r : Reg) (i v : Nat) (s : State) : Option Out :=
  match r with
  | .HK_INGEST_DEC => some (execCodecAssignWrite acc .ingest (BitVec.ofNat _ v) s)
  | .HK_TAP_ENC => some (execCodecAssignWrite acc .taps (BitVec.ofNat _ v) s)
  | .GC_ENABLE => some (oneOr v (execGcEnableResume acc (inst _ i) s)
      (execGcEnableDisable acc (inst _ i) s.draw.1 s.draw.2))
  | .GC_DRAIN => some (.next (s.drainCodec i v))
  | .GC_RING_BASE => some (execGcRingWrite acc (inst _ i) .base v s)
  | .GC_RING_SIZE => some (execGcRingWrite acc (inst _ i) .size v s)
  | .GC_TAIL => some (execGcTailWrite acc (inst _ i) (BitVec.ofNat _ v) s)
  | .LAST_PHASE => some (.next ((s.putReg r i v).refreshNext i))
  | .LAST_TOL => some (.next ((s.putReg r i v).refreshNext i))
  | .LAST_RATE => some (execLastRateWrite acc (inst _ i) (BitVec.ofNat _ v) s)
  | .LAST_RESYNC => some (execLastResync acc (inst _ i) s)
  | .SO_ENABLE => some (oneOr v (execSoEnableResume acc (inst _ i) s) (execSoEnableDisable acc (inst _ i) s))
  | .SO_DRAIN => some (.next (s.drainScan i v))
  | .TAP_BASE => some (execTapParamWrite acc (inst 2 (i / 8)) (inst 8 i) .base v s)
  | .TAP_SLOTS => some (execTapParamWrite acc (inst 2 (i / 8)) (inst 8 i) .slots v s)
  | .TAP_V => some (execTapParamWrite acc (inst 2 (i / 8)) (inst 8 i) .v v s)
  | .TAP_TAIL => some (execTapTailWrite acc (inst 2 (i / 8)) (inst 8 i) (BitVec.ofNat _ v) s)
  | .WL_MAP_RESET => some (execWlMapReset acc (inst _ i) s)
  | .WL_CAL_FETCH => some (execWlCalFetch acc (inst _ i) (v == 2) s)
  | .WL_CTRL => some (oneOr v (execWlCtrlRetrain acc (inst 2 (i / 84)) (inst 84 i) s)
      (if v = 2 then execWlCtrlSpare acc (inst 2 (i / 84)) (inst 84 i) s
       else execWlCtrlRetry acc (inst 2 (i / 84)) (inst 84 i) s))
  | .WL_PRBS_MODE => some (execWlPrbsMode acc (inst 2 (i / 84)) (inst 84 i) (inst 4 v) s)
  | .WR_PRBS_MODE => some (execWrPrbsMode acc (inst 2 (i / 2)) (inst 2 i) (inst 4 v) s)
  | _ => none

/-- Likewise for the central store, the laces and the Skivers (chapters 09 and 10). -/
def storeWrite (acc : Accessor) (r : Reg) (i v : Nat) (s : State) : Option Out :=
  match r with
  | .MS_RETRAIN_EN => some (oneOr v (.next s.retrainEnable) (execMsRetrainEnDisable acc s))
  | .MS_RETRAIN_DRAIN => some (.next (s.drainRetrain v))
  | .MS_RELEASE => some (execMsRelease acc ⟨bit v 8, inst 256 v⟩ s)
  | .WIN_ENABLE | .WIN_SPACE | .WIN_ID_LO | .WIN_ID_HI | .WIN_BASE | .WIN_LIMIT | .WIN_PERM =>
    some (.next (s.setReg r i v))
  | .WIN_APPLY => some (execWinApply acc s)
  | .CH_RETRAIN_NOW => some (execChRetrainNow acc (inst _ i) s)
  | .SC_ENABLE => some (oneOr v (execScEnableResume acc (inst _ i) s) (execScEnableDisable acc (inst _ i) s))
  | .SC_DRAIN => some (.next (s.drainScrub i v))
  | .PN_CLEAR => some (execPnClear acc s)
  | .LC_ENABLE => some (oneOr v (execLcEnableResume acc (inst _ i) s) (execLcEnableDisable acc (inst _ i) s))
  | .LC_DRAIN => some (.next (s.drainLace i v))
  | .LC_SH_DESC => some (execLcShDescWrite acc (inst _ i) (BitVec.ofNat _ v) s)
  | .LC_ARM => some (oneOr v (execLcArm acc (inst _ i) s) (execLcDisarm acc (inst _ i) s))
  | .LC_CTRL => some (oneOr v (execLcCtrlResume acc (inst _ i) s) (execLcCtrlAbandon acc (inst _ i) s))
  | .LS_BUS_CLEAR => some (execLsBusClear acc s)
  | .SK_ENABLE => some (oneOr v (execSkEnableResume acc (inst _ i) s)
      (execSkEnableDisable acc (inst _ i) s.draw.1 s.draw.2))
  | .SK_DRAIN => some (.next (s.drainSkiver i v))
  | .SK_RING_BASE => some (execSkRingWrite acc (inst _ i) .base v s)
  | .SK_RING_SIZE => some (execSkRingWrite acc (inst _ i) .size v s)
  | .SK_TAIL => some (execSkTailWrite acc (inst _ i) (BitVec.ofNat _ v) s)
  | _ => none

/-- Likewise for the network, time and the eyelets (chapter 11), the dictionary itself (chapter 12). -/
def networkWrite (acc : Accessor) (r : Reg) (i v : Nat) (s : State) : Option Out :=
  match r with
  | .ETH_MODE => some (execEthModeWrite acc (inst _ i) .mode (BitVec.ofNat _ v) s)
  | .ETH_FEC => some (execEthModeWrite acc (inst _ i) .fec (BitVec.ofNat _ v) s)
  | .ETH_AN => some (execEthModeWrite acc (inst _ i) .an (BitVec.ofNat _ v) s)
  | .RQ_KIND => some (execRqParamWrite acc (inst _ i) .kind v s)
  | .RQ_VALUE => some (execRqParamWrite acc (inst _ i) .value v s)
  | .RQ_PORTS => some (execRqParamWrite acc (inst _ i) .ports v s)
  | .PTP_ENABLE => some (.next (s.ptpEnable v))
  | .PTP_PROFILE => some (.next (s.profileWrite v))
  | .PTP_TRANSPORT => some (.next (((s.putReg r i v).cond (s.reg r i != v) State.forgetMasters).reportGroups s))
  | .PTP_DOMAIN => some (.next ((s.putReg r i v).cond (s.reg r i != v) State.forgetMasters))
  | .PP_ENABLE => some (.next ((s.putReg r i v).selectMaster))
  | .TB_SOURCE => some (execTbSourceWrite acc (BitVec.ofNat _ v) s)
  | .TB_SET => some (execTbSet acc (BitVec.ofNat _ v) s)
  | .TB_ADJ => some (execTbAdj acc (BitVec.ofNat _ v) s)
  | .EYE_MODE => some (execEyeParamWrite acc (inst _ i) .mode v s)
  | .EYE_START => some (execEyeParamWrite acc (inst _ i) .start v s)
  | .EYE_PERIOD => some (execEyeParamWrite acc (inst _ i) .period v s)
  | .EYE_WIDTH => some (execEyeParamWrite acc (inst _ i) .width v s)
  | .EYE_COUNT => some (execEyeParamWrite acc (inst _ i) .count v s)
  | .EYE_GEN => some (execEyeParamWrite acc (inst _ i) .gen v s)
  | .EYE_EVERY => some (execEyeParamWrite acc (inst _ i) .every v s)
  | .EYE_OFFSET => some (execEyeParamWrite acc (inst _ i) .offset v s)
  | .EYE_CTRL => some (oneOr v (execEyeCtrlArm acc (inst _ i) s) (execEyeCtrlDisarm acc (inst _ i) s))
  | .NQ_MODE => some (.next (s.modeQueue i v))
  | .PLV_KEY_SET => some (execPlvKeySet acc (BitVec.ofNat _ v) s)
  | .SS_CLOSE => some (execSsClose acc (inst _ i) s)
  | .PLV_PORT => some (.next (s.setReg .iPEND_PLV_PORT 0 v))
  | .ING_PORT => some (.next (s.setReg .iPEND_ING_PORT 0 v))
  | .OD_FACTORY => some (.next (s.setReg .iFACTORY 0 1))
  | _ => none

/-- Likewise for clocks, power, the Keeper, the Insole display, seam loops and firmware (chapters 13 to
17). -/
def serviceWrite (acc : Accessor) (r : Reg) (i v : Nat) (s : State) : Option Out :=
  match r with
  | .CK_MARGIN => some (execCkMarginWrite acc (inst _ i) (BitVec.ofNat _ v) s)
  | .CK_SSC => some (spreadWrite acc i v s)
  | .CK_RELOCK => some (execCkRelock acc (inst _ i) s)
  | .CK_SYNC_ARM => some (oneOr v (execCkSyncArm acc s) (.next s))
  | .PW_CEILING => some (execPwCeilingWrite acc (BitVec.ofNat _ v) s)
  | .TH_STAGE_MAX => some (execThStageMaxWrite acc (BitVec.ofNat _ v) s)
  | .TH_SHUT => some (execThShutWrite acc false (BitVec.ofNat _ v) s)
  | .TH_RESTART => some (execThShutWrite acc true (BitVec.ofNat _ v) s)
  | .KP_PROTECT => some (execKpProtectWrite acc (BitVec.ofNat _ v) s)
  | .INS_ENABLE => some (oneOr v (execInsEnableResume acc s) (execInsEnableDisable acc s))
  | .INS_DRAIN => some (.next (s.insoleDrain v))
  | .INS_IMAGE => some (execInsoleImageWrite acc (BitVec.ofNat _ v) s)
  | .SM_ENABLE => some (execSmEnableWrite acc (inst _ i) (BitVec.ofNat _ v) s)
  | .SM_POLICY => some (execSmPolicyWrite acc (inst _ i) (BitVec.ofNat _ v) s)
  | .SM_CLEAR => some (execSmClear acc (inst _ i) s)
  | .FW_PROGRAM => some (execFwProgram acc s)
  | .FW_SWITCH => some (oneOr v (execFwSwitchTrial acc s)
      (if v = 2 then execFwSwitchCommit acc s else execFwSwitchRestart acc s))
  | .SV_RESET => some (.next s.svReset)
  | _ => none

/-- The effect by the commit class alone (R382). -/
def State.classWrite (s : State) (acc : Accessor) (r : Reg) (i v : Nat) : State :=
  match (regRow r).commit with
  | .immediate => s.putReg r i v
  | _ => s.stageWrite acc r i v

/-- The effect of a write that the checks of R380 let pass. -/
def State.performWrite (s : State) (acc : Accessor) (r : Reg) (i v : Nat) : State :=
  match (sceneWrite acc r i v s).or ((scanWrite acc r i v s).or ((storeWrite acc r i v s).or
    ((networkWrite acc r i v s).or (serviceWrite acc r i v s)))) with
  | some o => stateOf o s
  | none => s.classWrite acc r i v

/-! ## Writes by ID -/

/-- Whether an ID names a parameter that the accessor's route serves; subindex 0 of every index that
exists does (R378). -/
def State.servedId (s : State) (index sub : Nat) : Bool :=
  (!s.recovery || index == 0xF000) && (sub == 0 || (lookupReg index sub).isSome) && (highestSub index).isSome

/-- A write of `data` to the parameter at an index and subindex (R378, R380). -/
def State.writeId (s : State) (acc : Accessor) (index sub : Nat) (data : List Byte) : State :=
  if !s.reachable acc then s
  else if !s.servedId index sub then (s.setStatus Code.odNoObject).noteAccess acc (256 * index + sub)
  else match lookupReg index sub with
    | none => (s.setStatus Code.odReadOnly).noteAccess acc (256 * index + sub)
    | some (r, i) =>
      let v := leNat data
      let t := writeAccess s acc r i data.length v (s.inGroup acc) (fun t => t.performWrite acc r i v)
      if r = .SV_RESET ∧ t.reg .iPHASE 0 ≠ s.reg .iPHASE 0 then s.performWrite acc r i v else t

/-- PARAMETER_WRITE (R380 to R382). -/
def execParameterWrite (acc : Accessor) (index : BitVec 16) (sub : BitVec 8) (data : List Byte) (s : State) :
    Out := .next (s.writeId acc index.toNat sub.toNat data)

/-- NQ_MODE_WRITE (R403). -/
def execNqModeWrite (acc : Accessor) (q : Fin 2048) (v : BitVec 8) (s : State) : Out :=
  .next (writeParam s acc .NQ_MODE q.val v.toNat (fun t => t.modeQueue q.val v.toNat))

/-- OD_FACTORY (R404): it acts at the next warm restart. -/
def execOdFactory (acc : Accessor) (s : State) : Out :=
  .next (writeParam s acc .OD_FACTORY 0 1 (fun t => t.setReg .iFACTORY 0 1))

end Sys2Proof.Machine
end

