-- ==== Sys2Proof/Machine/Reads.lean ====
section
/-! DEFINITION. A read of any parameter of the dictionary (12_control_dictionary.md, R378 to R382, R399): the
values that follow from other state, the staged values, and the two reads that remove what they return. -/
namespace Sys2Proof.Machine

/-! ## Values that follow from other state -/

/-- A list of records of `n` bytes as the bytes of a BLOB of `size` bytes, zeros after the last. -/
def logBytes (n size : Nat) (rs : List Nat) : List Byte :=
  let b := rs.flatMap (leBytes n)
  b ++ List.replicate (size - b.length) (BitVec.ofNat 8 0)

/-- The state of surface `surf`'s link (R267): DOWN while it is OFF, TEST while a lane is in TEST, BRINGUP
while an assigned lane is in DETECT to EXCHANGE, DEGRADED while a logical lane is not carried, UP otherwise. -/
def State.linkState (s : State) (surf : Nat) : Nat :=
  let lanes := (List.range (s.logicalLanes surf)).map (fun l => (s.mapLane surf l).map (fun p =>
    s.reg .WL_LANE_STATE (laneIx surf p)))
  if (List.range 84).any (fun p => s.reg .WL_LANE_STATE (laneIx surf p) == 10) then 4
  else if s.reg .SO_OUT_STATE surf = 0 then 0
  else if lanes.any (fun x => match x with | some st => decide (st < 4) | none => false) then 1
  else if lanes.all (fun x => match x with | some st => st == 4 || st == 5 || st == 6 | none => false) then 2
  else 3

/-- Logical lanes of a surface that are not carried (R230). -/
def State.uncarried (s : State) (surf : Nat) : Nat :=
  ((List.range (s.logicalLanes surf)).filter (fun l => !s.carried surf l)).length

/-- The surface whose copy of a LUT is in force: the one that has not taken a write that waits (R62). -/
def State.lutSurf (s : State) (l : Nat) : Nat :=
  if s.lutShadow.any (fun e => e.lut == l && bit e.taken 0) then 1 else 0

/-- The reach of the active ray-map slot, 12 pairs of I32 (R119, R137); zeros without a VALID slot. -/
def State.reachBytes (s : State) (surf : Nat) : List Byte :=
  let slot := s.calSel 0 surf
  let vc := s.vCount surf
  (List.range 24).flatMap (fun k => leBytes 4
    (if s.reg .CAL_STATE slot = 2 ∧ k / 2 < vc then s.reg .iTY (tyIx slot vc (k / 2) (k % 2)) else 0))

/-- The mean WEAR of the pool (R462). -/
def State.wearMean (s : State) : Nat :=
  let mx := s.wearMax
  (poolPages.map (s.wearOf mx)).sum / 1008

/-- Retired pages of the pool (R454). -/
def State.retiredPages (s : State) : Nat :=
  let mx := s.wearMax
  (poolPages.filter (fun p => decide (1000000 ≤ s.wearOf mx p))).length

/-- The data-bus occupancy of a controller over the latest 1 ms, in 1/1,024 of its peak of 64 bytes/ns
(R270, R306). -/
def State.busUse (s : State) (c : Nat) : Nat :=
  let n := (s.traffic.map (fun e => if e.1 = c ∧ s.clock < e.2.1 + 1000000 then e.2.2 else 0)).sum
  min 1024 (n * 1024 / 64000000)

/-- Time a PLL spent outside LOCKED, the period under way included (R425). -/
def State.outsideLock (s : State) (k : Nat) : Nat :=
  s.reg .CK_BYPASS_NS k + (if s.reg .CK_STATE k = 3 then 0 else s.clock - s.reg .iCK_OUT k)

/-- The frame number of the bank in a role, 0 for a role that no bank holds (R180). -/
def State.roleFrameOr0 (s : State) (n role : Nat) : Nat := (s.roleFrame n role).getD 0

/-- Event log: the entries in the format of R400, SEQ counted over the log (R404). -/
def State.logEntries (s : State) : List Nat := s.evLog.map Entry.raw

/-- Open sessions, of one kind or all. -/
def State.openSessions (s : State) (streams : Bool) : Nat :=
  ((List.range 1024).filter (fun n => s.reg .SS_STATE n == 1 && (!streams || s.reg .SS_KIND n == 1))).length

/-- The value of a parameter whose value follows from other state, as its bytes; `none` for a parameter
whose register holds it. -/
def State.derived (s : State) (r : Reg) (i : Nat) : Option (List Byte) :=
  let num (v : Nat) : Option (List Byte) := some (leBytes (r.width / 8) v)
  match r with
  | .PLV_KEY_LIST => some (
      let es := s.keys.flatMap (fun k => leBytes 2 k.1 ++ leBytes 1 k.2.1 ++ leBytes 1 0)
      es ++ (List.replicate (64 - s.keys.length) (leBytes 4 0xFFFF)).flatten)
  | .PLV_SESSIONS => num (s.openSessions false)
  | .PLV_STREAMS => num (s.openSessions true)
  | .SS_IDLE => num (if s.reg .SS_STATE i = 1 then min 0xFFFFFFFF ((s.clock - s.reg .iSS_SEEN i) / 1000000) else 0)
  | .EV_LOG => some (logBytes 32 8192 s.logEntries)
  | .OD_KEEP_PENDING => num s.keepPending.length
  | .BUF_BANK_SIZE => num (s.bufBankSize i)
  | .BUF_FRAMES => some ((List.range 4).flatMap (fun role => leBytes 4 (s.roleFrameOr0 i role)))
  | .BUF_MAXB => num (match s.bankOf i 1 with | some k => s.reg .iBK_MAXB (bankIx i k) | none => 0)
  | .BUF_CONCEALED => num (match s.bankOf i 0 with | some k => s.reg .iBK_CONC (bankIx i k) | none => 0)
  | .CMT_CONCEALED => num (s.concealedNow i)
  | .ADM_REACH => some (s.reachBytes i)
  | .FR_HISTORY => some (logBytes 64 65536 (if i = 0 then s.historyA else s.historyB))
  | .WL_STATE => num (s.linkState i)
  | .WL_FREE_SPARES => num (s.freeSpares i).length
  | .WL_UNCARRIED => num (s.uncarried i)
  | .WL_LOGICAL => num ((s.laneLogical (i / 84) (i % 84)).getD 0xFF)
  | .MS_INIT_MIN => num ((List.range 64).foldl (fun m p => min m (s.reg .iSWEEP p)) 786432)
  | .CH_INIT_PTR => num (s.reg .iSWEEP (2 * i) + 2 ^ 32 * s.reg .iSWEEP (2 * i + 1))
  | .MS_NRR_COUNT => num s.banks.refreshes
  | .CH_UTIL => num (s.busUse i)
  | .MS_FREEZE_LOG => some (logBytes 24 384 s.freezeLog)
  | .PN_LOG => some (logBytes 24 1536 s.poisonLog)
  | .QP_MAX_WAIT => num (s.recentMax i)
  | .WIN_PENDING => num (b2n (s.windowPending i))
  | .PP_RESIDENCE_MAX => num (s.recentMax (100 + i))
  | .TB_NOW => num s.now
  | .CAP_READ => some (((s.caps.filter (fun c => c.1 == i)).map Prod.snd).flatMap (leBytes 16))
  | .CK_BYPASS_NS => num (s.outsideLock i)
  | .PW_BASE => num s.powerBase
  | .PW_FREE => num (ofInt 32 s.powerFree)
  | .PW_GRANTED => num s.powerGranted
  | .PW_WAIT_HIGH => num s.highReqs.length
  | .PW_WAIT_NORMAL => num s.normalReqs.length
  | .PW_BLOCKED => num (b2n s.powerBlocked)
  | .PW_MAX_WAIT => num (s.recentMax 12)
  | .KP_POOL_FREE => num s.freePages.length
  | .KP_RETIRED => num s.retiredPages
  | .KP_WEAR_MAX => num s.wearMax
  | .KP_WEAR_MEAN => num s.wearMean
  | .KP_TRIWORDS => some ((List.range 16).flatMap (fun w => leBytes 8 (s.triword w)))
  | .KP_BAD_LOG => some (logBytes 16 256 s.badLog)
  | .IN_LUT_DATA => num (s.lutBlob (s.lutSurf i) i)
  | .IN_LUT_CRC => num (crc32c (leBytes 2048 (s.lutBlob (s.lutSurf i) i)))
  | .OUT_LUT_DATA => num (s.lutBlob (s.lutSurf (8 + i)) (8 + i))
  | .OUT_LUT_CRC => num (crc32c (leBytes 8194 (s.lutBlob (s.lutSurf (8 + i)) (8 + i))))
  | .NQ_COUNT => num (s.queue i).entries.length
  | .NQ_READ => some ((s.queue i).entries.flatMap (fun e => leBytes 32 e.raw))
  | .NQ_SUBS => num (s.queue i).subscribers.length
  | .FW_SELECTOR => num (s.triword 6)
  | .FW_IMAGES => some ((List.range 2).flatMap (fun k =>
      leBytes 4 (s.reg .iNOR_VERSION k) ++ leBytes 4 (s.reg .iNOR_VALID k)))
  | _ => none

/-- Parameters that show what Flaed measures over the latest 1 s and the manual gives no means to compute: once
a second has passed, each read is a free value (R424, R425). -/
def State.isMeasured (s : State) (r : Reg) : Bool :=
  match r with
  | .CK_PHASE_ERR => decide (1000000000 ≤ s.clock)
  | _ => false

/-! ## Staged values (R382) -/

/-- Where an array-wide parameter waits (R136): among the clusters' values or not, and its place. -/
def arrayPlace (r : Reg) (i : Nat) : Option (Bool × Nat) :=
  match r with
  | .HZ_CLUSTER_EN => some (false, 0) | .HZ_SHARE_A => some (false, 1) | .HZ_BYTES_NS => some (false, 2)
  | .CK_SSC => if i < 2 then some (false, 3 + i) else none
  | .CL_FENCE_REQ => some (true, i) | .CL_FENCE => some (true, 16 + i)
  | _ => none

/-- The value a STAGED read returns in place of the one in force. -/
def State.stagedValue (s : State) (acc : Accessor) (r : Reg) (i : Nat) : Option Nat :=
  match arrayPlace r i with
  | some (cl, ix) =>
    let v := s.reg (if cl then .iARR_CL else .iARR) ix
    if v = noValue then none else some v
  | none =>
    match r with
    | .PLV_PORT => if s.reg .iPEND_PLV_PORT 0 < 65536 then some (s.reg .iPEND_PLV_PORT 0) else none
    | .ING_PORT => if s.reg .iPEND_ING_PORT 0 < 65536 then some (s.reg .iPEND_ING_PORT 0) else none
    | .IN_LUT_DATA => (s.lutShadow.find? (fun e => e.lut == i)).map LutWrite.data
    | .OUT_LUT_DATA => (s.lutShadow.find? (fun e => e.lut == 8 + i)).map LutWrite.data
    | _ =>
      if r = .LAST_RATE ∧ s.reg .LAST_USERS i = 0 then
        (if s.reg .iG_PENDRATE i = 0xFF then none else some (s.reg .iG_PENDRATE i))
      else ((s.staged.filter (fun e => e.key == regKey r i && e.owner == ownerOf acc)).getLast?).map
        Staged.value

/-! ## Reads -/

/-- The bits of byte `k` of a parameter that are not RSVD: view entries (R71), the PLL band table (R414),
lace descriptors (R313), and the CAPS and SENSORS of a panel (R260). -/
def rsvdMask (r : Reg) (k : Nat) : Nat :=
  match r with
  | .VS_TABLE => if k % 8 < 6 then 255 else 0
  | .CK_BAND_TABLE => if k % 8 < 5 then 255 else 0
  | .LC_SH_DESC | .LC_CUR_DESC =>
    if k = 0 then 1 else if k < 6 then 0 else if k < 16 then 255 else if k < 28 then 0
    else if k = 28 then 128 else 255
  | .WL_PANEL_CAPS => if k = 22 ∨ k = 23 then 0 else 255
  | .WL_PANEL_SENSORS => if k = 0 then 255 else if k < 8 then 0 else if k % 8 < 4 then 255 else 0
  | _ => 255

/-- The bytes of a parameter with its RSVD fields read as 0 (R12). -/
def clearRsvd (r : Reg) (b : List Byte) : List Byte :=
  match r with
  | .VS_TABLE | .CK_BAND_TABLE | .LC_SH_DESC | .LC_CUR_DESC | .WL_PANEL_CAPS | .WL_PANEL_SENSORS =>
    b.zipIdx.map (fun x => x.1 &&& BitVec.ofNat 8 (rsvdMask r x.2))
  | _ => b

/-- The bytes of a parameter as a read returns them. -/
def State.valueBytes (s : State) (acc : Accessor) (r : Reg) (i : Nat) (staged : Bool) : List Byte × State :=
  let n := r.width / 8
  if s.isMeasured r then
    let (x, t) := s.draw
    (leBytes n x, t)
  else match (if staged then s.stagedValue acc r i else none) with
    | some v => (clearRsvd r (leBytes n v), s)
    | none => (clearRsvd r ((s.derived r i).getD (leBytes n (s.reg r i))), s)

/-- What a read takes away: NQ_READ in LOCAL mode the entries it returns and the signal that waits (R399,
R402), CAP_READ the records (R370). -/
def State.afterRead (s : State) (r : Reg) (i : Nat) : State :=
  if r = .NQ_READ ∧ s.reg .NQ_MODE i = 0 then
    s.setQueue i { s.queue i with entries := [], unsignalled := 0 }
  else if r = .CAP_READ then
    ({ s with caps := s.caps.filter (fun c => c.1 != i) } : State).setReg .iCAP_FULL i 0
  else s

/-- A read of instance `i` of a register (R380): its status is left in `status`, the bytes are returned; a
refused read returns none. -/
def State.readReg (s : State) (acc : Accessor) (r : Reg) (i : Nat) (staged : Bool) : List Byte × State :=
  if !s.reachable acc then ([], s)
  else match readFault s acc r with
    | some code => ([], (s.setStatus code).noteAccess acc (r.id i))
    | none =>
      let (b, t) := s.valueBytes acc r i staged
      (b, ((t.afterRead r i).setStatus 0).noteAccess acc (r.id i))

/-- A read of the parameter at an index and subindex (R378, R380). -/
def State.readId (s : State) (acc : Accessor) (index sub : Nat) (staged : Bool) : List Byte × State :=
  let id := 256 * index + sub
  if !s.reachable acc then ([], s)
  else if !s.servedId index sub then ([], (s.setStatus Code.odNoObject).noteAccess acc id)
  else match lookupReg index sub with
    | none => (leBytes 1 ((highestSub index).getD 0), (s.setStatus 0).noteAccess acc id)
    | some (r, i) => s.readReg acc r i staged

/-- A read command answers with the bytes in `value`. -/
def State.answerRead (s : State) (acc : Accessor) (r : Reg) (i : Nat) : State :=
  let (b, t) := s.readReg acc r i false
  { t with value := b }

/-- NQ_READ (R399). -/
def execNqRead (acc : Accessor) (q : Fin 2048) (s : State) : Out := .next (s.answerRead acc .NQ_READ q.val)

/-- CAP_READ (R370). -/
def execCapRead (acc : Accessor) (e : Fin 8) (s : State) : Out := .next (s.answerRead acc .CAP_READ e.val)

/-! ## Descriptors (R384) -/

/-- The commit code of a descriptor. -/
def commitCode : CommitClass → Nat
  | .immediate => 0 | .frame => 1 | .scheduled => 2 | .dark => 3 | .restart => 4 | .byValue => 5 | .none => 6

/-- The access code of a descriptor. -/
def accessCode : Access → Nat
  | .ro => 0 | .rw => 1 | .wo => 2 | .const => 3

/-- Parameters whose default is computed: a descriptor gives the value of this device. -/
def isComputed : Reg → Bool
  | .BUF_BANK_SIZE => true | .ADM_BUDGET_OPS => true | .ADM_BUDGET_SAMP => true | .ADM_BUDGET_DEC => true
  | .ADM_BUDGET_BYTES => true | .WL_LOGICAL => true | .PW_BASE => true | .PW_FREE => true
  | .KP_POOL_FREE => true | .KP_RETIRED => true | .KP_WEAR_MAX => true | .KP_WEAR_MEAN => true
  | .IN_LUT_CRC => true | .OUT_LUT_CRC => true | .FW_VERSION => true | .FW_SELECTOR => true
  | .FW_PROG_ADDR => true | .FW_PROG_LEN => true | .SV_STRAPS => true | _ => false

/-- The default of an instance: per profile for the two PTP parameters (R358). -/
def State.defaultOf (s : State) (r : Reg) (i : Nat) : Nat :=
  if (regRow r).ty.isBlob then 0
  else if isComputed r then leNat ((s.derived r i).getD (leBytes (r.width / 8) (s.reg r i)))
  else match r with
    | .PTP_DOMAIN => if s.reg .PTP_PROFILE 0 = 0 then 127 else 0
    | .PTP_DELAY_MECH => if s.reg .PTP_PROFILE 0 = 2 then 1 else 0
    | _ => regDefault r i

/-- A descriptor from its fields. -/
def packDescriptor (ty m n access level commit keep size dflt : Nat) : List Byte :=
  leBytes 16 (packBits [(8, ty), (8, m), (8, n), (2, access), (2, level), (3, commit), (1, keep), (32, size),
    (64, dflt)])

/-- The descriptor of the parameter at an index and subindex, with its status. -/
def State.describe (s : State) (index sub : Nat) : Nat × List Byte :=
  match lookupReg index sub, highestSub index with
  | some (r, i), _ =>
    let w := regRow r
    let d := s.defaultOf r i
    (0, packDescriptor w.ty.code w.ty.intBits w.ty.fracBits (accessCode w.access) w.level (commitCode w.commit)
      (b2n w.keep) (r.width / 8) (if w.ty.signed then ofInt 64 (asInt r.width d) else d))
  | none, some top =>
    if sub = 0 then (0, packDescriptor 2 0 0 0 0 0 0 1 top) else (Code.odNoObject, packDescriptor 0 0 0 0 0 0 0 0 0)
  | none, none => (Code.odNoObject, packDescriptor 0 0 0 0 0 0 0 0 0)

end Sys2Proof.Machine
end

