-- ==== Sys2Proof/Machine/Plovan.lean ====
section
/-! DEFINITION. Plovan control messages (12_control_dictionary.md, R385 to R391, R402). -/
namespace Sys2Proof.Machine

/-! ## The header (R386) and the items (R387) -/

/-- The fields of a control datagram; `tag` is empty where FLAGS says that there is none. -/
structure PlvHead where
  type : Nat
  session : Nat
  auth : Bool
  seq : Nat
  count : Nat
  body : List Byte
  signed : List Byte
  tag : List Byte
  deriving DecidableEq, Repr

/-- The fixed fields of a datagram are right: MAGIC, VER, RSVD, COUNT, LENGTH and TYPE (R386, R388); a
request has STATUS 0 and no RESPONSE flag. -/
def plvHeadOk (p : List Byte) : Bool :=
  let len := leAt p 16 4
  let flags := leAt p 6 1
  decide (32 ≤ p.length) && decide (p.length ≤ 9000) && leAt p 0 2 == 0x4350 && leAt p 2 1 == 1
    && decide (1 ≤ leAt p 3 1) && decide (leAt p 3 1 ≤ 8) && decide (flags ≤ 1) && leAt p 7 1 == 0
    && leAt p 20 12 == 0 && decide (leAt p 12 2 ≤ 256) && leAt p 14 2 == 0 && len % 4 == 0
    && p.length == 32 + len + 16 * flags

/-- The fields of a datagram. -/
def PlvHead.ofBytes (p : List Byte) : PlvHead :=
  let len := leAt p 16 4
  ⟨leAt p 3 1, leAt p 4 2, leAt p 6 1 == 1, leAt p 8 4, leAt p 12 2, (p.drop 32).take len, p.take (32 + len),
    p.drop (32 + len)⟩

/-- One item of a request: an ID or queue number, and what its type adds. -/
structure PlvItem where
  id : Nat
  offset : Nat
  maxlen : Nat
  flags : Nat
  data : List Byte
  deriving DecidableEq, Repr

/-- Bytes that bring `n` to a multiple of 4. -/
def padTo4 (n : Nat) : Nat := (4 - n % 4) % 4

/-- The first item of a body of a TYPE, and the bytes after it. -/
def takeItem (type : Nat) (b : List Byte) : Option (PlvItem × List Byte) :=
  if type = 4 then
    if b.length < 12 then none else some (⟨leAt b 0 4, leAt b 4 4, leAt b 8 2, leAt b 10 2, []⟩, b.drop 12)
  else if type = 5 then
    let n := leAt b 4 2
    if b.length < 8 + n + padTo4 n ∨ leAt b 6 2 ≠ 0 then none
    else some (⟨leAt b 0 4, 0, 0, 0, (b.drop 8).take n⟩, b.drop (8 + n + padTo4 n))
  else if b.length < 4 then none
  else if type = 6 then some (⟨leAt b 0 4, 0, 0, 0, []⟩, b.drop 4)
  else some (⟨leAt b 0 2, 0, 0, 0, []⟩, b.drop 4)

/-- COUNT items that fill the body exactly. -/
def takeItems (type : Nat) : Nat → List Byte → Option (List PlvItem)
  | 0, b => if b.isEmpty then some [] else none
  | n + 1, b =>
    match takeItem type b with
    | none => none
    | some (x, rest) => (takeItems type n rest).map (fun xs => x :: xs)

/-- The items of a request; `none` where its body is malformed. -/
def PlvHead.items (h : PlvHead) : Option (List PlvItem) :=
  if h.type = 1 then
    if h.body.length = 16 ∧ h.count = 0 ∧ h.session = 0xFFFF ∧ leAt h.body 12 4 = 0 then some [] else none
  else if h.type = 2 ∨ h.type = 3 then
    if h.body.isEmpty ∧ h.count = 0 then some [] else none
  else takeItems h.type h.count h.body

/-! ## Tags (R390) -/

/-- The tag of a message under a key of 32 bytes. -/
def plvTag (key : Nat) (m : List Byte) : List Byte := (Sha.hmac (leBytes 32 key) m).take 16

/-- The session key of an OPEN. -/
def sessionKey (psk clientNonce serverNonce session : Nat) : Nat :=
  leNat (Sha.hmac (leBytes 32 psk) ([0x50, 0x4C, 0x4F, 0x56, 0x41, 0x4E, 0x31].map (BitVec.ofNat 8)
    ++ leBytes 8 clientNonce ++ leBytes 8 serverNonce ++ leBytes 2 session))

/-! ## Messages Flaed sends -/

/-- A message of Flaed's own, tagged where it has a key (R386, R390). -/
def plvMessage (type session flags seq count status : Nat) (key : Option Nat) (body : List Byte) : List Byte :=
  let auth := b2n key.isSome
  let m := leBytes 20 (packBits [(16, 0x4350), (8, 1), (8, type), (16, session), (8, flags + auth), (8, 0),
    (32, seq), (16, count), (16, status), (32, body.length)]) ++ leBytes 12 0 ++ body
  match key with
  | some k => m ++ plvTag k m
  | none => m

/-- The key of a session. -/
def State.keyOfSession (s : State) (n : Nat) : Option Nat :=
  if s.reg .iSS_KEYED n = 1 then some (s.reg .iSS_KEY n) else none

/-- The bytes a datagram to a peer takes on the wire, without padding. -/
def State.wireLength (s : State) (peer : List Byte) (n : Nat) : Nat :=
  14 + (if s.reg .NET_VID 0 = 0 then 0 else 4) + (if beAt peer 0 12 = 0xFFFF then 28 else 48) + n

/-- A message leaves to a peer on a port and sub-port, in the queue NET_PCP_CTRL (R346, R349, R385). -/
def State.sendPlv (s : State) (from_ : Nat) (peer m : List Byte) : State :=
  let msg := OutMsg.plovan from_ peer m
  (s.sendMore [msg]).sendOwn (from_ / 4) (from_ % 4) (s.reg .NET_PCP_CTRL 0) (s.wireLength peer m.length) msg

/-- Where a session's latest valid datagram came from. -/
def State.peerOf (s : State) (n : Nat) : List Byte := leBytes 18 (s.reg .SS_PEER n)

/-! ## OPEN (R389) -/

/-- The status with which an OPEN is refused, 0 where it is accepted. -/
def State.openStatus (s : State) (role kind keyId : Nat) : Nat :=
  let known := if keyId = 0xFFFF then s.reg .PLV_ANON_OBSERVER 0 == 1 else (s.keyOf keyId).isSome
  let ceiling := if keyId = 0xFFFF then 0 else ((s.keyOf keyId).map Prod.fst).getD 0
  if !known then Code.plvAuth
  else if ceiling < role ∨ 3 < role ∨ 1 < kind ∨ (kind = 1 ∧ role = 0) then Code.plvRole
  else if s.freeSession.isNone then Code.sessionFull
  else if kind = 1 ∧ s.freeSlot.isNone then Code.streamFull
  else 0

/-- Whether the tag of an OPEN is as its key asks: a known key needs its tag, an anonymous OPEN has none. -/
def State.openTagOk (s : State) (h : PlvHead) (keyId : Nat) : Bool :=
  if keyId = 0xFFFF then !h.auth
  else match s.keyOf keyId with
    | some (_, psk) => h.auth && h.tag == plvTag psk h.signed
    | none => true

/-- An OPEN (R389, R390): the session takes the lowest free number, and its response is the first message
under its key. -/
def State.plvOpen (s : State) (from_ mac : Nat) (peer : List Byte) (h : PlvHead) : State :=
  let role := leAt h.body 0 1
  let kind := leAt h.body 1 1
  let keyId := leAt h.body 2 2
  if !s.openTagOk h keyId then s.bump .PLV_BAD_AUTH 0
  else
    let code := s.openStatus role kind keyId
    if code ≠ 0 then s.sendPlv from_ peer (plvMessage 1 0xFFFF 2 h.seq 0 code none [])
    else
      let n := s.freeSession.getD 0
      let slot := if kind = 1 then s.freeSlot else none
      let (nonce, s1) := s.draw
      let key := (s.keyOf keyId).map (fun k => sessionKey k.2 (leAt h.body 4 8) (nonce % 2 ^ 64) n)
      let s2 := ((s1.openSession n role kind keyId key slot).setReg .iSS_SEEN n s.clock).setReg .iSS_FROM n from_
      let s3 := (s2.setReg .iSS_MAC n mac).setReg .SS_PEER n (leNat peer)
      let m := plvMessage 1 n 2 h.seq 0 0 key
        (leBytes 8 nonce ++ leBytes 2 (slot.getD 0xFFFF) ++ leBytes 2 0 ++ leBytes 4 (s.reg .PLV_TIMEOUT 0))
      ({ s3 with responses := s3.responses ++ [(n, m)] } : State).sendPlv from_ peer m

/-! ## Items -/

/-- One item of a response: an ID, its status, and what the type adds. -/
def itemHead (id status third : Nat) : List Byte := leBytes 4 id ++ leBytes 2 status ++ leBytes 2 third

/-- One READ item (R387). -/
def State.readItem (s : State) (acc : Accessor) (x : PlvItem) : List Byte × State :=
  let index := bits x.id 23 8
  let sub := bits x.id 7 0
  let blob := match lookupReg index sub with | some (r, _) => (regRow r).ty.isBlob | none => false
  let size := match lookupReg index sub with | some (r, _) => r.width / 8 | none => 1
  let short := !blob && !(x.offset == 0 && decide (size ≤ x.maxlen))
  let pre := match lookupReg index sub with | some (r, _) => readFault s acc r | none => none
  if 2 ^ 24 ≤ x.id ∨ s.servedId index sub = false then (itemHead x.id Code.odNoObject 0, s)
  else if pre.isNone && short then (itemHead x.id Code.odType 0, s)
  else
    let (b, t) := s.readId acc index sub (bit x.flags 0)
    let v := if blob then (b.drop x.offset).take x.maxlen else b
    (itemHead x.id t.status v.length ++ v ++ List.replicate (padTo4 v.length) (BitVec.ofNat 8 0), t)

/-- One WRITE item. What it sends is added to what the items before it sent. -/
def State.writeItem (s : State) (acc : Accessor) (x : PlvItem) : List Byte × State :=
  if 2 ^ 24 ≤ x.id then (itemHead x.id Code.odNoObject 0, s)
  else
    let t := (s.send []).writeId acc (bits x.id 23 8) (bits x.id 7 0) x.data
    (itemHead x.id t.status 0, t.send (s.sent ++ t.sent))

/-- One DESCRIBE item. -/
def State.describeItem (s : State) (x : PlvItem) : List Byte :=
  let (code, d) := if 2 ^ 24 ≤ x.id then (Code.odNoObject, List.replicate 16 (BitVec.ofNat 8 0))
    else s.describe (bits x.id 23 8) (bits x.id 7 0)
  itemHead x.id code 0 ++ d

/-- Subscriptions of a session. -/
def State.subscriptions (s : State) (n : Nat) : Nat :=
  (s.queues.filter (fun e => e.2.subscribers.contains n)).length

/-- One SUBSCRIBE or UNSUBSCRIBE item (R402). -/
def State.subscribeItem (s : State) (n : Nat) (on : Bool) (x : PlvItem) : List Byte × State :=
  let q := x.id
  let e := s.queue q
  let has := e.subscribers.contains n
  let done (code : Nat) (t : State) : List Byte × State := (leBytes 4 code, t)
  if 2048 ≤ q then done Code.odNoObject s
  else if has == on then done 0 s
  else if !on then done 0 (s.setQueue q { e with subscribers := e.subscribers.filter (fun k => k != n) })
  else if 16 ≤ e.subscribers.length ∨ 64 ≤ s.subscriptions n then done Code.nqFull s
  else done 0 (s.setQueue q { e with subscribers := e.subscribers ++ [n] })

/-- One item of a request of session `n` (R381). -/
def State.plvItem (s : State) (n type : Nat) (x : PlvItem) : List Byte × State :=
  let acc := Accessor.session (inst 1024 n)
  if type = 4 then s.readItem acc x
  else if type = 5 then s.writeItem acc x
  else if type = 6 then (s.describeItem x, s)
  else s.subscribeItem n (type == 7) x

/-- The items of a request, in message order. -/
def State.plvItems (s : State) (n type : Nat) (xs : List PlvItem) : List Byte × State :=
  xs.foldl (fun a x =>
    let (b, t) := a.2.plvItem n type x
    (a.1 ++ b, t)) ([], s)

/-! ## Requests (R391) -/

/-- What a WRITE message leaves to be done once it is performed: its session closes, or Flaed restarts. -/
def State.afterMessage (s : State) (n : Nat) : State :=
  let s1 := ((s.setReg .iPLV_CUR 0 0).setReg .iPLV_CLOSE 0 0xFF).setReg .iPLV_RESET 0 0
  let s2 := s1.cond (s.reg .iPLV_CLOSE 0 != 0xFF) (fun t => t.closeNow n (s.reg .iPLV_CLOSE 0))
  match s.reg .iPLV_RESET 0 with
  | 0 => s2
  | 1 => s2.warmRestart 0xFF
  | _ => s2.deviceReset (s.reg .SV_STRAPS 0 % 8)

/-- A request of an open session is performed and answered (R391). A response longer than 9,000 bytes is
replaced by PLV_TOO_BIG, and no item is performed (R387). -/
def State.perform (s : State) (h : PlvHead) (xs : List PlvItem) : State :=
  let n := h.session
  let key := s.keyOfSession n
  let s1 := (s.setReg .iSS_SEQ n h.seq).setReg .iPLV_CUR 0 (n + 1)
  let (body, t) := s1.plvItems n h.type xs
  let big := decide (9000 < 32 + body.length + 16 * b2n key.isSome)
  let m := if big then plvMessage h.type n 2 h.seq 0 Code.plvTooBig key []
    else plvMessage h.type n 2 h.seq (if 4 ≤ h.type then xs.length else 0) 0 key body
  let u : State := if big then s1 else t
  let v : State := { u with responses := u.responses.filter (fun e => e.1 != n) ++ [(n, m)] }
  let w := v.sendPlv (s.reg .iSS_FROM n) (s.peerOf n) m
  (w.cond (h.type == 2) (fun a => a.setReg .iPLV_CLOSE 0 0)).afterMessage n

/-- Whether a datagram's tag is what its session asks (R388, R390). -/
def State.sessionTagOk (s : State) (h : PlvHead) : Bool :=
  match s.keyOfSession h.session with
  | some k => h.auth && h.tag == plvTag k h.signed
  | none => !h.auth

/-- A valid datagram of an open session (R391): during a warm restart the latest new request is held
(R496). -/
def State.plvRequest (s : State) (from_ mac : Nat) (peer : List Byte) (h : PlvHead) (xs : List PlvItem)
    (raw : List Byte) : State :=
  let n := h.session
  let s1 := ((s.setReg .iSS_SEEN n s.clock).setReg .iSS_FROM n from_).setReg .iSS_MAC n mac |>.setReg .SS_PEER n (leNat peer)
  let last := s.reg .iSS_SEQ n
  if h.seq = (last + 1) % 2 ^ 32 then
    if s.reg .iPHASE 0 = 3 then
      { s1 with heldRequests := s1.heldRequests.filter (fun e => e.1 != n) ++ [(n, raw)] }
    else s1.perform h xs
  else if h.seq = last then
    if s.reg .iPHASE 0 = 3 then s1
    else s1.sendPlv from_ peer (((s1.responses.find? (fun e => e.1 == n)).map Prod.snd).getD [])
  else s1.bump .PLV_BAD_SEQ 0

/-- A datagram to PLV_PORT (R385, R388). -/
def State.plvDatagram (s : State) (from_ mac : Nat) (peer p : List Byte) : State :=
  if !plvHeadOk p then s.bump .PLV_BAD_MSG 0
  else
    let h := PlvHead.ofBytes p
    match h.items with
    | none => s.bump .PLV_BAD_MSG 0
    | some xs =>
      if h.type = 1 then (if s.reg .iPHASE 0 = 3 then s else s.plvOpen from_ mac peer h)
      else if 1024 ≤ h.session ∨ s.reg .SS_STATE h.session ≠ 1 then s.bump .PLV_BAD_MSG 0
      else if !s.sessionTagOk h then s.bump .PLV_BAD_AUTH 0
      else s.plvRequest from_ mac peer h xs p

/-- The datagram of a command that carries messages of one TYPE, or malformed ones: served while the
firmware serves, and checked while it restarts (R32, R491, R496). -/
def State.plvCommand (s : State) (type : Nat) (port : Fin 2) (sub : Fin 4) (mac : BitVec 48) (src : BitVec 128)
    (srcPort : BitVec 16) (p : List Byte) : State :=
  let t := leAt p 3 1
  if (1 ≤ t ∧ t ≤ 8 ∧ t ≠ type) ∨ !(s.firmwareServes || s.reg .iPHASE 0 == 3) then s
  else
    let from_ := 4 * port.val + sub.val
    (({ s with macs := Sparse.set (fun _ => 0) s.macs mac.toNat from_ } : State).send []).plvDatagram from_ mac.toNat
      (beBytes 16 src.toNat ++ leBytes 2 srcPort.toNat) p

/-! ## The commands -/

/-- PLOVAN_OPEN. -/
def execPlovanOpen (port : Fin 2) (sub : Fin 4) (mac : BitVec 48) (src : BitVec 128) (srcPort : BitVec 16) (p : List Byte)
    (s : State) : Out := .next (s.plvCommand 1 port sub mac src srcPort p)

/-- PLOVAN_CLOSE. -/
def execPlovanClose (port : Fin 2) (sub : Fin 4) (mac : BitVec 48) (src : BitVec 128) (srcPort : BitVec 16) (p : List Byte)
    (s : State) : Out := .next (s.plvCommand 2 port sub mac src srcPort p)

/-- PLOVAN_KEEPALIVE. -/
def execPlovanKeepalive (port : Fin 2) (sub : Fin 4) (mac : BitVec 48) (src : BitVec 128) (srcPort : BitVec 16) (p : List Byte)
    (s : State) : Out := .next (s.plvCommand 3 port sub mac src srcPort p)

/-- PLOVAN_READ. -/
def execPlovanRead (port : Fin 2) (sub : Fin 4) (mac : BitVec 48) (src : BitVec 128) (srcPort : BitVec 16) (p : List Byte)
    (s : State) : Out := .next (s.plvCommand 4 port sub mac src srcPort p)

/-- PLOVAN_WRITE. -/
def execPlovanWrite (port : Fin 2) (sub : Fin 4) (mac : BitVec 48) (src : BitVec 128) (srcPort : BitVec 16) (p : List Byte)
    (s : State) : Out := .next (s.plvCommand 5 port sub mac src srcPort p)

/-- PLOVAN_DESCRIBE. -/
def execPlovanDescribe (port : Fin 2) (sub : Fin 4) (mac : BitVec 48) (src : BitVec 128) (srcPort : BitVec 16) (p : List Byte)
    (s : State) : Out := .next (s.plvCommand 6 port sub mac src srcPort p)

/-- PLOVAN_SUBSCRIBE. -/
def execPlovanSubscribe (port : Fin 2) (sub : Fin 4) (mac : BitVec 48) (src : BitVec 128) (srcPort : BitVec 16) (p : List Byte)
    (s : State) : Out := .next (s.plvCommand 7 port sub mac src srcPort p)

/-- PLOVAN_UNSUBSCRIBE. -/
def execPlovanUnsubscribe (port : Fin 2) (sub : Fin 4) (mac : BitVec 48) (src : BitVec 128) (srcPort : BitVec 16)
    (p : List Byte) (s : State) : Out := .next (s.plvCommand 8 port sub mac src srcPort p)

end Sys2Proof.Machine
end

