-- ==== Sys2Proof/Machine/Windows.lean ====
section
/-! DEFINITION. The PCIe dictionary windows and latches (12_control_dictionary.md, R395 to R398), and the
signals of notification queues (R402, R483). -/
namespace Sys2Proof.Machine

/-! ## Windows (R395 to R397) -/

/-- The accessor behind a window: F0 or F3. -/
def windowOf (f3 : Bool) : Accessor := if f3 then .f3 else .f0

/-- The latch of a function, 65,536 bytes. -/
def State.latch (s : State) (f3 : Bool) : Nat := s.reg .iLATCH (b2n f3)

/-- Bytes enter the latch from byte 0; the others keep their values. -/
def State.fillLatch (s : State) (f3 : Bool) (bs : List Byte) : State :=
  s.setReg .iLATCH (b2n f3)
    (leNat bs + 2 ^ (8 * bs.length) * (s.latch f3 >>> (8 * bs.length)))

/-- A dword read completes (R395). -/
def State.complete (s : State) (v : Nat) : State :=
  let b := leBytes 4 v
  { s with value := b, sent := [.completion b 0] }

/-- Whether the dictionary windows are served: the firmware serves, or the boot ROM does (R32, R490,
R496). -/
def State.windowServed (s : State) : Bool := s.firmwareServes || s.recovery

/-- A window access that is not served sets ACC_STATUS to 0xFFFF (R496). -/
def State.windowAway (s : State) (f3 : Bool) : State := s.setReg .iACC_STATUS (b2n f3) 0xFFFF

/-- A dword read at BAR 0 (R396, R397). -/
def State.windowRead (s : State) (f3 : Bool) (index sub : Nat) : State :=
  if !s.windowServed then (s.windowAway f3).complete 0xFFFFFFFF
  else
    let (b, t) := s.readId (windowOf f3) index sub false
    if t.status = Code.odNoObject then t.complete 0xFFFFFFFF
    else if t.status ≠ 0 then t.complete 0
    else match lookupReg index sub with
      | none => t.complete (leNat b)
      | some (r, _) =>
        if (regRow r).ty.isBlob then (t.fillLatch f3 b).complete b.length
        else if 4 < b.length then (t.fillLatch f3 b).complete (leNat b)
        else if (regRow r).ty.signed then t.complete (ofInt 32 (asInt r.width (leNat b)))
        else t.complete (leNat b)

/-- A dword read at BAR 2: the latch, ACC_STATUS and ACC_ID (R395). What else the region returns is not
stated. -/
def State.latchRead (s : State) (f3 : Bool) (dword : Nat) : State :=
  if dword < 0x4000 then s.complete (blobGet (s.latch f3) (4 * dword) 4)
  else if dword = 0x4000 then s.complete (if s.windowServed then s.reg .iACC_STATUS (b2n f3) else 0xFFFF)
  else if dword = 0x4001 then s.complete (s.reg .iACC_ID (b2n f3))
  else
    let (x, t) := s.draw
    t.complete x

/-- A dword of the MSI-X table (R395): each entry holds the address in its dwords 0 and 1, the data in dword 2
and the control word, of which bit 0 masks the vector, in dword 3. PRESUMED (log 87): the layout is that of PCI
Express. -/
def State.msixDword (s : State) (dword : Nat) : Nat :=
  let v := dword / 4
  match dword % 4 with
  | 0 => s.reg .iMSIX_ADDR v % 2 ^ 32
  | 1 => s.reg .iMSIX_ADDR v >>> 32
  | 2 => s.reg .iMSIX_DATA v
  | _ => s.reg .iMSIX_MASK v % 2

/-- A dword read at BAR 4 of F0 (R395): the table, or 32 pending bits. What else the region returns, and what a
function without the region returns, is not stated. -/
def State.msixRead (s : State) (f3 : Bool) (dword : Nat) : State :=
  if f3 then
    let (x, t) := s.draw
    t.complete x
  else if dword < 0x2000 then s.complete (s.msixDword dword)
  else if dword < 0x2040 then
    s.complete (forN 32 0 (fun a k => a + b2n (s.reg .iMSIX_PEND (32 * (dword - 0x2000) + k) == 1) * 2 ^ k))
  else
    let (x, t) := s.draw
    t.complete x

/-- WINDOW_READ (R395 to R397). -/
def execWindowRead (f3 : Bool) (region : Region) (dword : BitVec 24) (s : State) : Out :=
  match region with
  | .bar0 => .next (s.windowRead f3 (dword.toNat / 256) (dword.toNat % 256))
  | .bar2 => .next (s.latchRead f3 (dword.toNat % 0x8000))
  | .bar4 => .next (s.msixRead f3 (dword.toNat % 0x4000))

/-- The bytes a dword write at a parameter's offset writes: a value that is not extended as its type asks,
a BLOB length that is not its size, and partial byte enables give a length that R380 refuses with OD_TYPE
(R396, R397). -/
def State.windowData (s : State) (f3 : Bool) (index sub : Nat) (whole : Bool) (v : Nat) : List Byte :=
  match lookupReg index sub with
  | none => leBytes 4 v
  | some (r, _) =>
    let n := r.width / 8
    let wrong := List.replicate (n + 1) (BitVec.ofNat 8 0)
    if !whole then wrong
    else if (regRow r).ty.isBlob then (if v = n then leBytes n (s.latch f3) else wrong)
    else if 4 < n then leBytes 4 v ++ leBytes (n - 4) (s.latch f3 >>> 32)
    else if (if (regRow r).ty.signed then ofInt 32 (asInt r.width v) else v % 2 ^ r.width) = v then leBytes n v
    else wrong

/-- A dword write at BAR 0 (R396, R397). -/
def State.windowWrite (s : State) (f3 : Bool) (index sub : Nat) (whole : Bool) (v : Nat) : State :=
  if !s.windowServed then s.windowAway f3
  else (s.send []).writeId (windowOf f3) index sub (s.windowData f3 index sub whole v)

/-- WINDOW_WRITE (R396, R397); `be` has a bit per byte that the write enables. -/
def execWindowWrite (f3 : Bool) (dword : BitVec 24) (be : BitVec 4) (v : BitVec 32) (s : State) : Out :=
  .next (s.windowWrite f3 (dword.toNat / 256) (dword.toNat % 256) (be.toNat == 15) v.toNat)

/-- LATCH_WRITE (R397): the bytes enabled enter the latch. -/
def execLatchWrite (f3 : Bool) (dword : BitVec 14) (be : BitVec 4) (v : BitVec 32) (s : State) : Out :=
  .next (s.setReg .iLATCH (b2n f3) (forN 4 (s.latch f3) (fun a k =>
    if bit be.toNat k then blobSet a (4 * dword.toNat + k) 1 (v.toNat >>> (8 * k)) else a)))

/-! ## Signals (R402) -/

/-- Entries of a queue that are not signalled, oldest first. -/
def NQueue.fresh (n : NQueue) : List Entry := n.entries.drop (n.entries.length - n.unsignalled)

/-- Whether a queue signals: enough unsignalled entries, or the oldest held long enough (R402). -/
def State.signalDue (s : State) (q : Nat) : Bool :=
  let n := s.queue q
  match n.fresh with
  | [] => false
  | e :: _ => decide (s.reg .NQ_COAL_COUNT q ≤ n.unsignalled)
    || decide (e.posted + s.reg .NQ_COAL_NS q ≤ s.clock)

/-- The MSI-X message of a vector is sent, or its pending bit is set while it is masked or MSI-X is not
enabled (R402, R483). -/
def State.msix (s : State) (v : Nat) : State :=
  if s.reg .iMSIX_EN 0 = 1 ∧ s.reg .iMSIX_MASK v = 0 then
    s.sendMore [.msix v (s.reg .iMSIX_ADDR v) (s.reg .iMSIX_DATA v)]
  else s.setReg .iMSIX_PEND v 1

/-- NOTIFY to one subscriber (R387, R402), on the port where the latest frame of its MAC address came (R346). -/
def State.notify (s : State) (q : Nat) (es : List Entry) (n : Nat) : State :=
  let s1 := s.bump .iSS_NOTIFY n
  let body := leBytes 2 q ++ leBytes 6 0 ++ es.flatMap (fun e => leBytes 32 e.raw)
  s1.sendPlv (s.macPort (s.reg .iSS_MAC n)) (s.peerOf n)
    (plvMessage 9 n 0 (s1.reg .iSS_NOTIFY n) es.length 0 (s.keyOfSession n) body)

/-- NQ_SIGNAL (R402). -/
def execNqSignal (q : Fin 2048) (s : State) : Out :=
  let k := q.val
  if s.signalDue k = false then .next s
  else
    let n := s.queue k
    let s1 := (s.send []).setQueue k { n with unsignalled := 0 }
    let s2 := s1.cond (s.reg .NQ_MSIX k == 1) (fun t => t.msix k)
    .next (n.subscribers.foldl (fun t x => t.notify k n.fresh x) s2)

/-- Vectors with a pending bit that are free to go send their messages. -/
def State.sendPending (s : State) : State :=
  forN 2048 s (fun t v =>
    if t.reg .iMSIX_PEND v = 1 ∧ t.reg .iMSIX_EN 0 = 1 ∧ t.reg .iMSIX_MASK v = 0 then
      (t.sendMore [.msix v (t.reg .iMSIX_ADDR v) (t.reg .iMSIX_DATA v)]).setReg .iMSIX_PEND v 0
    else t)

/-- The bytes of a dword that a write enables take the write's values. -/
def mergeBytes (old : Nat) (be : Nat) (v : Nat) : Nat :=
  forN 4 old (fun a k => if bit be k then blobSet a k 1 (v >>> (8 * k)) else a)

/-- A dword write of the MSI-X table (R395); of a control word only the mask bit is held. -/
def State.msixWrite (s : State) (dword : Nat) (be v : Nat) : State :=
  let k := dword / 4
  let w := mergeBytes (s.msixDword dword) be v
  match dword % 4 with
  | 0 => s.setReg .iMSIX_ADDR k (s.reg .iMSIX_ADDR k / 2 ^ 32 * 2 ^ 32 + w)
  | 1 => s.setReg .iMSIX_ADDR k (s.reg .iMSIX_ADDR k % 2 ^ 32 + w * 2 ^ 32)
  | 2 => s.setReg .iMSIX_DATA k w
  | _ => s.setReg .iMSIX_MASK k (w % 2)

/-- MSIX_ENABLE (R402, R483): the host enables or disables MSI-X, or writes the table. -/
def execMsixEnable (op : MsixOp) (s : State) : Out :=
  let t := s.send []
  match op with
  | .enable on => .next (t.setReg .iMSIX_EN 0 (b2n on)).sendPending
  | .table dword be v => .next (t.msixWrite dword.val be.toNat v.toNat).sendPending

end Sys2Proof.Machine
end

