-- ==== Sys2Proof/Machine/Startup.lean ====
section
/-! DEFINITION. From the reset to first light (17_startup_service.md, R490 to R493, R496, R501): the firmware
reaches RUNNING after a POWER, DEVICE or THERMAL reset or after a warm restart, or Flaed enters RECOVERY. -/
namespace Sys2Proof.Machine

/-! ## What both starts share -/

/-- Without a valid image only the boot ROM serves; both surfaces are OFF, and no tile waits or runs (R489, R490). FW_VERSION names no
image then, and is free. -/
def State.toRecovery (s : State) : State :=
  let s1 := forN 2 s (fun t surf => (forN 84 t (fun u p => (u.haltLane surf p).setLane surf p laneIdle)).setReg
    .SO_OUT_STATE surf 0)
  let (x, s2) := ({ s1 with tileQueue := [], requeued := [], held := [] } : State).draw
  ((((s2.setReg .FW_VERSION 0 x).setReg .FW_STATE 0 2).setReg .FW_RUNNING 0 0xFF).setReg .iG_RUN 0 0).setReg
    .iPHASE 0 2

/-- FW_* show the image that runs (R505); where its Hazel program lies is not stated. -/
def State.showImage (s : State) : State :=
  let k := s.reg .iBOOT_IMAGE 0
  let (x, s1) := s.draw
  (((((s1.setReg .FW_STATE 0 (s.reg .iBOOT_TRIAL 0)).setReg .FW_RUNNING 0 k).setReg .FW_VERSION 0
    (s.reg .iNOR_VERSION k)).setReg .FW_PROG_LEN 0 (s.reg .iNOR_PLEN k)).setReg .FW_PROG_ADDR 0 x).setReg
    .iTRIAL_NS 0 s.clock

/-- A unit whose enable is in force takes the state that goes with it: `off` when it is idle and disabled,
`idle` when it was `off` and is enabled. -/
def State.syncEnable (s : State) (enable state : Reg) (idle off i : Nat) : State :=
  if s.reg enable i = 0 ∧ s.reg state i = idle then s.setReg state i off
  else if s.reg enable i = 1 ∧ s.reg state i = off then s.setReg state i idle
  else s

/-- Codecs, laces, Skivers, the scrubbers and the Insole follow their enables (R172, R300, R318, R337, R472). -/
def State.syncEnables (s : State) : State :=
  let s1 := forN 8 s (fun t n => t.syncEnable .GC_ENABLE .GC_STATE 0 4 n)
  let s2 := forN 64 s1 (fun t n => t.syncEnable .LC_ENABLE .LC_STATE 0 8 n)
  let s3 := forN 4 s2 (fun t n => t.syncEnable .SK_ENABLE .SK_STATE 0 4 n)
  let s4 := forN 5 s3 (fun t k =>
    if t.reg .SC_ENABLE k = 1 ∧ t.reg .SC_STATE k = 0 then
      t.setReg .SC_STATE k (if k = 0 then (if t.reg .MS_INIT_STATE 0 = 1 then 2 else 1) else 3)
    else t)
  s4.syncEnable .INS_ENABLE .INS_STATE 0 5 0

/-- ADM_BUDGET_* of a surface (R137). -/
def State.publishBudgets (s : State) (surf : Nat) : State :=
  let b := s.budgets surf false
  (((s.publish32 .ADM_BUDGET_OPS surf b.ops).publish32 .ADM_BUDGET_SAMP surf b.samp).publish32 .ADM_BUDGET_DEC
    surf b.dec).publish32 .ADM_BUDGET_BYTES surf b.bytes

/-- The costs, the reservation and the budgets of the state that start-up brings into force on a surface (R42,
R125, R137). -/
def State.startCosts (s : State) (surf : Nat) : State := (s.refreshCost surf).publishBudgets surf

/-- What is computed from the values in force: users, rates, taps and forced causes. -/
def State.refreshAll (s : State) : State :=
  let s1 := forN 2 s State.refreshTiming
  let s2 := (forN 4 s1 State.refreshNext).refreshTaps
  (((forN 2 s2 State.seamPolicy).loadComparators).showServo).selectMaster

/-! ## RUNNING after a reset (R491 to R493) -/

/-- Slot 0 holds the program of the image, and every cluster runs it that is neither gated nor fenced;
`failed` are the clusters whose self-test fails (R128, R134, R139, R491). -/
def State.startClusters (s : State) (version k failed : Nat) : State :=
  let s1 := ((s.setReg .PG_STATE 0 2).setReg .PG_VERSION 0 version).setReg .PG_K 0 k
  let s2 := forN 16 s1 (fun t n =>
    let u := (t.setReg .CL_PROG_SLOT n 0).setReg .iFENCE_HOST n (t.hostFence n)
    let v := u.refreshFences n
    if bit (v.reg .HZ_CLUSTER_EN 0) n = false then v.setCluster n 1
    else if v.reg .CL_FENCED n = 0xFFFF then v.setCluster n 4
    else v.setCluster n 0)
  (setBits 16 failed).foldl (fun t n => if t.reg .CL_STATE n = 0 then t.fenceCluster n 6 else t) s2

/-- Scan-out of a surface starts (R247, R492, R493), or the surface is OFF (R220). -/
def State.startSurface (s : State) (surf : Nat) : State :=
  if s.reg .SO_ENABLE surf = 1 then
    (((s.setReg .iSTARTUP surf 1).setReg .iSTARTUP_OVER surf 0).setReg .CMT_DARK_LEFT surf 0xFF).bringUp surf
  else s.setReg .SO_OUT_STATE surf 0

/-- THERMAL_SHUTDOWN, owed since the shutdown, with the peak reading (R440). -/
def State.reportShutdown (s : State) : State :=
  if s.reg .iSHUT_OWED 0 = 0 then s
  else
    let peak := s.reg .iCMP_PEAK 0
    let s1 := ((s.setReg .iSHUT_OWED 0 0).bump .TH_SHUTDOWNS 0).noteKeep .TH_SHUTDOWNS 0
    (s1.putReg .TH_LAST_PEAK 0 peak).raise Code.thermalShutdown none [(16, peak)]

/-- The firmware is RUNNING after a POWER, DEVICE or THERMAL reset. -/
def State.firstRunning (s : State) (version k failed : Nat) : State :=
  let s1 := ((((s.setReg .iPHASE 0 1).setReg .iRUN_NS 0 s.now).setReg .iRUN_AT 0 s.clock).setReg .iG_RUN 0 1).showImage
  let s2 := ((s1.startClusters version k failed).syncEnables).refreshAll
  let s3 := (forN 2 (forN 2 s2 State.startCosts) State.startSurface).announceGroups
  let s4 := s3.reportShutdown
  s4.cond (s4.reg .SU_LAST_RESET 0 == 0) State.writeLife

/-! ## RUNNING after a warm restart (R496, R501) -/

/-- Pending RESTART-class values take effect (R382). -/
def State.takeRestart (s : State) : State :=
  let one (pend r : Reg) (t : State) : State :=
    if t.reg pend 0 < 65536 then (t.putReg r 0 (t.reg pend 0)).setReg pend 0 0x10000 else t
  one .iPEND_ING_PORT .ING_PORT (one .iPEND_PLV_PORT .PLV_PORT s)

/-- Every KEEP parameter with its instances. -/
def keepKeys : List (Reg × Nat) :=
  dictRegs.flatMap (fun r => if (regRow r).keep then
    ((List.range (regRow r).count).filter (regExists r)).map (fun i => (r, i)) else [])

/-- A KEEP parameter returns to its default and is owed to the Keeper (R404). A spare map does so at the
surface's next bring-up, as under WL_MAP_RESET. -/
def State.factoryOne (s : State) (r : Reg) (i : Nat) : State :=
  let t := match r with
    | .WL_SPARE_MAP => s.setReg .iWL_MAPRESET i 1
    | _ => s.setReg r i (regDefault r i)
  (t.noteKeep r i).saveTri r

/-- OD_FACTORY acts (R404): the key table and the LUTs are KEEP values as well. A cluster that a fault had
fenced is tested again (R134), and a surface that was OFF is enabled. -/
def State.factory (s : State) : State :=
  if s.reg .iFACTORY 0 = 0 then s
  else
    let s1 := keepKeys.foldl (fun t e => t.factoryOne e.1 e.2) (s.setReg .iFACTORY 0 0)
    let s2 : State := { s1.windowsInForce with keys := [], luts := [] }
    let s3 := forN 16 s2 (fun t n =>
      let u := t.refreshFences n
      if s.reg .CL_FAULT_MASK n = 0xFFFF ∧ s.reg .CL_STATE n = 4 then u.startSelfTest n else u)
    let s4 := forN 2 s3 (fun t surf => if t.reg .SO_OUT_STATE surf = 0 then t.setReg .iS_ENABLE surf 1 else t)
    s4.syncEnables.refreshAll

/-- FUNC_DISABLED of the drains that ended meanwhile (R501), and WATCHDOG_RESTART (R495). -/
def State.restartReports (s : State) : State :=
  let s1 := s.disabledOwed.foldl (fun t e => t.raise Code.funcDisabled none [(32, e.1), (32, e.2)])
    ({ s with disabledOwed := [] } : State)
  if s.reg .iWARM_CAUSE 0 = 0xFF then s1
  else (s1.setReg .iWARM_CAUSE 0 0xFF).raise Code.watchdogRestart none [(8, s.reg .iWARM_CAUSE 0)]

/-- The requests held during the restart are performed (R391, R496). One that restarts Flaed again leaves the
rest held. -/
def State.performHeld (s : State) : State :=
  (s.heldRequests).foldl (fun t e =>
    let h := PlvHead.ofBytes e.2
    match h.items with
    | some xs =>
      if t.reg .iPHASE 0 = 1 ∧ t.reg .SS_STATE h.session = 1 then
        ({ t with heldRequests := t.heldRequests.filter (fun x => x.1 != e.1) } : State).perform h xs
      else t
    | none => t) s

/-- The firmware is RUNNING again after a warm restart: tri-words are voted and records resolved (R457, R460), and
values in force stay (R496). -/
def State.runningAgain (s : State) : State :=
  let s0 := (forN 16 (s.setReg .iPHASE 0 1) State.voteWord).loadComparators
  let s1 := ((s0.readPool.resolveAll).showImage).takeRestart.factory
  s1.restartReports.performHeld

/-! ## The commands -/

/-- FIRMWARE_RUNNING (R491, R496): `version` and `k` are what the Hazel program of the image declares (R130),
`failed` the clusters whose self-test fails. -/
def execFirmwareRunning (version : BitVec 32) (k : BitVec 80) (failed : BitVec 16) (s : State) : Out :=
  let s0 := s.send []
  let ph := s.reg .iPHASE 0
  if ph ≠ 0 ∧ ph ≠ 3 then .next s
  else if s.reg .iBOOT_IMAGE 0 = 0xFF then .next s0.toRecovery
  else if ph = 0 then .next (s0.firstRunning version.toNat k.toNat failed.toNat)
  else .next s0.runningAgain

/-- STARTUP_DARK_LIMIT (R493): 1,000 ms after RUNNING a surface still dark lights at its next boundary. -/
def execStartupDarkLimit (surf : Surface) (s : State) : Out :=
  if s.reg .iSTARTUP surf.val = 1 ∧ s.reg .iRUN_AT 0 + 1000000000 ≤ s.clock then
    .next (s.setReg .iSTARTUP_OVER surf.val 1)
  else .next s

end Sys2Proof.Machine
end

