-- ==== Sys2Proof/Machine/Dispatch.lean ====
section
/-! DEFINITION. The dispatch: one arm per command of the opcode table, each a direct call of that
command's meaning. -/
namespace Sys2Proof.Machine

def exec (i : Instr) (s : State) : Host.Outcome State Fault Refusal :=
  match i with
  | .frameBoundary surf => Sys2Proof.Machine.execFrameBoundary surf s
  | .frameRecordPublish surf => Sys2Proof.Machine.execFrameRecordPublish surf s
  | .commitDeadline surf seen => Sys2Proof.Machine.execCommitDeadline surf seen s
  | .bandDispatch surf => Sys2Proof.Machine.execBandDispatch surf s
  | .tileAssign => Sys2Proof.Machine.execTileAssign s
  | .tileComplete c fills seen => Sys2Proof.Machine.execTileComplete c fills seen s
  | .slotRelease surf test => Sys2Proof.Machine.execSlotRelease surf test s
  | .rayLineStart surf bad => Sys2Proof.Machine.execRayLineStart surf bad s
  | .tapRowCoded surf k seen => Sys2Proof.Machine.execTapRowCoded surf k seen s
  | .tapFrameHeaderWrite surf k seen => Sys2Proof.Machine.execTapFrameHeaderWrite surf k seen s
  | .memoryRead m port addr len seen => Sys2Proof.Machine.execMemoryRead m port addr len seen s
  | .memoryWrite m port addr data seen => Sys2Proof.Machine.execMemoryWrite m port addr data seen s
  | .correctedWriteBack seen => Sys2Proof.Machine.execCorrectedWriteBack seen s
  | .pipFreezeWatchdog => Sys2Proof.Machine.execPipFreezeWatchdog s
  | .powerGrantRequest op => Sys2Proof.Machine.execPowerGrantRequest op s
  | .powerGrant => Sys2Proof.Machine.execPowerGrant s
  | .powerGrantReturn op => Sys2Proof.Machine.execPowerGrantReturn op s
  | .pwCeilingWrite acc v => Sys2Proof.Machine.execPwCeilingWrite acc v s
  | .calLoadValidate acc k => Sys2Proof.Machine.execCalLoadValidate acc k s
  | .calLoadEmpty acc k => Sys2Proof.Machine.execCalLoadEmpty acc k s
  | .calValidationDone k seen => Sys2Proof.Machine.execCalValidationDone k seen s
  | .calSlotWrite acc k p v => Sys2Proof.Machine.execCalSlotWrite acc k p v s
  | .lutWrite acc l v => Sys2Proof.Machine.execLutWrite acc l v s
  | .pgLoadVerify acc p => Sys2Proof.Machine.execPgLoadVerify acc p s
  | .pgLoadEmpty acc p => Sys2Proof.Machine.execPgLoadEmpty acc p s
  | .pgLoadDone p version k seen => Sys2Proof.Machine.execPgLoadDone p version k seen s
  | .hzProgTarget acc p => Sys2Proof.Machine.execHzProgTarget acc p s
  | .clusterLoadDone n ok => Sys2Proof.Machine.execClusterLoadDone n ok s
  | .engineFaultFence n mask regFile => Sys2Proof.Machine.execEngineFaultFence n mask regFile s
  | .hogelOverrun n mask cycles => Sys2Proof.Machine.execHogelOverrun n mask cycles s
  | .clusterFaultFence n decoder => Sys2Proof.Machine.execClusterFaultFence n decoder s
  | .arrayParamWrite acc p v => Sys2Proof.Machine.execArrayParamWrite acc p v s
  | .clFaultClear acc n mask => Sys2Proof.Machine.execClFaultClear acc n mask s
  | .selfTestDone n pass => Sys2Proof.Machine.execSelfTestDone n pass s
  | .clusterWakeDone n => Sys2Proof.Machine.execClusterWakeDone n s
  | .gcTailWrite acc n tail => Sys2Proof.Machine.execGcTailWrite acc n tail s
  | .gcJobStart n seen => Sys2Proof.Machine.execGcJobStart n seen s
  | .gcJobRun n => Sys2Proof.Machine.execGcJobRun n s
  | .gcJobEnd n seen => Sys2Proof.Machine.execGcJobEnd n seen s
  | .gcEnableDisable acc n done => Sys2Proof.Machine.execGcEnableDisable acc n done s
  | .gcEnableResume acc n => Sys2Proof.Machine.execGcEnableResume acc n s
  | .gcRingWrite acc n p v => Sys2Proof.Machine.execGcRingWrite acc n p v s
  | .codecAssignWrite acc u v => Sys2Proof.Machine.execCodecAssignWrite acc u v s
  | .ingestTileDecoded slot seen => Sys2Proof.Machine.execIngestTileDecoded slot seen s
  | .standingGrantRequest n => Sys2Proof.Machine.execStandingGrantRequest n s
  | .streamTilesPacket p seen => Sys2Proof.Machine.execStreamTilesPacket p seen s
  | .streamEndPacket p seen => Sys2Proof.Machine.execStreamEndPacket p seen s
  | .strRingTailWrite acc n tail => Sys2Proof.Machine.execStrRingTailWrite acc n tail s
  | .streamPacketFetch n desc p seen => Sys2Proof.Machine.execStreamPacketFetch n desc p seen s
  | .bufCtrlOpen acc n => Sys2Proof.Machine.execBufCtrlOpen acc n s
  | .bufCtrlSeal acc n => Sys2Proof.Machine.execBufCtrlSeal acc n s
  | .bufCtrlDiscard acc n => Sys2Proof.Machine.execBufCtrlDiscard acc n s
  | .bufParamWrite acc n p v => Sys2Proof.Machine.execBufParamWrite acc n p v s
  | .sealComplete n seen => Sys2Proof.Machine.execSealComplete n seen s
  | .cgCtrlOpen acc g => Sys2Proof.Machine.execCgCtrlOpen acc g s
  | .cgCtrlGo acc g => Sys2Proof.Machine.execCgCtrlGo acc g s
  | .cgCtrlAbort acc g => Sys2Proof.Machine.execCgCtrlAbort acc g s
  | .cgParamWrite acc g p v => Sys2Proof.Machine.execCgParamWrite acc g p v s
  | .cueLoadValidate acc n => Sys2Proof.Machine.execCueLoadValidate acc n s
  | .cueLoadEmpty acc n => Sys2Proof.Machine.execCueLoadEmpty acc n s
  | .cueValidationDone n seen => Sys2Proof.Machine.execCueValidationDone n seen s
  | .cueParamWrite acc n p v => Sys2Proof.Machine.execCueParamWrite acc n p v s
  | .pbCtrlArm acc surf => Sys2Proof.Machine.execPbCtrlArm acc surf s
  | .pbCtrlStop acc surf => Sys2Proof.Machine.execPbCtrlStop acc surf s
  | .lastResync acc g => Sys2Proof.Machine.execLastResync acc g s
  | .lastRateWrite acc g rate => Sys2Proof.Machine.execLastRateWrite acc g rate s
  | .soEnableDisable acc surf => Sys2Proof.Machine.execSoEnableDisable acc surf s
  | .soEnableResume acc surf => Sys2Proof.Machine.execSoEnableResume acc surf s
  | .tapTailWrite acc surf k tail => Sys2Proof.Machine.execTapTailWrite acc surf k tail s
  | .tapParamWrite acc surf k p v => Sys2Proof.Machine.execTapParamWrite acc surf k p v s
  | .receiverDetectPulse surf p present => Sys2Proof.Machine.execReceiverDetectPulse surf p present s
  | .laneTimeout surf p => Sys2Proof.Machine.execLaneTimeout surf p s
  | .laneActiveEntry surf p => Sys2Proof.Machine.execLaneActiveEntry surf p s
  | .sparedAttempt surf p => Sys2Proof.Machine.execSparedAttempt surf p s
  | .caps surf r raw => Sys2Proof.Machine.execCaps surf r raw s
  | .laneStatus surf r raw => Sys2Proof.Machine.execLaneStatus surf r raw s
  | .eqReq surf r raw => Sys2Proof.Machine.execEqReq surf r raw s
  | .eqApply surf p => Sys2Proof.Machine.execEqApply surf p s
  | .eqDone surf r raw => Sys2Proof.Machine.execEqDone surf r raw s
  | .eqNegotiationTimeout surf p => Sys2Proof.Machine.execEqNegotiationTimeout surf p s
  | .spareReq surf r raw => Sys2Proof.Machine.execSpareReq surf r raw s
  | .spareAck surf r raw => Sys2Proof.Machine.execSpareAck surf r raw s
  | .sensors surf r raw => Sys2Proof.Machine.execSensors surf r raw s
  | .calBegin surf r raw => Sys2Proof.Machine.execCalBegin surf r raw s
  | .calData surf r raw seen => Sys2Proof.Machine.execCalData surf r raw seen s
  | .calEnd surf r raw seen => Sys2Proof.Machine.execCalEnd surf r raw seen s
  | .calNone surf r raw => Sys2Proof.Machine.execCalNone surf r raw s
  | .prbsReport surf r raw => Sys2Proof.Machine.execPrbsReport surf r raw s
  | .returnLaneLock surf r raw => Sys2Proof.Machine.execReturnLaneLock surf r raw s
  | .returnLaneUnlock surf r raw => Sys2Proof.Machine.execReturnLaneUnlock surf r raw s
  | .capsHoldExpire surf => Sys2Proof.Machine.execCapsHoldExpire surf s
  | .fwdMsgResend surf => Sys2Proof.Machine.execFwdMsgResend surf s
  | .laneIdleEntry surf p => Sys2Proof.Machine.execLaneIdleEntry surf p s
  | .blankIdleExit surf => Sys2Proof.Machine.execBlankIdleExit surf s
  | .fastwakeDone surf p => Sys2Proof.Machine.execFastwakeDone surf p s
  | .spareEffect surf l => Sys2Proof.Machine.execSpareEffect surf l s
  | .spareAckTimeout surf l => Sys2Proof.Machine.execSpareAckTimeout surf l s
  | .wlCtrlRetrain acc surf p => Sys2Proof.Machine.execWlCtrlRetrain acc surf p s
  | .wlCtrlSpare acc surf p => Sys2Proof.Machine.execWlCtrlSpare acc surf p s
  | .wlCtrlRetry acc surf p => Sys2Proof.Machine.execWlCtrlRetry acc surf p s
  | .wlMapReset acc surf => Sys2Proof.Machine.execWlMapReset acc surf s
  | .wlCalFetch acc surf gain => Sys2Proof.Machine.execWlCalFetch acc surf gain s
  | .wlPrbsMode acc surf p mode => Sys2Proof.Machine.execWlPrbsMode acc surf p mode s
  | .prbsStart surf p => Sys2Proof.Machine.execPrbsStart surf p s
  | .wrPrbsMode acc surf r mode => Sys2Proof.Machine.execWrPrbsMode acc surf r mode s
  | .refresh pc => Sys2Proof.Machine.execRefresh pc s
  | .stackTempRead stack temp => Sys2Proof.Machine.execStackTempRead stack temp s
  | .neighbourRefresh pc bank => Sys2Proof.Machine.execNeighbourRefresh pc bank s
  | .retrainDue c => Sys2Proof.Machine.execRetrainDue c s
  | .retrainPause c urgent width height delay vref seen => Sys2Proof.Machine.execRetrainPause c urgent width height delay vref seen s
  | .chRetrainNow acc c => Sys2Proof.Machine.execChRetrainNow acc c s
  | .msRetrainEnDisable acc => Sys2Proof.Machine.execMsRetrainEnDisable acc s
  | .sweepBurst seen => Sys2Proof.Machine.execSweepBurst seen s
  | .scrubBurst seen => Sys2Proof.Machine.execScrubBurst seen s
  | .cacheScrub n found last => Sys2Proof.Machine.execCacheScrub n found last s
  | .scEnableDisable acc k => Sys2Proof.Machine.execScEnableDisable acc k s
  | .scEnableResume acc k => Sys2Proof.Machine.execScEnableResume acc k s
  | .winApply acc => Sys2Proof.Machine.execWinApply acc s
  | .msRelease acc m => Sys2Proof.Machine.execMsRelease acc m s
  | .pnClear acc => Sys2Proof.Machine.execPnClear acc s
  | .lcShDescWrite acc n d => Sys2Proof.Machine.execLcShDescWrite acc n d s
  | .lcArm acc n => Sys2Proof.Machine.execLcArm acc n s
  | .lcDisarm acc n => Sys2Proof.Machine.execLcDisarm acc n s
  | .laceDescriptorStart n seen => Sys2Proof.Machine.execLaceDescriptorStart n seen s
  | .laceBurst n src dst withdrawn seen => Sys2Proof.Machine.execLaceBurst n src dst withdrawn seen s
  | .laceComplete n seen => Sys2Proof.Machine.execLaceComplete n seen s
  | .laceHalf n => Sys2Proof.Machine.execLaceHalf n s
  | .laceError n e => Sys2Proof.Machine.execLaceError n e s
  | .laceBusError n cause addr => Sys2Proof.Machine.execLaceBusError n cause addr s
  | .laceBusStopped => Sys2Proof.Machine.execLaceBusStopped s
  | .lsBusClear acc => Sys2Proof.Machine.execLsBusClear acc s
  | .lcCtrlResume acc n => Sys2Proof.Machine.execLcCtrlResume acc n s
  | .lcCtrlAbandon acc n => Sys2Proof.Machine.execLcCtrlAbandon acc n s
  | .lcEnableDisable acc n => Sys2Proof.Machine.execLcEnableDisable acc n s
  | .lcEnableResume acc n => Sys2Proof.Machine.execLcEnableResume acc n s
  | .skTailWrite acc k tail => Sys2Proof.Machine.execSkTailWrite acc k tail s
  | .skJobStart k seen => Sys2Proof.Machine.execSkJobStart k seen s
  | .skJobEnd k seen => Sys2Proof.Machine.execSkJobEnd k seen s
  | .skEnableDisable acc k done => Sys2Proof.Machine.execSkEnableDisable acc k done s
  | .skEnableResume acc k => Sys2Proof.Machine.execSkEnableResume acc k s
  | .skRingWrite acc k p v => Sys2Proof.Machine.execSkRingWrite acc k p v s
  | .ethFrameReceive port sub f bad corr uncorr rx tx => Sys2Proof.Machine.execEthFrameReceive port sub f bad corr uncorr rx tx s
  | .ethModeWrite acc port p v => Sys2Proof.Machine.execEthModeWrite acc port p v s
  | .linkUp port sub m => Sys2Proof.Machine.execLinkUp port sub m s
  | .linkDown port sub => Sys2Proof.Machine.execLinkDown port sub s
  | .rqParamWrite acc q p v => Sys2Proof.Machine.execRqParamWrite acc q p v s
  | .ptpSync port h source log t1 corr t2 => Sys2Proof.Machine.execPtpSync port h source log t1 corr t2 s
  | .ptpAnnounce port a => Sys2Proof.Machine.execPtpAnnounce port a s
  | .ptpAnnounceTimeout port => Sys2Proof.Machine.execPtpAnnounceTimeout port s
  | .ptpDelayResp port h seq t4 corr every => Sys2Proof.Machine.execPtpDelayResp port h seq t4 corr every s
  | .ptpDelayReqSend t3 => Sys2Proof.Machine.execPtpDelayReqSend t3 s
  | .pdelayReqSend port t1 => Sys2Proof.Machine.execPdelayReqSend port t1 s
  | .pdelayReq port h seq corr t2 t3 => Sys2Proof.Machine.execPdelayReq port h seq corr t2 t3 s
  | .pdelayResp port h seq corr t4 => Sys2Proof.Machine.execPdelayResp port h seq corr t4 s
  | .ptpManagement h gm tlv => Sys2Proof.Machine.execPtpManagement h gm tlv s
  | .tbSourceWrite acc v => Sys2Proof.Machine.execTbSourceWrite acc v s
  | .tbSet acc time => Sys2Proof.Machine.execTbSet acc time s
  | .tbAdj acc rate => Sys2Proof.Machine.execTbAdj acc rate s
  | .syncInEdge stamp => Sys2Proof.Machine.execSyncInEdge stamp s
  | .syncInHoldover => Sys2Proof.Machine.execSyncInHoldover s
  | .eyeCtrlArm acc e => Sys2Proof.Machine.execEyeCtrlArm acc e s
  | .eyeCtrlDisarm acc e => Sys2Proof.Machine.execEyeCtrlDisarm acc e s
  | .eyeParamWrite acc e p v => Sys2Proof.Machine.execEyeParamWrite acc e p v s
  | .eyeAssertEdge e => Sys2Proof.Machine.execEyeAssertEdge e s
  | .eyePulseEnd e => Sys2Proof.Machine.execEyePulseEnd e s
  | .captureEdge e fall held stamp => Sys2Proof.Machine.execCaptureEdge e fall held stamp s
  | .capRead acc e => Sys2Proof.Machine.execCapRead acc e s
  | .plovanOpen port sub mac src srcPort p => Sys2Proof.Machine.execPlovanOpen port sub mac src srcPort p s
  | .plovanClose port sub mac src srcPort p => Sys2Proof.Machine.execPlovanClose port sub mac src srcPort p s
  | .plovanKeepalive port sub mac src srcPort p => Sys2Proof.Machine.execPlovanKeepalive port sub mac src srcPort p s
  | .plovanRead port sub mac src srcPort p => Sys2Proof.Machine.execPlovanRead port sub mac src srcPort p s
  | .plovanWrite port sub mac src srcPort p => Sys2Proof.Machine.execPlovanWrite port sub mac src srcPort p s
  | .plovanDescribe port sub mac src srcPort p => Sys2Proof.Machine.execPlovanDescribe port sub mac src srcPort p s
  | .plovanSubscribe port sub mac src srcPort p => Sys2Proof.Machine.execPlovanSubscribe port sub mac src srcPort p s
  | .plovanUnsubscribe port sub mac src srcPort p => Sys2Proof.Machine.execPlovanUnsubscribe port sub mac src srcPort p s
  | .sessionTimeout n => Sys2Proof.Machine.execSessionTimeout n s
  | .ssClose acc n => Sys2Proof.Machine.execSsClose acc n s
  | .plvKeySet acc v => Sys2Proof.Machine.execPlvKeySet acc v s
  | .windowRead f3 region dword => Sys2Proof.Machine.execWindowRead f3 region dword s
  | .windowWrite f3 dword be v => Sys2Proof.Machine.execWindowWrite f3 dword be v s
  | .latchWrite f3 dword be v => Sys2Proof.Machine.execLatchWrite f3 dword be v s
  | .parameterWrite acc index sub data => Sys2Proof.Machine.execParameterWrite acc index sub data s
  | .keepWrite => Sys2Proof.Machine.execKeepWrite s
  | .keepRetry => Sys2Proof.Machine.execKeepRetry s
  | .nqSignal q => Sys2Proof.Machine.execNqSignal q s
  | .nqRead acc q => Sys2Proof.Machine.execNqRead acc q s
  | .nqModeWrite acc q v => Sys2Proof.Machine.execNqModeWrite acc q v s
  | .odFactory acc => Sys2Proof.Machine.execOdFactory acc s
  | .refclkLoss => Sys2Proof.Machine.execRefclkLoss s
  | .refclkReturn => Sys2Proof.Machine.execRefclkReturn s
  | .backupPeriodMeasure period => Sys2Proof.Machine.execBackupPeriodMeasure period s
  | .vcoSettled k => Sys2Proof.Machine.execVcoSettled k s
  | .bandSearchDone k counts => Sys2Proof.Machine.execBandSearchDone k counts s
  | .pllLocked k => Sys2Proof.Machine.execPllLocked k s
  | .acquireTimeout k => Sys2Proof.Machine.execAcquireTimeout k s
  | .pllRetry k => Sys2Proof.Machine.execPllRetry k s
  | .pllUnlock k => Sys2Proof.Machine.execPllUnlock k s
  | .ckMarginWrite acc k v => Sys2Proof.Machine.execCkMarginWrite acc k v s
  | .ckRelock acc k => Sys2Proof.Machine.execCkRelock acc k s
  | .sscRampEnd k => Sys2Proof.Machine.execSscRampEnd k s
  | .ckSyncArm acc => Sys2Proof.Machine.execCkSyncArm acc s
  | .thermalSample die diodes rails => Sys2Proof.Machine.execThermalSample die diodes rails s
  | .thermalGraceExpire => Sys2Proof.Machine.execThermalGraceExpire s
  | .thStageMaxWrite acc v => Sys2Proof.Machine.execThStageMaxWrite acc v s
  | .thShutWrite acc restart v => Sys2Proof.Machine.execThShutWrite acc restart v s
  | .hardwareShutdown => Sys2Proof.Machine.execHardwareShutdown s
  | .thermalRestart => Sys2Proof.Machine.execThermalRestart s
  | .keeperWriteStart bank => Sys2Proof.Machine.execKeeperWriteStart bank s
  | .keeperWriteDone bank => Sys2Proof.Machine.execKeeperWriteDone bank s
  | .triwordVote drift => Sys2Proof.Machine.execTriwordVote drift s
  | .keeperScrub found => Sys2Proof.Machine.execKeeperScrub found s
  | .kpProtectWrite acc v => Sys2Proof.Machine.execKpProtectWrite acc v s
  | .insoleUpdateStart => Sys2Proof.Machine.execInsoleUpdateStart s
  | .insoleFrame => Sys2Proof.Machine.execInsoleFrame s
  | .insoleUpdateEnd => Sys2Proof.Machine.execInsoleUpdateEnd s
  | .insoleImageWrite acc image => Sys2Proof.Machine.execInsoleImageWrite acc image s
  | .pwrFailLow => Sys2Proof.Machine.execPwrFailLow s
  | .insEnableDisable acc => Sys2Proof.Machine.execInsEnableDisable acc s
  | .insEnableResume acc => Sys2Proof.Machine.execInsEnableResume acc s
  | .seamLoopSample surf ohms => Sys2Proof.Machine.execSeamLoopSample surf ohms s
  | .smClear acc surf => Sys2Proof.Machine.execSmClear acc surf s
  | .smPolicyWrite acc surf v => Sys2Proof.Machine.execSmPolicyWrite acc surf v s
  | .smEnableWrite acc surf v => Sys2Proof.Machine.execSmEnableWrite acc surf v s
  | .powerReset boot defaultsN groups => Sys2Proof.Machine.execPowerReset boot defaultsN groups s
  | .deviceReset boot defaultsN => Sys2Proof.Machine.execDeviceReset boot defaultsN s
  | .svReset acc boot defaultsN => Sys2Proof.Machine.execSvReset acc boot defaultsN s
  | .warmRestart => Sys2Proof.Machine.execWarmRestart s
  | .pcieReset => Sys2Proof.Machine.execPcieReset s
  | .firmwareRunning version k failed => Sys2Proof.Machine.execFirmwareRunning version k failed s
  | .startupDarkLimit surf => Sys2Proof.Machine.execStartupDarkLimit surf s
  | .watchdogTimeout core => Sys2Proof.Machine.execWatchdogTimeout core s
  | .fwProgram acc => Sys2Proof.Machine.execFwProgram acc s
  | .fwProgramDone host readBack seen => Sys2Proof.Machine.execFwProgramDone host readBack seen s
  | .fwSwitchTrial acc => Sys2Proof.Machine.execFwSwitchTrial acc s
  | .fwSwitchCommit acc => Sys2Proof.Machine.execFwSwitchCommit acc s
  | .fwSwitchRestart acc => Sys2Proof.Machine.execFwSwitchRestart acc s
  | .trialTimeout => Sys2Proof.Machine.execTrialTimeout s
  | .lifetimeMinute => Sys2Proof.Machine.execLifetimeMinute s
  | .lifetimeHourWrite => Sys2Proof.Machine.execLifetimeHourWrite s
  | .smbReadJunction => Sys2Proof.Machine.execSmbReadJunction s
  | .smbReadPower => Sys2Proof.Machine.execSmbReadPower s
  | .smbReadStatus => Sys2Proof.Machine.execSmbReadStatus s
  | .smbReadPeak => Sys2Proof.Machine.execSmbReadPeak s
  | .smbReadSerial => Sys2Proof.Machine.execSmbReadSerial s
  | .smbAlertResponse => Sys2Proof.Machine.execSmbAlertResponse s
  | .pwrFailHigh => Sys2Proof.Machine.execPwrFailHigh s
  | .pcieLinkUp gen width f2 => Sys2Proof.Machine.execPcieLinkUp gen width f2 s
  | .egressFrameSent port tx => Sys2Proof.Machine.execEgressFrameSent port tx s
  | .msixEnable op => Sys2Proof.Machine.execMsixEnable op s
  | .sscRelockRamp k => Sys2Proof.Machine.execSscRelockRamp k s

end Sys2Proof.Machine
end

