-- ==== Sys2Proof/Machine/Tick.lean ====
section
/-! DEFINITION. One TB cycle (R354, R357, R412): what a step does when no command waits. DESIGN CHOICE: the
table has no row for a clock cycle, and the model lets time pass only here. -/
namespace Sys2Proof.Machine

/-- One TB cycle: network time and the local count advance, a Last generator that times no surface takes its
boundary (R210, R211, R214), and the Welt lanes send what falls due (R239, R244, R265). -/
def State.tick (s : State) : State :=
  let d := s.cycleStep
  let s1 := { s with tb := (s.tb + d) % 2 ^ 112, local_ := s.local_ + d }
  (forN 4 s1 (fun t g => if t.reg .LAST_USERS g = 0 ∧ t.genDue g = true then t.genAdvance g else t)).linksTick
    s.clock

end Sys2Proof.Machine
end

