-- ==== Sys2Proof/Machine/Step.lean ====
section
/-! DEFINITION. One step of the block: the command that waits longest is performed; with none waiting one TB
cycle passes. -/
namespace Sys2Proof.Machine

/-- One step. The front command is taken off the queue and performed; an empty queue lets a TB cycle pass. -/
def step (s : State) : Host.Outcome State Fault Refusal :=
  match s.pending with
  | [] => .next s.tick
  | c :: rest => exec c { s with pending := rest }

/-- The rows of the opcode table give no bits: no word spells a command, and the state stays as it is. -/
def State.withFetchWord (s : State) (nbits w : Nat) : State :=
  match decodeTableWord nbits w with
  | some c => { s with pending := c :: s.pending }
  | none => s

end Sys2Proof.Machine
end

