-- ==== Sys2Proof/Safety.lean ====
section
/-! DEFINITION. What a sound state of the block is, in the terms claims use: every sparse map stands in its
one canonical form, so that equal contents are equal data. -/
namespace Sys2Proof.Machine

/-- The central store's bytes: addresses strictly rising, and no byte listed that reads 0 anyway. -/
def Memory.wf (m : List Host.Cell) : Bool := Sparse.wf memDefault m

/-- The Keeper's bytes in the same form. -/
def Memory.keeperWf (m : List Host.Cell) : Bool := Sparse.wf keeperDefault m

/-- The registers: keys strictly rising, and no register listed that holds its reset value. -/
def State.regsWf (s : State) : Bool := Sparse.wf keyDefault s.regs

/-- Registers, central store and Keeper are in canonical form. -/
structure State.Canonical (s : State) : Prop where
  regs : s.regsWf = true
  mem : Memory.wf s.mem = true
  keeper : Memory.keeperWf s.keeper = true

/-! ## What frames are said with -/

/-- The fields of the state beside the registers, the two memories, the time, the key table and the queue. -/
inductive Fld where
  | status | value | sent | poison | rowsAhead | writeBacks | answer | waits | traffic | freezeLog | poisonLog
  | evLog | queues | highReqs | normalReqs | grants | requeued | tileQueue | held | ring | luts | lutShadow
  | staged | commits | accepted | ingest | ingestRefs | replay | frameA | frameB | awaiting | historyA
  | historyB | taps | rejected | deliveries | moves | fwd | msgBlocks | eqReqs | seqs | crcWindow | retrains
  | keepPending | keeperBad | keeperTorn | keeperQueue | keeperBusy | records | triPending | keepDeferred
  | badLog | egress | rxq | macs | laceBytes | foreign | rates | caps | eyeEdges | responses | heldRequests
  | disabledOwed | banks | seen | draws
  deriving DecidableEq, Repr

/-- A field is the same in both states. -/
@[reducible] def Fld.same (f : Fld) (s t : State) : Prop :=
  match f with
  | .status => t.status = s.status
  | .value => t.value = s.value
  | .sent => t.sent = s.sent
  | .poison => t.poison = s.poison
  | .rowsAhead => t.rowsAhead = s.rowsAhead
  | .writeBacks => t.writeBacks = s.writeBacks
  | .answer => t.answer = s.answer
  | .waits => t.waits = s.waits
  | .traffic => t.traffic = s.traffic
  | .freezeLog => t.freezeLog = s.freezeLog
  | .poisonLog => t.poisonLog = s.poisonLog
  | .evLog => t.evLog = s.evLog
  | .queues => t.queues = s.queues
  | .highReqs => t.highReqs = s.highReqs
  | .normalReqs => t.normalReqs = s.normalReqs
  | .grants => t.grants = s.grants
  | .requeued => t.requeued = s.requeued
  | .tileQueue => t.tileQueue = s.tileQueue
  | .held => t.held = s.held
  | .ring => t.ring = s.ring
  | .luts => t.luts = s.luts
  | .lutShadow => t.lutShadow = s.lutShadow
  | .staged => t.staged = s.staged
  | .commits => t.commits = s.commits
  | .accepted => t.accepted = s.accepted
  | .ingest => t.ingest = s.ingest
  | .ingestRefs => t.ingestRefs = s.ingestRefs
  | .replay => t.replay = s.replay
  | .frameA => t.frameA = s.frameA
  | .frameB => t.frameB = s.frameB
  | .awaiting => t.awaiting = s.awaiting
  | .historyA => t.historyA = s.historyA
  | .historyB => t.historyB = s.historyB
  | .taps => t.taps = s.taps
  | .rejected => t.rejected = s.rejected
  | .deliveries => t.deliveries = s.deliveries
  | .moves => t.moves = s.moves
  | .fwd => t.fwd = s.fwd
  | .msgBlocks => t.msgBlocks = s.msgBlocks
  | .eqReqs => t.eqReqs = s.eqReqs
  | .seqs => t.seqs = s.seqs
  | .crcWindow => t.crcWindow = s.crcWindow
  | .retrains => t.retrains = s.retrains
  | .keepPending => t.keepPending = s.keepPending
  | .keeperBad => t.keeperBad = s.keeperBad
  | .keeperTorn => t.keeperTorn = s.keeperTorn
  | .keeperQueue => t.keeperQueue = s.keeperQueue
  | .keeperBusy => t.keeperBusy = s.keeperBusy
  | .records => t.records = s.records
  | .triPending => t.triPending = s.triPending
  | .keepDeferred => t.keepDeferred = s.keepDeferred
  | .badLog => t.badLog = s.badLog
  | .egress => t.egress = s.egress
  | .rxq => t.rxq = s.rxq
  | .macs => t.macs = s.macs
  | .laceBytes => t.laceBytes = s.laceBytes
  | .foreign => t.foreign = s.foreign
  | .rates => t.rates = s.rates
  | .caps => t.caps = s.caps
  | .eyeEdges => t.eyeEdges = s.eyeEdges
  | .responses => t.responses = s.responses
  | .heldRequests => t.heldRequests = s.heldRequests
  | .disabledOwed => t.disabledOwed = s.disabledOwed
  | .banks => t.banks = s.banks
  | .seen => t.seen = s.seen
  | .draws => t.draws = s.draws

/-- A part of the state that frames speak of. -/
inductive Part where
  | reg (r : Reg)
  | anyReg
  | mem
  | keeper
  | time
  | keys
  | fld (f : Fld)
  | anyFld
  deriving DecidableEq, Repr

/-- The commands that wait are the same, and what was in canonical form is so still. -/
structure Keeps (s t : State) : Prop where
  pending : t.pending = s.pending
  canon : s.Canonical → t.Canonical

/-- t differs from s in the parts W at most. -/
structure Touches (W : List Part) (s t : State) : Prop where
  reg : ∀ r i, Part.reg r ∉ W → Part.anyReg ∉ W → t.reg r i = s.reg r i
  mem : Part.mem ∉ W → t.mem = s.mem
  keeper : Part.keeper ∉ W → t.keeper = s.keeper
  time : Part.time ∉ W → t.tb = s.tb ∧ t.local_ = s.local_
  keys : Part.keys ∉ W → t.keys = s.keys
  fld : ∀ f, Part.fld f ∉ W → Part.anyFld ∉ W → f.same s t
  keeps : Keeps s t

end Sys2Proof.Machine
end

