-- ==== Sys2Proof/Completion.lean ====
section
/-! DEFINITION. What the claims on single commands are said with: a command completes with a result and a frame; an
access passes the checks of R380, or is answered with a status. -/
namespace Sys2Proof.Machine

/-- The parts that are these registers. -/
def regs (l : List Reg) : List Part := l.map .reg

/-- The parts that are these fields. -/
def flds (l : List Fld) : List Part := l.map .fld

/-- The command completes: exec answers a next state in which P holds and which differs from s in the parts W
at most. -/
def Runs (c : Instr) (s : State) (W : List Part) (P : State → Prop) : Prop :=
  ∃ t, exec c s = .next t ∧ P t ∧ Touches W s t

/-- The accessor reaches the dictionary, and the checks of R380 let it write `v` to instance `i` of `r`. -/
def State.Passes (s : State) (acc : Accessor) (r : Reg) (i v : Nat) : Prop :=
  s.reachable acc = true ∧ writeFault s acc r i (r.width / 8) v false = none

/-- Instance `i` of `r` holds `v`, cut to its width. -/
def State.Holds (t : State) (r : Reg) (i v : Nat) : Prop := t.reg r i = v % 2 ^ r.width

/-- From `s` to `t`, instance `i` of `r` has counted `n` on, modulo its width. -/
def Counted (s t : State) (r : Reg) (i n : Nat) : Prop := t.reg r i = (s.reg r i + n) % 2 ^ r.width

/-- From `s` to `t`, of these registers only instance `k` may differ. -/
def OnlyAt (s t : State) (l : List Reg) (k : Nat) : Prop := ∀ r ∈ l, ∀ j, k ≠ j → t.reg r j = s.reg r j

/-- `s` after an access to instance `i` of `r` that ends with `code` and changes nothing else; a PCIe function
keeps the status and the parameter in ACC_STATUS and ACC_ID (R395, R396). -/
def State.answered (s : State) (acc : Accessor) (r : Reg) (i code : Nat) : State :=
  (s.setStatus code).noteAccess acc (r.id i)

/-- Code and arguments of the newest entry of the event log (R400, R404). -/
def State.lastEvent (s : State) : Option (Nat × Nat) := s.evLog.getLast?.map (fun e => (e.code, e.arg))

end Sys2Proof.Machine
end

