-- ==== Sys2Proof/Certificates/Slice0/Terms.lean ====
section
/-! DEFINITION. What the obligations about the commands are said with, subject by subject: conditions on the state
before a command, and what the state after it holds. -/
namespace Sys2Proof.Machine

/-! ## Buffers and ingest -/

/-- STR_DISCARDS of a slot for one cause (R185, R188): 0 FROZEN, 1 HEADER, 2 AUTH, 3 REPLAY, 4 BUFFER, 5 LATE, 6
    TILE,
7 DUPLICATE, 8 NO_BANK. -/
def State.discards (s : State) (slot cause : Nat) : Nat := blobGet (s.reg .STR_DISCARDS slot) (8 * cause) 8

/-- From `s` to `t` the slot counted one discard under `cause`, and none under another. -/
def DiscardedAs (s t : State) (slot cause : Nat) : Prop :=
  t.discards slot cause = (s.discards slot cause + 1) % 2 ^ 64 ∧
  (∀ c, c ≠ cause → t.discards slot c = s.discards slot c) ∧ OnlyAt s t [.STR_DISCARDS] slot

/-- R186, R196. A GO that an END packet names is given: where the session owns the group and it is in STAGING or
REFUSED, it is PENDING, unless another PENDING group lists one of its buffers. -/
def EndGoes (s t : State) (slot g : Nat) : Prop :=
  g < 16 → s.reg .CG_OWNER g = s.reg .STR_SESSION slot → (s.reg .CG_STATE g = 1 ∨ s.reg .CG_STATE g = 3) →
    t.reg .CG_STATE g = 2 ∨ ∃ h, h < 16 ∧ h ≠ g ∧ t.reg .CG_STATE h = 2 ∧
      (s.groupBuffers h).any (s.groupBuffers g).contains = true

/-- R186. What an accepted TILES packet of the slot leaves: it is counted, its SEQ can not be accepted again, and
    the
FILL bank of the buffer is that of its frame, unless no bank was free or an older FILL waits for the seal under
    way. -/
def TilesAccepted (s t : State) (slot : Nat) (h : PacketHead) : Prop :=
  Counted s t .STR_PACKETS slot 1 ∧ t.replayed slot h.seq = true ∧ OnlyAt s t [.STR_PACKETS, .iSEQ_HIGH] slot ∧
  (t.roleFrame h.buffer 2 = some h.frame ∨ t.freeBank h.buffer = none ∨
    (t.bankOf h.buffer 3 ≠ none ∧ t.reg .iBUF_SEAL h.buffer = 1))

/-- R186. What an accepted END packet of the slot leaves: it is counted, its SEQ can not be accepted again, a FILL
    of
its frame or an older one is sealed, and the group it names has its GO. An END of any other frame seals no bank.
    While
another bank is SEALING a FILL waits for it, the model's choice (log entry 88). -/
def EndAccepted (s t : State) (slot : Nat) (h : PacketHead) : Prop :=
  Counted s t .STR_PACKETS slot 1 ∧ t.replayed slot h.seq = true ∧ OnlyAt s t [.STR_PACKETS, .iSEQ_HIGH] slot ∧
  EndGoes s t slot h.group ∧
  if s.roleFrame h.buffer 2 = some h.frame then
    if s.bankOf h.buffer 3 = none then t.bankOf h.buffer 3 = s.bankOf h.buffer 2 ∧ t.bankOf h.buffer 2 = none
    else t.reg .BUF_BANKS h.buffer = s.reg .BUF_BANKS h.buffer ∧ t.reg .iBUF_SEAL h.buffer = 1
  else if s.newerThan h.buffer h.frame [3, 2, 1, 0] = true then
    if s.bankOf h.buffer 2 ≠ none ∧ s.bankOf h.buffer 3 ≠ none then
      t.reg .BUF_BANKS h.buffer = s.reg .BUF_BANKS h.buffer ∧ t.reg .iBUF_SEAL h.buffer = 1
    else
      (s.bankOf h.buffer 2 ≠ none → t.bankOf h.buffer 3 = s.bankOf h.buffer 2) ∧
      (t.roleFrame h.buffer (if s.bankOf h.buffer 2 = none ∧ s.bankOf h.buffer 3 = none then 3 else 2) = some
          h.frame ∨
        t.freeBank h.buffer = none)
  else t.reg .BUF_BANKS h.buffer = s.reg .BUF_BANKS h.buffer

/-- R185, R186. What a packet that reached a slot leaves: a discarded one is counted under the first cause that
    applies
and touches no buffer. -/
def PacketTaken (s t : State) (slot : Nat) (eth : Bool) (p : List Byte) : Prop :=
  let h := PacketHead.ofBytes p
  match s.packetFault slot eth p with
  | some c => DiscardedAs s t slot c ∧ t.mem = s.mem ∧ (∀ r, r ≠ .STR_DISCARDS → r ≠ .STR_RING_HEAD →
      ∀ j, t.reg r j = s.reg r j)
  | none => if h.type = 2 then EndAccepted s t slot h else TilesAccepted s t slot h

/-- The read with which decoder `d` fetches the reference of an ingest tile, where it has one (R155, R162). -/
def State.ingestRefRead (s : State) (x : IngestTile) (d : Nat) : ReadAnswer :=
  match s.ingestRefAddr x with
  | some a => (s.fetch (codecMaster d) .ingest a 5120).1
  | none => ⟨false, [], []⟩

/-! ## Commits -/

/-- Whether another PENDING group lists a buffer of group `g` (R195). -/
def State.groupClash (s : State) (g : Nat) : Bool :=
  (List.range 16).any (fun h => h != g && s.reg .CG_STATE h == 2 && (s.groupBuffers h).any (s.groupBuffers
      g).contains)

/-! ## The dictionary -/

/-- A write whose effect no unit has of its own: the commit class alone says what it does (R382). -/
def NoOwnEffect (s : State) (acc : Accessor) (r : Reg) (i v : Nat) : Prop :=
  sceneWrite acc r i v s = none ∧ scanWrite acc r i v s = none ∧ storeWrite acc r i v s = none ∧
  networkWrite acc r i v s = none ∧ serviceWrite acc r i v s = none

/-- R378, R380, R382. A write of `data` by ID: without a way to the dictionary nothing happens; an ID that names no
parameter, subindex 0, and a write that fails a check of R380 are refused with their status and change nothing else.
A write that passes, of a parameter that no unit acts on, is accepted: of class IMMEDIATE the value is in force, and
any other parameter keeps its own; of another class the value in force stays, and the write is staged or refused. -/
def IdWritten (s t : State) (acc : Accessor) (index sub : Nat) (data : List Byte) : Prop :=
  let id := 256 * index + sub
  let v := leNat data
  if s.reachable acc = false then t = s
  else if s.servedId index sub = false then t = (s.setStatus Code.odNoObject).noteAccess acc id
  else match lookupReg index sub with
    | none => t = (s.setStatus Code.odReadOnly).noteAccess acc id
    | some (r, i) =>
      match writeFault s acc r i data.length v (s.inGroup acc) with
      | some code => t = s.answered acc r i code
      | none => NoOwnEffect (s.setStatus 0) acc r i v →
        (regRow r).commit = .immediate ∧ t.status = 0 ∧ t.Holds r i v ∧
            Touches ([.reg r] ++ regs [.iACC_STATUS, .iACC_ID] ++ flds [.status, .keepPending]) s t ∧ OnlyAt s t
                [r] i ∨
          (regRow r).commit ≠ .immediate ∧
            Touches (regs [.iG_PENDRATE, .iACC_STATUS, .iACC_ID] ++ flds [.status, .staged]) s t ∧
            (t.status ≠ 0 → t.staged = s.staged ∧ ∀ j, t.reg .iG_PENDRATE j = s.reg .iG_PENDRATE j)

/-- No Plovan message is being performed: none has left a session to close or Flaed to restart. -/
def State.NoMessage (s : State) : Prop :=
  s.reg .iPLV_CUR 0 = 0 ∧ s.reg .iPLV_CLOSE 0 = 0xFF ∧ s.reg .iPLV_RESET 0 = 0

/-- R392. Session `n` has closed for `cause`: its groups in STAGING and REFUSED are IDLE and its others without
    owner,
its stream slot is free, its subscriptions have ended, and SESSION_CLOSED is raised. Other sessions stay. -/
def SessionClosed (s t : State) (n cause : Nat) : Prop :=
  t.reg .SS_STATE n = 0 ∧ t.lastEvent = some (Code.sessionClosed, packBits [(16, n), (8, cause)]) ∧
  (∀ g, g < 16 → s.reg .CG_OWNER g = n → t.reg .CG_OWNER g = 0xFFFF ∧
    t.reg .CG_STATE g = if s.reg .CG_STATE g = 1 ∨ s.reg .CG_STATE g = 3 then 0 else s.reg .CG_STATE g) ∧
  (∀ g, s.reg .CG_OWNER g ≠ n → t.reg .CG_OWNER g = s.reg .CG_OWNER g ∧ t.reg .CG_STATE g = s.reg .CG_STATE g) ∧
  (s.reg .SS_SLOT n < 256 → t.reg .STR_STATE (s.reg .SS_SLOT n) = 0 ∧
    t.reg .STR_SESSION (s.reg .SS_SLOT n) = 0xFFFF) ∧
  (∀ k, n ∉ (t.queue k).subscribers) ∧ OnlyAt s t sessionRegs n

/-! ## Hazel -/

/-- R132. Cluster `n` is fenced as a whole: every engine is, it takes no tile, and the tiles it held are queued
    again
ahead of all others. -/
def ClusterFenced (s t : State) (n : Nat) : Prop :=
  t.reg .CL_FAULT_MASK n = 0xFFFF ∧ t.reg .CL_FENCED n = 0xFFFF ∧ t.reg .CL_STATE n = 4 ∧
  bit (t.reg .HZ_ACTIVE 0) n = false ∧ t.held = s.held.filter (fun e => !(e.1 == n)) ∧
  t.requeued = s.requeued ++ (s.held.filter (fun e => e.1 == n)).map Prod.snd

/-- R132. The engines `mask` of cluster `n` are fault-fenced too; with fewer than 8 engines left the whole cluster
is. -/
def EnginesFenced (s t : State) (n mask : Nat) : Prop :=
  let f := s.reg .CL_FAULT_MASK n ||| mask
  if 16 - popCount 16 (f ||| s.reg .iFENCE_HOST n) < 8 then ClusterFenced s t n
  else t.reg .CL_FAULT_MASK n = f ∧ t.reg .CL_FENCED n = f ||| s.reg .iFENCE_HOST n ∧
    t.reg .CL_STATE n = s.reg .CL_STATE n ∧ t.held = s.held ∧ t.requeued = s.requeued

/-! ## Jobs of codecs and Skivers -/

/-- R163, R170, R172. Codec `n` has ended the job at GC_HEAD with `result`: GC_HEAD goes on to the next job, the
result is shown, one of the three counts counts it, and the grant is returned. -/
def JobEnded (s t : State) (n result : Nat) : Prop :=
  t.Holds .GC_HEAD n ((s.reg .GC_HEAD n + 1) % s.reg .GC_RING_SIZE n) ∧ t.Holds .GC_LAST_STATUS n result ∧
  Counted s t .GC_JOBS_OK n (b2n (result == 0)) ∧
  Counted s t .GC_ABANDONED n (b2n (result == Code.jobAbandoned)) ∧
  Counted s t .GC_JOBS_FAILED n (b2n (result != 0 && result != Code.jobAbandoned)) ∧
  t.grants = s.grants.erase (.huskJob n) ∧
  OnlyAt s t [.GC_HEAD, .GC_LAST_STATUS, .GC_JOBS_OK, .GC_ABANDONED, .GC_JOBS_FAILED] n

/-- R30, R163, R170, R173. The job that codec `n` has come to the end of is ended with `result`, or, where a
    protection
window froze the codec, kept for its record. -/
def JobOver (s t : State) (n result : Nat) : Prop :=
  if t.isFrozen (codecMaster n) = true then t.reg .iGC_FROZEN_JOB n = 1 ∧ t.reg .GC_HEAD n = s.reg .GC_HEAD n
  else JobEnded s t n result

/-- The register a ring parameter of a codec is. -/
def gcRing : RingParam → Reg
  | .base => .GC_RING_BASE
  | .size => .GC_RING_SIZE

/-- R329, R339. Skiver `k` has ended the job at SK_HEAD with `result`: SK_HEAD goes on to the next job, the result
    is
shown, one of the three counts counts it, and the grant is returned. -/
def SkEnded (s t : State) (k result : Nat) : Prop :=
  t.Holds .SK_HEAD k ((s.reg .SK_HEAD k + 1) % s.reg .SK_RING_SIZE k) ∧ t.Holds .SK_LAST_STATUS k result ∧
  Counted s t .SK_JOBS_OK k (b2n (result == 0)) ∧
  Counted s t .SK_ABANDONED k (b2n (result == Code.jobAbandoned)) ∧
  Counted s t .SK_JOBS_FAILED k (b2n (result != 0 && result != Code.jobAbandoned)) ∧
  t.grants = s.grants.erase (.skiver k) ∧
  OnlyAt s t [.SK_HEAD, .SK_LAST_STATUS, .SK_JOBS_OK, .SK_ABANDONED, .SK_JOBS_FAILED] k

/-- R30, R329, R339. The job that Skiver `k` has come to the end of is ended with `result`, or, where a protection
window froze the Skiver, kept for its record. -/
def SkOver (s t : State) (k result : Nat) : Prop :=
  if t.isFrozen (skiverMaster k) = true then t.reg .iSK_FROZEN_JOB k = 1 ∧ t.reg .SK_HEAD k = s.reg .SK_HEAD k
  else SkEnded s t k result

/-- The register a ring parameter of a Skiver is. -/
def skRing : RingParam → Reg
  | .base => .SK_RING_BASE
  | .size => .SK_RING_SIZE

/-! ## The Keeper -/

/-- From `s` to `t` the `data` have been stored from Keeper address `a` on, and no other byte of the Keeper
    changed. -/
def KeeperStored (s t : State) (a : Nat) (data : List Byte) : Prop := ∀ b,
  t.keeperByte b = if a ≤ b ∧ b < a + data.length then data.getD (b - a) 0 else s.keeperByte b

/-- R383, R454 to R456. The record of an index begins: with SEQ one above the highest resolved, its first page goes
    to the
free page of the pool with the lowest WEAR. Without free pages for a whole copy the write is refused, and the index
waits. -/
def RecordBegun (s t : State) (ix : Nat) : Prop :=
  let payload := s.recordPayload ix
  let seq := match recordSeq s.poolHeads ix with
    | some q => (q + 1) % 2 ^ 32
    | none => 1
  let u : State := { s with records := s.records ++ [⟨ix, seq, payload, recordOrder payload [0, 1], false⟩] }
  match u.placePage with
  | none => Counted s t .KP_REFUSED 0 1 ∧ ix ∈ t.keepDeferred ∧ t.keeperQueue = s.keeperQueue
  | some p =>
    if u.openPages.length < recordParts payload then
      Counted s t .KP_REFUSED 0 1 ∧ ix ∈ t.keepDeferred ∧ t.keeperQueue = s.keeperQueue
    else t.keeperQueue = s.keeperQueue ++ [⟨p, recordPage (s.wearOf s.wearMax p + 1) seq (recordParts payload) 0 0
      ix payload, .record ix⟩] ∧
    (∃ r ∈ t.records, r.id = ix ∧ r.seq = seq ∧ r.payload = payload) ∧ t.keepDeferred = s.keepDeferred

/-! ## Firmware and service -/

/-- R489. What comes of trying image `i`: it, else the other one, else none. -/
def State.picked (s : State) (i : Nat) : Nat :=
  if s.imageValid i then i else if s.imageValid (1 - i) then 1 - i else 0xFF

/-- R489. An image tried and found invalid has been reported, and the other one too where it is invalid. -/
def BadReported (s t : State) (i : Nat) : Prop := s.imageValid i = false →
  t.lastEvent = some (Code.fwImageBad, packBits [(8, if s.imageValid (1 - i) then i else 1 - i)])

/-- R484, R488, R489. From `s` to `t` the image has been chosen. A selector on trial with an attempt left runs the
trial image, and is written with none left; one without an attempt left is written without a trial, and ACTIVE runs,
as it does without a trial. A forced image that is invalid, and no image asked for, leave none. -/
def ImageChosen (s t : State) : Prop :=
  let a := s.selActive % 2
  let x := s.selTrial
  let opens := t.keeperOpen && !t.pageProtected 0
  match s.bootMode with
  | 0 =>
    if x = 0xFF then t.reg .iBOOT_IMAGE 0 = s.picked a ∧ t.reg .iBOOT_TRIAL 0 = 0 ∧ BadReported s t a ∧
      ∀ i, t.reg .iTRI i = s.reg .iTRI i
    else if s.selAttempts = 0 then
      t.reg .iBOOT_IMAGE 0 = s.picked a ∧ t.reg .iBOOT_TRIAL 0 = 0 ∧ BadReported s t a ∧
      (opens = true → t.triword 6 = selector a 0xFF 0)
    else
      t.reg .iBOOT_IMAGE 0 = s.picked (x % 2) ∧ t.reg .iBOOT_TRIAL 0 = b2n (s.imageValid (x % 2)) ∧
      BadReported s t (x % 2) ∧ (opens = true → t.triword 6 = selector a x 0)
  | 3 => t.reg .iBOOT_IMAGE 0 = 0xFF ∧ t.reg .iBOOT_TRIAL 0 = 0
  | m => t.reg .iBOOT_TRIAL 0 = 0 ∧
      if s.imageValid (m - 1) = true then t.reg .iBOOT_IMAGE 0 = m - 1
      else t.reg .iBOOT_IMAGE 0 = 0xFF ∧ t.lastEvent = some (Code.fwImageBad, packBits [(8, m - 1)])

/-- R495, R496. A warm restart has begun, with the cause its report will have (0xFF: none): the Pip cores are
    released,
validations under way end INVALID, an update under way FAILED, and the image is chosen. -/
def RestartBegun (s t : State) (cause : Nat) : Prop :=
  t.reg .iPHASE 0 = 3 ∧ t.reg .iWARM_CAUSE 0 = cause ∧ t.reg .SU_LAST_RESET 0 = 3 ∧
  Counted s t .FW_RESTARTS 0 1 ∧ Counted s t .LF_WARM 0 1 ∧
  bits (t.reg .MS_FROZEN_CORE 0) 0x63 0x60 = 0 ∧
  (∀ k, k < 0x60 → bit (t.reg .MS_FROZEN_CORE 0) k = bit (s.reg .MS_FROZEN_CORE 0) k) ∧
  (∀ n, n < 64 → t.reg .CAL_STATE n ≠ 1) ∧
  (∀ n, n < 1024 → t.reg .CUE_STATE n = if s.reg .CUE_STATE n = 1 then 3 else s.reg .CUE_STATE n) ∧
  (∀ p, p < 2 → t.reg .PG_STATE p = if s.reg .PG_STATE p = 1 then 3 else s.reg .PG_STATE p) ∧
  t.reg .FW_PROG_STATE 0 = (if 1 ≤ s.reg .FW_PROG_STATE 0 ∧ s.reg .FW_PROG_STATE 0 ≤ 4 then 6 else s.reg
      .FW_PROG_STATE 0) ∧
  ImageChosen s t

/-! ## Resets and start-up -/

/-- The registers that start-up writes after a reset, beside the KEEP values that it restores: what it counts and
reports, the choice of the image, the parameters that tri-words hold, and the protection windows in force. -/
def startRegs : List Reg :=
  [.SV_STRAPS, .SU_LAST_RESET, .LF_CYCLES, .LF_LIFE_USED, .iTJ_SUM, .iCMP_SHUT, .iCMP_RESTART, .KP_TRI_REPAIRS,
    .KP_TRI_NOVOTE, .KP_TWINS, .KP_REPAIRS, .KP_REFUSED, .KP_REC_LOST, .KP_WRITES, .EV_COUNT, .NQ_SEQ, .NQ_LOST,
    .iBOOT_IMAGE, .iBOOT_TRIAL, .iTRI, .iKEEP_TRY] ++ triParams.map Prod.fst ++ windowFields.map Prod.snd

/-- The fields that start-up writes after a reset. -/
def startFlds : List Fld := [.triPending, .keeperQueue, .records, .keepDeferred, .evLog, .queues, .luts, .draws,
  .badLog]

/-- R459, R460, R484. After a reset every parameter that is a tri-word holds the voted word, and the comparators
    have
the voted limits, unless the copies are being rewritten. -/
def TriwordsUsed (t : State) : Prop :=
  (∀ e ∈ triParams, t.Holds e.1 0 (t.triword e.2)) ∧
  (t.triBusy 8 = false → t.Holds .iCMP_SHUT 0 (t.triword 8)) ∧
  (t.triBusy 9 = false → t.Holds .iCMP_RESTART 0 (t.triword 9))

/-- R302. Every protection window in force is as the Keeper or the defaults give it. -/
def WindowsTaken (t : State) : Prop := ∀ e ∈ windowFields, ∀ w, w < 64 → t.reg e.2 w = t.reg e.1 w

/-- R455, R457, R491. The value that a record holds of a KEEP parameter has been restored, for every parameter that
    is
held as it stands and that no tri-word and no count of the reset prevails over. -/
def RecordsApplied (s t : State) : Prop := ∀ id content r i data,
  id ∈ recordIds s.poolHeads → (s.resolveRecord id).1 = some content →
  (keepRegsAt id).find? (fun x => (regRow x.1).sub == (regRow r).sub) = some (r, i) →
  r ∉ startRegs → r ∉ [.PLV_KEY_SET, .IN_LUT_DATA, .OUT_LUT_DATA] →
  (payloadEntries 256 content).filter (fun e => e.1 == (regRow r).sub) = [((regRow r).sub, data)] →
  t.Holds r i (leNat data)

/-- R480. From `s` to `t` a reset has happened that keeps these registers and fields: every other register outside
start-up is at its reset value, but for the KEEP values restored with `apply`, and every other field is as at
    reset. -/
def ResetTo (s t : State) (keeps : Reg → Bool) (kept : List Fld) (apply : Bool) : Prop :=
  (∀ r i, r ∉ startRegs → (apply = false ∨ (regRow r).keep = false) →
    t.reg r i = if keeps r then s.reg r i else regDefault r i % 2 ^ r.width) ∧
  (∀ f, f ∉ startFlds → f ∉ kept → f.same State.reset t) ∧ (apply = false → t.keys = [] ∧ t.luts = [])

/-- R480, R484. What POWER and DEVICE resets share: every part is reset, the store included; the straps are sampled,
and the image is chosen by them. With DEFAULTS_N 1 the records are applied. -/
def FullReset (s t : State) (straps why : Nat) : Prop :=
  ResetTo s t resetKeeps [.keeperBad, .keeperTorn, .draws] (bit straps 2) ∧ t.mem = [] ∧ t.tb = 0 ∧ t.local_ = 0 ∧
  t.reg .SV_STRAPS 0 = straps ∧ t.reg .SU_LAST_RESET 0 = why ∧ TriwordsUsed t ∧
  WindowsTaken t ∧
  (∀ a, (∀ w ∈ s.keeperBusy, a < 256 * w.page ∨ 256 * w.page + w.data.length ≤ a) →
    t.keeperByte a = s.keeperByte a) ∧
  (bit straps 2 = false → t.reg .LF_CYCLES 0 = if why = 0 then 1 else 0) ∧
  (s.keeperBusy = [] → (bit straps 2 = true → RecordsApplied s t) ∧ ImageChosen (s.setReg .SV_STRAPS 0 straps) t)

/-- What a DEVICE reset does (R480): page writes under way run to their end. -/
def DeviceReset (s t : State) (straps : Nat) : Prop :=
  FullReset s t straps 1 ∧ (s.keeperBusy = [] → t.keeper = s.keeper) ∧
  ∀ w, s.keeperBusy = [w] → match w.by_.triCopy with
    | some (word, value, copy) => triIx copy word % 16 ≠ 6 → t.Holds .iTRI (triIx copy word) value
    | none => KeeperStored s t (256 * w.page) w.data

/-- The fields that a thermal restart keeps. -/
def thermalFlds : List Fld :=
  [.keeperBad, .keeperTorn, .draws, .poison, .rowsAhead, .macs, .egress, .caps, .eyeEdges, .badLog, .keeperBusy,
      .grants]

/-- The registers that a thermal restart sets besides: every PLL but PLL-NT leaves lock, and every channel is to
retrain. -/
def thermalRegs : List Reg :=
  [.CK_STATE, .CK_FREQ, .iCK_WHY, .iCK_OUT, .iCK_START, .iCK_SINCE, .iSSC_WAIT, .iSSC_RAMP, .iHB_HELD, .iRT_LEFT,
    .iRT_SET0, .iRT_SINCE, .iRT_RW, .iRT_RH, .iRT_WW, .iRT_WH]

/-- R489, R490. Flaed is in RECOVERY: no image runs, both surfaces are OFF and their lanes idle. -/
def InRecovery (t : State) : Prop :=
  t.reg .iPHASE 0 = 2 ∧ t.reg .FW_STATE 0 = 2 ∧ t.reg .FW_RUNNING 0 = 0xFF ∧ t.reg .iG_RUN 0 = 0 ∧
  ∀ surf, surf < 2 → t.reg .SO_OUT_STATE surf = 0 ∧ ∀ p, p < 84 → t.lane surf p = laneIdle

/-- R505. The image chosen runs, and FW_* show it. -/
def ImageRuns (s t : State) : Prop :=
  let k := s.reg .iBOOT_IMAGE 0
  t.reg .iPHASE 0 = 1 ∧ t.reg .FW_RUNNING 0 = k ∧ t.Holds .FW_STATE 0 (s.reg .iBOOT_TRIAL 0) ∧
  t.reg .FW_VERSION 0 = s.reg .iNOR_VERSION k ∧ t.reg .FW_PROG_LEN 0 = s.reg .iNOR_PLEN k ∧
  t.Holds .iTRIAL_NS 0 s.clock

/-- R128, R134, R491 to R493, R440. The firmware runs after a reset: slot 0 holds its Hazel program; every cluster
    runs
it that is enabled, not fenced whole, and passes its self-test; each surface with SO_ENABLE 1 begins its start-up,
    and
any other is OFF; a shutdown that came before is counted. -/
def FirstRunning (s t : State) (version : BitVec 32) (k : BitVec 80) (failed : BitVec 16) : Prop :=
  ImageRuns s t ∧ t.Holds .iRUN_AT 0 s.clock ∧ t.reg .iG_RUN 0 = 1 ∧
  t.reg .PG_STATE 0 = 2 ∧ t.reg .PG_VERSION 0 = version.toNat ∧ t.Holds .PG_K 0 k.toNat ∧
  (∀ n, n < 16 → t.reg .CL_PROG_SLOT n = 0 ∧
    (bit (s.reg .HZ_CLUSTER_EN 0) n = false → t.reg .CL_STATE n = 1) ∧
    (bit (s.reg .HZ_CLUSTER_EN 0) n = true → bit failed.toNat n = true → t.reg .CL_STATE n = 4) ∧
    (bit (s.reg .HZ_CLUSTER_EN 0) n = true → bit failed.toNat n = false →
      t.reg .CL_STATE n = if t.reg .CL_FENCED n = 0xFFFF then 4 else 0)) ∧
  (∀ surf, surf < 2 → if s.reg .SO_ENABLE surf = 1 then
      t.reg .iSTARTUP surf = 1 ∧ t.reg .CMT_DARK_LEFT surf = 0xFF
    else t.reg .SO_OUT_STATE surf = 0) ∧
  (if s.reg .iSHUT_OWED 0 = 0 then t.reg .TH_SHUTDOWNS 0 = s.reg .TH_SHUTDOWNS 0
    else t.reg .iSHUT_OWED 0 = 0 ∧ Counted s t .TH_SHUTDOWNS 0 1 ∧ t.reg .TH_LAST_PEAK 0 = s.reg .iCMP_PEAK 0) ∧
  Touches (regs [.iG_RUN, .iRUN_AT, .iRUN_NS, .iPHASE, .iTRIAL_NS, .FW_PROG_ADDR, .FW_PROG_LEN, .FW_VERSION,
      .FW_RUNNING, .FW_STATE, .SO_LINE_PS, .SO_BAND_NS, .V_COUNT, .LAST_NEXT, .iEYE_FRAME, .LAST_USERS, .TAP_STATE,
      .TAP_ENABLE, .TAP_DROPS, .PTP_UTC_OFFSET, .PTP_GM_ID, .iPTP_SOURCE, .PTP_SLAVE_PORT, .iPTP_RUN, .iPTP_FIRST,
      .PP_STATE, .iSYNC_STATE, .iSYNC_RUN, .iSERVO, .PTP_STATE, .TB_SOURCE, .iCMP_SHUT, .iCMP_RESTART, .SO_FORCED,
      .iS_SEEN, .SO_OUT_STATE, .GC_ENABLE, .GC_STATE, .LC_ENABLE, .LC_STATE, .SK_ENABLE, .SK_STATE, .SC_STATE,
      .MS_INIT_STATE, .INS_ENABLE, .INS_STATE, .PG_K, .PG_VERSION, .PG_STATE, .iFENCE_HOST, .CL_PROG_SLOT,
      .CL_FENCED, .HZ_ENGINES_FENCED, .HZ_ACTIVE, .CL_STATE, .iCL_PASSED, .iCL_SELFTEST, .CL_FAULT_MASK, .HZ_SHORT,
      .EV_COUNT, .NQ_SEQ, .NQ_LOST, .CL_LAST_FAULT, .ADM_BUDGET_BYTES, .ADM_BUDGET_DEC, .ADM_BUDGET_SAMP,
      .ADM_BUDGET_OPS, .ADM_RESERVATION, .iS_RESV, .iS_COST, .CMT_DARK_LEFT, .iSTARTUP_OVER, .iSTARTUP,
      .iWL_IDLEORD, .iWL_COVER, .iWL_MAPRESET, .WL_SPARE_MAP, .iWL_PULSE, .iWL_FAILS, .iWL_ABS, .iWL_PRES,
      .iWL_CTX, .iWL_SINCE, .WL_LANE_STATE, .iWL_PH, .iWL_BUSY, .WL_CAUSE, .iWL_TSAT, .iWL_EQREJ, .iWL_BLK,
      .iWL_BIT, .WL_COEFF, .TH_SHUTDOWNS, .iSHUT_OWED, .TH_LAST_PEAK, .iKEEP_TRY, .KP_REFUSED] ++ flds [.draws,
      .taps, .frameA, .frameB, .keepPending, .evLog, .queues, .requeued, .held, .sent, .egress, .waits, .moves,
      .retrains, .msgBlocks, .grants, .highReqs, .normalReqs, .records, .keeperQueue, .keepDeferred]) s t

/-- R382, R404, R495, R496, R501. The firmware runs again after a warm restart: pending RESTART-class values are in
force, a factory reset owed has put every KEEP parameter held as it stands to its default, the reports owed are
    made,
and the restart's own where it has a cause. -/
def RunningAgain (s t : State) : Prop :=
  ImageRuns s t ∧ t.disabledOwed = [] ∧ t.reg .iFACTORY 0 = 0 ∧ t.reg .iWARM_CAUSE 0 = 0xFF ∧
  t.reg .iPEND_PLV_PORT 0 = (if s.reg .iPEND_PLV_PORT 0 < 65536 then 0x10000 else s.reg .iPEND_PLV_PORT 0) ∧
  (s.reg .iFACTORY 0 = 0 → t.keys = s.keys ∧ t.luts = s.luts ∧
    t.reg .PLV_PORT 0 = (if s.reg .iPEND_PLV_PORT 0 < 65536 then s.reg .iPEND_PLV_PORT 0 else s.reg .PLV_PORT 0) ∧
    t.reg .ING_PORT 0 = (if s.reg .iPEND_ING_PORT 0 < 65536 then s.reg .iPEND_ING_PORT 0 else s.reg .ING_PORT 0)) ∧
  (s.reg .iFACTORY 0 ≠ 0 → t.keys = [] ∧ t.luts = [] ∧ t.reg .PLV_PORT 0 = regDefault .PLV_PORT 0 ∧
    t.reg .ING_PORT 0 = regDefault .ING_PORT 0 ∧ t.reg .PW_CEILING 0 = regDefault .PW_CEILING 0 ∧
    t.reg .TH_SHUT 0 = regDefault .TH_SHUT 0 ∧ t.reg .KP_PROTECT 0 = regDefault .KP_PROTECT 0 ∧
    ∀ q, q < 2048 → t.reg .NQ_MODE q = regDefault .NQ_MODE q) ∧
  (s.reg .iWARM_CAUSE 0 ≠ 0xFF → t.lastEvent = some (Code.watchdogRestart, packBits [(8, s.reg .iWARM_CAUSE 0)]))

/-! ## Laces -/

/-- R314, R316. Lace `k` has taken the descriptor `word`, which stands at `addr` (0 for the shadow): it runs from
    byte
0, or, where the descriptor breaks R314, ends with LACE_BAD_DESC before any byte moves and is in ERROR (unless the
write of its record froze it). -/
def DescTaken (s t : State) (k word addr : Nat) : Prop :=
  t.Holds .LC_CUR_DESC k word ∧ t.Holds .LC_CUR_ADDR k addr ∧ t.reg .LC_DONE k = 0 ∧ t.reg .iLC_NEXT k = 0 ∧
  if (LaceDesc.ofWord word).bad (s.reg .iF2_BM 0 == 1) = true then
    (t.Holds .LC_RESULT k Code.laceBadDesc ∧ t.reg .LC_STATE k = 5) ∨
      (addr ≠ 0 ∧ t.isFrozen (laceMaster k) = true)
  else t.reg .LC_STATE k = 3 ∧ t.reg .LC_RESULT k = s.reg .LC_RESULT k

/-! ## The network -/

/-- Whether the switch would send a frame to the other port: its address, its sub-port, the other link and the
transparent clock let it (R342, R343, R348, R363). -/
def State.goesAcross (s : State) (p sub : Nat) (f : List Byte) : Bool :=
  (s.switchTo (Ether.ofBytes f).dst).1 && sub == 0 && s.linkUp (1 - p) 0 && s.ptpForwarded f

/-- R353. What the receive queue a frame goes to leaves: a frame no filter matches is counted in NET_UNCLAIMED; one
that finds no room is counted in RQ_DROPS; any other is appended as its record and counted. -/
def Queued (s t : State) (port sub time : Nat) (f : List Byte) : Prop :=
  match (List.range 64).find? (fun q => s.rxMatches q port (Ether.ofBytes f)) with
  | none => Counted s t .NET_UNCLAIMED 0 1 ∧ t.rxq = s.rxq
  | some q =>
    let r := rxRecord port sub time (!s.timeLocked) f
    if rxSize < (s.rxBytes q).length + r.length then Counted s t .RQ_DROPS q 1 ∧ t.rxq = s.rxq
    else t.rxBytes q = s.rxBytes q ++ r ∧ Counted s t .RQ_FRAMES q 1 ∧
      t.Holds .RQ_LEVEL q ((s.rxBytes q).length + r.length) ∧ ∀ j, j ≠ q → t.rxBytes j = s.rxBytes j

/-- The register a parameter of a receive queue is. -/
def rqReg : RqParam → Reg
  | .kind => .RQ_KIND
  | .value => .RQ_VALUE
  | .ports => .RQ_PORTS

/-! ## Thermal control, Insole and seams -/

/-- R435. Condition `c` has had one sample more: 250 intervals of samples in a row that meet the opposite of what it
shows turn it over; a sample that does not breaks the run. `enter` and `leave` are what the sample shows. -/
def Recognised (s t : State) (c : Nat) (enter leave : Bool) : Prop :=
  if (if s.reg .iTHR c = 1 then leave else enter) = false then
    t.reg .iTHR_RUN c = 0 ∧ t.reg .iTHR c = s.reg .iTHR c
  else if 250 ≤ s.reg .iTHR_RUN c then
    t.reg .iTHR_RUN c = 0 ∧ t.reg .iTHR c = if s.reg .iTHR c = 1 then 0 else 1
  else t.reg .iTHR_RUN c = s.reg .iTHR_RUN c + 1 ∧ t.reg .iTHR c = s.reg .iTHR c

/-- R436, R437. What a turn of the warning does to the thermal state: entering starts the grace period from NORMAL
    or
from recovery; leaving ends it, or starts recovery where a stage is due. -/
def WarningTurns (s t : State) : Prop :=
  let st := s.reg .TH_STATE 0
  t.reg .TH_STATE 0 =
    if t.reg .iTHR 0 = s.reg .iTHR 0 then st
    else if t.reg .iTHR 0 = 1 then (if st = 0 ∨ st = 3 then 1 else st)
    else if st = 1 ∨ st = 2 then (if s.reg .TH_STAGE_DUE 0 = 0 then 0 else 3) else st

/-- R405, R501. FUNC_DISABLED with `n` abandoned is raised, or owed while the firmware restarts. -/
def Reported (s t : State) (r : Reg) (i n : Nat) : Prop :=
  if s.reg .iPHASE 0 = 3 then t.disabledOwed = s.disabledOwed ++ [(r.id i, n)]
  else t.lastEvent = some (Code.funcDisabled, packBits [(32, r.id i), (32, n)])

/-- R473, R474. What one sample of `ohms` makes of loop `n`: SM_DEBOUNCE samples of one kind in a row give it that
state. -/
def LoopSampled (s t : State) (surf n ohms : Nat) : Prop :=
  let x := 4 * surf + n
  let v := min 80000 ohms
  let kind := sampleKind (s.reg .SM_THRESH surf) v
  let run := if kind = 0 then 0 else if kind = s.reg .iSM_KIND x then min 1000 (s.reg .iSM_RUN x + 1) else 1
  blobGet (t.reg .SM_OHMS surf) (4 * n) 4 = v ∧ t.reg .iSM_KIND x = kind ∧ t.reg .iSM_RUN x = run ∧
  t.loopState surf n = if kind = 0 ∨ run < s.reg .SM_DEBOUNCE surf then s.loopState surf n else kind

/-! ## Plovan -/

/-- Where a datagram came from: port and sub-port, and address and UDP port. -/
def plvFrom (port : Fin 2) (sub : Fin 4) : Nat := 4 * port.val + sub.val

/-- The peer's address and UDP port. -/
def plvPeer (src : BitVec 128) (srcPort : BitVec 16) : List Byte := beBytes 16 src.toNat ++ leBytes 2 srcPort.toNat

/-- `s` with the station `mac` known to be where a datagram just came from (R346). -/
def State.heard (s : State) (from_ : Nat) (mac : BitVec 48) : State :=
  { s with macs := Sparse.set (fun _ => 0) s.macs mac.toNat from_ }

/-- What a message may change besides what its items do. -/
def plvFrame : List Part :=
  regs sessionRegs ++ regs [.iPLV_CUR, .iPLV_CLOSE, .iPLV_RESET, .PLV_BAD_MSG, .PLV_BAD_AUTH, .PLV_BAD_SEQ] ++
    flds [.sent, .responses, .heldRequests, .egress, .waits, .macs]

/-- R32, R385 to R388, R491. A datagram of another TYPE, or one that comes while neither the firmware serves nor a
    warm
restart is under way, leaves everything. A malformed one is discarded without an answer and counted in PLV_BAD_MSG.
Any other goes on with its header and its items. -/
def PlvDatagram (s t : State) (from_ : Nat) (mac : BitVec 48) (type : Nat) (p : List Byte) (P : PlvHead → List
    PlvItem → Prop) : Prop :=
  if (1 ≤ leAt p 3 1 ∧ leAt p 3 1 ≤ 8 ∧ leAt p 3 1 ≠ type) ∨ (s.firmwareServes = false ∧ s.reg .iPHASE 0 ≠ 3) then
      t = s
  else if plvHeadOk p = false then t = ((s.heard from_ mac).send []).bump .PLV_BAD_MSG 0
  else match (PlvHead.ofBytes p).items with
    | none => t = ((s.heard from_ mac).send []).bump .PLV_BAD_MSG 0
    | some xs => P (PlvHead.ofBytes p) xs

/-- `s` with a valid datagram of session `n` noted, and its request under way. -/
def State.messageBegun (s : State) (from_ : Nat) (mac : BitVec 48) (peer : List Byte) (h : PlvHead) : State :=
  (((((((s.heard from_ mac).send []).setReg .iSS_SEEN h.session s.clock).setReg .iSS_FROM h.session from_).setReg
      .iSS_MAC
    h.session mac.toNat).setReg .SS_PEER h.session (leNat peer)).setReg .iSS_SEQ h.session h.seq).setReg .iPLV_CUR
        0 (h.session + 1)

/-- R388, R390, R391, R496. A datagram of a session that is not open counts in PLV_BAD_MSG; one with a wrong tag in
PLV_BAD_AUTH; neither is answered. A request with the next SEQ is performed (`P`), or held during a warm restart;
    one
with the last SEQ has its response sent again and is not performed; any other counts in PLV_BAD_SEQ. -/
def PlvRequest (s t : State) (from_ : Nat) (mac : BitVec 48) (peer : List Byte) (raw : List Byte) (h : PlvHead) (P
    : Prop) : Prop :=
  let n := h.session
  if 1024 ≤ n ∨ s.reg .SS_STATE n ≠ 1 then t = ((s.heard from_ mac).send []).bump .PLV_BAD_MSG 0
  else if s.sessionTagOk h = false then t = ((s.heard from_ mac).send []).bump .PLV_BAD_AUTH 0
  else if h.seq = (s.reg .iSS_SEQ n + 1) % 2 ^ 32 then
    if s.reg .iPHASE 0 = 3 then
      (n, raw) ∈ t.heldRequests ∧ t.sent = [] ∧ t.Holds .iSS_SEEN n s.clock ∧ t.reg .iSS_SEQ n = s.reg .iSS_SEQ n
    else P
  else
    t.Holds .iSS_SEEN n s.clock ∧ t.reg .iSS_SEQ n = s.reg .iSS_SEQ n ∧ t.queues = s.queues ∧
    t.responses = s.responses ∧
    if h.seq = s.reg .iSS_SEQ n then
      t.sent = if s.reg .iPHASE 0 = 3 then []
        else [.plovan from_ peer (((s.responses.find? (fun e => e.1 == n)).map Prod.snd).getD [])]
    else t.sent = [] ∧ Counted s t .PLV_BAD_SEQ 0 1

/-- R386, R387, R390, R391. A request has been performed with a response of these items: its SEQ is the last, the
session stays open, and the response leaves to the peer with the request's SEQ and, under a key, a tag; it is kept
    for
a repetition. -/
def PlvAnswered (s t : State) (from_ : Nat) (peer : List Byte) (h : PlvHead) (count : Nat) (body : List Byte) :
    Prop :=
  let n := h.session
  let m := plvMessage h.type n 2 h.seq count 0 (s.keyOfSession n) body
  t.sent = [.plovan from_ peer m] ∧ (n, m) ∈ t.responses ∧ t.Holds .iSS_SEQ n h.seq ∧ t.Holds .iSS_SEEN n s.clock ∧
  t.reg .SS_STATE n = 1 ∧ t.NoMessage ∧ OnlyAt s t sessionRegs n

/-- R387. Whether a response with these items is longer than 9,000 bytes. -/
def State.tooBig (s : State) (n : Nat) (body : List Byte) : Bool :=
  decide (9000 < 32 + body.length + 16 * b2n (s.keyOfSession n).isSome)

/-- R387. A request whose response would be longer than 9,000 bytes is answered with PLV_TOO_BIG and performs no
item. -/
def PlvTooBig (s t : State) (from_ : Nat) (peer : List Byte) (h : PlvHead) : Prop :=
  let n := h.session
  let m := plvMessage h.type n 2 h.seq 0 Code.plvTooBig (s.keyOfSession n) []
  t.sent = [.plovan from_ peer m] ∧ (n, m) ∈ t.responses ∧ t.Holds .iSS_SEQ n h.seq ∧ Touches plvFrame s t

/-- R402. The result of one SUBSCRIBE or UNSUBSCRIBE item of session `n` for queue `q`, from its subscribers before:
the status and the subscribers after. At most 16 sessions subscribe to a queue, and a session to at most 64 queues.
    -/
def subscribed (on : Bool) (n q total : Nat) (subs : List Nat) : Nat × List Nat :=
  if 2048 ≤ q then (Code.odNoObject, subs)
  else if on = false then (0, subs.filter (fun k => k != n))
  else if subs.contains n then (0, subs)
  else if 16 ≤ subs.length ∨ 64 ≤ total then (Code.nqFull, subs)
  else (0, subs ++ [n])

/-! ## Network time -/

/-- The timebase after a step of `d` units of 2^-48 ns (R354, R355). -/
def State.stepped (s : State) (d : Int) : Nat := (((s.tb : Int) + d) % 2 ^ 112).toNat

/-- R361. An offset (2^-16 ns) has driven a discipline: FREE and HOLDOVER become ACQUIRING; 16 in a row within
PTP_LOCK_THRESH make ACQUIRING LOCKED, and 16 in a row beyond four times that make LOCKED ACQUIRING. -/
def Disciplined (s t : State) (sync : Bool) (offset : Int) : Prop :=
  let st := (discRegs sync).1
  let run := (discRegs sync).2
  let fresh := s.reg st 0 = 0 ∨ s.reg st 0 = 3
  let n := if fresh then 0 else s.reg run 0
  let thresh := s.reg .PTP_LOCK_THRESH 0 * 65536
  let shows (state count : Nat) : Prop := t.reg st 0 = state ∧ t.reg run 0 = count
  if fresh ∨ s.reg st 0 = 1 then
    if offset.natAbs ≤ thresh then (if 16 ≤ n + 1 then shows 2 0 else shows 1 (n + 1)) else shows 1 0
  else if s.reg st 0 = 2 then
    if 4 * thresh < offset.natAbs then (if 16 ≤ n + 1 then shows 1 0 else shows 2 (n + 1)) else shows 2 0
  else shows (s.reg st 0) (s.reg run 0)

/-- R361. Whether the rate lies within PTP_SLEW_MAX. -/
def SlewKept (s t : State) : Prop :=
  let lim : Int := s.reg .PTP_SLEW_MAX 0 * 4096
  t.regInt .TB_RATE 0 ≤ lim ∧ -lim ≤ t.regInt .TB_RATE 0

/-- What an Announce tells of its master (R359), and when the one before it came. -/
def masterOf (s : State) (p : Nat) (a : Announce) : ForeignMaster :=
  ⟨p, a.source.toNat, [a.priority1.toNat, a.clockClass.toNat, a.accuracy.toNat, a.variance.toNat,
    a.priority2.toNat], a.steps.toNat, a.gm.toNat, ofInt 32 a.utc.toInt, a.interval.toNat, s.clock,
    ((s.foreign.find? (fun x => x.port == p && x.source == a.source.toNat)).map (fun x => x.seenAt + 1)).getD 0⟩

/-- R359, R361. The clock follows `b`: its port and grandmaster are shown, and a servo that is FREE or in HOLDOVER
acquires while PLL-NT is locked. -/
def Follows (s t : State) (b : ForeignMaster) : Prop :=
  t.Holds .PTP_SLAVE_PORT 0 b.port ∧ t.Holds .PTP_GM_ID 0 b.gm ∧ t.Holds .PTP_UTC_OFFSET 0 b.utc ∧
  t.reg .iSERVO 0 = if s.reg .CK_STATE 5 = 3 ∧ (s.reg .iSERVO 0 = 0 ∨ s.reg .iSERVO 0 = 3) then 1
    else s.reg .iSERVO 0

/-! ## The Welt link -/

/-- Whether the receiver checks and the other conditions of R246 let lane `p` leave DETECT, once one more pulse has
seen the receiver. -/
def State.pulseTrains (s : State) (surf p : Nat) : Bool :=
  s.reg .CK_STATE (3 + surf) == 3 && decide (1 ≤ s.reg .iWL_PRES (laneIx surf p)) && s.returnLocked surf &&
    s.capsOk surf && s.granted (if s.ofBringUp surf p then .bringUp surf else .laneAttempt surf p)

/-- A write of WL_CTRL that changes nothing but the status. -/
def CtrlIdle (s t : State) (acc : Accessor) (i : Nat) : Prop := t = (s.send []).answered acc .WL_CTRL i 0

/-- R253, R254. An ACTIVE lane that carries a logical lane gives it up for good: SPARE_CMD is sent for a free spare
    to
which no move is under way, or WELT_NO_SPARE raised where there is none. Otherwise nothing changes. -/
def SpareOrdered (s t : State) (surf p : Nat) (idle : Prop) : Prop :=
  match s.laneLogical surf p with
  | none => idle
  | some l =>
    if s.lane surf p ≠ laneActive ∨ s.moving surf l = true then idle
    else match s.openSpares surf with
      | [] => t.lastEvent = some (Code.weltNoSpare, packBits [(8, surf), (8, p)]) ∧ t.moves = s.moves
      | z :: _ => t.moves.length = s.moves.length + 1 ∧ t.fwd.length = s.fwd.length + 1 ∧
        ∃ m ∈ t.moves, m.surf = surf ∧ m.logical = l ∧ m.fromLane = p ∧ m.toLane = z ∧ m.kind = 2 ∧ m.done = false

/-- The message of type `mtype` with `bytes` is sent on the surface and waits for its acknowledgement (R259). -/
def Sent (s t : State) (surf mtype : Nat) (bytes : List Byte) : Prop :=
  t.fwd = s.fwd ++ [⟨surf, s.reg .iWL_MSEQ surf, mtype, bytes, 0, s.clock⟩] ∧ Counted s t .iWL_MSEQ surf 1 ∧
  t.sent = [.welt surf (s.reg .iWL_MSEQ surf) mtype bytes]

/-! ## The Welt return -/

/-- R257, R258. A return lane takes blocks unless it is in test; a message after IDLE blocks is processed only on a
LOCKED lane. One whose framing, CRC, type or length is wrong is counted in WL_MSG_ERRORS, a copy is dropped, and any
other of the type is counted and known from then on. `P` says of the state `v` after that, and the message, what the
message then does. -/
def Received (s t : State) (surf : Surface) (r : RLane) (mtype : Nat) (raw : List RBlock)
    (P : State → ReturnMsg → Prop) : Prop :=
  let i := 2 * surf.val + r.val
  let b := s.takeBlocks i raw
  if s.reg .WR_STATE i = 3 then t = s
  else if s.reg .WR_STATE i ≠ 2 ∨ b.1.dropWhile RBlockIn.idle = [] then t = b.2
  else match parseReturn (b.1.dropWhile RBlockIn.idle) with
    | none => Counted b.2 t .WL_MSG_ERRORS surf.val 1 ∧ (∀ q, q ≠ .WL_MSG_ERRORS → ∀ j, t.reg q j = b.2.reg q j) ∧
      OnlyAt s t [.WL_MSG_ERRORS] surf.val
    | some m =>
      if m.mtype ≠ mtype ∨ s.seqs.contains (surf.val, m.mseq) = true then t = b.2
      else Counted b.2 t .WR_MESSAGES i 1 ∧ t.seqs.contains (surf.val, m.mseq) = true ∧
        OnlyAt s t [.WR_MESSAGES] i ∧ P (b.2.noteReturn surf r m.mseq) m

/-- What an acknowledgement of `ack` covers (R259): the message itself and the 127 before it. -/
def ackCovers (ack q : Nat) : Bool := decide ((ack + 256 - q % 256) % 256 < 128)

/-- The coefficient requests that wait, but for those of lane `p` (R245). -/
def State.requestsBut (s : State) (surf p : Nat) : List EqReq :=
  s.eqReqs.filter (fun q => !(q.surf == surf && q.lane == p))

/-- R263. The delivery under way of the surface, if any, ends with a result and its slot is INVALID. -/
def DeliveryEnded (s t : State) (surf result : Nat) : Prop :=
  match s.deliveries.find? (fun d => d.surf == surf) with
  | none => t.deliveries = s.deliveries ∧ t.reg .WL_CAL_RESULT surf = s.reg .WL_CAL_RESULT surf
  | some d => t.deliveries = s.deliveries.erase d ∧ t.reg .CAL_STATE d.inst = 3 ∧
    t.Holds .WL_CAL_RESULT surf result ∧ OnlyAt s t [.CAL_STATE] d.inst

end Sys2Proof.Machine
end

