-- ==== Sys2Proof/Certificates/Slice0/Changes.lean ====
section
/-! DEFINITION. For each command that may change more than a few parts of the state: the parts that it may change at
most. Its obligation says that everything else is as it was. -/
namespace Sys2Proof.Machine

/-- What ARRAY_PARAM_WRITE may change. -/
def Changes.arrayParamWrite : List Part :=
  regs [.HZ_CLUSTER_EN, .HZ_SHARE_A, .HZ_BYTES_NS, .CK_SSC, .CL_FENCE_REQ, .CL_FENCE, .iACC_STATUS, .iACC_ID,
      .iARR_SEEN, .iARR_CL, .iARR, .iSSC_WAIT, .iSSC_AT, .iSSC_RAMP, .iCL_RELOAD, .HZ_SWAP_CLUSTER, .HZ_SWAP_STATE,
      .HZ_ACTIVE, .CL_STATE, .iSWAP_SLOT, .iFENCE_HOST, .CL_FENCED, .HZ_ENGINES_FENCED, .iCL_SELFTEST, .iCL_PASSED,
      .CL_PROG_SLOT, .CL_FAULT_MASK, .HZ_SHORT, .EV_COUNT, .NQ_SEQ, .NQ_LOST] ++ flds [.status, .keepPending,
      .grants, .highReqs, .normalReqs, .requeued, .held, .evLog, .queues]

/-- What BAND_SEARCH_DONE may change. -/
def Changes.bandSearchDone : List Part :=
  regs [.CK_BAND, .iCK_N, .iCK_FAILS, .iCK_SINCE, .CK_STATE, .CK_BAND_TABLE] ++ flds [.keepPending]

/-- What BLANK_IDLE_EXIT may change. -/
def Changes.blankIdleExit : List Part :=
  regs [.iWL_IDLED, .iWL_SINCE, .WL_LANE_STATE, .iWL_BUSY, .iWL_CTX, .iWL_FORMER, .iWL_TSAT, .iWL_EQREJ, .iWL_BLK,
      .iWL_BIT, .WL_COEFF, .iWL_PH, .WL_RETRAINS, .iWL_MSEQ] ++ flds [.sent, .msgBlocks, .retrains, .highReqs,
      .normalReqs, .moves, .fwd]

/-- What BUF_CTRL_DISCARD may change. -/
def Changes.bufCtrlDiscard : List Part :=
  regs [.iBUF_SEAL, .iACC_STATUS, .iACC_ID, .BUF_BANKS] ++ flds [.ingest, .status]

/-- What BUF_CTRL_OPEN may change. -/
def Changes.bufCtrlOpen : List Part :=
  regs [.iACC_STATUS, .iACC_ID, .iBK_BASE, .iBK_INDEX, .iBK_CUE, .iBK_FRAME, .iBUF_SEAL, .BUF_BANKS, .MS_FREEZES,
      .MS_FROZEN_INGEST, .MS_FROZEN_CORE, .EV_COUNT, .NQ_SEQ, .NQ_LOST, .STR_STATE, .HZ_ACTIVE, .CL_STATE,
      .LC_RESULT, .LC_STATE, .SK_STATE, .iSK_DONE, .iSK_FROZEN_JOB, .GC_STATE, .iPIP_FROZE_NS, .iGC_NW, .iGC_NR,
      .iGC_NI, .iGC_BUF, .iGC_OUT, .iGC_DONE, .iGC_FROZEN_JOB, .iNRR_STEP, .QP_BYTES, .QP_OVER, .MS_RMW,
      .MS_RMW_POISON, .MS_CORRECTED, .CH_CORRECTED, .CH_UNCORRECTABLE, .PN_LOST, .MS_POISONED] ++ flds [.status,
      .ingestRefs, .freezeLog, .evLog, .queues, .ingest, .banks, .rowsAhead, .traffic, .seen, .waits, .writeBacks,
      .poison, .poisonLog] ++ [.mem]

/-- What BUF_CTRL_SEAL may change. -/
def Changes.bufCtrlSeal : List Part :=
  regs [.iACC_STATUS, .iACC_ID, .iBUF_SEAL, .BUF_BANKS] ++ flds [.status]

/-- What BUF_PARAM_WRITE may change. -/
def Changes.bufParamWrite : List Part :=
  regs [.BUF_KIND, .BUF_FORMAT, .BUF_STORE, .BUF_WIDTH, .BUF_HEIGHT, .BUF_BASE, .BUF_SOURCE, .BUF_CONCEAL,
      .iACC_STATUS, .iACC_ID, .BUF_BANKS] ++ flds [.status]

/-- What CACHE_SCRUB may change. -/
def Changes.cacheScrub : List Part :=
  regs [.SC_STATE, .SC_CORRECTED, .iCACHE_INVALID, .SC_UNCORRECTABLE, .SC_POSITION, .iLAP_SLOW, .EV_COUNT, .NQ_SEQ,
      .NQ_LOST, .iLAP_START, .iLAP_OPEN, .SC_LAP_LAST, .iLAP_BROKEN] ++ flds [.evLog, .queues]

/-- What CAL_BEGIN may change. -/
def Changes.calBegin : List Part :=
  regs [.WL_MSG_ERRORS, .iWR_HIST, .iWR_RUN, .iWR_DESC, .WR_BLOCK_ERRS, .WR_MESSAGES, .iCAL_H, .iCAL_W, .CAL_T2,
      .CAL_T1, .CAL_T0, .CAL_STATE, .WL_CAL_RESULT, .iWL_MSEQ, .EV_COUNT, .NQ_SEQ, .NQ_LOST] ++ flds [.sent, .seqs,
      .deliveries, .fwd, .msgBlocks, .evLog, .queues]

/-- What CAL_DATA may change. -/
def Changes.calData : List Part :=
  regs [.WL_MSG_ERRORS, .iWR_HIST, .iWR_RUN, .iWR_DESC, .WR_BLOCK_ERRS, .WR_MESSAGES, .CAL_STATE, .WL_CAL_RESULT,
      .iWL_MSEQ, .MS_FREEZES, .MS_FROZEN_INGEST, .MS_FROZEN_CORE, .EV_COUNT, .NQ_SEQ, .NQ_LOST, .STR_STATE,
      .HZ_ACTIVE, .CL_STATE, .LC_RESULT, .LC_STATE, .SK_STATE, .iSK_DONE, .iSK_FROZEN_JOB, .GC_STATE,
      .iPIP_FROZE_NS, .iGC_NW, .iGC_NR, .iGC_NI, .iGC_BUF, .iGC_OUT, .iGC_DONE, .iGC_FROZEN_JOB, .iNRR_STEP,
      .QP_BYTES, .QP_OVER, .MS_RMW, .MS_RMW_POISON, .MS_CORRECTED, .CH_CORRECTED, .CH_UNCORRECTABLE, .PN_LOST,
      .MS_POISONED] ++ flds [.deliveries, .seen, .sent, .seqs, .fwd, .msgBlocks, .freezeLog, .evLog, .queues,
      .ingest, .banks, .rowsAhead, .traffic, .waits, .writeBacks, .poison, .poisonLog] ++ [.mem]

/-- What CAL_END may change. -/
def Changes.calEnd : List Part :=
  regs [.CAL_RESIDUAL, .WL_MSG_ERRORS, .iWR_HIST, .iWR_RUN, .iWR_DESC, .WR_BLOCK_ERRS, .WR_MESSAGES, .CAL_STATE,
      .WL_CAL_RESULT, .iWL_MSEQ, .MS_FREEZES, .MS_FROZEN_INGEST, .MS_FROZEN_CORE, .EV_COUNT, .NQ_SEQ, .NQ_LOST,
      .STR_STATE, .HZ_ACTIVE, .CL_STATE, .LC_RESULT, .LC_STATE, .SK_STATE, .iSK_DONE, .iSK_FROZEN_JOB, .GC_STATE,
      .iPIP_FROZE_NS, .iGC_NW, .iGC_NR, .iGC_NI, .iGC_BUF, .iGC_OUT, .iGC_DONE, .iGC_FROZEN_JOB, .QP_BYTES,
      .QP_OVER, .iNRR_STEP, .MS_POISON_READS, .MS_CORRECTED, .CH_CORRECTED, .CH_UNCORRECTABLE, .PN_LOST,
      .CAL_SOURCE, .CAL_HEIGHT, .CAL_WIDTH, .iTY] ++ flds [.deliveries, .seen, .sent, .seqs, .fwd, .msgBlocks,
      .freezeLog, .evLog, .queues, .ingest, .waits, .banks, .traffic, .writeBacks, .poisonLog]

/-- What CAL_LOAD_VALIDATE may change. -/
def Changes.calLoadValidate : List Part :=
  regs [.iCAL_H, .iCAL_W, .CAL_STATE, .iACC_STATUS, .iACC_ID] ++ flds [.status]

/-- What CAL_NONE may change. -/
def Changes.calNone : List Part :=
  regs [.WL_MSG_ERRORS, .iWR_HIST, .iWR_RUN, .iWR_DESC, .WR_BLOCK_ERRS, .WR_MESSAGES] ++ flds [.sent, .seqs]

/-- What CAL_SLOT_WRITE may change. -/
def Changes.calSlotWrite : List Part :=
  regs [.CAL_STATE, .CAL_T0, .CAL_T1, .CAL_T2, .CAL_BASE, .CAL_CRC, .iACC_STATUS, .iACC_ID] ++ flds [.status]

/-- What CAL_VALIDATION_DONE may change. -/
def Changes.calValidationDone : List Part :=
  regs [.CAL_STATE, .MS_FREEZES, .MS_FROZEN_INGEST, .MS_FROZEN_CORE, .EV_COUNT, .NQ_SEQ, .NQ_LOST, .STR_STATE,
      .HZ_ACTIVE, .CL_STATE, .LC_RESULT, .LC_STATE, .SK_STATE, .iSK_DONE, .iSK_FROZEN_JOB, .GC_STATE,
      .iPIP_FROZE_NS, .iGC_NW, .iGC_NR, .iGC_NI, .iGC_BUF, .iGC_OUT, .iGC_DONE, .iGC_FROZEN_JOB, .QP_BYTES,
      .QP_OVER, .iNRR_STEP, .MS_POISON_READS, .MS_CORRECTED, .CH_CORRECTED, .CH_UNCORRECTABLE, .PN_LOST,
      .CAL_RESIDUAL, .CAL_SOURCE, .CAL_HEIGHT, .CAL_WIDTH, .iTY] ++ flds [.freezeLog, .evLog, .queues, .ingest,
      .seen, .waits, .banks, .traffic, .writeBacks, .poisonLog]

/-- What CAP_READ may change. -/
def Changes.capRead : List Part :=
  regs [.CAP_READ, .iACC_STATUS, .iACC_ID, .iCAP_FULL] ++ flds [.value, .status, .draws, .caps, .queues]

/-- What CAPS may change. -/
def Changes.caps : List Part :=
  regs [.iWL_CAPSSEQ, .iWL_CAPS, .WL_PANEL_CAPS, .WL_MSG_ERRORS, .iWR_HIST, .iWR_RUN, .iWR_DESC, .WR_BLOCK_ERRS,
      .WR_MESSAGES, .iWL_IDLEORD, .iWL_COVER, .iWL_MAPRESET, .WL_SPARE_MAP, .iWL_PULSE, .iWL_FAILS, .iWL_ABS,
      .iWL_PRES, .iWL_CTX, .iWL_SINCE, .WL_LANE_STATE, .iWL_PH, .iWL_BUSY, .EV_COUNT, .NQ_SEQ, .NQ_LOST, .WL_CAUSE,
      .iWL_TSAT, .iWL_EQREJ, .iWL_BLK, .iWL_BIT, .WL_COEFF] ++ flds [.sent, .seqs, .moves, .retrains, .keepPending,
      .msgBlocks, .grants, .highReqs, .normalReqs, .evLog, .queues, .draws]

/-- What CAPS_HOLD_EXPIRE may change. -/
def Changes.capsHoldExpire : List Part :=
  regs [.WL_PANEL_CAPS, .iWL_CAPS, .iWL_TSAT, .iWL_EQREJ, .iWL_BLK, .iWL_BIT, .WL_COEFF, .iWL_SINCE, .iWL_PH,
      .WL_LANE_STATE] ++ flds [.highReqs, .normalReqs, .grants, .msgBlocks]

/-- What CAPTURE_EDGE may change. -/
def Changes.captureEdge : List Part :=
  regs [.CAP_IGNORED, .iCAP_AT, .CAP_COUNT, .CAP_OVERFLOW, .iCAP_FULL, .iCAP_STEPPED, .EV_COUNT, .NQ_SEQ, .NQ_LOST]
      ++ flds [.caps, .evLog, .queues]

/-- What CG_CTRL_ABORT may change. -/
def Changes.cgCtrlAbort : List Part :=
  regs [.iACC_STATUS, .iACC_ID, .CG_OWNER, .CG_STATE] ++ flds [.status, .staged]

/-- What CG_CTRL_GO may change. -/
def Changes.cgCtrlGo : List Part :=
  regs [.iACC_STATUS, .iACC_ID, .CG_ID, .CG_STATE, .CMT_LATE, .iCMT_NEXT] ++ flds [.status, .commits]

/-- What CG_CTRL_OPEN may change. -/
def Changes.cgCtrlOpen : List Part :=
  regs [.iCG_NEXT, .iCG_SEQ, .CG_OWNER, .CG_STATE, .iACC_STATUS, .iACC_ID] ++ flds [.status]

/-- What CG_PARAM_WRITE may change. -/
def Changes.cgParamWrite : List Part :=
  regs [.CG_SURFACES, .CG_BUFFERS, .CG_AT, .CG_DARK_OK, .CG_TRIGGER, .iACC_STATUS, .iACC_ID] ++ flds [.status]

/-- What CH_RETRAIN_NOW may change. -/
def Changes.chRetrainNow : List Part :=
  regs [.iACC_STATUS, .iACC_ID, .iRT_WH, .iRT_WW, .iRT_RH, .iRT_RW, .iRT_SINCE, .iRT_LEFT, .iRT_SET0] ++ flds
      [.status]

/-- What CK_MARGIN_WRITE may change. -/
def Changes.ckMarginWrite : List Part :=
  regs [.iACC_STATUS, .iACC_ID, .CK_MARGIN, .iCK_WHY, .CK_THROTTLE_REQ, .iWL_IDLEORD, .iWL_SINCE, .WL_LANE_STATE,
      .iWL_PH, .iWL_CTX, .iWL_BUSY, .iWL_TSAT, .iWL_EQREJ, .iWL_BLK, .iWL_BIT, .WL_COEFF, .SO_FORCED, .iS_SEEN,
      .SO_OUT_STATE, .PTP_UTC_OFFSET, .PTP_GM_ID, .iPTP_SOURCE, .PTP_SLAVE_PORT, .iPTP_RUN, .iPTP_FIRST, .PP_STATE,
      .iSYNC_STATE, .iSYNC_RUN, .iSERVO, .PTP_STATE, .TB_SOURCE, .ETH_LINK, .EV_COUNT, .NQ_SEQ, .NQ_LOST, .TB_RATE,
      .iCK_OUT, .iCK_START, .CK_FREQ, .iCK_SINCE, .CK_STATE, .iSSC_WAIT, .iSSC_RAMP] ++ flds [.status,
      .keepPending, .moves, .retrains, .msgBlocks, .grants, .highReqs, .normalReqs, .frameA, .frameB, .egress,
      .evLog, .queues]

/-- What CK_RELOCK may change. -/
def Changes.ckRelock : List Part :=
  regs [.iACC_STATUS, .iACC_ID, .iCK_WHY, .CK_THROTTLE_REQ, .iWL_IDLEORD, .iWL_SINCE, .WL_LANE_STATE, .iWL_PH,
      .iWL_CTX, .iWL_BUSY, .iWL_TSAT, .iWL_EQREJ, .iWL_BLK, .iWL_BIT, .WL_COEFF, .SO_FORCED, .iS_SEEN,
      .SO_OUT_STATE, .PTP_UTC_OFFSET, .PTP_GM_ID, .iPTP_SOURCE, .PTP_SLAVE_PORT, .iPTP_RUN, .iPTP_FIRST, .PP_STATE,
      .iSYNC_STATE, .iSYNC_RUN, .iSERVO, .PTP_STATE, .TB_SOURCE, .ETH_LINK, .EV_COUNT, .NQ_SEQ, .NQ_LOST, .TB_RATE,
      .iCK_OUT, .iCK_START, .CK_FREQ, .iCK_SINCE, .CK_STATE, .iSSC_WAIT, .iSSC_RAMP] ++ flds [.status, .moves,
      .retrains, .msgBlocks, .grants, .highReqs, .normalReqs, .frameA, .frameB, .egress, .evLog, .queues]

/-- What CK_SYNC_ARM may change. -/
def Changes.ckSyncArm : List Part :=
  regs [.CK_SYNC_ARM, .iACC_STATUS, .iACC_ID] ++ flds [.status]

/-- What CL_FAULT_CLEAR may change. -/
def Changes.clFaultClear : List Part :=
  regs [.iACC_STATUS, .iACC_ID, .iCL_SELFTEST, .HZ_ACTIVE, .CL_STATE] ++ flds [.status]

/-- What CLUSTER_FAULT_FENCE may change. -/
def Changes.clusterFaultFence : List Part :=
  regs [.iCL_PASSED, .iCL_SELFTEST, .CL_FAULT_MASK, .CL_FENCED, .HZ_ENGINES_FENCED, .HZ_SHORT, .EV_COUNT, .NQ_SEQ,
      .NQ_LOST, .CL_LAST_FAULT, .HZ_ACTIVE, .CL_STATE] ++ flds [.keepPending, .evLog, .queues, .requeued, .held]

/-- What CLUSTER_LOAD_DONE may change. -/
def Changes.clusterLoadDone : List Part :=
  regs [.iCL_SELFTEST, .HZ_ACTIVE, .CL_STATE, .CL_LAST_FAULT, .EV_COUNT, .NQ_SEQ, .NQ_LOST, .iCL_RELOAD,
      .HZ_SWAP_STATE, .iSWAP_SLOT, .HZ_SWAP_CLUSTER] ++ flds [.evLog, .queues]

/-- What CODEC_ASSIGN_WRITE may change. -/
def Changes.codecAssignWrite : List Part :=
  regs [.HK_INGEST_DEC, .HK_TAP_ENC, .iACC_STATUS, .iACC_ID, .TAP_STATE, .TAP_ENABLE, .TAP_DROPS] ++ flds
      [.keepPending, .status, .taps, .ingest]

/-- What COMMIT_DEADLINE may change. -/
def Changes.commitDeadline : List Part :=
  regs [.iS_DEADLINE, .LAST_NEXT, .iEYE_FRAME, .PB_STATE, .PB_REFUSED, .iPB_S, .PB_FRAME, .MS_FREEZES,
      .MS_FROZEN_INGEST, .MS_FROZEN_CORE, .EV_COUNT, .NQ_SEQ, .NQ_LOST, .STR_STATE, .HZ_ACTIVE, .CL_STATE,
      .LC_RESULT, .LC_STATE, .SK_STATE, .iSK_DONE, .iSK_FROZEN_JOB, .GC_STATE, .iPIP_FROZE_NS, .iGC_NW, .iGC_NR,
      .iGC_NI, .iGC_BUF, .iGC_OUT, .iGC_DONE, .iGC_FROZEN_JOB, .QP_BYTES, .QP_OVER, .iNRR_STEP, .MS_POISON_READS,
      .MS_CORRECTED, .CH_CORRECTED, .CH_UNCORRECTABLE, .PN_LOST, .iCMT_NEXT, .iBK_MAXB, .iBK_FRAME, .iBK_INDEX,
      .iBK_BASE, .iBK_CUE, .iBK_CONC, .BUF_SUPERSEDED, .BUF_BANKS, .CG_ID, .CG_STATE, .CMT_LATE, .iS_LIGHT,
      .iARR_SEEN, .CMT_DEFERRED, .iBUF_SEAL, .CG_RESULT, .ADM_COST_BYTES, .ADM_COST_DEC, .ADM_COST_SAMP,
      .ADM_COST_OPS, .ADM_BUDGET_BYTES, .ADM_BUDGET_DEC, .ADM_BUDGET_SAMP, .ADM_BUDGET_OPS, .ADM_LAST_COMMIT,
      .ADM_WORST_BAND, .ADM_LAST_REASON, .ADM_LAST_RESULT, .HZ_SHORT, .CMT_REFUSED, .CG_OWNER, .iWL_CFGAT,
      .iWL_MSEQ] ++ flds [.sent, .seen, .freezeLog, .evLog, .queues, .ingest, .waits, .banks, .traffic,
      .writeBacks, .poisonLog, .commits, .lutShadow, .staged, .accepted, .draws, .fwd, .msgBlocks]

/-- What CORRECTED_WRITE_BACK may change. -/
def Changes.correctedWriteBack : List Part :=
  regs [.MS_WB_DROPPED, .iNRR_STEP, .QP_BYTES, .QP_OVER, .MS_POISONED] ++ flds [.seen, .writeBacks, .banks,
      .traffic, .waits, .poison]

/-- What CUE_PARAM_WRITE may change. -/
def Changes.cueParamWrite : List Part :=
  regs [.CUE_STATE, .CUE_BASE, .CUE_SIZE, .CUE_CRC, .CUE_BIND, .iACC_STATUS, .iACC_ID] ++ flds [.status]

/-- What CUE_VALIDATION_DONE may change. -/
def Changes.cueValidationDone : List Part :=
  regs [.CUE_STATE, .MS_FREEZES, .MS_FROZEN_INGEST, .MS_FROZEN_CORE, .EV_COUNT, .NQ_SEQ, .NQ_LOST, .STR_STATE,
      .HZ_ACTIVE, .CL_STATE, .LC_RESULT, .LC_STATE, .SK_STATE, .iSK_DONE, .iSK_FROZEN_JOB, .GC_STATE,
      .iPIP_FROZE_NS, .iGC_NW, .iGC_NR, .iGC_NI, .iGC_BUF, .iGC_OUT, .iGC_DONE, .iGC_FROZEN_JOB, .QP_BYTES,
      .QP_OVER, .iNRR_STEP, .MS_POISON_READS, .MS_CORRECTED, .CH_CORRECTED, .CH_UNCORRECTABLE, .PN_LOST] ++ flds
      [.freezeLog, .evLog, .queues, .ingest, .seen, .waits, .banks, .traffic, .writeBacks, .poisonLog]

/-- What ENGINE_FAULT_FENCE may change. -/
def Changes.engineFaultFence : List Part :=
  regs [.CL_FAULT_MASK, .CL_FENCED, .HZ_ENGINES_FENCED, .CL_LAST_FAULT, .EV_COUNT, .NQ_SEQ, .NQ_LOST, .iCL_PASSED,
      .iCL_SELFTEST, .HZ_SHORT, .HZ_ACTIVE, .CL_STATE] ++ flds [.keepPending, .evLog, .queues, .requeued, .held]

/-- What EQ_APPLY may change. -/
def Changes.eqApply : List Part :=
  regs [.iWL_EQREJ, .iWL_EQACK, .WL_COEFF, .iWL_TSAT, .iWL_TS] ++ flds [.eqReqs, .sent, .msgBlocks]

/-- What EQ_DONE may change. -/
def Changes.eqDone : List Part :=
  regs [.WL_EYE_H, .WL_EYE_W, .iWL_NEG, .WL_MSG_ERRORS, .iWR_HIST, .iWR_RUN, .iWR_DESC, .WR_BLOCK_ERRS,
      .WR_MESSAGES] ++ flds [.sent, .seqs, .eqReqs]

/-- What EQ_REQ may change. -/
def Changes.eqReq : List Part :=
  regs [.iWL_REQN, .iWL_NEG, .WL_MSG_ERRORS, .iWR_HIST, .iWR_RUN, .iWR_DESC, .WR_BLOCK_ERRS, .WR_MESSAGES] ++ flds
      [.eqReqs, .sent, .seqs]

/-- What ETH_FRAME_RECEIVE may change. -/
def Changes.ethFrameReceive : List Part :=
  regs [.ETH_FEC_UNCORR, .ETH_FEC_CORR, .ETH_RX_FRAMES, .ETH_OVERSIZE, .ETH_FCS_ERR, .ETH_CUT, .ETH_STOMPED,
      .ETH_FWD_DROPS, .ETH_STORED, .NET_UNCLAIMED, .RQ_DROPS, .RQ_FRAMES, .RQ_LEVEL] ++ flds [.macs, .sent,
      .egress, .waits, .rxq]

/-- What ETH_MODE_WRITE may change. -/
def Changes.ethModeWrite : List Part :=
  regs [.ETH_MODE, .ETH_FEC, .ETH_AN, .iACC_STATUS, .iACC_ID, .ETH_LINK, .PP_STATE, .EV_COUNT, .NQ_SEQ, .NQ_LOST]
      ++ flds [.keepPending, .status, .egress, .evLog, .queues]

/-- What EYE_ASSERT_EDGE may change. -/
def Changes.eyeAssertEdge : List Part :=
  regs [.EYE_EDGES, .iEYE_END, .iEYE_ON, .LC_REQ_MISSED, .iLC_EVENT, .iEYE_LAST, .iEYE_K, .iEYE_FRAME] ++ flds
      [.eyeEdges]

/-- What EYE_CTRL_ARM may change. -/
def Changes.eyeCtrlArm : List Part :=
  regs [.iACC_STATUS, .iACC_ID, .iEYE_FRAME, .iEYE_LAST, .iEYE_K, .EYE_STATE] ++ flds [.status, .eyeEdges]

/-- What EYE_CTRL_DISARM may change. -/
def Changes.eyeCtrlDisarm : List Part :=
  regs [.iEYE_LAST, .EYE_STATE, .iEYE_ON, .iACC_STATUS, .iACC_ID] ++ flds [.eyeEdges, .status]

/-- What EYE_PARAM_WRITE may change. -/
def Changes.eyeParamWrite : List Part :=
  regs [.EYE_MODE, .EYE_START, .EYE_PERIOD, .EYE_WIDTH, .EYE_COUNT, .EYE_GEN, .EYE_EVERY, .EYE_OFFSET,
      .iACC_STATUS, .iACC_ID] ++ flds [.status, .keepPending]

/-- What FASTWAKE_DONE may change. -/
def Changes.fastwakeDone : List Part :=
  regs [.iWL_BUSY, .iWL_CTX, .iWL_FORMER, .iWL_TSAT, .iWL_EQREJ, .iWL_BLK, .iWL_BIT, .WL_COEFF, .iWL_SINCE,
      .iWL_PH, .WL_LANE_STATE, .WL_RETRAINS, .iWL_MSEQ] ++ flds [.retrains, .highReqs, .normalReqs, .msgBlocks,
      .moves, .fwd, .sent]

/-- What FRAME_BOUNDARY may change. -/
def Changes.frameBoundary : List Part :=
  flds [.sent, .awaiting, .taps, .rejected, .draws, .evLog, .queues, .requeued, .tileQueue, .held, .ring,
      .keepPending, .eyeEdges, .disabledOwed, .moves, .retrains, .msgBlocks, .grants, .highReqs, .normalReqs, .fwd,
      .lutShadow, .luts, .accepted, .commits, .staged, .frameA, .frameB] ++ [.anyReg]

/-- What FRAME_RECORD_PUBLISH may change. -/
def Changes.frameRecordPublish : List Part :=
  regs [.FR_FLAGS, .FR_FRAME, .FR_DIGEST, .FR_LAST, .SYN_CAL_POISON, .SYN_DIR_CLAMPS, .UR_LINES_TOTAL,
      .FR_GUARANTEED, .EV_COUNT, .NQ_SEQ, .NQ_LOST] ++ flds [.awaiting, .historyA, .historyB, .taps, .evLog,
      .queues]

/-- What FW_PROGRAM may change. -/
def Changes.fwProgram : List Part :=
  regs [.iACC_STATUS, .iACC_ID, .iNOR_VALID, .FW_PROG_STATE, .iFW_TARGET] ++ flds [.status]

/-- What FW_PROGRAM_DONE may change. -/
def Changes.fwProgramDone : List Part :=
  regs [.iNOR_PLEN, .iNOR_VERSION, .iNOR_VALID, .FW_PROG_STATE, .MS_FREEZES, .MS_FROZEN_INGEST, .MS_FROZEN_CORE,
      .EV_COUNT, .NQ_SEQ, .NQ_LOST, .STR_STATE, .HZ_ACTIVE, .CL_STATE, .LC_RESULT, .LC_STATE, .SK_STATE, .iSK_DONE,
      .iSK_FROZEN_JOB, .GC_STATE, .iPIP_FROZE_NS, .iGC_NW, .iGC_NR, .iGC_NI, .iGC_BUF, .iGC_OUT, .iGC_DONE,
      .iGC_FROZEN_JOB, .QP_BYTES, .QP_OVER, .iNRR_STEP, .MS_POISON_READS, .MS_CORRECTED, .CH_CORRECTED,
      .CH_UNCORRECTABLE, .PN_LOST] ++ flds [.freezeLog, .evLog, .queues, .ingest, .seen, .waits, .banks, .traffic,
      .writeBacks, .poisonLog]

/-- What FW_SWITCH_COMMIT may change. -/
def Changes.fwSwitchCommit : List Part :=
  regs [.iACC_STATUS, .iACC_ID, .FW_STATE, .iPLV_RESET, .iPIP_FROZE_NS, .MS_FROZEN_CORE, .SU_LAST_RESET, .LF_WARM,
      .FW_RESTARTS, .iPHASE, .iWARM_CAUSE, .FW_PROG_STATE, .EV_COUNT, .NQ_SEQ, .NQ_LOST, .CAL_STATE, .CUE_STATE,
      .PG_STATE, .WL_CAL_RESULT, .iWL_MSEQ, .iBOOT_TRIAL, .iBOOT_IMAGE, .KP_WRITES, .iTRI, .KP_REFUSED, .iKEEP_TRY]
      ++ flds [.status, .evLog, .queues, .deliveries, .fwd, .sent, .msgBlocks, .triPending, .keepPending, .records,
      .keeperQueue, .keepDeferred]

/-- What FW_SWITCH_RESTART may change. -/
def Changes.fwSwitchRestart : List Part :=
  regs [.iACC_STATUS, .iACC_ID, .FW_STATE, .iPLV_RESET, .iPIP_FROZE_NS, .MS_FROZEN_CORE, .SU_LAST_RESET, .LF_WARM,
      .FW_RESTARTS, .iPHASE, .iWARM_CAUSE, .FW_PROG_STATE, .EV_COUNT, .NQ_SEQ, .NQ_LOST, .CAL_STATE, .CUE_STATE,
      .PG_STATE, .WL_CAL_RESULT, .iWL_MSEQ, .iBOOT_TRIAL, .iBOOT_IMAGE, .KP_WRITES, .iTRI, .KP_REFUSED, .iKEEP_TRY]
      ++ flds [.sent, .status, .evLog, .queues, .deliveries, .fwd, .msgBlocks, .triPending, .keepPending, .records,
      .keeperQueue, .keepDeferred]

/-- What FW_SWITCH_TRIAL may change. -/
def Changes.fwSwitchTrial : List Part :=
  regs [.iACC_STATUS, .iACC_ID, .FW_STATE, .iPLV_RESET, .iPIP_FROZE_NS, .MS_FROZEN_CORE, .SU_LAST_RESET, .LF_WARM,
      .FW_RESTARTS, .iPHASE, .iWARM_CAUSE, .FW_PROG_STATE, .EV_COUNT, .NQ_SEQ, .NQ_LOST, .CAL_STATE, .CUE_STATE,
      .PG_STATE, .WL_CAL_RESULT, .iWL_MSEQ, .iBOOT_TRIAL, .iBOOT_IMAGE, .KP_WRITES, .iTRI, .KP_REFUSED, .iKEEP_TRY]
      ++ flds [.sent, .status, .evLog, .queues, .deliveries, .fwd, .msgBlocks, .triPending, .keepPending, .records,
      .keeperQueue, .keepDeferred]

/-- What FWD_MSG_RESEND may change. -/
def Changes.fwdMsgResend : List Part :=
  regs [.EV_COUNT, .NQ_SEQ, .NQ_LOST] ++ flds [.fwd, .sent, .msgBlocks, .evLog, .queues]

/-- What GC_ENABLE_DISABLE may change. -/
def Changes.gcEnableDisable : List Part :=
  regs [.iACC_STATUS, .iACC_ID, .TAP_STATE, .TAP_ENABLE, .TAP_DROPS, .GC_ENABLE, .GC_STATE, .EV_COUNT, .NQ_SEQ,
      .NQ_LOST, .MS_FREEZES, .MS_FROZEN_INGEST, .MS_FROZEN_CORE, .STR_STATE, .HZ_ACTIVE, .CL_STATE, .LC_RESULT,
      .LC_STATE, .SK_STATE, .iSK_DONE, .iSK_FROZEN_JOB, .iPIP_FROZE_NS, .iGC_NW, .iGC_NR, .iGC_NI, .iGC_BUF,
      .iGC_OUT, .iGC_DONE, .iGC_FROZEN_JOB, .QP_BYTES, .QP_OVER, .iNRR_STEP, .MS_POISON_READS, .MS_CORRECTED,
      .CH_CORRECTED, .CH_UNCORRECTABLE, .PN_LOST, .MS_RMW, .MS_RMW_POISON, .MS_POISONED, .iGC_OFF, .GC_HEAD,
      .GC_JOBS_OK, .GC_ABANDONED, .GC_JOBS_FAILED, .GC_LAST_STATUS] ++ flds [.status, .taps, .keepPending, .ingest,
      .disabledOwed, .evLog, .queues, .freezeLog, .seen, .waits, .banks, .traffic, .writeBacks, .poisonLog,
      .rowsAhead, .poison, .draws, .grants, .highReqs, .normalReqs] ++ [.mem]

/-- What GC_ENABLE_RESUME may change. -/
def Changes.gcEnableResume : List Part :=
  regs [.GC_ENABLE, .GC_STATE, .iACC_STATUS, .iACC_ID, .TAP_STATE, .TAP_ENABLE, .TAP_DROPS] ++ flds [.status,
      .keepPending, .taps]

/-- What GC_JOB_END may change. -/
def Changes.gcJobEnd : List Part :=
  regs [.MS_FREEZES, .MS_FROZEN_INGEST, .MS_FROZEN_CORE, .EV_COUNT, .NQ_SEQ, .NQ_LOST, .STR_STATE, .HZ_ACTIVE,
      .CL_STATE, .LC_RESULT, .LC_STATE, .SK_STATE, .iSK_DONE, .iSK_FROZEN_JOB, .GC_STATE, .iPIP_FROZE_NS, .iGC_NW,
      .iGC_NR, .iGC_NI, .iGC_BUF, .iGC_OUT, .iGC_DONE, .iGC_FROZEN_JOB, .QP_BYTES, .QP_OVER, .iNRR_STEP,
      .MS_POISON_READS, .MS_CORRECTED, .CH_CORRECTED, .CH_UNCORRECTABLE, .PN_LOST, .MS_RMW, .MS_RMW_POISON,
      .MS_POISONED, .GC_HEAD, .GC_JOBS_OK, .GC_ABANDONED, .GC_JOBS_FAILED, .GC_LAST_STATUS, .iGC_OFF, .TAP_STATE,
      .TAP_ENABLE, .TAP_DROPS] ++ flds [.freezeLog, .evLog, .queues, .ingest, .seen, .waits, .banks, .traffic,
      .writeBacks, .poisonLog, .rowsAhead, .poison, .disabledOwed, .draws, .grants, .highReqs, .normalReqs, .taps]
      ++ [.mem]

/-- What GC_JOB_START may change. -/
def Changes.gcJobStart : List Part :=
  regs [.GC_STATE, .MS_FREEZES, .MS_FROZEN_INGEST, .MS_FROZEN_CORE, .EV_COUNT, .NQ_SEQ, .NQ_LOST, .STR_STATE,
      .HZ_ACTIVE, .CL_STATE, .LC_RESULT, .LC_STATE, .SK_STATE, .iSK_DONE, .iSK_FROZEN_JOB, .iPIP_FROZE_NS, .iGC_NW,
      .iGC_NR, .iGC_NI, .iGC_BUF, .iGC_OUT, .iGC_DONE, .iGC_FROZEN_JOB, .QP_BYTES, .QP_OVER, .iNRR_STEP,
      .MS_POISON_READS, .MS_CORRECTED, .CH_CORRECTED, .CH_UNCORRECTABLE, .PN_LOST, .MS_RMW, .MS_RMW_POISON,
      .MS_POISONED, .iGC_TAG, .iGC_JOB, .GC_HEAD, .GC_JOBS_OK, .GC_ABANDONED, .GC_JOBS_FAILED, .GC_LAST_STATUS,
      .iGC_OFF, .TAP_STATE, .TAP_ENABLE, .TAP_DROPS] ++ flds [.draws, .highReqs, .normalReqs, .freezeLog, .evLog,
      .queues, .ingest, .seen, .waits, .banks, .traffic, .writeBacks, .poisonLog, .rowsAhead, .poison,
      .disabledOwed, .grants, .taps] ++ [.mem]

/-- What GC_RING_WRITE may change. -/
def Changes.gcRingWrite : List Part :=
  regs [.GC_RING_BASE, .GC_RING_SIZE, .iACC_STATUS, .iACC_ID] ++ flds [.status]

/-- What HARDWARE_SHUTDOWN may change. -/
def Changes.hardwareShutdown : List Part :=
  regs [.iPHASE, .iCMP_COOL, .iSHUT_OWED, .iG_RUN, .CK_THROTTLE_REQ, .iWL_SINCE, .WL_LANE_STATE, .iWL_PH, .iWL_CTX,
      .iWL_BUSY, .iCK_OUT, .iCK_START, .CK_FREQ, .iCK_SINCE, .CK_STATE, .iSSC_WAIT, .iSSC_RAMP] ++ flds [.sent,
      .msgBlocks, .grants, .highReqs, .normalReqs]

/-- What HOGEL_OVERRUN may change. -/
def Changes.hogelOverrun : List Part :=
  regs [.CL_FAULT_MASK, .CL_FENCED, .HZ_ENGINES_FENCED, .CL_LAST_FAULT, .EV_COUNT, .NQ_SEQ, .NQ_LOST, .iCL_PASSED,
      .iCL_SELFTEST, .HZ_SHORT, .HZ_ACTIVE, .CL_STATE] ++ flds [.keepPending, .evLog, .queues, .requeued, .held]

/-- What HZ_PROG_TARGET may change. -/
def Changes.hzProgTarget : List Part :=
  regs [.iACC_STATUS, .iACC_ID, .HZ_SWAP_STATE, .HZ_SWAP_CLUSTER, .iSWAP_OLD, .iSWAP_SLOT, .EV_COUNT, .NQ_SEQ,
      .NQ_LOST] ++ flds [.status, .evLog, .queues]

/-- What INGEST_TILE_DECODED may change. -/
def Changes.ingestTileDecoded : List Part :=
  regs [.HK_INGEST_REJECTED, .STR_DISCARDS, .MS_FREEZES, .MS_FROZEN_INGEST, .MS_FROZEN_CORE, .EV_COUNT, .NQ_SEQ,
      .NQ_LOST, .STR_STATE, .HZ_ACTIVE, .CL_STATE, .LC_RESULT, .LC_STATE, .SK_STATE, .iSK_DONE, .iSK_FROZEN_JOB,
      .GC_STATE, .iPIP_FROZE_NS, .iGC_NW, .iGC_NR, .iGC_NI, .iGC_BUF, .iGC_OUT, .iGC_DONE, .iGC_FROZEN_JOB,
      .QP_BYTES, .QP_OVER, .iNRR_STEP, .MS_POISON_READS, .MS_CORRECTED, .CH_CORRECTED, .CH_UNCORRECTABLE, .PN_LOST,
      .MS_RMW, .MS_RMW_POISON, .MS_POISONED] ++ flds [.ingest, .seen, .freezeLog, .evLog, .queues, .waits, .banks,
      .traffic, .writeBacks, .poisonLog, .ingestRefs, .rowsAhead, .poison] ++ [.mem]

/-- What INS_ENABLE_DISABLE may change. -/
def Changes.insEnableDisable : List Part :=
  regs [.iACC_STATUS, .iACC_ID, .INS_ENABLE, .iINS_STOP, .EV_COUNT, .NQ_SEQ, .NQ_LOST, .iINS_ELEC, .INS_STATE] ++
      flds [.status, .keepPending, .grants, .highReqs, .normalReqs, .disabledOwed, .evLog, .queues]

/-- What INS_ENABLE_RESUME may change. -/
def Changes.insEnableResume : List Part :=
  regs [.iACC_STATUS, .iACC_ID, .INS_ENABLE, .INS_STATE] ++ flds [.status, .keepPending]

/-- What INSOLE_IMAGE_WRITE may change. -/
def Changes.insoleImageWrite : List Part :=
  regs [.iACC_STATUS, .iACC_ID, .INS_IMAGE, .INS_STATE] ++ flds [.status, .keepPending, .grants, .highReqs,
      .normalReqs]

/-- What INSOLE_UPDATE_END may change. -/
def Changes.insoleUpdateEnd : List Part :=
  regs [.INS_UPDATES, .INS_KNOWN, .INS_SHOWN, .iINS_ELEC, .INS_STATE, .EV_COUNT, .NQ_SEQ, .NQ_LOST, .iINS_STOP,
      .INS_DISCHARGES] ++ flds [.grants, .highReqs, .normalReqs, .disabledOwed, .evLog, .queues]

/-- What INSOLE_UPDATE_START may change. -/
def Changes.insoleUpdateStart : List Part :=
  regs [.INS_STATE, .EV_COUNT, .NQ_SEQ, .NQ_LOST, .INS_BAND, .iINS_NEW, .iINS_OLD, .iINS_VHV, .iINS_WAVE, .iINS_N,
      .iINS_NEXT, .iINS_PASSES, .INS_KNOWN, .INS_FRAME, .iINS_STOP] ++ flds [.grants, .highReqs, .normalReqs,
      .evLog, .queues]

/-- What KEEP_RETRY may change. -/
def Changes.keepRetry : List Part :=
  regs [.iKEEP_TRY, .KP_REFUSED, .EV_COUNT, .NQ_SEQ, .NQ_LOST] ++ flds [.keepDeferred, .triPending, .records,
      .keeperQueue, .evLog, .queues]

/-- What KEEP_WRITE may change. -/
def Changes.keepWrite : List Part :=
  regs [.iKEEP_TRY, .KP_REFUSED, .EV_COUNT, .NQ_SEQ, .NQ_LOST] ++ flds [.records, .keeperQueue, .keepDeferred,
      .evLog, .queues]

/-- What KEEPER_SCRUB may change. -/
def Changes.keeperScrub : List Part :=
  regs [.SC_STATE, .SC_CORRECTED, .SC_POSITION, .iLAP_SLOW, .EV_COUNT, .NQ_SEQ, .NQ_LOST, .iLAP_START, .iLAP_OPEN,
      .SC_UNCORRECTABLE, .KP_REC_LOST, .KP_TWINS, .KP_REPAIRS, .iKEEP_TRY, .KP_REFUSED, .SC_LAP_LAST, .iLAP_BROKEN]
      ++ flds [.evLog, .queues, .keeperBad, .badLog, .records, .keeperQueue, .keepDeferred, .disabledOwed]

/-- What KEEPER_WRITE_DONE may change. -/
def Changes.keeperWriteDone : List Part :=
  regs [.KP_BUSY, .iTRI, .iLC_PAGE, .LC_STATE, .iLC_POS, .LC_BYTES, .LC_DONE, .iLC_ABANDON, .iLC_BURST, .LC_RESULT,
      .LC_MISMATCH, .MS_FREEZES, .MS_FROZEN_INGEST, .MS_FROZEN_CORE, .EV_COUNT, .NQ_SEQ, .NQ_LOST, .STR_STATE,
      .HZ_ACTIVE, .CL_STATE, .SK_STATE, .iSK_DONE, .iSK_FROZEN_JOB, .GC_STATE, .iPIP_FROZE_NS, .iGC_NW, .iGC_NR,
      .iGC_NI, .iGC_BUF, .iGC_OUT, .iGC_DONE, .iGC_FROZEN_JOB, .iNRR_STEP, .QP_BYTES, .QP_OVER, .MS_RMW,
      .MS_RMW_POISON, .MS_CORRECTED, .CH_CORRECTED, .CH_UNCORRECTABLE, .PN_LOST, .MS_POISONED, .iKEEP_TRY,
      .KP_REFUSED] ++ flds [.keeperBusy, .grants, .highReqs, .normalReqs, .egress, .keeperQueue, .freezeLog,
      .evLog, .queues, .ingest, .banks, .rowsAhead, .traffic, .seen, .waits, .writeBacks, .poison, .poisonLog,
      .laceBytes, .disabledOwed, .keeperBad, .keeperTorn, .records, .keepPending, .triPending, .keepDeferred] ++
      [.mem, .keeper]

/-- What KEEPER_WRITE_START may change. -/
def Changes.keeperWriteStart : List Part :=
  regs [.iLC_PAGE, .iLC_BURST, .LC_STATE, .LC_RESULT, .LC_MISMATCH, .MS_FREEZES, .MS_FROZEN_INGEST,
      .MS_FROZEN_CORE, .EV_COUNT, .NQ_SEQ, .NQ_LOST, .STR_STATE, .HZ_ACTIVE, .CL_STATE, .SK_STATE, .iSK_DONE,
      .iSK_FROZEN_JOB, .GC_STATE, .iPIP_FROZE_NS, .iGC_NW, .iGC_NR, .iGC_NI, .iGC_BUF, .iGC_OUT, .iGC_DONE,
      .iGC_FROZEN_JOB, .iNRR_STEP, .QP_BYTES, .QP_OVER, .MS_RMW, .MS_RMW_POISON, .MS_CORRECTED, .CH_CORRECTED,
      .CH_UNCORRECTABLE, .PN_LOST, .MS_POISONED, .iLC_ABANDON, .KP_REFUSED, .iKEEP_TRY, .KP_WRITES, .KP_BUSY] ++
      flds [.grants, .highReqs, .normalReqs, .keeperQueue, .triPending, .laceBytes, .freezeLog, .evLog, .queues,
      .ingest, .banks, .rowsAhead, .traffic, .seen, .waits, .writeBacks, .poison, .poisonLog, .disabledOwed,
      .records, .keepDeferred, .keeperBusy] ++ [.mem]

/-- What KP_PROTECT_WRITE may change. -/
def Changes.kpProtectWrite : List Part :=
  regs [.KP_PROTECT, .iACC_STATUS, .iACC_ID] ++ flds [.status, .keepPending, .triPending, .keeperQueue]

/-- What LACE_BURST may change. -/
def Changes.laceBurst : List Part :=
  regs [.LC_STATE, .iLC_WDRAW, .iLC_BURST, .iLC_EVENT, .LC_WITHDRAWN, .MS_FREEZES, .MS_FROZEN_INGEST,
      .MS_FROZEN_CORE, .EV_COUNT, .NQ_SEQ, .NQ_LOST, .STR_STATE, .HZ_ACTIVE, .CL_STATE, .LC_RESULT, .SK_STATE,
      .iSK_DONE, .iSK_FROZEN_JOB, .GC_STATE, .iPIP_FROZE_NS, .iGC_NW, .iGC_NR, .iGC_NI, .iGC_BUF, .iGC_OUT,
      .iGC_DONE, .iGC_FROZEN_JOB, .QP_BYTES, .QP_OVER, .iNRR_STEP, .MS_POISON_READS, .MS_CORRECTED, .CH_CORRECTED,
      .CH_UNCORRECTABLE, .PN_LOST, .RQ_LEVEL, .LC_MISMATCH, .LC_BYTES, .LC_DONE, .LC_CUR_ADDR, .iLC_NEXT, .MS_RMW,
      .MS_RMW_POISON, .MS_POISONED, .iLC_ABANDON, .iLC_HALF, .iLC_POS, .iLC_PAGE] ++ flds [.sent, .seen,
      .freezeLog, .evLog, .queues, .ingest, .waits, .banks, .traffic, .writeBacks, .poisonLog, .draws, .badLog,
      .rxq, .rowsAhead, .poison, .laceBytes, .disabledOwed, .keeperQueue, .egress] ++ [.mem]

/-- What LACE_BUS_ERROR may change. -/
def Changes.laceBusError : List Part :=
  regs [.LS_BUS_ERRORS, .iLS_ADDR, .iLS_LACE, .iLS_CAUSE, .LS_BUS_STATE]

/-- What LACE_BUS_STOPPED may change. -/
def Changes.laceBusStopped : List Part :=
  regs [.LS_BUS_ADDR, .LS_BUS_LACE, .LS_BUS_CAUSE, .LS_BUS_STATE, .LC_STATE, .LC_DONE, .iLC_PAGE, .EV_COUNT,
      .NQ_SEQ, .NQ_LOST] ++ flds [.laceBytes, .egress, .keeperQueue, .evLog, .queues]

/-- What LACE_COMPLETE may change. -/
def Changes.laceComplete : List Part :=
  regs [.LC_BYTES, .LC_DONE, .LC_CUR_ADDR, .LC_STATE, .iLC_NEXT, .LC_RESULT, .LC_MISMATCH, .MS_FREEZES,
      .MS_FROZEN_INGEST, .MS_FROZEN_CORE, .EV_COUNT, .NQ_SEQ, .NQ_LOST, .STR_STATE, .HZ_ACTIVE, .CL_STATE,
      .SK_STATE, .iSK_DONE, .iSK_FROZEN_JOB, .GC_STATE, .iPIP_FROZE_NS, .iGC_NW, .iGC_NR, .iGC_NI, .iGC_BUF,
      .iGC_OUT, .iGC_DONE, .iGC_FROZEN_JOB, .iNRR_STEP, .QP_BYTES, .QP_OVER, .MS_RMW, .MS_RMW_POISON,
      .MS_CORRECTED, .CH_CORRECTED, .CH_UNCORRECTABLE, .PN_LOST, .MS_POISONED, .iLC_ABANDON, .iLC_HALF] ++ flds
      [.seen, .freezeLog, .evLog, .queues, .ingest, .banks, .rowsAhead, .traffic, .waits, .writeBacks, .poison,
      .poisonLog, .laceBytes, .disabledOwed] ++ [.mem]

/-- What LACE_DESCRIPTOR_START may change. -/
def Changes.laceDescriptorStart : List Part :=
  regs [.iLC_NODESC, .iLC_NEXT, .LC_DONE, .LC_CUR_DESC, .LC_CUR_ADDR, .LC_SH_STATE, .MS_FREEZES, .MS_FROZEN_INGEST,
      .MS_FROZEN_CORE, .EV_COUNT, .NQ_SEQ, .NQ_LOST, .STR_STATE, .HZ_ACTIVE, .CL_STATE, .LC_RESULT, .LC_STATE,
      .SK_STATE, .iSK_DONE, .iSK_FROZEN_JOB, .GC_STATE, .iPIP_FROZE_NS, .iGC_NW, .iGC_NR, .iGC_NI, .iGC_BUF,
      .iGC_OUT, .iGC_DONE, .iGC_FROZEN_JOB, .QP_BYTES, .QP_OVER, .iNRR_STEP, .MS_POISON_READS, .MS_CORRECTED,
      .CH_CORRECTED, .CH_UNCORRECTABLE, .PN_LOST, .iLC_HALF, .iLC_EVENT, .iLC_BURST, .iLC_POS, .iLC_WDRAW,
      .LC_MISMATCH, .MS_RMW, .MS_RMW_POISON, .MS_POISONED, .iLC_PAGE, .iLC_ABANDON] ++ flds [.draws, .freezeLog,
      .evLog, .queues, .ingest, .seen, .waits, .banks, .traffic, .writeBacks, .poisonLog, .laceBytes, .rowsAhead,
      .poison, .keeperQueue, .disabledOwed] ++ [.mem]

/-- What LACE_ERROR may change. -/
def Changes.laceError : List Part :=
  regs [.LC_STATE, .iLC_PAGE, .MS_FREEZES, .MS_FROZEN_INGEST, .MS_FROZEN_CORE, .EV_COUNT, .NQ_SEQ, .NQ_LOST,
      .STR_STATE, .HZ_ACTIVE, .CL_STATE, .LC_RESULT, .SK_STATE, .iSK_DONE, .iSK_FROZEN_JOB, .GC_STATE,
      .iPIP_FROZE_NS, .iGC_NW, .iGC_NR, .iGC_NI, .iGC_BUF, .iGC_OUT, .iGC_DONE, .iGC_FROZEN_JOB, .iNRR_STEP,
      .QP_BYTES, .QP_OVER, .MS_RMW, .MS_RMW_POISON, .MS_CORRECTED, .CH_CORRECTED, .CH_UNCORRECTABLE, .PN_LOST,
      .MS_POISONED, .iLC_BURST, .iLC_POS, .LC_BYTES, .LC_DONE, .LC_MISMATCH, .iLC_ABANDON] ++ flds [.keeperBad,
      .sent, .laceBytes, .keeperQueue, .freezeLog, .evLog, .queues, .ingest, .banks, .rowsAhead, .traffic, .seen,
      .waits, .writeBacks, .poison, .poisonLog, .egress, .disabledOwed, .badLog] ++ [.mem]

/-- What LACE_HALF may change. -/
def Changes.laceHalf : List Part :=
  regs [.LC_BYTES, .LC_DONE, .iLC_HALF, .EV_COUNT, .NQ_SEQ, .NQ_LOST] ++ flds [.evLog, .queues]

/-- What LANE_ACTIVE_ENTRY may change. -/
def Changes.laneActiveEntry : List Part :=
  regs [.iWL_COVER, .iWL_SINCE, .WL_LANE_STATE, .iWL_PH, .iWL_CTX, .iWL_BUSY, .WL_SPARE_MAP, .iWL_FORMER,
      .iWL_MSEQ, .iWL_TSAT, .iWL_EQREJ, .iWL_BLK, .iWL_BIT, .WL_COEFF, .WL_RETRAINS] ++ flds [.sent, .msgBlocks,
      .grants, .highReqs, .normalReqs, .keepPending, .moves, .fwd, .retrains]

/-- What LANE_IDLE_ENTRY may change. -/
def Changes.laneIdleEntry : List Part :=
  regs [.iWL_SINCE, .WL_LANE_STATE, .iWL_PH, .iWL_CTX, .iWL_BUSY] ++ flds [.sent, .msgBlocks, .grants, .highReqs,
      .normalReqs]

/-- What LANE_STATUS may change. -/
def Changes.laneStatus : List Part :=
  regs [.WL_MSG_ERRORS, .iWR_HIST, .iWR_RUN, .iWR_DESC, .WR_BLOCK_ERRS, .WR_MESSAGES, .iWL_CFGACK, .WL_BLOCK_ERRS,
      .WL_EYE_H, .WL_EYE_W, .WL_FW_FAILS, .iWL_BLK, .iWL_BIT, .iWL_BUSY, .iWL_CTX, .iWL_FORMER, .iWL_TSAT,
      .iWL_EQREJ, .WL_COEFF, .iWL_SINCE, .iWL_PH, .WL_LANE_STATE, .WL_RETRAINS, .iWL_MSEQ, .iWL_CFG, .iWL_REQN,
      .iWL_NEG, .iWL_FAILS, .WL_CAUSE, .WL_SPARE_MAP, .EV_COUNT, .NQ_SEQ, .NQ_LOST, .iWL_PULSE, .iWL_ABS,
      .iWL_PRES, .WL_CRC_FAILS] ++ flds [.sent, .seqs, .fwd, .retrains, .highReqs, .normalReqs, .msgBlocks, .moves,
      .eqReqs, .draws, .grants, .keepPending, .evLog, .queues, .crcWindow]

/-- What LANE_TIMEOUT may change. -/
def Changes.laneTimeout : List Part :=
  regs [.iWL_COVER, .WL_SPARE_MAP, .iWL_BUSY, .iWL_CTX, .iWL_FORMER, .iWL_TSAT, .iWL_EQREJ, .iWL_BLK, .iWL_BIT,
      .WL_COEFF, .iWL_SINCE, .iWL_PH, .WL_LANE_STATE, .WL_RETRAINS, .iWL_MSEQ, .iWL_FAILS, .WL_CAUSE, .EV_COUNT,
      .NQ_SEQ, .NQ_LOST, .iWL_PULSE, .iWL_ABS, .iWL_PRES] ++ flds [.sent, .keepPending, .retrains, .highReqs,
      .normalReqs, .msgBlocks, .moves, .fwd, .grants, .draws, .evLog, .queues]

/-- What LAST_RATE_WRITE may change. -/
def Changes.lastRateWrite : List Part :=
  regs [.iACC_STATUS, .iACC_ID, .iG_PENDRATE, .LAST_NEXT, .iEYE_FRAME] ++ flds [.status, .staged]

/-- What LC_ARM may change. -/
def Changes.lcArm : List Part :=
  regs [.LC_SH_STATE, .iACC_STATUS, .iACC_ID] ++ flds [.status]

/-- What LC_CTRL_ABANDON may change. -/
def Changes.lcCtrlAbandon : List Part :=
  regs [.iLC_NEXT, .iACC_STATUS, .iACC_ID, .iLC_ABANDON, .LC_STATE, .EV_COUNT, .NQ_SEQ, .NQ_LOST] ++ flds [.status,
      .laceBytes, .disabledOwed, .evLog, .queues, .egress]

/-- What LC_CTRL_RESUME may change. -/
def Changes.lcCtrlResume : List Part :=
  regs [.iACC_STATUS, .iACC_ID, .LC_STATE, .iLC_NEXT, .iLC_NODESC, .iLC_EVENT, .iLC_BURST, .iLC_POS, .LC_DONE,
      .LC_RESULT, .LC_MISMATCH, .MS_FREEZES, .MS_FROZEN_INGEST, .MS_FROZEN_CORE, .EV_COUNT, .NQ_SEQ, .NQ_LOST,
      .STR_STATE, .HZ_ACTIVE, .CL_STATE, .SK_STATE, .iSK_DONE, .iSK_FROZEN_JOB, .GC_STATE, .iPIP_FROZE_NS, .iGC_NW,
      .iGC_NR, .iGC_NI, .iGC_BUF, .iGC_OUT, .iGC_DONE, .iGC_FROZEN_JOB, .iNRR_STEP, .QP_BYTES, .QP_OVER, .MS_RMW,
      .MS_RMW_POISON, .MS_CORRECTED, .CH_CORRECTED, .CH_UNCORRECTABLE, .PN_LOST, .MS_POISONED, .iLC_PAGE,
      .iLC_ABANDON] ++ flds [.status, .laceBytes, .freezeLog, .evLog, .queues, .ingest, .banks, .rowsAhead,
      .traffic, .seen, .waits, .writeBacks, .poison, .poisonLog, .keeperQueue, .disabledOwed] ++ [.mem]

/-- What LC_DISARM may change. -/
def Changes.lcDisarm : List Part :=
  regs [.LC_SH_STATE, .iACC_STATUS, .iACC_ID] ++ flds [.status]

/-- What LC_ENABLE_DISABLE may change. -/
def Changes.lcEnableDisable : List Part :=
  regs [.iACC_STATUS, .iACC_ID, .LC_ENABLE, .iLC_NEXT, .LC_CUR_ADDR, .iLC_ABANDON, .LC_STATE, .EV_COUNT, .NQ_SEQ,
      .NQ_LOST, .iLC_BURST, .iLC_PAGE, .LC_RESULT, .LC_MISMATCH, .MS_FREEZES, .MS_FROZEN_INGEST, .MS_FROZEN_CORE,
      .STR_STATE, .HZ_ACTIVE, .CL_STATE, .SK_STATE, .iSK_DONE, .iSK_FROZEN_JOB, .GC_STATE, .iPIP_FROZE_NS, .iGC_NW,
      .iGC_NR, .iGC_NI, .iGC_BUF, .iGC_OUT, .iGC_DONE, .iGC_FROZEN_JOB, .iNRR_STEP, .QP_BYTES, .QP_OVER, .MS_RMW,
      .MS_RMW_POISON, .MS_CORRECTED, .CH_CORRECTED, .CH_UNCORRECTABLE, .PN_LOST, .MS_POISONED] ++ flds [.status,
      .keepPending, .laceBytes, .disabledOwed, .evLog, .queues, .egress, .keeperQueue, .freezeLog, .ingest, .banks,
      .rowsAhead, .traffic, .seen, .waits, .writeBacks, .poison, .poisonLog] ++ [.mem]

/-- What LC_ENABLE_RESUME may change. -/
def Changes.lcEnableResume : List Part :=
  regs [.iACC_STATUS, .iACC_ID, .LC_ENABLE, .LC_STATE] ++ flds [.status, .keepPending]

/-- What LIFETIME_HOUR_WRITE may change. -/
def Changes.lifetimeHourWrite : List Part :=
  regs [.iKEEP_TRY, .KP_REFUSED, .EV_COUNT, .NQ_SEQ, .NQ_LOST] ++ flds [.keepPending, .records, .keeperQueue,
      .keepDeferred, .evLog, .queues]

/-- What LIFETIME_MINUTE may change. -/
def Changes.lifetimeMinute : List Part :=
  regs [.LF_EQUIV_H, .iEQUIV_MIN, .LF_TJ_HIST, .iHIST_MIN, .iTJ_SUM, .LF_HOURS, .iMIN_COUNT, .LF_TJ_MEAN,
      .iMIN_MAX, .LF_LIFE_USED] ++ flds [.draws]

/-- What LINK_DOWN may change. -/
def Changes.linkDown : List Part :=
  regs [.ETH_LINK, .PP_STATE, .EV_COUNT, .NQ_SEQ, .NQ_LOST, .PTP_UTC_OFFSET, .PTP_GM_ID, .iPTP_SOURCE,
      .PTP_SLAVE_PORT, .iPTP_RUN, .iPTP_FIRST, .iSYNC_STATE, .iSYNC_RUN, .iSERVO, .PTP_STATE, .TB_SOURCE] ++ flds
      [.egress, .evLog, .queues]

/-- What LINK_UP may change. -/
def Changes.linkUp : List Part :=
  regs [.iETH_FEC, .ETH_LINK, .PP_STATE, .EV_COUNT, .NQ_SEQ, .NQ_LOST] ++ flds [.evLog, .queues]

/-- What LS_BUS_CLEAR may change. -/
def Changes.lsBusClear : List Part :=
  regs [.LS_BUS_STATE, .iACC_STATUS, .iACC_ID] ++ flds [.status]

/-- What LUT_WRITE may change. -/
def Changes.lutWrite : List Part :=
  regs [.IN_LUT_DATA, .OUT_LUT_DATA, .iACC_STATUS, .iACC_ID] ++ flds [.lutShadow, .status]

/-- What MEMORY_READ may change. -/
def Changes.memoryRead : List Part :=
  regs [.MS_FREEZES, .MS_FROZEN_INGEST, .MS_FROZEN_CORE, .EV_COUNT, .NQ_SEQ, .NQ_LOST, .STR_STATE, .HZ_ACTIVE,
      .CL_STATE, .LC_RESULT, .LC_STATE, .SK_STATE, .iSK_DONE, .iSK_FROZEN_JOB, .GC_STATE, .iPIP_FROZE_NS, .iGC_NW,
      .iGC_NR, .iGC_NI, .iGC_BUF, .iGC_OUT, .iGC_DONE, .iGC_FROZEN_JOB, .QP_BYTES, .QP_OVER, .iNRR_STEP,
      .MS_POISON_READS, .MS_CORRECTED, .CH_CORRECTED, .CH_UNCORRECTABLE, .PN_LOST, .HZ_SHORT, .LC_MISMATCH,
      .TAP_STATE, .TAP_ENABLE, .TAP_DROPS] ++ flds [.answer, .freezeLog, .evLog, .queues, .ingest, .seen, .waits,
      .banks, .traffic, .writeBacks, .poisonLog, .held, .taps, .sent]

/-- What MEMORY_WRITE may change. -/
def Changes.memoryWrite : List Part :=
  regs [.MS_FREEZES, .MS_FROZEN_INGEST, .MS_FROZEN_CORE, .EV_COUNT, .NQ_SEQ, .NQ_LOST, .STR_STATE, .HZ_ACTIVE,
      .CL_STATE, .LC_RESULT, .LC_STATE, .SK_STATE, .iSK_DONE, .iSK_FROZEN_JOB, .GC_STATE, .iPIP_FROZE_NS, .iGC_NW,
      .iGC_NR, .iGC_NI, .iGC_BUF, .iGC_OUT, .iGC_DONE, .iGC_FROZEN_JOB, .iNRR_STEP, .QP_BYTES, .QP_OVER, .MS_RMW,
      .MS_RMW_POISON, .MS_CORRECTED, .CH_CORRECTED, .CH_UNCORRECTABLE, .PN_LOST, .MS_POISONED, .HZ_SHORT,
      .LC_MISMATCH, .TAP_STATE, .TAP_ENABLE, .TAP_DROPS] ++ flds [.answer, .freezeLog, .evLog, .queues, .ingest,
      .banks, .rowsAhead, .traffic, .seen, .waits, .writeBacks, .poison, .poisonLog, .held, .taps, .sent] ++ [.mem]

/-- What MS_RELEASE may change. -/
def Changes.msRelease : List Part :=
  regs [.iACC_STATUS, .iACC_ID, .MS_FROZEN_INGEST, .MS_FROZEN_CORE, .STR_STATE, .iPIP_FROZE_NS, .iCL_SELFTEST,
      .HZ_ACTIVE, .CL_STATE, .iLC_NEXT, .iLC_ABANDON, .LC_STATE, .EV_COUNT, .NQ_SEQ, .NQ_LOST, .iLC_PAGE,
      .iSK_FROZEN_JOB, .SK_STATE, .SK_HEAD, .SK_JOBS_OK, .SK_ABANDONED, .SK_JOBS_FAILED, .SK_LAST_STATUS,
      .MS_FREEZES, .LC_RESULT, .iSK_DONE, .GC_STATE, .iGC_NW, .iGC_NR, .iGC_NI, .iGC_BUF, .iGC_OUT, .iGC_DONE,
      .iGC_FROZEN_JOB, .iNRR_STEP, .QP_BYTES, .QP_OVER, .MS_RMW, .MS_RMW_POISON, .MS_CORRECTED, .CH_CORRECTED,
      .CH_UNCORRECTABLE, .PN_LOST, .MS_POISONED, .GC_HEAD, .GC_JOBS_OK, .GC_ABANDONED, .GC_JOBS_FAILED,
      .GC_LAST_STATUS, .MS_POISON_READS, .iGC_OFF, .TAP_STATE, .TAP_ENABLE, .TAP_DROPS] ++ flds [.status,
      .laceBytes, .disabledOwed, .evLog, .queues, .egress, .keeperQueue, .grants, .highReqs, .normalReqs,
      .freezeLog, .ingest, .banks, .rowsAhead, .traffic, .seen, .waits, .writeBacks, .poison, .poisonLog, .draws,
      .taps] ++ [.mem]

/-- What MS_RETRAIN_EN_DISABLE may change. -/
def Changes.msRetrainEnDisable : List Part :=
  regs [.iACC_STATUS, .iACC_ID, .MS_RETRAIN_EN, .iRT_DRAIN, .iRT_LEFT, .EV_COUNT, .NQ_SEQ, .NQ_LOST] ++ flds
      [.status, .keepPending, .disabledOwed, .evLog, .queues]

/-- What MSIX_ENABLE may change. -/
def Changes.msixEnable : List Part :=
  regs [.iMSIX_EN, .iMSIX_PEND, .iMSIX_ADDR, .iMSIX_DATA, .iMSIX_MASK] ++ flds [.sent]

/-- What NQ_MODE_WRITE may change. -/
def Changes.nqModeWrite : List Part :=
  regs [.iACC_STATUS, .iACC_ID, .NQ_MODE] ++ flds [.status, .queues, .keepPending]

/-- What NQ_READ may change. -/
def Changes.nqRead : List Part :=
  regs [.NQ_READ, .iACC_STATUS, .iACC_ID, .iCAP_FULL] ++ flds [.value, .status, .draws, .caps, .queues]

/-- What NQ_SIGNAL may change. -/
def Changes.nqSignal : List Part :=
  regs [.iMSIX_PEND, .iSS_NOTIFY] ++ flds [.queues, .sent, .egress, .waits]

/-- What PB_CTRL_ARM may change. -/
def Changes.pbCtrlArm : List Part :=
  regs [.PB_REFUSED, .iPB_START, .iPB_ENDMODE, .iPB_FIRST, .iPB_CUE, .PB_STATE, .iACC_STATUS, .iACC_ID] ++ flds
      [.status]

/-- What PDELAY_REQ_SEND may change. -/
def Changes.pdelayReqSend : List Part :=
  regs [.iPP_SENT, .iPP_T1, .iPP_SEQ] ++ flds [.sent, .egress, .waits]

/-- What PG_LOAD_DONE may change. -/
def Changes.pgLoadDone : List Part :=
  regs [.PG_K, .PG_VERSION, .PG_STATE, .MS_FREEZES, .MS_FROZEN_INGEST, .MS_FROZEN_CORE, .EV_COUNT, .NQ_SEQ,
      .NQ_LOST, .STR_STATE, .HZ_ACTIVE, .CL_STATE, .LC_RESULT, .LC_STATE, .SK_STATE, .iSK_DONE, .iSK_FROZEN_JOB,
      .GC_STATE, .iPIP_FROZE_NS, .iGC_NW, .iGC_NR, .iGC_NI, .iGC_BUF, .iGC_OUT, .iGC_DONE, .iGC_FROZEN_JOB,
      .QP_BYTES, .QP_OVER, .iNRR_STEP, .MS_POISON_READS, .MS_CORRECTED, .CH_CORRECTED, .CH_UNCORRECTABLE, .PN_LOST]
      ++ flds [.freezeLog, .evLog, .queues, .ingest, .seen, .waits, .banks, .traffic, .writeBacks, .poisonLog]

/-- What PIP_FREEZE_WATCHDOG may change. -/
def Changes.pipFreezeWatchdog : List Part :=
  regs [.iPLV_RESET, .iPIP_FROZE_NS, .MS_FROZEN_CORE, .SU_LAST_RESET, .LF_WARM, .FW_RESTARTS, .iPHASE,
      .iWARM_CAUSE, .FW_PROG_STATE, .EV_COUNT, .NQ_SEQ, .NQ_LOST, .CAL_STATE, .CUE_STATE, .PG_STATE,
      .WL_CAL_RESULT, .iWL_MSEQ, .iBOOT_TRIAL, .iBOOT_IMAGE, .KP_WRITES, .iTRI, .KP_REFUSED, .iKEEP_TRY] ++ flds
      [.sent, .evLog, .queues, .deliveries, .fwd, .msgBlocks, .triPending, .keepPending, .records, .keeperQueue,
      .keepDeferred]

/-- What PLL_LOCKED may change. -/
def Changes.pllLocked : List Part :=
  regs [.CK_BYPASS_NS, .CK_LOCK_TIME, .iCK_FAILS, .iCK_SINCE, .CK_STATE, .EV_COUNT, .NQ_SEQ, .NQ_LOST,
      .CK_THROTTLE_REQ, .iWL_IDLEORD, .iWL_COVER, .iWL_MAPRESET, .WL_SPARE_MAP, .iWL_PULSE, .iWL_FAILS, .iWL_ABS,
      .iWL_PRES, .iWL_CTX, .iWL_SINCE, .WL_LANE_STATE, .iWL_PH, .iWL_BUSY, .WL_CAUSE, .iWL_TSAT, .iWL_EQREJ,
      .iWL_BLK, .iWL_BIT, .WL_COEFF, .SO_FORCED, .iRT_BASE, .iHB_HELD, .iRT_WH, .iRT_WW, .iRT_RH, .iRT_RW,
      .iRT_SINCE, .iRT_LEFT, .iRT_SET0] ++ flds [.evLog, .queues, .moves, .retrains, .keepPending, .msgBlocks,
      .grants, .highReqs, .normalReqs, .draws]

/-- What PLL_RETRY may change. -/
def Changes.pllRetry : List Part :=
  regs [.iCK_OUT, .iCK_START, .CK_FREQ, .iCK_SINCE, .CK_STATE, .iSSC_WAIT, .iSSC_RAMP]

/-- What PLL_UNLOCK may change. -/
def Changes.pllUnlock : List Part :=
  regs [.CK_UNLOCKS, .iCK_WHY, .iCK_OUT, .iCK_START, .CK_FREQ, .iCK_SINCE, .CK_STATE, .iSSC_WAIT, .iSSC_RAMP,
      .EV_COUNT, .NQ_SEQ, .NQ_LOST, .CK_THROTTLE_REQ, .iWL_IDLEORD, .iWL_SINCE, .WL_LANE_STATE, .iWL_PH, .iWL_CTX,
      .iWL_BUSY, .iWL_TSAT, .iWL_EQREJ, .iWL_BLK, .iWL_BIT, .WL_COEFF, .SO_FORCED, .iS_SEEN, .SO_OUT_STATE,
      .PTP_UTC_OFFSET, .PTP_GM_ID, .iPTP_SOURCE, .PTP_SLAVE_PORT, .iPTP_RUN, .iPTP_FIRST, .PP_STATE, .iSYNC_STATE,
      .iSYNC_RUN, .iSERVO, .PTP_STATE, .TB_SOURCE, .ETH_LINK, .TB_RATE] ++ flds [.evLog, .queues, .moves,
      .retrains, .msgBlocks, .grants, .highReqs, .normalReqs, .frameA, .frameB, .egress]

/-- What PLOVAN_CLOSE may change. -/
def Changes.plovanClose : List Part :=
  plvFrame ++ regs [.STR_SESSION, .STR_STATE, .CG_OWNER, .CG_STATE, .EV_COUNT, .NQ_SEQ, .NQ_LOST] ++ flds [.evLog,
      .queues, .staged]

/-- What PLOVAN_OPEN may change. -/
def Changes.plovanOpen : List Part :=
  plvFrame ++ regs [.STR_SESSION, .STR_STATE, .STR_PACKETS, .STR_DISCARDS, .STR_TILES_LOST, .iSEQ_HIGH] ++ flds
      [.draws, .replay]

/-- What PLOVAN_READ may change. -/
def Changes.plovanRead : List Part :=
  plvFrame ++ regs [.iCAP_FULL] ++ flds [.status, .draws, .caps, .queues]

/-- What PLV_KEY_SET may change. -/
def Changes.plvKeySet : List Part :=
  regs [.iACC_STATUS, .iACC_ID, .iPLV_CLOSE, .EV_COUNT, .NQ_SEQ, .NQ_LOST, .STR_SESSION, .STR_STATE, .CG_OWNER,
      .CG_STATE] ++ regs sessionRegs ++ flds [.sent, .status, .keepPending, .evLog, .queues, .responses,
      .heldRequests, .egress, .waits, .staged] ++ [.keys]

/-- What PN_CLEAR may change. -/
def Changes.pnClear : List Part :=
  regs [.PN_LOST, .iACC_STATUS, .iACC_ID] ++ flds [.poisonLog, .status]

/-- What POWER_GRANT may change. -/
def Changes.powerGrant : List Part :=
  regs [.PW_GRANTS, .SK_STATE, .SC_STATE, .iWL_TSAT, .iWL_EQREJ, .iWL_BLK, .iWL_BIT, .WL_COEFF, .iWL_SINCE,
      .iWL_PH, .WL_LANE_STATE, .iWL_BUSY, .iWL_CTX, .iWL_FORMER, .WL_RETRAINS, .iWL_MSEQ] ++ flds [.sent,
      .highReqs, .normalReqs, .grants, .waits, .msgBlocks, .retrains, .moves, .fwd]

/-- What PRBS_REPORT may change. -/
def Changes.prbsReport : List Part :=
  regs [.WL_PRBS_ERR, .WL_MSG_ERRORS, .iWR_HIST, .iWR_RUN, .iWR_DESC, .WR_BLOCK_ERRS, .WR_MESSAGES] ++ flds [.sent,
      .seqs]

/-- What PTP_ANNOUNCE may change. -/
def Changes.ptpAnnounce : List Part :=
  regs [.PTP_UTC_OFFSET, .PTP_GM_ID, .iPTP_SOURCE, .PTP_SLAVE_PORT, .iPTP_RUN, .iPTP_FIRST, .PP_STATE,
      .iSYNC_STATE, .iSYNC_RUN, .iSERVO, .PTP_STATE, .TB_SOURCE] ++ flds [.foreign]

/-- What PTP_ANNOUNCE_TIMEOUT may change. -/
def Changes.ptpAnnounceTimeout : List Part :=
  regs [.PTP_UTC_OFFSET, .PTP_GM_ID, .iPTP_SOURCE, .PTP_SLAVE_PORT, .iPTP_RUN, .iPTP_FIRST, .PP_STATE,
      .iSYNC_STATE, .iSYNC_RUN, .iSERVO, .PTP_STATE, .TB_SOURCE, .TB_RATE, .EV_COUNT, .NQ_SEQ, .NQ_LOST] ++ flds
      [.foreign, .evLog, .queues]

/-- What PTP_DELAY_REQ_SEND may change. -/
def Changes.ptpDelayReqSend : List Part :=
  regs [.iPTP_SENT, .iPTP_WAIT, .iPTP_T3, .iPTP_SEQ] ++ flds [.sent, .egress, .waits]

/-- What PTP_SYNC may change. -/
def Changes.ptpSync : List Part :=
  regs [.iPTP_DIFF, .PTP_OFFSET, .iPTP_FIRST, .iSYNC_STATE, .iSYNC_RUN, .iSERVO, .iPTP_RUN, .PTP_STATE, .TB_SOURCE,
      .TB_STEPS, .iCAP_STEPPED, .EV_COUNT, .NQ_SEQ, .NQ_LOST, .EYE_LATE_COUNT, .EYE_EDGES, .iEYE_END, .iEYE_ON,
      .LC_REQ_MISSED, .iLC_EVENT, .iEYE_LAST, .iEYE_K, .iEYE_FRAME, .EYE_STATE, .TB_RATE, .iRESYNC_DONE,
      .iG_RESYNC] ++ flds [.evLog, .queues, .eyeEdges, .draws, .rates] ++ [.time]

/-- What PW_CEILING_WRITE may change. -/
def Changes.pwCeilingWrite : List Part :=
  regs [.iACC_STATUS, .iACC_ID, .PW_CEILING] ++ flds [.status, .keepPending, .triPending, .keeperQueue]

/-- What PWR_FAIL_LOW may change. -/
def Changes.pwrFailLow : List Part :=
  regs [.iINS_ELEC, .INS_STATE, .iPWR_FAIL, .iINS_STOP, .INS_DISCHARGES, .INS_KNOWN, .EV_COUNT, .NQ_SEQ, .NQ_LOST]
      ++ flds [.grants, .highReqs, .normalReqs, .disabledOwed, .evLog, .queues]

/-- What RAY_LINE_START may change. -/
def Changes.rayLineStart : List Part :=
  regs [.iS_LINE, .TAP_DROPS, .iWL_MSEQ] ++ flds [.taps, .frameA, .frameB, .sent, .msgBlocks, .fwd]

/-- What RECEIVER_DETECT_PULSE may change. -/
def Changes.receiverDetectPulse : List Part :=
  regs [.iWL_PULSE, .iWL_ABS, .iWL_PRES, .iWL_TSAT, .iWL_EQREJ, .iWL_BLK, .iWL_BIT, .WL_COEFF, .iWL_SINCE, .iWL_PH,
      .WL_LANE_STATE, .WL_CAUSE, .iWL_CTX, .iWL_BUSY, .WL_SPARE_MAP, .EV_COUNT, .NQ_SEQ, .NQ_LOST] ++ flds
      [.highReqs, .normalReqs, .grants, .msgBlocks, .draws, .keepPending, .evLog, .queues]

/-- What REFCLK_LOSS may change. -/
def Changes.refclkLoss : List Part :=
  regs [.iCK_WIN, .CK_REF_STATE, .CK_UNLOCKS, .iCK_WHY, .iCK_OUT, .iCK_START, .CK_FREQ, .iCK_SINCE, .CK_STATE,
      .iSSC_WAIT, .iSSC_RAMP, .EV_COUNT, .NQ_SEQ, .NQ_LOST, .CK_THROTTLE_REQ, .iWL_IDLEORD, .iWL_SINCE,
      .WL_LANE_STATE, .iWL_PH, .iWL_CTX, .iWL_BUSY, .iWL_TSAT, .iWL_EQREJ, .iWL_BLK, .iWL_BIT, .WL_COEFF,
      .SO_FORCED, .iS_SEEN, .SO_OUT_STATE, .PTP_UTC_OFFSET, .PTP_GM_ID, .iPTP_SOURCE, .PTP_SLAVE_PORT, .iPTP_RUN,
      .iPTP_FIRST, .PP_STATE, .iSYNC_STATE, .iSYNC_RUN, .iSERVO, .PTP_STATE, .TB_SOURCE, .ETH_LINK, .TB_RATE] ++
      flds [.evLog, .queues, .moves, .retrains, .msgBlocks, .grants, .highReqs, .normalReqs, .frameA, .frameB,
      .egress]

/-- What REFCLK_RETURN may change. -/
def Changes.refclkReturn : List Part :=
  regs [.iCK_WIN, .CK_REF_STATE, .iCK_OUT, .iCK_START, .CK_FREQ, .iCK_SINCE, .CK_STATE, .iSSC_WAIT, .iSSC_RAMP]

/-- What RETRAIN_DUE may change. -/
def Changes.retrainDue : List Part :=
  regs [.iRT_PERIOD, .iRT_WH, .iRT_WW, .iRT_RH, .iRT_RW, .iRT_SINCE, .iRT_LEFT, .iRT_SET0]

/-- What RETRAIN_PAUSE may change. -/
def Changes.retrainPause : List Part :=
  regs [.CH_DEFERRALS, .iRT_SINCE, .iRT_LAST, .iRT_LEFT, .iRT_NOEYE, .iRT_RW, .iRT_WW, .iRT_RH, .iRT_WH, .EV_COUNT,
      .NQ_SEQ, .NQ_LOST, .iRT_SET, .QP_BYTES, .QP_OVER, .iRT_DRAIN, .iHB_HELD, .CH_RETRAINS, .CH_WR_EYE_H,
      .CH_WR_EYE_W, .CH_RD_EYE_H, .CH_RD_EYE_W] ++ flds [.seen, .evLog, .queues, .traffic, .waits, .disabledOwed]

/-- What RETURN_LANE_LOCK may change. -/
def Changes.returnLaneLock : List Part :=
  regs [.WR_EYE_H, .WR_EYE_W, .iWR_HIST, .WR_STATE, .iWR_RUN, .iWR_DESC, .WR_BLOCK_ERRS, .iWL_BUSY, .iWL_CTX,
      .iWL_FORMER, .iWL_TSAT, .iWL_EQREJ, .iWL_BLK, .iWL_BIT, .WL_COEFF, .iWL_SINCE, .iWL_PH, .WL_LANE_STATE,
      .WL_RETRAINS, .iWL_MSEQ] ++ flds [.draws, .sent, .retrains, .highReqs, .normalReqs, .msgBlocks, .moves, .fwd,
      .grants]

/-- What RETURN_LANE_UNLOCK may change. -/
def Changes.returnLaneUnlock : List Part :=
  regs [.iWR_RUN, .WR_STATE, .iWL_LOSTAT, .iWR_HIST, .iWR_DESC, .WR_BLOCK_ERRS, .EV_COUNT, .NQ_SEQ, .NQ_LOST,
      .iWL_TSAT, .iWL_EQREJ, .iWL_BLK, .iWL_BIT, .WL_COEFF, .iWL_SINCE, .iWL_PH, .WL_LANE_STATE, .iWL_CTX,
      .iWL_BUSY, .CAL_STATE, .WL_CAL_RESULT, .iWL_MSEQ] ++ flds [.sent, .evLog, .queues, .highReqs, .normalReqs,
      .grants, .msgBlocks, .retrains, .deliveries, .fwd]

/-- What RQ_PARAM_WRITE may change. -/
def Changes.rqParamWrite : List Part :=
  regs [.RQ_KIND, .RQ_VALUE, .RQ_PORTS, .iACC_STATUS, .iACC_ID, .RQ_LEVEL] ++ flds [.keepPending, .status, .rxq]

/-- What SC_ENABLE_DISABLE may change. -/
def Changes.scEnableDisable : List Part :=
  regs [.iACC_STATUS, .iACC_ID, .SC_ENABLE, .SC_STATE, .iLAP_BROKEN, .EV_COUNT, .NQ_SEQ, .NQ_LOST] ++ flds
      [.status, .keepPending, .grants, .highReqs, .normalReqs, .disabledOwed, .evLog, .queues, .writeBacks]

/-- What SC_ENABLE_RESUME may change. -/
def Changes.scEnableResume : List Part :=
  regs [.iACC_STATUS, .iACC_ID, .SC_STATE, .MS_INIT_STATE, .SC_ENABLE] ++ flds [.status, .keepPending]

/-- What SCRUB_BURST may change. -/
def Changes.scrubBurst : List Part :=
  regs [.SC_STATE, .SC_POSITION, .QP_BYTES, .QP_OVER, .iLAP_SLOW, .EV_COUNT, .NQ_SEQ, .NQ_LOST, .iLAP_START,
      .iLAP_OPEN, .MS_CORRECTED, .CH_CORRECTED, .SC_CORRECTED, .CH_UNCORRECTABLE, .SC_UNCORRECTABLE, .PN_LOST,
      .iNRR_STEP, .SC_LAP_LAST, .iLAP_BROKEN] ++ flds [.grants, .highReqs, .normalReqs, .seen, .banks, .waits,
      .evLog, .queues, .writeBacks, .poisonLog, .traffic, .disabledOwed]

/-- What SEAL_COMPLETE may change. -/
def Changes.sealComplete : List Part :=
  regs [.iBK_CONC, .iBK_MAXB, .MS_FREEZES, .MS_FROZEN_INGEST, .MS_FROZEN_CORE, .EV_COUNT, .NQ_SEQ, .NQ_LOST,
      .STR_STATE, .HZ_ACTIVE, .CL_STATE, .LC_RESULT, .LC_STATE, .SK_STATE, .iSK_DONE, .iSK_FROZEN_JOB, .GC_STATE,
      .iPIP_FROZE_NS, .iGC_NW, .iGC_NR, .iGC_NI, .iGC_BUF, .iGC_OUT, .iGC_DONE, .iGC_FROZEN_JOB, .QP_BYTES,
      .QP_OVER, .iNRR_STEP, .MS_POISON_READS, .MS_CORRECTED, .CH_CORRECTED, .CH_UNCORRECTABLE, .PN_LOST, .MS_RMW,
      .MS_RMW_POISON, .MS_POISONED, .BUF_SUPERSEDED, .BUF_BANKS, .CG_ID, .CG_STATE, .CMT_LATE, .iCMT_NEXT,
      .STR_TILES_LOST, .STR_QUEUE, .iBUF_SEAL] ++ flds [.seen, .freezeLog, .evLog, .queues, .ingest, .waits,
      .banks, .traffic, .writeBacks, .poisonLog, .poison, .rowsAhead, .commits] ++ [.mem]

/-- What SEAM_LOOP_SAMPLE may change. -/
def Changes.seamLoopSample : List Part :=
  regs [.SO_FORCED, .iS_SEEN, .SO_OUT_STATE, .iSM_RUN, .iSM_KIND, .SM_OHMS, .SM_OPENS, .SM_LATCHED, .SM_STATE,
      .EV_COUNT, .NQ_SEQ, .NQ_LOST] ++ flds [.frameA, .frameB, .evLog, .queues]

/-- What SELF_TEST_DONE may change. -/
def Changes.selfTestDone : List Part :=
  regs [.iCL_SELFTEST, .iCL_PASSED, .CL_FAULT_MASK, .HZ_ACTIVE, .CL_STATE, .CL_LAST_FAULT, .EV_COUNT, .NQ_SEQ,
      .NQ_LOST, .iCL_RELOAD, .HZ_SWAP_STATE, .iSWAP_SLOT, .HZ_SWAP_CLUSTER, .CL_FENCED, .HZ_ENGINES_FENCED] ++ flds
      [.grants, .highReqs, .normalReqs, .keepPending, .evLog, .queues]

/-- What SENSORS may change. -/
def Changes.sensors : List Part :=
  regs [.iWL_SENSN, .iWL_SENSAT, .WL_PANEL_SENSORS, .WL_MSG_ERRORS, .iWR_HIST, .iWR_RUN, .iWR_DESC, .WR_BLOCK_ERRS,
      .WR_MESSAGES] ++ flds [.sent, .seqs]

/-- What SESSION_TIMEOUT may change. -/
def Changes.sessionTimeout : List Part :=
  regs [.iPLV_CLOSE, .EV_COUNT, .NQ_SEQ, .NQ_LOST, .STR_SESSION, .STR_STATE, .CG_OWNER, .CG_STATE] ++ regs
      sessionRegs ++ flds [.sent, .evLog, .queues, .responses, .heldRequests, .egress, .waits, .staged]

/-- What SK_ENABLE_DISABLE may change. -/
def Changes.skEnableDisable : List Part :=
  regs [.iACC_STATUS, .iACC_ID, .SK_ENABLE, .SK_STATE, .EV_COUNT, .NQ_SEQ, .NQ_LOST, .MS_FREEZES,
      .MS_FROZEN_INGEST, .MS_FROZEN_CORE, .STR_STATE, .HZ_ACTIVE, .CL_STATE, .LC_RESULT, .LC_STATE, .iSK_DONE,
      .iSK_FROZEN_JOB, .GC_STATE, .iPIP_FROZE_NS, .iGC_NW, .iGC_NR, .iGC_NI, .iGC_BUF, .iGC_OUT, .iGC_DONE,
      .iGC_FROZEN_JOB, .QP_BYTES, .QP_OVER, .iNRR_STEP, .MS_POISON_READS, .MS_CORRECTED, .CH_CORRECTED,
      .CH_UNCORRECTABLE, .PN_LOST, .SK_BYTES, .MS_RMW, .MS_RMW_POISON, .MS_POISONED, .SK_HEAD, .SK_JOBS_OK,
      .SK_ABANDONED, .SK_JOBS_FAILED, .SK_LAST_STATUS] ++ flds [.status, .keepPending, .disabledOwed, .evLog,
      .queues, .freezeLog, .ingest, .seen, .waits, .banks, .traffic, .writeBacks, .poisonLog, .rowsAhead, .poison,
      .grants, .highReqs, .normalReqs] ++ [.mem]

/-- What SK_ENABLE_RESUME may change. -/
def Changes.skEnableResume : List Part :=
  regs [.iACC_STATUS, .iACC_ID, .SK_ENABLE, .SK_STATE] ++ flds [.status, .keepPending]

/-- What SK_JOB_END may change. -/
def Changes.skJobEnd : List Part :=
  regs [.MS_FREEZES, .MS_FROZEN_INGEST, .MS_FROZEN_CORE, .EV_COUNT, .NQ_SEQ, .NQ_LOST, .STR_STATE, .HZ_ACTIVE,
      .CL_STATE, .LC_RESULT, .LC_STATE, .SK_STATE, .iSK_DONE, .iSK_FROZEN_JOB, .GC_STATE, .iPIP_FROZE_NS, .iGC_NW,
      .iGC_NR, .iGC_NI, .iGC_BUF, .iGC_OUT, .iGC_DONE, .iGC_FROZEN_JOB, .QP_BYTES, .QP_OVER, .iNRR_STEP,
      .MS_POISON_READS, .MS_CORRECTED, .CH_CORRECTED, .CH_UNCORRECTABLE, .PN_LOST, .SK_BYTES, .MS_RMW,
      .MS_RMW_POISON, .MS_POISONED, .SK_HEAD, .SK_JOBS_OK, .SK_ABANDONED, .SK_JOBS_FAILED, .SK_LAST_STATUS] ++ flds
      [.freezeLog, .evLog, .queues, .ingest, .seen, .waits, .banks, .traffic, .writeBacks, .poisonLog, .rowsAhead,
      .poison, .disabledOwed, .grants, .highReqs, .normalReqs] ++ [.mem]

/-- What SK_JOB_START may change. -/
def Changes.skJobStart : List Part :=
  regs [.SK_STATE, .MS_FREEZES, .MS_FROZEN_INGEST, .MS_FROZEN_CORE, .EV_COUNT, .NQ_SEQ, .NQ_LOST, .STR_STATE,
      .HZ_ACTIVE, .CL_STATE, .LC_RESULT, .LC_STATE, .iSK_DONE, .iSK_FROZEN_JOB, .GC_STATE, .iPIP_FROZE_NS, .iGC_NW,
      .iGC_NR, .iGC_NI, .iGC_BUF, .iGC_OUT, .iGC_DONE, .iGC_FROZEN_JOB, .QP_BYTES, .QP_OVER, .iNRR_STEP,
      .MS_POISON_READS, .MS_CORRECTED, .CH_CORRECTED, .CH_UNCORRECTABLE, .PN_LOST, .iSK_TAG, .iSK_JOB, .SK_HEAD,
      .SK_JOBS_OK, .SK_ABANDONED, .SK_JOBS_FAILED, .SK_LAST_STATUS, .MS_RMW, .MS_RMW_POISON, .MS_POISONED] ++ flds
      [.draws, .highReqs, .normalReqs, .freezeLog, .evLog, .queues, .ingest, .seen, .waits, .banks, .traffic,
      .writeBacks, .poisonLog, .disabledOwed, .grants, .rowsAhead, .poison] ++ [.mem]

/-- What SK_RING_WRITE may change. -/
def Changes.skRingWrite : List Part :=
  regs [.SK_RING_BASE, .SK_RING_SIZE, .iACC_STATUS, .iACC_ID] ++ flds [.status]

/-- What SLOT_RELEASE may change. -/
def Changes.slotRelease : List Part :=
  regs [.SC_STATE, .iRING_TESTS, .SC_POSITION, .SC_CORRECTED, .SC_UNCORRECTABLE, .EV_COUNT, .NQ_SEQ, .NQ_LOST,
      .iLAP_SLOW, .iLAP_START, .iLAP_OPEN, .SC_LAP_LAST, .iLAP_BROKEN, .iS_RELEASED, .HZ_LATE_TILES] ++ flds
      [.draws, .evLog, .queues, .requeued, .tileQueue, .held, .ring]

/-- What SM_CLEAR may change. -/
def Changes.smClear : List Part :=
  regs [.iACC_STATUS, .iACC_ID, .SM_LATCHED, .SO_FORCED, .iS_SEEN, .SO_OUT_STATE] ++ flds [.status, .frameA,
      .frameB]

/-- What SM_ENABLE_WRITE may change. -/
def Changes.smEnableWrite : List Part :=
  regs [.iACC_STATUS, .iACC_ID, .SM_ENABLE, .SO_FORCED, .iS_SEEN, .SO_OUT_STATE, .iSM_RUN, .iSM_KIND, .SM_STATE] ++
      flds [.status, .keepPending, .frameA, .frameB]

/-- What SM_POLICY_WRITE may change. -/
def Changes.smPolicyWrite : List Part :=
  regs [.iACC_STATUS, .iACC_ID, .SM_POLICY, .SM_LATCHED, .SO_FORCED, .iS_SEEN, .SO_OUT_STATE] ++ flds [.status,
      .keepPending, .frameA, .frameB]

/-- What SO_ENABLE_DISABLE may change. -/
def Changes.soEnableDisable : List Part :=
  regs [.iACC_STATUS, .iACC_ID, .SO_ENABLE, .iS_ENABLE, .iS_DISABLE, .SO_OUT_STATE, .EV_COUNT, .NQ_SEQ, .NQ_LOST,
      .iS_OFF_NS, .iWL_IDLEORD, .iWL_SINCE, .WL_LANE_STATE, .iWL_PH, .iWL_CTX, .iWL_BUSY, .iWL_TSAT, .iWL_EQREJ,
      .iWL_BLK, .iWL_BIT, .WL_COEFF] ++ flds [.status, .keepPending, .frameA, .frameB, .disabledOwed, .evLog,
      .queues, .moves, .retrains, .msgBlocks, .grants, .highReqs, .normalReqs]

/-- What SO_ENABLE_RESUME may change. -/
def Changes.soEnableResume : List Part :=
  regs [.iACC_STATUS, .iACC_ID, .SO_ENABLE, .iS_ENABLE] ++ flds [.status, .keepPending]

/-- What SPARE_ACK may change. -/
def Changes.spareAck : List Part :=
  regs [.WL_MSG_ERRORS, .iWR_HIST, .iWR_RUN, .iWR_DESC, .WR_BLOCK_ERRS, .WR_MESSAGES] ++ flds [.moves, .sent, .seqs]

/-- What SPARE_EFFECT may change. -/
def Changes.spareEffect : List Part :=
  regs [.WL_CAUSE, .EV_COUNT, .NQ_SEQ, .NQ_LOST, .WL_SPARE_MAP, .iWL_BUSY, .iWL_CTX, .iWL_FORMER, .iWL_TSAT,
      .iWL_EQREJ, .iWL_BLK, .iWL_BIT, .WL_COEFF, .iWL_SINCE, .iWL_PH, .WL_LANE_STATE, .WL_RETRAINS, .iWL_MSEQ,
      .iWL_COVER, .iWL_FAILS] ++ flds [.moves, .sent, .evLog, .queues, .keepPending, .retrains, .highReqs,
      .normalReqs, .msgBlocks, .fwd, .grants]

/-- What SPARE_REQ may change. -/
def Changes.spareReq : List Part :=
  regs [.WL_MSG_ERRORS, .iWR_HIST, .iWR_RUN, .iWR_DESC, .WR_BLOCK_ERRS, .WR_MESSAGES, .iWL_FORMER, .EV_COUNT,
      .NQ_SEQ, .NQ_LOST, .iWL_MSEQ] ++ flds [.sent, .seqs, .evLog, .queues, .moves, .fwd, .msgBlocks]

/-- What SPARED_ATTEMPT may change. -/
def Changes.sparedAttempt : List Part :=
  regs [.iWL_BUSY, .iWL_CTX, .iWL_FORMER, .iWL_TSAT, .iWL_EQREJ, .iWL_BLK, .iWL_BIT, .WL_COEFF, .iWL_SINCE,
      .iWL_PH, .WL_LANE_STATE, .WL_RETRAINS, .iWL_MSEQ] ++ flds [.retrains, .highReqs, .normalReqs, .msgBlocks,
      .moves, .fwd, .sent]

/-- What SS_CLOSE may change. -/
def Changes.ssClose : List Part :=
  regs [.iACC_STATUS, .iACC_ID, .iPLV_CLOSE, .EV_COUNT, .NQ_SEQ, .NQ_LOST, .STR_SESSION, .STR_STATE, .CG_OWNER,
      .CG_STATE] ++ regs sessionRegs ++ flds [.sent, .status, .evLog, .queues, .responses, .heldRequests, .egress,
      .waits, .staged]

/-- What STACK_TEMP_READ may change. -/
def Changes.stackTempRead : List Part :=
  regs [.CH_TEMP, .iHOT_SINCE, .MS_HOT, .CH_REFRESH, .EV_COUNT, .NQ_SEQ, .NQ_LOST] ++ flds [.evLog, .queues]

/-- What STR_RING_TAIL_WRITE may change. -/
def Changes.strRingTailWrite : List Part :=
  regs [.iACC_STATUS, .iACC_ID, .iSTR_WAIT, .STR_RING_TAIL] ++ flds [.status]

/-- What STREAM_END_PACKET may change. -/
def Changes.streamEndPacket : List Part :=
  regs [.ING_UNKNOWN, .STR_DISCARDS, .STR_PACKETS, .iSEQ_HIGH, .iBUF_SEAL, .BUF_BANKS, .iBK_BASE, .iBK_INDEX,
      .iBK_CUE, .iBK_FRAME, .MS_FREEZES, .MS_FROZEN_INGEST, .MS_FROZEN_CORE, .EV_COUNT, .NQ_SEQ, .NQ_LOST,
      .STR_STATE, .HZ_ACTIVE, .CL_STATE, .LC_RESULT, .LC_STATE, .SK_STATE, .iSK_DONE, .iSK_FROZEN_JOB, .GC_STATE,
      .iPIP_FROZE_NS, .iGC_NW, .iGC_NR, .iGC_NI, .iGC_BUF, .iGC_OUT, .iGC_DONE, .iGC_FROZEN_JOB, .iNRR_STEP,
      .QP_BYTES, .QP_OVER, .MS_RMW, .MS_RMW_POISON, .MS_CORRECTED, .CH_CORRECTED, .CH_UNCORRECTABLE, .PN_LOST,
      .MS_POISONED, .CG_ID, .CG_STATE, .CMT_LATE, .iCMT_NEXT] ++ flds [.seen, .replay, .ingestRefs, .freezeLog,
      .evLog, .queues, .ingest, .banks, .rowsAhead, .traffic, .waits, .writeBacks, .poison, .poisonLog, .commits]
      ++ [.mem]

/-- What STREAM_PACKET_FETCH may change. -/
def Changes.streamPacketFetch : List Part :=
  regs [.STR_RING_HEAD, .STR_DISCARDS, .STR_PACKETS, .iSEQ_HIGH, .iBUF_SEAL, .BUF_BANKS, .iBK_BASE, .iBK_INDEX,
      .iBK_CUE, .iBK_FRAME, .MS_FREEZES, .MS_FROZEN_INGEST, .MS_FROZEN_CORE, .EV_COUNT, .NQ_SEQ, .NQ_LOST,
      .STR_STATE, .HZ_ACTIVE, .CL_STATE, .LC_RESULT, .LC_STATE, .SK_STATE, .iSK_DONE, .iSK_FROZEN_JOB, .GC_STATE,
      .iPIP_FROZE_NS, .iGC_NW, .iGC_NR, .iGC_NI, .iGC_BUF, .iGC_OUT, .iGC_DONE, .iGC_FROZEN_JOB, .iNRR_STEP,
      .QP_BYTES, .QP_OVER, .MS_RMW, .MS_RMW_POISON, .MS_CORRECTED, .CH_CORRECTED, .CH_UNCORRECTABLE, .PN_LOST,
      .MS_POISONED, .CG_ID, .CG_STATE, .CMT_LATE, .iCMT_NEXT] ++ flds [.seen, .sent, .replay, .ingestRefs,
      .freezeLog, .evLog, .queues, .ingest, .banks, .rowsAhead, .traffic, .waits, .writeBacks, .poison, .poisonLog,
      .commits] ++ [.mem]

/-- What STREAM_TILES_PACKET may change. -/
def Changes.streamTilesPacket : List Part :=
  regs [.ING_UNKNOWN, .STR_DISCARDS, .STR_PACKETS, .iSEQ_HIGH, .iBUF_SEAL, .BUF_BANKS, .iBK_BASE, .iBK_INDEX,
      .iBK_CUE, .iBK_FRAME, .MS_FREEZES, .MS_FROZEN_INGEST, .MS_FROZEN_CORE, .EV_COUNT, .NQ_SEQ, .NQ_LOST,
      .STR_STATE, .HZ_ACTIVE, .CL_STATE, .LC_RESULT, .LC_STATE, .SK_STATE, .iSK_DONE, .iSK_FROZEN_JOB, .GC_STATE,
      .iPIP_FROZE_NS, .iGC_NW, .iGC_NR, .iGC_NI, .iGC_BUF, .iGC_OUT, .iGC_DONE, .iGC_FROZEN_JOB, .iNRR_STEP,
      .QP_BYTES, .QP_OVER, .MS_RMW, .MS_RMW_POISON, .MS_CORRECTED, .CH_CORRECTED, .CH_UNCORRECTABLE, .PN_LOST,
      .MS_POISONED, .CG_ID, .CG_STATE, .CMT_LATE, .iCMT_NEXT] ++ flds [.seen, .replay, .ingestRefs, .freezeLog,
      .evLog, .queues, .ingest, .banks, .rowsAhead, .traffic, .waits, .writeBacks, .poison, .poisonLog, .commits]
      ++ [.mem]

/-- What SWEEP_BURST may change. -/
def Changes.sweepBurst : List Part :=
  regs [.iSWEEP, .MS_INIT_STATE, .QP_BYTES, .QP_OVER, .iNRR_STEP] ++ flds [.grants, .highReqs, .normalReqs, .seen,
      .rowsAhead, .banks, .waits, .traffic]

/-- What SYNC_IN_EDGE may change. -/
def Changes.syncInEdge : List Part :=
  regs [.TB_SYNC_TIME, .CK_SYNC_COUNT, .CK_SYNC_SKIPPED, .CK_SYNC_ARM, .iSYNC_AT, .TB_SYNC_LOAD, .iSYNC_FIRST,
      .TB_SYNC_REJECT, .iPTP_FIRST, .iSYNC_STATE, .iSYNC_RUN, .iSERVO, .iPTP_RUN, .PTP_STATE, .TB_SOURCE,
      .TB_STEPS, .iCAP_STEPPED, .EV_COUNT, .NQ_SEQ, .NQ_LOST, .EYE_LATE_COUNT, .EYE_EDGES, .iEYE_END, .iEYE_ON,
      .LC_REQ_MISSED, .iLC_EVENT, .iEYE_LAST, .iEYE_K, .iEYE_FRAME, .EYE_STATE, .TB_RATE, .iRESYNC_DONE,
      .iG_RESYNC] ++ flds [.evLog, .queues, .eyeEdges, .draws, .rates] ++ [.time]

/-- What SYNC_IN_HOLDOVER may change. -/
def Changes.syncInHoldover : List Part :=
  regs [.TB_RATE, .iSYNC_STATE, .iSYNC_RUN, .iSERVO, .iPTP_RUN, .EV_COUNT, .NQ_SEQ, .NQ_LOST, .PTP_STATE,
      .TB_SOURCE] ++ flds [.evLog, .queues]

/-- What TAP_FRAME_HEADER_WRITE may change. -/
def Changes.tapFrameHeaderWrite : List Part :=
  regs [.MS_FREEZES, .MS_FROZEN_INGEST, .MS_FROZEN_CORE, .EV_COUNT, .NQ_SEQ, .NQ_LOST, .STR_STATE, .HZ_ACTIVE,
      .CL_STATE, .LC_RESULT, .LC_STATE, .SK_STATE, .iSK_DONE, .iSK_FROZEN_JOB, .GC_STATE, .iPIP_FROZE_NS, .iGC_NW,
      .iGC_NR, .iGC_NI, .iGC_BUF, .iGC_OUT, .iGC_DONE, .iGC_FROZEN_JOB, .iNRR_STEP, .QP_BYTES, .QP_OVER, .MS_RMW,
      .MS_RMW_POISON, .MS_CORRECTED, .CH_CORRECTED, .CH_UNCORRECTABLE, .PN_LOST, .MS_POISONED, .TAP_STATE,
      .TAP_ENABLE, .TAP_DROPS, .TAP_FRAMES, .TAP_HEAD] ++ flds [.taps, .freezeLog, .evLog, .queues, .ingest,
      .banks, .rowsAhead, .traffic, .seen, .waits, .writeBacks, .poison, .poisonLog] ++ [.mem]

/-- What TAP_PARAM_WRITE may change. -/
def Changes.tapParamWrite : List Part :=
  regs [.TAP_BASE, .TAP_SLOTS, .TAP_V, .iACC_STATUS, .iACC_ID, .iG_PENDRATE] ++ flds [.status, .staged]

/-- What TAP_ROW_CODED may change. -/
def Changes.tapRowCoded : List Part :=
  regs [.MS_FREEZES, .MS_FROZEN_INGEST, .MS_FROZEN_CORE, .EV_COUNT, .NQ_SEQ, .NQ_LOST, .STR_STATE, .HZ_ACTIVE,
      .CL_STATE, .LC_RESULT, .LC_STATE, .SK_STATE, .iSK_DONE, .iSK_FROZEN_JOB, .GC_STATE, .iPIP_FROZE_NS, .iGC_NW,
      .iGC_NR, .iGC_NI, .iGC_BUF, .iGC_OUT, .iGC_DONE, .iGC_FROZEN_JOB, .iNRR_STEP, .QP_BYTES, .QP_OVER, .MS_RMW,
      .MS_RMW_POISON, .MS_CORRECTED, .CH_CORRECTED, .CH_UNCORRECTABLE, .PN_LOST, .MS_POISONED, .TAP_STATE,
      .TAP_ENABLE, .TAP_DROPS] ++ flds [.taps, .freezeLog, .evLog, .queues, .ingest, .banks, .rowsAhead, .traffic,
      .seen, .waits, .writeBacks, .poison, .poisonLog] ++ [.mem]

/-- What TB_ADJ may change. -/
def Changes.tbAdj : List Part :=
  regs [.iACC_STATUS, .iACC_ID, .TB_RATE] ++ flds [.status, .rates]

/-- What TB_SET may change. -/
def Changes.tbSet : List Part :=
  regs [.iACC_STATUS, .iACC_ID, .TB_STEPS, .iCAP_STEPPED, .EV_COUNT, .NQ_SEQ, .NQ_LOST, .EYE_LATE_COUNT,
      .EYE_EDGES, .iEYE_END, .iEYE_ON, .LC_REQ_MISSED, .iLC_EVENT, .iEYE_LAST, .iEYE_K, .iEYE_FRAME, .EYE_STATE] ++
      flds [.status, .evLog, .queues, .eyeEdges] ++ [.time]

/-- What TB_SOURCE_WRITE may change. -/
def Changes.tbSourceWrite : List Part :=
  regs [.TB_SOURCE, .iSYNC_RUN, .iSYNC_STATE, .iSYNC_FIRST, .iACC_STATUS, .iACC_ID, .PTP_STATE, .iSERVO] ++ flds
      [.keepPending, .status]

/-- What TH_SHUT_WRITE may change. -/
def Changes.thShutWrite : List Part :=
  regs [.iACC_STATUS, .iACC_ID, .iCMP_RESTART, .TH_RESTART, .iCMP_SHUT, .TH_SHUT] ++ flds [.status, .keepPending,
      .triPending, .keeperQueue]

/-- What TH_STAGE_MAX_WRITE may change. -/
def Changes.thStageMaxWrite : List Part :=
  regs [.iACC_STATUS, .iACC_ID, .TH_STAGE_MAX, .TH_STAGE_DUE, .TH_STATE] ++ flds [.status, .keepPending]

/-- What THERMAL_SAMPLE may change. -/
def Changes.thermalSample : List Part :=
  regs [.PW_TOTAL, .PW_MEASURED, .iMIN_MAX, .TH_JUNCTION, .TS_VALID, .TS_TEMP, .TS_MAX, .iTS_GOOD, .TS_FAULTS,
      .iTS_BAD, .iTS_MEAS, .iCMP_RUN, .iCMP_PEAK, .iCMP_TRIP, .iCMP_COOL, .TH_GLASS_GATE, .iTHR_RUN, .iTHR,
      .TH_KEEPER_GATE, .EV_COUNT, .NQ_SEQ, .NQ_LOST, .iTH_TIMER, .TH_STATE] ++ flds [.evLog, .queues]

/-- What TILE_COMPLETE may change. -/
def Changes.tileComplete : List Part :=
  regs [.CL_TILES, .MS_FREEZES, .MS_FROZEN_INGEST, .MS_FROZEN_CORE, .EV_COUNT, .NQ_SEQ, .NQ_LOST, .STR_STATE,
      .HZ_ACTIVE, .CL_STATE, .LC_RESULT, .LC_STATE, .SK_STATE, .iSK_DONE, .iSK_FROZEN_JOB, .GC_STATE,
      .iPIP_FROZE_NS, .iGC_NW, .iGC_NR, .iGC_NI, .iGC_BUF, .iGC_OUT, .iGC_DONE, .iGC_FROZEN_JOB, .QP_BYTES,
      .QP_OVER, .iNRR_STEP, .MS_POISON_READS, .MS_CORRECTED, .CH_CORRECTED, .CH_UNCORRECTABLE, .PN_LOST,
      .HK_CD_BY_CODE, .HK_CD_TILES, .CD_REF_TILES, .CD_TILES, .CD_LAST_TILE, .CD_LAST_BUFFER, .CD_LAST_CODE,
      .HK_CD_REJECTED, .CD_REJECTED, .HZ_SHORT] ++ flds [.poison, .seen, .held, .freezeLog, .evLog, .queues,
      .ingest, .waits, .banks, .traffic, .writeBacks, .poisonLog, .rejected, .ring, .frameA, .frameB]

/-- What TRIAL_TIMEOUT may change. -/
def Changes.trialTimeout : List Part :=
  regs [.iPLV_RESET, .iPIP_FROZE_NS, .MS_FROZEN_CORE, .SU_LAST_RESET, .LF_WARM, .FW_RESTARTS, .iPHASE,
      .iWARM_CAUSE, .FW_PROG_STATE, .EV_COUNT, .NQ_SEQ, .NQ_LOST, .CAL_STATE, .CUE_STATE, .PG_STATE,
      .WL_CAL_RESULT, .iWL_MSEQ, .iBOOT_TRIAL, .iBOOT_IMAGE, .KP_WRITES, .iTRI, .KP_REFUSED, .iKEEP_TRY] ++ flds
      [.sent, .evLog, .queues, .deliveries, .fwd, .msgBlocks, .triPending, .keepPending, .records, .keeperQueue,
      .keepDeferred]

/-- What TRIWORD_VOTE may change. -/
def Changes.triwordVote : List Part :=
  regs [.iTRI, .iCMP_SHUT, .iCMP_RESTART, .KP_TRI_REPAIRS, .KP_TRI_NOVOTE, .EV_COUNT, .NQ_SEQ, .NQ_LOST] ++ flds
      [.keeperQueue, .evLog, .queues]

/-- What WARM_RESTART may change. -/
def Changes.warmRestart : List Part :=
  regs [.iPLV_RESET, .iPIP_FROZE_NS, .MS_FROZEN_CORE, .SU_LAST_RESET, .LF_WARM, .FW_RESTARTS, .iPHASE,
      .iWARM_CAUSE, .FW_PROG_STATE, .EV_COUNT, .NQ_SEQ, .NQ_LOST, .CAL_STATE, .CUE_STATE, .PG_STATE,
      .WL_CAL_RESULT, .iWL_MSEQ, .iBOOT_TRIAL, .iBOOT_IMAGE, .KP_WRITES, .iTRI, .KP_REFUSED, .iKEEP_TRY] ++ flds
      [.sent, .evLog, .queues, .deliveries, .fwd, .msgBlocks, .triPending, .keepPending, .records, .keeperQueue,
      .keepDeferred]

/-- What WATCHDOG_TIMEOUT may change. -/
def Changes.watchdogTimeout : List Part :=
  regs [.iPLV_RESET, .iPIP_FROZE_NS, .MS_FROZEN_CORE, .SU_LAST_RESET, .LF_WARM, .FW_RESTARTS, .iPHASE,
      .iWARM_CAUSE, .FW_PROG_STATE, .EV_COUNT, .NQ_SEQ, .NQ_LOST, .CAL_STATE, .CUE_STATE, .PG_STATE,
      .WL_CAL_RESULT, .iWL_MSEQ, .iBOOT_TRIAL, .iBOOT_IMAGE, .KP_WRITES, .iTRI, .KP_REFUSED, .iKEEP_TRY] ++ flds
      [.sent, .evLog, .queues, .deliveries, .fwd, .msgBlocks, .triPending, .keepPending, .records, .keeperQueue,
      .keepDeferred]

/-- What WIN_APPLY may change. -/
def Changes.winApply : List Part :=
  regs [.iACC_STATUS, .iACC_ID, .WIN_STATUS, .WIN_ENABLE, .iWIN_ENABLE, .WIN_SPACE, .iWIN_SPACE, .WIN_ID_LO,
      .iWIN_ID_LO, .WIN_ID_HI, .iWIN_ID_HI, .WIN_BASE, .iWIN_BASE, .WIN_LIMIT, .iWIN_LIMIT, .WIN_PERM, .iWIN_PERM]
      ++ flds [.status, .keepPending]

/-- What WINDOW_READ may change. -/
def Changes.windowRead : List Part :=
  regs [.iACC_STATUS, .iACC_ID, .iCAP_FULL, .iLATCH] ++ flds [.value, .sent, .status, .draws, .caps, .queues]

/-- What WL_CAL_FETCH may change. -/
def Changes.wlCalFetch : List Part :=
  regs [.iACC_STATUS, .iACC_ID, .iWL_MSEQ] ++ flds [.sent, .status, .fwd, .msgBlocks]

/-- What WL_CTRL_RETRAIN may change. -/
def Changes.wlCtrlRetrain : List Part :=
  regs [.iACC_STATUS, .iACC_ID, .iWL_BUSY, .iWL_CTX, .iWL_FORMER, .iWL_TSAT, .iWL_EQREJ, .iWL_BLK, .iWL_BIT,
      .WL_COEFF, .iWL_SINCE, .iWL_PH, .WL_LANE_STATE, .WL_RETRAINS, .iWL_MSEQ] ++ flds [.sent, .status, .retrains,
      .highReqs, .normalReqs, .msgBlocks, .moves, .fwd]

/-- What WL_CTRL_RETRY may change. -/
def Changes.wlCtrlRetry : List Part :=
  regs [.iACC_STATUS, .iACC_ID, .iWL_PULSE, .iWL_FAILS, .iWL_ABS, .iWL_PRES, .iWL_CTX, .iWL_SINCE, .WL_LANE_STATE,
      .iWL_PH, .iWL_BUSY] ++ flds [.status, .msgBlocks, .grants, .highReqs, .normalReqs]

/-- What WL_CTRL_SPARE may change. -/
def Changes.wlCtrlSpare : List Part :=
  regs [.iACC_STATUS, .iACC_ID, .iWL_FORMER, .EV_COUNT, .NQ_SEQ, .NQ_LOST, .iWL_MSEQ] ++ flds [.sent, .status,
      .evLog, .queues, .moves, .fwd, .msgBlocks]

/-- What WL_MAP_RESET may change. -/
def Changes.wlMapReset : List Part :=
  regs [.iACC_STATUS, .iACC_ID, .iG_PENDRATE] ++ flds [.status, .staged]

/-- What WL_PRBS_MODE may change. -/
def Changes.wlPrbsMode : List Part :=
  regs [.iWL_PRBSRUN, .WL_PRBS_MODE, .iWL_PRBSAT, .iACC_STATUS, .iACC_ID, .iWL_MSEQ, .iWL_BUSY, .iWL_CTX,
      .iWL_FORMER, .iWL_TSAT, .iWL_EQREJ, .iWL_BLK, .iWL_BIT, .WL_COEFF, .iWL_SINCE, .iWL_PH, .WL_LANE_STATE,
      .WL_RETRAINS] ++ flds [.sent, .status, .fwd, .msgBlocks, .retrains, .highReqs, .normalReqs, .moves, .grants]

/-- What WR_PRBS_MODE may change. -/
def Changes.wrPrbsMode : List Part :=
  regs [.iWR_PRBSAT, .WR_PRBS_MODE, .WR_STATE, .iACC_STATUS, .iACC_ID, .iWL_MSEQ] ++ flds [.sent, .status, .fwd,
      .msgBlocks]

end Sys2Proof.Machine
end

