-- ==== Sys2Proof/Certificates/Slice0/General.lean ====
section
/-! DEFINITION. What the obligations about the whole block are said with: which command writes which parameter, and
which commands may change what Flaed holds longest. -/
namespace Sys2Proof.Machine

/-! ## Writes of one parameter -/

/-- The parameter that a command writes, for the commands that are a write of one parameter: who writes, the
parameter and its instance, and the value. -/
def writeTarget : Instr → Option (Accessor × Reg × Nat × Nat)
  | .pwCeilingWrite acc v => some (acc, .PW_CEILING, 0, v.toNat)
  | .calLoadValidate acc n => some (acc, .CAL_LOAD, n.val, 1)
  | .calLoadEmpty acc n => some (acc, .CAL_LOAD, n.val, 2)
  | .calSlotWrite acc n p v => some (acc, calReg p, n.val, v)
  | .lutWrite acc l v => some (acc, (lutReg l.val).1, (lutReg l.val).2, v)
  | .pgLoadVerify acc p => some (acc, .PG_LOAD, p.val, 1)
  | .pgLoadEmpty acc p => some (acc, .PG_LOAD, p.val, 2)
  | .hzProgTarget acc p => some (acc, .HZ_PROG_TARGET, 0, p.val)
  | .arrayParamWrite acc p v => some (acc, (arrayTarget p).1, (arrayTarget p).2.1, v)
  | .clFaultClear acc n mask => some (acc, .CL_FAULT_CLEAR, n.val, mask.toNat)
  | .gcTailWrite acc n tail => some (acc, .GC_TAIL, n.val, tail.toNat)
  | .gcEnableDisable acc n _ => some (acc, .GC_ENABLE, n.val, 0)
  | .gcEnableResume acc n => some (acc, .GC_ENABLE, n.val, 1)
  | .gcRingWrite acc n .base v => some (acc, .GC_RING_BASE, n.val, v)
  | .gcRingWrite acc n .size v => some (acc, .GC_RING_SIZE, n.val, v)
  | .codecAssignWrite acc .ingest v => some (acc, .HK_INGEST_DEC, 0, v.toNat)
  | .codecAssignWrite acc .taps v => some (acc, .HK_TAP_ENC, 0, v.toNat)
  | .strRingTailWrite (some acc) n tail => some (acc, .STR_RING_TAIL, n.val, tail.toNat)
  | .bufCtrlOpen acc n => some (acc, .BUF_CTRL, n.val, 1)
  | .bufCtrlSeal acc n => some (acc, .BUF_CTRL, n.val, 2)
  | .bufCtrlDiscard acc n => some (acc, .BUF_CTRL, n.val, 3)
  | .bufParamWrite acc n p v => some (acc, bufReg p, n.val, v)
  | .cgCtrlOpen acc g => some (acc, .CG_CTRL, g.val, 1)
  | .cgCtrlGo acc g => some (acc, .CG_CTRL, g.val, 2)
  | .cgCtrlAbort acc g => some (acc, .CG_CTRL, g.val, 3)
  | .cgParamWrite acc g p v => some (acc, groupReg p, g.val, v)
  | .cueLoadValidate acc n => some (acc, .CUE_LOAD, n.val, 1)
  | .cueLoadEmpty acc n => some (acc, .CUE_LOAD, n.val, 2)
  | .cueParamWrite acc n p v => some (acc, cueReg p, n.val, v)
  | .pbCtrlArm acc surf => some (acc, .PB_CTRL, surf.val, 1)
  | .pbCtrlStop acc surf => some (acc, .PB_CTRL, surf.val, 2)
  | .lastResync acc g => some (acc, .LAST_RESYNC, g.val, 1)
  | .lastRateWrite acc g rate => some (acc, .LAST_RATE, g.val, rate.toNat)
  | .soEnableDisable acc surf => some (acc, .SO_ENABLE, surf.val, 0)
  | .soEnableResume acc surf => some (acc, .SO_ENABLE, surf.val, 1)
  | .tapTailWrite acc surf k tail => some (acc, .TAP_TAIL, 8 * surf.val + k.val, tail.toNat)
  | .tapParamWrite acc surf k p v => some (acc, tapReg p, 8 * surf.val + k.val, v)
  | .wlCtrlRetrain acc surf p => some (acc, .WL_CTRL, laneIx surf.val p.val, 1)
  | .wlCtrlSpare acc surf p => some (acc, .WL_CTRL, laneIx surf.val p.val, 2)
  | .wlCtrlRetry acc surf p => some (acc, .WL_CTRL, laneIx surf.val p.val, 3)
  | .wlMapReset acc surf => some (acc, .WL_MAP_RESET, surf.val, 1)
  | .wlCalFetch acc surf gain => some (acc, .WL_CAL_FETCH, surf.val, 1 + b2n gain)
  | .wlPrbsMode acc surf p mode => some (acc, .WL_PRBS_MODE, laneIx surf.val p.val, mode.val)
  | .wrPrbsMode acc surf r mode => some (acc, .WR_PRBS_MODE, 2 * surf.val + r.val, mode.val)
  | .chRetrainNow acc c => some (acc, .CH_RETRAIN_NOW, c.val, 1)
  | .msRetrainEnDisable acc => some (acc, .MS_RETRAIN_EN, 0, 0)
  | .scEnableDisable acc k => some (acc, .SC_ENABLE, k.val, 0)
  | .scEnableResume acc k => some (acc, .SC_ENABLE, k.val, 1)
  | .winApply acc => some (acc, .WIN_APPLY, 0, 1)
  | .msRelease acc m => some (acc, .MS_RELEASE, 0, 256 * masterSpace m + m.id.val)
  | .pnClear acc => some (acc, .PN_CLEAR, 0, 1)
  | .lcShDescWrite acc n d => some (acc, .LC_SH_DESC, n.val, d.toNat)
  | .lcArm acc n => some (acc, .LC_ARM, n.val, 1)
  | .lcDisarm acc n => some (acc, .LC_ARM, n.val, 2)
  | .lsBusClear acc => some (acc, .LS_BUS_CLEAR, 0, 1)
  | .lcCtrlResume acc n => some (acc, .LC_CTRL, n.val, 1)
  | .lcCtrlAbandon acc n => some (acc, .LC_CTRL, n.val, 2)
  | .lcEnableDisable acc n => some (acc, .LC_ENABLE, n.val, 0)
  | .lcEnableResume acc n => some (acc, .LC_ENABLE, n.val, 1)
  | .skTailWrite acc k tail => some (acc, .SK_TAIL, k.val, tail.toNat)
  | .skEnableDisable acc k _ => some (acc, .SK_ENABLE, k.val, 0)
  | .skEnableResume acc k => some (acc, .SK_ENABLE, k.val, 1)
  | .skRingWrite acc k .base v => some (acc, .SK_RING_BASE, k.val, v)
  | .skRingWrite acc k .size v => some (acc, .SK_RING_SIZE, k.val, v)
  | .ethModeWrite acc port p v => some (acc, ethReg p, port.val, v.toNat)
  | .rqParamWrite acc q .kind v => some (acc, .RQ_KIND, q.val, v)
  | .rqParamWrite acc q .value v => some (acc, .RQ_VALUE, q.val, v)
  | .rqParamWrite acc q .ports v => some (acc, .RQ_PORTS, q.val, v)
  | .tbSourceWrite acc v => some (acc, .TB_SOURCE, 0, v.toNat)
  | .tbSet acc time => some (acc, .TB_SET, 0, time.toNat)
  | .tbAdj acc rate => some (acc, .TB_ADJ, 0, rate.toNat)
  | .eyeCtrlArm acc e => some (acc, .EYE_CTRL, e.val, 1)
  | .eyeCtrlDisarm acc e => some (acc, .EYE_CTRL, e.val, 2)
  | .eyeParamWrite acc e p v => some (acc, eyeReg p, e.val, v)
  | .ssClose acc n => some (acc, .SS_CLOSE, n.val, 1)
  | .plvKeySet acc v => some (acc, .PLV_KEY_SET, 0, v.toNat)
  | .nqModeWrite acc q v => some (acc, .NQ_MODE, q.val, v.toNat)
  | .odFactory acc => some (acc, .OD_FACTORY, 0, 1)
  | .ckMarginWrite acc k v => some (acc, .CK_MARGIN, k.val, v.toNat)
  | .ckRelock acc k => some (acc, .CK_RELOCK, k.val, 1)
  | .ckSyncArm acc => some (acc, .CK_SYNC_ARM, 0, 1)
  | .thStageMaxWrite acc v => some (acc, .TH_STAGE_MAX, 0, v.toNat)
  | .thShutWrite acc restart v => some (acc, if restart then .TH_RESTART else .TH_SHUT, 0, v.toNat)
  | .kpProtectWrite acc v => some (acc, .KP_PROTECT, 0, v.toNat)
  | .insoleImageWrite acc image => some (acc, .INS_IMAGE, 0, image.toNat)
  | .insEnableDisable acc => some (acc, .INS_ENABLE, 0, 0)
  | .insEnableResume acc => some (acc, .INS_ENABLE, 0, 1)
  | .smClear acc surf => some (acc, .SM_CLEAR, surf.val, 1)
  | .smPolicyWrite acc surf v => some (acc, .SM_POLICY, surf.val, v.toNat)
  | .smEnableWrite acc surf v => some (acc, .SM_ENABLE, surf.val, v.toNat)
  | .svReset acc _ _ => some (acc, .SV_RESET, 0, 1)
  | .fwProgram acc => some (acc, .FW_PROGRAM, 0, 1)
  | .fwSwitchTrial acc => some (acc, .FW_SWITCH, 0, 1)
  | .fwSwitchCommit acc => some (acc, .FW_SWITCH, 0, 2)
  | .fwSwitchRestart acc => some (acc, .FW_SWITCH, 0, 3)
  | _ => none

/-! ## What few commands change -/

/-- A write by ID may do what the command of its parameter does; so may an item of a Plovan message, also one held
until the firmware runs again. -/
def writesById : Instr → Bool
  | .parameterWrite .. => true | .windowWrite .. => true
  | .plovanOpen .. => true | .plovanClose .. => true | .plovanKeepalive .. => true
  | .plovanRead .. => true | .plovanWrite .. => true | .plovanDescribe .. => true
  | .plovanSubscribe .. => true | .plovanUnsubscribe .. => true | .firmwareRunning .. => true
  | _ => false

/-- The resets that initialise the parts that hold contents. -/
def isReset : Instr → Bool
  | .powerReset .. => true | .deviceReset .. => true | .svReset .. => true | .thermalRestart => true
  | _ => false

/-- The commands that may change network time otherwise than by its own counting (R355, R361, R369). -/
def movesTime : Instr → Bool
  | .tbSet .. => true | .ptpSync .. => true | .syncInEdge .. => true
  | _ => false

/-- The commands that may change bytes of the central store: its masters' writes, and the units that write frames,
codes, records and calibration there. -/
def writesStore : Instr → Bool
  | .memoryWrite .. => true | .tapRowCoded .. => true
  | .tapFrameHeaderWrite .. => true | .gcJobStart .. => true | .gcJobEnd .. => true | .gcEnableDisable .. => true
  | .ingestTileDecoded .. => true | .streamTilesPacket .. => true | .streamEndPacket .. => true
  | .streamPacketFetch .. => true | .bufCtrlOpen .. => true | .sealComplete .. => true
  | .calData .. => true | .msRelease .. => true | .laceDescriptorStart .. => true | .laceBurst .. => true
  | .laceComplete .. => true | .laceError .. => true | .lcCtrlResume .. => true | .lcEnableDisable .. => true
  | .skJobStart .. => true | .skJobEnd .. => true | .skEnableDisable .. => true | .keeperWriteStart .. => true
  | .keeperWriteDone .. => true
  | _ => false

end Sys2Proof.Machine
end

