-- ==== Sys2Proof/Certificates/Slice0/Obligations.lean ====
section
/-! DEFINITION. The obligations: first those about the whole block, then what the commands of each part do. -/
open Sys2Proof Sys2Proof.Machine

/-- For every command c and every state whose queue starts with c, a step is exec of c on the state with the rest of
the queue. -/
def Obligations.FrontCommandIsPerformed : Prop :=
  ∀ (c : Instr) (rest : List Instr) (s : State), s.pending = c :: rest → step s = exec c { s with pending := rest }

/-- With an empty queue a step answers a next state in which the local count and network time have advanced by one
TB cycle: 2 ns while PLL-NT is LOCKED, 6.4 ns while it is not, the backup period while REFCLK is lost, corrected by
TB_RATE. With every generator in use nothing else changes but what the Welt lanes send and return lanes in TEST
check; and where no lane is ACTIVE, in training or in TEST either, only the raster line passed. That time passes in
a step of its own, on an empty queue, is the model's choice (log entry 2). -/
def Obligations.IdleCycleCountsTime : Prop :=
  ∀ (s : State), s.pending = [] →
    let period : Nat := if s.reg .CK_REF_STATE 0 = 1 then s.reg .CK_BACKUP_PERIOD 0 * 2 ^ 32
      else if s.reg .CK_STATE 5 = 3 then 2 * 2 ^ 48 else 64 * 2 ^ 48 / 10
    let rate := s.regInt .TB_RATE 0
    ∃ t, step s = .next t ∧ t.pending = [] ∧
      (-4096000000000 ≤ rate → ∃ d : Nat, t.local_ = s.local_ + d ∧ t.tb = (s.tb + d) % 2 ^ 112 ∧
        (d : Int) * 4096000000000 ≤ (period : Int) * (4096000000000 + rate) ∧
        (period : Int) * (4096000000000 + rate) < (d + 1) * 4096000000000) ∧
      ((∀ g, g < 4 → s.reg .LAST_USERS g ≠ 0) → Touches (.time :: (regs [.iS_RAST, .iWL_TSAT, .iWL_TS, .iWL_PRBSREG, .WR_PRBS_BITS, .WR_PRBS_ERR] ++ flds [.sent, .msgBlocks, .draws])) s t) ∧
      ((∀ g, g < 4 → s.reg .LAST_USERS g ≠ 0) → (∀ i, i < 4 → s.reg .WR_STATE i ≠ 3) →
        (∀ surf, surf < 2 → ∀ p, p < 84 → s.isTraining surf p = false ∧ s.lane surf p ≠ laneActive ∧
          s.lane surf p ≠ laneTest) → Touches [.time, .reg .iS_RAST] s t)

/-- At reset no command waits, the maps are in canonical form, no Plovan message is being performed, network time
and TB_RATE are 0, every register holds its reset value, and some of these are the values that the parameter tables
state. Values that the spec does not state are the model's choice (log entry 3). -/
def Obligations.ResetStateHolds : Prop :=
  State.reset.pending = [] ∧ State.reset.Canonical ∧ State.reset.NoMessage ∧ State.reset.now = 0 ∧
  (∀ r i, State.reset.reg r i = regDefault r i % 2 ^ r.width) ∧ (∀ a, State.reset.byte a = 0) ∧
  State.reset.reg .TB_RATE 0 = 0 ∧ State.reset.reg .MS_INIT_STATE 0 = 0 ∧ State.reset.reg .PLV_PORT 0 = 7711 ∧
  State.reset.reg .PLV_TIMEOUT 0 = 10000 ∧ State.reset.reg .PLV_ANON_OBSERVER 0 = 0 ∧
  (∀ q, State.reset.reg .NQ_MODE q = 1 ∧ State.reset.reg .NQ_IRQ q = 0xFF) ∧ State.reset.reg .PW_CEILING 0 = 920 ∧
  State.reset.regInt .TH_SHUT 0 = 115 * 16 ∧ State.reset.regInt .TH_RESTART 0 = 95 * 16 ∧
  State.reset.reg .KP_PROTECT 0 = 0 ∧ State.reset.reg .FW_TRIAL_TIMEOUT 0 = 60 ∧ State.reset.reg .WD_TIMEOUT 0 = 2000

/-- From every state whose registers, central store and Keeper are in canonical form (keys strictly rising, no entry
equal to what an unlisted key reads as), every step that answers a next state, whatever command is in front, answers
one in which they are: equal contents are equal data. -/
def Obligations.StepKeepsCanonicalForm : Prop :=
  ∀ (s t : State), s.Canonical → step s = .next t → t.Canonical

/-- From every state in which no Plovan message is being performed and none has left a session to close or a restart
to do, every step answers such a state: what the items of a message leave to do is done within its own step. -/
def Obligations.StepKeepsNoMessage : Prop :=
  ∀ (s t : State), s.NoMessage → step s = .next t → t.NoMessage

/-- Every command in every state answers a next state with the same queue: no meaning stops. -/
def Obligations.EveryCommandCompletes : Prop :=
  ∀ (c : Instr) (s : State), ∃ t, exec c s = .next t ∧ t.pending = s.pending

/-- For every command that is a write of one parameter: without a way to the dictionary it changes nothing; with
one, where the checks refuse it, its status is the first check that fails, a PCIe function shows it, and nothing
else changes but, for some, the record of what was sent. -/
def Obligations.RefusedWritesChangeNothing : Prop :=
  ∀ (c : Instr) (acc : Accessor) (r : Reg) (i v : Nat) (s : State), writeTarget c = some (acc, r, i, v) →
    (s.reachable acc = false → exec c s = .next s ∨ exec c s = .next (s.send [])) ∧
    ∀ code, s.reachable acc = true → writeFault s acc r i (r.width / 8) v false = some code →
      exec c s = .next (s.answered acc r i code) ∨ exec c s = .next ((s.send []).answered acc r i code)

/-- Outside writes by ID, Plovan messages, held requests and resets: the bytes of the central store change only by
its masters' commands, the Keeper only at the end of a page write, time only by TB_SET, the PTP servo and SYNC_IN,
and the key table only by PLV_KEY_SET. -/
def Obligations.ContentsHaveOwners : Prop :=
  ∀ (c : Instr) (s t : State), exec c s = .next t → writesById c = false → isReset c = false →
    (writesStore c = false → t.mem = s.mem) ∧ ((∀ bank, c ≠ .keeperWriteDone bank) → t.keeper = s.keeper) ∧
    (movesTime c = false → t.tb = s.tb ∧ t.local_ = s.local_) ∧ ((∀ acc v, c ≠ .plvKeySet acc v) → t.keys = s.keys)

/-- For each role and every parameter served: a read passes exactly at the levels that the role reads, and a write
of a writable parameter is refused with OD_LEVEL exactly at the levels that the role does not write; an observer
writes nothing. -/
def Obligations.RolesReachTheirLevels : Prop :=
  ∀ (s : State) (acc : Accessor) (r : Reg), s.role acc < 4 → s.served r = true →
    ((regRow r).access ≠ .wo → (readFault s acc r = none ↔ match s.role acc with
      | 0 => (regRow r).level = 0 | 1 => (regRow r).level = 0 | 2 => (regRow r).level ≤ 1 | _ => (regRow r).level ≤ 2)) ∧
    ((regRow r).access ≠ .ro → (regRow r).access ≠ .const → ∀ i len v g,
      (writeFault s acc r i len v g ≠ some Code.odLevel ↔ match s.role acc with
        | 0 => False | 1 => (regRow r).level = 0 | 2 => (regRow r).level ≤ 1 | _ => (regRow r).level ≤ 2))

/-- While the firmware runs: subindex 0 of an index that exists reads as one byte, the highest subindex present
there, at any role, and refuses a write with OD_READ_ONLY; its descriptor says U8, RO, BASIC. A read or write of an
index or subindex that does not exist ends with OD_NO_OBJECT. A refused write changes nothing but the status. -/
def Obligations.SubindexZeroAndMissingObjects : Prop :=
  ∀ (s : State) (acc : Accessor) (index sub : Nat) (staged : Bool) (data : List Byte),
    s.reachable acc = true → s.reg .iPHASE 0 = 1 →
    (highestSub index = none ∨ (sub ≠ 0 ∧ lookupReg index sub = none) →
      (s.readId acc index sub staged).2.status = Code.odNoObject ∧
      s.writeId acc index sub data = (s.setStatus Code.odNoObject).noteAccess acc (256 * index + sub)) ∧
    ∀ top, highestSub index = some top →
      (lookupReg index top).isSome = true ∧ (∀ k, top < k → lookupReg index k = none) ∧
      (s.readId acc index 0 staged).1 = [BitVec.ofNat 8 top] ∧ (s.readId acc index 0 staged).2.status = 0 ∧
      s.writeId acc index 0 data = (s.setStatus Code.odReadOnly).noteAccess acc (256 * index) ∧
      (s.describe index 0).2.take 4 = [2, 0, 0, 0]

/-- Any list of entries is posted to a queue that holds at most 32. Every entry takes the next SEQ, held or dropped.
In LOCAL mode the first ones that fit are held after those held before, the first of them with LOST where an entry
was dropped before it, and the others are counted in NQ_LOST; in STREAM mode the latest 32 are held. NQ_READ returns
what is held, oldest first, and empties the queue in LOCAL mode only. -/
def Obligations.QueuesHoldThirtyTwoEntries : Prop :=
  (∀ (q : Nat) (es : List Entry) (s : State), (s.queue q).entries.length ≤ 32 →
    let t := es.foldl (fun u e => u.post q e) s
    let held := (s.queue q).entries
    let room := 32 - held.length
    let seqs := es.zipIdx.map (fun (e, k) => { e with seq := (s.reg .NQ_SEQ q + k) % 2 ^ 32 })
    t.reg .NQ_SEQ q = (s.reg .NQ_SEQ q + es.length) % 2 ^ 32 ∧ (t.queue q).entries.length ≤ 32 ∧
    if s.reg .NQ_MODE q = 0 then
      (t.queue q).entries = held ++ (seqs.take room).zipIdx.map (fun (e, k) =>
        { e with lost := k == 0 && (s.queue q).dropped }) ∧
      t.reg .NQ_LOST q = (s.reg .NQ_LOST q + (es.length - room)) % 2 ^ Reg.NQ_LOST.width ∧
      (t.queue q).dropped = if es = [] then (s.queue q).dropped else decide (room < es.length)
    else (t.queue q).entries = (held ++ seqs).drop ((held ++ seqs).length - 32) ∧
      t.reg .NQ_LOST q = s.reg .NQ_LOST q) ∧
  (∀ (acc : Accessor) (q : Fin 2048) (s : State),
    let k := q.val
    if s.reachable acc = false then exec (.nqRead acc q) s = .next { s with value := [] }
    else
      match readFault s acc .NQ_READ with
      | some code => exec (.nqRead acc q) s = .next { s.answered acc .NQ_READ k code with value := [] }
      | none =>
        ∃ t, exec (.nqRead acc q) s = .next t ∧ Touches Changes.nqRead s t ∧
          t.status = 0 ∧ t.value = (s.queue k).entries.flatMap (fun e => leBytes 32 e.raw) ∧
          t.caps = s.caps ∧ t.draws = s.draws ∧ (∀ j, j ≠ k → t.queue j = s.queue j) ∧
          (t.queue k).subscribers = (s.queue k).subscribers ∧
          (t.queue k).entries = if s.reg .NQ_MODE k = 0 then [] else (s.queue k).entries)

/-- Every ray of a hogel has its three linear values multiplied by the hogel's gains with rounding and saturation,
and looked up in the surface's output LUT by the interpolation of R96. Whether gains apply is fixed where a boundary
blends the sets: with CAL_GAIN_BYPASS 1 there, every gain of the frame is 0x4000 and changes nothing. The result
lies between its two entries, and linear 65,535 gives entry 4,096. -/
def Obligations.GainAndOutputTransfer : Prop :=
  (∀ l g, applyGain l g = min 65535 ((l * g + 8192) >>> 14)) ∧ (∀ l, l ≤ 65535 → applyGain l 0x4000 = l) ∧
  (∀ (s : State) (surf b c : Nat),
    (s.reg .CAL_GAIN_BYPASS surf = 1 → ((s.blendSets surf).hogel surf b c).gain = [0x4000, 0x4000, 0x4000]) ∧
    (s.gainOn surf = false → (s.hogel surf b c).gain = [0x4000, 0x4000, 0x4000]) ∧
    (s.gainOn surf = true → s.calPoisoned 1 surf (8 * (b * s.reg .SURF_WIDTH surf + c)) 2 4 = false →
      (s.hogel surf b c).gain =
        (s.calElems 1 surf (8 * (b * s.reg .SURF_WIDTH surf + c)) 2 3 false).map Int.toNat)) ∧
  (∀ (e : Nat → Nat) (l : Nat), l ≤ 65535 →
    let k := l >>> 4
    let f : Int := (l % 16 : Nat)
    let q := outputTransfer e l
    (k < 4095 → q = (e k : Int) + ((((e (k + 1) : Int) - e k) * f + 8) >>> 4) ∧
      min (e k : Int) (e (k + 1)) ≤ q ∧ q ≤ max (e k : Int) (e (k + 1))) ∧
    (4095 ≤ k → q = (e 4095 : Int) + Int.fdiv (((e 4096 : Int) - e 4095) * f + 7) 15 ∧
      min (e 4095 : Int) (e 4096) ≤ q ∧ q ≤ max (e 4095 : Int) (e 4096)) ∧
    (l = 65535 → q = e 4096)) ∧
  (∀ (s : State) (surf stage frame b c v h : Nat) (g : Hogel),
    let l := (s.composite surf (s.raySources surf stage b c v h g).1 (0, 0, 0) 65536 []).1
    let code (ch x : Nat) := min 1023 (((outputTransfer (s.lut surf (8 + s.reg .OUT_LUT_SEL surf))
      (applyGain (min x 65535) (g.gain.getD ch 0x4000))).toNat + ditherValue (s.reg .SYN_DITHER surf) (c * 96 + h)
        (b * s.reg .V_COUNT surf + v) ch (frame % 64)) / 64)
    (s.ray surf stage frame b c v h g).word = code 0 l.1 * 2 ^ 20 + code 1 l.2.1 * 2 ^ 10 + code 2 l.2.2)

/-- The transform of R145 has its stated arithmetic, keeps alpha and the channel order, and is inverted exactly.
INTRA prediction takes the value of its table. A residue is zigzag-coded and written in one of the two forms of
R151; a decoder that reads the code in front of any bits gets the value and those bits. -/
def Obligations.HuskTransformAndCodes : Prop :=
  (∀ (r g b : Int) (rest : List Int),
    let co := r - b
    let t := b + (co >>> 1)
    let cg := g - t
    Husk.forward 1 (r :: g :: b :: rest) = (t + (cg >>> 1)) :: co :: cg :: rest ∧
    Husk.forward 0 (r :: g :: b :: rest) = r :: g :: b :: rest ∧
    Husk.inverse 1 (Husk.forward 1 (r :: g :: b :: rest)) = r :: g :: b :: rest ∧
    Husk.inverse 0 (Husk.forward 0 (r :: g :: b :: rest)) = r :: g :: b :: rest) ∧
  (∀ (y co cg : Int) (rest : List Int),
    let t := y - (cg >>> 1)
    let b := t - (co >>> 1)
    Husk.inverse 1 (y :: co :: cg :: rest) = (b + co) :: (cg + t) :: b :: rest) ∧
  (∀ first a b c : Int, Husk.intraPred first none none = first ∧ Husk.intraPred first (some a) none = a ∧
    Husk.intraPred first none (some (b, c)) = b ∧
    Husk.intraPred first (some a) (some (b, c)) = max (min a b) (min (max a b) (a + b - c))) ∧
  (∀ e : Int, (0 ≤ e → (Husk.zigzag e : Int) = 2 * e) ∧ (e < 0 → (Husk.zigzag e : Int) = -2 * e - 1) ∧
    Husk.unzig (Husk.zigzag e) = e) ∧
  ∀ (k z : Nat) (rest : List Bool), z < 4096 → k < 12 →
    (z >>> k < 24 → Husk.putCode k z = List.replicate (z >>> k) true ++ [false] ++
      (List.range k).map (fun n => z.testBit (k - 1 - n))) ∧
    (24 ≤ z >>> k → Husk.putCode k z = List.replicate 24 true ++ (List.range 12).map (fun n => z.testBit (11 - n))) ∧
    Husk.takeCode k (Husk.putCode k z ++ rest) = some (z, rest)

/-- For every FORMAT, XFORM, K0 and reference distance, and any samples in range, the tile that the encoder writes,
of a whole number of 8-byte units and of a LEN in range, decodes to exactly those samples, given the reference that
the encoder had. Any reference in range will do. -/
def Obligations.HuskIsLossless : Prop :=
  ∀ (format xform k0 d : Nat) (ref : Option (List Husk.Sample)) (xs : List Husk.Sample)
    (refOf : Nat → Nat → Option (List Husk.Sample)),
    let (w, n, nch) := Husk.dims format
    let good (ys : List Husk.Sample) : Prop :=
      ys.length = w * n ∧ ∀ y ∈ ys, y.length = nch ∧ ∀ v ∈ y, 0 ≤ v ∧ v ≤ 1023
    format < 4 → xform < 2 → k0 < 12 → 1 ≤ d → d ≤ 64 → good xs → (∀ r, ref = some r → good r) →
    refOf d format = ref →
    ∃ h, Husk.decode (Husk.encode format xform k0 d ref xs) [format] refOf = .ok (h, xs) ∧ h.format = format ∧
      8 * h.len = (Husk.encode format xform k0 d ref xs).length ∧ h.len ≤ Husk.maxLen format

/-- Each bit of a new pixel is the bit of ROP that the source, pattern and destination bits at its position select.
A job reads the source, pattern and destination only under the three conditions of R334; where one is not read the
result does not depend on it, and a pixel that reads neither source nor destination meets no poison. -/
def Obligations.RasterOperation : Prop :=
  (∀ (op src pat dst n k : Nat), k < n →
    (rop op src pat dst n).testBit k =
      op.testBit ((b2n (src.testBit k) <<< 2) ||| (b2n (pat.testBit k) <<< 1) ||| b2n (dst.testBit k))) ∧
  (∀ j : SkJob, j.rop < 256 →
    (j.readsSrc = true ↔ j.rop >>> 4 ≠ j.rop &&& 0x0F) ∧
    (j.readsPat = true ↔ (j.rop >>> 2) &&& 0x33 ≠ j.rop &&& 0x33) ∧
    (j.readsDst = true ↔ (j.rop >>> 1) &&& 0x55 ≠ j.rop &&& 0x55) ∧
    ∀ src src' pat pat' dst dst' n : Nat,
      (j.readsSrc = false → rop j.rop src pat dst n = rop j.rop src' pat dst n) ∧
      (j.readsPat = false → rop j.rop src pat dst n = rop j.rop src pat' dst n) ∧
      (j.readsDst = false → rop j.rop src pat dst n = rop j.rop src pat dst' n)) ∧
  (∀ (r : SkRun) (k : Nat) (j : SkJob) (pat : List Byte) (x y : Nat), r.stop = none → j.readsSrc = false →
    j.readsDst = false → (r.pixel k j pat x y).stop ≠ some .poison) ∧
  (∀ src pat dst n : Nat, src < 2 ^ n → pat < 2 ^ n → dst < 2 ^ n →
    rop 0x00 src pat dst n = 0 ∧ rop 0xFF src pat dst n = 2 ^ n - 1 ∧ rop 0xF0 src pat dst n = src ∧
    rop 0xCC src pat dst n = pat ∧ rop 0xAA src pat dst n = dst ∧ rop 0xC0 src pat dst n = src &&& pat ∧
    rop 0xFA src pat dst n = src ||| dst ∧ rop 0x5A src pat dst n = src ^^^ dst ∧
    rop 0xCA src pat dst n = (src &&& pat) ||| (dst &&& (src ^^^ (2 ^ n - 1))) ∧
    rop 0xEE src pat dst n = pat ||| dst ∧ rop 0x66 src pat dst n = pat ^^^ dst)

/-- A POWER or DEVICE reset leaves every byte of the store initialised anew, without a poison mark, and the whole
sweep to run. A THERMAL reset, and every command that begins a warm restart, keep the store's bytes, its poison
marks and the state of its initialisation. -/
def Obligations.ResetsAndTheStore : Prop :=
  ∀ (s : State),
    (∀ boot defaultsN groups t, exec (.powerReset boot defaultsN groups) s = .next t →
      t.mem = [] ∧ t.poison = [] ∧ t.reg .MS_INIT_STATE 0 = 0 ∧ ∀ p, t.reg .iSWEEP p = 0) ∧
    (∀ boot defaultsN t, exec (.deviceReset boot defaultsN) s = .next t →
      t.mem = [] ∧ t.poison = [] ∧ t.reg .MS_INIT_STATE 0 = 0 ∧ ∀ p, t.reg .iSWEEP p = 0) ∧
    ∀ c ∈ [Instr.thermalRestart, .warmRestart, .pipFreezeWatchdog, .watchdogTimeout 0, .watchdogTimeout 1,
        .watchdogTimeout 2, .watchdogTimeout 3, .trialTimeout], ∀ t, exec c s = .next t →
      t.mem = s.mem ∧ t.poison = s.poison ∧ t.reg .MS_INIT_STATE 0 = s.reg .MS_INIT_STATE 0 ∧
      ∀ p, t.reg .iSWEEP p = s.reg .iSWEEP p

/-- For an accessor that may write them: a write of TH_RESTART above TH_SHUT - 10.0 °C, and of TH_SHUT below
TH_RESTART + 10.0 °C, is refused with OD_RANGE and both values stay, whether it comes as its own command or by ID;
after any write of either that is accepted they are at least 10.0 °C apart. -/
def Obligations.ShutdownHysteresis : Prop :=
  ∀ (acc : Accessor) (restart : Bool) (v : BitVec 16) (s : State),
    let r : Reg := if restart then .TH_RESTART else .TH_SHUT
    let breaks : Prop := if restart then s.regInt .TH_SHUT 0 - 160 < v.toInt else v.toInt < s.regInt .TH_RESTART 0 + 160
    s.reachable acc = true → s.served r = true → mayWrite (s.role acc) (regRow r).level = true →
      (breaks → exec (.thShutWrite acc restart v) s = .next (s.answered acc r 0 Code.odRange) ∧
        exec (.parameterWrite acc (BitVec.ofNat 16 (regRow r).index) (BitVec.ofNat 8 (regRow r).sub)
          (leBytes 2 v.toNat)) s = .next (s.answered acc r 0 Code.odRange) ∧
        ∀ x, (s.answered acc r 0 Code.odRange).reg .TH_SHUT x = s.reg .TH_SHUT x ∧
          (s.answered acc r 0 Code.odRange).reg .TH_RESTART x = s.reg .TH_RESTART x) ∧
      ∀ t, exec (.thShutWrite acc restart v) s = .next t → t.status = 0 →
        t.regInt .TH_RESTART 0 + 160 ≤ t.regInt .TH_SHUT 0

/-- What the commands of the Eyelet do: arming and disarming outputs, their parameters, assert edges, pulse ends and
captured edges. Each command completes with exactly this effect and leaves all else as it was. -/
def Obligations.EyeletCommands : Prop :=
  -- R367. ARM starts the output in its mode. It is refused with EYE_PAST where EYE_START of a ONE_SHOT is not at
  -- least 1 µs ahead, and with EYE_BAD where EYE_PERIOD (UQ48.16) of a PERIODIC does not exceed EYE_WIDTH (ns). A
  -- PERIODIC output begins with edge 0, or where EYE_START has passed with the first edge of its grid at least 1
  -- µs after the arming. A FRAME output takes the edge of the frame in progress only where its time is still to
  -- come.
  (∀ (acc : Accessor) (e : Fin 8) (s : State), s.Passes acc .EYE_CTRL e.val 1 →
    let k := e.val
    let mode := s.reg .EYE_MODE k
    if mode = 1 ∧ asInt 64 (s.reg .EYE_START k + 2 ^ 64 - s.now) < 1000 then
      exec (.eyeCtrlArm acc e) s = .next (s.answered acc .EYE_CTRL k Code.eyePast)
    else if mode = 2 ∧ s.reg .EYE_PERIOD k ≤ s.reg .EYE_WIDTH k * 65536 then
      exec (.eyeCtrlArm acc e) s = .next (s.answered acc .EYE_CTRL k Code.eyeBad)
    else if mode = 0 then exec (.eyeCtrlArm acc e) s = .next (s.answered acc .EYE_CTRL k 0)
    else
      let first := if mode = 2 then s.firstK k else 0
      let spent := mode = 2 ∧ s.reg .EYE_COUNT k ≠ 0 ∧ s.reg .EYE_COUNT k ≤ first
      ∃ t, exec (.eyeCtrlArm acc e) s = .next t ∧ Touches Changes.eyeCtrlArm s t ∧
        (t.status = 0 ∧ t.Holds .iEYE_K k first ∧
         t.reg .EYE_STATE k = (if spent ∧ s.reg .iEYE_ON k = 0 then 2 else 1) ∧
         (∀ x ∈ t.eyeEdges, x.1 = k → mode = 3 ∧ x.2 = s.reg .iG_B3 (s.reg .EYE_GEN k) + 3 * s.eyeOffset k ∧
           reached16 s.now16 (edgeAt3 x.2) = false) ∧ ∀ j, k ≠ j → t.reg .EYE_STATE j = s.reg .EYE_STATE j)) ∧
  -- R367. DISARM produces no further assert edge: the output is IDLE and nothing of it is scheduled. A pulse of
  -- width 0 ends at once, any other at its programmed width.
  (∀ (acc : Accessor) (e : Fin 8) (s : State), s.Passes acc .EYE_CTRL e.val 2 →
    ∃ t, exec (.eyeCtrlDisarm acc e) s = .next t ∧ Touches Changes.eyeCtrlDisarm s t ∧
      (t.status = 0 ∧ t.reg .EYE_STATE e.val = 0 ∧ t.nextEdge e.val = none ∧
       t.eyeEdges = s.eyeEdges.filter (fun x => x.1 != e.val) ∧
       t.reg .iEYE_ON e.val = (if s.reg .iEYE_END e.val = 0 then 0 else s.reg .iEYE_ON e.val) ∧
       ∀ j, e.val ≠ j → t.reg .EYE_STATE j = s.reg .EYE_STATE j ∧ t.reg .iEYE_ON j = s.reg .iEYE_ON j)) ∧
  -- R367. A timing parameter takes the value written, or EYE_BUSY refuses the write while EYE_STATE is ARMED.
  (∀ (acc : Accessor) (e : Fin 8) (p : EyeParam) (v : Nat) (s : State), s.Passes acc (eyeReg p) e.val v →
    if s.reg .EYE_STATE e.val = 1 then
      exec (.eyeParamWrite acc e p v) s = .next (s.answered acc (eyeReg p) e.val Code.eyeBusy)
    else
      ∃ t, exec (.eyeParamWrite acc e p v) s = .next t ∧ Touches Changes.eyeParamWrite s t ∧
        (t.status = 0 ∧ t.Holds (eyeReg p) e.val v ∧
         (∀ j, e.val ≠ j → t.reg (eyeReg p) j = s.reg (eyeReg p) j) ∧
         ∀ q, q ≠ p → t.reg (eyeReg q) e.val = s.reg (eyeReg q) e.val)) ∧
  -- R368. Once the timebase has reached the time of the next edge of an output, the edge is produced: the output
  -- is active, EYE_EDGES counts it, and it is the event of the output's lace request (R318). Before that, and
  -- where no edge is to come, nothing changes.
  (∀ (e : Fin 8) (s : State),
    match s.nextEdge e.val with
    | none => exec (.eyeAssertEdge e) s = .next s
    | some x =>
      if reached16 s.now16 x then
        ∃ t, exec (.eyeAssertEdge e) s = .next t ∧ Touches Changes.eyeAssertEdge s t ∧
          (t.reg .iEYE_ON e.val = 1 ∧ Counted s t .EYE_EDGES e.val 1 ∧
           ∀ j, e.val ≠ j → t.reg .iEYE_ON j = s.reg .iEYE_ON j ∧ t.reg .EYE_EDGES j = s.reg .EYE_EDGES j)
      else exec (.eyeAssertEdge e) s = .next s) ∧
  -- R366, R367. A pulse ends after its width; an ARMED output without an edge to come is then DONE. A pulse of
  -- width 0 has no end.
  (∀ (e : Fin 8) (s : State),
    if s.reg .iEYE_ON e.val = 1 ∧ s.reg .iEYE_END e.val ≠ 0 ∧ s.reg .iEYE_END e.val ≤ s.local_ + 1 then
      ∃ t, exec (.eyePulseEnd e) s = .next t ∧ Touches (regs [.iEYE_ON, .EYE_STATE]) s t ∧
        (t.reg .iEYE_ON e.val = 0 ∧
         t.reg .EYE_STATE e.val = (if s.reg .EYE_STATE e.val = 1 ∧ s.reg .iEYE_LAST e.val = 1 then 2
           else s.reg .EYE_STATE e.val) ∧
         ∀ j, e.val ≠ j → t.reg .iEYE_ON j = s.reg .iEYE_ON j ∧ t.reg .EYE_STATE j = s.reg .EYE_STATE j)
    else exec (.eyePulseEnd e) s = .next s) ∧
  -- R370. An edge that CAP_EDGE does not choose, or whose level held for less than CAP_FILTER x 2 ns, changes
  -- nothing. One within CAP_HOLDOFF after the last counted edge counts in CAP_IGNORED. Any other is counted; with
  -- 16 records held it counts in CAP_OVERFLOW and is discarded, and otherwise its record (TIME, FRAC, SEQ, FLAGS)
  -- joins the queue and EYE_CAPTURE is raised.
  (∀ (e : Fin 8) (fall : Bool) (held stamp : Nat) (s : State),
    let k := e.val
    let chosen := if fall then 2 ≤ s.reg .CAP_EDGE k else s.reg .CAP_EDGE k % 2 = 1
    let since := since16 stamp (s.reg .iCAP_AT k - 1 : Nat)
    if ¬ chosen ∨ held < 2 * s.reg .CAP_FILTER k then exec (.captureEdge e fall held stamp) s = .next s
    else if s.reg .iCAP_AT k ≠ 0 ∧ since < (s.reg .CAP_HOLDOFF k * 65536 : Nat) ∧ 0 ≤ since then
      ∃ t, exec (.captureEdge e fall held stamp) s = .next t ∧ Touches Changes.captureEdge s t ∧
        Counted s t .CAP_IGNORED k 1 ∧ t.caps = s.caps ∧
        t.reg .CAP_COUNT k = s.reg .CAP_COUNT k
    else
      ∃ t, exec (.captureEdge e fall held stamp) s = .next t ∧ Touches Changes.captureEdge s t ∧
        Counted s t .CAP_COUNT k 1 ∧
        if 16 ≤ s.capHeld k then
          t.caps = s.caps ∧ Counted s t .CAP_OVERFLOW k 1 ∧
          t.lastEvent = (if s.reg .iCAP_FULL k = 1 then s.lastEvent else some (Code.eyeOverflow, packBits [(8, k)]))
        else
          let seq := t.reg .CAP_COUNT k % 65536
          t.caps = s.caps ++ [(k, packBits [(1, b2n fall), (1, s.reg .iCAP_STEPPED k), (1, b2n !s.timeLocked),
            (29, 0), (16, seq), (16, stamp % 65536), (64, stamp / 65536 % 2 ^ 64)])] ∧
          t.lastEvent = some (Code.eyeCapture, packBits [(8, k), (16, seq), (64, stamp / 65536 % 2 ^ 64)]))

/-- What opens and publishes a frame, takes a deadline, and queues, assigns and completes tiles. Each command
completes with exactly this effect and leaves all else as it was. -/
def Obligations.FrameAndTiles : Prop :=
  -- R21. A boundary that has come opens a frame of the surface: its record names the generator's frame number and
  -- boundary, the stage, the temperature, the commit, the ray map and the mode that the steps fixed, and dispatch,
  -- scan-out and slot release begin again. Before it has come nothing changes.
  (∀ (surf : Surface) (s : State),
    let k := surf.val
    ∃ t, exec (.frameBoundary surf) s = .next t ∧ Touches Changes.frameBoundary s t ∧
      let f := t.frame k
      if s.boundaryDue k then
        t.reg .iS_LINE k = 0 ∧ t.reg .iS_DISPATCHED k = 0 ∧ t.reg .iS_RELEASED k = 0 ∧
        f.frameNo = t.reg .LAST_FRAME (t.genOf k) ∧ f.stage = t.reg .iS_STAGE k ∧ f.temp = t.reg .TP_TEMP k ∧
        f.commit = t.reg .CMT_IN_FORCE k ∧ f.gen = t.genOf k ∧ f.digest = digestInit ∧ f.underLines = 0 ∧
        f.boundary = t.reg .iG_B3 (t.genOf k) / 3 ∧ f.rayMap = t.reg .CAL_RAYMAP_SEL k ∧
        f.mode = (if t.reg .SO_OUT_STATE k = 1 then t.reg .SURF_MODE k else 3) ∧
        t.gainOn k = t.gainUsed k ∧
        t.reg .iS_SEEN k = t.reg .iG_COUNT (t.genOf k)
      else t = s) ∧
  -- R38. The oldest ended frame of the surface is published: FR_LAST is its record, FR_FRAME its number, FR_DIGEST
  -- its digest, FR_FLAGS its flags, UR_LINES_TOTAL counts its underrun lines, and the record joins the history.
  -- Where none waits nothing changes.
  (∀ (surf : Surface) (s : State),
    let k := surf.val
    match s.awaiting.find? (fun e => e.1 == k) with
    | none => exec (.frameRecordPublish surf) s = .next s
    | some e =>
      ∃ t, exec (.frameRecordPublish surf) s = .next t ∧ Touches Changes.frameRecordPublish s t ∧
        t.awaiting = s.awaiting.erase e ∧ t.Holds .FR_LAST k (e.2.word k) ∧ t.Holds .FR_FRAME k e.2.frameNo ∧
        t.Holds .FR_DIGEST k (digestFinal e.2.digest) ∧ t.Holds .FR_FLAGS k e.2.flags ∧
        Counted s t .UR_LINES_TOTAL k e.2.underLines ∧
        (if k = 0 then t.historyA else t.historyB).getLast? = some (e.2.word k) ∧
        (if k = 0 then t.historyB = s.historyB else t.historyA = s.historyA)) ∧
  -- R192, R193. A commit deadline that has come is taken once for the boundary it precedes. While the firmware
  -- runs, every value staged for this surface alone outside a group has gone into a commit, and on a surface that
  -- is not dark the commits of this surface alone outside a group have been evaluated and no longer wait, where
  -- fewer than six waited. Before the deadline, and once it is taken, nothing changes.
  (∀ (surf : Surface) (seen : Seen) (s : State),
    let k := surf.val
    if s.deadlineReached k = true ∧ s.deadlineTaken k = false then
      ∃ t, exec (.commitDeadline surf seen) s = .next t ∧ Touches Changes.commitDeadline s t ∧
        t.Holds .iS_DEADLINE k (s.reg .iS_SEEN k + 1) ∧ t.seen = s.seen ∧
        (s.reg .iPHASE 0 = 1 → ∀ e ∈ t.staged, e.group = none → e.surfs ≠ 2 ^ k) ∧
        (s.commits.length < 6 → t.holdsDark k = false → s.reg .iPHASE 0 = 1 → ∀ c ∈ t.commits,
          c.surfs = 2 ^ k → c.group ≠ none)
    else exec (.commitDeadline surf seen) s = .next s) ∧
  -- R108. At the start of raster position 22 + b the tiles of band b are queued, each due at the start of raster
  -- position 24 + b; a surface that is not LIT queues none (R126).
  (∀ (surf : Surface) (s : State),
    let k := surf.val
    let b := s.reg .iS_DISPATCHED k
    if b < s.reg .SURF_HEIGHT k ∧ s.rasterReached k (22 + b) 0 = true then
      ∃ t, exec (.bandDispatch surf) s = .next t ∧
        Touches (regs [.iS_DISPATCHED] ++ flds [.tileQueue]) s t ∧
        t.Holds .iS_DISPATCHED k (b + 1) ∧
        t.tileQueue = s.tileQueue ++ (if s.reg .SO_OUT_STATE k = 1 then
          (List.range (s.reg .SURF_WIDTH k / 32)).map (fun x => ⟨k, b, x, s.rasterLocal k (24 + b)⟩) else [])
    else exec (.bandDispatch surf) s = .next s) ∧
  -- R109. The tile to be served next goes to the lowest-numbered ACTIVE cluster that holds fewer than 2 tiles; it
  -- leaves the queue it stood in. Without such a tile or such a cluster nothing changes.
  (∀ (s : State),
    match s.nextTile, s.freeCluster with
    | some x, some n =>
      ∃ t, exec .tileAssign s = .next t ∧
        Touches (flds [.requeued, .tileQueue, .held, .frameA, .frameB]) s t ∧
        t.held = s.held ++ [(n, x)] ∧ t.requeued = s.requeued.erase x ∧ t.tileQueue = s.tileQueue.erase x ∧
        n ∈ s.activeClusters ∧ (s.held.filter (fun e => e.1 == n)).length < 2 ∧
        bit (t.frame x.surf).clusters n = true
    | _, _ => exec .tileAssign s = .next s) ∧
  -- R110, R30, R296. A cluster finishes the tile it was given first: the tile is no longer held, CL_TILES counts
  -- it, and where the surface is LIT its lines stand in the band ring; unless a window froze the cluster, which
  -- then holds no tile. A cluster that holds none, or whose data no channel serves yet, changes nothing.
  (∀ (c : Fin 16) (fills : List Fill) (seen : Seen) (s : State),
    match s.held.find? (fun e => e.1 == c.val) with
    | none => exec (.tileComplete c fills seen) s = .next s
    | some e =>
      if (fills.flatMap (s.fillRanges e.2)).all (fun r => s.rangeServed r.1 r.2) = false then
        exec (.tileComplete c fills seen) s = .next s
      else
        ∃ t, exec (.tileComplete c fills seen) s = .next t ∧ Touches Changes.tileComplete s t ∧
          if t.isFrozen (coreMaster (Fin.ofNat 256 c.val)) = true then ∀ x ∈ t.held, x.1 ≠ c.val
          else t.held = s.held.erase e ∧ Counted s t .CL_TILES c.val 1 ∧
            (s.reg .SO_OUT_STATE e.2.surf = 1 →
              t.ring.any (fun r => r.surf == e.2.surf && r.band == e.2.band && r.tile == e.2.tile) = true))

/-- What the release of a ring slot, the start of a ray line, the enable writes of a surface and the coding of a tap
frame do. Each command completes with exactly this effect and leaves all else as it was. -/
def Obligations.SurfaceTimingAndTaps : Prop :=
  -- R111, R297. At the start of raster position 25 + b the slot of band b is released: no tile of the band is
  -- queued, held or in the ring, and HZ_LATE_TILES counts those that were unfinished. While the band-ring scrubber
  -- is enabled, a part of the slot is tested: SC_CORRECTED and SC_UNCORRECTABLE of class 2 count what the test
  -- finds.
  (∀ (surf : Surface) (test : List (Nat × Finding)) (s : State),
    let k := surf.val
    let b := s.reg .iS_RELEASED k
    if b < s.reg .SURF_HEIGHT k ∧ s.rasterReached k (25 + b) 0 = true then
      ∃ t, exec (.slotRelease surf test) s = .next t ∧ Touches Changes.slotRelease s t ∧
        t.Holds .iS_RELEASED k (b + 1) ∧
        (∀ x ∈ t.requeued ++ t.tileQueue ++ t.held.map Prod.snd, ¬ (x.surf = k ∧ x.band = b)) ∧
        (∀ r ∈ t.ring, ¬ (r.surf = k ∧ r.band = b)) ∧
        Counted s t .HZ_LATE_TILES 0 ((s.requeued.filter (fun x => x.inBand k b)).length
          + (s.tileQueue.filter (fun x => x.inBand k b)).length
          + (s.held.filter (fun e => e.2.inBand k b)).length) ∧
        (s.reg .SC_ENABLE 2 = 1 →
          Counted s t .SC_CORRECTED 2 (test.countP (fun e => e.2 == .correctable)) ∧
          Counted s t .SC_UNCORRECTABLE 2 (test.countP (fun e => e.2 == .uncorrectable)))
    else exec (.slotRelease surf test) s = .next s) ∧
  -- R216, R217, R297. A ray line that has begun is read: from the first undone tile on it is SO_FILL, and so is a
  -- ray whose ring word is read with an uncorrectable error; the digest of the frame takes what is sent, a line
  -- with such fill on a LIT surface counts once as underrun, and the next line is due. A line that has not begun
  -- changes nothing.
  (∀ (surf : Surface) (bad : List (Fin 92160)) (s : State),
    let k := surf.val
    let n := s.reg .iS_LINE k
    let b := n / s.vCount k
    let j := n % s.vCount k
    let tu := if s.reg .SO_OUT_STATE k = 1 then s.firstUndone k b else 0
    if n < s.activeLines k ∧ s.rasterReached k (24 + b) j = true then
      ∃ t, exec (.rayLineStart surf bad) s = .next t ∧ Touches Changes.rayLineStart s t ∧
        t.Holds .iS_LINE k (n + 1) ∧
        (t.frame k).digest = digestWords (s.frame k).digest (s.lineWords k b j tu (badRays tu bad)) ∧
        (t.frame k).underLines = (s.frame k).underLines
          + b2n (s.reg .SO_OUT_STATE k == 1
            && (decide (32 * tu < s.reg .SURF_WIDTH k) || !(badRays tu bad).isEmpty))
    else exec (.rayLineStart surf bad) s = .next s) ∧
  -- R222, R226. The oldest waiting block row of the tap's oldest frame is coded, where an encoder serves the tap
  -- and the channels serve, unless a protection window froze the encoder (R30); otherwise nothing changes.
  (∀ (surf : Surface) (k : Fin 8) (seen : Seen) (s : State),
    let n := 8 * surf.val + k.val
    match s.tapFrame n, s.tapServer n with
    | some x, some e =>
      if x.rows = [] ∨ s.storeServes = false then exec (.tapRowCoded surf k seen) s = .next s
      else
        ∃ t, exec (.tapRowCoded surf k seen) s = .next t ∧ Touches Changes.tapRowCoded s t ∧
          (t.isFrozen (codecMaster e) = true ∨ t.taps.length = s.taps.length ∧
           ∃ z ∈ t.taps, z.tap = n ∧ z.rows = x.rows.drop 1 ∧ z.coded = x.coded ++ [(x.rows.headD (0, [])).1])
    | _, _ => exec (.tapRowCoded surf k seen) s = .next s) ∧
  -- R225, R226. Once the record of a tap's oldest frame is published and its rows are coded, the header is
  -- written, TAP_HEAD goes on to the next slot, TAP_FRAMES counts and TAP_READY is raised with surface, tap, slot
  -- and frame number, unless a protection window froze the encoder (R30). Without a tap frame, before its record
  -- and while the channels do not serve nothing changes.
  (∀ (surf : Surface) (k : Fin 8) (seen : Seen) (s : State),
    let n := 8 * surf.val + k.val
    match s.tapFrame n with
    | none => exec (.tapFrameHeaderWrite surf k seen) s = .next s
    | some x =>
      match x.record with
      | none => exec (.tapFrameHeaderWrite surf k seen) s = .next s
      | some _ =>
        if (s.encoderOf n).isNone then
          exec (.tapFrameHeaderWrite surf k seen) s = .next { s with taps := s.taps.erase x }
        else if x.rows ≠ [] ∨ s.storeServes = false ∨ (s.tapServer n).isNone then
          exec (.tapFrameHeaderWrite surf k seen) s = .next s
        else
          ∃ t, exec (.tapFrameHeaderWrite surf k seen) s = .next t ∧ Touches Changes.tapFrameHeaderWrite s t ∧
            ((t.taps = s.taps.erase x ∧
               t.Holds .TAP_HEAD n ((s.reg .TAP_HEAD n + 1) % s.reg .TAP_SLOTS n) ∧ Counted s t .TAP_FRAMES n 1 ∧
               t.lastEvent = some (Code.tapReady,
                 packBits [(8, surf.val), (8, k.val), (16, s.reg .TAP_HEAD n), (64, x.frameNo)])) ∨
             ∃ e, s.tapServer n = some e ∧ t.isFrozen (codecMaster e) = true)) ∧
  -- R226, R227. TAP_TAIL takes the value written.
  (∀ (acc : Accessor) (surf : Surface) (k : Fin 8) (tail : BitVec 16) (s : State), s.Passes acc .TAP_TAIL (8 *
      surf.val + k.val) tail.toNat →
    ∃ t, exec (.tapTailWrite acc surf k tail) s = .next t ∧
      Touches (regs [.TAP_TAIL, .iACC_STATUS, .iACC_ID] ++ flds [.status]) s t ∧
      (t.status = 0 ∧ t.reg .TAP_TAIL (8 * surf.val + k.val) = tail.toNat ∧
       ∀ i, 8 * surf.val + k.val ≠ i → t.reg .TAP_TAIL i = s.reg .TAP_TAIL i)) ∧
  -- R227. A write of TAP_BASE or TAP_SLOTS is refused with TAP_BUSY while the tap is enabled, and otherwise takes
  -- effect. A TAP_V at or above the V_COUNT the surface will have is refused; a TAP_V below it is staged.
  (∀ (acc : Accessor) (surf : Surface) (k : Fin 8) (p : TapParam) (v : Nat) (s : State), s.Passes acc (tapReg p)
      (8 * surf.val + k.val) v →
    let i := 8 * surf.val + k.val
    if p = .v then
      ∃ t, exec (.tapParamWrite acc surf k p v) s = .next t ∧ Touches Changes.tapParamWrite s t ∧
        (s.vCountThen surf.val (s.stagingGroup (ownerOf acc)) ≤ v → t = s.answered acc .TAP_V i Code.odRange) ∧
        t.reg .TAP_V i = s.reg .TAP_V i
    else if s.reg .TAP_ENABLE i = 1 then
      exec (.tapParamWrite acc surf k p v) s = .next (s.answered acc (tapReg p) i Code.tapBusy)
    else
      ∃ t, exec (.tapParamWrite acc surf k p v) s = .next t ∧ Touches Changes.tapParamWrite s t ∧
        (t.status = 0 ∧ t.Holds (tapReg p) i v ∧ ∀ j, i ≠ j → t.reg (tapReg p) j = s.reg (tapReg p) j)) ∧
  -- R220. SO_ENABLE 0 is in force at once. A surface under DRAIN goes OFF at the next boundary; under ABANDON it
  -- is OFF now; one already OFF stays so.
  (∀ (acc : Accessor) (surf : Surface) (s : State), s.Passes acc .SO_ENABLE surf.val 0 →
    let k := surf.val
    ∃ t, exec (.soEnableDisable acc surf) s = .next t ∧ Touches Changes.soEnableDisable s t ∧
      t.status = 0 ∧ t.reg .SO_ENABLE k = 0 ∧ (s.reg .iS_ENABLE k = 1 → t.reg .iS_ENABLE k = 0) ∧
      (s.reg .iS_ENABLE k ≠ 1 → s.reg .SO_OUT_STATE k ≠ 0 → s.reg .iS_DISABLE k ≠ 1 →
        if s.reg .SO_DRAIN k = 1 then t.reg .SO_OUT_STATE k = 0 ∧ t.reg .iS_DISABLE k = 0
        else t.reg .SO_OUT_STATE k = s.reg .SO_OUT_STATE k ∧ t.reg .iS_DISABLE k = 1)) ∧
  -- R220, R405. SO_ENABLE 1 takes effect at the next boundary; while the surface drains it is refused with
  -- FUNC_DRAINING.
  (∀ (acc : Accessor) (surf : Surface) (s : State), s.Passes acc .SO_ENABLE surf.val 1 →
    let k := surf.val
    if s.reg .iS_DISABLE k = 1 then
      exec (.soEnableResume acc surf) s = .next (s.answered acc .SO_ENABLE k Code.funcDraining)
    else
      ∃ t, exec (.soEnableResume acc surf) s = .next t ∧ Touches Changes.soEnableResume s t ∧
        t.status = 0 ∧ t.reg .SO_ENABLE k = 1 ∧
        t.reg .iS_ENABLE k = (if s.reg .SO_OUT_STATE k = 0 then 1 else s.reg .iS_ENABLE k))

/-- What one access, a corrected write-back, window application, release of a frozen master and clearing the poison
log do. Each command completes with exactly this effect and leaves all else as it was. -/
def Obligations.StoreAccesses : Prop :=
  -- R28, R29, R277, R280. A request whose channels do not serve waits, and no reserved identity sends one: nothing
  -- changes. A frozen master is answered so. A read inside one 256-byte granule that the windows allow returns the
  -- bytes the store holds there (zeros from a row not yet initialised) and names the code words that answer
  -- poisoned: those that were, and those the check finds uncorrectable. One that they do not allow freezes the
  -- master and is not performed. A PCIe function answers with the data, a poisoned TLP or a completer abort.
  (∀ (m : Master) (port : Port) (addr len : Nat) (seen : Seen) (s : State),
    if s.rangeServed addr len = false ∨ masterReserved m = true then
      exec (.memoryRead m port addr len seen) s = .next s
    else if s.isFrozen m = true ∧ len ≠ 0 then
      exec (.memoryRead m port addr len seen) s = .next (({ s with answer := ⟨true, [], []⟩ } : State).completeFor m
          ⟨true, [], []⟩)
    else
      ∃ t, exec (.memoryRead m port addr len seen) s = .next t ∧ Touches Changes.memoryRead s t ∧
        (m.ingest = false → 0x5C ≤ m.id.val → m.id.val ≤ 0x5F → t.sent = [if t.answer.frozen then .completion [] 4
          else if t.answer.poisoned.isEmpty then .completion t.answer.data 0 else .poisonedTlp t.answer.data]) ∧
        (t.answer.frozen = false → t.answer.data.length = len) ∧
        (0 < len → addr % 256 + len ≤ 256 →
          if s.allowed m addr len false = true then
            t.answer.frozen = false ∧
            t.answer.data = (if s.rowInit addr then s.bytes addr len else List.replicate len 0) ∧
            t.answer.poisoned = (if s.rowInit addr then (wordsOf addr len).filter (fun w =>
              s.poisoned w || findingOf seen.found w == some .uncorrectable) else [])
          else t.answer.frozen = true ∧ t.isFrozen m = true)) ∧
  -- R28, R29, R272, R274. A write whose channels serve, not of a reserved identity, stores its bytes, and no
  -- others, where the windows allow each part of it; a code word wholly covered loses its poison mark. A write of
  -- a frozen master, or one whose first part no window allows, stores nothing; the latter freezes its master.
  (∀ (m : Master) (port : Port) (addr : Nat) (data : List Byte) (seen : Seen) (s : State),
    if s.rangeServed addr data.length = false ∨ masterReserved m = true then
      exec (.memoryWrite m port addr data seen) s = .next s
    else
      ∃ t, exec (.memoryWrite m port addr data seen) s = .next t ∧ Touches Changes.memoryWrite s t ∧
        (∀ a, a < addr ∨ addr + data.length ≤ a → t.byte a = s.byte a) ∧
        (s.isFrozen m = true → data ≠ [] → t.answer.frozen = true ∧ t.mem = s.mem) ∧
        (s.isFrozen m = false → (∀ p ∈ splitParts addr data.length, s.allowed m p.1 p.2 true = true) →
          t.answer = ⟨false, [], []⟩ ∧ (∀ i, i < data.length → t.byte (addr + i) = data.getD i 0) ∧
          ∀ w, addr ≤ 32 * w → 32 * w + 32 ≤ addr + data.length → t.poisoned w = false) ∧
        (s.isFrozen m = false → data ≠ [] → s.allowed m addr (min data.length (256 - addr % 256)) true = false →
          t.answer.frozen = true ∧ t.mem = s.mem ∧ t.isFrozen m = true)) ∧
  -- R299. The oldest waiting write-back is issued, and poisons its word where the read found it uncorrectable; one
  -- whose word was written meanwhile is dropped and counted. With none waiting, and while its channel does not
  -- serve (R296), nothing changes.
  (∀ (seen : Seen) (s : State),
    match s.writeBacks with
    | [] => exec (.correctedWriteBack seen) s = .next s
    | b :: rest =>
      if b.superseded = true then
        ∃ t, exec (.correctedWriteBack seen) s = .next t ∧ Touches Changes.correctedWriteBack s t ∧
          t.writeBacks = rest ∧ Counted s t .MS_WB_DROPPED 0 1 ∧ t.poison = s.poison
      else if s.rangeServed (32 * b.word) 32 = false then exec (.correctedWriteBack seen) s = .next s
      else
        ∃ t, exec (.correctedWriteBack seen) s = .next t ∧ Touches Changes.correctedWriteBack s t ∧
          (t.writeBacks = rest ∧ t.poisoned b.word = (b.poison || s.poisoned b.word) ∧ Counted s t .QP_BYTES 11 32 ∧
           t.reg .MS_WB_DROPPED 0 = s.reg .MS_WB_DROPPED 0 ∧ ∀ w, w ≠ b.word → t.poisoned w = s.poisoned w)) ∧
  -- R309. PN_CLEAR empties the poison log and zeroes PN_LOST.
  (∀ (acc : Accessor) (s : State), s.Passes acc .PN_CLEAR 0 1 →
    ∃ t, exec (.pnClear acc) s = .next t ∧ Touches Changes.pnClear s t ∧
      t.status = 0 ∧ t.poisonLog = [] ∧ t.reg .PN_LOST 0 = 0) ∧
  -- R301. WIN_APPLY brings all staged windows into force together when every one is well formed, and WIN_STATUS
  -- reads 0; otherwise nothing comes into force, WIN_STATUS holds WIN_BAD and the write is refused with it.
  (∀ (acc : Accessor) (s : State), s.Passes acc .WIN_APPLY 0 1 →
    if (List.range 64).all s.windowOk = true then
      ∃ t, exec (.winApply acc) s = .next t ∧ Touches Changes.winApply s t ∧
        (t.status = 0 ∧ t.reg .WIN_STATUS 0 = 0 ∧ ∀ w, w < 64 →
           t.Holds .iWIN_ENABLE w (s.reg .WIN_ENABLE w) ∧ t.Holds .iWIN_SPACE w (s.reg .WIN_SPACE w) ∧
           t.Holds .iWIN_ID_LO w (s.reg .WIN_ID_LO w) ∧ t.Holds .iWIN_ID_HI w (s.reg .WIN_ID_HI w) ∧
           t.Holds .iWIN_BASE w (s.reg .WIN_BASE w) ∧ t.Holds .iWIN_LIMIT w (s.reg .WIN_LIMIT w) ∧
           t.Holds .iWIN_PERM w (s.reg .WIN_PERM w))
    else
      ∃ t, exec (.winApply acc) s = .next t ∧ Touches Changes.winApply s t ∧
        t.status = Code.winBad ∧ t.Holds .WIN_STATUS 0 Code.winBad ∧
        ∀ r ∈ [Reg.iWIN_ENABLE, .iWIN_SPACE, .iWIN_ID_LO, .iWIN_ID_HI, .iWIN_BASE, .iWIN_LIMIT, .iWIN_PERM],
          ∀ w, t.reg r w = s.reg r w) ∧
  -- R303, R30. MS_RELEASE releases the frozen master it names (a codec or Skiver then writes the record of its
  -- interrupted job, which may freeze it again), and is refused with MASTER_NOT_FROZEN for any other.
  (∀ (acc : Accessor) (m : Master) (s : State), s.Passes acc .MS_RELEASE 0 (256 * masterSpace m + m.id.val) →
    if s.isFrozen m = true then
      ∃ t, exec (.msRelease acc m) s = .next t ∧ Touches Changes.msRelease s t ∧
        t.status = 0 ∧ (m.ingest = true ∨ m.id.val < 0x50 ∨ 0x5C ≤ m.id.val → t.isFrozen m = false)
    else exec (.msRelease acc m) s = .next (s.answered acc .MS_RELEASE 0 Code.masterNotFrozen))

/-- What keeps the stacks: refresh, neighbour refresh, temperatures, retraining and its pauses. Each command
completes with exactly this effect and leaves all else as it was. -/
def Obligations.StoreUpkeep : Prop :=
  -- R292. One bank of the pseudo-channel is refreshed: only its row is closed, and the next bank is due.
  (∀ (pc : Fin 64) (s : State),
    let b := s.reg .iREF_BANK pc.val
    ∃ t, exec (.refresh pc) s = .next t ∧
      Touches (regs [.iREF_COUNT, .iREF_BANK] ++ flds [.banks]) s t ∧
      t.banks = { s.banks with rows := Sparse.erase s.banks.rows (pc.val * 64 + b % 64) } ∧ t.Holds .iREF_BANK pc.val
          ((b + 1) % 64) ∧
      Counted s t .iREF_COUNT pc.val 1 ∧ OnlyAt s t [.iREF_BANK, .iREF_COUNT] pc.val) ∧
  -- R293. The temperature (1/16 °C) is published for the controllers of the stack. Above 85 °C a stack at the
  -- normal rate doubles its refresh rate and HBM_HOT is raised; one that has reported 82 °C or less for 250 ms
  -- takes the normal rate again; otherwise its rate stays.
  (∀ (stack : Fin 2) (temp : BitVec 16) (s : State),
    let n := stack.val
    let hot := bit (s.reg .MS_HOT 0) n
    ∃ t, exec (.stackTempRead stack temp) s = .next t ∧ Touches Changes.stackTempRead s t ∧
      ((∀ c, c < 16 → t.reg .CH_TEMP (n * 16 + c) = temp.toNat) ∧
       (∀ m, m ≠ n → m < 2 → bit (t.reg .MS_HOT 0) m = bit (s.reg .MS_HOT 0) m) ∧
       if hot = false ∧ temp.toInt > 85 * 16 then
         bit (t.reg .MS_HOT 0) n = true ∧ (∀ c, c < 16 → t.reg .CH_REFRESH (n * 16 + c) = 1) ∧
         t.lastEvent = some (Code.hbmHot, packBits [(8, n), (16, temp.toNat)])
       else if hot = true ∧ temp.toInt ≤ 82 * 16 ∧ s.reg .iHOT_SINCE n ≠ 0 ∧
           s.reg .iHOT_SINCE n + 250000000 ≤ s.clock + 1 then
         bit (t.reg .MS_HOT 0) n = false ∧ ∀ c, c < 16 → t.reg .CH_REFRESH (n * 16 + c) = 0
       else t.reg .MS_HOT 0 = s.reg .MS_HOT 0 ∧ ∀ c, t.reg .CH_REFRESH c = s.reg .CH_REFRESH c)) ∧
  -- R294. The neighbour refreshes that activations scheduled in the bank are performed and counted; no row closes.
  (∀ (pc bank : Fin 64) (s : State),
    let b := pc.val * 64 + bank.val
    ∃ t, exec (.neighbourRefresh pc bank) s = .next t ∧ Touches (flds [.banks]) s t ∧
      t.banks.due = s.banks.due.filter (· != b) ∧ t.banks.rows = s.banks.rows ∧
      t.banks.refreshes = s.banks.refreshes + (s.banks.due.filter (· == b)).length) ∧
  -- R295. With MS_RETRAIN_EN 1, channel c falls due once in each period of 100 ms, c x 3,125 µs into it: its 8
  -- pauses are to run. Otherwise nothing changes.
  (∀ (c : Fin 32) (s : State),
    let k := c.val
    if s.reg .MS_RETRAIN_EN 0 = 1 ∧ s.reg .iRT_PERIOD k < s.retrainPeriod k then
      ∃ t, exec (.retrainDue c) s = .next t ∧ Touches Changes.retrainDue s t ∧
        t.reg .iRT_LEFT k = 8 ∧ t.Holds .iRT_PERIOD k (s.retrainPeriod k) ∧ OnlyAt s t [.iRT_LEFT, .iRT_PERIOD] k
    else exec (.retrainDue c) s = .next s) ∧
  -- R295. A pause starts only with pauses left, PLL-HB locked, and 50 µs after the one before; while a PLANE
  -- request is urgent it waits, and starts all the same once it has waited 2 ms, which CH_DEFERRALS counts. After
  -- the last of the 8 the eye margins are published and CH_RETRAINS counts. An eye below 16/64 UI raises
  -- HBM_MARGIN. Pauses 0 to 3 measure the read eye, on the TRAIN port, and 4 to 7 the write eye; a measured eye
  -- moves the delay by at most 2 steps and the voltage by at most 1 from where the retraining began.
  (∀ (c : Fin 32) (urgent : Bool) (width : Fin 65) (height delay vref : BitVec 16) (seen : Seen) (s : State),
    let k := c.val
    let left := s.reg .iRT_LEFT k
    let j := if 4 < left then 4 * k else 4 * k + 2
    let moved (j n : Nat) (v : Int) :=
      clampInt (s.regInt .iRT_SET0 j - n) (s.regInt .iRT_SET0 j + n) v
    if left = 0 ∨ s.reg .CK_STATE 2 ≠ 3 ∨ (left < 8 ∧ s.clock < s.reg .iRT_LAST k + 50000) ∨
         (urgent = true ∧ s.clock < s.reg .iRT_SINCE k + 2000000) then
      exec (.retrainPause c urgent width height delay vref seen) s = .next s
    else
      ∃ t, exec (.retrainPause c urgent width height delay vref seen) s = .next t ∧
        Touches Changes.retrainPause s t ∧
        t.Holds .iRT_LEFT k (left - 1) ∧
        (if urgent then Counted s t .CH_DEFERRALS k 1 else t.reg .CH_DEFERRALS k = s.reg .CH_DEFERRALS k) ∧
        (4 < left → Counted s t .QP_BYTES 1 2048) ∧
        (if width.val = 0 then ∀ n, t.reg .iRT_SET n = s.reg .iRT_SET n
          else t.reg .iRT_SET j = ofInt 16 (moved j 2 delay.toInt) ∧
            t.reg .iRT_SET (j + 1) = ofInt 16 (moved (j + 1) 1 vref.toInt) ∧
            ∀ n, n ≠ j → n ≠ j + 1 → t.reg .iRT_SET n = s.reg .iRT_SET n) ∧
        (if left = 1 then Counted s t .CH_RETRAINS k 1 ∧ t.Holds .CH_RD_EYE_W k (s.reg .iRT_RW k) ∧
            t.Holds .CH_RD_EYE_H k (s.reg .iRT_RH k) ∧ bit (t.reg .iHB_HELD 0) k = false
          else t.reg .CH_RETRAINS k = s.reg .CH_RETRAINS k ∧ (width.val ≠ 0 → width.val < 16 →
            t.lastEvent = some (Code.hbmMargin, packBits [(8, k), (8, width.val)]))) ∧
        OnlyAt s t [.iRT_LEFT, .CH_DEFERRALS, .CH_RETRAINS, .CH_RD_EYE_W, .CH_RD_EYE_H, .CH_WR_EYE_W,
          .CH_WR_EYE_H] k) ∧
  -- R295. CH_RETRAIN_NOW runs one retraining of its channel: its 8 pauses are to run.
  (∀ (acc : Accessor) (c : Fin 32) (s : State), s.Passes acc .CH_RETRAIN_NOW c.val 1 →
    ∃ t, exec (.chRetrainNow acc c) s = .next t ∧ Touches Changes.chRetrainNow s t ∧
      t.status = 0 ∧ t.reg .iRT_LEFT c.val = 8 ∧
      OnlyAt s t [.iRT_LEFT, .iRT_SINCE, .iRT_RW, .iRT_RH, .iRT_WW, .iRT_WH] c.val) ∧
  -- R295, R405. MS_RETRAIN_EN 0: under DRAIN the retrainings in progress go on; under ABANDON no further pause of
  -- them starts.
  (∀ (acc : Accessor) (s : State), s.Passes acc .MS_RETRAIN_EN 0 0 →
    ∃ t, exec (.msRetrainEnDisable acc) s = .next t ∧ Touches Changes.msRetrainEnDisable s t ∧
      (t.status = 0 ∧ t.reg .MS_RETRAIN_EN 0 = 0 ∧
       if s.reg .MS_RETRAIN_EN 0 ≠ 0 ∧ s.reg .MS_RETRAIN_DRAIN 0 = 1 then
         ∀ c, c < 32 → t.reg .iRT_LEFT c = (if s.periodic c then 0 else s.reg .iRT_LEFT c)
       else ∀ c, t.reg .iRT_LEFT c = s.reg .iRT_LEFT c))

/-- What the initialising sweep, the store scrubber and the cache scrubber do. Each command completes with exactly
this effect and leaves all else as it was. -/
def Obligations.ScrubAndSweep : Prop :=
  -- R279, R281, R296. Until the store is initialised, the sweep asks for its grant; with the grant held and the
  -- channels serving it sweeps the next 256 local rows of every pseudo-channel, on the SCRUB port, and returns the
  -- grant. When every one is complete MS_INIT_STATE reads DONE and the maps are discarded.
  (∀ (seen : Seen) (s : State),
    if s.reg .MS_INIT_STATE 0 = 1 ∨ (s.granted .sweepBurst = true ∧ s.storeServes = false) then
      exec (.sweepBurst seen) s = .next s
    else if s.granted .sweepBurst = true then
      ∃ t, exec (.sweepBurst seen) s = .next t ∧ Touches Changes.sweepBurst s t ∧
        Counted s t .QP_BYTES 11 (1024 * ((List.range 32).map s.sweepWrites).sum) ∧
        (∀ p, p < 64 → t.reg .iSWEEP p = min 786432 (s.reg .iSWEEP p + 256)) ∧
        t.grants = s.grants.erase .sweepBurst ∧
        if (List.range 64).all (fun p => decide (786432 ≤ s.reg .iSWEEP p + 256)) = true then t.reg .MS_INIT_STATE 0
            = 1 ∧ t.rowsAhead = []
        else t.reg .MS_INIT_STATE 0 = s.reg .MS_INIT_STATE 0 ∧ t.rowsAhead = s.rowsAhead
    else
      ∃ t, exec (.sweepBurst seen) s = .next t ∧ Touches Changes.sweepBurst s t ∧
        t.waiting .sweepBurst = true ∧ t.grants = s.grants ∧ ∀ p, t.reg .iSWEEP p = s.reg .iSWEEP p) ∧
  -- R296 to R298, R300. The central-store scrubber waits for the store to be initialised and to serve, and for its
  -- grant. With the grant held it walks 16 MiB on from SC_POSITION, queues a write-back for each faulty word there
  -- that was not yet poisoned (with the poison mark where the word is uncorrectable) and returns the grant; while
  -- it drains it is then OFF.
  (∀ (seen : Seen) (s : State),
    let a := s.reg .SC_POSITION 0
    if s.reg .SC_ENABLE 0 = 0 ∧ s.reg .SC_STATE 0 ≠ 4 then exec (.scrubBurst seen) s = .next s
    else if s.reg .MS_INIT_STATE 0 = 0 then exec (.scrubBurst seen) s = .next (s.setReg .SC_STATE 0 1)
    else if s.granted .scrubBurst = true ∧ s.storeServes = false then exec (.scrubBurst seen) s = .next s
    else if s.granted .scrubBurst = true then
      ∃ t, exec (.scrubBurst seen) s = .next t ∧ Touches Changes.scrubBurst s t ∧
        Counted s t .QP_BYTES 11 16777216 ∧
        t.Holds .SC_POSITION 0 (if storeSize ≤ a + 16777216 then 0 else a + 16777216) ∧
        t.grants = s.grants.erase .scrubBurst ∧ t.reg .SC_STATE 0 = (if s.reg .SC_STATE 0 = 4 then 0 else 2) ∧
        (∀ e ∈ seen.found, a ≤ 32 * e.1 → 32 * e.1 < a + 16777216 → s.poisoned e.1 = false →
          (⟨e.1, e.2 == .uncorrectable, false, true⟩ : WriteBack) ∈ t.writeBacks) ∧
        OnlyAt s t [.SC_POSITION, .SC_STATE] 0
    else
      ∃ t, exec (.scrubBurst seen) s = .next t ∧ Touches Changes.scrubBurst s t ∧
        t.waiting .scrubBurst = true ∧ t.reg .SC_STATE 0 = 2 ∧ t.reg .SC_POSITION 0 = a) ∧
  -- R297. The cache scrubber, while enabled, checks one line: a correctable error is counted, an uncorrectable
  -- line is invalidated and counted; after the last line of the lap it starts over.
  (∀ (n : Fin 16) (found : Option Finding) (last : Bool) (s : State),
    if s.reg .SC_ENABLE 1 = 0 then exec (.cacheScrub n found last) s = .next s
    else
      ∃ t, exec (.cacheScrub n found last) s = .next t ∧ Touches Changes.cacheScrub s t ∧
        t.reg .SC_STATE 1 = 3 ∧
        (if last then t.reg .SC_POSITION 1 = 0 else Counted s t .SC_POSITION 1 1) ∧
        Counted s t .SC_CORRECTED 1 (b2n (found == some .correctable)) ∧
        Counted s t .SC_UNCORRECTABLE 1 (b2n (found == some .uncorrectable)) ∧
        Counted s t .iCACHE_INVALID n.val (b2n (found == some .uncorrectable)) ∧
        OnlyAt s t [.iCACHE_INVALID] n.val) ∧
  -- R300, R405. SC_ENABLE 0. Under DRAIN a burst whose grant is held still runs; otherwise the scrubber is OFF and
  -- returns its grant. Under ABANDON the write-backs of the central-store scrubber not yet issued are dropped.
  (∀ (acc : Accessor) (k : Fin 4) (s : State), s.Passes acc .SC_ENABLE k.val 0 →
    if s.reg .SC_ENABLE k.val = 0 then
      exec (.scEnableDisable acc k) s = .next (s.answered acc .SC_ENABLE k.val 0)
    else
      let busy := k.val = 0 ∧ s.granted .scrubBurst = true
      ∃ t, exec (.scEnableDisable acc k) s = .next t ∧ Touches Changes.scEnableDisable s t ∧
        t.status = 0 ∧ t.reg .SC_ENABLE k.val = 0 ∧ OnlyAt s t [.SC_ENABLE, .SC_STATE] k.val ∧
        t.writeBacks = (if k.val = 0 ∧ s.reg .SC_DRAIN 0 = 1 then s.writeBacks.filter (fun b => !b.byScrubber)
          else s.writeBacks) ∧
        if busy ∧ s.reg .SC_DRAIN k.val ≠ 1 then t.reg .SC_STATE k.val = 4 ∧ t.grants = s.grants
        else t.reg .SC_STATE k.val = 0 ∧
          t.grants = (if k.val = 0 then s.grants.erase .scrubBurst else s.grants)) ∧
  -- R300, R405. SC_ENABLE 1 resumes the walk at SC_POSITION; a scrubber that drains refuses it with FUNC_DRAINING.
  (∀ (acc : Accessor) (k : Fin 4) (s : State), s.Passes acc .SC_ENABLE k.val 1 →
    if s.reg .SC_STATE k.val = 4 then
      exec (.scEnableResume acc k) s = .next (s.answered acc .SC_ENABLE k.val Code.funcDraining)
    else if s.reg .SC_ENABLE k.val = 1 then
      exec (.scEnableResume acc k) s = .next (s.answered acc .SC_ENABLE k.val 0)
    else
      ∃ t, exec (.scEnableResume acc k) s = .next t ∧ Touches Changes.scEnableResume s t ∧
        t.status = 0 ∧ t.reg .SC_ENABLE k.val = 1 ∧ OnlyAt s t [.SC_ENABLE, .SC_STATE] k.val ∧
        t.reg .SC_STATE k.val = (if k.val = 0 then (if s.reg .MS_INIT_STATE 0 = 1 then 2 else 1) else 3))

/-- What requests, grants, returns and a new ceiling do to the ledger of power. Each command completes with exactly
this effect and leaves all else as it was. -/
def Obligations.PowerLedger : Prop :=
  -- R39, R41. The operation joins the requests of its class, last; one that waits or holds its grant asks for no
  -- second.
  (∀ (op : PowerOp) (s : State),
    if s.granted op = true ∨ s.waiting op = true then exec (.powerGrantRequest op) s = .next s
    else if opHigh op = true then
      ∃ t, exec (.powerGrantRequest op) s = .next t ∧ Touches (flds [.highReqs, .normalReqs]) s t ∧
        t.highReqs = s.highReqs ++ [(op, s.clock)] ∧ t.normalReqs = s.normalReqs
    else
      ∃ t, exec (.powerGrantRequest op) s = .next t ∧ Touches (flds [.highReqs, .normalReqs]) s t ∧
        t.normalReqs = s.normalReqs ++ [(op, s.clock)] ∧ t.highReqs = s.highReqs) ∧
  -- R40, R41, R439. The head HIGH request is granted where its amount fits in free; the head NORMAL request only
  -- where no HIGH request waits. No other request is granted, and none in a hardware shutdown. (A grant of lane
  -- training is taken at once; that changes the lanes and may ask for further grants.)
  (∀ (s : State),
    if s.reg .iPHASE 0 = 4 then exec .powerGrant s = .next (s.send [])
    else
      match s.highReqs, s.normalReqs with
      | (op, _) :: rest, ns =>
        if (opAmount op : Int) ≤ s.powerFree then
          ∃ t, exec .powerGrant s = .next t ∧ Touches Changes.powerGrant s t ∧
            Counted s t .PW_GRANTS 0 1 ∧
            ((∀ surf, op ≠ .bringUp surf) → (∀ surf p, op ≠ .laneAttempt surf p) →
              t.highReqs = rest ∧ t.normalReqs = ns ∧ t.grants = s.grants ++ [op])
        else exec .powerGrant s = .next (s.send [])
      | [], (op, _) :: rest =>
        if (opAmount op : Int) ≤ s.powerFree then
          ∃ t, exec .powerGrant s = .next t ∧ Touches Changes.powerGrant s t ∧
            Counted s t .PW_GRANTS 0 1 ∧
            ((∀ surf, op ≠ .bringUp surf) → (∀ surf p, op ≠ .laneAttempt surf p) →
              t.highReqs = [] ∧ t.normalReqs = rest ∧ t.grants = s.grants ++ [op])
        else exec .powerGrant s = .next (s.send [])
      | [], [] => exec .powerGrant s = .next (s.send [])) ∧
  -- R39. An operation under way keeps its grant; any other returns its grant or withdraws its request.
  (∀ (op : PowerOp) (s : State),
    if s.granted op = true ∧ s.opRuns op = true then exec (.powerGrantReturn op) s = .next s
    else
      ∃ t, exec (.powerGrantReturn op) s = .next t ∧
        Touches (flds [.grants, .highReqs, .normalReqs]) s t ∧
        t.grants = s.grants.erase op ∧ t.waiting op = false) ∧
  -- R43. A ceiling below the base reservation plus both reservations is refused and the old one stays in force;
  -- another is in force at once. Grants already given stay.
  (∀ (acc : Accessor) (v : BitVec 16) (s : State), s.Passes acc .PW_CEILING 0 v.toNat →
    if v.toNat < s.powerBase + s.reg .iS_RESV 0 + s.reg .iS_RESV 1 then
      exec (.pwCeilingWrite acc v) s = .next (s.answered acc .PW_CEILING 0 Code.ceilingRefused)
    else
      ∃ t, exec (.pwCeilingWrite acc v) s = .next t ∧ Touches Changes.pwCeilingWrite s t ∧
        t.status = 0 ∧ t.reg .PW_CEILING 0 = v.toNat)

/-- What loading, validating, emptying and parameterising a calibration slot and a LUT write do. Each command
completes with exactly this effect and leaves all else as it was. -/
def Obligations.CalibrationSlots : Prop :=
  -- R56. Validation of a slot begins, or the write is refused while the slot is busy or LOADING.
  (∀ (acc : Accessor) (k : Fin 64) (s : State), s.Passes acc .CAL_LOAD k.val 1 →
    if s.calRefuses k.val = true then
      exec (.calLoadValidate acc k) s = .next (s.answered acc .CAL_LOAD k.val Code.calSlotBusy)
    else
      ∃ t, exec (.calLoadValidate acc k) s = .next t ∧ Touches Changes.calLoadValidate s t ∧
        t.status = 0 ∧ t.reg .CAL_STATE k.val = 1 ∧
        t.reg .iCAL_W k.val = s.reg .SURF_WIDTH (calSurf k.val) ∧
        t.reg .iCAL_H k.val = s.reg .SURF_HEIGHT (calSurf k.val) ∧ OnlyAt s t [.CAL_STATE, .iCAL_W, .iCAL_H] k.val) ∧
  -- R56. The slot is EMPTY, or the write is refused while the slot is busy or LOADING.
  (∀ (acc : Accessor) (k : Fin 64) (s : State), s.Passes acc .CAL_LOAD k.val 2 →
    if s.calRefuses k.val = true then
      exec (.calLoadEmpty acc k) s = .next (s.answered acc .CAL_LOAD k.val Code.calSlotBusy)
    else
      ∃ t, exec (.calLoadEmpty acc k) s = .next t ∧
        Touches (regs [.CAL_STATE, .iACC_STATUS, .iACC_ID] ++ flds [.status]) s t ∧
        t.status = 0 ∧ t.reg .CAL_STATE k.val = 0 ∧ OnlyAt s t [.CAL_STATE] k.val) ∧
  -- R56. A slot being validated, that is not the target of a delivery, is VALID with the geometry it was loaded
  -- for where its region was read unpoisoned, CAL_BASE is a multiple of 4,096, T0 < T1 < T2 and the CRC matches;
  -- otherwise INVALID. While the firmware does not run, or the channels do not serve, nothing changes.
  (∀ (i : Fin 64) (seen : Seen) (s : State),
    let k := i.val
    let w := s.reg .iCAL_W k
    let h := s.reg .iCAL_H k
    let r := ((s.see seen).fetch s.pipMaster .cue (s.reg .CAL_BASE k) (calSetSize (calKind k) w h)).1
    if s.reg .CAL_STATE k ≠ 1 ∨ s.reg .iPHASE 0 ≠ 1 ∨ s.storeServes = false ∨
         s.deliveries.any (fun d => d.inst == k) = true then exec (.calValidationDone i seen) s = .next s
    else if r.frozen = false ∧ r.poisoned = [] ∧ s.reg .CAL_BASE k % 4096 = 0 ∧ s.calOrdered k = true ∧
        crc32c r.data = s.reg .CAL_CRC k then
      ∃ t, exec (.calValidationDone i seen) s = .next t ∧ Touches Changes.calValidationDone s t ∧
        t.reg .CAL_STATE k = 2 ∧ t.Holds .CAL_WIDTH k w ∧ t.Holds .CAL_HEIGHT k h ∧ t.reg .CAL_SOURCE k = 1 ∧
        OnlyAt s t [.CAL_STATE, .CAL_WIDTH, .CAL_HEIGHT, .CAL_SOURCE] k
    else
      ∃ t, exec (.calValidationDone i seen) s = .next t ∧ Touches Changes.calValidationDone s t ∧
        t.reg .CAL_STATE k = 3 ∧ OnlyAt s t [.CAL_STATE] k ∧ t.reg .CAL_WIDTH k = s.reg .CAL_WIDTH k) ∧
  -- R56. A slot parameter takes the value written and a VALID slot is INVALID; the write is refused while the slot
  -- is busy or LOADING.
  (∀ (acc : Accessor) (k : Fin 64) (p : CalParam) (v : Nat) (s : State), s.Passes acc (calReg p) k.val v →
    if s.calRefuses k.val = true then
      exec (.calSlotWrite acc k p v) s = .next (s.answered acc (calReg p) k.val Code.calSlotBusy)
    else
      ∃ t, exec (.calSlotWrite acc k p v) s = .next t ∧ Touches Changes.calSlotWrite s t ∧
        (t.status = 0 ∧ t.Holds (calReg p) k.val v ∧
         t.reg .CAL_STATE k.val = (if s.reg .CAL_STATE k.val = 2 then 3 else s.reg .CAL_STATE k.val) ∧
         OnlyAt s t [calReg p, .CAL_STATE] k.val ∧
         ∀ q, q ≠ p → t.reg (calReg q) k.val = s.reg (calReg q) k.val)) ∧
  -- R62. A LUT write is held in the shadow copy and the LUT in force stays; while an earlier write to it waits for
  -- a surface, the write is refused.
  (∀ (acc : Accessor) (l : Fin 12) (v : Nat) (s : State), s.Passes acc (lutReg l.val).1 (lutReg l.val).2 v →
    if s.lutShadow.any (fun e => e.lut == l.val) = true then
      exec (.lutWrite acc l v) s = .next (s.answered acc (lutReg l.val).1 (lutReg l.val).2 Code.calSlotBusy)
    else
      ∃ t, exec (.lutWrite acc l v) s = .next t ∧ Touches Changes.lutWrite s t ∧
        t.status = 0 ∧ t.lutShadow = s.lutShadow ++ [⟨l.val, v, 0, 0⟩])

/-- What a fault of an engine or cluster, an overrun, an array write, a fault clear, a self-test and a wake do. Each
command completes with exactly this effect and leaves all else as it was. -/
def Obligations.ClusterFaults : Prop :=
  -- R132. A parity or register-file error on engines of a cluster that computes, ACTIVE or withdrawn for a swap
  -- and finishing its tiles, fault-fences them.
  (∀ (n : Fin 16) (mask : BitVec 16) (regFile : Bool) (s : State),
    if s.clusterRuns n.val = true ∧ mask ≠ 0 then
      ∃ t, exec (.engineFaultFence n mask regFile) s = .next t ∧ Touches Changes.engineFaultFence s t ∧
        EnginesFenced s t n.val mask.toNat ∧ t.Holds .CL_LAST_FAULT n.val Code.hazelFault ∧
        OnlyAt s t [.CL_FAULT_MASK, .CL_FENCED, .CL_STATE, .CL_LAST_FAULT] n.val
    else exec (.engineFaultFence n mask regFile) s = .next s) ∧
  -- R132. The engines whose hogel reaches C_band cycles are fault-fenced; while PLL-HB is not LOCKED, the count
  -- pauses.
  (∀ (n : Fin 16) (mask : BitVec 16) (cycles : Nat) (s : State),
    match s.held.find? (fun e => e.1 == n.val) with
    | none => exec (.hogelOverrun n mask cycles) s = .next s
    | some e =>
      if s.clusterRuns n.val = true ∧ s.reg .CK_STATE 2 = 3 ∧ s.cBand e.2.surf ≤ cycles ∧ mask ≠ 0 then
        ∃ t, exec (.hogelOverrun n mask cycles) s = .next t ∧ Touches Changes.hogelOverrun s t ∧
          EnginesFenced s t n.val mask.toNat ∧ t.Holds .CL_LAST_FAULT n.val Code.hazelFault ∧
          OnlyAt s t [.CL_FAULT_MASK, .CL_FENCED, .CL_STATE, .CL_LAST_FAULT] n.val
      else exec (.hogelOverrun n mask cycles) s = .next s) ∧
  -- R132. An uncorrectable error in the cache tags, or a fault of the cluster decoder, fault-fences a cluster that
  -- computes.
  (∀ (n : Fin 16) (decoder : Bool) (s : State),
    if s.clusterRuns n.val = true then
      ∃ t, exec (.clusterFaultFence n decoder) s = .next t ∧ Touches Changes.clusterFaultFence s t ∧
        ClusterFenced s t n.val ∧ t.Holds .CL_LAST_FAULT n.val Code.hazelFault ∧
        OnlyAt s t [.CL_FAULT_MASK, .CL_FENCED, .CL_STATE, .CL_LAST_FAULT] n.val
    else exec (.clusterFaultFence n decoder) s = .next s) ∧
  -- R133, R136. The write is held pending, replacing an earlier one, and the value in force stays; a write that
  -- would leave a state in force short is refused with ADMIT_REFUSED and nothing becomes pending.
  (∀ (acc : Accessor) (p : ArrayParam) (v : Nat) (s : State), s.Passes acc (arrayTarget p).1 (arrayTarget p).2.1
      v →
    let u := s.setStatus 0
    let cl := (arrayTarget p).2.2.1
    let ix := (arrayTarget p).2.2.2
    let place : Reg := if cl then .iARR_CL else .iARR
    if (State.shortfalls u.nextArray (u.pend cl ix v).nextArray).isEmpty then
      ∃ t, exec (.arrayParamWrite acc p v) s = .next t ∧ Touches Changes.arrayParamWrite s t ∧
        t.status = 0 ∧ t.Holds place ix v ∧ OnlyAt s t [place] ix
    else
      ∃ t, exec (.arrayParamWrite acc p v) s = .next t ∧ Touches Changes.arrayParamWrite s t ∧
        t.status = Code.admitRefused ∧ ∀ j, t.reg .iARR j = s.reg .iARR j ∧ t.reg .iARR_CL j = s.reg .iARR_CL j) ∧
  -- R134. The named fault-fenced engines run self-test; of a cluster that is fault-fenced as a whole only 0xFFFF,
  -- which names the cluster, returns it by self-test.
  (∀ (acc : Accessor) (n : Fin 16) (mask : BitVec 16) (s : State), s.Passes acc .CL_FAULT_CLEAR n.val mask.toNat
      →
    let k := n.val
    ∃ t, exec (.clFaultClear acc n mask) s = .next t ∧ Touches Changes.clFaultClear s t ∧
      t.status = 0 ∧ OnlyAt s t [.CL_STATE, .iCL_SELFTEST] k ∧
      if mask.toNat = 0xFFFF ∧ s.reg .CL_FAULT_MASK k = 0xFFFF ∧ s.reg .CL_STATE k = 4 then
        t.reg .CL_STATE k = 6 ∧ t.Holds .iCL_SELFTEST k (s.reg .iCL_SELFTEST k ||| 0x10000)
      else t.reg .CL_STATE k = s.reg .CL_STATE k ∧
        t.Holds .iCL_SELFTEST k (if s.reg .CL_FAULT_MASK k = 0xFFFF then s.reg .iCL_SELFTEST k
          else s.reg .iCL_SELFTEST k ||| (mask.toNat &&& s.reg .CL_FAULT_MASK k))) ∧
  -- R131, R134. Engines or a cluster that pass their self-test wait for the next array boundary. Engines that fail
  -- it stay fenced; a cluster that fails it is fenced as a whole, or, where it is the cluster of a running swap,
  -- aborts the swap and is tested again on its previous program. HAZEL_FAULT names the failure. Without a
  -- self-test nothing changes.
  (∀ (n : Fin 16) (pass : Bool) (s : State),
    let k := n.val
    let m := s.selfTest k
    let whole := bit m 16 = true
    let swaps := s.reg .iSWAP_SLOT 0 ≠ 0xFF ∧ s.reg .HZ_SWAP_CLUSTER 0 = k
    if m = 0 then exec (.selfTestDone n pass) s = .next s
    else
      ∃ t, exec (.selfTestDone n pass) s = .next t ∧ Touches Changes.selfTestDone s t ∧
        OnlyAt s t [.CL_STATE, .CL_FAULT_MASK, .iCL_PASSED, .iCL_SELFTEST, .CL_LAST_FAULT] k ∧
        if pass = true then t.Holds .iCL_PASSED k (s.reg .iCL_PASSED k ||| m) ∧ t.reg .iCL_SELFTEST k = 0 ∧
          t.reg .CL_STATE k = s.reg .CL_STATE k
        else if whole ∧ swaps then t.reg .HZ_SWAP_STATE 0 = 3 ∧ t.reg .CL_STATE k = 6 ∧
          t.Holds .iCL_RELOAD k (s.reg .iSWAP_OLD 0) ∧ t.reg .iCL_SELFTEST k = 0x10000
        else t.reg .CL_STATE k = (if whole then 4 else s.reg .CL_STATE k) ∧
          t.reg .CL_FAULT_MASK k = (if whole then 0xFFFF else s.reg .CL_FAULT_MASK k) ∧
          t.lastEvent = some (Code.hazelFault, packBits [(8, k), (16, if whole then 0xFFFF else m % 0x10000), (8,
              6)])) ∧
  -- R134. A gated cluster that waits to wake, and whose grant has come, runs its self-test.
  (∀ (n : Fin 16) (s : State),
    if s.reg .CL_STATE n.val = 2 ∧ s.granted (.clusterWake n.val) = true then
      ∃ t, exec (.clusterWakeDone n) s = .next t ∧
        Touches (regs [.iCL_SELFTEST, .HZ_ACTIVE, .CL_STATE]) s t ∧
        t.reg .CL_STATE n.val = 6 ∧ t.Holds .iCL_SELFTEST n.val (s.reg .iCL_SELFTEST n.val ||| 0x10000) ∧ OnlyAt s t
            [.CL_STATE, .iCL_SELFTEST] n.val
    else exec (.clusterWakeDone n) s = .next s)

/-- What verifying and emptying a program slot, starting a swap and a cluster's load do. Each command completes with
exactly this effect and leaves all else as it was. -/
def Obligations.HazelPrograms : Prop :=
  -- R128. Verification of a program slot begins, or the write is refused while a cluster runs the slot or a swap
  -- is going to it.
  (∀ (acc : Accessor) (p : Fin 2) (s : State), s.Passes acc .PG_LOAD p.val 1 →
    if s.slotInUse p.val = true then
      exec (.pgLoadVerify acc p) s = .next (s.answered acc .PG_LOAD p.val Code.progSlotBusy)
    else
      ∃ t, exec (.pgLoadVerify acc p) s = .next t ∧
        Touches (regs [.PG_STATE, .iACC_STATUS, .iACC_ID] ++ flds [.status]) s t ∧
        t.status = 0 ∧ t.reg .PG_STATE p.val = 1 ∧ OnlyAt s t [.PG_STATE] p.val) ∧
  -- R139. The program slot is EMPTY, or the write is refused while the slot is in use.
  (∀ (acc : Accessor) (p : Fin 2) (s : State), s.Passes acc .PG_LOAD p.val 2 →
    if s.slotInUse p.val = true then
      exec (.pgLoadEmpty acc p) s = .next (s.answered acc .PG_LOAD p.val Code.progSlotBusy)
    else
      ∃ t, exec (.pgLoadEmpty acc p) s = .next t ∧
        Touches (regs [.PG_STATE, .iACC_STATUS, .iACC_ID] ++ flds [.status]) s t ∧
        t.status = 0 ∧ t.reg .PG_STATE p.val = 0 ∧ OnlyAt s t [.PG_STATE] p.val) ∧
  -- R128. A slot being verified is VALID where its bytes were read unpoisoned, there are at most 262,144 of them
  -- and the signature verifies, and it then shows what the image declares; otherwise it is INVALID. A slot that is
  -- not being verified, and one while the channels do not serve, stays as it is.
  (∀ (p : Fin 2) (version : BitVec 32) (k : BitVec 80) (seen : Seen) (s : State),
    let i := p.val
    let r := ((s.see seen).fetch s.pipMaster .cue (s.reg .PG_ADDR i) (s.reg .PG_LENGTH i)).1
    if s.reg .PG_STATE i ≠ 1 ∨ s.storeServes = false then exec (.pgLoadDone p version k seen) s = .next s
    else if r.frozen = false ∧ r.poisoned = [] ∧ s.reg .PG_LENGTH i ≤ 262144 ∧
        Config.programSignatureOk r.data = true then
      ∃ t, exec (.pgLoadDone p version k seen) s = .next t ∧ Touches Changes.pgLoadDone s t ∧
        t.reg .PG_STATE i = 2 ∧ t.reg .PG_VERSION i = version.toNat ∧ t.reg .PG_K i = k.toNat ∧
        OnlyAt s t [.PG_STATE, .PG_VERSION, .PG_K] i
    else
      ∃ t, exec (.pgLoadDone p version k seen) s = .next t ∧ Touches Changes.pgLoadDone s t ∧
        t.reg .PG_STATE i = 3 ∧ t.reg .PG_K i = s.reg .PG_K i ∧ OnlyAt s t [.PG_STATE, .PG_VERSION, .PG_K] i) ∧
  -- R129. A swap to a slot starts where the slot is VALID, no swap runs, an ACTIVE cluster runs another slot, and
  -- both surfaces' states stay within 95 % of the budgets of one cluster fewer; otherwise the write is refused
  -- with ADMIT_REFUSED, and HZ_SWAP_STATE reads REFUSED.
  (∀ (acc : Accessor) (p : Fin 2) (s : State), s.Passes acc .HZ_PROG_TARGET 0 p.val →
    let u := s.setStatus 0
    let running := s.reg .iSWAP_SLOT 0 ≠ 0xFF
    if s.reg .PG_STATE p.val = 2 ∧ ¬ running ∧ s.nextToSwap p.val ≠ none ∧
         u.swapShort 0 = none ∧ u.swapShort 1 = none then
      ∃ t, exec (.hzProgTarget acc p) s = .next t ∧ Touches Changes.hzProgTarget s t ∧
        t.status = 0 ∧ t.reg .HZ_SWAP_STATE 0 = 1 ∧ t.reg .iSWAP_SLOT 0 = p.val
    else
      ∃ t, exec (.hzProgTarget acc p) s = .next t ∧ Touches Changes.hzProgTarget s t ∧
        t.status = Code.admitRefused ∧ t.reg .HZ_SWAP_STATE 0 = 2 ∧
        t.reg .iSWAP_SLOT 0 = s.reg .iSWAP_SLOT 0) ∧
  -- R131. A SWAPPING cluster that holds no tile has loaded its program and runs its self-test; one whose load
  -- failed aborts the swap, names HAZEL_FAULT, and is tested on its previous program.
  (∀ (n : Fin 16) (ok : Bool) (s : State),
    let k := n.val
    if s.reg .CL_STATE k ≠ 3 ∨ s.held.any (fun e => e.1 == k) = true then
      exec (.clusterLoadDone n ok) s = .next s
    else
      ∃ t, exec (.clusterLoadDone n ok) s = .next t ∧ Touches Changes.clusterLoadDone s t ∧
        t.reg .CL_STATE k = 6 ∧ t.Holds .iCL_SELFTEST k (s.reg .iCL_SELFTEST k ||| 0x10000) ∧ OnlyAt s t [.CL_STATE,
            .iCL_SELFTEST] k ∧
        (if ok = true then t.reg .HZ_SWAP_STATE 0 = s.reg .HZ_SWAP_STATE 0
          else t.reg .HZ_SWAP_STATE 0 = 3 ∧ t.Holds .iCL_RELOAD k (s.reg .iSWAP_OLD 0) ∧
            t.Holds .CL_LAST_FAULT k Code.hazelFault ∧
            t.lastEvent = some (Code.hazelFault, packBits [(8, k), (16, 0xFFFF), (8, 7)])))

/-- What posting, starting, running and ending a job of a codec do. Each command completes with exactly this effect
and leaves all else as it was. -/
def Obligations.CodecJobs : Prop :=
  -- R163. GC_TAIL takes the value written.
  (∀ (acc : Accessor) (n : Fin 8) (tail : BitVec 16) (s : State), s.Passes acc .GC_TAIL n.val tail.toNat →
    ∃ t, exec (.gcTailWrite acc n tail) s = .next t ∧
      Touches (regs [.GC_TAIL, .iACC_STATUS, .iACC_ID] ++ flds [.status]) s t ∧
      t.status = 0 ∧ t.reg .GC_TAIL n.val = tail.toNat ∧ OnlyAt s t [.GC_TAIL] n.val) ∧
  -- R163, R165, R171, R170. An IDLE, enabled codec with a job posted reads its descriptor. A good one asks for its
  -- grant (WAIT_GRANT); one that breaks R165 ends at once with HUSK_BAD_DESC, a poisoned one with POISON; a codec
  -- frozen keeps the job. Otherwise, and while the channels do not serve, nothing changes.
  (∀ (n : Fin 8) (seen : Seen) (s : State),
    let k := n.val
    let q := (JobRun.start (s.see seen)).read k (s.jobAddr k) 64
    if s.reg .GC_STATE k ≠ 0 ∨ s.reg .GC_ENABLE k = 0 ∨ s.reg .GC_HEAD k = s.reg .GC_TAIL k ∨
         s.reg .GC_RING_SIZE k = 0 ∨ s.storeServes = false then exec (.gcJobStart n seen) s = .next s
    else
      match q.1.stop with
      | some (.failed code) =>
        ∃ t, exec (.gcJobStart n seen) s = .next t ∧ Touches Changes.gcJobStart s t ∧
          JobOver s t k code
      | some _ =>
        ∃ t, exec (.gcJobStart n seen) s = .next t ∧ Touches Changes.gcJobStart s t ∧
          t.reg .iGC_FROZEN_JOB k = 1 ∧ t.reg .GC_HEAD k = s.reg .GC_HEAD k
      | none =>
        if (Job.ofWord (leNat q.2)).bad (decide (4 ≤ k)) = true then
          ∃ t, exec (.gcJobStart n seen) s = .next t ∧ Touches Changes.gcJobStart s t ∧
            JobOver s t k Code.huskBadDesc
        else
          ∃ t, exec (.gcJobStart n seen) s = .next t ∧ Touches Changes.gcJobStart s t ∧
            t.reg .GC_STATE k = 1 ∧ t.reg .GC_HEAD k = s.reg .GC_HEAD k ∧
            (t.granted (.huskJob k) = true ∨ t.waiting (.huskJob k) = true)) ∧
  -- R171. A job that waits for its grant runs once the grant is given.
  (∀ (n : Fin 8) (s : State),
    if s.reg .GC_STATE n.val = 1 ∧ s.granted (.huskJob n.val) = true then
      ∃ t, exec (.gcJobRun n) s = .next t ∧ Touches (regs [.GC_STATE]) s t ∧
        t.reg .GC_STATE n.val = 2 ∧ OnlyAt s t [.GC_STATE] n.val
    else exec (.gcJobRun n) s = .next s) ∧
  -- R168 to R170. A running job with its grant processes its tiles in turn and ends with RESULT 0, or with the
  -- code of the first tile that fails; a codec frozen meanwhile keeps the counts reached for its record. While the
  -- channels do not serve nothing changes.
  (∀ (n : Fin 8) (seen : Seen) (s : State),
    let k := n.val
    let j := s.gcJob k
    let r := JobRun.tiles k j j.count (JobRun.start (s.see seen))
    if (s.reg .GC_STATE k = 2 ∨ s.reg .GC_STATE k = 3) ∧ s.granted (.huskJob k) = true ∧ s.storeServes = true then
      match r.stop with
      | none =>
        ∃ t, exec (.gcJobEnd n seen) s = .next t ∧ Touches Changes.gcJobEnd s t ∧
          JobOver s t k 0
      | some (.failed code) =>
        ∃ t, exec (.gcJobEnd n seen) s = .next t ∧ Touches Changes.gcJobEnd s t ∧
          JobOver s t k code
      | some .frozen =>
        ∃ t, exec (.gcJobEnd n seen) s = .next t ∧ Touches Changes.gcJobEnd s t ∧
          t.reg .iGC_FROZEN_JOB k = 1 ∧ t.Holds .iGC_DONE k r.done ∧
          t.reg .GC_HEAD k = s.reg .GC_HEAD k
      | some .endless => exec (.gcJobEnd n seen) s = .next s
    else exec (.gcJobEnd n seen) s = .next s)

/-- What a codec's enable, ring parameters, assignment and standing grant do. Each command completes with exactly
this effect and leaves all else as it was. -/
def Obligations.CodecEnables : Prop :=
  -- R172. GC_ENABLE 0. An idle codec is DISABLED; under DRAIN a running job goes on and the codec drains; under
  -- ABANDON the job ends with JOB_ABANDONED, unless a protection window froze the codec.
  (∀ (acc : Accessor) (n : Fin 8) (done : Nat) (s : State), s.Passes acc .GC_ENABLE n.val 0 →
    let k := n.val
    ∃ t, exec (.gcEnableDisable acc n done) s = .next t ∧ Touches Changes.gcEnableDisable s t ∧
      (t.status = 0 ∧ t.reg .GC_ENABLE k = 0 ∧ OnlyAt s t [.GC_ENABLE] k ∧
       if s.reg .GC_ENABLE k = 0 ∨ s.reg .GC_STATE k = 5 then t.reg .GC_STATE k = s.reg .GC_STATE k
       else if s.reg .GC_STATE k = 0 then t.reg .GC_STATE k = 4
       else if s.reg .GC_DRAIN k = 0 then t.reg .GC_STATE k = 3
       else JobOver s t k Code.jobAbandoned)) ∧
  -- R172, R405. GC_ENABLE 1 resumes the ring at GC_HEAD; a codec that drains refuses it with FUNC_DRAINING.
  (∀ (acc : Accessor) (n : Fin 8) (s : State), s.Passes acc .GC_ENABLE n.val 1 →
    let k := n.val
    ∃ t, exec (.gcEnableResume acc n) s = .next t ∧ Touches Changes.gcEnableResume s t ∧
      OnlyAt s t [.GC_ENABLE, .GC_STATE] k ∧
      if s.reg .GC_STATE k = 3 then t = s.answered acc .GC_ENABLE k Code.funcDraining
      else t.status = 0 ∧ t.reg .GC_ENABLE k = 1 ∧
        t.reg .GC_STATE k = (if s.reg .GC_STATE k = 4 then 0 else s.reg .GC_STATE k)) ∧
  -- R172. A ring parameter takes the value written only while the codec is DISABLED and its ring empty; otherwise
  -- the write is refused with HUSK_RING_BUSY.
  (∀ (acc : Accessor) (n : Fin 8) (p : RingParam) (v : Nat) (s : State), s.Passes acc (gcRing p) n.val v →
    if s.reg .GC_STATE n.val = 4 ∧ s.reg .GC_HEAD n.val = s.reg .GC_TAIL n.val then
      ∃ t, exec (.gcRingWrite acc n p v) s = .next t ∧ Touches Changes.gcRingWrite s t ∧
        (t.status = 0 ∧ t.Holds (gcRing p) n.val v ∧ OnlyAt s t [gcRing p] n.val ∧
         ∀ q, q ≠ p → t.reg (gcRing q) n.val = s.reg (gcRing q) n.val)
    else exec (.gcRingWrite acc n p v) s = .next (s.answered acc (gcRing p) n.val Code.huskRingBusy)) ∧
  -- R162, R174. HK_INGEST_DEC or HK_TAP_ENC takes the value written; the other keeps its value.
  (∀ (acc : Accessor) (u : CodecUse) (v : BitVec 8) (s : State), s.Passes acc (if u = .ingest then
      .HK_INGEST_DEC else .HK_TAP_ENC) 0 v.toNat →
    ∃ t, exec (.codecAssignWrite acc u v) s = .next t ∧ Touches Changes.codecAssignWrite s t ∧
      t.status = 0 ∧
      t.reg .HK_INGEST_DEC 0 = (if u = .ingest then v.toNat else s.reg .HK_INGEST_DEC 0) ∧
      t.reg .HK_TAP_ENC 0 = (if u = .ingest then s.reg .HK_TAP_ENC 0 else v.toNat)) ∧
  -- R171. A codec that serves ingest or taps holds or asks for its standing grant; one that serves neither returns
  -- it.
  (∀ (n : Fin 8) (s : State),
    if s.codecServes n.val = true then
      ∃ t, exec (.standingGrantRequest n) s = .next t ∧
        Touches (flds [.highReqs, .normalReqs, .grants]) s t ∧
        t.grants = s.grants ∧
        (t.granted (.huskStanding n.val) = true ∨ t.waiting (.huskStanding n.val) = true)
    else
      ∃ t, exec (.standingGrantRequest n) s = .next t ∧
        Touches (flds [.highReqs, .normalReqs, .grants]) s t ∧
        t.grants = s.grants.erase (.huskStanding n.val) ∧ t.waiting (.huskStanding n.val) = false)

/-- What a Skiver's ring, jobs and enable do. Each command completes with exactly this effect and leaves all else as
it was. -/
def Obligations.SkiverJobs : Prop :=
  -- R329. SK_TAIL takes the value written.
  (∀ (acc : Accessor) (k : Fin 4) (tail : BitVec 16) (s : State), s.Passes acc .SK_TAIL k.val tail.toNat →
    ∃ t, exec (.skTailWrite acc k tail) s = .next t ∧
      Touches (regs [.SK_TAIL, .iACC_STATUS, .iACC_ID] ++ flds [.status]) s t ∧
      t.status = 0 ∧ t.reg .SK_TAIL k.val = tail.toNat ∧ OnlyAt s t [.SK_TAIL] k.val) ∧
  -- R329, R333, R338. An IDLE, enabled Skiver with a job posted reads its descriptor, once the store serves. A job
  -- of more than 1,048,576 destination bytes asks for its grant, any other runs; a bad one ends at once with
  -- SKIVER_BAD_DESC, a poisoned one with POISON.
  (∀ (n : Fin 4) (seen : Seen) (s : State),
    let k := n.val
    let q := (⟨s.see seen, 0, none⟩ : SkRun).read k (s.skAddr k) 128
    let j := SkJob.ofWord (leNat q.2)
    if s.reg .SK_STATE k ≠ 0 ∨ s.reg .SK_ENABLE k = 0 ∨ s.reg .SK_HEAD k = s.reg .SK_TAIL k ∨
         s.reg .SK_RING_SIZE k = 0 ∨ s.storeServes = false then exec (.skJobStart n seen) s = .next s
    else
      match q.1.stop with
      | some .poison =>
        ∃ t, exec (.skJobStart n seen) s = .next t ∧ Touches Changes.skJobStart s t ∧
          SkOver s t k Code.poison
      | some .frozen =>
        ∃ t, exec (.skJobStart n seen) s = .next t ∧ Touches Changes.skJobStart s t ∧
          t.reg .iSK_FROZEN_JOB k = 1 ∧ t.reg .SK_HEAD k = s.reg .SK_HEAD k
      | none =>
        if j.bad = true then
          ∃ t, exec (.skJobStart n seen) s = .next t ∧ Touches Changes.skJobStart s t ∧
            SkOver s t k Code.skiverBadDesc
        else
          ∃ t, exec (.skJobStart n seen) s = .next t ∧ Touches Changes.skJobStart s t ∧
            t.reg .SK_HEAD k = s.reg .SK_HEAD k ∧
            if 1048576 < j.area then t.reg .SK_STATE k = 1 ∧
              (t.granted (.skiver k) = true ∨ t.waiting (.skiver k) = true)
            else t.reg .SK_STATE k = 2) ∧
  -- R334 to R339. A job that may run is performed pixel by pixel and ends with RESULT 0, or with POISON at the
  -- first poisoned read; a Skiver frozen meanwhile keeps what it reached for its record.
  (∀ (n : Fin 4) (seen : Seen) (s : State),
    let k := n.val
    let j := s.skJob k
    let r := SkRun.run (s.see seen) k j (j.width * j.height)
    if s.skMayRun k = false then exec (.skJobEnd n seen) s = .next s
    else
      match r.stop with
      | none =>
        ∃ t, exec (.skJobEnd n seen) s = .next t ∧ Touches Changes.skJobEnd s t ∧
          SkOver s t k 0
      | some .poison =>
        ∃ t, exec (.skJobEnd n seen) s = .next t ∧ Touches Changes.skJobEnd s t ∧
          SkOver s t k Code.poison
      | some .frozen =>
        ∃ t, exec (.skJobEnd n seen) s = .next t ∧ Touches Changes.skJobEnd s t ∧
          t.reg .iSK_FROZEN_JOB k = 1 ∧ t.Holds .iSK_DONE k r.done ∧
          t.reg .SK_HEAD k = s.reg .SK_HEAD k) ∧
  -- R340. SK_ENABLE 0. An idle Skiver is DISABLED; under DRAIN a running job goes on and the Skiver drains; under
  -- ABANDON the job ends with JOB_ABANDONED, unless a protection window froze the Skiver.
  (∀ (acc : Accessor) (n : Fin 4) (done : Nat) (s : State), s.Passes acc .SK_ENABLE n.val 0 →
    let k := n.val
    ∃ t, exec (.skEnableDisable acc n done) s = .next t ∧ Touches Changes.skEnableDisable s t ∧
      (t.status = 0 ∧ t.reg .SK_ENABLE k = 0 ∧ OnlyAt s t [.SK_ENABLE] k ∧
       if s.reg .SK_ENABLE k = 0 ∨ s.reg .SK_STATE k = 5 ∨ s.reg .SK_STATE k = 4 then
         t.reg .SK_STATE k = s.reg .SK_STATE k
       else if s.reg .SK_STATE k = 0 then t.reg .SK_STATE k = 4
       else if s.reg .SK_DRAIN k = 0 then t.reg .SK_STATE k = 3
       else SkOver s t k Code.jobAbandoned)) ∧
  -- R340, R405. SK_ENABLE 1 resumes the ring at SK_HEAD; a Skiver that drains refuses it with FUNC_DRAINING.
  (∀ (acc : Accessor) (n : Fin 4) (s : State), s.Passes acc .SK_ENABLE n.val 1 →
    let k := n.val
    ∃ t, exec (.skEnableResume acc n) s = .next t ∧ Touches Changes.skEnableResume s t ∧
      OnlyAt s t [.SK_ENABLE, .SK_STATE] k ∧
      if s.reg .SK_STATE k = 3 then t = s.answered acc .SK_ENABLE k Code.funcDraining
      else t.status = 0 ∧ t.reg .SK_ENABLE k = 1 ∧
        t.reg .SK_STATE k = (if s.reg .SK_STATE k = 4 then 0 else s.reg .SK_STATE k)) ∧
  -- R340. A ring parameter takes the value written only while the Skiver is DISABLED and its ring empty; otherwise
  -- the write is refused with SKIVER_RING_BUSY.
  (∀ (acc : Accessor) (k : Fin 4) (p : RingParam) (v : Nat) (s : State), s.Passes acc (skRing p) k.val v →
    if s.reg .SK_STATE k.val = 4 ∧ s.reg .SK_HEAD k.val = s.reg .SK_TAIL k.val then
      ∃ t, exec (.skRingWrite acc k p v) s = .next t ∧ Touches Changes.skRingWrite s t ∧
        (t.status = 0 ∧ t.Holds (skRing p) k.val v ∧ OnlyAt s t [skRing p] k.val ∧
         ∀ q, q ≠ p → t.reg (skRing q) k.val = s.reg (skRing q) k.val)
    else exec (.skRingWrite acc k p v) s = .next (s.answered acc (skRing p) k.val Code.skiverRingBusy))

/-- What taking a descriptor, the shadow, bursts and completion of a lace do. Each command completes with exactly
this effect and leaves all else as it was. -/
def Obligations.LaceTransfers : Prop :=
  -- R316. While the laces run, an enabled lace fetches the next descriptor of its chain, or, IDLE with an armed
  -- shadow, takes the shadow, which is then EMPTY. A descriptor that reads as poisoned ends the chain with POISON;
  -- a lace frozen by the fetch takes none. Otherwise nothing changes.
  (∀ (n : Fin 64) (seen : Seen) (s : State),
    let k := n.val
    let a := s.reg .iLC_NEXT k
    let r := ((s.see seen).fetch (laceMaster k) .lace a 64).1
    if s.lacesRun = false ∨ s.reg .LC_ENABLE k = 0 then exec (.laceDescriptorStart n seen) s = .next s
    else if s.reg .LC_STATE k = 4 ∧ a ≠ 0 ∧ s.storeServes = true then
      if r.frozen = true then
        ∃ t, exec (.laceDescriptorStart n seen) s = .next t ∧ Touches Changes.laceDescriptorStart s t ∧
          t.reg .iLC_NEXT k = a ∧ t.reg .LC_CUR_ADDR k = s.reg .LC_CUR_ADDR k
      else if r.poisoned = [] then
        ∃ t, exec (.laceDescriptorStart n seen) s = .next t ∧ Touches Changes.laceDescriptorStart s t ∧
          DescTaken s t k (leNat r.data) a
      else
        ∃ t, exec (.laceDescriptorStart n seen) s = .next t ∧ Touches Changes.laceDescriptorStart s t ∧
          t.Holds .LC_RESULT k Code.poison ∧ t.reg .LC_STATE k = 5 ∧ t.Holds .LC_CUR_ADDR k a ∧
          t.reg .iLC_NEXT k = 0
    else if s.reg .LC_STATE k = 0 ∧ s.reg .LC_SH_STATE k = 1 then
      ∃ t, exec (.laceDescriptorStart n seen) s = .next t ∧ Touches Changes.laceDescriptorStart s t ∧
        t.reg .LC_SH_STATE k = 0 ∧ DescTaken s t k (s.reg .LC_SH_DESC k) 0 ∧
        OnlyAt s t [.LC_SH_STATE, .LC_CUR_DESC, .LC_STATE] k
    else exec (.laceDescriptorStart n seen) s = .next s) ∧
  -- R315. The shadow descriptor takes the value written, or LACE_BUSY refuses the write while it is ARMED.
  (∀ (acc : Accessor) (n : Fin 64) (d : BitVec 512) (s : State), s.Passes acc .LC_SH_DESC n.val d.toNat →
    if s.reg .LC_SH_STATE n.val = 1 then
      exec (.lcShDescWrite acc n d) s = .next (s.answered acc .LC_SH_DESC n.val Code.laceBusy)
    else
      ∃ t, exec (.lcShDescWrite acc n d) s = .next t ∧
        Touches (regs [.LC_SH_DESC, .iACC_STATUS, .iACC_ID] ++ flds [.status]) s t ∧
        t.status = 0 ∧ t.reg .LC_SH_DESC n.val = d.toNat ∧ OnlyAt s t [.LC_SH_DESC] n.val) ∧
  -- R315. LC_ARM 1 arms the shadow.
  (∀ (acc : Accessor) (n : Fin 64) (s : State), s.Passes acc .LC_ARM n.val 1 →
    ∃ t, exec (.lcArm acc n) s = .next t ∧ Touches Changes.lcArm s t ∧
      t.status = 0 ∧ t.reg .LC_SH_STATE n.val = 1 ∧ OnlyAt s t [.LC_SH_STATE] n.val) ∧
  -- R315. LC_ARM 2 returns an armed shadow to EMPTY.
  (∀ (acc : Accessor) (n : Fin 64) (s : State), s.Passes acc .LC_ARM n.val 2 →
    ∃ t, exec (.lcDisarm acc n) s = .next t ∧ Touches Changes.lcDisarm s t ∧
      t.status = 0 ∧ t.reg .LC_SH_STATE n.val = 0 ∧ OnlyAt s t [.LC_SH_STATE] n.val) ∧
  -- R317, R318. An active lace whose request does not permit the burst that is due waits in WAIT_REQ; otherwise it
  -- is RUNNING and moves what it can. A FILL of the store whose range the windows allow writes its pattern there,
  -- byte by byte, and counts the bytes as done.
  (∀ (n : Fin 64) (src dst : List Byte) (withdrawn : Bool) (seen : Seen) (s : State),
    let k := n.val
    let d := s.laceDesc k
    let o := s.reg .iLC_POS k
    let rest := d.length - o
    let want := if d.burst = 0 then rest else min (64 * d.burst) rest
    let fresh := s.reg .iLC_BURST k = 0
    let m := if fresh then want else s.reg .iLC_BURST k
    if s.lacesRun = false ∨ s.laceActive k = false ∨ s.reg .iLC_PAGE k = 1 ∨ o = d.length then
      exec (.laceBurst n src dst withdrawn seen) s = .next s
    else
      ∃ t, exec (.laceBurst n src dst withdrawn seen) s = .next t ∧ Touches Changes.laceBurst s t ∧
        OnlyAt s t [.iLC_POS, .iLC_BURST, .LC_DONE, .LC_WITHDRAWN] k ∧
        (fresh → s.lacePermits k d want = false → t = s.setReg .LC_STATE k 1) ∧
        ((fresh → s.lacePermits k d want = true) → d.op = 1 → d.dstSpace = 0 → d.srcSpace = 0 → s.storeServes = true →
          s.isFrozen (laceMaster k) = false → m < 2 ^ 32 → 0 < m →
          (∀ p ∈ splitParts (d.dst + o) m, s.allowed (laceMaster k) p.1 p.2 true = true) →
          Counted s t .LC_DONE k m ∧ Counted s t .iLC_POS k m ∧
          ∀ i, i < m → t.byte (d.dst + o + i) = (fillBytes d o m).getD i 0)) ∧
  -- R316, R320, R321, R326. Every byte of the descriptor is complete: RESULT is 0, and the lace goes on to the
  -- next descriptor of its chain, is IDLE at its end, or is DISABLED where it drains, with LC_CUR_ADDR at the
  -- descriptor that would have followed. A lace frozen by the write of its record stays so. While the bus does not
  -- run, or the channels do not serve a record to be written, nothing changes.
  (∀ (n : Fin 64) (seen : Seen) (s : State),
    let k := n.val
    let d := s.laceDesc k
    if s.reg .LC_STATE k = 4 ∧ s.reg .iLC_NEXT k = 0 ∧ s.reg .LS_BUS_STATE 0 = 0 ∧
         (s.storeServes = true ∨ d.writeback = false ∨ s.reg .LC_CUR_ADDR k = 0) then
      ∃ t, exec (.laceComplete n seen) s = .next t ∧ Touches Changes.laceComplete s t ∧
        ((d.writeback = true ∧ t.isFrozen (laceMaster k) = true) ∨
         (t.reg .LC_RESULT k = 0 ∧
           if s.reg .LC_ENABLE k = 0 then t.Holds .LC_CUR_ADDR k d.next ∧ t.reg .LC_STATE k = 8
           else if d.next = 0 then (s.reg .LC_ENABLE k = 1 → t.reg .LC_STATE k = 0)
           else t.Holds .iLC_NEXT k d.next ∧ t.reg .LC_STATE k = 4))
    else exec (.laceComplete n seen) s = .next s) ∧
  -- R321. With NOTE_HALF owed and the first half complete, LACE_HALF is posted once, with the lace, its tag and
  -- the address of its descriptor.
  (∀ (n : Fin 64) (s : State),
    let k := n.val
    let d := s.laceDesc k
    if s.laceActive k = true ∨ (s.reg .LC_STATE k = 4 ∧ s.reg .iLC_NEXT k = 0) then
      ∃ t, exec (.laceHalf n) s = .next t ∧ Touches Changes.laceHalf s t ∧
        (s.reg .iLC_HALF k = 0 → d.length ≤ 2 * s.reg .LC_DONE k → t.reg .iLC_HALF k = 1 ∧
          t.lastEvent = some (Code.laceHalf,
            packBits [(8, k), (16, d.tag), (16, 0), (64, s.reg .LC_CUR_ADDR k)])) ∧
        (s.reg .iLC_HALF k ≠ 0 → t.evLog = s.evLog)
    else exec (.laceHalf n) s = .next s)

/-- What an error of a lace or of the bus, the ways out of it, and a lace's enable do. Each command completes with
exactly this effect and leaves all else as it was. -/
def Obligations.LaceErrors : Prop :=
  -- R323. A poisoned completion on F2 of a transfer that reads HOST, or a bad Keeper group in the range a transfer
  -- reads, ends the descriptor of an active lace with POISON, and its chain: the lace is in ERROR. Any other
  -- changes nothing; a lace that a window froze on the bytes before it is FROZEN.
  (∀ (n : Fin 64) (e : LaceFault) (s : State),
    let k := n.val
    let d := s.laceDesc k
    let o := s.reg .iLC_POS k
    let hit (a g : Nat) := a + o < 16 * g + 16 ∧ 16 * g < a + d.length
    let met := match e with
      | .poisonedCompletion _ => (d.reads = true ∧ d.srcSpace = 1) ∨ (d.op = 2 ∧ d.dstSpace = 1)
      | .keeperGroup g => (d.reads = true ∧ d.srcSpace = 3 ∧ hit d.src g) ∨ (d.op = 2 ∧ d.dstSpace = 3 ∧ hit d.dst g)
    ∃ t, exec (.laceError n e) s = .next t ∧ Touches Changes.laceError s t ∧
      (s.lacesRun = false ∨ s.laceActive k = false → t = s) ∧
      (s.lacesRun = true → s.laceActive k = true → ¬ met → t = s) ∧
      (s.lacesRun = true → s.laceActive k = true → met → d.writeback = false → s.reg .LC_ENABLE k ≠ 0 →
        (t.isFrozen (laceMaster k) = true ∧ t.reg .LC_STATE k = 7) ∨
          (t.Holds .LC_RESULT k Code.poison ∧ t.reg .LC_STATE k = 5))) ∧
  -- R324. A bus error while the laces run begins to stop them all, and is counted; its cause, lace and address are
  -- kept. One that comes while they stop changes nothing.
  (∀ (n : Fin 64) (cause : Fin 6) (addr : BitVec 64) (s : State),
    if s.reg .LS_BUS_STATE 0 ≠ 0 then exec (.laceBusError n cause addr) s = .next s
    else
      ∃ t, exec (.laceBusError n cause addr) s = .next t ∧ Touches Changes.laceBusError s t ∧
        t.reg .LS_BUS_STATE 0 = 1 ∧ Counted s t .LS_BUS_ERRORS 0 1 ∧ t.Holds .iLS_CAUSE 0 (cause.val + 1) ∧
        t.Holds .iLS_LACE 0 n.val ∧ t.Holds .iLS_ADDR 0 addr.toNat) ∧
  -- R324. Once no request is in flight the laces are STOPPED: the cause, the lace and the address are recorded,
  -- LACE_BUS_ERROR is raised, and every lace that held a descriptor is STOPPED; the others stay as they are.
  (∀ (s : State),
    let busy := s.keeperBusy.any (fun w => match w.by_ with | .lace _ => true | _ => false)
    if s.reg .LS_BUS_STATE 0 ≠ 1 ∨ busy = true then exec .laceBusStopped s = .next s
    else
      ∃ t, exec .laceBusStopped s = .next t ∧ Touches Changes.laceBusStopped s t ∧
        (t.reg .LS_BUS_STATE 0 = 2 ∧ t.Holds .LS_BUS_CAUSE 0 (s.reg .iLS_CAUSE 0) ∧
         t.Holds .LS_BUS_LACE 0 (s.reg .iLS_LACE 0) ∧ t.Holds .LS_BUS_ADDR 0 (s.reg .iLS_ADDR 0) ∧
         t.lastEvent = some (Code.laceBusError,
           packBits [(8, s.reg .iLS_CAUSE 0), (8, s.reg .iLS_LACE 0), (64, s.reg .iLS_ADDR 0)]) ∧
         ∀ n, n < 64 → t.reg .LC_STATE n = (if s.laceActive n = true ∨
           (s.reg .LC_STATE n = 4 ∧ s.reg .iLC_NEXT n = 0) then 6 else s.reg .LC_STATE n))) ∧
  -- R325. LS_BUS_CLEAR lets the laces run again; unless they are STOPPED it is refused with LACE_BUSY.
  (∀ (acc : Accessor) (s : State), s.Passes acc .LS_BUS_CLEAR 0 1 →
    if s.reg .LS_BUS_STATE 0 = 2 then
      ∃ t, exec (.lsBusClear acc) s = .next t ∧ Touches Changes.lsBusClear s t ∧
        t.status = 0 ∧ t.reg .LS_BUS_STATE 0 = 0
    else exec (.lsBusClear acc) s = .next (s.answered acc .LS_BUS_CLEAR 0 Code.laceBusy)) ∧
  -- R323, R325. RESUME reruns the descriptor of a lace in ERROR or STOPPED from LC_DONE, or fetches again one that
  -- could not be read. While the bus is not cleared, or in another state, it has no effect.
  (∀ (acc : Accessor) (n : Fin 64) (s : State), s.Passes acc .LC_CTRL n.val 1 →
    let k := n.val
    let d := s.laceDesc k
    ∃ t, exec (.lcCtrlResume acc n) s = .next t ∧ Touches Changes.lcCtrlResume s t ∧
      (t.status = 0 ∧
       if s.laceWaits k = false then t = s.answered acc .LC_CTRL k 0
       else if s.reg .iLC_NODESC k = 1 then
         t.reg .LC_STATE k = 4 ∧ t.Holds .iLC_NEXT k (s.reg .LC_CUR_ADDR k) ∧ OnlyAt s t [.LC_STATE, .iLC_NEXT] k
       else d.bad (s.reg .iF2_BM 0 == 1) = false →
         t.Holds .iLC_POS k (s.reg .LC_DONE k) ∧ OnlyAt s t [.LC_STATE, .iLC_POS] k ∧
         t.reg .LC_STATE k = (if s.reg .LC_DONE k = d.length then 4 else 3))) ∧
  -- R323, R325. ABANDON makes a lace in ERROR or STOPPED IDLE (or DISABLED where it drains), and its partial frame
  -- is discarded. While the bus is not cleared, or in another state, it has no effect.
  (∀ (acc : Accessor) (n : Fin 64) (s : State), s.Passes acc .LC_CTRL n.val 2 →
    let k := n.val
    ∃ t, exec (.lcCtrlAbandon acc n) s = .next t ∧ Touches Changes.lcCtrlAbandon s t ∧
      t.status = 0 ∧
      if s.laceWaits k = false then t = s.answered acc .LC_CTRL k 0
      else t.reg .LC_STATE k = (if s.reg .LC_ENABLE k = 1 then 0 else 8) ∧ t.reg .iLC_NEXT k = 0 ∧
        t.egress = s.egress.filter (fun f => f.lace != some k) ∧ OnlyAt s t [.LC_STATE, .iLC_NEXT] k) ∧
  -- R326, R405. LC_ENABLE 0. A lace without work, in ERROR, or between descriptors is DISABLED, with LC_CUR_ADDR
  -- at the descriptor that would have followed; under DRAIN a descriptor in progress goes on; under ABANDON it
  -- ends with JOB_ABANDONED, once no page write of it is under way.
  (∀ (acc : Accessor) (n : Fin 64) (s : State), s.Passes acc .LC_ENABLE n.val 0 →
    let k := n.val
    let st := s.reg .LC_STATE k
    let mine (w : PageWrite) := w.by_ == .lace k
    if s.reg .LC_ENABLE k = 0 then exec (.lcEnableDisable acc n) s = .next (s.answered acc .LC_ENABLE k 0)
    else
      ∃ t, exec (.lcEnableDisable acc n) s = .next t ∧ Touches Changes.lcEnableDisable s t ∧
        (t.status = 0 ∧ t.reg .LC_ENABLE k = 0 ∧ OnlyAt s t [.LC_ENABLE] k ∧
         if st = 4 ∧ s.reg .iLC_NEXT k ≠ 0 then
           t.reg .LC_STATE k = 8 ∧ t.Holds .LC_CUR_ADDR k (s.reg .iLC_NEXT k)
         else if st = 0 ∨ st = 5 then t.reg .LC_STATE k = 8
         else if st = 7 ∨ st = 8 ∨ s.reg .LC_DRAIN k ≠ 1 ∨ s.keeperBusy.any mine = true then t.reg .LC_STATE k = st
         else (s.laceDesc k).writeback = false → t.reg .LC_STATE k = 8 ∧ t.Holds .LC_RESULT k Code.jobAbandoned)) ∧
  -- R326, R405. LC_ENABLE 1 makes a DISABLED lace IDLE; a lace that drains refuses it with FUNC_DRAINING.
  (∀ (acc : Accessor) (n : Fin 64) (s : State), s.Passes acc .LC_ENABLE n.val 1 →
    let k := n.val
    if s.reg .LC_ENABLE k = 0 ∧ s.reg .LC_STATE k ≠ 8 then
      exec (.lcEnableResume acc n) s = .next (s.answered acc .LC_ENABLE k Code.funcDraining)
    else
      ∃ t, exec (.lcEnableResume acc n) s = .next t ∧ Touches Changes.lcEnableResume s t ∧
        t.status = 0 ∧ t.reg .LC_ENABLE k = 1 ∧ OnlyAt s t [.LC_ENABLE, .LC_STATE] k ∧
        t.reg .LC_STATE k = (if s.reg .LC_STATE k = 8 then 0 else s.reg .LC_STATE k))

/-- What a decoded tile, the packets of a stream and the ring of stream packets do. Each command completes with
exactly this effect and leaves all else as it was. -/
def Obligations.StreamIngest : Prop :=
  -- R162, R186, R278, R296. The decoder of the slot, with its standing grant and while the channels serve, takes
  -- the tile at the head of its queue, where that tile is the slot's. A second copy is discarded as DUPLICATE; one
  -- that is rejected, or whose reference is poisoned, is discarded as TILE and counted in HK_INGEST_REJECTED;
  -- where a window freezes the decoder nothing is written; any other is written. Otherwise nothing changes.
  (∀ (slot : Fin 256) (seen : Seen) (s : State),
    match s.decoderOf slot.val with
    | none => exec (.ingestTileDecoded slot seen) s = .next s
    | some d =>
      match s.ingest.find? (fun t => s.decoderOf t.slot == some d) with
      | none => exec (.ingestTileDecoded slot seen) s = .next s
      | some x =>
        let v := ({ s with ingest := s.ingest.erase x } : State).see seen
        let r := v.ingestRefRead x d
        if x.slot ≠ slot.val ∨ s.granted (.huskStanding d) = false ∨ s.ingestServes = false then
          exec (.ingestTileDecoded slot seen) s = .next s
        else if entryPresent (s.entry x.buf x.bank x.index) = true then
          ∃ u, exec (.ingestTileDecoded slot seen) s = .next u ∧ Touches Changes.ingestTileDecoded s u ∧
            u.ingest = s.ingest.erase x ∧ DiscardedAs s u slot.val 7 ∧ u.mem = s.mem
        else if r.frozen = true then
          ∃ u, exec (.ingestTileDecoded slot seen) s = .next u ∧ Touches Changes.ingestTileDecoded s u ∧
            u.mem = s.mem ∧ u.reg .STR_DISCARDS slot.val = s.reg .STR_DISCARDS slot.val ∧
            u.isFrozen (codecMaster d) = true
        else if r.poisoned ≠ [] ∨ s.ingestDecode x = none then
          ∃ u, exec (.ingestTileDecoded slot seen) s = .next u ∧ Touches Changes.ingestTileDecoded s u ∧
            u.ingest = s.ingest.erase x ∧ DiscardedAs s u slot.val 6 ∧ Counted s u .HK_INGEST_REJECTED 0 1 ∧ u.mem =
                s.mem
        else
          ∃ u, exec (.ingestTileDecoded slot seen) s = .next u ∧ Touches Changes.ingestTileDecoded s u ∧
            u.reg .STR_DISCARDS slot.val = s.reg .STR_DISCARDS slot.val ∧
            u.reg .HK_INGEST_REJECTED 0 = s.reg .HK_INGEST_REJECTED 0) ∧
  -- R183, R185, R186, R490. A datagram to ING_PORT that is no END packet goes to the open slot it names, or is
  -- counted in ING_UNKNOWN; while the channels do not serve, or in RECOVERY, nothing changes.
  (∀ (p : List Byte) (seen : Seen) (s : State),
    if (PacketHead.ofBytes p).type = 2 ∨ s.ingestServes = false then
      exec (.streamTilesPacket p seen) s = .next s
    else
      match s.slotOfDatagram p with
      | none =>
        ∃ t, exec (.streamTilesPacket p seen) s = .next t ∧ Touches Changes.streamTilesPacket s t ∧
          (Counted s t .ING_UNKNOWN 0 1 ∧ t.mem = s.mem ∧ ∀ r, r ≠ .ING_UNKNOWN → ∀ j, t.reg r j = s.reg r j)
      | some n =>
        ∃ t, exec (.streamTilesPacket p seen) s = .next t ∧ Touches Changes.streamTilesPacket s t ∧
          PacketTaken s t n true p) ∧
  -- R183, R185, R186, R490. A datagram to ING_PORT of TYPE END goes to the open slot it names, or is counted in
  -- ING_UNKNOWN; while the channels do not serve, or in RECOVERY, nothing changes.
  (∀ (p : List Byte) (seen : Seen) (s : State),
    if (PacketHead.ofBytes p).type ≠ 2 ∨ s.ingestServes = false then
      exec (.streamEndPacket p seen) s = .next s
    else
      match s.slotOfDatagram p with
      | none =>
        ∃ t, exec (.streamEndPacket p seen) s = .next t ∧ Touches Changes.streamEndPacket s t ∧
          (Counted s t .ING_UNKNOWN 0 1 ∧ t.mem = s.mem ∧ ∀ r, r ≠ .ING_UNKNOWN → ∀ j, t.reg r j = s.reg r j)
      | some n =>
        ∃ t, exec (.streamEndPacket p seen) s = .next t ∧ Touches Changes.streamEndPacket s t ∧
          PacketTaken s t n true p) ∧
  -- R187. STR_RING_TAIL takes the value written, by the dictionary or by the doorbell of F1; a doorbell value
  -- outside the ring changes nothing.
  (∀ (acc : Option Accessor) (n : Fin 256) (tail : BitVec 16) (s : State), (∀ a, acc = some a → s.Passes a
      .STR_RING_TAIL n.val tail.toNat) →
    if acc = none ∧ (s.reg .STR_RING_SIZE n.val ≤ tail.toNat ∨ s.reg .PCI_LINK 0 = 0) then
      exec (.strRingTailWrite acc n tail) s = .next s
    else
      ∃ t, exec (.strRingTailWrite acc n tail) s = .next t ∧ Touches Changes.strRingTailWrite s t ∧
        t.reg .STR_RING_TAIL n.val = tail.toNat ∧ OnlyAt s t [.STR_RING_TAIL] n.val ∧ (acc ≠ none → t.status = 0)) ∧
  -- R187, R490. The descriptor at STR_RING_HEAD is fetched and the head goes on; the packet it names is fetched
  -- and taken by R185 and R186, AUTH not being required. With the ring empty, the slot not open for PCIE, the link
  -- down, the channels not serving or in RECOVERY nothing changes. A descriptor that is not as R187 says is
  -- discarded as HEADER, the model's choice (log entry 88).
  (∀ (n : Fin 256) (desc : BitVec 128) (p : List Byte) (seen : Seen) (s : State),
    let k := n.val
    let len := bits desc.toNat 63 32
    let at_ := s.reg .STR_RING_BASE k + 16 * s.reg .STR_RING_HEAD k
    if s.reg .STR_STATE k = 0 ∨ s.reg .STR_TRANSPORT k ≠ 1 ∨ s.reg .STR_RING_SIZE k = 0 ∨
         s.reg .STR_RING_HEAD k = s.reg .STR_RING_TAIL k ∨ s.reg .PCI_LINK 0 = 0 ∨ s.reg .iSTR_WAIT k ≠ 0 ∨
         s.ingestServes = false then exec (.streamPacketFetch n desc p seen) s = .next s
    else
      ∃ t, exec (.streamPacketFetch n desc p seen) s = .next t ∧ Touches Changes.streamPacketFetch s t ∧
        (t.reg .STR_RING_HEAD k = (s.reg .STR_RING_HEAD k + 1) % s.reg .STR_RING_SIZE k ∧
         OnlyAt s t [.STR_RING_HEAD] k ∧
         if bits desc.toNat 31 0 ≠ 0 ∨ len < 32 ∨ 9216 < len then
           t.sent = [.hostRead at_ 16] ∧ DiscardedAs s t k 1 ∧ t.mem = s.mem
         else t.sent = [.hostRead at_ 16, .hostRead (bits desc.toNat 127 64) len] ∧ PacketTaken s t k false (p.take
             len)))

/-- What opening, sealing and discarding a frame, a buffer parameter and the end of a sealing do. Each command
completes with exactly this effect and leaves all else as it was. -/
def Obligations.BufferFrames : Prop :=
  -- R182. A free bank becomes FILL with the next frame number; refused with OD_RANGE while BUF_KIND is NONE, and
  -- with BUF_BUSY where the buffer has a FILL or SEALING bank or no free one.
  (∀ (acc : Accessor) (n : Fin 1024) (s : State), s.Passes acc .BUF_CTRL n.val 1 →
    if s.reg .BUF_KIND n.val = 0 then
      exec (.bufCtrlOpen acc n) s = .next (s.answered acc .BUF_CTRL n.val Code.odRange)
    else if s.bankOf n.val 2 ≠ none ∨ s.bankOf n.val 3 ≠ none ∨ s.freeBank n.val = none then
      exec (.bufCtrlOpen acc n) s = .next (s.answered acc .BUF_CTRL n.val Code.bufBusy)
    else
      ∃ t, exec (.bufCtrlOpen acc n) s = .next t ∧ Touches Changes.bufCtrlOpen s t ∧
        t.status = 0 ∧ t.bankOf n.val 2 = s.freeBank n.val ∧
        t.roleFrame n.val 2 = some (s.openFrame n.val % 2 ^ 32) ∧
        (∀ r, r ≠ 2 → t.bankOf n.val r = s.bankOf n.val r) ∧ OnlyAt s t [.BUF_BANKS] n.val) ∧
  -- R182, R189. The FILL bank becomes SEALING; refused with BUF_BUSY where there is none. While another bank is
  -- SEALING it waits for that one, the model's choice (log entry 88).
  (∀ (acc : Accessor) (n : Fin 1024) (s : State), s.Passes acc .BUF_CTRL n.val 2 →
    if s.bankOf n.val 2 = none then
      exec (.bufCtrlSeal acc n) s = .next (s.answered acc .BUF_CTRL n.val Code.bufBusy)
    else if s.bankOf n.val 3 ≠ none then
      ∃ t, exec (.bufCtrlSeal acc n) s = .next t ∧ Touches Changes.bufCtrlSeal s t ∧
        t.status = 0 ∧ t.reg .BUF_BANKS n.val = s.reg .BUF_BANKS n.val ∧ t.reg .iBUF_SEAL n.val = 1 ∧
        OnlyAt s t [.BUF_BANKS, .iBUF_SEAL] n.val
    else
      ∃ t, exec (.bufCtrlSeal acc n) s = .next t ∧ Touches Changes.bufCtrlSeal s t ∧
        t.status = 0 ∧ t.bankOf n.val 3 = s.bankOf n.val 2 ∧ t.bankOf n.val 2 = none ∧
        t.bankOf n.val 0 = s.bankOf n.val 0 ∧ OnlyAt s t [.BUF_BANKS, .iBUF_SEAL] n.val) ∧
  -- R182. The FILL bank becomes free and its waiting tiles are dropped; refused with BUF_BUSY where there is none.
  (∀ (acc : Accessor) (n : Fin 1024) (s : State), s.Passes acc .BUF_CTRL n.val 3 →
    match s.bankOf n.val 2 with
    | none => exec (.bufCtrlDiscard acc n) s = .next (s.answered acc .BUF_CTRL n.val Code.bufBusy)
    | some k =>
      ∃ t, exec (.bufCtrlDiscard acc n) s = .next t ∧ Touches Changes.bufCtrlDiscard s t ∧
        t.status = 0 ∧ t.bankOf n.val 2 = none ∧ (∀ r, r ≠ 2 → t.bankOf n.val r = s.bankOf n.val r) ∧
        t.ingest = s.ingest.filter (fun x => !(x.buf == n.val && x.bank == k)) ∧ OnlyAt s t [.BUF_BANKS] n.val) ∧
  -- R181. Refused with BUF_BUSY where the buffer has a READY, FILL or SEALING bank or is named by a state in force
  -- or a pending commit, and with OD_RANGE where it would leave a combination that R177 does not allow; otherwise
  -- the parameter takes the value, and one of kind, FORMAT, store, dimensions and base frees the FRONT bank.
  (∀ (acc : Accessor) (n : Fin 1024) (p : BufParam) (v : Nat) (s : State), s.Passes acc (bufReg p) n.val v →
    let u := s.setReg (bufReg p) n.val v
    if (s.setStatus 0).bufBusy n.val = true then
      exec (.bufParamWrite acc n p v) s = .next (s.answered acc (bufReg p) n.val Code.bufBusy)
    else if comboOk (u.reg .BUF_KIND n.val) (u.reg .BUF_FORMAT n.val) (u.reg .BUF_STORE n.val) = false then
      exec (.bufParamWrite acc n p v) s = .next (s.answered acc (bufReg p) n.val Code.odRange)
    else
      ∃ t, exec (.bufParamWrite acc n p v) s = .next t ∧ Touches Changes.bufParamWrite s t ∧
        (t.status = 0 ∧ t.Holds (bufReg p) n.val v ∧ OnlyAt s t [bufReg p, .BUF_BANKS] n.val ∧
         (∀ q, q ≠ p → t.reg (bufReg q) n.val = s.reg (bufReg q) n.val) ∧
         t.bankOf n.val 0 = (if bufFrees p then none else s.bankOf n.val 0) ∧
         ∀ r, r ≠ 0 → t.bankOf n.val r = s.bankOf n.val r)) ∧
  -- R182, R190. Once no tile of the SEALING bank waits for its decoder, the bank becomes READY and a READY bank it
  -- replaces is free and counted; the copies of a HOST buffer wait while the firmware does not run, and all while
  -- the channels do not serve. A FILL bank that waited for this seal is SEALING then, the model's choice (log
  -- entry 88).
  (∀ (n : Fin 1024) (seen : Seen) (s : State),
    let k := n.val
    if s.bankOf k 3 = none ∨ s.storeServes = false ∨ (s.reg .BUF_SOURCE k = 0x100 ∧ s.reg .iPHASE 0 ≠ 1) ∨
         s.ingest.any (fun x => x.buf == k && s.bankOf k 3 == some x.bank) = true then
      exec (.sealComplete n seen) s = .next s
    else
      ∃ t, exec (.sealComplete n seen) s = .next t ∧ Touches Changes.sealComplete s t ∧
        t.bankOf k 1 = s.bankOf k 3 ∧ t.bankOf k 0 = s.bankOf k 0 ∧
        t.bankOf k 3 = (if s.reg .iBUF_SEAL k = 1 then s.bankOf k 2 else none) ∧
        t.bankOf k 2 = (if s.reg .iBUF_SEAL k = 1 then none else s.bankOf k 2) ∧ t.roleFrame k 1 = s.roleFrame k 3 ∧
        Counted s t .BUF_SUPERSEDED k (b2n (s.bankOf k 1).isSome) ∧
        OnlyAt s t [.BUF_BANKS, .BUF_SUPERSEDED, .iBUF_SEAL] k)

/-- What opening, parameterising, submitting and aborting a commit group do. Each command completes with exactly
this effect and leaves all else as it was. -/
def Obligations.CommitGroups : Prop :=
  -- R195. An IDLE group is in STAGING and owned by the writer; any other refuses with CMT_GROUP_STATE.
  (∀ (acc : Accessor) (g : Fin 16) (s : State), s.Passes acc .CG_CTRL g.val 1 →
    if s.reg .CG_STATE g.val ≠ 0 then
      exec (.cgCtrlOpen acc g) s = .next (s.answered acc .CG_CTRL g.val Code.cmtGroupState)
    else
      ∃ t, exec (.cgCtrlOpen acc g) s = .next t ∧ Touches Changes.cgCtrlOpen s t ∧
        t.status = 0 ∧ t.reg .CG_STATE g.val = 1 ∧ t.Holds .CG_OWNER g.val (ownerOf acc) ∧
        OnlyAt s t [.CG_STATE, .CG_OWNER] g.val) ∧
  -- R192, R195 to R197. The owner's group in STAGING or REFUSED takes the next commit ID and is PENDING with the
  -- values staged in it and the buffers it lists; CMT_LATE counts a CG_AT whose deadline has passed. A clash of
  -- buffers refuses with CMT_CONFLICT, any other state or writer with CMT_GROUP_STATE.
  (∀ (acc : Accessor) (g : Fin 16) (s : State), s.Passes acc .CG_CTRL g.val 2 →
    let k := g.val
    if s.mayDrive acc k = false then
      exec (.cgCtrlGo acc g) s = .next (s.answered acc .CG_CTRL k Code.cmtGroupState)
    else if s.groupClash k = true then
      exec (.cgCtrlGo acc g) s = .next (s.answered acc .CG_CTRL k Code.cmtConflict)
    else
      ∃ t, exec (.cgCtrlGo acc g) s = .next t ∧ Touches Changes.cgCtrlGo s t ∧
        t.status = 0 ∧ t.reg .CG_STATE k = 2 ∧ t.reg .CG_ID k = s.reg .iCMT_NEXT 0 ∧
        t.Holds .iCMT_NEXT 0 (if s.reg .iCMT_NEXT 0 = 0xFFFFFFFF then 1 else s.reg .iCMT_NEXT 0 + 1) ∧
        t.commits = s.commits ++ [⟨s.reg .iCMT_NEXT 0, some k, s.reg .CG_SURFACES k,
          (s.staged.filter (fun e => e.group == some k)).map (fun e => (e.surfs, e.key, e.value)),
          s.groupBuffers k, false⟩] ∧
        (∀ surf, surf < 2 → Counted s t .CMT_LATE surf
          (b2n (bit (s.reg .CG_SURFACES k) surf && s.goLate surf (s.reg .CG_AT k)))) ∧
        OnlyAt s t [.CG_STATE, .CG_ID] k) ∧
  -- R195. The owner's group in STAGING or REFUSED is IDLE, what it staged is dropped and nobody owns it; refused
  -- with CMT_GROUP_STATE otherwise.
  (∀ (acc : Accessor) (g : Fin 16) (s : State), s.Passes acc .CG_CTRL g.val 3 →
    if s.mayDrive acc g.val = false then
      exec (.cgCtrlAbort acc g) s = .next (s.answered acc .CG_CTRL g.val Code.cmtGroupState)
    else
      ∃ t, exec (.cgCtrlAbort acc g) s = .next t ∧ Touches Changes.cgCtrlAbort s t ∧
        t.status = 0 ∧ t.reg .CG_STATE g.val = 0 ∧ t.reg .CG_OWNER g.val = 0xFFFF ∧
        t.staged = s.staged.filter (fun e => !(e.group == some g.val)) ∧ OnlyAt s t [.CG_STATE, .CG_OWNER] g.val) ∧
  -- R195, R196. In IDLE anyone, in STAGING the owner writes a parameter of the group; a write of CG_SURFACES that
  -- would drop a surface with staged values is refused with CMT_GROUP_STATE, as is every other write.
  (∀ (acc : Accessor) (g : Fin 16) (p : GroupParam) (v : Nat) (s : State), s.Passes acc (groupReg p) g.val v →
    let k := g.val
    if (s.reg .CG_STATE k = 0 ∨ (s.reg .CG_STATE k = 1 ∧ s.ownsGroup acc k = true)) ∧
         ¬ (p = .surfaces ∧ s.staged.any (fun e => e.group == some k && e.surfs &&& v != e.surfs) = true) then
      ∃ t, exec (.cgParamWrite acc g p v) s = .next t ∧ Touches Changes.cgParamWrite s t ∧
        (t.status = 0 ∧ t.Holds (groupReg p) k v ∧ OnlyAt s t [groupReg p] k ∧
         ∀ q, q ≠ p → t.reg (groupReg q) k = s.reg (groupReg q) k)
    else exec (.cgParamWrite acc g p v) s = .next (s.answered acc (groupReg p) k Code.cmtGroupState))

/-- What loading, validating and parameterising a cue and arming and stopping playback do. Each command completes
with exactly this effect and leaves all else as it was. -/
def Obligations.CuesAndPlayback : Prop :=
  -- R204. The cue is LOADING, or the write is refused with CUE_BUSY while it is ARMED or PLAYING.
  (∀ (acc : Accessor) (n : Fin 1024) (s : State), s.Passes acc .CUE_LOAD n.val 1 →
    if s.cueBusy n.val = true then
      exec (.cueLoadValidate acc n) s = .next (s.answered acc .CUE_LOAD n.val Code.cueBusy)
    else
      ∃ t, exec (.cueLoadValidate acc n) s = .next t ∧
        Touches (regs [.CUE_STATE, .iACC_STATUS, .iACC_ID] ++ flds [.status]) s t ∧
        t.status = 0 ∧ t.reg .CUE_STATE n.val = 1 ∧ OnlyAt s t [.CUE_STATE] n.val) ∧
  -- R204. The cue is EMPTY, or the write is refused with CUE_BUSY while it is ARMED or PLAYING.
  (∀ (acc : Accessor) (n : Fin 1024) (s : State), s.Passes acc .CUE_LOAD n.val 2 →
    if s.cueBusy n.val = true then
      exec (.cueLoadEmpty acc n) s = .next (s.answered acc .CUE_LOAD n.val Code.cueBusy)
    else
      ∃ t, exec (.cueLoadEmpty acc n) s = .next t ∧
        Touches (regs [.CUE_STATE, .iACC_STATUS, .iACC_ID] ++ flds [.status]) s t ∧
        t.status = 0 ∧ t.reg .CUE_STATE n.val = 0 ∧ OnlyAt s t [.CUE_STATE] n.val) ∧
  -- R204, R278. A cue that is LOADING is VALID where its region was read unpoisoned and passes every check, and
  -- INVALID otherwise. While the firmware does not run, or the channels do not serve, nothing changes.
  (∀ (n : Fin 1024) (seen : Seen) (s : State),
    let k := n.val
    let q := (s.see seen).fetch s.pipMaster .cue (s.reg .CUE_BASE k) (s.reg .CUE_SIZE k)
    if s.reg .CUE_STATE k ≠ 1 ∨ s.reg .iPHASE 0 ≠ 1 ∨ s.storeServes = false then
      exec (.cueValidationDone n seen) s = .next s
    else
      ∃ t, exec (.cueValidationDone n seen) s = .next t ∧ Touches Changes.cueValidationDone s t ∧
        OnlyAt s t [.CUE_STATE] k ∧
        if q.1.frozen = false ∧ q.1.poisoned = [] ∧ q.2.cueOk k q.1.data = true then t.reg .CUE_STATE k = 2
        else t.reg .CUE_STATE k = 3) ∧
  -- R204. A cue parameter takes the value written and a VALID cue is INVALID; refused with CUE_BUSY while it is
  -- ARMED or PLAYING.
  (∀ (acc : Accessor) (n : Fin 1024) (p : CueParam) (v : Nat) (s : State), s.Passes acc (cueReg p) n.val v →
    if s.cueBusy n.val = true then
      exec (.cueParamWrite acc n p v) s = .next (s.answered acc (cueReg p) n.val Code.cueBusy)
    else
      ∃ t, exec (.cueParamWrite acc n p v) s = .next t ∧ Touches Changes.cueParamWrite s t ∧
        (t.status = 0 ∧ t.Holds (cueReg p) n.val v ∧ OnlyAt s t [cueReg p, .CUE_STATE] n.val ∧
         t.reg .CUE_STATE n.val = (if s.reg .CUE_STATE n.val = 2 then 3 else s.reg .CUE_STATE n.val) ∧
         ∀ q, q ≠ p → t.reg (cueReg q) n.val = s.reg (cueReg q) n.val)) ∧
  -- R206. A cue that is VALID, has the rate and V_COUNT of the surface and whose bound buffers match is ARMED with
  -- the PB_* values; otherwise the write is refused with CUE_INVALID.
  (∀ (acc : Accessor) (surf : Surface) (s : State), s.Passes acc .PB_CTRL surf.val 1 →
    let k := surf.val
    if (s.setStatus 0).cuePlayable k (s.reg .PB_CUE k) = false then
      exec (.pbCtrlArm acc surf) s = .next (s.answered acc .PB_CTRL k Code.cueInvalid)
    else
      ∃ t, exec (.pbCtrlArm acc surf) s = .next t ∧ Touches Changes.pbCtrlArm s t ∧
        t.status = 0 ∧ t.reg .PB_STATE k = 1 ∧ t.reg .iPB_CUE k = s.reg .PB_CUE k ∧
        t.reg .iPB_FIRST k = s.reg .PB_FIRST k ∧ t.reg .iPB_START k = s.reg .PB_START k ∧
        t.reg .iPB_ENDMODE k = s.reg .PB_END k ∧ t.reg .PB_REFUSED k = 0 ∧
        OnlyAt s t [.PB_STATE, .iPB_CUE, .iPB_FIRST, .iPB_START, .iPB_ENDMODE, .PB_REFUSED] k) ∧
  -- R206. Playback is IDLE and forms no further steps; the state in force remains.
  (∀ (acc : Accessor) (surf : Surface) (s : State), s.Passes acc .PB_CTRL surf.val 2 →
    ∃ t, exec (.pbCtrlStop acc surf) s = .next t ∧
      Touches (regs [.iACC_STATUS, .iACC_ID, .PB_STATE] ++ flds [.status]) s t ∧
      t.status = 0 ∧ t.reg .PB_STATE surf.val = 0 ∧ OnlyAt s t [.PB_STATE] surf.val)

/-- What carries a forward lane from DETECT to ACTIVE or to a failed attempt, and resends messages. Each command
completes with exactly this effect and leaves all else as it was. -/
def Obligations.WeltBringUp : Prop :=
  -- R246, R248. In DETECT a second pulse in a row that sees the receiver lets the lane enter TRAIN, with its grant
  -- and the other conditions met; the 64th in a row that does not makes it FAULT, marked. Elsewhere, and within 1
  -- ms of the latest pulse, nothing changes.
  (∀ (surf : Surface) (p : Lane) (present : Bool) (s : State),
    let k := surf.val
    let i := laneIx k p.val
    let n := (s.reg .iWL_ABS i + 1) % 2 ^ Reg.iWL_ABS.width
    if s.lane k p.val ≠ laneDetect ∨ s.reg .iWL_CTX i = 0 ∨
         (s.reg .iWL_PULSE i ≠ 0 ∧ s.clock + 1 < s.reg .iWL_PULSE i + 1000000) then
      exec (.receiverDetectPulse surf p present) s = .next s
    else
      ∃ t, exec (.receiverDetectPulse surf p present) s = .next t ∧
        Touches Changes.receiverDetectPulse s t ∧
        (∀ j, j ≠ i → s.reg .WL_LANE_STATE j ≠ laneDetect →
          t.reg .WL_LANE_STATE j = s.reg .WL_LANE_STATE j) ∧
        if present then t.lane k p.val = if s.pulseTrains k p.val = true then laneTrain else laneDetect
        else if 64 ≤ n then t.lane k p.val = laneFault ∧ t.laneMarked k p.val = true ∧
          ∃ c, t.lastEvent = some (Code.weltLaneFault, packBits [(8, k), (8, p.val), (16, c)])
        else t.lane k p.val = laneDetect ∧ t.reg .iWL_ABS i = n ∧ t.reg .iWL_PRES i = 0) ∧
  -- R246, R248, R252. A RETRAIN of 200 µs ends with the lane SPARED and its cover permanent. TRAIN of 20 ms, LOCK
  -- of 2 ms or EXCHANGE of 12 ms is a failed attempt: the third makes the lane FAULT, marked; before it a SPARED
  -- lane stays SPARED and another returns to DETECT. Before its time, and where its training is complete, nothing
  -- changes.
  (∀ (surf : Surface) (p : Lane) (s : State),
    let k := surf.val
    let i := laneIx k p.val
    let limit := match s.lanePhase k p.val with | 1 => 20000000 | 2 => 2000000 | 3 => 12000000 | _ => 200000
    if s.laneMayActivate k p.val = true ∨ (s.lane k p.val ≠ laneRetrain ∧ s.lanePhase k p.val = 0) ∨
         s.laneAge k p.val < limit then exec (.laneTimeout surf p) s = .next s
    else if s.lane k p.val = laneRetrain then
      ∃ t, exec (.laneTimeout surf p) s = .next t ∧ Touches Changes.laneTimeout s t ∧
        t.lane k p.val = laneSpared ∧ t.reg .iWL_COVER i = 0xFF
    else if 3 ≤ (s.reg .iWL_FAILS i + 1) % 2 ^ Reg.iWL_FAILS.width then
      ∃ t, exec (.laneTimeout surf p) s = .next t ∧ Touches Changes.laneTimeout s t ∧
        t.lane k p.val = laneFault ∧ t.laneMarked k p.val = true
    else if s.lane k p.val = laneSpared then
      ∃ t, exec (.laneTimeout surf p) s = .next t ∧ Touches Changes.laneTimeout s t ∧
        t.lane k p.val = laneSpared ∧ t.reg .iWL_PH i = 0
    else
      ∃ t, exec (.laneTimeout surf p) s = .next t ∧ Touches Changes.laneTimeout s t ∧
        t.lane k p.val = laneDetect ∧ t.reg .iWL_FAILS i = (s.reg .iWL_FAILS i + 1) % 2 ^ Reg.iWL_FAILS.width) ∧
  -- R246, R255. At the begin of a ray line a lane whose training is complete is ACTIVE, and the mark of one that a
  -- RETRY brought back is cleared; elsewhere nothing changes.
  (∀ (surf : Surface) (p : Lane) (s : State),
    if s.laneMayActivate surf.val p.val = false ∨ s.lineBegins surf.val = false then
      exec (.laneActiveEntry surf p) s = .next s
    else
      ∃ t, exec (.laneActiveEntry surf p) s = .next t ∧ Touches Changes.laneActiveEntry s t ∧
        t.lane surf.val p.val = laneActive ∧
        (s.reg .iWL_CTX (laneIx surf.val p.val) = 2 → t.laneMarked surf.val p.val = false)) ∧
  -- R246. A lane that has been SPARED for 1 s without an attempt waits for one, or is the lane whose attempt is
  -- next; it stays SPARED.
  (∀ (surf : Surface) (p : Lane) (s : State),
    let k := surf.val
    if s.lane k p.val = laneSpared ∧ s.reg .iWL_PH (laneIx k p.val) = 0 ∧ 1000000000 ≤ s.laneAge k p.val then
      ∃ t, exec (.sparedAttempt surf p) s = .next t ∧ Touches Changes.sparedAttempt s t ∧
        (t.retrains.contains (k, p.val, true) = true ∨ t.reg .iWL_BUSY k = p.val) ∧ t.lane k p.val = laneSpared
    else exec (.sparedAttempt surf p) s = .next s) ∧
  -- R262. A CAPS held is dropped once neither return lane has been LOCKED for 100 ms. No lane changes state.
  (∀ (surf : Surface) (s : State),
    let k := surf.val
    if s.reg .iWL_CAPS k = 1 ∧ s.returnLocked k = false ∧ s.reg .iWL_LOSTAT k + 100000000 ≤ s.clock then
      ∃ t, exec (.capsHoldExpire surf) s = .next t ∧ Touches Changes.capsHoldExpire s t ∧
        t.reg .iWL_CAPS k = 0 ∧ t.reg .WL_PANEL_CAPS k = 0 ∧ OnlyAt s t [.iWL_CAPS, .WL_PANEL_CAPS] k ∧
        ∀ j, t.reg .WL_LANE_STATE j = s.reg .WL_LANE_STATE j
    else exec (.capsHoldExpire surf) s = .next s) ∧
  -- R259. The oldest message not acknowledged for 100 µs is sent again, at most 8 times; then it is lost and
  -- WELT_MSG_LOST is raised.
  (∀ (surf : Surface) (s : State),
    match s.fwd.find? (fun m => m.surf == surf.val && decide (m.sentAt + 100000 ≤ s.clock)) with
    | none => exec (.fwdMsgResend surf) s = .next s
    | some m =>
      if m.resends < 8 then
        ∃ t, exec (.fwdMsgResend surf) s = .next t ∧ Touches Changes.fwdMsgResend s t ∧
          t.sent = [.welt surf.val m.mseq m.mtype m.bytes] ∧
          t.fwd = s.fwd.map (fun x => if x = m then { x with resends := x.resends + 1, sentAt := s.clock } else x)
      else
        ∃ t, exec (.fwdMsgResend surf) s = .next t ∧ Touches Changes.fwdMsgResend s t ∧
          t.fwd = s.fwd.erase m ∧
          t.lastEvent = some (Code.weltMsgLost, packBits [(8, surf.val), (8, m.mtype), (8, m.mseq)]))

/-- What moves a logical lane between physical lanes, and what the lane control writes do. Each command completes
with exactly this effect and leaves all else as it was. -/
def Obligations.WeltSparing : Prop :=
  -- R252 to R254. At its effect line a move gives the logical lane to the lane named, where that is ACTIVE, and
  -- raises WELT_SPARED; a lane that was no longer ACTIVE takes nothing. The lane that gave it up goes to RETRAIN
  -- (a cover), or waits for it while neither return lane is LOCKED, or is SPARED.
  (∀ (surf : Surface) (l : Fin 80) (s : State),
    let k := surf.val
    match s.moves.find? (fun m => m.surf == k && m.logical == l.val && !m.done) with
    | none => exec (.spareEffect surf l) s = .next s
    | some m =>
      if s.clock < m.effect then exec (.spareEffect surf l) s = .next s
      else
        ∃ t, exec (.spareEffect surf l) s = .next t ∧ Touches Changes.spareEffect s t ∧
          (m.kind = 0 → if s.returnLocked k = true then t.lane k m.fromLane = laneRetrain
            else t.retrains.contains (k, m.fromLane, s.lane k m.fromLane == laneSpared) = true) ∧
          if s.lane k m.toLane = laneActive then
            (m.kind = 2 → m.toLane % 256 ≠ m.fromLane → t.lane k m.fromLane = laneSpared) ∧
            (m.kind ≠ 2 ∨ m.toLane % 256 ≠ m.fromLane →
              blobGet (t.reg .WL_SPARE_MAP k) l.val 1 = m.toLane % 256) ∧
            t.lastEvent = some (Code.weltSpared, packBits
              [(8, k), (8, l.val), (8, m.fromLane), (8, m.toLane), (64, m.frame)])
          else t.reg .WL_SPARE_MAP k = s.reg .WL_SPARE_MAP k) ∧
  -- R253. A move that took effect 100 µs ago is forgotten; one not acknowledged by then is counted in
  -- WL_SPARE_NOACK.
  (∀ (surf : Surface) (l : Fin 80) (s : State),
    match s.moves.find? (fun m => m.surf == surf.val && m.logical == l.val && m.done) with
    | none => exec (.spareAckTimeout surf l) s = .next s
    | some m =>
      if s.clock < m.effect + 100000 then exec (.spareAckTimeout surf l) s = .next s
      else
        ∃ t, exec (.spareAckTimeout surf l) s = .next t ∧
          Touches (regs [.WL_SPARE_NOACK] ++ flds [.moves]) s t ∧
          t.moves = s.moves.erase m ∧ Counted s t .WL_SPARE_NOACK surf.val (b2n (!m.acked)) ∧
          OnlyAt s t [.WL_SPARE_NOACK] surf.val) ∧
  -- R254. With WL_AUTO_SPARE 1 the panel's request orders the permanent sparing of a carrying lane.
  (∀ (surf : Surface) (r : RLane) (raw : List RBlock) (s : State),
    ∃ t, exec (.spareReq surf r raw) s = .next t ∧ Touches Changes.spareReq s t ∧
      Received s t surf r 0x05 raw (fun v m =>
        let d := m.data
        if v.reg .WL_AUTO_SPARE surf.val = 1 ∧ leAt d 0 1 < 84 then SpareOrdered v t surf.val (leAt d 0 1) (t = v)
        else t = v)) ∧
  -- R253. The moves of the logical lane to the lane named are acknowledged, and nothing else changes.
  (∀ (surf : Surface) (r : RLane) (raw : List RBlock) (s : State),
    ∃ t, exec (.spareAck surf r raw) s = .next t ∧ Touches Changes.spareAck s t ∧
      Received s t surf r 0x06 raw (fun v m =>
        let d := m.data
        t.moves = v.moves.map (fun m => if m.surf = surf.val ∧ m.logical = leAt d 0 1 ∧ m.toLane = leAt d 1 1 then
          { m with acked := true } else m))) ∧
  -- R254. SPARE orders the permanent sparing of a carrying lane.
  (∀ (acc : Accessor) (surf : Surface) (p : Lane) (s : State), s.Passes acc .WL_CTRL (laneIx surf.val p.val) 2 →
    ∃ t, exec (.wlCtrlSpare acc surf p) s = .next t ∧ Touches Changes.wlCtrlSpare s t ∧
      t.status = 0 ∧
      SpareOrdered s t surf.val p.val (CtrlIdle s t acc (laneIx surf.val p.val))) ∧
  -- R251. An ACTIVE lane waits for a RETRAIN, or is the lane whose attempt is next; another state ignores the
  -- code.
  (∀ (acc : Accessor) (surf : Surface) (p : Lane) (s : State), s.Passes acc .WL_CTRL (laneIx surf.val p.val) 1 →
    if s.lane surf.val p.val = laneActive then
      ∃ t, exec (.wlCtrlRetrain acc surf p) s = .next t ∧ Touches Changes.wlCtrlRetrain s t ∧
        t.status = 0 ∧
        (t.retrains.contains (surf.val, p.val, false) = true ∨ t.reg .iWL_BUSY surf.val = p.val)
    else
      ∃ t, exec (.wlCtrlRetrain acc surf p) s = .next t ∧ Touches Changes.wlCtrlRetrain s t ∧
        CtrlIdle s t acc (laneIx surf.val p.val)) ∧
  -- R246. RETRY returns a FAULT lane to DETECT with no failures counted; another state ignores the code.
  (∀ (acc : Accessor) (surf : Surface) (p : Lane) (s : State), s.Passes acc .WL_CTRL (laneIx surf.val p.val) 3 →
    let i := laneIx surf.val p.val
    if s.lane surf.val p.val = laneFault then
      ∃ t, exec (.wlCtrlRetry acc surf p) s = .next t ∧ Touches Changes.wlCtrlRetry s t ∧
        t.status = 0 ∧ t.lane surf.val p.val = laneDetect ∧
        t.reg .iWL_FAILS i = 0 ∧ t.reg .iWL_CTX i = 2 ∧ OnlyAt s t [.WL_LANE_STATE, .iWL_FAILS, .iWL_CTX] i
    else exec (.wlCtrlRetry acc surf p) s = .next (s.answered acc .WL_CTRL i 0)) ∧
  -- R192, R195, R200, R229. A DARK-class write: it needs the surface's or the group's consent and is staged; the
  -- map itself stays until the next bring-up.
  (∀ (acc : Accessor) (surf : Surface) (s : State), s.Passes acc .WL_MAP_RESET surf.val 1 →
    let k := surf.val
    let e (g : Option Nat) : Staged := ⟨g, 2 ^ k, ownerOf acc, regKey .WL_MAP_RESET k, 1⟩
    ∃ t, exec (.wlMapReset acc surf) s = .next t ∧ Touches Changes.wlMapReset s t ∧
      let refused (code : Nat) := t = s.answered acc .WL_MAP_RESET k code
      match s.stagingGroup (ownerOf acc) with
      | none => if s.reg .CMT_DARK_OK k = 0 then refused Code.cmtNeedDark
        else t.status = 0 ∧ t.staged.getLast? = some (e none)
      | some g => if s.reg .CG_DARK_OK g = 0 then refused Code.cmtNeedDark
        else if 2 ^ k &&& s.reg .CG_SURFACES g ≠ 2 ^ k then refused Code.cmtGroupState
        else t.status = 0 ∧ t.staged.getLast? = some (e (some g)))

/-- What puts a lane in IDLE and brings it back, and what test patterns do. Each command completes with exactly this
effect and leaves all else as it was. -/
def Obligations.WeltIdleAndTest : Prop :=
  -- R249. An ACTIVE lane under an idle order sends 4 EIE blocks and is IDLE; elsewhere nothing changes.
  (∀ (surf : Surface) (p : Lane) (s : State),
    let k := surf.val
    if s.lane k p.val = laneActive ∧ (s.reg .iWL_IDLEORD k = 1 ∨ s.blankIdle k = true) then
      ∃ t, exec (.laneIdleEntry surf p) s = .next t ∧ Touches Changes.laneIdleEntry s t ∧
        t.lane k p.val = laneIdle ∧ OnlyAt s t [.WL_LANE_STATE] (laneIx k p.val) ∧
        t.sent = [.slot k p.val (List.replicate 4 (Welt.eie.control, Welt.eie.bits))]
    else exec (.laneIdleEntry surf p) s = .next s) ∧
  -- R246, R249. 2 µs before raster position 23, once a frame, an IDLE lane that takes part leaves electrical idle:
  -- by FASTWAKE within 5 ms of its entry, and by RETRAIN (ordered, or begun) later. A lane that takes no part
  -- stays IDLE.
  (∀ (surf : Surface) (s : State),
    let k := surf.val
    if s.reg .WL_BLANK_IDLE k = 1 ∧ s.reg .iS_SEEN k ≠ 0 ∧ s.reg .iWL_IDLED k ≠ s.reg .iS_SEEN k ∧
         s.reg .iWL_IDLEORD k = 0 ∧ s.rasterLocal k 23 ≤ s.clock + 2000 then
      ∃ t, exec (.blankIdleExit surf) s = .next t ∧ Touches Changes.blankIdleExit s t ∧
        ∀ p, p < 84 → p ≠ s.reg .iWL_BUSY k → s.lane k p = laneIdle →
          if (s.takingPart k).contains p = false then t.lane k p = laneIdle
          else if s.laneAge k p ≤ 5000000 then t.lane k p = laneFastwake
          else t.lane k p = laneActive ∨ t.lane k p = laneRetrain
    else exec (.blankIdleExit surf) s = .next s) ∧
  -- R246, R250. A lane whose burst has been sent is ACTIVE (or in RETRAIN at once where it is the lane whose
  -- attempt is next and holds its grant).
  (∀ (surf : Surface) (p : Lane) (s : State),
    let k := surf.val
    if s.lane k p.val = laneFastwake ∧ 812 ≤ s.laneAge k p.val then
      ∃ t, exec (.fastwakeDone surf p) s = .next t ∧ Touches Changes.fastwakeDone s t ∧
        (t.lane k p.val = laneActive ∨ (s.reg .iWL_BUSY k = p.val ∧ t.lane k p.val = laneRetrain))
    else exec (.fastwakeDone surf p) s = .next s) ∧
  -- R246, R265. TEST_CMD is sent and a lane that carries nothing, or is SPARED or FAULT, or whose surface is OFF,
  -- is in TEST; any other refuses with WL_BUSY. Mode 0 ends the test, and a lane in TEST waits for a RETRAIN.
  (∀ (acc : Accessor) (surf : Surface) (p : Lane) (mode : Fin 4) (s : State), s.Passes acc .WL_PRBS_MODE (laneIx
      surf.val p.val) mode.val →
    let k := surf.val
    let i := laneIx k p.val
    let msg := leBytes 1 p.val ++ leBytes 1 0 ++ leBytes 1 mode.val ++ leBytes 5 0
    if mode.val = 0 then
      ∃ t, exec (.wlPrbsMode acc surf p mode) s = .next t ∧ Touches Changes.wlPrbsMode s t ∧
        t.status = 0 ∧ t.reg .WL_PRBS_MODE i = 0 ∧ t.reg .iWL_PRBSRUN i = 0 ∧
        (s.lane k p.val = laneTest →
          t.retrains.contains (k, p.val, false) = true ∨ t.reg .iWL_BUSY k = p.val) ∧
        (s.lane k p.val ≠ laneTest → Sent s t k 0x85 msg)
    else if s.laneLogical k p.val = none ∨ s.lane k p.val = laneSpared ∨ s.lane k p.val = laneFault ∨
        s.reg .SO_OUT_STATE k = 0 then
      ∃ t, exec (.wlPrbsMode acc surf p mode) s = .next t ∧ Touches Changes.wlPrbsMode s t ∧
        t.status = 0 ∧ Sent s t k 0x85 msg ∧ t.lane k p.val = laneTest ∧ t.reg .WL_PRBS_MODE i = mode.val ∧
        OnlyAt s t [.WL_LANE_STATE, .WL_PRBS_MODE] i
    else exec (.wlPrbsMode acc surf p mode) s = .next ((s.send []).answered acc .WL_PRBS_MODE i Code.wlBusy)) ∧
  -- R265. The pattern runs from 100 µs after TEST_CMD, from a register that is not 0.
  (∀ (surf : Surface) (p : Lane) (s : State),
    let i := laneIx surf.val p.val
    if s.lane surf.val p.val = laneTest ∧ s.reg .WL_PRBS_MODE i ≠ 0 ∧ s.reg .iWL_PRBSAT i + 100000 ≤ s.clock then
      ∃ t, exec (.prbsStart surf p) s = .next t ∧
        Touches (regs [.iWL_PRBSRUN, .iWL_PRBSREG] ++ flds [.draws]) s t ∧
        t.reg .iWL_PRBSRUN i = 1 ∧ t.reg .iWL_PRBSREG i ≠ 0 ∧ OnlyAt s t [.iWL_PRBSRUN, .iWL_PRBSREG] i
    else exec (.prbsStart surf p) s = .next s) ∧
  -- R265, R266. TEST_CMD is sent and the return lane is in TEST while its fellow is LOCKED; otherwise refused with
  -- WL_BUSY. Mode 0 ends the test.
  (∀ (acc : Accessor) (surf : Surface) (r : RLane) (mode : Fin 4) (s : State), s.Passes acc .WR_PRBS_MODE (2 *
      surf.val + r.val) mode.val →
    let k := surf.val
    let i := 2 * k + r.val
    let msg := leBytes 1 r.val ++ leBytes 1 1 ++ leBytes 1 mode.val ++ leBytes 5 0
    ∃ t, exec (.wrPrbsMode acc surf r mode) s = .next t ∧ Touches Changes.wrPrbsMode s t ∧
      let done := t.status = 0 ∧ Sent s t k 0x85 msg ∧ t.reg .WR_PRBS_MODE i = mode.val ∧
        t.Holds .iWR_PRBSAT i s.clock ∧ OnlyAt s t [.WR_STATE, .WR_PRBS_MODE] i
      if mode.val = 0 then done ∧ t.reg .WR_STATE i = (if s.reg .WR_STATE i = 3 then 1 else s.reg .WR_STATE i)
      else if s.reg .WR_STATE (2 * k + (1 - r.val)) = 2 then done ∧ t.reg .WR_STATE i = 3
      else t = (s.send []).answered acc .WR_PRBS_MODE i Code.wlBusy) ∧
  -- R265. Each report of a forward lane is added to its WL_PRBS_ERR, saturating at 2^48 - 1.
  (∀ (surf : Surface) (r : RLane) (raw : List RBlock) (s : State),
    ∃ t, exec (.prbsReport surf r raw) s = .next t ∧ Touches Changes.prbsReport s t ∧
      Received s t surf r 0x0C raw (fun v m =>
        let d := m.data
        ∀ p, p < 84 →
          let i := laneIx surf.val p
          let mine := (List.range (leAt d 0 1)).filter (fun k =>
            leAt d (8 + 16 * k) 1 == p && leAt d (9 + 16 * k) 1 == 0)
          t.reg .WL_PRBS_ERR i = if mine = [] then v.reg .WL_PRBS_ERR i
            else min (2 ^ 48 - 1) (v.reg .WL_PRBS_ERR i + (mine.map (fun k => leAt d (16 + 16 * k) 8)).sum)))

/-- What CAPS, LANE_STATUS, SENSORS and the lock of a return lane do. Each command completes with exactly this
effect and leaves all else as it was. -/
def Obligations.PanelMessages : Prop :=
  -- R247, R262. CAPS records its SEQ. One with new content is held; a compatible one brings up every lane that
  -- takes part from DETECT, and an incompatible one leaves every lane IDLE or FAULT.
  (∀ (surf : Surface) (r : RLane) (raw : List RBlock) (s : State),
    ∃ t, exec (.caps surf r raw) s = .next t ∧ Touches Changes.caps s t ∧
      Received s t surf r 0x01 raw (fun v m =>
        let k := surf.val
        t.Holds .iWL_CAPSSEQ k m.mseq ∧
        if v.reg .iWL_CAPS k = 1 ∧ v.reg .WL_PANEL_CAPS k = leAt m.data 0 24 then
          t.reg .WL_PANEL_CAPS k = v.reg .WL_PANEL_CAPS k ∧ ∀ j, t.reg .WL_LANE_STATE j = v.reg .WL_LANE_STATE j
        else t.Holds .WL_PANEL_CAPS k (leAt m.data 0 24) ∧ t.reg .iWL_CAPS k = 1 ∧
          if t.capsOk k = true then
            ∀ p, p < 84 → (t.takingPart k).contains p = true → t.lane k p = laneDetect
          else ∀ p, p < 84 → t.lane k p = laneIdle ∨ t.lane k p = laneFault)) ∧
  -- R246, R251, R259, R261. The messages acknowledged are forgotten, and each lane's eye is that of the last entry
  -- that names it. A message of one entry: a lane in TRAIN with bit lock goes on to LOCK, or with block lock to
  -- EXCHANGE, a lane in LOCK with block lock to EXCHANGE; an ACTIVE lane without block lock waits for a RETRAIN or
  -- is the next to have one.
  (∀ (surf : Surface) (r : RLane) (raw : List RBlock) (s : State),
    ∃ t, exec (.laneStatus surf r raw) s = .next t ∧ Touches Changes.laneStatus s t ∧
      Received s t surf r 0x02 raw (fun v m =>
        let k := surf.val
        let d := m.data
        let n := leAt d 1 1
        let e (j : Nat) := leAt d (8 + 8 * j) 8
        let p := bits (e 0) 7 0
        v.fwd.filter (fun m => !(m.surf == k && ackCovers (leAt d 0 1) m.mseq)) <+: t.fwd ∧
        (∀ j, j < n → bits (e j) 7 0 < 84 → (∀ h, j < h → h < n → bits (e h) 7 0 ≠ bits (e j) 7 0) →
          t.reg .WL_EYE_W (laneIx k (bits (e j) 7 0)) = bits (e j) 55 48 ∧
          t.Holds .WL_EYE_H (laneIx k (bits (e j) 7 0)) (4 * bits (e j) 63 56)) ∧
        (n = 1 → p < 84 → v.reg .iWL_CTX (laneIx k p) ≠ 0 →
          (v.lanePhase k p = 1 → bit (e 0) 8 = true → t.lanePhase k p = (if bit (e 0) 9 then 3 else 2)) ∧
          (v.lanePhase k p = 2 → bit (e 0) 9 = true → t.lanePhase k p = 3)) ∧
        (n = 1 → p < 84 → v.lane k p = laneActive → bit (e 0) 9 = false →
          t.retrains.contains (k, p, false) = true ∨ t.reg .iWL_BUSY k = p))) ∧
  -- R260, R268. SENSORS is kept whole in WL_PANEL_SENSORS.
  (∀ (surf : Surface) (r : RLane) (raw : List RBlock) (s : State),
    ∃ t, exec (.sensors surf r raw) s = .next t ∧ Touches Changes.sensors s t ∧
      Received s t surf r 0x07 raw (fun v m =>
        t.Holds .WL_PANEL_SENSORS surf.val (leNat m.data) ∧ t.Holds .iWL_SENSN surf.val (leAt m.data 0 1) ∧
        t.Holds .iWL_SENSAT surf.val v.clock ∧ OnlyAt v t [.WL_PANEL_SENSORS, .iWL_SENSN, .iWL_SENSAT] surf.val)) ∧
  -- R258. A return lane that has taken 64 blocks in a row with valid headers is LOCKED; before, or where it is,
  -- the blocks change no lane's state. One in test takes none.
  (∀ (surf : Surface) (r : RLane) (raw : List RBlock) (s : State),
    let i := 2 * surf.val + r.val
    let b := (s.takeBlocks i raw).2
    if s.reg .WR_STATE i = 3 then exec (.returnLaneLock surf r raw) s = .next s
    else if s.reg .WR_STATE i = 2 ∨ b.reg .iWR_RUN i < 64 then exec (.returnLaneLock surf r raw) s = .next b
    else
      ∃ t, exec (.returnLaneLock surf r raw) s = .next t ∧ Touches Changes.returnLaneLock s t ∧
        t.reg .WR_STATE i = 2 ∧ t.reg .iWR_HIST i = 0 ∧ t.reg .WR_BLOCK_ERRS i = b.reg .WR_BLOCK_ERRS i ∧
        OnlyAt s t [.WR_STATE, .WR_BLOCK_ERRS, .WR_EYE_W, .WR_EYE_H] i) ∧
  -- R258, R263. A LOCKED return lane that has taken blocks of which 16 of the latest 64 are in error loses lock.
  -- With its fellow not LOCKED either, WELT_RETURN_LOST is raised and the delivery under way is ABORTED.
  (∀ (surf : Surface) (r : RLane) (raw : List RBlock) (s : State),
    let k := surf.val
    let i := 2 * k + r.val
    let b := (s.takeBlocks i raw).2
    if s.reg .WR_STATE i = 3 then exec (.returnLaneUnlock surf r raw) s = .next s
    else if s.reg .WR_STATE i ≠ 2 ∨ popCount 64 (b.reg .iWR_HIST i) < 16 then
      exec (.returnLaneUnlock surf r raw) s = .next b
    else
      ∃ t, exec (.returnLaneUnlock surf r raw) s = .next t ∧ Touches Changes.returnLaneUnlock s t ∧
        t.reg .WR_STATE i = 1 ∧ t.reg .WR_BLOCK_ERRS i = b.reg .WR_BLOCK_ERRS i ∧
        OnlyAt s t [.WR_STATE, .WR_BLOCK_ERRS] i ∧
        if s.reg .WR_STATE (2 * k + (1 - r.val)) = 2 then
          t.reg .EV_COUNT 0 = s.reg .EV_COUNT 0 ∧ t.deliveries = s.deliveries
        else t.lastEvent = some (Code.weltReturnLost, packBits [(8, k)]) ∧ t.Holds .iWL_LOSTAT k s.clock ∧
          DeliveryEnded s t k 5)

/-- What the negotiation of a forward lane's coefficients does. Each command completes with exactly this effect and
leaves all else as it was. -/
def Obligations.Equaliser : Prop :=
  -- R233, R245. In EXCHANGE under NEGOTIATE a request of coefficients waits behind the earlier ones; the 64th ends
  -- the negotiation. Elsewhere it does nothing. The coefficients in force stay.
  (∀ (surf : Surface) (r : RLane) (raw : List RBlock) (s : State),
    ∃ t, exec (.eqReq surf r raw) s = .next t ∧ Touches Changes.eqReq s t ∧
      Received s t surf r 0x03 raw (fun v m =>
        let d := m.data
        let p := leAt d 0 1
        let i := laneIx surf.val p
        let pre := if bit (leAt d 1 1) 0 then (Welt.preset (bits (leAt d 1 1) 3 1)).1 else leAt d 2 1
        let post := if bit (leAt d 1 1) 0 then (Welt.preset (bits (leAt d 1 1) 3 1)).2.2 else leAt d 3 1
        if 84 ≤ p ∨ v.lanePhase surf.val p ≠ 3 ∨ v.reg .iWL_NEG i ≠ 0 then t = v
        else Counted v t .iWL_REQN i 1 ∧ OnlyAt v t [.iWL_REQN, .iWL_NEG] i ∧
          if 64 ≤ t.reg .iWL_REQN i then t.reg .iWL_NEG i = 1 ∧ t.eqReqs = v.requestsBut surf.val p
          else t.reg .iWL_NEG i = 0 ∧ t.eqReqs = v.eqReqs ++ [⟨surf.val, p, pre, post, leAt d 4 1, v.clock⟩])) ∧
  -- R233, R244, R245. In the first training group that begins 2 µs after a request the coefficients it asks for
  -- are in force, or the rejection is shown, with its REQ_ID: the group is a TS2 and 31 more blocks. Elsewhere
  -- nothing changes.
  (∀ (surf : Surface) (p : Lane) (s : State),
    let i := laneIx surf.val p.val
    match s.eqDue surf.val p.val with
    | none => exec (.eqApply surf p) s = .next s
    | some q =>
      if s.lanePhase surf.val p.val = 3 ∧ s.reg .iWL_NEG i = 0 ∧ s.reg .iWL_TSAT i ≤ s.clock then
        ∃ t, exec (.eqApply surf p) s = .next t ∧ Touches Changes.eqApply s t ∧
          let ts := Welt.trainingSet true surf.val p.val (t.reg .WL_COEFF i) (s.reg .iWL_TS i) (t.reg .iWL_EQACK i)
            (t.reg .iWL_EQREJ i)
          (if Welt.coeffOk q.pre q.post = true then t.Holds .WL_COEFF i (Welt.coeff q.pre q.post)
            else t.reg .WL_COEFF i = s.reg .WL_COEFF i) ∧
          t.eqReqs = s.eqReqs.erase q ∧ t.Holds .iWL_EQACK i q.id ∧
          t.Holds .iWL_EQREJ i (b2n (!Welt.coeffOk q.pre q.post)) ∧
          t.Holds .iWL_TS i ((s.reg .iWL_TS i + 1) % 256) ∧
          OnlyAt s t [.WL_COEFF, .iWL_EQACK, .iWL_EQREJ, .iWL_TS, .iWL_TSAT] i ∧
          ∃ rest, rest.length = 31 ∧ t.sent = [.slot surf.val p.val ((ts.control, ts.bits) :: rest)]
      else exec (.eqApply surf p) s = .next s) ∧
  -- R245. EQ_DONE reports the lane's eye and ends its negotiation in EXCHANGE.
  (∀ (surf : Surface) (r : RLane) (raw : List RBlock) (s : State),
    ∃ t, exec (.eqDone surf r raw) s = .next t ∧ Touches Changes.eqDone s t ∧
      Received s t surf r 0x04 raw (fun v m =>
        let d := m.data
        let p := leAt d 0 1
        let i := laneIx surf.val p
        if 84 ≤ p then t = v
        else t.reg .WL_EYE_W i = leAt d 1 1 ∧ t.Holds .WL_EYE_H i (4 * leAt d 2 1) ∧
          OnlyAt v t [.WL_EYE_W, .WL_EYE_H, .iWL_NEG] i ∧
          if v.lanePhase surf.val p = 3 then t.reg .iWL_NEG i = 1 ∧ t.eqReqs = v.requestsBut surf.val p
          else t.reg .iWL_NEG i = v.reg .iWL_NEG i ∧ t.eqReqs = v.eqReqs)) ∧
  -- R245. A negotiation that has not ended 8 ms into EXCHANGE ends; the coefficients in force stay.
  (∀ (surf : Surface) (p : Lane) (s : State),
    let i := laneIx surf.val p.val
    if s.lanePhase surf.val p.val = 3 ∧ s.reg .iWL_NEG i = 0 ∧ 8000000 ≤ s.laneAge surf.val p.val then
      ∃ t, exec (.eqNegotiationTimeout surf p) s = .next t ∧
        Touches (regs [.iWL_NEG] ++ flds [.eqReqs]) s t ∧
        t.reg .iWL_NEG i = 1 ∧ t.eqReqs = s.requestsBut surf.val p.val ∧ OnlyAt s t [.iWL_NEG] i
    else exec (.eqNegotiationTimeout surf p) s = .next s)

/-- What a calibration delivery does from its request to its end. Each command completes with exactly this effect
and leaves all else as it was. -/
def Obligations.CalibrationDelivery : Prop :=
  -- R259, R263. CAL_REQ is sent for the kind of set asked for.
  (∀ (acc : Accessor) (surf : Surface) (gain : Bool) (s : State), s.Passes acc .WL_CAL_FETCH surf.val (1 + b2n
      gain) →
    ∃ t, exec (.wlCalFetch acc surf gain) s = .next t ∧ Touches Changes.wlCalFetch s t ∧
      t.status = 0 ∧
      Sent s t surf.val 0x83 (leBytes 1 (b2n gain) ++ leBytes 7 0)) ∧
  -- R263 step 1. A delivery under way is ABORTED first. The new one is refused with SLOT_BUSY, GEOMETRY or TEMPS
  -- shown in WL_CAL_RESULT, or its slot is LOADING with the temperatures and the geometry it names.
  (∀ (surf : Surface) (r : RLane) (raw : List RBlock) (s : State),
    ∃ t, exec (.calBegin surf r raw) s = .next t ∧ Touches Changes.calBegin s t ∧
      Received s t surf r 0x08 raw (fun v m =>
        let d := m.data
        let u := v.endDelivery surf.val 5
        let kind := leAt d 0 1
        let i := 32 * kind + 16 * surf.val + v.reg .CAL_PANEL_SLOT surf.val
        let w := leAt d 1 2
        let h := leAt d 3 2
        if 2 ≤ kind then DeliveryEnded v t surf.val 5
        else if u.calBusy i = true then t.reg .WL_CAL_RESULT surf.val = 1 ∧ t.deliveries = u.deliveries
        else if w ≠ v.reg .SURF_WIDTH surf.val ∨ h ≠ v.reg .SURF_HEIGHT surf.val ∨
            leAt d 16 4 ≠ calSetSize kind w h then
          t.reg .WL_CAL_RESULT surf.val = 2 ∧ t.deliveries = u.deliveries
        else if asInt 16 (leAt d 10 2) ≤ asInt 16 (leAt d 8 2) ∨ asInt 16 (leAt d 12 2) ≤ asInt 16 (leAt d 10 2) then
          t.reg .WL_CAL_RESULT surf.val = 4 ∧ t.deliveries = u.deliveries
        else t.reg .CAL_STATE i = 1 ∧ t.Holds .CAL_T0 i (leAt d 8 2) ∧ t.Holds .CAL_T1 i (leAt d 10 2) ∧
          t.Holds .CAL_T2 i (leAt d 12 2) ∧ t.Holds .iCAL_W i w ∧ t.Holds .iCAL_H i h ∧
          t.deliveries = u.deliveries ++ [⟨surf.val, i, kind, leAt d 16 4, leAt d 20 4, leAt d 24 4, []⟩])) ∧
  -- R263 step 2, R296. Data inside the set are stored from CAL_BASE on and noted, unless the Pip core that writes
  -- them is frozen; data beyond the set end the delivery with result 4. It waits while the store does not serve.
  (∀ (surf : Surface) (r : RLane) (raw : List RBlock) (seen : Seen) (s : State),
    if s.storeServes = false then exec (.calData surf r raw seen) s = .next s
    else
      ∃ t, exec (.calData surf r raw seen) s = .next t ∧ Touches Changes.calData s t ∧
        Received s t surf r 0x09 raw (fun v m =>
          match v.deliveries.find? (fun x => x.surf == surf.val) with
          | none => t = v
          | some x =>
            let off := leAt m.data 0 4
            let n := (m.data.drop 8).length
            if x.total < off + n then DeliveryEnded v t surf.val 4
            else (∀ a, a < v.reg .CAL_BASE x.inst + off ∨ v.reg .CAL_BASE x.inst + off + n ≤ a → t.byte a = v.byte a)
                ∧
              (t.deliveries = v.deliveries.map (fun y => if y = x then { y with got := y.got ++ [(off, n)] } else y) ∨
                (t.isFrozen v.pipMaster = true ∧ t.deliveries = v.deliveries)))) ∧
  -- R263 step 3, R296. A set that is whole, reads unpoisoned and matches its CRC makes the slot VALID with the
  -- geometry of the delivery, and WL_CAL_RESULT 0; one with a gap ends with result 4, any other with result 3. It
  -- waits while the store does not serve.
  (∀ (surf : Surface) (r : RLane) (raw : List RBlock) (seen : Seen) (s : State),
    if s.storeServes = false then exec (.calEnd surf r raw seen) s = .next s
    else
      ∃ t, exec (.calEnd surf r raw seen) s = .next t ∧ Touches Changes.calEnd s t ∧
        Received s t surf r 0x0A raw (fun v _ =>
          match v.deliveries.find? (fun x => x.surf == surf.val) with
          | none => t = v
          | some x =>
            let a := ((v.see seen).fetch v.pipMaster .cue (v.reg .CAL_BASE x.inst) x.total).1
            if coveredTo x.got < x.total then DeliveryEnded v t surf.val 4
            else if a.frozen = true ∨ a.poisoned ≠ [] ∨ crc32c a.data ≠ x.crc then DeliveryEnded v t surf.val 3
            else t.deliveries = v.deliveries.erase x ∧ t.reg .CAL_STATE x.inst = 2 ∧ t.reg .CAL_SOURCE x.inst = 2 ∧
              t.reg .WL_CAL_RESULT surf.val = 0 ∧ t.Holds .CAL_WIDTH x.inst (v.reg .iCAL_W x.inst) ∧
              t.Holds .CAL_HEIGHT x.inst (v.reg .iCAL_H x.inst) ∧
              t.Holds .CAL_RESIDUAL x.inst (if x.kind = 0 then x.resid else 0))) ∧
  -- R263. CAL_NONE is received and does nothing more.
  (∀ (surf : Surface) (r : RLane) (raw : List RBlock) (s : State),
    ∃ t, exec (.calNone surf r raw) s = .next t ∧ Touches Changes.calNone s t ∧
      Received s t surf r 0x0B raw (fun v _ => t = v))

/-- What a received and a sent frame, the port mode, a link and a receive queue do. Each command completes with
exactly this effect and leaves all else as it was. -/
def Obligations.SwitchAndLinks : Prop :=
  -- R342, R343, R346, R348 to R353. A frame of a link that is up is counted with what its FEC corrected; one that
  -- is bad or longer than 9,600 bytes is counted so, teaches no address and reaches no queue. What goes to the
  -- other port cuts through (stomped where it is wrong), or is stored where it is right and there is room. A right
  -- frame teaches its source address; one for the device that no protocol of its own claims goes to the receive
  -- queues.
  (∀ (port : Fin 2) (sub : Fin 4) (f : List Byte) (bad : Bool) (corr uncorr rx tx : Nat) (s : State),
    let p := port.val
    let o := 1 - p
    let e := Ether.ofBytes f
    let long := decide (9600 < f.length)
    let wrong := bad || long
    let across := s.goesAcross p sub.val f
    let cut := across && s.cutsThrough p o f
    let q := if e.tagged then e.pcp else s.reg .ETH_DEF_PCP p
    let room := decide (s.egressLevel o q + f.length ≤ egressSize)
    let here := sub.val ≠ 0 ∨ (s.switchTo e.dst).2 = true
    let fec (n : Nat) : Nat := if s.reg .iETH_FEC (4 * p + sub.val) = 0 then 0 else n
    if s.linkUp p sub.val = false then exec (.ethFrameReceive port sub f bad corr uncorr rx tx) s = .next s
    else
      ∃ t, exec (.ethFrameReceive port sub f bad corr uncorr rx tx) s = .next t ∧
        Touches Changes.ethFrameReceive s t ∧
        Counted s t .ETH_RX_FRAMES p 1 ∧ Counted s t .ETH_FEC_CORR p (fec corr) ∧ Counted s t .ETH_FEC_UNCORR p (fec
            uncorr) ∧
        Counted s t .ETH_OVERSIZE p (b2n long) ∧ Counted s t .ETH_FCS_ERR p (b2n (wrong && !cut)) ∧
        Counted s t .ETH_CUT o (b2n cut) ∧ Counted s t .ETH_STOMPED o (b2n (cut && wrong)) ∧
        Counted s t .ETH_STORED o (b2n (across && !cut && !wrong && room)) ∧
        Counted s t .ETH_FWD_DROPS o (b2n (across && !cut && !wrong && !room)) ∧
        if wrong then t.macs = s.macs ∧ t.rxq = s.rxq
        else t.macPort e.src = 4 * p + sub.val ∧ (∀ a, a ≠ e.src → t.macPort a = s.macPort a) ∧
          (¬ here → t.rxq = s.rxq) ∧
          (here → s.reg .iPHASE 0 ≠ 4 → ptpAt f = none → e.etype ≠ 0x0806 →
            Packet.ofEther e = none → (e.tagged = false ∨ e.vid = 0 ∨ e.vid = s.reg .NET_VID 0) →
            Queued s t p sub.val (rx >>> 48) f)) ∧
  -- R349. The frame under way has left: it is sent and counted, its room is free, and the oldest frame of the
  -- port's highest queue begins.
  (∀ (port : Fin 2) (tx : Nat) (s : State),
    ∃ t, exec (.egressFrameSent port tx) s = .next t ∧
      Touches (regs [.ETH_TX_FRAMES] ++ flds [.egress, .sent, .waits]) s t ∧
      let go (u : State) : Prop := if u.portSending port.val = true then t.egress = u.egress
        else match u.nextEgress port.val with
          | none => t.egress = u.egress
          | some g => t.egress = { (u.stampFrame g tx).1 with started := true } :: u.egress.erase g
      match s.egress.find? (fun f => f.port == port.val && f.started) with
      | none => t.reg .ETH_TX_FRAMES port.val = s.reg .ETH_TX_FRAMES port.val ∧ t.sent = s.sent ∧ go s
      | some f => Counted s t .ETH_TX_FRAMES port.val 1 ∧ t.sent = [f.msg] ∧
        go { s with egress := s.egress.erase f }) ∧
  -- R342. A write of the mode, FEC or auto-negotiation of a port takes effect and takes all its links down.
  (∀ (acc : Accessor) (port : Fin 2) (p : EthParam) (v : BitVec 8) (s : State), s.Passes acc (ethReg p) port.val
      v.toNat →
    ∃ t, exec (.ethModeWrite acc port p v) s = .next t ∧ Touches Changes.ethModeWrite s t ∧
      t.status = 0 ∧ t.Holds (ethReg p) port.val v.toNat ∧ (∀ k, k < 4 → t.linkUp port.val k = false) ∧
      OnlyAt s t [ethReg p, .ETH_LINK] port.val ∧ (∀ q, q ≠ p → t.reg (ethReg q) port.val = s.reg (ethReg q)
          port.val) ∧
      (s.linkUp port.val 0 = true → t.reg .PP_STATE port.val = 0)) ∧
  -- R342, R357. With PLL-NT locked and the ports running a link of the mode in force that is down is up with its
  -- FEC, LINK_UP is raised, and the PTP port of sub-port 0 listens; otherwise nothing changes.
  (∀ (port : Fin 2) (sub : Fin 4) (m : Module) (s : State),
    let p := port.val
    if sub.val < modeSubs (s.reg .ETH_MODE p) ∧ s.linkUp p sub.val = false ∧ s.reg .CK_STATE 5 = 3 ∧
         s.portsRun = true then
      ∃ t, exec (.linkUp port sub m) s = .next t ∧ Touches Changes.linkUp s t ∧
        t.Holds .iETH_FEC (4 * p + sub.val) (s.fecOf p m) ∧
        t.linkUp p sub.val = true ∧ (∀ k, k ≠ sub.val → t.linkUp p k = s.linkUp p k) ∧
        t.reg .PP_STATE p = (if sub.val = 0 then 1 else s.reg .PP_STATE p) ∧
        OnlyAt s t [.ETH_LINK, .PP_STATE] p ∧
        t.lastEvent = some (Code.linkUp, packBits [(8, p), (8, sub.val)])
    else exec (.linkUp port sub m) s = .next s) ∧
  -- R342. A link that was up is down and LINK_DOWN is raised; the PTP port of sub-port 0 is FAULTY.
  (∀ (port : Fin 2) (sub : Fin 4) (s : State),
    let p := port.val
    ∃ t, exec (.linkDown port sub) s = .next t ∧ Touches Changes.linkDown s t ∧
      t.linkUp p sub.val = false ∧ (∀ k, k ≠ sub.val → t.linkUp p k = s.linkUp p k) ∧ OnlyAt s t [.ETH_LINK] p ∧
      (sub.val = 0 → t.reg .PP_STATE p = 0) ∧
      (s.linkUp p sub.val = true →
        t.lastEvent = some (Code.linkDown, packBits [(8, p), (8, sub.val)])) ∧
      (s.linkUp p sub.val = false → sub.val ≠ 0 → t = s)) ∧
  -- R374. A write of a receive queue's filter takes effect and empties the queue.
  (∀ (acc : Accessor) (q : Fin 64) (p : RqParam) (v : Nat) (s : State), s.Passes acc (rqReg p) q.val v →
    ∃ t, exec (.rqParamWrite acc q p v) s = .next t ∧ Touches Changes.rqParamWrite s t ∧
      (t.status = 0 ∧ t.Holds (rqReg p) q.val v ∧ t.rxBytes q.val = [] ∧ t.reg .RQ_LEVEL q.val = 0 ∧
       (∀ j, j ≠ q.val → t.rxBytes j = s.rxBytes j) ∧ OnlyAt s t [rqReg p, .RQ_LEVEL] q.val ∧
       ∀ r, r ≠ p → t.reg (rqReg r) q.val = s.reg (rqReg r) q.val))

/-- What the source, the steps and the rate of network time, SYNC_IN, and the resynchronisation and rate of a frame
generator do. Each command completes with exactly this effect and leaves all else as it was. -/
def Obligations.Timebase : Prop :=
  -- R356. The source takes the value written; the count and the rate stay. SYNC_IN, newly selected, begins with
  -- its first edge; PTP_STATE is FREE under any other source than PTP.
  (∀ (acc : Accessor) (v : BitVec 8) (s : State), s.Passes acc .TB_SOURCE 0 v.toNat →
    ∃ t, exec (.tbSourceWrite acc v) s = .next t ∧ Touches Changes.tbSourceWrite s t ∧
      t.status = 0 ∧ t.reg .TB_SOURCE 0 = v.toNat ∧
      t.reg .PTP_STATE 0 = (if v.toNat = 0 then s.reg .iSERVO 0 % 2 ^ Reg.PTP_STATE.width else 0) ∧
      if s.reg .TB_SOURCE 0 ≠ v.toNat ∧ v.toNat = 1 then
        t.reg .iSYNC_FIRST 0 = 1 ∧ t.reg .iSYNC_STATE 0 = 0 ∧ t.reg .iSYNC_RUN 0 = 0
      else t.reg .iSYNC_FIRST 0 = s.reg .iSYNC_FIRST 0 ∧ t.reg .iSYNC_STATE 0 = s.reg .iSYNC_STATE 0) ∧
  -- R355, R356. Under FREE network time steps to the value written; another source refuses with TB_BUSY.
  (∀ (acc : Accessor) (time : BitVec 64) (s : State), s.Passes acc .TB_SET 0 time.toNat →
    if s.reg .TB_SOURCE 0 = 2 then
      ∃ t, exec (.tbSet acc time) s = .next t ∧ Touches Changes.tbSet s t ∧
        t.status = 0 ∧ t.tb = time.toNat * 2 ^ 48 ∧ Counted s t .TB_STEPS 0 1
    else exec (.tbSet acc time) s = .next (s.answered acc .TB_SET 0 Code.tbBusy)) ∧
  -- R354, R356. Under FREE the rate takes the value written, held within 500 ppm; another source refuses with
  -- TB_BUSY.
  (∀ (acc : Accessor) (rate : BitVec 32) (s : State), s.Passes acc .TB_ADJ 0 rate.toNat →
    if s.reg .TB_SOURCE 0 = 2 then
      ∃ t, exec (.tbAdj acc rate) s = .next t ∧ Touches Changes.tbAdj s t ∧
        t.status = 0 ∧
        t.regInt .TB_RATE 0 = clampInt (-2048000000) 2048000000 rate.toInt
    else exec (.tbAdj acc rate) s = .next (s.answered acc .TB_ADJ 0 Code.tbBusy)) ∧
  -- R369, R423. The edge is stamped; an armed alignment of the dividers happens and is counted. Under SYNC_IN the
  -- first edge sets the timebase to TB_SYNC_LOAD; a later one more than 100 µs from a whole second is rejected and
  -- counted, and any other drives the discipline. Each accepted edge moves TB_SYNC_LOAD on by a second.
  (∀ (stamp : Nat) (s : State),
    let second := 1000000000 * 65536
    let near : Int := (stamp : Int) - ((stamp + second / 2) / second * second : Nat)
    ∃ t, exec (.syncInEdge stamp) s = .next t ∧ Touches Changes.syncInEdge s t ∧
      t.Holds .TB_SYNC_TIME 0 (stamp / 65536) ∧ t.reg .CK_SYNC_ARM 0 = 0 ∧
      Counted s t .CK_SYNC_COUNT 0 (if s.reg .CK_SYNC_ARM 0 = 0 then 0 else 1) ∧
      if s.reg .TB_SOURCE 0 ≠ 1 then t.tb = s.tb ∧ t.reg .iSYNC_STATE 0 = s.reg .iSYNC_STATE 0
      else if s.reg .iSYNC_FIRST 0 = 1 then
        t.tb = s.stepped (((s.reg .TB_SYNC_LOAD 0 * 65536 : Nat) - (stamp : Int)) * 2 ^ 32) ∧
        t.reg .iSYNC_FIRST 0 = 0 ∧ t.reg .iSYNC_STATE 0 = 1 ∧ Counted s t .TB_SYNC_LOAD 0 1000000000
      else if 100000 * 65536 < near.natAbs then Counted s t .TB_SYNC_REJECT 0 1 ∧ t.tb = s.tb ∧
        t.reg .TB_SYNC_LOAD 0 = s.reg .TB_SYNC_LOAD 0 ∧ t.reg .iSYNC_STATE 0 = s.reg .iSYNC_STATE 0
      else Counted s t .TB_SYNC_LOAD 0 1000000000 ∧ t.tb = s.tb ∧ SlewKept s t ∧ Disciplined s t true near) ∧
  -- R369. 3 s without an accepted edge put a discipline that acquires or is LOCKED into HOLDOVER.
  (∀ (s : State),
    if s.reg .TB_SOURCE 0 = 1 ∧ (s.reg .iSYNC_STATE 0 = 1 ∨ s.reg .iSYNC_STATE 0 = 2) ∧
         s.reg .iSYNC_AT 0 + 3000000000 ≤ s.clock then
      ∃ t, exec .syncInHoldover s = .next t ∧ Touches Changes.syncInHoldover s t ∧
        t.reg .iSYNC_STATE 0 = 3 ∧ t.tb = s.tb
    else exec .syncInHoldover s = .next s) ∧
  -- R211. LAST_RESYNC 1 makes the generator take its frame number from the aligned instant at its next boundary.
  (∀ (acc : Accessor) (g : Gen) (s : State), s.Passes acc .LAST_RESYNC g.val 1 →
    ∃ t, exec (.lastResync acc g) s = .next t ∧
      Touches (regs [.iG_RESYNC, .iACC_STATUS, .iACC_ID] ++ flds [.status]) s t ∧
      t.status = 0 ∧ t.reg .iG_RESYNC g.val = 1 ∧
      (∀ j, g.val ≠ j → t.reg .iG_RESYNC j = s.reg .iG_RESYNC j)) ∧
  -- R214. With no user the rate waits for the generator's next boundary; with two users a write outside a commit
  -- group of both surfaces is refused with LAST_SHARED; LAST_RATE in force never changes at the write.
  (∀ (acc : Accessor) (g : Gen) (rate : BitVec 8) (s : State), s.Passes acc .LAST_RATE g.val rate.toNat →
    let m := s.ownMask .LAST_RATE g.val
    ∃ t, exec (.lastRateWrite acc g rate) s = .next t ∧ Touches Changes.lastRateWrite s t ∧
      (m = 0 → t.status = 0 ∧ t.reg .iG_PENDRATE g.val = rate.toNat) ∧
      (m = 3 → s.stagingGroup (ownerOf acc) = none → t = s.answered acc .LAST_RATE g.val Code.lastShared) ∧
      (m ≠ 0 → t.reg .iG_PENDRATE g.val = s.reg .iG_PENDRATE g.val))

/-- What each PTP message, sent or received, does. Each command completes with exactly this effect and leaves all
else as it was. -/
def Obligations.PtpMessages : Prop :=
  -- R358, R359. An Announce of the domain and transport in force, on a port that runs PTP with its link up, enters
  -- its master in view, and with PTP_ENABLE 1 the best one is followed, if one qualifies; any other changes
  -- nothing.
  (∀ (port : Fin 2) (a : Announce) (s : State),
    let p := port.val
    let m := masterOf s p a
    let view := s.foreign.filter (fun x => !(x.port == p && x.source == m.source)) ++ [m]
    if s.reg .PP_ENABLE p = 0 ∨ s.linkUp p 0 = false ∨ s.ptpTaken a.head = false ∨ 255 ≤ a.steps.toNat then
      exec (.ptpAnnounce port a) s = .next s
    else
      ∃ t, exec (.ptpAnnounce port a) s = .next t ∧ Touches Changes.ptpAnnounce s t ∧
        t.foreign = view ∧ (s.reg .PTP_ENABLE 0 ≠ 0 →
          match ({ s with foreign := view } : State).bestMaster with
          | some b => Follows s t b
          | none => t.reg .PTP_SLAVE_PORT 0 = s.reg .PTP_SLAVE_PORT 0 ∧ t.reg .PTP_GM_ID 0 = s.reg .PTP_GM_ID 0 ∧
            t.reg .iSERVO 0 = s.reg .iSERVO 0)) ∧
  -- R359, R361. Masters of the port not heard for PTP_ANN_TIMEOUT intervals leave the view. Where the clock
  -- followed one of them it follows the best one left; with none left the slave port is none and a LOCKED servo is
  -- in HOLDOVER.
  (∀ (port : Fin 2) (s : State),
    let stale (m : ForeignMaster) := m.port == port.val && s.masterStale m
    let u : State := { s with foreign := s.foreign.filter (fun m => !stale m) }
    ∃ t, exec (.ptpAnnounceTimeout port) s = .next t ∧ Touches Changes.ptpAnnounceTimeout s t ∧
      (t.foreign = u.foreign ∧
       if s.foreign.any (fun m => stale m && s.reg .PTP_SLAVE_PORT 0 == m.port && s.reg .iPTP_SOURCE 0 == m.source) =
           true
       then match u.bestMaster with
         | some b => s.reg .PTP_ENABLE 0 ≠ 0 → Follows s t b
         | none => t.reg .PTP_SLAVE_PORT 0 = 0xFF ∧
           if s.reg .iSERVO 0 = 2 then t.reg .iSERVO 0 = 3 ∧
             t.lastEvent = some (Code.ptpHoldover, packBits [(64, s.reg .PTP_GM_ID 0)])
           else t.reg .iSERVO 0 = s.reg .iSERVO 0
       else t = u)) ∧
  -- R358, R360, R361. A Sync of the master followed, in its domain and transport, gives the offset t2 - t1 -
  -- correction - asymmetry - path delay, which drives the servo: the first one steps the timebase where it exceeds
  -- PTP_STEP_LIMIT, any other slews it within PTP_SLEW_MAX. Any other Sync changes nothing.
  (∀ (port : Fin 2) (h : PtpHead) (source : BitVec 80) (log : BitVec 8) (t1 : Nat) (corr : Int) (t2 : Nat) (s :
      State),
    let p := port.val
    let offset : Int := (t2 : Int) - t1 - corr - s.asym p - s.pathDelay p
    let limit := s.reg .PTP_STEP_LIMIT 0 * 65536
    let first := s.reg .iSERVO 0 = 0 ∨ s.reg .iSERVO 0 = 3 ∨ s.reg .iPTP_FIRST 0 = 1
    if s.ptpTaken h = false ∨ s.syncUsed p source.toNat log.toInt = false then
      exec (.ptpSync port h source log t1 corr t2) s = .next s
    else
      ∃ t, exec (.ptpSync port h source log t1 corr t2) s = .next t ∧ Touches Changes.ptpSync s t ∧
        t.reg .PTP_OFFSET 0 = ofInt Reg.PTP_OFFSET.width offset ∧ t.reg .iPTP_FIRST 0 = 0 ∧
        Disciplined s t false offset ∧
        if s.reg .TB_SOURCE 0 ≠ 0 then t.tb = s.tb
        else if first ∧ limit ≠ 0 ∧ limit < offset.natAbs then t.tb = s.stepped (-(offset * 2 ^ 32))
        else t.tb = s.tb ∧ SlewKept s t) ∧
  -- R346, R358. Delay_Req is sent on the ports whose links are up, with the next sequence number, at the interval
  -- the master states; its time stamp is kept and an answer awaited. Otherwise nothing changes.
  (∀ (t3 : Nat) (s : State),
    let p := s.reg .PTP_SLAVE_PORT 0
    let seq := (s.reg .iPTP_SEQ 0 + 1) % 65536
    if s.reg .PTP_ENABLE 0 = 0 ∨ 1 < p ∨ s.reg .PTP_DELAY_MECH 0 = 1 ∨ s.linkUp p 0 = false ∨
         (s.reg .iPTP_SENT 0 ≠ 0 ∧
           s.clock + 1 < s.reg .iPTP_SENT 0 + logInterval (asInt 8 (s.reg .iPTP_EVERY 0))) then
      exec (.ptpDelayReqSend t3) s = .next s
    else
      ∃ t, exec (.ptpDelayReqSend t3) s = .next t ∧ Touches Changes.ptpDelayReqSend s t ∧
        t.reg .iPTP_SEQ 0 = seq ∧ t.Holds .iPTP_T3 0 t3 ∧ t.reg .iPTP_WAIT 0 = 1 ∧
        t.sent = ((List.range 2).filter (fun q => s.linkUp q 0)).map (fun q => .ptp q 1 seq [])) ∧
  -- R358, R360. The answer awaited gives the mean path delay, half of t2 - t1 + t4 - t3 - corrections. Any other
  -- Delay_Resp changes nothing.
  (∀ (port : Fin 2) (h : PtpHead) (seq : BitVec 16) (t4 : Nat) (corr : Int) (every : BitVec 8) (s : State),
    if s.ptpTaken h = false ∨ s.reg .iPTP_WAIT 0 = 0 ∨ s.reg .PTP_SLAVE_PORT 0 ≠ port.val ∨ seq.toNat ≠ s.reg
        .iPTP_SEQ 0 ∨
         s.reg .PTP_DELAY_MECH 0 = 1 then exec (.ptpDelayResp port h seq t4 corr every) s = .next s
    else
      ∃ t, exec (.ptpDelayResp port h seq t4 corr every) s = .next t ∧
        Touches (regs [.iPTP_EVERY, .PTP_MEAN_DELAY, .iPTP_WAIT]) s t ∧
        t.reg .iPTP_WAIT 0 = 0 ∧ t.reg .iPTP_EVERY 0 = every.toNat ∧
        t.reg .PTP_MEAN_DELAY 0 = ofInt Reg.PTP_MEAN_DELAY.width
          ((s.regInt .iPTP_DIFF 0 + ((t4 : Int) - s.regInt .iPTP_T3 0 - corr)) / 2)) ∧
  -- R365. A Pdelay_Req is sent once a second on a port that takes part in peer delay; otherwise nothing changes.
  (∀ (port : Fin 2) (t1 : Nat) (s : State),
    let p := port.val
    let seq := (s.reg .iPP_SEQ p + 1) % 65536
    if s.peerPort p = false ∨ (s.reg .iPP_SENT p ≠ 0 ∧ s.clock + 1 < s.reg .iPP_SENT p + 1000000000) then
      exec (.pdelayReqSend port t1) s = .next s
    else
      ∃ t, exec (.pdelayReqSend port t1) s = .next t ∧ Touches Changes.pdelayReqSend s t ∧
        t.reg .iPP_SEQ p = seq ∧ t.Holds .iPP_T1 p t1 ∧ t.sent = [.ptp p 2 seq []] ∧
        OnlyAt s t [.iPP_SEQ, .iPP_T1, .iPP_SENT] p) ∧
  -- R365. A Pdelay_Req is answered, with its correction and the time it was held.
  (∀ (port : Fin 2) (h : PtpHead) (seq : BitVec 16) (corr : Int) (t2 t3 : Nat) (s : State),
    if s.peerPort port.val = true ∧ h.transport.val = s.reg .PTP_TRANSPORT 0 then
      ∃ t, exec (.pdelayReq port h seq corr t2 t3) s = .next t ∧
        Touches (flds [.sent, .egress, .waits]) s t ∧
        t.sent = [.ptp port.val 3 seq.toNat [corr + (t3 : Int) - t2]]
    else exec (.pdelayReq port h seq corr t2 t3) s = .next s) ∧
  -- R365. The answer to the port's latest request gives its peer delay, half of t4 - t1 - correction.
  (∀ (port : Fin 2) (h : PtpHead) (seq : BitVec 16) (corr : Int) (t4 : Nat) (s : State),
    let p := port.val
    if s.peerPort p = false ∨ h.transport.val ≠ s.reg .PTP_TRANSPORT 0 ∨ seq.toNat ≠ s.reg .iPP_SEQ p then
      exec (.pdelayResp port h seq corr t4) s = .next s
    else
      ∃ t, exec (.pdelayResp port h seq corr t4) s = .next t ∧ Touches (regs [.PP_PEER_DELAY]) s t ∧
        t.reg .PP_PEER_DELAY p = ofInt Reg.PP_PEER_DELAY.width (((t4 : Int) - s.regInt .iPP_T1 p - corr) / 2) ∧
        OnlyAt s t [.PP_PEER_DELAY] p) ∧
  -- R358. Under profile 0 the SMPTE metadata of the grandmaster is kept; from another clock nothing changes.
  (∀ (h : PtpHead) (gm : BitVec 64) (tlv : List Byte) (s : State),
    if s.ptpTaken h = true ∧ s.reg .PTP_PROFILE 0 = 0 ∧ gm.toNat = s.reg .PTP_GM_ID 0 then
      ∃ t, exec (.ptpManagement h gm tlv) s = .next t ∧ Touches (regs [.PTP_SMPTE]) s t ∧
        t.reg .PTP_SMPTE 0 = leNat (tlv.take 64)
    else exec (.ptpManagement h gm tlv) s = .next s)

/-- What the loss and return of REFCLK, the backup period and the band search of a PLL do. Each command completes
with exactly this effect and leaves all else as it was. -/
def Obligations.ReferenceAndBands : Prop :=
  -- R412, R416. REFCLK is LOST and each PLL is handled as having lost lock: in BYPASS, counted; a loss already
  -- known changes nothing.
  (∀ (s : State),
    if s.reg .CK_REF_STATE 0 = 1 then exec .refclkLoss s = .next s
    else
      ∃ t, exec .refclkLoss s = .next t ∧ Touches Changes.refclkLoss s t ∧
        (t.reg .CK_REF_STATE 0 = 1 ∧ ∀ k, k < 7 → t.reg .CK_STATE k = 0 ∧ Counted s t .CK_UNLOCKS k 1 ∧
         t.reg .iCK_WHY k = 1)) ∧
  -- R412. 1 ms after REFCLK returned it is present and each PLL relocks from BYPASS; otherwise nothing changes.
  (∀ (s : State),
    if s.reg .CK_REF_STATE 0 = 1 ∧ s.reg .iCK_WIN 0 + 1000000 ≤ s.clock then
      ∃ t, exec .refclkReturn s = .next t ∧ Touches Changes.refclkReturn s t ∧
        (t.reg .CK_REF_STATE 0 = 0 ∧ ∀ k, k < 7 → t.reg .CK_STATE k = 0 ∧ t.Holds .iCK_START k s.clock ∧
           t.reg .CK_UNLOCKS k = s.reg .CK_UNLOCKS k)
    else exec .refclkReturn s = .next s) ∧
  -- R412. While REFCLK is present each window of 1 ms gives CK_BACKUP_PERIOD; otherwise nothing changes.
  (∀ (period : BitVec 32) (s : State),
    if s.reg .CK_REF_STATE 0 = 0 ∧ s.reg .iCK_WIN 0 + 1000000 ≤ s.clock then
      ∃ t, exec (.backupPeriodMeasure period) s = .next t ∧
        Touches (regs [.iCK_WIN, .CK_BACKUP_PERIOD]) s t ∧
        t.Holds .CK_BACKUP_PERIOD 0 period.toNat ∧ t.Holds .iCK_WIN 0 s.clock
    else exec (.backupPeriodMeasure period) s = .next s) ∧
  -- R413, R414. 1,024 ns after it came to BYPASS, with REFCLK present (and, in SHUTDOWN, for PLL-NT only), the PLL
  -- searches from its seed; otherwise nothing changes.
  (∀ (k : Fin 7) (s : State),
    let p := k.val
    if s.reg .CK_STATE p = 0 ∧ s.reg .CK_REF_STATE 0 = 0 ∧ (s.reg .iPHASE 0 ≠ 4 ∨ p = 5) ∧ 1024 ≤ s.pllAge p then
      ∃ t, exec (.vcoSettled k) s = .next t ∧ Touches (regs [.iCK_SEED, .iCK_SINCE, .CK_STATE]) s t ∧
        t.reg .CK_STATE p = 1 ∧ t.reg .iCK_SEED p % 64 = (s.seedOf p).1 ∧ t.Holds .iCK_SINCE p s.clock ∧
        OnlyAt s t [.CK_STATE, .iCK_SEED, .iCK_SINCE] p
    else exec (.vcoSettled k) s = .next s) ∧
  -- R414. The search ends with the band chosen from the counts, and the PLL acquires; where no band qualifies it
  -- FAILED.
  (∀ (k : Fin 7) (counts : List Nat) (s : State),
    let p := k.val
    if s.reg .CK_STATE p ≠ 1 then exec (.bandSearchDone k counts) s = .next s
    else
      ∃ t, exec (.bandSearchDone k counts) s = .next t ∧ Touches Changes.bandSearchDone s t ∧
        OnlyAt s t [.CK_STATE, .CK_BAND, .CK_BAND_TABLE, .iCK_FAILS] p ∧
        match s.chosenBand p (s.reg .iCK_SEED p % 64) counts with
        | none => t.reg .CK_STATE p = 4 ∧ t.reg .iCK_FAILS p = min 255 (s.reg .iCK_FAILS p + 1) ∧
          t.reg .CK_BAND p = s.reg .CK_BAND p
        | some b => t.reg .CK_STATE p = 2 ∧ t.Holds .CK_BAND p b ∧ t.Holds .iCK_N p (s.reg .CK_LOCK_N p))

/-- What lock, failure, unlock, margin, relock, spread and alignment do. Each command completes with exactly this
effect and leaves all else as it was. -/
def Obligations.PllLock : Prop :=
  -- R413, R415, R421. CK_LOCK_N reference cycles into ACQUIRE the PLL is LOCKED: its lock time is shown, the time
  -- its domain ran on the bypass clock counted, and the failures are forgotten.
  (∀ (k : Fin 7) (s : State),
    let p := k.val
    if s.reg .CK_STATE p = 2 ∧ 64 * s.reg .iCK_N p ≤ 10 * s.pllAge p then
      ∃ t, exec (.pllLocked k) s = .next t ∧ Touches Changes.pllLocked s t ∧
        t.reg .CK_STATE p = 3 ∧ t.Holds .CK_LOCK_TIME p (s.clock - s.reg .iCK_START p) ∧
        Counted s t .CK_BYPASS_NS p (s.clock - s.reg .iCK_OUT p) ∧ t.reg .iCK_FAILS p = 0 ∧
        OnlyAt s t [.CK_STATE, .CK_LOCK_TIME, .CK_BYPASS_NS, .iCK_FAILS] p ∧
        (p = 0 → t.reg .CK_THROTTLE_REQ 0 = 0) ∧
        (p = 2 → s.reg .iCK_WHY p ≠ 0 → t.reg .iHB_HELD 0 = 0xFFFFFFFF) ∧
        (s.reg .iCK_WHY p = 1 → (p = 0 ∨ p = 2 ∨ p = 5 ∨ p = 6) →
          t.lastEvent = some (Code.pllLocked, packBits [(8, p)]))
    else exec (.pllLocked k) s = .next s) ∧
  -- R413. 100 µs in ACQUIRE without lock the PLL FAILED; otherwise nothing changes.
  (∀ (k : Fin 7) (s : State),
    if s.reg .CK_STATE k.val = 2 ∧ 100000 ≤ s.pllAge k.val then
      ∃ t, exec (.acquireTimeout k) s = .next t ∧ Touches (regs [.iCK_FAILS, .iCK_SINCE, .CK_STATE]) s t ∧
        t.reg .CK_STATE k.val = 4 ∧ t.reg .iCK_FAILS k.val = min 255 (s.reg .iCK_FAILS k.val + 1) ∧
        OnlyAt s t [.CK_STATE, .iCK_FAILS] k.val
    else exec (.acquireTimeout k) s = .next s) ∧
  -- R413. A FAILED PLL tries again from BYPASS after 1 ms, after 8 failures in a row after 100 ms.
  (∀ (k : Fin 7) (s : State),
    if s.reg .CK_STATE k.val = 4 ∧ (if 8 ≤ s.reg .iCK_FAILS k.val then 100000000 else 1000000) ≤ s.pllAge k.val then
      ∃ t, exec (.pllRetry k) s = .next t ∧ Touches Changes.pllRetry s t ∧
        t.reg .CK_STATE k.val = 0 ∧ t.reg .iCK_FAILS k.val = s.reg .iCK_FAILS k.val ∧ OnlyAt s t [.CK_STATE] k.val
    else exec (.pllRetry k) s = .next s) ∧
  -- R416, R421, R422. A LOCKED PLL that loses lock is in BYPASS, counted, and its domains follow; one in its
  -- sequence restarts it, and a FAILED one stays.
  (∀ (k : Fin 7) (s : State),
    let p := k.val
    if s.reg .CK_STATE p = 4 then exec (.pllUnlock k) s = .next s
    else
      ∃ t, exec (.pllUnlock k) s = .next t ∧ Touches Changes.pllUnlock s t ∧
        t.reg .CK_STATE p = 0 ∧ OnlyAt s t [.CK_STATE, .CK_UNLOCKS] p ∧
        if s.reg .CK_STATE p = 3 then Counted s t .CK_UNLOCKS p 1 ∧ t.reg .iCK_WHY p = 1 ∧
          (p = 0 → t.reg .CK_THROTTLE_REQ 0 = 1)
        else t.reg .CK_UNLOCKS p = s.reg .CK_UNLOCKS p) ∧
  -- R417 to R419. The margin takes the value, and the PLLs other than the two Welt PLLs and NT relock from BYPASS;
  -- where the table of R419 does not allow it the write is refused with PLL_BUSY.
  (∀ (acc : Accessor) (k : Fin 7) (v : BitVec 32) (s : State), s.Passes acc .CK_MARGIN k.val v.toNat →
    let p := k.val
    if s.pllBusy p false = true then
      exec (.ckMarginWrite acc k v) s = .next (s.answered acc .CK_MARGIN p Code.pllBusy)
    else
      ∃ t, exec (.ckMarginWrite acc k v) s = .next t ∧ Touches Changes.ckMarginWrite s t ∧
        (t.status = 0 ∧ t.Holds .CK_MARGIN p v.toNat ∧ OnlyAt s t [.CK_MARGIN, .CK_STATE] p ∧
         t.reg .CK_STATE p = if p = 3 ∨ p = 4 ∨ p = 5 then s.reg .CK_STATE p else 0)) ∧
  -- R417, R419. The PLL relocks from BYPASS, or the write is refused with PLL_BUSY.
  (∀ (acc : Accessor) (k : Fin 7) (s : State), s.Passes acc .CK_RELOCK k.val 1 →
    if s.pllBusy k.val true = true then
      exec (.ckRelock acc k) s = .next (s.answered acc .CK_RELOCK k.val Code.pllBusy)
    else
      ∃ t, exec (.ckRelock acc k) s = .next t ∧ Touches Changes.ckRelock s t ∧
        t.status = 0 ∧ t.reg .CK_STATE k.val = 0 ∧ t.reg .CK_UNLOCKS k.val = s.reg .CK_UNLOCKS k.val ∧
        OnlyAt s t [.CK_STATE] k.val) ∧
  -- R420. 1 ms after it began the ramp of the spread has ended.
  (∀ (k : Fin 2) (s : State),
    if s.reg .iSSC_RAMP k.val = 1 ∧ s.reg .iSSC_AT k.val + 1000000 ≤ s.clock then
      ∃ t, exec (.sscRampEnd k) s = .next t ∧ Touches (regs [.iSSC_RAMP]) s t ∧
        t.reg .iSSC_RAMP k.val = 0 ∧ OnlyAt s t [.iSSC_RAMP] k.val
    else exec (.sscRampEnd k) s = .next s) ∧
  -- R420. 1 ms after the lock that follows an interrupted ramp, the ramp begins again.
  (∀ (k : Fin 2) (s : State),
    if s.reg .iSSC_WAIT k.val = 1 ∧ s.reg .CK_STATE k.val = 3 ∧ 1000000 ≤ s.pllAge k.val then
      ∃ t, exec (.sscRelockRamp k) s = .next t ∧ Touches (regs [.iSSC_WAIT, .iSSC_AT, .iSSC_RAMP]) s t ∧
        t.reg .iSSC_RAMP k.val = 1 ∧ t.reg .iSSC_WAIT k.val = 0 ∧ t.Holds .iSSC_AT k.val s.clock ∧
        OnlyAt s t [.iSSC_RAMP, .iSSC_WAIT, .iSSC_AT] k.val
    else exec (.sscRelockRamp k) s = .next s) ∧
  -- R423. The alignment of the dividers is armed for the next edge of SYNC_IN.
  (∀ (acc : Accessor) (s : State), s.Passes acc .CK_SYNC_ARM 0 1 →
    ∃ t, exec (.ckSyncArm acc) s = .next t ∧ Touches Changes.ckSyncArm s t ∧
      t.status = 0 ∧ t.reg .CK_SYNC_ARM 0 = 1)

/-- What a thermal sample, the grace period, the stages, the shutdown thresholds and the hardware shutdown do. Each
command completes with exactly this effect and leaves all else as it was. -/
def Obligations.ThermalControl : Prop :=
  -- R432, R434, R435, R439, R440, R442 to R444. A sample shows each sensor's reading and the power of the rails,
  -- and TH_JUNCTION is the highest die reading. Two readings at or above TH_SHUT trip a comparator. While the
  -- firmware is not stopped by a shutdown, the warning, the panel warnings and the gates take one sample each, and
  -- the gates follow.
  (∀ (die : List (BitVec 16)) (diodes : List (Nat × Nat)) (rails : List (BitVec 16)) (s : State),
    let ps := (List.range 9).map (fun k => (rails.getD k 0).toNat)
    ∃ t, exec (.thermalSample die diodes rails) s = .next t ∧ Touches Changes.thermalSample s t ∧
      let w := t.warnMargins.map Prod.snd
      (∀ n v, n < 24 → die[n]? = some v → t.reg .TS_TEMP n = v.toNat ∧ t.reg .TS_VALID n = 1 ∧
        t.regInt .TS_MAX n = max (s.regInt .TS_MAX n) v.toInt) ∧
      (∀ k, k < 2 → t.reg .TS_TEMP (24 + k) = s.reg .CH_TEMP (16 * k)) ∧
      t.junction = highest t.dieTemps ∧
      t.Holds .PW_MEASURED 0 (packRecords 2 ps) ∧ t.Holds .PW_TOTAL 0 ps.sum ∧
      (∀ n, n < 24 → t.reg .iCMP_RUN n =
        if asInt 16 (s.reg .iCMP_SHUT 0) ≤ t.regInt .TS_TEMP n then min 2 (s.reg .iCMP_RUN n + 1) else 0) ∧
      t.reg .iCMP_TRIP 0 = (if (List.range 24).any (fun n => t.reg .iCMP_RUN n == 2) = true ∧
        s.reg .iCMP_TRIP 0 = 0 then 1 else s.reg .iCMP_TRIP 0) ∧
      if s.reg .iPHASE 0 = 4 then
        (∀ c, t.reg .iTHR c = s.reg .iTHR c) ∧ t.reg .TH_STATE 0 = s.reg .TH_STATE 0 ∧
        t.reg .TH_KEEPER_GATE 0 = s.reg .TH_KEEPER_GATE 0 ∧ t.reg .TH_GLASS_GATE 0 = s.reg .TH_GLASS_GATE 0
      else
        Recognised s t 0 (w.any (fun m => decide (0 ≤ m))) (w.all (fun m => decide (m < -48))) ∧
        (∀ surf, surf < 2 → Recognised s t (1 + surf) (decide (s.regInt .TP_WARN surf ≤ s.regInt .TP_TEMP surf))
          (decide (s.regInt .TP_TEMP surf < s.regInt .TP_WARN surf - 48))) ∧
        Recognised s t 3 (decide (1520 < t.junction)) (decide (t.junction ≤ 1472)) ∧
        Recognised s t 4 (decide (lowest t.dieTemps < -320)) (decide (-272 ≤ lowest t.dieTemps)) ∧
        WarningTurns s t ∧
        t.reg .TH_KEEPER_GATE 0 = (if t.reg .iTHR 3 = 1 then 2 else if t.reg .iTHR 4 = 1 then 1 else 0) ∧
        t.reg .TH_GLASS_GATE 0 = (if t.reg .TS_VALID t.glassPair = 0 then 3
          else if t.reg .iTHR 5 = 1 then 2 else if t.reg .iTHR 6 = 1 then 1 else 0)) ∧
  -- R437. TH_GRACE after the timer started the stage due moves by one: up, to TH_STAGE_MAX at most, while the
  -- warning stands, and down in recovery, which ends at stage 0. Otherwise nothing changes.
  (∀ (s : State),
    let st := s.reg .TH_STATE 0
    let due := s.reg .TH_STAGE_DUE 0
    if st = 0 ∨ s.reg .iPHASE 0 = 4 ∨ s.clock < s.reg .iTH_TIMER 0 + s.reg .TH_GRACE 0 * 1000000 then
      exec .thermalGraceExpire s = .next s
    else
      ∃ t, exec .thermalGraceExpire s = .next t ∧
        Touches (regs [.iTH_TIMER, .TH_STAGE_DUE, .TH_STATE]) s t ∧
        t.Holds .iTH_TIMER 0 s.clock ∧
        if st = 3 then t.reg .TH_STAGE_DUE 0 = due - 1 ∧ t.reg .TH_STATE 0 = (if due ≤ 1 then 0 else 3)
        else t.reg .TH_STATE 0 = 2 ∧ t.reg .TH_STAGE_DUE 0 = min (due + 1) (s.reg .TH_STAGE_MAX 0)) ∧
  -- R437. TH_STAGE_MAX takes the value; a stage due above it falls to it, and recovery ends at stage 0.
  (∀ (acc : Accessor) (v : BitVec 8) (s : State), s.Passes acc .TH_STAGE_MAX 0 v.toNat →
    ∃ t, exec (.thStageMaxWrite acc v) s = .next t ∧ Touches Changes.thStageMaxWrite s t ∧
      t.status = 0 ∧ t.reg .TH_STAGE_MAX 0 = v.toNat ∧
      t.reg .TH_STAGE_DUE 0 = min v.toNat (s.reg .TH_STAGE_DUE 0) ∧
      t.reg .TH_STATE 0 = if v.toNat = 0 ∧ 0 < s.reg .TH_STAGE_DUE 0 ∧ s.reg .TH_STATE 0 = 3 then 0
        else s.reg .TH_STATE 0) ∧
  -- R439, R441. TH_SHUT or TH_RESTART takes the value and the comparators load it; the other keeps its value.
  (∀ (acc : Accessor) (restart : Bool) (v : BitVec 16) (s : State), s.Passes acc (if restart then .TH_RESTART
      else .TH_SHUT) 0 v.toNat →
    ∃ t, exec (.thShutWrite acc restart v) s = .next t ∧ Touches Changes.thShutWrite s t ∧
      t.status = 0 ∧
      t.reg .TH_RESTART 0 = (if restart then v.toNat else s.reg .TH_RESTART 0) ∧
      t.reg .iCMP_RESTART 0 = (if restart then v.toNat else s.reg .iCMP_RESTART 0) ∧
      t.reg .TH_SHUT 0 = (if restart then s.reg .TH_SHUT 0 else v.toNat) ∧
      t.reg .iCMP_SHUT 0 = if restart then s.reg .iCMP_SHUT 0 else v.toNat) ∧
  -- R439. A tripped comparator idles every lane, puts every PLL but NT on its bypass clock and stops the firmware;
  -- otherwise nothing changes.
  (∀ (s : State),
    if s.reg .iCMP_TRIP 0 = 0 ∨ s.reg .iPHASE 0 = 4 then exec .hardwareShutdown s = .next s
    else
      ∃ t, exec .hardwareShutdown s = .next t ∧ Touches Changes.hardwareShutdown s t ∧
        t.reg .iPHASE 0 = 4 ∧ t.reg .iG_RUN 0 = 0 ∧ t.reg .CK_THROTTLE_REQ 0 = 1 ∧
        (∀ j, j < 168 → t.reg .WL_LANE_STATE j = laneIdle) ∧
        (∀ k, k < 7 → k ≠ 5 → t.reg .CK_STATE k = 0) ∧ t.reg .CK_STATE 5 = s.reg .CK_STATE 5)

/-- What an update of the Insole, its image, its enable and PWR_FAIL_N do. Each command completes with exactly this
effect and leaves all else as it was. -/
def Obligations.InsoleDisplay : Prop :=
  -- R466, R468 to R470. An update that is due, with the Insole enabled and power good, is HELD while the glass
  -- gate is closed or its diode pair invalid (INSOLE_HELD is raised once), waits for its grant, or with it starts:
  -- two passes where what is shown is unknown. Otherwise, and in a hardware shutdown, nothing changes (R439).
  (∀ (s : State),
    let st := s.reg .INS_STATE 0
    let pair := s.glassPair
    let b := insoleBand (s.regInt .TS_TEMP pair)
    if s.insoleDue = false ∨ s.reg .INS_ENABLE 0 = 0 ∨ st = 3 ∨ s.reg .iPWR_FAIL 0 = 1 ∨ s.reg .iPHASE 0 = 4 then
      exec .insoleUpdateStart s = .next s
    else if s.glassOpen = false then
      ∃ t, exec .insoleUpdateStart s = .next t ∧ Touches Changes.insoleUpdateStart s t ∧
        t.reg .INS_STATE 0 = 1 ∧ t.waiting .insole = false ∧
        if st = 1 then t.reg .EV_COUNT 0 = s.reg .EV_COUNT 0
        else t.lastEvent = some (Code.insoleHeld, packBits [(16, s.reg .TS_TEMP pair)])
    else if s.granted .insole = true then
      ∃ t, exec .insoleUpdateStart s = .next t ∧ Touches Changes.insoleUpdateStart s t ∧
        t.reg .INS_STATE 0 = 3 ∧ t.reg .INS_BAND 0 = b ∧ t.Holds .iINS_NEW 0 (s.reg .INS_IMAGE 0) ∧
        t.Holds .iINS_OLD 0 (s.reg .INS_SHOWN 0) ∧ t.Holds .iINS_N 0 (s.reg .INS_WAVE_N b) ∧
        t.Holds .iINS_WAVE 0 (s.reg .INS_WAVE b) ∧ t.reg .iINS_NEXT 0 = 0 ∧
        t.reg .iINS_PASSES 0 = if s.reg .INS_KNOWN 0 = 1 then 1 else 2
    else
      ∃ t, exec .insoleUpdateStart s = .next t ∧ Touches Changes.insoleUpdateStart s t ∧
        t.reg .INS_STATE 0 = 2 ∧ (t.granted .insole = true ∨ t.waiting .insole = true)) ∧
  -- R465, R467. The next frame of a running update drives the electrodes with the levels of its waveform; a
  -- stopped or finished one drives none.
  (∀ (s : State),
    let f := s.reg .iINS_NEXT 0
    if s.reg .INS_STATE 0 = 3 ∧ f < s.reg .iINS_N 0 * s.reg .iINS_PASSES 0 ∧ s.reg .iINS_STOP 0 = 0 then
      ∃ t, exec .insoleFrame s = .next t ∧
        Touches (regs [.iINS_ELEC, .iINS_NEXT, .INS_FRAME] ++ flds [.sent]) s t ∧
        t.sent = [.insole (s.frameLevels f)] ∧ t.Holds .INS_FRAME 0 f ∧ t.Holds .iINS_NEXT 0 (f + 1)
    else exec .insoleFrame s = .next s) ∧
  -- R469, R470, R472. After the last frame the new image is shown, known and counted, the grant returned, and the
  -- Insole idle, or DISABLED where it drains. A stopped update is discharged and DISABLED. Before its end nothing
  -- changes.
  (∀ (s : State),
    if s.reg .INS_STATE 0 ≠ 3 then exec .insoleUpdateEnd s = .next s
    else if s.reg .iINS_STOP 0 = 1 then
      ∃ t, exec .insoleUpdateEnd s = .next t ∧ Touches Changes.insoleUpdateEnd s t ∧
        t.reg .INS_STATE 0 = 5 ∧ t.reg .INS_KNOWN 0 = 0 ∧ Counted s t .INS_DISCHARGES 0 1 ∧
        Reported s t .INS_ENABLE 0 1 ∧ t.grants = s.grants.erase .insole
    else if s.reg .iINS_NEXT 0 < s.reg .iINS_N 0 * s.reg .iINS_PASSES 0 then exec .insoleUpdateEnd s = .next s
    else
      ∃ t, exec .insoleUpdateEnd s = .next t ∧ Touches Changes.insoleUpdateEnd s t ∧
        t.Holds .INS_SHOWN 0 (s.reg .iINS_NEW 0) ∧ t.reg .INS_KNOWN 0 = 1 ∧ Counted s t .INS_UPDATES 0 1 ∧
        t.grants = s.grants.erase .insole ∧
        if s.reg .INS_ENABLE 0 = 0 then t.reg .INS_STATE 0 = 5 ∧ Reported s t .INS_ENABLE 0 0
        else t.reg .INS_STATE 0 = 0) ∧
  -- R468, R469. The pending image changes; a held or waiting update that is no longer due is withdrawn.
  (∀ (acc : Accessor) (image : BitVec 192) (s : State), s.Passes acc .INS_IMAGE 0 image.toNat →
    ∃ t, exec (.insoleImageWrite acc image) s = .next t ∧ Touches Changes.insoleImageWrite s t ∧
      t.status = 0 ∧ t.reg .INS_IMAGE 0 = image.toNat ∧
      if (s.reg .INS_STATE 0 = 1 ∨ s.reg .INS_STATE 0 = 2) ∧ image.toNat = s.reg .INS_SHOWN 0 ∧
          s.reg .INS_KNOWN 0 ≠ 0 then t.reg .INS_STATE 0 = 0 ∧ t.waiting .insole = false
      else t.reg .INS_STATE 0 = s.reg .INS_STATE 0 ∧ t.grants = s.grants) ∧
  -- R471. PWR_FAIL_N low discharges the electrodes: what is shown is unknown and the Insole is stopped; a drain
  -- under way ends.
  (∀ (s : State),
    if s.reg .iPWR_FAIL 0 = 1 then exec .pwrFailLow s = .next s
    else
      ∃ t, exec .pwrFailLow s = .next t ∧ Touches Changes.pwrFailLow s t ∧
        t.reg .iPWR_FAIL 0 = 1 ∧ t.reg .INS_STATE 0 = 4 ∧ t.reg .INS_KNOWN 0 = 0 ∧
        Counted s t .INS_DISCHARGES 0 1 ∧ t.grants = s.grants.erase .insole ∧
        (s.reg .INS_STATE 0 = 3 → s.reg .INS_ENABLE 0 = 0 → Reported s t .INS_ENABLE 0 1)) ∧
  -- R471. PWR_FAIL_N high again: the Insole is idle, or DISABLED.
  (∀ (s : State),
    if s.reg .iPWR_FAIL 0 = 0 then exec .pwrFailHigh s = .next s
    else
      ∃ t, exec .pwrFailHigh s = .next t ∧
        Touches (regs [.iINS_ELEC, .iPWR_FAIL, .INS_STATE, .INS_ENABLE]) s t ∧
        t.reg .iPWR_FAIL 0 = 0 ∧ t.reg .INS_STATE 0 = if s.reg .INS_ENABLE 0 = 0 then 5 else 0) ∧
  -- R405, R472. INS_ENABLE 0: an update under way goes on, to be stopped at its frame under ABANDON; otherwise the
  -- Insole is DISABLED and reported.
  (∀ (acc : Accessor) (s : State), s.Passes acc .INS_ENABLE 0 0 →
    let st := s.reg .INS_STATE 0
    ∃ t, exec (.insEnableDisable acc) s = .next t ∧ Touches Changes.insEnableDisable s t ∧
      t.status = 0 ∧ t.reg .INS_ENABLE 0 = 0 ∧
      if s.reg .INS_ENABLE 0 = 0 then t.reg .INS_STATE 0 = st
      else if st = 3 then t.reg .INS_STATE 0 = 3 ∧
        t.reg .iINS_STOP 0 = if s.reg .INS_DRAIN 0 = 1 then 1 else s.reg .iINS_STOP 0
      else t.reg .INS_STATE 0 = (if st = 4 then 4 else 5) ∧ Reported s t .INS_ENABLE 0 0 ∧
        t.waiting .insole = false) ∧
  -- R405, R472. INS_ENABLE 1: the Insole is enabled; while it drains the write is refused with FUNC_DRAINING.
  (∀ (acc : Accessor) (s : State), s.Passes acc .INS_ENABLE 0 1 →
    if s.reg .INS_ENABLE 0 = 0 ∧ s.reg .INS_STATE 0 = 3 then
      exec (.insEnableResume acc) s = .next (s.answered acc .INS_ENABLE 0 Code.funcDraining)
    else
      ∃ t, exec (.insEnableResume acc) s = .next t ∧ Touches Changes.insEnableResume s t ∧
        t.status = 0 ∧ t.reg .INS_ENABLE 0 = 1 ∧
        t.reg .INS_STATE 0 = if s.reg .INS_STATE 0 = 5 then 0 else s.reg .INS_STATE 0)

/-- What a sample of a loop and the seam writes do. Each command completes with exactly this effect and leaves all
else as it was. -/
def Obligations.SeamLoops : Prop :=
  -- R473 to R475. Each enabled loop with a resistance in the list has one sample; a loop that opens under DARK
  -- with SM_LATCH 1 latches, and the seam cause of the surface follows.
  (∀ (surf : Surface) (ohms : List Nat) (s : State),
    let k := surf.val
    ∃ t, exec (.seamLoopSample surf ohms) s = .next t ∧ Touches Changes.seamLoopSample s t ∧
      (∀ n, n < 4 → match ohms[n]? with
        | none => t.loopState k n = s.loopState k n
        | some v => if bit (s.reg .SM_ENABLE k) n = true then LoopSampled s t k n v
          else t.loopState k n = s.loopState k n) ∧
      t.reg .SM_LATCHED k = (if s.reg .SM_POLICY k = 1 ∧ s.reg .SM_LATCH k = 1 ∧
        (List.range 4).any (fun n => t.loopState k n == 2 && s.loopState k n != 2) = true then 1
        else s.reg .SM_LATCHED k) ∧
      bit (t.reg .SO_FORCED k) 0 = t.seamCause k ∧ OnlyAt s t [.SM_STATE, .SM_OHMS, .SM_LATCHED, .SO_FORCED] k) ∧
  -- R475. The latch is cleared where every enabled loop is CLOSED, and the seam cause follows; otherwise the write
  -- changes nothing.
  (∀ (acc : Accessor) (surf : Surface) (s : State), s.Passes acc .SM_CLEAR surf.val 1 →
    let k := surf.val
    if (setBits 4 (s.reg .SM_ENABLE k)).all (fun n => s.loopState k n == 1) = true then
      ∃ t, exec (.smClear acc surf) s = .next t ∧ Touches Changes.smClear s t ∧
        t.status = 0 ∧ t.reg .SM_LATCHED k = 0 ∧ bit (t.reg .SO_FORCED k) 0 = t.seamCause k ∧
        OnlyAt s t [.SM_LATCHED, .SO_FORCED] k
    else exec (.smClear acc surf) s = .next (s.answered acc .SM_CLEAR k 0)) ∧
  -- R475, R476. The policy takes the value: NOTIFY clears the latch, DARK with SM_LATCH 1 sets it where a loop is
  -- OPEN; the seam cause follows.
  (∀ (acc : Accessor) (surf : Surface) (v : BitVec 8) (s : State), s.Passes acc .SM_POLICY surf.val v.toNat →
    let k := surf.val
    let opened := (setBits 4 (s.reg .SM_ENABLE k)).any (fun n => s.loopState k n == 2)
    ∃ t, exec (.smPolicyWrite acc surf v) s = .next t ∧ Touches Changes.smPolicyWrite s t ∧
      t.status = 0 ∧ t.reg .SM_POLICY k = v.toNat ∧
      t.reg .SM_LATCHED k = (if v.toNat = 0 then 0 else if opened = true ∧ s.reg .SM_LATCH k = 1 then 1
        else s.reg .SM_LATCHED k) ∧
      bit (t.reg .SO_FORCED k) 0 = t.seamCause k ∧ OnlyAt s t [.SM_POLICY, .SM_LATCHED, .SO_FORCED] k) ∧
  -- R474 to R476. The enables take the value; a loop that is not enabled, or newly enabled, is UNKNOWN; the seam
  -- cause follows.
  (∀ (acc : Accessor) (surf : Surface) (v : BitVec 8) (s : State), s.Passes acc .SM_ENABLE surf.val v.toNat →
    let k := surf.val
    ∃ t, exec (.smEnableWrite acc surf v) s = .next t ∧ Touches Changes.smEnableWrite s t ∧
      t.status = 0 ∧ t.reg .SM_ENABLE k = v.toNat ∧
      (∀ n, n < 4 → t.loopState k n =
        if bit (s.reg .SM_ENABLE k) n = true ∧ bit v.toNat n = true then s.loopState k n else 0) ∧
      bit (t.reg .SO_FORCED k) 0 = t.seamCause k ∧ OnlyAt s t [.SM_ENABLE, .SM_STATE, .SO_FORCED] k)

/-- What page writes, scrubbing, KEEP records, votes of tri-word copies do. Each command completes with exactly this
effect and leaves all else as it was. -/
def Obligations.KeeperPagesAndRecords : Prop :=
  -- R450, R451, R442. A bank with nothing queued, a write under way, a power failure or (for the firmware's own
  -- writes) a firmware that is not RUNNING leaves everything. A write that block protect, the gate, the system
  -- area or the pool refuses is not written: its bank stays idle, its grant is given back, and no byte of the
  -- Keeper changes. One allowed starts once its grant is given: its bank is busy and KP_WRITES counts it; until
  -- then it waits for the grant. While the laces are stopped, none of theirs starts (R324, R439).
  (∀ (bank : Fin 4) (s : State),
    let k := bank.val
    match s.bankHead k with
    | none => exec (.keeperWriteStart bank) s = .next s
    | some w =>
      if bit (s.reg .KP_BUSY 0) k = true ∨ s.reg .iPWR_FAIL 0 = 1 ∨ (w.firmware = true ∧ s.reg .iPHASE 0 ≠ 1) ∨
           (w.firmware = false ∧ s.lacesRun = false) then exec (.keeperWriteStart bank) s = .next s
      else if s.pageAllowed w = false then
        ∃ t, exec (.keeperWriteStart bank) s = .next t ∧ Touches Changes.keeperWriteStart s t ∧
          Counted s t .KP_REFUSED 0 1 ∧ t.reg .KP_BUSY 0 = s.reg .KP_BUSY 0 ∧ t.keeperBusy = s.keeperBusy ∧
          t.grants = s.grants.erase (.keeperWrite k) ∧ t.reg .KP_WRITES 0 = s.reg .KP_WRITES 0
      else if s.granted (.keeperWrite k) = true then
        ∃ t, exec (.keeperWriteStart bank) s = .next t ∧ Touches Changes.keeperWriteStart s t ∧
          t.keeperQueue = s.keeperQueue.erase w ∧ t.keeperBusy = s.keeperBusy ++ [w] ∧
          t.Holds .KP_BUSY 0 (setBit (s.reg .KP_BUSY 0) (keeperBank w.page) true) ∧ Counted s t .KP_WRITES 0 1 ∧
          t.reg .KP_REFUSED 0 = s.reg .KP_REFUSED 0
      else
        ∃ t, exec (.keeperWriteStart bank) s = .next t ∧ Touches Changes.keeperWriteStart s t ∧
          t.waiting (.keeperWrite k) = true ∧ t.keeperQueue = s.keeperQueue ∧ t.keeperBusy = s.keeperBusy) ∧
  -- R450, R456, R460. The page write of a bank ends: the bank is free and its grant is given back. The page holds
  -- the data of a lace, a record part or a repair, and is good again, with no other byte changed; a tri-word copy
  -- holds its value, and in a write of all three the next follows.
  (∀ (bank : Fin 4) (s : State),
    let k := bank.val
    match s.keeperBusy.find? (fun w => keeperBank w.page == k) with
    | none => exec (.keeperWriteDone bank) s = .next s
    | some w =>
      ∃ t, exec (.keeperWriteDone bank) s = .next t ∧ Touches Changes.keeperWriteDone s t ∧
        t.keeperBusy = s.keeperBusy.erase w ∧ t.Holds .KP_BUSY 0 (setBit (s.reg .KP_BUSY 0) k false) ∧
        t.grants = s.grants.erase (.keeperWrite k) ∧
        match w.by_ with
        | .tri word value copy => t.Holds .iTRI (triIx copy word) value ∧ OnlyAt s t [.iTRI] (triIx copy word) ∧
            KeeperStored s t 0 [] ∧ (copy < 2 → ∃ p ∈ t.keeperQueue, p.by_ = .tri word value (copy + 1))
        | .triFix word value copy => t.Holds .iTRI (triIx copy word) value ∧ OnlyAt s t [.iTRI] (triIx copy word) ∧
            KeeperStored s t 0 []
        | _ => KeeperStored s t (256 * w.page) w.data ∧ t.keeperBad = s.keeperBad.filter (fun g => g / 16 ≠ w.page) ∧
            ∀ i, t.reg .iTRI i = s.reg .iTRI i) ∧
  -- R297, R300, R458. The Keeper scrubber, while enabled or draining, reads one page and moves to the next, after
  -- the last to the first. Of a page not being written, every group with an error is counted, an uncorrectable one
  -- entered as bad; a page with only correctable errors is rewritten in place unless block protect or the vote
  -- looks after it. While it drains it is then OFF.
  (∀ (found : List (Fin 16 × Finding)) (s : State),
    let page := s.reg .SC_POSITION 3
    let bad := (found.filter (fun e => e.2 == .uncorrectable)).length
    let good := (found.filter (fun e => e.2 == .correctable)).length
    if s.reg .SC_ENABLE 3 = 0 ∧ s.reg .SC_STATE 3 ≠ 4 then exec (.keeperScrub found) s = .next s
    else
      ∃ t, exec (.keeperScrub found) s = .next t ∧ Touches Changes.keeperScrub s t ∧
        t.reg .SC_POSITION 3 = (if 2047 ≤ page then 0 else page + 1) ∧
        t.reg .SC_STATE 3 = (if s.reg .SC_STATE 3 = 4 then 0 else 3) ∧
        (∀ a, t.keeperByte a = s.keeperByte a) ∧
        OnlyAt s t [.SC_POSITION, .SC_STATE, .SC_CORRECTED, .SC_UNCORRECTABLE] 3 ∧
        if s.pageBusy page = true then
          t.reg .SC_UNCORRECTABLE 3 = s.reg .SC_UNCORRECTABLE 3 ∧ t.reg .SC_CORRECTED 3 = s.reg .SC_CORRECTED 3
        else
          Counted s t .SC_UNCORRECTABLE 3 bad ∧
          (∀ e ∈ found, e.2 = .uncorrectable → 16 * page + e.1.val ∈ t.keeperBad) ∧
          Counted s t .SC_CORRECTED 3 good ∧
          (bad = 0 → 0 < good → s.pageProtected page = false → (page < 3 ∨ 16 ≤ page) →
            ∃ w ∈ t.keeperQueue, w.page = page ∧ w.by_ = .fix ∧
              (16 ≤ page → w.data = s.keeperBytes (256 * page) 256))) ∧
  -- R383. While the firmware is RUNNING, the record of the oldest index that owes a value begins.
  (∀ (s : State),
    if s.reg .iPHASE 0 ≠ 1 then exec .keepWrite s = .next s
    else
      match s.keepNext with
      | none => exec .keepWrite s = .next s
      | some ix =>
        ∃ t, exec .keepWrite s = .next t ∧ Touches Changes.keepWrite s t ∧
          RecordBegun s t ix) ∧
  -- R383, R451, R457. Ten seconds after the last try, and only while the firmware is RUNNING, what was refused is
  -- tried again: each index refused has its record begun or waits again; each record that stood still has a page
  -- requested where the pool has room for it; each write of a tri-word refused is requested again.
  (∀ (s : State),
    if s.reg .iPHASE 0 ≠ 1 ∨ s.clock < s.reg .iKEEP_TRY 0 + 10000000000 then exec .keepRetry s = .next s
    else
      ∃ t, exec .keepRetry s = .next t ∧ Touches Changes.keepRetry s t ∧
        t.Holds .iKEEP_TRY 0 s.clock ∧
        (∀ ix ∈ s.keepDeferred, (∃ r ∈ t.records, r.id = ix) ∨ ix ∈ t.keepDeferred) ∧
        (∀ r ∈ s.records, s.recordIdle r = true → r.left ≠ [] →
          (∃ p ∈ t.keeperQueue, p.by_ = .record r.id) ∨ r.id ∈ t.keepDeferred ∨ (r.repair = true ∧ r ∈ t.records)) ∧
        ∀ e ∈ s.triPending, match e with
          | .tri w v _ => ∃ p ∈ t.keeperQueue, p.by_ = .tri w v 0
          | .triFix w v c => ∃ p ∈ t.keeperQueue, p.by_ = .triFix w v c
          | _ => True) ∧
  -- R460, R439. While the firmware is RUNNING every word is voted, on the copies as they are now found. Each copy
  -- that disagrees, of a word with no write of it already under way, is to be rewritten, and KP_TRI_REPAIRS counts
  -- it. The comparators take the voted shutdown limits, but for a word being written.
  (∀ (drift : List (Fin 3 × Fin 16 × BitVec 64)) (s : State),
    let u := drift.foldl (fun x e => x.setReg .iTRI (triIx e.1.val e.2.1.val) e.2.2.toNat) s
    let wrong (w : Nat) := if u.triBusy w then [] else
      (List.range 3).filter (fun c => u.reg .iTRI (triIx c w) != u.triword w)
    if s.reg .iPHASE 0 ≠ 1 then exec (.triwordVote drift) s = .next s
    else
      ∃ t, exec (.triwordVote drift) s = .next t ∧ Touches Changes.triwordVote s t ∧
        (∀ i, t.reg .iTRI i = u.reg .iTRI i) ∧
        Counted s t .KP_TRI_REPAIRS 0 (((List.range 16).map (fun w => (wrong w).length)).sum) ∧
        (∀ w, w < 16 → ∀ c ∈ wrong w, ∃ p ∈ t.keeperQueue, p.by_ = .triFix w (u.triword w) c) ∧
        ((∀ w, w < 16 → wrong w = []) → t.keeperQueue = s.keeperQueue ∧ t.evLog = s.evLog) ∧
        (t.triBusy 8 = false → t.Holds .iCMP_SHUT 0 (u.triword 8)) ∧
        (t.triBusy 9 = false → t.Holds .iCMP_RESTART 0 (u.triword 9)))

/-- What a write of a parameter, the mode of a queue, KP_PROTECT and the factory reset do. Each command completes
with exactly this effect and leaves all else as it was. -/
def Obligations.DictionaryWrites : Prop :=
  -- R378, R380 to R382. A write by ID.
  (∀ (acc : Accessor) (index : BitVec 16) (sub : BitVec 8) (data : List Byte) (s : State),
    ∃ t, exec (.parameterWrite acc index sub data) s = .next t ∧
      Touches [.anyReg, .mem, .keeper, .time, .keys, .anyFld] s t ∧
      IdWritten s t acc index.toNat sub.toNat data) ∧
  -- R403. NQ_MODE takes the value and empties its queue; other queues keep theirs, and subscribers stay.
  (∀ (acc : Accessor) (q : Fin 2048) (v : BitVec 8) (s : State), s.Passes acc .NQ_MODE q.val v.toNat →
    ∃ t, exec (.nqModeWrite acc q v) s = .next t ∧ Touches Changes.nqModeWrite s t ∧
      (t.status = 0 ∧ t.reg .NQ_MODE q.val = v.toNat ∧ OnlyAt s t [.NQ_MODE] q.val ∧
       (t.queue q.val).entries = [] ∧ (t.queue q.val).subscribers = (s.queue q.val).subscribers ∧
       ∀ k, k ≠ q.val → t.queue k = s.queue k)) ∧
  -- R451, R459. KP_PROTECT takes the value, is owed to the Keeper, and the copies of tri-word 12 are to be
  -- written.
  (∀ (acc : Accessor) (v : BitVec 8) (s : State), s.Passes acc .KP_PROTECT 0 v.toNat →
    ∃ t, exec (.kpProtectWrite acc v) s = .next t ∧ Touches Changes.kpProtectWrite s t ∧
      t.status = 0 ∧ t.reg .KP_PROTECT 0 = v.toNat ∧ regKey .KP_PROTECT 0 ∈ t.keepPending ∧
      ∃ p ∈ t.keeperQueue, p.by_ = .tri 12 v.toNat 0) ∧
  -- R404. OD_FACTORY is accepted and owed until the next warm restart; no parameter changes yet.
  (∀ (acc : Accessor) (s : State), s.Passes acc .OD_FACTORY 0 1 →
    ∃ t, exec (.odFactory acc) s = .next t ∧
      Touches (regs [.iFACTORY, .iACC_STATUS, .iACC_ID] ++ flds [.status]) s t ∧
      t.status = 0 ∧ t.reg .iFACTORY 0 = 1)

/-- What the reads of a queue and of captures, the windows of F0 and F3, the latch, and the signal of a queue do.
Each command completes with exactly this effect and leaves all else as it was. -/
def Obligations.ReadsWindowsSignals : Prop :=
  -- R399, R380. Reading NQ_READ returns every entry of the queue, oldest first, 32 bytes each. In LOCAL mode this
  -- empties the queue, and its subscribers stay; in STREAM mode nothing is taken. A refused read returns no bytes.
  (∀ (acc : Accessor) (q : Fin 2048) (s : State),
    let k := q.val
    if s.reachable acc = false then exec (.nqRead acc q) s = .next { s with value := [] }
    else
      match readFault s acc .NQ_READ with
      | some code => exec (.nqRead acc q) s = .next { s.answered acc .NQ_READ k code with value := [] }
      | none =>
        ∃ t, exec (.nqRead acc q) s = .next t ∧ Touches Changes.nqRead s t ∧
          t.status = 0 ∧ t.value = (s.queue k).entries.flatMap (fun e => leBytes 32 e.raw) ∧
          t.caps = s.caps ∧ t.draws = s.draws ∧ (∀ j, j ≠ k → t.queue j = s.queue j) ∧
          (t.queue k).subscribers = (s.queue k).subscribers ∧
          (t.queue k).entries = if s.reg .NQ_MODE k = 0 then [] else (s.queue k).entries) ∧
  -- R370, R380. Reading CAP_READ returns the eyelet's records, oldest first, 16 bytes each, and takes them out;
  -- the records of the other eyelets stay. A refused read returns no bytes.
  (∀ (acc : Accessor) (e : Fin 8) (s : State),
    let k := e.val
    if s.reachable acc = false then exec (.capRead acc e) s = .next { s with value := [] }
    else
      match readFault s acc .CAP_READ with
      | some code => exec (.capRead acc e) s = .next { s.answered acc .CAP_READ k code with value := [] }
      | none =>
        ∃ t, exec (.capRead acc e) s = .next t ∧ Touches Changes.capRead s t ∧
          t.status = 0 ∧ t.value = ((s.caps.filter (fun c => c.1 == k)).map Prod.snd).flatMap (leBytes 16) ∧
          t.caps = s.caps.filter (fun c => c.1 != k) ∧ t.reg .iCAP_FULL k = 0 ∧ OnlyAt s t [.iCAP_FULL] k ∧
          t.queues = s.queues ∧ t.draws = s.draws) ∧
  -- R395, R396, R397. A dword read completes with 4 bytes. At BAR 2 it reads the latch, ACC_STATUS or ACC_ID, at
  -- BAR 4 of F0 the MSI-X table or its pending bits, and changes none of them. At BAR 0 an access that is not
  -- served returns all ones and sets ACC_STATUS to 0xFFFF; one that names no parameter returns all ones, and one
  -- refused otherwise 0, with ACC_STATUS; a BLOB returns its size, with its bytes in the latch; a value of 64 bits
  -- or more its low dword, with its bytes in the latch; any other its value, sign-extended where it is signed.
  (∀ (f3 : Bool) (region : Region) (dword : BitVec 24) (s : State),
    let f := b2n f3
    let d := dword.toNat % 0x8000
    let index := dword.toNat / 256
    let sub := dword.toNat % 256
    let q := s.readId (windowOf f3) index sub false
    ∃ t, exec (.windowRead f3 region dword) s = .next t ∧ Touches Changes.windowRead s t ∧
      t.sent = [.completion t.value 0] ∧
      if region = .bar4 then
        let m := dword.toNat % 0x4000
        Touches (flds [.draws, .value, .sent]) s t ∧
        (f3 = false → m < 0x2000 → t.value = leBytes 4 (s.msixDword m)) ∧
        (f3 = false → 0x2000 ≤ m → m < 0x2040 → ∀ k, k < 32 → bit (leNat t.value) k = (s.reg .iMSIX_PEND (32 * (m -
            0x2000) + k) == 1))
      else if region = .bar2 then
        Touches (flds [.draws, .value, .sent]) s t ∧
        (d < 0x4000 → t.value = leBytes 4 (blobGet (s.latch f3) (4 * d) 4)) ∧
        (d = 0x4000 → t.value = leBytes 4 (if s.windowServed then s.reg .iACC_STATUS f else 0xFFFF)) ∧
        (d = 0x4001 → t.value = leBytes 4 (s.reg .iACC_ID f))
      else if s.windowServed = false then t.value = leBytes 4 0xFFFFFFFF ∧ t.reg .iACC_STATUS f = 0xFFFF
      else
        t.status = q.2.status ∧ t.Holds .iACC_STATUS f q.2.status ∧ t.reg .iACC_ID f = 256 * index + sub ∧
        if q.2.status = Code.odNoObject then t.value = leBytes 4 0xFFFFFFFF
        else if q.2.status ≠ 0 then t.value = leBytes 4 0
        else match lookupReg index sub with
          | none => t.value = leBytes 4 (leNat q.1)
          | some (r, _) =>
            if (regRow r).ty.isBlob = true then
              t.value = leBytes 4 q.1.length ∧ t.Holds .iLATCH f (leNat q.1 + 2 ^ (8 * q.1.length) *
                (s.latch f3 >>> (8 * q.1.length)))
            else if 4 < q.1.length then
              t.value = leBytes 4 (leNat q.1) ∧ t.Holds .iLATCH f (leNat q.1 + 2 ^ (8 * q.1.length) *
                (s.latch f3 >>> (8 * q.1.length)))
            else t.reg .iLATCH f = s.reg .iLATCH f ∧ t.value = leBytes 4 (if (regRow r).ty.signed = true then
                ofInt 32 (asInt r.width (leNat q.1)) else leNat q.1)) ∧
  -- R396, R397, R496. A dword write at BAR 0 that is not served sets ACC_STATUS to 0xFFFF and does nothing else.
  -- One that is served writes the parameter: the dword itself for up to 32 bits, the latch above the dword for a
  -- wider value, and the latch for a BLOB whose size the dword gives; partial byte enables, a wrong size or a
  -- value not extended as its type asks come with a length that R380 refuses.
  (∀ (f3 : Bool) (dword : BitVec 24) (be : BitVec 4) (v : BitVec 32) (s : State),
    let index := dword.toNat / 256
    let sub := dword.toNat % 256
    let data := s.windowData f3 index sub (be.toNat == 15) v.toNat
    if s.windowServed = false then
      exec (.windowWrite f3 dword be v) s = .next (s.setReg .iACC_STATUS (b2n f3) 0xFFFF)
    else
      ∃ t, exec (.windowWrite f3 dword be v) s = .next t ∧
        Touches [.anyReg, .mem, .keeper, .time, .keys, .anyFld] s t ∧
        IdWritten (s.send []) t (windowOf f3) index sub data ∧
        (be = 15 → ∀ r i, lookupReg index sub = some (r, i) → (regRow r).ty.isBlob = false → r.width = 32 →
          data = leBytes 4 v.toNat)) ∧
  -- R397. The bytes that a write at BAR 2 enables enter the latch; the others keep their values.
  (∀ (f3 : Bool) (dword : BitVec 14) (be : BitVec 4) (v : BitVec 32) (s : State),
    ∃ t, exec (.latchWrite f3 dword be v) s = .next t ∧ Touches (regs [.iLATCH]) s t ∧
      (OnlyAt s t [.iLATCH] (b2n f3) ∧
       ∀ a, a < 65536 → blobGet (t.latch f3) a 1 =
         if a / 4 = dword.toNat ∧ bit be.toNat (a % 4) = true then v.toNat >>> (8 * (a % 4)) % 256
         else blobGet (s.latch f3) a 1)) ∧
  -- R402, R387. A queue that is due to signal, by the count or the age of its unsignalled entries, has them
  -- signalled: its MSI-X message leaves, or waits with its pending bit, and every subscriber is sent them in a
  -- NOTIFY under the next number of its session. The entries stay in the queue. One that is not due leaves
  -- everything.
  (∀ (q : Fin 2048) (s : State),
    let k := q.val
    let n := s.queue k
    if s.signalDue k = false then exec (.nqSignal q) s = .next s
    else
      ∃ t, exec (.nqSignal q) s = .next t ∧ Touches Changes.nqSignal s t ∧
        t.queue k = { n with unsignalled := 0 } ∧ (∀ j, j ≠ k → t.queue j = s.queue j) ∧
        (s.reg .NQ_MSIX k = 1 → if s.reg .iMSIX_EN 0 = 1 ∧ s.reg .iMSIX_MASK k = 0 then
            OutMsg.msix k (s.reg .iMSIX_ADDR k) (s.reg .iMSIX_DATA k) ∈ t.sent
          else t.reg .iMSIX_PEND k = 1) ∧
        OnlyAt s t [.iMSIX_PEND] k ∧
        (n.subscribers.Nodup → ∀ x ∈ n.subscribers, Counted s t .iSS_NOTIFY x 1 ∧
          OutMsg.plovan (s.macPort (s.reg .iSS_MAC x)) (s.peerOf x) (plvMessage 9 x 0 (t.reg .iSS_NOTIFY x)
              n.fresh.length 0
            (s.keyOfSession x) (leBytes 2 k ++ leBytes 6 0 ++ n.fresh.flatMap (fun e => leBytes 32 e.raw))) ∈ t.sent))

/-- What opens and closes a session and changes the key table. Each command completes with exactly this effect and
leaves all else as it was. -/
def Obligations.SessionsAndKeys : Prop :=
  -- R392. A session that no valid datagram has reached for PLV_TIMEOUT closes with cause 1. Otherwise nothing
  -- changes.
  (∀ (n : Fin 1024) (s : State), s.NoMessage →
    if s.reg .SS_STATE n.val = 1 ∧ s.reg .iSS_SEEN n.val + s.reg .PLV_TIMEOUT 0 * 1000000 ≤ s.clock then
      ∃ t, exec (.sessionTimeout n) s = .next t ∧ Touches Changes.sessionTimeout s t ∧
        SessionClosed s t n.val 1
    else exec (.sessionTimeout n) s = .next s) ∧
  -- R392. SS_CLOSE closes an open session with cause 3; on a free one it changes nothing but the status.
  (∀ (acc : Accessor) (n : Fin 1024) (s : State), s.NoMessage → s.Passes acc .SS_CLOSE n.val 1 →
    ∃ t, exec (.ssClose acc n) s = .next t ∧ Touches Changes.ssClose s t ∧
      t.status = 0 ∧
      if s.reg .SS_STATE n.val = 1 then SessionClosed s t n.val 3
      else t = (s.send []).answered acc .SS_CLOSE n.val 0) ∧
  -- R392, R393. PLV_KEY_SET puts, replaces or (with an all-zero key) deletes one entry of the key table, which is
  -- owed to the Keeper, and every session opened under that KEY_ID closes; the others stay. A 65th key is refused
  -- with OD_RANGE and changes nothing.
  (∀ (acc : Accessor) (v : BitVec 288) (s : State), s.NoMessage → s.Passes acc .PLV_KEY_SET 0 v.toNat →
    let id := blobGet v.toNat 0 2
    let key := blobGet v.toNat 4 32
    if s.keyOf id = none ∧ key ≠ 0 ∧ 64 ≤ s.keys.length then
      exec (.plvKeySet acc v) s = .next ((s.send []).answered acc .PLV_KEY_SET 0 Code.odRange)
    else
      ∃ t, exec (.plvKeySet acc v) s = .next t ∧ Touches Changes.plvKeySet s t ∧
        t.status = 0 ∧ regKey .PLV_KEY_SET 0 ∈ t.keepPending ∧
        t.keyOf id = (if key = 0 then none else some (blobGet v.toNat 2 1, key)) ∧
        (∀ k, k ≠ id → t.keyOf k = s.keyOf k) ∧
        (∀ n, n < 1024 → s.reg .SS_STATE n = 1 → s.reg .SS_KEY_ID n = id → t.reg .SS_STATE n = 0) ∧
        (∀ n, (s.reg .SS_STATE n ≠ 1 ∨ s.reg .SS_KEY_ID n ≠ id) → ∀ r ∈ sessionRegs, t.reg r n = s.reg r n)) ∧
  -- R389, R390, R393. An OPEN under a known key needs its tag. A refused one is answered untagged with its status
  -- and opens nothing. One accepted takes the lowest free session number with its role, kind and key, and a stream
  -- source the lowest free slot; its response carries a nonce of Flaed's and is tagged with the session key of
  -- both nonces.
  (∀ (port : Fin 2) (sub : Fin 4) (mac : BitVec 48) (src : BitVec 128) (srcPort : BitVec 16) (p : List Byte) (s
      : State),
    ∃ t, exec (.plovanOpen port sub mac src srcPort p) s = .next t ∧ Touches Changes.plovanOpen s t ∧
      PlvDatagram s t (plvFrom port sub) mac 1 p (fun h _ =>
        let role := leAt h.body 0 1
        let kind := leAt h.body 1 1
        let id := leAt h.body 2 2
        let peer := plvPeer src srcPort
        let code := s.openStatus role kind id
        if s.reg .iPHASE 0 = 3 then t = (s.heard (plvFrom port sub) mac).send []
        else if s.openTagOk h id = false then t = ((s.heard (plvFrom port sub) mac).send []).bump .PLV_BAD_AUTH 0
        else if code ≠ 0 then
          t.sent = [.plovan (plvFrom port sub) peer (plvMessage 1 0xFFFF 2 h.seq 0 code none [])] ∧
          Touches (flds [.sent, .egress, .waits, .macs]) s t
        else ∃ n nonce, s.freeSession = some n ∧ nonce < 2 ^ 64 ∧
          let key := (s.keyOf id).map (fun k => sessionKey k.2 (leAt h.body 4 8) nonce n)
          let slot := if kind = 1 then s.freeSlot else none
          let m := plvMessage 1 n 2 h.seq 0 0 key
            (leBytes 8 nonce ++ leBytes 2 (slot.getD 0xFFFF) ++ leBytes 2 0 ++ leBytes 4 (s.reg .PLV_TIMEOUT 0))
          t.reg .SS_STATE n = 1 ∧ t.reg .SS_ROLE n = role ∧ t.reg .SS_KIND n = kind ∧ t.reg .SS_KEY_ID n = id ∧
          t.reg .iSS_SEQ n = 0 ∧ t.keyOfSession n = key ∧ t.peerOf n = peer ∧ OnlyAt s t sessionRegs n ∧
          .plovan (plvFrom port sub) peer m ∈ t.sent ∧ (n, m) ∈ t.responses ∧
          (∀ k, slot = some k → t.reg .SS_SLOT n = k ∧ t.reg .STR_SESSION k = n ∧ t.reg .STR_PACKETS k = 0 ∧
            t.reg .STR_STATE k = if bit (s.reg .MS_FROZEN_INGEST 0) k then 2 else 1))) ∧
  -- R392. A CLOSE answers and closes its session with cause 0.
  (∀ (port : Fin 2) (sub : Fin 4) (mac : BitVec 48) (src : BitVec 128) (srcPort : BitVec 16) (p : List Byte) (s
      : State), s.NoMessage →
    ∃ t, exec (.plovanClose port sub mac src srcPort p) s = .next t ∧ Touches Changes.plovanClose s t ∧
      PlvDatagram s t (plvFrom port sub) mac 2 p (fun h _ => PlvRequest s t (plvFrom port sub) mac (plvPeer src
          srcPort) p h
        (.plovan (plvFrom port sub) (plvPeer src srcPort) (plvMessage 2 h.session 2 h.seq 0 0 (s.keyOfSession
            h.session)
          []) ∈ t.sent ∧ SessionClosed s t h.session 0 ∧ t.NoMessage))) ∧
  -- R387, R391. A KEEPALIVE is answered; nothing but its session and the counters of bad messages changes.
  (∀ (port : Fin 2) (sub : Fin 4) (mac : BitVec 48) (src : BitVec 128) (srcPort : BitVec 16) (p : List Byte) (s
      : State), s.NoMessage →
    ∃ t, exec (.plovanKeepalive port sub mac src srcPort p) s = .next t ∧ Touches plvFrame s t ∧
      PlvDatagram s t (plvFrom port sub) mac 3 p (fun h _ => PlvRequest s t (plvFrom port sub) mac (plvPeer src
          srcPort) p h
        (PlvAnswered s t (plvFrom port sub) (plvPeer src srcPort) h 0 [])))

/-- What the messages of a Plovan session that carry items do. Each command completes with exactly this effect and
leaves all else as it was. -/
def Obligations.PlovanItems : Prop :=
  -- R381, R387. A READ is answered with one item for each of its own, read in message order; only NQ_READ and
  -- CAP_READ items change anything outside the session.
  (∀ (port : Fin 2) (sub : Fin 4) (mac : BitVec 48) (src : BitVec 128) (srcPort : BitVec 16) (p : List Byte) (s
      : State), s.NoMessage →
    ∃ t, exec (.plovanRead port sub mac src srcPort p) s = .next t ∧ Touches Changes.plovanRead s t ∧
      PlvDatagram s t (plvFrom port sub) mac 4 p (fun h xs => PlvRequest s t (plvFrom port sub) mac (plvPeer src
          srcPort) p h
        (let u := s.messageBegun (plvFrom port sub) mac (plvPeer src srcPort) h
         let q := u.plvItems h.session 4 xs
         if s.tooBig h.session q.1 = true then PlvTooBig s t (plvFrom port sub) (plvPeer src srcPort) h
         else PlvAnswered s t (plvFrom port sub) (plvPeer src srcPort) h xs.length q.1 ∧ t.queues = q.2.queues ∧
           t.caps = q.2.caps))) ∧
  -- R381, R387. A WRITE performs its items in message order, each on its own, and is answered with their statuses.
  -- A session that an item closes, and a restart that an item asks for, come after the last item.
  (∀ (port : Fin 2) (sub : Fin 4) (mac : BitVec 48) (src : BitVec 128) (srcPort : BitVec 16) (p : List Byte) (s
      : State), s.NoMessage →
    ∃ t, exec (.plovanWrite port sub mac src srcPort p) s = .next t ∧
      Touches [.anyReg, .mem, .keeper, .time, .keys, .anyFld] s t ∧
      PlvDatagram s t (plvFrom port sub) mac 5 p (fun h xs => PlvRequest s t (plvFrom port sub) mac (plvPeer src
          srcPort) p h
        (let u := s.messageBegun (plvFrom port sub) mac (plvPeer src srcPort) h
         let q := u.plvItems h.session 5 xs
         let m := plvMessage 5 h.session 2 h.seq xs.length 0 (s.keyOfSession h.session) q.1
         if s.tooBig h.session q.1 = true then PlvTooBig s t (plvFrom port sub) (plvPeer src srcPort) h
         else
           (q.2.reg .iPLV_RESET 0 = 0 → .plovan (q.2.reg .iSS_FROM h.session) (q.2.peerOf h.session) m ∈ t.sent ∧
             t.NoMessage ∧ (q.2.reg .iPLV_CLOSE 0 ≠ 0xFF → SessionClosed q.2 t h.session (q.2.reg .iPLV_CLOSE 0)) ∧
             (q.2.reg .iPLV_CLOSE 0 = 0xFF → (h.session, m) ∈ t.responses ∧ Touches plvFrame q.2 t))))) ∧
  -- R384, R387. A DESCRIBE is answered with one descriptor for each ID; it changes nothing outside its session.
  (∀ (port : Fin 2) (sub : Fin 4) (mac : BitVec 48) (src : BitVec 128) (srcPort : BitVec 16) (p : List Byte) (s
      : State), s.NoMessage →
    ∃ t, exec (.plovanDescribe port sub mac src srcPort p) s = .next t ∧ Touches plvFrame s t ∧
      PlvDatagram s t (plvFrom port sub) mac 6 p (fun h xs => PlvRequest s t (plvFrom port sub) mac (plvPeer src
          srcPort) p h
        (let u := s.messageBegun (plvFrom port sub) mac (plvPeer src srcPort) h
         let body := xs.flatMap u.describeItem
         if s.tooBig h.session body = true then PlvTooBig s t (plvFrom port sub) (plvPeer src srcPort) h
         else PlvAnswered s t (plvFrom port sub) (plvPeer src srcPort) h xs.length body))) ∧
  -- R402, R387. A SUBSCRIBE is answered with the status of each queue, and the session is notified of a queue from
  -- then on, unless the queue or the session has no room (said for one queue); the entries of every queue stay.
  (∀ (port : Fin 2) (sub : Fin 4) (mac : BitVec 48) (src : BitVec 128) (srcPort : BitVec 16) (p : List Byte) (s
      : State), s.NoMessage →
    ∃ t, exec (.plovanSubscribe port sub mac src srcPort p) s = .next t ∧
      Touches (plvFrame ++ flds [.queues]) s t ∧
      (∀ k, (t.queue k).entries = (s.queue k).entries ∧ (t.queue k).unsignalled = (s.queue k).unsignalled) ∧
      PlvDatagram s t (plvFrom port sub) mac 7 p (fun h xs => PlvRequest s t (plvFrom port sub) mac (plvPeer src
          srcPort) p h
        (let u := s.messageBegun (plvFrom port sub) mac (plvPeer src srcPort) h
         let q := u.plvItems h.session 7 xs
         if s.tooBig h.session q.1 = true then PlvTooBig s t (plvFrom port sub) (plvPeer src srcPort) h
         else PlvAnswered s t (plvFrom port sub) (plvPeer src srcPort) h xs.length q.1 ∧ t.queues = q.2.queues ∧
           ∀ x, xs = [x] →
             let r := subscribed true h.session x.id (s.subscriptions h.session) (s.queue x.id).subscribers
             q.1 = leBytes 4 r.1 ∧ (t.queue x.id).subscribers = r.2 ∧ ∀ k, k ≠ x.id → t.queue k = s.queue k))) ∧
  -- R402, R387. An UNSUBSCRIBE is answered with the status of each queue, and the session is no longer notified of
  -- it; the entries of every queue stay.
  (∀ (port : Fin 2) (sub : Fin 4) (mac : BitVec 48) (src : BitVec 128) (srcPort : BitVec 16) (p : List Byte) (s
      : State), s.NoMessage →
    ∃ t, exec (.plovanUnsubscribe port sub mac src srcPort p) s = .next t ∧
      Touches (plvFrame ++ flds [.queues]) s t ∧
      (∀ k, (t.queue k).entries = (s.queue k).entries ∧ (t.queue k).unsignalled = (s.queue k).unsignalled) ∧
      PlvDatagram s t (plvFrom port sub) mac 8 p (fun h xs => PlvRequest s t (plvFrom port sub) mac (plvPeer src
          srcPort) p h
        (let u := s.messageBegun (plvFrom port sub) mac (plvPeer src srcPort) h
         let q := u.plvItems h.session 8 xs
         if s.tooBig h.session q.1 = true then PlvTooBig s t (plvFrom port sub) (plvPeer src srcPort) h
         else PlvAnswered s t (plvFrom port sub) (plvPeer src srcPort) h xs.length q.1 ∧ t.queues = q.2.queues ∧
           ∀ x, xs = [x] →
             let r := subscribed false h.session x.id (s.subscriptions h.session) (s.queue x.id).subscribers
             q.1 = leBytes 4 r.1 ∧ (t.queue x.id).subscribers = r.2 ∧ ∀ k, k ≠ x.id → t.queue k = s.queue k)))

/-- What begins a warm restart, and what it does. Each command completes with exactly this effect and leaves all
else as it was. -/
def Obligations.WarmRestarts : Prop :=
  -- R496. WARM_RESTART restarts a firmware that is RUNNING, and owes no WATCHDOG_RESTART; otherwise it does
  -- nothing.
  (∀ (s : State), s.NoMessage →
    if s.reg .iPHASE 0 = 1 then
      ∃ t, exec .warmRestart s = .next t ∧ Touches Changes.warmRestart s t ∧
        RestartBegun s t 0xFF
    else exec .warmRestart s = .next (s.send [])) ∧
  -- R32. 50 ms after all four Pip cores were frozen a warm restart begins, with cause 0.
  (∀ (s : State), s.NoMessage →
    if bits (s.reg .MS_FROZEN_CORE 0) 0x63 0x60 = 15 ∧ s.reg .iPIP_FROZE_NS 0 + 50000000 ≤ s.clock then
      if s.reg .iPHASE 0 = 1 then
        ∃ t, exec .pipFreezeWatchdog s = .next t ∧ Touches Changes.pipFreezeWatchdog s t ∧
          RestartBegun s t 0
      else exec .pipFreezeWatchdog s = .next (s.send [])
    else exec .pipFreezeWatchdog s = .next s) ∧
  -- R495. A Pip core that has reported nothing for WD_TIMEOUT causes a warm restart with cause 1.
  (∀ (core : Fin 4) (s : State), s.NoMessage →
    if s.reg .iPHASE 0 = 1 then
      ∃ t, exec (.watchdogTimeout core) s = .next t ∧ Touches Changes.watchdogTimeout s t ∧
        RestartBegun s t 1
    else exec (.watchdogTimeout core) s = .next (s.send [])) ∧
  -- R499. FW_TRIAL_TIMEOUT after a trial began without COMMIT, a warm restart begins with cause 2.
  (∀ (s : State), s.NoMessage →
    if s.reg .FW_STATE 0 = 1 ∧ s.reg .iTRIAL_NS 0 + s.reg .FW_TRIAL_TIMEOUT 0 * 1000000000 ≤ s.clock then
      if s.reg .iPHASE 0 = 1 then
        ∃ t, exec .trialTimeout s = .next t ∧ Touches Changes.trialTimeout s t ∧
          RestartBegun s t 2
      else exec .trialTimeout s = .next (s.send [])
    else exec .trialTimeout s = .next s)

/-- What programming and switching firmware images do. Each command completes with exactly this effect and leaves
all else as it was. -/
def Obligations.FirmwareUpdate : Prop :=
  -- R497. FW_PROGRAM is refused with OD_RANGE on trial and while a sequence runs. Otherwise the sequence starts,
  -- and the target's image is invalid: in RUNNING the slot that does not hold the running image, in RECOVERY the
  -- slot forced by the strap, else the one that is not ACTIVE. The other slot stays.
  (∀ (acc : Accessor) (s : State), s.Passes acc .FW_PROGRAM 0 1 →
    let st := s.reg .FW_PROG_STATE 0
    let k := if s.reg .FW_STATE 0 = 2 then
        (if s.bootMode = 1 then 0 else if s.bootMode = 2 then 1 else 1 - s.selActive % 2)
      else 1 - s.reg .FW_RUNNING 0 % 2
    if s.reg .FW_STATE 0 = 1 ∨ (st ≠ 0 ∧ st ≠ 5 ∧ st ≠ 6) then
      exec (.fwProgram acc) s = .next (s.answered acc .FW_PROGRAM 0 Code.odRange)
    else
      ∃ t, exec (.fwProgram acc) s = .next t ∧ Touches Changes.fwProgram s t ∧
        t.status = 0 ∧ t.reg .FW_PROG_STATE 0 = 1 ∧ t.reg .iFW_TARGET 0 = k ∧ t.reg .iNOR_VALID k = 0 ∧
        OnlyAt s t [.iNOR_VALID] k) ∧
  -- R486, R497. A sequence under way ends. DONE: the image staged was read whole, is valid and was read back as
  -- written; the slot holds it. FAILED otherwise: FW_IMAGE_BAD is raised and the slot stays as it is. The other
  -- slot stays. While no sequence runs, or its image stands in the store and the channels do not serve, nothing
  -- changes.
  (∀ (host : List Byte) (readBack : Bool) (seen : Seen) (s : State),
    let st := s.reg .FW_PROG_STATE 0
    let k := s.reg .iFW_TARGET 0
    let n := s.reg .FW_LENGTH 0
    let r : ReadAnswer := if s.reg .FW_SRC_SPACE 0 = 0 then ((s.see seen).fetch s.pipMaster .pip (s.reg .FW_SRC 0)
        n).1
      else ⟨false, host.take n, []⟩
    if st = 0 ∨ 5 ≤ st ∨ (s.reg .FW_SRC_SPACE 0 = 0 ∧ s.storeServes = false) then
      exec (.fwProgramDone host readBack seen) s = .next s
    else
      ∃ t, exec (.fwProgramDone host readBack seen) s = .next t ∧ Touches Changes.fwProgramDone s t ∧
        OnlyAt s t [.iNOR_VALID, .iNOR_VERSION, .iNOR_PLEN] k ∧
        if r.frozen = false ∧ r.poisoned = [] ∧ imageOk r.data = true ∧ readBack = true then
          t.reg .FW_PROG_STATE 0 = 5 ∧ t.imageValid k = true ∧ t.Holds .iNOR_VERSION k (leAt r.data 4 4) ∧
          t.Holds .iNOR_PLEN k (leAt r.data 16 4)
        else t.reg .FW_PROG_STATE 0 = 6 ∧ t.reg .iNOR_VALID k = s.reg .iNOR_VALID k ∧
          t.lastEvent = some (Code.fwImageBad, packBits [(8, k)])) ∧
  -- R498. TRIAL is refused with OD_RANGE on trial, in RECOVERY, and with an invalid other slot. Otherwise the
  -- selector is written with the other slot on trial and one attempt, and a firmware that is RUNNING restarts.
  (∀ (acc : Accessor) (s : State), s.NoMessage → s.Passes acc .FW_SWITCH 0 1 →
    let run := s.reg .FW_RUNNING 0 % 2
    let u := ((s.send []).setStatus 0).setSelector (selector s.selActive (1 - run) 1)
    if s.reg .FW_STATE 0 = 0 ∧ s.imageValid (1 - run) = true then
      ∃ t, exec (.fwSwitchTrial acc) s = .next t ∧ Touches Changes.fwSwitchTrial s t ∧
        t.status = 0 ∧ (s.reg .iPHASE 0 = 1 → RestartBegun u t 0xFF ∧
          (s.keeperOpen = true → s.pageProtected 0 = false → s.bootMode = 0 →
            t.reg .iBOOT_IMAGE 0 = 1 - run ∧ t.reg .iBOOT_TRIAL 0 = 1 ∧
            t.triword 6 = selector (s.selActive % 2) (1 - run) 0)) ∧
        (s.reg .iPHASE 0 ≠ 1 → t.reg .iPHASE 0 = s.reg .iPHASE 0 ∧
          (s.keeperOpen = true → s.pageProtected 0 = false → t.triword 6 = selector s.selActive (1 - run) 1))
    else exec (.fwSwitchTrial acc) s = .next ((s.send []).answered acc .FW_SWITCH 0 Code.odRange)) ∧
  -- R498. COMMIT ends a trial: the selector is written with the running image ACTIVE and no trial, FW_SWITCHED is
  -- raised and FW_STATE is RUNNING. In another state it is refused with OD_RANGE.
  (∀ (acc : Accessor) (s : State), s.Passes acc .FW_SWITCH 0 2 →
    let run := s.reg .FW_RUNNING 0 % 2
    if s.reg .FW_STATE 0 = 1 then
      ∃ t, exec (.fwSwitchCommit acc) s = .next t ∧ Touches Changes.fwSwitchCommit s t ∧
        t.status = 0 ∧ t.reg .FW_STATE 0 = 0 ∧ t.reg .iPHASE 0 = s.reg .iPHASE 0 ∧
        t.lastEvent = some (Code.fwSwitched, packBits [(8, run), (32, s.reg .FW_VERSION 0)]) ∧
        (s.keeperOpen = true → s.pageProtected 0 = false → t.triword 6 = selector run 0xFF 0)
    else exec (.fwSwitchCommit acc) s = .next (s.answered acc .FW_SWITCH 0 Code.odRange)) ∧
  -- R498. RESTART is refused with OD_RANGE in RECOVERY, and otherwise restarts a firmware that is RUNNING, without
  -- a report.
  (∀ (acc : Accessor) (s : State), s.NoMessage → s.Passes acc .FW_SWITCH 0 3 →
    if s.reg .FW_STATE 0 = 2 then
      exec (.fwSwitchRestart acc) s = .next ((s.send []).answered acc .FW_SWITCH 0 Code.odRange)
    else
      ∃ t, exec (.fwSwitchRestart acc) s = .next t ∧ Touches Changes.fwSwitchRestart s t ∧
        t.status = 0 ∧ if s.reg .iPHASE 0 = 1 then RestartBegun s t 0xFF
        else t = (s.send []).answered acc .FW_SWITCH 0 0)

/-- What a minute and an hour of life and the SMBus reads do. Each command completes with exactly this effect and
leaves all else as it was. -/
def Obligations.ServiceLifeAndSmbus : Prop :=
  -- R503. A minute of powered life is counted: at the hottest reading of the minute, in whole hours, in its band
  -- of the histogram, and weighted by 2^((T - 90 °C) / 10 °C) to within 1 % as equivalent hours; the mean follows.
  (∀ (s : State),
    let hot := max (s.regInt .iMIN_MAX 0) s.junction
    let b := tjBand hot
    let nominal := equivRate hot
    let hist (x : State) := blobGet (x.reg .LF_TJ_HIST 0) (4 * b) 4
    ∃ t, exec .lifetimeMinute s = .next t ∧ Touches Changes.lifetimeMinute s t ∧
      (∃ x, nominal * 99 / 100 ≤ x ∧ x ≤ nominal * 99 / 100 + nominal / 50 ∧
        t.reg .iEQUIV_MIN 0 = (x + s.reg .iEQUIV_MIN 0) % (60 * 2 ^ 32) ∧
        Counted s t .LF_EQUIV_H 0 ((x + s.reg .iEQUIV_MIN 0) / (60 * 2 ^ 32))) ∧
      t.reg .iMIN_COUNT 0 = (s.reg .iMIN_COUNT 0 + 1) % 60 ∧
      Counted s t .LF_HOURS 0 ((s.reg .iMIN_COUNT 0 + 1) / 60) ∧
      t.reg .iHIST_MIN b = (s.reg .iHIST_MIN b + 1) % 60 ∧ OnlyAt s t [.iHIST_MIN] b ∧
      hist t = (hist s + (s.reg .iHIST_MIN b + 1) / 60) % 2 ^ 32 ∧
      t.Holds .iTJ_SUM 0 (ofInt Reg.iTJ_SUM.width (s.regInt .iTJ_SUM 0 + hot)) ∧
      t.Holds .LF_TJ_MEAN 0 (ofInt 16 (t.regInt .iTJ_SUM 0 / (60 * t.reg .LF_HOURS 0 + t.reg .iMIN_COUNT 0 : Nat))) ∧
      t.Holds .LF_LIFE_USED 0 (lifeUsed Config.idGrade (t.reg .LF_EQUIV_H 0)) ∧ t.reg .iMIN_MAX 0 = 0x8000) ∧
  -- R503. While the firmware is RUNNING the record of the lifetime counters begins; while it is being written,
  -- another is owed after it (LF_WARM, which it holds, waits to be kept). Without a free page of the pool it is
  -- refused.
  (∀ (s : State),
    if s.reg .iPHASE 0 ≠ 1 then exec .lifetimeHourWrite s = .next s
    else if s.records.any (fun r => r.id == 0xF010) = true then
      ∃ t, exec .lifetimeHourWrite s = .next t ∧ Touches Changes.lifetimeHourWrite s t ∧
        t = if s.keepPending.contains (regKey .LF_WARM 0) = true then s
          else { s with keepPending := s.keepPending ++ [regKey .LF_WARM 0] }
    else
      ∃ t, exec .lifetimeHourWrite s = .next t ∧ Touches Changes.lifetimeHourWrite s t ∧
        RecordBegun s t 0xF010) ∧
  -- R517. TH_JUNCTION is sent, and nothing changes.
  (∀ (s : State),
    exec .smbReadJunction s = .next (s.send [.smbus (leBytes 2 (s.reg .TH_JUNCTION 0))])) ∧
  -- R517. PW_TOTAL is sent, and nothing changes.
  (∀ (s : State),
    exec .smbReadPower s = .next (s.send [.smbus (leBytes 2 (s.reg .PW_TOTAL 0))])) ∧
  -- R517. A byte of the states of firmware, shutdown and thermal control is sent, and nothing changes.
  (∀ (s : State),
    ∃ t, exec .smbReadStatus s = .next t ∧ Touches (flds [.sent]) s t ∧
      ∃ v, v < 256 ∧
      t = s.send [.smbus [BitVec.ofNat 8 v]] ∧ bits v 1 0 = s.reg .FW_STATE 0 % 4 ∧
      (bit v 2 = true ↔ s.reg .iPHASE 0 = 4) ∧ bits v 5 3 = s.reg .TH_STATE 0 % 8 ∧ bits v 7 6 = 0) ∧
  -- R517. TH_LAST_PEAK is sent, and nothing changes.
  (∀ (s : State),
    exec .smbReadPeak s = .next (s.send [.smbus (leBytes 2 (s.reg .TH_LAST_PEAK 0))])) ∧
  -- R517. The count 8 and the 8 bytes of ID_SERIAL are sent, and nothing changes.
  (∀ (s : State),
    exec .smbReadSerial s = .next (s.send [.smbus (8 :: leBytes 8 (s.reg .ID_SERIAL 0))])) ∧
  -- R517. The target answers with its address while a thermal warning or a shutdown holds SMB_ALERT_N low, and not
  -- otherwise.
  (∀ (s : State),
    exec .smbAlertResponse s = .next (s.send (if s.reg .TH_STATE 0 ≠ 0 ∨ s.reg .iPHASE 0 = 4 then [.smbus [0x4C]]
        else [])))

/-- What each reset of the whole part leaves. Each command completes with exactly this effect and leaves all else as
it was. -/
def Obligations.ResetCommands : Prop :=
  -- R452, R480 to R482, R484. A POWER reset resets everything but the contents of the Keeper and the NOR. Of a
  -- page write that it cut, the groups before the one being programmed hold new data, and that one is unstable.
  (∀ (boot : Fin 4) (defaultsN : Bool) (groups : List (Fin 17)) (s : State),
    ∃ t, exec (.powerReset boot defaultsN groups) s = .next t ∧
      Touches [.keeper, .anyReg, .keys, .mem, .time, .anyFld] s t ∧
      (FullReset s t (strapBits boot defaultsN) 0 ∧
       (s.keeperBusy = [] → t.keeper = s.keeper ∧ t.keeperTorn = s.keeperTorn ∧ t.keeperBad = s.keeperBad) ∧
       ∀ w, s.keeperBusy = [w] → w.by_.triCopy = none →
         let g := (groups.getD (keeperBank w.page) 0).val
         if g = 16 then KeeperStored s t (256 * w.page) w.data
         else KeeperStored s t (256 * w.page) (w.data.take (16 * g)) ∧ 16 * w.page + g ∈ t.keeperTorn)) ∧
  -- R480, R484. RST_N low resets everything but the contents of the Keeper and the NOR.
  (∀ (boot : Fin 4) (defaultsN : Bool) (s : State),
    ∃ t, exec (.deviceReset boot defaultsN) s = .next t ∧
      Touches [.anyReg, .keys, .mem, .keeper, .time, .anyFld] s t ∧
      DeviceReset s t (strapBits boot defaultsN)) ∧
  -- R480, R484. An accepted write of SV_RESET is a DEVICE reset; one that R380 refuses is answered with its
  -- status.
  (∀ (acc : Accessor) (boot : Fin 4) (defaultsN : Bool) (s : State),
    if s.reachable acc = false then exec (.svReset acc boot defaultsN) s = .next s
    else
      match writeFault s acc .SV_RESET 0 1 1 false with
      | some code => exec (.svReset acc boot defaultsN) s = .next (s.answered acc .SV_RESET 0 code)
      | none =>
        ∃ t, exec (.svReset acc boot defaultsN) s = .next t ∧
          Touches [.anyReg, .keys, .mem, .keeper, .time, .anyFld] s t ∧
          DeviceReset s t (strapBits boot defaultsN)) ∧
  -- R440, R480, R482. In a shutdown, 30 s after the last sample at or above TH_RESTART, the device restarts. The
  -- store keeps its bytes and poison marks, time goes on, and the units of the NT, TB and SL domains keep their
  -- registers; all else is reset. Every PLL but PLL-NT is on bypass, every channel is to retrain, and the image
  -- that ran runs again.
  (∀ (s : State),
    let apply := bit (s.reg .SV_STRAPS 0) 2
    if s.reg .iPHASE 0 ≠ 4 ∨ s.reg .iCMP_COOL 0 < 30001 then exec .thermalRestart s = .next s
    else
      ∃ t, exec .thermalRestart s = .next t ∧
        Touches [.anyReg, .mem, .keeper, .time, .keys, .anyFld] s t ∧
        t.mem = s.mem ∧ t.poison = s.poison ∧ t.tb = s.tb ∧ t.local_ = s.local_ ∧ t.keeper = s.keeper ∧
        t.egress = s.egress ∧ t.macs = s.macs ∧ t.caps = s.caps ∧ t.eyeEdges = s.eyeEdges ∧
        t.keeperBusy = s.keeperBusy ∧ (s.keeperBad = [] → s.keeperTorn = [] → t.badLog = s.badLog) ∧
        (∀ r i, r ∉ startRegs → r ∉ thermalRegs → (apply = false ∨ (regRow r).keep = false) →
          t.reg r i = if thermalKeeps r then s.reg r i else regDefault r i % 2 ^ r.width) ∧
        (∀ f, f ∉ startFlds → f ∉ thermalFlds → f.same State.reset t) ∧
        (apply = true → RecordsApplied s t) ∧ TriwordsUsed t ∧ WindowsTaken t ∧ t.reg .SU_LAST_RESET 0 = 2 ∧
        (∀ k, k < 7 → k ≠ 5 → t.reg .CK_STATE k = 0) ∧ t.reg .CK_STATE 5 = s.reg .CK_STATE 5 ∧
        (∀ c, c < 32 → t.reg .iRT_LEFT c = 8) ∧ t.reg .iBOOT_IMAGE 0 = s.reg .iBOOT_IMAGE 0)

/-- What a PCIe reset and link-up, the MSI-X table, the start of the firmware and the limit of dark start-up do.
Each command completes with exactly this effect and leaves all else as it was. -/
def Obligations.PcieAndStart : Prop :=
  -- R483. The endpoint's registers are at their reset values. A HOST transfer in flight is a bus error with cause
  -- 4, unless one is already being dealt with, and every PCIe stream slot waits for its tail. Nothing else
  -- changes.
  (∀ (s : State),
    let hosts := (List.range 64).filter (fun n => (s.hostTransfer n).isSome)
    ∃ t, exec .pcieReset s = .next t ∧ Touches [.anyReg] s t ∧
      (∀ r ∈ [Reg.iMSIX_EN, .iMSIX_ADDR, .iMSIX_DATA, .iMSIX_MASK, .iMSIX_PEND, .iLATCH, .iACC_STATUS, .iACC_ID,
          .iF2_BM, .PCI_LINK], ∀ i,
        t.reg r i = regDefault r i % 2 ^ r.width) ∧
      (∀ k, k < 256 → t.reg .iSTR_WAIT k = if s.reg .STR_TRANSPORT k = 1 then 1 else s.reg .iSTR_WAIT k) ∧
      (if hosts ≠ [] ∧ s.reg .LS_BUS_STATE 0 = 0 then
        t.reg .LS_BUS_STATE 0 = 1 ∧ t.reg .iLS_CAUSE 0 = 4 ∧ t.reg .iLS_LACE 0 = hosts.headD 0 ∧
        Counted s t .LS_BUS_ERRORS 0 1
      else t.reg .LS_BUS_STATE 0 = s.reg .LS_BUS_STATE 0 ∧ t.reg .LS_BUS_ERRORS 0 = s.reg .LS_BUS_ERRORS 0) ∧
      Touches (regs [.iMSIX_EN, .iMSIX_ADDR, .iMSIX_DATA, .iMSIX_MASK, .iMSIX_PEND, .iLATCH, .iACC_STATUS, .iACC_ID,
          .iF2_BM, .PCI_LINK,
        .iSTR_WAIT, .LS_BUS_STATE, .iLS_CAUSE, .iLS_LACE, .iLS_ADDR, .LS_BUS_ERRORS]) s t) ∧
  -- R398, R428. The link comes up with a generation, which is not 0, and a width.
  (∀ (gen : Fin 16) (width : Fin 64) (f2 : Bool) (s : State),
    if gen.val = 0 then exec (.pcieLinkUp gen width f2) s = .next s
    else
      ∃ t, exec (.pcieLinkUp gen width f2) s = .next t ∧ Touches (regs [.iF2_BM, .PCI_LINK]) s t ∧
        bits (t.reg .PCI_LINK 0) 3 0 = gen.val ∧ t.reg .PCI_LINK 0 / 16 = width.val ∧ t.reg .iF2_BM 0 = b2n f2) ∧
  -- R395, R402, R483. The host enables or disables MSI-X, or writes the enabled bytes of one dword of the table:
  -- the address, data or mask of its vector, and of no other. Then every vector that waits and is free to go sends
  -- its message, once, and the others keep their pending bits.
  (∀ (op : MsixOp) (s : State),
    ∃ t, exec (.msixEnable op) s = .next t ∧ Touches Changes.msixEnable s t ∧
      let goes (v : Nat) : Bool := s.reg .iMSIX_PEND v == 1 && t.reg .iMSIX_EN 0 == 1 && t.reg .iMSIX_MASK v == 0
      t.sent = ((List.range 2048).filter goes).map (fun v => .msix v (t.reg .iMSIX_ADDR v) (t.reg .iMSIX_DATA v)) ∧
      (∀ v, v < 2048 → t.reg .iMSIX_PEND v = if goes v then 0 else s.reg .iMSIX_PEND v) ∧
      match op with
      | .enable on => t.reg .iMSIX_EN 0 = b2n on ∧ Touches (regs [.iMSIX_EN, .iMSIX_PEND] ++ flds [.sent]) s t
      | .table dword be v => t.reg .iMSIX_EN 0 = s.reg .iMSIX_EN 0 ∧
          OnlyAt s t [.iMSIX_ADDR, .iMSIX_DATA, .iMSIX_MASK] (dword.val / 4) ∧
          (∀ d, d / 4 = dword.val / 4 → d ≠ dword.val → t.msixDword d = s.msixDword d) ∧
          (dword.val % 4 ≠ 3 → t.msixDword dword.val = mergeBytes (s.msixDword dword.val) be.toNat v.toNat) ∧
          (dword.val % 4 = 3 → t.msixDword dword.val =
            (if bit be.toNat 0 = true then v.toNat else s.msixDword dword.val) % 2)) ∧
  -- R489 to R491, R496. Only after a reset or in a warm restart the firmware comes to run. Without a valid image
  -- Flaed is in RECOVERY. After a warm restart the requests held meanwhile are performed last.
  (∀ (version : BitVec 32) (k : BitVec 80) (failed : BitVec 16) (s : State),
    if s.reg .iPHASE 0 ≠ 0 ∧ s.reg .iPHASE 0 ≠ 3 then exec (.firmwareRunning version k failed) s = .next s
    else if s.reg .iBOOT_IMAGE 0 = 0xFF then
      ∃ t, exec (.firmwareRunning version k failed) s = .next t ∧
        Touches [.keys, .anyReg, .mem, .keeper, .time, .anyFld] s t ∧
        InRecovery t ∧ Touches (regs [.SO_OUT_STATE, .iPHASE, .iG_RUN, .FW_RUNNING, .FW_STATE, .FW_VERSION,
            .iWL_SINCE, .WL_LANE_STATE, .iWL_PH, .iWL_CTX, .iWL_BUSY] ++ flds [.requeued, .tileQueue, .held, .draws,
            .msgBlocks, .grants, .highReqs, .normalReqs]) (s.send []) t
    else if s.reg .iPHASE 0 = 0 then
      ∃ t, exec (.firmwareRunning version k failed) s = .next t ∧
        Touches [.keys, .anyReg, .mem, .keeper, .time, .anyFld] s t ∧
        FirstRunning s t version k failed
    else
      ∃ t, exec (.firmwareRunning version k failed) s = .next t ∧
        Touches [.keys, .anyReg, .mem, .keeper, .time, .anyFld] s t ∧
        ∃ u, RunningAgain s u ∧ u.heldRequests = s.heldRequests ∧ t = u.performHeld) ∧
  -- R493. 1,000 ms after RUNNING the start-up of a surface still dark is over: it lights at its next boundary.
  (∀ (surf : Surface) (s : State),
    if s.reg .iSTARTUP surf.val = 1 ∧ s.reg .iRUN_AT 0 + 1000000000 ≤ s.clock then
      ∃ t, exec (.startupDarkLimit surf) s = .next t ∧ Touches (regs [.iSTARTUP_OVER]) s t ∧
        t.reg .iSTARTUP_OVER surf.val = 1 ∧ OnlyAt s t [.iSTARTUP_OVER] surf.val
    else exec (.startupDarkLimit surf) s = .next s)
end

