-- ==== Sys2Proof/Laws/Sparse.lean ====
section
/-! SUPPORT. Laws of sparse maps: reading after writing, and that writing keeps the canonical form. -/
namespace Sys2Proof.Machine
namespace Sparse

variable {α : Type}

@[simp] theorem get_nil (d : Nat → α) (k : Nat) : get d [] k = d k := rfl

theorem get_cons (d : Nat → α) (k' : Nat) (v : α) (m : List (Nat × α)) (k : Nat) :
    get d ((k', v) :: m) k = if k' = k then v else get d m k := rfl

/-- An erased key reads as the default; every other key reads as before. -/
theorem get_erase (d : Nat → α) (m : List (Nat × α)) (j k : Nat) :
    get d (erase m j) k = if j = k then d k else get d m k := by
  induction m with
  | nil => simp [erase]
  | cons e m ih =>
    obtain ⟨a, v⟩ := e
    simp only [erase]
    split
    · next h => subst h; simp only [ih, get_cons]; split <;> rfl
    · next h =>
      simp only [get_cons, ih]
      split
      · next h2 => subst h2; simp [Ne.symm h]
      · rfl

/-- Inserting a key that the map does not list. -/
theorem get_insert (d : Nat → α) (m : List (Nat × α)) (j : Nat) (v : α) (k : Nat)
    (h : ∀ e ∈ m, e.1 ≠ j) : get d (insert m j v) k = if j = k then v else get d m k := by
  induction m with
  | nil => simp [insert, get_cons]
  | cons e m ih =>
    obtain ⟨a, w⟩ := e
    have ha : a ≠ j := h (a, w) (by simp)
    simp only [insert]
    split
    · rfl
    · simp only [get_cons, ih (fun e he => h e (by simp [he]))]
      split
      · next h2 => subst h2; simp [Ne.symm ha]
      · rfl

theorem mem_erase {m : List (Nat × α)} {j : Nat} {e : Nat × α} (h : e ∈ erase m j) : e ∈ m ∧ e.1 ≠ j := by
  induction m with
  | nil => simp [erase] at h
  | cons x m ih =>
    obtain ⟨a, w⟩ := x
    simp only [erase] at h
    split at h
    · next h1 => obtain ⟨p, q⟩ := ih h; exact ⟨by simp [p], q⟩
    · next h1 =>
      rcases List.mem_cons.1 h with rfl | h2
      · exact ⟨by simp, h1⟩
      · obtain ⟨p, q⟩ := ih h2; exact ⟨by simp [p], q⟩

theorem mem_insert {m : List (Nat × α)} {j : Nat} {v : α} {e : Nat × α} (h : e ∈ insert m j v) :
    e = (j, v) ∨ e ∈ m := by
  induction m with
  | nil => simpa [insert] using h
  | cons x m ih =>
    obtain ⟨a, w⟩ := x
    simp only [insert] at h
    split at h
    · simpa using h
    · rcases List.mem_cons.1 h with rfl | h2
      · simp
      · rcases ih h2 with h3 | h3 <;> simp [h3]

/-- Reading after writing: the key written reads the value, every other key reads as before. -/
theorem get_set [DecidableEq α] (d : Nat → α) (m : List (Nat × α)) (j : Nat) (v : α) (k : Nat) :
    get d (set d m j v) k = if j = k then v else get d m k := by
  unfold set
  split
  · next h => rw [get_erase]; split <;> simp_all
  · rw [get_insert _ _ _ _ _ (fun e he => (mem_erase he).2), get_erase]
    split <;> rfl

@[simp] theorem get_set_self [DecidableEq α] (d : Nat → α) (m : List (Nat × α)) (k : Nat) (v : α) :
    get d (set d m k v) k = v := by simp [get_set]

theorem get_set_ne [DecidableEq α] (d : Nat → α) (m : List (Nat × α)) {j k : Nat} (v : α) (h : j ≠ k) :
    get d (set d m j v) k = get d m k := by simp [get_set, h]

theorem sortedFrom_mono {m : List (Nat × α)} {a b : Nat} (h : sortedFrom b m = true) (hab : a ≤ b) :
    sortedFrom a m = true := by
  cases m with
  | nil => rfl
  | cons e m =>
    obtain ⟨k, v⟩ := e
    simp only [sortedFrom, Bool.and_eq_true, decide_eq_true_eq] at h ⊢
    exact ⟨by omega, h.2⟩

theorem sortedFrom_erase {m : List (Nat × α)} {a : Nat} (j : Nat) (h : sortedFrom a m = true) :
    sortedFrom a (erase m j) = true := by
  induction m generalizing a with
  | nil => rfl
  | cons e m ih =>
    obtain ⟨k, v⟩ := e
    simp only [sortedFrom, Bool.and_eq_true, decide_eq_true_eq] at h
    simp only [erase]
    split
    · exact sortedFrom_mono (ih h.2) (by omega)
    · simp [sortedFrom, h.1, ih h.2]

theorem sortedFrom_insert {m : List (Nat × α)} {a : Nat} {j : Nat} (v : α) (h : sortedFrom a m = true)
    (hj : a ≤ j) (hm : ∀ e ∈ m, e.1 ≠ j) : sortedFrom a (insert m j v) = true := by
  induction m generalizing a with
  | nil => simpa [insert, sortedFrom] using hj
  | cons e m ih =>
    obtain ⟨k, w⟩ := e
    have hk : k ≠ j := hm (k, w) (by simp)
    simp only [sortedFrom, Bool.and_eq_true, decide_eq_true_eq] at h
    simp only [insert]
    split
    · simp [sortedFrom, h.2]; omega
    · simp only [sortedFrom, Bool.and_eq_true, decide_eq_true_eq]
      exact ⟨h.1, ih h.2 (by omega) (fun e he => hm e (by simp [he]))⟩

/-- Writing keeps the canonical form. -/
theorem wf_set [DecidableEq α] {d : Nat → α} {m : List (Nat × α)} (k : Nat) (v : α) (h : wf d m = true) :
    wf d (set d m k v) = true := by
  simp only [wf, noDefaults, Bool.and_eq_true, List.all_eq_true] at h ⊢
  unfold set
  split
  · exact ⟨sortedFrom_erase k h.1, fun e he => h.2 e (mem_erase he).1⟩
  · next hv =>
    refine ⟨sortedFrom_insert v (sortedFrom_erase k h.1) (Nat.zero_le _) (fun e he => (mem_erase he).2), ?_⟩
    intro e he
    rcases mem_insert he with rfl | he
    · simpa using hv
    · exact h.2 e (mem_erase he).1

/-- Leaving out entries keeps the canonical form. -/
theorem wf_filter [DecidableEq α] {d : Nat → α} {m : List (Nat × α)} (p : Nat × α → Bool)
    (h : wf d m = true) : wf d (m.filter p) = true := by
  simp only [wf, noDefaults, Bool.and_eq_true, List.all_eq_true] at h ⊢
  refine ⟨?_, fun e he => h.2 e (List.mem_filter.1 he).1⟩
  have key : ∀ (m : List (Nat × α)) (a : Nat), sortedFrom a m = true → sortedFrom a (m.filter p) = true := by
    intro m
    induction m with
    | nil => intro a _; rfl
    | cons e m ih =>
      intro a hs
      obtain ⟨k, w⟩ := e
      simp only [sortedFrom, Bool.and_eq_true, decide_eq_true_eq] at hs
      rw [List.filter_cons]
      split
      · simp [sortedFrom, hs.1, ih _ hs.2]
      · exact sortedFrom_mono (ih _ hs.2) (by omega)
  exact key m 0 h.1

end Sparse
end Sys2Proof.Machine
end

