-- ==== Sys2Proof/Laws/State.lean ====
section
/-! SUPPORT. Laws of State: registers read after they are written, and what each update of one field leaves
as it was. -/
namespace Sys2Proof.Machine

/-! ## Registers -/

theorem Reg.ctorIdx_lt (r : Reg) : r.ctorIdx < 1024 := by cases r <;> decide

theorem Reg.ctorIdx_inj {r q : Reg} (h : r.ctorIdx = q.ctorIdx) : r = q := by
  rw [← Reg.ofNat_ctorIdx r, ← Reg.ofNat_ctorIdx q, h]

/-- Two instances of registers share a key only if they are the same. -/
theorem regKey_inj {r q : Reg} {i j : Nat} (h : regKey r i = regKey q j) : r = q ∧ i = j := by
  have h1 := r.ctorIdx_lt
  have h2 := q.ctorIdx_lt
  unfold regKey at h
  exact ⟨Reg.ctorIdx_inj (by omega), by omega⟩

/-- Reading after writing a register. -/
theorem State.reg_setReg (s : State) (r q : Reg) (i j v : Nat) :
    (s.setReg r i v).reg q j = if r = q ∧ i = j then v % 2 ^ r.width else s.reg q j := by
  unfold State.reg State.setReg
  simp only [Sparse.get_set]
  by_cases h : r = q ∧ i = j
  · obtain ⟨rfl, rfl⟩ := h; simp
  · rw [if_neg (fun hk => h (regKey_inj hk)), if_neg h]

/-- A register holds no more than its width. -/
theorem State.reg_lt (s : State) (r : Reg) (i : Nat) : s.reg r i < 2 ^ r.width :=
  Nat.mod_lt _ (Nat.two_pow_pos _)

@[simp] theorem State.reg_mod (s : State) (r : Reg) (i : Nat) : s.reg r i % 2 ^ r.width = s.reg r i :=
  Nat.mod_eq_of_lt (s.reg_lt r i)

@[simp] theorem State.setReg_reg_self (s : State) (r : Reg) (i v : Nat) :
    (s.setReg r i v).reg r i = v % 2 ^ r.width := by simp [State.reg_setReg]

@[simp] theorem State.setReg_reg_of_ne (s : State) {r q : Reg} (i j v : Nat) (h : r ≠ q) :
    (s.setReg r i v).reg q j = s.reg q j := by simp [State.reg_setReg, h]

@[simp] theorem State.setReg_reg_of_ix_ne (s : State) (r q : Reg) {i j : Nat} (v : Nat) (h : i ≠ j) :
    (s.setReg r i v).reg q j = s.reg q j := by simp [State.reg_setReg, h]

@[simp] theorem State.reg_pending (s : State) (p : List Instr) (r : Reg) (i : Nat) :
    State.reg { s with pending := p } r i = s.reg r i := rfl

/-- Writing a register keeps the canonical form of the register map. -/
theorem State.setReg_wf (s : State) (r : Reg) (i v : Nat) (h : Sparse.wf keyDefault s.regs = true) :
    Sparse.wf keyDefault (s.setReg r i v).regs = true := Sparse.wf_set _ _ h

/-- In the state right after reset every register holds its reset value. -/
theorem State.reg_reset (r : Reg) (i : Nat) : State.reset.reg r i = regDefault r i % 2 ^ r.width := by
  have h := r.ctorIdx_lt
  show keyDefault (regKey r i) % 2 ^ r.width = regDefault r i % 2 ^ r.width
  unfold keyDefault regKey
  rw [show (i * 1024 + r.ctorIdx) % 1024 = r.ctorIdx by omega, show (i * 1024 + r.ctorIdx) / 1024 = i by omega,
    Reg.ofNat_ctorIdx]

/-! ## Writing a register changes no other field -/

@[simp] theorem State.setReg_pending (s : State) (r : Reg) (i v : Nat) : (s.setReg r i v).pending = s.pending := rfl
@[simp] theorem State.setReg_status (s : State) (r : Reg) (i v : Nat) : (s.setReg r i v).status = s.status := rfl
@[simp] theorem State.setReg_value (s : State) (r : Reg) (i v : Nat) : (s.setReg r i v).value = s.value := rfl
@[simp] theorem State.setReg_sent (s : State) (r : Reg) (i v : Nat) : (s.setReg r i v).sent = s.sent := rfl
@[simp] theorem State.setReg_tb (s : State) (r : Reg) (i v : Nat) : (s.setReg r i v).tb = s.tb := rfl
@[simp] theorem State.setReg_local_ (s : State) (r : Reg) (i v : Nat) : (s.setReg r i v).local_ = s.local_ := rfl
@[simp] theorem State.setReg_mem (s : State) (r : Reg) (i v : Nat) : (s.setReg r i v).mem = s.mem := rfl
@[simp] theorem State.setReg_poison (s : State) (r : Reg) (i v : Nat) : (s.setReg r i v).poison = s.poison := rfl
@[simp] theorem State.setReg_rowsAhead (s : State) (r : Reg) (i v : Nat) : (s.setReg r i v).rowsAhead = s.rowsAhead := rfl
@[simp] theorem State.setReg_writeBacks (s : State) (r : Reg) (i v : Nat) : (s.setReg r i v).writeBacks = s.writeBacks := rfl
@[simp] theorem State.setReg_answer (s : State) (r : Reg) (i v : Nat) : (s.setReg r i v).answer = s.answer := rfl
@[simp] theorem State.setReg_waits (s : State) (r : Reg) (i v : Nat) : (s.setReg r i v).waits = s.waits := rfl
@[simp] theorem State.setReg_traffic (s : State) (r : Reg) (i v : Nat) : (s.setReg r i v).traffic = s.traffic := rfl
@[simp] theorem State.setReg_freezeLog (s : State) (r : Reg) (i v : Nat) : (s.setReg r i v).freezeLog = s.freezeLog := rfl
@[simp] theorem State.setReg_poisonLog (s : State) (r : Reg) (i v : Nat) : (s.setReg r i v).poisonLog = s.poisonLog := rfl
@[simp] theorem State.setReg_evLog (s : State) (r : Reg) (i v : Nat) : (s.setReg r i v).evLog = s.evLog := rfl
@[simp] theorem State.setReg_queues (s : State) (r : Reg) (i v : Nat) : (s.setReg r i v).queues = s.queues := rfl
@[simp] theorem State.setReg_highReqs (s : State) (r : Reg) (i v : Nat) : (s.setReg r i v).highReqs = s.highReqs := rfl
@[simp] theorem State.setReg_normalReqs (s : State) (r : Reg) (i v : Nat) : (s.setReg r i v).normalReqs = s.normalReqs := rfl
@[simp] theorem State.setReg_grants (s : State) (r : Reg) (i v : Nat) : (s.setReg r i v).grants = s.grants := rfl
@[simp] theorem State.setReg_requeued (s : State) (r : Reg) (i v : Nat) : (s.setReg r i v).requeued = s.requeued := rfl
@[simp] theorem State.setReg_tileQueue (s : State) (r : Reg) (i v : Nat) : (s.setReg r i v).tileQueue = s.tileQueue := rfl
@[simp] theorem State.setReg_held (s : State) (r : Reg) (i v : Nat) : (s.setReg r i v).held = s.held := rfl
@[simp] theorem State.setReg_ring (s : State) (r : Reg) (i v : Nat) : (s.setReg r i v).ring = s.ring := rfl
@[simp] theorem State.setReg_luts (s : State) (r : Reg) (i v : Nat) : (s.setReg r i v).luts = s.luts := rfl
@[simp] theorem State.setReg_lutShadow (s : State) (r : Reg) (i v : Nat) : (s.setReg r i v).lutShadow = s.lutShadow := rfl
@[simp] theorem State.setReg_staged (s : State) (r : Reg) (i v : Nat) : (s.setReg r i v).staged = s.staged := rfl
@[simp] theorem State.setReg_commits (s : State) (r : Reg) (i v : Nat) : (s.setReg r i v).commits = s.commits := rfl
@[simp] theorem State.setReg_accepted (s : State) (r : Reg) (i v : Nat) : (s.setReg r i v).accepted = s.accepted := rfl
@[simp] theorem State.setReg_ingest (s : State) (r : Reg) (i v : Nat) : (s.setReg r i v).ingest = s.ingest := rfl
@[simp] theorem State.setReg_ingestRefs (s : State) (r : Reg) (i v : Nat) : (s.setReg r i v).ingestRefs = s.ingestRefs := rfl
@[simp] theorem State.setReg_replay (s : State) (r : Reg) (i v : Nat) : (s.setReg r i v).replay = s.replay := rfl
@[simp] theorem State.setReg_frameA (s : State) (r : Reg) (i v : Nat) : (s.setReg r i v).frameA = s.frameA := rfl
@[simp] theorem State.setReg_frameB (s : State) (r : Reg) (i v : Nat) : (s.setReg r i v).frameB = s.frameB := rfl
@[simp] theorem State.setReg_awaiting (s : State) (r : Reg) (i v : Nat) : (s.setReg r i v).awaiting = s.awaiting := rfl
@[simp] theorem State.setReg_historyA (s : State) (r : Reg) (i v : Nat) : (s.setReg r i v).historyA = s.historyA := rfl
@[simp] theorem State.setReg_historyB (s : State) (r : Reg) (i v : Nat) : (s.setReg r i v).historyB = s.historyB := rfl
@[simp] theorem State.setReg_taps (s : State) (r : Reg) (i v : Nat) : (s.setReg r i v).taps = s.taps := rfl
@[simp] theorem State.setReg_rejected (s : State) (r : Reg) (i v : Nat) : (s.setReg r i v).rejected = s.rejected := rfl
@[simp] theorem State.setReg_deliveries (s : State) (r : Reg) (i v : Nat) : (s.setReg r i v).deliveries = s.deliveries := rfl
@[simp] theorem State.setReg_moves (s : State) (r : Reg) (i v : Nat) : (s.setReg r i v).moves = s.moves := rfl
@[simp] theorem State.setReg_fwd (s : State) (r : Reg) (i v : Nat) : (s.setReg r i v).fwd = s.fwd := rfl
@[simp] theorem State.setReg_seqs (s : State) (r : Reg) (i v : Nat) : (s.setReg r i v).seqs = s.seqs := rfl
@[simp] theorem State.setReg_crcWindow (s : State) (r : Reg) (i v : Nat) : (s.setReg r i v).crcWindow = s.crcWindow := rfl
@[simp] theorem State.setReg_retrains (s : State) (r : Reg) (i v : Nat) : (s.setReg r i v).retrains = s.retrains := rfl
@[simp] theorem State.setReg_keepPending (s : State) (r : Reg) (i v : Nat) : (s.setReg r i v).keepPending = s.keepPending := rfl
@[simp] theorem State.setReg_keeper (s : State) (r : Reg) (i v : Nat) : (s.setReg r i v).keeper = s.keeper := rfl
@[simp] theorem State.setReg_keeperBad (s : State) (r : Reg) (i v : Nat) : (s.setReg r i v).keeperBad = s.keeperBad := rfl
@[simp] theorem State.setReg_keeperTorn (s : State) (r : Reg) (i v : Nat) : (s.setReg r i v).keeperTorn = s.keeperTorn := rfl
@[simp] theorem State.setReg_keeperQueue (s : State) (r : Reg) (i v : Nat) : (s.setReg r i v).keeperQueue = s.keeperQueue := rfl
@[simp] theorem State.setReg_keeperBusy (s : State) (r : Reg) (i v : Nat) : (s.setReg r i v).keeperBusy = s.keeperBusy := rfl
@[simp] theorem State.setReg_records (s : State) (r : Reg) (i v : Nat) : (s.setReg r i v).records = s.records := rfl
@[simp] theorem State.setReg_triPending (s : State) (r : Reg) (i v : Nat) : (s.setReg r i v).triPending = s.triPending := rfl
@[simp] theorem State.setReg_keepDeferred (s : State) (r : Reg) (i v : Nat) : (s.setReg r i v).keepDeferred = s.keepDeferred := rfl
@[simp] theorem State.setReg_badLog (s : State) (r : Reg) (i v : Nat) : (s.setReg r i v).badLog = s.badLog := rfl
@[simp] theorem State.setReg_egress (s : State) (r : Reg) (i v : Nat) : (s.setReg r i v).egress = s.egress := rfl
@[simp] theorem State.setReg_rxq (s : State) (r : Reg) (i v : Nat) : (s.setReg r i v).rxq = s.rxq := rfl
@[simp] theorem State.setReg_macs (s : State) (r : Reg) (i v : Nat) : (s.setReg r i v).macs = s.macs := rfl
@[simp] theorem State.setReg_laceBytes (s : State) (r : Reg) (i v : Nat) : (s.setReg r i v).laceBytes = s.laceBytes := rfl
@[simp] theorem State.setReg_foreign (s : State) (r : Reg) (i v : Nat) : (s.setReg r i v).foreign = s.foreign := rfl
@[simp] theorem State.setReg_rates (s : State) (r : Reg) (i v : Nat) : (s.setReg r i v).rates = s.rates := rfl
@[simp] theorem State.setReg_caps (s : State) (r : Reg) (i v : Nat) : (s.setReg r i v).caps = s.caps := rfl
@[simp] theorem State.setReg_eyeEdges (s : State) (r : Reg) (i v : Nat) : (s.setReg r i v).eyeEdges = s.eyeEdges := rfl
@[simp] theorem State.setReg_keys (s : State) (r : Reg) (i v : Nat) : (s.setReg r i v).keys = s.keys := rfl
@[simp] theorem State.setReg_responses (s : State) (r : Reg) (i v : Nat) : (s.setReg r i v).responses = s.responses := rfl
@[simp] theorem State.setReg_heldRequests (s : State) (r : Reg) (i v : Nat) : (s.setReg r i v).heldRequests = s.heldRequests := rfl
@[simp] theorem State.setReg_disabledOwed (s : State) (r : Reg) (i v : Nat) : (s.setReg r i v).disabledOwed = s.disabledOwed := rfl
@[simp] theorem State.setReg_msgBlocks (s : State) (r : Reg) (i v : Nat) : (s.setReg r i v).msgBlocks = s.msgBlocks := rfl
@[simp] theorem State.setReg_eqReqs (s : State) (r : Reg) (i v : Nat) : (s.setReg r i v).eqReqs = s.eqReqs := rfl
@[simp] theorem State.setReg_banks (s : State) (r : Reg) (i v : Nat) : (s.setReg r i v).banks = s.banks := rfl
@[simp] theorem State.setReg_seen (s : State) (r : Reg) (i v : Nat) : (s.setReg r i v).seen = s.seen := rfl
@[simp] theorem State.setReg_draws (s : State) (r : Reg) (i v : Nat) : (s.setReg r i v).draws = s.draws := rfl

/-! ## Counting up changes no other field -/

@[simp] theorem State.bump_pending (s : State) (r : Reg) (i : Nat) : (s.bump r i).pending = s.pending := rfl
@[simp] theorem State.bump_status (s : State) (r : Reg) (i : Nat) : (s.bump r i).status = s.status := rfl
@[simp] theorem State.bump_value (s : State) (r : Reg) (i : Nat) : (s.bump r i).value = s.value := rfl
@[simp] theorem State.bump_sent (s : State) (r : Reg) (i : Nat) : (s.bump r i).sent = s.sent := rfl
@[simp] theorem State.bump_tb (s : State) (r : Reg) (i : Nat) : (s.bump r i).tb = s.tb := rfl
@[simp] theorem State.bump_local_ (s : State) (r : Reg) (i : Nat) : (s.bump r i).local_ = s.local_ := rfl
@[simp] theorem State.bump_mem (s : State) (r : Reg) (i : Nat) : (s.bump r i).mem = s.mem := rfl
@[simp] theorem State.bump_poison (s : State) (r : Reg) (i : Nat) : (s.bump r i).poison = s.poison := rfl
@[simp] theorem State.bump_rowsAhead (s : State) (r : Reg) (i : Nat) : (s.bump r i).rowsAhead = s.rowsAhead := rfl
@[simp] theorem State.bump_writeBacks (s : State) (r : Reg) (i : Nat) : (s.bump r i).writeBacks = s.writeBacks := rfl
@[simp] theorem State.bump_answer (s : State) (r : Reg) (i : Nat) : (s.bump r i).answer = s.answer := rfl
@[simp] theorem State.bump_waits (s : State) (r : Reg) (i : Nat) : (s.bump r i).waits = s.waits := rfl
@[simp] theorem State.bump_traffic (s : State) (r : Reg) (i : Nat) : (s.bump r i).traffic = s.traffic := rfl
@[simp] theorem State.bump_freezeLog (s : State) (r : Reg) (i : Nat) : (s.bump r i).freezeLog = s.freezeLog := rfl
@[simp] theorem State.bump_poisonLog (s : State) (r : Reg) (i : Nat) : (s.bump r i).poisonLog = s.poisonLog := rfl
@[simp] theorem State.bump_evLog (s : State) (r : Reg) (i : Nat) : (s.bump r i).evLog = s.evLog := rfl
@[simp] theorem State.bump_queues (s : State) (r : Reg) (i : Nat) : (s.bump r i).queues = s.queues := rfl
@[simp] theorem State.bump_highReqs (s : State) (r : Reg) (i : Nat) : (s.bump r i).highReqs = s.highReqs := rfl
@[simp] theorem State.bump_normalReqs (s : State) (r : Reg) (i : Nat) : (s.bump r i).normalReqs = s.normalReqs := rfl
@[simp] theorem State.bump_grants (s : State) (r : Reg) (i : Nat) : (s.bump r i).grants = s.grants := rfl
@[simp] theorem State.bump_requeued (s : State) (r : Reg) (i : Nat) : (s.bump r i).requeued = s.requeued := rfl
@[simp] theorem State.bump_tileQueue (s : State) (r : Reg) (i : Nat) : (s.bump r i).tileQueue = s.tileQueue := rfl
@[simp] theorem State.bump_held (s : State) (r : Reg) (i : Nat) : (s.bump r i).held = s.held := rfl
@[simp] theorem State.bump_ring (s : State) (r : Reg) (i : Nat) : (s.bump r i).ring = s.ring := rfl
@[simp] theorem State.bump_luts (s : State) (r : Reg) (i : Nat) : (s.bump r i).luts = s.luts := rfl
@[simp] theorem State.bump_lutShadow (s : State) (r : Reg) (i : Nat) : (s.bump r i).lutShadow = s.lutShadow := rfl
@[simp] theorem State.bump_staged (s : State) (r : Reg) (i : Nat) : (s.bump r i).staged = s.staged := rfl
@[simp] theorem State.bump_commits (s : State) (r : Reg) (i : Nat) : (s.bump r i).commits = s.commits := rfl
@[simp] theorem State.bump_accepted (s : State) (r : Reg) (i : Nat) : (s.bump r i).accepted = s.accepted := rfl
@[simp] theorem State.bump_ingest (s : State) (r : Reg) (i : Nat) : (s.bump r i).ingest = s.ingest := rfl
@[simp] theorem State.bump_ingestRefs (s : State) (r : Reg) (i : Nat) : (s.bump r i).ingestRefs = s.ingestRefs := rfl
@[simp] theorem State.bump_replay (s : State) (r : Reg) (i : Nat) : (s.bump r i).replay = s.replay := rfl
@[simp] theorem State.bump_frameA (s : State) (r : Reg) (i : Nat) : (s.bump r i).frameA = s.frameA := rfl
@[simp] theorem State.bump_frameB (s : State) (r : Reg) (i : Nat) : (s.bump r i).frameB = s.frameB := rfl
@[simp] theorem State.bump_awaiting (s : State) (r : Reg) (i : Nat) : (s.bump r i).awaiting = s.awaiting := rfl
@[simp] theorem State.bump_historyA (s : State) (r : Reg) (i : Nat) : (s.bump r i).historyA = s.historyA := rfl
@[simp] theorem State.bump_historyB (s : State) (r : Reg) (i : Nat) : (s.bump r i).historyB = s.historyB := rfl
@[simp] theorem State.bump_taps (s : State) (r : Reg) (i : Nat) : (s.bump r i).taps = s.taps := rfl
@[simp] theorem State.bump_rejected (s : State) (r : Reg) (i : Nat) : (s.bump r i).rejected = s.rejected := rfl
@[simp] theorem State.bump_deliveries (s : State) (r : Reg) (i : Nat) : (s.bump r i).deliveries = s.deliveries := rfl
@[simp] theorem State.bump_moves (s : State) (r : Reg) (i : Nat) : (s.bump r i).moves = s.moves := rfl
@[simp] theorem State.bump_fwd (s : State) (r : Reg) (i : Nat) : (s.bump r i).fwd = s.fwd := rfl
@[simp] theorem State.bump_seqs (s : State) (r : Reg) (i : Nat) : (s.bump r i).seqs = s.seqs := rfl
@[simp] theorem State.bump_crcWindow (s : State) (r : Reg) (i : Nat) : (s.bump r i).crcWindow = s.crcWindow := rfl
@[simp] theorem State.bump_retrains (s : State) (r : Reg) (i : Nat) : (s.bump r i).retrains = s.retrains := rfl
@[simp] theorem State.bump_keepPending (s : State) (r : Reg) (i : Nat) : (s.bump r i).keepPending = s.keepPending := rfl
@[simp] theorem State.bump_keeper (s : State) (r : Reg) (i : Nat) : (s.bump r i).keeper = s.keeper := rfl
@[simp] theorem State.bump_keeperBad (s : State) (r : Reg) (i : Nat) : (s.bump r i).keeperBad = s.keeperBad := rfl
@[simp] theorem State.bump_keeperTorn (s : State) (r : Reg) (i : Nat) : (s.bump r i).keeperTorn = s.keeperTorn := rfl
@[simp] theorem State.bump_keeperQueue (s : State) (r : Reg) (i : Nat) : (s.bump r i).keeperQueue = s.keeperQueue := rfl
@[simp] theorem State.bump_keeperBusy (s : State) (r : Reg) (i : Nat) : (s.bump r i).keeperBusy = s.keeperBusy := rfl
@[simp] theorem State.bump_records (s : State) (r : Reg) (i : Nat) : (s.bump r i).records = s.records := rfl
@[simp] theorem State.bump_triPending (s : State) (r : Reg) (i : Nat) : (s.bump r i).triPending = s.triPending := rfl
@[simp] theorem State.bump_keepDeferred (s : State) (r : Reg) (i : Nat) : (s.bump r i).keepDeferred = s.keepDeferred := rfl
@[simp] theorem State.bump_badLog (s : State) (r : Reg) (i : Nat) : (s.bump r i).badLog = s.badLog := rfl
@[simp] theorem State.bump_egress (s : State) (r : Reg) (i : Nat) : (s.bump r i).egress = s.egress := rfl
@[simp] theorem State.bump_rxq (s : State) (r : Reg) (i : Nat) : (s.bump r i).rxq = s.rxq := rfl
@[simp] theorem State.bump_macs (s : State) (r : Reg) (i : Nat) : (s.bump r i).macs = s.macs := rfl
@[simp] theorem State.bump_laceBytes (s : State) (r : Reg) (i : Nat) : (s.bump r i).laceBytes = s.laceBytes := rfl
@[simp] theorem State.bump_foreign (s : State) (r : Reg) (i : Nat) : (s.bump r i).foreign = s.foreign := rfl
@[simp] theorem State.bump_rates (s : State) (r : Reg) (i : Nat) : (s.bump r i).rates = s.rates := rfl
@[simp] theorem State.bump_caps (s : State) (r : Reg) (i : Nat) : (s.bump r i).caps = s.caps := rfl
@[simp] theorem State.bump_eyeEdges (s : State) (r : Reg) (i : Nat) : (s.bump r i).eyeEdges = s.eyeEdges := rfl
@[simp] theorem State.bump_keys (s : State) (r : Reg) (i : Nat) : (s.bump r i).keys = s.keys := rfl
@[simp] theorem State.bump_responses (s : State) (r : Reg) (i : Nat) : (s.bump r i).responses = s.responses := rfl
@[simp] theorem State.bump_heldRequests (s : State) (r : Reg) (i : Nat) : (s.bump r i).heldRequests = s.heldRequests := rfl
@[simp] theorem State.bump_disabledOwed (s : State) (r : Reg) (i : Nat) : (s.bump r i).disabledOwed = s.disabledOwed := rfl
@[simp] theorem State.bump_msgBlocks (s : State) (r : Reg) (i : Nat) : (s.bump r i).msgBlocks = s.msgBlocks := rfl
@[simp] theorem State.bump_eqReqs (s : State) (r : Reg) (i : Nat) : (s.bump r i).eqReqs = s.eqReqs := rfl
@[simp] theorem State.bump_banks (s : State) (r : Reg) (i : Nat) : (s.bump r i).banks = s.banks := rfl
@[simp] theorem State.bump_seen (s : State) (r : Reg) (i : Nat) : (s.bump r i).seen = s.seen := rfl
@[simp] theorem State.bump_draws (s : State) (r : Reg) (i : Nat) : (s.bump r i).draws = s.draws := rfl

/-! ## A status changes no other field -/

@[simp] theorem State.setStatus_pending (s : State) (c : Nat) : (s.setStatus c).pending = s.pending := rfl
@[simp] theorem State.setStatus_regs (s : State) (c : Nat) : (s.setStatus c).regs = s.regs := rfl
@[simp] theorem State.setStatus_value (s : State) (c : Nat) : (s.setStatus c).value = s.value := rfl
@[simp] theorem State.setStatus_sent (s : State) (c : Nat) : (s.setStatus c).sent = s.sent := rfl
@[simp] theorem State.setStatus_tb (s : State) (c : Nat) : (s.setStatus c).tb = s.tb := rfl
@[simp] theorem State.setStatus_local_ (s : State) (c : Nat) : (s.setStatus c).local_ = s.local_ := rfl
@[simp] theorem State.setStatus_mem (s : State) (c : Nat) : (s.setStatus c).mem = s.mem := rfl
@[simp] theorem State.setStatus_poison (s : State) (c : Nat) : (s.setStatus c).poison = s.poison := rfl
@[simp] theorem State.setStatus_rowsAhead (s : State) (c : Nat) : (s.setStatus c).rowsAhead = s.rowsAhead := rfl
@[simp] theorem State.setStatus_writeBacks (s : State) (c : Nat) : (s.setStatus c).writeBacks = s.writeBacks := rfl
@[simp] theorem State.setStatus_answer (s : State) (c : Nat) : (s.setStatus c).answer = s.answer := rfl
@[simp] theorem State.setStatus_waits (s : State) (c : Nat) : (s.setStatus c).waits = s.waits := rfl
@[simp] theorem State.setStatus_traffic (s : State) (c : Nat) : (s.setStatus c).traffic = s.traffic := rfl
@[simp] theorem State.setStatus_freezeLog (s : State) (c : Nat) : (s.setStatus c).freezeLog = s.freezeLog := rfl
@[simp] theorem State.setStatus_poisonLog (s : State) (c : Nat) : (s.setStatus c).poisonLog = s.poisonLog := rfl
@[simp] theorem State.setStatus_evLog (s : State) (c : Nat) : (s.setStatus c).evLog = s.evLog := rfl
@[simp] theorem State.setStatus_queues (s : State) (c : Nat) : (s.setStatus c).queues = s.queues := rfl
@[simp] theorem State.setStatus_highReqs (s : State) (c : Nat) : (s.setStatus c).highReqs = s.highReqs := rfl
@[simp] theorem State.setStatus_normalReqs (s : State) (c : Nat) : (s.setStatus c).normalReqs = s.normalReqs := rfl
@[simp] theorem State.setStatus_grants (s : State) (c : Nat) : (s.setStatus c).grants = s.grants := rfl
@[simp] theorem State.setStatus_requeued (s : State) (c : Nat) : (s.setStatus c).requeued = s.requeued := rfl
@[simp] theorem State.setStatus_tileQueue (s : State) (c : Nat) : (s.setStatus c).tileQueue = s.tileQueue := rfl
@[simp] theorem State.setStatus_held (s : State) (c : Nat) : (s.setStatus c).held = s.held := rfl
@[simp] theorem State.setStatus_ring (s : State) (c : Nat) : (s.setStatus c).ring = s.ring := rfl
@[simp] theorem State.setStatus_luts (s : State) (c : Nat) : (s.setStatus c).luts = s.luts := rfl
@[simp] theorem State.setStatus_lutShadow (s : State) (c : Nat) : (s.setStatus c).lutShadow = s.lutShadow := rfl
@[simp] theorem State.setStatus_staged (s : State) (c : Nat) : (s.setStatus c).staged = s.staged := rfl
@[simp] theorem State.setStatus_commits (s : State) (c : Nat) : (s.setStatus c).commits = s.commits := rfl
@[simp] theorem State.setStatus_accepted (s : State) (c : Nat) : (s.setStatus c).accepted = s.accepted := rfl
@[simp] theorem State.setStatus_ingest (s : State) (c : Nat) : (s.setStatus c).ingest = s.ingest := rfl
@[simp] theorem State.setStatus_ingestRefs (s : State) (c : Nat) : (s.setStatus c).ingestRefs = s.ingestRefs := rfl
@[simp] theorem State.setStatus_replay (s : State) (c : Nat) : (s.setStatus c).replay = s.replay := rfl
@[simp] theorem State.setStatus_frameA (s : State) (c : Nat) : (s.setStatus c).frameA = s.frameA := rfl
@[simp] theorem State.setStatus_frameB (s : State) (c : Nat) : (s.setStatus c).frameB = s.frameB := rfl
@[simp] theorem State.setStatus_awaiting (s : State) (c : Nat) : (s.setStatus c).awaiting = s.awaiting := rfl
@[simp] theorem State.setStatus_historyA (s : State) (c : Nat) : (s.setStatus c).historyA = s.historyA := rfl
@[simp] theorem State.setStatus_historyB (s : State) (c : Nat) : (s.setStatus c).historyB = s.historyB := rfl
@[simp] theorem State.setStatus_taps (s : State) (c : Nat) : (s.setStatus c).taps = s.taps := rfl
@[simp] theorem State.setStatus_rejected (s : State) (c : Nat) : (s.setStatus c).rejected = s.rejected := rfl
@[simp] theorem State.setStatus_deliveries (s : State) (c : Nat) : (s.setStatus c).deliveries = s.deliveries := rfl
@[simp] theorem State.setStatus_moves (s : State) (c : Nat) : (s.setStatus c).moves = s.moves := rfl
@[simp] theorem State.setStatus_fwd (s : State) (c : Nat) : (s.setStatus c).fwd = s.fwd := rfl
@[simp] theorem State.setStatus_seqs (s : State) (c : Nat) : (s.setStatus c).seqs = s.seqs := rfl
@[simp] theorem State.setStatus_crcWindow (s : State) (c : Nat) : (s.setStatus c).crcWindow = s.crcWindow := rfl
@[simp] theorem State.setStatus_retrains (s : State) (c : Nat) : (s.setStatus c).retrains = s.retrains := rfl
@[simp] theorem State.setStatus_keepPending (s : State) (c : Nat) : (s.setStatus c).keepPending = s.keepPending := rfl
@[simp] theorem State.setStatus_keeper (s : State) (c : Nat) : (s.setStatus c).keeper = s.keeper := rfl
@[simp] theorem State.setStatus_keeperBad (s : State) (c : Nat) : (s.setStatus c).keeperBad = s.keeperBad := rfl
@[simp] theorem State.setStatus_keeperTorn (s : State) (c : Nat) : (s.setStatus c).keeperTorn = s.keeperTorn := rfl
@[simp] theorem State.setStatus_keeperQueue (s : State) (c : Nat) : (s.setStatus c).keeperQueue = s.keeperQueue := rfl
@[simp] theorem State.setStatus_keeperBusy (s : State) (c : Nat) : (s.setStatus c).keeperBusy = s.keeperBusy := rfl
@[simp] theorem State.setStatus_records (s : State) (c : Nat) : (s.setStatus c).records = s.records := rfl
@[simp] theorem State.setStatus_triPending (s : State) (c : Nat) : (s.setStatus c).triPending = s.triPending := rfl
@[simp] theorem State.setStatus_keepDeferred (s : State) (c : Nat) : (s.setStatus c).keepDeferred = s.keepDeferred := rfl
@[simp] theorem State.setStatus_badLog (s : State) (c : Nat) : (s.setStatus c).badLog = s.badLog := rfl
@[simp] theorem State.setStatus_egress (s : State) (c : Nat) : (s.setStatus c).egress = s.egress := rfl
@[simp] theorem State.setStatus_rxq (s : State) (c : Nat) : (s.setStatus c).rxq = s.rxq := rfl
@[simp] theorem State.setStatus_macs (s : State) (c : Nat) : (s.setStatus c).macs = s.macs := rfl
@[simp] theorem State.setStatus_laceBytes (s : State) (c : Nat) : (s.setStatus c).laceBytes = s.laceBytes := rfl
@[simp] theorem State.setStatus_foreign (s : State) (c : Nat) : (s.setStatus c).foreign = s.foreign := rfl
@[simp] theorem State.setStatus_rates (s : State) (c : Nat) : (s.setStatus c).rates = s.rates := rfl
@[simp] theorem State.setStatus_caps (s : State) (c : Nat) : (s.setStatus c).caps = s.caps := rfl
@[simp] theorem State.setStatus_eyeEdges (s : State) (c : Nat) : (s.setStatus c).eyeEdges = s.eyeEdges := rfl
@[simp] theorem State.setStatus_keys (s : State) (c : Nat) : (s.setStatus c).keys = s.keys := rfl
@[simp] theorem State.setStatus_responses (s : State) (c : Nat) : (s.setStatus c).responses = s.responses := rfl
@[simp] theorem State.setStatus_heldRequests (s : State) (c : Nat) : (s.setStatus c).heldRequests = s.heldRequests := rfl
@[simp] theorem State.setStatus_disabledOwed (s : State) (c : Nat) : (s.setStatus c).disabledOwed = s.disabledOwed := rfl
@[simp] theorem State.setStatus_msgBlocks (s : State) (c : Nat) : (s.setStatus c).msgBlocks = s.msgBlocks := rfl
@[simp] theorem State.setStatus_eqReqs (s : State) (c : Nat) : (s.setStatus c).eqReqs = s.eqReqs := rfl
@[simp] theorem State.setStatus_banks (s : State) (c : Nat) : (s.setStatus c).banks = s.banks := rfl
@[simp] theorem State.setStatus_seen (s : State) (c : Nat) : (s.setStatus c).seen = s.seen := rfl
@[simp] theorem State.setStatus_draws (s : State) (c : Nat) : (s.setStatus c).draws = s.draws := rfl
@[simp] theorem State.setStatus_reg (s : State) (c : Nat) (q : Reg) (j : Nat) : (s.setStatus c).reg q j = s.reg q j := rfl
@[simp] theorem State.setStatus_status (s : State) (c : Nat) : (s.setStatus c).status = c := rfl

/-! ## Sending changes no other field -/

@[simp] theorem State.send_pending (s : State) (m : List OutMsg) : (s.send m).pending = s.pending := rfl
@[simp] theorem State.send_regs (s : State) (m : List OutMsg) : (s.send m).regs = s.regs := rfl
@[simp] theorem State.send_status (s : State) (m : List OutMsg) : (s.send m).status = s.status := rfl
@[simp] theorem State.send_value (s : State) (m : List OutMsg) : (s.send m).value = s.value := rfl
@[simp] theorem State.send_tb (s : State) (m : List OutMsg) : (s.send m).tb = s.tb := rfl
@[simp] theorem State.send_local_ (s : State) (m : List OutMsg) : (s.send m).local_ = s.local_ := rfl
@[simp] theorem State.send_mem (s : State) (m : List OutMsg) : (s.send m).mem = s.mem := rfl
@[simp] theorem State.send_poison (s : State) (m : List OutMsg) : (s.send m).poison = s.poison := rfl
@[simp] theorem State.send_rowsAhead (s : State) (m : List OutMsg) : (s.send m).rowsAhead = s.rowsAhead := rfl
@[simp] theorem State.send_writeBacks (s : State) (m : List OutMsg) : (s.send m).writeBacks = s.writeBacks := rfl
@[simp] theorem State.send_answer (s : State) (m : List OutMsg) : (s.send m).answer = s.answer := rfl
@[simp] theorem State.send_waits (s : State) (m : List OutMsg) : (s.send m).waits = s.waits := rfl
@[simp] theorem State.send_traffic (s : State) (m : List OutMsg) : (s.send m).traffic = s.traffic := rfl
@[simp] theorem State.send_freezeLog (s : State) (m : List OutMsg) : (s.send m).freezeLog = s.freezeLog := rfl
@[simp] theorem State.send_poisonLog (s : State) (m : List OutMsg) : (s.send m).poisonLog = s.poisonLog := rfl
@[simp] theorem State.send_evLog (s : State) (m : List OutMsg) : (s.send m).evLog = s.evLog := rfl
@[simp] theorem State.send_queues (s : State) (m : List OutMsg) : (s.send m).queues = s.queues := rfl
@[simp] theorem State.send_highReqs (s : State) (m : List OutMsg) : (s.send m).highReqs = s.highReqs := rfl
@[simp] theorem State.send_normalReqs (s : State) (m : List OutMsg) : (s.send m).normalReqs = s.normalReqs := rfl
@[simp] theorem State.send_grants (s : State) (m : List OutMsg) : (s.send m).grants = s.grants := rfl
@[simp] theorem State.send_requeued (s : State) (m : List OutMsg) : (s.send m).requeued = s.requeued := rfl
@[simp] theorem State.send_tileQueue (s : State) (m : List OutMsg) : (s.send m).tileQueue = s.tileQueue := rfl
@[simp] theorem State.send_held (s : State) (m : List OutMsg) : (s.send m).held = s.held := rfl
@[simp] theorem State.send_ring (s : State) (m : List OutMsg) : (s.send m).ring = s.ring := rfl
@[simp] theorem State.send_luts (s : State) (m : List OutMsg) : (s.send m).luts = s.luts := rfl
@[simp] theorem State.send_lutShadow (s : State) (m : List OutMsg) : (s.send m).lutShadow = s.lutShadow := rfl
@[simp] theorem State.send_staged (s : State) (m : List OutMsg) : (s.send m).staged = s.staged := rfl
@[simp] theorem State.send_commits (s : State) (m : List OutMsg) : (s.send m).commits = s.commits := rfl
@[simp] theorem State.send_accepted (s : State) (m : List OutMsg) : (s.send m).accepted = s.accepted := rfl
@[simp] theorem State.send_ingest (s : State) (m : List OutMsg) : (s.send m).ingest = s.ingest := rfl
@[simp] theorem State.send_ingestRefs (s : State) (m : List OutMsg) : (s.send m).ingestRefs = s.ingestRefs := rfl
@[simp] theorem State.send_replay (s : State) (m : List OutMsg) : (s.send m).replay = s.replay := rfl
@[simp] theorem State.send_frameA (s : State) (m : List OutMsg) : (s.send m).frameA = s.frameA := rfl
@[simp] theorem State.send_frameB (s : State) (m : List OutMsg) : (s.send m).frameB = s.frameB := rfl
@[simp] theorem State.send_awaiting (s : State) (m : List OutMsg) : (s.send m).awaiting = s.awaiting := rfl
@[simp] theorem State.send_historyA (s : State) (m : List OutMsg) : (s.send m).historyA = s.historyA := rfl
@[simp] theorem State.send_historyB (s : State) (m : List OutMsg) : (s.send m).historyB = s.historyB := rfl
@[simp] theorem State.send_taps (s : State) (m : List OutMsg) : (s.send m).taps = s.taps := rfl
@[simp] theorem State.send_rejected (s : State) (m : List OutMsg) : (s.send m).rejected = s.rejected := rfl
@[simp] theorem State.send_deliveries (s : State) (m : List OutMsg) : (s.send m).deliveries = s.deliveries := rfl
@[simp] theorem State.send_moves (s : State) (m : List OutMsg) : (s.send m).moves = s.moves := rfl
@[simp] theorem State.send_fwd (s : State) (m : List OutMsg) : (s.send m).fwd = s.fwd := rfl
@[simp] theorem State.send_seqs (s : State) (m : List OutMsg) : (s.send m).seqs = s.seqs := rfl
@[simp] theorem State.send_crcWindow (s : State) (m : List OutMsg) : (s.send m).crcWindow = s.crcWindow := rfl
@[simp] theorem State.send_retrains (s : State) (m : List OutMsg) : (s.send m).retrains = s.retrains := rfl
@[simp] theorem State.send_keepPending (s : State) (m : List OutMsg) : (s.send m).keepPending = s.keepPending := rfl
@[simp] theorem State.send_keeper (s : State) (m : List OutMsg) : (s.send m).keeper = s.keeper := rfl
@[simp] theorem State.send_keeperBad (s : State) (m : List OutMsg) : (s.send m).keeperBad = s.keeperBad := rfl
@[simp] theorem State.send_keeperTorn (s : State) (m : List OutMsg) : (s.send m).keeperTorn = s.keeperTorn := rfl
@[simp] theorem State.send_keeperQueue (s : State) (m : List OutMsg) : (s.send m).keeperQueue = s.keeperQueue := rfl
@[simp] theorem State.send_keeperBusy (s : State) (m : List OutMsg) : (s.send m).keeperBusy = s.keeperBusy := rfl
@[simp] theorem State.send_records (s : State) (m : List OutMsg) : (s.send m).records = s.records := rfl
@[simp] theorem State.send_triPending (s : State) (m : List OutMsg) : (s.send m).triPending = s.triPending := rfl
@[simp] theorem State.send_keepDeferred (s : State) (m : List OutMsg) : (s.send m).keepDeferred = s.keepDeferred := rfl
@[simp] theorem State.send_badLog (s : State) (m : List OutMsg) : (s.send m).badLog = s.badLog := rfl
@[simp] theorem State.send_egress (s : State) (m : List OutMsg) : (s.send m).egress = s.egress := rfl
@[simp] theorem State.send_rxq (s : State) (m : List OutMsg) : (s.send m).rxq = s.rxq := rfl
@[simp] theorem State.send_macs (s : State) (m : List OutMsg) : (s.send m).macs = s.macs := rfl
@[simp] theorem State.send_laceBytes (s : State) (m : List OutMsg) : (s.send m).laceBytes = s.laceBytes := rfl
@[simp] theorem State.send_foreign (s : State) (m : List OutMsg) : (s.send m).foreign = s.foreign := rfl
@[simp] theorem State.send_rates (s : State) (m : List OutMsg) : (s.send m).rates = s.rates := rfl
@[simp] theorem State.send_caps (s : State) (m : List OutMsg) : (s.send m).caps = s.caps := rfl
@[simp] theorem State.send_eyeEdges (s : State) (m : List OutMsg) : (s.send m).eyeEdges = s.eyeEdges := rfl
@[simp] theorem State.send_keys (s : State) (m : List OutMsg) : (s.send m).keys = s.keys := rfl
@[simp] theorem State.send_responses (s : State) (m : List OutMsg) : (s.send m).responses = s.responses := rfl
@[simp] theorem State.send_heldRequests (s : State) (m : List OutMsg) : (s.send m).heldRequests = s.heldRequests := rfl
@[simp] theorem State.send_disabledOwed (s : State) (m : List OutMsg) : (s.send m).disabledOwed = s.disabledOwed := rfl
@[simp] theorem State.send_msgBlocks (s : State) (m : List OutMsg) : (s.send m).msgBlocks = s.msgBlocks := rfl
@[simp] theorem State.send_eqReqs (s : State) (m : List OutMsg) : (s.send m).eqReqs = s.eqReqs := rfl
@[simp] theorem State.send_banks (s : State) (m : List OutMsg) : (s.send m).banks = s.banks := rfl
@[simp] theorem State.send_seen (s : State) (m : List OutMsg) : (s.send m).seen = s.seen := rfl
@[simp] theorem State.send_draws (s : State) (m : List OutMsg) : (s.send m).draws = s.draws := rfl
@[simp] theorem State.send_reg (s : State) (m : List OutMsg) (q : Reg) (j : Nat) : (s.send m).reg q j = s.reg q j := rfl
@[simp] theorem State.send_sent (s : State) (m : List OutMsg) : (s.send m).sent = m := rfl

end Sys2Proof.Machine
end

