-- ==== Sys2Proof/Laws/Touches.lean ====
section
/-! SUPPORT. What a function on states leaves alone: `Touches W s t` says that t differs from s in the parts
W at most, that it keeps the canonical forms, and that the commands that wait are the same. Each operation has one
lemma here or in the files beside this one, which says once what it can do. -/
namespace Sys2Proof.Machine
set_option linter.all false

theorem Keeps.refl (s : State) : Keeps s s := ⟨rfl, id⟩

theorem Keeps.trans {s t u : State} (h : Keeps s t) (k : Keeps t u) : Keeps s u :=
  ⟨k.pending.trans h.pending, fun c => k.canon (h.canon c)⟩

variable {W : List Part} {s t u : State}

theorem Fld.same_refl (f : Fld) (s : State) : f.same s s := by cases f <;> rfl

theorem Fld.same_trans {f : Fld} (h : f.same s t) (k : f.same t u) : f.same s u := by
  cases f <;> exact k.trans h

theorem Touches.refl (W : List Part) (s : State) : Touches W s s :=
  ⟨fun _ _ _ _ => rfl, fun _ => rfl, fun _ => rfl, fun _ => ⟨rfl, rfl⟩, fun _ => rfl, fun f _ _ => f.same_refl s,
    .refl s⟩

theorem Touches.trans (h : Touches W s t) (k : Touches W t u) : Touches W s u :=
  ⟨fun r i hr ha => (k.reg r i hr ha).trans (h.reg r i hr ha), fun hm => (k.mem hm).trans (h.mem hm),
    fun hm => (k.keeper hm).trans (h.keeper hm),
    fun hm => ⟨(k.time hm).1.trans (h.time hm).1, (k.time hm).2.trans (h.time hm).2⟩,
    fun hm => (k.keys hm).trans (h.keys hm),
    fun f hf ha => Fld.same_trans (h.fld f hf ha) (k.fld f hf ha), h.keeps.trans k.keeps⟩

/-- More parts may be named than are touched. -/
theorem Touches.mono {V : List Part} (hV : ∀ p ∈ V, p ∈ W) (h : Touches V s t) : Touches W s t :=
  ⟨fun r i hr ha => h.reg r i (fun x => hr (hV _ x)) (fun x => ha (hV _ x)), fun hm => h.mem (fun x => hm (hV _ x)),
    fun hm => h.keeper (fun x => hm (hV _ x)), fun hm => h.time (fun x => hm (hV _ x)),
    fun hm => h.keys (fun x => hm (hV _ x)),
    fun f hf ha => h.fld f (fun x => hf (hV _ x)) (fun x => ha (hV _ x)), h.keeps⟩

/-- What a function touches is touched after any steps before it. -/
theorem Touches.after {V : List Part} (hV : ∀ p ∈ V, p ∈ W) (h : Touches W s t) (k : Touches V t u) :
    Touches W s u := h.trans (k.mono hV)

/-- Every part. -/
def allParts : List Part := [.anyReg, .mem, .keeper, .time, .keys, .anyFld]

/-- What may touch every part only has to keep the form. -/
theorem Touches.all (hW : ∀ p ∈ allParts, p ∈ W) (k : Keeps s t) : Touches W s t :=
  ⟨fun _ _ _ h => absurd (hW _ (by simp [allParts])) h, fun h => absurd (hW _ (by simp [allParts])) h,
    fun h => absurd (hW _ (by simp [allParts])) h, fun h => absurd (hW _ (by simp [allParts])) h,
    fun h => absurd (hW _ (by simp [allParts])) h, fun _ _ h => absurd (hW _ (by simp [allParts])) h, k⟩

/-! ## Updates of fields -/

/-- An update of fields alone. -/
theorem Touches.other (hf : ∀ f, Part.fld f ∈ W ∨ f.same t u) (h : Touches W s t)
    (hp : u.pending = t.pending) (hr : u.regs = t.regs)
    (hm : u.mem = t.mem) (hk : u.keeper = t.keeper) (ht : u.tb = t.tb) (hl : u.local_ = t.local_)
    (hy : u.keys = t.keys) : Touches W s u := by
  refine h.trans ⟨fun r i _ _ => ?_, fun _ => hm, fun _ => hk, fun _ => ⟨ht, hl⟩, fun _ => hy,
    fun f hn _ => (hf f).resolve_left hn, hp, fun c => ?_⟩
  · unfold State.reg; rw [hr]
  · obtain ⟨c1, c2, c3⟩ := c
    unfold State.regsWf at c1
    exact ⟨by unfold State.regsWf; rw [hr]; exact c1, by rw [hm]; exact c2, by rw [hk]; exact c3⟩

/-- An update that may also change the key table. -/
theorem Touches.keysToo (hW : Part.keys ∈ W) (hf : ∀ f, Part.fld f ∈ W ∨ f.same t u) (h : Touches W s t)
    (hp : u.pending = t.pending)
    (hr : u.regs = t.regs) (hm : u.mem = t.mem) (hk : u.keeper = t.keeper) (ht : u.tb = t.tb)
    (hl : u.local_ = t.local_) : Touches W s u := by
  refine h.trans ⟨fun r i _ _ => ?_, fun _ => hm, fun _ => hk, fun _ => ⟨ht, hl⟩, fun n => absurd hW n,
    fun f hn _ => (hf f).resolve_left hn, hp, fun c => ?_⟩
  · unfold State.reg; rw [hr]
  · obtain ⟨c1, c2, c3⟩ := c
    unfold State.regsWf at c1
    exact ⟨by unfold State.regsWf; rw [hr]; exact c1, by rw [hm]; exact c2, by rw [hk]; exact c3⟩

/-- An update that may also change the time. -/
theorem Touches.timeToo (hW : Part.time ∈ W) (hf : ∀ f, Part.fld f ∈ W ∨ f.same t u) (h : Touches W s t)
    (hp : u.pending = t.pending)
    (hr : u.regs = t.regs) (hm : u.mem = t.mem) (hk : u.keeper = t.keeper) (hy : u.keys = t.keys) :
    Touches W s u := by
  refine h.trans ⟨fun r i _ _ => ?_, fun _ => hm, fun _ => hk, fun n => absurd hW n, fun _ => hy,
    fun f hn _ => (hf f).resolve_left hn, hp, fun c => ?_⟩
  · unfold State.reg; rw [hr]
  · obtain ⟨c1, c2, c3⟩ := c
    unfold State.regsWf at c1
    exact ⟨by unfold State.regsWf; rw [hr]; exact c1, by rw [hm]; exact c2, by rw [hk]; exact c3⟩

/-- An update that may also change the central store, in canonical form. -/
theorem Touches.memToo (hW : Part.mem ∈ W) (hf : ∀ f, Part.fld f ∈ W ∨ f.same t u) (h : Touches W s t)
    (hp : u.pending = t.pending)
    (hr : u.regs = t.regs) (hm : Memory.wf t.mem = true → Memory.wf u.mem = true) (hk : u.keeper = t.keeper)
    (ht : u.tb = t.tb) (hl : u.local_ = t.local_) (hy : u.keys = t.keys) : Touches W s u := by
  refine h.trans ⟨fun r i _ _ => ?_, fun n => absurd hW n, fun _ => hk, fun _ => ⟨ht, hl⟩, fun _ => hy,
    fun f hn _ => (hf f).resolve_left hn, hp, fun c => ?_⟩
  · unfold State.reg; rw [hr]
  · obtain ⟨c1, c2, c3⟩ := c
    unfold State.regsWf at c1
    exact ⟨by unfold State.regsWf; rw [hr]; exact c1, hm c2, by rw [hk]; exact c3⟩

/-- An update that may also change the Keeper, in canonical form. -/
theorem Touches.keeperToo (hW : Part.keeper ∈ W) (hf : ∀ f, Part.fld f ∈ W ∨ f.same t u) (h : Touches W s t)
    (hp : u.pending = t.pending)
    (hr : u.regs = t.regs) (hm : u.mem = t.mem)
    (hk : Memory.keeperWf t.keeper = true → Memory.keeperWf u.keeper = true)
    (ht : u.tb = t.tb) (hl : u.local_ = t.local_) (hy : u.keys = t.keys) : Touches W s u := by
  refine h.trans ⟨fun r i _ _ => ?_, fun _ => hm, fun n => absurd hW n, fun _ => ⟨ht, hl⟩, fun _ => hy,
    fun f hn _ => (hf f).resolve_left hn, hp, fun c => ?_⟩
  · unfold State.reg; rw [hr]
  · obtain ⟨c1, c2, c3⟩ := c
    unfold State.regsWf at c1
    exact ⟨by unfold State.regsWf; rw [hr]; exact c1, by rw [hm]; exact c2, hk c3⟩

/-! ## Record updates as they stand in a goal -/

/-- Fields alone. -/
theorem touches_mk
    {a2 : Nat} {a3 : List Byte} {a4 : List OutMsg} {a8 : List Nat} {a9 : List Nat} {a10 : List WriteBack}
    {a11 : ReadAnswer} {a12 : List (Nat × Nat × Nat)} {a13 : List (Nat × Nat × Nat)} {a14 : List LogEntry}
    {a15 : List LogEntry} {a16 : List Entry} {a17 : List (Nat × NQueue)} {a18 : List (PowerOp × Nat)} {a19 :
    List (PowerOp × Nat)} {a20 : List PowerOp} {a21 : List Tile} {a22 : List Tile} {a23 : List (Nat × Tile)}
    {a24 : List RingTile} {a25 : List (Nat × Nat)} {a26 : List LutWrite} {a27 : List Staged} {a28 : List
    Commit} {a29 : List Accepted} {a30 : List IngestTile} {a31 : List (Nat × Nat × Nat)} {a32 : List (Nat ×
    Nat)} {a33 : FrameRec} {a34 : FrameRec} {a35 : List (Nat × FrameRec)} {a36 : List Nat} {a37 : List Nat}
    {a38 : List TapFrame} {a39 : List (Nat × Nat)} {a40 : List Delivery} {a41 : List Move} {a42 : List
    FwdMsg} {a43 : List (Nat × Nat × Nat)} {a44 : List EqReq} {a45 : List (Nat × Nat)} {a46 : List (Nat ×
    Nat × Nat)} {a47 : List (Nat × Nat × Bool)} {a48 : List Nat} {a50 : List Nat} {a51 : List Nat} {a52 :
    List PageWrite} {a53 : List PageWrite} {a54 : List RecordWrite} {a55 : List PageBy} {a56 : List Nat}
    {a57 : List LogEntry} {a58 : List EgressFrame} {a59 : List (Nat × List Byte)} {a60 : List (Nat × Nat)}
    {a61 : List (Nat × List Byte)} {a62 : List ForeignMaster} {a63 : List (Nat × Nat)} {a64 : List (Nat ×
    Nat)} {a65 : List (Nat × Int)} {a67 : List (Nat × List Byte)} {a68 : List (Nat × List Byte)} {a69 : List
    (Nat × Nat)} {a70 : Banks} {a71 : Seen} {a72 : Nat}
    (hf : ∀ f, Part.fld f ∈ W ∨ f.same t (
      State.mk t.pending t.regs a2 a3 a4 t.tb t.local_ t.mem a8 a9 a10 a11 a12 a13 a14 a15 a16 a17 a18 a19
      a20 a21 a22 a23 a24 a25 a26 a27 a28 a29 a30 a31 a32 a33 a34 a35 a36 a37 a38 a39 a40 a41 a42 a43 a44
      a45 a46 a47 a48 t.keeper a50 a51 a52 a53 a54 a55 a56 a57 a58 a59 a60 a61 a62 a63 a64 a65 t.keys a67
      a68 a69 a70 a71 a72))
    (h : Touches W s t) : Touches W s (
      State.mk t.pending t.regs a2 a3 a4 t.tb t.local_ t.mem a8 a9 a10 a11 a12 a13 a14 a15 a16 a17 a18 a19
      a20 a21 a22 a23 a24 a25 a26 a27 a28 a29 a30 a31 a32 a33 a34 a35 a36 a37 a38 a39 a40 a41 a42 a43 a44
      a45 a46 a47 a48 t.keeper a50 a51 a52 a53 a54 a55 a56 a57 a58 a59 a60 a61 a62 a63 a64 a65 t.keys a67
      a68 a69 a70 a71 a72) :=
  Touches.other hf h rfl rfl rfl rfl rfl rfl rfl

/-- The key table as well. -/
theorem touches_mk_keys
    {a2 : Nat} {a3 : List Byte} {a4 : List OutMsg} {a8 : List Nat} {a9 : List Nat} {a10 : List WriteBack}
    {a11 : ReadAnswer} {a12 : List (Nat × Nat × Nat)} {a13 : List (Nat × Nat × Nat)} {a14 : List LogEntry}
    {a15 : List LogEntry} {a16 : List Entry} {a17 : List (Nat × NQueue)} {a18 : List (PowerOp × Nat)} {a19 :
    List (PowerOp × Nat)} {a20 : List PowerOp} {a21 : List Tile} {a22 : List Tile} {a23 : List (Nat × Tile)}
    {a24 : List RingTile} {a25 : List (Nat × Nat)} {a26 : List LutWrite} {a27 : List Staged} {a28 : List
    Commit} {a29 : List Accepted} {a30 : List IngestTile} {a31 : List (Nat × Nat × Nat)} {a32 : List (Nat ×
    Nat)} {a33 : FrameRec} {a34 : FrameRec} {a35 : List (Nat × FrameRec)} {a36 : List Nat} {a37 : List Nat}
    {a38 : List TapFrame} {a39 : List (Nat × Nat)} {a40 : List Delivery} {a41 : List Move} {a42 : List
    FwdMsg} {a43 : List (Nat × Nat × Nat)} {a44 : List EqReq} {a45 : List (Nat × Nat)} {a46 : List (Nat ×
    Nat × Nat)} {a47 : List (Nat × Nat × Bool)} {a48 : List Nat} {a50 : List Nat} {a51 : List Nat} {a52 :
    List PageWrite} {a53 : List PageWrite} {a54 : List RecordWrite} {a55 : List PageBy} {a56 : List Nat}
    {a57 : List LogEntry} {a58 : List EgressFrame} {a59 : List (Nat × List Byte)} {a60 : List (Nat × Nat)}
    {a61 : List (Nat × List Byte)} {a62 : List ForeignMaster} {a63 : List (Nat × Nat)} {a64 : List (Nat ×
    Nat)} {a65 : List (Nat × Int)} {a66 : List (Nat × Nat × Nat)} {a67 : List (Nat × List Byte)} {a68 : List
    (Nat × List Byte)} {a69 : List (Nat × Nat)} {a70 : Banks} {a71 : Seen} {a72 : Nat}
    (hW : Part.keys ∈ W) (hf : ∀ f, Part.fld f ∈ W ∨ f.same t (
      State.mk t.pending t.regs a2 a3 a4 t.tb t.local_ t.mem a8 a9 a10 a11 a12 a13 a14 a15 a16 a17 a18 a19
      a20 a21 a22 a23 a24 a25 a26 a27 a28 a29 a30 a31 a32 a33 a34 a35 a36 a37 a38 a39 a40 a41 a42 a43 a44
      a45 a46 a47 a48 t.keeper a50 a51 a52 a53 a54 a55 a56 a57 a58 a59 a60 a61 a62 a63 a64 a65 a66 a67 a68
      a69 a70 a71 a72))
    (h : Touches W s t) : Touches W s (
      State.mk t.pending t.regs a2 a3 a4 t.tb t.local_ t.mem a8 a9 a10 a11 a12 a13 a14 a15 a16 a17 a18 a19
      a20 a21 a22 a23 a24 a25 a26 a27 a28 a29 a30 a31 a32 a33 a34 a35 a36 a37 a38 a39 a40 a41 a42 a43 a44
      a45 a46 a47 a48 t.keeper a50 a51 a52 a53 a54 a55 a56 a57 a58 a59 a60 a61 a62 a63 a64 a65 a66 a67 a68
      a69 a70 a71 a72) :=
  Touches.keysToo hW hf h rfl rfl rfl rfl rfl rfl

/-- The time as well. -/
theorem touches_mk_time
    {a2 : Nat} {a3 : List Byte} {a4 : List OutMsg} {a5 : Nat} {a6 : Nat} {a8 : List Nat} {a9 : List Nat}
    {a10 : List WriteBack} {a11 : ReadAnswer} {a12 : List (Nat × Nat × Nat)} {a13 : List (Nat × Nat × Nat)}
    {a14 : List LogEntry} {a15 : List LogEntry} {a16 : List Entry} {a17 : List (Nat × NQueue)} {a18 : List
    (PowerOp × Nat)} {a19 : List (PowerOp × Nat)} {a20 : List PowerOp} {a21 : List Tile} {a22 : List Tile}
    {a23 : List (Nat × Tile)} {a24 : List RingTile} {a25 : List (Nat × Nat)} {a26 : List LutWrite} {a27 :
    List Staged} {a28 : List Commit} {a29 : List Accepted} {a30 : List IngestTile} {a31 : List (Nat × Nat ×
    Nat)} {a32 : List (Nat × Nat)} {a33 : FrameRec} {a34 : FrameRec} {a35 : List (Nat × FrameRec)} {a36 :
    List Nat} {a37 : List Nat} {a38 : List TapFrame} {a39 : List (Nat × Nat)} {a40 : List Delivery} {a41 :
    List Move} {a42 : List FwdMsg} {a43 : List (Nat × Nat × Nat)} {a44 : List EqReq} {a45 : List (Nat ×
    Nat)} {a46 : List (Nat × Nat × Nat)} {a47 : List (Nat × Nat × Bool)} {a48 : List Nat} {a50 : List Nat}
    {a51 : List Nat} {a52 : List PageWrite} {a53 : List PageWrite} {a54 : List RecordWrite} {a55 : List
    PageBy} {a56 : List Nat} {a57 : List LogEntry} {a58 : List EgressFrame} {a59 : List (Nat × List Byte)}
    {a60 : List (Nat × Nat)} {a61 : List (Nat × List Byte)} {a62 : List ForeignMaster} {a63 : List (Nat ×
    Nat)} {a64 : List (Nat × Nat)} {a65 : List (Nat × Int)} {a67 : List (Nat × List Byte)} {a68 : List (Nat
    × List Byte)} {a69 : List (Nat × Nat)} {a70 : Banks} {a71 : Seen} {a72 : Nat}
    (hW : Part.time ∈ W) (hf : ∀ f, Part.fld f ∈ W ∨ f.same t (
      State.mk t.pending t.regs a2 a3 a4 a5 a6 t.mem a8 a9 a10 a11 a12 a13 a14 a15 a16 a17 a18 a19 a20 a21
      a22 a23 a24 a25 a26 a27 a28 a29 a30 a31 a32 a33 a34 a35 a36 a37 a38 a39 a40 a41 a42 a43 a44 a45 a46
      a47 a48 t.keeper a50 a51 a52 a53 a54 a55 a56 a57 a58 a59 a60 a61 a62 a63 a64 a65 t.keys a67 a68 a69
      a70 a71 a72))
    (h : Touches W s t) : Touches W s (
      State.mk t.pending t.regs a2 a3 a4 a5 a6 t.mem a8 a9 a10 a11 a12 a13 a14 a15 a16 a17 a18 a19 a20 a21
      a22 a23 a24 a25 a26 a27 a28 a29 a30 a31 a32 a33 a34 a35 a36 a37 a38 a39 a40 a41 a42 a43 a44 a45 a46
      a47 a48 t.keeper a50 a51 a52 a53 a54 a55 a56 a57 a58 a59 a60 a61 a62 a63 a64 a65 t.keys a67 a68 a69
      a70 a71 a72) :=
  Touches.timeToo hW hf h rfl rfl rfl rfl rfl

/-! ## Control -/

theorem Touches.ite {c : Prop} [Decidable c] (ht : Touches W s t) (hu : Touches W s u) :
    Touches W s (if c then t else u) := by split <;> assumption

/-- The state of a pair that was taken apart. -/
theorem Touches.ofPair {α : Type} {p : α × State} {a : α} (e : p = (a, u)) (h : Touches W s p.2) :
    Touches W s u := by rw [e] at h; exact h

/-- A command that goes on touches the parts W at most. -/
def OutTouches (W : List Part) (s : State) (o : Out) : Prop := ∃ u, o = .next u ∧ Touches W s u

theorem OutTouches.next (h : Touches W s t) : OutTouches W s (.next t) := ⟨t, rfl, h⟩

theorem OutTouches.ite {c : Prop} [Decidable c] {o p : Out} (ho : OutTouches W s o) (hp : OutTouches W s p) :
    OutTouches W s (if c then o else p) := by split <;> assumption

theorem getD_touches {o : Option State} (h : ∀ x, o = some x → Touches W s x) (ht : Touches W s t) :
    Touches W s (o.getD t) := by
  cases o with
  | none => exact ht
  | some x => exact h x rfl

theorem Touches.ofTriple {α β : Type} {p : α × β × State} {a : α} {b : β} (e : p = (a, b, u))
    (h : Touches W s p.2.2) : Touches W s u := by rw [e] at h; exact h

theorem Touches.iteSnd {α : Type} {c : Prop} [Decidable c] {p q : α × State} (hp : Touches W s p.2)
    (hq : Touches W s q.2) : Touches W s (if c then p else q).2 := by split <;> assumption

theorem Touches.iteSnd2 {α β : Type} {c : Prop} [Decidable c] {p q : α × β × State} (hp : Touches W s p.2.2)
    (hq : Touches W s q.2.2) : Touches W s (if c then p else q).2.2 := by split <;> assumption

theorem forN_touches {n : Nat} {f : State → Nat → State} (h : Touches W s t)
    (hf : ∀ x k, Touches W s x → Touches W s (f x k)) : Touches W s (forN n t f) := by
  unfold forN
  generalize List.range n = l
  induction l generalizing t with
  | nil => exact h
  | cons a l ih => exact ih (hf t a h)

theorem foldl_touches {α : Type} {l : List α} {f : State → α → State} (h : Touches W s t)
    (hf : ∀ x a, Touches W s x → Touches W s (f x a)) : Touches W s (l.foldl f t) := by
  induction l generalizing t with
  | nil => exact h
  | cons a l ih => exact ih (hf t a h)

/-- A fold over a list touches what each of its own elements does. -/
theorem foldl_mem_touches {α : Type} {l : List α} {f : State → α → State} (h : Touches W s t)
    (hf : ∀ x, ∀ a ∈ l, Touches W s x → Touches W s (f x a)) : Touches W s (l.foldl f t) := by
  induction l generalizing t with
  | nil => exact h
  | cons a l ih =>
    exact ih (hf t a (List.mem_cons_self ..) h) (fun x b hb => hf x b (List.mem_cons_of_mem _ hb))

theorem foldlSnd_touches {α β : Type} {l : List β} {p : α × State} {f : α × State → β → α × State}
    (h : Touches W s p.2) (hf : ∀ x a, Touches W s x.2 → Touches W s (f x a).2) :
    Touches W s (l.foldl f p).2 := by
  induction l generalizing p with
  | nil => exact h
  | cons a l ih => exact ih (hf p a h)

theorem forNFst_touches {α : Type} {n : Nat} {p : State × α} {f : State × α → Nat → State × α}
    (h : Touches W s p.1) (hf : ∀ x k, Touches W s x.1 → Touches W s (f x k).1) :
    Touches W s (forN n p f).1 := by
  unfold forN
  generalize List.range n = l
  induction l generalizing p with
  | nil => exact h
  | cons a l ih => exact ih (hf p a h)

theorem cond_touches {b : Bool} {f : State → State} (h : Touches W s t)
    (hf : ∀ x, Touches W s x → Touches W s (f x)) : Touches W s (t.cond b f) := by
  unfold State.cond; split
  · exact hf t h
  · exact h

/-! ## The named operations -/

theorem State.setReg_touches {r : Reg} {i v : Nat} (hW : Part.reg r ∈ W) (h : Touches W s t) :
    Touches W s (t.setReg r i v) := by
  refine h.trans ⟨fun q j hq _ => ?_, fun _ => rfl, fun _ => rfl, fun _ => ⟨rfl, rfl⟩, fun _ => rfl,
    fun f _ _ => by cases f <;> rfl, rfl, fun c => ⟨State.setReg_wf _ _ _ _ c.regs, c.mem, c.keeper⟩⟩
  exact State.setReg_reg_of_ne t i j v (fun e => hq (e ▸ hW))

/-- A register that is not named in advance. -/
theorem State.setReg_touches_any {r : Reg} {i v : Nat} (hW : Part.anyReg ∈ W) (h : Touches W s t) :
    Touches W s (t.setReg r i v) :=
  h.trans ⟨fun _ _ _ ha => absurd hW ha, fun _ => rfl, fun _ => rfl, fun _ => ⟨rfl, rfl⟩, fun _ => rfl,
    fun f _ _ => by cases f <;> rfl, rfl, fun c => ⟨State.setReg_wf _ _ _ _ c.regs, c.mem, c.keeper⟩⟩

theorem State.setRegInt_touches {r : Reg} {i : Nat} {v : Int} (hW : Part.reg r ∈ W) (h : Touches W s t) :
    Touches W s (t.setRegInt r i v) := State.setReg_touches hW h

theorem State.bump_touches {r : Reg} {i : Nat} (hW : Part.reg r ∈ W) (h : Touches W s t) :
    Touches W s (t.bump r i) := State.setReg_touches hW h

theorem State.bumpBy_touches {r : Reg} {i n : Nat} (hW : Part.reg r ∈ W) (h : Touches W s t) :
    Touches W s (t.bumpBy r i n) := State.setReg_touches hW h

/-- An update of one field. -/
theorem Touches.one {f : Fld} (hW : Part.fld f ∈ W) (h : Touches W s t) (hf : ∀ g, g ≠ f → g.same t u)
    (hp : u.pending = t.pending) (hr : u.regs = t.regs) (hm : u.mem = t.mem) (hk : u.keeper = t.keeper)
    (ht : u.tb = t.tb) (hl : u.local_ = t.local_) (hy : u.keys = t.keys) : Touches W s u :=
  h.other (fun g => if e : g = f then .inl (e ▸ hW) else .inr (hf g e)) hp hr hm hk ht hl hy

theorem State.noteKeep_touches {r : Reg} {i : Nat} (hK : Part.fld .keepPending ∈ W) (h : Touches W s t) :
    Touches W s (t.noteKeep r i) := by
  unfold State.noteKeep; split
  · exact h.one hK (fun g e => by cases g <;> first | rfl | exact absurd rfl e) rfl rfl rfl rfl rfl rfl rfl
  · exact h

theorem State.putReg_touches {r : Reg} {i v : Nat} (hW : Part.reg r ∈ W) (hK : Part.fld .keepPending ∈ W)
    (h : Touches W s t) : Touches W s (t.putReg r i v) := State.noteKeep_touches hK (State.setReg_touches hW h)

theorem State.putReg_touches_any {r : Reg} {i v : Nat} (hW : Part.anyReg ∈ W) (hK : Part.fld .keepPending ∈ W)
    (h : Touches W s t) : Touches W s (t.putReg r i v) :=
  State.noteKeep_touches hK (State.setReg_touches_any hW h)

theorem State.setStatus_touches {c : Nat} (hK : Part.fld .status ∈ W) (h : Touches W s t) :
    Touches W s (t.setStatus c) :=
  h.one hK (fun g e => by cases g <;> first | rfl | exact absurd rfl e) rfl rfl rfl rfl rfl rfl rfl

theorem State.refuse_touches {c : Nat} (hK : Part.fld .status ∈ W) (h : Touches W s t) :
    Touches W s (t.refuse c) := State.setStatus_touches hK h

theorem State.send_touches {m : List OutMsg} (hK : Part.fld .sent ∈ W) (h : Touches W s t) :
    Touches W s (t.send m) :=
  h.one hK (fun g e => by cases g <;> first | rfl | exact absurd rfl e) rfl rfl rfl rfl rfl rfl rfl

theorem State.sendMore_touches {m : List OutMsg} (hK : Part.fld .sent ∈ W) (h : Touches W s t) :
    Touches W s (t.sendMore m) :=
  h.one hK (fun g e => by cases g <;> first | rfl | exact absurd rfl e) rfl rfl rfl rfl rfl rfl rfl

theorem State.noteRecent_touches {k v : Nat} (hK : Part.fld .waits ∈ W) (h : Touches W s t) :
    Touches W s (t.noteRecent k v) :=
  h.one hK (fun g e => by cases g <;> first | rfl | exact absurd rfl e) rfl rfl rfl rfl rfl rfl rfl

theorem State.setQueue_touches {q : Nat} {n : NQueue} (hK : Part.fld .queues ∈ W) (h : Touches W s t) :
    Touches W s (t.setQueue q n) :=
  h.one hK (fun g e => by cases g <;> first | rfl | exact absurd rfl e) rfl rfl rfl rfl rfl rfl rfl

theorem State.draw_touches (hK : Part.fld .draws ∈ W) (h : Touches W s t) : Touches W s t.draw.2 :=
  h.one hK (fun g e => by cases g <;> first | rfl | exact absurd rfl e) rfl rfl rfl rfl rfl rfl rfl

theorem State.request_touches {op : PowerOp} (hH : Part.fld .highReqs ∈ W) (hN : Part.fld .normalReqs ∈ W)
    (h : Touches W s t) : Touches W s (t.request op) := by
  unfold State.request; split
  · exact h
  · split
    · exact h.one hH (fun g e => by cases g <;> first | rfl | exact absurd rfl e) rfl rfl rfl rfl rfl rfl rfl
    · exact h.one hN (fun g e => by cases g <;> first | rfl | exact absurd rfl e) rfl rfl rfl rfl rfl rfl rfl

theorem State.release_touches {op : PowerOp} (hG : Part.fld .grants ∈ W) (hH : Part.fld .highReqs ∈ W)
    (hN : Part.fld .normalReqs ∈ W) (h : Touches W s t) : Touches W s (t.release op) :=
  h.other (fun f => by cases f <;> first | exact .inr rfl | exact .inl ‹_›) rfl rfl rfl rfl rfl rfl rfl

/-! ## Keeping the form alone -/

theorem Keeps.setReg {r : Reg} {i v : Nat} (h : Keeps s t) : Keeps s (t.setReg r i v) :=
  h.trans (State.setReg_touches_any (W := [.anyReg]) (by simp) (.refl _ t)).keeps

theorem Keeps.putReg {r : Reg} {i v : Nat} (h : Keeps s t) : Keeps s (t.putReg r i v) :=
  h.trans (State.putReg_touches_any (W := [.anyReg, .fld .keepPending]) (by simp) (by simp) (.refl _ t)).keeps

theorem Keeps.cond {b : Bool} {f : State → State} (h : Keeps s t) (hf : Keeps t (f t)) : Keeps s (t.cond b f) := by
  unfold State.cond
  split
  · exact h.trans hf
  · exact h

/-- A command that goes on keeps the form. -/
def OutKeeps (s : State) (o : Out) : Prop := ∃ u, o = .next u ∧ Keeps s u

/-- Likewise for a command, where there is one. -/
def OptKeeps (s : State) (x : Option Out) : Prop := ∀ o, x = some o → OutKeeps s o

theorem OutTouches.keeps {o : Out} (h : OutTouches W s o) : OutKeeps s o :=
  let ⟨u, e, k⟩ := h
  ⟨u, e, k.keeps⟩

theorem OutKeeps.next (h : Keeps s t) : OutKeeps s (.next t) := ⟨t, rfl, h⟩

theorem OutKeeps.ite {c : Prop} [Decidable c] {o p : Out} (ho : OutKeeps s o) (hp : OutKeeps s p) :
    OutKeeps s (if c then o else p) := by split <;> assumption

theorem OptKeeps.none : OptKeeps s .none := by
  intro o e
  injection e

theorem OptKeeps.some {o : Out} (h : OutKeeps s o) : OptKeeps s (.some o) := by
  intro p e
  injection e with e
  exact e ▸ h

/-- What each step of a loop keeps holds after the loop. -/
theorem forN_inv {α : Type} {P : α → Prop} {n : Nat} {a : α} {f : α → Nat → α} (h : P a)
    (hf : ∀ x k, P x → P (f x k)) : P (forN n a f) := by
  unfold forN
  generalize List.range n = l
  induction l generalizing a with
  | nil => exact h
  | cons b l ih => exact ih (hf a b h)

/-- A loop whose steps also answer something touches what each step does. -/
theorem forNSnd_touches {α : Type} {n : Nat} {p : α × State} {f : α × State → Nat → α × State}
    (h : Touches W s p.2) (hf : ∀ x a, Touches W s x.2 → Touches W s (f x a).2) :
    Touches W s (forN n p f).2 := foldlSnd_touches h hf

end Sys2Proof.Machine
end

