-- ==== Sys2Proof/Laws/TouchesOps.lean ====
section
/-! SUPPORT. What the functions of Machine/Ops.lean touch. -/
namespace Sys2Proof.Machine
set_option linter.all false

/-- The parts State.see touches. -/
def State.see_foot : List Part := [.fld .seen]

theorem State.see_touches {W : List Part} {σ τ : State} {x : Seen} (hW : ∀ p ∈ State.see_foot, p ∈ W)
    (hT : Touches W σ τ) : Touches W σ (State.see τ x) := by
  unfold State.see
  try dsimp only
  repeat' first
    | with_reducible apply Touches.ite
    | split
    | with_reducible refine forN_touches ?_ (fun x k hx => ?_)
    | with_reducible refine foldl_touches ?_ (fun x a hx => ?_)
    | with_reducible refine foldlSnd_touches ?_ (fun x a hx => ?_)
    | with_reducible assumption
    | with_reducible refine touches_mk (fun f => by cases f <;> first | exact .inr (by with_reducible rfl) | exact .inl (hW _ (by simp [State.see_foot]))) ?_

/-- The parts State.post touches. -/
def State.post_foot : List Part := [.reg .NQ_SEQ, .reg .NQ_LOST, .fld .queues]

theorem State.post_touches {W : List Part} {σ τ : State} {q : Nat} {e : Entry} (hW : ∀ p ∈ State.post_foot, p ∈ W)
    (hT : Touches W σ τ) : Touches W σ (State.post τ q e) := by
  unfold State.post
  try dsimp only
  repeat' first
    | with_reducible apply Touches.ite
    | with_reducible refine State.bump_touches (hW _ (by first | (simp [State.post_foot]; done) | (split <;> simp [State.post_foot] <;> done) | ((repeat' split) <;> simp [State.post_foot])))  ?_
    | with_reducible refine State.setQueue_touches (hW _ (by simp [State.post_foot])) ?_
    | split
    | with_reducible refine forN_touches ?_ (fun x k hx => ?_)
    | with_reducible refine foldl_touches ?_ (fun x a hx => ?_)
    | with_reducible refine foldlSnd_touches ?_ (fun x a hx => ?_)
    | with_reducible assumption

/-- The parts State.raise touches. -/
def State.raise_foot : List Part := [.reg .EV_COUNT, .fld .evLog] ++ State.post_foot

theorem State.raise_touches {W : List Part} {σ τ : State} {code : Nat} {unit : Option Nat} {args : List (Nat × Nat)} (hW : ∀ p ∈ State.raise_foot, p ∈ W)
    (hT : Touches W σ τ) : Touches W σ (State.raise τ code unit args) := by
  unfold State.raise
  try dsimp only
  repeat' first
    | with_reducible apply Touches.ite
    | with_reducible refine State.bump_touches (hW _ (by first | (simp [State.raise_foot]; done) | (split <;> simp [State.raise_foot] <;> done) | ((repeat' split) <;> simp [State.raise_foot])))  ?_
    | with_reducible refine State.post_touches (fun p hp => hW p (by unfold State.raise_foot; repeat first | with_reducible exact hp | with_reducible exact List.mem_append_right _ hp | with_reducible apply List.mem_append_left)) ?_
    | split
    | with_reducible refine forN_touches ?_ (fun x k hx => ?_)
    | with_reducible refine foldl_touches ?_ (fun x a hx => ?_)
    | with_reducible refine foldlSnd_touches ?_ (fun x a hx => ?_)
    | with_reducible assumption
    | with_reducible refine touches_mk (fun f => by cases f <;> first | exact .inr (by with_reducible rfl) | exact .inl (hW _ (by simp [State.raise_foot]))) ?_

/-- The parts State.giveGrant touches. -/
def State.giveGrant_foot : List Part := [.reg .PW_GRANTS, .fld .grants, .fld .waits]

theorem State.giveGrant_touches {W : List Part} {σ τ : State} {op : PowerOp} {asked : Nat} (hW : ∀ p ∈ State.giveGrant_foot, p ∈ W)
    (hT : Touches W σ τ) : Touches W σ (State.giveGrant τ op asked) := by
  unfold State.giveGrant
  try dsimp only
  repeat' first
    | with_reducible apply Touches.ite
    | with_reducible refine State.noteRecent_touches (hW _ (by simp [State.giveGrant_foot])) ?_
    | with_reducible refine State.bump_touches (hW _ (by first | (simp [State.giveGrant_foot]; done) | (split <;> simp [State.giveGrant_foot] <;> done) | ((repeat' split) <;> simp [State.giveGrant_foot])))  ?_
    | split
    | with_reducible refine forN_touches ?_ (fun x k hx => ?_)
    | with_reducible refine foldl_touches ?_ (fun x a hx => ?_)
    | with_reducible refine foldlSnd_touches ?_ (fun x a hx => ?_)
    | with_reducible assumption
    | with_reducible refine touches_mk (fun f => by cases f <;> first | exact .inr (by with_reducible rfl) | exact .inl (hW _ (by simp [State.giveGrant_foot]))) ?_

/-- The parts State.governor touches. -/
def State.governor_foot : List Part := [.fld .highReqs, .fld .normalReqs] ++ State.giveGrant_foot

theorem State.governor_touches {W : List Part} {σ τ : State}  (hW : ∀ p ∈ State.governor_foot, p ∈ W)
    (hT : Touches W σ τ) : Touches W σ (State.governor τ) := by
  unfold State.governor
  try dsimp only
  repeat' first
    | with_reducible apply Touches.ite
    | with_reducible refine State.giveGrant_touches (fun p hp => hW p (by unfold State.governor_foot; repeat first | with_reducible exact hp | with_reducible exact List.mem_append_right _ hp | with_reducible apply List.mem_append_left)) ?_
    | split
    | with_reducible refine forN_touches ?_ (fun x k hx => ?_)
    | with_reducible refine foldl_touches ?_ (fun x a hx => ?_)
    | with_reducible refine foldlSnd_touches ?_ (fun x a hx => ?_)
    | with_reducible assumption
    | with_reducible refine touches_mk (fun f => by cases f <;> first | exact .inr (by with_reducible rfl) | exact .inl (hW _ (by simp [State.governor_foot]))) ?_

end Sys2Proof.Machine
end

