-- ==== Sys2Proof/Laws/TouchesAccess.lean ====
section
/-! SUPPORT. What the functions of Machine/Access.lean touch. -/
namespace Sys2Proof.Machine
set_option linter.all false

/-- The parts State.noteAccess touches. -/
def State.noteAccess_foot : List Part := [.reg .iACC_STATUS, .reg .iACC_ID]

theorem State.noteAccess_touches {W : List Part} {s t : State} {acc : Accessor} {id : Nat}
    (hW : ∀ p ∈ State.noteAccess_foot, p ∈ W) (h : Touches W s t) : Touches W s (t.noteAccess acc id) := by
  have h1 : Part.reg .iACC_STATUS ∈ W := hW _ (by simp [State.noteAccess_foot])
  have h2 : Part.reg .iACC_ID ∈ W := hW _ (by simp [State.noteAccess_foot])
  cases acc
  · exact h
  all_goals exact State.setReg_touches h2 (State.setReg_touches h1 h)

/-- The parts a write access touches besides what its effect does. -/
def writeAccess_foot : List Part := .fld .status :: State.noteAccess_foot

theorem writeAccess_touches {W : List Part} {s t : State} {acc : Accessor} {r : Reg} {i len v : Nat}
    {inGroup : Bool} {eff : State → State} (hW : ∀ p ∈ writeAccess_foot, p ∈ W) (h : Touches W s t)
    (he : ∀ x, Touches W s x → Touches W s (eff x)) : Touches W s (writeAccess t acc r i len v inGroup eff) := by
  have hs : Part.fld .status ∈ W := hW _ (by simp [writeAccess_foot])
  unfold writeAccess
  split
  · refine State.noteAccess_touches (fun p hp => hW p (by simp [writeAccess_foot, hp])) ?_
    split
    · exact State.setStatus_touches hs h
    · exact he _ (State.setStatus_touches hs h)
  · exact h

/-- The parts a write access touches besides what its effect does. -/
def writeParam_foot : List Part := writeAccess_foot

theorem writeParam_touches {W : List Part} {s t : State} {acc : Accessor} {r : Reg} {i v : Nat}
    {eff : State → State} (hW : ∀ p ∈ writeParam_foot, p ∈ W) (h : Touches W s t)
    (he : ∀ x, Touches W s x → Touches W s (eff x)) : Touches W s (writeParam t acc r i v eff) :=
  writeAccess_touches hW h he

/-- The parts State.raiseDisabled touches. -/
def State.raiseDisabled_foot : List Part := .fld .disabledOwed :: State.raise_foot

theorem State.raiseDisabled_touches {W : List Part} {s t : State} {r : Reg} {i n : Nat}
    (hW : ∀ p ∈ State.raiseDisabled_foot, p ∈ W) (h : Touches W s t) :
    Touches W s (t.raiseDisabled r i n) := by
  unfold State.raiseDisabled
  split
  · exact h.other (fun f => by cases f <;> first | exact .inr rfl | exact .inl (hW _ (by simp [State.raiseDisabled_foot]))) rfl rfl rfl rfl rfl rfl rfl
  · exact State.raise_touches (fun p hp => hW p (by simp [State.raiseDisabled_foot, hp])) h

end Sys2Proof.Machine
end

