-- ==== Sys2Proof/Laws/Access.lean ====
section
/-! SUPPORT. Laws of dictionary accesses and of raised events: what an access that passes the checks of R380, or that
they refuse, comes to; and what noting the access and raising an event leave as it was. -/
namespace Sys2Proof.Machine
set_option linter.all false

/-! ## Accesses -/

/-- A write that passes the checks has its effect, with status 0. -/
theorem writeParam_of_passes {s : State} {acc : Accessor} {r : Reg} {i v : Nat} {eff : State → State}
    (h : s.Passes acc r i v) : writeParam s acc r i v eff = (eff (s.setStatus 0)).noteAccess acc (r.id i) := by
  unfold writeParam writeAccess
  rw [if_pos h.1, h.2]

/-- A write that the checks refuse ends with its status. -/
theorem writeParam_of_fault {s : State} {acc : Accessor} {r : Reg} {i v code : Nat} {eff : State → State}
    (h : s.reachable acc = true) (hf : writeFault s acc r i (r.width / 8) v false = some code) :
    writeParam s acc r i v eff = s.answered acc r i code := by
  unfold writeParam writeAccess
  rw [if_pos h, hf]; rfl

/-- A write by one who does not reach the dictionary has no effect. -/
theorem writeParam_of_unreachable {s : State} {acc : Accessor} {r : Reg} {i v : Nat} {eff : State → State}
    (h : s.reachable acc = false) : writeParam s acc r i v eff = s := by
  unfold writeParam writeAccess
  rw [if_neg (by simp [h])]

/-! ## Noting an access -/

@[simp] theorem State.noteAccess_pending (s : State) (a : Accessor) (n : Nat) : (s.noteAccess a n).pending = s.pending := by
  cases a <;> rfl
@[simp] theorem State.noteAccess_status (s : State) (a : Accessor) (n : Nat) : (s.noteAccess a n).status = s.status := by
  cases a <;> rfl
@[simp] theorem State.noteAccess_value (s : State) (a : Accessor) (n : Nat) : (s.noteAccess a n).value = s.value := by
  cases a <;> rfl
@[simp] theorem State.noteAccess_sent (s : State) (a : Accessor) (n : Nat) : (s.noteAccess a n).sent = s.sent := by
  cases a <;> rfl
@[simp] theorem State.noteAccess_tb (s : State) (a : Accessor) (n : Nat) : (s.noteAccess a n).tb = s.tb := by
  cases a <;> rfl
@[simp] theorem State.noteAccess_local_ (s : State) (a : Accessor) (n : Nat) : (s.noteAccess a n).local_ = s.local_ := by
  cases a <;> rfl
@[simp] theorem State.noteAccess_mem (s : State) (a : Accessor) (n : Nat) : (s.noteAccess a n).mem = s.mem := by
  cases a <;> rfl
@[simp] theorem State.noteAccess_poison (s : State) (a : Accessor) (n : Nat) : (s.noteAccess a n).poison = s.poison := by
  cases a <;> rfl
@[simp] theorem State.noteAccess_rowsAhead (s : State) (a : Accessor) (n : Nat) : (s.noteAccess a n).rowsAhead = s.rowsAhead := by
  cases a <;> rfl
@[simp] theorem State.noteAccess_writeBacks (s : State) (a : Accessor) (n : Nat) : (s.noteAccess a n).writeBacks = s.writeBacks := by
  cases a <;> rfl
@[simp] theorem State.noteAccess_answer (s : State) (a : Accessor) (n : Nat) : (s.noteAccess a n).answer = s.answer := by
  cases a <;> rfl
@[simp] theorem State.noteAccess_waits (s : State) (a : Accessor) (n : Nat) : (s.noteAccess a n).waits = s.waits := by
  cases a <;> rfl
@[simp] theorem State.noteAccess_traffic (s : State) (a : Accessor) (n : Nat) : (s.noteAccess a n).traffic = s.traffic := by
  cases a <;> rfl
@[simp] theorem State.noteAccess_freezeLog (s : State) (a : Accessor) (n : Nat) : (s.noteAccess a n).freezeLog = s.freezeLog := by
  cases a <;> rfl
@[simp] theorem State.noteAccess_poisonLog (s : State) (a : Accessor) (n : Nat) : (s.noteAccess a n).poisonLog = s.poisonLog := by
  cases a <;> rfl
@[simp] theorem State.noteAccess_evLog (s : State) (a : Accessor) (n : Nat) : (s.noteAccess a n).evLog = s.evLog := by
  cases a <;> rfl
@[simp] theorem State.noteAccess_queues (s : State) (a : Accessor) (n : Nat) : (s.noteAccess a n).queues = s.queues := by
  cases a <;> rfl
@[simp] theorem State.noteAccess_highReqs (s : State) (a : Accessor) (n : Nat) : (s.noteAccess a n).highReqs = s.highReqs := by
  cases a <;> rfl
@[simp] theorem State.noteAccess_normalReqs (s : State) (a : Accessor) (n : Nat) : (s.noteAccess a n).normalReqs = s.normalReqs := by
  cases a <;> rfl
@[simp] theorem State.noteAccess_grants (s : State) (a : Accessor) (n : Nat) : (s.noteAccess a n).grants = s.grants := by
  cases a <;> rfl
@[simp] theorem State.noteAccess_requeued (s : State) (a : Accessor) (n : Nat) : (s.noteAccess a n).requeued = s.requeued := by
  cases a <;> rfl
@[simp] theorem State.noteAccess_tileQueue (s : State) (a : Accessor) (n : Nat) : (s.noteAccess a n).tileQueue = s.tileQueue := by
  cases a <;> rfl
@[simp] theorem State.noteAccess_held (s : State) (a : Accessor) (n : Nat) : (s.noteAccess a n).held = s.held := by
  cases a <;> rfl
@[simp] theorem State.noteAccess_ring (s : State) (a : Accessor) (n : Nat) : (s.noteAccess a n).ring = s.ring := by
  cases a <;> rfl
@[simp] theorem State.noteAccess_luts (s : State) (a : Accessor) (n : Nat) : (s.noteAccess a n).luts = s.luts := by
  cases a <;> rfl
@[simp] theorem State.noteAccess_lutShadow (s : State) (a : Accessor) (n : Nat) : (s.noteAccess a n).lutShadow = s.lutShadow := by
  cases a <;> rfl
@[simp] theorem State.noteAccess_staged (s : State) (a : Accessor) (n : Nat) : (s.noteAccess a n).staged = s.staged := by
  cases a <;> rfl
@[simp] theorem State.noteAccess_commits (s : State) (a : Accessor) (n : Nat) : (s.noteAccess a n).commits = s.commits := by
  cases a <;> rfl
@[simp] theorem State.noteAccess_accepted (s : State) (a : Accessor) (n : Nat) : (s.noteAccess a n).accepted = s.accepted := by
  cases a <;> rfl
@[simp] theorem State.noteAccess_ingest (s : State) (a : Accessor) (n : Nat) : (s.noteAccess a n).ingest = s.ingest := by
  cases a <;> rfl
@[simp] theorem State.noteAccess_ingestRefs (s : State) (a : Accessor) (n : Nat) : (s.noteAccess a n).ingestRefs = s.ingestRefs := by
  cases a <;> rfl
@[simp] theorem State.noteAccess_replay (s : State) (a : Accessor) (n : Nat) : (s.noteAccess a n).replay = s.replay := by
  cases a <;> rfl
@[simp] theorem State.noteAccess_frameA (s : State) (a : Accessor) (n : Nat) : (s.noteAccess a n).frameA = s.frameA := by
  cases a <;> rfl
@[simp] theorem State.noteAccess_frameB (s : State) (a : Accessor) (n : Nat) : (s.noteAccess a n).frameB = s.frameB := by
  cases a <;> rfl
@[simp] theorem State.noteAccess_awaiting (s : State) (a : Accessor) (n : Nat) : (s.noteAccess a n).awaiting = s.awaiting := by
  cases a <;> rfl
@[simp] theorem State.noteAccess_historyA (s : State) (a : Accessor) (n : Nat) : (s.noteAccess a n).historyA = s.historyA := by
  cases a <;> rfl
@[simp] theorem State.noteAccess_historyB (s : State) (a : Accessor) (n : Nat) : (s.noteAccess a n).historyB = s.historyB := by
  cases a <;> rfl
@[simp] theorem State.noteAccess_taps (s : State) (a : Accessor) (n : Nat) : (s.noteAccess a n).taps = s.taps := by
  cases a <;> rfl
@[simp] theorem State.noteAccess_rejected (s : State) (a : Accessor) (n : Nat) : (s.noteAccess a n).rejected = s.rejected := by
  cases a <;> rfl
@[simp] theorem State.noteAccess_deliveries (s : State) (a : Accessor) (n : Nat) : (s.noteAccess a n).deliveries = s.deliveries := by
  cases a <;> rfl
@[simp] theorem State.noteAccess_moves (s : State) (a : Accessor) (n : Nat) : (s.noteAccess a n).moves = s.moves := by
  cases a <;> rfl
@[simp] theorem State.noteAccess_fwd (s : State) (a : Accessor) (n : Nat) : (s.noteAccess a n).fwd = s.fwd := by
  cases a <;> rfl
@[simp] theorem State.noteAccess_msgBlocks (s : State) (a : Accessor) (n : Nat) : (s.noteAccess a n).msgBlocks = s.msgBlocks := by
  cases a <;> rfl
@[simp] theorem State.noteAccess_eqReqs (s : State) (a : Accessor) (n : Nat) : (s.noteAccess a n).eqReqs = s.eqReqs := by
  cases a <;> rfl
@[simp] theorem State.noteAccess_seqs (s : State) (a : Accessor) (n : Nat) : (s.noteAccess a n).seqs = s.seqs := by
  cases a <;> rfl
@[simp] theorem State.noteAccess_crcWindow (s : State) (a : Accessor) (n : Nat) : (s.noteAccess a n).crcWindow = s.crcWindow := by
  cases a <;> rfl
@[simp] theorem State.noteAccess_retrains (s : State) (a : Accessor) (n : Nat) : (s.noteAccess a n).retrains = s.retrains := by
  cases a <;> rfl
@[simp] theorem State.noteAccess_keepPending (s : State) (a : Accessor) (n : Nat) : (s.noteAccess a n).keepPending = s.keepPending := by
  cases a <;> rfl
@[simp] theorem State.noteAccess_keeper (s : State) (a : Accessor) (n : Nat) : (s.noteAccess a n).keeper = s.keeper := by
  cases a <;> rfl
@[simp] theorem State.noteAccess_keeperBad (s : State) (a : Accessor) (n : Nat) : (s.noteAccess a n).keeperBad = s.keeperBad := by
  cases a <;> rfl
@[simp] theorem State.noteAccess_keeperTorn (s : State) (a : Accessor) (n : Nat) : (s.noteAccess a n).keeperTorn = s.keeperTorn := by
  cases a <;> rfl
@[simp] theorem State.noteAccess_keeperQueue (s : State) (a : Accessor) (n : Nat) : (s.noteAccess a n).keeperQueue = s.keeperQueue := by
  cases a <;> rfl
@[simp] theorem State.noteAccess_keeperBusy (s : State) (a : Accessor) (n : Nat) : (s.noteAccess a n).keeperBusy = s.keeperBusy := by
  cases a <;> rfl
@[simp] theorem State.noteAccess_records (s : State) (a : Accessor) (n : Nat) : (s.noteAccess a n).records = s.records := by
  cases a <;> rfl
@[simp] theorem State.noteAccess_triPending (s : State) (a : Accessor) (n : Nat) : (s.noteAccess a n).triPending = s.triPending := by
  cases a <;> rfl
@[simp] theorem State.noteAccess_keepDeferred (s : State) (a : Accessor) (n : Nat) : (s.noteAccess a n).keepDeferred = s.keepDeferred := by
  cases a <;> rfl
@[simp] theorem State.noteAccess_badLog (s : State) (a : Accessor) (n : Nat) : (s.noteAccess a n).badLog = s.badLog := by
  cases a <;> rfl
@[simp] theorem State.noteAccess_egress (s : State) (a : Accessor) (n : Nat) : (s.noteAccess a n).egress = s.egress := by
  cases a <;> rfl
@[simp] theorem State.noteAccess_rxq (s : State) (a : Accessor) (n : Nat) : (s.noteAccess a n).rxq = s.rxq := by
  cases a <;> rfl
@[simp] theorem State.noteAccess_macs (s : State) (a : Accessor) (n : Nat) : (s.noteAccess a n).macs = s.macs := by
  cases a <;> rfl
@[simp] theorem State.noteAccess_laceBytes (s : State) (a : Accessor) (n : Nat) : (s.noteAccess a n).laceBytes = s.laceBytes := by
  cases a <;> rfl
@[simp] theorem State.noteAccess_foreign (s : State) (a : Accessor) (n : Nat) : (s.noteAccess a n).foreign = s.foreign := by
  cases a <;> rfl
@[simp] theorem State.noteAccess_rates (s : State) (a : Accessor) (n : Nat) : (s.noteAccess a n).rates = s.rates := by
  cases a <;> rfl
@[simp] theorem State.noteAccess_caps (s : State) (a : Accessor) (n : Nat) : (s.noteAccess a n).caps = s.caps := by
  cases a <;> rfl
@[simp] theorem State.noteAccess_eyeEdges (s : State) (a : Accessor) (n : Nat) : (s.noteAccess a n).eyeEdges = s.eyeEdges := by
  cases a <;> rfl
@[simp] theorem State.noteAccess_keys (s : State) (a : Accessor) (n : Nat) : (s.noteAccess a n).keys = s.keys := by
  cases a <;> rfl
@[simp] theorem State.noteAccess_responses (s : State) (a : Accessor) (n : Nat) : (s.noteAccess a n).responses = s.responses := by
  cases a <;> rfl
@[simp] theorem State.noteAccess_heldRequests (s : State) (a : Accessor) (n : Nat) : (s.noteAccess a n).heldRequests = s.heldRequests := by
  cases a <;> rfl
@[simp] theorem State.noteAccess_disabledOwed (s : State) (a : Accessor) (n : Nat) : (s.noteAccess a n).disabledOwed = s.disabledOwed := by
  cases a <;> rfl
@[simp] theorem State.noteAccess_banks (s : State) (a : Accessor) (n : Nat) : (s.noteAccess a n).banks = s.banks := by
  cases a <;> rfl
@[simp] theorem State.noteAccess_seen (s : State) (a : Accessor) (n : Nat) : (s.noteAccess a n).seen = s.seen := by
  cases a <;> rfl
@[simp] theorem State.noteAccess_draws (s : State) (a : Accessor) (n : Nat) : (s.noteAccess a n).draws = s.draws := by
  cases a <;> rfl

@[simp] theorem State.noteAccess_reg (s : State) (a : Accessor) (n : Nat) {r : Reg} (i : Nat) (h : r ≠ .iACC_STATUS)
    (k : r ≠ .iACC_ID) : (s.noteAccess a n).reg r i = s.reg r i := by
  cases a
  · rfl
  all_goals simp [State.noteAccess, State.reg_setReg, h.symm, k.symm]

@[simp] theorem State.refuse_eq (s : State) (c : Nat) : s.refuse c = s.setStatus c := rfl
@[simp] theorem State.setStatus_setStatus (s : State) (c d : Nat) : (s.setStatus c).setStatus d = s.setStatus d := rfl
@[simp] theorem State.noteAccess_lastEvent (s : State) (a : Accessor) (n : Nat) :
    (s.noteAccess a n).lastEvent = s.lastEvent := by simp [State.lastEvent]
@[simp] theorem State.setReg_lastEvent (s : State) (r : Reg) (i v : Nat) : (s.setReg r i v).lastEvent = s.lastEvent := rfl
@[simp] theorem State.bump_lastEvent (s : State) (r : Reg) (i : Nat) : (s.bump r i).lastEvent = s.lastEvent := rfl
@[simp] theorem State.setStatus_lastEvent (s : State) (c : Nat) : (s.setStatus c).lastEvent = s.lastEvent := rfl
@[simp] theorem State.send_lastEvent (s : State) (m : List OutMsg) : (s.send m).lastEvent = s.lastEvent := rfl


/-! ## Counting on by more than one, and writing an integer -/

@[simp] theorem State.bumpBy_pending (s : State) (r : Reg) (i n : Nat) : (s.bumpBy r i n).pending = s.pending := rfl
@[simp] theorem State.bumpBy_status (s : State) (r : Reg) (i n : Nat) : (s.bumpBy r i n).status = s.status := rfl
@[simp] theorem State.bumpBy_value (s : State) (r : Reg) (i n : Nat) : (s.bumpBy r i n).value = s.value := rfl
@[simp] theorem State.bumpBy_sent (s : State) (r : Reg) (i n : Nat) : (s.bumpBy r i n).sent = s.sent := rfl
@[simp] theorem State.bumpBy_tb (s : State) (r : Reg) (i n : Nat) : (s.bumpBy r i n).tb = s.tb := rfl
@[simp] theorem State.bumpBy_local_ (s : State) (r : Reg) (i n : Nat) : (s.bumpBy r i n).local_ = s.local_ := rfl
@[simp] theorem State.bumpBy_mem (s : State) (r : Reg) (i n : Nat) : (s.bumpBy r i n).mem = s.mem := rfl
@[simp] theorem State.bumpBy_poison (s : State) (r : Reg) (i n : Nat) : (s.bumpBy r i n).poison = s.poison := rfl
@[simp] theorem State.bumpBy_rowsAhead (s : State) (r : Reg) (i n : Nat) : (s.bumpBy r i n).rowsAhead = s.rowsAhead := rfl
@[simp] theorem State.bumpBy_writeBacks (s : State) (r : Reg) (i n : Nat) : (s.bumpBy r i n).writeBacks = s.writeBacks := rfl
@[simp] theorem State.bumpBy_answer (s : State) (r : Reg) (i n : Nat) : (s.bumpBy r i n).answer = s.answer := rfl
@[simp] theorem State.bumpBy_waits (s : State) (r : Reg) (i n : Nat) : (s.bumpBy r i n).waits = s.waits := rfl
@[simp] theorem State.bumpBy_traffic (s : State) (r : Reg) (i n : Nat) : (s.bumpBy r i n).traffic = s.traffic := rfl
@[simp] theorem State.bumpBy_freezeLog (s : State) (r : Reg) (i n : Nat) : (s.bumpBy r i n).freezeLog = s.freezeLog := rfl
@[simp] theorem State.bumpBy_poisonLog (s : State) (r : Reg) (i n : Nat) : (s.bumpBy r i n).poisonLog = s.poisonLog := rfl
@[simp] theorem State.bumpBy_evLog (s : State) (r : Reg) (i n : Nat) : (s.bumpBy r i n).evLog = s.evLog := rfl
@[simp] theorem State.bumpBy_queues (s : State) (r : Reg) (i n : Nat) : (s.bumpBy r i n).queues = s.queues := rfl
@[simp] theorem State.bumpBy_highReqs (s : State) (r : Reg) (i n : Nat) : (s.bumpBy r i n).highReqs = s.highReqs := rfl
@[simp] theorem State.bumpBy_normalReqs (s : State) (r : Reg) (i n : Nat) : (s.bumpBy r i n).normalReqs = s.normalReqs := rfl
@[simp] theorem State.bumpBy_grants (s : State) (r : Reg) (i n : Nat) : (s.bumpBy r i n).grants = s.grants := rfl
@[simp] theorem State.bumpBy_requeued (s : State) (r : Reg) (i n : Nat) : (s.bumpBy r i n).requeued = s.requeued := rfl
@[simp] theorem State.bumpBy_tileQueue (s : State) (r : Reg) (i n : Nat) : (s.bumpBy r i n).tileQueue = s.tileQueue := rfl
@[simp] theorem State.bumpBy_held (s : State) (r : Reg) (i n : Nat) : (s.bumpBy r i n).held = s.held := rfl
@[simp] theorem State.bumpBy_ring (s : State) (r : Reg) (i n : Nat) : (s.bumpBy r i n).ring = s.ring := rfl
@[simp] theorem State.bumpBy_luts (s : State) (r : Reg) (i n : Nat) : (s.bumpBy r i n).luts = s.luts := rfl
@[simp] theorem State.bumpBy_lutShadow (s : State) (r : Reg) (i n : Nat) : (s.bumpBy r i n).lutShadow = s.lutShadow := rfl
@[simp] theorem State.bumpBy_staged (s : State) (r : Reg) (i n : Nat) : (s.bumpBy r i n).staged = s.staged := rfl
@[simp] theorem State.bumpBy_commits (s : State) (r : Reg) (i n : Nat) : (s.bumpBy r i n).commits = s.commits := rfl
@[simp] theorem State.bumpBy_accepted (s : State) (r : Reg) (i n : Nat) : (s.bumpBy r i n).accepted = s.accepted := rfl
@[simp] theorem State.bumpBy_ingest (s : State) (r : Reg) (i n : Nat) : (s.bumpBy r i n).ingest = s.ingest := rfl
@[simp] theorem State.bumpBy_ingestRefs (s : State) (r : Reg) (i n : Nat) : (s.bumpBy r i n).ingestRefs = s.ingestRefs := rfl
@[simp] theorem State.bumpBy_replay (s : State) (r : Reg) (i n : Nat) : (s.bumpBy r i n).replay = s.replay := rfl
@[simp] theorem State.bumpBy_frameA (s : State) (r : Reg) (i n : Nat) : (s.bumpBy r i n).frameA = s.frameA := rfl
@[simp] theorem State.bumpBy_frameB (s : State) (r : Reg) (i n : Nat) : (s.bumpBy r i n).frameB = s.frameB := rfl
@[simp] theorem State.bumpBy_awaiting (s : State) (r : Reg) (i n : Nat) : (s.bumpBy r i n).awaiting = s.awaiting := rfl
@[simp] theorem State.bumpBy_historyA (s : State) (r : Reg) (i n : Nat) : (s.bumpBy r i n).historyA = s.historyA := rfl
@[simp] theorem State.bumpBy_historyB (s : State) (r : Reg) (i n : Nat) : (s.bumpBy r i n).historyB = s.historyB := rfl
@[simp] theorem State.bumpBy_taps (s : State) (r : Reg) (i n : Nat) : (s.bumpBy r i n).taps = s.taps := rfl
@[simp] theorem State.bumpBy_rejected (s : State) (r : Reg) (i n : Nat) : (s.bumpBy r i n).rejected = s.rejected := rfl
@[simp] theorem State.bumpBy_deliveries (s : State) (r : Reg) (i n : Nat) : (s.bumpBy r i n).deliveries = s.deliveries := rfl
@[simp] theorem State.bumpBy_moves (s : State) (r : Reg) (i n : Nat) : (s.bumpBy r i n).moves = s.moves := rfl
@[simp] theorem State.bumpBy_fwd (s : State) (r : Reg) (i n : Nat) : (s.bumpBy r i n).fwd = s.fwd := rfl
@[simp] theorem State.bumpBy_msgBlocks (s : State) (r : Reg) (i n : Nat) : (s.bumpBy r i n).msgBlocks = s.msgBlocks := rfl
@[simp] theorem State.bumpBy_eqReqs (s : State) (r : Reg) (i n : Nat) : (s.bumpBy r i n).eqReqs = s.eqReqs := rfl
@[simp] theorem State.bumpBy_seqs (s : State) (r : Reg) (i n : Nat) : (s.bumpBy r i n).seqs = s.seqs := rfl
@[simp] theorem State.bumpBy_crcWindow (s : State) (r : Reg) (i n : Nat) : (s.bumpBy r i n).crcWindow = s.crcWindow := rfl
@[simp] theorem State.bumpBy_retrains (s : State) (r : Reg) (i n : Nat) : (s.bumpBy r i n).retrains = s.retrains := rfl
@[simp] theorem State.bumpBy_keepPending (s : State) (r : Reg) (i n : Nat) : (s.bumpBy r i n).keepPending = s.keepPending := rfl
@[simp] theorem State.bumpBy_keeper (s : State) (r : Reg) (i n : Nat) : (s.bumpBy r i n).keeper = s.keeper := rfl
@[simp] theorem State.bumpBy_keeperBad (s : State) (r : Reg) (i n : Nat) : (s.bumpBy r i n).keeperBad = s.keeperBad := rfl
@[simp] theorem State.bumpBy_keeperTorn (s : State) (r : Reg) (i n : Nat) : (s.bumpBy r i n).keeperTorn = s.keeperTorn := rfl
@[simp] theorem State.bumpBy_keeperQueue (s : State) (r : Reg) (i n : Nat) : (s.bumpBy r i n).keeperQueue = s.keeperQueue := rfl
@[simp] theorem State.bumpBy_keeperBusy (s : State) (r : Reg) (i n : Nat) : (s.bumpBy r i n).keeperBusy = s.keeperBusy := rfl
@[simp] theorem State.bumpBy_records (s : State) (r : Reg) (i n : Nat) : (s.bumpBy r i n).records = s.records := rfl
@[simp] theorem State.bumpBy_triPending (s : State) (r : Reg) (i n : Nat) : (s.bumpBy r i n).triPending = s.triPending := rfl
@[simp] theorem State.bumpBy_keepDeferred (s : State) (r : Reg) (i n : Nat) : (s.bumpBy r i n).keepDeferred = s.keepDeferred := rfl
@[simp] theorem State.bumpBy_badLog (s : State) (r : Reg) (i n : Nat) : (s.bumpBy r i n).badLog = s.badLog := rfl
@[simp] theorem State.bumpBy_egress (s : State) (r : Reg) (i n : Nat) : (s.bumpBy r i n).egress = s.egress := rfl
@[simp] theorem State.bumpBy_rxq (s : State) (r : Reg) (i n : Nat) : (s.bumpBy r i n).rxq = s.rxq := rfl
@[simp] theorem State.bumpBy_macs (s : State) (r : Reg) (i n : Nat) : (s.bumpBy r i n).macs = s.macs := rfl
@[simp] theorem State.bumpBy_laceBytes (s : State) (r : Reg) (i n : Nat) : (s.bumpBy r i n).laceBytes = s.laceBytes := rfl
@[simp] theorem State.bumpBy_foreign (s : State) (r : Reg) (i n : Nat) : (s.bumpBy r i n).foreign = s.foreign := rfl
@[simp] theorem State.bumpBy_rates (s : State) (r : Reg) (i n : Nat) : (s.bumpBy r i n).rates = s.rates := rfl
@[simp] theorem State.bumpBy_caps (s : State) (r : Reg) (i n : Nat) : (s.bumpBy r i n).caps = s.caps := rfl
@[simp] theorem State.bumpBy_eyeEdges (s : State) (r : Reg) (i n : Nat) : (s.bumpBy r i n).eyeEdges = s.eyeEdges := rfl
@[simp] theorem State.bumpBy_keys (s : State) (r : Reg) (i n : Nat) : (s.bumpBy r i n).keys = s.keys := rfl
@[simp] theorem State.bumpBy_responses (s : State) (r : Reg) (i n : Nat) : (s.bumpBy r i n).responses = s.responses := rfl
@[simp] theorem State.bumpBy_heldRequests (s : State) (r : Reg) (i n : Nat) : (s.bumpBy r i n).heldRequests = s.heldRequests := rfl
@[simp] theorem State.bumpBy_disabledOwed (s : State) (r : Reg) (i n : Nat) : (s.bumpBy r i n).disabledOwed = s.disabledOwed := rfl
@[simp] theorem State.bumpBy_banks (s : State) (r : Reg) (i n : Nat) : (s.bumpBy r i n).banks = s.banks := rfl
@[simp] theorem State.bumpBy_seen (s : State) (r : Reg) (i n : Nat) : (s.bumpBy r i n).seen = s.seen := rfl
@[simp] theorem State.bumpBy_draws (s : State) (r : Reg) (i n : Nat) : (s.bumpBy r i n).draws = s.draws := rfl
@[simp] theorem State.setRegInt_pending (s : State) (r : Reg) (i : Nat) (v : Int) : (s.setRegInt r i v).pending = s.pending := rfl
@[simp] theorem State.setRegInt_status (s : State) (r : Reg) (i : Nat) (v : Int) : (s.setRegInt r i v).status = s.status := rfl
@[simp] theorem State.setRegInt_value (s : State) (r : Reg) (i : Nat) (v : Int) : (s.setRegInt r i v).value = s.value := rfl
@[simp] theorem State.setRegInt_sent (s : State) (r : Reg) (i : Nat) (v : Int) : (s.setRegInt r i v).sent = s.sent := rfl
@[simp] theorem State.setRegInt_tb (s : State) (r : Reg) (i : Nat) (v : Int) : (s.setRegInt r i v).tb = s.tb := rfl
@[simp] theorem State.setRegInt_local_ (s : State) (r : Reg) (i : Nat) (v : Int) : (s.setRegInt r i v).local_ = s.local_ := rfl
@[simp] theorem State.setRegInt_mem (s : State) (r : Reg) (i : Nat) (v : Int) : (s.setRegInt r i v).mem = s.mem := rfl
@[simp] theorem State.setRegInt_poison (s : State) (r : Reg) (i : Nat) (v : Int) : (s.setRegInt r i v).poison = s.poison := rfl
@[simp] theorem State.setRegInt_rowsAhead (s : State) (r : Reg) (i : Nat) (v : Int) : (s.setRegInt r i v).rowsAhead = s.rowsAhead := rfl
@[simp] theorem State.setRegInt_writeBacks (s : State) (r : Reg) (i : Nat) (v : Int) : (s.setRegInt r i v).writeBacks = s.writeBacks := rfl
@[simp] theorem State.setRegInt_answer (s : State) (r : Reg) (i : Nat) (v : Int) : (s.setRegInt r i v).answer = s.answer := rfl
@[simp] theorem State.setRegInt_waits (s : State) (r : Reg) (i : Nat) (v : Int) : (s.setRegInt r i v).waits = s.waits := rfl
@[simp] theorem State.setRegInt_traffic (s : State) (r : Reg) (i : Nat) (v : Int) : (s.setRegInt r i v).traffic = s.traffic := rfl
@[simp] theorem State.setRegInt_freezeLog (s : State) (r : Reg) (i : Nat) (v : Int) : (s.setRegInt r i v).freezeLog = s.freezeLog := rfl
@[simp] theorem State.setRegInt_poisonLog (s : State) (r : Reg) (i : Nat) (v : Int) : (s.setRegInt r i v).poisonLog = s.poisonLog := rfl
@[simp] theorem State.setRegInt_evLog (s : State) (r : Reg) (i : Nat) (v : Int) : (s.setRegInt r i v).evLog = s.evLog := rfl
@[simp] theorem State.setRegInt_queues (s : State) (r : Reg) (i : Nat) (v : Int) : (s.setRegInt r i v).queues = s.queues := rfl
@[simp] theorem State.setRegInt_highReqs (s : State) (r : Reg) (i : Nat) (v : Int) : (s.setRegInt r i v).highReqs = s.highReqs := rfl
@[simp] theorem State.setRegInt_normalReqs (s : State) (r : Reg) (i : Nat) (v : Int) : (s.setRegInt r i v).normalReqs = s.normalReqs := rfl
@[simp] theorem State.setRegInt_grants (s : State) (r : Reg) (i : Nat) (v : Int) : (s.setRegInt r i v).grants = s.grants := rfl
@[simp] theorem State.setRegInt_requeued (s : State) (r : Reg) (i : Nat) (v : Int) : (s.setRegInt r i v).requeued = s.requeued := rfl
@[simp] theorem State.setRegInt_tileQueue (s : State) (r : Reg) (i : Nat) (v : Int) : (s.setRegInt r i v).tileQueue = s.tileQueue := rfl
@[simp] theorem State.setRegInt_held (s : State) (r : Reg) (i : Nat) (v : Int) : (s.setRegInt r i v).held = s.held := rfl
@[simp] theorem State.setRegInt_ring (s : State) (r : Reg) (i : Nat) (v : Int) : (s.setRegInt r i v).ring = s.ring := rfl
@[simp] theorem State.setRegInt_luts (s : State) (r : Reg) (i : Nat) (v : Int) : (s.setRegInt r i v).luts = s.luts := rfl
@[simp] theorem State.setRegInt_lutShadow (s : State) (r : Reg) (i : Nat) (v : Int) : (s.setRegInt r i v).lutShadow = s.lutShadow := rfl
@[simp] theorem State.setRegInt_staged (s : State) (r : Reg) (i : Nat) (v : Int) : (s.setRegInt r i v).staged = s.staged := rfl
@[simp] theorem State.setRegInt_commits (s : State) (r : Reg) (i : Nat) (v : Int) : (s.setRegInt r i v).commits = s.commits := rfl
@[simp] theorem State.setRegInt_accepted (s : State) (r : Reg) (i : Nat) (v : Int) : (s.setRegInt r i v).accepted = s.accepted := rfl
@[simp] theorem State.setRegInt_ingest (s : State) (r : Reg) (i : Nat) (v : Int) : (s.setRegInt r i v).ingest = s.ingest := rfl
@[simp] theorem State.setRegInt_ingestRefs (s : State) (r : Reg) (i : Nat) (v : Int) : (s.setRegInt r i v).ingestRefs = s.ingestRefs := rfl
@[simp] theorem State.setRegInt_replay (s : State) (r : Reg) (i : Nat) (v : Int) : (s.setRegInt r i v).replay = s.replay := rfl
@[simp] theorem State.setRegInt_frameA (s : State) (r : Reg) (i : Nat) (v : Int) : (s.setRegInt r i v).frameA = s.frameA := rfl
@[simp] theorem State.setRegInt_frameB (s : State) (r : Reg) (i : Nat) (v : Int) : (s.setRegInt r i v).frameB = s.frameB := rfl
@[simp] theorem State.setRegInt_awaiting (s : State) (r : Reg) (i : Nat) (v : Int) : (s.setRegInt r i v).awaiting = s.awaiting := rfl
@[simp] theorem State.setRegInt_historyA (s : State) (r : Reg) (i : Nat) (v : Int) : (s.setRegInt r i v).historyA = s.historyA := rfl
@[simp] theorem State.setRegInt_historyB (s : State) (r : Reg) (i : Nat) (v : Int) : (s.setRegInt r i v).historyB = s.historyB := rfl
@[simp] theorem State.setRegInt_taps (s : State) (r : Reg) (i : Nat) (v : Int) : (s.setRegInt r i v).taps = s.taps := rfl
@[simp] theorem State.setRegInt_rejected (s : State) (r : Reg) (i : Nat) (v : Int) : (s.setRegInt r i v).rejected = s.rejected := rfl
@[simp] theorem State.setRegInt_deliveries (s : State) (r : Reg) (i : Nat) (v : Int) : (s.setRegInt r i v).deliveries = s.deliveries := rfl
@[simp] theorem State.setRegInt_moves (s : State) (r : Reg) (i : Nat) (v : Int) : (s.setRegInt r i v).moves = s.moves := rfl
@[simp] theorem State.setRegInt_fwd (s : State) (r : Reg) (i : Nat) (v : Int) : (s.setRegInt r i v).fwd = s.fwd := rfl
@[simp] theorem State.setRegInt_msgBlocks (s : State) (r : Reg) (i : Nat) (v : Int) : (s.setRegInt r i v).msgBlocks = s.msgBlocks := rfl
@[simp] theorem State.setRegInt_eqReqs (s : State) (r : Reg) (i : Nat) (v : Int) : (s.setRegInt r i v).eqReqs = s.eqReqs := rfl
@[simp] theorem State.setRegInt_seqs (s : State) (r : Reg) (i : Nat) (v : Int) : (s.setRegInt r i v).seqs = s.seqs := rfl
@[simp] theorem State.setRegInt_crcWindow (s : State) (r : Reg) (i : Nat) (v : Int) : (s.setRegInt r i v).crcWindow = s.crcWindow := rfl
@[simp] theorem State.setRegInt_retrains (s : State) (r : Reg) (i : Nat) (v : Int) : (s.setRegInt r i v).retrains = s.retrains := rfl
@[simp] theorem State.setRegInt_keepPending (s : State) (r : Reg) (i : Nat) (v : Int) : (s.setRegInt r i v).keepPending = s.keepPending := rfl
@[simp] theorem State.setRegInt_keeper (s : State) (r : Reg) (i : Nat) (v : Int) : (s.setRegInt r i v).keeper = s.keeper := rfl
@[simp] theorem State.setRegInt_keeperBad (s : State) (r : Reg) (i : Nat) (v : Int) : (s.setRegInt r i v).keeperBad = s.keeperBad := rfl
@[simp] theorem State.setRegInt_keeperTorn (s : State) (r : Reg) (i : Nat) (v : Int) : (s.setRegInt r i v).keeperTorn = s.keeperTorn := rfl
@[simp] theorem State.setRegInt_keeperQueue (s : State) (r : Reg) (i : Nat) (v : Int) : (s.setRegInt r i v).keeperQueue = s.keeperQueue := rfl
@[simp] theorem State.setRegInt_keeperBusy (s : State) (r : Reg) (i : Nat) (v : Int) : (s.setRegInt r i v).keeperBusy = s.keeperBusy := rfl
@[simp] theorem State.setRegInt_records (s : State) (r : Reg) (i : Nat) (v : Int) : (s.setRegInt r i v).records = s.records := rfl
@[simp] theorem State.setRegInt_triPending (s : State) (r : Reg) (i : Nat) (v : Int) : (s.setRegInt r i v).triPending = s.triPending := rfl
@[simp] theorem State.setRegInt_keepDeferred (s : State) (r : Reg) (i : Nat) (v : Int) : (s.setRegInt r i v).keepDeferred = s.keepDeferred := rfl
@[simp] theorem State.setRegInt_badLog (s : State) (r : Reg) (i : Nat) (v : Int) : (s.setRegInt r i v).badLog = s.badLog := rfl
@[simp] theorem State.setRegInt_egress (s : State) (r : Reg) (i : Nat) (v : Int) : (s.setRegInt r i v).egress = s.egress := rfl
@[simp] theorem State.setRegInt_rxq (s : State) (r : Reg) (i : Nat) (v : Int) : (s.setRegInt r i v).rxq = s.rxq := rfl
@[simp] theorem State.setRegInt_macs (s : State) (r : Reg) (i : Nat) (v : Int) : (s.setRegInt r i v).macs = s.macs := rfl
@[simp] theorem State.setRegInt_laceBytes (s : State) (r : Reg) (i : Nat) (v : Int) : (s.setRegInt r i v).laceBytes = s.laceBytes := rfl
@[simp] theorem State.setRegInt_foreign (s : State) (r : Reg) (i : Nat) (v : Int) : (s.setRegInt r i v).foreign = s.foreign := rfl
@[simp] theorem State.setRegInt_rates (s : State) (r : Reg) (i : Nat) (v : Int) : (s.setRegInt r i v).rates = s.rates := rfl
@[simp] theorem State.setRegInt_caps (s : State) (r : Reg) (i : Nat) (v : Int) : (s.setRegInt r i v).caps = s.caps := rfl
@[simp] theorem State.setRegInt_eyeEdges (s : State) (r : Reg) (i : Nat) (v : Int) : (s.setRegInt r i v).eyeEdges = s.eyeEdges := rfl
@[simp] theorem State.setRegInt_keys (s : State) (r : Reg) (i : Nat) (v : Int) : (s.setRegInt r i v).keys = s.keys := rfl
@[simp] theorem State.setRegInt_responses (s : State) (r : Reg) (i : Nat) (v : Int) : (s.setRegInt r i v).responses = s.responses := rfl
@[simp] theorem State.setRegInt_heldRequests (s : State) (r : Reg) (i : Nat) (v : Int) : (s.setRegInt r i v).heldRequests = s.heldRequests := rfl
@[simp] theorem State.setRegInt_disabledOwed (s : State) (r : Reg) (i : Nat) (v : Int) : (s.setRegInt r i v).disabledOwed = s.disabledOwed := rfl
@[simp] theorem State.setRegInt_banks (s : State) (r : Reg) (i : Nat) (v : Int) : (s.setRegInt r i v).banks = s.banks := rfl
@[simp] theorem State.setRegInt_seen (s : State) (r : Reg) (i : Nat) (v : Int) : (s.setRegInt r i v).seen = s.seen := rfl
@[simp] theorem State.setRegInt_draws (s : State) (r : Reg) (i : Nat) (v : Int) : (s.setRegInt r i v).draws = s.draws := rfl

@[simp] theorem State.bumpBy_lastEvent (s : State) (r : Reg) (i n : Nat) : (s.bumpBy r i n).lastEvent = s.lastEvent := rfl
@[simp] theorem State.setRegInt_lastEvent (s : State) (r : Reg) (i : Nat) (v : Int) :
    (s.setRegInt r i v).lastEvent = s.lastEvent := rfl

/-- Reading after counting one on. -/
theorem State.reg_bump (s : State) (r q : Reg) (i j : Nat) :
    (s.bump r i).reg q j = if r = q ∧ i = j then (s.reg r i + 1) % 2 ^ r.width else s.reg q j := State.reg_setReg ..

/-- Reading after counting on. -/
theorem State.reg_bumpBy (s : State) (r q : Reg) (i j n : Nat) :
    (s.bumpBy r i n).reg q j = if r = q ∧ i = j then (s.reg r i + n) % 2 ^ r.width else s.reg q j := State.reg_setReg ..

/-- Reading after writing an integer. -/
theorem State.reg_setRegInt (s : State) (r q : Reg) (i j : Nat) (n : Int) :
    (s.setRegInt r i n).reg q j = if r = q ∧ i = j then (ofInt r.width n) % 2 ^ r.width else s.reg q j := State.reg_setReg ..

/-! ## Values in force -/

@[simp] theorem State.noteKeep_pending (s : State) (q : Reg) (k : Nat) : (s.noteKeep q k).pending = s.pending := by
  unfold State.noteKeep; split <;> rfl
@[simp] theorem State.noteKeep_regs (s : State) (q : Reg) (k : Nat) : (s.noteKeep q k).regs = s.regs := by
  unfold State.noteKeep; split <;> rfl
@[simp] theorem State.noteKeep_status (s : State) (q : Reg) (k : Nat) : (s.noteKeep q k).status = s.status := by
  unfold State.noteKeep; split <;> rfl
@[simp] theorem State.noteKeep_value (s : State) (q : Reg) (k : Nat) : (s.noteKeep q k).value = s.value := by
  unfold State.noteKeep; split <;> rfl
@[simp] theorem State.noteKeep_sent (s : State) (q : Reg) (k : Nat) : (s.noteKeep q k).sent = s.sent := by
  unfold State.noteKeep; split <;> rfl
@[simp] theorem State.noteKeep_tb (s : State) (q : Reg) (k : Nat) : (s.noteKeep q k).tb = s.tb := by
  unfold State.noteKeep; split <;> rfl
@[simp] theorem State.noteKeep_local_ (s : State) (q : Reg) (k : Nat) : (s.noteKeep q k).local_ = s.local_ := by
  unfold State.noteKeep; split <;> rfl
@[simp] theorem State.noteKeep_mem (s : State) (q : Reg) (k : Nat) : (s.noteKeep q k).mem = s.mem := by
  unfold State.noteKeep; split <;> rfl
@[simp] theorem State.noteKeep_poison (s : State) (q : Reg) (k : Nat) : (s.noteKeep q k).poison = s.poison := by
  unfold State.noteKeep; split <;> rfl
@[simp] theorem State.noteKeep_rowsAhead (s : State) (q : Reg) (k : Nat) : (s.noteKeep q k).rowsAhead = s.rowsAhead := by
  unfold State.noteKeep; split <;> rfl
@[simp] theorem State.noteKeep_writeBacks (s : State) (q : Reg) (k : Nat) : (s.noteKeep q k).writeBacks = s.writeBacks := by
  unfold State.noteKeep; split <;> rfl
@[simp] theorem State.noteKeep_answer (s : State) (q : Reg) (k : Nat) : (s.noteKeep q k).answer = s.answer := by
  unfold State.noteKeep; split <;> rfl
@[simp] theorem State.noteKeep_waits (s : State) (q : Reg) (k : Nat) : (s.noteKeep q k).waits = s.waits := by
  unfold State.noteKeep; split <;> rfl
@[simp] theorem State.noteKeep_traffic (s : State) (q : Reg) (k : Nat) : (s.noteKeep q k).traffic = s.traffic := by
  unfold State.noteKeep; split <;> rfl
@[simp] theorem State.noteKeep_freezeLog (s : State) (q : Reg) (k : Nat) : (s.noteKeep q k).freezeLog = s.freezeLog := by
  unfold State.noteKeep; split <;> rfl
@[simp] theorem State.noteKeep_poisonLog (s : State) (q : Reg) (k : Nat) : (s.noteKeep q k).poisonLog = s.poisonLog := by
  unfold State.noteKeep; split <;> rfl
@[simp] theorem State.noteKeep_evLog (s : State) (q : Reg) (k : Nat) : (s.noteKeep q k).evLog = s.evLog := by
  unfold State.noteKeep; split <;> rfl
@[simp] theorem State.noteKeep_queues (s : State) (q : Reg) (k : Nat) : (s.noteKeep q k).queues = s.queues := by
  unfold State.noteKeep; split <;> rfl
@[simp] theorem State.noteKeep_highReqs (s : State) (q : Reg) (k : Nat) : (s.noteKeep q k).highReqs = s.highReqs := by
  unfold State.noteKeep; split <;> rfl
@[simp] theorem State.noteKeep_normalReqs (s : State) (q : Reg) (k : Nat) : (s.noteKeep q k).normalReqs = s.normalReqs := by
  unfold State.noteKeep; split <;> rfl
@[simp] theorem State.noteKeep_grants (s : State) (q : Reg) (k : Nat) : (s.noteKeep q k).grants = s.grants := by
  unfold State.noteKeep; split <;> rfl
@[simp] theorem State.noteKeep_requeued (s : State) (q : Reg) (k : Nat) : (s.noteKeep q k).requeued = s.requeued := by
  unfold State.noteKeep; split <;> rfl
@[simp] theorem State.noteKeep_tileQueue (s : State) (q : Reg) (k : Nat) : (s.noteKeep q k).tileQueue = s.tileQueue := by
  unfold State.noteKeep; split <;> rfl
@[simp] theorem State.noteKeep_held (s : State) (q : Reg) (k : Nat) : (s.noteKeep q k).held = s.held := by
  unfold State.noteKeep; split <;> rfl
@[simp] theorem State.noteKeep_ring (s : State) (q : Reg) (k : Nat) : (s.noteKeep q k).ring = s.ring := by
  unfold State.noteKeep; split <;> rfl
@[simp] theorem State.noteKeep_luts (s : State) (q : Reg) (k : Nat) : (s.noteKeep q k).luts = s.luts := by
  unfold State.noteKeep; split <;> rfl
@[simp] theorem State.noteKeep_lutShadow (s : State) (q : Reg) (k : Nat) : (s.noteKeep q k).lutShadow = s.lutShadow := by
  unfold State.noteKeep; split <;> rfl
@[simp] theorem State.noteKeep_staged (s : State) (q : Reg) (k : Nat) : (s.noteKeep q k).staged = s.staged := by
  unfold State.noteKeep; split <;> rfl
@[simp] theorem State.noteKeep_commits (s : State) (q : Reg) (k : Nat) : (s.noteKeep q k).commits = s.commits := by
  unfold State.noteKeep; split <;> rfl
@[simp] theorem State.noteKeep_accepted (s : State) (q : Reg) (k : Nat) : (s.noteKeep q k).accepted = s.accepted := by
  unfold State.noteKeep; split <;> rfl
@[simp] theorem State.noteKeep_ingest (s : State) (q : Reg) (k : Nat) : (s.noteKeep q k).ingest = s.ingest := by
  unfold State.noteKeep; split <;> rfl
@[simp] theorem State.noteKeep_ingestRefs (s : State) (q : Reg) (k : Nat) : (s.noteKeep q k).ingestRefs = s.ingestRefs := by
  unfold State.noteKeep; split <;> rfl
@[simp] theorem State.noteKeep_replay (s : State) (q : Reg) (k : Nat) : (s.noteKeep q k).replay = s.replay := by
  unfold State.noteKeep; split <;> rfl
@[simp] theorem State.noteKeep_frameA (s : State) (q : Reg) (k : Nat) : (s.noteKeep q k).frameA = s.frameA := by
  unfold State.noteKeep; split <;> rfl
@[simp] theorem State.noteKeep_frameB (s : State) (q : Reg) (k : Nat) : (s.noteKeep q k).frameB = s.frameB := by
  unfold State.noteKeep; split <;> rfl
@[simp] theorem State.noteKeep_awaiting (s : State) (q : Reg) (k : Nat) : (s.noteKeep q k).awaiting = s.awaiting := by
  unfold State.noteKeep; split <;> rfl
@[simp] theorem State.noteKeep_historyA (s : State) (q : Reg) (k : Nat) : (s.noteKeep q k).historyA = s.historyA := by
  unfold State.noteKeep; split <;> rfl
@[simp] theorem State.noteKeep_historyB (s : State) (q : Reg) (k : Nat) : (s.noteKeep q k).historyB = s.historyB := by
  unfold State.noteKeep; split <;> rfl
@[simp] theorem State.noteKeep_taps (s : State) (q : Reg) (k : Nat) : (s.noteKeep q k).taps = s.taps := by
  unfold State.noteKeep; split <;> rfl
@[simp] theorem State.noteKeep_rejected (s : State) (q : Reg) (k : Nat) : (s.noteKeep q k).rejected = s.rejected := by
  unfold State.noteKeep; split <;> rfl
@[simp] theorem State.noteKeep_deliveries (s : State) (q : Reg) (k : Nat) : (s.noteKeep q k).deliveries = s.deliveries := by
  unfold State.noteKeep; split <;> rfl
@[simp] theorem State.noteKeep_moves (s : State) (q : Reg) (k : Nat) : (s.noteKeep q k).moves = s.moves := by
  unfold State.noteKeep; split <;> rfl
@[simp] theorem State.noteKeep_fwd (s : State) (q : Reg) (k : Nat) : (s.noteKeep q k).fwd = s.fwd := by
  unfold State.noteKeep; split <;> rfl
@[simp] theorem State.noteKeep_msgBlocks (s : State) (q : Reg) (k : Nat) : (s.noteKeep q k).msgBlocks = s.msgBlocks := by
  unfold State.noteKeep; split <;> rfl
@[simp] theorem State.noteKeep_eqReqs (s : State) (q : Reg) (k : Nat) : (s.noteKeep q k).eqReqs = s.eqReqs := by
  unfold State.noteKeep; split <;> rfl
@[simp] theorem State.noteKeep_seqs (s : State) (q : Reg) (k : Nat) : (s.noteKeep q k).seqs = s.seqs := by
  unfold State.noteKeep; split <;> rfl
@[simp] theorem State.noteKeep_crcWindow (s : State) (q : Reg) (k : Nat) : (s.noteKeep q k).crcWindow = s.crcWindow := by
  unfold State.noteKeep; split <;> rfl
@[simp] theorem State.noteKeep_retrains (s : State) (q : Reg) (k : Nat) : (s.noteKeep q k).retrains = s.retrains := by
  unfold State.noteKeep; split <;> rfl
@[simp] theorem State.noteKeep_keeper (s : State) (q : Reg) (k : Nat) : (s.noteKeep q k).keeper = s.keeper := by
  unfold State.noteKeep; split <;> rfl
@[simp] theorem State.noteKeep_keeperBad (s : State) (q : Reg) (k : Nat) : (s.noteKeep q k).keeperBad = s.keeperBad := by
  unfold State.noteKeep; split <;> rfl
@[simp] theorem State.noteKeep_keeperTorn (s : State) (q : Reg) (k : Nat) : (s.noteKeep q k).keeperTorn = s.keeperTorn := by
  unfold State.noteKeep; split <;> rfl
@[simp] theorem State.noteKeep_keeperQueue (s : State) (q : Reg) (k : Nat) : (s.noteKeep q k).keeperQueue = s.keeperQueue := by
  unfold State.noteKeep; split <;> rfl
@[simp] theorem State.noteKeep_keeperBusy (s : State) (q : Reg) (k : Nat) : (s.noteKeep q k).keeperBusy = s.keeperBusy := by
  unfold State.noteKeep; split <;> rfl
@[simp] theorem State.noteKeep_records (s : State) (q : Reg) (k : Nat) : (s.noteKeep q k).records = s.records := by
  unfold State.noteKeep; split <;> rfl
@[simp] theorem State.noteKeep_triPending (s : State) (q : Reg) (k : Nat) : (s.noteKeep q k).triPending = s.triPending := by
  unfold State.noteKeep; split <;> rfl
@[simp] theorem State.noteKeep_keepDeferred (s : State) (q : Reg) (k : Nat) : (s.noteKeep q k).keepDeferred = s.keepDeferred := by
  unfold State.noteKeep; split <;> rfl
@[simp] theorem State.noteKeep_badLog (s : State) (q : Reg) (k : Nat) : (s.noteKeep q k).badLog = s.badLog := by
  unfold State.noteKeep; split <;> rfl
@[simp] theorem State.noteKeep_egress (s : State) (q : Reg) (k : Nat) : (s.noteKeep q k).egress = s.egress := by
  unfold State.noteKeep; split <;> rfl
@[simp] theorem State.noteKeep_rxq (s : State) (q : Reg) (k : Nat) : (s.noteKeep q k).rxq = s.rxq := by
  unfold State.noteKeep; split <;> rfl
@[simp] theorem State.noteKeep_macs (s : State) (q : Reg) (k : Nat) : (s.noteKeep q k).macs = s.macs := by
  unfold State.noteKeep; split <;> rfl
@[simp] theorem State.noteKeep_laceBytes (s : State) (q : Reg) (k : Nat) : (s.noteKeep q k).laceBytes = s.laceBytes := by
  unfold State.noteKeep; split <;> rfl
@[simp] theorem State.noteKeep_foreign (s : State) (q : Reg) (k : Nat) : (s.noteKeep q k).foreign = s.foreign := by
  unfold State.noteKeep; split <;> rfl
@[simp] theorem State.noteKeep_rates (s : State) (q : Reg) (k : Nat) : (s.noteKeep q k).rates = s.rates := by
  unfold State.noteKeep; split <;> rfl
@[simp] theorem State.noteKeep_caps (s : State) (q : Reg) (k : Nat) : (s.noteKeep q k).caps = s.caps := by
  unfold State.noteKeep; split <;> rfl
@[simp] theorem State.noteKeep_eyeEdges (s : State) (q : Reg) (k : Nat) : (s.noteKeep q k).eyeEdges = s.eyeEdges := by
  unfold State.noteKeep; split <;> rfl
@[simp] theorem State.noteKeep_keys (s : State) (q : Reg) (k : Nat) : (s.noteKeep q k).keys = s.keys := by
  unfold State.noteKeep; split <;> rfl
@[simp] theorem State.noteKeep_responses (s : State) (q : Reg) (k : Nat) : (s.noteKeep q k).responses = s.responses := by
  unfold State.noteKeep; split <;> rfl
@[simp] theorem State.noteKeep_heldRequests (s : State) (q : Reg) (k : Nat) : (s.noteKeep q k).heldRequests = s.heldRequests := by
  unfold State.noteKeep; split <;> rfl
@[simp] theorem State.noteKeep_disabledOwed (s : State) (q : Reg) (k : Nat) : (s.noteKeep q k).disabledOwed = s.disabledOwed := by
  unfold State.noteKeep; split <;> rfl
@[simp] theorem State.noteKeep_banks (s : State) (q : Reg) (k : Nat) : (s.noteKeep q k).banks = s.banks := by
  unfold State.noteKeep; split <;> rfl
@[simp] theorem State.noteKeep_seen (s : State) (q : Reg) (k : Nat) : (s.noteKeep q k).seen = s.seen := by
  unfold State.noteKeep; split <;> rfl
@[simp] theorem State.noteKeep_draws (s : State) (q : Reg) (k : Nat) : (s.noteKeep q k).draws = s.draws := by
  unfold State.noteKeep; split <;> rfl
@[simp] theorem State.putReg_pending (s : State) (q : Reg) (k v : Nat) : (s.putReg q k v).pending = s.pending := by
  unfold State.putReg; simp
@[simp] theorem State.putReg_status (s : State) (q : Reg) (k v : Nat) : (s.putReg q k v).status = s.status := by
  unfold State.putReg; simp
@[simp] theorem State.putReg_value (s : State) (q : Reg) (k v : Nat) : (s.putReg q k v).value = s.value := by
  unfold State.putReg; simp
@[simp] theorem State.putReg_sent (s : State) (q : Reg) (k v : Nat) : (s.putReg q k v).sent = s.sent := by
  unfold State.putReg; simp
@[simp] theorem State.putReg_tb (s : State) (q : Reg) (k v : Nat) : (s.putReg q k v).tb = s.tb := by
  unfold State.putReg; simp
@[simp] theorem State.putReg_local_ (s : State) (q : Reg) (k v : Nat) : (s.putReg q k v).local_ = s.local_ := by
  unfold State.putReg; simp
@[simp] theorem State.putReg_mem (s : State) (q : Reg) (k v : Nat) : (s.putReg q k v).mem = s.mem := by
  unfold State.putReg; simp
@[simp] theorem State.putReg_poison (s : State) (q : Reg) (k v : Nat) : (s.putReg q k v).poison = s.poison := by
  unfold State.putReg; simp
@[simp] theorem State.putReg_rowsAhead (s : State) (q : Reg) (k v : Nat) : (s.putReg q k v).rowsAhead = s.rowsAhead := by
  unfold State.putReg; simp
@[simp] theorem State.putReg_writeBacks (s : State) (q : Reg) (k v : Nat) : (s.putReg q k v).writeBacks = s.writeBacks := by
  unfold State.putReg; simp
@[simp] theorem State.putReg_answer (s : State) (q : Reg) (k v : Nat) : (s.putReg q k v).answer = s.answer := by
  unfold State.putReg; simp
@[simp] theorem State.putReg_waits (s : State) (q : Reg) (k v : Nat) : (s.putReg q k v).waits = s.waits := by
  unfold State.putReg; simp
@[simp] theorem State.putReg_traffic (s : State) (q : Reg) (k v : Nat) : (s.putReg q k v).traffic = s.traffic := by
  unfold State.putReg; simp
@[simp] theorem State.putReg_freezeLog (s : State) (q : Reg) (k v : Nat) : (s.putReg q k v).freezeLog = s.freezeLog := by
  unfold State.putReg; simp
@[simp] theorem State.putReg_poisonLog (s : State) (q : Reg) (k v : Nat) : (s.putReg q k v).poisonLog = s.poisonLog := by
  unfold State.putReg; simp
@[simp] theorem State.putReg_evLog (s : State) (q : Reg) (k v : Nat) : (s.putReg q k v).evLog = s.evLog := by
  unfold State.putReg; simp
@[simp] theorem State.putReg_queues (s : State) (q : Reg) (k v : Nat) : (s.putReg q k v).queues = s.queues := by
  unfold State.putReg; simp
@[simp] theorem State.putReg_highReqs (s : State) (q : Reg) (k v : Nat) : (s.putReg q k v).highReqs = s.highReqs := by
  unfold State.putReg; simp
@[simp] theorem State.putReg_normalReqs (s : State) (q : Reg) (k v : Nat) : (s.putReg q k v).normalReqs = s.normalReqs := by
  unfold State.putReg; simp
@[simp] theorem State.putReg_grants (s : State) (q : Reg) (k v : Nat) : (s.putReg q k v).grants = s.grants := by
  unfold State.putReg; simp
@[simp] theorem State.putReg_requeued (s : State) (q : Reg) (k v : Nat) : (s.putReg q k v).requeued = s.requeued := by
  unfold State.putReg; simp
@[simp] theorem State.putReg_tileQueue (s : State) (q : Reg) (k v : Nat) : (s.putReg q k v).tileQueue = s.tileQueue := by
  unfold State.putReg; simp
@[simp] theorem State.putReg_held (s : State) (q : Reg) (k v : Nat) : (s.putReg q k v).held = s.held := by
  unfold State.putReg; simp
@[simp] theorem State.putReg_ring (s : State) (q : Reg) (k v : Nat) : (s.putReg q k v).ring = s.ring := by
  unfold State.putReg; simp
@[simp] theorem State.putReg_luts (s : State) (q : Reg) (k v : Nat) : (s.putReg q k v).luts = s.luts := by
  unfold State.putReg; simp
@[simp] theorem State.putReg_lutShadow (s : State) (q : Reg) (k v : Nat) : (s.putReg q k v).lutShadow = s.lutShadow := by
  unfold State.putReg; simp
@[simp] theorem State.putReg_staged (s : State) (q : Reg) (k v : Nat) : (s.putReg q k v).staged = s.staged := by
  unfold State.putReg; simp
@[simp] theorem State.putReg_commits (s : State) (q : Reg) (k v : Nat) : (s.putReg q k v).commits = s.commits := by
  unfold State.putReg; simp
@[simp] theorem State.putReg_accepted (s : State) (q : Reg) (k v : Nat) : (s.putReg q k v).accepted = s.accepted := by
  unfold State.putReg; simp
@[simp] theorem State.putReg_ingest (s : State) (q : Reg) (k v : Nat) : (s.putReg q k v).ingest = s.ingest := by
  unfold State.putReg; simp
@[simp] theorem State.putReg_ingestRefs (s : State) (q : Reg) (k v : Nat) : (s.putReg q k v).ingestRefs = s.ingestRefs := by
  unfold State.putReg; simp
@[simp] theorem State.putReg_replay (s : State) (q : Reg) (k v : Nat) : (s.putReg q k v).replay = s.replay := by
  unfold State.putReg; simp
@[simp] theorem State.putReg_frameA (s : State) (q : Reg) (k v : Nat) : (s.putReg q k v).frameA = s.frameA := by
  unfold State.putReg; simp
@[simp] theorem State.putReg_frameB (s : State) (q : Reg) (k v : Nat) : (s.putReg q k v).frameB = s.frameB := by
  unfold State.putReg; simp
@[simp] theorem State.putReg_awaiting (s : State) (q : Reg) (k v : Nat) : (s.putReg q k v).awaiting = s.awaiting := by
  unfold State.putReg; simp
@[simp] theorem State.putReg_historyA (s : State) (q : Reg) (k v : Nat) : (s.putReg q k v).historyA = s.historyA := by
  unfold State.putReg; simp
@[simp] theorem State.putReg_historyB (s : State) (q : Reg) (k v : Nat) : (s.putReg q k v).historyB = s.historyB := by
  unfold State.putReg; simp
@[simp] theorem State.putReg_taps (s : State) (q : Reg) (k v : Nat) : (s.putReg q k v).taps = s.taps := by
  unfold State.putReg; simp
@[simp] theorem State.putReg_rejected (s : State) (q : Reg) (k v : Nat) : (s.putReg q k v).rejected = s.rejected := by
  unfold State.putReg; simp
@[simp] theorem State.putReg_deliveries (s : State) (q : Reg) (k v : Nat) : (s.putReg q k v).deliveries = s.deliveries := by
  unfold State.putReg; simp
@[simp] theorem State.putReg_moves (s : State) (q : Reg) (k v : Nat) : (s.putReg q k v).moves = s.moves := by
  unfold State.putReg; simp
@[simp] theorem State.putReg_fwd (s : State) (q : Reg) (k v : Nat) : (s.putReg q k v).fwd = s.fwd := by
  unfold State.putReg; simp
@[simp] theorem State.putReg_msgBlocks (s : State) (q : Reg) (k v : Nat) : (s.putReg q k v).msgBlocks = s.msgBlocks := by
  unfold State.putReg; simp
@[simp] theorem State.putReg_eqReqs (s : State) (q : Reg) (k v : Nat) : (s.putReg q k v).eqReqs = s.eqReqs := by
  unfold State.putReg; simp
@[simp] theorem State.putReg_seqs (s : State) (q : Reg) (k v : Nat) : (s.putReg q k v).seqs = s.seqs := by
  unfold State.putReg; simp
@[simp] theorem State.putReg_crcWindow (s : State) (q : Reg) (k v : Nat) : (s.putReg q k v).crcWindow = s.crcWindow := by
  unfold State.putReg; simp
@[simp] theorem State.putReg_retrains (s : State) (q : Reg) (k v : Nat) : (s.putReg q k v).retrains = s.retrains := by
  unfold State.putReg; simp
@[simp] theorem State.putReg_keeper (s : State) (q : Reg) (k v : Nat) : (s.putReg q k v).keeper = s.keeper := by
  unfold State.putReg; simp
@[simp] theorem State.putReg_keeperBad (s : State) (q : Reg) (k v : Nat) : (s.putReg q k v).keeperBad = s.keeperBad := by
  unfold State.putReg; simp
@[simp] theorem State.putReg_keeperTorn (s : State) (q : Reg) (k v : Nat) : (s.putReg q k v).keeperTorn = s.keeperTorn := by
  unfold State.putReg; simp
@[simp] theorem State.putReg_keeperQueue (s : State) (q : Reg) (k v : Nat) : (s.putReg q k v).keeperQueue = s.keeperQueue := by
  unfold State.putReg; simp
@[simp] theorem State.putReg_keeperBusy (s : State) (q : Reg) (k v : Nat) : (s.putReg q k v).keeperBusy = s.keeperBusy := by
  unfold State.putReg; simp
@[simp] theorem State.putReg_records (s : State) (q : Reg) (k v : Nat) : (s.putReg q k v).records = s.records := by
  unfold State.putReg; simp
@[simp] theorem State.putReg_triPending (s : State) (q : Reg) (k v : Nat) : (s.putReg q k v).triPending = s.triPending := by
  unfold State.putReg; simp
@[simp] theorem State.putReg_keepDeferred (s : State) (q : Reg) (k v : Nat) : (s.putReg q k v).keepDeferred = s.keepDeferred := by
  unfold State.putReg; simp
@[simp] theorem State.putReg_badLog (s : State) (q : Reg) (k v : Nat) : (s.putReg q k v).badLog = s.badLog := by
  unfold State.putReg; simp
@[simp] theorem State.putReg_egress (s : State) (q : Reg) (k v : Nat) : (s.putReg q k v).egress = s.egress := by
  unfold State.putReg; simp
@[simp] theorem State.putReg_rxq (s : State) (q : Reg) (k v : Nat) : (s.putReg q k v).rxq = s.rxq := by
  unfold State.putReg; simp
@[simp] theorem State.putReg_macs (s : State) (q : Reg) (k v : Nat) : (s.putReg q k v).macs = s.macs := by
  unfold State.putReg; simp
@[simp] theorem State.putReg_laceBytes (s : State) (q : Reg) (k v : Nat) : (s.putReg q k v).laceBytes = s.laceBytes := by
  unfold State.putReg; simp
@[simp] theorem State.putReg_foreign (s : State) (q : Reg) (k v : Nat) : (s.putReg q k v).foreign = s.foreign := by
  unfold State.putReg; simp
@[simp] theorem State.putReg_rates (s : State) (q : Reg) (k v : Nat) : (s.putReg q k v).rates = s.rates := by
  unfold State.putReg; simp
@[simp] theorem State.putReg_caps (s : State) (q : Reg) (k v : Nat) : (s.putReg q k v).caps = s.caps := by
  unfold State.putReg; simp
@[simp] theorem State.putReg_eyeEdges (s : State) (q : Reg) (k v : Nat) : (s.putReg q k v).eyeEdges = s.eyeEdges := by
  unfold State.putReg; simp
@[simp] theorem State.putReg_keys (s : State) (q : Reg) (k v : Nat) : (s.putReg q k v).keys = s.keys := by
  unfold State.putReg; simp
@[simp] theorem State.putReg_responses (s : State) (q : Reg) (k v : Nat) : (s.putReg q k v).responses = s.responses := by
  unfold State.putReg; simp
@[simp] theorem State.putReg_heldRequests (s : State) (q : Reg) (k v : Nat) : (s.putReg q k v).heldRequests = s.heldRequests := by
  unfold State.putReg; simp
@[simp] theorem State.putReg_disabledOwed (s : State) (q : Reg) (k v : Nat) : (s.putReg q k v).disabledOwed = s.disabledOwed := by
  unfold State.putReg; simp
@[simp] theorem State.putReg_banks (s : State) (q : Reg) (k v : Nat) : (s.putReg q k v).banks = s.banks := by
  unfold State.putReg; simp
@[simp] theorem State.putReg_seen (s : State) (q : Reg) (k v : Nat) : (s.putReg q k v).seen = s.seen := by
  unfold State.putReg; simp
@[simp] theorem State.putReg_draws (s : State) (q : Reg) (k v : Nat) : (s.putReg q k v).draws = s.draws := by
  unfold State.putReg; simp

@[simp] theorem State.noteKeep_reg (s : State) (q : Reg) (k : Nat) (r : Reg) (i : Nat) : (s.noteKeep q k).reg r i = s.reg r i := by
  unfold State.noteKeep; split <;> rfl

/-- Reading after a value took effect. -/
theorem State.reg_putReg (s : State) (r q : Reg) (i j v : Nat) :
    (s.putReg r i v).reg q j = if r = q ∧ i = j then v % 2 ^ r.width else s.reg q j := by
  unfold State.putReg; rw [State.noteKeep_reg, State.reg_setReg]

@[simp] theorem State.noteKeep_lastEvent (s : State) (q : Reg) (k : Nat) : (s.noteKeep q k).lastEvent = s.lastEvent := by
  simp [State.lastEvent]

@[simp] theorem State.putReg_lastEvent (s : State) (q : Reg) (k v : Nat) : (s.putReg q k v).lastEvent = s.lastEvent := by
  simp [State.lastEvent]

/-! ## Raised events -/

@[simp] theorem State.post_pending (s : State) (q : Nat) (e : Entry) : (s.post q e).pending = s.pending := by
  unfold State.post; dsimp only; repeat (first | rfl | split)
@[simp] theorem State.post_status (s : State) (q : Nat) (e : Entry) : (s.post q e).status = s.status := by
  unfold State.post; dsimp only; repeat (first | rfl | split)
@[simp] theorem State.post_value (s : State) (q : Nat) (e : Entry) : (s.post q e).value = s.value := by
  unfold State.post; dsimp only; repeat (first | rfl | split)
@[simp] theorem State.post_sent (s : State) (q : Nat) (e : Entry) : (s.post q e).sent = s.sent := by
  unfold State.post; dsimp only; repeat (first | rfl | split)
@[simp] theorem State.post_tb (s : State) (q : Nat) (e : Entry) : (s.post q e).tb = s.tb := by
  unfold State.post; dsimp only; repeat (first | rfl | split)
@[simp] theorem State.post_local_ (s : State) (q : Nat) (e : Entry) : (s.post q e).local_ = s.local_ := by
  unfold State.post; dsimp only; repeat (first | rfl | split)
@[simp] theorem State.post_mem (s : State) (q : Nat) (e : Entry) : (s.post q e).mem = s.mem := by
  unfold State.post; dsimp only; repeat (first | rfl | split)
@[simp] theorem State.post_poison (s : State) (q : Nat) (e : Entry) : (s.post q e).poison = s.poison := by
  unfold State.post; dsimp only; repeat (first | rfl | split)
@[simp] theorem State.post_rowsAhead (s : State) (q : Nat) (e : Entry) : (s.post q e).rowsAhead = s.rowsAhead := by
  unfold State.post; dsimp only; repeat (first | rfl | split)
@[simp] theorem State.post_writeBacks (s : State) (q : Nat) (e : Entry) : (s.post q e).writeBacks = s.writeBacks := by
  unfold State.post; dsimp only; repeat (first | rfl | split)
@[simp] theorem State.post_answer (s : State) (q : Nat) (e : Entry) : (s.post q e).answer = s.answer := by
  unfold State.post; dsimp only; repeat (first | rfl | split)
@[simp] theorem State.post_waits (s : State) (q : Nat) (e : Entry) : (s.post q e).waits = s.waits := by
  unfold State.post; dsimp only; repeat (first | rfl | split)
@[simp] theorem State.post_traffic (s : State) (q : Nat) (e : Entry) : (s.post q e).traffic = s.traffic := by
  unfold State.post; dsimp only; repeat (first | rfl | split)
@[simp] theorem State.post_freezeLog (s : State) (q : Nat) (e : Entry) : (s.post q e).freezeLog = s.freezeLog := by
  unfold State.post; dsimp only; repeat (first | rfl | split)
@[simp] theorem State.post_poisonLog (s : State) (q : Nat) (e : Entry) : (s.post q e).poisonLog = s.poisonLog := by
  unfold State.post; dsimp only; repeat (first | rfl | split)
@[simp] theorem State.post_evLog (s : State) (q : Nat) (e : Entry) : (s.post q e).evLog = s.evLog := by
  unfold State.post; dsimp only; repeat (first | rfl | split)
@[simp] theorem State.post_highReqs (s : State) (q : Nat) (e : Entry) : (s.post q e).highReqs = s.highReqs := by
  unfold State.post; dsimp only; repeat (first | rfl | split)
@[simp] theorem State.post_normalReqs (s : State) (q : Nat) (e : Entry) : (s.post q e).normalReqs = s.normalReqs := by
  unfold State.post; dsimp only; repeat (first | rfl | split)
@[simp] theorem State.post_grants (s : State) (q : Nat) (e : Entry) : (s.post q e).grants = s.grants := by
  unfold State.post; dsimp only; repeat (first | rfl | split)
@[simp] theorem State.post_requeued (s : State) (q : Nat) (e : Entry) : (s.post q e).requeued = s.requeued := by
  unfold State.post; dsimp only; repeat (first | rfl | split)
@[simp] theorem State.post_tileQueue (s : State) (q : Nat) (e : Entry) : (s.post q e).tileQueue = s.tileQueue := by
  unfold State.post; dsimp only; repeat (first | rfl | split)
@[simp] theorem State.post_held (s : State) (q : Nat) (e : Entry) : (s.post q e).held = s.held := by
  unfold State.post; dsimp only; repeat (first | rfl | split)
@[simp] theorem State.post_ring (s : State) (q : Nat) (e : Entry) : (s.post q e).ring = s.ring := by
  unfold State.post; dsimp only; repeat (first | rfl | split)
@[simp] theorem State.post_luts (s : State) (q : Nat) (e : Entry) : (s.post q e).luts = s.luts := by
  unfold State.post; dsimp only; repeat (first | rfl | split)
@[simp] theorem State.post_lutShadow (s : State) (q : Nat) (e : Entry) : (s.post q e).lutShadow = s.lutShadow := by
  unfold State.post; dsimp only; repeat (first | rfl | split)
@[simp] theorem State.post_staged (s : State) (q : Nat) (e : Entry) : (s.post q e).staged = s.staged := by
  unfold State.post; dsimp only; repeat (first | rfl | split)
@[simp] theorem State.post_commits (s : State) (q : Nat) (e : Entry) : (s.post q e).commits = s.commits := by
  unfold State.post; dsimp only; repeat (first | rfl | split)
@[simp] theorem State.post_accepted (s : State) (q : Nat) (e : Entry) : (s.post q e).accepted = s.accepted := by
  unfold State.post; dsimp only; repeat (first | rfl | split)
@[simp] theorem State.post_ingest (s : State) (q : Nat) (e : Entry) : (s.post q e).ingest = s.ingest := by
  unfold State.post; dsimp only; repeat (first | rfl | split)
@[simp] theorem State.post_ingestRefs (s : State) (q : Nat) (e : Entry) : (s.post q e).ingestRefs = s.ingestRefs := by
  unfold State.post; dsimp only; repeat (first | rfl | split)
@[simp] theorem State.post_replay (s : State) (q : Nat) (e : Entry) : (s.post q e).replay = s.replay := by
  unfold State.post; dsimp only; repeat (first | rfl | split)
@[simp] theorem State.post_frameA (s : State) (q : Nat) (e : Entry) : (s.post q e).frameA = s.frameA := by
  unfold State.post; dsimp only; repeat (first | rfl | split)
@[simp] theorem State.post_frameB (s : State) (q : Nat) (e : Entry) : (s.post q e).frameB = s.frameB := by
  unfold State.post; dsimp only; repeat (first | rfl | split)
@[simp] theorem State.post_awaiting (s : State) (q : Nat) (e : Entry) : (s.post q e).awaiting = s.awaiting := by
  unfold State.post; dsimp only; repeat (first | rfl | split)
@[simp] theorem State.post_historyA (s : State) (q : Nat) (e : Entry) : (s.post q e).historyA = s.historyA := by
  unfold State.post; dsimp only; repeat (first | rfl | split)
@[simp] theorem State.post_historyB (s : State) (q : Nat) (e : Entry) : (s.post q e).historyB = s.historyB := by
  unfold State.post; dsimp only; repeat (first | rfl | split)
@[simp] theorem State.post_taps (s : State) (q : Nat) (e : Entry) : (s.post q e).taps = s.taps := by
  unfold State.post; dsimp only; repeat (first | rfl | split)
@[simp] theorem State.post_rejected (s : State) (q : Nat) (e : Entry) : (s.post q e).rejected = s.rejected := by
  unfold State.post; dsimp only; repeat (first | rfl | split)
@[simp] theorem State.post_deliveries (s : State) (q : Nat) (e : Entry) : (s.post q e).deliveries = s.deliveries := by
  unfold State.post; dsimp only; repeat (first | rfl | split)
@[simp] theorem State.post_moves (s : State) (q : Nat) (e : Entry) : (s.post q e).moves = s.moves := by
  unfold State.post; dsimp only; repeat (first | rfl | split)
@[simp] theorem State.post_fwd (s : State) (q : Nat) (e : Entry) : (s.post q e).fwd = s.fwd := by
  unfold State.post; dsimp only; repeat (first | rfl | split)
@[simp] theorem State.post_msgBlocks (s : State) (q : Nat) (e : Entry) : (s.post q e).msgBlocks = s.msgBlocks := by
  unfold State.post; dsimp only; repeat (first | rfl | split)
@[simp] theorem State.post_eqReqs (s : State) (q : Nat) (e : Entry) : (s.post q e).eqReqs = s.eqReqs := by
  unfold State.post; dsimp only; repeat (first | rfl | split)
@[simp] theorem State.post_seqs (s : State) (q : Nat) (e : Entry) : (s.post q e).seqs = s.seqs := by
  unfold State.post; dsimp only; repeat (first | rfl | split)
@[simp] theorem State.post_crcWindow (s : State) (q : Nat) (e : Entry) : (s.post q e).crcWindow = s.crcWindow := by
  unfold State.post; dsimp only; repeat (first | rfl | split)
@[simp] theorem State.post_retrains (s : State) (q : Nat) (e : Entry) : (s.post q e).retrains = s.retrains := by
  unfold State.post; dsimp only; repeat (first | rfl | split)
@[simp] theorem State.post_keepPending (s : State) (q : Nat) (e : Entry) : (s.post q e).keepPending = s.keepPending := by
  unfold State.post; dsimp only; repeat (first | rfl | split)
@[simp] theorem State.post_keeper (s : State) (q : Nat) (e : Entry) : (s.post q e).keeper = s.keeper := by
  unfold State.post; dsimp only; repeat (first | rfl | split)
@[simp] theorem State.post_keeperBad (s : State) (q : Nat) (e : Entry) : (s.post q e).keeperBad = s.keeperBad := by
  unfold State.post; dsimp only; repeat (first | rfl | split)
@[simp] theorem State.post_keeperTorn (s : State) (q : Nat) (e : Entry) : (s.post q e).keeperTorn = s.keeperTorn := by
  unfold State.post; dsimp only; repeat (first | rfl | split)
@[simp] theorem State.post_keeperQueue (s : State) (q : Nat) (e : Entry) : (s.post q e).keeperQueue = s.keeperQueue := by
  unfold State.post; dsimp only; repeat (first | rfl | split)
@[simp] theorem State.post_keeperBusy (s : State) (q : Nat) (e : Entry) : (s.post q e).keeperBusy = s.keeperBusy := by
  unfold State.post; dsimp only; repeat (first | rfl | split)
@[simp] theorem State.post_records (s : State) (q : Nat) (e : Entry) : (s.post q e).records = s.records := by
  unfold State.post; dsimp only; repeat (first | rfl | split)
@[simp] theorem State.post_triPending (s : State) (q : Nat) (e : Entry) : (s.post q e).triPending = s.triPending := by
  unfold State.post; dsimp only; repeat (first | rfl | split)
@[simp] theorem State.post_keepDeferred (s : State) (q : Nat) (e : Entry) : (s.post q e).keepDeferred = s.keepDeferred := by
  unfold State.post; dsimp only; repeat (first | rfl | split)
@[simp] theorem State.post_badLog (s : State) (q : Nat) (e : Entry) : (s.post q e).badLog = s.badLog := by
  unfold State.post; dsimp only; repeat (first | rfl | split)
@[simp] theorem State.post_egress (s : State) (q : Nat) (e : Entry) : (s.post q e).egress = s.egress := by
  unfold State.post; dsimp only; repeat (first | rfl | split)
@[simp] theorem State.post_rxq (s : State) (q : Nat) (e : Entry) : (s.post q e).rxq = s.rxq := by
  unfold State.post; dsimp only; repeat (first | rfl | split)
@[simp] theorem State.post_macs (s : State) (q : Nat) (e : Entry) : (s.post q e).macs = s.macs := by
  unfold State.post; dsimp only; repeat (first | rfl | split)
@[simp] theorem State.post_laceBytes (s : State) (q : Nat) (e : Entry) : (s.post q e).laceBytes = s.laceBytes := by
  unfold State.post; dsimp only; repeat (first | rfl | split)
@[simp] theorem State.post_foreign (s : State) (q : Nat) (e : Entry) : (s.post q e).foreign = s.foreign := by
  unfold State.post; dsimp only; repeat (first | rfl | split)
@[simp] theorem State.post_rates (s : State) (q : Nat) (e : Entry) : (s.post q e).rates = s.rates := by
  unfold State.post; dsimp only; repeat (first | rfl | split)
@[simp] theorem State.post_caps (s : State) (q : Nat) (e : Entry) : (s.post q e).caps = s.caps := by
  unfold State.post; dsimp only; repeat (first | rfl | split)
@[simp] theorem State.post_eyeEdges (s : State) (q : Nat) (e : Entry) : (s.post q e).eyeEdges = s.eyeEdges := by
  unfold State.post; dsimp only; repeat (first | rfl | split)
@[simp] theorem State.post_keys (s : State) (q : Nat) (e : Entry) : (s.post q e).keys = s.keys := by
  unfold State.post; dsimp only; repeat (first | rfl | split)
@[simp] theorem State.post_responses (s : State) (q : Nat) (e : Entry) : (s.post q e).responses = s.responses := by
  unfold State.post; dsimp only; repeat (first | rfl | split)
@[simp] theorem State.post_heldRequests (s : State) (q : Nat) (e : Entry) : (s.post q e).heldRequests = s.heldRequests := by
  unfold State.post; dsimp only; repeat (first | rfl | split)
@[simp] theorem State.post_disabledOwed (s : State) (q : Nat) (e : Entry) : (s.post q e).disabledOwed = s.disabledOwed := by
  unfold State.post; dsimp only; repeat (first | rfl | split)
@[simp] theorem State.post_banks (s : State) (q : Nat) (e : Entry) : (s.post q e).banks = s.banks := by
  unfold State.post; dsimp only; repeat (first | rfl | split)
@[simp] theorem State.post_seen (s : State) (q : Nat) (e : Entry) : (s.post q e).seen = s.seen := by
  unfold State.post; dsimp only; repeat (first | rfl | split)
@[simp] theorem State.post_draws (s : State) (q : Nat) (e : Entry) : (s.post q e).draws = s.draws := by
  unfold State.post; dsimp only; repeat (first | rfl | split)
@[simp] theorem State.raise_pending (s : State) (c : Nat) (u : Option Nat) (a : List (Nat × Nat)) : (s.raise c u a).pending = s.pending := by
  unfold State.raise; dsimp only; split <;> simp
@[simp] theorem State.raise_status (s : State) (c : Nat) (u : Option Nat) (a : List (Nat × Nat)) : (s.raise c u a).status = s.status := by
  unfold State.raise; dsimp only; split <;> simp
@[simp] theorem State.raise_value (s : State) (c : Nat) (u : Option Nat) (a : List (Nat × Nat)) : (s.raise c u a).value = s.value := by
  unfold State.raise; dsimp only; split <;> simp
@[simp] theorem State.raise_sent (s : State) (c : Nat) (u : Option Nat) (a : List (Nat × Nat)) : (s.raise c u a).sent = s.sent := by
  unfold State.raise; dsimp only; split <;> simp
@[simp] theorem State.raise_tb (s : State) (c : Nat) (u : Option Nat) (a : List (Nat × Nat)) : (s.raise c u a).tb = s.tb := by
  unfold State.raise; dsimp only; split <;> simp
@[simp] theorem State.raise_local_ (s : State) (c : Nat) (u : Option Nat) (a : List (Nat × Nat)) : (s.raise c u a).local_ = s.local_ := by
  unfold State.raise; dsimp only; split <;> simp
@[simp] theorem State.raise_mem (s : State) (c : Nat) (u : Option Nat) (a : List (Nat × Nat)) : (s.raise c u a).mem = s.mem := by
  unfold State.raise; dsimp only; split <;> simp
@[simp] theorem State.raise_poison (s : State) (c : Nat) (u : Option Nat) (a : List (Nat × Nat)) : (s.raise c u a).poison = s.poison := by
  unfold State.raise; dsimp only; split <;> simp
@[simp] theorem State.raise_rowsAhead (s : State) (c : Nat) (u : Option Nat) (a : List (Nat × Nat)) : (s.raise c u a).rowsAhead = s.rowsAhead := by
  unfold State.raise; dsimp only; split <;> simp
@[simp] theorem State.raise_writeBacks (s : State) (c : Nat) (u : Option Nat) (a : List (Nat × Nat)) : (s.raise c u a).writeBacks = s.writeBacks := by
  unfold State.raise; dsimp only; split <;> simp
@[simp] theorem State.raise_answer (s : State) (c : Nat) (u : Option Nat) (a : List (Nat × Nat)) : (s.raise c u a).answer = s.answer := by
  unfold State.raise; dsimp only; split <;> simp
@[simp] theorem State.raise_waits (s : State) (c : Nat) (u : Option Nat) (a : List (Nat × Nat)) : (s.raise c u a).waits = s.waits := by
  unfold State.raise; dsimp only; split <;> simp
@[simp] theorem State.raise_traffic (s : State) (c : Nat) (u : Option Nat) (a : List (Nat × Nat)) : (s.raise c u a).traffic = s.traffic := by
  unfold State.raise; dsimp only; split <;> simp
@[simp] theorem State.raise_freezeLog (s : State) (c : Nat) (u : Option Nat) (a : List (Nat × Nat)) : (s.raise c u a).freezeLog = s.freezeLog := by
  unfold State.raise; dsimp only; split <;> simp
@[simp] theorem State.raise_poisonLog (s : State) (c : Nat) (u : Option Nat) (a : List (Nat × Nat)) : (s.raise c u a).poisonLog = s.poisonLog := by
  unfold State.raise; dsimp only; split <;> simp
@[simp] theorem State.raise_highReqs (s : State) (c : Nat) (u : Option Nat) (a : List (Nat × Nat)) : (s.raise c u a).highReqs = s.highReqs := by
  unfold State.raise; dsimp only; split <;> simp
@[simp] theorem State.raise_normalReqs (s : State) (c : Nat) (u : Option Nat) (a : List (Nat × Nat)) : (s.raise c u a).normalReqs = s.normalReqs := by
  unfold State.raise; dsimp only; split <;> simp
@[simp] theorem State.raise_grants (s : State) (c : Nat) (u : Option Nat) (a : List (Nat × Nat)) : (s.raise c u a).grants = s.grants := by
  unfold State.raise; dsimp only; split <;> simp
@[simp] theorem State.raise_requeued (s : State) (c : Nat) (u : Option Nat) (a : List (Nat × Nat)) : (s.raise c u a).requeued = s.requeued := by
  unfold State.raise; dsimp only; split <;> simp
@[simp] theorem State.raise_tileQueue (s : State) (c : Nat) (u : Option Nat) (a : List (Nat × Nat)) : (s.raise c u a).tileQueue = s.tileQueue := by
  unfold State.raise; dsimp only; split <;> simp
@[simp] theorem State.raise_held (s : State) (c : Nat) (u : Option Nat) (a : List (Nat × Nat)) : (s.raise c u a).held = s.held := by
  unfold State.raise; dsimp only; split <;> simp
@[simp] theorem State.raise_ring (s : State) (c : Nat) (u : Option Nat) (a : List (Nat × Nat)) : (s.raise c u a).ring = s.ring := by
  unfold State.raise; dsimp only; split <;> simp
@[simp] theorem State.raise_luts (s : State) (c : Nat) (u : Option Nat) (a : List (Nat × Nat)) : (s.raise c u a).luts = s.luts := by
  unfold State.raise; dsimp only; split <;> simp
@[simp] theorem State.raise_lutShadow (s : State) (c : Nat) (u : Option Nat) (a : List (Nat × Nat)) : (s.raise c u a).lutShadow = s.lutShadow := by
  unfold State.raise; dsimp only; split <;> simp
@[simp] theorem State.raise_staged (s : State) (c : Nat) (u : Option Nat) (a : List (Nat × Nat)) : (s.raise c u a).staged = s.staged := by
  unfold State.raise; dsimp only; split <;> simp
@[simp] theorem State.raise_commits (s : State) (c : Nat) (u : Option Nat) (a : List (Nat × Nat)) : (s.raise c u a).commits = s.commits := by
  unfold State.raise; dsimp only; split <;> simp
@[simp] theorem State.raise_accepted (s : State) (c : Nat) (u : Option Nat) (a : List (Nat × Nat)) : (s.raise c u a).accepted = s.accepted := by
  unfold State.raise; dsimp only; split <;> simp
@[simp] theorem State.raise_ingest (s : State) (c : Nat) (u : Option Nat) (a : List (Nat × Nat)) : (s.raise c u a).ingest = s.ingest := by
  unfold State.raise; dsimp only; split <;> simp
@[simp] theorem State.raise_ingestRefs (s : State) (c : Nat) (u : Option Nat) (a : List (Nat × Nat)) : (s.raise c u a).ingestRefs = s.ingestRefs := by
  unfold State.raise; dsimp only; split <;> simp
@[simp] theorem State.raise_replay (s : State) (c : Nat) (u : Option Nat) (a : List (Nat × Nat)) : (s.raise c u a).replay = s.replay := by
  unfold State.raise; dsimp only; split <;> simp
@[simp] theorem State.raise_frameA (s : State) (c : Nat) (u : Option Nat) (a : List (Nat × Nat)) : (s.raise c u a).frameA = s.frameA := by
  unfold State.raise; dsimp only; split <;> simp
@[simp] theorem State.raise_frameB (s : State) (c : Nat) (u : Option Nat) (a : List (Nat × Nat)) : (s.raise c u a).frameB = s.frameB := by
  unfold State.raise; dsimp only; split <;> simp
@[simp] theorem State.raise_awaiting (s : State) (c : Nat) (u : Option Nat) (a : List (Nat × Nat)) : (s.raise c u a).awaiting = s.awaiting := by
  unfold State.raise; dsimp only; split <;> simp
@[simp] theorem State.raise_historyA (s : State) (c : Nat) (u : Option Nat) (a : List (Nat × Nat)) : (s.raise c u a).historyA = s.historyA := by
  unfold State.raise; dsimp only; split <;> simp
@[simp] theorem State.raise_historyB (s : State) (c : Nat) (u : Option Nat) (a : List (Nat × Nat)) : (s.raise c u a).historyB = s.historyB := by
  unfold State.raise; dsimp only; split <;> simp
@[simp] theorem State.raise_taps (s : State) (c : Nat) (u : Option Nat) (a : List (Nat × Nat)) : (s.raise c u a).taps = s.taps := by
  unfold State.raise; dsimp only; split <;> simp
@[simp] theorem State.raise_rejected (s : State) (c : Nat) (u : Option Nat) (a : List (Nat × Nat)) : (s.raise c u a).rejected = s.rejected := by
  unfold State.raise; dsimp only; split <;> simp
@[simp] theorem State.raise_deliveries (s : State) (c : Nat) (u : Option Nat) (a : List (Nat × Nat)) : (s.raise c u a).deliveries = s.deliveries := by
  unfold State.raise; dsimp only; split <;> simp
@[simp] theorem State.raise_moves (s : State) (c : Nat) (u : Option Nat) (a : List (Nat × Nat)) : (s.raise c u a).moves = s.moves := by
  unfold State.raise; dsimp only; split <;> simp
@[simp] theorem State.raise_fwd (s : State) (c : Nat) (u : Option Nat) (a : List (Nat × Nat)) : (s.raise c u a).fwd = s.fwd := by
  unfold State.raise; dsimp only; split <;> simp
@[simp] theorem State.raise_msgBlocks (s : State) (c : Nat) (u : Option Nat) (a : List (Nat × Nat)) : (s.raise c u a).msgBlocks = s.msgBlocks := by
  unfold State.raise; dsimp only; split <;> simp
@[simp] theorem State.raise_eqReqs (s : State) (c : Nat) (u : Option Nat) (a : List (Nat × Nat)) : (s.raise c u a).eqReqs = s.eqReqs := by
  unfold State.raise; dsimp only; split <;> simp
@[simp] theorem State.raise_seqs (s : State) (c : Nat) (u : Option Nat) (a : List (Nat × Nat)) : (s.raise c u a).seqs = s.seqs := by
  unfold State.raise; dsimp only; split <;> simp
@[simp] theorem State.raise_crcWindow (s : State) (c : Nat) (u : Option Nat) (a : List (Nat × Nat)) : (s.raise c u a).crcWindow = s.crcWindow := by
  unfold State.raise; dsimp only; split <;> simp
@[simp] theorem State.raise_retrains (s : State) (c : Nat) (u : Option Nat) (a : List (Nat × Nat)) : (s.raise c u a).retrains = s.retrains := by
  unfold State.raise; dsimp only; split <;> simp
@[simp] theorem State.raise_keepPending (s : State) (c : Nat) (u : Option Nat) (a : List (Nat × Nat)) : (s.raise c u a).keepPending = s.keepPending := by
  unfold State.raise; dsimp only; split <;> simp
@[simp] theorem State.raise_keeper (s : State) (c : Nat) (u : Option Nat) (a : List (Nat × Nat)) : (s.raise c u a).keeper = s.keeper := by
  unfold State.raise; dsimp only; split <;> simp
@[simp] theorem State.raise_keeperBad (s : State) (c : Nat) (u : Option Nat) (a : List (Nat × Nat)) : (s.raise c u a).keeperBad = s.keeperBad := by
  unfold State.raise; dsimp only; split <;> simp
@[simp] theorem State.raise_keeperTorn (s : State) (c : Nat) (u : Option Nat) (a : List (Nat × Nat)) : (s.raise c u a).keeperTorn = s.keeperTorn := by
  unfold State.raise; dsimp only; split <;> simp
@[simp] theorem State.raise_keeperQueue (s : State) (c : Nat) (u : Option Nat) (a : List (Nat × Nat)) : (s.raise c u a).keeperQueue = s.keeperQueue := by
  unfold State.raise; dsimp only; split <;> simp
@[simp] theorem State.raise_keeperBusy (s : State) (c : Nat) (u : Option Nat) (a : List (Nat × Nat)) : (s.raise c u a).keeperBusy = s.keeperBusy := by
  unfold State.raise; dsimp only; split <;> simp
@[simp] theorem State.raise_records (s : State) (c : Nat) (u : Option Nat) (a : List (Nat × Nat)) : (s.raise c u a).records = s.records := by
  unfold State.raise; dsimp only; split <;> simp
@[simp] theorem State.raise_triPending (s : State) (c : Nat) (u : Option Nat) (a : List (Nat × Nat)) : (s.raise c u a).triPending = s.triPending := by
  unfold State.raise; dsimp only; split <;> simp
@[simp] theorem State.raise_keepDeferred (s : State) (c : Nat) (u : Option Nat) (a : List (Nat × Nat)) : (s.raise c u a).keepDeferred = s.keepDeferred := by
  unfold State.raise; dsimp only; split <;> simp
@[simp] theorem State.raise_badLog (s : State) (c : Nat) (u : Option Nat) (a : List (Nat × Nat)) : (s.raise c u a).badLog = s.badLog := by
  unfold State.raise; dsimp only; split <;> simp
@[simp] theorem State.raise_egress (s : State) (c : Nat) (u : Option Nat) (a : List (Nat × Nat)) : (s.raise c u a).egress = s.egress := by
  unfold State.raise; dsimp only; split <;> simp
@[simp] theorem State.raise_rxq (s : State) (c : Nat) (u : Option Nat) (a : List (Nat × Nat)) : (s.raise c u a).rxq = s.rxq := by
  unfold State.raise; dsimp only; split <;> simp
@[simp] theorem State.raise_macs (s : State) (c : Nat) (u : Option Nat) (a : List (Nat × Nat)) : (s.raise c u a).macs = s.macs := by
  unfold State.raise; dsimp only; split <;> simp
@[simp] theorem State.raise_laceBytes (s : State) (c : Nat) (u : Option Nat) (a : List (Nat × Nat)) : (s.raise c u a).laceBytes = s.laceBytes := by
  unfold State.raise; dsimp only; split <;> simp
@[simp] theorem State.raise_foreign (s : State) (c : Nat) (u : Option Nat) (a : List (Nat × Nat)) : (s.raise c u a).foreign = s.foreign := by
  unfold State.raise; dsimp only; split <;> simp
@[simp] theorem State.raise_rates (s : State) (c : Nat) (u : Option Nat) (a : List (Nat × Nat)) : (s.raise c u a).rates = s.rates := by
  unfold State.raise; dsimp only; split <;> simp
@[simp] theorem State.raise_caps (s : State) (c : Nat) (u : Option Nat) (a : List (Nat × Nat)) : (s.raise c u a).caps = s.caps := by
  unfold State.raise; dsimp only; split <;> simp
@[simp] theorem State.raise_eyeEdges (s : State) (c : Nat) (u : Option Nat) (a : List (Nat × Nat)) : (s.raise c u a).eyeEdges = s.eyeEdges := by
  unfold State.raise; dsimp only; split <;> simp
@[simp] theorem State.raise_keys (s : State) (c : Nat) (u : Option Nat) (a : List (Nat × Nat)) : (s.raise c u a).keys = s.keys := by
  unfold State.raise; dsimp only; split <;> simp
@[simp] theorem State.raise_responses (s : State) (c : Nat) (u : Option Nat) (a : List (Nat × Nat)) : (s.raise c u a).responses = s.responses := by
  unfold State.raise; dsimp only; split <;> simp
@[simp] theorem State.raise_heldRequests (s : State) (c : Nat) (u : Option Nat) (a : List (Nat × Nat)) : (s.raise c u a).heldRequests = s.heldRequests := by
  unfold State.raise; dsimp only; split <;> simp
@[simp] theorem State.raise_disabledOwed (s : State) (c : Nat) (u : Option Nat) (a : List (Nat × Nat)) : (s.raise c u a).disabledOwed = s.disabledOwed := by
  unfold State.raise; dsimp only; split <;> simp
@[simp] theorem State.raise_banks (s : State) (c : Nat) (u : Option Nat) (a : List (Nat × Nat)) : (s.raise c u a).banks = s.banks := by
  unfold State.raise; dsimp only; split <;> simp
@[simp] theorem State.raise_seen (s : State) (c : Nat) (u : Option Nat) (a : List (Nat × Nat)) : (s.raise c u a).seen = s.seen := by
  unfold State.raise; dsimp only; split <;> simp
@[simp] theorem State.raise_draws (s : State) (c : Nat) (u : Option Nat) (a : List (Nat × Nat)) : (s.raise c u a).draws = s.draws := by
  unfold State.raise; dsimp only; split <;> simp
/-- Reading after an update that leaves what is read. -/
@[simp] theorem State.mk_reg (s : State) (r : Reg) (i : Nat)
    (a0 : List Instr) (a2 : Nat) (a3 : List Byte) (a4 : List OutMsg) (a5 : Nat) (a6 : Nat) (a7 : List
    Host.Cell) (a8 : List Nat) (a9 : List Nat) (a10 : List WriteBack) (a11 : ReadAnswer) (a12 : List (Nat ×
    Nat × Nat)) (a13 : List (Nat × Nat × Nat)) (a14 : List LogEntry) (a15 : List LogEntry) (a16 : List Entry)
    (a17 : List (Nat × NQueue)) (a18 : List (PowerOp × Nat)) (a19 : List (PowerOp × Nat)) (a20 : List
    PowerOp) (a21 : List Tile) (a22 : List Tile) (a23 : List (Nat × Tile)) (a24 : List RingTile) (a25 : List
    (Nat × Nat)) (a26 : List LutWrite) (a27 : List Staged) (a28 : List Commit) (a29 : List Accepted) (a30 :
    List IngestTile) (a31 : List (Nat × Nat × Nat)) (a32 : List (Nat × Nat)) (a33 : FrameRec) (a34 :
    FrameRec) (a35 : List (Nat × FrameRec)) (a36 : List Nat) (a37 : List Nat) (a38 : List TapFrame) (a39 :
    List (Nat × Nat)) (a40 : List Delivery) (a41 : List Move) (a42 : List FwdMsg) (a43 : List (Nat × Nat ×
    Nat)) (a44 : List EqReq) (a45 : List (Nat × Nat)) (a46 : List (Nat × Nat × Nat)) (a47 : List (Nat × Nat ×
    Bool)) (a48 : List Nat) (a49 : List Host.Cell) (a50 : List Nat) (a51 : List Nat) (a52 : List PageWrite)
    (a53 : List PageWrite) (a54 : List RecordWrite) (a55 : List PageBy) (a56 : List Nat) (a57 : List
    LogEntry) (a58 : List EgressFrame) (a59 : List (Nat × List Byte)) (a60 : List (Nat × Nat)) (a61 : List
    (Nat × List Byte)) (a62 : List ForeignMaster) (a63 : List (Nat × Nat)) (a64 : List (Nat × Nat)) (a65 :
    List (Nat × Int)) (a66 : List (Nat × Nat × Nat)) (a67 : List (Nat × List Byte)) (a68 : List (Nat × List
    Byte)) (a69 : List (Nat × Nat)) (a70 : Banks) (a71 : Seen) (a72 : Nat) :
    State.reg (State.mk a0 s.regs a2 a3 a4 a5 a6 a7 a8 a9 a10 a11 a12 a13 a14 a15 a16 a17 a18 a19 a20 a21 a22 a23 a24 a25 a26 a27
    a28 a29 a30 a31 a32 a33 a34 a35 a36 a37 a38 a39 a40 a41 a42 a43 a44 a45 a46 a47 a48 a49 a50 a51 a52 a53
    a54 a55 a56 a57 a58 a59 a60 a61 a62 a63 a64 a65 a66 a67 a68 a69 a70 a71 a72) r i = State.reg s r i := rfl

/-- Reading after an update that leaves what is read. -/
@[simp] theorem State.mk_lastEvent (s : State) 
    (a0 : List Instr) (a1 : List (Nat × Nat)) (a2 : Nat) (a3 : List Byte) (a4 : List OutMsg) (a5 : Nat) (a6 :
    Nat) (a7 : List Host.Cell) (a8 : List Nat) (a9 : List Nat) (a10 : List WriteBack) (a11 : ReadAnswer) (a12
    : List (Nat × Nat × Nat)) (a13 : List (Nat × Nat × Nat)) (a14 : List LogEntry) (a15 : List LogEntry) (a17
    : List (Nat × NQueue)) (a18 : List (PowerOp × Nat)) (a19 : List (PowerOp × Nat)) (a20 : List PowerOp)
    (a21 : List Tile) (a22 : List Tile) (a23 : List (Nat × Tile)) (a24 : List RingTile) (a25 : List (Nat ×
    Nat)) (a26 : List LutWrite) (a27 : List Staged) (a28 : List Commit) (a29 : List Accepted) (a30 : List
    IngestTile) (a31 : List (Nat × Nat × Nat)) (a32 : List (Nat × Nat)) (a33 : FrameRec) (a34 : FrameRec)
    (a35 : List (Nat × FrameRec)) (a36 : List Nat) (a37 : List Nat) (a38 : List TapFrame) (a39 : List (Nat ×
    Nat)) (a40 : List Delivery) (a41 : List Move) (a42 : List FwdMsg) (a43 : List (Nat × Nat × Nat)) (a44 :
    List EqReq) (a45 : List (Nat × Nat)) (a46 : List (Nat × Nat × Nat)) (a47 : List (Nat × Nat × Bool)) (a48
    : List Nat) (a49 : List Host.Cell) (a50 : List Nat) (a51 : List Nat) (a52 : List PageWrite) (a53 : List
    PageWrite) (a54 : List RecordWrite) (a55 : List PageBy) (a56 : List Nat) (a57 : List LogEntry) (a58 :
    List EgressFrame) (a59 : List (Nat × List Byte)) (a60 : List (Nat × Nat)) (a61 : List (Nat × List Byte))
    (a62 : List ForeignMaster) (a63 : List (Nat × Nat)) (a64 : List (Nat × Nat)) (a65 : List (Nat × Int))
    (a66 : List (Nat × Nat × Nat)) (a67 : List (Nat × List Byte)) (a68 : List (Nat × List Byte)) (a69 : List
    (Nat × Nat)) (a70 : Banks) (a71 : Seen) (a72 : Nat) :
    State.lastEvent (State.mk a0 a1 a2 a3 a4 a5 a6 a7 a8 a9 a10 a11 a12 a13 a14 a15 s.evLog a17 a18 a19 a20 a21 a22 a23 a24 a25 a26 a27
    a28 a29 a30 a31 a32 a33 a34 a35 a36 a37 a38 a39 a40 a41 a42 a43 a44 a45 a46 a47 a48 a49 a50 a51 a52 a53
    a54 a55 a56 a57 a58 a59 a60 a61 a62 a63 a64 a65 a66 a67 a68 a69 a70 a71 a72) = State.lastEvent s := rfl


/-- The event log ends with the event just raised. -/
@[simp] theorem State.raise_lastEvent (s : State) (c : Nat) (u : Option Nat) (a : List (Nat × Nat)) :
    (s.raise c u a).lastEvent = some (c, packBits a) := by
  unfold State.raise State.lastEvent; dsimp only; split <;> simp

/-- Raising an event leaves the other registers. -/
@[simp] theorem State.raise_reg (s : State) (c : Nat) (u : Option Nat) (a : List (Nat × Nat)) {r : Reg} (i : Nat)
    (h1 : r ≠ .EV_COUNT) (h2 : r ≠ .NQ_SEQ) (h3 : r ≠ .NQ_LOST) : (s.raise c u a).reg r i = s.reg r i :=
  (State.raise_touches (W := State.raise_foot) (fun _ h => h) (Touches.refl _ s)).reg r i
    (by simp [State.raise_foot, State.post_foot, h1, h2, h3]) (by simp [State.raise_foot, State.post_foot])

/-! ## Completion -/

/-- Whether a part is one register. -/
def Part.isReg : Part → Bool
  | .reg _ => true
  | _ => false

/-- Where any register may be touched, only the other parts must be named. -/
theorem Touches.anyReg {V W : List Part} {s t : State} (hA : Part.anyReg ∈ W)
    (hV : ∀ p ∈ V, p ∈ W ∨ p.isReg = true) (h : Touches V s t) : Touches W s t where
  reg _ _ _ ha := absurd hA ha
  mem hm := h.mem (fun x => (hV _ x).elim hm (fun e => by cases e))
  keeper hm := h.keeper (fun x => (hV _ x).elim hm (fun e => by cases e))
  time hm := h.time (fun x => (hV _ x).elim hm (fun e => by cases e))
  keys hm := h.keys (fun x => (hV _ x).elim hm (fun e => by cases e))
  fld f hf ha := h.fld f (fun x => (hV _ x).elim hf (fun e => by cases e))
    (fun x => (hV _ x).elim ha (fun e => by cases e))
  keeps := h.keeps

theorem OutTouches.anyReg {V W : List Part} {s : State} {o : Out} (hA : Part.anyReg ∈ W)
    (hV : ∀ p ∈ V, p ∈ W ∨ p.isReg = true) (h : OutTouches V s o) : OutTouches W s o := by
  obtain ⟨u, e, k⟩ := h
  exact ⟨u, e, k.anyReg hA hV⟩


/-- A command completes if exec answers a state, the claim holds of it, and its frame is what the command touches. -/
theorem Runs.of {c : Instr} {s t : State} {W : List Part} {P : State → Prop} (e : exec c s = .next t) (p : P t)
    (h : OutTouches W s (exec c s)) : Runs c s W P := by
  obtain ⟨u, hu, k⟩ := h
  rw [e] at hu
  cases hu
  exact ⟨t, e, p, k⟩

/-- The same, from what holds of whatever state exec answers. -/
theorem Runs.of_next {c : Instr} {s : State} {W : List Part} {P : State → Prop} (h : OutTouches W s (exec c s))
    (p : ∀ t, exec c s = .next t → P t) : Runs c s W P := by
  obtain ⟨u, hu, k⟩ := h
  exact ⟨u, hu, p u hu, k⟩

end Sys2Proof.Machine
end

