-- ==== Sys2Proof/Laws/TouchesAdmission.lean ====
section
/-! SUPPORT. What the functions of Machine/Admission.lean touch. -/
namespace Sys2Proof.Machine
set_option linter.all false

/-- The parts State.computeReach touches. -/
def State.computeReach_foot : List Part := [.reg .iTY]

theorem State.computeReach_touches {W : List Part} {σ τ : State} {slot : Nat} {w : Nat} {h : Nat} (hW : ∀ p ∈ State.computeReach_foot, p ∈ W)
    (hT : Touches W σ τ) : Touches W σ (State.computeReach τ slot w h) := by
  unfold State.computeReach
  try dsimp only
  repeat' first
    | with_reducible apply Touches.ite
    | with_reducible refine State.setRegInt_touches (hW _ (by first | (simp [State.computeReach_foot]; done) | (split <;> simp [State.computeReach_foot] <;> done) | ((repeat' split) <;> simp [State.computeReach_foot])))  ?_
    | split
    | with_reducible refine forN_touches ?_ (fun x k hx => ?_)
    | with_reducible refine foldl_touches ?_ (fun x a hx => ?_)
    | with_reducible refine foldlSnd_touches ?_ (fun x a hx => ?_)
    | with_reducible assumption

end Sys2Proof.Machine
end

