-- ==== Sys2Proof/Laws/TouchesCommit.lean ====
section
/-! SUPPORT. What the functions of Machine/Commit.lean touch. -/
namespace Sys2Proof.Machine
set_option linter.all false

/-- A key of the register map may name any register. -/
def State.putKey_foot : List Part := [.anyReg, .fld .keepPending]

theorem State.putKey_touches {W : List Part} {s t : State} {k v : Nat} (hW : ∀ p ∈ State.putKey_foot, p ∈ W)
    (h : Touches W s t) : Touches W s (t.putKey k v) := by
  have h1 : Part.anyReg ∈ W := hW _ (by simp [State.putKey_foot])
  unfold State.putKey
  split
  · exact State.setReg_touches_any h1 h
  · split
    · exact h
    · exact State.noteKeep_touches (hW _ (by simp [State.putKey_foot])) (State.setReg_touches_any h1 h)

/-- The parts State.stage touches. -/
def State.stage_foot : List Part := [.fld .staged]

theorem State.stage_touches {W : List Part} {σ τ : State} {e : Staged} (hW : ∀ p ∈ State.stage_foot, p ∈ W)
    (hT : Touches W σ τ) : Touches W σ (State.stage τ e) := by
  unfold State.stage
  try dsimp only
  repeat' first
    | with_reducible apply Touches.ite
    | split
    | with_reducible refine forN_touches ?_ (fun x k hx => ?_)
    | with_reducible refine foldl_touches ?_ (fun x a hx => ?_)
    | with_reducible refine foldlSnd_touches ?_ (fun x a hx => ?_)
    | with_reducible assumption
    | with_reducible refine touches_mk (fun f => by cases f <;> first | exact .inr (by with_reducible rfl) | exact .inl (hW _ (by simp [State.stage_foot]))) ?_

/-- The parts State.stageWrite touches. -/
def State.stageWrite_foot : List Part := [.reg .iG_PENDRATE, .fld .status] ++ State.stage_foot

theorem State.stageWrite_touches {W : List Part} {σ τ : State} {acc : Accessor} {r : Reg} {i : Nat} {v : Nat} (hW : ∀ p ∈ State.stageWrite_foot, p ∈ W)
    (hT : Touches W σ τ) : Touches W σ (State.stageWrite τ acc r i v) := by
  unfold State.stageWrite
  try dsimp only
  repeat' first
    | with_reducible apply Touches.ite
    | with_reducible refine State.setReg_touches (hW _ (by first | (simp [State.stageWrite_foot]; done) | (split <;> simp [State.stageWrite_foot] <;> done) | ((repeat' split) <;> simp [State.stageWrite_foot])))  ?_
    | with_reducible refine State.refuse_touches (hW _ (by simp [State.stageWrite_foot])) ?_
    | with_reducible refine State.stage_touches (fun p hp => hW p (by unfold State.stageWrite_foot; repeat first | with_reducible exact hp | with_reducible exact List.mem_append_right _ hp | with_reducible apply List.mem_append_left)) ?_
    | split
    | with_reducible refine forN_touches ?_ (fun x k hx => ?_)
    | with_reducible refine foldl_touches ?_ (fun x a hx => ?_)
    | with_reducible refine foldlSnd_touches ?_ (fun x a hx => ?_)
    | with_reducible assumption

/-- The parts State.newId touches. -/
def State.newId_foot : List Part := [.reg .iCMT_NEXT]

theorem State.newId_touches {W : List Part} {σ τ : State}  (hW : ∀ p ∈ State.newId_foot, p ∈ W)
    (hT : Touches W σ τ) : Touches W σ (State.newId τ).2 := by
  unfold State.newId
  try dsimp only
  repeat' first
    | with_reducible apply Touches.iteSnd
    | with_reducible apply Touches.ite
    | with_reducible refine State.setReg_touches (hW _ (by first | (simp [State.newId_foot]; done) | (split <;> simp [State.newId_foot] <;> done) | ((repeat' split) <;> simp [State.newId_foot])))  ?_
    | split
    | with_reducible refine forN_touches ?_ (fun x k hx => ?_)
    | with_reducible refine foldl_touches ?_ (fun x a hx => ?_)
    | with_reducible refine foldlSnd_touches ?_ (fun x a hx => ?_)
    | with_reducible assumption

/-- The parts State.idleGroup touches. -/
def State.idleGroup_foot : List Part := [.reg .CG_OWNER, .reg .CG_STATE, .fld .staged]

theorem State.idleGroup_touches {W : List Part} {σ τ : State} {g : Nat} (hW : ∀ p ∈ State.idleGroup_foot, p ∈ W)
    (hT : Touches W σ τ) : Touches W σ (State.idleGroup τ g) := by
  unfold State.idleGroup
  try dsimp only
  repeat' first
    | with_reducible apply Touches.ite
    | with_reducible refine State.setReg_touches (hW _ (by first | (simp [State.idleGroup_foot]; done) | (split <;> simp [State.idleGroup_foot] <;> done) | ((repeat' split) <;> simp [State.idleGroup_foot])))  ?_
    | split
    | with_reducible refine forN_touches ?_ (fun x k hx => ?_)
    | with_reducible refine foldl_touches ?_ (fun x a hx => ?_)
    | with_reducible refine foldlSnd_touches ?_ (fun x a hx => ?_)
    | with_reducible assumption
    | with_reducible refine touches_mk (fun f => by cases f <;> first | exact .inr (by with_reducible rfl) | exact .inl (hW _ (by simp [State.idleGroup_foot]))) ?_

/-- The parts State.addCommit touches. -/
def State.addCommit_foot : List Part := [.fld .commits]

theorem State.addCommit_touches {W : List Part} {σ τ : State} {c : Commit} (hW : ∀ p ∈ State.addCommit_foot, p ∈ W)
    (hT : Touches W σ τ) : Touches W σ (State.addCommit τ c) := by
  unfold State.addCommit
  try dsimp only
  repeat' first
    | with_reducible apply Touches.ite
    | split
    | with_reducible refine forN_touches ?_ (fun x k hx => ?_)
    | with_reducible refine foldl_touches ?_ (fun x a hx => ?_)
    | with_reducible refine foldlSnd_touches ?_ (fun x a hx => ?_)
    | with_reducible assumption
    | with_reducible refine touches_mk (fun f => by cases f <;> first | exact .inr (by with_reducible rfl) | exact .inl (hW _ (by simp [State.addCommit_foot]))) ?_

/-- The parts State.goGroup touches. -/
def State.goGroup_foot : List Part := [.reg .CG_ID, .reg .CG_STATE, .reg .CMT_LATE] ++ State.newId_foot ++ State.addCommit_foot

theorem State.goGroup_touches {W : List Part} {s t u : State} {g : Nat} (hW : ∀ p ∈ State.goGroup_foot, p ∈ W)
    (e : t.goGroup g = some u) (h : Touches W s t) : Touches W s u := by
  unfold State.goGroup at e
  dsimp only at e
  split at e
  · cases e
  · cases e
    repeat' first
    | with_reducible apply Touches.ite
    | with_reducible refine Touches.ofPair (by assumption) (State.newId_touches (fun p hp => hW p (by unfold State.goGroup_foot; repeat first | with_reducible exact hp | with_reducible exact List.mem_append_right _ hp | with_reducible apply List.mem_append_left)) ?_)
    | with_reducible refine State.newId_touches (fun p hp => hW p (by unfold State.goGroup_foot; repeat first | with_reducible exact hp | with_reducible exact List.mem_append_right _ hp | with_reducible apply List.mem_append_left)) ?_
    | with_reducible refine State.addCommit_touches (fun p hp => hW p (by unfold State.goGroup_foot; repeat first | with_reducible exact hp | with_reducible exact List.mem_append_right _ hp | with_reducible apply List.mem_append_left)) ?_
    | with_reducible refine State.setReg_touches (hW _ (by first | (simp [State.goGroup_foot]; done) | (split <;> simp [State.goGroup_foot] <;> done) | ((repeat' split) <;> simp [State.goGroup_foot])))  ?_
    | with_reducible refine State.bump_touches (hW _ (by first | (simp [State.goGroup_foot]; done) | (split <;> simp [State.goGroup_foot] <;> done) | ((repeat' split) <;> simp [State.goGroup_foot])))  ?_
    | split
    | with_reducible refine forN_touches ?_ (fun x k hx => ?_)
    | with_reducible refine foldl_touches ?_ (fun x a hx => ?_)
    | with_reducible refine foldlSnd_touches ?_ (fun x a hx => ?_)
    | with_reducible assumption

/-- The parts execCgCtrlOpen touches. -/
def execCgCtrlOpen_foot : List Part := [.reg .iCG_NEXT, .reg .iCG_SEQ, .reg .CG_OWNER, .reg .CG_STATE, .fld .status] ++ writeParam_foot

theorem execCgCtrlOpen_touches {W : List Part} {σ τ : State} {acc : Accessor} {g : Fin 16} (hW : ∀ p ∈ execCgCtrlOpen_foot, p ∈ W)
    (hT : Touches W σ τ) : OutTouches W σ (execCgCtrlOpen acc g τ) := by
  unfold execCgCtrlOpen
  try dsimp only
  repeat' first
    | with_reducible apply OutTouches.ite
    | with_reducible refine OutTouches.next ?_
    | with_reducible apply Touches.ite
    | with_reducible refine writeParam_touches  (fun p hp => hW p (by unfold execCgCtrlOpen_foot; repeat first | with_reducible exact hp | with_reducible exact List.mem_append_right _ hp | with_reducible apply List.mem_append_left)) ?_ (fun x  hx => ?_)
    | with_reducible refine State.bump_touches (hW _ (by first | (simp [execCgCtrlOpen_foot]; done) | (split <;> simp [execCgCtrlOpen_foot] <;> done) | ((repeat' split) <;> simp [execCgCtrlOpen_foot])))  ?_
    | with_reducible refine State.setReg_touches (hW _ (by first | (simp [execCgCtrlOpen_foot]; done) | (split <;> simp [execCgCtrlOpen_foot] <;> done) | ((repeat' split) <;> simp [execCgCtrlOpen_foot])))  ?_
    | with_reducible refine State.refuse_touches (hW _ (by simp [execCgCtrlOpen_foot])) ?_
    | split
    | with_reducible refine forN_touches ?_ (fun x k hx => ?_)
    | with_reducible refine foldl_touches ?_ (fun x a hx => ?_)
    | with_reducible refine foldlSnd_touches ?_ (fun x a hx => ?_)
    | with_reducible assumption

/-- The parts execCgCtrlGo touches. -/
def execCgCtrlGo_foot : List Part := [.fld .status] ++ writeParam_foot ++ State.goGroup_foot

theorem execCgCtrlGo_touches {W : List Part} {σ τ : State} {acc : Accessor} {g : Fin 16} (hW : ∀ p ∈ execCgCtrlGo_foot, p ∈ W)
    (hT : Touches W σ τ) : OutTouches W σ (execCgCtrlGo acc g τ) := by
  unfold execCgCtrlGo
  try dsimp only
  repeat' first
    | with_reducible apply OutTouches.ite
    | with_reducible refine OutTouches.next ?_
    | with_reducible apply Touches.ite
    | with_reducible refine writeParam_touches  (fun p hp => hW p (by unfold execCgCtrlGo_foot; repeat first | with_reducible exact hp | with_reducible exact List.mem_append_right _ hp | with_reducible apply List.mem_append_left)) ?_ (fun x  hx => ?_)
    | with_reducible refine State.goGroup_touches (fun p hp => hW p (by unfold execCgCtrlGo_foot; repeat first | with_reducible exact hp | with_reducible exact List.mem_append_right _ hp | with_reducible apply List.mem_append_left)) (by assumption) ?_
    | with_reducible refine getD_touches (fun υ e => State.goGroup_touches (fun p hp => hW p (by unfold execCgCtrlGo_foot; repeat first | with_reducible exact hp | with_reducible exact List.mem_append_right _ hp | with_reducible apply List.mem_append_left)) e ?_) ?_
    | with_reducible refine State.refuse_touches (hW _ (by simp [execCgCtrlGo_foot])) ?_
    | split
    | with_reducible refine forN_touches ?_ (fun x k hx => ?_)
    | with_reducible refine foldl_touches ?_ (fun x a hx => ?_)
    | with_reducible refine foldlSnd_touches ?_ (fun x a hx => ?_)
    | with_reducible assumption

/-- The parts execCgCtrlAbort touches. -/
def execCgCtrlAbort_foot : List Part := [.fld .status] ++ writeParam_foot ++ State.idleGroup_foot

theorem execCgCtrlAbort_touches {W : List Part} {σ τ : State} {acc : Accessor} {g : Fin 16} (hW : ∀ p ∈ execCgCtrlAbort_foot, p ∈ W)
    (hT : Touches W σ τ) : OutTouches W σ (execCgCtrlAbort acc g τ) := by
  unfold execCgCtrlAbort
  try dsimp only
  repeat' first
    | with_reducible apply OutTouches.ite
    | with_reducible refine OutTouches.next ?_
    | with_reducible apply Touches.ite
    | with_reducible refine writeParam_touches  (fun p hp => hW p (by unfold execCgCtrlAbort_foot; repeat first | with_reducible exact hp | with_reducible exact List.mem_append_right _ hp | with_reducible apply List.mem_append_left)) ?_ (fun x  hx => ?_)
    | with_reducible refine State.idleGroup_touches (fun p hp => hW p (by unfold execCgCtrlAbort_foot; repeat first | with_reducible exact hp | with_reducible exact List.mem_append_right _ hp | with_reducible apply List.mem_append_left)) ?_
    | with_reducible refine State.refuse_touches (hW _ (by simp [execCgCtrlAbort_foot])) ?_
    | split
    | with_reducible refine forN_touches ?_ (fun x k hx => ?_)
    | with_reducible refine foldl_touches ?_ (fun x a hx => ?_)
    | with_reducible refine foldlSnd_touches ?_ (fun x a hx => ?_)
    | with_reducible assumption

/-- The parts execCgParamWrite touches. -/
def execCgParamWrite_foot : List Part := [.reg .CG_SURFACES, .reg .CG_BUFFERS, .reg .CG_AT, .reg .CG_DARK_OK, .reg .CG_TRIGGER, .fld .status] ++ writeParam_foot

theorem execCgParamWrite_touches {W : List Part} {σ τ : State} {acc : Accessor} {g : Fin 16} {p : GroupParam} {v : Nat} (hW : ∀ p ∈ execCgParamWrite_foot, p ∈ W)
    (hT : Touches W σ τ) : OutTouches W σ (execCgParamWrite acc g p v τ) := by
  unfold execCgParamWrite
  try dsimp only
  repeat' first
    | with_reducible apply OutTouches.ite
    | with_reducible refine OutTouches.next ?_
    | with_reducible apply Touches.ite
    | with_reducible refine writeParam_touches  (fun p hp => hW p (by unfold execCgParamWrite_foot; repeat first | with_reducible exact hp | with_reducible exact List.mem_append_right _ hp | with_reducible apply List.mem_append_left)) ?_ (fun x  hx => ?_)
    | with_reducible refine State.refuse_touches (hW _ (by simp [execCgParamWrite_foot])) ?_
    | with_reducible refine State.setReg_touches (hW _ (by first | (simp [execCgParamWrite_foot]; done) | (split <;> simp [execCgParamWrite_foot] <;> done) | (simp only [groupReg]; (repeat' split) <;> simp [execCgParamWrite_foot]) | ((repeat' split) <;> simp [execCgParamWrite_foot])))  ?_
    | split
    | with_reducible refine forN_touches ?_ (fun x k hx => ?_)
    | with_reducible refine foldl_touches ?_ (fun x a hx => ?_)
    | with_reducible refine foldlSnd_touches ?_ (fun x a hx => ?_)
    | with_reducible assumption

end Sys2Proof.Machine
end

