-- ==== Sys2Proof/Laws/TouchesScene.lean ====
section
/-! SUPPORT. What the functions of Machine/Scene.lean touch. -/
namespace Sys2Proof.Machine
set_option linter.all false

/-- The parts State.setBank touches. -/
def State.setBank_foot : List Part := [.reg .BUF_BANKS]

theorem State.setBank_touches {W : List Part} {σ τ : State} {n : Nat} {role : Nat} {k : Option Nat} (hW : ∀ p ∈ State.setBank_foot, p ∈ W)
    (hT : Touches W σ τ) : Touches W σ (State.setBank τ n role k) := by
  unfold State.setBank
  try dsimp only
  repeat' first
    | with_reducible apply Touches.ite
    | with_reducible refine State.setReg_touches (hW _ (by first | (simp [State.setBank_foot]; done) | (split <;> simp [State.setBank_foot] <;> done) | ((repeat' split) <;> simp [State.setBank_foot])))  ?_
    | split
    | with_reducible refine forN_touches ?_ (fun x k hx => ?_)
    | with_reducible refine foldl_touches ?_ (fun x a hx => ?_)
    | with_reducible refine foldlSnd_touches ?_ (fun x a hx => ?_)
    | with_reducible assumption

/-- The parts State.takeLut touches. -/
def State.takeLut_foot : List Part := [.fld .luts]

theorem State.takeLut_touches {W : List Part} {σ τ : State} {surf : Nat} {l : Nat} {blob : Nat} (hW : ∀ p ∈ State.takeLut_foot, p ∈ W)
    (hT : Touches W σ τ) : Touches W σ (State.takeLut τ surf l blob) := by
  unfold State.takeLut
  try dsimp only
  repeat' first
    | with_reducible apply Touches.ite
    | split
    | with_reducible refine forN_touches ?_ (fun x k hx => ?_)
    | with_reducible refine foldl_touches ?_ (fun x a hx => ?_)
    | with_reducible refine foldlSnd_touches ?_ (fun x a hx => ?_)
    | with_reducible assumption
    | with_reducible refine touches_mk (fun f => by cases f <;> first | exact .inr (by with_reducible rfl) | exact .inl (hW _ (by simp [State.takeLut_foot]))) ?_

end Sys2Proof.Machine
end

