-- ==== Sys2Proof/Laws/TouchesStore.lean ====
section
/-! SUPPORT. What the functions of Machine/Store.lean touch. -/
namespace Sys2Proof.Machine
set_option linter.all false

/-- The parts State.initRow touches. -/
def State.initRow_foot : List Part := [.fld .rowsAhead]

theorem State.initRow_touches {W : List Part} {σ τ : State} {a : Nat} (hW : ∀ p ∈ State.initRow_foot, p ∈ W)
    (hT : Touches W σ τ) : Touches W σ (State.initRow τ a) := by
  unfold State.initRow
  try dsimp only
  repeat' first
    | with_reducible apply Touches.ite
    | split
    | with_reducible refine forN_touches ?_ (fun x k hx => ?_)
    | with_reducible refine foldl_touches ?_ (fun x a hx => ?_)
    | with_reducible refine foldlSnd_touches ?_ (fun x a hx => ?_)
    | with_reducible assumption
    | with_reducible refine touches_mk (fun f => by cases f <;> first | exact .inr (by with_reducible rfl) | exact .inl (hW _ (by simp [State.initRow_foot]))) ?_

/-- The parts State.markPoison touches. -/
def State.markPoison_foot : List Part := [.reg .MS_POISONED, .fld .poison]

theorem State.markPoison_touches {W : List Part} {σ τ : State} {w : Nat} (hW : ∀ p ∈ State.markPoison_foot, p ∈ W)
    (hT : Touches W σ τ) : Touches W σ (State.markPoison τ w) := by
  unfold State.markPoison
  try dsimp only
  repeat' first
    | with_reducible apply Touches.ite
    | with_reducible refine State.bump_touches (hW _ (by first | (simp [State.markPoison_foot]; done) | (split <;> simp [State.markPoison_foot] <;> done) | ((repeat' split) <;> simp [State.markPoison_foot])))  ?_
    | split
    | with_reducible refine forN_touches ?_ (fun x k hx => ?_)
    | with_reducible refine foldl_touches ?_ (fun x a hx => ?_)
    | with_reducible refine foldlSnd_touches ?_ (fun x a hx => ?_)
    | with_reducible assumption
    | with_reducible refine touches_mk (fun f => by cases f <;> first | exact .inr (by with_reducible rfl) | exact .inl (hW _ (by simp [State.markPoison_foot]))) ?_

/-- The parts State.clearPoison touches. -/
def State.clearPoison_foot : List Part := [.fld .poison]

theorem State.clearPoison_touches {W : List Part} {σ τ : State} {w : Nat} (hW : ∀ p ∈ State.clearPoison_foot, p ∈ W)
    (hT : Touches W σ τ) : Touches W σ (State.clearPoison τ w) := by
  unfold State.clearPoison
  try dsimp only
  repeat' first
    | with_reducible apply Touches.ite
    | split
    | with_reducible refine forN_touches ?_ (fun x k hx => ?_)
    | with_reducible refine foldl_touches ?_ (fun x a hx => ?_)
    | with_reducible refine foldlSnd_touches ?_ (fun x a hx => ?_)
    | with_reducible assumption
    | with_reducible refine touches_mk (fun f => by cases f <;> first | exact .inr (by with_reducible rfl) | exact .inl (hW _ (by simp [State.clearPoison_foot]))) ?_

/-- The parts State.logPoison touches. -/
def State.logPoison_foot : List Part := [.reg .PN_LOST, .fld .poisonLog] ++ State.raise_foot

theorem State.logPoison_touches {W : List Part} {σ τ : State} {w : Nat} {finder : Nat} {space : Nat} {id : Nat} (hW : ∀ p ∈ State.logPoison_foot, p ∈ W)
    (hT : Touches W σ τ) : Touches W σ (State.logPoison τ w finder space id) := by
  unfold State.logPoison
  try dsimp only
  repeat' first
    | with_reducible apply Touches.ite
    | with_reducible refine State.bump_touches (hW _ (by first | (simp [State.logPoison_foot]; done) | (split <;> simp [State.logPoison_foot] <;> done) | ((repeat' split) <;> simp [State.logPoison_foot])))  ?_
    | with_reducible refine State.raise_touches (fun p hp => hW p (by unfold State.logPoison_foot; repeat first | with_reducible exact hp | with_reducible exact List.mem_append_right _ hp | with_reducible apply List.mem_append_left)) ?_
    | split
    | with_reducible refine forN_touches ?_ (fun x k hx => ?_)
    | with_reducible refine foldl_touches ?_ (fun x a hx => ?_)
    | with_reducible refine foldlSnd_touches ?_ (fun x a hx => ?_)
    | with_reducible assumption
    | with_reducible refine touches_mk (fun f => by cases f <;> first | exact .inr (by with_reducible rfl) | exact .inl (hW _ (by simp [State.logPoison_foot]))) ?_

/-- The parts State.loseIngest touches. -/
def State.loseIngest_foot : List Part := [.fld .ingest]

theorem State.loseIngest_touches {W : List Part} {σ τ : State}  (hW : ∀ p ∈ State.loseIngest_foot, p ∈ W)
    (hT : Touches W σ τ) : Touches W σ (State.loseIngest τ) := by
  unfold State.loseIngest
  try dsimp only
  repeat' first
    | with_reducible apply Touches.ite
    | split
    | with_reducible refine forN_touches ?_ (fun x k hx => ?_)
    | with_reducible refine foldl_touches ?_ (fun x a hx => ?_)
    | with_reducible refine foldlSnd_touches ?_ (fun x a hx => ?_)
    | with_reducible assumption
    | with_reducible refine touches_mk (fun f => by cases f <;> first | exact .inr (by with_reducible rfl) | exact .inl (hW _ (by simp [State.loseIngest_foot]))) ?_

/-- The parts State.interruptJob touches. -/
def State.interruptJob_foot : List Part := [.reg .iGC_NW, .reg .iGC_NR, .reg .iGC_NI, .reg .iGC_BUF, .reg .iGC_OUT, .reg .iGC_DONE, .reg .iGC_FROZEN_JOB]

theorem State.interruptJob_touches {W : List Part} {σ τ : State} {n : Nat} (hW : ∀ p ∈ State.interruptJob_foot, p ∈ W)
    (hT : Touches W σ τ) : Touches W σ (State.interruptJob τ n) := by
  unfold State.interruptJob
  try dsimp only
  repeat' first
    | with_reducible apply Touches.ite
    | with_reducible refine State.setReg_touches (hW _ (by first | (simp [State.interruptJob_foot]; done) | (split <;> simp [State.interruptJob_foot] <;> done) | ((repeat' split) <;> simp [State.interruptJob_foot])))  ?_
    | split
    | with_reducible refine forN_touches ?_ (fun x k hx => ?_)
    | with_reducible refine foldl_touches ?_ (fun x a hx => ?_)
    | with_reducible refine foldlSnd_touches ?_ (fun x a hx => ?_)
    | with_reducible assumption

/-- The parts State.freezeUnit touches. -/
def State.freezeUnit_foot : List Part := [.reg .STR_STATE, .reg .HZ_ACTIVE, .reg .CL_STATE, .reg .LC_RESULT, .reg .LC_STATE, .reg .SK_STATE, .reg .iSK_DONE, .reg .iSK_FROZEN_JOB, .reg .GC_STATE, .reg .iPIP_FROZE_NS] ++ State.loseIngest_foot ++ State.interruptJob_foot

theorem State.freezeUnit_touches {W : List Part} {σ τ : State} {m : Master} (hW : ∀ p ∈ State.freezeUnit_foot, p ∈ W)
    (hT : Touches W σ τ) : Touches W σ (State.freezeUnit τ m) := by
  unfold State.freezeUnit
  try dsimp only
  repeat' first
    | with_reducible apply Touches.ite
    | with_reducible refine cond_touches ?_ (fun x hx => ?_)
    | with_reducible refine State.setReg_touches (hW _ (by first | (simp [State.freezeUnit_foot]; done) | (split <;> simp [State.freezeUnit_foot] <;> done) | ((repeat' split) <;> simp [State.freezeUnit_foot])))  ?_
    | with_reducible refine State.loseIngest_touches (fun p hp => hW p (by unfold State.freezeUnit_foot; repeat first | with_reducible exact hp | with_reducible exact List.mem_append_right _ hp | with_reducible apply List.mem_append_left)) ?_
    | with_reducible refine State.interruptJob_touches (fun p hp => hW p (by unfold State.freezeUnit_foot; repeat first | with_reducible exact hp | with_reducible exact List.mem_append_right _ hp | with_reducible apply List.mem_append_left)) ?_
    | split
    | with_reducible refine forN_touches ?_ (fun x k hx => ?_)
    | with_reducible refine foldl_touches ?_ (fun x a hx => ?_)
    | with_reducible refine foldlSnd_touches ?_ (fun x a hx => ?_)
    | with_reducible assumption

/-- The parts State.freeze touches. -/
def State.freeze_foot : List Part := [.reg .MS_FREEZES, .reg .MS_FROZEN_INGEST, .reg .MS_FROZEN_CORE, .fld .freezeLog] ++ State.raise_foot ++ State.freezeUnit_foot

theorem State.freeze_touches {W : List Part} {σ τ : State} {m : Master} {a : Nat} {write : Bool} (hW : ∀ p ∈ State.freeze_foot, p ∈ W)
    (hT : Touches W σ τ) : Touches W σ (State.freeze τ m a write) := by
  unfold State.freeze
  try dsimp only
  repeat' first
    | with_reducible apply Touches.ite
    | with_reducible refine State.bump_touches (hW _ (by first | (simp [State.freeze_foot]; done) | (split <;> simp [State.freeze_foot] <;> done) | ((repeat' split) <;> simp [State.freeze_foot])))  ?_
    | with_reducible refine State.setReg_touches (hW _ (by first | (simp [State.freeze_foot]; done) | (split <;> simp [State.freeze_foot] <;> done) | ((repeat' split) <;> simp [State.freeze_foot])))  ?_
    | with_reducible refine State.raise_touches (fun p hp => hW p (by unfold State.freeze_foot; repeat first | with_reducible exact hp | with_reducible exact List.mem_append_right _ hp | with_reducible apply List.mem_append_left)) ?_
    | with_reducible refine State.freezeUnit_touches (fun p hp => hW p (by unfold State.freeze_foot; repeat first | with_reducible exact hp | with_reducible exact List.mem_append_right _ hp | with_reducible apply List.mem_append_left)) ?_
    | split
    | with_reducible refine forN_touches ?_ (fun x k hx => ?_)
    | with_reducible refine foldl_touches ?_ (fun x a hx => ?_)
    | with_reducible refine foldlSnd_touches ?_ (fun x a hx => ?_)
    | with_reducible assumption
    | with_reducible refine touches_mk (fun f => by cases f <;> first | exact .inr (by with_reducible rfl) | exact .inl (hW _ (by simp [State.freeze_foot]))) ?_

/-- The parts State.serve touches. -/
def State.serve_foot : List Part := [.reg .QP_BYTES, .reg .QP_OVER, .fld .seen, .fld .waits]

theorem State.serve_touches {W : List Part} {σ τ : State} {p : Port} {n : Nat} (hW : ∀ p ∈ State.serve_foot, p ∈ W)
    (hT : Touches W σ τ) : Touches W σ (State.serve τ p n) := by
  unfold State.serve
  try dsimp only
  repeat' first
    | with_reducible apply Touches.ite
    | with_reducible refine State.bumpBy_touches (hW _ (by first | (simp [State.serve_foot]; done) | (split <;> simp [State.serve_foot] <;> done) | ((repeat' split) <;> simp [State.serve_foot])))  ?_
    | with_reducible refine State.noteRecent_touches (hW _ (by simp [State.serve_foot])) ?_
    | with_reducible refine cond_touches ?_ (fun x hx => ?_)
    | with_reducible refine State.bump_touches (hW _ (by first | (simp [State.serve_foot]; done) | (split <;> simp [State.serve_foot] <;> done) | ((repeat' split) <;> simp [State.serve_foot])))  ?_
    | split
    | with_reducible refine forN_touches ?_ (fun x k hx => ?_)
    | with_reducible refine foldl_touches ?_ (fun x a hx => ?_)
    | with_reducible refine foldlSnd_touches ?_ (fun x a hx => ?_)
    | with_reducible assumption
    | with_reducible refine touches_mk (fun f => by cases f <;> first | exact .inr (by with_reducible rfl) | exact .inl (hW _ (by simp [State.serve_foot]))) ?_

/-- The parts State.serveAll touches. -/
def State.serveAll_foot : List Part := [.reg .QP_BYTES, .reg .QP_OVER, .fld .seen, .fld .waits]

theorem State.serveAll_touches {W : List Part} {σ τ : State} {p : Port} {n : Nat} (hW : ∀ p ∈ State.serveAll_foot, p ∈ W)
    (hT : Touches W σ τ) : Touches W σ (State.serveAll τ p n) := by
  unfold State.serveAll
  try dsimp only
  repeat' first
    | with_reducible apply Touches.ite
    | with_reducible refine State.bumpBy_touches (hW _ (by first | (simp [State.serveAll_foot]; done) | (split <;> simp [State.serveAll_foot] <;> done) | ((repeat' split) <;> simp [State.serveAll_foot])))  ?_
    | with_reducible refine State.noteRecent_touches (hW _ (by simp [State.serveAll_foot])) ?_
    | split
    | with_reducible refine forN_touches ?_ (fun x k hx => ?_)
    | with_reducible refine foldl_touches ?_ (fun x a hx => ?_)
    | with_reducible refine foldlSnd_touches ?_ (fun x a hx => ?_)
    | with_reducible assumption
    | with_reducible refine touches_mk (fun f => by cases f <;> first | exact .inr (by with_reducible rfl) | exact .inl (hW _ (by simp [State.serveAll_foot]))) ?_

/-- The parts State.move touches. -/
def State.move_foot : List Part := [.fld .traffic]

theorem State.move_touches {W : List Part} {σ τ : State} {c : Nat} {n : Nat} (hW : ∀ p ∈ State.move_foot, p ∈ W)
    (hT : Touches W σ τ) : Touches W σ (State.move τ c n) := by
  unfold State.move
  try dsimp only
  repeat' first
    | with_reducible apply Touches.ite
    | split
    | with_reducible refine forN_touches ?_ (fun x k hx => ?_)
    | with_reducible refine foldl_touches ?_ (fun x a hx => ?_)
    | with_reducible refine foldlSnd_touches ?_ (fun x a hx => ?_)
    | with_reducible assumption
    | with_reducible refine touches_mk (fun f => by cases f <;> first | exact .inr (by with_reducible rfl) | exact .inl (hW _ (by simp [State.move_foot]))) ?_

/-- The parts State.refreshNeighbours touches. -/
def State.refreshNeighbours_foot : List Part := [.fld .banks]

theorem State.refreshNeighbours_touches {W : List Part} {σ τ : State} {b : Nat} (hW : ∀ p ∈ State.refreshNeighbours_foot, p ∈ W)
    (hT : Touches W σ τ) : Touches W σ (State.refreshNeighbours τ b) := by
  unfold State.refreshNeighbours
  try dsimp only
  repeat' first
    | with_reducible apply Touches.ite
    | split
    | with_reducible refine forN_touches ?_ (fun x k hx => ?_)
    | with_reducible refine foldl_touches ?_ (fun x a hx => ?_)
    | with_reducible refine foldlSnd_touches ?_ (fun x a hx => ?_)
    | with_reducible assumption
    | with_reducible refine touches_mk (fun f => by cases f <;> first | exact .inr (by with_reducible rfl) | exact .inl (hW _ (by simp [State.refreshNeighbours_foot]))) ?_

/-- The parts State.activate touches. -/
def State.activate_foot : List Part := [.reg .iNRR_STEP, .fld .banks] ++ State.refreshNeighbours_foot

theorem State.activate_touches {W : List Part} {σ τ : State} {a : Nat} (hW : ∀ p ∈ State.activate_foot, p ∈ W)
    (hT : Touches W σ τ) : Touches W σ (State.activate τ a) := by
  unfold State.activate
  try dsimp only
  repeat' first
    | with_reducible apply Touches.ite
    | with_reducible refine State.bump_touches (hW _ (by first | (simp [State.activate_foot]; done) | (split <;> simp [State.activate_foot] <;> done) | ((repeat' split) <;> simp [State.activate_foot])))  ?_
    | with_reducible refine State.refreshNeighbours_touches (fun p hp => hW p (by unfold State.activate_foot; repeat first | with_reducible exact hp | with_reducible exact List.mem_append_right _ hp | with_reducible apply List.mem_append_left)) ?_
    | split
    | with_reducible refine forN_touches ?_ (fun x k hx => ?_)
    | with_reducible refine foldl_touches ?_ (fun x a hx => ?_)
    | with_reducible refine foldlSnd_touches ?_ (fun x a hx => ?_)
    | with_reducible assumption
    | with_reducible refine touches_mk (fun f => by cases f <;> first | exact .inr (by with_reducible rfl) | exact .inl (hW _ (by simp [State.activate_foot]))) ?_

/-- The parts State.activateRows touches. -/
def State.activateRows_foot : List Part := [.reg .iNRR_STEP, .fld .banks]

theorem State.activateRows_touches {W : List Part} {σ τ : State} {c : Nat} {n : Nat} (hW : ∀ p ∈ State.activateRows_foot, p ∈ W)
    (hT : Touches W σ τ) : Touches W σ (State.activateRows τ c n) := by
  unfold State.activateRows
  try dsimp only
  repeat' first
    | with_reducible apply Touches.ite
    | with_reducible refine State.bumpBy_touches (hW _ (by first | (simp [State.activateRows_foot]; done) | (split <;> simp [State.activateRows_foot] <;> done) | ((repeat' split) <;> simp [State.activateRows_foot])))  ?_
    | split
    | with_reducible refine forN_touches ?_ (fun x k hx => ?_)
    | with_reducible refine foldl_touches ?_ (fun x a hx => ?_)
    | with_reducible refine foldlSnd_touches ?_ (fun x a hx => ?_)
    | with_reducible assumption
    | with_reducible refine touches_mk (fun f => by cases f <;> first | exact .inr (by with_reducible rfl) | exact .inl (hW _ (by simp [State.activateRows_foot]))) ?_

/-- The parts State.closeRows touches. -/
def State.closeRows_foot : List Part := [.fld .banks]

theorem State.closeRows_touches {W : List Part} {σ τ : State}  (hW : ∀ p ∈ State.closeRows_foot, p ∈ W)
    (hT : Touches W σ τ) : Touches W σ (State.closeRows τ) := by
  unfold State.closeRows
  try dsimp only
  repeat' first
    | with_reducible apply Touches.ite
    | split
    | with_reducible refine forN_touches ?_ (fun x k hx => ?_)
    | with_reducible refine foldl_touches ?_ (fun x a hx => ?_)
    | with_reducible refine foldlSnd_touches ?_ (fun x a hx => ?_)
    | with_reducible assumption
    | with_reducible refine touches_mk (fun f => by cases f <;> first | exact .inr (by with_reducible rfl) | exact .inl (hW _ (by simp [State.closeRows_foot]))) ?_

/-- The parts State.readWord touches. -/
def State.readWord_foot : List Part := [.reg .MS_POISON_READS, .reg .MS_CORRECTED, .reg .CH_CORRECTED, .reg .CH_UNCORRECTABLE, .fld .writeBacks] ++ State.logPoison_foot

theorem State.readWord_touches {W : List Part} {σ τ : State} {m : Master} {w : Nat} (hW : ∀ p ∈ State.readWord_foot, p ∈ W)
    (hT : Touches W σ τ) : Touches W σ (State.readWord τ m w).2 := by
  unfold State.readWord
  try dsimp only
  repeat' first
    | with_reducible apply Touches.iteSnd
    | with_reducible apply Touches.ite
    | with_reducible refine State.bump_touches (hW _ (by first | (simp [State.readWord_foot]; done) | (split <;> simp [State.readWord_foot] <;> done) | ((repeat' split) <;> simp [State.readWord_foot])))  ?_
    | with_reducible refine State.logPoison_touches (fun p hp => hW p (by unfold State.readWord_foot; repeat first | with_reducible exact hp | with_reducible exact List.mem_append_right _ hp | with_reducible apply List.mem_append_left)) ?_
    | split
    | with_reducible refine forN_touches ?_ (fun x k hx => ?_)
    | with_reducible refine foldl_touches ?_ (fun x a hx => ?_)
    | with_reducible refine foldlSnd_touches ?_ (fun x a hx => ?_)
    | with_reducible assumption
    | with_reducible refine touches_mk (fun f => by cases f <;> first | exact .inr (by with_reducible rfl) | exact .inl (hW _ (by simp [State.readWord_foot]))) ?_

/-- The parts State.readWords touches. -/
def State.readWords_foot : List Part := State.readWord_foot

theorem State.readWords_touches {W : List Part} {s t : State} {m : Master}
    {ws : List Nat} (hW : ∀ p ∈ State.readWords_foot, p ∈ W) (h : Touches W s t) :
    Touches W s (t.readWords m ws).2 := by
  induction ws generalizing t with
  | nil => exact h
  | cons w ws ih => exact ih (State.readWord_touches hW h)

/-- The parts State.readPart touches. -/
def State.readPart_foot : List Part := State.freeze_foot ++ State.serve_foot ++ State.activate_foot ++ State.move_foot ++ State.readWords_foot

theorem State.readPart_touches {W : List Part} {σ τ : State} {m : Master} {p : Port} {a : Nat} {len : Nat} (hW : ∀ p ∈ State.readPart_foot, p ∈ W)
    (hT : Touches W σ τ) : Touches W σ (State.readPart τ m p a len).2 := by
  unfold State.readPart
  try dsimp only
  repeat' first
    | with_reducible apply Touches.iteSnd
    | with_reducible apply Touches.ite
    | with_reducible refine State.freeze_touches (fun p hp => hW p (by unfold State.readPart_foot; repeat first | with_reducible exact hp | with_reducible exact List.mem_append_right _ hp | with_reducible apply List.mem_append_left)) ?_
    | with_reducible refine State.serve_touches (fun p hp => hW p (by unfold State.readPart_foot; repeat first | with_reducible exact hp | with_reducible exact List.mem_append_right _ hp | with_reducible apply List.mem_append_left)) ?_
    | with_reducible refine State.activate_touches (fun p hp => hW p (by unfold State.readPart_foot; repeat first | with_reducible exact hp | with_reducible exact List.mem_append_right _ hp | with_reducible apply List.mem_append_left)) ?_
    | with_reducible refine State.move_touches (fun p hp => hW p (by unfold State.readPart_foot; repeat first | with_reducible exact hp | with_reducible exact List.mem_append_right _ hp | with_reducible apply List.mem_append_left)) ?_
    | with_reducible refine Touches.ofPair (by assumption) (State.readWords_touches (fun p hp => hW p (by unfold State.readPart_foot; repeat first | with_reducible exact hp | with_reducible exact List.mem_append_right _ hp | with_reducible apply List.mem_append_left)) ?_)
    | with_reducible refine State.readWords_touches (fun p hp => hW p (by unfold State.readPart_foot; repeat first | with_reducible exact hp | with_reducible exact List.mem_append_right _ hp | with_reducible apply List.mem_append_left)) ?_
    | split
    | with_reducible refine forN_touches ?_ (fun x k hx => ?_)
    | with_reducible refine foldl_touches ?_ (fun x a hx => ?_)
    | with_reducible refine foldlSnd_touches ?_ (fun x a hx => ?_)
    | with_reducible assumption

/-- The parts State.read touches. -/
def State.read_foot : List Part := State.readPart_foot

theorem State.read_touches {W : List Part} {s t : State} {m : Master} {p : Port} {ps : List (Nat × Nat)} (hW : ∀ p ∈ State.read_foot, p ∈ W)
    (h : Touches W s t) : Touches W s (t.read m p ps).2 := by
  induction ps generalizing t with
  | nil => exact h
  | cons e ps ih =>
    have h1 : Touches W s (t.readPart m p e.1 e.2).2 := State.readPart_touches hW h
    unfold State.read
    dsimp only
    split
    · exact h1
    · exact ih h1

/-- The parts State.supersede touches. -/
def State.supersede_foot : List Part := [.fld .writeBacks]

theorem State.supersede_touches {W : List Part} {σ τ : State} {w : Nat} (hW : ∀ p ∈ State.supersede_foot, p ∈ W)
    (hT : Touches W σ τ) : Touches W σ (State.supersede τ w) := by
  unfold State.supersede
  try dsimp only
  repeat' first
    | with_reducible apply Touches.ite
    | split
    | with_reducible refine forN_touches ?_ (fun x k hx => ?_)
    | with_reducible refine foldl_touches ?_ (fun x a hx => ?_)
    | with_reducible refine foldlSnd_touches ?_ (fun x a hx => ?_)
    | with_reducible assumption
    | with_reducible refine touches_mk (fun f => by cases f <;> first | exact .inr (by with_reducible rfl) | exact .inl (hW _ (by simp [State.supersede_foot]))) ?_

/-- The parts State.writeWord touches. -/
def State.writeWord_foot : List Part := [.reg .MS_RMW, .reg .MS_RMW_POISON, .reg .MS_CORRECTED, .reg .CH_CORRECTED, .reg .CH_UNCORRECTABLE, .mem] ++ State.supersede_foot ++ State.clearPoison_foot ++ State.logPoison_foot ++ State.markPoison_foot

/-- Storing bytes keeps the canonical form. -/
theorem memPut_wf {m : List Host.Cell} {a : Nat} {data : List Byte} (h : Memory.wf m = true) :
    Memory.wf (memPut m a data) = true := by
  induction data generalizing m a with
  | nil => exact h
  | cons b bs ih => exact ih (Sparse.wf_set _ _ h)

theorem State.writeWord_touches {W : List Part} {s t : State} {m : Master}
    {a : Nat} {data : List Byte} (hW : ∀ p ∈ State.writeWord_foot, p ∈ W) (h : Touches W s t) :
    Touches W s (t.writeWord m a data) := by
  have h1 : Touches W s { t.supersede (a / 32) with mem := memPut (t.supersede (a / 32)).mem a data } :=
    Touches.memToo (hW _ (by simp [State.writeWord_foot])) (fun f => .inr (by cases f <;> rfl))
      (State.supersede_touches (fun p hp => hW p (by simp [State.writeWord_foot, hp])) h)
      rfl rfl memPut_wf rfl rfl rfl rfl
  unfold State.writeWord
  dsimp only
  generalize State.mk _ _ _ _ _ _ _ _ _ _ _ _ _ _ _ _ _ _ _ _ _ _ _ _ _ _ _ _ _ _ _ _ _ _ _ _
    _ _ _ _ _ _ _ _ _ _ _ _ _ _ _ _ _ _ _ _ _ _ _ _ _ _ _ _ _ _ _ _ _ _ _ _ _ = u at h1 ⊢
  repeat' first
    | with_reducible apply Touches.ite
    | with_reducible refine State.supersede_touches (fun p hp => hW p (by unfold State.writeWord_foot; repeat first | with_reducible exact hp | with_reducible exact List.mem_append_right _ hp | with_reducible apply List.mem_append_left)) ?_
    | with_reducible refine State.clearPoison_touches (fun p hp => hW p (by unfold State.writeWord_foot; repeat first | with_reducible exact hp | with_reducible exact List.mem_append_right _ hp | with_reducible apply List.mem_append_left)) ?_
    | with_reducible refine State.bump_touches (hW _ (by first | (simp [State.writeWord_foot]; done) | (split <;> simp [State.writeWord_foot] <;> done) | ((repeat' split) <;> simp [State.writeWord_foot])))  ?_
    | with_reducible refine State.logPoison_touches (fun p hp => hW p (by unfold State.writeWord_foot; repeat first | with_reducible exact hp | with_reducible exact List.mem_append_right _ hp | with_reducible apply List.mem_append_left)) ?_
    | with_reducible refine State.markPoison_touches (fun p hp => hW p (by unfold State.writeWord_foot; repeat first | with_reducible exact hp | with_reducible exact List.mem_append_right _ hp | with_reducible apply List.mem_append_left)) ?_
    | split
    | with_reducible refine forN_touches ?_ (fun x k hx => ?_)
    | with_reducible refine foldl_touches ?_ (fun x a hx => ?_)
    | with_reducible refine foldlSnd_touches ?_ (fun x a hx => ?_)
    | with_reducible assumption
    | with_reducible refine touches_mk (fun f => by cases f <;> first | exact .inr (by with_reducible rfl) | exact .inl (hW _ (by simp [State.writeWord_foot]))) ?_

/-- The parts State.writeWords touches. -/
def State.writeWords_foot : List Part := State.writeWord_foot

theorem State.writeWords_touches {W : List Part} {s t : State} {m : Master}
    {k a : Nat} {data : List Byte} (hW : ∀ p ∈ State.writeWords_foot, p ∈ W) (h : Touches W s t) :
    Touches W s (t.writeWords m k a data) := by
  induction k generalizing t a data with
  | zero => exact h
  | succ k ih =>
    unfold State.writeWords
    split
    · exact h
    · exact ih (State.writeWord_touches hW h)

/-- The parts State.writePart touches. -/
def State.writePart_foot : List Part := State.freeze_foot ++ State.activate_foot ++ State.initRow_foot ++ State.move_foot ++ State.serve_foot ++ State.writeWords_foot

theorem State.writePart_touches {W : List Part} {σ τ : State} {m : Master} {p : Port} {a : Nat} {data : List Byte} (hW : ∀ p ∈ State.writePart_foot, p ∈ W)
    (hT : Touches W σ τ) : Touches W σ (State.writePart τ m p a data).2 := by
  unfold State.writePart
  try dsimp only
  repeat' first
    | with_reducible apply Touches.iteSnd
    | with_reducible apply Touches.ite
    | with_reducible refine State.freeze_touches (fun p hp => hW p (by unfold State.writePart_foot; repeat first | with_reducible exact hp | with_reducible exact List.mem_append_right _ hp | with_reducible apply List.mem_append_left)) ?_
    | with_reducible refine State.activate_touches (fun p hp => hW p (by unfold State.writePart_foot; repeat first | with_reducible exact hp | with_reducible exact List.mem_append_right _ hp | with_reducible apply List.mem_append_left)) ?_
    | with_reducible refine State.initRow_touches (fun p hp => hW p (by unfold State.writePart_foot; repeat first | with_reducible exact hp | with_reducible exact List.mem_append_right _ hp | with_reducible apply List.mem_append_left)) ?_
    | with_reducible refine State.move_touches (fun p hp => hW p (by unfold State.writePart_foot; repeat first | with_reducible exact hp | with_reducible exact List.mem_append_right _ hp | with_reducible apply List.mem_append_left)) ?_
    | with_reducible refine State.serve_touches (fun p hp => hW p (by unfold State.writePart_foot; repeat first | with_reducible exact hp | with_reducible exact List.mem_append_right _ hp | with_reducible apply List.mem_append_left)) ?_
    | with_reducible refine State.writeWords_touches (fun p hp => hW p (by unfold State.writePart_foot; repeat first | with_reducible exact hp | with_reducible exact List.mem_append_right _ hp | with_reducible apply List.mem_append_left)) ?_
    | split
    | with_reducible refine forN_touches ?_ (fun x k hx => ?_)
    | with_reducible refine foldl_touches ?_ (fun x a hx => ?_)
    | with_reducible refine foldlSnd_touches ?_ (fun x a hx => ?_)
    | with_reducible assumption

/-- The parts State.write touches. -/
def State.write_foot : List Part := State.writePart_foot

theorem State.write_touches {W : List Part} {s t : State} {m : Master} {p : Port}
    {data : List Byte} {ps : List (Nat × Nat)}
    (hW : ∀ p ∈ State.write_foot, p ∈ W) (h : Touches W s t) :
    Touches W s (t.write m p data ps).2 := by
  induction ps generalizing t data with
  | nil => exact h
  | cons e ps ih =>
    have h1 : Touches W s (t.writePart m p e.1 (data.take e.2)).2 := State.writePart_touches hW h
    unfold State.write
    dsimp only
    split
    · exact h1
    · exact ih h1

/-- The parts State.fetch touches. -/
def State.fetch_foot : List Part := State.read_foot

theorem State.fetch_touches {W : List Part} {σ τ : State} {m : Master} {p : Port} {a : Nat} {len : Nat} (hW : ∀ p ∈ State.fetch_foot, p ∈ W)
    (hT : Touches W σ τ) : Touches W σ (State.fetch τ m p a len).2 := by
  unfold State.fetch
  try dsimp only
  repeat' first
    | with_reducible apply Touches.iteSnd
    | with_reducible apply Touches.ite
    | with_reducible refine Touches.ofPair (by assumption) (State.read_touches (fun p hp => hW p (by unfold State.fetch_foot; repeat first | with_reducible exact hp | with_reducible exact List.mem_append_right _ hp | with_reducible apply List.mem_append_left)) ?_)
    | with_reducible refine State.read_touches (fun p hp => hW p (by unfold State.fetch_foot; repeat first | with_reducible exact hp | with_reducible exact List.mem_append_right _ hp | with_reducible apply List.mem_append_left)) ?_
    | split
    | with_reducible refine forN_touches ?_ (fun x k hx => ?_)
    | with_reducible refine foldl_touches ?_ (fun x a hx => ?_)
    | with_reducible refine foldlSnd_touches ?_ (fun x a hx => ?_)
    | with_reducible assumption

/-- The parts State.store touches. -/
def State.store_foot : List Part := State.write_foot

theorem State.store_touches {W : List Part} {σ τ : State} {m : Master} {p : Port} {a : Nat} {data : List Byte} (hW : ∀ p ∈ State.store_foot, p ∈ W)
    (hT : Touches W σ τ) : Touches W σ (State.store τ m p a data).2 := by
  unfold State.store
  try dsimp only
  repeat' first
    | with_reducible apply Touches.iteSnd
    | with_reducible apply Touches.ite
    | with_reducible refine Touches.ofPair (by assumption) (State.write_touches (fun p hp => hW p (by unfold State.store_foot; repeat first | with_reducible exact hp | with_reducible exact List.mem_append_right _ hp | with_reducible apply List.mem_append_left)) ?_)
    | with_reducible refine State.write_touches (fun p hp => hW p (by unfold State.store_foot; repeat first | with_reducible exact hp | with_reducible exact List.mem_append_right _ hp | with_reducible apply List.mem_append_left)) ?_
    | split
    | with_reducible refine forN_touches ?_ (fun x k hx => ?_)
    | with_reducible refine foldl_touches ?_ (fun x a hx => ?_)
    | with_reducible refine foldlSnd_touches ?_ (fun x a hx => ?_)
    | with_reducible assumption

/-- The parts State.withFindings touches. -/
def State.withFindings_foot : List Part := [.fld .poison]

theorem State.withFindings_touches {W : List Part} {σ τ : State} {seen : Seen} {ws : List Nat} (hW : ∀ p ∈ State.withFindings_foot, p ∈ W)
    (hT : Touches W σ τ) : Touches W σ (State.withFindings τ seen ws) := by
  unfold State.withFindings
  try dsimp only
  repeat' first
    | with_reducible apply Touches.ite
    | split
    | with_reducible refine forN_touches ?_ (fun x k hx => ?_)
    | with_reducible refine foldl_touches ?_ (fun x a hx => ?_)
    | with_reducible refine foldlSnd_touches ?_ (fun x a hx => ?_)
    | with_reducible assumption
    | with_reducible refine touches_mk (fun f => by cases f <;> first | exact .inr (by with_reducible rfl) | exact .inl (hW _ (by simp [State.withFindings_foot]))) ?_

end Sys2Proof.Machine
end

