-- ==== Sys2Proof/Laws/TouchesBuffers.lean ====
section
/-! SUPPORT. What the functions of Machine/Buffers.lean touch. -/
namespace Sys2Proof.Machine
set_option linter.all false

/-- The parts State.bufFetch touches. -/
def State.bufFetch_foot : List Part := State.fetch_foot

theorem State.bufFetch_touches {W : List Part} {σ τ : State} {n : Nat} {a : Nat} {len : Nat} (hW : ∀ p ∈ State.bufFetch_foot, p ∈ W)
    (hT : Touches W σ τ) : Touches W σ (State.bufFetch τ n a len).2 := by
  unfold State.bufFetch
  try dsimp only
  repeat' first
    | with_reducible apply Touches.iteSnd
    | with_reducible apply Touches.ite
    | with_reducible refine Touches.ofPair (by assumption) (State.fetch_touches (fun p hp => hW p (by unfold State.bufFetch_foot; repeat first | with_reducible exact hp | with_reducible exact List.mem_append_right _ hp | with_reducible apply List.mem_append_left)) ?_)
    | with_reducible refine State.fetch_touches (fun p hp => hW p (by unfold State.bufFetch_foot; repeat first | with_reducible exact hp | with_reducible exact List.mem_append_right _ hp | with_reducible apply List.mem_append_left)) ?_
    | split
    | with_reducible refine forN_touches ?_ (fun x k hx => ?_)
    | with_reducible refine foldl_touches ?_ (fun x a hx => ?_)
    | with_reducible refine foldlSnd_touches ?_ (fun x a hx => ?_)
    | with_reducible assumption

/-- The parts State.bufStore touches. -/
def State.bufStore_foot : List Part := State.store_foot

theorem State.bufStore_touches {W : List Part} {σ τ : State} {n : Nat} {a : Nat} {data : List Byte} (hW : ∀ p ∈ State.bufStore_foot, p ∈ W)
    (hT : Touches W σ τ) : Touches W σ (State.bufStore τ n a data) := by
  unfold State.bufStore
  try dsimp only
  repeat' first
    | with_reducible apply Touches.ite
    | with_reducible refine Touches.ofPair (by assumption) (State.store_touches (fun p hp => hW p (by unfold State.bufStore_foot; repeat first | with_reducible exact hp | with_reducible exact List.mem_append_right _ hp | with_reducible apply List.mem_append_left)) ?_)
    | with_reducible refine State.store_touches (fun p hp => hW p (by unfold State.bufStore_foot; repeat first | with_reducible exact hp | with_reducible exact List.mem_append_right _ hp | with_reducible apply List.mem_append_left)) ?_
    | split
    | with_reducible refine forN_touches ?_ (fun x k hx => ?_)
    | with_reducible refine foldl_touches ?_ (fun x a hx => ?_)
    | with_reducible refine foldlSnd_touches ?_ (fun x a hx => ?_)
    | with_reducible assumption

/-- The parts State.putEntry touches. -/
def State.putEntry_foot : List Part := State.bufStore_foot

theorem State.putEntry_touches {W : List Part} {σ τ : State} {n : Nat} {k : Nat} {i : Nat} {e : Nat} (hW : ∀ p ∈ State.putEntry_foot, p ∈ W)
    (hT : Touches W σ τ) : Touches W σ (State.putEntry τ n k i e) := by
  unfold State.putEntry
  try dsimp only
  repeat' first
    | with_reducible apply Touches.ite
    | with_reducible refine State.bufStore_touches (fun p hp => hW p (by unfold State.putEntry_foot; repeat first | with_reducible exact hp | with_reducible exact List.mem_append_right _ hp | with_reducible apply List.mem_append_left)) ?_
    | split
    | with_reducible refine forN_touches ?_ (fun x k hx => ?_)
    | with_reducible refine foldl_touches ?_ (fun x a hx => ?_)
    | with_reducible refine foldlSnd_touches ?_ (fun x a hx => ?_)
    | with_reducible assumption

/-- The parts State.openFill touches. -/
def State.openFill_foot : List Part := [.reg .iBK_BASE, .reg .iBK_INDEX, .reg .iBK_CUE, .reg .iBK_FRAME, .reg .iBUF_SEAL, .fld .ingestRefs] ++ State.setBank_foot ++ State.bufStore_foot

theorem State.openFill_touches {W : List Part} {σ τ : State} {n : Nat} {k : Nat} {frame : Nat} (hW : ∀ p ∈ State.openFill_foot, p ∈ W)
    (hT : Touches W σ τ) : Touches W σ (State.openFill τ n k frame) := by
  unfold State.openFill
  try dsimp only
  repeat' first
    | with_reducible apply Touches.ite
    | with_reducible refine State.setReg_touches (hW _ (by first | (simp [State.openFill_foot]; done) | (split <;> simp [State.openFill_foot] <;> done) | ((repeat' split) <;> simp [State.openFill_foot])))  ?_
    | with_reducible refine State.setBank_touches (fun p hp => hW p (by unfold State.openFill_foot; repeat first | with_reducible exact hp | with_reducible exact List.mem_append_right _ hp | with_reducible apply List.mem_append_left)) ?_
    | with_reducible refine State.bufStore_touches (fun p hp => hW p (by unfold State.openFill_foot; repeat first | with_reducible exact hp | with_reducible exact List.mem_append_right _ hp | with_reducible apply List.mem_append_left)) ?_
    | split
    | with_reducible refine forN_touches ?_ (fun x k hx => ?_)
    | with_reducible refine foldl_touches ?_ (fun x a hx => ?_)
    | with_reducible refine foldlSnd_touches ?_ (fun x a hx => ?_)
    | with_reducible assumption
    | with_reducible refine touches_mk (fun f => by cases f <;> first | exact .inr (by with_reducible rfl) | exact .inl (hW _ (by simp [State.openFill_foot]))) ?_

/-- The parts State.concealTile touches. -/
def State.concealTile_foot : List Part := State.putEntry_foot ++ State.bufFetch_foot ++ State.bufStore_foot

theorem State.concealTile_touches {W : List Part} {σ τ : State} {n : Nat} {k : Nat} {src : Option Nat} {held : Bool} {i : Nat} (hW : ∀ p ∈ State.concealTile_foot, p ∈ W)
    (hT : Touches W σ τ) : Touches W σ (State.concealTile τ n k src held i) := by
  unfold State.concealTile
  try dsimp only
  repeat' first
    | with_reducible apply Touches.ite
    | with_reducible refine State.putEntry_touches (fun p hp => hW p (by unfold State.concealTile_foot; repeat first | with_reducible exact hp | with_reducible exact List.mem_append_right _ hp | with_reducible apply List.mem_append_left)) ?_
    | with_reducible refine Touches.ofPair (by assumption) (State.bufFetch_touches (fun p hp => hW p (by unfold State.concealTile_foot; repeat first | with_reducible exact hp | with_reducible exact List.mem_append_right _ hp | with_reducible apply List.mem_append_left)) ?_)
    | with_reducible refine State.bufFetch_touches (fun p hp => hW p (by unfold State.concealTile_foot; repeat first | with_reducible exact hp | with_reducible exact List.mem_append_right _ hp | with_reducible apply List.mem_append_left)) ?_
    | with_reducible refine State.bufStore_touches (fun p hp => hW p (by unfold State.concealTile_foot; repeat first | with_reducible exact hp | with_reducible exact List.mem_append_right _ hp | with_reducible apply List.mem_append_left)) ?_
    | split
    | with_reducible refine forN_touches ?_ (fun x k hx => ?_)
    | with_reducible refine foldl_touches ?_ (fun x a hx => ?_)
    | with_reducible refine foldlSnd_touches ?_ (fun x a hx => ?_)
    | with_reducible assumption

/-- The parts State.makeReady touches. -/
def State.makeReady_foot : List Part := [.reg .BUF_SUPERSEDED] ++ State.setBank_foot ++ State.goGroup_foot

theorem State.makeReady_touches {W : List Part} {σ τ : State} {n : Nat} {k : Nat} (hW : ∀ p ∈ State.makeReady_foot, p ∈ W)
    (hT : Touches W σ τ) : Touches W σ (State.makeReady τ n k) := by
  unfold State.makeReady
  try dsimp only
  repeat' first
    | with_reducible apply Touches.ite
    | with_reducible refine cond_touches ?_ (fun x hx => ?_)
    | with_reducible refine State.bump_touches (hW _ (by first | (simp [State.makeReady_foot]; done) | (split <;> simp [State.makeReady_foot] <;> done) | ((repeat' split) <;> simp [State.makeReady_foot])))  ?_
    | with_reducible refine State.setBank_touches (fun p hp => hW p (by unfold State.makeReady_foot; repeat first | with_reducible exact hp | with_reducible exact List.mem_append_right _ hp | with_reducible apply List.mem_append_left)) ?_
    | with_reducible refine State.goGroup_touches (fun p hp => hW p (by unfold State.makeReady_foot; repeat first | with_reducible exact hp | with_reducible exact List.mem_append_right _ hp | with_reducible apply List.mem_append_left)) (by assumption) ?_
    | with_reducible refine getD_touches (fun υ e => State.goGroup_touches (fun p hp => hW p (by unfold State.makeReady_foot; repeat first | with_reducible exact hp | with_reducible exact List.mem_append_right _ hp | with_reducible apply List.mem_append_left)) e ?_) ?_
    | split
    | with_reducible refine forN_touches ?_ (fun x k hx => ?_)
    | with_reducible refine foldl_touches ?_ (fun x a hx => ?_)
    | with_reducible refine foldlSnd_touches ?_ (fun x a hx => ?_)
    | with_reducible assumption

/-- The parts State.discard touches. -/
def State.discard_foot : List Part := [.reg .STR_DISCARDS]

theorem State.discard_touches {W : List Part} {σ τ : State} {slot : Nat} {cause : Nat} (hW : ∀ p ∈ State.discard_foot, p ∈ W)
    (hT : Touches W σ τ) : Touches W σ (State.discard τ slot cause) := by
  unfold State.discard
  try dsimp only
  repeat' first
    | with_reducible apply Touches.ite
    | with_reducible refine State.setReg_touches (hW _ (by first | (simp [State.discard_foot]; done) | (split <;> simp [State.discard_foot] <;> done) | ((repeat' split) <;> simp [State.discard_foot])))  ?_
    | split
    | with_reducible refine forN_touches ?_ (fun x k hx => ?_)
    | with_reducible refine foldl_touches ?_ (fun x a hx => ?_)
    | with_reducible refine foldlSnd_touches ?_ (fun x a hx => ?_)
    | with_reducible assumption

/-- The parts State.keepIngest touches. -/
def State.keepIngest_foot : List Part := [.fld .ingestRefs] ++ State.store_foot

theorem State.keepIngest_touches {W : List Part} {σ τ : State} {t : IngestTile} {d : Nat} {pred : Nat} {data : List Byte} (hW : ∀ p ∈ State.keepIngest_foot, p ∈ W)
    (hT : Touches W σ τ) : Touches W σ (State.keepIngest τ t d pred data) := by
  unfold State.keepIngest
  try dsimp only
  repeat' first
    | with_reducible apply Touches.ite
    | with_reducible refine Touches.ofPair (by assumption) (State.store_touches (fun p hp => hW p (by unfold State.keepIngest_foot; repeat first | with_reducible exact hp | with_reducible exact List.mem_append_right _ hp | with_reducible apply List.mem_append_left)) ?_)
    | with_reducible refine State.store_touches (fun p hp => hW p (by unfold State.keepIngest_foot; repeat first | with_reducible exact hp | with_reducible exact List.mem_append_right _ hp | with_reducible apply List.mem_append_left)) ?_
    | split
    | with_reducible refine forN_touches ?_ (fun x k hx => ?_)
    | with_reducible refine foldl_touches ?_ (fun x a hx => ?_)
    | with_reducible refine foldlSnd_touches ?_ (fun x a hx => ?_)
    | with_reducible assumption
    | with_reducible refine touches_mk (fun f => by cases f <;> first | exact .inr (by with_reducible rfl) | exact .inl (hW _ (by simp [State.keepIngest_foot]))) ?_

/-- The parts State.decodeIngest touches. -/
def State.decodeIngest_foot : List Part := [.reg .HK_INGEST_REJECTED] ++ State.discard_foot ++ State.fetch_foot ++ State.keepIngest_foot

theorem State.decodeIngest_touches {W : List Part} {σ τ : State} {t : IngestTile} {d : Nat} (hW : ∀ p ∈ State.decodeIngest_foot, p ∈ W)
    (hT : Touches W σ τ) : Touches W σ (State.decodeIngest τ t d) := by
  unfold State.decodeIngest
  try dsimp only
  repeat' first
    | with_reducible apply Touches.ite
    | with_reducible refine State.discard_touches (fun p hp => hW p (by unfold State.decodeIngest_foot; repeat first | with_reducible exact hp | with_reducible exact List.mem_append_right _ hp | with_reducible apply List.mem_append_left)) ?_
    | with_reducible refine Touches.ofPair (by assumption) (State.fetch_touches (fun p hp => hW p (by unfold State.decodeIngest_foot; repeat first | with_reducible exact hp | with_reducible exact List.mem_append_right _ hp | with_reducible apply List.mem_append_left)) ?_)
    | with_reducible refine State.fetch_touches (fun p hp => hW p (by unfold State.decodeIngest_foot; repeat first | with_reducible exact hp | with_reducible exact List.mem_append_right _ hp | with_reducible apply List.mem_append_left)) ?_
    | with_reducible refine State.bump_touches (hW _ (by first | (simp [State.decodeIngest_foot]; done) | (split <;> simp [State.decodeIngest_foot] <;> done) | ((repeat' split) <;> simp [State.decodeIngest_foot])))  ?_
    | with_reducible refine State.keepIngest_touches (fun p hp => hW p (by unfold State.decodeIngest_foot; repeat first | with_reducible exact hp | with_reducible exact List.mem_append_right _ hp | with_reducible apply List.mem_append_left)) ?_
    | split
    | with_reducible refine forN_touches ?_ (fun x k hx => ?_)
    | with_reducible refine foldl_touches ?_ (fun x a hx => ?_)
    | with_reducible refine foldlSnd_touches ?_ (fun x a hx => ?_)
    | with_reducible assumption

/-- The parts State.decodeSealing touches. -/
def State.decodeSealing_foot : List Part := [.fld .ingest] ++ State.decodeIngest_foot

theorem State.decodeSealing_touches {W : List Part} {σ τ : State} {n : Nat} (hW : ∀ p ∈ State.decodeSealing_foot, p ∈ W)
    (hT : Touches W σ τ) : Touches W σ (State.decodeSealing τ n) := by
  unfold State.decodeSealing
  try dsimp only
  repeat' first
    | with_reducible apply Touches.ite
    | with_reducible refine State.decodeIngest_touches (fun p hp => hW p (by unfold State.decodeSealing_foot; repeat first | with_reducible exact hp | with_reducible exact List.mem_append_right _ hp | with_reducible apply List.mem_append_left)) ?_
    | split
    | with_reducible refine forN_touches ?_ (fun x k hx => ?_)
    | with_reducible refine foldl_touches ?_ (fun x a hx => ?_)
    | with_reducible refine foldlSnd_touches ?_ (fun x a hx => ?_)
    | with_reducible assumption
    | with_reducible refine touches_mk (fun f => by cases f <;> first | exact .inr (by with_reducible rfl) | exact .inl (hW _ (by simp [State.decodeSealing_foot]))) ?_

/-- The parts State.sealReads touches. -/
def State.sealReads_foot : List Part := State.bufFetch_foot

theorem State.sealReads_touches {W : List Part} {σ τ : State} {n : Nat} {k : Nat} (hW : ∀ p ∈ State.sealReads_foot, p ∈ W)
    (hT : Touches W σ τ) : Touches W σ (State.sealReads τ n k).2 := by
  unfold State.sealReads
  try dsimp only
  repeat' first
    | with_reducible apply Touches.iteSnd
    | with_reducible apply Touches.ite
    | with_reducible refine Touches.ofPair (by assumption) (State.bufFetch_touches (fun p hp => hW p (by unfold State.sealReads_foot; repeat first | with_reducible exact hp | with_reducible exact List.mem_append_right _ hp | with_reducible apply List.mem_append_left)) ?_)
    | with_reducible refine State.bufFetch_touches (fun p hp => hW p (by unfold State.sealReads_foot; repeat first | with_reducible exact hp | with_reducible exact List.mem_append_right _ hp | with_reducible apply List.mem_append_left)) ?_
    | split
    | with_reducible refine forN_touches ?_ (fun x k hx => ?_)
    | with_reducible refine foldl_touches ?_ (fun x a hx => ?_)
    | with_reducible refine foldlSnd_touches ?_ (fun x a hx => ?_)
    | with_reducible assumption

/-- The parts State.sealFill touches. -/
def State.sealFill_foot : List Part := [.reg .iBUF_SEAL] ++ State.setBank_foot

theorem State.sealFill_touches {W : List Part} {σ τ : State} {n : Nat} (hW : ∀ p ∈ State.sealFill_foot, p ∈ W)
    (hT : Touches W σ τ) : Touches W σ (State.sealFill τ n) := by
  unfold State.sealFill
  try dsimp only
  repeat' first
    | with_reducible apply Touches.ite
    | with_reducible refine State.setReg_touches (hW _ (by first | (simp [State.sealFill_foot]; done) | (split <;> simp [State.sealFill_foot] <;> done) | ((repeat' split) <;> simp [State.sealFill_foot])))  ?_
    | with_reducible refine State.setBank_touches (fun p hp => hW p (by unfold State.sealFill_foot; repeat first | with_reducible exact hp | with_reducible exact List.mem_append_right _ hp | with_reducible apply List.mem_append_left)) ?_
    | split
    | with_reducible refine forN_touches ?_ (fun x k hx => ?_)
    | with_reducible refine foldl_touches ?_ (fun x a hx => ?_)
    | with_reducible refine foldlSnd_touches ?_ (fun x a hx => ?_)
    | with_reducible assumption

/-- The parts State.noteConcealed touches. -/
def State.noteConcealed_foot : List Part := [.reg .STR_TILES_LOST, .reg .STR_QUEUE] ++ State.raise_foot

theorem State.noteConcealed_touches {W : List Part} {σ τ : State} {n : Nat} {k : Nat} {count : Nat} (hW : ∀ p ∈ State.noteConcealed_foot, p ∈ W)
    (hT : Touches W σ τ) : Touches W σ (State.noteConcealed τ n k count) := by
  unfold State.noteConcealed
  try dsimp only
  repeat' first
    | with_reducible apply Touches.ite
    | with_reducible refine cond_touches ?_ (fun x hx => ?_)
    | with_reducible refine State.bumpBy_touches (hW _ (by first | (simp [State.noteConcealed_foot]; done) | (split <;> simp [State.noteConcealed_foot] <;> done) | ((repeat' split) <;> simp [State.noteConcealed_foot])))  ?_
    | with_reducible refine State.raise_touches (fun p hp => hW p (by unfold State.noteConcealed_foot; repeat first | with_reducible exact hp | with_reducible exact List.mem_append_right _ hp | with_reducible apply List.mem_append_left)) ?_
    | split
    | with_reducible refine forN_touches ?_ (fun x k hx => ?_)
    | with_reducible refine foldl_touches ?_ (fun x a hx => ?_)
    | with_reducible refine foldlSnd_touches ?_ (fun x a hx => ?_)
    | with_reducible assumption

/-- The parts State.completeSeal touches. -/
def State.completeSeal_foot : List Part := [.reg .iBK_CONC, .reg .iBK_MAXB] ++ State.sealReads_foot ++ State.withFindings_foot ++ State.concealTile_foot ++ State.makeReady_foot ++ State.setBank_foot ++ State.noteConcealed_foot ++ State.sealFill_foot

theorem State.completeSeal_touches {W : List Part} {σ τ : State} {n : Nat} (hW : ∀ p ∈ State.completeSeal_foot, p ∈ W)
    (hT : Touches W σ τ) : Touches W σ (State.completeSeal τ n) := by
  unfold State.completeSeal
  try dsimp only
  repeat' first
    | with_reducible apply Touches.ite
    | with_reducible refine Touches.ofPair (by assumption) (State.sealReads_touches (fun p hp => hW p (by unfold State.completeSeal_foot; repeat first | with_reducible exact hp | with_reducible exact List.mem_append_right _ hp | with_reducible apply List.mem_append_left)) ?_)
    | with_reducible refine State.sealReads_touches (fun p hp => hW p (by unfold State.completeSeal_foot; repeat first | with_reducible exact hp | with_reducible exact List.mem_append_right _ hp | with_reducible apply List.mem_append_left)) ?_
    | with_reducible refine State.withFindings_touches (fun p hp => hW p (by unfold State.completeSeal_foot; repeat first | with_reducible exact hp | with_reducible exact List.mem_append_right _ hp | with_reducible apply List.mem_append_left)) ?_
    | with_reducible refine State.concealTile_touches (fun p hp => hW p (by unfold State.completeSeal_foot; repeat first | with_reducible exact hp | with_reducible exact List.mem_append_right _ hp | with_reducible apply List.mem_append_left)) ?_
    | with_reducible refine State.makeReady_touches (fun p hp => hW p (by unfold State.completeSeal_foot; repeat first | with_reducible exact hp | with_reducible exact List.mem_append_right _ hp | with_reducible apply List.mem_append_left)) ?_
    | with_reducible refine State.setBank_touches (fun p hp => hW p (by unfold State.completeSeal_foot; repeat first | with_reducible exact hp | with_reducible exact List.mem_append_right _ hp | with_reducible apply List.mem_append_left)) ?_
    | with_reducible refine State.setReg_touches (hW _ (by first | (simp [State.completeSeal_foot]; done) | (split <;> simp [State.completeSeal_foot] <;> done) | ((repeat' split) <;> simp [State.completeSeal_foot])))  ?_
    | with_reducible refine cond_touches ?_ (fun x hx => ?_)
    | with_reducible refine State.noteConcealed_touches (fun p hp => hW p (by unfold State.completeSeal_foot; repeat first | with_reducible exact hp | with_reducible exact List.mem_append_right _ hp | with_reducible apply List.mem_append_left)) ?_
    | with_reducible refine State.sealFill_touches (fun p hp => hW p (by unfold State.completeSeal_foot; repeat first | with_reducible exact hp | with_reducible exact List.mem_append_right _ hp | with_reducible apply List.mem_append_left)) ?_
    | split
    | with_reducible refine forN_touches ?_ (fun x k hx => ?_)
    | with_reducible refine foldl_touches ?_ (fun x a hx => ?_)
    | with_reducible refine foldlSnd_touches ?_ (fun x a hx => ?_)
    | with_reducible assumption

/-- The parts execBufParamWrite touches. -/
def execBufParamWrite_foot : List Part := [.reg .BUF_KIND, .reg .BUF_FORMAT, .reg .BUF_STORE, .reg .BUF_WIDTH, .reg .BUF_HEIGHT, .reg .BUF_BASE, .reg .BUF_SOURCE, .reg .BUF_CONCEAL, .fld .status] ++ writeParam_foot ++ State.setBank_foot

theorem execBufParamWrite_touches {W : List Part} {σ τ : State} {acc : Accessor} {n : Fin 1024} {p : BufParam} {v : Nat} (hW : ∀ p ∈ execBufParamWrite_foot, p ∈ W)
    (hT : Touches W σ τ) : OutTouches W σ (execBufParamWrite acc n p v τ) := by
  unfold execBufParamWrite
  try dsimp only
  repeat' first
    | with_reducible apply OutTouches.ite
    | with_reducible refine OutTouches.next ?_
    | with_reducible apply Touches.ite
    | with_reducible refine writeParam_touches  (fun p hp => hW p (by unfold execBufParamWrite_foot; repeat first | with_reducible exact hp | with_reducible exact List.mem_append_right _ hp | with_reducible apply List.mem_append_left)) ?_ (fun x  hx => ?_)
    | with_reducible refine State.refuse_touches (hW _ (by simp [execBufParamWrite_foot])) ?_
    | with_reducible refine State.setReg_touches (hW _ (by first | (simp [execBufParamWrite_foot]; done) | (split <;> simp [execBufParamWrite_foot] <;> done) | (simp only [bufReg]; (repeat' split) <;> simp [execBufParamWrite_foot]) | ((repeat' split) <;> simp [execBufParamWrite_foot])))  ?_
    | with_reducible refine cond_touches ?_ (fun x hx => ?_)
    | with_reducible refine State.setBank_touches (fun p hp => hW p (by unfold execBufParamWrite_foot; repeat first | with_reducible exact hp | with_reducible exact List.mem_append_right _ hp | with_reducible apply List.mem_append_left)) ?_
    | split
    | with_reducible refine forN_touches ?_ (fun x k hx => ?_)
    | with_reducible refine foldl_touches ?_ (fun x a hx => ?_)
    | with_reducible refine foldlSnd_touches ?_ (fun x a hx => ?_)
    | with_reducible assumption

/-- The parts execBufCtrlOpen touches. -/
def execBufCtrlOpen_foot : List Part := [.fld .status] ++ writeParam_foot ++ State.openFill_foot

theorem execBufCtrlOpen_touches {W : List Part} {σ τ : State} {acc : Accessor} {n : Fin 1024} (hW : ∀ p ∈ execBufCtrlOpen_foot, p ∈ W)
    (hT : Touches W σ τ) : OutTouches W σ (execBufCtrlOpen acc n τ) := by
  unfold execBufCtrlOpen
  try dsimp only
  repeat' first
    | with_reducible apply OutTouches.ite
    | with_reducible refine OutTouches.next ?_
    | with_reducible apply Touches.ite
    | with_reducible refine writeParam_touches  (fun p hp => hW p (by unfold execBufCtrlOpen_foot; repeat first | with_reducible exact hp | with_reducible exact List.mem_append_right _ hp | with_reducible apply List.mem_append_left)) ?_ (fun x  hx => ?_)
    | with_reducible refine State.refuse_touches (hW _ (by simp [execBufCtrlOpen_foot])) ?_
    | with_reducible refine State.openFill_touches (fun p hp => hW p (by unfold execBufCtrlOpen_foot; repeat first | with_reducible exact hp | with_reducible exact List.mem_append_right _ hp | with_reducible apply List.mem_append_left)) ?_
    | split
    | with_reducible refine forN_touches ?_ (fun x k hx => ?_)
    | with_reducible refine foldl_touches ?_ (fun x a hx => ?_)
    | with_reducible refine foldlSnd_touches ?_ (fun x a hx => ?_)
    | with_reducible assumption

/-- The parts execBufCtrlSeal touches. -/
def execBufCtrlSeal_foot : List Part := [.fld .status] ++ writeParam_foot ++ State.sealFill_foot

theorem execBufCtrlSeal_touches {W : List Part} {σ τ : State} {acc : Accessor} {n : Fin 1024} (hW : ∀ p ∈ execBufCtrlSeal_foot, p ∈ W)
    (hT : Touches W σ τ) : OutTouches W σ (execBufCtrlSeal acc n τ) := by
  unfold execBufCtrlSeal
  try dsimp only
  repeat' first
    | with_reducible apply OutTouches.ite
    | with_reducible refine OutTouches.next ?_
    | with_reducible apply Touches.ite
    | with_reducible refine writeParam_touches  (fun p hp => hW p (by unfold execBufCtrlSeal_foot; repeat first | with_reducible exact hp | with_reducible exact List.mem_append_right _ hp | with_reducible apply List.mem_append_left)) ?_ (fun x  hx => ?_)
    | with_reducible refine State.sealFill_touches (fun p hp => hW p (by unfold execBufCtrlSeal_foot; repeat first | with_reducible exact hp | with_reducible exact List.mem_append_right _ hp | with_reducible apply List.mem_append_left)) ?_
    | with_reducible refine State.refuse_touches (hW _ (by simp [execBufCtrlSeal_foot])) ?_
    | split
    | with_reducible refine forN_touches ?_ (fun x k hx => ?_)
    | with_reducible refine foldl_touches ?_ (fun x a hx => ?_)
    | with_reducible refine foldlSnd_touches ?_ (fun x a hx => ?_)
    | with_reducible assumption

/-- The parts execBufCtrlDiscard touches. -/
def execBufCtrlDiscard_foot : List Part := [.reg .iBUF_SEAL, .fld .ingest, .fld .status] ++ writeParam_foot ++ State.setBank_foot

theorem execBufCtrlDiscard_touches {W : List Part} {σ τ : State} {acc : Accessor} {n : Fin 1024} (hW : ∀ p ∈ execBufCtrlDiscard_foot, p ∈ W)
    (hT : Touches W σ τ) : OutTouches W σ (execBufCtrlDiscard acc n τ) := by
  unfold execBufCtrlDiscard
  try dsimp only
  repeat' first
    | with_reducible apply OutTouches.ite
    | with_reducible refine OutTouches.next ?_
    | with_reducible apply Touches.ite
    | with_reducible refine writeParam_touches  (fun p hp => hW p (by unfold execBufCtrlDiscard_foot; repeat first | with_reducible exact hp | with_reducible exact List.mem_append_right _ hp | with_reducible apply List.mem_append_left)) ?_ (fun x  hx => ?_)
    | with_reducible refine State.refuse_touches (hW _ (by simp [execBufCtrlDiscard_foot])) ?_
    | with_reducible refine State.setReg_touches (hW _ (by first | (simp [execBufCtrlDiscard_foot]; done) | (split <;> simp [execBufCtrlDiscard_foot] <;> done) | ((repeat' split) <;> simp [execBufCtrlDiscard_foot])))  ?_
    | with_reducible refine State.setBank_touches (fun p hp => hW p (by unfold execBufCtrlDiscard_foot; repeat first | with_reducible exact hp | with_reducible exact List.mem_append_right _ hp | with_reducible apply List.mem_append_left)) ?_
    | split
    | with_reducible refine forN_touches ?_ (fun x k hx => ?_)
    | with_reducible refine foldl_touches ?_ (fun x a hx => ?_)
    | with_reducible refine foldlSnd_touches ?_ (fun x a hx => ?_)
    | with_reducible assumption
    | with_reducible refine touches_mk (fun f => by cases f <;> first | exact .inr (by with_reducible rfl) | exact .inl (hW _ (by simp [execBufCtrlDiscard_foot]))) ?_

/-- The parts execSealComplete touches. -/
def execSealComplete_foot : List Part := State.see_foot ++ State.completeSeal_foot

theorem execSealComplete_touches {W : List Part} {σ τ : State} {n : Fin 1024} {seen : Seen} (hW : ∀ p ∈ execSealComplete_foot, p ∈ W)
    (hT : Touches W σ τ) : OutTouches W σ (execSealComplete n seen τ) := by
  unfold execSealComplete
  try dsimp only
  repeat' first
    | with_reducible apply OutTouches.ite
    | with_reducible refine OutTouches.next ?_
    | with_reducible apply Touches.ite
    | with_reducible refine State.see_touches (fun p hp => hW p (by unfold execSealComplete_foot; repeat first | with_reducible exact hp | with_reducible exact List.mem_append_right _ hp | with_reducible apply List.mem_append_left)) ?_
    | with_reducible refine State.completeSeal_touches (fun p hp => hW p (by unfold execSealComplete_foot; repeat first | with_reducible exact hp | with_reducible exact List.mem_append_right _ hp | with_reducible apply List.mem_append_left)) ?_
    | split
    | with_reducible refine forN_touches ?_ (fun x k hx => ?_)
    | with_reducible refine foldl_touches ?_ (fun x a hx => ?_)
    | with_reducible refine foldlSnd_touches ?_ (fun x a hx => ?_)
    | with_reducible assumption

/-- The parts State.acceptSeq touches. -/
def State.acceptSeq_foot : List Part := [.reg .STR_PACKETS, .reg .iSEQ_HIGH, .fld .replay]

theorem State.acceptSeq_touches {W : List Part} {σ τ : State} {slot : Nat} {seq : Nat} (hW : ∀ p ∈ State.acceptSeq_foot, p ∈ W)
    (hT : Touches W σ τ) : Touches W σ (State.acceptSeq τ slot seq) := by
  unfold State.acceptSeq
  try dsimp only
  repeat' first
    | with_reducible apply Touches.ite
    | with_reducible refine State.bump_touches (hW _ (by first | (simp [State.acceptSeq_foot]; done) | (split <;> simp [State.acceptSeq_foot] <;> done) | ((repeat' split) <;> simp [State.acceptSeq_foot])))  ?_
    | with_reducible refine State.setReg_touches (hW _ (by first | (simp [State.acceptSeq_foot]; done) | (split <;> simp [State.acceptSeq_foot] <;> done) | ((repeat' split) <;> simp [State.acceptSeq_foot])))  ?_
    | split
    | with_reducible refine forN_touches ?_ (fun x k hx => ?_)
    | with_reducible refine foldl_touches ?_ (fun x a hx => ?_)
    | with_reducible refine foldlSnd_touches ?_ (fun x a hx => ?_)
    | with_reducible assumption
    | with_reducible refine touches_mk (fun f => by cases f <;> first | exact .inr (by with_reducible rfl) | exact .inl (hW _ (by simp [State.acceptSeq_foot]))) ?_

/-- The parts State.fillFor touches. -/
def State.fillFor_foot : List Part := State.sealFill_foot ++ State.openFill_foot

theorem State.fillFor_touches {W : List Part} {σ τ : State} {n : Nat} {f : Nat} (hW : ∀ p ∈ State.fillFor_foot, p ∈ W)
    (hT : Touches W σ τ) : Touches W σ (State.fillFor τ n f).2 := by
  unfold State.fillFor
  try dsimp only
  repeat' first
    | with_reducible apply Touches.iteSnd
    | with_reducible apply Touches.ite
    | with_reducible refine State.sealFill_touches (fun p hp => hW p (by unfold State.fillFor_foot; repeat first | with_reducible exact hp | with_reducible exact List.mem_append_right _ hp | with_reducible apply List.mem_append_left)) ?_
    | with_reducible refine State.openFill_touches (fun p hp => hW p (by unfold State.fillFor_foot; repeat first | with_reducible exact hp | with_reducible exact List.mem_append_right _ hp | with_reducible apply List.mem_append_left)) ?_
    | split
    | with_reducible refine forN_touches ?_ (fun x k hx => ?_)
    | with_reducible refine foldl_touches ?_ (fun x a hx => ?_)
    | with_reducible refine foldlSnd_touches ?_ (fun x a hx => ?_)
    | with_reducible assumption

/-- The parts State.keepCoded touches. -/
def State.keepCoded_foot : List Part := State.store_foot

theorem State.keepCoded_touches {W : List Part} {σ τ : State} {slot : Nat} {n : Nat} {k : Nat} {i : Nat} {len : Nat} {tile : List Byte} (hW : ∀ p ∈ State.keepCoded_foot, p ∈ W)
    (hT : Touches W σ τ) : Touches W σ (State.keepCoded τ slot n k i len tile) := by
  unfold State.keepCoded
  try dsimp only
  repeat' first
    | with_reducible apply Touches.ite
    | with_reducible refine Touches.ofPair (by assumption) (State.store_touches (fun p hp => hW p (by unfold State.keepCoded_foot; repeat first | with_reducible exact hp | with_reducible exact List.mem_append_right _ hp | with_reducible apply List.mem_append_left)) ?_)
    | with_reducible refine State.store_touches (fun p hp => hW p (by unfold State.keepCoded_foot; repeat first | with_reducible exact hp | with_reducible exact List.mem_append_right _ hp | with_reducible apply List.mem_append_left)) ?_
    | split
    | with_reducible refine forN_touches ?_ (fun x k hx => ?_)
    | with_reducible refine foldl_touches ?_ (fun x a hx => ?_)
    | with_reducible refine foldlSnd_touches ?_ (fun x a hx => ?_)
    | with_reducible assumption

/-- The parts State.placeTile touches. -/
def State.placeTile_foot : List Part := [.fld .ingest] ++ State.fillFor_foot ++ State.discard_foot ++ State.loseIngest_foot ++ State.keepCoded_foot

theorem State.placeTile_touches {W : List Part} {σ τ : State} {slot : Nat} {n : Nat} {f : Nat} {i : Nat} {tile : List Byte} (hW : ∀ p ∈ State.placeTile_foot, p ∈ W)
    (hT : Touches W σ τ) : Touches W σ (State.placeTile τ slot n f i tile) := by
  unfold State.placeTile
  try dsimp only
  repeat' first
    | with_reducible apply Touches.ite
    | with_reducible refine Touches.ofPair (by assumption) (State.fillFor_touches (fun p hp => hW p (by unfold State.placeTile_foot; repeat first | with_reducible exact hp | with_reducible exact List.mem_append_right _ hp | with_reducible apply List.mem_append_left)) ?_)
    | with_reducible refine State.fillFor_touches (fun p hp => hW p (by unfold State.placeTile_foot; repeat first | with_reducible exact hp | with_reducible exact List.mem_append_right _ hp | with_reducible apply List.mem_append_left)) ?_
    | with_reducible refine State.discard_touches (fun p hp => hW p (by unfold State.placeTile_foot; repeat first | with_reducible exact hp | with_reducible exact List.mem_append_right _ hp | with_reducible apply List.mem_append_left)) ?_
    | with_reducible refine State.loseIngest_touches (fun p hp => hW p (by unfold State.placeTile_foot; repeat first | with_reducible exact hp | with_reducible exact List.mem_append_right _ hp | with_reducible apply List.mem_append_left)) ?_
    | with_reducible refine State.keepCoded_touches (fun p hp => hW p (by unfold State.placeTile_foot; repeat first | with_reducible exact hp | with_reducible exact List.mem_append_right _ hp | with_reducible apply List.mem_append_left)) ?_
    | split
    | with_reducible refine forN_touches ?_ (fun x k hx => ?_)
    | with_reducible refine foldl_touches ?_ (fun x a hx => ?_)
    | with_reducible refine foldlSnd_touches ?_ (fun x a hx => ?_)
    | with_reducible assumption
    | with_reducible refine touches_mk (fun f => by cases f <;> first | exact .inr (by with_reducible rfl) | exact .inl (hW _ (by simp [State.placeTile_foot]))) ?_

/-- The parts State.endPacket touches. -/
def State.endPacket_foot : List Part := State.sealFill_foot ++ State.fillFor_foot ++ State.goGroup_foot

theorem State.endPacket_touches {W : List Part} {σ τ : State} {slot : Nat} {h : PacketHead} (hW : ∀ p ∈ State.endPacket_foot, p ∈ W)
    (hT : Touches W σ τ) : Touches W σ (State.endPacket τ slot h) := by
  unfold State.endPacket
  try dsimp only
  repeat' first
    | with_reducible apply Touches.ite
    | with_reducible refine State.sealFill_touches (fun p hp => hW p (by unfold State.endPacket_foot; repeat first | with_reducible exact hp | with_reducible exact List.mem_append_right _ hp | with_reducible apply List.mem_append_left)) ?_
    | with_reducible refine Touches.ofPair (by assumption) (State.fillFor_touches (fun p hp => hW p (by unfold State.endPacket_foot; repeat first | with_reducible exact hp | with_reducible exact List.mem_append_right _ hp | with_reducible apply List.mem_append_left)) ?_)
    | with_reducible refine State.fillFor_touches (fun p hp => hW p (by unfold State.endPacket_foot; repeat first | with_reducible exact hp | with_reducible exact List.mem_append_right _ hp | with_reducible apply List.mem_append_left)) ?_
    | with_reducible refine State.goGroup_touches (fun p hp => hW p (by unfold State.endPacket_foot; repeat first | with_reducible exact hp | with_reducible exact List.mem_append_right _ hp | with_reducible apply List.mem_append_left)) (by assumption) ?_
    | with_reducible refine getD_touches (fun υ e => State.goGroup_touches (fun p hp => hW p (by unfold State.endPacket_foot; repeat first | with_reducible exact hp | with_reducible exact List.mem_append_right _ hp | with_reducible apply List.mem_append_left)) e ?_) ?_
    | split
    | with_reducible refine forN_touches ?_ (fun x k hx => ?_)
    | with_reducible refine foldl_touches ?_ (fun x a hx => ?_)
    | with_reducible refine foldlSnd_touches ?_ (fun x a hx => ?_)
    | with_reducible assumption

/-- The parts State.receivePacket touches. -/
def State.receivePacket_foot : List Part := State.discard_foot ++ State.acceptSeq_foot ++ State.endPacket_foot ++ State.placeTile_foot

theorem State.receivePacket_touches {W : List Part} {σ τ : State} {slot : Nat} {eth : Bool} {p : List Byte} (hW : ∀ p ∈ State.receivePacket_foot, p ∈ W)
    (hT : Touches W σ τ) : Touches W σ (State.receivePacket τ slot eth p) := by
  unfold State.receivePacket
  try dsimp only
  repeat' first
    | with_reducible apply Touches.ite
    | with_reducible refine State.discard_touches (fun p hp => hW p (by unfold State.receivePacket_foot; repeat first | with_reducible exact hp | with_reducible exact List.mem_append_right _ hp | with_reducible apply List.mem_append_left)) ?_
    | with_reducible refine State.acceptSeq_touches (fun p hp => hW p (by unfold State.receivePacket_foot; repeat first | with_reducible exact hp | with_reducible exact List.mem_append_right _ hp | with_reducible apply List.mem_append_left)) ?_
    | with_reducible refine State.endPacket_touches (fun p hp => hW p (by unfold State.receivePacket_foot; repeat first | with_reducible exact hp | with_reducible exact List.mem_append_right _ hp | with_reducible apply List.mem_append_left)) ?_
    | with_reducible refine State.placeTile_touches (fun p hp => hW p (by unfold State.receivePacket_foot; repeat first | with_reducible exact hp | with_reducible exact List.mem_append_right _ hp | with_reducible apply List.mem_append_left)) ?_
    | split
    | with_reducible refine forN_touches ?_ (fun x k hx => ?_)
    | with_reducible refine foldl_touches ?_ (fun x a hx => ?_)
    | with_reducible refine foldlSnd_touches ?_ (fun x a hx => ?_)
    | with_reducible assumption

/-- The parts State.streamDatagram touches. -/
def State.streamDatagram_foot : List Part := [.reg .ING_UNKNOWN] ++ State.receivePacket_foot

theorem State.streamDatagram_touches {W : List Part} {σ τ : State} {p : List Byte} (hW : ∀ p ∈ State.streamDatagram_foot, p ∈ W)
    (hT : Touches W σ τ) : Touches W σ (State.streamDatagram τ p) := by
  unfold State.streamDatagram
  try dsimp only
  repeat' first
    | with_reducible apply Touches.ite
    | with_reducible refine State.bump_touches (hW _ (by first | (simp [State.streamDatagram_foot]; done) | (split <;> simp [State.streamDatagram_foot] <;> done) | ((repeat' split) <;> simp [State.streamDatagram_foot])))  ?_
    | with_reducible refine State.receivePacket_touches (fun p hp => hW p (by unfold State.streamDatagram_foot; repeat first | with_reducible exact hp | with_reducible exact List.mem_append_right _ hp | with_reducible apply List.mem_append_left)) ?_
    | split
    | with_reducible refine forN_touches ?_ (fun x k hx => ?_)
    | with_reducible refine foldl_touches ?_ (fun x a hx => ?_)
    | with_reducible refine foldlSnd_touches ?_ (fun x a hx => ?_)
    | with_reducible assumption

/-- The parts execStreamTilesPacket touches. -/
def execStreamTilesPacket_foot : List Part := State.see_foot ++ State.streamDatagram_foot

theorem execStreamTilesPacket_touches {W : List Part} {σ τ : State} {p : List Byte} {seen : Seen} (hW : ∀ p ∈ execStreamTilesPacket_foot, p ∈ W)
    (hT : Touches W σ τ) : OutTouches W σ (execStreamTilesPacket p seen τ) := by
  unfold execStreamTilesPacket
  try dsimp only
  repeat' first
    | with_reducible apply OutTouches.ite
    | with_reducible refine OutTouches.next ?_
    | with_reducible apply Touches.ite
    | with_reducible refine State.see_touches (fun p hp => hW p (by unfold execStreamTilesPacket_foot; repeat first | with_reducible exact hp | with_reducible exact List.mem_append_right _ hp | with_reducible apply List.mem_append_left)) ?_
    | with_reducible refine State.streamDatagram_touches (fun p hp => hW p (by unfold execStreamTilesPacket_foot; repeat first | with_reducible exact hp | with_reducible exact List.mem_append_right _ hp | with_reducible apply List.mem_append_left)) ?_
    | split
    | with_reducible refine forN_touches ?_ (fun x k hx => ?_)
    | with_reducible refine foldl_touches ?_ (fun x a hx => ?_)
    | with_reducible refine foldlSnd_touches ?_ (fun x a hx => ?_)
    | with_reducible assumption

/-- The parts execStreamEndPacket touches. -/
def execStreamEndPacket_foot : List Part := State.see_foot ++ State.streamDatagram_foot

theorem execStreamEndPacket_touches {W : List Part} {σ τ : State} {p : List Byte} {seen : Seen} (hW : ∀ p ∈ execStreamEndPacket_foot, p ∈ W)
    (hT : Touches W σ τ) : OutTouches W σ (execStreamEndPacket p seen τ) := by
  unfold execStreamEndPacket
  try dsimp only
  repeat' first
    | with_reducible apply OutTouches.ite
    | with_reducible refine OutTouches.next ?_
    | with_reducible apply Touches.ite
    | with_reducible refine State.see_touches (fun p hp => hW p (by unfold execStreamEndPacket_foot; repeat first | with_reducible exact hp | with_reducible exact List.mem_append_right _ hp | with_reducible apply List.mem_append_left)) ?_
    | with_reducible refine State.streamDatagram_touches (fun p hp => hW p (by unfold execStreamEndPacket_foot; repeat first | with_reducible exact hp | with_reducible exact List.mem_append_right _ hp | with_reducible apply List.mem_append_left)) ?_
    | split
    | with_reducible refine forN_touches ?_ (fun x k hx => ?_)
    | with_reducible refine foldl_touches ?_ (fun x a hx => ?_)
    | with_reducible refine foldlSnd_touches ?_ (fun x a hx => ?_)
    | with_reducible assumption

/-- The parts State.ringTail touches. -/
def State.ringTail_foot : List Part := [.reg .iSTR_WAIT, .reg .STR_RING_TAIL]

theorem State.ringTail_touches {W : List Part} {σ τ : State} {n : Nat} {v : Nat} (hW : ∀ p ∈ State.ringTail_foot, p ∈ W)
    (hT : Touches W σ τ) : Touches W σ (State.ringTail τ n v) := by
  unfold State.ringTail
  try dsimp only
  repeat' first
    | with_reducible apply Touches.ite
    | with_reducible refine State.setReg_touches (hW _ (by first | (simp [State.ringTail_foot]; done) | (split <;> simp [State.ringTail_foot] <;> done) | ((repeat' split) <;> simp [State.ringTail_foot])))  ?_
    | split
    | with_reducible refine forN_touches ?_ (fun x k hx => ?_)
    | with_reducible refine foldl_touches ?_ (fun x a hx => ?_)
    | with_reducible refine foldlSnd_touches ?_ (fun x a hx => ?_)
    | with_reducible assumption

/-- The parts execStrRingTailWrite touches. -/
def execStrRingTailWrite_foot : List Part := writeParam_foot ++ State.ringTail_foot

theorem execStrRingTailWrite_touches {W : List Part} {σ τ : State} {acc : Option Accessor} {n : Fin 256} {tail : BitVec 16} (hW : ∀ p ∈ execStrRingTailWrite_foot, p ∈ W)
    (hT : Touches W σ τ) : OutTouches W σ (execStrRingTailWrite acc n tail τ) := by
  unfold execStrRingTailWrite
  try dsimp only
  repeat' first
    | with_reducible apply OutTouches.ite
    | with_reducible refine OutTouches.next ?_
    | with_reducible apply Touches.ite
    | with_reducible refine writeParam_touches  (fun p hp => hW p (by unfold execStrRingTailWrite_foot; repeat first | with_reducible exact hp | with_reducible exact List.mem_append_right _ hp | with_reducible apply List.mem_append_left)) ?_ (fun x  hx => ?_)
    | with_reducible refine State.ringTail_touches (fun p hp => hW p (by unfold execStrRingTailWrite_foot; repeat first | with_reducible exact hp | with_reducible exact List.mem_append_right _ hp | with_reducible apply List.mem_append_left)) ?_
    | split
    | with_reducible refine forN_touches ?_ (fun x k hx => ?_)
    | with_reducible refine foldl_touches ?_ (fun x a hx => ?_)
    | with_reducible refine foldlSnd_touches ?_ (fun x a hx => ?_)
    | with_reducible assumption

/-- The parts State.ringPacket touches. -/
def State.ringPacket_foot : List Part := [.reg .STR_RING_HEAD, .fld .sent] ++ State.discard_foot ++ State.receivePacket_foot

theorem State.ringPacket_touches {W : List Part} {σ τ : State} {k : Nat} {desc : Nat} {p : List Byte} (hW : ∀ p ∈ State.ringPacket_foot, p ∈ W)
    (hT : Touches W σ τ) : Touches W σ (State.ringPacket τ k desc p) := by
  unfold State.ringPacket
  try dsimp only
  repeat' first
    | with_reducible apply Touches.ite
    | with_reducible refine State.send_touches (hW _ (by simp [State.ringPacket_foot])) ?_
    | with_reducible refine State.setReg_touches (hW _ (by first | (simp [State.ringPacket_foot]; done) | (split <;> simp [State.ringPacket_foot] <;> done) | ((repeat' split) <;> simp [State.ringPacket_foot])))  ?_
    | with_reducible refine State.discard_touches (fun p hp => hW p (by unfold State.ringPacket_foot; repeat first | with_reducible exact hp | with_reducible exact List.mem_append_right _ hp | with_reducible apply List.mem_append_left)) ?_
    | with_reducible refine State.receivePacket_touches (fun p hp => hW p (by unfold State.ringPacket_foot; repeat first | with_reducible exact hp | with_reducible exact List.mem_append_right _ hp | with_reducible apply List.mem_append_left)) ?_
    | with_reducible refine State.sendMore_touches (hW _ (by simp [State.ringPacket_foot])) ?_
    | split
    | with_reducible refine forN_touches ?_ (fun x k hx => ?_)
    | with_reducible refine foldl_touches ?_ (fun x a hx => ?_)
    | with_reducible refine foldlSnd_touches ?_ (fun x a hx => ?_)
    | with_reducible assumption

/-- The parts execStreamPacketFetch touches. -/
def execStreamPacketFetch_foot : List Part := State.see_foot ++ State.ringPacket_foot

theorem execStreamPacketFetch_touches {W : List Part} {σ τ : State} {n : Fin 256} {desc : BitVec 128} {p : List Byte} {seen : Seen} (hW : ∀ p ∈ execStreamPacketFetch_foot, p ∈ W)
    (hT : Touches W σ τ) : OutTouches W σ (execStreamPacketFetch n desc p seen τ) := by
  unfold execStreamPacketFetch
  try dsimp only
  repeat' first
    | with_reducible apply OutTouches.ite
    | with_reducible refine OutTouches.next ?_
    | with_reducible apply Touches.ite
    | with_reducible refine State.see_touches (fun p hp => hW p (by unfold execStreamPacketFetch_foot; repeat first | with_reducible exact hp | with_reducible exact List.mem_append_right _ hp | with_reducible apply List.mem_append_left)) ?_
    | with_reducible refine State.ringPacket_touches (fun p hp => hW p (by unfold execStreamPacketFetch_foot; repeat first | with_reducible exact hp | with_reducible exact List.mem_append_right _ hp | with_reducible apply List.mem_append_left)) ?_
    | split
    | with_reducible refine forN_touches ?_ (fun x k hx => ?_)
    | with_reducible refine foldl_touches ?_ (fun x a hx => ?_)
    | with_reducible refine foldlSnd_touches ?_ (fun x a hx => ?_)
    | with_reducible assumption

/-- The parts execIngestTileDecoded touches. -/
def execIngestTileDecoded_foot : List Part := [.fld .ingest] ++ State.see_foot ++ State.decodeIngest_foot

theorem execIngestTileDecoded_touches {W : List Part} {σ τ : State} {slot : Fin 256} {seen : Seen} (hW : ∀ p ∈ execIngestTileDecoded_foot, p ∈ W)
    (hT : Touches W σ τ) : OutTouches W σ (execIngestTileDecoded slot seen τ) := by
  unfold execIngestTileDecoded
  try dsimp only
  repeat' first
    | with_reducible apply OutTouches.ite
    | with_reducible refine OutTouches.next ?_
    | with_reducible apply Touches.ite
    | with_reducible refine State.see_touches (fun p hp => hW p (by unfold execIngestTileDecoded_foot; repeat first | with_reducible exact hp | with_reducible exact List.mem_append_right _ hp | with_reducible apply List.mem_append_left)) ?_
    | with_reducible refine State.decodeIngest_touches (fun p hp => hW p (by unfold execIngestTileDecoded_foot; repeat first | with_reducible exact hp | with_reducible exact List.mem_append_right _ hp | with_reducible apply List.mem_append_left)) ?_
    | split
    | with_reducible refine forN_touches ?_ (fun x k hx => ?_)
    | with_reducible refine foldl_touches ?_ (fun x a hx => ?_)
    | with_reducible refine foldlSnd_touches ?_ (fun x a hx => ?_)
    | with_reducible assumption
    | with_reducible refine touches_mk (fun f => by cases f <;> first | exact .inr (by with_reducible rfl) | exact .inl (hW _ (by simp [execIngestTileDecoded_foot]))) ?_

end Sys2Proof.Machine
end

