-- ==== Sys2Proof/Laws/TouchesCal.lean ====
section
/-! SUPPORT. What the functions of Machine/Cal.lean touch. -/
namespace Sys2Proof.Machine
set_option linter.all false

/-- The parts execCalLoadValidate touches. -/
def execCalLoadValidate_foot : List Part := [.reg .iCAL_H, .reg .iCAL_W, .reg .CAL_STATE, .fld .status] ++ writeParam_foot

theorem execCalLoadValidate_touches {W : List Part} {σ τ : State} {acc : Accessor} {i : Fin 64} (hW : ∀ p ∈ execCalLoadValidate_foot, p ∈ W)
    (hT : Touches W σ τ) : OutTouches W σ (execCalLoadValidate acc i τ) := by
  unfold execCalLoadValidate
  try dsimp only
  repeat' first
    | with_reducible apply OutTouches.ite
    | with_reducible refine OutTouches.next ?_
    | with_reducible apply Touches.ite
    | with_reducible refine writeParam_touches  (fun p hp => hW p (by unfold execCalLoadValidate_foot; repeat first | with_reducible exact hp | with_reducible exact List.mem_append_right _ hp | with_reducible apply List.mem_append_left)) ?_ (fun x  hx => ?_)
    | with_reducible refine State.refuse_touches (hW _ (by simp [execCalLoadValidate_foot])) ?_
    | with_reducible refine State.setReg_touches (hW _ (by first | (simp [execCalLoadValidate_foot]; done) | (split <;> simp [execCalLoadValidate_foot] <;> done) | ((repeat' split) <;> simp [execCalLoadValidate_foot])))  ?_
    | split
    | with_reducible refine forN_touches ?_ (fun x k hx => ?_)
    | with_reducible refine foldl_touches ?_ (fun x a hx => ?_)
    | with_reducible refine foldlSnd_touches ?_ (fun x a hx => ?_)
    | with_reducible assumption

/-- The parts execCalLoadEmpty touches. -/
def execCalLoadEmpty_foot : List Part := [.reg .CAL_STATE, .fld .status] ++ writeParam_foot

theorem execCalLoadEmpty_touches {W : List Part} {σ τ : State} {acc : Accessor} {i : Fin 64} (hW : ∀ p ∈ execCalLoadEmpty_foot, p ∈ W)
    (hT : Touches W σ τ) : OutTouches W σ (execCalLoadEmpty acc i τ) := by
  unfold execCalLoadEmpty
  try dsimp only
  repeat' first
    | with_reducible apply OutTouches.ite
    | with_reducible refine OutTouches.next ?_
    | with_reducible apply Touches.ite
    | with_reducible refine writeParam_touches  (fun p hp => hW p (by unfold execCalLoadEmpty_foot; repeat first | with_reducible exact hp | with_reducible exact List.mem_append_right _ hp | with_reducible apply List.mem_append_left)) ?_ (fun x  hx => ?_)
    | with_reducible refine State.refuse_touches (hW _ (by simp [execCalLoadEmpty_foot])) ?_
    | with_reducible refine State.setReg_touches (hW _ (by first | (simp [execCalLoadEmpty_foot]; done) | (split <;> simp [execCalLoadEmpty_foot] <;> done) | ((repeat' split) <;> simp [execCalLoadEmpty_foot])))  ?_
    | split
    | with_reducible refine forN_touches ?_ (fun x k hx => ?_)
    | with_reducible refine foldl_touches ?_ (fun x a hx => ?_)
    | with_reducible refine foldlSnd_touches ?_ (fun x a hx => ?_)
    | with_reducible assumption

/-- The parts State.calValid touches. -/
def State.calValid_foot : List Part := [.reg .CAL_RESIDUAL, .reg .CAL_SOURCE, .reg .CAL_HEIGHT, .reg .CAL_WIDTH, .reg .CAL_STATE] ++ State.computeReach_foot

theorem State.calValid_touches {W : List Part} {σ τ : State} {i : Nat} {w : Nat} {h : Nat} {source : Nat} (hW : ∀ p ∈ State.calValid_foot, p ∈ W)
    (hT : Touches W σ τ) : Touches W σ (State.calValid τ i w h source) := by
  unfold State.calValid
  try dsimp only
  repeat' first
    | with_reducible apply Touches.ite
    | with_reducible refine State.setReg_touches (hW _ (by first | (simp [State.calValid_foot]; done) | (split <;> simp [State.calValid_foot] <;> done) | ((repeat' split) <;> simp [State.calValid_foot])))  ?_
    | with_reducible refine State.computeReach_touches (fun p hp => hW p (by unfold State.calValid_foot; repeat first | with_reducible exact hp | with_reducible exact List.mem_append_right _ hp | with_reducible apply List.mem_append_left)) ?_
    | split
    | with_reducible refine forN_touches ?_ (fun x k hx => ?_)
    | with_reducible refine foldl_touches ?_ (fun x a hx => ?_)
    | with_reducible refine foldlSnd_touches ?_ (fun x a hx => ?_)
    | with_reducible assumption

/-- The parts execCalValidationDone touches. -/
def execCalValidationDone_foot : List Part := [.reg .CAL_STATE] ++ State.fetch_foot ++ State.see_foot ++ State.calValid_foot

theorem execCalValidationDone_touches {W : List Part} {σ τ : State} {i : Fin 64} {seen : Seen} (hW : ∀ p ∈ execCalValidationDone_foot, p ∈ W)
    (hT : Touches W σ τ) : OutTouches W σ (execCalValidationDone i seen τ) := by
  unfold execCalValidationDone
  try dsimp only
  repeat' first
    | with_reducible apply OutTouches.ite
    | with_reducible refine OutTouches.next ?_
    | with_reducible apply Touches.ite
    | with_reducible refine Touches.ofPair (by assumption) (State.fetch_touches (fun p hp => hW p (by unfold execCalValidationDone_foot; repeat first | with_reducible exact hp | with_reducible exact List.mem_append_right _ hp | with_reducible apply List.mem_append_left)) ?_)
    | with_reducible refine State.fetch_touches (fun p hp => hW p (by unfold execCalValidationDone_foot; repeat first | with_reducible exact hp | with_reducible exact List.mem_append_right _ hp | with_reducible apply List.mem_append_left)) ?_
    | with_reducible refine State.see_touches (fun p hp => hW p (by unfold execCalValidationDone_foot; repeat first | with_reducible exact hp | with_reducible exact List.mem_append_right _ hp | with_reducible apply List.mem_append_left)) ?_
    | with_reducible refine State.calValid_touches (fun p hp => hW p (by unfold execCalValidationDone_foot; repeat first | with_reducible exact hp | with_reducible exact List.mem_append_right _ hp | with_reducible apply List.mem_append_left)) ?_
    | with_reducible refine State.setReg_touches (hW _ (by first | (simp [execCalValidationDone_foot]; done) | (split <;> simp [execCalValidationDone_foot] <;> done) | ((repeat' split) <;> simp [execCalValidationDone_foot])))  ?_
    | split
    | with_reducible refine forN_touches ?_ (fun x k hx => ?_)
    | with_reducible refine foldl_touches ?_ (fun x a hx => ?_)
    | with_reducible refine foldlSnd_touches ?_ (fun x a hx => ?_)
    | with_reducible assumption

/-- The parts execCalSlotWrite touches. -/
def execCalSlotWrite_foot : List Part := [.reg .CAL_STATE, .reg .CAL_T0, .reg .CAL_T1, .reg .CAL_T2, .reg .CAL_BASE, .reg .CAL_CRC, .fld .status] ++ writeParam_foot

theorem execCalSlotWrite_touches {W : List Part} {σ τ : State} {acc : Accessor} {i : Fin 64} {p : CalParam} {v : Nat} (hW : ∀ p ∈ execCalSlotWrite_foot, p ∈ W)
    (hT : Touches W σ τ) : OutTouches W σ (execCalSlotWrite acc i p v τ) := by
  unfold execCalSlotWrite
  try dsimp only
  repeat' first
    | with_reducible apply OutTouches.ite
    | with_reducible refine OutTouches.next ?_
    | with_reducible apply Touches.ite
    | with_reducible refine writeParam_touches  (fun p hp => hW p (by unfold execCalSlotWrite_foot; repeat first | with_reducible exact hp | with_reducible exact List.mem_append_right _ hp | with_reducible apply List.mem_append_left)) ?_ (fun x  hx => ?_)
    | with_reducible refine State.refuse_touches (hW _ (by simp [execCalSlotWrite_foot])) ?_
    | with_reducible refine cond_touches ?_ (fun x hx => ?_)
    | with_reducible refine State.setReg_touches (hW _ (by first | (simp [execCalSlotWrite_foot]; done) | (split <;> simp [execCalSlotWrite_foot] <;> done) | (simp only [calReg]; (repeat' split) <;> simp [execCalSlotWrite_foot]) | ((repeat' split) <;> simp [execCalSlotWrite_foot])))  ?_
    | split
    | with_reducible refine forN_touches ?_ (fun x k hx => ?_)
    | with_reducible refine foldl_touches ?_ (fun x a hx => ?_)
    | with_reducible refine foldlSnd_touches ?_ (fun x a hx => ?_)
    | with_reducible assumption

/-- The parts execLutWrite touches. -/
def execLutWrite_foot : List Part := [.reg .IN_LUT_DATA, .reg .OUT_LUT_DATA, .fld .lutShadow, .fld .status] ++ writeParam_foot

theorem execLutWrite_touches {W : List Part} {σ τ : State} {acc : Accessor} {l : Fin 12} {v : Nat} (hW : ∀ p ∈ execLutWrite_foot, p ∈ W)
    (hT : Touches W σ τ) : OutTouches W σ (execLutWrite acc l v τ) := by
  unfold execLutWrite
  try dsimp only
  repeat' first
    | with_reducible apply OutTouches.ite
    | with_reducible refine OutTouches.next ?_
    | with_reducible apply Touches.ite
    | with_reducible refine writeParam_touches  (fun p hp => hW p (by unfold execLutWrite_foot; repeat first | with_reducible exact hp | with_reducible exact List.mem_append_right _ hp | with_reducible apply List.mem_append_left)) ?_ (fun x  hx => ?_)
    | with_reducible refine State.refuse_touches (hW _ (by simp [execLutWrite_foot])) ?_
    | split
    | with_reducible refine forN_touches ?_ (fun x k hx => ?_)
    | with_reducible refine foldl_touches ?_ (fun x a hx => ?_)
    | with_reducible refine foldlSnd_touches ?_ (fun x a hx => ?_)
    | with_reducible assumption
    | with_reducible refine touches_mk (fun f => by cases f <;> first | exact .inr (by with_reducible rfl) | exact .inl (hW _ (by simp [execLutWrite_foot]))) ?_

/-- The parts State.takeLuts touches. -/
def State.takeLuts_foot : List Part := [.reg .IN_LUT_DATA, .reg .OUT_LUT_DATA, .fld .lutShadow, .fld .keepPending] ++ State.takeLut_foot

theorem State.takeLuts_touches {W : List Part} {σ τ : State} {surf : Nat} (hW : ∀ p ∈ State.takeLuts_foot, p ∈ W)
    (hT : Touches W σ τ) : Touches W σ (State.takeLuts τ surf) := by
  unfold State.takeLuts
  try dsimp only
  repeat' first
    | with_reducible apply Touches.ite
    | with_reducible refine State.takeLut_touches (fun p hp => hW p (by unfold State.takeLuts_foot; repeat first | with_reducible exact hp | with_reducible exact List.mem_append_right _ hp | with_reducible apply List.mem_append_left)) ?_
    | with_reducible refine State.noteKeep_touches (hW _ (by simp [State.takeLuts_foot])) ?_
    | split
    | with_reducible refine forN_touches ?_ (fun x k hx => ?_)
    | with_reducible refine foldl_touches ?_ (fun x a hx => ?_)
    | with_reducible refine foldlSnd_touches ?_ (fun x a hx => ?_)
    | with_reducible assumption
    | with_reducible refine touches_mk (fun f => by cases f <;> first | exact .inr (by with_reducible rfl) | exact .inl (hW _ (by simp [State.takeLuts_foot]))) ?_

end Sys2Proof.Machine
end

