-- ==== Sys2Proof/Laws/TouchesCentralStore.lean ====
section
/-! SUPPORT. What the functions of Machine/CentralStore.lean touch. -/
namespace Sys2Proof.Machine
set_option linter.all false

/-- The parts State.writeBack touches. -/
def State.writeBack_foot : List Part := [.reg .MS_WB_DROPPED, .fld .writeBacks] ++ State.activate_foot ++ State.move_foot ++ State.serve_foot ++ State.markPoison_foot

theorem State.writeBack_touches {W : List Part} {σ τ : State}  (hW : ∀ p ∈ State.writeBack_foot, p ∈ W)
    (hT : Touches W σ τ) : Touches W σ (State.writeBack τ) := by
  unfold State.writeBack
  try dsimp only
  repeat' first
    | with_reducible apply Touches.ite
    | with_reducible refine State.bump_touches (hW _ (by first | (simp [State.writeBack_foot]; done) | (split <;> simp [State.writeBack_foot] <;> done) | ((repeat' split) <;> simp [State.writeBack_foot])))  ?_
    | with_reducible refine State.activate_touches (fun p hp => hW p (by unfold State.writeBack_foot; repeat first | with_reducible exact hp | with_reducible exact List.mem_append_right _ hp | with_reducible apply List.mem_append_left)) ?_
    | with_reducible refine State.move_touches (fun p hp => hW p (by unfold State.writeBack_foot; repeat first | with_reducible exact hp | with_reducible exact List.mem_append_right _ hp | with_reducible apply List.mem_append_left)) ?_
    | with_reducible refine State.serve_touches (fun p hp => hW p (by unfold State.writeBack_foot; repeat first | with_reducible exact hp | with_reducible exact List.mem_append_right _ hp | with_reducible apply List.mem_append_left)) ?_
    | with_reducible refine State.markPoison_touches (fun p hp => hW p (by unfold State.writeBack_foot; repeat first | with_reducible exact hp | with_reducible exact List.mem_append_right _ hp | with_reducible apply List.mem_append_left)) ?_
    | split
    | with_reducible refine forN_touches ?_ (fun x k hx => ?_)
    | with_reducible refine foldl_touches ?_ (fun x a hx => ?_)
    | with_reducible refine foldlSnd_touches ?_ (fun x a hx => ?_)
    | with_reducible assumption
    | with_reducible refine touches_mk (fun f => by cases f <;> first | exact .inr (by with_reducible rfl) | exact .inl (hW _ (by simp [State.writeBack_foot]))) ?_

/-- The parts execCorrectedWriteBack touches. -/
def execCorrectedWriteBack_foot : List Part := State.see_foot ++ State.writeBack_foot

theorem execCorrectedWriteBack_touches {W : List Part} {σ τ : State} {seen : Seen} (hW : ∀ p ∈ execCorrectedWriteBack_foot, p ∈ W)
    (hT : Touches W σ τ) : OutTouches W σ (execCorrectedWriteBack seen τ) := by
  unfold execCorrectedWriteBack
  try dsimp only
  repeat' first
    | with_reducible apply OutTouches.ite
    | with_reducible refine OutTouches.next ?_
    | with_reducible apply Touches.ite
    | with_reducible refine State.see_touches (fun p hp => hW p (by unfold execCorrectedWriteBack_foot; repeat first | with_reducible exact hp | with_reducible exact List.mem_append_right _ hp | with_reducible apply List.mem_append_left)) ?_
    | with_reducible refine State.writeBack_touches (fun p hp => hW p (by unfold execCorrectedWriteBack_foot; repeat first | with_reducible exact hp | with_reducible exact List.mem_append_right _ hp | with_reducible apply List.mem_append_left)) ?_
    | split
    | with_reducible refine forN_touches ?_ (fun x k hx => ?_)
    | with_reducible refine foldl_touches ?_ (fun x a hx => ?_)
    | with_reducible refine foldlSnd_touches ?_ (fun x a hx => ?_)
    | with_reducible assumption

/-- The parts State.sweep touches. -/
def State.sweep_foot : List Part := [.reg .iSWEEP, .reg .MS_INIT_STATE, .fld .rowsAhead] ++ State.closeRows_foot ++ State.serveAll_foot ++ State.activateRows_foot ++ State.move_foot

theorem State.sweep_touches {W : List Part} {σ τ : State}  (hW : ∀ p ∈ State.sweep_foot, p ∈ W)
    (hT : Touches W σ τ) : Touches W σ (State.sweep τ) := by
  unfold State.sweep
  try dsimp only
  repeat' first
    | with_reducible apply Touches.ite
    | with_reducible refine State.closeRows_touches (fun p hp => hW p (by unfold State.sweep_foot; repeat first | with_reducible exact hp | with_reducible exact List.mem_append_right _ hp | with_reducible apply List.mem_append_left)) ?_
    | with_reducible refine State.serveAll_touches (fun p hp => hW p (by unfold State.sweep_foot; repeat first | with_reducible exact hp | with_reducible exact List.mem_append_right _ hp | with_reducible apply List.mem_append_left)) ?_
    | with_reducible refine State.activateRows_touches (fun p hp => hW p (by unfold State.sweep_foot; repeat first | with_reducible exact hp | with_reducible exact List.mem_append_right _ hp | with_reducible apply List.mem_append_left)) ?_
    | with_reducible refine State.move_touches (fun p hp => hW p (by unfold State.sweep_foot; repeat first | with_reducible exact hp | with_reducible exact List.mem_append_right _ hp | with_reducible apply List.mem_append_left)) ?_
    | with_reducible refine State.setReg_touches (hW _ (by first | (simp [State.sweep_foot]; done) | (split <;> simp [State.sweep_foot] <;> done) | ((repeat' split) <;> simp [State.sweep_foot])))  ?_
    | split
    | with_reducible refine forN_touches ?_ (fun x k hx => ?_)
    | with_reducible refine foldl_touches ?_ (fun x a hx => ?_)
    | with_reducible refine foldlSnd_touches ?_ (fun x a hx => ?_)
    | with_reducible assumption
    | with_reducible refine touches_mk (fun f => by cases f <;> first | exact .inr (by with_reducible rfl) | exact .inl (hW _ (by simp [State.sweep_foot]))) ?_

/-- The parts execSweepBurst touches. -/
def execSweepBurst_foot : List Part := [.fld .grants, .fld .highReqs, .fld .normalReqs] ++ State.see_foot ++ State.sweep_foot

theorem execSweepBurst_touches {W : List Part} {σ τ : State} {seen : Seen} (hW : ∀ p ∈ execSweepBurst_foot, p ∈ W)
    (hT : Touches W σ τ) : OutTouches W σ (execSweepBurst seen τ) := by
  unfold execSweepBurst
  try dsimp only
  repeat' first
    | with_reducible apply OutTouches.ite
    | with_reducible refine OutTouches.next ?_
    | with_reducible apply Touches.ite
    | with_reducible refine State.see_touches (fun p hp => hW p (by unfold execSweepBurst_foot; repeat first | with_reducible exact hp | with_reducible exact List.mem_append_right _ hp | with_reducible apply List.mem_append_left)) ?_
    | with_reducible refine State.release_touches (hW _ (by simp [execSweepBurst_foot])) (hW _ (by simp [execSweepBurst_foot])) (hW _ (by simp [execSweepBurst_foot])) ?_
    | with_reducible refine State.sweep_touches (fun p hp => hW p (by unfold execSweepBurst_foot; repeat first | with_reducible exact hp | with_reducible exact List.mem_append_right _ hp | with_reducible apply List.mem_append_left)) ?_
    | with_reducible refine State.request_touches (hW _ (by simp [execSweepBurst_foot])) (hW _ (by simp [execSweepBurst_foot])) ?_
    | split
    | with_reducible refine forN_touches ?_ (fun x k hx => ?_)
    | with_reducible refine foldl_touches ?_ (fun x a hx => ?_)
    | with_reducible refine foldlSnd_touches ?_ (fun x a hx => ?_)
    | with_reducible assumption

/-- The parts execRefresh touches. -/
def execRefresh_foot : List Part := [.reg .iREF_COUNT, .reg .iREF_BANK, .fld .banks]

theorem execRefresh_touches {W : List Part} {σ τ : State} {pc : Fin 64} (hW : ∀ p ∈ execRefresh_foot, p ∈ W)
    (hT : Touches W σ τ) : OutTouches W σ (execRefresh pc τ) := by
  unfold execRefresh
  try dsimp only
  repeat' first
    | with_reducible apply OutTouches.ite
    | with_reducible refine OutTouches.next ?_
    | with_reducible apply Touches.ite
    | with_reducible refine State.bump_touches (hW _ (by first | (simp [execRefresh_foot]; done) | (split <;> simp [execRefresh_foot] <;> done) | ((repeat' split) <;> simp [execRefresh_foot])))  ?_
    | with_reducible refine State.setReg_touches (hW _ (by first | (simp [execRefresh_foot]; done) | (split <;> simp [execRefresh_foot] <;> done) | ((repeat' split) <;> simp [execRefresh_foot])))  ?_
    | split
    | with_reducible refine forN_touches ?_ (fun x k hx => ?_)
    | with_reducible refine foldl_touches ?_ (fun x a hx => ?_)
    | with_reducible refine foldlSnd_touches ?_ (fun x a hx => ?_)
    | with_reducible assumption
    | with_reducible refine touches_mk (fun f => by cases f <;> first | exact .inr (by with_reducible rfl) | exact .inl (hW _ (by simp [execRefresh_foot]))) ?_

/-- The parts State.setRefresh touches. -/
def State.setRefresh_foot : List Part := [.reg .CH_REFRESH]

theorem State.setRefresh_touches {W : List Part} {σ τ : State} {stack : Nat} {v : Nat} (hW : ∀ p ∈ State.setRefresh_foot, p ∈ W)
    (hT : Touches W σ τ) : Touches W σ (State.setRefresh τ stack v) := by
  unfold State.setRefresh
  try dsimp only
  repeat' first
    | with_reducible apply Touches.ite
    | with_reducible refine State.setReg_touches (hW _ (by first | (simp [State.setRefresh_foot]; done) | (split <;> simp [State.setRefresh_foot] <;> done) | ((repeat' split) <;> simp [State.setRefresh_foot])))  ?_
    | split
    | with_reducible refine forN_touches ?_ (fun x k hx => ?_)
    | with_reducible refine foldl_touches ?_ (fun x a hx => ?_)
    | with_reducible refine foldlSnd_touches ?_ (fun x a hx => ?_)
    | with_reducible assumption

/-- The parts execStackTempRead touches. -/
def execStackTempRead_foot : List Part := [.reg .CH_TEMP, .reg .iHOT_SINCE, .reg .MS_HOT] ++ State.setRefresh_foot ++ State.raise_foot

theorem execStackTempRead_touches {W : List Part} {σ τ : State} {stack : Fin 2} {temp : BitVec 16} (hW : ∀ p ∈ execStackTempRead_foot, p ∈ W)
    (hT : Touches W σ τ) : OutTouches W σ (execStackTempRead stack temp τ) := by
  unfold execStackTempRead
  try dsimp only
  repeat' first
    | with_reducible apply OutTouches.ite
    | with_reducible refine OutTouches.next ?_
    | with_reducible apply Touches.ite
    | with_reducible refine State.setReg_touches (hW _ (by first | (simp [execStackTempRead_foot]; done) | (split <;> simp [execStackTempRead_foot] <;> done) | ((repeat' split) <;> simp [execStackTempRead_foot])))  ?_
    | with_reducible refine State.setRefresh_touches (fun p hp => hW p (by unfold execStackTempRead_foot; repeat first | with_reducible exact hp | with_reducible exact List.mem_append_right _ hp | with_reducible apply List.mem_append_left)) ?_
    | with_reducible refine State.raise_touches (fun p hp => hW p (by unfold execStackTempRead_foot; repeat first | with_reducible exact hp | with_reducible exact List.mem_append_right _ hp | with_reducible apply List.mem_append_left)) ?_
    | split
    | with_reducible refine forN_touches ?_ (fun x k hx => ?_)
    | with_reducible refine foldl_touches ?_ (fun x a hx => ?_)
    | with_reducible refine foldlSnd_touches ?_ (fun x a hx => ?_)
    | with_reducible assumption

/-- The parts execNeighbourRefresh touches. -/
def execNeighbourRefresh_foot : List Part := State.refreshNeighbours_foot

theorem execNeighbourRefresh_touches {W : List Part} {σ τ : State} {pc : Fin 64} {bank : Fin 64} (hW : ∀ p ∈ execNeighbourRefresh_foot, p ∈ W)
    (hT : Touches W σ τ) : OutTouches W σ (execNeighbourRefresh pc bank τ) := by
  unfold execNeighbourRefresh
  try dsimp only
  repeat' first
    | with_reducible apply OutTouches.ite
    | with_reducible refine OutTouches.next ?_
    | with_reducible apply Touches.ite
    | with_reducible refine State.refreshNeighbours_touches (fun p hp => hW p (by unfold execNeighbourRefresh_foot; repeat first | with_reducible exact hp | with_reducible exact List.mem_append_right _ hp | with_reducible apply List.mem_append_left)) ?_
    | split
    | with_reducible refine forN_touches ?_ (fun x k hx => ?_)
    | with_reducible refine foldl_touches ?_ (fun x a hx => ?_)
    | with_reducible refine foldlSnd_touches ?_ (fun x a hx => ?_)
    | with_reducible assumption

/-- The parts State.startRetrain touches. -/
def State.startRetrain_foot : List Part := [.reg .iRT_WH, .reg .iRT_WW, .reg .iRT_RH, .reg .iRT_RW, .reg .iRT_SINCE, .reg .iRT_LEFT, .reg .iRT_SET0]

theorem State.startRetrain_touches {W : List Part} {σ τ : State} {c : Nat} (hW : ∀ p ∈ State.startRetrain_foot, p ∈ W)
    (hT : Touches W σ τ) : Touches W σ (State.startRetrain τ c) := by
  unfold State.startRetrain
  try dsimp only
  repeat' first
    | with_reducible apply Touches.ite
    | with_reducible refine State.setReg_touches (hW _ (by first | (simp [State.startRetrain_foot]; done) | (split <;> simp [State.startRetrain_foot] <;> done) | ((repeat' split) <;> simp [State.startRetrain_foot])))  ?_
    | split
    | with_reducible refine forN_touches ?_ (fun x k hx => ?_)
    | with_reducible refine foldl_touches ?_ (fun x a hx => ?_)
    | with_reducible refine foldlSnd_touches ?_ (fun x a hx => ?_)
    | with_reducible assumption

/-- The parts execRetrainDue touches. -/
def execRetrainDue_foot : List Part := [.reg .iRT_PERIOD] ++ State.startRetrain_foot

theorem execRetrainDue_touches {W : List Part} {σ τ : State} {c : Fin 32} (hW : ∀ p ∈ execRetrainDue_foot, p ∈ W)
    (hT : Touches W σ τ) : OutTouches W σ (execRetrainDue c τ) := by
  unfold execRetrainDue
  try dsimp only
  repeat' first
    | with_reducible apply OutTouches.ite
    | with_reducible refine OutTouches.next ?_
    | with_reducible apply Touches.ite
    | with_reducible refine State.setReg_touches (hW _ (by first | (simp [execRetrainDue_foot]; done) | (split <;> simp [execRetrainDue_foot] <;> done) | ((repeat' split) <;> simp [execRetrainDue_foot])))  ?_
    | with_reducible refine State.startRetrain_touches (fun p hp => hW p (by unfold execRetrainDue_foot; repeat first | with_reducible exact hp | with_reducible exact List.mem_append_right _ hp | with_reducible apply List.mem_append_left)) ?_
    | split
    | with_reducible refine forN_touches ?_ (fun x k hx => ?_)
    | with_reducible refine foldl_touches ?_ (fun x a hx => ?_)
    | with_reducible refine foldlSnd_touches ?_ (fun x a hx => ?_)
    | with_reducible assumption

/-- The parts State.retrainDrained touches. -/
def State.retrainDrained_foot : List Part := [.reg .iRT_DRAIN] ++ State.raiseDisabled_foot

theorem State.retrainDrained_touches {W : List Part} {σ τ : State}  (hW : ∀ p ∈ State.retrainDrained_foot, p ∈ W)
    (hT : Touches W σ τ) : Touches W σ (State.retrainDrained τ) := by
  unfold State.retrainDrained
  try dsimp only
  repeat' first
    | with_reducible apply Touches.ite
    | with_reducible refine State.raiseDisabled_touches (fun p hp => hW p (by unfold State.retrainDrained_foot; repeat first | with_reducible exact hp | with_reducible exact List.mem_append_right _ hp | with_reducible apply List.mem_append_left)) ?_
    | with_reducible refine State.setReg_touches (hW _ (by first | (simp [State.retrainDrained_foot]; done) | (split <;> simp [State.retrainDrained_foot] <;> done) | ((repeat' split) <;> simp [State.retrainDrained_foot])))  ?_
    | split
    | with_reducible refine forN_touches ?_ (fun x k hx => ?_)
    | with_reducible refine foldl_touches ?_ (fun x a hx => ?_)
    | with_reducible refine foldlSnd_touches ?_ (fun x a hx => ?_)
    | with_reducible assumption

/-- The parts State.moveSetting touches. -/
def State.moveSetting_foot : List Part := [.reg .iRT_SET]

theorem State.moveSetting_touches {W : List Part} {σ τ : State} {k : Nat} {n : Nat} {v : Int} (hW : ∀ p ∈ State.moveSetting_foot, p ∈ W)
    (hT : Touches W σ τ) : Touches W σ (State.moveSetting τ k n v) := by
  unfold State.moveSetting
  try dsimp only
  repeat' first
    | with_reducible apply Touches.ite
    | with_reducible refine State.setRegInt_touches (hW _ (by first | (simp [State.moveSetting_foot]; done) | (split <;> simp [State.moveSetting_foot] <;> done) | ((repeat' split) <;> simp [State.moveSetting_foot])))  ?_
    | split
    | with_reducible refine forN_touches ?_ (fun x k hx => ?_)
    | with_reducible refine foldl_touches ?_ (fun x a hx => ?_)
    | with_reducible refine foldlSnd_touches ?_ (fun x a hx => ?_)
    | with_reducible assumption

/-- The parts State.noteEye touches. -/
def State.noteEye_foot : List Part := [.reg .iRT_NOEYE, .reg .iRT_RW, .reg .iRT_WW, .reg .iRT_RH, .reg .iRT_WH] ++ State.raise_foot ++ State.moveSetting_foot

theorem State.noteEye_touches {W : List Part} {σ τ : State} {c : Nat} {width : Nat} {height : Nat} {delay : Int} {vref : Int} {read : Bool} (hW : ∀ p ∈ State.noteEye_foot, p ∈ W)
    (hT : Touches W σ τ) : Touches W σ (State.noteEye τ c width height delay vref read) := by
  unfold State.noteEye
  try dsimp only
  repeat' first
    | with_reducible apply Touches.ite
    | with_reducible refine State.setReg_touches (hW _ (by first | (simp [State.noteEye_foot]; done) | (split <;> simp [State.noteEye_foot] <;> done) | ((repeat' split) <;> simp [State.noteEye_foot])))  ?_
    | with_reducible refine State.bump_touches (hW _ (by first | (simp [State.noteEye_foot]; done) | (split <;> simp [State.noteEye_foot] <;> done) | ((repeat' split) <;> simp [State.noteEye_foot])))  ?_
    | with_reducible refine State.raise_touches (fun p hp => hW p (by unfold State.noteEye_foot; repeat first | with_reducible exact hp | with_reducible exact List.mem_append_right _ hp | with_reducible apply List.mem_append_left)) ?_
    | with_reducible refine State.moveSetting_touches (fun p hp => hW p (by unfold State.noteEye_foot; repeat first | with_reducible exact hp | with_reducible exact List.mem_append_right _ hp | with_reducible apply List.mem_append_left)) ?_
    | split
    | with_reducible refine forN_touches ?_ (fun x k hx => ?_)
    | with_reducible refine foldl_touches ?_ (fun x a hx => ?_)
    | with_reducible refine foldlSnd_touches ?_ (fun x a hx => ?_)
    | with_reducible assumption

/-- The parts State.retrainDone touches. -/
def State.retrainDone_foot : List Part := [.reg .iHB_HELD, .reg .CH_RETRAINS, .reg .CH_WR_EYE_H, .reg .CH_WR_EYE_W, .reg .CH_RD_EYE_H, .reg .CH_RD_EYE_W]

theorem State.retrainDone_touches {W : List Part} {σ τ : State} {c : Nat} (hW : ∀ p ∈ State.retrainDone_foot, p ∈ W)
    (hT : Touches W σ τ) : Touches W σ (State.retrainDone τ c) := by
  unfold State.retrainDone
  try dsimp only
  repeat' first
    | with_reducible apply Touches.ite
    | with_reducible refine State.setReg_touches (hW _ (by first | (simp [State.retrainDone_foot]; done) | (split <;> simp [State.retrainDone_foot] <;> done) | ((repeat' split) <;> simp [State.retrainDone_foot])))  ?_
    | with_reducible refine State.bump_touches (hW _ (by first | (simp [State.retrainDone_foot]; done) | (split <;> simp [State.retrainDone_foot] <;> done) | ((repeat' split) <;> simp [State.retrainDone_foot])))  ?_
    | split
    | with_reducible refine forN_touches ?_ (fun x k hx => ?_)
    | with_reducible refine foldl_touches ?_ (fun x a hx => ?_)
    | with_reducible refine foldlSnd_touches ?_ (fun x a hx => ?_)
    | with_reducible assumption

/-- The parts State.eyeReads touches. -/
def State.eyeReads_foot : List Part := State.move_foot ++ State.serveAll_foot

theorem State.eyeReads_touches {W : List Part} {σ τ : State} {c : Nat} (hW : ∀ p ∈ State.eyeReads_foot, p ∈ W)
    (hT : Touches W σ τ) : Touches W σ (State.eyeReads τ c) := by
  unfold State.eyeReads
  try dsimp only
  repeat' first
    | with_reducible apply Touches.ite
    | with_reducible refine State.move_touches (fun p hp => hW p (by unfold State.eyeReads_foot; repeat first | with_reducible exact hp | with_reducible exact List.mem_append_right _ hp | with_reducible apply List.mem_append_left)) ?_
    | with_reducible refine State.serveAll_touches (fun p hp => hW p (by unfold State.eyeReads_foot; repeat first | with_reducible exact hp | with_reducible exact List.mem_append_right _ hp | with_reducible apply List.mem_append_left)) ?_
    | split
    | with_reducible refine forN_touches ?_ (fun x k hx => ?_)
    | with_reducible refine foldl_touches ?_ (fun x a hx => ?_)
    | with_reducible refine foldlSnd_touches ?_ (fun x a hx => ?_)
    | with_reducible assumption

/-- The parts State.retrainPause touches. -/
def State.retrainPause_foot : List Part := [.reg .iRT_SINCE, .reg .iRT_LAST, .reg .iRT_LEFT] ++ State.noteEye_foot ++ State.eyeReads_foot ++ State.retrainDrained_foot ++ State.retrainDone_foot

theorem State.retrainPause_touches {W : List Part} {σ τ : State} {c : Nat} {width : Nat} {height : Nat} {delay : Int} {vref : Int} (hW : ∀ p ∈ State.retrainPause_foot, p ∈ W)
    (hT : Touches W σ τ) : Touches W σ (State.retrainPause τ c width height delay vref) := by
  unfold State.retrainPause
  try dsimp only
  repeat' first
    | with_reducible apply Touches.ite
    | with_reducible refine State.noteEye_touches (fun p hp => hW p (by unfold State.retrainPause_foot; repeat first | with_reducible exact hp | with_reducible exact List.mem_append_right _ hp | with_reducible apply List.mem_append_left)) ?_
    | with_reducible refine cond_touches ?_ (fun x hx => ?_)
    | with_reducible refine State.eyeReads_touches (fun p hp => hW p (by unfold State.retrainPause_foot; repeat first | with_reducible exact hp | with_reducible exact List.mem_append_right _ hp | with_reducible apply List.mem_append_left)) ?_
    | with_reducible refine State.setReg_touches (hW _ (by first | (simp [State.retrainPause_foot]; done) | (split <;> simp [State.retrainPause_foot] <;> done) | ((repeat' split) <;> simp [State.retrainPause_foot])))  ?_
    | with_reducible refine State.retrainDrained_touches (fun p hp => hW p (by unfold State.retrainPause_foot; repeat first | with_reducible exact hp | with_reducible exact List.mem_append_right _ hp | with_reducible apply List.mem_append_left)) ?_
    | with_reducible refine State.retrainDone_touches (fun p hp => hW p (by unfold State.retrainPause_foot; repeat first | with_reducible exact hp | with_reducible exact List.mem_append_right _ hp | with_reducible apply List.mem_append_left)) ?_
    | split
    | with_reducible refine forN_touches ?_ (fun x k hx => ?_)
    | with_reducible refine foldl_touches ?_ (fun x a hx => ?_)
    | with_reducible refine foldlSnd_touches ?_ (fun x a hx => ?_)
    | with_reducible assumption

/-- The parts execRetrainPause touches. -/
def execRetrainPause_foot : List Part := [.reg .CH_DEFERRALS] ++ State.see_foot ++ State.retrainPause_foot

theorem execRetrainPause_touches {W : List Part} {σ τ : State} {c : Fin 32} {urgent : Bool} {width : Fin 65} {height : BitVec 16} {delay : BitVec 16} {vref : BitVec 16} {seen : Seen} (hW : ∀ p ∈ execRetrainPause_foot, p ∈ W)
    (hT : Touches W σ τ) : OutTouches W σ (execRetrainPause c urgent width height delay vref seen τ) := by
  unfold execRetrainPause
  try dsimp only
  repeat' first
    | with_reducible apply OutTouches.ite
    | with_reducible refine OutTouches.next ?_
    | with_reducible apply Touches.ite
    | with_reducible refine cond_touches ?_ (fun x hx => ?_)
    | with_reducible refine State.see_touches (fun p hp => hW p (by unfold execRetrainPause_foot; repeat first | with_reducible exact hp | with_reducible exact List.mem_append_right _ hp | with_reducible apply List.mem_append_left)) ?_
    | with_reducible refine State.bump_touches (hW _ (by first | (simp [execRetrainPause_foot]; done) | (split <;> simp [execRetrainPause_foot] <;> done) | ((repeat' split) <;> simp [execRetrainPause_foot])))  ?_
    | with_reducible refine State.retrainPause_touches (fun p hp => hW p (by unfold execRetrainPause_foot; repeat first | with_reducible exact hp | with_reducible exact List.mem_append_right _ hp | with_reducible apply List.mem_append_left)) ?_
    | split
    | with_reducible refine forN_touches ?_ (fun x k hx => ?_)
    | with_reducible refine foldl_touches ?_ (fun x a hx => ?_)
    | with_reducible refine foldlSnd_touches ?_ (fun x a hx => ?_)
    | with_reducible assumption

/-- The parts execChRetrainNow touches. -/
def execChRetrainNow_foot : List Part := writeParam_foot ++ State.startRetrain_foot

theorem execChRetrainNow_touches {W : List Part} {σ τ : State} {acc : Accessor} {c : Fin 32} (hW : ∀ p ∈ execChRetrainNow_foot, p ∈ W)
    (hT : Touches W σ τ) : OutTouches W σ (execChRetrainNow acc c τ) := by
  unfold execChRetrainNow
  try dsimp only
  repeat' first
    | with_reducible apply OutTouches.ite
    | with_reducible refine OutTouches.next ?_
    | with_reducible apply Touches.ite
    | with_reducible refine writeParam_touches  (fun p hp => hW p (by unfold execChRetrainNow_foot; repeat first | with_reducible exact hp | with_reducible exact List.mem_append_right _ hp | with_reducible apply List.mem_append_left)) ?_ (fun x  hx => ?_)
    | with_reducible refine State.startRetrain_touches (fun p hp => hW p (by unfold execChRetrainNow_foot; repeat first | with_reducible exact hp | with_reducible exact List.mem_append_right _ hp | with_reducible apply List.mem_append_left)) ?_
    | split
    | with_reducible refine forN_touches ?_ (fun x k hx => ?_)
    | with_reducible refine foldl_touches ?_ (fun x a hx => ?_)
    | with_reducible refine foldlSnd_touches ?_ (fun x a hx => ?_)
    | with_reducible assumption

/-- The parts State.abandonRetrain touches. -/
def State.abandonRetrain_foot : List Part := [.reg .iRT_DRAIN, .reg .iRT_LEFT] ++ State.raiseDisabled_foot

theorem State.abandonRetrain_touches {W : List Part} {σ τ : State}  (hW : ∀ p ∈ State.abandonRetrain_foot, p ∈ W)
    (hT : Touches W σ τ) : Touches W σ (State.abandonRetrain τ) := by
  unfold State.abandonRetrain
  try dsimp only
  repeat' first
    | with_reducible apply Touches.ite
    | with_reducible refine State.raiseDisabled_touches (fun p hp => hW p (by unfold State.abandonRetrain_foot; repeat first | with_reducible exact hp | with_reducible exact List.mem_append_right _ hp | with_reducible apply List.mem_append_left)) ?_
    | with_reducible refine State.setReg_touches (hW _ (by first | (simp [State.abandonRetrain_foot]; done) | (split <;> simp [State.abandonRetrain_foot] <;> done) | ((repeat' split) <;> simp [State.abandonRetrain_foot])))  ?_
    | split
    | with_reducible refine forN_touches ?_ (fun x k hx => ?_)
    | with_reducible refine foldl_touches ?_ (fun x a hx => ?_)
    | with_reducible refine foldlSnd_touches ?_ (fun x a hx => ?_)
    | with_reducible assumption

/-- The parts State.retrainDisable touches. -/
def State.retrainDisable_foot : List Part := [.reg .MS_RETRAIN_EN, .reg .iRT_DRAIN, .fld .keepPending] ++ State.abandonRetrain_foot ++ State.retrainDrained_foot

theorem State.retrainDisable_touches {W : List Part} {σ τ : State}  (hW : ∀ p ∈ State.retrainDisable_foot, p ∈ W)
    (hT : Touches W σ τ) : Touches W σ (State.retrainDisable τ) := by
  unfold State.retrainDisable
  try dsimp only
  repeat' first
    | with_reducible apply Touches.ite
    | with_reducible refine State.putReg_touches (hW _ (by first | (simp [State.retrainDisable_foot]; done) | (split <;> simp [State.retrainDisable_foot] <;> done) | ((repeat' split) <;> simp [State.retrainDisable_foot]))) (hW _ (by simp [State.retrainDisable_foot])) ?_
    | with_reducible refine State.abandonRetrain_touches (fun p hp => hW p (by unfold State.retrainDisable_foot; repeat first | with_reducible exact hp | with_reducible exact List.mem_append_right _ hp | with_reducible apply List.mem_append_left)) ?_
    | with_reducible refine State.retrainDrained_touches (fun p hp => hW p (by unfold State.retrainDisable_foot; repeat first | with_reducible exact hp | with_reducible exact List.mem_append_right _ hp | with_reducible apply List.mem_append_left)) ?_
    | with_reducible refine State.setReg_touches (hW _ (by first | (simp [State.retrainDisable_foot]; done) | (split <;> simp [State.retrainDisable_foot] <;> done) | ((repeat' split) <;> simp [State.retrainDisable_foot])))  ?_
    | split
    | with_reducible refine forN_touches ?_ (fun x k hx => ?_)
    | with_reducible refine foldl_touches ?_ (fun x a hx => ?_)
    | with_reducible refine foldlSnd_touches ?_ (fun x a hx => ?_)
    | with_reducible assumption

/-- The parts State.retrainEnable touches. -/
def State.retrainEnable_foot : List Part := [.reg .MS_RETRAIN_EN, .reg .iRT_PERIOD, .fld .status, .fld .keepPending]

theorem State.retrainEnable_touches {W : List Part} {σ τ : State}  (hW : ∀ p ∈ State.retrainEnable_foot, p ∈ W)
    (hT : Touches W σ τ) : Touches W σ (State.retrainEnable τ) := by
  unfold State.retrainEnable
  try dsimp only
  repeat' first
    | with_reducible apply Touches.ite
    | with_reducible refine State.refuse_touches (hW _ (by simp [State.retrainEnable_foot])) ?_
    | with_reducible refine State.putReg_touches (hW _ (by first | (simp [State.retrainEnable_foot]; done) | (split <;> simp [State.retrainEnable_foot] <;> done) | ((repeat' split) <;> simp [State.retrainEnable_foot]))) (hW _ (by simp [State.retrainEnable_foot])) ?_
    | with_reducible refine State.setReg_touches (hW _ (by first | (simp [State.retrainEnable_foot]; done) | (split <;> simp [State.retrainEnable_foot] <;> done) | ((repeat' split) <;> simp [State.retrainEnable_foot])))  ?_
    | split
    | with_reducible refine forN_touches ?_ (fun x k hx => ?_)
    | with_reducible refine foldl_touches ?_ (fun x a hx => ?_)
    | with_reducible refine foldlSnd_touches ?_ (fun x a hx => ?_)
    | with_reducible assumption

/-- The parts execMsRetrainEnDisable touches. -/
def execMsRetrainEnDisable_foot : List Part := writeParam_foot ++ State.retrainDisable_foot

theorem execMsRetrainEnDisable_touches {W : List Part} {σ τ : State} {acc : Accessor} (hW : ∀ p ∈ execMsRetrainEnDisable_foot, p ∈ W)
    (hT : Touches W σ τ) : OutTouches W σ (execMsRetrainEnDisable acc τ) := by
  unfold execMsRetrainEnDisable
  try dsimp only
  repeat' first
    | with_reducible apply OutTouches.ite
    | with_reducible refine OutTouches.next ?_
    | with_reducible apply Touches.ite
    | with_reducible refine writeParam_touches  (fun p hp => hW p (by unfold execMsRetrainEnDisable_foot; repeat first | with_reducible exact hp | with_reducible exact List.mem_append_right _ hp | with_reducible apply List.mem_append_left)) ?_ (fun x  hx => ?_)
    | with_reducible refine State.retrainDisable_touches (fun p hp => hW p (by unfold execMsRetrainEnDisable_foot; repeat first | with_reducible exact hp | with_reducible exact List.mem_append_right _ hp | with_reducible apply List.mem_append_left)) ?_
    | split
    | with_reducible refine forN_touches ?_ (fun x k hx => ?_)
    | with_reducible refine foldl_touches ?_ (fun x a hx => ?_)
    | with_reducible refine foldlSnd_touches ?_ (fun x a hx => ?_)
    | with_reducible assumption

/-- The parts State.openLap touches. -/
def State.openLap_foot : List Part := [.reg .iLAP_START, .reg .iLAP_OPEN]

theorem State.openLap_touches {W : List Part} {σ τ : State} {k : Nat} (hW : ∀ p ∈ State.openLap_foot, p ∈ W)
    (hT : Touches W σ τ) : Touches W σ (State.openLap τ k) := by
  unfold State.openLap
  try dsimp only
  repeat' first
    | with_reducible apply Touches.ite
    | with_reducible refine State.setReg_touches (hW _ (by first | (simp [State.openLap_foot]; done) | (split <;> simp [State.openLap_foot] <;> done) | ((repeat' split) <;> simp [State.openLap_foot])))  ?_
    | split
    | with_reducible refine forN_touches ?_ (fun x k hx => ?_)
    | with_reducible refine foldl_touches ?_ (fun x a hx => ?_)
    | with_reducible refine foldlSnd_touches ?_ (fun x a hx => ?_)
    | with_reducible assumption

/-- The parts State.scrubSlow touches. -/
def State.scrubSlow_foot : List Part := [.reg .iLAP_SLOW] ++ State.raise_foot

theorem State.scrubSlow_touches {W : List Part} {σ τ : State} {k : Nat} (hW : ∀ p ∈ State.scrubSlow_foot, p ∈ W)
    (hT : Touches W σ τ) : Touches W σ (State.scrubSlow τ k) := by
  unfold State.scrubSlow
  try dsimp only
  repeat' first
    | with_reducible apply Touches.ite
    | with_reducible refine State.raise_touches (fun p hp => hW p (by unfold State.scrubSlow_foot; repeat first | with_reducible exact hp | with_reducible exact List.mem_append_right _ hp | with_reducible apply List.mem_append_left)) ?_
    | with_reducible refine State.setReg_touches (hW _ (by first | (simp [State.scrubSlow_foot]; done) | (split <;> simp [State.scrubSlow_foot] <;> done) | ((repeat' split) <;> simp [State.scrubSlow_foot])))  ?_
    | split
    | with_reducible refine forN_touches ?_ (fun x k hx => ?_)
    | with_reducible refine foldl_touches ?_ (fun x a hx => ?_)
    | with_reducible refine foldlSnd_touches ?_ (fun x a hx => ?_)
    | with_reducible assumption

/-- The parts State.lapEnd touches. -/
def State.lapEnd_foot : List Part := [.reg .SC_LAP_LAST, .reg .iLAP_START, .reg .iLAP_SLOW, .reg .iLAP_BROKEN]

theorem State.lapEnd_touches {W : List Part} {σ τ : State} {k : Nat} (hW : ∀ p ∈ State.lapEnd_foot, p ∈ W)
    (hT : Touches W σ τ) : Touches W σ (State.lapEnd τ k) := by
  unfold State.lapEnd
  try dsimp only
  repeat' first
    | with_reducible apply Touches.ite
    | with_reducible refine State.setReg_touches (hW _ (by first | (simp [State.lapEnd_foot]; done) | (split <;> simp [State.lapEnd_foot] <;> done) | ((repeat' split) <;> simp [State.lapEnd_foot])))  ?_
    | split
    | with_reducible refine forN_touches ?_ (fun x k hx => ?_)
    | with_reducible refine foldl_touches ?_ (fun x a hx => ?_)
    | with_reducible refine foldlSnd_touches ?_ (fun x a hx => ?_)
    | with_reducible assumption

/-- The parts State.scrubWord touches. -/
def State.scrubWord_foot : List Part := [.reg .MS_CORRECTED, .reg .CH_CORRECTED, .reg .SC_CORRECTED, .reg .CH_UNCORRECTABLE, .reg .SC_UNCORRECTABLE, .fld .writeBacks] ++ State.logPoison_foot

theorem State.scrubWord_touches {W : List Part} {σ τ : State} {w : Nat} {f : Finding} (hW : ∀ p ∈ State.scrubWord_foot, p ∈ W)
    (hT : Touches W σ τ) : Touches W σ (State.scrubWord τ w f) := by
  unfold State.scrubWord
  try dsimp only
  repeat' first
    | with_reducible apply Touches.ite
    | with_reducible refine State.bump_touches (hW _ (by first | (simp [State.scrubWord_foot]; done) | (split <;> simp [State.scrubWord_foot] <;> done) | ((repeat' split) <;> simp [State.scrubWord_foot])))  ?_
    | with_reducible refine State.logPoison_touches (fun p hp => hW p (by unfold State.scrubWord_foot; repeat first | with_reducible exact hp | with_reducible exact List.mem_append_right _ hp | with_reducible apply List.mem_append_left)) ?_
    | split
    | with_reducible refine forN_touches ?_ (fun x k hx => ?_)
    | with_reducible refine foldl_touches ?_ (fun x a hx => ?_)
    | with_reducible refine foldlSnd_touches ?_ (fun x a hx => ?_)
    | with_reducible assumption
    | with_reducible refine touches_mk (fun f => by cases f <;> first | exact .inr (by with_reducible rfl) | exact .inl (hW _ (by simp [State.scrubWord_foot]))) ?_

/-- The parts State.scrubWords touches. -/
def State.scrubWords_foot : List Part := State.scrubWord_foot

theorem State.scrubWords_touches {W : List Part} {s t : State} {l : List (Nat × Finding)}
    (hW : ∀ p ∈ State.scrubWords_foot, p ∈ W) (h : Touches W s t) : Touches W s (t.scrubWords l) := by
  induction l generalizing t with
  | nil => exact h
  | cons e l ih => exact ih (State.scrubWord_touches hW h)

/-- The parts State.scrubBurst touches. -/
def State.scrubBurst_foot : List Part := [.reg .SC_POSITION] ++ State.closeRows_foot ++ State.serveAll_foot ++ State.scrubSlow_foot ++ State.openLap_foot ++ State.scrubWords_foot ++ State.activateRows_foot ++ State.move_foot ++ State.lapEnd_foot

theorem State.scrubBurst_touches {W : List Part} {σ τ : State}  (hW : ∀ p ∈ State.scrubBurst_foot, p ∈ W)
    (hT : Touches W σ τ) : Touches W σ (State.scrubBurst τ) := by
  unfold State.scrubBurst
  try dsimp only
  repeat' first
    | with_reducible apply Touches.ite
    | with_reducible refine State.closeRows_touches (fun p hp => hW p (by unfold State.scrubBurst_foot; repeat first | with_reducible exact hp | with_reducible exact List.mem_append_right _ hp | with_reducible apply List.mem_append_left)) ?_
    | with_reducible refine State.serveAll_touches (fun p hp => hW p (by unfold State.scrubBurst_foot; repeat first | with_reducible exact hp | with_reducible exact List.mem_append_right _ hp | with_reducible apply List.mem_append_left)) ?_
    | with_reducible refine State.scrubSlow_touches (fun p hp => hW p (by unfold State.scrubBurst_foot; repeat first | with_reducible exact hp | with_reducible exact List.mem_append_right _ hp | with_reducible apply List.mem_append_left)) ?_
    | with_reducible refine State.openLap_touches (fun p hp => hW p (by unfold State.scrubBurst_foot; repeat first | with_reducible exact hp | with_reducible exact List.mem_append_right _ hp | with_reducible apply List.mem_append_left)) ?_
    | with_reducible refine State.scrubWords_touches (fun p hp => hW p (by unfold State.scrubBurst_foot; repeat first | with_reducible exact hp | with_reducible exact List.mem_append_right _ hp | with_reducible apply List.mem_append_left)) ?_
    | with_reducible refine State.activateRows_touches (fun p hp => hW p (by unfold State.scrubBurst_foot; repeat first | with_reducible exact hp | with_reducible exact List.mem_append_right _ hp | with_reducible apply List.mem_append_left)) ?_
    | with_reducible refine State.move_touches (fun p hp => hW p (by unfold State.scrubBurst_foot; repeat first | with_reducible exact hp | with_reducible exact List.mem_append_right _ hp | with_reducible apply List.mem_append_left)) ?_
    | with_reducible refine State.lapEnd_touches (fun p hp => hW p (by unfold State.scrubBurst_foot; repeat first | with_reducible exact hp | with_reducible exact List.mem_append_right _ hp | with_reducible apply List.mem_append_left)) ?_
    | with_reducible refine State.setReg_touches (hW _ (by first | (simp [State.scrubBurst_foot]; done) | (split <;> simp [State.scrubBurst_foot] <;> done) | ((repeat' split) <;> simp [State.scrubBurst_foot])))  ?_
    | split
    | with_reducible refine forN_touches ?_ (fun x k hx => ?_)
    | with_reducible refine foldl_touches ?_ (fun x a hx => ?_)
    | with_reducible refine foldlSnd_touches ?_ (fun x a hx => ?_)
    | with_reducible assumption

/-- The parts State.scrubOff touches. -/
def State.scrubOff_foot : List Part := [.reg .iLAP_BROKEN, .reg .SC_STATE] ++ State.raiseDisabled_foot

theorem State.scrubOff_touches {W : List Part} {σ τ : State} {k : Nat} {abandoned : Nat} (hW : ∀ p ∈ State.scrubOff_foot, p ∈ W)
    (hT : Touches W σ τ) : Touches W σ (State.scrubOff τ k abandoned) := by
  unfold State.scrubOff
  try dsimp only
  repeat' first
    | with_reducible apply Touches.ite
    | with_reducible refine State.raiseDisabled_touches (fun p hp => hW p (by unfold State.scrubOff_foot; repeat first | with_reducible exact hp | with_reducible exact List.mem_append_right _ hp | with_reducible apply List.mem_append_left)) ?_
    | with_reducible refine State.setReg_touches (hW _ (by first | (simp [State.scrubOff_foot]; done) | (split <;> simp [State.scrubOff_foot] <;> done) | ((repeat' split) <;> simp [State.scrubOff_foot])))  ?_
    | split
    | with_reducible refine forN_touches ?_ (fun x k hx => ?_)
    | with_reducible refine foldl_touches ?_ (fun x a hx => ?_)
    | with_reducible refine foldlSnd_touches ?_ (fun x a hx => ?_)
    | with_reducible assumption

/-- The parts execScrubBurst touches. -/
def execScrubBurst_foot : List Part := [.reg .SC_STATE, .fld .grants, .fld .highReqs, .fld .normalReqs] ++ State.see_foot ++ State.scrubBurst_foot ++ State.scrubOff_foot

theorem execScrubBurst_touches {W : List Part} {σ τ : State} {seen : Seen} (hW : ∀ p ∈ execScrubBurst_foot, p ∈ W)
    (hT : Touches W σ τ) : OutTouches W σ (execScrubBurst seen τ) := by
  unfold execScrubBurst
  try dsimp only
  repeat' first
    | with_reducible apply OutTouches.ite
    | with_reducible refine OutTouches.next ?_
    | with_reducible apply Touches.ite
    | with_reducible refine State.setReg_touches (hW _ (by first | (simp [execScrubBurst_foot]; done) | (split <;> simp [execScrubBurst_foot] <;> done) | ((repeat' split) <;> simp [execScrubBurst_foot])))  ?_
    | with_reducible refine State.see_touches (fun p hp => hW p (by unfold execScrubBurst_foot; repeat first | with_reducible exact hp | with_reducible exact List.mem_append_right _ hp | with_reducible apply List.mem_append_left)) ?_
    | with_reducible refine State.release_touches (hW _ (by simp [execScrubBurst_foot])) (hW _ (by simp [execScrubBurst_foot])) (hW _ (by simp [execScrubBurst_foot])) ?_
    | with_reducible refine State.scrubBurst_touches (fun p hp => hW p (by unfold execScrubBurst_foot; repeat first | with_reducible exact hp | with_reducible exact List.mem_append_right _ hp | with_reducible apply List.mem_append_left)) ?_
    | with_reducible refine State.scrubOff_touches (fun p hp => hW p (by unfold execScrubBurst_foot; repeat first | with_reducible exact hp | with_reducible exact List.mem_append_right _ hp | with_reducible apply List.mem_append_left)) ?_
    | with_reducible refine State.request_touches (hW _ (by simp [execScrubBurst_foot])) (hW _ (by simp [execScrubBurst_foot])) ?_
    | split
    | with_reducible refine forN_touches ?_ (fun x k hx => ?_)
    | with_reducible refine foldl_touches ?_ (fun x a hx => ?_)
    | with_reducible refine foldlSnd_touches ?_ (fun x a hx => ?_)
    | with_reducible assumption

/-- The parts execCacheScrub touches. -/
def execCacheScrub_foot : List Part := [.reg .SC_STATE, .reg .SC_CORRECTED, .reg .iCACHE_INVALID, .reg .SC_UNCORRECTABLE, .reg .SC_POSITION] ++ State.scrubSlow_foot ++ State.openLap_foot ++ State.lapEnd_foot

theorem execCacheScrub_touches {W : List Part} {σ τ : State} {n : Fin 16} {found : Option Finding} {last : Bool} (hW : ∀ p ∈ execCacheScrub_foot, p ∈ W)
    (hT : Touches W σ τ) : OutTouches W σ (execCacheScrub n found last τ) := by
  unfold execCacheScrub
  try dsimp only
  repeat' first
    | with_reducible apply OutTouches.ite
    | with_reducible refine OutTouches.next ?_
    | with_reducible apply Touches.ite
    | with_reducible refine State.setReg_touches (hW _ (by first | (simp [execCacheScrub_foot]; done) | (split <;> simp [execCacheScrub_foot] <;> done) | ((repeat' split) <;> simp [execCacheScrub_foot])))  ?_
    | with_reducible refine State.scrubSlow_touches (fun p hp => hW p (by unfold execCacheScrub_foot; repeat first | with_reducible exact hp | with_reducible exact List.mem_append_right _ hp | with_reducible apply List.mem_append_left)) ?_
    | with_reducible refine State.openLap_touches (fun p hp => hW p (by unfold execCacheScrub_foot; repeat first | with_reducible exact hp | with_reducible exact List.mem_append_right _ hp | with_reducible apply List.mem_append_left)) ?_
    | with_reducible refine State.bump_touches (hW _ (by first | (simp [execCacheScrub_foot]; done) | (split <;> simp [execCacheScrub_foot] <;> done) | ((repeat' split) <;> simp [execCacheScrub_foot])))  ?_
    | with_reducible refine State.lapEnd_touches (fun p hp => hW p (by unfold execCacheScrub_foot; repeat first | with_reducible exact hp | with_reducible exact List.mem_append_right _ hp | with_reducible apply List.mem_append_left)) ?_
    | split
    | with_reducible refine forN_touches ?_ (fun x k hx => ?_)
    | with_reducible refine foldl_touches ?_ (fun x a hx => ?_)
    | with_reducible refine foldlSnd_touches ?_ (fun x a hx => ?_)
    | with_reducible assumption

/-- The parts State.dropScrubbed touches. -/
def State.dropScrubbed_foot : List Part := [.fld .writeBacks]

theorem State.dropScrubbed_touches {W : List Part} {σ τ : State}  (hW : ∀ p ∈ State.dropScrubbed_foot, p ∈ W)
    (hT : Touches W σ τ) : Touches W σ (State.dropScrubbed τ) := by
  unfold State.dropScrubbed
  try dsimp only
  repeat' first
    | with_reducible apply Touches.ite
    | split
    | with_reducible refine forN_touches ?_ (fun x k hx => ?_)
    | with_reducible refine foldl_touches ?_ (fun x a hx => ?_)
    | with_reducible refine foldlSnd_touches ?_ (fun x a hx => ?_)
    | with_reducible assumption
    | with_reducible refine touches_mk (fun f => by cases f <;> first | exact .inr (by with_reducible rfl) | exact .inl (hW _ (by simp [State.dropScrubbed_foot]))) ?_

/-- The parts State.scrubDisable touches. -/
def State.scrubDisable_foot : List Part := [.reg .SC_ENABLE, .reg .SC_STATE, .fld .keepPending, .fld .grants, .fld .highReqs, .fld .normalReqs] ++ State.scrubOff_foot ++ State.dropScrubbed_foot

theorem State.scrubDisable_touches {W : List Part} {σ τ : State} {k : Nat} (hW : ∀ p ∈ State.scrubDisable_foot, p ∈ W)
    (hT : Touches W σ τ) : Touches W σ (State.scrubDisable τ k) := by
  unfold State.scrubDisable
  try dsimp only
  repeat' first
    | with_reducible apply Touches.ite
    | with_reducible refine State.putReg_touches (hW _ (by first | (simp [State.scrubDisable_foot]; done) | (split <;> simp [State.scrubDisable_foot] <;> done) | ((repeat' split) <;> simp [State.scrubDisable_foot]))) (hW _ (by simp [State.scrubDisable_foot])) ?_
    | with_reducible refine State.scrubOff_touches (fun p hp => hW p (by unfold State.scrubDisable_foot; repeat first | with_reducible exact hp | with_reducible exact List.mem_append_right _ hp | with_reducible apply List.mem_append_left)) ?_
    | with_reducible refine State.release_touches (hW _ (by simp [State.scrubDisable_foot])) (hW _ (by simp [State.scrubDisable_foot])) (hW _ (by simp [State.scrubDisable_foot])) ?_
    | with_reducible refine State.dropScrubbed_touches (fun p hp => hW p (by unfold State.scrubDisable_foot; repeat first | with_reducible exact hp | with_reducible exact List.mem_append_right _ hp | with_reducible apply List.mem_append_left)) ?_
    | with_reducible refine State.setReg_touches (hW _ (by first | (simp [State.scrubDisable_foot]; done) | (split <;> simp [State.scrubDisable_foot] <;> done) | ((repeat' split) <;> simp [State.scrubDisable_foot])))  ?_
    | split
    | with_reducible refine forN_touches ?_ (fun x k hx => ?_)
    | with_reducible refine foldl_touches ?_ (fun x a hx => ?_)
    | with_reducible refine foldlSnd_touches ?_ (fun x a hx => ?_)
    | with_reducible assumption

/-- The parts State.scrubEnable touches. -/
def State.scrubEnable_foot : List Part := [.reg .SC_STATE, .reg .MS_INIT_STATE, .reg .SC_ENABLE, .fld .status, .fld .keepPending]

theorem State.scrubEnable_touches {W : List Part} {σ τ : State} {k : Nat} (hW : ∀ p ∈ State.scrubEnable_foot, p ∈ W)
    (hT : Touches W σ τ) : Touches W σ (State.scrubEnable τ k) := by
  unfold State.scrubEnable
  try dsimp only
  repeat' first
    | with_reducible apply Touches.ite
    | with_reducible refine State.refuse_touches (hW _ (by simp [State.scrubEnable_foot])) ?_
    | with_reducible refine State.setReg_touches (hW _ (by first | (simp [State.scrubEnable_foot]; done) | (split <;> simp [State.scrubEnable_foot] <;> done) | ((repeat' split) <;> simp [State.scrubEnable_foot])))  ?_
    | with_reducible refine State.putReg_touches (hW _ (by first | (simp [State.scrubEnable_foot]; done) | (split <;> simp [State.scrubEnable_foot] <;> done) | ((repeat' split) <;> simp [State.scrubEnable_foot]))) (hW _ (by simp [State.scrubEnable_foot])) ?_
    | split
    | with_reducible refine forN_touches ?_ (fun x k hx => ?_)
    | with_reducible refine foldl_touches ?_ (fun x a hx => ?_)
    | with_reducible refine foldlSnd_touches ?_ (fun x a hx => ?_)
    | with_reducible assumption

/-- The parts execScEnableDisable touches. -/
def execScEnableDisable_foot : List Part := writeParam_foot ++ State.scrubDisable_foot

theorem execScEnableDisable_touches {W : List Part} {σ τ : State} {acc : Accessor} {k : Fin 4} (hW : ∀ p ∈ execScEnableDisable_foot, p ∈ W)
    (hT : Touches W σ τ) : OutTouches W σ (execScEnableDisable acc k τ) := by
  unfold execScEnableDisable
  try dsimp only
  repeat' first
    | with_reducible apply OutTouches.ite
    | with_reducible refine OutTouches.next ?_
    | with_reducible apply Touches.ite
    | with_reducible refine writeParam_touches  (fun p hp => hW p (by unfold execScEnableDisable_foot; repeat first | with_reducible exact hp | with_reducible exact List.mem_append_right _ hp | with_reducible apply List.mem_append_left)) ?_ (fun x  hx => ?_)
    | with_reducible refine State.scrubDisable_touches (fun p hp => hW p (by unfold execScEnableDisable_foot; repeat first | with_reducible exact hp | with_reducible exact List.mem_append_right _ hp | with_reducible apply List.mem_append_left)) ?_
    | split
    | with_reducible refine forN_touches ?_ (fun x k hx => ?_)
    | with_reducible refine foldl_touches ?_ (fun x a hx => ?_)
    | with_reducible refine foldlSnd_touches ?_ (fun x a hx => ?_)
    | with_reducible assumption

/-- The parts execScEnableResume touches. -/
def execScEnableResume_foot : List Part := writeParam_foot ++ State.scrubEnable_foot

theorem execScEnableResume_touches {W : List Part} {σ τ : State} {acc : Accessor} {k : Fin 4} (hW : ∀ p ∈ execScEnableResume_foot, p ∈ W)
    (hT : Touches W σ τ) : OutTouches W σ (execScEnableResume acc k τ) := by
  unfold execScEnableResume
  try dsimp only
  repeat' first
    | with_reducible apply OutTouches.ite
    | with_reducible refine OutTouches.next ?_
    | with_reducible apply Touches.ite
    | with_reducible refine writeParam_touches  (fun p hp => hW p (by unfold execScEnableResume_foot; repeat first | with_reducible exact hp | with_reducible exact List.mem_append_right _ hp | with_reducible apply List.mem_append_left)) ?_ (fun x  hx => ?_)
    | with_reducible refine State.scrubEnable_touches (fun p hp => hW p (by unfold execScEnableResume_foot; repeat first | with_reducible exact hp | with_reducible exact List.mem_append_right _ hp | with_reducible apply List.mem_append_left)) ?_
    | split
    | with_reducible refine forN_touches ?_ (fun x k hx => ?_)
    | with_reducible refine foldl_touches ?_ (fun x a hx => ?_)
    | with_reducible refine foldlSnd_touches ?_ (fun x a hx => ?_)
    | with_reducible assumption

/-- The parts State.windowsInForce touches. -/
def State.windowsInForce_foot : List Part := [.reg .WIN_ENABLE, .reg .iWIN_ENABLE, .reg .WIN_SPACE, .reg .iWIN_SPACE, .reg .WIN_ID_LO, .reg .iWIN_ID_LO, .reg .WIN_ID_HI, .reg .iWIN_ID_HI, .reg .WIN_BASE, .reg .iWIN_BASE, .reg .WIN_LIMIT, .reg .iWIN_LIMIT, .reg .WIN_PERM, .reg .iWIN_PERM]

theorem State.windowsInForce_touches {W : List Part} {σ τ : State} (hW : ∀ p ∈ State.windowsInForce_foot, p ∈ W)
    (hT : Touches W σ τ) : Touches W σ (State.windowsInForce τ) := by
  unfold State.windowsInForce
  refine forN_touches hT (fun x k hx => ?_)
  refine foldl_mem_touches hx (fun y a ha hy => State.setReg_touches ?_ hy)
  simp only [windowFields, List.mem_cons, List.not_mem_nil, or_false] at ha
  rcases ha with rfl | rfl | rfl | rfl | rfl | rfl | rfl <;> exact hW _ (by simp [State.windowsInForce_foot])

/-- The parts State.takeWindow touches. -/
def State.takeWindow_foot : List Part := [.reg .WIN_ENABLE, .reg .iWIN_ENABLE, .reg .WIN_SPACE, .reg .iWIN_SPACE, .reg .WIN_ID_LO, .reg .iWIN_ID_LO, .reg .WIN_ID_HI, .reg .iWIN_ID_HI, .reg .WIN_BASE, .reg .iWIN_BASE, .reg .WIN_LIMIT, .reg .iWIN_LIMIT, .reg .WIN_PERM, .reg .iWIN_PERM, .fld .keepPending]

theorem State.takeWindow_touches {W : List Part} {σ τ : State} {w : Nat} (hW : ∀ p ∈ State.takeWindow_foot, p ∈ W)
    (hT : Touches W σ τ) : Touches W σ (State.takeWindow τ w) := by
  unfold State.takeWindow
  refine foldl_mem_touches hT (fun y a ha hy => Touches.ite hy ?_)
  refine State.noteKeep_touches (hW _ (by simp [State.takeWindow_foot])) (State.setReg_touches ?_ hy)
  simp only [windowFields, List.mem_cons, List.not_mem_nil, or_false] at ha
  rcases ha with rfl | rfl | rfl | rfl | rfl | rfl | rfl <;> exact hW _ (by simp [State.takeWindow_foot])

/-- The parts State.winApply touches. -/
def State.winApply_foot : List Part := [.reg .WIN_STATUS, .fld .status] ++ State.takeWindow_foot

theorem State.winApply_touches {W : List Part} {σ τ : State}  (hW : ∀ p ∈ State.winApply_foot, p ∈ W)
    (hT : Touches W σ τ) : Touches W σ (State.winApply τ) := by
  unfold State.winApply
  try dsimp only
  repeat' first
    | with_reducible apply Touches.ite
    | with_reducible refine State.setReg_touches (hW _ (by first | (simp [State.winApply_foot]; done) | (split <;> simp [State.winApply_foot] <;> done) | ((repeat' split) <;> simp [State.winApply_foot])))  ?_
    | with_reducible refine State.takeWindow_touches (fun p hp => hW p (by unfold State.winApply_foot; repeat first | with_reducible exact hp | with_reducible exact List.mem_append_right _ hp | with_reducible apply List.mem_append_left)) ?_
    | with_reducible refine State.refuse_touches (hW _ (by simp [State.winApply_foot])) ?_
    | split
    | with_reducible refine forN_touches ?_ (fun x k hx => ?_)
    | with_reducible refine foldl_touches ?_ (fun x a hx => ?_)
    | with_reducible refine foldlSnd_touches ?_ (fun x a hx => ?_)
    | with_reducible assumption

/-- The parts execWinApply touches. -/
def execWinApply_foot : List Part := writeParam_foot ++ State.winApply_foot

theorem execWinApply_touches {W : List Part} {σ τ : State} {acc : Accessor} (hW : ∀ p ∈ execWinApply_foot, p ∈ W)
    (hT : Touches W σ τ) : OutTouches W σ (execWinApply acc τ) := by
  unfold execWinApply
  try dsimp only
  repeat' first
    | with_reducible apply OutTouches.ite
    | with_reducible refine OutTouches.next ?_
    | with_reducible apply Touches.ite
    | with_reducible refine writeParam_touches  (fun p hp => hW p (by unfold execWinApply_foot; repeat first | with_reducible exact hp | with_reducible exact List.mem_append_right _ hp | with_reducible apply List.mem_append_left)) ?_ (fun x  hx => ?_)
    | with_reducible refine State.winApply_touches (fun p hp => hW p (by unfold execWinApply_foot; repeat first | with_reducible exact hp | with_reducible exact List.mem_append_right _ hp | with_reducible apply List.mem_append_left)) ?_
    | split
    | with_reducible refine forN_touches ?_ (fun x k hx => ?_)
    | with_reducible refine foldl_touches ?_ (fun x a hx => ?_)
    | with_reducible refine foldlSnd_touches ?_ (fun x a hx => ?_)
    | with_reducible assumption

/-- The parts execPnClear touches. -/
def execPnClear_foot : List Part := [.reg .PN_LOST, .fld .poisonLog] ++ writeParam_foot

theorem execPnClear_touches {W : List Part} {σ τ : State} {acc : Accessor} (hW : ∀ p ∈ execPnClear_foot, p ∈ W)
    (hT : Touches W σ τ) : OutTouches W σ (execPnClear acc τ) := by
  unfold execPnClear
  try dsimp only
  repeat' first
    | with_reducible apply OutTouches.ite
    | with_reducible refine OutTouches.next ?_
    | with_reducible apply Touches.ite
    | with_reducible refine writeParam_touches  (fun p hp => hW p (by unfold execPnClear_foot; repeat first | with_reducible exact hp | with_reducible exact List.mem_append_right _ hp | with_reducible apply List.mem_append_left)) ?_ (fun x  hx => ?_)
    | with_reducible refine State.setReg_touches (hW _ (by first | (simp [execPnClear_foot]; done) | (split <;> simp [execPnClear_foot] <;> done) | ((repeat' split) <;> simp [execPnClear_foot])))  ?_
    | split
    | with_reducible refine forN_touches ?_ (fun x k hx => ?_)
    | with_reducible refine foldl_touches ?_ (fun x a hx => ?_)
    | with_reducible refine foldlSnd_touches ?_ (fun x a hx => ?_)
    | with_reducible assumption
    | with_reducible refine touches_mk (fun f => by cases f <;> first | exact .inr (by with_reducible rfl) | exact .inl (hW _ (by simp [execPnClear_foot]))) ?_

end Sys2Proof.Machine
end

