-- ==== Sys2Proof/Laws/TouchesCue.lean ====
section
/-! SUPPORT. What the functions of Machine/Cue.lean touch. -/
namespace Sys2Proof.Machine
set_option linter.all false

/-- The parts execCueLoadValidate touches. -/
def execCueLoadValidate_foot : List Part := [.reg .CUE_STATE, .fld .status] ++ writeParam_foot

theorem execCueLoadValidate_touches {W : List Part} {σ τ : State} {acc : Accessor} {n : Fin 1024} (hW : ∀ p ∈ execCueLoadValidate_foot, p ∈ W)
    (hT : Touches W σ τ) : OutTouches W σ (execCueLoadValidate acc n τ) := by
  unfold execCueLoadValidate
  try dsimp only
  repeat' first
    | with_reducible apply OutTouches.ite
    | with_reducible refine OutTouches.next ?_
    | with_reducible apply Touches.ite
    | with_reducible refine writeParam_touches  (fun p hp => hW p (by unfold execCueLoadValidate_foot; repeat first | with_reducible exact hp | with_reducible exact List.mem_append_right _ hp | with_reducible apply List.mem_append_left)) ?_ (fun x  hx => ?_)
    | with_reducible refine State.refuse_touches (hW _ (by simp [execCueLoadValidate_foot])) ?_
    | with_reducible refine State.setReg_touches (hW _ (by first | (simp [execCueLoadValidate_foot]; done) | (split <;> simp [execCueLoadValidate_foot] <;> done) | ((repeat' split) <;> simp [execCueLoadValidate_foot])))  ?_
    | split
    | with_reducible refine forN_touches ?_ (fun x k hx => ?_)
    | with_reducible refine foldl_touches ?_ (fun x a hx => ?_)
    | with_reducible refine foldlSnd_touches ?_ (fun x a hx => ?_)
    | with_reducible assumption

/-- The parts execCueLoadEmpty touches. -/
def execCueLoadEmpty_foot : List Part := [.reg .CUE_STATE, .fld .status] ++ writeParam_foot

theorem execCueLoadEmpty_touches {W : List Part} {σ τ : State} {acc : Accessor} {n : Fin 1024} (hW : ∀ p ∈ execCueLoadEmpty_foot, p ∈ W)
    (hT : Touches W σ τ) : OutTouches W σ (execCueLoadEmpty acc n τ) := by
  unfold execCueLoadEmpty
  try dsimp only
  repeat' first
    | with_reducible apply OutTouches.ite
    | with_reducible refine OutTouches.next ?_
    | with_reducible apply Touches.ite
    | with_reducible refine writeParam_touches  (fun p hp => hW p (by unfold execCueLoadEmpty_foot; repeat first | with_reducible exact hp | with_reducible exact List.mem_append_right _ hp | with_reducible apply List.mem_append_left)) ?_ (fun x  hx => ?_)
    | with_reducible refine State.refuse_touches (hW _ (by simp [execCueLoadEmpty_foot])) ?_
    | with_reducible refine State.setReg_touches (hW _ (by first | (simp [execCueLoadEmpty_foot]; done) | (split <;> simp [execCueLoadEmpty_foot] <;> done) | ((repeat' split) <;> simp [execCueLoadEmpty_foot])))  ?_
    | split
    | with_reducible refine forN_touches ?_ (fun x k hx => ?_)
    | with_reducible refine foldl_touches ?_ (fun x a hx => ?_)
    | with_reducible refine foldlSnd_touches ?_ (fun x a hx => ?_)
    | with_reducible assumption

/-- The parts execCueValidationDone touches. -/
def execCueValidationDone_foot : List Part := [.reg .CUE_STATE] ++ State.fetch_foot ++ State.see_foot

theorem execCueValidationDone_touches {W : List Part} {σ τ : State} {n : Fin 1024} {seen : Seen} (hW : ∀ p ∈ execCueValidationDone_foot, p ∈ W)
    (hT : Touches W σ τ) : OutTouches W σ (execCueValidationDone n seen τ) := by
  unfold execCueValidationDone
  try dsimp only
  repeat' first
    | with_reducible apply OutTouches.ite
    | with_reducible refine OutTouches.next ?_
    | with_reducible apply Touches.ite
    | with_reducible refine Touches.ofPair (by assumption) (State.fetch_touches (fun p hp => hW p (by unfold execCueValidationDone_foot; repeat first | with_reducible exact hp | with_reducible exact List.mem_append_right _ hp | with_reducible apply List.mem_append_left)) ?_)
    | with_reducible refine State.fetch_touches (fun p hp => hW p (by unfold execCueValidationDone_foot; repeat first | with_reducible exact hp | with_reducible exact List.mem_append_right _ hp | with_reducible apply List.mem_append_left)) ?_
    | with_reducible refine State.see_touches (fun p hp => hW p (by unfold execCueValidationDone_foot; repeat first | with_reducible exact hp | with_reducible exact List.mem_append_right _ hp | with_reducible apply List.mem_append_left)) ?_
    | with_reducible refine State.setReg_touches (hW _ (by first | (simp [execCueValidationDone_foot]; done) | (split <;> simp [execCueValidationDone_foot] <;> done) | ((repeat' split) <;> simp [execCueValidationDone_foot])))  ?_
    | split
    | with_reducible refine forN_touches ?_ (fun x k hx => ?_)
    | with_reducible refine foldl_touches ?_ (fun x a hx => ?_)
    | with_reducible refine foldlSnd_touches ?_ (fun x a hx => ?_)
    | with_reducible assumption

/-- The parts execCueParamWrite touches. -/
def execCueParamWrite_foot : List Part := [.reg .CUE_STATE, .reg .CUE_BASE, .reg .CUE_SIZE, .reg .CUE_CRC, .reg .CUE_BIND, .fld .status] ++ writeParam_foot

theorem execCueParamWrite_touches {W : List Part} {σ τ : State} {acc : Accessor} {n : Fin 1024} {p : CueParam} {v : Nat} (hW : ∀ p ∈ execCueParamWrite_foot, p ∈ W)
    (hT : Touches W σ τ) : OutTouches W σ (execCueParamWrite acc n p v τ) := by
  unfold execCueParamWrite
  try dsimp only
  repeat' first
    | with_reducible apply OutTouches.ite
    | with_reducible refine OutTouches.next ?_
    | with_reducible apply Touches.ite
    | with_reducible refine writeParam_touches  (fun p hp => hW p (by unfold execCueParamWrite_foot; repeat first | with_reducible exact hp | with_reducible exact List.mem_append_right _ hp | with_reducible apply List.mem_append_left)) ?_ (fun x  hx => ?_)
    | with_reducible refine State.refuse_touches (hW _ (by simp [execCueParamWrite_foot])) ?_
    | with_reducible refine cond_touches ?_ (fun x hx => ?_)
    | with_reducible refine State.setReg_touches (hW _ (by first | (simp [execCueParamWrite_foot]; done) | (split <;> simp [execCueParamWrite_foot] <;> done) | (simp only [cueReg]; (repeat' split) <;> simp [execCueParamWrite_foot]) | ((repeat' split) <;> simp [execCueParamWrite_foot])))  ?_
    | split
    | with_reducible refine forN_touches ?_ (fun x k hx => ?_)
    | with_reducible refine foldl_touches ?_ (fun x a hx => ?_)
    | with_reducible refine foldlSnd_touches ?_ (fun x a hx => ?_)
    | with_reducible assumption

/-- The parts execPbCtrlArm touches. -/
def execPbCtrlArm_foot : List Part := [.reg .PB_REFUSED, .reg .iPB_START, .reg .iPB_ENDMODE, .reg .iPB_FIRST, .reg .iPB_CUE, .reg .PB_STATE, .fld .status] ++ writeParam_foot

theorem execPbCtrlArm_touches {W : List Part} {σ τ : State} {acc : Accessor} {surf : Surface} (hW : ∀ p ∈ execPbCtrlArm_foot, p ∈ W)
    (hT : Touches W σ τ) : OutTouches W σ (execPbCtrlArm acc surf τ) := by
  unfold execPbCtrlArm
  try dsimp only
  repeat' first
    | with_reducible apply OutTouches.ite
    | with_reducible refine OutTouches.next ?_
    | with_reducible apply Touches.ite
    | with_reducible refine writeParam_touches  (fun p hp => hW p (by unfold execPbCtrlArm_foot; repeat first | with_reducible exact hp | with_reducible exact List.mem_append_right _ hp | with_reducible apply List.mem_append_left)) ?_ (fun x  hx => ?_)
    | with_reducible refine State.setReg_touches (hW _ (by first | (simp [execPbCtrlArm_foot]; done) | (split <;> simp [execPbCtrlArm_foot] <;> done) | ((repeat' split) <;> simp [execPbCtrlArm_foot])))  ?_
    | with_reducible refine State.refuse_touches (hW _ (by simp [execPbCtrlArm_foot])) ?_
    | split
    | with_reducible refine forN_touches ?_ (fun x k hx => ?_)
    | with_reducible refine foldl_touches ?_ (fun x a hx => ?_)
    | with_reducible refine foldlSnd_touches ?_ (fun x a hx => ?_)
    | with_reducible assumption

/-- The parts State.stopPlayback touches. -/
def State.stopPlayback_foot : List Part := [.reg .PB_STATE]

theorem State.stopPlayback_touches {W : List Part} {σ τ : State} {surf : Nat} (hW : ∀ p ∈ State.stopPlayback_foot, p ∈ W)
    (hT : Touches W σ τ) : Touches W σ (State.stopPlayback τ surf) := by
  unfold State.stopPlayback
  try dsimp only
  repeat' first
    | with_reducible apply Touches.ite
    | with_reducible refine State.setReg_touches (hW _ (by first | (simp [State.stopPlayback_foot]; done) | (split <;> simp [State.stopPlayback_foot] <;> done) | ((repeat' split) <;> simp [State.stopPlayback_foot])))  ?_
    | split
    | with_reducible refine forN_touches ?_ (fun x k hx => ?_)
    | with_reducible refine foldl_touches ?_ (fun x a hx => ?_)
    | with_reducible refine foldlSnd_touches ?_ (fun x a hx => ?_)
    | with_reducible assumption

/-- The parts execPbCtrlStop touches. -/
def execPbCtrlStop_foot : List Part := writeParam_foot ++ State.stopPlayback_foot

theorem execPbCtrlStop_touches {W : List Part} {σ τ : State} {acc : Accessor} {surf : Surface} (hW : ∀ p ∈ execPbCtrlStop_foot, p ∈ W)
    (hT : Touches W σ τ) : OutTouches W σ (execPbCtrlStop acc surf τ) := by
  unfold execPbCtrlStop
  try dsimp only
  repeat' first
    | with_reducible apply OutTouches.ite
    | with_reducible refine OutTouches.next ?_
    | with_reducible apply Touches.ite
    | with_reducible refine writeParam_touches  (fun p hp => hW p (by unfold execPbCtrlStop_foot; repeat first | with_reducible exact hp | with_reducible exact List.mem_append_right _ hp | with_reducible apply List.mem_append_left)) ?_ (fun x  hx => ?_)
    | with_reducible refine State.stopPlayback_touches (fun p hp => hW p (by unfold execPbCtrlStop_foot; repeat first | with_reducible exact hp | with_reducible exact List.mem_append_right _ hp | with_reducible apply List.mem_append_left)) ?_
    | split
    | with_reducible refine forN_touches ?_ (fun x k hx => ?_)
    | with_reducible refine foldl_touches ?_ (fun x a hx => ?_)
    | with_reducible refine foldlSnd_touches ?_ (fun x a hx => ?_)
    | with_reducible assumption

/-- The parts State.startPlayback touches. -/
def State.startPlayback_foot : List Part := [.reg .iPB_S, .reg .PB_STATE]

theorem State.startPlayback_touches {W : List Part} {σ τ : State} {surf : Nat} (hW : ∀ p ∈ State.startPlayback_foot, p ∈ W)
    (hT : Touches W σ τ) : Touches W σ (State.startPlayback τ surf) := by
  unfold State.startPlayback
  try dsimp only
  repeat' first
    | with_reducible apply Touches.ite
    | with_reducible refine State.setReg_touches (hW _ (by first | (simp [State.startPlayback_foot]; done) | (split <;> simp [State.startPlayback_foot] <;> done) | ((repeat' split) <;> simp [State.startPlayback_foot])))  ?_
    | split
    | with_reducible refine forN_touches ?_ (fun x k hx => ?_)
    | with_reducible refine foldl_touches ?_ (fun x a hx => ?_)
    | with_reducible refine foldlSnd_touches ?_ (fun x a hx => ?_)
    | with_reducible assumption

/-- The parts State.frameEntries touches. -/
def State.frameEntries_foot : List Part := State.fetch_foot

theorem State.frameEntries_touches {W : List Part} {σ τ : State} {cue f : Nat} {l : List Nat}
    (hW : ∀ p ∈ State.frameEntries_foot, p ∈ W) (hT : Touches W σ τ) : Touches W σ (τ.frameEntries cue f l).2 := by
  induction l generalizing τ with
  | nil => exact hT
  | cons e l ih =>
    unfold State.frameEntries
    dsimp only
    split
    · exact ih hT
    · have h1 : Touches W σ (τ.fetch τ.pipMaster .cue
          (τ.reg .CUE_BASE cue + (τ.cueTrack (τ.reg .CUE_BASE cue) e).table + 16 * f) 16).2 :=
        State.fetch_touches hW hT
      split
      · exact h1
      · exact ih h1

/-- The parts State.bindFrame touches. -/
def State.bindFrame_foot : List Part := [.reg .iBK_MAXB, .reg .iBK_FRAME, .reg .iBK_INDEX, .reg .iBK_BASE, .reg .iBK_CUE, .reg .iBK_CONC] ++ State.makeReady_foot

theorem State.bindFrame_touches {W : List Part} {σ τ : State} {cue : Nat} {f : Nat} {t : Nat} {e : Nat} (hW : ∀ p ∈ State.bindFrame_foot, p ∈ W)
    (hT : Touches W σ τ) : Touches W σ (State.bindFrame τ cue f t e) := by
  unfold State.bindFrame
  try dsimp only
  repeat' first
    | with_reducible apply Touches.ite
    | with_reducible refine State.setReg_touches (hW _ (by first | (simp [State.bindFrame_foot]; done) | (split <;> simp [State.bindFrame_foot] <;> done) | ((repeat' split) <;> simp [State.bindFrame_foot])))  ?_
    | with_reducible refine State.makeReady_touches (fun p hp => hW p (by unfold State.bindFrame_foot; repeat first | with_reducible exact hp | with_reducible exact List.mem_append_right _ hp | with_reducible apply List.mem_append_left)) ?_
    | split
    | with_reducible refine forN_touches ?_ (fun x k hx => ?_)
    | with_reducible refine foldl_touches ?_ (fun x a hx => ?_)
    | with_reducible refine foldlSnd_touches ?_ (fun x a hx => ?_)
    | with_reducible assumption

/-- The parts State.formStep touches. -/
def State.formStep_foot : List Part := [.reg .PB_FRAME, .reg .PB_REFUSED] ++ State.frameEntries_foot ++ State.newId_foot ++ State.bindFrame_foot ++ State.addCommit_foot

theorem State.formStep_touches {W : List Part} {σ τ : State} {surf : Nat} {f : Nat} (hW : ∀ p ∈ State.formStep_foot, p ∈ W)
    (hT : Touches W σ τ) : Touches W σ (State.formStep τ surf f) := by
  unfold State.formStep
  try dsimp only
  repeat' first
    | with_reducible apply Touches.ite
    | with_reducible refine State.setReg_touches (hW _ (by first | (simp [State.formStep_foot]; done) | (split <;> simp [State.formStep_foot] <;> done) | ((repeat' split) <;> simp [State.formStep_foot])))  ?_
    | with_reducible refine Touches.ofPair (by assumption) (State.frameEntries_touches (fun p hp => hW p (by unfold State.formStep_foot; repeat first | with_reducible exact hp | with_reducible exact List.mem_append_right _ hp | with_reducible apply List.mem_append_left)) ?_)
    | with_reducible refine State.frameEntries_touches (fun p hp => hW p (by unfold State.formStep_foot; repeat first | with_reducible exact hp | with_reducible exact List.mem_append_right _ hp | with_reducible apply List.mem_append_left)) ?_
    | with_reducible refine State.bump_touches (hW _ (by first | (simp [State.formStep_foot]; done) | (split <;> simp [State.formStep_foot] <;> done) | ((repeat' split) <;> simp [State.formStep_foot])))  ?_
    | with_reducible refine Touches.ofPair (by assumption) (State.newId_touches (fun p hp => hW p (by unfold State.formStep_foot; repeat first | with_reducible exact hp | with_reducible exact List.mem_append_right _ hp | with_reducible apply List.mem_append_left)) ?_)
    | with_reducible refine State.newId_touches (fun p hp => hW p (by unfold State.formStep_foot; repeat first | with_reducible exact hp | with_reducible exact List.mem_append_right _ hp | with_reducible apply List.mem_append_left)) ?_
    | with_reducible refine State.bindFrame_touches (fun p hp => hW p (by unfold State.formStep_foot; repeat first | with_reducible exact hp | with_reducible exact List.mem_append_right _ hp | with_reducible apply List.mem_append_left)) ?_
    | with_reducible refine State.addCommit_touches (fun p hp => hW p (by unfold State.formStep_foot; repeat first | with_reducible exact hp | with_reducible exact List.mem_append_right _ hp | with_reducible apply List.mem_append_left)) ?_
    | split
    | with_reducible refine forN_touches ?_ (fun x k hx => ?_)
    | with_reducible refine foldl_touches ?_ (fun x a hx => ?_)
    | with_reducible refine foldlSnd_touches ?_ (fun x a hx => ?_)
    | with_reducible assumption

/-- The parts State.cueStep touches. -/
def State.cueStep_foot : List Part := [.reg .PB_STATE, .reg .PB_REFUSED] ++ State.startPlayback_foot ++ State.formStep_foot

theorem State.cueStep_touches {W : List Part} {σ τ : State} {surf : Nat} (hW : ∀ p ∈ State.cueStep_foot, p ∈ W)
    (hT : Touches W σ τ) : Touches W σ (State.cueStep τ surf) := by
  unfold State.cueStep
  try dsimp only
  repeat' first
    | with_reducible apply Touches.ite
    | with_reducible refine State.startPlayback_touches (fun p hp => hW p (by unfold State.cueStep_foot; repeat first | with_reducible exact hp | with_reducible exact List.mem_append_right _ hp | with_reducible apply List.mem_append_left)) ?_
    | with_reducible refine State.setReg_touches (hW _ (by first | (simp [State.cueStep_foot]; done) | (split <;> simp [State.cueStep_foot] <;> done) | ((repeat' split) <;> simp [State.cueStep_foot])))  ?_
    | with_reducible refine State.bump_touches (hW _ (by first | (simp [State.cueStep_foot]; done) | (split <;> simp [State.cueStep_foot] <;> done) | ((repeat' split) <;> simp [State.cueStep_foot])))  ?_
    | with_reducible refine State.formStep_touches (fun p hp => hW p (by unfold State.cueStep_foot; repeat first | with_reducible exact hp | with_reducible exact List.mem_append_right _ hp | with_reducible apply List.mem_append_left)) ?_
    | split
    | with_reducible refine forN_touches ?_ (fun x k hx => ?_)
    | with_reducible refine foldl_touches ?_ (fun x a hx => ?_)
    | with_reducible refine foldlSnd_touches ?_ (fun x a hx => ?_)
    | with_reducible assumption

/-- The parts State.checkPlayback touches. -/
def State.checkPlayback_foot : List Part := State.raise_foot ++ State.stopPlayback_foot

theorem State.checkPlayback_touches {W : List Part} {σ τ : State} {surf : Nat} (hW : ∀ p ∈ State.checkPlayback_foot, p ∈ W)
    (hT : Touches W σ τ) : Touches W σ (State.checkPlayback τ surf) := by
  unfold State.checkPlayback
  try dsimp only
  repeat' first
    | with_reducible apply Touches.ite
    | with_reducible refine State.raise_touches (fun p hp => hW p (by unfold State.checkPlayback_foot; repeat first | with_reducible exact hp | with_reducible exact List.mem_append_right _ hp | with_reducible apply List.mem_append_left)) ?_
    | with_reducible refine State.stopPlayback_touches (fun p hp => hW p (by unfold State.checkPlayback_foot; repeat first | with_reducible exact hp | with_reducible exact List.mem_append_right _ hp | with_reducible apply List.mem_append_left)) ?_
    | split
    | with_reducible refine forN_touches ?_ (fun x k hx => ?_)
    | with_reducible refine foldl_touches ?_ (fun x a hx => ?_)
    | with_reducible refine foldlSnd_touches ?_ (fun x a hx => ?_)
    | with_reducible assumption

end Sys2Proof.Machine
end

