-- ==== Sys2Proof/Laws/TouchesPll.lean ====
section
/-! SUPPORT. What the functions of Machine/Pll.lean touch. -/
namespace Sys2Proof.Machine
set_option linter.all false

/-- The parts State.showFreq touches. -/
def State.showFreq_foot : List Part := [.reg .CK_FREQ]

theorem State.showFreq_touches {W : List Part} {σ τ : State} {k : Nat} (hW : ∀ p ∈ State.showFreq_foot, p ∈ W)
    (hT : Touches W σ τ) : Touches W σ (State.showFreq τ k) := by
  unfold State.showFreq
  try dsimp only
  repeat' first
    | with_reducible apply Touches.ite
    | with_reducible refine State.setReg_touches (hW _ (by first | (simp [State.showFreq_foot]; done) | (split <;> simp [State.showFreq_foot] <;> done) | ((repeat' split) <;> simp [State.showFreq_foot])))  ?_
    | split
    | with_reducible refine forN_touches ?_ (fun x k hx => ?_)
    | with_reducible refine foldl_touches ?_ (fun x a hx => ?_)
    | with_reducible refine foldlSnd_touches ?_ (fun x a hx => ?_)
    | with_reducible assumption

/-- The parts State.setPll touches. -/
def State.setPll_foot : List Part := [.reg .iCK_SINCE, .reg .CK_STATE]

theorem State.setPll_touches {W : List Part} {σ τ : State} {k : Nat} {st : Nat} (hW : ∀ p ∈ State.setPll_foot, p ∈ W)
    (hT : Touches W σ τ) : Touches W σ (State.setPll τ k st) := by
  unfold State.setPll
  try dsimp only
  repeat' first
    | with_reducible apply Touches.ite
    | with_reducible refine State.setReg_touches (hW _ (by first | (simp [State.setPll_foot]; done) | (split <;> simp [State.setPll_foot] <;> done) | ((repeat' split) <;> simp [State.setPll_foot])))  ?_
    | split
    | with_reducible refine forN_touches ?_ (fun x k hx => ?_)
    | with_reducible refine foldl_touches ?_ (fun x a hx => ?_)
    | with_reducible refine foldlSnd_touches ?_ (fun x a hx => ?_)
    | with_reducible assumption

/-- The parts State.stopRamp touches. -/
def State.stopRamp_foot : List Part := [.reg .iSSC_WAIT, .reg .iSSC_RAMP]

theorem State.stopRamp_touches {W : List Part} {σ τ : State} {k : Nat} (hW : ∀ p ∈ State.stopRamp_foot, p ∈ W)
    (hT : Touches W σ τ) : Touches W σ (State.stopRamp τ k) := by
  unfold State.stopRamp
  try dsimp only
  repeat' first
    | with_reducible apply Touches.ite
    | with_reducible refine State.setReg_touches (hW _ (by first | (simp [State.stopRamp_foot]; done) | (split <;> simp [State.stopRamp_foot] <;> done) | ((repeat' split) <;> simp [State.stopRamp_foot])))  ?_
    | split
    | with_reducible refine forN_touches ?_ (fun x k hx => ?_)
    | with_reducible refine foldl_touches ?_ (fun x a hx => ?_)
    | with_reducible refine foldlSnd_touches ?_ (fun x a hx => ?_)
    | with_reducible assumption

/-- The parts State.toBypass touches. -/
def State.toBypass_foot : List Part := [.reg .iCK_OUT, .reg .iCK_START] ++ State.showFreq_foot ++ State.setPll_foot ++ State.stopRamp_foot

theorem State.toBypass_touches {W : List Part} {σ τ : State} {k : Nat} (hW : ∀ p ∈ State.toBypass_foot, p ∈ W)
    (hT : Touches W σ τ) : Touches W σ (State.toBypass τ k) := by
  unfold State.toBypass
  try dsimp only
  repeat' first
    | with_reducible apply Touches.ite
    | with_reducible refine State.setReg_touches (hW _ (by first | (simp [State.toBypass_foot]; done) | (split <;> simp [State.toBypass_foot] <;> done) | ((repeat' split) <;> simp [State.toBypass_foot])))  ?_
    | with_reducible refine State.showFreq_touches (fun p hp => hW p (by unfold State.toBypass_foot; repeat first | with_reducible exact hp | with_reducible exact List.mem_append_right _ hp | with_reducible apply List.mem_append_left)) ?_
    | with_reducible refine State.setPll_touches (fun p hp => hW p (by unfold State.toBypass_foot; repeat first | with_reducible exact hp | with_reducible exact List.mem_append_right _ hp | with_reducible apply List.mem_append_left)) ?_
    | with_reducible refine State.stopRamp_touches (fun p hp => hW p (by unfold State.toBypass_foot; repeat first | with_reducible exact hp | with_reducible exact List.mem_append_right _ hp | with_reducible apply List.mem_append_left)) ?_
    | split
    | with_reducible refine forN_touches ?_ (fun x k hx => ?_)
    | with_reducible refine foldl_touches ?_ (fun x a hx => ?_)
    | with_reducible refine foldlSnd_touches ?_ (fun x a hx => ?_)
    | with_reducible assumption

/-- The parts State.pllFailed touches. -/
def State.pllFailed_foot : List Part := [.reg .iCK_FAILS] ++ State.setPll_foot

theorem State.pllFailed_touches {W : List Part} {σ τ : State} {k : Nat} (hW : ∀ p ∈ State.pllFailed_foot, p ∈ W)
    (hT : Touches W σ τ) : Touches W σ (State.pllFailed τ k) := by
  unfold State.pllFailed
  try dsimp only
  repeat' first
    | with_reducible apply Touches.ite
    | with_reducible refine State.setReg_touches (hW _ (by first | (simp [State.pllFailed_foot]; done) | (split <;> simp [State.pllFailed_foot] <;> done) | ((repeat' split) <;> simp [State.pllFailed_foot])))  ?_
    | with_reducible refine State.setPll_touches (fun p hp => hW p (by unfold State.pllFailed_foot; repeat first | with_reducible exact hp | with_reducible exact List.mem_append_right _ hp | with_reducible apply List.mem_append_left)) ?_
    | split
    | with_reducible refine forN_touches ?_ (fun x k hx => ?_)
    | with_reducible refine foldl_touches ?_ (fun x a hx => ?_)
    | with_reducible refine foldlSnd_touches ?_ (fun x a hx => ?_)
    | with_reducible assumption

/-- The parts State.startRamp touches. -/
def State.startRamp_foot : List Part := [.reg .iSSC_AT, .reg .iSSC_RAMP]

theorem State.startRamp_touches {W : List Part} {σ τ : State} {k : Nat} (hW : ∀ p ∈ State.startRamp_foot, p ∈ W)
    (hT : Touches W σ τ) : Touches W σ (State.startRamp τ k) := by
  unfold State.startRamp
  try dsimp only
  repeat' first
    | with_reducible apply Touches.ite
    | with_reducible refine State.setReg_touches (hW _ (by first | (simp [State.startRamp_foot]; done) | (split <;> simp [State.startRamp_foot] <;> done) | ((repeat' split) <;> simp [State.startRamp_foot])))  ?_
    | split
    | with_reducible refine forN_touches ?_ (fun x k hx => ?_)
    | with_reducible refine foldl_touches ?_ (fun x a hx => ?_)
    | with_reducible refine foldlSnd_touches ?_ (fun x a hx => ?_)
    | with_reducible assumption

/-- The parts State.spreadSet touches. -/
def State.spreadSet_foot : List Part := [.reg .iSSC_WAIT] ++ State.startRamp_foot

theorem State.spreadSet_touches {W : List Part} {σ τ : State} {k : Nat} (hW : ∀ p ∈ State.spreadSet_foot, p ∈ W)
    (hT : Touches W σ τ) : Touches W σ (State.spreadSet τ k) := by
  unfold State.spreadSet
  try dsimp only
  repeat' first
    | with_reducible apply Touches.ite
    | with_reducible refine State.startRamp_touches (fun p hp => hW p (by unfold State.spreadSet_foot; repeat first | with_reducible exact hp | with_reducible exact List.mem_append_right _ hp | with_reducible apply List.mem_append_left)) ?_
    | with_reducible refine State.setReg_touches (hW _ (by first | (simp [State.spreadSet_foot]; done) | (split <;> simp [State.spreadSet_foot] <;> done) | ((repeat' split) <;> simp [State.spreadSet_foot])))  ?_
    | split
    | with_reducible refine forN_touches ?_ (fun x k hx => ?_)
    | with_reducible refine foldl_touches ?_ (fun x a hx => ?_)
    | with_reducible refine foldlSnd_touches ?_ (fun x a hx => ?_)
    | with_reducible assumption

/-- The parts State.keepBand touches. -/
def State.keepBand_foot : List Part := [.reg .CK_BAND_TABLE, .fld .keepPending]

theorem State.keepBand_touches {W : List Part} {σ τ : State} {k : Nat} {band : Nat} {used : Option Nat} (hW : ∀ p ∈ State.keepBand_foot, p ∈ W)
    (hT : Touches W σ τ) : Touches W σ (State.keepBand τ k band used) := by
  unfold State.keepBand
  try dsimp only
  repeat' first
    | with_reducible apply Touches.ite
    | with_reducible refine State.putReg_touches (hW _ (by first | (simp [State.keepBand_foot]; done) | (split <;> simp [State.keepBand_foot] <;> done) | ((repeat' split) <;> simp [State.keepBand_foot]))) (hW _ (by simp [State.keepBand_foot])) ?_
    | split
    | with_reducible refine forN_touches ?_ (fun x k hx => ?_)
    | with_reducible refine foldl_touches ?_ (fun x a hx => ?_)
    | with_reducible refine foldlSnd_touches ?_ (fun x a hx => ?_)
    | with_reducible assumption

end Sys2Proof.Machine
end

