-- ==== Sys2Proof/Laws/TouchesHazel.lean ====
section
/-! SUPPORT. What the functions of Machine/Hazel.lean touch. -/
namespace Sys2Proof.Machine
set_option linter.all false

/-- The parts State.refreshFences touches. -/
def State.refreshFences_foot : List Part := [.reg .CL_FENCED, .reg .HZ_ENGINES_FENCED]

theorem State.refreshFences_touches {W : List Part} {σ τ : State} {n : Nat} (hW : ∀ p ∈ State.refreshFences_foot, p ∈ W)
    (hT : Touches W σ τ) : Touches W σ (State.refreshFences τ n) := by
  unfold State.refreshFences
  try dsimp only
  repeat' first
    | with_reducible apply Touches.ite
    | with_reducible refine State.setReg_touches (hW _ (by first | (simp [State.refreshFences_foot]; done) | (split <;> simp [State.refreshFences_foot] <;> done) | ((repeat' split) <;> simp [State.refreshFences_foot])))  ?_
    | split
    | with_reducible refine forN_touches ?_ (fun x k hx => ?_)
    | with_reducible refine foldl_touches ?_ (fun x a hx => ?_)
    | with_reducible refine foldlSnd_touches ?_ (fun x a hx => ?_)
    | with_reducible assumption

/-- The parts State.setCluster touches. -/
def State.setCluster_foot : List Part := [.reg .HZ_ACTIVE, .reg .CL_STATE]

theorem State.setCluster_touches {W : List Part} {σ τ : State} {n : Nat} {st : Nat} (hW : ∀ p ∈ State.setCluster_foot, p ∈ W)
    (hT : Touches W σ τ) : Touches W σ (State.setCluster τ n st) := by
  unfold State.setCluster
  try dsimp only
  repeat' first
    | with_reducible apply Touches.ite
    | with_reducible refine State.setReg_touches (hW _ (by first | (simp [State.setCluster_foot]; done) | (split <;> simp [State.setCluster_foot] <;> done) | ((repeat' split) <;> simp [State.setCluster_foot])))  ?_
    | split
    | with_reducible refine forN_touches ?_ (fun x k hx => ?_)
    | with_reducible refine foldl_touches ?_ (fun x a hx => ?_)
    | with_reducible refine foldlSnd_touches ?_ (fun x a hx => ?_)
    | with_reducible assumption

/-- The parts State.requeue touches. -/
def State.requeue_foot : List Part := [.fld .requeued, .fld .held]

theorem State.requeue_touches {W : List Part} {σ τ : State} {n : Nat} (hW : ∀ p ∈ State.requeue_foot, p ∈ W)
    (hT : Touches W σ τ) : Touches W σ (State.requeue τ n) := by
  unfold State.requeue
  try dsimp only
  repeat' first
    | with_reducible apply Touches.ite
    | split
    | with_reducible refine forN_touches ?_ (fun x k hx => ?_)
    | with_reducible refine foldl_touches ?_ (fun x a hx => ?_)
    | with_reducible refine foldlSnd_touches ?_ (fun x a hx => ?_)
    | with_reducible assumption
    | with_reducible refine touches_mk (fun f => by cases f <;> first | exact .inr (by with_reducible rfl) | exact .inl (hW _ (by simp [State.requeue_foot]))) ?_

/-- The parts State.abandonHeld touches. -/
def State.abandonHeld_foot : List Part := [.fld .held]

theorem State.abandonHeld_touches {W : List Part} {σ τ : State} {n : Nat} (hW : ∀ p ∈ State.abandonHeld_foot, p ∈ W)
    (hT : Touches W σ τ) : Touches W σ (State.abandonHeld τ n) := by
  unfold State.abandonHeld
  try dsimp only
  repeat' first
    | with_reducible apply Touches.ite
    | split
    | with_reducible refine forN_touches ?_ (fun x k hx => ?_)
    | with_reducible refine foldl_touches ?_ (fun x a hx => ?_)
    | with_reducible refine foldlSnd_touches ?_ (fun x a hx => ?_)
    | with_reducible assumption
    | with_reducible refine touches_mk (fun f => by cases f <;> first | exact .inr (by with_reducible rfl) | exact .inl (hW _ (by simp [State.abandonHeld_foot]))) ?_

/-- The parts State.shortCheck touches. -/
def State.shortCheck_foot : List Part := [.reg .HZ_SHORT] ++ State.raise_foot

theorem State.shortCheck_touches {W : List Part} {σ τ : State} {surf : Nat} (hW : ∀ p ∈ State.shortCheck_foot, p ∈ W)
    (hT : Touches W σ τ) : Touches W σ (State.shortCheck τ surf) := by
  unfold State.shortCheck
  try dsimp only
  repeat' first
    | with_reducible apply Touches.ite
    | with_reducible refine State.raise_touches (fun p hp => hW p (by unfold State.shortCheck_foot; repeat first | with_reducible exact hp | with_reducible exact List.mem_append_right _ hp | with_reducible apply List.mem_append_left)) ?_
    | with_reducible refine State.setReg_touches (hW _ (by first | (simp [State.shortCheck_foot]; done) | (split <;> simp [State.shortCheck_foot] <;> done) | ((repeat' split) <;> simp [State.shortCheck_foot])))  ?_
    | split
    | with_reducible refine forN_touches ?_ (fun x k hx => ?_)
    | with_reducible refine foldl_touches ?_ (fun x a hx => ?_)
    | with_reducible refine foldlSnd_touches ?_ (fun x a hx => ?_)
    | with_reducible assumption

/-- The parts State.capacityLost touches. -/
def State.capacityLost_foot : List Part := State.shortCheck_foot

theorem State.capacityLost_touches {W : List Part} {σ τ : State}  (hW : ∀ p ∈ State.capacityLost_foot, p ∈ W)
    (hT : Touches W σ τ) : Touches W σ (State.capacityLost τ) := by
  unfold State.capacityLost
  try dsimp only
  repeat' first
    | with_reducible apply Touches.ite
    | with_reducible refine State.shortCheck_touches (fun p hp => hW p (by unfold State.capacityLost_foot; repeat first | with_reducible exact hp | with_reducible exact List.mem_append_right _ hp | with_reducible apply List.mem_append_left)) ?_
    | split
    | with_reducible refine forN_touches ?_ (fun x k hx => ?_)
    | with_reducible refine foldl_touches ?_ (fun x a hx => ?_)
    | with_reducible refine foldlSnd_touches ?_ (fun x a hx => ?_)
    | with_reducible assumption

/-- The parts State.shortClear touches. -/
def State.shortClear_foot : List Part := [.reg .HZ_SHORT]

theorem State.shortClear_touches {W : List Part} {σ τ : State} {surf : Nat} (hW : ∀ p ∈ State.shortClear_foot, p ∈ W)
    (hT : Touches W σ τ) : Touches W σ (State.shortClear τ surf) := by
  unfold State.shortClear
  try dsimp only
  repeat' first
    | with_reducible apply Touches.ite
    | with_reducible refine State.setReg_touches (hW _ (by first | (simp [State.shortClear_foot]; done) | (split <;> simp [State.shortClear_foot] <;> done) | ((repeat' split) <;> simp [State.shortClear_foot])))  ?_
    | split
    | with_reducible refine forN_touches ?_ (fun x k hx => ?_)
    | with_reducible refine foldl_touches ?_ (fun x a hx => ?_)
    | with_reducible refine foldlSnd_touches ?_ (fun x a hx => ?_)
    | with_reducible assumption

/-- The parts State.hazelFault touches. -/
def State.hazelFault_foot : List Part := [.reg .CL_LAST_FAULT] ++ State.raise_foot

theorem State.hazelFault_touches {W : List Part} {σ τ : State} {n : Nat} {mask : Nat} {cause : Nat} (hW : ∀ p ∈ State.hazelFault_foot, p ∈ W)
    (hT : Touches W σ τ) : Touches W σ (State.hazelFault τ n mask cause) := by
  unfold State.hazelFault
  try dsimp only
  repeat' first
    | with_reducible apply Touches.ite
    | with_reducible refine State.raise_touches (fun p hp => hW p (by unfold State.hazelFault_foot; repeat first | with_reducible exact hp | with_reducible exact List.mem_append_right _ hp | with_reducible apply List.mem_append_left)) ?_
    | with_reducible refine State.setReg_touches (hW _ (by first | (simp [State.hazelFault_foot]; done) | (split <;> simp [State.hazelFault_foot] <;> done) | ((repeat' split) <;> simp [State.hazelFault_foot])))  ?_
    | split
    | with_reducible refine forN_touches ?_ (fun x k hx => ?_)
    | with_reducible refine foldl_touches ?_ (fun x a hx => ?_)
    | with_reducible refine foldlSnd_touches ?_ (fun x a hx => ?_)
    | with_reducible assumption

/-- The parts State.fenceCluster touches. -/
def State.fenceCluster_foot : List Part := [.reg .iCL_PASSED, .reg .iCL_SELFTEST, .reg .CL_FAULT_MASK, .fld .keepPending] ++ State.refreshFences_foot ++ State.capacityLost_foot ++ State.hazelFault_foot ++ State.requeue_foot ++ State.setCluster_foot

theorem State.fenceCluster_touches {W : List Part} {σ τ : State} {n : Nat} {cause : Nat} (hW : ∀ p ∈ State.fenceCluster_foot, p ∈ W)
    (hT : Touches W σ τ) : Touches W σ (State.fenceCluster τ n cause) := by
  unfold State.fenceCluster
  try dsimp only
  repeat' first
    | with_reducible apply Touches.ite
    | with_reducible refine State.setReg_touches (hW _ (by first | (simp [State.fenceCluster_foot]; done) | (split <;> simp [State.fenceCluster_foot] <;> done) | ((repeat' split) <;> simp [State.fenceCluster_foot])))  ?_
    | with_reducible refine State.refreshFences_touches (fun p hp => hW p (by unfold State.fenceCluster_foot; repeat first | with_reducible exact hp | with_reducible exact List.mem_append_right _ hp | with_reducible apply List.mem_append_left)) ?_
    | with_reducible refine State.noteKeep_touches (hW _ (by simp [State.fenceCluster_foot])) ?_
    | with_reducible refine State.capacityLost_touches (fun p hp => hW p (by unfold State.fenceCluster_foot; repeat first | with_reducible exact hp | with_reducible exact List.mem_append_right _ hp | with_reducible apply List.mem_append_left)) ?_
    | with_reducible refine State.hazelFault_touches (fun p hp => hW p (by unfold State.fenceCluster_foot; repeat first | with_reducible exact hp | with_reducible exact List.mem_append_right _ hp | with_reducible apply List.mem_append_left)) ?_
    | with_reducible refine State.requeue_touches (fun p hp => hW p (by unfold State.fenceCluster_foot; repeat first | with_reducible exact hp | with_reducible exact List.mem_append_right _ hp | with_reducible apply List.mem_append_left)) ?_
    | with_reducible refine State.setCluster_touches (fun p hp => hW p (by unfold State.fenceCluster_foot; repeat first | with_reducible exact hp | with_reducible exact List.mem_append_right _ hp | with_reducible apply List.mem_append_left)) ?_
    | split
    | with_reducible refine forN_touches ?_ (fun x k hx => ?_)
    | with_reducible refine foldl_touches ?_ (fun x a hx => ?_)
    | with_reducible refine foldlSnd_touches ?_ (fun x a hx => ?_)
    | with_reducible assumption

/-- The parts State.fenceEngines touches. -/
def State.fenceEngines_foot : List Part := [.reg .CL_FAULT_MASK, .fld .keepPending] ++ State.refreshFences_foot ++ State.hazelFault_foot ++ State.fenceCluster_foot ++ State.capacityLost_foot

theorem State.fenceEngines_touches {W : List Part} {σ τ : State} {n : Nat} {mask : Nat} {cause : Nat} (hW : ∀ p ∈ State.fenceEngines_foot, p ∈ W)
    (hT : Touches W σ τ) : Touches W σ (State.fenceEngines τ n mask cause) := by
  unfold State.fenceEngines
  try dsimp only
  repeat' first
    | with_reducible apply Touches.ite
    | with_reducible refine State.refreshFences_touches (fun p hp => hW p (by unfold State.fenceEngines_foot; repeat first | with_reducible exact hp | with_reducible exact List.mem_append_right _ hp | with_reducible apply List.mem_append_left)) ?_
    | with_reducible refine State.noteKeep_touches (hW _ (by simp [State.fenceEngines_foot])) ?_
    | with_reducible refine State.setReg_touches (hW _ (by first | (simp [State.fenceEngines_foot]; done) | (split <;> simp [State.fenceEngines_foot] <;> done) | ((repeat' split) <;> simp [State.fenceEngines_foot])))  ?_
    | with_reducible refine State.hazelFault_touches (fun p hp => hW p (by unfold State.fenceEngines_foot; repeat first | with_reducible exact hp | with_reducible exact List.mem_append_right _ hp | with_reducible apply List.mem_append_left)) ?_
    | with_reducible refine State.fenceCluster_touches (fun p hp => hW p (by unfold State.fenceEngines_foot; repeat first | with_reducible exact hp | with_reducible exact List.mem_append_right _ hp | with_reducible apply List.mem_append_left)) ?_
    | with_reducible refine State.capacityLost_touches (fun p hp => hW p (by unfold State.fenceEngines_foot; repeat first | with_reducible exact hp | with_reducible exact List.mem_append_right _ hp | with_reducible apply List.mem_append_left)) ?_
    | split
    | with_reducible refine forN_touches ?_ (fun x k hx => ?_)
    | with_reducible refine foldl_touches ?_ (fun x a hx => ?_)
    | with_reducible refine foldlSnd_touches ?_ (fun x a hx => ?_)
    | with_reducible assumption

/-- The parts execEngineFaultFence touches. -/
def execEngineFaultFence_foot : List Part := State.fenceEngines_foot

theorem execEngineFaultFence_touches {W : List Part} {σ τ : State} {n : Fin 16} {mask : BitVec 16} {regFile : Bool} (hW : ∀ p ∈ execEngineFaultFence_foot, p ∈ W)
    (hT : Touches W σ τ) : OutTouches W σ (execEngineFaultFence n mask regFile τ) := by
  unfold execEngineFaultFence
  try dsimp only
  repeat' first
    | with_reducible apply OutTouches.ite
    | with_reducible refine OutTouches.next ?_
    | with_reducible apply Touches.ite
    | with_reducible refine State.fenceEngines_touches (fun p hp => hW p (by unfold execEngineFaultFence_foot; repeat first | with_reducible exact hp | with_reducible exact List.mem_append_right _ hp | with_reducible apply List.mem_append_left)) ?_
    | split
    | with_reducible refine forN_touches ?_ (fun x k hx => ?_)
    | with_reducible refine foldl_touches ?_ (fun x a hx => ?_)
    | with_reducible refine foldlSnd_touches ?_ (fun x a hx => ?_)
    | with_reducible assumption

/-- The parts execHogelOverrun touches. -/
def execHogelOverrun_foot : List Part := State.fenceEngines_foot

theorem execHogelOverrun_touches {W : List Part} {σ τ : State} {n : Fin 16} {mask : BitVec 16} {cycles : Nat} (hW : ∀ p ∈ execHogelOverrun_foot, p ∈ W)
    (hT : Touches W σ τ) : OutTouches W σ (execHogelOverrun n mask cycles τ) := by
  unfold execHogelOverrun
  try dsimp only
  repeat' first
    | with_reducible apply OutTouches.ite
    | with_reducible refine OutTouches.next ?_
    | with_reducible apply Touches.ite
    | with_reducible refine State.fenceEngines_touches (fun p hp => hW p (by unfold execHogelOverrun_foot; repeat first | with_reducible exact hp | with_reducible exact List.mem_append_right _ hp | with_reducible apply List.mem_append_left)) ?_
    | split
    | with_reducible refine forN_touches ?_ (fun x k hx => ?_)
    | with_reducible refine foldl_touches ?_ (fun x a hx => ?_)
    | with_reducible refine foldlSnd_touches ?_ (fun x a hx => ?_)
    | with_reducible assumption

/-- The parts execClusterFaultFence touches. -/
def execClusterFaultFence_foot : List Part := State.fenceCluster_foot

theorem execClusterFaultFence_touches {W : List Part} {σ τ : State} {n : Fin 16} {decoder : Bool} (hW : ∀ p ∈ execClusterFaultFence_foot, p ∈ W)
    (hT : Touches W σ τ) : OutTouches W σ (execClusterFaultFence n decoder τ) := by
  unfold execClusterFaultFence
  try dsimp only
  repeat' first
    | with_reducible apply OutTouches.ite
    | with_reducible refine OutTouches.next ?_
    | with_reducible apply Touches.ite
    | with_reducible refine State.fenceCluster_touches (fun p hp => hW p (by unfold execClusterFaultFence_foot; repeat first | with_reducible exact hp | with_reducible exact List.mem_append_right _ hp | with_reducible apply List.mem_append_left)) ?_
    | split
    | with_reducible refine forN_touches ?_ (fun x k hx => ?_)
    | with_reducible refine foldl_touches ?_ (fun x a hx => ?_)
    | with_reducible refine foldlSnd_touches ?_ (fun x a hx => ?_)
    | with_reducible assumption

/-- The parts State.applyArr touches. -/
def State.applyArr_foot : List Part := [.reg .iARR_SEEN, .reg .iARR, .fld .keepPending]

theorem State.applyArr_touches {W : List Part} {σ τ : State} {ix : Nat} {r : Reg} {i : Nat}
    (h_r : Part.reg r ∈ W) (hW : ∀ p ∈ State.applyArr_foot, p ∈ W)
    (hT : Touches W σ τ) : Touches W σ (State.applyArr τ ix r i) := by
  unfold State.applyArr
  try dsimp only
  repeat' first
    | with_reducible apply Touches.ite
    | with_reducible refine State.setReg_touches (by first | assumption | exact (hW _ (by first | (simp [State.applyArr_foot]; done) | (split <;> simp [State.applyArr_foot] <;> done) | ((repeat' split) <;> simp [State.applyArr_foot]))))  ?_
    | with_reducible refine State.putReg_touches (by first | assumption | exact (hW _ (by first | (simp [State.applyArr_foot]; done) | (split <;> simp [State.applyArr_foot] <;> done) | ((repeat' split) <;> simp [State.applyArr_foot])))) (hW _ (by simp [State.applyArr_foot])) ?_
    | split
    | with_reducible refine forN_touches ?_ (fun x k hx => ?_)
    | with_reducible refine foldl_touches ?_ (fun x a hx => ?_)
    | with_reducible refine foldlSnd_touches ?_ (fun x a hx => ?_)
    | with_reducible assumption

/-- The parts State.applySpread touches. -/
def State.applySpread_foot : List Part := [.reg .CK_SSC] ++ State.applyArr_foot ++ State.spreadSet_foot

theorem State.applySpread_touches {W : List Part} {σ τ : State} {k : Nat} (hW : ∀ p ∈ State.applySpread_foot, p ∈ W)
    (hT : Touches W σ τ) : Touches W σ (State.applySpread τ k) := by
  unfold State.applySpread
  try dsimp only
  repeat' first
    | with_reducible apply Touches.ite
    | with_reducible refine State.applyArr_touches (hW _ (by first | (simp [State.applySpread_foot]; done) | (split <;> simp [State.applySpread_foot] <;> done) | ((repeat' split) <;> simp [State.applySpread_foot]))) (fun p hp => hW p (by unfold State.applySpread_foot; repeat first | with_reducible exact hp | with_reducible exact List.mem_append_right _ hp | with_reducible apply List.mem_append_left)) ?_
    | with_reducible refine State.spreadSet_touches (fun p hp => hW p (by unfold State.applySpread_foot; repeat first | with_reducible exact hp | with_reducible exact List.mem_append_right _ hp | with_reducible apply List.mem_append_left)) ?_
    | split
    | with_reducible refine forN_touches ?_ (fun x k hx => ?_)
    | with_reducible refine foldl_touches ?_ (fun x a hx => ?_)
    | with_reducible refine foldlSnd_touches ?_ (fun x a hx => ?_)
    | with_reducible assumption

/-- The parts State.applyArrCl touches. -/
def State.applyArrCl_foot : List Part := [.reg .iARR_SEEN, .reg .iARR_CL, .fld .keepPending]

theorem State.applyArrCl_touches {W : List Part} {σ τ : State} {ix : Nat} {r : Reg} {i : Nat}
    (h_r : Part.reg r ∈ W) (hW : ∀ p ∈ State.applyArrCl_foot, p ∈ W)
    (hT : Touches W σ τ) : Touches W σ (State.applyArrCl τ ix r i) := by
  unfold State.applyArrCl
  try dsimp only
  repeat' first
    | with_reducible apply Touches.ite
    | with_reducible refine State.setReg_touches (by first | assumption | exact (hW _ (by first | (simp [State.applyArrCl_foot]; done) | (split <;> simp [State.applyArrCl_foot] <;> done) | ((repeat' split) <;> simp [State.applyArrCl_foot]))))  ?_
    | with_reducible refine State.putReg_touches (by first | assumption | exact (hW _ (by first | (simp [State.applyArrCl_foot]; done) | (split <;> simp [State.applyArrCl_foot] <;> done) | ((repeat' split) <;> simp [State.applyArrCl_foot])))) (hW _ (by simp [State.applyArrCl_foot])) ?_
    | split
    | with_reducible refine forN_touches ?_ (fun x k hx => ?_)
    | with_reducible refine foldl_touches ?_ (fun x a hx => ?_)
    | with_reducible refine foldlSnd_touches ?_ (fun x a hx => ?_)
    | with_reducible assumption

/-- The parts State.startSelfTest touches. -/
def State.startSelfTest_foot : List Part := [.reg .iCL_SELFTEST] ++ State.setCluster_foot

theorem State.startSelfTest_touches {W : List Part} {σ τ : State} {n : Nat} (hW : ∀ p ∈ State.startSelfTest_foot, p ∈ W)
    (hT : Touches W σ τ) : Touches W σ (State.startSelfTest τ n) := by
  unfold State.startSelfTest
  try dsimp only
  repeat' first
    | with_reducible apply Touches.ite
    | with_reducible refine State.setReg_touches (hW _ (by first | (simp [State.startSelfTest_foot]; done) | (split <;> simp [State.startSelfTest_foot] <;> done) | ((repeat' split) <;> simp [State.startSelfTest_foot])))  ?_
    | with_reducible refine State.setCluster_touches (fun p hp => hW p (by unfold State.startSelfTest_foot; repeat first | with_reducible exact hp | with_reducible exact List.mem_append_right _ hp | with_reducible apply List.mem_append_left)) ?_
    | split
    | with_reducible refine forN_touches ?_ (fun x k hx => ?_)
    | with_reducible refine foldl_touches ?_ (fun x a hx => ?_)
    | with_reducible refine foldlSnd_touches ?_ (fun x a hx => ?_)
    | with_reducible assumption

/-- The parts State.stepFences touches. -/
def State.stepFences_foot : List Part := [.reg .iFENCE_HOST, .fld .grants, .fld .highReqs, .fld .normalReqs] ++ State.refreshFences_foot ++ State.requeue_foot ++ State.setCluster_foot ++ State.startSelfTest_foot

theorem State.stepFences_touches {W : List Part} {σ τ : State} {n : Nat} (hW : ∀ p ∈ State.stepFences_foot, p ∈ W)
    (hT : Touches W σ τ) : Touches W σ (State.stepFences τ n) := by
  unfold State.stepFences
  try dsimp only
  repeat' first
    | with_reducible apply Touches.ite
    | with_reducible refine State.refreshFences_touches (fun p hp => hW p (by unfold State.stepFences_foot; repeat first | with_reducible exact hp | with_reducible exact List.mem_append_right _ hp | with_reducible apply List.mem_append_left)) ?_
    | with_reducible refine State.setReg_touches (hW _ (by first | (simp [State.stepFences_foot]; done) | (split <;> simp [State.stepFences_foot] <;> done) | ((repeat' split) <;> simp [State.stepFences_foot])))  ?_
    | with_reducible refine State.requeue_touches (fun p hp => hW p (by unfold State.stepFences_foot; repeat first | with_reducible exact hp | with_reducible exact List.mem_append_right _ hp | with_reducible apply List.mem_append_left)) ?_
    | with_reducible refine State.setCluster_touches (fun p hp => hW p (by unfold State.stepFences_foot; repeat first | with_reducible exact hp | with_reducible exact List.mem_append_right _ hp | with_reducible apply List.mem_append_left)) ?_
    | with_reducible refine State.release_touches (hW _ (by simp [State.stepFences_foot])) (hW _ (by simp [State.stepFences_foot])) (hW _ (by simp [State.stepFences_foot])) ?_
    | with_reducible refine State.request_touches (hW _ (by simp [State.stepFences_foot])) (hW _ (by simp [State.stepFences_foot])) ?_
    | with_reducible refine State.startSelfTest_touches (fun p hp => hW p (by unfold State.stepFences_foot; repeat first | with_reducible exact hp | with_reducible exact List.mem_append_right _ hp | with_reducible apply List.mem_append_left)) ?_
    | split
    | with_reducible refine forN_touches ?_ (fun x k hx => ?_)
    | with_reducible refine foldl_touches ?_ (fun x a hx => ?_)
    | with_reducible refine foldlSnd_touches ?_ (fun x a hx => ?_)
    | with_reducible assumption

/-- The parts State.clearFault touches. -/
def State.clearFault_foot : List Part := [.reg .CL_FAULT_MASK, .fld .keepPending] ++ State.refreshFences_foot

theorem State.clearFault_touches {W : List Part} {σ τ : State} {n : Nat} {m : Nat} (hW : ∀ p ∈ State.clearFault_foot, p ∈ W)
    (hT : Touches W σ τ) : Touches W σ (State.clearFault τ n m) := by
  unfold State.clearFault
  try dsimp only
  repeat' first
    | with_reducible apply Touches.ite
    | with_reducible refine State.refreshFences_touches (fun p hp => hW p (by unfold State.clearFault_foot; repeat first | with_reducible exact hp | with_reducible exact List.mem_append_right _ hp | with_reducible apply List.mem_append_left)) ?_
    | with_reducible refine State.noteKeep_touches (hW _ (by simp [State.clearFault_foot])) ?_
    | with_reducible refine State.setReg_touches (hW _ (by first | (simp [State.clearFault_foot]; done) | (split <;> simp [State.clearFault_foot] <;> done) | ((repeat' split) <;> simp [State.clearFault_foot])))  ?_
    | split
    | with_reducible refine forN_touches ?_ (fun x k hx => ?_)
    | with_reducible refine foldl_touches ?_ (fun x a hx => ?_)
    | with_reducible refine foldlSnd_touches ?_ (fun x a hx => ?_)
    | with_reducible assumption

/-- The parts State.returnCluster touches. -/
def State.returnCluster_foot : List Part := [.reg .iCL_RELOAD, .reg .CL_PROG_SLOT] ++ State.setCluster_foot ++ State.clearFault_foot

theorem State.returnCluster_touches {W : List Part} {σ τ : State} {n : Nat} (hW : ∀ p ∈ State.returnCluster_foot, p ∈ W)
    (hT : Touches W σ τ) : Touches W σ (State.returnCluster τ n) := by
  unfold State.returnCluster
  try dsimp only
  repeat' first
    | with_reducible apply Touches.ite
    | with_reducible refine State.setReg_touches (hW _ (by first | (simp [State.returnCluster_foot]; done) | (split <;> simp [State.returnCluster_foot] <;> done) | ((repeat' split) <;> simp [State.returnCluster_foot])))  ?_
    | with_reducible refine State.setCluster_touches (fun p hp => hW p (by unfold State.returnCluster_foot; repeat first | with_reducible exact hp | with_reducible exact List.mem_append_right _ hp | with_reducible apply List.mem_append_left)) ?_
    | with_reducible refine cond_touches ?_ (fun x hx => ?_)
    | with_reducible refine State.clearFault_touches (fun p hp => hW p (by unfold State.returnCluster_foot; repeat first | with_reducible exact hp | with_reducible exact List.mem_append_right _ hp | with_reducible apply List.mem_append_left)) ?_
    | split
    | with_reducible refine forN_touches ?_ (fun x k hx => ?_)
    | with_reducible refine foldl_touches ?_ (fun x a hx => ?_)
    | with_reducible refine foldlSnd_touches ?_ (fun x a hx => ?_)
    | with_reducible assumption

/-- The parts State.stepReturn touches. -/
def State.stepReturn_foot : List Part := [.reg .iCL_PASSED] ++ State.returnCluster_foot ++ State.clearFault_foot

theorem State.stepReturn_touches {W : List Part} {σ τ : State} {n : Nat} (hW : ∀ p ∈ State.stepReturn_foot, p ∈ W)
    (hT : Touches W σ τ) : Touches W σ (State.stepReturn τ n) := by
  unfold State.stepReturn
  try dsimp only
  repeat' first
    | with_reducible apply Touches.ite
    | with_reducible refine State.setReg_touches (hW _ (by first | (simp [State.stepReturn_foot]; done) | (split <;> simp [State.stepReturn_foot] <;> done) | ((repeat' split) <;> simp [State.stepReturn_foot])))  ?_
    | with_reducible refine cond_touches ?_ (fun x hx => ?_)
    | with_reducible refine State.returnCluster_touches (fun p hp => hW p (by unfold State.stepReturn_foot; repeat first | with_reducible exact hp | with_reducible exact List.mem_append_right _ hp | with_reducible apply List.mem_append_left)) ?_
    | with_reducible refine State.clearFault_touches (fun p hp => hW p (by unfold State.stepReturn_foot; repeat first | with_reducible exact hp | with_reducible exact List.mem_append_right _ hp | with_reducible apply List.mem_append_left)) ?_
    | split
    | with_reducible refine forN_touches ?_ (fun x k hx => ?_)
    | with_reducible refine foldl_touches ?_ (fun x a hx => ?_)
    | with_reducible refine foldlSnd_touches ?_ (fun x a hx => ?_)
    | with_reducible assumption

/-- The parts State.endSwap touches. -/
def State.endSwap_foot : List Part := [.reg .iSWAP_SLOT, .reg .HZ_SWAP_CLUSTER, .reg .iCL_RELOAD]

theorem State.endSwap_touches {W : List Part} {σ τ : State}  (hW : ∀ p ∈ State.endSwap_foot, p ∈ W)
    (hT : Touches W σ τ) : Touches W σ (State.endSwap τ) := by
  unfold State.endSwap
  try dsimp only
  repeat' first
    | with_reducible apply Touches.ite
    | with_reducible refine State.setReg_touches (hW _ (by first | (simp [State.endSwap_foot]; done) | (split <;> simp [State.endSwap_foot] <;> done) | ((repeat' split) <;> simp [State.endSwap_foot])))  ?_
    | split
    | with_reducible refine forN_touches ?_ (fun x k hx => ?_)
    | with_reducible refine foldl_touches ?_ (fun x a hx => ?_)
    | with_reducible refine foldlSnd_touches ?_ (fun x a hx => ?_)
    | with_reducible assumption

/-- The parts State.stepSwap touches. -/
def State.stepSwap_foot : List Part := [.reg .iCL_RELOAD, .reg .HZ_SWAP_CLUSTER, .reg .HZ_SWAP_STATE] ++ State.setCluster_foot ++ State.endSwap_foot

theorem State.stepSwap_touches {W : List Part} {σ τ : State}  (hW : ∀ p ∈ State.stepSwap_foot, p ∈ W)
    (hT : Touches W σ τ) : Touches W σ (State.stepSwap τ) := by
  unfold State.stepSwap
  try dsimp only
  repeat' first
    | with_reducible apply Touches.ite
    | with_reducible refine State.setReg_touches (hW _ (by first | (simp [State.stepSwap_foot]; done) | (split <;> simp [State.stepSwap_foot] <;> done) | ((repeat' split) <;> simp [State.stepSwap_foot])))  ?_
    | with_reducible refine State.setCluster_touches (fun p hp => hW p (by unfold State.stepSwap_foot; repeat first | with_reducible exact hp | with_reducible exact List.mem_append_right _ hp | with_reducible apply List.mem_append_left)) ?_
    | with_reducible refine State.endSwap_touches (fun p hp => hW p (by unfold State.stepSwap_foot; repeat first | with_reducible exact hp | with_reducible exact List.mem_append_right _ hp | with_reducible apply List.mem_append_left)) ?_
    | split
    | with_reducible refine forN_touches ?_ (fun x k hx => ?_)
    | with_reducible refine foldl_touches ?_ (fun x a hx => ?_)
    | with_reducible refine foldlSnd_touches ?_ (fun x a hx => ?_)
    | with_reducible assumption

/-- The parts State.arrayBoundary touches. -/
def State.arrayBoundary_foot : List Part := [.reg .HZ_BYTES_NS, .reg .HZ_SHARE_A, .reg .HZ_CLUSTER_EN, .reg .CL_FENCE, .reg .CL_FENCE_REQ] ++ State.applySpread_foot ++ State.applyArr_foot ++ State.applyArrCl_foot ++ State.stepSwap_foot ++ State.stepFences_foot ++ State.stepReturn_foot ++ State.shortClear_foot

theorem State.arrayBoundary_touches {W : List Part} {σ τ : State}  (hW : ∀ p ∈ State.arrayBoundary_foot, p ∈ W)
    (hT : Touches W σ τ) : Touches W σ (State.arrayBoundary τ) := by
  unfold State.arrayBoundary
  try dsimp only
  repeat' first
    | with_reducible apply Touches.ite
    | with_reducible refine State.applySpread_touches (fun p hp => hW p (by unfold State.arrayBoundary_foot; repeat first | with_reducible exact hp | with_reducible exact List.mem_append_right _ hp | with_reducible apply List.mem_append_left)) ?_
    | with_reducible refine State.applyArr_touches (hW _ (by first | (simp [State.arrayBoundary_foot]; done) | (split <;> simp [State.arrayBoundary_foot] <;> done) | ((repeat' split) <;> simp [State.arrayBoundary_foot]))) (fun p hp => hW p (by unfold State.arrayBoundary_foot; repeat first | with_reducible exact hp | with_reducible exact List.mem_append_right _ hp | with_reducible apply List.mem_append_left)) ?_
    | with_reducible refine State.applyArrCl_touches (hW _ (by first | (simp [State.arrayBoundary_foot]; done) | (split <;> simp [State.arrayBoundary_foot] <;> done) | ((repeat' split) <;> simp [State.arrayBoundary_foot]))) (fun p hp => hW p (by unfold State.arrayBoundary_foot; repeat first | with_reducible exact hp | with_reducible exact List.mem_append_right _ hp | with_reducible apply List.mem_append_left)) ?_
    | with_reducible refine State.stepSwap_touches (fun p hp => hW p (by unfold State.arrayBoundary_foot; repeat first | with_reducible exact hp | with_reducible exact List.mem_append_right _ hp | with_reducible apply List.mem_append_left)) ?_
    | with_reducible refine State.stepFences_touches (fun p hp => hW p (by unfold State.arrayBoundary_foot; repeat first | with_reducible exact hp | with_reducible exact List.mem_append_right _ hp | with_reducible apply List.mem_append_left)) ?_
    | with_reducible refine State.stepReturn_touches (fun p hp => hW p (by unfold State.arrayBoundary_foot; repeat first | with_reducible exact hp | with_reducible exact List.mem_append_right _ hp | with_reducible apply List.mem_append_left)) ?_
    | with_reducible refine cond_touches ?_ (fun x hx => ?_)
    | with_reducible refine State.shortClear_touches (fun p hp => hW p (by unfold State.arrayBoundary_foot; repeat first | with_reducible exact hp | with_reducible exact List.mem_append_right _ hp | with_reducible apply List.mem_append_left)) ?_
    | split
    | with_reducible refine forN_touches ?_ (fun x k hx => ?_)
    | with_reducible refine foldl_touches ?_ (fun x a hx => ?_)
    | with_reducible refine foldlSnd_touches ?_ (fun x a hx => ?_)
    | with_reducible assumption

/-- The parts State.seeArray touches. -/
def State.seeArray_foot : List Part := [.reg .iARR_SEEN]

theorem State.seeArray_touches {W : List Part} {σ τ : State} {surf : Nat} (hW : ∀ p ∈ State.seeArray_foot, p ∈ W)
    (hT : Touches W σ τ) : Touches W σ (State.seeArray τ surf) := by
  unfold State.seeArray
  try dsimp only
  repeat' first
    | with_reducible apply Touches.ite
    | with_reducible refine State.setReg_touches (hW _ (by first | (simp [State.seeArray_foot]; done) | (split <;> simp [State.seeArray_foot] <;> done) | ((repeat' split) <;> simp [State.seeArray_foot])))  ?_
    | split
    | with_reducible refine forN_touches ?_ (fun x k hx => ?_)
    | with_reducible refine foldl_touches ?_ (fun x a hx => ?_)
    | with_reducible refine foldlSnd_touches ?_ (fun x a hx => ?_)
    | with_reducible assumption

/-- The parts State.nextArray touches. -/
def State.nextArray_foot : List Part := State.arrayBoundary_foot ++ State.seeArray_foot

theorem State.nextArray_touches {W : List Part} {σ τ : State}  (hW : ∀ p ∈ State.nextArray_foot, p ∈ W)
    (hT : Touches W σ τ) : Touches W σ (State.nextArray τ) := by
  unfold State.nextArray
  try dsimp only
  repeat' first
    | with_reducible apply Touches.ite
    | with_reducible refine State.arrayBoundary_touches (fun p hp => hW p (by unfold State.nextArray_foot; repeat first | with_reducible exact hp | with_reducible exact List.mem_append_right _ hp | with_reducible apply List.mem_append_left)) ?_
    | with_reducible refine State.seeArray_touches (fun p hp => hW p (by unfold State.nextArray_foot; repeat first | with_reducible exact hp | with_reducible exact List.mem_append_right _ hp | with_reducible apply List.mem_append_left)) ?_
    | split
    | with_reducible refine forN_touches ?_ (fun x k hx => ?_)
    | with_reducible refine foldl_touches ?_ (fun x a hx => ?_)
    | with_reducible refine foldlSnd_touches ?_ (fun x a hx => ?_)
    | with_reducible assumption

/-- The parts State.raiseCapacity touches. -/
def State.raiseCapacity_foot : List Part := State.raise_foot

theorem State.raiseCapacity_touches {W : List Part} {σ τ : State} {fs : List (Nat × Nat)} (hW : ∀ p ∈ State.raiseCapacity_foot, p ∈ W)
    (hT : Touches W σ τ) : Touches W σ (State.raiseCapacity τ fs) := by
  unfold State.raiseCapacity
  try dsimp only
  repeat' first
    | with_reducible apply Touches.ite
    | with_reducible refine State.raise_touches (fun p hp => hW p (by unfold State.raiseCapacity_foot; repeat first | with_reducible exact hp | with_reducible exact List.mem_append_right _ hp | with_reducible apply List.mem_append_left)) ?_
    | split
    | with_reducible refine forN_touches ?_ (fun x k hx => ?_)
    | with_reducible refine foldl_touches ?_ (fun x a hx => ?_)
    | with_reducible refine foldlSnd_touches ?_ (fun x a hx => ?_)
    | with_reducible assumption

/-- The parts State.pend touches. -/
def State.pend_foot : List Part := [.reg .iARR_SEEN, .reg .iARR_CL, .reg .iARR]

theorem State.pend_touches {W : List Part} {σ τ : State} {cl : Bool} {ix : Nat} {v : Nat} (hW : ∀ p ∈ State.pend_foot, p ∈ W)
    (hT : Touches W σ τ) : Touches W σ (State.pend τ cl ix v) := by
  unfold State.pend
  try dsimp only
  repeat' first
    | with_reducible apply Touches.ite
    | with_reducible refine State.setReg_touches (hW _ (by first | (simp [State.pend_foot]; done) | (split <;> simp [State.pend_foot] <;> done) | ((repeat' split) <;> simp [State.pend_foot])))  ?_
    | split
    | with_reducible refine forN_touches ?_ (fun x k hx => ?_)
    | with_reducible refine foldl_touches ?_ (fun x a hx => ?_)
    | with_reducible refine foldlSnd_touches ?_ (fun x a hx => ?_)
    | with_reducible assumption

/-- The parts State.arrayWrite touches. -/
def State.arrayWrite_foot : List Part := [.reg .HZ_CLUSTER_EN, .reg .HZ_SHARE_A, .reg .HZ_BYTES_NS, .reg .CK_SSC, .reg .CL_FENCE_REQ, .reg .CL_FENCE, .fld .status] ++ State.pend_foot ++ State.nextArray_foot ++ State.raiseCapacity_foot

theorem State.arrayWrite_touches {W : List Part} {σ τ : State} {p : ArrayParam} {v : Nat} (hW : ∀ p ∈ State.arrayWrite_foot, p ∈ W)
    (hT : Touches W σ τ) : Touches W σ (State.arrayWrite τ p v) := by
  unfold State.arrayWrite
  try dsimp only
  repeat' first
    | with_reducible apply Touches.ite
    | with_reducible refine State.pend_touches (fun p hp => hW p (by unfold State.arrayWrite_foot; repeat first | with_reducible exact hp | with_reducible exact List.mem_append_right _ hp | with_reducible apply List.mem_append_left)) ?_
    | with_reducible refine State.nextArray_touches (fun p hp => hW p (by unfold State.arrayWrite_foot; repeat first | with_reducible exact hp | with_reducible exact List.mem_append_right _ hp | with_reducible apply List.mem_append_left)) ?_
    | with_reducible refine State.refuse_touches (hW _ (by simp [State.arrayWrite_foot])) ?_
    | with_reducible refine State.raiseCapacity_touches (fun p hp => hW p (by unfold State.arrayWrite_foot; repeat first | with_reducible exact hp | with_reducible exact List.mem_append_right _ hp | with_reducible apply List.mem_append_left)) ?_
    | split
    | with_reducible refine forN_touches ?_ (fun x k hx => ?_)
    | with_reducible refine foldl_touches ?_ (fun x a hx => ?_)
    | with_reducible refine foldlSnd_touches ?_ (fun x a hx => ?_)
    | with_reducible assumption

/-- The parts execArrayParamWrite touches. -/
def execArrayParamWrite_foot : List Part := [.reg .HZ_CLUSTER_EN, .reg .HZ_SHARE_A, .reg .HZ_BYTES_NS, .reg .CK_SSC, .reg .CL_FENCE_REQ, .reg .CL_FENCE] ++ writeParam_foot ++ State.arrayWrite_foot

theorem execArrayParamWrite_touches {W : List Part} {σ τ : State} {acc : Accessor} {p : ArrayParam} {v : Nat} (hW : ∀ p ∈ execArrayParamWrite_foot, p ∈ W)
    (hT : Touches W σ τ) : OutTouches W σ (execArrayParamWrite acc p v τ) := by
  unfold execArrayParamWrite
  try dsimp only
  repeat' first
    | with_reducible apply OutTouches.ite
    | with_reducible refine OutTouches.next ?_
    | with_reducible apply Touches.ite
    | with_reducible refine writeParam_touches  (fun p hp => hW p (by unfold execArrayParamWrite_foot; repeat first | with_reducible exact hp | with_reducible exact List.mem_append_right _ hp | with_reducible apply List.mem_append_left)) ?_ (fun x  hx => ?_)
    | with_reducible refine State.arrayWrite_touches (fun p hp => hW p (by unfold execArrayParamWrite_foot; repeat first | with_reducible exact hp | with_reducible exact List.mem_append_right _ hp | with_reducible apply List.mem_append_left)) ?_
    | split
    | with_reducible refine forN_touches ?_ (fun x k hx => ?_)
    | with_reducible refine foldl_touches ?_ (fun x a hx => ?_)
    | with_reducible refine foldlSnd_touches ?_ (fun x a hx => ?_)
    | with_reducible assumption

/-- The parts State.faultClear touches. -/
def State.faultClear_foot : List Part := [.reg .iCL_SELFTEST] ++ State.startSelfTest_foot

theorem State.faultClear_touches {W : List Part} {σ τ : State} {n : Nat} {mask : Nat} (hW : ∀ p ∈ State.faultClear_foot, p ∈ W)
    (hT : Touches W σ τ) : Touches W σ (State.faultClear τ n mask) := by
  unfold State.faultClear
  try dsimp only
  repeat' first
    | with_reducible apply Touches.ite
    | with_reducible refine State.startSelfTest_touches (fun p hp => hW p (by unfold State.faultClear_foot; repeat first | with_reducible exact hp | with_reducible exact List.mem_append_right _ hp | with_reducible apply List.mem_append_left)) ?_
    | with_reducible refine State.setReg_touches (hW _ (by first | (simp [State.faultClear_foot]; done) | (split <;> simp [State.faultClear_foot] <;> done) | ((repeat' split) <;> simp [State.faultClear_foot])))  ?_
    | split
    | with_reducible refine forN_touches ?_ (fun x k hx => ?_)
    | with_reducible refine foldl_touches ?_ (fun x a hx => ?_)
    | with_reducible refine foldlSnd_touches ?_ (fun x a hx => ?_)
    | with_reducible assumption

/-- The parts execClFaultClear touches. -/
def execClFaultClear_foot : List Part := writeParam_foot ++ State.faultClear_foot

theorem execClFaultClear_touches {W : List Part} {σ τ : State} {acc : Accessor} {n : Fin 16} {mask : BitVec 16} (hW : ∀ p ∈ execClFaultClear_foot, p ∈ W)
    (hT : Touches W σ τ) : OutTouches W σ (execClFaultClear acc n mask τ) := by
  unfold execClFaultClear
  try dsimp only
  repeat' first
    | with_reducible apply OutTouches.ite
    | with_reducible refine OutTouches.next ?_
    | with_reducible apply Touches.ite
    | with_reducible refine writeParam_touches  (fun p hp => hW p (by unfold execClFaultClear_foot; repeat first | with_reducible exact hp | with_reducible exact List.mem_append_right _ hp | with_reducible apply List.mem_append_left)) ?_ (fun x  hx => ?_)
    | with_reducible refine State.faultClear_touches (fun p hp => hW p (by unfold execClFaultClear_foot; repeat first | with_reducible exact hp | with_reducible exact List.mem_append_right _ hp | with_reducible apply List.mem_append_left)) ?_
    | split
    | with_reducible refine forN_touches ?_ (fun x k hx => ?_)
    | with_reducible refine foldl_touches ?_ (fun x a hx => ?_)
    | with_reducible refine foldlSnd_touches ?_ (fun x a hx => ?_)
    | with_reducible assumption

/-- The parts State.abortSwap touches. -/
def State.abortSwap_foot : List Part := [.reg .iCL_RELOAD, .reg .HZ_SWAP_STATE] ++ State.endSwap_foot

theorem State.abortSwap_touches {W : List Part} {σ τ : State} {n : Nat} (hW : ∀ p ∈ State.abortSwap_foot, p ∈ W)
    (hT : Touches W σ τ) : Touches W σ (State.abortSwap τ n) := by
  unfold State.abortSwap
  try dsimp only
  repeat' first
    | with_reducible apply Touches.ite
    | with_reducible refine State.setReg_touches (hW _ (by first | (simp [State.abortSwap_foot]; done) | (split <;> simp [State.abortSwap_foot] <;> done) | ((repeat' split) <;> simp [State.abortSwap_foot])))  ?_
    | with_reducible refine State.endSwap_touches (fun p hp => hW p (by unfold State.abortSwap_foot; repeat first | with_reducible exact hp | with_reducible exact List.mem_append_right _ hp | with_reducible apply List.mem_append_left)) ?_
    | split
    | with_reducible refine forN_touches ?_ (fun x k hx => ?_)
    | with_reducible refine foldl_touches ?_ (fun x a hx => ?_)
    | with_reducible refine foldlSnd_touches ?_ (fun x a hx => ?_)
    | with_reducible assumption

/-- The parts execSelfTestDone touches. -/
def execSelfTestDone_foot : List Part := [.reg .iCL_SELFTEST, .reg .iCL_PASSED, .reg .CL_FAULT_MASK, .fld .grants, .fld .highReqs, .fld .normalReqs, .fld .keepPending] ++ State.startSelfTest_foot ++ State.hazelFault_foot ++ State.abortSwap_foot ++ State.setCluster_foot ++ State.refreshFences_foot

theorem execSelfTestDone_touches {W : List Part} {σ τ : State} {n : Fin 16} {pass : Bool} (hW : ∀ p ∈ execSelfTestDone_foot, p ∈ W)
    (hT : Touches W σ τ) : OutTouches W σ (execSelfTestDone n pass τ) := by
  unfold execSelfTestDone
  try dsimp only
  repeat' first
    | with_reducible apply OutTouches.ite
    | with_reducible refine OutTouches.next ?_
    | with_reducible apply Touches.ite
    | with_reducible refine State.setReg_touches (hW _ (by first | (simp [execSelfTestDone_foot]; done) | (split <;> simp [execSelfTestDone_foot] <;> done) | ((repeat' split) <;> simp [execSelfTestDone_foot])))  ?_
    | with_reducible refine State.release_touches (hW _ (by simp [execSelfTestDone_foot])) (hW _ (by simp [execSelfTestDone_foot])) (hW _ (by simp [execSelfTestDone_foot])) ?_
    | with_reducible refine State.startSelfTest_touches (fun p hp => hW p (by unfold execSelfTestDone_foot; repeat first | with_reducible exact hp | with_reducible exact List.mem_append_right _ hp | with_reducible apply List.mem_append_left)) ?_
    | with_reducible refine State.hazelFault_touches (fun p hp => hW p (by unfold execSelfTestDone_foot; repeat first | with_reducible exact hp | with_reducible exact List.mem_append_right _ hp | with_reducible apply List.mem_append_left)) ?_
    | with_reducible refine State.abortSwap_touches (fun p hp => hW p (by unfold execSelfTestDone_foot; repeat first | with_reducible exact hp | with_reducible exact List.mem_append_right _ hp | with_reducible apply List.mem_append_left)) ?_
    | with_reducible refine State.setCluster_touches (fun p hp => hW p (by unfold execSelfTestDone_foot; repeat first | with_reducible exact hp | with_reducible exact List.mem_append_right _ hp | with_reducible apply List.mem_append_left)) ?_
    | with_reducible refine State.refreshFences_touches (fun p hp => hW p (by unfold execSelfTestDone_foot; repeat first | with_reducible exact hp | with_reducible exact List.mem_append_right _ hp | with_reducible apply List.mem_append_left)) ?_
    | with_reducible refine State.noteKeep_touches (hW _ (by simp [execSelfTestDone_foot])) ?_
    | split
    | with_reducible refine forN_touches ?_ (fun x k hx => ?_)
    | with_reducible refine foldl_touches ?_ (fun x a hx => ?_)
    | with_reducible refine foldlSnd_touches ?_ (fun x a hx => ?_)
    | with_reducible assumption

/-- The parts execClusterWakeDone touches. -/
def execClusterWakeDone_foot : List Part := State.startSelfTest_foot

theorem execClusterWakeDone_touches {W : List Part} {σ τ : State} {n : Fin 16} (hW : ∀ p ∈ execClusterWakeDone_foot, p ∈ W)
    (hT : Touches W σ τ) : OutTouches W σ (execClusterWakeDone n τ) := by
  unfold execClusterWakeDone
  try dsimp only
  repeat' first
    | with_reducible apply OutTouches.ite
    | with_reducible refine OutTouches.next ?_
    | with_reducible apply Touches.ite
    | with_reducible refine State.startSelfTest_touches (fun p hp => hW p (by unfold execClusterWakeDone_foot; repeat first | with_reducible exact hp | with_reducible exact List.mem_append_right _ hp | with_reducible apply List.mem_append_left)) ?_
    | split
    | with_reducible refine forN_touches ?_ (fun x k hx => ?_)
    | with_reducible refine foldl_touches ?_ (fun x a hx => ?_)
    | with_reducible refine foldlSnd_touches ?_ (fun x a hx => ?_)
    | with_reducible assumption

/-- The parts execPgLoadVerify touches. -/
def execPgLoadVerify_foot : List Part := [.reg .PG_STATE, .fld .status] ++ writeParam_foot

theorem execPgLoadVerify_touches {W : List Part} {σ τ : State} {acc : Accessor} {p : Fin 2} (hW : ∀ p ∈ execPgLoadVerify_foot, p ∈ W)
    (hT : Touches W σ τ) : OutTouches W σ (execPgLoadVerify acc p τ) := by
  unfold execPgLoadVerify
  try dsimp only
  repeat' first
    | with_reducible apply OutTouches.ite
    | with_reducible refine OutTouches.next ?_
    | with_reducible apply Touches.ite
    | with_reducible refine writeParam_touches  (fun p hp => hW p (by unfold execPgLoadVerify_foot; repeat first | with_reducible exact hp | with_reducible exact List.mem_append_right _ hp | with_reducible apply List.mem_append_left)) ?_ (fun x  hx => ?_)
    | with_reducible refine State.refuse_touches (hW _ (by simp [execPgLoadVerify_foot])) ?_
    | with_reducible refine State.setReg_touches (hW _ (by first | (simp [execPgLoadVerify_foot]; done) | (split <;> simp [execPgLoadVerify_foot] <;> done) | ((repeat' split) <;> simp [execPgLoadVerify_foot])))  ?_
    | split
    | with_reducible refine forN_touches ?_ (fun x k hx => ?_)
    | with_reducible refine foldl_touches ?_ (fun x a hx => ?_)
    | with_reducible refine foldlSnd_touches ?_ (fun x a hx => ?_)
    | with_reducible assumption

/-- The parts execPgLoadEmpty touches. -/
def execPgLoadEmpty_foot : List Part := [.reg .PG_STATE, .fld .status] ++ writeParam_foot

theorem execPgLoadEmpty_touches {W : List Part} {σ τ : State} {acc : Accessor} {p : Fin 2} (hW : ∀ p ∈ execPgLoadEmpty_foot, p ∈ W)
    (hT : Touches W σ τ) : OutTouches W σ (execPgLoadEmpty acc p τ) := by
  unfold execPgLoadEmpty
  try dsimp only
  repeat' first
    | with_reducible apply OutTouches.ite
    | with_reducible refine OutTouches.next ?_
    | with_reducible apply Touches.ite
    | with_reducible refine writeParam_touches  (fun p hp => hW p (by unfold execPgLoadEmpty_foot; repeat first | with_reducible exact hp | with_reducible exact List.mem_append_right _ hp | with_reducible apply List.mem_append_left)) ?_ (fun x  hx => ?_)
    | with_reducible refine State.refuse_touches (hW _ (by simp [execPgLoadEmpty_foot])) ?_
    | with_reducible refine State.setReg_touches (hW _ (by first | (simp [execPgLoadEmpty_foot]; done) | (split <;> simp [execPgLoadEmpty_foot] <;> done) | ((repeat' split) <;> simp [execPgLoadEmpty_foot])))  ?_
    | split
    | with_reducible refine forN_touches ?_ (fun x k hx => ?_)
    | with_reducible refine foldl_touches ?_ (fun x a hx => ?_)
    | with_reducible refine foldlSnd_touches ?_ (fun x a hx => ?_)
    | with_reducible assumption

/-- The parts execPgLoadDone touches. -/
def execPgLoadDone_foot : List Part := [.reg .PG_K, .reg .PG_VERSION, .reg .PG_STATE] ++ State.fetch_foot ++ State.see_foot

theorem execPgLoadDone_touches {W : List Part} {σ τ : State} {p : Fin 2} {version : BitVec 32} {k : BitVec 80} {seen : Seen} (hW : ∀ p ∈ execPgLoadDone_foot, p ∈ W)
    (hT : Touches W σ τ) : OutTouches W σ (execPgLoadDone p version k seen τ) := by
  unfold execPgLoadDone
  try dsimp only
  repeat' first
    | with_reducible apply OutTouches.ite
    | with_reducible refine OutTouches.next ?_
    | with_reducible apply Touches.ite
    | with_reducible refine Touches.ofPair (by assumption) (State.fetch_touches (fun p hp => hW p (by unfold execPgLoadDone_foot; repeat first | with_reducible exact hp | with_reducible exact List.mem_append_right _ hp | with_reducible apply List.mem_append_left)) ?_)
    | with_reducible refine State.fetch_touches (fun p hp => hW p (by unfold execPgLoadDone_foot; repeat first | with_reducible exact hp | with_reducible exact List.mem_append_right _ hp | with_reducible apply List.mem_append_left)) ?_
    | with_reducible refine State.see_touches (fun p hp => hW p (by unfold execPgLoadDone_foot; repeat first | with_reducible exact hp | with_reducible exact List.mem_append_right _ hp | with_reducible apply List.mem_append_left)) ?_
    | with_reducible refine State.setReg_touches (hW _ (by first | (simp [execPgLoadDone_foot]; done) | (split <;> simp [execPgLoadDone_foot] <;> done) | ((repeat' split) <;> simp [execPgLoadDone_foot])))  ?_
    | split
    | with_reducible refine forN_touches ?_ (fun x k hx => ?_)
    | with_reducible refine foldl_touches ?_ (fun x a hx => ?_)
    | with_reducible refine foldlSnd_touches ?_ (fun x a hx => ?_)
    | with_reducible assumption

/-- The parts State.swapTarget touches. -/
def State.swapTarget_foot : List Part := [.reg .HZ_SWAP_STATE, .reg .HZ_SWAP_CLUSTER, .reg .iSWAP_OLD, .reg .iSWAP_SLOT, .fld .status] ++ State.raiseCapacity_foot

theorem State.swapTarget_touches {W : List Part} {σ τ : State} {p : Nat} (hW : ∀ p ∈ State.swapTarget_foot, p ∈ W)
    (hT : Touches W σ τ) : Touches W σ (State.swapTarget τ p) := by
  unfold State.swapTarget
  try dsimp only
  repeat' first
    | with_reducible apply Touches.ite
    | with_reducible refine State.refuse_touches (hW _ (by simp [State.swapTarget_foot])) ?_
    | with_reducible refine State.setReg_touches (hW _ (by first | (simp [State.swapTarget_foot]; done) | (split <;> simp [State.swapTarget_foot] <;> done) | ((repeat' split) <;> simp [State.swapTarget_foot])))  ?_
    | with_reducible refine State.raiseCapacity_touches (fun p hp => hW p (by unfold State.swapTarget_foot; repeat first | with_reducible exact hp | with_reducible exact List.mem_append_right _ hp | with_reducible apply List.mem_append_left)) ?_
    | split
    | with_reducible refine forN_touches ?_ (fun x k hx => ?_)
    | with_reducible refine foldl_touches ?_ (fun x a hx => ?_)
    | with_reducible refine foldlSnd_touches ?_ (fun x a hx => ?_)
    | with_reducible assumption

/-- The parts execHzProgTarget touches. -/
def execHzProgTarget_foot : List Part := writeParam_foot ++ State.swapTarget_foot

theorem execHzProgTarget_touches {W : List Part} {σ τ : State} {acc : Accessor} {p : Fin 2} (hW : ∀ p ∈ execHzProgTarget_foot, p ∈ W)
    (hT : Touches W σ τ) : OutTouches W σ (execHzProgTarget acc p τ) := by
  unfold execHzProgTarget
  try dsimp only
  repeat' first
    | with_reducible apply OutTouches.ite
    | with_reducible refine OutTouches.next ?_
    | with_reducible apply Touches.ite
    | with_reducible refine writeParam_touches  (fun p hp => hW p (by unfold execHzProgTarget_foot; repeat first | with_reducible exact hp | with_reducible exact List.mem_append_right _ hp | with_reducible apply List.mem_append_left)) ?_ (fun x  hx => ?_)
    | with_reducible refine State.swapTarget_touches (fun p hp => hW p (by unfold execHzProgTarget_foot; repeat first | with_reducible exact hp | with_reducible exact List.mem_append_right _ hp | with_reducible apply List.mem_append_left)) ?_
    | split
    | with_reducible refine forN_touches ?_ (fun x k hx => ?_)
    | with_reducible refine foldl_touches ?_ (fun x a hx => ?_)
    | with_reducible refine foldlSnd_touches ?_ (fun x a hx => ?_)
    | with_reducible assumption

/-- The parts execClusterLoadDone touches. -/
def execClusterLoadDone_foot : List Part := State.startSelfTest_foot ++ State.hazelFault_foot ++ State.abortSwap_foot

theorem execClusterLoadDone_touches {W : List Part} {σ τ : State} {n : Fin 16} {ok : Bool} (hW : ∀ p ∈ execClusterLoadDone_foot, p ∈ W)
    (hT : Touches W σ τ) : OutTouches W σ (execClusterLoadDone n ok τ) := by
  unfold execClusterLoadDone
  try dsimp only
  repeat' first
    | with_reducible apply OutTouches.ite
    | with_reducible refine OutTouches.next ?_
    | with_reducible apply Touches.ite
    | with_reducible refine State.startSelfTest_touches (fun p hp => hW p (by unfold execClusterLoadDone_foot; repeat first | with_reducible exact hp | with_reducible exact List.mem_append_right _ hp | with_reducible apply List.mem_append_left)) ?_
    | with_reducible refine State.hazelFault_touches (fun p hp => hW p (by unfold execClusterLoadDone_foot; repeat first | with_reducible exact hp | with_reducible exact List.mem_append_right _ hp | with_reducible apply List.mem_append_left)) ?_
    | with_reducible refine State.abortSwap_touches (fun p hp => hW p (by unfold execClusterLoadDone_foot; repeat first | with_reducible exact hp | with_reducible exact List.mem_append_right _ hp | with_reducible apply List.mem_append_left)) ?_
    | split
    | with_reducible refine forN_touches ?_ (fun x k hx => ?_)
    | with_reducible refine foldl_touches ?_ (fun x a hx => ?_)
    | with_reducible refine foldlSnd_touches ?_ (fun x a hx => ?_)
    | with_reducible assumption

end Sys2Proof.Machine
end

