-- ==== Sys2Proof/Laws/TouchesEvents.lean ====
section
/-! SUPPORT. What the functions of Machine/Events.lean touch. -/
namespace Sys2Proof.Machine
set_option linter.all false

/-- The parts State.laceEvent touches. -/
def State.laceEvent_foot : List Part := [.reg .LC_REQ_MISSED, .reg .iLC_EVENT]

theorem State.laceEvent_touches {W : List Part} {σ τ : State} {code : Nat} (hW : ∀ p ∈ State.laceEvent_foot, p ∈ W)
    (hT : Touches W σ τ) : Touches W σ (State.laceEvent τ code) := by
  unfold State.laceEvent
  try dsimp only
  repeat' first
    | with_reducible apply Touches.ite
    | with_reducible refine State.bump_touches (hW _ (by first | (simp [State.laceEvent_foot]; done) | (split <;> simp [State.laceEvent_foot] <;> done) | ((repeat' split) <;> simp [State.laceEvent_foot])))  ?_
    | with_reducible refine State.setReg_touches (hW _ (by first | (simp [State.laceEvent_foot]; done) | (split <;> simp [State.laceEvent_foot] <;> done) | ((repeat' split) <;> simp [State.laceEvent_foot])))  ?_
    | split
    | with_reducible refine forN_touches ?_ (fun x k hx => ?_)
    | with_reducible refine foldl_touches ?_ (fun x a hx => ?_)
    | with_reducible refine foldlSnd_touches ?_ (fun x a hx => ?_)
    | with_reducible assumption

/-- The parts State.eyeBoundary touches. -/
def State.eyeBoundary_foot : List Part := [.fld .eyeEdges]

theorem State.eyeBoundary_touches {W : List Part} {σ τ : State} {g : Nat} {frame : Nat} {at3 : Int} (hW : ∀ p ∈ State.eyeBoundary_foot, p ∈ W)
    (hT : Touches W σ τ) : Touches W σ (State.eyeBoundary τ g frame at3) := by
  unfold State.eyeBoundary
  try dsimp only
  repeat' first
    | with_reducible apply Touches.ite
    | split
    | with_reducible refine forN_touches ?_ (fun x k hx => ?_)
    | with_reducible refine foldl_touches ?_ (fun x a hx => ?_)
    | with_reducible refine foldlSnd_touches ?_ (fun x a hx => ?_)
    | with_reducible assumption
    | with_reducible refine touches_mk (fun f => by cases f <;> first | exact .inr (by with_reducible rfl) | exact .inl (hW _ (by simp [State.eyeBoundary_foot]))) ?_

end Sys2Proof.Machine
end

