-- ==== Sys2Proof/Laws/TouchesRaster.lean ====
section
/-! SUPPORT. What the functions of Machine/Raster.lean touch. -/
namespace Sys2Proof.Machine
set_option linter.all false

/-- The parts State.passMissed touches. -/
def State.passMissed_foot : List Part := [.reg .iEYE_FRAME]

theorem State.passMissed_touches {W : List Part} {σ τ : State} {e : Nat} (hW : ∀ p ∈ State.passMissed_foot, p ∈ W)
    (hT : Touches W σ τ) : Touches W σ (State.passMissed τ e) := by
  unfold State.passMissed
  try dsimp only
  repeat' first
    | with_reducible apply Touches.ite
    | with_reducible refine State.setReg_touches (hW _ (by first | (simp [State.passMissed_foot]; done) | (split <;> simp [State.passMissed_foot] <;> done) | ((repeat' split) <;> simp [State.passMissed_foot])))  ?_
    | split
    | with_reducible refine forN_touches ?_ (fun x k hx => ?_)
    | with_reducible refine foldl_touches ?_ (fun x a hx => ?_)
    | with_reducible refine foldlSnd_touches ?_ (fun x a hx => ?_)
    | with_reducible assumption

/-- The parts State.refreshNext touches. -/
def State.refreshNext_foot : List Part := [.reg .LAST_NEXT] ++ State.passMissed_foot

theorem State.refreshNext_touches {W : List Part} {σ τ : State} {g : Nat} (hW : ∀ p ∈ State.refreshNext_foot, p ∈ W)
    (hT : Touches W σ τ) : Touches W σ (State.refreshNext τ g) := by
  unfold State.refreshNext
  try dsimp only
  repeat' first
    | with_reducible apply Touches.ite
    | with_reducible refine State.setReg_touches (hW _ (by first | (simp [State.refreshNext_foot]; done) | (split <;> simp [State.refreshNext_foot] <;> done) | ((repeat' split) <;> simp [State.refreshNext_foot])))  ?_
    | with_reducible refine State.passMissed_touches (fun p hp => hW p (by unfold State.refreshNext_foot; repeat first | with_reducible exact hp | with_reducible exact List.mem_append_right _ hp | with_reducible apply List.mem_append_left)) ?_
    | split
    | with_reducible refine forN_touches ?_ (fun x k hx => ?_)
    | with_reducible refine foldl_touches ?_ (fun x a hx => ?_)
    | with_reducible refine foldlSnd_touches ?_ (fun x a hx => ?_)
    | with_reducible assumption

/-- The parts State.genAdvance touches. -/
def State.genAdvance_foot : List Part := [.reg .LAST_SLIPS, .reg .iG_BLOCAL, .reg .iG_B3, .reg .iG_COUNT, .reg .iG_RESYNC, .reg .LAST_FRAME, .reg .iG_PENDRATE, .reg .LAST_RATE, .fld .keepPending] ++ State.raise_foot ++ State.refreshNext_foot ++ State.eyeBoundary_foot

theorem State.genAdvance_touches {W : List Part} {σ τ : State} {g : Nat} (hW : ∀ p ∈ State.genAdvance_foot, p ∈ W)
    (hT : Touches W σ τ) : Touches W σ (State.genAdvance τ g) := by
  unfold State.genAdvance
  try dsimp only
  repeat' first
    | with_reducible apply Touches.ite
    | with_reducible refine State.raise_touches (fun p hp => hW p (by unfold State.genAdvance_foot; repeat first | with_reducible exact hp | with_reducible exact List.mem_append_right _ hp | with_reducible apply List.mem_append_left)) ?_
    | with_reducible refine State.bump_touches (hW _ (by first | (simp [State.genAdvance_foot]; done) | (split <;> simp [State.genAdvance_foot] <;> done) | ((repeat' split) <;> simp [State.genAdvance_foot])))  ?_
    | with_reducible refine State.setReg_touches (hW _ (by first | (simp [State.genAdvance_foot]; done) | (split <;> simp [State.genAdvance_foot] <;> done) | ((repeat' split) <;> simp [State.genAdvance_foot])))  ?_
    | with_reducible refine State.putReg_touches (hW _ (by first | (simp [State.genAdvance_foot]; done) | (split <;> simp [State.genAdvance_foot] <;> done) | ((repeat' split) <;> simp [State.genAdvance_foot]))) (hW _ (by simp [State.genAdvance_foot])) ?_
    | with_reducible refine State.refreshNext_touches (fun p hp => hW p (by unfold State.genAdvance_foot; repeat first | with_reducible exact hp | with_reducible exact List.mem_append_right _ hp | with_reducible apply List.mem_append_left)) ?_
    | with_reducible refine State.eyeBoundary_touches (fun p hp => hW p (by unfold State.genAdvance_foot; repeat first | with_reducible exact hp | with_reducible exact List.mem_append_right _ hp | with_reducible apply List.mem_append_left)) ?_
    | split
    | with_reducible refine forN_touches ?_ (fun x k hx => ?_)
    | with_reducible refine foldl_touches ?_ (fun x a hx => ?_)
    | with_reducible refine foldlSnd_touches ?_ (fun x a hx => ?_)
    | with_reducible assumption

end Sys2Proof.Machine
end

