-- ==== Sys2Proof/Laws/TouchesWeltLanes.lean ====
section
/-! SUPPORT. What the functions of Machine/WeltLanes.lean touch. -/
namespace Sys2Proof.Machine
set_option linter.all false

/-- The parts State.dropMsgs touches. -/
def State.dropMsgs_foot : List Part := [.fld .msgBlocks]

theorem State.dropMsgs_touches {W : List Part} {σ τ : State} {surf : Nat} {p : Nat} (hW : ∀ p ∈ State.dropMsgs_foot, p ∈ W)
    (hT : Touches W σ τ) : Touches W σ (State.dropMsgs τ surf p) := by
  unfold State.dropMsgs
  try dsimp only
  repeat' first
    | with_reducible apply Touches.ite
    | split
    | with_reducible refine forN_touches ?_ (fun x k hx => ?_)
    | with_reducible refine foldl_touches ?_ (fun x a hx => ?_)
    | with_reducible refine foldlSnd_touches ?_ (fun x a hx => ?_)
    | with_reducible assumption
    | with_reducible refine touches_mk (fun f => by cases f <;> first | exact .inr (by with_reducible rfl) | exact .inl (hW _ (by simp [State.dropMsgs_foot]))) ?_

/-- The parts State.setLane touches. -/
def State.setLane_foot : List Part := [.reg .iWL_SINCE, .reg .WL_LANE_STATE] ++ State.dropMsgs_foot

theorem State.setLane_touches {W : List Part} {σ τ : State} {surf : Nat} {p : Nat} {st : Nat} (hW : ∀ p ∈ State.setLane_foot, p ∈ W)
    (hT : Touches W σ τ) : Touches W σ (State.setLane τ surf p st) := by
  unfold State.setLane
  try dsimp only
  repeat' first
    | with_reducible apply Touches.ite
    | with_reducible refine State.setReg_touches (hW _ (by first | (simp [State.setLane_foot]; done) | (split <;> simp [State.setLane_foot] <;> done) | ((repeat' split) <;> simp [State.setLane_foot])))  ?_
    | with_reducible refine State.dropMsgs_touches (fun p hp => hW p (by unfold State.setLane_foot; repeat first | with_reducible exact hp | with_reducible exact List.mem_append_right _ hp | with_reducible apply List.mem_append_left)) ?_
    | split
    | with_reducible refine forN_touches ?_ (fun x k hx => ?_)
    | with_reducible refine foldl_touches ?_ (fun x a hx => ?_)
    | with_reducible refine foldlSnd_touches ?_ (fun x a hx => ?_)
    | with_reducible assumption

/-- The parts State.putMap touches. -/
def State.putMap_foot : List Part := [.reg .WL_SPARE_MAP, .fld .keepPending]

theorem State.putMap_touches {W : List Part} {σ τ : State} {surf : Nat} {k : Nat} {p : Nat} (hW : ∀ p ∈ State.putMap_foot, p ∈ W)
    (hT : Touches W σ τ) : Touches W σ (State.putMap τ surf k p) := by
  unfold State.putMap
  try dsimp only
  repeat' first
    | with_reducible apply Touches.ite
    | with_reducible refine State.noteKeep_touches (hW _ (by simp [State.putMap_foot])) ?_
    | with_reducible refine State.setReg_touches (hW _ (by first | (simp [State.putMap_foot]; done) | (split <;> simp [State.putMap_foot] <;> done) | ((repeat' split) <;> simp [State.putMap_foot])))  ?_
    | split
    | with_reducible refine forN_touches ?_ (fun x k hx => ?_)
    | with_reducible refine foldl_touches ?_ (fun x a hx => ?_)
    | with_reducible refine foldlSnd_touches ?_ (fun x a hx => ?_)
    | with_reducible assumption

/-- The parts State.markLane touches. -/
def State.markLane_foot : List Part := [.reg .WL_SPARE_MAP, .fld .keepPending]

theorem State.markLane_touches {W : List Part} {σ τ : State} {surf : Nat} {p : Nat} {on : Bool} (hW : ∀ p ∈ State.markLane_foot, p ∈ W)
    (hT : Touches W σ τ) : Touches W σ (State.markLane τ surf p on) := by
  unfold State.markLane
  try dsimp only
  repeat' first
    | with_reducible apply Touches.ite
    | with_reducible refine State.noteKeep_touches (hW _ (by simp [State.markLane_foot])) ?_
    | with_reducible refine State.setReg_touches (hW _ (by first | (simp [State.markLane_foot]; done) | (split <;> simp [State.markLane_foot] <;> done) | ((repeat' split) <;> simp [State.markLane_foot])))  ?_
    | split
    | with_reducible refine forN_touches ?_ (fun x k hx => ?_)
    | with_reducible refine foldl_touches ?_ (fun x a hx => ?_)
    | with_reducible refine foldlSnd_touches ?_ (fun x a hx => ?_)
    | with_reducible assumption

/-- The parts State.setDesignated touches. -/
def State.setDesignated_foot : List Part := State.putMap_foot

theorem State.setDesignated_touches {W : List Part} {σ τ : State} {surf : Nat} {ps : List Nat} (hW : ∀ p ∈ State.setDesignated_foot, p ∈ W)
    (hT : Touches W σ τ) : Touches W σ (State.setDesignated τ surf ps) := by
  unfold State.setDesignated
  try dsimp only
  repeat' first
    | with_reducible apply Touches.ite
    | with_reducible refine State.putMap_touches (fun p hp => hW p (by unfold State.setDesignated_foot; repeat first | with_reducible exact hp | with_reducible exact List.mem_append_right _ hp | with_reducible apply List.mem_append_left)) ?_
    | split
    | with_reducible refine forN_touches ?_ (fun x k hx => ?_)
    | with_reducible refine foldl_touches ?_ (fun x a hx => ?_)
    | with_reducible refine foldlSnd_touches ?_ (fun x a hx => ?_)
    | with_reducible assumption

/-- The parts State.undesignate touches. -/
def State.undesignate_foot : List Part := State.setDesignated_foot

theorem State.undesignate_touches {W : List Part} {σ τ : State} {surf : Nat} {p : Nat} (hW : ∀ p ∈ State.undesignate_foot, p ∈ W)
    (hT : Touches W σ τ) : Touches W σ (State.undesignate τ surf p) := by
  unfold State.undesignate
  try dsimp only
  repeat' first
    | with_reducible apply Touches.ite
    | with_reducible refine State.setDesignated_touches (fun p hp => hW p (by unfold State.undesignate_foot; repeat first | with_reducible exact hp | with_reducible exact List.mem_append_right _ hp | with_reducible apply List.mem_append_left)) ?_
    | split
    | with_reducible refine forN_touches ?_ (fun x k hx => ?_)
    | with_reducible refine foldl_touches ?_ (fun x a hx => ?_)
    | with_reducible refine foldlSnd_touches ?_ (fun x a hx => ?_)
    | with_reducible assumption

/-- The parts State.handOver touches. -/
def State.handOver_foot : List Part := [.fld .msgBlocks]

theorem State.handOver_touches {W : List Part} {σ τ : State} {surf : Nat} {mseq : Nat} {mtype : Nat} {bytes : List Byte} (hW : ∀ p ∈ State.handOver_foot, p ∈ W)
    (hT : Touches W σ τ) : Touches W σ (State.handOver τ surf mseq mtype bytes) := by
  unfold State.handOver
  try dsimp only
  repeat' first
    | with_reducible apply Touches.ite
    | split
    | with_reducible refine forN_touches ?_ (fun x k hx => ?_)
    | with_reducible refine foldl_touches ?_ (fun x a hx => ?_)
    | with_reducible refine foldlSnd_touches ?_ (fun x a hx => ?_)
    | with_reducible assumption
    | with_reducible refine touches_mk (fun f => by cases f <;> first | exact .inr (by with_reducible rfl) | exact .inl (hW _ (by simp [State.handOver_foot]))) ?_

/-- The parts State.sendFwd touches. -/
def State.sendFwd_foot : List Part := [.reg .iWL_MSEQ, .fld .fwd, .fld .sent] ++ State.handOver_foot

theorem State.sendFwd_touches {W : List Part} {σ τ : State} {surf : Nat} {mtype : Nat} {bytes : List Byte} (hW : ∀ p ∈ State.sendFwd_foot, p ∈ W)
    (hT : Touches W σ τ) : Touches W σ (State.sendFwd τ surf mtype bytes) := by
  unfold State.sendFwd
  try dsimp only
  repeat' first
    | with_reducible apply Touches.ite
    | with_reducible refine State.sendMore_touches (hW _ (by simp [State.sendFwd_foot])) ?_
    | with_reducible refine State.handOver_touches (fun p hp => hW p (by unfold State.sendFwd_foot; repeat first | with_reducible exact hp | with_reducible exact List.mem_append_right _ hp | with_reducible apply List.mem_append_left)) ?_
    | with_reducible refine State.setReg_touches (hW _ (by first | (simp [State.sendFwd_foot]; done) | (split <;> simp [State.sendFwd_foot] <;> done) | ((repeat' split) <;> simp [State.sendFwd_foot])))  ?_
    | split
    | with_reducible refine forN_touches ?_ (fun x k hx => ?_)
    | with_reducible refine foldl_touches ?_ (fun x a hx => ?_)
    | with_reducible refine foldlSnd_touches ?_ (fun x a hx => ?_)
    | with_reducible assumption
    | with_reducible refine touches_mk (fun f => by cases f <;> first | exact .inr (by with_reducible rfl) | exact .inl (hW _ (by simp [State.sendFwd_foot]))) ?_

/-- The parts State.takeMsgs touches. -/
def State.takeMsgs_foot : List Part := [.fld .msgBlocks]

theorem State.takeMsgs_touches {W : List Part} {σ τ : State} {surf : Nat} {p : Nat} (hW : ∀ p ∈ State.takeMsgs_foot, p ∈ W)
    (hT : Touches W σ τ) : Touches W σ (State.takeMsgs τ surf p) := by
  unfold State.takeMsgs
  try dsimp only
  repeat' first
    | with_reducible apply Touches.ite
    | split
    | with_reducible refine forN_touches ?_ (fun x k hx => ?_)
    | with_reducible refine foldl_touches ?_ (fun x a hx => ?_)
    | with_reducible refine foldlSnd_touches ?_ (fun x a hx => ?_)
    | with_reducible assumption
    | with_reducible refine touches_mk (fun f => by cases f <;> first | exact .inr (by with_reducible rfl) | exact .inl (hW _ (by simp [State.takeMsgs_foot]))) ?_

/-- The parts State.sendConfig touches. -/
def State.sendConfig_foot : List Part := State.sendFwd_foot

theorem State.sendConfig_touches {W : List Part} {σ τ : State} {surf : Nat} (hW : ∀ p ∈ State.sendConfig_foot, p ∈ W)
    (hT : Touches W σ τ) : Touches W σ (State.sendConfig τ surf) := by
  unfold State.sendConfig
  try dsimp only
  repeat' first
    | with_reducible apply Touches.ite
    | with_reducible refine State.sendFwd_touches (fun p hp => hW p (by unfold State.sendConfig_foot; repeat first | with_reducible exact hp | with_reducible exact List.mem_append_right _ hp | with_reducible apply List.mem_append_left)) ?_
    | split
    | with_reducible refine forN_touches ?_ (fun x k hx => ?_)
    | with_reducible refine foldl_touches ?_ (fun x a hx => ?_)
    | with_reducible refine foldlSnd_touches ?_ (fun x a hx => ?_)
    | with_reducible assumption

/-- The parts State.announce touches. -/
def State.announce_foot : List Part := [.reg .iWL_CFGAT] ++ State.sendFwd_foot

theorem State.announce_touches {W : List Part} {σ τ : State} {t : State} {surf : Nat} {frame : Nat} (hW : ∀ p ∈ State.announce_foot, p ∈ W)
    (hT : Touches W σ τ) : Touches W σ (State.announce τ t surf frame) := by
  unfold State.announce
  try dsimp only
  repeat' first
    | with_reducible apply Touches.ite
    | with_reducible refine State.sendFwd_touches (fun p hp => hW p (by unfold State.announce_foot; repeat first | with_reducible exact hp | with_reducible exact List.mem_append_right _ hp | with_reducible apply List.mem_append_left)) ?_
    | with_reducible refine State.setReg_touches (hW _ (by first | (simp [State.announce_foot]; done) | (split <;> simp [State.announce_foot] <;> done) | ((repeat' split) <;> simp [State.announce_foot])))  ?_
    | split
    | with_reducible refine forN_touches ?_ (fun x k hx => ?_)
    | with_reducible refine foldl_touches ?_ (fun x a hx => ?_)
    | with_reducible refine foldlSnd_touches ?_ (fun x a hx => ?_)
    | with_reducible assumption

/-- The parts execFwdMsgResend touches. -/
def execFwdMsgResend_foot : List Part := [.fld .fwd, .fld .sent] ++ State.handOver_foot ++ State.raise_foot

theorem execFwdMsgResend_touches {W : List Part} {σ τ : State} {surf : Surface} (hW : ∀ p ∈ execFwdMsgResend_foot, p ∈ W)
    (hT : Touches W σ τ) : OutTouches W σ (execFwdMsgResend surf τ) := by
  unfold execFwdMsgResend
  try dsimp only
  repeat' first
    | with_reducible apply OutTouches.ite
    | with_reducible refine OutTouches.next ?_
    | with_reducible apply Touches.ite
    | with_reducible refine State.send_touches (hW _ (by simp [execFwdMsgResend_foot])) ?_
    | with_reducible refine State.handOver_touches (fun p hp => hW p (by unfold execFwdMsgResend_foot; repeat first | with_reducible exact hp | with_reducible exact List.mem_append_right _ hp | with_reducible apply List.mem_append_left)) ?_
    | with_reducible refine State.raise_touches (fun p hp => hW p (by unfold execFwdMsgResend_foot; repeat first | with_reducible exact hp | with_reducible exact List.mem_append_right _ hp | with_reducible apply List.mem_append_left)) ?_
    | split
    | with_reducible refine forN_touches ?_ (fun x k hx => ?_)
    | with_reducible refine foldl_touches ?_ (fun x a hx => ?_)
    | with_reducible refine foldlSnd_touches ?_ (fun x a hx => ?_)
    | with_reducible assumption
    | with_reducible refine touches_mk (fun f => by cases f <;> first | exact .inr (by with_reducible rfl) | exact .inl (hW _ (by simp [execFwdMsgResend_foot]))) ?_

end Sys2Proof.Machine
end

