-- ==== Sys2Proof/Laws/TouchesDeadline.lean ====
section
/-! SUPPORT. What the functions of Machine/Deadline.lean touch. -/
namespace Sys2Proof.Machine
set_option linter.all false

/-- The parts State.implicitCommit touches. -/
def State.implicitCommit_foot : List Part := [.fld .staged, .fld .commits] ++ State.newId_foot

theorem State.implicitCommit_touches {W : List Part} {σ τ : State} {surf : Nat} (hW : ∀ p ∈ State.implicitCommit_foot, p ∈ W)
    (hT : Touches W σ τ) : Touches W σ (State.implicitCommit τ surf) := by
  unfold State.implicitCommit
  try dsimp only
  repeat' first
    | with_reducible apply Touches.ite
    | with_reducible refine Touches.ofPair (by assumption) (State.newId_touches (fun p hp => hW p (by unfold State.implicitCommit_foot; repeat first | with_reducible exact hp | with_reducible exact List.mem_append_right _ hp | with_reducible apply List.mem_append_left)) ?_)
    | with_reducible refine State.newId_touches (fun p hp => hW p (by unfold State.implicitCommit_foot; repeat first | with_reducible exact hp | with_reducible exact List.mem_append_right _ hp | with_reducible apply List.mem_append_left)) ?_
    | split
    | with_reducible refine forN_touches ?_ (fun x k hx => ?_)
    | with_reducible refine foldl_touches ?_ (fun x a hx => ?_)
    | with_reducible refine foldlSnd_touches ?_ (fun x a hx => ?_)
    | with_reducible assumption
    | with_reducible refine touches_mk (fun f => by cases f <;> first | exact .inr (by with_reducible rfl) | exact .inl (hW _ (by simp [State.implicitCommit_foot]))) ?_

/-- The parts State.swapBuffer touches. -/
def State.swapBuffer_foot : List Part := State.setBank_foot

theorem State.swapBuffer_touches {W : List Part} {σ τ : State} {n : Nat} (hW : ∀ p ∈ State.swapBuffer_foot, p ∈ W)
    (hT : Touches W σ τ) : Touches W σ (State.swapBuffer τ n) := by
  unfold State.swapBuffer
  try dsimp only
  repeat' first
    | with_reducible apply Touches.ite
    | with_reducible refine State.setBank_touches (fun p hp => hW p (by unfold State.swapBuffer_foot; repeat first | with_reducible exact hp | with_reducible exact List.mem_append_right _ hp | with_reducible apply List.mem_append_left)) ?_
    | split
    | with_reducible refine forN_touches ?_ (fun x k hx => ?_)
    | with_reducible refine foldl_touches ?_ (fun x a hx => ?_)
    | with_reducible refine foldlSnd_touches ?_ (fun x a hx => ?_)
    | with_reducible assumption

/-- The parts State.publish32 touches. -/
def State.publish32_foot : List Part := [.fld .draws]

theorem State.publish32_touches {W : List Part} {σ τ : State} {r : Reg} {i : Nat} {v : Nat}
    (h_r : Part.reg r ∈ W) (hW : ∀ p ∈ State.publish32_foot, p ∈ W)
    (hT : Touches W σ τ) : Touches W σ (State.publish32 τ r i v) := by
  unfold State.publish32
  try dsimp only
  repeat' first
    | with_reducible apply Touches.ite
    | with_reducible refine State.setReg_touches (by first | assumption | exact (hW _ (by first | (simp [State.publish32_foot]; done) | (split <;> simp [State.publish32_foot] <;> done) | ((repeat' split) <;> simp [State.publish32_foot]))))  ?_
    | with_reducible refine State.draw_touches (hW _ (by simp [State.publish32_foot])) ?_
    | with_reducible refine Touches.ofPair (by assumption) (State.draw_touches (hW _ (by simp [State.publish32_foot])) ?_)
    | split
    | with_reducible refine forN_touches ?_ (fun x k hx => ?_)
    | with_reducible refine foldl_touches ?_ (fun x a hx => ?_)
    | with_reducible refine foldlSnd_touches ?_ (fun x a hx => ?_)
    | with_reducible assumption

/-- The parts State.publishVerdict touches. -/
def State.publishVerdict_foot : List Part := [.reg .ADM_COST_BYTES, .reg .ADM_COST_DEC, .reg .ADM_COST_SAMP, .reg .ADM_COST_OPS, .reg .ADM_BUDGET_BYTES, .reg .ADM_BUDGET_DEC, .reg .ADM_BUDGET_SAMP, .reg .ADM_BUDGET_OPS, .reg .ADM_LAST_COMMIT, .reg .ADM_WORST_BAND, .reg .ADM_LAST_REASON, .reg .ADM_LAST_RESULT] ++ State.publish32_foot

theorem State.publishVerdict_touches {W : List Part} {σ τ : State} {id : Nat} {accepted : Bool} {v : Verdict} (hW : ∀ p ∈ State.publishVerdict_foot, p ∈ W)
    (hT : Touches W σ τ) : Touches W σ (State.publishVerdict τ id accepted v) := by
  unfold State.publishVerdict
  try dsimp only
  repeat' first
    | with_reducible apply Touches.ite
    | with_reducible refine State.publish32_touches (hW _ (by first | (simp [State.publishVerdict_foot]; done) | (split <;> simp [State.publishVerdict_foot] <;> done) | ((repeat' split) <;> simp [State.publishVerdict_foot]))) (fun p hp => hW p (by unfold State.publishVerdict_foot; repeat first | with_reducible exact hp | with_reducible exact List.mem_append_right _ hp | with_reducible apply List.mem_append_left)) ?_
    | with_reducible refine State.setReg_touches (hW _ (by first | (simp [State.publishVerdict_foot]; done) | (split <;> simp [State.publishVerdict_foot] <;> done) | ((repeat' split) <;> simp [State.publishVerdict_foot])))  ?_
    | split
    | with_reducible refine forN_touches ?_ (fun x k hx => ?_)
    | with_reducible refine foldl_touches ?_ (fun x a hx => ?_)
    | with_reducible refine foldlSnd_touches ?_ (fun x a hx => ?_)
    | with_reducible assumption

/-- The parts State.acceptOn touches. -/
def State.acceptOn_foot : List Part := [.reg .HZ_SHORT, .fld .accepted]

theorem State.acceptOn_touches {W : List Part} {σ τ : State} {deadlineSurf : Nat} {c : Commit} {v : Verdict} (hW : ∀ p ∈ State.acceptOn_foot, p ∈ W)
    (hT : Touches W σ τ) : Touches W σ (State.acceptOn τ deadlineSurf c v) := by
  unfold State.acceptOn
  try dsimp only
  repeat' first
    | with_reducible apply Touches.ite
    | with_reducible refine State.setReg_touches (hW _ (by first | (simp [State.acceptOn_foot]; done) | (split <;> simp [State.acceptOn_foot] <;> done) | ((repeat' split) <;> simp [State.acceptOn_foot])))  ?_
    | split
    | with_reducible refine forN_touches ?_ (fun x k hx => ?_)
    | with_reducible refine foldl_touches ?_ (fun x a hx => ?_)
    | with_reducible refine foldlSnd_touches ?_ (fun x a hx => ?_)
    | with_reducible assumption
    | with_reducible refine touches_mk (fun f => by cases f <;> first | exact .inr (by with_reducible rfl) | exact .inl (hW _ (by simp [State.acceptOn_foot]))) ?_

/-- The parts State.dropStep touches. -/
def State.dropStep_foot : List Part := State.setBank_foot

theorem State.dropStep_touches {W : List Part} {σ τ : State} {c : Commit} (hW : ∀ p ∈ State.dropStep_foot, p ∈ W)
    (hT : Touches W σ τ) : Touches W σ (State.dropStep τ c) := by
  unfold State.dropStep
  try dsimp only
  repeat' first
    | with_reducible apply Touches.ite
    | with_reducible refine State.setBank_touches (fun p hp => hW p (by unfold State.dropStep_foot; repeat first | with_reducible exact hp | with_reducible exact List.mem_append_right _ hp | with_reducible apply List.mem_append_left)) ?_
    | split
    | with_reducible refine forN_touches ?_ (fun x k hx => ?_)
    | with_reducible refine foldl_touches ?_ (fun x a hx => ?_)
    | with_reducible refine foldlSnd_touches ?_ (fun x a hx => ?_)
    | with_reducible assumption

/-- The parts State.refuseOn touches. -/
def State.refuseOn_foot : List Part := [.reg .CMT_REFUSED, .reg .PB_REFUSED] ++ State.dropStep_foot ++ State.raise_foot

theorem State.refuseOn_touches {W : List Part} {σ τ : State} {c : Commit} {v : Verdict} (hW : ∀ p ∈ State.refuseOn_foot, p ∈ W)
    (hT : Touches W σ τ) : Touches W σ (State.refuseOn τ c v) := by
  unfold State.refuseOn
  try dsimp only
  repeat' first
    | with_reducible apply Touches.ite
    | with_reducible refine cond_touches ?_ (fun x hx => ?_)
    | with_reducible refine State.bump_touches (hW _ (by first | (simp [State.refuseOn_foot]; done) | (split <;> simp [State.refuseOn_foot] <;> done) | ((repeat' split) <;> simp [State.refuseOn_foot])))  ?_
    | with_reducible refine State.dropStep_touches (fun p hp => hW p (by unfold State.refuseOn_foot; repeat first | with_reducible exact hp | with_reducible exact List.mem_append_right _ hp | with_reducible apply List.mem_append_left)) ?_
    | with_reducible refine State.raise_touches (fun p hp => hW p (by unfold State.refuseOn_foot; repeat first | with_reducible exact hp | with_reducible exact List.mem_append_right _ hp | with_reducible apply List.mem_append_left)) ?_
    | split
    | with_reducible refine forN_touches ?_ (fun x k hx => ?_)
    | with_reducible refine foldl_touches ?_ (fun x a hx => ?_)
    | with_reducible refine foldlSnd_touches ?_ (fun x a hx => ?_)
    | with_reducible assumption

/-- The parts State.evaluate touches. -/
def State.evaluate_foot : List Part := [.reg .CG_RESULT, .reg .CG_STATE, .fld .commits, .fld .accepted] ++ State.publishVerdict_foot ++ State.acceptOn_foot ++ State.refuseOn_foot ++ State.idleGroup_foot

theorem State.evaluate_touches {W : List Part} {σ τ : State} {surf : Nat} {c : Commit} (hW : ∀ p ∈ State.evaluate_foot, p ∈ W)
    (hT : Touches W σ τ) : Touches W σ (State.evaluate τ surf c) := by
  unfold State.evaluate
  try dsimp only
  repeat' first
    | with_reducible apply Touches.ite
    | with_reducible refine State.publishVerdict_touches (fun p hp => hW p (by unfold State.evaluate_foot; repeat first | with_reducible exact hp | with_reducible exact List.mem_append_right _ hp | with_reducible apply List.mem_append_left)) ?_
    | with_reducible refine State.acceptOn_touches (fun p hp => hW p (by unfold State.evaluate_foot; repeat first | with_reducible exact hp | with_reducible exact List.mem_append_right _ hp | with_reducible apply List.mem_append_left)) ?_
    | with_reducible refine State.refuseOn_touches (fun p hp => hW p (by unfold State.evaluate_foot; repeat first | with_reducible exact hp | with_reducible exact List.mem_append_right _ hp | with_reducible apply List.mem_append_left)) ?_
    | with_reducible refine State.setReg_touches (hW _ (by first | (simp [State.evaluate_foot]; done) | (split <;> simp [State.evaluate_foot] <;> done) | ((repeat' split) <;> simp [State.evaluate_foot])))  ?_
    | with_reducible refine State.idleGroup_touches (fun p hp => hW p (by unfold State.evaluate_foot; repeat first | with_reducible exact hp | with_reducible exact List.mem_append_right _ hp | with_reducible apply List.mem_append_left)) ?_
    | split
    | with_reducible refine forN_touches ?_ (fun x k hx => ?_)
    | with_reducible refine foldl_touches ?_ (fun x a hx => ?_)
    | with_reducible refine foldlSnd_touches ?_ (fun x a hx => ?_)
    | with_reducible assumption
    | with_reducible refine touches_mk (fun f => by cases f <;> first | exact .inr (by with_reducible rfl) | exact .inl (hW _ (by simp [State.evaluate_foot]))) ?_

/-- The parts State.evaluateDue touches. -/
def State.evaluateDue_foot : List Part := [.reg .CMT_DEFERRED] ++ State.sealFill_foot ++ State.evaluate_foot

theorem State.evaluateDue_touches {W : List Part} {σ τ : State} {surf : Nat} (hW : ∀ p ∈ State.evaluateDue_foot, p ∈ W)
    (hT : Touches W σ τ) : Touches W σ (State.evaluateDue τ surf) := by
  unfold State.evaluateDue
  try dsimp only
  repeat' first
    | with_reducible apply Touches.ite
    | with_reducible refine State.bumpBy_touches (hW _ (by first | (simp [State.evaluateDue_foot]; done) | (split <;> simp [State.evaluateDue_foot] <;> done) | ((repeat' split) <;> simp [State.evaluateDue_foot])))  ?_
    | with_reducible refine State.sealFill_touches (fun p hp => hW p (by unfold State.evaluateDue_foot; repeat first | with_reducible exact hp | with_reducible exact List.mem_append_right _ hp | with_reducible apply List.mem_append_left)) ?_
    | with_reducible refine State.evaluate_touches (fun p hp => hW p (by unfold State.evaluateDue_foot; repeat first | with_reducible exact hp | with_reducible exact List.mem_append_right _ hp | with_reducible apply List.mem_append_left)) ?_
    | split
    | with_reducible refine forN_touches ?_ (fun x k hx => ?_)
    | with_reducible refine foldl_touches ?_ (fun x a hx => ?_)
    | with_reducible refine foldlSnd_touches ?_ (fun x a hx => ?_)
    | with_reducible assumption

/-- The parts State.decideLight touches. -/
def State.decideLight_foot : List Part := [.reg .iS_LIGHT]

theorem State.decideLight_touches {W : List Part} {σ τ : State} {surf : Nat} (hW : ∀ p ∈ State.decideLight_foot, p ∈ W)
    (hT : Touches W σ τ) : Touches W σ (State.decideLight τ surf) := by
  unfold State.decideLight
  try dsimp only
  repeat' first
    | with_reducible apply Touches.ite
    | with_reducible refine State.setReg_touches (hW _ (by first | (simp [State.decideLight_foot]; done) | (split <;> simp [State.decideLight_foot] <;> done) | ((repeat' split) <;> simp [State.decideLight_foot])))  ?_
    | split
    | with_reducible refine forN_touches ?_ (fun x k hx => ?_)
    | with_reducible refine foldl_touches ?_ (fun x a hx => ?_)
    | with_reducible refine foldlSnd_touches ?_ (fun x a hx => ?_)
    | with_reducible assumption

/-- The parts State.noteDeadline touches. -/
def State.noteDeadline_foot : List Part := [.fld .lutShadow] ++ State.seeArray_foot

theorem State.noteDeadline_touches {W : List Part} {σ τ : State} {surf : Nat} (hW : ∀ p ∈ State.noteDeadline_foot, p ∈ W)
    (hT : Touches W σ τ) : Touches W σ (State.noteDeadline τ surf) := by
  unfold State.noteDeadline
  try dsimp only
  repeat' first
    | with_reducible apply Touches.ite
    | with_reducible refine State.seeArray_touches (fun p hp => hW p (by unfold State.noteDeadline_foot; repeat first | with_reducible exact hp | with_reducible exact List.mem_append_right _ hp | with_reducible apply List.mem_append_left)) ?_
    | split
    | with_reducible refine forN_touches ?_ (fun x k hx => ?_)
    | with_reducible refine foldl_touches ?_ (fun x a hx => ?_)
    | with_reducible refine foldlSnd_touches ?_ (fun x a hx => ?_)
    | with_reducible assumption
    | with_reducible refine touches_mk (fun f => by cases f <;> first | exact .inr (by with_reducible rfl) | exact .inl (hW _ (by simp [State.noteDeadline_foot]))) ?_

/-- The parts State.announceAccepted touches. -/
def State.announceAccepted_foot : List Part := State.announce_foot

theorem State.announceAccepted_touches {W : List Part} {σ τ : State} {m : Nat} (hW : ∀ p ∈ State.announceAccepted_foot, p ∈ W)
    (hT : Touches W σ τ) : Touches W σ (State.announceAccepted τ m) := by
  unfold State.announceAccepted
  try dsimp only
  repeat' first
    | with_reducible apply Touches.ite
    | with_reducible refine State.announce_touches (fun p hp => hW p (by unfold State.announceAccepted_foot; repeat first | with_reducible exact hp | with_reducible exact List.mem_append_right _ hp | with_reducible apply List.mem_append_left)) ?_
    | split
    | with_reducible refine forN_touches ?_ (fun x k hx => ?_)
    | with_reducible refine foldl_touches ?_ (fun x a hx => ?_)
    | with_reducible refine foldlSnd_touches ?_ (fun x a hx => ?_)
    | with_reducible assumption

/-- The parts execCommitDeadline touches. -/
def execCommitDeadline_foot : List Part := [.reg .iS_DEADLINE, .fld .sent] ++ State.refreshNext_foot ++ State.see_foot ++ State.cueStep_foot ++ State.decideLight_foot ++ State.noteDeadline_foot ++ State.implicitCommit_foot ++ State.evaluateDue_foot ++ State.announceAccepted_foot

theorem execCommitDeadline_touches {W : List Part} {σ τ : State} {surf : Surface} {seen : Seen} (hW : ∀ p ∈ execCommitDeadline_foot, p ∈ W)
    (hT : Touches W σ τ) : OutTouches W σ (execCommitDeadline surf seen τ) := by
  unfold execCommitDeadline
  try dsimp only
  repeat' first
    | with_reducible apply OutTouches.ite
    | with_reducible refine OutTouches.next ?_
    | with_reducible apply Touches.ite
    | with_reducible refine State.setReg_touches (hW _ (by first | (simp [execCommitDeadline_foot]; done) | (split <;> simp [execCommitDeadline_foot] <;> done) | ((repeat' split) <;> simp [execCommitDeadline_foot])))  ?_
    | with_reducible refine State.refreshNext_touches (fun p hp => hW p (by unfold execCommitDeadline_foot; repeat first | with_reducible exact hp | with_reducible exact List.mem_append_right _ hp | with_reducible apply List.mem_append_left)) ?_
    | with_reducible refine State.see_touches (fun p hp => hW p (by unfold execCommitDeadline_foot; repeat first | with_reducible exact hp | with_reducible exact List.mem_append_right _ hp | with_reducible apply List.mem_append_left)) ?_
    | with_reducible refine State.send_touches (hW _ (by simp [execCommitDeadline_foot])) ?_
    | with_reducible refine State.cueStep_touches (fun p hp => hW p (by unfold execCommitDeadline_foot; repeat first | with_reducible exact hp | with_reducible exact List.mem_append_right _ hp | with_reducible apply List.mem_append_left)) ?_
    | with_reducible refine State.decideLight_touches (fun p hp => hW p (by unfold execCommitDeadline_foot; repeat first | with_reducible exact hp | with_reducible exact List.mem_append_right _ hp | with_reducible apply List.mem_append_left)) ?_
    | with_reducible refine State.noteDeadline_touches (fun p hp => hW p (by unfold execCommitDeadline_foot; repeat first | with_reducible exact hp | with_reducible exact List.mem_append_right _ hp | with_reducible apply List.mem_append_left)) ?_
    | with_reducible refine State.implicitCommit_touches (fun p hp => hW p (by unfold execCommitDeadline_foot; repeat first | with_reducible exact hp | with_reducible exact List.mem_append_right _ hp | with_reducible apply List.mem_append_left)) ?_
    | with_reducible refine State.evaluateDue_touches (fun p hp => hW p (by unfold execCommitDeadline_foot; repeat first | with_reducible exact hp | with_reducible exact List.mem_append_right _ hp | with_reducible apply List.mem_append_left)) ?_
    | with_reducible refine State.announceAccepted_touches (fun p hp => hW p (by unfold execCommitDeadline_foot; repeat first | with_reducible exact hp | with_reducible exact List.mem_append_right _ hp | with_reducible apply List.mem_append_left)) ?_
    | split
    | with_reducible refine forN_touches ?_ (fun x k hx => ?_)
    | with_reducible refine foldl_touches ?_ (fun x a hx => ?_)
    | with_reducible refine foldlSnd_touches ?_ (fun x a hx => ?_)
    | with_reducible assumption

end Sys2Proof.Machine
end

