-- ==== Sys2Proof/Laws/TouchesWelt.lean ====
section
/-! SUPPORT. What the functions of Machine/Welt.lean touch. -/
namespace Sys2Proof.Machine
set_option linter.all false

/-- The parts State.haltLane touches. -/
def State.haltLane_foot : List Part := [.reg .iWL_PH, .reg .iWL_CTX, .reg .iWL_BUSY, .fld .grants, .fld .highReqs, .fld .normalReqs]

theorem State.haltLane_touches {W : List Part} {σ τ : State} {surf : Nat} {p : Nat} (hW : ∀ p ∈ State.haltLane_foot, p ∈ W)
    (hT : Touches W σ τ) : Touches W σ (State.haltLane τ surf p) := by
  unfold State.haltLane
  try dsimp only
  repeat' first
    | with_reducible apply Touches.ite
    | with_reducible refine State.setReg_touches (hW _ (by first | (simp [State.haltLane_foot]; done) | (split <;> simp [State.haltLane_foot] <;> done) | ((repeat' split) <;> simp [State.haltLane_foot])))  ?_
    | with_reducible refine State.release_touches (hW _ (by simp [State.haltLane_foot])) (hW _ (by simp [State.haltLane_foot])) (hW _ (by simp [State.haltLane_foot])) ?_
    | split
    | with_reducible refine forN_touches ?_ (fun x k hx => ?_)
    | with_reducible refine foldl_touches ?_ (fun x a hx => ?_)
    | with_reducible refine foldlSnd_touches ?_ (fun x a hx => ?_)
    | with_reducible assumption

/-- The parts State.toDetect touches. -/
def State.toDetect_foot : List Part := [.reg .iWL_PULSE, .reg .iWL_FAILS, .reg .iWL_ABS, .reg .iWL_PRES, .reg .iWL_CTX] ++ State.setLane_foot ++ State.haltLane_foot

theorem State.toDetect_touches {W : List Part} {σ τ : State} {surf : Nat} {p : Nat} {ctx : Nat} (hW : ∀ p ∈ State.toDetect_foot, p ∈ W)
    (hT : Touches W σ τ) : Touches W σ (State.toDetect τ surf p ctx) := by
  unfold State.toDetect
  try dsimp only
  repeat' first
    | with_reducible apply Touches.ite
    | with_reducible refine State.setReg_touches (hW _ (by first | (simp [State.toDetect_foot]; done) | (split <;> simp [State.toDetect_foot] <;> done) | ((repeat' split) <;> simp [State.toDetect_foot])))  ?_
    | with_reducible refine State.setLane_touches (fun p hp => hW p (by unfold State.toDetect_foot; repeat first | with_reducible exact hp | with_reducible exact List.mem_append_right _ hp | with_reducible apply List.mem_append_left)) ?_
    | with_reducible refine State.haltLane_touches (fun p hp => hW p (by unfold State.toDetect_foot; repeat first | with_reducible exact hp | with_reducible exact List.mem_append_right _ hp | with_reducible apply List.mem_append_left)) ?_
    | split
    | with_reducible refine forN_touches ?_ (fun x k hx => ?_)
    | with_reducible refine foldl_touches ?_ (fun x a hx => ?_)
    | with_reducible refine foldlSnd_touches ?_ (fun x a hx => ?_)
    | with_reducible assumption

/-- The parts State.setPhase touches. -/
def State.setPhase_foot : List Part := [.reg .iWL_SINCE, .reg .iWL_PH] ++ State.setLane_foot

theorem State.setPhase_touches {W : List Part} {σ τ : State} {surf : Nat} {p : Nat} {ph : Nat} (hW : ∀ p ∈ State.setPhase_foot, p ∈ W)
    (hT : Touches W σ τ) : Touches W σ (State.setPhase τ surf p ph) := by
  unfold State.setPhase
  try dsimp only
  repeat' first
    | with_reducible apply Touches.ite
    | with_reducible refine State.setReg_touches (hW _ (by first | (simp [State.setPhase_foot]; done) | (split <;> simp [State.setPhase_foot] <;> done) | ((repeat' split) <;> simp [State.setPhase_foot])))  ?_
    | with_reducible refine State.setLane_touches (fun p hp => hW p (by unfold State.setPhase_foot; repeat first | with_reducible exact hp | with_reducible exact List.mem_append_right _ hp | with_reducible apply List.mem_append_left)) ?_
    | split
    | with_reducible refine forN_touches ?_ (fun x k hx => ?_)
    | with_reducible refine foldl_touches ?_ (fun x a hx => ?_)
    | with_reducible refine foldlSnd_touches ?_ (fun x a hx => ?_)
    | with_reducible assumption

/-- The parts State.toTrain touches. -/
def State.toTrain_foot : List Part := [.reg .iWL_TSAT, .reg .iWL_EQREJ, .reg .iWL_BLK, .reg .iWL_BIT, .reg .WL_COEFF] ++ State.setPhase_foot

theorem State.toTrain_touches {W : List Part} {σ τ : State} {surf : Nat} {p : Nat} (hW : ∀ p ∈ State.toTrain_foot, p ∈ W)
    (hT : Touches W σ τ) : Touches W σ (State.toTrain τ surf p) := by
  unfold State.toTrain
  try dsimp only
  repeat' first
    | with_reducible apply Touches.ite
    | with_reducible refine State.setReg_touches (hW _ (by first | (simp [State.toTrain_foot]; done) | (split <;> simp [State.toTrain_foot] <;> done) | ((repeat' split) <;> simp [State.toTrain_foot])))  ?_
    | with_reducible refine State.setPhase_touches (fun p hp => hW p (by unfold State.toTrain_foot; repeat first | with_reducible exact hp | with_reducible exact List.mem_append_right _ hp | with_reducible apply List.mem_append_left)) ?_
    | split
    | with_reducible refine forN_touches ?_ (fun x k hx => ?_)
    | with_reducible refine foldl_touches ?_ (fun x a hx => ?_)
    | with_reducible refine foldlSnd_touches ?_ (fun x a hx => ?_)
    | with_reducible assumption

/-- The parts State.dropEqs touches. -/
def State.dropEqs_foot : List Part := [.fld .eqReqs]

theorem State.dropEqs_touches {W : List Part} {σ τ : State} {surf : Nat} {p : Nat} (hW : ∀ p ∈ State.dropEqs_foot, p ∈ W)
    (hT : Touches W σ τ) : Touches W σ (State.dropEqs τ surf p) := by
  unfold State.dropEqs
  try dsimp only
  repeat' first
    | with_reducible apply Touches.ite
    | split
    | with_reducible refine forN_touches ?_ (fun x k hx => ?_)
    | with_reducible refine foldl_touches ?_ (fun x a hx => ?_)
    | with_reducible refine foldlSnd_touches ?_ (fun x a hx => ?_)
    | with_reducible assumption
    | with_reducible refine touches_mk (fun f => by cases f <;> first | exact .inr (by with_reducible rfl) | exact .inl (hW _ (by simp [State.dropEqs_foot]))) ?_

/-- The parts State.toExchange touches. -/
def State.toExchange_foot : List Part := [.reg .iWL_CFG, .reg .iWL_REQN, .reg .iWL_CFGACK, .reg .iWL_NEG] ++ State.sendConfig_foot ++ State.dropEqs_foot ++ State.setPhase_foot

theorem State.toExchange_touches {W : List Part} {σ τ : State} {surf : Nat} {p : Nat} (hW : ∀ p ∈ State.toExchange_foot, p ∈ W)
    (hT : Touches W σ τ) : Touches W σ (State.toExchange τ surf p) := by
  unfold State.toExchange
  try dsimp only
  repeat' first
    | with_reducible apply Touches.ite
    | with_reducible refine State.sendConfig_touches (fun p hp => hW p (by unfold State.toExchange_foot; repeat first | with_reducible exact hp | with_reducible exact List.mem_append_right _ hp | with_reducible apply List.mem_append_left)) ?_
    | with_reducible refine State.setReg_touches (hW _ (by first | (simp [State.toExchange_foot]; done) | (split <;> simp [State.toExchange_foot] <;> done) | ((repeat' split) <;> simp [State.toExchange_foot])))  ?_
    | with_reducible refine State.dropEqs_touches (fun p hp => hW p (by unfold State.toExchange_foot; repeat first | with_reducible exact hp | with_reducible exact List.mem_append_right _ hp | with_reducible apply List.mem_append_left)) ?_
    | with_reducible refine State.setPhase_touches (fun p hp => hW p (by unfold State.toExchange_foot; repeat first | with_reducible exact hp | with_reducible exact List.mem_append_right _ hp | with_reducible apply List.mem_append_left)) ?_
    | split
    | with_reducible refine forN_touches ?_ (fun x k hx => ?_)
    | with_reducible refine foldl_touches ?_ (fun x a hx => ?_)
    | with_reducible refine foldlSnd_touches ?_ (fun x a hx => ?_)
    | with_reducible assumption

/-- The parts State.groupSent touches. -/
def State.groupSent_foot : List Part := [.reg .iWL_TSAT, .reg .iWL_TS] ++ State.takeMsgs_foot

theorem State.groupSent_touches {W : List Part} {σ τ : State} {surf : Nat} {p : Nat} (hW : ∀ p ∈ State.groupSent_foot, p ∈ W)
    (hT : Touches W σ τ) : Touches W σ (State.groupSent τ surf p) := by
  unfold State.groupSent
  try dsimp only
  repeat' first
    | with_reducible apply Touches.ite
    | with_reducible refine State.setReg_touches (hW _ (by first | (simp [State.groupSent_foot]; done) | (split <;> simp [State.groupSent_foot] <;> done) | ((repeat' split) <;> simp [State.groupSent_foot])))  ?_
    | with_reducible refine State.takeMsgs_touches (fun p hp => hW p (by unfold State.groupSent_foot; repeat first | with_reducible exact hp | with_reducible exact List.mem_append_right _ hp | with_reducible apply List.mem_append_left)) ?_
    | split
    | with_reducible refine forN_touches ?_ (fun x k hx => ?_)
    | with_reducible refine foldl_touches ?_ (fun x a hx => ?_)
    | with_reducible refine foldlSnd_touches ?_ (fun x a hx => ?_)
    | with_reducible assumption

/-- The parts State.stepDetect touches. -/
def State.stepDetect_foot : List Part := [.fld .highReqs, .fld .normalReqs, .fld .grants] ++ State.toTrain_foot

theorem State.stepDetect_touches {W : List Part} {σ τ : State} {surf : Nat} (hW : ∀ p ∈ State.stepDetect_foot, p ∈ W)
    (hT : Touches W σ τ) : Touches W σ (State.stepDetect τ surf) := by
  unfold State.stepDetect
  try dsimp only
  repeat' first
    | with_reducible apply Touches.ite
    | with_reducible refine State.toTrain_touches (fun p hp => hW p (by unfold State.stepDetect_foot; repeat first | with_reducible exact hp | with_reducible exact List.mem_append_right _ hp | with_reducible apply List.mem_append_left)) ?_
    | with_reducible refine State.request_touches (hW _ (by simp [State.stepDetect_foot])) (hW _ (by simp [State.stepDetect_foot])) ?_
    | with_reducible refine State.release_touches (hW _ (by simp [State.stepDetect_foot])) (hW _ (by simp [State.stepDetect_foot])) (hW _ (by simp [State.stepDetect_foot])) ?_
    | split
    | with_reducible refine forN_touches ?_ (fun x k hx => ?_)
    | with_reducible refine foldl_touches ?_ (fun x a hx => ?_)
    | with_reducible refine foldlSnd_touches ?_ (fun x a hx => ?_)
    | with_reducible assumption

/-- The parts State.laneToFault touches. -/
def State.laneToFault_foot : List Part := [.reg .WL_CAUSE, .fld .draws] ++ State.setLane_foot ++ State.haltLane_foot ++ State.undesignate_foot ++ State.markLane_foot ++ State.stepDetect_foot ++ State.raise_foot

theorem State.laneToFault_touches {W : List Part} {σ τ : State} {surf : Nat} {p : Nat} {mark : Bool} (hW : ∀ p ∈ State.laneToFault_foot, p ∈ W)
    (hT : Touches W σ τ) : Touches W σ (State.laneToFault τ surf p mark) := by
  unfold State.laneToFault
  try dsimp only
  repeat' first
    | with_reducible apply Touches.ite
    | with_reducible refine State.setLane_touches (fun p hp => hW p (by unfold State.laneToFault_foot; repeat first | with_reducible exact hp | with_reducible exact List.mem_append_right _ hp | with_reducible apply List.mem_append_left)) ?_
    | with_reducible refine State.haltLane_touches (fun p hp => hW p (by unfold State.laneToFault_foot; repeat first | with_reducible exact hp | with_reducible exact List.mem_append_right _ hp | with_reducible apply List.mem_append_left)) ?_
    | with_reducible refine cond_touches ?_ (fun x hx => ?_)
    | with_reducible refine State.undesignate_touches (fun p hp => hW p (by unfold State.laneToFault_foot; repeat first | with_reducible exact hp | with_reducible exact List.mem_append_right _ hp | with_reducible apply List.mem_append_left)) ?_
    | with_reducible refine State.markLane_touches (fun p hp => hW p (by unfold State.laneToFault_foot; repeat first | with_reducible exact hp | with_reducible exact List.mem_append_right _ hp | with_reducible apply List.mem_append_left)) ?_
    | with_reducible refine State.draw_touches (hW _ (by simp [State.laneToFault_foot])) ?_
    | with_reducible refine Touches.ofPair (by assumption) (State.draw_touches (hW _ (by simp [State.laneToFault_foot])) ?_)
    | with_reducible refine State.stepDetect_touches (fun p hp => hW p (by unfold State.laneToFault_foot; repeat first | with_reducible exact hp | with_reducible exact List.mem_append_right _ hp | with_reducible apply List.mem_append_left)) ?_
    | with_reducible refine State.raise_touches (fun p hp => hW p (by unfold State.laneToFault_foot; repeat first | with_reducible exact hp | with_reducible exact List.mem_append_right _ hp | with_reducible apply List.mem_append_left)) ?_
    | with_reducible refine State.setReg_touches (hW _ (by first | (simp [State.laneToFault_foot]; done) | (split <;> simp [State.laneToFault_foot] <;> done) | ((repeat' split) <;> simp [State.laneToFault_foot])))  ?_
    | split
    | with_reducible refine forN_touches ?_ (fun x k hx => ?_)
    | with_reducible refine foldl_touches ?_ (fun x a hx => ?_)
    | with_reducible refine foldlSnd_touches ?_ (fun x a hx => ?_)
    | with_reducible assumption

/-- The parts State.laneToSpared touches. -/
def State.laneToSpared_foot : List Part := [.reg .iWL_FORMER, .reg .iWL_FAILS] ++ State.haltLane_foot ++ State.putMap_foot ++ State.setLane_foot ++ State.undesignate_foot

theorem State.laneToSpared_touches {W : List Part} {σ τ : State} {surf : Nat} {p : Nat} (hW : ∀ p ∈ State.laneToSpared_foot, p ∈ W)
    (hT : Touches W σ τ) : Touches W σ (State.laneToSpared τ surf p) := by
  unfold State.laneToSpared
  try dsimp only
  repeat' first
    | with_reducible apply Touches.ite
    | with_reducible refine State.haltLane_touches (fun p hp => hW p (by unfold State.laneToSpared_foot; repeat first | with_reducible exact hp | with_reducible exact List.mem_append_right _ hp | with_reducible apply List.mem_append_left)) ?_
    | with_reducible refine State.setReg_touches (hW _ (by first | (simp [State.laneToSpared_foot]; done) | (split <;> simp [State.laneToSpared_foot] <;> done) | ((repeat' split) <;> simp [State.laneToSpared_foot])))  ?_
    | with_reducible refine State.putMap_touches (fun p hp => hW p (by unfold State.laneToSpared_foot; repeat first | with_reducible exact hp | with_reducible exact List.mem_append_right _ hp | with_reducible apply List.mem_append_left)) ?_
    | with_reducible refine State.setLane_touches (fun p hp => hW p (by unfold State.laneToSpared_foot; repeat first | with_reducible exact hp | with_reducible exact List.mem_append_right _ hp | with_reducible apply List.mem_append_left)) ?_
    | with_reducible refine State.undesignate_touches (fun p hp => hW p (by unfold State.laneToSpared_foot; repeat first | with_reducible exact hp | with_reducible exact List.mem_append_right _ hp | with_reducible apply List.mem_append_left)) ?_
    | split
    | with_reducible refine forN_touches ?_ (fun x k hx => ?_)
    | with_reducible refine foldl_touches ?_ (fun x a hx => ?_)
    | with_reducible refine foldlSnd_touches ?_ (fun x a hx => ?_)
    | with_reducible assumption

/-- The parts State.toRetrain touches. -/
def State.toRetrain_foot : List Part := [.reg .WL_RETRAINS, .reg .iWL_TSAT, .reg .iWL_BLK, .reg .iWL_BIT, .reg .iWL_CTX] ++ State.setLane_foot

theorem State.toRetrain_touches {W : List Part} {σ τ : State} {surf : Nat} {p : Nat} (hW : ∀ p ∈ State.toRetrain_foot, p ∈ W)
    (hT : Touches W σ τ) : Touches W σ (State.toRetrain τ surf p) := by
  unfold State.toRetrain
  try dsimp only
  repeat' first
    | with_reducible apply Touches.ite
    | with_reducible refine State.bump_touches (hW _ (by first | (simp [State.toRetrain_foot]; done) | (split <;> simp [State.toRetrain_foot] <;> done) | ((repeat' split) <;> simp [State.toRetrain_foot])))  ?_
    | with_reducible refine State.setReg_touches (hW _ (by first | (simp [State.toRetrain_foot]; done) | (split <;> simp [State.toRetrain_foot] <;> done) | ((repeat' split) <;> simp [State.toRetrain_foot])))  ?_
    | with_reducible refine State.setLane_touches (fun p hp => hW p (by unfold State.toRetrain_foot; repeat first | with_reducible exact hp | with_reducible exact List.mem_append_right _ hp | with_reducible apply List.mem_append_left)) ?_
    | split
    | with_reducible refine forN_touches ?_ (fun x k hx => ?_)
    | with_reducible refine foldl_touches ?_ (fun x a hx => ?_)
    | with_reducible refine foldlSnd_touches ?_ (fun x a hx => ?_)
    | with_reducible assumption

/-- The parts State.startMove touches. -/
def State.startMove_foot : List Part := [.fld .moves] ++ State.sendFwd_foot

theorem State.startMove_touches {W : List Part} {σ τ : State} {surf : Nat} {l : Nat} {a : Nat} {z : Nat} {kind : Nat} (hW : ∀ p ∈ State.startMove_foot, p ∈ W)
    (hT : Touches W σ τ) : Touches W σ (State.startMove τ surf l a z kind) := by
  unfold State.startMove
  try dsimp only
  repeat' first
    | with_reducible apply Touches.ite
    | with_reducible refine State.sendFwd_touches (fun p hp => hW p (by unfold State.startMove_foot; repeat first | with_reducible exact hp | with_reducible exact List.mem_append_right _ hp | with_reducible apply List.mem_append_left)) ?_
    | split
    | with_reducible refine forN_touches ?_ (fun x k hx => ?_)
    | with_reducible refine foldl_touches ?_ (fun x a hx => ?_)
    | with_reducible refine foldlSnd_touches ?_ (fun x a hx => ?_)
    | with_reducible assumption
    | with_reducible refine touches_mk (fun f => by cases f <;> first | exact .inr (by with_reducible rfl) | exact .inl (hW _ (by simp [State.startMove_foot]))) ?_

/-- The parts State.goBusy touches. -/
def State.goBusy_foot : List Part := [.reg .iWL_CTX, .reg .iWL_FORMER] ++ State.toTrain_foot ++ State.toRetrain_foot ++ State.startMove_foot

theorem State.goBusy_touches {W : List Part} {σ τ : State} {surf : Nat} {p : Nat} (hW : ∀ p ∈ State.goBusy_foot, p ∈ W)
    (hT : Touches W σ τ) : Touches W σ (State.goBusy τ surf p) := by
  unfold State.goBusy
  try dsimp only
  repeat' first
    | with_reducible apply Touches.ite
    | with_reducible refine State.toTrain_touches (fun p hp => hW p (by unfold State.goBusy_foot; repeat first | with_reducible exact hp | with_reducible exact List.mem_append_right _ hp | with_reducible apply List.mem_append_left)) ?_
    | with_reducible refine State.setReg_touches (hW _ (by first | (simp [State.goBusy_foot]; done) | (split <;> simp [State.goBusy_foot] <;> done) | ((repeat' split) <;> simp [State.goBusy_foot])))  ?_
    | with_reducible refine State.toRetrain_touches (fun p hp => hW p (by unfold State.goBusy_foot; repeat first | with_reducible exact hp | with_reducible exact List.mem_append_right _ hp | with_reducible apply List.mem_append_left)) ?_
    | with_reducible refine State.startMove_touches (fun p hp => hW p (by unfold State.goBusy_foot; repeat first | with_reducible exact hp | with_reducible exact List.mem_append_right _ hp | with_reducible apply List.mem_append_left)) ?_
    | split
    | with_reducible refine forN_touches ?_ (fun x k hx => ?_)
    | with_reducible refine foldl_touches ?_ (fun x a hx => ?_)
    | with_reducible refine foldlSnd_touches ?_ (fun x a hx => ?_)
    | with_reducible assumption

/-- The parts State.kick touches. -/
def State.kick_foot : List Part := [.reg .iWL_BUSY, .fld .retrains, .fld .highReqs, .fld .normalReqs] ++ State.goBusy_foot

theorem State.kick_touches {W : List Part} {σ τ : State} {surf : Nat} (hW : ∀ p ∈ State.kick_foot, p ∈ W)
    (hT : Touches W σ τ) : Touches W σ (State.kick τ surf) := by
  unfold State.kick
  try dsimp only
  repeat' first
    | with_reducible apply Touches.ite
    | with_reducible refine State.goBusy_touches (fun p hp => hW p (by unfold State.kick_foot; repeat first | with_reducible exact hp | with_reducible exact List.mem_append_right _ hp | with_reducible apply List.mem_append_left)) ?_
    | with_reducible refine State.request_touches (hW _ (by simp [State.kick_foot])) (hW _ (by simp [State.kick_foot])) ?_
    | with_reducible refine State.setReg_touches (hW _ (by first | (simp [State.kick_foot]; done) | (split <;> simp [State.kick_foot] <;> done) | ((repeat' split) <;> simp [State.kick_foot])))  ?_
    | split
    | with_reducible refine forN_touches ?_ (fun x k hx => ?_)
    | with_reducible refine foldl_touches ?_ (fun x a hx => ?_)
    | with_reducible refine foldlSnd_touches ?_ (fun x a hx => ?_)
    | with_reducible assumption
    | with_reducible refine touches_mk (fun f => by cases f <;> first | exact .inr (by with_reducible rfl) | exact .inl (hW _ (by simp [State.kick_foot]))) ?_

/-- The parts State.trigger touches. -/
def State.trigger_foot : List Part := [.fld .retrains] ++ State.kick_foot

theorem State.trigger_touches {W : List Part} {σ τ : State} {surf : Nat} {p : Nat} {attempt : Bool} (hW : ∀ p ∈ State.trigger_foot, p ∈ W)
    (hT : Touches W σ τ) : Touches W σ (State.trigger τ surf p attempt) := by
  unfold State.trigger
  try dsimp only
  repeat' first
    | with_reducible apply Touches.ite
    | with_reducible refine State.kick_touches (fun p hp => hW p (by unfold State.trigger_foot; repeat first | with_reducible exact hp | with_reducible exact List.mem_append_right _ hp | with_reducible apply List.mem_append_left)) ?_
    | split
    | with_reducible refine forN_touches ?_ (fun x k hx => ?_)
    | with_reducible refine foldl_touches ?_ (fun x a hx => ?_)
    | with_reducible refine foldlSnd_touches ?_ (fun x a hx => ?_)
    | with_reducible assumption
    | with_reducible refine touches_mk (fun f => by cases f <;> first | exact .inr (by with_reducible rfl) | exact .inl (hW _ (by simp [State.trigger_foot]))) ?_

/-- The parts State.spareLane touches. -/
def State.spareLane_foot : List Part := [.reg .iWL_FORMER] ++ State.raise_foot ++ State.startMove_foot

theorem State.spareLane_touches {W : List Part} {σ τ : State} {surf : Nat} {p : Nat} (hW : ∀ p ∈ State.spareLane_foot, p ∈ W)
    (hT : Touches W σ τ) : Touches W σ (State.spareLane τ surf p) := by
  unfold State.spareLane
  try dsimp only
  repeat' first
    | with_reducible apply Touches.ite
    | with_reducible refine State.raise_touches (fun p hp => hW p (by unfold State.spareLane_foot; repeat first | with_reducible exact hp | with_reducible exact List.mem_append_right _ hp | with_reducible apply List.mem_append_left)) ?_
    | with_reducible refine State.startMove_touches (fun p hp => hW p (by unfold State.spareLane_foot; repeat first | with_reducible exact hp | with_reducible exact List.mem_append_right _ hp | with_reducible apply List.mem_append_left)) ?_
    | with_reducible refine State.setReg_touches (hW _ (by first | (simp [State.spareLane_foot]; done) | (split <;> simp [State.spareLane_foot] <;> done) | ((repeat' split) <;> simp [State.spareLane_foot])))  ?_
    | split
    | with_reducible refine forN_touches ?_ (fun x k hx => ?_)
    | with_reducible refine foldl_touches ?_ (fun x a hx => ?_)
    | with_reducible refine foldlSnd_touches ?_ (fun x a hx => ?_)
    | with_reducible assumption

/-- The parts State.attemptFailed touches. -/
def State.attemptFailed_foot : List Part := [.reg .iWL_FAILS] ++ State.kick_foot ++ State.laneToFault_foot ++ State.setLane_foot ++ State.haltLane_foot ++ State.stepDetect_foot ++ State.toDetect_foot

theorem State.attemptFailed_touches {W : List Part} {σ τ : State} {surf : Nat} {p : Nat} (hW : ∀ p ∈ State.attemptFailed_foot, p ∈ W)
    (hT : Touches W σ τ) : Touches W σ (State.attemptFailed τ surf p) := by
  unfold State.attemptFailed
  try dsimp only
  repeat' first
    | with_reducible apply Touches.ite
    | with_reducible refine State.bump_touches (hW _ (by first | (simp [State.attemptFailed_foot]; done) | (split <;> simp [State.attemptFailed_foot] <;> done) | ((repeat' split) <;> simp [State.attemptFailed_foot])))  ?_
    | with_reducible refine State.kick_touches (fun p hp => hW p (by unfold State.attemptFailed_foot; repeat first | with_reducible exact hp | with_reducible exact List.mem_append_right _ hp | with_reducible apply List.mem_append_left)) ?_
    | with_reducible refine State.laneToFault_touches (fun p hp => hW p (by unfold State.attemptFailed_foot; repeat first | with_reducible exact hp | with_reducible exact List.mem_append_right _ hp | with_reducible apply List.mem_append_left)) ?_
    | with_reducible refine State.setLane_touches (fun p hp => hW p (by unfold State.attemptFailed_foot; repeat first | with_reducible exact hp | with_reducible exact List.mem_append_right _ hp | with_reducible apply List.mem_append_left)) ?_
    | with_reducible refine State.haltLane_touches (fun p hp => hW p (by unfold State.attemptFailed_foot; repeat first | with_reducible exact hp | with_reducible exact List.mem_append_right _ hp | with_reducible apply List.mem_append_left)) ?_
    | with_reducible refine State.stepDetect_touches (fun p hp => hW p (by unfold State.attemptFailed_foot; repeat first | with_reducible exact hp | with_reducible exact List.mem_append_right _ hp | with_reducible apply List.mem_append_left)) ?_
    | with_reducible refine State.setReg_touches (hW _ (by first | (simp [State.attemptFailed_foot]; done) | (split <;> simp [State.attemptFailed_foot] <;> done) | ((repeat' split) <;> simp [State.attemptFailed_foot])))  ?_
    | with_reducible refine State.toDetect_touches (fun p hp => hW p (by unfold State.attemptFailed_foot; repeat first | with_reducible exact hp | with_reducible exact List.mem_append_right _ hp | with_reducible apply List.mem_append_left)) ?_
    | split
    | with_reducible refine forN_touches ?_ (fun x k hx => ?_)
    | with_reducible refine foldl_touches ?_ (fun x a hx => ?_)
    | with_reducible refine foldlSnd_touches ?_ (fun x a hx => ?_)
    | with_reducible assumption

/-- The parts State.retrainFailed touches. -/
def State.retrainFailed_foot : List Part := [.reg .iWL_COVER] ++ State.undesignate_foot ++ State.kick_foot ++ State.laneToSpared_foot

theorem State.retrainFailed_touches {W : List Part} {σ τ : State} {surf : Nat} {p : Nat} (hW : ∀ p ∈ State.retrainFailed_foot, p ∈ W)
    (hT : Touches W σ τ) : Touches W σ (State.retrainFailed τ surf p) := by
  unfold State.retrainFailed
  try dsimp only
  repeat' first
    | with_reducible apply Touches.ite
    | with_reducible refine State.setReg_touches (hW _ (by first | (simp [State.retrainFailed_foot]; done) | (split <;> simp [State.retrainFailed_foot] <;> done) | ((repeat' split) <;> simp [State.retrainFailed_foot])))  ?_
    | with_reducible refine State.undesignate_touches (fun p hp => hW p (by unfold State.retrainFailed_foot; repeat first | with_reducible exact hp | with_reducible exact List.mem_append_right _ hp | with_reducible apply List.mem_append_left)) ?_
    | with_reducible refine State.kick_touches (fun p hp => hW p (by unfold State.retrainFailed_foot; repeat first | with_reducible exact hp | with_reducible exact List.mem_append_right _ hp | with_reducible apply List.mem_append_left)) ?_
    | with_reducible refine State.laneToSpared_touches (fun p hp => hW p (by unfold State.retrainFailed_foot; repeat first | with_reducible exact hp | with_reducible exact List.mem_append_right _ hp | with_reducible apply List.mem_append_left)) ?_
    | split
    | with_reducible refine forN_touches ?_ (fun x k hx => ?_)
    | with_reducible refine foldl_touches ?_ (fun x a hx => ?_)
    | with_reducible refine foldlSnd_touches ?_ (fun x a hx => ?_)
    | with_reducible assumption

/-- The parts execLaneTimeout touches. -/
def execLaneTimeout_foot : List Part := [.fld .sent] ++ State.retrainFailed_foot ++ State.attemptFailed_foot

theorem execLaneTimeout_touches {W : List Part} {σ τ : State} {surf : Surface} {p : Lane} (hW : ∀ p ∈ execLaneTimeout_foot, p ∈ W)
    (hT : Touches W σ τ) : OutTouches W σ (execLaneTimeout surf p τ) := by
  unfold execLaneTimeout
  try dsimp only
  repeat' first
    | with_reducible apply OutTouches.ite
    | with_reducible refine OutTouches.next ?_
    | with_reducible apply Touches.ite
    | with_reducible refine State.send_touches (hW _ (by simp [execLaneTimeout_foot])) ?_
    | with_reducible refine State.retrainFailed_touches (fun p hp => hW p (by unfold execLaneTimeout_foot; repeat first | with_reducible exact hp | with_reducible exact List.mem_append_right _ hp | with_reducible apply List.mem_append_left)) ?_
    | with_reducible refine State.attemptFailed_touches (fun p hp => hW p (by unfold execLaneTimeout_foot; repeat first | with_reducible exact hp | with_reducible exact List.mem_append_right _ hp | with_reducible apply List.mem_append_left)) ?_
    | split
    | with_reducible refine forN_touches ?_ (fun x k hx => ?_)
    | with_reducible refine foldl_touches ?_ (fun x a hx => ?_)
    | with_reducible refine foldlSnd_touches ?_ (fun x a hx => ?_)
    | with_reducible assumption

/-- The parts execReceiverDetectPulse touches. -/
def execReceiverDetectPulse_foot : List Part := [.reg .iWL_PULSE, .reg .iWL_ABS, .reg .iWL_PRES] ++ State.stepDetect_foot ++ State.laneToFault_foot

theorem execReceiverDetectPulse_touches {W : List Part} {σ τ : State} {surf : Surface} {p : Lane} {present : Bool} (hW : ∀ p ∈ execReceiverDetectPulse_foot, p ∈ W)
    (hT : Touches W σ τ) : OutTouches W σ (execReceiverDetectPulse surf p present τ) := by
  unfold execReceiverDetectPulse
  try dsimp only
  repeat' first
    | with_reducible apply OutTouches.ite
    | with_reducible refine OutTouches.next ?_
    | with_reducible apply Touches.ite
    | with_reducible refine State.setReg_touches (hW _ (by first | (simp [execReceiverDetectPulse_foot]; done) | (split <;> simp [execReceiverDetectPulse_foot] <;> done) | ((repeat' split) <;> simp [execReceiverDetectPulse_foot])))  ?_
    | with_reducible refine State.stepDetect_touches (fun p hp => hW p (by unfold execReceiverDetectPulse_foot; repeat first | with_reducible exact hp | with_reducible exact List.mem_append_right _ hp | with_reducible apply List.mem_append_left)) ?_
    | with_reducible refine State.bump_touches (hW _ (by first | (simp [execReceiverDetectPulse_foot]; done) | (split <;> simp [execReceiverDetectPulse_foot] <;> done) | ((repeat' split) <;> simp [execReceiverDetectPulse_foot])))  ?_
    | with_reducible refine State.laneToFault_touches (fun p hp => hW p (by unfold execReceiverDetectPulse_foot; repeat first | with_reducible exact hp | with_reducible exact List.mem_append_right _ hp | with_reducible apply List.mem_append_left)) ?_
    | split
    | with_reducible refine forN_touches ?_ (fun x k hx => ?_)
    | with_reducible refine foldl_touches ?_ (fun x a hx => ?_)
    | with_reducible refine foldlSnd_touches ?_ (fun x a hx => ?_)
    | with_reducible assumption

/-- The parts State.recovered touches. -/
def State.recovered_foot : List Part := [.reg .iWL_FORMER] ++ State.startMove_foot ++ State.setDesignated_foot

theorem State.recovered_touches {W : List Part} {σ τ : State} {surf : Nat} {p : Nat} (hW : ∀ p ∈ State.recovered_foot, p ∈ W)
    (hT : Touches W σ τ) : Touches W σ (State.recovered τ surf p) := by
  unfold State.recovered
  try dsimp only
  repeat' first
    | with_reducible apply Touches.ite
    | with_reducible refine State.setReg_touches (hW _ (by first | (simp [State.recovered_foot]; done) | (split <;> simp [State.recovered_foot] <;> done) | ((repeat' split) <;> simp [State.recovered_foot])))  ?_
    | with_reducible refine State.startMove_touches (fun p hp => hW p (by unfold State.recovered_foot; repeat first | with_reducible exact hp | with_reducible exact List.mem_append_right _ hp | with_reducible apply List.mem_append_left)) ?_
    | with_reducible refine State.setDesignated_touches (fun p hp => hW p (by unfold State.recovered_foot; repeat first | with_reducible exact hp | with_reducible exact List.mem_append_right _ hp | with_reducible apply List.mem_append_left)) ?_
    | split
    | with_reducible refine forN_touches ?_ (fun x k hx => ?_)
    | with_reducible refine foldl_touches ?_ (fun x a hx => ?_)
    | with_reducible refine foldlSnd_touches ?_ (fun x a hx => ?_)
    | with_reducible assumption

/-- The parts execLaneActiveEntry touches. -/
def execLaneActiveEntry_foot : List Part := [.reg .iWL_COVER, .fld .sent] ++ State.setLane_foot ++ State.haltLane_foot ++ State.markLane_foot ++ State.recovered_foot ++ State.startMove_foot ++ State.kick_foot ++ State.stepDetect_foot

theorem execLaneActiveEntry_touches {W : List Part} {σ τ : State} {surf : Surface} {p : Lane} (hW : ∀ p ∈ execLaneActiveEntry_foot, p ∈ W)
    (hT : Touches W σ τ) : OutTouches W σ (execLaneActiveEntry surf p τ) := by
  unfold execLaneActiveEntry
  try dsimp only
  repeat' first
    | with_reducible apply OutTouches.ite
    | with_reducible refine OutTouches.next ?_
    | with_reducible apply Touches.ite
    | with_reducible refine State.setLane_touches (fun p hp => hW p (by unfold execLaneActiveEntry_foot; repeat first | with_reducible exact hp | with_reducible exact List.mem_append_right _ hp | with_reducible apply List.mem_append_left)) ?_
    | with_reducible refine State.haltLane_touches (fun p hp => hW p (by unfold execLaneActiveEntry_foot; repeat first | with_reducible exact hp | with_reducible exact List.mem_append_right _ hp | with_reducible apply List.mem_append_left)) ?_
    | with_reducible refine State.send_touches (hW _ (by simp [execLaneActiveEntry_foot])) ?_
    | with_reducible refine State.markLane_touches (fun p hp => hW p (by unfold execLaneActiveEntry_foot; repeat first | with_reducible exact hp | with_reducible exact List.mem_append_right _ hp | with_reducible apply List.mem_append_left)) ?_
    | with_reducible refine State.recovered_touches (fun p hp => hW p (by unfold execLaneActiveEntry_foot; repeat first | with_reducible exact hp | with_reducible exact List.mem_append_right _ hp | with_reducible apply List.mem_append_left)) ?_
    | with_reducible refine State.startMove_touches (fun p hp => hW p (by unfold execLaneActiveEntry_foot; repeat first | with_reducible exact hp | with_reducible exact List.mem_append_right _ hp | with_reducible apply List.mem_append_left)) ?_
    | with_reducible refine State.setReg_touches (hW _ (by first | (simp [execLaneActiveEntry_foot]; done) | (split <;> simp [execLaneActiveEntry_foot] <;> done) | ((repeat' split) <;> simp [execLaneActiveEntry_foot])))  ?_
    | with_reducible refine State.kick_touches (fun p hp => hW p (by unfold execLaneActiveEntry_foot; repeat first | with_reducible exact hp | with_reducible exact List.mem_append_right _ hp | with_reducible apply List.mem_append_left)) ?_
    | with_reducible refine State.stepDetect_touches (fun p hp => hW p (by unfold execLaneActiveEntry_foot; repeat first | with_reducible exact hp | with_reducible exact List.mem_append_right _ hp | with_reducible apply List.mem_append_left)) ?_
    | split
    | with_reducible refine forN_touches ?_ (fun x k hx => ?_)
    | with_reducible refine foldl_touches ?_ (fun x a hx => ?_)
    | with_reducible refine foldlSnd_touches ?_ (fun x a hx => ?_)
    | with_reducible assumption

/-- The parts execSparedAttempt touches. -/
def execSparedAttempt_foot : List Part := State.trigger_foot

theorem execSparedAttempt_touches {W : List Part} {σ τ : State} {surf : Surface} {p : Lane} (hW : ∀ p ∈ execSparedAttempt_foot, p ∈ W)
    (hT : Touches W σ τ) : OutTouches W σ (execSparedAttempt surf p τ) := by
  unfold execSparedAttempt
  try dsimp only
  repeat' first
    | with_reducible apply OutTouches.ite
    | with_reducible refine OutTouches.next ?_
    | with_reducible apply Touches.ite
    | with_reducible refine State.trigger_touches (fun p hp => hW p (by unfold execSparedAttempt_foot; repeat first | with_reducible exact hp | with_reducible exact List.mem_append_right _ hp | with_reducible apply List.mem_append_left)) ?_
    | split
    | with_reducible refine forN_touches ?_ (fun x k hx => ?_)
    | with_reducible refine foldl_touches ?_ (fun x a hx => ?_)
    | with_reducible refine foldlSnd_touches ?_ (fun x a hx => ?_)
    | with_reducible assumption

/-- The parts State.holdLane touches. -/
def State.holdLane_foot : List Part := [.fld .retrains] ++ State.haltLane_foot

theorem State.holdLane_touches {W : List Part} {σ τ : State} {surf : Nat} {p : Nat} (hW : ∀ p ∈ State.holdLane_foot, p ∈ W)
    (hT : Touches W σ τ) : Touches W σ (State.holdLane τ surf p) := by
  unfold State.holdLane
  try dsimp only
  repeat' first
    | with_reducible apply Touches.ite
    | with_reducible refine State.haltLane_touches (fun p hp => hW p (by unfold State.holdLane_foot; repeat first | with_reducible exact hp | with_reducible exact List.mem_append_right _ hp | with_reducible apply List.mem_append_left)) ?_
    | split
    | with_reducible refine forN_touches ?_ (fun x k hx => ?_)
    | with_reducible refine foldl_touches ?_ (fun x a hx => ?_)
    | with_reducible refine foldlSnd_touches ?_ (fun x a hx => ?_)
    | with_reducible assumption
    | with_reducible refine touches_mk (fun f => by cases f <;> first | exact .inr (by with_reducible rfl) | exact .inl (hW _ (by simp [State.holdLane_foot]))) ?_

/-- The parts State.sparedTo touches. -/
def State.sparedTo_foot : List Part := [.reg .iWL_COVER] ++ State.laneToSpared_foot ++ State.undesignate_foot

theorem State.sparedTo_touches {W : List Part} {σ τ : State} {surf : Nat} {a : Nat} {z : Nat} (hW : ∀ p ∈ State.sparedTo_foot, p ∈ W)
    (hT : Touches W σ τ) : Touches W σ (State.sparedTo τ surf a z) := by
  unfold State.sparedTo
  try dsimp only
  repeat' first
    | with_reducible apply Touches.ite
    | with_reducible refine State.laneToSpared_touches (fun p hp => hW p (by unfold State.sparedTo_foot; repeat first | with_reducible exact hp | with_reducible exact List.mem_append_right _ hp | with_reducible apply List.mem_append_left)) ?_
    | with_reducible refine State.setReg_touches (hW _ (by first | (simp [State.sparedTo_foot]; done) | (split <;> simp [State.sparedTo_foot] <;> done) | ((repeat' split) <;> simp [State.sparedTo_foot])))  ?_
    | with_reducible refine State.undesignate_touches (fun p hp => hW p (by unfold State.sparedTo_foot; repeat first | with_reducible exact hp | with_reducible exact List.mem_append_right _ hp | with_reducible apply List.mem_append_left)) ?_
    | split
    | with_reducible refine forN_touches ?_ (fun x k hx => ?_)
    | with_reducible refine foldl_touches ?_ (fun x a hx => ?_)
    | with_reducible refine foldlSnd_touches ?_ (fun x a hx => ?_)
    | with_reducible assumption

/-- The parts State.moveTaken touches. -/
def State.moveTaken_foot : List Part := [.reg .iWL_COVER] ++ State.toRetrain_foot ++ State.holdLane_foot ++ State.sparedTo_foot

theorem State.moveTaken_touches {W : List Part} {σ τ : State} {k : Nat} {m : Move} {ok : Bool} (hW : ∀ p ∈ State.moveTaken_foot, p ∈ W)
    (hT : Touches W σ τ) : Touches W σ (State.moveTaken τ k m ok) := by
  unfold State.moveTaken
  try dsimp only
  repeat' first
    | with_reducible apply Touches.ite
    | with_reducible refine State.setReg_touches (hW _ (by first | (simp [State.moveTaken_foot]; done) | (split <;> simp [State.moveTaken_foot] <;> done) | ((repeat' split) <;> simp [State.moveTaken_foot])))  ?_
    | with_reducible refine State.toRetrain_touches (fun p hp => hW p (by unfold State.moveTaken_foot; repeat first | with_reducible exact hp | with_reducible exact List.mem_append_right _ hp | with_reducible apply List.mem_append_left)) ?_
    | with_reducible refine State.holdLane_touches (fun p hp => hW p (by unfold State.moveTaken_foot; repeat first | with_reducible exact hp | with_reducible exact List.mem_append_right _ hp | with_reducible apply List.mem_append_left)) ?_
    | with_reducible refine State.sparedTo_touches (fun p hp => hW p (by unfold State.moveTaken_foot; repeat first | with_reducible exact hp | with_reducible exact List.mem_append_right _ hp | with_reducible apply List.mem_append_left)) ?_
    | split
    | with_reducible refine forN_touches ?_ (fun x k hx => ?_)
    | with_reducible refine foldl_touches ?_ (fun x a hx => ?_)
    | with_reducible refine foldlSnd_touches ?_ (fun x a hx => ?_)
    | with_reducible assumption

/-- The parts execSpareEffect touches. -/
def execSpareEffect_foot : List Part := [.reg .WL_CAUSE, .fld .moves, .fld .sent] ++ State.raise_foot ++ State.putMap_foot ++ State.kick_foot ++ State.moveTaken_foot

theorem execSpareEffect_touches {W : List Part} {σ τ : State} {surf : Surface} {l : Fin 80} (hW : ∀ p ∈ execSpareEffect_foot, p ∈ W)
    (hT : Touches W σ τ) : OutTouches W σ (execSpareEffect surf l τ) := by
  unfold execSpareEffect
  try dsimp only
  repeat' first
    | with_reducible apply OutTouches.ite
    | with_reducible refine OutTouches.next ?_
    | with_reducible apply Touches.ite
    | with_reducible refine State.send_touches (hW _ (by simp [execSpareEffect_foot])) ?_
    | with_reducible refine State.raise_touches (fun p hp => hW p (by unfold execSpareEffect_foot; repeat first | with_reducible exact hp | with_reducible exact List.mem_append_right _ hp | with_reducible apply List.mem_append_left)) ?_
    | with_reducible refine cond_touches ?_ (fun x hx => ?_)
    | with_reducible refine State.setReg_touches (hW _ (by first | (simp [execSpareEffect_foot]; done) | (split <;> simp [execSpareEffect_foot] <;> done) | ((repeat' split) <;> simp [execSpareEffect_foot])))  ?_
    | with_reducible refine State.putMap_touches (fun p hp => hW p (by unfold execSpareEffect_foot; repeat first | with_reducible exact hp | with_reducible exact List.mem_append_right _ hp | with_reducible apply List.mem_append_left)) ?_
    | with_reducible refine State.kick_touches (fun p hp => hW p (by unfold execSpareEffect_foot; repeat first | with_reducible exact hp | with_reducible exact List.mem_append_right _ hp | with_reducible apply List.mem_append_left)) ?_
    | with_reducible refine State.moveTaken_touches (fun p hp => hW p (by unfold execSpareEffect_foot; repeat first | with_reducible exact hp | with_reducible exact List.mem_append_right _ hp | with_reducible apply List.mem_append_left)) ?_
    | split
    | with_reducible refine forN_touches ?_ (fun x k hx => ?_)
    | with_reducible refine foldl_touches ?_ (fun x a hx => ?_)
    | with_reducible refine foldlSnd_touches ?_ (fun x a hx => ?_)
    | with_reducible assumption
    | with_reducible refine touches_mk (fun f => by cases f <;> first | exact .inr (by with_reducible rfl) | exact .inl (hW _ (by simp [execSpareEffect_foot]))) ?_

/-- The parts execSpareAckTimeout touches. -/
def execSpareAckTimeout_foot : List Part := [.reg .WL_SPARE_NOACK, .fld .moves]

theorem execSpareAckTimeout_touches {W : List Part} {σ τ : State} {surf : Surface} {l : Fin 80} (hW : ∀ p ∈ execSpareAckTimeout_foot, p ∈ W)
    (hT : Touches W σ τ) : OutTouches W σ (execSpareAckTimeout surf l τ) := by
  unfold execSpareAckTimeout
  try dsimp only
  repeat' first
    | with_reducible apply OutTouches.ite
    | with_reducible refine OutTouches.next ?_
    | with_reducible apply Touches.ite
    | with_reducible refine State.bump_touches (hW _ (by first | (simp [execSpareAckTimeout_foot]; done) | (split <;> simp [execSpareAckTimeout_foot] <;> done) | ((repeat' split) <;> simp [execSpareAckTimeout_foot])))  ?_
    | split
    | with_reducible refine forN_touches ?_ (fun x k hx => ?_)
    | with_reducible refine foldl_touches ?_ (fun x a hx => ?_)
    | with_reducible refine foldlSnd_touches ?_ (fun x a hx => ?_)
    | with_reducible assumption
    | with_reducible refine touches_mk (fun f => by cases f <;> first | exact .inr (by with_reducible rfl) | exact .inl (hW _ (by simp [execSpareAckTimeout_foot]))) ?_

/-- The parts State.startUpLane touches. -/
def State.startUpLane_foot : List Part := State.undesignate_foot ++ State.putMap_foot

theorem State.startUpLane_touches {W : List Part} {σ τ : State} {surf : Nat} {l : Nat} (hW : ∀ p ∈ State.startUpLane_foot, p ∈ W)
    (hT : Touches W σ τ) : Touches W σ (State.startUpLane τ surf l) := by
  unfold State.startUpLane
  try dsimp only
  repeat' first
    | with_reducible apply Touches.ite
    | with_reducible refine State.undesignate_touches (fun p hp => hW p (by unfold State.startUpLane_foot; repeat first | with_reducible exact hp | with_reducible exact List.mem_append_right _ hp | with_reducible apply List.mem_append_left)) ?_
    | with_reducible refine State.putMap_touches (fun p hp => hW p (by unfold State.startUpLane_foot; repeat first | with_reducible exact hp | with_reducible exact List.mem_append_right _ hp | with_reducible apply List.mem_append_left)) ?_
    | split
    | with_reducible refine forN_touches ?_ (fun x k hx => ?_)
    | with_reducible refine foldl_touches ?_ (fun x a hx => ?_)
    | with_reducible refine foldlSnd_touches ?_ (fun x a hx => ?_)
    | with_reducible assumption

/-- The parts State.capsFault touches. -/
def State.capsFault_foot : List Part := State.raise_foot ++ State.laneToFault_foot

theorem State.capsFault_touches {W : List Part} {σ τ : State} {surf : Nat} (hW : ∀ p ∈ State.capsFault_foot, p ∈ W)
    (hT : Touches W σ τ) : Touches W σ (State.capsFault τ surf) := by
  unfold State.capsFault
  try dsimp only
  repeat' first
    | with_reducible apply Touches.ite
    | with_reducible refine State.raise_touches (fun p hp => hW p (by unfold State.capsFault_foot; repeat first | with_reducible exact hp | with_reducible exact List.mem_append_right _ hp | with_reducible apply List.mem_append_left)) ?_
    | with_reducible refine State.laneToFault_touches (fun p hp => hW p (by unfold State.capsFault_foot; repeat first | with_reducible exact hp | with_reducible exact List.mem_append_right _ hp | with_reducible apply List.mem_append_left)) ?_
    | split
    | with_reducible refine forN_touches ?_ (fun x k hx => ?_)
    | with_reducible refine foldl_touches ?_ (fun x a hx => ?_)
    | with_reducible refine foldlSnd_touches ?_ (fun x a hx => ?_)
    | with_reducible assumption

/-- The parts State.checkCaps touches. -/
def State.checkCaps_foot : List Part := State.capsFault_foot

theorem State.checkCaps_touches {W : List Part} {σ τ : State} {surf : Nat} (hW : ∀ p ∈ State.checkCaps_foot, p ∈ W)
    (hT : Touches W σ τ) : Touches W σ (State.checkCaps τ surf) := by
  unfold State.checkCaps
  try dsimp only
  repeat' first
    | with_reducible apply Touches.ite
    | with_reducible refine State.capsFault_touches (fun p hp => hW p (by unfold State.checkCaps_foot; repeat first | with_reducible exact hp | with_reducible exact List.mem_append_right _ hp | with_reducible apply List.mem_append_left)) ?_
    | split
    | with_reducible refine forN_touches ?_ (fun x k hx => ?_)
    | with_reducible refine foldl_touches ?_ (fun x a hx => ?_)
    | with_reducible refine foldlSnd_touches ?_ (fun x a hx => ?_)
    | with_reducible assumption

/-- The parts State.bringUp touches. -/
def State.bringUp_foot : List Part := [.reg .iWL_IDLEORD, .reg .iWL_COVER, .reg .iWL_MAPRESET, .reg .WL_SPARE_MAP, .fld .moves, .fld .retrains, .fld .keepPending] ++ State.putMap_foot ++ State.setDesignated_foot ++ State.startUpLane_foot ++ State.toDetect_foot ++ State.setLane_foot ++ State.haltLane_foot ++ State.checkCaps_foot ++ State.stepDetect_foot

theorem State.bringUp_touches {W : List Part} {σ τ : State} {surf : Nat} (hW : ∀ p ∈ State.bringUp_foot, p ∈ W)
    (hT : Touches W σ τ) : Touches W σ (State.bringUp τ surf) := by
  unfold State.bringUp
  try dsimp only
  repeat' first
    | with_reducible apply Touches.ite
    | with_reducible refine State.putMap_touches (fun p hp => hW p (by unfold State.bringUp_foot; repeat first | with_reducible exact hp | with_reducible exact List.mem_append_right _ hp | with_reducible apply List.mem_append_left)) ?_
    | with_reducible refine State.setReg_touches (hW _ (by first | (simp [State.bringUp_foot]; done) | (split <;> simp [State.bringUp_foot] <;> done) | ((repeat' split) <;> simp [State.bringUp_foot])))  ?_
    | with_reducible refine State.noteKeep_touches (hW _ (by simp [State.bringUp_foot])) ?_
    | with_reducible refine State.setDesignated_touches (fun p hp => hW p (by unfold State.bringUp_foot; repeat first | with_reducible exact hp | with_reducible exact List.mem_append_right _ hp | with_reducible apply List.mem_append_left)) ?_
    | with_reducible refine State.startUpLane_touches (fun p hp => hW p (by unfold State.bringUp_foot; repeat first | with_reducible exact hp | with_reducible exact List.mem_append_right _ hp | with_reducible apply List.mem_append_left)) ?_
    | with_reducible refine State.toDetect_touches (fun p hp => hW p (by unfold State.bringUp_foot; repeat first | with_reducible exact hp | with_reducible exact List.mem_append_right _ hp | with_reducible apply List.mem_append_left)) ?_
    | with_reducible refine State.setLane_touches (fun p hp => hW p (by unfold State.bringUp_foot; repeat first | with_reducible exact hp | with_reducible exact List.mem_append_right _ hp | with_reducible apply List.mem_append_left)) ?_
    | with_reducible refine State.haltLane_touches (fun p hp => hW p (by unfold State.bringUp_foot; repeat first | with_reducible exact hp | with_reducible exact List.mem_append_right _ hp | with_reducible apply List.mem_append_left)) ?_
    | with_reducible refine State.checkCaps_touches (fun p hp => hW p (by unfold State.bringUp_foot; repeat first | with_reducible exact hp | with_reducible exact List.mem_append_right _ hp | with_reducible apply List.mem_append_left)) ?_
    | with_reducible refine State.stepDetect_touches (fun p hp => hW p (by unfold State.bringUp_foot; repeat first | with_reducible exact hp | with_reducible exact List.mem_append_right _ hp | with_reducible apply List.mem_append_left)) ?_
    | split
    | with_reducible refine forN_touches ?_ (fun x k hx => ?_)
    | with_reducible refine foldl_touches ?_ (fun x a hx => ?_)
    | with_reducible refine foldlSnd_touches ?_ (fun x a hx => ?_)
    | with_reducible assumption
    | with_reducible refine touches_mk (fun f => by cases f <;> first | exact .inr (by with_reducible rfl) | exact .inl (hW _ (by simp [State.bringUp_foot]))) ?_

/-- The parts State.reconfigure touches. -/
def State.reconfigure_foot : List Part := State.announce_foot ++ State.bringUp_foot ++ State.toDetect_foot ++ State.setLane_foot ++ State.haltLane_foot ++ State.checkCaps_foot ++ State.stepDetect_foot

theorem State.reconfigure_touches {W : List Part} {σ τ : State} {surf : Nat} {oldLanes : Nat} {full : Bool} {frame : Nat} (hW : ∀ p ∈ State.reconfigure_foot, p ∈ W)
    (hT : Touches W σ τ) : Touches W σ (State.reconfigure τ surf oldLanes full frame) := by
  unfold State.reconfigure
  try dsimp only
  repeat' first
    | with_reducible apply Touches.ite
    | with_reducible refine State.announce_touches (fun p hp => hW p (by unfold State.reconfigure_foot; repeat first | with_reducible exact hp | with_reducible exact List.mem_append_right _ hp | with_reducible apply List.mem_append_left)) ?_
    | with_reducible refine State.bringUp_touches (fun p hp => hW p (by unfold State.reconfigure_foot; repeat first | with_reducible exact hp | with_reducible exact List.mem_append_right _ hp | with_reducible apply List.mem_append_left)) ?_
    | with_reducible refine State.toDetect_touches (fun p hp => hW p (by unfold State.reconfigure_foot; repeat first | with_reducible exact hp | with_reducible exact List.mem_append_right _ hp | with_reducible apply List.mem_append_left)) ?_
    | with_reducible refine State.setLane_touches (fun p hp => hW p (by unfold State.reconfigure_foot; repeat first | with_reducible exact hp | with_reducible exact List.mem_append_right _ hp | with_reducible apply List.mem_append_left)) ?_
    | with_reducible refine State.haltLane_touches (fun p hp => hW p (by unfold State.reconfigure_foot; repeat first | with_reducible exact hp | with_reducible exact List.mem_append_right _ hp | with_reducible apply List.mem_append_left)) ?_
    | with_reducible refine State.checkCaps_touches (fun p hp => hW p (by unfold State.reconfigure_foot; repeat first | with_reducible exact hp | with_reducible exact List.mem_append_right _ hp | with_reducible apply List.mem_append_left)) ?_
    | with_reducible refine State.stepDetect_touches (fun p hp => hW p (by unfold State.reconfigure_foot; repeat first | with_reducible exact hp | with_reducible exact List.mem_append_right _ hp | with_reducible apply List.mem_append_left)) ?_
    | split
    | with_reducible refine forN_touches ?_ (fun x k hx => ?_)
    | with_reducible refine foldl_touches ?_ (fun x a hx => ?_)
    | with_reducible refine foldlSnd_touches ?_ (fun x a hx => ?_)
    | with_reducible assumption

/-- The parts State.idleOrder touches. -/
def State.idleOrder_foot : List Part := [.reg .iWL_IDLEORD, .fld .moves, .fld .retrains] ++ State.setLane_foot ++ State.haltLane_foot ++ State.stepDetect_foot

theorem State.idleOrder_touches {W : List Part} {σ τ : State} {surf : Nat} (hW : ∀ p ∈ State.idleOrder_foot, p ∈ W)
    (hT : Touches W σ τ) : Touches W σ (State.idleOrder τ surf) := by
  unfold State.idleOrder
  try dsimp only
  repeat' first
    | with_reducible apply Touches.ite
    | with_reducible refine State.setReg_touches (hW _ (by first | (simp [State.idleOrder_foot]; done) | (split <;> simp [State.idleOrder_foot] <;> done) | ((repeat' split) <;> simp [State.idleOrder_foot])))  ?_
    | with_reducible refine State.setLane_touches (fun p hp => hW p (by unfold State.idleOrder_foot; repeat first | with_reducible exact hp | with_reducible exact List.mem_append_right _ hp | with_reducible apply List.mem_append_left)) ?_
    | with_reducible refine State.haltLane_touches (fun p hp => hW p (by unfold State.idleOrder_foot; repeat first | with_reducible exact hp | with_reducible exact List.mem_append_right _ hp | with_reducible apply List.mem_append_left)) ?_
    | with_reducible refine State.stepDetect_touches (fun p hp => hW p (by unfold State.idleOrder_foot; repeat first | with_reducible exact hp | with_reducible exact List.mem_append_right _ hp | with_reducible apply List.mem_append_left)) ?_
    | split
    | with_reducible refine forN_touches ?_ (fun x k hx => ?_)
    | with_reducible refine foldl_touches ?_ (fun x a hx => ?_)
    | with_reducible refine foldlSnd_touches ?_ (fun x a hx => ?_)
    | with_reducible assumption
    | with_reducible refine touches_mk (fun f => by cases f <;> first | exact .inr (by with_reducible rfl) | exact .inl (hW _ (by simp [State.idleOrder_foot]))) ?_

/-- The parts execLaneIdleEntry touches. -/
def execLaneIdleEntry_foot : List Part := [.fld .sent] ++ State.setLane_foot ++ State.haltLane_foot

theorem execLaneIdleEntry_touches {W : List Part} {σ τ : State} {surf : Surface} {p : Lane} (hW : ∀ p ∈ execLaneIdleEntry_foot, p ∈ W)
    (hT : Touches W σ τ) : OutTouches W σ (execLaneIdleEntry surf p τ) := by
  unfold execLaneIdleEntry
  try dsimp only
  repeat' first
    | with_reducible apply OutTouches.ite
    | with_reducible refine OutTouches.next ?_
    | with_reducible apply Touches.ite
    | with_reducible refine State.send_touches (hW _ (by simp [execLaneIdleEntry_foot])) ?_
    | with_reducible refine State.setLane_touches (fun p hp => hW p (by unfold execLaneIdleEntry_foot; repeat first | with_reducible exact hp | with_reducible exact List.mem_append_right _ hp | with_reducible apply List.mem_append_left)) ?_
    | with_reducible refine State.haltLane_touches (fun p hp => hW p (by unfold execLaneIdleEntry_foot; repeat first | with_reducible exact hp | with_reducible exact List.mem_append_right _ hp | with_reducible apply List.mem_append_left)) ?_
    | split
    | with_reducible refine forN_touches ?_ (fun x k hx => ?_)
    | with_reducible refine foldl_touches ?_ (fun x a hx => ?_)
    | with_reducible refine foldlSnd_touches ?_ (fun x a hx => ?_)
    | with_reducible assumption

/-- The parts State.leaveIdle touches. -/
def State.leaveIdle_foot : List Part := [.fld .sent] ++ State.setLane_foot ++ State.trigger_foot

theorem State.leaveIdle_touches {W : List Part} {σ τ : State} {surf : Nat} {p : Nat} (hW : ∀ p ∈ State.leaveIdle_foot, p ∈ W)
    (hT : Touches W σ τ) : Touches W σ (State.leaveIdle τ surf p) := by
  unfold State.leaveIdle
  try dsimp only
  repeat' first
    | with_reducible apply Touches.ite
    | with_reducible refine State.sendMore_touches (hW _ (by simp [State.leaveIdle_foot])) ?_
    | with_reducible refine State.setLane_touches (fun p hp => hW p (by unfold State.leaveIdle_foot; repeat first | with_reducible exact hp | with_reducible exact List.mem_append_right _ hp | with_reducible apply List.mem_append_left)) ?_
    | with_reducible refine State.trigger_touches (fun p hp => hW p (by unfold State.leaveIdle_foot; repeat first | with_reducible exact hp | with_reducible exact List.mem_append_right _ hp | with_reducible apply List.mem_append_left)) ?_
    | split
    | with_reducible refine forN_touches ?_ (fun x k hx => ?_)
    | with_reducible refine foldl_touches ?_ (fun x a hx => ?_)
    | with_reducible refine foldlSnd_touches ?_ (fun x a hx => ?_)
    | with_reducible assumption

/-- The parts execBlankIdleExit touches. -/
def execBlankIdleExit_foot : List Part := [.reg .iWL_IDLED, .fld .sent] ++ State.leaveIdle_foot

theorem execBlankIdleExit_touches {W : List Part} {σ τ : State} {surf : Surface} (hW : ∀ p ∈ execBlankIdleExit_foot, p ∈ W)
    (hT : Touches W σ τ) : OutTouches W σ (execBlankIdleExit surf τ) := by
  unfold execBlankIdleExit
  try dsimp only
  repeat' first
    | with_reducible apply OutTouches.ite
    | with_reducible refine OutTouches.next ?_
    | with_reducible apply Touches.ite
    | with_reducible refine State.setReg_touches (hW _ (by first | (simp [execBlankIdleExit_foot]; done) | (split <;> simp [execBlankIdleExit_foot] <;> done) | ((repeat' split) <;> simp [execBlankIdleExit_foot])))  ?_
    | with_reducible refine State.send_touches (hW _ (by simp [execBlankIdleExit_foot])) ?_
    | with_reducible refine State.leaveIdle_touches (fun p hp => hW p (by unfold execBlankIdleExit_foot; repeat first | with_reducible exact hp | with_reducible exact List.mem_append_right _ hp | with_reducible apply List.mem_append_left)) ?_
    | split
    | with_reducible refine forN_touches ?_ (fun x k hx => ?_)
    | with_reducible refine foldl_touches ?_ (fun x a hx => ?_)
    | with_reducible refine foldlSnd_touches ?_ (fun x a hx => ?_)
    | with_reducible assumption

/-- The parts execFastwakeDone touches. -/
def execFastwakeDone_foot : List Part := State.kick_foot ++ State.setLane_foot

theorem execFastwakeDone_touches {W : List Part} {σ τ : State} {surf : Surface} {p : Lane} (hW : ∀ p ∈ execFastwakeDone_foot, p ∈ W)
    (hT : Touches W σ τ) : OutTouches W σ (execFastwakeDone surf p τ) := by
  unfold execFastwakeDone
  try dsimp only
  repeat' first
    | with_reducible apply OutTouches.ite
    | with_reducible refine OutTouches.next ?_
    | with_reducible apply Touches.ite
    | with_reducible refine State.kick_touches (fun p hp => hW p (by unfold execFastwakeDone_foot; repeat first | with_reducible exact hp | with_reducible exact List.mem_append_right _ hp | with_reducible apply List.mem_append_left)) ?_
    | with_reducible refine State.setLane_touches (fun p hp => hW p (by unfold execFastwakeDone_foot; repeat first | with_reducible exact hp | with_reducible exact List.mem_append_right _ hp | with_reducible apply List.mem_append_left)) ?_
    | split
    | with_reducible refine forN_touches ?_ (fun x k hx => ?_)
    | with_reducible refine foldl_touches ?_ (fun x a hx => ?_)
    | with_reducible refine foldlSnd_touches ?_ (fun x a hx => ?_)
    | with_reducible assumption

/-- The parts State.weltDomainLost touches. -/
def State.weltDomainLost_foot : List Part := State.idleOrder_foot

theorem State.weltDomainLost_touches {W : List Part} {σ τ : State} {surf : Nat} (hW : ∀ p ∈ State.weltDomainLost_foot, p ∈ W)
    (hT : Touches W σ τ) : Touches W σ (State.weltDomainLost τ surf) := by
  unfold State.weltDomainLost
  try dsimp only
  repeat' first
    | with_reducible apply Touches.ite
    | with_reducible refine State.idleOrder_touches (fun p hp => hW p (by unfold State.weltDomainLost_foot; repeat first | with_reducible exact hp | with_reducible exact List.mem_append_right _ hp | with_reducible apply List.mem_append_left)) ?_
    | split
    | with_reducible refine forN_touches ?_ (fun x k hx => ?_)
    | with_reducible refine foldl_touches ?_ (fun x a hx => ?_)
    | with_reducible refine foldlSnd_touches ?_ (fun x a hx => ?_)
    | with_reducible assumption

/-- The parts State.surfaceOff touches. -/
def State.surfaceOff_foot : List Part := [.reg .iS_OFF_NS] ++ State.idleOrder_foot

theorem State.surfaceOff_touches {W : List Part} {σ τ : State} {surf : Nat} (hW : ∀ p ∈ State.surfaceOff_foot, p ∈ W)
    (hT : Touches W σ τ) : Touches W σ (State.surfaceOff τ surf) := by
  unfold State.surfaceOff
  try dsimp only
  repeat' first
    | with_reducible apply Touches.ite
    | with_reducible refine State.setReg_touches (hW _ (by first | (simp [State.surfaceOff_foot]; done) | (split <;> simp [State.surfaceOff_foot] <;> done) | ((repeat' split) <;> simp [State.surfaceOff_foot])))  ?_
    | with_reducible refine State.idleOrder_touches (fun p hp => hW p (by unfold State.surfaceOff_foot; repeat first | with_reducible exact hp | with_reducible exact List.mem_append_right _ hp | with_reducible apply List.mem_append_left)) ?_
    | split
    | with_reducible refine forN_touches ?_ (fun x k hx => ?_)
    | with_reducible refine foldl_touches ?_ (fun x a hx => ?_)
    | with_reducible refine foldlSnd_touches ?_ (fun x a hx => ?_)
    | with_reducible assumption

/-- The parts State.surfaceOn touches. -/
def State.surfaceOn_foot : List Part := [.reg .iWL_IDLEORD] ++ State.leaveIdle_foot ++ State.stepDetect_foot ++ State.bringUp_foot

theorem State.surfaceOn_touches {W : List Part} {σ τ : State} {surf : Nat} (hW : ∀ p ∈ State.surfaceOn_foot, p ∈ W)
    (hT : Touches W σ τ) : Touches W σ (State.surfaceOn τ surf) := by
  unfold State.surfaceOn
  try dsimp only
  repeat' first
    | with_reducible apply Touches.ite
    | with_reducible refine State.setReg_touches (hW _ (by first | (simp [State.surfaceOn_foot]; done) | (split <;> simp [State.surfaceOn_foot] <;> done) | ((repeat' split) <;> simp [State.surfaceOn_foot])))  ?_
    | with_reducible refine State.leaveIdle_touches (fun p hp => hW p (by unfold State.surfaceOn_foot; repeat first | with_reducible exact hp | with_reducible exact List.mem_append_right _ hp | with_reducible apply List.mem_append_left)) ?_
    | with_reducible refine State.stepDetect_touches (fun p hp => hW p (by unfold State.surfaceOn_foot; repeat first | with_reducible exact hp | with_reducible exact List.mem_append_right _ hp | with_reducible apply List.mem_append_left)) ?_
    | with_reducible refine State.bringUp_touches (fun p hp => hW p (by unfold State.surfaceOn_foot; repeat first | with_reducible exact hp | with_reducible exact List.mem_append_right _ hp | with_reducible apply List.mem_append_left)) ?_
    | split
    | with_reducible refine forN_touches ?_ (fun x k hx => ?_)
    | with_reducible refine foldl_touches ?_ (fun x a hx => ?_)
    | with_reducible refine foldlSnd_touches ?_ (fun x a hx => ?_)
    | with_reducible assumption

/-- The parts execWlCtrlRetrain touches. -/
def execWlCtrlRetrain_foot : List Part := [.fld .sent] ++ writeParam_foot ++ State.trigger_foot

theorem execWlCtrlRetrain_touches {W : List Part} {σ τ : State} {acc : Accessor} {surf : Surface} {p : Lane} (hW : ∀ p ∈ execWlCtrlRetrain_foot, p ∈ W)
    (hT : Touches W σ τ) : OutTouches W σ (execWlCtrlRetrain acc surf p τ) := by
  unfold execWlCtrlRetrain
  try dsimp only
  repeat' first
    | with_reducible apply OutTouches.ite
    | with_reducible refine OutTouches.next ?_
    | with_reducible apply Touches.ite
    | with_reducible refine writeParam_touches  (fun p hp => hW p (by unfold execWlCtrlRetrain_foot; repeat first | with_reducible exact hp | with_reducible exact List.mem_append_right _ hp | with_reducible apply List.mem_append_left)) ?_ (fun x  hx => ?_)
    | with_reducible refine State.send_touches (hW _ (by simp [execWlCtrlRetrain_foot])) ?_
    | with_reducible refine State.trigger_touches (fun p hp => hW p (by unfold execWlCtrlRetrain_foot; repeat first | with_reducible exact hp | with_reducible exact List.mem_append_right _ hp | with_reducible apply List.mem_append_left)) ?_
    | split
    | with_reducible refine forN_touches ?_ (fun x k hx => ?_)
    | with_reducible refine foldl_touches ?_ (fun x a hx => ?_)
    | with_reducible refine foldlSnd_touches ?_ (fun x a hx => ?_)
    | with_reducible assumption

/-- The parts execWlCtrlSpare touches. -/
def execWlCtrlSpare_foot : List Part := [.fld .sent] ++ writeParam_foot ++ State.spareLane_foot

theorem execWlCtrlSpare_touches {W : List Part} {σ τ : State} {acc : Accessor} {surf : Surface} {p : Lane} (hW : ∀ p ∈ execWlCtrlSpare_foot, p ∈ W)
    (hT : Touches W σ τ) : OutTouches W σ (execWlCtrlSpare acc surf p τ) := by
  unfold execWlCtrlSpare
  try dsimp only
  repeat' first
    | with_reducible apply OutTouches.ite
    | with_reducible refine OutTouches.next ?_
    | with_reducible apply Touches.ite
    | with_reducible refine writeParam_touches  (fun p hp => hW p (by unfold execWlCtrlSpare_foot; repeat first | with_reducible exact hp | with_reducible exact List.mem_append_right _ hp | with_reducible apply List.mem_append_left)) ?_ (fun x  hx => ?_)
    | with_reducible refine State.send_touches (hW _ (by simp [execWlCtrlSpare_foot])) ?_
    | with_reducible refine State.spareLane_touches (fun p hp => hW p (by unfold execWlCtrlSpare_foot; repeat first | with_reducible exact hp | with_reducible exact List.mem_append_right _ hp | with_reducible apply List.mem_append_left)) ?_
    | split
    | with_reducible refine forN_touches ?_ (fun x k hx => ?_)
    | with_reducible refine foldl_touches ?_ (fun x a hx => ?_)
    | with_reducible refine foldlSnd_touches ?_ (fun x a hx => ?_)
    | with_reducible assumption

/-- The parts execWlCtrlRetry touches. -/
def execWlCtrlRetry_foot : List Part := writeParam_foot ++ State.toDetect_foot

theorem execWlCtrlRetry_touches {W : List Part} {σ τ : State} {acc : Accessor} {surf : Surface} {p : Lane} (hW : ∀ p ∈ execWlCtrlRetry_foot, p ∈ W)
    (hT : Touches W σ τ) : OutTouches W σ (execWlCtrlRetry acc surf p τ) := by
  unfold execWlCtrlRetry
  try dsimp only
  repeat' first
    | with_reducible apply OutTouches.ite
    | with_reducible refine OutTouches.next ?_
    | with_reducible apply Touches.ite
    | with_reducible refine writeParam_touches  (fun p hp => hW p (by unfold execWlCtrlRetry_foot; repeat first | with_reducible exact hp | with_reducible exact List.mem_append_right _ hp | with_reducible apply List.mem_append_left)) ?_ (fun x  hx => ?_)
    | with_reducible refine State.toDetect_touches (fun p hp => hW p (by unfold execWlCtrlRetry_foot; repeat first | with_reducible exact hp | with_reducible exact List.mem_append_right _ hp | with_reducible apply List.mem_append_left)) ?_
    | split
    | with_reducible refine forN_touches ?_ (fun x k hx => ?_)
    | with_reducible refine foldl_touches ?_ (fun x a hx => ?_)
    | with_reducible refine foldlSnd_touches ?_ (fun x a hx => ?_)
    | with_reducible assumption

/-- The parts execWlMapReset touches. -/
def execWlMapReset_foot : List Part := writeParam_foot ++ State.stageWrite_foot

theorem execWlMapReset_touches {W : List Part} {σ τ : State} {acc : Accessor} {surf : Surface} (hW : ∀ p ∈ execWlMapReset_foot, p ∈ W)
    (hT : Touches W σ τ) : OutTouches W σ (execWlMapReset acc surf τ) := by
  unfold execWlMapReset
  try dsimp only
  repeat' first
    | with_reducible apply OutTouches.ite
    | with_reducible refine OutTouches.next ?_
    | with_reducible apply Touches.ite
    | with_reducible refine writeParam_touches  (fun p hp => hW p (by unfold execWlMapReset_foot; repeat first | with_reducible exact hp | with_reducible exact List.mem_append_right _ hp | with_reducible apply List.mem_append_left)) ?_ (fun x  hx => ?_)
    | with_reducible refine State.stageWrite_touches (fun p hp => hW p (by unfold execWlMapReset_foot; repeat first | with_reducible exact hp | with_reducible exact List.mem_append_right _ hp | with_reducible apply List.mem_append_left)) ?_
    | split
    | with_reducible refine forN_touches ?_ (fun x k hx => ?_)
    | with_reducible refine foldl_touches ?_ (fun x a hx => ?_)
    | with_reducible refine foldlSnd_touches ?_ (fun x a hx => ?_)
    | with_reducible assumption

/-- The parts execWlCalFetch touches. -/
def execWlCalFetch_foot : List Part := [.fld .sent] ++ writeParam_foot ++ State.sendFwd_foot

theorem execWlCalFetch_touches {W : List Part} {σ τ : State} {acc : Accessor} {surf : Surface} {gain : Bool} (hW : ∀ p ∈ execWlCalFetch_foot, p ∈ W)
    (hT : Touches W σ τ) : OutTouches W σ (execWlCalFetch acc surf gain τ) := by
  unfold execWlCalFetch
  try dsimp only
  repeat' first
    | with_reducible apply OutTouches.ite
    | with_reducible refine OutTouches.next ?_
    | with_reducible apply Touches.ite
    | with_reducible refine writeParam_touches  (fun p hp => hW p (by unfold execWlCalFetch_foot; repeat first | with_reducible exact hp | with_reducible exact List.mem_append_right _ hp | with_reducible apply List.mem_append_left)) ?_ (fun x  hx => ?_)
    | with_reducible refine State.send_touches (hW _ (by simp [execWlCalFetch_foot])) ?_
    | with_reducible refine State.sendFwd_touches (fun p hp => hW p (by unfold execWlCalFetch_foot; repeat first | with_reducible exact hp | with_reducible exact List.mem_append_right _ hp | with_reducible apply List.mem_append_left)) ?_
    | split
    | with_reducible refine forN_touches ?_ (fun x k hx => ?_)
    | with_reducible refine foldl_touches ?_ (fun x a hx => ?_)
    | with_reducible refine foldlSnd_touches ?_ (fun x a hx => ?_)
    | with_reducible assumption

/-- The parts execWlPrbsMode touches. -/
def execWlPrbsMode_foot : List Part := [.reg .iWL_PRBSRUN, .reg .WL_PRBS_MODE, .reg .iWL_PRBSAT, .fld .sent, .fld .status] ++ writeParam_foot ++ State.sendFwd_foot ++ State.trigger_foot ++ State.setLane_foot ++ State.haltLane_foot

theorem execWlPrbsMode_touches {W : List Part} {σ τ : State} {acc : Accessor} {surf : Surface} {p : Lane} {mode : Fin 4} (hW : ∀ p ∈ execWlPrbsMode_foot, p ∈ W)
    (hT : Touches W σ τ) : OutTouches W σ (execWlPrbsMode acc surf p mode τ) := by
  unfold execWlPrbsMode
  try dsimp only
  repeat' first
    | with_reducible apply OutTouches.ite
    | with_reducible refine OutTouches.next ?_
    | with_reducible apply Touches.ite
    | with_reducible refine writeParam_touches  (fun p hp => hW p (by unfold execWlPrbsMode_foot; repeat first | with_reducible exact hp | with_reducible exact List.mem_append_right _ hp | with_reducible apply List.mem_append_left)) ?_ (fun x  hx => ?_)
    | with_reducible refine State.send_touches (hW _ (by simp [execWlPrbsMode_foot])) ?_
    | with_reducible refine State.sendFwd_touches (fun p hp => hW p (by unfold execWlPrbsMode_foot; repeat first | with_reducible exact hp | with_reducible exact List.mem_append_right _ hp | with_reducible apply List.mem_append_left)) ?_
    | with_reducible refine cond_touches ?_ (fun x hx => ?_)
    | with_reducible refine State.setReg_touches (hW _ (by first | (simp [execWlPrbsMode_foot]; done) | (split <;> simp [execWlPrbsMode_foot] <;> done) | ((repeat' split) <;> simp [execWlPrbsMode_foot])))  ?_
    | with_reducible refine State.trigger_touches (fun p hp => hW p (by unfold execWlPrbsMode_foot; repeat first | with_reducible exact hp | with_reducible exact List.mem_append_right _ hp | with_reducible apply List.mem_append_left)) ?_
    | with_reducible refine State.setLane_touches (fun p hp => hW p (by unfold execWlPrbsMode_foot; repeat first | with_reducible exact hp | with_reducible exact List.mem_append_right _ hp | with_reducible apply List.mem_append_left)) ?_
    | with_reducible refine State.haltLane_touches (fun p hp => hW p (by unfold execWlPrbsMode_foot; repeat first | with_reducible exact hp | with_reducible exact List.mem_append_right _ hp | with_reducible apply List.mem_append_left)) ?_
    | with_reducible refine State.refuse_touches (hW _ (by simp [execWlPrbsMode_foot])) ?_
    | split
    | with_reducible refine forN_touches ?_ (fun x k hx => ?_)
    | with_reducible refine foldl_touches ?_ (fun x a hx => ?_)
    | with_reducible refine foldlSnd_touches ?_ (fun x a hx => ?_)
    | with_reducible assumption

/-- The parts execPrbsStart touches. -/
def execPrbsStart_foot : List Part := [.reg .iWL_PRBSRUN, .reg .iWL_PRBSREG, .fld .draws]

theorem execPrbsStart_touches {W : List Part} {σ τ : State} {surf : Surface} {p : Lane} (hW : ∀ p ∈ execPrbsStart_foot, p ∈ W)
    (hT : Touches W σ τ) : OutTouches W σ (execPrbsStart surf p τ) := by
  unfold execPrbsStart
  try dsimp only
  repeat' first
    | with_reducible apply OutTouches.ite
    | with_reducible refine OutTouches.next ?_
    | with_reducible apply Touches.ite
    | with_reducible refine State.draw_touches (hW _ (by simp [execPrbsStart_foot])) ?_
    | with_reducible refine Touches.ofPair (by assumption) (State.draw_touches (hW _ (by simp [execPrbsStart_foot])) ?_)
    | with_reducible refine State.setReg_touches (hW _ (by first | (simp [execPrbsStart_foot]; done) | (split <;> simp [execPrbsStart_foot] <;> done) | ((repeat' split) <;> simp [execPrbsStart_foot])))  ?_
    | split
    | with_reducible refine forN_touches ?_ (fun x k hx => ?_)
    | with_reducible refine foldl_touches ?_ (fun x a hx => ?_)
    | with_reducible refine foldlSnd_touches ?_ (fun x a hx => ?_)
    | with_reducible assumption

/-- The parts execWrPrbsMode touches. -/
def execWrPrbsMode_foot : List Part := [.reg .iWR_PRBSAT, .reg .WR_PRBS_MODE, .reg .WR_STATE, .fld .sent, .fld .status] ++ writeParam_foot ++ State.sendFwd_foot

theorem execWrPrbsMode_touches {W : List Part} {σ τ : State} {acc : Accessor} {surf : Surface} {r : RLane} {mode : Fin 4} (hW : ∀ p ∈ execWrPrbsMode_foot, p ∈ W)
    (hT : Touches W σ τ) : OutTouches W σ (execWrPrbsMode acc surf r mode τ) := by
  unfold execWrPrbsMode
  try dsimp only
  repeat' first
    | with_reducible apply OutTouches.ite
    | with_reducible refine OutTouches.next ?_
    | with_reducible apply Touches.ite
    | with_reducible refine writeParam_touches  (fun p hp => hW p (by unfold execWrPrbsMode_foot; repeat first | with_reducible exact hp | with_reducible exact List.mem_append_right _ hp | with_reducible apply List.mem_append_left)) ?_ (fun x  hx => ?_)
    | with_reducible refine State.send_touches (hW _ (by simp [execWrPrbsMode_foot])) ?_
    | with_reducible refine State.setReg_touches (hW _ (by first | (simp [execWrPrbsMode_foot]; done) | (split <;> simp [execWrPrbsMode_foot] <;> done) | ((repeat' split) <;> simp [execWrPrbsMode_foot])))  ?_
    | with_reducible refine State.sendFwd_touches (fun p hp => hW p (by unfold execWrPrbsMode_foot; repeat first | with_reducible exact hp | with_reducible exact List.mem_append_right _ hp | with_reducible apply List.mem_append_left)) ?_
    | with_reducible refine cond_touches ?_ (fun x hx => ?_)
    | with_reducible refine State.refuse_touches (hW _ (by simp [execWrPrbsMode_foot])) ?_
    | split
    | with_reducible refine forN_touches ?_ (fun x k hx => ?_)
    | with_reducible refine foldl_touches ?_ (fun x a hx => ?_)
    | with_reducible refine foldlSnd_touches ?_ (fun x a hx => ?_)
    | with_reducible assumption

end Sys2Proof.Machine
end

