-- ==== Sys2Proof/Laws/TouchesFrame.lean ====
section
/-! SUPPORT. What the functions of Machine/Frame.lean touch. -/
namespace Sys2Proof.Machine
set_option linter.all false

/-- The parts State.setFrame touches. -/
def State.setFrame_foot : List Part := [.fld .frameA, .fld .frameB]

theorem State.setFrame_touches {W : List Part} {σ τ : State} {surf : Nat} {f : FrameRec} (hW : ∀ p ∈ State.setFrame_foot, p ∈ W)
    (hT : Touches W σ τ) : Touches W σ (State.setFrame τ surf f) := by
  unfold State.setFrame
  try dsimp only
  repeat' first
    | with_reducible apply Touches.ite
    | split
    | with_reducible refine forN_touches ?_ (fun x k hx => ?_)
    | with_reducible refine foldl_touches ?_ (fun x a hx => ?_)
    | with_reducible refine foldlSnd_touches ?_ (fun x a hx => ?_)
    | with_reducible assumption
    | with_reducible refine touches_mk (fun f => by cases f <;> first | exact .inr (by with_reducible rfl) | exact .inl (hW _ (by simp [State.setFrame_foot]))) ?_

/-- The parts State.releaseBand touches. -/
def State.releaseBand_foot : List Part := [.reg .iS_RELEASED, .reg .HZ_LATE_TILES, .fld .requeued, .fld .tileQueue, .fld .held, .fld .ring]

theorem State.releaseBand_touches {W : List Part} {σ τ : State} {surf : Nat} {b : Nat} (hW : ∀ p ∈ State.releaseBand_foot, p ∈ W)
    (hT : Touches W σ τ) : Touches W σ (State.releaseBand τ surf b) := by
  unfold State.releaseBand
  try dsimp only
  repeat' first
    | with_reducible apply Touches.ite
    | with_reducible refine State.setReg_touches (hW _ (by first | (simp [State.releaseBand_foot]; done) | (split <;> simp [State.releaseBand_foot] <;> done) | ((repeat' split) <;> simp [State.releaseBand_foot])))  ?_
    | with_reducible refine State.bumpBy_touches (hW _ (by first | (simp [State.releaseBand_foot]; done) | (split <;> simp [State.releaseBand_foot] <;> done) | ((repeat' split) <;> simp [State.releaseBand_foot])))  ?_
    | split
    | with_reducible refine forN_touches ?_ (fun x k hx => ?_)
    | with_reducible refine foldl_touches ?_ (fun x a hx => ?_)
    | with_reducible refine foldlSnd_touches ?_ (fun x a hx => ?_)
    | with_reducible assumption
    | with_reducible refine touches_mk (fun f => by cases f <;> first | exact .inr (by with_reducible rfl) | exact .inl (hW _ (by simp [State.releaseBand_foot]))) ?_

/-- The parts State.ringFinding touches. -/
def State.ringFinding_foot : List Part := [.reg .SC_CORRECTED, .reg .SC_UNCORRECTABLE] ++ State.raise_foot

theorem State.ringFinding_touches {W : List Part} {σ τ : State} {surf : Nat} {b : Nat} {e : Nat × Finding} (hW : ∀ p ∈ State.ringFinding_foot, p ∈ W)
    (hT : Touches W σ τ) : Touches W σ (State.ringFinding τ surf b e) := by
  unfold State.ringFinding
  try dsimp only
  repeat' first
    | with_reducible apply Touches.ite
    | with_reducible refine State.bump_touches (hW _ (by first | (simp [State.ringFinding_foot]; done) | (split <;> simp [State.ringFinding_foot] <;> done) | ((repeat' split) <;> simp [State.ringFinding_foot])))  ?_
    | with_reducible refine State.raise_touches (fun p hp => hW p (by unfold State.ringFinding_foot; repeat first | with_reducible exact hp | with_reducible exact List.mem_append_right _ hp | with_reducible apply List.mem_append_left)) ?_
    | split
    | with_reducible refine forN_touches ?_ (fun x k hx => ?_)
    | with_reducible refine foldl_touches ?_ (fun x a hx => ?_)
    | with_reducible refine foldlSnd_touches ?_ (fun x a hx => ?_)
    | with_reducible assumption

/-- The parts State.ringTest touches. -/
def State.ringTest_foot : List Part := [.reg .SC_STATE, .reg .iRING_TESTS, .reg .SC_POSITION, .fld .draws] ++ State.ringFinding_foot ++ State.scrubSlow_foot ++ State.openLap_foot ++ State.lapEnd_foot

theorem State.ringTest_touches {W : List Part} {σ τ : State} {surf : Nat} {b : Nat} {test : List (Nat × Finding)} (hW : ∀ p ∈ State.ringTest_foot, p ∈ W)
    (hT : Touches W σ τ) : Touches W σ (State.ringTest τ surf b test) := by
  unfold State.ringTest
  try dsimp only
  repeat' first
    | with_reducible apply Touches.ite
    | with_reducible refine State.ringFinding_touches (fun p hp => hW p (by unfold State.ringTest_foot; repeat first | with_reducible exact hp | with_reducible exact List.mem_append_right _ hp | with_reducible apply List.mem_append_left)) ?_
    | with_reducible refine State.setReg_touches (hW _ (by first | (simp [State.ringTest_foot]; done) | (split <;> simp [State.ringTest_foot] <;> done) | ((repeat' split) <;> simp [State.ringTest_foot])))  ?_
    | with_reducible refine State.scrubSlow_touches (fun p hp => hW p (by unfold State.ringTest_foot; repeat first | with_reducible exact hp | with_reducible exact List.mem_append_right _ hp | with_reducible apply List.mem_append_left)) ?_
    | with_reducible refine State.openLap_touches (fun p hp => hW p (by unfold State.ringTest_foot; repeat first | with_reducible exact hp | with_reducible exact List.mem_append_right _ hp | with_reducible apply List.mem_append_left)) ?_
    | with_reducible refine State.lapEnd_touches (fun p hp => hW p (by unfold State.ringTest_foot; repeat first | with_reducible exact hp | with_reducible exact List.mem_append_right _ hp | with_reducible apply List.mem_append_left)) ?_
    | with_reducible refine State.draw_touches (hW _ (by simp [State.ringTest_foot])) ?_
    | with_reducible refine Touches.ofPair (by assumption) (State.draw_touches (hW _ (by simp [State.ringTest_foot])) ?_)
    | split
    | with_reducible refine forN_touches ?_ (fun x k hx => ?_)
    | with_reducible refine foldl_touches ?_ (fun x a hx => ?_)
    | with_reducible refine foldlSnd_touches ?_ (fun x a hx => ?_)
    | with_reducible assumption

/-- The parts execSlotRelease touches. -/
def execSlotRelease_foot : List Part := State.ringTest_foot ++ State.releaseBand_foot

theorem execSlotRelease_touches {W : List Part} {σ τ : State} {surf : Surface} {test : List (Nat × Finding)} (hW : ∀ p ∈ execSlotRelease_foot, p ∈ W)
    (hT : Touches W σ τ) : OutTouches W σ (execSlotRelease surf test τ) := by
  unfold execSlotRelease
  try dsimp only
  repeat' first
    | with_reducible apply OutTouches.ite
    | with_reducible refine OutTouches.next ?_
    | with_reducible apply Touches.ite
    | with_reducible refine State.ringTest_touches (fun p hp => hW p (by unfold execSlotRelease_foot; repeat first | with_reducible exact hp | with_reducible exact List.mem_append_right _ hp | with_reducible apply List.mem_append_left)) ?_
    | with_reducible refine State.releaseBand_touches (fun p hp => hW p (by unfold execSlotRelease_foot; repeat first | with_reducible exact hp | with_reducible exact List.mem_append_right _ hp | with_reducible apply List.mem_append_left)) ?_
    | split
    | with_reducible refine forN_touches ?_ (fun x k hx => ?_)
    | with_reducible refine foldl_touches ?_ (fun x a hx => ?_)
    | with_reducible refine foldlSnd_touches ?_ (fun x a hx => ?_)
    | with_reducible assumption

/-- The parts State.closeFrame touches. -/
def State.closeFrame_foot : List Part := [.fld .awaiting, .fld .taps, .fld .rejected] ++ State.ringTest_foot ++ State.releaseBand_foot

theorem State.closeFrame_touches {W : List Part} {σ τ : State} {surf : Nat} (hW : ∀ p ∈ State.closeFrame_foot, p ∈ W)
    (hT : Touches W σ τ) : Touches W σ (State.closeFrame τ surf) := by
  unfold State.closeFrame
  try dsimp only
  repeat' first
    | with_reducible apply Touches.ite
    | with_reducible refine State.ringTest_touches (fun p hp => hW p (by unfold State.closeFrame_foot; repeat first | with_reducible exact hp | with_reducible exact List.mem_append_right _ hp | with_reducible apply List.mem_append_left)) ?_
    | with_reducible refine State.releaseBand_touches (fun p hp => hW p (by unfold State.closeFrame_foot; repeat first | with_reducible exact hp | with_reducible exact List.mem_append_right _ hp | with_reducible apply List.mem_append_left)) ?_
    | split
    | with_reducible refine forN_touches ?_ (fun x k hx => ?_)
    | with_reducible refine foldl_touches ?_ (fun x a hx => ?_)
    | with_reducible refine foldlSnd_touches ?_ (fun x a hx => ?_)
    | with_reducible assumption
    | with_reducible refine touches_mk (fun f => by cases f <;> first | exact .inr (by with_reducible rfl) | exact .inl (hW _ (by simp [State.closeFrame_foot]))) ?_

/-- The parts State.samplePanel touches. -/
def State.samplePanel_foot : List Part := [.reg .TP_STALE, .reg .TP_TEMP]

theorem State.samplePanel_touches {W : List Part} {σ τ : State} {surf : Nat} (hW : ∀ p ∈ State.samplePanel_foot, p ∈ W)
    (hT : Touches W σ τ) : Touches W σ (State.samplePanel τ surf) := by
  unfold State.samplePanel
  try dsimp only
  repeat' first
    | with_reducible apply Touches.ite
    | with_reducible refine State.bump_touches (hW _ (by first | (simp [State.samplePanel_foot]; done) | (split <;> simp [State.samplePanel_foot] <;> done) | ((repeat' split) <;> simp [State.samplePanel_foot])))  ?_
    | with_reducible refine State.setRegInt_touches (hW _ (by first | (simp [State.samplePanel_foot]; done) | (split <;> simp [State.samplePanel_foot] <;> done) | ((repeat' split) <;> simp [State.samplePanel_foot])))  ?_
    | split
    | with_reducible refine forN_touches ?_ (fun x k hx => ?_)
    | with_reducible refine foldl_touches ?_ (fun x a hx => ?_)
    | with_reducible refine foldlSnd_touches ?_ (fun x a hx => ?_)
    | with_reducible assumption

/-- The parts State.applyStage touches. -/
def State.applyStage_foot : List Part := [.reg .iS_STAGE, .reg .iS_TSTAGE] ++ State.raise_foot

theorem State.applyStage_touches {W : List Part} {σ τ : State} {surf : Nat} (hW : ∀ p ∈ State.applyStage_foot, p ∈ W)
    (hT : Touches W σ τ) : Touches W σ (State.applyStage τ surf) := by
  unfold State.applyStage
  try dsimp only
  repeat' first
    | with_reducible apply Touches.ite
    | with_reducible refine State.setReg_touches (hW _ (by first | (simp [State.applyStage_foot]; done) | (split <;> simp [State.applyStage_foot] <;> done) | ((repeat' split) <;> simp [State.applyStage_foot])))  ?_
    | with_reducible refine State.raise_touches (fun p hp => hW p (by unfold State.applyStage_foot; repeat first | with_reducible exact hp | with_reducible exact List.mem_append_right _ hp | with_reducible apply List.mem_append_left)) ?_
    | split
    | with_reducible refine forN_touches ?_ (fun x k hx => ?_)
    | with_reducible refine foldl_touches ?_ (fun x a hx => ?_)
    | with_reducible refine foldlSnd_touches ?_ (fun x a hx => ?_)
    | with_reducible assumption

/-- The parts State.putBack touches. -/
def State.putBack_foot : List Part := [.fld .commits]

theorem State.putBack_touches {W : List Part} {σ τ : State} {a : Accepted} (hW : ∀ p ∈ State.putBack_foot, p ∈ W)
    (hT : Touches W σ τ) : Touches W σ (State.putBack τ a) := by
  unfold State.putBack
  try dsimp only
  repeat' first
    | with_reducible apply Touches.ite
    | split
    | with_reducible refine forN_touches ?_ (fun x k hx => ?_)
    | with_reducible refine foldl_touches ?_ (fun x a hx => ?_)
    | with_reducible refine foldlSnd_touches ?_ (fun x a hx => ?_)
    | with_reducible assumption
    | with_reducible refine touches_mk (fun f => by cases f <;> first | exact .inr (by with_reducible rfl) | exact .inl (hW _ (by simp [State.putBack_foot]))) ?_

/-- The parts State.finishGroup touches. -/
def State.finishGroup_foot : List Part := [.reg .CG_RESULT] ++ State.idleGroup_foot

theorem State.finishGroup_touches {W : List Part} {σ τ : State} {c : Commit} (hW : ∀ p ∈ State.finishGroup_foot, p ∈ W)
    (hT : Touches W σ τ) : Touches W σ (State.finishGroup τ c) := by
  unfold State.finishGroup
  try dsimp only
  repeat' first
    | with_reducible apply Touches.ite
    | with_reducible refine State.setReg_touches (hW _ (by first | (simp [State.finishGroup_foot]; done) | (split <;> simp [State.finishGroup_foot] <;> done) | ((repeat' split) <;> simp [State.finishGroup_foot])))  ?_
    | with_reducible refine State.idleGroup_touches (fun p hp => hW p (by unfold State.finishGroup_foot; repeat first | with_reducible exact hp | with_reducible exact List.mem_append_right _ hp | with_reducible apply List.mem_append_left)) ?_
    | split
    | with_reducible refine forN_touches ?_ (fun x k hx => ?_)
    | with_reducible refine foldl_touches ?_ (fun x a hx => ?_)
    | with_reducible refine foldlSnd_touches ?_ (fun x a hx => ?_)
    | with_reducible assumption

/-- The parts State.applyCommit touches. -/
def State.applyCommit_foot : List Part := [.reg .iS_COMMITTED, .reg .CMT_ACCEPTED, .reg .CMT_IN_FORCE] ++ State.putKey_foot ++ State.swapBuffer_foot ++ State.finishGroup_foot

theorem State.applyCommit_touches {W : List Part} {σ τ : State} {surf : Nat} {c : Commit} (hW : ∀ p ∈ State.applyCommit_foot, p ∈ W)
    (hT : Touches W σ τ) : Touches W σ (State.applyCommit τ surf c) := by
  unfold State.applyCommit
  try dsimp only
  repeat' first
    | with_reducible apply Touches.ite
    | with_reducible refine State.putKey_touches (fun p hp => hW p (by unfold State.applyCommit_foot; repeat first | with_reducible exact hp | with_reducible exact List.mem_append_right _ hp | with_reducible apply List.mem_append_left)) ?_
    | with_reducible refine State.setReg_touches (hW _ (by first | (simp [State.applyCommit_foot]; done) | (split <;> simp [State.applyCommit_foot] <;> done) | ((repeat' split) <;> simp [State.applyCommit_foot])))  ?_
    | with_reducible refine State.swapBuffer_touches (fun p hp => hW p (by unfold State.applyCommit_foot; repeat first | with_reducible exact hp | with_reducible exact List.mem_append_right _ hp | with_reducible apply List.mem_append_left)) ?_
    | with_reducible refine State.finishGroup_touches (fun p hp => hW p (by unfold State.applyCommit_foot; repeat first | with_reducible exact hp | with_reducible exact List.mem_append_right _ hp | with_reducible apply List.mem_append_left)) ?_
    | with_reducible refine State.bump_touches (hW _ (by first | (simp [State.applyCommit_foot]; done) | (split <;> simp [State.applyCommit_foot] <;> done) | ((repeat' split) <;> simp [State.applyCommit_foot])))  ?_
    | split
    | with_reducible refine forN_touches ?_ (fun x k hx => ?_)
    | with_reducible refine foldl_touches ?_ (fun x a hx => ?_)
    | with_reducible refine foldlSnd_touches ?_ (fun x a hx => ?_)
    | with_reducible assumption

/-- The parts State.refreshUsers touches. -/
def State.refreshUsers_foot : List Part := [.reg .LAST_USERS]

theorem State.refreshUsers_touches {W : List Part} {σ τ : State}  (hW : ∀ p ∈ State.refreshUsers_foot, p ∈ W)
    (hT : Touches W σ τ) : Touches W σ (State.refreshUsers τ) := by
  unfold State.refreshUsers
  try dsimp only
  repeat' first
    | with_reducible apply Touches.ite
    | with_reducible refine State.setReg_touches (hW _ (by first | (simp [State.refreshUsers_foot]; done) | (split <;> simp [State.refreshUsers_foot] <;> done) | ((repeat' split) <;> simp [State.refreshUsers_foot])))  ?_
    | split
    | with_reducible refine forN_touches ?_ (fun x k hx => ?_)
    | with_reducible refine foldl_touches ?_ (fun x a hx => ?_)
    | with_reducible refine foldlSnd_touches ?_ (fun x a hx => ?_)
    | with_reducible assumption

/-- The parts State.refreshTiming touches. -/
def State.refreshTiming_foot : List Part := [.reg .SO_LINE_PS, .reg .SO_BAND_NS, .reg .V_COUNT] ++ State.refreshNext_foot ++ State.refreshUsers_foot

theorem State.refreshTiming_touches {W : List Part} {σ τ : State} {surf : Nat} (hW : ∀ p ∈ State.refreshTiming_foot, p ∈ W)
    (hT : Touches W σ τ) : Touches W σ (State.refreshTiming τ surf) := by
  unfold State.refreshTiming
  try dsimp only
  repeat' first
    | with_reducible apply Touches.ite
    | with_reducible refine State.refreshNext_touches (fun p hp => hW p (by unfold State.refreshTiming_foot; repeat first | with_reducible exact hp | with_reducible exact List.mem_append_right _ hp | with_reducible apply List.mem_append_left)) ?_
    | with_reducible refine State.setReg_touches (hW _ (by first | (simp [State.refreshTiming_foot]; done) | (split <;> simp [State.refreshTiming_foot] <;> done) | ((repeat' split) <;> simp [State.refreshTiming_foot])))  ?_
    | with_reducible refine State.refreshUsers_touches (fun p hp => hW p (by unfold State.refreshTiming_foot; repeat first | with_reducible exact hp | with_reducible exact List.mem_append_right _ hp | with_reducible apply List.mem_append_left)) ?_
    | split
    | with_reducible refine forN_touches ?_ (fun x k hx => ?_)
    | with_reducible refine foldl_touches ?_ (fun x a hx => ?_)
    | with_reducible refine foldlSnd_touches ?_ (fun x a hx => ?_)
    | with_reducible assumption

/-- The parts State.setCost touches. -/
def State.setCost_foot : List Part := [.reg .ADM_RESERVATION, .reg .iS_RESV, .reg .iS_COST]

theorem State.setCost_touches {W : List Part} {σ τ : State} {surf : Nat} {costs : List Nat} {r : Nat} (hW : ∀ p ∈ State.setCost_foot, p ∈ W)
    (hT : Touches W σ τ) : Touches W σ (State.setCost τ surf costs r) := by
  unfold State.setCost
  try dsimp only
  repeat' first
    | with_reducible apply Touches.ite
    | with_reducible refine State.setReg_touches (hW _ (by first | (simp [State.setCost_foot]; done) | (split <;> simp [State.setCost_foot] <;> done) | ((repeat' split) <;> simp [State.setCost_foot])))  ?_
    | split
    | with_reducible refine forN_touches ?_ (fun x k hx => ?_)
    | with_reducible refine foldl_touches ?_ (fun x a hx => ?_)
    | with_reducible refine foldlSnd_touches ?_ (fun x a hx => ?_)
    | with_reducible assumption

/-- The parts State.refreshCost touches. -/
def State.refreshCost_foot : List Part := State.setCost_foot

theorem State.refreshCost_touches {W : List Part} {σ τ : State} {surf : Nat} (hW : ∀ p ∈ State.refreshCost_foot, p ∈ W)
    (hT : Touches W σ τ) : Touches W σ (State.refreshCost τ surf) := by
  unfold State.refreshCost
  try dsimp only
  repeat' first
    | with_reducible apply Touches.ite
    | with_reducible refine State.setCost_touches (fun p hp => hW p (by unfold State.refreshCost_foot; repeat first | with_reducible exact hp | with_reducible exact List.mem_append_right _ hp | with_reducible apply List.mem_append_left)) ?_
    | split
    | with_reducible refine forN_touches ?_ (fun x k hx => ?_)
    | with_reducible refine foldl_touches ?_ (fun x a hx => ?_)
    | with_reducible refine foldlSnd_touches ?_ (fun x a hx => ?_)
    | with_reducible assumption

/-- The parts State.relockWelt touches. -/
def State.relockWelt_foot : List Part := [.reg .iCK_WHY] ++ State.toBypass_foot

theorem State.relockWelt_touches {W : List Part} {σ τ : State} {surf : Nat} (hW : ∀ p ∈ State.relockWelt_foot, p ∈ W)
    (hT : Touches W σ τ) : Touches W σ (State.relockWelt τ surf) := by
  unfold State.relockWelt
  try dsimp only
  repeat' first
    | with_reducible apply Touches.ite
    | with_reducible refine State.toBypass_touches (fun p hp => hW p (by unfold State.relockWelt_foot; repeat first | with_reducible exact hp | with_reducible exact List.mem_append_right _ hp | with_reducible apply List.mem_append_left)) ?_
    | with_reducible refine State.setReg_touches (hW _ (by first | (simp [State.relockWelt_foot]; done) | (split <;> simp [State.relockWelt_foot] <;> done) | ((repeat' split) <;> simp [State.relockWelt_foot])))  ?_
    | split
    | with_reducible refine forN_touches ?_ (fun x k hx => ?_)
    | with_reducible refine foldl_touches ?_ (fun x a hx => ?_)
    | with_reducible refine foldlSnd_touches ?_ (fun x a hx => ?_)
    | with_reducible assumption

/-- The parts State.applyCommits touches. -/
def State.applyCommits_foot : List Part := [.reg .iS_GENCHG, .reg .iS_LIGHT, .reg .CMT_DARK_LEFT, .reg .iS_DARK] ++ State.applyCommit_foot ++ State.setCost_foot ++ State.refreshTiming_foot ++ State.reconfigure_foot ++ State.relockWelt_foot ++ State.announce_foot ++ State.capsFault_foot ++ State.checkPlayback_foot ++ State.raise_foot

theorem State.applyCommits_touches {W : List Part} {σ τ : State} {surf : Nat} {frame : Nat} {cs : List Commit} {found : List Nat × Nat} (hW : ∀ p ∈ State.applyCommits_foot, p ∈ W)
    (hT : Touches W σ τ) : Touches W σ (State.applyCommits τ surf frame cs found) := by
  unfold State.applyCommits
  try dsimp only
  repeat' first
    | with_reducible apply Touches.ite
    | with_reducible refine State.applyCommit_touches (fun p hp => hW p (by unfold State.applyCommits_foot; repeat first | with_reducible exact hp | with_reducible exact List.mem_append_right _ hp | with_reducible apply List.mem_append_left)) ?_
    | with_reducible refine State.setReg_touches (hW _ (by first | (simp [State.applyCommits_foot]; done) | (split <;> simp [State.applyCommits_foot] <;> done) | ((repeat' split) <;> simp [State.applyCommits_foot])))  ?_
    | with_reducible refine State.setCost_touches (fun p hp => hW p (by unfold State.applyCommits_foot; repeat first | with_reducible exact hp | with_reducible exact List.mem_append_right _ hp | with_reducible apply List.mem_append_left)) ?_
    | with_reducible refine State.refreshTiming_touches (fun p hp => hW p (by unfold State.applyCommits_foot; repeat first | with_reducible exact hp | with_reducible exact List.mem_append_right _ hp | with_reducible apply List.mem_append_left)) ?_
    | with_reducible refine State.reconfigure_touches (fun p hp => hW p (by unfold State.applyCommits_foot; repeat first | with_reducible exact hp | with_reducible exact List.mem_append_right _ hp | with_reducible apply List.mem_append_left)) ?_
    | with_reducible refine cond_touches ?_ (fun x hx => ?_)
    | with_reducible refine State.relockWelt_touches (fun p hp => hW p (by unfold State.applyCommits_foot; repeat first | with_reducible exact hp | with_reducible exact List.mem_append_right _ hp | with_reducible apply List.mem_append_left)) ?_
    | with_reducible refine State.announce_touches (fun p hp => hW p (by unfold State.applyCommits_foot; repeat first | with_reducible exact hp | with_reducible exact List.mem_append_right _ hp | with_reducible apply List.mem_append_left)) ?_
    | with_reducible refine State.capsFault_touches (fun p hp => hW p (by unfold State.applyCommits_foot; repeat first | with_reducible exact hp | with_reducible exact List.mem_append_right _ hp | with_reducible apply List.mem_append_left)) ?_
    | with_reducible refine State.checkPlayback_touches (fun p hp => hW p (by unfold State.applyCommits_foot; repeat first | with_reducible exact hp | with_reducible exact List.mem_append_right _ hp | with_reducible apply List.mem_append_left)) ?_
    | with_reducible refine State.raise_touches (fun p hp => hW p (by unfold State.applyCommits_foot; repeat first | with_reducible exact hp | with_reducible exact List.mem_append_right _ hp | with_reducible apply List.mem_append_left)) ?_
    | split
    | with_reducible refine forN_touches ?_ (fun x k hx => ?_)
    | with_reducible refine foldl_touches ?_ (fun x a hx => ?_)
    | with_reducible refine foldlSnd_touches ?_ (fun x a hx => ?_)
    | with_reducible assumption

/-- The parts State.stepCommits touches. -/
def State.stepCommits_foot : List Part := [.reg .iS_GENCHG, .reg .CMT_DEFERRED, .fld .accepted] ++ State.putBack_foot ++ State.refreshNext_foot ++ State.applyCommits_foot

theorem State.stepCommits_touches {W : List Part} {σ τ : State} {surf : Nat} {frame : Nat} (hW : ∀ p ∈ State.stepCommits_foot, p ∈ W)
    (hT : Touches W σ τ) : Touches W σ (State.stepCommits τ surf frame) := by
  unfold State.stepCommits
  try dsimp only
  repeat' first
    | with_reducible apply Touches.ite
    | with_reducible refine State.setReg_touches (hW _ (by first | (simp [State.stepCommits_foot]; done) | (split <;> simp [State.stepCommits_foot] <;> done) | ((repeat' split) <;> simp [State.stepCommits_foot])))  ?_
    | with_reducible refine cond_touches ?_ (fun x hx => ?_)
    | with_reducible refine State.putBack_touches (fun p hp => hW p (by unfold State.stepCommits_foot; repeat first | with_reducible exact hp | with_reducible exact List.mem_append_right _ hp | with_reducible apply List.mem_append_left)) ?_
    | with_reducible refine State.bump_touches (hW _ (by first | (simp [State.stepCommits_foot]; done) | (split <;> simp [State.stepCommits_foot] <;> done) | ((repeat' split) <;> simp [State.stepCommits_foot])))  ?_
    | with_reducible refine State.refreshNext_touches (fun p hp => hW p (by unfold State.stepCommits_foot; repeat first | with_reducible exact hp | with_reducible exact List.mem_append_right _ hp | with_reducible apply List.mem_append_left)) ?_
    | with_reducible refine State.applyCommits_touches (fun p hp => hW p (by unfold State.stepCommits_foot; repeat first | with_reducible exact hp | with_reducible exact List.mem_append_right _ hp | with_reducible apply List.mem_append_left)) ?_
    | split
    | with_reducible refine forN_touches ?_ (fun x k hx => ?_)
    | with_reducible refine foldl_touches ?_ (fun x a hx => ?_)
    | with_reducible refine foldlSnd_touches ?_ (fun x a hx => ?_)
    | with_reducible assumption
    | with_reducible refine touches_mk (fun f => by cases f <;> first | exact .inr (by with_reducible rfl) | exact .inl (hW _ (by simp [State.stepCommits_foot]))) ?_

/-- The parts State.blendSets touches. -/
def State.blendSets_foot : List Part := [.reg .iS_GAIN_ON, .reg .iS_LOHI]

theorem State.blendSets_touches {W : List Part} {σ τ : State} {surf : Nat} (hW : ∀ p ∈ State.blendSets_foot, p ∈ W)
    (hT : Touches W σ τ) : Touches W σ (State.blendSets τ surf) := by
  unfold State.blendSets
  try dsimp only
  repeat' first
    | with_reducible apply Touches.ite
    | with_reducible refine State.setReg_touches (hW _ (by first | (simp [State.blendSets_foot]; done) | (split <;> simp [State.blendSets_foot] <;> done) | ((repeat' split) <;> simp [State.blendSets_foot])))  ?_
    | split
    | with_reducible refine forN_touches ?_ (fun x k hx => ?_)
    | with_reducible refine foldl_touches ?_ (fun x a hx => ?_)
    | with_reducible refine foldlSnd_touches ?_ (fun x a hx => ?_)
    | with_reducible assumption

/-- The parts State.stepEnable touches. -/
def State.stepEnable_foot : List Part := [.reg .SO_OUT_STATE, .reg .iS_DISABLE, .reg .iS_LIGHT, .reg .CMT_DARK_LEFT, .reg .iS_DARK, .reg .iS_ENABLE] ++ State.raiseDisabled_foot ++ State.surfaceOff_foot ++ State.surfaceOn_foot

theorem State.stepEnable_touches {W : List Part} {σ τ : State} {surf : Nat} (hW : ∀ p ∈ State.stepEnable_foot, p ∈ W)
    (hT : Touches W σ τ) : Touches W σ (State.stepEnable τ surf) := by
  unfold State.stepEnable
  try dsimp only
  repeat' first
    | with_reducible apply Touches.ite
    | with_reducible refine State.raiseDisabled_touches (fun p hp => hW p (by unfold State.stepEnable_foot; repeat first | with_reducible exact hp | with_reducible exact List.mem_append_right _ hp | with_reducible apply List.mem_append_left)) ?_
    | with_reducible refine State.surfaceOff_touches (fun p hp => hW p (by unfold State.stepEnable_foot; repeat first | with_reducible exact hp | with_reducible exact List.mem_append_right _ hp | with_reducible apply List.mem_append_left)) ?_
    | with_reducible refine State.setReg_touches (hW _ (by first | (simp [State.stepEnable_foot]; done) | (split <;> simp [State.stepEnable_foot] <;> done) | ((repeat' split) <;> simp [State.stepEnable_foot])))  ?_
    | with_reducible refine State.surfaceOn_touches (fun p hp => hW p (by unfold State.stepEnable_foot; repeat first | with_reducible exact hp | with_reducible exact List.mem_append_right _ hp | with_reducible apply List.mem_append_left)) ?_
    | split
    | with_reducible refine forN_touches ?_ (fun x k hx => ?_)
    | with_reducible refine foldl_touches ?_ (fun x a hx => ?_)
    | with_reducible refine foldlSnd_touches ?_ (fun x a hx => ?_)
    | with_reducible assumption

/-- The parts State.stepDark touches. -/
def State.stepDark_foot : List Part := [.reg .iS_LIGHT, .reg .CMT_DARK_LEFT, .reg .iSTARTUP, .reg .iS_DARK]

theorem State.stepDark_touches {W : List Part} {σ τ : State} {surf : Nat} (hW : ∀ p ∈ State.stepDark_foot, p ∈ W)
    (hT : Touches W σ τ) : Touches W σ (State.stepDark τ surf) := by
  unfold State.stepDark
  try dsimp only
  repeat' first
    | with_reducible apply Touches.ite
    | with_reducible refine State.setReg_touches (hW _ (by first | (simp [State.stepDark_foot]; done) | (split <;> simp [State.stepDark_foot] <;> done) | ((repeat' split) <;> simp [State.stepDark_foot])))  ?_
    | split
    | with_reducible refine forN_touches ?_ (fun x k hx => ?_)
    | with_reducible refine foldl_touches ?_ (fun x a hx => ?_)
    | with_reducible refine foldlSnd_touches ?_ (fun x a hx => ?_)
    | with_reducible assumption

/-- The parts State.force touches. -/
def State.force_foot : List Part := [.reg .SO_FORCED, .reg .iS_SEEN, .reg .SO_OUT_STATE] ++ State.setFrame_foot

theorem State.force_touches {W : List Part} {σ τ : State} {surf : Nat} {cause : Nat} (hW : ∀ p ∈ State.force_foot, p ∈ W)
    (hT : Touches W σ τ) : Touches W σ (State.force τ surf cause) := by
  unfold State.force
  try dsimp only
  repeat' first
    | with_reducible apply Touches.ite
    | with_reducible refine State.setReg_touches (hW _ (by first | (simp [State.force_foot]; done) | (split <;> simp [State.force_foot] <;> done) | ((repeat' split) <;> simp [State.force_foot])))  ?_
    | with_reducible refine State.setFrame_touches (fun p hp => hW p (by unfold State.force_foot; repeat first | with_reducible exact hp | with_reducible exact List.mem_append_right _ hp | with_reducible apply List.mem_append_left)) ?_
    | split
    | with_reducible refine forN_touches ?_ (fun x k hx => ?_)
    | with_reducible refine foldl_touches ?_ (fun x a hx => ?_)
    | with_reducible refine foldlSnd_touches ?_ (fun x a hx => ?_)
    | with_reducible assumption

/-- The parts State.unforce touches. -/
def State.unforce_foot : List Part := [.reg .SO_FORCED]

theorem State.unforce_touches {W : List Part} {σ τ : State} {surf : Nat} {cause : Nat} (hW : ∀ p ∈ State.unforce_foot, p ∈ W)
    (hT : Touches W σ τ) : Touches W σ (State.unforce τ surf cause) := by
  unfold State.unforce
  try dsimp only
  repeat' first
    | with_reducible apply Touches.ite
    | with_reducible refine State.setReg_touches (hW _ (by first | (simp [State.unforce_foot]; done) | (split <;> simp [State.unforce_foot] <;> done) | ((repeat' split) <;> simp [State.unforce_foot])))  ?_
    | split
    | with_reducible refine forN_touches ?_ (fun x k hx => ?_)
    | with_reducible refine foldl_touches ?_ (fun x a hx => ?_)
    | with_reducible refine foldlSnd_touches ?_ (fun x a hx => ?_)
    | with_reducible assumption

/-- The parts State.abandonScan touches. -/
def State.abandonScan_foot : List Part := [.reg .SO_OUT_STATE, .reg .iS_DISABLE] ++ State.setFrame_foot ++ State.raiseDisabled_foot ++ State.surfaceOff_foot

theorem State.abandonScan_touches {W : List Part} {σ τ : State} {surf : Nat} (hW : ∀ p ∈ State.abandonScan_foot, p ∈ W)
    (hT : Touches W σ τ) : Touches W σ (State.abandonScan τ surf) := by
  unfold State.abandonScan
  try dsimp only
  repeat' first
    | with_reducible apply Touches.ite
    | with_reducible refine State.setFrame_touches (fun p hp => hW p (by unfold State.abandonScan_foot; repeat first | with_reducible exact hp | with_reducible exact List.mem_append_right _ hp | with_reducible apply List.mem_append_left)) ?_
    | with_reducible refine State.raiseDisabled_touches (fun p hp => hW p (by unfold State.abandonScan_foot; repeat first | with_reducible exact hp | with_reducible exact List.mem_append_right _ hp | with_reducible apply List.mem_append_left)) ?_
    | with_reducible refine State.surfaceOff_touches (fun p hp => hW p (by unfold State.abandonScan_foot; repeat first | with_reducible exact hp | with_reducible exact List.mem_append_right _ hp | with_reducible apply List.mem_append_left)) ?_
    | with_reducible refine State.setReg_touches (hW _ (by first | (simp [State.abandonScan_foot]; done) | (split <;> simp [State.abandonScan_foot] <;> done) | ((repeat' split) <;> simp [State.abandonScan_foot])))  ?_
    | split
    | with_reducible refine forN_touches ?_ (fun x k hx => ?_)
    | with_reducible refine foldl_touches ?_ (fun x a hx => ?_)
    | with_reducible refine foldlSnd_touches ?_ (fun x a hx => ?_)
    | with_reducible assumption

/-- The parts State.scanDisable touches. -/
def State.scanDisable_foot : List Part := [.reg .SO_ENABLE, .reg .iS_ENABLE, .reg .iS_DISABLE, .fld .keepPending] ++ State.abandonScan_foot

theorem State.scanDisable_touches {W : List Part} {σ τ : State} {surf : Nat} (hW : ∀ p ∈ State.scanDisable_foot, p ∈ W)
    (hT : Touches W σ τ) : Touches W σ (State.scanDisable τ surf) := by
  unfold State.scanDisable
  try dsimp only
  repeat' first
    | with_reducible apply Touches.ite
    | with_reducible refine State.putReg_touches (hW _ (by first | (simp [State.scanDisable_foot]; done) | (split <;> simp [State.scanDisable_foot] <;> done) | ((repeat' split) <;> simp [State.scanDisable_foot]))) (hW _ (by simp [State.scanDisable_foot])) ?_
    | with_reducible refine State.setReg_touches (hW _ (by first | (simp [State.scanDisable_foot]; done) | (split <;> simp [State.scanDisable_foot] <;> done) | ((repeat' split) <;> simp [State.scanDisable_foot])))  ?_
    | with_reducible refine State.abandonScan_touches (fun p hp => hW p (by unfold State.scanDisable_foot; repeat first | with_reducible exact hp | with_reducible exact List.mem_append_right _ hp | with_reducible apply List.mem_append_left)) ?_
    | split
    | with_reducible refine forN_touches ?_ (fun x k hx => ?_)
    | with_reducible refine foldl_touches ?_ (fun x a hx => ?_)
    | with_reducible refine foldlSnd_touches ?_ (fun x a hx => ?_)
    | with_reducible assumption

/-- The parts State.scanEnable touches. -/
def State.scanEnable_foot : List Part := [.reg .SO_ENABLE, .reg .iS_ENABLE, .fld .status, .fld .keepPending]

theorem State.scanEnable_touches {W : List Part} {σ τ : State} {surf : Nat} (hW : ∀ p ∈ State.scanEnable_foot, p ∈ W)
    (hT : Touches W σ τ) : Touches W σ (State.scanEnable τ surf) := by
  unfold State.scanEnable
  try dsimp only
  repeat' first
    | with_reducible apply Touches.ite
    | with_reducible refine State.refuse_touches (hW _ (by simp [State.scanEnable_foot])) ?_
    | with_reducible refine cond_touches ?_ (fun x hx => ?_)
    | with_reducible refine State.putReg_touches (hW _ (by first | (simp [State.scanEnable_foot]; done) | (split <;> simp [State.scanEnable_foot] <;> done) | ((repeat' split) <;> simp [State.scanEnable_foot]))) (hW _ (by simp [State.scanEnable_foot])) ?_
    | with_reducible refine State.setReg_touches (hW _ (by first | (simp [State.scanEnable_foot]; done) | (split <;> simp [State.scanEnable_foot] <;> done) | ((repeat' split) <;> simp [State.scanEnable_foot])))  ?_
    | split
    | with_reducible refine forN_touches ?_ (fun x k hx => ?_)
    | with_reducible refine foldl_touches ?_ (fun x a hx => ?_)
    | with_reducible refine foldlSnd_touches ?_ (fun x a hx => ?_)
    | with_reducible assumption

/-- The parts execSoEnableDisable touches. -/
def execSoEnableDisable_foot : List Part := writeParam_foot ++ State.scanDisable_foot

theorem execSoEnableDisable_touches {W : List Part} {σ τ : State} {acc : Accessor} {surf : Surface} (hW : ∀ p ∈ execSoEnableDisable_foot, p ∈ W)
    (hT : Touches W σ τ) : OutTouches W σ (execSoEnableDisable acc surf τ) := by
  unfold execSoEnableDisable
  try dsimp only
  repeat' first
    | with_reducible apply OutTouches.ite
    | with_reducible refine OutTouches.next ?_
    | with_reducible apply Touches.ite
    | with_reducible refine writeParam_touches  (fun p hp => hW p (by unfold execSoEnableDisable_foot; repeat first | with_reducible exact hp | with_reducible exact List.mem_append_right _ hp | with_reducible apply List.mem_append_left)) ?_ (fun x  hx => ?_)
    | with_reducible refine State.scanDisable_touches (fun p hp => hW p (by unfold execSoEnableDisable_foot; repeat first | with_reducible exact hp | with_reducible exact List.mem_append_right _ hp | with_reducible apply List.mem_append_left)) ?_
    | split
    | with_reducible refine forN_touches ?_ (fun x k hx => ?_)
    | with_reducible refine foldl_touches ?_ (fun x a hx => ?_)
    | with_reducible refine foldlSnd_touches ?_ (fun x a hx => ?_)
    | with_reducible assumption

/-- The parts execSoEnableResume touches. -/
def execSoEnableResume_foot : List Part := writeParam_foot ++ State.scanEnable_foot

theorem execSoEnableResume_touches {W : List Part} {σ τ : State} {acc : Accessor} {surf : Surface} (hW : ∀ p ∈ execSoEnableResume_foot, p ∈ W)
    (hT : Touches W σ τ) : OutTouches W σ (execSoEnableResume acc surf τ) := by
  unfold execSoEnableResume
  try dsimp only
  repeat' first
    | with_reducible apply OutTouches.ite
    | with_reducible refine OutTouches.next ?_
    | with_reducible apply Touches.ite
    | with_reducible refine writeParam_touches  (fun p hp => hW p (by unfold execSoEnableResume_foot; repeat first | with_reducible exact hp | with_reducible exact List.mem_append_right _ hp | with_reducible apply List.mem_append_left)) ?_ (fun x  hx => ?_)
    | with_reducible refine State.scanEnable_touches (fun p hp => hW p (by unfold execSoEnableResume_foot; repeat first | with_reducible exact hp | with_reducible exact List.mem_append_right _ hp | with_reducible apply List.mem_append_left)) ?_
    | split
    | with_reducible refine forN_touches ?_ (fun x k hx => ?_)
    | with_reducible refine foldl_touches ?_ (fun x a hx => ?_)
    | with_reducible refine foldlSnd_touches ?_ (fun x a hx => ?_)
    | with_reducible assumption

/-- The parts execLastResync touches. -/
def execLastResync_foot : List Part := [.reg .iG_RESYNC] ++ writeParam_foot

theorem execLastResync_touches {W : List Part} {σ τ : State} {acc : Accessor} {g : Gen} (hW : ∀ p ∈ execLastResync_foot, p ∈ W)
    (hT : Touches W σ τ) : OutTouches W σ (execLastResync acc g τ) := by
  unfold execLastResync
  try dsimp only
  repeat' first
    | with_reducible apply OutTouches.ite
    | with_reducible refine OutTouches.next ?_
    | with_reducible apply Touches.ite
    | with_reducible refine writeParam_touches  (fun p hp => hW p (by unfold execLastResync_foot; repeat first | with_reducible exact hp | with_reducible exact List.mem_append_right _ hp | with_reducible apply List.mem_append_left)) ?_ (fun x  hx => ?_)
    | with_reducible refine State.setReg_touches (hW _ (by first | (simp [execLastResync_foot]; done) | (split <;> simp [execLastResync_foot] <;> done) | ((repeat' split) <;> simp [execLastResync_foot])))  ?_
    | split
    | with_reducible refine forN_touches ?_ (fun x k hx => ?_)
    | with_reducible refine foldl_touches ?_ (fun x a hx => ?_)
    | with_reducible refine foldlSnd_touches ?_ (fun x a hx => ?_)
    | with_reducible assumption

/-- The parts execLastRateWrite touches. -/
def execLastRateWrite_foot : List Part := writeParam_foot ++ State.stageWrite_foot ++ State.refreshNext_foot

theorem execLastRateWrite_touches {W : List Part} {σ τ : State} {acc : Accessor} {g : Gen} {rate : BitVec 8} (hW : ∀ p ∈ execLastRateWrite_foot, p ∈ W)
    (hT : Touches W σ τ) : OutTouches W σ (execLastRateWrite acc g rate τ) := by
  unfold execLastRateWrite
  try dsimp only
  repeat' first
    | with_reducible apply OutTouches.ite
    | with_reducible refine OutTouches.next ?_
    | with_reducible apply Touches.ite
    | with_reducible refine writeParam_touches  (fun p hp => hW p (by unfold execLastRateWrite_foot; repeat first | with_reducible exact hp | with_reducible exact List.mem_append_right _ hp | with_reducible apply List.mem_append_left)) ?_ (fun x  hx => ?_)
    | with_reducible refine cond_touches ?_ (fun x hx => ?_)
    | with_reducible refine State.stageWrite_touches (fun p hp => hW p (by unfold execLastRateWrite_foot; repeat first | with_reducible exact hp | with_reducible exact List.mem_append_right _ hp | with_reducible apply List.mem_append_left)) ?_
    | with_reducible refine State.refreshNext_touches (fun p hp => hW p (by unfold execLastRateWrite_foot; repeat first | with_reducible exact hp | with_reducible exact List.mem_append_right _ hp | with_reducible apply List.mem_append_left)) ?_
    | split
    | with_reducible refine forN_touches ?_ (fun x k hx => ?_)
    | with_reducible refine foldl_touches ?_ (fun x a hx => ?_)
    | with_reducible refine foldlSnd_touches ?_ (fun x a hx => ?_)
    | with_reducible assumption

/-- The parts State.refreshTap touches. -/
def State.refreshTap_foot : List Part := [.reg .TAP_STATE, .reg .TAP_ENABLE, .reg .TAP_DROPS, .fld .taps]

theorem State.refreshTap_touches {W : List Part} {σ τ : State} {t : Nat} (hW : ∀ p ∈ State.refreshTap_foot, p ∈ W)
    (hT : Touches W σ τ) : Touches W σ (State.refreshTap τ t) := by
  unfold State.refreshTap
  try dsimp only
  repeat' first
    | with_reducible apply Touches.ite
    | with_reducible refine State.setReg_touches (hW _ (by first | (simp [State.refreshTap_foot]; done) | (split <;> simp [State.refreshTap_foot] <;> done) | ((repeat' split) <;> simp [State.refreshTap_foot])))  ?_
    | with_reducible refine State.bumpBy_touches (hW _ (by first | (simp [State.refreshTap_foot]; done) | (split <;> simp [State.refreshTap_foot] <;> done) | ((repeat' split) <;> simp [State.refreshTap_foot])))  ?_
    | split
    | with_reducible refine forN_touches ?_ (fun x k hx => ?_)
    | with_reducible refine foldl_touches ?_ (fun x a hx => ?_)
    | with_reducible refine foldlSnd_touches ?_ (fun x a hx => ?_)
    | with_reducible assumption
    | with_reducible refine touches_mk (fun f => by cases f <;> first | exact .inr (by with_reducible rfl) | exact .inl (hW _ (by simp [State.refreshTap_foot]))) ?_

/-- The parts State.refreshTaps touches. -/
def State.refreshTaps_foot : List Part := State.refreshTap_foot

theorem State.refreshTaps_touches {W : List Part} {σ τ : State}  (hW : ∀ p ∈ State.refreshTaps_foot, p ∈ W)
    (hT : Touches W σ τ) : Touches W σ (State.refreshTaps τ) := by
  unfold State.refreshTaps
  try dsimp only
  repeat' first
    | with_reducible apply Touches.ite
    | with_reducible refine State.refreshTap_touches (fun p hp => hW p (by unfold State.refreshTaps_foot; repeat first | with_reducible exact hp | with_reducible exact List.mem_append_right _ hp | with_reducible apply List.mem_append_left)) ?_
    | split
    | with_reducible refine forN_touches ?_ (fun x k hx => ?_)
    | with_reducible refine foldl_touches ?_ (fun x a hx => ?_)
    | with_reducible refine foldlSnd_touches ?_ (fun x a hx => ?_)
    | with_reducible assumption

/-- The parts State.openTap touches. -/
def State.openTap_foot : List Part := [.reg .TAP_SKIPPED, .fld .taps]

theorem State.openTap_touches {W : List Part} {σ τ : State} {surf : Nat} {k : Nat} (hW : ∀ p ∈ State.openTap_foot, p ∈ W)
    (hT : Touches W σ τ) : Touches W σ (State.openTap τ surf k) := by
  unfold State.openTap
  try dsimp only
  repeat' first
    | with_reducible apply Touches.ite
    | with_reducible refine State.bump_touches (hW _ (by first | (simp [State.openTap_foot]; done) | (split <;> simp [State.openTap_foot] <;> done) | ((repeat' split) <;> simp [State.openTap_foot])))  ?_
    | split
    | with_reducible refine forN_touches ?_ (fun x k hx => ?_)
    | with_reducible refine foldl_touches ?_ (fun x a hx => ?_)
    | with_reducible refine foldlSnd_touches ?_ (fun x a hx => ?_)
    | with_reducible assumption
    | with_reducible refine touches_mk (fun f => by cases f <;> first | exact .inr (by with_reducible rfl) | exact .inl (hW _ (by simp [State.openTap_foot]))) ?_

/-- The parts State.openRecord touches. -/
def State.openRecord_foot : List Part := [.reg .SO_OUT_STATE, .reg .iS_RELEASED, .reg .iS_DISPATCHED, .reg .iS_RAST, .reg .iS_LINE, .reg .iS_SEEN] ++ State.setFrame_foot ++ State.refreshTap_foot ++ State.openTap_foot

theorem State.openRecord_touches {W : List Part} {σ τ : State} {surf : Nat} (hW : ∀ p ∈ State.openRecord_foot, p ∈ W)
    (hT : Touches W σ τ) : Touches W σ (State.openRecord τ surf) := by
  unfold State.openRecord
  try dsimp only
  repeat' first
    | with_reducible apply Touches.ite
    | with_reducible refine State.setReg_touches (hW _ (by first | (simp [State.openRecord_foot]; done) | (split <;> simp [State.openRecord_foot] <;> done) | ((repeat' split) <;> simp [State.openRecord_foot])))  ?_
    | with_reducible refine State.setFrame_touches (fun p hp => hW p (by unfold State.openRecord_foot; repeat first | with_reducible exact hp | with_reducible exact List.mem_append_right _ hp | with_reducible apply List.mem_append_left)) ?_
    | with_reducible refine State.refreshTap_touches (fun p hp => hW p (by unfold State.openRecord_foot; repeat first | with_reducible exact hp | with_reducible exact List.mem_append_right _ hp | with_reducible apply List.mem_append_left)) ?_
    | with_reducible refine State.openTap_touches (fun p hp => hW p (by unfold State.openRecord_foot; repeat first | with_reducible exact hp | with_reducible exact List.mem_append_right _ hp | with_reducible apply List.mem_append_left)) ?_
    | split
    | with_reducible refine forN_touches ?_ (fun x k hx => ?_)
    | with_reducible refine foldl_touches ?_ (fun x a hx => ?_)
    | with_reducible refine foldlSnd_touches ?_ (fun x a hx => ?_)
    | with_reducible assumption

/-- The parts State.frameBoundary touches. -/
def State.frameBoundary_foot : List Part := State.closeFrame_foot ++ State.genAdvance_foot ++ State.applyStage_foot ++ State.samplePanel_foot ++ State.stepEnable_foot ++ State.takeLuts_foot ++ State.stepDark_foot ++ State.stepCommits_foot ++ State.arrayBoundary_foot ++ State.laceEvent_foot ++ State.openRecord_foot ++ State.blendSets_foot

theorem State.frameBoundary_touches {W : List Part} {σ τ : State} {surf : Nat} (hW : ∀ p ∈ State.frameBoundary_foot, p ∈ W)
    (hT : Touches W σ τ) : Touches W σ (State.frameBoundary τ surf) := by
  unfold State.frameBoundary
  try dsimp only
  repeat' first
    | with_reducible apply Touches.ite
    | with_reducible refine State.closeFrame_touches (fun p hp => hW p (by unfold State.frameBoundary_foot; repeat first | with_reducible exact hp | with_reducible exact List.mem_append_right _ hp | with_reducible apply List.mem_append_left)) ?_
    | with_reducible refine State.genAdvance_touches (fun p hp => hW p (by unfold State.frameBoundary_foot; repeat first | with_reducible exact hp | with_reducible exact List.mem_append_right _ hp | with_reducible apply List.mem_append_left)) ?_
    | with_reducible refine State.applyStage_touches (fun p hp => hW p (by unfold State.frameBoundary_foot; repeat first | with_reducible exact hp | with_reducible exact List.mem_append_right _ hp | with_reducible apply List.mem_append_left)) ?_
    | with_reducible refine State.samplePanel_touches (fun p hp => hW p (by unfold State.frameBoundary_foot; repeat first | with_reducible exact hp | with_reducible exact List.mem_append_right _ hp | with_reducible apply List.mem_append_left)) ?_
    | with_reducible refine State.stepEnable_touches (fun p hp => hW p (by unfold State.frameBoundary_foot; repeat first | with_reducible exact hp | with_reducible exact List.mem_append_right _ hp | with_reducible apply List.mem_append_left)) ?_
    | with_reducible refine State.takeLuts_touches (fun p hp => hW p (by unfold State.frameBoundary_foot; repeat first | with_reducible exact hp | with_reducible exact List.mem_append_right _ hp | with_reducible apply List.mem_append_left)) ?_
    | with_reducible refine State.stepDark_touches (fun p hp => hW p (by unfold State.frameBoundary_foot; repeat first | with_reducible exact hp | with_reducible exact List.mem_append_right _ hp | with_reducible apply List.mem_append_left)) ?_
    | with_reducible refine State.stepCommits_touches (fun p hp => hW p (by unfold State.frameBoundary_foot; repeat first | with_reducible exact hp | with_reducible exact List.mem_append_right _ hp | with_reducible apply List.mem_append_left)) ?_
    | with_reducible refine State.arrayBoundary_touches (fun p hp => hW p (by unfold State.frameBoundary_foot; repeat first | with_reducible exact hp | with_reducible exact List.mem_append_right _ hp | with_reducible apply List.mem_append_left)) ?_
    | with_reducible refine State.laceEvent_touches (fun p hp => hW p (by unfold State.frameBoundary_foot; repeat first | with_reducible exact hp | with_reducible exact List.mem_append_right _ hp | with_reducible apply List.mem_append_left)) ?_
    | with_reducible refine State.openRecord_touches (fun p hp => hW p (by unfold State.frameBoundary_foot; repeat first | with_reducible exact hp | with_reducible exact List.mem_append_right _ hp | with_reducible apply List.mem_append_left)) ?_
    | with_reducible refine State.blendSets_touches (fun p hp => hW p (by unfold State.frameBoundary_foot; repeat first | with_reducible exact hp | with_reducible exact List.mem_append_right _ hp | with_reducible apply List.mem_append_left)) ?_
    | split
    | with_reducible refine forN_touches ?_ (fun x k hx => ?_)
    | with_reducible refine foldl_touches ?_ (fun x a hx => ?_)
    | with_reducible refine foldlSnd_touches ?_ (fun x a hx => ?_)
    | with_reducible assumption

/-- The parts execFrameBoundary touches. -/
def execFrameBoundary_foot : List Part := [.fld .sent] ++ State.frameBoundary_foot

theorem execFrameBoundary_touches {W : List Part} {σ τ : State} {surf : Surface} (hW : ∀ p ∈ execFrameBoundary_foot, p ∈ W)
    (hT : Touches W σ τ) : OutTouches W σ (execFrameBoundary surf τ) := by
  unfold execFrameBoundary
  try dsimp only
  repeat' first
    | with_reducible apply OutTouches.ite
    | with_reducible refine OutTouches.next ?_
    | with_reducible apply Touches.ite
    | with_reducible refine State.frameBoundary_touches (fun p hp => hW p (by unfold execFrameBoundary_foot; repeat first | with_reducible exact hp | with_reducible exact List.mem_append_right _ hp | with_reducible apply List.mem_append_left)) ?_
    | with_reducible refine State.send_touches (hW _ (by simp [execFrameBoundary_foot])) ?_
    | split
    | with_reducible refine forN_touches ?_ (fun x k hx => ?_)
    | with_reducible refine foldl_touches ?_ (fun x a hx => ?_)
    | with_reducible refine foldlSnd_touches ?_ (fun x a hx => ?_)
    | with_reducible assumption

/-- The parts State.publish touches. -/
def State.publish_foot : List Part := [.reg .FR_FLAGS, .reg .FR_FRAME, .reg .FR_DIGEST, .reg .FR_LAST, .reg .SYN_CAL_POISON, .reg .SYN_DIR_CLAMPS, .reg .UR_LINES_TOTAL, .reg .FR_GUARANTEED, .fld .historyA, .fld .historyB, .fld .taps] ++ State.raise_foot

theorem State.publish_touches {W : List Part} {σ τ : State} {surf : Nat} {f : FrameRec} (hW : ∀ p ∈ State.publish_foot, p ∈ W)
    (hT : Touches W σ τ) : Touches W σ (State.publish τ surf f) := by
  unfold State.publish
  try dsimp only
  repeat' first
    | with_reducible apply Touches.ite
    | with_reducible refine State.setReg_touches (hW _ (by first | (simp [State.publish_foot]; done) | (split <;> simp [State.publish_foot] <;> done) | ((repeat' split) <;> simp [State.publish_foot])))  ?_
    | with_reducible refine State.bumpBy_touches (hW _ (by first | (simp [State.publish_foot]; done) | (split <;> simp [State.publish_foot] <;> done) | ((repeat' split) <;> simp [State.publish_foot])))  ?_
    | with_reducible refine cond_touches ?_ (fun x hx => ?_)
    | with_reducible refine State.bump_touches (hW _ (by first | (simp [State.publish_foot]; done) | (split <;> simp [State.publish_foot] <;> done) | ((repeat' split) <;> simp [State.publish_foot])))  ?_
    | with_reducible refine State.raise_touches (fun p hp => hW p (by unfold State.publish_foot; repeat first | with_reducible exact hp | with_reducible exact List.mem_append_right _ hp | with_reducible apply List.mem_append_left)) ?_
    | split
    | with_reducible refine forN_touches ?_ (fun x k hx => ?_)
    | with_reducible refine foldl_touches ?_ (fun x a hx => ?_)
    | with_reducible refine foldlSnd_touches ?_ (fun x a hx => ?_)
    | with_reducible assumption
    | with_reducible refine touches_mk (fun f => by cases f <;> first | exact .inr (by with_reducible rfl) | exact .inl (hW _ (by simp [State.publish_foot]))) ?_

/-- The parts execFrameRecordPublish touches. -/
def execFrameRecordPublish_foot : List Part := [.fld .awaiting] ++ State.publish_foot

theorem execFrameRecordPublish_touches {W : List Part} {σ τ : State} {surf : Surface} (hW : ∀ p ∈ execFrameRecordPublish_foot, p ∈ W)
    (hT : Touches W σ τ) : OutTouches W σ (execFrameRecordPublish surf τ) := by
  unfold execFrameRecordPublish
  try dsimp only
  repeat' first
    | with_reducible apply OutTouches.ite
    | with_reducible refine OutTouches.next ?_
    | with_reducible apply Touches.ite
    | with_reducible refine State.publish_touches (fun p hp => hW p (by unfold execFrameRecordPublish_foot; repeat first | with_reducible exact hp | with_reducible exact List.mem_append_right _ hp | with_reducible apply List.mem_append_left)) ?_
    | split
    | with_reducible refine forN_touches ?_ (fun x k hx => ?_)
    | with_reducible refine foldl_touches ?_ (fun x a hx => ?_)
    | with_reducible refine foldlSnd_touches ?_ (fun x a hx => ?_)
    | with_reducible assumption
    | with_reducible refine touches_mk (fun f => by cases f <;> first | exact .inr (by with_reducible rfl) | exact .inl (hW _ (by simp [execFrameRecordPublish_foot]))) ?_

end Sys2Proof.Machine
end

