-- ==== Sys2Proof/Laws/TouchesNet.lean ====
section
/-! SUPPORT. What the functions of Machine/Net.lean touch. -/
namespace Sys2Proof.Machine
set_option linter.all false

/-- The parts State.stampFrame touches. -/
def State.stampFrame_foot : List Part := [.fld .waits]

theorem State.stampFrame_touches {W : List Part} {σ τ : State} {f : EgressFrame} {tx : Nat} (hW : ∀ p ∈ State.stampFrame_foot, p ∈ W)
    (hT : Touches W σ τ) : Touches W σ (State.stampFrame τ f tx).2 := by
  unfold State.stampFrame
  try dsimp only
  repeat' first
    | with_reducible apply Touches.iteSnd
    | with_reducible apply Touches.ite
    | with_reducible refine State.noteRecent_touches (hW _ (by simp [State.stampFrame_foot])) ?_
    | split
    | with_reducible refine forN_touches ?_ (fun x k hx => ?_)
    | with_reducible refine foldl_touches ?_ (fun x a hx => ?_)
    | with_reducible refine foldlSnd_touches ?_ (fun x a hx => ?_)
    | with_reducible assumption

/-- The parts State.portStart touches. -/
def State.portStart_foot : List Part := [.fld .egress] ++ State.stampFrame_foot

theorem State.portStart_touches {W : List Part} {σ τ : State} {port : Nat} {tx : Nat} (hW : ∀ p ∈ State.portStart_foot, p ∈ W)
    (hT : Touches W σ τ) : Touches W σ (State.portStart τ port tx) := by
  unfold State.portStart
  try dsimp only
  repeat' first
    | with_reducible apply Touches.ite
    | with_reducible refine Touches.ofPair (by assumption) (State.stampFrame_touches (fun p hp => hW p (by unfold State.portStart_foot; repeat first | with_reducible exact hp | with_reducible exact List.mem_append_right _ hp | with_reducible apply List.mem_append_left)) ?_)
    | with_reducible refine State.stampFrame_touches (fun p hp => hW p (by unfold State.portStart_foot; repeat first | with_reducible exact hp | with_reducible exact List.mem_append_right _ hp | with_reducible apply List.mem_append_left)) ?_
    | split
    | with_reducible refine forN_touches ?_ (fun x k hx => ?_)
    | with_reducible refine foldl_touches ?_ (fun x a hx => ?_)
    | with_reducible refine foldlSnd_touches ?_ (fun x a hx => ?_)
    | with_reducible assumption
    | with_reducible refine touches_mk (fun f => by cases f <;> first | exact .inr (by with_reducible rfl) | exact .inl (hW _ (by simp [State.portStart_foot]))) ?_

/-- The parts State.sendOwn touches. -/
def State.sendOwn_foot : List Part := [.fld .egress] ++ State.portStart_foot

theorem State.sendOwn_touches {W : List Part} {σ τ : State} {port : Nat} {sub : Nat} {queue : Nat} {len : Nat} {msg : OutMsg} (hW : ∀ p ∈ State.sendOwn_foot, p ∈ W)
    (hT : Touches W σ τ) : Touches W σ (State.sendOwn τ port sub queue len msg) := by
  unfold State.sendOwn
  try dsimp only
  repeat' first
    | with_reducible apply Touches.ite
    | with_reducible refine State.portStart_touches (fun p hp => hW p (by unfold State.sendOwn_foot; repeat first | with_reducible exact hp | with_reducible exact List.mem_append_right _ hp | with_reducible apply List.mem_append_left)) ?_
    | split
    | with_reducible refine forN_touches ?_ (fun x k hx => ?_)
    | with_reducible refine foldl_touches ?_ (fun x a hx => ?_)
    | with_reducible refine foldlSnd_touches ?_ (fun x a hx => ?_)
    | with_reducible assumption
    | with_reducible refine touches_mk (fun f => by cases f <;> first | exact .inr (by with_reducible rfl) | exact .inl (hW _ (by simp [State.sendOwn_foot]))) ?_

/-- The parts State.netSend touches. -/
def State.netSend_foot : List Part := [.fld .sent] ++ State.sendOwn_foot

theorem State.netSend_touches {W : List Part} {σ τ : State} {port : Nat} {sub : Nat} {dst : Nat} {etype : Nat} {body : List Byte} (hW : ∀ p ∈ State.netSend_foot, p ∈ W)
    (hT : Touches W σ τ) : Touches W σ (State.netSend τ port sub dst etype body) := by
  unfold State.netSend
  try dsimp only
  repeat' first
    | with_reducible apply Touches.ite
    | with_reducible refine State.sendOwn_touches (fun p hp => hW p (by unfold State.netSend_foot; repeat first | with_reducible exact hp | with_reducible exact List.mem_append_right _ hp | with_reducible apply List.mem_append_left)) ?_
    | with_reducible refine State.sendMore_touches (hW _ (by simp [State.netSend_foot])) ?_
    | split
    | with_reducible refine forN_touches ?_ (fun x k hx => ?_)
    | with_reducible refine foldl_touches ?_ (fun x a hx => ?_)
    | with_reducible refine foldlSnd_touches ?_ (fun x a hx => ?_)
    | with_reducible assumption

/-- The parts State.igmpReport touches. -/
def State.igmpReport_foot : List Part := State.netSend_foot

theorem State.igmpReport_touches {W : List Part} {σ τ : State} {port : Nat} {kind : Nat} {groups : List Nat} (hW : ∀ p ∈ State.igmpReport_foot, p ∈ W)
    (hT : Touches W σ τ) : Touches W σ (State.igmpReport τ port kind groups) := by
  unfold State.igmpReport
  try dsimp only
  repeat' first
    | with_reducible apply Touches.ite
    | with_reducible refine State.netSend_touches (fun p hp => hW p (by unfold State.igmpReport_foot; repeat first | with_reducible exact hp | with_reducible exact List.mem_append_right _ hp | with_reducible apply List.mem_append_left)) ?_
    | split
    | with_reducible refine forN_touches ?_ (fun x k hx => ?_)
    | with_reducible refine foldl_touches ?_ (fun x a hx => ?_)
    | with_reducible refine foldlSnd_touches ?_ (fun x a hx => ?_)
    | with_reducible assumption

/-- The parts State.mldReport touches. -/
def State.mldReport_foot : List Part := State.netSend_foot

theorem State.mldReport_touches {W : List Part} {σ τ : State} {port : Nat} {kind : Nat} {groups : List Nat} (hW : ∀ p ∈ State.mldReport_foot, p ∈ W)
    (hT : Touches W σ τ) : Touches W σ (State.mldReport τ port kind groups) := by
  unfold State.mldReport
  try dsimp only
  repeat' first
    | with_reducible apply Touches.ite
    | with_reducible refine State.netSend_touches (fun p hp => hW p (by unfold State.mldReport_foot; repeat first | with_reducible exact hp | with_reducible exact List.mem_append_right _ hp | with_reducible apply List.mem_append_left)) ?_
    | split
    | with_reducible refine forN_touches ?_ (fun x k hx => ?_)
    | with_reducible refine foldl_touches ?_ (fun x a hx => ?_)
    | with_reducible refine foldlSnd_touches ?_ (fun x a hx => ?_)
    | with_reducible assumption

/-- The parts State.reportGroups touches. -/
def State.reportGroups_foot : List Part := State.mldReport_foot ++ State.igmpReport_foot

theorem State.reportGroups_touches {W : List Part} {σ τ : State} {old : State} (hW : ∀ p ∈ State.reportGroups_foot, p ∈ W)
    (hT : Touches W σ τ) : Touches W σ (State.reportGroups τ old) := by
  unfold State.reportGroups
  try dsimp only
  repeat' first
    | with_reducible apply Touches.ite
    | with_reducible refine State.mldReport_touches (fun p hp => hW p (by unfold State.reportGroups_foot; repeat first | with_reducible exact hp | with_reducible exact List.mem_append_right _ hp | with_reducible apply List.mem_append_left)) ?_
    | with_reducible refine State.igmpReport_touches (fun p hp => hW p (by unfold State.reportGroups_foot; repeat first | with_reducible exact hp | with_reducible exact List.mem_append_right _ hp | with_reducible apply List.mem_append_left)) ?_
    | split
    | with_reducible refine forN_touches ?_ (fun x k hx => ?_)
    | with_reducible refine foldl_touches ?_ (fun x a hx => ?_)
    | with_reducible refine foldlSnd_touches ?_ (fun x a hx => ?_)
    | with_reducible assumption

/-- The parts State.announceGroups touches. -/
def State.announceGroups_foot : List Part := State.mldReport_foot ++ State.igmpReport_foot

theorem State.announceGroups_touches {W : List Part} {σ τ : State}  (hW : ∀ p ∈ State.announceGroups_foot, p ∈ W)
    (hT : Touches W σ τ) : Touches W σ (State.announceGroups τ) := by
  unfold State.announceGroups
  try dsimp only
  repeat' first
    | with_reducible apply Touches.ite
    | with_reducible refine State.mldReport_touches (fun p hp => hW p (by unfold State.announceGroups_foot; repeat first | with_reducible exact hp | with_reducible exact List.mem_append_right _ hp | with_reducible apply List.mem_append_left)) ?_
    | with_reducible refine State.igmpReport_touches (fun p hp => hW p (by unfold State.announceGroups_foot; repeat first | with_reducible exact hp | with_reducible exact List.mem_append_right _ hp | with_reducible apply List.mem_append_left)) ?_
    | split
    | with_reducible refine forN_touches ?_ (fun x k hx => ?_)
    | with_reducible refine foldl_touches ?_ (fun x a hx => ?_)
    | with_reducible refine foldlSnd_touches ?_ (fun x a hx => ?_)
    | with_reducible assumption

/-- The parts State.answerArp touches. -/
def State.answerArp_foot : List Part := State.netSend_foot

theorem State.answerArp_touches {W : List Part} {σ τ υ : State} {port : Nat} {sub : Nat} {e : Ether} (hW : ∀ p ∈ State.answerArp_foot, p ∈ W)
    (ho : State.answerArp τ port sub e = some υ) (hT : Touches W σ τ) : Touches W σ υ := by
  unfold State.answerArp at ho
  try dsimp only at ho
  repeat' split at ho
  all_goals first
    | (cases ho; done)
    | skip
  all_goals (simp only [Option.some.injEq] at ho; subst ho)
  all_goals repeat' first
    | with_reducible apply Touches.ite
    | with_reducible refine State.netSend_touches (fun p hp => hW p (by unfold State.answerArp_foot; repeat first | with_reducible exact hp | with_reducible exact List.mem_append_right _ hp | with_reducible apply List.mem_append_left)) ?_
    | split
    | with_reducible refine forN_touches ?_ (fun x k hx => ?_)
    | with_reducible refine foldl_touches ?_ (fun x a hx => ?_)
    | with_reducible refine foldlSnd_touches ?_ (fun x a hx => ?_)
    | with_reducible assumption

/-- The parts State.answerEcho4 touches. -/
def State.answerEcho4_foot : List Part := State.netSend_foot

theorem State.answerEcho4_touches {W : List Part} {σ τ υ : State} {port : Nat} {sub : Nat} {e : Ether} {p : Packet} (hW : ∀ p ∈ State.answerEcho4_foot, p ∈ W)
    (ho : State.answerEcho4 τ port sub e p = some υ) (hT : Touches W σ τ) : Touches W σ υ := by
  unfold State.answerEcho4 at ho
  try dsimp only at ho
  repeat' split at ho
  all_goals first
    | (cases ho; done)
    | skip
  all_goals (simp only [Option.some.injEq] at ho; subst ho)
  all_goals repeat' first
    | with_reducible apply Touches.ite
    | with_reducible refine State.netSend_touches (fun p hp => hW p (by unfold State.answerEcho4_foot; repeat first | with_reducible exact hp | with_reducible exact List.mem_append_right _ hp | with_reducible apply List.mem_append_left)) ?_
    | split
    | with_reducible refine forN_touches ?_ (fun x k hx => ?_)
    | with_reducible refine foldl_touches ?_ (fun x a hx => ?_)
    | with_reducible refine foldlSnd_touches ?_ (fun x a hx => ?_)
    | with_reducible assumption

/-- The parts State.answerIcmp6 touches. -/
def State.answerIcmp6_foot : List Part := State.netSend_foot

theorem State.answerIcmp6_touches {W : List Part} {σ τ υ : State} {port : Nat} {sub : Nat} {e : Ether} {p : Packet} (hW : ∀ p ∈ State.answerIcmp6_foot, p ∈ W)
    (ho : State.answerIcmp6 τ port sub e p = some υ) (hT : Touches W σ τ) : Touches W σ υ := by
  unfold State.answerIcmp6 at ho
  try dsimp only at ho
  repeat' split at ho
  all_goals first
    | (cases ho; done)
    | skip
  all_goals (simp only [Option.some.injEq] at ho; subst ho)
  all_goals repeat' first
    | with_reducible apply Touches.ite
    | with_reducible refine State.netSend_touches (fun p hp => hW p (by unfold State.answerIcmp6_foot; repeat first | with_reducible exact hp | with_reducible exact List.mem_append_right _ hp | with_reducible apply List.mem_append_left)) ?_
    | split
    | with_reducible refine forN_touches ?_ (fun x k hx => ?_)
    | with_reducible refine foldl_touches ?_ (fun x a hx => ?_)
    | with_reducible refine foldlSnd_touches ?_ (fun x a hx => ?_)
    | with_reducible assumption

/-- The parts State.answerIgmp touches. -/
def State.answerIgmp_foot : List Part := State.igmpReport_foot

theorem State.answerIgmp_touches {W : List Part} {σ τ υ : State} {port : Nat} {p : Packet} (hW : ∀ p ∈ State.answerIgmp_foot, p ∈ W)
    (ho : State.answerIgmp τ port p = some υ) (hT : Touches W σ τ) : Touches W σ υ := by
  unfold State.answerIgmp at ho
  try dsimp only at ho
  repeat' split at ho
  all_goals first
    | (cases ho; done)
    | skip
  all_goals (simp only [Option.some.injEq] at ho; subst ho)
  all_goals repeat' first
    | with_reducible apply Touches.ite
    | with_reducible refine State.igmpReport_touches (fun p hp => hW p (by unfold State.answerIgmp_foot; repeat first | with_reducible exact hp | with_reducible exact List.mem_append_right _ hp | with_reducible apply List.mem_append_left)) ?_
    | split
    | with_reducible refine forN_touches ?_ (fun x k hx => ?_)
    | with_reducible refine foldl_touches ?_ (fun x a hx => ?_)
    | with_reducible refine foldlSnd_touches ?_ (fun x a hx => ?_)
    | with_reducible assumption

/-- The parts State.answerMld touches. -/
def State.answerMld_foot : List Part := State.mldReport_foot

theorem State.answerMld_touches {W : List Part} {σ τ υ : State} {port : Nat} {p : Packet} (hW : ∀ p ∈ State.answerMld_foot, p ∈ W)
    (ho : State.answerMld τ port p = some υ) (hT : Touches W σ τ) : Touches W σ υ := by
  unfold State.answerMld at ho
  try dsimp only at ho
  repeat' split at ho
  all_goals first
    | (cases ho; done)
    | skip
  all_goals (simp only [Option.some.injEq] at ho; subst ho)
  all_goals repeat' first
    | with_reducible apply Touches.ite
    | with_reducible refine State.mldReport_touches (fun p hp => hW p (by unfold State.answerMld_foot; repeat first | with_reducible exact hp | with_reducible exact List.mem_append_right _ hp | with_reducible apply List.mem_append_left)) ?_
    | split
    | with_reducible refine forN_touches ?_ (fun x k hx => ?_)
    | with_reducible refine foldl_touches ?_ (fun x a hx => ?_)
    | with_reducible refine foldlSnd_touches ?_ (fun x a hx => ?_)
    | with_reducible assumption

/-- The parts State.setRx touches. -/
def State.setRx_foot : List Part := [.reg .RQ_LEVEL, .fld .rxq]

theorem State.setRx_touches {W : List Part} {σ τ : State} {q : Nat} {bs : List Byte} (hW : ∀ p ∈ State.setRx_foot, p ∈ W)
    (hT : Touches W σ τ) : Touches W σ (State.setRx τ q bs) := by
  unfold State.setRx
  try dsimp only
  repeat' first
    | with_reducible apply Touches.ite
    | with_reducible refine State.setReg_touches (hW _ (by first | (simp [State.setRx_foot]; done) | (split <;> simp [State.setRx_foot] <;> done) | ((repeat' split) <;> simp [State.setRx_foot])))  ?_
    | split
    | with_reducible refine forN_touches ?_ (fun x k hx => ?_)
    | with_reducible refine foldl_touches ?_ (fun x a hx => ?_)
    | with_reducible refine foldlSnd_touches ?_ (fun x a hx => ?_)
    | with_reducible assumption
    | with_reducible refine touches_mk (fun f => by cases f <;> first | exact .inr (by with_reducible rfl) | exact .inl (hW _ (by simp [State.setRx_foot]))) ?_

/-- The parts State.toQueue touches. -/
def State.toQueue_foot : List Part := [.reg .NET_UNCLAIMED, .reg .RQ_DROPS, .reg .RQ_FRAMES] ++ State.setRx_foot

theorem State.toQueue_touches {W : List Part} {σ τ : State} {port : Nat} {sub : Nat} {time : Nat} {e : Ether} {f : List Byte} (hW : ∀ p ∈ State.toQueue_foot, p ∈ W)
    (hT : Touches W σ τ) : Touches W σ (State.toQueue τ port sub time e f) := by
  unfold State.toQueue
  try dsimp only
  repeat' first
    | with_reducible apply Touches.ite
    | with_reducible refine State.bump_touches (hW _ (by first | (simp [State.toQueue_foot]; done) | (split <;> simp [State.toQueue_foot] <;> done) | ((repeat' split) <;> simp [State.toQueue_foot])))  ?_
    | with_reducible refine State.setRx_touches (fun p hp => hW p (by unfold State.toQueue_foot; repeat first | with_reducible exact hp | with_reducible exact List.mem_append_right _ hp | with_reducible apply List.mem_append_left)) ?_
    | split
    | with_reducible refine forN_touches ?_ (fun x k hx => ?_)
    | with_reducible refine foldl_touches ?_ (fun x a hx => ?_)
    | with_reducible refine foldlSnd_touches ?_ (fun x a hx => ?_)
    | with_reducible assumption

/-- The parts State.answerFrame touches. -/
def State.answerFrame_foot : List Part := State.answerArp_foot ++ State.answerEcho4_foot ++ State.answerIgmp_foot ++ State.answerMld_foot ++ State.answerIcmp6_foot

theorem State.answerFrame_touches {W : List Part} {σ τ υ : State} {port : Nat} {sub : Nat} {e : Ether}
    (hW : ∀ p ∈ State.answerFrame_foot, p ∈ W) (ho : State.answerFrame τ port sub e = some υ) (hT : Touches W σ τ) :
    Touches W σ υ := by
  unfold State.answerFrame at ho
  have hW' : ∀ p, (p ∈ State.answerArp_foot ∨ p ∈ State.answerEcho4_foot ∨ p ∈ State.answerIgmp_foot ∨
      p ∈ State.answerMld_foot ∨ p ∈ State.answerIcmp6_foot) → p ∈ W := fun p h => hW p (by
    simp only [State.answerFrame_foot, List.mem_append]; rcases h with h | h | h | h | h <;> simp [h])
  split at ho
  · exact State.answerArp_touches (fun p h => hW' p (.inl h)) ho hT
  split at ho
  · cases ho
  dsimp only at ho
  split at ho
  · exact State.answerEcho4_touches (fun p h => hW' p (.inr (.inl h))) ho hT
  split at ho
  · exact State.answerIgmp_touches (fun p h => hW' p (.inr (.inr (.inl h)))) ho hT
  split at ho
  · exact State.answerMld_touches (fun p h => hW' p (.inr (.inr (.inr (.inl h))))) ho hT
  split at ho
  · exact State.answerIcmp6_touches (fun p h => hW' p (.inr (.inr (.inr (.inr h))))) ho hT
  · cases ho

/-- The parts State.deliver touches. -/
def State.deliver_foot : List Part := State.answerFrame_foot ++ State.toQueue_foot

theorem State.deliver_touches {W : List Part} {σ τ : State} {port : Nat} {sub : Nat} {time : Nat} {f : List Byte} (hW : ∀ p ∈ State.deliver_foot, p ∈ W)
    (hT : Touches W σ τ) : Touches W σ (State.deliver τ port sub time f) := by
  unfold State.deliver
  try dsimp only
  repeat' first
    | with_reducible apply Touches.ite
    | with_reducible refine State.answerFrame_touches (fun p hp => hW p (by unfold State.deliver_foot; repeat first | with_reducible exact hp | with_reducible exact List.mem_append_right _ hp | with_reducible apply List.mem_append_left)) (by assumption) ?_
    | with_reducible refine getD_touches (fun υ e => State.answerFrame_touches (fun p hp => hW p (by unfold State.deliver_foot; repeat first | with_reducible exact hp | with_reducible exact List.mem_append_right _ hp | with_reducible apply List.mem_append_left)) e ?_) ?_
    | with_reducible refine State.toQueue_touches (fun p hp => hW p (by unfold State.deliver_foot; repeat first | with_reducible exact hp | with_reducible exact List.mem_append_right _ hp | with_reducible apply List.mem_append_left)) ?_
    | split
    | with_reducible refine forN_touches ?_ (fun x k hx => ?_)
    | with_reducible refine foldl_touches ?_ (fun x a hx => ?_)
    | with_reducible refine foldlSnd_touches ?_ (fun x a hx => ?_)
    | with_reducible assumption

/-- The parts State.forward touches. -/
def State.forward_foot : List Part := [.reg .ETH_CUT, .reg .ETH_STOMPED, .reg .ETH_FWD_DROPS, .reg .ETH_STORED, .fld .egress] ++ State.stampFrame_foot ++ State.portStart_foot

theorem State.forward_touches {W : List Part} {σ τ : State} {inp : Nat} {f : List Byte} {bad : Bool} {rx : Nat} {tx : Nat} (hW : ∀ p ∈ State.forward_foot, p ∈ W)
    (hT : Touches W σ τ) : Touches W σ (State.forward τ inp f bad rx tx) := by
  unfold State.forward
  try dsimp only
  repeat' first
    | with_reducible apply Touches.ite
    | with_reducible refine Touches.ofPair (by assumption) (State.stampFrame_touches (fun p hp => hW p (by unfold State.forward_foot; repeat first | with_reducible exact hp | with_reducible exact List.mem_append_right _ hp | with_reducible apply List.mem_append_left)) ?_)
    | with_reducible refine State.stampFrame_touches (fun p hp => hW p (by unfold State.forward_foot; repeat first | with_reducible exact hp | with_reducible exact List.mem_append_right _ hp | with_reducible apply List.mem_append_left)) ?_
    | with_reducible refine cond_touches ?_ (fun x hx => ?_)
    | with_reducible refine State.bump_touches (hW _ (by first | (simp [State.forward_foot]; done) | (split <;> simp [State.forward_foot] <;> done) | ((repeat' split) <;> simp [State.forward_foot])))  ?_
    | with_reducible refine State.portStart_touches (fun p hp => hW p (by unfold State.forward_foot; repeat first | with_reducible exact hp | with_reducible exact List.mem_append_right _ hp | with_reducible apply List.mem_append_left)) ?_
    | split
    | with_reducible refine forN_touches ?_ (fun x k hx => ?_)
    | with_reducible refine foldl_touches ?_ (fun x a hx => ?_)
    | with_reducible refine foldlSnd_touches ?_ (fun x a hx => ?_)
    | with_reducible assumption
    | with_reducible refine touches_mk (fun f => by cases f <;> first | exact .inr (by with_reducible rfl) | exact .inl (hW _ (by simp [State.forward_foot]))) ?_

/-- The parts execEthFrameReceive touches. -/
def execEthFrameReceive_foot : List Part := [.reg .ETH_FEC_UNCORR, .reg .ETH_FEC_CORR, .reg .ETH_RX_FRAMES, .reg .ETH_OVERSIZE, .reg .ETH_FCS_ERR, .fld .macs, .fld .sent] ++ State.forward_foot ++ State.deliver_foot

theorem execEthFrameReceive_touches {W : List Part} {σ τ : State} {port : Fin 2} {sub : Fin 4} {f : List Byte} {bad : Bool} {corr : Nat} {uncorr : Nat} {rx : Nat} {tx : Nat} (hW : ∀ p ∈ execEthFrameReceive_foot, p ∈ W)
    (hT : Touches W σ τ) : OutTouches W σ (execEthFrameReceive port sub f bad corr uncorr rx tx τ) := by
  unfold execEthFrameReceive
  try dsimp only
  repeat' first
    | with_reducible apply OutTouches.ite
    | with_reducible refine OutTouches.next ?_
    | with_reducible apply Touches.ite
    | with_reducible refine State.bumpBy_touches (hW _ (by first | (simp [execEthFrameReceive_foot]; done) | (split <;> simp [execEthFrameReceive_foot] <;> done) | ((repeat' split) <;> simp [execEthFrameReceive_foot])))  ?_
    | with_reducible refine State.bump_touches (hW _ (by first | (simp [execEthFrameReceive_foot]; done) | (split <;> simp [execEthFrameReceive_foot] <;> done) | ((repeat' split) <;> simp [execEthFrameReceive_foot])))  ?_
    | with_reducible refine State.send_touches (hW _ (by simp [execEthFrameReceive_foot])) ?_
    | with_reducible refine cond_touches ?_ (fun x hx => ?_)
    | with_reducible refine State.forward_touches (fun p hp => hW p (by unfold execEthFrameReceive_foot; repeat first | with_reducible exact hp | with_reducible exact List.mem_append_right _ hp | with_reducible apply List.mem_append_left)) ?_
    | with_reducible refine State.deliver_touches (fun p hp => hW p (by unfold execEthFrameReceive_foot; repeat first | with_reducible exact hp | with_reducible exact List.mem_append_right _ hp | with_reducible apply List.mem_append_left)) ?_
    | split
    | with_reducible refine forN_touches ?_ (fun x k hx => ?_)
    | with_reducible refine foldl_touches ?_ (fun x a hx => ?_)
    | with_reducible refine foldlSnd_touches ?_ (fun x a hx => ?_)
    | with_reducible assumption
    | with_reducible refine touches_mk (fun f => by cases f <;> first | exact .inr (by with_reducible rfl) | exact .inl (hW _ (by simp [execEthFrameReceive_foot]))) ?_

/-- The parts execEgressFrameSent touches. -/
def execEgressFrameSent_foot : List Part := [.reg .ETH_TX_FRAMES, .fld .egress, .fld .sent] ++ State.portStart_foot

theorem execEgressFrameSent_touches {W : List Part} {σ τ : State} {port : Fin 2} {tx : Nat} (hW : ∀ p ∈ execEgressFrameSent_foot, p ∈ W)
    (hT : Touches W σ τ) : OutTouches W σ (execEgressFrameSent port tx τ) := by
  unfold execEgressFrameSent
  try dsimp only
  repeat' first
    | with_reducible apply OutTouches.ite
    | with_reducible refine OutTouches.next ?_
    | with_reducible apply Touches.ite
    | with_reducible refine State.portStart_touches (fun p hp => hW p (by unfold execEgressFrameSent_foot; repeat first | with_reducible exact hp | with_reducible exact List.mem_append_right _ hp | with_reducible apply List.mem_append_left)) ?_
    | with_reducible refine State.send_touches (hW _ (by simp [execEgressFrameSent_foot])) ?_
    | with_reducible refine State.bump_touches (hW _ (by first | (simp [execEgressFrameSent_foot]; done) | (split <;> simp [execEgressFrameSent_foot] <;> done) | ((repeat' split) <;> simp [execEgressFrameSent_foot])))  ?_
    | split
    | with_reducible refine forN_touches ?_ (fun x k hx => ?_)
    | with_reducible refine foldl_touches ?_ (fun x a hx => ?_)
    | with_reducible refine foldlSnd_touches ?_ (fun x a hx => ?_)
    | with_reducible assumption
    | with_reducible refine touches_mk (fun f => by cases f <;> first | exact .inr (by with_reducible rfl) | exact .inl (hW _ (by simp [execEgressFrameSent_foot]))) ?_

/-- The parts State.dropLink touches. -/
def State.dropLink_foot : List Part := [.reg .ETH_LINK, .reg .PP_STATE, .fld .egress] ++ State.raise_foot

theorem State.dropLink_touches {W : List Part} {σ τ : State} {port : Nat} {sub : Nat} (hW : ∀ p ∈ State.dropLink_foot, p ∈ W)
    (hT : Touches W σ τ) : Touches W σ (State.dropLink τ port sub) := by
  unfold State.dropLink
  try dsimp only
  repeat' first
    | with_reducible apply Touches.ite
    | with_reducible refine State.setReg_touches (hW _ (by first | (simp [State.dropLink_foot]; done) | (split <;> simp [State.dropLink_foot] <;> done) | ((repeat' split) <;> simp [State.dropLink_foot])))  ?_
    | with_reducible refine State.raise_touches (fun p hp => hW p (by unfold State.dropLink_foot; repeat first | with_reducible exact hp | with_reducible exact List.mem_append_right _ hp | with_reducible apply List.mem_append_left)) ?_
    | with_reducible refine cond_touches ?_ (fun x hx => ?_)
    | split
    | with_reducible refine forN_touches ?_ (fun x k hx => ?_)
    | with_reducible refine foldl_touches ?_ (fun x a hx => ?_)
    | with_reducible refine foldlSnd_touches ?_ (fun x a hx => ?_)
    | with_reducible assumption
    | with_reducible refine touches_mk (fun f => by cases f <;> first | exact .inr (by with_reducible rfl) | exact .inl (hW _ (by simp [State.dropLink_foot]))) ?_

/-- The parts State.dropPort touches. -/
def State.dropPort_foot : List Part := State.dropLink_foot

theorem State.dropPort_touches {W : List Part} {σ τ : State} {port : Nat} (hW : ∀ p ∈ State.dropPort_foot, p ∈ W)
    (hT : Touches W σ τ) : Touches W σ (State.dropPort τ port) := by
  unfold State.dropPort
  try dsimp only
  repeat' first
    | with_reducible apply Touches.ite
    | with_reducible refine State.dropLink_touches (fun p hp => hW p (by unfold State.dropPort_foot; repeat first | with_reducible exact hp | with_reducible exact List.mem_append_right _ hp | with_reducible apply List.mem_append_left)) ?_
    | split
    | with_reducible refine forN_touches ?_ (fun x k hx => ?_)
    | with_reducible refine foldl_touches ?_ (fun x a hx => ?_)
    | with_reducible refine foldlSnd_touches ?_ (fun x a hx => ?_)
    | with_reducible assumption

/-- The parts execEthModeWrite touches. -/
def execEthModeWrite_foot : List Part := [.reg .ETH_MODE, .reg .ETH_FEC, .reg .ETH_AN, .fld .keepPending] ++ writeParam_foot ++ State.dropPort_foot

theorem execEthModeWrite_touches {W : List Part} {σ τ : State} {acc : Accessor} {port : Fin 2} {p : EthParam} {v : BitVec 8} (hW : ∀ p ∈ execEthModeWrite_foot, p ∈ W)
    (hT : Touches W σ τ) : OutTouches W σ (execEthModeWrite acc port p v τ) := by
  unfold execEthModeWrite
  try dsimp only
  repeat' first
    | with_reducible apply OutTouches.ite
    | with_reducible refine OutTouches.next ?_
    | with_reducible apply Touches.ite
    | with_reducible refine writeParam_touches  (fun p hp => hW p (by unfold execEthModeWrite_foot; repeat first | with_reducible exact hp | with_reducible exact List.mem_append_right _ hp | with_reducible apply List.mem_append_left)) ?_ (fun x  hx => ?_)
    | with_reducible refine State.dropPort_touches (fun p hp => hW p (by unfold execEthModeWrite_foot; repeat first | with_reducible exact hp | with_reducible exact List.mem_append_right _ hp | with_reducible apply List.mem_append_left)) ?_
    | with_reducible refine State.putReg_touches (hW _ (by first | (simp [execEthModeWrite_foot]; done) | (split <;> simp [execEthModeWrite_foot] <;> done) | (simp only [ethReg]; (repeat' split) <;> simp [execEthModeWrite_foot]) | ((repeat' split) <;> simp [execEthModeWrite_foot]))) (hW _ (by simp [execEthModeWrite_foot])) ?_
    | split
    | with_reducible refine forN_touches ?_ (fun x k hx => ?_)
    | with_reducible refine foldl_touches ?_ (fun x a hx => ?_)
    | with_reducible refine foldlSnd_touches ?_ (fun x a hx => ?_)
    | with_reducible assumption

/-- The parts execLinkUp touches. -/
def execLinkUp_foot : List Part := [.reg .iETH_FEC, .reg .ETH_LINK, .reg .PP_STATE] ++ State.raise_foot

theorem execLinkUp_touches {W : List Part} {σ τ : State} {port : Fin 2} {sub : Fin 4} {m : Module} (hW : ∀ p ∈ execLinkUp_foot, p ∈ W)
    (hT : Touches W σ τ) : OutTouches W σ (execLinkUp port sub m τ) := by
  unfold execLinkUp
  try dsimp only
  repeat' first
    | with_reducible apply OutTouches.ite
    | with_reducible refine OutTouches.next ?_
    | with_reducible apply Touches.ite
    | with_reducible refine State.setReg_touches (hW _ (by first | (simp [execLinkUp_foot]; done) | (split <;> simp [execLinkUp_foot] <;> done) | ((repeat' split) <;> simp [execLinkUp_foot])))  ?_
    | with_reducible refine cond_touches ?_ (fun x hx => ?_)
    | with_reducible refine State.raise_touches (fun p hp => hW p (by unfold execLinkUp_foot; repeat first | with_reducible exact hp | with_reducible exact List.mem_append_right _ hp | with_reducible apply List.mem_append_left)) ?_
    | split
    | with_reducible refine forN_touches ?_ (fun x k hx => ?_)
    | with_reducible refine foldl_touches ?_ (fun x a hx => ?_)
    | with_reducible refine foldlSnd_touches ?_ (fun x a hx => ?_)
    | with_reducible assumption

/-- The parts execRqParamWrite touches. -/
def execRqParamWrite_foot : List Part := [.reg .RQ_KIND, .reg .RQ_VALUE, .reg .RQ_PORTS, .fld .keepPending] ++ writeParam_foot ++ State.setRx_foot

theorem execRqParamWrite_touches {W : List Part} {σ τ : State} {acc : Accessor} {q : Fin 64} {p : RqParam} {v : Nat} (hW : ∀ p ∈ execRqParamWrite_foot, p ∈ W)
    (hT : Touches W σ τ) : OutTouches W σ (execRqParamWrite acc q p v τ) := by
  unfold execRqParamWrite
  try dsimp only
  repeat' first
    | with_reducible apply OutTouches.ite
    | with_reducible refine OutTouches.next ?_
    | with_reducible apply Touches.ite
    | with_reducible refine writeParam_touches  (fun p hp => hW p (by unfold execRqParamWrite_foot; repeat first | with_reducible exact hp | with_reducible exact List.mem_append_right _ hp | with_reducible apply List.mem_append_left)) ?_ (fun x  hx => ?_)
    | with_reducible refine State.setRx_touches (fun p hp => hW p (by unfold execRqParamWrite_foot; repeat first | with_reducible exact hp | with_reducible exact List.mem_append_right _ hp | with_reducible apply List.mem_append_left)) ?_
    | with_reducible refine State.putReg_touches (hW _ (by first | (simp [execRqParamWrite_foot]; done) | (split <;> simp [execRqParamWrite_foot] <;> done) | ((repeat' split) <;> simp [execRqParamWrite_foot]))) (hW _ (by simp [execRqParamWrite_foot])) ?_
    | split
    | with_reducible refine forN_touches ?_ (fun x k hx => ?_)
    | with_reducible refine foldl_touches ?_ (fun x a hx => ?_)
    | with_reducible refine foldlSnd_touches ?_ (fun x a hx => ?_)
    | with_reducible assumption

end Sys2Proof.Machine
end

