-- ==== Sys2Proof/Laws/TouchesEye.lean ====
section
/-! SUPPORT. What the functions of Machine/Eye.lean touch. -/
namespace Sys2Proof.Machine
set_option linter.all false

/-- The parts State.passEdge touches. -/
def State.passEdge_foot : List Part := [.reg .iEYE_LAST, .reg .iEYE_K, .reg .iEYE_FRAME, .fld .eyeEdges]

theorem State.passEdge_touches {W : List Part} {σ τ : State} {e : Nat} (hW : ∀ p ∈ State.passEdge_foot, p ∈ W)
    (hT : Touches W σ τ) : Touches W σ (State.passEdge τ e) := by
  unfold State.passEdge
  try dsimp only
  repeat' first
    | with_reducible apply Touches.ite
    | with_reducible refine State.setReg_touches (hW _ (by first | (simp [State.passEdge_foot]; done) | (split <;> simp [State.passEdge_foot] <;> done) | ((repeat' split) <;> simp [State.passEdge_foot])))  ?_
    | split
    | with_reducible refine forN_touches ?_ (fun x k hx => ?_)
    | with_reducible refine foldl_touches ?_ (fun x a hx => ?_)
    | with_reducible refine foldlSnd_touches ?_ (fun x a hx => ?_)
    | with_reducible assumption
    | with_reducible refine touches_mk (fun f => by cases f <;> first | exact .inr (by with_reducible rfl) | exact .inl (hW _ (by simp [State.passEdge_foot]))) ?_

/-- The parts State.eyeDone touches. -/
def State.eyeDone_foot : List Part := [.reg .EYE_STATE]

theorem State.eyeDone_touches {W : List Part} {σ τ : State} {e : Nat} (hW : ∀ p ∈ State.eyeDone_foot, p ∈ W)
    (hT : Touches W σ τ) : Touches W σ (State.eyeDone τ e) := by
  unfold State.eyeDone
  try dsimp only
  repeat' first
    | with_reducible apply Touches.ite
    | with_reducible refine State.setReg_touches (hW _ (by first | (simp [State.eyeDone_foot]; done) | (split <;> simp [State.eyeDone_foot] <;> done) | ((repeat' split) <;> simp [State.eyeDone_foot])))  ?_
    | split
    | with_reducible refine forN_touches ?_ (fun x k hx => ?_)
    | with_reducible refine foldl_touches ?_ (fun x a hx => ?_)
    | with_reducible refine foldlSnd_touches ?_ (fun x a hx => ?_)
    | with_reducible assumption

/-- The parts State.fireEdge touches. -/
def State.fireEdge_foot : List Part := [.reg .EYE_EDGES, .reg .iEYE_END, .reg .iEYE_ON] ++ State.laceEvent_foot ++ State.passEdge_foot

theorem State.fireEdge_touches {W : List Part} {σ τ : State} {e : Nat} (hW : ∀ p ∈ State.fireEdge_foot, p ∈ W)
    (hT : Touches W σ τ) : Touches W σ (State.fireEdge τ e) := by
  unfold State.fireEdge
  try dsimp only
  repeat' first
    | with_reducible apply Touches.ite
    | with_reducible refine State.laceEvent_touches (fun p hp => hW p (by unfold State.fireEdge_foot; repeat first | with_reducible exact hp | with_reducible exact List.mem_append_right _ hp | with_reducible apply List.mem_append_left)) ?_
    | with_reducible refine State.passEdge_touches (fun p hp => hW p (by unfold State.fireEdge_foot; repeat first | with_reducible exact hp | with_reducible exact List.mem_append_right _ hp | with_reducible apply List.mem_append_left)) ?_
    | with_reducible refine State.bump_touches (hW _ (by first | (simp [State.fireEdge_foot]; done) | (split <;> simp [State.fireEdge_foot] <;> done) | ((repeat' split) <;> simp [State.fireEdge_foot])))  ?_
    | with_reducible refine State.setReg_touches (hW _ (by first | (simp [State.fireEdge_foot]; done) | (split <;> simp [State.fireEdge_foot] <;> done) | ((repeat' split) <;> simp [State.fireEdge_foot])))  ?_
    | split
    | with_reducible refine forN_touches ?_ (fun x k hx => ?_)
    | with_reducible refine foldl_touches ?_ (fun x a hx => ?_)
    | with_reducible refine foldlSnd_touches ?_ (fun x a hx => ?_)
    | with_reducible assumption

/-- The parts execEyeAssertEdge touches. -/
def execEyeAssertEdge_foot : List Part := State.fireEdge_foot

theorem execEyeAssertEdge_touches {W : List Part} {σ τ : State} {e : Fin 8} (hW : ∀ p ∈ execEyeAssertEdge_foot, p ∈ W)
    (hT : Touches W σ τ) : OutTouches W σ (execEyeAssertEdge e τ) := by
  unfold execEyeAssertEdge
  try dsimp only
  repeat' first
    | with_reducible apply OutTouches.ite
    | with_reducible refine OutTouches.next ?_
    | with_reducible apply Touches.ite
    | with_reducible refine State.fireEdge_touches (fun p hp => hW p (by unfold execEyeAssertEdge_foot; repeat first | with_reducible exact hp | with_reducible exact List.mem_append_right _ hp | with_reducible apply List.mem_append_left)) ?_
    | split
    | with_reducible refine forN_touches ?_ (fun x k hx => ?_)
    | with_reducible refine foldl_touches ?_ (fun x a hx => ?_)
    | with_reducible refine foldlSnd_touches ?_ (fun x a hx => ?_)
    | with_reducible assumption

/-- The parts execEyePulseEnd touches. -/
def execEyePulseEnd_foot : List Part := [.reg .iEYE_ON] ++ State.eyeDone_foot

theorem execEyePulseEnd_touches {W : List Part} {σ τ : State} {e : Fin 8} (hW : ∀ p ∈ execEyePulseEnd_foot, p ∈ W)
    (hT : Touches W σ τ) : OutTouches W σ (execEyePulseEnd e τ) := by
  unfold execEyePulseEnd
  try dsimp only
  repeat' first
    | with_reducible apply OutTouches.ite
    | with_reducible refine OutTouches.next ?_
    | with_reducible apply Touches.ite
    | with_reducible refine State.eyeDone_touches (fun p hp => hW p (by unfold execEyePulseEnd_foot; repeat first | with_reducible exact hp | with_reducible exact List.mem_append_right _ hp | with_reducible apply List.mem_append_left)) ?_
    | with_reducible refine State.setReg_touches (hW _ (by first | (simp [execEyePulseEnd_foot]; done) | (split <;> simp [execEyePulseEnd_foot] <;> done) | ((repeat' split) <;> simp [execEyePulseEnd_foot])))  ?_
    | split
    | with_reducible refine forN_touches ?_ (fun x k hx => ?_)
    | with_reducible refine foldl_touches ?_ (fun x a hx => ?_)
    | with_reducible refine foldlSnd_touches ?_ (fun x a hx => ?_)
    | with_reducible assumption

/-- The parts State.lateEdge touches. -/
def State.lateEdge_foot : List Part := [.reg .EYE_LATE_COUNT] ++ State.raise_foot ++ State.fireEdge_foot ++ State.eyeDone_foot ++ State.passEdge_foot

theorem State.lateEdge_touches {W : List Part} {σ τ : State} {e : Nat} {t : Int} (hW : ∀ p ∈ State.lateEdge_foot, p ∈ W)
    (hT : Touches W σ τ) : Touches W σ (State.lateEdge τ e t) := by
  unfold State.lateEdge
  try dsimp only
  repeat' first
    | with_reducible apply Touches.ite
    | with_reducible refine State.raise_touches (fun p hp => hW p (by unfold State.lateEdge_foot; repeat first | with_reducible exact hp | with_reducible exact List.mem_append_right _ hp | with_reducible apply List.mem_append_left)) ?_
    | with_reducible refine State.bump_touches (hW _ (by first | (simp [State.lateEdge_foot]; done) | (split <;> simp [State.lateEdge_foot] <;> done) | ((repeat' split) <;> simp [State.lateEdge_foot])))  ?_
    | with_reducible refine State.fireEdge_touches (fun p hp => hW p (by unfold State.lateEdge_foot; repeat first | with_reducible exact hp | with_reducible exact List.mem_append_right _ hp | with_reducible apply List.mem_append_left)) ?_
    | with_reducible refine State.eyeDone_touches (fun p hp => hW p (by unfold State.lateEdge_foot; repeat first | with_reducible exact hp | with_reducible exact List.mem_append_right _ hp | with_reducible apply List.mem_append_left)) ?_
    | with_reducible refine State.passEdge_touches (fun p hp => hW p (by unfold State.lateEdge_foot; repeat first | with_reducible exact hp | with_reducible exact List.mem_append_right _ hp | with_reducible apply List.mem_append_left)) ?_
    | split
    | with_reducible refine forN_touches ?_ (fun x k hx => ?_)
    | with_reducible refine foldl_touches ?_ (fun x a hx => ?_)
    | with_reducible refine foldlSnd_touches ?_ (fun x a hx => ?_)
    | with_reducible assumption

/-- The parts State.jumpEdges touches. -/
def State.jumpEdges_foot : List Part := State.lateEdge_foot

theorem State.jumpEdges_touches {W : List Part} {σ τ : State} {e old n : Nat}
    (hW : ∀ p ∈ State.jumpEdges_foot, p ∈ W) (hT : Touches W σ τ) : Touches W σ (State.jumpEdges τ e old n) := by
  induction n generalizing τ with
  | zero => exact hT
  | succ n ih =>
    unfold State.jumpEdges
    split
    · exact hT
    · split
      · exact hT
      · split
        · exact ih (State.lateEdge_touches hW hT)
        · exact hT

/-- The parts State.stepTime touches. -/
def State.stepTime_foot : List Part := [.reg .TB_STEPS, .reg .iCAP_STEPPED, .time] ++ State.raise_foot ++ State.jumpEdges_foot

theorem State.stepTime_touches {W : List Part} {σ τ : State} {d : Int} (hW : ∀ p ∈ State.stepTime_foot, p ∈ W)
    (hT : Touches W σ τ) : Touches W σ (State.stepTime τ d) := by
  unfold State.stepTime
  try dsimp only
  repeat' first
    | with_reducible apply Touches.ite
    | with_reducible refine State.bump_touches (hW _ (by first | (simp [State.stepTime_foot]; done) | (split <;> simp [State.stepTime_foot] <;> done) | ((repeat' split) <;> simp [State.stepTime_foot])))  ?_
    | with_reducible refine State.setReg_touches (hW _ (by first | (simp [State.stepTime_foot]; done) | (split <;> simp [State.stepTime_foot] <;> done) | ((repeat' split) <;> simp [State.stepTime_foot])))  ?_
    | with_reducible refine State.raise_touches (fun p hp => hW p (by unfold State.stepTime_foot; repeat first | with_reducible exact hp | with_reducible exact List.mem_append_right _ hp | with_reducible apply List.mem_append_left)) ?_
    | with_reducible refine State.jumpEdges_touches (fun p hp => hW p (by unfold State.stepTime_foot; repeat first | with_reducible exact hp | with_reducible exact List.mem_append_right _ hp | with_reducible apply List.mem_append_left)) ?_
    | split
    | with_reducible refine forN_touches ?_ (fun x k hx => ?_)
    | with_reducible refine foldl_touches ?_ (fun x a hx => ?_)
    | with_reducible refine foldlSnd_touches ?_ (fun x a hx => ?_)
    | with_reducible assumption
    | with_reducible refine touches_mk_time (hW _ (by first | (simp [State.stepTime_foot]; done) | (split <;> simp [State.stepTime_foot] <;> done) | ((repeat' split) <;> simp [State.stepTime_foot]))) (fun f => by cases f <;> first | exact .inr (by with_reducible rfl) | exact .inl (hW _ (by simp [State.stepTime_foot]))) ?_
    | with_reducible refine touches_mk (fun f => by cases f <;> first | exact .inr (by with_reducible rfl) | exact .inl (hW _ (by simp [State.stepTime_foot]))) ?_

/-- The parts State.armFrame touches. -/
def State.armFrame_foot : List Part := [.fld .eyeEdges] ++ State.passMissed_foot

theorem State.armFrame_touches {W : List Part} {σ τ : State} {e : Nat} (hW : ∀ p ∈ State.armFrame_foot, p ∈ W)
    (hT : Touches W σ τ) : Touches W σ (State.armFrame τ e) := by
  unfold State.armFrame
  try dsimp only
  repeat' first
    | with_reducible apply Touches.ite
    | with_reducible refine State.passMissed_touches (fun p hp => hW p (by unfold State.armFrame_foot; repeat first | with_reducible exact hp | with_reducible exact List.mem_append_right _ hp | with_reducible apply List.mem_append_left)) ?_
    | split
    | with_reducible refine forN_touches ?_ (fun x k hx => ?_)
    | with_reducible refine foldl_touches ?_ (fun x a hx => ?_)
    | with_reducible refine foldlSnd_touches ?_ (fun x a hx => ?_)
    | with_reducible assumption
    | with_reducible refine touches_mk (fun f => by cases f <;> first | exact .inr (by with_reducible rfl) | exact .inl (hW _ (by simp [State.armFrame_foot]))) ?_

/-- The parts State.armEye touches. -/
def State.armEye_foot : List Part := [.reg .iEYE_FRAME, .reg .iEYE_LAST, .reg .iEYE_K, .reg .EYE_STATE, .fld .eyeEdges] ++ State.eyeDone_foot ++ State.armFrame_foot

theorem State.armEye_touches {W : List Part} {σ τ : State} {e : Nat} (hW : ∀ p ∈ State.armEye_foot, p ∈ W)
    (hT : Touches W σ τ) : Touches W σ (State.armEye τ e) := by
  unfold State.armEye
  try dsimp only
  repeat' first
    | with_reducible apply Touches.ite
    | with_reducible refine State.setReg_touches (hW _ (by first | (simp [State.armEye_foot]; done) | (split <;> simp [State.armEye_foot] <;> done) | ((repeat' split) <;> simp [State.armEye_foot])))  ?_
    | with_reducible refine State.eyeDone_touches (fun p hp => hW p (by unfold State.armEye_foot; repeat first | with_reducible exact hp | with_reducible exact List.mem_append_right _ hp | with_reducible apply List.mem_append_left)) ?_
    | with_reducible refine cond_touches ?_ (fun x hx => ?_)
    | with_reducible refine State.armFrame_touches (fun p hp => hW p (by unfold State.armEye_foot; repeat first | with_reducible exact hp | with_reducible exact List.mem_append_right _ hp | with_reducible apply List.mem_append_left)) ?_
    | split
    | with_reducible refine forN_touches ?_ (fun x k hx => ?_)
    | with_reducible refine foldl_touches ?_ (fun x a hx => ?_)
    | with_reducible refine foldlSnd_touches ?_ (fun x a hx => ?_)
    | with_reducible assumption
    | with_reducible refine touches_mk (fun f => by cases f <;> first | exact .inr (by with_reducible rfl) | exact .inl (hW _ (by simp [State.armEye_foot]))) ?_

/-- The parts execEyeCtrlArm touches. -/
def execEyeCtrlArm_foot : List Part := [.fld .status] ++ writeParam_foot ++ State.armEye_foot

theorem execEyeCtrlArm_touches {W : List Part} {σ τ : State} {acc : Accessor} {e : Fin 8} (hW : ∀ p ∈ execEyeCtrlArm_foot, p ∈ W)
    (hT : Touches W σ τ) : OutTouches W σ (execEyeCtrlArm acc e τ) := by
  unfold execEyeCtrlArm
  try dsimp only
  repeat' first
    | with_reducible apply OutTouches.ite
    | with_reducible refine OutTouches.next ?_
    | with_reducible apply Touches.ite
    | with_reducible refine writeParam_touches  (fun p hp => hW p (by unfold execEyeCtrlArm_foot; repeat first | with_reducible exact hp | with_reducible exact List.mem_append_right _ hp | with_reducible apply List.mem_append_left)) ?_ (fun x  hx => ?_)
    | with_reducible refine State.refuse_touches (hW _ (by simp [execEyeCtrlArm_foot])) ?_
    | with_reducible refine State.armEye_touches (fun p hp => hW p (by unfold execEyeCtrlArm_foot; repeat first | with_reducible exact hp | with_reducible exact List.mem_append_right _ hp | with_reducible apply List.mem_append_left)) ?_
    | split
    | with_reducible refine forN_touches ?_ (fun x k hx => ?_)
    | with_reducible refine foldl_touches ?_ (fun x a hx => ?_)
    | with_reducible refine foldlSnd_touches ?_ (fun x a hx => ?_)
    | with_reducible assumption

/-- The parts execEyeCtrlDisarm touches. -/
def execEyeCtrlDisarm_foot : List Part := [.reg .iEYE_LAST, .reg .EYE_STATE, .reg .iEYE_ON, .fld .eyeEdges] ++ writeParam_foot

theorem execEyeCtrlDisarm_touches {W : List Part} {σ τ : State} {acc : Accessor} {e : Fin 8} (hW : ∀ p ∈ execEyeCtrlDisarm_foot, p ∈ W)
    (hT : Touches W σ τ) : OutTouches W σ (execEyeCtrlDisarm acc e τ) := by
  unfold execEyeCtrlDisarm
  try dsimp only
  repeat' first
    | with_reducible apply OutTouches.ite
    | with_reducible refine OutTouches.next ?_
    | with_reducible apply Touches.ite
    | with_reducible refine writeParam_touches  (fun p hp => hW p (by unfold execEyeCtrlDisarm_foot; repeat first | with_reducible exact hp | with_reducible exact List.mem_append_right _ hp | with_reducible apply List.mem_append_left)) ?_ (fun x  hx => ?_)
    | with_reducible refine State.setReg_touches (hW _ (by first | (simp [execEyeCtrlDisarm_foot]; done) | (split <;> simp [execEyeCtrlDisarm_foot] <;> done) | ((repeat' split) <;> simp [execEyeCtrlDisarm_foot])))  ?_
    | split
    | with_reducible refine forN_touches ?_ (fun x k hx => ?_)
    | with_reducible refine foldl_touches ?_ (fun x a hx => ?_)
    | with_reducible refine foldlSnd_touches ?_ (fun x a hx => ?_)
    | with_reducible assumption
    | with_reducible refine touches_mk (fun f => by cases f <;> first | exact .inr (by with_reducible rfl) | exact .inl (hW _ (by simp [execEyeCtrlDisarm_foot]))) ?_

/-- The parts execEyeParamWrite touches. -/
def execEyeParamWrite_foot : List Part := [.reg .EYE_MODE, .reg .EYE_START, .reg .EYE_PERIOD, .reg .EYE_WIDTH, .reg .EYE_COUNT, .reg .EYE_GEN, .reg .EYE_EVERY, .reg .EYE_OFFSET, .fld .status, .fld .keepPending] ++ writeParam_foot

theorem execEyeParamWrite_touches {W : List Part} {σ τ : State} {acc : Accessor} {e : Fin 8} {p : EyeParam} {v : Nat} (hW : ∀ p ∈ execEyeParamWrite_foot, p ∈ W)
    (hT : Touches W σ τ) : OutTouches W σ (execEyeParamWrite acc e p v τ) := by
  unfold execEyeParamWrite
  try dsimp only
  repeat' first
    | with_reducible apply OutTouches.ite
    | with_reducible refine OutTouches.next ?_
    | with_reducible apply Touches.ite
    | with_reducible refine writeParam_touches  (fun p hp => hW p (by unfold execEyeParamWrite_foot; repeat first | with_reducible exact hp | with_reducible exact List.mem_append_right _ hp | with_reducible apply List.mem_append_left)) ?_ (fun x  hx => ?_)
    | with_reducible refine State.refuse_touches (hW _ (by simp [execEyeParamWrite_foot])) ?_
    | with_reducible refine State.putReg_touches (hW _ (by first | (simp [execEyeParamWrite_foot]; done) | (split <;> simp [execEyeParamWrite_foot] <;> done) | (simp only [eyeReg]; (repeat' split) <;> simp [execEyeParamWrite_foot]) | ((repeat' split) <;> simp [execEyeParamWrite_foot]))) (hW _ (by simp [execEyeParamWrite_foot])) ?_
    | split
    | with_reducible refine forN_touches ?_ (fun x k hx => ?_)
    | with_reducible refine foldl_touches ?_ (fun x a hx => ?_)
    | with_reducible refine foldlSnd_touches ?_ (fun x a hx => ?_)
    | with_reducible assumption

/-- The parts execCaptureEdge touches. -/
def execCaptureEdge_foot : List Part := [.reg .CAP_IGNORED, .reg .iCAP_AT, .reg .CAP_COUNT, .reg .CAP_OVERFLOW, .reg .iCAP_FULL, .reg .iCAP_STEPPED, .fld .caps] ++ State.raise_foot

theorem execCaptureEdge_touches {W : List Part} {σ τ : State} {e : Fin 8} {fall : Bool} {held : Nat} {stamp : Nat} (hW : ∀ p ∈ execCaptureEdge_foot, p ∈ W)
    (hT : Touches W σ τ) : OutTouches W σ (execCaptureEdge e fall held stamp τ) := by
  unfold execCaptureEdge
  try dsimp only
  repeat' first
    | with_reducible apply OutTouches.ite
    | with_reducible refine OutTouches.next ?_
    | with_reducible apply Touches.ite
    | with_reducible refine State.bump_touches (hW _ (by first | (simp [execCaptureEdge_foot]; done) | (split <;> simp [execCaptureEdge_foot] <;> done) | ((repeat' split) <;> simp [execCaptureEdge_foot])))  ?_
    | with_reducible refine State.setReg_touches (hW _ (by first | (simp [execCaptureEdge_foot]; done) | (split <;> simp [execCaptureEdge_foot] <;> done) | ((repeat' split) <;> simp [execCaptureEdge_foot])))  ?_
    | with_reducible refine State.raise_touches (fun p hp => hW p (by unfold execCaptureEdge_foot; repeat first | with_reducible exact hp | with_reducible exact List.mem_append_right _ hp | with_reducible apply List.mem_append_left)) ?_
    | split
    | with_reducible refine forN_touches ?_ (fun x k hx => ?_)
    | with_reducible refine foldl_touches ?_ (fun x a hx => ?_)
    | with_reducible refine foldlSnd_touches ?_ (fun x a hx => ?_)
    | with_reducible assumption
    | with_reducible refine touches_mk (fun f => by cases f <;> first | exact .inr (by with_reducible rfl) | exact .inl (hW _ (by simp [execCaptureEdge_foot]))) ?_

end Sys2Proof.Machine
end

