-- ==== Sys2Proof/Laws/TouchesTime.lean ====
section
/-! SUPPORT. What the functions of Machine/Time.lean touch. -/
namespace Sys2Proof.Machine
set_option linter.all false

/-- The parts State.setRate touches. -/
def State.setRate_foot : List Part := [.reg .TB_RATE, .fld .rates]

theorem State.setRate_touches {W : List Part} {σ τ : State} {r : Int} (hW : ∀ p ∈ State.setRate_foot, p ∈ W)
    (hT : Touches W σ τ) : Touches W σ (State.setRate τ r) := by
  unfold State.setRate
  try dsimp only
  repeat' first
    | with_reducible apply Touches.ite
    | with_reducible refine State.setRegInt_touches (hW _ (by first | (simp [State.setRate_foot]; done) | (split <;> simp [State.setRate_foot] <;> done) | ((repeat' split) <;> simp [State.setRate_foot])))  ?_
    | split
    | with_reducible refine forN_touches ?_ (fun x k hx => ?_)
    | with_reducible refine foldl_touches ?_ (fun x a hx => ?_)
    | with_reducible refine foldlSnd_touches ?_ (fun x a hx => ?_)
    | with_reducible assumption
    | with_reducible refine touches_mk (fun f => by cases f <;> first | exact .inr (by with_reducible rfl) | exact .inl (hW _ (by simp [State.setRate_foot]))) ?_

/-- The parts State.slew touches. -/
def State.slew_foot : List Part := [.fld .draws] ++ State.setRate_foot

theorem State.slew_touches {W : List Part} {σ τ : State}  (hW : ∀ p ∈ State.slew_foot, p ∈ W)
    (hT : Touches W σ τ) : Touches W σ (State.slew τ) := by
  unfold State.slew
  try dsimp only
  repeat' first
    | with_reducible apply Touches.ite
    | with_reducible refine State.draw_touches (hW _ (by simp [State.slew_foot])) ?_
    | with_reducible refine Touches.ofPair (by assumption) (State.draw_touches (hW _ (by simp [State.slew_foot])) ?_)
    | with_reducible refine State.setRate_touches (fun p hp => hW p (by unfold State.slew_foot; repeat first | with_reducible exact hp | with_reducible exact List.mem_append_right _ hp | with_reducible apply List.mem_append_left)) ?_
    | split
    | with_reducible refine forN_touches ?_ (fun x k hx => ?_)
    | with_reducible refine foldl_touches ?_ (fun x a hx => ?_)
    | with_reducible refine foldlSnd_touches ?_ (fun x a hx => ?_)
    | with_reducible assumption

/-- The parts State.showServo touches. -/
def State.showServo_foot : List Part := [.reg .PTP_STATE, .reg .TB_SOURCE, .reg .iSERVO]

theorem State.showServo_touches {W : List Part} {σ τ : State}  (hW : ∀ p ∈ State.showServo_foot, p ∈ W)
    (hT : Touches W σ τ) : Touches W σ (State.showServo τ) := by
  unfold State.showServo
  try dsimp only
  repeat' first
    | with_reducible apply Touches.ite
    | with_reducible refine State.setReg_touches (hW _ (by first | (simp [State.showServo_foot]; done) | (split <;> simp [State.showServo_foot] <;> done) | ((repeat' split) <;> simp [State.showServo_foot])))  ?_
    | split
    | with_reducible refine forN_touches ?_ (fun x k hx => ?_)
    | with_reducible refine foldl_touches ?_ (fun x a hx => ?_)
    | with_reducible refine foldlSnd_touches ?_ (fun x a hx => ?_)
    | with_reducible assumption

/-- The parts State.autoResync touches. -/
def State.autoResync_foot : List Part := [.reg .iRESYNC_DONE, .reg .iG_RESYNC]

theorem State.autoResync_touches {W : List Part} {σ τ : State}  (hW : ∀ p ∈ State.autoResync_foot, p ∈ W)
    (hT : Touches W σ τ) : Touches W σ (State.autoResync τ) := by
  unfold State.autoResync
  try dsimp only
  repeat' first
    | with_reducible apply Touches.ite
    | with_reducible refine State.setReg_touches (hW _ (by first | (simp [State.autoResync_foot]; done) | (split <;> simp [State.autoResync_foot] <;> done) | ((repeat' split) <;> simp [State.autoResync_foot])))  ?_
    | split
    | with_reducible refine forN_touches ?_ (fun x k hx => ?_)
    | with_reducible refine foldl_touches ?_ (fun x a hx => ?_)
    | with_reducible refine foldlSnd_touches ?_ (fun x a hx => ?_)
    | with_reducible assumption

/-- The parts State.discLocked touches. -/
def State.discLocked_foot : List Part := [.reg .iSYNC_STATE, .reg .iSYNC_RUN, .reg .iSERVO, .reg .iPTP_RUN, .fld .rates] ++ State.raise_foot ++ State.showServo_foot ++ State.autoResync_foot

theorem State.discLocked_touches {W : List Part} {σ τ : State} {sync : Bool} (hW : ∀ p ∈ State.discLocked_foot, p ∈ W)
    (hT : Touches W σ τ) : Touches W σ (State.discLocked τ sync) := by
  unfold State.discLocked
  try dsimp only
  repeat' first
    | with_reducible apply Touches.ite
    | with_reducible refine State.setReg_touches (hW _ (by first | (simp [State.discLocked_foot]; done) | (split <;> simp [State.discLocked_foot] <;> done) | (simp only [discRegs]; (repeat' split) <;> simp [State.discLocked_foot]) | ((repeat' split) <;> simp [State.discLocked_foot])))  ?_
    | with_reducible refine State.raise_touches (fun p hp => hW p (by unfold State.discLocked_foot; repeat first | with_reducible exact hp | with_reducible exact List.mem_append_right _ hp | with_reducible apply List.mem_append_left)) ?_
    | with_reducible refine State.showServo_touches (fun p hp => hW p (by unfold State.discLocked_foot; repeat first | with_reducible exact hp | with_reducible exact List.mem_append_right _ hp | with_reducible apply List.mem_append_left)) ?_
    | with_reducible refine cond_touches ?_ (fun x hx => ?_)
    | with_reducible refine State.autoResync_touches (fun p hp => hW p (by unfold State.discLocked_foot; repeat first | with_reducible exact hp | with_reducible exact List.mem_append_right _ hp | with_reducible apply List.mem_append_left)) ?_
    | split
    | with_reducible refine forN_touches ?_ (fun x k hx => ?_)
    | with_reducible refine foldl_touches ?_ (fun x a hx => ?_)
    | with_reducible refine foldlSnd_touches ?_ (fun x a hx => ?_)
    | with_reducible assumption
    | with_reducible refine touches_mk (fun f => by cases f <;> first | exact .inr (by with_reducible rfl) | exact .inl (hW _ (by simp [State.discLocked_foot]))) ?_

/-- The parts State.discHoldover touches. -/
def State.discHoldover_foot : List Part := [.reg .TB_RATE, .reg .iSYNC_STATE, .reg .iSYNC_RUN, .reg .iSERVO, .reg .iPTP_RUN] ++ State.raise_foot ++ State.showServo_foot

theorem State.discHoldover_touches {W : List Part} {σ τ : State} {sync : Bool} (hW : ∀ p ∈ State.discHoldover_foot, p ∈ W)
    (hT : Touches W σ τ) : Touches W σ (State.discHoldover τ sync) := by
  unfold State.discHoldover
  try dsimp only
  repeat' first
    | with_reducible apply Touches.ite
    | with_reducible refine State.setRegInt_touches (hW _ (by first | (simp [State.discHoldover_foot]; done) | (split <;> simp [State.discHoldover_foot] <;> done) | (simp only [discRegs]; (repeat' split) <;> simp [State.discHoldover_foot]) | ((repeat' split) <;> simp [State.discHoldover_foot])))  ?_
    | with_reducible refine State.setReg_touches (hW _ (by first | (simp [State.discHoldover_foot]; done) | (split <;> simp [State.discHoldover_foot] <;> done) | (simp only [discRegs]; (repeat' split) <;> simp [State.discHoldover_foot]) | ((repeat' split) <;> simp [State.discHoldover_foot])))  ?_
    | with_reducible refine State.raise_touches (fun p hp => hW p (by unfold State.discHoldover_foot; repeat first | with_reducible exact hp | with_reducible exact List.mem_append_right _ hp | with_reducible apply List.mem_append_left)) ?_
    | with_reducible refine State.showServo_touches (fun p hp => hW p (by unfold State.discHoldover_foot; repeat first | with_reducible exact hp | with_reducible exact List.mem_append_right _ hp | with_reducible apply List.mem_append_left)) ?_
    | split
    | with_reducible refine forN_touches ?_ (fun x k hx => ?_)
    | with_reducible refine foldl_touches ?_ (fun x a hx => ?_)
    | with_reducible refine foldlSnd_touches ?_ (fun x a hx => ?_)
    | with_reducible assumption

/-- The parts State.discAcquire touches. -/
def State.discAcquire_foot : List Part := [.reg .iPTP_FIRST, .reg .iSYNC_STATE, .reg .iSYNC_RUN, .reg .iSERVO, .reg .iPTP_RUN] ++ State.showServo_foot

theorem State.discAcquire_touches {W : List Part} {σ τ : State} {sync : Bool} (hW : ∀ p ∈ State.discAcquire_foot, p ∈ W)
    (hT : Touches W σ τ) : Touches W σ (State.discAcquire τ sync) := by
  unfold State.discAcquire
  try dsimp only
  repeat' first
    | with_reducible apply Touches.ite
    | with_reducible refine State.setReg_touches (hW _ (by first | (simp [State.discAcquire_foot]; done) | (split <;> simp [State.discAcquire_foot] <;> done) | (simp only [discRegs]; (repeat' split) <;> simp [State.discAcquire_foot]) | ((repeat' split) <;> simp [State.discAcquire_foot])))  ?_
    | with_reducible refine State.showServo_touches (fun p hp => hW p (by unfold State.discAcquire_foot; repeat first | with_reducible exact hp | with_reducible exact List.mem_append_right _ hp | with_reducible apply List.mem_append_left)) ?_
    | split
    | with_reducible refine forN_touches ?_ (fun x k hx => ?_)
    | with_reducible refine foldl_touches ?_ (fun x a hx => ?_)
    | with_reducible refine foldlSnd_touches ?_ (fun x a hx => ?_)
    | with_reducible assumption

/-- The parts State.discOffset touches. -/
def State.discOffset_foot : List Part := [.reg .iPTP_FIRST, .reg .iSYNC_STATE, .reg .iSYNC_RUN, .reg .iSERVO, .reg .iPTP_RUN] ++ State.stepTime_foot ++ State.slew_foot ++ State.discLocked_foot ++ State.showServo_foot

theorem State.discOffset_touches {W : List Part} {σ τ : State} {sync : Bool} {offset : Int} (hW : ∀ p ∈ State.discOffset_foot, p ∈ W)
    (hT : Touches W σ τ) : Touches W σ (State.discOffset τ sync offset) := by
  unfold State.discOffset
  try dsimp only
  repeat' first
    | with_reducible apply Touches.ite
    | with_reducible refine cond_touches ?_ (fun x hx => ?_)
    | with_reducible refine State.setReg_touches (hW _ (by first | (simp [State.discOffset_foot]; done) | (split <;> simp [State.discOffset_foot] <;> done) | (simp only [discRegs]; (repeat' split) <;> simp [State.discOffset_foot]) | ((repeat' split) <;> simp [State.discOffset_foot])))  ?_
    | with_reducible refine State.stepTime_touches (fun p hp => hW p (by unfold State.discOffset_foot; repeat first | with_reducible exact hp | with_reducible exact List.mem_append_right _ hp | with_reducible apply List.mem_append_left)) ?_
    | with_reducible refine State.slew_touches (fun p hp => hW p (by unfold State.discOffset_foot; repeat first | with_reducible exact hp | with_reducible exact List.mem_append_right _ hp | with_reducible apply List.mem_append_left)) ?_
    | with_reducible refine State.discLocked_touches (fun p hp => hW p (by unfold State.discOffset_foot; repeat first | with_reducible exact hp | with_reducible exact List.mem_append_right _ hp | with_reducible apply List.mem_append_left)) ?_
    | with_reducible refine State.bump_touches (hW _ (by first | (simp [State.discOffset_foot]; done) | (split <;> simp [State.discOffset_foot] <;> done) | (simp only [discRegs]; (repeat' split) <;> simp [State.discOffset_foot]) | ((repeat' split) <;> simp [State.discOffset_foot])))  ?_
    | with_reducible refine State.showServo_touches (fun p hp => hW p (by unfold State.discOffset_foot; repeat first | with_reducible exact hp | with_reducible exact List.mem_append_right _ hp | with_reducible apply List.mem_append_left)) ?_
    | split
    | with_reducible refine forN_touches ?_ (fun x k hx => ?_)
    | with_reducible refine foldl_touches ?_ (fun x a hx => ?_)
    | with_reducible refine foldlSnd_touches ?_ (fun x a hx => ?_)
    | with_reducible assumption

/-- The parts State.showPort touches. -/
def State.showPort_foot : List Part := [.reg .PP_STATE, .reg .PTP_SLAVE_PORT]

theorem State.showPort_touches {W : List Part} {σ τ : State} {p : Nat} (hW : ∀ p ∈ State.showPort_foot, p ∈ W)
    (hT : Touches W σ τ) : Touches W σ (State.showPort τ p) := by
  unfold State.showPort
  try dsimp only
  repeat' first
    | with_reducible apply Touches.ite
    | with_reducible refine State.setReg_touches (hW _ (by first | (simp [State.showPort_foot]; done) | (split <;> simp [State.showPort_foot] <;> done) | ((repeat' split) <;> simp [State.showPort_foot])))  ?_
    | split
    | with_reducible refine forN_touches ?_ (fun x k hx => ?_)
    | with_reducible refine foldl_touches ?_ (fun x a hx => ?_)
    | with_reducible refine foldlSnd_touches ?_ (fun x a hx => ?_)
    | with_reducible assumption

/-- The parts State.selectMaster touches. -/
def State.selectMaster_foot : List Part := [.reg .PTP_UTC_OFFSET, .reg .PTP_GM_ID, .reg .iPTP_SOURCE, .reg .PTP_SLAVE_PORT, .reg .iPTP_RUN, .reg .iPTP_FIRST] ++ State.showPort_foot ++ State.discAcquire_foot

theorem State.selectMaster_touches {W : List Part} {σ τ : State}  (hW : ∀ p ∈ State.selectMaster_foot, p ∈ W)
    (hT : Touches W σ τ) : Touches W σ (State.selectMaster τ) := by
  unfold State.selectMaster
  try dsimp only
  repeat' first
    | with_reducible apply Touches.ite
    | with_reducible refine State.showPort_touches (fun p hp => hW p (by unfold State.selectMaster_foot; repeat first | with_reducible exact hp | with_reducible exact List.mem_append_right _ hp | with_reducible apply List.mem_append_left)) ?_
    | with_reducible refine State.setReg_touches (hW _ (by first | (simp [State.selectMaster_foot]; done) | (split <;> simp [State.selectMaster_foot] <;> done) | ((repeat' split) <;> simp [State.selectMaster_foot])))  ?_
    | with_reducible refine State.discAcquire_touches (fun p hp => hW p (by unfold State.selectMaster_foot; repeat first | with_reducible exact hp | with_reducible exact List.mem_append_right _ hp | with_reducible apply List.mem_append_left)) ?_
    | split
    | with_reducible refine forN_touches ?_ (fun x k hx => ?_)
    | with_reducible refine foldl_touches ?_ (fun x a hx => ?_)
    | with_reducible refine foldlSnd_touches ?_ (fun x a hx => ?_)
    | with_reducible assumption

/-- The parts execPtpAnnounce touches. -/
def execPtpAnnounce_foot : List Part := [.fld .foreign] ++ State.selectMaster_foot

theorem execPtpAnnounce_touches {W : List Part} {σ τ : State} {port : Fin 2} {a : Announce} (hW : ∀ p ∈ execPtpAnnounce_foot, p ∈ W)
    (hT : Touches W σ τ) : OutTouches W σ (execPtpAnnounce port a τ) := by
  unfold execPtpAnnounce
  try dsimp only
  repeat' first
    | with_reducible apply OutTouches.ite
    | with_reducible refine OutTouches.next ?_
    | with_reducible apply Touches.ite
    | with_reducible refine State.selectMaster_touches (fun p hp => hW p (by unfold execPtpAnnounce_foot; repeat first | with_reducible exact hp | with_reducible exact List.mem_append_right _ hp | with_reducible apply List.mem_append_left)) ?_
    | split
    | with_reducible refine forN_touches ?_ (fun x k hx => ?_)
    | with_reducible refine foldl_touches ?_ (fun x a hx => ?_)
    | with_reducible refine foldlSnd_touches ?_ (fun x a hx => ?_)
    | with_reducible assumption
    | with_reducible refine touches_mk (fun f => by cases f <;> first | exact .inr (by with_reducible rfl) | exact .inl (hW _ (by simp [execPtpAnnounce_foot]))) ?_

/-- The parts State.masterLost touches. -/
def State.masterLost_foot : List Part := [.reg .iPTP_SOURCE, .reg .PTP_SLAVE_PORT] ++ State.showPort_foot ++ State.discHoldover_foot

theorem State.masterLost_touches {W : List Part} {σ τ : State}  (hW : ∀ p ∈ State.masterLost_foot, p ∈ W)
    (hT : Touches W σ τ) : Touches W σ (State.masterLost τ) := by
  unfold State.masterLost
  try dsimp only
  repeat' first
    | with_reducible apply Touches.ite
    | with_reducible refine State.setReg_touches (hW _ (by first | (simp [State.masterLost_foot]; done) | (split <;> simp [State.masterLost_foot] <;> done) | ((repeat' split) <;> simp [State.masterLost_foot])))  ?_
    | with_reducible refine State.showPort_touches (fun p hp => hW p (by unfold State.masterLost_foot; repeat first | with_reducible exact hp | with_reducible exact List.mem_append_right _ hp | with_reducible apply List.mem_append_left)) ?_
    | with_reducible refine State.discHoldover_touches (fun p hp => hW p (by unfold State.masterLost_foot; repeat first | with_reducible exact hp | with_reducible exact List.mem_append_right _ hp | with_reducible apply List.mem_append_left)) ?_
    | split
    | with_reducible refine forN_touches ?_ (fun x k hx => ?_)
    | with_reducible refine foldl_touches ?_ (fun x a hx => ?_)
    | with_reducible refine foldlSnd_touches ?_ (fun x a hx => ?_)
    | with_reducible assumption

/-- The parts State.forgetMasters touches. -/
def State.forgetMasters_foot : List Part := [.fld .foreign] ++ State.masterLost_foot

theorem State.forgetMasters_touches {W : List Part} {σ τ : State}  (hW : ∀ p ∈ State.forgetMasters_foot, p ∈ W)
    (hT : Touches W σ τ) : Touches W σ (State.forgetMasters τ) := by
  unfold State.forgetMasters
  try dsimp only
  repeat' first
    | with_reducible apply Touches.ite
    | with_reducible refine State.masterLost_touches (fun p hp => hW p (by unfold State.forgetMasters_foot; repeat first | with_reducible exact hp | with_reducible exact List.mem_append_right _ hp | with_reducible apply List.mem_append_left)) ?_
    | split
    | with_reducible refine forN_touches ?_ (fun x k hx => ?_)
    | with_reducible refine foldl_touches ?_ (fun x a hx => ?_)
    | with_reducible refine foldlSnd_touches ?_ (fun x a hx => ?_)
    | with_reducible assumption
    | with_reducible refine touches_mk (fun f => by cases f <;> first | exact .inr (by with_reducible rfl) | exact .inl (hW _ (by simp [State.forgetMasters_foot]))) ?_

/-- The parts execPtpAnnounceTimeout touches. -/
def execPtpAnnounceTimeout_foot : List Part := [.fld .foreign] ++ State.selectMaster_foot ++ State.masterLost_foot

theorem execPtpAnnounceTimeout_touches {W : List Part} {σ τ : State} {port : Fin 2} (hW : ∀ p ∈ execPtpAnnounceTimeout_foot, p ∈ W)
    (hT : Touches W σ τ) : OutTouches W σ (execPtpAnnounceTimeout port τ) := by
  unfold execPtpAnnounceTimeout
  try dsimp only
  repeat' first
    | with_reducible apply OutTouches.ite
    | with_reducible refine OutTouches.next ?_
    | with_reducible apply Touches.ite
    | with_reducible refine State.selectMaster_touches (fun p hp => hW p (by unfold execPtpAnnounceTimeout_foot; repeat first | with_reducible exact hp | with_reducible exact List.mem_append_right _ hp | with_reducible apply List.mem_append_left)) ?_
    | with_reducible refine State.masterLost_touches (fun p hp => hW p (by unfold execPtpAnnounceTimeout_foot; repeat first | with_reducible exact hp | with_reducible exact List.mem_append_right _ hp | with_reducible apply List.mem_append_left)) ?_
    | split
    | with_reducible refine forN_touches ?_ (fun x k hx => ?_)
    | with_reducible refine foldl_touches ?_ (fun x a hx => ?_)
    | with_reducible refine foldlSnd_touches ?_ (fun x a hx => ?_)
    | with_reducible assumption
    | with_reducible refine touches_mk (fun f => by cases f <;> first | exact .inr (by with_reducible rfl) | exact .inl (hW _ (by simp [execPtpAnnounceTimeout_foot]))) ?_

/-- The parts execLinkDown touches. -/
def execLinkDown_foot : List Part := State.dropLink_foot ++ State.selectMaster_foot

theorem execLinkDown_touches {W : List Part} {σ τ : State} {port : Fin 2} {sub : Fin 4} (hW : ∀ p ∈ execLinkDown_foot, p ∈ W)
    (hT : Touches W σ τ) : OutTouches W σ (execLinkDown port sub τ) := by
  unfold execLinkDown
  try dsimp only
  repeat' first
    | with_reducible apply OutTouches.ite
    | with_reducible refine OutTouches.next ?_
    | with_reducible apply Touches.ite
    | with_reducible refine cond_touches ?_ (fun x hx => ?_)
    | with_reducible refine State.dropLink_touches (fun p hp => hW p (by unfold execLinkDown_foot; repeat first | with_reducible exact hp | with_reducible exact List.mem_append_right _ hp | with_reducible apply List.mem_append_left)) ?_
    | with_reducible refine State.selectMaster_touches (fun p hp => hW p (by unfold execLinkDown_foot; repeat first | with_reducible exact hp | with_reducible exact List.mem_append_right _ hp | with_reducible apply List.mem_append_left)) ?_
    | split
    | with_reducible refine forN_touches ?_ (fun x k hx => ?_)
    | with_reducible refine foldl_touches ?_ (fun x a hx => ?_)
    | with_reducible refine foldlSnd_touches ?_ (fun x a hx => ?_)
    | with_reducible assumption

/-- The parts execPtpSync touches. -/
def execPtpSync_foot : List Part := [.reg .iPTP_DIFF, .reg .PTP_OFFSET] ++ State.discAcquire_foot ++ State.discOffset_foot

theorem execPtpSync_touches {W : List Part} {σ τ : State} {port : Fin 2} {h : PtpHead} {source : BitVec 80} {log : BitVec 8} {t1 : Nat} {corr : Int} {t2 : Nat} (hW : ∀ p ∈ execPtpSync_foot, p ∈ W)
    (hT : Touches W σ τ) : OutTouches W σ (execPtpSync port h source log t1 corr t2 τ) := by
  unfold execPtpSync
  try dsimp only
  repeat' first
    | with_reducible apply OutTouches.ite
    | with_reducible refine OutTouches.next ?_
    | with_reducible apply Touches.ite
    | with_reducible refine State.setRegInt_touches (hW _ (by first | (simp [execPtpSync_foot]; done) | (split <;> simp [execPtpSync_foot] <;> done) | ((repeat' split) <;> simp [execPtpSync_foot])))  ?_
    | with_reducible refine State.discAcquire_touches (fun p hp => hW p (by unfold execPtpSync_foot; repeat first | with_reducible exact hp | with_reducible exact List.mem_append_right _ hp | with_reducible apply List.mem_append_left)) ?_
    | with_reducible refine State.discOffset_touches (fun p hp => hW p (by unfold execPtpSync_foot; repeat first | with_reducible exact hp | with_reducible exact List.mem_append_right _ hp | with_reducible apply List.mem_append_left)) ?_
    | split
    | with_reducible refine forN_touches ?_ (fun x k hx => ?_)
    | with_reducible refine foldl_touches ?_ (fun x a hx => ?_)
    | with_reducible refine foldlSnd_touches ?_ (fun x a hx => ?_)
    | with_reducible assumption

/-- The parts State.ptpSend touches. -/
def State.ptpSend_foot : List Part := [.fld .sent] ++ State.sendOwn_foot

theorem State.ptpSend_touches {W : List Part} {σ τ : State} {p : Nat} {kind : Nat} {seq : Nat} {len : Nat} {fields : List Int} (hW : ∀ p ∈ State.ptpSend_foot, p ∈ W)
    (hT : Touches W σ τ) : Touches W σ (State.ptpSend τ p kind seq len fields) := by
  unfold State.ptpSend
  try dsimp only
  repeat' first
    | with_reducible apply Touches.ite
    | with_reducible refine State.sendOwn_touches (fun p hp => hW p (by unfold State.ptpSend_foot; repeat first | with_reducible exact hp | with_reducible exact List.mem_append_right _ hp | with_reducible apply List.mem_append_left)) ?_
    | with_reducible refine State.sendMore_touches (hW _ (by simp [State.ptpSend_foot])) ?_
    | split
    | with_reducible refine forN_touches ?_ (fun x k hx => ?_)
    | with_reducible refine foldl_touches ?_ (fun x a hx => ?_)
    | with_reducible refine foldlSnd_touches ?_ (fun x a hx => ?_)
    | with_reducible assumption

/-- The parts State.ptpSendBoth touches. -/
def State.ptpSendBoth_foot : List Part := [.fld .sent] ++ State.ptpSend_foot

theorem State.ptpSendBoth_touches {W : List Part} {σ τ : State} {kind : Nat} {seq : Nat} {len : Nat} (hW : ∀ p ∈ State.ptpSendBoth_foot, p ∈ W)
    (hT : Touches W σ τ) : Touches W σ (State.ptpSendBoth τ kind seq len) := by
  unfold State.ptpSendBoth
  try dsimp only
  repeat' first
    | with_reducible apply Touches.ite
    | with_reducible refine State.send_touches (hW _ (by simp [State.ptpSendBoth_foot])) ?_
    | with_reducible refine cond_touches ?_ (fun x hx => ?_)
    | with_reducible refine State.ptpSend_touches (fun p hp => hW p (by unfold State.ptpSendBoth_foot; repeat first | with_reducible exact hp | with_reducible exact List.mem_append_right _ hp | with_reducible apply List.mem_append_left)) ?_
    | split
    | with_reducible refine forN_touches ?_ (fun x k hx => ?_)
    | with_reducible refine foldl_touches ?_ (fun x a hx => ?_)
    | with_reducible refine foldlSnd_touches ?_ (fun x a hx => ?_)
    | with_reducible assumption

/-- The parts execPtpDelayReqSend touches. -/
def execPtpDelayReqSend_foot : List Part := [.reg .iPTP_SENT, .reg .iPTP_WAIT, .reg .iPTP_T3, .reg .iPTP_SEQ] ++ State.ptpSendBoth_foot

theorem execPtpDelayReqSend_touches {W : List Part} {σ τ : State} {t3 : Nat} (hW : ∀ p ∈ execPtpDelayReqSend_foot, p ∈ W)
    (hT : Touches W σ τ) : OutTouches W σ (execPtpDelayReqSend t3 τ) := by
  unfold execPtpDelayReqSend
  try dsimp only
  repeat' first
    | with_reducible apply OutTouches.ite
    | with_reducible refine OutTouches.next ?_
    | with_reducible apply Touches.ite
    | with_reducible refine State.setReg_touches (hW _ (by first | (simp [execPtpDelayReqSend_foot]; done) | (split <;> simp [execPtpDelayReqSend_foot] <;> done) | ((repeat' split) <;> simp [execPtpDelayReqSend_foot])))  ?_
    | with_reducible refine State.ptpSendBoth_touches (fun p hp => hW p (by unfold execPtpDelayReqSend_foot; repeat first | with_reducible exact hp | with_reducible exact List.mem_append_right _ hp | with_reducible apply List.mem_append_left)) ?_
    | split
    | with_reducible refine forN_touches ?_ (fun x k hx => ?_)
    | with_reducible refine foldl_touches ?_ (fun x a hx => ?_)
    | with_reducible refine foldlSnd_touches ?_ (fun x a hx => ?_)
    | with_reducible assumption

/-- The parts execPtpDelayResp touches. -/
def execPtpDelayResp_foot : List Part := [.reg .iPTP_EVERY, .reg .PTP_MEAN_DELAY, .reg .iPTP_WAIT]

theorem execPtpDelayResp_touches {W : List Part} {σ τ : State} {port : Fin 2} {h : PtpHead} {seq : BitVec 16} {t4 : Nat} {corr : Int} {every : BitVec 8} (hW : ∀ p ∈ execPtpDelayResp_foot, p ∈ W)
    (hT : Touches W σ τ) : OutTouches W σ (execPtpDelayResp port h seq t4 corr every τ) := by
  unfold execPtpDelayResp
  try dsimp only
  repeat' first
    | with_reducible apply OutTouches.ite
    | with_reducible refine OutTouches.next ?_
    | with_reducible apply Touches.ite
    | with_reducible refine State.setReg_touches (hW _ (by first | (simp [execPtpDelayResp_foot]; done) | (split <;> simp [execPtpDelayResp_foot] <;> done) | ((repeat' split) <;> simp [execPtpDelayResp_foot])))  ?_
    | with_reducible refine State.setRegInt_touches (hW _ (by first | (simp [execPtpDelayResp_foot]; done) | (split <;> simp [execPtpDelayResp_foot] <;> done) | ((repeat' split) <;> simp [execPtpDelayResp_foot])))  ?_
    | split
    | with_reducible refine forN_touches ?_ (fun x k hx => ?_)
    | with_reducible refine foldl_touches ?_ (fun x a hx => ?_)
    | with_reducible refine foldlSnd_touches ?_ (fun x a hx => ?_)
    | with_reducible assumption

/-- The parts execPdelayReqSend touches. -/
def execPdelayReqSend_foot : List Part := [.reg .iPP_SENT, .reg .iPP_T1, .reg .iPP_SEQ, .fld .sent] ++ State.ptpSend_foot

theorem execPdelayReqSend_touches {W : List Part} {σ τ : State} {port : Fin 2} {t1 : Nat} (hW : ∀ p ∈ execPdelayReqSend_foot, p ∈ W)
    (hT : Touches W σ τ) : OutTouches W σ (execPdelayReqSend port t1 τ) := by
  unfold execPdelayReqSend
  try dsimp only
  repeat' first
    | with_reducible apply OutTouches.ite
    | with_reducible refine OutTouches.next ?_
    | with_reducible apply Touches.ite
    | with_reducible refine State.setReg_touches (hW _ (by first | (simp [execPdelayReqSend_foot]; done) | (split <;> simp [execPdelayReqSend_foot] <;> done) | ((repeat' split) <;> simp [execPdelayReqSend_foot])))  ?_
    | with_reducible refine State.ptpSend_touches (fun p hp => hW p (by unfold execPdelayReqSend_foot; repeat first | with_reducible exact hp | with_reducible exact List.mem_append_right _ hp | with_reducible apply List.mem_append_left)) ?_
    | with_reducible refine State.send_touches (hW _ (by simp [execPdelayReqSend_foot])) ?_
    | split
    | with_reducible refine forN_touches ?_ (fun x k hx => ?_)
    | with_reducible refine foldl_touches ?_ (fun x a hx => ?_)
    | with_reducible refine foldlSnd_touches ?_ (fun x a hx => ?_)
    | with_reducible assumption

/-- The parts execPdelayReq touches. -/
def execPdelayReq_foot : List Part := [.fld .sent] ++ State.ptpSend_foot

theorem execPdelayReq_touches {W : List Part} {σ τ : State} {port : Fin 2} {h : PtpHead} {seq : BitVec 16} {corr : Int} {t2 : Nat} {t3 : Nat} (hW : ∀ p ∈ execPdelayReq_foot, p ∈ W)
    (hT : Touches W σ τ) : OutTouches W σ (execPdelayReq port h seq corr t2 t3 τ) := by
  unfold execPdelayReq
  try dsimp only
  repeat' first
    | with_reducible apply OutTouches.ite
    | with_reducible refine OutTouches.next ?_
    | with_reducible apply Touches.ite
    | with_reducible refine State.ptpSend_touches (fun p hp => hW p (by unfold execPdelayReq_foot; repeat first | with_reducible exact hp | with_reducible exact List.mem_append_right _ hp | with_reducible apply List.mem_append_left)) ?_
    | with_reducible refine State.send_touches (hW _ (by simp [execPdelayReq_foot])) ?_
    | split
    | with_reducible refine forN_touches ?_ (fun x k hx => ?_)
    | with_reducible refine foldl_touches ?_ (fun x a hx => ?_)
    | with_reducible refine foldlSnd_touches ?_ (fun x a hx => ?_)
    | with_reducible assumption

/-- The parts execPdelayResp touches. -/
def execPdelayResp_foot : List Part := [.reg .PP_PEER_DELAY]

theorem execPdelayResp_touches {W : List Part} {σ τ : State} {port : Fin 2} {h : PtpHead} {seq : BitVec 16} {corr : Int} {t4 : Nat} (hW : ∀ p ∈ execPdelayResp_foot, p ∈ W)
    (hT : Touches W σ τ) : OutTouches W σ (execPdelayResp port h seq corr t4 τ) := by
  unfold execPdelayResp
  try dsimp only
  repeat' first
    | with_reducible apply OutTouches.ite
    | with_reducible refine OutTouches.next ?_
    | with_reducible apply Touches.ite
    | with_reducible refine State.setRegInt_touches (hW _ (by first | (simp [execPdelayResp_foot]; done) | (split <;> simp [execPdelayResp_foot] <;> done) | ((repeat' split) <;> simp [execPdelayResp_foot])))  ?_
    | split
    | with_reducible refine forN_touches ?_ (fun x k hx => ?_)
    | with_reducible refine foldl_touches ?_ (fun x a hx => ?_)
    | with_reducible refine foldlSnd_touches ?_ (fun x a hx => ?_)
    | with_reducible assumption

/-- The parts execPtpManagement touches. -/
def execPtpManagement_foot : List Part := [.reg .PTP_SMPTE]

theorem execPtpManagement_touches {W : List Part} {σ τ : State} {h : PtpHead} {gm : BitVec 64} {tlv : List Byte} (hW : ∀ p ∈ execPtpManagement_foot, p ∈ W)
    (hT : Touches W σ τ) : OutTouches W σ (execPtpManagement h gm tlv τ) := by
  unfold execPtpManagement
  try dsimp only
  repeat' first
    | with_reducible apply OutTouches.ite
    | with_reducible refine OutTouches.next ?_
    | with_reducible apply Touches.ite
    | with_reducible refine State.setReg_touches (hW _ (by first | (simp [execPtpManagement_foot]; done) | (split <;> simp [execPtpManagement_foot] <;> done) | ((repeat' split) <;> simp [execPtpManagement_foot])))  ?_
    | split
    | with_reducible refine forN_touches ?_ (fun x k hx => ?_)
    | with_reducible refine foldl_touches ?_ (fun x a hx => ?_)
    | with_reducible refine foldlSnd_touches ?_ (fun x a hx => ?_)
    | with_reducible assumption

/-- The parts execTbSourceWrite touches. -/
def execTbSourceWrite_foot : List Part := [.reg .TB_SOURCE, .reg .iSYNC_RUN, .reg .iSYNC_STATE, .reg .iSYNC_FIRST, .fld .keepPending] ++ writeParam_foot ++ State.showServo_foot

theorem execTbSourceWrite_touches {W : List Part} {σ τ : State} {acc : Accessor} {v : BitVec 8} (hW : ∀ p ∈ execTbSourceWrite_foot, p ∈ W)
    (hT : Touches W σ τ) : OutTouches W σ (execTbSourceWrite acc v τ) := by
  unfold execTbSourceWrite
  try dsimp only
  repeat' first
    | with_reducible apply OutTouches.ite
    | with_reducible refine OutTouches.next ?_
    | with_reducible apply Touches.ite
    | with_reducible refine writeParam_touches  (fun p hp => hW p (by unfold execTbSourceWrite_foot; repeat first | with_reducible exact hp | with_reducible exact List.mem_append_right _ hp | with_reducible apply List.mem_append_left)) ?_ (fun x  hx => ?_)
    | with_reducible refine State.showServo_touches (fun p hp => hW p (by unfold execTbSourceWrite_foot; repeat first | with_reducible exact hp | with_reducible exact List.mem_append_right _ hp | with_reducible apply List.mem_append_left)) ?_
    | with_reducible refine State.putReg_touches (hW _ (by first | (simp [execTbSourceWrite_foot]; done) | (split <;> simp [execTbSourceWrite_foot] <;> done) | ((repeat' split) <;> simp [execTbSourceWrite_foot]))) (hW _ (by simp [execTbSourceWrite_foot])) ?_
    | with_reducible refine cond_touches ?_ (fun x hx => ?_)
    | with_reducible refine State.setReg_touches (hW _ (by first | (simp [execTbSourceWrite_foot]; done) | (split <;> simp [execTbSourceWrite_foot] <;> done) | ((repeat' split) <;> simp [execTbSourceWrite_foot])))  ?_
    | split
    | with_reducible refine forN_touches ?_ (fun x k hx => ?_)
    | with_reducible refine foldl_touches ?_ (fun x a hx => ?_)
    | with_reducible refine foldlSnd_touches ?_ (fun x a hx => ?_)
    | with_reducible assumption

/-- The parts execTbSet touches. -/
def execTbSet_foot : List Part := [.fld .status] ++ writeParam_foot ++ State.stepTime_foot

theorem execTbSet_touches {W : List Part} {σ τ : State} {acc : Accessor} {time : BitVec 64} (hW : ∀ p ∈ execTbSet_foot, p ∈ W)
    (hT : Touches W σ τ) : OutTouches W σ (execTbSet acc time τ) := by
  unfold execTbSet
  try dsimp only
  repeat' first
    | with_reducible apply OutTouches.ite
    | with_reducible refine OutTouches.next ?_
    | with_reducible apply Touches.ite
    | with_reducible refine writeParam_touches  (fun p hp => hW p (by unfold execTbSet_foot; repeat first | with_reducible exact hp | with_reducible exact List.mem_append_right _ hp | with_reducible apply List.mem_append_left)) ?_ (fun x  hx => ?_)
    | with_reducible refine State.stepTime_touches (fun p hp => hW p (by unfold execTbSet_foot; repeat first | with_reducible exact hp | with_reducible exact List.mem_append_right _ hp | with_reducible apply List.mem_append_left)) ?_
    | with_reducible refine State.refuse_touches (hW _ (by simp [execTbSet_foot])) ?_
    | split
    | with_reducible refine forN_touches ?_ (fun x k hx => ?_)
    | with_reducible refine foldl_touches ?_ (fun x a hx => ?_)
    | with_reducible refine foldlSnd_touches ?_ (fun x a hx => ?_)
    | with_reducible assumption

/-- The parts execTbAdj touches. -/
def execTbAdj_foot : List Part := [.fld .status] ++ writeParam_foot ++ State.setRate_foot

theorem execTbAdj_touches {W : List Part} {σ τ : State} {acc : Accessor} {rate : BitVec 32} (hW : ∀ p ∈ execTbAdj_foot, p ∈ W)
    (hT : Touches W σ τ) : OutTouches W σ (execTbAdj acc rate τ) := by
  unfold execTbAdj
  try dsimp only
  repeat' first
    | with_reducible apply OutTouches.ite
    | with_reducible refine OutTouches.next ?_
    | with_reducible apply Touches.ite
    | with_reducible refine writeParam_touches  (fun p hp => hW p (by unfold execTbAdj_foot; repeat first | with_reducible exact hp | with_reducible exact List.mem_append_right _ hp | with_reducible apply List.mem_append_left)) ?_ (fun x  hx => ?_)
    | with_reducible refine State.setRate_touches (fun p hp => hW p (by unfold execTbAdj_foot; repeat first | with_reducible exact hp | with_reducible exact List.mem_append_right _ hp | with_reducible apply List.mem_append_left)) ?_
    | with_reducible refine State.refuse_touches (hW _ (by simp [execTbAdj_foot])) ?_
    | split
    | with_reducible refine forN_touches ?_ (fun x k hx => ?_)
    | with_reducible refine foldl_touches ?_ (fun x a hx => ?_)
    | with_reducible refine foldlSnd_touches ?_ (fun x a hx => ?_)
    | with_reducible assumption

/-- The parts State.alignDividers touches. -/
def State.alignDividers_foot : List Part := [.reg .CK_SYNC_COUNT, .reg .CK_SYNC_SKIPPED, .reg .CK_SYNC_ARM]

theorem State.alignDividers_touches {W : List Part} {σ τ : State}  (hW : ∀ p ∈ State.alignDividers_foot, p ∈ W)
    (hT : Touches W σ τ) : Touches W σ (State.alignDividers τ) := by
  unfold State.alignDividers
  try dsimp only
  repeat' first
    | with_reducible apply Touches.ite
    | with_reducible refine State.bump_touches (hW _ (by first | (simp [State.alignDividers_foot]; done) | (split <;> simp [State.alignDividers_foot] <;> done) | ((repeat' split) <;> simp [State.alignDividers_foot])))  ?_
    | with_reducible refine State.setReg_touches (hW _ (by first | (simp [State.alignDividers_foot]; done) | (split <;> simp [State.alignDividers_foot] <;> done) | ((repeat' split) <;> simp [State.alignDividers_foot])))  ?_
    | split
    | with_reducible refine forN_touches ?_ (fun x k hx => ?_)
    | with_reducible refine foldl_touches ?_ (fun x a hx => ?_)
    | with_reducible refine foldlSnd_touches ?_ (fun x a hx => ?_)
    | with_reducible assumption

/-- The parts State.syncSecond touches. -/
def State.syncSecond_foot : List Part := [.reg .iSYNC_AT, .reg .TB_SYNC_LOAD, .reg .iSYNC_FIRST, .reg .TB_SYNC_REJECT] ++ State.discAcquire_foot ++ State.stepTime_foot ++ State.discOffset_foot

theorem State.syncSecond_touches {W : List Part} {σ τ : State} {stamp : Nat} (hW : ∀ p ∈ State.syncSecond_foot, p ∈ W)
    (hT : Touches W σ τ) : Touches W σ (State.syncSecond τ stamp) := by
  unfold State.syncSecond
  try dsimp only
  repeat' first
    | with_reducible apply Touches.ite
    | with_reducible refine State.setReg_touches (hW _ (by first | (simp [State.syncSecond_foot]; done) | (split <;> simp [State.syncSecond_foot] <;> done) | ((repeat' split) <;> simp [State.syncSecond_foot])))  ?_
    | with_reducible refine State.discAcquire_touches (fun p hp => hW p (by unfold State.syncSecond_foot; repeat first | with_reducible exact hp | with_reducible exact List.mem_append_right _ hp | with_reducible apply List.mem_append_left)) ?_
    | with_reducible refine State.stepTime_touches (fun p hp => hW p (by unfold State.syncSecond_foot; repeat first | with_reducible exact hp | with_reducible exact List.mem_append_right _ hp | with_reducible apply List.mem_append_left)) ?_
    | with_reducible refine State.bump_touches (hW _ (by first | (simp [State.syncSecond_foot]; done) | (split <;> simp [State.syncSecond_foot] <;> done) | ((repeat' split) <;> simp [State.syncSecond_foot])))  ?_
    | with_reducible refine State.discOffset_touches (fun p hp => hW p (by unfold State.syncSecond_foot; repeat first | with_reducible exact hp | with_reducible exact List.mem_append_right _ hp | with_reducible apply List.mem_append_left)) ?_
    | split
    | with_reducible refine forN_touches ?_ (fun x k hx => ?_)
    | with_reducible refine foldl_touches ?_ (fun x a hx => ?_)
    | with_reducible refine foldlSnd_touches ?_ (fun x a hx => ?_)
    | with_reducible assumption

/-- The parts execSyncInEdge touches. -/
def execSyncInEdge_foot : List Part := [.reg .TB_SYNC_TIME] ++ State.alignDividers_foot ++ State.syncSecond_foot

theorem execSyncInEdge_touches {W : List Part} {σ τ : State} {stamp : Nat} (hW : ∀ p ∈ execSyncInEdge_foot, p ∈ W)
    (hT : Touches W σ τ) : OutTouches W σ (execSyncInEdge stamp τ) := by
  unfold execSyncInEdge
  try dsimp only
  repeat' first
    | with_reducible apply OutTouches.ite
    | with_reducible refine OutTouches.next ?_
    | with_reducible apply Touches.ite
    | with_reducible refine State.alignDividers_touches (fun p hp => hW p (by unfold execSyncInEdge_foot; repeat first | with_reducible exact hp | with_reducible exact List.mem_append_right _ hp | with_reducible apply List.mem_append_left)) ?_
    | with_reducible refine State.setReg_touches (hW _ (by first | (simp [execSyncInEdge_foot]; done) | (split <;> simp [execSyncInEdge_foot] <;> done) | ((repeat' split) <;> simp [execSyncInEdge_foot])))  ?_
    | with_reducible refine cond_touches ?_ (fun x hx => ?_)
    | with_reducible refine State.syncSecond_touches (fun p hp => hW p (by unfold execSyncInEdge_foot; repeat first | with_reducible exact hp | with_reducible exact List.mem_append_right _ hp | with_reducible apply List.mem_append_left)) ?_
    | split
    | with_reducible refine forN_touches ?_ (fun x k hx => ?_)
    | with_reducible refine foldl_touches ?_ (fun x a hx => ?_)
    | with_reducible refine foldlSnd_touches ?_ (fun x a hx => ?_)
    | with_reducible assumption

/-- The parts execSyncInHoldover touches. -/
def execSyncInHoldover_foot : List Part := State.discHoldover_foot

theorem execSyncInHoldover_touches {W : List Part} {σ τ : State}  (hW : ∀ p ∈ execSyncInHoldover_foot, p ∈ W)
    (hT : Touches W σ τ) : OutTouches W σ (execSyncInHoldover τ) := by
  unfold execSyncInHoldover
  try dsimp only
  repeat' first
    | with_reducible apply OutTouches.ite
    | with_reducible refine OutTouches.next ?_
    | with_reducible apply Touches.ite
    | with_reducible refine State.discHoldover_touches (fun p hp => hW p (by unfold execSyncInHoldover_foot; repeat first | with_reducible exact hp | with_reducible exact List.mem_append_right _ hp | with_reducible apply List.mem_append_left)) ?_
    | split
    | with_reducible refine forN_touches ?_ (fun x k hx => ?_)
    | with_reducible refine foldl_touches ?_ (fun x a hx => ?_)
    | with_reducible refine foldlSnd_touches ?_ (fun x a hx => ?_)
    | with_reducible assumption

end Sys2Proof.Machine
end

