-- ==== Sys2Proof/Laws/TouchesClocks.lean ====
section
/-! SUPPORT. What the functions of Machine/Clocks.lean touch. -/
namespace Sys2Proof.Machine
set_option linter.all false

/-- The parts State.weltLost touches. -/
def State.weltLost_foot : List Part := State.weltDomainLost_foot ++ State.force_foot

theorem State.weltLost_touches {W : List Part} {σ τ : State} {surf : Nat} (hW : ∀ p ∈ State.weltLost_foot, p ∈ W)
    (hT : Touches W σ τ) : Touches W σ (State.weltLost τ surf) := by
  unfold State.weltLost
  try dsimp only
  repeat' first
    | with_reducible apply Touches.ite
    | with_reducible refine State.weltDomainLost_touches (fun p hp => hW p (by unfold State.weltLost_foot; repeat first | with_reducible exact hp | with_reducible exact List.mem_append_right _ hp | with_reducible apply List.mem_append_left)) ?_
    | with_reducible refine State.force_touches (fun p hp => hW p (by unfold State.weltLost_foot; repeat first | with_reducible exact hp | with_reducible exact List.mem_append_right _ hp | with_reducible apply List.mem_append_left)) ?_
    | split
    | with_reducible refine forN_touches ?_ (fun x k hx => ?_)
    | with_reducible refine foldl_touches ?_ (fun x a hx => ?_)
    | with_reducible refine foldlSnd_touches ?_ (fun x a hx => ?_)
    | with_reducible assumption

/-- The parts State.weltBack touches. -/
def State.weltBack_foot : List Part := State.bringUp_foot ++ State.unforce_foot

theorem State.weltBack_touches {W : List Part} {σ τ : State} {surf : Nat} (hW : ∀ p ∈ State.weltBack_foot, p ∈ W)
    (hT : Touches W σ τ) : Touches W σ (State.weltBack τ surf) := by
  unfold State.weltBack
  try dsimp only
  repeat' first
    | with_reducible apply Touches.ite
    | with_reducible refine State.bringUp_touches (fun p hp => hW p (by unfold State.weltBack_foot; repeat first | with_reducible exact hp | with_reducible exact List.mem_append_right _ hp | with_reducible apply List.mem_append_left)) ?_
    | with_reducible refine State.unforce_touches (fun p hp => hW p (by unfold State.weltBack_foot; repeat first | with_reducible exact hp | with_reducible exact List.mem_append_right _ hp | with_reducible apply List.mem_append_left)) ?_
    | split
    | with_reducible refine forN_touches ?_ (fun x k hx => ?_)
    | with_reducible refine foldl_touches ?_ (fun x a hx => ?_)
    | with_reducible refine foldlSnd_touches ?_ (fun x a hx => ?_)
    | with_reducible assumption

/-- The parts State.netClockLost touches. -/
def State.netClockLost_foot : List Part := State.selectMaster_foot ++ State.dropPort_foot ++ State.discHoldover_foot

theorem State.netClockLost_touches {W : List Part} {σ τ : State}  (hW : ∀ p ∈ State.netClockLost_foot, p ∈ W)
    (hT : Touches W σ τ) : Touches W σ (State.netClockLost τ) := by
  unfold State.netClockLost
  try dsimp only
  repeat' first
    | with_reducible apply Touches.ite
    | with_reducible refine State.selectMaster_touches (fun p hp => hW p (by unfold State.netClockLost_foot; repeat first | with_reducible exact hp | with_reducible exact List.mem_append_right _ hp | with_reducible apply List.mem_append_left)) ?_
    | with_reducible refine State.dropPort_touches (fun p hp => hW p (by unfold State.netClockLost_foot; repeat first | with_reducible exact hp | with_reducible exact List.mem_append_right _ hp | with_reducible apply List.mem_append_left)) ?_
    | with_reducible refine cond_touches ?_ (fun x hx => ?_)
    | with_reducible refine State.discHoldover_touches (fun p hp => hW p (by unfold State.netClockLost_foot; repeat first | with_reducible exact hp | with_reducible exact List.mem_append_right _ hp | with_reducible apply List.mem_append_left)) ?_
    | split
    | with_reducible refine forN_touches ?_ (fun x k hx => ?_)
    | with_reducible refine foldl_touches ?_ (fun x a hx => ?_)
    | with_reducible refine foldlSnd_touches ?_ (fun x a hx => ?_)
    | with_reducible assumption

/-- The parts State.domainLost touches. -/
def State.domainLost_foot : List Part := [.reg .CK_THROTTLE_REQ] ++ State.weltLost_foot ++ State.netClockLost_foot

theorem State.domainLost_touches {W : List Part} {σ τ : State} {k : Nat} (hW : ∀ p ∈ State.domainLost_foot, p ∈ W)
    (hT : Touches W σ τ) : Touches W σ (State.domainLost τ k) := by
  unfold State.domainLost
  try dsimp only
  repeat' first
    | with_reducible apply Touches.ite
    | with_reducible refine State.setReg_touches (hW _ (by first | (simp [State.domainLost_foot]; done) | (split <;> simp [State.domainLost_foot] <;> done) | ((repeat' split) <;> simp [State.domainLost_foot])))  ?_
    | with_reducible refine State.weltLost_touches (fun p hp => hW p (by unfold State.domainLost_foot; repeat first | with_reducible exact hp | with_reducible exact List.mem_append_right _ hp | with_reducible apply List.mem_append_left)) ?_
    | with_reducible refine State.netClockLost_touches (fun p hp => hW p (by unfold State.domainLost_foot; repeat first | with_reducible exact hp | with_reducible exact List.mem_append_right _ hp | with_reducible apply List.mem_append_left)) ?_
    | split
    | with_reducible refine forN_touches ?_ (fun x k hx => ?_)
    | with_reducible refine foldl_touches ?_ (fun x a hx => ?_)
    | with_reducible refine foldlSnd_touches ?_ (fun x a hx => ?_)
    | with_reducible assumption

/-- The parts State.holdChannels touches. -/
def State.holdChannels_foot : List Part := [.reg .iHB_HELD] ++ State.startRetrain_foot

theorem State.holdChannels_touches {W : List Part} {σ τ : State}  (hW : ∀ p ∈ State.holdChannels_foot, p ∈ W)
    (hT : Touches W σ τ) : Touches W σ (State.holdChannels τ) := by
  unfold State.holdChannels
  try dsimp only
  repeat' first
    | with_reducible apply Touches.ite
    | with_reducible refine State.setReg_touches (hW _ (by first | (simp [State.holdChannels_foot]; done) | (split <;> simp [State.holdChannels_foot] <;> done) | ((repeat' split) <;> simp [State.holdChannels_foot])))  ?_
    | with_reducible refine State.startRetrain_touches (fun p hp => hW p (by unfold State.holdChannels_foot; repeat first | with_reducible exact hp | with_reducible exact List.mem_append_right _ hp | with_reducible apply List.mem_append_left)) ?_
    | split
    | with_reducible refine forN_touches ?_ (fun x k hx => ?_)
    | with_reducible refine foldl_touches ?_ (fun x a hx => ?_)
    | with_reducible refine foldlSnd_touches ?_ (fun x a hx => ?_)
    | with_reducible assumption

/-- The parts State.startPeriods touches. -/
def State.startPeriods_foot : List Part := [.reg .iRT_BASE]

theorem State.startPeriods_touches {W : List Part} {σ τ : State}  (hW : ∀ p ∈ State.startPeriods_foot, p ∈ W)
    (hT : Touches W σ τ) : Touches W σ (State.startPeriods τ) := by
  unfold State.startPeriods
  try dsimp only
  repeat' first
    | with_reducible apply Touches.ite
    | with_reducible refine State.setReg_touches (hW _ (by first | (simp [State.startPeriods_foot]; done) | (split <;> simp [State.startPeriods_foot] <;> done) | ((repeat' split) <;> simp [State.startPeriods_foot])))  ?_
    | split
    | with_reducible refine forN_touches ?_ (fun x k hx => ?_)
    | with_reducible refine foldl_touches ?_ (fun x a hx => ?_)
    | with_reducible refine foldlSnd_touches ?_ (fun x a hx => ?_)
    | with_reducible assumption

/-- The parts State.domainBack touches. -/
def State.domainBack_foot : List Part := [.reg .CK_THROTTLE_REQ] ++ State.weltBack_foot ++ State.startPeriods_foot ++ State.holdChannels_foot ++ State.stepDetect_foot

theorem State.domainBack_touches {W : List Part} {σ τ : State} {k : Nat} {why : Nat} (hW : ∀ p ∈ State.domainBack_foot, p ∈ W)
    (hT : Touches W σ τ) : Touches W σ (State.domainBack τ k why) := by
  unfold State.domainBack
  try dsimp only
  repeat' first
    | with_reducible apply Touches.ite
    | with_reducible refine State.setReg_touches (hW _ (by first | (simp [State.domainBack_foot]; done) | (split <;> simp [State.domainBack_foot] <;> done) | ((repeat' split) <;> simp [State.domainBack_foot])))  ?_
    | with_reducible refine State.weltBack_touches (fun p hp => hW p (by unfold State.domainBack_foot; repeat first | with_reducible exact hp | with_reducible exact List.mem_append_right _ hp | with_reducible apply List.mem_append_left)) ?_
    | with_reducible refine cond_touches ?_ (fun x hx => ?_)
    | with_reducible refine State.startPeriods_touches (fun p hp => hW p (by unfold State.domainBack_foot; repeat first | with_reducible exact hp | with_reducible exact List.mem_append_right _ hp | with_reducible apply List.mem_append_left)) ?_
    | with_reducible refine State.holdChannels_touches (fun p hp => hW p (by unfold State.domainBack_foot; repeat first | with_reducible exact hp | with_reducible exact List.mem_append_right _ hp | with_reducible apply List.mem_append_left)) ?_
    | with_reducible refine State.stepDetect_touches (fun p hp => hW p (by unfold State.domainBack_foot; repeat first | with_reducible exact hp | with_reducible exact List.mem_append_right _ hp | with_reducible apply List.mem_append_left)) ?_
    | split
    | with_reducible refine forN_touches ?_ (fun x k hx => ?_)
    | with_reducible refine foldl_touches ?_ (fun x a hx => ?_)
    | with_reducible refine foldlSnd_touches ?_ (fun x a hx => ?_)
    | with_reducible assumption

/-- The parts State.pllLost touches. -/
def State.pllLost_foot : List Part := [.reg .CK_UNLOCKS, .reg .iCK_WHY] ++ State.toBypass_foot ++ State.raise_foot ++ State.domainLost_foot

theorem State.pllLost_touches {W : List Part} {σ τ : State} {k : Nat} (hW : ∀ p ∈ State.pllLost_foot, p ∈ W)
    (hT : Touches W σ τ) : Touches W σ (State.pllLost τ k) := by
  unfold State.pllLost
  try dsimp only
  repeat' first
    | with_reducible apply Touches.ite
    | with_reducible refine State.bump_touches (hW _ (by first | (simp [State.pllLost_foot]; done) | (split <;> simp [State.pllLost_foot] <;> done) | ((repeat' split) <;> simp [State.pllLost_foot])))  ?_
    | with_reducible refine State.toBypass_touches (fun p hp => hW p (by unfold State.pllLost_foot; repeat first | with_reducible exact hp | with_reducible exact List.mem_append_right _ hp | with_reducible apply List.mem_append_left)) ?_
    | with_reducible refine State.setReg_touches (hW _ (by first | (simp [State.pllLost_foot]; done) | (split <;> simp [State.pllLost_foot] <;> done) | ((repeat' split) <;> simp [State.pllLost_foot])))  ?_
    | with_reducible refine cond_touches ?_ (fun x hx => ?_)
    | with_reducible refine State.raise_touches (fun p hp => hW p (by unfold State.pllLost_foot; repeat first | with_reducible exact hp | with_reducible exact List.mem_append_right _ hp | with_reducible apply List.mem_append_left)) ?_
    | with_reducible refine State.domainLost_touches (fun p hp => hW p (by unfold State.pllLost_foot; repeat first | with_reducible exact hp | with_reducible exact List.mem_append_right _ hp | with_reducible apply List.mem_append_left)) ?_
    | split
    | with_reducible refine forN_touches ?_ (fun x k hx => ?_)
    | with_reducible refine foldl_touches ?_ (fun x a hx => ?_)
    | with_reducible refine foldlSnd_touches ?_ (fun x a hx => ?_)
    | with_reducible assumption

/-- The parts execPllUnlock touches. -/
def execPllUnlock_foot : List Part := State.pllLost_foot ++ State.toBypass_foot

theorem execPllUnlock_touches {W : List Part} {σ τ : State} {k : Fin 7} (hW : ∀ p ∈ execPllUnlock_foot, p ∈ W)
    (hT : Touches W σ τ) : OutTouches W σ (execPllUnlock k τ) := by
  unfold execPllUnlock
  try dsimp only
  repeat' first
    | with_reducible apply OutTouches.ite
    | with_reducible refine OutTouches.next ?_
    | with_reducible apply Touches.ite
    | with_reducible refine State.pllLost_touches (fun p hp => hW p (by unfold execPllUnlock_foot; repeat first | with_reducible exact hp | with_reducible exact List.mem_append_right _ hp | with_reducible apply List.mem_append_left)) ?_
    | with_reducible refine State.toBypass_touches (fun p hp => hW p (by unfold execPllUnlock_foot; repeat first | with_reducible exact hp | with_reducible exact List.mem_append_right _ hp | with_reducible apply List.mem_append_left)) ?_
    | split
    | with_reducible refine forN_touches ?_ (fun x k hx => ?_)
    | with_reducible refine foldl_touches ?_ (fun x a hx => ?_)
    | with_reducible refine foldlSnd_touches ?_ (fun x a hx => ?_)
    | with_reducible assumption

/-- The parts execRefclkLoss touches. -/
def execRefclkLoss_foot : List Part := [.reg .iCK_WIN, .reg .CK_REF_STATE] ++ State.pllLost_foot

theorem execRefclkLoss_touches {W : List Part} {σ τ : State}  (hW : ∀ p ∈ execRefclkLoss_foot, p ∈ W)
    (hT : Touches W σ τ) : OutTouches W σ (execRefclkLoss τ) := by
  unfold execRefclkLoss
  try dsimp only
  repeat' first
    | with_reducible apply OutTouches.ite
    | with_reducible refine OutTouches.next ?_
    | with_reducible apply Touches.ite
    | with_reducible refine State.setReg_touches (hW _ (by first | (simp [execRefclkLoss_foot]; done) | (split <;> simp [execRefclkLoss_foot] <;> done) | ((repeat' split) <;> simp [execRefclkLoss_foot])))  ?_
    | with_reducible refine State.pllLost_touches (fun p hp => hW p (by unfold execRefclkLoss_foot; repeat first | with_reducible exact hp | with_reducible exact List.mem_append_right _ hp | with_reducible apply List.mem_append_left)) ?_
    | split
    | with_reducible refine forN_touches ?_ (fun x k hx => ?_)
    | with_reducible refine foldl_touches ?_ (fun x a hx => ?_)
    | with_reducible refine foldlSnd_touches ?_ (fun x a hx => ?_)
    | with_reducible assumption

/-- The parts execRefclkReturn touches. -/
def execRefclkReturn_foot : List Part := [.reg .iCK_WIN, .reg .CK_REF_STATE] ++ State.toBypass_foot

theorem execRefclkReturn_touches {W : List Part} {σ τ : State}  (hW : ∀ p ∈ execRefclkReturn_foot, p ∈ W)
    (hT : Touches W σ τ) : OutTouches W σ (execRefclkReturn τ) := by
  unfold execRefclkReturn
  try dsimp only
  repeat' first
    | with_reducible apply OutTouches.ite
    | with_reducible refine OutTouches.next ?_
    | with_reducible apply Touches.ite
    | with_reducible refine State.setReg_touches (hW _ (by first | (simp [execRefclkReturn_foot]; done) | (split <;> simp [execRefclkReturn_foot] <;> done) | ((repeat' split) <;> simp [execRefclkReturn_foot])))  ?_
    | with_reducible refine State.toBypass_touches (fun p hp => hW p (by unfold execRefclkReturn_foot; repeat first | with_reducible exact hp | with_reducible exact List.mem_append_right _ hp | with_reducible apply List.mem_append_left)) ?_
    | split
    | with_reducible refine forN_touches ?_ (fun x k hx => ?_)
    | with_reducible refine foldl_touches ?_ (fun x a hx => ?_)
    | with_reducible refine foldlSnd_touches ?_ (fun x a hx => ?_)
    | with_reducible assumption

/-- The parts execBackupPeriodMeasure touches. -/
def execBackupPeriodMeasure_foot : List Part := [.reg .iCK_WIN, .reg .CK_BACKUP_PERIOD]

theorem execBackupPeriodMeasure_touches {W : List Part} {σ τ : State} {period : BitVec 32} (hW : ∀ p ∈ execBackupPeriodMeasure_foot, p ∈ W)
    (hT : Touches W σ τ) : OutTouches W σ (execBackupPeriodMeasure period τ) := by
  unfold execBackupPeriodMeasure
  try dsimp only
  repeat' first
    | with_reducible apply OutTouches.ite
    | with_reducible refine OutTouches.next ?_
    | with_reducible apply Touches.ite
    | with_reducible refine State.setReg_touches (hW _ (by first | (simp [execBackupPeriodMeasure_foot]; done) | (split <;> simp [execBackupPeriodMeasure_foot] <;> done) | ((repeat' split) <;> simp [execBackupPeriodMeasure_foot])))  ?_
    | split
    | with_reducible refine forN_touches ?_ (fun x k hx => ?_)
    | with_reducible refine foldl_touches ?_ (fun x a hx => ?_)
    | with_reducible refine foldlSnd_touches ?_ (fun x a hx => ?_)
    | with_reducible assumption

/-- The parts execVcoSettled touches. -/
def execVcoSettled_foot : List Part := [.reg .iCK_SEED] ++ State.setPll_foot

theorem execVcoSettled_touches {W : List Part} {σ τ : State} {k : Fin 7} (hW : ∀ p ∈ execVcoSettled_foot, p ∈ W)
    (hT : Touches W σ τ) : OutTouches W σ (execVcoSettled k τ) := by
  unfold execVcoSettled
  try dsimp only
  repeat' first
    | with_reducible apply OutTouches.ite
    | with_reducible refine OutTouches.next ?_
    | with_reducible apply Touches.ite
    | with_reducible refine State.setReg_touches (hW _ (by first | (simp [execVcoSettled_foot]; done) | (split <;> simp [execVcoSettled_foot] <;> done) | ((repeat' split) <;> simp [execVcoSettled_foot])))  ?_
    | with_reducible refine State.setPll_touches (fun p hp => hW p (by unfold execVcoSettled_foot; repeat first | with_reducible exact hp | with_reducible exact List.mem_append_right _ hp | with_reducible apply List.mem_append_left)) ?_
    | split
    | with_reducible refine forN_touches ?_ (fun x k hx => ?_)
    | with_reducible refine foldl_touches ?_ (fun x a hx => ?_)
    | with_reducible refine foldlSnd_touches ?_ (fun x a hx => ?_)
    | with_reducible assumption

/-- The parts execBandSearchDone touches. -/
def execBandSearchDone_foot : List Part := [.reg .CK_BAND, .reg .iCK_N] ++ State.pllFailed_foot ++ State.keepBand_foot ++ State.setPll_foot

theorem execBandSearchDone_touches {W : List Part} {σ τ : State} {k : Fin 7} {counts : List Nat} (hW : ∀ p ∈ execBandSearchDone_foot, p ∈ W)
    (hT : Touches W σ τ) : OutTouches W σ (execBandSearchDone k counts τ) := by
  unfold execBandSearchDone
  try dsimp only
  repeat' first
    | with_reducible apply OutTouches.ite
    | with_reducible refine OutTouches.next ?_
    | with_reducible apply Touches.ite
    | with_reducible refine State.pllFailed_touches (fun p hp => hW p (by unfold execBandSearchDone_foot; repeat first | with_reducible exact hp | with_reducible exact List.mem_append_right _ hp | with_reducible apply List.mem_append_left)) ?_
    | with_reducible refine State.setReg_touches (hW _ (by first | (simp [execBandSearchDone_foot]; done) | (split <;> simp [execBandSearchDone_foot] <;> done) | ((repeat' split) <;> simp [execBandSearchDone_foot])))  ?_
    | with_reducible refine State.keepBand_touches (fun p hp => hW p (by unfold execBandSearchDone_foot; repeat first | with_reducible exact hp | with_reducible exact List.mem_append_right _ hp | with_reducible apply List.mem_append_left)) ?_
    | with_reducible refine State.setPll_touches (fun p hp => hW p (by unfold execBandSearchDone_foot; repeat first | with_reducible exact hp | with_reducible exact List.mem_append_right _ hp | with_reducible apply List.mem_append_left)) ?_
    | split
    | with_reducible refine forN_touches ?_ (fun x k hx => ?_)
    | with_reducible refine foldl_touches ?_ (fun x a hx => ?_)
    | with_reducible refine foldlSnd_touches ?_ (fun x a hx => ?_)
    | with_reducible assumption

/-- The parts execPllLocked touches. -/
def execPllLocked_foot : List Part := [.reg .CK_BYPASS_NS, .reg .CK_LOCK_TIME, .reg .iCK_FAILS] ++ State.setPll_foot ++ State.raise_foot ++ State.domainBack_foot

theorem execPllLocked_touches {W : List Part} {σ τ : State} {k : Fin 7} (hW : ∀ p ∈ execPllLocked_foot, p ∈ W)
    (hT : Touches W σ τ) : OutTouches W σ (execPllLocked k τ) := by
  unfold execPllLocked
  try dsimp only
  repeat' first
    | with_reducible apply OutTouches.ite
    | with_reducible refine OutTouches.next ?_
    | with_reducible apply Touches.ite
    | with_reducible refine State.bumpBy_touches (hW _ (by first | (simp [execPllLocked_foot]; done) | (split <;> simp [execPllLocked_foot] <;> done) | ((repeat' split) <;> simp [execPllLocked_foot])))  ?_
    | with_reducible refine State.setReg_touches (hW _ (by first | (simp [execPllLocked_foot]; done) | (split <;> simp [execPllLocked_foot] <;> done) | ((repeat' split) <;> simp [execPllLocked_foot])))  ?_
    | with_reducible refine State.setPll_touches (fun p hp => hW p (by unfold execPllLocked_foot; repeat first | with_reducible exact hp | with_reducible exact List.mem_append_right _ hp | with_reducible apply List.mem_append_left)) ?_
    | with_reducible refine cond_touches ?_ (fun x hx => ?_)
    | with_reducible refine State.raise_touches (fun p hp => hW p (by unfold execPllLocked_foot; repeat first | with_reducible exact hp | with_reducible exact List.mem_append_right _ hp | with_reducible apply List.mem_append_left)) ?_
    | with_reducible refine State.domainBack_touches (fun p hp => hW p (by unfold execPllLocked_foot; repeat first | with_reducible exact hp | with_reducible exact List.mem_append_right _ hp | with_reducible apply List.mem_append_left)) ?_
    | split
    | with_reducible refine forN_touches ?_ (fun x k hx => ?_)
    | with_reducible refine foldl_touches ?_ (fun x a hx => ?_)
    | with_reducible refine foldlSnd_touches ?_ (fun x a hx => ?_)
    | with_reducible assumption

/-- The parts execAcquireTimeout touches. -/
def execAcquireTimeout_foot : List Part := State.pllFailed_foot

theorem execAcquireTimeout_touches {W : List Part} {σ τ : State} {k : Fin 7} (hW : ∀ p ∈ execAcquireTimeout_foot, p ∈ W)
    (hT : Touches W σ τ) : OutTouches W σ (execAcquireTimeout k τ) := by
  unfold execAcquireTimeout
  try dsimp only
  repeat' first
    | with_reducible apply OutTouches.ite
    | with_reducible refine OutTouches.next ?_
    | with_reducible apply Touches.ite
    | with_reducible refine State.pllFailed_touches (fun p hp => hW p (by unfold execAcquireTimeout_foot; repeat first | with_reducible exact hp | with_reducible exact List.mem_append_right _ hp | with_reducible apply List.mem_append_left)) ?_
    | split
    | with_reducible refine forN_touches ?_ (fun x k hx => ?_)
    | with_reducible refine foldl_touches ?_ (fun x a hx => ?_)
    | with_reducible refine foldlSnd_touches ?_ (fun x a hx => ?_)
    | with_reducible assumption

/-- The parts execPllRetry touches. -/
def execPllRetry_foot : List Part := State.toBypass_foot

theorem execPllRetry_touches {W : List Part} {σ τ : State} {k : Fin 7} (hW : ∀ p ∈ execPllRetry_foot, p ∈ W)
    (hT : Touches W σ τ) : OutTouches W σ (execPllRetry k τ) := by
  unfold execPllRetry
  try dsimp only
  repeat' first
    | with_reducible apply OutTouches.ite
    | with_reducible refine OutTouches.next ?_
    | with_reducible apply Touches.ite
    | with_reducible refine State.toBypass_touches (fun p hp => hW p (by unfold execPllRetry_foot; repeat first | with_reducible exact hp | with_reducible exact List.mem_append_right _ hp | with_reducible apply List.mem_append_left)) ?_
    | split
    | with_reducible refine forN_touches ?_ (fun x k hx => ?_)
    | with_reducible refine foldl_touches ?_ (fun x a hx => ?_)
    | with_reducible refine foldlSnd_touches ?_ (fun x a hx => ?_)
    | with_reducible assumption

/-- The parts State.hostRelock touches. -/
def State.hostRelock_foot : List Part := [.reg .iCK_WHY] ++ State.domainLost_foot ++ State.toBypass_foot

theorem State.hostRelock_touches {W : List Part} {σ τ : State} {k : Nat} (hW : ∀ p ∈ State.hostRelock_foot, p ∈ W)
    (hT : Touches W σ τ) : Touches W σ (State.hostRelock τ k) := by
  unfold State.hostRelock
  try dsimp only
  repeat' first
    | with_reducible apply Touches.ite
    | with_reducible refine State.domainLost_touches (fun p hp => hW p (by unfold State.hostRelock_foot; repeat first | with_reducible exact hp | with_reducible exact List.mem_append_right _ hp | with_reducible apply List.mem_append_left)) ?_
    | with_reducible refine State.toBypass_touches (fun p hp => hW p (by unfold State.hostRelock_foot; repeat first | with_reducible exact hp | with_reducible exact List.mem_append_right _ hp | with_reducible apply List.mem_append_left)) ?_
    | with_reducible refine State.setReg_touches (hW _ (by first | (simp [State.hostRelock_foot]; done) | (split <;> simp [State.hostRelock_foot] <;> done) | ((repeat' split) <;> simp [State.hostRelock_foot])))  ?_
    | split
    | with_reducible refine forN_touches ?_ (fun x k hx => ?_)
    | with_reducible refine foldl_touches ?_ (fun x a hx => ?_)
    | with_reducible refine foldlSnd_touches ?_ (fun x a hx => ?_)
    | with_reducible assumption

/-- The parts State.marginWrite touches. -/
def State.marginWrite_foot : List Part := [.reg .CK_MARGIN, .fld .status, .fld .keepPending] ++ State.hostRelock_foot

theorem State.marginWrite_touches {W : List Part} {σ τ : State} {k : Nat} {v : Nat} (hW : ∀ p ∈ State.marginWrite_foot, p ∈ W)
    (hT : Touches W σ τ) : Touches W σ (State.marginWrite τ k v) := by
  unfold State.marginWrite
  try dsimp only
  repeat' first
    | with_reducible apply Touches.ite
    | with_reducible refine State.refuse_touches (hW _ (by simp [State.marginWrite_foot])) ?_
    | with_reducible refine State.putReg_touches (hW _ (by first | (simp [State.marginWrite_foot]; done) | (split <;> simp [State.marginWrite_foot] <;> done) | ((repeat' split) <;> simp [State.marginWrite_foot]))) (hW _ (by simp [State.marginWrite_foot])) ?_
    | with_reducible refine State.hostRelock_touches (fun p hp => hW p (by unfold State.marginWrite_foot; repeat first | with_reducible exact hp | with_reducible exact List.mem_append_right _ hp | with_reducible apply List.mem_append_left)) ?_
    | split
    | with_reducible refine forN_touches ?_ (fun x k hx => ?_)
    | with_reducible refine foldl_touches ?_ (fun x a hx => ?_)
    | with_reducible refine foldlSnd_touches ?_ (fun x a hx => ?_)
    | with_reducible assumption

/-- The parts execCkMarginWrite touches. -/
def execCkMarginWrite_foot : List Part := writeParam_foot ++ State.marginWrite_foot

theorem execCkMarginWrite_touches {W : List Part} {σ τ : State} {acc : Accessor} {k : Fin 7} {v : BitVec 32} (hW : ∀ p ∈ execCkMarginWrite_foot, p ∈ W)
    (hT : Touches W σ τ) : OutTouches W σ (execCkMarginWrite acc k v τ) := by
  unfold execCkMarginWrite
  try dsimp only
  repeat' first
    | with_reducible apply OutTouches.ite
    | with_reducible refine OutTouches.next ?_
    | with_reducible apply Touches.ite
    | with_reducible refine writeParam_touches  (fun p hp => hW p (by unfold execCkMarginWrite_foot; repeat first | with_reducible exact hp | with_reducible exact List.mem_append_right _ hp | with_reducible apply List.mem_append_left)) ?_ (fun x  hx => ?_)
    | with_reducible refine State.marginWrite_touches (fun p hp => hW p (by unfold execCkMarginWrite_foot; repeat first | with_reducible exact hp | with_reducible exact List.mem_append_right _ hp | with_reducible apply List.mem_append_left)) ?_
    | split
    | with_reducible refine forN_touches ?_ (fun x k hx => ?_)
    | with_reducible refine foldl_touches ?_ (fun x a hx => ?_)
    | with_reducible refine foldlSnd_touches ?_ (fun x a hx => ?_)
    | with_reducible assumption

/-- The parts execCkRelock touches. -/
def execCkRelock_foot : List Part := [.fld .status] ++ writeParam_foot ++ State.hostRelock_foot

theorem execCkRelock_touches {W : List Part} {σ τ : State} {acc : Accessor} {k : Fin 7} (hW : ∀ p ∈ execCkRelock_foot, p ∈ W)
    (hT : Touches W σ τ) : OutTouches W σ (execCkRelock acc k τ) := by
  unfold execCkRelock
  try dsimp only
  repeat' first
    | with_reducible apply OutTouches.ite
    | with_reducible refine OutTouches.next ?_
    | with_reducible apply Touches.ite
    | with_reducible refine writeParam_touches  (fun p hp => hW p (by unfold execCkRelock_foot; repeat first | with_reducible exact hp | with_reducible exact List.mem_append_right _ hp | with_reducible apply List.mem_append_left)) ?_ (fun x  hx => ?_)
    | with_reducible refine State.refuse_touches (hW _ (by simp [execCkRelock_foot])) ?_
    | with_reducible refine State.hostRelock_touches (fun p hp => hW p (by unfold execCkRelock_foot; repeat first | with_reducible exact hp | with_reducible exact List.mem_append_right _ hp | with_reducible apply List.mem_append_left)) ?_
    | split
    | with_reducible refine forN_touches ?_ (fun x k hx => ?_)
    | with_reducible refine foldl_touches ?_ (fun x a hx => ?_)
    | with_reducible refine foldlSnd_touches ?_ (fun x a hx => ?_)
    | with_reducible assumption

/-- The parts execSscRampEnd touches. -/
def execSscRampEnd_foot : List Part := [.reg .iSSC_RAMP]

theorem execSscRampEnd_touches {W : List Part} {σ τ : State} {k : Fin 2} (hW : ∀ p ∈ execSscRampEnd_foot, p ∈ W)
    (hT : Touches W σ τ) : OutTouches W σ (execSscRampEnd k τ) := by
  unfold execSscRampEnd
  try dsimp only
  repeat' first
    | with_reducible apply OutTouches.ite
    | with_reducible refine OutTouches.next ?_
    | with_reducible apply Touches.ite
    | with_reducible refine State.setReg_touches (hW _ (by first | (simp [execSscRampEnd_foot]; done) | (split <;> simp [execSscRampEnd_foot] <;> done) | ((repeat' split) <;> simp [execSscRampEnd_foot])))  ?_
    | split
    | with_reducible refine forN_touches ?_ (fun x k hx => ?_)
    | with_reducible refine foldl_touches ?_ (fun x a hx => ?_)
    | with_reducible refine foldlSnd_touches ?_ (fun x a hx => ?_)
    | with_reducible assumption

/-- The parts execSscRelockRamp touches. -/
def execSscRelockRamp_foot : List Part := [.reg .iSSC_WAIT] ++ State.startRamp_foot

theorem execSscRelockRamp_touches {W : List Part} {σ τ : State} {k : Fin 2} (hW : ∀ p ∈ execSscRelockRamp_foot, p ∈ W)
    (hT : Touches W σ τ) : OutTouches W σ (execSscRelockRamp k τ) := by
  unfold execSscRelockRamp
  try dsimp only
  repeat' first
    | with_reducible apply OutTouches.ite
    | with_reducible refine OutTouches.next ?_
    | with_reducible apply Touches.ite
    | with_reducible refine State.startRamp_touches (fun p hp => hW p (by unfold execSscRelockRamp_foot; repeat first | with_reducible exact hp | with_reducible exact List.mem_append_right _ hp | with_reducible apply List.mem_append_left)) ?_
    | with_reducible refine State.setReg_touches (hW _ (by first | (simp [execSscRelockRamp_foot]; done) | (split <;> simp [execSscRelockRamp_foot] <;> done) | ((repeat' split) <;> simp [execSscRelockRamp_foot])))  ?_
    | split
    | with_reducible refine forN_touches ?_ (fun x k hx => ?_)
    | with_reducible refine foldl_touches ?_ (fun x a hx => ?_)
    | with_reducible refine foldlSnd_touches ?_ (fun x a hx => ?_)
    | with_reducible assumption

/-- The parts execCkSyncArm touches. -/
def execCkSyncArm_foot : List Part := [.reg .CK_SYNC_ARM] ++ writeParam_foot

theorem execCkSyncArm_touches {W : List Part} {σ τ : State} {acc : Accessor} (hW : ∀ p ∈ execCkSyncArm_foot, p ∈ W)
    (hT : Touches W σ τ) : OutTouches W σ (execCkSyncArm acc τ) := by
  unfold execCkSyncArm
  try dsimp only
  repeat' first
    | with_reducible apply OutTouches.ite
    | with_reducible refine OutTouches.next ?_
    | with_reducible apply Touches.ite
    | with_reducible refine writeParam_touches  (fun p hp => hW p (by unfold execCkSyncArm_foot; repeat first | with_reducible exact hp | with_reducible exact List.mem_append_right _ hp | with_reducible apply List.mem_append_left)) ?_ (fun x  hx => ?_)
    | with_reducible refine State.setReg_touches (hW _ (by first | (simp [execCkSyncArm_foot]; done) | (split <;> simp [execCkSyncArm_foot] <;> done) | ((repeat' split) <;> simp [execCkSyncArm_foot])))  ?_
    | split
    | with_reducible refine forN_touches ?_ (fun x k hx => ?_)
    | with_reducible refine foldl_touches ?_ (fun x a hx => ?_)
    | with_reducible refine foldlSnd_touches ?_ (fun x a hx => ?_)
    | with_reducible assumption

end Sys2Proof.Machine
end

