-- ==== Sys2Proof/Laws/TouchesKeeper.lean ====
section
/-! SUPPORT. What the functions of Machine/Keeper.lean touch. -/
namespace Sys2Proof.Machine
set_option linter.all false

theorem keeperPut_wf {m : List Host.Cell} (a : Nat) (bs : List Byte) (h : Memory.keeperWf m = true) :
    Memory.keeperWf (keeperPut m a bs) = true := by
  induction bs generalizing m a with
  | nil => exact h
  | cons b bs ih => exact ih (a + 1) (Sparse.wf_set a b h)

/-- The parts State.keeperPage touches. -/
def State.keeperPage_foot : List Part := [.keeper, .fld .keeperBad, .fld .keeperTorn]

theorem State.keeperPage_touches {W : List Part} {σ τ : State} {page : Nat} {data : List Byte}
    (hW : ∀ p ∈ State.keeperPage_foot, p ∈ W) (hT : Touches W σ τ) : Touches W σ (State.keeperPage τ page data) :=
  Touches.keeperToo (hW _ (by simp [State.keeperPage_foot]))
    (fun f => by cases f <;> first | exact .inr rfl | exact .inl (hW _ (by simp [State.keeperPage_foot]))) hT rfl rfl rfl (keeperPut_wf _ _) rfl rfl rfl

/-- The parts State.logBadGroup touches. -/
def State.logBadGroup_foot : List Part := [.fld .badLog] ++ State.raise_foot

theorem State.logBadGroup_touches {W : List Part} {σ τ : State} {g : Nat} {finder : Nat} {master : Nat} (hW : ∀ p ∈ State.logBadGroup_foot, p ∈ W)
    (hT : Touches W σ τ) : Touches W σ (State.logBadGroup τ g finder master) := by
  unfold State.logBadGroup
  try dsimp only
  repeat' first
    | with_reducible apply Touches.ite
    | with_reducible refine State.raise_touches (fun p hp => hW p (by unfold State.logBadGroup_foot; repeat first | with_reducible exact hp | with_reducible exact List.mem_append_right _ hp | with_reducible apply List.mem_append_left)) ?_
    | split
    | with_reducible refine forN_touches ?_ (fun x k hx => ?_)
    | with_reducible refine foldl_touches ?_ (fun x a hx => ?_)
    | with_reducible refine foldlSnd_touches ?_ (fun x a hx => ?_)
    | with_reducible assumption
    | with_reducible refine touches_mk (fun f => by cases f <;> first | exact .inr (by with_reducible rfl) | exact .inl (hW _ (by simp [State.logBadGroup_foot]))) ?_

/-- The parts State.readGroup touches. -/
def State.readGroup_foot : List Part := [.fld .draws]

theorem State.readGroup_touches {W : List Part} {σ τ : State} {g : Nat} (hW : ∀ p ∈ State.readGroup_foot, p ∈ W)
    (hT : Touches W σ τ) : Touches W σ (State.readGroup τ g).2 := by
  unfold State.readGroup
  try dsimp only
  repeat' first
    | with_reducible apply Touches.iteSnd
    | with_reducible apply Touches.ite
    | with_reducible refine State.draw_touches (hW _ (by simp [State.readGroup_foot])) ?_
    | with_reducible refine Touches.ofPair (by assumption) (State.draw_touches (hW _ (by simp [State.readGroup_foot])) ?_)
    | split
    | with_reducible refine forN_touches ?_ (fun x k hx => ?_)
    | with_reducible refine foldl_touches ?_ (fun x a hx => ?_)
    | with_reducible refine foldlSnd_touches ?_ (fun x a hx => ?_)
    | with_reducible assumption

/-- The parts State.readGroups touches. -/
def State.readGroups_foot : List Part := State.readGroup_foot

theorem State.readGroups_touches {W : List Part} {σ τ : State} {gs : List Nat}
    (hW : ∀ p ∈ State.readGroups_foot, p ∈ W) (hT : Touches W σ τ) : Touches W σ (State.readGroups τ gs).2.2 := by
  induction gs generalizing τ with
  | nil => exact hT
  | cons g gs ih =>
    unfold State.readGroups
    split
    · exact Touches.ofPair (by assumption) (State.readGroup_touches hW hT)
    · exact ih (Touches.ofPair (by assumption) (State.readGroup_touches hW hT))

/-- The parts State.keeperRead touches. -/
def State.keeperRead_foot : List Part := State.readGroups_foot

theorem State.keeperRead_touches {W : List Part} {σ τ : State} {a n : Nat}
    (hW : ∀ p ∈ State.keeperRead_foot, p ∈ W) (hT : Touches W σ τ) : Touches W σ (State.keeperRead τ a n).2.2 := by
  unfold State.keeperRead
  split
  · exact hT
  · exact State.readGroups_touches hW hT

/-- The parts State.keeperRefuse touches. -/
def State.keeperRefuse_foot : List Part := [.reg .KP_REFUSED]

theorem State.keeperRefuse_touches {W : List Part} {σ τ : State}  (hW : ∀ p ∈ State.keeperRefuse_foot, p ∈ W)
    (hT : Touches W σ τ) : Touches W σ (State.keeperRefuse τ) := by
  unfold State.keeperRefuse
  try dsimp only
  repeat' first
    | with_reducible apply Touches.ite
    | with_reducible refine State.bump_touches (hW _ (by first | (simp [State.keeperRefuse_foot]; done) | (split <;> simp [State.keeperRefuse_foot] <;> done) | ((repeat' split) <;> simp [State.keeperRefuse_foot])))  ?_
    | split
    | with_reducible refine forN_touches ?_ (fun x k hx => ?_)
    | with_reducible refine foldl_touches ?_ (fun x a hx => ?_)
    | with_reducible refine foldlSnd_touches ?_ (fun x a hx => ?_)
    | with_reducible assumption

/-- The parts State.nextPart touches. -/
def State.nextPart_foot : List Part := [.fld .keeperQueue]

theorem State.nextPart_touches {W : List Part} {σ τ υ : State} {r : RecordWrite} (hW : ∀ p ∈ State.nextPart_foot, p ∈ W)
    (e : State.nextPart τ r = some υ) (hT : Touches W σ τ) : Touches W σ υ := by
  unfold State.nextPart at e
  split at e
  · cases e
  · split at e
    · cases e
    · split at e
      · cases e
      · rw [← Option.some.inj e]
        with_reducible refine touches_mk (fun f => by cases f <;> first | exact .inr (by with_reducible rfl) | exact .inl (hW _ (by simp [State.nextPart_foot]))) ?_
        exact hT

/-- The parts State.recordRefused touches. -/
def State.recordRefused_foot : List Part := [.reg .iKEEP_TRY, .fld .records, .fld .keepDeferred] ++ State.keeperRefuse_foot ++ State.raise_foot

theorem State.recordRefused_touches {W : List Part} {σ τ : State} {r : RecordWrite} (hW : ∀ p ∈ State.recordRefused_foot, p ∈ W)
    (hT : Touches W σ τ) : Touches W σ (State.recordRefused τ r) := by
  unfold State.recordRefused
  try dsimp only
  repeat' first
    | with_reducible apply Touches.ite
    | with_reducible refine State.keeperRefuse_touches (fun p hp => hW p (by unfold State.recordRefused_foot; repeat first | with_reducible exact hp | with_reducible exact List.mem_append_right _ hp | with_reducible apply List.mem_append_left)) ?_
    | with_reducible refine cond_touches ?_ (fun x hx => ?_)
    | with_reducible refine State.setReg_touches (hW _ (by first | (simp [State.recordRefused_foot]; done) | (split <;> simp [State.recordRefused_foot] <;> done) | ((repeat' split) <;> simp [State.recordRefused_foot])))  ?_
    | with_reducible refine State.raise_touches (fun p hp => hW p (by unfold State.recordRefused_foot; repeat first | with_reducible exact hp | with_reducible exact List.mem_append_right _ hp | with_reducible apply List.mem_append_left)) ?_
    | split
    | with_reducible refine forN_touches ?_ (fun x k hx => ?_)
    | with_reducible refine foldl_touches ?_ (fun x a hx => ?_)
    | with_reducible refine foldlSnd_touches ?_ (fun x a hx => ?_)
    | with_reducible assumption
    | with_reducible refine touches_mk (fun f => by cases f <;> first | exact .inr (by with_reducible rfl) | exact .inl (hW _ (by simp [State.recordRefused_foot]))) ?_

/-- The parts State.startRecord touches. -/
def State.startRecord_foot : List Part := [.fld .records] ++ State.nextPart_foot ++ State.recordRefused_foot

theorem State.startRecord_touches {W : List Part} {σ τ : State} {r : RecordWrite} (hW : ∀ p ∈ State.startRecord_foot, p ∈ W)
    (hT : Touches W σ τ) : Touches W σ (State.startRecord τ r) := by
  unfold State.startRecord
  try dsimp only
  repeat' first
    | with_reducible apply Touches.ite
    | with_reducible refine State.nextPart_touches (fun p hp => hW p (by unfold State.startRecord_foot; repeat first | with_reducible exact hp | with_reducible exact List.mem_append_right _ hp | with_reducible apply List.mem_append_left)) (by assumption) ?_
    | with_reducible refine getD_touches (fun υ e => State.nextPart_touches (fun p hp => hW p (by unfold State.startRecord_foot; repeat first | with_reducible exact hp | with_reducible exact List.mem_append_right _ hp | with_reducible apply List.mem_append_left)) e ?_) ?_
    | with_reducible refine State.recordRefused_touches (fun p hp => hW p (by unfold State.startRecord_foot; repeat first | with_reducible exact hp | with_reducible exact List.mem_append_right _ hp | with_reducible apply List.mem_append_left)) ?_
    | split
    | with_reducible refine forN_touches ?_ (fun x k hx => ?_)
    | with_reducible refine foldl_touches ?_ (fun x a hx => ?_)
    | with_reducible refine foldlSnd_touches ?_ (fun x a hx => ?_)
    | with_reducible assumption
    | with_reducible refine touches_mk (fun f => by cases f <;> first | exact .inr (by with_reducible rfl) | exact .inl (hW _ (by simp [State.startRecord_foot]))) ?_

/-- The parts State.repairCopy touches. -/
def State.repairCopy_foot : List Part := [.reg .KP_REPAIRS] ++ State.startRecord_foot

theorem State.repairCopy_touches {W : List Part} {σ τ : State} {id : Nat} {seq : Nat} {copy : Nat} {content : List Byte} (hW : ∀ p ∈ State.repairCopy_foot, p ∈ W)
    (hT : Touches W σ τ) : Touches W σ (State.repairCopy τ id seq copy content) := by
  unfold State.repairCopy
  try dsimp only
  repeat' first
    | with_reducible apply Touches.ite
    | with_reducible refine State.startRecord_touches (fun p hp => hW p (by unfold State.repairCopy_foot; repeat first | with_reducible exact hp | with_reducible exact List.mem_append_right _ hp | with_reducible apply List.mem_append_left)) ?_
    | with_reducible refine State.bump_touches (hW _ (by first | (simp [State.repairCopy_foot]; done) | (split <;> simp [State.repairCopy_foot] <;> done) | ((repeat' split) <;> simp [State.repairCopy_foot])))  ?_
    | split
    | with_reducible refine forN_touches ?_ (fun x k hx => ?_)
    | with_reducible refine foldl_touches ?_ (fun x a hx => ?_)
    | with_reducible refine foldlSnd_touches ?_ (fun x a hx => ?_)
    | with_reducible assumption

/-- The parts State.resolveRecord touches. -/
def State.resolveRecord_foot : List Part := [.reg .KP_TWINS] ++ State.repairCopy_foot ++ State.raise_foot

theorem State.resolveRecord_touches {W : List Part} {σ τ : State} {id : Nat} (hW : ∀ p ∈ State.resolveRecord_foot, p ∈ W)
    (hT : Touches W σ τ) : Touches W σ (State.resolveRecord τ id).2 := by
  unfold State.resolveRecord
  try dsimp only
  repeat' first
    | with_reducible apply Touches.iteSnd
    | with_reducible apply Touches.ite
    | with_reducible refine State.repairCopy_touches (fun p hp => hW p (by unfold State.resolveRecord_foot; repeat first | with_reducible exact hp | with_reducible exact List.mem_append_right _ hp | with_reducible apply List.mem_append_left)) ?_
    | with_reducible refine State.raise_touches (fun p hp => hW p (by unfold State.resolveRecord_foot; repeat first | with_reducible exact hp | with_reducible exact List.mem_append_right _ hp | with_reducible apply List.mem_append_left)) ?_
    | with_reducible refine State.bump_touches (hW _ (by first | (simp [State.resolveRecord_foot]; done) | (split <;> simp [State.resolveRecord_foot] <;> done) | ((repeat' split) <;> simp [State.resolveRecord_foot])))  ?_
    | split
    | with_reducible refine forN_touches ?_ (fun x k hx => ?_)
    | with_reducible refine foldl_touches ?_ (fun x a hx => ?_)
    | with_reducible refine foldlSnd_touches ?_ (fun x a hx => ?_)
    | with_reducible assumption

/-- The parts State.readPool touches. -/
def State.readPool_foot : List Part := [.fld .draws] ++ State.logBadGroup_foot

theorem State.readPool_touches {W : List Part} {σ τ : State}  (hW : ∀ p ∈ State.readPool_foot, p ∈ W)
    (hT : Touches W σ τ) : Touches W σ (State.readPool τ) := by
  unfold State.readPool
  try dsimp only
  repeat' first
    | with_reducible apply Touches.ite
    | with_reducible refine State.logBadGroup_touches (fun p hp => hW p (by unfold State.readPool_foot; repeat first | with_reducible exact hp | with_reducible exact List.mem_append_right _ hp | with_reducible apply List.mem_append_left)) ?_
    | with_reducible refine State.draw_touches (hW _ (by simp [State.readPool_foot])) ?_
    | with_reducible refine Touches.ofPair (by assumption) (State.draw_touches (hW _ (by simp [State.readPool_foot])) ?_)
    | split
    | with_reducible refine forN_touches ?_ (fun x k hx => ?_)
    | with_reducible refine foldl_touches ?_ (fun x a hx => ?_)
    | with_reducible refine foldlSnd_touches ?_ (fun x a hx => ?_)
    | with_reducible assumption

/-- The parts State.resolveAll touches. -/
def State.resolveAll_foot : List Part := [.reg .KP_REC_LOST] ++ State.resolveRecord_foot

theorem State.resolveAll_touches {W : List Part} {σ τ : State}  (hW : ∀ p ∈ State.resolveAll_foot, p ∈ W)
    (hT : Touches W σ τ) : Touches W σ (State.resolveAll τ) := by
  unfold State.resolveAll
  try dsimp only
  repeat' first
    | with_reducible apply Touches.ite
    | with_reducible refine Touches.ofPair (by assumption) (State.resolveRecord_touches (fun p hp => hW p (by unfold State.resolveAll_foot; repeat first | with_reducible exact hp | with_reducible exact List.mem_append_right _ hp | with_reducible apply List.mem_append_left)) ?_)
    | with_reducible refine State.resolveRecord_touches (fun p hp => hW p (by unfold State.resolveAll_foot; repeat first | with_reducible exact hp | with_reducible exact List.mem_append_right _ hp | with_reducible apply List.mem_append_left)) ?_
    | with_reducible refine State.bump_touches (hW _ (by first | (simp [State.resolveAll_foot]; done) | (split <;> simp [State.resolveAll_foot] <;> done) | ((repeat' split) <;> simp [State.resolveAll_foot])))  ?_
    | split
    | with_reducible refine forN_touches ?_ (fun x k hx => ?_)
    | with_reducible refine foldl_touches ?_ (fun x a hx => ?_)
    | with_reducible refine foldlSnd_touches ?_ (fun x a hx => ?_)
    | with_reducible assumption

/-- A record may restore any register. -/
def State.restoreKeep_foot : List Part := [.anyReg, .keys] ++ State.takeLut_foot

theorem State.restoreKeep_touches {W : List Part} {σ τ : State} {r : Reg} {i : Nat} {bs : List Byte}
    (hW : ∀ p ∈ State.restoreKeep_foot, p ∈ W) (hT : Touches W σ τ) : Touches W σ (State.restoreKeep τ r i bs) := by
  have hl : ∀ p ∈ State.takeLut_foot, p ∈ W := fun p hp => hW p (by simp [State.restoreKeep_foot, hp])
  unfold State.restoreKeep
  split
  · exact touches_mk_keys (hW _ (by simp [State.restoreKeep_foot])) (fun f => .inr (by cases f <;> rfl)) hT
  · exact State.takeLut_touches hl (State.takeLut_touches hl hT)
  · exact State.takeLut_touches hl (State.takeLut_touches hl hT)
  · exact State.setReg_touches_any (hW _ (by simp [State.restoreKeep_foot])) hT

/-- The parts State.applyRecord touches. -/
def State.applyRecord_foot : List Part := State.restoreKeep_foot

theorem State.applyRecord_touches {W : List Part} {σ τ : State} {index : Nat} {payload : List Byte} (hW : ∀ p ∈ State.applyRecord_foot, p ∈ W)
    (hT : Touches W σ τ) : Touches W σ (State.applyRecord τ index payload) := by
  unfold State.applyRecord
  try dsimp only
  repeat' first
    | with_reducible apply Touches.ite
    | with_reducible refine State.restoreKeep_touches (fun p hp => hW p (by unfold State.applyRecord_foot; repeat first | with_reducible exact hp | with_reducible exact List.mem_append_right _ hp | with_reducible apply List.mem_append_left)) ?_
    | split
    | with_reducible refine forN_touches ?_ (fun x k hx => ?_)
    | with_reducible refine foldl_touches ?_ (fun x a hx => ?_)
    | with_reducible refine foldlSnd_touches ?_ (fun x a hx => ?_)
    | with_reducible assumption

/-- The parts State.requestTri touches. -/
def State.requestTri_foot : List Part := [.fld .keeperQueue]

theorem State.requestTri_touches {W : List Part} {σ τ : State} {word : Nat} {value : Nat} {copy : Nat} (hW : ∀ p ∈ State.requestTri_foot, p ∈ W)
    (hT : Touches W σ τ) : Touches W σ (State.requestTri τ word value copy) := by
  unfold State.requestTri
  try dsimp only
  repeat' first
    | with_reducible apply Touches.ite
    | split
    | with_reducible refine forN_touches ?_ (fun x k hx => ?_)
    | with_reducible refine foldl_touches ?_ (fun x a hx => ?_)
    | with_reducible refine foldlSnd_touches ?_ (fun x a hx => ?_)
    | with_reducible assumption
    | with_reducible refine touches_mk (fun f => by cases f <;> first | exact .inr (by with_reducible rfl) | exact .inl (hW _ (by simp [State.requestTri_foot]))) ?_

/-- The parts State.writeTri touches. -/
def State.writeTri_foot : List Part := [.fld .triPending] ++ State.requestTri_foot

theorem State.writeTri_touches {W : List Part} {σ τ : State} {word : Nat} {value : Nat} (hW : ∀ p ∈ State.writeTri_foot, p ∈ W)
    (hT : Touches W σ τ) : Touches W σ (State.writeTri τ word value) := by
  unfold State.writeTri
  try dsimp only
  repeat' first
    | with_reducible apply Touches.ite
    | with_reducible refine State.requestTri_touches (fun p hp => hW p (by unfold State.writeTri_foot; repeat first | with_reducible exact hp | with_reducible exact List.mem_append_right _ hp | with_reducible apply List.mem_append_left)) ?_
    | split
    | with_reducible refine forN_touches ?_ (fun x k hx => ?_)
    | with_reducible refine foldl_touches ?_ (fun x a hx => ?_)
    | with_reducible refine foldlSnd_touches ?_ (fun x a hx => ?_)
    | with_reducible assumption
    | with_reducible refine touches_mk (fun f => by cases f <;> first | exact .inr (by with_reducible rfl) | exact .inl (hW _ (by simp [State.writeTri_foot]))) ?_

/-- The parts State.repairTri touches. -/
def State.repairTri_foot : List Part := [.fld .keeperQueue]

theorem State.repairTri_touches {W : List Part} {σ τ : State} {word : Nat} {value : Nat} {copy : Nat} (hW : ∀ p ∈ State.repairTri_foot, p ∈ W)
    (hT : Touches W σ τ) : Touches W σ (State.repairTri τ word value copy) := by
  unfold State.repairTri
  try dsimp only
  repeat' first
    | with_reducible apply Touches.ite
    | split
    | with_reducible refine forN_touches ?_ (fun x k hx => ?_)
    | with_reducible refine foldl_touches ?_ (fun x a hx => ?_)
    | with_reducible refine foldlSnd_touches ?_ (fun x a hx => ?_)
    | with_reducible assumption
    | with_reducible refine touches_mk (fun f => by cases f <;> first | exact .inr (by with_reducible rfl) | exact .inl (hW _ (by simp [State.repairTri_foot]))) ?_

/-- The parts State.saveTri touches. -/
def State.saveTri_foot : List Part := State.writeTri_foot

theorem State.saveTri_touches {W : List Part} {σ τ : State} {r : Reg} (hW : ∀ p ∈ State.saveTri_foot, p ∈ W)
    (hT : Touches W σ τ) : Touches W σ (State.saveTri τ r) := by
  unfold State.saveTri
  try dsimp only
  repeat' first
    | with_reducible apply Touches.ite
    | with_reducible refine State.writeTri_touches (fun p hp => hW p (by unfold State.saveTri_foot; repeat first | with_reducible exact hp | with_reducible exact List.mem_append_right _ hp | with_reducible apply List.mem_append_left)) ?_
    | split
    | with_reducible refine forN_touches ?_ (fun x k hx => ?_)
    | with_reducible refine foldl_touches ?_ (fun x a hx => ?_)
    | with_reducible refine foldlSnd_touches ?_ (fun x a hx => ?_)
    | with_reducible assumption

/-- The parts State.putTri touches. -/
def State.putTri_foot : List Part := [.fld .keepPending] ++ State.saveTri_foot

theorem State.putTri_touches {W : List Part} {σ τ : State} {r : Reg} {v : Nat}
    (h_r : Part.reg r ∈ W) (hW : ∀ p ∈ State.putTri_foot, p ∈ W)
    (hT : Touches W σ τ) : Touches W σ (State.putTri τ r v) := by
  unfold State.putTri
  try dsimp only
  repeat' first
    | with_reducible apply Touches.ite
    | with_reducible refine State.saveTri_touches (fun p hp => hW p (by unfold State.putTri_foot; repeat first | with_reducible exact hp | with_reducible exact List.mem_append_right _ hp | with_reducible apply List.mem_append_left)) ?_
    | with_reducible refine State.putReg_touches (by first | assumption | exact (hW _ (by first | (simp [State.putTri_foot]; done) | (split <;> simp [State.putTri_foot] <;> done) | ((repeat' split) <;> simp [State.putTri_foot])))) (hW _ (by simp [State.putTri_foot])) ?_
    | split
    | with_reducible refine forN_touches ?_ (fun x k hx => ?_)
    | with_reducible refine foldl_touches ?_ (fun x a hx => ?_)
    | with_reducible refine foldlSnd_touches ?_ (fun x a hx => ?_)
    | with_reducible assumption

end Sys2Proof.Machine
end

