-- ==== Sys2Proof/Laws/TouchesLace.lean ====
section
/-! SUPPORT. What the functions of Machine/Lace.lean touch. -/
namespace Sys2Proof.Machine
set_option linter.all false

/-- The parts State.laceNote touches. -/
def State.laceNote_foot : List Part := State.raise_foot

theorem State.laceNote_touches {W : List Part} {σ τ : State} {n : Nat} {code : Nat} {tag : Nat} {result : Nat} (hW : ∀ p ∈ State.laceNote_foot, p ∈ W)
    (hT : Touches W σ τ) : Touches W σ (State.laceNote τ n code tag result) := by
  unfold State.laceNote
  try dsimp only
  repeat' first
    | with_reducible apply Touches.ite
    | with_reducible refine State.raise_touches (fun p hp => hW p (by unfold State.laceNote_foot; repeat first | with_reducible exact hp | with_reducible exact List.mem_append_right _ hp | with_reducible apply List.mem_append_left)) ?_
    | split
    | with_reducible refine forN_touches ?_ (fun x k hx => ?_)
    | with_reducible refine foldl_touches ?_ (fun x a hx => ?_)
    | with_reducible refine foldlSnd_touches ?_ (fun x a hx => ?_)
    | with_reducible assumption

/-- The parts State.laceFrozen touches. -/
def State.laceFrozen_foot : List Part := [.reg .LC_MISMATCH, .reg .LC_RESULT, .reg .LC_STATE] ++ State.laceNote_foot

theorem State.laceFrozen_touches {W : List Part} {σ τ : State} {n : Nat} (hW : ∀ p ∈ State.laceFrozen_foot, p ∈ W)
    (hT : Touches W σ τ) : Touches W σ (State.laceFrozen τ n) := by
  unfold State.laceFrozen
  try dsimp only
  repeat' first
    | with_reducible apply Touches.ite
    | with_reducible refine cond_touches ?_ (fun x hx => ?_)
    | with_reducible refine State.setReg_touches (hW _ (by first | (simp [State.laceFrozen_foot]; done) | (split <;> simp [State.laceFrozen_foot] <;> done) | ((repeat' split) <;> simp [State.laceFrozen_foot])))  ?_
    | with_reducible refine State.laceNote_touches (fun p hp => hW p (by unfold State.laceFrozen_foot; repeat first | with_reducible exact hp | with_reducible exact List.mem_append_right _ hp | with_reducible apply List.mem_append_left)) ?_
    | split
    | with_reducible refine forN_touches ?_ (fun x k hx => ?_)
    | with_reducible refine foldl_touches ?_ (fun x a hx => ?_)
    | with_reducible refine foldlSnd_touches ?_ (fun x a hx => ?_)
    | with_reducible assumption

/-- The parts State.laceRecord touches. -/
def State.laceRecord_foot : List Part := [.reg .LC_RESULT, .reg .LC_MISMATCH] ++ State.store_foot ++ State.laceFrozen_foot

theorem State.laceRecord_touches {W : List Part} {σ τ : State} {n : Nat} {result : Nat} (hW : ∀ p ∈ State.laceRecord_foot, p ∈ W)
    (hT : Touches W σ τ) : Touches W σ (State.laceRecord τ n result).2 := by
  unfold State.laceRecord
  try dsimp only
  repeat' first
    | with_reducible apply Touches.iteSnd
    | with_reducible apply Touches.ite
    | with_reducible refine cond_touches ?_ (fun x hx => ?_)
    | with_reducible refine State.setReg_touches (hW _ (by first | (simp [State.laceRecord_foot]; done) | (split <;> simp [State.laceRecord_foot] <;> done) | ((repeat' split) <;> simp [State.laceRecord_foot])))  ?_
    | with_reducible refine Touches.ofPair (by assumption) (State.store_touches (fun p hp => hW p (by unfold State.laceRecord_foot; repeat first | with_reducible exact hp | with_reducible exact List.mem_append_right _ hp | with_reducible apply List.mem_append_left)) ?_)
    | with_reducible refine State.store_touches (fun p hp => hW p (by unfold State.laceRecord_foot; repeat first | with_reducible exact hp | with_reducible exact List.mem_append_right _ hp | with_reducible apply List.mem_append_left)) ?_
    | with_reducible refine State.laceFrozen_touches (fun p hp => hW p (by unfold State.laceRecord_foot; repeat first | with_reducible exact hp | with_reducible exact List.mem_append_right _ hp | with_reducible apply List.mem_append_left)) ?_
    | split
    | with_reducible refine forN_touches ?_ (fun x k hx => ?_)
    | with_reducible refine foldl_touches ?_ (fun x a hx => ?_)
    | with_reducible refine foldlSnd_touches ?_ (fun x a hx => ?_)
    | with_reducible assumption

/-- The parts State.dropPartial touches. -/
def State.dropPartial_foot : List Part := [.fld .egress]

theorem State.dropPartial_touches {W : List Part} {σ τ : State} {n : Nat} (hW : ∀ p ∈ State.dropPartial_foot, p ∈ W)
    (hT : Touches W σ τ) : Touches W σ (State.dropPartial τ n) := by
  unfold State.dropPartial
  try dsimp only
  repeat' first
    | with_reducible apply Touches.ite
    | split
    | with_reducible refine forN_touches ?_ (fun x k hx => ?_)
    | with_reducible refine foldl_touches ?_ (fun x a hx => ?_)
    | with_reducible refine foldlSnd_touches ?_ (fun x a hx => ?_)
    | with_reducible assumption
    | with_reducible refine touches_mk (fun f => by cases f <;> first | exact .inr (by with_reducible rfl) | exact .inl (hW _ (by simp [State.dropPartial_foot]))) ?_

/-- The parts State.laceIdle touches. -/
def State.laceIdle_foot : List Part := [.reg .iLC_ABANDON, .reg .LC_STATE, .fld .laceBytes] ++ State.raiseDisabled_foot

theorem State.laceIdle_touches {W : List Part} {σ τ : State} {n : Nat} {abandoned : Nat} (hW : ∀ p ∈ State.laceIdle_foot, p ∈ W)
    (hT : Touches W σ τ) : Touches W σ (State.laceIdle τ n abandoned) := by
  unfold State.laceIdle
  try dsimp only
  repeat' first
    | with_reducible apply Touches.ite
    | with_reducible refine State.setReg_touches (hW _ (by first | (simp [State.laceIdle_foot]; done) | (split <;> simp [State.laceIdle_foot] <;> done) | ((repeat' split) <;> simp [State.laceIdle_foot])))  ?_
    | with_reducible refine State.raiseDisabled_touches (fun p hp => hW p (by unfold State.laceIdle_foot; repeat first | with_reducible exact hp | with_reducible exact List.mem_append_right _ hp | with_reducible apply List.mem_append_left)) ?_
    | split
    | with_reducible refine forN_touches ?_ (fun x k hx => ?_)
    | with_reducible refine foldl_touches ?_ (fun x a hx => ?_)
    | with_reducible refine foldlSnd_touches ?_ (fun x a hx => ?_)
    | with_reducible assumption
    | with_reducible refine touches_mk (fun f => by cases f <;> first | exact .inr (by with_reducible rfl) | exact .inl (hW _ (by simp [State.laceIdle_foot]))) ?_

/-- The parts State.laceDone touches. -/
def State.laceDone_foot : List Part := [.reg .LC_CUR_ADDR, .reg .LC_STATE, .reg .iLC_NEXT] ++ State.laceRecord_foot ++ State.laceNote_foot ++ State.laceIdle_foot

theorem State.laceDone_touches {W : List Part} {σ τ : State} {n : Nat} {result : Nat} (hW : ∀ p ∈ State.laceDone_foot, p ∈ W)
    (hT : Touches W σ τ) : Touches W σ (State.laceDone τ n result) := by
  unfold State.laceDone
  try dsimp only
  repeat' first
    | with_reducible apply Touches.ite
    | with_reducible refine Touches.ofPair (by assumption) (State.laceRecord_touches (fun p hp => hW p (by unfold State.laceDone_foot; repeat first | with_reducible exact hp | with_reducible exact List.mem_append_right _ hp | with_reducible apply List.mem_append_left)) ?_)
    | with_reducible refine State.laceRecord_touches (fun p hp => hW p (by unfold State.laceDone_foot; repeat first | with_reducible exact hp | with_reducible exact List.mem_append_right _ hp | with_reducible apply List.mem_append_left)) ?_
    | with_reducible refine cond_touches ?_ (fun x hx => ?_)
    | with_reducible refine State.laceNote_touches (fun p hp => hW p (by unfold State.laceDone_foot; repeat first | with_reducible exact hp | with_reducible exact List.mem_append_right _ hp | with_reducible apply List.mem_append_left)) ?_
    | with_reducible refine State.laceIdle_touches (fun p hp => hW p (by unfold State.laceDone_foot; repeat first | with_reducible exact hp | with_reducible exact List.mem_append_right _ hp | with_reducible apply List.mem_append_left)) ?_
    | with_reducible refine State.setReg_touches (hW _ (by first | (simp [State.laceDone_foot]; done) | (split <;> simp [State.laceDone_foot] <;> done) | ((repeat' split) <;> simp [State.laceDone_foot])))  ?_
    | split
    | with_reducible refine forN_touches ?_ (fun x k hx => ?_)
    | with_reducible refine foldl_touches ?_ (fun x a hx => ?_)
    | with_reducible refine foldlSnd_touches ?_ (fun x a hx => ?_)
    | with_reducible assumption

/-- The parts State.dropPage touches. -/
def State.dropPage_foot : List Part := [.reg .iLC_PAGE, .fld .keeperQueue]

theorem State.dropPage_touches {W : List Part} {σ τ : State} {n : Nat} (hW : ∀ p ∈ State.dropPage_foot, p ∈ W)
    (hT : Touches W σ τ) : Touches W σ (State.dropPage τ n) := by
  unfold State.dropPage
  try dsimp only
  repeat' first
    | with_reducible apply Touches.ite
    | with_reducible refine State.setReg_touches (hW _ (by first | (simp [State.dropPage_foot]; done) | (split <;> simp [State.dropPage_foot] <;> done) | ((repeat' split) <;> simp [State.dropPage_foot])))  ?_
    | split
    | with_reducible refine forN_touches ?_ (fun x k hx => ?_)
    | with_reducible refine foldl_touches ?_ (fun x a hx => ?_)
    | with_reducible refine foldlSnd_touches ?_ (fun x a hx => ?_)
    | with_reducible assumption
    | with_reducible refine touches_mk (fun f => by cases f <;> first | exact .inr (by with_reducible rfl) | exact .inl (hW _ (by simp [State.dropPage_foot]))) ?_

/-- The parts State.laceFail touches. -/
def State.laceFail_foot : List Part := [.reg .iLC_BURST, .reg .LC_STATE, .fld .laceBytes] ++ State.laceRecord_foot ++ State.dropPage_foot ++ State.laceNote_foot ++ State.laceIdle_foot

theorem State.laceFail_touches {W : List Part} {σ τ : State} {n : Nat} {code : Nat} {tag : Nat} (hW : ∀ p ∈ State.laceFail_foot, p ∈ W)
    (hT : Touches W σ τ) : Touches W σ (State.laceFail τ n code tag) := by
  unfold State.laceFail
  try dsimp only
  repeat' first
    | with_reducible apply Touches.ite
    | with_reducible refine Touches.ofPair (by assumption) (State.laceRecord_touches (fun p hp => hW p (by unfold State.laceFail_foot; repeat first | with_reducible exact hp | with_reducible exact List.mem_append_right _ hp | with_reducible apply List.mem_append_left)) ?_)
    | with_reducible refine State.laceRecord_touches (fun p hp => hW p (by unfold State.laceFail_foot; repeat first | with_reducible exact hp | with_reducible exact List.mem_append_right _ hp | with_reducible apply List.mem_append_left)) ?_
    | with_reducible refine State.setReg_touches (hW _ (by first | (simp [State.laceFail_foot]; done) | (split <;> simp [State.laceFail_foot] <;> done) | ((repeat' split) <;> simp [State.laceFail_foot])))  ?_
    | with_reducible refine State.dropPage_touches (fun p hp => hW p (by unfold State.laceFail_foot; repeat first | with_reducible exact hp | with_reducible exact List.mem_append_right _ hp | with_reducible apply List.mem_append_left)) ?_
    | with_reducible refine State.laceNote_touches (fun p hp => hW p (by unfold State.laceFail_foot; repeat first | with_reducible exact hp | with_reducible exact List.mem_append_right _ hp | with_reducible apply List.mem_append_left)) ?_
    | with_reducible refine State.laceIdle_touches (fun p hp => hW p (by unfold State.laceFail_foot; repeat first | with_reducible exact hp | with_reducible exact List.mem_append_right _ hp | with_reducible apply List.mem_append_left)) ?_
    | split
    | with_reducible refine forN_touches ?_ (fun x k hx => ?_)
    | with_reducible refine foldl_touches ?_ (fun x a hx => ?_)
    | with_reducible refine foldlSnd_touches ?_ (fun x a hx => ?_)
    | with_reducible assumption
    | with_reducible refine touches_mk (fun f => by cases f <;> first | exact .inr (by with_reducible rfl) | exact .inl (hW _ (by simp [State.laceFail_foot]))) ?_

/-- The parts State.laceAbandon touches. -/
def State.laceAbandon_foot : List Part := [.reg .iLC_ABANDON, .reg .iLC_BURST] ++ State.dropPartial_foot ++ State.dropPage_foot ++ State.laceRecord_foot ++ State.laceIdle_foot ++ State.laceNote_foot

theorem State.laceAbandon_touches {W : List Part} {σ τ : State} {n : Nat} (hW : ∀ p ∈ State.laceAbandon_foot, p ∈ W)
    (hT : Touches W σ τ) : Touches W σ (State.laceAbandon τ n) := by
  unfold State.laceAbandon
  try dsimp only
  repeat' first
    | with_reducible apply Touches.ite
    | with_reducible refine State.setReg_touches (hW _ (by first | (simp [State.laceAbandon_foot]; done) | (split <;> simp [State.laceAbandon_foot] <;> done) | ((repeat' split) <;> simp [State.laceAbandon_foot])))  ?_
    | with_reducible refine State.dropPartial_touches (fun p hp => hW p (by unfold State.laceAbandon_foot; repeat first | with_reducible exact hp | with_reducible exact List.mem_append_right _ hp | with_reducible apply List.mem_append_left)) ?_
    | with_reducible refine State.dropPage_touches (fun p hp => hW p (by unfold State.laceAbandon_foot; repeat first | with_reducible exact hp | with_reducible exact List.mem_append_right _ hp | with_reducible apply List.mem_append_left)) ?_
    | with_reducible refine Touches.ofPair (by assumption) (State.laceRecord_touches (fun p hp => hW p (by unfold State.laceAbandon_foot; repeat first | with_reducible exact hp | with_reducible exact List.mem_append_right _ hp | with_reducible apply List.mem_append_left)) ?_)
    | with_reducible refine State.laceRecord_touches (fun p hp => hW p (by unfold State.laceAbandon_foot; repeat first | with_reducible exact hp | with_reducible exact List.mem_append_right _ hp | with_reducible apply List.mem_append_left)) ?_
    | with_reducible refine State.laceIdle_touches (fun p hp => hW p (by unfold State.laceAbandon_foot; repeat first | with_reducible exact hp | with_reducible exact List.mem_append_right _ hp | with_reducible apply List.mem_append_left)) ?_
    | with_reducible refine State.laceNote_touches (fun p hp => hW p (by unfold State.laceAbandon_foot; repeat first | with_reducible exact hp | with_reducible exact List.mem_append_right _ hp | with_reducible apply List.mem_append_left)) ?_
    | split
    | with_reducible refine forN_touches ?_ (fun x k hx => ?_)
    | with_reducible refine foldl_touches ?_ (fun x a hx => ?_)
    | with_reducible refine foldlSnd_touches ?_ (fun x a hx => ?_)
    | with_reducible assumption

/-- The parts State.laceComplete touches. -/
def State.laceComplete_foot : List Part := [.reg .LC_BYTES, .reg .LC_DONE]

theorem State.laceComplete_touches {W : List Part} {σ τ : State} {n : Nat} {k : Nat} (hW : ∀ p ∈ State.laceComplete_foot, p ∈ W)
    (hT : Touches W σ τ) : Touches W σ (State.laceComplete τ n k) := by
  unfold State.laceComplete
  try dsimp only
  repeat' first
    | with_reducible apply Touches.ite
    | with_reducible refine State.bumpBy_touches (hW _ (by first | (simp [State.laceComplete_foot]; done) | (split <;> simp [State.laceComplete_foot] <;> done) | ((repeat' split) <;> simp [State.laceComplete_foot])))  ?_
    | split
    | with_reducible refine forN_touches ?_ (fun x k hx => ?_)
    | with_reducible refine foldl_touches ?_ (fun x a hx => ?_)
    | with_reducible refine foldlSnd_touches ?_ (fun x a hx => ?_)
    | with_reducible assumption

/-- The parts State.laceBegin touches. -/
def State.laceBegin_foot : List Part := [.reg .LC_STATE, .reg .iLC_HALF, .reg .iLC_NODESC, .reg .iLC_NEXT, .reg .iLC_EVENT, .reg .iLC_BURST, .reg .iLC_POS, .reg .LC_DONE, .reg .LC_CUR_ADDR, .reg .LC_CUR_DESC, .reg .iLC_WDRAW] ++ State.laceFail_foot

theorem State.laceBegin_touches {W : List Part} {σ τ : State} {n : Nat} {word : Nat} {addr : Nat} (hW : ∀ p ∈ State.laceBegin_foot, p ∈ W)
    (hT : Touches W σ τ) : Touches W σ (State.laceBegin τ n word addr) := by
  unfold State.laceBegin
  try dsimp only
  repeat' first
    | with_reducible apply Touches.ite
    | with_reducible refine State.setReg_touches (hW _ (by first | (simp [State.laceBegin_foot]; done) | (split <;> simp [State.laceBegin_foot] <;> done) | ((repeat' split) <;> simp [State.laceBegin_foot])))  ?_
    | with_reducible refine State.laceFail_touches (fun p hp => hW p (by unfold State.laceBegin_foot; repeat first | with_reducible exact hp | with_reducible exact List.mem_append_right _ hp | with_reducible apply List.mem_append_left)) ?_
    | split
    | with_reducible refine forN_touches ?_ (fun x k hx => ?_)
    | with_reducible refine foldl_touches ?_ (fun x a hx => ?_)
    | with_reducible refine foldlSnd_touches ?_ (fun x a hx => ?_)
    | with_reducible assumption

/-- The parts execLaceDescriptorStart touches. -/
def execLaceDescriptorStart_foot : List Part := [.reg .iLC_NODESC, .reg .iLC_NEXT, .reg .LC_DONE, .reg .LC_CUR_DESC, .reg .LC_CUR_ADDR, .reg .LC_SH_STATE, .fld .draws] ++ State.fetch_foot ++ State.see_foot ++ State.laceBegin_foot ++ State.laceFail_foot

theorem execLaceDescriptorStart_touches {W : List Part} {σ τ : State} {n : Fin 64} {seen : Seen} (hW : ∀ p ∈ execLaceDescriptorStart_foot, p ∈ W)
    (hT : Touches W σ τ) : OutTouches W σ (execLaceDescriptorStart n seen τ) := by
  unfold execLaceDescriptorStart
  try dsimp only
  repeat' first
    | with_reducible apply OutTouches.ite
    | with_reducible refine OutTouches.next ?_
    | with_reducible apply Touches.ite
    | with_reducible refine Touches.ofPair (by assumption) (State.fetch_touches (fun p hp => hW p (by unfold execLaceDescriptorStart_foot; repeat first | with_reducible exact hp | with_reducible exact List.mem_append_right _ hp | with_reducible apply List.mem_append_left)) ?_)
    | with_reducible refine State.fetch_touches (fun p hp => hW p (by unfold execLaceDescriptorStart_foot; repeat first | with_reducible exact hp | with_reducible exact List.mem_append_right _ hp | with_reducible apply List.mem_append_left)) ?_
    | with_reducible refine State.see_touches (fun p hp => hW p (by unfold execLaceDescriptorStart_foot; repeat first | with_reducible exact hp | with_reducible exact List.mem_append_right _ hp | with_reducible apply List.mem_append_left)) ?_
    | with_reducible refine State.laceBegin_touches (fun p hp => hW p (by unfold execLaceDescriptorStart_foot; repeat first | with_reducible exact hp | with_reducible exact List.mem_append_right _ hp | with_reducible apply List.mem_append_left)) ?_
    | with_reducible refine State.draw_touches (hW _ (by simp [execLaceDescriptorStart_foot])) ?_
    | with_reducible refine Touches.ofPair (by assumption) (State.draw_touches (hW _ (by simp [execLaceDescriptorStart_foot])) ?_)
    | with_reducible refine State.laceFail_touches (fun p hp => hW p (by unfold execLaceDescriptorStart_foot; repeat first | with_reducible exact hp | with_reducible exact List.mem_append_right _ hp | with_reducible apply List.mem_append_left)) ?_
    | with_reducible refine State.setReg_touches (hW _ (by first | (simp [execLaceDescriptorStart_foot]; done) | (split <;> simp [execLaceDescriptorStart_foot] <;> done) | ((repeat' split) <;> simp [execLaceDescriptorStart_foot])))  ?_
    | split
    | with_reducible refine forN_touches ?_ (fun x k hx => ?_)
    | with_reducible refine foldl_touches ?_ (fun x a hx => ?_)
    | with_reducible refine foldlSnd_touches ?_ (fun x a hx => ?_)
    | with_reducible assumption

/-- The parts execLcShDescWrite touches. -/
def execLcShDescWrite_foot : List Part := [.reg .LC_SH_DESC, .fld .status] ++ writeParam_foot

theorem execLcShDescWrite_touches {W : List Part} {σ τ : State} {acc : Accessor} {n : Fin 64} {d : BitVec 512} (hW : ∀ p ∈ execLcShDescWrite_foot, p ∈ W)
    (hT : Touches W σ τ) : OutTouches W σ (execLcShDescWrite acc n d τ) := by
  unfold execLcShDescWrite
  try dsimp only
  repeat' first
    | with_reducible apply OutTouches.ite
    | with_reducible refine OutTouches.next ?_
    | with_reducible apply Touches.ite
    | with_reducible refine writeParam_touches  (fun p hp => hW p (by unfold execLcShDescWrite_foot; repeat first | with_reducible exact hp | with_reducible exact List.mem_append_right _ hp | with_reducible apply List.mem_append_left)) ?_ (fun x  hx => ?_)
    | with_reducible refine State.refuse_touches (hW _ (by simp [execLcShDescWrite_foot])) ?_
    | with_reducible refine State.setReg_touches (hW _ (by first | (simp [execLcShDescWrite_foot]; done) | (split <;> simp [execLcShDescWrite_foot] <;> done) | ((repeat' split) <;> simp [execLcShDescWrite_foot])))  ?_
    | split
    | with_reducible refine forN_touches ?_ (fun x k hx => ?_)
    | with_reducible refine foldl_touches ?_ (fun x a hx => ?_)
    | with_reducible refine foldlSnd_touches ?_ (fun x a hx => ?_)
    | with_reducible assumption

/-- The parts execLcArm touches. -/
def execLcArm_foot : List Part := [.reg .LC_SH_STATE] ++ writeParam_foot

theorem execLcArm_touches {W : List Part} {σ τ : State} {acc : Accessor} {n : Fin 64} (hW : ∀ p ∈ execLcArm_foot, p ∈ W)
    (hT : Touches W σ τ) : OutTouches W σ (execLcArm acc n τ) := by
  unfold execLcArm
  try dsimp only
  repeat' first
    | with_reducible apply OutTouches.ite
    | with_reducible refine OutTouches.next ?_
    | with_reducible apply Touches.ite
    | with_reducible refine writeParam_touches  (fun p hp => hW p (by unfold execLcArm_foot; repeat first | with_reducible exact hp | with_reducible exact List.mem_append_right _ hp | with_reducible apply List.mem_append_left)) ?_ (fun x  hx => ?_)
    | with_reducible refine State.setReg_touches (hW _ (by first | (simp [execLcArm_foot]; done) | (split <;> simp [execLcArm_foot] <;> done) | ((repeat' split) <;> simp [execLcArm_foot])))  ?_
    | split
    | with_reducible refine forN_touches ?_ (fun x k hx => ?_)
    | with_reducible refine foldl_touches ?_ (fun x a hx => ?_)
    | with_reducible refine foldlSnd_touches ?_ (fun x a hx => ?_)
    | with_reducible assumption

/-- The parts execLcDisarm touches. -/
def execLcDisarm_foot : List Part := [.reg .LC_SH_STATE] ++ writeParam_foot

theorem execLcDisarm_touches {W : List Part} {σ τ : State} {acc : Accessor} {n : Fin 64} (hW : ∀ p ∈ execLcDisarm_foot, p ∈ W)
    (hT : Touches W σ τ) : OutTouches W σ (execLcDisarm acc n τ) := by
  unfold execLcDisarm
  try dsimp only
  repeat' first
    | with_reducible apply OutTouches.ite
    | with_reducible refine OutTouches.next ?_
    | with_reducible apply Touches.ite
    | with_reducible refine writeParam_touches  (fun p hp => hW p (by unfold execLcDisarm_foot; repeat first | with_reducible exact hp | with_reducible exact List.mem_append_right _ hp | with_reducible apply List.mem_append_left)) ?_ (fun x  hx => ?_)
    | with_reducible refine State.setReg_touches (hW _ (by first | (simp [execLcDisarm_foot]; done) | (split <;> simp [execLcDisarm_foot] <;> done) | ((repeat' split) <;> simp [execLcDisarm_foot])))  ?_
    | split
    | with_reducible refine forN_touches ?_ (fun x k hx => ?_)
    | with_reducible refine foldl_touches ?_ (fun x a hx => ?_)
    | with_reducible refine foldlSnd_touches ?_ (fun x a hx => ?_)
    | with_reducible assumption

/-- The parts State.laceRead touches. -/
def State.laceRead_foot : List Part := State.fetch_foot ++ State.keeperRead_foot ++ State.logBadGroup_foot ++ State.setRx_foot

theorem State.laceRead_touches {W : List Part} {σ τ : State} {k : Nat} {space : Nat} {a : Nat} {n : Nat} {portq : Nat} {host : List Byte} (hW : ∀ p ∈ State.laceRead_foot, p ∈ W)
    (hT : Touches W σ τ) : Touches W σ (State.laceRead τ k space a n portq host).2.2 := by
  unfold State.laceRead
  try dsimp only
  repeat' first
    | with_reducible apply Touches.iteSnd2
    | with_reducible apply Touches.ite
    | with_reducible refine Touches.ofPair (by assumption) (State.fetch_touches (fun p hp => hW p (by unfold State.laceRead_foot; repeat first | with_reducible exact hp | with_reducible exact List.mem_append_right _ hp | with_reducible apply List.mem_append_left)) ?_)
    | with_reducible refine State.fetch_touches (fun p hp => hW p (by unfold State.laceRead_foot; repeat first | with_reducible exact hp | with_reducible exact List.mem_append_right _ hp | with_reducible apply List.mem_append_left)) ?_
    | with_reducible refine Touches.ofTriple (by assumption) (State.keeperRead_touches (fun p hp => hW p (by unfold State.laceRead_foot; repeat first | with_reducible exact hp | with_reducible exact List.mem_append_right _ hp | with_reducible apply List.mem_append_left)) ?_)
    | with_reducible refine State.keeperRead_touches (fun p hp => hW p (by unfold State.laceRead_foot; repeat first | with_reducible exact hp | with_reducible exact List.mem_append_right _ hp | with_reducible apply List.mem_append_left)) ?_
    | with_reducible refine State.logBadGroup_touches (fun p hp => hW p (by unfold State.laceRead_foot; repeat first | with_reducible exact hp | with_reducible exact List.mem_append_right _ hp | with_reducible apply List.mem_append_left)) ?_
    | with_reducible refine State.setRx_touches (fun p hp => hW p (by unfold State.laceRead_foot; repeat first | with_reducible exact hp | with_reducible exact List.mem_append_right _ hp | with_reducible apply List.mem_append_left)) ?_
    | split
    | with_reducible refine forN_touches ?_ (fun x k hx => ?_)
    | with_reducible refine foldl_touches ?_ (fun x a hx => ?_)
    | with_reducible refine foldlSnd_touches ?_ (fun x a hx => ?_)
    | with_reducible assumption

/-- The parts State.laceStore touches. -/
def State.laceStore_foot : List Part := State.writePart_foot

theorem State.laceStore_touches {W : List Part} {σ τ : State} {k : Nat} {ps : List (Nat × Nat)} {data : List Byte}
    (hW : ∀ p ∈ State.laceStore_foot, p ∈ W) (hT : Touches W σ τ) :
    Touches W σ (State.laceStore τ k ps data).2.2 := by
  induction ps generalizing τ data with
  | nil => exact hT
  | cons e ps ih =>
    unfold State.laceStore
    dsimp only
    split
    · exact State.writePart_touches hW hT
    · exact ih (State.writePart_touches hW hT)

/-- The parts State.laceMoved touches. -/
def State.laceMoved_foot : List Part := [.reg .iLC_BURST, .reg .iLC_POS, .reg .LC_STATE]

theorem State.laceMoved_touches {W : List Part} {σ τ : State} {k : Nat} {n : Nat} (hW : ∀ p ∈ State.laceMoved_foot, p ∈ W)
    (hT : Touches W σ τ) : Touches W σ (State.laceMoved τ k n) := by
  unfold State.laceMoved
  try dsimp only
  repeat' first
    | with_reducible apply Touches.ite
    | with_reducible refine State.setReg_touches (hW _ (by first | (simp [State.laceMoved_foot]; done) | (split <;> simp [State.laceMoved_foot] <;> done) | ((repeat' split) <;> simp [State.laceMoved_foot])))  ?_
    | with_reducible refine State.bumpBy_touches (hW _ (by first | (simp [State.laceMoved_foot]; done) | (split <;> simp [State.laceMoved_foot] <;> done) | ((repeat' split) <;> simp [State.laceMoved_foot])))  ?_
    | split
    | with_reducible refine forN_touches ?_ (fun x k hx => ?_)
    | with_reducible refine foldl_touches ?_ (fun x a hx => ?_)
    | with_reducible refine foldlSnd_touches ?_ (fun x a hx => ?_)
    | with_reducible assumption

/-- The parts State.laceEgress touches. -/
def State.laceEgress_foot : List Part := [.fld .egress] ++ State.portStart_foot

theorem State.laceEgress_touches {W : List Part} {σ τ : State} {k : Nat} {d : LaceDesc} {bs : List Byte} (hW : ∀ p ∈ State.laceEgress_foot, p ∈ W)
    (hT : Touches W σ τ) : Touches W σ (State.laceEgress τ k d bs) := by
  unfold State.laceEgress
  try dsimp only
  repeat' first
    | with_reducible apply Touches.ite
    | with_reducible refine State.portStart_touches (fun p hp => hW p (by unfold State.laceEgress_foot; repeat first | with_reducible exact hp | with_reducible exact List.mem_append_right _ hp | with_reducible apply List.mem_append_left)) ?_
    | split
    | with_reducible refine forN_touches ?_ (fun x k hx => ?_)
    | with_reducible refine foldl_touches ?_ (fun x a hx => ?_)
    | with_reducible refine foldlSnd_touches ?_ (fun x a hx => ?_)
    | with_reducible assumption
    | with_reducible refine touches_mk (fun f => by cases f <;> first | exact .inr (by with_reducible rfl) | exact .inl (hW _ (by simp [State.laceEgress_foot]))) ?_

/-- The parts State.laceWrite touches. -/
def State.laceWrite_foot : List Part := [.reg .LC_STATE, .reg .iLC_PAGE, .fld .laceBytes, .fld .keeperQueue, .fld .sent] ++ State.laceStore_foot ++ State.laceMoved_foot ++ State.laceComplete_foot ++ State.laceFrozen_foot ++ State.laceEgress_foot

theorem State.laceWrite_touches {W : List Part} {σ τ : State} {k : Nat} {d : LaceDesc} {bs : List Byte} (hW : ∀ p ∈ State.laceWrite_foot, p ∈ W)
    (hT : Touches W σ τ) : Touches W σ (State.laceWrite τ k d bs) := by
  unfold State.laceWrite
  try dsimp only
  repeat' first
    | with_reducible apply Touches.ite
    | with_reducible refine Touches.ofTriple (by assumption) (State.laceStore_touches (fun p hp => hW p (by unfold State.laceWrite_foot; repeat first | with_reducible exact hp | with_reducible exact List.mem_append_right _ hp | with_reducible apply List.mem_append_left)) ?_)
    | with_reducible refine State.laceStore_touches (fun p hp => hW p (by unfold State.laceWrite_foot; repeat first | with_reducible exact hp | with_reducible exact List.mem_append_right _ hp | with_reducible apply List.mem_append_left)) ?_
    | with_reducible refine State.laceMoved_touches (fun p hp => hW p (by unfold State.laceWrite_foot; repeat first | with_reducible exact hp | with_reducible exact List.mem_append_right _ hp | with_reducible apply List.mem_append_left)) ?_
    | with_reducible refine State.laceComplete_touches (fun p hp => hW p (by unfold State.laceWrite_foot; repeat first | with_reducible exact hp | with_reducible exact List.mem_append_right _ hp | with_reducible apply List.mem_append_left)) ?_
    | with_reducible refine cond_touches ?_ (fun x hx => ?_)
    | with_reducible refine State.laceFrozen_touches (fun p hp => hW p (by unfold State.laceWrite_foot; repeat first | with_reducible exact hp | with_reducible exact List.mem_append_right _ hp | with_reducible apply List.mem_append_left)) ?_
    | with_reducible refine State.sendMore_touches (hW _ (by simp [State.laceWrite_foot])) ?_
    | with_reducible refine State.laceEgress_touches (fun p hp => hW p (by unfold State.laceWrite_foot; repeat first | with_reducible exact hp | with_reducible exact List.mem_append_right _ hp | with_reducible apply List.mem_append_left)) ?_
    | with_reducible refine State.setReg_touches (hW _ (by first | (simp [State.laceWrite_foot]; done) | (split <;> simp [State.laceWrite_foot] <;> done) | ((repeat' split) <;> simp [State.laceWrite_foot])))  ?_
    | split
    | with_reducible refine forN_touches ?_ (fun x k hx => ?_)
    | with_reducible refine foldl_touches ?_ (fun x a hx => ?_)
    | with_reducible refine foldlSnd_touches ?_ (fun x a hx => ?_)
    | with_reducible assumption
    | with_reducible refine touches_mk (fun f => by cases f <;> first | exact .inr (by with_reducible rfl) | exact .inl (hW _ (by simp [State.laceWrite_foot]))) ?_

/-- The parts State.postHalf touches. -/
def State.postHalf_foot : List Part := [.reg .iLC_HALF] ++ State.laceNote_foot

theorem State.postHalf_touches {W : List Part} {σ τ : State} {k : Nat} (hW : ∀ p ∈ State.postHalf_foot, p ∈ W)
    (hT : Touches W σ τ) : Touches W σ (State.postHalf τ k) := by
  unfold State.postHalf
  try dsimp only
  repeat' first
    | with_reducible apply Touches.ite
    | with_reducible refine State.laceNote_touches (fun p hp => hW p (by unfold State.postHalf_foot; repeat first | with_reducible exact hp | with_reducible exact List.mem_append_right _ hp | with_reducible apply List.mem_append_left)) ?_
    | with_reducible refine State.setReg_touches (hW _ (by first | (simp [State.postHalf_foot]; done) | (split <;> simp [State.postHalf_foot] <;> done) | ((repeat' split) <;> simp [State.postHalf_foot])))  ?_
    | split
    | with_reducible refine forN_touches ?_ (fun x k hx => ?_)
    | with_reducible refine foldl_touches ?_ (fun x a hx => ?_)
    | with_reducible refine foldlSnd_touches ?_ (fun x a hx => ?_)
    | with_reducible assumption

/-- The parts State.laceCompare touches. -/
def State.laceCompare_foot : List Part := State.laceRead_foot ++ State.laceFrozen_foot ++ State.laceComplete_foot ++ State.laceDone_foot ++ State.postHalf_foot ++ State.laceMoved_foot ++ State.laceFail_foot

theorem State.laceCompare_touches {W : List Part} {σ τ : State} {k : Nat} {d : LaceDesc} {xs : List Byte} {host : List Byte} (hW : ∀ p ∈ State.laceCompare_foot, p ∈ W)
    (hT : Touches W σ τ) : Touches W σ (State.laceCompare τ k d xs host) := by
  unfold State.laceCompare
  try dsimp only
  repeat' first
    | with_reducible apply Touches.ite
    | with_reducible refine Touches.ofTriple (by assumption) (State.laceRead_touches (fun p hp => hW p (by unfold State.laceCompare_foot; repeat first | with_reducible exact hp | with_reducible exact List.mem_append_right _ hp | with_reducible apply List.mem_append_left)) ?_)
    | with_reducible refine State.laceRead_touches (fun p hp => hW p (by unfold State.laceCompare_foot; repeat first | with_reducible exact hp | with_reducible exact List.mem_append_right _ hp | with_reducible apply List.mem_append_left)) ?_
    | with_reducible refine State.laceFrozen_touches (fun p hp => hW p (by unfold State.laceCompare_foot; repeat first | with_reducible exact hp | with_reducible exact List.mem_append_right _ hp | with_reducible apply List.mem_append_left)) ?_
    | with_reducible refine State.laceComplete_touches (fun p hp => hW p (by unfold State.laceCompare_foot; repeat first | with_reducible exact hp | with_reducible exact List.mem_append_right _ hp | with_reducible apply List.mem_append_left)) ?_
    | with_reducible refine State.laceDone_touches (fun p hp => hW p (by unfold State.laceCompare_foot; repeat first | with_reducible exact hp | with_reducible exact List.mem_append_right _ hp | with_reducible apply List.mem_append_left)) ?_
    | with_reducible refine cond_touches ?_ (fun x hx => ?_)
    | with_reducible refine State.postHalf_touches (fun p hp => hW p (by unfold State.laceCompare_foot; repeat first | with_reducible exact hp | with_reducible exact List.mem_append_right _ hp | with_reducible apply List.mem_append_left)) ?_
    | with_reducible refine State.laceMoved_touches (fun p hp => hW p (by unfold State.laceCompare_foot; repeat first | with_reducible exact hp | with_reducible exact List.mem_append_right _ hp | with_reducible apply List.mem_append_left)) ?_
    | with_reducible refine State.laceFail_touches (fun p hp => hW p (by unfold State.laceCompare_foot; repeat first | with_reducible exact hp | with_reducible exact List.mem_append_right _ hp | with_reducible apply List.mem_append_left)) ?_
    | split
    | with_reducible refine forN_touches ?_ (fun x k hx => ?_)
    | with_reducible refine foldl_touches ?_ (fun x a hx => ?_)
    | with_reducible refine foldlSnd_touches ?_ (fun x a hx => ?_)
    | with_reducible assumption

/-- The parts State.laceMove touches. -/
def State.laceMove_foot : List Part := State.laceRead_foot ++ State.laceFrozen_foot ++ State.laceCompare_foot ++ State.laceWrite_foot ++ State.laceFail_foot

theorem State.laceMove_touches {W : List Part} {σ τ : State} {k : Nat} {d : LaceDesc} {n : Nat} {src : List Byte} {dst : List Byte} (hW : ∀ p ∈ State.laceMove_foot, p ∈ W)
    (hT : Touches W σ τ) : Touches W σ (State.laceMove τ k d n src dst) := by
  unfold State.laceMove
  try dsimp only
  repeat' first
    | with_reducible apply Touches.ite
    | with_reducible refine Touches.ofTriple (by assumption) (State.laceRead_touches (fun p hp => hW p (by unfold State.laceMove_foot; repeat first | with_reducible exact hp | with_reducible exact List.mem_append_right _ hp | with_reducible apply List.mem_append_left)) ?_)
    | with_reducible refine State.laceRead_touches (fun p hp => hW p (by unfold State.laceMove_foot; repeat first | with_reducible exact hp | with_reducible exact List.mem_append_right _ hp | with_reducible apply List.mem_append_left)) ?_
    | with_reducible refine State.laceFrozen_touches (fun p hp => hW p (by unfold State.laceMove_foot; repeat first | with_reducible exact hp | with_reducible exact List.mem_append_right _ hp | with_reducible apply List.mem_append_left)) ?_
    | with_reducible refine State.laceCompare_touches (fun p hp => hW p (by unfold State.laceMove_foot; repeat first | with_reducible exact hp | with_reducible exact List.mem_append_right _ hp | with_reducible apply List.mem_append_left)) ?_
    | with_reducible refine State.laceWrite_touches (fun p hp => hW p (by unfold State.laceMove_foot; repeat first | with_reducible exact hp | with_reducible exact List.mem_append_right _ hp | with_reducible apply List.mem_append_left)) ?_
    | with_reducible refine State.laceFail_touches (fun p hp => hW p (by unfold State.laceMove_foot; repeat first | with_reducible exact hp | with_reducible exact List.mem_append_right _ hp | with_reducible apply List.mem_append_left)) ?_
    | split
    | with_reducible refine forN_touches ?_ (fun x k hx => ?_)
    | with_reducible refine foldl_touches ?_ (fun x a hx => ?_)
    | with_reducible refine foldlSnd_touches ?_ (fun x a hx => ?_)
    | with_reducible assumption

/-- The parts State.noteWithdrawn touches. -/
def State.noteWithdrawn_foot : List Part := [.reg .iLC_WDRAW, .reg .LC_WITHDRAWN]

theorem State.noteWithdrawn_touches {W : List Part} {σ τ : State} {k : Nat} {withdrawn : Bool} {from_ : State} (hW : ∀ p ∈ State.noteWithdrawn_foot, p ∈ W)
    (hT : Touches W σ τ) : Touches W σ (State.noteWithdrawn τ k withdrawn from_) := by
  unfold State.noteWithdrawn
  try dsimp only
  repeat' first
    | with_reducible apply Touches.ite
    | with_reducible refine cond_touches ?_ (fun x hx => ?_)
    | with_reducible refine State.setReg_touches (hW _ (by first | (simp [State.noteWithdrawn_foot]; done) | (split <;> simp [State.noteWithdrawn_foot] <;> done) | ((repeat' split) <;> simp [State.noteWithdrawn_foot])))  ?_
    | with_reducible refine State.bump_touches (hW _ (by first | (simp [State.noteWithdrawn_foot]; done) | (split <;> simp [State.noteWithdrawn_foot] <;> done) | ((repeat' split) <;> simp [State.noteWithdrawn_foot])))  ?_
    | split
    | with_reducible refine forN_touches ?_ (fun x k hx => ?_)
    | with_reducible refine foldl_touches ?_ (fun x a hx => ?_)
    | with_reducible refine foldlSnd_touches ?_ (fun x a hx => ?_)
    | with_reducible assumption

/-- The parts execLaceBurst touches. -/
def execLaceBurst_foot : List Part := [.reg .LC_STATE, .reg .iLC_WDRAW, .reg .iLC_BURST, .reg .iLC_EVENT, .fld .sent] ++ State.see_foot ++ State.noteWithdrawn_foot ++ State.laceMove_foot

theorem execLaceBurst_touches {W : List Part} {σ τ : State} {n : Fin 64} {src : List Byte} {dst : List Byte} {withdrawn : Bool} {seen : Seen} (hW : ∀ p ∈ execLaceBurst_foot, p ∈ W)
    (hT : Touches W σ τ) : OutTouches W σ (execLaceBurst n src dst withdrawn seen τ) := by
  unfold execLaceBurst
  try dsimp only
  repeat' first
    | with_reducible apply OutTouches.ite
    | with_reducible refine OutTouches.next ?_
    | with_reducible apply Touches.ite
    | with_reducible refine State.setReg_touches (hW _ (by first | (simp [execLaceBurst_foot]; done) | (split <;> simp [execLaceBurst_foot] <;> done) | ((repeat' split) <;> simp [execLaceBurst_foot])))  ?_
    | with_reducible refine cond_touches ?_ (fun x hx => ?_)
    | with_reducible refine State.send_touches (hW _ (by simp [execLaceBurst_foot])) ?_
    | with_reducible refine State.see_touches (fun p hp => hW p (by unfold execLaceBurst_foot; repeat first | with_reducible exact hp | with_reducible exact List.mem_append_right _ hp | with_reducible apply List.mem_append_left)) ?_
    | with_reducible refine State.noteWithdrawn_touches (fun p hp => hW p (by unfold execLaceBurst_foot; repeat first | with_reducible exact hp | with_reducible exact List.mem_append_right _ hp | with_reducible apply List.mem_append_left)) ?_
    | with_reducible refine State.laceMove_touches (fun p hp => hW p (by unfold execLaceBurst_foot; repeat first | with_reducible exact hp | with_reducible exact List.mem_append_right _ hp | with_reducible apply List.mem_append_left)) ?_
    | split
    | with_reducible refine forN_touches ?_ (fun x k hx => ?_)
    | with_reducible refine foldl_touches ?_ (fun x a hx => ?_)
    | with_reducible refine foldlSnd_touches ?_ (fun x a hx => ?_)
    | with_reducible assumption

/-- The parts State.hostComplete touches. -/
def State.hostComplete_foot : List Part := State.laceComplete_foot

theorem State.hostComplete_touches {W : List Part} {σ τ : State} {k : Nat} (hW : ∀ p ∈ State.hostComplete_foot, p ∈ W)
    (hT : Touches W σ τ) : Touches W σ (State.hostComplete τ k) := by
  unfold State.hostComplete
  try dsimp only
  repeat' first
    | with_reducible apply Touches.ite
    | with_reducible refine State.laceComplete_touches (fun p hp => hW p (by unfold State.hostComplete_foot; repeat first | with_reducible exact hp | with_reducible exact List.mem_append_right _ hp | with_reducible apply List.mem_append_left)) ?_
    | split
    | with_reducible refine forN_touches ?_ (fun x k hx => ?_)
    | with_reducible refine foldl_touches ?_ (fun x a hx => ?_)
    | with_reducible refine foldlSnd_touches ?_ (fun x a hx => ?_)
    | with_reducible assumption

/-- The parts execLaceHalf touches. -/
def execLaceHalf_foot : List Part := State.hostComplete_foot ++ State.postHalf_foot

theorem execLaceHalf_touches {W : List Part} {σ τ : State} {n : Fin 64} (hW : ∀ p ∈ execLaceHalf_foot, p ∈ W)
    (hT : Touches W σ τ) : OutTouches W σ (execLaceHalf n τ) := by
  unfold execLaceHalf
  try dsimp only
  repeat' first
    | with_reducible apply OutTouches.ite
    | with_reducible refine OutTouches.next ?_
    | with_reducible apply Touches.ite
    | with_reducible refine State.hostComplete_touches (fun p hp => hW p (by unfold execLaceHalf_foot; repeat first | with_reducible exact hp | with_reducible exact List.mem_append_right _ hp | with_reducible apply List.mem_append_left)) ?_
    | with_reducible refine cond_touches ?_ (fun x hx => ?_)
    | with_reducible refine State.postHalf_touches (fun p hp => hW p (by unfold execLaceHalf_foot; repeat first | with_reducible exact hp | with_reducible exact List.mem_append_right _ hp | with_reducible apply List.mem_append_left)) ?_
    | split
    | with_reducible refine forN_touches ?_ (fun x k hx => ?_)
    | with_reducible refine foldl_touches ?_ (fun x a hx => ?_)
    | with_reducible refine foldlSnd_touches ?_ (fun x a hx => ?_)
    | with_reducible assumption

/-- The parts execLaceComplete touches. -/
def execLaceComplete_foot : List Part := State.hostComplete_foot ++ State.see_foot ++ State.laceDone_foot ++ State.postHalf_foot

theorem execLaceComplete_touches {W : List Part} {σ τ : State} {n : Fin 64} {seen : Seen} (hW : ∀ p ∈ execLaceComplete_foot, p ∈ W)
    (hT : Touches W σ τ) : OutTouches W σ (execLaceComplete n seen τ) := by
  unfold execLaceComplete
  try dsimp only
  repeat' first
    | with_reducible apply OutTouches.ite
    | with_reducible refine OutTouches.next ?_
    | with_reducible apply Touches.ite
    | with_reducible refine State.hostComplete_touches (fun p hp => hW p (by unfold execLaceComplete_foot; repeat first | with_reducible exact hp | with_reducible exact List.mem_append_right _ hp | with_reducible apply List.mem_append_left)) ?_
    | with_reducible refine State.see_touches (fun p hp => hW p (by unfold execLaceComplete_foot; repeat first | with_reducible exact hp | with_reducible exact List.mem_append_right _ hp | with_reducible apply List.mem_append_left)) ?_
    | with_reducible refine State.laceDone_touches (fun p hp => hW p (by unfold execLaceComplete_foot; repeat first | with_reducible exact hp | with_reducible exact List.mem_append_right _ hp | with_reducible apply List.mem_append_left)) ?_
    | with_reducible refine cond_touches ?_ (fun x hx => ?_)
    | with_reducible refine State.postHalf_touches (fun p hp => hW p (by unfold execLaceComplete_foot; repeat first | with_reducible exact hp | with_reducible exact List.mem_append_right _ hp | with_reducible apply List.mem_append_left)) ?_
    | split
    | with_reducible refine forN_touches ?_ (fun x k hx => ?_)
    | with_reducible refine foldl_touches ?_ (fun x a hx => ?_)
    | with_reducible refine foldlSnd_touches ?_ (fun x a hx => ?_)
    | with_reducible assumption

/-- The parts execLaceError touches. -/
def execLaceError_foot : List Part := [.fld .keeperBad, .fld .sent] ++ State.laceWrite_foot ++ State.laceFail_foot ++ State.logBadGroup_foot

theorem execLaceError_touches {W : List Part} {σ τ : State} {n : Fin 64} {e : LaceFault} (hW : ∀ p ∈ execLaceError_foot, p ∈ W)
    (hT : Touches W σ τ) : OutTouches W σ (execLaceError n e τ) := by
  unfold execLaceError
  try dsimp only
  repeat' first
    | with_reducible apply OutTouches.ite
    | with_reducible refine OutTouches.next ?_
    | with_reducible apply Touches.ite
    | with_reducible refine State.laceWrite_touches (fun p hp => hW p (by unfold execLaceError_foot; repeat first | with_reducible exact hp | with_reducible exact List.mem_append_right _ hp | with_reducible apply List.mem_append_left)) ?_
    | with_reducible refine State.send_touches (hW _ (by simp [execLaceError_foot])) ?_
    | with_reducible refine State.laceFail_touches (fun p hp => hW p (by unfold execLaceError_foot; repeat first | with_reducible exact hp | with_reducible exact List.mem_append_right _ hp | with_reducible apply List.mem_append_left)) ?_
    | with_reducible refine State.logBadGroup_touches (fun p hp => hW p (by unfold execLaceError_foot; repeat first | with_reducible exact hp | with_reducible exact List.mem_append_right _ hp | with_reducible apply List.mem_append_left)) ?_
    | split
    | with_reducible refine forN_touches ?_ (fun x k hx => ?_)
    | with_reducible refine foldl_touches ?_ (fun x a hx => ?_)
    | with_reducible refine foldlSnd_touches ?_ (fun x a hx => ?_)
    | with_reducible assumption
    | with_reducible refine touches_mk (fun f => by cases f <;> first | exact .inr (by with_reducible rfl) | exact .inl (hW _ (by simp [execLaceError_foot]))) ?_

/-- The parts State.busError touches. -/
def State.busError_foot : List Part := [.reg .LS_BUS_ERRORS, .reg .iLS_ADDR, .reg .iLS_LACE, .reg .iLS_CAUSE, .reg .LS_BUS_STATE]

theorem State.busError_touches {W : List Part} {σ τ : State} {lace : Nat} {cause : Nat} {addr : Nat} (hW : ∀ p ∈ State.busError_foot, p ∈ W)
    (hT : Touches W σ τ) : Touches W σ (State.busError τ lace cause addr) := by
  unfold State.busError
  try dsimp only
  repeat' first
    | with_reducible apply Touches.ite
    | with_reducible refine State.bump_touches (hW _ (by first | (simp [State.busError_foot]; done) | (split <;> simp [State.busError_foot] <;> done) | ((repeat' split) <;> simp [State.busError_foot])))  ?_
    | with_reducible refine State.setReg_touches (hW _ (by first | (simp [State.busError_foot]; done) | (split <;> simp [State.busError_foot] <;> done) | ((repeat' split) <;> simp [State.busError_foot])))  ?_
    | split
    | with_reducible refine forN_touches ?_ (fun x k hx => ?_)
    | with_reducible refine foldl_touches ?_ (fun x a hx => ?_)
    | with_reducible refine foldlSnd_touches ?_ (fun x a hx => ?_)
    | with_reducible assumption

/-- The parts execLaceBusError touches. -/
def execLaceBusError_foot : List Part := State.busError_foot

theorem execLaceBusError_touches {W : List Part} {σ τ : State} {n : Fin 64} {cause : Fin 6} {addr : BitVec 64} (hW : ∀ p ∈ execLaceBusError_foot, p ∈ W)
    (hT : Touches W σ τ) : OutTouches W σ (execLaceBusError n cause addr τ) := by
  unfold execLaceBusError
  try dsimp only
  repeat' first
    | with_reducible apply OutTouches.ite
    | with_reducible refine OutTouches.next ?_
    | with_reducible apply Touches.ite
    | with_reducible refine State.busError_touches (fun p hp => hW p (by unfold execLaceBusError_foot; repeat first | with_reducible exact hp | with_reducible exact List.mem_append_right _ hp | with_reducible apply List.mem_append_left)) ?_
    | split
    | with_reducible refine forN_touches ?_ (fun x k hx => ?_)
    | with_reducible refine foldl_touches ?_ (fun x a hx => ?_)
    | with_reducible refine foldlSnd_touches ?_ (fun x a hx => ?_)
    | with_reducible assumption

/-- The parts State.stopLace touches. -/
def State.stopLace_foot : List Part := [.reg .LC_STATE, .reg .LC_DONE, .fld .laceBytes] ++ State.dropPartial_foot ++ State.dropPage_foot

theorem State.stopLace_touches {W : List Part} {σ τ : State} {n : Nat} (hW : ∀ p ∈ State.stopLace_foot, p ∈ W)
    (hT : Touches W σ τ) : Touches W σ (State.stopLace τ n) := by
  unfold State.stopLace
  try dsimp only
  repeat' first
    | with_reducible apply Touches.ite
    | with_reducible refine State.setReg_touches (hW _ (by first | (simp [State.stopLace_foot]; done) | (split <;> simp [State.stopLace_foot] <;> done) | ((repeat' split) <;> simp [State.stopLace_foot])))  ?_
    | with_reducible refine State.dropPartial_touches (fun p hp => hW p (by unfold State.stopLace_foot; repeat first | with_reducible exact hp | with_reducible exact List.mem_append_right _ hp | with_reducible apply List.mem_append_left)) ?_
    | with_reducible refine State.dropPage_touches (fun p hp => hW p (by unfold State.stopLace_foot; repeat first | with_reducible exact hp | with_reducible exact List.mem_append_right _ hp | with_reducible apply List.mem_append_left)) ?_
    | split
    | with_reducible refine forN_touches ?_ (fun x k hx => ?_)
    | with_reducible refine foldl_touches ?_ (fun x a hx => ?_)
    | with_reducible refine foldlSnd_touches ?_ (fun x a hx => ?_)
    | with_reducible assumption
    | with_reducible refine touches_mk (fun f => by cases f <;> first | exact .inr (by with_reducible rfl) | exact .inl (hW _ (by simp [State.stopLace_foot]))) ?_

/-- The parts execLaceBusStopped touches. -/
def execLaceBusStopped_foot : List Part := [.reg .LS_BUS_ADDR, .reg .LS_BUS_LACE, .reg .LS_BUS_CAUSE, .reg .LS_BUS_STATE] ++ State.stopLace_foot ++ State.raise_foot

theorem execLaceBusStopped_touches {W : List Part} {σ τ : State}  (hW : ∀ p ∈ execLaceBusStopped_foot, p ∈ W)
    (hT : Touches W σ τ) : OutTouches W σ (execLaceBusStopped τ) := by
  unfold execLaceBusStopped
  try dsimp only
  repeat' first
    | with_reducible apply OutTouches.ite
    | with_reducible refine OutTouches.next ?_
    | with_reducible apply Touches.ite
    | with_reducible refine State.setReg_touches (hW _ (by first | (simp [execLaceBusStopped_foot]; done) | (split <;> simp [execLaceBusStopped_foot] <;> done) | ((repeat' split) <;> simp [execLaceBusStopped_foot])))  ?_
    | with_reducible refine State.stopLace_touches (fun p hp => hW p (by unfold execLaceBusStopped_foot; repeat first | with_reducible exact hp | with_reducible exact List.mem_append_right _ hp | with_reducible apply List.mem_append_left)) ?_
    | with_reducible refine State.raise_touches (fun p hp => hW p (by unfold execLaceBusStopped_foot; repeat first | with_reducible exact hp | with_reducible exact List.mem_append_right _ hp | with_reducible apply List.mem_append_left)) ?_
    | split
    | with_reducible refine forN_touches ?_ (fun x k hx => ?_)
    | with_reducible refine foldl_touches ?_ (fun x a hx => ?_)
    | with_reducible refine foldlSnd_touches ?_ (fun x a hx => ?_)
    | with_reducible assumption

/-- The parts execLsBusClear touches. -/
def execLsBusClear_foot : List Part := [.reg .LS_BUS_STATE, .fld .status] ++ writeParam_foot

theorem execLsBusClear_touches {W : List Part} {σ τ : State} {acc : Accessor} (hW : ∀ p ∈ execLsBusClear_foot, p ∈ W)
    (hT : Touches W σ τ) : OutTouches W σ (execLsBusClear acc τ) := by
  unfold execLsBusClear
  try dsimp only
  repeat' first
    | with_reducible apply OutTouches.ite
    | with_reducible refine OutTouches.next ?_
    | with_reducible apply Touches.ite
    | with_reducible refine writeParam_touches  (fun p hp => hW p (by unfold execLsBusClear_foot; repeat first | with_reducible exact hp | with_reducible exact List.mem_append_right _ hp | with_reducible apply List.mem_append_left)) ?_ (fun x  hx => ?_)
    | with_reducible refine State.setReg_touches (hW _ (by first | (simp [execLsBusClear_foot]; done) | (split <;> simp [execLsBusClear_foot] <;> done) | ((repeat' split) <;> simp [execLsBusClear_foot])))  ?_
    | with_reducible refine State.refuse_touches (hW _ (by simp [execLsBusClear_foot])) ?_
    | split
    | with_reducible refine forN_touches ?_ (fun x k hx => ?_)
    | with_reducible refine foldl_touches ?_ (fun x a hx => ?_)
    | with_reducible refine foldlSnd_touches ?_ (fun x a hx => ?_)
    | with_reducible assumption

/-- The parts State.laceResume touches. -/
def State.laceResume_foot : List Part := [.reg .LC_STATE, .reg .iLC_NEXT, .reg .iLC_NODESC, .reg .iLC_EVENT, .reg .iLC_BURST, .reg .iLC_POS, .reg .LC_DONE] ++ State.laceFail_foot

theorem State.laceResume_touches {W : List Part} {σ τ : State} {n : Nat} (hW : ∀ p ∈ State.laceResume_foot, p ∈ W)
    (hT : Touches W σ τ) : Touches W σ (State.laceResume τ n) := by
  unfold State.laceResume
  try dsimp only
  repeat' first
    | with_reducible apply Touches.ite
    | with_reducible refine State.setReg_touches (hW _ (by first | (simp [State.laceResume_foot]; done) | (split <;> simp [State.laceResume_foot] <;> done) | ((repeat' split) <;> simp [State.laceResume_foot])))  ?_
    | with_reducible refine State.laceFail_touches (fun p hp => hW p (by unfold State.laceResume_foot; repeat first | with_reducible exact hp | with_reducible exact List.mem_append_right _ hp | with_reducible apply List.mem_append_left)) ?_
    | split
    | with_reducible refine forN_touches ?_ (fun x k hx => ?_)
    | with_reducible refine foldl_touches ?_ (fun x a hx => ?_)
    | with_reducible refine foldlSnd_touches ?_ (fun x a hx => ?_)
    | with_reducible assumption

/-- The parts execLcCtrlResume touches. -/
def execLcCtrlResume_foot : List Part := writeParam_foot ++ State.laceResume_foot

theorem execLcCtrlResume_touches {W : List Part} {σ τ : State} {acc : Accessor} {n : Fin 64} (hW : ∀ p ∈ execLcCtrlResume_foot, p ∈ W)
    (hT : Touches W σ τ) : OutTouches W σ (execLcCtrlResume acc n τ) := by
  unfold execLcCtrlResume
  try dsimp only
  repeat' first
    | with_reducible apply OutTouches.ite
    | with_reducible refine OutTouches.next ?_
    | with_reducible apply Touches.ite
    | with_reducible refine writeParam_touches  (fun p hp => hW p (by unfold execLcCtrlResume_foot; repeat first | with_reducible exact hp | with_reducible exact List.mem_append_right _ hp | with_reducible apply List.mem_append_left)) ?_ (fun x  hx => ?_)
    | with_reducible refine cond_touches ?_ (fun x hx => ?_)
    | with_reducible refine State.laceResume_touches (fun p hp => hW p (by unfold execLcCtrlResume_foot; repeat first | with_reducible exact hp | with_reducible exact List.mem_append_right _ hp | with_reducible apply List.mem_append_left)) ?_
    | split
    | with_reducible refine forN_touches ?_ (fun x k hx => ?_)
    | with_reducible refine foldl_touches ?_ (fun x a hx => ?_)
    | with_reducible refine foldlSnd_touches ?_ (fun x a hx => ?_)
    | with_reducible assumption

/-- The parts execLcCtrlAbandon touches. -/
def execLcCtrlAbandon_foot : List Part := [.reg .iLC_NEXT] ++ writeParam_foot ++ State.laceIdle_foot ++ State.dropPartial_foot

theorem execLcCtrlAbandon_touches {W : List Part} {σ τ : State} {acc : Accessor} {n : Fin 64} (hW : ∀ p ∈ execLcCtrlAbandon_foot, p ∈ W)
    (hT : Touches W σ τ) : OutTouches W σ (execLcCtrlAbandon acc n τ) := by
  unfold execLcCtrlAbandon
  try dsimp only
  repeat' first
    | with_reducible apply OutTouches.ite
    | with_reducible refine OutTouches.next ?_
    | with_reducible apply Touches.ite
    | with_reducible refine writeParam_touches  (fun p hp => hW p (by unfold execLcCtrlAbandon_foot; repeat first | with_reducible exact hp | with_reducible exact List.mem_append_right _ hp | with_reducible apply List.mem_append_left)) ?_ (fun x  hx => ?_)
    | with_reducible refine cond_touches ?_ (fun x hx => ?_)
    | with_reducible refine State.laceIdle_touches (fun p hp => hW p (by unfold execLcCtrlAbandon_foot; repeat first | with_reducible exact hp | with_reducible exact List.mem_append_right _ hp | with_reducible apply List.mem_append_left)) ?_
    | with_reducible refine State.setReg_touches (hW _ (by first | (simp [execLcCtrlAbandon_foot]; done) | (split <;> simp [execLcCtrlAbandon_foot] <;> done) | ((repeat' split) <;> simp [execLcCtrlAbandon_foot])))  ?_
    | with_reducible refine State.dropPartial_touches (fun p hp => hW p (by unfold execLcCtrlAbandon_foot; repeat first | with_reducible exact hp | with_reducible exact List.mem_append_right _ hp | with_reducible apply List.mem_append_left)) ?_
    | split
    | with_reducible refine forN_touches ?_ (fun x k hx => ?_)
    | with_reducible refine foldl_touches ?_ (fun x a hx => ?_)
    | with_reducible refine foldlSnd_touches ?_ (fun x a hx => ?_)
    | with_reducible assumption

/-- The parts State.laceDisable touches. -/
def State.laceDisable_foot : List Part := [.reg .LC_ENABLE, .reg .iLC_NEXT, .reg .LC_CUR_ADDR, .fld .keepPending] ++ State.laceIdle_foot ++ State.laceAbandon_foot

theorem State.laceDisable_touches {W : List Part} {σ τ : State} {n : Nat} (hW : ∀ p ∈ State.laceDisable_foot, p ∈ W)
    (hT : Touches W σ τ) : Touches W σ (State.laceDisable τ n) := by
  unfold State.laceDisable
  try dsimp only
  repeat' first
    | with_reducible apply Touches.ite
    | with_reducible refine State.putReg_touches (hW _ (by first | (simp [State.laceDisable_foot]; done) | (split <;> simp [State.laceDisable_foot] <;> done) | ((repeat' split) <;> simp [State.laceDisable_foot]))) (hW _ (by simp [State.laceDisable_foot])) ?_
    | with_reducible refine State.laceIdle_touches (fun p hp => hW p (by unfold State.laceDisable_foot; repeat first | with_reducible exact hp | with_reducible exact List.mem_append_right _ hp | with_reducible apply List.mem_append_left)) ?_
    | with_reducible refine State.setReg_touches (hW _ (by first | (simp [State.laceDisable_foot]; done) | (split <;> simp [State.laceDisable_foot] <;> done) | ((repeat' split) <;> simp [State.laceDisable_foot])))  ?_
    | with_reducible refine State.laceAbandon_touches (fun p hp => hW p (by unfold State.laceDisable_foot; repeat first | with_reducible exact hp | with_reducible exact List.mem_append_right _ hp | with_reducible apply List.mem_append_left)) ?_
    | split
    | with_reducible refine forN_touches ?_ (fun x k hx => ?_)
    | with_reducible refine foldl_touches ?_ (fun x a hx => ?_)
    | with_reducible refine foldlSnd_touches ?_ (fun x a hx => ?_)
    | with_reducible assumption

/-- The parts State.laceEnable touches. -/
def State.laceEnable_foot : List Part := [.reg .LC_ENABLE, .reg .LC_STATE, .fld .status, .fld .keepPending]

theorem State.laceEnable_touches {W : List Part} {σ τ : State} {n : Nat} (hW : ∀ p ∈ State.laceEnable_foot, p ∈ W)
    (hT : Touches W σ τ) : Touches W σ (State.laceEnable τ n) := by
  unfold State.laceEnable
  try dsimp only
  repeat' first
    | with_reducible apply Touches.ite
    | with_reducible refine State.refuse_touches (hW _ (by simp [State.laceEnable_foot])) ?_
    | with_reducible refine cond_touches ?_ (fun x hx => ?_)
    | with_reducible refine State.putReg_touches (hW _ (by first | (simp [State.laceEnable_foot]; done) | (split <;> simp [State.laceEnable_foot] <;> done) | ((repeat' split) <;> simp [State.laceEnable_foot]))) (hW _ (by simp [State.laceEnable_foot])) ?_
    | with_reducible refine State.setReg_touches (hW _ (by first | (simp [State.laceEnable_foot]; done) | (split <;> simp [State.laceEnable_foot] <;> done) | ((repeat' split) <;> simp [State.laceEnable_foot])))  ?_
    | split
    | with_reducible refine forN_touches ?_ (fun x k hx => ?_)
    | with_reducible refine foldl_touches ?_ (fun x a hx => ?_)
    | with_reducible refine foldlSnd_touches ?_ (fun x a hx => ?_)
    | with_reducible assumption

/-- The parts execLcEnableDisable touches. -/
def execLcEnableDisable_foot : List Part := writeParam_foot ++ State.laceDisable_foot

theorem execLcEnableDisable_touches {W : List Part} {σ τ : State} {acc : Accessor} {n : Fin 64} (hW : ∀ p ∈ execLcEnableDisable_foot, p ∈ W)
    (hT : Touches W σ τ) : OutTouches W σ (execLcEnableDisable acc n τ) := by
  unfold execLcEnableDisable
  try dsimp only
  repeat' first
    | with_reducible apply OutTouches.ite
    | with_reducible refine OutTouches.next ?_
    | with_reducible apply Touches.ite
    | with_reducible refine writeParam_touches  (fun p hp => hW p (by unfold execLcEnableDisable_foot; repeat first | with_reducible exact hp | with_reducible exact List.mem_append_right _ hp | with_reducible apply List.mem_append_left)) ?_ (fun x  hx => ?_)
    | with_reducible refine State.laceDisable_touches (fun p hp => hW p (by unfold execLcEnableDisable_foot; repeat first | with_reducible exact hp | with_reducible exact List.mem_append_right _ hp | with_reducible apply List.mem_append_left)) ?_
    | split
    | with_reducible refine forN_touches ?_ (fun x k hx => ?_)
    | with_reducible refine foldl_touches ?_ (fun x a hx => ?_)
    | with_reducible refine foldlSnd_touches ?_ (fun x a hx => ?_)
    | with_reducible assumption

/-- The parts execLcEnableResume touches. -/
def execLcEnableResume_foot : List Part := writeParam_foot ++ State.laceEnable_foot

theorem execLcEnableResume_touches {W : List Part} {σ τ : State} {acc : Accessor} {n : Fin 64} (hW : ∀ p ∈ execLcEnableResume_foot, p ∈ W)
    (hT : Touches W σ τ) : OutTouches W σ (execLcEnableResume acc n τ) := by
  unfold execLcEnableResume
  try dsimp only
  repeat' first
    | with_reducible apply OutTouches.ite
    | with_reducible refine OutTouches.next ?_
    | with_reducible apply Touches.ite
    | with_reducible refine writeParam_touches  (fun p hp => hW p (by unfold execLcEnableResume_foot; repeat first | with_reducible exact hp | with_reducible exact List.mem_append_right _ hp | with_reducible apply List.mem_append_left)) ?_ (fun x  hx => ?_)
    | with_reducible refine State.laceEnable_touches (fun p hp => hW p (by unfold execLcEnableResume_foot; repeat first | with_reducible exact hp | with_reducible exact List.mem_append_right _ hp | with_reducible apply List.mem_append_left)) ?_
    | split
    | with_reducible refine forN_touches ?_ (fun x k hx => ?_)
    | with_reducible refine foldl_touches ?_ (fun x a hx => ?_)
    | with_reducible refine foldlSnd_touches ?_ (fun x a hx => ?_)
    | with_reducible assumption

/-- The parts State.lacePageDone touches. -/
def State.lacePageDone_foot : List Part := [.reg .iLC_PAGE, .reg .LC_STATE, .reg .iLC_POS] ++ State.laceComplete_foot ++ State.laceAbandon_foot

theorem State.lacePageDone_touches {W : List Part} {σ τ : State} {n : Nat} (hW : ∀ p ∈ State.lacePageDone_foot, p ∈ W)
    (hT : Touches W σ τ) : Touches W σ (State.lacePageDone τ n) := by
  unfold State.lacePageDone
  try dsimp only
  repeat' first
    | with_reducible apply Touches.ite
    | with_reducible refine State.laceComplete_touches (fun p hp => hW p (by unfold State.lacePageDone_foot; repeat first | with_reducible exact hp | with_reducible exact List.mem_append_right _ hp | with_reducible apply List.mem_append_left)) ?_
    | with_reducible refine State.setReg_touches (hW _ (by first | (simp [State.lacePageDone_foot]; done) | (split <;> simp [State.lacePageDone_foot] <;> done) | ((repeat' split) <;> simp [State.lacePageDone_foot])))  ?_
    | with_reducible refine State.laceAbandon_touches (fun p hp => hW p (by unfold State.lacePageDone_foot; repeat first | with_reducible exact hp | with_reducible exact List.mem_append_right _ hp | with_reducible apply List.mem_append_left)) ?_
    | split
    | with_reducible refine forN_touches ?_ (fun x k hx => ?_)
    | with_reducible refine foldl_touches ?_ (fun x a hx => ?_)
    | with_reducible refine foldlSnd_touches ?_ (fun x a hx => ?_)
    | with_reducible assumption

/-- The parts State.lacePageRefused touches. -/
def State.lacePageRefused_foot : List Part := [.reg .iLC_PAGE] ++ State.laceFail_foot

theorem State.lacePageRefused_touches {W : List Part} {σ τ : State} {n : Nat} (hW : ∀ p ∈ State.lacePageRefused_foot, p ∈ W)
    (hT : Touches W σ τ) : Touches W σ (State.lacePageRefused τ n) := by
  unfold State.lacePageRefused
  try dsimp only
  repeat' first
    | with_reducible apply Touches.ite
    | with_reducible refine State.setReg_touches (hW _ (by first | (simp [State.lacePageRefused_foot]; done) | (split <;> simp [State.lacePageRefused_foot] <;> done) | ((repeat' split) <;> simp [State.lacePageRefused_foot])))  ?_
    | with_reducible refine State.laceFail_touches (fun p hp => hW p (by unfold State.lacePageRefused_foot; repeat first | with_reducible exact hp | with_reducible exact List.mem_append_right _ hp | with_reducible apply List.mem_append_left)) ?_
    | split
    | with_reducible refine forN_touches ?_ (fun x k hx => ?_)
    | with_reducible refine foldl_touches ?_ (fun x a hx => ?_)
    | with_reducible refine foldlSnd_touches ?_ (fun x a hx => ?_)
    | with_reducible assumption

/-- The parts State.releaseLace touches. -/
def State.releaseLace_foot : List Part := [.reg .iLC_NEXT] ++ State.laceIdle_foot ++ State.dropPartial_foot ++ State.dropPage_foot

theorem State.releaseLace_touches {W : List Part} {σ τ : State} {n : Nat} (hW : ∀ p ∈ State.releaseLace_foot, p ∈ W)
    (hT : Touches W σ τ) : Touches W σ (State.releaseLace τ n) := by
  unfold State.releaseLace
  try dsimp only
  repeat' first
    | with_reducible apply Touches.ite
    | with_reducible refine State.laceIdle_touches (fun p hp => hW p (by unfold State.releaseLace_foot; repeat first | with_reducible exact hp | with_reducible exact List.mem_append_right _ hp | with_reducible apply List.mem_append_left)) ?_
    | with_reducible refine State.setReg_touches (hW _ (by first | (simp [State.releaseLace_foot]; done) | (split <;> simp [State.releaseLace_foot] <;> done) | ((repeat' split) <;> simp [State.releaseLace_foot])))  ?_
    | with_reducible refine State.dropPartial_touches (fun p hp => hW p (by unfold State.releaseLace_foot; repeat first | with_reducible exact hp | with_reducible exact List.mem_append_right _ hp | with_reducible apply List.mem_append_left)) ?_
    | with_reducible refine State.dropPage_touches (fun p hp => hW p (by unfold State.releaseLace_foot; repeat first | with_reducible exact hp | with_reducible exact List.mem_append_right _ hp | with_reducible apply List.mem_append_left)) ?_
    | split
    | with_reducible refine forN_touches ?_ (fun x k hx => ?_)
    | with_reducible refine foldl_touches ?_ (fun x a hx => ?_)
    | with_reducible refine foldlSnd_touches ?_ (fun x a hx => ?_)
    | with_reducible assumption

end Sys2Proof.Machine
end

