-- ==== Sys2Proof/Laws/TouchesKeeperCmds.lean ====
section
/-! SUPPORT. What the functions of Machine/KeeperCmds.lean touch. -/
namespace Sys2Proof.Machine
set_option linter.all false

/-- The parts State.pageRefused touches. -/
def State.pageRefused_foot : List Part := [.fld .keeperQueue, .fld .triPending] ++ State.lacePageRefused_foot ++ State.keeperRefuse_foot ++ State.recordRefused_foot

theorem State.pageRefused_touches {W : List Part} {σ τ : State} {w : PageWrite} (hW : ∀ p ∈ State.pageRefused_foot, p ∈ W)
    (hT : Touches W σ τ) : Touches W σ (State.pageRefused τ w) := by
  unfold State.pageRefused
  try dsimp only
  repeat' first
    | with_reducible apply Touches.ite
    | with_reducible refine State.lacePageRefused_touches (fun p hp => hW p (by unfold State.pageRefused_foot; repeat first | with_reducible exact hp | with_reducible exact List.mem_append_right _ hp | with_reducible apply List.mem_append_left)) ?_
    | with_reducible refine State.keeperRefuse_touches (fun p hp => hW p (by unfold State.pageRefused_foot; repeat first | with_reducible exact hp | with_reducible exact List.mem_append_right _ hp | with_reducible apply List.mem_append_left)) ?_
    | with_reducible refine State.recordRefused_touches (fun p hp => hW p (by unfold State.pageRefused_foot; repeat first | with_reducible exact hp | with_reducible exact List.mem_append_right _ hp | with_reducible apply List.mem_append_left)) ?_
    | split
    | with_reducible refine forN_touches ?_ (fun x k hx => ?_)
    | with_reducible refine foldl_touches ?_ (fun x a hx => ?_)
    | with_reducible refine foldlSnd_touches ?_ (fun x a hx => ?_)
    | with_reducible assumption
    | with_reducible refine touches_mk (fun f => by cases f <;> first | exact .inr (by with_reducible rfl) | exact .inl (hW _ (by simp [State.pageRefused_foot]))) ?_

/-- The parts State.pageStart touches. -/
def State.pageStart_foot : List Part := [.reg .KP_WRITES, .reg .KP_BUSY, .reg .LC_STATE, .fld .keeperQueue, .fld .keeperBusy]

theorem State.pageStart_touches {W : List Part} {σ τ : State} {w : PageWrite} (hW : ∀ p ∈ State.pageStart_foot, p ∈ W)
    (hT : Touches W σ τ) : Touches W σ (State.pageStart τ w) := by
  unfold State.pageStart
  try dsimp only
  repeat' first
    | with_reducible apply Touches.ite
    | with_reducible refine State.bump_touches (hW _ (by first | (simp [State.pageStart_foot]; done) | (split <;> simp [State.pageStart_foot] <;> done) | ((repeat' split) <;> simp [State.pageStart_foot])))  ?_
    | with_reducible refine State.setReg_touches (hW _ (by first | (simp [State.pageStart_foot]; done) | (split <;> simp [State.pageStart_foot] <;> done) | ((repeat' split) <;> simp [State.pageStart_foot])))  ?_
    | split
    | with_reducible refine forN_touches ?_ (fun x k hx => ?_)
    | with_reducible refine foldl_touches ?_ (fun x a hx => ?_)
    | with_reducible refine foldlSnd_touches ?_ (fun x a hx => ?_)
    | with_reducible assumption
    | with_reducible refine touches_mk (fun f => by cases f <;> first | exact .inr (by with_reducible rfl) | exact .inl (hW _ (by simp [State.pageStart_foot]))) ?_

/-- The parts execKeeperWriteStart touches. -/
def execKeeperWriteStart_foot : List Part := [.fld .grants, .fld .highReqs, .fld .normalReqs] ++ State.pageRefused_foot ++ State.pageStart_foot

theorem execKeeperWriteStart_touches {W : List Part} {σ τ : State} {bank : Fin 4} (hW : ∀ p ∈ execKeeperWriteStart_foot, p ∈ W)
    (hT : Touches W σ τ) : OutTouches W σ (execKeeperWriteStart bank τ) := by
  unfold execKeeperWriteStart
  try dsimp only
  repeat' first
    | with_reducible apply OutTouches.ite
    | with_reducible refine OutTouches.next ?_
    | with_reducible apply Touches.ite
    | with_reducible refine State.release_touches (hW _ (by simp [execKeeperWriteStart_foot])) (hW _ (by simp [execKeeperWriteStart_foot])) (hW _ (by simp [execKeeperWriteStart_foot])) ?_
    | with_reducible refine State.pageRefused_touches (fun p hp => hW p (by unfold execKeeperWriteStart_foot; repeat first | with_reducible exact hp | with_reducible exact List.mem_append_right _ hp | with_reducible apply List.mem_append_left)) ?_
    | with_reducible refine State.pageStart_touches (fun p hp => hW p (by unfold execKeeperWriteStart_foot; repeat first | with_reducible exact hp | with_reducible exact List.mem_append_right _ hp | with_reducible apply List.mem_append_left)) ?_
    | with_reducible refine State.request_touches (hW _ (by simp [execKeeperWriteStart_foot])) (hW _ (by simp [execKeeperWriteStart_foot])) ?_
    | split
    | with_reducible refine forN_touches ?_ (fun x k hx => ?_)
    | with_reducible refine foldl_touches ?_ (fun x a hx => ?_)
    | with_reducible refine foldlSnd_touches ?_ (fun x a hx => ?_)
    | with_reducible assumption

/-- The parts State.triDone touches. -/
def State.triDone_foot : List Part := [.reg .iTRI] ++ State.requestTri_foot

theorem State.triDone_touches {W : List Part} {σ τ : State} {word : Nat} {value : Nat} {copy : Nat} (hW : ∀ p ∈ State.triDone_foot, p ∈ W)
    (hT : Touches W σ τ) : Touches W σ (State.triDone τ word value copy) := by
  unfold State.triDone
  try dsimp only
  repeat' first
    | with_reducible apply Touches.ite
    | with_reducible refine State.setReg_touches (hW _ (by first | (simp [State.triDone_foot]; done) | (split <;> simp [State.triDone_foot] <;> done) | ((repeat' split) <;> simp [State.triDone_foot])))  ?_
    | with_reducible refine State.requestTri_touches (fun p hp => hW p (by unfold State.triDone_foot; repeat first | with_reducible exact hp | with_reducible exact List.mem_append_right _ hp | with_reducible apply List.mem_append_left)) ?_
    | split
    | with_reducible refine forN_touches ?_ (fun x k hx => ?_)
    | with_reducible refine foldl_touches ?_ (fun x a hx => ?_)
    | with_reducible refine foldlSnd_touches ?_ (fun x a hx => ?_)
    | with_reducible assumption

/-- The parts State.recordEnd touches. -/
def State.recordEnd_foot : List Part := [.fld .records, .fld .keepPending] ++ State.writeTri_foot

theorem State.recordEnd_touches {W : List Part} {σ τ : State} {r : RecordWrite} (hW : ∀ p ∈ State.recordEnd_foot, p ∈ W)
    (hT : Touches W σ τ) : Touches W σ (State.recordEnd τ r) := by
  unfold State.recordEnd
  try dsimp only
  repeat' first
    | with_reducible apply Touches.ite
    | with_reducible refine State.writeTri_touches (fun p hp => hW p (by unfold State.recordEnd_foot; repeat first | with_reducible exact hp | with_reducible exact List.mem_append_right _ hp | with_reducible apply List.mem_append_left)) ?_
    | split
    | with_reducible refine forN_touches ?_ (fun x k hx => ?_)
    | with_reducible refine foldl_touches ?_ (fun x a hx => ?_)
    | with_reducible refine foldlSnd_touches ?_ (fun x a hx => ?_)
    | with_reducible assumption
    | with_reducible refine touches_mk (fun f => by cases f <;> first | exact .inr (by with_reducible rfl) | exact .inl (hW _ (by simp [State.recordEnd_foot]))) ?_

/-- The parts State.recordPart touches. -/
def State.recordPart_foot : List Part := [.fld .records] ++ State.recordEnd_foot ++ State.nextPart_foot ++ State.recordRefused_foot

theorem State.recordPart_touches {W : List Part} {σ τ : State} {id : Nat} (hW : ∀ p ∈ State.recordPart_foot, p ∈ W)
    (hT : Touches W σ τ) : Touches W σ (State.recordPart τ id) := by
  unfold State.recordPart
  try dsimp only
  repeat' first
    | with_reducible apply Touches.ite
    | with_reducible refine State.recordEnd_touches (fun p hp => hW p (by unfold State.recordPart_foot; repeat first | with_reducible exact hp | with_reducible exact List.mem_append_right _ hp | with_reducible apply List.mem_append_left)) ?_
    | with_reducible refine State.nextPart_touches (fun p hp => hW p (by unfold State.recordPart_foot; repeat first | with_reducible exact hp | with_reducible exact List.mem_append_right _ hp | with_reducible apply List.mem_append_left)) (by assumption) ?_
    | with_reducible refine getD_touches (fun υ e => State.nextPart_touches (fun p hp => hW p (by unfold State.recordPart_foot; repeat first | with_reducible exact hp | with_reducible exact List.mem_append_right _ hp | with_reducible apply List.mem_append_left)) e ?_) ?_
    | with_reducible refine State.recordRefused_touches (fun p hp => hW p (by unfold State.recordPart_foot; repeat first | with_reducible exact hp | with_reducible exact List.mem_append_right _ hp | with_reducible apply List.mem_append_left)) ?_
    | split
    | with_reducible refine forN_touches ?_ (fun x k hx => ?_)
    | with_reducible refine foldl_touches ?_ (fun x a hx => ?_)
    | with_reducible refine foldlSnd_touches ?_ (fun x a hx => ?_)
    | with_reducible assumption
    | with_reducible refine touches_mk (fun f => by cases f <;> first | exact .inr (by with_reducible rfl) | exact .inl (hW _ (by simp [State.recordPart_foot]))) ?_

/-- The parts State.pageDone touches. -/
def State.pageDone_foot : List Part := [.reg .KP_BUSY, .reg .iTRI, .fld .keeperBusy, .fld .grants, .fld .highReqs, .fld .normalReqs] ++ State.lacePageDone_foot ++ State.keeperPage_foot ++ State.recordPart_foot ++ State.triDone_foot

theorem State.pageDone_touches {W : List Part} {σ τ : State} {w : PageWrite} (hW : ∀ p ∈ State.pageDone_foot, p ∈ W)
    (hT : Touches W σ τ) : Touches W σ (State.pageDone τ w) := by
  unfold State.pageDone
  try dsimp only
  repeat' first
    | with_reducible apply Touches.ite
    | with_reducible refine State.release_touches (hW _ (by simp [State.pageDone_foot])) (hW _ (by simp [State.pageDone_foot])) (hW _ (by simp [State.pageDone_foot])) ?_
    | with_reducible refine State.setReg_touches (hW _ (by first | (simp [State.pageDone_foot]; done) | (split <;> simp [State.pageDone_foot] <;> done) | ((repeat' split) <;> simp [State.pageDone_foot])))  ?_
    | with_reducible refine State.lacePageDone_touches (fun p hp => hW p (by unfold State.pageDone_foot; repeat first | with_reducible exact hp | with_reducible exact List.mem_append_right _ hp | with_reducible apply List.mem_append_left)) ?_
    | with_reducible refine State.keeperPage_touches (fun p hp => hW p (by unfold State.pageDone_foot; repeat first | with_reducible exact hp | with_reducible exact List.mem_append_right _ hp | with_reducible apply List.mem_append_left)) ?_
    | with_reducible refine State.recordPart_touches (fun p hp => hW p (by unfold State.pageDone_foot; repeat first | with_reducible exact hp | with_reducible exact List.mem_append_right _ hp | with_reducible apply List.mem_append_left)) ?_
    | with_reducible refine State.triDone_touches (fun p hp => hW p (by unfold State.pageDone_foot; repeat first | with_reducible exact hp | with_reducible exact List.mem_append_right _ hp | with_reducible apply List.mem_append_left)) ?_
    | split
    | with_reducible refine forN_touches ?_ (fun x k hx => ?_)
    | with_reducible refine foldl_touches ?_ (fun x a hx => ?_)
    | with_reducible refine foldlSnd_touches ?_ (fun x a hx => ?_)
    | with_reducible assumption
    | with_reducible refine touches_mk (fun f => by cases f <;> first | exact .inr (by with_reducible rfl) | exact .inl (hW _ (by simp [State.pageDone_foot]))) ?_

/-- The parts execKeeperWriteDone touches. -/
def execKeeperWriteDone_foot : List Part := State.pageDone_foot

theorem execKeeperWriteDone_touches {W : List Part} {σ τ : State} {bank : Fin 4} (hW : ∀ p ∈ execKeeperWriteDone_foot, p ∈ W)
    (hT : Touches W σ τ) : OutTouches W σ (execKeeperWriteDone bank τ) := by
  unfold execKeeperWriteDone
  try dsimp only
  repeat' first
    | with_reducible apply OutTouches.ite
    | with_reducible refine OutTouches.next ?_
    | with_reducible apply Touches.ite
    | with_reducible refine State.pageDone_touches (fun p hp => hW p (by unfold execKeeperWriteDone_foot; repeat first | with_reducible exact hp | with_reducible exact List.mem_append_right _ hp | with_reducible apply List.mem_append_left)) ?_
    | split
    | with_reducible refine forN_touches ?_ (fun x k hx => ?_)
    | with_reducible refine foldl_touches ?_ (fun x a hx => ?_)
    | with_reducible refine foldlSnd_touches ?_ (fun x a hx => ?_)
    | with_reducible assumption

/-- The parts State.writeRecord touches. -/
def State.writeRecord_foot : List Part := State.startRecord_foot

theorem State.writeRecord_touches {W : List Part} {σ τ : State} {index : Nat} (hW : ∀ p ∈ State.writeRecord_foot, p ∈ W)
    (hT : Touches W σ τ) : Touches W σ (State.writeRecord τ index) := by
  unfold State.writeRecord
  try dsimp only
  repeat' first
    | with_reducible apply Touches.ite
    | with_reducible refine State.startRecord_touches (fun p hp => hW p (by unfold State.writeRecord_foot; repeat first | with_reducible exact hp | with_reducible exact List.mem_append_right _ hp | with_reducible apply List.mem_append_left)) ?_
    | split
    | with_reducible refine forN_touches ?_ (fun x k hx => ?_)
    | with_reducible refine foldl_touches ?_ (fun x a hx => ?_)
    | with_reducible refine foldlSnd_touches ?_ (fun x a hx => ?_)
    | with_reducible assumption

/-- The parts execKeepWrite touches. -/
def execKeepWrite_foot : List Part := State.writeRecord_foot

theorem execKeepWrite_touches {W : List Part} {σ τ : State}  (hW : ∀ p ∈ execKeepWrite_foot, p ∈ W)
    (hT : Touches W σ τ) : OutTouches W σ (execKeepWrite τ) := by
  unfold execKeepWrite
  try dsimp only
  repeat' first
    | with_reducible apply OutTouches.ite
    | with_reducible refine OutTouches.next ?_
    | with_reducible apply Touches.ite
    | with_reducible refine State.writeRecord_touches (fun p hp => hW p (by unfold execKeepWrite_foot; repeat first | with_reducible exact hp | with_reducible exact List.mem_append_right _ hp | with_reducible apply List.mem_append_left)) ?_
    | split
    | with_reducible refine forN_touches ?_ (fun x k hx => ?_)
    | with_reducible refine foldl_touches ?_ (fun x a hx => ?_)
    | with_reducible refine foldlSnd_touches ?_ (fun x a hx => ?_)
    | with_reducible assumption

/-- The parts State.retryTri touches. -/
def State.retryTri_foot : List Part := State.writeTri_foot ++ State.repairTri_foot

theorem State.retryTri_touches {W : List Part} {σ τ : State} {p : PageBy} (hW : ∀ p ∈ State.retryTri_foot, p ∈ W)
    (hT : Touches W σ τ) : Touches W σ (State.retryTri τ p) := by
  unfold State.retryTri
  try dsimp only
  repeat' first
    | with_reducible apply Touches.ite
    | with_reducible refine State.writeTri_touches (fun p hp => hW p (by unfold State.retryTri_foot; repeat first | with_reducible exact hp | with_reducible exact List.mem_append_right _ hp | with_reducible apply List.mem_append_left)) ?_
    | with_reducible refine State.repairTri_touches (fun p hp => hW p (by unfold State.retryTri_foot; repeat first | with_reducible exact hp | with_reducible exact List.mem_append_right _ hp | with_reducible apply List.mem_append_left)) ?_
    | split
    | with_reducible refine forN_touches ?_ (fun x k hx => ?_)
    | with_reducible refine foldl_touches ?_ (fun x a hx => ?_)
    | with_reducible refine foldlSnd_touches ?_ (fun x a hx => ?_)
    | with_reducible assumption

/-- The parts execKeepRetry touches. -/
def execKeepRetry_foot : List Part := [.reg .iKEEP_TRY, .fld .keepDeferred, .fld .triPending] ++ State.writeRecord_foot ++ State.nextPart_foot ++ State.recordRefused_foot ++ State.retryTri_foot

theorem execKeepRetry_touches {W : List Part} {σ τ : State}  (hW : ∀ p ∈ execKeepRetry_foot, p ∈ W)
    (hT : Touches W σ τ) : OutTouches W σ (execKeepRetry τ) := by
  unfold execKeepRetry
  try dsimp only
  repeat' first
    | with_reducible apply OutTouches.ite
    | with_reducible refine OutTouches.next ?_
    | with_reducible apply Touches.ite
    | with_reducible refine State.setReg_touches (hW _ (by first | (simp [execKeepRetry_foot]; done) | (split <;> simp [execKeepRetry_foot] <;> done) | ((repeat' split) <;> simp [execKeepRetry_foot])))  ?_
    | with_reducible refine State.writeRecord_touches (fun p hp => hW p (by unfold execKeepRetry_foot; repeat first | with_reducible exact hp | with_reducible exact List.mem_append_right _ hp | with_reducible apply List.mem_append_left)) ?_
    | with_reducible refine State.nextPart_touches (fun p hp => hW p (by unfold execKeepRetry_foot; repeat first | with_reducible exact hp | with_reducible exact List.mem_append_right _ hp | with_reducible apply List.mem_append_left)) (by assumption) ?_
    | with_reducible refine getD_touches (fun υ e => State.nextPart_touches (fun p hp => hW p (by unfold execKeepRetry_foot; repeat first | with_reducible exact hp | with_reducible exact List.mem_append_right _ hp | with_reducible apply List.mem_append_left)) e ?_) ?_
    | with_reducible refine State.recordRefused_touches (fun p hp => hW p (by unfold execKeepRetry_foot; repeat first | with_reducible exact hp | with_reducible exact List.mem_append_right _ hp | with_reducible apply List.mem_append_left)) ?_
    | with_reducible refine State.retryTri_touches (fun p hp => hW p (by unfold execKeepRetry_foot; repeat first | with_reducible exact hp | with_reducible exact List.mem_append_right _ hp | with_reducible apply List.mem_append_left)) ?_
    | split
    | with_reducible refine forN_touches ?_ (fun x k hx => ?_)
    | with_reducible refine foldl_touches ?_ (fun x a hx => ?_)
    | with_reducible refine foldlSnd_touches ?_ (fun x a hx => ?_)
    | with_reducible assumption
    | with_reducible refine touches_mk (fun f => by cases f <;> first | exact .inr (by with_reducible rfl) | exact .inl (hW _ (by simp [execKeepRetry_foot]))) ?_

/-- The parts execKpProtectWrite touches. -/
def execKpProtectWrite_foot : List Part := [.reg .KP_PROTECT] ++ writeParam_foot ++ State.putTri_foot

theorem execKpProtectWrite_touches {W : List Part} {σ τ : State} {acc : Accessor} {v : BitVec 8} (hW : ∀ p ∈ execKpProtectWrite_foot, p ∈ W)
    (hT : Touches W σ τ) : OutTouches W σ (execKpProtectWrite acc v τ) := by
  unfold execKpProtectWrite
  try dsimp only
  repeat' first
    | with_reducible apply OutTouches.ite
    | with_reducible refine OutTouches.next ?_
    | with_reducible apply Touches.ite
    | with_reducible refine writeParam_touches  (fun p hp => hW p (by unfold execKpProtectWrite_foot; repeat first | with_reducible exact hp | with_reducible exact List.mem_append_right _ hp | with_reducible apply List.mem_append_left)) ?_ (fun x  hx => ?_)
    | with_reducible refine State.putTri_touches (hW _ (by first | (simp [execKpProtectWrite_foot]; done) | (split <;> simp [execKpProtectWrite_foot] <;> done) | ((repeat' split) <;> simp [execKpProtectWrite_foot]))) (fun p hp => hW p (by unfold execKpProtectWrite_foot; repeat first | with_reducible exact hp | with_reducible exact List.mem_append_right _ hp | with_reducible apply List.mem_append_left)) ?_
    | split
    | with_reducible refine forN_touches ?_ (fun x k hx => ?_)
    | with_reducible refine foldl_touches ?_ (fun x a hx => ?_)
    | with_reducible refine foldlSnd_touches ?_ (fun x a hx => ?_)
    | with_reducible assumption

/-- The parts State.scrubFix touches. -/
def State.scrubFix_foot : List Part := [.fld .keeperQueue]

theorem State.scrubFix_touches {W : List Part} {σ τ : State} {page : Nat} (hW : ∀ p ∈ State.scrubFix_foot, p ∈ W)
    (hT : Touches W σ τ) : Touches W σ (State.scrubFix τ page) := by
  unfold State.scrubFix
  try dsimp only
  repeat' first
    | with_reducible apply Touches.ite
    | split
    | with_reducible refine forN_touches ?_ (fun x k hx => ?_)
    | with_reducible refine foldl_touches ?_ (fun x a hx => ?_)
    | with_reducible refine foldlSnd_touches ?_ (fun x a hx => ?_)
    | with_reducible assumption
    | with_reducible refine touches_mk (fun f => by cases f <;> first | exact .inr (by with_reducible rfl) | exact .inl (hW _ (by simp [State.scrubFix_foot]))) ?_

/-- The parts State.scrubBad touches. -/
def State.scrubBad_foot : List Part := [.reg .SC_UNCORRECTABLE, .fld .keeperBad] ++ State.logBadGroup_foot ++ State.resolveAll_foot

theorem State.scrubBad_touches {W : List Part} {σ τ : State} {page : Nat} {g : Nat} (hW : ∀ p ∈ State.scrubBad_foot, p ∈ W)
    (hT : Touches W σ τ) : Touches W σ (State.scrubBad τ page g) := by
  unfold State.scrubBad
  try dsimp only
  repeat' first
    | with_reducible apply Touches.ite
    | with_reducible refine State.bump_touches (hW _ (by first | (simp [State.scrubBad_foot]; done) | (split <;> simp [State.scrubBad_foot] <;> done) | ((repeat' split) <;> simp [State.scrubBad_foot])))  ?_
    | with_reducible refine State.logBadGroup_touches (fun p hp => hW p (by unfold State.scrubBad_foot; repeat first | with_reducible exact hp | with_reducible exact List.mem_append_right _ hp | with_reducible apply List.mem_append_left)) ?_
    | with_reducible refine State.resolveAll_touches (fun p hp => hW p (by unfold State.scrubBad_foot; repeat first | with_reducible exact hp | with_reducible exact List.mem_append_right _ hp | with_reducible apply List.mem_append_left)) ?_
    | split
    | with_reducible refine forN_touches ?_ (fun x k hx => ?_)
    | with_reducible refine foldl_touches ?_ (fun x a hx => ?_)
    | with_reducible refine foldlSnd_touches ?_ (fun x a hx => ?_)
    | with_reducible assumption
    | with_reducible refine touches_mk (fun f => by cases f <;> first | exact .inr (by with_reducible rfl) | exact .inl (hW _ (by simp [State.scrubBad_foot]))) ?_

/-- The parts execKeeperScrub touches. -/
def execKeeperScrub_foot : List Part := [.reg .SC_STATE, .reg .SC_CORRECTED, .reg .SC_POSITION] ++ State.scrubSlow_foot ++ State.openLap_foot ++ State.scrubBad_foot ++ State.scrubFix_foot ++ State.lapEnd_foot ++ State.scrubOff_foot

theorem execKeeperScrub_touches {W : List Part} {σ τ : State} {found : List (Fin 16 × Finding)} (hW : ∀ p ∈ execKeeperScrub_foot, p ∈ W)
    (hT : Touches W σ τ) : OutTouches W σ (execKeeperScrub found τ) := by
  unfold execKeeperScrub
  try dsimp only
  repeat' first
    | with_reducible apply OutTouches.ite
    | with_reducible refine OutTouches.next ?_
    | with_reducible apply Touches.ite
    | with_reducible refine State.setReg_touches (hW _ (by first | (simp [execKeeperScrub_foot]; done) | (split <;> simp [execKeeperScrub_foot] <;> done) | ((repeat' split) <;> simp [execKeeperScrub_foot])))  ?_
    | with_reducible refine State.scrubSlow_touches (fun p hp => hW p (by unfold execKeeperScrub_foot; repeat first | with_reducible exact hp | with_reducible exact List.mem_append_right _ hp | with_reducible apply List.mem_append_left)) ?_
    | with_reducible refine State.openLap_touches (fun p hp => hW p (by unfold execKeeperScrub_foot; repeat first | with_reducible exact hp | with_reducible exact List.mem_append_right _ hp | with_reducible apply List.mem_append_left)) ?_
    | with_reducible refine State.scrubBad_touches (fun p hp => hW p (by unfold execKeeperScrub_foot; repeat first | with_reducible exact hp | with_reducible exact List.mem_append_right _ hp | with_reducible apply List.mem_append_left)) ?_
    | with_reducible refine State.bumpBy_touches (hW _ (by first | (simp [execKeeperScrub_foot]; done) | (split <;> simp [execKeeperScrub_foot] <;> done) | ((repeat' split) <;> simp [execKeeperScrub_foot])))  ?_
    | with_reducible refine State.scrubFix_touches (fun p hp => hW p (by unfold execKeeperScrub_foot; repeat first | with_reducible exact hp | with_reducible exact List.mem_append_right _ hp | with_reducible apply List.mem_append_left)) ?_
    | with_reducible refine State.lapEnd_touches (fun p hp => hW p (by unfold execKeeperScrub_foot; repeat first | with_reducible exact hp | with_reducible exact List.mem_append_right _ hp | with_reducible apply List.mem_append_left)) ?_
    | with_reducible refine State.scrubOff_touches (fun p hp => hW p (by unfold execKeeperScrub_foot; repeat first | with_reducible exact hp | with_reducible exact List.mem_append_right _ hp | with_reducible apply List.mem_append_left)) ?_
    | split
    | with_reducible refine forN_touches ?_ (fun x k hx => ?_)
    | with_reducible refine foldl_touches ?_ (fun x a hx => ?_)
    | with_reducible refine foldlSnd_touches ?_ (fun x a hx => ?_)
    | with_reducible assumption

/-- The parts State.voteWord touches. -/
def State.voteWord_foot : List Part := [.reg .KP_TRI_REPAIRS, .reg .KP_TRI_NOVOTE] ++ State.repairTri_foot ++ State.raise_foot

theorem State.voteWord_touches {W : List Part} {σ τ : State} {w : Nat} (hW : ∀ p ∈ State.voteWord_foot, p ∈ W)
    (hT : Touches W σ τ) : Touches W σ (State.voteWord τ w) := by
  unfold State.voteWord
  try dsimp only
  repeat' first
    | with_reducible apply Touches.ite
    | with_reducible refine cond_touches ?_ (fun x hx => ?_)
    | with_reducible refine State.bumpBy_touches (hW _ (by first | (simp [State.voteWord_foot]; done) | (split <;> simp [State.voteWord_foot] <;> done) | ((repeat' split) <;> simp [State.voteWord_foot])))  ?_
    | with_reducible refine State.bump_touches (hW _ (by first | (simp [State.voteWord_foot]; done) | (split <;> simp [State.voteWord_foot] <;> done) | ((repeat' split) <;> simp [State.voteWord_foot])))  ?_
    | with_reducible refine State.repairTri_touches (fun p hp => hW p (by unfold State.voteWord_foot; repeat first | with_reducible exact hp | with_reducible exact List.mem_append_right _ hp | with_reducible apply List.mem_append_left)) ?_
    | with_reducible refine State.raise_touches (fun p hp => hW p (by unfold State.voteWord_foot; repeat first | with_reducible exact hp | with_reducible exact List.mem_append_right _ hp | with_reducible apply List.mem_append_left)) ?_
    | split
    | with_reducible refine forN_touches ?_ (fun x k hx => ?_)
    | with_reducible refine foldl_touches ?_ (fun x a hx => ?_)
    | with_reducible refine foldlSnd_touches ?_ (fun x a hx => ?_)
    | with_reducible assumption

/-- The parts State.loadComparators touches. -/
def State.loadComparators_foot : List Part := [.reg .iCMP_SHUT, .reg .iCMP_RESTART]

theorem State.loadComparators_touches {W : List Part} {σ τ : State}  (hW : ∀ p ∈ State.loadComparators_foot, p ∈ W)
    (hT : Touches W σ τ) : Touches W σ (State.loadComparators τ) := by
  unfold State.loadComparators
  try dsimp only
  repeat' first
    | with_reducible apply Touches.ite
    | with_reducible refine State.setReg_touches (hW _ (by first | (simp [State.loadComparators_foot]; done) | (split <;> simp [State.loadComparators_foot] <;> done) | ((repeat' split) <;> simp [State.loadComparators_foot])))  ?_
    | split
    | with_reducible refine forN_touches ?_ (fun x k hx => ?_)
    | with_reducible refine foldl_touches ?_ (fun x a hx => ?_)
    | with_reducible refine foldlSnd_touches ?_ (fun x a hx => ?_)
    | with_reducible assumption

/-- The parts execTriwordVote touches. -/
def execTriwordVote_foot : List Part := [.reg .iTRI] ++ State.loadComparators_foot ++ State.voteWord_foot

theorem execTriwordVote_touches {W : List Part} {σ τ : State} {drift : List (Fin 3 × Fin 16 × BitVec 64)} (hW : ∀ p ∈ execTriwordVote_foot, p ∈ W)
    (hT : Touches W σ τ) : OutTouches W σ (execTriwordVote drift τ) := by
  unfold execTriwordVote
  try dsimp only
  repeat' first
    | with_reducible apply OutTouches.ite
    | with_reducible refine OutTouches.next ?_
    | with_reducible apply Touches.ite
    | with_reducible refine State.setReg_touches (hW _ (by first | (simp [execTriwordVote_foot]; done) | (split <;> simp [execTriwordVote_foot] <;> done) | ((repeat' split) <;> simp [execTriwordVote_foot])))  ?_
    | with_reducible refine State.loadComparators_touches (fun p hp => hW p (by unfold execTriwordVote_foot; repeat first | with_reducible exact hp | with_reducible exact List.mem_append_right _ hp | with_reducible apply List.mem_append_left)) ?_
    | with_reducible refine State.voteWord_touches (fun p hp => hW p (by unfold execTriwordVote_foot; repeat first | with_reducible exact hp | with_reducible exact List.mem_append_right _ hp | with_reducible apply List.mem_append_left)) ?_
    | split
    | with_reducible refine forN_touches ?_ (fun x k hx => ?_)
    | with_reducible refine foldl_touches ?_ (fun x a hx => ?_)
    | with_reducible refine foldlSnd_touches ?_ (fun x a hx => ?_)
    | with_reducible assumption

end Sys2Proof.Machine
end

