-- ==== Sys2Proof/Laws/TouchesWeltMsg.lean ====
section
/-! SUPPORT. What the functions of Machine/WeltMsg.lean touch. -/
namespace Sys2Proof.Machine
set_option linter.all false

/-- The parts State.takeBlock touches. -/
def State.takeBlock_foot : List Part := [.reg .iWR_HIST, .reg .iWR_RUN, .reg .iWR_DESC, .reg .WR_BLOCK_ERRS]

theorem State.takeBlock_touches {W : List Part} {σ τ : State} {i : Nat} {b : RBlock} (hW : ∀ p ∈ State.takeBlock_foot, p ∈ W)
    (hT : Touches W σ τ) : Touches W σ (State.takeBlock τ i b).2 := by
  unfold State.takeBlock
  try dsimp only
  repeat' first
    | with_reducible apply Touches.iteSnd
    | with_reducible apply Touches.ite
    | with_reducible refine State.setReg_touches (hW _ (by first | (simp [State.takeBlock_foot]; done) | (split <;> simp [State.takeBlock_foot] <;> done) | ((repeat' split) <;> simp [State.takeBlock_foot])))  ?_
    | with_reducible refine cond_touches ?_ (fun x hx => ?_)
    | with_reducible refine State.bump_touches (hW _ (by first | (simp [State.takeBlock_foot]; done) | (split <;> simp [State.takeBlock_foot] <;> done) | ((repeat' split) <;> simp [State.takeBlock_foot])))  ?_
    | split
    | with_reducible refine forN_touches ?_ (fun x k hx => ?_)
    | with_reducible refine foldl_touches ?_ (fun x a hx => ?_)
    | with_reducible refine foldlSnd_touches ?_ (fun x a hx => ?_)
    | with_reducible assumption

/-- The parts State.takeBlocks touches. -/
def State.takeBlocks_foot : List Part := State.takeBlock_foot

theorem State.takeBlocks_touches {W : List Part} {σ τ : State} {i : Nat} {l : List RBlock}
    (hW : ∀ p ∈ State.takeBlocks_foot, p ∈ W) (hT : Touches W σ τ) : Touches W σ (τ.takeBlocks i l).2 := by
  induction l generalizing τ with
  | nil => exact hT
  | cons e l ih => exact ih (State.takeBlock_touches hW hT)

/-- The parts State.noteReturn touches. -/
def State.noteReturn_foot : List Part := [.reg .WR_MESSAGES, .fld .sent, .fld .seqs]

theorem State.noteReturn_touches {W : List Part} {σ τ : State} {surf : Surface} {r : RLane} {mseq : Nat} (hW : ∀ p ∈ State.noteReturn_foot, p ∈ W)
    (hT : Touches W σ τ) : Touches W σ (State.noteReturn τ surf r mseq) := by
  unfold State.noteReturn
  try dsimp only
  repeat' first
    | with_reducible apply Touches.ite
    | with_reducible refine State.bump_touches (hW _ (by first | (simp [State.noteReturn_foot]; done) | (split <;> simp [State.noteReturn_foot] <;> done) | ((repeat' split) <;> simp [State.noteReturn_foot])))  ?_
    | split
    | with_reducible refine forN_touches ?_ (fun x k hx => ?_)
    | with_reducible refine foldl_touches ?_ (fun x a hx => ?_)
    | with_reducible refine foldlSnd_touches ?_ (fun x a hx => ?_)
    | with_reducible assumption
    | with_reducible refine touches_mk (fun f => by cases f <;> first | exact .inr (by with_reducible rfl) | exact .inl (hW _ (by simp [State.noteReturn_foot]))) ?_

/-- The parts State.receive touches. -/
def State.receive_foot : List Part := [.reg .WL_MSG_ERRORS] ++ State.takeBlocks_foot ++ State.noteReturn_foot

theorem State.receive_touches {W : List Part} {σ τ : State} {surf : Surface} {r : RLane} {mtype : Nat}
    {raw : List RBlock} {eff : State → ReturnMsg → State} (hW : ∀ p ∈ State.receive_foot, p ∈ W)
    (hT : Touches W σ τ) (he : ∀ x d, Touches W σ x → Touches W σ (eff x d)) :
    Touches W σ (State.receive τ surf r mtype raw eff) := by
  have h1 : Touches W σ (τ.takeBlocks (2 * surf.val + r.val) raw).2 :=
    State.takeBlocks_touches (fun p hp => hW p (by unfold State.receive_foot; simp [hp])) hT
  unfold State.receive
  dsimp only
  split
  · exact hT
  · split
    · exact h1
    · split
      · exact State.bump_touches (hW _ (by simp [State.receive_foot])) h1
      · split
        · exact h1
        · exact he _ _ (State.noteReturn_touches (fun p hp => hW p (by unfold State.receive_foot; exact List.mem_append_right _ hp)) h1)

/-- The parts execCaps touches. -/
def execCaps_foot : List Part := [.reg .iWL_CAPSSEQ, .reg .iWL_CAPS, .reg .WL_PANEL_CAPS] ++ State.receive_foot ++ State.bringUp_foot

theorem execCaps_touches {W : List Part} {σ τ : State} {surf : Surface} {r : RLane} {raw : List RBlock} (hW : ∀ p ∈ execCaps_foot, p ∈ W)
    (hT : Touches W σ τ) : OutTouches W σ (execCaps surf r raw τ) := by
  unfold execCaps
  try dsimp only
  repeat' first
    | with_reducible apply OutTouches.ite
    | with_reducible refine OutTouches.next ?_
    | with_reducible apply Touches.ite
    | with_reducible refine State.receive_touches  (fun p hp => hW p (by unfold execCaps_foot; repeat first | with_reducible exact hp | with_reducible exact List.mem_append_right _ hp | with_reducible apply List.mem_append_left)) ?_ (fun x _ hx => ?_)
    | with_reducible refine State.setReg_touches (hW _ (by first | (simp [execCaps_foot]; done) | (split <;> simp [execCaps_foot] <;> done) | ((repeat' split) <;> simp [execCaps_foot])))  ?_
    | with_reducible refine State.bringUp_touches (fun p hp => hW p (by unfold execCaps_foot; repeat first | with_reducible exact hp | with_reducible exact List.mem_append_right _ hp | with_reducible apply List.mem_append_left)) ?_
    | split
    | with_reducible refine forN_touches ?_ (fun x k hx => ?_)
    | with_reducible refine foldl_touches ?_ (fun x a hx => ?_)
    | with_reducible refine foldlSnd_touches ?_ (fun x a hx => ?_)
    | with_reducible assumption

/-- The parts execCapsHoldExpire touches. -/
def execCapsHoldExpire_foot : List Part := [.reg .WL_PANEL_CAPS, .reg .iWL_CAPS] ++ State.stepDetect_foot

theorem execCapsHoldExpire_touches {W : List Part} {σ τ : State} {surf : Surface} (hW : ∀ p ∈ execCapsHoldExpire_foot, p ∈ W)
    (hT : Touches W σ τ) : OutTouches W σ (execCapsHoldExpire surf τ) := by
  unfold execCapsHoldExpire
  try dsimp only
  repeat' first
    | with_reducible apply OutTouches.ite
    | with_reducible refine OutTouches.next ?_
    | with_reducible apply Touches.ite
    | with_reducible refine State.stepDetect_touches (fun p hp => hW p (by unfold execCapsHoldExpire_foot; repeat first | with_reducible exact hp | with_reducible exact List.mem_append_right _ hp | with_reducible apply List.mem_append_left)) ?_
    | with_reducible refine State.setReg_touches (hW _ (by first | (simp [execCapsHoldExpire_foot]; done) | (split <;> simp [execCapsHoldExpire_foot] <;> done) | ((repeat' split) <;> simp [execCapsHoldExpire_foot])))  ?_
    | split
    | with_reducible refine forN_touches ?_ (fun x k hx => ?_)
    | with_reducible refine foldl_touches ?_ (fun x a hx => ?_)
    | with_reducible refine foldlSnd_touches ?_ (fun x a hx => ?_)
    | with_reducible assumption

/-- The parts State.noteCrcFails touches. -/
def State.noteCrcFails_foot : List Part := [.reg .WL_CRC_FAILS, .fld .crcWindow] ++ State.spareLane_foot

theorem State.noteCrcFails_touches {W : List Part} {σ τ : State} {surf : Nat} {p : Nat} {n : Nat} (hW : ∀ p ∈ State.noteCrcFails_foot, p ∈ W)
    (hT : Touches W σ τ) : Touches W σ (State.noteCrcFails τ surf p n) := by
  unfold State.noteCrcFails
  try dsimp only
  repeat' first
    | with_reducible apply Touches.ite
    | with_reducible refine State.bumpBy_touches (hW _ (by first | (simp [State.noteCrcFails_foot]; done) | (split <;> simp [State.noteCrcFails_foot] <;> done) | ((repeat' split) <;> simp [State.noteCrcFails_foot])))  ?_
    | with_reducible refine State.spareLane_touches (fun p hp => hW p (by unfold State.noteCrcFails_foot; repeat first | with_reducible exact hp | with_reducible exact List.mem_append_right _ hp | with_reducible apply List.mem_append_left)) ?_
    | split
    | with_reducible refine forN_touches ?_ (fun x k hx => ?_)
    | with_reducible refine foldl_touches ?_ (fun x a hx => ?_)
    | with_reducible refine foldlSnd_touches ?_ (fun x a hx => ?_)
    | with_reducible assumption
    | with_reducible refine touches_mk (fun f => by cases f <;> first | exact .inr (by with_reducible rfl) | exact .inl (hW _ (by simp [State.noteCrcFails_foot]))) ?_

/-- The parts State.noteLocks touches. -/
def State.noteLocks_foot : List Part := [.reg .iWL_BLK, .reg .iWL_BIT] ++ State.trigger_foot ++ State.setPhase_foot ++ State.toExchange_foot ++ State.attemptFailed_foot

theorem State.noteLocks_touches {W : List Part} {σ τ : State} {surf : Nat} {p : Nat} {bitLock : Bool} {blockLock : Bool} (hW : ∀ p ∈ State.noteLocks_foot, p ∈ W)
    (hT : Touches W σ τ) : Touches W σ (State.noteLocks τ surf p bitLock blockLock) := by
  unfold State.noteLocks
  try dsimp only
  repeat' first
    | with_reducible apply Touches.ite
    | with_reducible refine State.setReg_touches (hW _ (by first | (simp [State.noteLocks_foot]; done) | (split <;> simp [State.noteLocks_foot] <;> done) | ((repeat' split) <;> simp [State.noteLocks_foot])))  ?_
    | with_reducible refine cond_touches ?_ (fun x hx => ?_)
    | with_reducible refine State.trigger_touches (fun p hp => hW p (by unfold State.noteLocks_foot; repeat first | with_reducible exact hp | with_reducible exact List.mem_append_right _ hp | with_reducible apply List.mem_append_left)) ?_
    | with_reducible refine State.setPhase_touches (fun p hp => hW p (by unfold State.noteLocks_foot; repeat first | with_reducible exact hp | with_reducible exact List.mem_append_right _ hp | with_reducible apply List.mem_append_left)) ?_
    | with_reducible refine State.toExchange_touches (fun p hp => hW p (by unfold State.noteLocks_foot; repeat first | with_reducible exact hp | with_reducible exact List.mem_append_right _ hp | with_reducible apply List.mem_append_left)) ?_
    | with_reducible refine State.attemptFailed_touches (fun p hp => hW p (by unfold State.noteLocks_foot; repeat first | with_reducible exact hp | with_reducible exact List.mem_append_right _ hp | with_reducible apply List.mem_append_left)) ?_
    | split
    | with_reducible refine forN_touches ?_ (fun x k hx => ?_)
    | with_reducible refine foldl_touches ?_ (fun x a hx => ?_)
    | with_reducible refine foldlSnd_touches ?_ (fun x a hx => ?_)
    | with_reducible assumption

/-- The parts State.laneEntry touches. -/
def State.laneEntry_foot : List Part := [.reg .WL_BLOCK_ERRS, .reg .WL_EYE_H, .reg .WL_EYE_W, .reg .WL_FW_FAILS] ++ State.noteLocks_foot ++ State.trigger_foot ++ State.noteCrcFails_foot

theorem State.laneEntry_touches {W : List Part} {σ τ : State} {surf : Nat} {w : Nat} (hW : ∀ p ∈ State.laneEntry_foot, p ∈ W)
    (hT : Touches W σ τ) : Touches W σ (State.laneEntry τ surf w) := by
  unfold State.laneEntry
  try dsimp only
  repeat' first
    | with_reducible apply Touches.ite
    | with_reducible refine State.noteLocks_touches (fun p hp => hW p (by unfold State.laneEntry_foot; repeat first | with_reducible exact hp | with_reducible exact List.mem_append_right _ hp | with_reducible apply List.mem_append_left)) ?_
    | with_reducible refine State.bumpBy_touches (hW _ (by first | (simp [State.laneEntry_foot]; done) | (split <;> simp [State.laneEntry_foot] <;> done) | ((repeat' split) <;> simp [State.laneEntry_foot])))  ?_
    | with_reducible refine State.setReg_touches (hW _ (by first | (simp [State.laneEntry_foot]; done) | (split <;> simp [State.laneEntry_foot] <;> done) | ((repeat' split) <;> simp [State.laneEntry_foot])))  ?_
    | with_reducible refine cond_touches ?_ (fun x hx => ?_)
    | with_reducible refine State.bump_touches (hW _ (by first | (simp [State.laneEntry_foot]; done) | (split <;> simp [State.laneEntry_foot] <;> done) | ((repeat' split) <;> simp [State.laneEntry_foot])))  ?_
    | with_reducible refine State.trigger_touches (fun p hp => hW p (by unfold State.laneEntry_foot; repeat first | with_reducible exact hp | with_reducible exact List.mem_append_right _ hp | with_reducible apply List.mem_append_left)) ?_
    | with_reducible refine State.noteCrcFails_touches (fun p hp => hW p (by unfold State.laneEntry_foot; repeat first | with_reducible exact hp | with_reducible exact List.mem_append_right _ hp | with_reducible apply List.mem_append_left)) ?_
    | split
    | with_reducible refine forN_touches ?_ (fun x k hx => ?_)
    | with_reducible refine foldl_touches ?_ (fun x a hx => ?_)
    | with_reducible refine foldlSnd_touches ?_ (fun x a hx => ?_)
    | with_reducible assumption

/-- The parts State.fwdAck touches. -/
def State.fwdAck_foot : List Part := [.reg .iWL_CFGACK, .fld .fwd]

theorem State.fwdAck_touches {W : List Part} {σ τ : State} {surf : Nat} {ack : Nat} (hW : ∀ p ∈ State.fwdAck_foot, p ∈ W)
    (hT : Touches W σ τ) : Touches W σ (State.fwdAck τ surf ack) := by
  unfold State.fwdAck
  try dsimp only
  repeat' first
    | with_reducible apply Touches.ite
    | with_reducible refine State.setReg_touches (hW _ (by first | (simp [State.fwdAck_foot]; done) | (split <;> simp [State.fwdAck_foot] <;> done) | ((repeat' split) <;> simp [State.fwdAck_foot])))  ?_
    | split
    | with_reducible refine forN_touches ?_ (fun x k hx => ?_)
    | with_reducible refine foldl_touches ?_ (fun x a hx => ?_)
    | with_reducible refine foldlSnd_touches ?_ (fun x a hx => ?_)
    | with_reducible assumption
    | with_reducible refine touches_mk (fun f => by cases f <;> first | exact .inr (by with_reducible rfl) | exact .inl (hW _ (by simp [State.fwdAck_foot]))) ?_

/-- The parts execLaneStatus touches. -/
def execLaneStatus_foot : List Part := State.receive_foot ++ State.fwdAck_foot ++ State.laneEntry_foot ++ State.kick_foot ++ State.stepDetect_foot

theorem execLaneStatus_touches {W : List Part} {σ τ : State} {surf : Surface} {r : RLane} {raw : List RBlock} (hW : ∀ p ∈ execLaneStatus_foot, p ∈ W)
    (hT : Touches W σ τ) : OutTouches W σ (execLaneStatus surf r raw τ) := by
  unfold execLaneStatus
  try dsimp only
  repeat' first
    | with_reducible apply OutTouches.ite
    | with_reducible refine OutTouches.next ?_
    | with_reducible apply Touches.ite
    | with_reducible refine State.receive_touches  (fun p hp => hW p (by unfold execLaneStatus_foot; repeat first | with_reducible exact hp | with_reducible exact List.mem_append_right _ hp | with_reducible apply List.mem_append_left)) ?_ (fun x _ hx => ?_)
    | with_reducible refine State.fwdAck_touches (fun p hp => hW p (by unfold execLaneStatus_foot; repeat first | with_reducible exact hp | with_reducible exact List.mem_append_right _ hp | with_reducible apply List.mem_append_left)) ?_
    | with_reducible refine State.laneEntry_touches (fun p hp => hW p (by unfold execLaneStatus_foot; repeat first | with_reducible exact hp | with_reducible exact List.mem_append_right _ hp | with_reducible apply List.mem_append_left)) ?_
    | with_reducible refine State.kick_touches (fun p hp => hW p (by unfold execLaneStatus_foot; repeat first | with_reducible exact hp | with_reducible exact List.mem_append_right _ hp | with_reducible apply List.mem_append_left)) ?_
    | with_reducible refine State.stepDetect_touches (fun p hp => hW p (by unfold execLaneStatus_foot; repeat first | with_reducible exact hp | with_reducible exact List.mem_append_right _ hp | with_reducible apply List.mem_append_left)) ?_
    | split
    | with_reducible refine forN_touches ?_ (fun x k hx => ?_)
    | with_reducible refine foldl_touches ?_ (fun x a hx => ?_)
    | with_reducible refine foldlSnd_touches ?_ (fun x a hx => ?_)
    | with_reducible assumption

/-- The parts execEqReq touches. -/
def execEqReq_foot : List Part := [.reg .iWL_REQN, .reg .iWL_NEG, .fld .eqReqs] ++ State.receive_foot ++ State.dropEqs_foot

theorem execEqReq_touches {W : List Part} {σ τ : State} {surf : Surface} {r : RLane} {raw : List RBlock} (hW : ∀ p ∈ execEqReq_foot, p ∈ W)
    (hT : Touches W σ τ) : OutTouches W σ (execEqReq surf r raw τ) := by
  unfold execEqReq
  try dsimp only
  repeat' first
    | with_reducible apply OutTouches.ite
    | with_reducible refine OutTouches.next ?_
    | with_reducible apply Touches.ite
    | with_reducible refine State.receive_touches  (fun p hp => hW p (by unfold execEqReq_foot; repeat first | with_reducible exact hp | with_reducible exact List.mem_append_right _ hp | with_reducible apply List.mem_append_left)) ?_ (fun x _ hx => ?_)
    | with_reducible refine State.bump_touches (hW _ (by first | (simp [execEqReq_foot]; done) | (split <;> simp [execEqReq_foot] <;> done) | ((repeat' split) <;> simp [execEqReq_foot])))  ?_
    | with_reducible refine State.dropEqs_touches (fun p hp => hW p (by unfold execEqReq_foot; repeat first | with_reducible exact hp | with_reducible exact List.mem_append_right _ hp | with_reducible apply List.mem_append_left)) ?_
    | with_reducible refine State.setReg_touches (hW _ (by first | (simp [execEqReq_foot]; done) | (split <;> simp [execEqReq_foot] <;> done) | ((repeat' split) <;> simp [execEqReq_foot])))  ?_
    | split
    | with_reducible refine forN_touches ?_ (fun x k hx => ?_)
    | with_reducible refine foldl_touches ?_ (fun x a hx => ?_)
    | with_reducible refine foldlSnd_touches ?_ (fun x a hx => ?_)
    | with_reducible assumption
    | with_reducible refine touches_mk (fun f => by cases f <;> first | exact .inr (by with_reducible rfl) | exact .inl (hW _ (by simp [execEqReq_foot]))) ?_

/-- The parts execEqApply touches. -/
def execEqApply_foot : List Part := [.reg .iWL_EQREJ, .reg .iWL_EQACK, .reg .WL_COEFF, .fld .eqReqs, .fld .sent] ++ State.groupSent_foot

theorem execEqApply_touches {W : List Part} {σ τ : State} {surf : Surface} {p : Lane} (hW : ∀ p ∈ execEqApply_foot, p ∈ W)
    (hT : Touches W σ τ) : OutTouches W σ (execEqApply surf p τ) := by
  unfold execEqApply
  try dsimp only
  repeat' first
    | with_reducible apply OutTouches.ite
    | with_reducible refine OutTouches.next ?_
    | with_reducible apply Touches.ite
    | with_reducible refine cond_touches ?_ (fun x hx => ?_)
    | with_reducible refine State.setReg_touches (hW _ (by first | (simp [execEqApply_foot]; done) | (split <;> simp [execEqApply_foot] <;> done) | ((repeat' split) <;> simp [execEqApply_foot])))  ?_
    | with_reducible refine State.send_touches (hW _ (by simp [execEqApply_foot])) ?_
    | with_reducible refine State.groupSent_touches (fun p hp => hW p (by unfold execEqApply_foot; repeat first | with_reducible exact hp | with_reducible exact List.mem_append_right _ hp | with_reducible apply List.mem_append_left)) ?_
    | split
    | with_reducible refine forN_touches ?_ (fun x k hx => ?_)
    | with_reducible refine foldl_touches ?_ (fun x a hx => ?_)
    | with_reducible refine foldlSnd_touches ?_ (fun x a hx => ?_)
    | with_reducible assumption
    | with_reducible refine touches_mk (fun f => by cases f <;> first | exact .inr (by with_reducible rfl) | exact .inl (hW _ (by simp [execEqApply_foot]))) ?_

/-- The parts execEqDone touches. -/
def execEqDone_foot : List Part := [.reg .WL_EYE_H, .reg .WL_EYE_W, .reg .iWL_NEG] ++ State.receive_foot ++ State.dropEqs_foot

theorem execEqDone_touches {W : List Part} {σ τ : State} {surf : Surface} {r : RLane} {raw : List RBlock} (hW : ∀ p ∈ execEqDone_foot, p ∈ W)
    (hT : Touches W σ τ) : OutTouches W σ (execEqDone surf r raw τ) := by
  unfold execEqDone
  try dsimp only
  repeat' first
    | with_reducible apply OutTouches.ite
    | with_reducible refine OutTouches.next ?_
    | with_reducible apply Touches.ite
    | with_reducible refine State.receive_touches  (fun p hp => hW p (by unfold execEqDone_foot; repeat first | with_reducible exact hp | with_reducible exact List.mem_append_right _ hp | with_reducible apply List.mem_append_left)) ?_ (fun x _ hx => ?_)
    | with_reducible refine State.setReg_touches (hW _ (by first | (simp [execEqDone_foot]; done) | (split <;> simp [execEqDone_foot] <;> done) | ((repeat' split) <;> simp [execEqDone_foot])))  ?_
    | with_reducible refine State.dropEqs_touches (fun p hp => hW p (by unfold execEqDone_foot; repeat first | with_reducible exact hp | with_reducible exact List.mem_append_right _ hp | with_reducible apply List.mem_append_left)) ?_
    | split
    | with_reducible refine forN_touches ?_ (fun x k hx => ?_)
    | with_reducible refine foldl_touches ?_ (fun x a hx => ?_)
    | with_reducible refine foldlSnd_touches ?_ (fun x a hx => ?_)
    | with_reducible assumption

/-- The parts execEqNegotiationTimeout touches. -/
def execEqNegotiationTimeout_foot : List Part := [.reg .iWL_NEG] ++ State.dropEqs_foot

theorem execEqNegotiationTimeout_touches {W : List Part} {σ τ : State} {surf : Surface} {p : Lane} (hW : ∀ p ∈ execEqNegotiationTimeout_foot, p ∈ W)
    (hT : Touches W σ τ) : OutTouches W σ (execEqNegotiationTimeout surf p τ) := by
  unfold execEqNegotiationTimeout
  try dsimp only
  repeat' first
    | with_reducible apply OutTouches.ite
    | with_reducible refine OutTouches.next ?_
    | with_reducible apply Touches.ite
    | with_reducible refine State.dropEqs_touches (fun p hp => hW p (by unfold execEqNegotiationTimeout_foot; repeat first | with_reducible exact hp | with_reducible exact List.mem_append_right _ hp | with_reducible apply List.mem_append_left)) ?_
    | with_reducible refine State.setReg_touches (hW _ (by first | (simp [execEqNegotiationTimeout_foot]; done) | (split <;> simp [execEqNegotiationTimeout_foot] <;> done) | ((repeat' split) <;> simp [execEqNegotiationTimeout_foot])))  ?_
    | split
    | with_reducible refine forN_touches ?_ (fun x k hx => ?_)
    | with_reducible refine foldl_touches ?_ (fun x a hx => ?_)
    | with_reducible refine foldlSnd_touches ?_ (fun x a hx => ?_)
    | with_reducible assumption

/-- The parts execSpareReq touches. -/
def execSpareReq_foot : List Part := State.receive_foot ++ State.spareLane_foot

theorem execSpareReq_touches {W : List Part} {σ τ : State} {surf : Surface} {r : RLane} {raw : List RBlock} (hW : ∀ p ∈ execSpareReq_foot, p ∈ W)
    (hT : Touches W σ τ) : OutTouches W σ (execSpareReq surf r raw τ) := by
  unfold execSpareReq
  try dsimp only
  repeat' first
    | with_reducible apply OutTouches.ite
    | with_reducible refine OutTouches.next ?_
    | with_reducible apply Touches.ite
    | with_reducible refine State.receive_touches  (fun p hp => hW p (by unfold execSpareReq_foot; repeat first | with_reducible exact hp | with_reducible exact List.mem_append_right _ hp | with_reducible apply List.mem_append_left)) ?_ (fun x _ hx => ?_)
    | with_reducible refine State.spareLane_touches (fun p hp => hW p (by unfold execSpareReq_foot; repeat first | with_reducible exact hp | with_reducible exact List.mem_append_right _ hp | with_reducible apply List.mem_append_left)) ?_
    | split
    | with_reducible refine forN_touches ?_ (fun x k hx => ?_)
    | with_reducible refine foldl_touches ?_ (fun x a hx => ?_)
    | with_reducible refine foldlSnd_touches ?_ (fun x a hx => ?_)
    | with_reducible assumption

/-- The parts execSpareAck touches. -/
def execSpareAck_foot : List Part := [.fld .moves] ++ State.receive_foot

theorem execSpareAck_touches {W : List Part} {σ τ : State} {surf : Surface} {r : RLane} {raw : List RBlock} (hW : ∀ p ∈ execSpareAck_foot, p ∈ W)
    (hT : Touches W σ τ) : OutTouches W σ (execSpareAck surf r raw τ) := by
  unfold execSpareAck
  try dsimp only
  repeat' first
    | with_reducible apply OutTouches.ite
    | with_reducible refine OutTouches.next ?_
    | with_reducible apply Touches.ite
    | with_reducible refine State.receive_touches  (fun p hp => hW p (by unfold execSpareAck_foot; repeat first | with_reducible exact hp | with_reducible exact List.mem_append_right _ hp | with_reducible apply List.mem_append_left)) ?_ (fun x _ hx => ?_)
    | split
    | with_reducible refine forN_touches ?_ (fun x k hx => ?_)
    | with_reducible refine foldl_touches ?_ (fun x a hx => ?_)
    | with_reducible refine foldlSnd_touches ?_ (fun x a hx => ?_)
    | with_reducible assumption
    | with_reducible refine touches_mk (fun f => by cases f <;> first | exact .inr (by with_reducible rfl) | exact .inl (hW _ (by simp [execSpareAck_foot]))) ?_

/-- The parts execSensors touches. -/
def execSensors_foot : List Part := [.reg .iWL_SENSN, .reg .iWL_SENSAT, .reg .WL_PANEL_SENSORS] ++ State.receive_foot

theorem execSensors_touches {W : List Part} {σ τ : State} {surf : Surface} {r : RLane} {raw : List RBlock} (hW : ∀ p ∈ execSensors_foot, p ∈ W)
    (hT : Touches W σ τ) : OutTouches W σ (execSensors surf r raw τ) := by
  unfold execSensors
  try dsimp only
  repeat' first
    | with_reducible apply OutTouches.ite
    | with_reducible refine OutTouches.next ?_
    | with_reducible apply Touches.ite
    | with_reducible refine State.receive_touches  (fun p hp => hW p (by unfold execSensors_foot; repeat first | with_reducible exact hp | with_reducible exact List.mem_append_right _ hp | with_reducible apply List.mem_append_left)) ?_ (fun x _ hx => ?_)
    | with_reducible refine State.setReg_touches (hW _ (by first | (simp [execSensors_foot]; done) | (split <;> simp [execSensors_foot] <;> done) | ((repeat' split) <;> simp [execSensors_foot])))  ?_
    | split
    | with_reducible refine forN_touches ?_ (fun x k hx => ?_)
    | with_reducible refine foldl_touches ?_ (fun x a hx => ?_)
    | with_reducible refine foldlSnd_touches ?_ (fun x a hx => ?_)
    | with_reducible assumption

/-- The parts execPrbsReport touches. -/
def execPrbsReport_foot : List Part := [.reg .WL_PRBS_ERR] ++ State.receive_foot

theorem execPrbsReport_touches {W : List Part} {σ τ : State} {surf : Surface} {r : RLane} {raw : List RBlock} (hW : ∀ p ∈ execPrbsReport_foot, p ∈ W)
    (hT : Touches W σ τ) : OutTouches W σ (execPrbsReport surf r raw τ) := by
  unfold execPrbsReport
  try dsimp only
  repeat' first
    | with_reducible apply OutTouches.ite
    | with_reducible refine OutTouches.next ?_
    | with_reducible apply Touches.ite
    | with_reducible refine State.receive_touches  (fun p hp => hW p (by unfold execPrbsReport_foot; repeat first | with_reducible exact hp | with_reducible exact List.mem_append_right _ hp | with_reducible apply List.mem_append_left)) ?_ (fun x _ hx => ?_)
    | with_reducible refine State.setReg_touches (hW _ (by first | (simp [execPrbsReport_foot]; done) | (split <;> simp [execPrbsReport_foot] <;> done) | ((repeat' split) <;> simp [execPrbsReport_foot])))  ?_
    | split
    | with_reducible refine forN_touches ?_ (fun x k hx => ?_)
    | with_reducible refine foldl_touches ?_ (fun x a hx => ?_)
    | with_reducible refine foldlSnd_touches ?_ (fun x a hx => ?_)
    | with_reducible assumption

/-- The parts State.calResult touches. -/
def State.calResult_foot : List Part := [.reg .WL_CAL_RESULT] ++ State.sendFwd_foot

theorem State.calResult_touches {W : List Part} {σ τ : State} {surf : Nat} {kind : Nat} {result : Nat} {crc : Nat} (hW : ∀ p ∈ State.calResult_foot, p ∈ W)
    (hT : Touches W σ τ) : Touches W σ (State.calResult τ surf kind result crc) := by
  unfold State.calResult
  try dsimp only
  repeat' first
    | with_reducible apply Touches.ite
    | with_reducible refine State.sendFwd_touches (fun p hp => hW p (by unfold State.calResult_foot; repeat first | with_reducible exact hp | with_reducible exact List.mem_append_right _ hp | with_reducible apply List.mem_append_left)) ?_
    | with_reducible refine State.setReg_touches (hW _ (by first | (simp [State.calResult_foot]; done) | (split <;> simp [State.calResult_foot] <;> done) | ((repeat' split) <;> simp [State.calResult_foot])))  ?_
    | split
    | with_reducible refine forN_touches ?_ (fun x k hx => ?_)
    | with_reducible refine foldl_touches ?_ (fun x a hx => ?_)
    | with_reducible refine foldlSnd_touches ?_ (fun x a hx => ?_)
    | with_reducible assumption

/-- The parts State.endDelivery touches. -/
def State.endDelivery_foot : List Part := [.reg .CAL_STATE, .fld .deliveries] ++ State.calResult_foot

theorem State.endDelivery_touches {W : List Part} {σ τ : State} {surf : Nat} {result : Nat} (hW : ∀ p ∈ State.endDelivery_foot, p ∈ W)
    (hT : Touches W σ τ) : Touches W σ (State.endDelivery τ surf result) := by
  unfold State.endDelivery
  try dsimp only
  repeat' first
    | with_reducible apply Touches.ite
    | with_reducible refine State.calResult_touches (fun p hp => hW p (by unfold State.endDelivery_foot; repeat first | with_reducible exact hp | with_reducible exact List.mem_append_right _ hp | with_reducible apply List.mem_append_left)) ?_
    | with_reducible refine State.setReg_touches (hW _ (by first | (simp [State.endDelivery_foot]; done) | (split <;> simp [State.endDelivery_foot] <;> done) | ((repeat' split) <;> simp [State.endDelivery_foot])))  ?_
    | split
    | with_reducible refine forN_touches ?_ (fun x k hx => ?_)
    | with_reducible refine foldl_touches ?_ (fun x a hx => ?_)
    | with_reducible refine foldlSnd_touches ?_ (fun x a hx => ?_)
    | with_reducible assumption
    | with_reducible refine touches_mk (fun f => by cases f <;> first | exact .inr (by with_reducible rfl) | exact .inl (hW _ (by simp [State.endDelivery_foot]))) ?_

/-- The parts State.calBegin touches. -/
def State.calBegin_foot : List Part := [.reg .iCAL_H, .reg .iCAL_W, .reg .CAL_T2, .reg .CAL_T1, .reg .CAL_T0, .reg .CAL_STATE, .fld .deliveries] ++ State.endDelivery_foot ++ State.calResult_foot ++ State.raise_foot

theorem State.calBegin_touches {W : List Part} {σ τ : State} {surf : Nat} {d : List Byte} (hW : ∀ p ∈ State.calBegin_foot, p ∈ W)
    (hT : Touches W σ τ) : Touches W σ (State.calBegin τ surf d) := by
  unfold State.calBegin
  try dsimp only
  repeat' first
    | with_reducible apply Touches.ite
    | with_reducible refine State.endDelivery_touches (fun p hp => hW p (by unfold State.calBegin_foot; repeat first | with_reducible exact hp | with_reducible exact List.mem_append_right _ hp | with_reducible apply List.mem_append_left)) ?_
    | with_reducible refine State.calResult_touches (fun p hp => hW p (by unfold State.calBegin_foot; repeat first | with_reducible exact hp | with_reducible exact List.mem_append_right _ hp | with_reducible apply List.mem_append_left)) ?_
    | with_reducible refine State.raise_touches (fun p hp => hW p (by unfold State.calBegin_foot; repeat first | with_reducible exact hp | with_reducible exact List.mem_append_right _ hp | with_reducible apply List.mem_append_left)) ?_
    | with_reducible refine State.setReg_touches (hW _ (by first | (simp [State.calBegin_foot]; done) | (split <;> simp [State.calBegin_foot] <;> done) | ((repeat' split) <;> simp [State.calBegin_foot])))  ?_
    | split
    | with_reducible refine forN_touches ?_ (fun x k hx => ?_)
    | with_reducible refine foldl_touches ?_ (fun x a hx => ?_)
    | with_reducible refine foldlSnd_touches ?_ (fun x a hx => ?_)
    | with_reducible assumption
    | with_reducible refine touches_mk (fun f => by cases f <;> first | exact .inr (by with_reducible rfl) | exact .inl (hW _ (by simp [State.calBegin_foot]))) ?_

/-- The parts execCalBegin touches. -/
def execCalBegin_foot : List Part := State.receive_foot ++ State.calBegin_foot

theorem execCalBegin_touches {W : List Part} {σ τ : State} {surf : Surface} {r : RLane} {raw : List RBlock} (hW : ∀ p ∈ execCalBegin_foot, p ∈ W)
    (hT : Touches W σ τ) : OutTouches W σ (execCalBegin surf r raw τ) := by
  unfold execCalBegin
  try dsimp only
  repeat' first
    | with_reducible apply OutTouches.ite
    | with_reducible refine OutTouches.next ?_
    | with_reducible apply Touches.ite
    | with_reducible refine State.receive_touches  (fun p hp => hW p (by unfold execCalBegin_foot; repeat first | with_reducible exact hp | with_reducible exact List.mem_append_right _ hp | with_reducible apply List.mem_append_left)) ?_ (fun x _ hx => ?_)
    | with_reducible refine State.calBegin_touches (fun p hp => hW p (by unfold execCalBegin_foot; repeat first | with_reducible exact hp | with_reducible exact List.mem_append_right _ hp | with_reducible apply List.mem_append_left)) ?_
    | split
    | with_reducible refine forN_touches ?_ (fun x k hx => ?_)
    | with_reducible refine foldl_touches ?_ (fun x a hx => ?_)
    | with_reducible refine foldlSnd_touches ?_ (fun x a hx => ?_)
    | with_reducible assumption

/-- The parts execCalData touches. -/
def execCalData_foot : List Part := [.fld .deliveries] ++ State.see_foot ++ State.receive_foot ++ State.endDelivery_foot ++ State.store_foot

theorem execCalData_touches {W : List Part} {σ τ : State} {surf : Surface} {r : RLane} {raw : List RBlock} {seen : Seen} (hW : ∀ p ∈ execCalData_foot, p ∈ W)
    (hT : Touches W σ τ) : OutTouches W σ (execCalData surf r raw seen τ) := by
  unfold execCalData
  try dsimp only
  repeat' first
    | with_reducible apply OutTouches.ite
    | with_reducible refine OutTouches.next ?_
    | with_reducible apply Touches.ite
    | with_reducible refine State.see_touches (fun p hp => hW p (by unfold execCalData_foot; repeat first | with_reducible exact hp | with_reducible exact List.mem_append_right _ hp | with_reducible apply List.mem_append_left)) ?_
    | with_reducible refine State.receive_touches  (fun p hp => hW p (by unfold execCalData_foot; repeat first | with_reducible exact hp | with_reducible exact List.mem_append_right _ hp | with_reducible apply List.mem_append_left)) ?_ (fun x _ hx => ?_)
    | with_reducible refine State.endDelivery_touches (fun p hp => hW p (by unfold execCalData_foot; repeat first | with_reducible exact hp | with_reducible exact List.mem_append_right _ hp | with_reducible apply List.mem_append_left)) ?_
    | with_reducible refine Touches.ofPair (by assumption) (State.store_touches (fun p hp => hW p (by unfold execCalData_foot; repeat first | with_reducible exact hp | with_reducible exact List.mem_append_right _ hp | with_reducible apply List.mem_append_left)) ?_)
    | with_reducible refine State.store_touches (fun p hp => hW p (by unfold execCalData_foot; repeat first | with_reducible exact hp | with_reducible exact List.mem_append_right _ hp | with_reducible apply List.mem_append_left)) ?_
    | split
    | with_reducible refine forN_touches ?_ (fun x k hx => ?_)
    | with_reducible refine foldl_touches ?_ (fun x a hx => ?_)
    | with_reducible refine foldlSnd_touches ?_ (fun x a hx => ?_)
    | with_reducible assumption
    | with_reducible refine touches_mk (fun f => by cases f <;> first | exact .inr (by with_reducible rfl) | exact .inl (hW _ (by simp [execCalData_foot]))) ?_

/-- The parts execCalEnd touches. -/
def execCalEnd_foot : List Part := [.reg .CAL_RESIDUAL, .fld .deliveries] ++ State.see_foot ++ State.receive_foot ++ State.endDelivery_foot ++ State.fetch_foot ++ State.calValid_foot ++ State.calResult_foot

theorem execCalEnd_touches {W : List Part} {σ τ : State} {surf : Surface} {r : RLane} {raw : List RBlock} {seen : Seen} (hW : ∀ p ∈ execCalEnd_foot, p ∈ W)
    (hT : Touches W σ τ) : OutTouches W σ (execCalEnd surf r raw seen τ) := by
  unfold execCalEnd
  try dsimp only
  repeat' first
    | with_reducible apply OutTouches.ite
    | with_reducible refine OutTouches.next ?_
    | with_reducible apply Touches.ite
    | with_reducible refine State.see_touches (fun p hp => hW p (by unfold execCalEnd_foot; repeat first | with_reducible exact hp | with_reducible exact List.mem_append_right _ hp | with_reducible apply List.mem_append_left)) ?_
    | with_reducible refine State.receive_touches  (fun p hp => hW p (by unfold execCalEnd_foot; repeat first | with_reducible exact hp | with_reducible exact List.mem_append_right _ hp | with_reducible apply List.mem_append_left)) ?_ (fun x _ hx => ?_)
    | with_reducible refine State.endDelivery_touches (fun p hp => hW p (by unfold execCalEnd_foot; repeat first | with_reducible exact hp | with_reducible exact List.mem_append_right _ hp | with_reducible apply List.mem_append_left)) ?_
    | with_reducible refine Touches.ofPair (by assumption) (State.fetch_touches (fun p hp => hW p (by unfold execCalEnd_foot; repeat first | with_reducible exact hp | with_reducible exact List.mem_append_right _ hp | with_reducible apply List.mem_append_left)) ?_)
    | with_reducible refine State.fetch_touches (fun p hp => hW p (by unfold execCalEnd_foot; repeat first | with_reducible exact hp | with_reducible exact List.mem_append_right _ hp | with_reducible apply List.mem_append_left)) ?_
    | with_reducible refine State.calValid_touches (fun p hp => hW p (by unfold execCalEnd_foot; repeat first | with_reducible exact hp | with_reducible exact List.mem_append_right _ hp | with_reducible apply List.mem_append_left)) ?_
    | with_reducible refine State.calResult_touches (fun p hp => hW p (by unfold execCalEnd_foot; repeat first | with_reducible exact hp | with_reducible exact List.mem_append_right _ hp | with_reducible apply List.mem_append_left)) ?_
    | with_reducible refine State.setReg_touches (hW _ (by first | (simp [execCalEnd_foot]; done) | (split <;> simp [execCalEnd_foot] <;> done) | ((repeat' split) <;> simp [execCalEnd_foot])))  ?_
    | split
    | with_reducible refine forN_touches ?_ (fun x k hx => ?_)
    | with_reducible refine foldl_touches ?_ (fun x a hx => ?_)
    | with_reducible refine foldlSnd_touches ?_ (fun x a hx => ?_)
    | with_reducible assumption
    | with_reducible refine touches_mk (fun f => by cases f <;> first | exact .inr (by with_reducible rfl) | exact .inl (hW _ (by simp [execCalEnd_foot]))) ?_

/-- The parts execCalNone touches. -/
def execCalNone_foot : List Part := State.receive_foot

theorem execCalNone_touches {W : List Part} {σ τ : State} {surf : Surface} {r : RLane} {raw : List RBlock} (hW : ∀ p ∈ execCalNone_foot, p ∈ W)
    (hT : Touches W σ τ) : OutTouches W σ (execCalNone surf r raw τ) := by
  unfold execCalNone
  try dsimp only
  repeat' first
    | with_reducible apply OutTouches.ite
    | with_reducible refine OutTouches.next ?_
    | with_reducible apply Touches.ite
    | with_reducible refine State.receive_touches  (fun p hp => hW p (by unfold execCalNone_foot; repeat first | with_reducible exact hp | with_reducible exact List.mem_append_right _ hp | with_reducible apply List.mem_append_left)) ?_ (fun x _ hx => ?_)
    | split
    | with_reducible refine forN_touches ?_ (fun x k hx => ?_)
    | with_reducible refine foldl_touches ?_ (fun x a hx => ?_)
    | with_reducible refine foldlSnd_touches ?_ (fun x a hx => ?_)
    | with_reducible assumption

/-- The parts execReturnLaneLock touches. -/
def execReturnLaneLock_foot : List Part := [.reg .WR_EYE_H, .reg .WR_EYE_W, .reg .iWR_HIST, .reg .WR_STATE, .fld .draws, .fld .sent] ++ State.takeBlocks_foot ++ State.kick_foot ++ State.stepDetect_foot

theorem execReturnLaneLock_touches {W : List Part} {σ τ : State} {surf : Surface} {r : RLane} {raw : List RBlock} (hW : ∀ p ∈ execReturnLaneLock_foot, p ∈ W)
    (hT : Touches W σ τ) : OutTouches W σ (execReturnLaneLock surf r raw τ) := by
  unfold execReturnLaneLock
  try dsimp only
  repeat' first
    | with_reducible apply OutTouches.ite
    | with_reducible refine OutTouches.next ?_
    | with_reducible apply Touches.ite
    | with_reducible refine Touches.ofPair (by assumption) (State.takeBlocks_touches (fun p hp => hW p (by unfold execReturnLaneLock_foot; repeat first | with_reducible exact hp | with_reducible exact List.mem_append_right _ hp | with_reducible apply List.mem_append_left)) ?_)
    | with_reducible refine State.takeBlocks_touches (fun p hp => hW p (by unfold execReturnLaneLock_foot; repeat first | with_reducible exact hp | with_reducible exact List.mem_append_right _ hp | with_reducible apply List.mem_append_left)) ?_
    | with_reducible refine State.draw_touches (hW _ (by simp [execReturnLaneLock_foot])) ?_
    | with_reducible refine Touches.ofPair (by assumption) (State.draw_touches (hW _ (by simp [execReturnLaneLock_foot])) ?_)
    | with_reducible refine State.setReg_touches (hW _ (by first | (simp [execReturnLaneLock_foot]; done) | (split <;> simp [execReturnLaneLock_foot] <;> done) | ((repeat' split) <;> simp [execReturnLaneLock_foot])))  ?_
    | with_reducible refine State.send_touches (hW _ (by simp [execReturnLaneLock_foot])) ?_
    | with_reducible refine State.kick_touches (fun p hp => hW p (by unfold execReturnLaneLock_foot; repeat first | with_reducible exact hp | with_reducible exact List.mem_append_right _ hp | with_reducible apply List.mem_append_left)) ?_
    | with_reducible refine State.stepDetect_touches (fun p hp => hW p (by unfold execReturnLaneLock_foot; repeat first | with_reducible exact hp | with_reducible exact List.mem_append_right _ hp | with_reducible apply List.mem_append_left)) ?_
    | split
    | with_reducible refine forN_touches ?_ (fun x k hx => ?_)
    | with_reducible refine foldl_touches ?_ (fun x a hx => ?_)
    | with_reducible refine foldlSnd_touches ?_ (fun x a hx => ?_)
    | with_reducible assumption

/-- The parts State.holdAttempts touches. -/
def State.holdAttempts_foot : List Part := State.holdLane_foot

theorem State.holdAttempts_touches {W : List Part} {σ τ : State} {surf : Nat} (hW : ∀ p ∈ State.holdAttempts_foot, p ∈ W)
    (hT : Touches W σ τ) : Touches W σ (State.holdAttempts τ surf) := by
  unfold State.holdAttempts
  try dsimp only
  repeat' first
    | with_reducible apply Touches.ite
    | with_reducible refine State.holdLane_touches (fun p hp => hW p (by unfold State.holdAttempts_foot; repeat first | with_reducible exact hp | with_reducible exact List.mem_append_right _ hp | with_reducible apply List.mem_append_left)) ?_
    | split
    | with_reducible refine forN_touches ?_ (fun x k hx => ?_)
    | with_reducible refine foldl_touches ?_ (fun x a hx => ?_)
    | with_reducible refine foldlSnd_touches ?_ (fun x a hx => ?_)
    | with_reducible assumption

/-- The parts execReturnLaneUnlock touches. -/
def execReturnLaneUnlock_foot : List Part := [.reg .iWR_RUN, .reg .WR_STATE, .reg .iWL_LOSTAT, .fld .sent] ++ State.takeBlocks_foot ++ State.raise_foot ++ State.stepDetect_foot ++ State.holdAttempts_foot ++ State.endDelivery_foot

theorem execReturnLaneUnlock_touches {W : List Part} {σ τ : State} {surf : Surface} {r : RLane} {raw : List RBlock} (hW : ∀ p ∈ execReturnLaneUnlock_foot, p ∈ W)
    (hT : Touches W σ τ) : OutTouches W σ (execReturnLaneUnlock surf r raw τ) := by
  unfold execReturnLaneUnlock
  try dsimp only
  repeat' first
    | with_reducible apply OutTouches.ite
    | with_reducible refine OutTouches.next ?_
    | with_reducible apply Touches.ite
    | with_reducible refine Touches.ofPair (by assumption) (State.takeBlocks_touches (fun p hp => hW p (by unfold execReturnLaneUnlock_foot; repeat first | with_reducible exact hp | with_reducible exact List.mem_append_right _ hp | with_reducible apply List.mem_append_left)) ?_)
    | with_reducible refine State.takeBlocks_touches (fun p hp => hW p (by unfold execReturnLaneUnlock_foot; repeat first | with_reducible exact hp | with_reducible exact List.mem_append_right _ hp | with_reducible apply List.mem_append_left)) ?_
    | with_reducible refine State.setReg_touches (hW _ (by first | (simp [execReturnLaneUnlock_foot]; done) | (split <;> simp [execReturnLaneUnlock_foot] <;> done) | ((repeat' split) <;> simp [execReturnLaneUnlock_foot])))  ?_
    | with_reducible refine State.send_touches (hW _ (by simp [execReturnLaneUnlock_foot])) ?_
    | with_reducible refine State.raise_touches (fun p hp => hW p (by unfold execReturnLaneUnlock_foot; repeat first | with_reducible exact hp | with_reducible exact List.mem_append_right _ hp | with_reducible apply List.mem_append_left)) ?_
    | with_reducible refine State.stepDetect_touches (fun p hp => hW p (by unfold execReturnLaneUnlock_foot; repeat first | with_reducible exact hp | with_reducible exact List.mem_append_right _ hp | with_reducible apply List.mem_append_left)) ?_
    | with_reducible refine State.holdAttempts_touches (fun p hp => hW p (by unfold execReturnLaneUnlock_foot; repeat first | with_reducible exact hp | with_reducible exact List.mem_append_right _ hp | with_reducible apply List.mem_append_left)) ?_
    | with_reducible refine State.endDelivery_touches (fun p hp => hW p (by unfold execReturnLaneUnlock_foot; repeat first | with_reducible exact hp | with_reducible exact List.mem_append_right _ hp | with_reducible apply List.mem_append_left)) ?_
    | split
    | with_reducible refine forN_touches ?_ (fun x k hx => ?_)
    | with_reducible refine foldl_touches ?_ (fun x a hx => ?_)
    | with_reducible refine foldlSnd_touches ?_ (fun x a hx => ?_)
    | with_reducible assumption

end Sys2Proof.Machine
end

