-- ==== Sys2Proof/Laws/TouchesFirmware.lean ====
section
/-! SUPPORT. What the functions of Machine/Firmware.lean touch. -/
namespace Sys2Proof.Machine
set_option linter.all false

/-- The parts State.setSelector touches. -/
def State.setSelector_foot : List Part := [.reg .KP_WRITES, .reg .iTRI, .fld .triPending] ++ State.keeperRefuse_foot

theorem State.setSelector_touches {W : List Part} {σ τ : State} {v : Nat} (hW : ∀ p ∈ State.setSelector_foot, p ∈ W)
    (hT : Touches W σ τ) : Touches W σ (State.setSelector τ v) := by
  unfold State.setSelector
  try dsimp only
  repeat' first
    | with_reducible apply Touches.ite
    | with_reducible refine State.bumpBy_touches (hW _ (by first | (simp [State.setSelector_foot]; done) | (split <;> simp [State.setSelector_foot] <;> done) | ((repeat' split) <;> simp [State.setSelector_foot])))  ?_
    | with_reducible refine State.setReg_touches (hW _ (by first | (simp [State.setSelector_foot]; done) | (split <;> simp [State.setSelector_foot] <;> done) | ((repeat' split) <;> simp [State.setSelector_foot])))  ?_
    | with_reducible refine State.keeperRefuse_touches (fun p hp => hW p (by unfold State.setSelector_foot; repeat first | with_reducible exact hp | with_reducible exact List.mem_append_right _ hp | with_reducible apply List.mem_append_left)) ?_
    | split
    | with_reducible refine forN_touches ?_ (fun x k hx => ?_)
    | with_reducible refine foldl_touches ?_ (fun x a hx => ?_)
    | with_reducible refine foldlSnd_touches ?_ (fun x a hx => ?_)
    | with_reducible assumption
    | with_reducible refine touches_mk (fun f => by cases f <;> first | exact .inr (by with_reducible rfl) | exact .inl (hW _ (by simp [State.setSelector_foot]))) ?_

/-- The parts State.imageBad touches. -/
def State.imageBad_foot : List Part := State.raise_foot

theorem State.imageBad_touches {W : List Part} {σ τ : State} {i : Nat} (hW : ∀ p ∈ State.imageBad_foot, p ∈ W)
    (hT : Touches W σ τ) : Touches W σ (State.imageBad τ i) := by
  unfold State.imageBad
  try dsimp only
  repeat' first
    | with_reducible apply Touches.ite
    | with_reducible refine State.raise_touches (fun p hp => hW p (by unfold State.imageBad_foot; repeat first | with_reducible exact hp | with_reducible exact List.mem_append_right _ hp | with_reducible apply List.mem_append_left)) ?_
    | split
    | with_reducible refine forN_touches ?_ (fun x k hx => ?_)
    | with_reducible refine foldl_touches ?_ (fun x a hx => ?_)
    | with_reducible refine foldlSnd_touches ?_ (fun x a hx => ?_)
    | with_reducible assumption

/-- The parts State.tryImage touches. -/
def State.tryImage_foot : List Part := [.reg .iBOOT_TRIAL, .reg .iBOOT_IMAGE] ++ State.imageBad_foot

theorem State.tryImage_touches {W : List Part} {σ τ : State} {i : Nat} {trial : Bool} (hW : ∀ p ∈ State.tryImage_foot, p ∈ W)
    (hT : Touches W σ τ) : Touches W σ (State.tryImage τ i trial) := by
  unfold State.tryImage
  try dsimp only
  repeat' first
    | with_reducible apply Touches.ite
    | with_reducible refine State.setReg_touches (hW _ (by first | (simp [State.tryImage_foot]; done) | (split <;> simp [State.tryImage_foot] <;> done) | ((repeat' split) <;> simp [State.tryImage_foot])))  ?_
    | with_reducible refine State.imageBad_touches (fun p hp => hW p (by unfold State.tryImage_foot; repeat first | with_reducible exact hp | with_reducible exact List.mem_append_right _ hp | with_reducible apply List.mem_append_left)) ?_
    | split
    | with_reducible refine forN_touches ?_ (fun x k hx => ?_)
    | with_reducible refine foldl_touches ?_ (fun x a hx => ?_)
    | with_reducible refine foldlSnd_touches ?_ (fun x a hx => ?_)
    | with_reducible assumption

/-- The parts State.chooseImage touches. -/
def State.chooseImage_foot : List Part := [.reg .iBOOT_TRIAL, .reg .iBOOT_IMAGE] ++ State.tryImage_foot ++ State.imageBad_foot ++ State.setSelector_foot

theorem State.chooseImage_touches {W : List Part} {σ τ : State}  (hW : ∀ p ∈ State.chooseImage_foot, p ∈ W)
    (hT : Touches W σ τ) : Touches W σ (State.chooseImage τ) := by
  unfold State.chooseImage
  try dsimp only
  repeat' first
    | with_reducible apply Touches.ite
    | with_reducible refine State.tryImage_touches (fun p hp => hW p (by unfold State.chooseImage_foot; repeat first | with_reducible exact hp | with_reducible exact List.mem_append_right _ hp | with_reducible apply List.mem_append_left)) ?_
    | with_reducible refine State.imageBad_touches (fun p hp => hW p (by unfold State.chooseImage_foot; repeat first | with_reducible exact hp | with_reducible exact List.mem_append_right _ hp | with_reducible apply List.mem_append_left)) ?_
    | with_reducible refine State.setSelector_touches (fun p hp => hW p (by unfold State.chooseImage_foot; repeat first | with_reducible exact hp | with_reducible exact List.mem_append_right _ hp | with_reducible apply List.mem_append_left)) ?_
    | with_reducible refine State.setReg_touches (hW _ (by first | (simp [State.chooseImage_foot]; done) | (split <;> simp [State.chooseImage_foot] <;> done) | ((repeat' split) <;> simp [State.chooseImage_foot])))  ?_
    | split
    | with_reducible refine forN_touches ?_ (fun x k hx => ?_)
    | with_reducible refine foldl_touches ?_ (fun x a hx => ?_)
    | with_reducible refine foldlSnd_touches ?_ (fun x a hx => ?_)
    | with_reducible assumption

/-- The parts State.writeLife touches. -/
def State.writeLife_foot : List Part := [.fld .keepPending] ++ State.writeRecord_foot

theorem State.writeLife_touches {W : List Part} {σ τ : State}  (hW : ∀ p ∈ State.writeLife_foot, p ∈ W)
    (hT : Touches W σ τ) : Touches W σ (State.writeLife τ) := by
  unfold State.writeLife
  try dsimp only
  repeat' first
    | with_reducible apply Touches.ite
    | with_reducible refine State.noteKeep_touches (hW _ (by simp [State.writeLife_foot])) ?_
    | with_reducible refine State.writeRecord_touches (fun p hp => hW p (by unfold State.writeLife_foot; repeat first | with_reducible exact hp | with_reducible exact List.mem_append_right _ hp | with_reducible apply List.mem_append_left)) ?_
    | split
    | with_reducible refine forN_touches ?_ (fun x k hx => ?_)
    | with_reducible refine foldl_touches ?_ (fun x a hx => ?_)
    | with_reducible refine foldlSnd_touches ?_ (fun x a hx => ?_)
    | with_reducible assumption

/-- The parts State.endValidations touches. -/
def State.endValidations_foot : List Part := [.reg .CAL_STATE, .reg .CUE_STATE, .reg .PG_STATE]

theorem State.endValidations_touches {W : List Part} {σ τ : State}
    (hW : ∀ p ∈ State.endValidations_foot, p ∈ W) (hT : Touches W σ τ) : Touches W σ (State.endValidations τ) := by
  refine forN_touches (forN_touches (forN_touches hT fun x k h => ?_) fun x k h => ?_) fun x k h => ?_ <;>
    exact .ite (State.setReg_touches (hW _ (by simp [State.endValidations_foot])) h) h

/-- The parts State.endProgramming touches. -/
def State.endProgramming_foot : List Part := [.reg .FW_PROG_STATE] ++ State.imageBad_foot

theorem State.endProgramming_touches {W : List Part} {σ τ : State}  (hW : ∀ p ∈ State.endProgramming_foot, p ∈ W)
    (hT : Touches W σ τ) : Touches W σ (State.endProgramming τ) := by
  unfold State.endProgramming
  try dsimp only
  repeat' first
    | with_reducible apply Touches.ite
    | with_reducible refine State.imageBad_touches (fun p hp => hW p (by unfold State.endProgramming_foot; repeat first | with_reducible exact hp | with_reducible exact List.mem_append_right _ hp | with_reducible apply List.mem_append_left)) ?_
    | with_reducible refine State.setReg_touches (hW _ (by first | (simp [State.endProgramming_foot]; done) | (split <;> simp [State.endProgramming_foot] <;> done) | ((repeat' split) <;> simp [State.endProgramming_foot])))  ?_
    | split
    | with_reducible refine forN_touches ?_ (fun x k hx => ?_)
    | with_reducible refine foldl_touches ?_ (fun x a hx => ?_)
    | with_reducible refine foldlSnd_touches ?_ (fun x a hx => ?_)
    | with_reducible assumption

/-- The parts State.warmRestart touches. -/
def State.warmRestart_foot : List Part := [.reg .iPLV_RESET, .reg .iPIP_FROZE_NS, .reg .MS_FROZEN_CORE, .reg .SU_LAST_RESET, .reg .LF_WARM, .reg .FW_RESTARTS, .reg .iPHASE, .reg .iWARM_CAUSE] ++ State.endProgramming_foot ++ State.endValidations_foot ++ State.endDelivery_foot ++ State.chooseImage_foot ++ State.writeLife_foot

theorem State.warmRestart_touches {W : List Part} {σ τ : State} {cause : Nat} (hW : ∀ p ∈ State.warmRestart_foot, p ∈ W)
    (hT : Touches W σ τ) : Touches W σ (State.warmRestart τ cause) := by
  unfold State.warmRestart
  try dsimp only
  repeat' first
    | with_reducible apply Touches.ite
    | with_reducible refine State.setReg_touches (hW _ (by first | (simp [State.warmRestart_foot]; done) | (split <;> simp [State.warmRestart_foot] <;> done) | ((repeat' split) <;> simp [State.warmRestart_foot])))  ?_
    | with_reducible refine State.endProgramming_touches (fun p hp => hW p (by unfold State.warmRestart_foot; repeat first | with_reducible exact hp | with_reducible exact List.mem_append_right _ hp | with_reducible apply List.mem_append_left)) ?_
    | with_reducible refine State.endValidations_touches (fun p hp => hW p (by unfold State.warmRestart_foot; repeat first | with_reducible exact hp | with_reducible exact List.mem_append_right _ hp | with_reducible apply List.mem_append_left)) ?_
    | with_reducible refine State.endDelivery_touches (fun p hp => hW p (by unfold State.warmRestart_foot; repeat first | with_reducible exact hp | with_reducible exact List.mem_append_right _ hp | with_reducible apply List.mem_append_left)) ?_
    | with_reducible refine State.bump_touches (hW _ (by first | (simp [State.warmRestart_foot]; done) | (split <;> simp [State.warmRestart_foot] <;> done) | ((repeat' split) <;> simp [State.warmRestart_foot])))  ?_
    | with_reducible refine State.chooseImage_touches (fun p hp => hW p (by unfold State.warmRestart_foot; repeat first | with_reducible exact hp | with_reducible exact List.mem_append_right _ hp | with_reducible apply List.mem_append_left)) ?_
    | with_reducible refine State.writeLife_touches (fun p hp => hW p (by unfold State.warmRestart_foot; repeat first | with_reducible exact hp | with_reducible exact List.mem_append_right _ hp | with_reducible apply List.mem_append_left)) ?_
    | split
    | with_reducible refine forN_touches ?_ (fun x k hx => ?_)
    | with_reducible refine foldl_touches ?_ (fun x a hx => ?_)
    | with_reducible refine foldlSnd_touches ?_ (fun x a hx => ?_)
    | with_reducible assumption

/-- The parts execWarmRestart touches. -/
def execWarmRestart_foot : List Part := [.fld .sent] ++ State.warmRestart_foot

theorem execWarmRestart_touches {W : List Part} {σ τ : State}  (hW : ∀ p ∈ execWarmRestart_foot, p ∈ W)
    (hT : Touches W σ τ) : OutTouches W σ (execWarmRestart τ) := by
  unfold execWarmRestart
  try dsimp only
  repeat' first
    | with_reducible apply OutTouches.ite
    | with_reducible refine OutTouches.next ?_
    | with_reducible apply Touches.ite
    | with_reducible refine State.warmRestart_touches (fun p hp => hW p (by unfold execWarmRestart_foot; repeat first | with_reducible exact hp | with_reducible exact List.mem_append_right _ hp | with_reducible apply List.mem_append_left)) ?_
    | with_reducible refine State.send_touches (hW _ (by simp [execWarmRestart_foot])) ?_
    | split
    | with_reducible refine forN_touches ?_ (fun x k hx => ?_)
    | with_reducible refine foldl_touches ?_ (fun x a hx => ?_)
    | with_reducible refine foldlSnd_touches ?_ (fun x a hx => ?_)
    | with_reducible assumption

/-- The parts execPipFreezeWatchdog touches. -/
def execPipFreezeWatchdog_foot : List Part := [.fld .sent] ++ State.warmRestart_foot

theorem execPipFreezeWatchdog_touches {W : List Part} {σ τ : State}  (hW : ∀ p ∈ execPipFreezeWatchdog_foot, p ∈ W)
    (hT : Touches W σ τ) : OutTouches W σ (execPipFreezeWatchdog τ) := by
  unfold execPipFreezeWatchdog
  try dsimp only
  repeat' first
    | with_reducible apply OutTouches.ite
    | with_reducible refine OutTouches.next ?_
    | with_reducible apply Touches.ite
    | with_reducible refine State.warmRestart_touches (fun p hp => hW p (by unfold execPipFreezeWatchdog_foot; repeat first | with_reducible exact hp | with_reducible exact List.mem_append_right _ hp | with_reducible apply List.mem_append_left)) ?_
    | with_reducible refine State.send_touches (hW _ (by simp [execPipFreezeWatchdog_foot])) ?_
    | split
    | with_reducible refine forN_touches ?_ (fun x k hx => ?_)
    | with_reducible refine foldl_touches ?_ (fun x a hx => ?_)
    | with_reducible refine foldlSnd_touches ?_ (fun x a hx => ?_)
    | with_reducible assumption

/-- The parts execWatchdogTimeout touches. -/
def execWatchdogTimeout_foot : List Part := [.fld .sent] ++ State.warmRestart_foot

theorem execWatchdogTimeout_touches {W : List Part} {σ τ : State} {_core : Fin 4} (hW : ∀ p ∈ execWatchdogTimeout_foot, p ∈ W)
    (hT : Touches W σ τ) : OutTouches W σ (execWatchdogTimeout _core τ) := by
  unfold execWatchdogTimeout
  try dsimp only
  repeat' first
    | with_reducible apply OutTouches.ite
    | with_reducible refine OutTouches.next ?_
    | with_reducible apply Touches.ite
    | with_reducible refine State.warmRestart_touches (fun p hp => hW p (by unfold execWatchdogTimeout_foot; repeat first | with_reducible exact hp | with_reducible exact List.mem_append_right _ hp | with_reducible apply List.mem_append_left)) ?_
    | with_reducible refine State.send_touches (hW _ (by simp [execWatchdogTimeout_foot])) ?_
    | split
    | with_reducible refine forN_touches ?_ (fun x k hx => ?_)
    | with_reducible refine foldl_touches ?_ (fun x a hx => ?_)
    | with_reducible refine foldlSnd_touches ?_ (fun x a hx => ?_)
    | with_reducible assumption

/-- The parts execTrialTimeout touches. -/
def execTrialTimeout_foot : List Part := [.fld .sent] ++ State.warmRestart_foot

theorem execTrialTimeout_touches {W : List Part} {σ τ : State}  (hW : ∀ p ∈ execTrialTimeout_foot, p ∈ W)
    (hT : Touches W σ τ) : OutTouches W σ (execTrialTimeout τ) := by
  unfold execTrialTimeout
  try dsimp only
  repeat' first
    | with_reducible apply OutTouches.ite
    | with_reducible refine OutTouches.next ?_
    | with_reducible apply Touches.ite
    | with_reducible refine State.warmRestart_touches (fun p hp => hW p (by unfold execTrialTimeout_foot; repeat first | with_reducible exact hp | with_reducible exact List.mem_append_right _ hp | with_reducible apply List.mem_append_left)) ?_
    | with_reducible refine State.send_touches (hW _ (by simp [execTrialTimeout_foot])) ?_
    | split
    | with_reducible refine forN_touches ?_ (fun x k hx => ?_)
    | with_reducible refine foldl_touches ?_ (fun x a hx => ?_)
    | with_reducible refine foldlSnd_touches ?_ (fun x a hx => ?_)
    | with_reducible assumption

/-- The parts State.programStart touches. -/
def State.programStart_foot : List Part := [.reg .iNOR_VALID, .reg .FW_PROG_STATE, .reg .iFW_TARGET, .fld .status]

theorem State.programStart_touches {W : List Part} {σ τ : State}  (hW : ∀ p ∈ State.programStart_foot, p ∈ W)
    (hT : Touches W σ τ) : Touches W σ (State.programStart τ) := by
  unfold State.programStart
  try dsimp only
  repeat' first
    | with_reducible apply Touches.ite
    | with_reducible refine State.refuse_touches (hW _ (by simp [State.programStart_foot])) ?_
    | with_reducible refine State.setReg_touches (hW _ (by first | (simp [State.programStart_foot]; done) | (split <;> simp [State.programStart_foot] <;> done) | ((repeat' split) <;> simp [State.programStart_foot])))  ?_
    | split
    | with_reducible refine forN_touches ?_ (fun x k hx => ?_)
    | with_reducible refine foldl_touches ?_ (fun x a hx => ?_)
    | with_reducible refine foldlSnd_touches ?_ (fun x a hx => ?_)
    | with_reducible assumption

/-- The parts execFwProgram touches. -/
def execFwProgram_foot : List Part := writeParam_foot ++ State.programStart_foot

theorem execFwProgram_touches {W : List Part} {σ τ : State} {acc : Accessor} (hW : ∀ p ∈ execFwProgram_foot, p ∈ W)
    (hT : Touches W σ τ) : OutTouches W σ (execFwProgram acc τ) := by
  unfold execFwProgram
  try dsimp only
  repeat' first
    | with_reducible apply OutTouches.ite
    | with_reducible refine OutTouches.next ?_
    | with_reducible apply Touches.ite
    | with_reducible refine writeParam_touches  (fun p hp => hW p (by unfold execFwProgram_foot; repeat first | with_reducible exact hp | with_reducible exact List.mem_append_right _ hp | with_reducible apply List.mem_append_left)) ?_ (fun x  hx => ?_)
    | with_reducible refine State.programStart_touches (fun p hp => hW p (by unfold execFwProgram_foot; repeat first | with_reducible exact hp | with_reducible exact List.mem_append_right _ hp | with_reducible apply List.mem_append_left)) ?_
    | split
    | with_reducible refine forN_touches ?_ (fun x k hx => ?_)
    | with_reducible refine foldl_touches ?_ (fun x a hx => ?_)
    | with_reducible refine foldlSnd_touches ?_ (fun x a hx => ?_)
    | with_reducible assumption

/-- The parts execFwProgramDone touches. -/
def execFwProgramDone_foot : List Part := [.reg .iNOR_PLEN, .reg .iNOR_VERSION, .reg .iNOR_VALID, .reg .FW_PROG_STATE] ++ State.fetch_foot ++ State.see_foot ++ State.imageBad_foot

theorem execFwProgramDone_touches {W : List Part} {σ τ : State} {host : List Byte} {readBack : Bool} {seen : Seen} (hW : ∀ p ∈ execFwProgramDone_foot, p ∈ W)
    (hT : Touches W σ τ) : OutTouches W σ (execFwProgramDone host readBack seen τ) := by
  unfold execFwProgramDone
  try dsimp only
  repeat' first
    | with_reducible apply OutTouches.ite
    | with_reducible refine OutTouches.next ?_
    | with_reducible apply Touches.ite
    | with_reducible refine Touches.ofPair (by assumption) (State.fetch_touches (fun p hp => hW p (by unfold execFwProgramDone_foot; repeat first | with_reducible exact hp | with_reducible exact List.mem_append_right _ hp | with_reducible apply List.mem_append_left)) ?_)
    | with_reducible refine State.fetch_touches (fun p hp => hW p (by unfold execFwProgramDone_foot; repeat first | with_reducible exact hp | with_reducible exact List.mem_append_right _ hp | with_reducible apply List.mem_append_left)) ?_
    | with_reducible refine State.see_touches (fun p hp => hW p (by unfold execFwProgramDone_foot; repeat first | with_reducible exact hp | with_reducible exact List.mem_append_right _ hp | with_reducible apply List.mem_append_left)) ?_
    | with_reducible refine State.setReg_touches (hW _ (by first | (simp [execFwProgramDone_foot]; done) | (split <;> simp [execFwProgramDone_foot] <;> done) | ((repeat' split) <;> simp [execFwProgramDone_foot])))  ?_
    | with_reducible refine State.imageBad_touches (fun p hp => hW p (by unfold execFwProgramDone_foot; repeat first | with_reducible exact hp | with_reducible exact List.mem_append_right _ hp | with_reducible apply List.mem_append_left)) ?_
    | split
    | with_reducible refine forN_touches ?_ (fun x k hx => ?_)
    | with_reducible refine foldl_touches ?_ (fun x a hx => ?_)
    | with_reducible refine foldlSnd_touches ?_ (fun x a hx => ?_)
    | with_reducible assumption

/-- The parts State.fwSwitch touches. -/
def State.fwSwitch_foot : List Part := [.reg .FW_STATE, .fld .status] ++ State.warmRestart_foot ++ State.setSelector_foot ++ State.raise_foot

theorem State.fwSwitch_touches {W : List Part} {σ τ : State} {v : Nat} (hW : ∀ p ∈ State.fwSwitch_foot, p ∈ W)
    (hT : Touches W σ τ) : Touches W σ (State.fwSwitch τ v) := by
  unfold State.fwSwitch
  try dsimp only
  repeat' first
    | with_reducible apply Touches.ite
    | with_reducible refine State.warmRestart_touches (fun p hp => hW p (by unfold State.fwSwitch_foot; repeat first | with_reducible exact hp | with_reducible exact List.mem_append_right _ hp | with_reducible apply List.mem_append_left)) ?_
    | with_reducible refine State.setSelector_touches (fun p hp => hW p (by unfold State.fwSwitch_foot; repeat first | with_reducible exact hp | with_reducible exact List.mem_append_right _ hp | with_reducible apply List.mem_append_left)) ?_
    | with_reducible refine State.refuse_touches (hW _ (by simp [State.fwSwitch_foot])) ?_
    | with_reducible refine State.setReg_touches (hW _ (by first | (simp [State.fwSwitch_foot]; done) | (split <;> simp [State.fwSwitch_foot] <;> done) | ((repeat' split) <;> simp [State.fwSwitch_foot])))  ?_
    | with_reducible refine State.raise_touches (fun p hp => hW p (by unfold State.fwSwitch_foot; repeat first | with_reducible exact hp | with_reducible exact List.mem_append_right _ hp | with_reducible apply List.mem_append_left)) ?_
    | split
    | with_reducible refine forN_touches ?_ (fun x k hx => ?_)
    | with_reducible refine foldl_touches ?_ (fun x a hx => ?_)
    | with_reducible refine foldlSnd_touches ?_ (fun x a hx => ?_)
    | with_reducible assumption

/-- The parts execFwSwitchTrial touches. -/
def execFwSwitchTrial_foot : List Part := [.fld .sent] ++ writeParam_foot ++ State.fwSwitch_foot

theorem execFwSwitchTrial_touches {W : List Part} {σ τ : State} {acc : Accessor} (hW : ∀ p ∈ execFwSwitchTrial_foot, p ∈ W)
    (hT : Touches W σ τ) : OutTouches W σ (execFwSwitchTrial acc τ) := by
  unfold execFwSwitchTrial
  try dsimp only
  repeat' first
    | with_reducible apply OutTouches.ite
    | with_reducible refine OutTouches.next ?_
    | with_reducible apply Touches.ite
    | with_reducible refine writeParam_touches  (fun p hp => hW p (by unfold execFwSwitchTrial_foot; repeat first | with_reducible exact hp | with_reducible exact List.mem_append_right _ hp | with_reducible apply List.mem_append_left)) ?_ (fun x  hx => ?_)
    | with_reducible refine State.send_touches (hW _ (by simp [execFwSwitchTrial_foot])) ?_
    | with_reducible refine State.fwSwitch_touches (fun p hp => hW p (by unfold execFwSwitchTrial_foot; repeat first | with_reducible exact hp | with_reducible exact List.mem_append_right _ hp | with_reducible apply List.mem_append_left)) ?_
    | split
    | with_reducible refine forN_touches ?_ (fun x k hx => ?_)
    | with_reducible refine foldl_touches ?_ (fun x a hx => ?_)
    | with_reducible refine foldlSnd_touches ?_ (fun x a hx => ?_)
    | with_reducible assumption

/-- The parts execFwSwitchCommit touches. -/
def execFwSwitchCommit_foot : List Part := writeParam_foot ++ State.fwSwitch_foot

theorem execFwSwitchCommit_touches {W : List Part} {σ τ : State} {acc : Accessor} (hW : ∀ p ∈ execFwSwitchCommit_foot, p ∈ W)
    (hT : Touches W σ τ) : OutTouches W σ (execFwSwitchCommit acc τ) := by
  unfold execFwSwitchCommit
  try dsimp only
  repeat' first
    | with_reducible apply OutTouches.ite
    | with_reducible refine OutTouches.next ?_
    | with_reducible apply Touches.ite
    | with_reducible refine writeParam_touches  (fun p hp => hW p (by unfold execFwSwitchCommit_foot; repeat first | with_reducible exact hp | with_reducible exact List.mem_append_right _ hp | with_reducible apply List.mem_append_left)) ?_ (fun x  hx => ?_)
    | with_reducible refine State.fwSwitch_touches (fun p hp => hW p (by unfold execFwSwitchCommit_foot; repeat first | with_reducible exact hp | with_reducible exact List.mem_append_right _ hp | with_reducible apply List.mem_append_left)) ?_
    | split
    | with_reducible refine forN_touches ?_ (fun x k hx => ?_)
    | with_reducible refine foldl_touches ?_ (fun x a hx => ?_)
    | with_reducible refine foldlSnd_touches ?_ (fun x a hx => ?_)
    | with_reducible assumption

/-- The parts execFwSwitchRestart touches. -/
def execFwSwitchRestart_foot : List Part := [.fld .sent] ++ writeParam_foot ++ State.fwSwitch_foot

theorem execFwSwitchRestart_touches {W : List Part} {σ τ : State} {acc : Accessor} (hW : ∀ p ∈ execFwSwitchRestart_foot, p ∈ W)
    (hT : Touches W σ τ) : OutTouches W σ (execFwSwitchRestart acc τ) := by
  unfold execFwSwitchRestart
  try dsimp only
  repeat' first
    | with_reducible apply OutTouches.ite
    | with_reducible refine OutTouches.next ?_
    | with_reducible apply Touches.ite
    | with_reducible refine writeParam_touches  (fun p hp => hW p (by unfold execFwSwitchRestart_foot; repeat first | with_reducible exact hp | with_reducible exact List.mem_append_right _ hp | with_reducible apply List.mem_append_left)) ?_ (fun x  hx => ?_)
    | with_reducible refine State.send_touches (hW _ (by simp [execFwSwitchRestart_foot])) ?_
    | with_reducible refine State.fwSwitch_touches (fun p hp => hW p (by unfold execFwSwitchRestart_foot; repeat first | with_reducible exact hp | with_reducible exact List.mem_append_right _ hp | with_reducible apply List.mem_append_left)) ?_
    | split
    | with_reducible refine forN_touches ?_ (fun x k hx => ?_)
    | with_reducible refine foldl_touches ?_ (fun x a hx => ?_)
    | with_reducible refine foldlSnd_touches ?_ (fun x a hx => ?_)
    | with_reducible assumption

/-- The parts execLifetimeMinute touches. -/
def execLifetimeMinute_foot : List Part := [.reg .LF_EQUIV_H, .reg .iEQUIV_MIN, .reg .LF_TJ_HIST, .reg .iHIST_MIN, .reg .iTJ_SUM, .reg .LF_HOURS, .reg .iMIN_COUNT, .reg .LF_TJ_MEAN, .reg .iMIN_MAX, .reg .LF_LIFE_USED, .fld .draws]

theorem execLifetimeMinute_touches {W : List Part} {σ τ : State}  (hW : ∀ p ∈ execLifetimeMinute_foot, p ∈ W)
    (hT : Touches W σ τ) : OutTouches W σ (execLifetimeMinute τ) := by
  unfold execLifetimeMinute
  try dsimp only
  repeat' first
    | with_reducible apply OutTouches.ite
    | with_reducible refine OutTouches.next ?_
    | with_reducible apply Touches.ite
    | with_reducible refine State.draw_touches (hW _ (by simp [execLifetimeMinute_foot])) ?_
    | with_reducible refine Touches.ofPair (by assumption) (State.draw_touches (hW _ (by simp [execLifetimeMinute_foot])) ?_)
    | with_reducible refine State.bumpBy_touches (hW _ (by first | (simp [execLifetimeMinute_foot]; done) | (split <;> simp [execLifetimeMinute_foot] <;> done) | ((repeat' split) <;> simp [execLifetimeMinute_foot])))  ?_
    | with_reducible refine State.setReg_touches (hW _ (by first | (simp [execLifetimeMinute_foot]; done) | (split <;> simp [execLifetimeMinute_foot] <;> done) | ((repeat' split) <;> simp [execLifetimeMinute_foot])))  ?_
    | with_reducible refine State.setRegInt_touches (hW _ (by first | (simp [execLifetimeMinute_foot]; done) | (split <;> simp [execLifetimeMinute_foot] <;> done) | ((repeat' split) <;> simp [execLifetimeMinute_foot])))  ?_
    | split
    | with_reducible refine forN_touches ?_ (fun x k hx => ?_)
    | with_reducible refine foldl_touches ?_ (fun x a hx => ?_)
    | with_reducible refine foldlSnd_touches ?_ (fun x a hx => ?_)
    | with_reducible assumption

/-- The parts State.restoreLife touches. -/
def State.restoreLife_foot : List Part := [.reg .iTJ_SUM, .reg .LF_LIFE_USED]

theorem State.restoreLife_touches {W : List Part} {σ τ : State}  (hW : ∀ p ∈ State.restoreLife_foot, p ∈ W)
    (hT : Touches W σ τ) : Touches W σ (State.restoreLife τ) := by
  unfold State.restoreLife
  try dsimp only
  repeat' first
    | with_reducible apply Touches.ite
    | with_reducible refine State.setRegInt_touches (hW _ (by first | (simp [State.restoreLife_foot]; done) | (split <;> simp [State.restoreLife_foot] <;> done) | ((repeat' split) <;> simp [State.restoreLife_foot])))  ?_
    | with_reducible refine State.setReg_touches (hW _ (by first | (simp [State.restoreLife_foot]; done) | (split <;> simp [State.restoreLife_foot] <;> done) | ((repeat' split) <;> simp [State.restoreLife_foot])))  ?_
    | split
    | with_reducible refine forN_touches ?_ (fun x k hx => ?_)
    | with_reducible refine foldl_touches ?_ (fun x a hx => ?_)
    | with_reducible refine foldlSnd_touches ?_ (fun x a hx => ?_)
    | with_reducible assumption

/-- The parts execLifetimeHourWrite touches. -/
def execLifetimeHourWrite_foot : List Part := State.writeLife_foot

theorem execLifetimeHourWrite_touches {W : List Part} {σ τ : State}  (hW : ∀ p ∈ execLifetimeHourWrite_foot, p ∈ W)
    (hT : Touches W σ τ) : OutTouches W σ (execLifetimeHourWrite τ) := by
  unfold execLifetimeHourWrite
  try dsimp only
  repeat' first
    | with_reducible apply OutTouches.ite
    | with_reducible refine OutTouches.next ?_
    | with_reducible apply Touches.ite
    | with_reducible refine State.writeLife_touches (fun p hp => hW p (by unfold execLifetimeHourWrite_foot; repeat first | with_reducible exact hp | with_reducible exact List.mem_append_right _ hp | with_reducible apply List.mem_append_left)) ?_
    | split
    | with_reducible refine forN_touches ?_ (fun x k hx => ?_)
    | with_reducible refine foldl_touches ?_ (fun x a hx => ?_)
    | with_reducible refine foldlSnd_touches ?_ (fun x a hx => ?_)
    | with_reducible assumption

/-- The parts State.smbSend touches. -/
def State.smbSend_foot : List Part := [.fld .sent]

theorem State.smbSend_touches {W : List Part} {σ τ : State} {n : Nat} {v : Nat} (hW : ∀ p ∈ State.smbSend_foot, p ∈ W)
    (hT : Touches W σ τ) : OutTouches W σ (State.smbSend τ n v) := by
  unfold State.smbSend
  try dsimp only
  repeat' first
    | with_reducible apply OutTouches.ite
    | with_reducible refine OutTouches.next ?_
    | with_reducible apply Touches.ite
    | with_reducible refine State.send_touches (hW _ (by simp [State.smbSend_foot])) ?_
    | split
    | with_reducible refine forN_touches ?_ (fun x k hx => ?_)
    | with_reducible refine foldl_touches ?_ (fun x a hx => ?_)
    | with_reducible refine foldlSnd_touches ?_ (fun x a hx => ?_)
    | with_reducible assumption

/-- The parts execSmbReadJunction touches. -/
def execSmbReadJunction_foot : List Part := State.smbSend_foot

theorem execSmbReadJunction_touches {W : List Part} {σ τ : State}  (hW : ∀ p ∈ execSmbReadJunction_foot, p ∈ W)
    (hT : Touches W σ τ) : OutTouches W σ (execSmbReadJunction τ) := by
  unfold execSmbReadJunction
  try dsimp only
  repeat' first
    | with_reducible apply OutTouches.ite
    | with_reducible refine OutTouches.next ?_
    | with_reducible apply Touches.ite
    | with_reducible refine State.smbSend_touches (fun p hp => hW p (by unfold execSmbReadJunction_foot; repeat first | with_reducible exact hp | with_reducible exact List.mem_append_right _ hp | with_reducible apply List.mem_append_left)) ?_
    | split
    | with_reducible refine forN_touches ?_ (fun x k hx => ?_)
    | with_reducible refine foldl_touches ?_ (fun x a hx => ?_)
    | with_reducible refine foldlSnd_touches ?_ (fun x a hx => ?_)
    | with_reducible assumption

/-- The parts execSmbReadPower touches. -/
def execSmbReadPower_foot : List Part := State.smbSend_foot

theorem execSmbReadPower_touches {W : List Part} {σ τ : State}  (hW : ∀ p ∈ execSmbReadPower_foot, p ∈ W)
    (hT : Touches W σ τ) : OutTouches W σ (execSmbReadPower τ) := by
  unfold execSmbReadPower
  try dsimp only
  repeat' first
    | with_reducible apply OutTouches.ite
    | with_reducible refine OutTouches.next ?_
    | with_reducible apply Touches.ite
    | with_reducible refine State.smbSend_touches (fun p hp => hW p (by unfold execSmbReadPower_foot; repeat first | with_reducible exact hp | with_reducible exact List.mem_append_right _ hp | with_reducible apply List.mem_append_left)) ?_
    | split
    | with_reducible refine forN_touches ?_ (fun x k hx => ?_)
    | with_reducible refine foldl_touches ?_ (fun x a hx => ?_)
    | with_reducible refine foldlSnd_touches ?_ (fun x a hx => ?_)
    | with_reducible assumption

/-- The parts execSmbReadStatus touches. -/
def execSmbReadStatus_foot : List Part := State.smbSend_foot

theorem execSmbReadStatus_touches {W : List Part} {σ τ : State}  (hW : ∀ p ∈ execSmbReadStatus_foot, p ∈ W)
    (hT : Touches W σ τ) : OutTouches W σ (execSmbReadStatus τ) := by
  unfold execSmbReadStatus
  try dsimp only
  repeat' first
    | with_reducible apply OutTouches.ite
    | with_reducible refine OutTouches.next ?_
    | with_reducible apply Touches.ite
    | with_reducible refine State.smbSend_touches (fun p hp => hW p (by unfold execSmbReadStatus_foot; repeat first | with_reducible exact hp | with_reducible exact List.mem_append_right _ hp | with_reducible apply List.mem_append_left)) ?_
    | split
    | with_reducible refine forN_touches ?_ (fun x k hx => ?_)
    | with_reducible refine foldl_touches ?_ (fun x a hx => ?_)
    | with_reducible refine foldlSnd_touches ?_ (fun x a hx => ?_)
    | with_reducible assumption

/-- The parts execSmbReadPeak touches. -/
def execSmbReadPeak_foot : List Part := State.smbSend_foot

theorem execSmbReadPeak_touches {W : List Part} {σ τ : State}  (hW : ∀ p ∈ execSmbReadPeak_foot, p ∈ W)
    (hT : Touches W σ τ) : OutTouches W σ (execSmbReadPeak τ) := by
  unfold execSmbReadPeak
  try dsimp only
  repeat' first
    | with_reducible apply OutTouches.ite
    | with_reducible refine OutTouches.next ?_
    | with_reducible apply Touches.ite
    | with_reducible refine State.smbSend_touches (fun p hp => hW p (by unfold execSmbReadPeak_foot; repeat first | with_reducible exact hp | with_reducible exact List.mem_append_right _ hp | with_reducible apply List.mem_append_left)) ?_
    | split
    | with_reducible refine forN_touches ?_ (fun x k hx => ?_)
    | with_reducible refine foldl_touches ?_ (fun x a hx => ?_)
    | with_reducible refine foldlSnd_touches ?_ (fun x a hx => ?_)
    | with_reducible assumption

/-- The parts execSmbReadSerial touches. -/
def execSmbReadSerial_foot : List Part := State.smbSend_foot

theorem execSmbReadSerial_touches {W : List Part} {σ τ : State}  (hW : ∀ p ∈ execSmbReadSerial_foot, p ∈ W)
    (hT : Touches W σ τ) : OutTouches W σ (execSmbReadSerial τ) := by
  unfold execSmbReadSerial
  try dsimp only
  repeat' first
    | with_reducible apply OutTouches.ite
    | with_reducible refine OutTouches.next ?_
    | with_reducible apply Touches.ite
    | with_reducible refine State.smbSend_touches (fun p hp => hW p (by unfold execSmbReadSerial_foot; repeat first | with_reducible exact hp | with_reducible exact List.mem_append_right _ hp | with_reducible apply List.mem_append_left)) ?_
    | split
    | with_reducible refine forN_touches ?_ (fun x k hx => ?_)
    | with_reducible refine foldl_touches ?_ (fun x a hx => ?_)
    | with_reducible refine foldlSnd_touches ?_ (fun x a hx => ?_)
    | with_reducible assumption

/-- The parts execSmbAlertResponse touches. -/
def execSmbAlertResponse_foot : List Part := [.fld .sent] ++ State.smbSend_foot

theorem execSmbAlertResponse_touches {W : List Part} {σ τ : State}  (hW : ∀ p ∈ execSmbAlertResponse_foot, p ∈ W)
    (hT : Touches W σ τ) : OutTouches W σ (execSmbAlertResponse τ) := by
  unfold execSmbAlertResponse
  try dsimp only
  repeat' first
    | with_reducible apply OutTouches.ite
    | with_reducible refine OutTouches.next ?_
    | with_reducible apply Touches.ite
    | with_reducible refine State.smbSend_touches (fun p hp => hW p (by unfold execSmbAlertResponse_foot; repeat first | with_reducible exact hp | with_reducible exact List.mem_append_right _ hp | with_reducible apply List.mem_append_left)) ?_
    | with_reducible refine State.send_touches (hW _ (by simp [execSmbAlertResponse_foot])) ?_
    | split
    | with_reducible refine forN_touches ?_ (fun x k hx => ?_)
    | with_reducible refine foldl_touches ?_ (fun x a hx => ?_)
    | with_reducible refine foldlSnd_touches ?_ (fun x a hx => ?_)
    | with_reducible assumption

end Sys2Proof.Machine
end

