-- ==== Sys2Proof/Laws/TouchesGovernor.lean ====
section
/-! SUPPORT. What the functions of Machine/Governor.lean touch. -/
namespace Sys2Proof.Machine
set_option linter.all false

/-- The parts execPowerGrantRequest touches. -/
def execPowerGrantRequest_foot : List Part := [.fld .highReqs, .fld .normalReqs]

theorem execPowerGrantRequest_touches {W : List Part} {σ τ : State} {op : PowerOp} (hW : ∀ p ∈ execPowerGrantRequest_foot, p ∈ W)
    (hT : Touches W σ τ) : OutTouches W σ (execPowerGrantRequest op τ) := by
  unfold execPowerGrantRequest
  try dsimp only
  repeat' first
    | with_reducible apply OutTouches.ite
    | with_reducible refine OutTouches.next ?_
    | with_reducible apply Touches.ite
    | with_reducible refine State.request_touches (hW _ (by simp [execPowerGrantRequest_foot])) (hW _ (by simp [execPowerGrantRequest_foot])) ?_
    | split
    | with_reducible refine forN_touches ?_ (fun x k hx => ?_)
    | with_reducible refine foldl_touches ?_ (fun x a hx => ?_)
    | with_reducible refine foldlSnd_touches ?_ (fun x a hx => ?_)
    | with_reducible assumption

/-- The parts State.grantTaken touches. -/
def State.grantTaken_foot : List Part := [.reg .SK_STATE, .reg .SC_STATE] ++ State.stepDetect_foot ++ State.kick_foot

theorem State.grantTaken_touches {W : List Part} {σ τ : State} {op : PowerOp}
    (hW : ∀ p ∈ State.grantTaken_foot, p ∈ W) (hT : Touches W σ τ) : Touches W σ (State.grantTaken τ op) := by
  unfold State.grantTaken
  repeat' first
    | with_reducible apply Touches.ite
    | with_reducible refine State.stepDetect_touches (fun p hp => hW p (by unfold State.grantTaken_foot; repeat first | with_reducible exact hp | with_reducible exact List.mem_append_right _ hp | with_reducible apply List.mem_append_left)) ?_
    | with_reducible refine State.kick_touches (fun p hp => hW p (by unfold State.grantTaken_foot; repeat first | with_reducible exact hp | with_reducible exact List.mem_append_right _ hp | with_reducible apply List.mem_append_left)) ?_
    | with_reducible refine State.setReg_touches (hW _ (by first | (simp [State.grantTaken_foot]; done) | (split <;> simp [State.grantTaken_foot] <;> done) | ((repeat' split) <;> simp [State.grantTaken_foot])))  ?_
    | split
    | with_reducible refine forN_touches ?_ (fun x k hx => ?_)
    | with_reducible refine foldl_touches ?_ (fun x a hx => ?_)
    | with_reducible refine foldlSnd_touches ?_ (fun x a hx => ?_)
    | with_reducible assumption

/-- The parts execPowerGrant touches. -/
def execPowerGrant_foot : List Part := [.fld .sent] ++ State.governor_foot ++ State.grantTaken_foot

theorem execPowerGrant_touches {W : List Part} {σ τ : State}  (hW : ∀ p ∈ execPowerGrant_foot, p ∈ W)
    (hT : Touches W σ τ) : OutTouches W σ (execPowerGrant τ) := by
  unfold execPowerGrant
  try dsimp only
  repeat' first
    | with_reducible apply OutTouches.ite
    | with_reducible refine OutTouches.next ?_
    | with_reducible apply Touches.ite
    | with_reducible refine cond_touches ?_ (fun x hx => ?_)
    | with_reducible refine State.send_touches (hW _ (by simp [execPowerGrant_foot])) ?_
    | with_reducible refine State.governor_touches (fun p hp => hW p (by unfold execPowerGrant_foot; repeat first | with_reducible exact hp | with_reducible exact List.mem_append_right _ hp | with_reducible apply List.mem_append_left)) ?_
    | with_reducible refine State.grantTaken_touches (fun p hp => hW p (by unfold execPowerGrant_foot; repeat first | with_reducible exact hp | with_reducible exact List.mem_append_right _ hp | with_reducible apply List.mem_append_left)) ?_
    | split
    | with_reducible refine forN_touches ?_ (fun x k hx => ?_)
    | with_reducible refine foldl_touches ?_ (fun x a hx => ?_)
    | with_reducible refine foldlSnd_touches ?_ (fun x a hx => ?_)
    | with_reducible assumption

/-- The parts execPowerGrantReturn touches. -/
def execPowerGrantReturn_foot : List Part := [.fld .grants, .fld .highReqs, .fld .normalReqs]

theorem execPowerGrantReturn_touches {W : List Part} {σ τ : State} {op : PowerOp} (hW : ∀ p ∈ execPowerGrantReturn_foot, p ∈ W)
    (hT : Touches W σ τ) : OutTouches W σ (execPowerGrantReturn op τ) := by
  unfold execPowerGrantReturn
  try dsimp only
  repeat' first
    | with_reducible apply OutTouches.ite
    | with_reducible refine OutTouches.next ?_
    | with_reducible apply Touches.ite
    | with_reducible refine State.release_touches (hW _ (by simp [execPowerGrantReturn_foot])) (hW _ (by simp [execPowerGrantReturn_foot])) (hW _ (by simp [execPowerGrantReturn_foot])) ?_
    | split
    | with_reducible refine forN_touches ?_ (fun x k hx => ?_)
    | with_reducible refine foldl_touches ?_ (fun x a hx => ?_)
    | with_reducible refine foldlSnd_touches ?_ (fun x a hx => ?_)
    | with_reducible assumption

/-- The parts State.ceilingWrite touches. -/
def State.ceilingWrite_foot : List Part := [.reg .PW_CEILING, .fld .status] ++ State.putTri_foot

theorem State.ceilingWrite_touches {W : List Part} {σ τ : State} {v : Nat} (hW : ∀ p ∈ State.ceilingWrite_foot, p ∈ W)
    (hT : Touches W σ τ) : Touches W σ (State.ceilingWrite τ v) := by
  unfold State.ceilingWrite
  try dsimp only
  repeat' first
    | with_reducible apply Touches.ite
    | with_reducible refine State.refuse_touches (hW _ (by simp [State.ceilingWrite_foot])) ?_
    | with_reducible refine State.putTri_touches (hW _ (by first | (simp [State.ceilingWrite_foot]; done) | (split <;> simp [State.ceilingWrite_foot] <;> done) | ((repeat' split) <;> simp [State.ceilingWrite_foot]))) (fun p hp => hW p (by unfold State.ceilingWrite_foot; repeat first | with_reducible exact hp | with_reducible exact List.mem_append_right _ hp | with_reducible apply List.mem_append_left)) ?_
    | split
    | with_reducible refine forN_touches ?_ (fun x k hx => ?_)
    | with_reducible refine foldl_touches ?_ (fun x a hx => ?_)
    | with_reducible refine foldlSnd_touches ?_ (fun x a hx => ?_)
    | with_reducible assumption

/-- The parts execPwCeilingWrite touches. -/
def execPwCeilingWrite_foot : List Part := writeParam_foot ++ State.ceilingWrite_foot

theorem execPwCeilingWrite_touches {W : List Part} {σ τ : State} {acc : Accessor} {v : BitVec 16} (hW : ∀ p ∈ execPwCeilingWrite_foot, p ∈ W)
    (hT : Touches W σ τ) : OutTouches W σ (execPwCeilingWrite acc v τ) := by
  unfold execPwCeilingWrite
  try dsimp only
  repeat' first
    | with_reducible apply OutTouches.ite
    | with_reducible refine OutTouches.next ?_
    | with_reducible apply Touches.ite
    | with_reducible refine writeParam_touches  (fun p hp => hW p (by unfold execPwCeilingWrite_foot; repeat first | with_reducible exact hp | with_reducible exact List.mem_append_right _ hp | with_reducible apply List.mem_append_left)) ?_ (fun x  hx => ?_)
    | with_reducible refine State.ceilingWrite_touches (fun p hp => hW p (by unfold execPwCeilingWrite_foot; repeat first | with_reducible exact hp | with_reducible exact List.mem_append_right _ hp | with_reducible apply List.mem_append_left)) ?_
    | split
    | with_reducible refine forN_touches ?_ (fun x k hx => ?_)
    | with_reducible refine foldl_touches ?_ (fun x a hx => ?_)
    | with_reducible refine foldlSnd_touches ?_ (fun x a hx => ?_)
    | with_reducible assumption

end Sys2Proof.Machine
end

