-- ==== Sys2Proof/Laws/TouchesHuskJobs.lean ====
section
/-! SUPPORT. What the functions of Machine/HuskJobs.lean touch. -/
namespace Sys2Proof.Machine
set_option linter.all false

/-- The parts a codec's reads and writes touch. -/
def JobRun.io_foot : List Part := State.fetch_foot ++ State.store_foot

theorem JobRun.ofPair {W : List Part} {σ : State} {α : Type} {p : JobRun × α} {q : JobRun} {a : α} (e : p = (q, a))
    (h : Touches W σ p.1.s) : Touches W σ q.s := by rw [e] at h; exact h

/-- The parts JobRun.start touches. -/
def JobRun.start_foot : List Part := []

theorem JobRun.start_touches {W : List Part} {σ τ : State} (_ : ∀ p ∈ JobRun.start_foot, p ∈ W)
    (hT : Touches W σ τ) : Touches W σ (JobRun.start τ).s := hT

/-- The parts JobRun.read touches. -/
def JobRun.read_foot : List Part := JobRun.io_foot

theorem JobRun.read_touches {W : List Part} {σ : State} {r : JobRun} {n a len : Nat} (hW : ∀ p ∈ JobRun.read_foot, p ∈ W)
    (hT : Touches W σ r.s) : Touches W σ (JobRun.read r n a len).1.s := by
  exact State.fetch_touches (fun p hp => hW p (by simp [JobRun.read_foot, JobRun.io_foot, hp])) hT

/-- The parts JobRun.write touches. -/
def JobRun.write_foot : List Part := JobRun.io_foot

theorem JobRun.write_touches {W : List Part} {σ : State} {r : JobRun} {n a : Nat} {data : List Byte} (hW : ∀ p ∈ JobRun.write_foot, p ∈ W)
    (hT : Touches W σ r.s) : Touches W σ (JobRun.write r n a data).s := by
  exact State.store_touches (fun p hp => hW p (by simp [JobRun.write_foot, JobRun.io_foot, hp])) hT

/-- The parts JobRun.openBuf touches. -/
def JobRun.openBuf_foot : List Part := JobRun.io_foot

theorem JobRun.openBuf_touches {W : List Part} {σ : State} {r : JobRun} {n a : Nat} {input : Bool} {least : Nat} (hW : ∀ p ∈ JobRun.openBuf_foot, p ∈ W)
    (hT : Touches W σ r.s) : Touches W σ (JobRun.openBuf r n a input least).1.s := by
  have h1 := JobRun.read_touches (n := n) (a := a) (len := 32) hW hT
  unfold JobRun.openBuf
  dsimp only
  repeat' first
    | exact h1
    | split

/-- The parts JobRun.putUsed touches. -/
def JobRun.putUsed_foot : List Part := JobRun.io_foot

theorem JobRun.putUsed_touches {W : List Part} {σ : State} {r : JobRun} {n : Nat} {b : JobBuf} (hW : ∀ p ∈ JobRun.putUsed_foot, p ∈ W)
    (hT : Touches W σ r.s) : Touches W σ (JobRun.putUsed r n b).s := by
  exact JobRun.write_touches hW hT

/-- The parts JobRun.roomFor touches. -/
def JobRun.roomFor_foot : List Part := JobRun.io_foot

theorem JobRun.roomFor_touches {W : List Part} {σ : State} {r : JobRun} {n : Nat} {j : Job} {b : JobBuf} {len : Nat} (hW : ∀ p ∈ JobRun.roomFor_foot, p ∈ W)
    (hT : Touches W σ r.s) : Touches W σ (JobRun.roomFor r n j b len).1.s := by
  unfold JobRun.roomFor
  dsimp only
  split
  · exact hT
  · split
    · exact JobRun.putUsed_touches hW hT
    · split
      · exact JobRun.putUsed_touches hW hT
      · exact JobRun.openBuf_touches hW (JobRun.putUsed_touches hW hT)

/-- The parts JobRun.putUnit touches. -/
def JobRun.putUnit_foot : List Part := JobRun.io_foot

theorem JobRun.putUnit_touches {W : List Part} {σ : State} {r : JobRun} {n : Nat} {unit : List Byte} {c : JobBuf} (hW : ∀ p ∈ JobRun.putUnit_foot, p ∈ W)
    (hT : Touches W σ r.s) : Touches W σ (JobRun.putUnit r n unit c).s := by
  have h1 := JobRun.write_touches (n := n) (a := c.addr + c.off) (data := unit) hW hT
  unfold JobRun.putUnit
  dsimp only
  split <;> exact h1

/-- The parts JobRun.outBuf touches. -/
def JobRun.outBuf_foot : List Part := JobRun.io_foot

theorem JobRun.outBuf_touches {W : List Part} {σ : State} {r : JobRun} {n : Nat} {j : Job} (hW : ∀ p ∈ JobRun.outBuf_foot, p ∈ W)
    (hT : Touches W σ r.s) : Touches W σ (JobRun.outBuf r n j).1.s := by
  unfold JobRun.outBuf
  split
  · exact hT
  · exact JobRun.openBuf_touches hW hT

/-- The parts JobRun.emit touches. -/
def JobRun.emit_foot : List Part := JobRun.io_foot

theorem JobRun.emit_touches {W : List Part} {σ : State} {r : JobRun} {n : Nat} {j : Job} {unit : List Byte} (hW : ∀ p ∈ JobRun.emit_foot, p ∈ W)
    (hT : Touches W σ r.s) : Touches W σ (JobRun.emit r n j unit).s := by
  have h1 := JobRun.outBuf_touches (n := n) (j := j) hW hT
  unfold JobRun.emit
  split
  · exact hT
  · split
    · exact JobRun.ofPair (by assumption) h1
    · have h2 := JobRun.ofPair (by assumption) h1
      split
      · exact JobRun.ofPair (by assumption) (JobRun.roomFor_touches hW h2)
      · exact JobRun.putUnit_touches hW (JobRun.ofPair (by assumption) (JobRun.roomFor_touches hW h2))

/-- The parts JobRun.count touches. -/
def JobRun.count_foot : List Part := JobRun.io_foot

theorem JobRun.count_touches {W : List Part} {σ : State} {r : JobRun} {pred : Nat} {xs : List Husk.Sample}
    (hT : Touches W σ r.s) : Touches W σ (r.count pred xs).s := hT

/-- The parts JobRun.encodeTile touches. -/
def JobRun.encodeTile_foot : List Part := JobRun.io_foot

theorem JobRun.encodeTile_touches {W : List Part} {σ : State} {r : JobRun} {n : Nat} {j : Job} (hW : ∀ p ∈ JobRun.encodeTile_foot, p ∈ W)
    (hT : Touches W σ r.s) : Touches W σ (JobRun.encodeTile r n j).s := by
  have h1 := JobRun.read_touches (n := n) (a := j.inAddr + r.done * j.unit) (len := j.unit) hW hT
  unfold JobRun.encodeTile
  dsimp only
  split
  · exact h1
  · split
    · exact JobRun.emit_touches hW h1
    · exact JobRun.count_touches (JobRun.emit_touches hW h1)

/-- The parts JobRun.seek touches. -/
def JobRun.seek_foot : List Part := JobRun.io_foot

theorem JobRun.seek_touches {W : List Part} {σ : State} {n k : Nat} {r : JobRun} {b : JobBuf}
    (hW : ∀ p ∈ JobRun.seek_foot, p ∈ W) (hT : Touches W σ r.s) : Touches W σ (JobRun.seek n k r b).1.s := by
  induction k generalizing r b with
  | zero => exact hT
  | succ k ih =>
    unfold JobRun.seek
    split
    · exact hT
    · split
      · exact hT
      · have h1 := JobRun.openBuf_touches (n := n) (a := b.next) (input := true) (least := 0) hW hT
        split
        · exact JobRun.ofPair (by assumption) h1
        · exact ih (JobRun.ofPair (by assumption) h1)

/-- The parts JobRun.decodeAt touches. -/
def JobRun.decodeAt_foot : List Part := JobRun.io_foot

/-- A tile of a decode job from the place it starts at. -/
theorem JobRun.decodeAt_touches {W : List Part} {σ : State} {r q : JobRun} {n : Nat} {j : Job} {b : JobBuf}
    (hW : ∀ p ∈ JobRun.decodeAt_foot, p ∈ W) (hT : Touches W σ q.s) : Touches W σ (JobRun.decodeAt r q n j b).s := by
  have h1 := JobRun.read_touches (n := n) (a := b.addr + b.off) (len := min 8 (b.used - b.off)) hW hT
  unfold JobRun.decodeAt
  dsimp only
  split
  · exact h1
  · split
    · exact h1
    · split
      · exact h1
      · split
        · exact h1
        · split
          · exact JobRun.read_touches hW h1
          · split
            · exact JobRun.read_touches hW h1
            · split
              · exact JobRun.emit_touches hW (JobRun.read_touches hW h1)
              · exact (JobRun.emit_touches hW (JobRun.read_touches hW h1))


/-- The parts JobRun.decodeTile touches. -/
def JobRun.decodeTile_foot : List Part := JobRun.io_foot

theorem JobRun.decodeTile_touches {W : List Part} {σ : State} {r : JobRun} {n : Nat} {j : Job} (hW : ∀ p ∈ JobRun.decodeTile_foot, p ∈ W)
    (hT : Touches W σ r.s) : Touches W σ (JobRun.decodeTile r n j).s := by
  unfold JobRun.decodeTile
  repeat' first
    | assumption
    | refine JobRun.decodeAt_touches hW ?_
    | refine JobRun.openBuf_touches hW ?_
    | refine JobRun.ofPair (by assumption) (JobRun.openBuf_touches hW ?_)
    | refine JobRun.seek_touches hW ?_
    | refine JobRun.ofPair (by assumption) (JobRun.seek_touches hW ?_)
    | (apply JobRun.ofPair; assumption)
    | split
    | dsimp only

/-- The parts JobRun.tiles touches. -/
def JobRun.tiles_foot : List Part := JobRun.io_foot

theorem JobRun.tiles_touches {W : List Part} {σ : State} {n : Nat} {j : Job} {k : Nat} {r : JobRun}
    (hW : ∀ p ∈ JobRun.tiles_foot, p ∈ W) (hT : Touches W σ r.s) : Touches W σ (JobRun.tiles n j k r).s := by
  induction k generalizing r with
  | zero => exact hT
  | succ k ih =>
    unfold JobRun.tiles
    split
    · exact hT
    · split
      · exact ih (JobRun.decodeTile_touches hW hT)
      · exact ih (JobRun.encodeTile_touches hW hT)

/-- The parts JobRun.ended touches. -/
def JobRun.ended_foot : List Part := JobRun.io_foot


/-- The parts State.keepJob touches. -/
def State.keepJob_foot : List Part := [.reg .iGC_NW, .reg .iGC_NR, .reg .iGC_NI, .reg .iGC_OUT, .reg .iGC_DONE, .reg .iGC_FROZEN_JOB, .reg .iGC_OFF, .reg .iGC_BUF] ++ State.refreshTaps_foot

theorem State.keepJob_touches {W : List Part} {σ τ : State} {n : Nat} {r : JobRun} (hW : ∀ p ∈ State.keepJob_foot, p ∈ W)
    (hT : Touches W σ τ) : Touches W σ (State.keepJob τ n r) := by
  unfold State.keepJob
  try dsimp only
  repeat' first
    | with_reducible apply Touches.ite
    | with_reducible refine State.setReg_touches (hW _ (by first | (simp [State.keepJob_foot]; done) | (split <;> simp [State.keepJob_foot] <;> done) | ((repeat' split) <;> simp [State.keepJob_foot])))  ?_
    | with_reducible refine State.refreshTaps_touches (fun p hp => hW p (by unfold State.keepJob_foot; repeat first | with_reducible exact hp | with_reducible exact List.mem_append_right _ hp | with_reducible apply List.mem_append_left)) ?_
    | split
    | with_reducible refine forN_touches ?_ (fun x k hx => ?_)
    | with_reducible refine foldl_touches ?_ (fun x a hx => ?_)
    | with_reducible refine foldlSnd_touches ?_ (fun x a hx => ?_)
    | with_reducible assumption

/-- The parts State.gcTake touches. -/
def State.gcTake_foot : List Part := [.reg .iGC_TAG, .reg .iGC_JOB]

theorem State.gcTake_touches {W : List Part} {σ τ : State} {n : Nat} {w : Nat} {tag : Nat} (hW : ∀ p ∈ State.gcTake_foot, p ∈ W)
    (hT : Touches W σ τ) : Touches W σ (State.gcTake τ n w tag) := by
  unfold State.gcTake
  try dsimp only
  repeat' first
    | with_reducible apply Touches.ite
    | with_reducible refine State.setReg_touches (hW _ (by first | (simp [State.gcTake_foot]; done) | (split <;> simp [State.gcTake_foot] <;> done) | ((repeat' split) <;> simp [State.gcTake_foot])))  ?_
    | split
    | with_reducible refine forN_touches ?_ (fun x k hx => ?_)
    | with_reducible refine foldl_touches ?_ (fun x a hx => ?_)
    | with_reducible refine foldlSnd_touches ?_ (fun x a hx => ?_)
    | with_reducible assumption

/-- The parts State.jobRecord touches. -/
def State.jobRecord_foot : List Part := [.reg .GC_HEAD, .reg .GC_JOBS_OK, .reg .GC_ABANDONED, .reg .GC_JOBS_FAILED, .reg .GC_LAST_STATUS, .fld .draws, .fld .grants, .fld .highReqs, .fld .normalReqs] ++ JobRun.ended_foot ++ State.keepJob_foot ++ State.store_foot ++ State.raise_foot

theorem State.jobRecord_touches {W : List Part} {σ τ : State} {n : Nat} {r : JobRun} {result : Nat} {failed : Bool}
    (hW : ∀ p ∈ State.jobRecord_foot, p ∈ W) (hT : Touches W σ τ) :
    Touches W σ (State.jobRecord τ n r result failed) := by
  have h2 : Touches W σ (r.ended n τ).s := by
    unfold JobRun.ended
    split
    · exact JobRun.putUsed_touches (fun p hp => hW p (by
        simp only [JobRun.putUsed_foot, JobRun.io_foot, List.mem_append] at hp
        obtain hp | hp := hp <;> simp [State.jobRecord_foot, JobRun.ended_foot, JobRun.putUsed_foot, JobRun.io_foot, hp])) hT
    · exact hT
  have hK : ∀ {z : State}, Touches W σ z → Touches W σ (z.keepJob n r) := fun hz =>
    State.keepJob_touches (fun p hp => hW p (by simp [State.jobRecord_foot, hp])) hz
  have h1 : Touches W σ (if r.outBytes < 2 ^ 32 then (r.ended n τ).s else (r.ended n τ).s.draw.2) :=
    .ite h2 (State.draw_touches (hW _ (by simp [State.jobRecord_foot])) h2)
  unfold State.jobRecord
  dsimp only
  split
  · exact hK h2
  · generalize (if r.outBytes < 2 ^ 32 then (r.ended n τ).s else (r.ended n τ).s.draw.2) = u at h1 ⊢
    have h3 : ∀ {m p a d}, Touches W σ (u.store m p a d).2 := fun {m p a d} =>
      State.store_touches (fun p hp => hW p (by simp [State.jobRecord_foot, hp])) h1
    refine Touches.ite (hK h3) ?_
    repeat' first
        | exact h3
        | with_reducible apply Touches.ite
        | with_reducible refine State.setReg_touches (hW _ (by simp [State.jobRecord_foot])) ?_
        | with_reducible refine State.bump_touches (hW _ (by (repeat' split) <;> simp [State.jobRecord_foot])) ?_
        | with_reducible refine State.release_touches (hW _ (by simp [State.jobRecord_foot])) (hW _ (by simp [State.jobRecord_foot])) (hW _ (by simp [State.jobRecord_foot])) ?_
        | with_reducible refine State.raise_touches (fun p hp => hW p (by simp [State.jobRecord_foot, hp])) ?_

/-- The parts State.jobOver touches. -/
def State.jobOver_foot : List Part := [.reg .GC_STATE] ++ State.raiseDisabled_foot

theorem State.jobOver_touches {W : List Part} {σ τ : State} {n : Nat} {abandoned : Nat} (hW : ∀ p ∈ State.jobOver_foot, p ∈ W)
    (hT : Touches W σ τ) : Touches W σ (State.jobOver τ n abandoned) := by
  unfold State.jobOver
  try dsimp only
  repeat' first
    | with_reducible apply Touches.ite
    | with_reducible refine State.setReg_touches (hW _ (by first | (simp [State.jobOver_foot]; done) | (split <;> simp [State.jobOver_foot] <;> done) | ((repeat' split) <;> simp [State.jobOver_foot])))  ?_
    | with_reducible refine State.raiseDisabled_touches (fun p hp => hW p (by unfold State.jobOver_foot; repeat first | with_reducible exact hp | with_reducible exact List.mem_append_right _ hp | with_reducible apply List.mem_append_left)) ?_
    | split
    | with_reducible refine forN_touches ?_ (fun x k hx => ?_)
    | with_reducible refine foldl_touches ?_ (fun x a hx => ?_)
    | with_reducible refine foldlSnd_touches ?_ (fun x a hx => ?_)
    | with_reducible assumption

/-- The parts execGcTailWrite touches. -/
def execGcTailWrite_foot : List Part := [.reg .GC_TAIL] ++ writeParam_foot

theorem execGcTailWrite_touches {W : List Part} {σ τ : State} {acc : Accessor} {n : Fin 8} {tail : BitVec 16} (hW : ∀ p ∈ execGcTailWrite_foot, p ∈ W)
    (hT : Touches W σ τ) : OutTouches W σ (execGcTailWrite acc n tail τ) := by
  unfold execGcTailWrite
  try dsimp only
  repeat' first
    | with_reducible apply OutTouches.ite
    | with_reducible refine OutTouches.next ?_
    | with_reducible apply Touches.ite
    | with_reducible refine writeParam_touches  (fun p hp => hW p (by unfold execGcTailWrite_foot; repeat first | with_reducible exact hp | with_reducible exact List.mem_append_right _ hp | with_reducible apply List.mem_append_left)) ?_ (fun x  hx => ?_)
    | with_reducible refine State.setReg_touches (hW _ (by first | (simp [execGcTailWrite_foot]; done) | (split <;> simp [execGcTailWrite_foot] <;> done) | ((repeat' split) <;> simp [execGcTailWrite_foot])))  ?_
    | split
    | with_reducible refine forN_touches ?_ (fun x k hx => ?_)
    | with_reducible refine foldl_touches ?_ (fun x a hx => ?_)
    | with_reducible refine foldlSnd_touches ?_ (fun x a hx => ?_)
    | with_reducible assumption

/-- The parts execGcJobStart touches. -/
def execGcJobStart_foot : List Part := [.reg .GC_STATE, .fld .draws, .fld .highReqs, .fld .normalReqs] ++ JobRun.read_foot ++ JobRun.start_foot ++ State.see_foot ++ State.gcTake_foot ++ State.jobOver_foot ++ State.jobRecord_foot ++ State.keepJob_foot

theorem execGcJobStart_touches {W : List Part} {σ τ : State} {n : Fin 8} {seen : Seen} (hW : ∀ p ∈ execGcJobStart_foot, p ∈ W)
    (hT : Touches W σ τ) : OutTouches W σ (execGcJobStart n seen τ) := by
  unfold execGcJobStart
  try dsimp only
  repeat' first
    | with_reducible apply OutTouches.ite
    | with_reducible refine OutTouches.next ?_
    | with_reducible apply Touches.ite
    | with_reducible refine Touches.ofPair (by assumption) (JobRun.read_touches (fun p hp => hW p (by unfold execGcJobStart_foot; repeat first | with_reducible exact hp | with_reducible exact List.mem_append_right _ hp | with_reducible apply List.mem_append_left)) ?_)
    | with_reducible refine JobRun.read_touches (fun p hp => hW p (by unfold execGcJobStart_foot; repeat first | with_reducible exact hp | with_reducible exact List.mem_append_right _ hp | with_reducible apply List.mem_append_left)) ?_
    | with_reducible refine JobRun.start_touches (fun p hp => hW p (by unfold execGcJobStart_foot; repeat first | with_reducible exact hp | with_reducible exact List.mem_append_right _ hp | with_reducible apply List.mem_append_left)) ?_
    | with_reducible refine State.see_touches (fun p hp => hW p (by unfold execGcJobStart_foot; repeat first | with_reducible exact hp | with_reducible exact List.mem_append_right _ hp | with_reducible apply List.mem_append_left)) ?_
    | with_reducible refine State.draw_touches (hW _ (by simp [execGcJobStart_foot])) ?_
    | with_reducible refine Touches.ofPair (by assumption) (State.draw_touches (hW _ (by simp [execGcJobStart_foot])) ?_)
    | with_reducible refine State.gcTake_touches (fun p hp => hW p (by unfold execGcJobStart_foot; repeat first | with_reducible exact hp | with_reducible exact List.mem_append_right _ hp | with_reducible apply List.mem_append_left)) ?_
    | with_reducible refine State.jobOver_touches (fun p hp => hW p (by unfold execGcJobStart_foot; repeat first | with_reducible exact hp | with_reducible exact List.mem_append_right _ hp | with_reducible apply List.mem_append_left)) ?_
    | with_reducible refine State.jobRecord_touches (fun p hp => hW p (by unfold execGcJobStart_foot; repeat first | with_reducible exact hp | with_reducible exact List.mem_append_right _ hp | with_reducible apply List.mem_append_left)) ?_
    | with_reducible refine State.keepJob_touches (fun p hp => hW p (by unfold execGcJobStart_foot; repeat first | with_reducible exact hp | with_reducible exact List.mem_append_right _ hp | with_reducible apply List.mem_append_left)) ?_
    | with_reducible refine State.request_touches (hW _ (by simp [execGcJobStart_foot])) (hW _ (by simp [execGcJobStart_foot])) ?_
    | with_reducible refine State.setReg_touches (hW _ (by first | (simp [execGcJobStart_foot]; done) | (split <;> simp [execGcJobStart_foot] <;> done) | ((repeat' split) <;> simp [execGcJobStart_foot])))  ?_
    | split
    | with_reducible refine forN_touches ?_ (fun x k hx => ?_)
    | with_reducible refine foldl_touches ?_ (fun x a hx => ?_)
    | with_reducible refine foldlSnd_touches ?_ (fun x a hx => ?_)
    | with_reducible assumption

/-- The parts execGcJobRun touches. -/
def execGcJobRun_foot : List Part := [.reg .GC_STATE]

theorem execGcJobRun_touches {W : List Part} {σ τ : State} {n : Fin 8} (hW : ∀ p ∈ execGcJobRun_foot, p ∈ W)
    (hT : Touches W σ τ) : OutTouches W σ (execGcJobRun n τ) := by
  unfold execGcJobRun
  try dsimp only
  repeat' first
    | with_reducible apply OutTouches.ite
    | with_reducible refine OutTouches.next ?_
    | with_reducible apply Touches.ite
    | with_reducible refine State.setReg_touches (hW _ (by first | (simp [execGcJobRun_foot]; done) | (split <;> simp [execGcJobRun_foot] <;> done) | ((repeat' split) <;> simp [execGcJobRun_foot])))  ?_
    | split
    | with_reducible refine forN_touches ?_ (fun x k hx => ?_)
    | with_reducible refine foldl_touches ?_ (fun x a hx => ?_)
    | with_reducible refine foldlSnd_touches ?_ (fun x a hx => ?_)
    | with_reducible assumption

/-- The parts execGcJobEnd touches. -/
def execGcJobEnd_foot : List Part := JobRun.tiles_foot ++ JobRun.start_foot ++ State.see_foot ++ State.jobOver_foot ++ State.jobRecord_foot ++ State.keepJob_foot

theorem execGcJobEnd_touches {W : List Part} {σ τ : State} {n : Fin 8} {seen : Seen} (hW : ∀ p ∈ execGcJobEnd_foot, p ∈ W)
    (hT : Touches W σ τ) : OutTouches W σ (execGcJobEnd n seen τ) := by
  unfold execGcJobEnd
  try dsimp only
  repeat' first
    | with_reducible apply OutTouches.ite
    | with_reducible refine OutTouches.next ?_
    | with_reducible apply Touches.ite
    | with_reducible refine JobRun.tiles_touches (fun p hp => hW p (by unfold execGcJobEnd_foot; repeat first | with_reducible exact hp | with_reducible exact List.mem_append_right _ hp | with_reducible apply List.mem_append_left)) ?_
    | with_reducible refine JobRun.start_touches (fun p hp => hW p (by unfold execGcJobEnd_foot; repeat first | with_reducible exact hp | with_reducible exact List.mem_append_right _ hp | with_reducible apply List.mem_append_left)) ?_
    | with_reducible refine State.see_touches (fun p hp => hW p (by unfold execGcJobEnd_foot; repeat first | with_reducible exact hp | with_reducible exact List.mem_append_right _ hp | with_reducible apply List.mem_append_left)) ?_
    | with_reducible refine State.jobOver_touches (fun p hp => hW p (by unfold execGcJobEnd_foot; repeat first | with_reducible exact hp | with_reducible exact List.mem_append_right _ hp | with_reducible apply List.mem_append_left)) ?_
    | with_reducible refine State.jobRecord_touches (fun p hp => hW p (by unfold execGcJobEnd_foot; repeat first | with_reducible exact hp | with_reducible exact List.mem_append_right _ hp | with_reducible apply List.mem_append_left)) ?_
    | with_reducible refine State.keepJob_touches (fun p hp => hW p (by unfold execGcJobEnd_foot; repeat first | with_reducible exact hp | with_reducible exact List.mem_append_right _ hp | with_reducible apply List.mem_append_left)) ?_
    | split
    | with_reducible refine forN_touches ?_ (fun x k hx => ?_)
    | with_reducible refine foldl_touches ?_ (fun x a hx => ?_)
    | with_reducible refine foldlSnd_touches ?_ (fun x a hx => ?_)
    | with_reducible assumption

/-- The parts State.codecAbandon touches. -/
def State.codecAbandon_foot : List Part := JobRun.tiles_foot ++ JobRun.start_foot ++ State.keepJob_foot ++ State.jobOver_foot ++ State.jobRecord_foot

theorem State.codecAbandon_touches {W : List Part} {σ τ : State} {n : Nat} {done : Nat} (hW : ∀ p ∈ State.codecAbandon_foot, p ∈ W)
    (hT : Touches W σ τ) : Touches W σ (State.codecAbandon τ n done) := by
  unfold State.codecAbandon
  try dsimp only
  repeat' first
    | with_reducible apply Touches.ite
    | with_reducible refine JobRun.tiles_touches (fun p hp => hW p (by unfold State.codecAbandon_foot; repeat first | with_reducible exact hp | with_reducible exact List.mem_append_right _ hp | with_reducible apply List.mem_append_left)) ?_
    | with_reducible refine JobRun.start_touches (fun p hp => hW p (by unfold State.codecAbandon_foot; repeat first | with_reducible exact hp | with_reducible exact List.mem_append_right _ hp | with_reducible apply List.mem_append_left)) ?_
    | with_reducible refine State.keepJob_touches (fun p hp => hW p (by unfold State.codecAbandon_foot; repeat first | with_reducible exact hp | with_reducible exact List.mem_append_right _ hp | with_reducible apply List.mem_append_left)) ?_
    | with_reducible refine State.jobOver_touches (fun p hp => hW p (by unfold State.codecAbandon_foot; repeat first | with_reducible exact hp | with_reducible exact List.mem_append_right _ hp | with_reducible apply List.mem_append_left)) ?_
    | with_reducible refine State.jobRecord_touches (fun p hp => hW p (by unfold State.codecAbandon_foot; repeat first | with_reducible exact hp | with_reducible exact List.mem_append_right _ hp | with_reducible apply List.mem_append_left)) ?_
    | split
    | with_reducible refine forN_touches ?_ (fun x k hx => ?_)
    | with_reducible refine foldl_touches ?_ (fun x a hx => ?_)
    | with_reducible refine foldlSnd_touches ?_ (fun x a hx => ?_)
    | with_reducible assumption

/-- The parts State.codecDisable touches. -/
def State.codecDisable_foot : List Part := [.reg .GC_ENABLE, .reg .GC_STATE, .fld .keepPending] ++ State.loseIngest_foot ++ State.jobOver_foot ++ State.codecAbandon_foot

theorem State.codecDisable_touches {W : List Part} {σ τ : State} {n : Nat} {done : Nat} (hW : ∀ p ∈ State.codecDisable_foot, p ∈ W)
    (hT : Touches W σ τ) : Touches W σ (State.codecDisable τ n done) := by
  unfold State.codecDisable
  try dsimp only
  repeat' first
    | with_reducible apply Touches.ite
    | with_reducible refine State.loseIngest_touches (fun p hp => hW p (by unfold State.codecDisable_foot; repeat first | with_reducible exact hp | with_reducible exact List.mem_append_right _ hp | with_reducible apply List.mem_append_left)) ?_
    | with_reducible refine State.putReg_touches (hW _ (by first | (simp [State.codecDisable_foot]; done) | (split <;> simp [State.codecDisable_foot] <;> done) | ((repeat' split) <;> simp [State.codecDisable_foot]))) (hW _ (by simp [State.codecDisable_foot])) ?_
    | with_reducible refine State.jobOver_touches (fun p hp => hW p (by unfold State.codecDisable_foot; repeat first | with_reducible exact hp | with_reducible exact List.mem_append_right _ hp | with_reducible apply List.mem_append_left)) ?_
    | with_reducible refine State.setReg_touches (hW _ (by first | (simp [State.codecDisable_foot]; done) | (split <;> simp [State.codecDisable_foot] <;> done) | ((repeat' split) <;> simp [State.codecDisable_foot])))  ?_
    | with_reducible refine State.codecAbandon_touches (fun p hp => hW p (by unfold State.codecDisable_foot; repeat first | with_reducible exact hp | with_reducible exact List.mem_append_right _ hp | with_reducible apply List.mem_append_left)) ?_
    | split
    | with_reducible refine forN_touches ?_ (fun x k hx => ?_)
    | with_reducible refine foldl_touches ?_ (fun x a hx => ?_)
    | with_reducible refine foldlSnd_touches ?_ (fun x a hx => ?_)
    | with_reducible assumption

/-- The parts execGcEnableDisable touches. -/
def execGcEnableDisable_foot : List Part := writeParam_foot ++ State.refreshTaps_foot ++ State.codecDisable_foot

theorem execGcEnableDisable_touches {W : List Part} {σ τ : State} {acc : Accessor} {n : Fin 8} {done : Nat} (hW : ∀ p ∈ execGcEnableDisable_foot, p ∈ W)
    (hT : Touches W σ τ) : OutTouches W σ (execGcEnableDisable acc n done τ) := by
  unfold execGcEnableDisable
  try dsimp only
  repeat' first
    | with_reducible apply OutTouches.ite
    | with_reducible refine OutTouches.next ?_
    | with_reducible apply Touches.ite
    | with_reducible refine writeParam_touches  (fun p hp => hW p (by unfold execGcEnableDisable_foot; repeat first | with_reducible exact hp | with_reducible exact List.mem_append_right _ hp | with_reducible apply List.mem_append_left)) ?_ (fun x  hx => ?_)
    | with_reducible refine State.refreshTaps_touches (fun p hp => hW p (by unfold execGcEnableDisable_foot; repeat first | with_reducible exact hp | with_reducible exact List.mem_append_right _ hp | with_reducible apply List.mem_append_left)) ?_
    | with_reducible refine State.codecDisable_touches (fun p hp => hW p (by unfold execGcEnableDisable_foot; repeat first | with_reducible exact hp | with_reducible exact List.mem_append_right _ hp | with_reducible apply List.mem_append_left)) ?_
    | split
    | with_reducible refine forN_touches ?_ (fun x k hx => ?_)
    | with_reducible refine foldl_touches ?_ (fun x a hx => ?_)
    | with_reducible refine foldlSnd_touches ?_ (fun x a hx => ?_)
    | with_reducible assumption

/-- The parts execGcEnableResume touches. -/
def execGcEnableResume_foot : List Part := [.reg .GC_ENABLE, .reg .GC_STATE, .fld .status, .fld .keepPending] ++ writeParam_foot ++ State.refreshTaps_foot

theorem execGcEnableResume_touches {W : List Part} {σ τ : State} {acc : Accessor} {n : Fin 8} (hW : ∀ p ∈ execGcEnableResume_foot, p ∈ W)
    (hT : Touches W σ τ) : OutTouches W σ (execGcEnableResume acc n τ) := by
  unfold execGcEnableResume
  try dsimp only
  repeat' first
    | with_reducible apply OutTouches.ite
    | with_reducible refine OutTouches.next ?_
    | with_reducible apply Touches.ite
    | with_reducible refine writeParam_touches  (fun p hp => hW p (by unfold execGcEnableResume_foot; repeat first | with_reducible exact hp | with_reducible exact List.mem_append_right _ hp | with_reducible apply List.mem_append_left)) ?_ (fun x  hx => ?_)
    | with_reducible refine State.refuse_touches (hW _ (by simp [execGcEnableResume_foot])) ?_
    | with_reducible refine State.refreshTaps_touches (fun p hp => hW p (by unfold execGcEnableResume_foot; repeat first | with_reducible exact hp | with_reducible exact List.mem_append_right _ hp | with_reducible apply List.mem_append_left)) ?_
    | with_reducible refine cond_touches ?_ (fun x hx => ?_)
    | with_reducible refine State.putReg_touches (hW _ (by first | (simp [execGcEnableResume_foot]; done) | (split <;> simp [execGcEnableResume_foot] <;> done) | ((repeat' split) <;> simp [execGcEnableResume_foot]))) (hW _ (by simp [execGcEnableResume_foot])) ?_
    | with_reducible refine State.setReg_touches (hW _ (by first | (simp [execGcEnableResume_foot]; done) | (split <;> simp [execGcEnableResume_foot] <;> done) | ((repeat' split) <;> simp [execGcEnableResume_foot])))  ?_
    | split
    | with_reducible refine forN_touches ?_ (fun x k hx => ?_)
    | with_reducible refine foldl_touches ?_ (fun x a hx => ?_)
    | with_reducible refine foldlSnd_touches ?_ (fun x a hx => ?_)
    | with_reducible assumption

/-- The parts execGcRingWrite touches. -/
def execGcRingWrite_foot : List Part := [.reg .GC_RING_BASE, .reg .GC_RING_SIZE, .fld .status] ++ writeParam_foot

theorem execGcRingWrite_touches {W : List Part} {σ τ : State} {acc : Accessor} {n : Fin 8} {p : RingParam} {v : Nat} (hW : ∀ p ∈ execGcRingWrite_foot, p ∈ W)
    (hT : Touches W σ τ) : OutTouches W σ (execGcRingWrite acc n p v τ) := by
  unfold execGcRingWrite
  try dsimp only
  repeat' first
    | with_reducible apply OutTouches.ite
    | with_reducible refine OutTouches.next ?_
    | with_reducible apply Touches.ite
    | with_reducible refine writeParam_touches  (fun p hp => hW p (by unfold execGcRingWrite_foot; repeat first | with_reducible exact hp | with_reducible exact List.mem_append_right _ hp | with_reducible apply List.mem_append_left)) ?_ (fun x  hx => ?_)
    | with_reducible refine State.setReg_touches (hW _ (by first | (simp [execGcRingWrite_foot]; done) | (split <;> simp [execGcRingWrite_foot] <;> done) | ((repeat' split) <;> simp [execGcRingWrite_foot])))  ?_
    | with_reducible refine State.refuse_touches (hW _ (by simp [execGcRingWrite_foot])) ?_
    | split
    | with_reducible refine forN_touches ?_ (fun x k hx => ?_)
    | with_reducible refine foldl_touches ?_ (fun x a hx => ?_)
    | with_reducible refine foldlSnd_touches ?_ (fun x a hx => ?_)
    | with_reducible assumption

/-- The parts execCodecAssignWrite touches. -/
def execCodecAssignWrite_foot : List Part := [.reg .HK_INGEST_DEC, .reg .HK_TAP_ENC, .fld .keepPending] ++ writeParam_foot ++ State.refreshTaps_foot ++ State.loseIngest_foot

theorem execCodecAssignWrite_touches {W : List Part} {σ τ : State} {acc : Accessor} {u : CodecUse} {v : BitVec 8} (hW : ∀ p ∈ execCodecAssignWrite_foot, p ∈ W)
    (hT : Touches W σ τ) : OutTouches W σ (execCodecAssignWrite acc u v τ) := by
  unfold execCodecAssignWrite
  try dsimp only
  repeat' first
    | with_reducible apply OutTouches.ite
    | with_reducible refine OutTouches.next ?_
    | with_reducible apply Touches.ite
    | with_reducible refine writeParam_touches  (fun p hp => hW p (by unfold execCodecAssignWrite_foot; repeat first | with_reducible exact hp | with_reducible exact List.mem_append_right _ hp | with_reducible apply List.mem_append_left)) ?_ (fun x  hx => ?_)
    | with_reducible refine State.refreshTaps_touches (fun p hp => hW p (by unfold execCodecAssignWrite_foot; repeat first | with_reducible exact hp | with_reducible exact List.mem_append_right _ hp | with_reducible apply List.mem_append_left)) ?_
    | with_reducible refine State.loseIngest_touches (fun p hp => hW p (by unfold execCodecAssignWrite_foot; repeat first | with_reducible exact hp | with_reducible exact List.mem_append_right _ hp | with_reducible apply List.mem_append_left)) ?_
    | with_reducible refine State.putReg_touches (hW _ (by first | (simp [execCodecAssignWrite_foot]; done) | (split <;> simp [execCodecAssignWrite_foot] <;> done) | ((repeat' split) <;> simp [execCodecAssignWrite_foot]))) (hW _ (by simp [execCodecAssignWrite_foot])) ?_
    | split
    | with_reducible refine forN_touches ?_ (fun x k hx => ?_)
    | with_reducible refine foldl_touches ?_ (fun x a hx => ?_)
    | with_reducible refine foldlSnd_touches ?_ (fun x a hx => ?_)
    | with_reducible assumption

/-- The parts execStandingGrantRequest touches. -/
def execStandingGrantRequest_foot : List Part := [.fld .highReqs, .fld .normalReqs, .fld .grants]

theorem execStandingGrantRequest_touches {W : List Part} {σ τ : State} {n : Fin 8} (hW : ∀ p ∈ execStandingGrantRequest_foot, p ∈ W)
    (hT : Touches W σ τ) : OutTouches W σ (execStandingGrantRequest n τ) := by
  unfold execStandingGrantRequest
  try dsimp only
  repeat' first
    | with_reducible apply OutTouches.ite
    | with_reducible refine OutTouches.next ?_
    | with_reducible apply Touches.ite
    | with_reducible refine State.request_touches (hW _ (by simp [execStandingGrantRequest_foot])) (hW _ (by simp [execStandingGrantRequest_foot])) ?_
    | with_reducible refine State.release_touches (hW _ (by simp [execStandingGrantRequest_foot])) (hW _ (by simp [execStandingGrantRequest_foot])) (hW _ (by simp [execStandingGrantRequest_foot])) ?_
    | split
    | with_reducible refine forN_touches ?_ (fun x k hx => ?_)
    | with_reducible refine foldl_touches ?_ (fun x a hx => ?_)
    | with_reducible refine foldlSnd_touches ?_ (fun x a hx => ?_)
    | with_reducible assumption

/-- The parts State.releaseCodec touches. -/
def State.releaseCodec_foot : List Part := [.reg .iGC_FROZEN_JOB, .reg .GC_STATE] ++ JobRun.start_foot ++ State.jobRecord_foot ++ State.refreshTaps_foot ++ State.jobOver_foot

theorem State.releaseCodec_touches {W : List Part} {σ τ : State} {n : Nat} (hW : ∀ p ∈ State.releaseCodec_foot, p ∈ W)
    (hT : Touches W σ τ) : Touches W σ (State.releaseCodec τ n) := by
  unfold State.releaseCodec
  try dsimp only
  repeat' first
    | with_reducible apply Touches.ite
    | with_reducible refine JobRun.start_touches (fun p hp => hW p (by unfold State.releaseCodec_foot; repeat first | with_reducible exact hp | with_reducible exact List.mem_append_right _ hp | with_reducible apply List.mem_append_left)) ?_
    | with_reducible refine State.setReg_touches (hW _ (by first | (simp [State.releaseCodec_foot]; done) | (split <;> simp [State.releaseCodec_foot] <;> done) | ((repeat' split) <;> simp [State.releaseCodec_foot])))  ?_
    | with_reducible refine State.jobRecord_touches (fun p hp => hW p (by unfold State.releaseCodec_foot; repeat first | with_reducible exact hp | with_reducible exact List.mem_append_right _ hp | with_reducible apply List.mem_append_left)) ?_
    | with_reducible refine State.refreshTaps_touches (fun p hp => hW p (by unfold State.releaseCodec_foot; repeat first | with_reducible exact hp | with_reducible exact List.mem_append_right _ hp | with_reducible apply List.mem_append_left)) ?_
    | with_reducible refine State.jobOver_touches (fun p hp => hW p (by unfold State.releaseCodec_foot; repeat first | with_reducible exact hp | with_reducible exact List.mem_append_right _ hp | with_reducible apply List.mem_append_left)) ?_
    | split
    | with_reducible refine forN_touches ?_ (fun x k hx => ?_)
    | with_reducible refine foldl_touches ?_ (fun x a hx => ?_)
    | with_reducible refine foldlSnd_touches ?_ (fun x a hx => ?_)
    | with_reducible assumption

end Sys2Proof.Machine
end

