-- ==== Sys2Proof/Laws/TouchesInsole.lean ====
section
/-! SUPPORT. What the functions of Machine/Insole.lean touch. -/
namespace Sys2Proof.Machine
set_option linter.all false

/-- The parts State.insoleStart touches. -/
def State.insoleStart_foot : List Part := [.reg .INS_BAND, .reg .iINS_NEW, .reg .iINS_OLD, .reg .iINS_VHV, .reg .iINS_WAVE, .reg .iINS_N, .reg .iINS_NEXT, .reg .iINS_PASSES, .reg .INS_KNOWN, .reg .INS_STATE, .reg .INS_FRAME, .reg .iINS_STOP]

theorem State.insoleStart_touches {W : List Part} {σ τ : State}  (hW : ∀ p ∈ State.insoleStart_foot, p ∈ W)
    (hT : Touches W σ τ) : Touches W σ (State.insoleStart τ) := by
  unfold State.insoleStart
  try dsimp only
  repeat' first
    | with_reducible apply Touches.ite
    | with_reducible refine State.setReg_touches (hW _ (by first | (simp [State.insoleStart_foot]; done) | (split <;> simp [State.insoleStart_foot] <;> done) | ((repeat' split) <;> simp [State.insoleStart_foot])))  ?_
    | split
    | with_reducible refine forN_touches ?_ (fun x k hx => ?_)
    | with_reducible refine foldl_touches ?_ (fun x a hx => ?_)
    | with_reducible refine foldlSnd_touches ?_ (fun x a hx => ?_)
    | with_reducible assumption

/-- The parts execInsoleUpdateStart touches. -/
def execInsoleUpdateStart_foot : List Part := [.reg .INS_STATE, .fld .grants, .fld .highReqs, .fld .normalReqs] ++ State.raise_foot ++ State.insoleStart_foot

theorem execInsoleUpdateStart_touches {W : List Part} {σ τ : State}  (hW : ∀ p ∈ execInsoleUpdateStart_foot, p ∈ W)
    (hT : Touches W σ τ) : OutTouches W σ (execInsoleUpdateStart τ) := by
  unfold execInsoleUpdateStart
  try dsimp only
  repeat' first
    | with_reducible apply OutTouches.ite
    | with_reducible refine OutTouches.next ?_
    | with_reducible apply Touches.ite
    | with_reducible refine State.setReg_touches (hW _ (by first | (simp [execInsoleUpdateStart_foot]; done) | (split <;> simp [execInsoleUpdateStart_foot] <;> done) | ((repeat' split) <;> simp [execInsoleUpdateStart_foot])))  ?_
    | with_reducible refine State.release_touches (hW _ (by simp [execInsoleUpdateStart_foot])) (hW _ (by simp [execInsoleUpdateStart_foot])) (hW _ (by simp [execInsoleUpdateStart_foot])) ?_
    | with_reducible refine cond_touches ?_ (fun x hx => ?_)
    | with_reducible refine State.raise_touches (fun p hp => hW p (by unfold execInsoleUpdateStart_foot; repeat first | with_reducible exact hp | with_reducible exact List.mem_append_right _ hp | with_reducible apply List.mem_append_left)) ?_
    | with_reducible refine State.insoleStart_touches (fun p hp => hW p (by unfold execInsoleUpdateStart_foot; repeat first | with_reducible exact hp | with_reducible exact List.mem_append_right _ hp | with_reducible apply List.mem_append_left)) ?_
    | with_reducible refine State.request_touches (hW _ (by simp [execInsoleUpdateStart_foot])) (hW _ (by simp [execInsoleUpdateStart_foot])) ?_
    | split
    | with_reducible refine forN_touches ?_ (fun x k hx => ?_)
    | with_reducible refine foldl_touches ?_ (fun x a hx => ?_)
    | with_reducible refine foldlSnd_touches ?_ (fun x a hx => ?_)
    | with_reducible assumption

/-- The parts execInsoleFrame touches. -/
def execInsoleFrame_foot : List Part := [.reg .iINS_ELEC, .reg .iINS_NEXT, .reg .INS_FRAME, .fld .sent]

theorem execInsoleFrame_touches {W : List Part} {σ τ : State}  (hW : ∀ p ∈ execInsoleFrame_foot, p ∈ W)
    (hT : Touches W σ τ) : OutTouches W σ (execInsoleFrame τ) := by
  unfold execInsoleFrame
  try dsimp only
  repeat' first
    | with_reducible apply OutTouches.ite
    | with_reducible refine OutTouches.next ?_
    | with_reducible apply Touches.ite
    | with_reducible refine State.setReg_touches (hW _ (by first | (simp [execInsoleFrame_foot]; done) | (split <;> simp [execInsoleFrame_foot] <;> done) | ((repeat' split) <;> simp [execInsoleFrame_foot])))  ?_
    | with_reducible refine State.send_touches (hW _ (by simp [execInsoleFrame_foot])) ?_
    | split
    | with_reducible refine forN_touches ?_ (fun x k hx => ?_)
    | with_reducible refine foldl_touches ?_ (fun x a hx => ?_)
    | with_reducible refine foldlSnd_touches ?_ (fun x a hx => ?_)
    | with_reducible assumption

/-- The parts State.insoleDischarge touches. -/
def State.insoleDischarge_foot : List Part := [.reg .iINS_STOP, .reg .INS_DISCHARGES, .reg .INS_KNOWN, .fld .grants, .fld .highReqs, .fld .normalReqs]

theorem State.insoleDischarge_touches {W : List Part} {σ τ : State}  (hW : ∀ p ∈ State.insoleDischarge_foot, p ∈ W)
    (hT : Touches W σ τ) : Touches W σ (State.insoleDischarge τ) := by
  unfold State.insoleDischarge
  try dsimp only
  repeat' first
    | with_reducible apply Touches.ite
    | with_reducible refine State.release_touches (hW _ (by simp [State.insoleDischarge_foot])) (hW _ (by simp [State.insoleDischarge_foot])) (hW _ (by simp [State.insoleDischarge_foot])) ?_
    | with_reducible refine State.setReg_touches (hW _ (by first | (simp [State.insoleDischarge_foot]; done) | (split <;> simp [State.insoleDischarge_foot] <;> done) | ((repeat' split) <;> simp [State.insoleDischarge_foot])))  ?_
    | with_reducible refine State.bump_touches (hW _ (by first | (simp [State.insoleDischarge_foot]; done) | (split <;> simp [State.insoleDischarge_foot] <;> done) | ((repeat' split) <;> simp [State.insoleDischarge_foot])))  ?_
    | split
    | with_reducible refine forN_touches ?_ (fun x k hx => ?_)
    | with_reducible refine foldl_touches ?_ (fun x a hx => ?_)
    | with_reducible refine foldlSnd_touches ?_ (fun x a hx => ?_)
    | with_reducible assumption

/-- The parts State.insoleOff touches. -/
def State.insoleOff_foot : List Part := [.reg .iINS_ELEC, .reg .INS_STATE] ++ State.raiseDisabled_foot

theorem State.insoleOff_touches {W : List Part} {σ τ : State} {abandoned : Nat} (hW : ∀ p ∈ State.insoleOff_foot, p ∈ W)
    (hT : Touches W σ τ) : Touches W σ (State.insoleOff τ abandoned) := by
  unfold State.insoleOff
  try dsimp only
  repeat' first
    | with_reducible apply Touches.ite
    | with_reducible refine State.raiseDisabled_touches (fun p hp => hW p (by unfold State.insoleOff_foot; repeat first | with_reducible exact hp | with_reducible exact List.mem_append_right _ hp | with_reducible apply List.mem_append_left)) ?_
    | with_reducible refine State.setReg_touches (hW _ (by first | (simp [State.insoleOff_foot]; done) | (split <;> simp [State.insoleOff_foot] <;> done) | ((repeat' split) <;> simp [State.insoleOff_foot])))  ?_
    | split
    | with_reducible refine forN_touches ?_ (fun x k hx => ?_)
    | with_reducible refine foldl_touches ?_ (fun x a hx => ?_)
    | with_reducible refine foldlSnd_touches ?_ (fun x a hx => ?_)
    | with_reducible assumption

/-- The parts execInsoleUpdateEnd touches. -/
def execInsoleUpdateEnd_foot : List Part := [.reg .INS_UPDATES, .reg .INS_KNOWN, .reg .INS_SHOWN, .reg .iINS_ELEC, .reg .INS_STATE, .fld .grants, .fld .highReqs, .fld .normalReqs] ++ State.insoleOff_foot ++ State.insoleDischarge_foot

theorem execInsoleUpdateEnd_touches {W : List Part} {σ τ : State}  (hW : ∀ p ∈ execInsoleUpdateEnd_foot, p ∈ W)
    (hT : Touches W σ τ) : OutTouches W σ (execInsoleUpdateEnd τ) := by
  unfold execInsoleUpdateEnd
  try dsimp only
  repeat' first
    | with_reducible apply OutTouches.ite
    | with_reducible refine OutTouches.next ?_
    | with_reducible apply Touches.ite
    | with_reducible refine State.insoleOff_touches (fun p hp => hW p (by unfold execInsoleUpdateEnd_foot; repeat first | with_reducible exact hp | with_reducible exact List.mem_append_right _ hp | with_reducible apply List.mem_append_left)) ?_
    | with_reducible refine State.insoleDischarge_touches (fun p hp => hW p (by unfold execInsoleUpdateEnd_foot; repeat first | with_reducible exact hp | with_reducible exact List.mem_append_right _ hp | with_reducible apply List.mem_append_left)) ?_
    | with_reducible refine State.bump_touches (hW _ (by first | (simp [execInsoleUpdateEnd_foot]; done) | (split <;> simp [execInsoleUpdateEnd_foot] <;> done) | ((repeat' split) <;> simp [execInsoleUpdateEnd_foot])))  ?_
    | with_reducible refine State.setReg_touches (hW _ (by first | (simp [execInsoleUpdateEnd_foot]; done) | (split <;> simp [execInsoleUpdateEnd_foot] <;> done) | ((repeat' split) <;> simp [execInsoleUpdateEnd_foot])))  ?_
    | with_reducible refine State.release_touches (hW _ (by simp [execInsoleUpdateEnd_foot])) (hW _ (by simp [execInsoleUpdateEnd_foot])) (hW _ (by simp [execInsoleUpdateEnd_foot])) ?_
    | split
    | with_reducible refine forN_touches ?_ (fun x k hx => ?_)
    | with_reducible refine foldl_touches ?_ (fun x a hx => ?_)
    | with_reducible refine foldlSnd_touches ?_ (fun x a hx => ?_)
    | with_reducible assumption

/-- The parts State.insoleSettle touches. -/
def State.insoleSettle_foot : List Part := [.reg .INS_STATE, .fld .grants, .fld .highReqs, .fld .normalReqs]

theorem State.insoleSettle_touches {W : List Part} {σ τ : State}  (hW : ∀ p ∈ State.insoleSettle_foot, p ∈ W)
    (hT : Touches W σ τ) : Touches W σ (State.insoleSettle τ) := by
  unfold State.insoleSettle
  try dsimp only
  repeat' first
    | with_reducible apply Touches.ite
    | with_reducible refine State.setReg_touches (hW _ (by first | (simp [State.insoleSettle_foot]; done) | (split <;> simp [State.insoleSettle_foot] <;> done) | ((repeat' split) <;> simp [State.insoleSettle_foot])))  ?_
    | with_reducible refine State.release_touches (hW _ (by simp [State.insoleSettle_foot])) (hW _ (by simp [State.insoleSettle_foot])) (hW _ (by simp [State.insoleSettle_foot])) ?_
    | split
    | with_reducible refine forN_touches ?_ (fun x k hx => ?_)
    | with_reducible refine foldl_touches ?_ (fun x a hx => ?_)
    | with_reducible refine foldlSnd_touches ?_ (fun x a hx => ?_)
    | with_reducible assumption

/-- The parts State.insoleImage touches. -/
def State.insoleImage_foot : List Part := [.reg .INS_IMAGE, .fld .keepPending] ++ State.insoleSettle_foot

theorem State.insoleImage_touches {W : List Part} {σ τ : State} {v : Nat} (hW : ∀ p ∈ State.insoleImage_foot, p ∈ W)
    (hT : Touches W σ τ) : Touches W σ (State.insoleImage τ v) := by
  unfold State.insoleImage
  try dsimp only
  repeat' first
    | with_reducible apply Touches.ite
    | with_reducible refine State.insoleSettle_touches (fun p hp => hW p (by unfold State.insoleImage_foot; repeat first | with_reducible exact hp | with_reducible exact List.mem_append_right _ hp | with_reducible apply List.mem_append_left)) ?_
    | with_reducible refine State.putReg_touches (hW _ (by first | (simp [State.insoleImage_foot]; done) | (split <;> simp [State.insoleImage_foot] <;> done) | ((repeat' split) <;> simp [State.insoleImage_foot]))) (hW _ (by simp [State.insoleImage_foot])) ?_
    | split
    | with_reducible refine forN_touches ?_ (fun x k hx => ?_)
    | with_reducible refine foldl_touches ?_ (fun x a hx => ?_)
    | with_reducible refine foldlSnd_touches ?_ (fun x a hx => ?_)
    | with_reducible assumption

/-- The parts execInsoleImageWrite touches. -/
def execInsoleImageWrite_foot : List Part := writeParam_foot ++ State.insoleImage_foot

theorem execInsoleImageWrite_touches {W : List Part} {σ τ : State} {acc : Accessor} {image : BitVec 192} (hW : ∀ p ∈ execInsoleImageWrite_foot, p ∈ W)
    (hT : Touches W σ τ) : OutTouches W σ (execInsoleImageWrite acc image τ) := by
  unfold execInsoleImageWrite
  try dsimp only
  repeat' first
    | with_reducible apply OutTouches.ite
    | with_reducible refine OutTouches.next ?_
    | with_reducible apply Touches.ite
    | with_reducible refine writeParam_touches  (fun p hp => hW p (by unfold execInsoleImageWrite_foot; repeat first | with_reducible exact hp | with_reducible exact List.mem_append_right _ hp | with_reducible apply List.mem_append_left)) ?_ (fun x  hx => ?_)
    | with_reducible refine State.insoleImage_touches (fun p hp => hW p (by unfold execInsoleImageWrite_foot; repeat first | with_reducible exact hp | with_reducible exact List.mem_append_right _ hp | with_reducible apply List.mem_append_left)) ?_
    | split
    | with_reducible refine forN_touches ?_ (fun x k hx => ?_)
    | with_reducible refine foldl_touches ?_ (fun x a hx => ?_)
    | with_reducible refine foldlSnd_touches ?_ (fun x a hx => ?_)
    | with_reducible assumption

/-- The parts execPwrFailLow touches. -/
def execPwrFailLow_foot : List Part := [.reg .iINS_ELEC, .reg .INS_STATE, .reg .iPWR_FAIL] ++ State.insoleDischarge_foot ++ State.raiseDisabled_foot

theorem execPwrFailLow_touches {W : List Part} {σ τ : State}  (hW : ∀ p ∈ execPwrFailLow_foot, p ∈ W)
    (hT : Touches W σ τ) : OutTouches W σ (execPwrFailLow τ) := by
  unfold execPwrFailLow
  try dsimp only
  repeat' first
    | with_reducible apply OutTouches.ite
    | with_reducible refine OutTouches.next ?_
    | with_reducible apply Touches.ite
    | with_reducible refine State.setReg_touches (hW _ (by first | (simp [execPwrFailLow_foot]; done) | (split <;> simp [execPwrFailLow_foot] <;> done) | ((repeat' split) <;> simp [execPwrFailLow_foot])))  ?_
    | with_reducible refine State.insoleDischarge_touches (fun p hp => hW p (by unfold execPwrFailLow_foot; repeat first | with_reducible exact hp | with_reducible exact List.mem_append_right _ hp | with_reducible apply List.mem_append_left)) ?_
    | with_reducible refine cond_touches ?_ (fun x hx => ?_)
    | with_reducible refine State.raiseDisabled_touches (fun p hp => hW p (by unfold execPwrFailLow_foot; repeat first | with_reducible exact hp | with_reducible exact List.mem_append_right _ hp | with_reducible apply List.mem_append_left)) ?_
    | split
    | with_reducible refine forN_touches ?_ (fun x k hx => ?_)
    | with_reducible refine foldl_touches ?_ (fun x a hx => ?_)
    | with_reducible refine foldlSnd_touches ?_ (fun x a hx => ?_)
    | with_reducible assumption

/-- The parts execPwrFailHigh touches. -/
def execPwrFailHigh_foot : List Part := [.reg .iINS_ELEC, .reg .iPWR_FAIL, .reg .INS_STATE, .reg .INS_ENABLE]

theorem execPwrFailHigh_touches {W : List Part} {σ τ : State}  (hW : ∀ p ∈ execPwrFailHigh_foot, p ∈ W)
    (hT : Touches W σ τ) : OutTouches W σ (execPwrFailHigh τ) := by
  unfold execPwrFailHigh
  try dsimp only
  repeat' first
    | with_reducible apply OutTouches.ite
    | with_reducible refine OutTouches.next ?_
    | with_reducible apply Touches.ite
    | with_reducible refine State.setReg_touches (hW _ (by first | (simp [execPwrFailHigh_foot]; done) | (split <;> simp [execPwrFailHigh_foot] <;> done) | ((repeat' split) <;> simp [execPwrFailHigh_foot])))  ?_
    | split
    | with_reducible refine forN_touches ?_ (fun x k hx => ?_)
    | with_reducible refine foldl_touches ?_ (fun x a hx => ?_)
    | with_reducible refine foldlSnd_touches ?_ (fun x a hx => ?_)
    | with_reducible assumption

/-- The parts State.insoleDisable touches. -/
def State.insoleDisable_foot : List Part := [.reg .INS_ENABLE, .reg .iINS_STOP, .fld .keepPending, .fld .grants, .fld .highReqs, .fld .normalReqs] ++ State.raiseDisabled_foot ++ State.insoleOff_foot

theorem State.insoleDisable_touches {W : List Part} {σ τ : State}  (hW : ∀ p ∈ State.insoleDisable_foot, p ∈ W)
    (hT : Touches W σ τ) : Touches W σ (State.insoleDisable τ) := by
  unfold State.insoleDisable
  try dsimp only
  repeat' first
    | with_reducible apply Touches.ite
    | with_reducible refine State.putReg_touches (hW _ (by first | (simp [State.insoleDisable_foot]; done) | (split <;> simp [State.insoleDisable_foot] <;> done) | ((repeat' split) <;> simp [State.insoleDisable_foot]))) (hW _ (by simp [State.insoleDisable_foot])) ?_
    | with_reducible refine cond_touches ?_ (fun x hx => ?_)
    | with_reducible refine State.setReg_touches (hW _ (by first | (simp [State.insoleDisable_foot]; done) | (split <;> simp [State.insoleDisable_foot] <;> done) | ((repeat' split) <;> simp [State.insoleDisable_foot])))  ?_
    | with_reducible refine State.release_touches (hW _ (by simp [State.insoleDisable_foot])) (hW _ (by simp [State.insoleDisable_foot])) (hW _ (by simp [State.insoleDisable_foot])) ?_
    | with_reducible refine State.raiseDisabled_touches (fun p hp => hW p (by unfold State.insoleDisable_foot; repeat first | with_reducible exact hp | with_reducible exact List.mem_append_right _ hp | with_reducible apply List.mem_append_left)) ?_
    | with_reducible refine State.insoleOff_touches (fun p hp => hW p (by unfold State.insoleDisable_foot; repeat first | with_reducible exact hp | with_reducible exact List.mem_append_right _ hp | with_reducible apply List.mem_append_left)) ?_
    | split
    | with_reducible refine forN_touches ?_ (fun x k hx => ?_)
    | with_reducible refine foldl_touches ?_ (fun x a hx => ?_)
    | with_reducible refine foldlSnd_touches ?_ (fun x a hx => ?_)
    | with_reducible assumption

/-- The parts State.insoleEnable touches. -/
def State.insoleEnable_foot : List Part := [.reg .INS_ENABLE, .reg .INS_STATE, .fld .status, .fld .keepPending]

theorem State.insoleEnable_touches {W : List Part} {σ τ : State}  (hW : ∀ p ∈ State.insoleEnable_foot, p ∈ W)
    (hT : Touches W σ τ) : Touches W σ (State.insoleEnable τ) := by
  unfold State.insoleEnable
  try dsimp only
  repeat' first
    | with_reducible apply Touches.ite
    | with_reducible refine State.refuse_touches (hW _ (by simp [State.insoleEnable_foot])) ?_
    | with_reducible refine cond_touches ?_ (fun x hx => ?_)
    | with_reducible refine State.putReg_touches (hW _ (by first | (simp [State.insoleEnable_foot]; done) | (split <;> simp [State.insoleEnable_foot] <;> done) | ((repeat' split) <;> simp [State.insoleEnable_foot]))) (hW _ (by simp [State.insoleEnable_foot])) ?_
    | with_reducible refine State.setReg_touches (hW _ (by first | (simp [State.insoleEnable_foot]; done) | (split <;> simp [State.insoleEnable_foot] <;> done) | ((repeat' split) <;> simp [State.insoleEnable_foot])))  ?_
    | split
    | with_reducible refine forN_touches ?_ (fun x k hx => ?_)
    | with_reducible refine foldl_touches ?_ (fun x a hx => ?_)
    | with_reducible refine foldlSnd_touches ?_ (fun x a hx => ?_)
    | with_reducible assumption

/-- The parts execInsEnableDisable touches. -/
def execInsEnableDisable_foot : List Part := writeParam_foot ++ State.insoleDisable_foot

theorem execInsEnableDisable_touches {W : List Part} {σ τ : State} {acc : Accessor} (hW : ∀ p ∈ execInsEnableDisable_foot, p ∈ W)
    (hT : Touches W σ τ) : OutTouches W σ (execInsEnableDisable acc τ) := by
  unfold execInsEnableDisable
  try dsimp only
  repeat' first
    | with_reducible apply OutTouches.ite
    | with_reducible refine OutTouches.next ?_
    | with_reducible apply Touches.ite
    | with_reducible refine writeParam_touches  (fun p hp => hW p (by unfold execInsEnableDisable_foot; repeat first | with_reducible exact hp | with_reducible exact List.mem_append_right _ hp | with_reducible apply List.mem_append_left)) ?_ (fun x  hx => ?_)
    | with_reducible refine State.insoleDisable_touches (fun p hp => hW p (by unfold execInsEnableDisable_foot; repeat first | with_reducible exact hp | with_reducible exact List.mem_append_right _ hp | with_reducible apply List.mem_append_left)) ?_
    | split
    | with_reducible refine forN_touches ?_ (fun x k hx => ?_)
    | with_reducible refine foldl_touches ?_ (fun x a hx => ?_)
    | with_reducible refine foldlSnd_touches ?_ (fun x a hx => ?_)
    | with_reducible assumption

/-- The parts execInsEnableResume touches. -/
def execInsEnableResume_foot : List Part := writeParam_foot ++ State.insoleEnable_foot

theorem execInsEnableResume_touches {W : List Part} {σ τ : State} {acc : Accessor} (hW : ∀ p ∈ execInsEnableResume_foot, p ∈ W)
    (hT : Touches W σ τ) : OutTouches W σ (execInsEnableResume acc τ) := by
  unfold execInsEnableResume
  try dsimp only
  repeat' first
    | with_reducible apply OutTouches.ite
    | with_reducible refine OutTouches.next ?_
    | with_reducible apply Touches.ite
    | with_reducible refine writeParam_touches  (fun p hp => hW p (by unfold execInsEnableResume_foot; repeat first | with_reducible exact hp | with_reducible exact List.mem_append_right _ hp | with_reducible apply List.mem_append_left)) ?_ (fun x  hx => ?_)
    | with_reducible refine State.insoleEnable_touches (fun p hp => hW p (by unfold execInsEnableResume_foot; repeat first | with_reducible exact hp | with_reducible exact List.mem_append_right _ hp | with_reducible apply List.mem_append_left)) ?_
    | split
    | with_reducible refine forN_touches ?_ (fun x k hx => ?_)
    | with_reducible refine foldl_touches ?_ (fun x a hx => ?_)
    | with_reducible refine foldlSnd_touches ?_ (fun x a hx => ?_)
    | with_reducible assumption

/-- The parts State.insoleDrain touches. -/
def State.insoleDrain_foot : List Part := [.reg .INS_DRAIN, .reg .iINS_STOP, .fld .keepPending]

theorem State.insoleDrain_touches {W : List Part} {σ τ : State} {v : Nat} (hW : ∀ p ∈ State.insoleDrain_foot, p ∈ W)
    (hT : Touches W σ τ) : Touches W σ (State.insoleDrain τ v) := by
  unfold State.insoleDrain
  try dsimp only
  repeat' first
    | with_reducible apply Touches.ite
    | with_reducible refine cond_touches ?_ (fun x hx => ?_)
    | with_reducible refine State.putReg_touches (hW _ (by first | (simp [State.insoleDrain_foot]; done) | (split <;> simp [State.insoleDrain_foot] <;> done) | ((repeat' split) <;> simp [State.insoleDrain_foot]))) (hW _ (by simp [State.insoleDrain_foot])) ?_
    | with_reducible refine State.setReg_touches (hW _ (by first | (simp [State.insoleDrain_foot]; done) | (split <;> simp [State.insoleDrain_foot] <;> done) | ((repeat' split) <;> simp [State.insoleDrain_foot])))  ?_
    | split
    | with_reducible refine forN_touches ?_ (fun x k hx => ?_)
    | with_reducible refine foldl_touches ?_ (fun x a hx => ?_)
    | with_reducible refine foldlSnd_touches ?_ (fun x a hx => ?_)
    | with_reducible assumption

end Sys2Proof.Machine
end

