-- ==== Sys2Proof/Laws/TouchesLanes.lean ====
section
/-! SUPPORT. What the functions of Machine/Lanes.lean touch. -/
namespace Sys2Proof.Machine
set_option linter.all false

/-- The parts State.sendSlots touches. -/
def State.sendSlots_foot : List Part := [.fld .sent] ++ State.takeMsgs_foot

theorem State.sendSlots_touches {W : List Part} {σ τ : State} {surf : Nat} {raster : Nat} {j : Nat} {line : Option (List Nat × (Nat → Bool))} (hW : ∀ p ∈ State.sendSlots_foot, p ∈ W)
    (hT : Touches W σ τ) : Touches W σ (State.sendSlots τ surf raster j line) := by
  unfold State.sendSlots
  try dsimp only
  repeat' first
    | with_reducible apply Touches.ite
    | with_reducible refine State.send_touches (hW _ (by simp [State.sendSlots_foot])) ?_
    | with_reducible refine State.takeMsgs_touches (fun p hp => hW p (by unfold State.sendSlots_foot; repeat first | with_reducible exact hp | with_reducible exact List.mem_append_right _ hp | with_reducible apply List.mem_append_left)) ?_
    | split
    | with_reducible refine forN_touches ?_ (fun x k hx => ?_)
    | with_reducible refine foldl_touches ?_ (fun x a hx => ?_)
    | with_reducible refine foldlSnd_touches ?_ (fun x a hx => ?_)
    | with_reducible assumption

/-- The parts State.blankLine touches. -/
def State.blankLine_foot : List Part := [.reg .iS_RAST, .fld .sent] ++ State.sendSlots_foot

theorem State.blankLine_touches {W : List Part} {σ τ : State} {surf : Nat} (hW : ∀ p ∈ State.blankLine_foot, p ∈ W)
    (hT : Touches W σ τ) : Touches W σ (State.blankLine τ surf).2 := by
  unfold State.blankLine
  try dsimp only
  repeat' first
    | with_reducible apply Touches.iteSnd
    | with_reducible apply Touches.ite
    | with_reducible refine State.setReg_touches (hW _ (by first | (simp [State.blankLine_foot]; done) | (split <;> simp [State.blankLine_foot] <;> done) | ((repeat' split) <;> simp [State.blankLine_foot])))  ?_
    | with_reducible refine State.sendSlots_touches (fun p hp => hW p (by unfold State.blankLine_foot; repeat first | with_reducible exact hp | with_reducible exact List.mem_append_right _ hp | with_reducible apply List.mem_append_left)) ?_
    | split
    | with_reducible refine forN_touches ?_ (fun x k hx => ?_)
    | with_reducible refine foldl_touches ?_ (fun x a hx => ?_)
    | with_reducible refine foldlSnd_touches ?_ (fun x a hx => ?_)
    | with_reducible assumption
    | with_reducible refine touches_mk (fun f => by cases f <;> first | exact .inr (by with_reducible rfl) | exact .inl (hW _ (by simp [State.blankLine_foot]))) ?_

/-- The parts State.groupLine touches. -/
def State.groupLine_foot : List Part := State.groupSent_foot

theorem State.groupLine_touches {W : List Part} {σ τ : State} {surf : Nat} {p : Nat} (hW : ∀ p ∈ State.groupLine_foot, p ∈ W)
    (hT : Touches W σ τ) : Touches W σ (State.groupLine τ surf p).2 := by
  unfold State.groupLine
  try dsimp only
  repeat' first
    | with_reducible apply Touches.iteSnd
    | with_reducible apply Touches.ite
    | with_reducible refine State.groupSent_touches (fun p hp => hW p (by unfold State.groupLine_foot; repeat first | with_reducible exact hp | with_reducible exact List.mem_append_right _ hp | with_reducible apply List.mem_append_left)) ?_
    | split
    | with_reducible refine forN_touches ?_ (fun x k hx => ?_)
    | with_reducible refine foldl_touches ?_ (fun x a hx => ?_)
    | with_reducible refine foldlSnd_touches ?_ (fun x a hx => ?_)
    | with_reducible assumption

/-- The parts State.patternLine touches. -/
def State.patternLine_foot : List Part := [.reg .iWL_PRBSREG]

theorem State.patternLine_touches {W : List Part} {σ τ : State} {surf : Nat} {p : Nat} {ns : Nat} (hW : ∀ p ∈ State.patternLine_foot, p ∈ W)
    (hT : Touches W σ τ) : Touches W σ (State.patternLine τ surf p ns).2 := by
  unfold State.patternLine
  try dsimp only
  repeat' first
    | with_reducible apply Touches.iteSnd
    | with_reducible apply Touches.ite
    | with_reducible refine State.setReg_touches (hW _ (by first | (simp [State.patternLine_foot]; done) | (split <;> simp [State.patternLine_foot] <;> done) | ((repeat' split) <;> simp [State.patternLine_foot])))  ?_
    | split
    | with_reducible refine forN_touches ?_ (fun x k hx => ?_)
    | with_reducible refine foldl_touches ?_ (fun x a hx => ?_)
    | with_reducible refine foldlSnd_touches ?_ (fun x a hx => ?_)
    | with_reducible assumption

/-- The parts State.checkPattern touches. -/
def State.checkPattern_foot : List Part := [.reg .WR_PRBS_BITS, .reg .WR_PRBS_ERR, .fld .draws]

theorem State.checkPattern_touches {W : List Part} {σ τ : State} {i : Nat} {old : Nat} (hW : ∀ p ∈ State.checkPattern_foot, p ∈ W)
    (hT : Touches W σ τ) : Touches W σ (State.checkPattern τ i old) := by
  unfold State.checkPattern
  try dsimp only
  repeat' first
    | with_reducible apply Touches.ite
    | with_reducible refine State.draw_touches (hW _ (by simp [State.checkPattern_foot])) ?_
    | with_reducible refine Touches.ofPair (by assumption) (State.draw_touches (hW _ (by simp [State.checkPattern_foot])) ?_)
    | with_reducible refine State.bumpBy_touches (hW _ (by first | (simp [State.checkPattern_foot]; done) | (split <;> simp [State.checkPattern_foot] <;> done) | ((repeat' split) <;> simp [State.checkPattern_foot])))  ?_
    | with_reducible refine State.setReg_touches (hW _ (by first | (simp [State.checkPattern_foot]; done) | (split <;> simp [State.checkPattern_foot] <;> done) | ((repeat' split) <;> simp [State.checkPattern_foot])))  ?_
    | split
    | with_reducible refine forN_touches ?_ (fun x k hx => ?_)
    | with_reducible refine foldl_touches ?_ (fun x a hx => ?_)
    | with_reducible refine foldlSnd_touches ?_ (fun x a hx => ?_)
    | with_reducible assumption

/-- The parts State.lanesTick touches. -/
def State.lanesTick_foot : List Part := State.blankLine_foot ++ State.groupLine_foot ++ State.patternLine_foot

theorem State.lanesTick_touches {W : List Part} {σ τ : State} {surf : Nat} {old : Nat} (hW : ∀ p ∈ State.lanesTick_foot, p ∈ W)
    (hT : Touches W σ τ) : Touches W σ (State.lanesTick τ surf old).2 := by
  unfold State.lanesTick
  refine forNSnd_touches (State.blankLine_touches (fun p hp => hW p (by unfold State.lanesTick_foot; simp [hp])) hT)
    (fun x p hx => ?_)
  exact State.patternLine_touches (fun p hp => hW p (by unfold State.lanesTick_foot; simp [hp]))
    (State.groupLine_touches (fun p hp => hW p (by unfold State.lanesTick_foot; simp [hp])) hx)

/-- The parts State.linksTick touches. -/
def State.linksTick_foot : List Part := [.fld .sent] ++ State.lanesTick_foot ++ State.checkPattern_foot

theorem State.linksTick_touches {W : List Part} {σ τ : State} {old : Nat} (hW : ∀ p ∈ State.linksTick_foot, p ∈ W)
    (hT : Touches W σ τ) : Touches W σ (State.linksTick τ old) := by
  have hL : ∀ p ∈ State.lanesTick_foot, p ∈ W := fun p hp => hW p (by unfold State.linksTick_foot; simp [hp])
  have h1 := State.lanesTick_touches (surf := 0) (old := old) hL hT
  unfold State.linksTick
  generalize τ.lanesTick 0 old = x at h1 ⊢
  obtain ⟨a, u⟩ := x
  have h2 := State.lanesTick_touches (surf := 1) (old := old) hL h1
  dsimp only at h2 ⊢
  generalize u.lanesTick 1 old = y at h2 ⊢
  obtain ⟨b, v⟩ := y
  dsimp only at h2 ⊢
  have h3 : Touches W σ (forN 4 v fun t i => t.checkPattern i old) := forN_touches h2 (fun z k hz =>
    State.checkPattern_touches (fun p hp => hW p (by unfold State.linksTick_foot; simp [hp])) hz)
  generalize (forN 4 v fun t i => t.checkPattern i old) = z at h3 ⊢
  split
  · exact h3
  · exact State.send_touches (hW _ (by simp [State.linksTick_foot])) h3

end Sys2Proof.Machine
end

