-- ==== Sys2Proof/Laws/TouchesSkiver.lean ====
section
/-! SUPPORT. What the functions of Machine/Skiver.lean touch. -/
namespace Sys2Proof.Machine
set_option linter.all false

/-- The parts SkRun.read touches. -/
def SkRun.read_foot : List Part := State.fetch_foot

theorem SkRun.read_touches {W : List Part} {σ : State} {r : SkRun} {k a n : Nat}
    (hW : ∀ p ∈ SkRun.read_foot, p ∈ W) (hT : Touches W σ r.s) : Touches W σ (SkRun.read r k a n).1.s :=
  State.fetch_touches hW hT

/-- The parts SkRun.pixel touches. -/
def SkRun.pixel_foot : List Part := [.reg .SK_BYTES] ++ SkRun.read_foot ++ State.store_foot

theorem SkRun.pixel_touches {W : List Part} {σ : State} {r : SkRun} {k : Nat} {j : SkJob} {pat : List Byte}
    {i row : Nat} (hW : ∀ p ∈ SkRun.pixel_foot, p ∈ W) (hT : Touches W σ r.s) :
    Touches W σ (SkRun.pixel r k j pat i row).s := by
  have hR : ∀ {c : Prop} [Decidable c] {q : SkRun} {a n : Nat}, Touches W σ q.s →
      Touches W σ (if c then q.read k a n else (q, [])).1.s := by
    intro c _ q a n hq
    split
    · exact SkRun.read_touches (fun p hp => hW p (by simp [SkRun.pixel_foot, hp])) hq
    · exact hq
  have h1 := hR (c := j.readsSrc = true) (a := j.src.addr j.bpp (j.src.x + i) (j.src.y + row)) (n := j.bpp) hT
  unfold SkRun.pixel
  split
  · exact hT
  · revert h1
    generalize (if j.readsSrc = true then
      r.read k (j.src.addr j.bpp (j.src.x + i) (j.src.y + row)) j.bpp else (r, [])) = q1
    intro h1
    dsimp only
    split
    · exact h1
    · have h2 := hR (c := j.readsDst = true) (a := j.dst.addr j.bpp (j.dst.x + i) (j.dst.y + row)) (n := j.bpp) h1
      revert h2
      generalize (if j.readsDst = true then
        q1.1.read k (j.dst.addr j.bpp (j.dst.x + i) (j.dst.y + row)) j.bpp else (q1.1, [])) = q2
      intro h2
      split
      · exact h2
      · have h3 := State.store_touches (m := skiverMaster k) (p := .skiver)
          (a := j.dst.addr j.bpp (j.dst.x + i) (j.dst.y + row))
          (data := leBytes j.bpp (rop j.rop (leNat q1.2) (j.pattern pat (j.dst.x + i) (j.dst.y + row))
            (leNat q2.2) j.pixelBits)) (fun p hp => hW p (by simp [SkRun.pixel_foot, hp])) h2
        split
        · exact h3
        · exact State.bumpBy_touches (hW _ (by simp [SkRun.pixel_foot])) h3

/-- The parts SkRun.run touches. -/
def SkRun.run_foot : List Part := SkRun.read_foot ++ SkRun.pixel_foot

theorem SkRun.run_touches {W : List Part} {σ τ : State} {k : Nat} {j : SkJob} {n : Nat}
    (hW : ∀ p ∈ SkRun.run_foot, p ∈ W) (hT : Touches W σ τ) : Touches W σ (SkRun.run τ k j n).s := by
  have h0 : Touches W σ (if (j.readsPat && j.patMode == 1) = true then
      (⟨τ, 0, none⟩ : SkRun).read k j.patAddr (64 * j.bpp) else (⟨τ, 0, none⟩, [])).1.s := by
    split
    · exact SkRun.read_touches (fun p hp => hW p (by simp [SkRun.run_foot, hp])) hT
    · exact hT
  unfold SkRun.run
  revert h0
  dsimp only
  generalize (if (j.readsPat && j.patMode == 1) = true then
      (⟨τ, 0, none⟩ : SkRun).read k j.patAddr (64 * j.bpp) else (⟨τ, 0, none⟩, [])) = q
  intro h0
  split
  · exact h0
  · obtain ⟨r, pat⟩ := q
    dsimp only at h0 ⊢
    rename_i hs
    clear hs
    generalize j.order.take n = l
    induction l generalizing r with
    | nil => exact h0
    | cons e l ih =>
      exact ih _ (SkRun.pixel_touches (fun p hp => hW p (by simp [SkRun.run_foot, hp])) h0)

/-- The parts State.keepSkiver touches. -/
def State.keepSkiver_foot : List Part := [.reg .iSK_DONE, .reg .iSK_FROZEN_JOB]

theorem State.keepSkiver_touches {W : List Part} {σ τ : State} {k : Nat} {done : Nat} (hW : ∀ p ∈ State.keepSkiver_foot, p ∈ W)
    (hT : Touches W σ τ) : Touches W σ (State.keepSkiver τ k done) := by
  unfold State.keepSkiver
  try dsimp only
  repeat' first
    | with_reducible apply Touches.ite
    | with_reducible refine State.setReg_touches (hW _ (by first | (simp [State.keepSkiver_foot]; done) | (split <;> simp [State.keepSkiver_foot] <;> done) | ((repeat' split) <;> simp [State.keepSkiver_foot])))  ?_
    | split
    | with_reducible refine forN_touches ?_ (fun x k hx => ?_)
    | with_reducible refine foldl_touches ?_ (fun x a hx => ?_)
    | with_reducible refine foldlSnd_touches ?_ (fun x a hx => ?_)
    | with_reducible assumption

/-- The parts State.skTake touches. -/
def State.skTake_foot : List Part := [.reg .iSK_TAG, .reg .iSK_JOB]

theorem State.skTake_touches {W : List Part} {σ τ : State} {k : Nat} {w : Nat} {tag : Nat} (hW : ∀ p ∈ State.skTake_foot, p ∈ W)
    (hT : Touches W σ τ) : Touches W σ (State.skTake τ k w tag) := by
  unfold State.skTake
  try dsimp only
  repeat' first
    | with_reducible apply Touches.ite
    | with_reducible refine State.setReg_touches (hW _ (by first | (simp [State.skTake_foot]; done) | (split <;> simp [State.skTake_foot] <;> done) | ((repeat' split) <;> simp [State.skTake_foot])))  ?_
    | split
    | with_reducible refine forN_touches ?_ (fun x k hx => ?_)
    | with_reducible refine foldl_touches ?_ (fun x a hx => ?_)
    | with_reducible refine foldlSnd_touches ?_ (fun x a hx => ?_)
    | with_reducible assumption

/-- The parts State.skRecord touches. -/
def State.skRecord_foot : List Part := [.reg .SK_HEAD, .reg .SK_JOBS_OK, .reg .SK_ABANDONED, .reg .SK_JOBS_FAILED, .reg .SK_LAST_STATUS, .fld .grants, .fld .highReqs, .fld .normalReqs] ++ State.store_foot ++ State.keepSkiver_foot ++ State.raise_foot

theorem State.skRecord_touches {W : List Part} {σ τ : State} {k : Nat} {done : Nat} {result : Nat} (hW : ∀ p ∈ State.skRecord_foot, p ∈ W)
    (hT : Touches W σ τ) : Touches W σ (State.skRecord τ k done result) := by
  unfold State.skRecord
  try dsimp only
  repeat' first
    | with_reducible apply Touches.ite
    | with_reducible refine Touches.ofPair (by assumption) (State.store_touches (fun p hp => hW p (by unfold State.skRecord_foot; repeat first | with_reducible exact hp | with_reducible exact List.mem_append_right _ hp | with_reducible apply List.mem_append_left)) ?_)
    | with_reducible refine State.store_touches (fun p hp => hW p (by unfold State.skRecord_foot; repeat first | with_reducible exact hp | with_reducible exact List.mem_append_right _ hp | with_reducible apply List.mem_append_left)) ?_
    | with_reducible refine State.keepSkiver_touches (fun p hp => hW p (by unfold State.skRecord_foot; repeat first | with_reducible exact hp | with_reducible exact List.mem_append_right _ hp | with_reducible apply List.mem_append_left)) ?_
    | with_reducible refine State.release_touches (hW _ (by simp [State.skRecord_foot])) (hW _ (by simp [State.skRecord_foot])) (hW _ (by simp [State.skRecord_foot])) ?_
    | with_reducible refine State.setReg_touches (hW _ (by first | (simp [State.skRecord_foot]; done) | (split <;> simp [State.skRecord_foot] <;> done) | ((repeat' split) <;> simp [State.skRecord_foot])))  ?_
    | with_reducible refine State.bump_touches (hW _ (by first | (simp [State.skRecord_foot]; done) | (split <;> simp [State.skRecord_foot] <;> done) | ((repeat' split) <;> simp [State.skRecord_foot])))  ?_
    | with_reducible refine State.raise_touches (fun p hp => hW p (by unfold State.skRecord_foot; repeat first | with_reducible exact hp | with_reducible exact List.mem_append_right _ hp | with_reducible apply List.mem_append_left)) ?_
    | split
    | with_reducible refine forN_touches ?_ (fun x k hx => ?_)
    | with_reducible refine foldl_touches ?_ (fun x a hx => ?_)
    | with_reducible refine foldlSnd_touches ?_ (fun x a hx => ?_)
    | with_reducible assumption

/-- The parts State.skOver touches. -/
def State.skOver_foot : List Part := [.reg .SK_STATE] ++ State.raiseDisabled_foot

theorem State.skOver_touches {W : List Part} {σ τ : State} {k : Nat} {abandoned : Nat} (hW : ∀ p ∈ State.skOver_foot, p ∈ W)
    (hT : Touches W σ τ) : Touches W σ (State.skOver τ k abandoned) := by
  unfold State.skOver
  try dsimp only
  repeat' first
    | with_reducible apply Touches.ite
    | with_reducible refine State.setReg_touches (hW _ (by first | (simp [State.skOver_foot]; done) | (split <;> simp [State.skOver_foot] <;> done) | ((repeat' split) <;> simp [State.skOver_foot])))  ?_
    | with_reducible refine State.raiseDisabled_touches (fun p hp => hW p (by unfold State.skOver_foot; repeat first | with_reducible exact hp | with_reducible exact List.mem_append_right _ hp | with_reducible apply List.mem_append_left)) ?_
    | split
    | with_reducible refine forN_touches ?_ (fun x k hx => ?_)
    | with_reducible refine foldl_touches ?_ (fun x a hx => ?_)
    | with_reducible refine foldlSnd_touches ?_ (fun x a hx => ?_)
    | with_reducible assumption

/-- The parts execSkTailWrite touches. -/
def execSkTailWrite_foot : List Part := [.reg .SK_TAIL] ++ writeParam_foot

theorem execSkTailWrite_touches {W : List Part} {σ τ : State} {acc : Accessor} {k : Fin 4} {tail : BitVec 16} (hW : ∀ p ∈ execSkTailWrite_foot, p ∈ W)
    (hT : Touches W σ τ) : OutTouches W σ (execSkTailWrite acc k tail τ) := by
  unfold execSkTailWrite
  try dsimp only
  repeat' first
    | with_reducible apply OutTouches.ite
    | with_reducible refine OutTouches.next ?_
    | with_reducible apply Touches.ite
    | with_reducible refine writeParam_touches  (fun p hp => hW p (by unfold execSkTailWrite_foot; repeat first | with_reducible exact hp | with_reducible exact List.mem_append_right _ hp | with_reducible apply List.mem_append_left)) ?_ (fun x  hx => ?_)
    | with_reducible refine State.setReg_touches (hW _ (by first | (simp [execSkTailWrite_foot]; done) | (split <;> simp [execSkTailWrite_foot] <;> done) | ((repeat' split) <;> simp [execSkTailWrite_foot])))  ?_
    | split
    | with_reducible refine forN_touches ?_ (fun x k hx => ?_)
    | with_reducible refine foldl_touches ?_ (fun x a hx => ?_)
    | with_reducible refine foldlSnd_touches ?_ (fun x a hx => ?_)
    | with_reducible assumption

/-- The parts execSkJobStart touches. -/
def execSkJobStart_foot : List Part := [.reg .SK_STATE, .fld .draws, .fld .highReqs, .fld .normalReqs] ++ SkRun.read_foot ++ State.see_foot ++ State.keepSkiver_foot ++ State.skTake_foot ++ State.skOver_foot ++ State.skRecord_foot

theorem execSkJobStart_touches {W : List Part} {σ τ : State} {n : Fin 4} {seen : Seen} (hW : ∀ p ∈ execSkJobStart_foot, p ∈ W)
    (hT : Touches W σ τ) : OutTouches W σ (execSkJobStart n seen τ) := by
  unfold execSkJobStart
  try dsimp only
  repeat' first
    | with_reducible apply OutTouches.ite
    | with_reducible refine OutTouches.next ?_
    | with_reducible apply Touches.ite
    | with_reducible refine Touches.ofPair (by assumption) (SkRun.read_touches (fun p hp => hW p (by unfold execSkJobStart_foot; repeat first | with_reducible exact hp | with_reducible exact List.mem_append_right _ hp | with_reducible apply List.mem_append_left)) ?_)
    | with_reducible refine SkRun.read_touches (fun p hp => hW p (by unfold execSkJobStart_foot; repeat first | with_reducible exact hp | with_reducible exact List.mem_append_right _ hp | with_reducible apply List.mem_append_left)) ?_
    | with_reducible refine State.see_touches (fun p hp => hW p (by unfold execSkJobStart_foot; repeat first | with_reducible exact hp | with_reducible exact List.mem_append_right _ hp | with_reducible apply List.mem_append_left)) ?_
    | with_reducible refine State.draw_touches (hW _ (by simp [execSkJobStart_foot])) ?_
    | with_reducible refine Touches.ofPair (by assumption) (State.draw_touches (hW _ (by simp [execSkJobStart_foot])) ?_)
    | with_reducible refine State.keepSkiver_touches (fun p hp => hW p (by unfold execSkJobStart_foot; repeat first | with_reducible exact hp | with_reducible exact List.mem_append_right _ hp | with_reducible apply List.mem_append_left)) ?_
    | with_reducible refine State.skTake_touches (fun p hp => hW p (by unfold execSkJobStart_foot; repeat first | with_reducible exact hp | with_reducible exact List.mem_append_right _ hp | with_reducible apply List.mem_append_left)) ?_
    | with_reducible refine State.skOver_touches (fun p hp => hW p (by unfold execSkJobStart_foot; repeat first | with_reducible exact hp | with_reducible exact List.mem_append_right _ hp | with_reducible apply List.mem_append_left)) ?_
    | with_reducible refine State.skRecord_touches (fun p hp => hW p (by unfold execSkJobStart_foot; repeat first | with_reducible exact hp | with_reducible exact List.mem_append_right _ hp | with_reducible apply List.mem_append_left)) ?_
    | with_reducible refine State.request_touches (hW _ (by simp [execSkJobStart_foot])) (hW _ (by simp [execSkJobStart_foot])) ?_
    | with_reducible refine State.setReg_touches (hW _ (by first | (simp [execSkJobStart_foot]; done) | (split <;> simp [execSkJobStart_foot] <;> done) | ((repeat' split) <;> simp [execSkJobStart_foot])))  ?_
    | split
    | with_reducible refine forN_touches ?_ (fun x k hx => ?_)
    | with_reducible refine foldl_touches ?_ (fun x a hx => ?_)
    | with_reducible refine foldlSnd_touches ?_ (fun x a hx => ?_)
    | with_reducible assumption

/-- The parts execSkJobEnd touches. -/
def execSkJobEnd_foot : List Part := SkRun.run_foot ++ State.see_foot ++ State.skOver_foot ++ State.skRecord_foot ++ State.keepSkiver_foot

theorem execSkJobEnd_touches {W : List Part} {σ τ : State} {n : Fin 4} {seen : Seen} (hW : ∀ p ∈ execSkJobEnd_foot, p ∈ W)
    (hT : Touches W σ τ) : OutTouches W σ (execSkJobEnd n seen τ) := by
  unfold execSkJobEnd
  try dsimp only
  repeat' first
    | with_reducible apply OutTouches.ite
    | with_reducible refine OutTouches.next ?_
    | with_reducible apply Touches.ite
    | with_reducible refine SkRun.run_touches (fun p hp => hW p (by unfold execSkJobEnd_foot; repeat first | with_reducible exact hp | with_reducible exact List.mem_append_right _ hp | with_reducible apply List.mem_append_left)) ?_
    | with_reducible refine State.see_touches (fun p hp => hW p (by unfold execSkJobEnd_foot; repeat first | with_reducible exact hp | with_reducible exact List.mem_append_right _ hp | with_reducible apply List.mem_append_left)) ?_
    | with_reducible refine State.skOver_touches (fun p hp => hW p (by unfold execSkJobEnd_foot; repeat first | with_reducible exact hp | with_reducible exact List.mem_append_right _ hp | with_reducible apply List.mem_append_left)) ?_
    | with_reducible refine State.skRecord_touches (fun p hp => hW p (by unfold execSkJobEnd_foot; repeat first | with_reducible exact hp | with_reducible exact List.mem_append_right _ hp | with_reducible apply List.mem_append_left)) ?_
    | with_reducible refine State.keepSkiver_touches (fun p hp => hW p (by unfold execSkJobEnd_foot; repeat first | with_reducible exact hp | with_reducible exact List.mem_append_right _ hp | with_reducible apply List.mem_append_left)) ?_
    | split
    | with_reducible refine forN_touches ?_ (fun x k hx => ?_)
    | with_reducible refine foldl_touches ?_ (fun x a hx => ?_)
    | with_reducible refine foldlSnd_touches ?_ (fun x a hx => ?_)
    | with_reducible assumption

/-- The parts State.skAbandon touches. -/
def State.skAbandon_foot : List Part := SkRun.run_foot ++ State.keepSkiver_foot ++ State.skOver_foot ++ State.skRecord_foot

theorem State.skAbandon_touches {W : List Part} {σ τ : State} {k : Nat} {done : Nat} (hW : ∀ p ∈ State.skAbandon_foot, p ∈ W)
    (hT : Touches W σ τ) : Touches W σ (State.skAbandon τ k done) := by
  unfold State.skAbandon
  try dsimp only
  repeat' first
    | with_reducible apply Touches.ite
    | with_reducible refine SkRun.run_touches (fun p hp => hW p (by unfold State.skAbandon_foot; repeat first | with_reducible exact hp | with_reducible exact List.mem_append_right _ hp | with_reducible apply List.mem_append_left)) ?_
    | with_reducible refine State.keepSkiver_touches (fun p hp => hW p (by unfold State.skAbandon_foot; repeat first | with_reducible exact hp | with_reducible exact List.mem_append_right _ hp | with_reducible apply List.mem_append_left)) ?_
    | with_reducible refine State.skOver_touches (fun p hp => hW p (by unfold State.skAbandon_foot; repeat first | with_reducible exact hp | with_reducible exact List.mem_append_right _ hp | with_reducible apply List.mem_append_left)) ?_
    | with_reducible refine State.skRecord_touches (fun p hp => hW p (by unfold State.skAbandon_foot; repeat first | with_reducible exact hp | with_reducible exact List.mem_append_right _ hp | with_reducible apply List.mem_append_left)) ?_
    | split
    | with_reducible refine forN_touches ?_ (fun x k hx => ?_)
    | with_reducible refine foldl_touches ?_ (fun x a hx => ?_)
    | with_reducible refine foldlSnd_touches ?_ (fun x a hx => ?_)
    | with_reducible assumption

/-- The parts State.skDisable touches. -/
def State.skDisable_foot : List Part := [.reg .SK_ENABLE, .reg .SK_STATE, .fld .keepPending] ++ State.skOver_foot ++ State.skAbandon_foot

theorem State.skDisable_touches {W : List Part} {σ τ : State} {k : Nat} {done : Nat} (hW : ∀ p ∈ State.skDisable_foot, p ∈ W)
    (hT : Touches W σ τ) : Touches W σ (State.skDisable τ k done) := by
  unfold State.skDisable
  try dsimp only
  repeat' first
    | with_reducible apply Touches.ite
    | with_reducible refine State.putReg_touches (hW _ (by first | (simp [State.skDisable_foot]; done) | (split <;> simp [State.skDisable_foot] <;> done) | ((repeat' split) <;> simp [State.skDisable_foot]))) (hW _ (by simp [State.skDisable_foot])) ?_
    | with_reducible refine State.skOver_touches (fun p hp => hW p (by unfold State.skDisable_foot; repeat first | with_reducible exact hp | with_reducible exact List.mem_append_right _ hp | with_reducible apply List.mem_append_left)) ?_
    | with_reducible refine State.setReg_touches (hW _ (by first | (simp [State.skDisable_foot]; done) | (split <;> simp [State.skDisable_foot] <;> done) | ((repeat' split) <;> simp [State.skDisable_foot])))  ?_
    | with_reducible refine State.skAbandon_touches (fun p hp => hW p (by unfold State.skDisable_foot; repeat first | with_reducible exact hp | with_reducible exact List.mem_append_right _ hp | with_reducible apply List.mem_append_left)) ?_
    | split
    | with_reducible refine forN_touches ?_ (fun x k hx => ?_)
    | with_reducible refine foldl_touches ?_ (fun x a hx => ?_)
    | with_reducible refine foldlSnd_touches ?_ (fun x a hx => ?_)
    | with_reducible assumption

/-- The parts execSkEnableDisable touches. -/
def execSkEnableDisable_foot : List Part := writeParam_foot ++ State.skDisable_foot

theorem execSkEnableDisable_touches {W : List Part} {σ τ : State} {acc : Accessor} {k : Fin 4} {done : Nat} (hW : ∀ p ∈ execSkEnableDisable_foot, p ∈ W)
    (hT : Touches W σ τ) : OutTouches W σ (execSkEnableDisable acc k done τ) := by
  unfold execSkEnableDisable
  try dsimp only
  repeat' first
    | with_reducible apply OutTouches.ite
    | with_reducible refine OutTouches.next ?_
    | with_reducible apply Touches.ite
    | with_reducible refine writeParam_touches  (fun p hp => hW p (by unfold execSkEnableDisable_foot; repeat first | with_reducible exact hp | with_reducible exact List.mem_append_right _ hp | with_reducible apply List.mem_append_left)) ?_ (fun x  hx => ?_)
    | with_reducible refine State.skDisable_touches (fun p hp => hW p (by unfold execSkEnableDisable_foot; repeat first | with_reducible exact hp | with_reducible exact List.mem_append_right _ hp | with_reducible apply List.mem_append_left)) ?_
    | split
    | with_reducible refine forN_touches ?_ (fun x k hx => ?_)
    | with_reducible refine foldl_touches ?_ (fun x a hx => ?_)
    | with_reducible refine foldlSnd_touches ?_ (fun x a hx => ?_)
    | with_reducible assumption

/-- The parts State.skEnable touches. -/
def State.skEnable_foot : List Part := [.reg .SK_ENABLE, .reg .SK_STATE, .fld .status, .fld .keepPending]

theorem State.skEnable_touches {W : List Part} {σ τ : State} {k : Nat} (hW : ∀ p ∈ State.skEnable_foot, p ∈ W)
    (hT : Touches W σ τ) : Touches W σ (State.skEnable τ k) := by
  unfold State.skEnable
  try dsimp only
  repeat' first
    | with_reducible apply Touches.ite
    | with_reducible refine State.refuse_touches (hW _ (by simp [State.skEnable_foot])) ?_
    | with_reducible refine cond_touches ?_ (fun x hx => ?_)
    | with_reducible refine State.putReg_touches (hW _ (by first | (simp [State.skEnable_foot]; done) | (split <;> simp [State.skEnable_foot] <;> done) | ((repeat' split) <;> simp [State.skEnable_foot]))) (hW _ (by simp [State.skEnable_foot])) ?_
    | with_reducible refine State.setReg_touches (hW _ (by first | (simp [State.skEnable_foot]; done) | (split <;> simp [State.skEnable_foot] <;> done) | ((repeat' split) <;> simp [State.skEnable_foot])))  ?_
    | split
    | with_reducible refine forN_touches ?_ (fun x k hx => ?_)
    | with_reducible refine foldl_touches ?_ (fun x a hx => ?_)
    | with_reducible refine foldlSnd_touches ?_ (fun x a hx => ?_)
    | with_reducible assumption

/-- The parts execSkEnableResume touches. -/
def execSkEnableResume_foot : List Part := writeParam_foot ++ State.skEnable_foot

theorem execSkEnableResume_touches {W : List Part} {σ τ : State} {acc : Accessor} {k : Fin 4} (hW : ∀ p ∈ execSkEnableResume_foot, p ∈ W)
    (hT : Touches W σ τ) : OutTouches W σ (execSkEnableResume acc k τ) := by
  unfold execSkEnableResume
  try dsimp only
  repeat' first
    | with_reducible apply OutTouches.ite
    | with_reducible refine OutTouches.next ?_
    | with_reducible apply Touches.ite
    | with_reducible refine writeParam_touches  (fun p hp => hW p (by unfold execSkEnableResume_foot; repeat first | with_reducible exact hp | with_reducible exact List.mem_append_right _ hp | with_reducible apply List.mem_append_left)) ?_ (fun x  hx => ?_)
    | with_reducible refine State.skEnable_touches (fun p hp => hW p (by unfold execSkEnableResume_foot; repeat first | with_reducible exact hp | with_reducible exact List.mem_append_right _ hp | with_reducible apply List.mem_append_left)) ?_
    | split
    | with_reducible refine forN_touches ?_ (fun x k hx => ?_)
    | with_reducible refine foldl_touches ?_ (fun x a hx => ?_)
    | with_reducible refine foldlSnd_touches ?_ (fun x a hx => ?_)
    | with_reducible assumption

/-- The parts execSkRingWrite touches. -/
def execSkRingWrite_foot : List Part := [.reg .SK_RING_BASE, .reg .SK_RING_SIZE, .fld .status] ++ writeParam_foot

theorem execSkRingWrite_touches {W : List Part} {σ τ : State} {acc : Accessor} {k : Fin 4} {p : RingParam} {v : Nat} (hW : ∀ p ∈ execSkRingWrite_foot, p ∈ W)
    (hT : Touches W σ τ) : OutTouches W σ (execSkRingWrite acc k p v τ) := by
  unfold execSkRingWrite
  try dsimp only
  repeat' first
    | with_reducible apply OutTouches.ite
    | with_reducible refine OutTouches.next ?_
    | with_reducible apply Touches.ite
    | with_reducible refine writeParam_touches  (fun p hp => hW p (by unfold execSkRingWrite_foot; repeat first | with_reducible exact hp | with_reducible exact List.mem_append_right _ hp | with_reducible apply List.mem_append_left)) ?_ (fun x  hx => ?_)
    | with_reducible refine State.setReg_touches (hW _ (by first | (simp [execSkRingWrite_foot]; done) | (split <;> simp [execSkRingWrite_foot] <;> done) | ((repeat' split) <;> simp [execSkRingWrite_foot])))  ?_
    | with_reducible refine State.refuse_touches (hW _ (by simp [execSkRingWrite_foot])) ?_
    | split
    | with_reducible refine forN_touches ?_ (fun x k hx => ?_)
    | with_reducible refine foldl_touches ?_ (fun x a hx => ?_)
    | with_reducible refine foldlSnd_touches ?_ (fun x a hx => ?_)
    | with_reducible assumption

/-- The parts State.releaseSkiver touches. -/
def State.releaseSkiver_foot : List Part := [.reg .iSK_FROZEN_JOB, .reg .SK_STATE] ++ State.skRecord_foot ++ State.skOver_foot

theorem State.releaseSkiver_touches {W : List Part} {σ τ : State} {k : Nat} (hW : ∀ p ∈ State.releaseSkiver_foot, p ∈ W)
    (hT : Touches W σ τ) : Touches W σ (State.releaseSkiver τ k) := by
  unfold State.releaseSkiver
  try dsimp only
  repeat' first
    | with_reducible apply Touches.ite
    | with_reducible refine State.setReg_touches (hW _ (by first | (simp [State.releaseSkiver_foot]; done) | (split <;> simp [State.releaseSkiver_foot] <;> done) | ((repeat' split) <;> simp [State.releaseSkiver_foot])))  ?_
    | with_reducible refine State.skRecord_touches (fun p hp => hW p (by unfold State.releaseSkiver_foot; repeat first | with_reducible exact hp | with_reducible exact List.mem_append_right _ hp | with_reducible apply List.mem_append_left)) ?_
    | with_reducible refine State.skOver_touches (fun p hp => hW p (by unfold State.releaseSkiver_foot; repeat first | with_reducible exact hp | with_reducible exact List.mem_append_right _ hp | with_reducible apply List.mem_append_left)) ?_
    | split
    | with_reducible refine forN_touches ?_ (fun x k hx => ?_)
    | with_reducible refine foldl_touches ?_ (fun x a hx => ?_)
    | with_reducible refine foldlSnd_touches ?_ (fun x a hx => ?_)
    | with_reducible assumption

end Sys2Proof.Machine
end

