-- ==== Sys2Proof/Laws/TouchesMasters.lean ====
section
/-! SUPPORT. What the functions of Machine/Masters.lean touch. -/
namespace Sys2Proof.Machine
set_option linter.all false

/-- The parts State.frozeNow touches. -/
def State.frozeNow_foot : List Part := State.capacityLost_foot ++ State.abandonHeld_foot ++ State.laceFrozen_foot ++ State.refreshTaps_foot

theorem State.frozeNow_touches {W : List Part} {σ τ : State} {old : State} {m : Master} (hW : ∀ p ∈ State.frozeNow_foot, p ∈ W)
    (hT : Touches W σ τ) : Touches W σ (State.frozeNow τ old m) := by
  unfold State.frozeNow
  try dsimp only
  repeat' first
    | with_reducible apply Touches.ite
    | with_reducible refine State.capacityLost_touches (fun p hp => hW p (by unfold State.frozeNow_foot; repeat first | with_reducible exact hp | with_reducible exact List.mem_append_right _ hp | with_reducible apply List.mem_append_left)) ?_
    | with_reducible refine State.abandonHeld_touches (fun p hp => hW p (by unfold State.frozeNow_foot; repeat first | with_reducible exact hp | with_reducible exact List.mem_append_right _ hp | with_reducible apply List.mem_append_left)) ?_
    | with_reducible refine cond_touches ?_ (fun x hx => ?_)
    | with_reducible refine State.laceFrozen_touches (fun p hp => hW p (by unfold State.frozeNow_foot; repeat first | with_reducible exact hp | with_reducible exact List.mem_append_right _ hp | with_reducible apply List.mem_append_left)) ?_
    | with_reducible refine State.refreshTaps_touches (fun p hp => hW p (by unfold State.frozeNow_foot; repeat first | with_reducible exact hp | with_reducible exact List.mem_append_right _ hp | with_reducible apply List.mem_append_left)) ?_
    | split
    | with_reducible refine forN_touches ?_ (fun x k hx => ?_)
    | with_reducible refine foldl_touches ?_ (fun x a hx => ?_)
    | with_reducible refine foldlSnd_touches ?_ (fun x a hx => ?_)
    | with_reducible assumption

/-- The parts State.completeFor touches. -/
def State.completeFor_foot : List Part := [.fld .sent]

theorem State.completeFor_touches {W : List Part} {σ τ : State} {m : Master} {r : ReadAnswer} (hW : ∀ p ∈ State.completeFor_foot, p ∈ W)
    (hT : Touches W σ τ) : Touches W σ (State.completeFor τ m r) := by
  unfold State.completeFor
  try dsimp only
  repeat' first
    | with_reducible apply Touches.ite
    | with_reducible refine State.send_touches (hW _ (by simp [State.completeFor_foot])) ?_
    | split
    | with_reducible refine forN_touches ?_ (fun x k hx => ?_)
    | with_reducible refine foldl_touches ?_ (fun x a hx => ?_)
    | with_reducible refine foldlSnd_touches ?_ (fun x a hx => ?_)
    | with_reducible assumption

/-- The parts execMemoryRead touches. -/
def execMemoryRead_foot : List Part := [.fld .answer] ++ State.read_foot ++ State.see_foot ++ State.frozeNow_foot ++ State.completeFor_foot

theorem execMemoryRead_touches {W : List Part} {σ τ : State} {m : Master} {port : Port} {addr : Nat} {len : Nat} {seen : Seen} (hW : ∀ p ∈ execMemoryRead_foot, p ∈ W)
    (hT : Touches W σ τ) : OutTouches W σ (execMemoryRead m port addr len seen τ) := by
  unfold execMemoryRead
  try dsimp only
  repeat' first
    | with_reducible apply OutTouches.ite
    | with_reducible refine OutTouches.next ?_
    | with_reducible apply Touches.ite
    | with_reducible refine Touches.ofPair (by assumption) (State.read_touches (fun p hp => hW p (by unfold execMemoryRead_foot; repeat first | with_reducible exact hp | with_reducible exact List.mem_append_right _ hp | with_reducible apply List.mem_append_left)) ?_)
    | with_reducible refine State.read_touches (fun p hp => hW p (by unfold execMemoryRead_foot; repeat first | with_reducible exact hp | with_reducible exact List.mem_append_right _ hp | with_reducible apply List.mem_append_left)) ?_
    | with_reducible refine State.see_touches (fun p hp => hW p (by unfold execMemoryRead_foot; repeat first | with_reducible exact hp | with_reducible exact List.mem_append_right _ hp | with_reducible apply List.mem_append_left)) ?_
    | with_reducible refine State.frozeNow_touches (fun p hp => hW p (by unfold execMemoryRead_foot; repeat first | with_reducible exact hp | with_reducible exact List.mem_append_right _ hp | with_reducible apply List.mem_append_left)) ?_
    | with_reducible refine State.completeFor_touches (fun p hp => hW p (by unfold execMemoryRead_foot; repeat first | with_reducible exact hp | with_reducible exact List.mem_append_right _ hp | with_reducible apply List.mem_append_left)) ?_
    | split
    | with_reducible refine forN_touches ?_ (fun x k hx => ?_)
    | with_reducible refine foldl_touches ?_ (fun x a hx => ?_)
    | with_reducible refine foldlSnd_touches ?_ (fun x a hx => ?_)
    | with_reducible assumption
    | with_reducible refine touches_mk (fun f => by cases f <;> first | exact .inr (by with_reducible rfl) | exact .inl (hW _ (by simp [execMemoryRead_foot]))) ?_

/-- The parts execMemoryWrite touches. -/
def execMemoryWrite_foot : List Part := [.fld .answer] ++ State.write_foot ++ State.see_foot ++ State.frozeNow_foot ++ State.completeFor_foot

theorem execMemoryWrite_touches {W : List Part} {σ τ : State} {m : Master} {port : Port} {addr : Nat} {data : List Byte} {seen : Seen} (hW : ∀ p ∈ execMemoryWrite_foot, p ∈ W)
    (hT : Touches W σ τ) : OutTouches W σ (execMemoryWrite m port addr data seen τ) := by
  unfold execMemoryWrite
  try dsimp only
  repeat' first
    | with_reducible apply OutTouches.ite
    | with_reducible refine OutTouches.next ?_
    | with_reducible apply Touches.ite
    | with_reducible refine Touches.ofPair (by assumption) (State.write_touches (fun p hp => hW p (by unfold execMemoryWrite_foot; repeat first | with_reducible exact hp | with_reducible exact List.mem_append_right _ hp | with_reducible apply List.mem_append_left)) ?_)
    | with_reducible refine State.write_touches (fun p hp => hW p (by unfold execMemoryWrite_foot; repeat first | with_reducible exact hp | with_reducible exact List.mem_append_right _ hp | with_reducible apply List.mem_append_left)) ?_
    | with_reducible refine State.see_touches (fun p hp => hW p (by unfold execMemoryWrite_foot; repeat first | with_reducible exact hp | with_reducible exact List.mem_append_right _ hp | with_reducible apply List.mem_append_left)) ?_
    | with_reducible refine State.frozeNow_touches (fun p hp => hW p (by unfold execMemoryWrite_foot; repeat first | with_reducible exact hp | with_reducible exact List.mem_append_right _ hp | with_reducible apply List.mem_append_left)) ?_
    | with_reducible refine State.completeFor_touches (fun p hp => hW p (by unfold execMemoryWrite_foot; repeat first | with_reducible exact hp | with_reducible exact List.mem_append_right _ hp | with_reducible apply List.mem_append_left)) ?_
    | split
    | with_reducible refine forN_touches ?_ (fun x k hx => ?_)
    | with_reducible refine foldl_touches ?_ (fun x a hx => ?_)
    | with_reducible refine foldlSnd_touches ?_ (fun x a hx => ?_)
    | with_reducible assumption
    | with_reducible refine touches_mk (fun f => by cases f <;> first | exact .inr (by with_reducible rfl) | exact .inl (hW _ (by simp [execMemoryWrite_foot]))) ?_

/-- The parts State.releaseUnit touches. -/
def State.releaseUnit_foot : List Part := [.reg .STR_STATE, .reg .iPIP_FROZE_NS] ++ State.startSelfTest_foot ++ State.releaseLace_foot ++ State.releaseSkiver_foot ++ State.releaseCodec_foot

theorem State.releaseUnit_touches {W : List Part} {σ τ : State} {m : Master} (hW : ∀ p ∈ State.releaseUnit_foot, p ∈ W)
    (hT : Touches W σ τ) : Touches W σ (State.releaseUnit τ m) := by
  unfold State.releaseUnit
  try dsimp only
  repeat' first
    | with_reducible apply Touches.ite
    | with_reducible refine cond_touches ?_ (fun x hx => ?_)
    | with_reducible refine State.setReg_touches (hW _ (by first | (simp [State.releaseUnit_foot]; done) | (split <;> simp [State.releaseUnit_foot] <;> done) | ((repeat' split) <;> simp [State.releaseUnit_foot])))  ?_
    | with_reducible refine State.startSelfTest_touches (fun p hp => hW p (by unfold State.releaseUnit_foot; repeat first | with_reducible exact hp | with_reducible exact List.mem_append_right _ hp | with_reducible apply List.mem_append_left)) ?_
    | with_reducible refine State.releaseLace_touches (fun p hp => hW p (by unfold State.releaseUnit_foot; repeat first | with_reducible exact hp | with_reducible exact List.mem_append_right _ hp | with_reducible apply List.mem_append_left)) ?_
    | with_reducible refine State.releaseSkiver_touches (fun p hp => hW p (by unfold State.releaseUnit_foot; repeat first | with_reducible exact hp | with_reducible exact List.mem_append_right _ hp | with_reducible apply List.mem_append_left)) ?_
    | with_reducible refine State.releaseCodec_touches (fun p hp => hW p (by unfold State.releaseUnit_foot; repeat first | with_reducible exact hp | with_reducible exact List.mem_append_right _ hp | with_reducible apply List.mem_append_left)) ?_
    | split
    | with_reducible refine forN_touches ?_ (fun x k hx => ?_)
    | with_reducible refine foldl_touches ?_ (fun x a hx => ?_)
    | with_reducible refine foldlSnd_touches ?_ (fun x a hx => ?_)
    | with_reducible assumption

/-- The parts State.unfreeze touches. -/
def State.unfreeze_foot : List Part := [.reg .MS_FROZEN_INGEST, .reg .MS_FROZEN_CORE] ++ State.releaseUnit_foot

theorem State.unfreeze_touches {W : List Part} {σ τ : State} {m : Master} (hW : ∀ p ∈ State.unfreeze_foot, p ∈ W)
    (hT : Touches W σ τ) : Touches W σ (State.unfreeze τ m) := by
  unfold State.unfreeze
  try dsimp only
  repeat' first
    | with_reducible apply Touches.ite
    | with_reducible refine State.releaseUnit_touches (fun p hp => hW p (by unfold State.unfreeze_foot; repeat first | with_reducible exact hp | with_reducible exact List.mem_append_right _ hp | with_reducible apply List.mem_append_left)) ?_
    | with_reducible refine State.setReg_touches (hW _ (by first | (simp [State.unfreeze_foot]; done) | (split <;> simp [State.unfreeze_foot] <;> done) | ((repeat' split) <;> simp [State.unfreeze_foot])))  ?_
    | split
    | with_reducible refine forN_touches ?_ (fun x k hx => ?_)
    | with_reducible refine foldl_touches ?_ (fun x a hx => ?_)
    | with_reducible refine foldlSnd_touches ?_ (fun x a hx => ?_)
    | with_reducible assumption

/-- The parts State.masterRelease touches. -/
def State.masterRelease_foot : List Part := [.fld .status] ++ State.unfreeze_foot

theorem State.masterRelease_touches {W : List Part} {σ τ : State} {m : Master} (hW : ∀ p ∈ State.masterRelease_foot, p ∈ W)
    (hT : Touches W σ τ) : Touches W σ (State.masterRelease τ m) := by
  unfold State.masterRelease
  try dsimp only
  repeat' first
    | with_reducible apply Touches.ite
    | with_reducible refine State.unfreeze_touches (fun p hp => hW p (by unfold State.masterRelease_foot; repeat first | with_reducible exact hp | with_reducible exact List.mem_append_right _ hp | with_reducible apply List.mem_append_left)) ?_
    | with_reducible refine State.refuse_touches (hW _ (by simp [State.masterRelease_foot])) ?_
    | split
    | with_reducible refine forN_touches ?_ (fun x k hx => ?_)
    | with_reducible refine foldl_touches ?_ (fun x a hx => ?_)
    | with_reducible refine foldlSnd_touches ?_ (fun x a hx => ?_)
    | with_reducible assumption

/-- The parts execMsRelease touches. -/
def execMsRelease_foot : List Part := writeParam_foot ++ State.masterRelease_foot

theorem execMsRelease_touches {W : List Part} {σ τ : State} {acc : Accessor} {m : Master} (hW : ∀ p ∈ execMsRelease_foot, p ∈ W)
    (hT : Touches W σ τ) : OutTouches W σ (execMsRelease acc m τ) := by
  unfold execMsRelease
  try dsimp only
  repeat' first
    | with_reducible apply OutTouches.ite
    | with_reducible refine OutTouches.next ?_
    | with_reducible apply Touches.ite
    | with_reducible refine writeParam_touches  (fun p hp => hW p (by unfold execMsRelease_foot; repeat first | with_reducible exact hp | with_reducible exact List.mem_append_right _ hp | with_reducible apply List.mem_append_left)) ?_ (fun x  hx => ?_)
    | with_reducible refine State.masterRelease_touches (fun p hp => hW p (by unfold execMsRelease_foot; repeat first | with_reducible exact hp | with_reducible exact List.mem_append_right _ hp | with_reducible apply List.mem_append_left)) ?_
    | split
    | with_reducible refine forN_touches ?_ (fun x k hx => ?_)
    | with_reducible refine foldl_touches ?_ (fun x a hx => ?_)
    | with_reducible refine foldlSnd_touches ?_ (fun x a hx => ?_)
    | with_reducible assumption

end Sys2Proof.Machine
end

