-- ==== Sys2Proof/Laws/TouchesReads.lean ====
section
/-! SUPPORT. What the functions of Machine/Reads.lean touch. -/
namespace Sys2Proof.Machine
set_option linter.all false

/-- The parts State.valueBytes touches. -/
def State.valueBytes_foot : List Part := [.fld .draws]

theorem State.valueBytes_touches {W : List Part} {σ τ : State} {acc : Accessor} {r : Reg} {i : Nat} {staged : Bool} (hW : ∀ p ∈ State.valueBytes_foot, p ∈ W)
    (hT : Touches W σ τ) : Touches W σ (State.valueBytes τ acc r i staged).2 := by
  unfold State.valueBytes
  try dsimp only
  repeat' first
    | with_reducible apply Touches.iteSnd
    | with_reducible apply Touches.ite
    | with_reducible refine State.draw_touches (hW _ (by simp [State.valueBytes_foot])) ?_
    | with_reducible refine Touches.ofPair (by assumption) (State.draw_touches (hW _ (by simp [State.valueBytes_foot])) ?_)
    | split
    | with_reducible refine forN_touches ?_ (fun x k hx => ?_)
    | with_reducible refine foldl_touches ?_ (fun x a hx => ?_)
    | with_reducible refine foldlSnd_touches ?_ (fun x a hx => ?_)
    | with_reducible assumption

/-- The parts State.afterRead touches. -/
def State.afterRead_foot : List Part := [.reg .iCAP_FULL, .fld .caps, .fld .queues]

theorem State.afterRead_touches {W : List Part} {σ τ : State} {r : Reg} {i : Nat} (hW : ∀ p ∈ State.afterRead_foot, p ∈ W)
    (hT : Touches W σ τ) : Touches W σ (State.afterRead τ r i) := by
  unfold State.afterRead
  try dsimp only
  repeat' first
    | with_reducible apply Touches.ite
    | with_reducible refine State.setQueue_touches (hW _ (by simp [State.afterRead_foot])) ?_
    | with_reducible refine State.setReg_touches (hW _ (by first | (simp [State.afterRead_foot]; done) | (split <;> simp [State.afterRead_foot] <;> done) | ((repeat' split) <;> simp [State.afterRead_foot])))  ?_
    | split
    | with_reducible refine forN_touches ?_ (fun x k hx => ?_)
    | with_reducible refine foldl_touches ?_ (fun x a hx => ?_)
    | with_reducible refine foldlSnd_touches ?_ (fun x a hx => ?_)
    | with_reducible assumption
    | with_reducible refine touches_mk (fun f => by cases f <;> first | exact .inr (by with_reducible rfl) | exact .inl (hW _ (by simp [State.afterRead_foot]))) ?_

/-- The parts State.readReg touches. -/
def State.readReg_foot : List Part := [.fld .status] ++ State.noteAccess_foot ++ State.valueBytes_foot ++ State.afterRead_foot

theorem State.readReg_touches {W : List Part} {σ τ : State} {acc : Accessor} {r : Reg} {i : Nat} {staged : Bool} (hW : ∀ p ∈ State.readReg_foot, p ∈ W)
    (hT : Touches W σ τ) : Touches W σ (State.readReg τ acc r i staged).2 := by
  unfold State.readReg
  try dsimp only
  repeat' first
    | with_reducible apply Touches.iteSnd
    | with_reducible apply Touches.ite
    | with_reducible refine State.noteAccess_touches (fun p hp => hW p (by unfold State.readReg_foot; repeat first | with_reducible exact hp | with_reducible exact List.mem_append_right _ hp | with_reducible apply List.mem_append_left)) ?_
    | with_reducible refine State.setStatus_touches (hW _ (by simp [State.readReg_foot])) ?_
    | with_reducible refine Touches.ofPair (by assumption) (State.valueBytes_touches (fun p hp => hW p (by unfold State.readReg_foot; repeat first | with_reducible exact hp | with_reducible exact List.mem_append_right _ hp | with_reducible apply List.mem_append_left)) ?_)
    | with_reducible refine State.valueBytes_touches (fun p hp => hW p (by unfold State.readReg_foot; repeat first | with_reducible exact hp | with_reducible exact List.mem_append_right _ hp | with_reducible apply List.mem_append_left)) ?_
    | with_reducible refine State.afterRead_touches (fun p hp => hW p (by unfold State.readReg_foot; repeat first | with_reducible exact hp | with_reducible exact List.mem_append_right _ hp | with_reducible apply List.mem_append_left)) ?_
    | split
    | with_reducible refine forN_touches ?_ (fun x k hx => ?_)
    | with_reducible refine foldl_touches ?_ (fun x a hx => ?_)
    | with_reducible refine foldlSnd_touches ?_ (fun x a hx => ?_)
    | with_reducible assumption

/-- The parts State.readId touches. -/
def State.readId_foot : List Part := [.fld .status] ++ State.noteAccess_foot ++ State.readReg_foot

theorem State.readId_touches {W : List Part} {σ τ : State} {acc : Accessor} {index : Nat} {sub : Nat} {staged : Bool} (hW : ∀ p ∈ State.readId_foot, p ∈ W)
    (hT : Touches W σ τ) : Touches W σ (State.readId τ acc index sub staged).2 := by
  unfold State.readId
  try dsimp only
  repeat' first
    | with_reducible apply Touches.iteSnd
    | with_reducible apply Touches.ite
    | with_reducible refine State.noteAccess_touches (fun p hp => hW p (by unfold State.readId_foot; repeat first | with_reducible exact hp | with_reducible exact List.mem_append_right _ hp | with_reducible apply List.mem_append_left)) ?_
    | with_reducible refine State.setStatus_touches (hW _ (by simp [State.readId_foot])) ?_
    | with_reducible refine Touches.ofPair (by assumption) (State.readReg_touches (fun p hp => hW p (by unfold State.readId_foot; repeat first | with_reducible exact hp | with_reducible exact List.mem_append_right _ hp | with_reducible apply List.mem_append_left)) ?_)
    | with_reducible refine State.readReg_touches (fun p hp => hW p (by unfold State.readId_foot; repeat first | with_reducible exact hp | with_reducible exact List.mem_append_right _ hp | with_reducible apply List.mem_append_left)) ?_
    | split
    | with_reducible refine forN_touches ?_ (fun x k hx => ?_)
    | with_reducible refine foldl_touches ?_ (fun x a hx => ?_)
    | with_reducible refine foldlSnd_touches ?_ (fun x a hx => ?_)
    | with_reducible assumption

/-- The parts State.answerRead touches. -/
def State.answerRead_foot : List Part := [.fld .value] ++ State.readReg_foot

theorem State.answerRead_touches {W : List Part} {σ τ : State} {acc : Accessor} {r : Reg} {i : Nat} (hW : ∀ p ∈ State.answerRead_foot, p ∈ W)
    (hT : Touches W σ τ) : Touches W σ (State.answerRead τ acc r i) := by
  unfold State.answerRead
  try dsimp only
  repeat' first
    | with_reducible apply Touches.ite
    | with_reducible refine Touches.ofPair (by assumption) (State.readReg_touches (fun p hp => hW p (by unfold State.answerRead_foot; repeat first | with_reducible exact hp | with_reducible exact List.mem_append_right _ hp | with_reducible apply List.mem_append_left)) ?_)
    | with_reducible refine State.readReg_touches (fun p hp => hW p (by unfold State.answerRead_foot; repeat first | with_reducible exact hp | with_reducible exact List.mem_append_right _ hp | with_reducible apply List.mem_append_left)) ?_
    | split
    | with_reducible refine forN_touches ?_ (fun x k hx => ?_)
    | with_reducible refine foldl_touches ?_ (fun x a hx => ?_)
    | with_reducible refine foldlSnd_touches ?_ (fun x a hx => ?_)
    | with_reducible assumption
    | with_reducible refine touches_mk (fun f => by cases f <;> first | exact .inr (by with_reducible rfl) | exact .inl (hW _ (by simp [State.answerRead_foot]))) ?_

/-- The parts execNqRead touches. -/
def execNqRead_foot : List Part := [.reg .NQ_READ] ++ State.answerRead_foot

theorem execNqRead_touches {W : List Part} {σ τ : State} {acc : Accessor} {q : Fin 2048} (hW : ∀ p ∈ execNqRead_foot, p ∈ W)
    (hT : Touches W σ τ) : OutTouches W σ (execNqRead acc q τ) := by
  unfold execNqRead
  try dsimp only
  repeat' first
    | with_reducible apply OutTouches.ite
    | with_reducible refine OutTouches.next ?_
    | with_reducible apply Touches.ite
    | with_reducible refine State.answerRead_touches (fun p hp => hW p (by unfold execNqRead_foot; repeat first | with_reducible exact hp | with_reducible exact List.mem_append_right _ hp | with_reducible apply List.mem_append_left)) ?_
    | split
    | with_reducible refine forN_touches ?_ (fun x k hx => ?_)
    | with_reducible refine foldl_touches ?_ (fun x a hx => ?_)
    | with_reducible refine foldlSnd_touches ?_ (fun x a hx => ?_)
    | with_reducible assumption

/-- The parts execCapRead touches. -/
def execCapRead_foot : List Part := [.reg .CAP_READ] ++ State.answerRead_foot

theorem execCapRead_touches {W : List Part} {σ τ : State} {acc : Accessor} {e : Fin 8} (hW : ∀ p ∈ execCapRead_foot, p ∈ W)
    (hT : Touches W σ τ) : OutTouches W σ (execCapRead acc e τ) := by
  unfold execCapRead
  try dsimp only
  repeat' first
    | with_reducible apply OutTouches.ite
    | with_reducible refine OutTouches.next ?_
    | with_reducible apply Touches.ite
    | with_reducible refine State.answerRead_touches (fun p hp => hW p (by unfold execCapRead_foot; repeat first | with_reducible exact hp | with_reducible exact List.mem_append_right _ hp | with_reducible apply List.mem_append_left)) ?_
    | split
    | with_reducible refine forN_touches ?_ (fun x k hx => ?_)
    | with_reducible refine foldl_touches ?_ (fun x a hx => ?_)
    | with_reducible refine foldlSnd_touches ?_ (fun x a hx => ?_)
    | with_reducible assumption

end Sys2Proof.Machine
end

