-- ==== Sys2Proof/Laws/TouchesResets.lean ====
section
/-! SUPPORT. What the functions of Machine/Resets.lean touch. -/
namespace Sys2Proof.Machine
set_option linter.all false

/-- The parts State.restoreRecords touches. -/
def State.restoreRecords_foot : List Part := [.reg .KP_REC_LOST] ++ State.resolveRecord_foot ++ State.applyRecord_foot ++ State.readPool_foot

theorem State.restoreRecords_touches {W : List Part} {σ τ : State}  (hW : ∀ p ∈ State.restoreRecords_foot, p ∈ W)
    (hT : Touches W σ τ) : Touches W σ (State.restoreRecords τ) := by
  unfold State.restoreRecords
  try dsimp only
  repeat' first
    | with_reducible apply Touches.ite
    | with_reducible refine Touches.ofPair (by assumption) (State.resolveRecord_touches (fun p hp => hW p (by unfold State.restoreRecords_foot; repeat first | with_reducible exact hp | with_reducible exact List.mem_append_right _ hp | with_reducible apply List.mem_append_left)) ?_)
    | with_reducible refine State.resolveRecord_touches (fun p hp => hW p (by unfold State.restoreRecords_foot; repeat first | with_reducible exact hp | with_reducible exact List.mem_append_right _ hp | with_reducible apply List.mem_append_left)) ?_
    | with_reducible refine State.applyRecord_touches (fun p hp => hW p (by unfold State.restoreRecords_foot; repeat first | with_reducible exact hp | with_reducible exact List.mem_append_right _ hp | with_reducible apply List.mem_append_left)) ?_
    | with_reducible refine State.bump_touches (hW _ (by first | (simp [State.restoreRecords_foot]; done) | (split <;> simp [State.restoreRecords_foot] <;> done) | ((repeat' split) <;> simp [State.restoreRecords_foot])))  ?_
    | with_reducible refine State.readPool_touches (fun p hp => hW p (by unfold State.restoreRecords_foot; repeat first | with_reducible exact hp | with_reducible exact List.mem_append_right _ hp | with_reducible apply List.mem_append_left)) ?_
    | split
    | with_reducible refine forN_touches ?_ (fun x k hx => ?_)
    | with_reducible refine foldl_touches ?_ (fun x a hx => ?_)
    | with_reducible refine foldlSnd_touches ?_ (fun x a hx => ?_)
    | with_reducible assumption

/-- The parts State.checkRoot touches. -/
def State.checkRoot_foot : List Part := [.reg .KP_TRI_REPAIRS] ++ State.resolveRecord_foot ++ State.writeTri_foot ++ State.raise_foot

theorem State.checkRoot_touches {W : List Part} {σ τ : State} {surf : Nat} (hW : ∀ p ∈ State.checkRoot_foot, p ∈ W)
    (hT : Touches W σ τ) : Touches W σ (State.checkRoot τ surf) := by
  unfold State.checkRoot
  try dsimp only
  repeat' first
    | with_reducible apply Touches.ite
    | with_reducible refine Touches.ofPair (by assumption) (State.resolveRecord_touches (fun p hp => hW p (by unfold State.checkRoot_foot; repeat first | with_reducible exact hp | with_reducible exact List.mem_append_right _ hp | with_reducible apply List.mem_append_left)) ?_)
    | with_reducible refine State.resolveRecord_touches (fun p hp => hW p (by unfold State.checkRoot_foot; repeat first | with_reducible exact hp | with_reducible exact List.mem_append_right _ hp | with_reducible apply List.mem_append_left)) ?_
    | with_reducible refine State.writeTri_touches (fun p hp => hW p (by unfold State.checkRoot_foot; repeat first | with_reducible exact hp | with_reducible exact List.mem_append_right _ hp | with_reducible apply List.mem_append_left)) ?_
    | with_reducible refine State.raise_touches (fun p hp => hW p (by unfold State.checkRoot_foot; repeat first | with_reducible exact hp | with_reducible exact List.mem_append_right _ hp | with_reducible apply List.mem_append_left)) ?_
    | with_reducible refine State.bumpBy_touches (hW _ (by first | (simp [State.checkRoot_foot]; done) | (split <;> simp [State.checkRoot_foot] <;> done) | ((repeat' split) <;> simp [State.checkRoot_foot])))  ?_
    | split
    | with_reducible refine forN_touches ?_ (fun x k hx => ?_)
    | with_reducible refine foldl_touches ?_ (fun x a hx => ?_)
    | with_reducible refine foldlSnd_touches ?_ (fun x a hx => ?_)
    | with_reducible assumption

/-- The parts State.useTriwords touches. -/
def State.useTriwords_foot : List Part := triParams.map (fun e => Part.reg e.1)

theorem State.useTriwords_touches {W : List Part} {σ τ : State}
    (hW : ∀ p ∈ State.useTriwords_foot, p ∈ W) (hT : Touches W σ τ) : Touches W σ (State.useTriwords τ) := by
  have h : ∀ e ∈ triParams, Part.reg e.1 ∈ W := fun e he => hW _ (List.mem_map_of_mem he)
  unfold State.useTriwords
  revert h
  generalize triParams = l
  intro h
  induction l generalizing τ with
  | nil => exact hT
  | cons e l ih => exact ih (State.setReg_touches (h e (by simp)) hT) (fun q hq => h q (by simp [hq]))

/-- The parts State.startUp touches. -/
def State.startUp_foot : List Part := [.reg .SU_LAST_RESET, .reg .LF_CYCLES] ++ State.loadComparators_foot ++ State.voteWord_foot ++ State.useTriwords_foot ++ State.checkRoot_foot ++ State.windowsInForce_foot ++ State.restoreRecords_foot ++ State.chooseImage_foot ++ State.restoreLife_foot

theorem State.startUp_touches {W : List Part} {σ τ : State} {why : Nat} (hW : ∀ p ∈ State.startUp_foot, p ∈ W)
    (hT : Touches W σ τ) : Touches W σ (State.startUp τ why) := by
  unfold State.startUp
  try dsimp only
  repeat' first
    | with_reducible apply Touches.ite
    | with_reducible refine State.loadComparators_touches (fun p hp => hW p (by unfold State.startUp_foot; repeat first | with_reducible exact hp | with_reducible exact List.mem_append_right _ hp | with_reducible apply List.mem_append_left)) ?_
    | with_reducible refine State.voteWord_touches (fun p hp => hW p (by unfold State.startUp_foot; repeat first | with_reducible exact hp | with_reducible exact List.mem_append_right _ hp | with_reducible apply List.mem_append_left)) ?_
    | with_reducible refine State.setReg_touches (hW _ (by first | (simp [State.startUp_foot]; done) | (split <;> simp [State.startUp_foot] <;> done) | ((repeat' split) <;> simp [State.startUp_foot])))  ?_
    | with_reducible refine State.useTriwords_touches (fun p hp => hW p (by unfold State.startUp_foot; repeat first | with_reducible exact hp | with_reducible exact List.mem_append_right _ hp | with_reducible apply List.mem_append_left)) ?_
    | with_reducible refine State.checkRoot_touches (fun p hp => hW p (by unfold State.startUp_foot; repeat first | with_reducible exact hp | with_reducible exact List.mem_append_right _ hp | with_reducible apply List.mem_append_left)) ?_
    | with_reducible refine State.windowsInForce_touches (fun p hp => hW p (by unfold State.startUp_foot; repeat first | with_reducible exact hp | with_reducible exact List.mem_append_right _ hp | with_reducible apply List.mem_append_left)) ?_
    | with_reducible refine State.restoreRecords_touches (fun p hp => hW p (by unfold State.startUp_foot; repeat first | with_reducible exact hp | with_reducible exact List.mem_append_right _ hp | with_reducible apply List.mem_append_left)) ?_
    | with_reducible refine State.chooseImage_touches (fun p hp => hW p (by unfold State.startUp_foot; repeat first | with_reducible exact hp | with_reducible exact List.mem_append_right _ hp | with_reducible apply List.mem_append_left)) ?_
    | with_reducible refine State.restoreLife_touches (fun p hp => hW p (by unfold State.startUp_foot; repeat first | with_reducible exact hp | with_reducible exact List.mem_append_right _ hp | with_reducible apply List.mem_append_left)) ?_
    | with_reducible refine cond_touches ?_ (fun x hx => ?_)
    | with_reducible refine State.bump_touches (hW _ (by first | (simp [State.startUp_foot]; done) | (split <;> simp [State.startUp_foot] <;> done) | ((repeat' split) <;> simp [State.startUp_foot])))  ?_
    | split
    | with_reducible refine forN_touches ?_ (fun x k hx => ?_)
    | with_reducible refine foldl_touches ?_ (fun x a hx => ?_)
    | with_reducible refine foldlSnd_touches ?_ (fun x a hx => ?_)
    | with_reducible assumption

/-- A reset may touch everything. -/
def State.resetParts_foot : List Part := allParts

theorem State.resetParts_keeps (s : State) : Keeps s s.resetParts :=
  ⟨rfl, fun c => ⟨Sparse.wf_filter _ c.regs, rfl, c.keeper⟩⟩

theorem State.resetParts_touches {W : List Part} {σ τ : State} (hW : ∀ p ∈ State.resetParts_foot, p ∈ W)
    (hT : Touches W σ τ) : Touches W σ τ.resetParts :=
  hT.trans (.all hW (State.resetParts_keeps τ))

/-- The parts State.landPage touches. -/
def State.landPage_foot : List Part := [.reg .iTRI] ++ State.keeperPage_foot

theorem State.landPage_touches {W : List Part} {σ τ : State} {w : PageWrite} (hW : ∀ p ∈ State.landPage_foot, p ∈ W)
    (hT : Touches W σ τ) : Touches W σ (State.landPage τ w) := by
  unfold State.landPage
  try dsimp only
  repeat' first
    | with_reducible apply Touches.ite
    | with_reducible refine State.setReg_touches (hW _ (by first | (simp [State.landPage_foot]; done) | (split <;> simp [State.landPage_foot] <;> done) | ((repeat' split) <;> simp [State.landPage_foot])))  ?_
    | with_reducible refine State.keeperPage_touches (fun p hp => hW p (by unfold State.landPage_foot; repeat first | with_reducible exact hp | with_reducible exact List.mem_append_right _ hp | with_reducible apply List.mem_append_left)) ?_
    | split
    | with_reducible refine forN_touches ?_ (fun x k hx => ?_)
    | with_reducible refine foldl_touches ?_ (fun x a hx => ?_)
    | with_reducible refine foldlSnd_touches ?_ (fun x a hx => ?_)
    | with_reducible assumption

/-- The parts State.tearGroups touches. -/
def State.tearGroups_foot : List Part := [.keeper, .fld .keeperBad, .fld .keeperTorn]

theorem State.tearGroups_touches {W : List Part} {σ τ : State} {page n : Nat} {data : List Byte}
    (hW : ∀ p ∈ State.tearGroups_foot, p ∈ W) (hT : Touches W σ τ) : Touches W σ (State.tearGroups τ page n data) :=
  Touches.keeperToo (hW _ (by simp [State.tearGroups_foot]))
    (fun f => by cases f <;> first | exact .inr rfl | exact .inl (hW _ (by simp [State.tearGroups_foot]))) hT rfl rfl rfl (keeperPut_wf _ _) rfl rfl rfl

/-- The parts State.tearPage touches. -/
def State.tearPage_foot : List Part := [.reg .iTRI, .fld .draws] ++ State.landPage_foot ++ State.tearGroups_foot

theorem State.tearPage_touches {W : List Part} {σ τ : State} {w : PageWrite} {n : Nat} (hW : ∀ p ∈ State.tearPage_foot, p ∈ W)
    (hT : Touches W σ τ) : Touches W σ (State.tearPage τ w n) := by
  unfold State.tearPage
  try dsimp only
  repeat' first
    | with_reducible apply Touches.ite
    | with_reducible refine State.landPage_touches (fun p hp => hW p (by unfold State.tearPage_foot; repeat first | with_reducible exact hp | with_reducible exact List.mem_append_right _ hp | with_reducible apply List.mem_append_left)) ?_
    | with_reducible refine cond_touches ?_ (fun x hx => ?_)
    | with_reducible refine State.setReg_touches (hW _ (by first | (simp [State.tearPage_foot]; done) | (split <;> simp [State.tearPage_foot] <;> done) | ((repeat' split) <;> simp [State.tearPage_foot])))  ?_
    | with_reducible refine State.draw_touches (hW _ (by simp [State.tearPage_foot])) ?_
    | with_reducible refine Touches.ofPair (by assumption) (State.draw_touches (hW _ (by simp [State.tearPage_foot])) ?_)
    | with_reducible refine State.tearGroups_touches (fun p hp => hW p (by unfold State.tearPage_foot; repeat first | with_reducible exact hp | with_reducible exact List.mem_append_right _ hp | with_reducible apply List.mem_append_left)) ?_
    | split
    | with_reducible refine forN_touches ?_ (fun x k hx => ?_)
    | with_reducible refine foldl_touches ?_ (fun x a hx => ?_)
    | with_reducible refine foldlSnd_touches ?_ (fun x a hx => ?_)
    | with_reducible assumption

/-- The parts State.afterReset touches. -/
def State.afterReset_foot : List Part := [.reg .SV_STRAPS] ++ State.startUp_foot

theorem State.afterReset_touches {W : List Part} {σ τ : State} {straps : Nat} {why : Nat} (hW : ∀ p ∈ State.afterReset_foot, p ∈ W)
    (hT : Touches W σ τ) : Touches W σ (State.afterReset τ straps why) := by
  unfold State.afterReset
  try dsimp only
  repeat' first
    | with_reducible apply Touches.ite
    | with_reducible refine State.startUp_touches (fun p hp => hW p (by unfold State.afterReset_foot; repeat first | with_reducible exact hp | with_reducible exact List.mem_append_right _ hp | with_reducible apply List.mem_append_left)) ?_
    | with_reducible refine State.setReg_touches (hW _ (by first | (simp [State.afterReset_foot]; done) | (split <;> simp [State.afterReset_foot] <;> done) | ((repeat' split) <;> simp [State.afterReset_foot])))  ?_
    | split
    | with_reducible refine forN_touches ?_ (fun x k hx => ?_)
    | with_reducible refine foldl_touches ?_ (fun x a hx => ?_)
    | with_reducible refine foldlSnd_touches ?_ (fun x a hx => ?_)
    | with_reducible assumption

/-- The parts execPowerReset touches. -/
def execPowerReset_foot : List Part := State.tearPage_foot ++ State.afterReset_foot ++ State.resetParts_foot

theorem execPowerReset_touches {W : List Part} {σ τ : State} {boot : Fin 4} {defaultsN : Bool} {groups : List (Fin 17)} (hW : ∀ p ∈ execPowerReset_foot, p ∈ W)
    (hT : Touches W σ τ) : OutTouches W σ (execPowerReset boot defaultsN groups τ) := by
  unfold execPowerReset
  try dsimp only
  repeat' first
    | with_reducible apply OutTouches.ite
    | with_reducible refine OutTouches.next ?_
    | with_reducible apply Touches.ite
    | with_reducible refine State.tearPage_touches (fun p hp => hW p (by unfold execPowerReset_foot; repeat first | with_reducible exact hp | with_reducible exact List.mem_append_right _ hp | with_reducible apply List.mem_append_left)) ?_
    | with_reducible refine State.afterReset_touches (fun p hp => hW p (by unfold execPowerReset_foot; repeat first | with_reducible exact hp | with_reducible exact List.mem_append_right _ hp | with_reducible apply List.mem_append_left)) ?_
    | with_reducible refine State.resetParts_touches (fun p hp => hW p (by unfold execPowerReset_foot; repeat first | with_reducible exact hp | with_reducible exact List.mem_append_right _ hp | with_reducible apply List.mem_append_left)) ?_
    | split
    | with_reducible refine forN_touches ?_ (fun x k hx => ?_)
    | with_reducible refine foldl_touches ?_ (fun x a hx => ?_)
    | with_reducible refine foldlSnd_touches ?_ (fun x a hx => ?_)
    | with_reducible assumption

/-- The parts State.deviceReset touches. -/
def State.deviceReset_foot : List Part := State.afterReset_foot ++ State.resetParts_foot ++ State.landPage_foot

theorem State.deviceReset_touches {W : List Part} {σ τ : State} {straps : Nat} (hW : ∀ p ∈ State.deviceReset_foot, p ∈ W)
    (hT : Touches W σ τ) : Touches W σ (State.deviceReset τ straps) := by
  unfold State.deviceReset
  try dsimp only
  repeat' first
    | with_reducible apply Touches.ite
    | with_reducible refine State.afterReset_touches (fun p hp => hW p (by unfold State.deviceReset_foot; repeat first | with_reducible exact hp | with_reducible exact List.mem_append_right _ hp | with_reducible apply List.mem_append_left)) ?_
    | with_reducible refine State.resetParts_touches (fun p hp => hW p (by unfold State.deviceReset_foot; repeat first | with_reducible exact hp | with_reducible exact List.mem_append_right _ hp | with_reducible apply List.mem_append_left)) ?_
    | with_reducible refine State.landPage_touches (fun p hp => hW p (by unfold State.deviceReset_foot; repeat first | with_reducible exact hp | with_reducible exact List.mem_append_right _ hp | with_reducible apply List.mem_append_left)) ?_
    | split
    | with_reducible refine forN_touches ?_ (fun x k hx => ?_)
    | with_reducible refine foldl_touches ?_ (fun x a hx => ?_)
    | with_reducible refine foldlSnd_touches ?_ (fun x a hx => ?_)
    | with_reducible assumption

/-- The parts execDeviceReset touches. -/
def execDeviceReset_foot : List Part := State.deviceReset_foot

theorem execDeviceReset_touches {W : List Part} {σ τ : State} {boot : Fin 4} {defaultsN : Bool} (hW : ∀ p ∈ execDeviceReset_foot, p ∈ W)
    (hT : Touches W σ τ) : OutTouches W σ (execDeviceReset boot defaultsN τ) := by
  unfold execDeviceReset
  try dsimp only
  repeat' first
    | with_reducible apply OutTouches.ite
    | with_reducible refine OutTouches.next ?_
    | with_reducible apply Touches.ite
    | with_reducible refine State.deviceReset_touches (fun p hp => hW p (by unfold execDeviceReset_foot; repeat first | with_reducible exact hp | with_reducible exact List.mem_append_right _ hp | with_reducible apply List.mem_append_left)) ?_
    | split
    | with_reducible refine forN_touches ?_ (fun x k hx => ?_)
    | with_reducible refine foldl_touches ?_ (fun x a hx => ?_)
    | with_reducible refine foldlSnd_touches ?_ (fun x a hx => ?_)
    | with_reducible assumption

/-- The parts execSvReset touches. -/
def execSvReset_foot : List Part := State.deviceReset_foot ++ writeParam_foot

theorem execSvReset_touches {W : List Part} {σ τ : State} {acc : Accessor} {boot : Fin 4} {defaultsN : Bool} (hW : ∀ p ∈ execSvReset_foot, p ∈ W)
    (hT : Touches W σ τ) : OutTouches W σ (execSvReset acc boot defaultsN τ) := by
  unfold execSvReset
  try dsimp only
  repeat' first
    | with_reducible apply OutTouches.ite
    | with_reducible refine OutTouches.next ?_
    | with_reducible apply Touches.ite
    | with_reducible refine State.deviceReset_touches (fun p hp => hW p (by unfold execSvReset_foot; repeat first | with_reducible exact hp | with_reducible exact List.mem_append_right _ hp | with_reducible apply List.mem_append_left)) ?_
    | with_reducible refine writeParam_touches  (fun p hp => hW p (by unfold execSvReset_foot; repeat first | with_reducible exact hp | with_reducible exact List.mem_append_right _ hp | with_reducible apply List.mem_append_left)) ?_ (fun x  hx => ?_)
    | split
    | with_reducible refine forN_touches ?_ (fun x k hx => ?_)
    | with_reducible refine foldl_touches ?_ (fun x a hx => ?_)
    | with_reducible refine foldlSnd_touches ?_ (fun x a hx => ?_)
    | with_reducible assumption

/-- A thermal restart may touch everything. -/
def State.thermalParts_foot : List Part := allParts

theorem State.thermalParts_touches {W : List Part} {σ τ : State} (hW : ∀ p ∈ State.thermalParts_foot, p ∈ W)
    (hT : Touches W σ τ) : Touches W σ τ.thermalParts :=
  hT.trans (.all hW ⟨rfl, fun c => ⟨Sparse.wf_filter _ c.regs, c.mem, c.keeper⟩⟩)

/-- The parts execThermalRestart touches. -/
def execThermalRestart_foot : List Part := [.reg .iCK_WHY] ++ State.thermalParts_foot ++ State.toBypass_foot ++ State.startUp_foot ++ State.holdChannels_foot

theorem execThermalRestart_touches {W : List Part} {σ τ : State}  (hW : ∀ p ∈ execThermalRestart_foot, p ∈ W)
    (hT : Touches W σ τ) : OutTouches W σ (execThermalRestart τ) := by
  unfold execThermalRestart
  try dsimp only
  repeat' first
    | with_reducible apply OutTouches.ite
    | with_reducible refine OutTouches.next ?_
    | with_reducible apply Touches.ite
    | with_reducible refine State.thermalParts_touches (fun p hp => hW p (by unfold execThermalRestart_foot; repeat first | with_reducible exact hp | with_reducible exact List.mem_append_right _ hp | with_reducible apply List.mem_append_left)) ?_
    | with_reducible refine State.toBypass_touches (fun p hp => hW p (by unfold execThermalRestart_foot; repeat first | with_reducible exact hp | with_reducible exact List.mem_append_right _ hp | with_reducible apply List.mem_append_left)) ?_
    | with_reducible refine State.setReg_touches (hW _ (by first | (simp [execThermalRestart_foot]; done) | (split <;> simp [execThermalRestart_foot] <;> done) | ((repeat' split) <;> simp [execThermalRestart_foot])))  ?_
    | with_reducible refine State.startUp_touches (fun p hp => hW p (by unfold execThermalRestart_foot; repeat first | with_reducible exact hp | with_reducible exact List.mem_append_right _ hp | with_reducible apply List.mem_append_left)) ?_
    | with_reducible refine State.holdChannels_touches (fun p hp => hW p (by unfold execThermalRestart_foot; repeat first | with_reducible exact hp | with_reducible exact List.mem_append_right _ hp | with_reducible apply List.mem_append_left)) ?_
    | split
    | with_reducible refine forN_touches ?_ (fun x k hx => ?_)
    | with_reducible refine foldl_touches ?_ (fun x a hx => ?_)
    | with_reducible refine foldlSnd_touches ?_ (fun x a hx => ?_)
    | with_reducible assumption

/-- The parts State.endpointReset touches: several registers at once. -/
def State.endpointReset_foot : List Part := [.anyReg]

theorem State.endpointReset_touches {W : List Part} {σ τ : State}
    (hW : ∀ p ∈ State.endpointReset_foot, p ∈ W) (hT : Touches W σ τ) : Touches W σ (State.endpointReset τ) :=
  hT.trans ⟨fun _ _ _ h => absurd (hW _ (by simp [State.endpointReset_foot])) h, fun _ => rfl, fun _ => rfl,
    fun _ => ⟨rfl, rfl⟩, fun _ => rfl, fun f _ _ => by cases f <;> rfl, rfl, fun c => ⟨Sparse.wf_filter _ c.regs, c.mem, c.keeper⟩⟩

/-- The parts execPcieReset touches. -/
def execPcieReset_foot : List Part := [.reg .iSTR_WAIT] ++ State.busError_foot ++ State.endpointReset_foot

theorem execPcieReset_touches {W : List Part} {σ τ : State}  (hW : ∀ p ∈ execPcieReset_foot, p ∈ W)
    (hT : Touches W σ τ) : OutTouches W σ (execPcieReset τ) := by
  unfold execPcieReset
  try dsimp only
  repeat' first
    | with_reducible apply OutTouches.ite
    | with_reducible refine OutTouches.next ?_
    | with_reducible apply Touches.ite
    | with_reducible refine State.busError_touches (fun p hp => hW p (by unfold execPcieReset_foot; repeat first | with_reducible exact hp | with_reducible exact List.mem_append_right _ hp | with_reducible apply List.mem_append_left)) ?_
    | with_reducible refine cond_touches ?_ (fun x hx => ?_)
    | with_reducible refine State.setReg_touches (hW _ (by first | (simp [execPcieReset_foot]; done) | (split <;> simp [execPcieReset_foot] <;> done) | ((repeat' split) <;> simp [execPcieReset_foot])))  ?_
    | with_reducible refine State.endpointReset_touches (fun p hp => hW p (by unfold execPcieReset_foot; repeat first | with_reducible exact hp | with_reducible exact List.mem_append_right _ hp | with_reducible apply List.mem_append_left)) ?_
    | split
    | with_reducible refine forN_touches ?_ (fun x k hx => ?_)
    | with_reducible refine foldl_touches ?_ (fun x a hx => ?_)
    | with_reducible refine foldlSnd_touches ?_ (fun x a hx => ?_)
    | with_reducible assumption

/-- The parts execPcieLinkUp touches. -/
def execPcieLinkUp_foot : List Part := [.reg .iF2_BM, .reg .PCI_LINK]

theorem execPcieLinkUp_touches {W : List Part} {σ τ : State} {gen : Fin 16} {width : Fin 64} {f2 : Bool} (hW : ∀ p ∈ execPcieLinkUp_foot, p ∈ W)
    (hT : Touches W σ τ) : OutTouches W σ (execPcieLinkUp gen width f2 τ) := by
  unfold execPcieLinkUp
  try dsimp only
  repeat' first
    | with_reducible apply OutTouches.ite
    | with_reducible refine OutTouches.next ?_
    | with_reducible apply Touches.ite
    | with_reducible refine State.setReg_touches (hW _ (by first | (simp [execPcieLinkUp_foot]; done) | (split <;> simp [execPcieLinkUp_foot] <;> done) | ((repeat' split) <;> simp [execPcieLinkUp_foot])))  ?_
    | split
    | with_reducible refine forN_touches ?_ (fun x k hx => ?_)
    | with_reducible refine foldl_touches ?_ (fun x a hx => ?_)
    | with_reducible refine foldlSnd_touches ?_ (fun x a hx => ?_)
    | with_reducible assumption

end Sys2Proof.Machine
end

