-- ==== Sys2Proof/Laws/TouchesSessions.lean ====
section
/-! SUPPORT. What the functions of Machine/Sessions.lean touch. -/
namespace Sys2Proof.Machine
set_option linter.all false

/-- The parts State.bindSlot touches. -/
def State.bindSlot_foot : List Part := [.reg .STR_STATE, .reg .STR_SESSION, .reg .SS_SLOT, .reg .STR_TILES_LOST, .reg .STR_DISCARDS, .reg .STR_PACKETS, .reg .iSEQ_HIGH, .fld .replay] ++ State.reportGroups_foot

theorem State.bindSlot_touches {W : List Part} {σ τ : State} {n : Nat} {k : Nat} (hW : ∀ p ∈ State.bindSlot_foot, p ∈ W)
    (hT : Touches W σ τ) : Touches W σ (State.bindSlot τ n k) := by
  unfold State.bindSlot
  try dsimp only
  repeat' first
    | with_reducible apply Touches.ite
    | with_reducible refine State.setReg_touches (hW _ (by first | (simp [State.bindSlot_foot]; done) | (split <;> simp [State.bindSlot_foot] <;> done) | ((repeat' split) <;> simp [State.bindSlot_foot])))  ?_
    | with_reducible refine State.reportGroups_touches (fun p hp => hW p (by unfold State.bindSlot_foot; repeat first | with_reducible exact hp | with_reducible exact List.mem_append_right _ hp | with_reducible apply List.mem_append_left)) ?_
    | split
    | with_reducible refine forN_touches ?_ (fun x k hx => ?_)
    | with_reducible refine foldl_touches ?_ (fun x a hx => ?_)
    | with_reducible refine foldlSnd_touches ?_ (fun x a hx => ?_)
    | with_reducible assumption
    | with_reducible refine touches_mk (fun f => by cases f <;> first | exact .inr (by with_reducible rfl) | exact .inl (hW _ (by simp [State.bindSlot_foot]))) ?_

/-- The parts State.openSession touches. -/
def State.openSession_foot : List Part := [.reg .SS_KEY_ID, .reg .SS_KIND, .reg .SS_ROLE, .reg .SS_STATE, .reg .iSS_SEQ, .reg .iSS_KEY, .reg .iSS_KEYED, .reg .iSS_NOTIFY] ++ State.bindSlot_foot

theorem State.openSession_touches {W : List Part} {σ τ : State} {n : Nat} {role : Nat} {kind : Nat} {keyId : Nat} {key : Option Nat} {slot : Option Nat} (hW : ∀ p ∈ State.openSession_foot, p ∈ W)
    (hT : Touches W σ τ) : Touches W σ (State.openSession τ n role kind keyId key slot) := by
  unfold State.openSession
  try dsimp only
  repeat' first
    | with_reducible apply Touches.ite
    | with_reducible refine State.setReg_touches (hW _ (by first | (simp [State.openSession_foot]; done) | (split <;> simp [State.openSession_foot] <;> done) | ((repeat' split) <;> simp [State.openSession_foot])))  ?_
    | with_reducible refine State.bindSlot_touches (fun p hp => hW p (by unfold State.openSession_foot; repeat first | with_reducible exact hp | with_reducible exact List.mem_append_right _ hp | with_reducible apply List.mem_append_left)) ?_
    | split
    | with_reducible refine forN_touches ?_ (fun x k hx => ?_)
    | with_reducible refine foldl_touches ?_ (fun x a hx => ?_)
    | with_reducible refine foldlSnd_touches ?_ (fun x a hx => ?_)
    | with_reducible assumption

/-- The parts State.closeGroups touches. -/
def State.closeGroups_foot : List Part := [.reg .CG_OWNER] ++ State.idleGroup_foot

theorem State.closeGroups_touches {W : List Part} {σ τ : State} {n : Nat} (hW : ∀ p ∈ State.closeGroups_foot, p ∈ W)
    (hT : Touches W σ τ) : Touches W σ (State.closeGroups τ n) := by
  unfold State.closeGroups
  try dsimp only
  repeat' first
    | with_reducible apply Touches.ite
    | with_reducible refine State.idleGroup_touches (fun p hp => hW p (by unfold State.closeGroups_foot; repeat first | with_reducible exact hp | with_reducible exact List.mem_append_right _ hp | with_reducible apply List.mem_append_left)) ?_
    | with_reducible refine State.setReg_touches (hW _ (by first | (simp [State.closeGroups_foot]; done) | (split <;> simp [State.closeGroups_foot] <;> done) | ((repeat' split) <;> simp [State.closeGroups_foot])))  ?_
    | split
    | with_reducible refine forN_touches ?_ (fun x k hx => ?_)
    | with_reducible refine foldl_touches ?_ (fun x a hx => ?_)
    | with_reducible refine foldlSnd_touches ?_ (fun x a hx => ?_)
    | with_reducible assumption

/-- The parts State.freeStream touches. -/
def State.freeStream_foot : List Part := [.reg .STR_SESSION, .reg .STR_STATE] ++ State.reportGroups_foot

theorem State.freeStream_touches {W : List Part} {σ τ : State} {n : Nat} (hW : ∀ p ∈ State.freeStream_foot, p ∈ W)
    (hT : Touches W σ τ) : Touches W σ (State.freeStream τ n) := by
  unfold State.freeStream
  try dsimp only
  repeat' first
    | with_reducible apply Touches.ite
    | with_reducible refine State.reportGroups_touches (fun p hp => hW p (by unfold State.freeStream_foot; repeat first | with_reducible exact hp | with_reducible exact List.mem_append_right _ hp | with_reducible apply List.mem_append_left)) ?_
    | with_reducible refine State.setReg_touches (hW _ (by first | (simp [State.freeStream_foot]; done) | (split <;> simp [State.freeStream_foot] <;> done) | ((repeat' split) <;> simp [State.freeStream_foot])))  ?_
    | split
    | with_reducible refine forN_touches ?_ (fun x k hx => ?_)
    | with_reducible refine foldl_touches ?_ (fun x a hx => ?_)
    | with_reducible refine foldlSnd_touches ?_ (fun x a hx => ?_)
    | with_reducible assumption

/-- The parts State.endSubscriptions touches. -/
def State.endSubscriptions_foot : List Part := [.fld .queues]

theorem State.endSubscriptions_touches {W : List Part} {σ τ : State} {n : Nat} (hW : ∀ p ∈ State.endSubscriptions_foot, p ∈ W)
    (hT : Touches W σ τ) : Touches W σ (State.endSubscriptions τ n) := by
  unfold State.endSubscriptions
  try dsimp only
  repeat' first
    | with_reducible apply Touches.ite
    | with_reducible refine State.setQueue_touches (hW _ (by simp [State.endSubscriptions_foot])) ?_
    | split
    | with_reducible refine forN_touches ?_ (fun x k hx => ?_)
    | with_reducible refine foldl_touches ?_ (fun x a hx => ?_)
    | with_reducible refine foldlSnd_touches ?_ (fun x a hx => ?_)
    | with_reducible assumption

/-- The parts State.clearSession touches. -/
def State.clearSession_foot : List Part := sessionRegs.map Part.reg ++ [.fld .responses, .fld .heldRequests]

theorem State.clearSession_touches {W : List Part} {σ τ : State} {n : Nat}
    (hW : ∀ p ∈ State.clearSession_foot, p ∈ W) (hT : Touches W σ τ) : Touches W σ (State.clearSession τ n) := by
  refine touches_mk (fun f => by cases f <;> first | exact .inr (by with_reducible rfl) | exact .inl (hW _ (by simp [State.clearSession_foot]))) ?_
  have h : ∀ r ∈ sessionRegs, Part.reg r ∈ W := fun r hr => hW _ (List.mem_append_left _ (List.mem_map_of_mem hr))
  revert h
  generalize sessionRegs = l
  intro h
  induction l generalizing τ with
  | nil => exact hT
  | cons r l ih =>
    exact ih (State.setReg_touches (h r (by simp)) hT) (fun q hq => h q (by simp [hq]))

/-- The parts State.closeNow touches. -/
def State.closeNow_foot : List Part := State.raise_foot ++ State.clearSession_foot ++ State.endSubscriptions_foot ++ State.freeStream_foot ++ State.closeGroups_foot

theorem State.closeNow_touches {W : List Part} {σ τ : State} {n : Nat} {cause : Nat} (hW : ∀ p ∈ State.closeNow_foot, p ∈ W)
    (hT : Touches W σ τ) : Touches W σ (State.closeNow τ n cause) := by
  unfold State.closeNow
  try dsimp only
  repeat' first
    | with_reducible apply Touches.ite
    | with_reducible refine State.raise_touches (fun p hp => hW p (by unfold State.closeNow_foot; repeat first | with_reducible exact hp | with_reducible exact List.mem_append_right _ hp | with_reducible apply List.mem_append_left)) ?_
    | with_reducible refine State.clearSession_touches (fun p hp => hW p (by unfold State.closeNow_foot; repeat first | with_reducible exact hp | with_reducible exact List.mem_append_right _ hp | with_reducible apply List.mem_append_left)) ?_
    | with_reducible refine State.endSubscriptions_touches (fun p hp => hW p (by unfold State.closeNow_foot; repeat first | with_reducible exact hp | with_reducible exact List.mem_append_right _ hp | with_reducible apply List.mem_append_left)) ?_
    | with_reducible refine State.freeStream_touches (fun p hp => hW p (by unfold State.closeNow_foot; repeat first | with_reducible exact hp | with_reducible exact List.mem_append_right _ hp | with_reducible apply List.mem_append_left)) ?_
    | with_reducible refine State.closeGroups_touches (fun p hp => hW p (by unfold State.closeNow_foot; repeat first | with_reducible exact hp | with_reducible exact List.mem_append_right _ hp | with_reducible apply List.mem_append_left)) ?_
    | split
    | with_reducible refine forN_touches ?_ (fun x k hx => ?_)
    | with_reducible refine foldl_touches ?_ (fun x a hx => ?_)
    | with_reducible refine foldlSnd_touches ?_ (fun x a hx => ?_)
    | with_reducible assumption

/-- The parts State.closeSession touches. -/
def State.closeSession_foot : List Part := [.reg .iPLV_CLOSE] ++ State.closeNow_foot

theorem State.closeSession_touches {W : List Part} {σ τ : State} {n : Nat} {cause : Nat} (hW : ∀ p ∈ State.closeSession_foot, p ∈ W)
    (hT : Touches W σ τ) : Touches W σ (State.closeSession τ n cause) := by
  unfold State.closeSession
  try dsimp only
  repeat' first
    | with_reducible apply Touches.ite
    | with_reducible refine cond_touches ?_ (fun x hx => ?_)
    | with_reducible refine State.setReg_touches (hW _ (by first | (simp [State.closeSession_foot]; done) | (split <;> simp [State.closeSession_foot] <;> done) | ((repeat' split) <;> simp [State.closeSession_foot])))  ?_
    | with_reducible refine State.closeNow_touches (fun p hp => hW p (by unfold State.closeSession_foot; repeat first | with_reducible exact hp | with_reducible exact List.mem_append_right _ hp | with_reducible apply List.mem_append_left)) ?_
    | split
    | with_reducible refine forN_touches ?_ (fun x k hx => ?_)
    | with_reducible refine foldl_touches ?_ (fun x a hx => ?_)
    | with_reducible refine foldlSnd_touches ?_ (fun x a hx => ?_)
    | with_reducible assumption

/-- The parts execSessionTimeout touches. -/
def execSessionTimeout_foot : List Part := [.fld .sent] ++ State.closeSession_foot

theorem execSessionTimeout_touches {W : List Part} {σ τ : State} {n : Fin 1024} (hW : ∀ p ∈ execSessionTimeout_foot, p ∈ W)
    (hT : Touches W σ τ) : OutTouches W σ (execSessionTimeout n τ) := by
  unfold execSessionTimeout
  try dsimp only
  repeat' first
    | with_reducible apply OutTouches.ite
    | with_reducible refine OutTouches.next ?_
    | with_reducible apply Touches.ite
    | with_reducible refine State.closeSession_touches (fun p hp => hW p (by unfold execSessionTimeout_foot; repeat first | with_reducible exact hp | with_reducible exact List.mem_append_right _ hp | with_reducible apply List.mem_append_left)) ?_
    | with_reducible refine State.send_touches (hW _ (by simp [execSessionTimeout_foot])) ?_
    | split
    | with_reducible refine forN_touches ?_ (fun x k hx => ?_)
    | with_reducible refine foldl_touches ?_ (fun x a hx => ?_)
    | with_reducible refine foldlSnd_touches ?_ (fun x a hx => ?_)
    | with_reducible assumption

/-- The parts execSsClose touches. -/
def execSsClose_foot : List Part := [.fld .sent] ++ writeParam_foot ++ State.closeSession_foot

theorem execSsClose_touches {W : List Part} {σ τ : State} {acc : Accessor} {n : Fin 1024} (hW : ∀ p ∈ execSsClose_foot, p ∈ W)
    (hT : Touches W σ τ) : OutTouches W σ (execSsClose acc n τ) := by
  unfold execSsClose
  try dsimp only
  repeat' first
    | with_reducible apply OutTouches.ite
    | with_reducible refine OutTouches.next ?_
    | with_reducible apply Touches.ite
    | with_reducible refine writeParam_touches  (fun p hp => hW p (by unfold execSsClose_foot; repeat first | with_reducible exact hp | with_reducible exact List.mem_append_right _ hp | with_reducible apply List.mem_append_left)) ?_ (fun x  hx => ?_)
    | with_reducible refine State.closeSession_touches (fun p hp => hW p (by unfold execSsClose_foot; repeat first | with_reducible exact hp | with_reducible exact List.mem_append_right _ hp | with_reducible apply List.mem_append_left)) ?_
    | with_reducible refine State.send_touches (hW _ (by simp [execSsClose_foot])) ?_
    | split
    | with_reducible refine forN_touches ?_ (fun x k hx => ?_)
    | with_reducible refine foldl_touches ?_ (fun x a hx => ?_)
    | with_reducible refine foldlSnd_touches ?_ (fun x a hx => ?_)
    | with_reducible assumption

/-- The parts State.keySet touches. -/
def State.keySet_foot : List Part := [.keys, .fld .status, .fld .keepPending] ++ State.closeSession_foot

theorem State.keySet_touches {W : List Part} {σ τ : State} {v : Nat} (hW : ∀ p ∈ State.keySet_foot, p ∈ W)
    (hT : Touches W σ τ) : Touches W σ (State.keySet τ v) := by
  unfold State.keySet
  try dsimp only
  repeat' first
    | with_reducible apply Touches.ite
    | with_reducible refine State.refuse_touches (hW _ (by simp [State.keySet_foot])) ?_
    | with_reducible refine State.noteKeep_touches (hW _ (by simp [State.keySet_foot])) ?_
    | with_reducible refine State.closeSession_touches (fun p hp => hW p (by unfold State.keySet_foot; repeat first | with_reducible exact hp | with_reducible exact List.mem_append_right _ hp | with_reducible apply List.mem_append_left)) ?_
    | split
    | with_reducible refine forN_touches ?_ (fun x k hx => ?_)
    | with_reducible refine foldl_touches ?_ (fun x a hx => ?_)
    | with_reducible refine foldlSnd_touches ?_ (fun x a hx => ?_)
    | with_reducible assumption
    | with_reducible refine touches_mk_keys (hW _ (by first | (simp [State.keySet_foot]; done) | (split <;> simp [State.keySet_foot] <;> done) | ((repeat' split) <;> simp [State.keySet_foot]))) (fun f => by cases f <;> first | exact .inr (by with_reducible rfl) | exact .inl (hW _ (by simp [State.keySet_foot]))) ?_
    | with_reducible refine touches_mk (fun f => by cases f <;> first | exact .inr (by with_reducible rfl) | exact .inl (hW _ (by simp [State.keySet_foot]))) ?_

/-- The parts execPlvKeySet touches. -/
def execPlvKeySet_foot : List Part := [.fld .sent] ++ writeParam_foot ++ State.keySet_foot

theorem execPlvKeySet_touches {W : List Part} {σ τ : State} {acc : Accessor} {v : BitVec 288} (hW : ∀ p ∈ execPlvKeySet_foot, p ∈ W)
    (hT : Touches W σ τ) : OutTouches W σ (execPlvKeySet acc v τ) := by
  unfold execPlvKeySet
  try dsimp only
  repeat' first
    | with_reducible apply OutTouches.ite
    | with_reducible refine OutTouches.next ?_
    | with_reducible apply Touches.ite
    | with_reducible refine writeParam_touches  (fun p hp => hW p (by unfold execPlvKeySet_foot; repeat first | with_reducible exact hp | with_reducible exact List.mem_append_right _ hp | with_reducible apply List.mem_append_left)) ?_ (fun x  hx => ?_)
    | with_reducible refine State.keySet_touches (fun p hp => hW p (by unfold execPlvKeySet_foot; repeat first | with_reducible exact hp | with_reducible exact List.mem_append_right _ hp | with_reducible apply List.mem_append_left)) ?_
    | with_reducible refine State.send_touches (hW _ (by simp [execPlvKeySet_foot])) ?_
    | split
    | with_reducible refine forN_touches ?_ (fun x k hx => ?_)
    | with_reducible refine foldl_touches ?_ (fun x a hx => ?_)
    | with_reducible refine foldlSnd_touches ?_ (fun x a hx => ?_)
    | with_reducible assumption

end Sys2Proof.Machine
end

