-- ==== Sys2Proof/Laws/TouchesSeams.lean ====
section
/-! SUPPORT. What the functions of Machine/Seams.lean touch. -/
namespace Sys2Proof.Machine
set_option linter.all false

/-- The parts State.setLoop touches. -/
def State.setLoop_foot : List Part := [.reg .SM_STATE]

theorem State.setLoop_touches {W : List Part} {σ τ : State} {surf : Nat} {n : Nat} {st : Nat} (hW : ∀ p ∈ State.setLoop_foot, p ∈ W)
    (hT : Touches W σ τ) : Touches W σ (State.setLoop τ surf n st) := by
  unfold State.setLoop
  try dsimp only
  repeat' first
    | with_reducible apply Touches.ite
    | with_reducible refine State.setReg_touches (hW _ (by first | (simp [State.setLoop_foot]; done) | (split <;> simp [State.setLoop_foot] <;> done) | ((repeat' split) <;> simp [State.setLoop_foot])))  ?_
    | split
    | with_reducible refine forN_touches ?_ (fun x k hx => ?_)
    | with_reducible refine foldl_touches ?_ (fun x a hx => ?_)
    | with_reducible refine foldlSnd_touches ?_ (fun x a hx => ?_)
    | with_reducible assumption

/-- The parts State.seamPolicy touches. -/
def State.seamPolicy_foot : List Part := State.force_foot ++ State.unforce_foot

theorem State.seamPolicy_touches {W : List Part} {σ τ : State} {surf : Nat} (hW : ∀ p ∈ State.seamPolicy_foot, p ∈ W)
    (hT : Touches W σ τ) : Touches W σ (State.seamPolicy τ surf) := by
  unfold State.seamPolicy
  try dsimp only
  repeat' first
    | with_reducible apply Touches.ite
    | with_reducible refine State.force_touches (fun p hp => hW p (by unfold State.seamPolicy_foot; repeat first | with_reducible exact hp | with_reducible exact List.mem_append_right _ hp | with_reducible apply List.mem_append_left)) ?_
    | with_reducible refine State.unforce_touches (fun p hp => hW p (by unfold State.seamPolicy_foot; repeat first | with_reducible exact hp | with_reducible exact List.mem_append_right _ hp | with_reducible apply List.mem_append_left)) ?_
    | split
    | with_reducible refine forN_touches ?_ (fun x k hx => ?_)
    | with_reducible refine foldl_touches ?_ (fun x a hx => ?_)
    | with_reducible refine foldlSnd_touches ?_ (fun x a hx => ?_)
    | with_reducible assumption

/-- The parts State.loopOpens touches. -/
def State.loopOpens_foot : List Part := [.reg .SM_OPENS, .reg .SM_LATCHED] ++ State.setLoop_foot ++ State.raise_foot

theorem State.loopOpens_touches {W : List Part} {σ τ : State} {surf : Nat} {n : Nat} (hW : ∀ p ∈ State.loopOpens_foot, p ∈ W)
    (hT : Touches W σ τ) : Touches W σ (State.loopOpens τ surf n) := by
  unfold State.loopOpens
  try dsimp only
  repeat' first
    | with_reducible apply Touches.ite
    | with_reducible refine cond_touches ?_ (fun x hx => ?_)
    | with_reducible refine State.setLoop_touches (fun p hp => hW p (by unfold State.loopOpens_foot; repeat first | with_reducible exact hp | with_reducible exact List.mem_append_right _ hp | with_reducible apply List.mem_append_left)) ?_
    | with_reducible refine State.bump_touches (hW _ (by first | (simp [State.loopOpens_foot]; done) | (split <;> simp [State.loopOpens_foot] <;> done) | ((repeat' split) <;> simp [State.loopOpens_foot])))  ?_
    | with_reducible refine State.setReg_touches (hW _ (by first | (simp [State.loopOpens_foot]; done) | (split <;> simp [State.loopOpens_foot] <;> done) | ((repeat' split) <;> simp [State.loopOpens_foot])))  ?_
    | with_reducible refine State.raise_touches (fun p hp => hW p (by unfold State.loopOpens_foot; repeat first | with_reducible exact hp | with_reducible exact List.mem_append_right _ hp | with_reducible apply List.mem_append_left)) ?_
    | split
    | with_reducible refine forN_touches ?_ (fun x k hx => ?_)
    | with_reducible refine foldl_touches ?_ (fun x a hx => ?_)
    | with_reducible refine foldlSnd_touches ?_ (fun x a hx => ?_)
    | with_reducible assumption

/-- The parts State.loopCloses touches. -/
def State.loopCloses_foot : List Part := State.setLoop_foot ++ State.raise_foot

theorem State.loopCloses_touches {W : List Part} {σ τ : State} {surf : Nat} {n : Nat} (hW : ∀ p ∈ State.loopCloses_foot, p ∈ W)
    (hT : Touches W σ τ) : Touches W σ (State.loopCloses τ surf n) := by
  unfold State.loopCloses
  try dsimp only
  repeat' first
    | with_reducible apply Touches.ite
    | with_reducible refine cond_touches ?_ (fun x hx => ?_)
    | with_reducible refine State.setLoop_touches (fun p hp => hW p (by unfold State.loopCloses_foot; repeat first | with_reducible exact hp | with_reducible exact List.mem_append_right _ hp | with_reducible apply List.mem_append_left)) ?_
    | with_reducible refine State.raise_touches (fun p hp => hW p (by unfold State.loopCloses_foot; repeat first | with_reducible exact hp | with_reducible exact List.mem_append_right _ hp | with_reducible apply List.mem_append_left)) ?_
    | split
    | with_reducible refine forN_touches ?_ (fun x k hx => ?_)
    | with_reducible refine foldl_touches ?_ (fun x a hx => ?_)
    | with_reducible refine foldlSnd_touches ?_ (fun x a hx => ?_)
    | with_reducible assumption

/-- The parts State.loopSample touches. -/
def State.loopSample_foot : List Part := [.reg .iSM_RUN, .reg .iSM_KIND, .reg .SM_OHMS] ++ State.loopOpens_foot ++ State.loopCloses_foot

theorem State.loopSample_touches {W : List Part} {σ τ : State} {surf : Nat} {n : Nat} {ohms : Nat} (hW : ∀ p ∈ State.loopSample_foot, p ∈ W)
    (hT : Touches W σ τ) : Touches W σ (State.loopSample τ surf n ohms) := by
  unfold State.loopSample
  try dsimp only
  repeat' first
    | with_reducible apply Touches.ite
    | with_reducible refine State.setReg_touches (hW _ (by first | (simp [State.loopSample_foot]; done) | (split <;> simp [State.loopSample_foot] <;> done) | ((repeat' split) <;> simp [State.loopSample_foot])))  ?_
    | with_reducible refine State.loopOpens_touches (fun p hp => hW p (by unfold State.loopSample_foot; repeat first | with_reducible exact hp | with_reducible exact List.mem_append_right _ hp | with_reducible apply List.mem_append_left)) ?_
    | with_reducible refine State.loopCloses_touches (fun p hp => hW p (by unfold State.loopSample_foot; repeat first | with_reducible exact hp | with_reducible exact List.mem_append_right _ hp | with_reducible apply List.mem_append_left)) ?_
    | split
    | with_reducible refine forN_touches ?_ (fun x k hx => ?_)
    | with_reducible refine foldl_touches ?_ (fun x a hx => ?_)
    | with_reducible refine foldlSnd_touches ?_ (fun x a hx => ?_)
    | with_reducible assumption

/-- The parts execSeamLoopSample touches. -/
def execSeamLoopSample_foot : List Part := State.seamPolicy_foot ++ State.loopSample_foot

theorem execSeamLoopSample_touches {W : List Part} {σ τ : State} {surf : Surface} {ohms : List Nat} (hW : ∀ p ∈ execSeamLoopSample_foot, p ∈ W)
    (hT : Touches W σ τ) : OutTouches W σ (execSeamLoopSample surf ohms τ) := by
  unfold execSeamLoopSample
  try dsimp only
  repeat' first
    | with_reducible apply OutTouches.ite
    | with_reducible refine OutTouches.next ?_
    | with_reducible apply Touches.ite
    | with_reducible refine State.seamPolicy_touches (fun p hp => hW p (by unfold execSeamLoopSample_foot; repeat first | with_reducible exact hp | with_reducible exact List.mem_append_right _ hp | with_reducible apply List.mem_append_left)) ?_
    | with_reducible refine State.loopSample_touches (fun p hp => hW p (by unfold execSeamLoopSample_foot; repeat first | with_reducible exact hp | with_reducible exact List.mem_append_right _ hp | with_reducible apply List.mem_append_left)) ?_
    | split
    | with_reducible refine forN_touches ?_ (fun x k hx => ?_)
    | with_reducible refine foldl_touches ?_ (fun x a hx => ?_)
    | with_reducible refine foldlSnd_touches ?_ (fun x a hx => ?_)
    | with_reducible assumption

/-- The parts State.seamClear touches. -/
def State.seamClear_foot : List Part := [.reg .SM_LATCHED] ++ State.seamPolicy_foot

theorem State.seamClear_touches {W : List Part} {σ τ : State} {surf : Nat} (hW : ∀ p ∈ State.seamClear_foot, p ∈ W)
    (hT : Touches W σ τ) : Touches W σ (State.seamClear τ surf) := by
  unfold State.seamClear
  try dsimp only
  repeat' first
    | with_reducible apply Touches.ite
    | with_reducible refine State.seamPolicy_touches (fun p hp => hW p (by unfold State.seamClear_foot; repeat first | with_reducible exact hp | with_reducible exact List.mem_append_right _ hp | with_reducible apply List.mem_append_left)) ?_
    | with_reducible refine State.setReg_touches (hW _ (by first | (simp [State.seamClear_foot]; done) | (split <;> simp [State.seamClear_foot] <;> done) | ((repeat' split) <;> simp [State.seamClear_foot])))  ?_
    | split
    | with_reducible refine forN_touches ?_ (fun x k hx => ?_)
    | with_reducible refine foldl_touches ?_ (fun x a hx => ?_)
    | with_reducible refine foldlSnd_touches ?_ (fun x a hx => ?_)
    | with_reducible assumption

/-- The parts execSmClear touches. -/
def execSmClear_foot : List Part := writeParam_foot ++ State.seamClear_foot

theorem execSmClear_touches {W : List Part} {σ τ : State} {acc : Accessor} {surf : Surface} (hW : ∀ p ∈ execSmClear_foot, p ∈ W)
    (hT : Touches W σ τ) : OutTouches W σ (execSmClear acc surf τ) := by
  unfold execSmClear
  try dsimp only
  repeat' first
    | with_reducible apply OutTouches.ite
    | with_reducible refine OutTouches.next ?_
    | with_reducible apply Touches.ite
    | with_reducible refine writeParam_touches  (fun p hp => hW p (by unfold execSmClear_foot; repeat first | with_reducible exact hp | with_reducible exact List.mem_append_right _ hp | with_reducible apply List.mem_append_left)) ?_ (fun x  hx => ?_)
    | with_reducible refine State.seamClear_touches (fun p hp => hW p (by unfold execSmClear_foot; repeat first | with_reducible exact hp | with_reducible exact List.mem_append_right _ hp | with_reducible apply List.mem_append_left)) ?_
    | split
    | with_reducible refine forN_touches ?_ (fun x k hx => ?_)
    | with_reducible refine foldl_touches ?_ (fun x a hx => ?_)
    | with_reducible refine foldlSnd_touches ?_ (fun x a hx => ?_)
    | with_reducible assumption

/-- The parts State.seamPolicyWrite touches. -/
def State.seamPolicyWrite_foot : List Part := [.reg .SM_POLICY, .reg .SM_LATCHED, .fld .keepPending] ++ State.seamPolicy_foot

theorem State.seamPolicyWrite_touches {W : List Part} {σ τ : State} {surf : Nat} {v : Nat} (hW : ∀ p ∈ State.seamPolicyWrite_foot, p ∈ W)
    (hT : Touches W σ τ) : Touches W σ (State.seamPolicyWrite τ surf v) := by
  unfold State.seamPolicyWrite
  try dsimp only
  repeat' first
    | with_reducible apply Touches.ite
    | with_reducible refine State.putReg_touches (hW _ (by first | (simp [State.seamPolicyWrite_foot]; done) | (split <;> simp [State.seamPolicyWrite_foot] <;> done) | ((repeat' split) <;> simp [State.seamPolicyWrite_foot]))) (hW _ (by simp [State.seamPolicyWrite_foot])) ?_
    | with_reducible refine State.setReg_touches (hW _ (by first | (simp [State.seamPolicyWrite_foot]; done) | (split <;> simp [State.seamPolicyWrite_foot] <;> done) | ((repeat' split) <;> simp [State.seamPolicyWrite_foot])))  ?_
    | with_reducible refine cond_touches ?_ (fun x hx => ?_)
    | with_reducible refine State.seamPolicy_touches (fun p hp => hW p (by unfold State.seamPolicyWrite_foot; repeat first | with_reducible exact hp | with_reducible exact List.mem_append_right _ hp | with_reducible apply List.mem_append_left)) ?_
    | split
    | with_reducible refine forN_touches ?_ (fun x k hx => ?_)
    | with_reducible refine foldl_touches ?_ (fun x a hx => ?_)
    | with_reducible refine foldlSnd_touches ?_ (fun x a hx => ?_)
    | with_reducible assumption

/-- The parts execSmPolicyWrite touches. -/
def execSmPolicyWrite_foot : List Part := writeParam_foot ++ State.seamPolicyWrite_foot

theorem execSmPolicyWrite_touches {W : List Part} {σ τ : State} {acc : Accessor} {surf : Surface} {v : BitVec 8} (hW : ∀ p ∈ execSmPolicyWrite_foot, p ∈ W)
    (hT : Touches W σ τ) : OutTouches W σ (execSmPolicyWrite acc surf v τ) := by
  unfold execSmPolicyWrite
  try dsimp only
  repeat' first
    | with_reducible apply OutTouches.ite
    | with_reducible refine OutTouches.next ?_
    | with_reducible apply Touches.ite
    | with_reducible refine writeParam_touches  (fun p hp => hW p (by unfold execSmPolicyWrite_foot; repeat first | with_reducible exact hp | with_reducible exact List.mem_append_right _ hp | with_reducible apply List.mem_append_left)) ?_ (fun x  hx => ?_)
    | with_reducible refine State.seamPolicyWrite_touches (fun p hp => hW p (by unfold execSmPolicyWrite_foot; repeat first | with_reducible exact hp | with_reducible exact List.mem_append_right _ hp | with_reducible apply List.mem_append_left)) ?_
    | split
    | with_reducible refine forN_touches ?_ (fun x k hx => ?_)
    | with_reducible refine foldl_touches ?_ (fun x a hx => ?_)
    | with_reducible refine foldlSnd_touches ?_ (fun x a hx => ?_)
    | with_reducible assumption

/-- The parts State.resetLoops touches. -/
def State.resetLoops_foot : List Part := [.reg .iSM_RUN, .reg .iSM_KIND] ++ State.setLoop_foot

theorem State.resetLoops_touches {W : List Part} {σ τ : State} {surf : Nat} {old : Nat} {new : Nat} (hW : ∀ p ∈ State.resetLoops_foot, p ∈ W)
    (hT : Touches W σ τ) : Touches W σ (State.resetLoops τ surf old new) := by
  unfold State.resetLoops
  try dsimp only
  repeat' first
    | with_reducible apply Touches.ite
    | with_reducible refine State.setReg_touches (hW _ (by first | (simp [State.resetLoops_foot]; done) | (split <;> simp [State.resetLoops_foot] <;> done) | ((repeat' split) <;> simp [State.resetLoops_foot])))  ?_
    | with_reducible refine State.setLoop_touches (fun p hp => hW p (by unfold State.resetLoops_foot; repeat first | with_reducible exact hp | with_reducible exact List.mem_append_right _ hp | with_reducible apply List.mem_append_left)) ?_
    | split
    | with_reducible refine forN_touches ?_ (fun x k hx => ?_)
    | with_reducible refine foldl_touches ?_ (fun x a hx => ?_)
    | with_reducible refine foldlSnd_touches ?_ (fun x a hx => ?_)
    | with_reducible assumption

/-- The parts State.seamEnableWrite touches. -/
def State.seamEnableWrite_foot : List Part := [.reg .SM_ENABLE, .fld .keepPending] ++ State.seamPolicy_foot ++ State.resetLoops_foot

theorem State.seamEnableWrite_touches {W : List Part} {σ τ : State} {surf : Nat} {v : Nat} (hW : ∀ p ∈ State.seamEnableWrite_foot, p ∈ W)
    (hT : Touches W σ τ) : Touches W σ (State.seamEnableWrite τ surf v) := by
  unfold State.seamEnableWrite
  try dsimp only
  repeat' first
    | with_reducible apply Touches.ite
    | with_reducible refine State.seamPolicy_touches (fun p hp => hW p (by unfold State.seamEnableWrite_foot; repeat first | with_reducible exact hp | with_reducible exact List.mem_append_right _ hp | with_reducible apply List.mem_append_left)) ?_
    | with_reducible refine State.resetLoops_touches (fun p hp => hW p (by unfold State.seamEnableWrite_foot; repeat first | with_reducible exact hp | with_reducible exact List.mem_append_right _ hp | with_reducible apply List.mem_append_left)) ?_
    | with_reducible refine State.putReg_touches (hW _ (by first | (simp [State.seamEnableWrite_foot]; done) | (split <;> simp [State.seamEnableWrite_foot] <;> done) | ((repeat' split) <;> simp [State.seamEnableWrite_foot]))) (hW _ (by simp [State.seamEnableWrite_foot])) ?_
    | split
    | with_reducible refine forN_touches ?_ (fun x k hx => ?_)
    | with_reducible refine foldl_touches ?_ (fun x a hx => ?_)
    | with_reducible refine foldlSnd_touches ?_ (fun x a hx => ?_)
    | with_reducible assumption

/-- The parts execSmEnableWrite touches. -/
def execSmEnableWrite_foot : List Part := writeParam_foot ++ State.seamEnableWrite_foot

theorem execSmEnableWrite_touches {W : List Part} {σ τ : State} {acc : Accessor} {surf : Surface} {v : BitVec 8} (hW : ∀ p ∈ execSmEnableWrite_foot, p ∈ W)
    (hT : Touches W σ τ) : OutTouches W σ (execSmEnableWrite acc surf v τ) := by
  unfold execSmEnableWrite
  try dsimp only
  repeat' first
    | with_reducible apply OutTouches.ite
    | with_reducible refine OutTouches.next ?_
    | with_reducible apply Touches.ite
    | with_reducible refine writeParam_touches  (fun p hp => hW p (by unfold execSmEnableWrite_foot; repeat first | with_reducible exact hp | with_reducible exact List.mem_append_right _ hp | with_reducible apply List.mem_append_left)) ?_ (fun x  hx => ?_)
    | with_reducible refine State.seamEnableWrite_touches (fun p hp => hW p (by unfold execSmEnableWrite_foot; repeat first | with_reducible exact hp | with_reducible exact List.mem_append_right _ hp | with_reducible apply List.mem_append_left)) ?_
    | split
    | with_reducible refine forN_touches ?_ (fun x k hx => ?_)
    | with_reducible refine foldl_touches ?_ (fun x a hx => ?_)
    | with_reducible refine foldlSnd_touches ?_ (fun x a hx => ?_)
    | with_reducible assumption

end Sys2Proof.Machine
end

