-- ==== Sys2Proof/Laws/TouchesThermal.lean ====
section
/-! SUPPORT. What the functions of Machine/Thermal.lean touch. -/
namespace Sys2Proof.Machine
set_option linter.all false

/-- The parts State.measurePair touches. -/
def State.measurePair_foot : List Part := [.reg .iTS_GOOD, .reg .TS_VALID, .reg .TS_FAULTS, .reg .iTS_BAD, .reg .iTS_MEAS, .reg .TS_TEMP, .reg .TS_MAX]

theorem State.measurePair_touches {W : List Part} {σ τ : State} {n : Nat} {v10 : Nat} {v100 : Nat} (hW : ∀ p ∈ State.measurePair_foot, p ∈ W)
    (hT : Touches W σ τ) : Touches W σ (State.measurePair τ n v10 v100) := by
  unfold State.measurePair
  try dsimp only
  repeat' first
    | with_reducible apply Touches.ite
    | with_reducible refine cond_touches ?_ (fun x hx => ?_)
    | with_reducible refine State.setReg_touches (hW _ (by first | (simp [State.measurePair_foot]; done) | (split <;> simp [State.measurePair_foot] <;> done) | ((repeat' split) <;> simp [State.measurePair_foot])))  ?_
    | with_reducible refine State.bump_touches (hW _ (by first | (simp [State.measurePair_foot]; done) | (split <;> simp [State.measurePair_foot] <;> done) | ((repeat' split) <;> simp [State.measurePair_foot])))  ?_
    | with_reducible refine State.setRegInt_touches (hW _ (by first | (simp [State.measurePair_foot]; done) | (split <;> simp [State.measurePair_foot] <;> done) | ((repeat' split) <;> simp [State.measurePair_foot])))  ?_
    | split
    | with_reducible refine forN_touches ?_ (fun x k hx => ?_)
    | with_reducible refine foldl_touches ?_ (fun x a hx => ?_)
    | with_reducible refine foldlSnd_touches ?_ (fun x a hx => ?_)
    | with_reducible assumption

/-- The parts State.takeReading touches. -/
def State.takeReading_foot : List Part := [.reg .TS_VALID, .reg .TS_TEMP, .reg .TS_MAX]

theorem State.takeReading_touches {W : List Part} {σ τ : State} {n : Nat} {v : Nat} (hW : ∀ p ∈ State.takeReading_foot, p ∈ W)
    (hT : Touches W σ τ) : Touches W σ (State.takeReading τ n v) := by
  unfold State.takeReading
  try dsimp only
  repeat' first
    | with_reducible apply Touches.ite
    | with_reducible refine State.setReg_touches (hW _ (by first | (simp [State.takeReading_foot]; done) | (split <;> simp [State.takeReading_foot] <;> done) | ((repeat' split) <;> simp [State.takeReading_foot])))  ?_
    | split
    | with_reducible refine forN_touches ?_ (fun x k hx => ?_)
    | with_reducible refine foldl_touches ?_ (fun x a hx => ?_)
    | with_reducible refine foldlSnd_touches ?_ (fun x a hx => ?_)
    | with_reducible assumption

/-- The parts State.readSensors touches. -/
def State.readSensors_foot : List Part := [.reg .TH_JUNCTION] ++ State.takeReading_foot ++ State.measurePair_foot

theorem State.readSensors_touches {W : List Part} {σ τ : State} {die : List (BitVec 16)} {diodes : List (Nat × Nat)} (hW : ∀ p ∈ State.readSensors_foot, p ∈ W)
    (hT : Touches W σ τ) : Touches W σ (State.readSensors τ die diodes) := by
  unfold State.readSensors
  try dsimp only
  repeat' first
    | with_reducible apply Touches.ite
    | with_reducible refine State.takeReading_touches (fun p hp => hW p (by unfold State.readSensors_foot; repeat first | with_reducible exact hp | with_reducible exact List.mem_append_right _ hp | with_reducible apply List.mem_append_left)) ?_
    | with_reducible refine State.measurePair_touches (fun p hp => hW p (by unfold State.readSensors_foot; repeat first | with_reducible exact hp | with_reducible exact List.mem_append_right _ hp | with_reducible apply List.mem_append_left)) ?_
    | with_reducible refine State.setRegInt_touches (hW _ (by first | (simp [State.readSensors_foot]; done) | (split <;> simp [State.readSensors_foot] <;> done) | ((repeat' split) <;> simp [State.readSensors_foot])))  ?_
    | split
    | with_reducible refine forN_touches ?_ (fun x k hx => ?_)
    | with_reducible refine foldl_touches ?_ (fun x a hx => ?_)
    | with_reducible refine foldlSnd_touches ?_ (fun x a hx => ?_)
    | with_reducible assumption

/-- The parts State.recognise touches. -/
def State.recognise_foot : List Part := [.reg .iTHR_RUN, .reg .iTHR]

theorem State.recognise_touches {W : List Part} {σ τ : State} {c : Nat} {enter : Bool} {leave : Bool} (hW : ∀ p ∈ State.recognise_foot, p ∈ W)
    (hT : Touches W σ τ) : Touches W σ (State.recognise τ c enter leave) := by
  unfold State.recognise
  try dsimp only
  repeat' first
    | with_reducible apply Touches.ite
    | with_reducible refine State.setReg_touches (hW _ (by first | (simp [State.recognise_foot]; done) | (split <;> simp [State.recognise_foot] <;> done) | ((repeat' split) <;> simp [State.recognise_foot])))  ?_
    | with_reducible refine State.bump_touches (hW _ (by first | (simp [State.recognise_foot]; done) | (split <;> simp [State.recognise_foot] <;> done) | ((repeat' split) <;> simp [State.recognise_foot])))  ?_
    | split
    | with_reducible refine forN_touches ?_ (fun x k hx => ?_)
    | with_reducible refine foldl_touches ?_ (fun x a hx => ?_)
    | with_reducible refine foldlSnd_touches ?_ (fun x a hx => ?_)
    | with_reducible assumption

/-- The parts State.recogniseAbove touches. -/
def State.recogniseAbove_foot : List Part := State.recognise_foot

theorem State.recogniseAbove_touches {W : List Part} {σ τ : State} {c : Nat} {t : Int} {limit : Int} (hW : ∀ p ∈ State.recogniseAbove_foot, p ∈ W)
    (hT : Touches W σ τ) : Touches W σ (State.recogniseAbove τ c t limit) := by
  unfold State.recogniseAbove
  try dsimp only
  repeat' first
    | with_reducible apply Touches.ite
    | with_reducible refine State.recognise_touches (fun p hp => hW p (by unfold State.recogniseAbove_foot; repeat first | with_reducible exact hp | with_reducible exact List.mem_append_right _ hp | with_reducible apply List.mem_append_left)) ?_
    | split
    | with_reducible refine forN_touches ?_ (fun x k hx => ?_)
    | with_reducible refine foldl_touches ?_ (fun x a hx => ?_)
    | with_reducible refine foldlSnd_touches ?_ (fun x a hx => ?_)
    | with_reducible assumption

/-- The parts State.recogniseBelow touches. -/
def State.recogniseBelow_foot : List Part := State.recognise_foot

theorem State.recogniseBelow_touches {W : List Part} {σ τ : State} {c : Nat} {t : Int} {limit : Int} (hW : ∀ p ∈ State.recogniseBelow_foot, p ∈ W)
    (hT : Touches W σ τ) : Touches W σ (State.recogniseBelow τ c t limit) := by
  unfold State.recogniseBelow
  try dsimp only
  repeat' first
    | with_reducible apply Touches.ite
    | with_reducible refine State.recognise_touches (fun p hp => hW p (by unfold State.recogniseBelow_foot; repeat first | with_reducible exact hp | with_reducible exact List.mem_append_right _ hp | with_reducible apply List.mem_append_left)) ?_
    | split
    | with_reducible refine forN_touches ?_ (fun x k hx => ?_)
    | with_reducible refine foldl_touches ?_ (fun x a hx => ?_)
    | with_reducible refine foldlSnd_touches ?_ (fun x a hx => ?_)
    | with_reducible assumption

/-- The parts State.warnEntered touches. -/
def State.warnEntered_foot : List Part := [.reg .iTH_TIMER, .reg .TH_STATE] ++ State.raise_foot

theorem State.warnEntered_touches {W : List Part} {σ τ : State}  (hW : ∀ p ∈ State.warnEntered_foot, p ∈ W)
    (hT : Touches W σ τ) : Touches W σ (State.warnEntered τ) := by
  unfold State.warnEntered
  try dsimp only
  repeat' first
    | with_reducible apply Touches.ite
    | with_reducible refine State.raise_touches (fun p hp => hW p (by unfold State.warnEntered_foot; repeat first | with_reducible exact hp | with_reducible exact List.mem_append_right _ hp | with_reducible apply List.mem_append_left)) ?_
    | with_reducible refine State.setReg_touches (hW _ (by first | (simp [State.warnEntered_foot]; done) | (split <;> simp [State.warnEntered_foot] <;> done) | ((repeat' split) <;> simp [State.warnEntered_foot])))  ?_
    | split
    | with_reducible refine forN_touches ?_ (fun x k hx => ?_)
    | with_reducible refine foldl_touches ?_ (fun x a hx => ?_)
    | with_reducible refine foldlSnd_touches ?_ (fun x a hx => ?_)
    | with_reducible assumption

/-- The parts State.warnLeft touches. -/
def State.warnLeft_foot : List Part := [.reg .TH_STATE, .reg .iTH_TIMER]

theorem State.warnLeft_touches {W : List Part} {σ τ : State}  (hW : ∀ p ∈ State.warnLeft_foot, p ∈ W)
    (hT : Touches W σ τ) : Touches W σ (State.warnLeft τ) := by
  unfold State.warnLeft
  try dsimp only
  repeat' first
    | with_reducible apply Touches.ite
    | with_reducible refine State.setReg_touches (hW _ (by first | (simp [State.warnLeft_foot]; done) | (split <;> simp [State.warnLeft_foot] <;> done) | ((repeat' split) <;> simp [State.warnLeft_foot])))  ?_
    | split
    | with_reducible refine forN_touches ?_ (fun x k hx => ?_)
    | with_reducible refine foldl_touches ?_ (fun x a hx => ?_)
    | with_reducible refine foldlSnd_touches ?_ (fun x a hx => ?_)
    | with_reducible assumption

/-- The parts State.stepWarning touches. -/
def State.stepWarning_foot : List Part := State.recognise_foot ++ State.warnEntered_foot ++ State.warnLeft_foot

theorem State.stepWarning_touches {W : List Part} {σ τ : State}  (hW : ∀ p ∈ State.stepWarning_foot, p ∈ W)
    (hT : Touches W σ τ) : Touches W σ (State.stepWarning τ) := by
  unfold State.stepWarning
  try dsimp only
  repeat' first
    | with_reducible apply Touches.ite
    | with_reducible refine State.recognise_touches (fun p hp => hW p (by unfold State.stepWarning_foot; repeat first | with_reducible exact hp | with_reducible exact List.mem_append_right _ hp | with_reducible apply List.mem_append_left)) ?_
    | with_reducible refine State.warnEntered_touches (fun p hp => hW p (by unfold State.stepWarning_foot; repeat first | with_reducible exact hp | with_reducible exact List.mem_append_right _ hp | with_reducible apply List.mem_append_left)) ?_
    | with_reducible refine State.warnLeft_touches (fun p hp => hW p (by unfold State.stepWarning_foot; repeat first | with_reducible exact hp | with_reducible exact List.mem_append_right _ hp | with_reducible apply List.mem_append_left)) ?_
    | split
    | with_reducible refine forN_touches ?_ (fun x k hx => ?_)
    | with_reducible refine foldl_touches ?_ (fun x a hx => ?_)
    | with_reducible refine foldlSnd_touches ?_ (fun x a hx => ?_)
    | with_reducible assumption

/-- The parts State.stepPanelWarn touches. -/
def State.stepPanelWarn_foot : List Part := State.recognise_foot ++ State.raise_foot

theorem State.stepPanelWarn_touches {W : List Part} {σ τ : State} {surf : Nat} (hW : ∀ p ∈ State.stepPanelWarn_foot, p ∈ W)
    (hT : Touches W σ τ) : Touches W σ (State.stepPanelWarn τ surf) := by
  unfold State.stepPanelWarn
  try dsimp only
  repeat' first
    | with_reducible apply Touches.ite
    | with_reducible refine State.recognise_touches (fun p hp => hW p (by unfold State.stepPanelWarn_foot; repeat first | with_reducible exact hp | with_reducible exact List.mem_append_right _ hp | with_reducible apply List.mem_append_left)) ?_
    | with_reducible refine State.raise_touches (fun p hp => hW p (by unfold State.stepPanelWarn_foot; repeat first | with_reducible exact hp | with_reducible exact List.mem_append_right _ hp | with_reducible apply List.mem_append_left)) ?_
    | split
    | with_reducible refine forN_touches ?_ (fun x k hx => ?_)
    | with_reducible refine foldl_touches ?_ (fun x a hx => ?_)
    | with_reducible refine foldlSnd_touches ?_ (fun x a hx => ?_)
    | with_reducible assumption

/-- The parts State.stepKeeperGate touches. -/
def State.stepKeeperGate_foot : List Part := [.reg .TH_KEEPER_GATE, .reg .iTHR] ++ State.recogniseBelow_foot ++ State.recogniseAbove_foot

theorem State.stepKeeperGate_touches {W : List Part} {σ τ : State}  (hW : ∀ p ∈ State.stepKeeperGate_foot, p ∈ W)
    (hT : Touches W σ τ) : Touches W σ (State.stepKeeperGate τ) := by
  unfold State.stepKeeperGate
  try dsimp only
  repeat' first
    | with_reducible apply Touches.ite
    | with_reducible refine State.recogniseBelow_touches (fun p hp => hW p (by unfold State.stepKeeperGate_foot; repeat first | with_reducible exact hp | with_reducible exact List.mem_append_right _ hp | with_reducible apply List.mem_append_left)) ?_
    | with_reducible refine State.recogniseAbove_touches (fun p hp => hW p (by unfold State.stepKeeperGate_foot; repeat first | with_reducible exact hp | with_reducible exact List.mem_append_right _ hp | with_reducible apply List.mem_append_left)) ?_
    | with_reducible refine State.setReg_touches (hW _ (by first | (simp [State.stepKeeperGate_foot]; done) | (split <;> simp [State.stepKeeperGate_foot] <;> done) | ((repeat' split) <;> simp [State.stepKeeperGate_foot])))  ?_
    | split
    | with_reducible refine forN_touches ?_ (fun x k hx => ?_)
    | with_reducible refine foldl_touches ?_ (fun x a hx => ?_)
    | with_reducible refine foldlSnd_touches ?_ (fun x a hx => ?_)
    | with_reducible assumption

/-- The parts State.stepGlassGate touches. -/
def State.stepGlassGate_foot : List Part := [.reg .TH_GLASS_GATE, .reg .iTHR_RUN, .reg .iTHR] ++ State.recogniseBelow_foot ++ State.recogniseAbove_foot

theorem State.stepGlassGate_touches {W : List Part} {σ τ : State}  (hW : ∀ p ∈ State.stepGlassGate_foot, p ∈ W)
    (hT : Touches W σ τ) : Touches W σ (State.stepGlassGate τ) := by
  unfold State.stepGlassGate
  try dsimp only
  repeat' first
    | with_reducible apply Touches.ite
    | with_reducible refine State.setReg_touches (hW _ (by first | (simp [State.stepGlassGate_foot]; done) | (split <;> simp [State.stepGlassGate_foot] <;> done) | ((repeat' split) <;> simp [State.stepGlassGate_foot])))  ?_
    | with_reducible refine State.recogniseBelow_touches (fun p hp => hW p (by unfold State.stepGlassGate_foot; repeat first | with_reducible exact hp | with_reducible exact List.mem_append_right _ hp | with_reducible apply List.mem_append_left)) ?_
    | with_reducible refine State.recogniseAbove_touches (fun p hp => hW p (by unfold State.stepGlassGate_foot; repeat first | with_reducible exact hp | with_reducible exact List.mem_append_right _ hp | with_reducible apply List.mem_append_left)) ?_
    | split
    | with_reducible refine forN_touches ?_ (fun x k hx => ?_)
    | with_reducible refine foldl_touches ?_ (fun x a hx => ?_)
    | with_reducible refine foldlSnd_touches ?_ (fun x a hx => ?_)
    | with_reducible assumption

/-- The parts State.stepComparators touches. -/
def State.stepComparators_foot : List Part := [.reg .iCMP_RUN, .reg .TS_TEMP, .reg .iCMP_PEAK, .reg .iCMP_TRIP, .reg .iCMP_COOL]

theorem State.stepComparators_touches {W : List Part} {σ τ : State}  (hW : ∀ p ∈ State.stepComparators_foot, p ∈ W)
    (hT : Touches W σ τ) : Touches W σ (State.stepComparators τ) := by
  unfold State.stepComparators
  try dsimp only
  repeat' first
    | with_reducible apply Touches.ite
    | with_reducible refine State.setReg_touches (hW _ (by first | (simp [State.stepComparators_foot]; done) | (split <;> simp [State.stepComparators_foot] <;> done) | ((repeat' split) <;> simp [State.stepComparators_foot])))  ?_
    | with_reducible refine State.bump_touches (hW _ (by first | (simp [State.stepComparators_foot]; done) | (split <;> simp [State.stepComparators_foot] <;> done) | ((repeat' split) <;> simp [State.stepComparators_foot])))  ?_
    | split
    | with_reducible refine forN_touches ?_ (fun x k hx => ?_)
    | with_reducible refine foldl_touches ?_ (fun x a hx => ?_)
    | with_reducible refine foldlSnd_touches ?_ (fun x a hx => ?_)
    | with_reducible assumption

/-- The parts execThermalSample touches. -/
def execThermalSample_foot : List Part := [.reg .PW_TOTAL, .reg .PW_MEASURED, .reg .iMIN_MAX] ++ State.readSensors_foot ++ State.stepComparators_foot ++ State.stepGlassGate_foot ++ State.stepKeeperGate_foot ++ State.stepPanelWarn_foot ++ State.stepWarning_foot

theorem execThermalSample_touches {W : List Part} {σ τ : State} {die : List (BitVec 16)} {diodes : List (Nat × Nat)} {rails : List (BitVec 16)} (hW : ∀ p ∈ execThermalSample_foot, p ∈ W)
    (hT : Touches W σ τ) : OutTouches W σ (execThermalSample die diodes rails τ) := by
  unfold execThermalSample
  try dsimp only
  repeat' first
    | with_reducible apply OutTouches.ite
    | with_reducible refine OutTouches.next ?_
    | with_reducible apply Touches.ite
    | with_reducible refine State.setReg_touches (hW _ (by first | (simp [execThermalSample_foot]; done) | (split <;> simp [execThermalSample_foot] <;> done) | ((repeat' split) <;> simp [execThermalSample_foot])))  ?_
    | with_reducible refine State.readSensors_touches (fun p hp => hW p (by unfold execThermalSample_foot; repeat first | with_reducible exact hp | with_reducible exact List.mem_append_right _ hp | with_reducible apply List.mem_append_left)) ?_
    | with_reducible refine State.stepComparators_touches (fun p hp => hW p (by unfold execThermalSample_foot; repeat first | with_reducible exact hp | with_reducible exact List.mem_append_right _ hp | with_reducible apply List.mem_append_left)) ?_
    | with_reducible refine State.stepGlassGate_touches (fun p hp => hW p (by unfold execThermalSample_foot; repeat first | with_reducible exact hp | with_reducible exact List.mem_append_right _ hp | with_reducible apply List.mem_append_left)) ?_
    | with_reducible refine State.stepKeeperGate_touches (fun p hp => hW p (by unfold execThermalSample_foot; repeat first | with_reducible exact hp | with_reducible exact List.mem_append_right _ hp | with_reducible apply List.mem_append_left)) ?_
    | with_reducible refine State.stepPanelWarn_touches (fun p hp => hW p (by unfold execThermalSample_foot; repeat first | with_reducible exact hp | with_reducible exact List.mem_append_right _ hp | with_reducible apply List.mem_append_left)) ?_
    | with_reducible refine State.stepWarning_touches (fun p hp => hW p (by unfold execThermalSample_foot; repeat first | with_reducible exact hp | with_reducible exact List.mem_append_right _ hp | with_reducible apply List.mem_append_left)) ?_
    | split
    | with_reducible refine forN_touches ?_ (fun x k hx => ?_)
    | with_reducible refine foldl_touches ?_ (fun x a hx => ?_)
    | with_reducible refine foldlSnd_touches ?_ (fun x a hx => ?_)
    | with_reducible assumption

/-- The parts execThermalGraceExpire touches. -/
def execThermalGraceExpire_foot : List Part := [.reg .iTH_TIMER, .reg .TH_STAGE_DUE, .reg .TH_STATE]

theorem execThermalGraceExpire_touches {W : List Part} {σ τ : State}  (hW : ∀ p ∈ execThermalGraceExpire_foot, p ∈ W)
    (hT : Touches W σ τ) : OutTouches W σ (execThermalGraceExpire τ) := by
  unfold execThermalGraceExpire
  try dsimp only
  repeat' first
    | with_reducible apply OutTouches.ite
    | with_reducible refine OutTouches.next ?_
    | with_reducible apply Touches.ite
    | with_reducible refine State.setReg_touches (hW _ (by first | (simp [execThermalGraceExpire_foot]; done) | (split <;> simp [execThermalGraceExpire_foot] <;> done) | ((repeat' split) <;> simp [execThermalGraceExpire_foot])))  ?_
    | split
    | with_reducible refine forN_touches ?_ (fun x k hx => ?_)
    | with_reducible refine foldl_touches ?_ (fun x a hx => ?_)
    | with_reducible refine foldlSnd_touches ?_ (fun x a hx => ?_)
    | with_reducible assumption

/-- The parts State.stageMaxWrite touches. -/
def State.stageMaxWrite_foot : List Part := [.reg .TH_STAGE_MAX, .reg .TH_STAGE_DUE, .reg .TH_STATE, .fld .keepPending]

theorem State.stageMaxWrite_touches {W : List Part} {σ τ : State} {v : Nat} (hW : ∀ p ∈ State.stageMaxWrite_foot, p ∈ W)
    (hT : Touches W σ τ) : Touches W σ (State.stageMaxWrite τ v) := by
  unfold State.stageMaxWrite
  try dsimp only
  repeat' first
    | with_reducible apply Touches.ite
    | with_reducible refine State.putReg_touches (hW _ (by first | (simp [State.stageMaxWrite_foot]; done) | (split <;> simp [State.stageMaxWrite_foot] <;> done) | ((repeat' split) <;> simp [State.stageMaxWrite_foot]))) (hW _ (by simp [State.stageMaxWrite_foot])) ?_
    | with_reducible refine State.setReg_touches (hW _ (by first | (simp [State.stageMaxWrite_foot]; done) | (split <;> simp [State.stageMaxWrite_foot] <;> done) | ((repeat' split) <;> simp [State.stageMaxWrite_foot])))  ?_
    | split
    | with_reducible refine forN_touches ?_ (fun x k hx => ?_)
    | with_reducible refine foldl_touches ?_ (fun x a hx => ?_)
    | with_reducible refine foldlSnd_touches ?_ (fun x a hx => ?_)
    | with_reducible assumption

/-- The parts execThStageMaxWrite touches. -/
def execThStageMaxWrite_foot : List Part := writeParam_foot ++ State.stageMaxWrite_foot

theorem execThStageMaxWrite_touches {W : List Part} {σ τ : State} {acc : Accessor} {v : BitVec 8} (hW : ∀ p ∈ execThStageMaxWrite_foot, p ∈ W)
    (hT : Touches W σ τ) : OutTouches W σ (execThStageMaxWrite acc v τ) := by
  unfold execThStageMaxWrite
  try dsimp only
  repeat' first
    | with_reducible apply OutTouches.ite
    | with_reducible refine OutTouches.next ?_
    | with_reducible apply Touches.ite
    | with_reducible refine writeParam_touches  (fun p hp => hW p (by unfold execThStageMaxWrite_foot; repeat first | with_reducible exact hp | with_reducible exact List.mem_append_right _ hp | with_reducible apply List.mem_append_left)) ?_ (fun x  hx => ?_)
    | with_reducible refine State.stageMaxWrite_touches (fun p hp => hW p (by unfold execThStageMaxWrite_foot; repeat first | with_reducible exact hp | with_reducible exact List.mem_append_right _ hp | with_reducible apply List.mem_append_left)) ?_
    | split
    | with_reducible refine forN_touches ?_ (fun x k hx => ?_)
    | with_reducible refine foldl_touches ?_ (fun x a hx => ?_)
    | with_reducible refine foldlSnd_touches ?_ (fun x a hx => ?_)
    | with_reducible assumption

/-- The parts State.shutWrite touches. -/
def State.shutWrite_foot : List Part := [.reg .iCMP_RESTART, .reg .TH_RESTART, .reg .iCMP_SHUT, .reg .TH_SHUT] ++ State.putTri_foot

theorem State.shutWrite_touches {W : List Part} {σ τ : State} {restart : Bool} {v : Nat} (hW : ∀ p ∈ State.shutWrite_foot, p ∈ W)
    (hT : Touches W σ τ) : Touches W σ (State.shutWrite τ restart v) := by
  unfold State.shutWrite
  try dsimp only
  repeat' first
    | with_reducible apply Touches.ite
    | with_reducible refine State.setReg_touches (hW _ (by first | (simp [State.shutWrite_foot]; done) | (split <;> simp [State.shutWrite_foot] <;> done) | ((repeat' split) <;> simp [State.shutWrite_foot])))  ?_
    | with_reducible refine State.putTri_touches (hW _ (by first | (simp [State.shutWrite_foot]; done) | (split <;> simp [State.shutWrite_foot] <;> done) | ((repeat' split) <;> simp [State.shutWrite_foot]))) (fun p hp => hW p (by unfold State.shutWrite_foot; repeat first | with_reducible exact hp | with_reducible exact List.mem_append_right _ hp | with_reducible apply List.mem_append_left)) ?_
    | split
    | with_reducible refine forN_touches ?_ (fun x k hx => ?_)
    | with_reducible refine foldl_touches ?_ (fun x a hx => ?_)
    | with_reducible refine foldlSnd_touches ?_ (fun x a hx => ?_)
    | with_reducible assumption

/-- The parts execThShutWrite touches. -/
def execThShutWrite_foot : List Part := writeParam_foot ++ State.shutWrite_foot

theorem execThShutWrite_touches {W : List Part} {σ τ : State} {acc : Accessor} {restart : Bool} {v : BitVec 16} (hW : ∀ p ∈ execThShutWrite_foot, p ∈ W)
    (hT : Touches W σ τ) : OutTouches W σ (execThShutWrite acc restart v τ) := by
  unfold execThShutWrite
  try dsimp only
  repeat' first
    | with_reducible apply OutTouches.ite
    | with_reducible refine OutTouches.next ?_
    | with_reducible apply Touches.ite
    | with_reducible refine writeParam_touches  (fun p hp => hW p (by unfold execThShutWrite_foot; repeat first | with_reducible exact hp | with_reducible exact List.mem_append_right _ hp | with_reducible apply List.mem_append_left)) ?_ (fun x  hx => ?_)
    | with_reducible refine State.shutWrite_touches (fun p hp => hW p (by unfold execThShutWrite_foot; repeat first | with_reducible exact hp | with_reducible exact List.mem_append_right _ hp | with_reducible apply List.mem_append_left)) ?_
    | split
    | with_reducible refine forN_touches ?_ (fun x k hx => ?_)
    | with_reducible refine foldl_touches ?_ (fun x a hx => ?_)
    | with_reducible refine foldlSnd_touches ?_ (fun x a hx => ?_)
    | with_reducible assumption

/-- The parts execHardwareShutdown touches. -/
def execHardwareShutdown_foot : List Part := [.reg .iPHASE, .reg .iCMP_COOL, .reg .iSHUT_OWED, .reg .iG_RUN, .reg .CK_THROTTLE_REQ, .fld .sent] ++ State.setLane_foot ++ State.haltLane_foot ++ State.toBypass_foot

theorem execHardwareShutdown_touches {W : List Part} {σ τ : State}  (hW : ∀ p ∈ execHardwareShutdown_foot, p ∈ W)
    (hT : Touches W σ τ) : OutTouches W σ (execHardwareShutdown τ) := by
  unfold execHardwareShutdown
  try dsimp only
  repeat' first
    | with_reducible apply OutTouches.ite
    | with_reducible refine OutTouches.next ?_
    | with_reducible apply Touches.ite
    | with_reducible refine State.send_touches (hW _ (by simp [execHardwareShutdown_foot])) ?_
    | with_reducible refine State.setLane_touches (fun p hp => hW p (by unfold execHardwareShutdown_foot; repeat first | with_reducible exact hp | with_reducible exact List.mem_append_right _ hp | with_reducible apply List.mem_append_left)) ?_
    | with_reducible refine State.haltLane_touches (fun p hp => hW p (by unfold execHardwareShutdown_foot; repeat first | with_reducible exact hp | with_reducible exact List.mem_append_right _ hp | with_reducible apply List.mem_append_left)) ?_
    | with_reducible refine State.toBypass_touches (fun p hp => hW p (by unfold execHardwareShutdown_foot; repeat first | with_reducible exact hp | with_reducible exact List.mem_append_right _ hp | with_reducible apply List.mem_append_left)) ?_
    | with_reducible refine State.setReg_touches (hW _ (by first | (simp [execHardwareShutdown_foot]; done) | (split <;> simp [execHardwareShutdown_foot] <;> done) | ((repeat' split) <;> simp [execHardwareShutdown_foot])))  ?_
    | split
    | with_reducible refine forN_touches ?_ (fun x k hx => ?_)
    | with_reducible refine foldl_touches ?_ (fun x a hx => ?_)
    | with_reducible refine foldlSnd_touches ?_ (fun x a hx => ?_)
    | with_reducible assumption

end Sys2Proof.Machine
end

