-- ==== Sys2Proof/Laws/TouchesTiles.lean ====
section
/-! SUPPORT. What the functions of Machine/Tiles.lean touch. -/
namespace Sys2Proof.Machine
set_option linter.all false

/-- The parts execBandDispatch touches. -/
def execBandDispatch_foot : List Part := [.reg .iS_DISPATCHED, .fld .tileQueue]

theorem execBandDispatch_touches {W : List Part} {σ τ : State} {surf : Surface} (hW : ∀ p ∈ execBandDispatch_foot, p ∈ W)
    (hT : Touches W σ τ) : OutTouches W σ (execBandDispatch surf τ) := by
  unfold execBandDispatch
  try dsimp only
  repeat' first
    | with_reducible apply OutTouches.ite
    | with_reducible refine OutTouches.next ?_
    | with_reducible apply Touches.ite
    | with_reducible refine State.setReg_touches (hW _ (by first | (simp [execBandDispatch_foot]; done) | (split <;> simp [execBandDispatch_foot] <;> done) | ((repeat' split) <;> simp [execBandDispatch_foot])))  ?_
    | split
    | with_reducible refine forN_touches ?_ (fun x k hx => ?_)
    | with_reducible refine foldl_touches ?_ (fun x a hx => ?_)
    | with_reducible refine foldlSnd_touches ?_ (fun x a hx => ?_)
    | with_reducible assumption
    | with_reducible refine touches_mk (fun f => by cases f <;> first | exact .inr (by with_reducible rfl) | exact .inl (hW _ (by simp [execBandDispatch_foot]))) ?_

/-- The parts execTileAssign touches. -/
def execTileAssign_foot : List Part := [.fld .requeued, .fld .tileQueue, .fld .held] ++ State.setFrame_foot

theorem execTileAssign_touches {W : List Part} {σ τ : State}  (hW : ∀ p ∈ execTileAssign_foot, p ∈ W)
    (hT : Touches W σ τ) : OutTouches W σ (execTileAssign τ) := by
  unfold execTileAssign
  try dsimp only
  repeat' first
    | with_reducible apply OutTouches.ite
    | with_reducible refine OutTouches.next ?_
    | with_reducible apply Touches.ite
    | with_reducible refine State.setFrame_touches (fun p hp => hW p (by unfold execTileAssign_foot; repeat first | with_reducible exact hp | with_reducible exact List.mem_append_right _ hp | with_reducible apply List.mem_append_left)) ?_
    | split
    | with_reducible refine forN_touches ?_ (fun x k hx => ?_)
    | with_reducible refine foldl_touches ?_ (fun x a hx => ?_)
    | with_reducible refine foldlSnd_touches ?_ (fun x a hx => ?_)
    | with_reducible assumption
    | with_reducible refine touches_mk (fun f => by cases f <;> first | exact .inr (by with_reducible rfl) | exact .inl (hW _ (by simp [execTileAssign_foot]))) ?_

/-- The parts State.countCode touches. -/
def State.countCode_foot : List Part := [.reg .HK_CD_BY_CODE]

theorem State.countCode_touches {W : List Part} {σ τ : State} {k : Nat} (hW : ∀ p ∈ State.countCode_foot, p ∈ W)
    (hT : Touches W σ τ) : Touches W σ (State.countCode τ k) := by
  unfold State.countCode
  try dsimp only
  repeat' first
    | with_reducible apply Touches.ite
    | with_reducible refine State.setReg_touches (hW _ (by first | (simp [State.countCode_foot]; done) | (split <;> simp [State.countCode_foot] <;> done) | ((repeat' split) <;> simp [State.countCode_foot])))  ?_
    | split
    | with_reducible refine forN_touches ?_ (fun x k hx => ?_)
    | with_reducible refine foldl_touches ?_ (fun x a hx => ?_)
    | with_reducible refine foldlSnd_touches ?_ (fun x a hx => ?_)
    | with_reducible assumption

/-- The parts State.rejectTile touches. -/
def State.rejectTile_foot : List Part := [.reg .CD_LAST_TILE, .reg .CD_LAST_BUFFER, .reg .CD_LAST_CODE, .reg .HK_CD_REJECTED, .reg .CD_REJECTED, .fld .rejected] ++ State.countCode_foot ++ State.raise_foot

theorem State.rejectTile_touches {W : List Part} {σ τ : State} {surf : Nat} {c : Nat} {n : Nat} {i : Nat} {code : Nat} (hW : ∀ p ∈ State.rejectTile_foot, p ∈ W)
    (hT : Touches W σ τ) : Touches W σ (State.rejectTile τ surf c n i code) := by
  unfold State.rejectTile
  try dsimp only
  repeat' first
    | with_reducible apply Touches.ite
    | with_reducible refine State.setReg_touches (hW _ (by first | (simp [State.rejectTile_foot]; done) | (split <;> simp [State.rejectTile_foot] <;> done) | ((repeat' split) <;> simp [State.rejectTile_foot])))  ?_
    | with_reducible refine State.countCode_touches (fun p hp => hW p (by unfold State.rejectTile_foot; repeat first | with_reducible exact hp | with_reducible exact List.mem_append_right _ hp | with_reducible apply List.mem_append_left)) ?_
    | with_reducible refine State.bump_touches (hW _ (by first | (simp [State.rejectTile_foot]; done) | (split <;> simp [State.rejectTile_foot] <;> done) | ((repeat' split) <;> simp [State.rejectTile_foot])))  ?_
    | with_reducible refine State.raise_touches (fun p hp => hW p (by unfold State.rejectTile_foot; repeat first | with_reducible exact hp | with_reducible exact List.mem_append_right _ hp | with_reducible apply List.mem_append_left)) ?_
    | split
    | with_reducible refine forN_touches ?_ (fun x k hx => ?_)
    | with_reducible refine foldl_touches ?_ (fun x a hx => ?_)
    | with_reducible refine foldlSnd_touches ?_ (fun x a hx => ?_)
    | with_reducible assumption
    | with_reducible refine touches_mk (fun f => by cases f <;> first | exact .inr (by with_reducible rfl) | exact .inl (hW _ (by simp [State.rejectTile_foot]))) ?_

/-- The parts State.fetchRanges touches. -/
def State.fetchRanges_foot : List Part := State.fetch_foot

theorem State.fetchRanges_touches {W : List Part} {σ τ : State} {m : Master} {l : List (Nat × Nat)}
    (hW : ∀ p ∈ State.fetchRanges_foot, p ∈ W) (hT : Touches W σ τ) : Touches W σ (τ.fetchRanges m l).2 := by
  induction l generalizing τ with
  | nil => exact hT
  | cons e l ih =>
    have h1 : Touches W σ (τ.fetch m .plane e.1 e.2).2 :=
      State.fetch_touches hW hT
    unfold State.fetchRanges
    dsimp only
    split
    · exact h1
    · split
      · exact ih h1
      · exact h1

/-- The parts State.decodeFill touches. -/
def State.decodeFill_foot : List Part := [.reg .HK_CD_TILES, .reg .CD_REF_TILES, .reg .CD_TILES] ++ State.rejectTile_foot

theorem State.decodeFill_touches {W : List Part} {σ τ : State} {surf : Nat} {c : Nat} {n : Nat} {i : Nat} (hW : ∀ p ∈ State.decodeFill_foot, p ∈ W)
    (hT : Touches W σ τ) : Touches W σ (State.decodeFill τ surf c n i) := by
  unfold State.decodeFill
  try dsimp only
  repeat' first
    | with_reducible apply Touches.ite
    | with_reducible refine State.rejectTile_touches (fun p hp => hW p (by unfold State.decodeFill_foot; repeat first | with_reducible exact hp | with_reducible exact List.mem_append_right _ hp | with_reducible apply List.mem_append_left)) ?_
    | with_reducible refine State.bumpBy_touches (hW _ (by first | (simp [State.decodeFill_foot]; done) | (split <;> simp [State.decodeFill_foot] <;> done) | ((repeat' split) <;> simp [State.decodeFill_foot])))  ?_
    | split
    | with_reducible refine forN_touches ?_ (fun x k hx => ?_)
    | with_reducible refine foldl_touches ?_ (fun x a hx => ?_)
    | with_reducible refine foldlSnd_touches ?_ (fun x a hx => ?_)
    | with_reducible assumption

/-- The parts State.cacheFill touches. -/
def State.cacheFill_foot : List Part := State.fetchRanges_foot ++ State.countCode_foot ++ State.decodeFill_foot

theorem State.cacheFill_touches {W : List Part} {σ τ : State} {t : Tile} {c : Fin 16} {x : Fill} (hW : ∀ p ∈ State.cacheFill_foot, p ∈ W)
    (hT : Touches W σ τ) : Touches W σ (State.cacheFill τ t c x) := by
  unfold State.cacheFill
  try dsimp only
  repeat' first
    | with_reducible apply Touches.ite
    | with_reducible refine Touches.ofPair (by assumption) (State.fetchRanges_touches (fun p hp => hW p (by unfold State.cacheFill_foot; repeat first | with_reducible exact hp | with_reducible exact List.mem_append_right _ hp | with_reducible apply List.mem_append_left)) ?_)
    | with_reducible refine State.fetchRanges_touches (fun p hp => hW p (by unfold State.cacheFill_foot; repeat first | with_reducible exact hp | with_reducible exact List.mem_append_right _ hp | with_reducible apply List.mem_append_left)) ?_
    | with_reducible refine State.countCode_touches (fun p hp => hW p (by unfold State.cacheFill_foot; repeat first | with_reducible exact hp | with_reducible exact List.mem_append_right _ hp | with_reducible apply List.mem_append_left)) ?_
    | with_reducible refine State.decodeFill_touches (fun p hp => hW p (by unfold State.cacheFill_foot; repeat first | with_reducible exact hp | with_reducible exact List.mem_append_right _ hp | with_reducible apply List.mem_append_left)) ?_
    | split
    | with_reducible refine forN_touches ?_ (fun x k hx => ?_)
    | with_reducible refine foldl_touches ?_ (fun x a hx => ?_)
    | with_reducible refine foldlSnd_touches ?_ (fun x a hx => ?_)
    | with_reducible assumption

/-- The parts State.finishTile touches. -/
def State.finishTile_foot : List Part := [.fld .ring] ++ State.setFrame_foot

theorem State.finishTile_touches {W : List Part} {σ τ : State} {t : Tile} {ls : List (List Ray)} {bad : Nat} (hW : ∀ p ∈ State.finishTile_foot, p ∈ W)
    (hT : Touches W σ τ) : Touches W σ (State.finishTile τ t ls bad) := by
  unfold State.finishTile
  try dsimp only
  repeat' first
    | with_reducible apply Touches.ite
    | with_reducible refine State.setFrame_touches (fun p hp => hW p (by unfold State.finishTile_foot; repeat first | with_reducible exact hp | with_reducible exact List.mem_append_right _ hp | with_reducible apply List.mem_append_left)) ?_
    | split
    | with_reducible refine forN_touches ?_ (fun x k hx => ?_)
    | with_reducible refine foldl_touches ?_ (fun x a hx => ?_)
    | with_reducible refine foldlSnd_touches ?_ (fun x a hx => ?_)
    | with_reducible assumption
    | with_reducible refine touches_mk (fun f => by cases f <;> first | exact .inr (by with_reducible rfl) | exact .inl (hW _ (by simp [State.finishTile_foot]))) ?_

/-- The parts State.completeTile touches. -/
def State.completeTile_foot : List Part := [.reg .CL_TILES, .fld .held] ++ State.cacheFill_foot ++ State.capacityLost_foot ++ State.abandonHeld_foot ++ State.finishTile_foot

theorem State.completeTile_touches {W : List Part} {σ τ : State} {c : Fin 16} {t : Tile} {fills : List Fill} {ls : List (List Ray)} {bad : Nat} (hW : ∀ p ∈ State.completeTile_foot, p ∈ W)
    (hT : Touches W σ τ) : Touches W σ (State.completeTile τ c t fills ls bad) := by
  unfold State.completeTile
  try dsimp only
  repeat' first
    | with_reducible apply Touches.ite
    | with_reducible refine State.cacheFill_touches (fun p hp => hW p (by unfold State.completeTile_foot; repeat first | with_reducible exact hp | with_reducible exact List.mem_append_right _ hp | with_reducible apply List.mem_append_left)) ?_
    | with_reducible refine State.capacityLost_touches (fun p hp => hW p (by unfold State.completeTile_foot; repeat first | with_reducible exact hp | with_reducible exact List.mem_append_right _ hp | with_reducible apply List.mem_append_left)) ?_
    | with_reducible refine State.abandonHeld_touches (fun p hp => hW p (by unfold State.completeTile_foot; repeat first | with_reducible exact hp | with_reducible exact List.mem_append_right _ hp | with_reducible apply List.mem_append_left)) ?_
    | with_reducible refine State.bump_touches (hW _ (by first | (simp [State.completeTile_foot]; done) | (split <;> simp [State.completeTile_foot] <;> done) | ((repeat' split) <;> simp [State.completeTile_foot])))  ?_
    | with_reducible refine State.finishTile_touches (fun p hp => hW p (by unfold State.completeTile_foot; repeat first | with_reducible exact hp | with_reducible exact List.mem_append_right _ hp | with_reducible apply List.mem_append_left)) ?_
    | split
    | with_reducible refine forN_touches ?_ (fun x k hx => ?_)
    | with_reducible refine foldl_touches ?_ (fun x a hx => ?_)
    | with_reducible refine foldlSnd_touches ?_ (fun x a hx => ?_)
    | with_reducible assumption
    | with_reducible refine touches_mk (fun f => by cases f <;> first | exact .inr (by with_reducible rfl) | exact .inl (hW _ (by simp [State.completeTile_foot]))) ?_

/-- The parts execTileComplete touches. -/
def execTileComplete_foot : List Part := State.withFindings_foot ++ State.see_foot ++ State.completeTile_foot

theorem execTileComplete_touches {W : List Part} {σ τ : State} {c : Fin 16} {fills : List Fill} {seen : Seen} (hW : ∀ p ∈ execTileComplete_foot, p ∈ W)
    (hT : Touches W σ τ) : OutTouches W σ (execTileComplete c fills seen τ) := by
  unfold execTileComplete
  try dsimp only
  repeat' first
    | with_reducible apply OutTouches.ite
    | with_reducible refine OutTouches.next ?_
    | with_reducible apply Touches.ite
    | with_reducible refine State.withFindings_touches (fun p hp => hW p (by unfold execTileComplete_foot; repeat first | with_reducible exact hp | with_reducible exact List.mem_append_right _ hp | with_reducible apply List.mem_append_left)) ?_
    | with_reducible refine State.see_touches (fun p hp => hW p (by unfold execTileComplete_foot; repeat first | with_reducible exact hp | with_reducible exact List.mem_append_right _ hp | with_reducible apply List.mem_append_left)) ?_
    | with_reducible refine State.completeTile_touches (fun p hp => hW p (by unfold execTileComplete_foot; repeat first | with_reducible exact hp | with_reducible exact List.mem_append_right _ hp | with_reducible apply List.mem_append_left)) ?_
    | split
    | with_reducible refine forN_touches ?_ (fun x k hx => ?_)
    | with_reducible refine foldl_touches ?_ (fun x a hx => ?_)
    | with_reducible refine foldlSnd_touches ?_ (fun x a hx => ?_)
    | with_reducible assumption

/-- The parts State.tapLine touches. -/
def State.tapLine_foot : List Part := [.reg .TAP_DROPS, .fld .taps]

theorem State.tapLine_touches {W : List Part} {σ τ : State} {surf : Nat} {b : Nat} {j : Nat} {words : List Nat} (hW : ∀ p ∈ State.tapLine_foot, p ∈ W)
    (hT : Touches W σ τ) : Touches W σ (State.tapLine τ surf b j words) := by
  unfold State.tapLine
  try dsimp only
  repeat' first
    | with_reducible apply Touches.ite
    | with_reducible refine State.bump_touches (hW _ (by first | (simp [State.tapLine_foot]; done) | (split <;> simp [State.tapLine_foot] <;> done) | ((repeat' split) <;> simp [State.tapLine_foot])))  ?_
    | split
    | with_reducible refine forN_touches ?_ (fun x k hx => ?_)
    | with_reducible refine foldl_touches ?_ (fun x a hx => ?_)
    | with_reducible refine foldlSnd_touches ?_ (fun x a hx => ?_)
    | with_reducible assumption
    | with_reducible refine touches_mk (fun f => by cases f <;> first | exact .inr (by with_reducible rfl) | exact .inl (hW _ (by simp [State.tapLine_foot]))) ?_

/-- The parts State.noteLine touches. -/
def State.noteLine_foot : List Part := State.setFrame_foot

theorem State.noteLine_touches {W : List Part} {σ τ : State} {surf : Nat} {b : Nat} {tu : Nat} {bad : List Nat} {words : List Nat} (hW : ∀ p ∈ State.noteLine_foot, p ∈ W)
    (hT : Touches W σ τ) : Touches W σ (State.noteLine τ surf b tu bad words) := by
  unfold State.noteLine
  try dsimp only
  repeat' first
    | with_reducible apply Touches.ite
    | with_reducible refine State.setFrame_touches (fun p hp => hW p (by unfold State.noteLine_foot; repeat first | with_reducible exact hp | with_reducible exact List.mem_append_right _ hp | with_reducible apply List.mem_append_left)) ?_
    | split
    | with_reducible refine forN_touches ?_ (fun x k hx => ?_)
    | with_reducible refine foldl_touches ?_ (fun x a hx => ?_)
    | with_reducible refine foldlSnd_touches ?_ (fun x a hx => ?_)
    | with_reducible assumption

/-- The parts execRayLineStart touches. -/
def execRayLineStart_foot : List Part := [.reg .iS_LINE] ++ State.tapLine_foot ++ State.noteLine_foot ++ State.sendSlots_foot ++ State.sendConfig_foot

theorem execRayLineStart_touches {W : List Part} {σ τ : State} {surf : Surface} {bad : List (Fin 92160)} (hW : ∀ p ∈ execRayLineStart_foot, p ∈ W)
    (hT : Touches W σ τ) : OutTouches W σ (execRayLineStart surf bad τ) := by
  unfold execRayLineStart
  try dsimp only
  repeat' first
    | with_reducible apply OutTouches.ite
    | with_reducible refine OutTouches.next ?_
    | with_reducible apply Touches.ite
    | with_reducible refine State.setReg_touches (hW _ (by first | (simp [execRayLineStart_foot]; done) | (split <;> simp [execRayLineStart_foot] <;> done) | ((repeat' split) <;> simp [execRayLineStart_foot])))  ?_
    | with_reducible refine State.tapLine_touches (fun p hp => hW p (by unfold execRayLineStart_foot; repeat first | with_reducible exact hp | with_reducible exact List.mem_append_right _ hp | with_reducible apply List.mem_append_left)) ?_
    | with_reducible refine State.noteLine_touches (fun p hp => hW p (by unfold execRayLineStart_foot; repeat first | with_reducible exact hp | with_reducible exact List.mem_append_right _ hp | with_reducible apply List.mem_append_left)) ?_
    | with_reducible refine State.sendSlots_touches (fun p hp => hW p (by unfold execRayLineStart_foot; repeat first | with_reducible exact hp | with_reducible exact List.mem_append_right _ hp | with_reducible apply List.mem_append_left)) ?_
    | with_reducible refine State.sendConfig_touches (fun p hp => hW p (by unfold execRayLineStart_foot; repeat first | with_reducible exact hp | with_reducible exact List.mem_append_right _ hp | with_reducible apply List.mem_append_left)) ?_
    | split
    | with_reducible refine forN_touches ?_ (fun x k hx => ?_)
    | with_reducible refine foldl_touches ?_ (fun x a hx => ?_)
    | with_reducible refine foldlSnd_touches ?_ (fun x a hx => ?_)
    | with_reducible assumption

/-- The parts State.codeTapBlock touches. -/
def State.codeTapBlock_foot : List Part := State.store_foot

theorem State.codeTapBlock_touches {W : List Part} {σ τ : State} {e : Nat} {x : TapFrame} {j i : Nat} {pixels : List Nat}
    (hW : ∀ p ∈ State.codeTapBlock_foot, p ∈ W) (hT : Touches W σ τ) :
    Touches W σ (State.codeTapBlock τ e x j i pixels).2.1 := by
  unfold State.codeTapBlock
  exact State.store_touches hW (State.store_touches hW hT)

/-- The parts State.codeTapRow touches. -/
def State.codeTapRow_foot : List Part := State.codeTapBlock_foot

theorem State.codeTapRow_touches {W : List Part} {σ τ : State} {e : Nat} {x : TapFrame} {j : Nat} {pixels : List Nat}
    (hW : ∀ p ∈ State.codeTapRow_foot, p ∈ W) (hT : Touches W σ τ) :
    Touches W σ (State.codeTapRow τ e x j pixels).2.1 := by
  unfold State.codeTapRow
  refine forN_inv (P := fun (y : Bool × State × TapFrame) => Touches W σ y.2.1) hT (fun y k hy => ?_)
  obtain ⟨f, u, z⟩ := y
  dsimp only at hy ⊢
  split
  · exact hy
  · exact State.codeTapBlock_touches hW hy

/-- The parts execTapRowCoded touches. -/
def execTapRowCoded_foot : List Part := [.fld .taps] ++ State.codeTapRow_foot ++ State.see_foot ++ State.refreshTaps_foot

theorem execTapRowCoded_touches {W : List Part} {σ τ : State} {surf : Surface} {k : Fin 8} {seen : Seen}
    (hW : ∀ p ∈ execTapRowCoded_foot, p ∈ W) (hT : Touches W σ τ) :
    OutTouches W σ (execTapRowCoded surf k seen τ) := by
  have hs : ∀ {z : State} {v : Seen}, Touches W σ z → Touches W σ (z.see v) := fun hz =>
    State.see_touches (fun p hp => hW p (by simp [execTapRowCoded_foot, hp])) hz
  unfold execTapRowCoded
  dsimp only
  split
  · split
    · exact OutTouches.next hT
    · next x e _ _ _ =>
      have h1 : Touches W σ ((τ.see seen).codeTapRow e x (x.rows.headD (0, [])).1 (x.rows.headD (0, [])).2).2.1 :=
        State.codeTapRow_touches (fun p hp => hW p (by simp [execTapRowCoded_foot, hp])) (hs hT)
      refine OutTouches.next (hs (Touches.ite ?_ ?_))
      · exact State.refreshTaps_touches (fun p hp => hW p (by simp [execTapRowCoded_foot, hp])) h1
      · with_reducible refine touches_mk (fun f => by cases f <;> first | exact .inr (by with_reducible rfl) | exact .inl (hW _ (by simp [execTapRowCoded_foot]))) ?_
        exact h1
  · exact OutTouches.next hT

/-- The parts State.writeTapHeader touches. -/
def State.writeTapHeader_foot : List Part := State.store_foot

theorem State.writeTapHeader_touches {W : List Part} {σ τ : State} {e : Nat} {x : TapFrame} {w : Nat}
    (hW : ∀ p ∈ State.writeTapHeader_foot, p ∈ W) (hT : Touches W σ τ) :
    Touches W σ (State.writeTapHeader τ e x w).2 := by
  unfold State.writeTapHeader
  dsimp only
  have h1 : Touches W σ (forN (ceilDiv x.height 32) (false, τ) (fun (f, u) j =>
      if f || x.coded.contains j then (f, u)
      else u.store (codecMaster e) .writeback (τ.tapSlotAt x + 64 + 8 * ceilDiv x.width 32 * j)
        (List.replicate (8 * ceilDiv x.width 32) 0))).2 :=
    forNSnd_touches hT (fun y k hy => by
      obtain ⟨f, u⟩ := y
      dsimp only at hy ⊢
      split
      · exact hy
      · exact State.store_touches hW hy)
  exact Touches.iteSnd h1 (State.store_touches hW h1)

/-- The parts State.tapReady touches. -/
def State.tapReady_foot : List Part := [.reg .TAP_FRAMES, .reg .TAP_HEAD] ++ State.raise_foot

theorem State.tapReady_touches {W : List Part} {σ τ : State} {x : TapFrame} (hW : ∀ p ∈ State.tapReady_foot, p ∈ W)
    (hT : Touches W σ τ) : Touches W σ (State.tapReady τ x) := by
  unfold State.tapReady
  try dsimp only
  repeat' first
    | with_reducible apply Touches.ite
    | with_reducible refine State.raise_touches (fun p hp => hW p (by unfold State.tapReady_foot; repeat first | with_reducible exact hp | with_reducible exact List.mem_append_right _ hp | with_reducible apply List.mem_append_left)) ?_
    | with_reducible refine State.bump_touches (hW _ (by first | (simp [State.tapReady_foot]; done) | (split <;> simp [State.tapReady_foot] <;> done) | ((repeat' split) <;> simp [State.tapReady_foot])))  ?_
    | with_reducible refine State.setReg_touches (hW _ (by first | (simp [State.tapReady_foot]; done) | (split <;> simp [State.tapReady_foot] <;> done) | ((repeat' split) <;> simp [State.tapReady_foot])))  ?_
    | split
    | with_reducible refine forN_touches ?_ (fun x k hx => ?_)
    | with_reducible refine foldl_touches ?_ (fun x a hx => ?_)
    | with_reducible refine foldlSnd_touches ?_ (fun x a hx => ?_)
    | with_reducible assumption

/-- The parts execTapFrameHeaderWrite touches. -/
def execTapFrameHeaderWrite_foot : List Part := [.fld .taps] ++ State.writeTapHeader_foot ++ State.see_foot ++ State.refreshTaps_foot ++ State.tapReady_foot

theorem execTapFrameHeaderWrite_touches {W : List Part} {σ τ : State} {surf : Surface} {k : Fin 8} {seen : Seen} (hW : ∀ p ∈ execTapFrameHeaderWrite_foot, p ∈ W)
    (hT : Touches W σ τ) : OutTouches W σ (execTapFrameHeaderWrite surf k seen τ) := by
  unfold execTapFrameHeaderWrite
  try dsimp only
  repeat' first
    | with_reducible apply OutTouches.ite
    | with_reducible refine OutTouches.next ?_
    | with_reducible apply Touches.ite
    | with_reducible refine Touches.ofPair (by assumption) (State.writeTapHeader_touches (fun p hp => hW p (by unfold execTapFrameHeaderWrite_foot; repeat first | with_reducible exact hp | with_reducible exact List.mem_append_right _ hp | with_reducible apply List.mem_append_left)) ?_)
    | with_reducible refine State.writeTapHeader_touches (fun p hp => hW p (by unfold execTapFrameHeaderWrite_foot; repeat first | with_reducible exact hp | with_reducible exact List.mem_append_right _ hp | with_reducible apply List.mem_append_left)) ?_
    | with_reducible refine State.see_touches (fun p hp => hW p (by unfold execTapFrameHeaderWrite_foot; repeat first | with_reducible exact hp | with_reducible exact List.mem_append_right _ hp | with_reducible apply List.mem_append_left)) ?_
    | with_reducible refine State.refreshTaps_touches (fun p hp => hW p (by unfold execTapFrameHeaderWrite_foot; repeat first | with_reducible exact hp | with_reducible exact List.mem_append_right _ hp | with_reducible apply List.mem_append_left)) ?_
    | with_reducible refine State.tapReady_touches (fun p hp => hW p (by unfold execTapFrameHeaderWrite_foot; repeat first | with_reducible exact hp | with_reducible exact List.mem_append_right _ hp | with_reducible apply List.mem_append_left)) ?_
    | split
    | with_reducible refine forN_touches ?_ (fun x k hx => ?_)
    | with_reducible refine foldl_touches ?_ (fun x a hx => ?_)
    | with_reducible refine foldlSnd_touches ?_ (fun x a hx => ?_)
    | with_reducible assumption
    | with_reducible refine touches_mk (fun f => by cases f <;> first | exact .inr (by with_reducible rfl) | exact .inl (hW _ (by simp [execTapFrameHeaderWrite_foot]))) ?_

/-- The parts execTapTailWrite touches. -/
def execTapTailWrite_foot : List Part := [.reg .TAP_TAIL] ++ writeParam_foot

theorem execTapTailWrite_touches {W : List Part} {σ τ : State} {acc : Accessor} {surf : Surface} {k : Fin 8} {tail : BitVec 16} (hW : ∀ p ∈ execTapTailWrite_foot, p ∈ W)
    (hT : Touches W σ τ) : OutTouches W σ (execTapTailWrite acc surf k tail τ) := by
  unfold execTapTailWrite
  try dsimp only
  repeat' first
    | with_reducible apply OutTouches.ite
    | with_reducible refine OutTouches.next ?_
    | with_reducible apply Touches.ite
    | with_reducible refine writeParam_touches  (fun p hp => hW p (by unfold execTapTailWrite_foot; repeat first | with_reducible exact hp | with_reducible exact List.mem_append_right _ hp | with_reducible apply List.mem_append_left)) ?_ (fun x  hx => ?_)
    | with_reducible refine State.setReg_touches (hW _ (by first | (simp [execTapTailWrite_foot]; done) | (split <;> simp [execTapTailWrite_foot] <;> done) | ((repeat' split) <;> simp [execTapTailWrite_foot])))  ?_
    | split
    | with_reducible refine forN_touches ?_ (fun x k hx => ?_)
    | with_reducible refine foldl_touches ?_ (fun x a hx => ?_)
    | with_reducible refine foldlSnd_touches ?_ (fun x a hx => ?_)
    | with_reducible assumption

/-- The parts execTapParamWrite touches. -/
def execTapParamWrite_foot : List Part := [.reg .TAP_BASE, .reg .TAP_SLOTS, .reg .TAP_V, .fld .status] ++ writeParam_foot ++ State.stageWrite_foot

theorem execTapParamWrite_touches {W : List Part} {σ τ : State} {acc : Accessor} {surf : Surface} {k : Fin 8} {p : TapParam} {v : Nat} (hW : ∀ p ∈ execTapParamWrite_foot, p ∈ W)
    (hT : Touches W σ τ) : OutTouches W σ (execTapParamWrite acc surf k p v τ) := by
  unfold execTapParamWrite
  try dsimp only
  repeat' first
    | with_reducible apply OutTouches.ite
    | with_reducible refine OutTouches.next ?_
    | with_reducible apply Touches.ite
    | with_reducible refine writeParam_touches  (fun p hp => hW p (by unfold execTapParamWrite_foot; repeat first | with_reducible exact hp | with_reducible exact List.mem_append_right _ hp | with_reducible apply List.mem_append_left)) ?_ (fun x  hx => ?_)
    | with_reducible refine State.refuse_touches (hW _ (by simp [execTapParamWrite_foot])) ?_
    | with_reducible refine State.stageWrite_touches (fun p hp => hW p (by unfold execTapParamWrite_foot; repeat first | with_reducible exact hp | with_reducible exact List.mem_append_right _ hp | with_reducible apply List.mem_append_left)) ?_
    | with_reducible refine State.setReg_touches (hW _ (by first | (simp [execTapParamWrite_foot]; done) | (split <;> simp [execTapParamWrite_foot] <;> done) | (simp only [tapReg]; (repeat' split) <;> simp [execTapParamWrite_foot]) | ((repeat' split) <;> simp [execTapParamWrite_foot])))  ?_
    | split
    | with_reducible refine forN_touches ?_ (fun x k hx => ?_)
    | with_reducible refine foldl_touches ?_ (fun x a hx => ?_)
    | with_reducible refine foldlSnd_touches ?_ (fun x a hx => ?_)
    | with_reducible assumption

end Sys2Proof.Machine
end

