-- ==== Sys2Proof/Laws/TouchesWrites.lean ====
section
/-! SUPPORT. What the functions of Machine/Writes.lean touch. -/
namespace Sys2Proof.Machine
set_option linter.all false

theorem OutKeeps.oneOr {τ : State} {v : Nat} {a b : Out} (ha : OutKeeps τ a) (hb : OutKeeps τ b) :
    OutKeeps τ (oneOr v a b) := OutKeeps.ite ha hb

theorem stateOf_keeps {s τ : State} {o : Out} (h : OutKeeps s o) : Keeps s (stateOf o τ) := by
  obtain ⟨u, rfl, hu⟩ := h
  exact hu

/-- The parts State.drainCodec touches. -/
def State.drainCodec_foot : List Part := [.reg .GC_DRAIN, .fld .keepPending, .fld .draws] ++ State.codecAbandon_foot

theorem State.drainCodec_touches {W : List Part} {σ τ : State} {n : Nat} {v : Nat} (hW : ∀ p ∈ State.drainCodec_foot, p ∈ W)
    (hT : Touches W σ τ) : Touches W σ (State.drainCodec τ n v) := by
  unfold State.drainCodec
  try dsimp only
  repeat' first
    | with_reducible apply Touches.ite
    | with_reducible refine State.putReg_touches (hW _ (by first | (simp [State.drainCodec_foot]; done) | (split <;> simp [State.drainCodec_foot] <;> done) | ((repeat' split) <;> simp [State.drainCodec_foot]))) (hW _ (by simp [State.drainCodec_foot])) ?_
    | with_reducible refine State.draw_touches (hW _ (by simp [State.drainCodec_foot])) ?_
    | with_reducible refine Touches.ofPair (by assumption) (State.draw_touches (hW _ (by simp [State.drainCodec_foot])) ?_)
    | with_reducible refine State.codecAbandon_touches (fun p hp => hW p (by unfold State.drainCodec_foot; repeat first | with_reducible exact hp | with_reducible exact List.mem_append_right _ hp | with_reducible apply List.mem_append_left)) ?_
    | split
    | with_reducible refine forN_touches ?_ (fun x k hx => ?_)
    | with_reducible refine foldl_touches ?_ (fun x a hx => ?_)
    | with_reducible refine foldlSnd_touches ?_ (fun x a hx => ?_)
    | with_reducible assumption

/-- The parts State.drainSkiver touches. -/
def State.drainSkiver_foot : List Part := [.reg .SK_DRAIN, .fld .keepPending, .fld .draws] ++ State.skAbandon_foot

theorem State.drainSkiver_touches {W : List Part} {σ τ : State} {k : Nat} {v : Nat} (hW : ∀ p ∈ State.drainSkiver_foot, p ∈ W)
    (hT : Touches W σ τ) : Touches W σ (State.drainSkiver τ k v) := by
  unfold State.drainSkiver
  try dsimp only
  repeat' first
    | with_reducible apply Touches.ite
    | with_reducible refine State.putReg_touches (hW _ (by first | (simp [State.drainSkiver_foot]; done) | (split <;> simp [State.drainSkiver_foot] <;> done) | ((repeat' split) <;> simp [State.drainSkiver_foot]))) (hW _ (by simp [State.drainSkiver_foot])) ?_
    | with_reducible refine State.draw_touches (hW _ (by simp [State.drainSkiver_foot])) ?_
    | with_reducible refine Touches.ofPair (by assumption) (State.draw_touches (hW _ (by simp [State.drainSkiver_foot])) ?_)
    | with_reducible refine State.skAbandon_touches (fun p hp => hW p (by unfold State.drainSkiver_foot; repeat first | with_reducible exact hp | with_reducible exact List.mem_append_right _ hp | with_reducible apply List.mem_append_left)) ?_
    | split
    | with_reducible refine forN_touches ?_ (fun x k hx => ?_)
    | with_reducible refine foldl_touches ?_ (fun x a hx => ?_)
    | with_reducible refine foldlSnd_touches ?_ (fun x a hx => ?_)
    | with_reducible assumption

/-- The parts State.drainScan touches. -/
def State.drainScan_foot : List Part := [.reg .SO_DRAIN, .fld .keepPending] ++ State.abandonScan_foot

theorem State.drainScan_touches {W : List Part} {σ τ : State} {surf : Nat} {v : Nat} (hW : ∀ p ∈ State.drainScan_foot, p ∈ W)
    (hT : Touches W σ τ) : Touches W σ (State.drainScan τ surf v) := by
  unfold State.drainScan
  try dsimp only
  repeat' first
    | with_reducible apply Touches.ite
    | with_reducible refine cond_touches ?_ (fun x hx => ?_)
    | with_reducible refine State.putReg_touches (hW _ (by first | (simp [State.drainScan_foot]; done) | (split <;> simp [State.drainScan_foot] <;> done) | ((repeat' split) <;> simp [State.drainScan_foot]))) (hW _ (by simp [State.drainScan_foot])) ?_
    | with_reducible refine State.abandonScan_touches (fun p hp => hW p (by unfold State.drainScan_foot; repeat first | with_reducible exact hp | with_reducible exact List.mem_append_right _ hp | with_reducible apply List.mem_append_left)) ?_
    | split
    | with_reducible refine forN_touches ?_ (fun x k hx => ?_)
    | with_reducible refine foldl_touches ?_ (fun x a hx => ?_)
    | with_reducible refine foldlSnd_touches ?_ (fun x a hx => ?_)
    | with_reducible assumption

/-- The parts State.drainLace touches. -/
def State.drainLace_foot : List Part := [.reg .LC_DRAIN, .fld .keepPending] ++ State.laceAbandon_foot

theorem State.drainLace_touches {W : List Part} {σ τ : State} {n : Nat} {v : Nat} (hW : ∀ p ∈ State.drainLace_foot, p ∈ W)
    (hT : Touches W σ τ) : Touches W σ (State.drainLace τ n v) := by
  unfold State.drainLace
  try dsimp only
  repeat' first
    | with_reducible apply Touches.ite
    | with_reducible refine cond_touches ?_ (fun x hx => ?_)
    | with_reducible refine State.putReg_touches (hW _ (by first | (simp [State.drainLace_foot]; done) | (split <;> simp [State.drainLace_foot] <;> done) | ((repeat' split) <;> simp [State.drainLace_foot]))) (hW _ (by simp [State.drainLace_foot])) ?_
    | with_reducible refine State.laceAbandon_touches (fun p hp => hW p (by unfold State.drainLace_foot; repeat first | with_reducible exact hp | with_reducible exact List.mem_append_right _ hp | with_reducible apply List.mem_append_left)) ?_
    | split
    | with_reducible refine forN_touches ?_ (fun x k hx => ?_)
    | with_reducible refine foldl_touches ?_ (fun x a hx => ?_)
    | with_reducible refine foldlSnd_touches ?_ (fun x a hx => ?_)
    | with_reducible assumption

/-- The parts State.drainScrub touches. -/
def State.drainScrub_foot : List Part := [.reg .SC_DRAIN, .fld .keepPending, .fld .grants, .fld .highReqs, .fld .normalReqs] ++ State.scrubOff_foot ++ State.dropScrubbed_foot

theorem State.drainScrub_touches {W : List Part} {σ τ : State} {k : Nat} {v : Nat} (hW : ∀ p ∈ State.drainScrub_foot, p ∈ W)
    (hT : Touches W σ τ) : Touches W σ (State.drainScrub τ k v) := by
  unfold State.drainScrub
  try dsimp only
  repeat' first
    | with_reducible apply Touches.ite
    | with_reducible refine cond_touches ?_ (fun x hx => ?_)
    | with_reducible refine State.putReg_touches (hW _ (by first | (simp [State.drainScrub_foot]; done) | (split <;> simp [State.drainScrub_foot] <;> done) | ((repeat' split) <;> simp [State.drainScrub_foot]))) (hW _ (by simp [State.drainScrub_foot])) ?_
    | with_reducible refine State.scrubOff_touches (fun p hp => hW p (by unfold State.drainScrub_foot; repeat first | with_reducible exact hp | with_reducible exact List.mem_append_right _ hp | with_reducible apply List.mem_append_left)) ?_
    | with_reducible refine State.release_touches (hW _ (by simp [State.drainScrub_foot])) (hW _ (by simp [State.drainScrub_foot])) (hW _ (by simp [State.drainScrub_foot])) ?_
    | with_reducible refine State.dropScrubbed_touches (fun p hp => hW p (by unfold State.drainScrub_foot; repeat first | with_reducible exact hp | with_reducible exact List.mem_append_right _ hp | with_reducible apply List.mem_append_left)) ?_
    | split
    | with_reducible refine forN_touches ?_ (fun x k hx => ?_)
    | with_reducible refine foldl_touches ?_ (fun x a hx => ?_)
    | with_reducible refine foldlSnd_touches ?_ (fun x a hx => ?_)
    | with_reducible assumption

/-- The parts State.drainRetrain touches. -/
def State.drainRetrain_foot : List Part := [.reg .MS_RETRAIN_DRAIN, .fld .keepPending] ++ State.abandonRetrain_foot

theorem State.drainRetrain_touches {W : List Part} {σ τ : State} {v : Nat} (hW : ∀ p ∈ State.drainRetrain_foot, p ∈ W)
    (hT : Touches W σ τ) : Touches W σ (State.drainRetrain τ v) := by
  unfold State.drainRetrain
  try dsimp only
  repeat' first
    | with_reducible apply Touches.ite
    | with_reducible refine cond_touches ?_ (fun x hx => ?_)
    | with_reducible refine State.putReg_touches (hW _ (by first | (simp [State.drainRetrain_foot]; done) | (split <;> simp [State.drainRetrain_foot] <;> done) | ((repeat' split) <;> simp [State.drainRetrain_foot]))) (hW _ (by simp [State.drainRetrain_foot])) ?_
    | with_reducible refine State.abandonRetrain_touches (fun p hp => hW p (by unfold State.drainRetrain_foot; repeat first | with_reducible exact hp | with_reducible exact List.mem_append_right _ hp | with_reducible apply List.mem_append_left)) ?_
    | split
    | with_reducible refine forN_touches ?_ (fun x k hx => ?_)
    | with_reducible refine foldl_touches ?_ (fun x a hx => ?_)
    | with_reducible refine foldlSnd_touches ?_ (fun x a hx => ?_)
    | with_reducible assumption

/-- The parts State.profileWrite touches. -/
def State.profileWrite_foot : List Part := [.reg .PTP_PROFILE, .reg .PTP_DELAY_MECH, .reg .PTP_DOMAIN, .reg .PTP_TRANSPORT, .fld .keepPending] ++ State.reportGroups_foot ++ State.forgetMasters_foot

theorem State.profileWrite_touches {W : List Part} {σ τ : State} {v : Nat} (hW : ∀ p ∈ State.profileWrite_foot, p ∈ W)
    (hT : Touches W σ τ) : Touches W σ (State.profileWrite τ v) := by
  unfold State.profileWrite
  try dsimp only
  repeat' first
    | with_reducible apply Touches.ite
    | with_reducible refine State.putReg_touches (hW _ (by first | (simp [State.profileWrite_foot]; done) | (split <;> simp [State.profileWrite_foot] <;> done) | ((repeat' split) <;> simp [State.profileWrite_foot]))) (hW _ (by simp [State.profileWrite_foot])) ?_
    | with_reducible refine cond_touches ?_ (fun x hx => ?_)
    | with_reducible refine State.reportGroups_touches (fun p hp => hW p (by unfold State.profileWrite_foot; repeat first | with_reducible exact hp | with_reducible exact List.mem_append_right _ hp | with_reducible apply List.mem_append_left)) ?_
    | with_reducible refine State.forgetMasters_touches (fun p hp => hW p (by unfold State.profileWrite_foot; repeat first | with_reducible exact hp | with_reducible exact List.mem_append_right _ hp | with_reducible apply List.mem_append_left)) ?_
    | split
    | with_reducible refine forN_touches ?_ (fun x k hx => ?_)
    | with_reducible refine foldl_touches ?_ (fun x a hx => ?_)
    | with_reducible refine foldlSnd_touches ?_ (fun x a hx => ?_)
    | with_reducible assumption

/-- The parts State.ptpEnable touches. -/
def State.ptpEnable_foot : List Part := [.reg .PTP_ENABLE, .reg .iSERVO, .fld .keepPending] ++ State.selectMaster_foot ++ State.showServo_foot

theorem State.ptpEnable_touches {W : List Part} {σ τ : State} {v : Nat} (hW : ∀ p ∈ State.ptpEnable_foot, p ∈ W)
    (hT : Touches W σ τ) : Touches W σ (State.ptpEnable τ v) := by
  unfold State.ptpEnable
  try dsimp only
  repeat' first
    | with_reducible apply Touches.ite
    | with_reducible refine State.putReg_touches (hW _ (by first | (simp [State.ptpEnable_foot]; done) | (split <;> simp [State.ptpEnable_foot] <;> done) | ((repeat' split) <;> simp [State.ptpEnable_foot]))) (hW _ (by simp [State.ptpEnable_foot])) ?_
    | with_reducible refine State.selectMaster_touches (fun p hp => hW p (by unfold State.ptpEnable_foot; repeat first | with_reducible exact hp | with_reducible exact List.mem_append_right _ hp | with_reducible apply List.mem_append_left)) ?_
    | with_reducible refine State.showServo_touches (fun p hp => hW p (by unfold State.ptpEnable_foot; repeat first | with_reducible exact hp | with_reducible exact List.mem_append_right _ hp | with_reducible apply List.mem_append_left)) ?_
    | with_reducible refine State.setReg_touches (hW _ (by first | (simp [State.ptpEnable_foot]; done) | (split <;> simp [State.ptpEnable_foot] <;> done) | ((repeat' split) <;> simp [State.ptpEnable_foot])))  ?_
    | split
    | with_reducible refine forN_touches ?_ (fun x k hx => ?_)
    | with_reducible refine foldl_touches ?_ (fun x a hx => ?_)
    | with_reducible refine foldlSnd_touches ?_ (fun x a hx => ?_)
    | with_reducible assumption

/-- The parts State.modeQueue touches. -/
def State.modeQueue_foot : List Part := [.reg .NQ_MODE, .fld .queues, .fld .keepPending]

theorem State.modeQueue_touches {W : List Part} {σ τ : State} {q : Nat} {v : Nat} (hW : ∀ p ∈ State.modeQueue_foot, p ∈ W)
    (hT : Touches W σ τ) : Touches W σ (State.modeQueue τ q v) := by
  unfold State.modeQueue
  try dsimp only
  repeat' first
    | with_reducible apply Touches.ite
    | with_reducible refine State.setQueue_touches (hW _ (by simp [State.modeQueue_foot])) ?_
    | with_reducible refine State.putReg_touches (hW _ (by first | (simp [State.modeQueue_foot]; done) | (split <;> simp [State.modeQueue_foot] <;> done) | ((repeat' split) <;> simp [State.modeQueue_foot]))) (hW _ (by simp [State.modeQueue_foot])) ?_
    | split
    | with_reducible refine forN_touches ?_ (fun x k hx => ?_)
    | with_reducible refine foldl_touches ?_ (fun x a hx => ?_)
    | with_reducible refine foldlSnd_touches ?_ (fun x a hx => ?_)
    | with_reducible assumption

theorem State.slotParam_keeps {τ : State} {r : Reg} {p v : Nat} : Keeps τ (State.slotParam τ r p v) := by
  unfold State.slotParam
  split
  · exact (State.refuse_touches (W := [.fld .status]) (by simp) (.refl _ τ)).keeps
  · exact Keeps.setReg (.refl τ)

/-- The parts State.svReset touches. -/
def State.svReset_foot : List Part := [.reg .iPLV_RESET] ++ State.deviceReset_foot

theorem State.svReset_touches {W : List Part} {σ τ : State}  (hW : ∀ p ∈ State.svReset_foot, p ∈ W)
    (hT : Touches W σ τ) : Touches W σ (State.svReset τ) := by
  unfold State.svReset
  try dsimp only
  repeat' first
    | with_reducible apply Touches.ite
    | with_reducible refine State.setReg_touches (hW _ (by first | (simp [State.svReset_foot]; done) | (split <;> simp [State.svReset_foot] <;> done) | ((repeat' split) <;> simp [State.svReset_foot])))  ?_
    | with_reducible refine State.deviceReset_touches (fun p hp => hW p (by unfold State.svReset_foot; repeat first | with_reducible exact hp | with_reducible exact List.mem_append_right _ hp | with_reducible apply List.mem_append_left)) ?_
    | split
    | with_reducible refine forN_touches ?_ (fun x k hx => ?_)
    | with_reducible refine foldl_touches ?_ (fun x a hx => ?_)
    | with_reducible refine foldlSnd_touches ?_ (fun x a hx => ?_)
    | with_reducible assumption

/-- The parts spreadWrite touches. -/
def spreadWrite_foot : List Part := execArrayParamWrite_foot

theorem spreadWrite_touches {W : List Part} {σ τ : State} {acc : Accessor} {k : Nat} {v : Nat} (hW : ∀ p ∈ spreadWrite_foot, p ∈ W)
    (hT : Touches W σ τ) : OutTouches W σ (spreadWrite acc k v τ) := by
  unfold spreadWrite
  try dsimp only
  repeat' first
    | with_reducible apply OutTouches.ite
    | with_reducible refine OutTouches.next ?_
    | with_reducible apply Touches.ite
    | with_reducible refine execArrayParamWrite_touches (fun p hp => hW p (by unfold spreadWrite_foot; repeat first | with_reducible exact hp | with_reducible exact List.mem_append_right _ hp | with_reducible apply List.mem_append_left)) ?_
    | split
    | with_reducible refine forN_touches ?_ (fun x k hx => ?_)
    | with_reducible refine foldl_touches ?_ (fun x a hx => ?_)
    | with_reducible refine foldlSnd_touches ?_ (fun x a hx => ?_)
    | with_reducible assumption

theorem sceneWrite_keeps {τ : State} {acc : Accessor} {r : Reg} {i v : Nat} :
    OptKeeps τ (sceneWrite acc r i v τ) := by
  unfold sceneWrite
  split
  · refine OptKeeps.some ?_
    repeat' first
      | with_reducible apply OutKeeps.oneOr
      | with_reducible apply OutKeeps.ite
      | with_reducible refine OutKeeps.next ?_
      | with_reducible exact (execBufParamWrite_touches (fun _ h => h) (.refl _ _)).keeps
      | with_reducible exact Keeps.refl _
  · refine OptKeeps.some ?_
    repeat' first
      | with_reducible apply OutKeeps.oneOr
      | with_reducible apply OutKeeps.ite
      | with_reducible refine OutKeeps.next ?_
      | with_reducible exact (execBufParamWrite_touches (fun _ h => h) (.refl _ _)).keeps
      | with_reducible exact Keeps.refl _
  · refine OptKeeps.some ?_
    repeat' first
      | with_reducible apply OutKeeps.oneOr
      | with_reducible apply OutKeeps.ite
      | with_reducible refine OutKeeps.next ?_
      | with_reducible exact (execBufParamWrite_touches (fun _ h => h) (.refl _ _)).keeps
      | with_reducible exact Keeps.refl _
  · refine OptKeeps.some ?_
    repeat' first
      | with_reducible apply OutKeeps.oneOr
      | with_reducible apply OutKeeps.ite
      | with_reducible refine OutKeeps.next ?_
      | with_reducible exact (execBufParamWrite_touches (fun _ h => h) (.refl _ _)).keeps
      | with_reducible exact Keeps.refl _
  · refine OptKeeps.some ?_
    repeat' first
      | with_reducible apply OutKeeps.oneOr
      | with_reducible apply OutKeeps.ite
      | with_reducible refine OutKeeps.next ?_
      | with_reducible exact (execBufParamWrite_touches (fun _ h => h) (.refl _ _)).keeps
      | with_reducible exact Keeps.refl _
  · refine OptKeeps.some ?_
    repeat' first
      | with_reducible apply OutKeeps.oneOr
      | with_reducible apply OutKeeps.ite
      | with_reducible refine OutKeeps.next ?_
      | with_reducible exact (execBufParamWrite_touches (fun _ h => h) (.refl _ _)).keeps
      | with_reducible exact Keeps.refl _
  · refine OptKeeps.some ?_
    repeat' first
      | with_reducible apply OutKeeps.oneOr
      | with_reducible apply OutKeeps.ite
      | with_reducible refine OutKeeps.next ?_
      | with_reducible exact (execBufParamWrite_touches (fun _ h => h) (.refl _ _)).keeps
      | with_reducible exact Keeps.refl _
  · refine OptKeeps.some ?_
    repeat' first
      | with_reducible apply OutKeeps.oneOr
      | with_reducible apply OutKeeps.ite
      | with_reducible refine OutKeeps.next ?_
      | with_reducible exact (execBufParamWrite_touches (fun _ h => h) (.refl _ _)).keeps
      | with_reducible exact Keeps.refl _
  · refine OptKeeps.some ?_
    repeat' first
      | with_reducible apply OutKeeps.oneOr
      | with_reducible apply OutKeeps.ite
      | with_reducible refine OutKeeps.next ?_
      | with_reducible exact (execBufCtrlOpen_touches (fun _ h => h) (.refl _ _)).keeps
      | with_reducible exact (execBufCtrlSeal_touches (fun _ h => h) (.refl _ _)).keeps
      | with_reducible exact (execBufCtrlDiscard_touches (fun _ h => h) (.refl _ _)).keeps
      | with_reducible exact Keeps.refl _
  · refine OptKeeps.some ?_
    repeat' first
      | with_reducible apply OutKeeps.oneOr
      | with_reducible apply OutKeeps.ite
      | with_reducible refine OutKeeps.next ?_
      | with_reducible refine Keeps.trans ?_ (State.reportGroups_touches (fun _ h => h) (.refl _ _)).keeps
      | with_reducible refine Keeps.setReg ?_
      | with_reducible refine Keeps.putReg ?_
      | with_reducible exact Keeps.refl _
  · refine OptKeeps.some ?_
    repeat' first
      | with_reducible apply OutKeeps.oneOr
      | with_reducible apply OutKeeps.ite
      | with_reducible refine OutKeeps.next ?_
      | with_reducible refine Keeps.trans ?_ (State.reportGroups_touches (fun _ h => h) (.refl _ _)).keeps
      | with_reducible refine Keeps.setReg ?_
      | with_reducible refine Keeps.putReg ?_
      | with_reducible exact Keeps.refl _
  · refine OptKeeps.some ?_
    repeat' first
      | with_reducible apply OutKeeps.oneOr
      | with_reducible apply OutKeeps.ite
      | with_reducible refine OutKeeps.next ?_
      | with_reducible refine Keeps.trans ?_ (State.reportGroups_touches (fun _ h => h) (.refl _ _)).keeps
      | with_reducible refine Keeps.setReg ?_
      | with_reducible refine Keeps.putReg ?_
      | with_reducible exact Keeps.refl _
  · refine OptKeeps.some ?_
    repeat' first
      | with_reducible apply OutKeeps.oneOr
      | with_reducible apply OutKeeps.ite
      | with_reducible refine OutKeeps.next ?_
      | with_reducible exact (execStrRingTailWrite_touches (fun _ h => h) (.refl _ _)).keeps
      | with_reducible exact Keeps.refl _
  · refine OptKeeps.some ?_
    repeat' first
      | with_reducible apply OutKeeps.oneOr
      | with_reducible apply OutKeeps.ite
      | with_reducible refine OutKeeps.next ?_
      | with_reducible exact (execCgCtrlOpen_touches (fun _ h => h) (.refl _ _)).keeps
      | with_reducible exact (execCgCtrlGo_touches (fun _ h => h) (.refl _ _)).keeps
      | with_reducible exact (execCgCtrlAbort_touches (fun _ h => h) (.refl _ _)).keeps
      | with_reducible exact Keeps.refl _
  · refine OptKeeps.some ?_
    repeat' first
      | with_reducible apply OutKeeps.oneOr
      | with_reducible apply OutKeeps.ite
      | with_reducible refine OutKeeps.next ?_
      | with_reducible exact (execCgParamWrite_touches (fun _ h => h) (.refl _ _)).keeps
      | with_reducible exact Keeps.refl _
  · refine OptKeeps.some ?_
    repeat' first
      | with_reducible apply OutKeeps.oneOr
      | with_reducible apply OutKeeps.ite
      | with_reducible refine OutKeeps.next ?_
      | with_reducible exact (execCgParamWrite_touches (fun _ h => h) (.refl _ _)).keeps
      | with_reducible exact Keeps.refl _
  · refine OptKeeps.some ?_
    repeat' first
      | with_reducible apply OutKeeps.oneOr
      | with_reducible apply OutKeeps.ite
      | with_reducible refine OutKeeps.next ?_
      | with_reducible exact (execCgParamWrite_touches (fun _ h => h) (.refl _ _)).keeps
      | with_reducible exact Keeps.refl _
  · refine OptKeeps.some ?_
    repeat' first
      | with_reducible apply OutKeeps.oneOr
      | with_reducible apply OutKeeps.ite
      | with_reducible refine OutKeeps.next ?_
      | with_reducible exact (execCgParamWrite_touches (fun _ h => h) (.refl _ _)).keeps
      | with_reducible exact Keeps.refl _
  · refine OptKeeps.some ?_
    repeat' first
      | with_reducible apply OutKeeps.oneOr
      | with_reducible apply OutKeeps.ite
      | with_reducible refine OutKeeps.next ?_
      | with_reducible exact (execCgParamWrite_touches (fun _ h => h) (.refl _ _)).keeps
      | with_reducible exact Keeps.refl _
  · refine OptKeeps.some ?_
    repeat' first
      | with_reducible apply OutKeeps.oneOr
      | with_reducible apply OutKeeps.ite
      | with_reducible refine OutKeeps.next ?_
      | with_reducible exact (execPbCtrlArm_touches (fun _ h => h) (.refl _ _)).keeps
      | with_reducible exact (execPbCtrlStop_touches (fun _ h => h) (.refl _ _)).keeps
      | with_reducible exact Keeps.refl _
  · refine OptKeeps.some ?_
    repeat' first
      | with_reducible apply OutKeeps.oneOr
      | with_reducible apply OutKeeps.ite
      | with_reducible refine OutKeeps.next ?_
      | with_reducible exact (execCueParamWrite_touches (fun _ h => h) (.refl _ _)).keeps
      | with_reducible exact Keeps.refl _
  · refine OptKeeps.some ?_
    repeat' first
      | with_reducible apply OutKeeps.oneOr
      | with_reducible apply OutKeeps.ite
      | with_reducible refine OutKeeps.next ?_
      | with_reducible exact (execCueParamWrite_touches (fun _ h => h) (.refl _ _)).keeps
      | with_reducible exact Keeps.refl _
  · refine OptKeeps.some ?_
    repeat' first
      | with_reducible apply OutKeeps.oneOr
      | with_reducible apply OutKeeps.ite
      | with_reducible refine OutKeeps.next ?_
      | with_reducible exact (execCueParamWrite_touches (fun _ h => h) (.refl _ _)).keeps
      | with_reducible exact Keeps.refl _
  · refine OptKeeps.some ?_
    repeat' first
      | with_reducible apply OutKeeps.oneOr
      | with_reducible apply OutKeeps.ite
      | with_reducible refine OutKeeps.next ?_
      | with_reducible exact (execCueParamWrite_touches (fun _ h => h) (.refl _ _)).keeps
      | with_reducible exact Keeps.refl _
  · refine OptKeeps.some ?_
    repeat' first
      | with_reducible apply OutKeeps.oneOr
      | with_reducible apply OutKeeps.ite
      | with_reducible refine OutKeeps.next ?_
      | with_reducible exact (execCueLoadValidate_touches (fun _ h => h) (.refl _ _)).keeps
      | with_reducible exact (execCueLoadEmpty_touches (fun _ h => h) (.refl _ _)).keeps
      | with_reducible exact Keeps.refl _
  · refine OptKeeps.some ?_
    repeat' first
      | with_reducible apply OutKeeps.oneOr
      | with_reducible apply OutKeeps.ite
      | with_reducible refine OutKeeps.next ?_
      | with_reducible exact (execCalSlotWrite_touches (fun _ h => h) (.refl _ _)).keeps
      | with_reducible exact Keeps.refl _
  · refine OptKeeps.some ?_
    repeat' first
      | with_reducible apply OutKeeps.oneOr
      | with_reducible apply OutKeeps.ite
      | with_reducible refine OutKeeps.next ?_
      | with_reducible exact (execCalSlotWrite_touches (fun _ h => h) (.refl _ _)).keeps
      | with_reducible exact Keeps.refl _
  · refine OptKeeps.some ?_
    repeat' first
      | with_reducible apply OutKeeps.oneOr
      | with_reducible apply OutKeeps.ite
      | with_reducible refine OutKeeps.next ?_
      | with_reducible exact (execCalSlotWrite_touches (fun _ h => h) (.refl _ _)).keeps
      | with_reducible exact Keeps.refl _
  · refine OptKeeps.some ?_
    repeat' first
      | with_reducible apply OutKeeps.oneOr
      | with_reducible apply OutKeeps.ite
      | with_reducible refine OutKeeps.next ?_
      | with_reducible exact (execCalSlotWrite_touches (fun _ h => h) (.refl _ _)).keeps
      | with_reducible exact Keeps.refl _
  · refine OptKeeps.some ?_
    repeat' first
      | with_reducible apply OutKeeps.oneOr
      | with_reducible apply OutKeeps.ite
      | with_reducible refine OutKeeps.next ?_
      | with_reducible exact (execCalSlotWrite_touches (fun _ h => h) (.refl _ _)).keeps
      | with_reducible exact Keeps.refl _
  · refine OptKeeps.some ?_
    repeat' first
      | with_reducible apply OutKeeps.oneOr
      | with_reducible apply OutKeeps.ite
      | with_reducible refine OutKeeps.next ?_
      | with_reducible exact (execCalLoadValidate_touches (fun _ h => h) (.refl _ _)).keeps
      | with_reducible exact (execCalLoadEmpty_touches (fun _ h => h) (.refl _ _)).keeps
      | with_reducible exact Keeps.refl _
  · refine OptKeeps.some ?_
    repeat' first
      | with_reducible apply OutKeeps.oneOr
      | with_reducible apply OutKeeps.ite
      | with_reducible refine OutKeeps.next ?_
      | with_reducible exact (execLutWrite_touches (fun _ h => h) (.refl _ _)).keeps
      | with_reducible exact Keeps.refl _
  · refine OptKeeps.some ?_
    repeat' first
      | with_reducible apply OutKeeps.oneOr
      | with_reducible apply OutKeeps.ite
      | with_reducible refine OutKeeps.next ?_
      | with_reducible exact (execLutWrite_touches (fun _ h => h) (.refl _ _)).keeps
      | with_reducible exact Keeps.refl _
  · refine OptKeeps.some ?_
    repeat' first
      | with_reducible apply OutKeeps.oneOr
      | with_reducible apply OutKeeps.ite
      | with_reducible refine OutKeeps.next ?_
      | with_reducible exact (execArrayParamWrite_touches (fun _ h => h) (.refl _ _)).keeps
      | with_reducible exact Keeps.refl _
  · refine OptKeeps.some ?_
    repeat' first
      | with_reducible apply OutKeeps.oneOr
      | with_reducible apply OutKeeps.ite
      | with_reducible refine OutKeeps.next ?_
      | with_reducible exact (execArrayParamWrite_touches (fun _ h => h) (.refl _ _)).keeps
      | with_reducible exact Keeps.refl _
  · refine OptKeeps.some ?_
    repeat' first
      | with_reducible apply OutKeeps.oneOr
      | with_reducible apply OutKeeps.ite
      | with_reducible refine OutKeeps.next ?_
      | with_reducible exact (execArrayParamWrite_touches (fun _ h => h) (.refl _ _)).keeps
      | with_reducible exact Keeps.refl _
  · refine OptKeeps.some ?_
    repeat' first
      | with_reducible apply OutKeeps.oneOr
      | with_reducible apply OutKeeps.ite
      | with_reducible refine OutKeeps.next ?_
      | with_reducible exact (execArrayParamWrite_touches (fun _ h => h) (.refl _ _)).keeps
      | with_reducible exact Keeps.refl _
  · refine OptKeeps.some ?_
    repeat' first
      | with_reducible apply OutKeeps.oneOr
      | with_reducible apply OutKeeps.ite
      | with_reducible refine OutKeeps.next ?_
      | with_reducible exact (execArrayParamWrite_touches (fun _ h => h) (.refl _ _)).keeps
      | with_reducible exact Keeps.refl _
  · refine OptKeeps.some ?_
    repeat' first
      | with_reducible apply OutKeeps.oneOr
      | with_reducible apply OutKeeps.ite
      | with_reducible refine OutKeeps.next ?_
      | with_reducible exact (execClFaultClear_touches (fun _ h => h) (.refl _ _)).keeps
      | with_reducible exact Keeps.refl _
  · refine OptKeeps.some ?_
    repeat' first
      | with_reducible apply OutKeeps.oneOr
      | with_reducible apply OutKeeps.ite
      | with_reducible refine OutKeeps.next ?_
      | with_reducible exact (execHzProgTarget_touches (fun _ h => h) (.refl _ _)).keeps
      | with_reducible exact Keeps.refl _
  · refine OptKeeps.some ?_
    repeat' first
      | with_reducible apply OutKeeps.oneOr
      | with_reducible apply OutKeeps.ite
      | with_reducible refine OutKeeps.next ?_
      | exact State.slotParam_keeps
      | with_reducible exact Keeps.refl _
  · refine OptKeeps.some ?_
    repeat' first
      | with_reducible apply OutKeeps.oneOr
      | with_reducible apply OutKeeps.ite
      | with_reducible refine OutKeeps.next ?_
      | exact State.slotParam_keeps
      | with_reducible exact Keeps.refl _
  · refine OptKeeps.some ?_
    repeat' first
      | with_reducible apply OutKeeps.oneOr
      | with_reducible apply OutKeeps.ite
      | with_reducible refine OutKeeps.next ?_
      | with_reducible exact (execPgLoadVerify_touches (fun _ h => h) (.refl _ _)).keeps
      | with_reducible exact (execPgLoadEmpty_touches (fun _ h => h) (.refl _ _)).keeps
      | with_reducible exact Keeps.refl _
  · exact OptKeeps.none

theorem scanWrite_keeps {τ : State} {acc : Accessor} {r : Reg} {i v : Nat} :
    OptKeeps τ (scanWrite acc r i v τ) := by
  unfold scanWrite
  split
  · refine OptKeeps.some ?_
    repeat' first
      | with_reducible apply OutKeeps.oneOr
      | with_reducible apply OutKeeps.ite
      | with_reducible refine OutKeeps.next ?_
      | with_reducible exact (execCodecAssignWrite_touches (fun _ h => h) (.refl _ _)).keeps
      | with_reducible exact Keeps.refl _
  · refine OptKeeps.some ?_
    repeat' first
      | with_reducible apply OutKeeps.oneOr
      | with_reducible apply OutKeeps.ite
      | with_reducible refine OutKeeps.next ?_
      | with_reducible exact (execCodecAssignWrite_touches (fun _ h => h) (.refl _ _)).keeps
      | with_reducible exact Keeps.refl _
  · refine OptKeeps.some ?_
    repeat' first
      | with_reducible apply OutKeeps.oneOr
      | with_reducible apply OutKeeps.ite
      | with_reducible refine OutKeeps.next ?_
      | with_reducible exact (execGcEnableResume_touches (fun _ h => h) (.refl _ _)).keeps
      | with_reducible exact (execGcEnableResume_touches (fun _ h => List.mem_cons_of_mem _ h)
        (State.draw_touches (List.mem_cons_self (a := Part.fld .draws)) (.refl _ _))).keeps
      | with_reducible exact (execGcEnableDisable_touches (fun _ h => h) (.refl _ _)).keeps
      | with_reducible exact (execGcEnableDisable_touches (fun _ h => List.mem_cons_of_mem _ h)
        (State.draw_touches (List.mem_cons_self (a := Part.fld .draws)) (.refl _ _))).keeps
      | with_reducible exact Keeps.refl _
  · refine OptKeeps.some ?_
    repeat' first
      | with_reducible apply OutKeeps.oneOr
      | with_reducible apply OutKeeps.ite
      | with_reducible refine OutKeeps.next ?_
      | with_reducible refine Keeps.trans ?_ (State.drainCodec_touches (fun _ h => h) (.refl _ _)).keeps
      | with_reducible exact Keeps.refl _
  · refine OptKeeps.some ?_
    repeat' first
      | with_reducible apply OutKeeps.oneOr
      | with_reducible apply OutKeeps.ite
      | with_reducible refine OutKeeps.next ?_
      | with_reducible exact (execGcRingWrite_touches (fun _ h => h) (.refl _ _)).keeps
      | with_reducible exact Keeps.refl _
  · refine OptKeeps.some ?_
    repeat' first
      | with_reducible apply OutKeeps.oneOr
      | with_reducible apply OutKeeps.ite
      | with_reducible refine OutKeeps.next ?_
      | with_reducible exact (execGcRingWrite_touches (fun _ h => h) (.refl _ _)).keeps
      | with_reducible exact Keeps.refl _
  · refine OptKeeps.some ?_
    repeat' first
      | with_reducible apply OutKeeps.oneOr
      | with_reducible apply OutKeeps.ite
      | with_reducible refine OutKeeps.next ?_
      | with_reducible exact (execGcTailWrite_touches (fun _ h => h) (.refl _ _)).keeps
      | with_reducible exact Keeps.refl _
  · refine OptKeeps.some ?_
    repeat' first
      | with_reducible apply OutKeeps.oneOr
      | with_reducible apply OutKeeps.ite
      | with_reducible refine OutKeeps.next ?_
      | with_reducible refine Keeps.trans ?_ (State.refreshNext_touches (fun _ h => h) (.refl _ _)).keeps
      | with_reducible refine Keeps.setReg ?_
      | with_reducible refine Keeps.putReg ?_
      | with_reducible exact Keeps.refl _
  · refine OptKeeps.some ?_
    repeat' first
      | with_reducible apply OutKeeps.oneOr
      | with_reducible apply OutKeeps.ite
      | with_reducible refine OutKeeps.next ?_
      | with_reducible refine Keeps.trans ?_ (State.refreshNext_touches (fun _ h => h) (.refl _ _)).keeps
      | with_reducible refine Keeps.setReg ?_
      | with_reducible refine Keeps.putReg ?_
      | with_reducible exact Keeps.refl _
  · refine OptKeeps.some ?_
    repeat' first
      | with_reducible apply OutKeeps.oneOr
      | with_reducible apply OutKeeps.ite
      | with_reducible refine OutKeeps.next ?_
      | with_reducible exact (execLastRateWrite_touches (fun _ h => h) (.refl _ _)).keeps
      | with_reducible exact Keeps.refl _
  · refine OptKeeps.some ?_
    repeat' first
      | with_reducible apply OutKeeps.oneOr
      | with_reducible apply OutKeeps.ite
      | with_reducible refine OutKeeps.next ?_
      | with_reducible exact (execLastResync_touches (fun _ h => h) (.refl _ _)).keeps
      | with_reducible exact Keeps.refl _
  · refine OptKeeps.some ?_
    repeat' first
      | with_reducible apply OutKeeps.oneOr
      | with_reducible apply OutKeeps.ite
      | with_reducible refine OutKeeps.next ?_
      | with_reducible exact (execSoEnableResume_touches (fun _ h => h) (.refl _ _)).keeps
      | with_reducible exact (execSoEnableDisable_touches (fun _ h => h) (.refl _ _)).keeps
      | with_reducible exact Keeps.refl _
  · refine OptKeeps.some ?_
    repeat' first
      | with_reducible apply OutKeeps.oneOr
      | with_reducible apply OutKeeps.ite
      | with_reducible refine OutKeeps.next ?_
      | with_reducible refine Keeps.trans ?_ (State.drainScan_touches (fun _ h => h) (.refl _ _)).keeps
      | with_reducible exact Keeps.refl _
  · refine OptKeeps.some ?_
    repeat' first
      | with_reducible apply OutKeeps.oneOr
      | with_reducible apply OutKeeps.ite
      | with_reducible refine OutKeeps.next ?_
      | with_reducible exact (execTapParamWrite_touches (fun _ h => h) (.refl _ _)).keeps
      | with_reducible exact Keeps.refl _
  · refine OptKeeps.some ?_
    repeat' first
      | with_reducible apply OutKeeps.oneOr
      | with_reducible apply OutKeeps.ite
      | with_reducible refine OutKeeps.next ?_
      | with_reducible exact (execTapParamWrite_touches (fun _ h => h) (.refl _ _)).keeps
      | with_reducible exact Keeps.refl _
  · refine OptKeeps.some ?_
    repeat' first
      | with_reducible apply OutKeeps.oneOr
      | with_reducible apply OutKeeps.ite
      | with_reducible refine OutKeeps.next ?_
      | with_reducible exact (execTapParamWrite_touches (fun _ h => h) (.refl _ _)).keeps
      | with_reducible exact Keeps.refl _
  · refine OptKeeps.some ?_
    repeat' first
      | with_reducible apply OutKeeps.oneOr
      | with_reducible apply OutKeeps.ite
      | with_reducible refine OutKeeps.next ?_
      | with_reducible exact (execTapTailWrite_touches (fun _ h => h) (.refl _ _)).keeps
      | with_reducible exact Keeps.refl _
  · refine OptKeeps.some ?_
    repeat' first
      | with_reducible apply OutKeeps.oneOr
      | with_reducible apply OutKeeps.ite
      | with_reducible refine OutKeeps.next ?_
      | with_reducible exact (execWlMapReset_touches (fun _ h => h) (.refl _ _)).keeps
      | with_reducible exact Keeps.refl _
  · refine OptKeeps.some ?_
    repeat' first
      | with_reducible apply OutKeeps.oneOr
      | with_reducible apply OutKeeps.ite
      | with_reducible refine OutKeeps.next ?_
      | with_reducible exact (execWlCalFetch_touches (fun _ h => h) (.refl _ _)).keeps
      | with_reducible exact Keeps.refl _
  · refine OptKeeps.some ?_
    repeat' first
      | with_reducible apply OutKeeps.oneOr
      | with_reducible apply OutKeeps.ite
      | with_reducible refine OutKeeps.next ?_
      | with_reducible exact (execWlCtrlRetrain_touches (fun _ h => h) (.refl _ _)).keeps
      | with_reducible exact (execWlCtrlSpare_touches (fun _ h => h) (.refl _ _)).keeps
      | with_reducible exact (execWlCtrlRetry_touches (fun _ h => h) (.refl _ _)).keeps
      | with_reducible exact Keeps.refl _
  · refine OptKeeps.some ?_
    repeat' first
      | with_reducible apply OutKeeps.oneOr
      | with_reducible apply OutKeeps.ite
      | with_reducible refine OutKeeps.next ?_
      | with_reducible exact (execWlPrbsMode_touches (fun _ h => h) (.refl _ _)).keeps
      | with_reducible exact Keeps.refl _
  · refine OptKeeps.some ?_
    repeat' first
      | with_reducible apply OutKeeps.oneOr
      | with_reducible apply OutKeeps.ite
      | with_reducible refine OutKeeps.next ?_
      | with_reducible exact (execWrPrbsMode_touches (fun _ h => h) (.refl _ _)).keeps
      | with_reducible exact Keeps.refl _
  · exact OptKeeps.none

theorem storeWrite_keeps {τ : State} {acc : Accessor} {r : Reg} {i v : Nat} :
    OptKeeps τ (storeWrite acc r i v τ) := by
  unfold storeWrite
  split
  · refine OptKeeps.some ?_
    repeat' first
      | with_reducible apply OutKeeps.oneOr
      | with_reducible apply OutKeeps.ite
      | with_reducible refine OutKeeps.next ?_
      | with_reducible exact (execMsRetrainEnDisable_touches (fun _ h => h) (.refl _ _)).keeps
      | with_reducible refine Keeps.trans ?_ (State.retrainEnable_touches (fun _ h => h) (.refl _ _)).keeps
      | with_reducible exact Keeps.refl _
  · refine OptKeeps.some ?_
    repeat' first
      | with_reducible apply OutKeeps.oneOr
      | with_reducible apply OutKeeps.ite
      | with_reducible refine OutKeeps.next ?_
      | with_reducible refine Keeps.trans ?_ (State.drainRetrain_touches (fun _ h => h) (.refl _ _)).keeps
      | with_reducible exact Keeps.refl _
  · refine OptKeeps.some ?_
    repeat' first
      | with_reducible apply OutKeeps.oneOr
      | with_reducible apply OutKeeps.ite
      | with_reducible refine OutKeeps.next ?_
      | with_reducible exact (execMsRelease_touches (fun _ h => h) (.refl _ _)).keeps
      | with_reducible exact Keeps.refl _
  · refine OptKeeps.some ?_
    repeat' first
      | with_reducible apply OutKeeps.oneOr
      | with_reducible apply OutKeeps.ite
      | with_reducible refine OutKeeps.next ?_
      | with_reducible refine Keeps.setReg ?_
      | with_reducible refine Keeps.putReg ?_
      | with_reducible exact Keeps.refl _
  · refine OptKeeps.some ?_
    repeat' first
      | with_reducible apply OutKeeps.oneOr
      | with_reducible apply OutKeeps.ite
      | with_reducible refine OutKeeps.next ?_
      | with_reducible refine Keeps.setReg ?_
      | with_reducible refine Keeps.putReg ?_
      | with_reducible exact Keeps.refl _
  · refine OptKeeps.some ?_
    repeat' first
      | with_reducible apply OutKeeps.oneOr
      | with_reducible apply OutKeeps.ite
      | with_reducible refine OutKeeps.next ?_
      | with_reducible refine Keeps.setReg ?_
      | with_reducible refine Keeps.putReg ?_
      | with_reducible exact Keeps.refl _
  · refine OptKeeps.some ?_
    repeat' first
      | with_reducible apply OutKeeps.oneOr
      | with_reducible apply OutKeeps.ite
      | with_reducible refine OutKeeps.next ?_
      | with_reducible refine Keeps.setReg ?_
      | with_reducible refine Keeps.putReg ?_
      | with_reducible exact Keeps.refl _
  · refine OptKeeps.some ?_
    repeat' first
      | with_reducible apply OutKeeps.oneOr
      | with_reducible apply OutKeeps.ite
      | with_reducible refine OutKeeps.next ?_
      | with_reducible refine Keeps.setReg ?_
      | with_reducible refine Keeps.putReg ?_
      | with_reducible exact Keeps.refl _
  · refine OptKeeps.some ?_
    repeat' first
      | with_reducible apply OutKeeps.oneOr
      | with_reducible apply OutKeeps.ite
      | with_reducible refine OutKeeps.next ?_
      | with_reducible refine Keeps.setReg ?_
      | with_reducible refine Keeps.putReg ?_
      | with_reducible exact Keeps.refl _
  · refine OptKeeps.some ?_
    repeat' first
      | with_reducible apply OutKeeps.oneOr
      | with_reducible apply OutKeeps.ite
      | with_reducible refine OutKeeps.next ?_
      | with_reducible refine Keeps.setReg ?_
      | with_reducible refine Keeps.putReg ?_
      | with_reducible exact Keeps.refl _
  · refine OptKeeps.some ?_
    repeat' first
      | with_reducible apply OutKeeps.oneOr
      | with_reducible apply OutKeeps.ite
      | with_reducible refine OutKeeps.next ?_
      | with_reducible exact (execWinApply_touches (fun _ h => h) (.refl _ _)).keeps
      | with_reducible exact Keeps.refl _
  · refine OptKeeps.some ?_
    repeat' first
      | with_reducible apply OutKeeps.oneOr
      | with_reducible apply OutKeeps.ite
      | with_reducible refine OutKeeps.next ?_
      | with_reducible exact (execChRetrainNow_touches (fun _ h => h) (.refl _ _)).keeps
      | with_reducible exact Keeps.refl _
  · refine OptKeeps.some ?_
    repeat' first
      | with_reducible apply OutKeeps.oneOr
      | with_reducible apply OutKeeps.ite
      | with_reducible refine OutKeeps.next ?_
      | with_reducible exact (execScEnableResume_touches (fun _ h => h) (.refl _ _)).keeps
      | with_reducible exact (execScEnableDisable_touches (fun _ h => h) (.refl _ _)).keeps
      | with_reducible exact Keeps.refl _
  · refine OptKeeps.some ?_
    repeat' first
      | with_reducible apply OutKeeps.oneOr
      | with_reducible apply OutKeeps.ite
      | with_reducible refine OutKeeps.next ?_
      | with_reducible refine Keeps.trans ?_ (State.drainScrub_touches (fun _ h => h) (.refl _ _)).keeps
      | with_reducible exact Keeps.refl _
  · refine OptKeeps.some ?_
    repeat' first
      | with_reducible apply OutKeeps.oneOr
      | with_reducible apply OutKeeps.ite
      | with_reducible refine OutKeeps.next ?_
      | with_reducible exact (execPnClear_touches (fun _ h => h) (.refl _ _)).keeps
      | with_reducible exact Keeps.refl _
  · refine OptKeeps.some ?_
    repeat' first
      | with_reducible apply OutKeeps.oneOr
      | with_reducible apply OutKeeps.ite
      | with_reducible refine OutKeeps.next ?_
      | with_reducible exact (execLcEnableResume_touches (fun _ h => h) (.refl _ _)).keeps
      | with_reducible exact (execLcEnableDisable_touches (fun _ h => h) (.refl _ _)).keeps
      | with_reducible exact Keeps.refl _
  · refine OptKeeps.some ?_
    repeat' first
      | with_reducible apply OutKeeps.oneOr
      | with_reducible apply OutKeeps.ite
      | with_reducible refine OutKeeps.next ?_
      | with_reducible refine Keeps.trans ?_ (State.drainLace_touches (fun _ h => h) (.refl _ _)).keeps
      | with_reducible exact Keeps.refl _
  · refine OptKeeps.some ?_
    repeat' first
      | with_reducible apply OutKeeps.oneOr
      | with_reducible apply OutKeeps.ite
      | with_reducible refine OutKeeps.next ?_
      | with_reducible exact (execLcShDescWrite_touches (fun _ h => h) (.refl _ _)).keeps
      | with_reducible exact Keeps.refl _
  · refine OptKeeps.some ?_
    repeat' first
      | with_reducible apply OutKeeps.oneOr
      | with_reducible apply OutKeeps.ite
      | with_reducible refine OutKeeps.next ?_
      | with_reducible exact (execLcArm_touches (fun _ h => h) (.refl _ _)).keeps
      | with_reducible exact (execLcDisarm_touches (fun _ h => h) (.refl _ _)).keeps
      | with_reducible exact Keeps.refl _
  · refine OptKeeps.some ?_
    repeat' first
      | with_reducible apply OutKeeps.oneOr
      | with_reducible apply OutKeeps.ite
      | with_reducible refine OutKeeps.next ?_
      | with_reducible exact (execLcCtrlResume_touches (fun _ h => h) (.refl _ _)).keeps
      | with_reducible exact (execLcCtrlAbandon_touches (fun _ h => h) (.refl _ _)).keeps
      | with_reducible exact Keeps.refl _
  · refine OptKeeps.some ?_
    repeat' first
      | with_reducible apply OutKeeps.oneOr
      | with_reducible apply OutKeeps.ite
      | with_reducible refine OutKeeps.next ?_
      | with_reducible exact (execLsBusClear_touches (fun _ h => h) (.refl _ _)).keeps
      | with_reducible exact Keeps.refl _
  · refine OptKeeps.some ?_
    repeat' first
      | with_reducible apply OutKeeps.oneOr
      | with_reducible apply OutKeeps.ite
      | with_reducible refine OutKeeps.next ?_
      | with_reducible exact (execSkEnableResume_touches (fun _ h => h) (.refl _ _)).keeps
      | with_reducible exact (execSkEnableResume_touches (fun _ h => List.mem_cons_of_mem _ h)
        (State.draw_touches (List.mem_cons_self (a := Part.fld .draws)) (.refl _ _))).keeps
      | with_reducible exact (execSkEnableDisable_touches (fun _ h => h) (.refl _ _)).keeps
      | with_reducible exact (execSkEnableDisable_touches (fun _ h => List.mem_cons_of_mem _ h)
        (State.draw_touches (List.mem_cons_self (a := Part.fld .draws)) (.refl _ _))).keeps
      | with_reducible exact Keeps.refl _
  · refine OptKeeps.some ?_
    repeat' first
      | with_reducible apply OutKeeps.oneOr
      | with_reducible apply OutKeeps.ite
      | with_reducible refine OutKeeps.next ?_
      | with_reducible refine Keeps.trans ?_ (State.drainSkiver_touches (fun _ h => h) (.refl _ _)).keeps
      | with_reducible exact Keeps.refl _
  · refine OptKeeps.some ?_
    repeat' first
      | with_reducible apply OutKeeps.oneOr
      | with_reducible apply OutKeeps.ite
      | with_reducible refine OutKeeps.next ?_
      | with_reducible exact (execSkRingWrite_touches (fun _ h => h) (.refl _ _)).keeps
      | with_reducible exact Keeps.refl _
  · refine OptKeeps.some ?_
    repeat' first
      | with_reducible apply OutKeeps.oneOr
      | with_reducible apply OutKeeps.ite
      | with_reducible refine OutKeeps.next ?_
      | with_reducible exact (execSkRingWrite_touches (fun _ h => h) (.refl _ _)).keeps
      | with_reducible exact Keeps.refl _
  · refine OptKeeps.some ?_
    repeat' first
      | with_reducible apply OutKeeps.oneOr
      | with_reducible apply OutKeeps.ite
      | with_reducible refine OutKeeps.next ?_
      | with_reducible exact (execSkTailWrite_touches (fun _ h => h) (.refl _ _)).keeps
      | with_reducible exact Keeps.refl _
  · exact OptKeeps.none

theorem networkWrite_keeps {τ : State} {acc : Accessor} {r : Reg} {i v : Nat} :
    OptKeeps τ (networkWrite acc r i v τ) := by
  unfold networkWrite
  split
  · refine OptKeeps.some ?_
    repeat' first
      | with_reducible apply OutKeeps.oneOr
      | with_reducible apply OutKeeps.ite
      | with_reducible refine OutKeeps.next ?_
      | with_reducible exact (execEthModeWrite_touches (fun _ h => h) (.refl _ _)).keeps
      | with_reducible exact Keeps.refl _
  · refine OptKeeps.some ?_
    repeat' first
      | with_reducible apply OutKeeps.oneOr
      | with_reducible apply OutKeeps.ite
      | with_reducible refine OutKeeps.next ?_
      | with_reducible exact (execEthModeWrite_touches (fun _ h => h) (.refl _ _)).keeps
      | with_reducible exact Keeps.refl _
  · refine OptKeeps.some ?_
    repeat' first
      | with_reducible apply OutKeeps.oneOr
      | with_reducible apply OutKeeps.ite
      | with_reducible refine OutKeeps.next ?_
      | with_reducible exact (execEthModeWrite_touches (fun _ h => h) (.refl _ _)).keeps
      | with_reducible exact Keeps.refl _
  · refine OptKeeps.some ?_
    repeat' first
      | with_reducible apply OutKeeps.oneOr
      | with_reducible apply OutKeeps.ite
      | with_reducible refine OutKeeps.next ?_
      | with_reducible exact (execRqParamWrite_touches (fun _ h => h) (.refl _ _)).keeps
      | with_reducible exact Keeps.refl _
  · refine OptKeeps.some ?_
    repeat' first
      | with_reducible apply OutKeeps.oneOr
      | with_reducible apply OutKeeps.ite
      | with_reducible refine OutKeeps.next ?_
      | with_reducible exact (execRqParamWrite_touches (fun _ h => h) (.refl _ _)).keeps
      | with_reducible exact Keeps.refl _
  · refine OptKeeps.some ?_
    repeat' first
      | with_reducible apply OutKeeps.oneOr
      | with_reducible apply OutKeeps.ite
      | with_reducible refine OutKeeps.next ?_
      | with_reducible exact (execRqParamWrite_touches (fun _ h => h) (.refl _ _)).keeps
      | with_reducible exact Keeps.refl _
  · refine OptKeeps.some ?_
    repeat' first
      | with_reducible apply OutKeeps.oneOr
      | with_reducible apply OutKeeps.ite
      | with_reducible refine OutKeeps.next ?_
      | with_reducible refine Keeps.trans ?_ (State.ptpEnable_touches (fun _ h => h) (.refl _ _)).keeps
      | with_reducible exact Keeps.refl _
  · refine OptKeeps.some ?_
    repeat' first
      | with_reducible apply OutKeeps.oneOr
      | with_reducible apply OutKeeps.ite
      | with_reducible refine OutKeeps.next ?_
      | with_reducible refine Keeps.trans ?_ (State.profileWrite_touches (fun _ h => h) (.refl _ _)).keeps
      | with_reducible exact Keeps.refl _
  · refine OptKeeps.some ?_
    repeat' first
      | with_reducible apply OutKeeps.oneOr
      | with_reducible apply OutKeeps.ite
      | with_reducible refine OutKeeps.next ?_
      | with_reducible refine Keeps.cond ?_ (State.forgetMasters_touches (fun _ h => h) (.refl _ _)).keeps
      | with_reducible refine Keeps.trans ?_ (State.reportGroups_touches (fun _ h => h) (.refl _ _)).keeps
      | with_reducible refine Keeps.trans ?_ (State.forgetMasters_touches (fun _ h => h) (.refl _ _)).keeps
      | with_reducible refine Keeps.setReg ?_
      | with_reducible refine Keeps.putReg ?_
      | with_reducible exact Keeps.refl _
  · refine OptKeeps.some ?_
    repeat' first
      | with_reducible apply OutKeeps.oneOr
      | with_reducible apply OutKeeps.ite
      | with_reducible refine OutKeeps.next ?_
      | with_reducible refine Keeps.cond ?_ (State.forgetMasters_touches (fun _ h => h) (.refl _ _)).keeps
      | with_reducible refine Keeps.trans ?_ (State.forgetMasters_touches (fun _ h => h) (.refl _ _)).keeps
      | with_reducible refine Keeps.setReg ?_
      | with_reducible refine Keeps.putReg ?_
      | with_reducible exact Keeps.refl _
  · refine OptKeeps.some ?_
    repeat' first
      | with_reducible apply OutKeeps.oneOr
      | with_reducible apply OutKeeps.ite
      | with_reducible refine OutKeeps.next ?_
      | with_reducible refine Keeps.trans ?_ (State.selectMaster_touches (fun _ h => h) (.refl _ _)).keeps
      | with_reducible refine Keeps.setReg ?_
      | with_reducible refine Keeps.putReg ?_
      | with_reducible exact Keeps.refl _
  · refine OptKeeps.some ?_
    repeat' first
      | with_reducible apply OutKeeps.oneOr
      | with_reducible apply OutKeeps.ite
      | with_reducible refine OutKeeps.next ?_
      | with_reducible exact (execTbSourceWrite_touches (fun _ h => h) (.refl _ _)).keeps
      | with_reducible exact Keeps.refl _
  · refine OptKeeps.some ?_
    repeat' first
      | with_reducible apply OutKeeps.oneOr
      | with_reducible apply OutKeeps.ite
      | with_reducible refine OutKeeps.next ?_
      | with_reducible exact (execTbSet_touches (fun _ h => h) (.refl _ _)).keeps
      | with_reducible exact Keeps.refl _
  · refine OptKeeps.some ?_
    repeat' first
      | with_reducible apply OutKeeps.oneOr
      | with_reducible apply OutKeeps.ite
      | with_reducible refine OutKeeps.next ?_
      | with_reducible exact (execTbAdj_touches (fun _ h => h) (.refl _ _)).keeps
      | with_reducible exact Keeps.refl _
  · refine OptKeeps.some ?_
    repeat' first
      | with_reducible apply OutKeeps.oneOr
      | with_reducible apply OutKeeps.ite
      | with_reducible refine OutKeeps.next ?_
      | with_reducible exact (execEyeParamWrite_touches (fun _ h => h) (.refl _ _)).keeps
      | with_reducible exact Keeps.refl _
  · refine OptKeeps.some ?_
    repeat' first
      | with_reducible apply OutKeeps.oneOr
      | with_reducible apply OutKeeps.ite
      | with_reducible refine OutKeeps.next ?_
      | with_reducible exact (execEyeParamWrite_touches (fun _ h => h) (.refl _ _)).keeps
      | with_reducible exact Keeps.refl _
  · refine OptKeeps.some ?_
    repeat' first
      | with_reducible apply OutKeeps.oneOr
      | with_reducible apply OutKeeps.ite
      | with_reducible refine OutKeeps.next ?_
      | with_reducible exact (execEyeParamWrite_touches (fun _ h => h) (.refl _ _)).keeps
      | with_reducible exact Keeps.refl _
  · refine OptKeeps.some ?_
    repeat' first
      | with_reducible apply OutKeeps.oneOr
      | with_reducible apply OutKeeps.ite
      | with_reducible refine OutKeeps.next ?_
      | with_reducible exact (execEyeParamWrite_touches (fun _ h => h) (.refl _ _)).keeps
      | with_reducible exact Keeps.refl _
  · refine OptKeeps.some ?_
    repeat' first
      | with_reducible apply OutKeeps.oneOr
      | with_reducible apply OutKeeps.ite
      | with_reducible refine OutKeeps.next ?_
      | with_reducible exact (execEyeParamWrite_touches (fun _ h => h) (.refl _ _)).keeps
      | with_reducible exact Keeps.refl _
  · refine OptKeeps.some ?_
    repeat' first
      | with_reducible apply OutKeeps.oneOr
      | with_reducible apply OutKeeps.ite
      | with_reducible refine OutKeeps.next ?_
      | with_reducible exact (execEyeParamWrite_touches (fun _ h => h) (.refl _ _)).keeps
      | with_reducible exact Keeps.refl _
  · refine OptKeeps.some ?_
    repeat' first
      | with_reducible apply OutKeeps.oneOr
      | with_reducible apply OutKeeps.ite
      | with_reducible refine OutKeeps.next ?_
      | with_reducible exact (execEyeParamWrite_touches (fun _ h => h) (.refl _ _)).keeps
      | with_reducible exact Keeps.refl _
  · refine OptKeeps.some ?_
    repeat' first
      | with_reducible apply OutKeeps.oneOr
      | with_reducible apply OutKeeps.ite
      | with_reducible refine OutKeeps.next ?_
      | with_reducible exact (execEyeParamWrite_touches (fun _ h => h) (.refl _ _)).keeps
      | with_reducible exact Keeps.refl _
  · refine OptKeeps.some ?_
    repeat' first
      | with_reducible apply OutKeeps.oneOr
      | with_reducible apply OutKeeps.ite
      | with_reducible refine OutKeeps.next ?_
      | with_reducible exact (execEyeCtrlArm_touches (fun _ h => h) (.refl _ _)).keeps
      | with_reducible exact (execEyeCtrlDisarm_touches (fun _ h => h) (.refl _ _)).keeps
      | with_reducible exact Keeps.refl _
  · refine OptKeeps.some ?_
    repeat' first
      | with_reducible apply OutKeeps.oneOr
      | with_reducible apply OutKeeps.ite
      | with_reducible refine OutKeeps.next ?_
      | with_reducible refine Keeps.trans ?_ (State.modeQueue_touches (fun _ h => h) (.refl _ _)).keeps
      | with_reducible exact Keeps.refl _
  · refine OptKeeps.some ?_
    repeat' first
      | with_reducible apply OutKeeps.oneOr
      | with_reducible apply OutKeeps.ite
      | with_reducible refine OutKeeps.next ?_
      | with_reducible exact (execPlvKeySet_touches (fun _ h => h) (.refl _ _)).keeps
      | with_reducible exact Keeps.refl _
  · refine OptKeeps.some ?_
    repeat' first
      | with_reducible apply OutKeeps.oneOr
      | with_reducible apply OutKeeps.ite
      | with_reducible refine OutKeeps.next ?_
      | with_reducible exact (execSsClose_touches (fun _ h => h) (.refl _ _)).keeps
      | with_reducible exact Keeps.refl _
  · refine OptKeeps.some ?_
    repeat' first
      | with_reducible apply OutKeeps.oneOr
      | with_reducible apply OutKeeps.ite
      | with_reducible refine OutKeeps.next ?_
      | with_reducible refine Keeps.setReg ?_
      | with_reducible refine Keeps.putReg ?_
      | with_reducible exact Keeps.refl _
  · refine OptKeeps.some ?_
    repeat' first
      | with_reducible apply OutKeeps.oneOr
      | with_reducible apply OutKeeps.ite
      | with_reducible refine OutKeeps.next ?_
      | with_reducible refine Keeps.setReg ?_
      | with_reducible refine Keeps.putReg ?_
      | with_reducible exact Keeps.refl _
  · refine OptKeeps.some ?_
    repeat' first
      | with_reducible apply OutKeeps.oneOr
      | with_reducible apply OutKeeps.ite
      | with_reducible refine OutKeeps.next ?_
      | with_reducible refine Keeps.setReg ?_
      | with_reducible refine Keeps.putReg ?_
      | with_reducible exact Keeps.refl _
  · exact OptKeeps.none

theorem serviceWrite_keeps {τ : State} {acc : Accessor} {r : Reg} {i v : Nat} :
    OptKeeps τ (serviceWrite acc r i v τ) := by
  unfold serviceWrite
  split
  · refine OptKeeps.some ?_
    repeat' first
      | with_reducible apply OutKeeps.oneOr
      | with_reducible apply OutKeeps.ite
      | with_reducible refine OutKeeps.next ?_
      | with_reducible exact (execCkMarginWrite_touches (fun _ h => h) (.refl _ _)).keeps
      | with_reducible exact Keeps.refl _
  · refine OptKeeps.some ?_
    repeat' first
      | with_reducible apply OutKeeps.oneOr
      | with_reducible apply OutKeeps.ite
      | with_reducible refine OutKeeps.next ?_
      | with_reducible exact (spreadWrite_touches (fun _ h => h) (.refl _ _)).keeps
      | with_reducible exact Keeps.refl _
  · refine OptKeeps.some ?_
    repeat' first
      | with_reducible apply OutKeeps.oneOr
      | with_reducible apply OutKeeps.ite
      | with_reducible refine OutKeeps.next ?_
      | with_reducible exact (execCkRelock_touches (fun _ h => h) (.refl _ _)).keeps
      | with_reducible exact Keeps.refl _
  · refine OptKeeps.some ?_
    repeat' first
      | with_reducible apply OutKeeps.oneOr
      | with_reducible apply OutKeeps.ite
      | with_reducible refine OutKeeps.next ?_
      | with_reducible exact (execCkSyncArm_touches (fun _ h => h) (.refl _ _)).keeps
      | with_reducible exact Keeps.refl _
  · refine OptKeeps.some ?_
    repeat' first
      | with_reducible apply OutKeeps.oneOr
      | with_reducible apply OutKeeps.ite
      | with_reducible refine OutKeeps.next ?_
      | with_reducible exact (execPwCeilingWrite_touches (fun _ h => h) (.refl _ _)).keeps
      | with_reducible exact Keeps.refl _
  · refine OptKeeps.some ?_
    repeat' first
      | with_reducible apply OutKeeps.oneOr
      | with_reducible apply OutKeeps.ite
      | with_reducible refine OutKeeps.next ?_
      | with_reducible exact (execThStageMaxWrite_touches (fun _ h => h) (.refl _ _)).keeps
      | with_reducible exact Keeps.refl _
  · refine OptKeeps.some ?_
    repeat' first
      | with_reducible apply OutKeeps.oneOr
      | with_reducible apply OutKeeps.ite
      | with_reducible refine OutKeeps.next ?_
      | with_reducible exact (execThShutWrite_touches (fun _ h => h) (.refl _ _)).keeps
      | with_reducible exact Keeps.refl _
  · refine OptKeeps.some ?_
    repeat' first
      | with_reducible apply OutKeeps.oneOr
      | with_reducible apply OutKeeps.ite
      | with_reducible refine OutKeeps.next ?_
      | with_reducible exact (execThShutWrite_touches (fun _ h => h) (.refl _ _)).keeps
      | with_reducible exact Keeps.refl _
  · refine OptKeeps.some ?_
    repeat' first
      | with_reducible apply OutKeeps.oneOr
      | with_reducible apply OutKeeps.ite
      | with_reducible refine OutKeeps.next ?_
      | with_reducible exact (execKpProtectWrite_touches (fun _ h => h) (.refl _ _)).keeps
      | with_reducible exact Keeps.refl _
  · refine OptKeeps.some ?_
    repeat' first
      | with_reducible apply OutKeeps.oneOr
      | with_reducible apply OutKeeps.ite
      | with_reducible refine OutKeeps.next ?_
      | with_reducible exact (execInsEnableResume_touches (fun _ h => h) (.refl _ _)).keeps
      | with_reducible exact (execInsEnableDisable_touches (fun _ h => h) (.refl _ _)).keeps
      | with_reducible exact Keeps.refl _
  · refine OptKeeps.some ?_
    repeat' first
      | with_reducible apply OutKeeps.oneOr
      | with_reducible apply OutKeeps.ite
      | with_reducible refine OutKeeps.next ?_
      | with_reducible refine Keeps.trans ?_ (State.insoleDrain_touches (fun _ h => h) (.refl _ _)).keeps
      | with_reducible exact Keeps.refl _
  · refine OptKeeps.some ?_
    repeat' first
      | with_reducible apply OutKeeps.oneOr
      | with_reducible apply OutKeeps.ite
      | with_reducible refine OutKeeps.next ?_
      | with_reducible exact (execInsoleImageWrite_touches (fun _ h => h) (.refl _ _)).keeps
      | with_reducible exact Keeps.refl _
  · refine OptKeeps.some ?_
    repeat' first
      | with_reducible apply OutKeeps.oneOr
      | with_reducible apply OutKeeps.ite
      | with_reducible refine OutKeeps.next ?_
      | with_reducible exact (execSmEnableWrite_touches (fun _ h => h) (.refl _ _)).keeps
      | with_reducible exact Keeps.refl _
  · refine OptKeeps.some ?_
    repeat' first
      | with_reducible apply OutKeeps.oneOr
      | with_reducible apply OutKeeps.ite
      | with_reducible refine OutKeeps.next ?_
      | with_reducible exact (execSmPolicyWrite_touches (fun _ h => h) (.refl _ _)).keeps
      | with_reducible exact Keeps.refl _
  · refine OptKeeps.some ?_
    repeat' first
      | with_reducible apply OutKeeps.oneOr
      | with_reducible apply OutKeeps.ite
      | with_reducible refine OutKeeps.next ?_
      | with_reducible exact (execSmClear_touches (fun _ h => h) (.refl _ _)).keeps
      | with_reducible exact Keeps.refl _
  · refine OptKeeps.some ?_
    repeat' first
      | with_reducible apply OutKeeps.oneOr
      | with_reducible apply OutKeeps.ite
      | with_reducible refine OutKeeps.next ?_
      | with_reducible exact (execFwProgram_touches (fun _ h => h) (.refl _ _)).keeps
      | with_reducible exact Keeps.refl _
  · refine OptKeeps.some ?_
    repeat' first
      | with_reducible apply OutKeeps.oneOr
      | with_reducible apply OutKeeps.ite
      | with_reducible refine OutKeeps.next ?_
      | with_reducible exact (execFwSwitchTrial_touches (fun _ h => h) (.refl _ _)).keeps
      | with_reducible exact (execFwSwitchCommit_touches (fun _ h => h) (.refl _ _)).keeps
      | with_reducible exact (execFwSwitchRestart_touches (fun _ h => h) (.refl _ _)).keeps
      | with_reducible exact Keeps.refl _
  · refine OptKeeps.some ?_
    repeat' first
      | with_reducible apply OutKeeps.oneOr
      | with_reducible apply OutKeeps.ite
      | with_reducible refine OutKeeps.next ?_
      | with_reducible refine Keeps.trans ?_ (State.svReset_touches (fun _ h => h) (.refl _ _)).keeps
      | with_reducible exact Keeps.refl _
  · exact OptKeeps.none

theorem State.classWrite_keeps {τ : State} {acc : Accessor} {r : Reg} {i v : Nat} :
    Keeps τ (State.classWrite τ acc r i v) := by
  unfold State.classWrite
  split
  · exact Keeps.putReg (.refl τ)
  · exact (State.stageWrite_touches (fun _ h => h) (.refl _ τ)).keeps

/-- A write of any parameter may touch everything. -/
def State.performWrite_foot : List Part := allParts

theorem State.performWrite_keeps {τ : State} {acc : Accessor} {r : Reg} {i v : Nat} :
    Keeps τ (State.performWrite τ acc r i v) := by
  have h : OptKeeps τ ((sceneWrite acc r i v τ).or ((scanWrite acc r i v τ).or ((storeWrite acc r i v τ).or
      ((networkWrite acc r i v τ).or (serviceWrite acc r i v τ))))) := by
    intro o e
    simp only [Option.or_eq_some_iff] at e
    obtain e | ⟨-, e | ⟨-, e | ⟨-, e | ⟨-, e⟩⟩⟩⟩ := e
    · exact sceneWrite_keeps _ e
    · exact scanWrite_keeps _ e
    · exact storeWrite_keeps _ e
    · exact networkWrite_keeps _ e
    · exact serviceWrite_keeps _ e
  unfold State.performWrite
  split
  · exact stateOf_keeps (h _ (by assumption))
  · exact State.classWrite_keeps

theorem State.performWrite_touches {W : List Part} {σ τ : State} {acc : Accessor} {r : Reg} {i v : Nat}
    (hW : ∀ p ∈ State.performWrite_foot, p ∈ W) (hT : Touches W σ τ) :
    Touches W σ (State.performWrite τ acc r i v) := hT.trans (.all hW State.performWrite_keeps)

/-- The parts State.writeId touches. -/
def State.writeId_foot : List Part := [.fld .status] ++ State.noteAccess_foot ++ writeAccess_foot ++ State.performWrite_foot

theorem State.writeId_touches {W : List Part} {σ τ : State} {acc : Accessor} {index : Nat} {sub : Nat} {data : List Byte} (hW : ∀ p ∈ State.writeId_foot, p ∈ W)
    (hT : Touches W σ τ) : Touches W σ (State.writeId τ acc index sub data) := by
  unfold State.writeId
  try dsimp only
  repeat' first
    | with_reducible apply Touches.ite
    | with_reducible refine State.noteAccess_touches (fun p hp => hW p (by unfold State.writeId_foot; repeat first | with_reducible exact hp | with_reducible exact List.mem_append_right _ hp | with_reducible apply List.mem_append_left)) ?_
    | with_reducible refine State.setStatus_touches (hW _ (by simp [State.writeId_foot])) ?_
    | with_reducible refine writeAccess_touches  (fun p hp => hW p (by unfold State.writeId_foot; repeat first | with_reducible exact hp | with_reducible exact List.mem_append_right _ hp | with_reducible apply List.mem_append_left)) ?_ (fun x  hx => ?_)
    | with_reducible refine State.performWrite_touches (fun p hp => hW p (by unfold State.writeId_foot; repeat first | with_reducible exact hp | with_reducible exact List.mem_append_right _ hp | with_reducible apply List.mem_append_left)) ?_
    | split
    | with_reducible refine forN_touches ?_ (fun x k hx => ?_)
    | with_reducible refine foldl_touches ?_ (fun x a hx => ?_)
    | with_reducible refine foldlSnd_touches ?_ (fun x a hx => ?_)
    | with_reducible assumption

/-- The parts execParameterWrite touches. -/
def execParameterWrite_foot : List Part := State.writeId_foot

theorem execParameterWrite_touches {W : List Part} {σ τ : State} {acc : Accessor} {index : BitVec 16} {sub : BitVec 8} {data : List Byte} (hW : ∀ p ∈ execParameterWrite_foot, p ∈ W)
    (hT : Touches W σ τ) : OutTouches W σ (execParameterWrite acc index sub data τ) := by
  unfold execParameterWrite
  try dsimp only
  repeat' first
    | with_reducible apply OutTouches.ite
    | with_reducible refine OutTouches.next ?_
    | with_reducible apply Touches.ite
    | with_reducible refine State.writeId_touches (fun p hp => hW p (by unfold execParameterWrite_foot; repeat first | with_reducible exact hp | with_reducible exact List.mem_append_right _ hp | with_reducible apply List.mem_append_left)) ?_
    | split
    | with_reducible refine forN_touches ?_ (fun x k hx => ?_)
    | with_reducible refine foldl_touches ?_ (fun x a hx => ?_)
    | with_reducible refine foldlSnd_touches ?_ (fun x a hx => ?_)
    | with_reducible assumption

/-- The parts execNqModeWrite touches. -/
def execNqModeWrite_foot : List Part := writeParam_foot ++ State.modeQueue_foot

theorem execNqModeWrite_touches {W : List Part} {σ τ : State} {acc : Accessor} {q : Fin 2048} {v : BitVec 8} (hW : ∀ p ∈ execNqModeWrite_foot, p ∈ W)
    (hT : Touches W σ τ) : OutTouches W σ (execNqModeWrite acc q v τ) := by
  unfold execNqModeWrite
  try dsimp only
  repeat' first
    | with_reducible apply OutTouches.ite
    | with_reducible refine OutTouches.next ?_
    | with_reducible apply Touches.ite
    | with_reducible refine writeParam_touches  (fun p hp => hW p (by unfold execNqModeWrite_foot; repeat first | with_reducible exact hp | with_reducible exact List.mem_append_right _ hp | with_reducible apply List.mem_append_left)) ?_ (fun x  hx => ?_)
    | with_reducible refine State.modeQueue_touches (fun p hp => hW p (by unfold execNqModeWrite_foot; repeat first | with_reducible exact hp | with_reducible exact List.mem_append_right _ hp | with_reducible apply List.mem_append_left)) ?_
    | split
    | with_reducible refine forN_touches ?_ (fun x k hx => ?_)
    | with_reducible refine foldl_touches ?_ (fun x a hx => ?_)
    | with_reducible refine foldlSnd_touches ?_ (fun x a hx => ?_)
    | with_reducible assumption

/-- The parts execOdFactory touches. -/
def execOdFactory_foot : List Part := [.reg .iFACTORY] ++ writeParam_foot

theorem execOdFactory_touches {W : List Part} {σ τ : State} {acc : Accessor} (hW : ∀ p ∈ execOdFactory_foot, p ∈ W)
    (hT : Touches W σ τ) : OutTouches W σ (execOdFactory acc τ) := by
  unfold execOdFactory
  try dsimp only
  repeat' first
    | with_reducible apply OutTouches.ite
    | with_reducible refine OutTouches.next ?_
    | with_reducible apply Touches.ite
    | with_reducible refine writeParam_touches  (fun p hp => hW p (by unfold execOdFactory_foot; repeat first | with_reducible exact hp | with_reducible exact List.mem_append_right _ hp | with_reducible apply List.mem_append_left)) ?_ (fun x  hx => ?_)
    | with_reducible refine State.setReg_touches (hW _ (by first | (simp [execOdFactory_foot]; done) | (split <;> simp [execOdFactory_foot] <;> done) | ((repeat' split) <;> simp [execOdFactory_foot])))  ?_
    | split
    | with_reducible refine forN_touches ?_ (fun x k hx => ?_)
    | with_reducible refine foldl_touches ?_ (fun x a hx => ?_)
    | with_reducible refine foldlSnd_touches ?_ (fun x a hx => ?_)
    | with_reducible assumption

end Sys2Proof.Machine
end

