-- ==== Sys2Proof/Laws/TouchesPlovan.lean ====
section
/-! SUPPORT. What the functions of Machine/Plovan.lean touch. -/
namespace Sys2Proof.Machine
set_option linter.all false

/-- The parts State.sendPlv touches. -/
def State.sendPlv_foot : List Part := [.fld .sent] ++ State.sendOwn_foot

theorem State.sendPlv_touches {W : List Part} {σ τ : State} {from_ : Nat} {peer : List Byte} {m : List Byte} (hW : ∀ p ∈ State.sendPlv_foot, p ∈ W)
    (hT : Touches W σ τ) : Touches W σ (State.sendPlv τ from_ peer m) := by
  unfold State.sendPlv
  try dsimp only
  repeat' first
    | with_reducible apply Touches.ite
    | with_reducible refine State.sendOwn_touches (fun p hp => hW p (by unfold State.sendPlv_foot; repeat first | with_reducible exact hp | with_reducible exact List.mem_append_right _ hp | with_reducible apply List.mem_append_left)) ?_
    | with_reducible refine State.sendMore_touches (hW _ (by simp [State.sendPlv_foot])) ?_
    | split
    | with_reducible refine forN_touches ?_ (fun x k hx => ?_)
    | with_reducible refine foldl_touches ?_ (fun x a hx => ?_)
    | with_reducible refine foldlSnd_touches ?_ (fun x a hx => ?_)
    | with_reducible assumption

/-- The parts State.plvOpen touches. -/
def State.plvOpen_foot : List Part := [.reg .PLV_BAD_AUTH, .reg .iSS_FROM, .reg .iSS_SEEN, .reg .SS_PEER, .reg .iSS_MAC, .fld .responses, .fld .draws] ++ State.sendPlv_foot ++ State.openSession_foot

theorem State.plvOpen_touches {W : List Part} {σ τ : State} {from_ : Nat} {mac : Nat} {peer : List Byte} {h : PlvHead} (hW : ∀ p ∈ State.plvOpen_foot, p ∈ W)
    (hT : Touches W σ τ) : Touches W σ (State.plvOpen τ from_ mac peer h) := by
  unfold State.plvOpen
  try dsimp only
  repeat' first
    | with_reducible apply Touches.ite
    | with_reducible refine State.bump_touches (hW _ (by first | (simp [State.plvOpen_foot]; done) | (split <;> simp [State.plvOpen_foot] <;> done) | ((repeat' split) <;> simp [State.plvOpen_foot])))  ?_
    | with_reducible refine State.sendPlv_touches (fun p hp => hW p (by unfold State.plvOpen_foot; repeat first | with_reducible exact hp | with_reducible exact List.mem_append_right _ hp | with_reducible apply List.mem_append_left)) ?_
    | with_reducible refine State.draw_touches (hW _ (by simp [State.plvOpen_foot])) ?_
    | with_reducible refine Touches.ofPair (by assumption) (State.draw_touches (hW _ (by simp [State.plvOpen_foot])) ?_)
    | with_reducible refine State.setReg_touches (hW _ (by first | (simp [State.plvOpen_foot]; done) | (split <;> simp [State.plvOpen_foot] <;> done) | ((repeat' split) <;> simp [State.plvOpen_foot])))  ?_
    | with_reducible refine State.openSession_touches (fun p hp => hW p (by unfold State.plvOpen_foot; repeat first | with_reducible exact hp | with_reducible exact List.mem_append_right _ hp | with_reducible apply List.mem_append_left)) ?_
    | split
    | with_reducible refine forN_touches ?_ (fun x k hx => ?_)
    | with_reducible refine foldl_touches ?_ (fun x a hx => ?_)
    | with_reducible refine foldlSnd_touches ?_ (fun x a hx => ?_)
    | with_reducible assumption
    | with_reducible refine touches_mk (fun f => by cases f <;> first | exact .inr (by with_reducible rfl) | exact .inl (hW _ (by simp [State.plvOpen_foot]))) ?_

/-- The parts State.readItem touches. -/
def State.readItem_foot : List Part := State.readId_foot

theorem State.readItem_touches {W : List Part} {σ τ : State} {acc : Accessor} {x : PlvItem} (hW : ∀ p ∈ State.readItem_foot, p ∈ W)
    (hT : Touches W σ τ) : Touches W σ (State.readItem τ acc x).2 := by
  unfold State.readItem
  try dsimp only
  repeat' first
    | with_reducible apply Touches.iteSnd
    | with_reducible apply Touches.ite
    | with_reducible refine Touches.ofPair (by assumption) (State.readId_touches (fun p hp => hW p (by unfold State.readItem_foot; repeat first | with_reducible exact hp | with_reducible exact List.mem_append_right _ hp | with_reducible apply List.mem_append_left)) ?_)
    | with_reducible refine State.readId_touches (fun p hp => hW p (by unfold State.readItem_foot; repeat first | with_reducible exact hp | with_reducible exact List.mem_append_right _ hp | with_reducible apply List.mem_append_left)) ?_
    | split
    | with_reducible refine forN_touches ?_ (fun x k hx => ?_)
    | with_reducible refine foldl_touches ?_ (fun x a hx => ?_)
    | with_reducible refine foldlSnd_touches ?_ (fun x a hx => ?_)
    | with_reducible assumption

/-- The parts State.writeItem touches. -/
def State.writeItem_foot : List Part := [.fld .sent] ++ State.writeId_foot

theorem State.writeItem_touches {W : List Part} {σ τ : State} {acc : Accessor} {x : PlvItem} (hW : ∀ p ∈ State.writeItem_foot, p ∈ W)
    (hT : Touches W σ τ) : Touches W σ (State.writeItem τ acc x).2 := by
  unfold State.writeItem
  try dsimp only
  repeat' first
    | with_reducible apply Touches.iteSnd
    | with_reducible apply Touches.ite
    | with_reducible refine State.writeId_touches (fun p hp => hW p (by unfold State.writeItem_foot; repeat first | with_reducible exact hp | with_reducible exact List.mem_append_right _ hp | with_reducible apply List.mem_append_left)) ?_
    | with_reducible refine State.send_touches (hW _ (by simp [State.writeItem_foot])) ?_
    | split
    | with_reducible refine forN_touches ?_ (fun x k hx => ?_)
    | with_reducible refine foldl_touches ?_ (fun x a hx => ?_)
    | with_reducible refine foldlSnd_touches ?_ (fun x a hx => ?_)
    | with_reducible assumption

/-- The parts State.subscribeItem touches. -/
def State.subscribeItem_foot : List Part := [.fld .queues]

theorem State.subscribeItem_touches {W : List Part} {σ τ : State} {n : Nat} {on : Bool} {x : PlvItem} (hW : ∀ p ∈ State.subscribeItem_foot, p ∈ W)
    (hT : Touches W σ τ) : Touches W σ (State.subscribeItem τ n on x).2 := by
  unfold State.subscribeItem
  try dsimp only
  repeat' first
    | with_reducible apply Touches.iteSnd
    | with_reducible apply Touches.ite
    | with_reducible refine State.setQueue_touches (hW _ (by simp [State.subscribeItem_foot])) ?_
    | split
    | with_reducible refine forN_touches ?_ (fun x k hx => ?_)
    | with_reducible refine foldl_touches ?_ (fun x a hx => ?_)
    | with_reducible refine foldlSnd_touches ?_ (fun x a hx => ?_)
    | with_reducible assumption

/-- The parts State.plvItem touches. -/
def State.plvItem_foot : List Part := State.readItem_foot ++ State.writeItem_foot ++ State.subscribeItem_foot

theorem State.plvItem_touches {W : List Part} {σ τ : State} {n : Nat} {type : Nat} {x : PlvItem} (hW : ∀ p ∈ State.plvItem_foot, p ∈ W)
    (hT : Touches W σ τ) : Touches W σ (State.plvItem τ n type x).2 := by
  unfold State.plvItem
  try dsimp only
  repeat' first
    | with_reducible apply Touches.iteSnd
    | with_reducible apply Touches.ite
    | with_reducible refine Touches.ofPair (by assumption) (State.readItem_touches (fun p hp => hW p (by unfold State.plvItem_foot; repeat first | with_reducible exact hp | with_reducible exact List.mem_append_right _ hp | with_reducible apply List.mem_append_left)) ?_)
    | with_reducible refine State.readItem_touches (fun p hp => hW p (by unfold State.plvItem_foot; repeat first | with_reducible exact hp | with_reducible exact List.mem_append_right _ hp | with_reducible apply List.mem_append_left)) ?_
    | with_reducible refine Touches.ofPair (by assumption) (State.writeItem_touches (fun p hp => hW p (by unfold State.plvItem_foot; repeat first | with_reducible exact hp | with_reducible exact List.mem_append_right _ hp | with_reducible apply List.mem_append_left)) ?_)
    | with_reducible refine State.writeItem_touches (fun p hp => hW p (by unfold State.plvItem_foot; repeat first | with_reducible exact hp | with_reducible exact List.mem_append_right _ hp | with_reducible apply List.mem_append_left)) ?_
    | with_reducible refine Touches.ofPair (by assumption) (State.subscribeItem_touches (fun p hp => hW p (by unfold State.plvItem_foot; repeat first | with_reducible exact hp | with_reducible exact List.mem_append_right _ hp | with_reducible apply List.mem_append_left)) ?_)
    | with_reducible refine State.subscribeItem_touches (fun p hp => hW p (by unfold State.plvItem_foot; repeat first | with_reducible exact hp | with_reducible exact List.mem_append_right _ hp | with_reducible apply List.mem_append_left)) ?_
    | split
    | with_reducible refine forN_touches ?_ (fun x k hx => ?_)
    | with_reducible refine foldl_touches ?_ (fun x a hx => ?_)
    | with_reducible refine foldlSnd_touches ?_ (fun x a hx => ?_)
    | with_reducible assumption

/-- The parts State.plvItems touches. -/
def State.plvItems_foot : List Part := State.plvItem_foot

theorem State.plvItems_touches {W : List Part} {σ τ : State} {n : Nat} {type : Nat} {xs : List PlvItem} (hW : ∀ p ∈ State.plvItems_foot, p ∈ W)
    (hT : Touches W σ τ) : Touches W σ (State.plvItems τ n type xs).2 := by
  unfold State.plvItems
  try dsimp only
  repeat' first
    | with_reducible apply Touches.iteSnd
    | with_reducible apply Touches.ite
    | with_reducible refine Touches.ofPair (by assumption) (State.plvItem_touches (fun p hp => hW p (by unfold State.plvItems_foot; repeat first | with_reducible exact hp | with_reducible exact List.mem_append_right _ hp | with_reducible apply List.mem_append_left)) ?_)
    | with_reducible refine State.plvItem_touches (fun p hp => hW p (by unfold State.plvItems_foot; repeat first | with_reducible exact hp | with_reducible exact List.mem_append_right _ hp | with_reducible apply List.mem_append_left)) ?_
    | split
    | with_reducible refine forN_touches ?_ (fun x k hx => ?_)
    | with_reducible refine foldl_touches ?_ (fun x a hx => ?_)
    | with_reducible refine foldlSnd_touches ?_ (fun x a hx => ?_)
    | with_reducible assumption

/-- The parts State.afterMessage touches. -/
def State.afterMessage_foot : List Part := [.reg .iPLV_RESET, .reg .iPLV_CLOSE, .reg .iPLV_CUR] ++ State.closeNow_foot ++ State.warmRestart_foot ++ State.deviceReset_foot

theorem State.afterMessage_touches {W : List Part} {σ τ : State} {n : Nat} (hW : ∀ p ∈ State.afterMessage_foot, p ∈ W)
    (hT : Touches W σ τ) : Touches W σ (State.afterMessage τ n) := by
  unfold State.afterMessage
  try dsimp only
  repeat' first
    | with_reducible apply Touches.ite
    | with_reducible refine State.setReg_touches (hW _ (by first | (simp [State.afterMessage_foot]; done) | (split <;> simp [State.afterMessage_foot] <;> done) | ((repeat' split) <;> simp [State.afterMessage_foot])))  ?_
    | with_reducible refine cond_touches ?_ (fun x hx => ?_)
    | with_reducible refine State.closeNow_touches (fun p hp => hW p (by unfold State.afterMessage_foot; repeat first | with_reducible exact hp | with_reducible exact List.mem_append_right _ hp | with_reducible apply List.mem_append_left)) ?_
    | with_reducible refine State.warmRestart_touches (fun p hp => hW p (by unfold State.afterMessage_foot; repeat first | with_reducible exact hp | with_reducible exact List.mem_append_right _ hp | with_reducible apply List.mem_append_left)) ?_
    | with_reducible refine State.deviceReset_touches (fun p hp => hW p (by unfold State.afterMessage_foot; repeat first | with_reducible exact hp | with_reducible exact List.mem_append_right _ hp | with_reducible apply List.mem_append_left)) ?_
    | split
    | with_reducible refine forN_touches ?_ (fun x k hx => ?_)
    | with_reducible refine foldl_touches ?_ (fun x a hx => ?_)
    | with_reducible refine foldlSnd_touches ?_ (fun x a hx => ?_)
    | with_reducible assumption

/-- The parts State.perform touches. -/
def State.perform_foot : List Part := [.reg .iPLV_CUR, .reg .iSS_SEQ, .reg .iPLV_CLOSE, .fld .responses] ++ State.plvItems_foot ++ State.sendPlv_foot ++ State.afterMessage_foot

theorem State.perform_touches {W : List Part} {σ τ : State} {h : PlvHead} {xs : List PlvItem} (hW : ∀ p ∈ State.perform_foot, p ∈ W)
    (hT : Touches W σ τ) : Touches W σ (State.perform τ h xs) := by
  unfold State.perform
  try dsimp only
  repeat' first
    | with_reducible apply Touches.ite
    | with_reducible refine State.setReg_touches (hW _ (by first | (simp [State.perform_foot]; done) | (split <;> simp [State.perform_foot] <;> done) | ((repeat' split) <;> simp [State.perform_foot])))  ?_
    | with_reducible refine Touches.ofPair (by assumption) (State.plvItems_touches (fun p hp => hW p (by unfold State.perform_foot; repeat first | with_reducible exact hp | with_reducible exact List.mem_append_right _ hp | with_reducible apply List.mem_append_left)) ?_)
    | with_reducible refine State.plvItems_touches (fun p hp => hW p (by unfold State.perform_foot; repeat first | with_reducible exact hp | with_reducible exact List.mem_append_right _ hp | with_reducible apply List.mem_append_left)) ?_
    | with_reducible refine State.sendPlv_touches (fun p hp => hW p (by unfold State.perform_foot; repeat first | with_reducible exact hp | with_reducible exact List.mem_append_right _ hp | with_reducible apply List.mem_append_left)) ?_
    | with_reducible refine State.afterMessage_touches (fun p hp => hW p (by unfold State.perform_foot; repeat first | with_reducible exact hp | with_reducible exact List.mem_append_right _ hp | with_reducible apply List.mem_append_left)) ?_
    | with_reducible refine cond_touches ?_ (fun x hx => ?_)
    | split
    | with_reducible refine forN_touches ?_ (fun x k hx => ?_)
    | with_reducible refine foldl_touches ?_ (fun x a hx => ?_)
    | with_reducible refine foldlSnd_touches ?_ (fun x a hx => ?_)
    | with_reducible assumption
    | with_reducible refine touches_mk (fun f => by cases f <;> first | exact .inr (by with_reducible rfl) | exact .inl (hW _ (by simp [State.perform_foot]))) ?_

/-- The parts State.plvRequest touches. -/
def State.plvRequest_foot : List Part := [.reg .SS_PEER, .reg .iSS_MAC, .reg .iSS_FROM, .reg .iSS_SEEN, .reg .PLV_BAD_SEQ, .fld .heldRequests] ++ State.perform_foot ++ State.sendPlv_foot

theorem State.plvRequest_touches {W : List Part} {σ τ : State} {from_ : Nat} {mac : Nat} {peer : List Byte} {h : PlvHead} {xs : List PlvItem} {raw : List Byte} (hW : ∀ p ∈ State.plvRequest_foot, p ∈ W)
    (hT : Touches W σ τ) : Touches W σ (State.plvRequest τ from_ mac peer h xs raw) := by
  unfold State.plvRequest
  try dsimp only
  repeat' first
    | with_reducible apply Touches.ite
    | with_reducible refine State.setReg_touches (hW _ (by first | (simp [State.plvRequest_foot]; done) | (split <;> simp [State.plvRequest_foot] <;> done) | ((repeat' split) <;> simp [State.plvRequest_foot])))  ?_
    | with_reducible refine State.perform_touches (fun p hp => hW p (by unfold State.plvRequest_foot; repeat first | with_reducible exact hp | with_reducible exact List.mem_append_right _ hp | with_reducible apply List.mem_append_left)) ?_
    | with_reducible refine State.sendPlv_touches (fun p hp => hW p (by unfold State.plvRequest_foot; repeat first | with_reducible exact hp | with_reducible exact List.mem_append_right _ hp | with_reducible apply List.mem_append_left)) ?_
    | with_reducible refine State.bump_touches (hW _ (by first | (simp [State.plvRequest_foot]; done) | (split <;> simp [State.plvRequest_foot] <;> done) | ((repeat' split) <;> simp [State.plvRequest_foot])))  ?_
    | split
    | with_reducible refine forN_touches ?_ (fun x k hx => ?_)
    | with_reducible refine foldl_touches ?_ (fun x a hx => ?_)
    | with_reducible refine foldlSnd_touches ?_ (fun x a hx => ?_)
    | with_reducible assumption
    | with_reducible refine touches_mk (fun f => by cases f <;> first | exact .inr (by with_reducible rfl) | exact .inl (hW _ (by simp [State.plvRequest_foot]))) ?_

/-- The parts State.plvDatagram touches. -/
def State.plvDatagram_foot : List Part := [.reg .PLV_BAD_MSG, .reg .PLV_BAD_AUTH] ++ State.plvOpen_foot ++ State.plvRequest_foot

theorem State.plvDatagram_touches {W : List Part} {σ τ : State} {from_ : Nat} {mac : Nat} {peer : List Byte} {p : List Byte} (hW : ∀ p ∈ State.plvDatagram_foot, p ∈ W)
    (hT : Touches W σ τ) : Touches W σ (State.plvDatagram τ from_ mac peer p) := by
  unfold State.plvDatagram
  try dsimp only
  repeat' first
    | with_reducible apply Touches.ite
    | with_reducible refine State.bump_touches (hW _ (by first | (simp [State.plvDatagram_foot]; done) | (split <;> simp [State.plvDatagram_foot] <;> done) | ((repeat' split) <;> simp [State.plvDatagram_foot])))  ?_
    | with_reducible refine State.plvOpen_touches (fun p hp => hW p (by unfold State.plvDatagram_foot; repeat first | with_reducible exact hp | with_reducible exact List.mem_append_right _ hp | with_reducible apply List.mem_append_left)) ?_
    | with_reducible refine State.plvRequest_touches (fun p hp => hW p (by unfold State.plvDatagram_foot; repeat first | with_reducible exact hp | with_reducible exact List.mem_append_right _ hp | with_reducible apply List.mem_append_left)) ?_
    | split
    | with_reducible refine forN_touches ?_ (fun x k hx => ?_)
    | with_reducible refine foldl_touches ?_ (fun x a hx => ?_)
    | with_reducible refine foldlSnd_touches ?_ (fun x a hx => ?_)
    | with_reducible assumption

/-- The parts State.plvCommand touches. -/
def State.plvCommand_foot : List Part := [.fld .macs, .fld .sent] ++ State.plvDatagram_foot

theorem State.plvCommand_touches {W : List Part} {σ τ : State} {type : Nat} {port : Fin 2} {sub : Fin 4} {mac : BitVec 48} {src : BitVec 128} {srcPort : BitVec 16} {p : List Byte} (hW : ∀ p ∈ State.plvCommand_foot, p ∈ W)
    (hT : Touches W σ τ) : Touches W σ (State.plvCommand τ type port sub mac src srcPort p) := by
  unfold State.plvCommand
  try dsimp only
  repeat' first
    | with_reducible apply Touches.ite
    | with_reducible refine State.plvDatagram_touches (fun p hp => hW p (by unfold State.plvCommand_foot; repeat first | with_reducible exact hp | with_reducible exact List.mem_append_right _ hp | with_reducible apply List.mem_append_left)) ?_
    | with_reducible refine State.send_touches (hW _ (by simp [State.plvCommand_foot])) ?_
    | split
    | with_reducible refine forN_touches ?_ (fun x k hx => ?_)
    | with_reducible refine foldl_touches ?_ (fun x a hx => ?_)
    | with_reducible refine foldlSnd_touches ?_ (fun x a hx => ?_)
    | with_reducible assumption
    | with_reducible refine touches_mk (fun f => by cases f <;> first | exact .inr (by with_reducible rfl) | exact .inl (hW _ (by simp [State.plvCommand_foot]))) ?_

/-- The parts execPlovanOpen touches. -/
def execPlovanOpen_foot : List Part := State.plvCommand_foot

theorem execPlovanOpen_touches {W : List Part} {σ τ : State} {port : Fin 2} {sub : Fin 4} {mac : BitVec 48} {src : BitVec 128} {srcPort : BitVec 16} {p : List Byte} (hW : ∀ p ∈ execPlovanOpen_foot, p ∈ W)
    (hT : Touches W σ τ) : OutTouches W σ (execPlovanOpen port sub mac src srcPort p τ) := by
  unfold execPlovanOpen
  try dsimp only
  repeat' first
    | with_reducible apply OutTouches.ite
    | with_reducible refine OutTouches.next ?_
    | with_reducible apply Touches.ite
    | with_reducible refine State.plvCommand_touches (fun p hp => hW p (by unfold execPlovanOpen_foot; repeat first | with_reducible exact hp | with_reducible exact List.mem_append_right _ hp | with_reducible apply List.mem_append_left)) ?_
    | split
    | with_reducible refine forN_touches ?_ (fun x k hx => ?_)
    | with_reducible refine foldl_touches ?_ (fun x a hx => ?_)
    | with_reducible refine foldlSnd_touches ?_ (fun x a hx => ?_)
    | with_reducible assumption

/-- The parts execPlovanClose touches. -/
def execPlovanClose_foot : List Part := State.plvCommand_foot

theorem execPlovanClose_touches {W : List Part} {σ τ : State} {port : Fin 2} {sub : Fin 4} {mac : BitVec 48} {src : BitVec 128} {srcPort : BitVec 16} {p : List Byte} (hW : ∀ p ∈ execPlovanClose_foot, p ∈ W)
    (hT : Touches W σ τ) : OutTouches W σ (execPlovanClose port sub mac src srcPort p τ) := by
  unfold execPlovanClose
  try dsimp only
  repeat' first
    | with_reducible apply OutTouches.ite
    | with_reducible refine OutTouches.next ?_
    | with_reducible apply Touches.ite
    | with_reducible refine State.plvCommand_touches (fun p hp => hW p (by unfold execPlovanClose_foot; repeat first | with_reducible exact hp | with_reducible exact List.mem_append_right _ hp | with_reducible apply List.mem_append_left)) ?_
    | split
    | with_reducible refine forN_touches ?_ (fun x k hx => ?_)
    | with_reducible refine foldl_touches ?_ (fun x a hx => ?_)
    | with_reducible refine foldlSnd_touches ?_ (fun x a hx => ?_)
    | with_reducible assumption

/-- The parts execPlovanKeepalive touches. -/
def execPlovanKeepalive_foot : List Part := State.plvCommand_foot

theorem execPlovanKeepalive_touches {W : List Part} {σ τ : State} {port : Fin 2} {sub : Fin 4} {mac : BitVec 48} {src : BitVec 128} {srcPort : BitVec 16} {p : List Byte} (hW : ∀ p ∈ execPlovanKeepalive_foot, p ∈ W)
    (hT : Touches W σ τ) : OutTouches W σ (execPlovanKeepalive port sub mac src srcPort p τ) := by
  unfold execPlovanKeepalive
  try dsimp only
  repeat' first
    | with_reducible apply OutTouches.ite
    | with_reducible refine OutTouches.next ?_
    | with_reducible apply Touches.ite
    | with_reducible refine State.plvCommand_touches (fun p hp => hW p (by unfold execPlovanKeepalive_foot; repeat first | with_reducible exact hp | with_reducible exact List.mem_append_right _ hp | with_reducible apply List.mem_append_left)) ?_
    | split
    | with_reducible refine forN_touches ?_ (fun x k hx => ?_)
    | with_reducible refine foldl_touches ?_ (fun x a hx => ?_)
    | with_reducible refine foldlSnd_touches ?_ (fun x a hx => ?_)
    | with_reducible assumption

/-- The parts execPlovanRead touches. -/
def execPlovanRead_foot : List Part := State.plvCommand_foot

theorem execPlovanRead_touches {W : List Part} {σ τ : State} {port : Fin 2} {sub : Fin 4} {mac : BitVec 48} {src : BitVec 128} {srcPort : BitVec 16} {p : List Byte} (hW : ∀ p ∈ execPlovanRead_foot, p ∈ W)
    (hT : Touches W σ τ) : OutTouches W σ (execPlovanRead port sub mac src srcPort p τ) := by
  unfold execPlovanRead
  try dsimp only
  repeat' first
    | with_reducible apply OutTouches.ite
    | with_reducible refine OutTouches.next ?_
    | with_reducible apply Touches.ite
    | with_reducible refine State.plvCommand_touches (fun p hp => hW p (by unfold execPlovanRead_foot; repeat first | with_reducible exact hp | with_reducible exact List.mem_append_right _ hp | with_reducible apply List.mem_append_left)) ?_
    | split
    | with_reducible refine forN_touches ?_ (fun x k hx => ?_)
    | with_reducible refine foldl_touches ?_ (fun x a hx => ?_)
    | with_reducible refine foldlSnd_touches ?_ (fun x a hx => ?_)
    | with_reducible assumption

/-- The parts execPlovanWrite touches. -/
def execPlovanWrite_foot : List Part := State.plvCommand_foot

theorem execPlovanWrite_touches {W : List Part} {σ τ : State} {port : Fin 2} {sub : Fin 4} {mac : BitVec 48} {src : BitVec 128} {srcPort : BitVec 16} {p : List Byte} (hW : ∀ p ∈ execPlovanWrite_foot, p ∈ W)
    (hT : Touches W σ τ) : OutTouches W σ (execPlovanWrite port sub mac src srcPort p τ) := by
  unfold execPlovanWrite
  try dsimp only
  repeat' first
    | with_reducible apply OutTouches.ite
    | with_reducible refine OutTouches.next ?_
    | with_reducible apply Touches.ite
    | with_reducible refine State.plvCommand_touches (fun p hp => hW p (by unfold execPlovanWrite_foot; repeat first | with_reducible exact hp | with_reducible exact List.mem_append_right _ hp | with_reducible apply List.mem_append_left)) ?_
    | split
    | with_reducible refine forN_touches ?_ (fun x k hx => ?_)
    | with_reducible refine foldl_touches ?_ (fun x a hx => ?_)
    | with_reducible refine foldlSnd_touches ?_ (fun x a hx => ?_)
    | with_reducible assumption

/-- The parts execPlovanDescribe touches. -/
def execPlovanDescribe_foot : List Part := State.plvCommand_foot

theorem execPlovanDescribe_touches {W : List Part} {σ τ : State} {port : Fin 2} {sub : Fin 4} {mac : BitVec 48} {src : BitVec 128} {srcPort : BitVec 16} {p : List Byte} (hW : ∀ p ∈ execPlovanDescribe_foot, p ∈ W)
    (hT : Touches W σ τ) : OutTouches W σ (execPlovanDescribe port sub mac src srcPort p τ) := by
  unfold execPlovanDescribe
  try dsimp only
  repeat' first
    | with_reducible apply OutTouches.ite
    | with_reducible refine OutTouches.next ?_
    | with_reducible apply Touches.ite
    | with_reducible refine State.plvCommand_touches (fun p hp => hW p (by unfold execPlovanDescribe_foot; repeat first | with_reducible exact hp | with_reducible exact List.mem_append_right _ hp | with_reducible apply List.mem_append_left)) ?_
    | split
    | with_reducible refine forN_touches ?_ (fun x k hx => ?_)
    | with_reducible refine foldl_touches ?_ (fun x a hx => ?_)
    | with_reducible refine foldlSnd_touches ?_ (fun x a hx => ?_)
    | with_reducible assumption

/-- The parts execPlovanSubscribe touches. -/
def execPlovanSubscribe_foot : List Part := State.plvCommand_foot

theorem execPlovanSubscribe_touches {W : List Part} {σ τ : State} {port : Fin 2} {sub : Fin 4} {mac : BitVec 48} {src : BitVec 128} {srcPort : BitVec 16} {p : List Byte} (hW : ∀ p ∈ execPlovanSubscribe_foot, p ∈ W)
    (hT : Touches W σ τ) : OutTouches W σ (execPlovanSubscribe port sub mac src srcPort p τ) := by
  unfold execPlovanSubscribe
  try dsimp only
  repeat' first
    | with_reducible apply OutTouches.ite
    | with_reducible refine OutTouches.next ?_
    | with_reducible apply Touches.ite
    | with_reducible refine State.plvCommand_touches (fun p hp => hW p (by unfold execPlovanSubscribe_foot; repeat first | with_reducible exact hp | with_reducible exact List.mem_append_right _ hp | with_reducible apply List.mem_append_left)) ?_
    | split
    | with_reducible refine forN_touches ?_ (fun x k hx => ?_)
    | with_reducible refine foldl_touches ?_ (fun x a hx => ?_)
    | with_reducible refine foldlSnd_touches ?_ (fun x a hx => ?_)
    | with_reducible assumption

/-- The parts execPlovanUnsubscribe touches. -/
def execPlovanUnsubscribe_foot : List Part := State.plvCommand_foot

theorem execPlovanUnsubscribe_touches {W : List Part} {σ τ : State} {port : Fin 2} {sub : Fin 4} {mac : BitVec 48} {src : BitVec 128} {srcPort : BitVec 16} {p : List Byte} (hW : ∀ p ∈ execPlovanUnsubscribe_foot, p ∈ W)
    (hT : Touches W σ τ) : OutTouches W σ (execPlovanUnsubscribe port sub mac src srcPort p τ) := by
  unfold execPlovanUnsubscribe
  try dsimp only
  repeat' first
    | with_reducible apply OutTouches.ite
    | with_reducible refine OutTouches.next ?_
    | with_reducible apply Touches.ite
    | with_reducible refine State.plvCommand_touches (fun p hp => hW p (by unfold execPlovanUnsubscribe_foot; repeat first | with_reducible exact hp | with_reducible exact List.mem_append_right _ hp | with_reducible apply List.mem_append_left)) ?_
    | split
    | with_reducible refine forN_touches ?_ (fun x k hx => ?_)
    | with_reducible refine foldl_touches ?_ (fun x a hx => ?_)
    | with_reducible refine foldlSnd_touches ?_ (fun x a hx => ?_)
    | with_reducible assumption

end Sys2Proof.Machine
end

