-- ==== Sys2Proof/Laws/TouchesStartup.lean ====
section
/-! SUPPORT. What the functions of Machine/Startup.lean touch. -/
namespace Sys2Proof.Machine
set_option linter.all false

/-- The parts State.toRecovery touches. -/
def State.toRecovery_foot : List Part := [.reg .SO_OUT_STATE, .reg .iPHASE, .reg .iG_RUN, .reg .FW_RUNNING, .reg .FW_STATE, .reg .FW_VERSION, .fld .requeued, .fld .tileQueue, .fld .held, .fld .draws] ++ State.setLane_foot ++ State.haltLane_foot

theorem State.toRecovery_touches {W : List Part} {σ τ : State}  (hW : ∀ p ∈ State.toRecovery_foot, p ∈ W)
    (hT : Touches W σ τ) : Touches W σ (State.toRecovery τ) := by
  unfold State.toRecovery
  try dsimp only
  repeat' first
    | with_reducible apply Touches.ite
    | with_reducible refine State.setReg_touches (hW _ (by first | (simp [State.toRecovery_foot]; done) | (split <;> simp [State.toRecovery_foot] <;> done) | ((repeat' split) <;> simp [State.toRecovery_foot])))  ?_
    | with_reducible refine State.setLane_touches (fun p hp => hW p (by unfold State.toRecovery_foot; repeat first | with_reducible exact hp | with_reducible exact List.mem_append_right _ hp | with_reducible apply List.mem_append_left)) ?_
    | with_reducible refine State.haltLane_touches (fun p hp => hW p (by unfold State.toRecovery_foot; repeat first | with_reducible exact hp | with_reducible exact List.mem_append_right _ hp | with_reducible apply List.mem_append_left)) ?_
    | with_reducible refine State.draw_touches (hW _ (by simp [State.toRecovery_foot])) ?_
    | with_reducible refine Touches.ofPair (by assumption) (State.draw_touches (hW _ (by simp [State.toRecovery_foot])) ?_)
    | split
    | with_reducible refine forN_touches ?_ (fun x k hx => ?_)
    | with_reducible refine foldl_touches ?_ (fun x a hx => ?_)
    | with_reducible refine foldlSnd_touches ?_ (fun x a hx => ?_)
    | with_reducible assumption
    | with_reducible refine touches_mk (fun f => by cases f <;> first | exact .inr (by with_reducible rfl) | exact .inl (hW _ (by simp [State.toRecovery_foot]))) ?_

/-- The parts State.showImage touches. -/
def State.showImage_foot : List Part := [.reg .iTRIAL_NS, .reg .FW_PROG_ADDR, .reg .FW_PROG_LEN, .reg .FW_VERSION, .reg .FW_RUNNING, .reg .FW_STATE, .fld .draws]

theorem State.showImage_touches {W : List Part} {σ τ : State}  (hW : ∀ p ∈ State.showImage_foot, p ∈ W)
    (hT : Touches W σ τ) : Touches W σ (State.showImage τ) := by
  unfold State.showImage
  try dsimp only
  repeat' first
    | with_reducible apply Touches.ite
    | with_reducible refine State.draw_touches (hW _ (by simp [State.showImage_foot])) ?_
    | with_reducible refine Touches.ofPair (by assumption) (State.draw_touches (hW _ (by simp [State.showImage_foot])) ?_)
    | with_reducible refine State.setReg_touches (hW _ (by first | (simp [State.showImage_foot]; done) | (split <;> simp [State.showImage_foot] <;> done) | ((repeat' split) <;> simp [State.showImage_foot])))  ?_
    | split
    | with_reducible refine forN_touches ?_ (fun x k hx => ?_)
    | with_reducible refine foldl_touches ?_ (fun x a hx => ?_)
    | with_reducible refine foldlSnd_touches ?_ (fun x a hx => ?_)
    | with_reducible assumption

/-- The parts State.syncEnable touches. -/
def State.syncEnable_foot : List Part := []

theorem State.syncEnable_touches {W : List Part} {σ τ : State} {enable : Reg} {state : Reg} {idle : Nat} {off : Nat} {i : Nat}
    (h_enable : Part.reg enable ∈ W) (h_state : Part.reg state ∈ W) (hW : ∀ p ∈ State.syncEnable_foot, p ∈ W)
    (hT : Touches W σ τ) : Touches W σ (State.syncEnable τ enable state idle off i) := by
  unfold State.syncEnable
  try dsimp only
  repeat' first
    | with_reducible apply Touches.ite
    | with_reducible refine State.setReg_touches (by first | assumption | exact (hW _ (by first | (simp [State.syncEnable_foot]; done) | (split <;> simp [State.syncEnable_foot] <;> done) | ((repeat' split) <;> simp [State.syncEnable_foot]))))  ?_
    | split
    | with_reducible refine forN_touches ?_ (fun x k hx => ?_)
    | with_reducible refine foldl_touches ?_ (fun x a hx => ?_)
    | with_reducible refine foldlSnd_touches ?_ (fun x a hx => ?_)
    | with_reducible assumption

/-- The parts State.syncEnables touches. -/
def State.syncEnables_foot : List Part := [.reg .GC_ENABLE, .reg .GC_STATE, .reg .LC_ENABLE, .reg .LC_STATE, .reg .SK_ENABLE, .reg .SK_STATE, .reg .SC_STATE, .reg .MS_INIT_STATE, .reg .INS_ENABLE, .reg .INS_STATE] ++ State.syncEnable_foot

theorem State.syncEnables_touches {W : List Part} {σ τ : State}  (hW : ∀ p ∈ State.syncEnables_foot, p ∈ W)
    (hT : Touches W σ τ) : Touches W σ (State.syncEnables τ) := by
  unfold State.syncEnables
  try dsimp only
  repeat' first
    | with_reducible apply Touches.ite
    | with_reducible refine State.syncEnable_touches (hW _ (by first | (simp [State.syncEnables_foot]; done) | (split <;> simp [State.syncEnables_foot] <;> done) | ((repeat' split) <;> simp [State.syncEnables_foot]))) (hW _ (by first | (simp [State.syncEnables_foot]; done) | (split <;> simp [State.syncEnables_foot] <;> done) | ((repeat' split) <;> simp [State.syncEnables_foot]))) (fun p hp => hW p (by unfold State.syncEnables_foot; repeat first | with_reducible exact hp | with_reducible exact List.mem_append_right _ hp | with_reducible apply List.mem_append_left)) ?_
    | with_reducible refine State.setReg_touches (hW _ (by first | (simp [State.syncEnables_foot]; done) | (split <;> simp [State.syncEnables_foot] <;> done) | ((repeat' split) <;> simp [State.syncEnables_foot])))  ?_
    | split
    | with_reducible refine forN_touches ?_ (fun x k hx => ?_)
    | with_reducible refine foldl_touches ?_ (fun x a hx => ?_)
    | with_reducible refine foldlSnd_touches ?_ (fun x a hx => ?_)
    | with_reducible assumption

/-- The parts State.publishBudgets touches. -/
def State.publishBudgets_foot : List Part := [.reg .ADM_BUDGET_BYTES, .reg .ADM_BUDGET_DEC, .reg .ADM_BUDGET_SAMP, .reg .ADM_BUDGET_OPS] ++ State.publish32_foot

theorem State.publishBudgets_touches {W : List Part} {σ τ : State} {surf : Nat} (hW : ∀ p ∈ State.publishBudgets_foot, p ∈ W)
    (hT : Touches W σ τ) : Touches W σ (State.publishBudgets τ surf) := by
  unfold State.publishBudgets
  try dsimp only
  repeat' first
    | with_reducible apply Touches.ite
    | with_reducible refine State.publish32_touches (hW _ (by first | (simp [State.publishBudgets_foot]; done) | (split <;> simp [State.publishBudgets_foot] <;> done) | ((repeat' split) <;> simp [State.publishBudgets_foot]))) (fun p hp => hW p (by unfold State.publishBudgets_foot; repeat first | with_reducible exact hp | with_reducible exact List.mem_append_right _ hp | with_reducible apply List.mem_append_left)) ?_
    | split
    | with_reducible refine forN_touches ?_ (fun x k hx => ?_)
    | with_reducible refine foldl_touches ?_ (fun x a hx => ?_)
    | with_reducible refine foldlSnd_touches ?_ (fun x a hx => ?_)
    | with_reducible assumption

/-- The parts State.startCosts touches. -/
def State.startCosts_foot : List Part := State.publishBudgets_foot ++ State.refreshCost_foot

theorem State.startCosts_touches {W : List Part} {σ τ : State} {surf : Nat} (hW : ∀ p ∈ State.startCosts_foot, p ∈ W)
    (hT : Touches W σ τ) : Touches W σ (State.startCosts τ surf) := by
  unfold State.startCosts
  try dsimp only
  repeat' first
    | with_reducible apply Touches.ite
    | with_reducible refine State.publishBudgets_touches (fun p hp => hW p (by unfold State.startCosts_foot; repeat first | with_reducible exact hp | with_reducible exact List.mem_append_right _ hp | with_reducible apply List.mem_append_left)) ?_
    | with_reducible refine State.refreshCost_touches (fun p hp => hW p (by unfold State.startCosts_foot; repeat first | with_reducible exact hp | with_reducible exact List.mem_append_right _ hp | with_reducible apply List.mem_append_left)) ?_
    | split
    | with_reducible refine forN_touches ?_ (fun x k hx => ?_)
    | with_reducible refine foldl_touches ?_ (fun x a hx => ?_)
    | with_reducible refine foldlSnd_touches ?_ (fun x a hx => ?_)
    | with_reducible assumption

/-- The parts State.refreshAll touches. -/
def State.refreshAll_foot : List Part := State.refreshTiming_foot ++ State.refreshTaps_foot ++ State.refreshNext_foot ++ State.selectMaster_foot ++ State.showServo_foot ++ State.loadComparators_foot ++ State.seamPolicy_foot

theorem State.refreshAll_touches {W : List Part} {σ τ : State}  (hW : ∀ p ∈ State.refreshAll_foot, p ∈ W)
    (hT : Touches W σ τ) : Touches W σ (State.refreshAll τ) := by
  unfold State.refreshAll
  try dsimp only
  repeat' first
    | with_reducible apply Touches.ite
    | with_reducible refine State.refreshTiming_touches (fun p hp => hW p (by unfold State.refreshAll_foot; repeat first | with_reducible exact hp | with_reducible exact List.mem_append_right _ hp | with_reducible apply List.mem_append_left)) ?_
    | with_reducible refine State.refreshTaps_touches (fun p hp => hW p (by unfold State.refreshAll_foot; repeat first | with_reducible exact hp | with_reducible exact List.mem_append_right _ hp | with_reducible apply List.mem_append_left)) ?_
    | with_reducible refine State.refreshNext_touches (fun p hp => hW p (by unfold State.refreshAll_foot; repeat first | with_reducible exact hp | with_reducible exact List.mem_append_right _ hp | with_reducible apply List.mem_append_left)) ?_
    | with_reducible refine State.selectMaster_touches (fun p hp => hW p (by unfold State.refreshAll_foot; repeat first | with_reducible exact hp | with_reducible exact List.mem_append_right _ hp | with_reducible apply List.mem_append_left)) ?_
    | with_reducible refine State.showServo_touches (fun p hp => hW p (by unfold State.refreshAll_foot; repeat first | with_reducible exact hp | with_reducible exact List.mem_append_right _ hp | with_reducible apply List.mem_append_left)) ?_
    | with_reducible refine State.loadComparators_touches (fun p hp => hW p (by unfold State.refreshAll_foot; repeat first | with_reducible exact hp | with_reducible exact List.mem_append_right _ hp | with_reducible apply List.mem_append_left)) ?_
    | with_reducible refine State.seamPolicy_touches (fun p hp => hW p (by unfold State.refreshAll_foot; repeat first | with_reducible exact hp | with_reducible exact List.mem_append_right _ hp | with_reducible apply List.mem_append_left)) ?_
    | split
    | with_reducible refine forN_touches ?_ (fun x k hx => ?_)
    | with_reducible refine foldl_touches ?_ (fun x a hx => ?_)
    | with_reducible refine foldlSnd_touches ?_ (fun x a hx => ?_)
    | with_reducible assumption

/-- The parts State.startClusters touches. -/
def State.startClusters_foot : List Part := [.reg .PG_K, .reg .PG_VERSION, .reg .PG_STATE, .reg .iFENCE_HOST, .reg .CL_PROG_SLOT] ++ State.refreshFences_foot ++ State.setCluster_foot ++ State.fenceCluster_foot

theorem State.startClusters_touches {W : List Part} {σ τ : State} {version : Nat} {k : Nat} {failed : Nat} (hW : ∀ p ∈ State.startClusters_foot, p ∈ W)
    (hT : Touches W σ τ) : Touches W σ (State.startClusters τ version k failed) := by
  unfold State.startClusters
  try dsimp only
  repeat' first
    | with_reducible apply Touches.ite
    | with_reducible refine State.setReg_touches (hW _ (by first | (simp [State.startClusters_foot]; done) | (split <;> simp [State.startClusters_foot] <;> done) | ((repeat' split) <;> simp [State.startClusters_foot])))  ?_
    | with_reducible refine State.refreshFences_touches (fun p hp => hW p (by unfold State.startClusters_foot; repeat first | with_reducible exact hp | with_reducible exact List.mem_append_right _ hp | with_reducible apply List.mem_append_left)) ?_
    | with_reducible refine State.setCluster_touches (fun p hp => hW p (by unfold State.startClusters_foot; repeat first | with_reducible exact hp | with_reducible exact List.mem_append_right _ hp | with_reducible apply List.mem_append_left)) ?_
    | with_reducible refine State.fenceCluster_touches (fun p hp => hW p (by unfold State.startClusters_foot; repeat first | with_reducible exact hp | with_reducible exact List.mem_append_right _ hp | with_reducible apply List.mem_append_left)) ?_
    | split
    | with_reducible refine forN_touches ?_ (fun x k hx => ?_)
    | with_reducible refine foldl_touches ?_ (fun x a hx => ?_)
    | with_reducible refine foldlSnd_touches ?_ (fun x a hx => ?_)
    | with_reducible assumption

/-- The parts State.startSurface touches. -/
def State.startSurface_foot : List Part := [.reg .CMT_DARK_LEFT, .reg .iSTARTUP_OVER, .reg .iSTARTUP, .reg .SO_OUT_STATE] ++ State.bringUp_foot

theorem State.startSurface_touches {W : List Part} {σ τ : State} {surf : Nat} (hW : ∀ p ∈ State.startSurface_foot, p ∈ W)
    (hT : Touches W σ τ) : Touches W σ (State.startSurface τ surf) := by
  unfold State.startSurface
  try dsimp only
  repeat' first
    | with_reducible apply Touches.ite
    | with_reducible refine State.bringUp_touches (fun p hp => hW p (by unfold State.startSurface_foot; repeat first | with_reducible exact hp | with_reducible exact List.mem_append_right _ hp | with_reducible apply List.mem_append_left)) ?_
    | with_reducible refine State.setReg_touches (hW _ (by first | (simp [State.startSurface_foot]; done) | (split <;> simp [State.startSurface_foot] <;> done) | ((repeat' split) <;> simp [State.startSurface_foot])))  ?_
    | split
    | with_reducible refine forN_touches ?_ (fun x k hx => ?_)
    | with_reducible refine foldl_touches ?_ (fun x a hx => ?_)
    | with_reducible refine foldlSnd_touches ?_ (fun x a hx => ?_)
    | with_reducible assumption

/-- The parts State.reportShutdown touches. -/
def State.reportShutdown_foot : List Part := [.reg .TH_SHUTDOWNS, .reg .iSHUT_OWED, .reg .TH_LAST_PEAK, .fld .keepPending] ++ State.raise_foot

theorem State.reportShutdown_touches {W : List Part} {σ τ : State}  (hW : ∀ p ∈ State.reportShutdown_foot, p ∈ W)
    (hT : Touches W σ τ) : Touches W σ (State.reportShutdown τ) := by
  unfold State.reportShutdown
  try dsimp only
  repeat' first
    | with_reducible apply Touches.ite
    | with_reducible refine State.noteKeep_touches (hW _ (by simp [State.reportShutdown_foot])) ?_
    | with_reducible refine State.bump_touches (hW _ (by first | (simp [State.reportShutdown_foot]; done) | (split <;> simp [State.reportShutdown_foot] <;> done) | ((repeat' split) <;> simp [State.reportShutdown_foot])))  ?_
    | with_reducible refine State.setReg_touches (hW _ (by first | (simp [State.reportShutdown_foot]; done) | (split <;> simp [State.reportShutdown_foot] <;> done) | ((repeat' split) <;> simp [State.reportShutdown_foot])))  ?_
    | with_reducible refine State.raise_touches (fun p hp => hW p (by unfold State.reportShutdown_foot; repeat first | with_reducible exact hp | with_reducible exact List.mem_append_right _ hp | with_reducible apply List.mem_append_left)) ?_
    | with_reducible refine State.putReg_touches (hW _ (by first | (simp [State.reportShutdown_foot]; done) | (split <;> simp [State.reportShutdown_foot] <;> done) | ((repeat' split) <;> simp [State.reportShutdown_foot]))) (hW _ (by simp [State.reportShutdown_foot])) ?_
    | split
    | with_reducible refine forN_touches ?_ (fun x k hx => ?_)
    | with_reducible refine foldl_touches ?_ (fun x a hx => ?_)
    | with_reducible refine foldlSnd_touches ?_ (fun x a hx => ?_)
    | with_reducible assumption

/-- The parts State.firstRunning touches. -/
def State.firstRunning_foot : List Part := [.reg .iG_RUN, .reg .iRUN_AT, .reg .iRUN_NS, .reg .iPHASE] ++ State.showImage_foot ++ State.refreshAll_foot ++ State.syncEnables_foot ++ State.startClusters_foot ++ State.announceGroups_foot ++ State.startCosts_foot ++ State.startSurface_foot ++ State.reportShutdown_foot ++ State.writeLife_foot

theorem State.firstRunning_touches {W : List Part} {σ τ : State} {version : Nat} {k : Nat} {failed : Nat} (hW : ∀ p ∈ State.firstRunning_foot, p ∈ W)
    (hT : Touches W σ τ) : Touches W σ (State.firstRunning τ version k failed) := by
  unfold State.firstRunning
  try dsimp only
  repeat' first
    | with_reducible apply Touches.ite
    | with_reducible refine State.showImage_touches (fun p hp => hW p (by unfold State.firstRunning_foot; repeat first | with_reducible exact hp | with_reducible exact List.mem_append_right _ hp | with_reducible apply List.mem_append_left)) ?_
    | with_reducible refine State.setReg_touches (hW _ (by first | (simp [State.firstRunning_foot]; done) | (split <;> simp [State.firstRunning_foot] <;> done) | ((repeat' split) <;> simp [State.firstRunning_foot])))  ?_
    | with_reducible refine State.refreshAll_touches (fun p hp => hW p (by unfold State.firstRunning_foot; repeat first | with_reducible exact hp | with_reducible exact List.mem_append_right _ hp | with_reducible apply List.mem_append_left)) ?_
    | with_reducible refine State.syncEnables_touches (fun p hp => hW p (by unfold State.firstRunning_foot; repeat first | with_reducible exact hp | with_reducible exact List.mem_append_right _ hp | with_reducible apply List.mem_append_left)) ?_
    | with_reducible refine State.startClusters_touches (fun p hp => hW p (by unfold State.firstRunning_foot; repeat first | with_reducible exact hp | with_reducible exact List.mem_append_right _ hp | with_reducible apply List.mem_append_left)) ?_
    | with_reducible refine State.announceGroups_touches (fun p hp => hW p (by unfold State.firstRunning_foot; repeat first | with_reducible exact hp | with_reducible exact List.mem_append_right _ hp | with_reducible apply List.mem_append_left)) ?_
    | with_reducible refine State.startCosts_touches (fun p hp => hW p (by unfold State.firstRunning_foot; repeat first | with_reducible exact hp | with_reducible exact List.mem_append_right _ hp | with_reducible apply List.mem_append_left)) ?_
    | with_reducible refine State.startSurface_touches (fun p hp => hW p (by unfold State.firstRunning_foot; repeat first | with_reducible exact hp | with_reducible exact List.mem_append_right _ hp | with_reducible apply List.mem_append_left)) ?_
    | with_reducible refine State.reportShutdown_touches (fun p hp => hW p (by unfold State.firstRunning_foot; repeat first | with_reducible exact hp | with_reducible exact List.mem_append_right _ hp | with_reducible apply List.mem_append_left)) ?_
    | with_reducible refine cond_touches ?_ (fun x hx => ?_)
    | with_reducible refine State.writeLife_touches (fun p hp => hW p (by unfold State.firstRunning_foot; repeat first | with_reducible exact hp | with_reducible exact List.mem_append_right _ hp | with_reducible apply List.mem_append_left)) ?_
    | split
    | with_reducible refine forN_touches ?_ (fun x k hx => ?_)
    | with_reducible refine foldl_touches ?_ (fun x a hx => ?_)
    | with_reducible refine foldlSnd_touches ?_ (fun x a hx => ?_)
    | with_reducible assumption

/-- The parts State.takeRestart touches. -/
def State.takeRestart_foot : List Part := [.reg .iPEND_ING_PORT, .reg .ING_PORT, .reg .iPEND_PLV_PORT, .reg .PLV_PORT,
  .fld .keepPending]

theorem State.takeRestart_touches {W : List Part} {σ τ : State}
    (hW : ∀ p ∈ State.takeRestart_foot, p ∈ W) (hT : Touches W σ τ) : Touches W σ (State.takeRestart τ) := by
  have hk : Part.fld .keepPending ∈ W := (hW _ (by simp [State.takeRestart_foot]))
  have one : ∀ {pend r : Reg} {t : State}, Part.reg pend ∈ W → Part.reg r ∈ W → Touches W σ t →
      Touches W σ (if t.reg pend 0 < 65536 then (t.putReg r 0 (t.reg pend 0)).setReg pend 0 0x10000 else t) :=
    fun hp hr h => .ite (State.setReg_touches hp (State.putReg_touches hr hk h)) h
  unfold State.takeRestart
  refine one ?_ ?_ (one ?_ ?_ hT) <;> exact hW _ (by simp [State.takeRestart_foot])

/-- The parts State.factoryOne touches. -/
def State.factoryOne_foot : List Part := [.anyReg, .fld .keepPending] ++ State.saveTri_foot

theorem State.factoryOne_touches {W : List Part} {σ τ : State} {r : Reg} {i : Nat}
    (hW : ∀ p ∈ State.factoryOne_foot, p ∈ W) (hT : Touches W σ τ) : Touches W σ (State.factoryOne τ r i) := by
  have hr : Part.anyReg ∈ W := hW _ (by simp [State.factoryOne_foot])
  refine State.saveTri_touches (fun p hp => hW p (by simp [State.factoryOne_foot, hp])) (State.noteKeep_touches (hW _ (by simp [State.factoryOne_foot])) ?_)
  split <;> exact State.setReg_touches_any hr hT

/-- The parts State.factory touches. -/
def State.factory_foot : List Part := [.reg .iFACTORY, .reg .iS_ENABLE, .keys, .fld .luts] ++ State.factoryOne_foot ++ State.windowsInForce_foot ++ State.refreshFences_foot ++ State.startSelfTest_foot ++ State.refreshAll_foot ++ State.syncEnables_foot

theorem State.factory_touches {W : List Part} {σ τ : State} (hW : ∀ p ∈ State.factory_foot, p ∈ W)
    (hT : Touches W σ τ) : Touches W σ (State.factory τ) := by
  have hk : ∀ {x : State}, Touches W σ x → Touches W σ { x with keys := [], luts := [] } := fun hx =>
    touches_mk_keys (hW _ (by simp [State.factory_foot]))
      (fun f => by cases f <;> first | exact .inr rfl | exact .inl (hW _ (by simp [State.factory_foot]))) hx
  unfold State.factory
  try dsimp only
  repeat' first
    | with_reducible refine hk ?_
    | with_reducible apply Touches.ite
    | with_reducible refine State.factoryOne_touches (fun p hp => hW p (by unfold State.factory_foot; repeat first | with_reducible exact hp | with_reducible exact List.mem_append_right _ hp | with_reducible apply List.mem_append_left)) ?_
    | with_reducible refine State.setReg_touches (hW _ (by first | (simp [State.factory_foot]; done) | (split <;> simp [State.factory_foot] <;> done) | (simp only [keepKeys]; (repeat' split) <;> simp [State.factory_foot]) | ((repeat' split) <;> simp [State.factory_foot])))  ?_
    | with_reducible refine State.windowsInForce_touches (fun p hp => hW p (by unfold State.factory_foot; repeat first | with_reducible exact hp | with_reducible exact List.mem_append_right _ hp | with_reducible apply List.mem_append_left)) ?_
    | with_reducible refine State.refreshFences_touches (fun p hp => hW p (by unfold State.factory_foot; repeat first | with_reducible exact hp | with_reducible exact List.mem_append_right _ hp | with_reducible apply List.mem_append_left)) ?_
    | with_reducible refine State.startSelfTest_touches (fun p hp => hW p (by unfold State.factory_foot; repeat first | with_reducible exact hp | with_reducible exact List.mem_append_right _ hp | with_reducible apply List.mem_append_left)) ?_
    | with_reducible refine State.refreshAll_touches (fun p hp => hW p (by unfold State.factory_foot; repeat first | with_reducible exact hp | with_reducible exact List.mem_append_right _ hp | with_reducible apply List.mem_append_left)) ?_
    | with_reducible refine State.syncEnables_touches (fun p hp => hW p (by unfold State.factory_foot; repeat first | with_reducible exact hp | with_reducible exact List.mem_append_right _ hp | with_reducible apply List.mem_append_left)) ?_
    | split
    | with_reducible refine forN_touches ?_ (fun x k hx => ?_)
    | with_reducible refine foldl_touches ?_ (fun x a hx => ?_)
    | with_reducible refine foldlSnd_touches ?_ (fun x a hx => ?_)
    | with_reducible assumption

/-- The parts State.restartReports touches. -/
def State.restartReports_foot : List Part := [.reg .iWARM_CAUSE, .fld .disabledOwed] ++ State.raise_foot

theorem State.restartReports_touches {W : List Part} {σ τ : State}  (hW : ∀ p ∈ State.restartReports_foot, p ∈ W)
    (hT : Touches W σ τ) : Touches W σ (State.restartReports τ) := by
  unfold State.restartReports
  try dsimp only
  repeat' first
    | with_reducible apply Touches.ite
    | with_reducible refine State.raise_touches (fun p hp => hW p (by unfold State.restartReports_foot; repeat first | with_reducible exact hp | with_reducible exact List.mem_append_right _ hp | with_reducible apply List.mem_append_left)) ?_
    | with_reducible refine State.setReg_touches (hW _ (by first | (simp [State.restartReports_foot]; done) | (split <;> simp [State.restartReports_foot] <;> done) | ((repeat' split) <;> simp [State.restartReports_foot])))  ?_
    | split
    | with_reducible refine forN_touches ?_ (fun x k hx => ?_)
    | with_reducible refine foldl_touches ?_ (fun x a hx => ?_)
    | with_reducible refine foldlSnd_touches ?_ (fun x a hx => ?_)
    | with_reducible assumption
    | with_reducible refine touches_mk (fun f => by cases f <;> first | exact .inr (by with_reducible rfl) | exact .inl (hW _ (by simp [State.restartReports_foot]))) ?_

/-- The parts State.performHeld touches. -/
def State.performHeld_foot : List Part := [.fld .heldRequests] ++ State.perform_foot

theorem State.performHeld_touches {W : List Part} {σ τ : State}  (hW : ∀ p ∈ State.performHeld_foot, p ∈ W)
    (hT : Touches W σ τ) : Touches W σ (State.performHeld τ) := by
  unfold State.performHeld
  try dsimp only
  repeat' first
    | with_reducible apply Touches.ite
    | with_reducible refine State.perform_touches (fun p hp => hW p (by unfold State.performHeld_foot; repeat first | with_reducible exact hp | with_reducible exact List.mem_append_right _ hp | with_reducible apply List.mem_append_left)) ?_
    | split
    | with_reducible refine forN_touches ?_ (fun x k hx => ?_)
    | with_reducible refine foldl_touches ?_ (fun x a hx => ?_)
    | with_reducible refine foldlSnd_touches ?_ (fun x a hx => ?_)
    | with_reducible assumption
    | with_reducible refine touches_mk (fun f => by cases f <;> first | exact .inr (by with_reducible rfl) | exact .inl (hW _ (by simp [State.performHeld_foot]))) ?_

/-- The parts State.runningAgain touches. -/
def State.runningAgain_foot : List Part := [.reg .iPHASE] ++ State.loadComparators_foot ++ State.voteWord_foot ++ State.factory_foot ++ State.takeRestart_foot ++ State.showImage_foot ++ State.resolveAll_foot ++ State.readPool_foot ++ State.performHeld_foot ++ State.restartReports_foot

theorem State.runningAgain_touches {W : List Part} {σ τ : State}  (hW : ∀ p ∈ State.runningAgain_foot, p ∈ W)
    (hT : Touches W σ τ) : Touches W σ (State.runningAgain τ) := by
  unfold State.runningAgain
  try dsimp only
  repeat' first
    | with_reducible apply Touches.ite
    | with_reducible refine State.loadComparators_touches (fun p hp => hW p (by unfold State.runningAgain_foot; repeat first | with_reducible exact hp | with_reducible exact List.mem_append_right _ hp | with_reducible apply List.mem_append_left)) ?_
    | with_reducible refine State.setReg_touches (hW _ (by first | (simp [State.runningAgain_foot]; done) | (split <;> simp [State.runningAgain_foot] <;> done) | ((repeat' split) <;> simp [State.runningAgain_foot])))  ?_
    | with_reducible refine State.voteWord_touches (fun p hp => hW p (by unfold State.runningAgain_foot; repeat first | with_reducible exact hp | with_reducible exact List.mem_append_right _ hp | with_reducible apply List.mem_append_left)) ?_
    | with_reducible refine State.factory_touches (fun p hp => hW p (by unfold State.runningAgain_foot; repeat first | with_reducible exact hp | with_reducible exact List.mem_append_right _ hp | with_reducible apply List.mem_append_left)) ?_
    | with_reducible refine State.takeRestart_touches (fun p hp => hW p (by unfold State.runningAgain_foot; repeat first | with_reducible exact hp | with_reducible exact List.mem_append_right _ hp | with_reducible apply List.mem_append_left)) ?_
    | with_reducible refine State.showImage_touches (fun p hp => hW p (by unfold State.runningAgain_foot; repeat first | with_reducible exact hp | with_reducible exact List.mem_append_right _ hp | with_reducible apply List.mem_append_left)) ?_
    | with_reducible refine State.resolveAll_touches (fun p hp => hW p (by unfold State.runningAgain_foot; repeat first | with_reducible exact hp | with_reducible exact List.mem_append_right _ hp | with_reducible apply List.mem_append_left)) ?_
    | with_reducible refine State.readPool_touches (fun p hp => hW p (by unfold State.runningAgain_foot; repeat first | with_reducible exact hp | with_reducible exact List.mem_append_right _ hp | with_reducible apply List.mem_append_left)) ?_
    | with_reducible refine State.performHeld_touches (fun p hp => hW p (by unfold State.runningAgain_foot; repeat first | with_reducible exact hp | with_reducible exact List.mem_append_right _ hp | with_reducible apply List.mem_append_left)) ?_
    | with_reducible refine State.restartReports_touches (fun p hp => hW p (by unfold State.runningAgain_foot; repeat first | with_reducible exact hp | with_reducible exact List.mem_append_right _ hp | with_reducible apply List.mem_append_left)) ?_
    | split
    | with_reducible refine forN_touches ?_ (fun x k hx => ?_)
    | with_reducible refine foldl_touches ?_ (fun x a hx => ?_)
    | with_reducible refine foldlSnd_touches ?_ (fun x a hx => ?_)
    | with_reducible assumption

/-- The parts execFirmwareRunning touches. -/
def execFirmwareRunning_foot : List Part := [.fld .sent] ++ State.toRecovery_foot ++ State.firstRunning_foot ++ State.runningAgain_foot

theorem execFirmwareRunning_touches {W : List Part} {σ τ : State} {version : BitVec 32} {k : BitVec 80} {failed : BitVec 16} (hW : ∀ p ∈ execFirmwareRunning_foot, p ∈ W)
    (hT : Touches W σ τ) : OutTouches W σ (execFirmwareRunning version k failed τ) := by
  unfold execFirmwareRunning
  try dsimp only
  repeat' first
    | with_reducible apply OutTouches.ite
    | with_reducible refine OutTouches.next ?_
    | with_reducible apply Touches.ite
    | with_reducible refine State.send_touches (hW _ (by simp [execFirmwareRunning_foot])) ?_
    | with_reducible refine State.toRecovery_touches (fun p hp => hW p (by unfold execFirmwareRunning_foot; repeat first | with_reducible exact hp | with_reducible exact List.mem_append_right _ hp | with_reducible apply List.mem_append_left)) ?_
    | with_reducible refine State.firstRunning_touches (fun p hp => hW p (by unfold execFirmwareRunning_foot; repeat first | with_reducible exact hp | with_reducible exact List.mem_append_right _ hp | with_reducible apply List.mem_append_left)) ?_
    | with_reducible refine State.runningAgain_touches (fun p hp => hW p (by unfold execFirmwareRunning_foot; repeat first | with_reducible exact hp | with_reducible exact List.mem_append_right _ hp | with_reducible apply List.mem_append_left)) ?_
    | split
    | with_reducible refine forN_touches ?_ (fun x k hx => ?_)
    | with_reducible refine foldl_touches ?_ (fun x a hx => ?_)
    | with_reducible refine foldlSnd_touches ?_ (fun x a hx => ?_)
    | with_reducible assumption

/-- The parts execStartupDarkLimit touches. -/
def execStartupDarkLimit_foot : List Part := [.reg .iSTARTUP_OVER]

theorem execStartupDarkLimit_touches {W : List Part} {σ τ : State} {surf : Surface} (hW : ∀ p ∈ execStartupDarkLimit_foot, p ∈ W)
    (hT : Touches W σ τ) : OutTouches W σ (execStartupDarkLimit surf τ) := by
  unfold execStartupDarkLimit
  try dsimp only
  repeat' first
    | with_reducible apply OutTouches.ite
    | with_reducible refine OutTouches.next ?_
    | with_reducible apply Touches.ite
    | with_reducible refine State.setReg_touches (hW _ (by first | (simp [execStartupDarkLimit_foot]; done) | (split <;> simp [execStartupDarkLimit_foot] <;> done) | ((repeat' split) <;> simp [execStartupDarkLimit_foot])))  ?_
    | split
    | with_reducible refine forN_touches ?_ (fun x k hx => ?_)
    | with_reducible refine foldl_touches ?_ (fun x a hx => ?_)
    | with_reducible refine foldlSnd_touches ?_ (fun x a hx => ?_)
    | with_reducible assumption

end Sys2Proof.Machine
end

