-- ==== Sys2Proof/Laws/TouchesTick.lean ====
section
/-! SUPPORT. What the functions of Machine/Tick.lean touch. -/
namespace Sys2Proof.Machine
set_option linter.all false

/-- The parts State.tick touches. -/
def State.tick_foot : List Part := [.time] ++ State.linksTick_foot ++ State.genAdvance_foot

theorem State.tick_touches {W : List Part} {σ τ : State}  (hW : ∀ p ∈ State.tick_foot, p ∈ W)
    (hT : Touches W σ τ) : Touches W σ (State.tick τ) := by
  unfold State.tick
  try dsimp only
  repeat' first
    | with_reducible apply Touches.ite
    | with_reducible refine State.linksTick_touches (fun p hp => hW p (by unfold State.tick_foot; repeat first | with_reducible exact hp | with_reducible exact List.mem_append_right _ hp | with_reducible apply List.mem_append_left)) ?_
    | with_reducible refine State.genAdvance_touches (fun p hp => hW p (by unfold State.tick_foot; repeat first | with_reducible exact hp | with_reducible exact List.mem_append_right _ hp | with_reducible apply List.mem_append_left)) ?_
    | split
    | with_reducible refine forN_touches ?_ (fun x k hx => ?_)
    | with_reducible refine foldl_touches ?_ (fun x a hx => ?_)
    | with_reducible refine foldlSnd_touches ?_ (fun x a hx => ?_)
    | with_reducible assumption
    | with_reducible refine touches_mk_time (hW _ (by first | (simp [State.tick_foot]; done) | (split <;> simp [State.tick_foot] <;> done) | ((repeat' split) <;> simp [State.tick_foot]))) (fun f => by cases f <;> first | exact .inr (by with_reducible rfl) | exact .inl (hW _ (by simp [State.tick_foot]))) ?_
    | with_reducible refine touches_mk (fun f => by cases f <;> first | exact .inr (by with_reducible rfl) | exact .inl (hW _ (by simp [State.tick_foot]))) ?_

end Sys2Proof.Machine
end

