-- ==== Sys2Proof/Laws/TouchesWindows.lean ====
section
/-! SUPPORT. What the functions of Machine/Windows.lean touch. -/
namespace Sys2Proof.Machine
set_option linter.all false

/-- The parts State.fillLatch touches. -/
def State.fillLatch_foot : List Part := [.reg .iLATCH]

theorem State.fillLatch_touches {W : List Part} {σ τ : State} {f3 : Bool} {bs : List Byte} (hW : ∀ p ∈ State.fillLatch_foot, p ∈ W)
    (hT : Touches W σ τ) : Touches W σ (State.fillLatch τ f3 bs) := by
  unfold State.fillLatch
  try dsimp only
  repeat' first
    | with_reducible apply Touches.ite
    | with_reducible refine State.setReg_touches (hW _ (by first | (simp [State.fillLatch_foot]; done) | (split <;> simp [State.fillLatch_foot] <;> done) | ((repeat' split) <;> simp [State.fillLatch_foot])))  ?_
    | split
    | with_reducible refine forN_touches ?_ (fun x k hx => ?_)
    | with_reducible refine foldl_touches ?_ (fun x a hx => ?_)
    | with_reducible refine foldlSnd_touches ?_ (fun x a hx => ?_)
    | with_reducible assumption

/-- The parts State.complete touches. -/
def State.complete_foot : List Part := [.fld .value, .fld .sent]

theorem State.complete_touches {W : List Part} {σ τ : State} {v : Nat} (hW : ∀ p ∈ State.complete_foot, p ∈ W)
    (hT : Touches W σ τ) : Touches W σ (State.complete τ v) := by
  unfold State.complete
  try dsimp only
  repeat' first
    | with_reducible apply Touches.ite
    | split
    | with_reducible refine forN_touches ?_ (fun x k hx => ?_)
    | with_reducible refine foldl_touches ?_ (fun x a hx => ?_)
    | with_reducible refine foldlSnd_touches ?_ (fun x a hx => ?_)
    | with_reducible assumption
    | with_reducible refine touches_mk (fun f => by cases f <;> first | exact .inr (by with_reducible rfl) | exact .inl (hW _ (by simp [State.complete_foot]))) ?_

/-- The parts State.windowAway touches. -/
def State.windowAway_foot : List Part := [.reg .iACC_STATUS]

theorem State.windowAway_touches {W : List Part} {σ τ : State} {f3 : Bool} (hW : ∀ p ∈ State.windowAway_foot, p ∈ W)
    (hT : Touches W σ τ) : Touches W σ (State.windowAway τ f3) := by
  unfold State.windowAway
  try dsimp only
  repeat' first
    | with_reducible apply Touches.ite
    | with_reducible refine State.setReg_touches (hW _ (by first | (simp [State.windowAway_foot]; done) | (split <;> simp [State.windowAway_foot] <;> done) | ((repeat' split) <;> simp [State.windowAway_foot])))  ?_
    | split
    | with_reducible refine forN_touches ?_ (fun x k hx => ?_)
    | with_reducible refine foldl_touches ?_ (fun x a hx => ?_)
    | with_reducible refine foldlSnd_touches ?_ (fun x a hx => ?_)
    | with_reducible assumption

/-- The parts State.windowRead touches. -/
def State.windowRead_foot : List Part := State.complete_foot ++ State.windowAway_foot ++ State.readId_foot ++ State.fillLatch_foot

theorem State.windowRead_touches {W : List Part} {σ τ : State} {f3 : Bool} {index : Nat} {sub : Nat} (hW : ∀ p ∈ State.windowRead_foot, p ∈ W)
    (hT : Touches W σ τ) : Touches W σ (State.windowRead τ f3 index sub) := by
  unfold State.windowRead
  try dsimp only
  repeat' first
    | with_reducible apply Touches.ite
    | with_reducible refine State.complete_touches (fun p hp => hW p (by unfold State.windowRead_foot; repeat first | with_reducible exact hp | with_reducible exact List.mem_append_right _ hp | with_reducible apply List.mem_append_left)) ?_
    | with_reducible refine State.windowAway_touches (fun p hp => hW p (by unfold State.windowRead_foot; repeat first | with_reducible exact hp | with_reducible exact List.mem_append_right _ hp | with_reducible apply List.mem_append_left)) ?_
    | with_reducible refine Touches.ofPair (by assumption) (State.readId_touches (fun p hp => hW p (by unfold State.windowRead_foot; repeat first | with_reducible exact hp | with_reducible exact List.mem_append_right _ hp | with_reducible apply List.mem_append_left)) ?_)
    | with_reducible refine State.readId_touches (fun p hp => hW p (by unfold State.windowRead_foot; repeat first | with_reducible exact hp | with_reducible exact List.mem_append_right _ hp | with_reducible apply List.mem_append_left)) ?_
    | with_reducible refine State.fillLatch_touches (fun p hp => hW p (by unfold State.windowRead_foot; repeat first | with_reducible exact hp | with_reducible exact List.mem_append_right _ hp | with_reducible apply List.mem_append_left)) ?_
    | split
    | with_reducible refine forN_touches ?_ (fun x k hx => ?_)
    | with_reducible refine foldl_touches ?_ (fun x a hx => ?_)
    | with_reducible refine foldlSnd_touches ?_ (fun x a hx => ?_)
    | with_reducible assumption

/-- The parts State.latchRead touches. -/
def State.latchRead_foot : List Part := [.reg .iACC_STATUS, .fld .draws] ++ State.complete_foot

theorem State.latchRead_touches {W : List Part} {σ τ : State} {f3 : Bool} {dword : Nat} (hW : ∀ p ∈ State.latchRead_foot, p ∈ W)
    (hT : Touches W σ τ) : Touches W σ (State.latchRead τ f3 dword) := by
  unfold State.latchRead
  try dsimp only
  repeat' first
    | with_reducible apply Touches.ite
    | with_reducible refine State.complete_touches (fun p hp => hW p (by unfold State.latchRead_foot; repeat first | with_reducible exact hp | with_reducible exact List.mem_append_right _ hp | with_reducible apply List.mem_append_left)) ?_
    | with_reducible refine State.draw_touches (hW _ (by simp [State.latchRead_foot])) ?_
    | with_reducible refine Touches.ofPair (by assumption) (State.draw_touches (hW _ (by simp [State.latchRead_foot])) ?_)
    | split
    | with_reducible refine forN_touches ?_ (fun x k hx => ?_)
    | with_reducible refine foldl_touches ?_ (fun x a hx => ?_)
    | with_reducible refine foldlSnd_touches ?_ (fun x a hx => ?_)
    | with_reducible assumption

/-- The parts State.msixRead touches. -/
def State.msixRead_foot : List Part := [.fld .draws] ++ State.complete_foot

theorem State.msixRead_touches {W : List Part} {σ τ : State} {f3 : Bool} {dword : Nat} (hW : ∀ p ∈ State.msixRead_foot, p ∈ W)
    (hT : Touches W σ τ) : Touches W σ (State.msixRead τ f3 dword) := by
  unfold State.msixRead
  try dsimp only
  repeat' first
    | with_reducible apply Touches.ite
    | with_reducible refine State.draw_touches (hW _ (by simp [State.msixRead_foot])) ?_
    | with_reducible refine Touches.ofPair (by assumption) (State.draw_touches (hW _ (by simp [State.msixRead_foot])) ?_)
    | with_reducible refine State.complete_touches (fun p hp => hW p (by unfold State.msixRead_foot; repeat first | with_reducible exact hp | with_reducible exact List.mem_append_right _ hp | with_reducible apply List.mem_append_left)) ?_
    | split
    | with_reducible refine forN_touches ?_ (fun x k hx => ?_)
    | with_reducible refine foldl_touches ?_ (fun x a hx => ?_)
    | with_reducible refine foldlSnd_touches ?_ (fun x a hx => ?_)
    | with_reducible assumption

/-- The parts execWindowRead touches. -/
def execWindowRead_foot : List Part := State.windowRead_foot ++ State.latchRead_foot ++ State.msixRead_foot

theorem execWindowRead_touches {W : List Part} {σ τ : State} {f3 : Bool} {region : Region} {dword : BitVec 24} (hW : ∀ p ∈ execWindowRead_foot, p ∈ W)
    (hT : Touches W σ τ) : OutTouches W σ (execWindowRead f3 region dword τ) := by
  unfold execWindowRead
  try dsimp only
  repeat' first
    | with_reducible apply OutTouches.ite
    | with_reducible refine OutTouches.next ?_
    | with_reducible apply Touches.ite
    | with_reducible refine State.windowRead_touches (fun p hp => hW p (by unfold execWindowRead_foot; repeat first | with_reducible exact hp | with_reducible exact List.mem_append_right _ hp | with_reducible apply List.mem_append_left)) ?_
    | with_reducible refine State.latchRead_touches (fun p hp => hW p (by unfold execWindowRead_foot; repeat first | with_reducible exact hp | with_reducible exact List.mem_append_right _ hp | with_reducible apply List.mem_append_left)) ?_
    | with_reducible refine State.msixRead_touches (fun p hp => hW p (by unfold execWindowRead_foot; repeat first | with_reducible exact hp | with_reducible exact List.mem_append_right _ hp | with_reducible apply List.mem_append_left)) ?_
    | split
    | with_reducible refine forN_touches ?_ (fun x k hx => ?_)
    | with_reducible refine foldl_touches ?_ (fun x a hx => ?_)
    | with_reducible refine foldlSnd_touches ?_ (fun x a hx => ?_)
    | with_reducible assumption

/-- The parts State.windowWrite touches. -/
def State.windowWrite_foot : List Part := [.fld .sent] ++ State.windowAway_foot ++ State.writeId_foot

theorem State.windowWrite_touches {W : List Part} {σ τ : State} {f3 : Bool} {index : Nat} {sub : Nat} {whole : Bool} {v : Nat} (hW : ∀ p ∈ State.windowWrite_foot, p ∈ W)
    (hT : Touches W σ τ) : Touches W σ (State.windowWrite τ f3 index sub whole v) := by
  unfold State.windowWrite
  try dsimp only
  repeat' first
    | with_reducible apply Touches.ite
    | with_reducible refine State.windowAway_touches (fun p hp => hW p (by unfold State.windowWrite_foot; repeat first | with_reducible exact hp | with_reducible exact List.mem_append_right _ hp | with_reducible apply List.mem_append_left)) ?_
    | with_reducible refine State.writeId_touches (fun p hp => hW p (by unfold State.windowWrite_foot; repeat first | with_reducible exact hp | with_reducible exact List.mem_append_right _ hp | with_reducible apply List.mem_append_left)) ?_
    | with_reducible refine State.send_touches (hW _ (by simp [State.windowWrite_foot])) ?_
    | split
    | with_reducible refine forN_touches ?_ (fun x k hx => ?_)
    | with_reducible refine foldl_touches ?_ (fun x a hx => ?_)
    | with_reducible refine foldlSnd_touches ?_ (fun x a hx => ?_)
    | with_reducible assumption

/-- The parts execWindowWrite touches. -/
def execWindowWrite_foot : List Part := State.windowWrite_foot

theorem execWindowWrite_touches {W : List Part} {σ τ : State} {f3 : Bool} {dword : BitVec 24} {be : BitVec 4} {v : BitVec 32} (hW : ∀ p ∈ execWindowWrite_foot, p ∈ W)
    (hT : Touches W σ τ) : OutTouches W σ (execWindowWrite f3 dword be v τ) := by
  unfold execWindowWrite
  try dsimp only
  repeat' first
    | with_reducible apply OutTouches.ite
    | with_reducible refine OutTouches.next ?_
    | with_reducible apply Touches.ite
    | with_reducible refine State.windowWrite_touches (fun p hp => hW p (by unfold execWindowWrite_foot; repeat first | with_reducible exact hp | with_reducible exact List.mem_append_right _ hp | with_reducible apply List.mem_append_left)) ?_
    | split
    | with_reducible refine forN_touches ?_ (fun x k hx => ?_)
    | with_reducible refine foldl_touches ?_ (fun x a hx => ?_)
    | with_reducible refine foldlSnd_touches ?_ (fun x a hx => ?_)
    | with_reducible assumption

/-- The parts execLatchWrite touches. -/
def execLatchWrite_foot : List Part := [.reg .iLATCH]

theorem execLatchWrite_touches {W : List Part} {σ τ : State} {f3 : Bool} {dword : BitVec 14} {be : BitVec 4} {v : BitVec 32} (hW : ∀ p ∈ execLatchWrite_foot, p ∈ W)
    (hT : Touches W σ τ) : OutTouches W σ (execLatchWrite f3 dword be v τ) := by
  unfold execLatchWrite
  try dsimp only
  repeat' first
    | with_reducible apply OutTouches.ite
    | with_reducible refine OutTouches.next ?_
    | with_reducible apply Touches.ite
    | with_reducible refine State.setReg_touches (hW _ (by first | (simp [execLatchWrite_foot]; done) | (split <;> simp [execLatchWrite_foot] <;> done) | ((repeat' split) <;> simp [execLatchWrite_foot])))  ?_
    | split
    | with_reducible refine forN_touches ?_ (fun x k hx => ?_)
    | with_reducible refine foldl_touches ?_ (fun x a hx => ?_)
    | with_reducible refine foldlSnd_touches ?_ (fun x a hx => ?_)
    | with_reducible assumption

/-- The parts State.msix touches. -/
def State.msix_foot : List Part := [.reg .iMSIX_PEND, .fld .sent]

theorem State.msix_touches {W : List Part} {σ τ : State} {v : Nat} (hW : ∀ p ∈ State.msix_foot, p ∈ W)
    (hT : Touches W σ τ) : Touches W σ (State.msix τ v) := by
  unfold State.msix
  try dsimp only
  repeat' first
    | with_reducible apply Touches.ite
    | with_reducible refine State.sendMore_touches (hW _ (by simp [State.msix_foot])) ?_
    | with_reducible refine State.setReg_touches (hW _ (by first | (simp [State.msix_foot]; done) | (split <;> simp [State.msix_foot] <;> done) | ((repeat' split) <;> simp [State.msix_foot])))  ?_
    | split
    | with_reducible refine forN_touches ?_ (fun x k hx => ?_)
    | with_reducible refine foldl_touches ?_ (fun x a hx => ?_)
    | with_reducible refine foldlSnd_touches ?_ (fun x a hx => ?_)
    | with_reducible assumption

/-- The parts State.notify touches. -/
def State.notify_foot : List Part := [.reg .iSS_NOTIFY] ++ State.sendPlv_foot

theorem State.notify_touches {W : List Part} {σ τ : State} {q : Nat} {es : List Entry} {n : Nat} (hW : ∀ p ∈ State.notify_foot, p ∈ W)
    (hT : Touches W σ τ) : Touches W σ (State.notify τ q es n) := by
  unfold State.notify
  try dsimp only
  repeat' first
    | with_reducible apply Touches.ite
    | with_reducible refine State.bump_touches (hW _ (by first | (simp [State.notify_foot]; done) | (split <;> simp [State.notify_foot] <;> done) | ((repeat' split) <;> simp [State.notify_foot])))  ?_
    | with_reducible refine State.sendPlv_touches (fun p hp => hW p (by unfold State.notify_foot; repeat first | with_reducible exact hp | with_reducible exact List.mem_append_right _ hp | with_reducible apply List.mem_append_left)) ?_
    | split
    | with_reducible refine forN_touches ?_ (fun x k hx => ?_)
    | with_reducible refine foldl_touches ?_ (fun x a hx => ?_)
    | with_reducible refine foldlSnd_touches ?_ (fun x a hx => ?_)
    | with_reducible assumption

/-- The parts execNqSignal touches. -/
def execNqSignal_foot : List Part := [.fld .queues, .fld .sent] ++ State.msix_foot ++ State.notify_foot

theorem execNqSignal_touches {W : List Part} {σ τ : State} {q : Fin 2048} (hW : ∀ p ∈ execNqSignal_foot, p ∈ W)
    (hT : Touches W σ τ) : OutTouches W σ (execNqSignal q τ) := by
  unfold execNqSignal
  try dsimp only
  repeat' first
    | with_reducible apply OutTouches.ite
    | with_reducible refine OutTouches.next ?_
    | with_reducible apply Touches.ite
    | with_reducible refine State.setQueue_touches (hW _ (by simp [execNqSignal_foot])) ?_
    | with_reducible refine State.send_touches (hW _ (by simp [execNqSignal_foot])) ?_
    | with_reducible refine cond_touches ?_ (fun x hx => ?_)
    | with_reducible refine State.msix_touches (fun p hp => hW p (by unfold execNqSignal_foot; repeat first | with_reducible exact hp | with_reducible exact List.mem_append_right _ hp | with_reducible apply List.mem_append_left)) ?_
    | with_reducible refine State.notify_touches (fun p hp => hW p (by unfold execNqSignal_foot; repeat first | with_reducible exact hp | with_reducible exact List.mem_append_right _ hp | with_reducible apply List.mem_append_left)) ?_
    | split
    | with_reducible refine forN_touches ?_ (fun x k hx => ?_)
    | with_reducible refine foldl_touches ?_ (fun x a hx => ?_)
    | with_reducible refine foldlSnd_touches ?_ (fun x a hx => ?_)
    | with_reducible assumption

/-- The parts State.sendPending touches. -/
def State.sendPending_foot : List Part := [.reg .iMSIX_PEND, .fld .sent]

theorem State.sendPending_touches {W : List Part} {σ τ : State}  (hW : ∀ p ∈ State.sendPending_foot, p ∈ W)
    (hT : Touches W σ τ) : Touches W σ (State.sendPending τ) := by
  unfold State.sendPending
  try dsimp only
  repeat' first
    | with_reducible apply Touches.ite
    | with_reducible refine State.setReg_touches (hW _ (by first | (simp [State.sendPending_foot]; done) | (split <;> simp [State.sendPending_foot] <;> done) | ((repeat' split) <;> simp [State.sendPending_foot])))  ?_
    | with_reducible refine State.sendMore_touches (hW _ (by simp [State.sendPending_foot])) ?_
    | split
    | with_reducible refine forN_touches ?_ (fun x k hx => ?_)
    | with_reducible refine foldl_touches ?_ (fun x a hx => ?_)
    | with_reducible refine foldlSnd_touches ?_ (fun x a hx => ?_)
    | with_reducible assumption

/-- The parts State.msixWrite touches. -/
def State.msixWrite_foot : List Part := [.reg .iMSIX_ADDR, .reg .iMSIX_DATA, .reg .iMSIX_MASK]

theorem State.msixWrite_touches {W : List Part} {σ τ : State} {dword : Nat} {be : Nat} {v : Nat} (hW : ∀ p ∈ State.msixWrite_foot, p ∈ W)
    (hT : Touches W σ τ) : Touches W σ (State.msixWrite τ dword be v) := by
  unfold State.msixWrite
  try dsimp only
  repeat' first
    | with_reducible apply Touches.ite
    | with_reducible refine State.setReg_touches (hW _ (by first | (simp [State.msixWrite_foot]; done) | (split <;> simp [State.msixWrite_foot] <;> done) | ((repeat' split) <;> simp [State.msixWrite_foot])))  ?_
    | split
    | with_reducible refine forN_touches ?_ (fun x k hx => ?_)
    | with_reducible refine foldl_touches ?_ (fun x a hx => ?_)
    | with_reducible refine foldlSnd_touches ?_ (fun x a hx => ?_)
    | with_reducible assumption

/-- The parts execMsixEnable touches. -/
def execMsixEnable_foot : List Part := [.reg .iMSIX_EN, .fld .sent] ++ State.sendPending_foot ++ State.msixWrite_foot

theorem execMsixEnable_touches {W : List Part} {σ τ : State} {op : MsixOp} (hW : ∀ p ∈ execMsixEnable_foot, p ∈ W)
    (hT : Touches W σ τ) : OutTouches W σ (execMsixEnable op τ) := by
  unfold execMsixEnable
  try dsimp only
  repeat' first
    | with_reducible apply OutTouches.ite
    | with_reducible refine OutTouches.next ?_
    | with_reducible apply Touches.ite
    | with_reducible refine State.send_touches (hW _ (by simp [execMsixEnable_foot])) ?_
    | with_reducible refine State.sendPending_touches (fun p hp => hW p (by unfold execMsixEnable_foot; repeat first | with_reducible exact hp | with_reducible exact List.mem_append_right _ hp | with_reducible apply List.mem_append_left)) ?_
    | with_reducible refine State.setReg_touches (hW _ (by first | (simp [execMsixEnable_foot]; done) | (split <;> simp [execMsixEnable_foot] <;> done) | ((repeat' split) <;> simp [execMsixEnable_foot])))  ?_
    | with_reducible refine State.msixWrite_touches (fun p hp => hW p (by unfold execMsixEnable_foot; repeat first | with_reducible exact hp | with_reducible exact List.mem_append_right _ hp | with_reducible apply List.mem_append_left)) ?_
    | split
    | with_reducible refine forN_touches ?_ (fun x k hx => ?_)
    | with_reducible refine foldl_touches ?_ (fun x a hx => ?_)
    | with_reducible refine foldlSnd_touches ?_ (fun x a hx => ?_)
    | with_reducible assumption

end Sys2Proof.Machine
end

