-- ==== Sys2Proof/WellFormed.lean ====
section
/-! DEFINITION. Which command terms stand for something that can happen: lists of measurements have one
entry per sensor, and a frame, a datagram or an image is no longer than its carrier allows. Most operands
are bounded by their types already. exec gives every term a meaning, well formed or not. -/
namespace Sys2Proof

/-- No key occurs twice. -/
def distinctKeys (α : Type) : List (Nat × α) → Bool
  | [] => true
  | e :: es => es.all (fun x => x.1 != e.1) && distinctKeys α es

/-- What a command sees of the channels names a code word once at most. -/
def seenOk (x : Seen) : Bool := distinctKeys Finding x.found

/-- A UDP payload (65,507 bytes at most over IPv4). -/
def datagramOk (p : List Byte) : Bool := decide (p.length ≤ 65507)

/-- Blocks of a return lane: at least one, since a message takes two (R257 of 08_welt_link.md). -/
def messageOk (raw : List RBlock) : Bool := decide (1 ≤ raw.length)

/-- A frame without its FCS: it begins with its addresses and type. One of more than 9,600 bytes is met as a
bad one and not excluded here (R351, R353 of 11_network_time.md). -/
def frameOk (f : List Byte) : Bool := decide (14 ≤ f.length)

/-- A dictionary value: a BLOB is the longest one. -/
def valueOk (data : List Byte) : Bool := decide (1 ≤ data.length) && decide (data.length ≤ 65536)

/-- The numbers of sensors, panel pairs and rails (R432, R433, R435 of 14_power_thermal.md). -/
def sampleOk (die : List (BitVec 16)) (diodes : List (Nat × Nat)) (rails : List (BitVec 16)) : Bool :=
  die.length == 24 && diodes.length == 4 && rails.length == 9

/-- A command that can happen. -/
def Instr.wellFormed : Instr → Bool
  | .memoryRead _ _ _ len seen => decide (1 ≤ len) && seenOk seen
  | .memoryWrite _ _ _ data seen => decide (1 ≤ data.length) && seenOk seen
  | .correctedWriteBack seen => seenOk seen
  | .sweepBurst seen => seenOk seen
  | .retrainPause _ _ _ _ _ _ seen => seenOk seen
  | .scrubBurst seen => seenOk seen
  | .pgLoadDone _ _ _ seen => seenOk seen
  | .sealComplete _ seen => seenOk seen
  | .streamTilesPacket p seen => datagramOk p && seenOk seen
  | .streamEndPacket p seen => datagramOk p && seenOk seen
  | .streamPacketFetch _ _ p seen => datagramOk p && seenOk seen
  | .ingestTileDecoded _ seen => seenOk seen
  | .cueValidationDone _ seen => seenOk seen
  | .commitDeadline _ seen => seenOk seen
  | .calValidationDone _ seen => seenOk seen
  | .calData _ _ raw seen => messageOk raw && seenOk seen
  | .calEnd _ _ raw seen => messageOk raw && seenOk seen
  | .tileComplete _ _ seen => seenOk seen
  | .tapRowCoded _ _ seen => seenOk seen
  | .tapFrameHeaderWrite _ _ seen => seenOk seen
  | .gcJobStart _ seen => seenOk seen
  | .gcJobEnd _ seen => seenOk seen
  | .laceDescriptorStart _ seen => seenOk seen
  | .laceBurst _ _ _ _ seen => seenOk seen
  | .laceComplete _ seen => seenOk seen
  | .skJobStart _ seen => seenOk seen
  | .skJobEnd _ seen => seenOk seen
  | .fwProgramDone _ _ seen => seenOk seen
  | .slotRelease _ test => distinctKeys Finding test && test.all (fun e => decide (e.1 < 2 ^ 32))
  | .caps _ _ raw => messageOk raw
  | .laneStatus _ _ raw => messageOk raw
  | .eqReq _ _ raw => messageOk raw
  | .eqDone _ _ raw => messageOk raw
  | .spareReq _ _ raw => messageOk raw
  | .spareAck _ _ raw => messageOk raw
  | .sensors _ _ raw => messageOk raw
  | .calBegin _ _ raw => messageOk raw
  | .calNone _ _ raw => messageOk raw
  | .prbsReport _ _ raw => messageOk raw
  | .ethFrameReceive _ _ f _ _ _ _ _ => frameOk f
  | .bandSearchDone _ counts => counts.length == 64
  | .thermalSample die diodes rails => sampleOk die diodes rails
  | .seamLoopSample _ ohms => ohms.length == 4
  | .powerReset _ _ groups => decide (groups.length ≤ 4)
  | .parameterWrite _ _ _ data => valueOk data
  | .plovanOpen _ _ _ _ _ p => datagramOk p
  | .plovanClose _ _ _ _ _ p => datagramOk p
  | .plovanKeepalive _ _ _ _ _ p => datagramOk p
  | .plovanRead _ _ _ _ _ p => datagramOk p
  | .plovanWrite _ _ _ _ _ p => datagramOk p
  | .plovanDescribe _ _ _ _ _ p => datagramOk p
  | .plovanSubscribe _ _ _ _ _ p => datagramOk p
  | .plovanUnsubscribe _ _ _ _ _ p => datagramOk p
  | _ => true

end Sys2Proof
end

