-- ==== Sys2Proof/Tests/Slice0.lean ====
section
/-! SUPPORT. Tests of single steps. The expected values come from the worked examples of the spec's chapters, from
its tables, from published check values of the CRC and hash functions, or from hand calculation by its rules; and,
for each statement with hypotheses, a state that meets them. -/
namespace Sys2Proof.Machine.Test
set_option Elab.async false

/-- The state after a command. -/
def run (c : Instr) (s : State) : State := match exec c s with | .next t => t | _ => s

/-- A state with some registers set, by their signed values. -/
def with_ (s : State) (l : List (Reg × Nat × Int)) : State := l.foldl (fun t e => t.setRegInt e.1 e.2.1 e.2.2) s

/-- A state with `n` bytes of the central store set, least significant first. -/
def put (s : State) (a n : Nat) (v : Int) : State := { s with mem := memPut s.mem a (leBytes n (ofInt (8 * n) v)) }

/-- Text as bytes. -/
def ascii (t : String) : List Byte := t.toList.map (fun c => BitVec.ofNat 8 c.toNat)

/-- The firmware runs, and session 3 is open with the role of a service session. -/
def ready : State := with_ State.reset [(.iPHASE, 0, 1), (.SS_STATE, 3, 1), (.SS_ROLE, 3, 3)]

/-- The accessor of the tests. -/
def me : Accessor := .session 3

/-- Nothing found, and no wait. -/
def calm : Seen := ⟨[], []⟩

/-- The check of one code word finds an error. -/
def finds (w : Nat) (f : Finding) : Seen := ⟨[(w, f)], []⟩

/-- The same with the store initialised and every PLL locked. -/
def live : State := with_ ready ([(.MS_INIT_STATE, 0, 1)] ++ (List.range 7).map (fun k => (.CK_STATE, k, 3)))

/-! ## Published check values -/

theorem test_crc32c : crc32c (ascii "123456789") = 0xE3069283 := by decide +kernel
theorem test_sha256_abc : beNat (Sha.sha256 (ascii "abc")) =
    0xba7816bf8f01cfea414140de5dae2223b00361a396177a9cb410ff61f20015ad := by decide +kernel
/-- RFC 4231, test case 1. -/
theorem test_hmac : beNat (Sha.hmac (List.replicate 20 0x0b) (ascii "Hi There")) =
    0xb0344c61d8db38535ca8afceaf0bf12b881dc200c9833da726e9376c2e32cff7 := by decide +kernel
/-- CRC-64/XZ of the check string, fed as the digest feeds the bytes of its words. -/
theorem test_digest_polynomial : digestFinal (crcBytes digestPoly digestInit (ascii "123456789")) =
    0x995DC9BBDF1939FA := by decide +kernel

/-! ## Worked rays (02_scene_model.md after R50 and R54; 03_ray_synthesis.md, Worked rays) -/

theorem test_calibration_weight : calBlend 400 640 880 533 = (0 + 4 * 1, 141) := by decide +kernel

/-- The calibration of the worked ray: the map's tile coefficients and offsets and the gains. -/
def mapPoint (s : State) (pt : Nat) (cx0 : Int) : State :=
  let b := 0x10000000 + pt * calPointSize 0 960 1080
  let tile := b + 48 * (517 * 30 + 19)
  let o := b + 30 * 1080 * 48 + 4 * (517 * 960 + 613)
  put (put (put (put (put s tile 4 cx0) (tile + 4) 4 5242880) (tile + 32) 4 (-5242880)) o 2 37) (o + 2) 2 (-12)
def gainPoint (s : State) (pt : Nat) : State :=
  let b := 0x20000000 + pt * calPointSize 1 960 1080 + 8 * (517 * 960 + 613)
  put (put (put s b 2 0x4000) (b + 2) 2 0x3C00) (b + 4) 2 0x4400
def calibrated : State :=
  let s := with_ State.reset [(.iS_COMMITTED, 0, 1), (.iS_GAIN_ON, 0, 1), (.iS_LOHI, 0, 4), (.iS_LOHI, 1, 141), (.iS_LOHI, 2, 4),
    (.iS_LOHI, 3, 141), (.CAL_STATE, 0, 2), (.CAL_STATE, 32, 2), (.CAL_BASE, 0, 0x10000000), (.CAL_BASE, 32, 0x20000000)]
  gainPoint (gainPoint (gainPoint (mapPoint (mapPoint s 0 1000) 1 2000) 0) 1) 2

/-- A buffer of uncoded blocks with a FRONT bank. -/
def buffer (s : State) (n kind w h : Nat) : State :=
  let base := 0x40000000 + n * 0x1000000
  with_ s [(.BUF_KIND, n, kind), (.BUF_FORMAT, n, 0), (.BUF_STORE, n, 1), (.BUF_WIDTH, n, w), (.BUF_HEIGHT, n, h),
    (.BUF_BANKS, n, 0xFFFFFF00), (.iBK_INDEX, 3 * n, base), (.iBK_BASE, 3 * n, base)]
def texel (s : State) (n w x y r g b a : Nat) : State :=
  let t := y / 32 * ((w + 31) / 32) + x / 32
  let base := 0x40000000 + n * 0x1000000
  let e : Nat := 2 ^ 47 + (0x10000 + 5120 * t) / 8
  let c : Nat := r + g * 2 ^ 10 + b * 2 ^ 20 + a * 2 ^ 30
  put (put s (base + 8 * t) 8 e) (base + 0x10000 + 5120 * t + 5 * (y % 32 * 32 + x % 32)) 5 c

/-- A WORLD plane of surface A, 1,048,576 µm by 524,288 µm, with its corner at (−1,048,576, 262,144, z) µm. -/
def plane (s : State) (p buf w h : Nat) (z alpha : Int) : State :=
  with_ s [(.PL_ENABLE, p, 1), (.PL_KIND, p, 0), (.PL_BUFFER, p, buf), (.PL_TEX_W, p, w), (.PL_TEX_H, p, h),
    (.PL_P0_X, p, -1048576 * 256), (.PL_P0_Y, p, 262144 * 256), (.PL_P0_Z, p, z * 256), (.PL_EU_X, p, 1048576 * 256),
    (.PL_EU_Y, p, 0), (.PL_EU_Z, p, 0), (.PL_EV_X, p, 0), (.PL_EV_Y, p, -524288 * 256), (.PL_EV_Z, p, 0),
    (.PL_ALPHA, p, alpha), (.PL_EDGE_U, p, 3), (.PL_EDGE_V, p, 3), (.PL_IN_LUT, p, 0)]
def twoPlanes : State :=
  let s := plane (plane calibrated 2 10 1024 512 262144 0) 5 11 512 256 (-524288) 2
  let s := buffer (buffer s 10 0 1024 512) 11 0 512 256
  let s := texel (texel s 10 1024 159 204 800 400 100 1023) 10 1024 160 204 800 400 100 1023
  let s := texel (texel s 10 1024 159 205 800 400 100 511) 10 1024 160 205 800 400 100 511
  let s := texel (texel s 11 512 106 96 200 600 900 0) 11 512 107 96 200 600 900 0
  texel (texel s 11 512 106 97 200 600 900 0) 11 512 107 97 200 600 900 0

theorem test_worked_direction : (twoPlanes.hogel 0 517 613).x0 = -866250 * 256 ∧
    (twoPlanes.hogel 0 517 613).direction 12 7 40 = some (-75212, -15372, false) := by decide +kernel
theorem test_worked_hits : (twoPlanes.raySources 0 0 517 613 7 40 (twoPlanes.hogel 0 517 613)).1 =
    [.plane 2 10465472 13423168, .plane 5 7037824 6342656] := by decide +kernel
theorem test_worked_ray : (twoPlanes.ray 0 0 90125 517 613 7 40 (twoPlanes.hogel 0 517 613)).word = 0x2C0654F3 := by
  decide +kernel

def viewSet : State :=
  let tbl : Nat := (List.range 97).foldl (fun (m k : Nat) =>
    m + ofInt 32 (-245760 + 5120 * (k : Int)) * 2 ^ (64 * k) + (20 + k) * 2 ^ (64 * k + 32)) 0
  let s := with_ calibrated [(.SURF_MODE, 0, 1), (.VS_CAMERA, 0, 0), (.VS_COUNT, 0, 97), (.VS_WIN_Z, 0, 262144 * 256),
    (.VS_WIN_X, 0, -1966080 * 256), (.VS_WIN_Y, 0, 1105920 * 256), (.VS_WIN_W, 0, 3932160 * 256),
    (.VS_WIN_H, 0, 2211840 * 256), (.VS_PIX_W, 0, 3840), (.VS_PIX_H, 0, 2160), (.VS_IN_LUT, 0, 0), (.VS_TABLE, 0, (tbl : Int))]
  let four := fun s b r g bl => texel (texel (texel (texel s b 3840 1055 1028 r g bl 0) b 3840 1056 1028 r g bl 0)
    b 3840 1055 1029 r g bl 0) b 3840 1056 1029 r g bl 0
  four (four (buffer (buffer s 53 1 3840 2160) 54 1 3840 2160) 53 512 512 512) 54 640 384 512

theorem test_worked_view : (viewSet.raySources 0 0 517 613 7 40 (viewSet.hogel 0 517 613)).1 =
    [.view 69185728 67424832 33 (some 34) 79] := by decide +kernel
theorem test_worked_view_layer : (viewSet.layerOf 0 (.view 69185728 67424832 33 (some 34) 79)).1 =
    ⟨35330, 30270, 32800, 65535⟩ := by decide +kernel

/-! ## Cost model (04_hazel_array.md, the example after R125) -/

def array : State := with_ State.reset ([(.HZ_SHARE_A, 0, 128), (.HZ_BYTES_NS, 0, 1400)]
  ++ (List.range 16).map (fun n => (.CL_STATE, n, 0)))

theorem test_budgets : (array.budgets 0 false).toList = [197861376, 18549504, 6183168, 10567200] ∧
    (array.budgets 0 true).toList = [185495040, 17390160, 5796720, 10567200] := by decide +kernel
theorem test_reservation : array.reservation 0 [161464320, 13274880, 2359296, 8914240] = 213 := by decide +kernel
theorem test_hogel_cycles_allowed : array.cBand 0 = 24153 := by decide +kernel

/-! ## Power (01_architecture.md, the example after R43) -/

/-- The ledger at t0 + 5 µs of the example, with `free` as it then is. -/
def ledger (free : Int) : State :=
  let s : State := { with_ live [(.PW_CEILING, 0, 920)] with grants := [] }
  let t := with_ s [(.PW_CEILING, 0, (920 : Int) + free - s.powerFree)]
  { t with normalReqs := [(.huskJob 4, 0), (.skiver 1, 0)] }

theorem test_normal_waits_behind_earlier : (run .powerGrant (ledger 72)).grants = (ledger 72).grants := by
  decide +kernel
theorem test_husk_job_is_granted : (run .powerGrant (ledger 96)).granted (.huskJob 4) = true ∧
    (run .powerGrant (ledger 96)).normalReqs = [(.skiver 1, 0)] ∧ (run .powerGrant (ledger 96)).powerFree = 16 := by
  decide +kernel
theorem test_high_goes_first :
    let s : State := { ledger 74 with highReqs := [(.keeperWrite 0, 0)] }
    (run .powerGrant s).granted (.keeperWrite 0) = true ∧ (run .powerGrant s).powerFree = 72 := by decide +kernel

/-! ## Husk (05_husk_codec.md, the example after R156) -/

theorem test_husk_header : Husk.Header.ofWord 0x28048037 = ⟨0, 1, 1, 0, 0, 1, 2, 0, 55⟩ := by decide +kernel
theorem test_husk_transform : Husk.forward 1 [600, 500, 400] = [500, 200, 0] ∧
    Husk.inverse 1 [500, 200, 0] = [600, 500, 400] := by decide +kernel
/-- The first byte of the payload, 0xFB, and its value read back. -/
theorem test_husk_first_code : Husk.putCode 2 (Husk.zigzag (500 - 512)) =
    [true, true, true, true, true, false, true, true] ∧ Husk.unzig 23 = -12 := by decide +kernel

/-! ## Addresses and sizes -/

/-- 09_central_store.md, the example after R271. -/
theorem test_address : addrPc 0x52D374C60 = 42 ∧ addrRow 0x52D374C60 = 5300 ∧ addrBank 0x52D374C60 = 3 ∧
    addrCol 0x52D374C60 = 11 := by decide +kernel
/-- 06_stream_ingest.md, the example after R178. -/
theorem test_bank_size : bankSize 0 1 0 2048 1024 = 7897088 ∧ bufIndexSize 0 2048 1024 = 16384 := by decide +kernel

/-! ## Laces and Skivers (10_laces_skivers.md) -/

/-- The overlapping copy of the example after R337: a B8 surface of pitch 8 with a b c / d e f / g h i. -/
def overlap (ydir : Bool) : State :=
  let s := put (put (put live 0x1000 3 0x636261) 0x1008 3 0x666564) 0x1010 3 0x696867
  let j : SkJob := ⟨⟨0x1000, 8, false, 0, 0⟩, ⟨0x1000, 8, false, 1, 1⟩, 0, 0, 0xF0, 3, 3, 0, 2, false, ydir, 0, 0, 0, 0⟩
  (SkRun.run s 0 j 9).s
theorem test_skiver_downwards : (overlap true).word 0x1008 4 = beNat (ascii "cbad") ∧
    (overlap true).word 0x1010 4 = beNat (ascii "fedg") ∧ (overlap true).word 0x1018 4 = beNat (ascii "ihg") * 256 := by
  decide +kernel
theorem test_skiver_upwards : (overlap false).word 0x1008 4 = beNat (ascii "cbad") ∧
    (overlap false).word 0x1010 4 = beNat (ascii "badg") ∧ (overlap false).word 0x1018 4 = beNat (ascii "adg") * 256 := by
  decide +kernel
theorem test_rop_copies_source : rop 0xF0 0x5A 0x33 0x0F 8 = 0x5A ∧ rop 0xEE 0x5A 0x33 0x0F 8 = 0x3F ∧
    rop 0x66 0x5A 0x33 0x0F 8 = 0x3C := by decide +kernel
/-- The example after R325: the bus has stopped; RESUME continues lace 5 and clears the stop. -/
def stoppedBus : State := with_ live [(.LS_BUS_STATE, 0, 2), (.LC_STATE, 5, 7), (.LC_DONE, 5, 1310720), (.LC_ENABLE, 5, 1)]
theorem test_bus_clear : (run (.lsBusClear me) stoppedBus).reg .LS_BUS_STATE 0 = 0 ∧
    (run (.lsBusClear me) stoppedBus).status = 0 ∧ (run (.lsBusClear me) live).status ≠ 0 := by decide +kernel
theorem test_resume_waits_for_bus : run (.lcCtrlResume me 5) stoppedBus = stoppedBus.answered me .LC_CTRL 5 0 := by
  decide +kernel
/-! ## Time and rasters -/

/-- 07_scanout.md, the example after R219: raster 541 of a 60 Hz frame begins 8,167,270.53 ns after its boundary, its
ray line 1 at 8,168,528.58 ns. -/
def scanning (ps : Nat) : State :=
  { with_ live [(.iG_RUN, 0, 1), (.iS_SEEN, 0, 1), (.iG_COUNT, 0, 1)] with local_ := ps * 2 ^ 48 / 1000 }
theorem test_raster_times : (scanning 8167270520).rasterReached 0 541 0 = false ∧
    (scanning 8167270540).rasterReached 0 541 0 = true ∧ (scanning 8168528570).rasterReached 0 541 1 = false ∧
    (scanning 8168528590).rasterReached 0 541 1 = true := by decide +kernel

/-- R354, R357: a TB cycle is 2 ns under PLL-NT. -/
theorem test_idle_cycle : (match step live with | .next t => t.local_ | _ => 0) = 2 * 2 ^ 48 := by decide +kernel
/-- R356: TB_SET steps network time under FREE. -/
theorem test_tb_set : (run (.tbSet me 1000) (with_ live [(.TB_SOURCE, 0, 2)])).now = 1000 := by decide +kernel
/-- R356: TB_ADJ writes TB_RATE under FREE, within 500 ppm. -/
theorem test_tb_adj : (run (.tbAdj me (BitVec.ofInt 32 (-4096))) (with_ live [(.TB_SOURCE, 0, 2)])).regInt .TB_RATE 0 = -4096 ∧
    (run (.tbAdj me 0x7FFFFFFF) (with_ live [(.TB_SOURCE, 0, 2)])).status = Code.odRange ∧
    (run (.tbAdj me 1) (with_ live [(.TB_SOURCE, 0, 0)])).status = Code.tbBusy := by decide +kernel

/-! ## Notification queues (12_control_dictionary.md, the example after R402) -/

def queue200 (n : Nat) (ns : Nat) : State :=
  let s := with_ live [(.NQ_MODE, 200, 0), (.NQ_MSIX, 200, 1), (.NQ_COAL_COUNT, 200, 4), (.NQ_COAL_NS, 200, 100000),
    (.NQ_SEQ, 200, 17)]
  let e : Entry := { time := 0, seq := 0, code := Code.laceDone, holdover := false, lost := false, arg := 7, posted := 0 }
  let t := forN n s (fun t _ => t.post 200 e)
  { t with local_ := ns * 2 ^ 48 }
theorem test_fourth_entry_signals : ((run (.nqSignal 200) (queue200 4 60000)).queue 200).unsignalled = 0 ∧
    ((run (.nqSignal 200) (queue200 3 40000)).queue 200).unsignalled = 3 ∧
    ((run (.nqSignal 200) (queue200 1 100000)).queue 200).unsignalled = 0 := by decide +kernel
theorem test_nq_read_empties : (run (.nqRead me 200) (queue200 4 70000)).value.length = 128 ∧
    ((run (.nqRead me 200) (queue200 4 70000)).queue 200).entries = [] ∧
    ((run (.nqRead me 200) (queue200 4 70000)).queue 200).unsignalled = 0 := by decide +kernel
theorem test_nq_mode_empties : ((run (.nqModeWrite me 200 1) (queue200 4 0)).queue 200).entries = [] ∧
    (run (.nqModeWrite me 200 1) (queue200 4 0)).reg .NQ_MODE 200 = 1 := by decide +kernel

/-! ## Windows (12_control_dictionary.md, the example after R397) -/

def digested : State := with_ live [(.FR_DIGEST, 0, 0x1122334455667788)]
theorem test_window_reads_digest : 0x01404008 = 4 * 0x501002 ∧
    (run (.windowRead false .bar0 0x501002) digested).value = [0x88, 0x77, 0x66, 0x55] ∧
    (run (.windowRead false .bar2 1) (run (.windowRead false .bar0 0x501002) digested)).value =
      [0x44, 0x33, 0x22, 0x11] := by decide +kernel
theorem test_window_names_nothing : (run (.windowRead false .bar0 0x0000FF) digested).value =
    [0xFF, 0xFF, 0xFF, 0xFF] ∧ (run (.windowRead false .bar0 0x0000FF) digested).reg .iACC_STATUS 0 = Code.odNoObject := by
  decide +kernel
theorem test_latch_write : (run (.latchWrite false 1 0xF 0xA1B2C3D4) live).reg .iLATCH 0 = 0xA1B2C3D4 * 2 ^ 32 := by
  decide +kernel

/-! ## The dictionary (R380, R382, R404) -/

/-- Each check of R380 refuses: no such object, a RO parameter, the level, the length, the range. -/
theorem test_write_checks :
    (run (.parameterWrite me 0x0001 1 [0]) ready).status = Code.odNoObject ∧
    (run (.parameterWrite me 0x5010 2 [0]) ready).status = Code.odReadOnly ∧
    (run (.parameterWrite .f3 0x5000 1 [0, 0]) ready).status = Code.odLevel ∧
    (run (.parameterWrite me 0x2000 1 [0x60]) ready).status = Code.odType ∧
    (run (.parameterWrite me 0x2000 1 [0x61, 0x00]) ready).status = Code.odRange := by decide +kernel
theorem test_factory_is_owed : (run (.odFactory me) ready).reg .iFACTORY 0 = 1 ∧
    (run (.odFactory me) ready).reg .SURF_WIDTH 0 = 960 := by decide +kernel
/-! ## Insole (16_insole_seams.md, the example after R472) -/

def glass : State := with_ live [(.TH_GLASS_DIODE, 0, 0), (.TS_TEMP, 32, 383), (.TS_VALID, 32, 1), (.INS_KNOWN, 0, 1), (.TH_GLASS_GATE, 0, 0), (.INS_ENABLE, 0, 1),
  (.INS_STATE, 0, 0), (.INS_IMAGE, 0, 5), (.INS_SHOWN, 0, 0)]
theorem test_insole_band : insoleBand 383 = 6 ∧ insoleBand 385 = 7 ∧ glass.reg .INS_WAVE_N 6 = 52 ∧
    glass.reg .INS_WAVE_N 7 = 50 := by decide +kernel
theorem test_insole_starts :
    let t := run .insoleUpdateStart { glass with grants := [.insole] }
    t.reg .INS_STATE 0 = 3 ∧ t.reg .INS_BAND 0 = 6 ∧ t.reg .iINS_N 0 = 52 ∧ t.reg .iINS_NEW 0 = 5 := by decide +kernel
theorem test_insole_ends :
    let s := with_ { glass with grants := [.insole] } [(.INS_STATE, 0, 3), (.iINS_N, 0, 52), (.iINS_PASSES, 0, 1),
      (.iINS_NEXT, 0, 52), (.iINS_NEW, 0, 5)]
    (run .insoleUpdateEnd s).reg .INS_SHOWN 0 = 5 ∧ (run .insoleUpdateEnd s).granted .insole = false := by decide +kernel

/-! ## Clocks (13_clocking.md, the example after R419) -/

def margined : State := run (.ckMarginWrite me 6 (BitVec.ofInt 32 (-2000))) live
theorem test_margin_relocks : margined.reg .CK_STATE 6 = 0 ∧ margined.status = 0 ∧
    margined.vcoTarget 6 = 3193600000000 := by decide +kernel

/-! ## Eyelets (R366 to R370) -/

/-- A ONE_SHOT at 5,000 ns, with network time at `ns`. -/
def eye (ns : Nat) : State :=
  { with_ live [(.EYE_MODE, 2, 1), (.EYE_START, 2, 5000), (.EYE_WIDTH, 2, 100)] with tb := ns * 2 ^ 48 }
theorem test_eye_arm : (run (.eyeCtrlArm me 2) (eye 4000)).reg .EYE_STATE 2 = 1 ∧
    (run (.eyeCtrlArm me 2) (eye 4001)).status = Code.eyePast ∧ (run (.eyeCtrlArm me 2) (eye 4001)).reg .EYE_STATE 2 = 0 := by
  decide +kernel
theorem test_eye_edge :
    let s : State := { run (.eyeCtrlArm me 2) (eye 4000) with tb := 5000 * 2 ^ 48 }
    (run (.eyeAssertEdge 2) s).reg .iEYE_ON 2 = 1 ∧ (run (.eyeAssertEdge 2) s).reg .EYE_EDGES 2 = 1 ∧
    (run (.eyeAssertEdge 2) (run (.eyeCtrlArm me 2) (eye 4000))).reg .iEYE_ON 2 = 0 := by decide +kernel
theorem test_eye_busy : (run (.eyeParamWrite me 2 .width 8) (run (.eyeCtrlArm me 2) (eye 4000))).status = Code.eyeBusy ∧
    (run (.eyeParamWrite me 2 .width 8) (eye 4000)).reg .EYE_WIDTH 2 = 8 := by decide +kernel
theorem test_eye_disarm : (run (.eyeCtrlDisarm me 2) (run (.eyeCtrlArm me 2) (eye 4000))).reg .EYE_STATE 2 = 0 := by
  decide +kernel
theorem test_eye_pulse_ends :
    let s : State := { with_ live [(.iEYE_ON, 2, 1), (.iEYE_END, 2, 100), (.EYE_STATE, 2, 1), (.iEYE_LAST, 2, 1)] with local_ := 200 }
    (run (.eyePulseEnd 2) s).reg .iEYE_ON 2 = 0 ∧ (run (.eyePulseEnd 2) s).reg .EYE_STATE 2 = 2 := by decide +kernel
theorem test_capture :
    let s := with_ live [(.CAP_EDGE, 1, 1)]
    (run (.captureEdge 1 false 1000 (70000 * 65536)) s).reg .CAP_COUNT 1 = 1 ∧
    (run (.captureEdge 1 false 1000 (70000 * 65536)) s).caps.length = 1 ∧
    (run (.captureEdge 1 true 1000 0) s).caps = [] := by decide +kernel
theorem test_cap_read_removes :
    let s : State := { live with caps := [(1, 5), (2, 6)] }
    (run (.capRead me 1) s).caps = [(2, 6)] ∧ (run (.capRead me 1) s).value.length = 16 := by decide +kernel

/-! ## Frames, tiles and slots (R21, R38, R108 to R111, R216) -/

/-- Surface A is LIT and 8,167,300 ns into its frame: raster position 541. -/
def inFrame : State := with_ (scanning 8167300000) [(.SO_OUT_STATE, 0, 1), (.iS_DISPATCHED, 0, 519), (.iS_RELEASED, 0, 516),
  (.iS_LINE, 0, 517 * 12)]
theorem test_band_dispatch : (run (.bandDispatch 0) inFrame).tileQueue.length = 30 ∧
    (run (.bandDispatch 0) inFrame).reg .iS_DISPATCHED 0 = 520 ∧
    (run (.bandDispatch 0) (with_ inFrame [(.iS_DISPATCHED, 0, 520)])).tileQueue = [] := by decide +kernel
theorem test_tile_assign :
    let s : State := { with_ inFrame [(.CL_STATE, 0, 4)] with tileQueue := [⟨0, 517, 3, 900⟩, ⟨1, 2, 7, 800⟩] }
    (run .tileAssign s).held = [(1, ⟨1, 2, 7, 800⟩)] ∧ (run .tileAssign s).tileQueue = [⟨0, 517, 3, 900⟩] := by decide +kernel
theorem test_slot_release :
    let s : State := { with_ inFrame [(.SC_ENABLE, 2, 0)] with tileQueue := [⟨0, 516, 3, 1⟩, ⟨0, 517, 3, 1⟩] }
    (run (.slotRelease 0 []) s).tileQueue = [⟨0, 517, 3, 1⟩] ∧ (run (.slotRelease 0 []) s).reg .HZ_LATE_TILES 0 = 1 := by decide +kernel
/-- R297: the last part of a lap; the band-ring scrubber is class 2. -/
theorem test_ring_scrub :
    let s := with_ inFrame [(.iRING_TESTS, 0, 511), (.iRING_TESTS, 1, 512), (.SC_POSITION, 2, 5)]
    (run (.slotRelease 0 [(7, .correctable), (9, .correctable)]) s).reg .SC_CORRECTED 2 = 2 ∧
    (run (.slotRelease 0 []) s).reg .SC_POSITION 2 = 0 := by decide +kernel
theorem test_frame_record_waits :
    let s : State := { inFrame with awaiting := [(0, inFrame.frameA)] }
    (run (.frameRecordPublish 1) s).awaiting = [(0, inFrame.frameA)] := by decide +kernel
theorem test_so_disable :
    (run (.soEnableDisable me 0) (with_ inFrame [(.iS_ENABLE, 0, 0), (.SO_DRAIN, 0, 0)])).reg .SO_OUT_STATE 0 = 1 ∧
    (run (.soEnableDisable me 0) (with_ inFrame [(.iS_ENABLE, 0, 0), (.SO_DRAIN, 0, 0)])).reg .iS_DISABLE 0 = 1 := by
  decide +kernel
theorem test_tap_busy : (run (.tapParamWrite me 0 3 .base 4096) (with_ ready [(.TAP_ENABLE, 3, 1)])).status = Code.tapBusy ∧
    (run (.tapParamWrite me 0 3 .base 4096) ready).reg .TAP_BASE 3 = 4096 := by decide +kernel
theorem test_last_resync : (run (.lastResync me 2) ready).reg .iG_RESYNC 2 = 1 := by decide +kernel

/-! ## Central store (R272 to R309) -/

/-- A Pip core writes across two code words and reads them back. -/
theorem test_store_round_trip :
    let t := run (.memoryWrite ⟨false, 0x60⟩ .pip 0x1001E [1, 2, 3, 4] calm) live
    (run (.memoryRead ⟨false, 0x60⟩ .pip 0x1001D 6 calm) t).answer = ⟨false, [0, 1, 2, 3, 4, 0], []⟩ := by decide +kernel
theorem test_read_poisons :
    (run (.memoryRead ⟨false, 0x60⟩ .pip 0x10000 32 (finds 0x800 .uncorrectable)) live).answer.poisoned = [0x800] ∧
    (run (.memoryRead ⟨false, 0x60⟩ .pip 0x10000 32 (finds 0x800 .correctable)) live).answer.poisoned = [] := by decide +kernel
theorem test_write_back :
    let s : State := { live with writeBacks := [⟨0x800, true, false, false⟩, ⟨0x900, false, true, false⟩] }
    (run (.correctedWriteBack calm) s).poison = [0x800] ∧
    (run (.correctedWriteBack calm) (run (.correctedWriteBack calm) s)).reg .MS_WB_DROPPED 0 = 1 := by
  decide +kernel
theorem test_window_freezes :
    let s := with_ live [(.MS_FROZEN_CORE, 0, 2 ^ 0x60)]
    (run (.memoryRead ⟨false, 0x60⟩ .pip 0 8 calm) s).answer.frozen = true ∧
    (run (.msRelease me ⟨false, 0x60⟩) s).reg .MS_FROZEN_CORE 0 = 0 ∧
    (run (.msRelease me ⟨false, 0x61⟩) s).status = Code.masterNotFrozen := by decide +kernel
theorem test_pn_clear : (run (.pnClear me) { with_ live [(.PN_LOST, 0, 9)] with poisonLog := [1, 2] }).poisonLog = [] ∧
    (run (.pnClear me) (with_ live [(.PN_LOST, 0, 9)])).reg .PN_LOST 0 = 0 := by decide +kernel
theorem test_refresh :
    let s : State := { with_ live [(.iREF_BANK, 5, 63)] with banks := ⟨[(5 * 64 + 63, 7)], [], 0⟩ }
    (run (.refresh 5) s).reg .iREF_BANK 5 = 0 ∧ (run (.refresh 5) s).banks.rows = [] := by decide +kernel
theorem test_hot_stack : (run (.stackTempRead 1 1361) live).reg .MS_HOT 0 = 2 ∧ (run (.stackTempRead 1 1360) live).reg .MS_HOT 0 = 0 ∧
    (run (.stackTempRead 1 1361) live).reg .CH_REFRESH 16 = 1 := by decide +kernel
theorem test_retrain_due : (run (.retrainDue 1) { with_ live [(.MS_RETRAIN_EN, 0, 1), (.iRT_BASE, 0, 1)] with local_ := 3125000 * 2 ^ 48 }).reg .iRT_LEFT 1 = 8 ∧
    (run (.retrainDue 1) { with_ live [(.MS_RETRAIN_EN, 0, 1), (.iRT_BASE, 0, 1)] with local_ := 3124999 * 2 ^ 48 }).reg .iRT_LEFT 1 = 0 := by
  decide +kernel
theorem test_retrain_pause :
    let s : State := { with_ live [(.iRT_LEFT, 4, 8)] with local_ := 10 ^ 9 * 2 ^ 48 }
    (run (.retrainPause 4 false 30 0 0 0 calm) s).reg .iRT_LEFT 4 = 7 ∧ (run (.chRetrainNow me 4) live).reg .iRT_LEFT 4 = 8 := by decide +kernel
theorem test_sweep :
    let s : State := { with_ live [(.MS_INIT_STATE, 0, 0), (.iSWEEP, 9, 512)] with grants := [.sweepBurst] }
    (run (.sweepBurst calm) s).reg .iSWEEP 9 = 768 ∧ (run (.sweepBurst calm) s).grants = [] ∧
    (run (.sweepBurst calm) { s with grants := [] }).waiting .sweepBurst = true := by decide +kernel
theorem test_scrub :
    let s : State := { with_ live [(.SC_ENABLE, 0, 1), (.SC_POSITION, 0, 0)] with grants := [.scrubBurst] }
    (run (.scrubBurst (finds 5 .correctable)) s).reg .SC_POSITION 0 = 16777216 ∧
    (run (.scrubBurst (finds 5 .correctable)) s).writeBacks.map WriteBack.word = [5] := by decide +kernel
theorem test_cache_scrub : (run (.cacheScrub 3 (some .uncorrectable) false) (with_ live [(.SC_ENABLE, 1, 1)])).reg .iCACHE_INVALID 3 = 1 ∧
    (run (.cacheScrub 3 none true) (with_ live [(.SC_ENABLE, 1, 1), (.SC_POSITION, 1, 8)])).reg .SC_POSITION 1 = 0 := by decide +kernel
theorem test_scrub_enable : (run (.scEnableDisable me 2) (with_ ready [(.SC_ENABLE, 2, 1)])).reg .SC_STATE 2 = 0 ∧
    (run (.scEnableResume me 2) (with_ ready [(.SC_ENABLE, 2, 0), (.SC_STATE, 2, 4)])).status = Code.funcDraining := by decide +kernel
theorem test_win_apply : (run (.winApply me) (with_ ready [(.WIN_ENABLE, 7, 0), (.WIN_BASE, 7, 4096)])).reg .iWIN_BASE 7 = 4096 := by
  decide +kernel
theorem test_neighbour_refresh :
    let s : State := { live with banks := ⟨[(1, 5)], [1], 0⟩ }
    (run (.neighbourRefresh 0 1) s).banks = ⟨[(1, 5)], [], 1⟩ ∧ (run (.neighbourRefresh 0 2) s).banks = s.banks := by
  decide +kernel

/-! ## Calibration slots and colour tables (R56, R62) -/

theorem test_cal_load : (run (.calLoadValidate me 4) ready).reg .CAL_STATE 4 = 1 ∧
    (run (.calLoadEmpty me 4) (with_ ready [(.CAL_STATE, 4, 1)])).status = Code.calSlotBusy ∧
    (run (.calLoadEmpty me 4) (with_ ready [(.CAL_STATE, 4, 3)])).reg .CAL_STATE 4 = 0 := by decide +kernel
theorem test_cal_slot_write : (run (.calSlotWrite me 20 .t1 700) (with_ ready [(.CAL_STATE, 20, 2)])).reg .CAL_STATE 20 = 3 ∧
    (run (.calSlotWrite me 20 .t1 700) ready).reg .CAL_T1 20 = 700 := by decide +kernel
theorem test_lut_shadow : (run (.lutWrite me 9 77) ready).lutShadow.map (·.lut) = [9] ∧
    (run (.lutWrite me 9 78) (run (.lutWrite me 9 77) ready)).status = Code.calSlotBusy := by decide +kernel
theorem test_ceiling : (run (.pwCeilingWrite me 511) (with_ ready [(.iS_RESV, 0, 300)])).status = Code.ceilingRefused ∧
    (run (.pwCeilingWrite me 512) (with_ ready [(.iS_RESV, 0, 300)])).reg .PW_CEILING 0 = 512 := by decide +kernel
theorem test_request : (run (.powerGrantRequest (.keeperWrite 1)) live).highReqs = [(.keeperWrite 1, 0)] ∧
    (run (.powerGrantReturn (.keeperWrite 1)) { live with grants := [.keeperWrite 1] }).grants = [] := by decide +kernel

/-! ## Hazel array (R128 to R136) -/

theorem test_engine_fault : (run (.engineFaultFence 2 0x0101 false) array).reg .CL_FAULT_MASK 2 = 0x0101 ∧
    (run (.engineFaultFence 2 0x01FF false) array).reg .CL_STATE 2 = 4 ∧
    (run (.engineFaultFence 2 0x00FF false) array).reg .CL_STATE 2 = 0 := by decide +kernel
theorem test_cluster_fault :
    let s : State := { array with held := [(3, ⟨0, 1, 2, 5⟩), (4, ⟨0, 1, 3, 5⟩)] }
    (run (.clusterFaultFence 3 true) s).requeued = [⟨0, 1, 2, 5⟩] ∧ (run (.clusterFaultFence 3 true) s).held.length = 1 := by
  decide +kernel
theorem test_overrun :
    let s : State := { with_ live [(.HZ_SHARE_A, 0, 128), (.CL_STATE, 1, 0)] with held := [(1, ⟨0, 1, 2, 5⟩)] }
    (run (.hogelOverrun 1 8 24153) s).reg .CL_FAULT_MASK 1 = 8 ∧ (run (.hogelOverrun 1 8 24152) s).reg .CL_FAULT_MASK 1 = 0 := by
  decide +kernel
theorem test_array_write_waits : (run (.arrayParamWrite me .bytesNs 1300) ready).reg .iARR 2 = 1300 ∧
    (run (.arrayParamWrite me .bytesNs 1300) ready).reg .HZ_BYTES_NS 0 = ready.reg .HZ_BYTES_NS 0 := by decide +kernel
theorem test_fault_clear : (run (.clFaultClear me 2 0x000F) (with_ ready [(.CL_FAULT_MASK, 2, 0x0009)])).reg .iCL_SELFTEST 2 = 9 ∧
    (run (.selfTestDone 2 true) (with_ ready [(.iCL_SELFTEST, 2, 9)])).reg .iCL_PASSED 2 = 9 := by decide +kernel
/-- R134: of a cluster fenced as a whole only 0xFFFF names the cluster. -/
theorem test_fault_clear_whole : (run (.clFaultClear me 2 0x000F) (with_ ready [(.CL_FAULT_MASK, 2, 0xFFFF), (.CL_STATE, 2, 4)])).reg .CL_STATE 2 = 4 ∧
    (run (.clFaultClear me 2 0xFFFF) (with_ ready [(.CL_FAULT_MASK, 2, 0xFFFF), (.CL_STATE, 2, 4)])).reg .CL_STATE 2 = 6 := by decide +kernel
theorem test_wake : (run (.clusterWakeDone 6) { with_ live [(.CL_STATE, 6, 2)] with grants := [.clusterWake 6] }).reg .CL_STATE 6 = 6 := by
  decide +kernel
theorem test_program_slot : (run (.pgLoadVerify me 1) ready).reg .PG_STATE 1 = 1 ∧
    (run (.pgLoadEmpty me 1) (with_ ready [(.PG_STATE, 1, 2)])).reg .PG_STATE 1 = 0 := by decide +kernel
theorem test_swap_refused : (run (.hzProgTarget me 1) ready).status = Code.admitRefused ∧
    (run (.hzProgTarget me 1) ready).reg .HZ_SWAP_STATE 0 = 2 := by decide +kernel
theorem test_cluster_loaded : (run (.clusterLoadDone 5 true) (with_ live [(.CL_STATE, 5, 3)])).reg .CL_STATE 5 = 6 ∧
    (run (.clusterLoadDone 5 false) (with_ live [(.CL_STATE, 5, 3), (.HZ_SWAP_STATE, 0, 1)])).reg .HZ_SWAP_STATE 0 = 3 := by
  decide +kernel

/-! ## Buffers, streams, groups and cues (R181 to R206) -/

def buf : State := with_ live [(.BUF_KIND, 6, 1), (.BUF_FORMAT, 6, 1), (.BUF_WIDTH, 6, 64), (.BUF_HEIGHT, 6, 64),
  (.BUF_BANKS, 6, 0xFFFFFFFF)]
theorem test_buffer_open : (run (.bufCtrlOpen me 6) buf).bankOf 6 2 = some 0 ∧
    (run (.bufCtrlOpen me 6) (run (.bufCtrlOpen me 6) buf)).status = Code.bufBusy ∧
    (run (.bufCtrlOpen me 7) buf).status = Code.odRange := by decide +kernel
theorem test_buffer_seal : (run (.bufCtrlSeal me 6) (with_ buf [(.BUF_BANKS, 6, 0xFF02FFFF)])).bankOf 6 3 = some 2 ∧
    (run (.bufCtrlDiscard me 6) (with_ buf [(.BUF_BANKS, 6, 0xFF02FFFF)])).bankOf 6 2 = none := by decide +kernel
theorem test_seal_complete : (run (.sealComplete 6 calm) (with_ buf [(.BUF_BANKS, 6, 0x02FF01FF)])).bankOf 6 1 = some 2 ∧
    (run (.sealComplete 6 calm) (with_ buf [(.BUF_BANKS, 6, 0x02FF01FF)])).reg .BUF_SUPERSEDED 6 = 1 := by decide +kernel
theorem test_buffer_parameter : (run (.bufParamWrite me 6 .width 96) buf).reg .BUF_WIDTH 6 = 96 ∧
    (run (.bufParamWrite me 6 .width 96) (with_ buf [(.BUF_BANKS, 6, 0xFF02FFFF)])).status = Code.bufBusy := by decide +kernel
theorem test_group_open : (run (.cgCtrlOpen me 4) ready).reg .CG_STATE 4 = 1 ∧ (run (.cgCtrlOpen me 4) ready).reg .CG_OWNER 4 = 3 ∧
    (run (.cgCtrlOpen .f0 4) (run (.cgCtrlOpen me 4) ready)).status = Code.cmtGroupState := by decide +kernel
theorem test_group_go :
    let s := with_ ready [(.CG_STATE, 4, 1), (.CG_OWNER, 4, 3), (.iCMT_NEXT, 0, 0xFFFFFFFF), (.CG_SURFACES, 4, 1)]
    (run (.cgCtrlGo me 4) s).reg .CG_ID 4 = 0xFFFFFFFF ∧ (run (.cgCtrlGo me 4) s).reg .iCMT_NEXT 0 = 1 ∧
    (run (.cgCtrlGo me 4) s).commits.length = 1 ∧ (run (.cgCtrlGo .f0 4) s).status = Code.cmtGroupState := by decide +kernel
theorem test_group_abort :
    let s := with_ ready [(.CG_STATE, 4, 3), (.CG_OWNER, 4, 3)]
    (run (.cgCtrlAbort me 4) s).reg .CG_STATE 4 = 0 ∧ (run (.cgCtrlAbort me 4) s).reg .CG_OWNER 4 = 0xFFFF := by decide +kernel
theorem test_group_parameter : (run (.cgParamWrite me 4 .surfaces 2) ready).reg .CG_SURFACES 4 = 2 ∧
    (run (.cgParamWrite me 4 .surfaces 2) (with_ ready [(.CG_STATE, 4, 2)])).status = Code.cmtGroupState := by decide +kernel
theorem test_cue : (run (.cueLoadValidate me 8) ready).reg .CUE_STATE 8 = 1 ∧
    (run (.cueLoadEmpty me 8) (with_ ready [(.CUE_STATE, 8, 2)])).reg .CUE_STATE 8 = 0 ∧
    (run (.cueParamWrite me 8 .crc 5) (with_ ready [(.CUE_STATE, 8, 2)])).reg .CUE_STATE 8 = 3 := by decide +kernel
theorem test_cue_of_nothing : (run (.cueValidationDone 8 calm) (with_ live [(.CUE_STATE, 8, 1)])).reg .CUE_STATE 8 = 3 ∧
    (run (.pbCtrlArm me 0) ready).status = Code.cueInvalid ∧
    (run (.pbCtrlStop me 0) (with_ ready [(.PB_STATE, 0, 2)])).reg .PB_STATE 0 = 0 := by decide +kernel

/-! ## Welt link (R246 to R265) -/

/-- Surface A with logical lane 0 on lane 0, ACTIVE, at 1 s of the local clock. -/
def welt (lane : Nat) (st : Int) : State :=
  { with_ live [(.WL_LANE_STATE, lane, st), (.iWL_SINCE, lane, 0), (.WR_STATE, 0, 2), (.WR_STATE, 1, 2)] with
    local_ := 1000000000 * 2 ^ 48 }
theorem test_lane_absent : (run (.receiverDetectPulse 0 5 false) (with_ (welt 5 0) [(.iWL_CTX, 5, 1), (.iWL_ABS, 5, 63)])).lane 0 5
      = laneFault ∧
    (run (.receiverDetectPulse 0 5 false) (with_ (welt 5 0) [(.iWL_CTX, 5, 1), (.iWL_ABS, 5, 62)])).lane 0 5 = laneDetect := by
  decide +kernel
theorem test_lane_timeout : (run (.laneTimeout 0 5) (with_ (welt 5 1) [(.iWL_CTX, 5, 1), (.iWL_PH, 5, 1)])).lane 0 5 = laneDetect ∧
    (run (.laneTimeout 0 5) (with_ (welt 5 1) [(.iWL_CTX, 5, 1), (.iWL_PH, 5, 1), (.iWL_FAILS, 5, 2)])).lane 0 5 = laneFault ∧
    (run (.laneTimeout 0 5) (with_ (welt 5 1) [(.iWL_CTX, 5, 1), (.iWL_PH, 5, 1), (.iWL_SINCE, 5, 980000001)])).lane 0 5 =
      laneTrain := by decide +kernel
theorem test_lane_retrain : (run (.wlCtrlRetrain me 0 82) (welt 82 4)).reg .iWL_BUSY 0 = 82 ∧
    run (.wlCtrlRetry me 0 82) (welt 82 4) = (welt 82 4).answered me .WL_CTRL 82 0 ∧
    (run (.wlCtrlRetry me 0 82) (welt 82 9)).lane 0 82 = laneDetect := by decide +kernel
/-- R254: with every lane of the surface a carrier but 80, lane 3 is spared to it. -/
theorem test_lane_spared :
    let s := with_ (welt 3 4) [(.WL_LANE_STATE, 80, 4)]
    (run (.wlCtrlSpare me 0 3) s).moves.map (fun m => (m.logical, m.fromLane, m.toLane, m.kind)) = [(3, 3, 80, 2)] ∧
    (run (.wlCtrlSpare me 0 3) s).fwd.length = 1 ∧
    (run (.wlCtrlSpare me 0 3) (welt 3 4)).lastEvent = some (Code.weltNoSpare, 0x0300) := by decide +kernel
theorem test_spare_effect :
    let m : Move := ⟨0, 3, 3, 80, 2, 500, 90125, false, false⟩
    let s : State := { with_ (welt 3 4) [(.WL_LANE_STATE, 80, 4)] with moves := [m] }
    (run (.spareEffect 0 3) s).lane 0 3 = laneSpared ∧ blobGet ((run (.spareEffect 0 3) s).reg .WL_SPARE_MAP 0) 3 1 = 80 ∧
    (run (.spareAckTimeout 0 3) { s with moves := [{ m with done := true }] }).reg .WL_SPARE_NOACK 0 = 1 := by decide +kernel
theorem test_resend :
    let s : State := { welt 3 4 with fwd := [⟨0, 9, 0x80, [1], 7, 0⟩] }
    (run (.fwdMsgResend 0) s).fwd.map FwdMsg.resends = [8] ∧
    (run (.fwdMsgResend 0) { s with fwd := [⟨0, 9, 0x80, [1], 8, 0⟩] }).lastEvent = some (Code.weltMsgLost, 0x098000) := by
  decide +kernel
theorem test_idle_entry : (run (.laneIdleEntry 0 7) (with_ (welt 7 4) [(.iWL_IDLEORD, 0, 1)])).lane 0 7 = laneIdle ∧
    (run (.laneIdleEntry 0 7) (welt 7 4)).lane 0 7 = laneActive ∧
    (run (.fastwakeDone 0 7) (welt 7 6)).lane 0 7 = laneActive := by decide +kernel
theorem test_caps_expires : (run (.capsHoldExpire 0) (with_ (welt 0 0) [(.iWL_CAPS, 0, 1), (.WR_STATE, 0, 0), (.WR_STATE, 1, 0)])).reg
      .iWL_CAPS 0 = 0 ∧
    (run (.capsHoldExpire 0) (with_ (welt 0 0) [(.iWL_CAPS, 0, 1)])).reg .iWL_CAPS 0 = 1 := by decide +kernel
/-- R258: 64 consecutive valid sync headers lock a return lane; 16 invalid ones within 64 unlock it. -/
theorem test_return_lanes :
    (run (.returnLaneLock 0 1 (List.replicate 63 ⟨1, 0⟩)) (with_ live [(.WR_STATE, 1, 1)])).reg .WR_STATE 1 = 1 ∧
    (run (.returnLaneUnlock 0 0 (List.replicate 15 ⟨0, 0⟩)) (welt 0 0)).reg .WR_STATE 0 = 2 ∧
    (run (.returnLaneUnlock 0 0 (List.replicate 16 ⟨0, 0⟩)) (with_ (welt 0 0) [(.WR_STATE, 1, 0)])).lastEvent =
      some (Code.weltReturnLost, 0) := by decide +kernel
theorem test_cal_request : (run (.wlCalFetch me 0 true) (welt 0 4)).fwd.map (fun m => (m.mtype, m.bytes)) =
    [(0x83, [1, 0, 0, 0, 0, 0, 0, 0])] := by decide +kernel
theorem test_prbs : (run (.wlPrbsMode me 0 83 2) (welt 83 4)).lane 0 83 = laneTest ∧
    (run (.wlPrbsMode me 0 3 2) (with_ (welt 3 4) [(.SO_OUT_STATE, 0, 1)])).status = Code.wlBusy := by decide +kernel
theorem test_return_prbs : (run (.wrPrbsMode me 0 0 1) (welt 0 4)).reg .WR_STATE 0 = 3 ∧
    (run (.wrPrbsMode me 0 0 1) (with_ (welt 0 4) [(.WR_STATE, 1, 0)])).status = Code.wlBusy := by decide +kernel

/-! ## Keeper (R448 to R462) -/

/-- A page write of page 1100 for lace 3 waits, with its grant given. -/
def keeping : State :=
  let w : PageWrite := ⟨1100, List.replicate 256 0xA5, .lace 3⟩
  { live with keeperQueue := [w], grants := [.keeperWrite 2] }
theorem test_page_write :
    let t := run (.keeperWriteStart 2) keeping
    t.keeperBusy.map PageWrite.page = [1100] ∧ t.keeperQueue = [] ∧
    (run (.keeperWriteDone 2) t).keeperBusy = [] ∧ Sparse.get keeperDefault (run (.keeperWriteDone 2) t).keeper (256 * 1100 + 7) = 0xA5 ∧
    (run (.keeperWriteDone 2) t).granted (.keeperWrite 2) = false := by decide +kernel
theorem test_page_write_refused : (run (.keeperWriteStart 2) (with_ keeping [(.KP_PROTECT, 0, 3)])).keeperQueue = [] ∧
    (run (.keeperWriteStart 2) (with_ keeping [(.KP_PROTECT, 0, 3)])).keeperBusy = [] := by decide +kernel
theorem test_keeper_scrub :
    let s := with_ live [(.SC_ENABLE, 3, 1), (.SC_POSITION, 3, 300)]
    (run (.keeperScrub [(4, .uncorrectable)]) s).keeperBad = [4804] ∧ (run (.keeperScrub []) s).reg .SC_POSITION 3 = 301 := by
  decide +kernel
theorem test_protect : (run (.kpProtectWrite me 2) ready).reg .KP_PROTECT 0 = 2 := by decide +kernel

/-! ## Thermal control and seams (R432 to R443, R473 to R476) -/

def hot (t : Nat) : List (BitVec 16) := BitVec.ofNat 16 t :: List.replicate 23 640
def rails : List (BitVec 16) := [1, 2, 3, 4, 5, 6, 7, 8, 9]
def diodes : List (Nat × Nat) := List.replicate 4 (600000000, 660000000)
theorem test_junction : (run (.thermalSample (hot 1000) diodes rails) live).reg .TH_JUNCTION 0 = 1000 ∧
    (run (.thermalSample (hot 1000) diodes rails) live).reg .PW_TOTAL 0 = 45 := by decide +kernel
/-- Two samples at TH_SHUT (115.0 °C) trip the comparator; one does not. -/
theorem test_comparator :
    let t := run (.thermalSample (hot 1840) diodes rails) live
    t.reg .iCMP_TRIP 0 = 0 ∧ (run (.thermalSample (hot 1840) diodes rails) t).reg .iCMP_TRIP 0 = 1 ∧
    (run .hardwareShutdown (run (.thermalSample (hot 1840) diodes rails) t)).reg .iPHASE 0 = 4 := by decide +kernel
theorem test_shut_write : (run (.thShutWrite me false 1679) ready).status = Code.odRange ∧
    (run (.thShutWrite me false 1680) ready).reg .TH_SHUT 0 = 1680 ∧
    (run (.thShutWrite me true 1681) ready).status = Code.odRange := by decide +kernel
theorem test_seam_opens :
    let s := with_ live [(.SM_ENABLE, 0, 1), (.SM_DEBOUNCE, 0, 1), (.SM_STATE, 0, 1)]
    (run (.seamLoopSample 0 [100000, 0, 0, 0]) s).reg .SM_STATE 0 = 2 ∧
    (run (.seamLoopSample 0 [100000, 0, 0, 0]) s).lastEvent.map Prod.fst = some Code.seamOpen := by decide +kernel
theorem test_seam_writes : (run (.smEnableWrite me 1 0x0F) ready).reg .SM_ENABLE 1 = 0x0F ∧
    (run (.smPolicyWrite me 0 1) (with_ ready [(.SM_ENABLE, 0, 0)])).reg .SM_POLICY 0 = 1 ∧
    (run (.smClear me 0) (with_ ready [(.SM_LATCHED, 0, 1)])).reg .SM_LATCHED 0 = 0 := by decide +kernel

/-! ## Network and PTP (R342 to R365) -/

def linked : State := with_ live [(.ETH_MODE, 0, 0), (.ETH_LINK, 0, 1), (.ETH_LINK, 1, 1)]
theorem test_link : (run (.linkUp 0 0 .other) live).lastEvent.map Prod.fst = some Code.linkUp ∧
    (run (.linkDown 0 0) (run (.linkUp 0 0 .other) live)).lastEvent.map Prod.fst = some Code.linkDown := by decide +kernel
theorem test_port_mode_downs : (run (.ethModeWrite me 0 .mode 1) (run (.linkUp 0 0 .other) live)).linkUp 0 0 = false ∧
    (run (.ethModeWrite me 0 .mode 1) (run (.linkUp 0 0 .other) live)).reg .ETH_MODE 0 = 1 := by decide +kernel
theorem test_queue_filter : (run (.rqParamWrite me 5 .value 77) { ready with rxq := [(5, [1, 2]), (6, [3])] }).rxq = [(6, [3])] ∧
    (run (.rqParamWrite me 5 .value 77) ready).reg .RQ_VALUE 5 = 77 := by decide +kernel
theorem test_sync_in : (run (.syncInEdge (5 * 65536)) (with_ live [(.TB_SOURCE, 0, 1), (.iSYNC_RUN, 0, 1), (.iSYNC_FIRST, 0, 1),
    (.TB_SYNC_LOAD, 0, 7000000000)])).reg .TB_SYNC_LOAD 0 = 8000000000 := by decide +kernel

/-! ## Sessions (R386 to R393) -/

/-- One ns before PLV_TIMEOUT the session stays open. -/
theorem test_session_stays : (run (.sessionTimeout 3) { ready with local_ := 9999999999 * 2 ^ 48 }).reg .SS_STATE 3 = 1 := by
  decide +kernel

/-! ## Resets and the firmware (R480 to R503, R517) -/

theorem test_smbus : (run .smbReadJunction (with_ live [(.TH_JUNCTION, 0, 0x0543)])).sent = [.smbus [0x43, 0x05]] := by decide +kernel

/-! ## The hypotheses of the statements

A command that is a write completes by its claim where the checks of R380 pass: each list below shows states and
operands, the first and last instances among them, where they do. -/

/-- The checks of R380 let the command write its parameter. -/
def passes (s : State) (c : Instr) : Bool :=
  match writeTarget c with
  | some (acc, r, k, v) => s.reachable acc && (writeFault s acc r k (r.width / 8) v false).isNone
  | none => false

theorem passes_spec (s : State) (c : Instr) (acc : Accessor) (r : Reg) (k v : Nat)
    (h : writeTarget c = some (acc, r, k, v)) (p : passes s c = true) : s.Passes acc r k v := by
  simp only [passes, h, Bool.and_eq_true, Option.isNone_iff_eq_none] at p
  exact p

/-- Rings of 16 entries. -/
def rings : State := with_ ready [(.GC_RING_SIZE, 7, 16), (.STR_RING_SIZE, 255, 16), (.SK_RING_SIZE, 3, 16)]

theorem witness_EyeletCommands : [
    .eyeCtrlArm me 7, .eyeCtrlDisarm me 0, .eyeParamWrite me 1 .mode 1, .eyeParamWrite me 1 .start 1,
    .eyeParamWrite me 1 .period 1000, .eyeParamWrite me 1 .width 8, .eyeParamWrite me 1 .count 1,
    .eyeParamWrite me 1 .gen 1, .eyeParamWrite me 1 .every 1, .eyeParamWrite me 1 .offset 1].all (passes rings) = true := by decide +kernel
theorem witness_SurfaceTimingAndTaps : [
    .soEnableDisable me 1, .soEnableResume me 0, .tapTailWrite me 1 7 1, .tapParamWrite me 1 7 .base 4096,
    .tapParamWrite me 1 7 .slots 3, .tapParamWrite me 1 7 .v 11].all (passes rings) = true := by decide +kernel
theorem witness_StoreAccesses : [
    .winApply me, .msRelease me ⟨true, 255⟩, .pnClear me].all (passes rings) = true := by decide +kernel
theorem witness_StoreUpkeep : [
    .chRetrainNow me 31, .msRetrainEnDisable me].all (passes rings) = true := by decide +kernel
theorem witness_ScrubAndSweep : [
    .scEnableDisable me 3, .scEnableResume me 0].all (passes rings) = true := by decide +kernel
theorem witness_PowerLedger : [
    .pwCeilingWrite me 920].all (passes rings) = true := by decide +kernel
theorem witness_CalibrationSlots : [
    .calLoadValidate me 0, .calLoadEmpty me 63, .calSlotWrite me 5 .t1 640, .calSlotWrite me 5 .crc 7,
    .calSlotWrite me 0 .t0 1, .calSlotWrite me 0 .t2 1, .calSlotWrite me 0 .base 4096, .lutWrite me 0 5,
    .lutWrite me 11 5].all (passes rings) = true := by decide +kernel
theorem witness_ClusterFaults : [
    .arrayParamWrite me .clusterEn 0xFFFF, .arrayParamWrite me .shareA 128, .arrayParamWrite me .bytesNs 1400,
    .arrayParamWrite me (.spread 1) 0, .arrayParamWrite me (.spread 0) 1, .arrayParamWrite me (.fenceReq 3) 1,
    .arrayParamWrite me (.fence 15) 1, .clFaultClear me 15 0xFFFF].all (passes rings) = true := by decide +kernel
theorem witness_HazelPrograms : [
    .pgLoadVerify me 1, .pgLoadEmpty me 0, .hzProgTarget me 1].all (passes rings) = true := by decide +kernel
theorem witness_CodecJobs : [
    .gcTailWrite me 7 3].all (passes rings) = true := by decide +kernel
theorem witness_CodecEnables : [
    .gcEnableDisable me 0 0, .gcEnableResume me 7, .gcRingWrite me 4 .base 4096, .gcRingWrite me 4 .size 16,
    .codecAssignWrite me .ingest 2, .codecAssignWrite me .taps 2].all (passes rings) = true := by decide +kernel
theorem witness_SkiverJobs : [
    .skTailWrite me 3 1, .skEnableDisable me 0 0, .skEnableResume me 3, .skRingWrite me 0 .base 4096,
    .skRingWrite me 0 .size 16].all (passes rings) = true := by decide +kernel
theorem witness_LaceTransfers : [
    .lcShDescWrite me 63 5, .lcArm me 0, .lcDisarm me 63].all (passes rings) = true := by decide +kernel
theorem witness_LaceErrors : [
    .lsBusClear me, .lcCtrlResume me 0, .lcCtrlAbandon me 63, .lcEnableDisable me 0, .lcEnableResume me 63].all (passes rings) = true := by decide +kernel
theorem witness_StreamIngest : [
    .strRingTailWrite (some me) 255 1].all (passes rings) = true := by decide +kernel
theorem witness_BufferFrames : [
    .bufCtrlOpen me 1023, .bufCtrlSeal me 0, .bufCtrlDiscard me 0, .bufParamWrite me 9 .kind 1,
    .bufParamWrite me 9 .format 1, .bufParamWrite me 9 .store 1, .bufParamWrite me 9 .width 64,
    .bufParamWrite me 9 .height 64, .bufParamWrite me 9 .base 4096, .bufParamWrite me 9 .source 3,
    .bufParamWrite me 9 .conceal 1].all (passes rings) = true := by decide +kernel
theorem witness_CommitGroups : [
    .cgCtrlOpen me 15, .cgCtrlGo me 15, .cgCtrlAbort me 0, .cgParamWrite me 4 .surfaces 3,
    .cgParamWrite me 4 .buffers 0, .cgParamWrite me 4 .at_ 9, .cgParamWrite me 4 .darkOk 1,
    .cgParamWrite me 4 .trigger 1].all (passes rings) = true := by decide +kernel
theorem witness_CuesAndPlayback : [
    .cueLoadValidate me 1023, .cueLoadEmpty me 0, .cueParamWrite me 2 .base 4096,
    .cueParamWrite me 2 .size 4096, .cueParamWrite me 2 .crc 1, .cueParamWrite me 2 .bind 0, .pbCtrlArm me 1,
    .pbCtrlStop me 0].all (passes rings) = true := by decide +kernel
theorem witness_WeltSparing : [
    .wlCtrlRetrain me 1 83, .wlCtrlSpare me 0 0, .wlCtrlRetry me 1 5, .wlMapReset me 1].all (passes rings) = true := by decide +kernel
theorem witness_WeltIdleAndTest : [
    .wlPrbsMode me 1 83 3, .wrPrbsMode me 1 1 3].all (passes rings) = true := by decide +kernel
theorem witness_CalibrationDelivery : [
    .wlCalFetch me 0 true, .wlCalFetch me 1 false].all (passes rings) = true := by decide +kernel
theorem witness_SwitchAndLinks : [
    .ethModeWrite me 1 .mode 1, .ethModeWrite me 1 .fec 1, .ethModeWrite me 1 .an 0,
    .rqParamWrite me 63 .kind 1, .rqParamWrite me 63 .value 1, .rqParamWrite me 63 .ports 3].all (passes rings) = true := by decide +kernel
theorem witness_Timebase : [
    .lastResync me 3, .lastRateWrite me 0 2, .tbSourceWrite me 1, .tbSet me 5, .tbAdj me 0xFFFFFFFF].all (passes rings) = true := by decide +kernel
theorem witness_PllLock : [
    .ckMarginWrite me 2 0xFFFFF830, .ckRelock me 6, .ckSyncArm me].all (passes rings) = true := by decide +kernel
theorem witness_ThermalControl : [
    .thStageMaxWrite me 3, .thShutWrite me false 1840, .thShutWrite me true 1520].all (passes rings) = true := by decide +kernel
theorem witness_InsoleDisplay : [
    .insoleImageWrite me 5, .insEnableDisable me, .insEnableResume me].all (passes rings) = true := by decide +kernel
theorem witness_SeamLoops : [
    .smClear me 1, .smPolicyWrite me 0 1, .smEnableWrite me 1 15].all (passes rings) = true := by decide +kernel
theorem witness_DictionaryWrites : [
    .nqModeWrite me 2047 0, .odFactory me, .kpProtectWrite me 3].all (passes rings) = true := by decide +kernel
theorem witness_SessionsAndKeys : [
    .ssClose me 1023, .plvKeySet me 0x12345].all (passes rings) = true := by decide +kernel
theorem witness_FirmwareUpdate : [
    .fwProgram me, .fwSwitchTrial me, .fwSwitchCommit me, .fwSwitchRestart me].all (passes rings) = true := by decide +kernel
theorem witness_ResetCommands : [
    .svReset me 0 true].all (passes rings) = true := by decide +kernel

theorem witness_no_message : State.reset.NoMessage ∧ ready.NoMessage := by
  unfold State.NoMessage; decide +kernel
theorem witness_trial : ready.NoMessage ∧ ready.Passes me .FW_SWITCH 0 1 ∧ ready.Passes me .FW_SWITCH 0 3 :=
  ⟨witness_no_message.2, passes_spec ready (.fwSwitchTrial me) _ _ _ _ rfl (by decide +kernel),
    passes_spec ready (.fwSwitchRestart me) _ _ _ _ rfl (by decide +kernel)⟩
theorem witness_FrontCommandIsPerformed : (State.pending { State.reset with pending := [.refclkLoss, .keepWrite] }) =
    .refclkLoss :: [.keepWrite] := rfl
def idle : State := with_ ready [(.TB_RATE, 0, -4096), (.LAST_USERS, 0, 1), (.LAST_USERS, 1, 2), (.LAST_USERS, 2, 1),
  (.LAST_USERS, 3, 1)]
theorem witness_IdleCycleCountsTime : idle.pending = [] ∧ -4096000000000 ≤ idle.regInt .TB_RATE 0 ∧
    idle.regInt .TB_RATE 0 = -4096 ∧ (∀ g, g < 4 → idle.reg .LAST_USERS g ≠ 0) ∧
    (∀ i, i < 4 → idle.reg .WR_STATE i ≠ 3) ∧ ∀ surf, surf < 2 → ∀ p, p < 84 → idle.isTraining surf p = false ∧
      idle.lane surf p ≠ laneActive ∧ idle.lane surf p ≠ laneTest := by decide +kernel
theorem witness_StepKeepsCanonicalForm : State.reset.Canonical ∧ ∃ t, step State.reset = .next t :=
  ⟨⟨rfl, rfl, rfl⟩, _, rfl⟩
theorem witness_StepKeepsNoMessage : State.reset.NoMessage ∧ ∃ t, step State.reset = .next t :=
  ⟨witness_no_message.1, _, rfl⟩
theorem witness_RefusedWritesChangeNothing : writeTarget (.tbAdj me 9) = some (me, .TB_ADJ, 0, 9) ∧
    ready.reachable me = true ∧ ready.reachable (.session 4) = false ∧
    writeFault ready .f3 .TB_ADJ 0 (Reg.TB_ADJ.width / 8) 9 false = some Code.odLevel := by decide +kernel
theorem witness_ContentsHaveOwners : (∃ t, exec (.cgCtrlOpen me 4) ready = .next t) ∧ writesById (.cgCtrlOpen me 4) = false ∧
    isReset (.cgCtrlOpen me 4) = false ∧ writesStore (.cgCtrlOpen me 4) = false ∧ movesTime (.cgCtrlOpen me 4) = false :=
  ⟨⟨_, rfl⟩, rfl, rfl, rfl, rfl⟩
/-- Every role of R10. -/
theorem witness_RolesReachTheirLevels : ready.served .TB_ADJ = true ∧ (regRow .TB_ADJ).access ≠ .ro ∧
    (regRow .TB_ADJ).access ≠ .const ∧ (regRow .TB_NOW).access ≠ .wo ∧ ready.served .TB_NOW = true ∧
    [0, 1, 2, 3].all (fun k => (with_ ready [(.SS_ROLE, 3, (k : Nat))]).role me == k) = true := by decide +kernel
theorem witness_SubindexZeroAndMissingObjects : ready.reachable me = true ∧ ready.reg .iPHASE 0 = 1 ∧
    highestSub 0x0001 = none ∧ lookupReg 0x5000 0x7F = none ∧ (highestSub 0x5000).isSome = true := by decide +kernel
theorem witness_QueuesHoldThirtyTwoEntries : ((queue200 32 0).queue 200).entries.length = 32 ∧
    ((queue200 33 0).queue 200).entries.length = 32 ∧ (queue200 33 0).reg .NQ_LOST 200 = 1 ∧
    (queue200 33 0).reg .NQ_SEQ 200 = 50 := by decide +kernel
theorem witness_GainAndOutputTransfer : calibrated.gainOn 0 = true ∧ State.reset.gainOn 0 = false ∧
    calibrated.calPoisoned 1 0 (8 * (517 * calibrated.reg .SURF_WIDTH 0 + 613)) 2 4 = false ∧
    (with_ calibrated [(.CAL_GAIN_BYPASS, 0, 1)]).reg .CAL_GAIN_BYPASS 0 = 1 := by decide +kernel
/-- R151 at the border of its two forms: 23 and 24 ones. -/
theorem witness_HuskTransformAndCodes : (47 : Nat) >>> 1 = 23 ∧ (48 : Nat) >>> 1 = 24 ∧
    Husk.takeCode 1 (Husk.putCode 1 47 ++ [true]) = some (47, [true]) ∧
    Husk.takeCode 1 (Husk.putCode 1 48 ++ [true]) = some (48, [true]) := by decide +kernel
/-- The samples of a tap block of 96 by 6 pixels. -/
theorem witness_HuskIsLossless : Husk.dims 3 = (96, 6, 3) ∧
    (List.replicate (96 * 6) ([0, 512, 1023] : Husk.Sample)).length = 96 * 6 ∧
    ∀ y ∈ List.replicate 576 ([0, 512, 1023] : Husk.Sample), y.length = 3 ∧ ∀ v ∈ y, 0 ≤ v ∧ v ≤ 1023 := by
  refine ⟨rfl, List.length_replicate, fun y h => ?_⟩
  rw [List.eq_of_mem_replicate h]
  decide
def patternJob : SkJob :=
  ⟨⟨0x1000, 8, false, 0, 0⟩, ⟨0x1000, 8, false, 1, 1⟩, 0, 0, 0xCC, 3, 3, 0, 2, false, false, 0, 0, 0, 0⟩
theorem witness_RasterOperation : patternJob.rop < 256 ∧ patternJob.readsSrc = false ∧ patternJob.readsDst = false ∧
    patternJob.readsPat = true := by decide +kernel
theorem witness_ResetsAndTheStore : (∃ t, exec (.powerReset 0 true []) ready = .next t) ∧
    (∃ t, exec (.deviceReset 0 true) ready = .next t) ∧ (∃ t, exec .warmRestart ready = .next t) :=
  ⟨⟨_, rfl⟩, ⟨_, rfl⟩, ⟨_, rfl⟩⟩
/-- TH_SHUT is 115.0 °C and TH_RESTART 95.0 °C: the borders are 105.0 °C for both. -/
theorem witness_ShutdownHysteresis : ready.reachable me = true ∧ ready.served .TH_SHUT = true ∧
    ready.served .TH_RESTART = true ∧ mayWrite (ready.role me) (regRow .TH_SHUT).level = true ∧
    mayWrite (ready.role me) (regRow .TH_RESTART).level = true ∧
    (1679 < ready.regInt .TH_RESTART 0 + 160) ∧ (ready.regInt .TH_SHUT 0 - 160 < 1681) ∧
    (run (.thShutWrite me false 1680) ready).status = 0 ∧ (run (.thShutWrite me true 1680) ready).status = 0 := by
  decide +kernel

/-! ## Well-formed terms, and one that each check refuses -/

/-- What the channels show names a code word twice. -/
def doubled : Seen := ⟨[(3, .correctable), (3, .uncorrectable)], []⟩

/-- The commands that see the channels, over what they see. -/
def seers (x : Seen) : List Instr := [
    .memoryRead ⟨false, 0⟩ .pip 0 1 x, .memoryWrite ⟨false, 0⟩ .pip 0 [1] x, .correctedWriteBack x, .sweepBurst x,
    .retrainPause 0 false 9 9 0 0 x, .scrubBurst x, .pgLoadDone 0 0 0 x, .sealComplete 0 x, .streamTilesPacket [1] x,
    .streamEndPacket [1] x, .streamPacketFetch 0 0 [1] x, .ingestTileDecoded 0 x, .cueValidationDone 0 x,
    .commitDeadline 0 x, .calValidationDone 0 x, .calData 0 0 [⟨1, 0⟩] x, .calEnd 0 0 [⟨1, 0⟩] x, .tileComplete 0 [] x,
    .tapRowCoded 0 0 x, .tapFrameHeaderWrite 0 0 x, .gcJobStart 0 x, .gcJobEnd 0 x, .laceDescriptorStart 0 x,
    .laceBurst 0 [] [] false x, .laceComplete 0 x, .skJobStart 0 x, .skJobEnd 0 x, .fwProgramDone [] true x]
theorem test_wf_seen : (seers (finds 3 .correctable)).all Instr.wellFormed = true ∧
    (seers doubled).any Instr.wellFormed = false := by decide +kernel
theorem test_wf_length : (Instr.memoryRead ⟨false, 0⟩ .pip 0 0 calm).wellFormed = false ∧
    (Instr.memoryWrite ⟨false, 0⟩ .pip 0 [] calm).wellFormed = false := by decide +kernel
theorem test_wf_datagram (n : Nat) (h : n = 65508) : datagramOk [1] = true ∧
    (Instr.streamTilesPacket (List.replicate n 0) calm).wellFormed = false ∧
    (Instr.streamEndPacket (List.replicate n 0) calm).wellFormed = false ∧
    (Instr.streamPacketFetch 0 0 (List.replicate n 0) calm).wellFormed = false ∧
    (Instr.plovanOpen 0 0 0 0 0 (List.replicate n 0)).wellFormed = false ∧
    (Instr.plovanClose 0 0 0 0 0 (List.replicate n 0)).wellFormed = false ∧
    (Instr.plovanKeepalive 0 0 0 0 0 (List.replicate n 0)).wellFormed = false ∧
    (Instr.plovanRead 0 0 0 0 0 (List.replicate n 0)).wellFormed = false ∧
    (Instr.plovanWrite 0 0 0 0 0 (List.replicate n 0)).wellFormed = false ∧
    (Instr.plovanDescribe 0 0 0 0 0 (List.replicate n 0)).wellFormed = false ∧
    (Instr.plovanSubscribe 0 0 0 0 0 (List.replicate n 0)).wellFormed = false ∧
    (Instr.plovanUnsubscribe 0 0 0 0 0 (List.replicate n 0)).wellFormed = false := by
  simp [Instr.wellFormed, datagramOk]; omega
/-- The commands that a message of the panel makes, over its blocks. -/
def messages (b : List RBlock) : List Instr := [.caps 0 0 b, .laneStatus 0 0 b, .eqReq 0 0 b, .eqDone 0 0 b,
  .spareReq 0 0 b, .spareAck 0 0 b, .sensors 0 0 b, .calBegin 0 0 b, .calData 0 0 b calm, .calEnd 0 0 b calm,
  .calNone 0 0 b, .prbsReport 0 0 b]
theorem test_wf_message : (messages [⟨1, 0⟩]).all Instr.wellFormed = true ∧
    (messages []).any Instr.wellFormed = false := by decide +kernel
theorem test_wf_slot : (Instr.slotRelease 0 [(1, .correctable)]).wellFormed = true ∧
    (Instr.slotRelease 0 [(1, .correctable), (1, .correctable)]).wellFormed = false ∧
    (Instr.slotRelease 0 [(2 ^ 32, .correctable)]).wellFormed = false := by decide +kernel
theorem test_wf_frame : (Instr.ethFrameReceive 0 0 (List.replicate 14 0) false 0 0 0 0).wellFormed = true ∧
    (Instr.ethFrameReceive 0 0 (List.replicate 13 0) false 0 0 0 0).wellFormed = false := by decide +kernel
theorem test_wf_counts : (Instr.bandSearchDone 0 (List.replicate 64 0)).wellFormed = true ∧
    (Instr.bandSearchDone 0 (List.replicate 63 0)).wellFormed = false := by decide +kernel
theorem test_wf_sample : (Instr.thermalSample (hot 1000) diodes rails).wellFormed = true ∧
    (Instr.thermalSample [] diodes rails).wellFormed = false ∧ (Instr.thermalSample (hot 1000) [] rails).wellFormed = false ∧
    (Instr.thermalSample (hot 1000) diodes []).wellFormed = false := by decide +kernel
theorem test_wf_loops : (Instr.seamLoopSample 0 [1, 2, 3, 4]).wellFormed = true ∧
    (Instr.seamLoopSample 0 [1, 2, 3]).wellFormed = false := by decide +kernel
theorem test_wf_groups : (Instr.powerReset 0 true [1, 2, 3, 4]).wellFormed = true ∧
    (Instr.powerReset 0 true [1, 2, 3, 4, 5]).wellFormed = false := by decide +kernel
theorem test_wf_value : (Instr.parameterWrite me 0 0 [1]).wellFormed = true ∧
    (Instr.parameterWrite me 0 0 []).wellFormed = false := by decide +kernel

/-- R12, R414: bytes 5 to 7 of a band entry are RSVD and read as 0. -/
theorem test_rsvd_reads_zero : clearRsvd .CK_BAND_TABLE [1, 2, 3, 4, 5, 6, 7, 8] = [1, 2, 3, 4, 5, 0, 0, 0] := by decide

end Sys2Proof.Machine.Test
end

section
/-! The roles of R10 and the levels they reach: what the checks of R380 answer for a role and a level. -/
namespace Sys2Proof.Machine

/-- R10: a role reads the levels below its number, and an observer what an operator reads. -/
theorem mayRead_iff (role level : Nat) : mayRead role level = true ↔ level < max role 1 := by
  simp only [mayRead, decide_eq_true_eq]
  omega

/-- R10: a role writes the levels below its number, so an observer none. -/
theorem mayWrite_iff (role level : Nat) : mayWrite role level = true ↔ level < role := by
  simp only [mayWrite, Bool.and_eq_true, decide_eq_true_eq]
  omega

/-- R380: a read of a readable parameter that is served is checked by its level alone. -/
theorem readFault_eq_none_iff {s : State} {acc : Accessor} {r : Reg} (hs : s.served r = true)
    (hwo : (regRow r).access ≠ .wo) :
    readFault s acc r = none ↔ mayRead (s.role acc) (regRow r).level = true := by
  simp only [readFault, hs, hwo, Bool.not_true, Bool.false_eq_true, if_false]
  cases mayRead (s.role acc) (regRow r).level with
  | false => simp only [Bool.not_false, if_true, reduceCtorEq, Bool.false_eq_true]
  | true => simp only [Bool.not_true, Bool.false_eq_true, if_false]

/-- R380: for a writable parameter that is served the checks begin with the one of the level. -/
theorem writeFault_of_writable {s : State} {acc : Accessor} {r : Reg} (i len v : Nat) (g : Bool)
    (hs : s.served r = true) (hro : (regRow r).access ≠ .ro) (hconst : (regRow r).access ≠ .const) :
    writeFault s acc r i len v g =
      if !mayWrite (s.role acc) (regRow r).level then some Code.odLevel
      else if len * 8 ≠ r.width then some Code.odType
      else if !rangeOk s r i v then some Code.odRange
      else if (regRow r).commit = .scheduled ∧ g = false then some Code.odNeedGroup
      else none := by
  cases ha : (regRow r).access with
  | ro => exact absurd ha hro
  | const => exact absurd ha hconst
  | rw | wo => simp only [writeFault, hs, ha, Bool.not_true, Bool.false_eq_true, if_false]

/-- R380: the checks after the one of the level have other codes, so OD_LEVEL says that the role does not reach it. -/
theorem writeFault_ne_odLevel_iff {s : State} {acc : Accessor} {r : Reg} (i len v : Nat) (g : Bool)
    (hs : s.served r = true) (hro : (regRow r).access ≠ .ro) (hconst : (regRow r).access ≠ .const) :
    writeFault s acc r i len v g ≠ some Code.odLevel ↔ mayWrite (s.role acc) (regRow r).level = true := by
  rw [writeFault_of_writable i len v g hs hro hconst]
  cases mayWrite (s.role acc) (regRow r).level with
  | false => simp only [Bool.not_false, if_true, ne_eq, not_true_eq_false, Bool.false_eq_true]
  | true =>
    have htype : Code.odType ≠ Code.odLevel := by decide
    have hrange : Code.odRange ≠ Code.odLevel := by decide
    have hgroup : Code.odNeedGroup ≠ Code.odLevel := by decide
    simp only [Bool.not_true, Bool.false_eq_true, if_false, iff_true]
    split
    · simpa only [ne_eq, Option.some.injEq] using htype
    split
    · simpa only [ne_eq, Option.some.injEq] using hrange
    split
    · simpa only [ne_eq, Option.some.injEq] using hgroup
    · exact (Option.some_ne_none _).symm

/-- The four roles of R10, by number: observer, operator, engineer and service session. -/
theorem eq_of_lt_four {role : Nat} (h : role < 4) : role = 0 ∨ role = 1 ∨ role = 2 ∨ role = 3 := by omega

/-- Settles O9: the four roles of R10, each by the bound on the levels that it reads and writes. -/
theorem rolesReachTheirLevels : Obligations.RolesReachTheirLevels := by
  intro s acc r hrole hserved
  refine ⟨fun hwo => ?_, fun hro hconst i len v g => ?_⟩
  · rw [readFault_eq_none_iff hserved hwo, mayRead_iff]
    generalize s.role acc = role at hrole ⊢
    obtain rfl | rfl | rfl | rfl := eq_of_lt_four hrole
    · exact Nat.lt_one_iff
    · exact Nat.lt_one_iff
    · exact Nat.lt_succ_iff
    · exact Nat.lt_succ_iff
  · rw [writeFault_ne_odLevel_iff i len v g hserved hro hconst, mayWrite_iff]
    generalize s.role acc = role at hrole ⊢
    obtain rfl | rfl | rfl | rfl := eq_of_lt_four hrole
    · exact iff_false_intro (Nat.not_lt_zero _)
    · exact Nat.lt_one_iff
    · exact Nat.lt_succ_iff
    · exact Nat.lt_succ_iff

end Sys2Proof.Machine
end

section
/-! Calibration slots and colour table writes (02_scene_model.md, R56, R62): a write that its chapter may refuse, the
slot rules that see nothing of a status, and what the validation of a slot leaves in its registers. -/
namespace Sys2Proof.Machine

/-! ## A write that the owning chapter may refuse -/

/-- Where the checks of R380 pass, the owning chapter's condition `b`, which a status does not change, decides
between its refusal and the effect. -/
theorem writeParam_of_refusable {s : State} {acc : Accessor} {r : Reg} {i v code : Nat} {b : State → Bool}
    {eff : State → State} (hp : s.Passes acc r i v) (hb : b (s.setStatus 0) = b s) :
    writeParam s acc r i v (fun t => if b t then t.refuse code else eff t) =
      if b s = true then s.answered acc r i code else (eff (s.setStatus 0)).noteAccess acc (r.id i) := by
  rw [writeParam_of_passes hp, hb]
  split
  · rfl
  · rfl

/-- A command that is such a write is refused, or completes with what its effect establishes and within the frame
of the command. -/
theorem refusableWrite_completes {c : Instr} {s : State} {acc : Accessor} {r : Reg} {i v code : Nat}
    {b : State → Bool} {eff : State → State} {W : List Part} {P : State → Prop}
    (hc : exec c s = .next (writeParam s acc r i v (fun t => if b t then t.refuse code else eff t)))
    (hp : s.Passes acc r i v) (hb : b (s.setStatus 0) = b s) (hW : OutTouches W s (exec c s))
    (hP : P ((eff (s.setStatus 0)).noteAccess acc (r.id i))) :
    if b s = true then exec c s = .next (s.answered acc r i code)
    else ∃ t, exec c s = .next t ∧ Touches W s t ∧ P t := by
  rw [writeParam_of_refusable hp hb] at hc
  split
  case isTrue hr => rw [hc, if_pos hr]
  case isFalse hr =>
    rw [if_neg hr] at hc
    obtain ⟨t, ht, touches⟩ := hW
    obtain rfl := Host.Outcome.next.inj (hc.symm.trans ht)
    exact ⟨_, hc, touches, hP⟩

/-! ## The slot rules see nothing of a status -/

/-- Writing a register and setting the status commute. -/
theorem State.setStatus_setReg (s : State) (code : Nat) (r : Reg) (i v : Nat) :
    (s.setStatus code).setReg r i v = (s.setReg r i v).setStatus code := rfl

/-- A fold that writes registers keeps the status of the state it begins with. -/
theorem foldl_setStatus {α : Type} {f : State → α → State} {code : Nat}
    (hf : ∀ t a, f (t.setStatus code) a = (f t a).setStatus code) (l : List α) (s : State) :
    l.foldl f (s.setStatus code) = (l.foldl f s).setStatus code :=
  List.foldl_hom (fun t : State => t.setStatus code) hf

/-- The candidate state of a surface has the status of the state it is made from. -/
theorem State.withValues_setStatus (s : State) (code surf : Nat) (cs : List Commit) :
    (s.setStatus code).withValues surf cs = (s.withValues surf cs).setStatus code := by
  unfold State.withValues
  rw [← State.setStatus_setReg, ← foldl_setStatus]
  refine fun t c => foldl_setStatus (fun u kv => ?_) (c.forSurf surf) t
  split
  · rfl
  · exact State.setStatus_setReg ..

/-- The states that accepted commits bring into force have the status of the state they follow. -/
theorem State.acceptedStates_setStatus (s : State) (code surf except : Nat) :
    (s.setStatus code).acceptedStates surf except =
      (s.acceptedStates surf except).map (State.setStatus · code) := by
  unfold State.acceptedStates
  simp only [State.withValues_setStatus, List.map_map]
  rfl

/-- Whether a state uses a slot does not depend on its status. -/
theorem State.usesSlot_setStatus (s : State) (code kind surf i : Nat) :
    (s.setStatus code).usesSlot kind surf i = s.usesSlot kind surf i := rfl

/-- Whether a slot refuses writes does not depend on the status. -/
theorem State.calRefuses_setStatus (s : State) (code i : Nat) :
    (s.setStatus code).calRefuses i = s.calRefuses i := by
  simp only [State.calRefuses, State.calBusy, State.acceptedStates_setStatus, List.any_map, Function.comp_def,
    State.usesSlot_setStatus, State.setStatus_reg]

/-! ## Registers that change at one place only -/

section
variable {s t : State} {l : List Reg} {k : Nat}

theorem OnlyAt.refl (s : State) (l : List Reg) (k : Nat) : OnlyAt s s l k := fun _ _ _ _ => rfl

theorem OnlyAt.setReg (h : OnlyAt s t l k) (r : Reg) (v : Nat) : OnlyAt s (t.setReg r k v) l k :=
  fun q hq j hj => (State.setReg_reg_of_ix_ne t r q v hj).trans (h q hq j hj)

theorem OnlyAt.noteAccess (h : OnlyAt s t l k) (hstatus : .iACC_STATUS ∉ l) (hid : .iACC_ID ∉ l) (acc : Accessor)
    (id : Nat) : OnlyAt s (t.noteAccess acc id) l k := fun q hq j hj =>
  (State.noteAccess_reg t acc id j (ne_of_mem_of_not_mem hq hstatus) (ne_of_mem_of_not_mem hq hid)).trans (h q hq j hj)

end

/-! ## The slot parameters -/

/-- Each slot parameter has a register of its own. -/
theorem calReg_injective : Function.Injective calReg := by
  intro p q
  cases p <;> cases q <;> decide

/-- The slot parameters are neither the state of the slot nor what a PCIe function keeps of an access. -/
theorem calReg_ne (p : CalParam) : calReg p ≠ .CAL_STATE ∧ calReg p ≠ .iACC_STATUS ∧ calReg p ≠ .iACC_ID := by
  cases p <;> decide

/-- The effect of an accepted CAL_SLOT_WRITE (R56). -/
def State.calParamWritten (s : State) (p : CalParam) (k v : Nat) : State :=
  (s.setReg (calReg p) k v).cond (s.reg .CAL_STATE k == 2) (fun t => t.setReg .CAL_STATE k 3)

theorem State.calParamWritten_status (s : State) (p : CalParam) (k v : Nat) :
    (s.calParamWritten p k v).status = s.status := by
  unfold State.calParamWritten State.cond
  split
  · simp only [State.setReg_status]
  · simp only [State.setReg_status]

/-- A VALID slot whose parameter is written is INVALID. -/
theorem State.calParamWritten_state (s : State) (p : CalParam) (k v : Nat) :
    (s.calParamWritten p k v).reg .CAL_STATE k = if s.reg .CAL_STATE k = 2 then 3 else s.reg .CAL_STATE k := by
  obtain ⟨hstate, -, -⟩ := calReg_ne p
  unfold State.calParamWritten State.cond
  by_cases hvalid : s.reg .CAL_STATE k = 2
  · simp only [hvalid, beq_self_eq_true, if_true, State.setReg_reg_self]
    decide
  · simp [hvalid, hstate]

/-- The slot's parameters hold what they held, but for the one written. -/
theorem State.calParamWritten_reg (s : State) (p q : CalParam) (k v : Nat) :
    (s.calParamWritten p k v).reg (calReg q) k = if q = p then v % 2 ^ (calReg p).width else s.reg (calReg q) k := by
  obtain ⟨hstate, -, -⟩ := calReg_ne q
  have hcond : (s.calParamWritten p k v).reg (calReg q) k = (s.setReg (calReg p) k v).reg (calReg q) k := by
    unfold State.calParamWritten State.cond
    split
    · exact State.setReg_reg_of_ne _ _ _ _ hstate.symm
    · rfl
  simp only [hcond, State.reg_setReg, calReg_injective.eq_iff, and_true, eq_comm]

theorem State.calParamWritten_onlyAt (s : State) (p : CalParam) (k v : Nat) (l : List Reg) :
    OnlyAt s (s.calParamWritten p k v) l k := by
  have hwrite : OnlyAt s (s.setReg (calReg p) k v) l k := (OnlyAt.refl s l k).setReg _ _
  unfold State.calParamWritten State.cond
  split
  · exact hwrite.setReg _ _
  · exact hwrite

/-! ## The end of a validation -/

/-- The read of a slot's region through the CUE port, with which its validation ends (R56). -/
def State.calFetch (s : State) (seen : Seen) (k : Nat) : ReadAnswer × State :=
  (s.see seen).fetch s.pipMaster .cue (s.reg .CAL_BASE k)
    (calSetSize (calKind k) (s.reg .iCAL_W k) (s.reg .iCAL_H k))

/-- The checks of R56 on what was read of a slot's region. -/
def State.calChecks (s : State) (k : Nat) (r : ReadAnswer) : Bool :=
  !r.frozen && r.poisoned.isEmpty && s.reg .CAL_BASE k % 4096 == 0 && s.calOrdered k
    && crc32c r.data == s.reg .CAL_CRC k

theorem State.calChecks_iff (s : State) (k : Nat) (r : ReadAnswer) : s.calChecks k r = true ↔
    r.frozen = false ∧ r.poisoned = [] ∧ s.reg .CAL_BASE k % 4096 = 0 ∧ s.calOrdered k = true ∧
      crc32c r.data = s.reg .CAL_CRC k := by
  simp only [State.calChecks, Bool.and_eq_true, Bool.not_eq_true', List.isEmpty_iff, beq_iff_eq, and_assoc]

/-- The slot is judged by its checks: VALID with the geometry it was loaded for, or INVALID (R56). -/
def State.calJudged (s : State) (seen : Seen) (k : Nat) : State :=
  let r := s.calFetch seen k
  (if s.calChecks k r.1 then r.2.calValid k (s.reg .iCAL_W k) (s.reg .iCAL_H k) 1
    else r.2.setReg .CAL_STATE k 3).see s.seen

/-- A validation that can end now reads the region, checks what it read and judges the slot. -/
theorem exec_calValidationDone (i : Fin 64) (seen : Seen) (s : State) :
    exec (.calValidationDone i seen) s =
      if s.reg .CAL_STATE i.val ≠ 1 ∨ s.reg .iPHASE 0 ≠ 1 ∨ s.storeServes = false ∨
        s.deliveries.any (fun d => d.inst == i.val) then .next s
      else .next (s.calJudged seen i.val) := rfl

/-- What a command sees of the channels stands in no register. -/
@[simp] theorem State.see_reg (s : State) (x : Seen) (q : Reg) (j : Nat) : (s.see x).reg q j = s.reg q j := rfl

/-- The read of the region leaves the registers alone that no read of the store touches. -/
theorem State.calFetch_reg (s : State) (seen : Seen) (k : Nat) {q : Reg} (j : Nat)
    (hq : Part.reg q ∉ State.fetch_foot) :
    (s.calFetch seen k).2.reg q j = s.reg q j :=
  (State.fetch_touches (fun _ h => h) (.refl _ (s.see seen))).reg q j hq (by decide)

/-- What a slot that becomes VALID holds; a ray-map slot's reach stands apart. -/
theorem State.calValid_reg (s : State) (i w h source : Nat) {q : Reg} (j : Nat) (hq : q ≠ .iTY) :
    (s.calValid i w h source).reg q j =
      (((((s.setReg .CAL_STATE i 2).setReg .CAL_WIDTH i w).setReg .CAL_HEIGHT i h).setReg .CAL_SOURCE i
        source).setReg .CAL_RESIDUAL i 0).reg q j := by
  unfold State.calValid
  split
  · refine (State.computeReach_touches (fun _ h => h) (.refl _ _)).reg q j ?_ (by decide)
    simpa [State.computeReach_foot] using hq
  · rfl

/-- A slot that passes its checks is VALID with the geometry it was loaded for. -/
theorem State.calJudged_of_checks {s : State} {seen : Seen} {k : Nat}
    (hc : s.calChecks k (s.calFetch seen k).1 = true) :
    (s.calJudged seen k).reg .CAL_STATE k = 2 ∧
    (s.calJudged seen k).Holds .CAL_WIDTH k (s.reg .iCAL_W k) ∧
    (s.calJudged seen k).Holds .CAL_HEIGHT k (s.reg .iCAL_H k) ∧
    (s.calJudged seen k).reg .CAL_SOURCE k = 1 := by
  have hvalid : s.calJudged seen k =
      ((s.calFetch seen k).2.calValid k (s.reg .iCAL_W k) (s.reg .iCAL_H k) 1).see s.seen :=
    congrArg (State.see · s.seen) (if_pos hc)
  have hs : 2 % 2 ^ Reg.CAL_STATE.width = 2 := by decide
  have ho : 1 % 2 ^ Reg.CAL_SOURCE.width = 1 := by decide
  simp [hvalid, State.Holds, State.calValid_reg, hs, ho]

/-- A slot that fails a check is INVALID and keeps the geometry of the set it held. -/
theorem State.calJudged_of_not_checks {s : State} {seen : Seen} {k : Nat}
    (hc : ¬ s.calChecks k (s.calFetch seen k).1 = true) :
    (s.calJudged seen k).reg .CAL_STATE k = 3 ∧ (s.calJudged seen k).reg .CAL_WIDTH k = s.reg .CAL_WIDTH k := by
  have hinvalid : s.calJudged seen k = ((s.calFetch seen k).2.setReg .CAL_STATE k 3).see s.seen :=
    congrArg (State.see · s.seen) (if_neg hc)
  have hs : 3 % 2 ^ Reg.CAL_STATE.width = 3 := by decide
  have hw : (s.calFetch seen k).2.reg .CAL_WIDTH k = s.reg .CAL_WIDTH k := s.calFetch_reg seen k k (by decide)
  simp [hinvalid, hs, hw]

/-- The judgement of a slot leaves the other slots as they were. -/
theorem State.calJudged_onlyAt (s : State) (seen : Seen) (k : Nat) :
    OnlyAt s (s.calJudged seen k) [.CAL_STATE, .CAL_WIDTH, .CAL_HEIGHT, .CAL_SOURCE] k := by
  have hfetch : OnlyAt s (s.calFetch seen k).2 [.CAL_STATE, .CAL_WIDTH, .CAL_HEIGHT, .CAL_SOURCE] k :=
    fun q hq j _ => s.calFetch_reg seen k j ((by decide : ∀ r ∈ _, Part.reg r ∉ State.fetch_foot) q hq)
  intro q hq j hj
  unfold State.calJudged
  dsimp only
  rw [State.see_reg]
  split
  · rw [State.calValid_reg _ _ _ _ _ _ (ne_of_mem_of_not_mem hq (by decide))]
    exact (((((hfetch.setReg _ _).setReg _ _).setReg _ _).setReg _ _).setReg _ _) q hq j hj
  · exact hfetch.setReg _ _ q hq j hj

/-! ## The commands -/

/-- CAL_LOAD_VALIDATE (R56): the geometry of the slot's surface is what it is loaded for. -/
theorem calLoadValidate_completes (acc : Accessor) (k : Fin 64) (s : State) (hp : s.Passes acc .CAL_LOAD k.val 1) :
    if s.calRefuses k.val = true then
      exec (.calLoadValidate acc k) s = .next (s.answered acc .CAL_LOAD k.val Code.calSlotBusy)
    else
      ∃ t, exec (.calLoadValidate acc k) s = .next t ∧ Touches Changes.calLoadValidate s t ∧
        t.status = 0 ∧ t.reg .CAL_STATE k.val = 1 ∧
        t.reg .iCAL_W k.val = s.reg .SURF_WIDTH (calSurf k.val) ∧
        t.reg .iCAL_H k.val = s.reg .SURF_HEIGHT (calSurf k.val) ∧
        OnlyAt s t [.CAL_STATE, .iCAL_W, .iCAL_H] k.val := by
  have hw : Reg.iCAL_W.width = Reg.SURF_WIDTH.width := rfl
  have hh : Reg.iCAL_H.width = Reg.SURF_HEIGHT.width := rfl
  have hs : 1 % 2 ^ Reg.CAL_STATE.width = 1 := by decide
  refine refusableWrite_completes (b := (State.calRefuses · k.val)) rfl hp (s.calRefuses_setStatus 0 _)
    (execCalLoadValidate_touches (by decide) (.refl _ s)) ⟨by simp, by simp [hs], by simp [hw], by simp [hh], ?_⟩
  have hstatus : OnlyAt s (s.setStatus 0) [.CAL_STATE, .iCAL_W, .iCAL_H] k.val := .refl _ _ _
  exact (((hstatus.setReg _ _).setReg _ _).setReg _ _).noteAccess (by decide) (by decide) _ _

/-- CAL_LOAD_EMPTY (R56). -/
theorem calLoadEmpty_completes (acc : Accessor) (k : Fin 64) (s : State) (hp : s.Passes acc .CAL_LOAD k.val 2) :
    if s.calRefuses k.val = true then
      exec (.calLoadEmpty acc k) s = .next (s.answered acc .CAL_LOAD k.val Code.calSlotBusy)
    else
      ∃ t, exec (.calLoadEmpty acc k) s = .next t ∧
        Touches (regs [.CAL_STATE, .iACC_STATUS, .iACC_ID] ++ flds [.status]) s t ∧
        t.status = 0 ∧ t.reg .CAL_STATE k.val = 0 ∧ OnlyAt s t [.CAL_STATE] k.val := by
  have hstatus : OnlyAt s (s.setStatus 0) [.CAL_STATE] k.val := .refl _ _ _
  exact refusableWrite_completes (b := (State.calRefuses · k.val)) rfl hp (s.calRefuses_setStatus 0 _)
    (execCalLoadEmpty_touches (by decide) (.refl _ s))
    ⟨by simp, by simp, (hstatus.setReg _ _).noteAccess (by decide) (by decide) _ _⟩

/-- CAL_VALIDATION_DONE (R56): the region is read when the validation ends (log entry 41). -/
theorem calValidationDone_completes (i : Fin 64) (seen : Seen) (s : State) :
    let k := i.val
    let w := s.reg .iCAL_W k
    let h := s.reg .iCAL_H k
    let r := (s.calFetch seen k).1
    if s.reg .CAL_STATE k ≠ 1 ∨ s.reg .iPHASE 0 ≠ 1 ∨ s.storeServes = false ∨
         s.deliveries.any (fun d => d.inst == k) = true then exec (.calValidationDone i seen) s = .next s
    else if r.frozen = false ∧ r.poisoned = [] ∧ s.reg .CAL_BASE k % 4096 = 0 ∧ s.calOrdered k = true ∧
        crc32c r.data = s.reg .CAL_CRC k then
      ∃ t, exec (.calValidationDone i seen) s = .next t ∧ Touches Changes.calValidationDone s t ∧
        t.reg .CAL_STATE k = 2 ∧ t.Holds .CAL_WIDTH k w ∧ t.Holds .CAL_HEIGHT k h ∧ t.reg .CAL_SOURCE k = 1 ∧
        OnlyAt s t [.CAL_STATE, .CAL_WIDTH, .CAL_HEIGHT, .CAL_SOURCE] k
    else
      ∃ t, exec (.calValidationDone i seen) s = .next t ∧ Touches Changes.calValidationDone s t ∧
        t.reg .CAL_STATE k = 3 ∧ OnlyAt s t [.CAL_STATE] k ∧ t.reg .CAL_WIDTH k = s.reg .CAL_WIDTH k := by
  intro k w h r
  have hend := exec_calValidationDone i seen s
  have hframe : OutTouches Changes.calValidationDone s (exec (.calValidationDone i seen) s) :=
    execCalValidationDone_touches (by decide) (.refl _ s)
  obtain ⟨t, ht, touches⟩ := hframe
  have honly := s.calJudged_onlyAt seen k
  split
  case isTrue hwaits => exact hend.trans (if_pos hwaits)
  case isFalse hwaits =>
    rw [if_neg hwaits] at hend
    obtain rfl := Host.Outcome.next.inj (hend.symm.trans ht)
    split
    case isTrue hc =>
      obtain ⟨hstate, hwidth, hheight, hsource⟩ := State.calJudged_of_checks ((s.calChecks_iff k r).2 hc)
      exact ⟨_, hend, touches, hstate, hwidth, hheight, hsource, honly⟩
    case isFalse hc =>
      obtain ⟨hstate, hwidth⟩ := State.calJudged_of_not_checks (mt (s.calChecks_iff k r).1 hc)
      have hothers : OnlyAt s (s.calJudged seen k) [.CAL_STATE] k :=
        fun q hq => honly q (List.mem_singleton.1 hq ▸ List.mem_cons_self)
      exact ⟨_, hend, touches, hstate, hothers, hwidth⟩

/-- CAL_SLOT_WRITE (R56). -/
theorem calSlotWrite_completes (acc : Accessor) (k : Fin 64) (p : CalParam) (v : Nat) (s : State)
    (hp : s.Passes acc (calReg p) k.val v) :
    if s.calRefuses k.val = true then
      exec (.calSlotWrite acc k p v) s = .next (s.answered acc (calReg p) k.val Code.calSlotBusy)
    else
      ∃ t, exec (.calSlotWrite acc k p v) s = .next t ∧ Touches Changes.calSlotWrite s t ∧
        (t.status = 0 ∧ t.Holds (calReg p) k.val v ∧
         t.reg .CAL_STATE k.val = (if s.reg .CAL_STATE k.val = 2 then 3 else s.reg .CAL_STATE k.val) ∧
         OnlyAt s t [calReg p, .CAL_STATE] k.val ∧
         ∀ q, q ≠ p → t.reg (calReg q) k.val = s.reg (calReg q) k.val) := by
  refine refusableWrite_completes (b := (State.calRefuses · k.val)) (eff := (State.calParamWritten · p k.val v)) rfl
    hp (s.calRefuses_setStatus 0 _) (execCalSlotWrite_touches (by decide) (.refl _ s))
    ⟨?_, ?_, ?_, ?_, fun q hq => ?_⟩
  · rw [State.noteAccess_status, State.calParamWritten_status, State.setStatus_status]
  · obtain ⟨-, hstatus, hid⟩ := calReg_ne p
    rw [State.Holds, State.noteAccess_reg _ _ _ _ hstatus hid, State.calParamWritten_reg, if_pos rfl]
  · rw [State.noteAccess_reg _ _ _ _ (by decide) (by decide), State.calParamWritten_state, State.setStatus_reg]
  · obtain ⟨-, hstatus, hid⟩ := calReg_ne p
    have hwrite : OnlyAt s ((s.setStatus 0).calParamWritten p k.val v) [calReg p, .CAL_STATE] k.val :=
      (s.setStatus 0).calParamWritten_onlyAt p k.val v _
    exact hwrite.noteAccess (by simp [hstatus.symm]) (by simp [hid.symm]) _ _
  · obtain ⟨-, hstatus, hid⟩ := calReg_ne q
    rw [State.noteAccess_reg _ _ _ _ hstatus hid, State.calParamWritten_reg, if_neg hq, State.setStatus_reg]

/-- LUT_WRITE (R62). -/
theorem lutWrite_completes (acc : Accessor) (l : Fin 12) (v : Nat) (s : State)
    (hp : s.Passes acc (lutReg l.val).1 (lutReg l.val).2 v) :
    if s.lutShadow.any (fun e => e.lut == l.val) = true then
      exec (.lutWrite acc l v) s = .next (s.answered acc (lutReg l.val).1 (lutReg l.val).2 Code.calSlotBusy)
    else
      ∃ t, exec (.lutWrite acc l v) s = .next t ∧ Touches Changes.lutWrite s t ∧
        t.status = 0 ∧ t.lutShadow = s.lutShadow ++ [⟨l.val, v, 0, 0⟩] :=
  refusableWrite_completes (b := fun t => t.lutShadow.any (fun e => e.lut == l.val)) rfl hp rfl
    (execLutWrite_touches (by decide) (.refl _ s)) ⟨by simp, by simp⟩

/-- Settles O25: each command by its own lemma. -/
theorem calibrationSlots : Obligations.CalibrationSlots :=
  ⟨calLoadValidate_completes, calLoadEmpty_completes, calValidationDone_completes, calSlotWrite_completes,
    lutWrite_completes⟩

end Sys2Proof.Machine
end

section
/-! The colour pipeline of a ray (03_ray_synthesis.md, R95 to R98): the gain with its rounding, the gains that a hogel
takes from the blended set, the interpolation between two entries of the output LUT, and the link value. -/
namespace Sys2Proof.Machine

/-! ## Gain -/

/-- R95: the model's division is the shift of the rule. -/
theorem applyGain_eq (l g : Nat) : applyGain l g = min 65535 ((l * g + 8192) >>> 14) := by
  rw [Nat.shiftRight_eq_div_pow]
  rfl

/-- R95: the unity gain 0x4000 changes nothing. -/
theorem applyGain_unity {l : Nat} (hl : l ≤ 65535) : applyGain l 0x4000 = l := by
  unfold applyGain
  omega

/-- R78: whether a frame applies the gain set is whether its boundary finds that set used. -/
theorem State.blendSets_gainOn (s : State) (surf : Nat) : (s.blendSets surf).gainOn surf = s.gainUsed surf := by
  have hloop : (s.blendSets surf).reg .iS_GAIN_ON surf = b2n (s.gainUsed surf) := by
    unfold State.blendSets
    refine forN_inv (P := fun t : State => t.reg .iS_GAIN_ON surf = b2n (s.gainUsed surf)) ?_ fun t kind ht => ?_
    · rw [State.setReg_reg_self]
      cases s.gainUsed surf <;> rfl
    · rw [State.setReg_reg_of_ne _ _ _ _ (by decide), State.setReg_reg_of_ne _ _ _ _ (by decide), ht]
  rw [State.gainOn, hloop]
  cases s.gainUsed surf <;> rfl

/-- R56, R95: under CAL_GAIN_BYPASS no gain set is in use. -/
theorem State.gainUsed_of_bypass {s : State} {surf : Nat} (h : s.reg .CAL_GAIN_BYPASS surf = 1) :
    s.gainUsed surf = false := by
  simp only [State.gainUsed, h, Nat.reduceBEq, Bool.false_and]

/-- R95: without a gain set in the frame the gains of a hogel are unity. -/
theorem State.hogel_gain_of_off {s : State} {surf : Nat} (h : s.gainOn surf = false) (b c : Nat) :
    (s.hogel surf b c).gain = [0x4000, 0x4000, 0x4000] := by
  simp only [State.hogel, h, Bool.false_and, Bool.false_eq_true, if_false]

/-- R78, R95: with a gain set in the frame they are the blended entries of the hogel, unless those are poisoned. -/
theorem State.hogel_gain_of_on {s : State} {surf b c : Nat} (h : s.gainOn surf = true)
    (hp : s.calPoisoned 1 surf (8 * (b * s.reg .SURF_WIDTH surf + c)) 2 4 = false) :
    (s.hogel surf b c).gain =
      (s.calElems 1 surf (8 * (b * s.reg .SURF_WIDTH surf + c)) 2 3 false).map Int.toNat := by
  simp only [State.hogel, h, hp, Bool.and_false, Bool.not_false, Bool.and_self, if_true]

/-! ## Interpolation -/

/-- A rounded interpolation step of `f` parts in `d` from `a` towards `b` does not leave the two. -/
theorem interpolate_mem {a b f d r : Int} (hf : 0 ≤ f) (hfd : f ≤ d) (hr : 0 ≤ r) (hrd : r < d) :
    min a b ≤ a + ((b - a) * f + r) / d ∧ a + ((b - a) * f + r) / d ≤ max a b := by
  have hd : 0 < d := Int.lt_of_le_of_lt hr hrd
  obtain hab | hba := Int.le_total a b
  · have hlow : 0 ≤ (b - a) * f := Int.mul_nonneg (by omega) hf
    have hhigh : (b - a) * f ≤ (b - a) * d := Int.mul_le_mul_of_nonneg_left hfd (by omega)
    have hspan : (b - a + 1) * d = (b - a) * d + d := by rw [Int.add_mul, Int.one_mul]
    have hfloor : 0 ≤ ((b - a) * f + r) / d := Int.ediv_nonneg (by omega) (Int.le_of_lt hd)
    have hceil : ((b - a) * f + r) / d < b - a + 1 := Int.ediv_lt_of_lt_mul hd (by omega)
    omega
  · have hlow : (b - a) * d ≤ (b - a) * f := Int.mul_le_mul_of_nonpos_left (by omega) hfd
    have hhigh : (b - a) * f ≤ 0 := Int.mul_nonpos_of_nonpos_of_nonneg (by omega) hf
    have hfloor : b - a ≤ ((b - a) * f + r) / d := Int.le_ediv_of_mul_le hd (by omega)
    have hceil : ((b - a) * f + r) / d < 1 := Int.ediv_lt_of_lt_mul hd (by omega)
    omega

/-- The shift of R96 is the division by 16 rounded down. The integer's two constructors show it whether Lean reads the
count as a natural number or, as with Mathlib, as an integer. -/
theorem intShiftRight_four (x : Int) : x >>> 4 = x / 16 := by
  have hshift : x >>> 4 = Int.shiftRight x 4 := by cases x <;> rfl
  exact hshift.trans (Int.shiftRight_eq_div_pow x 4)

/-- R96: below entry 4,095 the intervals span 16 steps. -/
theorem outputTransfer_of_lt (e : Nat → Nat) {l : Nat} (h : l >>> 4 < 4095) :
    outputTransfer e l = (e (l >>> 4) : Int) +
      ((((e (l >>> 4 + 1) : Int) - e (l >>> 4)) * (l % 16 : Nat) + 8) >>> 4) := by
  rw [intShiftRight_four]
  rw [Nat.shiftRight_eq_div_pow] at h ⊢
  exact if_pos h

/-- R96: the last interval spans 15 steps. -/
theorem outputTransfer_of_le (e : Nat → Nat) {l : Nat} (h : 4095 ≤ l >>> 4) :
    outputTransfer e l = (e 4095 : Int) + Int.fdiv (((e 4096 : Int) - e 4095) * (l % 16 : Nat) + 7) 15 := by
  rw [Nat.shiftRight_eq_div_pow] at h
  rw [Int.fdiv_eq_ediv_of_nonneg _ (by decide)]
  exact if_neg (Nat.not_lt.2 h)

/-- R96: the result lies between the entries of its interval. -/
theorem outputTransfer_mem_of_lt (e : Nat → Nat) {l : Nat} (h : l >>> 4 < 4095) :
    min (e (l >>> 4) : Int) (e (l >>> 4 + 1)) ≤ outputTransfer e l ∧
      outputTransfer e l ≤ max (e (l >>> 4) : Int) (e (l >>> 4 + 1)) := by
  rw [outputTransfer_of_lt e h, intShiftRight_four]
  exact interpolate_mem (by omega) (by omega) (by decide) (by decide)

/-- R96: so it does in the last interval. -/
theorem outputTransfer_mem_of_le (e : Nat → Nat) {l : Nat} (h : 4095 ≤ l >>> 4) :
    min (e 4095 : Int) (e 4096) ≤ outputTransfer e l ∧ outputTransfer e l ≤ max (e 4095 : Int) (e 4096) := by
  rw [outputTransfer_of_le e h, Int.fdiv_eq_ediv_of_nonneg _ (by decide)]
  exact interpolate_mem (by omega) (by omega) (by decide) (by decide)

/-- R96: full linear light gives the last entry. -/
theorem outputTransfer_full (e : Nat → Nat) : outputTransfer e 65535 = e 4096 := by
  rw [outputTransfer_of_le e (by decide), Int.fdiv_eq_ediv_of_nonneg _ (by decide)]
  omega

/-! ## The link value -/

/-- R95 to R98: the three channels of the composited colour, each through gain, output LUT and dither. -/
theorem State.ray_word (s : State) (surf stage frame b c v h : Nat) (g : Hogel) :
    let l := (s.composite surf (s.raySources surf stage b c v h g).1 (0, 0, 0) 65536 []).1
    let code (ch x : Nat) := linkCode (s.lut surf (8 + s.reg .OUT_LUT_SEL surf)) x (g.gain.getD ch 0x4000)
      (ditherValue (s.reg .SYN_DITHER surf) (c * 96 + h) (b * s.reg .V_COUNT surf + v) ch (frame % 64))
    (s.ray surf stage frame b c v h g).word = code 0 l.1 * 2 ^ 20 + code 1 l.2.1 * 2 ^ 10 + code 2 l.2.2 := rfl

/-- Settles O12: the gain by its arithmetic and its set, the output LUT by its two kinds of interval. -/
theorem gainAndOutputTransfer : Obligations.GainAndOutputTransfer := by
  refine ⟨applyGain_eq, fun _ => applyGain_unity, fun s surf b c => ⟨fun hbypass => ?_, fun hoff => ?_, ?_⟩,
    fun e l _ => ⟨fun hk => ?_, fun hk => ?_, ?_⟩, State.ray_word⟩
  · exact State.hogel_gain_of_off ((s.blendSets_gainOn surf).trans (State.gainUsed_of_bypass hbypass)) b c
  · exact State.hogel_gain_of_off hoff b c
  · exact State.hogel_gain_of_on
  · exact ⟨outputTransfer_of_lt e hk, outputTransfer_mem_of_lt e hk⟩
  · exact ⟨outputTransfer_of_le e hk, outputTransfer_mem_of_le e hk⟩
  · rintro rfl
    exact outputTransfer_full e

end Sys2Proof.Machine
end

section
/-! The Hazel array (04_hazel_array.md, R128 to R136): what fencing, self-tests, pending values and the swap leave in
the registers of a cluster, and from that the commands on faults, array-wide values and program slots. -/
namespace Sys2Proof.Machine

/-! ## Commands that complete, and commands without effect -/

section
variable {c : Instr} {s t : State} {p : Prop} [Decidable p] {W : List Part} {P : State → Prop}

/-- A command that answers `t` completes with what holds of `t`, within its frame. -/
theorem completes_of_next (hc : exec c s = .next t) (hW : OutTouches W s (exec c s)) (hP : P t) :
    ∃ u, exec c s = .next u ∧ Touches W s u ∧ P u := by
  obtain ⟨u, hu, hp, touches⟩ := Runs.of hc hP hW
  exact ⟨u, hu, touches, hp⟩

/-- A command with an effect only under a condition completes with it there, and changes nothing elsewhere. -/
theorem completes_if (hc : exec c s = if p then .next t else .next s) (hW : OutTouches W s (exec c s))
    (hP : p → P t) :
    if p then ∃ u, exec c s = .next u ∧ Touches W s u ∧ P u else exec c s = .next s := by
  split
  case isTrue h => exact completes_of_next (hc.trans (if_pos h)) hW (hP h)
  case isFalse h => exact hc.trans (if_neg h)

/-- A command that changes nothing under a condition completes with its effect elsewhere. -/
theorem completes_unless (hc : exec c s = if p then .next s else .next t) (hW : OutTouches W s (exec c s))
    (hP : ¬ p → P t) :
    if p then exec c s = .next s else ∃ u, exec c s = .next u ∧ Touches W s u ∧ P u := by
  split
  case isTrue h => exact hc.trans (if_pos h)
  case isFalse h => exact completes_of_next (hc.trans (if_neg h)) hW (hP h)

/-- A command that answers one of two results completes with what holds of that one. -/
theorem completes_either {Q : State → Prop} (hW : OutTouches W s (exec c s))
    (hpos : p → ∃ t, exec c s = .next t ∧ P t) (hneg : ¬ p → ∃ t, exec c s = .next t ∧ Q t) :
    if p then ∃ u, exec c s = .next u ∧ Touches W s u ∧ P u
    else ∃ u, exec c s = .next u ∧ Touches W s u ∧ Q u := by
  split
  case isTrue h =>
    obtain ⟨t, hc, hP⟩ := hpos h
    exact completes_of_next hc hW hP
  case isFalse h =>
    obtain ⟨t, hc, hQ⟩ := hneg h
    exact completes_of_next hc hW hQ

/-- An effect that touches none of the registers changes none of their instances. -/
theorem OnlyAt.touches {l : List Reg} {k : Nat} {V : List Part} (h : OnlyAt s t l k) {u : State}
    (hT : Touches V t u) (hV : ∀ r ∈ l, Part.reg r ∉ V) (hany : Part.anyReg ∉ V) : OnlyAt s u l k :=
  fun q hq j hj => (hT.reg q j (hV q hq) hany).trans (h q hq j hj)

end

/-! ## Bits of a mask of 16 -/

/-- A mask of all 16 bits takes in every other. -/
theorem fullMask_or {m : Nat} (h : m < 2 ^ 16) : 0xFFFF ||| m = 0xFFFF :=
  Nat.le_antisymm (Nat.le_of_lt_succ (Nat.or_lt_two_pow (by decide) h)) Nat.left_le_or

/-- A bit that is cleared reads as 0. -/
theorem bit_setBit_false (v k : Nat) : bit (setBit v k false) k = false := by
  have hset : setBit v k false = v - 2 ^ k * (v / 2 ^ k % 2) := by
    simp [setBit, withBits, bits, Nat.shiftRight_eq_div_pow, Nat.mul_comm]
  have hle : 2 ^ k * (v / 2 ^ k % 2) ≤ v :=
    Nat.le_trans (Nat.mul_le_mul_left _ (Nat.mod_le _ _)) (Nat.mul_div_le v _)
  rw [hset, bit, Nat.testBit_eq_decide_div_mod_eq, Nat.sub_mul_div_of_le _ _ _ hle, decide_eq_false_iff_not]
  omega

/-! ## What fences and states of clusters leave as they were -/

section
variable (s : State) (n : Nat) {q : Reg} (j : Nat)

/-- The fences shown follow every cause (R135). -/
theorem State.refreshFences_fenced :
    (s.refreshFences n).reg .CL_FENCED n = s.reg .CL_FAULT_MASK n ||| s.reg .iFENCE_HOST n := by
  have hlt : s.reg .CL_FAULT_MASK n ||| s.reg .iFENCE_HOST n < 2 ^ Reg.CL_FENCED.width :=
    Nat.or_lt_two_pow (s.reg_lt .CL_FAULT_MASK n) (s.reg_lt .iFENCE_HOST n)
  simp [State.refreshFences, Nat.mod_eq_of_lt hlt]

@[simp] theorem State.refreshFences_reg (hf : q ≠ .CL_FENCED) (he : q ≠ .HZ_ENGINES_FENCED) :
    (s.refreshFences n).reg q j = s.reg q j := by
  simp [State.refreshFences, hf.symm, he.symm]

@[simp] theorem State.refreshFences_held : (s.refreshFences n).held = s.held := by
  simp only [State.refreshFences, State.setReg_held]

@[simp] theorem State.refreshFences_requeued : (s.refreshFences n).requeued = s.requeued := by
  simp only [State.refreshFences, State.setReg_requeued]

@[simp] theorem State.setCluster_state (st : Nat) :
    (s.setCluster n st).reg .CL_STATE n = st % 2 ^ Reg.CL_STATE.width := by
  simp [State.setCluster]

@[simp] theorem State.setCluster_reg (st : Nat) (hs : q ≠ .CL_STATE) (ha : q ≠ .HZ_ACTIVE) :
    (s.setCluster n st).reg q j = s.reg q j := by
  simp [State.setCluster, hs.symm, ha.symm]

/-- A cluster in a state other than ACTIVE is not among the active ones (R135). -/
theorem State.setCluster_active {st : Nat} (h : st ≠ 0) :
    bit ((s.setCluster n st).reg .HZ_ACTIVE 0) n = false := by
  have hset := bit_setBit_false (s.reg .HZ_ACTIVE 0) n
  have hoff : (st == 0) = false := beq_eq_false_iff_ne.2 h
  simp only [State.setCluster, State.setReg_reg_self, hoff]
  unfold bit at hset ⊢
  rw [Nat.testBit_mod_two_pow, hset, Bool.and_false]

@[simp] theorem State.setCluster_held (st : Nat) : (s.setCluster n st).held = s.held := rfl

@[simp] theorem State.setCluster_requeued (st : Nat) : (s.setCluster n st).requeued = s.requeued := rfl

@[simp] theorem State.setCluster_lastEvent (st : Nat) : (s.setCluster n st).lastEvent = s.lastEvent := rfl

@[simp] theorem State.requeue_reg : (s.requeue n).reg q j = s.reg q j := rfl

/-- HAZEL_FAULT stays as the cluster's last fault. -/
@[simp] theorem State.hazelFault_holds (mask cause : Nat) :
    (s.hazelFault n mask cause).Holds .CL_LAST_FAULT n Code.hazelFault := by
  simp [State.hazelFault, State.Holds]

@[simp] theorem State.hazelFault_reg (mask cause : Nat) (hf : q ≠ .CL_LAST_FAULT) (he : q ≠ .EV_COUNT)
    (hs : q ≠ .NQ_SEQ) (hl : q ≠ .NQ_LOST) : (s.hazelFault n mask cause).reg q j = s.reg q j := by
  simp [State.hazelFault, hf.symm, he, hs, hl]

@[simp] theorem State.hazelFault_lastEvent (mask cause : Nat) :
    (s.hazelFault n mask cause).lastEvent = some (Code.hazelFault, packBits [(8, n), (16, mask), (8, cause)]) :=
  State.raise_lastEvent ..

@[simp] theorem State.hazelFault_held (mask cause : Nat) : (s.hazelFault n mask cause).held = s.held :=
  State.raise_held ..

@[simp] theorem State.hazelFault_requeued (mask cause : Nat) :
    (s.hazelFault n mask cause).requeued = s.requeued := State.raise_requeued ..

/-- Capacity lost shows in HZ_SHORT and in events alone (R124). -/
theorem State.capacityLost_frame : Touches State.capacityLost_foot s s.capacityLost :=
  State.capacityLost_touches (fun _ h => h) (.refl _ s)

@[simp] theorem State.capacityLost_reg (hs : q ≠ .HZ_SHORT) (he : q ≠ .EV_COUNT) (hq : q ≠ .NQ_SEQ)
    (hl : q ≠ .NQ_LOST) : s.capacityLost.reg q j = s.reg q j :=
  s.capacityLost_frame.reg q j
    (by simp [State.capacityLost_foot, State.shortCheck_foot, State.raise_foot, State.post_foot, hs, he, hq, hl])
    (by decide)

@[simp] theorem State.capacityLost_held : s.capacityLost.held = s.held :=
  s.capacityLost_frame.fld .held (by decide) (by decide)

@[simp] theorem State.capacityLost_requeued : s.capacityLost.requeued = s.requeued :=
  s.capacityLost_frame.fld .requeued (by decide) (by decide)

@[simp] theorem State.release_reg (op : PowerOp) : (s.release op).reg q j = s.reg q j := rfl

/-- A self-test of the whole cluster joins those of its engines (R134, R135). -/
theorem State.startSelfTest_holds :
    (s.startSelfTest n).Holds .iCL_SELFTEST n (s.reg .iCL_SELFTEST n ||| 0x10000) :=
  State.setReg_reg_self ..

@[simp] theorem State.startSelfTest_state : (s.startSelfTest n).reg .CL_STATE n = 6 := by
  have hwidth : 6 % 2 ^ Reg.CL_STATE.width = 6 := by decide
  simp [State.startSelfTest, hwidth]

@[simp] theorem State.startSelfTest_reg (ht : q ≠ .iCL_SELFTEST) (hs : q ≠ .CL_STATE) (ha : q ≠ .HZ_ACTIVE) :
    (s.startSelfTest n).reg q j = s.reg q j := by
  simp [State.startSelfTest, ht.symm, hs, ha]

@[simp] theorem State.startSelfTest_lastEvent : (s.startSelfTest n).lastEvent = s.lastEvent := by
  simp only [State.startSelfTest, State.setReg_lastEvent, State.setCluster_lastEvent]

end

/-! ## What stays at one cluster -/

section
variable {s t : State} {l : List Reg} {k : Nat} (h : OnlyAt s t l k)
include h

theorem OnlyAt.refreshFences (hl : .HZ_ENGINES_FENCED ∉ l) : OnlyAt s (t.refreshFences k) l k :=
  (h.setReg .CL_FENCED _).touches (State.setReg_touches List.mem_cons_self (.refl [.reg .HZ_ENGINES_FENCED] _))
    (fun r hr hm => hl (Part.reg.inj (List.mem_singleton.1 hm) ▸ hr)) (by decide)

theorem OnlyAt.setCluster (hl : .HZ_ACTIVE ∉ l) (st : Nat) : OnlyAt s (t.setCluster k st) l k :=
  (h.setReg .CL_STATE st).touches (State.setReg_touches List.mem_cons_self (.refl [.reg .HZ_ACTIVE] _))
    (fun r hr hm => hl (Part.reg.inj (List.mem_singleton.1 hm) ▸ hr)) (by decide)

theorem OnlyAt.noteKeep (r : Reg) (i : Nat) : OnlyAt s (t.noteKeep r i) l k :=
  fun q hq j hj => (State.noteKeep_reg t r i q j).trans (h q hq j hj)

theorem OnlyAt.requeue : OnlyAt s (t.requeue k) l k := h

theorem OnlyAt.hazelFault (hl : ∀ r ∈ l, Part.reg r ∉ State.raise_foot) (mask cause : Nat) :
    OnlyAt s (t.hazelFault k mask cause) l k :=
  (h.setReg .CL_LAST_FAULT _).touches (State.raise_touches (fun _ hp => hp) (.refl _ _)) hl (by decide)

theorem OnlyAt.startSelfTest (hl : .HZ_ACTIVE ∉ l) : OnlyAt s (t.startSelfTest k) l k :=
  (h.setCluster hl 6).setReg _ _

end

/-! ## Fault fences -/

/-- The registers of a cluster that tell of its faults. -/
def faultRegs : List Reg := [.CL_FAULT_MASK, .CL_FENCED, .CL_STATE, .CL_LAST_FAULT]

/-- Where no tile moved meanwhile, a cluster fenced since then is fenced since before. -/
theorem ClusterFenced.of_tiles {s u t : State} {n : Nat} (h : ClusterFenced u t n) (hheld : u.held = s.held)
    (hrequeued : u.requeued = s.requeued) : ClusterFenced s t n := by
  unfold ClusterFenced at h ⊢
  rwa [hheld, hrequeued] at h

/-- R132: the fence of a whole cluster. -/
theorem State.fenceCluster_fenced (s : State) (n cause : Nat) : ClusterFenced s (s.fenceCluster n cause) n := by
  have hmask : 0xFFFF % 2 ^ Reg.CL_FAULT_MASK.width = 0xFFFF := by decide
  have hstate : 4 % 2 ^ Reg.CL_STATE.width = 4 := by decide
  have hall : 0xFFFF ||| s.reg .iFENCE_HOST n = 0xFFFF := fullMask_or (s.reg_lt .iFENCE_HOST n)
  refine ⟨?_, ?_, ?_, ?_, ?_, ?_⟩
  · simp [State.fenceCluster, hmask]
  · simp [State.fenceCluster, State.refreshFences_fenced, hmask, hall]
  · simp [State.fenceCluster, hstate]
  · simp [State.fenceCluster, State.setCluster_active]
  · simp [State.fenceCluster, State.requeue]
  · simp [State.fenceCluster, State.requeue]

theorem State.fenceCluster_fault (s : State) (n cause : Nat) :
    (s.fenceCluster n cause).Holds .CL_LAST_FAULT n Code.hazelFault := by
  unfold State.fenceCluster
  rw [State.Holds, State.capacityLost_reg _ _ (by decide) (by decide) (by decide) (by decide)]
  exact State.hazelFault_holds ..

theorem OnlyAt.fenceCluster {s t : State} {n : Nat} (h : OnlyAt s t faultRegs n) (cause : Nat) :
    OnlyAt s (t.fenceCluster n cause) faultRegs n :=
  have hfence := ((((h.setReg _ _).setReg _ _).setReg _ _).noteKeep _ _).refreshFences (by decide)
  ((hfence.setCluster (by decide) 4).requeue.hazelFault (by decide) _ _).touches (State.capacityLost_frame _)
    (by decide) (by decide)

/-- The engines of a mask are fault-fenced, before the cluster is seen to have too few left. -/
def State.fenceMask (s : State) (n mask cause : Nat) : State :=
  (((s.setReg .CL_FAULT_MASK n (s.reg .CL_FAULT_MASK n ||| mask)).noteKeep .CL_FAULT_MASK n).refreshFences
    n).hazelFault n mask cause

section
variable {s : State} {n mask : Nat} (cause : Nat)

theorem State.fenceMask_mask (hm : mask < 2 ^ 16) :
    (s.fenceMask n mask cause).reg .CL_FAULT_MASK n = s.reg .CL_FAULT_MASK n ||| mask := by
  have hlt : s.reg .CL_FAULT_MASK n ||| mask < 2 ^ Reg.CL_FAULT_MASK.width :=
    Nat.or_lt_two_pow (s.reg_lt .CL_FAULT_MASK n) hm
  simp [State.fenceMask, Nat.mod_eq_of_lt hlt]

theorem State.fenceMask_fenced (hm : mask < 2 ^ 16) : (s.fenceMask n mask cause).reg .CL_FENCED n =
    s.reg .CL_FAULT_MASK n ||| mask ||| s.reg .iFENCE_HOST n := by
  have hlt : s.reg .CL_FAULT_MASK n ||| mask < 2 ^ Reg.CL_FAULT_MASK.width :=
    Nat.or_lt_two_pow (s.reg_lt .CL_FAULT_MASK n) hm
  simp [State.fenceMask, State.refreshFences_fenced, Nat.mod_eq_of_lt hlt]

theorem State.fenceMask_onlyAt : OnlyAt s (s.fenceMask n mask cause) faultRegs n :=
  ((((OnlyAt.refl s _ n).setReg _ _).noteKeep _ _).refreshFences (by decide)).hazelFault (by decide) _ _

/-- The cluster is fenced as a whole where the mask leaves it fewer than 8 engines. -/
theorem State.fenceEngines_eq (hm : mask < 2 ^ 16) : s.fenceEngines n mask cause =
    if 16 - popCount 16 (s.reg .CL_FAULT_MASK n ||| mask ||| s.reg .iFENCE_HOST n) < 8 then
      (s.fenceMask n mask cause).fenceCluster n 5
    else (s.fenceMask n mask cause).capacityLost := by
  have hengines : (s.fenceMask n mask cause).engines n =
      16 - popCount 16 (s.reg .CL_FAULT_MASK n ||| mask ||| s.reg .iFENCE_HOST n) := by
    rw [State.engines, State.fenceMask_fenced cause hm]
  rw [← hengines]
  rfl

/-- R132: the fence of engines, which with fewer than 8 left takes in the cluster. The three facts are one lemma, so
that no goal is the condition of `EnginesFenced` alone, which Lean would evaluate bit by bit. -/
theorem State.fenceEngines_spec (hm : mask < 2 ^ 16) :
    EnginesFenced s (s.fenceEngines n mask cause) n mask ∧
    (s.fenceEngines n mask cause).Holds .CL_LAST_FAULT n Code.hazelFault ∧
    OnlyAt s (s.fenceEngines n mask cause) faultRegs n := by
  have hheld : (s.fenceMask n mask cause).held = s.held := by simp [State.fenceMask]
  have hrequeued : (s.fenceMask n mask cause).requeued = s.requeued := by simp [State.fenceMask]
  have hstate : (s.fenceMask n mask cause).reg .CL_STATE n = s.reg .CL_STATE n := by simp [State.fenceMask]
  have honly : OnlyAt s (s.fenceMask n mask cause) faultRegs n := State.fenceMask_onlyAt cause
  rw [State.fenceEngines_eq cause hm]
  simp only [EnginesFenced]
  generalize 16 - popCount 16 (s.reg .CL_FAULT_MASK n ||| mask ||| s.reg .iFENCE_HOST n) = left
  split
  case isTrue =>
    exact ⟨(State.fenceCluster_fenced _ n 5).of_tiles hheld hrequeued, State.fenceCluster_fault ..,
      honly.fenceCluster 5⟩
  case isFalse =>
    have hfault : (s.fenceMask n mask cause).reg .CL_LAST_FAULT n = Code.hazelFault % 2 ^ Reg.CL_LAST_FAULT.width :=
      State.hazelFault_holds ..
    refine ⟨?_, ?_, honly.touches (State.capacityLost_frame _) (by decide) (by decide)⟩
    · simp [State.fenceMask_mask cause hm, State.fenceMask_fenced cause hm, hheld, hrequeued, hstate]
    · simp [State.Holds, hfault]

end

/-! ## Fault commands -/

theorem exec_engineFaultFence (n : Fin 16) (mask : BitVec 16) (regFile : Bool) (s : State) :
    exec (.engineFaultFence n mask regFile) s =
      if s.clusterRuns n.val = true ∧ mask ≠ 0 then .next (s.fenceEngines n.val mask.toNat (b2n regFile))
      else .next s := by
  show execEngineFaultFence n mask regFile s = _
  simp only [execEngineFaultFence, Bool.and_eq_true, Bool.not_eq_true', beq_eq_false_iff_ne]

/-- ENGINE_FAULT_FENCE (R132). -/
theorem engineFaultFence_completes (n : Fin 16) (mask : BitVec 16) (regFile : Bool) (s : State) :
    if s.clusterRuns n.val = true ∧ mask ≠ 0 then
      ∃ t, exec (.engineFaultFence n mask regFile) s = .next t ∧ Touches Changes.engineFaultFence s t ∧
        EnginesFenced s t n.val mask.toNat ∧ t.Holds .CL_LAST_FAULT n.val Code.hazelFault ∧
        OnlyAt s t [.CL_FAULT_MASK, .CL_FENCED, .CL_STATE, .CL_LAST_FAULT] n.val
    else exec (.engineFaultFence n mask regFile) s = .next s :=
  completes_if (exec_engineFaultFence n mask regFile s) (execEngineFaultFence_touches (by decide) (.refl _ s))
    fun _ => State.fenceEngines_spec _ mask.isLt

/-- The hogels of a cluster that holds a tile are counted against the band of the tile's surface. -/
theorem exec_hogelOverrun_of_held {n : Fin 16} {s : State} {e : Nat × Tile}
    (he : s.held.find? (fun e => e.1 == n.val) = some e) (mask : BitVec 16) (cycles : Nat) :
    exec (.hogelOverrun n mask cycles) s =
      if s.clusterRuns n.val = true ∧ s.reg .CK_STATE 2 = 3 ∧ s.cBand e.2.surf ≤ cycles ∧ mask ≠ 0 then
        .next (s.fenceEngines n.val mask.toNat 2)
      else .next s := by
  show execHogelOverrun n mask cycles s = _
  simp only [execHogelOverrun, he, Bool.and_eq_true, Bool.not_eq_true', beq_eq_false_iff_ne, beq_iff_eq,
    decide_eq_true_eq, and_assoc]

/-- HOGEL_OVERRUN (R132). -/
theorem hogelOverrun_completes (n : Fin 16) (mask : BitVec 16) (cycles : Nat) (s : State) :
    match s.held.find? (fun e => e.1 == n.val) with
    | none => exec (.hogelOverrun n mask cycles) s = .next s
    | some e =>
      if s.clusterRuns n.val = true ∧ s.reg .CK_STATE 2 = 3 ∧ s.cBand e.2.surf ≤ cycles ∧ mask ≠ 0 then
        ∃ t, exec (.hogelOverrun n mask cycles) s = .next t ∧ Touches Changes.hogelOverrun s t ∧
          EnginesFenced s t n.val mask.toNat ∧ t.Holds .CL_LAST_FAULT n.val Code.hazelFault ∧
          OnlyAt s t [.CL_FAULT_MASK, .CL_FENCED, .CL_STATE, .CL_LAST_FAULT] n.val
      else exec (.hogelOverrun n mask cycles) s = .next s := by
  split
  case h_1 he =>
    show execHogelOverrun n mask cycles s = _
    simp only [execHogelOverrun, he]
  case h_2 e he =>
    exact completes_if (exec_hogelOverrun_of_held he mask cycles) (execHogelOverrun_touches (by decide) (.refl _ s))
      fun _ => State.fenceEngines_spec _ mask.isLt

/-- CLUSTER_FAULT_FENCE (R132). -/
theorem clusterFaultFence_completes (n : Fin 16) (decoder : Bool) (s : State) :
    if s.clusterRuns n.val = true then
      ∃ t, exec (.clusterFaultFence n decoder) s = .next t ∧ Touches Changes.clusterFaultFence s t ∧
        ClusterFenced s t n.val ∧ t.Holds .CL_LAST_FAULT n.val Code.hazelFault ∧
        OnlyAt s t [.CL_FAULT_MASK, .CL_FENCED, .CL_STATE, .CL_LAST_FAULT] n.val
    else exec (.clusterFaultFence n decoder) s = .next s :=
  completes_if (t := s.fenceCluster n.val (if decoder then 4 else 3)) rfl
    (execClusterFaultFence_touches (by decide) (.refl _ s))
    fun _ => ⟨s.fenceCluster_fenced .., s.fenceCluster_fault .., (OnlyAt.refl s _ _).fenceCluster _⟩

/-! ## Pending array-wide values -/

/-- The register that holds the pending values of clusters, or those of the array (R136). -/
def pendPlace (cl : Bool) : Reg := if cl then .iARR_CL else .iARR

theorem pendPlace_ne (cl : Bool) :
    pendPlace cl ≠ .iARR_SEEN ∧ pendPlace cl ≠ .iACC_STATUS ∧ pendPlace cl ≠ .iACC_ID := by
  cases cl <;> decide

theorem State.pend_eq (s : State) (cl : Bool) (ix v : Nat) :
    s.pend cl ix v = (s.setReg (pendPlace cl) ix v).setReg .iARR_SEEN (if cl then 5 + ix else ix) 0 := by
  cases cl <;> rfl

@[simp] theorem State.pend_status (s : State) (cl : Bool) (ix v : Nat) : (s.pend cl ix v).status = s.status := by
  simp only [State.pend_eq, State.setReg_status]

theorem State.pend_holds (s : State) (cl : Bool) (ix v : Nat) : (s.pend cl ix v).Holds (pendPlace cl) ix v := by
  obtain ⟨hseen, -, -⟩ := pendPlace_ne cl
  simp [State.Holds, State.pend_eq, hseen.symm]

theorem State.pend_onlyAt (s : State) (cl : Bool) (ix v : Nat) : OnlyAt s (s.pend cl ix v) [pendPlace cl] ix := by
  obtain ⟨hseen, -, -⟩ := pendPlace_ne cl
  rw [State.pend_eq]
  refine ((OnlyAt.refl s _ ix).setReg (pendPlace cl) v).touches
    (State.setReg_touches List.mem_cons_self (.refl [.reg .iARR_SEEN] _)) (fun r hr => ?_) (by decide)
  rw [List.mem_singleton.1 hr]
  simpa using hseen

/-- The refusals of surfaces are events alone. -/
theorem State.raiseCapacity_frame (s : State) (fs : List (Nat × Nat)) :
    Touches State.raiseCapacity_foot s (s.raiseCapacity fs) :=
  State.raiseCapacity_touches (fun _ h => h) (.refl _ s)

@[simp] theorem State.raiseCapacity_reg (s : State) (fs : List (Nat × Nat)) {q : Reg} (j : Nat)
    (he : q ≠ .EV_COUNT) (hs : q ≠ .NQ_SEQ) (hl : q ≠ .NQ_LOST) : (s.raiseCapacity fs).reg q j = s.reg q j :=
  (s.raiseCapacity_frame fs).reg q j
    (by simp [State.raiseCapacity_foot, State.raise_foot, State.post_foot, he, hs, hl]) (by decide)

/-- The surfaces that a write of an array-wide value would leave short (R133). -/
def State.writeShort (s : State) (p : ArrayParam) (v : Nat) : List (Nat × Nat) :=
  State.shortfalls s.nextArray (s.pend (arrayTarget p).2.2.1 (arrayTarget p).2.2.2 v).nextArray

/-- What becomes of a write that leads to the state `t` and leaves the surfaces `fs` short. -/
def State.writtenOrRefused (s t : State) (fs : List (Nat × Nat)) : State :=
  if fs.isEmpty then t else (s.raiseCapacity fs).refuse Code.admitRefused

theorem State.arrayWrite_eq (s : State) (p : ArrayParam) (v : Nat) : s.arrayWrite p v =
    s.writtenOrRefused (s.pend (arrayTarget p).2.2.1 (arrayTarget p).2.2.2 v) (s.writeShort p v) := rfl

/-- A write that leaves no surface short becomes pending (R136). -/
theorem State.writtenOrRefused_of_fits {s t : State} {fs : List (Nat × Nat)} (h : fs.isEmpty = true) :
    s.writtenOrRefused t fs = t := if_pos h

/-- A write that leaves a surface short is refused (R133). -/
theorem State.writtenOrRefused_of_short {s t : State} {fs : List (Nat × Nat)} (h : ¬ fs.isEmpty = true) :
    s.writtenOrRefused t fs = (s.raiseCapacity fs).refuse Code.admitRefused := if_neg h

section
variable {acc : Accessor} {p : ArrayParam} {v : Nat} {s : State}
  (hp : s.Passes acc (arrayTarget p).1 (arrayTarget p).2.1 v)
include hp

/-- ARRAY_PARAM_WRITE of a value that leaves no surface short (R136). -/
theorem arrayParamWrite_pends (h : ((s.setStatus 0).writeShort p v).isEmpty = true) :
    ∃ t, exec (.arrayParamWrite acc p v) s = .next t ∧ Touches Changes.arrayParamWrite s t ∧ t.status = 0 ∧
      t.Holds (pendPlace (arrayTarget p).2.2.1) (arrayTarget p).2.2.2 v ∧
      OnlyAt s t [pendPlace (arrayTarget p).2.2.1] (arrayTarget p).2.2.2 := by
  have hexec : exec (.arrayParamWrite acc p v) s =
      .next (((s.setStatus 0).arrayWrite p v).noteAccess acc ((arrayTarget p).1.id (arrayTarget p).2.1)) :=
    congrArg Host.Outcome.next (writeParam_of_passes hp)
  rw [State.arrayWrite_eq, State.writtenOrRefused_of_fits h] at hexec
  obtain ⟨-, hstatus, hid⟩ := pendPlace_ne (arrayTarget p).2.2.1
  have hpend : OnlyAt s ((s.setStatus 0).pend (arrayTarget p).2.2.1 (arrayTarget p).2.2.2 v)
      [pendPlace (arrayTarget p).2.2.1] (arrayTarget p).2.2.2 := (s.setStatus 0).pend_onlyAt _ _ _
  refine completes_of_next hexec (execArrayParamWrite_touches (by decide) (.refl _ s)) ⟨?_, ?_, ?_⟩
  · rw [State.noteAccess_status, State.pend_status, State.setStatus_status]
  · rw [State.Holds, State.noteAccess_reg _ _ _ _ hstatus hid]
    exact State.pend_holds ..
  · exact hpend.noteAccess (by simpa using hstatus.symm) (by simpa using hid.symm) _ _

/-- ARRAY_PARAM_WRITE of a value that would leave a surface short (R133). -/
theorem arrayParamWrite_refused (h : ¬ ((s.setStatus 0).writeShort p v).isEmpty = true) :
    ∃ t, exec (.arrayParamWrite acc p v) s = .next t ∧ Touches Changes.arrayParamWrite s t ∧
      t.status = Code.admitRefused ∧ ∀ j, t.reg .iARR j = s.reg .iARR j ∧ t.reg .iARR_CL j = s.reg .iARR_CL j := by
  have hexec : exec (.arrayParamWrite acc p v) s =
      .next (((s.setStatus 0).arrayWrite p v).noteAccess acc ((arrayTarget p).1.id (arrayTarget p).2.1)) :=
    congrArg Host.Outcome.next (writeParam_of_passes hp)
  rw [State.arrayWrite_eq, State.writtenOrRefused_of_short h] at hexec
  exact completes_of_next hexec (execArrayParamWrite_touches (by decide) (.refl _ s))
    ⟨by simp, fun j => ⟨by simp, by simp⟩⟩

end

/-! ## Self-tests -/

/-- CL_FAULT_CLEAR names a cluster that is fault-fenced as a whole by 0xFFFF alone. -/
theorem State.faultClear_of_whole {s : State} {n mask : Nat}
    (h : mask = 0xFFFF ∧ s.reg .CL_FAULT_MASK n = 0xFFFF ∧ s.reg .CL_STATE n = 4) :
    s.faultClear n mask = s.startSelfTest n := by
  obtain ⟨hmask, hfault, hstate⟩ := h
  exact (if_pos hfault).trans (if_pos ⟨hmask, hstate⟩)

/-- Otherwise its state stays, and of a cluster that is not fenced as a whole the fault-fenced engines named run
self-test. -/
theorem State.faultClear_of_not_whole {s : State} {n mask : Nat}
    (h : ¬ (mask = 0xFFFF ∧ s.reg .CL_FAULT_MASK n = 0xFFFF ∧ s.reg .CL_STATE n = 4)) :
    (s.faultClear n mask).reg .CL_STATE n = s.reg .CL_STATE n ∧
    (s.faultClear n mask).Holds .iCL_SELFTEST n (if s.reg .CL_FAULT_MASK n = 0xFFFF then s.reg .iCL_SELFTEST n
      else s.reg .iCL_SELFTEST n ||| (mask &&& s.reg .CL_FAULT_MASK n)) := by
  unfold State.faultClear State.Holds
  by_cases hfault : s.reg .CL_FAULT_MASK n = 0xFFFF
  · rw [if_pos hfault, if_pos hfault, if_neg fun hs => h ⟨hs.1, hfault, hs.2⟩]
    exact ⟨rfl, (s.reg_mod _ _).symm⟩
  · rw [if_neg hfault, if_neg hfault]
    exact ⟨State.setReg_reg_of_ne _ _ _ _ (by decide), State.setReg_reg_self ..⟩

theorem State.faultClear_status (s : State) (n mask : Nat) : (s.faultClear n mask).status = s.status := by
  unfold State.faultClear
  split
  · split
    · rfl
    · rfl
  · rfl

theorem State.faultClear_onlyAt (s : State) (n mask : Nat) :
    OnlyAt s (s.faultClear n mask) [.CL_STATE, .iCL_SELFTEST] n := by
  have hrefl := OnlyAt.refl s [.CL_STATE, .iCL_SELFTEST] n
  unfold State.faultClear
  split
  · split
    · exact hrefl.startSelfTest (by decide)
    · exact hrefl
  · exact hrefl.setReg _ _

/-- CL_FAULT_CLEAR (R134). -/
theorem clFaultClear_completes (acc : Accessor) (n : Fin 16) (mask : BitVec 16) (s : State)
    (hp : s.Passes acc .CL_FAULT_CLEAR n.val mask.toNat) :
    let k := n.val
    ∃ t, exec (.clFaultClear acc n mask) s = .next t ∧ Touches Changes.clFaultClear s t ∧
      t.status = 0 ∧ OnlyAt s t [.CL_STATE, .iCL_SELFTEST] k ∧
      if mask.toNat = 0xFFFF ∧ s.reg .CL_FAULT_MASK k = 0xFFFF ∧ s.reg .CL_STATE k = 4 then
        t.reg .CL_STATE k = 6 ∧ t.Holds .iCL_SELFTEST k (s.reg .iCL_SELFTEST k ||| 0x10000)
      else t.reg .CL_STATE k = s.reg .CL_STATE k ∧
        t.Holds .iCL_SELFTEST k (if s.reg .CL_FAULT_MASK k = 0xFFFF then s.reg .iCL_SELFTEST k
          else s.reg .iCL_SELFTEST k ||| (mask.toNat &&& s.reg .CL_FAULT_MASK k)) := by
  intro k
  have hexec : exec (.clFaultClear acc n mask) s =
      .next (((s.setStatus 0).faultClear k mask.toNat).noteAccess acc (Reg.CL_FAULT_CLEAR.id k)) :=
    congrArg Host.Outcome.next (writeParam_of_passes hp)
  have honly : OnlyAt s ((s.setStatus 0).faultClear k mask.toNat) [.CL_STATE, .iCL_SELFTEST] k :=
    (s.setStatus 0).faultClear_onlyAt k mask.toNat
  refine completes_of_next hexec (execClFaultClear_touches (by decide) (.refl _ s))
    ⟨?_, honly.noteAccess (by decide) (by decide) _ _, ?_⟩
  · rw [State.noteAccess_status, State.faultClear_status, State.setStatus_status]
  · unfold State.Holds
    rw [State.noteAccess_reg _ _ _ _ (by decide) (by decide), State.noteAccess_reg _ _ _ _ (by decide) (by decide)]
    split
    case isTrue h =>
      rw [State.faultClear_of_whole (s := s.setStatus 0) h]
      exact ⟨State.startSelfTest_state .., State.startSelfTest_holds ..⟩
    case isFalse h => exact State.faultClear_of_not_whole (s := s.setStatus 0) h

/-- CLUSTER_WAKE_DONE (R134). -/
theorem clusterWakeDone_completes (n : Fin 16) (s : State) :
    if s.reg .CL_STATE n.val = 2 ∧ s.granted (.clusterWake n.val) = true then
      ∃ t, exec (.clusterWakeDone n) s = .next t ∧ Touches (regs [.iCL_SELFTEST, .HZ_ACTIVE, .CL_STATE]) s t ∧
        t.reg .CL_STATE n.val = 6 ∧ t.Holds .iCL_SELFTEST n.val (s.reg .iCL_SELFTEST n.val ||| 0x10000) ∧
        OnlyAt s t [.CL_STATE, .iCL_SELFTEST] n.val
    else exec (.clusterWakeDone n) s = .next s :=
  completes_if (t := s.startSelfTest n.val) rfl (execClusterWakeDone_touches (by decide) (.refl _ s))
    fun _ => ⟨s.startSelfTest_state _, s.startSelfTest_holds _, (OnlyAt.refl s _ _).startSelfTest (by decide)⟩

/-! ## A swap that a cluster aborts -/

/-- The cluster of a swap fails: the swap is aborted, HAZEL_FAULT names the failure, and the cluster is tested on its
previous program (R131). -/
def State.swapFailed (s : State) (k cause : Nat) : State :=
  ((s.abortSwap k).hazelFault k 0xFFFF cause).startSelfTest k

theorem State.abortSwap_frame (s : State) (k : Nat) : Touches State.abortSwap_foot s (s.abortSwap k) :=
  State.abortSwap_touches (fun _ h => h) (.refl _ s)

theorem OnlyAt.swapFailed {s t : State} {l : List Reg} {k : Nat} (h : OnlyAt s t l k)
    (habort : ∀ r ∈ l, Part.reg r ∉ State.abortSwap_foot) (hraise : ∀ r ∈ l, Part.reg r ∉ State.raise_foot)
    (hactive : .HZ_ACTIVE ∉ l) (cause : Nat) : OnlyAt s (t.swapFailed k cause) l k :=
  ((h.touches (t.abortSwap_frame k) habort (by decide)).hazelFault hraise _ _).startSelfTest hactive

section
variable (s : State) (k cause : Nat)

theorem State.swapFailed_state : (s.swapFailed k cause).reg .CL_STATE k = 6 := State.startSelfTest_state ..

theorem State.swapFailed_swap : (s.swapFailed k cause).reg .HZ_SWAP_STATE 0 = 3 := by
  have hwidth : 3 % 2 ^ Reg.HZ_SWAP_STATE.width = 3 := by decide
  simp [State.swapFailed, State.abortSwap, hwidth]

theorem State.swapFailed_reload : (s.swapFailed k cause).Holds .iCL_RELOAD k (s.reg .iSWAP_OLD 0) := by
  simp [State.Holds, State.swapFailed, State.abortSwap]

theorem State.swapFailed_selfTest :
    (s.swapFailed k cause).Holds .iCL_SELFTEST k (s.reg .iCL_SELFTEST k ||| 0x10000) := by
  have habort : (s.abortSwap k).reg .iCL_SELFTEST k = s.reg .iCL_SELFTEST k :=
    (s.abortSwap_frame k).reg _ _ (by decide) (by decide)
  have htest := ((s.abortSwap k).hazelFault k 0xFFFF cause).startSelfTest_holds k
  rwa [State.hazelFault_reg _ _ _ _ _ (by decide) (by decide) (by decide) (by decide), habort] at htest

theorem State.swapFailed_fault : (s.swapFailed k cause).Holds .CL_LAST_FAULT k Code.hazelFault := by
  rw [State.Holds, State.swapFailed, State.startSelfTest_reg _ _ _ (by decide) (by decide) (by decide)]
  exact State.hazelFault_holds ..

theorem State.swapFailed_lastEvent : (s.swapFailed k cause).lastEvent =
    some (Code.hazelFault, packBits [(8, k), (16, 0xFFFF), (8, cause)]) := by
  simp [State.swapFailed]

end

/-! ## The end of a self-test -/

/-- The self-test that ran on a cluster is over; that of the whole cluster gives back the grant of a wake. -/
def State.testOver (s : State) (k : Nat) : State :=
  let t := s.setReg .iCL_SELFTEST k 0
  if bit (s.selfTest k) 16 then t.release (.clusterWake k) else t

/-- What passed waits for the next array boundary (R134). -/
def State.testPassed (s : State) (k m : Nat) : State := s.setReg .iCL_PASSED k (s.reg .iCL_PASSED k ||| m)

/-- A cluster that failed its self-test is fenced as a whole (R134). -/
def State.testFailed (s : State) (k : Nat) : State :=
  ((((s.setReg .CL_FAULT_MASK k 0xFFFF).noteKeep .CL_FAULT_MASK k).refreshFences k).setCluster k 4).hazelFault k
    0xFFFF 6

/-- The four ends of a self-test. -/
def State.selfTested (s : State) (k : Nat) (pass : Bool) : State :=
  let m := s.selfTest k
  let t := s.testOver k
  if pass = true then t.testPassed k m
  else if bit m 16 = true ∧ s.reg .iSWAP_SLOT 0 ≠ 0xFF ∧ s.reg .HZ_SWAP_CLUSTER 0 = k then t.swapFailed k 6
  else if bit m 16 = true then t.testFailed k
  else t.hazelFault k (m % 0x10000) 6

/-- The registers of a cluster that tell of its self-tests and faults. -/
def testRegs : List Reg := [.CL_STATE, .CL_FAULT_MASK, .iCL_PASSED, .iCL_SELFTEST, .CL_LAST_FAULT]

section
variable (s : State) (k : Nat)

@[simp] theorem State.testOver_reg (q : Reg) (j : Nat) :
    (s.testOver k).reg q j = (s.setReg .iCL_SELFTEST k 0).reg q j := by
  unfold State.testOver
  dsimp only
  split
  · exact State.release_reg ..
  · rfl

theorem State.testOver_onlyAt : OnlyAt s (s.testOver k) testRegs k :=
  fun q hq j hj => (s.testOver_reg k q j).trans (((OnlyAt.refl s _ k).setReg _ _) q hq j hj)

theorem State.selfTested_onlyAt (pass : Bool) : OnlyAt s (s.selfTested k pass) testRegs k := by
  have hover := s.testOver_onlyAt k
  unfold State.selfTested
  dsimp only
  split
  · exact hover.setReg _ _
  split
  · exact hover.swapFailed (by decide) (by decide) (by decide) 6
  split
  · exact ((((hover.setReg _ _).noteKeep _ _).refreshFences (by decide)).setCluster (by decide) 4).hazelFault
      (by decide) _ _
  · exact hover.hazelFault (by decide) _ _

/-- A passed self-test (R134). -/
theorem State.testPassed_spec (m : Nat) :
    ((s.testOver k).testPassed k m).Holds .iCL_PASSED k (s.reg .iCL_PASSED k ||| m) ∧
    ((s.testOver k).testPassed k m).reg .iCL_SELFTEST k = 0 ∧
    ((s.testOver k).testPassed k m).reg .CL_STATE k = s.reg .CL_STATE k := by
  simp [State.testPassed, State.Holds]

/-- A failed self-test of the cluster of a swap (R131). -/
theorem State.testOver_swapFailed_spec :
    ((s.testOver k).swapFailed k 6).reg .HZ_SWAP_STATE 0 = 3 ∧
    ((s.testOver k).swapFailed k 6).reg .CL_STATE k = 6 ∧
    ((s.testOver k).swapFailed k 6).Holds .iCL_RELOAD k (s.reg .iSWAP_OLD 0) ∧
    ((s.testOver k).swapFailed k 6).reg .iCL_SELFTEST k = 0x10000 := by
  have hreload := (s.testOver k).swapFailed_reload k 6
  have htest := (s.testOver k).swapFailed_selfTest k 6
  have hwidth : 0x10000 % 2 ^ Reg.iCL_SELFTEST.width = 0x10000 := by decide
  simp only [State.testOver_reg, State.setReg_reg_self, Nat.zero_mod, Nat.zero_or, State.Holds, hwidth] at htest
  rw [State.testOver_reg, State.setReg_reg_of_ne _ _ _ _ (by decide)] at hreload
  exact ⟨State.swapFailed_swap .., State.swapFailed_state .., hreload, htest⟩

/-- A failed self-test of another cluster, or of engines (R134). -/
theorem State.testFailed_spec (m : Nat) (whole : Prop) [Decidable whole] :
    let t := if whole then (s.testOver k).testFailed k else (s.testOver k).hazelFault k (m % 0x10000) 6
    t.reg .CL_STATE k = (if whole then 4 else s.reg .CL_STATE k) ∧
    t.reg .CL_FAULT_MASK k = (if whole then 0xFFFF else s.reg .CL_FAULT_MASK k) ∧
    t.lastEvent = some (Code.hazelFault, packBits [(8, k), (16, if whole then 0xFFFF else m % 0x10000), (8, 6)]) := by
  have hstate : 4 % 2 ^ Reg.CL_STATE.width = 4 := by decide
  have hmask : 0xFFFF % 2 ^ Reg.CL_FAULT_MASK.width = 0xFFFF := by decide
  by_cases h : whole
  · simp [h, State.testFailed, hstate, hmask]
  · simp [h]

end

theorem exec_selfTestDone (n : Fin 16) (pass : Bool) (s : State) :
    exec (.selfTestDone n pass) s =
      if s.selfTest n.val = 0 then .next s else .next (s.selfTested n.val pass) := by
  show execSelfTestDone n pass s = _
  simp only [execSelfTestDone, State.selfTested, State.swapRuns, Bool.and_eq_true, bne_iff_ne, beq_iff_eq, and_assoc,
    apply_ite Host.Outcome.next]
  rfl

/-- SELF_TEST_DONE (R131, R134). -/
theorem selfTestDone_completes (n : Fin 16) (pass : Bool) (s : State) :
    let k := n.val
    let m := s.selfTest k
    let whole := bit m 16 = true
    let swaps := s.reg .iSWAP_SLOT 0 ≠ 0xFF ∧ s.reg .HZ_SWAP_CLUSTER 0 = k
    if m = 0 then exec (.selfTestDone n pass) s = .next s
    else
      ∃ t, exec (.selfTestDone n pass) s = .next t ∧ Touches Changes.selfTestDone s t ∧
        OnlyAt s t [.CL_STATE, .CL_FAULT_MASK, .iCL_PASSED, .iCL_SELFTEST, .CL_LAST_FAULT] k ∧
        if pass = true then t.Holds .iCL_PASSED k (s.reg .iCL_PASSED k ||| m) ∧ t.reg .iCL_SELFTEST k = 0 ∧
          t.reg .CL_STATE k = s.reg .CL_STATE k
        else if whole ∧ swaps then t.reg .HZ_SWAP_STATE 0 = 3 ∧ t.reg .CL_STATE k = 6 ∧
          t.Holds .iCL_RELOAD k (s.reg .iSWAP_OLD 0) ∧ t.reg .iCL_SELFTEST k = 0x10000
        else t.reg .CL_STATE k = (if whole then 4 else s.reg .CL_STATE k) ∧
          t.reg .CL_FAULT_MASK k = (if whole then 0xFFFF else s.reg .CL_FAULT_MASK k) ∧
          t.lastEvent = some (Code.hazelFault,
            packBits [(8, k), (16, if whole then 0xFFFF else m % 0x10000), (8, 6)]) := by
  intro k m whole swaps
  refine completes_unless (exec_selfTestDone n pass s) (execSelfTestDone_touches (by decide) (.refl _ s))
    fun _ => ⟨s.selfTested_onlyAt k pass, ?_⟩
  unfold State.selfTested
  dsimp only
  split
  case isTrue => exact s.testPassed_spec k m
  case isFalse =>
    split
    case isTrue => exact s.testOver_swapFailed_spec k
    case isFalse => exact s.testFailed_spec k m whole

/-- Settles O26: each command by its own lemma. Whether an array-wide value leaves a surface short is named `fits`
before the two cases, since Lean would otherwise evaluate both arrays to tell them apart. -/
theorem clusterFaults : Obligations.ClusterFaults := by
  refine ⟨engineFaultFence_completes, hogelOverrun_completes, clusterFaultFence_completes, ?_,
    clFaultClear_completes, selfTestDone_completes, clusterWakeDone_completes⟩
  intro acc p v s hp
  dsimp only
  generalize hfits : (State.shortfalls (s.setStatus 0).nextArray _).isEmpty = fits
  split
  case isTrue h => exact arrayParamWrite_pends hp (hfits.trans h)
  case isFalse h => exact arrayParamWrite_refused hp fun hempty => h (hfits.symm.trans hempty)

/-! ## Program slots -/

/-- A write of PG_LOAD brings the slot to its state, or is refused while the slot is in use (R128). -/
theorem pgLoad_completes {c : Instr} {acc : Accessor} {i v st : Nat} {s : State}
    (hc : exec c s = .next (writeParam s acc .PG_LOAD i v fun t =>
      if t.slotInUse i then t.refuse Code.progSlotBusy else t.setReg .PG_STATE i st))
    (hp : s.Passes acc .PG_LOAD i v) {W : List Part} (hW : OutTouches W s (exec c s))
    (hst : st % 2 ^ Reg.PG_STATE.width = st) :
    if s.slotInUse i = true then exec c s = .next (s.answered acc .PG_LOAD i Code.progSlotBusy)
    else ∃ t, exec c s = .next t ∧ Touches W s t ∧ t.status = 0 ∧ t.reg .PG_STATE i = st ∧
      OnlyAt s t [.PG_STATE] i := by
  have hstatus : OnlyAt s (s.setStatus 0) [.PG_STATE] i := .refl _ _ _
  exact refusableWrite_completes (b := (State.slotInUse · i)) hc hp rfl hW
    ⟨by simp, by simp [hst], (hstatus.setReg _ _).noteAccess (by decide) (by decide) _ _⟩

/-- The read of a slot's image through the CUE port, with which its verification ends (R128). -/
def State.pgFetch (s : State) (seen : Seen) (i : Nat) : ReadAnswer × State :=
  (s.see seen).fetch s.pipMaster .cue (s.reg .PG_ADDR i) (s.reg .PG_LENGTH i)

/-- The checks of R128 on what was read of an image. -/
def State.pgChecks (s : State) (i : Nat) (r : ReadAnswer) : Bool :=
  !r.frozen && r.poisoned.isEmpty && decide (s.reg .PG_LENGTH i ≤ 262144) && Config.programSignatureOk r.data

theorem State.pgChecks_iff (s : State) (i : Nat) (r : ReadAnswer) : s.pgChecks i r = true ↔
    r.frozen = false ∧ r.poisoned = [] ∧ s.reg .PG_LENGTH i ≤ 262144 ∧
      Config.programSignatureOk r.data = true := by
  simp only [State.pgChecks, Bool.and_eq_true, Bool.not_eq_true', List.isEmpty_iff, decide_eq_true_eq, and_assoc]

/-- A slot whose image passed is VALID and shows what the image declares. -/
def State.pgValid (s : State) (i version k : Nat) : State :=
  ((s.setReg .PG_STATE i 2).setReg .PG_VERSION i version).setReg .PG_K i k

/-- The slot is judged by its checks. -/
def State.pgJudged (s : State) (seen : Seen) (i version k : Nat) : State :=
  let r := s.pgFetch seen i
  (if s.pgChecks i r.1 then r.2.pgValid i version k else r.2.setReg .PG_STATE i 3).see s.seen

theorem exec_pgLoadDone (p : Fin 2) (version : BitVec 32) (k : BitVec 80) (seen : Seen) (s : State) :
    exec (.pgLoadDone p version k seen) s =
      if s.reg .PG_STATE p.val ≠ 1 ∨ s.storeServes = false then .next s
      else .next (s.pgJudged seen p.val version.toNat k.toNat) := by
  show execPgLoadDone p version k seen s = _
  simp only [State.pgJudged, apply_ite (State.see · s.seen), apply_ite Host.Outcome.next]
  rfl

/-- The registers of a slot that its verification judges. -/
def slotRegs : List Reg := [.PG_STATE, .PG_VERSION, .PG_K]

section
variable (s : State) (seen : Seen) (i : Nat)

theorem State.pgFetch_frame : Touches State.fetch_foot (s.see seen) (s.pgFetch seen i).2 :=
  State.fetch_touches (fun _ h => h) (.refl _ _)

theorem State.pgJudged_onlyAt (version k : Nat) : OnlyAt s (s.pgJudged seen i version k) slotRegs i := by
  have hsee : OnlyAt s (s.see seen) slotRegs i := .refl _ _ _
  have hfetch : OnlyAt s (s.pgFetch seen i).2 slotRegs i :=
    hsee.touches (s.pgFetch_frame seen i) (by decide) (by decide)
  intro q hq j hj
  unfold State.pgJudged
  dsimp only
  rw [State.see_reg]
  split
  · exact (((hfetch.setReg _ _).setReg _ _).setReg _ _) q hq j hj
  · exact hfetch.setReg _ _ q hq j hj

theorem State.pgJudged_of_checks (version : BitVec 32) (k : BitVec 80)
    (hc : s.pgChecks i (s.pgFetch seen i).1 = true) :
    (s.pgJudged seen i version.toNat k.toNat).reg .PG_STATE i = 2 ∧
    (s.pgJudged seen i version.toNat k.toNat).reg .PG_VERSION i = version.toNat ∧
    (s.pgJudged seen i version.toNat k.toNat).reg .PG_K i = k.toNat := by
  have hstate : 2 % 2 ^ Reg.PG_STATE.width = 2 := by decide
  have hversion : version.toNat % 2 ^ Reg.PG_VERSION.width = version.toNat := Nat.mod_eq_of_lt version.isLt
  have hk : k.toNat % 2 ^ Reg.PG_K.width = k.toNat := Nat.mod_eq_of_lt k.isLt
  simp [State.pgJudged, hc, State.pgValid, hstate, hversion, hk]

theorem State.pgJudged_of_not_checks (version k : Nat) (hc : ¬ s.pgChecks i (s.pgFetch seen i).1 = true) :
    (s.pgJudged seen i version k).reg .PG_STATE i = 3 ∧
    (s.pgJudged seen i version k).reg .PG_K i = s.reg .PG_K i := by
  have hstate : 3 % 2 ^ Reg.PG_STATE.width = 3 := by decide
  have hfetch : (s.pgFetch seen i).2.reg .PG_K i = s.reg .PG_K i :=
    (s.pgFetch_frame seen i).reg .PG_K i (by decide) (by decide)
  simp [State.pgJudged, hc, hstate, hfetch]

end

/-- PG_LOAD_DONE (R128). -/
theorem pgLoadDone_completes (p : Fin 2) (version : BitVec 32) (k : BitVec 80) (seen : Seen) (s : State) :
    let i := p.val
    let r := (s.pgFetch seen i).1
    if s.reg .PG_STATE i ≠ 1 ∨ s.storeServes = false then exec (.pgLoadDone p version k seen) s = .next s
    else if r.frozen = false ∧ r.poisoned = [] ∧ s.reg .PG_LENGTH i ≤ 262144 ∧
        Config.programSignatureOk r.data = true then
      ∃ t, exec (.pgLoadDone p version k seen) s = .next t ∧ Touches Changes.pgLoadDone s t ∧
        t.reg .PG_STATE i = 2 ∧ t.reg .PG_VERSION i = version.toNat ∧ t.reg .PG_K i = k.toNat ∧
        OnlyAt s t [.PG_STATE, .PG_VERSION, .PG_K] i
    else
      ∃ t, exec (.pgLoadDone p version k seen) s = .next t ∧ Touches Changes.pgLoadDone s t ∧
        t.reg .PG_STATE i = 3 ∧ t.reg .PG_K i = s.reg .PG_K i ∧ OnlyAt s t [.PG_STATE, .PG_VERSION, .PG_K] i := by
  intro i r
  have hexec := exec_pgLoadDone p version k seen s
  have hframe : OutTouches Changes.pgLoadDone s (exec (.pgLoadDone p version k seen) s) :=
    execPgLoadDone_touches (by decide) (.refl _ s)
  have honly := s.pgJudged_onlyAt seen i version.toNat k.toNat
  split
  case isTrue hwaits => exact hexec.trans (if_pos hwaits)
  case isFalse hwaits =>
    rw [if_neg hwaits] at hexec
    refine completes_either hframe (fun hc => ?_) (fun hc => ?_)
    · obtain ⟨hstate, hversion, hk⟩ := s.pgJudged_of_checks seen i version k ((s.pgChecks_iff i r).2 hc)
      exact ⟨_, hexec, hstate, hversion, hk, honly⟩
    · obtain ⟨hstate, hk⟩ :=
        s.pgJudged_of_not_checks seen i version.toNat k.toNat (mt (s.pgChecks_iff i r).1 hc)
      exact ⟨_, hexec, hstate, hk, honly⟩

/-! ## The swap -/

/-- No surface is short where neither of the two is. -/
theorem isEmpty_pair_filterMap {α : Type} (a b : Option α) :
    ([a, b].filterMap id).isEmpty = true ↔ a = none ∧ b = none := by
  simp [List.filterMap_eq_nil_iff]

/-- The conditions of R129 on a swap to a slot. -/
def State.maySwap (s : State) (p : Nat) : Prop :=
  s.reg .PG_STATE p = 2 ∧ ¬ s.reg .iSWAP_SLOT 0 ≠ 0xFF ∧ s.nextToSwap p ≠ none ∧
    s.swapShort 0 = none ∧ s.swapShort 1 = none

/-- The swap starts: HZ_SWAP_STATE, the target, the previous program, and no cluster yet (R129). -/
theorem State.swapTarget_of_may {s : State} {p : Nat} (h : s.maySwap p) :
    s.swapTarget p = (((s.setReg .HZ_SWAP_STATE 0 1).setReg .iSWAP_SLOT 0 p).setReg .iSWAP_OLD 0 (1 - p)).setReg
      .HZ_SWAP_CLUSTER 0 0xFF := by
  obtain ⟨hvalid, hidle, hnext, hshortA, hshortB⟩ := h
  have hruns : s.swapRuns = false := by simpa [State.swapRuns] using hidle
  simp [State.swapTarget, hvalid, hruns, hnext, hshortA, hshortB]

/-- A write that may not start a swap is refused, and leaves a running swap its target (R129). -/
theorem State.swapTarget_of_not_may {s : State} {p : Nat} (h : ¬ s.maySwap p) :
    ∃ fs, s.swapTarget p = ((s.raiseCapacity fs).setReg .HZ_SWAP_STATE 0 2).refuse Code.admitRefused := by
  unfold State.swapTarget
  dsimp only
  split
  case isTrue => exact ⟨[], rfl⟩
  case isFalse hslot =>
    split
    case isTrue => exact ⟨_, rfl⟩
    case isFalse hshort =>
      simp only [State.swapRuns, not_or, Decidable.not_not, bne_iff_ne, Bool.not_eq_true', Bool.not_eq_false,
        isEmpty_pair_filterMap] at hslot hshort
      exact absurd ⟨hslot.1, not_not_intro hslot.2.1, hslot.2.2, hshort⟩ h

/-- HZ_PROG_TARGET (R129). -/
theorem hzProgTarget_completes (acc : Accessor) (p : Fin 2) (s : State)
    (hp : s.Passes acc .HZ_PROG_TARGET 0 p.val) :
    let u := s.setStatus 0
    let running := s.reg .iSWAP_SLOT 0 ≠ 0xFF
    if s.reg .PG_STATE p.val = 2 ∧ ¬ running ∧ s.nextToSwap p.val ≠ none ∧
         u.swapShort 0 = none ∧ u.swapShort 1 = none then
      ∃ t, exec (.hzProgTarget acc p) s = .next t ∧ Touches Changes.hzProgTarget s t ∧
        t.status = 0 ∧ t.reg .HZ_SWAP_STATE 0 = 1 ∧ t.reg .iSWAP_SLOT 0 = p.val
    else
      ∃ t, exec (.hzProgTarget acc p) s = .next t ∧ Touches Changes.hzProgTarget s t ∧
        t.status = Code.admitRefused ∧ t.reg .HZ_SWAP_STATE 0 = 2 ∧
        t.reg .iSWAP_SLOT 0 = s.reg .iSWAP_SLOT 0 := by
  intro u running
  have hexec : exec (.hzProgTarget acc p) s =
      .next ((u.swapTarget p.val).noteAccess acc (Reg.HZ_PROG_TARGET.id 0)) :=
    congrArg Host.Outcome.next (writeParam_of_passes hp)
  have hframe : OutTouches Changes.hzProgTarget s (exec (.hzProgTarget acc p) s) :=
    execHzProgTarget_touches (by decide) (.refl _ s)
  have hstarted : 1 % 2 ^ Reg.HZ_SWAP_STATE.width = 1 := by decide
  have hrefused : 2 % 2 ^ Reg.HZ_SWAP_STATE.width = 2 := by decide
  have hslot : p.val % 2 ^ Reg.iSWAP_SLOT.width = p.val :=
    Nat.mod_eq_of_lt (Nat.lt_of_lt_of_le p.isLt (by decide))
  refine completes_either hframe (fun h => ?_) (fun h => ?_)
  · rw [State.swapTarget_of_may (s := u) h] at hexec
    exact ⟨_, hexec, by simp [u], by simp [hstarted], by simp [hslot]⟩
  · obtain ⟨fs, hfs⟩ := State.swapTarget_of_not_may (s := u) h
    rw [hfs] at hexec
    exact ⟨_, hexec, by simp, by simp [hrefused], by simp [u]⟩

/-- CLUSTER_LOAD_DONE (R131). -/
theorem clusterLoadDone_completes (n : Fin 16) (ok : Bool) (s : State) :
    let k := n.val
    if s.reg .CL_STATE k ≠ 3 ∨ s.held.any (fun e => e.1 == k) = true then
      exec (.clusterLoadDone n ok) s = .next s
    else
      ∃ t, exec (.clusterLoadDone n ok) s = .next t ∧ Touches Changes.clusterLoadDone s t ∧
        t.reg .CL_STATE k = 6 ∧ t.Holds .iCL_SELFTEST k (s.reg .iCL_SELFTEST k ||| 0x10000) ∧
        OnlyAt s t [.CL_STATE, .iCL_SELFTEST] k ∧
        (if ok = true then t.reg .HZ_SWAP_STATE 0 = s.reg .HZ_SWAP_STATE 0
          else t.reg .HZ_SWAP_STATE 0 = 3 ∧ t.Holds .iCL_RELOAD k (s.reg .iSWAP_OLD 0) ∧
            t.Holds .CL_LAST_FAULT k Code.hazelFault ∧
            t.lastEvent = some (Code.hazelFault, packBits [(8, k), (16, 0xFFFF), (8, 7)])) := by
  intro k
  have hrefl : OnlyAt s s [.CL_STATE, .iCL_SELFTEST] k := .refl _ _ _
  cases ok with
  | true =>
    exact completes_unless (t := s.startSelfTest k) rfl (execClusterLoadDone_touches (by decide) (.refl _ s))
      fun _ => ⟨s.startSelfTest_state k, s.startSelfTest_holds k, hrefl.startSelfTest (by decide), by simp⟩
  | false =>
    exact completes_unless (t := s.swapFailed k 7) rfl (execClusterLoadDone_touches (by decide) (.refl _ s))
      fun _ => ⟨s.swapFailed_state k 7, s.swapFailed_selfTest k 7,
        hrefl.swapFailed (by decide) (by decide) (by decide) 7, s.swapFailed_swap k 7,
        s.swapFailed_reload k 7, s.swapFailed_fault k 7, s.swapFailed_lastEvent k 7⟩

/-- Settles O27: each command by its own lemma, PG_LOAD_VERIFY and PG_LOAD_EMPTY by that of PG_LOAD. -/
theorem hazelPrograms : Obligations.HazelPrograms :=
  ⟨fun _ _ s hp => pgLoad_completes rfl hp (execPgLoadVerify_touches (by decide) (.refl _ s)) (by decide),
    fun _ _ s hp => pgLoad_completes rfl hp (execPgLoadEmpty_touches (by decide) (.refl _ s)) (by decide),
    pgLoadDone_completes, hzProgTarget_completes, clusterLoadDone_completes⟩

end Sys2Proof.Machine
end

section
/-! Integers, bytes and CRCs: the facts about the model's basic functions that the Husk codec rests on. -/
namespace Sys2Proof.Machine

/-- The shift of R145 is the division by 2 rounded down. The integer's two constructors show it whether Lean reads the
count as a natural number or, as with Mathlib, as an integer. -/
theorem fdiv_two (x : Int) : x.fdiv 2 = x >>> 1 := by
  have hshift : x >>> 1 = Int.shiftRight x 1 := by cases x <;> rfl
  exact (Int.fdiv_eq_ediv_of_nonneg x (by decide)).trans
    (hshift.trans (Int.shiftRight_eq_div_pow x 1)).symm

theorem clampInt_eq {lo hi : Int} (h : lo ≤ hi) (x : Int) : clampInt lo hi x = max lo (min hi x) := by
  unfold clampInt
  omega

theorem b2n_testBit (n v : Nat) : b2n (v.testBit n) = v / 2 ^ n % 2 := by
  rw [← Nat.toNat_testBit]
  cases v.testBit n <;> rfl

@[simp] theorem leBytes_length (n v : Nat) : (leBytes n v).length = n := by
  induction n generalizing v with
  | zero => rfl
  | succ n ih => rw [leBytes, List.length_cons, ih]

/-- Bytes of a number, least significant first, read back (R143). -/
theorem leNat_leBytes (n v : Nat) : leNat (leBytes n v) = v % 2 ^ (8 * n) := by
  induction n generalizing v with
  | zero => simp [leBytes, leNat, Nat.mod_one]
  | succ n ih =>
    rw [leBytes, leNat, ih, Nat.mul_succ, Nat.add_comm (8 * n), Nat.pow_add, Nat.mod_mul, BitVec.toNat_ofNat,
      Nat.shiftRight_eq_div_pow]

/-- A reflected CRC register keeps the width of its polynomial. -/
theorem crcBit_lt {p c : Nat} (hp : p < 2 ^ 32) (hc : c < 2 ^ 32) : crcBit p c < 2 ^ 32 := by
  have hhalf : c / 2 < 2 ^ 32 := Nat.lt_of_le_of_lt (Nat.div_le_self c 2) hc
  unfold crcBit
  split
  · exact Nat.xor_lt_two_pow hhalf hp
  · exact hhalf

theorem crcByte_lt {p c b : Nat} (hp : p < 2 ^ 32) (hc : c < 2 ^ 32) (hb : b < 2 ^ 32) : crcByte p c b < 2 ^ 32 := by
  unfold crcByte
  iterate 8 apply crcBit_lt hp
  exact Nat.xor_lt_two_pow hc hb

theorem crcBytes_lt {p c : Nat} (hp : p < 2 ^ 32) (hc : c < 2 ^ 32) (bs : List Byte) : crcBytes p c bs < 2 ^ 32 := by
  unfold crcBytes
  induction bs generalizing c with
  | nil => exact hc
  | cons b bs ih => exact ih (crcByte_lt hp hc (Nat.lt_trans b.isLt (by decide)))

theorem crc32c_lt (bs : List Byte) : crc32c bs < 2 ^ 32 :=
  Nat.xor_lt_two_pow (crcBytes_lt (by decide) (by decide) bs) (by decide)

/-- Lists of one length, joined. -/
theorem length_flatMap_const {α β : Type} {f : α → List β} {l : List α} {n : Nat} (h : ∀ a ∈ l, (f a).length = n) :
    (l.flatMap f).length = n * l.length := by
  induction l with
  | nil => rfl
  | cons a l ih =>
    rw [List.forall_mem_cons] at h
    obtain ⟨ha, hl⟩ := h
    rw [List.flatMap_cons, List.length_append, List.length_cons, ha, ih hl, Nat.mul_succ, Nat.add_comm]

end Sys2Proof.Machine
end

section
/-! Husk's transform, predictions and residue codes (05_husk_codec.md, R145 to R151): the arithmetic of each, the
ranges of R146 that they keep, and what a decoder reads back of a code. -/
namespace Sys2Proof.Machine.Husk

/-! ## Colour transform (R145) -/

/-- R145: the inverse transform undoes the transform, whatever the sample and its number of channels. -/
theorem inverse_forward (xform : Nat) (s : Sample) : inverse xform (forward xform s) = s := by
  match s with
  | [] | [_] | [_, _] => rfl
  | r :: g :: b :: rest =>
    by_cases h : xform = 1
    · simp only [forward, inverse, if_pos h, List.cons.injEq, and_true]
      omega
    · simp only [forward, inverse, if_neg h]

/-! ## Ranges of the coded channels (R146) -/

/-- `x` lies in the range of coded channel `c` (R146). -/
def InChan (xform c : Nat) (x : Int) : Prop := chanLo xform c ≤ x ∧ x ≤ 1023

theorem chanLo_nonpos (xform c : Nat) : chanLo xform c ≤ 0 := by
  unfold chanLo
  split <;> decide

/-- The codes of the original samples are in range for every channel. -/
theorem InChan.of_code {x : Int} (xform c : Nat) (h : 0 ≤ x ∧ x ≤ 1023) : InChan xform c x :=
  ⟨Int.le_trans (chanLo_nonpos xform c) h.1, h.2⟩

theorem InChan.headD {xform c : Nat} {l : List Int} (h : ∀ x ∈ l, InChan xform c x) : InChan xform c (l.headD 0) := by
  cases l with
  | nil => exact .of_code _ _ (by decide)
  | cons x l => exact h x List.mem_cons_self

theorem firstPred_inChan (xform c : Nat) : InChan xform c (firstPred xform c) := by
  unfold InChan chanLo firstPred
  split <;> decide

/-- R145, R146: the transform of a sample of codes from 0 to 1,023 is in range in every channel; a channel that the
sample does not have counts as 0. -/
theorem forward_inChan (xform : Nat) {s : Sample} (h : ∀ v ∈ s, 0 ≤ v ∧ v ≤ 1023) (c : Nat) :
    InChan xform c ((forward xform s).getD c 0) := by
  have hkept : ∀ {t : Sample} (i : Nat), (∀ v ∈ t, 0 ≤ v ∧ v ≤ 1023) → InChan xform c (t.getD i 0) := by
    intro t i ht
    rw [List.getD_eq_getElem?_getD]
    cases hv : t[i]? with
    | none => exact .of_code _ _ (by decide)
    | some v => exact .of_code _ _ (ht v (List.mem_of_getElem? hv))
  match s with
  | [] | [_] | [_, _] => exact hkept c h
  | r :: g :: b :: rest =>
    by_cases hx : xform = 1
    · subst hx
      simp only [List.forall_mem_cons] at h
      obtain ⟨hr, hg, hb, hrest⟩ := h
      have hhalf := Int.fdiv_eq_ediv_of_nonneg (r - b) (b := 2) (by decide)
      have hhalf' := Int.fdiv_eq_ediv_of_nonneg (g - (b + (r - b).fdiv 2)) (b := 2) (by decide)
      have hy : 0 ≤ b + (r - b).fdiv 2 + (g - (b + (r - b).fdiv 2)).fdiv 2 ∧
          b + (r - b).fdiv 2 + (g - (b + (r - b).fdiv 2)).fdiv 2 ≤ 1023 := by omega
      have hco : -1023 ≤ r - b ∧ r - b ≤ 1023 := by omega
      have hcg : -1023 ≤ g - (b + (r - b).fdiv 2) ∧ g - (b + (r - b).fdiv 2) ≤ 1023 := by omega
      match c with
      | 0 => exact hy
      | 1 => exact hco
      | 2 => exact hcg
      | i + 3 => exact hkept i hrest
    · rw [forward, if_neg hx]
      exact hkept c h

/-! ## Prediction (R147) -/

/-- R147: the clamped gradient lies between its left and upper neighbour. -/
theorem gradient_mem (a b c : Int) : min a b ≤ gradient a b c ∧ gradient a b c ≤ max a b := by
  unfold gradient clampInt
  omega

/-- R146, R147: a prediction from values in range is in range. -/
theorem intraPred_inChan {xform c : Nat} {left : Option Int} {above : Option (Int × Int)}
    (hleft : ∀ a ∈ left, InChan xform c a) (habove : ∀ b ∈ above, InChan xform c b.1) :
    InChan xform c (intraPred (firstPred xform c) left above) := by
  match left, above with
  | none, none => exact firstPred_inChan xform c
  | some a, none => exact hleft a rfl
  | none, some (b, _) => exact habove _ rfl
  | some a, some (b, d) =>
    obtain ⟨halo, hahi⟩ := hleft a rfl
    obtain ⟨hblo, hbhi⟩ : InChan xform c b := habove _ rfl
    obtain ⟨hlo, hhi⟩ := gradient_mem a b d
    exact ⟨Int.le_trans (Int.le_min.2 ⟨halo, hblo⟩) hlo, Int.le_trans hhi (Int.max_le.2 ⟨hahi, hbhi⟩)⟩

/-! ## Zigzag values (R151) -/

theorem zigzag_of_nonneg {e : Int} (h : 0 ≤ e) : (zigzag e : Int) = 2 * e := by
  rw [zigzag, if_pos h, Int.toNat_of_nonneg (by omega)]

theorem zigzag_of_neg {e : Int} (h : e < 0) : (zigzag e : Int) = -2 * e - 1 := by
  rw [zigzag, if_neg (Int.not_le.2 h), Int.toNat_of_nonneg (by omega)]

theorem unzig_zigzag (e : Int) : unzig (zigzag e) = e := by
  unfold unzig
  obtain h | h := Int.lt_or_le e 0
  · have hz := zigzag_of_neg h
    omega
  · have hz := zigzag_of_nonneg h
    omega

/-- R146: the residue of a value and a prediction in range has a zigzag value of at most ZMAX. -/
theorem zigzag_le_zMax {xform c : Nat} {x p : Int} (hx : InChan xform c x) (hp : InChan xform c p) :
    zigzag (x - p) ≤ zMax xform c := by
  have hz : (zigzag (x - p) : Int) ≤ 2 * (1023 - chanLo xform c) := by
    obtain ⟨hxlo, hxhi⟩ := hx
    obtain ⟨hplo, hphi⟩ := hp
    obtain h | h := Int.lt_or_le (x - p) 0
    · rw [zigzag_of_neg h]
      omega
    · rw [zigzag_of_nonneg h]
      omega
  have hmax : (zMax xform c : Int) = 2 * (1023 - chanLo xform c) := by
    unfold zMax chanLo
    split <;> rfl
  omega

theorem zMax_lt (xform c : Nat) : zMax xform c < 4096 := by
  unfold zMax
  split <;> decide

/-! ## Codes (R151) -/

/-- The bits of a number most significant first, by their positions. -/
theorem msb_eq_map (n v : Nat) : msb n v = (List.range n).map (fun i => v.testBit (n - 1 - i)) := by
  induction n with
  | zero => rfl
  | succ n ih =>
    rw [List.range_succ_eq_map, List.map_cons, List.map_map, msb, ih]
    congr 1
    refine List.map_congr_left fun i _ => ?_
    rw [Function.comp_apply, show n + 1 - 1 - i.succ = n - 1 - i by omega]

@[simp] theorem msb_length (n v : Nat) : (msb n v).length = n := by
  rw [msb_eq_map, List.length_map, List.length_range]

/-- Reading the low `n` bits of a number back. -/
theorem takeBits_msb (n v : Nat) (rest : List Bool) : takeBits n (msb n v ++ rest) = some (v % 2 ^ n, rest) := by
  induction n with
  | zero => simp [takeBits, msb, Nat.mod_one]
  | succ n ih =>
    rw [msb, List.cons_append, takeBits, ih]
    simp only [b2n_testBit, Nat.mod_pow_succ, Nat.mul_comm, Nat.add_comm]

/-- Fewer one-bits than the limit, and the zero-bit that ends them. -/
theorem takeUnary_ones {q m : Nat} (h : q < m) (rest : List Bool) :
    takeUnary m (List.replicate q true ++ false :: rest) = some (q, true, rest) := by
  induction q generalizing m with
  | zero =>
    cases m with
    | zero => omega
    | succ m => simp [takeUnary]
  | succ q ih =>
    cases m with
    | zero => omega
    | succ m => simp [List.replicate_succ, takeUnary, ih (Nat.lt_of_succ_lt_succ h)]

/-- As many one-bits as the limit: no zero-bit follows. -/
theorem takeUnary_limit (m : Nat) (rest : List Bool) :
    takeUnary m (List.replicate m true ++ rest) = some (m, false, rest) := by
  induction m with
  | zero => rfl
  | succ m ih => simp [List.replicate_succ, takeUnary, ih]

theorem putCode_regular {k z : Nat} (h : z / 2 ^ k < 24) :
    putCode k z = List.replicate (z / 2 ^ k) true ++ false :: msb k z := if_pos h

theorem putCode_escape {k z : Nat} (h : ¬ z / 2 ^ k < 24) :
    putCode k z = List.replicate 24 true ++ msb 12 z := if_neg h

/-- R151: the code of a zigzag value of 12 bits reads back, whatever follows it. -/
theorem takeCode_putCode {z : Nat} (k : Nat) (hz : z < 4096) (rest : List Bool) :
    takeCode k (putCode k z ++ rest) = some (z, rest) := by
  by_cases hq : z / 2 ^ k < 24
  · rw [putCode_regular hq, List.append_assoc, List.cons_append, takeCode, takeUnary_ones hq]
    simp only [takeBits_msb, Option.map_some, Nat.div_add_mod']
  · rw [putCode_escape hq, List.append_assoc, takeCode, takeUnary_limit]
    simp only [takeBits_msb, Nat.mod_eq_of_lt (show z < 2 ^ 12 from hz)]

/-- Settles O13: the transform, the prediction's table, the zigzag values and the two forms of a code. -/
theorem huskTransformAndCodes : Obligations.HuskTransformAndCodes := by
  refine ⟨fun r g b rest => ⟨?_, rfl, inverse_forward 1 _, inverse_forward 0 _⟩, fun y co cg rest => ?_,
    fun first a b c => ⟨rfl, rfl, rfl, clampInt_eq (by omega) _⟩,
    fun e => ⟨zigzag_of_nonneg, zigzag_of_neg, unzig_zigzag e⟩,
    fun k z rest hz _ => ⟨fun hq => ?_, fun hq => ?_, takeCode_putCode k hz rest⟩⟩
  · simp only [forward, if_true, fdiv_two]
  · simp only [inverse, if_true, fdiv_two]
  · rw [Nat.shiftRight_eq_div_pow] at hq ⊢
    rw [putCode_regular hq, msb_eq_map, List.append_assoc, List.singleton_append]
  · rw [Nat.shiftRight_eq_div_pow] at hq
    rw [putCode_escape (Nat.not_lt.2 hq), msb_eq_map]

end Sys2Proof.Machine.Husk
end

section
/-! Husk's rows (05_husk_codec.md, R146 to R153): a decoder that reads the codes of a row, of the channels of a row and
of all rows gets them back, with the next Rice parameters and the bits that follow. -/
namespace Sys2Proof.Machine.Husk

/-! ## One row of one channel -/

/-- The prediction at the front of a row (R147, R148): the co-located reference sample, 0 where the list has ended, or
the one of R147. -/
def rowPred (refs : Option (List Int)) (first : Int) (left : Option Int) (above : Option (List Int × Int)) : Int :=
  match refs with
  | some rs => rs.headD 0
  | none => intraPred first left (above.map (fun a => (a.1.headD 0, a.2)))

theorem predRow_cons (refs : Option (List Int)) (first : Int) (left : Option Int) (above : Option (List Int × Int))
    (x : Int) (xs : List Int) :
    predRow refs first left above (x :: xs) = rowPred refs first left above ::
      predRow (refs.map List.tail) first (some x) (above.map (fun a => (a.1.tail, a.1.headD 0))) xs := by
  cases refs <;> rfl

/-- What a row's predictions are formed from is in the range of channel `c`. -/
structure RowInChan (xform c : Nat) (refs : Option (List Int)) (left : Option Int)
    (above : Option (List Int × Int)) : Prop where
  refs : ∀ rs ∈ refs, ∀ x ∈ rs, InChan xform c x
  left : ∀ a ∈ left, InChan xform c a
  above : ∀ a ∈ above, (∀ x ∈ a.1, InChan xform c x) ∧ InChan xform c a.2

section
variable {xform c : Nat} {refs : Option (List Int)} {left : Option Int} {above : Option (List Int × Int)}
  (h : RowInChan xform c refs left above)
include h

theorem RowInChan.rowPred : InChan xform c (rowPred refs (firstPred xform c) left above) := by
  cases refs with
  | some rs => exact InChan.headD (h.refs rs rfl)
  | none =>
    refine intraPred_inChan h.left fun b hb => ?_
    obtain ⟨a, ha, rfl⟩ := Option.map_eq_some_iff.1 hb
    exact InChan.headD (h.above a ha).1

/-- One position on, with the value at this one to the left. -/
theorem RowInChan.next {x : Int} (hx : InChan xform c x) :
    RowInChan xform c (refs.map List.tail) (some x) (above.map (fun a => (a.1.tail, a.1.headD 0))) where
  refs rs hrs y hy := by
    obtain ⟨r, hr, rfl⟩ := Option.map_eq_some_iff.1 hrs
    exact h.refs r hr y (List.mem_of_mem_tail hy)
  left a ha := by
    obtain rfl := Option.some.inj ha
    exact hx
  above a ha := by
    obtain ⟨b, hb, rfl⟩ := Option.map_eq_some_iff.1 ha
    exact ⟨fun y hy => (h.above b hb).1 y (List.mem_of_mem_tail hy), InChan.headD (h.above b hb).1⟩

end

/-- One position is decoded from the code of its residue: no check of R155 fails. -/
theorem decodeRow_succ {xform c k n : Nat} {refs : Option (List Int)} {left : Option Int}
    {above : Option (List Int × Int)} {x : Int} (h : RowInChan xform c refs left above) (hx : InChan xform c x)
    {rest rest' : List Bool} {xs : List Int} {sum : Nat}
    (htail : decodeRow xform c k (refs.map List.tail) (firstPred xform c) n (some x)
      (above.map (fun a => (a.1.tail, a.1.headD 0))) rest = .ok (xs, sum, rest')) :
    let z := zigzag (x - rowPred refs (firstPred xform c) left above)
    decodeRow xform c k refs (firstPred xform c) (n + 1) left above (putCode k z ++ rest) =
      .ok (x :: xs, z + sum, rest') := by
  intro z
  have hz : z ≤ zMax xform c := zigzag_le_zMax hx h.rowPred
  have hback : rowPred refs (firstPred xform c) left above + unzig z = x := by
    rw [unzig_zigzag]
    omega
  have hrange : ¬ (x < chanLo xform c ∨ 1023 < x) := by
    obtain ⟨hlo, hhi⟩ := hx
    omega
  have hcode := takeCode_putCode k (Nat.lt_of_le_of_lt hz (zMax_lt xform c)) rest
  clear_value z
  match refs with
  | none | some [] | some (_ :: _) =>
    simp only [rowPred, List.headD_nil, List.headD_cons] at hback
    rw [decodeRow, hcode]
    simp only [if_neg (Nat.not_lt.2 hz), hback, if_neg hrange, htail]

/-- The zigzag values of a row (R151). -/
def rowZigzags (ps row : List Int) : List Nat := (row.zip ps).map (fun (x, p) => zigzag (x - p))

/-- R153: the codes of a row read back, in front of any bits. -/
theorem decodeRow_codes {xform c : Nat} (k : Nat) {row : List Int} (hrow : ∀ x ∈ row, InChan xform c x)
    {refs : Option (List Int)} {left : Option Int} {above : Option (List Int × Int)}
    (h : RowInChan xform c refs left above) (rest : List Bool) :
    let zs := rowZigzags (predRow refs (firstPred xform c) left above row) row
    decodeRow xform c k refs (firstPred xform c) row.length left above (zs.flatMap (putCode k) ++ rest) =
      .ok (row, zs.sum, rest) := by
  induction row generalizing refs left above with
  | nil => rfl
  | cons x xs ih =>
    rw [List.forall_mem_cons] at hrow
    obtain ⟨hx, hxs⟩ := hrow
    simp only [rowZigzags, predRow_cons, List.zip_cons_cons, List.map_cons, List.flatMap_cons, List.append_assoc,
      List.sum_cons, List.length_cons]
    exact decodeRow_succ h hx (ih hxs (h.next hx))

/-! ## One row of every channel -/

/-- The lists hold values of the coded channels from `c` on, one list for each channel. -/
def ChansFrom (xform : Nat) : Nat → List (List Int) → Prop
  | _, [] => True
  | c, l :: ls => (∀ x ∈ l, InChan xform c x) ∧ ChansFrom xform (c + 1) ls

theorem ChansFrom.headD {xform c : Nat} {ls : List (List Int)} (h : ChansFrom xform c ls) :
    ∀ x ∈ ls.headD [], InChan xform c x := by
  cases ls with
  | nil => simp
  | cons l ls => exact h.1

theorem ChansFrom.tail {xform c : Nat} {ls : List (List Int)} (h : ChansFrom xform c ls) :
    ChansFrom xform (c + 1) ls.tail := by
  cases ls with
  | nil => trivial
  | cons l ls => exact h.2

/-- The rows above, with an empty row where there is none. -/
def rowsAbove (aboves : List (Option (List Int))) : List (List Int) := aboves.map (·.getD [])

theorem rowsAbove_replicate_none (n : Nat) : rowsAbove (List.replicate n none) = List.replicate n [] :=
  List.map_replicate

theorem rowsAbove_map_some (rows : List (List Int)) : rowsAbove (rows.map some) = rows := by
  rw [rowsAbove, List.map_map]
  exact List.map_id rows

theorem ChansFrom.replicate_nil (xform c n : Nat) : ChansFrom xform c (List.replicate n []) := by
  induction n generalizing c with
  | zero => trivial
  | succ n ih => exact ⟨by simp, ih (c + 1)⟩

/-- At its start, a row of channel `c` has predictions in range from the rows above and of the reference. -/
theorem RowInChan.start {xform c : Nat} {aboves : List (Option (List Int))} {refs : List (List Int)} (isRef : Bool)
    (habove : ChansFrom xform c (rowsAbove aboves)) (hrefs : ChansFrom xform c refs) :
    RowInChan xform c (if isRef then some (refs.headD []) else none) none
      ((aboves.headD none).map (fun a => (a, 0))) where
  refs rs hrs := by
    cases isRef with
    | false => simp at hrs
    | true =>
      obtain rfl := Option.some.inj hrs
      exact hrefs.headD
  left := by simp
  above a ha := by
    obtain ⟨l, hl, rfl⟩ := Option.map_eq_some_iff.1 ha
    refine ⟨?_, .of_code (x := 0) _ _ (by decide)⟩
    cases aboves with
    | nil => simp at hl
    | cons o os =>
      obtain rfl : o = some l := hl
      exact habove.1

/-- R153: the codes of one row of every channel read back, with the Rice parameters of the next row (R152). -/
theorem decodeChans_encodeChans {xform w : Nat} (isRef : Bool) {c : Nat} {rows : List (List Int)}
    (hlen : ∀ l ∈ rows, l.length = w) (hrows : ChansFrom xform c rows) {aboves : List (Option (List Int))}
    (habove : ChansFrom xform c (rowsAbove aboves)) {refs : List (List Int)} (hrefs : ChansFrom xform c refs)
    (ks : List Nat) (rest : List Bool) :
    let codes := encodeChans xform w isRef c rows aboves ks refs
    decodeChans xform w isRef rows.length c aboves ks refs (codes.1 ++ rest) = .ok (rows, codes.2, rest) := by
  induction rows generalizing c aboves refs ks with
  | nil => rfl
  | cons row rows ih =>
    obtain ⟨hrow, hrows⟩ := hrows
    rw [List.forall_mem_cons] at hlen
    obtain ⟨hw, hlen⟩ := hlen
    have hcodes := decodeRow_codes (ks.headD 0) hrow (RowInChan.start isRef habove hrefs)
    have htail := ih hlen hrows (aboves := aboves.tail) (by
      rw [rowsAbove, List.map_tail]
      exact habove.tail) hrefs.tail ks.tail
    rw [hw] at hcodes
    simp only [rowZigzags] at hcodes
    simp only [encodeChans, List.length_cons, decodeChans, List.append_assoc, hcodes, htail]

/-! ## All rows -/

/-- A row that has a list of `w` values in range for each of `nch` channels. -/
structure RowOf (xform w nch : Nat) (row : List (List Int)) : Prop where
  channels : row.length = nch
  width : ∀ l ∈ row, l.length = w
  range : ChansFrom xform 0 row

/-- R152, R153: the codes of all rows read back, in front of any bits. -/
theorem decodeRows_encodeRows {xform w nch : Nat} (isRef : Bool) {rows : List (List (List Int))}
    (hrows : ∀ row ∈ rows, RowOf xform w nch row) {aboves : List (Option (List Int))}
    (habove : ChansFrom xform 0 (rowsAbove aboves)) {refs : List (List (List Int))}
    (hrefs : ∀ r ∈ refs, ChansFrom xform 0 r) (ks : List Nat) (rest : List Bool) :
    decodeRows xform w nch isRef rows.length aboves ks refs (encodeRows xform w isRef rows aboves ks refs ++ rest) =
      .ok (rows, rest) := by
  induction rows generalizing aboves refs ks with
  | nil => rfl
  | cons row rows ih =>
    rw [List.forall_mem_cons] at hrows
    obtain ⟨⟨hn, hw, hrange⟩, hrows⟩ := hrows
    have href : ChansFrom xform 0 (refs.headD []) := by
      cases refs with
      | nil => trivial
      | cons r rs => exact hrefs r List.mem_cons_self
    have hcodes := decodeChans_encodeChans isRef hw hrange habove href ks
    have htail := ih hrows (aboves := row.map some) (by rwa [rowsAbove_map_some])
      (refs := refs.tail) fun r hr => hrefs r (List.mem_of_mem_tail hr)
    rw [hn] at hcodes
    simp only [encodeRows, List.length_cons, decodeRows, List.append_assoc, hcodes, htail]

end Sys2Proof.Machine.Husk
end

section
/-! Husk's samples as rows and as raw payloads, and the bytes and header of a tile (05_husk_codec.md, R142 to R144,
R150, R153 and R154): each is read back as it was written. -/
namespace Sys2Proof.Machine.Husk

/-! ## Samples in rows and channels -/

/-- The samples of a tile of FORMAT `format`: as many as its rows hold, of its channels, with codes from 0 to 1,023
(R140, R141). -/
structure GoodSamples (format : Nat) (xs : List Sample) : Prop where
  count : xs.length = (dims format).1 * (dims format).2.1
  channels : ∀ s ∈ xs, s.length = (dims format).2.2
  codes : ∀ s ∈ xs, ∀ v ∈ s, 0 ≤ v ∧ v ≤ 1023

@[simp] theorem forward_length (xform : Nat) (s : Sample) : (forward xform s).length = s.length := by
  match s with
  | [] | [_] | [_, _] => rfl
  | r :: g :: b :: rest =>
    rw [forward]
    split <;> rfl

@[simp] theorem rowsOf_length (n w : Nat) (xs : List Sample) : (rowsOf n w xs).length = n := by
  induction n generalizing xs with
  | zero => rfl
  | succ n ih => rw [rowsOf, List.length_cons, ih]

theorem rowsOf_row_length {n w : Nat} {xs : List Sample} (h : xs.length = w * n) :
    ∀ row ∈ rowsOf n w xs, row.length = w := by
  induction n generalizing xs with
  | zero => simp [rowsOf]
  | succ n ih =>
    rw [Nat.mul_succ] at h
    rw [rowsOf, List.forall_mem_cons]
    exact ⟨by rw [List.length_take]; omega, ih (by rw [List.length_drop]; omega)⟩

/-- A raster cut into rows is the raster (R141). -/
theorem rowsOf_flatten {n w : Nat} {xs : List Sample} (h : xs.length = w * n) : (rowsOf n w xs).flatten = xs := by
  induction n generalizing xs with
  | zero => exact (List.eq_nil_of_length_eq_zero (by simpa using h)).symm
  | succ n ih =>
    rw [Nat.mul_succ] at h
    rw [rowsOf, List.flatten_cons, ih (by rw [List.length_drop]; omega), List.take_append_drop]

theorem mem_of_mem_rowsOf {n w : Nat} {xs row : List Sample} {s : Sample} (hrow : row ∈ rowsOf n w xs) (hs : s ∈ row) :
    s ∈ xs := by
  induction n generalizing xs with
  | zero => simp [rowsOf] at hrow
  | succ n ih =>
    rw [rowsOf, List.mem_cons] at hrow
    obtain rfl | hrow := hrow
    · exact List.mem_of_mem_take hs
    · exact List.mem_of_mem_drop (ih hrow)

/-- A sample is the list of its channels by number. -/
theorem map_getD_range (s : Sample) : (List.range s.length).map (fun c => s.getD c 0) = s := by
  refine List.ext_getElem (by simp) fun i _ hi => ?_
  rw [List.getElem_map, List.getElem_range, List.getD_eq_getElem?_getD,
    List.getElem?_eq_getElem hi, Option.getD_some]

/-- A row split into its channels is joined again. -/
theorem zipChans_splitChans {nch : Nat} {row : List Sample} (h : ∀ s ∈ row, s.length = nch) :
    zipChans row.length (splitChans nch row) = row := by
  induction row with
  | nil => rfl
  | cons s row ih =>
    rw [List.forall_mem_cons] at h
    obtain ⟨rfl, hrow⟩ := h
    have hhead : (splitChans s.length (s :: row)).map (fun l => l.headD 0) = s := by
      rw [splitChans, List.map_map]
      exact map_getD_range s
    have htail : (splitChans s.length (s :: row)).map List.tail = splitChans s.length row := by
      simp [splitChans]
    rw [List.length_cons, zipChans, hhead, htail, ih hrow]

theorem ChansFrom.map_range {xform : Nat} {f : Nat → List Int} (h : ∀ c, ∀ x ∈ f c, InChan xform c x) (n c : Nat) :
    ChansFrom xform c ((List.range' c n).map f) := by
  induction n generalizing c with
  | zero => trivial
  | succ n ih => exact ⟨h c, ih (c + 1)⟩

theorem planes_eq (format xform : Nat) (xs : List Sample) : planes format xform xs =
    (rowsOf (dims format).2.1 (dims format).1 (xs.map (forward xform))).map (splitChans (dims format).2.2) := rfl

/-- R146: the rows of the transformed samples hold values in the ranges of their channels. -/
theorem chansFrom_of_mem_planes {format : Nat} (xform : Nat) {xs : List Sample}
    (h : ∀ s ∈ xs, ∀ v ∈ s, 0 ≤ v ∧ v ≤ 1023) : ∀ row ∈ planes format xform xs, ChansFrom xform 0 row := by
  intro row hrow
  rw [planes_eq] at hrow
  obtain ⟨samples, hsamples, rfl⟩ := List.mem_map.1 hrow
  rw [splitChans, List.range_eq_range']
  refine ChansFrom.map_range (fun c x hx => ?_) _ 0
  obtain ⟨t, ht, rfl⟩ := List.mem_map.1 hx
  obtain ⟨s, hs, rfl⟩ := List.mem_map.1 (mem_of_mem_rowsOf hsamples ht)
  exact forward_inChan xform (h s hs) c

theorem GoodSamples.rowOf {format : Nat} (xform : Nat) {xs : List Sample} (h : GoodSamples format xs) :
    ∀ row ∈ planes format xform xs, RowOf xform (dims format).1 (dims format).2.2 row := by
  intro row hrow
  have hrange := chansFrom_of_mem_planes xform h.codes row hrow
  rw [planes_eq] at hrow
  obtain ⟨samples, hsamples, rfl⟩ := List.mem_map.1 hrow
  refine ⟨by simp [splitChans], fun l hl => ?_, hrange⟩
  obtain ⟨c, -, rfl⟩ := List.mem_map.1 hl
  rw [List.length_map, rowsOf_row_length (by rw [List.length_map, h.count]) samples hsamples]

@[simp] theorem planes_length (format xform : Nat) (xs : List Sample) :
    (planes format xform xs).length = (dims format).2.1 := by
  simp [planes_eq]

/-- The rows of the transformed samples, joined and transformed back, are the samples (R145). -/
theorem inverse_planes {format : Nat} (xform : Nat) {xs : List Sample} (h : GoodSamples format xs) :
    ((planes format xform xs).flatMap (zipChans (dims format).1)).map (inverse xform) = xs := by
  have hlength : (xs.map (forward xform)).length = (dims format).1 * (dims format).2.1 := by
    rw [List.length_map, h.count]
  have hjoin : (planes format xform xs).map (zipChans (dims format).1) =
      rowsOf (dims format).2.1 (dims format).1 (xs.map (forward xform)) := by
    rw [planes_eq, List.map_map, List.map_congr_left (g := id), List.map_id]
    intro row hrow
    rw [Function.comp_apply, ← rowsOf_row_length hlength row hrow]
    refine zipChans_splitChans fun t ht => ?_
    obtain ⟨s, hs, rfl⟩ := List.mem_map.1 (mem_of_mem_rowsOf hrow ht)
    rw [forward_length, h.channels s hs]
  rw [List.flatMap_def, hjoin, rowsOf_flatten hlength, List.map_map, List.map_congr_left (g := id), List.map_id]
  exact fun s _ => inverse_forward xform s

/-! ## Raw payloads (R150) -/

/-- The bits of a sample in a RAW payload (R150). -/
def rawBits (s : Sample) : List Bool := s.flatMap (fun v => msb 10 v.toNat)

theorem rawBits_length (s : Sample) : (rawBits s).length = 10 * s.length :=
  length_flatMap_const fun _ _ => msb_length ..

theorem takeRaw_chans_rawBits {s : Sample} (h : ∀ v ∈ s, 0 ≤ v ∧ v ≤ 1023) (rest : List Bool) :
    takeRaw.chans s.length (rawBits s ++ rest) = some (s, rest) := by
  induction s with
  | nil => rfl
  | cons v s ih =>
    rw [List.forall_mem_cons] at h
    obtain ⟨⟨hlo, hhi⟩, hs⟩ := h
    have hv : ((v.toNat % 2 ^ 10 : Nat) : Int) = v := by omega
    simp only [rawBits] at ih
    simp only [rawBits, List.flatMap_cons, List.append_assoc, List.length_cons, takeRaw.chans, takeBits_msb, ih hs,
      Option.map_some, hv]

/-- R150: the samples of a RAW payload read back, in front of any bits. -/
theorem takeRaw_rawBits {nch : Nat} {xs : List Sample} (hlen : ∀ s ∈ xs, s.length = nch)
    (hcodes : ∀ s ∈ xs, ∀ v ∈ s, 0 ≤ v ∧ v ≤ 1023) (rest : List Bool) :
    takeRaw nch xs.length (xs.flatMap rawBits ++ rest) = some (xs, rest) := by
  induction xs with
  | nil => rfl
  | cons s xs ih =>
    rw [List.forall_mem_cons] at hlen hcodes
    obtain ⟨rfl, hlen⟩ := hlen
    obtain ⟨hs, hcodes⟩ := hcodes
    simp only [List.flatMap_cons, List.append_assoc, List.length_cons, takeRaw, takeRaw_chans_rawBits hs,
      ih hlen hcodes, Option.map_some]

/-! ## Bytes of a payload (R153, R154) -/

/-- Bits read as a number, most significant first, onto the bits already read. -/
theorem foldl_bits_div (l : List Bool) (a : Nat) : l.foldl (fun a b => 2 * a + b2n b) a / 2 ^ l.length = a := by
  induction l generalizing a with
  | nil => simp
  | cons b l ih =>
    have hb : b2n b < 2 := by cases b <;> decide
    rw [List.foldl_cons, List.length_cons, Nat.pow_succ, ← Nat.div_div_eq_div_mul, ih]
    omega

theorem msb_foldl_bits (l : List Bool) (a : Nat) : msb l.length (l.foldl (fun a b => 2 * a + b2n b) a) = l := by
  induction l generalizing a with
  | nil => rfl
  | cons b l ih =>
    rw [List.foldl_cons, List.length_cons, msb, ih, Nat.testBit_eq_decide_div_mod_eq, foldl_bits_div]
    cases b <;> simp [b2n]

/-- A byte made of eight bits has those bits. -/
theorem msb_byte {l : List Bool} (h : l.length = 8) :
    msb 8 (BitVec.ofNat 8 (l.foldl (fun a b => 2 * a + b2n b) 0)).toNat = l := by
  have hdiv := foldl_bits_div l 0
  have hmsb := msb_foldl_bits l 0
  rw [h] at hdiv hmsb
  rw [BitVec.toNat_ofNat, Nat.mod_eq_of_lt (Nat.lt_of_div_eq_zero (by decide) hdiv), hmsb]

theorem bitsOf_cons (b : Byte) (bs : List Byte) : bitsOf (b :: bs) = msb 8 b.toNat ++ bitsOf bs := List.flatMap_cons

theorem bitsOf_append (bs cs : List Byte) : bitsOf (bs ++ cs) = bitsOf bs ++ bitsOf cs := List.flatMap_append

theorem bitsOf_length (bs : List Byte) : (bitsOf bs).length = 8 * bs.length :=
  length_flatMap_const fun _ _ => msb_length ..

theorem bitsOf_replicate_zero (n : Nat) : bitsOf (List.replicate n 0) = List.replicate (8 * n) false := by
  induction n with
  | zero => rfl
  | succ n ih =>
    rw [List.replicate_succ, bitsOf_cons, ih, Nat.mul_succ, Nat.add_comm, ← List.replicate_append_replicate]
    rfl

/-- R153, R154: the bytes of a payload have its bits, and zeros to the end of the last byte. -/
theorem bitsOf_packBytes {n : Nat} {bs : List Bool} (h : bs.length / 8 < n) :
    bitsOf (packBytes n bs) = bs ++ List.replicate (8 * ((bs.length + 7) / 8) - bs.length) false := by
  induction n generalizing bs with
  | zero => omega
  | succ n ih =>
    by_cases hnil : bs = []
    · simp [packBytes, hnil, bitsOf]
    · have hpos : 0 < bs.length := List.length_pos_iff.2 hnil
      have hbyte : (bs.take 8 ++ List.replicate (8 - (bs.take 8).length) false).length = 8 := by
        rw [List.length_append, List.length_replicate, List.length_take]
        omega
      rw [packBytes, if_neg hnil, bitsOf_cons, msb_byte hbyte]
      obtain hlt | hle := Nat.lt_or_ge bs.length 8
      · have hdrop : packBytes n (bs.drop 8) = [] := by
          rw [List.drop_of_length_le (Nat.le_of_lt hlt)]
          cases n <;> rfl
        have hbytes : (bs.length + 7) / 8 = 1 := by omega
        rw [hdrop, List.take_of_length_le (Nat.le_of_lt hlt), hbytes]
        simp [bitsOf]
      · have htake : 8 - (bs.take 8).length = 0 := by
          rw [List.length_take]
          omega
        have hpad : 8 * (((bs.drop 8).length + 7) / 8) - (bs.drop 8).length =
            8 * ((bs.length + 7) / 8) - bs.length := by
          rw [List.length_drop]
          omega
        rw [htake, ih (by rw [List.length_drop]; omega), hpad, List.replicate_zero, List.append_nil,
          ← List.append_assoc, List.take_append_drop]

theorem packBytes_length {n : Nat} {bs : List Bool} (h : bs.length / 8 < n) :
    (packBytes n bs).length = (bs.length + 7) / 8 := by
  have hbits := congrArg List.length (bitsOf_packBytes h)
  rw [bitsOf_length, List.length_append, List.length_replicate] at hbits
  omega

/-! ## CHECK (R144) -/

/-- CHECK fits its field of 32 bits. -/
theorem checkOf_lt (format : Nat) (xs : List Sample) : checkOf format xs < 2 ^ 32 := crc32c_lt _

/-! ## The header (R143) -/

/-- Each field of a header fits its bits (R143). -/
structure Header.Fits (h : Header) : Prop where
  check : h.check < 2 ^ 32
  ver : h.ver < 2 ^ 3
  format : h.format < 2 ^ 2
  pred : h.pred < 2 ^ 2
  ref : h.ref < 2 ^ 6
  xform : h.xform < 2 ^ 1
  k0 : h.k0 < 2 ^ 4
  rsvd : h.rsvd < 2 ^ 4
  len : h.len < 2 ^ 10

/-- A header whose fields fit is packed into 64 bits and read back (R143). -/
theorem Header.ofWord_word {h : Header} (hf : h.Fits) : h.word < 2 ^ 64 ∧ Header.ofWord h.word = h := by
  obtain ⟨hcheck, hver, hformat, hpred, href, hxform, hk0, hrsvd, hlen⟩ := hf
  have hword : h.word = h.len + 2 ^ 10 * (h.rsvd + 2 ^ 4 * (h.k0 + 2 ^ 4 * (h.xform + 2 ^ 1 * (h.ref + 2 ^ 6 *
      (h.pred + 2 ^ 2 * (h.format + 2 ^ 2 * (h.ver + 2 ^ 3 * h.check))))))) := by
    simp only [Header.word, packBits, Nat.mod_eq_of_lt, hcheck, hver, hformat, hpred, href, hxform, hk0, hrsvd, hlen,
      Nat.mul_zero, Nat.add_zero]
  rw [hword]
  cases h
  simp only [Header.ofWord, bits, Nat.shiftRight_eq_div_pow, Header.mk.injEq] at *
  omega

end Sys2Proof.Machine.Husk
end

section
/-! Husk's tiles (05_husk_codec.md, R140 to R157): what the encoder writes is decoded to the samples it was given. -/
namespace Sys2Proof.Machine.Husk

/-! ## A tile's bytes (R142, R154) -/

/-- LEN of a tile with a payload of these bits (R154). -/
def tileUnits (payload : List Bool) : Nat := (8 + (payload.length + 7) / 8 + 7) / 8

/-- The bytes of a tile after its header: the payload, and zeros to the end of the last unit (R142, R154). -/
def payloadBytes (payload : List Bool) : List Byte :=
  packBytes (payload.length / 8 + 1) payload ++
    List.replicate (8 * tileUnits payload - 8 - (payload.length + 7) / 8) 0

/-- The zero-bits after the last code of a tile (R154). -/
def paddingBits (payload : List Bool) : Nat := 8 * (8 * tileUnits payload - 8) - payload.length

theorem tileUnits_pos (payload : List Bool) : 0 < tileUnits payload := by
  unfold tileUnits
  omega

theorem paddingBits_lt (payload : List Bool) : paddingBits payload < 64 := by
  unfold paddingBits tileUnits
  omega

theorem payloadBytes_length (payload : List Bool) : (payloadBytes payload).length = 8 * tileUnits payload - 8 := by
  rw [payloadBytes, List.length_append, packBytes_length (Nat.lt_succ_self _), List.length_replicate]
  unfold tileUnits
  omega

theorem bitsOf_payloadBytes (payload : List Bool) :
    bitsOf (payloadBytes payload) = payload ++ List.replicate (paddingBits payload) false := by
  rw [payloadBytes, bitsOf_append, bitsOf_packBytes (Nat.lt_succ_self _), bitsOf_replicate_zero, List.append_assoc,
    List.replicate_append_replicate]
  congr 2
  unfold paddingBits tileUnits
  omega

/-- The header of the tile that holds a payload (R143). -/
def tileHeader (format pred ref xform k0 check : Nat) (payload : List Bool) : Header :=
  ⟨check, 1, format, pred, ref, xform, k0, 0, tileUnits payload⟩

theorem assemble_eq (format pred ref xform k0 check : Nat) (payload : List Bool) :
    assemble format pred ref xform k0 check payload =
      leBytes 8 (tileHeader format pred ref xform k0 check payload).word ++ payloadBytes payload := by
  simp only [assemble, packBytes_length (Nat.lt_succ_self _), List.append_assoc]
  rfl

theorem assemble_length (format pred ref xform k0 check : Nat) (payload : List Bool) :
    (assemble format pred ref xform k0 check payload).length = 8 * tileUnits payload := by
  have hpos := tileUnits_pos payload
  rw [assemble_eq, List.length_append, leBytes_length, payloadBytes_length]
  omega

/-! ## Decoding (R155) -/

theorem headerOf_append {h : Header} (hf : h.Fits) (bs : List Byte) : headerOf (leBytes 8 h.word ++ bs) = .ok h := by
  obtain ⟨hlt, hword⟩ := Header.ofWord_word hf
  have hlength : ¬ (leBytes 8 h.word ++ bs).length < 8 := by
    rw [List.length_append, leBytes_length]
    omega
  have hread : leAt (leBytes 8 h.word ++ bs) 0 8 = h.word := by
    rw [leAt, List.drop_zero, List.take_left' (leBytes_length 8 _), leNat_leBytes, Nat.mod_eq_of_lt hlt]
  rw [headerOf, if_neg hlength, hread, hword]

/-- Steps 1 to 3 of R155 passed: what is left is the body. `ref` is the reference under REF, else empty. -/
theorem decode_append {h : Header} (hf : h.Fits) {accept : List Nat} (hok : headerFault h accept = none)
    {bs : List Byte} (hpos : 0 < h.len) (hlen : bs.length = 8 * h.len - 8)
    {refOf : Nat → Nat → Option (List Sample)} {ref : List Sample}
    (href : h.pred = 1 → refOf (h.ref + 1) h.format = some ref) (hnone : h.pred ≠ 1 → ref = []) :
    decode (leBytes 8 h.word ++ bs) accept refOf = (decodeBody h ref bs).map (fun xs => (h, xs)) := by
  have hbody : ((leBytes 8 h.word ++ bs).take (8 * h.len)).drop 8 = bs := by
    rw [List.take_of_length_le (by rw [List.length_append, leBytes_length]; omega),
      List.drop_left' (leBytes_length 8 _)]
  by_cases hpred : h.pred = 1
  · simp only [decode, headerOf_append hf, hok, if_pos hpred, href hpred, hbody]
  · obtain rfl := hnone hpred
    simp only [decode, headerOf_append hf, hok, if_neg hpred, hbody]

/-- Step 4 of R155: the samples that the bits of a payload give, and the bits left. -/
def bodyOf (format pred xform k0 : Nat) (ref : List Sample) (bs : List Bool) : Except Nat (List Sample × List Bool) :=
  if pred = 2 then
    match takeRaw (dims format).2.2 ((dims format).1 * (dims format).2.1) bs with
    | none => .error Code.huskLenOver
    | some r => .ok r
  else
    match decodeRows xform (dims format).1 (dims format).2.2 (pred == 1) (dims format).2.1
        (List.replicate (dims format).2.2 none) (List.replicate (dims format).2.2 k0) (planes format xform ref) bs with
    | .error e => .error e
    | .ok (rows, r) => .ok ((rows.flatMap (zipChans (dims format).1)).map (inverse xform), r)

/-- Step 4 is all that the bits decide before the checks of steps 5 to 7 (R155). -/
theorem decodeBody_eq (h : Header) (ref : List Sample) (payload : List Byte) : decodeBody h ref payload =
    match bodyOf h.format h.pred h.xform h.k0 ref (bitsOf payload) with
    | .error e => .error e
    | .ok (xs, rest) =>
      if xs.any (fun s => s.any (fun v => decide (v < 0) || decide (1023 < v))) then .error Code.huskBadCode
      else if rest.any id then .error Code.huskBadCode
      else if 64 ≤ rest.length + (8 * (8 * h.len - 8) - (bitsOf payload).length) then .error Code.huskLenOver
      else if checkOf h.format xs ≠ h.check then .error Code.huskCheck
      else .ok xs := rfl

/-- Steps 5 to 7 of R155 passed: codes in range, zero-bits to the end of the last unit, and the CHECK of the samples. -/
theorem decodeBody_of_bodyOf {h : Header} {ref xs : List Sample} {payload : List Bool}
    (hlen : h.len = tileUnits payload) (hcheck : h.check = checkOf h.format xs)
    (hcodes : ∀ s ∈ xs, ∀ v ∈ s, 0 ≤ v ∧ v ≤ 1023)
    (hbody : ∀ rest, bodyOf h.format h.pred h.xform h.k0 ref (payload ++ rest) = .ok (xs, rest)) :
    decodeBody h ref (payloadBytes payload) = .ok xs := by
  have hrange : xs.any (fun s => s.any (fun v => decide (v < 0) || decide (1023 < v))) = false := by
    simpa only [List.any_eq_false, List.any_eq_true, not_exists, not_and, Bool.or_eq_true, decide_eq_true_eq, not_or,
      Int.not_lt] using hcodes
  have hzeros : (List.replicate (paddingBits payload) false).any id = false := by simp
  have hend : ¬ 64 ≤ (List.replicate (paddingBits payload) false).length +
      (8 * (8 * h.len - 8) - (bitsOf (payloadBytes payload)).length) := by
    have hpad := paddingBits_lt payload
    rw [List.length_replicate, bitsOf_length, payloadBytes_length, hlen]
    omega
  rw [decodeBody_eq, bitsOf_payloadBytes, hbody, ← bitsOf_payloadBytes]
  simp only [hrange, hzeros, hend, hcheck, ne_eq, not_true_eq_false, if_false, Bool.false_eq_true]

/-! ## Payloads -/

/-- R147, R148, R152: the codes of a tile's rows give its samples. -/
theorem bodyOf_encodeRows {format pred k0 : Nat} (xform : Nat) (hpred : pred ≠ 2) {ref xs : List Sample}
    (hxs : GoodSamples format xs) (href : ∀ s ∈ ref, ∀ v ∈ s, 0 ≤ v ∧ v ≤ 1023) (rest : List Bool) :
    bodyOf format pred xform k0 ref (encodeRows xform (dims format).1 (pred == 1) (planes format xform xs)
      (List.replicate (dims format).2.2 none) (List.replicate (dims format).2.2 k0) (planes format xform ref) ++ rest) =
      .ok (xs, rest) := by
  have hrows := decodeRows_encodeRows (pred == 1) (hxs.rowOf xform)
    (aboves := List.replicate (dims format).2.2 none)
    (by rw [rowsAbove_replicate_none]; exact .replicate_nil _ _ _)
    (chansFrom_of_mem_planes (format := format) xform href) (List.replicate (dims format).2.2 k0) rest
  rw [planes_length] at hrows
  simp only [bodyOf, if_neg hpred, hrows, inverse_planes xform hxs]

/-- R150: a RAW payload gives its samples. -/
theorem bodyOf_rawBits {format : Nat} {xs : List Sample} (hxs : GoodSamples format xs) (rest : List Bool) :
    bodyOf format 2 0 0 [] (xs.flatMap rawBits ++ rest) = .ok (xs, rest) := by
  rw [bodyOf, if_pos rfl, ← hxs.count, takeRaw_rawBits hxs.channels hxs.codes]

/-- R147: the codes of an INTRA row do not depend on a reference. -/
theorem encodeChans_intra (xform w c : Nat) (rows : List (List Int)) (aboves : List (Option (List Int)))
    (ks : List Nat) (refs refs' : List (List Int)) :
    encodeChans xform w false c rows aboves ks refs = encodeChans xform w false c rows aboves ks refs' := by
  induction rows generalizing c aboves ks refs refs' with
  | nil => rfl
  | cons row rows ih =>
    rw [encodeChans, encodeChans, ih _ _ _ refs.tail refs'.tail]
    rfl

theorem encodeRows_intra (xform w : Nat) (rows : List (List (List Int))) (aboves : List (Option (List Int)))
    (ks : List Nat) (refs refs' : List (List (List Int))) :
    encodeRows xform w false rows aboves ks refs = encodeRows xform w false rows aboves ks refs' := by
  induction rows generalizing aboves ks refs refs' with
  | nil => rfl
  | cons row rows ih =>
    rw [encodeRows, encodeRows, encodeChans_intra xform w 0 row aboves ks (refs.headD []) (refs'.headD [])]
    simp only [ih _ _ refs.tail refs'.tail]

/-! ## The candidates (R157) -/

/-- The tile decodes to the samples, and its LEN is its own length in units of 8 bytes, in range (R140 to R142). -/
def DecodesTo (format : Nat) (refOf : Nat → Nat → Option (List Sample)) (xs : List Sample) (tile : List Byte) : Prop :=
  ∃ h, decode tile [format] refOf = .ok (h, xs) ∧ h.format = format ∧ 8 * h.len = tile.length ∧ h.len ≤ maxLen format

/-- Header fields of a candidate that pass step 1 of R155. -/
structure FieldsOk (format pred ref xform k0 : Nat) : Prop where
  format_lt : format < 4
  pred_lt : pred < 3
  ref_lt : ref < 64
  xform_lt : xform < 2
  k0_lt : k0 < 12
  ref_eq : pred ≠ 1 → ref = 0
  raw_eq : pred = 2 → xform = 0 ∧ k0 = 0

/-- R141: the raw size is that of the samples at ten bits a channel, and the largest tile is a RAW one: the raw size,
which is a whole number of units, and the header. -/
theorem rawBytes_spec (format : Nat) :
    10 * (dims format).2.2 * ((dims format).1 * (dims format).2.1) = 8 * rawBytes format ∧
      8 * maxLen format = rawBytes format + 8 := by
  match format with
  | 0 | 1 | 2 | _ + 3 => simp [dims, rawBytes, maxLen]

theorem maxLen_lt (format : Nat) : maxLen format < 2 ^ 10 := by
  unfold maxLen
  split <;> decide

section
variable {format pred ref xform k0 check : Nat} (hok : FieldsOk format pred ref xform k0)
  {payload : List Bool} (hlen : tileUnits payload ≤ maxLen format)
include hok hlen

theorem FieldsOk.fits (hcheck : check < 2 ^ 32) : (tileHeader format pred ref xform k0 check payload).Fits where
  check := hcheck
  ver := Nat.one_lt_two_pow (by decide)
  format := hok.format_lt
  pred := Nat.lt_trans hok.pred_lt (by decide)
  ref := hok.ref_lt
  xform := hok.xform_lt
  k0 := Nat.lt_trans hok.k0_lt (by decide)
  rsvd := Nat.two_pow_pos 4
  len := Nat.lt_of_le_of_lt hlen (maxLen_lt format)

/-- Steps 1 and 2 of R155 pass. -/
theorem FieldsOk.headerFault : headerFault (tileHeader format pred ref xform k0 check payload) [format] = none := by
  obtain ⟨-, hpred, -, -, hk0, hnoRef, hraw⟩ := hok
  have hpos := tileUnits_pos payload
  have hstep1 : ¬ (pred = 3 ∨ 11 < k0 ∨ (pred ≠ 1 ∧ ref ≠ 0) ∨ (pred = 2 ∧ (xform ≠ 0 ∨ k0 ≠ 0))) := by omega
  have hstep2 : ¬ (tileUnits payload = 0 ∨ maxLen format < tileUnits payload) := by omega
  simpa [Husk.headerFault, tileHeader, hstep2] using hstep1

end

/-- A tile whose payload gives the samples decodes to them. -/
theorem decodesTo_assemble {format pred d xform k0 : Nat} (hok : FieldsOk format pred d xform k0)
    {payload : List Bool} {ref xs : List Sample} {refOf : Nat → Nat → Option (List Sample)}
    (href : pred = 1 → refOf (d + 1) format = some ref) (hnone : pred ≠ 1 → ref = [])
    (hcodes : ∀ s ∈ xs, ∀ v ∈ s, 0 ≤ v ∧ v ≤ 1023)
    (hbody : ∀ rest, bodyOf format pred xform k0 ref (payload ++ rest) = .ok (xs, rest))
    (hlen : (assemble format pred d xform k0 (checkOf format xs) payload).length ≤ 8 * maxLen format) :
    DecodesTo format refOf xs (assemble format pred d xform k0 (checkOf format xs) payload) := by
  rw [assemble_length] at hlen
  replace hlen : tileUnits payload ≤ maxLen format := by omega
  refine ⟨tileHeader format pred d xform k0 (checkOf format xs) payload, ?_, rfl, (assemble_length ..).symm, hlen⟩
  rw [assemble_eq, decode_append (hok.fits hlen (checkOf_lt format xs)) (hok.headerFault hlen)
      (tileUnits_pos payload) (payloadBytes_length payload) href hnone,
    decodeBody_of_bodyOf rfl rfl hcodes hbody]
  rfl

section
variable {format : Nat} {xs : List Sample} {refOf : Nat → Nat → Option (List Sample)} (hxs : GoodSamples format xs)
include hxs

theorem encodeIntra_decodesTo {xform k0 : Nat} (hok : FieldsOk format 0 0 xform k0)
    (hlen : (encodeIntra format xform k0 xs).length ≤ 8 * maxLen format) :
    DecodesTo format refOf xs (encodeIntra format xform k0 xs) := by
  refine decodesTo_assemble hok (by simp) (fun _ => rfl) hxs.codes (fun rest => ?_) hlen
  rw [encodeRows_intra _ _ _ _ _ [] (planes format xform [])]
  exact bodyOf_encodeRows xform (by decide) hxs (by simp) rest

theorem encodeRef_decodesTo {xform k0 d : Nat} (hok : FieldsOk format 1 (d - 1) xform k0) (hd : 1 ≤ d)
    {ref : List Sample} (hgood : GoodSamples format ref) (href : refOf d format = some ref)
    (hlen : (encodeRef format xform k0 d ref xs).length ≤ 8 * maxLen format) :
    DecodesTo format refOf xs (encodeRef format xform k0 d ref xs) :=
  decodesTo_assemble hok (fun _ => by rwa [Nat.sub_add_cancel hd]) (by simp) hxs.codes
    (bodyOf_encodeRows xform (by decide) hxs hgood.codes) hlen

/-- R150: a RAW payload has ten bits for each channel of each sample. -/
theorem flatMap_rawBits_length :
    (xs.flatMap rawBits).length = 10 * (dims format).2.2 * ((dims format).1 * (dims format).2.1) := by
  rw [← hxs.count]
  refine length_flatMap_const fun s hs => ?_
  rw [rawBits_length, hxs.channels s hs]

/-- R141: RAW is the largest tile of its FORMAT. -/
theorem encodeRaw_length : (encodeRaw format xs).length = 8 * maxLen format := by
  have hlength : (encodeRaw format xs).length = 8 * tileUnits (xs.flatMap rawBits) := assemble_length ..
  obtain ⟨hbits, hmax⟩ := rawBytes_spec format
  rw [hlength, tileUnits, flatMap_rawBits_length hxs]
  omega

theorem encodeRaw_decodesTo (hformat : format < 4) : DecodesTo format refOf xs (encodeRaw format xs) := by
  have hok : FieldsOk format 2 0 0 0 :=
    ⟨hformat, by decide, by decide, by decide, by decide, fun _ => rfl, fun _ => ⟨rfl, rfl⟩⟩
  exact decodesTo_assemble hok (by simp) (fun _ => rfl) hxs.codes (bodyOf_rawBits hxs)
    (Nat.le_of_eq (encodeRaw_length hxs))

end

/-! ## The encoder's choice (R157) -/

/-- The shorter of the INTRA and, with a reference, the REF candidate; INTRA where they are equal (R157). -/
def codedCandidate (format xform k0 d : Nat) (ref : Option (List Sample)) (xs : List Sample) : List Byte :=
  match ref with
  | some r =>
    if (encodeRef format xform k0 d r xs).length < (encodeIntra format xform k0 xs).length then
      encodeRef format xform k0 d r xs
    else encodeIntra format xform k0 xs
  | none => encodeIntra format xform k0 xs

theorem encode_eq (format xform k0 d : Nat) (ref : Option (List Sample)) (xs : List Sample) :
    encode format xform k0 d ref xs =
      if (encodeRaw format xs).length < (codedCandidate format xform k0 d ref xs).length then encodeRaw format xs
      else codedCandidate format xform k0 d ref xs := by
  cases ref <;> rfl

theorem codedCandidate_cases (format xform k0 d : Nat) (ref : Option (List Sample)) (xs : List Sample) :
    codedCandidate format xform k0 d ref xs = encodeIntra format xform k0 xs ∨
      ∃ r, ref = some r ∧ codedCandidate format xform k0 d ref xs = encodeRef format xform k0 d r xs := by
  cases ref with
  | none => exact .inl rfl
  | some r =>
    rw [codedCandidate]
    split
    · exact .inr ⟨r, rfl, rfl⟩
    · exact .inl rfl

section
variable {format xform k0 d : Nat} {ref : Option (List Sample)} {xs : List Sample}
  {refOf : Nat → Nat → Option (List Sample)} (hformat : format < 4) (hxform : xform < 2) (hk0 : k0 < 12)
  (hd : 1 ≤ d) (hd64 : d ≤ 64) (hxs : GoodSamples format xs) (hgood : ∀ r, ref = some r → GoodSamples format r)
  (href : refOf d format = ref)
include hformat hxform hk0 hd hd64 hxs hgood href

/-- The coded candidate decodes to the samples where its LEN is in range. -/
theorem codedCandidate_decodesTo (hlen : (codedCandidate format xform k0 d ref xs).length ≤ 8 * maxLen format) :
    DecodesTo format refOf xs (codedCandidate format xform k0 d ref xs) := by
  obtain hintra | ⟨r, hr, hcoded⟩ := codedCandidate_cases format xform k0 d ref xs
  · rw [hintra] at hlen ⊢
    exact encodeIntra_decodesTo hxs ⟨hformat, by decide, by decide, hxform, hk0, fun _ => rfl, by simp⟩ hlen
  · rw [hcoded] at hlen ⊢
    exact encodeRef_decodesTo hxs ⟨hformat, by decide, by omega, hxform, hk0, by simp, by simp⟩ hd (hgood r hr)
      (href.trans hr) hlen

/-- R140, R157: the tile that the encoder chooses decodes to the samples; RAW bounds its LEN. -/
theorem encode_decodesTo : DecodesTo format refOf xs (encode format xform k0 d ref xs) := by
  rw [encode_eq]
  split
  case isTrue => exact encodeRaw_decodesTo hxs hformat
  case isFalse h =>
    rw [encodeRaw_length hxs] at h
    exact codedCandidate_decodesTo hformat hxform hk0 hd hd64 hxs hgood href (Nat.not_lt.1 h)

end

/-- Settles O14: RAW, INTRA and REF tiles each decode to their samples, and the encoder writes one of them. -/
theorem huskIsLossless : Obligations.HuskIsLossless := by
  intro format xform k0 d ref xs refOf
  have hgood : ∀ ys : List Sample, (ys.length = (dims format).1 * (dims format).2.1 ∧
      ∀ y ∈ ys, y.length = (dims format).2.2 ∧ ∀ v ∈ y, 0 ≤ v ∧ v ≤ 1023) → GoodSamples format ys :=
    fun ys h => ⟨h.1, fun s hs => (h.2 s hs).1, fun s hs => (h.2 s hs).2⟩
  exact fun hformat hxform hk0 hd hd64 hxs href hof =>
    encode_decodesTo hformat hxform hk0 hd hd64 (hgood xs hxs) (fun r hr => hgood r (href r hr)) hof

end Sys2Proof.Machine.Husk
end

section
/-! Commit groups (06_stream_ingest.md, R192 to R197): writes that complete or are refused, and what OPEN, GO, ABORT and
a parameter write leave of a group. -/
namespace Sys2Proof.Machine

/-! ## Writes that complete, and writes that are refused -/

section
variable {c : Instr} {s u : State} {acc : Accessor} {r : Reg} {i v code : Nat} {eff : State → State}
  {W : List Part} {P : State → Prop}

/-- A command that is a write which passes the checks of R380 completes with what holds after its effect. -/
theorem write_completes (hc : exec c s = .next (writeParam u acc r i v eff)) (hp : u.Passes acc r i v)
    (hW : OutTouches W s (exec c s)) (hP : P ((eff (u.setStatus 0)).noteAccess acc (r.id i))) :
    ∃ t, exec c s = .next t ∧ Touches W s t ∧ P t :=
  completes_of_next (hc.trans (congrArg Host.Outcome.next (writeParam_of_passes hp))) hW hP

/-- A command that is such a write is answered with the code with which its effect refuses it. -/
theorem write_refused (hc : exec c s = .next (writeParam u acc r i v eff)) (hp : u.Passes acc r i v)
    (hr : eff (u.setStatus 0) = (u.setStatus 0).refuse code) : exec c s = .next (u.answered acc r i code) := by
  rw [hc, writeParam_of_passes hp, hr]
  rfl

/-- A command that is such a write is refused under a condition, and completes elsewhere. -/
theorem write_completes_unless {q : Prop} [Decidable q] (hc : exec c s = .next (writeParam u acc r i v eff))
    (hp : u.Passes acc r i v) (hW : OutTouches W s (exec c s))
    (hr : q → eff (u.setStatus 0) = (u.setStatus 0).refuse code)
    (hP : ¬ q → P ((eff (u.setStatus 0)).noteAccess acc (r.id i))) :
    if q then exec c s = .next (u.answered acc r i code) else ∃ t, exec c s = .next t ∧ Touches W s t ∧ P t := by
  split
  case isTrue h => exact write_refused hc hp (hr h)
  case isFalse h => exact write_completes hc hp hW (hP h)

end

/-! ## Counting under a condition -/

section
variable (s : State) (b : Bool) (r : Reg) (i : Nat)

/-- A counter that counts where a condition holds. -/
theorem State.cond_bump_counted : Counted s (s.cond b (·.bump r i)) r i (b2n b) := by
  unfold Counted State.cond State.bump b2n
  cases b <;> simp

/-- It leaves every other register. -/
theorem State.cond_bump_reg {q : Reg} {j : Nat} (h : ¬ (r = q ∧ i = j)) :
    (s.cond b (·.bump r i)).reg q j = s.reg q j := by
  unfold State.cond State.bump
  cases b
  · rfl
  · exact (State.reg_setReg ..).trans (if_neg h)

theorem State.cond_bump_commits : (s.cond b (·.bump r i)).commits = s.commits := by
  cases b <;> rfl

theorem State.cond_bump_status : (s.cond b (·.bump r i)).status = s.status := by
  cases b <;> rfl

end

/-! ## GO -/

/-- The commit that GO forms of a group (R192, R196). -/
def State.groupCommit (s : State) (g : Nat) : Commit :=
  ⟨s.reg .iCMT_NEXT 0, some g, s.reg .CG_SURFACES g,
    (s.staged.filter (fun e => e.group == some g)).map (fun e => (e.surfs, e.key, e.value)), s.groupBuffers g, false⟩

/-- Whether GO counts in CMT_LATE of a surface (R197). -/
def State.groupLate (s : State) (g surf : Nat) : Bool :=
  bit (s.reg .CG_SURFACES g) surf && s.goLate surf (s.reg .CG_AT g)

/-- The group is PENDING with the next commit ID and its commit waits (R192, R195). -/
def State.groupPending (s : State) (g : Nat) : State :=
  ((s.newId.2.addCommit (s.groupCommit g)).setReg .CG_STATE g 2).setReg .CG_ID g (s.reg .iCMT_NEXT 0)

/-- The state after a GO that is accepted. -/
def State.groupGone (s : State) (g : Nat) : State :=
  ((s.groupPending g).cond (s.groupLate g 0) (·.bump .CMT_LATE 0)).cond (s.groupLate g 1) (·.bump .CMT_LATE 1)

theorem State.goGroup_eq (s : State) (g : Nat) :
    s.goGroup g = if s.groupClash g = true then none else some (s.groupGone g) := rfl

section
variable (s : State) (g : Nat)

theorem State.groupPending_commits : (s.groupPending g).commits = s.commits ++ [s.groupCommit g] := rfl

theorem State.groupGone_commits : (s.groupGone g).commits = s.commits ++ [s.groupCommit g] := by
  rw [State.groupGone, State.cond_bump_commits, State.cond_bump_commits, State.groupPending_commits]

theorem State.groupGone_status : (s.groupGone g).status = s.status := by
  rw [State.groupGone, State.cond_bump_status, State.cond_bump_status]
  rfl

/-- GO changes CMT_LATE, the counter of commit IDs, and of its own group the state and the ID. -/
theorem State.groupPending_reg {q : Reg} {j : Nat} (hstate : ¬ (Reg.CG_STATE = q ∧ g = j))
    (hid : ¬ (Reg.CG_ID = q ∧ g = j)) (hnext : q ≠ .iCMT_NEXT) : (s.groupPending g).reg q j = s.reg q j := by
  unfold State.groupPending
  rw [State.reg_setReg, if_neg hid, State.reg_setReg, if_neg hstate]
  exact State.setReg_reg_of_ne _ _ _ _ hnext.symm

theorem State.groupGone_reg {q : Reg} (j : Nat) (hlate : q ≠ .CMT_LATE) :
    (s.groupGone g).reg q j = (s.groupPending g).reg q j := by
  unfold State.groupGone
  rw [State.cond_bump_reg _ _ _ _ (fun h => hlate h.1.symm), State.cond_bump_reg _ _ _ _ (fun h => hlate h.1.symm)]

theorem State.groupGone_state : (s.groupGone g).reg .CG_STATE g = 2 := by
  have hwidth : 2 % 2 ^ Reg.CG_STATE.width = 2 := by decide
  rw [State.groupGone_reg _ _ _ (by decide), State.groupPending, State.setReg_reg_of_ne _ _ _ _ (by decide),
    State.setReg_reg_self, hwidth]

theorem State.groupGone_id : (s.groupGone g).reg .CG_ID g = s.reg .iCMT_NEXT 0 := by
  rw [State.groupGone_reg _ _ _ (by decide), State.groupPending, State.setReg_reg_self]
  exact s.reg_mod .iCMT_NEXT 0

theorem State.groupGone_next : (s.groupGone g).Holds .iCMT_NEXT 0
    (if s.reg .iCMT_NEXT 0 = 0xFFFFFFFF then 1 else s.reg .iCMT_NEXT 0 + 1) := by
  rw [State.Holds, State.groupGone_reg _ _ _ (by decide), State.groupPending,
    State.setReg_reg_of_ne _ _ _ _ (by decide), State.setReg_reg_of_ne _ _ _ _ (by decide)]
  exact State.setReg_reg_self ..

theorem State.groupGone_late (surf : Nat) (hsurf : surf < 2) :
    Counted s (s.groupGone g) .CMT_LATE surf (b2n (s.groupLate g surf)) := by
  have hpending : ∀ j, (s.groupPending g).reg .CMT_LATE j = s.reg .CMT_LATE j := fun j =>
    s.groupPending_reg g (by simp) (by simp) (by decide)
  unfold Counted
  rw [← hpending]
  obtain rfl | rfl : surf = 0 ∨ surf = 1 := by omega
  · rw [State.groupGone, State.cond_bump_reg _ _ _ _ (by simp)]
    exact State.cond_bump_counted ..
  · have hother : ((s.groupPending g).cond (s.groupLate g 0) (·.bump .CMT_LATE 0)).reg .CMT_LATE 1 =
        (s.groupPending g).reg .CMT_LATE 1 := State.cond_bump_reg _ _ _ _ (by simp)
    rw [← hother]
    exact State.cond_bump_counted ..

theorem State.groupGone_onlyAt : OnlyAt s (s.groupGone g) [.CG_STATE, .CG_ID] g := by
  intro q hq j hj
  rw [State.groupGone_reg _ _ _ (ne_of_mem_of_not_mem hq (by decide))]
  exact s.groupPending_reg g (fun h => hj h.2) (fun h => hj h.2) (ne_of_mem_of_not_mem hq (by decide))

end

/-! ## The commands on a commit group -/

/-- CG_CTRL_OPEN (R195). -/
theorem cgCtrlOpen_completes (acc : Accessor) (g : Fin 16) (s : State) (hp : s.Passes acc .CG_CTRL g.val 1) :
    if s.reg .CG_STATE g.val ≠ 0 then
      exec (.cgCtrlOpen acc g) s = .next (s.answered acc .CG_CTRL g.val Code.cmtGroupState)
    else
      ∃ t, exec (.cgCtrlOpen acc g) s = .next t ∧ Touches Changes.cgCtrlOpen s t ∧
        t.status = 0 ∧ t.reg .CG_STATE g.val = 1 ∧ t.Holds .CG_OWNER g.val (ownerOf acc) ∧
        OnlyAt s t [.CG_STATE, .CG_OWNER] g.val := by
  have hwidth : 1 % 2 ^ Reg.CG_STATE.width = 1 := by decide
  have hstatus : OnlyAt s (s.setStatus 0) [.CG_STATE, .CG_OWNER] g.val := .refl _ _ _
  refine write_completes_unless rfl hp (execCgCtrlOpen_touches (by decide) (.refl _ s)) (fun h => if_neg h)
    (fun h => ?_)
  rw [if_pos (by exact Decidable.not_not.1 h)]
  refine ⟨by simp, by simp [State.bump, hwidth], by simp [State.bump, State.Holds], ?_⟩
  refine OnlyAt.noteAccess ?_ (by decide) (by decide) _ _
  exact (((hstatus.setReg _ _).setReg _ _).setReg _ _).touches
    (State.bump_touches List.mem_cons_self (.refl [.reg .iCG_NEXT] _)) (by decide) (by decide)

/-- CG_CTRL_GO (R195, R196). -/
theorem cgCtrlGo_completes (acc : Accessor) (g : Fin 16) (s : State) (hp : s.Passes acc .CG_CTRL g.val 2) :
    let k := g.val
    if s.mayDrive acc k = false then
      exec (.cgCtrlGo acc g) s = .next (s.answered acc .CG_CTRL k Code.cmtGroupState)
    else if s.groupClash k = true then
      exec (.cgCtrlGo acc g) s = .next (s.answered acc .CG_CTRL k Code.cmtConflict)
    else
      ∃ t, exec (.cgCtrlGo acc g) s = .next t ∧ Touches Changes.cgCtrlGo s t ∧
        t.status = 0 ∧ t.reg .CG_STATE k = 2 ∧ t.reg .CG_ID k = s.reg .iCMT_NEXT 0 ∧
        t.Holds .iCMT_NEXT 0 (if s.reg .iCMT_NEXT 0 = 0xFFFFFFFF then 1 else s.reg .iCMT_NEXT 0 + 1) ∧
        t.commits = s.commits ++ [s.groupCommit k] ∧
        (∀ surf, surf < 2 → Counted s t .CMT_LATE surf (b2n (s.groupLate k surf))) ∧
        OnlyAt s t [.CG_STATE, .CG_ID] k := by
  intro k
  split
  case isTrue h => exact write_refused rfl hp (if_neg (Bool.eq_false_iff.1 h))
  case isFalse h =>
    have hdrive : (s.setStatus 0).mayDrive acc k = true := Bool.not_eq_false _ ▸ h
    refine write_completes_unless rfl hp (execCgCtrlGo_touches (by decide) (.refl _ s)) (fun hclash => ?_)
      (fun hclash => ?_)
    · rw [if_pos hdrive, State.goGroup_eq, if_pos (by exact hclash)]
    · rw [if_pos hdrive, State.goGroup_eq, if_neg (by exact hclash)]
      dsimp only
      simp only [State.Holds, Counted, State.noteAccess_status, State.noteAccess_commits, State.noteAccess_reg, ne_eq,
        reduceCtorEq, not_false_eq_true]
      exact ⟨State.groupGone_status _ k, State.groupGone_state _ k, State.groupGone_id _ k,
        State.groupGone_next _ k, State.groupGone_commits _ k, State.groupGone_late (s.setStatus 0) k,
        OnlyAt.noteAccess (s := s) (State.groupGone_onlyAt (s.setStatus 0) k) (by decide) (by decide) _ _⟩

/-! ## ABORT and the parameters of a group -/

/-- CG_CTRL_ABORT (R195). -/
theorem cgCtrlAbort_completes (acc : Accessor) (g : Fin 16) (s : State) (hp : s.Passes acc .CG_CTRL g.val 3) :
    if s.mayDrive acc g.val = false then
      exec (.cgCtrlAbort acc g) s = .next (s.answered acc .CG_CTRL g.val Code.cmtGroupState)
    else
      ∃ t, exec (.cgCtrlAbort acc g) s = .next t ∧ Touches Changes.cgCtrlAbort s t ∧
        t.status = 0 ∧ t.reg .CG_STATE g.val = 0 ∧ t.reg .CG_OWNER g.val = 0xFFFF ∧
        t.staged = s.staged.filter (fun e => !(e.group == some g.val)) ∧
        OnlyAt s t [.CG_STATE, .CG_OWNER] g.val := by
  have howner : 0xFFFF % 2 ^ Reg.CG_OWNER.width = 0xFFFF := by decide
  have hdropped : OnlyAt s { s.setStatus 0 with
      staged := s.staged.filter (fun e => !(e.group == some g.val)) } [.CG_STATE, .CG_OWNER] g.val := .refl _ _ _
  refine write_completes_unless rfl hp (execCgCtrlAbort_touches (by decide) (.refl _ s))
    (fun h => if_neg (Bool.eq_false_iff.1 h)) (fun h => ?_)
  rw [if_pos (by exact Bool.not_eq_false _ ▸ h)]
  exact ⟨by simp [State.idleGroup], by simp [State.idleGroup], by simp [State.idleGroup, howner],
    by simp [State.idleGroup], ((hdropped.setReg _ _).setReg _ _).noteAccess (by decide) (by decide) _ _⟩

theorem groupReg_injective : Function.Injective groupReg := by
  intro p q
  cases p <;> cases q <;> decide

/-- The group parameters are not what a PCIe function keeps of an access. -/
theorem groupReg_ne (p : GroupParam) : groupReg p ≠ .iACC_STATUS ∧ groupReg p ≠ .iACC_ID := by
  cases p <;> decide

/-- CG_PARAM_WRITE (R195, R196). -/
theorem cgParamWrite_completes (acc : Accessor) (g : Fin 16) (p : GroupParam) (v : Nat) (s : State)
    (hp : s.Passes acc (groupReg p) g.val v) :
    let k := g.val
    if (s.reg .CG_STATE k = 0 ∨ (s.reg .CG_STATE k = 1 ∧ s.ownsGroup acc k = true)) ∧
         ¬ (p = .surfaces ∧ s.staged.any (fun e => e.group == some k && e.surfs &&& v != e.surfs) = true) then
      ∃ t, exec (.cgParamWrite acc g p v) s = .next t ∧ Touches Changes.cgParamWrite s t ∧
        (t.status = 0 ∧ t.Holds (groupReg p) k v ∧ OnlyAt s t [groupReg p] k ∧
         ∀ q, q ≠ p → t.reg (groupReg q) k = s.reg (groupReg q) k)
    else exec (.cgParamWrite acc g p v) s = .next (s.answered acc (groupReg p) k Code.cmtGroupState) := by
  intro k
  split
  case isTrue h =>
    obtain ⟨hopen, hkeeps⟩ := h
    refine write_completes rfl hp (execCgParamWrite_touches (by decide) (.refl _ s)) ?_
    dsimp only
    rw [if_pos (by exact hopen), if_neg (by exact hkeeps)]
    obtain ⟨hstatus, hid⟩ := groupReg_ne p
    have hset : OnlyAt s (s.setStatus 0) [groupReg p] k := .refl _ _ _
    refine ⟨by simp, ?_, ?_, fun q hq => ?_⟩
    · rw [State.Holds, State.noteAccess_reg _ _ _ _ hstatus hid]
      exact State.setReg_reg_self ..
    · exact (hset.setReg _ _).noteAccess (by simp [hstatus.symm]) (by simp [hid.symm]) _ _
    · obtain ⟨hstatus, hid⟩ := groupReg_ne q
      rw [State.noteAccess_reg _ _ _ _ hstatus hid, State.setReg_reg_of_ne _ _ _ _ (groupReg_injective.ne hq.symm),
        State.setStatus_reg]
  case isFalse h =>
    refine write_refused rfl hp ?_
    dsimp only
    split
    case isTrue hopen =>
      split
      case isTrue => rfl
      case isFalse hkeeps => exact absurd ⟨hopen, hkeeps⟩ h
    case isFalse => rfl

/-- Settles O35: each command by its own lemma. -/
theorem commitGroups : Obligations.CommitGroups :=
  ⟨cgCtrlOpen_completes, cgCtrlGo_completes, cgCtrlAbort_completes, cgParamWrite_completes⟩

end Sys2Proof.Machine
end

section
/-! The cue store and cue playback (06_stream_ingest.md, R202 to R206): what loading, validating and parameterising
leave of a cue, and what arming and stopping leave of playback. -/
namespace Sys2Proof.Machine

/-! ## Loading -/

/-- A write of CUE_LOAD brings the cue to its state, or is refused while the cue is ARMED or PLAYING (R204). -/
theorem cueLoad_completes {c : Instr} {acc : Accessor} {n v st : Nat} {s : State}
    (hc : exec c s = .next (writeParam s acc .CUE_LOAD n v fun t =>
      if t.cueBusy n then t.refuse Code.cueBusy else t.setReg .CUE_STATE n st))
    (hp : s.Passes acc .CUE_LOAD n v) {W : List Part} (hW : OutTouches W s (exec c s))
    (hst : st % 2 ^ Reg.CUE_STATE.width = st) :
    if s.cueBusy n = true then exec c s = .next (s.answered acc .CUE_LOAD n Code.cueBusy)
    else ∃ t, exec c s = .next t ∧ Touches W s t ∧ t.status = 0 ∧ t.reg .CUE_STATE n = st ∧
      OnlyAt s t [.CUE_STATE] n := by
  have hstatus : OnlyAt s (s.setStatus 0) [.CUE_STATE] n := .refl _ _ _
  exact refusableWrite_completes (b := (State.cueBusy · n)) hc hp rfl hW
    ⟨by simp, by simp [hst], (hstatus.setReg _ _).noteAccess (by decide) (by decide) _ _⟩

/-! ## The end of a validation -/

/-- The read of a cue's region through the CUE port, with which its validation ends (R204). -/
def State.cueFetch (s : State) (seen : Seen) (k : Nat) : ReadAnswer × State :=
  (s.see seen).fetch s.pipMaster .cue (s.reg .CUE_BASE k) (s.reg .CUE_SIZE k)

/-- The checks of R204 on what was read of a cue's region; `s` is the state after the read. -/
def State.cueChecks (s : State) (k : Nat) (r : ReadAnswer) : Bool :=
  !r.frozen && r.poisoned.isEmpty && s.cueOk k r.data

theorem State.cueChecks_iff (s : State) (k : Nat) (r : ReadAnswer) :
    s.cueChecks k r = true ↔ r.frozen = false ∧ r.poisoned = [] ∧ s.cueOk k r.data = true := by
  simp only [State.cueChecks, Bool.and_eq_true, Bool.not_eq_true', List.isEmpty_iff, and_assoc]

/-- The cue is judged by its checks: VALID or INVALID (R204). -/
def State.cueJudged (s : State) (seen : Seen) (k : Nat) : State :=
  let r := s.cueFetch seen k
  (r.2.setReg .CUE_STATE k (if r.2.cueChecks k r.1 = true then 2 else 3)).see s.seen

theorem exec_cueValidationDone (n : Fin 1024) (seen : Seen) (s : State) :
    exec (.cueValidationDone n seen) s =
      if s.reg .CUE_STATE n.val ≠ 1 ∨ s.reg .iPHASE 0 ≠ 1 ∨ s.storeServes = false then .next s
      else .next (s.cueJudged seen n.val) := rfl

/-- The judgement of a cue leaves the other cues as they were. -/
theorem State.cueJudged_onlyAt (s : State) (seen : Seen) (k : Nat) :
    OnlyAt s (s.cueJudged seen k) [.CUE_STATE] k := by
  have hsee : OnlyAt s (s.see seen) [.CUE_STATE] k := .refl _ _ _
  have hfetch : OnlyAt s (s.cueFetch seen k).2 [.CUE_STATE] k :=
    hsee.touches (State.fetch_touches (fun _ h => h) (.refl State.fetch_foot _)) (by decide) (by decide)
  exact hfetch.setReg _ _

theorem State.cueJudged_of_checks {s : State} {seen : Seen} {k : Nat}
    (h : (s.cueFetch seen k).2.cueChecks k (s.cueFetch seen k).1 = true) :
    (s.cueJudged seen k).reg .CUE_STATE k = 2 := by
  have hwidth : 2 % 2 ^ Reg.CUE_STATE.width = 2 := by decide
  simp [State.cueJudged, h, hwidth]

theorem State.cueJudged_of_not_checks {s : State} {seen : Seen} {k : Nat}
    (h : ¬ (s.cueFetch seen k).2.cueChecks k (s.cueFetch seen k).1 = true) :
    (s.cueJudged seen k).reg .CUE_STATE k = 3 := by
  have hwidth : 3 % 2 ^ Reg.CUE_STATE.width = 3 := by decide
  simp [State.cueJudged, h, hwidth]

/-- CUE_VALIDATION_DONE (R204, R278). -/
theorem cueValidationDone_completes (n : Fin 1024) (seen : Seen) (s : State) :
    let k := n.val
    let q := s.cueFetch seen k
    if s.reg .CUE_STATE k ≠ 1 ∨ s.reg .iPHASE 0 ≠ 1 ∨ s.storeServes = false then
      exec (.cueValidationDone n seen) s = .next s
    else
      ∃ t, exec (.cueValidationDone n seen) s = .next t ∧ Touches Changes.cueValidationDone s t ∧
        OnlyAt s t [.CUE_STATE] k ∧
        if q.1.frozen = false ∧ q.1.poisoned = [] ∧ q.2.cueOk k q.1.data = true then t.reg .CUE_STATE k = 2
        else t.reg .CUE_STATE k = 3 := by
  intro k q
  refine completes_unless (exec_cueValidationDone n seen s)
    (execCueValidationDone_touches (by decide) (.refl _ s)) fun _ => ⟨s.cueJudged_onlyAt seen k, ?_⟩
  split
  case isTrue h => exact State.cueJudged_of_checks ((q.2.cueChecks_iff k q.1).2 h)
  case isFalse h => exact State.cueJudged_of_not_checks (mt (q.2.cueChecks_iff k q.1).1 h)

/-! ## The cue parameters -/

theorem cueReg_injective : Function.Injective cueReg := by
  intro p q
  cases p <;> cases q <;> decide

/-- The cue parameters are neither the state of the cue nor what a PCIe function keeps of an access. -/
theorem cueReg_ne (p : CueParam) : cueReg p ≠ .CUE_STATE ∧ cueReg p ≠ .iACC_STATUS ∧ cueReg p ≠ .iACC_ID := by
  cases p <;> decide

/-- The effect of an accepted CUE_PARAM_WRITE (R204). -/
def State.cueParamWritten (s : State) (p : CueParam) (n v : Nat) : State :=
  (s.setReg (cueReg p) n v).cond (s.reg .CUE_STATE n == 2) (fun u => u.setReg .CUE_STATE n 3)

section
variable (s : State) (p : CueParam) (n v : Nat)

theorem State.cueParamWritten_status : (s.cueParamWritten p n v).status = s.status := by
  unfold State.cueParamWritten State.cond
  split <;> simp only [State.setReg_status]

/-- A VALID cue whose parameter is written is INVALID. -/
theorem State.cueParamWritten_state :
    (s.cueParamWritten p n v).reg .CUE_STATE n = if s.reg .CUE_STATE n = 2 then 3 else s.reg .CUE_STATE n := by
  obtain ⟨hstate, -, -⟩ := cueReg_ne p
  have hwidth : 3 % 2 ^ Reg.CUE_STATE.width = 3 := by decide
  unfold State.cueParamWritten State.cond
  by_cases hvalid : s.reg .CUE_STATE n = 2
  · simp [hvalid, hwidth]
  · simp [hvalid, hstate]

/-- The parameters of the cue hold what they held, but for the one written. -/
theorem State.cueParamWritten_reg (q : CueParam) : (s.cueParamWritten p n v).reg (cueReg q) n =
    if q = p then v % 2 ^ (cueReg p).width else s.reg (cueReg q) n := by
  obtain ⟨hstate, -, -⟩ := cueReg_ne q
  have hcond : (s.cueParamWritten p n v).reg (cueReg q) n = (s.setReg (cueReg p) n v).reg (cueReg q) n := by
    unfold State.cueParamWritten State.cond
    split
    · exact State.setReg_reg_of_ne _ _ _ _ hstate.symm
    · rfl
  simp only [hcond, State.reg_setReg, cueReg_injective.eq_iff, and_true, eq_comm]

theorem State.cueParamWritten_onlyAt (l : List Reg) : OnlyAt s (s.cueParamWritten p n v) l n := by
  have hwrite : OnlyAt s (s.setReg (cueReg p) n v) l n := (OnlyAt.refl s l n).setReg _ _
  unfold State.cueParamWritten State.cond
  split
  · exact hwrite.setReg _ _
  · exact hwrite

end

/-- CUE_PARAM_WRITE (R204). -/
theorem cueParamWrite_completes (acc : Accessor) (n : Fin 1024) (p : CueParam) (v : Nat) (s : State)
    (hp : s.Passes acc (cueReg p) n.val v) :
    if s.cueBusy n.val = true then
      exec (.cueParamWrite acc n p v) s = .next (s.answered acc (cueReg p) n.val Code.cueBusy)
    else
      ∃ t, exec (.cueParamWrite acc n p v) s = .next t ∧ Touches Changes.cueParamWrite s t ∧
        (t.status = 0 ∧ t.Holds (cueReg p) n.val v ∧ OnlyAt s t [cueReg p, .CUE_STATE] n.val ∧
         t.reg .CUE_STATE n.val = (if s.reg .CUE_STATE n.val = 2 then 3 else s.reg .CUE_STATE n.val) ∧
         ∀ q, q ≠ p → t.reg (cueReg q) n.val = s.reg (cueReg q) n.val) := by
  obtain ⟨-, hstatus, hid⟩ := cueReg_ne p
  refine refusableWrite_completes (b := (State.cueBusy · n.val)) (eff := (State.cueParamWritten · p n.val v)) rfl
    hp rfl (execCueParamWrite_touches (by decide) (.refl _ s)) ⟨?_, ?_, ?_, ?_, fun q hq => ?_⟩
  · rw [State.noteAccess_status, State.cueParamWritten_status, State.setStatus_status]
  · rw [State.Holds, State.noteAccess_reg _ _ _ _ hstatus hid, State.cueParamWritten_reg, if_pos rfl]
  · have hwrite : OnlyAt s ((s.setStatus 0).cueParamWritten p n.val v) [cueReg p, .CUE_STATE] n.val :=
      (s.setStatus 0).cueParamWritten_onlyAt p n.val v _
    exact hwrite.noteAccess (by simp [hstatus.symm]) (by simp [hid.symm]) _ _
  · rw [State.noteAccess_reg _ _ _ _ (by decide) (by decide), State.cueParamWritten_state, State.setStatus_reg]
  · obtain ⟨-, hstatus, hid⟩ := cueReg_ne q
    rw [State.noteAccess_reg _ _ _ _ hstatus hid, State.cueParamWritten_reg, if_neg hq, State.setStatus_reg]

/-! ## Playback -/

/-- Playback is ARMED with the PB_* values (R206). -/
def State.playbackArmed (s : State) (k : Nat) : State :=
  (((((s.setReg .PB_STATE k 1).setReg .iPB_CUE k (s.reg .PB_CUE k)).setReg .iPB_FIRST k
    (s.reg .PB_FIRST k)).setReg .iPB_ENDMODE k (s.reg .PB_END k)).setReg .iPB_START k
    (s.reg .PB_START k)).setReg .PB_REFUSED k 0

/-- The registers that arming writes. -/
def playbackRegs : List Reg := [.PB_STATE, .iPB_CUE, .iPB_FIRST, .iPB_START, .iPB_ENDMODE, .PB_REFUSED]

section
variable (s : State) (k : Nat)

/-- Each PB_* value fits the register that holds it while the cue plays. -/
theorem State.playbackArmed_regs :
    (s.playbackArmed k).reg .PB_STATE k = 1 ∧ (s.playbackArmed k).reg .iPB_CUE k = s.reg .PB_CUE k ∧
    (s.playbackArmed k).reg .iPB_FIRST k = s.reg .PB_FIRST k ∧
    (s.playbackArmed k).reg .iPB_START k = s.reg .PB_START k ∧
    (s.playbackArmed k).reg .iPB_ENDMODE k = s.reg .PB_END k ∧ (s.playbackArmed k).reg .PB_REFUSED k = 0 := by
  have hstate : 1 % 2 ^ Reg.PB_STATE.width = 1 := by decide
  have hcue : s.reg .PB_CUE k % 2 ^ Reg.iPB_CUE.width = s.reg .PB_CUE k := s.reg_mod .PB_CUE k
  have hfirst : s.reg .PB_FIRST k % 2 ^ Reg.iPB_FIRST.width = s.reg .PB_FIRST k := s.reg_mod .PB_FIRST k
  have hstart : s.reg .PB_START k % 2 ^ Reg.iPB_START.width = s.reg .PB_START k := s.reg_mod .PB_START k
  have hend : s.reg .PB_END k % 2 ^ Reg.iPB_ENDMODE.width = s.reg .PB_END k := s.reg_mod .PB_END k
  simp [State.playbackArmed, hstate, hcue, hfirst, hstart, hend]

theorem State.playbackArmed_onlyAt (l : List Reg) : OnlyAt s (s.playbackArmed k) l k :=
  ((((((OnlyAt.refl s l k).setReg _ _).setReg _ _).setReg _ _).setReg _ _).setReg _ _).setReg _ _

end

/-- PB_CTRL_ARM (R206). -/
theorem pbCtrlArm_completes (acc : Accessor) (surf : Surface) (s : State) (hp : s.Passes acc .PB_CTRL surf.val 1) :
    let k := surf.val
    if (s.setStatus 0).cuePlayable k (s.reg .PB_CUE k) = false then
      exec (.pbCtrlArm acc surf) s = .next (s.answered acc .PB_CTRL k Code.cueInvalid)
    else
      ∃ t, exec (.pbCtrlArm acc surf) s = .next t ∧ Touches Changes.pbCtrlArm s t ∧
        t.status = 0 ∧ t.reg .PB_STATE k = 1 ∧ t.reg .iPB_CUE k = s.reg .PB_CUE k ∧
        t.reg .iPB_FIRST k = s.reg .PB_FIRST k ∧ t.reg .iPB_START k = s.reg .PB_START k ∧
        t.reg .iPB_ENDMODE k = s.reg .PB_END k ∧ t.reg .PB_REFUSED k = 0 ∧
        OnlyAt s t [.PB_STATE, .iPB_CUE, .iPB_FIRST, .iPB_START, .iPB_ENDMODE, .PB_REFUSED] k := by
  intro k
  refine write_completes_unless rfl hp (execPbCtrlArm_touches (by decide) (.refl _ s))
    (fun h => if_neg (Bool.eq_false_iff.1 h)) (fun h => ?_)
  rw [if_pos (by exact Bool.not_eq_false _ ▸ h)]
  obtain ⟨hstate, hcue, hfirst, hstart, hend, hrefused⟩ := (s.setStatus 0).playbackArmed_regs k
  have honly : OnlyAt s ((s.setStatus 0).playbackArmed k) playbackRegs k := (s.setStatus 0).playbackArmed_onlyAt k _
  simp only [State.noteAccess_status, State.noteAccess_reg, ne_eq, reduceCtorEq, not_false_eq_true]
  exact ⟨rfl, hstate, hcue, hfirst, hstart, hend, hrefused, honly.noteAccess (by decide) (by decide) _ _⟩

/-- PB_CTRL_STOP (R206). -/
theorem pbCtrlStop_completes (acc : Accessor) (surf : Surface) (s : State) (hp : s.Passes acc .PB_CTRL surf.val 2) :
    ∃ t, exec (.pbCtrlStop acc surf) s = .next t ∧
      Touches (regs [.iACC_STATUS, .iACC_ID, .PB_STATE] ++ flds [.status]) s t ∧
      t.status = 0 ∧ t.reg .PB_STATE surf.val = 0 ∧ OnlyAt s t [.PB_STATE] surf.val := by
  have hstatus : OnlyAt s (s.setStatus 0) [.PB_STATE] surf.val := .refl _ _ _
  exact write_completes rfl hp (execPbCtrlStop_touches (by decide) (.refl _ s))
    ⟨by simp [State.stopPlayback], by simp [State.stopPlayback],
      (hstatus.setReg _ _).noteAccess (by decide) (by decide) _ _⟩

/-- Settles O36: each command by its own lemma, CUE_LOAD_VALIDATE and CUE_LOAD_EMPTY by that of CUE_LOAD. -/
theorem cuesAndPlayback : Obligations.CuesAndPlayback :=
  ⟨fun _ _ s hp => cueLoad_completes rfl hp (execCueLoadValidate_touches (by decide) (.refl _ s)) (by decide),
    fun _ _ s hp => cueLoad_completes rfl hp (execCueLoadEmpty_touches (by decide) (.refl _ s)) (by decide),
    cueValidationDone_completes, cueParamWrite_completes, pbCtrlArm_completes, pbCtrlStop_completes⟩

end Sys2Proof.Machine
end

section
/-! The spare map of a Welt link and its lanes (08_welt_link.md, R229, R246, R252 to R254): bytes of the map, and what
the operations on lanes leave of the map, of the other lanes and of the retraining that waits. -/
namespace Sys2Proof.Machine

/-! ## Bytes of a BLOB -/

/-- A BLOB with one byte replaced, as what stands above the byte, the byte, and what stands below it. -/
theorem blobSet_byte_eq (v k x : Nat) :
    blobSet v k 1 x = 2 ^ (8 * k) * (2 ^ 8 * (v / 2 ^ (8 * k) / 2 ^ 8) + x % 2 ^ 8) + v % 2 ^ (8 * k) := by
  have hwidth : 8 * (k + 1) - 1 + 1 - 8 * k = 8 := by omega
  have hv : 2 ^ (8 * k) * (v / 2 ^ (8 * k)) + v % 2 ^ (8 * k) = v := Nat.div_add_mod ..
  have hq : 2 ^ 8 * (v / 2 ^ (8 * k) / 2 ^ 8) + v / 2 ^ (8 * k) % 2 ^ 8 = v / 2 ^ (8 * k) := Nat.div_add_mod ..
  have hparts : 2 ^ (8 * k) * (2 ^ 8 * (v / 2 ^ (8 * k) / 2 ^ 8)) + 2 ^ (8 * k) * (v / 2 ^ (8 * k) % 2 ^ 8) +
      v % 2 ^ (8 * k) = v := by rw [← Nat.mul_add, hq, hv]
  simp only [blobSet, withBits, bits, hwidth, Nat.shiftRight_eq_div_pow]
  rw [Nat.mul_add, Nat.mul_comm (_ % 2 ^ 8), Nat.mul_comm (x % 2 ^ 8)]
  omega

/-- Replacing a byte replaces its 8 bits. -/
theorem testBit_blobSet_byte (v k x i : Nat) : (blobSet v k 1 x).testBit i =
    if i < 8 * k then v.testBit i else if i < 8 * k + 8 then x.testBit (i - 8 * k) else v.testBit i := by
  rw [blobSet_byte_eq, Nat.testBit_two_pow_mul_add _ (Nat.mod_lt _ (Nat.two_pow_pos _))]
  split
  case isTrue h => simp [Nat.testBit_mod_two_pow, h]
  case isFalse h =>
    rw [Nat.testBit_two_pow_mul_add _ (Nat.mod_lt _ (Nat.two_pow_pos _))]
    split
    case isTrue hlow =>
      rw [if_pos (by omega), Nat.testBit_mod_two_pow, decide_eq_true hlow, Bool.true_and]
    case isFalse hlow =>
      rw [if_neg (by omega), Nat.testBit_div_two_pow, Nat.testBit_div_two_pow]
      congr 1
      omega

theorem testBit_blobGet_byte (v k i : Nat) :
    (blobGet v k 1).testBit i = (decide (i < 8) && v.testBit (8 * k + i)) := by
  rw [blobGet, Nat.testBit_mod_two_pow, Nat.testBit_shiftRight]

/-- A byte that is replaced reads as its new value. -/
theorem blobGet_blobSet_self (v k x : Nat) : blobGet (blobSet v k 1 x) k 1 = x % 256 := by
  refine Nat.eq_of_testBit_eq fun i => ?_
  rw [testBit_blobGet_byte, testBit_blobSet_byte, show 256 = 2 ^ 8 from rfl, Nat.testBit_mod_two_pow,
    if_neg (by omega)]
  by_cases h : i < 8
  · rw [if_pos (by omega), Nat.add_sub_cancel_left]
  · simp [h]

/-- Every other byte stays. -/
theorem blobGet_blobSet_of_ne {k j : Nat} (h : k ≠ j) (v x : Nat) :
    blobGet (blobSet v k 1 x) j 1 = blobGet v j 1 := by
  refine Nat.eq_of_testBit_eq fun i => ?_
  rw [testBit_blobGet_byte, testBit_blobGet_byte, testBit_blobSet_byte]
  by_cases hi : i < 8
  · split
    · rfl
    · rw [if_neg (by omega)]
  · simp [hi]

/-- A BLOB cut to `n` bytes keeps those bytes. -/
theorem blobGet_mod {n j : Nat} (h : j < n) (v : Nat) : blobGet (v % 2 ^ (8 * n)) j 1 = blobGet v j 1 := by
  refine Nat.eq_of_testBit_eq fun i => ?_
  rw [testBit_blobGet_byte, testBit_blobGet_byte, Nat.testBit_mod_two_pow]
  by_cases hi : i < 8
  · rw [decide_eq_true (show 8 * j + i < 8 * n by omega), Bool.true_and]
  · simp [hi]

/-! ## Bytes of the spare map (R229) -/

/-- The byte that the spare map of a surface holds for a logical lane. -/
def State.mapByte (s : State) (surf l : Nat) : Nat := blobGet (s.reg .WL_SPARE_MAP surf) l 1

section
variable (s : State) (surf : Nat) {l : Nat}

/-- The map after one of its bytes is put, as far as a byte of it shows it. -/
theorem State.putMap_mapByte (hl : l < 96) (k p : Nat) :
    (s.putMap surf k p).mapByte surf l = blobGet (blobSet (s.reg .WL_SPARE_MAP surf) k 1 p) l 1 := by
  have hwidth : Reg.WL_SPARE_MAP.width = 8 * 96 := rfl
  rw [State.mapByte, State.putMap, State.noteKeep_reg, State.setReg_reg_self, hwidth, blobGet_mod hl]

theorem State.putMap_mapByte_self (hl : l < 96) (p : Nat) : (s.putMap surf l p).mapByte surf l = p % 256 :=
  (s.putMap_mapByte surf hl l p).trans (blobGet_blobSet_self ..)

theorem State.putMap_mapByte_of_ne (hl : l < 96) {k : Nat} (h : k ≠ l) (p : Nat) :
    (s.putMap surf k p).mapByte surf l = s.mapByte surf l :=
  (s.putMap_mapByte surf hl k p).trans (blobGet_blobSet_of_ne h ..)

/-- The designated spares stand behind the 80 logical lanes. -/
theorem State.setDesignated_mapByte (hl : l < 80) (ps : List Nat) :
    (s.setDesignated surf ps).mapByte surf l = s.mapByte surf l :=
  forN_inv (P := fun t : State => t.mapByte surf l = s.mapByte surf l) rfl fun t _ ht =>
    (t.putMap_mapByte_of_ne surf (by omega) (by omega) _).trans ht

theorem State.undesignate_mapByte (hl : l < 80) (p : Nat) :
    (s.undesignate surf p).mapByte surf l = s.mapByte surf l := by
  unfold State.undesignate
  split
  · exact s.setDesignated_mapByte surf hl _
  · rfl

/-- A map whose register stays keeps its bytes. -/
theorem State.mapByte_of_touches {t : State} {V : List Part} (h : Touches V s t)
    (hV : Part.reg .WL_SPARE_MAP ∉ V) (hany : Part.anyReg ∉ V) (l : Nat) : t.mapByte surf l = s.mapByte surf l :=
  congrArg (blobGet · l 1) (h.reg .WL_SPARE_MAP surf hV hany)

/-- The logical lane of a physical lane is one to which the map gives it. -/
theorem State.mapByte_of_laneLogical {p : Nat} (h : s.laneLogical surf p = some l) : s.mapByte surf l = p := by
  have hmap : s.mapLane surf l = some p := by simpa using List.find?_some h
  unfold State.mapLane at hmap
  dsimp only at hmap
  split at hmap
  · exact Option.some.inj hmap
  · cases hmap

end

/-! ## A lane that halts, and one that is SPARED -/

section
variable (s : State) (surf p : Nat)

theorem State.haltLane_frame : Touches State.haltLane_foot s (s.haltLane surf p) :=
  State.haltLane_touches (fun _ h => h) (.refl _ s)

/-- A lane that halts is no longer the busy one (R248). -/
theorem State.haltLane_busy (hp : p < 84) : (s.haltLane surf p).reg .iWL_BUSY surf ≠ p := by
  have hnone : 0xFF % 2 ^ Reg.iWL_BUSY.width = 0xFF := by decide
  unfold State.haltLane
  dsimp only
  split
  case isTrue => rw [State.setReg_reg_self, hnone]; omega
  case isFalse h => exact h

/-- The map gives a lane that becomes SPARED no logical lane, and keeps the lanes of the others (R254). -/
theorem State.laneToSpared_mapByte {l : Nat} (hl : l < 80) (h : s.mapByte surf l ≠ p) :
    (s.laneToSpared surf p).mapByte surf l = s.mapByte surf l := by
  have hhalt := State.mapByte_of_touches s surf (s.haltLane_frame surf p) (by decide) (by decide) l
  have hlane : ∀ t : State, (((t.undesignate surf p).setLane surf p laneSpared).setReg .iWL_FAILS
      (laneIx surf p) 0).mapByte surf l = t.mapByte surf l := fun t =>
    (State.mapByte_of_touches _ surf (State.setReg_touches (W := .reg .iWL_FAILS :: State.setLane_foot) (by decide)
      (State.setLane_touches (by decide) (.refl _ _))) (by decide) (by decide) l).trans
      (t.undesignate_mapByte surf hl p)
  unfold State.laneToSpared
  dsimp only
  rw [hlane, ← hhalt]
  split
  case h_1 l' hl' =>
    have hne : l' ≠ l := by
      rintro rfl
      exact h (hhalt ▸ State.mapByte_of_laneLogical _ surf hl')
    exact (State.mapByte_of_touches _ surf (State.setReg_touches (W := [.reg .iWL_FORMER]) (by decide)
      (.refl _ _)) (by decide) (by decide) l).trans (State.putMap_mapByte_of_ne _ surf (by omega) hne _)
  case h_2 => rfl

theorem State.laneToSpared_lane : (s.laneToSpared surf p).lane surf p = laneSpared := by
  have hwidth : laneSpared % 2 ^ Reg.WL_LANE_STATE.width = laneSpared := by decide
  simp [State.laneToSpared, State.lane, State.setLane, hwidth]

theorem State.laneToSpared_busy (hp : p < 84) : (s.laneToSpared surf p).reg .iWL_BUSY surf ≠ p := by
  have hlane : ∀ t : State, (((t.undesignate surf p).setLane surf p laneSpared).setReg .iWL_FAILS
      (laneIx surf p) 0).reg .iWL_BUSY surf = t.reg .iWL_BUSY surf := fun t =>
    (State.setReg_touches (W := .reg .iWL_FAILS :: State.setLane_foot ++ State.undesignate_foot) (by decide)
      (State.setLane_touches (by decide) (State.undesignate_touches (by decide) (.refl _ t)))).reg .iWL_BUSY surf
      (by decide) (by decide)
  unfold State.laneToSpared
  dsimp only
  rw [hlane]
  split
  case h_1 =>
    rw [State.setReg_reg_of_ne _ _ _ _ (by decide), State.putMap, State.noteKeep_reg,
      State.setReg_reg_of_ne _ _ _ _ (by decide)]
    exact s.haltLane_busy surf p hp
  case h_2 => exact s.haltLane_busy surf p hp

end

/-! ## The other lanes -/

theorem OnlyAt.dropMsgs {s t : State} {l : List Reg} {k : Nat} (h : OnlyAt s t l k) (surf p : Nat) :
    OnlyAt s (t.dropMsgs surf p) l k := h

section
variable {s t : State} {surf p : Nat} (h : OnlyAt s t [.WL_LANE_STATE] (laneIx surf p))
include h

theorem OnlyAt.setLane (st : Nat) : OnlyAt s (t.setLane surf p st) [.WL_LANE_STATE] (laneIx surf p) :=
  ((h.dropMsgs surf p).setReg _ _).setReg _ _

theorem OnlyAt.toRetrain : OnlyAt s (t.toRetrain surf p) [.WL_LANE_STATE] (laneIx surf p) :=
  (((((h.setLane laneRetrain).setReg _ _).setReg _ _).setReg _ _).setReg _ _).setReg _ _

theorem OnlyAt.setPhase (ph : Nat) : OnlyAt s (t.setPhase surf p ph) [.WL_LANE_STATE] (laneIx surf p) := by
  unfold State.setPhase
  split
  · exact (h.setReg _ _).setReg _ _
  · exact h.setLane ph

theorem OnlyAt.toTrain : OnlyAt s (t.toTrain surf p) [.WL_LANE_STATE] (laneIx surf p) :=
  (((((h.setPhase 1).setReg _ _).setReg _ _).setReg _ _).setReg _ _).setReg _ _

theorem OnlyAt.startMove (l a z kind : Nat) :
    OnlyAt s (t.startMove surf l a z kind) [.WL_LANE_STATE] (laneIx surf p) :=
  h.touches (State.startMove_touches (fun _ hp => hp) (.refl _ t)) (by decide) (by decide)

theorem OnlyAt.goBusy : OnlyAt s (t.goBusy surf p) [.WL_LANE_STATE] (laneIx surf p) := by
  unfold State.goBusy
  split
  · exact (h.setReg _ _).toTrain
  · split
    · split
      · exact h.toRetrain
      · exact (h.setReg _ _).startMove _ _ _ _
    · exact h.toRetrain

end

/-- Lanes of one surface have places of their own. -/
theorem laneIx_ne {surf p q : Nat} (h : p ≠ q) : laneIx surf p ≠ laneIx surf q := by
  unfold laneIx
  omega

/-! ## The next waiting lane (R248) -/

/-- The waiting order `r` becomes the busy lane and asks for its grant. -/
def State.orderTaken (s : State) (surf : Nat) (r : Nat × Nat × Bool) : State :=
  (({ s with retrains := s.retrains.filter (fun x => x != r) } : State).setReg .iWL_BUSY surf r.2.1).request
    (.laneAttempt surf r.2.1)

section
variable (s : State) (surf : Nat)

/-- What the look at the next waiting lane can do: nothing, start the attempt of the busy lane, or make an order that
waits the busy lane. -/
theorem State.kick_cases : s.kick surf = s ∨
    (s.reg .iWL_CTX (laneIx surf (s.reg .iWL_BUSY surf)) = 0 ∧ s.kick surf = s.goBusy surf (s.reg .iWL_BUSY surf) ∧
      s.reg .iWL_BUSY surf < 84) ∨
    ∃ r, r.1 = surf ∧ s.kick surf = s.orderTaken surf r := by
  unfold State.kick
  dsimp only
  split
  case isTrue => exact .inl rfl
  case isFalse =>
    split
    case isTrue hbusy =>
      split
      case isTrue hgo =>
        simp only [Bool.and_eq_true, beq_iff_eq] at hgo
        exact .inr (.inl ⟨hgo.1.2, rfl, hbusy⟩)
      case isFalse => exact .inl rfl
    case isFalse =>
      split
      case h_1 => exact .inl rfl
      case h_2 r hr =>
        have hsurf := List.find?_some hr
        simp only [Bool.and_eq_true, beq_iff_eq] at hsurf
        exact .inr (.inr ⟨r, hsurf.1, rfl⟩)

theorem State.kick_of_not_locked (h : s.returnLocked surf = false) : s.kick surf = s := by
  simp [State.kick, h]

theorem State.kick_frame : Touches State.kick_foot s (s.kick surf) := State.kick_touches (fun _ h => h) (.refl _ s)

theorem State.orderTaken_lane (r : Nat × Nat × Bool) (p : Nat) : (s.orderTaken surf r).lane surf p = s.lane surf p :=
  (State.request_touches (W := [.fld .highReqs, .fld .normalReqs]) (by decide) (by decide) (.refl _ _)).reg
    .WL_LANE_STATE _ (by decide) (by decide) |>.trans (State.setReg_reg_of_ne _ _ _ _ (by decide))

/-- A lane keeps its state unless it is the busy one and trains for nothing. -/
theorem State.kick_lane {p : Nat} (h : p < 84 → s.reg .iWL_BUSY surf = p → s.reg .iWL_CTX (laneIx surf p) ≠ 0) :
    (s.kick surf).lane surf p = s.lane surf p := by
  obtain hsame | ⟨hctx, hgo, hbusy⟩ | ⟨r, -, htaken⟩ := s.kick_cases surf
  · rw [hsame]
  · have hne : s.reg .iWL_BUSY surf ≠ p := by
      rintro rfl
      exact h hbusy rfl hctx
    rw [hgo]
    exact (OnlyAt.refl s _ _).goBusy .WL_LANE_STATE (by simp) _ (laneIx_ne hne)
  · rw [htaken, State.orderTaken_lane]

/-- An order that waits still waits, or its lane is the busy one. -/
theorem State.kick_order {p : Nat} {attempt : Bool} (hp : p < 84) (h : (surf, p, attempt) ∈ s.retrains) :
    (surf, p, attempt) ∈ (s.kick surf).retrains ∨ (s.kick surf).reg .iWL_BUSY surf = p := by
  obtain hsame | ⟨-, hgo, -⟩ | ⟨r, -, htaken⟩ := s.kick_cases surf
  · rw [hsame]
    exact .inl h
  · have hkeeps : (s.goBusy surf (s.reg .iWL_BUSY surf)).retrains = s.retrains :=
      (State.goBusy_touches (fun _ hq => hq) (.refl State.goBusy_foot s)).fld .retrains (by decide) (by decide)
    rw [hgo, hkeeps]
    exact .inl h
  · have hrequest := fun t : State => State.request_touches (W := [.fld .highReqs, .fld .normalReqs])
      (op := .laneAttempt surf r.2.1) (by decide) (by decide) (.refl _ t)
    have hretrains : (s.orderTaken surf r).retrains = s.retrains.filter (fun x => x != r) :=
      (hrequest _).fld .retrains (by decide) (by decide)
    have hbusy : (s.orderTaken surf r).reg .iWL_BUSY surf = r.2.1 % 2 ^ Reg.iWL_BUSY.width :=
      ((hrequest _).reg .iWL_BUSY surf (by decide) (by decide)).trans (State.setReg_reg_self ..)
    rw [htaken, hretrains, hbusy]
    by_cases hr : (surf, p, attempt) = r
    · subst hr
      exact .inr (Nat.mod_eq_of_lt (Nat.lt_trans hp (by decide)))
    · exact .inl (List.mem_filter.2 ⟨h, by simpa using hr⟩)

/-- A lane that is ordered to retrain waits, or is the busy one (R251). -/
theorem State.trigger_order {p : Nat} (hp : p < 84) (attempt : Bool) :
    (s.trigger surf p attempt).retrains.contains (surf, p, attempt) = true ∨
      (s.trigger surf p attempt).reg .iWL_BUSY surf = p := by
  rw [List.contains_iff_mem]
  unfold State.trigger
  split
  case isTrue h =>
    simpa only [Bool.or_eq_true, List.contains_iff_mem, beq_iff_eq] using h
  case isFalse => exact State.kick_order _ surf hp (List.mem_append_right _ (List.mem_singleton.2 rfl))

end

end Sys2Proof.Machine
end

section
/-! Sparing and the lane control (08_welt_link.md, R229, R246, R251 to R254): the effect line of a move, its
acknowledgement, the messages of the panel that order and acknowledge moves, and the writes of WL_CTRL and
WL_MAP_RESET. -/
namespace Sys2Proof.Machine

/-! ## Facts that a frame carries -/

/-- The newest entry of the event log is the same where the log is. -/
theorem State.lastEvent_of_evLog {s t : State} (h : t.evLog = s.evLog) : t.lastEvent = s.lastEvent := by
  unfold State.lastEvent
  rw [h]

section
variable {s t : State} {V : List Part} (h : Touches V s t)
include h

theorem State.lane_of_touches (hV : Part.reg .WL_LANE_STATE ∉ V) (hany : Part.anyReg ∉ V) (surf p : Nat) :
    t.lane surf p = s.lane surf p := h.reg .WL_LANE_STATE _ hV hany

theorem State.returnLocked_of_touches (hV : Part.reg .WR_STATE ∉ V) (hany : Part.anyReg ∉ V) (surf : Nat) :
    t.returnLocked surf = s.returnLocked surf := by
  unfold State.returnLocked
  rw [h.reg _ _ hV hany, h.reg _ _ hV hany]

theorem State.lastEvent_of_touches (hV : Part.fld .evLog ∉ V) (hany : Part.anyFld ∉ V) :
    t.lastEvent = s.lastEvent :=
  State.lastEvent_of_evLog (h.fld .evLog hV hany)

end

/-! ## The effect line of a move (R252 to R254) -/

/-- The logical lane moves to a lane that is ACTIVE, and WELT_SPARED is raised; a lane that is not takes nothing, and
the move is forgotten (R253). -/
def State.moveMade (s : State) (k l : Nat) (m : Move) (ok : Bool) : State :=
  let s0 := s.send []
  if ok then
    let s1 : State := { s0 with moves := s0.moves.map (fun x => if x = m then { x with done := true } else x) }
    (((s1.putMap k l m.toLane).setReg .WL_CAUSE (laneIx k m.toLane) Code.weltSpared).cond (decide (m.fromLane < 84))
      (fun t => t.setReg .WL_CAUSE (laneIx k m.fromLane) Code.weltSpared)).raise Code.weltSpared
      (some (s1.reg .WL_QUEUE k)) [(8, k), (8, l), (8, m.fromLane), (8, m.toLane), (64, m.frame)]
  else { s0 with moves := s0.moves.erase m }

/-- The state after the effect line of a move: the lane that it leaves enters its next state, and the next waiting lane
is looked at. -/
def State.moveEffected (s : State) (k l : Nat) (m : Move) (ok : Bool) : State :=
  ((s.moveMade k l m ok).moveTaken k m ok).kick k

/-- What a move that is made may change before the lane that it leaves enters its next state. -/
def State.moveMade_foot : List Part :=
  [.reg .WL_CAUSE, .reg .WL_SPARE_MAP, .fld .keepPending, .fld .moves, .fld .sent] ++ State.raise_foot

section
variable (s : State) (k l : Nat) (m : Move)

/-- An update of the moves alone. -/
theorem State.moves_touches (ms : List Move) : Touches [.fld .moves] s { s with moves := ms } :=
  (Touches.refl _ s).one (f := .moves) (by decide) (fun g hg => by cases g <;> first | rfl | exact absurd rfl hg)
    rfl rfl rfl rfl rfl rfl rfl

theorem State.moveMade_frame (ok : Bool) : Touches State.moveMade_foot s (s.moveMade k l m ok) := by
  have hsend : Touches State.moveMade_foot s (s.send []) := State.send_touches (by decide) (.refl _ s)
  cases ok with
  | true =>
    have hmoves := hsend.after (by decide) ((s.send []).moves_touches
      ((s.send []).moves.map (fun x => if x = m then { x with done := true } else x)))
    exact State.raise_touches (by decide) (cond_touches (State.setReg_touches (by decide)
      (State.putMap_touches (by decide) hmoves)) fun x hx => State.setReg_touches (by decide) hx)
  | false => exact hsend.after (by decide) ((s.send []).moves_touches ((s.send []).moves.erase m))

theorem State.moveMade_lastEvent : (s.moveMade k l m true).lastEvent = some (Code.weltSpared, packBits
    [(8, k), (8, l), (8, m.fromLane), (8, m.toLane), (64, m.frame)]) := State.raise_lastEvent ..

theorem State.moveMade_mapByte (hl : l < 80) : (s.moveMade k l m true).mapByte k l = m.toLane % 256 := by
  have hcause : ∀ t : State, Touches (.reg .WL_CAUSE :: State.raise_foot) t
      (((t.setReg .WL_CAUSE (laneIx k m.toLane) Code.weltSpared).cond (decide (m.fromLane < 84))
        (fun t => t.setReg .WL_CAUSE (laneIx k m.fromLane) Code.weltSpared)).raise Code.weltSpared
        (some (s.reg .WL_QUEUE k)) [(8, k), (8, l), (8, m.fromLane), (8, m.toLane), (64, m.frame)]) := fun t =>
    State.raise_touches (by decide) (cond_touches (State.setReg_touches (by decide) (.refl _ t)) fun x hx =>
      State.setReg_touches (by decide) hx)
  exact (State.mapByte_of_touches _ k (hcause _) (by decide) (by decide) l).trans
    (State.putMap_mapByte_self _ k (by omega) _)

theorem State.moveMade_map (j : Nat) : (s.moveMade k l m false).reg .WL_SPARE_MAP j = s.reg .WL_SPARE_MAP j := rfl

/-- A move whose effect line has come takes effect, where the lane that it names is ACTIVE (R253). -/
theorem exec_spareEffect {surf : Surface} {l : Fin 80}
    (hm : s.moves.find? (fun m => m.surf == surf.val && m.logical == l.val && !m.done) = some m) :
    exec (.spareEffect surf l) s = if s.clock < m.effect then .next s
      else .next (s.moveEffected surf.val l.val m (s.lane surf.val m.toLane == laneActive)) := by
  show execSpareEffect surf l s = _
  unfold execSpareEffect
  dsimp only
  rw [hm]
  dsimp only
  cases s.lane surf.val m.toLane == laneActive
  · simp only [State.moveEffected, State.moveMade, Bool.false_eq_true, if_false]
  · simp only [State.moveEffected, State.moveMade, if_true]

end

/-! ## The lane that a move leaves -/

section
variable (s : State) (k : Nat) (m : Move) (ok : Bool)

theorem State.moveTaken_frame : Touches State.moveTaken_foot s (s.moveTaken k m ok) :=
  State.moveTaken_touches (fun _ h => h) (.refl _ s)

/-- The lane of a cover retrains while a return lane is LOCKED (R252). -/
theorem State.moveTaken_retrains (hkind : m.kind = 0) (hlocked : s.returnLocked k = true) :
    (s.moveTaken k m ok).lane k m.fromLane = laneRetrain ∧
      (s.moveTaken k m ok).reg .iWL_CTX (laneIx k m.fromLane) = 3 := by
  have hstate : laneRetrain % 2 ^ Reg.WL_LANE_STATE.width = laneRetrain := by decide
  have hctx : 3 % 2 ^ Reg.iWL_CTX.width = 3 := by decide
  have hstill : (if ok = true then s.setReg .iWL_COVER (laneIx k m.fromLane) m.toLane
      else s).returnLocked k = true := by
    split
    · simpa [State.returnLocked] using hlocked
    · exact hlocked
  unfold State.moveTaken
  rw [hkind]
  dsimp only
  rw [if_pos hstill]
  simp [State.toRetrain, State.setLane, State.lane, State.bump, hstate, hctx]

/-- It waits to retrain while none is (R252, R258). -/
theorem State.moveTaken_waits (hkind : m.kind = 0) (hlocked : s.returnLocked k = false) :
    (k, m.fromLane, s.lane k m.fromLane == laneSpared) ∈ (s.moveTaken k m ok).retrains := by
  have hheld : ∀ t : State, t.returnLocked k = false → (k, m.fromLane, t.lane k m.fromLane == laneSpared) ∈
      (if t.returnLocked k = true then t.toRetrain k m.fromLane else t.holdLane k m.fromLane).retrains := by
    intro t ht
    have hhalt := ({ t with retrains := (k, m.fromLane, t.lane k m.fromLane == laneSpared) :: t.retrains } :
      State).haltLane_frame k m.fromLane
    have hretrains : (t.holdLane k m.fromLane).retrains =
        (k, m.fromLane, t.lane k m.fromLane == laneSpared) :: t.retrains :=
      hhalt.fld .retrains (by decide) (by decide)
    rw [if_neg (by simp [ht]), hretrains]
    exact List.mem_cons_self
  unfold State.moveTaken
  rw [hkind]
  cases ok with
  | true =>
    have hlane : (s.setReg .iWL_COVER (laneIx k m.fromLane) m.toLane).lane k m.fromLane = s.lane k m.fromLane :=
      State.setReg_reg_of_ne _ _ _ _ (by decide)
    have hmember := hheld (s.setReg .iWL_COVER (laneIx k m.fromLane) m.toLane)
      (by simpa [State.returnLocked] using hlocked)
    rw [hlane] at hmember
    exact hmember
  | false => exact hheld s hlocked

/-- The lane of a permanent sparing is SPARED and halts (R254). -/
theorem State.sparedTo_lane (a z : Nat) : (s.sparedTo k a z).lane k a = laneSpared ∧
    (a < 84 → (s.sparedTo k a z).reg .iWL_BUSY k ≠ a) := by
  unfold State.sparedTo
  split
  · exact ⟨State.laneToSpared_lane _ k a, State.laneToSpared_busy _ k a⟩
  · exact ⟨State.laneToSpared_lane _ k a, State.laneToSpared_busy _ k a⟩

/-- A permanent sparing keeps the lanes of the logical lanes that the lane does not carry (R254). -/
theorem State.sparedTo_mapByte {a l : Nat} (hl : l < 80) (h : s.mapByte k l ≠ a) (z : Nat) :
    (s.sparedTo k a z).mapByte k l = s.mapByte k l := by
  unfold State.sparedTo
  split
  case h_1 p _ =>
    have hcover : (s.setReg .iWL_COVER (laneIx k p) z).mapByte k l = s.mapByte k l :=
      State.mapByte_of_touches s k (State.setReg_touches (W := [.reg .iWL_COVER]) (by decide) (.refl _ s)) (by decide)
        (by decide) l
    exact (State.laneToSpared_mapByte _ k a hl (hcover ▸ h)).trans hcover
  case h_2 =>
    have hspare := s.undesignate_mapByte k hl z
    exact (State.laneToSpared_mapByte _ k a hl (hspare ▸ h)).trans hspare

theorem State.moveTaken_of_sparing (hkind : m.kind = 2) :
    s.moveTaken k m true = s.sparedTo k m.fromLane m.toLane := by
  unfold State.moveTaken
  rw [hkind]
  rfl

/-- A move that spares no lane leaves the map (R252). -/
theorem State.moveTaken_map (h : m.kind = 2 → ok = false) (j : Nat) :
    (s.moveTaken k m ok).reg .WL_SPARE_MAP j = s.reg .WL_SPARE_MAP j := by
  unfold State.moveTaken
  split
  case h_1 =>
    have hcover : Touches [.reg .iWL_COVER] s
        (if ok = true then s.setReg .iWL_COVER (laneIx k m.fromLane) m.toLane else s) :=
      Touches.ite (State.setReg_touches (by decide) (.refl _ s)) (.refl _ s)
    have hafter : ∀ t : State, (if t.returnLocked k = true then t.toRetrain k m.fromLane
        else t.holdLane k m.fromLane).reg .WL_SPARE_MAP j = t.reg .WL_SPARE_MAP j := by
      intro t
      split
      · exact (State.toRetrain_touches (fun _ hp => hp) (.refl State.toRetrain_foot t)).reg .WL_SPARE_MAP j
          (by decide) (by decide)
      · exact (State.holdLane_touches (fun _ hp => hp) (.refl State.holdLane_foot t)).reg .WL_SPARE_MAP j
          (by decide) (by decide)
    exact (hafter _).trans (hcover.reg .WL_SPARE_MAP j (by decide) (by decide))
  case h_2 hkind => rw [h hkind, if_neg Bool.false_ne_true]
  case h_3 => rfl

theorem State.moveTaken_mapByte {l : Nat} (hl : l < 80) (h : m.kind = 2 → s.mapByte k l ≠ m.fromLane) :
    (s.moveTaken k m ok).mapByte k l = s.mapByte k l := by
  by_cases hspares : m.kind = 2 ∧ ok = true
  · obtain ⟨hkind, rfl⟩ := hspares
    rw [State.moveTaken_of_sparing _ _ _ hkind]
    exact s.sparedTo_mapByte k hl (h hkind) _
  · exact congrArg (blobGet · l 1) (s.moveTaken_map k m ok (fun hkind => by simpa [hkind] using hspares) k)

end

/-! ## A move at its effect line -/

section
variable (s : State) (k l : Nat) (m : Move)

/-- The lane of a cover retrains, or waits for it while neither return lane is LOCKED (R252, R258). -/
theorem State.moveEffected_cover (ok : Bool) (hkind : m.kind = 0) :
    if s.returnLocked k = true then (s.moveEffected k l m ok).lane k m.fromLane = laneRetrain
    else (s.moveEffected k l m ok).retrains.contains (k, m.fromLane, s.lane k m.fromLane == laneSpared) = true := by
  have hmade := s.moveMade_frame k l m ok
  have hlocked := State.returnLocked_of_touches hmade (by decide) (by decide) k
  have htaken := State.returnLocked_of_touches ((s.moveMade k l m ok).moveTaken_frame k m ok) (by decide) (by decide) k
  split
  case isTrue h =>
    obtain ⟨hlane, hctx⟩ := (s.moveMade k l m ok).moveTaken_retrains k m ok hkind (hlocked.trans h)
    exact (State.kick_lane _ k fun _ _ => by rw [hctx]; decide).trans hlane
  case isFalse h =>
    have hfree := Bool.eq_false_iff.2 h
    have hwaits := (s.moveMade k l m ok).moveTaken_waits k m ok hkind (hlocked.trans hfree)
    rw [State.lane_of_touches hmade (by decide) (by decide)] at hwaits
    rw [State.moveEffected, State.kick_of_not_locked _ _ (htaken.trans (hlocked.trans hfree)), List.contains_iff_mem]
    exact hwaits

/-- What comes after the move is made raises no event. -/
theorem State.moveEffected_lastEvent : (s.moveEffected k l m true).lastEvent = some (Code.weltSpared, packBits
    [(8, k), (8, l), (8, m.fromLane), (8, m.toLane), (64, m.frame)]) :=
  (State.lastEvent_of_touches (State.kick_frame _ k) (by decide) (by decide)).trans
    ((State.lastEvent_of_touches (State.moveTaken_frame _ k m true) (by decide) (by decide)).trans
      (s.moveMade_lastEvent k l m))

/-- The lane of a permanent sparing is SPARED (R254). -/
theorem State.moveEffected_spared (hkind : m.kind = 2) :
    (s.moveEffected k l m true).lane k m.fromLane = laneSpared := by
  obtain ⟨hlane, hbusy⟩ := (s.moveMade k l m true).sparedTo_lane k m.fromLane m.toLane
  rw [State.moveEffected, State.moveTaken_of_sparing _ _ _ hkind,
    State.kick_lane _ k fun hp h => absurd h (hbusy hp), hlane]

/-- The map gives the logical lane to the lane named (R253). -/
theorem State.moveEffected_mapByte (hl : l < 80) (h : m.kind = 2 → m.toLane % 256 ≠ m.fromLane) :
    (s.moveEffected k l m true).mapByte k l = m.toLane % 256 := by
  have hmade := s.moveMade_mapByte k l m hl
  rw [State.moveEffected, State.mapByte_of_touches _ k (State.kick_frame _ k) (by decide) (by decide),
    State.moveTaken_mapByte _ k m true hl (fun hkind => hmade ▸ h hkind), hmade]

/-- A lane that is no longer ACTIVE takes nothing (R253). -/
theorem State.moveEffected_map : (s.moveEffected k l m false).reg .WL_SPARE_MAP k = s.reg .WL_SPARE_MAP k :=
  ((State.kick_frame _ k).reg .WL_SPARE_MAP k (by decide) (by decide)).trans
    ((State.moveTaken_map _ k m false (fun _ => rfl) k).trans (s.moveMade_map k l m k))

end

/-- SPARE_EFFECT (R252 to R254). -/
theorem spareEffect_completes (surf : Surface) (l : Fin 80) (s : State) :
    let k := surf.val
    match s.moves.find? (fun m => m.surf == k && m.logical == l.val && !m.done) with
    | none => exec (.spareEffect surf l) s = .next s
    | some m =>
      if s.clock < m.effect then exec (.spareEffect surf l) s = .next s
      else
        ∃ t, exec (.spareEffect surf l) s = .next t ∧ Touches Changes.spareEffect s t ∧
          (m.kind = 0 → if s.returnLocked k = true then t.lane k m.fromLane = laneRetrain
            else t.retrains.contains (k, m.fromLane, s.lane k m.fromLane == laneSpared) = true) ∧
          if s.lane k m.toLane = laneActive then
            (m.kind = 2 → m.toLane % 256 ≠ m.fromLane → t.lane k m.fromLane = laneSpared) ∧
            (m.kind ≠ 2 ∨ m.toLane % 256 ≠ m.fromLane →
              blobGet (t.reg .WL_SPARE_MAP k) l.val 1 = m.toLane % 256) ∧
            t.lastEvent = some (Code.weltSpared, packBits
              [(8, k), (8, l.val), (8, m.fromLane), (8, m.toLane), (64, m.frame)])
          else t.reg .WL_SPARE_MAP k = s.reg .WL_SPARE_MAP k := by
  intro k
  split
  case h_1 hnone =>
    show execSpareEffect surf l s = _
    unfold execSpareEffect
    dsimp only
    rw [hnone]
  case h_2 m hm =>
    have hexec := exec_spareEffect s m hm
    have hframe : OutTouches Changes.spareEffect s (exec (.spareEffect surf l) s) :=
      execSpareEffect_touches (by decide) (.refl _ s)
    split
    case isTrue h => exact hexec.trans (if_pos h)
    case isFalse h =>
      rw [if_neg h] at hexec
      refine completes_of_next hexec hframe ⟨fun hkind => ?_, ?_⟩
      · exact s.moveEffected_cover k l.val m _ hkind
      · split
        case isTrue hactive =>
          rw [hactive, beq_self_eq_true]
          exact ⟨fun hkind _ => s.moveEffected_spared k l.val m hkind,
            fun h => s.moveEffected_mapByte k l.val m l.isLt (fun hkind => h.resolve_left (not_not_intro hkind)),
            s.moveEffected_lastEvent k l.val m⟩
        case isFalse hactive =>
          rw [beq_eq_false_iff_ne.2 hactive]
          exact s.moveEffected_map k l.val m

/-- SPARE_ACK_TIMEOUT (R253). -/
theorem spareAckTimeout_completes (surf : Surface) (l : Fin 80) (s : State) :
    match s.moves.find? (fun m => m.surf == surf.val && m.logical == l.val && m.done) with
    | none => exec (.spareAckTimeout surf l) s = .next s
    | some m =>
      if s.clock < m.effect + 100000 then exec (.spareAckTimeout surf l) s = .next s
      else
        ∃ t, exec (.spareAckTimeout surf l) s = .next t ∧
          Touches (regs [.WL_SPARE_NOACK] ++ flds [.moves]) s t ∧
          t.moves = s.moves.erase m ∧ Counted s t .WL_SPARE_NOACK surf.val (b2n (!m.acked)) ∧
          OnlyAt s t [.WL_SPARE_NOACK] surf.val := by
  split
  case h_1 hnone =>
    show execSpareAckTimeout surf l s = _
    unfold execSpareAckTimeout
    rw [hnone]
  case h_2 m hm =>
    have hexec : exec (.spareAckTimeout surf l) s = if s.clock < m.effect + 100000 then .next s
        else .next (({ s with moves := s.moves.erase m } : State).cond (!m.acked)
          (·.bump .WL_SPARE_NOACK surf.val)) := by
      show execSpareAckTimeout surf l s = _
      unfold execSpareAckTimeout
      rw [hm]
      cases hacked : m.acked <;> simp [hacked, State.cond]
    have hbase : OnlyAt s { s with moves := s.moves.erase m } [.WL_SPARE_NOACK] surf.val := .refl _ _ _
    refine completes_unless hexec (execSpareAckTimeout_touches (by decide) (.refl _ s)) fun _ => ⟨?_, ?_, ?_⟩
    · cases m.acked <;> rfl
    · exact State.cond_bump_counted { s with moves := s.moves.erase m } (!m.acked) .WL_SPARE_NOACK surf.val
    · cases m.acked
      · exact hbase.setReg _ _
      · exact hbase

/-! ## Permanent sparing (R254) -/

section
variable (s : State) (surf : Nat)

theorem State.startMove_moves (l a z kind : Nat) : (s.startMove surf l a z kind).moves =
    s.moves ++ [⟨surf, l, a, z, kind, (s.effectLine surf).2.2.2,
      s.reg .LAST_FRAME (s.genOf surf) + (s.effectLine surf).2.2.1, false, false⟩] := rfl

/-- SPARE_CMD is sent (R253). -/
theorem State.startMove_fwd_length (l a z kind : Nat) :
    (s.startMove surf l a z kind).fwd.length = s.fwd.length + 1 :=
  List.length_append (as := s.fwd) (bs := [_])

/-- A lane is spared as R254 says, as far as events, moves and messages show it. -/
theorem State.spareLane_ordered {t : State} {p : Nat} {idle : Prop} (hidle : s.spareLane surf p = s → idle)
    (hevent : t.lastEvent = (s.spareLane surf p).lastEvent) (hmoves : t.moves = (s.spareLane surf p).moves)
    (hfwd : t.fwd = (s.spareLane surf p).fwd) : SpareOrdered s t surf p idle := by
  unfold SpareOrdered
  split
  case h_1 hnone => exact hidle (by simp only [State.spareLane, hnone])
  case h_2 l hl =>
    split
    case isTrue hstays => exact hidle (by simp only [State.spareLane, hl, if_pos hstays])
    case isFalse hmay =>
      split
      case h_1 hfree =>
        have hspare : s.spareLane surf p =
            s.raise Code.weltNoSpare (some (s.reg .WL_QUEUE surf)) [(8, surf), (8, p)] := by
          simp only [State.spareLane, hl, if_neg hmay, hfree]
        rw [hevent, hmoves, hspare]
        exact ⟨State.raise_lastEvent .., State.raise_moves ..⟩
      case h_2 z zs hfree =>
        have hspare : s.spareLane surf p =
            (s.setReg .iWL_FORMER (laneIx surf p) l).startMove surf l p z 2 := by
          simp only [State.spareLane, hl, if_neg hmay, hfree]
        rw [hmoves, hfwd, hspare]
        refine ⟨?_, State.startMove_fwd_length .., ?_⟩
        · rw [State.startMove_moves, List.length_append]
          rfl
        · exact ⟨_, State.startMove_moves _ surf l p z 2 ▸ List.mem_append_right _ (List.mem_singleton.2 rfl), rfl,
            rfl, rfl, rfl, rfl, rfl⟩

end

/-! ## Messages of the panel (R257, R258) -/

section
variable (s : State) (surf : Surface) (r : RLane)

/-- A message that is processed is known from then on. -/
theorem State.noteReturn_seqs (mseq : Nat) : (surf.val, mseq) ∈ (s.noteReturn surf r mseq).seqs :=
  List.mem_append_left _ List.mem_cons_self

theorem State.noteReturn_counted (mseq : Nat) :
    Counted s (s.noteReturn surf r mseq) .WR_MESSAGES (2 * surf.val + r.val) 1 := State.setReg_reg_self ..

theorem State.noteReturn_onlyAt (mseq : Nat) :
    OnlyAt s (s.noteReturn surf r mseq) [.WR_MESSAGES] (2 * surf.val + r.val) :=
  fun q _ _ hj => State.setReg_reg_of_ix_ne _ _ q _ hj

/-- A return lane takes the blocks of a message and processes it as R257 and R258 say, where what the message does
leaves the count of messages and the ones known alone. -/
theorem State.receive_received (mtype : Nat) (raw : List RBlock) {eff : State → ReturnMsg → State} {V : List Part}
    {P : State → ReturnMsg → Prop} (heff : ∀ v m, Touches V v (eff v m))
    (hV : Part.reg .WR_MESSAGES ∉ V ∧ Part.anyReg ∉ V ∧ Part.fld .seqs ∉ V ∧ Part.anyFld ∉ V)
    (hP : ∀ v m, s.receive surf r mtype raw eff = eff v m → P v m) :
    Received s (s.receive surf r mtype raw eff) surf r mtype raw P := by
  obtain ⟨hmessages, hreg, hseqs, hfld⟩ := hV
  have hblocks : ∀ (l : List Reg) {k : Nat}, (∀ q ∈ l, Part.reg q ∉ State.takeBlocks_foot) →
      OnlyAt s (s.takeBlocks (2 * surf.val + r.val) raw).2 l k := fun l _ hl =>
    (OnlyAt.refl s l _).touches (State.takeBlocks_touches (fun _ h => h) (.refl _ s)) hl (by decide)
  generalize hreceive : s.receive surf r mtype raw eff = t at hP ⊢
  unfold State.receive at hreceive
  dsimp only at hreceive
  unfold Received
  dsimp only
  split
  case isTrue htest => rw [← hreceive, if_pos htest]
  case isFalse htest =>
    rw [if_neg htest] at hreceive
    split
    case isTrue hno => rw [← hreceive, if_pos hno]
    case isFalse hmsg =>
      rw [if_neg hmsg] at hreceive
      split
      case h_1 hbad =>
        rw [hbad] at hreceive
        rw [← hreceive]
        exact ⟨State.setReg_reg_self .., fun q hq j => State.setReg_reg_of_ne _ _ _ _ hq.symm,
          OnlyAt.setReg (hblocks _ (by decide)) _ _⟩
      case h_2 m hgood =>
        rw [hgood] at hreceive
        dsimp only at hreceive
        split
        case isTrue hcopy => rw [← hreceive, if_pos hcopy]
        case isFalse hnew =>
          rw [if_neg hnew] at hreceive
          have hnote := heff ((s.takeBlocks (2 * surf.val + r.val) raw).2.noteReturn surf r m.mseq) m
          rw [hreceive] at hnote
          refine ⟨(hnote.reg _ _ hmessages hreg).trans (State.noteReturn_counted ..), ?_, ?_, hP _ _ hreceive.symm⟩
          · rw [List.contains_iff_mem, hnote.fld .seqs hseqs hfld]
            exact State.noteReturn_seqs ..
          · exact OnlyAt.touches (fun q hq j hj => (State.noteReturn_onlyAt _ surf r m.mseq q hq j hj).trans
                (hblocks _ (by decide) q hq j hj)) hnote
              (fun q hq => List.mem_singleton.1 hq ▸ hmessages) hreg

end

/-- What SPARE_REQ does once it is processed (R254). -/
def State.spareRequested (s : State) (surf : Nat) (d : List Byte) : State :=
  if s.reg .WL_AUTO_SPARE surf = 1 ∧ leAt d 0 1 < 84 then s.spareLane surf (leAt d 0 1) else s

theorem State.spareRequested_frame (s : State) (surf : Nat) (d : List Byte) :
    Touches State.spareLane_foot s (s.spareRequested surf d) :=
  Touches.ite (State.spareLane_touches (fun _ h => h) (.refl _ s)) (.refl _ s)

/-- SPARE_REQ (R254). -/
theorem spareReq_completes (surf : Surface) (r : RLane) (raw : List RBlock) (s : State) :
    ∃ t, exec (.spareReq surf r raw) s = .next t ∧ Touches Changes.spareReq s t ∧
      Received s t surf r 0x05 raw (fun v m =>
        let d := m.data
        if v.reg .WL_AUTO_SPARE surf.val = 1 ∧ leAt d 0 1 < 84 then SpareOrdered v t surf.val (leAt d 0 1) (t = v)
        else t = v) := by
  have hexec : exec (.spareReq surf r raw) s =
      .next (s.receive surf r 0x05 raw fun t m => t.spareRequested surf.val m.data) := rfl
  refine completes_of_next hexec (execSpareReq_touches (by decide) (.refl _ s))
    (s.receive_received surf r 0x05 raw (fun v m => v.spareRequested_frame surf.val m.data) (by decide)
      fun v m ht => ?_)
  rw [ht]
  unfold State.spareRequested
  dsimp only
  split
  case isTrue => exact v.spareLane_ordered surf.val id rfl rfl rfl
  case isFalse => rfl

/-- SPARE_ACK (R253). -/
theorem spareAck_completes (surf : Surface) (r : RLane) (raw : List RBlock) (s : State) :
    ∃ t, exec (.spareAck surf r raw) s = .next t ∧ Touches Changes.spareAck s t ∧
      Received s t surf r 0x06 raw (fun v m =>
        let d := m.data
        t.moves = v.moves.map (fun m => if m.surf = surf.val ∧ m.logical = leAt d 0 1 ∧ m.toLane = leAt d 1 1 then
          { m with acked := true } else m)) :=
  completes_of_next rfl (execSpareAck_touches (by decide) (.refl _ s))
    (s.receive_received surf r 0x06 raw (fun v _ => v.moves_touches _) (by decide)
      fun _ _ ht => congrArg State.moves ht)

/-! ## The lane control -/

/-- WL_CTRL_SPARE (R254). -/
theorem wlCtrlSpare_completes (acc : Accessor) (surf : Surface) (p : Lane) (s : State)
    (hp : s.Passes acc .WL_CTRL (laneIx surf.val p.val) 2) :
    ∃ t, exec (.wlCtrlSpare acc surf p) s = .next t ∧ Touches Changes.wlCtrlSpare s t ∧
      t.status = 0 ∧ SpareOrdered s t surf.val p.val (CtrlIdle s t acc (laneIx surf.val p.val)) := by
  have hspare : Touches State.spareLane_foot ((s.send []).setStatus 0)
      (((s.send []).setStatus 0).spareLane surf.val p.val) := State.spareLane_touches (fun _ h => h) (.refl _ _)
  refine write_completes (u := s.send []) rfl hp (execWlCtrlSpare_touches (by decide) (.refl _ s)) ⟨?_, ?_⟩
  · rw [State.noteAccess_status]
    exact hspare.fld .status (by decide) (by decide)
  · exact ((s.send []).setStatus 0).spareLane_ordered surf.val (fun h => congrArg (State.noteAccess · acc _) h)
      (State.lastEvent_of_evLog (State.noteAccess_evLog ..))
      (State.noteAccess_moves ..) (State.noteAccess_fwd ..)

/-- WL_CTRL_RETRAIN (R251). -/
theorem wlCtrlRetrain_completes (acc : Accessor) (surf : Surface) (p : Lane) (s : State)
    (hp : s.Passes acc .WL_CTRL (laneIx surf.val p.val) 1) :
    if s.lane surf.val p.val = laneActive then
      ∃ t, exec (.wlCtrlRetrain acc surf p) s = .next t ∧ Touches Changes.wlCtrlRetrain s t ∧
        t.status = 0 ∧
        (t.retrains.contains (surf.val, p.val, false) = true ∨ t.reg .iWL_BUSY surf.val = p.val)
    else
      ∃ t, exec (.wlCtrlRetrain acc surf p) s = .next t ∧ Touches Changes.wlCtrlRetrain s t ∧
        CtrlIdle s t acc (laneIx surf.val p.val) := by
  have hframe : OutTouches Changes.wlCtrlRetrain s (exec (.wlCtrlRetrain acc surf p) s) :=
    execWlCtrlRetrain_touches (by decide) (.refl _ s)
  split
  case isTrue hactive =>
    have htrigger : Touches State.trigger_foot ((s.send []).setStatus 0)
        (((s.send []).setStatus 0).trigger surf.val p.val false) := State.trigger_touches (fun _ h => h) (.refl _ _)
    refine write_completes (u := s.send []) rfl hp hframe ?_
    rw [if_pos (by exact hactive), State.noteAccess_status, State.noteAccess_retrains,
      State.noteAccess_reg _ _ _ _ (by decide) (by decide)]
    exact ⟨htrigger.fld .status (by decide) (by decide), State.trigger_order _ surf.val p.isLt false⟩
  case isFalse hother =>
    exact write_completes (u := s.send []) rfl hp hframe
      (congrArg (State.noteAccess · acc _) (if_neg (by exact hother)))

/-- A lane that returns to DETECT has no failures counted (R246). -/
theorem State.toDetect_lane (s : State) (surf p ctx : Nat) (hctx : ctx < 256) :
    (s.toDetect surf p ctx).lane surf p = laneDetect ∧ (s.toDetect surf p ctx).reg .iWL_FAILS (laneIx surf p) = 0 ∧
      (s.toDetect surf p ctx).reg .iWL_CTX (laneIx surf p) = ctx := by
  have hmod : ctx % 2 ^ Reg.iWL_CTX.width = ctx := Nat.mod_eq_of_lt hctx
  have hstate : laneDetect % 2 ^ Reg.WL_LANE_STATE.width = laneDetect := by decide
  simp [State.toDetect, State.setLane, State.lane, hmod, hstate]

theorem State.haltLane_onlyAt (s : State) (surf p : Nat) {l : List Reg} (hl : .iWL_BUSY ∉ l) :
    OnlyAt s (s.haltLane surf p) l (laneIx surf p) := by
  have hrelease : OnlyAt s (s.release (.laneAttempt surf p)) l (laneIx surf p) := .refl _ _ _
  have hidle := (hrelease.setReg .iWL_CTX 0).setReg .iWL_PH 0
  unfold State.haltLane
  dsimp only
  split
  · exact hidle.touches (State.setReg_touches List.mem_cons_self (.refl [.reg .iWL_BUSY] _))
      (fun r hr hm => hl (Part.reg.inj (List.mem_singleton.1 hm) ▸ hr)) (by decide)
  · exact hidle

theorem State.toDetect_onlyAt (s : State) (surf p ctx : Nat) {l : List Reg} (hl : .iWL_BUSY ∉ l) :
    OnlyAt s (s.toDetect surf p ctx) l (laneIx surf p) := by
  have hdrop := (s.haltLane_onlyAt surf p hl).dropMsgs surf p
  have hlane := (hdrop.setReg .WL_LANE_STATE laneDetect).setReg .iWL_SINCE (s.haltLane surf p).clock
  unfold State.toDetect
  exact ((((hlane.setReg _ _).setReg _ _).setReg _ _).setReg _ _).setReg _ _

/-- WL_CTRL_RETRY (R246). -/
theorem wlCtrlRetry_completes (acc : Accessor) (surf : Surface) (p : Lane) (s : State)
    (hp : s.Passes acc .WL_CTRL (laneIx surf.val p.val) 3) :
    let i := laneIx surf.val p.val
    if s.lane surf.val p.val = laneFault then
      ∃ t, exec (.wlCtrlRetry acc surf p) s = .next t ∧ Touches Changes.wlCtrlRetry s t ∧
        t.status = 0 ∧ t.lane surf.val p.val = laneDetect ∧
        t.reg .iWL_FAILS i = 0 ∧ t.reg .iWL_CTX i = 2 ∧ OnlyAt s t [.WL_LANE_STATE, .iWL_FAILS, .iWL_CTX] i
    else exec (.wlCtrlRetry acc surf p) s = .next (s.answered acc .WL_CTRL i 0) := by
  intro i
  split
  case isTrue hfault =>
    have hdetect : Touches State.toDetect_foot (s.setStatus 0) ((s.setStatus 0).toDetect surf.val p.val 2) :=
      State.toDetect_touches (fun _ h => h) (.refl _ _)
    obtain ⟨hlane, hfails, hctx⟩ := (s.setStatus 0).toDetect_lane surf.val p.val 2 (by decide)
    have honly : OnlyAt s ((s.setStatus 0).toDetect surf.val p.val 2) [.WL_LANE_STATE, .iWL_FAILS, .iWL_CTX] i :=
      (s.setStatus 0).toDetect_onlyAt surf.val p.val 2 (by decide)
    refine write_completes rfl hp (execWlCtrlRetry_touches (by decide) (.refl _ s)) ?_
    rw [if_pos (by exact hfault)]
    simp only [State.lane, State.noteAccess_status, State.noteAccess_reg, ne_eq, reduceCtorEq, not_false_eq_true]
    exact ⟨hdetect.fld .status (by decide) (by decide), hlane, hfails, hctx,
      honly.noteAccess (by decide) (by decide) _ _⟩
  case isFalse hother => exact write_refused (code := 0) rfl hp (if_neg (by exact hother))

/-- The value that a write of WL_MAP_RESET stages, in a group or in none (R192). -/
def mapResetEntry (acc : Accessor) (k : Nat) (g : Option Nat) : Staged :=
  ⟨g, 2 ^ k, ownerOf acc, regKey .WL_MAP_RESET k, 1⟩

section
variable {s : State} {acc : Accessor} {k : Nat}

/-- Outside a group a write of WL_MAP_RESET needs the consent of its own surface (R192, R200, R229). -/
theorem State.stageWrite_mapReset_alone (hk : k < 2) (hg : s.stagingGroup (ownerOf acc) = none) :
    s.stageWrite acc .WL_MAP_RESET k 1 =
      if s.reg .CMT_DARK_OK k = 0 then s.refuse Code.cmtNeedDark else s.stage (mapResetEntry acc k none) := by
  have hmask : s.ownMask .WL_MAP_RESET k = 2 ^ k := rfl
  have hdark : s.isDark .WL_MAP_RESET k 1 = true := rfl
  have hconsent : ((List.range 2).any fun surf => bit (2 ^ k) surf && s.reg .CMT_DARK_OK surf == 0) =
      (s.reg .CMT_DARK_OK k == 0) := by
    obtain rfl | rfl : k = 0 ∨ k = 1 := by omega
    · have hother : Nat.testBit 1 1 = false := by decide
      simp [List.range_succ, bit, hother]
    · have hother : Nat.testBit 2 0 = false := by decide
      have hown : Nat.testBit 2 1 = true := by decide
      simp [List.range_succ, bit, hown, hother]
  unfold State.stageWrite
  simp only [hg, hmask, hdark, hconsent, reduceCtorEq, false_and, if_false, Bool.true_and, beq_iff_eq,
    mapResetEntry]

/-- In a group it needs the consent of the group, which must name the surface (R195, R200, R229). -/
theorem State.stageWrite_mapReset_grouped {g : Nat} (hg : s.stagingGroup (ownerOf acc) = some g) :
    s.stageWrite acc .WL_MAP_RESET k 1 =
      if s.reg .CG_DARK_OK g = 0 then s.refuse Code.cmtNeedDark
      else if 2 ^ k &&& s.reg .CG_SURFACES g ≠ 2 ^ k then s.refuse Code.cmtGroupState
      else s.stage (mapResetEntry acc k (some g)) := by
  have hmask : s.ownMask .WL_MAP_RESET k = 2 ^ k := rfl
  have hdark : s.isDark .WL_MAP_RESET k 1 = true := rfl
  unfold State.stageWrite
  simp only [hg, hmask, hdark, reduceCtorEq, false_and, if_false, Bool.true_and, beq_iff_eq,
    mapResetEntry]

end

theorem State.stage_getLast (s : State) (e : Staged) : (s.stage e).staged.getLast? = some e :=
  List.getLast?_concat

/-- WL_MAP_RESET (R200, R229). -/
theorem wlMapReset_completes (acc : Accessor) (surf : Surface) (s : State)
    (hp : s.Passes acc .WL_MAP_RESET surf.val 1) :
    let k := surf.val
    let e (g : Option Nat) : Staged := ⟨g, 2 ^ k, ownerOf acc, regKey .WL_MAP_RESET k, 1⟩
    ∃ t, exec (.wlMapReset acc surf) s = .next t ∧ Touches Changes.wlMapReset s t ∧
      let refused (code : Nat) := t = s.answered acc .WL_MAP_RESET k code
      match s.stagingGroup (ownerOf acc) with
      | none => if s.reg .CMT_DARK_OK k = 0 then refused Code.cmtNeedDark
        else t.status = 0 ∧ t.staged.getLast? = some (e none)
      | some g => if s.reg .CG_DARK_OK g = 0 then refused Code.cmtNeedDark
        else if 2 ^ k &&& s.reg .CG_SURFACES g ≠ 2 ^ k then refused Code.cmtGroupState
        else t.status = 0 ∧ t.staged.getLast? = some (e (some g)) := by
  intro k e
  refine write_completes rfl hp (execWlMapReset_touches (by decide) (.refl _ s)) ?_
  dsimp only
  split
  case h_1 hg =>
    rw [State.stageWrite_mapReset_alone (s := s.setStatus 0) surf.isLt hg]
    split
    case isTrue h => exact congrArg (State.noteAccess · acc _) (if_pos h)
    case isFalse h =>
      rw [if_neg (show ¬ (s.setStatus 0).reg .CMT_DARK_OK k = 0 from h), State.noteAccess_status,
        State.noteAccess_staged]
      exact ⟨rfl, State.stage_getLast _ _⟩
  case h_2 g hg =>
    rw [State.stageWrite_mapReset_grouped (s := s.setStatus 0) hg]
    split
    case isTrue h => exact congrArg (State.noteAccess · acc _) (if_pos h)
    case isFalse h =>
      rw [if_neg (show ¬ (s.setStatus 0).reg .CG_DARK_OK g = 0 from h)]
      split
      case isTrue hnames => exact congrArg (State.noteAccess · acc _) (if_pos hnames)
      case isFalse hnames =>
        rw [if_neg (show ¬ 2 ^ surf.val &&& (s.setStatus 0).reg .CG_SURFACES g ≠ 2 ^ surf.val from hnames),
          State.noteAccess_status, State.noteAccess_staged]
        exact ⟨rfl, State.stage_getLast _ _⟩

/-- Settles O38: each command by its own lemma. -/
theorem weltSparing : Obligations.WeltSparing :=
  ⟨spareEffect_completes, spareAckTimeout_completes, spareReq_completes, spareAck_completes, wlCtrlSpare_completes,
    wlCtrlRetrain_completes, wlCtrlRetry_completes, wlMapReset_completes⟩

end Sys2Proof.Machine
end

section
/-! Network time (11_network_time.md, R354 to R356, R361, R369): what a step of the timebase and a discipline leave, and
from that the writes of TB_SOURCE, TB_SET and TB_ADJ and the edges of SYNC_IN; and the resynchronisation and the rate of
a frame generator (07_scanout.md, R211, R214). -/
namespace Sys2Proof.Machine

/-- Two effects, one after the other, touch what either does. -/
theorem Touches.append {s t u : State} {V W : List Part} (h : Touches V s t) (k : Touches W t u) :
    Touches (V ++ W) s u :=
  (h.mono fun _ => List.mem_append_left _).after (fun _ => List.mem_append_right _) k

/-! ## The rate -/

/-- A number inside the range of a two's complement width is what its bits spell (R379). -/
theorem asInt_ofInt {n : Nat} {x : Int} (hlo : -(2 ^ n : Nat) ≤ x) (hhi : x < (2 ^ n : Nat)) :
    asInt (n + 1) (ofInt (n + 1) x) = x := by
  have htwice : 2 ^ (n + 1) = 2 ^ n + 2 ^ n := by rw [Nat.pow_succ, Nat.mul_two]
  unfold asInt ofInt
  rw [Nat.add_sub_cancel, htwice]
  generalize 2 ^ n = m at hlo hhi
  obtain hneg | hpos := Int.lt_or_le x 0
  · have hrem : x % (m + m : Nat) = x + (m + m : Nat) := by
      rw [← Int.add_emod_right, Int.emod_eq_of_lt (by omega) (by omega)]
    rw [hrem, Nat.mod_eq_of_lt (by omega)]
    split <;> omega
  · have hrem : x % (m + m : Nat) = x := Int.emod_eq_of_lt hpos (by omega)
    rw [hrem, Nat.mod_eq_of_lt (by omega)]
    split <;> omega

/-- A signed register holds what is written to it, inside its range. -/
theorem State.setRegInt_regInt (s : State) {r : Reg} (i : Nat) {n : Nat} {v : Int} (hw : r.width = n + 1)
    (hlo : -(2 ^ n : Nat) ≤ v) (hhi : v < (2 ^ n : Nat)) : (s.setRegInt r i v).regInt r i = v := by
  have hmod (x : Nat) : asInt r.width (x % 2 ^ r.width) = asInt r.width x := by
    unfold asInt
    rw [Nat.mod_mod]
  rw [State.regInt, State.setRegInt, State.setReg_reg_self, hmod, hw, asInt_ofInt hlo hhi]

/-- The rate takes its new value within 500 ppm (R354). -/
theorem State.setRate_rate (s : State) (r : Int) :
    (s.setRate r).regInt .TB_RATE 0 = clampInt (-2048000000) 2048000000 r := by
  have hclamp : clampInt (-2048000000) 2048000000 r = max (-2048000000) (min 2048000000 r) :=
    clampInt_eq (by decide) r
  have hrate : (s.setRate r).regInt .TB_RATE 0 =
      (s.setRegInt .TB_RATE 0 (clampInt (-2048000000) 2048000000 r)).regInt .TB_RATE 0 := by
    unfold State.setRate
    dsimp only
    split <;> rfl
  exact hrate.trans (s.setRegInt_regInt 0 (n := 31) rfl (by omega) (by omega))

theorem State.setRate_frame (s : State) (r : Int) : Touches State.setRate_foot s (s.setRate r) :=
  State.setRate_touches (fun _ h => h) (.refl _ s)

theorem State.slew_frame (s : State) : Touches State.slew_foot s s.slew :=
  State.slew_touches (fun _ h => h) (.refl _ s)

/-- The PI loop keeps the rate within PTP_SLEW_MAX (R361). -/
theorem State.slew_kept (s : State) : SlewKept s s.slew := by
  have hrate : s.slew.regInt .TB_RATE 0 = clampInt (-2048000000) 2048000000
      (clampInt (-((s.reg .PTP_SLEW_MAX 0 : Int) * 4096)) ((s.reg .PTP_SLEW_MAX 0 : Int) * 4096)
        (asInt 40 s.draw.1)) := State.setRate_rate ..
  rw [clampInt_eq (by decide), clampInt_eq (by omega)] at hrate
  unfold SlewKept
  omega

/-! ## Steps of the timebase -/

/-- The step is made, noted for the captures, counted and raised (R355). -/
def State.stepNoted (s : State) (d : Int) : State :=
  let u := (forN 8 { s with tb := s.stepped d } (fun t k => t.setReg .iCAP_STEPPED k 1)).bump .TB_STEPS 0
  u.raise Code.tbStepped (some (u.reg .PTP_QUEUE 0)) [(64, ofInt 64 (d / 2 ^ 48))]

section
variable (s : State) (d : Int)

/-- What follows in a step are the edges of the eyelets that it jumps past (R368). -/
theorem State.stepTime_edges : Touches State.jumpEdges_foot (s.stepNoted d) (s.stepTime d) := by
  have hstep : s.stepTime d = if 0 < d then forN 8 (s.stepNoted d)
      (fun t e => t.jumpEdges e s.now16 (t.jumpBound e (d / 2 ^ 32).toNat)) else s.stepNoted d := rfl
  rw [hstep]
  exact .ite (forN_touches (.refl _ _) fun x k hx => State.jumpEdges_touches (fun _ h => h) hx) (.refl _ _)

/-- The captures that a step is noted for (R370) are in a register of their own. -/
theorem State.stepCaptures_frame (s : State) :
    Touches [.reg .iCAP_STEPPED] s (forN 8 s (fun t k => t.setReg .iCAP_STEPPED k 1)) :=
  forN_touches (.refl _ s) fun _ _ hx => State.setReg_touches List.mem_cons_self hx

theorem State.stepTime_tb : (s.stepTime d).tb = s.stepped d := by
  have hnoted : (s.stepNoted d).tb = s.stepped d := by
    unfold State.stepNoted
    rw [State.raise_tb, State.bump_tb]
    exact ((State.stepCaptures_frame _).time (by decide)).1
  rw [((s.stepTime_edges d).time (by decide)).1, hnoted]

theorem State.stepTime_counted : Counted s (s.stepTime d) .TB_STEPS 0 1 := by
  unfold Counted
  rw [(s.stepTime_edges d).reg _ _ (by decide) (by decide), State.stepNoted, State.raise_reg _ _ _ _ _ (by decide)
    (by decide) (by decide), State.reg_bump, if_pos ⟨rfl, rfl⟩,
    (State.stepCaptures_frame _).reg _ _ (by decide) (by decide)]
  rfl

theorem State.stepTime_frame : Touches State.stepTime_foot s (s.stepTime d) :=
  State.stepTime_touches (fun _ h => h) (.refl _ s)

end

/-- A step by the difference to a time that the accumulator can hold sets the timebase to it (R354). -/
theorem State.stepped_to (s : State) {x : Nat} (h : x < 2 ^ 112) : s.stepped ((x : Int) - s.tb) = x := by
  unfold State.stepped
  omega

/-! ## The disciplines (R361) -/

section
variable (s : State) (sync : Bool)

/-- The state and the run count of a discipline are two registers of its own. -/
theorem discRegs_ne : (discRegs sync).1 ≠ (discRegs sync).2 := by
  cases sync <;> decide

/-- Both hold the small numbers that a discipline writes. -/
theorem discRegs_width : (discRegs sync).1.width = 8 ∧ (discRegs sync).2.width = 8 := by
  cases sync <;> decide

/-- The state and the run count of a discipline. -/
def State.disc : Nat × Nat := (s.reg (discRegs sync).1 0, s.reg (discRegs sync).2 0)

/-- The registers of a discipline are written. -/
def State.putDisc (st run : Nat) : State := (s.setReg (discRegs sync).1 0 st).setReg (discRegs sync).2 0 run

theorem State.putDisc_disc {st run : Nat} (hst : st < 2 ^ 8) (hrun : run < 2 ^ 8) :
    (s.putDisc sync st run).disc sync = (st, run) := by
  obtain ⟨hs, hr⟩ := discRegs_width sync
  simp only [State.disc, State.putDisc, State.setReg_reg_self, hs, hr,
    State.setReg_reg_of_ne _ _ _ _ (discRegs_ne sync).symm, Nat.mod_eq_of_lt hst, Nat.mod_eq_of_lt hrun]

variable {s sync}

/-- What touches neither register of a discipline leaves it as it was. -/
theorem Touches.disc {t : State} {V : List Part} (h : Touches V s t)
    (hV : ∀ b, Part.reg (discRegs b).1 ∉ V ∧ Part.reg (discRegs b).2 ∉ V) (hany : Part.anyReg ∉ V) :
    t.disc sync = s.disc sync := by
  obtain ⟨hst, hrun⟩ := hV sync
  rw [State.disc, State.disc, h.reg _ _ hst hany, h.reg _ _ hrun hany]

end

/-- State and run count after an offset of `size`, both in 2^-16 ns as the threshold is (R361). -/
def discNext (thresh size : Nat) (d : Nat × Nat) : Nat × Nat :=
  if d.1 = 1 then (if size ≤ thresh then (if 16 ≤ d.2 + 1 then (2, 0) else (1, d.2 + 1)) else (1, 0))
  else if d.1 = 2 then (if 4 * thresh < size then (if 16 ≤ d.2 + 1 then (1, 0) else (2, d.2 + 1)) else (2, 0))
  else d

section
variable (s : State) (sync : Bool) (offset : Int)

/-- A discipline that is FREE or in HOLDOVER begins to acquire. -/
def State.discStarted : State :=
  if s.reg (discRegs sync).1 0 = 0 ∨ s.reg (discRegs sync).1 0 = 3 then s.discAcquire sync else s

/-- An offset acts on the timebase: by a step or by the PI loop. -/
def State.discActed : State :=
  let u := s.cond (!sync) (·.setReg .iPTP_FIRST 0 0)
  if u.disciplines sync then
    if !sync && s.reg .iPTP_FIRST 0 == 1 && s.reg .PTP_STEP_LIMIT 0 * 65536 != 0 &&
        decide (s.reg .PTP_STEP_LIMIT 0 * 65536 < offset.natAbs) then u.stepTime (-(offset * 2 ^ 32))
    else u.slew
  else u

/-- The offset counts towards LOCKED or back. -/
def State.discJudged : State :=
  let st := s.reg (discRegs sync).1 0
  let run := s.reg (discRegs sync).2 0
  let thresh := s.reg .PTP_LOCK_THRESH 0 * 65536
  if st = 1 then
    if offset.natAbs ≤ thresh then
      if 16 ≤ run + 1 then s.discLocked sync else s.bump (discRegs sync).2 0
    else s.setReg (discRegs sync).2 0 0
  else if st = 2 then
    if 4 * thresh < offset.natAbs then
      if 16 ≤ run + 1 then if sync then s.putDisc sync 1 0 else (s.putDisc sync 1 0).showServo
      else s.bump (discRegs sync).2 0
    else s.setReg (discRegs sync).2 0 0
  else s

theorem State.discOffset_eq : s.discOffset sync offset = (s.discActed sync offset).discJudged sync offset := by
  cases sync <;> rfl

theorem State.showServo_shows : Touches [.reg .PTP_STATE] s s.showServo :=
  State.setReg_touches List.mem_cons_self (.refl _ s)

/-- A discipline that begins to acquire has both registers written; PTP also awaits its first offset. -/
theorem State.discAcquire_disc : (s.discAcquire sync).disc sync = (1, 0) := by
  have hput : Touches [.reg .iPTP_FIRST, .reg .PTP_STATE] (s.putDisc sync 1 0) (s.discAcquire sync) := by
    cases sync with
    | true => exact .refl _ _
    | false => exact (State.setReg_touches (by decide) (.refl _ _)).after (by decide) (State.showServo_shows _)
  exact (hput.disc (by decide) (by decide)).trans (s.putDisc_disc sync (by decide) (by decide))

/-- The rates over which LOCKED takes its mean begin anew where the discipline acts on the timebase. -/
def State.ratesBegun : State :=
  if s.disciplines sync then { s with rates := [(s.clock, s.reg .TB_RATE 0)] } else s

theorem State.ratesBegun_frame : Touches [.fld .rates] s (s.ratesBegun sync) :=
  .ite ((Touches.refl _ s).one List.mem_cons_self (fun f hf => by cases f <;> first | rfl | exact absurd rfl hf)
    rfl rfl rfl rfl rfl rfl rfl) (.refl _ s)

/-- A discipline that becomes LOCKED has both registers written; for PTP an event and a resynchronisation follow. -/
theorem State.discLocked_disc : (s.discLocked sync).disc sync = (2, 0) := by
  have hrates := (s.putDisc sync 2 0).ratesBegun_frame sync
  have hlocked : Touches (.fld .rates :: .reg .PTP_STATE :: (State.raise_foot ++ State.autoResync_foot))
      (s.putDisc sync 2 0) (s.discLocked sync) := by
    cases sync with
    | true => exact hrates.mono (by decide)
    | false =>
      refine cond_touches (State.raise_touches (by decide) ?_) fun u hu => State.autoResync_touches (by decide) hu
      exact (hrates.mono (by decide)).after (by decide) (State.showServo_shows _)
  exact (hlocked.disc (by decide) (by decide)).trans (s.putDisc_disc sync (by decide) (by decide))

/-- An offset that acts changes neither the discipline's state nor its threshold. -/
theorem State.discActed_frame :
    Touches (.reg .iPTP_FIRST :: (State.stepTime_foot ++ State.slew_foot)) s (s.discActed sync offset) := by
  have hfirst : Touches (.reg .iPTP_FIRST :: (State.stepTime_foot ++ State.slew_foot)) s
      (s.cond (!sync) (·.setReg .iPTP_FIRST 0 0)) :=
    cond_touches (.refl _ s) fun _ hx => State.setReg_touches List.mem_cons_self hx
  exact .ite (.ite (State.stepTime_touches (by decide) hfirst) (State.slew_touches (by decide) hfirst)) hfirst

/-- What is judged of an offset stands in the state of the discipline and in what LOCKED sets off. -/
theorem State.discJudged_frame : Touches State.discLocked_foot s (s.discJudged sync offset) := by
  have hst : Part.reg (discRegs sync).1 ∈ State.discLocked_foot := by cases sync <;> decide
  have hrun : Part.reg (discRegs sync).2 ∈ State.discLocked_foot := by cases sync <;> decide
  have hput : Touches State.discLocked_foot s (s.putDisc sync 1 0) :=
    State.setReg_touches hrun (State.setReg_touches hst (.refl _ s))
  have hbump : Touches State.discLocked_foot s (s.bump (discRegs sync).2 0) := State.bump_touches hrun (.refl _ s)
  have hreset : Touches State.discLocked_foot s (s.setReg (discRegs sync).2 0 0) :=
    State.setReg_touches hrun (.refl _ s)
  have hlocked : Touches State.discLocked_foot s (s.discLocked sync) :=
    State.discLocked_touches (fun _ h => h) (.refl _ s)
  exact .ite (.ite (.ite hlocked hbump) hreset)
    (.ite (.ite (.ite (.ite hput (State.showServo_touches (by decide) hput)) hbump) hreset) (.refl _ s))

/-- A write of the run count leaves the state of the discipline. -/
theorem State.setRun_disc {n : Nat} (hn : n < 2 ^ 8) :
    (s.setReg (discRegs sync).2 0 n).disc sync = (s.reg (discRegs sync).1 0, n) := by
  rw [State.disc, State.setReg_reg_self, (discRegs_width sync).2, Nat.mod_eq_of_lt hn,
    State.setReg_reg_of_ne _ _ _ _ (discRegs_ne sync).symm]

theorem State.discJudged_disc : (s.discJudged sync offset).disc sync =
    discNext (s.reg .PTP_LOCK_THRESH 0 * 65536) offset.natAbs (s.disc sync) := by
  have hone : (s.putDisc sync 1 0).disc sync = (1, 0) := s.putDisc_disc sync (by decide) (by decide)
  have hreset := s.setRun_disc sync (n := 0) (by decide)
  unfold State.discJudged discNext State.disc
  dsimp only
  split
  case isTrue hst =>
    split
    · split
      · exact s.discLocked_disc sync
      · exact (s.setRun_disc sync (by omega)).trans (by rw [hst])
    · exact hreset.trans (by rw [hst])
  case isFalse =>
    split
    case isTrue hst =>
      split
      · split
        · split
          · exact hone
          · exact ((State.showServo_shows _).disc (by decide) (by decide)).trans hone
        · exact (s.setRun_disc sync (by omega)).trans (by rw [hst])
      · exact hreset.trans (by rw [hst])
    case isFalse => rfl

variable {s sync offset}

/-- R361 in one equation: where a discipline goes from the state that an acquisition begun now would leave. -/
theorem disciplined_of_disc {t : State} (h : t.disc sync = discNext (s.reg .PTP_LOCK_THRESH 0 * 65536) offset.natAbs
      (if s.reg (discRegs sync).1 0 = 0 ∨ s.reg (discRegs sync).1 0 = 3 then (1, 0) else s.disc sync)) :
    Disciplined s t sync offset := by
  unfold Disciplined
  simp only [← Prod.mk.injEq]
  unfold State.disc at h
  rw [h]
  unfold discNext
  by_cases hfresh : s.reg (discRegs sync).1 0 = 0 ∨ s.reg (discRegs sync).1 0 = 3
  · simp only [hfresh, if_true, true_or, Nat.zero_add]
    grind
  · simp only [hfresh, if_false, false_or]
    grind

variable (s sync offset)

/-- R361: what an offset does to the state and the run count of a discipline that it finds in any state. -/
theorem State.discStarted_disciplined : Disciplined s ((s.discStarted sync).discOffset sync offset) sync offset := by
  have hdisc : (s.discStarted sync).disc sync =
      if s.reg (discRegs sync).1 0 = 0 ∨ s.reg (discRegs sync).1 0 = 3 then (1, 0) else s.disc sync := by
    unfold State.discStarted
    split
    · exact s.discAcquire_disc sync
    · rfl
  have hstart : Touches State.discAcquire_foot s (s.discStarted sync) :=
    .ite (State.discAcquire_touches (fun _ h => h) (.refl _ s)) (.refl _ s)
  have hact := (s.discStarted sync).discActed_frame sync offset
  refine disciplined_of_disc ?_
  rw [State.discOffset_eq, State.discJudged_disc, hact.disc (by decide) (by decide), hdisc,
    hact.reg _ _ (by decide) (by decide), hstart.reg _ _ (by decide) (by decide)]

/-- Where SYNC_IN disciplines the timebase its offsets act by the PI loop alone (R369). -/
theorem State.discActed_sync (h : s.reg .TB_SOURCE 0 = 1) : s.discActed true offset = s.slew :=
  if_pos (beq_iff_eq.2 h)

end

/-! ## Claims carried over a state that does not touch what they speak of -/

section
variable {s u t : State} {V : List Part} (h : Touches V s u) (hany : Part.anyReg ∉ V)
include h hany

/-- Disciplined speaks of the discipline's registers and its threshold alone. -/
theorem Disciplined.of_touches {sync : Bool} {offset : Int} (hd : Disciplined u t sync offset)
    (hV : ∀ b, Part.reg (discRegs b).1 ∉ V ∧ Part.reg (discRegs b).2 ∉ V) (hthresh : Part.reg .PTP_LOCK_THRESH ∉ V) :
    Disciplined s t sync offset := by
  obtain ⟨hst, hrun⟩ := hV sync
  unfold Disciplined at hd ⊢
  dsimp only at hd ⊢
  rwa [h.reg _ _ hst hany, h.reg _ _ hrun hany, h.reg _ _ hthresh hany] at hd

/-- The bound of the rate is PTP_SLEW_MAX. -/
theorem SlewKept.of_touches (hk : SlewKept u t) (hV : Part.reg .PTP_SLEW_MAX ∉ V) : SlewKept s t := by
  unfold SlewKept at hk ⊢
  rwa [h.reg _ _ hV hany] at hk

/-- A counter counts on from what it held before. -/
theorem Counted.of_touches {r : Reg} {i n : Nat} (hc : Counted u t r i n) (hV : Part.reg r ∉ V) :
    Counted s t r i n := by
  unfold Counted at hc ⊢
  rwa [h.reg _ _ hV hany] at hc

end

/-! ## The edges of SYNC_IN (R369, R423) -/

/-- How far an edge lies from the nearest whole second, in 2^-16 ns. -/
def syncOffset (stamp : Nat) : Int :=
  (stamp : Int) - ((stamp + 1000000000 * 65536 / 2) / (1000000000 * 65536) * (1000000000 * 65536) : Nat)

section
variable (s : State) (stamp : Nat)

/-- An accepted edge is noted, and TB_SYNC_LOAD moves on to the next second. -/
def State.syncLoaded : State :=
  (s.setReg .iSYNC_AT 0 s.clock).setReg .TB_SYNC_LOAD 0 (s.reg .TB_SYNC_LOAD 0 + 1000000000)

theorem State.syncLoaded_frame : Touches [.reg .iSYNC_AT, .reg .TB_SYNC_LOAD] s s.syncLoaded :=
  State.setReg_touches (by decide) (State.setReg_touches (by decide) (.refl _ s))

theorem State.syncLoaded_counted : Counted s s.syncLoaded .TB_SYNC_LOAD 0 1000000000 :=
  State.setReg_reg_self ..

/-- The first edge is noted in the same way, and is the first no more. -/
def State.syncBegun : State :=
  ((s.setReg .iSYNC_FIRST 0 0).setReg .TB_SYNC_LOAD 0 (s.reg .TB_SYNC_LOAD 0 + 1000000000)).setReg .iSYNC_AT 0 s.clock

theorem State.syncBegun_frame :
    Touches [.reg .iSYNC_FIRST, .reg .TB_SYNC_LOAD, .reg .iSYNC_AT] s s.syncBegun :=
  State.setReg_touches (by decide) (State.setReg_touches (by decide) (State.setReg_touches (by decide) (.refl _ s)))

theorem State.syncBegun_counted : Counted s s.syncBegun .TB_SYNC_LOAD 0 1000000000 :=
  (State.setReg_reg_of_ne _ _ _ _ (by decide)).trans (State.setReg_reg_self ..)

theorem State.syncBegun_first : s.syncBegun.reg .iSYNC_FIRST 0 = 0 := by
  simp [State.syncBegun]

theorem State.discAcquire_sync : s.discAcquire true = s.putDisc true 1 0 := rfl

/-- The first edge sets the timebase and begins to acquire. -/
theorem State.syncSecond_first (h : s.reg .iSYNC_FIRST 0 = 1) :
    let t := s.syncSecond stamp
    t.tb = s.stepped (((s.reg .TB_SYNC_LOAD 0 * 65536 : Nat) - (stamp : Int)) * 2 ^ 32) ∧
      t.reg .iSYNC_FIRST 0 = 0 ∧ t.reg .iSYNC_STATE 0 = 1 ∧ Counted s t .TB_SYNC_LOAD 0 1000000000 := by
  intro t
  have ht : t = (s.syncBegun.stepTime (((s.reg .TB_SYNC_LOAD 0 * 65536 : Nat) - (stamp : Int)) * 2 ^ 32)).discAcquire
      true := if_pos h
  generalize ((s.reg .TB_SYNC_LOAD 0 * 65536 : Nat) - (stamp : Int)) * 2 ^ 32 = d at ht ⊢
  have hbegun := s.syncBegun_frame
  have hfirst := s.syncBegun_first
  have hload := s.syncBegun_counted
  generalize s.syncBegun = u at ht hbegun hfirst hload
  rw [ht, State.discAcquire_sync]
  have hput : Touches [.reg .iSYNC_STATE, .reg .iSYNC_RUN] (u.stepTime d) ((u.stepTime d).putDisc true 1 0) :=
    State.setReg_touches (by decide) (State.setReg_touches (by decide) (.refl _ _))
  have hafter := (u.stepTime_frame d).append hput
  refine ⟨?_, ?_, ?_, ?_⟩
  · rw [(hput.time (by decide)).1, State.stepTime_tb, State.stepped, (hbegun.time (by decide)).1, State.stepped]
  · exact (hafter.reg _ _ (by decide) (by decide)).trans hfirst
  · exact (Prod.mk.inj (State.putDisc_disc _ true (by decide) (by decide))).1
  · exact (hafter.reg _ _ (by decide) (by decide)).trans hload

/-- An edge far from a whole second is counted alone. -/
theorem State.syncSecond_rejected (h : ¬ s.reg .iSYNC_FIRST 0 = 1)
    (hfar : 100000 * 65536 < (syncOffset stamp).natAbs) :
    s.syncSecond stamp = s.bump .TB_SYNC_REJECT 0 :=
  (if_neg h).trans (if_pos hfar)

/-- Any other edge drives the discipline, which keeps the rate within its bound and never steps. -/
theorem State.syncSecond_accepted (hsource : s.reg .TB_SOURCE 0 = 1) (h : ¬ s.reg .iSYNC_FIRST 0 = 1)
    (hnear : ¬ 100000 * 65536 < (syncOffset stamp).natAbs) :
    let t := s.syncSecond stamp
    Counted s t .TB_SYNC_LOAD 0 1000000000 ∧ t.tb = s.tb ∧ SlewKept s t ∧ Disciplined s t true (syncOffset stamp) := by
  intro t
  have ht : t = (s.syncLoaded.discStarted true).discOffset true (syncOffset stamp) := (if_neg h).trans (if_neg hnear)
  have hloaded := s.syncLoaded_frame
  have hcount := s.syncLoaded_counted
  generalize s.syncLoaded = u at ht hloaded hcount
  have hdisc := u.discStarted_disciplined true (syncOffset stamp)
  rw [← ht] at hdisc
  have hstart : Touches [.reg .iSYNC_STATE, .reg .iSYNC_RUN] u (u.discStarted true) :=
    .ite (State.setReg_touches (by decide) (State.setReg_touches (by decide) (.refl _ _))) (.refl _ _)
  generalize u.discStarted true = v at ht hstart
  have hbefore := hloaded.append hstart
  rw [State.discOffset_eq, State.discActed_sync _ _ ((hbefore.reg _ _ (by decide) (by decide)).trans hsource)] at ht
  have hjudge : Touches State.discLocked_foot v.slew t := ht ▸ v.slew.discJudged_frame true (syncOffset stamp)
  have hslew := v.slew_frame
  refine ⟨?_, ?_, ?_, hdisc.of_touches hloaded (by decide) (by decide) (by decide)⟩
  · unfold Counted
    rw [hjudge.reg _ _ (by decide) (by decide), hslew.reg _ _ (by decide) (by decide),
      hstart.reg _ _ (by decide) (by decide)]
    exact hcount
  · rw [(hjudge.time (by decide)).1, (hslew.time (by decide)).1, (hbefore.time (by decide)).1]
  · have hkept := v.slew_kept.of_touches hbefore (by decide) (by decide)
    unfold SlewKept State.regInt at hkept ⊢
    rwa [hjudge.reg _ _ (by decide) (by decide)]

end

/-- The frame of the stamp and of an alignment that was armed (R369, R423). -/
def State.syncStamped_foot : List Part := .reg .TB_SYNC_TIME :: State.alignDividers_foot

section
variable (s : State) (stamp : Nat)

/-- The edge is stamped, and the alignment that it was armed for happens. -/
def State.syncStamped : State := (s.setReg .TB_SYNC_TIME 0 (stamp / 65536)).alignDividers

theorem State.syncStamped_frame : Touches State.syncStamped_foot s (s.syncStamped stamp) :=
  State.alignDividers_touches (by decide) (State.setReg_touches (by decide) (.refl _ s))

/-- An alignment that is armed happens once and is counted. -/
theorem State.alignDividers_counted : s.alignDividers.reg .CK_SYNC_ARM 0 = 0 ∧
    Counted s s.alignDividers .CK_SYNC_COUNT 0 (if s.reg .CK_SYNC_ARM 0 = 0 then 0 else 1) := by
  unfold State.alignDividers Counted
  split
  case isTrue h => exact ⟨h, (s.reg_mod ..).symm⟩
  case isFalse h => simp [State.reg_bump]

theorem State.syncStamped_spec :
    let u := s.syncStamped stamp
    u.Holds .TB_SYNC_TIME 0 (stamp / 65536) ∧ u.reg .CK_SYNC_ARM 0 = 0 ∧
      Counted s u .CK_SYNC_COUNT 0 (if s.reg .CK_SYNC_ARM 0 = 0 then 0 else 1) := by
  let v := s.setReg .TB_SYNC_TIME 0 (stamp / 65536)
  have hwrite : Touches [.reg .TB_SYNC_TIME] s v := State.setReg_touches (by decide) (.refl _ s)
  have halign : Touches State.alignDividers_foot v v.alignDividers :=
    State.alignDividers_touches (fun _ h => h) (.refl _ v)
  obtain ⟨harm, hcount⟩ := v.alignDividers_counted
  rw [hwrite.reg .CK_SYNC_ARM _ (by decide) (by decide)] at hcount
  refine ⟨?_, harm, hcount.of_touches hwrite (by decide) (by decide)⟩
  exact (halign.reg .TB_SYNC_TIME 0 (by decide) (by decide)).trans (State.setReg_reg_self ..)

/-- Under SYNC_IN a stamped edge is judged as a whole second. -/
theorem exec_syncInEdge : exec (.syncInEdge stamp) s = .next ((s.syncStamped stamp).cond
    ((s.syncStamped stamp).reg .TB_SOURCE 0 == 1) (·.syncSecond stamp)) := rfl

end

/-- SYNC_IN_EDGE (R369, R423); that the first edge moves TB_SYNC_LOAD on too is the model's choice (log entry 58). -/
theorem syncInEdge_completes (stamp : Nat) (s : State) :
    let near := syncOffset stamp
    ∃ t, exec (.syncInEdge stamp) s = .next t ∧ Touches Changes.syncInEdge s t ∧
      t.Holds .TB_SYNC_TIME 0 (stamp / 65536) ∧ t.reg .CK_SYNC_ARM 0 = 0 ∧
      Counted s t .CK_SYNC_COUNT 0 (if s.reg .CK_SYNC_ARM 0 = 0 then 0 else 1) ∧
      if s.reg .TB_SOURCE 0 ≠ 1 then t.tb = s.tb ∧ t.reg .iSYNC_STATE 0 = s.reg .iSYNC_STATE 0
      else if s.reg .iSYNC_FIRST 0 = 1 then
        t.tb = s.stepped (((s.reg .TB_SYNC_LOAD 0 * 65536 : Nat) - (stamp : Int)) * 2 ^ 32) ∧
        t.reg .iSYNC_FIRST 0 = 0 ∧ t.reg .iSYNC_STATE 0 = 1 ∧ Counted s t .TB_SYNC_LOAD 0 1000000000
      else if 100000 * 65536 < near.natAbs then Counted s t .TB_SYNC_REJECT 0 1 ∧ t.tb = s.tb ∧
        t.reg .TB_SYNC_LOAD 0 = s.reg .TB_SYNC_LOAD 0 ∧ t.reg .iSYNC_STATE 0 = s.reg .iSYNC_STATE 0
      else Counted s t .TB_SYNC_LOAD 0 1000000000 ∧ t.tb = s.tb ∧ SlewKept s t ∧ Disciplined s t true near := by
  intro near
  have hstamp := s.syncStamped_frame stamp
  obtain ⟨htime, harm, hcount⟩ := s.syncStamped_spec stamp
  have hexec := exec_syncInEdge s stamp
  generalize s.syncStamped stamp = u at hstamp htime harm hcount hexec
  have hsource : u.reg .TB_SOURCE 0 = s.reg .TB_SOURCE 0 := hstamp.reg _ _ (by decide) (by decide)
  have hfirst : u.reg .iSYNC_FIRST 0 = s.reg .iSYNC_FIRST 0 := hstamp.reg _ _ (by decide) (by decide)
  have hload : u.reg .TB_SYNC_LOAD 0 = s.reg .TB_SYNC_LOAD 0 := hstamp.reg _ _ (by decide) (by decide)
  have hstate : u.reg .iSYNC_STATE 0 = s.reg .iSYNC_STATE 0 := hstamp.reg _ _ (by decide) (by decide)
  have htb : u.tb = s.tb := (hstamp.time (by decide)).1
  have hsecond : Touches State.syncSecond_foot u (u.cond (u.reg .TB_SOURCE 0 == 1) (·.syncSecond stamp)) :=
    cond_touches (.refl _ u) fun _ hx => State.syncSecond_touches (fun _ h => h) hx
  refine completes_of_next hexec (execSyncInEdge_touches (by decide) (.refl _ s)) ⟨?_, ?_, ?_, ?_⟩
  · exact (hsecond.reg _ _ (by decide) (by decide)).trans htime
  · exact (hsecond.reg _ _ (by decide) (by decide)).trans harm
  · exact (hsecond.reg _ _ (by decide) (by decide)).trans hcount
  · rw [← hsource, ← hfirst]
    unfold State.cond
    split
    case isTrue hother => rw [if_neg (by simpa using hother)]; exact ⟨htb, hstate⟩
    case isFalse hsync =>
      have hone : u.reg .TB_SOURCE 0 = 1 := Decidable.not_not.1 hsync
      rw [if_pos (beq_iff_eq.2 hone)]
      split
      case isTrue hbegin =>
        obtain ⟨hset, hbegun, hacquires, hloaded⟩ := u.syncSecond_first stamp hbegin
        refine ⟨?_, hbegun, hacquires, hloaded.of_touches hstamp (by decide) (by decide)⟩
        rw [hset, hload, State.stepped, htb, State.stepped]
      case isFalse hlater =>
        split
        case isTrue hfar =>
          dsimp only
          rw [u.syncSecond_rejected stamp hlater hfar]
          have hreject : Counted u (u.bump .TB_SYNC_REJECT 0) .TB_SYNC_REJECT 0 1 := State.setReg_reg_self ..
          refine ⟨hreject.of_touches hstamp (by decide) (by decide), htb, ?_, ?_⟩
          · exact (State.setReg_reg_of_ne _ _ _ _ (by decide)).trans hload
          · exact (State.setReg_reg_of_ne _ _ _ _ (by decide)).trans hstate
        case isFalse hnear =>
          obtain ⟨hloaded, hkeeps, hslew, hdisc⟩ := u.syncSecond_accepted stamp hone hlater hnear
          exact ⟨hloaded.of_touches hstamp (by decide) (by decide), hkeeps.trans htb,
            hslew.of_touches hstamp (by decide) (by decide), hdisc.of_touches hstamp (by decide) (by decide) (by decide)⟩

/-! ## The other commands of the timebase -/

/-- SYNC_IN_HOLDOVER (R369). -/
theorem syncInHoldover_completes (s : State) :
    if s.reg .TB_SOURCE 0 = 1 ∧ (s.reg .iSYNC_STATE 0 = 1 ∨ s.reg .iSYNC_STATE 0 = 2) ∧
         s.reg .iSYNC_AT 0 + 3000000000 ≤ s.clock then
      ∃ t, exec .syncInHoldover s = .next t ∧ Touches Changes.syncInHoldover s t ∧
        t.reg .iSYNC_STATE 0 = 3 ∧ t.tb = s.tb
    else exec .syncInHoldover s = .next s := by
  have hhold : Touches State.discHoldover_foot s (s.discHoldover true) :=
    State.discHoldover_touches (fun _ h => h) (.refl _ s)
  refine completes_if rfl (execSyncInHoldover_touches (by decide) (.refl _ s)) fun _ => ⟨?_, ?_⟩
  · exact (Prod.mk.inj (State.putDisc_disc _ true (st := 3) (by decide) (by decide))).1
  · exact (hhold.time (by decide)).1

section
variable (s : State)

/-- A source is selected, and PTP_STATE shows the servo where it is PTP. -/
def State.sourceTaken (v : Nat) : State := (s.putReg .TB_SOURCE 0 v).showServo

/-- SYNC_IN waits for its first edge. -/
def State.syncAwaited : State :=
  ((s.setReg .iSYNC_FIRST 0 1).setReg .iSYNC_STATE 0 0).setReg .iSYNC_RUN 0 0

/-- SYNC_IN begins anew where it is newly selected (R356). -/
theorem exec_tbSourceWrite (acc : Accessor) (v : BitVec 8) : exec (.tbSourceWrite acc v) s =
    .next (writeParam s acc .TB_SOURCE 0 v.toNat fun t =>
      (t.sourceTaken v.toNat).cond (t.reg .TB_SOURCE 0 != v.toNat && v.toNat == 1) State.syncAwaited) := rfl

theorem State.sourceTaken_frame (v : Nat) :
    Touches [.reg .TB_SOURCE, .fld .keepPending, .reg .PTP_STATE] s (s.sourceTaken v) :=
  State.setReg_touches (by decide) (State.putReg_touches (by decide) (by decide) (.refl _ s))

variable {v : Nat} (hv : v < 2 ^ 8)
include hv

theorem State.putReg_source : (s.putReg .TB_SOURCE 0 v).reg .TB_SOURCE 0 = v := by
  rw [State.reg_putReg, if_pos ⟨rfl, rfl⟩]
  exact Nat.mod_eq_of_lt hv

theorem State.sourceTaken_source : (s.sourceTaken v).reg .TB_SOURCE 0 = v := by
  rw [State.sourceTaken, (State.showServo_shows _).reg _ _ (by decide) (by decide), s.putReg_source hv]

theorem State.sourceTaken_shows : (s.sourceTaken v).reg .PTP_STATE 0 =
    if v = 0 then s.reg .iSERVO 0 % 2 ^ Reg.PTP_STATE.width else 0 := by
  have hservo : (s.putReg .TB_SOURCE 0 v).reg .iSERVO 0 = s.reg .iSERVO 0 :=
    (State.reg_putReg ..).trans (if_neg (by decide))
  rw [State.sourceTaken, State.showServo, State.setReg_reg_self, s.putReg_source hv, hservo]
  split
  · rfl
  · rfl

end

/-- TB_SOURCE_WRITE (R356): PTP_STATE is FREE under any other source than PTP by the model's choice (log entry 58). -/
theorem tbSourceWrite_completes (acc : Accessor) (v : BitVec 8) (s : State) (hp : s.Passes acc .TB_SOURCE 0 v.toNat) :
    ∃ t, exec (.tbSourceWrite acc v) s = .next t ∧ Touches Changes.tbSourceWrite s t ∧
      t.status = 0 ∧ t.reg .TB_SOURCE 0 = v.toNat ∧
      t.reg .PTP_STATE 0 = (if v.toNat = 0 then s.reg .iSERVO 0 % 2 ^ Reg.PTP_STATE.width else 0) ∧
      if s.reg .TB_SOURCE 0 ≠ v.toNat ∧ v.toNat = 1 then
        t.reg .iSYNC_FIRST 0 = 1 ∧ t.reg .iSYNC_STATE 0 = 0 ∧ t.reg .iSYNC_RUN 0 = 0
      else t.reg .iSYNC_FIRST 0 = s.reg .iSYNC_FIRST 0 ∧ t.reg .iSYNC_STATE 0 = s.reg .iSYNC_STATE 0 := by
  have hv : v.toNat < 2 ^ 8 := v.isLt
  refine write_completes (exec_tbSourceWrite s acc v) hp (execTbSourceWrite_touches (by decide) (.refl _ s)) ?_
  have hsource := (s.setStatus 0).sourceTaken_source hv
  have hshows := (s.setStatus 0).sourceTaken_shows hv
  have hframe := (s.setStatus 0).sourceTaken_frame v.toNat
  have hstatus : ((s.setStatus 0).sourceTaken v.toNat).status = 0 := hframe.fld .status (by decide) (by decide)
  have hfirst := hframe.reg .iSYNC_FIRST 0 (by decide) (by decide)
  have hstate := hframe.reg .iSYNC_STATE 0 (by decide) (by decide)
  generalize (s.setStatus 0).sourceTaken v.toNat = u at hsource hshows hstatus hfirst hstate
  by_cases hnew : s.reg .TB_SOURCE 0 ≠ v.toNat ∧ v.toNat = 1
  · have hcond : u.cond ((s.setStatus 0).reg .TB_SOURCE 0 != v.toNat && v.toNat == 1) State.syncAwaited =
        u.syncAwaited := if_pos (by simpa using hnew)
    have hwidth : Reg.iSYNC_FIRST.width = 8 := rfl
    rw [hcond, if_pos hnew]
    simp [State.syncAwaited, hsource, hshows, hstatus, hwidth]
  · have hcond : u.cond ((s.setStatus 0).reg .TB_SOURCE 0 != v.toNat && v.toNat == 1) State.syncAwaited = u :=
      if_neg (by simpa using hnew)
    rw [hcond, if_neg hnew]
    simp [hsource, hshows, hstatus, hfirst, hstate]

/-- TB_SET (R355, R356). -/
theorem tbSet_completes (acc : Accessor) (time : BitVec 64) (s : State) (hp : s.Passes acc .TB_SET 0 time.toNat) :
    if s.reg .TB_SOURCE 0 = 2 then
      ∃ t, exec (.tbSet acc time) s = .next t ∧ Touches Changes.tbSet s t ∧
        t.status = 0 ∧ t.tb = time.toNat * 2 ^ 48 ∧ Counted s t .TB_STEPS 0 1
    else exec (.tbSet acc time) s = .next (s.answered acc .TB_SET 0 Code.tbBusy) := by
  split
  case isFalse hbusy => exact write_refused rfl hp (if_neg hbusy)
  case isTrue hfree =>
    refine write_completes rfl hp (execTbSet_touches (by decide) (.refl _ s)) ?_
    rw [if_pos (by exact hfree)]
    have hstep := (s.setStatus 0).stepTime_frame ((time.toNat * 2 ^ 48 : Nat) - ((s.setStatus 0).tb : Int))
    refine ⟨?_, ?_, ?_⟩
    · rw [State.noteAccess_status]
      exact hstep.fld .status (by decide) (by decide)
    · rw [State.noteAccess_tb, State.stepTime_tb]
      exact State.stepped_to _ (by have := time.isLt; omega)
    · rw [Counted, State.noteAccess_reg _ _ _ _ (by decide) (by decide)]
      exact State.stepTime_counted ..

/-- TB_ADJ (R354, R356). -/
theorem tbAdj_completes (acc : Accessor) (rate : BitVec 32) (s : State) (hp : s.Passes acc .TB_ADJ 0 rate.toNat) :
    if s.reg .TB_SOURCE 0 = 2 then
      ∃ t, exec (.tbAdj acc rate) s = .next t ∧ Touches Changes.tbAdj s t ∧
        t.status = 0 ∧
        t.regInt .TB_RATE 0 = clampInt (-2048000000) 2048000000 rate.toInt
    else exec (.tbAdj acc rate) s = .next (s.answered acc .TB_ADJ 0 Code.tbBusy) := by
  split
  case isFalse hbusy => exact write_refused rfl hp (if_neg hbusy)
  case isTrue hfree =>
    refine write_completes rfl hp (execTbAdj_touches (by decide) (.refl _ s)) ?_
    rw [if_pos (by exact hfree)]
    refine ⟨?_, ?_⟩
    · rw [State.noteAccess_status]
      exact ((s.setStatus 0).setRate_frame rate.toInt).fld .status (by decide) (by decide)
    · rw [State.regInt, State.noteAccess_reg _ _ _ _ (by decide) (by decide)]
      exact State.setRate_rate ..

/-! ## The commands of a frame generator -/

/-- LAST_RESYNC (R211). -/
theorem lastResync_completes (acc : Accessor) (g : Gen) (s : State) (hp : s.Passes acc .LAST_RESYNC g.val 1) :
    ∃ t, exec (.lastResync acc g) s = .next t ∧
      Touches (regs [.iG_RESYNC, .iACC_STATUS, .iACC_ID] ++ flds [.status]) s t ∧
      t.status = 0 ∧ t.reg .iG_RESYNC g.val = 1 ∧
      (∀ j, g.val ≠ j → t.reg .iG_RESYNC j = s.reg .iG_RESYNC j) := by
  have hwidth : 1 % 2 ^ Reg.iG_RESYNC.width = 1 := by decide
  refine write_completes rfl hp (execLastResync_touches (by decide) (.refl _ s)) ⟨by simp, by simp [hwidth], ?_⟩
  intro j hj
  simp [hj]

section
variable {s : State} {acc : Accessor} {g v : Nat}

/-- A rate without users waits for the generator's boundary (R214). -/
theorem State.stageWrite_rate_unused (hm : s.ownMask .LAST_RATE g = 0) :
    s.stageWrite acc .LAST_RATE g v = s.setReg .iG_PENDRATE g v :=
  if_pos ⟨rfl, hm⟩

/-- With two users a rate is refused outside a group (R214). -/
theorem State.stageWrite_rate_shared (hm : s.ownMask .LAST_RATE g = 3) (hg : s.stagingGroup (ownerOf acc) = none) :
    s.stageWrite acc .LAST_RATE g v = s.refuse Code.lastShared := by
  unfold State.stageWrite
  simp [hm, hg]

/-- A rate with users is staged or refused (R192, R214). -/
theorem State.stageWrite_rate_used (hm : s.ownMask .LAST_RATE g ≠ 0) :
    Touches [.fld .status, .fld .staged] s (s.stageWrite acc .LAST_RATE g v) := by
  have hrefuse (code : Nat) : Touches [.fld .status, .fld .staged] s (s.refuse code) :=
    State.refuse_touches (by decide) (.refl _ s)
  have hstage (e : Staged) : Touches [.fld .status, .fld .staged] s (s.stage e) :=
    State.stage_touches (by decide) (.refl _ s)
  unfold State.stageWrite
  dsimp only
  rw [if_neg fun h => hm h.2]
  refine .ite (hrefuse _) ?_
  split
  · exact .ite (hrefuse _) (.ite (hrefuse _) (hstage _))
  · exact .ite (hrefuse _) (hstage _)

end

/-- LAST_RATE_WRITE (R214). -/
theorem lastRateWrite_completes (acc : Accessor) (g : Gen) (rate : BitVec 8) (s : State)
    (hp : s.Passes acc .LAST_RATE g.val rate.toNat) :
    let m := s.ownMask .LAST_RATE g.val
    ∃ t, exec (.lastRateWrite acc g rate) s = .next t ∧ Touches Changes.lastRateWrite s t ∧
      (m = 0 → t.status = 0 ∧ t.reg .iG_PENDRATE g.val = rate.toNat) ∧
      (m = 3 → s.stagingGroup (ownerOf acc) = none → t = s.answered acc .LAST_RATE g.val Code.lastShared) ∧
      (m ≠ 0 → t.reg .iG_PENDRATE g.val = s.reg .iG_PENDRATE g.val) := by
  intro m
  have hmask : (s.setStatus 0).ownMask .LAST_RATE g.val = m := rfl
  refine write_completes rfl hp (execLastRateWrite_touches (by decide) (.refl _ s)) ⟨fun hm => ?_, fun hm hg => ?_,
    fun hm => ?_⟩
  · rw [hmask, hm, State.stageWrite_rate_unused (hmask.trans hm)]
    have hnext : Touches State.refreshNext_foot ((s.setStatus 0).setReg .iG_PENDRATE g.val rate.toNat)
        (((s.setStatus 0).setReg .iG_PENDRATE g.val rate.toNat).cond (0 == 0) (·.refreshNext g.val)) :=
      cond_touches (.refl _ _) fun _ hx => State.refreshNext_touches (fun _ h => h) hx
    refine ⟨?_, ?_⟩
    · rw [State.noteAccess_status]
      exact hnext.fld .status (by decide) (by decide)
    · rw [State.noteAccess_reg _ _ _ _ (by decide) (by decide), hnext.reg _ _ (by decide) (by decide),
        State.setReg_reg_self]
      exact Nat.mod_eq_of_lt rate.isLt
  · rw [hmask, hm, State.stageWrite_rate_shared (hmask.trans hm) hg]
    rfl
  · have hused := (s.setStatus 0).stageWrite_rate_used (acc := acc) (v := rate.toNat)
      fun h => hm (hmask.symm.trans h)
    have hcond (u : State) : u.cond (m == 0) (·.refreshNext g.val) = u := if_neg (by simpa using hm)
    rw [State.noteAccess_reg _ _ _ _ (by decide) (by decide), hmask, hcond, hused.reg _ _ (by decide) (by decide)]
    rfl

/-- Settles O44: each command by its own lemma. -/
theorem timebase : Obligations.Timebase :=
  ⟨tbSourceWrite_completes, tbSet_completes, tbAdj_completes, syncInEdge_completes, syncInHoldover_completes,
    lastResync_completes, lastRateWrite_completes⟩

end Sys2Proof.Machine
end

section
/-! What every step keeps (95_what_each_step_holds.md): each command goes on, leaves the queue to the step and keeps the
canonical form of the registers, the central store and the Keeper; and so does a cycle of the timebase. -/
namespace Sys2Proof.Machine

/-- Every command goes on, keeping the form and the queue. The cases are those of the dispatch; each holds by the lemma
of Laws/ that says what the command's meaning touches. -/
theorem exec_keeps (c : Instr) (s : State) : OutKeeps s (exec c s) := by
  cases c with
  | frameBoundary _ => exact (execFrameBoundary_touches (fun _ h => h) (.refl _ s)).keeps
  | frameRecordPublish _ => exact (execFrameRecordPublish_touches (fun _ h => h) (.refl _ s)).keeps
  | commitDeadline _ _ => exact (execCommitDeadline_touches (fun _ h => h) (.refl _ s)).keeps
  | bandDispatch _ => exact (execBandDispatch_touches (fun _ h => h) (.refl _ s)).keeps
  | tileAssign => exact (execTileAssign_touches (fun _ h => h) (.refl _ s)).keeps
  | tileComplete _ _ _ => exact (execTileComplete_touches (fun _ h => h) (.refl _ s)).keeps
  | slotRelease _ _ => exact (execSlotRelease_touches (fun _ h => h) (.refl _ s)).keeps
  | rayLineStart _ _ => exact (execRayLineStart_touches (fun _ h => h) (.refl _ s)).keeps
  | tapRowCoded _ _ _ => exact (execTapRowCoded_touches (fun _ h => h) (.refl _ s)).keeps
  | tapFrameHeaderWrite _ _ _ => exact (execTapFrameHeaderWrite_touches (fun _ h => h) (.refl _ s)).keeps
  | memoryRead _ _ _ _ _ => exact (execMemoryRead_touches (fun _ h => h) (.refl _ s)).keeps
  | memoryWrite _ _ _ _ _ => exact (execMemoryWrite_touches (fun _ h => h) (.refl _ s)).keeps
  | correctedWriteBack _ => exact (execCorrectedWriteBack_touches (fun _ h => h) (.refl _ s)).keeps
  | pipFreezeWatchdog => exact (execPipFreezeWatchdog_touches (fun _ h => h) (.refl _ s)).keeps
  | powerGrantRequest _ => exact (execPowerGrantRequest_touches (fun _ h => h) (.refl _ s)).keeps
  | powerGrant => exact (execPowerGrant_touches (fun _ h => h) (.refl _ s)).keeps
  | powerGrantReturn _ => exact (execPowerGrantReturn_touches (fun _ h => h) (.refl _ s)).keeps
  | pwCeilingWrite _ _ => exact (execPwCeilingWrite_touches (fun _ h => h) (.refl _ s)).keeps
  | calLoadValidate _ _ => exact (execCalLoadValidate_touches (fun _ h => h) (.refl _ s)).keeps
  | calLoadEmpty _ _ => exact (execCalLoadEmpty_touches (fun _ h => h) (.refl _ s)).keeps
  | calValidationDone _ _ => exact (execCalValidationDone_touches (fun _ h => h) (.refl _ s)).keeps
  | calSlotWrite _ _ _ _ => exact (execCalSlotWrite_touches (fun _ h => h) (.refl _ s)).keeps
  | lutWrite _ _ _ => exact (execLutWrite_touches (fun _ h => h) (.refl _ s)).keeps
  | pgLoadVerify _ _ => exact (execPgLoadVerify_touches (fun _ h => h) (.refl _ s)).keeps
  | pgLoadEmpty _ _ => exact (execPgLoadEmpty_touches (fun _ h => h) (.refl _ s)).keeps
  | pgLoadDone _ _ _ _ => exact (execPgLoadDone_touches (fun _ h => h) (.refl _ s)).keeps
  | hzProgTarget _ _ => exact (execHzProgTarget_touches (fun _ h => h) (.refl _ s)).keeps
  | clusterLoadDone _ _ => exact (execClusterLoadDone_touches (fun _ h => h) (.refl _ s)).keeps
  | engineFaultFence _ _ _ => exact (execEngineFaultFence_touches (fun _ h => h) (.refl _ s)).keeps
  | hogelOverrun _ _ _ => exact (execHogelOverrun_touches (fun _ h => h) (.refl _ s)).keeps
  | clusterFaultFence _ _ => exact (execClusterFaultFence_touches (fun _ h => h) (.refl _ s)).keeps
  | arrayParamWrite _ _ _ => exact (execArrayParamWrite_touches (fun _ h => h) (.refl _ s)).keeps
  | clFaultClear _ _ _ => exact (execClFaultClear_touches (fun _ h => h) (.refl _ s)).keeps
  | selfTestDone _ _ => exact (execSelfTestDone_touches (fun _ h => h) (.refl _ s)).keeps
  | clusterWakeDone _ => exact (execClusterWakeDone_touches (fun _ h => h) (.refl _ s)).keeps
  | gcTailWrite _ _ _ => exact (execGcTailWrite_touches (fun _ h => h) (.refl _ s)).keeps
  | gcJobStart _ _ => exact (execGcJobStart_touches (fun _ h => h) (.refl _ s)).keeps
  | gcJobRun _ => exact (execGcJobRun_touches (fun _ h => h) (.refl _ s)).keeps
  | gcJobEnd _ _ => exact (execGcJobEnd_touches (fun _ h => h) (.refl _ s)).keeps
  | gcEnableDisable _ _ _ => exact (execGcEnableDisable_touches (fun _ h => h) (.refl _ s)).keeps
  | gcEnableResume _ _ => exact (execGcEnableResume_touches (fun _ h => h) (.refl _ s)).keeps
  | gcRingWrite _ _ _ _ => exact (execGcRingWrite_touches (fun _ h => h) (.refl _ s)).keeps
  | codecAssignWrite _ _ _ => exact (execCodecAssignWrite_touches (fun _ h => h) (.refl _ s)).keeps
  | ingestTileDecoded _ _ => exact (execIngestTileDecoded_touches (fun _ h => h) (.refl _ s)).keeps
  | standingGrantRequest _ => exact (execStandingGrantRequest_touches (fun _ h => h) (.refl _ s)).keeps
  | streamTilesPacket _ _ => exact (execStreamTilesPacket_touches (fun _ h => h) (.refl _ s)).keeps
  | streamEndPacket _ _ => exact (execStreamEndPacket_touches (fun _ h => h) (.refl _ s)).keeps
  | strRingTailWrite _ _ _ => exact (execStrRingTailWrite_touches (fun _ h => h) (.refl _ s)).keeps
  | streamPacketFetch _ _ _ _ => exact (execStreamPacketFetch_touches (fun _ h => h) (.refl _ s)).keeps
  | bufCtrlOpen _ _ => exact (execBufCtrlOpen_touches (fun _ h => h) (.refl _ s)).keeps
  | bufCtrlSeal _ _ => exact (execBufCtrlSeal_touches (fun _ h => h) (.refl _ s)).keeps
  | bufCtrlDiscard _ _ => exact (execBufCtrlDiscard_touches (fun _ h => h) (.refl _ s)).keeps
  | bufParamWrite _ _ _ _ => exact (execBufParamWrite_touches (fun _ h => h) (.refl _ s)).keeps
  | sealComplete _ _ => exact (execSealComplete_touches (fun _ h => h) (.refl _ s)).keeps
  | cgCtrlOpen _ _ => exact (execCgCtrlOpen_touches (fun _ h => h) (.refl _ s)).keeps
  | cgCtrlGo _ _ => exact (execCgCtrlGo_touches (fun _ h => h) (.refl _ s)).keeps
  | cgCtrlAbort _ _ => exact (execCgCtrlAbort_touches (fun _ h => h) (.refl _ s)).keeps
  | cgParamWrite _ _ _ _ => exact (execCgParamWrite_touches (fun _ h => h) (.refl _ s)).keeps
  | cueLoadValidate _ _ => exact (execCueLoadValidate_touches (fun _ h => h) (.refl _ s)).keeps
  | cueLoadEmpty _ _ => exact (execCueLoadEmpty_touches (fun _ h => h) (.refl _ s)).keeps
  | cueValidationDone _ _ => exact (execCueValidationDone_touches (fun _ h => h) (.refl _ s)).keeps
  | cueParamWrite _ _ _ _ => exact (execCueParamWrite_touches (fun _ h => h) (.refl _ s)).keeps
  | pbCtrlArm _ _ => exact (execPbCtrlArm_touches (fun _ h => h) (.refl _ s)).keeps
  | pbCtrlStop _ _ => exact (execPbCtrlStop_touches (fun _ h => h) (.refl _ s)).keeps
  | lastResync _ _ => exact (execLastResync_touches (fun _ h => h) (.refl _ s)).keeps
  | lastRateWrite _ _ _ => exact (execLastRateWrite_touches (fun _ h => h) (.refl _ s)).keeps
  | soEnableDisable _ _ => exact (execSoEnableDisable_touches (fun _ h => h) (.refl _ s)).keeps
  | soEnableResume _ _ => exact (execSoEnableResume_touches (fun _ h => h) (.refl _ s)).keeps
  | tapTailWrite _ _ _ _ => exact (execTapTailWrite_touches (fun _ h => h) (.refl _ s)).keeps
  | tapParamWrite _ _ _ _ _ => exact (execTapParamWrite_touches (fun _ h => h) (.refl _ s)).keeps
  | receiverDetectPulse _ _ _ => exact (execReceiverDetectPulse_touches (fun _ h => h) (.refl _ s)).keeps
  | laneTimeout _ _ => exact (execLaneTimeout_touches (fun _ h => h) (.refl _ s)).keeps
  | laneActiveEntry _ _ => exact (execLaneActiveEntry_touches (fun _ h => h) (.refl _ s)).keeps
  | sparedAttempt _ _ => exact (execSparedAttempt_touches (fun _ h => h) (.refl _ s)).keeps
  | caps _ _ _ => exact (execCaps_touches (fun _ h => h) (.refl _ s)).keeps
  | laneStatus _ _ _ => exact (execLaneStatus_touches (fun _ h => h) (.refl _ s)).keeps
  | eqReq _ _ _ => exact (execEqReq_touches (fun _ h => h) (.refl _ s)).keeps
  | eqApply _ _ => exact (execEqApply_touches (fun _ h => h) (.refl _ s)).keeps
  | eqDone _ _ _ => exact (execEqDone_touches (fun _ h => h) (.refl _ s)).keeps
  | eqNegotiationTimeout _ _ => exact (execEqNegotiationTimeout_touches (fun _ h => h) (.refl _ s)).keeps
  | spareReq _ _ _ => exact (execSpareReq_touches (fun _ h => h) (.refl _ s)).keeps
  | spareAck _ _ _ => exact (execSpareAck_touches (fun _ h => h) (.refl _ s)).keeps
  | sensors _ _ _ => exact (execSensors_touches (fun _ h => h) (.refl _ s)).keeps
  | calBegin _ _ _ => exact (execCalBegin_touches (fun _ h => h) (.refl _ s)).keeps
  | calData _ _ _ _ => exact (execCalData_touches (fun _ h => h) (.refl _ s)).keeps
  | calEnd _ _ _ _ => exact (execCalEnd_touches (fun _ h => h) (.refl _ s)).keeps
  | calNone _ _ _ => exact (execCalNone_touches (fun _ h => h) (.refl _ s)).keeps
  | prbsReport _ _ _ => exact (execPrbsReport_touches (fun _ h => h) (.refl _ s)).keeps
  | returnLaneLock _ _ _ => exact (execReturnLaneLock_touches (fun _ h => h) (.refl _ s)).keeps
  | returnLaneUnlock _ _ _ => exact (execReturnLaneUnlock_touches (fun _ h => h) (.refl _ s)).keeps
  | capsHoldExpire _ => exact (execCapsHoldExpire_touches (fun _ h => h) (.refl _ s)).keeps
  | fwdMsgResend _ => exact (execFwdMsgResend_touches (fun _ h => h) (.refl _ s)).keeps
  | laneIdleEntry _ _ => exact (execLaneIdleEntry_touches (fun _ h => h) (.refl _ s)).keeps
  | blankIdleExit _ => exact (execBlankIdleExit_touches (fun _ h => h) (.refl _ s)).keeps
  | fastwakeDone _ _ => exact (execFastwakeDone_touches (fun _ h => h) (.refl _ s)).keeps
  | spareEffect _ _ => exact (execSpareEffect_touches (fun _ h => h) (.refl _ s)).keeps
  | spareAckTimeout _ _ => exact (execSpareAckTimeout_touches (fun _ h => h) (.refl _ s)).keeps
  | wlCtrlRetrain _ _ _ => exact (execWlCtrlRetrain_touches (fun _ h => h) (.refl _ s)).keeps
  | wlCtrlSpare _ _ _ => exact (execWlCtrlSpare_touches (fun _ h => h) (.refl _ s)).keeps
  | wlCtrlRetry _ _ _ => exact (execWlCtrlRetry_touches (fun _ h => h) (.refl _ s)).keeps
  | wlMapReset _ _ => exact (execWlMapReset_touches (fun _ h => h) (.refl _ s)).keeps
  | wlCalFetch _ _ _ => exact (execWlCalFetch_touches (fun _ h => h) (.refl _ s)).keeps
  | wlPrbsMode _ _ _ _ => exact (execWlPrbsMode_touches (fun _ h => h) (.refl _ s)).keeps
  | prbsStart _ _ => exact (execPrbsStart_touches (fun _ h => h) (.refl _ s)).keeps
  | wrPrbsMode _ _ _ _ => exact (execWrPrbsMode_touches (fun _ h => h) (.refl _ s)).keeps
  | refresh _ => exact (execRefresh_touches (fun _ h => h) (.refl _ s)).keeps
  | stackTempRead _ _ => exact (execStackTempRead_touches (fun _ h => h) (.refl _ s)).keeps
  | neighbourRefresh _ _ => exact (execNeighbourRefresh_touches (fun _ h => h) (.refl _ s)).keeps
  | retrainDue _ => exact (execRetrainDue_touches (fun _ h => h) (.refl _ s)).keeps
  | retrainPause _ _ _ _ _ _ _ => exact (execRetrainPause_touches (fun _ h => h) (.refl _ s)).keeps
  | chRetrainNow _ _ => exact (execChRetrainNow_touches (fun _ h => h) (.refl _ s)).keeps
  | msRetrainEnDisable _ => exact (execMsRetrainEnDisable_touches (fun _ h => h) (.refl _ s)).keeps
  | sweepBurst _ => exact (execSweepBurst_touches (fun _ h => h) (.refl _ s)).keeps
  | scrubBurst _ => exact (execScrubBurst_touches (fun _ h => h) (.refl _ s)).keeps
  | cacheScrub _ _ _ => exact (execCacheScrub_touches (fun _ h => h) (.refl _ s)).keeps
  | scEnableDisable _ _ => exact (execScEnableDisable_touches (fun _ h => h) (.refl _ s)).keeps
  | scEnableResume _ _ => exact (execScEnableResume_touches (fun _ h => h) (.refl _ s)).keeps
  | winApply _ => exact (execWinApply_touches (fun _ h => h) (.refl _ s)).keeps
  | msRelease _ _ => exact (execMsRelease_touches (fun _ h => h) (.refl _ s)).keeps
  | pnClear _ => exact (execPnClear_touches (fun _ h => h) (.refl _ s)).keeps
  | lcShDescWrite _ _ _ => exact (execLcShDescWrite_touches (fun _ h => h) (.refl _ s)).keeps
  | lcArm _ _ => exact (execLcArm_touches (fun _ h => h) (.refl _ s)).keeps
  | lcDisarm _ _ => exact (execLcDisarm_touches (fun _ h => h) (.refl _ s)).keeps
  | laceDescriptorStart _ _ => exact (execLaceDescriptorStart_touches (fun _ h => h) (.refl _ s)).keeps
  | laceBurst _ _ _ _ _ => exact (execLaceBurst_touches (fun _ h => h) (.refl _ s)).keeps
  | laceComplete _ _ => exact (execLaceComplete_touches (fun _ h => h) (.refl _ s)).keeps
  | laceHalf _ => exact (execLaceHalf_touches (fun _ h => h) (.refl _ s)).keeps
  | laceError _ _ => exact (execLaceError_touches (fun _ h => h) (.refl _ s)).keeps
  | laceBusError _ _ _ => exact (execLaceBusError_touches (fun _ h => h) (.refl _ s)).keeps
  | laceBusStopped => exact (execLaceBusStopped_touches (fun _ h => h) (.refl _ s)).keeps
  | lsBusClear _ => exact (execLsBusClear_touches (fun _ h => h) (.refl _ s)).keeps
  | lcCtrlResume _ _ => exact (execLcCtrlResume_touches (fun _ h => h) (.refl _ s)).keeps
  | lcCtrlAbandon _ _ => exact (execLcCtrlAbandon_touches (fun _ h => h) (.refl _ s)).keeps
  | lcEnableDisable _ _ => exact (execLcEnableDisable_touches (fun _ h => h) (.refl _ s)).keeps
  | lcEnableResume _ _ => exact (execLcEnableResume_touches (fun _ h => h) (.refl _ s)).keeps
  | skTailWrite _ _ _ => exact (execSkTailWrite_touches (fun _ h => h) (.refl _ s)).keeps
  | skJobStart _ _ => exact (execSkJobStart_touches (fun _ h => h) (.refl _ s)).keeps
  | skJobEnd _ _ => exact (execSkJobEnd_touches (fun _ h => h) (.refl _ s)).keeps
  | skEnableDisable _ _ _ => exact (execSkEnableDisable_touches (fun _ h => h) (.refl _ s)).keeps
  | skEnableResume _ _ => exact (execSkEnableResume_touches (fun _ h => h) (.refl _ s)).keeps
  | skRingWrite _ _ _ _ => exact (execSkRingWrite_touches (fun _ h => h) (.refl _ s)).keeps
  | ethFrameReceive _ _ _ _ _ _ _ _ => exact (execEthFrameReceive_touches (fun _ h => h) (.refl _ s)).keeps
  | ethModeWrite _ _ _ _ => exact (execEthModeWrite_touches (fun _ h => h) (.refl _ s)).keeps
  | linkUp _ _ _ => exact (execLinkUp_touches (fun _ h => h) (.refl _ s)).keeps
  | linkDown _ _ => exact (execLinkDown_touches (fun _ h => h) (.refl _ s)).keeps
  | rqParamWrite _ _ _ _ => exact (execRqParamWrite_touches (fun _ h => h) (.refl _ s)).keeps
  | ptpSync _ _ _ _ _ _ _ => exact (execPtpSync_touches (fun _ h => h) (.refl _ s)).keeps
  | ptpAnnounce _ _ => exact (execPtpAnnounce_touches (fun _ h => h) (.refl _ s)).keeps
  | ptpAnnounceTimeout _ => exact (execPtpAnnounceTimeout_touches (fun _ h => h) (.refl _ s)).keeps
  | ptpDelayResp _ _ _ _ _ _ => exact (execPtpDelayResp_touches (fun _ h => h) (.refl _ s)).keeps
  | ptpDelayReqSend _ => exact (execPtpDelayReqSend_touches (fun _ h => h) (.refl _ s)).keeps
  | pdelayReqSend _ _ => exact (execPdelayReqSend_touches (fun _ h => h) (.refl _ s)).keeps
  | pdelayReq _ _ _ _ _ _ => exact (execPdelayReq_touches (fun _ h => h) (.refl _ s)).keeps
  | pdelayResp _ _ _ _ _ => exact (execPdelayResp_touches (fun _ h => h) (.refl _ s)).keeps
  | ptpManagement _ _ _ => exact (execPtpManagement_touches (fun _ h => h) (.refl _ s)).keeps
  | tbSourceWrite _ _ => exact (execTbSourceWrite_touches (fun _ h => h) (.refl _ s)).keeps
  | tbSet _ _ => exact (execTbSet_touches (fun _ h => h) (.refl _ s)).keeps
  | tbAdj _ _ => exact (execTbAdj_touches (fun _ h => h) (.refl _ s)).keeps
  | syncInEdge _ => exact (execSyncInEdge_touches (fun _ h => h) (.refl _ s)).keeps
  | syncInHoldover => exact (execSyncInHoldover_touches (fun _ h => h) (.refl _ s)).keeps
  | eyeCtrlArm _ _ => exact (execEyeCtrlArm_touches (fun _ h => h) (.refl _ s)).keeps
  | eyeCtrlDisarm _ _ => exact (execEyeCtrlDisarm_touches (fun _ h => h) (.refl _ s)).keeps
  | eyeParamWrite _ _ _ _ => exact (execEyeParamWrite_touches (fun _ h => h) (.refl _ s)).keeps
  | eyeAssertEdge _ => exact (execEyeAssertEdge_touches (fun _ h => h) (.refl _ s)).keeps
  | eyePulseEnd _ => exact (execEyePulseEnd_touches (fun _ h => h) (.refl _ s)).keeps
  | captureEdge _ _ _ _ => exact (execCaptureEdge_touches (fun _ h => h) (.refl _ s)).keeps
  | capRead _ _ => exact (execCapRead_touches (fun _ h => h) (.refl _ s)).keeps
  | plovanOpen _ _ _ _ _ _ => exact (execPlovanOpen_touches (fun _ h => h) (.refl _ s)).keeps
  | plovanClose _ _ _ _ _ _ => exact (execPlovanClose_touches (fun _ h => h) (.refl _ s)).keeps
  | plovanKeepalive _ _ _ _ _ _ => exact (execPlovanKeepalive_touches (fun _ h => h) (.refl _ s)).keeps
  | plovanRead _ _ _ _ _ _ => exact (execPlovanRead_touches (fun _ h => h) (.refl _ s)).keeps
  | plovanWrite _ _ _ _ _ _ => exact (execPlovanWrite_touches (fun _ h => h) (.refl _ s)).keeps
  | plovanDescribe _ _ _ _ _ _ => exact (execPlovanDescribe_touches (fun _ h => h) (.refl _ s)).keeps
  | plovanSubscribe _ _ _ _ _ _ => exact (execPlovanSubscribe_touches (fun _ h => h) (.refl _ s)).keeps
  | plovanUnsubscribe _ _ _ _ _ _ => exact (execPlovanUnsubscribe_touches (fun _ h => h) (.refl _ s)).keeps
  | sessionTimeout _ => exact (execSessionTimeout_touches (fun _ h => h) (.refl _ s)).keeps
  | ssClose _ _ => exact (execSsClose_touches (fun _ h => h) (.refl _ s)).keeps
  | plvKeySet _ _ => exact (execPlvKeySet_touches (fun _ h => h) (.refl _ s)).keeps
  | windowRead _ _ _ => exact (execWindowRead_touches (fun _ h => h) (.refl _ s)).keeps
  | windowWrite _ _ _ _ => exact (execWindowWrite_touches (fun _ h => h) (.refl _ s)).keeps
  | latchWrite _ _ _ _ => exact (execLatchWrite_touches (fun _ h => h) (.refl _ s)).keeps
  | parameterWrite _ _ _ _ => exact (execParameterWrite_touches (fun _ h => h) (.refl _ s)).keeps
  | keepWrite => exact (execKeepWrite_touches (fun _ h => h) (.refl _ s)).keeps
  | keepRetry => exact (execKeepRetry_touches (fun _ h => h) (.refl _ s)).keeps
  | nqSignal _ => exact (execNqSignal_touches (fun _ h => h) (.refl _ s)).keeps
  | nqRead _ _ => exact (execNqRead_touches (fun _ h => h) (.refl _ s)).keeps
  | nqModeWrite _ _ _ => exact (execNqModeWrite_touches (fun _ h => h) (.refl _ s)).keeps
  | odFactory _ => exact (execOdFactory_touches (fun _ h => h) (.refl _ s)).keeps
  | refclkLoss => exact (execRefclkLoss_touches (fun _ h => h) (.refl _ s)).keeps
  | refclkReturn => exact (execRefclkReturn_touches (fun _ h => h) (.refl _ s)).keeps
  | backupPeriodMeasure _ => exact (execBackupPeriodMeasure_touches (fun _ h => h) (.refl _ s)).keeps
  | vcoSettled _ => exact (execVcoSettled_touches (fun _ h => h) (.refl _ s)).keeps
  | bandSearchDone _ _ => exact (execBandSearchDone_touches (fun _ h => h) (.refl _ s)).keeps
  | pllLocked _ => exact (execPllLocked_touches (fun _ h => h) (.refl _ s)).keeps
  | acquireTimeout _ => exact (execAcquireTimeout_touches (fun _ h => h) (.refl _ s)).keeps
  | pllRetry _ => exact (execPllRetry_touches (fun _ h => h) (.refl _ s)).keeps
  | pllUnlock _ => exact (execPllUnlock_touches (fun _ h => h) (.refl _ s)).keeps
  | ckMarginWrite _ _ _ => exact (execCkMarginWrite_touches (fun _ h => h) (.refl _ s)).keeps
  | ckRelock _ _ => exact (execCkRelock_touches (fun _ h => h) (.refl _ s)).keeps
  | sscRampEnd _ => exact (execSscRampEnd_touches (fun _ h => h) (.refl _ s)).keeps
  | ckSyncArm _ => exact (execCkSyncArm_touches (fun _ h => h) (.refl _ s)).keeps
  | thermalSample die diodes rails =>
    exact (execThermalSample_touches (die := die) (diodes := diodes) (rails := rails) (fun _ h => h) (.refl _ s)).keeps
  | thermalGraceExpire => exact (execThermalGraceExpire_touches (fun _ h => h) (.refl _ s)).keeps
  | thStageMaxWrite _ _ => exact (execThStageMaxWrite_touches (fun _ h => h) (.refl _ s)).keeps
  | thShutWrite _ _ _ => exact (execThShutWrite_touches (fun _ h => h) (.refl _ s)).keeps
  | hardwareShutdown => exact (execHardwareShutdown_touches (fun _ h => h) (.refl _ s)).keeps
  | thermalRestart => exact (execThermalRestart_touches (fun _ h => h) (.refl _ s)).keeps
  | keeperWriteStart _ => exact (execKeeperWriteStart_touches (fun _ h => h) (.refl _ s)).keeps
  | keeperWriteDone _ => exact (execKeeperWriteDone_touches (fun _ h => h) (.refl _ s)).keeps
  | triwordVote _ => exact (execTriwordVote_touches (fun _ h => h) (.refl _ s)).keeps
  | keeperScrub _ => exact (execKeeperScrub_touches (fun _ h => h) (.refl _ s)).keeps
  | kpProtectWrite _ _ => exact (execKpProtectWrite_touches (fun _ h => h) (.refl _ s)).keeps
  | insoleUpdateStart => exact (execInsoleUpdateStart_touches (fun _ h => h) (.refl _ s)).keeps
  | insoleFrame => exact (execInsoleFrame_touches (fun _ h => h) (.refl _ s)).keeps
  | insoleUpdateEnd => exact (execInsoleUpdateEnd_touches (fun _ h => h) (.refl _ s)).keeps
  | insoleImageWrite _ _ => exact (execInsoleImageWrite_touches (fun _ h => h) (.refl _ s)).keeps
  | pwrFailLow => exact (execPwrFailLow_touches (fun _ h => h) (.refl _ s)).keeps
  | insEnableDisable _ => exact (execInsEnableDisable_touches (fun _ h => h) (.refl _ s)).keeps
  | insEnableResume _ => exact (execInsEnableResume_touches (fun _ h => h) (.refl _ s)).keeps
  | seamLoopSample _ _ => exact (execSeamLoopSample_touches (fun _ h => h) (.refl _ s)).keeps
  | smClear _ _ => exact (execSmClear_touches (fun _ h => h) (.refl _ s)).keeps
  | smPolicyWrite _ _ _ => exact (execSmPolicyWrite_touches (fun _ h => h) (.refl _ s)).keeps
  | smEnableWrite _ _ _ => exact (execSmEnableWrite_touches (fun _ h => h) (.refl _ s)).keeps
  | powerReset _ _ _ => exact (execPowerReset_touches (fun _ h => h) (.refl _ s)).keeps
  | deviceReset _ _ => exact (execDeviceReset_touches (fun _ h => h) (.refl _ s)).keeps
  | svReset _ _ _ => exact (execSvReset_touches (fun _ h => h) (.refl _ s)).keeps
  | warmRestart => exact (execWarmRestart_touches (fun _ h => h) (.refl _ s)).keeps
  | pcieReset => exact (execPcieReset_touches (fun _ h => h) (.refl _ s)).keeps
  | firmwareRunning _ _ _ => exact (execFirmwareRunning_touches (fun _ h => h) (.refl _ s)).keeps
  | startupDarkLimit _ => exact (execStartupDarkLimit_touches (fun _ h => h) (.refl _ s)).keeps
  | watchdogTimeout core => exact (execWatchdogTimeout_touches (_core := core) (fun _ h => h) (.refl _ s)).keeps
  | fwProgram _ => exact (execFwProgram_touches (fun _ h => h) (.refl _ s)).keeps
  | fwProgramDone _ _ _ => exact (execFwProgramDone_touches (fun _ h => h) (.refl _ s)).keeps
  | fwSwitchTrial _ => exact (execFwSwitchTrial_touches (fun _ h => h) (.refl _ s)).keeps
  | fwSwitchCommit _ => exact (execFwSwitchCommit_touches (fun _ h => h) (.refl _ s)).keeps
  | fwSwitchRestart _ => exact (execFwSwitchRestart_touches (fun _ h => h) (.refl _ s)).keeps
  | trialTimeout => exact (execTrialTimeout_touches (fun _ h => h) (.refl _ s)).keeps
  | lifetimeMinute => exact (execLifetimeMinute_touches (fun _ h => h) (.refl _ s)).keeps
  | lifetimeHourWrite => exact (execLifetimeHourWrite_touches (fun _ h => h) (.refl _ s)).keeps
  | smbReadJunction => exact (execSmbReadJunction_touches (fun _ h => h) (.refl _ s)).keeps
  | smbReadPower => exact (execSmbReadPower_touches (fun _ h => h) (.refl _ s)).keeps
  | smbReadStatus => exact (execSmbReadStatus_touches (fun _ h => h) (.refl _ s)).keeps
  | smbReadPeak => exact (execSmbReadPeak_touches (fun _ h => h) (.refl _ s)).keeps
  | smbReadSerial => exact (execSmbReadSerial_touches (fun _ h => h) (.refl _ s)).keeps
  | smbAlertResponse => exact (execSmbAlertResponse_touches (fun _ h => h) (.refl _ s)).keeps
  | pwrFailHigh => exact (execPwrFailHigh_touches (fun _ h => h) (.refl _ s)).keeps
  | pcieLinkUp _ _ _ => exact (execPcieLinkUp_touches (fun _ h => h) (.refl _ s)).keeps
  | egressFrameSent _ _ => exact (execEgressFrameSent_touches (fun _ h => h) (.refl _ s)).keeps
  | msixEnable _ => exact (execMsixEnable_touches (fun _ h => h) (.refl _ s)).keeps
  | sscRelockRamp _ => exact (execSscRelockRamp_touches (fun _ h => h) (.refl _ s)).keeps

/-- One cycle of the timebase keeps the form. -/
theorem State.tick_keeps (s : State) : Keeps s s.tick :=
  (State.tick_touches (fun _ h => h) (.refl _ s)).keeps

/-- The queue has no part in the canonical form. -/
theorem State.Canonical.setPending {s : State} (h : s.Canonical) (p : List Instr) :
    State.Canonical { s with pending := p } :=
  ⟨h.regs, h.mem, h.keeper⟩

/-- Settles O6: no command stops, and none takes from the queue or adds to it. -/
theorem everyCommandCompletes : Obligations.EveryCommandCompletes := by
  intro c s
  obtain ⟨t, ht, hkeeps⟩ := exec_keeps c s
  exact ⟨t, ht, hkeeps.pending⟩

/-- Settles O4: a cycle where no command waits, and the front command on the rest of the queue elsewhere. -/
theorem stepKeepsCanonicalForm : Obligations.StepKeepsCanonicalForm := by
  intro s t hs hstep
  unfold step at hstep
  split at hstep
  case h_1 =>
    obtain rfl := Host.Outcome.next.inj hstep
    exact s.tick_keeps.canon hs
  case h_2 c rest _ =>
    obtain ⟨u, hu, hkeeps⟩ := exec_keeps c { s with pending := rest }
    obtain rfl := Host.Outcome.next.inj (hu.symm.trans hstep)
    exact hkeeps.canon (hs.setPending rest)

end Sys2Proof.Machine
end

section
/-! The upkeep of the HBM stacks (09_central_store.md, R292 to R295): loops that write one register, single bits of a
register, and from these refresh, temperatures and the retraining of a channel. -/
namespace Sys2Proof.Machine

/-! ## Loops that write one register -/

theorem forN_succ {α : Type} (n : Nat) (a : α) (f : α → Nat → α) : forN (n + 1) a f = f (forN n a f) n := by
  simp only [forN, List.range_succ, List.foldl_append, List.foldl_cons, List.foldl_nil]

/-- A loop whose step `k` changes at most entry `ix k` of a register, by `g k`, leaves at each entry what its own step
made of it. -/
theorem State.forN_reg {r : Reg} {ix : Nat → Nat} (hix : Function.Injective ix) {f : State → Nat → State}
    {g : Nat → Nat → Nat} (hf : ∀ t k j, (f t k).reg r j = if ix k = j then g k (t.reg r j) else t.reg r j)
    (s : State) (n c : Nat) :
    (forN n s f).reg r (ix c) = if c < n then g c (s.reg r (ix c)) else s.reg r (ix c) := by
  induction n with
  | zero => rfl
  | succ n ih =>
    rw [forN_succ, hf, ih]
    simp only [hix.eq_iff]
    obtain hlt | rfl | hgt := Nat.lt_trichotomy c n
    · rw [if_neg (Nat.ne_of_gt hlt), if_pos hlt, if_pos (Nat.lt_succ_of_lt hlt)]
    · rw [if_pos rfl, if_neg (Nat.lt_irrefl c), if_pos (Nat.lt_succ_self c)]
    · rw [if_neg (Nat.ne_of_lt hgt), if_neg (Nat.lt_asymm hgt), if_neg (by omega)]

/-- A loop that writes `v` to the 16 controllers of a stack. -/
theorem State.forN_setReg_stack (s : State) (r : Reg) (n v : Nat) {c : Nat} (hc : c < 16) :
    (forN 16 s fun t c => t.setReg r (n * 16 + c) v).reg r (n * 16 + c) = v % 2 ^ r.width := by
  have hstep (t : State) (k j : Nat) : (t.setReg r (n * 16 + k) v).reg r j =
      if n * 16 + k = j then v % 2 ^ r.width else t.reg r j := by
    simp only [State.reg_setReg, true_and]
  have hix : Function.Injective (n * 16 + ·) := fun _ _ h => Nat.add_left_cancel h
  rw [State.forN_reg (ix := (n * 16 + ·)) (g := fun _ _ => v % 2 ^ r.width) hix hstep, if_pos hc]

/-! ## Single bits -/

/-- A number with one bit replaced, as what stands above the bit, the bit, and what stands below it. -/
theorem setBit_eq (v k : Nat) (on : Bool) :
    setBit v k on = 2 ^ k * (2 ^ 1 * (v / 2 ^ k / 2) + on.toNat) + v % 2 ^ k := by
  have hwidth : k + 1 - k = 1 := by omega
  have hon : (if on then 1 else 0) % 2 ^ 1 = on.toNat := by cases on <;> rfl
  have hv : 2 ^ k * (v / 2 ^ k) + v % 2 ^ k = v := Nat.div_add_mod ..
  have hq : 2 * (v / 2 ^ k / 2) + v / 2 ^ k % 2 = v / 2 ^ k := Nat.div_add_mod ..
  have hparts : 2 ^ k * (2 * (v / 2 ^ k / 2)) + 2 ^ k * (v / 2 ^ k % 2) + v % 2 ^ k = v := by
    rw [← Nat.mul_add, hq, hv]
  simp only [setBit, withBits, bits, hwidth, hon, Nat.shiftRight_eq_div_pow]
  rw [Nat.mul_add, Nat.mul_comm (_ % 2 ^ 1), Nat.mul_comm on.toNat, Nat.pow_one]
  omega

/-- Replacing a bit replaces no other. -/
theorem bit_setBit (v k i : Nat) (on : Bool) : bit (setBit v k on) i = if k = i then on else bit v i := by
  have hon : on.toNat < 2 ^ 1 := by cases on <;> decide
  simp only [bit]
  rw [setBit_eq, Nat.testBit_two_pow_mul_add _ (Nat.mod_lt _ (Nat.two_pow_pos _)), Nat.testBit_two_pow_mul_add _ hon]
  obtain hlt | rfl | hgt := Nat.lt_trichotomy i k
  · rw [if_pos hlt, if_neg (Nat.ne_of_gt hlt), Nat.testBit_mod_two_pow, decide_eq_true hlt, Bool.true_and]
  · rw [if_neg (Nat.lt_irrefl i), if_pos (by omega), if_pos rfl, Nat.sub_self]
    cases on <;> rfl
  · rw [if_neg (Nat.lt_asymm hgt), if_neg (by omega), if_neg (Nat.ne_of_lt hgt), ← Nat.pow_one 2, Nat.pow_one,
      ← Nat.testBit_succ, Nat.testBit_div_two_pow]
    congr 1
    omega

/-- A register cut to its width keeps the bits inside it. -/
theorem bit_mod {w i : Nat} (h : i < w) (v : Nat) : bit (v % 2 ^ w) i = bit v i := by
  rw [bit, Nat.testBit_mod_two_pow, decide_eq_true h, Bool.true_and]
  rfl

/-- A bit of a register after one of its bits is written. -/
theorem State.setReg_bit (s : State) (r : Reg) {k i : Nat} (hi : i < r.width) (on : Bool) :
    bit ((s.setReg r 0 (setBit (s.reg r 0) k on)).reg r 0) i = if k = i then on else bit (s.reg r 0) i := by
  rw [State.setReg_reg_self, bit_mod hi, bit_setBit]

/-! ## Counting -/

theorem State.bump_counted (s : State) (r : Reg) (i : Nat) : Counted s (s.bump r i) r i 1 := State.setReg_reg_self ..

/-- What is left alone after a counter has counted leaves the count as it is. -/
theorem Counted.touches {s t u : State} {r : Reg} {i n : Nat} {V : List Part} (hc : Counted s t r i n)
    (h : Touches V t u) (hV : Part.reg r ∉ V) (hany : Part.anyReg ∉ V) : Counted s u r i n :=
  (h.reg r i hV hany).trans hc

/-! ## Refresh (R292, R294) -/

/-- REFRESH (R292). -/
theorem refresh_completes (pc : Fin 64) (s : State) :
    let b := s.reg .iREF_BANK pc.val
    ∃ t, exec (.refresh pc) s = .next t ∧
      Touches (regs [.iREF_COUNT, .iREF_BANK] ++ flds [.banks]) s t ∧
      t.banks = { s.banks with rows := Sparse.erase s.banks.rows (pc.val * 64 + b % 64) } ∧ t.Holds .iREF_BANK pc.val
          ((b + 1) % 64) ∧
      Counted s t .iREF_COUNT pc.val 1 ∧ OnlyAt s t [.iREF_BANK, .iREF_COUNT] pc.val := by
  intro b
  let closed : State := { s with banks := { s.banks with rows := Sparse.erase s.banks.rows (pc.val * 64 + b % 64) } }
  have honly : OnlyAt s closed [.iREF_BANK, .iREF_COUNT] pc.val := .refl s _ _
  refine completes_of_next (t := (closed.setReg .iREF_BANK pc.val ((b + 1) % 64)).bump .iREF_COUNT pc.val) rfl
    (execRefresh_touches (by decide) (.refl _ s)) ⟨rfl, ?_, ?_, (honly.setReg _ _).setReg _ _⟩
  · exact (State.setReg_reg_of_ne _ _ _ _ (by decide)).trans (State.setReg_reg_self ..)
  · rw [Counted, State.bump, State.setReg_reg_self, State.setReg_reg_of_ne _ _ _ _ (by decide)]
    rfl

/-- NEIGHBOUR_REFRESH (R294). -/
theorem neighbourRefresh_completes (pc bank : Fin 64) (s : State) :
    let b := pc.val * 64 + bank.val
    ∃ t, exec (.neighbourRefresh pc bank) s = .next t ∧ Touches (flds [.banks]) s t ∧
      t.banks.due = s.banks.due.filter (· != b) ∧ t.banks.rows = s.banks.rows ∧
      t.banks.refreshes = s.banks.refreshes + (s.banks.due.filter (· == b)).length :=
  completes_of_next rfl (execNeighbourRefresh_touches (by decide) (.refl _ s)) ⟨rfl, rfl, rfl⟩

/-! ## Temperatures (R293) -/

section
variable (s : State) (n temp : Nat)

/-- The temperature of a stack is published for its 16 controllers. -/
def State.tempShown : State := forN 16 s fun t c => t.setReg .CH_TEMP (n * 16 + c) temp

/-- A stack that is too hot doubles its refresh rate, and HBM_HOT is raised. -/
def State.heated : State :=
  let u := (s.setRefresh n 1).setReg .MS_HOT 0 (setBit (s.reg .MS_HOT 0) n true)
  (u.setReg .iHOT_SINCE n 0).raise Code.hbmHot (some (u.reg .MS_QUEUE 0)) [(8, n), (16, temp)]

/-- A stack that has cooled takes the normal rate again. -/
def State.cooled : State :=
  ((s.setRefresh n 0).setReg .MS_HOT 0 (setBit (s.reg .MS_HOT 0) n false)).setReg .iHOT_SINCE n 0

theorem State.tempShown_frame : Touches [.reg .CH_TEMP] s (s.tempShown n temp) :=
  forN_touches (.refl _ s) fun _ _ hx => State.setReg_touches List.mem_cons_self hx

theorem State.setRefresh_frame (v : Nat) : Touches [.reg .CH_REFRESH] s (s.setRefresh n v) :=
  State.setRefresh_touches (fun _ h => h) (.refl _ s)

theorem State.setRefresh_holds (v : Nat) {c : Nat} (hc : c < 16) :
    (s.setRefresh n v).reg .CH_REFRESH (n * 16 + c) = v % 2 ^ Reg.CH_REFRESH.width :=
  s.forN_setReg_stack .CH_REFRESH n v hc

theorem State.heated_spec : let t := s.heated n temp
    (∀ c, t.reg .CH_TEMP c = s.reg .CH_TEMP c) ∧
    (∀ m, m < 2 → bit (t.reg .MS_HOT 0) m = if n = m then true else bit (s.reg .MS_HOT 0) m) ∧
    (∀ c, c < 16 → t.reg .CH_REFRESH (n * 16 + c) = 1) ∧
    t.lastEvent = some (Code.hbmHot, packBits [(8, n), (16, temp)]) := by
  have hrate := s.setRefresh_frame n 1
  have hhot : (s.setRefresh n 1).reg .MS_HOT 0 = s.reg .MS_HOT 0 := hrate.reg _ _ (by decide) (by decide)
  refine ⟨fun c => ?_, fun m hm => ?_, fun c hc => ?_, State.raise_lastEvent ..⟩
  · simpa [State.heated] using hrate.reg .CH_TEMP c (by decide) (by decide)
  · have hbit := (s.setRefresh n 1).setReg_bit .MS_HOT (k := n) (i := m) (Nat.lt_of_lt_of_le hm (by decide)) true
    rw [hhot] at hbit
    simpa [State.heated] using hbit
  · have hone : 1 % 2 ^ Reg.CH_REFRESH.width = 1 := by decide
    simpa [State.heated, hone] using s.setRefresh_holds n 1 hc

theorem State.cooled_spec : let t := s.cooled n
    (∀ c, t.reg .CH_TEMP c = s.reg .CH_TEMP c) ∧
    (∀ m, m < 2 → bit (t.reg .MS_HOT 0) m = if n = m then false else bit (s.reg .MS_HOT 0) m) ∧
    ∀ c, c < 16 → t.reg .CH_REFRESH (n * 16 + c) = 0 := by
  have hrate := s.setRefresh_frame n 0
  have hhot : (s.setRefresh n 0).reg .MS_HOT 0 = s.reg .MS_HOT 0 := hrate.reg _ _ (by decide) (by decide)
  refine ⟨fun c => ?_, fun m hm => ?_, fun c hc => ?_⟩
  · simpa [State.cooled] using hrate.reg .CH_TEMP c (by decide) (by decide)
  · have hbit := (s.setRefresh n 0).setReg_bit .MS_HOT (k := n) (i := m) (Nat.lt_of_lt_of_le hm (by decide)) false
    rw [hhot] at hbit
    simpa [State.cooled] using hbit
  · simpa [State.cooled] using s.setRefresh_holds n 0 hc

end

/-- Where the rate of a stack changes; elsewhere at most the time since which it has cooled does. -/
theorem exec_stackTempRead (stack : Fin 2) (temp : BitVec 16) (s : State) :
    let n := stack.val
    let u := s.tempShown n temp.toNat
    let hot := bit (s.reg .MS_HOT 0) n
    ∃ t, exec (.stackTempRead stack temp) s = .next t ∧
      if hot = false ∧ temp.toInt > 85 * 16 then t = u.heated n temp.toNat
      else if hot = true ∧ temp.toInt ≤ 82 * 16 ∧ s.reg .iHOT_SINCE n ≠ 0 ∧
          s.reg .iHOT_SINCE n + 250000000 ≤ s.clock + 1 then t = u.cooled n
      else Touches [.reg .iHOT_SINCE] u t := by
  intro n u hot
  have hshown := s.tempShown_frame n temp.toNat
  have hhot : u.reg .MS_HOT 0 = s.reg .MS_HOT 0 := hshown.reg _ _ (by decide) (by decide)
  have hsince : u.reg .iHOT_SINCE n = s.reg .iHOT_SINCE n := hshown.reg _ _ (by decide) (by decide)
  have hclock : u.clock = s.clock := congrArg (· >>> 48) (hshown.time (by decide)).2
  have hexec : exec (.stackTempRead stack temp) s =
      if bit (u.reg .MS_HOT 0) n then
        if temp.toInt ≤ 82 * 16 then
          if u.reg .iHOT_SINCE n = 0 then .next (u.setReg .iHOT_SINCE n (u.clock + 1))
          else if u.reg .iHOT_SINCE n + 250000000 ≤ u.clock + 1 then .next (u.cooled n) else .next u
        else .next (u.setReg .iHOT_SINCE n 0)
      else if temp.toInt > 85 * 16 then .next (u.heated n temp.toNat) else .next u := rfl
  have hnote (v : Nat) : Touches [.reg .iHOT_SINCE] u (u.setReg .iHOT_SINCE n v) :=
    State.setReg_touches List.mem_cons_self (.refl _ u)
  rw [hhot, hsince, hclock] at hexec
  change exec _ s = if hot = true then _ else _ at hexec
  rw [hexec]
  cases hot with
  | true =>
    simp only [if_true, reduceCtorEq, false_and, if_false, true_and]
    by_cases hcools : temp.toInt ≤ 82 * 16 ∧ s.reg .iHOT_SINCE n ≠ 0 ∧
        s.reg .iHOT_SINCE n + 250000000 ≤ s.clock + 1
    · obtain ⟨hcold, hnoted, hlong⟩ := hcools
      exact ⟨_, by rw [if_pos hcold, if_neg hnoted, if_pos hlong], by rw [if_pos ⟨hcold, hnoted, hlong⟩]⟩
    · simp only [if_neg hcools]
      split
      case isFalse => exact ⟨_, rfl, hnote _⟩
      case isTrue hcold =>
        split
        case isTrue => exact ⟨_, rfl, hnote _⟩
        case isFalse hnoted =>
          rw [if_neg fun hlong => hcools ⟨hcold, hnoted, hlong⟩]
          exact ⟨_, rfl, .refl _ u⟩
  | false =>
    simp only [Bool.false_eq_true, if_false, true_and, false_and]
    split
    · exact ⟨_, rfl, rfl⟩
    · exact ⟨_, rfl, .refl _ u⟩

/-- STACK_TEMP_READ (R293). -/
theorem stackTempRead_completes (stack : Fin 2) (temp : BitVec 16) (s : State) :
    let n := stack.val
    let hot := bit (s.reg .MS_HOT 0) n
    ∃ t, exec (.stackTempRead stack temp) s = .next t ∧ Touches Changes.stackTempRead s t ∧
      ((∀ c, c < 16 → t.reg .CH_TEMP (n * 16 + c) = temp.toNat) ∧
       (∀ m, m ≠ n → m < 2 → bit (t.reg .MS_HOT 0) m = bit (s.reg .MS_HOT 0) m) ∧
       if hot = false ∧ temp.toInt > 85 * 16 then
         bit (t.reg .MS_HOT 0) n = true ∧ (∀ c, c < 16 → t.reg .CH_REFRESH (n * 16 + c) = 1) ∧
         t.lastEvent = some (Code.hbmHot, packBits [(8, n), (16, temp.toNat)])
       else if hot = true ∧ temp.toInt ≤ 82 * 16 ∧ s.reg .iHOT_SINCE n ≠ 0 ∧
           s.reg .iHOT_SINCE n + 250000000 ≤ s.clock + 1 then
         bit (t.reg .MS_HOT 0) n = false ∧ ∀ c, c < 16 → t.reg .CH_REFRESH (n * 16 + c) = 0
       else t.reg .MS_HOT 0 = s.reg .MS_HOT 0 ∧ ∀ c, t.reg .CH_REFRESH c = s.reg .CH_REFRESH c) := by
  intro n hot
  have hshown := s.tempShown_frame n temp.toNat
  have htemp (c : Nat) (hc : c < 16) : (s.tempShown n temp.toNat).reg .CH_TEMP (n * 16 + c) = temp.toNat :=
    (s.forN_setReg_stack .CH_TEMP n temp.toNat hc).trans (Nat.mod_eq_of_lt temp.isLt)
  have hhot : (s.tempShown n temp.toNat).reg .MS_HOT 0 = s.reg .MS_HOT 0 := hshown.reg _ _ (by decide) (by decide)
  have hrate (c : Nat) : (s.tempShown n temp.toNat).reg .CH_REFRESH c = s.reg .CH_REFRESH c :=
    hshown.reg _ _ (by decide) (by decide)
  obtain ⟨t, hexec, hcases⟩ := exec_stackTempRead stack temp s
  refine completes_of_next hexec (execStackTempRead_touches (by decide) (.refl _ s)) ?_
  generalize s.tempShown stack.val temp.toNat = u at hcases htemp hhot hrate
  have hn : n < 2 := stack.isLt
  split
  case isTrue hheats =>
    rw [if_pos hheats] at hcases
    obtain ⟨hshows, hbits, hdoubled, hevent⟩ := u.heated_spec n temp.toNat
    rw [hcases]
    refine ⟨fun c hc => (hshows _).trans (htemp c hc), fun m hne hm => ?_, ?_, hdoubled, hevent⟩
    · rw [hbits m hm, if_neg hne.symm, hhot]
    · rw [hbits n hn, if_pos rfl]
  case isFalse hheats =>
    rw [if_neg hheats] at hcases
    split
    case isTrue hcools =>
      rw [if_pos hcools] at hcases
      obtain ⟨hshows, hbits, hnormal⟩ := u.cooled_spec n
      rw [hcases]
      refine ⟨fun c hc => (hshows _).trans (htemp c hc), fun m hne hm => ?_, ?_, hnormal⟩
      · rw [hbits m hm, if_neg hne.symm, hhot]
      · rw [hbits n hn, if_pos rfl]
    case isFalse hcools =>
      rw [if_neg hcools] at hcases
      have hsame (r : Reg) (j : Nat) (hr : r ≠ .iHOT_SINCE) : t.reg r j = u.reg r j :=
        hcases.reg r j (by simpa using hr) (by decide)
      refine ⟨fun c hc => (hsame _ _ (by decide)).trans (htemp c hc), fun m _ _ => ?_, ?_, fun c => ?_⟩
      · rw [hsame _ _ (by decide), hhot]
      · rw [hsame _ _ (by decide), hhot]
      · rw [hsame _ _ (by decide), hrate]

end Sys2Proof.Machine
end

section
/-! Retraining of the HBM channels (09_central_store.md, R295, R405): how one begins, what each of its pauses leaves,
and the writes that begin one and that end the periodic ones. -/
namespace Sys2Proof.Machine

/-! ## A retraining begins -/

section
variable (s : State) (c : Nat)

/-- The 8 pauses and their measures before the settings then in force are noted. -/
def State.retrainOpened : State :=
  (((((s.setReg .iRT_LEFT c 8).setReg .iRT_SINCE c s.clock).setReg .iRT_RW c 255).setReg .iRT_RH c 65535).setReg
    .iRT_WW c 255).setReg .iRT_WH c 65535

theorem State.startRetrain_notes : Touches [.reg .iRT_SET0] (s.retrainOpened c) (s.startRetrain c) :=
  forN_touches (.refl _ _) fun _ _ hx => State.setReg_touches List.mem_cons_self hx

theorem State.startRetrain_left : (s.startRetrain c).reg .iRT_LEFT c = 8 := by
  have hwidth : 8 % 2 ^ Reg.iRT_LEFT.width = 8 := by decide
  rw [(s.startRetrain_notes c).reg _ _ (by decide) (by decide)]
  simp [State.retrainOpened, hwidth]

theorem State.startRetrain_status : (s.startRetrain c).status = s.status :=
  (State.startRetrain_touches (fun _ h => h) (.refl _ s)).fld .status (by decide) (by decide)

theorem State.startRetrain_onlyAt {l : List Reg} (hl : .iRT_SET0 ∉ l) : OnlyAt s (s.startRetrain c) l c := by
  have hopened : OnlyAt s (s.retrainOpened c) l c := ((((((OnlyAt.refl s l c).setReg _ _).setReg _ _).setReg _
    _).setReg _ _).setReg _ _).setReg _ _
  exact hopened.touches (s.startRetrain_notes c)
    (fun r hr hm => hl (Part.reg.inj (List.mem_singleton.1 hm) ▸ hr)) (by decide)

end

/-- RETRAIN_DUE (R295). -/
theorem retrainDue_completes (c : Fin 32) (s : State) :
    let k := c.val
    if s.reg .MS_RETRAIN_EN 0 = 1 ∧ s.reg .iRT_PERIOD k < s.retrainPeriod k then
      ∃ t, exec (.retrainDue c) s = .next t ∧ Touches Changes.retrainDue s t ∧
        t.reg .iRT_LEFT k = 8 ∧ t.Holds .iRT_PERIOD k (s.retrainPeriod k) ∧ OnlyAt s t [.iRT_LEFT, .iRT_PERIOD] k
    else exec (.retrainDue c) s = .next s :=
  completes_if rfl (execRetrainDue_touches (by decide) (.refl _ s)) fun _ =>
    ⟨(State.setReg_reg_of_ne _ _ _ _ (by decide)).trans (s.startRetrain_left _), State.setReg_reg_self ..,
      (s.startRetrain_onlyAt _ (by decide)).setReg _ _⟩

/-- CH_RETRAIN_NOW (R295). -/
theorem chRetrainNow_completes (acc : Accessor) (c : Fin 32) (s : State) (hp : s.Passes acc .CH_RETRAIN_NOW c.val 1) :
    ∃ t, exec (.chRetrainNow acc c) s = .next t ∧ Touches Changes.chRetrainNow s t ∧
      t.status = 0 ∧ t.reg .iRT_LEFT c.val = 8 ∧
      OnlyAt s t [.iRT_LEFT, .iRT_SINCE, .iRT_RW, .iRT_RH, .iRT_WW, .iRT_WH] c.val := by
  refine write_completes rfl hp (execChRetrainNow_touches (by decide) (.refl _ s)) ⟨?_, ?_, ?_⟩
  · rw [State.noteAccess_status, State.startRetrain_status, State.setStatus_status]
  · rw [State.noteAccess_reg _ _ _ _ (by decide) (by decide), State.startRetrain_left]
  · exact ((s.setStatus 0).startRetrain_onlyAt c.val (by decide)).noteAccess (by decide) (by decide) _ _

/-! ## The periodic retraining ends -/

section
variable (s : State)

theorem State.retrainDrained_frame : Touches State.retrainDrained_foot s s.retrainDrained :=
  State.retrainDrained_touches (fun _ h => h) (.refl _ s)

/-- The channels whose periodic retraining is under way run no further pause (R295, R405). -/
theorem State.abandonRetrain_left {c : Nat} (hc : c < 32) :
    s.abandonRetrain.reg .iRT_LEFT c = if s.periodic c then 0 else s.reg .iRT_LEFT c := by
  let stopped := forN 32 s fun t k => if s.periodic k then t.setReg .iRT_LEFT k 0 else t
  have hended : Touches (.reg .iRT_DRAIN :: State.raiseDisabled_foot) stopped s.abandonRetrain :=
    State.raiseDisabled_touches (fun _ => List.mem_cons_of_mem _)
      (State.setReg_touches List.mem_cons_self (.refl _ stopped))
  have hstep (t : State) (k j : Nat) : (if s.periodic k then t.setReg .iRT_LEFT k 0 else t).reg .iRT_LEFT j =
      if k = j then (if s.periodic k then 0 else t.reg .iRT_LEFT j) else t.reg .iRT_LEFT j := by
    split
    case isTrue => simp [State.reg_setReg]
    case isFalse => exact (ite_self _).symm
  rw [hended.reg _ _ (by decide) (by decide)]
  exact (State.forN_reg (ix := id) Function.injective_id hstep s 32 c).trans (if_pos hc)

/-- What MS_RETRAIN_EN 0 leaves (R295, R405). -/
theorem State.retrainDisable_spec : let t := s.retrainDisable
    t.status = s.status ∧ t.reg .MS_RETRAIN_EN 0 = 0 ∧
    if s.reg .MS_RETRAIN_EN 0 ≠ 0 ∧ s.reg .MS_RETRAIN_DRAIN 0 = 1 then
      ∀ c, c < 32 → t.reg .iRT_LEFT c = (if s.periodic c then 0 else s.reg .iRT_LEFT c)
    else ∀ c, t.reg .iRT_LEFT c = s.reg .iRT_LEFT c := by
  intro t
  have hstatus : t.status = s.status :=
    (State.retrainDisable_touches (fun _ h => h) (.refl _ s)).fld .status (by decide) (by decide)
  refine ⟨hstatus, ?_⟩
  let off := s.putReg .MS_RETRAIN_EN 0 0
  have hoff : Touches [.reg .MS_RETRAIN_EN, .fld .keepPending] s off :=
    State.putReg_touches (by decide) (by decide) (.refl _ s)
  have hzero : off.reg .MS_RETRAIN_EN 0 = 0 := (State.reg_putReg ..).trans (if_pos ⟨rfl, rfl⟩)
  by_cases hen : s.reg .MS_RETRAIN_EN 0 = 0
  · have ht : t = s := if_pos hen
    rw [ht, if_neg fun h => h.1 hen]
    exact ⟨hen, fun _ => rfl⟩
  by_cases habandon : s.reg .MS_RETRAIN_DRAIN 0 = 1
  · have ht : t = off.abandonRetrain := (if_neg hen).trans (if_pos habandon)
    have hperiodic : off.periodic = s.periodic := funext fun c => by
      simp only [State.periodic, hoff.reg .iRT_LEFT c (by decide) (by decide),
        hoff.reg .iHB_HELD 0 (by decide) (by decide)]
    rw [ht, if_pos ⟨hen, habandon⟩]
    refine ⟨?_, fun c hc => ?_⟩
    · exact ((State.abandonRetrain_touches (fun _ h => h) (.refl _ off)).reg _ _ (by decide) (by decide)).trans hzero
    · rw [off.abandonRetrain_left hc, hperiodic, hoff.reg .iRT_LEFT c (by decide) (by decide)]
  · have ht : t = (off.setReg .iRT_DRAIN 0 1).retrainDrained := (if_neg hen).trans (if_neg habandon)
    have hdrains : Touches State.retrainDrained_foot off t :=
      ht ▸ State.retrainDrained_touches (fun _ h => h) (State.setReg_touches (by decide) (.refl _ off))
    rw [if_neg fun h => habandon h.2]
    exact ⟨(hdrains.reg _ _ (by decide) (by decide)).trans hzero, fun c =>
      (hdrains.reg _ _ (by decide) (by decide)).trans (hoff.reg _ _ (by decide) (by decide))⟩

end

/-- MS_RETRAIN_EN_DISABLE (R295, R405). -/
theorem msRetrainEnDisable_completes (acc : Accessor) (s : State) (hp : s.Passes acc .MS_RETRAIN_EN 0 0) :
    ∃ t, exec (.msRetrainEnDisable acc) s = .next t ∧ Touches Changes.msRetrainEnDisable s t ∧
      (t.status = 0 ∧ t.reg .MS_RETRAIN_EN 0 = 0 ∧
       if s.reg .MS_RETRAIN_EN 0 ≠ 0 ∧ s.reg .MS_RETRAIN_DRAIN 0 = 1 then
         ∀ c, c < 32 → t.reg .iRT_LEFT c = (if s.periodic c then 0 else s.reg .iRT_LEFT c)
       else ∀ c, t.reg .iRT_LEFT c = s.reg .iRT_LEFT c) := by
  refine write_completes rfl hp (execMsRetrainEnDisable_touches (by decide) (.refl _ s)) ?_
  obtain ⟨hstatus, hzero, hleft⟩ := (s.setStatus 0).retrainDisable_spec
  have hnote (r : Reg) (j : Nat) (h1 : r ≠ .iACC_STATUS) (h2 : r ≠ .iACC_ID) :=
    (s.setStatus 0).retrainDisable.noteAccess_reg acc (Reg.MS_RETRAIN_EN.id 0) j h1 h2
  simp only [State.noteAccess_status, hnote, ne_eq, reduceCtorEq, not_false_eq_true]
  exact ⟨hstatus, hzero, hleft⟩

end Sys2Proof.Machine
end

section
/-! The pauses of a retraining (09_central_store.md, R295): what the measure of an eye, the note of a pause and the end
of a retraining leave, and from these RETRAIN_PAUSE. -/
namespace Sys2Proof.Machine

/-! ## The measure of an eye -/

section
variable (s : State) (c width height : Nat) (delay vref : Int) (read : Bool)

/-- The least width and height are kept where an eye was measured, and the settings move. -/
def State.eyeMeasured : State :=
  let rw : Reg := if read then .iRT_RW else .iRT_WW
  let rh : Reg := if read then .iRT_RH else .iRT_WH
  let k := if read then 4 * c else 4 * c + 2
  let u := ((s.setReg .iRT_NOEYE c 0).setReg rw c (min (s.reg rw c) width)).setReg rh c (min (s.reg rh c) height)
  (u.moveSetting k 2 delay).moveSetting (k + 1) 1 vref

/-- A pause that measured no eye counts. -/
def State.eyeMissed : State :=
  let rw : Reg := if read then .iRT_RW else .iRT_WW
  let rh : Reg := if read then .iRT_RH else .iRT_WH
  ((s.bump .iRT_NOEYE c).setReg rw c 0).setReg rh c 0

/-- The third pause in a row without an eye raises HBM_TRAIN_FAIL. -/
theorem State.noteEye_of_none : s.noteEye c 0 height delay vref read =
    let u := s.eyeMissed c read
    if u.reg .iRT_NOEYE c = 3 then u.raise Code.hbmTrainFail (some (u.reg .MS_QUEUE 0)) [(8, c)] else u := rfl

/-- An eye below 16/64 UI raises HBM_MARGIN. -/
theorem State.noteEye_of_eye (h : width ≠ 0) : s.noteEye c width height delay vref read =
    let u := s.eyeMeasured c width height delay vref read
    if width < 16 then u.raise Code.hbmMargin (some (u.reg .MS_QUEUE 0)) [(8, c), (8, width)] else u := if_neg h

/-- The registers that a pause measuring the read eye (`true`) or the write eye (`false`) writes. -/
def eyeRegs (read : Bool) : List Part :=
  if read then [.reg .iRT_NOEYE, .reg .iRT_RW, .reg .iRT_RH] else [.reg .iRT_NOEYE, .reg .iRT_WW, .reg .iRT_WH]

theorem State.eyeMissed_frame : Touches (eyeRegs read) s (s.eyeMissed c read) := by
  cases read <;>
  exact State.setReg_touches (by decide) (State.setReg_touches (by decide) (State.bump_touches (by decide) (.refl _ s)))

theorem State.eyeMeasured_frame :
    Touches (.reg .iRT_SET :: eyeRegs read) s (s.eyeMeasured c width height delay vref read) := by
  cases read <;>
  exact State.setRegInt_touches (by decide) (State.setRegInt_touches (by decide) (State.setReg_touches (by decide)
    (State.setReg_touches (by decide) (State.setReg_touches (by decide) (.refl _ s)))))

/-- Without an eye only the measure of its kind and an event show. -/
theorem State.noteEye_frame_of_none :
    Touches (eyeRegs read ++ State.raise_foot) s (s.noteEye c 0 height delay vref read) := by
  have hmissed : Touches (eyeRegs read ++ State.raise_foot) s (s.eyeMissed c read) :=
    (s.eyeMissed_frame c read).mono fun _ => List.mem_append_left _
  rw [State.noteEye_of_none]
  exact .ite (State.raise_touches (fun _ => List.mem_append_right _) hmissed) hmissed

/-- The measure of an eye leaves those of the other kind. -/
theorem State.noteEye_frame :
    Touches (.reg .iRT_SET :: eyeRegs read ++ State.raise_foot) s (s.noteEye c width height delay vref read) := by
  by_cases h : width = 0
  · rw [h]
    exact (s.noteEye_frame_of_none c height delay vref read).mono fun _ => List.mem_cons_of_mem _
  · have hmeasured : Touches (.reg .iRT_SET :: eyeRegs read ++ State.raise_foot) s
        (s.eyeMeasured c width height delay vref read) :=
      (s.eyeMeasured_frame c width height delay vref read).mono fun _ => List.mem_append_left _
    rw [State.noteEye_of_eye _ _ _ _ _ _ _ h]
    exact .ite (State.raise_touches (fun _ => List.mem_append_right _) hmeasured) hmeasured

theorem ofInt_lt (w : Nat) (x : Int) : ofInt w x < 2 ^ w := by
  have hpos : (0 : Int) < (2 ^ w : Nat) := by exact_mod_cast Nat.two_pow_pos w
  have hlt := Int.emod_lt_of_pos x hpos
  have hnonneg := Int.emod_nonneg x (Int.ne_of_gt hpos)
  unfold ofInt
  omega

/-- A setting that moves takes the clamped value, and the others stay. -/
theorem State.moveSetting_reg (k n : Nat) (v : Int) (j : Nat) : (s.moveSetting k n v).reg .iRT_SET j =
    if k = j then ofInt 16 (clampInt (s.regInt .iRT_SET0 k - n) (s.regInt .iRT_SET0 k + n) v)
    else s.reg .iRT_SET j := by
  have hwidth : Reg.iRT_SET.width = 16 := rfl
  simp only [State.moveSetting, State.setRegInt, State.reg_setReg, true_and, hwidth, Nat.mod_eq_of_lt (ofInt_lt 16 _)]

/-- Where a measured eye moves the delay and the voltage of its kind (R295). -/
theorem State.eyeMeasured_settings :
    let j := if read then 4 * c else 4 * c + 2
    let moved (j n : Nat) (v : Int) := clampInt (s.regInt .iRT_SET0 j - n) (s.regInt .iRT_SET0 j + n) v
    let t := s.eyeMeasured c width height delay vref read
    t.reg .iRT_SET j = ofInt 16 (moved j 2 delay) ∧ t.reg .iRT_SET (j + 1) = ofInt 16 (moved (j + 1) 1 vref) ∧
      ∀ n, n ≠ j → n ≠ j + 1 → t.reg .iRT_SET n = s.reg .iRT_SET n := by
  intro j moved t
  let u := ((s.setReg .iRT_NOEYE c 0).setReg (if read then .iRT_RW else .iRT_WW) c
    (min (s.reg (if read then .iRT_RW else .iRT_WW) c) width)).setReg (if read then .iRT_RH else .iRT_WH) c
    (min (s.reg (if read then .iRT_RH else .iRT_WH) c) height)
  have hu (r : Reg) (n : Nat) (hr : r ∈ [Reg.iRT_SET, .iRT_SET0]) : u.reg r n = s.reg r n := by
    have hframe : Touches (eyeRegs read) s u := by
      cases read <;> exact State.setReg_touches (by decide) (State.setReg_touches (by decide)
        (State.setReg_touches (by decide) (.refl _ s)))
    have hfree : ∀ q ∈ [Reg.iRT_SET, .iRT_SET0], Part.reg q ∉ eyeRegs read := by cases read <;> decide
    exact hframe.reg r n (hfree r hr) (by cases read <;> decide)
  have hbegan (n : Nat) : u.regInt .iRT_SET0 n = s.regInt .iRT_SET0 n :=
    congrArg (asInt _) (hu _ n (by decide))
  have hmoved (n : Nat) : (u.moveSetting j 2 delay).regInt .iRT_SET0 n = s.regInt .iRT_SET0 n :=
    (congrArg (asInt _) (State.setReg_reg_of_ne _ _ _ _ (by decide))).trans (hbegan n)
  have hreg (n : Nat) : t.reg .iRT_SET n = if j + 1 = n then ofInt 16 (moved (j + 1) 1 vref)
      else if j = n then ofInt 16 (moved j 2 delay) else s.reg .iRT_SET n := by
    have ht : t = (u.moveSetting j 2 delay).moveSetting (j + 1) 1 vref := rfl
    rw [ht, State.moveSetting_reg, State.moveSetting_reg, hmoved, hbegan, hu _ n (by decide)]
  refine ⟨?_, ?_, fun n hj hj1 => ?_⟩
  · rw [hreg, if_neg (Nat.succ_ne_self j), if_pos rfl]
  · rw [hreg, if_pos rfl]
  · rw [hreg, if_neg hj1.symm, if_neg hj.symm]

end

/-! ## One pause -/

section
variable (s : State) (c width height : Nat) (delay vref : Int)

/-- A pause that measures the read eye reads for it. -/
def State.pauseReads : State := s.cond (decide (4 < s.reg .iRT_LEFT c)) (·.eyeReads c)

/-- The eye that the pause measures is noted, the read eye in the first 4. -/
def State.pauseMeasured : State :=
  (s.pauseReads c).noteEye c width height delay vref (decide (4 < s.reg .iRT_LEFT c))

/-- A pause is over. -/
def State.pauseNoted (left : Nat) : State :=
  ((s.setReg .iRT_LEFT c (left - 1)).setReg .iRT_LAST c s.clock).setReg .iRT_SINCE c s.clock

/-- The last pause ends the retraining. -/
def State.pauseEnds (left : Nat) : State := if left = 1 then (s.retrainDone c).retrainDrained else s

theorem State.retrainPause_eq : s.retrainPause c width height delay vref =
    ((s.pauseMeasured c width height delay vref).pauseNoted c (s.reg .iRT_LEFT c)).pauseEnds c
      (s.reg .iRT_LEFT c) := rfl

theorem State.serveAll_counted (p : Port) (n : Nat) : Counted s (s.serveAll p n) .QP_BYTES (portIndex p) n := by
  simp [Counted, State.serveAll, State.noteRecent, State.bumpBy]

theorem State.pauseReads_frame : Touches State.eyeReads_foot s (s.pauseReads c) :=
  cond_touches (.refl _ s) fun _ hx => State.eyeReads_touches (fun _ h => h) hx

theorem State.pauseReads_counted (h : 4 < s.reg .iRT_LEFT c) : Counted s (s.pauseReads c) .QP_BYTES 1 2048 := by
  have hreads : s.pauseReads c = s.eyeReads c := if_pos (decide_eq_true h)
  rw [hreads]
  exact (s.serveAll_counted .train 2048).touches (State.move_touches (fun _ h => h) (.refl _ _)) (by decide) (by decide)

theorem State.pauseNoted_frame (left : Nat) :
    Touches [.reg .iRT_LEFT, .reg .iRT_LAST, .reg .iRT_SINCE] s (s.pauseNoted c left) :=
  State.setReg_touches (by decide) (State.setReg_touches (by decide) (State.setReg_touches (by decide) (.refl _ s)))

theorem State.pauseNoted_left (left : Nat) : (s.pauseNoted c left).Holds .iRT_LEFT c (left - 1) := by
  simp [State.pauseNoted, State.Holds]

theorem State.retrainDone_frame : Touches State.retrainDone_foot s (s.retrainDone c) :=
  State.retrainDone_touches (fun _ h => h) (.refl _ s)

theorem State.pauseEnds_frame (left : Nat) :
    Touches (State.retrainDone_foot ++ State.retrainDrained_foot) s (s.pauseEnds c left) :=
  .ite ((s.retrainDone_frame c).append (s.retrainDone c).retrainDrained_frame) (.refl _ s)

/-- What the end of a retraining publishes (R295). -/
theorem State.retrainDone_spec (hc : c < 32) : let t := s.retrainDone c
    Counted s t .CH_RETRAINS c 1 ∧ t.Holds .CH_RD_EYE_W c (s.reg .iRT_RW c) ∧
      t.Holds .CH_RD_EYE_H c (s.reg .iRT_RH c) ∧ bit (t.reg .iHB_HELD 0) c = false := by
  refine ⟨?_, ?_, ?_, ?_⟩
  · simp [State.retrainDone, Counted, State.bump]
  · simp [State.retrainDone, State.Holds, State.bump]
  · simp [State.retrainDone, State.Holds, State.bump]
  · have hwidth : c < Reg.iHB_HELD.width := hc
    rw [State.retrainDone, State.setReg_reg_self, bit_mod hwidth, bit_setBit, if_pos rfl]

/-- The registers of its channel in which the end of a retraining shows. -/
def retrainRegs : List Reg := [.iRT_LEFT, .CH_DEFERRALS, .CH_RETRAINS, .CH_RD_EYE_W, .CH_RD_EYE_H, .CH_WR_EYE_W,
  .CH_WR_EYE_H]

theorem State.retrainDone_onlyAt : OnlyAt s (s.retrainDone c) retrainRegs c := by
  let published := ((((s.setReg .CH_RD_EYE_W c (s.reg .iRT_RW c)).setReg .CH_RD_EYE_H c (s.reg .iRT_RH c)).setReg
    .CH_WR_EYE_W c (s.reg .iRT_WW c)).setReg .CH_WR_EYE_H c (s.reg .iRT_WH c)).bump .CH_RETRAINS c
  have honly : OnlyAt s published retrainRegs c :=
    (((((OnlyAt.refl s _ c).setReg _ _).setReg _ _).setReg _ _).setReg _ _).setReg _ _
  exact honly.touches (V := [.reg .iHB_HELD]) (State.setReg_touches (by decide) (.refl _ published)) (by decide)
    (by decide)

theorem State.pauseEnds_onlyAt (left : Nat) : OnlyAt s (s.pauseEnds c left) retrainRegs c := by
  unfold State.pauseEnds
  split
  · exact (s.retrainDone_onlyAt c).touches (State.retrainDrained_frame _) (by decide) (by decide)
  · exact .refl s _ c

end

/-! ## What a pause leaves -/

section
variable (s : State) {c width height : Nat} {delay vref : Int}

theorem State.pauseMeasured_frame : Touches (State.eyeReads_foot ++ State.noteEye_foot) s
    (s.pauseMeasured c width height delay vref) :=
  (s.pauseReads_frame c).append (State.noteEye_touches (fun _ h => h) (.refl _ _))

theorem State.retrainPause_ends : Touches ([.reg .iRT_LEFT, .reg .iRT_LAST, .reg .iRT_SINCE] ++
      (State.retrainDone_foot ++ State.retrainDrained_foot))
    (s.pauseMeasured c width height delay vref) (s.retrainPause c width height delay vref) :=
  (State.pauseNoted_frame _ _ _).append (State.pauseEnds_frame _ _ _)

theorem State.retrainPause_left :
    (s.retrainPause c width height delay vref).Holds .iRT_LEFT c (s.reg .iRT_LEFT c - 1) :=
  ((State.pauseEnds_frame _ _ _).reg _ _ (by decide) (by decide)).trans (State.pauseNoted_left _ _ _)

theorem State.retrainPause_deferrals (j : Nat) :
    (s.retrainPause c width height delay vref).reg .CH_DEFERRALS j = s.reg .CH_DEFERRALS j :=
  (s.retrainPause_ends.reg _ _ (by decide) (by decide)).trans
    (s.pauseMeasured_frame.reg _ _ (by decide) (by decide))

/-- A pause that measures the read eye moves 2,048 bytes on the TRAIN port. -/
theorem State.retrainPause_counted (h : 4 < s.reg .iRT_LEFT c) :
    Counted s (s.retrainPause c width height delay vref) .QP_BYTES 1 2048 :=
  ((s.pauseReads_counted c h).touches (State.noteEye_touches (fun _ h => h) (.refl _ _)) (by decide)
    (by decide)).touches s.retrainPause_ends (by decide) (by decide)

/-- Without an eye the settings stay; a measured eye moves those of its kind. -/
theorem State.retrainPause_settings :
    let j := if 4 < s.reg .iRT_LEFT c then 4 * c else 4 * c + 2
    let moved (j n : Nat) (v : Int) := clampInt (s.regInt .iRT_SET0 j - n) (s.regInt .iRT_SET0 j + n) v
    let t := s.retrainPause c width height delay vref
    if width = 0 then ∀ n, t.reg .iRT_SET n = s.reg .iRT_SET n
    else t.reg .iRT_SET j = ofInt 16 (moved j 2 delay) ∧ t.reg .iRT_SET (j + 1) = ofInt 16 (moved (j + 1) 1 vref) ∧
      ∀ n, n ≠ j → n ≠ j + 1 → t.reg .iRT_SET n = s.reg .iRT_SET n := by
  intro j moved t
  have hreads := s.pauseReads_frame c
  have hends (n : Nat) : t.reg .iRT_SET n = (s.pauseMeasured c width height delay vref).reg .iRT_SET n :=
    s.retrainPause_ends.reg _ _ (by decide) (by decide)
  have hset (n : Nat) : (s.pauseReads c).reg .iRT_SET n = s.reg .iRT_SET n := hreads.reg _ _ (by decide) (by decide)
  have hbegan (n : Nat) : (s.pauseReads c).regInt .iRT_SET0 n = s.regInt .iRT_SET0 n :=
    congrArg (asInt _) (hreads.reg _ _ (by decide) (by decide))
  split
  case isTrue hnone =>
    subst hnone
    have hfree : Part.reg .iRT_SET ∉ eyeRegs (decide (4 < s.reg .iRT_LEFT c)) ++ State.raise_foot ∧
        Part.anyReg ∉ eyeRegs (decide (4 < s.reg .iRT_LEFT c)) ++ State.raise_foot := by
      generalize decide (4 < s.reg .iRT_LEFT c) = read
      cases read <;> decide
    intro n
    rw [hends, ← hset]
    exact (State.noteEye_frame_of_none ..).reg _ _ hfree.1 hfree.2
  case isFalse heye =>
    have hmeasured (n : Nat) : (s.pauseMeasured c width height delay vref).reg .iRT_SET n =
        ((s.pauseReads c).eyeMeasured c width height delay vref (decide (4 < s.reg .iRT_LEFT c))).reg .iRT_SET n := by
      rw [State.pauseMeasured, State.noteEye_of_eye _ _ _ _ _ _ _ heye]
      dsimp only
      split
      · exact State.raise_reg _ _ _ _ _ (by decide) (by decide) (by decide)
      · rfl
    have hmoves := (s.pauseReads c).eyeMeasured_settings c width height delay vref (decide (4 < s.reg .iRT_LEFT c))
    simp only [decide_eq_true_eq, hbegan, ← hmeasured, ← hends, hset] at hmoves
    exact hmoves

/-- The last pause ends the retraining: it measures the write eye, so the read eye is that of the pauses before. -/
theorem State.retrainPause_last (hc : c < 32) (h : s.reg .iRT_LEFT c = 1) :
    let t := s.retrainPause c width height delay vref
    Counted s t .CH_RETRAINS c 1 ∧ t.Holds .CH_RD_EYE_W c (s.reg .iRT_RW c) ∧
      t.Holds .CH_RD_EYE_H c (s.reg .iRT_RH c) ∧ bit (t.reg .iHB_HELD 0) c = false := by
  intro t
  let noted := (s.pauseMeasured c width height delay vref).pauseNoted c 1
  have ht : t = (noted.retrainDone c).retrainDrained := by
    have hpause := s.retrainPause_eq c width height delay vref
    rw [h] at hpause
    exact hpause
  have hnoted : Touches (State.eyeReads_foot ++ (.reg .iRT_SET :: eyeRegs false ++ State.raise_foot) ++
      [.reg .iRT_LEFT, .reg .iRT_LAST, .reg .iRT_SINCE]) s noted := by
    have hmeasure := (s.pauseReads c).noteEye_frame c width height delay vref false
    have hwrite : s.pauseMeasured c width height delay vref =
        (s.pauseReads c).noteEye c width height delay vref false := by
      rw [State.pauseMeasured, h]
      rfl
    rw [← hwrite] at hmeasure
    exact ((s.pauseReads_frame c).append hmeasure).append (State.pauseNoted_frame ..)
  obtain ⟨hcount, hw, hh, hheld⟩ := noted.retrainDone_spec c hc
  have hdrained := (noted.retrainDone c).retrainDrained_frame
  rw [ht]
  refine ⟨(hcount.touches hdrained (by decide) (by decide)).of_touches hnoted (by decide) (by decide), ?_, ?_, ?_⟩
  · rw [← hnoted.reg .iRT_RW c (by decide) (by decide)]
    exact (hdrained.reg _ _ (by decide) (by decide)).trans hw
  · rw [← hnoted.reg .iRT_RH c (by decide) (by decide)]
    exact (hdrained.reg _ _ (by decide) (by decide)).trans hh
  · rw [hdrained.reg _ _ (by decide) (by decide), hheld]

/-- The other pauses count no retraining; a narrow eye is the newest event. -/
theorem State.retrainPause_earlier (h : s.reg .iRT_LEFT c ≠ 1) :
    let t := s.retrainPause c width height delay vref
    t.reg .CH_RETRAINS c = s.reg .CH_RETRAINS c ∧ (width ≠ 0 → width < 16 →
      t.lastEvent = some (Code.hbmMargin, packBits [(8, c), (8, width)])) := by
  intro t
  let measured := s.pauseMeasured c width height delay vref
  have ht : t = measured.pauseNoted c (s.reg .iRT_LEFT c) := if_neg h
  have hnoted := measured.pauseNoted_frame c (s.reg .iRT_LEFT c)
  rw [ht]
  refine ⟨?_, fun heye hnarrow => ?_⟩
  · exact (hnoted.reg _ _ (by decide) (by decide)).trans (s.pauseMeasured_frame.reg _ _ (by decide) (by decide))
  · rw [State.lastEvent_of_touches hnoted (by decide) (by decide)]
    have hevent : measured = _ := State.noteEye_of_eye _ _ _ _ _ _ _ heye
    rw [hevent, if_pos hnarrow]
    exact State.raise_lastEvent ..

theorem State.retrainPause_onlyAt : OnlyAt s (s.retrainPause c width height delay vref) retrainRegs c := by
  have hmeasured : OnlyAt s (s.pauseMeasured c width height delay vref) retrainRegs c :=
    (OnlyAt.refl s _ c).touches s.pauseMeasured_frame (by decide) (by decide)
  have hnoted := ((hmeasured.setReg .iRT_LEFT (s.reg .iRT_LEFT c - 1)).setReg .iRT_LAST
    (s.pauseMeasured c width height delay vref).clock).setReg .iRT_SINCE
    (s.pauseMeasured c width height delay vref).clock
  exact fun r hr j hj => (State.pauseEnds_onlyAt _ c _ r hr j hj).trans (hnoted r hr j hj)

end

/-- What a pause of channel `c` leaves of `s` (R295). -/
structure RetrainPaused (s t : State) (c width : Nat) (delay vref : Int) : Prop where
  left : t.Holds .iRT_LEFT c (s.reg .iRT_LEFT c - 1)
  deferrals : ∀ j, t.reg .CH_DEFERRALS j = s.reg .CH_DEFERRALS j
  reads : 4 < s.reg .iRT_LEFT c → Counted s t .QP_BYTES 1 2048
  settings :
    let j := if 4 < s.reg .iRT_LEFT c then 4 * c else 4 * c + 2
    let moved (j n : Nat) (v : Int) := clampInt (s.regInt .iRT_SET0 j - n) (s.regInt .iRT_SET0 j + n) v
    if width = 0 then ∀ n, t.reg .iRT_SET n = s.reg .iRT_SET n
    else t.reg .iRT_SET j = ofInt 16 (moved j 2 delay) ∧ t.reg .iRT_SET (j + 1) = ofInt 16 (moved (j + 1) 1 vref) ∧
      ∀ n, n ≠ j → n ≠ j + 1 → t.reg .iRT_SET n = s.reg .iRT_SET n
  last : s.reg .iRT_LEFT c = 1 → Counted s t .CH_RETRAINS c 1 ∧ t.Holds .CH_RD_EYE_W c (s.reg .iRT_RW c) ∧
    t.Holds .CH_RD_EYE_H c (s.reg .iRT_RH c) ∧ bit (t.reg .iHB_HELD 0) c = false
  earlier : s.reg .iRT_LEFT c ≠ 1 → t.reg .CH_RETRAINS c = s.reg .CH_RETRAINS c ∧ (width ≠ 0 → width < 16 →
    t.lastEvent = some (Code.hbmMargin, packBits [(8, c), (8, width)]))
  onlyAt : OnlyAt s t retrainRegs c

theorem State.retrainPause_spec (s : State) {c : Nat} (hc : c < 32) (width height : Nat) (delay vref : Int) :
    RetrainPaused s (s.retrainPause c width height delay vref) c width delay vref where
  left := s.retrainPause_left
  deferrals := s.retrainPause_deferrals
  reads := s.retrainPause_counted
  settings := s.retrainPause_settings
  last := s.retrainPause_last hc
  earlier := s.retrainPause_earlier
  onlyAt := s.retrainPause_onlyAt

/-! ## RETRAIN_PAUSE -/

/-- Two conditions with one result are one condition. -/
theorem ite_ite_of_same {α : Type} (p q : Prop) [Decidable p] [Decidable q] (a b : α) :
    (if p then a else if q then a else b) = if p ∨ q then a else b := by
  by_cases hp : p
  · rw [if_pos hp, if_pos (.inl hp)]
  by_cases hq : q
  · rw [if_neg hp, if_pos hq, if_pos (.inr hq)]
  · rw [if_neg hp, if_neg hq, if_neg (not_or.2 ⟨hp, hq⟩)]

/-- A pause waits for its time, for PLL-HB and for an urgent PLANE request. -/
theorem exec_retrainPause (c : Fin 32) (urgent : Bool) (width : Fin 65) (height delay vref : BitVec 16) (seen : Seen)
    (s : State) : exec (.retrainPause c urgent width height delay vref seen) s =
      if s.reg .iRT_LEFT c.val = 0 ∨ s.reg .CK_STATE 2 ≠ 3 ∨
          (s.reg .iRT_LEFT c.val < 8 ∧ s.clock < s.reg .iRT_LAST c.val + 50000) ∨
          (urgent = true ∧ s.clock < s.reg .iRT_SINCE c.val + 2000000) then .next s
      else .next ((((s.see seen).cond urgent (·.bump .CH_DEFERRALS c.val)).retrainPause c.val width.val
        height.toNat delay.toInt vref.toInt).see s.seen) := by
  have hexec : exec (.retrainPause c urgent width height delay vref seen) s =
      if s.reg .iRT_LEFT c.val = 0 ∨ s.reg .CK_STATE 2 ≠ 3 ∨
          (s.reg .iRT_LEFT c.val < 8 ∧ s.clock < s.reg .iRT_LAST c.val + 50000) then .next s
      else if urgent && decide (s.clock < s.reg .iRT_SINCE c.val + 2000000) then .next s
      else .next ((((s.see seen).cond urgent (·.bump .CH_DEFERRALS c.val)).retrainPause c.val width.val
        height.toNat delay.toInt vref.toInt).see s.seen) := rfl
  rw [hexec]
  simp only [Bool.and_eq_true, decide_eq_true_eq, ite_ite_of_same, or_assoc]

/-- RETRAIN_PAUSE (R295). -/
theorem retrainPause_completes (c : Fin 32) (urgent : Bool) (width : Fin 65) (height delay vref : BitVec 16)
    (seen : Seen) (s : State) :
    let k := c.val
    let left := s.reg .iRT_LEFT k
    let j := if 4 < left then 4 * k else 4 * k + 2
    let moved (j n : Nat) (v : Int) :=
      clampInt (s.regInt .iRT_SET0 j - n) (s.regInt .iRT_SET0 j + n) v
    if left = 0 ∨ s.reg .CK_STATE 2 ≠ 3 ∨ (left < 8 ∧ s.clock < s.reg .iRT_LAST k + 50000) ∨
         (urgent = true ∧ s.clock < s.reg .iRT_SINCE k + 2000000) then
      exec (.retrainPause c urgent width height delay vref seen) s = .next s
    else
      ∃ t, exec (.retrainPause c urgent width height delay vref seen) s = .next t ∧
        Touches Changes.retrainPause s t ∧
        t.Holds .iRT_LEFT k (left - 1) ∧
        (if urgent then Counted s t .CH_DEFERRALS k 1 else t.reg .CH_DEFERRALS k = s.reg .CH_DEFERRALS k) ∧
        (4 < left → Counted s t .QP_BYTES 1 2048) ∧
        (if width.val = 0 then ∀ n, t.reg .iRT_SET n = s.reg .iRT_SET n
          else t.reg .iRT_SET j = ofInt 16 (moved j 2 delay.toInt) ∧
            t.reg .iRT_SET (j + 1) = ofInt 16 (moved (j + 1) 1 vref.toInt) ∧
            ∀ n, n ≠ j → n ≠ j + 1 → t.reg .iRT_SET n = s.reg .iRT_SET n) ∧
        (if left = 1 then Counted s t .CH_RETRAINS k 1 ∧ t.Holds .CH_RD_EYE_W k (s.reg .iRT_RW k) ∧
            t.Holds .CH_RD_EYE_H k (s.reg .iRT_RH k) ∧ bit (t.reg .iHB_HELD 0) k = false
          else t.reg .CH_RETRAINS k = s.reg .CH_RETRAINS k ∧ (width.val ≠ 0 → width.val < 16 →
            t.lastEvent = some (Code.hbmMargin, packBits [(8, k), (8, width.val)]))) ∧
        OnlyAt s t [.iRT_LEFT, .CH_DEFERRALS, .CH_RETRAINS, .CH_RD_EYE_W, .CH_RD_EYE_H, .CH_WR_EYE_W,
          .CH_WR_EYE_H] k := by
  intro k left j moved
  refine completes_unless (exec_retrainPause c urgent width height delay vref seen s)
    (execRetrainPause_touches (by decide) (.refl _ s)) fun _ => ?_
  have hu : Touches [.fld .seen, .reg .CH_DEFERRALS] s ((s.see seen).cond urgent (·.bump .CH_DEFERRALS k)) :=
    cond_touches (State.see_touches (by decide) (.refl _ s)) fun _ hx => State.bump_touches (by decide) hx
  have hcount : Counted s ((s.see seen).cond urgent (·.bump .CH_DEFERRALS k)) .CH_DEFERRALS k (b2n urgent) :=
    (s.see seen).cond_bump_counted urgent .CH_DEFERRALS k
  have hothers (n : Nat) (hn : k ≠ n) :
      ((s.see seen).cond urgent (·.bump .CH_DEFERRALS k)).reg .CH_DEFERRALS n = s.reg .CH_DEFERRALS n :=
    (s.see seen).cond_bump_reg urgent .CH_DEFERRALS k fun h => hn h.2
  generalize (s.see seen).cond urgent (·.bump .CH_DEFERRALS k) = u at hu hcount hothers
  have hsame (r : Reg) (n : Nat) (hr : r ≠ .CH_DEFERRALS) : u.reg r n = s.reg r n :=
    hu.reg r n (by simpa using hr) (by decide)
  have hleft : u.reg .iRT_LEFT c.val = s.reg .iRT_LEFT c.val := hsame _ _ (by decide)
  have hbegan (n : Nat) : u.regInt .iRT_SET0 n = s.regInt .iRT_SET0 n := congrArg (asInt _) (hsame _ _ (by decide))
  obtain ⟨hpaused, hdeferrals, hreads, hsettings, hlast, hearlier, honly⟩ :=
    u.retrainPause_spec c.isLt width.val height.toNat delay.toInt vref.toInt
  generalize u.retrainPause c.val width.val height.toNat delay.toInt vref.toInt = v at *
  refine ⟨?_, ?_, fun hread => ?_, ?_, ?_, fun r hr n hn => ?_⟩
  · rwa [hleft] at hpaused
  · cases urgent with
    | true => exact (hdeferrals k).trans hcount
    | false => exact (hdeferrals k).trans (hcount.trans (s.reg_mod ..))
  · exact (hreads (hleft.symm ▸ hread)).of_touches hu (by decide) (by decide)
  · simp only [hbegan, hleft, hsame .iRT_SET _ (by decide)] at hsettings
    exact hsettings
  · split
    case isTrue h =>
      obtain ⟨hretrains, hw, hh, hheld⟩ := hlast (hleft.trans h)
      rw [hsame .iRT_RW _ (by decide)] at hw
      rw [hsame .iRT_RH _ (by decide)] at hh
      exact ⟨hretrains.of_touches hu (by decide) (by decide), hw, hh, hheld⟩
    case isFalse h =>
      rw [hleft, hsame .CH_RETRAINS _ (by decide)] at hearlier
      exact hearlier h
  · rw [State.see_reg, honly r hr n hn]
    by_cases hd : r = .CH_DEFERRALS
    · rw [hd, hothers n hn]
    · exact hsame r n hd

/-- Settles O22: each command by its own lemma. -/
theorem storeUpkeep : Obligations.StoreUpkeep :=
  ⟨refresh_completes, stackTempRead_completes, neighbourRefresh_completes, retrainDue_completes,
    retrainPause_completes, chRetrainNow_completes, msRetrainEnDisable_completes⟩

end Sys2Proof.Machine
end

section
/-! The initialising sweep and the scrubbers (09_central_store.md, R279, R281, R296 to R300, R405): what a burst leaves,
what the words of a burst queue, and the writes of SC_ENABLE. -/
namespace Sys2Proof.Machine

/-! ## Grants -/

/-- An operation that asks for its grant waits for it, or holds it already. -/
theorem State.request_waiting (s : State) {op : PowerOp} (h : s.granted op = false) :
    (s.request op).waiting op = true := by
  unfold State.request
  by_cases hwaits : s.waiting op = true
  · rw [if_pos (by rw [hwaits, Bool.or_true])]
    exact hwaits
  · rw [if_neg (by simpa [h] using hwaits)]
    split
    · simp [State.waiting]
    · simp [State.waiting]

theorem State.request_frame (s : State) (op : PowerOp) :
    Touches [.fld .highReqs, .fld .normalReqs] s (s.request op) :=
  State.request_touches (by decide) (by decide) (.refl _ s)

/-- A burst returns its grant, and sees no longer what the channels showed it. -/
theorem State.release_see_frame (s : State) (op : PowerOp) (x : Seen) :
    Touches [.fld .grants, .fld .highReqs, .fld .normalReqs, .fld .seen] s ((s.release op).see x) :=
  State.see_touches (by decide) (State.release_touches (by decide) (by decide) (by decide) (.refl _ s))

/-! ## The sweep (R279, R281) -/

section
variable (s : State)

/-- The writes of a burst of the sweep, before its pointers move on. -/
def State.sweepWritten : State :=
  let rows := (List.range 32).map s.sweepWrites
  forN 32 (s.serveAll .scrub (1024 * rows.sum)).closeRows
    fun t c => (t.move c (1024 * rows.getD c 0)).activateRows c (rows.getD c 0)

/-- The pointers of the sweep move on by 256 local rows. -/
def State.sweepMoved : State := forN 64 s fun t p => t.setReg .iSWEEP p (min 786432 (t.reg .iSWEEP p + 256))

/-- Every pseudo-channel is swept. -/
def State.sweepDone : State := { s.setReg .MS_INIT_STATE 0 1 with rowsAhead := [] }

theorem State.sweep_eq : s.sweep =
    let u := s.sweepWritten.sweepMoved
    if (List.range 64).all (fun p => decide (786432 ≤ u.reg .iSWEEP p)) then u.sweepDone else u := rfl

theorem forN_activate_frame (rows : Nat → Nat) (bytes : Nat → Nat) (n : Nat) :
    Touches (State.move_foot ++ State.activateRows_foot) s
      (forN n s fun t c => (t.move c (bytes c)).activateRows c (rows c)) :=
  forN_touches (.refl _ s) fun _ _ hx => State.activateRows_touches (fun _ => List.mem_append_right _)
    (State.move_touches (fun _ => List.mem_append_left _) hx)

theorem State.sweepWritten_frame : Touches (State.serveAll_foot ++ State.closeRows_foot ++
    (State.move_foot ++ State.activateRows_foot)) s s.sweepWritten :=
  ((State.serveAll_touches (fun _ h => h) (.refl _ s)).append
    (State.closeRows_touches (fun _ h => h) (.refl _ _))).append (forN_activate_frame ..)

theorem State.sweepWritten_counted :
    Counted s s.sweepWritten .QP_BYTES 11 (1024 * ((List.range 32).map s.sweepWrites).sum) :=
  ((s.serveAll_counted .scrub _).touches (State.closeRows_touches (fun _ h => h) (.refl _ _)) (by decide)
    (by decide)).touches (forN_activate_frame ..) (by decide) (by decide)

theorem State.sweepMoved_frame : Touches [.reg .iSWEEP] s s.sweepMoved :=
  forN_touches (.refl _ s) fun _ _ hx => State.setReg_touches List.mem_cons_self hx

theorem State.sweepMoved_sweep {p : Nat} (hp : p < 64) :
    s.sweepMoved.reg .iSWEEP p = min 786432 (s.reg .iSWEEP p + 256) := by
  have hfits (v : Nat) : min 786432 v % 2 ^ Reg.iSWEEP.width = min 786432 v :=
    Nat.mod_eq_of_lt (Nat.lt_of_le_of_lt (Nat.min_le_left _ v) (by decide))
  have hstep (t : State) (k j : Nat) : (t.setReg .iSWEEP k (min 786432 (t.reg .iSWEEP k + 256))).reg .iSWEEP j =
      if k = j then min 786432 (t.reg .iSWEEP j + 256) else t.reg .iSWEEP j := by
    rw [State.reg_setReg, hfits]
    by_cases hkj : k = j
    · subst hkj
      simp only [true_and, if_true]
    · simp only [hkj, and_false, if_false]
  exact (State.forN_reg (ix := id) Function.injective_id (g := fun _ v => min 786432 (v + 256)) hstep s 64 p).trans
    (if_pos hp)

theorem State.sweepDone_frame : Touches [.reg .MS_INIT_STATE, .fld .rowsAhead] s s.sweepDone :=
  (State.setReg_touches (r := .MS_INIT_STATE) (i := 0) (v := 1) (by decide) (.refl _ s)).one (f := .rowsAhead)
    (by decide) (fun f hf => by cases f <;> first | rfl | exact absurd rfl hf) rfl rfl rfl rfl rfl rfl rfl

theorem State.sweepDone_spec : s.sweepDone.reg .MS_INIT_STATE 0 = 1 ∧ s.sweepDone.rowsAhead = [] :=
  ⟨s.setReg_reg_self .MS_INIT_STATE 0 1, rfl⟩

/-- What a burst of the sweep leaves. -/
theorem State.sweep_spec : let t := s.sweep
    Counted s t .QP_BYTES 11 (1024 * ((List.range 32).map s.sweepWrites).sum) ∧
    (∀ p, p < 64 → t.reg .iSWEEP p = min 786432 (s.reg .iSWEEP p + 256)) ∧
    if (List.range 64).all (fun p => decide (786432 ≤ s.reg .iSWEEP p + 256)) = true then
      t.reg .MS_INIT_STATE 0 = 1 ∧ t.rowsAhead = []
    else t.reg .MS_INIT_STATE 0 = s.reg .MS_INIT_STATE 0 ∧ t.rowsAhead = s.rowsAhead := by
  let u := s.sweepWritten.sweepMoved
  have hmoved := s.sweepWritten.sweepMoved_frame
  have hwritten := s.sweepWritten_frame
  have hcount : Counted s u .QP_BYTES 11 _ := s.sweepWritten_counted.touches hmoved (by decide) (by decide)
  have hsweep (p : Nat) (hp : p < 64) : u.reg .iSWEEP p = min 786432 (s.reg .iSWEEP p + 256) := by
    rw [s.sweepWritten.sweepMoved_sweep hp, hwritten.reg _ _ (by decide) (by decide)]
  have hdone : (List.range 64).all (fun p => decide (786432 ≤ u.reg .iSWEEP p)) =
      (List.range 64).all (fun p => decide (786432 ≤ s.reg .iSWEEP p + 256)) := by
    rw [Bool.eq_iff_iff, List.all_eq_true, List.all_eq_true]
    refine forall₂_congr fun p hp => ?_
    rw [hsweep p (List.mem_range.1 hp), decide_eq_true_iff, decide_eq_true_iff]
    omega
  have hinit : u.reg .MS_INIT_STATE 0 = s.reg .MS_INIT_STATE 0 :=
    (hmoved.reg _ _ (by decide) (by decide)).trans (hwritten.reg _ _ (by decide) (by decide))
  have hrows : u.rowsAhead = s.rowsAhead :=
    (hmoved.fld .rowsAhead (by decide) (by decide)).trans (hwritten.fld .rowsAhead (by decide) (by decide))
  rw [State.sweep_eq]
  dsimp only
  rw [hdone]
  split
  case isTrue h =>
    have hends := u.sweepDone_frame
    exact ⟨hcount.touches hends (by decide) (by decide), fun p hp =>
      (hends.reg _ _ (by decide) (by decide)).trans (hsweep p hp), u.sweepDone_spec⟩
  case isFalse h => exact ⟨hcount, hsweep, hinit, hrows⟩

end

/-- SWEEP_BURST (R279, R281, R296). -/
theorem sweepBurst_completes (seen : Seen) (s : State) :
    if s.reg .MS_INIT_STATE 0 = 1 ∨ (s.granted .sweepBurst = true ∧ s.storeServes = false) then
      exec (.sweepBurst seen) s = .next s
    else if s.granted .sweepBurst = true then
      ∃ t, exec (.sweepBurst seen) s = .next t ∧ Touches Changes.sweepBurst s t ∧
        Counted s t .QP_BYTES 11 (1024 * ((List.range 32).map s.sweepWrites).sum) ∧
        (∀ p, p < 64 → t.reg .iSWEEP p = min 786432 (s.reg .iSWEEP p + 256)) ∧
        t.grants = s.grants.erase .sweepBurst ∧
        if (List.range 64).all (fun p => decide (786432 ≤ s.reg .iSWEEP p + 256)) = true then t.reg .MS_INIT_STATE 0
            = 1 ∧ t.rowsAhead = []
        else t.reg .MS_INIT_STATE 0 = s.reg .MS_INIT_STATE 0 ∧ t.rowsAhead = s.rowsAhead
    else
      ∃ t, exec (.sweepBurst seen) s = .next t ∧ Touches Changes.sweepBurst s t ∧
        t.waiting .sweepBurst = true ∧ t.grants = s.grants ∧ ∀ p, t.reg .iSWEEP p = s.reg .iSWEEP p := by
  have hexec : exec (.sweepBurst seen) s =
      if s.reg .MS_INIT_STATE 0 = 1 then .next s
      else if s.granted .sweepBurst then
        if s.storeServes then .next (((s.see seen).sweep.release .sweepBurst).see s.seen) else .next s
      else .next (s.request .sweepBurst) := rfl
  have hframe : OutTouches Changes.sweepBurst s (exec (.sweepBurst seen) s) :=
    execSweepBurst_touches (by decide) (.refl _ s)
  split
  case isTrue hwaits =>
    obtain hinit | ⟨hgrant, hserves⟩ := hwaits
    · rw [hexec, if_pos hinit]
    · rw [hexec, if_pos hgrant, hserves, if_neg Bool.false_ne_true, ite_self]
  case isFalse hwaits =>
    obtain ⟨hinit, hserves⟩ := not_or.1 hwaits
    rw [if_neg hinit] at hexec
    split
    case isTrue hgrant =>
      have hserve : s.storeServes = true := by simpa [hgrant] using hserves
      rw [if_pos hgrant, if_pos hserve] at hexec
      have hseen : Touches [.fld .seen] s (s.see seen) := State.see_touches (by decide) (.refl _ s)
      obtain ⟨hcount, hsweep, hdone⟩ := (s.see seen).sweep_spec
      have hgrants : (s.see seen).sweep.grants = s.grants :=
        (State.sweep_touches (fun _ h => h) (.refl _ (s.see seen))).fld .grants (by decide) (by decide)
      have hwrites : (s.see seen).sweepWrites = s.sweepWrites := rfl
      have hrows : (s.see seen).rowsAhead = s.rowsAhead := rfl
      rw [hwrites] at hcount
      simp only [State.see_reg, hrows] at hsweep hdone
      generalize (s.see seen).sweep = u at hexec hcount hsweep hdone hgrants
      have hback := u.release_see_frame .sweepBurst s.seen
      refine completes_of_next hexec hframe ⟨(hcount.touches hback (by decide) (by decide)).of_touches hseen (by decide)
        (by decide), hsweep, ?_, hdone⟩
      rw [← hgrants]
      rfl
    case isFalse hgrant =>
      rw [if_neg hgrant] at hexec
      have hask := s.request_frame .sweepBurst
      exact completes_of_next hexec hframe ⟨s.request_waiting (Bool.eq_false_iff.2 hgrant),
        hask.fld .grants (by decide) (by decide), fun _ => hask.reg _ _ (by decide) (by decide)⟩

end Sys2Proof.Machine
end

section
/-! The store scrubber and the cache scrubber (09_central_store.md, R296 to R300, R405): the words of a burst, the walk,
and the writes of SC_ENABLE. -/
namespace Sys2Proof.Machine

/-! ## The words of a burst (R298) -/

/-- The write-back that the scrubber queues for a faulty word. -/
def scrubbed (e : Nat × Finding) : WriteBack := ⟨e.1, e.2 == .uncorrectable, false, true⟩

section
variable (s : State)

theorem State.logPoison_frame (w finder space id : Nat) :
    Touches State.logPoison_foot s (s.logPoison w finder space id) :=
  State.logPoison_touches (fun _ h => h) (.refl _ s)

/-- A faulty word that is not poisoned yet is queued, and no other. -/
theorem State.scrubWord_writeBacks (w : Nat) (f : Finding) : (s.scrubWord w f).writeBacks =
    if s.poisoned w then s.writeBacks else s.writeBacks ++ [scrubbed (w, f)] := by
  unfold State.scrubWord
  split
  · rfl
  · cases f with
    | correctable => rfl
    | uncorrectable => exact (State.logPoison_frame ..).fld .writeBacks (by decide) (by decide)

/-- The scrubber marks no word itself: the write-back does. -/
theorem State.scrubWord_poisoned (w v : Nat) (f : Finding) : (s.scrubWord w f).poisoned v = s.poisoned v :=
  congrArg (List.contains · v)
    ((State.scrubWord_touches (fun _ h => h) (.refl _ s)).fld .poison (by decide) (by decide))

theorem State.scrubWords_writeBacks (ws : List (Nat × Finding)) : (s.scrubWords ws).writeBacks =
    s.writeBacks ++ (ws.filter fun e => !s.poisoned e.1).map scrubbed := by
  induction ws generalizing s with
  | nil => exact (List.append_nil _).symm
  | cons e ws ih =>
    obtain ⟨w, f⟩ := e
    rw [State.scrubWords, ih, State.scrubWord_writeBacks]
    simp only [State.scrubWord_poisoned, List.filter_cons]
    cases s.poisoned w <;> simp

end

/-! ## A burst (R297) -/

section
variable (s : State) (k : Nat)

/-- The lap of a scrubber is opened, and seen to be slow. -/
theorem State.lapNoted_frame : Touches (State.openLap_foot ++ State.scrubSlow_foot) s ((s.openLap k).scrubSlow k) :=
  (State.openLap_touches (fun _ h => h) (.refl _ s)).append (State.scrubSlow_touches (fun _ h => h) (.refl _ _))

theorem State.lapEnd_frame : Touches State.lapEnd_foot s (s.lapEnd k) := State.lapEnd_touches (fun _ h => h) (.refl _ s)

/-- Every controller has read its part of a burst. -/
def State.burstRead : State :=
  forN 32 (((s.openLap 0).scrubSlow 0).serveAll .scrub 16777216).closeRows
    fun t c => (t.move c 524288).activateRows c 512

/-- The faulty words of a burst at `a`. -/
def burstWords (a : Nat) (found : List (Nat × Finding)) : List (Nat × Finding) :=
  found.filter fun e => decide (a ≤ 32 * e.1) && decide (32 * e.1 < a + 16777216)

/-- The walk stands at `a` after a burst, or at the start of a new lap. -/
def State.walkOn (a : Nat) : State :=
  if storeSize ≤ a then (s.setReg .SC_POSITION 0 0).lapEnd 0 else s.setReg .SC_POSITION 0 a

theorem State.scrubBurst_eq : s.scrubBurst =
    (s.burstRead.scrubWords (burstWords (s.reg .SC_POSITION 0) s.seen.found)).walkOn
      (s.reg .SC_POSITION 0 + 16777216) := rfl

theorem State.burstRead_frame : Touches (State.openLap_foot ++ State.scrubSlow_foot ++ State.serveAll_foot ++
    State.closeRows_foot ++ (State.move_foot ++ State.activateRows_foot)) s s.burstRead :=
  (((s.lapNoted_frame 0).append (State.serveAll_touches (fun _ h => h) (.refl _ _))).append
    (State.closeRows_touches (fun _ h => h) (.refl _ _))).append (forN_activate_frame ..)

theorem State.burstRead_counted : Counted s s.burstRead .QP_BYTES 11 16777216 :=
  ((((s.openLap 0).scrubSlow 0).serveAll_counted .scrub 16777216).touches
    (State.closeRows_touches (fun _ h => h) (.refl _ _)) (by decide) (by decide)).touches
    (forN_activate_frame ..) (by decide) (by decide) |>.of_touches (s.lapNoted_frame 0) (by decide) (by decide)

theorem State.scrubWords_frame (ws : List (Nat × Finding)) : Touches State.scrubWords_foot s (s.scrubWords ws) :=
  State.scrubWords_touches (fun _ h => h) (.refl _ s)

theorem State.walkOn_frame (a : Nat) : Touches (.reg .SC_POSITION :: State.lapEnd_foot) s (s.walkOn a) :=
  have hmoved (v : Nat) : Touches (.reg .SC_POSITION :: State.lapEnd_foot) s (s.setReg .SC_POSITION 0 v) :=
    State.setReg_touches List.mem_cons_self (.refl _ s)
  .ite (State.lapEnd_touches (fun _ => List.mem_cons_of_mem _) (hmoved 0)) (hmoved a)

theorem State.walkOn_holds (a : Nat) : (s.walkOn a).Holds .SC_POSITION 0 (if storeSize ≤ a then 0 else a) := by
  unfold State.walkOn
  split
  · exact ((State.lapEnd_frame _ 0).reg _ _ (by decide) (by decide)).trans (State.setReg_reg_self ..)
  · exact State.setReg_reg_self ..

theorem State.walkOn_onlyAt (a : Nat) : OnlyAt s (s.walkOn a) [.SC_POSITION, .SC_STATE] 0 := by
  have hmoved (v : Nat) : OnlyAt s (s.setReg .SC_POSITION 0 v) [.SC_POSITION, .SC_STATE] 0 :=
    (OnlyAt.refl s _ 0).setReg _ _
  unfold State.walkOn
  split
  · exact (hmoved 0).touches (State.lapEnd_frame _ 0) (by decide) (by decide)
  · exact hmoved a

/-- What a burst of the store scrubber leaves (R297, R298). -/
theorem State.scrubBurst_spec :
    let a := s.reg .SC_POSITION 0
    let t := s.scrubBurst
    Counted s t .QP_BYTES 11 16777216 ∧
    t.Holds .SC_POSITION 0 (if storeSize ≤ a + 16777216 then 0 else a + 16777216) ∧
    (∀ e ∈ s.seen.found, a ≤ 32 * e.1 → 32 * e.1 < a + 16777216 → s.poisoned e.1 = false →
      scrubbed e ∈ t.writeBacks) ∧
    OnlyAt s t [.SC_POSITION, .SC_STATE] 0 := by
  intro a t
  let words := burstWords a s.seen.found
  have hread := s.burstRead_frame
  have hwords := s.burstRead.scrubWords_frame words
  have hwalk := (s.burstRead.scrubWords words).walkOn_frame (a + 16777216)
  have ht : t = (s.burstRead.scrubWords words).walkOn (a + 16777216) := s.scrubBurst_eq
  rw [ht]
  refine ⟨?_, State.walkOn_holds .., fun e he hlo hhi hclean => ?_, ?_⟩
  · exact (s.burstRead_counted.touches hwords (by decide) (by decide)).touches hwalk (by decide) (by decide)
  · have hfaulty : e ∈ words.filter fun e => !s.burstRead.poisoned e.1 := by
      have hpoisoned : s.burstRead.poisoned e.1 = s.poisoned e.1 :=
        congrArg (List.contains · e.1) (hread.fld .poison (by decide) (by decide))
      simp [words, burstWords, he, hlo, hhi, hpoisoned, hclean]
    rw [hwalk.fld .writeBacks (by decide) (by decide), State.scrubWords_writeBacks]
    exact List.mem_append_right _ (List.mem_map_of_mem hfaulty)
  · have honly := ((OnlyAt.refl s [.SC_POSITION, .SC_STATE] 0).touches hread (by decide) (by decide)).touches hwords
      (by decide) (by decide)
    exact fun r hr j hj => (State.walkOn_onlyAt _ _ r hr j hj).trans (honly r hr j hj)

end

/-! ## SCRUB_BURST -/

section
variable (s : State) (k abandoned : Nat)

/-- A scrubber that is off reports it. -/
theorem State.scrubOff_reports : Touches State.raiseDisabled_foot
    ((s.setReg .SC_STATE k 0).setReg .iLAP_BROKEN k 1) (s.scrubOff k abandoned) :=
  State.raiseDisabled_touches (fun _ h => h) (.refl _ _)

theorem State.scrubOff_frame : Touches State.scrubOff_foot s (s.scrubOff k abandoned) :=
  State.scrubOff_touches (fun _ h => h) (.refl _ s)

theorem State.scrubOff_state : (s.scrubOff k abandoned).reg .SC_STATE k = 0 := by
  rw [(s.scrubOff_reports k abandoned).reg _ _ (by decide) (by decide), State.setReg_reg_of_ne _ _ _ _ (by decide),
    State.setReg_reg_self]
  rfl

theorem State.scrubOff_onlyAt {l : List Reg} (hl : ∀ r ∈ l, Part.reg r ∉ State.raiseDisabled_foot) :
    OnlyAt s (s.scrubOff k abandoned) l k :=
  (((OnlyAt.refl s l k).setReg .SC_STATE 0).setReg .iLAP_BROKEN 1).touches (s.scrubOff_reports k abandoned) hl
    (by decide)

end

/-- After a burst the scrubber goes on, or is off where it drained. -/
def State.burstEnds (s : State) (draining : Bool) : State :=
  if draining then s.scrubOff 0 0 else s.setReg .SC_STATE 0 2

theorem State.burstEnds_frame (s : State) (draining : Bool) : Touches State.scrubOff_foot s (s.burstEnds draining) :=
  .ite (s.scrubOff_frame 0 0) (State.setReg_touches (by decide) (.refl _ s))

theorem State.burstEnds_state (s : State) (draining : Bool) :
    (s.burstEnds draining).reg .SC_STATE 0 = if draining then 0 else 2 := by
  cases draining with
  | true => exact s.scrubOff_state 0 0
  | false => exact s.setReg_reg_self .SC_STATE 0 2

theorem State.burstEnds_onlyAt (s : State) (draining : Bool) :
    OnlyAt s (s.burstEnds draining) [.SC_POSITION, .SC_STATE] 0 := by
  cases draining with
  | true => exact s.scrubOff_onlyAt 0 0 (by decide)
  | false => exact (OnlyAt.refl s _ 0).setReg _ _

/-- A burst with the grant held, which it returns. -/
def State.burstRun (s : State) (seen : Seen) : State :=
  (((s.see seen).scrubBurst.release .scrubBurst).see s.seen).burstEnds (s.reg .SC_STATE 0 == 4)

theorem State.burstRun_spec (s : State) (seen : Seen) :
    let a := s.reg .SC_POSITION 0
    let t := s.burstRun seen
    Counted s t .QP_BYTES 11 16777216 ∧
    t.Holds .SC_POSITION 0 (if storeSize ≤ a + 16777216 then 0 else a + 16777216) ∧
    t.grants = s.grants.erase .scrubBurst ∧ t.reg .SC_STATE 0 = (if s.reg .SC_STATE 0 = 4 then 0 else 2) ∧
    (∀ e ∈ seen.found, a ≤ 32 * e.1 → 32 * e.1 < a + 16777216 → s.poisoned e.1 = false →
      scrubbed e ∈ t.writeBacks) ∧
    OnlyAt s t [.SC_POSITION, .SC_STATE] 0 := by
  intro a t
  have hseen : Touches [.fld .seen] s (s.see seen) := State.see_touches (by decide) (.refl _ s)
  obtain ⟨hcount, hwalk, hqueued, honly⟩ := (s.see seen).scrubBurst_spec
  have hgrants : (s.see seen).scrubBurst.grants = s.grants :=
    (State.scrubBurst_touches (fun _ h => h) (.refl _ (s.see seen))).fld .grants (by decide) (by decide)
  have ht : t = (((s.see seen).scrubBurst.release .scrubBurst).see s.seen).burstEnds (s.reg .SC_STATE 0 == 4) := rfl
  generalize (s.see seen).scrubBurst = u at ht hcount hwalk hqueued honly hgrants
  have hback := u.release_see_frame .scrubBurst s.seen
  have hreleased : ((u.release .scrubBurst).see s.seen).grants = u.grants.erase .scrubBurst := rfl
  generalize (u.release .scrubBurst).see s.seen = v at ht hback hreleased
  have hends := v.burstEnds_frame (s.reg .SC_STATE 0 == 4)
  rw [ht]
  refine ⟨?_, ?_, ?_, ?_, fun e he hlo hhi hclean => ?_, fun r hr j hj => ?_⟩
  · exact ((hcount.touches hback (by decide) (by decide)).touches hends (by decide) (by decide)).of_touches hseen
      (by decide) (by decide)
  · exact (hends.reg _ _ (by decide) (by decide)).trans ((hback.reg _ _ (by decide) (by decide)).trans hwalk)
  · rw [hends.fld .grants (by decide) (by decide), hreleased, hgrants]
  · rw [State.burstEnds_state]
    simp only [beq_iff_eq]
  · rw [hends.fld .writeBacks (by decide) (by decide), hback.fld .writeBacks (by decide) (by decide)]
    exact hqueued e he hlo hhi hclean
  · have hfree : ∀ q ∈ [Reg.SC_POSITION, .SC_STATE],
        Part.reg q ∉ [.fld .grants, .fld .highReqs, .fld .normalReqs, .fld .seen] := by decide
    rw [v.burstEnds_onlyAt _ r hr j hj, hback.reg r j (hfree r hr) (by decide)]
    exact honly r hr j hj

/-- SCRUB_BURST (R296 to R298, R300). -/
theorem scrubBurst_completes (seen : Seen) (s : State) :
    let a := s.reg .SC_POSITION 0
    if s.reg .SC_ENABLE 0 = 0 ∧ s.reg .SC_STATE 0 ≠ 4 then exec (.scrubBurst seen) s = .next s
    else if s.reg .MS_INIT_STATE 0 = 0 then exec (.scrubBurst seen) s = .next (s.setReg .SC_STATE 0 1)
    else if s.granted .scrubBurst = true ∧ s.storeServes = false then exec (.scrubBurst seen) s = .next s
    else if s.granted .scrubBurst = true then
      ∃ t, exec (.scrubBurst seen) s = .next t ∧ Touches Changes.scrubBurst s t ∧
        Counted s t .QP_BYTES 11 16777216 ∧
        t.Holds .SC_POSITION 0 (if storeSize ≤ a + 16777216 then 0 else a + 16777216) ∧
        t.grants = s.grants.erase .scrubBurst ∧ t.reg .SC_STATE 0 = (if s.reg .SC_STATE 0 = 4 then 0 else 2) ∧
        (∀ e ∈ seen.found, a ≤ 32 * e.1 → 32 * e.1 < a + 16777216 → s.poisoned e.1 = false →
          (⟨e.1, e.2 == .uncorrectable, false, true⟩ : WriteBack) ∈ t.writeBacks) ∧
        OnlyAt s t [.SC_POSITION, .SC_STATE] 0
    else
      ∃ t, exec (.scrubBurst seen) s = .next t ∧ Touches Changes.scrubBurst s t ∧
        t.waiting .scrubBurst = true ∧ t.reg .SC_STATE 0 = 2 ∧ t.reg .SC_POSITION 0 = a := by
  intro a
  have hexec : exec (.scrubBurst seen) s =
      if s.reg .SC_ENABLE 0 = 0 ∧ (s.reg .SC_STATE 0 == 4) = false then .next s
      else if s.reg .MS_INIT_STATE 0 = 0 then .next (s.setReg .SC_STATE 0 1)
      else if s.granted .scrubBurst then
        if s.storeServes then .next (s.burstRun seen) else .next s
      else .next ((s.request .scrubBurst).setReg .SC_STATE 0 2) := rfl
  have hframe : OutTouches Changes.scrubBurst s (exec (.scrubBurst seen) s) :=
    execScrubBurst_touches (by decide) (.refl _ s)
  simp only [beq_eq_false_iff_ne] at hexec
  split
  case isTrue hoff => rw [hexec, if_pos hoff]
  case isFalse hon =>
    rw [if_neg hon] at hexec
    split
    case isTrue hinit => rw [hexec, if_pos hinit]
    case isFalse hinit =>
      rw [if_neg hinit] at hexec
      split
      case isTrue hwaits =>
        obtain ⟨hgrant, hserves⟩ := hwaits
        rw [hexec, if_pos hgrant, hserves, if_neg Bool.false_ne_true]
      case isFalse hserves =>
        split
        case isTrue hgrant =>
          have hserve : s.storeServes = true := by simpa [hgrant] using hserves
          rw [if_pos hgrant, if_pos hserve] at hexec
          exact completes_of_next hexec hframe (s.burstRun_spec seen)
        case isFalse hgrant =>
          rw [if_neg hgrant] at hexec
          have hask := s.request_frame .scrubBurst
          refine completes_of_next hexec hframe ⟨s.request_waiting (Bool.eq_false_iff.2 hgrant),
            State.setReg_reg_self .., ?_⟩
          exact (State.setReg_reg_of_ne _ _ _ _ (by decide)).trans (hask.reg _ _ (by decide) (by decide))

end Sys2Proof.Machine
end

section
/-! The cache scrubber and the writes of SC_ENABLE (09_central_store.md, R297, R300, R405). -/
namespace Sys2Proof.Machine

/-! ## CACHE_SCRUB -/

section
variable (s : State) (n : Nat) (found : Option Finding) (last : Bool)

/-- What the check of a line finds is counted, and an uncorrectable line is invalidated. -/
def State.lineChecked : State :=
  match found with
  | none => s
  | some .correctable => s.bump .SC_CORRECTED 1
  | some .uncorrectable =>
    (s.bump .SC_UNCORRECTABLE 1).setReg .iCACHE_INVALID n (s.reg .iCACHE_INVALID n + 1)

/-- The walk moves on by one line, or starts over. -/
def State.linePassed : State :=
  if last then (s.setReg .SC_POSITION 1 0).lapEnd 1 else s.bump .SC_POSITION 1

theorem State.lineChecked_frame :
    Touches [.reg .SC_CORRECTED, .reg .SC_UNCORRECTABLE, .reg .iCACHE_INVALID] s (s.lineChecked n found) := by
  match found with
  | none => exact .refl _ s
  | some .correctable => exact State.bump_touches (by decide) (.refl _ s)
  | some .uncorrectable => exact State.setReg_touches (by decide) (State.bump_touches (by decide) (.refl _ s))

theorem State.lineChecked_counted : let t := s.lineChecked n found
    Counted s t .SC_CORRECTED 1 (b2n (found == some .correctable)) ∧
    Counted s t .SC_UNCORRECTABLE 1 (b2n (found == some .uncorrectable)) ∧
    Counted s t .iCACHE_INVALID n (b2n (found == some .uncorrectable)) := by
  have hnone (r : Reg) (i : Nat) : Counted s s r i 0 := (s.reg_mod r i).symm
  match found with
  | none => exact ⟨hnone .., hnone .., hnone ..⟩
  | some .correctable =>
    exact ⟨s.bump_counted .SC_CORRECTED 1, by simp [State.lineChecked, Counted, State.bump, b2n],
      by simp [State.lineChecked, Counted, State.bump, b2n]⟩
  | some .uncorrectable =>
    exact ⟨by simp [State.lineChecked, Counted, State.bump, b2n],
      by simp [State.lineChecked, Counted, State.bump, b2n],
      (s.bump .SC_UNCORRECTABLE 1).setReg_reg_self .iCACHE_INVALID n (s.reg .iCACHE_INVALID n + 1)⟩

theorem State.lineChecked_onlyAt : OnlyAt s (s.lineChecked n found) [.iCACHE_INVALID] n := by
  match found with
  | none => exact .refl s _ n
  | some .correctable =>
    exact (OnlyAt.refl s _ n).touches (V := [.reg .SC_CORRECTED]) (State.bump_touches (by decide) (.refl _ s))
      (by decide) (by decide)
  | some .uncorrectable =>
    exact ((OnlyAt.refl s _ n).touches (V := [.reg .SC_UNCORRECTABLE]) (State.bump_touches (by decide) (.refl _ s))
      (by decide) (by decide)).setReg _ _

theorem State.linePassed_frame : Touches (.reg .SC_POSITION :: State.lapEnd_foot) s (s.linePassed last) :=
  .ite (State.lapEnd_touches (fun _ => List.mem_cons_of_mem _) (State.setReg_touches List.mem_cons_self (.refl _ s)))
    (State.bump_touches List.mem_cons_self (.refl _ s))

theorem State.linePassed_position : if last then (s.linePassed last).reg .SC_POSITION 1 = 0
    else Counted s (s.linePassed last) .SC_POSITION 1 1 := by
  cases last with
  | true =>
    exact ((State.lapEnd_frame _ 1).reg _ _ (by decide) (by decide)).trans (s.setReg_reg_self .SC_POSITION 1 0)
  | false => exact s.bump_counted .SC_POSITION 1

end

/-- CACHE_SCRUB (R297). -/
theorem cacheScrub_completes (n : Fin 16) (found : Option Finding) (last : Bool) (s : State) :
    if s.reg .SC_ENABLE 1 = 0 then exec (.cacheScrub n found last) s = .next s
    else
      ∃ t, exec (.cacheScrub n found last) s = .next t ∧ Touches Changes.cacheScrub s t ∧
        t.reg .SC_STATE 1 = 3 ∧
        (if last then t.reg .SC_POSITION 1 = 0 else Counted s t .SC_POSITION 1 1) ∧
        Counted s t .SC_CORRECTED 1 (b2n (found == some .correctable)) ∧
        Counted s t .SC_UNCORRECTABLE 1 (b2n (found == some .uncorrectable)) ∧
        Counted s t .iCACHE_INVALID n.val (b2n (found == some .uncorrectable)) ∧
        OnlyAt s t [.iCACHE_INVALID] n.val := by
  let u := ((s.openLap 1).scrubSlow 1).setReg .SC_STATE 1 3
  have hu : Touches (State.openLap_foot ++ State.scrubSlow_foot ++ [.reg .SC_STATE]) s u :=
    (s.lapNoted_frame 1).append (State.setReg_touches List.mem_cons_self (.refl _ _))
  have hstate : u.reg .SC_STATE 1 = 3 := State.setReg_reg_self ..
  have hexec : exec (.cacheScrub n found last) s =
      if s.reg .SC_ENABLE 1 = 0 then .next s else .next ((u.lineChecked n.val found).linePassed last) := rfl
  refine completes_unless hexec (execCacheScrub_touches (by decide) (.refl _ s)) fun _ => ?_
  have hchecked := u.lineChecked_frame n.val found
  obtain ⟨hcorr, huncorr, hinvalid⟩ := u.lineChecked_counted n.val found
  have honly := u.lineChecked_onlyAt n.val found
  generalize u.lineChecked n.val found = v at *
  have hpassed := v.linePassed_frame last
  have hposition := v.linePassed_position last
  generalize v.linePassed last = t at *
  have hbefore : Touches (State.openLap_foot ++ State.scrubSlow_foot ++ [.reg .SC_STATE] ++
      [.reg .SC_CORRECTED, .reg .SC_UNCORRECTABLE, .reg .iCACHE_INVALID]) s v := hu.append hchecked
  refine ⟨?_, ?_, ?_, ?_, ?_, ?_⟩
  · rw [hpassed.reg _ _ (by decide) (by decide), hchecked.reg _ _ (by decide) (by decide), hstate]
  · rw [Counted, hbefore.reg .SC_POSITION _ (by decide) (by decide)] at hposition
    exact hposition
  · exact (hcorr.touches hpassed (by decide) (by decide)).of_touches hu (by decide) (by decide)
  · exact (huncorr.touches hpassed (by decide) (by decide)).of_touches hu (by decide) (by decide)
  · exact (hinvalid.touches hpassed (by decide) (by decide)).of_touches hu (by decide) (by decide)
  · have hopened : OnlyAt s u [.iCACHE_INVALID] n.val := (OnlyAt.refl s _ _).touches hu (by decide) (by decide)
    have hline : OnlyAt s v [.iCACHE_INVALID] n.val := fun r hr j hj => (honly r hr j hj).trans (hopened r hr j hj)
    exact hline.touches hpassed (by decide) (by decide)

/-! ## SC_ENABLE (R300, R405) -/

section
variable (s : State) {k : Nat}

/-- A value put at one entry of a register leaves the other entries. -/
theorem State.putReg_onlyAt (r : Reg) (v : Nat) (l : List Reg) : OnlyAt s (s.putReg r k v) l k :=
  ((OnlyAt.refl s l k).setReg r v).noteKeep r k

theorem State.enableOff_frame : Touches [.reg .SC_ENABLE, .fld .keepPending] s (s.putReg .SC_ENABLE k 0) :=
  State.putReg_touches (by decide) (by decide) (.refl _ s)

theorem State.enableOff_enable : (s.putReg .SC_ENABLE k 0).reg .SC_ENABLE k = 0 :=
  (State.reg_putReg ..).trans ((if_pos ⟨rfl, rfl⟩).trans (Nat.zero_mod _))

/-- A scrubber that is disabled and OFF, whatever was withdrawn or dropped before. -/
theorem State.scrubOff_of_disabled {u : State} (abandoned : Nat)
    (hu : Touches [.fld .writeBacks, .fld .grants, .fld .highReqs, .fld .normalReqs] (s.putReg .SC_ENABLE k 0) u) :
    let t := u.scrubOff k abandoned
    t.reg .SC_ENABLE k = 0 ∧ OnlyAt s t [.SC_ENABLE, .SC_STATE] k ∧ t.writeBacks = u.writeBacks ∧
      t.reg .SC_STATE k = 0 ∧ t.grants = u.grants := by
  have hoff := u.scrubOff_frame k abandoned
  have honly : OnlyAt s u [.SC_ENABLE, .SC_STATE] k :=
    (s.putReg_onlyAt .SC_ENABLE 0 _).touches hu (by decide) (by decide)
  refine ⟨?_, fun r hr j hj => ?_, hoff.fld .writeBacks (by decide) (by decide), u.scrubOff_state k abandoned,
    hoff.fld .grants (by decide) (by decide)⟩
  · rw [hoff.reg _ _ (by decide) (by decide), hu.reg _ _ (by decide) (by decide), s.enableOff_enable]
  · exact (u.scrubOff_onlyAt k abandoned (l := [.SC_ENABLE, .SC_STATE]) (by decide) r hr j hj).trans (honly r hr j hj)

/-- What a write of SC_ENABLE 0 leaves of a scrubber that was enabled. -/
theorem State.scrubDisable_spec (h : s.reg .SC_ENABLE k ≠ 0) :
    let busy := k = 0 ∧ s.granted .scrubBurst = true
    let t := s.scrubDisable k
    t.reg .SC_ENABLE k = 0 ∧ OnlyAt s t [.SC_ENABLE, .SC_STATE] k ∧
    t.writeBacks = (if k = 0 ∧ s.reg .SC_DRAIN 0 = 1 then s.writeBacks.filter (fun b => !b.byScrubber)
      else s.writeBacks) ∧
    if busy ∧ s.reg .SC_DRAIN k ≠ 1 then t.reg .SC_STATE k = 4 ∧ t.grants = s.grants
    else t.reg .SC_STATE k = 0 ∧ t.grants = (if k = 0 then s.grants.erase .scrubBurst else s.grants) := by
  intro busy t
  let u := s.putReg .SC_ENABLE k 0
  have hu := s.enableOff_frame (k := k)
  have hwrites : u.writeBacks = s.writeBacks := hu.fld .writeBacks (by decide) (by decide)
  have hgrants : u.grants = s.grants := hu.fld .grants (by decide) (by decide)
  have herase : (u.release .scrubBurst).grants = s.grants.erase .scrubBurst := congrArg (List.erase · _) hgrants
  have hrelease : Touches [.fld .writeBacks, .fld .grants, .fld .highReqs, .fld .normalReqs] u
      (u.release .scrubBurst) := State.release_touches (by decide) (by decide) (by decide) (.refl _ u)
  by_cases hk : k = 0
  case neg =>
    have ht : t = u.scrubOff k 0 := (if_neg h).trans (if_pos hk)
    obtain ⟨hen, honly, hback, hstate, hheld⟩ := s.scrubOff_of_disabled (k := k) 0 (.refl _ _)
    rw [if_neg fun hc => hk hc.1, if_neg fun hc => hk hc.1.1, if_neg hk, ht]
    exact ⟨hen, honly, hback.trans hwrites, hstate, hheld.trans hgrants⟩
  case pos =>
    subst hk
    by_cases hdrain : s.reg .SC_DRAIN 0 = 1
    case pos =>
      have ht : t = (u.dropScrubbed.release .scrubBurst).scrubOff 0 (b2n (s.granted .scrubBurst)) :=
        (if_neg h).trans ((if_neg (by simp)).trans (if_pos hdrain))
      have hdropped : Touches [.fld .writeBacks, .fld .grants, .fld .highReqs, .fld .normalReqs] u
          (u.dropScrubbed.release .scrubBurst) :=
        State.release_touches (by decide) (by decide) (by decide) (State.dropScrubbed_touches (by decide) (.refl _ u))
      obtain ⟨hen, honly, hback, hstate, hheld⟩ :=
        s.scrubOff_of_disabled (k := 0) (b2n (s.granted .scrubBurst)) hdropped
      rw [if_pos ⟨rfl, hdrain⟩, if_neg fun hc => hc.2 hdrain, if_pos rfl, ht]
      exact ⟨hen, honly, hback.trans (congrArg (List.filter _) hwrites), hstate, hheld.trans herase⟩
    case neg =>
      by_cases hgrant : s.granted .scrubBurst = true
      case pos =>
        have ht : t = u.setReg .SC_STATE 0 4 :=
          (if_neg h).trans ((if_neg (by simp)).trans ((if_neg hdrain).trans (if_pos hgrant)))
        rw [if_neg fun hc => hdrain hc.2, if_pos ⟨⟨rfl, hgrant⟩, hdrain⟩, ht]
        exact ⟨(State.setReg_reg_of_ne _ _ _ _ (by decide)).trans s.enableOff_enable,
          (s.putReg_onlyAt .SC_ENABLE 0 _).setReg _ _, hwrites, State.setReg_reg_self .., hgrants⟩
      case neg =>
        have ht : t = (u.release .scrubBurst).scrubOff 0 0 :=
          (if_neg h).trans ((if_neg (by simp)).trans ((if_neg hdrain).trans (if_neg hgrant)))
        obtain ⟨hen, honly, hback, hstate, hheld⟩ := s.scrubOff_of_disabled (k := 0) 0 hrelease
        rw [if_neg fun hc => hdrain hc.2, if_neg fun hc => hgrant hc.1.2, if_pos rfl, ht]
        exact ⟨hen, honly, hback.trans hwrites, hstate, hheld.trans herase⟩

end

/-- SC_ENABLE_DISABLE (R300, R405). -/
theorem scEnableDisable_completes (acc : Accessor) (k : Fin 4) (s : State) (hp : s.Passes acc .SC_ENABLE k.val 0) :
    if s.reg .SC_ENABLE k.val = 0 then
      exec (.scEnableDisable acc k) s = .next (s.answered acc .SC_ENABLE k.val 0)
    else
      let busy := k.val = 0 ∧ s.granted .scrubBurst = true
      ∃ t, exec (.scEnableDisable acc k) s = .next t ∧ Touches Changes.scEnableDisable s t ∧
        t.status = 0 ∧ t.reg .SC_ENABLE k.val = 0 ∧ OnlyAt s t [.SC_ENABLE, .SC_STATE] k.val ∧
        t.writeBacks = (if k.val = 0 ∧ s.reg .SC_DRAIN 0 = 1 then s.writeBacks.filter (fun b => !b.byScrubber)
          else s.writeBacks) ∧
        if busy ∧ s.reg .SC_DRAIN k.val ≠ 1 then t.reg .SC_STATE k.val = 4 ∧ t.grants = s.grants
        else t.reg .SC_STATE k.val = 0 ∧
          t.grants = (if k.val = 0 then s.grants.erase .scrubBurst else s.grants) := by
  refine write_completes_unless rfl hp (execScEnableDisable_touches (by decide) (.refl _ s)) (fun h => if_pos h)
    fun h => ?_
  obtain ⟨hen, honly, hback, hends⟩ := (s.setStatus 0).scrubDisable_spec (k := k.val) h
  have hstatus : ((s.setStatus 0).scrubDisable k.val).status = 0 :=
    (State.scrubDisable_touches (fun _ h => h) (.refl _ (s.setStatus 0))).fld .status (by decide) (by decide)
  generalize (s.setStatus 0).scrubDisable k.val = t at *
  have hnote (r : Reg) (h1 : r ≠ .iACC_STATUS) (h2 : r ≠ .iACC_ID) :=
    t.noteAccess_reg acc (Reg.SC_ENABLE.id k.val) (r := r) k.val h1 h2
  rw [State.noteAccess_status, State.noteAccess_writeBacks, State.noteAccess_grants, hnote _ (by decide) (by decide),
    hnote _ (by decide) (by decide)]
  exact ⟨hstatus, hen, honly.noteAccess (by decide) (by decide) _ _, hback, hends⟩

section
variable (s : State) {k : Nat}

/-- The state in which a scrubber resumes: the store scrubber in WAIT_GRANT or WAIT_INIT, the others RUNNING. -/
def State.resumed (k : Nat) : Nat := if k = 0 then (if s.reg .MS_INIT_STATE 0 = 1 then 2 else 1) else 3

theorem State.scrubEnable_spec (hdrain : s.reg .SC_STATE k ≠ 4) (hoff : s.reg .SC_ENABLE k ≠ 1) :
    let t := s.scrubEnable k
    t.status = s.status ∧ t.reg .SC_ENABLE k = 1 ∧ OnlyAt s t [.SC_ENABLE, .SC_STATE] k ∧
      t.reg .SC_STATE k = s.resumed k := by
  intro t
  have ht : t = (s.putReg .SC_ENABLE k 1).setReg .SC_STATE k (s.resumed k) := (if_neg hdrain).trans (if_neg hoff)
  have hon : (s.putReg .SC_ENABLE k 1).reg .SC_ENABLE k = 1 :=
    (State.reg_putReg ..).trans ((if_pos ⟨rfl, rfl⟩).trans rfl)
  have hfits : s.resumed k < 2 ^ Reg.SC_STATE.width := by
    have hle : s.resumed k ≤ 3 := by
      unfold State.resumed
      split
      · split
        · decide
        · decide
      · exact Nat.le_refl 3
    exact Nat.lt_of_le_of_lt hle (by decide)
  have hput : Touches [.reg .SC_ENABLE, .fld .keepPending] s (s.putReg .SC_ENABLE k 1) :=
    State.putReg_touches (by decide) (by decide) (.refl _ s)
  rw [ht]
  exact ⟨hput.fld .status (by decide) (by decide), (State.setReg_reg_of_ne _ _ _ _ (by decide)).trans hon,
    (s.putReg_onlyAt .SC_ENABLE 1 _).setReg _ _, (State.setReg_reg_self ..).trans (Nat.mod_eq_of_lt hfits)⟩

end

/-- SC_ENABLE_RESUME (R300, R405). -/
theorem scEnableResume_completes (acc : Accessor) (k : Fin 4) (s : State) (hp : s.Passes acc .SC_ENABLE k.val 1) :
    if s.reg .SC_STATE k.val = 4 then
      exec (.scEnableResume acc k) s = .next (s.answered acc .SC_ENABLE k.val Code.funcDraining)
    else if s.reg .SC_ENABLE k.val = 1 then
      exec (.scEnableResume acc k) s = .next (s.answered acc .SC_ENABLE k.val 0)
    else
      ∃ t, exec (.scEnableResume acc k) s = .next t ∧ Touches Changes.scEnableResume s t ∧
        t.status = 0 ∧ t.reg .SC_ENABLE k.val = 1 ∧ OnlyAt s t [.SC_ENABLE, .SC_STATE] k.val ∧
        t.reg .SC_STATE k.val = (if k.val = 0 then (if s.reg .MS_INIT_STATE 0 = 1 then 2 else 1) else 3) := by
  split
  case isTrue hdrain => exact write_refused rfl hp (if_pos hdrain)
  case isFalse hdrain =>
    refine write_completes_unless rfl hp (execScEnableResume_touches (by decide) (.refl _ s))
      (fun hon => (if_neg hdrain).trans (if_pos hon)) fun hoff => ?_
    obtain ⟨hstatus, hen, honly, hstate⟩ := (s.setStatus 0).scrubEnable_spec (k := k.val) hdrain hoff
    generalize (s.setStatus 0).scrubEnable k.val = t at *
    refine ⟨(t.noteAccess_status ..).trans hstatus, ?_, honly.noteAccess (by decide) (by decide) _ _, ?_⟩
    · exact (State.noteAccess_reg _ _ _ _ (by decide) (by decide)).trans hen
    · exact (State.noteAccess_reg _ _ _ _ (by decide) (by decide)).trans hstate

/-- Settles O23: each command by its own lemma. -/
theorem scrubAndSweep : Obligations.ScrubAndSweep :=
  ⟨sweepBurst_completes, scrubBurst_completes, cacheScrub_completes, scEnableDisable_completes,
    scEnableResume_completes⟩

end Sys2Proof.Machine
end

section
/-! The raster operation of a Skiver and the surfaces it reads (10_laces_skivers.md, R334). -/
namespace Sys2Proof.Machine

/-! ## The bits of a raster operation -/

/-- The bit of ROP that the bits of the source, pattern and destination select (R334). -/
def ropSelect (a b c : Bool) : Nat := (b2n a <<< 2) ||| (b2n b <<< 1) ||| b2n c

/-- The selecting number, as `rop` computes it from the lowest bits. -/
theorem ropSelect_testBit_zero (s p d : Nat) :
    ropSelect (s.testBit 0) (p.testBit 0) (d.testBit 0) = 4 * (s % 2) + 2 * (p % 2) + d % 2 := by
  have hselect : ∀ a b c : Bool, ropSelect a b c = 4 * b2n a + 2 * b2n b + b2n c := by decide
  simp only [hselect, b2n_testBit, Nat.pow_zero, Nat.div_one]

theorem rop_succ (op s p d n : Nat) : rop op s p d (n + 1) =
    Nat.bit (op.testBit (ropSelect (s.testBit 0) (p.testBit 0) (d.testBit 0))) (rop op (s / 2) (p / 2) (d / 2) n) := by
  rw [ropSelect_testBit_zero]
  cases h : op.testBit (4 * (s % 2) + 2 * (p % 2) + d % 2) <;> simp [rop, bit, h, b2n, Nat.bit]

theorem rop_lt (op s p d n : Nat) : rop op s p d n < 2 ^ n := by
  induction n generalizing s p d with
  | zero => exact Nat.one_pos
  | succ n ih => exact rop_succ .. ▸ Nat.bit_lt_two_pow_succ_iff.2 (ih ..)

/-- R334: each result bit is the bit of ROP that the bits at its position select. -/
theorem testBit_rop {n k : Nat} (hk : k < n) (op s p d : Nat) :
    (rop op s p d n).testBit k = op.testBit (ropSelect (s.testBit k) (p.testBit k) (d.testBit k)) := by
  induction n generalizing s p d k with
  | zero => exact absurd hk (Nat.not_lt_zero k)
  | succ n ih =>
    rw [rop_succ]
    cases k with
    | zero => exact Nat.testBit_bit_zero ..
    | succ k =>
      rw [Nat.testBit_bit_succ, ih (Nat.lt_of_succ_lt_succ hk)]
      simp only [Nat.testBit_succ]

/-- A number of `n` bits is the result where its bits are those that ROP gives. -/
theorem rop_eq_of_testBit {op s p d n v : Nat} (hv : v < 2 ^ n)
    (hbits : ∀ k < n, op.testBit (ropSelect (s.testBit k) (p.testBit k) (d.testBit k)) = v.testBit k) :
    rop op s p d n = v := by
  refine Nat.eq_of_testBit_eq fun k => ?_
  rcases Nat.lt_or_ge k n with hk | hk
  · exact (testBit_rop hk ..).trans (hbits k hk)
  · have hpow : 2 ^ n ≤ 2 ^ k := Nat.pow_le_pow_right Nat.two_pos hk
    rw [Nat.testBit_lt_two_pow ((rop_lt ..).trans_le hpow), Nat.testBit_lt_two_pow (hv.trans_le hpow)]

/-- Two results are the same where ROP gives the same bits. -/
theorem rop_congr {op s s' p p' d d' n : Nat}
    (hbits : ∀ k < n, op.testBit (ropSelect (s.testBit k) (p.testBit k) (d.testBit k)) =
      op.testBit (ropSelect (s'.testBit k) (p'.testBit k) (d'.testBit k))) :
    rop op s p d n = rop op s' p' d' n :=
  rop_eq_of_testBit (rop_lt ..) fun k hk => (hbits k hk).trans (testBit_rop hk ..).symm

/-- A number whose bits are `f` of the operands' bits is the result of the ROP that is the truth table of `f`. -/
theorem rop_eq_of_table {op s p d n v : Nat} (f : Bool → Bool → Bool → Bool)
    (htable : ∀ a b c, op.testBit (ropSelect a b c) = f a b c) (hv : v < 2 ^ n)
    (hbits : ∀ k < n, f (s.testBit k) (p.testBit k) (d.testBit k) = v.testBit k) : rop op s p d n = v :=
  rop_eq_of_testBit hv fun k hk => (htable ..).trans (hbits k hk)

/-! ## The surfaces that are read -/

section
variable {j : SkJob}

theorem SkJob.readsSrc_iff : j.readsSrc = true ↔ j.rop >>> 4 ≠ j.rop &&& 0x0F := by
  rw [SkJob.readsSrc, bne_iff_ne, Nat.shiftRight_eq_div_pow, Nat.and_two_pow_sub_one_eq_mod j.rop 4]

theorem SkJob.readsPat_iff : j.readsPat = true ↔ (j.rop >>> 2) &&& 0x33 ≠ j.rop &&& 0x33 := by
  rw [SkJob.readsPat, bne_iff_ne, Nat.shiftRight_eq_div_pow]

theorem SkJob.readsDst_iff : j.readsDst = true ↔ (j.rop >>> 1) &&& 0x55 ≠ j.rop &&& 0x55 := by
  rw [SkJob.readsDst, bne_iff_ne, Nat.shiftRight_eq_div_pow]

/-- Where a number and its shift by `m` agree under a mask, the bits that the mask keeps are those `m` places up. -/
theorem testBit_add_of_shift_masked {op m mask i : Nat} (h : (op >>> m) &&& mask = op &&& mask)
    (hi : mask.testBit i = true) : op.testBit (m + i) = op.testBit i := by
  have hbit := congrArg (Nat.testBit · i) h
  simpa [hi] using hbit

/-- ROP gives the same bit for both source bits. -/
theorem SkJob.rop_select_src (h : j.readsSrc = false) (a a' b c : Bool) :
    j.rop.testBit (ropSelect a b c) = j.rop.testBit (ropSelect a' b c) := by
  have heq : j.rop >>> 4 = j.rop &&& 0x0F := by simpa [h] using SkJob.readsSrc_iff (j := j)
  have hmask : (j.rop >>> 4) &&& 0x0F = j.rop &&& 0x0F := by rw [heq, Nat.and_assoc, Nat.and_self]
  have hset : ∀ b c, Nat.testBit 0x0F (ropSelect false b c) = true := by decide
  have hup : ∀ b c, ropSelect true b c = 4 + ropSelect false b c := by decide
  have hsame : j.rop.testBit (ropSelect true b c) = j.rop.testBit (ropSelect false b c) :=
    hup b c ▸ testBit_add_of_shift_masked hmask (hset b c)
  cases a <;> cases a' <;> simp only [hsame]

/-- ROP gives the same bit for both pattern bits. -/
theorem SkJob.rop_select_pat (h : j.readsPat = false) (a b b' c : Bool) :
    j.rop.testBit (ropSelect a b c) = j.rop.testBit (ropSelect a b' c) := by
  have hmask : (j.rop >>> 2) &&& 0x33 = j.rop &&& 0x33 := by simpa [h] using SkJob.readsPat_iff (j := j)
  have hset : ∀ a c, Nat.testBit 0x33 (ropSelect a false c) = true := by decide
  have hup : ∀ a c, ropSelect a true c = 2 + ropSelect a false c := by decide
  have hsame : j.rop.testBit (ropSelect a true c) = j.rop.testBit (ropSelect a false c) :=
    hup a c ▸ testBit_add_of_shift_masked hmask (hset a c)
  cases b <;> cases b' <;> simp only [hsame]

/-- ROP gives the same bit for both destination bits. -/
theorem SkJob.rop_select_dst (h : j.readsDst = false) (a b c c' : Bool) :
    j.rop.testBit (ropSelect a b c) = j.rop.testBit (ropSelect a b c') := by
  have hmask : (j.rop >>> 1) &&& 0x55 = j.rop &&& 0x55 := by simpa [h] using SkJob.readsDst_iff (j := j)
  have hset : ∀ a b, Nat.testBit 0x55 (ropSelect a b false) = true := by decide
  have hup : ∀ a b, ropSelect a b true = 1 + ropSelect a b false := by decide
  have hsame : j.rop.testBit (ropSelect a b true) = j.rop.testBit (ropSelect a b false) :=
    hup a b ▸ testBit_add_of_shift_masked hmask (hset a b)
  cases c <;> cases c' <;> simp only [hsame]

/-- A pixel that reads neither surface only stores, so it can only meet a freeze. -/
theorem SkRun.pixel_stop_of_unread {r : SkRun} (hrun : r.stop = none) (hsrc : j.readsSrc = false)
    (hdst : j.readsDst = false) (k : Nat) (pat : List Byte) (x y : Nat) :
    (r.pixel k j pat x y).stop = none ∨ (r.pixel k j pat x y).stop = some .frozen := by
  simp only [SkRun.pixel, hrun, hsrc, hdst, Option.isSome_none, Bool.false_eq_true, if_false]
  split
  · exact .inr rfl
  · exact .inl rfl

end

/-! ## Raster operations by their tables -/

/-- The common raster operations, each by the truth table that its ROP is. -/
theorem rop_of_common_codes (src pat dst n : Nat) (hs : src < 2 ^ n) (hp : pat < 2 ^ n) (hd : dst < 2 ^ n) :
    rop 0x00 src pat dst n = 0 ∧ rop 0xFF src pat dst n = 2 ^ n - 1 ∧ rop 0xF0 src pat dst n = src ∧
    rop 0xCC src pat dst n = pat ∧ rop 0xAA src pat dst n = dst ∧ rop 0xC0 src pat dst n = src &&& pat ∧
    rop 0xFA src pat dst n = src ||| dst ∧ rop 0x5A src pat dst n = src ^^^ dst ∧
    rop 0xCA src pat dst n = (src &&& pat) ||| (dst &&& (src ^^^ (2 ^ n - 1))) ∧
    rop 0xEE src pat dst n = pat ||| dst ∧ rop 0x66 src pat dst n = pat ^^^ dst := by
  have hones : 2 ^ n - 1 < 2 ^ n := Nat.sub_lt (Nat.two_pow_pos n) Nat.one_pos
  have hmerge : (src &&& pat) ||| (dst &&& (src ^^^ (2 ^ n - 1))) < 2 ^ n :=
    Nat.or_lt_two_pow (Nat.and_lt_two_pow _ hp) (Nat.and_lt_two_pow _ (Nat.xor_lt_two_pow hs hones))
  refine ⟨?zeros, ?ones, ?src, ?pat, ?dst, ?and, ?srcOr, ?srcXor, ?merge, ?patOr, ?patXor⟩
  case zeros =>
    exact rop_eq_of_table (fun _ _ _ => false) (by decide) (Nat.two_pow_pos n) fun k _ => (Nat.zero_testBit k).symm
  case ones => exact rop_eq_of_table (fun _ _ _ => true) (by decide) hones fun k hk => by simp [hk]
  case src => exact rop_eq_of_table (fun a _ _ => a) (by decide) hs fun _ _ => rfl
  case pat => exact rop_eq_of_table (fun _ b _ => b) (by decide) hp fun _ _ => rfl
  case dst => exact rop_eq_of_table (fun _ _ c => c) (by decide) hd fun _ _ => rfl
  case and =>
    exact rop_eq_of_table (fun a b _ => a && b) (by decide) (Nat.and_lt_two_pow _ hp) fun _ _ =>
      (Nat.testBit_and ..).symm
  case srcOr =>
    exact rop_eq_of_table (fun a _ c => a || c) (by decide) (Nat.or_lt_two_pow hs hd) fun _ _ =>
      (Nat.testBit_or ..).symm
  case srcXor =>
    exact rop_eq_of_table (fun a _ c => a ^^ c) (by decide) (Nat.xor_lt_two_pow hs hd) fun _ _ =>
      (Nat.testBit_xor ..).symm
  case merge =>
    exact rop_eq_of_table (fun a b c => (a && b) || (c && !a)) (by decide) hmerge fun k hk => by simp [hk]
  case patOr =>
    exact rop_eq_of_table (fun _ b c => b || c) (by decide) (Nat.or_lt_two_pow hp hd) fun _ _ =>
      (Nat.testBit_or ..).symm
  case patXor =>
    exact rop_eq_of_table (fun _ b c => b ^^ c) (by decide) (Nat.xor_lt_two_pow hp hd) fun _ _ =>
      (Nat.testBit_xor ..).symm

/-- Settles O15: the result bit by bit, and what is not read by the bits of ROP that then agree. -/
theorem rasterOperation : Obligations.RasterOperation := by
  refine ⟨fun op src pat dst n k hk => testBit_rop hk op src pat dst, fun j _ => ?_, ?_, rop_of_common_codes⟩
  · refine ⟨SkJob.readsSrc_iff, SkJob.readsPat_iff, SkJob.readsDst_iff, fun src src' pat pat' dst dst' n => ?_⟩
    exact ⟨fun h => rop_congr fun _ _ => SkJob.rop_select_src h ..,
      fun h => rop_congr fun _ _ => SkJob.rop_select_pat h ..,
      fun h => rop_congr fun _ _ => SkJob.rop_select_dst h ..⟩
  · intro r k j pat x y hrun hsrc hdst
    rcases SkRun.pixel_stop_of_unread hrun hsrc hdst k pat x y with h | h <;> simp [h]

end Sys2Proof.Machine
end

section
/-! A step of the block (R354, R357, R412): the front command, or one TB cycle; and what the state after reset holds. -/
namespace Sys2Proof.Machine

/-- Settles O1: a step takes the front command off the queue. -/
theorem frontCommandIsPerformed : Obligations.FrontCommandIsPerformed := by
  intro c rest s hfront
  unfold step
  rw [hfront]

/-! ## Loops of a bounded count -/

/-- What every step of a loop of `n` keeps holds after it. -/
theorem forN_inv_lt {α : Type} {P : α → Prop} {n : Nat} {a : α} {f : α → Nat → α} (h : P a)
    (hf : ∀ x, ∀ k < n, P x → P (f x k)) : P (forN n a f) := by
  induction n with
  | zero => exact h
  | succ n ih =>
    rw [forN_succ]
    exact hf _ n (Nat.lt_succ_self n) (ih fun x k hk => hf x k (Nat.lt_succ_of_lt hk))

/-- A loop whose steps leave the value it begins with leaves it. -/
theorem forN_eq_self {α : Type} {n : Nat} {a : α} {f : α → Nat → α} (h : ∀ k < n, f a k = a) : forN n a f = a :=
  forN_inv_lt (P := (· = a)) rfl fun _ k hk hx => hx ▸ h k hk

/-! ## One TB cycle -/

section
variable (s : State)

/-- The time after one TB cycle (R354). -/
def State.timePassed : State := { s with tb := (s.tb + s.cycleStep) % 2 ^ 112, local_ := s.local_ + s.cycleStep }

theorem State.timePassed_frame : Touches [.time] s s.timePassed :=
  (Touches.refl _ s).timeToo List.mem_cons_self (fun f => .inr (by cases f <;> rfl)) rfl rfl rfl rfl rfl

/-- The generators that time no surface take the boundaries that are due (R210). -/
def State.gensPassed : State :=
  forN 4 s.timePassed fun t g => if t.reg .LAST_USERS g = 0 ∧ t.genDue g = true then t.genAdvance g else t

theorem State.gensPassed_frame : Touches State.genAdvance_foot s.timePassed s.gensPassed :=
  forN_touches (.refl _ _) fun _ _ hx => .ite (State.genAdvance_touches (fun _ h => h) hx) hx

theorem State.tick_eq : s.tick = s.gensPassed.linksTick s.clock := rfl

/-- With every generator in use none takes a boundary of its own. -/
theorem State.tick_eq_of_used (h : ∀ g, g < 4 → s.reg .LAST_USERS g ≠ 0) :
    s.tick = s.timePassed.linksTick s.clock := by
  rw [State.tick_eq, State.gensPassed, forN_eq_self fun g hg => if_neg fun hdue => h g hg hdue.1]

/-- What the generators and the lanes do at a cycle leaves the time that passed. -/
theorem State.tick_time : s.tick.tb = (s.tb + s.cycleStep) % 2 ^ 112 ∧ s.tick.local_ = s.local_ + s.cycleStep := by
  have hlinks : Touches State.linksTick_foot s.gensPassed (s.gensPassed.linksTick s.clock) :=
    State.linksTick_touches (fun _ h => h) (.refl _ _)
  rw [State.tick_eq]
  exact (s.gensPassed_frame.append hlinks).time (by decide)

/-- The whole units of a period that a rate corrects, rounded down (R354). -/
theorem State.cycleStep_bounds (hrate : -4096000000000 ≤ s.regInt .TB_RATE 0) :
    (s.cycleStep : Int) * 4096000000000 ≤ (s.cyclePeriod : Int) * (4096000000000 + s.regInt .TB_RATE 0) ∧
      (s.cyclePeriod : Int) * (4096000000000 + s.regInt .TB_RATE 0) < (s.cycleStep + 1) * 4096000000000 := by
  have hnonneg : 0 ≤ (s.cyclePeriod : Int) * (4096000000000 + s.regInt .TB_RATE 0) :=
    Int.mul_nonneg (Int.natCast_nonneg _) (by omega)
  unfold State.cycleStep
  omega

end

/-! ## A cycle without a lane to serve -/

/-- No lane of either surface is ACTIVE, in training or in TEST. -/
def State.LanesQuiet (s : State) : Prop := ∀ surf, surf < 2 → ∀ p, p < 84 →
  s.isTraining surf p = false ∧ s.lane surf p ≠ laneActive ∧ s.lane surf p ≠ laneTest

section
variable {s t : State} {surf : Nat}

/-- The states of the lanes stand in registers of their own. -/
theorem State.LanesQuiet.of_touches {V : List Part} (h : s.LanesQuiet) (hT : Touches V s t)
    (hlane : Part.reg .WL_LANE_STATE ∉ V) (hphase : Part.reg .iWL_PH ∉ V) (hany : Part.anyReg ∉ V) :
    t.LanesQuiet := by
  intro surf hsurf p hp
  have hl := State.lane_of_touches hT hlane hany surf p
  rw [State.isTraining, State.lanePhase, hT.reg _ _ hphase hany, hl]
  exact h surf hsurf p hp

/-- Where no lane of a surface is ACTIVE the slots of a ray line go to none. -/
theorem State.sendSlots_of_quiet (h : s.LanesQuiet) (hsurf : surf < 2) (raster j : Nat)
    (line : Option (List Nat × (Nat → Bool))) : s.sendSlots surf raster j line = s.send [] := by
  have hnone : (List.range 84).filter (fun p => s.lane surf p == laneActive) = [] := by
    rw [List.filter_eq_nil_iff]
    intro p hp
    obtain ⟨-, hactive, -⟩ := h surf hsurf p (List.mem_range.1 hp)
    simpa using hactive
  unfold State.sendSlots
  rw [hnone]
  rfl

/-- A blanking line is passed, and nothing is sent. -/
theorem State.blankLine_of_quiet (h : s.LanesQuiet) (hsurf : surf < 2) :
    (s.blankLine surf).1 = [] ∧ Touches [.reg .iS_RAST] s (s.blankLine surf).2 := by
  unfold State.blankLine
  simp only [State.sendSlots_of_quiet h hsurf]
  split
  · have hset : Touches [.reg .iS_RAST] s (s.setReg .iS_RAST surf (s.nextBlank surf + 1)) :=
      State.setReg_touches List.mem_cons_self (.refl _ s)
    exact ⟨rfl, hset⟩
  · exact ⟨rfl, .refl _ s⟩

/-- A lane that is neither in training nor in TEST sends nothing. -/
theorem State.laneLines_of_quiet (h : s.LanesQuiet) (hsurf : surf < 2) {p : Nat} (hp : p < 84) (ns : Nat) :
    s.groupLine surf p = ([], s) ∧ s.patternLine surf p ns = ([], s) := by
  obtain ⟨htrain, -, htest⟩ := h surf hsurf p hp
  exact ⟨if_neg (by simp [htrain]), if_neg (by simp [htest])⟩

theorem State.lanesTick_of_quiet (h : s.LanesQuiet) (hsurf : surf < 2) (old : Nat) :
    (s.lanesTick surf old).1 = [] ∧ Touches [.reg .iS_RAST] s (s.lanesTick surf old).2 := by
  unfold State.lanesTick
  refine forN_inv_lt (P := fun x : List OutMsg × State => x.1 = [] ∧ Touches [.reg .iS_RAST] s x.2) (State.blankLine_of_quiet h hsurf)
    fun x p hp hx => ?_
  obtain ⟨ms, u⟩ := x
  obtain ⟨hms, hu⟩ := hx
  dsimp only at hms hu ⊢
  obtain ⟨hgroup, hpattern⟩ := State.laneLines_of_quiet (h.of_touches hu (by decide) (by decide) (by decide)) hsurf hp
    (u.clock - old)
  simp only [hgroup, hpattern, hms, List.append_nil]
  exact ⟨trivial, hu⟩

/-- A return lane that is not in TEST is not checked. -/
theorem State.checkPattern_of_not_test {i : Nat} (h : s.reg .WR_STATE i ≠ 3) (old : Nat) :
    s.checkPattern i old = s := if_neg fun htest => h htest.1

theorem State.linksTick_of_quiet (h : s.LanesQuiet) (hreturn : ∀ i, i < 4 → s.reg .WR_STATE i ≠ 3) (old : Nat) :
    Touches [.reg .iS_RAST] s (s.linksTick old) := by
  obtain ⟨hsent, hfirst⟩ := State.lanesTick_of_quiet h (surf := 0) (by decide) old
  unfold State.linksTick
  generalize s.lanesTick 0 old = x at hsent hfirst
  obtain ⟨a, u⟩ := x
  obtain rfl : a = [] := hsent
  obtain ⟨hsent, hsecond⟩ := State.lanesTick_of_quiet (h.of_touches hfirst (by decide) (by decide) (by decide))
    (surf := 1) (by decide) old
  dsimp only at hsent hsecond ⊢
  generalize u.lanesTick 1 old = y at hsent hsecond
  obtain ⟨b, v⟩ := y
  obtain rfl : b = [] := hsent
  have hboth : Touches [.reg .iS_RAST] s v := hfirst.trans hsecond
  have hchecks : forN 4 v (fun t i => t.checkPattern i old) = v :=
    forN_eq_self fun i hi => State.checkPattern_of_not_test
      (by rw [hboth.reg _ _ (by decide) (by decide)]; exact hreturn i hi) old
  dsimp only
  rw [hchecks]
  exact hboth

end

/-- Settles O2: the time by the bounds of its step, the rest by what the lanes touch, or have to touch. -/
theorem idleCycleCountsTime : Obligations.IdleCycleCountsTime := by
  intro s hidle period rate
  obtain ⟨htb, hlocal⟩ := s.tick_time
  have hstep : step s = .next s.tick := by
    unfold step
    rw [hidle]
  refine ⟨s.tick, hstep, s.tick_keeps.pending.trans hidle, fun hrate => ?_, fun hused => ?_,
    fun hused hreturn hlanes => ?_⟩
  · obtain ⟨hlow, hhigh⟩ := s.cycleStep_bounds hrate
    exact ⟨s.cycleStep, hlocal, htb, hlow, hhigh⟩
  · rw [State.tick_eq_of_used s hused]
    exact State.linksTick_touches (by decide) (s.timePassed_frame.mono (by decide))
  · rw [State.tick_eq_of_used s hused]
    have hquiet : s.timePassed.LanesQuiet := hlanes
    exact (s.timePassed_frame.mono (by decide)).after (by decide) (State.linksTick_of_quiet hquiet hreturn _)

/-! ## The state after reset -/

/-- What a register holds after reset is its reset value, cut to its width. -/
theorem State.reset_reg_eq {r : Reg} {i v : Nat} (h : regDefault r i % 2 ^ r.width = v) : State.reset.reg r i = v :=
  (State.reg_reset r i).trans h

theorem State.reset_regInt_eq {r : Reg} {i : Nat} {v : Int} (h : asInt r.width (regDefault r i % 2 ^ r.width) = v) :
    State.reset.regInt r i = v :=
  (congrArg (asInt r.width) (State.reg_reset r i)).trans h

/-- Settles O3: a register reads its reset value, and the maps, the queue and the time are empty. -/
theorem resetStateHolds : Obligations.ResetStateHolds := by
  have hcanonical : State.reset.Canonical := ⟨rfl, rfl, rfl⟩
  have hmessage : State.reset.NoMessage :=
    ⟨State.reset_reg_eq rfl, State.reset_reg_eq rfl, State.reset_reg_eq rfl⟩
  refine ⟨rfl, hcanonical, hmessage, rfl, State.reg_reset, fun _ => rfl, ?registers⟩
  case registers =>
    exact ⟨State.reset_reg_eq rfl, State.reset_reg_eq rfl, State.reset_reg_eq rfl, State.reset_reg_eq rfl,
      State.reset_reg_eq rfl, fun _ => ⟨State.reset_reg_eq rfl, State.reset_reg_eq rfl⟩, State.reset_reg_eq rfl,
      State.reset_regInt_eq rfl, State.reset_regInt_eq rfl, State.reset_reg_eq rfl, State.reset_reg_eq rfl,
      State.reset_reg_eq rfl⟩

end Sys2Proof.Machine
end

section
/-! The PLLs (R409 to R423): what entry to BYPASS, failure, a lost and a regained domain leave of a PLL, and from that the
commands on REFCLK, the band search, lock, margin and spread. -/
namespace Sys2Proof.Machine

/-! ## One PLL -/

section
variable {s t u : State} {l : List Reg} {k : Nat}

theorem OnlyAt.ite {p : Prop} [Decidable p] (ht : OnlyAt s t l k) (hu : OnlyAt s u l k) :
    OnlyAt s (if p then t else u) l k := by
  split
  · exact ht
  · exact hu

theorem OnlyAt.bump (h : OnlyAt s t l k) (r : Reg) : OnlyAt s (t.bump r k) l k := h.setReg r _

theorem OnlyAt.putReg (h : OnlyAt s t l k) (r : Reg) (v : Nat) : OnlyAt s (t.putReg r k v) l k :=
  (h.setReg r v).noteKeep r k

theorem OnlyAt.setPll (h : OnlyAt s t l k) (st : Nat) : OnlyAt s (t.setPll k st) l k :=
  (h.setReg .CK_STATE st).setReg .iCK_SINCE t.clock

theorem OnlyAt.stopRamp (h : OnlyAt s t l k) : OnlyAt s (t.stopRamp k) l k :=
  .ite ((h.setReg .iSSC_RAMP 0).setReg .iSSC_WAIT 1) h

theorem OnlyAt.toBypass (h : OnlyAt s t l k) : OnlyAt s (t.toBypass k) l k :=
  ((((OnlyAt.ite (h.setReg .iCK_OUT t.clock) h).stopRamp).setPll 0).setReg .iCK_START _).setReg .CK_FREQ _

theorem OnlyAt.pllFailed (h : OnlyAt s t l k) : OnlyAt s (t.pllFailed k) l k :=
  (h.setPll 4).setReg .iCK_FAILS _

end

section
variable (s : State) (k : Nat)

theorem State.toBypass_frame : Touches State.toBypass_foot s (s.toBypass k) :=
  State.toBypass_touches (fun _ h => h) (.refl _ s)

/-- Entry to BYPASS leaves the registers of the units behind the clock (R413). -/
theorem State.toBypass_reg {q : Reg} (j : Nat) (h : Part.reg q ∉ State.toBypass_foot) :
    (s.toBypass k).reg q j = s.reg q j :=
  (s.toBypass_frame k).reg q j h (by decide)

theorem State.stopRamp_reg {q : Reg} (j : Nat) (h : Part.reg q ∉ State.stopRamp_foot) :
    (s.stopRamp k).reg q j = s.reg q j :=
  (State.stopRamp_touches (fun _ h => h) (.refl _ s)).reg q j h (by decide)

theorem State.toBypass_state (j : Nat) :
    (s.toBypass k).reg .CK_STATE j = if k = j then 0 else s.reg .CK_STATE j := by
  have hout : (if s.reg .CK_STATE k = 3 then s.setReg .iCK_OUT k s.clock else s).reg .CK_STATE j
      = s.reg .CK_STATE j := by split <;> simp
  unfold State.toBypass State.showFreq State.setPll
  simp [State.reg_setReg, State.stopRamp_reg _ k j (by decide : Part.reg .CK_STATE ∉ _), hout]

theorem State.toBypass_start (j : Nat) :
    (s.toBypass k).reg .iCK_START j = if k = j then s.clock % 2 ^ Reg.width .iCK_START else s.reg .iCK_START j := by
  have hout : (if s.reg .CK_STATE k = 3 then s.setReg .iCK_OUT k s.clock else s).reg .iCK_START j
      = s.reg .iCK_START j := by split <;> simp
  have hclock : (if s.reg .CK_STATE k = 3 then s.setReg .iCK_OUT k s.clock else s).clock = s.clock := by
    split <;> rfl
  unfold State.toBypass State.showFreq State.setPll
  simp [State.reg_setReg, State.stopRamp_reg _ k j (by decide : Part.reg .iCK_START ∉ _), hout, hclock]

theorem State.pllFailed_reg : (s.pllFailed k).reg .CK_STATE k = 4 ∧
    (s.pllFailed k).reg .iCK_FAILS k = min 255 (s.reg .iCK_FAILS k + 1) := by
  have hsmall : min 255 (s.reg .iCK_FAILS k + 1) < 2 ^ Reg.width .iCK_FAILS :=
    Nat.lt_of_le_of_lt (Nat.min_le_left _ _) (by decide)
  unfold State.pllFailed State.setPll
  exact ⟨by simp; rfl, (State.setReg_reg_self ..).trans (Nat.mod_eq_of_lt hsmall)⟩

/-! ## A domain that leaves the VCO, and one that returns (R421) -/

theorem State.domainLost_frame : Touches State.domainLost_foot s (s.domainLost k) :=
  State.domainLost_touches (fun _ h => h) (.refl _ s)

theorem State.domainBack_frame (why : Nat) : Touches State.domainBack_foot s (s.domainBack k why) :=
  State.domainBack_touches (fun _ h => h) (.refl _ s)

/-- A PLL that has lost lock, counted, before its domain follows (R416). -/
def State.pllCounted : State := (((s.setReg .iCK_WHY k 1).toBypass k).bump .CK_UNLOCKS k).raise Code.pllUnlock none [(8, k)]

theorem State.pllLost_eq : s.pllLost k = (s.pllCounted k).cond (s.reg .CK_STATE k == 3) (·.domainLost k) := rfl

/-- The domain that follows leaves the registers of the PLLs. -/
theorem State.pllLost_frame : Touches State.domainLost_foot (s.pllCounted k) (s.pllLost k) :=
  cond_touches (.refl _ _) fun _ h => State.domainLost_touches (fun _ hp => hp) h

theorem State.pllCounted_reg {q : Reg} (j : Nat) (h : Part.reg q ∉ State.raise_foot) :
    (s.pllCounted k).reg q j = (((s.setReg .iCK_WHY k 1).toBypass k).bump .CK_UNLOCKS k).reg q j :=
  (State.raise_touches (fun _ h => h) (.refl _ _)).reg q j h (by decide)

theorem State.pllLost_state (j : Nat) :
    (s.pllLost k).reg .CK_STATE j = if k = j then 0 else s.reg .CK_STATE j := by
  rw [(s.pllLost_frame k).reg _ j (by decide) (by decide), s.pllCounted_reg k j (by decide), State.reg_bump,
    if_neg (by simp), State.toBypass_state, State.setReg_reg_of_ne _ _ _ _ (by decide)]

theorem State.pllLost_unlocks (j : Nat) : (s.pllLost k).reg .CK_UNLOCKS j =
    if k = j then (s.reg .CK_UNLOCKS j + 1) % 2 ^ Reg.width .CK_UNLOCKS else s.reg .CK_UNLOCKS j := by
  rw [(s.pllLost_frame k).reg _ j (by decide) (by decide), s.pllCounted_reg k j (by decide), State.reg_bump]
  simp only [State.toBypass_reg _ k _ (by decide : Part.reg .CK_UNLOCKS ∉ _), State.reg_setReg]
  by_cases hk : k = j <;> simp [hk]

theorem State.pllLost_why (j : Nat) :
    (s.pllLost k).reg .iCK_WHY j = if k = j then 1 else s.reg .iCK_WHY j := by
  rw [(s.pllLost_frame k).reg _ j (by decide) (by decide), s.pllCounted_reg k j (by decide), State.reg_bump,
    if_neg (by simp), State.toBypass_reg _ k j (by decide), State.reg_setReg]
  simp only [true_and]
  rfl


/-- A register shows a value that fits it. -/
theorem State.setReg_reg_of_lt (r : Reg) (i : Nat) {v : Nat} (h : v < 2 ^ r.width) : (s.setReg r i v).reg r i = v :=
  (State.setReg_reg_self ..).trans (Nat.mod_eq_of_lt h)

end

/-- A loop over the indices of a register, each step of which changes it at its own index only. -/
theorem State.forN_reg_each {r : Reg} {f : State → Nat → State} {g : Nat → Nat → Nat}
    (hf : ∀ t k j, (f t k).reg r j = if k = j then g k (t.reg r j) else t.reg r j) (s : State) {n c : Nat} (hc : c < n) :
    (forN n s f).reg r c = g c (s.reg r c) :=
  (State.forN_reg (ix := id) Function.injective_id hf s n c).trans (if_pos hc)

/-! ## REFCLK and the band search (R412 to R414) -/

section
variable (s : State)

/-- REFCLK is LOST, before the PLLs follow (R412). -/
def State.refLost : State := (s.setReg .CK_REF_STATE 0 1).setReg .iCK_WIN 0 s.clock

/-- REFCLK is present again, before the PLLs relock (R412). -/
def State.refBack : State := (s.setReg .CK_REF_STATE 0 0).setReg .iCK_WIN 0 s.clock

theorem State.allLost_frame : Touches State.pllLost_foot s.refLost (forN 7 s.refLost State.pllLost) :=
  forN_touches (.refl _ _) fun _ _ h => State.pllLost_touches (fun _ hp => hp) h

theorem State.toBypasses_frame (n : Nat) : Touches State.toBypass_foot s (forN n s State.toBypass) :=
  forN_touches (.refl _ _) fun _ _ h => State.toBypass_touches (fun _ hp => hp) h

/-- Every PLL of a loop over them has begun its sequence at the present time. -/
theorem State.toBypasses_start (n k : Nat) (hk : k < n) : (forN n s State.toBypass).Holds .iCK_START k s.clock := by
  have hclock (m : Nat) : (forN m s State.toBypass).clock = s.clock :=
    congrArg (· >>> 48) ((s.toBypasses_frame m).time (by decide)).2
  unfold State.Holds
  induction n with
  | zero => exact absurd hk (Nat.not_lt_zero k)
  | succ n ih =>
    rw [forN_succ, State.toBypass_start, hclock]
    split
    case isTrue => rfl
    case isFalse h => exact ih (by omega)

theorem State.toBypasses_state (n k : Nat) (hk : k < n) : (forN n s State.toBypass).reg .CK_STATE k = 0 :=
  State.forN_reg_each (g := fun _ _ => 0) (fun t => t.toBypass_state) s hk

theorem refclkLoss_completes :
    if s.reg .CK_REF_STATE 0 = 1 then exec .refclkLoss s = .next s
    else
      ∃ t, exec .refclkLoss s = .next t ∧ Touches Changes.refclkLoss s t ∧
        (t.reg .CK_REF_STATE 0 = 1 ∧ ∀ k, k < 7 → t.reg .CK_STATE k = 0 ∧ Counted s t .CK_UNLOCKS k 1 ∧
         t.reg .iCK_WHY k = 1) := by
  refine completes_unless rfl (execRefclkLoss_touches (by decide) (.refl _ s)) fun _ => ⟨?_, fun k hk => ⟨?_, ?_, ?_⟩⟩
  · rw [← State.refLost, s.allLost_frame.reg _ _ (by decide) (by decide), State.refLost,
      State.setReg_reg_of_ne _ _ _ _ (by decide)]
    exact State.setReg_reg_of_lt _ _ _ (by decide)
  · exact State.forN_reg_each (g := fun _ _ => 0) (fun t => t.pllLost_state) _ hk
  · unfold Counted
    rw [State.forN_reg_each (g := fun _ x => (x + 1) % 2 ^ Reg.width .CK_UNLOCKS) (fun t => t.pllLost_unlocks) _ hk,
      State.setReg_reg_of_ne _ _ _ _ (by decide), State.setReg_reg_of_ne _ _ _ _ (by decide)]
  · exact State.forN_reg_each (g := fun _ _ => 1) (fun t => t.pllLost_why) _ hk

theorem refclkReturn_completes :
    if s.reg .CK_REF_STATE 0 = 1 ∧ s.reg .iCK_WIN 0 + 1000000 ≤ s.clock then
      ∃ t, exec .refclkReturn s = .next t ∧ Touches Changes.refclkReturn s t ∧
        (t.reg .CK_REF_STATE 0 = 0 ∧ ∀ k, k < 7 → t.reg .CK_STATE k = 0 ∧ t.Holds .iCK_START k s.clock ∧
           t.reg .CK_UNLOCKS k = s.reg .CK_UNLOCKS k)
    else exec .refclkReturn s = .next s := by
  refine completes_if rfl (execRefclkReturn_touches (by decide) (.refl _ s)) fun _ =>
    ⟨?_, fun k hk => ⟨State.toBypasses_state _ 7 k hk, State.toBypasses_start s.refBack 7 k hk, ?_⟩⟩
  · rw [(State.toBypasses_frame _ 7).reg _ _ (by decide) (by decide), State.setReg_reg_of_ne _ _ _ _ (by decide)]
    exact State.setReg_reg_of_lt _ _ _ (by decide)
  · rw [(State.toBypasses_frame _ 7).reg _ _ (by decide) (by decide), State.setReg_reg_of_ne _ _ _ _ (by decide),
      State.setReg_reg_of_ne _ _ _ _ (by decide)]

theorem backupPeriodMeasure_completes (period : BitVec 32) :
    if s.reg .CK_REF_STATE 0 = 0 ∧ s.reg .iCK_WIN 0 + 1000000 ≤ s.clock then
      ∃ t, exec (.backupPeriodMeasure period) s = .next t ∧
        Touches (regs [.iCK_WIN, .CK_BACKUP_PERIOD]) s t ∧
        t.Holds .CK_BACKUP_PERIOD 0 period.toNat ∧ t.Holds .iCK_WIN 0 s.clock
    else exec (.backupPeriodMeasure period) s = .next s :=
  completes_if rfl (execBackupPeriodMeasure_touches (by decide) (.refl _ s)) fun _ =>
    ⟨(State.setReg_reg_of_ne _ _ _ _ (by decide)).trans (State.setReg_reg_self ..), State.setReg_reg_self ..⟩

/-! ### The band search (R414) -/

theorem State.seedOf_lt (k : Nat) : (s.seedOf k).1 < 64 := by
  unfold State.seedOf
  split <;> exact Nat.lt_succ_of_le (Nat.min_le_left _ _)

/-- The entry that a seed comes from, as it is kept beside the seed: 0 for none. -/
def seedEntry : Option Nat → Nat
  | some e => e + 1
  | none => 0

/-- PLL `k` searches from its seed (R414). -/
def State.searching (k : Nat) : State :=
  (s.setPll k 1).setReg .iCK_SEED k ((s.seedOf k).1 + 64 * seedEntry (s.seedOf k).2)

theorem execVcoSettled_eq (k : Fin 7) : exec (.vcoSettled k) s =
    if s.reg .CK_STATE k.val = 0 ∧ s.reg .CK_REF_STATE 0 = 0 ∧ (s.reg .iPHASE 0 ≠ 4 ∨ k.val = 5) ∧ 1024 ≤ s.pllAge k.val
    then .next (s.searching k.val) else .next s := rfl

theorem vcoSettled_completes (k : Fin 7) :
    let p := k.val
    if s.reg .CK_STATE p = 0 ∧ s.reg .CK_REF_STATE 0 = 0 ∧ (s.reg .iPHASE 0 ≠ 4 ∨ p = 5) ∧ 1024 ≤ s.pllAge p then
      ∃ t, exec (.vcoSettled k) s = .next t ∧ Touches (regs [.iCK_SEED, .iCK_SINCE, .CK_STATE]) s t ∧
        t.reg .CK_STATE p = 1 ∧ t.reg .iCK_SEED p % 64 = (s.seedOf p).1 ∧ t.Holds .iCK_SINCE p s.clock ∧
        OnlyAt s t [.CK_STATE, .iCK_SEED, .iCK_SINCE] p
    else exec (.vcoSettled k) s = .next s := by
  refine completes_if (execVcoSettled_eq s k) (execVcoSettled_touches (by decide) (.refl _ s)) fun _ =>
    ⟨?_, ?_, ?_, ((OnlyAt.refl s _ k.val).setPll 1).setReg .iCK_SEED _⟩
  · unfold State.searching State.setPll
    rw [State.setReg_reg_of_ne _ _ _ _ (by decide), State.setReg_reg_of_ne _ _ _ _ (by decide)]
    exact State.setReg_reg_of_lt _ _ _ (by decide)
  · unfold State.searching
    rw [State.setReg_reg_self, Nat.mod_mod_of_dvd _ (by decide), Nat.add_mul_mod_self_left]
    exact Nat.mod_eq_of_lt (s.seedOf_lt k.val)
  · exact (State.setReg_reg_of_ne _ _ _ _ (by decide)).trans (State.setReg_reg_self ..)

theorem State.keepBand_frame (k band : Nat) (used : Option Nat) :
    Touches State.keepBand_foot s (s.keepBand k band used) :=
  State.keepBand_touches (fun _ h => h) (.refl _ s)

theorem OnlyAt.keepBand {s t : State} {l : List Reg} {k : Nat} (h : OnlyAt s t l k) (band : Nat) (used : Option Nat) :
    OnlyAt s (t.keepBand k band used) l k :=
  .ite h (h.putReg .CK_BAND_TABLE _)

/-- PLL `k` acquires with the band that the search has chosen (R414). -/
def State.acquiring (k b : Nat) (used : Option Nat) : State :=
  (((s.keepBand k b used).setReg .CK_BAND k b).setPll k 2).setReg .iCK_N k
    (((s.keepBand k b used).setReg .CK_BAND k b).reg .CK_LOCK_N k)

theorem State.acquiring_onlyAt (l : List Reg) (k b : Nat) (used : Option Nat) : OnlyAt s (s.acquiring k b used) l k :=
  ((((OnlyAt.refl s l k).keepBand b used).setReg .CK_BAND b).setPll 2).setReg .iCK_N _

theorem State.acquiring_reg (k b : Nat) (used : Option Nat) : (s.acquiring k b used).reg .CK_STATE k = 2 ∧
    (s.acquiring k b used).Holds .CK_BAND k b ∧ (s.acquiring k b used).Holds .iCK_N k (s.reg .CK_LOCK_N k) := by
  have hcycles : (s.keepBand k b used).reg .CK_LOCK_N k = s.reg .CK_LOCK_N k :=
    (s.keepBand_frame k b used).reg _ _ (by decide) (by decide)
  unfold State.acquiring State.setPll State.Holds
  refine ⟨?_, ?_, ?_⟩
  · rw [State.setReg_reg_of_ne _ _ _ _ (by decide), State.setReg_reg_of_ne _ _ _ _ (by decide)]
    exact State.setReg_reg_of_lt _ _ _ (by decide)
  · simp
  · rw [State.setReg_reg_self, State.setReg_reg_of_ne _ _ _ _ (by decide), hcycles]

theorem bandSearchDone_completes (k : Fin 7) (counts : List Nat) :
    let p := k.val
    if s.reg .CK_STATE p ≠ 1 then exec (.bandSearchDone k counts) s = .next s
    else
      ∃ t, exec (.bandSearchDone k counts) s = .next t ∧ Touches Changes.bandSearchDone s t ∧
        OnlyAt s t [.CK_STATE, .CK_BAND, .CK_BAND_TABLE, .iCK_FAILS] p ∧
        match s.chosenBand p (s.reg .iCK_SEED p % 64) counts with
        | none => t.reg .CK_STATE p = 4 ∧ t.reg .iCK_FAILS p = min 255 (s.reg .iCK_FAILS p + 1) ∧
          t.reg .CK_BAND p = s.reg .CK_BAND p
        | some b => t.reg .CK_STATE p = 2 ∧ t.Holds .CK_BAND p b ∧ t.Holds .iCK_N p (s.reg .CK_LOCK_N p) := by
  intro p
  have hframe : OutTouches Changes.bandSearchDone s (exec (.bandSearchDone k counts) s) :=
    execBandSearchDone_touches (by decide) (.refl _ s)
  have hc : exec (.bandSearchDone k counts) s = if s.reg .CK_STATE p ≠ 1 then .next s
      else match s.chosenBand p (s.reg .iCK_SEED p % 64) counts with
        | none => .next (s.pllFailed p)
        | some b => .next (s.acquiring p b
            (if s.reg .iCK_SEED p / 64 = 0 then none else some (s.reg .iCK_SEED p / 64 - 1))) := rfl
  by_cases hst : s.reg .CK_STATE p ≠ 1
  · rw [if_pos hst]
    exact hc.trans (if_pos hst)
  rw [if_neg hst]
  rw [if_neg hst] at hc
  cases hband : s.chosenBand p (s.reg .iCK_SEED p % 64) counts with
  | none =>
    rw [hband] at hc
    obtain ⟨hstate, hfails⟩ := s.pllFailed_reg p
    exact completes_of_next hc hframe ⟨(OnlyAt.refl s _ p).pllFailed, hstate, hfails,
      (State.pllFailed_touches (fun _ h => h) (.refl _ s)).reg .CK_BAND p (by decide) (by decide)⟩
  | some b =>
    rw [hband] at hc
    exact completes_of_next hc hframe ⟨s.acquiring_onlyAt _ p b _, s.acquiring_reg p b _⟩

end

/-- Settles O46: REFCLK, its backup period, and the search of a PLL. -/
theorem referenceAndBands : Obligations.ReferenceAndBands :=
  ⟨refclkLoss_completes, refclkReturn_completes, fun period s => backupPeriodMeasure_completes s period,
    fun k s => vcoSettled_completes s k, fun k counts s => bandSearchDone_completes s k counts⟩

end Sys2Proof.Machine
end

section
/-! Lock, failure, loss of lock, margin, relock and spread of the PLLs (R413 to R423). -/
namespace Sys2Proof.Machine

/-! ## Lock (R413, R415, R421) -/

section
variable (s : State) (k : Nat)

/-- PLL `k` is LOCKED, with its times shown and its failures forgotten (R413, R415). -/
def State.lockShown : State :=
  (((s.setPll k 3).setReg .CK_LOCK_TIME k (s.clock - s.reg .iCK_START k)).bumpBy .CK_BYPASS_NS k
    (s.clock - s.reg .iCK_OUT k)).setReg .iCK_FAILS k 0

/-- The lock is reported after a PLL_UNLOCK (R415). -/
def State.lockReported : State :=
  (s.lockShown k).cond (s.reg .iCK_WHY k == 1) fun t => t.raise Code.pllLocked none [(8, k)]

theorem execPllLocked_eq (n : Fin 7) : exec (.pllLocked n) s =
    if s.reg .CK_STATE n.val = 2 ∧ 64 * s.reg .iCK_N n.val ≤ 10 * s.pllAge n.val then
      .next ((s.lockReported n.val).domainBack n.val (s.reg .iCK_WHY n.val)) else .next s := rfl

theorem State.lockReported_frame : Touches State.raise_foot (s.lockShown k) (s.lockReported k) :=
  cond_touches (.refl _ _) fun _ h => State.raise_touches (fun _ hp => hp) h

/-- What the report and the domain leave of a lock. -/
theorem State.locked_frame : Touches (State.raise_foot ++ State.domainBack_foot) (s.lockShown k)
    ((s.lockReported k).domainBack k (s.reg .iCK_WHY k)) :=
  (s.lockReported_frame k).append (State.domainBack_frame _ k _)

theorem State.lockShown_onlyAt (l : List Reg) : OnlyAt s (s.lockShown k) l k :=
  ((((OnlyAt.refl s l k).setPll 3).setReg .CK_LOCK_TIME _).setReg .CK_BYPASS_NS _).setReg .iCK_FAILS 0

theorem State.lockShown_reg : (s.lockShown k).reg .CK_STATE k = 3 ∧
    (s.lockShown k).Holds .CK_LOCK_TIME k (s.clock - s.reg .iCK_START k) ∧
    Counted s (s.lockShown k) .CK_BYPASS_NS k (s.clock - s.reg .iCK_OUT k) ∧
    (s.lockShown k).reg .iCK_FAILS k = 0 := by
  unfold State.lockShown State.setPll State.Holds Counted
  refine ⟨?_, by simp [State.reg_bumpBy], by simp [State.reg_bumpBy], by simp⟩
  rw [State.setReg_reg_of_ne _ _ _ _ (by decide), State.reg_bumpBy, if_neg (by simp),
    State.setReg_reg_of_ne _ _ _ _ (by decide), State.setReg_reg_of_ne _ _ _ _ (by decide)]
  exact State.setReg_reg_of_lt _ _ _ (by decide)

/-- With PLL-HB back every channel is to retrain (R296). -/
theorem State.domainBack_held {why : Nat} (hwhy : why ≠ 0) : (s.domainBack 2 why).reg .iHB_HELD 0 = 0xFFFFFFFF := by
  have hb : (why != 0) = true := by simpa using hwhy
  show (s.startPeriods.cond (why != 0) State.holdChannels).reg .iHB_HELD 0 = _
  rw [hb]
  exact State.setReg_reg_of_lt _ _ _ (by decide)

/-- The domains of HZ, HB, NT and PC return without an event. -/
theorem State.domainBack_lastEvent (why : Nat) (hk : k = 0 ∨ k = 2 ∨ k = 5 ∨ k = 6) :
    (s.domainBack k why).lastEvent = s.lastEvent := by
  obtain rfl | rfl | rfl | rfl := hk
  · rfl
  · have hframe : Touches (State.startPeriods_foot ++ State.holdChannels_foot) s (s.domainBack 2 why) :=
      (State.startPeriods_touches (fun _ h => h) (.refl _ s)).append
        (cond_touches (.refl _ _) fun _ h => State.holdChannels_touches (fun _ hp => hp) h)
    exact State.lastEvent_of_touches hframe (by decide) (by decide)
  · rfl
  · rfl

end

theorem pllLocked_completes (k : Fin 7) (s : State) :
    let p := k.val
    if s.reg .CK_STATE p = 2 ∧ 64 * s.reg .iCK_N p ≤ 10 * s.pllAge p then
      ∃ t, exec (.pllLocked k) s = .next t ∧ Touches Changes.pllLocked s t ∧
        t.reg .CK_STATE p = 3 ∧ t.Holds .CK_LOCK_TIME p (s.clock - s.reg .iCK_START p) ∧
        Counted s t .CK_BYPASS_NS p (s.clock - s.reg .iCK_OUT p) ∧ t.reg .iCK_FAILS p = 0 ∧
        OnlyAt s t [.CK_STATE, .CK_LOCK_TIME, .CK_BYPASS_NS, .iCK_FAILS] p ∧
        (p = 0 → t.reg .CK_THROTTLE_REQ 0 = 0) ∧
        (p = 2 → s.reg .iCK_WHY p ≠ 0 → t.reg .iHB_HELD 0 = 0xFFFFFFFF) ∧
        (s.reg .iCK_WHY p = 1 → (p = 0 ∨ p = 2 ∨ p = 5 ∨ p = 6) →
          t.lastEvent = some (Code.pllLocked, packBits [(8, p)]))
    else exec (.pllLocked k) s = .next s := by
  refine completes_if (execPllLocked_eq s k) (execPllLocked_touches (by decide +kernel) (.refl _ s)) fun _ => ?_
  obtain ⟨hstate, htime, hcount, hfails⟩ := s.lockShown_reg k.val
  have hframe := s.locked_frame k.val
  have hreg (q : Reg) (h : Part.reg q ∉ State.raise_foot ++ State.domainBack_foot) :=
    hframe.reg q k.val h (by decide)
  refine ⟨(hreg _ (by decide)).trans hstate, (hreg _ (by decide)).trans htime, (hreg _ (by decide)).trans hcount,
    (hreg _ (by decide)).trans hfails, (s.lockShown_onlyAt k.val _).touches hframe (by decide) (by decide), ?_, ?_, ?_⟩
  · intro hk
    rw [hk]
    exact State.setReg_reg_of_lt _ _ _ (by decide)
  · intro hk hwhy
    rw [hk] at hwhy ⊢
    exact State.domainBack_held _ hwhy
  · intro hwhy hk
    rw [State.domainBack_lastEvent _ _ _ hk, State.lockReported, hwhy]
    exact State.raise_lastEvent ..

/-! ## Failure and retry (R413) -/

theorem acquireTimeout_completes (k : Fin 7) (s : State) :
    if s.reg .CK_STATE k.val = 2 ∧ 100000 ≤ s.pllAge k.val then
      ∃ t, exec (.acquireTimeout k) s = .next t ∧ Touches (regs [.iCK_FAILS, .iCK_SINCE, .CK_STATE]) s t ∧
        t.reg .CK_STATE k.val = 4 ∧ t.reg .iCK_FAILS k.val = min 255 (s.reg .iCK_FAILS k.val + 1) ∧
        OnlyAt s t [.CK_STATE, .iCK_FAILS] k.val
    else exec (.acquireTimeout k) s = .next s := by
  obtain ⟨hstate, hfails⟩ := s.pllFailed_reg k.val
  exact completes_if rfl (execAcquireTimeout_touches (by decide) (.refl _ s)) fun _ =>
    ⟨hstate, hfails, (OnlyAt.refl s _ k.val).pllFailed⟩

/-- Entry to BYPASS brings its PLL to state 0. -/
theorem State.toBypass_self (s : State) (k : Nat) : (s.toBypass k).reg .CK_STATE k = 0 :=
  (s.toBypass_state k k).trans (if_pos rfl)

theorem pllRetry_completes (k : Fin 7) (s : State) :
    if s.reg .CK_STATE k.val = 4 ∧ (if 8 ≤ s.reg .iCK_FAILS k.val then 100000000 else 1000000) ≤ s.pllAge k.val then
      ∃ t, exec (.pllRetry k) s = .next t ∧ Touches Changes.pllRetry s t ∧
        t.reg .CK_STATE k.val = 0 ∧ t.reg .iCK_FAILS k.val = s.reg .iCK_FAILS k.val ∧ OnlyAt s t [.CK_STATE] k.val
    else exec (.pllRetry k) s = .next s :=
  completes_if rfl (execPllRetry_touches (by decide) (.refl _ s)) fun _ =>
    ⟨s.toBypass_self k.val, s.toBypass_reg _ _ (by decide), (OnlyAt.refl s _ k.val).toBypass⟩

/-! ## Loss of lock (R416, R421) -/

theorem State.pllLost_onlyAt (s : State) (k : Nat) : OnlyAt s (s.pllLost k) [.CK_STATE, .CK_UNLOCKS] k :=
  (((((OnlyAt.refl s _ k).setReg .iCK_WHY 1).toBypass).bump .CK_UNLOCKS).touches
    (State.raise_touches (fun _ h => h) (.refl _ _)) (by decide) (by decide)).touches (s.pllLost_frame k) (by decide)
      (by decide)

/-- PLL-HZ off its VCO asks for the throttle (R421). -/
theorem State.pllLost_throttle (s : State) (hst : s.reg .CK_STATE 0 = 3) :
    (s.pllLost 0).reg .CK_THROTTLE_REQ 0 = 1 := by
  rw [State.pllLost_eq, hst]
  exact State.setReg_reg_of_lt _ _ _ (by decide)

theorem pllUnlock_completes (k : Fin 7) (s : State) :
    let p := k.val
    if s.reg .CK_STATE p = 4 then exec (.pllUnlock k) s = .next s
    else
      ∃ t, exec (.pllUnlock k) s = .next t ∧ Touches Changes.pllUnlock s t ∧
        t.reg .CK_STATE p = 0 ∧ OnlyAt s t [.CK_STATE, .CK_UNLOCKS] p ∧
        if s.reg .CK_STATE p = 3 then Counted s t .CK_UNLOCKS p 1 ∧ t.reg .iCK_WHY p = 1 ∧
          (p = 0 → t.reg .CK_THROTTLE_REQ 0 = 1)
        else t.reg .CK_UNLOCKS p = s.reg .CK_UNLOCKS p := by
  intro p
  have hframe : OutTouches Changes.pllUnlock s (exec (.pllUnlock k) s) :=
    execPllUnlock_touches (by decide) (.refl _ s)
  have hc : exec (.pllUnlock k) s = if s.reg .CK_STATE p = 3 then .next (s.pllLost p)
      else if s.reg .CK_STATE p = 4 then .next s else .next (s.toBypass p) := rfl
  by_cases hfailed : s.reg .CK_STATE p = 4
  · rw [if_pos hfailed]
    exact hc.trans ((if_neg (by omega)).trans (if_pos hfailed))
  rw [if_neg hfailed]
  by_cases hlocked : s.reg .CK_STATE p = 3
  · simp only [if_pos hlocked]
    refine completes_of_next (hc.trans (if_pos hlocked)) hframe ⟨?_, s.pllLost_onlyAt p, ?_, ?_, ?_⟩
    · exact (s.pllLost_state p p).trans (if_pos rfl)
    · exact (s.pllLost_unlocks p p).trans (if_pos rfl)
    · exact (s.pllLost_why p p).trans (if_pos rfl)
    · intro hp
      rw [hp] at hlocked ⊢
      exact s.pllLost_throttle hlocked
  · simp only [if_neg hlocked]
    exact completes_of_next (hc.trans ((if_neg hlocked).trans (if_neg hfailed))) hframe
      ⟨s.toBypass_self p, (OnlyAt.refl s _ p).toBypass, s.toBypass_reg p p (by decide)⟩

/-! ## Changes by the host (R417 to R420, R423) -/

section
variable (s : State) (k : Nat)

/-- A PLL that a host write relocks, before its domain follows. -/
def State.hostBypassed : State := (s.setReg .iCK_WHY k 2).toBypass k

theorem State.hostRelock_frame : Touches State.domainLost_foot (s.hostBypassed k) (s.hostRelock k) :=
  State.domainLost_frame _ k

theorem State.hostRelock_status : (s.hostRelock k).status = s.status :=
  ((State.hostRelock_touches (W := State.hostRelock_foot) (fun _ h => h) (.refl _ s)).fld .status (by decide) (by decide))

theorem State.hostRelock_state : (s.hostRelock k).reg .CK_STATE k = 0 :=
  ((s.hostRelock_frame k).reg _ _ (by decide) (by decide)).trans (State.toBypass_self _ k)

theorem State.hostRelock_reg {q : Reg} (j : Nat) (h : Part.reg q ∉ State.hostRelock_foot) :
    (s.hostRelock k).reg q j = s.reg q j :=
  (State.hostRelock_touches (fun _ hp => hp) (.refl _ s)).reg q j h (by decide)

end

theorem OnlyAt.hostRelock {s t : State} {l : List Reg} {k : Nat} (h : OnlyAt s t l k)
    (hl : ∀ r ∈ l, Part.reg r ∉ State.domainLost_foot) : OnlyAt s (t.hostRelock k) l k :=
  ((h.setReg .iCK_WHY 2).toBypass).touches (State.hostRelock_frame t k) hl (by decide)

/-- Whether a change is refused depends on registers that no status touches. -/
theorem State.pllBusy_setStatus (s : State) (c k : Nat) (relock : Bool) :
    (s.setStatus c).pllBusy k relock = s.pllBusy k relock := rfl

theorem ckRelock_completes (acc : Accessor) (k : Fin 7) (s : State) (hp : s.Passes acc .CK_RELOCK k.val 1) :
    if s.pllBusy k.val true = true then
      exec (.ckRelock acc k) s = .next (s.answered acc .CK_RELOCK k.val Code.pllBusy)
    else
      ∃ t, exec (.ckRelock acc k) s = .next t ∧ Touches Changes.ckRelock s t ∧
        t.status = 0 ∧ t.reg .CK_STATE k.val = 0 ∧ t.reg .CK_UNLOCKS k.val = s.reg .CK_UNLOCKS k.val ∧
        OnlyAt s t [.CK_STATE] k.val := by
  refine write_completes_unless rfl hp (execCkRelock_touches (by decide) (.refl _ s)) (fun h => if_pos h) fun h => ?_
  rw [State.pllBusy_setStatus, if_neg h]
  refine ⟨?_, ?_, ?_, (((OnlyAt.refl s _ k.val).touches (State.setStatus_touches (W := [.fld .status]) (by decide)
    (.refl _ s)) (by decide) (by decide)).hostRelock (by decide)).noteAccess (by decide) (by decide) _ _⟩
  · rw [State.noteAccess_status, State.hostRelock_status]
    rfl
  · rw [State.noteAccess_reg _ _ _ _ (by decide) (by decide), State.hostRelock_state]
  · rw [State.noteAccess_reg _ _ _ _ (by decide) (by decide), State.hostRelock_reg _ _ _ (by decide)]
    rfl

/-- The write of a margin: a value in force, and a relock of the PLLs that have none of the Welt's or NT's (R418). -/
def State.marginSet (s : State) (k v : Nat) : State :=
  if k = 3 ∨ k = 4 ∨ k = 5 then s.putReg .CK_MARGIN k v else (s.putReg .CK_MARGIN k v).hostRelock k

theorem State.marginWrite_eq (s : State) (k v : Nat) :
    s.marginWrite k v = if s.pllBusy k false = true then s.refuse Code.pllBusy else s.marginSet k v := rfl

section
variable (s : State) (k v : Nat)

theorem State.marginSet_status : (s.marginSet k v).status = s.status := by
  unfold State.marginSet
  split
  · simp
  · rw [State.hostRelock_status, State.putReg_status]

theorem State.marginSet_margin : (s.marginSet k v).Holds .CK_MARGIN k v := by
  have hput : (s.putReg .CK_MARGIN k v).Holds .CK_MARGIN k v := (s.reg_putReg ..).trans (if_pos ⟨rfl, rfl⟩)
  unfold State.marginSet
  split
  · exact hput
  · exact (State.hostRelock_reg _ k k (by decide)).trans hput

theorem State.marginSet_state :
    (s.marginSet k v).reg .CK_STATE k = if k = 3 ∨ k = 4 ∨ k = 5 then s.reg .CK_STATE k else 0 := by
  unfold State.marginSet
  split
  · rw [State.reg_putReg, if_neg (by simp)]
  · exact State.hostRelock_state _ k

theorem State.marginSet_onlyAt : OnlyAt s (s.marginSet k v) [.CK_MARGIN, .CK_STATE] k :=
  .ite ((OnlyAt.refl s _ k).putReg .CK_MARGIN v) (((OnlyAt.refl s _ k).putReg .CK_MARGIN v).hostRelock (by decide))

end

theorem ckMarginWrite_completes (acc : Accessor) (k : Fin 7) (v : BitVec 32) (s : State)
    (hp : s.Passes acc .CK_MARGIN k.val v.toNat) :
    let p := k.val
    if s.pllBusy p false = true then
      exec (.ckMarginWrite acc k v) s = .next (s.answered acc .CK_MARGIN p Code.pllBusy)
    else
      ∃ t, exec (.ckMarginWrite acc k v) s = .next t ∧ Touches Changes.ckMarginWrite s t ∧
        (t.status = 0 ∧ t.Holds .CK_MARGIN p v.toNat ∧ OnlyAt s t [.CK_MARGIN, .CK_STATE] p ∧
         t.reg .CK_STATE p = if p = 3 ∨ p = 4 ∨ p = 5 then s.reg .CK_STATE p else 0) := by
  refine write_completes_unless rfl hp (execCkMarginWrite_touches (by decide) (.refl _ s)) (fun h => if_pos h)
    fun h => ?_
  rw [State.marginWrite_eq, State.pllBusy_setStatus, if_neg h]
  refine ⟨?_, ?_, ?_, ?_⟩
  · rw [State.noteAccess_status, State.marginSet_status]
    rfl
  · exact (State.noteAccess_reg _ _ _ _ (by decide) (by decide)).trans (State.marginSet_margin ..)
  · exact OnlyAt.noteAccess (State.marginSet_onlyAt (s.setStatus 0) k.val v.toNat) (by decide) (by decide) _ _
  · exact (State.noteAccess_reg _ _ _ _ (by decide) (by decide)).trans (State.marginSet_state ..)

theorem sscRampEnd_completes (k : Fin 2) (s : State) :
    if s.reg .iSSC_RAMP k.val = 1 ∧ s.reg .iSSC_AT k.val + 1000000 ≤ s.clock then
      ∃ t, exec (.sscRampEnd k) s = .next t ∧ Touches (regs [.iSSC_RAMP]) s t ∧
        t.reg .iSSC_RAMP k.val = 0 ∧ OnlyAt s t [.iSSC_RAMP] k.val
    else exec (.sscRampEnd k) s = .next s :=
  completes_if rfl (execSscRampEnd_touches (by decide) (.refl _ s)) fun _ =>
    ⟨State.setReg_reg_of_lt _ _ _ (by decide), (OnlyAt.refl s _ k.val).setReg _ _⟩

theorem sscRelockRamp_completes (k : Fin 2) (s : State) :
    if s.reg .iSSC_WAIT k.val = 1 ∧ s.reg .CK_STATE k.val = 3 ∧ 1000000 ≤ s.pllAge k.val then
      ∃ t, exec (.sscRelockRamp k) s = .next t ∧ Touches (regs [.iSSC_WAIT, .iSSC_AT, .iSSC_RAMP]) s t ∧
        t.reg .iSSC_RAMP k.val = 1 ∧ t.reg .iSSC_WAIT k.val = 0 ∧ t.Holds .iSSC_AT k.val s.clock ∧
        OnlyAt s t [.iSSC_RAMP, .iSSC_WAIT, .iSSC_AT] k.val
    else exec (.sscRelockRamp k) s = .next s := by
  refine completes_if rfl (execSscRelockRamp_touches (by decide) (.refl _ s)) fun _ => ⟨?_, ?_, ?_,
    (((OnlyAt.refl s _ k.val).setReg .iSSC_WAIT 0).setReg .iSSC_RAMP 1).setReg .iSSC_AT _⟩
  · exact (State.setReg_reg_of_ne _ _ _ _ (by decide)).trans (State.setReg_reg_of_lt _ _ _ (by decide))
  · unfold State.startRamp
    rw [State.setReg_reg_of_ne _ _ _ _ (by decide), State.setReg_reg_of_ne _ _ _ _ (by decide)]
    exact State.setReg_reg_of_lt _ _ _ (by decide)
  · simp [State.Holds, State.startRamp, State.clock]

theorem ckSyncArm_completes (acc : Accessor) (s : State) (hp : s.Passes acc .CK_SYNC_ARM 0 1) :
    ∃ t, exec (.ckSyncArm acc) s = .next t ∧ Touches Changes.ckSyncArm s t ∧
      t.status = 0 ∧ t.reg .CK_SYNC_ARM 0 = 1 :=
  write_completes rfl hp (execCkSyncArm_touches (by decide) (.refl _ s)) ⟨by simp,
    (State.noteAccess_reg _ _ _ _ (by decide) (by decide)).trans (State.setReg_reg_of_lt _ _ _ (by decide))⟩

/-- Settles O47: the sequence of a PLL, its loss of lock and its changes by the host. -/
theorem pllLock : Obligations.PllLock :=
  ⟨pllLocked_completes, acquireTimeout_completes, pllRetry_completes, pllUnlock_completes, ckMarginWrite_completes,
    ckRelock_completes, sscRampEnd_completes, sscRelockRamp_completes, ckSyncArm_completes⟩

end Sys2Proof.Machine
end

section
/-! Thermal samples (R432, R435 to R443): the sensors, the comparators, and the conditions recognised. -/
namespace Sys2Proof.Machine

/-- A loop each step of which changes a register at its own index only, while a fact holds that every step keeps. -/
theorem State.forN_reg_under {P : State → Prop} {r : Reg} {f : State → Nat → State} {g : Nat → Nat → Nat} {s : State}
    (hs : P s) (hkeep : ∀ t k, P t → P (f t k))
    (hf : ∀ t, P t → ∀ k j, (f t k).reg r j = if k = j then g k (t.reg r j) else t.reg r j) {n c : Nat} (hc : c < n) :
    (forN n s f).reg r c = g c (s.reg r c) := by
  have hpass (m : Nat) : (forN m s f).reg r c = if c < m then g c (s.reg r c) else s.reg r c := by
    induction m with
    | zero => rfl
    | succ m ih =>
      rw [forN_succ, hf _ (forN_inv hs hkeep) m c, ih]
      by_cases heq : m = c
      · rw [if_pos heq, if_neg (by omega), if_pos (by omega), heq]
      · rw [if_neg heq]
        exact if_congr (by omega) rfl rfl
  exact (hpass n).trans (if_pos hc)

/-- A signed word is the integer of its bits. -/
theorem asInt_toNat {w : Nat} (v : BitVec (w + 1)) : asInt (w + 1) v.toNat = v.toInt := by
  rw [BitVec.toInt_eq_toNat_cond, asInt, Nat.mod_eq_of_lt v.isLt, Nat.add_sub_cancel]
  exact if_congr (by rw [Nat.pow_succ]; omega) rfl rfl

/-! ## Readings (R432) -/

section
variable (s : State) (n v : Nat)

theorem State.takeReading_temp (j : Nat) :
    (s.takeReading n v).reg .TS_TEMP j = if n = j then v % 2 ^ Reg.width .TS_TEMP else s.reg .TS_TEMP j := by
  unfold State.takeReading
  dsimp only
  split <;> simp [State.reg_setReg]

theorem State.takeReading_valid (j : Nat) :
    (s.takeReading n v).reg .TS_VALID j = if n = j then 1 else s.reg .TS_VALID j := by
  have hone : 1 % 2 ^ Reg.width .TS_VALID = 1 := rfl
  unfold State.takeReading
  dsimp only
  split <;> simp [State.reg_setReg, hone]

theorem State.takeReading_max (j : Nat) : (s.takeReading n v).reg .TS_MAX j =
    if n = j then (if asInt 16 (s.reg .TS_MAX j) < asInt 16 v then v % 2 ^ Reg.width .TS_MAX else s.reg .TS_MAX j)
    else s.reg .TS_MAX j := by
  have hmax : ((s.setReg .TS_TEMP n v).setReg .TS_VALID n 1).regInt .TS_MAX n = asInt 16 (s.reg .TS_MAX n) := by
    simp [State.regInt]
    rfl
  unfold State.takeReading
  dsimp only
  rw [hmax]
  by_cases hj : n = j
  · subst hj
    split <;> simp [*]
  · split <;> simp [hj]

end

/-- A sample of a diode pair changes its own sensor only (R433). -/
theorem State.measurePair_onlyAt (s : State) (n v10 v100 : Nat) :
    OnlyAt s (s.measurePair n v10 v100) [.TS_TEMP, .TS_VALID, .TS_MAX] (32 + n) := by
  have hset {t : State} (h : OnlyAt s t [.TS_TEMP, .TS_VALID, .TS_MAX] (32 + n)) (r : Reg) (v : Nat)
      (hr : r ∉ [Reg.TS_TEMP, .TS_VALID, .TS_MAX]) : OnlyAt s (t.setReg r n v) [.TS_TEMP, .TS_VALID, .TS_MAX] (32 + n) :=
    fun q hq j hj => (State.setReg_reg_of_ne _ _ _ _ (fun heq : r = q => hr (heq ▸ hq))).trans (h q hq j hj)
  unfold State.measurePair
  dsimp only
  split
  case isTrue =>
    refine hset ?_ _ _ (by decide)
    unfold State.cond
    exact .ite ((hset ((OnlyAt.refl s _ _).setReg _ _) _ _ (by decide)).bump _)
      (hset ((OnlyAt.refl s _ _).setReg _ _) _ _ (by decide))
  case isFalse =>
    have hheld := hset (hset (OnlyAt.refl s _ _) .iTS_MEAS (s.reg .iTS_MEAS n * 2 ^ 32 + ofInt 32
      (diodeTemp (s.reg .TS_IDEALITY (32 + n)) (s.reg .TS_SERIES (32 + n)) v10 v100)) (by decide)) .iTS_GOOD
        (min 16 (s.reg .iTS_GOOD n + 1)) (by decide)
    have hshown := (hset (hheld.setReg .TS_VALID 1) .iTS_BAD 0 (by decide)).setReg .TS_TEMP
    exact .ite hheld (.ite ((hshown _).setReg .TS_MAX _) (hshown _))

/-! ## A sample of every sensor -/

section
variable (s : State) (die : List (BitVec 16)) (diodes : List (Nat × Nat))

/-- The die sensors are read. -/
def State.dieRead : State := forN 24 s fun t n => match die[n]? with
  | some v => t.takeReading n v.toNat
  | none => t

/-- The sensors of the stacks are read. -/
def State.stacksRead : State := forN 2 s fun t k => t.takeReading (24 + k) (t.reg .CH_TEMP (16 * k))

/-- The diode pairs of the panels are read. -/
def State.pairsRead : State := forN 4 s fun t n => match diodes[n]? with
  | some v => t.measurePair n v.1 v.2
  | none => t

/-- Every sensor has been read, before TH_JUNCTION follows. -/
def State.allRead : State := ((s.dieRead die).stacksRead).pairsRead diodes

theorem State.readSensors_eq : s.readSensors die diodes =
    (s.allRead die diodes).setRegInt .TH_JUNCTION 0 (highest (s.allRead die diodes).dieTemps) := rfl

theorem State.pairsRead_reg {q : Reg} {j : Nat} (hq : q ∈ [Reg.TS_TEMP, .TS_VALID, .TS_MAX]) (hj : j < 32) :
    (s.pairsRead diodes).reg q j = s.reg q j := by
  unfold State.pairsRead
  refine forN_inv (P := fun t : State => t.reg q j = s.reg q j) rfl fun t n ht => ?_
  split
  · exact (t.measurePair_onlyAt n _ _ q hq j (by omega)).trans ht
  · exact ht

theorem State.stacksRead_reg {q : Reg} {j : Nat} (hq : q ∈ [Reg.TS_TEMP, .TS_VALID, .TS_MAX]) (hj : j < 24) :
    s.stacksRead.reg q j = s.reg q j := by
  unfold State.stacksRead
  refine forN_inv (P := fun t : State => t.reg q j = s.reg q j) rfl fun t k ht => ?_
  simp only [List.mem_cons, List.not_mem_nil, or_false] at hq
  obtain rfl | rfl | rfl := hq
  · exact ((t.takeReading_temp ..).trans (if_neg (by omega))).trans ht
  · exact ((t.takeReading_valid ..).trans (if_neg (by omega))).trans ht
  · exact ((t.takeReading_max ..).trans (if_neg (by omega))).trans ht

theorem State.allRead_die {q : Reg} {j : Nat} (hq : q ∈ [Reg.TS_TEMP, .TS_VALID, .TS_MAX]) (hj : j < 24) :
    (s.allRead die diodes).reg q j = (s.dieRead die).reg q j :=
  (State.pairsRead_reg _ _ hq (by omega)).trans (State.stacksRead_reg _ hq hj)

section
variable {s die} {n : Nat} {v : BitVec 16} (hn : n < 24) (hv : die[n]? = some v)
include hn hv

theorem State.dieRead_temp : (s.dieRead die).reg .TS_TEMP n = v.toNat := by
  unfold State.dieRead
  rw [State.forN_reg_each (r := .TS_TEMP) (g := fun k x => match die[k]? with | some v => v.toNat | none => x) ?_ s hn]
  · rw [hv]
  · intro t k j
    split
    case h_1 v _ => exact (t.takeReading_temp ..).trans (if_congr Iff.rfl (Nat.mod_eq_of_lt v.isLt) rfl)
    case h_2 => split <;> rfl

theorem State.dieRead_valid : (s.dieRead die).reg .TS_VALID n = 1 := by
  unfold State.dieRead
  rw [State.forN_reg_each (r := .TS_VALID) (g := fun k x => match die[k]? with | some _ => 1 | none => x) ?_ s hn]
  · rw [hv]
  · intro t k j
    split
    case h_1 v _ => exact t.takeReading_valid ..
    case h_2 => split <;> rfl

theorem State.dieRead_max : (s.dieRead die).regInt .TS_MAX n = max (s.regInt .TS_MAX n) v.toInt := by
  have hval : asInt 16 v.toNat = v.toInt := asInt_toNat v
  have hreg : (s.dieRead die).reg .TS_MAX n =
      if asInt 16 (s.reg .TS_MAX n) < asInt 16 v.toNat then v.toNat else s.reg .TS_MAX n := by
    unfold State.dieRead
    rw [State.forN_reg_each (r := .TS_MAX) (g := fun k x => match die[k]? with
      | some v => if asInt 16 x < asInt 16 v.toNat then v.toNat else x
      | none => x) ?_ s hn]
    · rw [hv]
    · intro t k j
      split
      case h_1 v _ =>
        exact (t.takeReading_max ..).trans (if_congr Iff.rfl (if_congr Iff.rfl (Nat.mod_eq_of_lt v.isLt) rfl) rfl)
      case h_2 => split <;> rfl
  have hint : (s.dieRead die).regInt .TS_MAX n = asInt 16 ((s.dieRead die).reg .TS_MAX n) := rfl
  rw [hint, hreg, ← hval]
  show _ = max (asInt 16 (s.reg .TS_MAX n)) _
  split <;> omega

end

theorem State.stacksRead_temp {k : Nat} (hk : k < 2) :
    s.stacksRead.reg .TS_TEMP (24 + k) = s.reg .CH_TEMP (16 * k) := by
  have hframe : Touches State.takeReading_foot s (s.takeReading 24 (s.reg .CH_TEMP 0)) :=
    State.takeReading_touches (fun _ h => h) (.refl _ s)
  have htemp : s.stacksRead.reg .TS_TEMP (24 + k) = if 25 = 24 + k then
      (s.takeReading 24 (s.reg .CH_TEMP 0)).reg .CH_TEMP 16 % 2 ^ Reg.width .TS_TEMP
      else (s.takeReading 24 (s.reg .CH_TEMP 0)).reg .TS_TEMP (24 + k) := State.takeReading_temp ..
  rw [htemp, hframe.reg .CH_TEMP 16 (by decide) (by decide), State.takeReading_temp]
  obtain rfl | rfl : k = 0 ∨ k = 1 := by omega
  · exact s.reg_mod .CH_TEMP 0
  · exact s.reg_mod .CH_TEMP 16

end

end Sys2Proof.Machine
end

section
/-! What a thermal sample leaves (R432, R435 to R443): TH_JUNCTION, the comparators, the conditions and the gates. -/
namespace Sys2Proof.Machine

/-! ## TH_JUNCTION -/

theorem asInt_bounds (v : Nat) : -32768 ≤ asInt 16 v ∧ asInt 16 v < 32768 := by
  have hlt : v % 2 ^ 16 < 65536 := Nat.mod_lt _ (by decide)
  unfold asInt
  norm_num at hlt ⊢
  split <;> omega

/-- The highest of readings that lie within bounds does. -/
theorem highest_bounds {lo hi : Int} {xs : List Int} (h0 : lo ≤ 0 ∧ 0 < hi) (hxs : ∀ x ∈ xs, lo ≤ x ∧ x < hi) :
    lo ≤ highest xs ∧ highest xs < hi := by
  have hfold (l : List Int) (b : Int) (hb : lo ≤ b ∧ b < hi) (hl : ∀ x ∈ l, lo ≤ x ∧ x < hi) :
      lo ≤ l.foldl max b ∧ l.foldl max b < hi := by
    induction l generalizing b with
    | nil => exact hb
    | cons x l ih =>
      have hx := hl x List.mem_cons_self
      exact ih _ (by omega) fun y hy => hl y (List.mem_cons_of_mem _ hy)
  cases xs with
  | nil => exact h0
  | cons x l => exact hfold l x (hxs x List.mem_cons_self) fun y hy => hxs y (List.mem_cons_of_mem _ hy)

section
variable (s : State) (die : List (BitVec 16)) (diodes : List (Nat × Nat))

theorem State.readSensors_frame : Touches State.readSensors_foot s (s.readSensors die diodes) :=
  State.readSensors_touches (fun _ h => h) (.refl _ s)

/-- TH_JUNCTION leaves the readings. -/
theorem State.readSensors_reg {q : Reg} (j : Nat) (hq : q ≠ .TH_JUNCTION) :
    (s.readSensors die diodes).reg q j = (s.allRead die diodes).reg q j := by
  rw [State.readSensors_eq]
  exact State.setReg_reg_of_ne _ _ _ _ hq.symm

/-- The readings of the die depend on TS_TEMP alone. -/
theorem State.dieTemps_congr {s t : State} (h : ∀ n, t.reg .TS_TEMP n = s.reg .TS_TEMP n) : t.dieTemps = s.dieTemps := by
  unfold State.dieTemps State.regInt
  simp only [h]

theorem State.readSensors_junction :
    (s.readSensors die diodes).junction = highest (s.readSensors die diodes).dieTemps := by
  have htemps : (s.readSensors die diodes).dieTemps = (s.allRead die diodes).dieTemps :=
    State.dieTemps_congr fun n => s.readSensors_reg die diodes n (by decide)
  obtain ⟨hlo, hhi⟩ := highest_bounds (lo := -32768) (hi := 32768) (xs := (s.allRead die diodes).dieTemps) (by decide)
    (fun x hx => by
      obtain ⟨n, -, rfl⟩ := List.mem_map.1 hx
      exact asInt_bounds _)
  rw [htemps]
  exact State.setRegInt_regInt _ 0 (n := 15) rfl (by norm_num; exact hlo) (by norm_num; exact hhi)

end

/-! ## Comparators (R439) -/

section
variable (s : State)

/-- The runs of readings at or above TH_SHUT. -/
def State.runsCounted : State := forN 24 s fun t n => t.setReg .iCMP_RUN n
  (if asInt 16 (s.reg .iCMP_SHUT 0) ≤ t.regInt .TS_TEMP n then min 2 (t.reg .iCMP_RUN n + 1) else 0)

/-- Whether a comparator has had two readings at or above TH_SHUT. -/
def State.tripped : Bool := (List.range 24).any fun n => s.reg .iCMP_RUN n == 2

/-- A comparator trips, and the peak is latched. -/
def State.tripLatched : State :=
  if s.tripped ∧ s.reg .iCMP_TRIP 0 = 0 then
    (s.setReg .iCMP_TRIP 0 1).setReg .iCMP_PEAK 0 (s.reg .TH_JUNCTION 0)
  else s

/-- The samples below TH_RESTART are counted. -/
def State.coolCounted : State :=
  if s.dieTemps.all (fun t => decide (t < asInt 16 (s.reg .iCMP_RESTART 0))) then s.bump .iCMP_COOL 0
  else s.setReg .iCMP_COOL 0 0

theorem State.stepComparators_eq : s.stepComparators = s.runsCounted.tripLatched.coolCounted := rfl

theorem State.runsCounted_frame : Touches [.reg .iCMP_RUN] s s.runsCounted :=
  forN_touches (.refl _ s) fun _ _ h => State.setReg_touches (by decide) h

theorem State.tripLatched_frame : Touches (Sys2Proof.Machine.regs [.iCMP_TRIP, .iCMP_PEAK]) s s.tripLatched :=
  .ite (State.setReg_touches (by decide) (State.setReg_touches (by decide) (.refl _ s))) (.refl _ s)

theorem State.coolCounted_frame : Touches [.reg .iCMP_COOL] s s.coolCounted :=
  .ite (State.setReg_touches (by decide) (.refl _ s)) (State.setReg_touches (by decide) (.refl _ s))

theorem State.stepComparators_frame :
    Touches (Sys2Proof.Machine.regs [.iCMP_RUN, .iCMP_TRIP, .iCMP_PEAK, .iCMP_COOL]) s s.stepComparators :=
  (s.runsCounted_frame.append s.runsCounted.tripLatched_frame).append s.runsCounted.tripLatched.coolCounted_frame

theorem State.runsCounted_run {n : Nat} (hn : n < 24) : s.runsCounted.reg .iCMP_RUN n =
    if asInt 16 (s.reg .iCMP_SHUT 0) ≤ s.regInt .TS_TEMP n then min 2 (s.reg .iCMP_RUN n + 1) else 0 := by
  have hsmall (x : Nat) : min 2 x % 2 ^ Reg.width .iCMP_RUN = min 2 x :=
    Nat.mod_eq_of_lt (Nat.lt_of_le_of_lt (Nat.min_le_left ..) (by decide))
  unfold State.runsCounted
  refine State.forN_reg_under (P := fun t => ∀ n, t.reg .TS_TEMP n = s.reg .TS_TEMP n)
    (g := fun n x => if asInt 16 (s.reg .iCMP_SHUT 0) ≤ s.regInt .TS_TEMP n then min 2 (x + 1) else 0)
    (fun _ => rfl) (fun t k ht n => (State.setReg_reg_of_ne _ _ _ _ (by decide)).trans (ht n)) (fun t ht k j => ?_) hn
  unfold State.regInt
  rw [State.reg_setReg, ht k]
  by_cases hk : k = j
  · subst hk
    simp only [true_and, if_true]
    split
    · exact hsmall _
    · rfl
  · rw [if_neg (fun h => hk h.2), if_neg hk]

theorem State.tripLatched_trip : s.tripLatched.reg .iCMP_TRIP 0 =
    if s.tripped = true ∧ s.reg .iCMP_TRIP 0 = 0 then 1 else s.reg .iCMP_TRIP 0 := by
  unfold State.tripLatched
  split
  · exact (State.setReg_reg_of_ne _ _ _ _ (by decide)).trans (State.setReg_reg_of_lt _ _ _ (by decide))
  · rfl

theorem State.stepComparators_run {n : Nat} (hn : n < 24) : s.stepComparators.reg .iCMP_RUN n =
    if asInt 16 (s.reg .iCMP_SHUT 0) ≤ s.regInt .TS_TEMP n then min 2 (s.reg .iCMP_RUN n + 1) else 0 := by
  rw [State.stepComparators_eq, (State.coolCounted_frame _).reg _ _ (by decide) (by decide),
    (State.tripLatched_frame _).reg _ _ (by decide) (by decide), s.runsCounted_run hn]

/-- Whether a comparator has tripped depends on the runs alone. -/
theorem State.tripped_congr {s t : State} (h : ∀ n, t.reg .iCMP_RUN n = s.reg .iCMP_RUN n) : t.tripped = s.tripped := by
  unfold State.tripped
  simp only [h]

theorem State.stepComparators_trip : s.stepComparators.reg .iCMP_TRIP 0 =
    if s.stepComparators.tripped = true ∧ s.reg .iCMP_TRIP 0 = 0 then 1 else s.reg .iCMP_TRIP 0 := by
  have hruns : s.stepComparators.tripped = s.runsCounted.tripped := State.tripped_congr fun n => by
    rw [State.stepComparators_eq, (State.coolCounted_frame _).reg _ _ (by decide) (by decide),
      (State.tripLatched_frame _).reg _ _ (by decide) (by decide)]
  rw [hruns, State.stepComparators_eq, (State.coolCounted_frame _).reg _ _ (by decide) (by decide),
    State.tripLatched_trip, s.runsCounted_frame.reg _ _ (by decide) (by decide)]

end

/-! ## Recognition (R435) -/

/-- What is kept of condition `c`: whether it is recognised, and the run of samples against it. -/
def State.condition (s : State) (c : Nat) : Nat × Nat := (s.reg .iTHR c, s.reg .iTHR_RUN c)

section
variable {s t s' t' : State} {c : Nat} {enter leave : Bool}

theorem Recognised.congr (h : Recognised s t c enter leave) (hs : s'.condition c = s.condition c)
    (ht : t'.condition c = t.condition c) : Recognised s' t' c enter leave := by
  obtain ⟨hs1, hs2⟩ := Prod.mk.inj hs
  obtain ⟨ht1, ht2⟩ := Prod.mk.inj ht
  unfold Recognised
  rw [hs1, hs2, ht1, ht2]
  exact h

/-- What touches no condition leaves it. -/
theorem Touches.condition {V : List Part} (h : Touches V s t) (hthr : Part.reg .iTHR ∉ V)
    (hrun : Part.reg .iTHR_RUN ∉ V) (hany : Part.anyReg ∉ V) (c : Nat) : t.condition c = s.condition c :=
  Prod.ext (h.reg _ _ hthr hany) (h.reg _ _ hrun hany)

end

section
variable (s : State) (c : Nat) (enter leave : Bool)

theorem State.recognise_recognised : Recognised s (s.recognise c enter leave) c enter leave := by
  have hturn : b2n (!(s.reg .iTHR c == 1)) % 2 ^ Reg.width .iTHR = if s.reg .iTHR c = 1 then 0 else 1 := by
    generalize s.reg .iTHR c = x
    by_cases hx : x = 1
    · rw [hx]
      rfl
    · rw [if_neg hx, beq_false_of_ne hx]
      rfl
  unfold Recognised State.recognise
  simp only [beq_iff_eq]
  generalize (if s.reg .iTHR c = 1 then leave else enter) = safe
  cases safe with
  | false =>
    rw [if_pos rfl, if_pos rfl]
    exact ⟨State.setReg_reg_of_lt _ _ _ (by decide), State.setReg_reg_of_ne _ _ _ _ (by decide)⟩
  | true =>
    rw [if_neg (show ¬ true = false by decide), if_neg (show ¬ true = false by decide)]
    by_cases hrun : 250 ≤ s.reg .iTHR_RUN c
    · rw [if_pos hrun, if_pos (by omega)]
      exact ⟨State.setReg_reg_of_lt _ _ _ (by decide), (State.setReg_reg_of_ne _ _ _ _ (by decide)).trans
        ((State.setReg_reg_self ..).trans hturn)⟩
    · have hfits : s.reg .iTHR_RUN c + 1 < 2 ^ Reg.width .iTHR_RUN :=
        Nat.lt_of_le_of_lt (by omega : _ ≤ 250) (by decide)
      rw [if_neg hrun, if_neg (by omega)]
      exact ⟨State.setReg_reg_of_lt _ _ _ hfits, State.setReg_reg_of_ne _ _ _ _ (by decide)⟩

theorem State.recognise_frame : Touches State.recognise_foot s (s.recognise c enter leave) :=
  State.recognise_touches (fun _ h => h) (.refl _ s)

theorem State.recognise_onlyAt (l : List Reg) : OnlyAt s (s.recognise c enter leave) l c :=
  .ite ((OnlyAt.refl s l c).setReg _ _) (.ite (((OnlyAt.refl s l c).setReg _ _).setReg _ _)
    ((OnlyAt.refl s l c).bump _))

theorem State.recognise_condition {d : Nat} (h : c ≠ d) :
    (s.recognise c enter leave).condition d = s.condition d :=
  Prod.ext (s.recognise_onlyAt c enter leave [.iTHR] _ (by decide) d h)
    (s.recognise_onlyAt c enter leave [.iTHR_RUN] _ (by decide) d h)

end

end Sys2Proof.Machine
end

section
/-! The conditions of a thermal sample in turn (R436, R442, R443), and from that the thermal commands (R437 to R441). -/
namespace Sys2Proof.Machine

/-! ## The warning and the panel warnings (R436) -/

section
variable (s : State)

/-- Whether the sample meets the warning, and whether it meets the opposite. -/
def State.warnEnter : Bool := (s.warnMargins.map Prod.snd).any fun m => decide (0 ≤ m)
def State.warnLeave : Bool := (s.warnMargins.map Prod.snd).all fun m => decide (m < -48)

/-- The sample of the warning condition is taken. -/
def State.warnSampled : State := s.recognise 0 s.warnEnter s.warnLeave

theorem State.stepWarning_eq : s.stepWarning =
    if s.warnSampled.reg .iTHR 0 = s.reg .iTHR 0 then s.warnSampled
    else if s.warnSampled.reg .iTHR 0 = 1 then s.warnSampled.warnEntered else s.warnSampled.warnLeft := rfl

theorem State.stepWarning_frame : Touches (State.warnEntered_foot ++ State.warnLeft_foot) s.warnSampled s.stepWarning := by
  rw [State.stepWarning_eq]
  exact .ite (.refl _ _) (.ite (State.warnEntered_touches (by decide) (.refl _ _))
    (State.warnLeft_touches (by decide) (.refl _ _)))

theorem State.stepWarning_condition (c : Nat) : s.stepWarning.condition c = s.warnSampled.condition c :=
  s.stepWarning_frame.condition (by decide) (by decide) (by decide) c

theorem State.warnEntered_state : s.warnEntered.reg .TH_STATE 0 =
    if s.reg .TH_STATE 0 = 0 ∨ s.reg .TH_STATE 0 = 3 then 1 else s.reg .TH_STATE 0 := by
  have hraise : (s.raise Code.thermal none [(8, s.hottest), (16, s.reg .TS_TEMP s.hottest)]).reg .TH_STATE 0
      = s.reg .TH_STATE 0 := State.raise_reg _ _ _ _ _ (by decide) (by decide) (by decide)
  unfold State.warnEntered
  dsimp only
  rw [hraise]
  split
  · rw [State.setReg_reg_of_ne _ _ _ _ (by decide)]
    exact State.setReg_reg_of_lt _ _ _ (by decide)
  · exact hraise

theorem State.warnLeft_state : s.warnLeft.reg .TH_STATE 0 =
    if s.reg .TH_STATE 0 = 1 ∨ s.reg .TH_STATE 0 = 2 then (if s.reg .TH_STAGE_DUE 0 = 0 then 0 else 3)
    else s.reg .TH_STATE 0 := by
  unfold State.warnLeft
  split
  · split
    · exact State.setReg_reg_of_lt _ _ _ (by decide)
    · rw [State.setReg_reg_of_ne _ _ _ _ (by decide)]
      exact State.setReg_reg_of_lt _ _ _ (by decide)
  · rfl

theorem State.stepWarning_turns : WarningTurns s s.stepWarning := by
  have hframe := s.recognise_frame 0 s.warnEnter s.warnLeave
  have hstate : s.warnSampled.reg .TH_STATE 0 = s.reg .TH_STATE 0 := hframe.reg _ _ (by decide) (by decide)
  have hdue : s.warnSampled.reg .TH_STAGE_DUE 0 = s.reg .TH_STAGE_DUE 0 := hframe.reg _ _ (by decide) (by decide)
  unfold WarningTurns
  rw [s.stepWarning_frame.reg .iTHR 0 (by decide) (by decide), State.stepWarning_eq]
  split
  · exact hstate
  split
  · rw [State.warnEntered_state, hstate]
  · rw [State.warnLeft_state, hstate, hdue]

end

theorem WarningTurns.congr {s t s' t' : State} (h : WarningTurns s t)
    (hs : ∀ r ∈ [Reg.TH_STATE, .TH_STAGE_DUE, .iTHR], s'.reg r 0 = s.reg r 0)
    (ht : ∀ r ∈ [Reg.TH_STATE, .iTHR], t'.reg r 0 = t.reg r 0) : WarningTurns s' t' := by
  unfold WarningTurns
  rw [hs .TH_STATE (by decide), hs .TH_STAGE_DUE (by decide), hs .iTHR (by decide), ht .TH_STATE (by decide),
    ht .iTHR (by decide)]
  exact h

section
variable (s : State) (surf : Nat)

/-- The sample of the warning of a panel is taken. -/
def State.panelSampled : State :=
  s.recognise (1 + surf) (decide (s.regInt .TP_WARN surf ≤ s.regInt .TP_TEMP surf))
    (decide (s.regInt .TP_TEMP surf < s.regInt .TP_WARN surf - 48))

theorem State.stepPanelWarn_frame : Touches State.raise_foot (s.panelSampled surf) (s.stepPanelWarn surf) :=
  .ite (State.raise_touches (fun _ h => h) (.refl _ _)) (.refl _ _)

theorem State.stepPanelWarn_condition (c : Nat) :
    (s.stepPanelWarn surf).condition c = (s.panelSampled surf).condition c :=
  (s.stepPanelWarn_frame surf).condition (by decide) (by decide) (by decide) c

end

/-! ## The gates (R442, R443) -/

section
variable (s : State)

/-- The sample of the Keeper gate is taken. -/
def State.keeperSampled : State :=
  (s.recognise 3 (decide (1520 < s.junction)) (decide (s.junction ≤ 1472))).recognise 4
    (decide (lowest s.dieTemps < -320)) (decide (-272 ≤ lowest s.dieTemps))

theorem State.keeperSampled_recognised :
    Recognised s s.keeperSampled 3 (decide (1520 < s.junction)) (decide (s.junction ≤ 1472)) ∧
    Recognised s s.keeperSampled 4 (decide (lowest s.dieTemps < -320)) (decide (-272 ≤ lowest s.dieTemps)) :=
  ⟨(s.recognise_recognised 3 _ _).congr rfl (State.recognise_condition _ 4 _ _ (by decide)),
    (State.recognise_recognised _ 4 _ _).congr (s.recognise_condition 3 _ _ (by decide)).symm rfl⟩

/-- The Keeper gate is sampled from the conditions and the readings that a state before it holds. -/
theorem Recognised.keeper {s u t : State} (hjunction : u.junction = s.junction) (htemps : u.dieTemps = s.dieTemps)
    (hs : ∀ c, 3 ≤ c → s.condition c = u.condition c) (ht : ∀ c, c < 5 → t.condition c = u.keeperSampled.condition c) :
    Recognised s t 3 (decide (1520 < s.junction)) (decide (s.junction ≤ 1472)) ∧
    Recognised s t 4 (decide (lowest s.dieTemps < -320)) (decide (-272 ≤ lowest s.dieTemps)) := by
  obtain ⟨hhot, hcold⟩ := u.keeperSampled_recognised
  rw [hjunction] at hhot
  rw [htemps] at hcold
  exact ⟨hhot.congr (hs 3 (by decide)) (ht 3 (by decide)), hcold.congr (hs 4 (by decide)) (ht 4 (by decide))⟩

theorem State.stepKeeperGate_eq : s.stepKeeperGate = s.keeperSampled.setReg .TH_KEEPER_GATE 0
    (if s.keeperSampled.reg .iTHR 3 = 1 then 2 else if s.keeperSampled.reg .iTHR 4 = 1 then 1 else 0) := rfl

theorem State.stepKeeperGate_condition (c : Nat) : s.stepKeeperGate.condition c = s.keeperSampled.condition c :=
  (State.setReg_touches (W := [.reg .TH_KEEPER_GATE]) (by decide) (.refl _ _)).condition (by decide) (by decide)
    (by decide) c

/-- A gate that is closed HOT, closed COLD or open, as a register of 8 bits holds it. -/
theorem gate_lt (a b : Prop) [Decidable a] [Decidable b] : (if a then 2 else if b then 1 else 0) < 2 ^ 8 := by
  split
  · decide
  · split <;> decide

theorem State.stepKeeperGate_gate : s.stepKeeperGate.reg .TH_KEEPER_GATE 0 =
    if s.stepKeeperGate.reg .iTHR 3 = 1 then 2 else if s.stepKeeperGate.reg .iTHR 4 = 1 then 1 else 0 := by
  have hthr (c : Nat) : s.stepKeeperGate.reg .iTHR c = s.keeperSampled.reg .iTHR c :=
    congrArg Prod.fst (s.stepKeeperGate_condition c)
  rw [hthr, hthr, State.stepKeeperGate_eq]
  exact State.setReg_reg_of_lt _ _ _ (gate_lt ..)

/-- The sample of the glass gate is taken. -/
def State.glassSampled : State :=
  (s.recogniseAbove 5 (s.regInt .TS_TEMP s.glassPair) 880).recogniseBelow 6 (s.regInt .TS_TEMP s.glassPair) 0

theorem State.stepGlassGate_eq : s.stepGlassGate =
    if s.reg .TS_VALID s.glassPair = 0 then
      ((s.setReg .iTHR_RUN 5 0).setReg .iTHR_RUN 6 0).setReg .TH_GLASS_GATE 0 3
    else s.glassSampled.setReg .TH_GLASS_GATE 0
      (if s.glassSampled.reg .iTHR 5 = 1 then 2 else if s.glassSampled.reg .iTHR 6 = 1 then 1 else 0) := rfl

theorem State.stepGlassGate_frame : Touches State.stepGlassGate_foot s s.stepGlassGate :=
  State.stepGlassGate_touches (fun _ h => h) (.refl _ s)

theorem State.stepGlassGate_condition {c : Nat} (hc : c < 5) : s.stepGlassGate.condition c = s.condition c := by
  have hne (d : Nat) (hd : 5 ≤ d) : d ≠ c := by omega
  rw [State.stepGlassGate_eq]
  split
  · exact Prod.ext (by simp [State.condition]) (by
      simp [State.condition, State.setReg_reg_of_ix_ne _ _ _ _ (hne 5 (by omega)),
        State.setReg_reg_of_ix_ne _ _ _ _ (hne 6 (by omega))])
  · rw [(State.setReg_touches (W := [.reg .TH_GLASS_GATE]) (by decide) (.refl _ _)).condition (by decide) (by decide)
      (by decide) c]
    exact (State.recognise_condition _ 6 _ _ (hne 6 (by omega))).trans (s.recognise_condition 5 _ _ (hne 5 (by omega)))

theorem State.stepGlassGate_gate : s.stepGlassGate.reg .TH_GLASS_GATE 0 =
    if s.reg .TS_VALID s.glassPair = 0 then 3
    else if s.stepGlassGate.reg .iTHR 5 = 1 then 2 else if s.stepGlassGate.reg .iTHR 6 = 1 then 1 else 0 := by
  rw [State.stepGlassGate_eq]
  split
  · exact State.setReg_reg_of_lt _ _ _ (by decide)
  · have hthr (v c : Nat) : (s.glassSampled.setReg .TH_GLASS_GATE 0 v).reg .iTHR c = s.glassSampled.reg .iTHR c :=
      State.setReg_reg_of_ne _ _ _ _ (by decide)
    rw [hthr, hthr]
    exact State.setReg_reg_of_lt _ _ _ (gate_lt ..)

/-- The conditions and the gates take one sample each. -/
def State.sampled : State := (((s.stepWarning.stepPanelWarn 0).stepPanelWarn 1).stepKeeperGate).stepGlassGate

theorem State.sampled_frame : Touches (State.stepWarning_foot ++ State.stepPanelWarn_foot ++ State.stepPanelWarn_foot
    ++ State.stepKeeperGate_foot ++ State.stepGlassGate_foot) s s.sampled :=
  ((((State.stepWarning_touches (fun _ h => h) (.refl _ s)).append
    (State.stepPanelWarn_touches (fun _ h => h) (.refl _ _))).append
      (State.stepPanelWarn_touches (fun _ h => h) (.refl _ _))).append
        (State.stepKeeperGate_touches (fun _ h => h) (.refl _ _))).append
          (State.stepGlassGate_touches (fun _ h => h) (.refl _ _))

theorem State.keeperSampled_condition {c : Nat} (h3 : 3 ≠ c) (h4 : 4 ≠ c) :
    s.keeperSampled.condition c = s.condition c :=
  (State.recognise_condition _ 4 _ _ h4).trans (s.recognise_condition 3 _ _ h3)

/-- What is kept of the warnings and of the Keeper gate after all samples. -/
theorem State.sampled_condition {c : Nat} (hc : c < 5) :
    s.sampled.condition c = (((s.stepWarning.stepPanelWarn 0).stepPanelWarn 1).keeperSampled).condition c := by
  unfold State.sampled
  rw [State.stepGlassGate_condition _ hc, State.stepKeeperGate_condition]

theorem State.sampled_condition_warning : s.sampled.condition 0 = s.warnSampled.condition 0 := by
  rw [s.sampled_condition (by decide), State.keeperSampled_condition _ (by decide) (by decide),
    State.stepPanelWarn_condition, State.panelSampled, State.recognise_condition _ _ _ _ (by decide),
    State.stepPanelWarn_condition, State.panelSampled, State.recognise_condition _ _ _ _ (by decide),
    State.stepWarning_condition]

/-- The registers of a panel's warning stay while the conditions are sampled. -/
theorem State.panelSampled_congr {t : State} {surf : Nat} (hcond : t.condition (1 + surf) = s.condition (1 + surf))
    (htemp : t.regInt .TP_TEMP surf = s.regInt .TP_TEMP surf) (hwarn : t.regInt .TP_WARN surf = s.regInt .TP_WARN surf) :
    Recognised s (t.panelSampled surf) (1 + surf) (decide (s.regInt .TP_WARN surf ≤ s.regInt .TP_TEMP surf))
      (decide (s.regInt .TP_TEMP surf < s.regInt .TP_WARN surf - 48)) := by
  rw [← htemp, ← hwarn]
  exact (t.recognise_recognised (1 + surf) _ _).congr hcond.symm rfl

end

/-- What touches no register of a signed value leaves it. -/
theorem Touches.regInt {s t : State} {V : List Part} (h : Touches V s t) (r : Reg) (j : Nat) (hr : Part.reg r ∉ V)
    (hany : Part.anyReg ∉ V) : t.regInt r j = s.regInt r j :=
  congrArg (asInt r.width) (h.reg r j hr hany)

section
variable (s : State)

theorem State.sampled_panel {surf : Nat} (hsurf : surf < 2) :
    Recognised s s.sampled (1 + surf) (decide (s.regInt .TP_WARN surf ≤ s.regInt .TP_TEMP surf))
      (decide (s.regInt .TP_TEMP surf < s.regInt .TP_WARN surf - 48)) := by
  have hwarned : Touches State.stepWarning_foot s s.stepWarning := State.stepWarning_touches (fun _ h => h) (.refl _ s)
  have hcond {c : Nat} (hc : 0 ≠ c) : s.stepWarning.condition c = s.condition c :=
    (s.stepWarning_condition c).trans (s.recognise_condition 0 _ _ hc)
  obtain rfl | rfl : surf = 0 ∨ surf = 1 := by omega
  · refine (s.panelSampled_congr (hcond (by decide)) (hwarned.regInt _ _ (by decide) (by decide))
      (hwarned.regInt _ _ (by decide) (by decide))).congr rfl ?_
    rw [s.sampled_condition (by decide), State.keeperSampled_condition _ (by decide) (by decide),
      State.stepPanelWarn_condition, State.panelSampled, State.recognise_condition _ _ _ _ (by decide),
      State.stepPanelWarn_condition]
  · have hpanel : Touches (State.stepWarning_foot ++ State.stepPanelWarn_foot) s (s.stepWarning.stepPanelWarn 0) :=
      hwarned.append (State.stepPanelWarn_touches (fun _ h => h) (.refl _ _))
    refine (s.panelSampled_congr ?_ (hpanel.regInt _ _ (by decide) (by decide))
      (hpanel.regInt _ _ (by decide) (by decide))).congr rfl ?_
    · rw [State.stepPanelWarn_condition, State.panelSampled, State.recognise_condition _ _ _ _ (by decide),
        hcond (by decide)]
    · rw [s.sampled_condition (by decide), State.keeperSampled_condition _ (by decide) (by decide),
        State.stepPanelWarn_condition]

/-- The state in which the Keeper gate is sampled differs from the sample's in no reading. -/
theorem State.warned_frame : Touches (State.stepWarning_foot ++ State.stepPanelWarn_foot ++ State.stepPanelWarn_foot) s
    ((s.stepWarning.stepPanelWarn 0).stepPanelWarn 1) :=
  ((State.stepWarning_touches (fun _ h => h) (.refl _ s)).append
    (State.stepPanelWarn_touches (fun _ h => h) (.refl _ _))).append
      (State.stepPanelWarn_touches (fun _ h => h) (.refl _ _))

theorem State.warned_condition {c : Nat} (h0 : 0 ≠ c) (h1 : 1 ≠ c) (h2 : 2 ≠ c) :
    ((s.stepWarning.stepPanelWarn 0).stepPanelWarn 1).condition c = s.condition c := by
  rw [State.stepPanelWarn_condition, State.panelSampled, State.recognise_condition _ _ _ _ (by omega),
    State.stepPanelWarn_condition, State.panelSampled, State.recognise_condition _ _ _ _ (by omega),
    State.stepWarning_condition, State.warnSampled, State.recognise_condition _ _ _ _ h0]

theorem State.sampled_keeper :
    Recognised s s.sampled 3 (decide (1520 < s.junction)) (decide (s.junction ≤ 1472)) ∧
    Recognised s s.sampled 4 (decide (lowest s.dieTemps < -320)) (decide (-272 ≤ lowest s.dieTemps)) := by
  have hjunction : ((s.stepWarning.stepPanelWarn 0).stepPanelWarn 1).junction = s.junction :=
    s.warned_frame.regInt .TH_JUNCTION 0 (by decide) (by decide)
  have htemps : ((s.stepWarning.stepPanelWarn 0).stepPanelWarn 1).dieTemps = s.dieTemps :=
    State.dieTemps_congr fun n => s.warned_frame.reg .TS_TEMP n (by decide) (by decide)
  exact Recognised.keeper hjunction htemps (fun c hc => (s.warned_condition (by omega) (by omega) (by omega)).symm)
    fun c hc => s.sampled_condition hc

theorem State.sampled_gates :
    s.sampled.reg .TH_KEEPER_GATE 0 =
      (if s.sampled.reg .iTHR 3 = 1 then 2 else if s.sampled.reg .iTHR 4 = 1 then 1 else 0) ∧
    s.sampled.reg .TH_GLASS_GATE 0 = (if s.sampled.reg .TS_VALID s.sampled.glassPair = 0 then 3
      else if s.sampled.reg .iTHR 5 = 1 then 2 else if s.sampled.reg .iTHR 6 = 1 then 1 else 0) := by
  have hgated : s.sampled = (((s.stepWarning.stepPanelWarn 0).stepPanelWarn 1).stepKeeperGate).stepGlassGate := rfl
  generalize ((s.stepWarning.stepPanelWarn 0).stepPanelWarn 1) = u at hgated
  have hframe := u.stepKeeperGate.stepGlassGate_frame
  have hthr (c : Nat) (hc : c < 5) : u.stepKeeperGate.stepGlassGate.reg .iTHR c = u.stepKeeperGate.reg .iTHR c :=
    congrArg Prod.fst (u.stepKeeperGate.stepGlassGate_condition hc)
  have hpair : u.stepKeeperGate.stepGlassGate.glassPair = u.stepKeeperGate.glassPair :=
    congrArg (32 + · % 4) (hframe.reg .TH_GLASS_DIODE 0 (by decide) (by decide))
  rw [hgated]
  constructor
  · rw [hframe.reg .TH_KEEPER_GATE 0 (by decide) (by decide), hthr 3 (by decide), hthr 4 (by decide)]
    exact u.stepKeeperGate_gate
  · rw [hpair, hframe.reg .TS_VALID _ (by decide) (by decide)]
    exact u.stepKeeperGate.stepGlassGate_gate

/-- The margins of the warning depend on the readings and the thresholds alone. -/
theorem State.warnMargins_congr {t : State} {V : List Part} (h : Touches V s t) (htemp : Part.reg .TS_TEMP ∉ V)
    (hwarn : Part.reg .TH_WARN ∉ V) (hhbm : Part.reg .TH_HBM_WARN ∉ V) (hany : Part.anyReg ∉ V) :
    t.warnMargins = s.warnMargins := by
  unfold State.warnMargins
  simp only [h.regInt .TS_TEMP _ htemp hany, h.regInt .TH_WARN 0 hwarn hany, h.regInt .TH_HBM_WARN 0 hhbm hany]

theorem State.sampled_warning : Recognised s s.sampled 0 s.warnEnter s.warnLeave ∧ WarningTurns s s.sampled := by
  refine ⟨(s.recognise_recognised 0 _ _).congr rfl s.sampled_condition_warning,
    s.stepWarning_turns.congr (fun _ _ => rfl) fun r hr => ?_⟩
  simp only [List.mem_cons, List.not_mem_nil, or_false] at hr
  obtain rfl | rfl := hr
  · have hframe : Touches (State.stepPanelWarn_foot ++ State.stepPanelWarn_foot ++ State.stepKeeperGate_foot ++
        State.stepGlassGate_foot) s.stepWarning s.sampled :=
      (((State.stepPanelWarn_touches (fun _ h => h) (.refl _ _)).append
        (State.stepPanelWarn_touches (fun _ h => h) (.refl _ _))).append
          (State.stepKeeperGate_touches (fun _ h => h) (.refl _ _))).append
            (State.stepGlassGate_touches (fun _ h => h) (.refl _ _))
    exact hframe.reg _ _ (by decide) (by decide)
  · exact (congrArg Prod.fst s.sampled_condition_warning).trans (congrArg Prod.fst (s.stepWarning_condition 0)).symm

end

end Sys2Proof.Machine
end

section
/-! The thermal commands (R437 to R444): a sample, the grace period, the stages, the thresholds of the shutdown and the
shutdown itself. -/
namespace Sys2Proof.Machine

/-! ## A thermal sample -/

section
variable (s : State) (die : List (BitVec 16)) (diodes : List (Nat × Nat)) (rails : List (BitVec 16))

/-- The power of the nine rails (R431). -/
def railPowers : List Nat := (List.range 9).map fun k => (rails.getD k 0).toNat

/-- The sensors are read and the power of the rails is shown, before the comparators act. -/
def State.sensed : State :=
  ((s.readSensors die diodes).setReg .PW_MEASURED 0 (packRecords 2 (railPowers rails))).setReg .PW_TOTAL 0
    (railPowers rails).sum

/-- The comparators have had their sample, and the minute its highest reading. -/
def State.compared : State :=
  s.stepComparators.setReg .iMIN_MAX 0 (ofInt 16 (max (s.stepComparators.regInt .iMIN_MAX 0) s.stepComparators.junction))

theorem execThermalSample_eq : exec (.thermalSample die diodes rails) s =
    if (s.sensed die diodes rails).compared.reg .iPHASE 0 = 4 then .next (s.sensed die diodes rails).compared
    else .next (s.sensed die diodes rails).compared.sampled := rfl

theorem State.sensed_frame : Touches (State.readSensors_foot ++ Sys2Proof.Machine.regs [.PW_MEASURED, .PW_TOTAL]) s
    (s.sensed die diodes rails) :=
  (s.readSensors_frame die diodes).append
    (State.setReg_touches (by decide) (State.setReg_touches (by decide) (.refl _ _)))

theorem State.sensed_reg {q : Reg} (j : Nat) (hmeas : q ≠ .PW_MEASURED) (htotal : q ≠ .PW_TOTAL)
    (hjunction : q ≠ .TH_JUNCTION) : (s.sensed die diodes rails).reg q j = (s.allRead die diodes).reg q j := by
  unfold State.sensed
  rw [State.setReg_reg_of_ne _ _ _ _ htotal.symm, State.setReg_reg_of_ne _ _ _ _ hmeas.symm,
    State.readSensors_reg _ _ _ _ hjunction]

theorem State.compared_frame :
    Touches (Sys2Proof.Machine.regs [.iCMP_RUN, .iCMP_TRIP, .iCMP_PEAK, .iCMP_COOL, .iMIN_MAX]) s s.compared :=
  (s.stepComparators_frame.append (State.setReg_touches (W := [.reg .iMIN_MAX]) (by decide) (.refl _ _))).mono (by decide)

theorem State.sensed_junction :
    (s.sensed die diodes rails).junction = highest (s.sensed die diodes rails).dieTemps := by
  have htemps : (s.sensed die diodes rails).dieTemps = (s.readSensors die diodes).dieTemps :=
    State.dieTemps_congr fun n => by simp [State.sensed]
  rw [htemps, ← s.readSensors_junction die diodes]
  exact congrArg (asInt 16) (by simp [State.sensed])

theorem State.sensed_powers : (s.sensed die diodes rails).Holds .PW_MEASURED 0 (packRecords 2 (railPowers rails)) ∧
    (s.sensed die diodes rails).Holds .PW_TOTAL 0 (railPowers rails).sum :=
  ⟨(State.setReg_reg_of_ne _ _ _ _ (by decide)).trans (State.setReg_reg_self ..), State.setReg_reg_self ..⟩

theorem State.compared_run {n : Nat} (hn : n < 24) : s.compared.reg .iCMP_RUN n =
    if asInt 16 (s.reg .iCMP_SHUT 0) ≤ s.regInt .TS_TEMP n then min 2 (s.reg .iCMP_RUN n + 1) else 0 :=
  (State.setReg_reg_of_ne _ _ _ _ (by decide)).trans (s.stepComparators_run hn)

theorem State.compared_trip : s.compared.reg .iCMP_TRIP 0 =
    if s.compared.tripped = true ∧ s.reg .iCMP_TRIP 0 = 0 then 1 else s.reg .iCMP_TRIP 0 := by
  have htripped : s.compared.tripped = s.stepComparators.tripped :=
    State.tripped_congr fun n => State.setReg_reg_of_ne _ _ _ _ (by decide)
  rw [htripped]
  exact (State.setReg_reg_of_ne _ _ _ _ (by decide)).trans s.stepComparators_trip

/-- What the sensors and the comparators show after a sample (R432, R434, R439, R444). -/
def SensorsShown (t : State) : Prop :=
  (∀ n v, n < 24 → die[n]? = some v → t.reg .TS_TEMP n = v.toNat ∧ t.reg .TS_VALID n = 1 ∧
    t.regInt .TS_MAX n = max (s.regInt .TS_MAX n) v.toInt) ∧
  (∀ k, k < 2 → t.reg .TS_TEMP (24 + k) = s.reg .CH_TEMP (16 * k)) ∧
  t.junction = highest t.dieTemps ∧
  t.Holds .PW_MEASURED 0 (packRecords 2 (railPowers rails)) ∧ t.Holds .PW_TOTAL 0 (railPowers rails).sum ∧
  (∀ n, n < 24 → t.reg .iCMP_RUN n =
    if asInt 16 (s.reg .iCMP_SHUT 0) ≤ t.regInt .TS_TEMP n then min 2 (s.reg .iCMP_RUN n + 1) else 0) ∧
  t.reg .iCMP_TRIP 0 = (if (List.range 24).any (fun n => t.reg .iCMP_RUN n == 2) = true ∧
    s.reg .iCMP_TRIP 0 = 0 then 1 else s.reg .iCMP_TRIP 0)

/-- The stacks' readings are not those of the die, and stay while the panels are read. -/
theorem State.allRead_stacks {k : Nat} (hk : k < 2) :
    (s.allRead die diodes).reg .TS_TEMP (24 + k) = s.reg .CH_TEMP (16 * k) := by
  have hdie : Touches State.takeReading_foot s (s.dieRead die) :=
    forN_touches (.refl _ s) fun _ _ h => by
      split
      · exact State.takeReading_touches (fun _ hp => hp) h
      · exact h
  rw [← hdie.reg .CH_TEMP (16 * k) (by decide) (by decide), ← State.stacksRead_temp _ hk]
  exact State.pairsRead_reg _ _ (by decide) (by omega)

theorem State.compared_shown : SensorsShown s die rails (s.sensed die diodes rails).compared := by
  have hframe := (s.sensed die diodes rails).compared_frame
  have hread (q : Reg) (hq : q ∈ [Reg.TS_TEMP, .TS_VALID, .TS_MAX]) (j : Nat) :
      (s.sensed die diodes rails).compared.reg q j = (s.allRead die diodes).reg q j := by
    simp only [List.mem_cons, List.not_mem_nil, or_false] at hq
    obtain rfl | rfl | rfl := hq
    all_goals rw [hframe.reg _ j (by decide) (by decide), s.sensed_reg die diodes rails j (by decide) (by decide)
      (by decide)]
  have htemps : (s.sensed die diodes rails).compared.dieTemps = (s.sensed die diodes rails).dieTemps :=
    State.dieTemps_congr fun n => hframe.reg .TS_TEMP n (by decide) (by decide)
  obtain ⟨hmeasured, htotal⟩ := s.sensed_powers die diodes rails
  have hsensed := s.sensed_frame die diodes rails
  refine ⟨fun n v hn hv => ⟨?_, ?_, ?_⟩, fun k hk => ?_, ?_, ?_, ?_, fun n hn => ?_, ?_⟩
  · rw [hread .TS_TEMP (by decide), s.allRead_die die diodes (by decide) hn, State.dieRead_temp hn hv]
  · rw [hread .TS_VALID (by decide), s.allRead_die die diodes (by decide) hn, State.dieRead_valid hn hv]
  · rw [← State.dieRead_max hn hv]
    exact congrArg (asInt 16) ((hread .TS_MAX (by decide) n).trans (s.allRead_die die diodes (by decide) hn))
  · rw [hread .TS_TEMP (by decide), s.allRead_stacks die diodes hk]
  · rw [htemps, ← s.sensed_junction die diodes rails]
    exact hframe.regInt .TH_JUNCTION 0 (by decide) (by decide)
  · exact (hframe.reg _ _ (by decide) (by decide)).trans hmeasured
  · exact (hframe.reg _ _ (by decide) (by decide)).trans htotal
  · rw [State.compared_run _ hn, hframe.regInt .TS_TEMP n (by decide) (by decide),
      hsensed.reg .iCMP_SHUT 0 (by decide) (by decide), hsensed.reg .iCMP_RUN n (by decide) (by decide)]
  · rw [State.compared_trip, hsensed.reg .iCMP_TRIP 0 (by decide) (by decide)]
    rfl

variable {s die rails} in
/-- What touches none of these registers leaves what they show. -/
theorem SensorsShown.touches {t u : State} {V : List Part} (h : SensorsShown s die rails t) (hT : Touches V t u)
    (hV : ∀ r ∈ [Reg.TS_TEMP, .TS_VALID, .TS_MAX, .TH_JUNCTION, .PW_MEASURED, .PW_TOTAL, .iCMP_RUN, .iCMP_TRIP],
      Part.reg r ∉ V) (hany : Part.anyReg ∉ V) : SensorsShown s die rails u := by
  obtain ⟨hdie, hstacks, hjunction, hmeasured, htotal, hruns, htrip⟩ := h
  have hreg (r : Reg) (hr : r ∈ [Reg.TS_TEMP, .TS_VALID, .TS_MAX, .TH_JUNCTION, .PW_MEASURED, .PW_TOTAL, .iCMP_RUN,
      .iCMP_TRIP]) (j : Nat) : u.reg r j = t.reg r j := hT.reg r j (hV r hr) hany
  have hint (r : Reg) (hr : r ∈ [Reg.TS_TEMP, .TS_VALID, .TS_MAX, .TH_JUNCTION, .PW_MEASURED, .PW_TOTAL, .iCMP_RUN,
      .iCMP_TRIP]) (j : Nat) : u.regInt r j = t.regInt r j := congrArg (asInt r.width) (hreg r hr j)
  refine ⟨fun n v hn hv => ?_, fun k hk => ?_, ?_, ?_, ?_, fun n hn => ?_, ?_⟩
  · rw [hreg .TS_TEMP (by decide), hreg .TS_VALID (by decide), hint .TS_MAX (by decide)]
    exact hdie n v hn hv
  · rw [hreg .TS_TEMP (by decide)]
    exact hstacks k hk
  · rw [State.dieTemps_congr fun n => hreg .TS_TEMP (by decide) n, ← hjunction]
    exact hint .TH_JUNCTION (by decide) 0
  · exact (hreg .PW_MEASURED (by decide) 0).trans hmeasured
  · exact (hreg .PW_TOTAL (by decide) 0).trans htotal
  · rw [hreg .iCMP_RUN (by decide), hint .TS_TEMP (by decide)]
    exact hruns n hn
  · simp only [hreg .iCMP_RUN (by decide), hreg .iCMP_TRIP (by decide)]
    exact htrip

/-- What one sample of the conditions leaves (R435, R436, R442, R443). -/
def ConditionsSampled (t : State) : Prop :=
  let w := t.warnMargins.map Prod.snd
  Recognised s t 0 (w.any (fun m => decide (0 ≤ m))) (w.all (fun m => decide (m < -48))) ∧
  (∀ surf, surf < 2 → Recognised s t (1 + surf) (decide (s.regInt .TP_WARN surf ≤ s.regInt .TP_TEMP surf))
    (decide (s.regInt .TP_TEMP surf < s.regInt .TP_WARN surf - 48))) ∧
  Recognised s t 3 (decide (1520 < t.junction)) (decide (t.junction ≤ 1472)) ∧
  Recognised s t 4 (decide (lowest t.dieTemps < -320)) (decide (-272 ≤ lowest t.dieTemps)) ∧
  WarningTurns s t ∧
  t.reg .TH_KEEPER_GATE 0 = (if t.reg .iTHR 3 = 1 then 2 else if t.reg .iTHR 4 = 1 then 1 else 0) ∧
  t.reg .TH_GLASS_GATE 0 = (if t.reg .TS_VALID t.glassPair = 0 then 3
    else if t.reg .iTHR 5 = 1 then 2 else if t.reg .iTHR 6 = 1 then 1 else 0)

theorem State.sampled_conditions : ConditionsSampled s s.sampled := by
  have hframe := s.sampled_frame
  obtain ⟨hwarning, hturns⟩ := s.sampled_warning
  obtain ⟨hhot, hcold⟩ := s.sampled_keeper
  obtain ⟨hkeeper, hglass⟩ := s.sampled_gates
  have hjunction : s.sampled.junction = s.junction := hframe.regInt .TH_JUNCTION 0 (by decide) (by decide)
  have htemps : s.sampled.dieTemps = s.dieTemps :=
    State.dieTemps_congr fun n => hframe.reg .TS_TEMP n (by decide) (by decide)
  have hmargins : s.sampled.warnMargins = s.warnMargins :=
    s.warnMargins_congr hframe (by decide) (by decide) (by decide) (by decide)
  unfold ConditionsSampled
  rw [hmargins, hjunction, htemps]
  exact ⟨hwarning, fun _ => s.sampled_panel, hhot, hcold, hturns, hkeeper, hglass⟩

variable {s} in
/-- A sample of the conditions is one from every state that agrees on what they are taken from. -/
theorem ConditionsSampled.congr {s' t : State} {V : List Part} (h : ConditionsSampled s t) (hT : Touches V s' s)
    (hV : ∀ r ∈ [Reg.iTHR, .iTHR_RUN, .TH_STATE, .TH_STAGE_DUE, .TP_WARN, .TP_TEMP], Part.reg r ∉ V)
    (hany : Part.anyReg ∉ V) : ConditionsSampled s' t := by
  obtain ⟨hwarning, hpanel, hhot, hcold, hturns, hkeeper, hglass⟩ := h
  have hcond (c : Nat) : s'.condition c = s.condition c :=
    (hT.condition (hV _ (by decide)) (hV _ (by decide)) hany c).symm
  have hint (r : Reg) (hr : Part.reg r ∉ V) (j : Nat) : s.regInt r j = s'.regInt r j := hT.regInt r j hr hany
  refine ⟨hwarning.congr (hcond 0) rfl, fun surf hsurf => ?_, hhot.congr (hcond 3) rfl, hcold.congr (hcond 4) rfl,
    hturns.congr (fun r hr => ?_) fun _ _ => rfl, hkeeper, hglass⟩
  · rw [← hint .TP_WARN (hV _ (by decide)), ← hint .TP_TEMP (hV _ (by decide))]
    exact (hpanel surf hsurf).congr (hcond _) rfl
  · have hlist : r ∈ [Reg.iTHR, .iTHR_RUN, .TH_STATE, .TH_STAGE_DUE, .TP_WARN, .TP_TEMP] := by
      simp only [List.mem_cons, List.not_mem_nil, or_false] at hr ⊢
      obtain rfl | rfl | rfl := hr <;> simp
    exact (hT.reg r 0 (hV r hlist) hany).symm

theorem thermalSample_completes :
    ∃ t, exec (.thermalSample die diodes rails) s = .next t ∧ Touches Changes.thermalSample s t ∧
      SensorsShown s die rails t ∧
      if s.reg .iPHASE 0 = 4 then
        (∀ c, t.reg .iTHR c = s.reg .iTHR c) ∧ t.reg .TH_STATE 0 = s.reg .TH_STATE 0 ∧
        t.reg .TH_KEEPER_GATE 0 = s.reg .TH_KEEPER_GATE 0 ∧ t.reg .TH_GLASS_GATE 0 = s.reg .TH_GLASS_GATE 0
      else ConditionsSampled s t := by
  have hW := execThermalSample_touches (W := Changes.thermalSample) (die := die) (diodes := diodes) (rails := rails)
    (by decide) (.refl _ s)
  have hc := execThermalSample_eq s die diodes rails
  have hframe := (s.sensed_frame die diodes rails).append (s.sensed die diodes rails).compared_frame
  have hshown := s.compared_shown die diodes rails
  rw [hframe.reg .iPHASE 0 (by decide) (by decide)] at hc
  by_cases hphase : s.reg .iPHASE 0 = 4
  · rw [if_pos hphase] at hc
    simp only [if_pos hphase]
    exact completes_of_next hc hW ⟨hshown, fun c => hframe.reg _ c (by decide) (by decide),
      hframe.reg _ 0 (by decide) (by decide), hframe.reg _ 0 (by decide) (by decide),
      hframe.reg _ 0 (by decide) (by decide)⟩
  · rw [if_neg hphase] at hc
    simp only [if_neg hphase]
    exact completes_of_next hc hW ⟨hshown.touches (State.sampled_frame _) (by decide) (by decide),
      (State.sampled_conditions _).congr hframe (by decide) (by decide)⟩

end

end Sys2Proof.Machine
end

section
/-! The grace period, the stages, the thresholds of the shutdown and the shutdown itself (R437 to R441). -/
namespace Sys2Proof.Machine

/-! ## Stages (R437) -/

section
variable (s : State)

/-- The grace timer starts again. -/
def State.graceRestarted : State := s.setReg .iTH_TIMER 0 s.clock

/-- The stage due falls by one in recovery, which ends at stage 0. -/
def State.stageDown : State :=
  if s.reg .TH_STAGE_DUE 0 ≤ 1 then
    (s.graceRestarted.setReg .TH_STAGE_DUE 0 (s.reg .TH_STAGE_DUE 0 - 1)).setReg .TH_STATE 0 0
  else s.graceRestarted.setReg .TH_STAGE_DUE 0 (s.reg .TH_STAGE_DUE 0 - 1)

/-- The stage due rises by one, to TH_STAGE_MAX at most. -/
def State.stageUp : State :=
  (s.graceRestarted.setReg .TH_STATE 0 2).setReg .TH_STAGE_DUE 0 (min (s.reg .TH_STAGE_DUE 0 + 1) (s.reg .TH_STAGE_MAX 0))

theorem execThermalGraceExpire_eq : exec .thermalGraceExpire s =
    if s.reg .TH_STATE 0 = 0 ∨ s.reg .iPHASE 0 = 4 ∨ s.clock < s.reg .iTH_TIMER 0 + s.reg .TH_GRACE 0 * 1000000 then
      .next s
    else .next (if s.reg .TH_STATE 0 = 3 then s.stageDown else s.stageUp) := by
  have hdue : s.graceRestarted.reg .TH_STAGE_DUE 0 = s.reg .TH_STAGE_DUE 0 :=
    State.setReg_reg_of_ne _ _ _ _ (by decide)
  have hmax : s.graceRestarted.reg .TH_STAGE_MAX 0 = s.reg .TH_STAGE_MAX 0 :=
    State.setReg_reg_of_ne _ _ _ _ (by decide)
  unfold State.stageDown State.stageUp
  rw [← hdue, ← hmax, apply_ite Host.Outcome.next]
  rfl

theorem State.stageDown_reg (hst : s.reg .TH_STATE 0 = 3) : s.stageDown.Holds .iTH_TIMER 0 s.clock ∧
    s.stageDown.reg .TH_STAGE_DUE 0 = s.reg .TH_STAGE_DUE 0 - 1 ∧
    s.stageDown.reg .TH_STATE 0 = if s.reg .TH_STAGE_DUE 0 ≤ 1 then 0 else 3 := by
  have hdue : s.reg .TH_STAGE_DUE 0 - 1 < 2 ^ Reg.width .TH_STAGE_DUE :=
    Nat.lt_of_le_of_lt (Nat.sub_le _ _) (s.reg_lt ..)
  unfold State.stageDown State.graceRestarted State.Holds
  split
  · refine ⟨by simp, ?_, State.setReg_reg_of_lt _ _ _ (by decide)⟩
    rw [State.setReg_reg_of_ne _ _ _ _ (by decide), State.setReg_reg_of_lt _ _ _ hdue]
  · exact ⟨by simp, State.setReg_reg_of_lt _ _ _ hdue, by simp [hst]⟩

theorem State.stageUp_reg : s.stageUp.Holds .iTH_TIMER 0 s.clock ∧ s.stageUp.reg .TH_STATE 0 = 2 ∧
    s.stageUp.reg .TH_STAGE_DUE 0 = min (s.reg .TH_STAGE_DUE 0 + 1) (s.reg .TH_STAGE_MAX 0) := by
  have hdue : min (s.reg .TH_STAGE_DUE 0 + 1) (s.reg .TH_STAGE_MAX 0) < 2 ^ Reg.width .TH_STAGE_DUE :=
    Nat.lt_of_le_of_lt (Nat.min_le_right _ _) (s.reg_lt .TH_STAGE_MAX 0)
  unfold State.stageUp State.graceRestarted State.Holds
  refine ⟨by simp, ?_, State.setReg_reg_of_lt _ _ _ hdue⟩
  rw [State.setReg_reg_of_ne _ _ _ _ (by decide)]
  exact State.setReg_reg_of_lt _ _ _ (by decide)

theorem thermalGraceExpire_completes :
    let st := s.reg .TH_STATE 0
    let due := s.reg .TH_STAGE_DUE 0
    if st = 0 ∨ s.reg .iPHASE 0 = 4 ∨ s.clock < s.reg .iTH_TIMER 0 + s.reg .TH_GRACE 0 * 1000000 then
      exec .thermalGraceExpire s = .next s
    else
      ∃ t, exec .thermalGraceExpire s = .next t ∧
        Touches (regs [.iTH_TIMER, .TH_STAGE_DUE, .TH_STATE]) s t ∧
        t.Holds .iTH_TIMER 0 s.clock ∧
        if st = 3 then t.reg .TH_STAGE_DUE 0 = due - 1 ∧ t.reg .TH_STATE 0 = (if due ≤ 1 then 0 else 3)
        else t.reg .TH_STATE 0 = 2 ∧ t.reg .TH_STAGE_DUE 0 = min (due + 1) (s.reg .TH_STAGE_MAX 0) := by
  refine completes_unless (execThermalGraceExpire_eq s) (execThermalGraceExpire_touches (by decide) (.refl _ s)) fun _ => ?_
  by_cases hst : s.reg .TH_STATE 0 = 3
  · simp only [if_pos hst]
    exact s.stageDown_reg hst
  · simp only [if_neg hst]
    exact s.stageUp_reg

end

section
variable (s : State) (v : Nat)

theorem State.stageMaxWrite_status : (s.stageMaxWrite v).status = s.status :=
  (State.stageMaxWrite_touches (W := State.stageMaxWrite_foot) (fun _ h => h) (.refl _ s)).fld .status (by decide)
    (by decide)

/-- TH_STAGE_MAX takes a value; a stage due above it falls to it (R437). -/
theorem State.stageMaxWrite_reg (hv : v < 2 ^ 8) : (s.stageMaxWrite v).reg .TH_STAGE_MAX 0 = v ∧
    (s.stageMaxWrite v).reg .TH_STAGE_DUE 0 = min v (s.reg .TH_STAGE_DUE 0) ∧
    (s.stageMaxWrite v).reg .TH_STATE 0 = if v = 0 ∧ 0 < s.reg .TH_STAGE_DUE 0 ∧ s.reg .TH_STATE 0 = 3 then 0
      else s.reg .TH_STATE 0 := by
  have hput (r : Reg) (h : Reg.TH_STAGE_MAX ≠ r) : (s.putReg .TH_STAGE_MAX 0 v).reg r 0 = s.reg r 0 :=
    (s.reg_putReg ..).trans (if_neg fun hr => h hr.1)
  have hmax : (s.putReg .TH_STAGE_MAX 0 v).reg .TH_STAGE_MAX 0 = v :=
    ((s.reg_putReg ..).trans (if_pos ⟨rfl, rfl⟩)).trans (Nat.mod_eq_of_lt hv)
  have hdue (t : State) : (t.setReg .TH_STAGE_DUE 0 v).reg .TH_STAGE_DUE 0 = v := State.setReg_reg_of_lt _ _ _ hv
  unfold State.stageMaxWrite
  dsimp only
  rw [hput .TH_STAGE_DUE (by decide)]
  by_cases hbelow : v < s.reg .TH_STAGE_DUE 0
  · rw [if_pos hbelow, Nat.min_eq_left (by omega)]
    have hshown (r : Reg) (h : Reg.TH_STAGE_DUE ≠ r) :
        ((s.putReg .TH_STAGE_MAX 0 v).setReg .TH_STAGE_DUE 0 v).reg r 0 = (s.putReg .TH_STAGE_MAX 0 v).reg r 0 :=
      State.setReg_reg_of_ne _ _ _ _ h
    rw [hshown .TH_STATE (by decide), hput .TH_STATE (by decide)]
    by_cases hends : v = 0 ∧ s.reg .TH_STATE 0 = 3
    · rw [if_pos hends, if_pos ⟨hends.1, by omega, hends.2⟩]
      exact ⟨(State.setReg_reg_of_ne _ _ _ _ (by decide)).trans ((hshown _ (by decide)).trans hmax),
        (State.setReg_reg_of_ne _ _ _ _ (by decide)).trans (hdue _), State.setReg_reg_of_lt _ _ _ (by decide)⟩
    · rw [if_neg hends, if_neg fun h => hends ⟨h.1, h.2.2⟩]
      exact ⟨(hshown _ (by decide)).trans hmax, hdue _, (hshown _ (by decide)).trans (hput .TH_STATE (by decide))⟩
  · rw [if_neg hbelow, Nat.min_eq_right (by omega), if_neg (by omega)]
    exact ⟨hmax, hput .TH_STAGE_DUE (by decide), hput .TH_STATE (by decide)⟩

end

theorem thStageMaxWrite_completes (acc : Accessor) (v : BitVec 8) (s : State)
    (hp : s.Passes acc .TH_STAGE_MAX 0 v.toNat) :
    ∃ t, exec (.thStageMaxWrite acc v) s = .next t ∧ Touches Changes.thStageMaxWrite s t ∧
      t.status = 0 ∧ t.reg .TH_STAGE_MAX 0 = v.toNat ∧
      t.reg .TH_STAGE_DUE 0 = min v.toNat (s.reg .TH_STAGE_DUE 0) ∧
      t.reg .TH_STATE 0 = if v.toNat = 0 ∧ 0 < s.reg .TH_STAGE_DUE 0 ∧ s.reg .TH_STATE 0 = 3 then 0
        else s.reg .TH_STATE 0 := by
  obtain ⟨hmax, hdue, hstate⟩ := (s.setStatus 0).stageMaxWrite_reg v.toNat v.isLt
  refine write_completes rfl hp (execThStageMaxWrite_touches (by decide) (.refl _ s)) ⟨?_, ?_, ?_, ?_⟩
  · rw [State.noteAccess_status, State.stageMaxWrite_status]
    rfl
  · rw [State.noteAccess_reg _ _ _ _ (by decide) (by decide), hmax]
  · rw [State.noteAccess_reg _ _ _ _ (by decide) (by decide), hdue]
    rfl
  · rw [State.noteAccess_reg _ _ _ _ (by decide) (by decide), hstate]
    rfl

/-! ## TH_SHUT and TH_RESTART (R439, R441) -/

section
variable (s : State) (r : Reg) (v : Nat)

theorem State.putTri_reg (q : Reg) (j : Nat) (hq : Part.reg q ∉ State.saveTri_foot) :
    (s.putTri r v).reg q j = if r = q ∧ 0 = j then v % 2 ^ r.width else s.reg q j :=
  ((State.saveTri_touches (fun _ h => h) (.refl _ (s.putReg r 0 v))).reg q j hq (by decide)).trans (s.reg_putReg ..)

theorem State.putTri_status : (s.putTri r v).status = s.status :=
  ((State.saveTri_touches (W := State.saveTri_foot) (fun _ h => h) (.refl _ (s.putReg r 0 v))).fld .status (by decide)
    (by decide)).trans (s.putReg_status ..)

end

/-- The parameter that a write of the shutdown thresholds names. -/
def shutReg (restart : Bool) : Reg := if restart then .TH_RESTART else .TH_SHUT

/-- The thresholds, in the dictionary and in the comparators, after a write of one of them. -/
theorem State.shutWrite_reg (s : State) (restart : Bool) {v : Nat} (hv : v < 2 ^ 16) :
    (s.shutWrite restart v).reg .TH_RESTART 0 = (if restart then v else s.reg .TH_RESTART 0) ∧
    (s.shutWrite restart v).reg .iCMP_RESTART 0 = (if restart then v else s.reg .iCMP_RESTART 0) ∧
    (s.shutWrite restart v).reg .TH_SHUT 0 = (if restart then s.reg .TH_SHUT 0 else v) ∧
    (s.shutWrite restart v).reg .iCMP_SHUT 0 = if restart then s.reg .iCMP_SHUT 0 else v := by
  have hput (r q : Reg) (hq : Part.reg q ∉ State.saveTri_foot) := s.putTri_reg r v q 0 hq
  unfold State.shutWrite
  cases restart with
  | true =>
    refine ⟨?_, State.setReg_reg_of_lt _ _ _ hv, ?_, ?_⟩
    · exact ((State.setReg_reg_of_ne _ _ _ _ (by decide)).trans (hput _ _ (by decide))).trans (Nat.mod_eq_of_lt hv)
    · exact (State.setReg_reg_of_ne _ _ _ _ (by decide)).trans (hput _ _ (by decide))
    · exact (State.setReg_reg_of_ne _ _ _ _ (by decide)).trans (hput _ _ (by decide))
  | false =>
    refine ⟨?_, ?_, ?_, State.setReg_reg_of_lt _ _ _ hv⟩
    · exact (State.setReg_reg_of_ne _ _ _ _ (by decide)).trans (hput _ _ (by decide))
    · exact (State.setReg_reg_of_ne _ _ _ _ (by decide)).trans (hput _ _ (by decide))
    · exact ((State.setReg_reg_of_ne _ _ _ _ (by decide)).trans (hput _ _ (by decide))).trans (Nat.mod_eq_of_lt hv)

theorem State.shutWrite_status (s : State) (restart : Bool) (v : Nat) : (s.shutWrite restart v).status = s.status := by
  cases restart
  · exact s.putTri_status .TH_SHUT v
  · exact s.putTri_status .TH_RESTART v

theorem thShutWrite_completes (acc : Accessor) (restart : Bool) (v : BitVec 16) (s : State)
    (hp : s.Passes acc (if restart then .TH_RESTART else .TH_SHUT) 0 v.toNat) :
    ∃ t, exec (.thShutWrite acc restart v) s = .next t ∧ Touches Changes.thShutWrite s t ∧
      t.status = 0 ∧
      t.reg .TH_RESTART 0 = (if restart then v.toNat else s.reg .TH_RESTART 0) ∧
      t.reg .iCMP_RESTART 0 = (if restart then v.toNat else s.reg .iCMP_RESTART 0) ∧
      t.reg .TH_SHUT 0 = (if restart then s.reg .TH_SHUT 0 else v.toNat) ∧
      t.reg .iCMP_SHUT 0 = if restart then s.reg .iCMP_SHUT 0 else v.toNat := by
  obtain ⟨hrestart, hcmpRestart, hshut, hcmpShut⟩ := (s.setStatus 0).shutWrite_reg restart v.isLt
  have hnote (r : Reg) (h : r ≠ .iACC_STATUS) (h' : r ≠ .iACC_ID) (id : Nat) :=
    State.noteAccess_reg ((s.setStatus 0).shutWrite restart v.toNat) acc id 0 h h'
  refine write_completes rfl hp (execThShutWrite_touches (by decide) (.refl _ s)) ⟨?_, ?_, ?_, ?_, ?_⟩
  · rw [State.noteAccess_status, State.shutWrite_status]
    rfl
  · exact (hnote _ (by decide) (by decide) _).trans hrestart
  · exact (hnote _ (by decide) (by decide) _).trans hcmpRestart
  · exact (hnote _ (by decide) (by decide) _).trans hshut
  · exact (hnote _ (by decide) (by decide) _).trans hcmpShut

/-! ## The shutdown (R439) -/

section
variable (s : State)

/-- A lane stops and is IDLE. -/
def State.idleLane (s : State) (surf p : Nat) : State := (s.haltLane surf p).setLane surf p laneIdle

/-- Every lane of a surface is IDLE. -/
def State.idleLanes (s : State) (surf : Nat) : State := forN 84 s fun u p => u.idleLane surf p

/-- Every PLL but PLL-NT runs on its bypass clock. -/
def State.bypassAllButNt : State := forN 7 s fun t k => if k = 5 then t else t.toBypass k

/-- The slots that the live lanes send as they go idle. -/
def State.idleOrders : List OutMsg :=
  (List.range 2).flatMap fun surf => ((List.range 84).filter fun p => s.lane surf p != laneIdle).map fun p =>
    OutMsg.slot surf p (List.replicate 4 (Welt.eie.control, Welt.eie.bits))

/-- The lanes are idle and the PLLs on bypass, before the firmware stops. -/
def State.clocksStopped : State := (forN 2 (s.send s.idleOrders) State.idleLanes).bypassAllButNt

/-- The firmware stops, with the shutdown to be reported. -/
def State.firmwareStopped : State :=
  ((((s.setReg .CK_THROTTLE_REQ 0 1).setReg .iG_RUN 0 0).setReg .iSHUT_OWED 0 1).setReg .iCMP_COOL 0 0).setReg .iPHASE 0 4

theorem execHardwareShutdown_eq : exec .hardwareShutdown s =
    if s.reg .iCMP_TRIP 0 = 0 ∨ s.reg .iPHASE 0 = 4 then .next s else .next s.clocksStopped.firmwareStopped := rfl

/-- A loop over the two surfaces. -/
theorem forN_two {α : Type} (a : α) (f : α → Nat → α) : forN 2 a f = f (f a 0) 1 := rfl

theorem State.clocksStopped_eq :
    s.clocksStopped = (((s.send s.idleOrders).idleLanes 0).idleLanes 1).bypassAllButNt := by
  rw [State.clocksStopped, forN_two]

theorem State.setLane_state (surf p st j : Nat) (hst : st < 2 ^ 8) : (s.setLane surf p st).reg .WL_LANE_STATE j =
    if laneIx surf p = j then st else s.reg .WL_LANE_STATE j := by
  unfold State.setLane
  rw [State.setReg_reg_of_ne _ _ _ _ (by decide), State.reg_setReg]
  exact if_congr (and_iff_right rfl) (Nat.mod_eq_of_lt hst) rfl

theorem State.idleLane_state (surf p j : Nat) : (s.idleLane surf p).reg .WL_LANE_STATE j =
    if laneIx surf p = j then laneIdle else s.reg .WL_LANE_STATE j := by
  have hhalt : (s.haltLane surf p).reg .WL_LANE_STATE j = s.reg .WL_LANE_STATE j :=
    (State.haltLane_frame s surf p).reg _ _ (by decide) (by decide)
  rw [State.idleLane, State.setLane_state _ _ _ _ _ (by decide), hhalt]

/-- A lane that is IDLE stays so while others go idle. -/
theorem State.idleLanes_keeps {surf j : Nat} (h : s.reg .WL_LANE_STATE j = laneIdle) :
    (s.idleLanes surf).reg .WL_LANE_STATE j = laneIdle :=
  forN_inv (P := fun t : State => t.reg .WL_LANE_STATE j = laneIdle) h fun t p ht =>
    (t.idleLane_state surf p j).trans (by rw [ht, ite_self])

theorem State.idleLanes_idle {surf p : Nat} (hp : p < 84) :
    (s.idleLanes surf).reg .WL_LANE_STATE (laneIx surf p) = laneIdle :=
  (State.forN_reg (ix := laneIx surf) (g := fun _ _ => laneIdle) (fun a b h => by unfold laneIx at h; omega)
    (fun t => t.idleLane_state surf) s 84 p).trans (if_pos hp)

theorem State.bypassAllButNt_frame : Touches State.toBypass_foot s s.bypassAllButNt :=
  forN_touches (.refl _ s) fun _ _ h => .ite h (State.toBypass_touches (fun _ hp => hp) h)

theorem State.bypassAllButNt_state {k : Nat} (hk : k < 7) :
    s.bypassAllButNt.reg .CK_STATE k = if k = 5 then s.reg .CK_STATE k else 0 := by
  refine State.forN_reg_each (g := fun k x => if k = 5 then x else 0) (fun t k j => ?_) s hk
  split
  · exact (ite_self _).symm
  · exact t.toBypass_state k j

theorem State.idleLanes_frame (surf : Nat) : Touches (State.haltLane_foot ++ State.setLane_foot) s (s.idleLanes surf) :=
  forN_touches (.refl _ s) fun _ _ h => State.setLane_touches (by decide) (State.haltLane_touches (by decide) h)

theorem State.clocksStopped_lane {j : Nat} (hj : j < 168) : s.clocksStopped.reg .WL_LANE_STATE j = laneIdle := by
  rw [State.clocksStopped_eq, (State.bypassAllButNt_frame _).reg _ _ (by decide) (by decide)]
  by_cases hfirst : j < 84
  · refine State.idleLanes_keeps _ ?_
    have hix : laneIx 0 j = j := by unfold laneIx; omega
    exact hix ▸ State.idleLanes_idle (s.send s.idleOrders) (surf := 0) hfirst
  · have hix : laneIx 1 (j - 84) = j := by unfold laneIx; omega
    exact hix ▸ State.idleLanes_idle ((s.send s.idleOrders).idleLanes 0) (surf := 1) (p := j - 84) (by omega)

theorem State.clocksStopped_pll {k : Nat} (hk : k < 7) :
    s.clocksStopped.reg .CK_STATE k = if k = 5 then s.reg .CK_STATE k else 0 := by
  rw [State.clocksStopped_eq, State.bypassAllButNt_state _ hk, (State.idleLanes_frame _ 1).reg _ _ (by decide) (by decide),
    (State.idleLanes_frame _ 0).reg _ _ (by decide) (by decide)]
  rfl

/-- The firmware that stops leaves the lanes and the PLLs. -/
theorem State.firmwareStopped_frame :
    Touches (Sys2Proof.Machine.regs [.CK_THROTTLE_REQ, .iG_RUN, .iSHUT_OWED, .iCMP_COOL, .iPHASE]) s s.firmwareStopped :=
  State.setReg_touches (by decide) (State.setReg_touches (by decide) (State.setReg_touches (by decide)
    (State.setReg_touches (by decide) (State.setReg_touches (by decide) (.refl _ s)))))

theorem State.firmwareStopped_reg : s.firmwareStopped.reg .iPHASE 0 = 4 ∧ s.firmwareStopped.reg .iG_RUN 0 = 0 ∧
    s.firmwareStopped.reg .CK_THROTTLE_REQ 0 = 1 := by
  have hone : 1 % 2 ^ Reg.width .CK_THROTTLE_REQ = 1 := rfl
  unfold State.firmwareStopped
  exact ⟨State.setReg_reg_of_lt _ _ _ (by decide), by simp, by simp [hone]⟩

theorem hardwareShutdown_completes :
    if s.reg .iCMP_TRIP 0 = 0 ∨ s.reg .iPHASE 0 = 4 then exec .hardwareShutdown s = .next s
    else
      ∃ t, exec .hardwareShutdown s = .next t ∧ Touches Changes.hardwareShutdown s t ∧
        t.reg .iPHASE 0 = 4 ∧ t.reg .iG_RUN 0 = 0 ∧ t.reg .CK_THROTTLE_REQ 0 = 1 ∧
        (∀ j, j < 168 → t.reg .WL_LANE_STATE j = laneIdle) ∧
        (∀ k, k < 7 → k ≠ 5 → t.reg .CK_STATE k = 0) ∧ t.reg .CK_STATE 5 = s.reg .CK_STATE 5 := by
  refine completes_unless (execHardwareShutdown_eq s) (execHardwareShutdown_touches (by decide) (.refl _ s)) fun _ => ?_
  obtain ⟨hphase, hrun, hthrottle⟩ := s.clocksStopped.firmwareStopped_reg
  have hframe := s.clocksStopped.firmwareStopped_frame
  refine ⟨hphase, hrun, hthrottle, fun j hj => ?_, fun k hk hne => ?_, ?_⟩
  · rw [hframe.reg _ _ (by decide) (by decide), s.clocksStopped_lane hj]
  · rw [hframe.reg _ _ (by decide) (by decide), s.clocksStopped_pll hk, if_neg hne]
  · rw [hframe.reg _ _ (by decide) (by decide), s.clocksStopped_pll (by decide), if_pos rfl]

end

/-- Settles O48: samples, stages, thresholds and the shutdown. -/
theorem thermalControl : Obligations.ThermalControl :=
  ⟨fun die diodes rails s => by
      obtain ⟨t, hc, hframe, ⟨hdie, hstacks, hjunction, hmeasured, htotal, hruns, htrip⟩, hconditions⟩ :=
        thermalSample_completes s die diodes rails
      exact ⟨t, hc, hframe, hdie, hstacks, hjunction, hmeasured, htotal, hruns, htrip, hconditions⟩,
    thermalGraceExpire_completes,
    thStageMaxWrite_completes, thShutWrite_completes, hardwareShutdown_completes⟩

end Sys2Proof.Machine
end

section
/-! TH_SHUT and TH_RESTART stay 10.0 °C apart (R441). -/
namespace Sys2Proof.Machine

/-- A check of R380 that fails has a code other than 0. -/
theorem writeFault_ne_zero {s : State} {acc : Accessor} {r : Reg} {i len v code : Nat} {g : Bool}
    (h : writeFault s acc r i len v g = some code) : code ≠ 0 := by
  unfold writeFault at h
  repeat' split at h
  all_goals cases h
  all_goals decide

/-- A write by ID of a parameter that is served comes to the checks of R380 on that parameter (R378). -/
theorem State.writeId_of_lookup {s : State} {acc : Accessor} {index sub : Nat} {data : List Byte} {r : Reg} {i : Nat}
    (hreach : s.reachable acc = true) (hserved : s.servedId index sub = true) (hlookup : lookupReg index sub = some (r, i))
    (hreset : r ≠ .SV_RESET) : s.writeId acc index sub data =
      writeAccess s acc r i data.length (leNat data) (s.inGroup acc) fun t => t.performWrite acc r i (leNat data) := by
  unfold State.writeId
  simp only [hreach, hserved, hlookup, Bool.not_true, Bool.false_eq_true, if_false]
  exact if_neg fun h => hreset h.1

/-- A write access that fails a check is answered with its code. -/
theorem writeAccess_of_fault {s : State} {acc : Accessor} {r : Reg} {i len v code : Nat} {g : Bool} {eff : State → State}
    (hreach : s.reachable acc = true) (hfault : writeFault s acc r i len v g = some code) :
    writeAccess s acc r i len v g eff = s.answered acc r i code := by
  unfold writeAccess
  rw [if_pos hreach, hfault]
  rfl

/-! ## The two thresholds -/

/-- Whether a write would bring the thresholds closer than 10.0 °C. -/
def State.breaksHysteresis (s : State) (restart : Bool) (v : Int) : Prop :=
  if restart then s.regInt .TH_SHUT 0 - 160 < v else v < s.regInt .TH_RESTART 0 + 160

/-- The names of the thresholds in the dictionary. -/
theorem lookupReg_shutReg (restart : Bool) :
    lookupReg (BitVec.ofNat 16 (regRow (shutReg restart)).index).toNat (BitVec.ofNat 8 (regRow (shutReg restart)).sub).toNat
      = some (shutReg restart, 0) := by
  cases restart <;> decide +kernel

theorem servedId_shutReg (restart : Bool) {s : State} (h : s.served (shutReg restart) = true) :
    s.servedId (BitVec.ofNat 16 (regRow (shutReg restart)).index).toNat
      (BitVec.ofNat 8 (regRow (shutReg restart)).sub).toNat = true := by
  have hindex : (highestSub (BitVec.ofNat 16 (regRow (shutReg restart)).index).toNat).isSome = true := by
    cases restart <;> decide +kernel
  have hrecovery : (!s.recovery || (BitVec.ofNat 16 (regRow (shutReg restart)).index).toNat == 0xF000) = true := by
    cases restart <;> exact h
  unfold State.servedId
  rw [lookupReg_shutReg, hindex, hrecovery]
  simp

section
variable {s : State} {acc : Accessor} {restart : Bool} (v : BitVec 16)

/-- The stated range of the thresholds keeps them apart. -/
theorem extraRangeOk_shutReg :
    extraRangeOk s (shutReg restart) 0 v.toNat = true ↔ ¬ s.breaksHysteresis restart v.toInt := by
  have hval : asInt 16 v.toNat = v.toInt := asInt_toNat v
  cases restart with
  | true =>
    show decide (asInt 16 v.toNat + 160 ≤ s.regInt .TH_SHUT 0) = true ↔ ¬ (s.regInt .TH_SHUT 0 - 160 < v.toInt)
    rw [hval, decide_eq_true_iff]
    omega
  | false =>
    show decide (s.regInt .TH_RESTART 0 + 160 ≤ asInt 16 v.toNat) = true ↔ ¬ (v.toInt < s.regInt .TH_RESTART 0 + 160)
    rw [hval, decide_eq_true_iff]
    omega

/-- A write that breaks the hysteresis fails the check of the range (R380, R441). -/
theorem writeFault_of_breaks (hserved : s.served (shutReg restart) = true)
    (hlevel : mayWrite (s.role acc) (regRow (shutReg restart)).level = true)
    (hbreaks : s.breaksHysteresis restart v.toInt) (g : Bool) :
    writeFault s acc (shutReg restart) 0 2 v.toNat g = some Code.odRange := by
  have hextra : extraRangeOk s (shutReg restart) 0 v.toNat = false :=
    Bool.eq_false_iff.2 fun h => (extraRangeOk_shutReg v).1 h hbreaks
  have hrange : rangeOk s (shutReg restart) 0 v.toNat = false := by
    unfold rangeOk
    rw [hextra, Bool.and_false]
  have hwidth : ¬ 2 * 8 ≠ (shutReg restart).width := by cases restart <;> decide
  rw [writeFault_of_writable _ _ _ _ hserved (by cases restart <;> decide) (by cases restart <;> decide), hlevel, hrange,
    if_neg (by decide), if_neg hwidth, if_pos (by decide)]

/-- A write that passes keeps the thresholds apart. -/
theorem not_breaks_of_passes (hp : s.Passes acc (shutReg restart) 0 v.toNat) (hserved : s.served (shutReg restart) = true)
    (hlevel : mayWrite (s.role acc) (regRow (shutReg restart)).level = true) : ¬ s.breaksHysteresis restart v.toInt := by
  intro hbreaks
  obtain ⟨-, hfault⟩ := hp
  have hlen : (shutReg restart).width / 8 = 2 := by cases restart <;> rfl
  rw [hlen, writeFault_of_breaks v hserved hlevel hbreaks] at hfault
  cases hfault

end

/-- Settles O17: the check of the range of either threshold is the distance from the other. -/
theorem shutdownHysteresis : Obligations.ShutdownHysteresis := by
  intro acc restart v s r breaks hreach hserved hlevel
  have hr : r = shutReg restart := rfl
  have hlen : r.width / 8 = 2 := by rw [hr]; cases restart <;> rfl
  refine ⟨fun hbreaks => ?_, fun t hc hstatus => ?_⟩
  · have hfault := writeFault_of_breaks (acc := acc) v hserved hlevel hbreaks
    refine ⟨?_, ?_, fun x => ⟨?_, ?_⟩⟩
    · exact congrArg Host.Outcome.next (writeAccess_of_fault hreach (hlen ▸ hfault false))
    · have hdata : leNat (leBytes 2 v.toNat) = v.toNat := (leNat_leBytes 2 _).trans (Nat.mod_eq_of_lt v.isLt)
      refine congrArg Host.Outcome.next ((State.writeId_of_lookup hreach (servedId_shutReg restart hserved)
        (lookupReg_shutReg restart) (by cases restart <;> decide)).trans ?_)
      rw [leBytes_length, hdata]
      exact writeAccess_of_fault hreach (hfault _)
    · exact (State.noteAccess_reg _ _ _ _ (by decide) (by decide)).trans rfl
    · exact (State.noteAccess_reg _ _ _ _ (by decide) (by decide)).trans rfl
  · cases hfault : writeFault s acc r 0 (r.width / 8) v.toNat false with
    | some code =>
      have hanswer : exec (.thShutWrite acc restart v) s = .next (s.answered acc r 0 code) :=
        congrArg Host.Outcome.next (writeAccess_of_fault hreach hfault)
      obtain rfl := Host.Outcome.next.inj (hc.symm.trans hanswer)
      exact absurd ((State.noteAccess_status ..).symm.trans hstatus) (writeFault_ne_zero hfault)
    | none =>
      have hapart := not_breaks_of_passes v ⟨hreach, hfault⟩ hserved hlevel
      obtain ⟨u, hu, -, -, hrestart, -, hshut, -⟩ := thShutWrite_completes acc restart v s ⟨hreach, hfault⟩
      obtain rfl := Host.Outcome.next.inj (hu.symm.trans hc)
      have hval : asInt 16 v.toNat = v.toInt := asInt_toNat v
      show asInt 16 (u.reg .TH_RESTART 0) + 160 ≤ asInt 16 (u.reg .TH_SHUT 0)
      rw [hrestart, hshut]
      cases restart with
      | true =>
        have hfar : ¬ s.regInt .TH_SHUT 0 - 160 < v.toInt := hapart
        show asInt 16 v.toNat + 160 ≤ s.regInt .TH_SHUT 0
        omega
      | false =>
        have hfar : ¬ v.toInt < s.regInt .TH_RESTART 0 + 160 := hapart
        show s.regInt .TH_RESTART 0 + 160 ≤ asInt 16 v.toNat
        omega

end Sys2Proof.Machine
end

section
/-! Fields of bits: what is read of a word after some of its bits are replaced. -/
namespace Sys2Proof.Machine

/-- Bits `lo` to `lo + n - 1` replaced, as a sum of what is above, of the new field and of what is below. -/
theorem withBits_eq {hi lo n : Nat} (h : hi + 1 = lo + n) (v x : Nat) :
    withBits v hi lo x = 2 ^ lo * (2 ^ n * (v / 2 ^ lo / 2 ^ n) + x % 2 ^ n) + v % 2 ^ lo := by
  have hwidth : hi + 1 - lo = n := by omega
  have hv : 2 ^ lo * (v / 2 ^ lo) + v % 2 ^ lo = v := Nat.div_add_mod ..
  have hq : 2 ^ n * (v / 2 ^ lo / 2 ^ n) + v / 2 ^ lo % 2 ^ n = v / 2 ^ lo := Nat.div_add_mod ..
  have hparts : 2 ^ lo * (2 ^ n * (v / 2 ^ lo / 2 ^ n)) + 2 ^ lo * (v / 2 ^ lo % 2 ^ n) + v % 2 ^ lo = v := by
    rw [← Nat.mul_add, hq, hv]
  simp only [withBits, bits, hwidth, Nat.shiftRight_eq_div_pow]
  rw [Nat.mul_add, Nat.mul_comm (_ % 2 ^ n), Nat.mul_comm (x % 2 ^ n)]
  omega

/-- Replacing bits replaces those alone. -/
theorem testBit_withBits {hi lo n : Nat} (h : hi + 1 = lo + n) (v x i : Nat) : (withBits v hi lo x).testBit i =
    if i < lo then v.testBit i else if i < lo + n then x.testBit (i - lo) else v.testBit i := by
  rw [withBits_eq h, Nat.testBit_two_pow_mul_add _ (Nat.mod_lt _ (Nat.two_pow_pos _))]
  split
  case isTrue hlow => rw [Nat.testBit_mod_two_pow, decide_eq_true hlow, Bool.true_and]
  case isFalse hlow =>
    rw [Nat.testBit_two_pow_mul_add _ (Nat.mod_lt _ (Nat.two_pow_pos _))]
    split
    case isTrue hin => rw [if_pos (by omega), Nat.testBit_mod_two_pow, decide_eq_true hin, Bool.true_and]
    case isFalse hin =>
      rw [if_neg (by omega), Nat.testBit_div_two_pow, Nat.testBit_div_two_pow]
      congr 1
      omega

theorem testBit_bits {hi lo n : Nat} (h : hi + 1 = lo + n) (v i : Nat) :
    (bits v hi lo).testBit i = (decide (i < n) && v.testBit (lo + i)) := by
  rw [bits, show hi + 1 - lo = n by omega, Nat.testBit_mod_two_pow, Nat.testBit_shiftRight]

/-- A field that is replaced reads as its new value. -/
theorem bits_withBits_self {hi lo n : Nat} (h : hi + 1 = lo + n) (v x : Nat) :
    bits (withBits v hi lo x) hi lo = x % 2 ^ n := by
  refine Nat.eq_of_testBit_eq fun i => ?_
  rw [testBit_bits h, testBit_withBits h, Nat.testBit_mod_two_pow, if_neg (by omega)]
  by_cases hi : i < n
  · rw [if_pos (by omega), Nat.add_sub_cancel_left]
  · simp [hi]

/-- A field apart from it stays. -/
theorem bits_withBits_of_apart {hi lo n hi' lo' n' : Nat} (h : hi + 1 = lo + n) (h' : hi' + 1 = lo' + n')
    (hapart : lo' + n' ≤ lo ∨ lo + n ≤ lo') (v x : Nat) : bits (withBits v hi lo x) hi' lo' = bits v hi' lo' := by
  refine Nat.eq_of_testBit_eq fun i => ?_
  rw [testBit_bits h', testBit_bits h', testBit_withBits h]
  by_cases hi : i < n'
  · split
    · rfl
    · rw [if_neg (by omega)]
  · simp [hi]

/-- A word cut to its width keeps the fields inside it. -/
theorem bits_mod {w hi lo n : Nat} (h : hi + 1 = lo + n) (hw : lo + n ≤ w) (v : Nat) :
    bits (v % 2 ^ w) hi lo = bits v hi lo := by
  refine Nat.eq_of_testBit_eq fun i => ?_
  rw [testBit_bits h, testBit_bits h, Nat.testBit_mod_two_pow]
  by_cases hi : i < n
  · rw [decide_eq_true (show lo + i < w by omega), Bool.true_and]
  · simp [hi]

theorem blobGet_eq_bits (v off n : Nat) : blobGet v off n = bits v (8 * (off + n) - 1) (8 * off) ∨ n = 0 := by
  rcases Nat.eq_zero_or_pos n with rfl | hn
  · exact .inr rfl
  · left
    rw [blobGet, bits, show 8 * (off + n) - 1 + 1 - 8 * off = 8 * n by omega]

section
variable (v x : Nat) {off n : Nat} (hn : 0 < n)
include hn

theorem blobGet_bits : blobGet v off n = bits v (8 * (off + n) - 1) (8 * off) :=
  (blobGet_eq_bits v off n).resolve_right (by omega)

/-- Bytes that are replaced read as their new value. -/
theorem blobGet_blobSet : blobGet (blobSet v off n x) off n = x % 2 ^ (8 * n) := by
  rw [blobGet_bits _ hn]
  exact bits_withBits_self (by omega) v x

/-- Bytes apart from them stay. -/
theorem blobGet_blobSet_of_apart {off' n' : Nat} (hn' : 0 < n') (hapart : off' + n' ≤ off ∨ off + n ≤ off') :
    blobGet (blobSet v off n x) off' n' = blobGet v off' n' := by
  rw [blobGet_bits _ hn', blobGet_bits _ hn']
  exact bits_withBits_of_apart (n := 8 * n) (n' := 8 * n') (by omega) (by omega) (by omega) v x

/-- A BLOB cut to its width keeps the bytes inside it. -/
theorem blobGet_of_mod {w : Nat} (hw : 8 * (off + n) ≤ w) : blobGet (v % 2 ^ w) off n = blobGet v off n := by
  rw [blobGet_bits _ hn, blobGet_bits _ hn]
  exact bits_mod (n := 8 * n) (by omega) (by omega) v

end

/-- A bit of a register at any index after one of its bits is written. -/
theorem State.setReg_bit_at (s : State) (r : Reg) {k i j : Nat} (hi : i < r.width) (on : Bool) :
    bit ((s.setReg r j (setBit (s.reg r j) k on)).reg r j) i = if k = i then on else bit (s.reg r j) i := by
  rw [State.setReg_reg_self, bit_mod hi, bit_setBit]

end Sys2Proof.Machine
end

section
/-! Seam loops (R473 to R476): the samples of the loops, the latch, and the seam cause. -/
namespace Sys2Proof.Machine

/-! ## The seam cause (R218, R475) -/

section
variable (s : State) (k : Nat)

/-- A cause is noted, before scan-out is forced (R218). -/
def State.causeNoted (cause : Nat) : State := s.setReg .SO_FORCED k (setBit (s.reg .SO_FORCED k) cause true)

/-- Beside noting the cause, forcing changes the state of scan-out and the record of the frame. -/
theorem State.force_frame (cause : Nat) :
    Touches ([.reg .SO_OUT_STATE] ++ State.setFrame_foot) (s.causeNoted k cause) (s.force k cause) :=
  .ite (.refl _ _) (State.setReg_touches (by decide) (.ite (State.setFrame_touches (by decide) (.refl _ _)) (.refl _ _)))

theorem State.force_bit (cause : Nat) (hc : cause < 8) : bit ((s.force k cause).reg .SO_FORCED k) cause = true := by
  rw [(s.force_frame k cause).reg _ _ (by decide) (by decide)]
  exact (s.setReg_bit_at .SO_FORCED hc true).trans (if_pos rfl)

theorem State.unforce_bit (cause : Nat) (hc : cause < 8) : bit ((s.unforce k cause).reg .SO_FORCED k) cause = false :=
  (s.setReg_bit_at .SO_FORCED hc false).trans (if_pos rfl)

/-- The seam cause reads the registers of the loops alone. -/
theorem State.seamCause_of_touches {s t : State} {V : List Part} (h : Touches V s t)
    (hV : ∀ r ∈ [Reg.SM_POLICY, .SM_LATCHED, .SM_ENABLE, .SM_STATE], Part.reg r ∉ V) (hany : Part.anyReg ∉ V) (k : Nat) :
    t.seamCause k = s.seamCause k := by
  unfold State.seamCause State.loopState
  rw [h.reg _ _ (hV .SM_POLICY (by decide)) hany, h.reg _ _ (hV .SM_LATCHED (by decide)) hany,
    h.reg _ _ (hV .SM_ENABLE (by decide)) hany, h.reg _ _ (hV .SM_STATE (by decide)) hany]

theorem State.seamPolicy_frame : Touches State.seamPolicy_foot s (s.seamPolicy k) :=
  State.seamPolicy_touches (fun _ h => h) (.refl _ s)

/-- SO_FORCED follows the seam cause (R475). -/
theorem State.seamPolicy_follows : bit ((s.seamPolicy k).reg .SO_FORCED k) 0 = (s.seamPolicy k).seamCause k := by
  rw [State.seamCause_of_touches (s.seamPolicy_frame k) (by decide) (by decide)]
  unfold State.seamPolicy
  split
  case isTrue h => exact h.symm
  case isFalse h =>
    split
    case isTrue hcause => exact (s.force_bit k 0 (by decide)).trans hcause.symm
    case isFalse hcause => exact (s.unforce_bit k 0 (by decide)).trans (Bool.eq_false_iff.2 hcause).symm

end

section
variable {s t : State} {l : List Reg} {k : Nat} (h : OnlyAt s t l k) (hl : Reg.SO_OUT_STATE ∉ l)
include h hl

theorem OnlyAt.force (cause : Nat) : OnlyAt s (t.force k cause) l k :=
  (h.setReg .SO_FORCED _ : OnlyAt s (t.causeNoted k cause) l k).touches (t.force_frame k cause)
    (fun r hr => by
      have hne : r ≠ .SO_OUT_STATE := fun heq => hl (heq ▸ hr)
      simpa [State.setFrame_foot] using hne) (by decide)

theorem OnlyAt.seamPolicy : OnlyAt s (t.seamPolicy k) l k :=
  .ite h (.ite (h.force hl 0) (h.setReg _ _))

end

/-! ## What is kept of a loop (R473, R474) -/

/-- What is kept of loop `n`: its state, the kind of its last sample, the run of that kind, and its resistance. -/
structure LoopView where
  state : Nat
  kind : Nat
  run : Nat
  ohms : Nat

def State.loopView (s : State) (k n : Nat) : LoopView :=
  ⟨s.loopState k n, s.reg .iSM_KIND (4 * k + n), s.reg .iSM_RUN (4 * k + n), blobGet (s.reg .SM_OHMS k) (4 * n) 4⟩

/-- What one sample of `ohms` makes of a loop, with the thresholds of its surface (R473, R474). -/
def LoopView.sampled (d : LoopView) (thresh debounce ohms : Nat) : LoopView :=
  let v := min 80000 ohms
  let kind := sampleKind thresh v
  let run := if kind = 0 then 0 else if kind = d.kind then min 1000 (d.run + 1) else 1
  ⟨if kind = 0 ∨ run < debounce then d.state else kind, kind, run, v⟩

theorem LoopView.sampled_eq {s t : State} {k n ohms : Nat}
    (h : t.loopView k n = (s.loopView k n).sampled (s.reg .SM_THRESH k) (s.reg .SM_DEBOUNCE k) ohms) :
    LoopSampled s t k n ohms := by
  obtain ⟨hstate, hkind, hrun, hohms⟩ := LoopView.mk.inj h
  exact ⟨hohms, hkind, hrun, hstate⟩

section
variable {s t : State} {V : List Part}

theorem Touches.loopView (h : Touches V s t) (hV : ∀ r ∈ [Reg.SM_STATE, .iSM_KIND, .iSM_RUN, .SM_OHMS], Part.reg r ∉ V)
    (hany : Part.anyReg ∉ V) (k n : Nat) : t.loopView k n = s.loopView k n := by
  unfold State.loopView State.loopState
  rw [h.reg _ _ (hV .SM_STATE (by decide)) hany, h.reg _ _ (hV .iSM_KIND (by decide)) hany,
    h.reg _ _ (hV .iSM_RUN (by decide)) hany, h.reg _ _ (hV .SM_OHMS (by decide)) hany]

end

section
variable (s : State) (k n : Nat)

theorem State.setLoop_state (st m : Nat) (hm : m < 4) (hst : st < 4) :
    (s.setLoop k n st).loopState k m = if n = m then st else s.loopState k m := by
  have hset : (s.setLoop k n st).loopState k m = bits (withBits (s.reg .SM_STATE k) (2 * n + 1) (2 * n) st) (2 * m + 1)
      (2 * m) := by
    unfold State.setLoop State.loopState
    rw [State.setReg_reg_self]
    exact bits_mod (n := 2) (by omega) (show _ ≤ 8 by omega) _
  rw [hset]
  by_cases h : n = m
  · subst h
    rw [bits_withBits_self (n := 2) (by omega), if_pos rfl]
    exact Nat.mod_eq_of_lt hst
  · rw [bits_withBits_of_apart (n := 2) (n' := 2) (by omega) (by omega) (by omega), if_neg h]
    rfl

/-- A loop enters a state; nothing else is changed of any loop. -/
theorem State.setLoop_view (st m : Nat) (hm : m < 4) (hst : st < 4) : (s.setLoop k n st).loopView k m =
    if n = m then { s.loopView k m with state := st } else s.loopView k m := by
  have hreg (q : Reg) (j : Nat) (h : Reg.SM_STATE ≠ q) : (s.setLoop k n st).reg q j = s.reg q j :=
    State.setReg_reg_of_ne _ _ _ _ h
  unfold State.loopView
  rw [s.setLoop_state k n st m hm hst, hreg _ _ (by decide), hreg _ _ (by decide), hreg _ _ (by decide)]
  split <;> rfl

/-- The sample is noted before the loop changes its state. -/
def State.sampleNoted (v kind run : Nat) : State :=
  ((s.setReg .SM_OHMS k (blobSet (s.reg .SM_OHMS k) (4 * n) 4 v)).setReg .iSM_KIND (4 * k + n) kind).setReg .iSM_RUN
    (4 * k + n) run

theorem State.sampleNoted_frame (v kind run : Nat) :
    Touches (Sys2Proof.Machine.regs [.SM_OHMS, .iSM_KIND, .iSM_RUN]) s (s.sampleNoted k n v kind run) :=
  State.setReg_touches (by decide) (State.setReg_touches (by decide) (State.setReg_touches (by decide) (.refl _ s)))

theorem State.sampleNoted_view {v kind run m : Nat} (hm : m < 4) (hv : v < 2 ^ 32) (hkind : kind < 2 ^ 8)
    (hrun : run < 2 ^ 16) : (s.sampleNoted k n v kind run).loopView k m =
      if n = m then ⟨s.loopState k m, kind, run, v⟩ else s.loopView k m := by
  have hohms : (s.sampleNoted k n v kind run).reg .SM_OHMS k = blobSet (s.reg .SM_OHMS k) (4 * n) 4 v % 2 ^ 128 := by
    unfold State.sampleNoted
    rw [State.setReg_reg_of_ne _ _ _ _ (by decide), State.setReg_reg_of_ne _ _ _ _ (by decide), State.setReg_reg_self]
    rfl
  have hkinds (x : Nat) : (s.sampleNoted k n v kind run).reg .iSM_KIND x =
      if 4 * k + n = x then kind else s.reg .iSM_KIND x := by
    unfold State.sampleNoted
    rw [State.setReg_reg_of_ne _ _ _ _ (by decide), State.reg_setReg, State.setReg_reg_of_ne _ _ _ _ (by decide)]
    exact if_congr (and_iff_right rfl) (Nat.mod_eq_of_lt hkind) rfl
  have hruns (x : Nat) : (s.sampleNoted k n v kind run).reg .iSM_RUN x =
      if 4 * k + n = x then run else s.reg .iSM_RUN x := by
    unfold State.sampleNoted
    rw [State.reg_setReg, State.setReg_reg_of_ne _ _ _ _ (by decide), State.setReg_reg_of_ne _ _ _ _ (by decide)]
    exact if_congr (and_iff_right rfl) (Nat.mod_eq_of_lt hrun) rfl
  have hstate : (s.sampleNoted k n v kind run).loopState k m = s.loopState k m := by
    unfold State.loopState
    rw [(s.sampleNoted_frame k n v kind run).reg _ _ (by decide) (by decide)]
  unfold State.loopView
  rw [hstate, hkinds, hruns, hohms, blobGet_of_mod _ (by decide) (by omega)]
  by_cases h : n = m
  · subst h
    rw [if_pos rfl, if_pos rfl, if_pos rfl, blobGet_blobSet _ _ (by decide)]
    exact congrArg _ (Nat.mod_eq_of_lt hv)
  · rw [if_neg h, if_neg (by omega), if_neg (by omega),
      blobGet_blobSet_of_apart _ _ (by decide) (by decide) (by omega)]

/-- What beside its state changes when a loop opens or closes. -/
theorem State.loopOpens_frame :
    Touches (Sys2Proof.Machine.regs [.SM_OPENS, .SM_LATCHED] ++ State.raise_foot) (s.setLoop k n 2) (s.loopOpens k n) :=
  State.raise_touches (by decide) (cond_touches (cond_touches (.refl _ _) fun _ h => State.setReg_touches (by decide) h)
    fun _ h => State.setReg_touches (by decide) h)

theorem State.loopCloses_frame : Touches State.raise_foot (s.setLoop k n 1) (s.loopCloses k n) :=
  cond_touches (.refl _ _) fun _ h => State.raise_touches (fun _ hp => hp) h

/-- A loop that opens latches under DARK with SM_LATCH 1 (R475). -/
theorem State.loopOpens_latched : (s.loopOpens k n).reg .SM_LATCHED k =
    if s.reg .SM_POLICY k = 1 ∧ s.reg .SM_LATCH k = 1 then 1 else s.reg .SM_LATCHED k := by
  have hbumped : ((s.setLoop k n 2).cond (s.loopState k n == 1) fun t => t.bump .SM_OPENS k).reg .SM_LATCHED k
      = s.reg .SM_LATCHED k := by
    rw [State.cond_bump_reg _ _ _ _ (by simp)]
    exact State.setReg_reg_of_ne _ _ _ _ (by decide)
  unfold State.loopOpens
  dsimp only
  rw [State.raise_reg _ _ _ _ _ (by decide) (by decide) (by decide), State.cond]
  simp only [Bool.and_eq_true, beq_iff_eq]
  split
  · exact State.setReg_reg_of_lt _ _ _ (by decide)
  · exact hbumped

end

end Sys2Proof.Machine
end

section
/-! The commands of the seam loops (R473 to R476). -/
namespace Sys2Proof.Machine

/-! ## One sample -/

theorem sampleKind_le (thresh ohms : Nat) : sampleKind thresh ohms ≤ 2 := by
  unfold sampleKind
  split
  · exact Nat.le_refl 2
  · split <;> decide

section
variable (s : State) (k n : Nat)

/-- A loop enters the state of its samples. -/
def State.loopTurns (kind : Nat) : State := if kind = 2 then s.loopOpens k n else s.loopCloses k n

/-- The loop's view after a sample, before its state follows. -/
def State.sampleTaken (ohms : Nat) : State :=
  s.sampleNoted k n (min 80000 ohms) ((s.loopView k n).sampled (s.reg .SM_THRESH k) (s.reg .SM_DEBOUNCE k) ohms).kind
    ((s.loopView k n).sampled (s.reg .SM_THRESH k) (s.reg .SM_DEBOUNCE k) ohms).run

theorem State.loopSample_eq (ohms : Nat) :
    let d := (s.loopView k n).sampled (s.reg .SM_THRESH k) (s.reg .SM_DEBOUNCE k) ohms
    s.loopSample k n ohms =
      if d.kind = 0 ∨ d.run < s.reg .SM_DEBOUNCE k ∨ s.loopState k n = d.kind then s.sampleTaken k n ohms
      else (s.sampleTaken k n ohms).loopTurns k n d.kind := rfl

theorem State.sampleTaken_frame (ohms : Nat) :
    Touches (Sys2Proof.Machine.regs [.SM_OHMS, .iSM_KIND, .iSM_RUN]) s (s.sampleTaken k n ohms) :=
  s.sampleNoted_frame k n _ _ _

theorem State.loopTurns_view {kind m : Nat} (hkind : kind = 1 ∨ kind = 2) (hm : m < 4) :
    (s.loopTurns k n kind).loopView k m = if n = m then { s.loopView k m with state := kind } else s.loopView k m := by
  obtain rfl | rfl := hkind
  · exact ((s.loopCloses_frame k n).loopView (by decide) (by decide) k m).trans
      (s.setLoop_view k n 1 m hm (by decide))
  · exact ((s.loopOpens_frame k n).loopView (by decide) (by decide) k m).trans
      (s.setLoop_view k n 2 m hm (by decide))

/-- A sample changes what is kept of its own loop alone (R473, R474). -/
theorem State.loopSample_view (ohms : Nat) {m : Nat} (hm : m < 4) : (s.loopSample k n ohms).loopView k m =
    if n = m then (s.loopView k m).sampled (s.reg .SM_THRESH k) (s.reg .SM_DEBOUNCE k) ohms else s.loopView k m := by
  have hkind : sampleKind (s.reg .SM_THRESH k) (min 80000 ohms) ≤ 2 := sampleKind_le ..
  have hrun : ((s.loopView k n).sampled (s.reg .SM_THRESH k) (s.reg .SM_DEBOUNCE k) ohms).run ≤ 1000 := by
    unfold LoopView.sampled
    dsimp only
    split
    · exact Nat.zero_le _
    · split
      · exact Nat.min_le_left ..
      · decide
  have htaken : (s.sampleTaken k n ohms).loopView k m = if n = m then
      { (s.loopView k n).sampled (s.reg .SM_THRESH k) (s.reg .SM_DEBOUNCE k) ohms with state := s.loopState k m }
      else s.loopView k m :=
    s.sampleNoted_view k n hm (Nat.lt_of_le_of_lt (Nat.min_le_left ..) (by decide))
      (Nat.lt_of_le_of_lt hkind (by decide)) (Nat.lt_of_le_of_lt hrun (by decide))
  have hstate : ((s.loopView k n).sampled (s.reg .SM_THRESH k) (s.reg .SM_DEBOUNCE k) ohms).state =
      if ((s.loopView k n).sampled (s.reg .SM_THRESH k) (s.reg .SM_DEBOUNCE k) ohms).kind = 0 ∨
        ((s.loopView k n).sampled (s.reg .SM_THRESH k) (s.reg .SM_DEBOUNCE k) ohms).run < s.reg .SM_DEBOUNCE k
      then s.loopState k n
      else ((s.loopView k n).sampled (s.reg .SM_THRESH k) (s.reg .SM_DEBOUNCE k) ohms).kind := rfl
  have hle : ((s.loopView k n).sampled (s.reg .SM_THRESH k) (s.reg .SM_DEBOUNCE k) ohms).kind ≤ 2 := hkind
  rw [State.loopSample_eq]
  by_cases h : n = m
  · subst h
    rw [if_pos rfl] at htaken ⊢
    generalize (s.loopView k n).sampled (s.reg .SM_THRESH k) (s.reg .SM_DEBOUNCE k) ohms = d at htaken hstate hle ⊢
    split
    case isTrue hstays =>
      have hsame : d.state = s.loopState k n := by
        rw [hstate]
        split
        · rfl
        · tauto
      rw [htaken, ← hsame]
    case isFalse hturns =>
      rw [State.loopTurns_view _ _ _ (by omega) hm, if_pos rfl, htaken]
      rw [if_neg (by tauto)] at hstate
      rw [← hstate]
  · rw [if_neg h] at htaken ⊢
    split
    case isTrue => exact htaken
    case isFalse hturns => rw [State.loopTurns_view _ _ _ (by omega) hm, if_neg h, htaken]

/-- The thresholds and the enables stay while a loop is sampled. -/
theorem State.loopSample_frame (ohms : Nat) : Touches State.loopSample_foot s (s.loopSample k n ohms) :=
  State.loopSample_touches (fun _ h => h) (.refl _ s)

/-- The latch follows a loop that this sample opens (R475). -/
theorem State.loopSample_latched (ohms : Nat) (hn : n < 4) : (s.loopSample k n ohms).reg .SM_LATCHED k =
    if s.reg .SM_POLICY k = 1 ∧ s.reg .SM_LATCH k = 1 ∧
      ((s.loopSample k n ohms).loopState k n = 2 ∧ s.loopState k n ≠ 2) then 1 else s.reg .SM_LATCHED k := by
  have hframe := s.sampleTaken_frame k n ohms
  have htaken : (s.sampleTaken k n ohms).loopState k n = s.loopState k n :=
    congrArg (bits · _ _) (hframe.reg _ _ (by decide) (by decide))
  have hlatched : (s.sampleTaken k n ohms).reg .SM_LATCHED k = s.reg .SM_LATCHED k := hframe.reg _ _ (by decide) (by decide)
  have hle : ((s.loopView k n).sampled (s.reg .SM_THRESH k) (s.reg .SM_DEBOUNCE k) ohms).kind ≤ 2 := sampleKind_le ..
  rw [State.loopSample_eq]
  generalize (s.loopView k n).sampled (s.reg .SM_THRESH k) (s.reg .SM_DEBOUNCE k) ohms = d at hle ⊢
  split
  case isTrue => rw [hlatched, htaken, if_neg fun h => h.2.2.2 h.2.2.1]
  case isFalse hturns =>
    have hturned (kind : Nat) (hkind : kind = 1 ∨ kind = 2) :
        ((s.sampleTaken k n ohms).loopTurns k n kind).loopState k n = kind :=
      congrArg LoopView.state ((State.loopTurns_view _ k n hkind hn).trans (if_pos rfl))
    have hwas : s.loopState k n ≠ d.kind := fun h => hturns (.inr (.inr h))
    obtain hkind | hkind : d.kind = 1 ∨ d.kind = 2 := by omega
    · rw [hkind, hturned 1 (.inl rfl), if_neg fun h => absurd h.2.2.1 (by decide)]
      exact ((State.loopCloses_frame _ k n).reg _ _ (by decide) (by decide)).trans
        ((State.setReg_reg_of_ne _ _ _ _ (by decide)).trans hlatched)
    · rw [hkind] at hwas
      have hopens : (s.sampleTaken k n ohms).loopTurns k n 2 = (s.sampleTaken k n ohms).loopOpens k n := if_pos rfl
      have hopened := hturned 2 (.inr rfl)
      have hlatch := State.loopOpens_latched (s.sampleTaken k n ohms) k n
      rw [hopens] at hopened
      rw [hlatched, hframe.reg .SM_POLICY k (by decide) (by decide), hframe.reg .SM_LATCH k (by decide) (by decide)]
        at hlatch
      rw [hkind, hopens, hlatch]
      exact if_congr ⟨fun h => ⟨h.1, h.2, hopened, hwas⟩, fun h => ⟨h.1, h.2.1⟩⟩ rfl rfl

end

/-- What a sample changes of other registers than those of its surface. -/
def sampleSide : List Part := regs [.iSM_KIND, .iSM_RUN] ++ State.raise_foot

section
variable {s t : State} {l : List Reg} {k : Nat} (h : OnlyAt s t l k) (hl : ∀ r ∈ l, Part.reg r ∉ sampleSide)
include h hl

theorem OnlyAt.raise (code : Nat) (args : List (Nat × Nat)) : OnlyAt s (t.raise code none args) l k :=
  h.touches (V := sampleSide) (State.raise_touches (by decide) (.refl _ t)) hl (by decide)

theorem OnlyAt.sampleTaken (n ohms : Nat) : OnlyAt s (t.sampleTaken k n ohms) l k :=
  (h.setReg .SM_OHMS _).touches (V := sampleSide)
    (State.setReg_touches (by decide) (State.setReg_touches (by decide) (.refl _ _))) hl (by decide)

theorem OnlyAt.loopTurns (n kind : Nat) : OnlyAt s (t.loopTurns k n kind) l k := by
  have hset (st : Nat) : OnlyAt s (t.setLoop k n st) l k := h.setReg .SM_STATE _
  refine .ite ?_ (.ite (OnlyAt.raise (hset 1) hl _ _) (hset 1))
  refine OnlyAt.raise ?_ hl _ _
  have hcounted : OnlyAt s ((t.setLoop k n 2).cond (t.loopState k n == 1) fun u => u.bump .SM_OPENS k) l k :=
    .ite ((hset 2).bump _) (hset 2)
  exact .ite (hcounted.setReg .SM_LATCHED 1) hcounted

theorem OnlyAt.loopSample (n ohms : Nat) : OnlyAt s (t.loopSample k n ohms) l k := by
  rw [State.loopSample_eq]
  exact .ite (h.sampleTaken hl n ohms) ((h.sampleTaken hl n ohms).loopTurns hl n _)

end

/-! ## A sample of every loop of a surface -/

/-- A loop that is enabled and in the list is sampled. -/
def State.sampleListed (k : Nat) (ohms : List Nat) (en : Nat) (t : State) (n : Nat) : State :=
  if en.testBit n then (match ohms[n]? with | some v => t.loopSample k n v | none => t) else t

section
variable (s : State) (k : Nat) (ohms : List Nat)

/-- Every enabled loop of the list is sampled. -/
def State.allSampled : State := forN 4 s (State.sampleListed k ohms (s.reg .SM_ENABLE k))

theorem execSeamLoopSample_eq (surf : Surface) : exec (.seamLoopSample surf ohms) s =
    .next ((s.allSampled surf.val ohms).seamPolicy surf.val) := by
  have hloop : (setBits 4 (s.reg .SM_ENABLE surf.val)).foldl (fun t n => match ohms[n]? with
      | some v => t.loopSample surf.val n v
      | none => t) s = s.allSampled surf.val ohms := List.foldl_filter ..
  exact congrArg (fun t : State => Host.Outcome.next (t.seamPolicy surf.val)) hloop

/-- What a sample of the list makes of a loop's view. -/
def LoopView.listed (thresh debounce en : Nat) (ohms : List Nat) (n : Nat) (d : LoopView) : LoopView :=
  if en.testBit n then (match ohms[n]? with | some v => d.sampled thresh debounce v | none => d) else d

/-- The registers that set how the loops of a surface are sampled. -/
def State.SameLimits (s t : State) : Prop :=
  ∀ r ∈ [Reg.SM_THRESH, .SM_DEBOUNCE, .SM_POLICY, .SM_LATCH], t.reg r k = s.reg r k

variable {s k} in
theorem State.SameLimits.sampleListed {t : State} (h : s.SameLimits k t) (en n : Nat) :
    s.SameLimits k (t.sampleListed k ohms en n) := by
  intro r hr
  unfold State.sampleListed
  split
  · split
    · refine ((t.loopSample_frame k n _).reg r k ?_ (by decide)).trans (h r hr)
      simp only [List.mem_cons, List.not_mem_nil, or_false] at hr
      obtain rfl | rfl | rfl | rfl := hr <;> decide
    · exact h r hr
  · exact h r hr

theorem State.sampleListed_view (t : State) (h : s.SameLimits k t) (en n : Nat) {m : Nat} (hm : m < 4) :
    (t.sampleListed k ohms en n).loopView k m = if n = m then
      LoopView.listed (s.reg .SM_THRESH k) (s.reg .SM_DEBOUNCE k) en ohms n (t.loopView k m) else t.loopView k m := by
  unfold State.sampleListed LoopView.listed
  split
  · split
    · rw [t.loopSample_view k n _ hm, h .SM_THRESH (by decide), h .SM_DEBOUNCE (by decide)]
    · exact (ite_self _).symm
  · exact (ite_self _).symm

theorem State.forN_sameLimits (en m : Nat) : s.SameLimits k (forN m s (State.sampleListed k ohms en)) :=
  forN_inv (P := s.SameLimits k) (fun _ _ => rfl) fun _ n h => h.sampleListed ohms en n

/-- The view of a loop after the first `m` loops have been sampled. -/
theorem State.forN_listed_view (en m : Nat) {n : Nat} (hn : n < 4) :
    (forN m s (State.sampleListed k ohms en)).loopView k n = if n < m then
      LoopView.listed (s.reg .SM_THRESH k) (s.reg .SM_DEBOUNCE k) en ohms n (s.loopView k n) else s.loopView k n := by
  induction m with
  | zero => rfl
  | succ m ih =>
    rw [forN_succ, State.sampleListed_view s k ohms _ (s.forN_sameLimits k ohms en m) en m hn, ih]
    by_cases h : m = n
    · subst h
      rw [if_pos rfl, if_neg (Nat.lt_irrefl _), if_pos (Nat.lt_succ_self _)]
    · rw [if_neg h]
      exact if_congr (by omega) rfl rfl

/-- Whether loop `n` opens with its sample. -/
def State.opensListed (en n : Nat) : Bool :=
  (LoopView.listed (s.reg .SM_THRESH k) (s.reg .SM_DEBOUNCE k) en ohms n (s.loopView k n)).state == 2
    && s.loopState k n != 2

/-- One loop of the list latches where it opens. -/
theorem State.sampleListed_latched (t : State) (h : s.SameLimits k t) (en n : Nat) (hn : n < 4)
    (hview : t.loopView k n = s.loopView k n) : (t.sampleListed k ohms en n).reg .SM_LATCHED k =
      if s.reg .SM_POLICY k = 1 ∧ s.reg .SM_LATCH k = 1 ∧ s.opensListed k ohms en n = true then 1
      else t.reg .SM_LATCHED k := by
  have hstate : t.loopState k n = s.loopState k n := congrArg LoopView.state hview
  have hafter : (t.sampleListed k ohms en n).loopState k n =
      (LoopView.listed (s.reg .SM_THRESH k) (s.reg .SM_DEBOUNCE k) en ohms n (s.loopView k n)).state := by
    rw [← hview]
    exact congrArg LoopView.state ((State.sampleListed_view s k ohms t h en n hn).trans (if_pos rfl))
  unfold State.opensListed
  rw [← hafter]
  unfold State.sampleListed
  split
  · split
    · rw [t.loopSample_latched k n _ hn, h .SM_POLICY (by decide), h .SM_LATCH (by decide), hstate]
      exact if_congr (by simp) rfl rfl
    · rw [hstate]
      simp
  · rw [hstate]
    simp

theorem State.forN_listed_latched (en m : Nat) (hm : m ≤ 4) :
    (forN m s (State.sampleListed k ohms en)).reg .SM_LATCHED k =
      if s.reg .SM_POLICY k = 1 ∧ s.reg .SM_LATCH k = 1 ∧ (List.range m).any (s.opensListed k ohms en) = true then 1
      else s.reg .SM_LATCHED k := by
  induction m with
  | zero => simp [forN]
  | succ m ih =>
    have hview : (forN m s (State.sampleListed k ohms en)).loopView k m = s.loopView k m :=
      (s.forN_listed_view k ohms en m (by omega)).trans (if_neg (Nat.lt_irrefl m))
    rw [forN_succ, State.sampleListed_latched s k ohms _ (s.forN_sameLimits k ohms en m) en m (by omega) hview,
      ih (by omega), List.range_succ, List.any_append]
    simp only [List.any_cons, List.any_nil, Bool.or_false, Bool.or_eq_true]
    split
    case isTrue h => rw [if_pos ⟨h.1, h.2.1, .inr h.2.2⟩]
    case isFalse h =>
      refine if_congr (and_congr_right fun hp => and_congr_right fun hl => ?_) rfl rfl
      exact ⟨.inl, fun hor => hor.resolve_right fun hopens => h ⟨hp, hl, hopens⟩⟩

theorem OnlyAt.allSampled (l : List Reg) (hl : ∀ r ∈ l, Part.reg r ∉ sampleSide) :
    OnlyAt s (s.allSampled k ohms) l k :=
  forN_inv (P := fun t => OnlyAt s t l k) (.refl s l k) fun t n h => .ite
    (by
      split
      · exact h.loopSample hl n _
      · exact h) h

end

theorem seamLoopSample_completes (surf : Surface) (ohms : List Nat) (s : State) :
    let k := surf.val
    ∃ t, exec (.seamLoopSample surf ohms) s = .next t ∧ Touches Changes.seamLoopSample s t ∧
      (∀ n, n < 4 → match ohms[n]? with
        | none => t.loopState k n = s.loopState k n
        | some v => if bit (s.reg .SM_ENABLE k) n = true then LoopSampled s t k n v
          else t.loopState k n = s.loopState k n) ∧
      t.reg .SM_LATCHED k = (if s.reg .SM_POLICY k = 1 ∧ s.reg .SM_LATCH k = 1 ∧
        (List.range 4).any (fun n => t.loopState k n == 2 && s.loopState k n != 2) = true then 1
        else s.reg .SM_LATCHED k) ∧
      bit (t.reg .SO_FORCED k) 0 = t.seamCause k ∧ OnlyAt s t [.SM_STATE, .SM_OHMS, .SM_LATCHED, .SO_FORCED] k := by
  intro k
  have hpolicy := (s.allSampled k ohms).seamPolicy_frame k
  have hview (n : Nat) (hn : n < 4) : ((s.allSampled k ohms).seamPolicy k).loopView k n =
      LoopView.listed (s.reg .SM_THRESH k) (s.reg .SM_DEBOUNCE k) (s.reg .SM_ENABLE k) ohms n (s.loopView k n) :=
    (hpolicy.loopView (by decide) (by decide) k n).trans ((s.forN_listed_view k ohms _ 4 hn).trans (if_pos hn))
  refine completes_of_next (execSeamLoopSample_eq s ohms surf) (execSeamLoopSample_touches (by decide) (.refl _ s))
    ⟨fun n hn => ?_, ?_, State.seamPolicy_follows _ k,
      (OnlyAt.allSampled s k ohms _ (by decide)).seamPolicy (by decide)⟩
  · have hsampled := hview n hn
    unfold LoopView.listed at hsampled
    split
    case h_1 hnone =>
      rw [hnone, ite_self] at hsampled
      exact congrArg LoopView.state hsampled
    case h_2 v hsome =>
      rw [hsome] at hsampled
      by_cases hen : bit (s.reg .SM_ENABLE k) n = true
      · rw [if_pos hen]
        exact LoopView.sampled_eq (hsampled.trans (if_pos hen))
      · rw [if_neg hen]
        exact congrArg LoopView.state (hsampled.trans (if_neg hen))
  · rw [hpolicy.reg .SM_LATCHED k (by decide) (by decide)]
    refine (s.forN_listed_latched k ohms (s.reg .SM_ENABLE k) 4 (Nat.le_refl 4)).trans (if_congr ?_ rfl rfl)
    have hopens (n : Nat) (hn : n ∈ List.range 4) : s.opensListed k ohms (s.reg .SM_ENABLE k) n =
        (((s.allSampled k ohms).seamPolicy k).loopState k n == 2 && s.loopState k n != 2) := by
      unfold State.opensListed
      rw [← hview n (List.mem_range.1 hn)]
      rfl
    rw [List.any_eq_true, List.any_eq_true]
    exact and_congr_right fun _ => and_congr_right fun _ => exists_congr fun n => and_congr_right fun hn => by
      rw [hopens n hn]

/-! ## Writes (R475, R476) -/

section
variable (s : State) (k : Nat)

/-- The latch is cleared, before the seam cause follows (R475). -/
theorem State.seamClear_eq : s.seamClear k =
    if (setBits 4 (s.reg .SM_ENABLE k)).all (fun n => s.loopState k n == 1) = true then
      (s.setReg .SM_LATCHED k 0).seamPolicy k else s := rfl

theorem State.seamPolicy_status : (s.seamPolicy k).status = s.status :=
  (s.seamPolicy_frame k).fld .status (by decide) (by decide)

end

/-- What the seam policy leaves after a write, for the accessor that made it. -/
theorem seamPolicy_noted (t : State) (k : Nat) (acc : Accessor) (id : Nat) :
    bit (((t.seamPolicy k).noteAccess acc id).reg .SO_FORCED k) 0 = ((t.seamPolicy k).noteAccess acc id).seamCause k := by
  have hnote : Touches State.noteAccess_foot (t.seamPolicy k) ((t.seamPolicy k).noteAccess acc id) :=
    State.noteAccess_touches (fun _ h => h) (.refl _ _)
  rw [hnote.reg _ _ (by decide) (by decide), State.seamCause_of_touches hnote (by decide) (by decide),
    State.seamPolicy_follows]

theorem smClear_completes (acc : Accessor) (surf : Surface) (s : State) (hp : s.Passes acc .SM_CLEAR surf.val 1) :
    let k := surf.val
    if (setBits 4 (s.reg .SM_ENABLE k)).all (fun n => s.loopState k n == 1) = true then
      ∃ t, exec (.smClear acc surf) s = .next t ∧ Touches Changes.smClear s t ∧
        t.status = 0 ∧ t.reg .SM_LATCHED k = 0 ∧ bit (t.reg .SO_FORCED k) 0 = t.seamCause k ∧
        OnlyAt s t [.SM_LATCHED, .SO_FORCED] k
    else exec (.smClear acc surf) s = .next (s.answered acc .SM_CLEAR k 0) := by
  intro k
  have hclear : (s.setStatus 0).seamClear k =
      if (setBits 4 (s.reg .SM_ENABLE k)).all (fun n => s.loopState k n == 1) = true then
        ((s.setStatus 0).setReg .SM_LATCHED k 0).seamPolicy k else s.setStatus 0 := rfl
  split
  case isTrue h =>
    refine write_completes rfl hp (execSmClear_touches (by decide) (.refl _ s)) ?_
    rw [hclear, if_pos h]
    refine ⟨?_, ?_, seamPolicy_noted _ k acc _, ?_⟩
    · rw [State.noteAccess_status, State.seamPolicy_status]
      rfl
    · rw [State.noteAccess_reg _ _ _ _ (by decide) (by decide), (State.seamPolicy_frame _ k).reg _ _ (by decide) (by decide)]
      exact State.setReg_reg_of_lt _ _ _ (by decide)
    · exact (((OnlyAt.refl (s.setStatus 0) _ k).setReg .SM_LATCHED 0).seamPolicy (by decide)).noteAccess (by decide)
        (by decide) _ _
  case isFalse h =>
    exact write_refused (code := 0) rfl hp (hclear.trans (if_neg h))

section
variable (s : State) (k v : Nat)

/-- Whether an enabled loop is OPEN. -/
def State.loopIsOpen : Bool := (setBits 4 (s.reg .SM_ENABLE k)).any fun n => s.loopState k n == 2

/-- The policy takes its value, and the latch follows (R475, R476). -/
def State.policySet : State :=
  if v = 0 then (s.putReg .SM_POLICY k v).setReg .SM_LATCHED k 0
  else (s.putReg .SM_POLICY k v).cond (s.loopIsOpen k && s.reg .SM_LATCH k == 1) fun t => t.setReg .SM_LATCHED k 1

theorem State.seamPolicyWrite_eq : s.seamPolicyWrite k v = (s.policySet k v).seamPolicy k := by
  have hlatch : (s.putReg .SM_POLICY k v).reg .SM_LATCH k = s.reg .SM_LATCH k := by simp [State.reg_putReg]
  rfl

theorem State.policySet_frame :
    Touches (Sys2Proof.Machine.regs [.SM_LATCHED]) (s.putReg .SM_POLICY k v) (s.policySet k v) :=
  .ite (State.setReg_touches (by decide) (.refl _ _))
    (cond_touches (.refl _ _) fun _ h => State.setReg_touches (by decide) h)

theorem State.policySet_latched : (s.policySet k v).reg .SM_LATCHED k =
    if v = 0 then 0 else if s.loopIsOpen k = true ∧ s.reg .SM_LATCH k = 1 then 1 else s.reg .SM_LATCHED k := by
  unfold State.policySet State.cond
  simp only [Bool.and_eq_true, beq_iff_eq]
  split
  · exact State.setReg_reg_of_lt _ _ _ (by decide)
  · split
    · exact State.setReg_reg_of_lt _ _ _ (by decide)
    · exact (s.reg_putReg ..).trans (if_neg (by simp))

theorem State.policySet_onlyAt (l : List Reg) : OnlyAt s (s.policySet k v) l k :=
  .ite (((OnlyAt.refl s l k).putReg .SM_POLICY v).setReg .SM_LATCHED 0)
    (.ite (((OnlyAt.refl s l k).putReg .SM_POLICY v).setReg .SM_LATCHED 1) ((OnlyAt.refl s l k).putReg .SM_POLICY v))

end

theorem smPolicyWrite_completes (acc : Accessor) (surf : Surface) (v : BitVec 8) (s : State)
    (hp : s.Passes acc .SM_POLICY surf.val v.toNat) :
    let k := surf.val
    let opened := (setBits 4 (s.reg .SM_ENABLE k)).any (fun n => s.loopState k n == 2)
    ∃ t, exec (.smPolicyWrite acc surf v) s = .next t ∧ Touches Changes.smPolicyWrite s t ∧
      t.status = 0 ∧ t.reg .SM_POLICY k = v.toNat ∧
      t.reg .SM_LATCHED k = (if v.toNat = 0 then 0 else if opened = true ∧ s.reg .SM_LATCH k = 1 then 1
        else s.reg .SM_LATCHED k) ∧
      bit (t.reg .SO_FORCED k) 0 = t.seamCause k ∧ OnlyAt s t [.SM_POLICY, .SM_LATCHED, .SO_FORCED] k := by
  intro k opened
  have hlatched := (s.setStatus 0).policySet_latched k v.toNat
  have hset : ((s.setStatus 0).policySet k v.toNat).reg .SM_POLICY k = v.toNat := by
    rw [((s.setStatus 0).policySet_frame k v.toNat).reg _ _ (by decide) (by decide), State.reg_putReg, if_pos ⟨rfl, rfl⟩]
    exact Nat.mod_eq_of_lt v.isLt
  refine write_completes rfl hp (execSmPolicyWrite_touches (by decide) (.refl _ s)) ?_
  rw [State.seamPolicyWrite_eq]
  refine ⟨?_, ?_, ?_, seamPolicy_noted _ k acc _, ?_⟩
  · rw [State.noteAccess_status, State.seamPolicy_status,
      ((s.setStatus 0).policySet_frame k v.toNat).fld .status (by decide) (by decide), State.putReg_status]
    rfl
  · rw [State.noteAccess_reg _ _ _ _ (by decide) (by decide), (State.seamPolicy_frame _ k).reg _ _ (by decide) (by decide),
      hset]
  · rw [State.noteAccess_reg _ _ _ _ (by decide) (by decide), (State.seamPolicy_frame _ k).reg _ _ (by decide) (by decide)]
    exact hlatched
  · exact (((s.setStatus 0).policySet_onlyAt k v.toNat _).seamPolicy (by decide)).noteAccess (by decide) (by decide) _ _

section
variable (s : State) (k old new : Nat)

/-- A loop that is not to stay as it is has no run and reads UNKNOWN (R474, R476). -/
def State.resetLoop (t : State) (n : Nat) : State :=
  if bit old n && bit new n then t
  else ((t.setLoop k n 0).setReg .iSM_KIND (4 * k + n) 0).setReg .iSM_RUN (4 * k + n) 0

theorem State.resetLoops_eq : s.resetLoops k old new = forN 4 s (State.resetLoop k old new) := rfl

theorem State.resetLoop_state (t : State) (n : Nat) {m : Nat} (hm : m < 4) : (State.resetLoop k old new t n).loopState k m =
    if n = m then (if bit old n = true ∧ bit new n = true then t.loopState k m else 0) else t.loopState k m := by
  have hcleared : ((((t.setLoop k n 0).setReg .iSM_KIND (4 * k + n) 0).setReg .iSM_RUN (4 * k + n) 0)).loopState k m =
      if n = m then 0 else t.loopState k m := by
    refine Eq.trans ?_ (t.setLoop_state k n 0 m hm (by decide))
    unfold State.loopState
    rw [State.setReg_reg_of_ne _ _ _ _ (by decide), State.setReg_reg_of_ne _ _ _ _ (by decide)]
  unfold State.resetLoop
  by_cases hkeep : bit old n = true ∧ bit new n = true
  · rw [if_pos (by simp [hkeep]), if_pos hkeep, ite_self]
  · rw [if_neg (by simpa using hkeep), if_neg hkeep, hcleared]

theorem State.resetLoops_state {n : Nat} (hn : n < 4) : (s.resetLoops k old new).loopState k n =
    if bit old n = true ∧ bit new n = true then s.loopState k n else 0 := by
  have hpass (m : Nat) : (forN m s (State.resetLoop k old new)).loopState k n = if n < m then
      (if bit old n = true ∧ bit new n = true then s.loopState k n else 0) else s.loopState k n := by
    induction m with
    | zero => rfl
    | succ m ih =>
      rw [forN_succ, State.resetLoop_state _ _ _ _ _ hn, ih]
      by_cases h : m = n
      · subst h
        rw [if_pos rfl, if_neg (Nat.lt_irrefl _), if_pos (Nat.lt_succ_self _)]
      · rw [if_neg h]
        exact if_congr (by omega) rfl rfl
  exact (hpass 4).trans (if_pos hn)

theorem State.resetLoops_frame :
    Touches (Sys2Proof.Machine.regs [.SM_STATE, .iSM_KIND, .iSM_RUN]) s (s.resetLoops k old new) :=
  forN_touches (.refl _ s) fun _ _ h => .ite h (State.setReg_touches (by decide) (State.setReg_touches (by decide)
    (State.setReg_touches (by decide) h)))

end

theorem OnlyAt.resetLoops {s t : State} {l : List Reg} {k : Nat} (h : OnlyAt s t l k)
    (hl : ∀ r ∈ l, Part.reg r ∉ sampleSide) (old new : Nat) : OnlyAt s (t.resetLoops k old new) l k :=
  forN_inv (P := fun u => OnlyAt s u l k) h fun u n hu => .ite hu
    ((hu.setReg .SM_STATE _ : OnlyAt s (u.setLoop k n 0) l k).touches (V := sampleSide)
      (State.setReg_touches (by decide) (State.setReg_touches (by decide) (.refl _ _))) hl (by decide))

theorem smEnableWrite_completes (acc : Accessor) (surf : Surface) (v : BitVec 8) (s : State)
    (hp : s.Passes acc .SM_ENABLE surf.val v.toNat) :
    let k := surf.val
    ∃ t, exec (.smEnableWrite acc surf v) s = .next t ∧ Touches Changes.smEnableWrite s t ∧
      t.status = 0 ∧ t.reg .SM_ENABLE k = v.toNat ∧
      (∀ n, n < 4 → t.loopState k n =
        if bit (s.reg .SM_ENABLE k) n = true ∧ bit v.toNat n = true then s.loopState k n else 0) ∧
      bit (t.reg .SO_FORCED k) 0 = t.seamCause k ∧ OnlyAt s t [.SM_ENABLE, .SM_STATE, .SO_FORCED] k := by
  intro k
  have hreset := ((s.setStatus 0).putReg .SM_ENABLE k v.toNat).resetLoops_frame k (s.reg .SM_ENABLE k) v.toNat
  have hnote (r : Reg) (h : r ≠ .iACC_STATUS) (h' : r ≠ .iACC_ID) (h'' : Part.reg r ∉ State.seamPolicy_foot) (j id : Nat)
      (u : State) : ((u.seamPolicy k).noteAccess acc id).reg r j = u.reg r j :=
    (State.noteAccess_reg _ _ _ _ h h').trans ((u.seamPolicy_frame k).reg r j h'' (by decide))
  refine write_completes rfl hp (execSmEnableWrite_touches (by decide) (.refl _ s)) ⟨?_, ?_, fun n hn => ?_,
    seamPolicy_noted _ k acc _, ((((OnlyAt.refl (s.setStatus 0) _ k).putReg .SM_ENABLE v.toNat).resetLoops (by decide) _
      _).seamPolicy (by decide)).noteAccess (by decide) (by decide) _ _⟩
  · rw [State.noteAccess_status]
    exact (State.seamPolicy_status _ k).trans ((hreset.fld .status (by decide) (by decide)).trans (State.putReg_status ..))
  · refine (hnote _ (by decide) (by decide) (by decide) _ _ _).trans ((hreset.reg _ _ (by decide) (by decide)).trans ?_)
    rw [State.reg_putReg, if_pos ⟨rfl, rfl⟩]
    exact Nat.mod_eq_of_lt v.isLt
  · have hput : ((s.setStatus 0).putReg .SM_ENABLE k v.toNat).loopState k n = s.loopState k n :=
      congrArg (bits · _ _) ((State.reg_putReg ..).trans (if_neg (by simp)))
    rw [← hput]
    exact (congrArg (bits · _ _) (hnote .SM_STATE (by decide) (by decide) (by decide) _ _ _)).trans
      (State.resetLoops_state _ k _ _ hn)

/-- Settles O50: the samples of the loops, and the writes of the seam policy. -/
theorem seamLoops : Obligations.SeamLoops :=
  ⟨seamLoopSample_completes, smClear_completes, smPolicyWrite_completes, smEnableWrite_completes⟩

end Sys2Proof.Machine
end

section
/-! The Insole (R465 to R472): updates, the pending image, power loss and the enable. -/
namespace Sys2Proof.Machine

/-! ## Reports of a function that is disabled, and grants -/

section
variable {s t u v : State} {V W : List Part} {r : Reg} {i n : Nat}

/-- The report of a disabled function is raised, or owed while the firmware restarts (R405, R501). -/
theorem State.raiseDisabled_reported (s : State) (r : Reg) (i n : Nat) : Reported s (s.raiseDisabled r i n) r i n := by
  unfold Reported State.raiseDisabled
  split
  · rfl
  · exact State.raise_lastEvent ..

/-- A report stays one where the phase, what is owed and the log are left alone before and after it. -/
theorem Reported.between (h : Reported u v r i n) (hs : Touches V s u) (ht : Touches W v t)
    (hphase : Part.reg .iPHASE ∉ V) (hregs : Part.anyReg ∉ V) (howed : Part.fld .disabledOwed ∉ V) (hflds : Part.anyFld ∉ V)
    (howed' : Part.fld .disabledOwed ∉ W) (hlog : Part.fld .evLog ∉ W) (hflds' : Part.anyFld ∉ W) : Reported s t r i n := by
  have hbefore : u.disabledOwed = s.disabledOwed := hs.fld .disabledOwed howed hflds
  have hafter : t.disabledOwed = v.disabledOwed := ht.fld .disabledOwed howed' hflds'
  unfold Reported at h ⊢
  rw [hs.reg .iPHASE 0 hphase hregs, hbefore] at h
  rwa [hafter, State.lastEvent_of_touches ht hlog hflds']

end

/-- An operation that returned its grant or withdrew its request waits for none. -/
theorem State.release_waiting (s : State) (op : PowerOp) : (s.release op).waiting op = false := by
  unfold State.waiting State.release
  simp

/-- Whether an operation waits, and what is granted, are read of the queues of requests alone. -/
theorem Touches.waiting {s t : State} {V : List Part} (h : Touches V s t) (hhigh : Part.fld .highReqs ∉ V)
    (hnormal : Part.fld .normalReqs ∉ V) (hany : Part.anyFld ∉ V) (op : PowerOp) : t.waiting op = s.waiting op := by
  have hhighs : t.highReqs = s.highReqs := h.fld .highReqs hhigh hany
  have hnormals : t.normalReqs = s.normalReqs := h.fld .normalReqs hnormal hany
  unfold State.waiting
  rw [hhighs, hnormals]

theorem Touches.grants {s t : State} {V : List Part} (h : Touches V s t) (hV : Part.fld .grants ∉ V)
    (hany : Part.anyFld ∉ V) : t.grants = s.grants :=
  h.fld .grants hV hany

/-! ## Updates (R466, R468 to R470) -/

section
variable (s : State)

/-- The update is held, before INSOLE_HELD is raised. -/
def State.insoleHeld : State := (s.release .insole).setReg .INS_STATE 0 1

theorem State.insoleHeld_pair : s.insoleHeld.reg .TS_TEMP s.insoleHeld.glassPair = s.reg .TS_TEMP s.glassPair := by
  unfold State.insoleHeld State.glassPair
  rw [State.setReg_reg_of_ne _ _ _ _ (by decide), State.setReg_reg_of_ne _ _ _ _ (by decide)]
  rfl

theorem execInsoleUpdateStart_eq : exec .insoleUpdateStart s =
    if s.insoleDue = false ∨ s.reg .INS_ENABLE 0 = 0 ∨ s.reg .INS_STATE 0 = 3 ∨ s.reg .iPWR_FAIL 0 = 1 ∨
        s.reg .iPHASE 0 = 4 then .next s
    else if s.glassOpen = false then .next (s.insoleHeld.cond (s.reg .INS_STATE 0 != 1) fun t =>
      t.raise Code.insoleHeld none [(16, t.reg .TS_TEMP t.glassPair)])
    else if s.granted .insole = true then .next s.insoleStart
    else .next ((s.request .insole).setReg .INS_STATE 0 2) := rfl

theorem State.insoleStart_reg : s.insoleStart.reg .INS_STATE 0 = 3 ∧
    s.insoleStart.reg .INS_BAND 0 = insoleBand (s.regInt .TS_TEMP s.glassPair) ∧
    s.insoleStart.Holds .iINS_NEW 0 (s.reg .INS_IMAGE 0) ∧ s.insoleStart.Holds .iINS_OLD 0 (s.reg .INS_SHOWN 0) ∧
    s.insoleStart.Holds .iINS_N 0 (s.reg .INS_WAVE_N (insoleBand (s.regInt .TS_TEMP s.glassPair))) ∧
    s.insoleStart.Holds .iINS_WAVE 0 (s.reg .INS_WAVE (insoleBand (s.regInt .TS_TEMP s.glassPair))) ∧
    s.insoleStart.reg .iINS_NEXT 0 = 0 ∧
    s.insoleStart.reg .iINS_PASSES 0 = if s.reg .INS_KNOWN 0 = 1 then 1 else 2 := by
  have hband : insoleBand (s.regInt .TS_TEMP s.glassPair) < 2 ^ Reg.width .INS_BAND := by
    have hle : insoleBand (s.regInt .TS_TEMP s.glassPair) ≤ 15 := by unfold insoleBand; omega
    exact Nat.lt_of_le_of_lt hle (by decide)
  have hpasses : (if s.reg .INS_KNOWN 0 = 1 then 1 else 2) < 2 ^ Reg.width .iINS_PASSES := by split <;> decide
  unfold State.insoleStart State.Holds
  refine ⟨State.setReg_reg_of_lt _ _ _ (by decide), ?_, by simp, by simp, by simp, by simp, by simp, ?_⟩
  · simp [Nat.mod_eq_of_lt hband]
  · simp only [State.setReg_reg_of_ne, ne_eq, reduceCtorEq, not_false_eq_true, State.setReg_reg_self]
    exact Nat.mod_eq_of_lt hpasses

theorem insoleUpdateStart_completes :
    let st := s.reg .INS_STATE 0
    let pair := s.glassPair
    let b := insoleBand (s.regInt .TS_TEMP pair)
    if s.insoleDue = false ∨ s.reg .INS_ENABLE 0 = 0 ∨ st = 3 ∨ s.reg .iPWR_FAIL 0 = 1 ∨ s.reg .iPHASE 0 = 4 then
      exec .insoleUpdateStart s = .next s
    else if s.glassOpen = false then
      ∃ t, exec .insoleUpdateStart s = .next t ∧ Touches Changes.insoleUpdateStart s t ∧
        t.reg .INS_STATE 0 = 1 ∧ t.waiting .insole = false ∧
        if st = 1 then t.reg .EV_COUNT 0 = s.reg .EV_COUNT 0
        else t.lastEvent = some (Code.insoleHeld, packBits [(16, s.reg .TS_TEMP pair)])
    else if s.granted .insole = true then
      ∃ t, exec .insoleUpdateStart s = .next t ∧ Touches Changes.insoleUpdateStart s t ∧
        t.reg .INS_STATE 0 = 3 ∧ t.reg .INS_BAND 0 = b ∧ t.Holds .iINS_NEW 0 (s.reg .INS_IMAGE 0) ∧
        t.Holds .iINS_OLD 0 (s.reg .INS_SHOWN 0) ∧ t.Holds .iINS_N 0 (s.reg .INS_WAVE_N b) ∧
        t.Holds .iINS_WAVE 0 (s.reg .INS_WAVE b) ∧ t.reg .iINS_NEXT 0 = 0 ∧
        t.reg .iINS_PASSES 0 = if s.reg .INS_KNOWN 0 = 1 then 1 else 2
    else
      ∃ t, exec .insoleUpdateStart s = .next t ∧ Touches Changes.insoleUpdateStart s t ∧
        t.reg .INS_STATE 0 = 2 ∧ (t.granted .insole = true ∨ t.waiting .insole = true) := by
  intro st pair b
  have hframe : OutTouches Changes.insoleUpdateStart s (exec .insoleUpdateStart s) :=
    execInsoleUpdateStart_touches (by decide) (.refl _ s)
  have hc := execInsoleUpdateStart_eq s
  have hheld : s.insoleHeld.reg .INS_STATE 0 = 1 := State.setReg_reg_of_lt _ _ _ (by decide)
  split
  case isTrue h => exact hc.trans (if_pos h)
  case isFalse hdue =>
    rw [if_neg hdue] at hc
    split
    case isTrue hclosed =>
      rw [if_pos hclosed] at hc
      by_cases hst : st = 1
      · have hquiet : (s.reg .INS_STATE 0 != 1) = false := bne_eq_false_iff_eq.2 hst
        rw [hquiet] at hc
        simp only [if_pos hst]
        exact completes_of_next hc hframe ⟨hheld, s.release_waiting .insole, State.setReg_reg_of_ne _ _ _ _ (by decide)⟩
      · have hraises : (s.reg .INS_STATE 0 != 1) = true := bne_iff_ne.2 hst
        have hraise : Touches State.raise_foot s.insoleHeld (s.insoleHeld.raise Code.insoleHeld none
            [(16, s.insoleHeld.reg .TS_TEMP s.insoleHeld.glassPair)]) :=
          State.raise_touches (fun _ h => h) (.refl _ _)
        rw [hraises] at hc
        simp only [if_neg hst]
        refine completes_of_next hc hframe ⟨(hraise.reg _ _ (by decide) (by decide)).trans hheld,
          (hraise.waiting (by decide) (by decide) (by decide) _).trans (s.release_waiting .insole), ?_⟩
        rw [← s.insoleHeld_pair]
        exact State.raise_lastEvent ..
    case isFalse hopen =>
      rw [if_neg hopen] at hc
      split
      case isTrue hgrant => exact completes_of_next (hc.trans (if_pos hgrant)) hframe s.insoleStart_reg
      case isFalse hgrant =>
        refine completes_of_next (hc.trans (if_neg hgrant)) hframe ⟨State.setReg_reg_of_lt _ _ _ (by decide), .inr ?_⟩
        exact s.request_waiting (Bool.eq_false_iff.2 hgrant)

theorem insoleFrame_completes :
    let f := s.reg .iINS_NEXT 0
    if s.reg .INS_STATE 0 = 3 ∧ f < s.reg .iINS_N 0 * s.reg .iINS_PASSES 0 ∧ s.reg .iINS_STOP 0 = 0 then
      ∃ t, exec .insoleFrame s = .next t ∧
        Touches (regs [.iINS_ELEC, .iINS_NEXT, .INS_FRAME] ++ flds [.sent]) s t ∧
        t.sent = [.insole (s.frameLevels f)] ∧ t.Holds .INS_FRAME 0 f ∧ t.Holds .iINS_NEXT 0 (f + 1)
    else exec .insoleFrame s = .next s :=
  completes_if rfl (execInsoleFrame_touches (by decide) (.refl _ s)) fun _ =>
    ⟨rfl, (State.setReg_reg_of_ne _ _ _ _ (by decide)).trans ((State.setReg_reg_of_ne _ _ _ _ (by decide)).trans
      (State.setReg_reg_self ..)), (State.setReg_reg_of_ne _ _ _ _ (by decide)).trans (State.setReg_reg_self ..)⟩

end

/-! ## The end of an update, and the discharge (R469 to R472) -/

section
variable (s : State)

theorem State.insoleDischarge_reg : s.insoleDischarge.reg .INS_KNOWN 0 = 0 ∧
    Counted s s.insoleDischarge .INS_DISCHARGES 0 1 ∧ s.insoleDischarge.grants = s.grants.erase .insole := by
  unfold State.insoleDischarge Counted
  refine ⟨by simp [State.reg_bump], ?_, rfl⟩
  rw [State.release_reg, State.setReg_reg_of_ne _ _ _ _ (by decide), State.reg_bump, if_pos ⟨rfl, rfl⟩,
    State.setReg_reg_of_ne _ _ _ _ (by decide)]

theorem State.insoleDischarge_frame : Touches State.insoleDischarge_foot s s.insoleDischarge :=
  State.insoleDischarge_touches (fun _ h => h) (.refl _ s)

/-- The Insole is DISABLED, before it says so. -/
def State.insoleDisabled : State := (s.setReg .INS_STATE 0 5).setReg .iINS_ELEC 0 0

theorem State.insoleDisabled_frame : Touches (Sys2Proof.Machine.regs [.INS_STATE, .iINS_ELEC]) s s.insoleDisabled :=
  State.setReg_touches (by decide) (State.setReg_touches (by decide) (.refl _ s))

variable (n : Nat)

theorem State.insoleOff_frame : Touches State.raiseDisabled_foot s.insoleDisabled (s.insoleOff n) :=
  State.raiseDisabled_touches (fun _ h => h) (.refl _ _)

theorem State.insoleOff_state : (s.insoleOff n).reg .INS_STATE 0 = 5 :=
  ((s.insoleOff_frame n).reg _ _ (by decide) (by decide)).trans
    ((State.setReg_reg_of_ne _ _ _ _ (by decide)).trans (State.setReg_reg_of_lt _ _ _ (by decide)))

theorem State.insoleOff_reg {q : Reg} (j : Nat) (hq : Part.reg q ∉ State.insoleOff_foot) :
    (s.insoleOff n).reg q j = s.reg q j :=
  (State.insoleOff_touches (fun _ h => h) (.refl _ s)).reg q j hq (by decide)

theorem State.insoleOff_grants : (s.insoleOff n).grants = s.grants :=
  ((s.insoleOff_frame n).grants (by decide) (by decide)).trans (s.insoleDisabled_frame.grants (by decide) (by decide))

theorem State.insoleOff_reported : Reported s (s.insoleOff n) .INS_ENABLE 0 n :=
  (State.raiseDisabled_reported s.insoleDisabled .INS_ENABLE 0 n).between s.insoleDisabled_frame
    (.refl [] _) (by decide) (by decide) (by decide) (by decide) (by decide) (by decide) (by decide)

/-- The new image is shown, known and counted, before the Insole is idle (R469). -/
def State.insoleShown : State :=
  ((((s.setReg .INS_SHOWN 0 (s.reg .iINS_NEW 0)).setReg .INS_KNOWN 0 1).bump .INS_UPDATES 0).release .insole).setReg
    .iINS_ELEC 0 0

theorem State.insoleShown_reg : s.insoleShown.Holds .INS_SHOWN 0 (s.reg .iINS_NEW 0) ∧
    s.insoleShown.reg .INS_KNOWN 0 = 1 ∧ Counted s s.insoleShown .INS_UPDATES 0 1 := by
  have hone : 1 % 2 ^ Reg.width .INS_KNOWN = 1 := rfl
  unfold State.insoleShown Counted State.Holds
  exact ⟨by simp [State.reg_bump], by simp [State.reg_bump, hone], by simp [State.reg_bump]⟩

theorem State.insoleShown_frame :
    Touches (Sys2Proof.Machine.regs [.INS_SHOWN, .INS_KNOWN, .INS_UPDATES, .iINS_ELEC] ++
      flds [.grants, .highReqs, .normalReqs]) s s.insoleShown :=
  State.setReg_touches (by decide) (State.release_touches (by decide) (by decide) (by decide)
    (State.setReg_touches (by decide) (State.setReg_touches (by decide) (State.setReg_touches (by decide) (.refl _ s)))))

theorem execInsoleUpdateEnd_eq : exec .insoleUpdateEnd s =
    if s.reg .INS_STATE 0 ≠ 3 then .next s
    else if s.reg .iINS_STOP 0 = 1 then .next (s.insoleDischarge.insoleOff 1)
    else if s.reg .iINS_NEXT 0 < s.reg .iINS_N 0 * s.reg .iINS_PASSES 0 then .next s
    else .next (if s.reg .INS_ENABLE 0 = 0 then s.insoleShown.insoleOff 0 else s.insoleShown.setReg .INS_STATE 0 0) := rfl

theorem insoleUpdateEnd_completes :
    if s.reg .INS_STATE 0 ≠ 3 then exec .insoleUpdateEnd s = .next s
    else if s.reg .iINS_STOP 0 = 1 then
      ∃ t, exec .insoleUpdateEnd s = .next t ∧ Touches Changes.insoleUpdateEnd s t ∧
        t.reg .INS_STATE 0 = 5 ∧ t.reg .INS_KNOWN 0 = 0 ∧ Counted s t .INS_DISCHARGES 0 1 ∧
        Reported s t .INS_ENABLE 0 1 ∧ t.grants = s.grants.erase .insole
    else if s.reg .iINS_NEXT 0 < s.reg .iINS_N 0 * s.reg .iINS_PASSES 0 then exec .insoleUpdateEnd s = .next s
    else
      ∃ t, exec .insoleUpdateEnd s = .next t ∧ Touches Changes.insoleUpdateEnd s t ∧
        t.Holds .INS_SHOWN 0 (s.reg .iINS_NEW 0) ∧ t.reg .INS_KNOWN 0 = 1 ∧ Counted s t .INS_UPDATES 0 1 ∧
        t.grants = s.grants.erase .insole ∧
        if s.reg .INS_ENABLE 0 = 0 then t.reg .INS_STATE 0 = 5 ∧ Reported s t .INS_ENABLE 0 0
        else t.reg .INS_STATE 0 = 0 := by
  have hframe : OutTouches Changes.insoleUpdateEnd s (exec .insoleUpdateEnd s) :=
    execInsoleUpdateEnd_touches (by decide) (.refl _ s)
  have hc := execInsoleUpdateEnd_eq s
  by_cases hst : s.reg .INS_STATE 0 ≠ 3
  · rw [if_pos hst]
    exact hc.trans (if_pos hst)
  rw [if_neg hst]
  rw [if_neg hst] at hc
  by_cases hstop : s.reg .iINS_STOP 0 = 1
  · rw [if_pos hstop]
    obtain ⟨hknown, hcount, hgrants⟩ := s.insoleDischarge_reg
    exact completes_of_next (hc.trans (if_pos hstop)) hframe ⟨State.insoleOff_state _ 1,
      (State.insoleOff_reg _ 1 0 (by decide)).trans hknown, (State.insoleOff_reg _ 1 0 (by decide)).trans hcount,
      (State.insoleOff_reported _ 1).between s.insoleDischarge_frame (.refl [] _) (by decide) (by decide) (by decide)
        (by decide) (by decide) (by decide) (by decide),
      (State.insoleOff_grants _ 1).trans hgrants⟩
  rw [if_neg hstop]
  rw [if_neg hstop] at hc
  by_cases hmore : s.reg .iINS_NEXT 0 < s.reg .iINS_N 0 * s.reg .iINS_PASSES 0
  · rw [if_pos hmore]
    exact hc.trans (if_pos hmore)
  rw [if_neg hmore]
  rw [if_neg hmore] at hc
  obtain ⟨hshown, hknown, hcount⟩ := s.insoleShown_reg
  by_cases hen : s.reg .INS_ENABLE 0 = 0
  · rw [if_pos hen] at hc
    simp only [if_pos hen]
    exact completes_of_next hc hframe ⟨(State.insoleOff_reg _ 0 0 (by decide)).trans hshown,
      (State.insoleOff_reg _ 0 0 (by decide)).trans hknown, (State.insoleOff_reg _ 0 0 (by decide)).trans hcount,
      (State.insoleOff_grants _ 0), State.insoleOff_state _ 0,
      (State.insoleOff_reported _ 0).between s.insoleShown_frame (.refl [] _) (by decide) (by decide) (by decide)
        (by decide) (by decide) (by decide) (by decide)⟩
  · rw [if_neg hen] at hc
    simp only [if_neg hen]
    exact completes_of_next hc hframe ⟨(State.setReg_reg_of_ne _ _ _ _ (by decide)).trans hshown,
      (State.setReg_reg_of_ne _ _ _ _ (by decide)).trans hknown, (State.setReg_reg_of_ne _ _ _ _ (by decide)).trans hcount,
      rfl, State.setReg_reg_of_lt _ _ _ (by decide)⟩

end

/-! ## The pending image (R468, R469) -/

theorem insoleImageWrite_completes (acc : Accessor) (image : BitVec 192) (s : State)
    (hp : s.Passes acc .INS_IMAGE 0 image.toNat) :
    ∃ t, exec (.insoleImageWrite acc image) s = .next t ∧ Touches Changes.insoleImageWrite s t ∧
      t.status = 0 ∧ t.reg .INS_IMAGE 0 = image.toNat ∧
      if (s.reg .INS_STATE 0 = 1 ∨ s.reg .INS_STATE 0 = 2) ∧ image.toNat = s.reg .INS_SHOWN 0 ∧
          s.reg .INS_KNOWN 0 ≠ 0 then t.reg .INS_STATE 0 = 0 ∧ t.waiting .insole = false
      else t.reg .INS_STATE 0 = s.reg .INS_STATE 0 ∧ t.grants = s.grants := by
  have hput (r : Reg) (h : Reg.INS_IMAGE ≠ r) :
      ((s.setStatus 0).putReg .INS_IMAGE 0 image.toNat).reg r 0 = s.reg r 0 :=
    (State.reg_putReg ..).trans (if_neg fun hr => h hr.1)
  have himage : ((s.setStatus 0).putReg .INS_IMAGE 0 image.toNat).reg .INS_IMAGE 0 = image.toNat :=
    ((State.reg_putReg ..).trans (if_pos ⟨rfl, rfl⟩)).trans (Nat.mod_eq_of_lt image.isLt)
  have hdue : ((s.setStatus 0).putReg .INS_IMAGE 0 image.toNat).insoleDue = false ↔
      image.toNat = s.reg .INS_SHOWN 0 ∧ s.reg .INS_KNOWN 0 ≠ 0 := by
    unfold State.insoleDue
    rw [himage, hput .INS_SHOWN (by decide), hput .INS_KNOWN (by decide)]
    simp
  have hsettle : ((s.setStatus 0).putReg .INS_IMAGE 0 image.toNat).insoleSettle =
      if (s.reg .INS_STATE 0 = 1 ∨ s.reg .INS_STATE 0 = 2) ∧ image.toNat = s.reg .INS_SHOWN 0 ∧ s.reg .INS_KNOWN 0 ≠ 0
      then (((s.setStatus 0).putReg .INS_IMAGE 0 image.toNat).release .insole).setReg .INS_STATE 0 0
      else (s.setStatus 0).putReg .INS_IMAGE 0 image.toNat := by
    unfold State.insoleSettle
    rw [hput .INS_STATE (by decide)]
    exact if_congr (and_congr_right fun _ => hdue) rfl rfl
  have hnote (u : State) (id : Nat) : Touches State.noteAccess_foot u (u.noteAccess acc id) :=
    State.noteAccess_touches (fun _ h => h) (.refl _ u)
  refine write_completes rfl hp (execInsoleImageWrite_touches (by decide) (.refl _ s)) ?_
  unfold State.insoleImage
  rw [hsettle]
  split
  · refine ⟨(State.noteAccess_status ..).trans ((State.putReg_status ..).trans rfl), ?_, ?_, ?_⟩
    · rw [State.noteAccess_reg _ _ _ _ (by decide) (by decide), State.setReg_reg_of_ne _ _ _ _ (by decide),
        State.release_reg, himage]
    · rw [State.noteAccess_reg _ _ _ _ (by decide) (by decide)]
      exact State.setReg_reg_of_lt _ _ _ (by decide)
    · exact ((hnote _ _).waiting (by decide) (by decide) (by decide) _).trans (State.release_waiting _ .insole)
  · refine ⟨by simp, ?_, ?_, ?_⟩
    · rw [State.noteAccess_reg _ _ _ _ (by decide) (by decide), himage]
    · rw [State.noteAccess_reg _ _ _ _ (by decide) (by decide), hput .INS_STATE (by decide)]
    · rw [(hnote _ _).grants (by decide) (by decide)]
      exact (State.putReg_grants ..).trans rfl

/-! ## Power loss (R471) -/

section
variable (s : State)

/-- The electrodes are discharged and the Insole stopped, before a drain ends (R471). -/
def State.insoleGrounded : State :=
  ((s.setReg .iPWR_FAIL 0 1).insoleDischarge.setReg .INS_STATE 0 4).setReg .iINS_ELEC 0 2

theorem execPwrFailLow_eq : exec .pwrFailLow s = if s.reg .iPWR_FAIL 0 = 1 then .next s
    else .next (s.insoleGrounded.cond (s.reg .INS_STATE 0 == 3 && s.reg .INS_ENABLE 0 == 0) fun t =>
      t.raiseDisabled .INS_ENABLE 0 1) := rfl

theorem State.insoleGrounded_frame : Touches (State.insoleDischarge_foot ++
    Sys2Proof.Machine.regs [.iPWR_FAIL, .INS_STATE, .iINS_ELEC]) s s.insoleGrounded :=
  State.setReg_touches (by decide) (State.setReg_touches (by decide) (State.insoleDischarge_touches (by decide)
    (State.setReg_touches (by decide) (.refl _ s))))

theorem State.insoleGrounded_reg : s.insoleGrounded.reg .iPWR_FAIL 0 = 1 ∧ s.insoleGrounded.reg .INS_STATE 0 = 4 ∧
    s.insoleGrounded.reg .INS_KNOWN 0 = 0 ∧ Counted s s.insoleGrounded .INS_DISCHARGES 0 1 ∧
    s.insoleGrounded.grants = s.grants.erase .insole := by
  obtain ⟨hknown, hcount, hgrants⟩ := (s.setReg .iPWR_FAIL 0 1).insoleDischarge_reg
  have hreg (r : Reg) (h : Reg.INS_STATE ≠ r) (h' : Reg.iINS_ELEC ≠ r) :
      s.insoleGrounded.reg r 0 = (s.setReg .iPWR_FAIL 0 1).insoleDischarge.reg r 0 :=
    (State.setReg_reg_of_ne _ _ _ _ h').trans (State.setReg_reg_of_ne _ _ _ _ h)
  refine ⟨?_, ?_, (hreg _ (by decide) (by decide)).trans hknown, ?_, hgrants⟩
  · rw [hreg _ (by decide) (by decide), (State.insoleDischarge_frame _).reg _ _ (by decide) (by decide)]
    exact State.setReg_reg_of_lt _ _ _ (by decide)
  · exact (State.setReg_reg_of_ne _ _ _ _ (by decide)).trans (State.setReg_reg_of_lt _ _ _ (by decide))
  · exact (hreg _ (by decide) (by decide)).trans (hcount.trans (by rw [State.setReg_reg_of_ne _ _ _ _ (by decide)]))

theorem pwrFailLow_completes :
    if s.reg .iPWR_FAIL 0 = 1 then exec .pwrFailLow s = .next s
    else
      ∃ t, exec .pwrFailLow s = .next t ∧ Touches Changes.pwrFailLow s t ∧
        t.reg .iPWR_FAIL 0 = 1 ∧ t.reg .INS_STATE 0 = 4 ∧ t.reg .INS_KNOWN 0 = 0 ∧
        Counted s t .INS_DISCHARGES 0 1 ∧ t.grants = s.grants.erase .insole ∧
        (s.reg .INS_STATE 0 = 3 → s.reg .INS_ENABLE 0 = 0 → Reported s t .INS_ENABLE 0 1) := by
  refine completes_unless (execPwrFailLow_eq s) (execPwrFailLow_touches (by decide) (.refl _ s)) fun _ => ?_
  obtain ⟨hfail, hstate, hknown, hcount, hgrants⟩ := s.insoleGrounded_reg
  have hframe : Touches State.raiseDisabled_foot s.insoleGrounded
      (s.insoleGrounded.cond (s.reg .INS_STATE 0 == 3 && s.reg .INS_ENABLE 0 == 0) fun t =>
        t.raiseDisabled .INS_ENABLE 0 1) :=
    cond_touches (.refl _ _) fun _ h => State.raiseDisabled_touches (fun _ hp => hp) h
  refine ⟨(hframe.reg _ _ (by decide) (by decide)).trans hfail, (hframe.reg _ _ (by decide) (by decide)).trans hstate,
    (hframe.reg _ _ (by decide) (by decide)).trans hknown, (hframe.reg _ _ (by decide) (by decide)).trans hcount,
    (hframe.grants (by decide) (by decide)).trans hgrants, fun hst hen => ?_⟩
  rw [hst, hen]
  exact (State.raiseDisabled_reported _ _ _ _).between s.insoleGrounded_frame (.refl [] _) (by decide) (by decide)
    (by decide) (by decide) (by decide) (by decide) (by decide)

theorem pwrFailHigh_completes :
    if s.reg .iPWR_FAIL 0 = 0 then exec .pwrFailHigh s = .next s
    else
      ∃ t, exec .pwrFailHigh s = .next t ∧
        Touches (regs [.iINS_ELEC, .iPWR_FAIL, .INS_STATE, .INS_ENABLE]) s t ∧
        t.reg .iPWR_FAIL 0 = 0 ∧ t.reg .INS_STATE 0 = if s.reg .INS_ENABLE 0 = 0 then 5 else 0 := by
  have hen : ((s.setReg .iPWR_FAIL 0 0).setReg .iINS_ELEC 0 0).reg .INS_ENABLE 0 = s.reg .INS_ENABLE 0 := by simp
  have hstate : (if s.reg .INS_ENABLE 0 = 0 then 5 else 0) < 2 ^ Reg.width .INS_STATE := by split <;> decide
  refine completes_unless rfl (execPwrFailHigh_touches (by decide) (.refl _ s)) fun _ => ⟨by simp, ?_⟩
  rw [hen]
  exact State.setReg_reg_of_lt _ _ _ hstate

/-! ## The enable (R405, R472) -/

/-- The Insole that is not under way is disabled, and says so. -/
theorem State.insoleDisable_eq : s.insoleDisable =
    if s.reg .INS_ENABLE 0 = 0 then s.putReg .INS_ENABLE 0 0
    else if s.reg .INS_STATE 0 = 3 then
      (s.putReg .INS_ENABLE 0 0).cond (s.reg .INS_DRAIN 0 == 1) fun t => t.setReg .iINS_STOP 0 1
    else if s.reg .INS_STATE 0 = 4 then ((s.putReg .INS_ENABLE 0 0).release .insole).raiseDisabled .INS_ENABLE 0 0
    else ((s.putReg .INS_ENABLE 0 0).release .insole).insoleOff 0 := rfl

theorem State.insoleDisable_status : s.insoleDisable.status = s.status :=
  (State.insoleDisable_touches (W := State.insoleDisable_foot) (fun _ h => h) (.refl _ s)).fld .status (by decide)
    (by decide)

/-- What INS_ENABLE 0 leaves (R405, R472). -/
def InsoleStops (t : State) : Prop :=
  t.reg .INS_ENABLE 0 = 0 ∧
  if s.reg .INS_ENABLE 0 = 0 then t.reg .INS_STATE 0 = s.reg .INS_STATE 0
  else if s.reg .INS_STATE 0 = 3 then t.reg .INS_STATE 0 = 3 ∧
    t.reg .iINS_STOP 0 = if s.reg .INS_DRAIN 0 = 1 then 1 else s.reg .iINS_STOP 0
  else t.reg .INS_STATE 0 = (if s.reg .INS_STATE 0 = 4 then 4 else 5) ∧ Reported s t .INS_ENABLE 0 0 ∧
    t.waiting .insole = false

theorem State.insoleDisable_stops : InsoleStops s s.insoleDisable := by
  have hput (r : Reg) (h : Reg.INS_ENABLE ≠ r) : (s.putReg .INS_ENABLE 0 0).reg r 0 = s.reg r 0 :=
    (s.reg_putReg ..).trans (if_neg fun hr => h hr.1)
  have hen : (s.putReg .INS_ENABLE 0 0).reg .INS_ENABLE 0 = 0 := (s.reg_putReg ..).trans (if_pos ⟨rfl, rfl⟩)
  have hputFrame : Touches ([.reg .INS_ENABLE, .fld .keepPending] ++ flds [.grants, .highReqs, .normalReqs]) s
      ((s.putReg .INS_ENABLE 0 0).release .insole) :=
    State.release_touches (by decide) (by decide) (by decide) (State.putReg_touches (by decide) (by decide) (.refl _ s))
  rw [State.insoleDisable_eq]
  unfold InsoleStops
  by_cases hdisabled : s.reg .INS_ENABLE 0 = 0
  · rw [if_pos hdisabled, if_pos hdisabled]
    exact ⟨hen, hput _ (by decide)⟩
  rw [if_neg hdisabled, if_neg hdisabled]
  by_cases hrunning : s.reg .INS_STATE 0 = 3
  · rw [if_pos hrunning, if_pos hrunning]
    unfold State.cond
    simp only [beq_iff_eq]
    split
    · exact ⟨(State.setReg_reg_of_ne _ _ _ _ (by decide)).trans hen,
        (State.setReg_reg_of_ne _ _ _ _ (by decide)).trans ((hput _ (by decide)).trans hrunning),
        State.setReg_reg_of_lt _ _ _ (by decide)⟩
    · exact ⟨hen, (hput _ (by decide)).trans hrunning, hput _ (by decide)⟩
  rw [if_neg hrunning, if_neg hrunning]
  by_cases hfailed : s.reg .INS_STATE 0 = 4
  · have hframe : Touches State.raiseDisabled_foot ((s.putReg .INS_ENABLE 0 0).release .insole)
        (((s.putReg .INS_ENABLE 0 0).release .insole).raiseDisabled .INS_ENABLE 0 0) :=
      State.raiseDisabled_touches (fun _ h => h) (.refl _ _)
    rw [if_pos hfailed, if_pos hfailed]
    exact ⟨(hframe.reg _ _ (by decide) (by decide)).trans hen,
      (hframe.reg _ _ (by decide) (by decide)).trans ((hput _ (by decide)).trans hfailed),
      (State.raiseDisabled_reported _ _ _ _).between hputFrame (.refl [] _) (by decide) (by decide) (by decide)
        (by decide) (by decide) (by decide) (by decide),
      (hframe.waiting (by decide) (by decide) (by decide) _).trans (State.release_waiting _ _)⟩
  · rw [if_neg hfailed, if_neg hfailed]
    exact ⟨(State.insoleOff_reg _ 0 0 (by decide)).trans hen, State.insoleOff_state _ 0,
      (State.insoleOff_reported _ 0).between hputFrame (.refl [] _) (by decide) (by decide) (by decide)
        (by decide) (by decide) (by decide) (by decide),
      ((State.insoleOff_frame _ 0).waiting (by decide) (by decide) (by decide) _).trans
        (((State.insoleDisabled_frame _).waiting (by decide) (by decide) (by decide) _).trans (State.release_waiting _ _))⟩

end

/-- What INS_ENABLE 0 leaves holds of the access as a whole. -/
theorem InsoleStops.between {s u v t : State} (h : InsoleStops u v) (hs : Touches [.fld .status] s u)
    (ht : Touches State.noteAccess_foot v t) : InsoleStops s t := by
  obtain ⟨hen, hrest⟩ := h
  have hbefore (r : Reg) : u.reg r 0 = s.reg r 0 := hs.reg r 0 (by simp) (by decide)
  have hafter (r : Reg) (hr : Part.reg r ∉ State.noteAccess_foot) : t.reg r 0 = v.reg r 0 := ht.reg r 0 hr (by decide)
  rw [hbefore, hbefore, hbefore, hbefore] at hrest
  unfold InsoleStops
  rw [hafter .INS_ENABLE (by decide), hafter .INS_STATE (by decide), hafter .iINS_STOP (by decide),
    ht.waiting (by decide) (by decide) (by decide)]
  refine ⟨hen, ?_⟩
  by_cases hdisabled : s.reg .INS_ENABLE 0 = 0
  · rwa [if_pos hdisabled] at hrest ⊢
  rw [if_neg hdisabled] at hrest ⊢
  by_cases hrunning : s.reg .INS_STATE 0 = 3
  · rwa [if_pos hrunning] at hrest ⊢
  rw [if_neg hrunning] at hrest ⊢
  obtain ⟨hstate, hreported, hwaits⟩ := hrest
  exact ⟨hstate, hreported.between hs ht (by decide) (by decide) (by decide) (by decide) (by decide) (by decide)
    (by decide), hwaits⟩

theorem insEnableDisable_completes (acc : Accessor) (s : State) (hp : s.Passes acc .INS_ENABLE 0 0) :
    ∃ t, exec (.insEnableDisable acc) s = .next t ∧ Touches Changes.insEnableDisable s t ∧
      t.status = 0 ∧ InsoleStops s t :=
  write_completes rfl hp (execInsEnableDisable_touches (by decide) (.refl _ s))
    ⟨(State.noteAccess_status ..).trans ((State.insoleDisable_status _).trans rfl),
      (s.setStatus 0).insoleDisable_stops.between (State.setStatus_touches (by decide) (.refl _ s))
        (State.noteAccess_touches (fun _ h => h) (.refl _ _))⟩

/-- The Insole is enabled, and idle where it was DISABLED (R472). -/
def State.insoleEnabled (s : State) : State :=
  (s.putReg .INS_ENABLE 0 1).cond (s.reg .INS_STATE 0 == 5) fun t => t.setReg .INS_STATE 0 0

theorem State.insoleEnabled_frame (s : State) :
    Touches [.reg .INS_STATE] (s.putReg .INS_ENABLE 0 1) s.insoleEnabled :=
  cond_touches (.refl _ _) fun _ h => State.setReg_touches (by decide) h

theorem State.insoleEnabled_reg (s : State) : s.insoleEnabled.reg .INS_ENABLE 0 = 1 ∧
    s.insoleEnabled.reg .INS_STATE 0 = if s.reg .INS_STATE 0 = 5 then 0 else s.reg .INS_STATE 0 := by
  refine ⟨(s.insoleEnabled_frame.reg _ _ (by decide) (by decide)).trans ((s.reg_putReg ..).trans (if_pos ⟨rfl, rfl⟩)), ?_⟩
  unfold State.insoleEnabled State.cond
  simp only [beq_iff_eq]
  split
  · exact State.setReg_reg_of_lt _ _ _ (by decide)
  · exact (s.reg_putReg ..).trans (if_neg (by simp))

theorem insEnableResume_completes (acc : Accessor) (s : State) (hp : s.Passes acc .INS_ENABLE 0 1) :
    if s.reg .INS_ENABLE 0 = 0 ∧ s.reg .INS_STATE 0 = 3 then
      exec (.insEnableResume acc) s = .next (s.answered acc .INS_ENABLE 0 Code.funcDraining)
    else
      ∃ t, exec (.insEnableResume acc) s = .next t ∧ Touches Changes.insEnableResume s t ∧
        t.status = 0 ∧ t.reg .INS_ENABLE 0 = 1 ∧
        t.reg .INS_STATE 0 = if s.reg .INS_STATE 0 = 5 then 0 else s.reg .INS_STATE 0 := by
  refine write_completes_unless rfl hp (execInsEnableResume_touches (by decide) (.refl _ s)) (fun h => if_pos h)
    fun h => ?_
  have henable : (s.setStatus 0).insoleEnable = (s.setStatus 0).insoleEnabled := if_neg h
  obtain ⟨hen, hstate⟩ := (s.setStatus 0).insoleEnabled_reg
  rw [henable, State.noteAccess_status, State.noteAccess_reg _ _ _ _ (by decide) (by decide),
    State.noteAccess_reg _ _ _ _ (by decide) (by decide)]
  exact ⟨((s.setStatus 0).insoleEnabled_frame.fld .status (by decide) (by decide)).trans (State.putReg_status ..), hen,
    hstate⟩

/-- Settles O49: the Insole's updates, its image, power loss and enable. -/
theorem insoleDisplay : Obligations.InsoleDisplay :=
  ⟨insoleUpdateStart_completes, insoleFrame_completes, insoleUpdateEnd_completes, insoleImageWrite_completes,
    pwrFailLow_completes, pwrFailHigh_completes, insEnableDisable_completes, insEnableResume_completes⟩

end Sys2Proof.Machine
end

section
/-! The Eyelet (R366 to R370): arming, edges and pulses of the outputs, and captured edges. -/
namespace Sys2Proof.Machine

/-! ## Arming and disarming (R367) -/

section
variable (s : State) (k : Nat)

/-- The first edge that an output is armed for. -/
def State.armedFirst : Nat := if s.reg .EYE_MODE k = 2 then s.firstK k else 0

/-- Whether EYE_COUNT ends a PERIODIC output before its first edge. -/
def State.armedSpent : Bool :=
  s.reg .EYE_MODE k == 2 && s.reg .EYE_COUNT k != 0 && decide (s.reg .EYE_COUNT k ≤ s.armedFirst k)

/-- The output is ARMED with nothing scheduled, before a FRAME output takes the edge of its frame. -/
def State.armed : State :=
  (((({ s with eyeEdges := s.eyeEdges.filter (fun x => x.1 != k) } : State).setReg .EYE_STATE k 1).setReg .iEYE_K k
    (s.armedFirst k)).setReg .iEYE_LAST k (b2n (s.armedSpent k))).setReg .iEYE_FRAME k 0

theorem State.armEye_eq : s.armEye k = if s.reg .EYE_MODE k = 0 then s
    else ((s.armed k).cond (s.reg .EYE_MODE k == 3) fun t => t.armFrame k).eyeDone k := rfl

theorem State.armed_frame :
    Touches (Sys2Proof.Machine.regs [.EYE_STATE, .iEYE_K, .iEYE_LAST, .iEYE_FRAME] ++ flds [.eyeEdges]) s (s.armed k) :=
  State.setReg_touches (by decide) (State.setReg_touches (by decide) (State.setReg_touches (by decide)
    (State.setReg_touches (by decide) ((Touches.refl _ s).other (fun f => by cases f <;> first | exact .inr rfl | exact .inl (by decide))
      rfl rfl rfl rfl rfl rfl rfl))))

theorem State.armed_reg : (s.armed k).Holds .iEYE_K k (s.armedFirst k) ∧ (s.armed k).reg .EYE_STATE k = 1 ∧
    (s.armed k).reg .iEYE_LAST k = b2n (s.armedSpent k) := by
  have hlast : b2n (s.armedSpent k) < 2 ^ Reg.width .iEYE_LAST := by cases s.armedSpent k <;> decide
  unfold State.armed State.Holds
  refine ⟨by simp, ?_, ?_⟩
  · rw [State.setReg_reg_of_ne _ _ _ _ (by decide), State.setReg_reg_of_ne _ _ _ _ (by decide),
      State.setReg_reg_of_ne _ _ _ _ (by decide)]
    exact State.setReg_reg_of_lt _ _ _ (by decide)
  · rw [State.setReg_reg_of_ne _ _ _ _ (by decide)]
    exact State.setReg_reg_of_lt _ _ _ hlast

/-- A FRAME output that is armed has the edge of the frame in progress scheduled, or none (R366, R367). -/
def State.frameArmed : State := (s.armed k).cond (s.reg .EYE_MODE k == 3) fun t => t.armFrame k

theorem State.armFrame_frame : Touches State.armFrame_foot s (s.armFrame k) :=
  State.armFrame_touches (fun _ h => h) (.refl _ s)

theorem State.frameArmed_frame : Touches State.armFrame_foot (s.armed k) (s.frameArmed k) :=
  cond_touches (.refl _ _) fun _ h => State.armFrame_touches (fun _ hp => hp) h

theorem State.passMissed_frame : Touches State.passMissed_foot s (s.passMissed k) :=
  State.passMissed_touches (fun _ h => h) (.refl _ s)

/-- What arming in FRAME mode schedules is still to come. -/
theorem State.armFrame_edges {x : Nat × Int} (hx : x ∈ (s.armFrame k).eyeEdges) : x ∈ s.eyeEdges ∨
    (x.2 = s.reg .iG_B3 (s.reg .EYE_GEN k) + 3 * s.eyeOffset k ∧ reached16 s.now16 (edgeAt3 x.2) = false) := by
  unfold State.armFrame at hx
  dsimp only at hx
  split at hx
  case isTrue h =>
    obtain hx | hx := List.mem_append.1 hx
    · exact .inl hx
    · rw [List.mem_singleton.1 hx]
      exact .inr ⟨rfl, h.2.2.2⟩
  case isFalse =>
    have hsame : (s.passMissed k).eyeEdges = s.eyeEdges := (s.passMissed_frame k).fld .eyeEdges (by decide) (by decide)
    exact .inl (hsame ▸ hx)

theorem State.frameArmed_edges {x : Nat × Int} (hx : x ∈ (s.frameArmed k).eyeEdges) (hk : x.1 = k) :
    s.reg .EYE_MODE k = 3 ∧ x.2 = s.reg .iG_B3 (s.reg .EYE_GEN k) + 3 * s.eyeOffset k ∧
      reached16 s.now16 (edgeAt3 x.2) = false := by
  have hnone : x ∉ (s.armed k).eyeEdges := fun h => by simp [State.armed, hk] at h
  have hframe := s.armed_frame k
  have hgen : (s.armed k).reg .EYE_GEN k = s.reg .EYE_GEN k := hframe.reg _ _ (by decide) (by decide)
  have hopening (g : Nat) : (s.armed k).reg .iG_B3 g = s.reg .iG_B3 g := hframe.reg _ _ (by decide) (by decide)
  have hoffset : (s.armed k).eyeOffset k = s.eyeOffset k := hframe.regInt _ _ (by decide) (by decide)
  have hnow : (s.armed k).now16 = s.now16 := congrArg (· >>> 32) (hframe.time (by decide)).1
  unfold State.frameArmed State.cond at hx
  split at hx
  case isTrue hmode =>
    obtain h | h := State.armFrame_edges _ k hx
    · exact absurd h hnone
    · rw [hgen, hopening, hoffset, hnow] at h
      exact ⟨eq_of_beq hmode, h⟩
  case isFalse => exact absurd hx hnone

theorem State.eyeDone_frame : Touches State.eyeDone_foot s (s.eyeDone k) :=
  State.eyeDone_touches (fun _ h => h) (.refl _ s)

/-- An output that has no edge and no pulse left is DONE (R367). -/
theorem State.eyeDone_state : (s.eyeDone k).reg .EYE_STATE k =
    if s.reg .EYE_STATE k = 1 ∧ s.reg .iEYE_LAST k = 1 ∧ s.reg .iEYE_ON k = 0 then 2 else s.reg .EYE_STATE k := by
  unfold State.eyeDone
  split
  · exact State.setReg_reg_of_lt _ _ _ (by decide)
  · rfl

end

theorem OnlyAt.eyeDone {s t : State} {l : List Reg} {k : Nat} (h : OnlyAt s t l k) : OnlyAt s (t.eyeDone k) l k :=
  .ite (h.setReg _ _) h

section
variable (s : State) (k : Nat)

theorem State.frameArmed_onlyAt : OnlyAt s (s.frameArmed k) [.EYE_STATE] k := by
  have harmed : OnlyAt s (s.armed k) [.EYE_STATE] k :=
    ((((OnlyAt.refl s _ k).setReg .EYE_STATE 1).setReg .iEYE_K _).setReg .iEYE_LAST _).setReg .iEYE_FRAME 0
  exact harmed.touches (s.frameArmed_frame k) (by decide) (by decide)

/-- What an accepted ARM of an output with a mode leaves. -/
theorem State.armEye_armed (hmode : s.reg .EYE_MODE k ≠ 0) :
    (s.armEye k).Holds .iEYE_K k (s.armedFirst k) ∧
    (s.armEye k).reg .EYE_STATE k = (if s.armedSpent k = true ∧ s.reg .iEYE_ON k = 0 then 2 else 1) ∧
    (∀ x ∈ (s.armEye k).eyeEdges, x.1 = k → s.reg .EYE_MODE k = 3 ∧
      x.2 = s.reg .iG_B3 (s.reg .EYE_GEN k) + 3 * s.eyeOffset k ∧ reached16 s.now16 (edgeAt3 x.2) = false) ∧
    OnlyAt s (s.armEye k) [.EYE_STATE] k := by
  have harm : s.armEye k = (s.frameArmed k).eyeDone k := (s.armEye_eq k).trans (if_neg hmode)
  obtain ⟨hfirst, hstate, hlast⟩ := s.armed_reg k
  have hframe := s.frameArmed_frame k
  have hdone := (s.frameArmed k).eyeDone_frame k
  have hon : (s.frameArmed k).reg .iEYE_ON k = s.reg .iEYE_ON k :=
    (hframe.reg _ _ (by decide) (by decide)).trans ((s.armed_frame k).reg _ _ (by decide) (by decide))
  rw [harm]
  refine ⟨(hdone.reg _ _ (by decide) (by decide)).trans ((hframe.reg _ _ (by decide) (by decide)).trans hfirst), ?_,
    fun x hx hk => ?_, (s.frameArmed_onlyAt k).eyeDone⟩
  · rw [State.eyeDone_state, hon, hframe.reg .EYE_STATE k (by decide) (by decide), hstate,
      hframe.reg .iEYE_LAST k (by decide) (by decide), hlast]
    refine if_congr ?_ rfl rfl
    cases s.armedSpent k <;> simp [b2n]
  · have hedges : ((s.frameArmed k).eyeDone k).eyeEdges = (s.frameArmed k).eyeEdges :=
      hdone.fld .eyeEdges (by decide) (by decide)
    exact s.frameArmed_edges k (hedges ▸ hx) hk

theorem State.armEye_status : (s.armEye k).status = s.status :=
  (State.armEye_touches (W := State.armEye_foot) (fun _ h => h) (.refl _ s)).fld .status (by decide) (by decide)

end

/-- The ARM of an output: refused in the past or with too short a period, and performed otherwise. -/
def State.armAsked (s : State) (k : Nat) : State :=
  if s.reg .EYE_MODE k = 1 ∧ asInt 64 (s.reg .EYE_START k + 2 ^ 64 - s.now) < 1000 then s.refuse Code.eyePast
  else if s.reg .EYE_MODE k = 2 ∧ s.reg .EYE_PERIOD k ≤ s.reg .EYE_WIDTH k * 65536 then s.refuse Code.eyeBad
  else s.armEye k

theorem eyeCtrlArm_completes (acc : Accessor) (e : Fin 8) (s : State) (hp : s.Passes acc .EYE_CTRL e.val 1) :
    let k := e.val
    let mode := s.reg .EYE_MODE k
    if mode = 1 ∧ asInt 64 (s.reg .EYE_START k + 2 ^ 64 - s.now) < 1000 then
      exec (.eyeCtrlArm acc e) s = .next (s.answered acc .EYE_CTRL k Code.eyePast)
    else if mode = 2 ∧ s.reg .EYE_PERIOD k ≤ s.reg .EYE_WIDTH k * 65536 then
      exec (.eyeCtrlArm acc e) s = .next (s.answered acc .EYE_CTRL k Code.eyeBad)
    else if mode = 0 then exec (.eyeCtrlArm acc e) s = .next (s.answered acc .EYE_CTRL k 0)
    else
      let first := if mode = 2 then s.firstK k else 0
      let spent := mode = 2 ∧ s.reg .EYE_COUNT k ≠ 0 ∧ s.reg .EYE_COUNT k ≤ first
      ∃ t, exec (.eyeCtrlArm acc e) s = .next t ∧ Touches Changes.eyeCtrlArm s t ∧
        (t.status = 0 ∧ t.Holds .iEYE_K k first ∧
         t.reg .EYE_STATE k = (if spent ∧ s.reg .iEYE_ON k = 0 then 2 else 1) ∧
         (∀ x ∈ t.eyeEdges, x.1 = k → mode = 3 ∧ x.2 = s.reg .iG_B3 (s.reg .EYE_GEN k) + 3 * s.eyeOffset k ∧
           reached16 s.now16 (edgeAt3 x.2) = false) ∧ ∀ j, k ≠ j → t.reg .EYE_STATE j = s.reg .EYE_STATE j) := by
  intro k mode
  have hc : exec (.eyeCtrlArm acc e) s = .next (writeParam s acc .EYE_CTRL e.val 1 (fun t => t.armAsked k)) := rfl
  split
  case isTrue hpast => exact write_refused hc hp (if_pos hpast)
  case isFalse hpast =>
    split
    case isTrue hbad => exact write_refused hc hp ((if_neg hpast).trans (if_pos hbad))
    case isFalse hbad =>
      split
      case isTrue hoff =>
        exact write_refused (code := 0) hc hp ((if_neg hpast).trans ((if_neg hbad).trans
          (((s.setStatus 0).armEye_eq k).trans (if_pos hoff))))
      case isFalse hoff =>
        intro first spent
        obtain ⟨hfirst, hstate, hedges, honly⟩ := (s.setStatus 0).armEye_armed k hoff
        have hspent : (s.setStatus 0).armedSpent k = true ↔ spent := by
          unfold State.armedSpent
          simp only [Bool.and_eq_true, beq_iff_eq, bne_iff_ne, decide_eq_true_eq, and_assoc]
          exact Iff.rfl
        have harmed : (s.setStatus 0).armAsked k = (s.setStatus 0).armEye k := (if_neg hpast).trans (if_neg hbad)
        refine write_completes hc hp (execEyeCtrlArm_touches (by decide) (.refl _ s)) ?_
        rw [harmed]
        refine ⟨?_, ?_, ?_, ?_, fun j hj => ?_⟩
        · rw [State.noteAccess_status, State.armEye_status]
          rfl
        · exact (State.noteAccess_reg _ _ _ _ (by decide) (by decide)).trans hfirst
        · rw [State.noteAccess_reg _ _ _ _ (by decide) (by decide), hstate]
          exact if_congr (and_congr_left fun _ => hspent) rfl rfl
        · intro x hx
          rw [State.noteAccess_eyeEdges] at hx
          exact hedges x hx
        · rw [State.noteAccess_reg _ _ _ _ (by decide) (by decide)]
          exact honly .EYE_STATE (by decide) j hj

section
variable (s : State) (k : Nat)

/-- Nothing of the output is scheduled, and it is IDLE (R367). -/
def State.unscheduled : State :=
  (({ s with eyeEdges := s.eyeEdges.filter (fun x => x.1 != k) } : State).setReg .EYE_STATE k 0).setReg .iEYE_LAST k 1

theorem State.unscheduled_frame :
    Touches (Sys2Proof.Machine.regs [.EYE_STATE, .iEYE_LAST] ++ flds [.eyeEdges]) s (s.unscheduled k) :=
  State.setReg_touches (by decide) (State.setReg_touches (by decide) ((Touches.refl _ s).other
    (fun f => by cases f <;> first | exact .inr rfl | exact .inl (by decide)) rfl rfl rfl rfl rfl rfl rfl))

/-- A pulse of width 0 ends at once. -/
def State.disarmed : State := if s.reg .iEYE_END k = 0 then (s.unscheduled k).setReg .iEYE_ON k 0 else s.unscheduled k

theorem State.disarmed_reg : (s.disarmed k).reg .EYE_STATE k = 0 ∧
    (s.disarmed k).reg .iEYE_ON k = (if s.reg .iEYE_END k = 0 then 0 else s.reg .iEYE_ON k) := by
  have hstate : (s.unscheduled k).reg .EYE_STATE k = 0 :=
    (State.setReg_reg_of_ne _ _ _ _ (by decide)).trans (State.setReg_reg_of_lt _ _ _ (by decide))
  unfold State.disarmed
  split
  · exact ⟨(State.setReg_reg_of_ne _ _ _ _ (by decide)).trans hstate, State.setReg_reg_of_lt _ _ _ (by decide)⟩
  · exact ⟨hstate, (s.unscheduled_frame k).reg _ _ (by decide) (by decide)⟩

theorem State.disarmed_onlyAt (l : List Reg) : OnlyAt s (s.disarmed k) l k := by
  have hunscheduled : OnlyAt s (s.unscheduled k) l k := ((OnlyAt.refl s l k : OnlyAt s
    ({ s with eyeEdges := s.eyeEdges.filter (fun x => x.1 != k) } : State) l k).setReg .EYE_STATE 0).setReg .iEYE_LAST 1
  exact .ite (hunscheduled.setReg .iEYE_ON 0) hunscheduled

theorem State.disarmed_edges : (s.disarmed k).eyeEdges = s.eyeEdges.filter (fun x => x.1 != k) := by
  unfold State.disarmed
  split <;> rfl

theorem State.disarmed_status : (s.disarmed k).status = s.status := by
  have hframe := s.unscheduled_frame k
  unfold State.disarmed
  split
  · exact (State.setReg_status ..).trans (hframe.fld .status (by decide) (by decide))
  · exact hframe.fld .status (by decide) (by decide)

/-- An output that is not ARMED has no edge to come. -/
theorem State.nextEdge_of_not_armed (h : s.reg .EYE_STATE k ≠ 1) : s.nextEdge k = none := if_pos (.inl h)

end

theorem eyeCtrlDisarm_completes (acc : Accessor) (e : Fin 8) (s : State) (hp : s.Passes acc .EYE_CTRL e.val 2) :
    ∃ t, exec (.eyeCtrlDisarm acc e) s = .next t ∧ Touches Changes.eyeCtrlDisarm s t ∧
      (t.status = 0 ∧ t.reg .EYE_STATE e.val = 0 ∧ t.nextEdge e.val = none ∧
       t.eyeEdges = s.eyeEdges.filter (fun x => x.1 != e.val) ∧
       t.reg .iEYE_ON e.val = (if s.reg .iEYE_END e.val = 0 then 0 else s.reg .iEYE_ON e.val) ∧
       ∀ j, e.val ≠ j → t.reg .EYE_STATE j = s.reg .EYE_STATE j ∧ t.reg .iEYE_ON j = s.reg .iEYE_ON j) := by
  have hc : exec (.eyeCtrlDisarm acc e) s = .next (writeParam s acc .EYE_CTRL e.val 2 (fun t => t.disarmed e.val)) := rfl
  obtain ⟨hstate, hon⟩ := (s.setStatus 0).disarmed_reg e.val
  have honly := (s.setStatus 0).disarmed_onlyAt e.val [.EYE_STATE, .iEYE_ON]
  have hnoted (id : Nat) : (((s.setStatus 0).disarmed e.val).noteAccess acc id).reg .EYE_STATE e.val = 0 :=
    (State.noteAccess_reg _ _ _ _ (by decide) (by decide)).trans hstate
  refine write_completes hc hp (execEyeCtrlDisarm_touches (by decide) (.refl _ s)) ⟨?_, hnoted _,
    State.nextEdge_of_not_armed _ _ (by rw [hnoted]; decide), ?_, ?_, fun j hj => ⟨?_, ?_⟩⟩
  · rw [State.noteAccess_status, State.disarmed_status]
    rfl
  · rw [State.noteAccess_eyeEdges, State.disarmed_edges]
    rfl
  · exact (State.noteAccess_reg _ _ _ _ (by decide) (by decide)).trans hon
  · exact (State.noteAccess_reg _ _ _ _ (by decide) (by decide)).trans (honly .EYE_STATE (by decide) j hj)
  · exact (State.noteAccess_reg _ _ _ _ (by decide) (by decide)).trans (honly .iEYE_ON (by decide) j hj)

/-! ## Timing parameters -/

theorem eyeReg_injective : Function.Injective eyeReg := by
  intro p q h
  cases p <;> cases q <;> first | rfl | cases h

theorem eyeReg_ne_noted (p : EyeParam) : eyeReg p ≠ .iACC_STATUS ∧ eyeReg p ≠ .iACC_ID := by
  cases p <;> exact ⟨by decide, by decide⟩

theorem eyeParamWrite_completes (acc : Accessor) (e : Fin 8) (p : EyeParam) (v : Nat) (s : State)
    (hp : s.Passes acc (eyeReg p) e.val v) :
    if s.reg .EYE_STATE e.val = 1 then
      exec (.eyeParamWrite acc e p v) s = .next (s.answered acc (eyeReg p) e.val Code.eyeBusy)
    else
      ∃ t, exec (.eyeParamWrite acc e p v) s = .next t ∧ Touches Changes.eyeParamWrite s t ∧
        (t.status = 0 ∧ t.Holds (eyeReg p) e.val v ∧
         (∀ j, e.val ≠ j → t.reg (eyeReg p) j = s.reg (eyeReg p) j) ∧
         ∀ q, q ≠ p → t.reg (eyeReg q) e.val = s.reg (eyeReg q) e.val) := by
  refine write_completes_unless rfl hp (execEyeParamWrite_touches (by decide) (.refl _ s)) (fun h => if_pos h)
    fun h => ?_
  have hwrite : (if (s.setStatus 0).reg .EYE_STATE e.val = 1 then (s.setStatus 0).refuse Code.eyeBusy
      else (s.setStatus 0).putReg (eyeReg p) e.val v) = (s.setStatus 0).putReg (eyeReg p) e.val v := if_neg h
  have hnoted (q : EyeParam) (j id : Nat) : (((s.setStatus 0).putReg (eyeReg p) e.val v).noteAccess acc id).reg (eyeReg q) j =
      if eyeReg p = eyeReg q ∧ e.val = j then v % 2 ^ (eyeReg p).width else s.reg (eyeReg q) j :=
    (State.noteAccess_reg _ _ _ _ (eyeReg_ne_noted q).1 (eyeReg_ne_noted q).2).trans (State.reg_putReg ..)
  rw [hwrite]
  refine ⟨(State.noteAccess_status ..).trans (State.putReg_status ..), (hnoted p _ _).trans (if_pos ⟨rfl, rfl⟩),
    fun j hj => (hnoted p _ _).trans (if_neg fun h => hj h.2),
    fun q hq => (hnoted q _ _).trans (if_neg fun h => hq (eyeReg_injective h.1).symm)⟩

/-! ## Edges and pulses (R366 to R368) -/

section
variable (s : State) (k : Nat)

/-- The output is active and its edge counted, before the next edge is due. -/
def State.edgeCounted : State :=
  ((s.setReg .iEYE_ON k 1).setReg .iEYE_END k
    (if s.reg .EYE_WIDTH k = 0 ∧ s.reg .EYE_MODE k = 1 then 0 else s.local_ + s.reg .EYE_WIDTH k * 2 ^ 48 + 1)).bump
      .EYE_EDGES k

theorem State.fireEdge_eq : s.fireEdge k = ((s.edgeCounted k).passEdge k).laceEvent (4 + k) := rfl

theorem State.fireEdge_frame :
    Touches (State.passEdge_foot ++ State.laceEvent_foot) (s.edgeCounted k) (s.fireEdge k) :=
  (State.passEdge_touches (fun _ h => h) (.refl _ _)).append (State.laceEvent_touches (fun _ h => h) (.refl _ _))

theorem State.edgeCounted_reg : (s.edgeCounted k).reg .iEYE_ON k = 1 ∧ Counted s (s.edgeCounted k) .EYE_EDGES k 1 := by
  unfold State.edgeCounted
  constructor
  · rw [State.bump, State.setReg_reg_of_ne _ _ _ _ (by decide), State.setReg_reg_of_ne _ _ _ _ (by decide)]
    exact State.setReg_reg_of_lt _ _ _ (by decide)
  · unfold Counted
    rw [State.bump, State.setReg_reg_self, State.setReg_reg_of_ne _ _ _ _ (by decide),
      State.setReg_reg_of_ne _ _ _ _ (by decide)]

theorem State.fireEdge_onlyAt : OnlyAt s (s.fireEdge k) [.iEYE_ON, .EYE_EDGES] k := by
  have hcounted : OnlyAt s (s.edgeCounted k) [.iEYE_ON, .EYE_EDGES] k :=
    (((OnlyAt.refl s _ k).setReg .iEYE_ON 1).setReg .iEYE_END _).bump .EYE_EDGES
  exact hcounted.touches (s.fireEdge_frame k) (by decide) (by decide)

end

theorem eyeAssertEdge_completes (e : Fin 8) (s : State) :
    match s.nextEdge e.val with
    | none => exec (.eyeAssertEdge e) s = .next s
    | some x =>
      if reached16 s.now16 x then
        ∃ t, exec (.eyeAssertEdge e) s = .next t ∧ Touches Changes.eyeAssertEdge s t ∧
          (t.reg .iEYE_ON e.val = 1 ∧ Counted s t .EYE_EDGES e.val 1 ∧
           ∀ j, e.val ≠ j → t.reg .iEYE_ON j = s.reg .iEYE_ON j ∧ t.reg .EYE_EDGES j = s.reg .EYE_EDGES j)
      else exec (.eyeAssertEdge e) s = .next s := by
  have hc : exec (.eyeAssertEdge e) s = match s.nextEdge e.val with
      | none => .next s
      | some t => if reached16 s.now16 t then .next (s.fireEdge e.val) else .next s := rfl
  split
  case h_1 hnone => rw [hc, hnone]
  case h_2 x hsome =>
    rw [hsome] at hc
    obtain ⟨hon, hcount⟩ := s.edgeCounted_reg e.val
    have hframe := s.fireEdge_frame e.val
    have honly := s.fireEdge_onlyAt e.val
    exact completes_if hc (execEyeAssertEdge_touches (by decide) (.refl _ s)) fun _ =>
      ⟨(hframe.reg _ _ (by decide) (by decide)).trans hon, (hframe.reg _ _ (by decide) (by decide)).trans hcount,
        fun j hj => ⟨honly .iEYE_ON (by decide) j hj, honly .EYE_EDGES (by decide) j hj⟩⟩

theorem eyePulseEnd_completes (e : Fin 8) (s : State) :
    if s.reg .iEYE_ON e.val = 1 ∧ s.reg .iEYE_END e.val ≠ 0 ∧ s.reg .iEYE_END e.val ≤ s.local_ + 1 then
      ∃ t, exec (.eyePulseEnd e) s = .next t ∧ Touches (regs [.iEYE_ON, .EYE_STATE]) s t ∧
        (t.reg .iEYE_ON e.val = 0 ∧
         t.reg .EYE_STATE e.val = (if s.reg .EYE_STATE e.val = 1 ∧ s.reg .iEYE_LAST e.val = 1 then 2
           else s.reg .EYE_STATE e.val) ∧
         ∀ j, e.val ≠ j → t.reg .iEYE_ON j = s.reg .iEYE_ON j ∧ t.reg .EYE_STATE j = s.reg .EYE_STATE j)
    else exec (.eyePulseEnd e) s = .next s := by
  have hoff : (s.setReg .iEYE_ON e.val 0).reg .iEYE_ON e.val = 0 := State.setReg_reg_of_lt _ _ _ (by decide)
  have honly : OnlyAt s ((s.setReg .iEYE_ON e.val 0).eyeDone e.val) [.iEYE_ON, .EYE_STATE] e.val :=
    ((OnlyAt.refl s _ e.val).setReg .iEYE_ON 0).eyeDone
  refine completes_if rfl (execEyePulseEnd_touches (by decide) (.refl _ s)) fun _ =>
    ⟨((State.eyeDone_frame _ e.val).reg _ _ (by decide) (by decide)).trans hoff, ?_,
      fun j hj => ⟨honly .iEYE_ON (by decide) j hj, honly .EYE_STATE (by decide) j hj⟩⟩
  rw [State.eyeDone_state, hoff, State.setReg_reg_of_ne _ _ _ _ (by decide), State.setReg_reg_of_ne _ _ _ _ (by decide)]
  exact if_congr (by simp) rfl rfl

/-! ## Captures (R370) -/

section
variable (s : State) (k : Nat) (fall : Bool) (held stamp : Nat)

/-- Whether an edge is one that CAP_EDGE and CAP_FILTER let pass. -/
def State.edgeDropped : Prop :=
  (if fall then s.reg .CAP_EDGE k < 2 else s.reg .CAP_EDGE k % 2 = 0) ∨ held < 2 * s.reg .CAP_FILTER k

/-- Whether an edge falls into the holdoff after the last one counted. -/
def State.inHoldoff : Prop :=
  s.reg .iCAP_AT k ≠ 0 ∧ since16 stamp (s.reg .iCAP_AT k - 1 : Nat) < (s.reg .CAP_HOLDOFF k * 65536 : Nat) ∧
    0 ≤ since16 stamp (s.reg .iCAP_AT k - 1 : Nat)

/-- An edge is counted, before its record joins the queue. -/
def State.edgeSeen : State := (s.bump .CAP_COUNT k).setReg .iCAP_AT k (stamp + 1)

/-- An edge that finds 16 records held is counted in CAP_OVERFLOW, and reported once. -/
def State.edgeLost : State :=
  if (s.bump .CAP_OVERFLOW k).reg .iCAP_FULL k = 1 then s.bump .CAP_OVERFLOW k
  else ((s.bump .CAP_OVERFLOW k).setReg .iCAP_FULL k 1).raise Code.eyeOverflow
    (some ((s.bump .CAP_OVERFLOW k).reg .CAP_QUEUE k)) [(8, k)]

/-- The number that a record carries. -/
def State.edgeSeq : Nat := s.reg .CAP_COUNT k % 65536

/-- The record of an edge. -/
def State.edgeRecord : Nat :=
  packBits [(1, b2n fall), (1, s.reg .iCAP_STEPPED k), (1, b2n !s.timeLocked), (29, 0), (16, s.edgeSeq k),
    (16, stamp % 65536), (64, stamp / 65536 % 2 ^ 64)]

/-- The record joins the queue, before the edge is reported. -/
def State.edgeQueued : State :=
  ({ s with caps := s.caps ++ [(k, s.edgeRecord k fall stamp)] } : State).setReg .iCAP_STEPPED k 0

/-- The record joins the queue and EYE_CAPTURE is raised. -/
def State.edgeTaken : State :=
  (s.edgeQueued k fall stamp).raise Code.eyeCapture (some ((s.edgeQueued k fall stamp).reg .CAP_QUEUE k))
    [(8, k), (16, s.edgeSeq k), (64, stamp / 65536 % 2 ^ 64)]

theorem execCaptureEdge_eq (e : Fin 8) : exec (.captureEdge e fall held stamp) s =
    if (if fall then s.reg .CAP_EDGE e.val < 2 else s.reg .CAP_EDGE e.val % 2 = 0) ∨ held < 2 * s.reg .CAP_FILTER e.val
    then .next s
    else if s.reg .iCAP_AT e.val ≠ 0 ∧ since16 stamp (s.reg .iCAP_AT e.val - 1 : Nat) <
          (s.reg .CAP_HOLDOFF e.val * 65536 : Nat) ∧ 0 ≤ since16 stamp (s.reg .iCAP_AT e.val - 1 : Nat) then
      .next (s.bump .CAP_IGNORED e.val)
    else if 16 ≤ (s.edgeSeen e.val stamp).capHeld e.val then .next ((s.edgeSeen e.val stamp).edgeLost e.val)
    else .next ((s.edgeSeen e.val stamp).edgeTaken e.val fall stamp) := by
  have hlost (u : State) (k : Nat) : (.next (u.edgeLost k) : Out) =
      if (u.bump .CAP_OVERFLOW k).reg .iCAP_FULL k = 1 then .next (u.bump .CAP_OVERFLOW k)
      else .next (((u.bump .CAP_OVERFLOW k).setReg .iCAP_FULL k 1).raise Code.eyeOverflow
        (some ((u.bump .CAP_OVERFLOW k).reg .CAP_QUEUE k)) [(8, k)]) := apply_ite (Host.Outcome.next : State → Out) ..
  rw [hlost]
  rfl

theorem State.edgeSeen_frame : Touches (Sys2Proof.Machine.regs [.CAP_COUNT, .iCAP_AT]) s (s.edgeSeen k stamp) :=
  State.setReg_touches (by decide) (State.setReg_touches (by decide) (.refl _ s))

theorem State.edgeSeen_count : Counted s (s.edgeSeen k stamp) .CAP_COUNT k 1 :=
  (State.setReg_reg_of_ne _ _ _ _ (by decide)).trans (State.setReg_reg_self ..)

/-- A lost edge leaves the records and counts. -/
theorem State.edgeLost_lost : (s.edgeLost k).caps = s.caps ∧ Counted s (s.edgeLost k) .CAP_OVERFLOW k 1 ∧
    (s.edgeLost k).reg .CAP_COUNT k = s.reg .CAP_COUNT k ∧
    (s.edgeLost k).lastEvent =
      (if s.reg .iCAP_FULL k = 1 then s.lastEvent else some (Code.eyeOverflow, packBits [(8, k)])) := by
  have hfull : (s.bump .CAP_OVERFLOW k).reg .iCAP_FULL k = s.reg .iCAP_FULL k := (s.reg_bump ..).trans (if_neg (by simp))
  have hcount : Counted s (s.bump .CAP_OVERFLOW k) .CAP_OVERFLOW k 1 := State.setReg_reg_self ..
  have hother : (s.bump .CAP_OVERFLOW k).reg .CAP_COUNT k = s.reg .CAP_COUNT k := (s.reg_bump ..).trans (if_neg (by simp))
  unfold State.edgeLost
  rw [hfull]
  split
  case isTrue h => exact ⟨rfl, hcount, hother, State.lastEvent_of_evLog rfl⟩
  case isFalse h =>
    have hframe : Touches (State.raise_foot ++ [.reg .iCAP_FULL]) (s.bump .CAP_OVERFLOW k)
        (((s.bump .CAP_OVERFLOW k).setReg .iCAP_FULL k 1).raise Code.eyeOverflow
          (some ((s.bump .CAP_OVERFLOW k).reg .CAP_QUEUE k)) [(8, k)]) :=
      State.raise_touches (by decide) (State.setReg_touches (by decide) (.refl _ _))
    exact ⟨hframe.fld .caps (by decide) (by decide), (hframe.reg _ _ (by decide) (by decide)).trans hcount,
      (hframe.reg _ _ (by decide) (by decide)).trans hother, State.raise_lastEvent ..⟩

theorem State.edgeTaken_taken : (s.edgeTaken k fall stamp).caps = s.caps ++ [(k, s.edgeRecord k fall stamp)] ∧
    (s.edgeTaken k fall stamp).reg .CAP_COUNT k = s.reg .CAP_COUNT k ∧
    (s.edgeTaken k fall stamp).lastEvent =
      some (Code.eyeCapture, packBits [(8, k), (16, s.edgeSeq k), (64, stamp / 65536 % 2 ^ 64)]) := by
  have hframe : Touches State.raise_foot (s.edgeQueued k fall stamp) (s.edgeTaken k fall stamp) :=
    State.raise_touches (fun _ h => h) (.refl _ _)
  exact ⟨hframe.fld .caps (by decide) (by decide), (hframe.reg _ _ (by decide) (by decide)).trans
    (State.setReg_reg_of_ne _ _ _ _ (by decide)), State.raise_lastEvent ..⟩

/-- The record is taken from the registers as the edge found them, but for the count. -/
theorem State.edgeSeen_record : (s.edgeSeen k stamp).edgeRecord k fall stamp =
    packBits [(1, b2n fall), (1, s.reg .iCAP_STEPPED k), (1, b2n !s.timeLocked), (29, 0),
      (16, (s.edgeSeen k stamp).edgeSeq k), (16, stamp % 65536), (64, stamp / 65536 % 2 ^ 64)] := by
  have hframe := s.edgeSeen_frame k stamp
  have hlocked : (s.edgeSeen k stamp).timeLocked = s.timeLocked := by
    unfold State.timeLocked State.discState
    rw [hframe.reg .CK_REF_STATE 0 (by decide) (by decide), hframe.reg .TB_SOURCE 0 (by decide) (by decide),
      hframe.reg .iSERVO 0 (by decide) (by decide), hframe.reg .iSYNC_STATE 0 (by decide) (by decide)]
  unfold State.edgeRecord
  rw [hlocked, hframe.reg .iCAP_STEPPED k (by decide) (by decide)]

end

theorem captureEdge_completes (e : Fin 8) (fall : Bool) (held stamp : Nat) (s : State) :
    let k := e.val
    let chosen := if fall then 2 ≤ s.reg .CAP_EDGE k else s.reg .CAP_EDGE k % 2 = 1
    let since := since16 stamp (s.reg .iCAP_AT k - 1 : Nat)
    if ¬ chosen ∨ held < 2 * s.reg .CAP_FILTER k then exec (.captureEdge e fall held stamp) s = .next s
    else if s.reg .iCAP_AT k ≠ 0 ∧ since < (s.reg .CAP_HOLDOFF k * 65536 : Nat) ∧ 0 ≤ since then
      ∃ t, exec (.captureEdge e fall held stamp) s = .next t ∧ Touches Changes.captureEdge s t ∧
        Counted s t .CAP_IGNORED k 1 ∧ t.caps = s.caps ∧
        t.reg .CAP_COUNT k = s.reg .CAP_COUNT k
    else
      ∃ t, exec (.captureEdge e fall held stamp) s = .next t ∧ Touches Changes.captureEdge s t ∧
        Counted s t .CAP_COUNT k 1 ∧
        if 16 ≤ s.capHeld k then
          t.caps = s.caps ∧ Counted s t .CAP_OVERFLOW k 1 ∧
          t.lastEvent = (if s.reg .iCAP_FULL k = 1 then s.lastEvent else some (Code.eyeOverflow, packBits [(8, k)]))
        else
          let seq := t.reg .CAP_COUNT k % 65536
          t.caps = s.caps ++ [(k, packBits [(1, b2n fall), (1, s.reg .iCAP_STEPPED k), (1, b2n !s.timeLocked),
            (29, 0), (16, seq), (16, stamp % 65536), (64, stamp / 65536 % 2 ^ 64)])] ∧
          t.lastEvent = some (Code.eyeCapture, packBits [(8, k), (16, seq), (64, stamp / 65536 % 2 ^ 64)]) := by
  intro k chosen since
  have hW := execCaptureEdge_touches (W := Changes.captureEdge) (e := e) (fall := fall) (held := held) (stamp := stamp)
    (by decide) (.refl _ s)
  have hc := execCaptureEdge_eq s fall held stamp e
  have hchosen : (if fall then s.reg .CAP_EDGE k < 2 else s.reg .CAP_EDGE k % 2 = 0) ↔ ¬ chosen := by
    cases fall
    · show s.reg .CAP_EDGE k % 2 = 0 ↔ ¬ s.reg .CAP_EDGE k % 2 = 1
      omega
    · exact Nat.not_le.symm
  have hframe := s.edgeSeen_frame k stamp
  split
  case isTrue h => exact hc.trans (if_pos (h.imp_left hchosen.2))
  case isFalse h =>
    rw [if_neg fun hdrop => h (hdrop.imp_left hchosen.1)] at hc
    split
    case isTrue hhold =>
      exact completes_of_next (hc.trans (if_pos hhold)) hW ⟨State.setReg_reg_self .., rfl,
        (s.reg_bump ..).trans (if_neg (by simp))⟩
    case isFalse hhold =>
      rw [if_neg hhold] at hc
      have hcount := s.edgeSeen_count k stamp
      by_cases hfull : 16 ≤ s.capHeld k
      · replace hc := hc.trans (if_pos hfull)
        simp only [if_pos hfull]
        obtain ⟨hcaps, hoverflow, hsame, hevent⟩ := (s.edgeSeen k stamp).edgeLost_lost k
        rw [hframe.reg .iCAP_FULL k (by decide) (by decide)] at hevent
        exact completes_of_next hc hW ⟨hsame.trans hcount, hcaps, hoverflow.trans (by
          rw [hframe.reg .CAP_OVERFLOW k (by decide) (by decide)]), hevent⟩
      · replace hc := hc.trans (if_neg hfull)
        simp only [if_neg hfull]
        obtain ⟨hcaps, hsame, hevent⟩ := (s.edgeSeen k stamp).edgeTaken_taken k fall stamp
        rw [State.edgeSeen_record] at hcaps
        refine completes_of_next hc hW ⟨hsame.trans hcount, ?_, ?_⟩
        · rw [hcaps, hsame]
          rfl
        · rw [hevent, hsame]
          rfl

/-- Settles O18: the outputs and the captures of the Eyelet. -/
theorem eyeletCommands : Obligations.EyeletCommands :=
  ⟨eyeCtrlArm_completes, eyeCtrlDisarm_completes, eyeParamWrite_completes, eyeAssertEdge_completes,
    eyePulseEnd_completes, captureEdge_completes⟩

end Sys2Proof.Machine
end

section
/-! Service life (R503): the counters of a minute, the record of an hour, and the SMBus target (R517). -/
namespace Sys2Proof.Machine

/-! ## A minute of life -/

section
variable (s : State)

/-- The equivalent minutes counted: nominal within 1 %, and those held before. -/
def State.equivDrawn (nominal : Nat) : Nat := nominal * 99 / 100 + Config.noise s.draws % (nominal / 50 + 1)

/-- Equivalent minutes collected, and the whole hours counted. -/
def State.lifeEquiv (eq : Nat) : State :=
  (s.setReg .iEQUIV_MIN 0 (eq % (60 * 2 ^ 32))).bumpBy .LF_EQUIV_H 0 (eq / (60 * 2 ^ 32))

/-- A minute in a band of the histogram. -/
def State.lifeBand (b : Nat) : State :=
  (s.setReg .iHIST_MIN b ((s.reg .iHIST_MIN b + 1) % 60)).setReg .LF_TJ_HIST 0
    (blobSet (s.reg .LF_TJ_HIST 0) (4 * b) 4 (blobGet (s.reg .LF_TJ_HIST 0) (4 * b) 4 + (s.reg .iHIST_MIN b + 1) / 60))

/-- A minute counted, with its temperature in the sum. -/
def State.lifeMinute (hot : Int) : State :=
  ((s.setReg .iMIN_COUNT 0 ((s.reg .iMIN_COUNT 0 + 1) % 60)).bumpBy .LF_HOURS 0
    ((s.reg .iMIN_COUNT 0 + 1) / 60)).setRegInt .iTJ_SUM 0 (s.regInt .iTJ_SUM 0 + hot)

/-- The mean over every minute counted. -/
def State.lifeMean : State :=
  s.setRegInt .LF_TJ_MEAN 0 (s.regInt .iTJ_SUM 0 / (60 * s.reg .LF_HOURS 0 + s.reg .iMIN_COUNT 0 : Nat))

/-- The part of the life used is shown, and the next minute begins. -/
def State.lifeShown : State :=
  (s.setReg .LF_LIFE_USED 0 (lifeUsed Config.idGrade (s.reg .LF_EQUIV_H 0))).setReg .iMIN_MAX 0 0x8000

/-- The state with a value of the noise source drawn. -/
def State.drawn : State := { s with draws := s.draws + 1 }

/-- The minute's steps one after another, for the hottest reading of the minute. -/
def State.minuteCounted (hot : Int) : State :=
  ((((s.drawn.lifeEquiv (s.equivDrawn (equivRate hot) + s.drawn.reg .iEQUIV_MIN 0)).lifeBand (tjBand hot)).lifeMinute
    hot).lifeMean).lifeShown

theorem execLifetimeMinute_eq : exec .lifetimeMinute s =
    .next (s.minuteCounted (max (s.regInt .iMIN_MAX 0) s.junction)) := by
  show execLifetimeMinute s = _
  unfold execLifetimeMinute State.minuteCounted
  simp only [State.draw, wholeHours, -Nat.reduceMul, -Nat.reducePow]
  simp only [← State.drawn.eq_1, ← State.equivDrawn.eq_1, ← State.lifeEquiv.eq_1, ← State.lifeBand.eq_1, ← State.lifeMinute.eq_1,
    ← State.lifeMean.eq_1, ← State.lifeShown.eq_1]

theorem State.drawn_frame : Touches (flds [.draws]) s s.drawn :=
  (Touches.refl _ s).other (fun f => by cases f <;> first | exact .inr rfl | exact .inl (by decide)) rfl rfl rfl rfl rfl
    rfl rfl

theorem State.lifeEquiv_frame (eq : Nat) : Touches (Sys2Proof.Machine.regs [.iEQUIV_MIN, .LF_EQUIV_H]) s (s.lifeEquiv eq) :=
  State.setReg_touches (by decide) (State.setReg_touches (by decide) (.refl _ s))

theorem State.lifeBand_frame (b : Nat) : Touches (Sys2Proof.Machine.regs [.iHIST_MIN, .LF_TJ_HIST]) s (s.lifeBand b) :=
  State.setReg_touches (by decide) (State.setReg_touches (by decide) (.refl _ s))

theorem State.lifeMinute_frame (hot : Int) :
    Touches (Sys2Proof.Machine.regs [.iMIN_COUNT, .LF_HOURS, .iTJ_SUM]) s (s.lifeMinute hot) :=
  State.setReg_touches (by decide) (State.setReg_touches (by decide) (State.setReg_touches (by decide) (.refl _ s)))

theorem State.lifeMean_frame : Touches (Sys2Proof.Machine.regs [.LF_TJ_MEAN]) s s.lifeMean :=
  State.setReg_touches (by decide) (.refl _ s)

theorem State.lifeShown_frame : Touches (Sys2Proof.Machine.regs [.LF_LIFE_USED, .iMIN_MAX]) s s.lifeShown :=
  State.setReg_touches (by decide) (State.setReg_touches (by decide) (.refl _ s))

theorem State.lifeEquiv_reg (eq : Nat) : (s.lifeEquiv eq).reg .iEQUIV_MIN 0 = eq % (60 * 2 ^ 32) ∧
    Counted s (s.lifeEquiv eq) .LF_EQUIV_H 0 (eq / (60 * 2 ^ 32)) := by
  constructor
  · refine (State.setReg_reg_of_ne _ _ _ _ (by decide)).trans (State.setReg_reg_of_lt _ _ _ ?_)
    exact Nat.lt_trans (Nat.mod_lt _ (by decide)) (by decide)
  · exact (State.setReg_reg_self ..).trans
      (congrArg (fun x => (x + _) % _) (State.setReg_reg_of_ne _ _ _ _ (by decide)))

theorem State.lifeBand_reg {b : Nat} (hb : b < 16) :
    (s.lifeBand b).reg .iHIST_MIN b = (s.reg .iHIST_MIN b + 1) % 60 ∧ OnlyAt s (s.lifeBand b) [.iHIST_MIN] b ∧
    blobGet ((s.lifeBand b).reg .LF_TJ_HIST 0) (4 * b) 4 =
      (blobGet (s.reg .LF_TJ_HIST 0) (4 * b) 4 + (s.reg .iHIST_MIN b + 1) / 60) % 2 ^ 32 := by
  have hmin : (s.reg .iHIST_MIN b + 1) % 60 < 2 ^ Reg.width .iHIST_MIN :=
    Nat.lt_trans (Nat.mod_lt _ (by decide)) (by decide)
  have honly : OnlyAt s (s.setReg .iHIST_MIN b ((s.reg .iHIST_MIN b + 1) % 60)) [.iHIST_MIN] b :=
    OnlyAt.setReg (.refl s _ b) _ _
  have hhist : Touches (Sys2Proof.Machine.regs [.LF_TJ_HIST]) (s.setReg .iHIST_MIN b _) (s.lifeBand b) :=
    State.setReg_touches (by decide) (.refl _ _)
  refine ⟨?_, honly.touches hhist (by decide) (by decide), ?_⟩
  · exact (State.setReg_reg_of_ne _ _ _ _ (by decide)).trans (State.setReg_reg_of_lt _ _ _ hmin)
  · exact (congrArg (blobGet · (4 * b) 4) (State.setReg_reg_self ..)).trans
      ((blobGet_of_mod (w := Reg.width .LF_TJ_HIST) _ (by decide) (show 8 * (4 * b + 4) ≤ 512 by omega)).trans
        (blobGet_blobSet _ _ (by decide)))

theorem State.lifeMinute_reg (hot : Int) :
    (s.lifeMinute hot).reg .iMIN_COUNT 0 = (s.reg .iMIN_COUNT 0 + 1) % 60 ∧
    Counted s (s.lifeMinute hot) .LF_HOURS 0 ((s.reg .iMIN_COUNT 0 + 1) / 60) ∧
    (s.lifeMinute hot).Holds .iTJ_SUM 0 (ofInt Reg.iTJ_SUM.width (s.regInt .iTJ_SUM 0 + hot)) := by
  have hmin : (s.reg .iMIN_COUNT 0 + 1) % 60 < 2 ^ Reg.width .iMIN_COUNT :=
    Nat.lt_trans (Nat.mod_lt _ (by decide)) (by decide)
  refine ⟨?_, ?_, State.setReg_reg_self ..⟩
  · exact (State.setReg_reg_of_ne _ _ _ _ (by decide)).trans
      ((State.setReg_reg_of_ne _ _ _ _ (by decide)).trans (State.setReg_reg_of_lt _ _ _ hmin))
  · exact (State.setReg_reg_of_ne _ _ _ _ (by decide)).trans ((State.setReg_reg_self ..).trans
      (congrArg (fun x => (x + _) % _) (State.setReg_reg_of_ne _ _ _ _ (by decide))))

theorem State.lifeMean_reg : s.lifeMean.Holds .LF_TJ_MEAN 0
    (ofInt 16 (s.regInt .iTJ_SUM 0 / (60 * s.reg .LF_HOURS 0 + s.reg .iMIN_COUNT 0 : Nat))) :=
  State.setReg_reg_self ..

theorem State.lifeShown_reg : s.lifeShown.Holds .LF_LIFE_USED 0 (lifeUsed Config.idGrade (s.reg .LF_EQUIV_H 0)) ∧
    s.lifeShown.reg .iMIN_MAX 0 = 0x8000 :=
  ⟨(State.setReg_reg_of_ne _ _ _ _ (by decide)).trans (State.setReg_reg_self ..),
    State.setReg_reg_of_lt _ _ _ (by decide)⟩

theorem tjBand_lt (t : Int) : tjBand t < 16 := by
  unfold tjBand
  omega

/-- The minutes drawn are within 1 % of the nominal ones. -/
theorem State.equivDrawn_bounds (nominal : Nat) : nominal * 99 / 100 ≤ s.equivDrawn nominal ∧
    s.equivDrawn nominal ≤ nominal * 99 / 100 + nominal / 50 := by
  have hx : Config.noise s.draws % (nominal / 50 + 1) < nominal / 50 + 1 := Nat.mod_lt _ (Nat.succ_pos _)
  unfold State.equivDrawn
  omega

end

/-! ## The record of an hour -/

section
variable (s : State) (ix : Nat)

theorem recordOrder_cons (payload : List Byte) :
    ∃ l, recordOrder payload [0, 1] = (0, 0) :: l := by
  have hparts : recordParts payload = (recordParts payload - 1) + 1 := by
    have : 1 ≤ recordParts payload := Nat.le_max_left ..
    omega
  unfold recordOrder
  rw [hparts, List.range_succ_eq_map]
  exact ⟨_, rfl⟩

/-- What a state holds of its pages is told by the Keeper alone. -/
theorem State.wear_records (l : List RecordWrite) (p : Nat) :
    ({ s with records := l } : State).wearOf ({ s with records := l } : State).wearMax p = s.wearOf s.wearMax p := by
  unfold State.wearOf State.wearMax
  generalize poolPages = pages
  rfl

/-- The record write that begins for an index. -/
def State.recordWrite : RecordWrite :=
  ⟨ix, match recordSeq s.poolHeads ix with
    | some q => (q + 1) % 2 ^ 32
    | none => 1, s.recordPayload ix, recordOrder (s.recordPayload ix) [0, 1], false⟩

theorem State.writeRecord_eq : s.writeRecord ix = s.startRecord (s.recordWrite ix) := by
  unfold State.writeRecord State.recordWrite
  generalize recordSeq s.poolHeads ix = q
  cases q <;> rfl

/-- An index waits for the next try of the KEEP values. -/
def State.keepWaits : State :=
  { s.cond s.keepDeferred.isEmpty (fun t => t.setReg .iKEEP_TRY 0 t.clock) with
    records := s.records.filter (fun x => x.id != ix)
    keepDeferred := if s.keepDeferred.contains ix then s.keepDeferred else s.keepDeferred ++ [ix] }

theorem State.keepWaits_frame :
    Touches (Sys2Proof.Machine.regs [.iKEEP_TRY] ++ flds [.records, .keepDeferred]) s (s.keepWaits ix) := by
  have htry : Touches (Sys2Proof.Machine.regs [.iKEEP_TRY] ++ flds [.records, .keepDeferred]) s
      (s.cond s.keepDeferred.isEmpty fun t => t.setReg .iKEEP_TRY 0 t.clock) :=
    cond_touches (.refl _ s) fun _ h => State.setReg_touches (by decide) h
  exact htry.other
    (fun f => by cases f <;> first | exact .inr rfl | exact .inl (by decide)) rfl rfl rfl rfl rfl rfl rfl

theorem State.keepWaits_deferred : ix ∈ (s.keepWaits ix).keepDeferred := by
  show ix ∈ if s.keepDeferred.contains ix then _ else _
  split
  · next h => exact List.contains_iff_mem.mp h
  · exact List.mem_append_right _ (List.mem_singleton_self _)

/-- A refused write of a KEEP value is counted, and its index waits (R383). -/
theorem State.recordRefused_waits (r : RecordWrite) (h : r.repair = false) :
    Counted s (s.recordRefused r) .KP_REFUSED 0 1 ∧ r.id ∈ (s.recordRefused r).keepDeferred ∧
    (s.recordRefused r).keeperQueue = s.keeperQueue := by
  have hraised : Touches State.raise_foot (s.keeperRefuse.keepWaits r.id) (s.recordRefused r) := by
    unfold State.recordRefused
    rw [h]
    exact foldl_touches (.refl _ _) fun _ _ h => State.raise_touches (fun _ hp => hp) h
  have hwaits := s.keeperRefuse.keepWaits_frame r.id
  refine ⟨?_, ?_, ?_⟩
  · refine (hraised.reg _ _ (by decide) (by decide)).trans ((hwaits.reg _ _ (by decide) (by decide)).trans ?_)
    exact bump_counted s .KP_REFUSED 0
  · exact (hraised.fld .keepDeferred (by decide) (by decide)) ▸ s.keeperRefuse.keepWaits_deferred r.id
  · exact (hraised.fld .keeperQueue (by decide) (by decide)).trans (hwaits.fld .keeperQueue (by decide) (by decide))

/-- The first page of a record is placed where the pool has room for a copy. -/
theorem State.nextPart_first {r : RecordWrite} {l : List (Nat × Nat)} (h : r.left = (0, 0) :: l) :
    s.nextPart r = match s.placePage with
      | none => none
      | some p => if s.openPages.length < recordParts r.payload then none
        else some { s with keeperQueue := s.keeperQueue ++ [⟨p, recordPage (s.wearOf s.wearMax p + 1) r.seq
          (recordParts r.payload) 0 0 r.id r.payload, .record r.id⟩] } := by
  unfold State.nextPart
  rw [h]
  dsimp only
  cases s.placePage with
  | none => simp
  | some p => simp

/-- The state with a record write under way. -/
def State.withRecord (r : RecordWrite) : State := { s with records := s.records ++ [r] }

/-- A record that finds no room is refused, and its index waits. -/
theorem State.startRecord_refused {r : RecordWrite} {l : List (Nat × Nat)} (hl : r.left = (0, 0) :: l)
    (hr : r.repair = false) (h : (s.withRecord r).placePage = none ∨
      (s.withRecord r).openPages.length < recordParts r.payload) :
    Counted s (s.startRecord r) .KP_REFUSED 0 1 ∧ r.id ∈ (s.startRecord r).keepDeferred ∧
    (s.startRecord r).keeperQueue = s.keeperQueue := by
  have hnone : (s.withRecord r).nextPart r = none := by
    rw [State.nextPart_first _ hl]
    split
    · rfl
    · rename_i p hp
      rw [if_pos (h.resolve_left (by rw [hp]; exact Option.some_ne_none p))]
  have hrun : s.startRecord r = (s.withRecord r).recordRefused r := by
    unfold State.startRecord
    show (match (s.withRecord r).nextPart r with | some t => t | none => (s.withRecord r).recordRefused r) = _
    rw [hnone]
  rw [hrun]
  exact (s.withRecord r).recordRefused_waits r hr

/-- The first page of a record is requested. -/
def State.pageBegun (r : RecordWrite) (p : Nat) : State :=
  { s.withRecord r with keeperQueue := s.keeperQueue ++ [⟨p,
    recordPage (s.wearOf s.wearMax p + 1) r.seq (recordParts r.payload) 0 0 r.id r.payload, .record r.id⟩] }

/-- A record that finds room has its first page requested. -/
theorem State.startRecord_placed {r : RecordWrite} {l : List (Nat × Nat)} (hl : r.left = (0, 0) :: l) {p : Nat}
    (hp : (s.withRecord r).placePage = some p) (hroom : ¬ (s.withRecord r).openPages.length < recordParts r.payload) :
    s.startRecord r = s.pageBegun r p := by
  have hsome : (s.withRecord r).nextPart r = some (s.pageBegun r p) := by
    rw [State.nextPart_first _ hl, hp]
    refine (if_neg hroom).trans ?_
    rw [show (s.withRecord r).wearOf (s.withRecord r).wearMax p = _ from s.wear_records _ p]
    rfl
  unfold State.startRecord
  show (match (s.withRecord r).nextPart r with | some t => t | none => (s.withRecord r).recordRefused r) = _
  rw [hsome]

/-- A record that begins is written to a free page, or refused (R383, R454 to R456). -/
theorem State.writeRecord_begun : ∃ t, s.writeRecord ix = t ∧ RecordBegun s t ix := by
  refine ⟨_, rfl, ?_⟩
  have hbegun := s.startRecord_refused (r := s.recordWrite ix) (recordOrder_cons _).choose_spec rfl
  have hplaced := @State.startRecord_placed s (s.recordWrite ix) _ (recordOrder_cons _).choose_spec
  rw [State.writeRecord_eq]
  unfold RecordBegun
  unfold State.recordWrite State.withRecord at *
  dsimp only at *
  generalize recordSeq s.poolHeads ix = resolved at *
  cases resolved
  all_goals
    dsimp only at *
    split
    · next hnone => exact hbegun (.inl hnone)
    · next p hp =>
      split
      · next hfew => exact hbegun (.inr hfew)
      · next hroom =>
        rw [hplaced hp hroom]
        exact ⟨rfl, ⟨_, List.mem_append_right _ (List.mem_singleton_self _), rfl, rfl, rfl⟩, rfl⟩

end

/-! ## The SMBus target -/

/-- The status byte: its value, and the fields read from it (R517). -/
theorem packBits_status (fw th : Nat) (shut : Bool) {v : Nat}
    (hv : v = packBits [(2, fw), (1, b2n shut), (3, th), (2, 0)]) :
    v < 256 ∧ bits v 1 0 = fw % 4 ∧ bit v 2 = shut ∧ bits v 5 3 = th % 8 ∧ bits v 7 6 = 0 := by
  have hval : v = fw % 4 + 4 * (b2n shut + 2 * (th % 8)) := by
    cases shut <;> simpa [packBits, b2n] using hv
  have hshut : b2n shut < 2 := by cases shut <;> decide
  have hbit : bit v 2 = decide (b2n shut = 1) := by
    unfold bit
    rw [Nat.testBit_eq_decide_div_mod_eq]
    exact decide_eq_decide.mpr (by omega)
  refine ⟨by omega, ?_, hbit.trans (by cases shut <;> rfl), ?_, ?_⟩ <;>
  · unfold bits
    rw [Nat.shiftRight_eq_div_pow]
    omega

/-- R517. A byte of the states of firmware, shutdown and thermal control is sent, and nothing changes. -/
theorem smbReadStatus_sends (s : State) :
    ∃ t, exec .smbReadStatus s = .next t ∧ Touches (flds [.sent]) s t ∧
      ∃ v, v < 256 ∧
      t = s.send [.smbus [BitVec.ofNat 8 v]] ∧ bits v 1 0 = s.reg .FW_STATE 0 % 4 ∧
      (bit v 2 = true ↔ s.reg .iPHASE 0 = 4) ∧ bits v 5 3 = s.reg .TH_STATE 0 % 8 ∧ bits v 7 6 = 0 := by
  obtain ⟨hlt, hfw, hshut, hth, hrest⟩ := packBits_status (s.reg .FW_STATE 0) (s.reg .TH_STATE 0) (s.reg .iPHASE 0 == 4) rfl
  exact completes_of_next rfl (execSmbReadStatus_touches (by decide) (.refl _ s))
    ⟨_, hlt, rfl, hfw, (Bool.eq_iff_iff.mp hshut).trans beq_iff_eq, hth, hrest⟩

/-- R517. The target answers while a thermal warning or a shutdown holds SMB_ALERT_N low. -/
theorem smbAlertResponse_sends (s : State) :
    exec .smbAlertResponse s = .next (s.send (if s.reg .TH_STATE 0 ≠ 0 ∨ s.reg .iPHASE 0 = 4 then [.smbus [0x4C]]
        else [])) := by
  have halert : s.smbAlert = true ↔ s.reg .TH_STATE 0 ≠ 0 ∨ s.reg .iPHASE 0 = 4 := by
    simp [State.smbAlert]
  show (if s.smbAlert then s.smbSend 1 0x4C else .next (s.send [])) = _
  by_cases h : s.smbAlert = true
  · rw [if_pos h, if_pos (halert.mp h)]
    rfl
  · rw [if_neg h, if_neg (mt halert.mpr h)]

/-- R517. The count 8 and the 8 bytes of ID_SERIAL are sent, and nothing changes. -/
theorem smbReadSerial_sends (s : State) :
    exec .smbReadSerial s = .next (s.send [.smbus (8 :: leBytes 8 (s.reg .ID_SERIAL 0))]) := by
  have hbytes (v : Nat) : leBytes 9 (8 + 256 * v) = 8 :: leBytes 8 v := by
    have hcount : BitVec.ofNat 8 (8 + 256 * v) = 8 := BitVec.eq_of_toNat_eq (by simp)
    have hrest : (8 + 256 * v) >>> 8 = v := by
      rw [Nat.shiftRight_eq_div_pow]
      omega
    rw [leBytes, hcount, hrest]
  exact congrArg (fun l => Host.Outcome.next (s.send [.smbus l])) (hbytes _)

/-! ## What the commands do -/

/-- R503. A minute of powered life is counted. -/
theorem lifetimeMinute_counts (s : State) :
    let hot := max (s.regInt .iMIN_MAX 0) s.junction
    let b := tjBand hot
    let nominal := equivRate hot
    let hist (x : State) := blobGet (x.reg .LF_TJ_HIST 0) (4 * b) 4
    ∃ t, exec .lifetimeMinute s = .next t ∧ Touches Changes.lifetimeMinute s t ∧
      (∃ x, nominal * 99 / 100 ≤ x ∧ x ≤ nominal * 99 / 100 + nominal / 50 ∧
        t.reg .iEQUIV_MIN 0 = (x + s.reg .iEQUIV_MIN 0) % (60 * 2 ^ 32) ∧
        Counted s t .LF_EQUIV_H 0 ((x + s.reg .iEQUIV_MIN 0) / (60 * 2 ^ 32))) ∧
      t.reg .iMIN_COUNT 0 = (s.reg .iMIN_COUNT 0 + 1) % 60 ∧
      Counted s t .LF_HOURS 0 ((s.reg .iMIN_COUNT 0 + 1) / 60) ∧
      t.reg .iHIST_MIN b = (s.reg .iHIST_MIN b + 1) % 60 ∧ OnlyAt s t [.iHIST_MIN] b ∧
      hist t = (hist s + (s.reg .iHIST_MIN b + 1) / 60) % 2 ^ 32 ∧
      t.Holds .iTJ_SUM 0 (ofInt Reg.iTJ_SUM.width (s.regInt .iTJ_SUM 0 + hot)) ∧
      t.Holds .LF_TJ_MEAN 0 (ofInt 16 (t.regInt .iTJ_SUM 0 / (60 * t.reg .LF_HOURS 0 + t.reg .iMIN_COUNT 0 : Nat))) ∧
      t.Holds .LF_LIFE_USED 0 (lifeUsed Config.idGrade (t.reg .LF_EQUIV_H 0)) ∧ t.reg .iMIN_MAX 0 = 0x8000 := by
  intro hot b nominal hist
  generalize hdrawn : s.equivDrawn nominal = x
  obtain ⟨hlow, hhigh⟩ := hdrawn ▸ s.equivDrawn_bounds nominal
  have hframe : OutTouches Changes.lifetimeMinute s (exec .lifetimeMinute s) :=
    execLifetimeMinute_touches (by decide) (.refl _ s)
  refine completes_of_next (execLifetimeMinute_eq s) hframe ?_
  rw [show max (s.regInt .iMIN_MAX 0) s.junction = hot from rfl]
  unfold State.minuteCounted
  rw [show s.equivDrawn (equivRate hot) = x from hdrawn]
  have h0 : Touches (flds [.draws]) s s.drawn := s.drawn_frame
  generalize s.drawn = s0 at h0
  have h1 := s0.lifeEquiv_frame (x + s0.reg .iEQUIV_MIN 0)
  obtain ⟨heq, hequiv⟩ := s0.lifeEquiv_reg (x + s0.reg .iEQUIV_MIN 0)
  generalize s0.lifeEquiv (x + s0.reg .iEQUIV_MIN 0) = s1 at h1 heq hequiv ⊢
  have h2 := s1.lifeBand_frame b
  obtain ⟨hmin, honly, hhist⟩ := s1.lifeBand_reg (tjBand_lt hot)
  rw [show tjBand hot = b from rfl] at hmin honly hhist ⊢
  generalize s1.lifeBand b = s2 at h2 hmin honly hhist ⊢
  have h3 := s2.lifeMinute_frame hot
  obtain ⟨hcount, hhours, hsum⟩ := s2.lifeMinute_reg hot
  generalize s2.lifeMinute hot = s3 at h3 hcount hhours hsum ⊢
  have h4 := s3.lifeMean_frame
  have hmean := s3.lifeMean_reg
  generalize s3.lifeMean = s4 at h4 hmean ⊢
  have h5 := s4.lifeShown_frame
  obtain ⟨hused, hmax⟩ := s4.lifeShown_reg
  generalize s4.lifeShown = t at h5 hused hmax ⊢
  have hafter3 : Touches (Sys2Proof.Machine.regs [.LF_TJ_MEAN, .LF_LIFE_USED, .iMIN_MAX]) s3 t := h4.append h5
  have hafter2 : Touches (Sys2Proof.Machine.regs [.iMIN_COUNT, .LF_HOURS, .iTJ_SUM, .LF_TJ_MEAN, .LF_LIFE_USED,
    .iMIN_MAX]) s2 t := h3.append hafter3
  have hafter1 : Touches (Sys2Proof.Machine.regs [.iHIST_MIN, .LF_TJ_HIST, .iMIN_COUNT, .LF_HOURS, .iTJ_SUM, .LF_TJ_MEAN,
    .LF_LIFE_USED, .iMIN_MAX]) s1 t := h2.append hafter2
  have hread : t.Holds .LF_TJ_MEAN 0 (ofInt 16 (t.regInt .iTJ_SUM 0 / (60 * t.reg .LF_HOURS 0 + t.reg .iMIN_COUNT 0 : Nat))) := by
    unfold State.Holds State.regInt
    rw [hafter3.reg .iTJ_SUM _ (by decide) (by decide), hafter3.reg .LF_HOURS _ (by decide) (by decide),
      hafter3.reg .iMIN_COUNT _ (by decide) (by decide), h5.reg .LF_TJ_MEAN _ (by decide) (by decide)]
    exact hmean
  have hto1 : Touches (flds [.draws] ++ Sys2Proof.Machine.regs [.iEQUIV_MIN, .LF_EQUIV_H]) s s1 := h0.append h1
  have hto2 := hto1.append h2
  rw [h0.reg .iEQUIV_MIN _ (by decide) (by decide)] at heq hequiv
  rw [hto2.reg .iMIN_COUNT _ (by decide) (by decide)] at hcount hhours
  rw [State.regInt, hto2.reg .iTJ_SUM _ (by decide) (by decide), ← State.regInt] at hsum
  rw [hto1.reg .iHIST_MIN _ (by decide) (by decide)] at hmin hhist
  rw [hto1.reg .LF_TJ_HIST _ (by decide) (by decide)] at hhist
  refine ⟨⟨x, hlow, hhigh, ?_, ?_⟩, ?_, ?_, ?_, ?_, ?_, ?_, hread, ?_, hmax⟩
  · exact (hafter1.reg _ _ (by decide) (by decide)).trans heq
  · exact (hequiv.touches hafter1 (by decide) (by decide)).of_touches h0 (by decide) (by decide)
  · exact (hafter3.reg _ _ (by decide) (by decide)).trans hcount
  · exact (hhours.touches hafter3 (by decide) (by decide)).of_touches hto2 (by decide) (by decide)
  · exact (hafter2.reg _ _ (by decide) (by decide)).trans hmin
  · exact fun r hr j hj => (honly.touches hafter2 (by decide) (by decide) r hr j hj).trans
      ((OnlyAt.refl s [.iHIST_MIN] b).touches hto1 (by decide) (by decide) r hr j hj)
  · exact (congrArg (blobGet · (4 * b) 4) (hafter2.reg _ _ (by decide) (by decide))).trans hhist
  · exact (hafter3.reg _ _ (by decide) (by decide)).trans hsum
  · exact hused.trans (by rw [h5.reg _ _ (by decide) (by decide)])

/-- A command that ends in a state completes with what holds of that state. -/
theorem completes_of_exists {W : List Part} {P : State → Prop} {c : Instr} {s u : State} (hc : exec c s = .next u)
    (hW : OutTouches W s (exec c s)) (hP : ∃ t, u = t ∧ P t) : ∃ t, exec c s = .next t ∧ Touches W s t ∧ P t := by
  obtain ⟨t, ht, hp⟩ := hP
  exact completes_of_next (ht ▸ hc) hW hp

/-- R503. The record of the lifetime counters begins, or another is owed after it. -/
theorem lifetimeHourWrite_writes (s : State) :
    if s.reg .iPHASE 0 ≠ 1 then exec .lifetimeHourWrite s = .next s
    else if s.records.any (fun r => r.id == 0xF010) = true then
      ∃ t, exec .lifetimeHourWrite s = .next t ∧ Touches Changes.lifetimeHourWrite s t ∧
        t = if s.keepPending.contains (regKey .LF_WARM 0) = true then s
          else { s with keepPending := s.keepPending ++ [regKey .LF_WARM 0] }
    else
      ∃ t, exec .lifetimeHourWrite s = .next t ∧ Touches Changes.lifetimeHourWrite s t ∧
        RecordBegun s t 0xF010 := by
  have hrun : exec .lifetimeHourWrite s = .next (if s.reg .iPHASE 0 = 1 then s.writeLife else s) := rfl
  have hframe : OutTouches Changes.lifetimeHourWrite s (exec .lifetimeHourWrite s) :=
    execLifetimeHourWrite_touches (by decide) (.refl _ s)
  by_cases hphase : s.reg .iPHASE 0 = 1
  · rw [if_neg (not_not.mpr hphase)]
    rw [if_pos hphase] at hrun
    by_cases hbusy : s.records.any (fun r => r.id == 0xF010) = true
    · rw [if_pos hbusy]
      refine completes_of_next hrun hframe ?_
      unfold State.writeLife
      rw [if_pos hbusy]
      unfold State.noteKeep
      by_cases hheld : s.keepPending.contains (regKey .LF_WARM 0) = true
      · rw [if_pos hheld, hheld]
        rfl
      · rw [if_neg hheld, Bool.eq_false_iff.mpr hheld]
        rfl
    · rw [if_neg hbusy]
      have hlife : s.writeLife = s.writeRecord 0xF010 := if_neg hbusy
      exact completes_of_exists (hrun.trans (congrArg _ hlife)) hframe (s.writeRecord_begun 0xF010)
  · rw [if_pos hphase]
    exact hrun.trans (by rw [if_neg hphase])

/-- Settles O58: the lifetime counters and the SMBus reads. -/
theorem serviceLifeAndSmbus : Obligations.ServiceLifeAndSmbus := by
  unfold Obligations.ServiceLifeAndSmbus
  exact ⟨lifetimeMinute_counts, lifetimeHourWrite_writes, fun _ => rfl, fun _ => rfl, smbReadStatus_sends,
    fun _ => rfl, smbReadSerial_sends, smbAlertResponse_sends⟩

end Sys2Proof.Machine
end

section
/-! Notification queues (R399): what a queue holds after any number of entries, and what NQ_READ returns. -/
namespace Sys2Proof.Machine

/-! ## The numbers and marks of entries -/

/-- Entries numbered from `n` on. -/
def stamped (n : Nat) (es : List Entry) : List Entry := es.zipIdx.map fun (e, k) => { e with seq := (n + k) % 2 ^ 32 }

/-- Entries of which the first carries LOST where `b` says so, and no other. -/
def marked (b : Bool) (es : List Entry) : List Entry := es.zipIdx.map fun (e, k) => { e with lost := k == 0 && b }

theorem stamped_length (n : Nat) (es : List Entry) : (stamped n es).length = es.length := by
  simp [stamped]

theorem stamped_isEmpty (n : Nat) (es : List Entry) : (stamped n es).isEmpty = es.isEmpty := by
  cases es <;> simp [stamped]

theorem stamped_append (n : Nat) (es : List Entry) (e : Entry) :
    stamped n (es ++ [e]) = stamped n es ++ [{ e with seq := (n + es.length) % 2 ^ 32 }] := by
  simp [stamped, List.zipIdx_append]

theorem marked_append (b : Bool) (es : List Entry) (e : Entry) :
    marked b (es ++ [e]) = marked b es ++ [{ e with lost := es.isEmpty && b }] := by
  cases es <;> simp [marked, List.zipIdx_append]

/-! ## One entry -/

section
variable (s : State) (q : Nat) (e : Entry)

/-- A queue reads as it was set, and every other queue as before. -/
theorem State.queue_setQueue (n : NQueue) (j : Nat) : (s.setQueue q n).queue j = if q = j then n else s.queue j :=
  Sparse.get_set ..

theorem State.post_mode : (s.post q e).reg .NQ_MODE q = s.reg .NQ_MODE q :=
  (State.post_touches (fun _ h => h) (.refl _ s)).reg _ _ (by decide) (by decide)

/-- A full queue in LOCAL mode drops the entry and counts it. -/
theorem State.post_local_dropped (hmode : s.reg .NQ_MODE q = 0) (hfull : 32 ≤ (s.queue q).entries.length) :
    s.post q e = ((s.bump .NQ_SEQ q).bump .NQ_LOST q).setQueue q { s.queue q with dropped := true } := by
  unfold State.post
  dsimp only
  rw [if_pos hmode, if_pos hfull]

/-- A queue in LOCAL mode with room holds the entry, with LOST after a drop. -/
theorem State.post_local_held (hmode : s.reg .NQ_MODE q = 0) (hroom : ¬ 32 ≤ (s.queue q).entries.length) :
    s.post q e = (s.bump .NQ_SEQ q).setQueue q { s.queue q with
      entries := (s.queue q).entries ++ [{ e with seq := s.reg .NQ_SEQ q, lost := (s.queue q).dropped }]
      unsignalled := (s.queue q).unsignalled + 1
      dropped := false } := by
  unfold State.post
  dsimp only
  rw [if_pos hmode, if_neg hroom]

/-- A queue in STREAM mode holds the entry in place of the oldest. -/
theorem State.post_stream (hmode : s.reg .NQ_MODE q ≠ 0) :
    s.post q e = (s.bump .NQ_SEQ q).setQueue q { s.queue q with
      entries := (if 32 ≤ (s.queue q).entries.length then (s.queue q).entries.drop 1 else (s.queue q).entries) ++
        [{ e with seq := s.reg .NQ_SEQ q }]
      unsignalled := min 32 ((s.queue q).unsignalled + 1) } := by
  unfold State.post
  dsimp only
  rw [if_neg hmode]

/-- Every entry takes the next SEQ, held or dropped. -/
theorem State.post_seq : (s.post q e).reg .NQ_SEQ q = (s.reg .NQ_SEQ q + 1) % 2 ^ 32 := by
  have hbump : (s.bump .NQ_SEQ q).reg .NQ_SEQ q = (s.reg .NQ_SEQ q + 1) % 2 ^ 32 := State.setReg_reg_self ..
  by_cases hmode : s.reg .NQ_MODE q = 0
  · by_cases hfull : 32 ≤ (s.queue q).entries.length
    · rw [State.post_local_dropped _ _ _ hmode hfull]
      exact (State.setReg_reg_of_ne _ _ _ _ (by decide)).trans hbump
    · rw [State.post_local_held _ _ _ hmode hfull]
      exact hbump
  · rw [State.post_stream _ _ _ hmode]
    exact hbump

end

/-! ## Any number of entries -/

section
variable (s : State) (q : Nat)

/-- Entries posted to a queue one after another. -/
def State.posted (es : List Entry) : State := es.foldl (fun u e => u.post q e) s

theorem State.posted_append (es : List Entry) (e : Entry) : s.posted q (es ++ [e]) = (s.posted q es).post q e :=
  List.foldl_append ..

theorem State.posted_mode (es : List Entry) : (s.posted q es).reg .NQ_MODE q = s.reg .NQ_MODE q := by
  induction es using List.reverseRecOn with
  | nil => rfl
  | append_singleton es e ih => rw [State.posted_append, State.post_mode, ih]

theorem State.posted_seq (es : List Entry) :
    (s.posted q es).reg .NQ_SEQ q = (s.reg .NQ_SEQ q + es.length) % 2 ^ 32 := by
  induction es using List.reverseRecOn with
  | nil => exact (State.reg_mod s .NQ_SEQ q).symm
  | append_singleton es e ih =>
    rw [State.posted_append, State.post_seq, ih, List.length_append, List.length_singleton, Nat.mod_add_mod,
      Nat.add_assoc]

/-- In LOCAL mode the first entries that fit are held, and the others counted. -/
theorem State.posted_local (hmode : s.reg .NQ_MODE q = 0) (hlen : (s.queue q).entries.length ≤ 32) (es : List Entry) :
    ((s.posted q es).queue q).entries = (s.queue q).entries ++ marked (s.queue q).dropped
      ((stamped (s.reg .NQ_SEQ q) es).take (32 - (s.queue q).entries.length)) ∧
    (s.posted q es).reg .NQ_LOST q =
      (s.reg .NQ_LOST q + (es.length - (32 - (s.queue q).entries.length))) % 2 ^ Reg.NQ_LOST.width ∧
    ((s.posted q es).queue q).dropped = if es = [] then (s.queue q).dropped
      else decide (32 - (s.queue q).entries.length < es.length) := by
  generalize hroom : 32 - (s.queue q).entries.length = room
  induction es using List.reverseRecOn with
  | nil =>
    refine ⟨?_, ?_, rfl⟩
    · simp [State.posted, stamped, marked]
    · exact (State.reg_mod s .NQ_LOST q).symm.trans (by simp)
  | append_singleton es e ih =>
    obtain ⟨hheld, hlost, hdrop⟩ := ih
    have hmode' := (s.posted_mode q es).trans hmode
    have hcount : ((s.posted q es).queue q).entries.length = (s.queue q).entries.length + min room es.length := by
      rw [hheld]
      simp [marked, stamped_length]
    rw [State.posted_append, if_neg (by simp)]
    by_cases hfull : room ≤ es.length
    · rw [State.post_local_dropped _ _ _ hmode' (by omega), State.queue_setQueue, if_pos rfl]
      refine ⟨?_, ?_, ?_⟩
      · rw [stamped_append, List.take_append_of_le_length (by rw [stamped_length]; exact hfull)]
        exact hheld
      · show ((s.posted q es).bump .NQ_SEQ q |>.bump .NQ_LOST q).reg .NQ_LOST q = _
        rw [State.reg_bump, if_pos ⟨rfl, rfl⟩, State.reg_bump, if_neg (by simp), hlost, Nat.mod_add_mod,
          List.length_append, List.length_singleton]
        exact congrArg (· % _) (by omega)
      · show true = decide _
        simp
        omega
    · rw [State.post_local_held _ _ _ hmode' (by omega), State.queue_setQueue, if_pos rfl]
      have hall : (stamped (s.reg .NQ_SEQ q) es).take room = stamped (s.reg .NQ_SEQ q) es :=
        List.take_of_length_le (by rw [stamped_length]; omega)
      have hfirst : ((s.posted q es).queue q).dropped = (es.isEmpty && (s.queue q).dropped) := by
        rw [hdrop]
        cases es with
        | nil => rfl
        | cons a l => exact decide_eq_false (by omega)
      refine ⟨?_, ?_, ?_⟩
      · show ((s.posted q es).queue q).entries ++ _ = _
        rw [hheld, hall, stamped_append, List.take_of_length_le (by simp [stamped_length]; omega), marked_append,
          s.posted_seq q es, hfirst, stamped_isEmpty, List.append_assoc]
      · show ((s.posted q es).bump .NQ_SEQ q).reg .NQ_LOST q = _
        rw [State.reg_bump, if_neg (by simp), hlost, List.length_append, List.length_singleton]
        exact congrArg (· % _) (by omega)
      · show false = decide _
        simp
        omega

/-- In STREAM mode the latest 32 are held. -/
theorem State.posted_stream (hmode : s.reg .NQ_MODE q ≠ 0) (hlen : (s.queue q).entries.length ≤ 32) (es : List Entry) :
    ((s.posted q es).queue q).entries = ((s.queue q).entries ++ stamped (s.reg .NQ_SEQ q) es).drop
      (((s.queue q).entries ++ stamped (s.reg .NQ_SEQ q) es).length - 32) ∧
    (s.posted q es).reg .NQ_LOST q = s.reg .NQ_LOST q := by
  induction es using List.reverseRecOn with
  | nil =>
    refine ⟨?_, rfl⟩
    simp [State.posted, stamped, Nat.sub_eq_zero_of_le hlen]
  | append_singleton es e ih =>
    obtain ⟨hheld, hlost⟩ := ih
    generalize hall : (s.queue q).entries ++ stamped (s.reg .NQ_SEQ q) es = all at hheld
    have hmode' : (s.posted q es).reg .NQ_MODE q ≠ 0 := (s.posted_mode q es) ▸ hmode
    rw [State.posted_append, State.post_stream _ _ _ hmode', State.queue_setQueue, if_pos rfl]
    refine ⟨?_, ?_⟩
    · show (if 32 ≤ ((s.posted q es).queue q).entries.length then ((s.posted q es).queue q).entries.drop 1
        else ((s.posted q es).queue q).entries) ++ [{ e with seq := (s.posted q es).reg .NQ_SEQ q }] = _
      rw [stamped_append, ← List.append_assoc, hall, hheld, s.posted_seq q es, List.length_append, List.length_singleton,
        List.drop_append_of_le_length (by omega), List.drop_drop, List.length_drop]
      congr 1
      split
      · next h => exact congrArg (all.drop ·) (by omega)
      · next h => exact congrArg (all.drop ·) (by omega)
    · show ((s.posted q es).bump .NQ_SEQ q).reg .NQ_LOST q = _
      rw [State.reg_bump, if_neg (by simp), hlost]

end

/-- What any number of entries leaves a queue with. -/
theorem State.posted_holds (q : Nat) (es : List Entry) (s : State) (hlen : (s.queue q).entries.length ≤ 32) :
    let t := es.foldl (fun u e => u.post q e) s
    let held := (s.queue q).entries
    let room := 32 - held.length
    let seqs := es.zipIdx.map (fun (e, k) => { e with seq := (s.reg .NQ_SEQ q + k) % 2 ^ 32 })
    t.reg .NQ_SEQ q = (s.reg .NQ_SEQ q + es.length) % 2 ^ 32 ∧ (t.queue q).entries.length ≤ 32 ∧
    if s.reg .NQ_MODE q = 0 then
      (t.queue q).entries = held ++ (seqs.take room).zipIdx.map (fun (e, k) =>
        { e with lost := k == 0 && (s.queue q).dropped }) ∧
      t.reg .NQ_LOST q = (s.reg .NQ_LOST q + (es.length - room)) % 2 ^ Reg.NQ_LOST.width ∧
      (t.queue q).dropped = if es = [] then (s.queue q).dropped else decide (room < es.length)
    else (t.queue q).entries = (held ++ seqs).drop ((held ++ seqs).length - 32) ∧
      t.reg .NQ_LOST q = s.reg .NQ_LOST q := by
  refine ⟨s.posted_seq q es, ?_, ?_⟩
  · show ((s.posted q es).queue q).entries.length ≤ 32
    by_cases hmode : s.reg .NQ_MODE q = 0
    · rw [(s.posted_local q hmode hlen es).1]
      simp only [marked, List.length_append, List.length_map, List.length_zipIdx, List.length_take]
      omega
    · rw [(s.posted_stream q hmode hlen es).1, List.length_drop]
      omega
  · split
    · next hmode => exact s.posted_local q hmode hlen es
    · next hmode => exact s.posted_stream q hmode hlen es

/-! ## NQ_READ -/

/-- What NQ_READ takes away: in LOCAL mode the entries of its queue, and nothing else. -/
theorem State.afterRead_nq (s : State) (k : Nat) :
    (∀ j, (s.afterRead .NQ_READ k).queue j = if j = k ∧ s.reg .NQ_MODE k = 0 then
      { s.queue k with entries := [], unsignalled := 0 } else s.queue j) ∧
    (s.afterRead .NQ_READ k).caps = s.caps ∧ (s.afterRead .NQ_READ k).draws = s.draws := by
  unfold State.afterRead
  by_cases hmode : s.reg .NQ_MODE k = 0
  · rw [if_pos ⟨rfl, hmode⟩]
    refine ⟨fun j => (State.queue_setQueue ..).trans (if_congr ?_ rfl rfl), rfl, rfl⟩
    exact ⟨fun h => ⟨h.symm, hmode⟩, fun h => h.1.symm⟩
  · rw [if_neg fun h => hmode h.2, if_neg (by decide)]
    exact ⟨fun j => (if_neg fun h => hmode h.2).symm, rfl, rfl⟩

/-- NQ_READ returns what the queue holds, oldest first, and empties it in LOCAL mode only. -/
theorem nqRead_returns (acc : Accessor) (q : Fin 2048) (s : State) :
    let k := q.val
    if s.reachable acc = false then exec (.nqRead acc q) s = .next { s with value := [] }
    else
      match readFault s acc .NQ_READ with
      | some code => exec (.nqRead acc q) s = .next { s.answered acc .NQ_READ k code with value := [] }
      | none =>
        ∃ t, exec (.nqRead acc q) s = .next t ∧ Touches Changes.nqRead s t ∧
          t.status = 0 ∧ t.value = (s.queue k).entries.flatMap (fun e => leBytes 32 e.raw) ∧
          t.caps = s.caps ∧ t.draws = s.draws ∧ (∀ j, j ≠ k → t.queue j = s.queue j) ∧
          (t.queue k).subscribers = (s.queue k).subscribers ∧
          (t.queue k).entries = if s.reg .NQ_MODE k = 0 then [] else (s.queue k).entries := by
  intro k
  have hrun : exec (.nqRead acc q) s =
      .next { (s.readReg acc .NQ_READ k false).2 with value := (s.readReg acc .NQ_READ k false).1 } := rfl
  have hframe : OutTouches Changes.nqRead s (exec (.nqRead acc q) s) :=
    execNqRead_touches (by decide) (.refl _ s)
  by_cases hreach : s.reachable acc = true
  · rw [if_neg (by rw [hreach]; decide)]
    cases hfault : readFault s acc .NQ_READ with
    | some code =>
      have hread : s.readReg acc .NQ_READ k false = ([], s.answered acc .NQ_READ k code) := by
        unfold State.readReg
        rw [hreach, hfault]
        rfl
      exact hrun.trans (by rw [hread])
    | none =>
      have hread : s.readReg acc .NQ_READ k false = ((s.queue k).entries.flatMap (fun e => leBytes 32 e.raw),
          (s.afterRead .NQ_READ k).answered acc .NQ_READ k 0) := by
        unfold State.readReg
        rw [hreach, hfault]
        rfl
      refine completes_of_next (hrun.trans (by rw [hread])) hframe ?_
      obtain ⟨hqueue, hcaps, hdraws⟩ := s.afterRead_nq k
      generalize s.afterRead .NQ_READ k = u at hqueue hcaps hdraws
      have hkept (j : Nat) : (u.answered acc .NQ_READ k 0).queue j = u.queue j :=
        congrArg (Sparse.get (fun _ => NQueue.empty) · j) (State.noteAccess_queues ..)
      refine ⟨State.noteAccess_status .., rfl, (State.noteAccess_caps ..).trans hcaps,
        (State.noteAccess_draws ..).trans hdraws, fun j hj => (hkept j).trans ((hqueue j).trans (if_neg fun h => hj h.1)),
        (congrArg NQueue.subscribers ((hkept k).trans (hqueue k))).trans ?_,
        (congrArg NQueue.entries ((hkept k).trans (hqueue k))).trans ?_⟩
      · split <;> rfl
      · by_cases hmode : s.reg .NQ_MODE k = 0
        · rw [if_pos ⟨rfl, hmode⟩, if_pos hmode]
        · rw [if_neg fun h => hmode h.2, if_neg hmode]
  · rw [if_pos (Bool.eq_false_iff.mpr hreach)]
    refine hrun.trans ?_
    unfold State.readReg
    rw [Bool.eq_false_iff.mpr hreach]
    rfl

/-- Settles O11: what a notification queue holds after any number of entries, and what NQ_READ returns. -/
theorem queuesHoldThirtyTwoEntries : Obligations.QueuesHoldThirtyTwoEntries := by
  unfold Obligations.QueuesHoldThirtyTwoEntries
  exact ⟨State.posted_holds, nqRead_returns⟩

end Sys2Proof.Machine
end

section
/-! Refused writes (R380, R381, R395, R396), and subindex 0 and missing objects (R378). -/
namespace Sys2Proof.Machine

/-! ## Writes of one parameter -/

section
variable {c : Instr} {acc : Accessor} {r : Reg} {i v : Nat} {s : State} {eff : State → State}

/-- What a command that writes a parameter does where the write does not pass: nothing without a way to the
dictionary, and the status of the first check that fails with one. -/
def RefusesWrite (c : Instr) (acc : Accessor) (r : Reg) (i v : Nat) (s : State) : Prop :=
  (s.reachable acc = false → exec c s = .next s ∨ exec c s = .next (s.send [])) ∧
  ∀ code, s.reachable acc = true → writeFault s acc r i (r.width / 8) v false = some code →
    exec c s = .next (s.answered acc r i code) ∨ exec c s = .next ((s.send []).answered acc r i code)

theorem refusesWrite_of_write (h : exec c s = .next (writeParam s acc r i v eff)) : RefusesWrite c acc r i v s :=
  ⟨fun hreach => .inl (h.trans (congrArg _ (writeParam_of_unreachable hreach))),
    fun _ hreach hfault => .inl (h.trans (congrArg _ (writeParam_of_fault hreach hfault)))⟩

/-- What was sent has no part in the checks of a write. -/
theorem refusesWrite_of_send (h : exec c s = .next (writeParam (s.send []) acc r i v eff)) :
    RefusesWrite c acc r i v s :=
  ⟨fun hreach => .inr (h.trans (congrArg _ (writeParam_of_unreachable (s := s.send []) hreach))),
    fun _ hreach hfault => .inr (h.trans (congrArg _ (writeParam_of_fault (s := s.send []) hreach hfault)))⟩

/-- A write of SV_RESET that does not pass is no reset. -/
theorem refusesWrite_svReset (boot : Fin 4) (defaultsN : Bool) :
    RefusesWrite (.svReset acc boot defaultsN) acc .SV_RESET 0 1 s := by
  have hrun : ¬ (s.reachable acc && (writeFault s acc .SV_RESET 0 1 1 false).isNone) = true →
      exec (.svReset acc boot defaultsN) s = .next (writeParam s acc .SV_RESET 0 1 fun t => t) := fun h => if_neg h
  constructor
  · intro hreach
    exact (refusesWrite_of_write (hrun (by rw [hreach, Bool.false_and]; decide))).1 hreach
  · intro code hreach hfault
    have hsome : (writeFault s acc .SV_RESET 0 1 1 false).isNone = false := by
      rw [show writeFault s acc .SV_RESET 0 1 1 false = some code from hfault]
      rfl
    exact (refusesWrite_of_write (hrun (by rw [hsome, Bool.and_false]; decide))).2 code hreach hfault

end

/-- Every command of `writeTarget` is the write of the parameter named there, for some of them after what was sent is
forgotten. -/
theorem refusesWrite_of_target {c : Instr} {acc : Accessor} {r : Reg} {i v : Nat} (s : State)
    (h : writeTarget c = some (acc, r, i, v)) : RefusesWrite c acc r i v s := by
  cases c
  case svReset boot defaultsN => cases h; exact refusesWrite_svReset boot defaultsN
  case gcRingWrite p _ => cases p <;> (cases h; exact refusesWrite_of_write rfl)
  case skRingWrite p _ => cases p <;> (cases h; exact refusesWrite_of_write rfl)
  case codecAssignWrite u _ => cases u <;> (cases h; exact refusesWrite_of_write rfl)
  case rqParamWrite p _ => cases p <;> (cases h; exact refusesWrite_of_write rfl)
  case strRingTailWrite by_ _ _ =>
    cases by_ with
    | none => cases h
    | some a => cases h; exact refusesWrite_of_write rfl
  all_goals first
    | (cases h; done)
    | (cases h; exact refusesWrite_of_write rfl)
    | (cases h; exact refusesWrite_of_send rfl)

/-- Settles O7: a write that a check refuses changes nothing but its status. -/
theorem refusedWritesChangeNothing : Obligations.RefusedWritesChangeNothing := by
  unfold Obligations.RefusedWritesChangeNothing
  exact fun _ _ _ _ _ s h => refusesWrite_of_target s h

/-! ## Indexes and subindexes (R378) -/

section
variable (index : Nat) {l : List Reg}

/-- Whether a parameter exists at an index. -/
def presentAt (r : Reg) : Prop := (regRow r).index ≤ index ∧ regExists r (index - (regRow r).index) = true

/-- A lookup finds a parameter exactly where one of its list is present there. -/
theorem lookupReg_go_isSome (sub : Nat) :
    (lookupReg.go index sub l).isSome = true ↔ ∃ r ∈ l, (regRow r).sub = sub ∧ presentAt index r := by
  induction l with
  | nil => simp [lookupReg.go]
  | cons r rs ih =>
    rw [lookupReg.go]
    by_cases h : (regRow r).sub = sub ∧ presentAt index r
    · rw [if_pos (show _ ∧ _ ∧ _ from h)]
      simp [h]
    · rw [if_neg (show ¬ (_ ∧ _ ∧ _) from h), ih]
      simp [h]

theorem lookupReg_isSome (sub : Nat) :
    (lookupReg index sub).isSome = true ↔ ∃ r ∈ dictRegs, (regRow r).sub = sub ∧ presentAt index r :=
  lookupReg_go_isSome index sub

/-- The highest subindex among the parameters of a list, over one known before. -/
def topSub (l : List Reg) (m : Option Nat) : Option Nat :=
  l.foldl (fun m r => if (regRow r).index ≤ index ∧ regExists r (index - (regRow r).index) then
    some (max ((regRow r).sub) (m.getD 0)) else m) m

/-- The highest subindex is one that is present or was known, and no lower than any of these. -/
theorem topSub_spec (m : Option Nat) :
    (topSub index l m = none → m = none ∧ ∀ r ∈ l, ¬ presentAt index r) ∧
    ∀ top, topSub index l m = some top → (m = some top ∨ ∃ r ∈ l, (regRow r).sub = top ∧ presentAt index r) ∧
      (∀ k, m = some k → k ≤ top) ∧ ∀ r ∈ l, presentAt index r → (regRow r).sub ≤ top := by
  induction l generalizing m with
  | nil => exact ⟨fun h => ⟨h, by simp⟩, fun top h => ⟨.inl h, fun k hk => Nat.le_of_eq (Option.some.inj (hk.symm.trans h)),
      by simp⟩⟩
  | cons r rs ih =>
    by_cases h : presentAt index r
    · have hstep : topSub index (r :: rs) m = topSub index rs (some (max (regRow r).sub (m.getD 0))) :=
        congrArg (topSub index rs) (if_pos h)
      rw [hstep]
      obtain ⟨hnone, hsome⟩ := ih (some (max (regRow r).sub (m.getD 0)))
      refine ⟨fun e => absurd (hnone e).1 (by simp), fun top e => ?_⟩
      obtain ⟨hfrom, hover, hall⟩ := hsome top e
      have hover := hover _ rfl
      refine ⟨?_, fun k hk => ?_, fun q hq hp => ?_⟩
      · rcases hfrom with hm | ⟨q, hq, hsub, hp⟩
        · cases m with
          | none => exact .inr ⟨r, by simp, by simpa using hm, h⟩
          | some k =>
            rcases Nat.le_total k (regRow r).sub with hle | hle
            · exact .inr ⟨r, by simp, by simpa [hle] using hm, h⟩
            · exact .inl (by simpa [hle] using hm)
        · exact .inr ⟨q, by simp [hq], hsub, hp⟩
      · subst hk
        exact Nat.le_trans (Nat.le_max_right _ _) hover
      · rcases List.mem_cons.mp hq with rfl | hq
        · exact Nat.le_trans (Nat.le_max_left _ _) hover
        · exact hall q hq hp
    · have hstep : topSub index (r :: rs) m = topSub index rs m := congrArg (topSub index rs) (if_neg h)
      rw [hstep]
      obtain ⟨hnone, hsome⟩ := ih m
      refine ⟨fun e => ⟨(hnone e).1, List.forall_mem_cons.mpr ⟨h, (hnone e).2⟩⟩, fun top e => ?_⟩
      obtain ⟨hfrom, hover, hall⟩ := hsome top e
      refine ⟨hfrom.imp_right fun ⟨q, hq, hsub⟩ => ⟨q, by simp [hq], hsub⟩, hover,
        List.forall_mem_cons.mpr ⟨fun hp => absurd hp h, hall⟩⟩

/-- No parameter of the dictionary has subindex 0. -/
theorem lookupReg_zero : lookupReg index 0 = none := by
  have hsub : ∀ r ∈ dictRegs, (regRow r).sub ≠ 0 := by decide +kernel
  refine Option.not_isSome_iff_eq_none.mp fun h => ?_
  obtain ⟨r, hr, hzero, -⟩ := (lookupReg_isSome index 0).mp h
  exact hsub r hr hzero

/-- The highest subindex of an index that exists is present, and none above it is. -/
theorem highestSub_top {top : Nat} (h : highestSub index = some top) :
    (lookupReg index top).isSome = true ∧ ∀ k, top < k → lookupReg index k = none := by
  obtain ⟨hfrom, -, hall⟩ := (topSub_spec index none).2 top h
  refine ⟨(lookupReg_isSome index top).mpr (hfrom.resolve_left (by simp)), fun k hk => ?_⟩
  refine Option.not_isSome_iff_eq_none.mp fun hsome => ?_
  obtain ⟨r, hr, rfl, hp⟩ := (lookupReg_isSome index k).mp hsome
  exact absurd (hall r hr hp) (Nat.not_le.mpr hk)

end

section
variable {s : State} {acc : Accessor} {index sub : Nat} (staged : Bool) (data : List Byte)

/-- A read or write of an object that does not exist ends with OD_NO_OBJECT. -/
theorem missing_object (hreach : s.reachable acc = true)
    (h : highestSub index = none ∨ (sub ≠ 0 ∧ lookupReg index sub = none)) :
    (s.readId acc index sub staged).2.status = Code.odNoObject ∧
    s.writeId acc index sub data = (s.setStatus Code.odNoObject).noteAccess acc (256 * index + sub) := by
  have hserved : s.servedId index sub = false := by
    unfold State.servedId
    rcases h with h | ⟨hsub, h⟩
    · simp [h]
    · simp [h, hsub]
  unfold State.readId State.writeId
  simp only [hreach, hserved, Bool.not_true, Bool.not_false, Bool.false_eq_true, if_false, if_true]
  exact ⟨State.noteAccess_status .., trivial⟩

/-- The descriptor of subindex 0 says U8, RO, BASIC. -/
theorem packDescriptor_zero (top : Nat) : (packDescriptor 2 0 0 0 0 0 0 1 top).take 4 = [2, 0, 0, 0] := by
  have hval : packBits [(8, 2), (8, 0), (8, 0), (2, 0), (2, 0), (3, 0), (1, 0), (32, 1), (64, top)] =
      2 + 2 ^ 32 * (1 + 2 ^ 32 * (top % 2 ^ 64)) := by
    simp only [packBits]
    omega
  unfold packDescriptor
  rw [hval]
  generalize 1 + 2 ^ 32 * (top % 2 ^ 64) = x
  simp only [leBytes, List.take_succ_cons, List.take_zero, Nat.shiftRight_eq_div_pow]
  have hbyte {n m : Nat} (h : n % 256 = m) : BitVec.ofNat 8 n = BitVec.ofNat 8 m :=
    BitVec.eq_of_toNat_eq (by simp; omega)
  rw [hbyte (show (2 + 2 ^ 32 * x) % 256 = 2 by omega), hbyte (show (2 + 2 ^ 32 * x) / 2 ^ 8 % 256 = 0 by omega),
    hbyte (show (2 + 2 ^ 32 * x) / 2 ^ 8 / 2 ^ 8 % 256 = 0 by omega),
    hbyte (show (2 + 2 ^ 32 * x) / 2 ^ 8 / 2 ^ 8 / 2 ^ 8 % 256 = 0 by omega)]
  rfl

/-- Subindex 0 of an index that exists reads as the highest subindex there, and refuses a write. -/
theorem subindex_zero {top : Nat} (hreach : s.reachable acc = true) (hphase : s.reg .iPHASE 0 = 1)
    (h : highestSub index = some top) :
    (s.readId acc index 0 staged).1 = [BitVec.ofNat 8 top] ∧ (s.readId acc index 0 staged).2.status = 0 ∧
    s.writeId acc index 0 data = (s.setStatus Code.odReadOnly).noteAccess acc (256 * index) ∧
    (s.describe index 0).2.take 4 = [2, 0, 0, 0] := by
  have hserved : s.servedId index 0 = true := by
    simp [State.servedId, State.recovery, hphase, h]
  have hzero := lookupReg_zero index
  unfold State.readId State.writeId State.describe
  simp only [hreach, hserved, hzero, h, Bool.not_true, Bool.false_eq_true, if_false]
  exact ⟨rfl, State.noteAccess_status .., rfl, packDescriptor_zero top⟩

end

/-- Settles O10: subindex 0 and parameters that do not exist. -/
theorem subindexZeroAndMissingObjects : Obligations.SubindexZeroAndMissingObjects := by
  unfold Obligations.SubindexZeroAndMissingObjects
  intro s acc index sub staged data hreach hphase
  refine ⟨missing_object staged data hreach, fun top h => ?_⟩
  obtain ⟨htop, hrest⟩ := highestSub_top index h
  exact ⟨htop, hrest, subindex_zero staged data hreach hphase h⟩

end Sys2Proof.Machine
end

section
/-! What a reset keeps, and what start-up changes (R480 to R484). -/
namespace Sys2Proof.Machine

/-! ## The registers that a reset keeps -/

section
variable (s : State) (keeps : Reg → Bool)

/-- A map cut to some of its keys reads as before at these and as the default elsewhere. -/
theorem sparse_get_filter {α : Type} (d : Nat → α) (m : List (Nat × α)) (p : Nat → Bool) (k : Nat) :
    Sparse.get d (m.filter fun e => p e.1) k = if p k then Sparse.get d m k else d k := by
  induction m with
  | nil => simp
  | cons e m ih =>
    obtain ⟨j, v⟩ := e
    rw [List.filter_cons, Sparse.get_cons]
    by_cases hj : j = k
    · subst hj
      by_cases hp : p j = true
      · simp [hp, Sparse.get_cons]
      · simp [hp, ih]
    · by_cases hp : p j = true
      · simp [hp, Sparse.get_cons, ih, hj]
      · simp [hp, ih, hj]

theorem regKey_mod (r : Reg) (i : Nat) : Reg.ofNat (regKey r i % 1024) = r := by
  have hlt := r.ctorIdx_lt
  have hmod : regKey r i % 1024 = r.ctorIdx := by
    unfold regKey
    omega
  rw [hmod, Reg.ofNat_ctorIdx]

/-- A register reads as before where it is kept, and as at reset elsewhere. -/
theorem State.reg_of_kept {u : State} (h : u.regs = s.keptRegs keeps) (r : Reg) (i : Nat) :
    u.reg r i = if keeps r then s.reg r i else regDefault r i % 2 ^ r.width := by
  have hdefault : keyDefault (regKey r i) = regDefault r i := by
    have hlt := r.ctorIdx_lt
    have hdiv : regKey r i / 1024 = i := by
      unfold regKey
      omega
    unfold keyDefault
    rw [regKey_mod, hdiv]
  unfold State.reg
  rw [h, State.keptRegs, sparse_get_filter keyDefault s.regs (fun k => keeps (Reg.ofNat (k % 1024))), regKey_mod,
    hdefault]
  split <;> rfl

end

/-! ## What start-up changes -/

/-- The fields that start-up changes beside what it restores from the records. -/
def startSide : List Fld := [.triPending, .keeperQueue, .records, .keepDeferred, .evLog, .queues, .draws, .badLog]

/-- From `s` to `t` nothing changed but these registers and what start-up writes: `apply` says whether records may have
been applied. -/
structure StartsFrom (l : List Reg) (apply : Bool) (s t : State) : Prop where
  reg : ∀ r i, r ∉ l → (apply = false ∨ (regRow r).keep = false) → t.reg r i = s.reg r i
  fld : ∀ f, f ∉ startFlds → f.same s t
  mem : t.mem = s.mem
  keeper : t.keeper = s.keeper
  time : t.tb = s.tb ∧ t.local_ = s.local_
  keys : apply = false → t.keys = s.keys ∧ t.luts = s.luts

section
variable {l : List Reg} {apply : Bool} {s t u : State}

theorem StartsFrom.refl (l : List Reg) (apply : Bool) (s : State) : StartsFrom l apply s s :=
  ⟨fun _ _ _ _ => rfl, fun f _ => by cases f <;> rfl, rfl, rfl, ⟨rfl, rfl⟩, fun _ => ⟨rfl, rfl⟩⟩

theorem StartsFrom.trans (h : StartsFrom l apply s t) (k : StartsFrom l apply t u) : StartsFrom l apply s u where
  reg r i hr ha := (k.reg r i hr ha).trans (h.reg r i hr ha)
  fld f hf := Fld.same_trans (h.fld f hf) (k.fld f hf)
  mem := k.mem.trans h.mem
  keeper := k.keeper.trans h.keeper
  time := ⟨k.time.1.trans h.time.1, k.time.2.trans h.time.2⟩
  keys ha := ⟨(k.keys ha).1.trans (h.keys ha).1, (k.keys ha).2.trans (h.keys ha).2⟩

theorem StartsFrom.mono {m : List Reg} (h : StartsFrom l apply s t) (hl : ∀ r ∈ l, r ∈ m) : StartsFrom m apply s t :=
  { h with reg := fun r i hr ha => h.reg r i (fun hin => hr (hl r hin)) ha }

/-- A part of start-up whose frame lies within what start-up writes. -/
theorem StartsFrom.of_touches {V : List Part} (h : Touches V s t) (hV : ∀ p ∈ V, p ∈ regs l ++ flds startSide) :
    StartsFrom l apply s t := by
  have hreg (r : Reg) (hin : Part.reg r ∈ V) : r ∈ l := by
    rcases List.mem_append.mp (hV _ hin) with hr | hf
    · obtain ⟨q, hq, he⟩ := List.mem_map.mp hr
      exact Part.reg.inj he ▸ hq
    · obtain ⟨f, -, he⟩ := List.mem_map.mp hf
      cases he
  have hfld (f : Fld) (hin : Part.fld f ∈ V) : f ∈ startSide := by
    rcases List.mem_append.mp (hV _ hin) with hr | hf
    · obtain ⟨q, -, he⟩ := List.mem_map.mp hr
      cases he
    · obtain ⟨g, hg, he⟩ := List.mem_map.mp hf
      exact Part.fld.inj he ▸ hg
  have hpart {p : Part} (hr : ∀ r, p ≠ .reg r) (hf : ∀ f, p ≠ .fld f) : p ∉ V := fun hin => by
    rcases List.mem_append.mp (hV _ hin) with hm | hm
    · obtain ⟨q, -, he⟩ := List.mem_map.mp hm
      exact hr q he.symm
    · obtain ⟨f, -, he⟩ := List.mem_map.mp hm
      exact hf f he.symm
  have hside : ∀ f ∈ startSide, f ∈ startFlds := by decide
  refine ⟨fun r i hr _ => h.reg r i (fun hin => hr (hreg r hin)) (hpart nofun nofun),
    fun f hf => h.fld f (fun hin => hf (hside f (hfld f hin))) (hpart nofun nofun), h.mem (hpart nofun nofun),
    h.keeper (hpart nofun nofun), h.time (hpart nofun nofun), fun _ => ⟨h.keys (hpart nofun nofun), ?_⟩⟩
  exact h.fld .luts (fun hin => absurd (hfld _ hin) (by decide)) (hpart nofun nofun)

theorem StartsFrom.foldl {α : Type} {xs : List α} {f : State → α → State}
    (h : ∀ t, ∀ a ∈ xs, StartsFrom l apply t (f t a)) (s : State) : StartsFrom l apply s (xs.foldl f s) := by
  induction xs generalizing s with
  | nil => exact .refl l apply s
  | cons a xs ih => exact (h s a (by simp)).trans (ih (fun t b hb => h t b (by simp [hb])) _)

end

/-! ## The records applied (R457, R491) -/

section
variable (l : List Reg) (s : State)

theorem StartsFrom.of_luts {t : State} (h : Touches [.fld .luts] s t) : StartsFrom l true s t where
  reg r i _ _ := h.reg r i (by simp) (by decide)
  fld f hf := h.fld f (fun hin => hf (by
    obtain rfl := Part.fld.inj (List.mem_singleton.mp hin)
    decide)) (by decide)
  mem := h.mem (by decide)
  keeper := h.keeper (by decide)
  time := h.time (by decide)
  keys ha := absurd ha (by decide)

/-- A KEEP value that is restored changes only its register, or what stands for it. -/
theorem StartsFrom.restoreKeep {r : Reg} (hr : (regRow r).keep = true) (i : Nat) (bs : List Byte) :
    StartsFrom l true s (s.restoreKeep r i bs) := by
  unfold State.restoreKeep
  split
  · exact ⟨fun _ _ _ _ => rfl, fun f _ => by cases f <;> rfl, rfl, rfl, ⟨rfl, rfl⟩, fun ha => absurd ha (by decide)⟩
  · exact .of_luts l s (State.takeLut_touches (by decide) (State.takeLut_touches (by decide) (.refl _ s)))
  · exact .of_luts l s (State.takeLut_touches (by decide) (State.takeLut_touches (by decide) (.refl _ s)))
  · refine ⟨fun q j _ hq => State.setReg_reg_of_ne _ _ _ _ fun he => ?_, fun f _ => by cases f <;> rfl, rfl, rfl,
      ⟨rfl, rfl⟩, fun ha => absurd ha (by decide)⟩
    subst he
    exact Bool.false_ne_true ((hq.resolve_left (by decide)).symm.trans hr)

/-- The parameters of a record are KEEP parameters. -/
theorem keep_of_keepRegsAt {id : Nat} {x : Reg × Nat} (h : x ∈ keepRegsAt id) : (regRow x.1).keep = true := by
  obtain ⟨r, hr, rfl⟩ := List.mem_map.mp h
  have hall := (List.mem_filter.mp hr).2
  simp only [Bool.and_eq_true] at hall
  exact hall.1.1

/-- The records hold KEEP values only. -/
theorem StartsFrom.applyRecord (id : Nat) (content : List Byte) : StartsFrom l true s (s.applyRecord id content) := by
  refine .foldl (fun t e _ => ?_) s
  split
  · next x hx => exact .restoreKeep l t (keep_of_keepRegsAt (List.mem_of_find?_eq_some hx)) _ _
  · exact .refl l true t

/-- One record of the pool is resolved, and applied where DEFAULTS_N is 1. -/
def State.recordRestored (apply : Bool) (id : Nat) : State :=
  match s.resolveRecord id with
  | (some c, u) => if apply then u.applyRecord id c else u
  | (none, u) => u.bump .KP_REC_LOST 0

theorem State.recordRestored_eq (apply : Bool) (id : Nat) : s.recordRestored apply id =
    match (s.resolveRecord id).1 with
    | some c => if apply then (s.resolveRecord id).2.applyRecord id c else (s.resolveRecord id).2
    | none => (s.resolveRecord id).2.bump .KP_REC_LOST 0 := by
  unfold State.recordRestored
  rcases s.resolveRecord id with ⟨c | c, u⟩ <;> rfl

/-- The registers that resolving the records of the pool counts and reports in. -/
def recordRegs : List Reg :=
  [.KP_TWINS, .KP_REPAIRS, .KP_REFUSED, .KP_REC_LOST, .EV_COUNT, .NQ_SEQ, .NQ_LOST, .iKEEP_TRY]

theorem StartsFrom.recordRestored (apply : Bool) (id : Nat) :
    StartsFrom recordRegs apply s (s.recordRestored apply id) := by
  have hresolved : StartsFrom recordRegs apply s (s.resolveRecord id).2 :=
    .of_touches (State.resolveRecord_touches (fun _ h => h) (.refl _ s)) (by decide)
  rw [State.recordRestored_eq]
  split
  · next c _ =>
    cases apply with
    | true => exact hresolved.trans (.applyRecord _ _ id c)
    | false => exact hresolved
  · exact hresolved.trans (.of_touches (State.bump_touches (W := regs [.KP_REC_LOST]) (by decide) (.refl _ _)) (by decide))

theorem State.restoreRecords_eq : s.restoreRecords = (recordIds s.poolHeads ++ s.brokenRecords).foldl
    (fun t id => t.recordRestored (bit (s.reg .SV_STRAPS 0) 2) id) s.readPool := by
  unfold State.restoreRecords
  refine congrArg (fun f => List.foldl f s.readPool (recordIds s.poolHeads ++ s.brokenRecords))
    (funext fun t => funext fun id => ?_)
  unfold State.recordRestored
  rcases t.resolveRecord id with ⟨_ | c, u⟩ <;> rfl

theorem StartsFrom.readPool (apply : Bool) : StartsFrom recordRegs apply s s.readPool :=
  .of_touches (State.readPool_touches (fun _ h => h) (.refl _ s)) (by decide)

theorem StartsFrom.restoreRecords : StartsFrom recordRegs (bit (s.reg .SV_STRAPS 0) 2) s s.restoreRecords := by
  rw [State.restoreRecords_eq]
  exact (StartsFrom.readPool s _).trans (.foldl (fun t id _ => .recordRestored t _ id) _)

end

/-! ## Start-up step by step (R484) -/

section
variable (s : State)

/-- The words are voted, and the comparators loaded. -/
def State.wordsVoted : State := (forN 16 s State.voteWord).loadComparators

/-- The records are restored. -/
def State.recordsIn : State := s.wordsVoted.restoreRecords

/-- The protection windows come into force (R302), the roots of the spare maps are checked, and the parameters take
the voted words. -/
def State.wordsUsed : State := ((s.recordsIn.windowsInForce.checkRoot 0).checkRoot 1).useTriwords

/-- A reset other than a thermal one goes on from the lifetime record. -/
def State.lifeRestored (why : Nat) : State :=
  if why = 2 then s.wordsUsed.setReg .SU_LAST_RESET 0 why else (s.wordsUsed.setReg .SU_LAST_RESET 0 why).restoreLife

/-- Start-up goes on with the choice of the image, and ends with the count of the power cycles. -/
theorem State.startUp_eq (why : Nat) : s.startUp why =
    (if why = 2 then s.lifeRestored why else (s.lifeRestored why).chooseImage).cond (why == 0)
      (fun t => t.bump .LF_CYCLES 0) := by
  unfold State.startUp State.lifeRestored
  split <;> rfl

/-- The registers that voting the words and loading the comparators write. -/
def voteRegs : List Reg :=
  [.iCMP_SHUT, .iCMP_RESTART, .KP_TRI_REPAIRS, .KP_TRI_NOVOTE, .EV_COUNT, .NQ_SEQ, .NQ_LOST]

theorem StartsFrom.wordsVoted (apply : Bool) : StartsFrom voteRegs apply s s.wordsVoted :=
  .of_touches (V := State.voteWord_foot ++ State.loadComparators_foot)
    (State.loadComparators_touches (fun _ => List.mem_append_right _)
      (forN_touches (.refl _ s) fun _ _ h => State.voteWord_touches (fun _ => List.mem_append_left _) h))
    (by decide)

/-- DEFAULTS_N as start-up reads it. -/
def State.takesRecords : Bool := bit (s.reg .SV_STRAPS 0) 2

theorem StartsFrom.recordsIn : StartsFrom (voteRegs ++ recordRegs) s.takesRecords s s.recordsIn := by
  have hvoted := StartsFrom.wordsVoted s s.takesRecords
  have htakes : s.wordsVoted.takesRecords = s.takesRecords :=
    congrArg (bit · 2) (hvoted.reg _ _ (by decide) (.inr (by decide)))
  have hrecords := StartsFrom.restoreRecords s.wordsVoted
  rw [show bit (s.wordsVoted.reg .SV_STRAPS 0) 2 = s.takesRecords from htakes] at hrecords
  exact (hvoted.mono fun _ => List.mem_append_left _).trans (hrecords.mono fun _ => List.mem_append_right _)

/-- What is written between the records and the words. -/
def wordsFoot : List Part := regs (windowFields.map Prod.snd) ++ State.checkRoot_foot ++ State.useTriwords_foot

theorem State.windowsInForce_frame : Touches (Sys2Proof.Machine.regs (windowFields.map Prod.snd)) s s.windowsInForce :=
  forN_touches (.refl _ s) fun _ _ ht => foldl_mem_touches ht fun _ _ he hu =>
    State.setReg_touches (List.mem_map_of_mem (List.mem_map_of_mem he)) hu

theorem State.wordsUsed_frame : Touches wordsFoot s.recordsIn s.wordsUsed :=
  State.useTriwords_touches (by decide) (State.checkRoot_touches (by decide) (State.checkRoot_touches (by decide)
    (s.recordsIn.windowsInForce_frame.mono (by decide))))

/-- What is written between the words and the choice of the image. -/
def lifeFoot : List Part := regs [.SU_LAST_RESET] ++ State.restoreLife_foot

theorem State.lifeRestored_frame (why : Nat) : Touches lifeFoot s.wordsUsed (s.lifeRestored why) := by
  have hcause : Touches lifeFoot s.wordsUsed (s.wordsUsed.setReg .SU_LAST_RESET 0 why) :=
    State.setReg_touches (by decide) (.refl _ _)
  unfold State.lifeRestored
  exact .ite hcause (State.restoreLife_touches (by decide) hcause)

/-- What is written after the words. -/
def lastFoot : List Part := lifeFoot ++ State.chooseImage_foot ++ regs [.LF_CYCLES]

theorem State.startUp_frame (why : Nat) : Touches lastFoot s.wordsUsed (s.startUp why) := by
  have hlife : Touches lastFoot s.wordsUsed (s.lifeRestored why) := (s.lifeRestored_frame why).mono (by decide)
  rw [State.startUp_eq]
  exact cond_touches (.ite hlife (State.chooseImage_touches (by decide) hlife)) fun _ h =>
    State.bump_touches (by decide) h

/-- What start-up writes. -/
theorem StartsFrom.startUp (why : Nat) : StartsFrom startRegs s.takesRecords s (s.startUp why) :=
  ((StartsFrom.recordsIn s).mono (by decide)).trans ((StartsFrom.of_touches s.wordsUsed_frame (by decide +kernel)).trans
    (.of_touches (s.startUp_frame why) (by decide +kernel)))

end

end Sys2Proof.Machine
end

section
/-! The choice of the firmware image (R484 to R489). -/
namespace Sys2Proof.Machine

/-! ## The boot selector (R487, R488) -/

section
variable (s : State)

theorem selector_lt (active trial attempts : Nat) : selector active trial attempts < 2 ^ 64 := by
  simp only [selector, packBits]
  omega

/-- The fields of a selector read as they were written. -/
theorem selector_fields {active trial attempts : Nat} (ha : active < 256) (ht : trial < 256) (hn : attempts < 256) :
    bits (selector active trial attempts) 7 0 = active ∧ bits (selector active trial attempts) 15 8 = trial ∧
    bits (selector active trial attempts) 31 24 = attempts := by
  have hval : selector active trial attempts = active + 256 * trial + 16777216 * attempts := by
    simp only [selector, packBits]
    omega
  simp only [hval, bits, Nat.shiftRight_eq_div_pow]
  omega

/-- Whether the Keeper takes a selector now (R451). -/
def State.takesSelector : Bool := s.keeperOpen && !s.pageProtected 0

/-- Writing the selector changes the copies of its word only, and these where the Keeper takes it. -/
theorem State.setSelector_tri (v i : Nat) : (s.setSelector v).reg .iTRI i =
    if s.takesSelector = true ∧ (i = 6 ∨ i = 22 ∨ i = 38) then v % 2 ^ 64 else s.reg .iTRI i := by
  by_cases h : s.takesSelector = true
  · have htaken : s.setSelector v = (((s.setReg .iTRI 6 v).setReg .iTRI 22 v).setReg .iTRI 38 v).bumpBy .KP_WRITES 0 3 :=
      if_pos h
    rw [htaken, State.reg_bumpBy, if_neg (by simp)]
    have hwidth : Reg.width .iTRI = 64 := rfl
    simp only [State.reg_setReg, h, true_and, hwidth]
    split_ifs <;> first | rfl | omega
  · have hwaits : (s.setSelector v).reg .iTRI i = s.keeperRefuse.reg .iTRI i := by
      unfold State.setSelector
      rw [if_neg (show ¬ (s.keeperOpen && !s.pageProtected 0) = true from h)]
      rfl
    rw [hwaits, if_neg fun hi => h hi.1]
    exact State.setReg_reg_of_ne _ _ _ _ (by decide)

theorem State.setSelector_word {v : Nat} (hv : v < 2 ^ 64) (h : s.takesSelector = true) :
    (s.setSelector v).triword 6 = v := by
  have hcopy (c : Nat) (hc : c < 3) : (s.setSelector v).reg .iTRI (triIx c 6) = v := by
    rw [State.setSelector_tri, if_pos ⟨h, by unfold triIx; omega⟩, Nat.mod_eq_of_lt hv]
  unfold State.triword
  rw [hcopy 0 (by decide), hcopy 1 (by decide)]
  simp [vote3]

theorem State.setSelector_frame (v : Nat) : Touches State.setSelector_foot s (s.setSelector v) :=
  State.setSelector_touches (fun _ h => h) (.refl _ s)

/-! ## An image tried (R489) -/

theorem State.imageBad_frame (i : Nat) : Touches State.raise_foot s (s.imageBad i) :=
  State.raise_touches (fun _ h => h) (.refl _ s)

theorem State.imageBad_lastEvent (i : Nat) : (s.imageBad i).lastEvent = some (Code.fwImageBad, packBits [(8, i)]) :=
  State.raise_lastEvent ..

/-- What trying an image chooses, and what it reports. -/
theorem State.tryImage_chooses {i : Nat} (hi : i < 2) (trial : Bool) :
    (s.tryImage i trial).reg .iBOOT_IMAGE 0 = s.picked i ∧
    (s.tryImage i trial).reg .iBOOT_TRIAL 0 = b2n (trial && s.imageValid i) ∧ BadReported s (s.tryImage i trial) i := by
  have htry : s.tryImage i trial = if s.imageValid i then (s.setReg .iBOOT_IMAGE 0 i).setReg .iBOOT_TRIAL 0 (b2n trial)
      else if ((s.imageBad i).setReg .iBOOT_TRIAL 0 0).imageValid (1 - i) then
        ((s.imageBad i).setReg .iBOOT_TRIAL 0 0).setReg .iBOOT_IMAGE 0 (1 - i)
      else (((s.imageBad i).setReg .iBOOT_TRIAL 0 0).imageBad (1 - i)).setReg .iBOOT_IMAGE 0 0xFF := rfl
  have hother : ((s.imageBad i).setReg .iBOOT_TRIAL 0 0).imageValid (1 - i) = s.imageValid (1 - i) :=
    congrArg (· == 1) ((State.setReg_reg_of_ne _ _ _ _ (by decide)).trans
      ((s.imageBad_frame i).reg _ _ (by decide) (by decide)))
  have htrial : ((s.imageBad i).setReg .iBOOT_TRIAL 0 0).reg .iBOOT_TRIAL 0 = 0 :=
    State.setReg_reg_of_lt _ _ _ (by decide)
  rw [htry, hother]
  unfold State.picked BadReported
  by_cases hvalid : s.imageValid i = true
  · rw [if_pos hvalid, if_pos hvalid, hvalid, Bool.and_true]
    refine ⟨(State.setReg_reg_of_ne _ _ _ _ (by decide)).trans (State.setReg_reg_of_lt _ _ _ ?_),
      State.setReg_reg_of_lt _ _ _ (by cases trial <;> decide), fun h => absurd h (by decide)⟩
    exact Nat.lt_trans hi (by decide)
  · rw [if_neg hvalid, if_neg hvalid, Bool.eq_false_iff.mpr hvalid, Bool.and_false]
    by_cases hspare : s.imageValid (1 - i) = true
    · rw [if_pos hspare, if_pos hspare, if_pos hspare]
      refine ⟨State.setReg_reg_of_lt _ _ _ (Nat.lt_of_le_of_lt (Nat.sub_le 1 i) (by decide)),
        (State.setReg_reg_of_ne _ _ _ _ (by decide)).trans htrial, fun _ => s.imageBad_lastEvent i⟩
    · rw [if_neg hspare, if_neg hspare, if_neg hspare]
      refine ⟨State.setReg_reg_of_lt _ _ _ (by decide), ?_, fun _ => State.imageBad_lastEvent _ (1 - i)⟩
      exact (State.setReg_reg_of_ne _ _ _ _ (by decide)).trans
        ((State.imageBad_frame _ _).reg _ _ (by decide) (by decide) |>.trans htrial)

theorem State.tryImage_frame (i : Nat) (trial : Bool) : Touches State.tryImage_foot s (s.tryImage i trial) :=
  State.tryImage_touches (fun _ h => h) (.refl _ s)

theorem State.chooseImage_frame : Touches State.chooseImage_foot s s.chooseImage :=
  State.chooseImage_touches (fun _ h => h) (.refl _ s)

/-! ## The choice -/

/-- Whether the Keeper takes a selector is told by registers that the choice of the image leaves. -/
theorem State.takesSelector_of_touches {V : List Part} {s t : State} (h : Touches V s t)
    (hgate : Part.reg .TH_KEEPER_GATE ∉ V) (hprotect : Part.reg .KP_PROTECT ∉ V) (hany : Part.anyReg ∉ V) :
    t.takesSelector = s.takesSelector := by
  unfold State.takesSelector State.keeperOpen State.pageProtected
  rw [h.reg _ _ hgate hany, h.reg _ _ hprotect hany]

theorem State.triword_congr {s t : State} (h : ∀ i, t.reg .iTRI i = s.reg .iTRI i) (w : Nat) :
    t.triword w = s.triword w := by
  unfold State.triword
  rw [h, h, h]

theorem State.triword_of_touches {V : List Part} {s t : State} (h : Touches V s t) (htri : Part.reg .iTRI ∉ V)
    (hany : Part.anyReg ∉ V) (w : Nat) : t.triword w = s.triword w :=
  State.triword_congr (fun _ => h.reg _ _ htri hany) w

theorem State.picked_of_valid {s t : State} (h : ∀ i, t.imageValid i = s.imageValid i) (i : Nat) :
    t.picked i = s.picked i := by
  unfold State.picked
  rw [h, h]

/-- An image tried after what leaves the images and the copies of the words. -/
theorem State.tryImage_after {V : List Part} {s u : State} (h : Touches V s u) (hV : Part.reg .iNOR_VALID ∉ V)
    (hany : Part.anyReg ∉ V) {i : Nat} (hi : i < 2) (trial : Bool) :
    (u.tryImage i trial).reg .iBOOT_IMAGE 0 = s.picked i ∧
    (u.tryImage i trial).reg .iBOOT_TRIAL 0 = b2n (trial && s.imageValid i) ∧ BadReported s (u.tryImage i trial) i ∧
    ∀ w, (u.tryImage i trial).triword w = u.triword w := by
  have hvalid (k : Nat) : u.imageValid k = s.imageValid k := congrArg (· == 1) (h.reg .iNOR_VALID k hV hany)
  obtain ⟨himage, htrial, hbad⟩ := u.tryImage_chooses hi trial
  rw [State.picked_of_valid hvalid] at himage
  rw [hvalid] at htrial
  unfold BadReported at hbad ⊢
  rw [hvalid, hvalid] at hbad
  exact ⟨himage, htrial, hbad, State.triword_of_touches (u.tryImage_frame i trial) (by decide) (by decide)⟩

/-- A forced image runs where it is valid, and none does where it is not (R484). -/
theorem State.forcedImage_chosen (k : Nat) (hk : k < 2) :
    let t := if (s.setReg .iBOOT_TRIAL 0 0).imageValid k then (s.setReg .iBOOT_TRIAL 0 0).setReg .iBOOT_IMAGE 0 k
      else ((s.setReg .iBOOT_TRIAL 0 0).imageBad k).setReg .iBOOT_IMAGE 0 0xFF
    t.reg .iBOOT_TRIAL 0 = 0 ∧ if s.imageValid k = true then t.reg .iBOOT_IMAGE 0 = k
      else t.reg .iBOOT_IMAGE 0 = 0xFF ∧ t.lastEvent = some (Code.fwImageBad, packBits [(8, k)]) := by
  have hvalid : (s.setReg .iBOOT_TRIAL 0 0).imageValid k = s.imageValid k :=
    congrArg (· == 1) (State.setReg_reg_of_ne _ _ _ _ (by decide))
  have htrial : (s.setReg .iBOOT_TRIAL 0 0).reg .iBOOT_TRIAL 0 = 0 := State.setReg_reg_of_lt _ _ _ (by decide)
  dsimp only
  rw [hvalid]
  by_cases h : s.imageValid k = true
  · rw [if_pos h, if_pos h]
    exact ⟨(State.setReg_reg_of_ne _ _ _ _ (by decide)).trans htrial,
      State.setReg_reg_of_lt _ _ _ (Nat.lt_trans hk (by decide))⟩
  · rw [if_neg h, if_neg h]
    refine ⟨(State.setReg_reg_of_ne _ _ _ _ (by decide)).trans ?_, State.setReg_reg_of_lt _ _ _ (by decide),
      State.imageBad_lastEvent _ k⟩
    exact ((State.imageBad_frame _ _).reg _ _ (by decide) (by decide)).trans htrial

/-- The image chosen is the one that R489 gives. -/
theorem State.chooseImage_chosen : ImageChosen s s.chooseImage := by
  have hmode : s.bootMode < 4 := Nat.mod_lt _ (by decide)
  have hopen : s.chooseImage.takesSelector = s.takesSelector :=
    State.takesSelector_of_touches s.chooseImage_frame (by decide) (by decide) (by decide)
  unfold State.takesSelector at hopen
  unfold ImageChosen
  rw [hopen]
  unfold State.chooseImage
  interval_cases hb : s.bootMode
  · dsimp only
    by_cases hnone : s.selTrial = 0xFF
    · rw [if_pos hnone, if_pos hnone]
      obtain ⟨himage, htrial, hbad⟩ := s.tryImage_chooses (Nat.mod_lt s.selActive (by decide)) false
      exact ⟨himage, htrial, hbad, fun i => (s.tryImage_frame _ _).reg _ _ (by decide) (by decide)⟩
    · rw [if_neg hnone, if_neg hnone]
      by_cases hspent : s.selAttempts = 0
      · rw [if_pos hspent, if_pos hspent]
        have hbefore : Touches (State.setSelector_foot ++ State.raise_foot) s
            ((s.setSelector (selector (s.selActive % 2) 0xFF 0)).imageBad s.selTrial) :=
          (s.setSelector_frame _).append (State.imageBad_frame ..)
        obtain ⟨himage, htrial, hbad, hword⟩ := State.tryImage_after hbefore (by decide) (by decide)
          (Nat.mod_lt s.selActive (by decide)) false
        refine ⟨himage, htrial, hbad, fun htakes => (hword 6).trans ?_⟩
        rw [State.triword_of_touches (State.imageBad_frame ..) (by decide) (by decide)]
        exact s.setSelector_word (selector_lt ..) htakes
      · rw [if_neg hspent, if_neg hspent]
        obtain ⟨himage, htrial, hbad, hword⟩ := State.tryImage_after (s.setSelector_frame
          (selector (s.selActive % 2) s.selTrial 0)) (by decide) (by decide) (Nat.mod_lt s.selTrial (by decide)) true
        exact ⟨himage, htrial, hbad, fun htakes => (hword 6).trans (s.setSelector_word (selector_lt ..) htakes)⟩
  · exact s.forcedImage_chosen 0 (by decide)
  · exact s.forcedImage_chosen 1 (by decide)
  · dsimp only
    exact ⟨(State.setReg_reg_of_ne _ _ _ _ (by decide)).trans (State.setReg_reg_of_lt _ _ _ (by decide)),
      State.setReg_reg_of_lt _ _ _ (by decide)⟩


end

/-- The choice is read alike from states that agree on what it depends on, and in a state that keeps what it left. -/
theorem ImageChosen.of_same {s u v t : State} {W : List Part} (h : ImageChosen u v)
    (hcopies : ∀ i, u.reg .iTRI i = s.reg .iTRI i) (hslots : ∀ i, u.reg .iNOR_VALID i = s.reg .iNOR_VALID i)
    (hstraps : u.reg .SV_STRAPS 0 = s.reg .SV_STRAPS 0) (hT : Touches W v t)
    (hW : ∀ r ∈ [Reg.iBOOT_IMAGE, .iBOOT_TRIAL, .iTRI, .TH_KEEPER_GATE, .KP_PROTECT], Part.reg r ∉ W)
    (hWany : Part.anyReg ∉ W) (hlog : Part.fld .evLog ∉ W) (hWfld : Part.anyFld ∉ W) : ImageChosen s t := by
  have hword := State.triword_congr hcopies 6
  have hactive : u.selActive = s.selActive := congrArg (bits · 7 0) hword
  have htrial : u.selTrial = s.selTrial := congrArg (bits · 15 8) hword
  have hattempts : u.selAttempts = s.selAttempts := congrArg (bits · 31 24) hword
  have hmode : u.bootMode = s.bootMode := congrArg (bits · 1 0) hstraps
  have hvalid (i : Nat) : u.imageValid i = s.imageValid i := congrArg (· == 1) (hslots i)
  have hpicked := State.picked_of_valid hvalid
  have hopen : t.takesSelector = v.takesSelector :=
    State.takesSelector_of_touches hT (hW _ (by simp)) (hW _ (by simp)) hWany
  have hafter := State.triword_of_touches hT (hW .iTRI (by simp)) hWany 6
  have hcopiesT (i : Nat) : t.reg .iTRI i = v.reg .iTRI i := hT.reg _ _ (hW _ (by simp)) hWany
  have himage : t.reg .iBOOT_IMAGE 0 = v.reg .iBOOT_IMAGE 0 := hT.reg _ _ (hW _ (by simp)) hWany
  have hboot : t.reg .iBOOT_TRIAL 0 = v.reg .iBOOT_TRIAL 0 := hT.reg _ _ (hW _ (by simp)) hWany
  have hlast : t.lastEvent = v.lastEvent := State.lastEvent_of_touches hT hlog hWfld
  unfold State.takesSelector at hopen
  unfold ImageChosen BadReported at h ⊢
  simp only [hactive, htrial, hattempts, hmode, hvalid, hpicked, hcopies] at h
  simpa only [hopen, hafter, hcopiesT, himage, hboot, hlast] using h

end Sys2Proof.Machine
end

section
/-! What start-up leaves (R302, R457, R459, R484): the words in use, the windows in force, and the records applied. -/
namespace Sys2Proof.Machine

/-! ## The words in use (R459) -/

section
variable (s : State)

/-- Parameters that take the voted words one after another hold them, each its own. -/
theorem foldl_words {l : List (Reg × Nat)} (hnodup : (l.map Prod.fst).Nodup) (htri : Reg.iTRI ∉ l.map Prod.fst)
    {e : Reg × Nat} (he : e ∈ l) :
    (l.foldl (fun t e => t.setReg e.1 0 (t.triword e.2)) s).reg e.1 0 = s.triword e.2 % 2 ^ e.1.width := by
  induction l generalizing s with
  | nil => exact absurd he (by simp)
  | cons a l ih =>
    rw [List.map_cons, List.nodup_cons] at hnodup
    rw [List.map_cons, List.mem_cons, not_or] at htri
    rw [List.foldl_cons]
    rcases List.mem_cons.mp he with rfl | hin
    · have hrest : Touches (regs (l.map Prod.fst)) (s.setReg e.1 0 (s.triword e.2))
          (l.foldl (fun t e => t.setReg e.1 0 (t.triword e.2)) (s.setReg e.1 0 (s.triword e.2))) :=
        foldl_mem_touches (.refl _ _) fun _ _ hb hu =>
          State.setReg_touches (List.mem_map_of_mem (List.mem_map_of_mem hb)) hu
      refine (hrest.reg _ _ (fun hm => ?_) (by simp [regs])).trans (State.setReg_reg_self ..)
      obtain ⟨q, hq, he⟩ := List.mem_map.mp hm
      exact hnodup.1 (Part.reg.inj he ▸ hq)
    · rw [ih _ hnodup.2 htri.2 hin]
      exact congrArg (· % _) (State.triword_congr (fun _ => State.setReg_reg_of_ne _ _ _ _ (Ne.symm htri.1)) _)

theorem State.useTriwords_word {e : Reg × Nat} (he : e ∈ triParams) :
    s.useTriwords.reg e.1 0 = s.triword e.2 % 2 ^ e.1.width := foldl_words s (by decide) (by decide) he

/-- The words stand as they were before the image is chosen. -/
theorem State.lifeRestored_reg (why : Nat) {r : Reg} (i : Nat) (hearly : r ∉ voteRegs ++ recordRegs)
    (hkeep : s.takesRecords = false ∨ (regRow r).keep = false) (hwords : Part.reg r ∉ wordsFoot)
    (hlife : Part.reg r ∉ lifeFoot) : (s.lifeRestored why).reg r i = s.reg r i := by
  have hrecords := (StartsFrom.recordsIn s).reg r i hearly hkeep
  exact ((s.lifeRestored_frame why).reg r i hlife (by decide)).trans
    ((s.wordsUsed_frame.reg r i hwords (by decide)).trans hrecords)

/-- A register that no step of start-up writes stays. -/
theorem State.startUp_reg (why : Nat) {r : Reg} (i : Nat) (hearly : r ∉ voteRegs ++ recordRegs)
    (hkeep : s.takesRecords = false ∨ (regRow r).keep = false) (hlate : Part.reg r ∉ wordsFoot ++ lastFoot) :
    (s.startUp why).reg r i = s.reg r i :=
  ((s.wordsUsed_frame.append (s.startUp_frame why)).reg r i hlate (by decide)).trans
    ((StartsFrom.recordsIn s).reg r i hearly hkeep)

end

/-! ## Requests of tri-words (R460) -/

/-- From `s` to `t` every page write of a tri-word stayed, but for those of the boot selector and of the roots of the
spare maps that wait to be tried again. -/
structure WordsKept (s t : State) : Prop where
  pending : ∀ p ∈ s.triPending, p.ofWord 6 = false → p.ofWord 10 = false → p.ofWord 11 = false → p ∈ t.triPending
  queue : ∀ w ∈ s.keeperQueue, w ∈ t.keeperQueue
  busy : t.keeperBusy = s.keeperBusy

section
variable {s t u : State}

theorem WordsKept.refl (s : State) : WordsKept s s := ⟨fun _ h _ _ _ => h, fun _ h => h, rfl⟩

theorem WordsKept.trans (h : WordsKept s t) (k : WordsKept t u) : WordsKept s u :=
  ⟨fun p hp h6 h10 h11 => k.pending p (h.pending p hp h6 h10 h11) h6 h10 h11, fun w hw => k.queue w (h.queue w hw),
    k.busy.trans h.busy⟩

theorem WordsKept.of_touches {V : List Part} (h : Touches V s t) (hp : Part.fld .triPending ∉ V)
    (hq : Part.fld .keeperQueue ∉ V) (hb : Part.fld .keeperBusy ∉ V) (hany : Part.anyFld ∉ V) : WordsKept s t :=
  ⟨fun _ hin _ _ _ => (h.fld .triPending hp hany) ▸ hin, fun _ hin => (h.fld .keeperQueue hq hany) ▸ hin,
    h.fld .keeperBusy hb hany⟩

theorem WordsKept.foldl {α : Type} {l : List α} {f : State → α → State} (h : ∀ t a, WordsKept t (f t a)) (s : State) :
    WordsKept s (l.foldl f s) := by
  induction l generalizing s with
  | nil => exact .refl s
  | cons a l ih => exact (h s a).trans (ih _)

/-- A word that no page write is asked for at the end was not asked for before. -/
theorem WordsKept.triBusy (h : WordsKept s t) {w : Nat} (h6 : w ≠ 6) (h10 : w ≠ 10) (h11 : w ≠ 11)
    (hfree : t.triBusy w = false) : s.triBusy w = false := by
  have hother {p : PageBy} (hp : p.ofWord w = true) {v : Nat} (hv : w ≠ v) : p.ofWord v = false := by
    unfold PageBy.ofWord at hp ⊢
    rw [beq_iff_eq.mp hp]
    simpa using hv
  unfold State.triBusy at hfree ⊢
  rw [Bool.or_eq_false_iff, List.any_eq_false, List.any_eq_false] at hfree ⊢
  obtain ⟨hpending, hqueue⟩ := hfree
  refine ⟨fun p hp hw => ?_, fun x hx hw => ?_⟩
  · exact hpending p (h.pending p hp (hother hw h6) (hother hw h10) (hother hw h11)) hw
  · rcases List.mem_append.mp hx with hin | hin
    · exact hqueue x (List.mem_append_left _ (h.queue x hin)) hw
    · exact hqueue x (List.mem_append_right _ (h.busy ▸ hin)) hw

/-- The next page of a record is asked for behind the page writes that wait. -/
theorem State.nextPart_asks {r : RecordWrite} (h : s.nextPart r = some t) :
    ∃ x, t = { s with keeperQueue := s.keeperQueue ++ [x] } := by
  unfold State.nextPart at h
  split at h
  · cases h
  · split at h
    · cases h
    · split at h
      · cases h
      · exact ⟨_, (Option.some.inj h).symm⟩

/-- A record write asks for its page behind those that wait, or for none. -/
theorem WordsKept.startRecord (r : RecordWrite) : WordsKept s (s.startRecord r) := by
  have hrefused (v : State) : WordsKept v (v.recordRefused r) :=
    .of_touches (State.recordRefused_touches (fun _ h => h) (.refl _ v)) (by decide) (by decide) (by decide) (by decide)
  have hadded : WordsKept s (s.withRecord r) := ⟨fun _ h _ _ _ => h, fun _ h => h, rfl⟩
  unfold State.startRecord
  dsimp only
  split
  · next v hv =>
    obtain ⟨x, rfl⟩ := State.nextPart_asks hv
    exact ⟨fun _ h _ _ _ => h, fun _ h => List.mem_append_left _ h, rfl⟩
  · exact hadded.trans (hrefused _)

theorem WordsKept.resolveRecord (id : Nat) : WordsKept s (s.resolveRecord id).2 := by
  have hrepair (v : State) (q copy : Nat) (c : List Byte) : WordsKept v (v.repairCopy id q copy c) := by
    unfold State.repairCopy
    split
    · exact .refl v
    · exact (WordsKept.of_touches (State.bump_touches (W := regs [.KP_REPAIRS]) (by decide) (.refl _ v)) (by decide)
        (by decide) (by decide) (by decide)).trans (.startRecord _)
  have htwin : WordsKept s ((s.bump .KP_TWINS 0).raise Code.keeperTwin none [(16, id)]) :=
    .of_touches (State.raise_touches (W := .reg .KP_TWINS :: State.raise_foot) (by decide)
      (State.bump_touches (by decide) (.refl _ s))) (by decide) (by decide) (by decide) (by decide)
  unfold State.resolveRecord
  dsimp only
  repeat' split
  all_goals first
    | exact .refl s
    | exact hrepair s _ _ _
    | exact htwin.trans (hrepair _ _ _ _)

/-- A new write of a word takes the place of those that waited. -/
theorem WordsKept.writeTri {w v : Nat} (h : w = 6 ∨ w = 10 ∨ w = 11) : WordsKept s (s.writeTri w v) := by
  refine ⟨fun p hp h6 h10 h11 => List.mem_filter.mpr ⟨hp, ?_⟩, fun _ hx => List.mem_append_left _ hx, rfl⟩
  rcases h with rfl | rfl | rfl
  · rw [h6]; rfl
  · rw [h10]; rfl
  · rw [h11]; rfl

theorem WordsKept.setSelector (v : Nat) : WordsKept s (s.setSelector v) := by
  unfold State.setSelector
  split
  · exact .of_touches (State.bumpBy_touches (W := regs [.KP_WRITES, .iTRI]) (by decide)
      (forN_touches (.refl _ s) fun _ _ ht => State.setReg_touches (by decide) ht)) (by decide) (by decide) (by decide)
      (by decide)
  · refine ⟨fun p hp h6 _ _ => List.mem_append_left _ (List.mem_filter.mpr ⟨hp, ?_⟩), fun _ hx => hx, rfl⟩
    rw [h6]
    rfl

theorem WordsKept.checkRoot {surf : Nat} (h : surf < 2) : WordsKept s (s.checkRoot surf) := by
  have hcounted (w : Nat) : WordsKept s ((s.bumpBy .KP_TRI_REPAIRS 0 3).raise Code.triwordRepaired none [(8, w)]) :=
    .of_touches (State.raise_touches (W := .reg .KP_TRI_REPAIRS :: State.raise_foot) (by decide)
      (State.bumpBy_touches (by decide) (.refl _ s))) (by decide) (by decide) (by decide) (by decide)
  unfold State.checkRoot
  dsimp only
  repeat' split
  all_goals first
    | exact .refl s
    | exact (hcounted _).trans (.writeTri (by omega))

theorem WordsKept.chooseImage : WordsKept s s.chooseImage := by
  have htry (v : State) (i : Nat) (trial : Bool) : WordsKept v (v.tryImage i trial) :=
    .of_touches (v.tryImage_frame i trial) (by decide) (by decide) (by decide) (by decide)
  have hbad (v : State) (i : Nat) : WordsKept v (v.imageBad i) :=
    .of_touches (v.imageBad_frame i) (by decide) (by decide) (by decide) (by decide)
  have hset (v : State) {r : Reg} (x : Nat) : WordsKept v (v.setReg r 0 x) := ⟨fun _ h _ _ _ => h, fun _ h => h, rfl⟩
  unfold State.chooseImage
  split
  · dsimp only
    split
    · exact htry ..
    · split
      · exact ((WordsKept.setSelector _).trans (hbad ..)).trans (htry ..)
      · exact (WordsKept.setSelector _).trans (htry ..)
  · exact (hset ..).trans (hset ..)
  · dsimp only
    split
    · exact (hset ..).trans (hset ..)
    · exact ((hset ..).trans (hbad ..)).trans (hset ..)

theorem WordsKept.recordRestored (apply : Bool) (id : Nat) : WordsKept s (s.recordRestored apply id) := by
  rw [State.recordRestored_eq]
  split
  · split
    · exact (WordsKept.resolveRecord id).trans (.of_touches (State.applyRecord_touches (fun _ h => h) (.refl _ _))
        (by decide) (by decide) (by decide) (by decide))
    · exact .resolveRecord id
  · exact (WordsKept.resolveRecord id).trans (.of_touches (State.bump_touches (W := regs [.KP_REC_LOST]) (by decide)
      (.refl _ _)) (by decide) (by decide) (by decide) (by decide))

theorem WordsKept.startUp (why : Nat) : WordsKept s.wordsVoted (s.startUp why) := by
  have hread (v : State) : WordsKept v v.readPool :=
    .of_touches (State.readPool_touches (fun _ h => h) (.refl _ v)) (by decide) (by decide) (by decide) (by decide)
  have hrecords : WordsKept s.wordsVoted s.recordsIn := by
    unfold State.recordsIn
    rw [State.restoreRecords_eq]
    exact (hread _).trans (.foldl (fun _ id => .recordRestored _ id) _)
  have hwindows : WordsKept s.recordsIn s.recordsIn.windowsInForce :=
    .of_touches s.recordsIn.windowsInForce_frame (by decide) (by decide) (by decide) (by decide)
  have hwords (v : State) : WordsKept v v.useTriwords :=
    .of_touches (State.useTriwords_touches (fun _ h => h) (.refl _ v)) (by decide) (by decide) (by decide) (by decide)
  have hused : WordsKept s.recordsIn s.wordsUsed :=
    ((hwindows.trans (.checkRoot (by decide))).trans (.checkRoot (by decide))).trans (hwords _)
  have hlife : WordsKept s.wordsUsed (s.lifeRestored why) :=
    .of_touches (s.lifeRestored_frame why) (by decide) (by decide) (by decide) (by decide)
  refine ((hrecords.trans hused).trans hlife).trans ?_
  rw [State.startUp_eq]
  have hchosen : WordsKept (s.lifeRestored why) (if why = 2 then s.lifeRestored why else (s.lifeRestored why).chooseImage) := by
    split
    · exact .refl _
    · exact .chooseImage
  exact hchosen.trans (.of_touches (cond_touches (W := Sys2Proof.Machine.regs [.LF_CYCLES]) (.refl _ _) fun _ h => State.bump_touches (by decide) h)
    (by decide) (by decide) (by decide) (by decide))

end

/-! ## What start-up leaves -/

section
variable (s : State) (why : Nat)

/-- The choice of the image leaves the copies of the other words. -/
theorem State.chooseImage_tri {i : Nat} (h : i % 16 ≠ 6) : s.chooseImage.reg .iTRI i = s.reg .iTRI i := by
  have htry (v : State) (k : Nat) (trial : Bool) : (v.tryImage k trial).reg .iTRI i = v.reg .iTRI i :=
    (v.tryImage_frame k trial).reg _ _ (by decide) (by decide)
  have hbad (v : State) (k : Nat) : (v.imageBad k).reg .iTRI i = v.reg .iTRI i :=
    (v.imageBad_frame k).reg _ _ (by decide) (by decide)
  have hset (v : State) (x : Nat) : (v.setSelector x).reg .iTRI i = v.reg .iTRI i := by
    rw [State.setSelector_tri, if_neg fun hi => h (by omega)]
  unfold State.chooseImage
  split
  · dsimp only
    split
    · exact htry ..
    · split
      · exact (htry ..).trans ((hbad ..).trans (hset ..))
      · exact (htry ..).trans (hset ..)
  · simp
  · dsimp only
    split
    · simp
    · simp [hbad]

/-- Start-up leaves the copies of every word but the boot selector. -/
theorem State.startUp_tri {i : Nat} (h : i % 16 ≠ 6) : (s.startUp why).reg .iTRI i = s.reg .iTRI i := by
  have hlife := s.lifeRestored_reg why (r := .iTRI) i (by decide) (.inr (by decide)) (by decide) (by decide)
  rw [State.startUp_eq]
  refine ((cond_touches (W := Sys2Proof.Machine.regs [.LF_CYCLES]) (.refl _ _) fun _ h => State.bump_touches (by decide) h).reg _ _ (by decide)
    (by decide)).trans ?_
  split
  · exact hlife
  · exact (State.chooseImage_tri _ h).trans hlife

theorem State.startUp_word {w : Nat} (hw : w < 16) (h6 : w ≠ 6) : (s.startUp why).triword w = s.triword w := by
  have hcopy (c : Nat) : (s.startUp why).reg .iTRI (triIx c w) = s.reg .iTRI (triIx c w) :=
    s.startUp_tri why (by unfold triIx; omega)
  unfold State.triword
  rw [hcopy, hcopy, hcopy]

theorem State.wordsUsed_word (w : Nat) : s.wordsUsed.triword w = s.triword w :=
  State.triword_congr (fun i => (s.wordsUsed_frame.reg .iTRI i (by decide) (by decide)).trans
    ((StartsFrom.recordsIn s).reg .iTRI i (by decide) (.inr (by decide)))) w

/-- The comparators are loaded with the voted limits, unless these are being written (R439). -/
theorem State.wordsVoted_comparators :
    (s.wordsVoted.triBusy 8 = false → s.wordsVoted.Holds .iCMP_SHUT 0 (s.wordsVoted.triword 8)) ∧
    (s.wordsVoted.triBusy 9 = false → s.wordsVoted.Holds .iCMP_RESTART 0 (s.wordsVoted.triword 9)) := by
  unfold State.wordsVoted
  generalize forN 16 s State.voteWord = v
  have hrun : v.loadComparators = if (if v.triBusy 8 then v else v.setReg .iCMP_SHUT 0 (v.triword 8)).triBusy 9 then
      (if v.triBusy 8 then v else v.setReg .iCMP_SHUT 0 (v.triword 8))
      else (if v.triBusy 8 then v else v.setReg .iCMP_SHUT 0 (v.triword 8)).setReg .iCMP_RESTART 0
        ((if v.triBusy 8 then v else v.setReg .iCMP_SHUT 0 (v.triword 8)).triword 9) := rfl
  have hframe : Touches (Sys2Proof.Machine.regs [.iCMP_SHUT, .iCMP_RESTART]) v v.loadComparators :=
    State.loadComparators_touches (by decide) (.refl _ v)
  have hword (w : Nat) : v.loadComparators.triword w = v.triword w :=
    State.triword_of_touches hframe (by decide) (by decide) w
  have hfirst (w : Nat) : (if v.triBusy 8 then v else v.setReg .iCMP_SHUT 0 (v.triword 8)).triword w = v.triword w := by
    split
    · rfl
    · exact State.triword_congr (fun _ => State.setReg_reg_of_ne _ _ _ _ (by decide)) w
  have hbusy (w : Nat) : v.loadComparators.triBusy w = v.triBusy w := by
    rw [hrun]
    split <;> split <;> rfl
  have hbusy9 : (if v.triBusy 8 then v else v.setReg .iCMP_SHUT 0 (v.triword 8)).triBusy 9 = v.triBusy 9 := by
    split <;> rfl
  refine ⟨fun hfree => ?_, fun hfree => ?_⟩
  · rw [hbusy] at hfree
    unfold State.Holds
    rw [hword, hrun, hbusy9, hfree]
    split
    · exact State.setReg_reg_self ..
    · exact (State.setReg_reg_of_ne _ _ _ _ (by decide)).trans (State.setReg_reg_self ..)
  · rw [hbusy] at hfree
    unfold State.Holds
    rw [hword, hrun, hbusy9, hfree, hfirst]
    exact State.setReg_reg_self ..

/-- After start-up every parameter that is a tri-word holds the voted word, and the comparators the voted limits. -/
theorem State.startUp_words : TriwordsUsed (s.startUp why) := by
  have hlate {r : Reg} (h : Part.reg r ∉ lastFoot) : (s.startUp why).reg r 0 = s.wordsUsed.reg r 0 :=
    (s.startUp_frame why).reg r 0 h (by decide)
  have hbusy := (WordsKept.startUp (s := s) why)
  have hcompared {r : Reg} (hearly : r ∉ recordRegs) (hkeep : (regRow r).keep = false) (hwords : Part.reg r ∉ wordsFoot)
      (hlast : Part.reg r ∉ lastFoot) : (s.startUp why).reg r 0 = s.wordsVoted.reg r 0 :=
    (hlate hlast).trans ((s.wordsUsed_frame.reg r 0 hwords (by decide)).trans
      ((StartsFrom.restoreRecords s.wordsVoted).reg r 0 hearly (.inr hkeep)))
  have hvoted {w : Nat} (hw : w < 16) (h6 : w ≠ 6) : (s.startUp why).triword w = s.wordsVoted.triword w :=
    (s.startUp_word why hw h6).trans (State.triword_congr (fun i =>
      (StartsFrom.wordsVoted s false).reg .iTRI i (by decide) (.inl rfl)) w).symm
  obtain ⟨hshut, hrestart⟩ := s.wordsVoted_comparators
  refine ⟨fun e he => ?_, fun hfree => ?_, fun hfree => ?_⟩
  · have hword : ∀ e ∈ triParams, e.2 < 16 ∧ e.2 ≠ 6 ∧ Part.reg e.1 ∉ lastFoot := by decide +kernel
    obtain ⟨hlt, h6, hlast⟩ := hword e he
    unfold State.Holds
    have hroots : Touches (Sys2Proof.Machine.regs (windowFields.map Prod.snd) ++ State.checkRoot_foot) s.recordsIn
        ((s.recordsIn.windowsInForce.checkRoot 0).checkRoot 1) :=
      State.checkRoot_touches (by decide) (State.checkRoot_touches (by decide)
        (s.recordsIn.windowsInForce_frame.mono (by decide)))
    have hword : ((s.recordsIn.windowsInForce.checkRoot 0).checkRoot 1).triword e.2 = s.triword e.2 :=
      State.triword_congr (fun i => (hroots.reg .iTRI i (by decide) (by decide)).trans
        ((StartsFrom.recordsIn s).reg .iTRI i (by decide) (.inr (by decide)))) _
    have hused := State.useTriwords_word ((s.recordsIn.windowsInForce.checkRoot 0).checkRoot 1) he
    rw [hlate hlast, s.startUp_word why hlt h6, ← hword]
    exact hused
  · unfold State.Holds
    rw [hcompared (by decide) (by decide) (by decide) (by decide), hvoted (by decide) (by decide)]
    exact hshut (hbusy.triBusy (by decide) (by decide) (by decide) hfree)
  · unfold State.Holds
    rw [hcompared (by decide) (by decide) (by decide) (by decide), hvoted (by decide) (by decide)]
    exact hrestart (hbusy.triBusy (by decide) (by decide) (by decide) hfree)

/-- One window takes the values of its parameters, each field its own. -/
theorem foldl_window {l : List (Reg × Reg)} (hnodup : (l.map Prod.snd).Nodup) (hapart : ∀ e ∈ l, e.1 ∉ l.map Prod.snd)
    (hwidth : ∀ e ∈ l, e.1.width ≤ e.2.width) {e : Reg × Reg} (he : e ∈ l) (w : Nat) (t : State) :
    (l.foldl (fun u e => u.setReg e.2 w (u.reg e.1 w)) t).reg e.2 w = t.reg e.1 w := by
  induction l generalizing t with
  | nil => exact absurd he (by simp)
  | cons a l ih =>
    rw [List.map_cons, List.nodup_cons] at hnodup
    rw [List.foldl_cons]
    rcases List.mem_cons.mp he with rfl | hin
    · have hrest : Touches (regs (l.map Prod.snd)) (t.setReg e.2 w (t.reg e.1 w))
          (l.foldl (fun u e => u.setReg e.2 w (u.reg e.1 w)) (t.setReg e.2 w (t.reg e.1 w))) :=
        foldl_mem_touches (.refl _ _) fun _ _ hb hu =>
          State.setReg_touches (List.mem_map_of_mem (List.mem_map_of_mem hb)) hu
      refine (hrest.reg _ _ (fun hm => ?_) (by simp [regs])).trans (State.setReg_reg_of_lt _ _ _ ?_)
      · obtain ⟨q, hq, he⟩ := List.mem_map.mp hm
        exact hnodup.1 (Part.reg.inj he ▸ hq)
      · exact Nat.lt_of_lt_of_le (t.reg_lt e.1 w) (Nat.pow_le_pow_right (by decide) (hwidth e he))
    · rw [ih hnodup.2 (fun b hb hm => hapart b (by simp [hb]) (by simp [hm])) (fun b hb => hwidth b (by simp [hb])) hin]
      exact State.setReg_reg_of_ne _ _ _ _ fun h => hapart e he (by rw [← h]; simp)

/-- A window that takes its values leaves the others. -/
theorem foldl_window_apart {l : List (Reg × Reg)} {k j : Nat} (h : k ≠ j) (t : State) (q : Reg) :
    (l.foldl (fun u e => u.setReg e.2 k (u.reg e.1 k)) t).reg q j = t.reg q j := by
  induction l generalizing t with
  | nil => rfl
  | cons a l ih => exact (ih _).trans (State.setReg_reg_of_ix_ne _ _ _ _ h)

/-- Every protection window comes into force (R302). -/
theorem State.windowsInForce_taken {e : Reg × Reg} (he : e ∈ windowFields) {w : Nat} (hw : w < 64) :
    s.windowsInForce.reg e.2 w = s.windowsInForce.reg e.1 w := by
  have hstays : ∀ e ∈ windowFields, Part.reg e.1 ∉ Sys2Proof.Machine.regs (windowFields.map Prod.snd) := by decide
  have hnodup : (windowFields.map Prod.snd).Nodup := by decide
  have hstep (t : State) (k j : Nat) : (windowFields.foldl (fun u e => u.setReg e.2 k (u.reg e.1 k)) t).reg e.2 j =
      if k = j then t.reg e.1 j else t.reg e.2 j := by
    by_cases hk : k = j
    · subst hk
      rw [if_pos rfl, foldl_window hnodup (by decide) (by decide) he]
    · rw [if_neg hk]
      exact foldl_window_apart hk t e.2
  have htaken (n : Nat) : (forN n s fun t k => windowFields.foldl (fun u e => u.setReg e.2 k (u.reg e.1 k)) t).reg e.2 w =
      if w < n then s.reg e.1 w else s.reg e.2 w := by
    induction n with
    | zero => rfl
    | succ n ih =>
      have hfrom : Touches (Sys2Proof.Machine.regs (windowFields.map Prod.snd)) s
          (forN n s fun t k => windowFields.foldl (fun u e => u.setReg e.2 k (u.reg e.1 k)) t) :=
        forN_touches (.refl _ s) fun _ _ ht => foldl_mem_touches ht fun _ _ hb hu =>
          State.setReg_touches (List.mem_map_of_mem (List.mem_map_of_mem hb)) hu
      rw [forN_succ, hstep, ih, hfrom.reg _ _ (hstays e he) (by decide)]
      split_ifs <;> first | rfl | omega
  rw [s.windowsInForce_frame.reg _ _ (hstays e he) (by decide)]
  exact (htaken 64).trans (if_pos hw)

/-- After start-up every protection window is in force as its parameters give it (R302). -/
theorem State.startUp_windows : WindowsTaken (s.startUp why) := by
  intro e he w hw
  have hkept : ∀ e ∈ windowFields, (Part.reg e.1 ∉ State.checkRoot_foot ++ State.useTriwords_foot ++ lastFoot) ∧
      Part.reg e.2 ∉ State.checkRoot_foot ++ State.useTriwords_foot ++ lastFoot := by decide +kernel
  obtain ⟨hfrom, hto⟩ := hkept e he
  have hlate : Touches (State.checkRoot_foot ++ State.useTriwords_foot ++ lastFoot) s.recordsIn.windowsInForce
      (s.startUp why) :=
    Touches.append (State.useTriwords_touches (by decide) (State.checkRoot_touches (by decide)
      (State.checkRoot_touches (by decide) (.refl _ _)))) (s.startUp_frame why)
  rw [hlate.reg _ _ hto (by decide), hlate.reg _ _ hfrom (by decide)]
  exact s.recordsIn.windowsInForce_taken he hw

theorem State.startUp_cause (h : why < 256) : (s.startUp why).reg .SU_LAST_RESET 0 = why := by
  have hlife : (s.lifeRestored why).reg .SU_LAST_RESET 0 = why := by
    have hset : (s.wordsUsed.setReg .SU_LAST_RESET 0 why).reg .SU_LAST_RESET 0 = why := State.setReg_reg_of_lt _ _ _ h
    unfold State.lifeRestored
    split
    · exact hset
    · exact ((State.restoreLife_touches (fun _ h => h) (.refl _ _)).reg _ _ (by decide) (by decide)).trans hset
  rw [State.startUp_eq]
  refine ((cond_touches (W := Sys2Proof.Machine.regs [.LF_CYCLES]) (.refl _ _) fun _ h => State.bump_touches (by decide) h).reg
    _ _ (by decide) (by decide)).trans ?_
  split
  · exact hlife
  · exact ((State.chooseImage_frame _).reg _ _ (by decide) (by decide)).trans hlife

/-- The image that a reset other than a thermal one chooses. -/
theorem State.startUp_image (h : why ≠ 2) : ImageChosen s (s.startUp why) := by
  refine ImageChosen.of_same (W := Sys2Proof.Machine.regs [.LF_CYCLES]) (s.lifeRestored why).chooseImage_chosen
    (fun i => s.lifeRestored_reg why i (by decide) (.inr (by decide)) (by decide) (by decide))
    (fun i => s.lifeRestored_reg why i (by decide) (.inr (by decide)) (by decide) (by decide))
    (s.lifeRestored_reg why 0 (by decide) (.inr (by decide)) (by decide) (by decide)) ?_ (by decide) (by decide) (by decide)
    (by decide)
  rw [State.startUp_eq, if_neg h]
  exact cond_touches (.refl _ _) fun _ h => State.bump_touches (by decide) h

/-- A thermal restart leaves the image that ran. -/
theorem State.startUp_imageKept : (s.startUp 2).reg .iBOOT_IMAGE 0 = s.reg .iBOOT_IMAGE 0 :=
  s.lifeRestored_reg 2 0 (by decide) (.inr (by decide)) (by decide) (by decide)

end

end Sys2Proof.Machine
end

section
/-! The records that start-up applies (R455, R457, R491). -/
namespace Sys2Proof.Machine

/-! ## The pool is read from the Keeper alone -/

/-- Two states hold the same in the Keeper. -/
structure SameKeeper (s t : State) : Prop where
  keeper : t.keeper = s.keeper
  bad : t.keeperBad = s.keeperBad
  torn : t.keeperTorn = s.keeperTorn

section
variable {s t u : State}

theorem SameKeeper.trans (h : SameKeeper s t) (k : SameKeeper t u) : SameKeeper s u :=
  ⟨k.keeper.trans h.keeper, k.bad.trans h.bad, k.torn.trans h.torn⟩

theorem StartsFrom.sameKeeper {l : List Reg} {apply : Bool} (h : StartsFrom l apply s t) : SameKeeper s t :=
  ⟨h.keeper, h.fld .keeperBad (by decide), h.fld .keeperTorn (by decide)⟩

theorem SameKeeper.bytes (h : SameKeeper s t) (a n : Nat) : t.keeperBytes a n = s.keeperBytes a n := by
  unfold State.keeperBytes State.keeperByte
  rw [h.keeper]

theorem SameKeeper.poolHeads (h : SameKeeper s t) : t.poolHeads = s.poolHeads := by
  have hbad (page n : Nat) : t.groupsBad page n = s.groupsBad page n := by
    unfold State.groupsBad
    rw [h.bad, h.torn]
  have hhead (page : Nat) : t.pageHead page = s.pageHead page := by
    unfold State.pageHead
    simp only [h.bytes, hbad]
  unfold State.poolHeads
  simp only [hhead]

/-- The content that a record resolves to. -/
theorem State.resolveRecord_content (s : State) (id : Nat) : (s.resolveRecord id).1 =
    (recordSeq s.poolHeads id).bind fun q =>
      match copyPages s.poolHeads id 0 q, copyPages s.poolHeads id 1 q with
      | some a, _ => some (s.copyContent s.poolHeads a)
      | none, some b => some (s.copyContent s.poolHeads b)
      | none, none => none := by
  unfold State.resolveRecord
  dsimp only
  generalize s.poolHeads = hs
  cases recordSeq hs id with
  | none => rfl
  | some q =>
    rw [Option.bind_some]
    dsimp only
    cases copyPages hs id 0 q with
    | none => cases copyPages hs id 1 q <;> rfl
    | some a =>
      cases copyPages hs id 1 q with
      | none => rfl
      | some b =>
        dsimp only
        split <;> rfl

theorem SameKeeper.resolved (h : SameKeeper s t) (id : Nat) : (t.resolveRecord id).1 = (s.resolveRecord id).1 := by
  have hcontent (hs : List (Nat × PageHead)) (pages : List Nat) : t.copyContent hs pages = s.copyContent hs pages := by
    unfold State.copyContent
    simp only [h.bytes]
  rw [State.resolveRecord_content, State.resolveRecord_content, h.poolHeads]
  simp only [hcontent]

theorem SameKeeper.recordsApplied (h : SameKeeper s t) (hr : RecordsApplied t u) : RecordsApplied s u := by
  unfold RecordsApplied at hr ⊢
  simpa only [h.poolHeads, h.resolved] using hr

end

/-! ## One value among those restored -/

/-- A fold that goes by an element that makes `P` hold ends with `P`, where every step keeps it. -/
theorem foldl_reaches {σ α : Type} {I P : σ → Prop} {good : α → Prop} {f : σ → α → σ} {l : List α}
    (hI : ∀ t, ∀ a ∈ l, I t → I (f t a)) (hkeep : ∀ t, ∀ a ∈ l, I t → P t → P (f t a))
    (hmake : ∀ t, ∀ a ∈ l, I t → good a → P (f t a)) (hgood : ∃ a ∈ l, good a) {s : σ} (hs : I s) : P (l.foldl f s) := by
  have hstays (xs : List α) (hxs : ∀ a ∈ xs, a ∈ l) {t : σ} (ht : I t) (hp : P t) : P (xs.foldl f t) := by
    induction xs generalizing t with
    | nil => exact hp
    | cons a xs ih =>
      exact ih (fun b hb => hxs b (by simp [hb])) (hI t a (hxs a (by simp)) ht) (hkeep t a (hxs a (by simp)) ht hp)
  have hfinds (xs : List α) (hxs : ∀ a ∈ xs, a ∈ l) {t : σ} (ht : I t) (hg : ∃ a ∈ xs, good a) : P (xs.foldl f t) := by
    induction xs generalizing t with
    | nil => simp at hg
    | cons a xs ih =>
      have ha := hxs a (by simp)
      obtain ⟨b, hb, hgb⟩ := hg
      rcases List.mem_cons.mp hb with rfl | hb
      · exact hstays xs (fun b hb => hxs b (by simp [hb])) (hI t _ ha ht) (hmake t _ ha ht hgb)
      · exact ih (fun b hb => hxs b (by simp [hb])) (hI t a ha ht) ⟨b, hb, hgb⟩
  exact hfinds l (fun _ h => h) hs hgood

section
variable (s : State) {r : Reg} {i id : Nat} {data : List Byte}

/-- A value that is restored goes to its own register, or to none. -/
theorem State.restoreKeep_reg (q : Reg) (j : Nat) (bs : List Byte) (h : ¬ (q = r ∧ j = i)) :
    (s.restoreKeep q j bs).reg r i = s.reg r i := by
  have hlut (a b c d e f : Nat) : ((s.takeLut a b c).takeLut d e f).reg r i = s.reg r i :=
    (State.takeLut_touches (W := [.fld .luts]) (by decide) (State.takeLut_touches (by decide) (.refl _ s))).reg r i
      (by simp) (by decide)
  unfold State.restoreKeep
  split
  · rfl
  · exact hlut ..
  · exact hlut ..
  · rw [State.reg_setReg, if_neg h]

theorem State.restoreKeep_holds (hr : r ∉ [Reg.PLV_KEY_SET, .IN_LUT_DATA, .OUT_LUT_DATA]) (bs : List Byte) :
    (s.restoreKeep r i bs).Holds r i (leNat bs) := by
  have hplain : s.restoreKeep r i bs = s.setReg r i (leNat bs) := by
    unfold State.restoreKeep
    split
    · exact absurd (by simp) hr
    · exact absurd (by simp) hr
    · exact absurd (by simp) hr
    · rfl
  rw [hplain]
  exact State.setReg_reg_self ..

/-- A record applies the value that it holds of a parameter once. -/
theorem State.applyRecord_holds {content : List Byte}
    (hfind : (keepRegsAt id).find? (fun x => (regRow x.1).sub == (regRow r).sub) = some (r, i))
    (hr : r ∉ [Reg.PLV_KEY_SET, .IN_LUT_DATA, .OUT_LUT_DATA])
    (hone : (payloadEntries 256 content).filter (fun e => e.1 == (regRow r).sub) = [((regRow r).sub, data)]) :
    (s.applyRecord id content).Holds r i (leNat data) := by
  have hentry {t : State} {e : Nat × List Byte} (he : e ∈ payloadEntries 256 content) (hsub : e.1 = (regRow r).sub) :
      (match (keepRegsAt id).find? (fun x : Reg × Nat => (regRow x.1).sub == e.1) with
        | some x => t.restoreKeep x.1 x.2 e.2 | none => t).Holds r i (leNat data) := by
    have hin : e ∈ (payloadEntries 256 content).filter (fun e => e.1 == (regRow r).sub) :=
      List.mem_filter.mpr ⟨he, beq_iff_eq.mpr hsub⟩
    rw [hone] at hin
    obtain rfl := List.mem_singleton.mp hin
    rw [hfind]
    exact t.restoreKeep_holds hr data
  have hlast : ((regRow r).sub, data) ∈ (payloadEntries 256 content).filter (fun e => e.1 == (regRow r).sub) := by
    rw [hone]
    exact List.mem_singleton_self _
  refine foldl_reaches (I := fun _ => True) (P := fun t : State => t.Holds r i (leNat data))
    (good := fun e : Nat × List Byte => e.1 = (regRow r).sub) (fun _ _ _ _ => trivial) (fun t e he _ ht => ?_)
    (fun t e he _ hsub => hentry he hsub) ⟨_, (List.mem_filter.mp hlast).1, rfl⟩ trivial
  by_cases hsub : e.1 = (regRow r).sub
  · exact hentry he hsub
  · split
    · next x hx =>
      have hx' : (regRow x.1).sub = e.1 := by simpa using List.find?_some hx
      exact (t.restoreKeep_reg _ _ _ fun h => hsub (by rw [← hx', h.1])).trans ht
    · exact ht

/-- The record of another index leaves the parameter. -/
theorem State.applyRecord_apart {other : Nat} (content : List Byte) (hin : (r, i) ∈ keepRegsAt id) (h : other ≠ id) :
    (s.applyRecord other content).reg r i = s.reg r i := by
  have hix {k : Nat} {x : Reg × Nat} (hx : x ∈ keepRegsAt k) : (regRow x.1).index + x.2 = k := by
    obtain ⟨q, hq, rfl⟩ := List.mem_map.mp hx
    have hall := (List.mem_filter.mp hq).2
    simp only [Bool.and_eq_true, decide_eq_true_eq] at hall
    obtain ⟨⟨-, hle⟩, -⟩ := hall
    exact Nat.add_sub_cancel' hle
  refine List.foldlRecOn (motive := fun t : State => t.reg r i = s.reg r i) _ _ rfl fun t ht e _ => ?_
  split
  · next x hx =>
    have hx' := hix (List.mem_of_find?_eq_some hx)
    refine (t.restoreKeep_reg _ _ _ fun hsame => ?_).trans ht
    rw [hsame.1, hsame.2] at hx'
    exact h (hx'.symm.trans (hix hin))
  · exact ht

/-- A register outside a list is not among parts that are of it. -/
theorem reg_notMem {l : List Reg} {fs : List Fld} {V : List Part} (hV : ∀ p ∈ V, p ∈ Sys2Proof.Machine.regs l ++ flds fs) {q : Reg}
    (hq : q ∉ l) : Part.reg q ∉ V := fun hm => by
  rcases List.mem_append.mp (hV _ hm) with hin | hin
  · obtain ⟨x, hx, he⟩ := List.mem_map.mp hin
    exact hq (Part.reg.inj he ▸ hx)
  · obtain ⟨f, -, he⟩ := List.mem_map.mp hin
    cases he

/-- What start-up restores of the records stands after it. -/
theorem State.startUp_records (h : s.takesRecords = true) (why : Nat) : RecordsApplied s (s.startUp why) := by
  intro id content r i data hid hcontent hfind hstart hr hone
  have hin : (r, i) ∈ keepRegsAt id := List.mem_of_find?_eq_some hfind
  have hlate : (s.startUp why).reg r i = s.recordsIn.reg r i :=
    (s.wordsUsed_frame.append (s.startUp_frame why)).reg r i
      (reg_notMem (l := startRegs) (fs := startSide) (by decide +kernel) hstart) (by decide)
  have hcounts : ∀ q ∈ recordRegs, q ∈ startRegs := by decide
  have hvoted := StartsFrom.wordsVoted s true
  have htakes : bit (s.wordsVoted.reg .SV_STRAPS 0) 2 = true :=
    (congrArg (bit · 2) (hvoted.reg .SV_STRAPS 0 (by decide) (.inr (by decide)))).trans h
  have hresolved (t : State) (a : Nat) : (t.resolveRecord a).2.reg r i = t.reg r i :=
    (State.resolveRecord_touches (fun _ h => h) (.refl _ t)).reg r i
      (reg_notMem (l := startRegs) (fs := startSide) (by decide) hstart) (by decide)
  have hmake {t : State} (ht : SameKeeper s t) : (t.recordRestored true id).Holds r i (leNat data) := by
    rw [State.recordRestored_eq, ht.resolved, hcontent]
    exact State.applyRecord_holds _ hfind hr hone
  have hkeep {t : State} {a : Nat} (ha : a ≠ id) (ht : t.Holds r i (leNat data)) :
      (t.recordRestored true a).Holds r i (leNat data) := by
    rw [State.recordRestored_eq]
    split
    · next c _ => exact (State.applyRecord_apart _ c hin ha).trans ((hresolved t a).trans ht)
    · refine (State.setReg_reg_of_ne _ _ _ _ fun he => ?_).trans ((hresolved t a).trans ht)
      exact hstart (he ▸ hcounts _ (by decide))
  have hrecords : s.recordsIn.Holds r i (leNat data) := by
    unfold State.recordsIn
    rw [State.restoreRecords_eq, htakes, hvoted.sameKeeper.poolHeads]
    refine foldl_reaches (I := SameKeeper s) (P := fun t : State => t.Holds r i (leNat data)) (good := (· = id))
      (fun t a _ ht => ht.trans (StartsFrom.recordRestored t true a).sameKeeper) (fun t a _ ht hp => ?_)
      (fun t a _ ht he => he ▸ hmake ht) ⟨id, List.mem_append_left _ hid, rfl⟩
      (hvoted.sameKeeper.trans (StartsFrom.readPool _ true).sameKeeper)
    by_cases ha : a = id
    · exact ha ▸ hmake ht
    · exact hkeep ha hp
  exact hlate.trans hrecords

end

end Sys2Proof.Machine
end

section
/-! Resets of the whole part (R440, R452, R480 to R484), and what they leave of the central store (R482). -/
namespace Sys2Proof.Machine

/-! ## Page writes that a reset meets (R452) -/

/-- What is put into the Keeper reads there, and every other byte as before. -/
theorem keeperPut_get (m : List Host.Cell) (a : Nat) (bs : List Byte) (b : Nat) :
    Sparse.get keeperDefault (keeperPut m a bs) b =
      if a ≤ b ∧ b < a + bs.length then bs.getD (b - a) 0 else Sparse.get keeperDefault m b := by
  induction bs generalizing m a with
  | nil => simp [keeperPut]
  | cons x xs ih =>
    rw [keeperPut, ih, Sparse.get_set, List.length_cons]
    rcases Nat.lt_trichotomy a b with hlt | rfl | hgt
    · obtain ⟨d, rfl⟩ : ∃ d, b = a + 1 + d := ⟨b - (a + 1), by omega⟩
      have hsub : a + 1 + d - a = d + 1 := by omega
      rw [hsub, List.getD_cons_succ, Nat.add_sub_cancel_left]
      by_cases h : d < xs.length
      · rw [if_pos (by omega), if_pos (by omega)]
      · rw [if_neg (by omega), if_neg (by omega), if_neg (by omega)]
    · simp
    · rw [if_neg (by omega), if_neg (by omega), if_neg (by omega)]

section
variable (s : State) (w : PageWrite) (n : Nat)

/-- Dealing with a page write writes no register but the copies of the words. -/
theorem tearPage_notMem {r : Reg} (h : r ≠ .iTRI) : Part.reg r ∉ State.tearPage_foot := fun hm => by
  have hfoot : State.tearPage_foot = [.reg .iTRI, .fld .draws] ++ ([.reg .iTRI] ++ State.keeperPage_foot) ++
      State.tearGroups_foot := rfl
  rw [hfoot] at hm
  simp [State.keeperPage_foot, State.tearGroups_foot, h] at hm

theorem State.landPage_frame : Touches State.tearPage_foot s (s.landPage w) :=
  State.landPage_touches (by decide) (.refl _ s)

theorem State.tearPage_frame : Touches State.tearPage_foot s (s.tearPage w n) :=
  State.tearPage_touches (fun _ h => h) (.refl _ s)

theorem State.landPage_stored (h : w.by_.triCopy = none) : KeeperStored s (s.landPage w) (256 * w.page) w.data := by
  intro b
  unfold State.landPage
  rw [h]
  exact keeperPut_get ..

theorem State.tearPage_stored (h : w.by_.triCopy = none) (hn : n < 16) :
    KeeperStored s (s.tearPage w n) (256 * w.page) (w.data.take (16 * n)) ∧
    16 * w.page + n ∈ (s.tearPage w n).keeperTorn := by
  have hcut : s.tearPage w n = s.tearGroups w.page n (w.data.take (16 * n)) := by
    unfold State.tearPage
    rw [if_neg (by omega), h]
  rw [hcut]
  exact ⟨fun b => keeperPut_get .., List.mem_cons_self ..⟩

/-- A page write leaves the bytes outside what it was given. -/
theorem State.tearPage_byte {a : Nat} (h : a < 256 * w.page ∨ 256 * w.page + w.data.length ≤ a) :
    (s.tearPage w n).keeperByte a = s.keeperByte a := by
  by_cases hw : w.by_.triCopy = none
  · by_cases hn : n < 16
    · refine ((s.tearPage_stored w n hw hn).1 a).trans (if_neg ?_)
      rw [List.length_take]
      omega
    · have hall : s.tearPage w n = s.landPage w := if_pos (by omega)
      rw [hall]
      exact (s.landPage_stored w hw a).trans (if_neg (by omega))
  · obtain ⟨⟨word, value, copy⟩, hcopy⟩ := Option.ne_none_iff_exists'.mp hw
    have hkeeper : (s.tearPage w n).keeper = s.keeper := by
      unfold State.tearPage State.landPage State.cond State.draw
      rw [hcopy]
      dsimp only
      split_ifs <;> rfl
    unfold State.keeperByte
    rw [hkeeper]

theorem State.landPage_eq : s.landPage w = s.tearPage w 16 := rfl

end

/-! ## What POWER and DEVICE resets share (R480) -/

section
variable (s : State)

theorem State.resetParts_reg (r : Reg) (i : Nat) :
    s.resetParts.reg r i = if resetKeeps r then s.reg r i else regDefault r i % 2 ^ r.width :=
  s.reg_of_kept resetKeeps rfl r i

theorem State.resetParts_same (f : Fld) (h : f ∉ [Fld.keeperBad, .keeperTorn, .draws]) :
    f.same State.reset s.resetParts := by
  cases f <;> first | rfl | exact absurd (by decide) h

theorem State.resetParts_keeper : SameKeeper s s.resetParts := ⟨rfl, rfl, rfl⟩

end

section
variable {s u : State} {straps why : Nat}

/-- A state whose page writes have been dealt with, reset and started up, is one that is reset. -/
theorem fullReset_of (hcut : Touches State.tearPage_foot s u)
    (hbytes : ∀ a, (∀ w ∈ s.keeperBusy, a < 256 * w.page ∨ 256 * w.page + w.data.length ≤ a) →
      u.keeperByte a = s.keeperByte a)
    (hidle : s.keeperBusy = [] → u = s) (hstraps : straps < 8) (hwhy : why < 2) :
    FullReset s (u.resetParts.afterReset straps why) straps why := by
  unfold State.afterReset
  generalize hv : u.resetParts.setReg .SV_STRAPS 0 straps = v
  have hset : Touches (regs [.SV_STRAPS]) u.resetParts v := hv ▸ State.setReg_touches (by decide) (.refl _ _)
  have hread : v.reg .SV_STRAPS 0 = straps := by
    rw [← hv]
    exact State.setReg_reg_of_lt _ _ _ (Nat.lt_trans hstraps (by decide))
  have htakes : v.takesRecords = bit straps 2 := congrArg (bit · 2) hread
  have hstart := htakes ▸ StartsFrom.startUp v why
  have hreg (r : Reg) (i : Nat) (hr : r ∉ [Reg.SV_STRAPS, .iTRI]) :
      v.reg r i = if resetKeeps r then s.reg r i else regDefault r i % 2 ^ r.width := by
    have hsplit : r ≠ .SV_STRAPS ∧ r ≠ .iTRI := by simpa using hr
    have hv' : v.reg r i = u.resetParts.reg r i := hset.reg r i (by simp [regs, hsplit.1]) (by decide)
    rw [hv', State.resetParts_reg]
    refine if_congr Iff.rfl (hcut.reg r i ?_ (by decide)) rfl
    exact tearPage_notMem hsplit.2
  refine ⟨⟨fun r i hr ha => ?_, fun f hf hk => ?_, fun ha => ?_⟩, ?_, ?_, ?_, ?_, ?_, v.startUp_words why, v.startUp_windows why,
    fun a ha => ?_, fun ha => ?_, fun hbusy => ⟨fun ha => ?_, ?_⟩⟩
  · have hne : r ∉ [Reg.SV_STRAPS, .iTRI] := fun hm => hr (by
      have hall : ∀ q ∈ [Reg.SV_STRAPS, .iTRI], q ∈ startRegs := by decide
      exact hall r hm)
    exact (hstart.reg r i hr ha).trans (hreg r i hne)
  · exact Fld.same_trans (Fld.same_trans (u.resetParts_same f hk) (hset.fld f (by simp [regs]) (by decide))) (hstart.fld f hf)
  · obtain ⟨hkeys, hluts⟩ := hstart.keys ha
    exact ⟨hkeys.trans (hset.keys (by decide)), hluts.trans (hset.fld .luts (by decide) (by decide))⟩
  · exact hstart.mem.trans (hset.mem (by decide))
  · exact hstart.time.1.trans (hset.time (by decide)).1
  · exact hstart.time.2.trans (hset.time (by decide)).2
  · exact (v.startUp_reg why 0 (by decide) (.inr (by decide)) (by decide +kernel)).trans hread
  · exact v.startUp_cause why (by omega)
  · have hkeeper : (v.startUp why).keeper = u.keeper := hstart.keeper.trans (hset.keeper (by decide))
    exact (congrArg (Sparse.get keeperDefault · a) hkeeper).trans (hbytes a ha)
  · have hzero : v.reg .LF_CYCLES 0 = 0 := (hreg .LF_CYCLES 0 (by decide)).trans rfl
    have hbefore := v.lifeRestored_reg why (r := .LF_CYCLES) 0 (by decide) (.inl (htakes.trans ha)) (by decide) (by decide)
    have hchosen : (v.lifeRestored why).chooseImage.reg .LF_CYCLES 0 = 0 :=
      ((State.chooseImage_frame _).reg _ _ (by decide) (by decide)).trans (hbefore.trans hzero)
    rw [State.startUp_eq, if_neg (show why ≠ 2 by omega)]
    by_cases h0 : why = 0
    · subst h0
      exact (State.setReg_reg_self ..).trans (by rw [hchosen]; rfl)
    · rw [if_neg h0, show (why == 0) = false from beq_false_of_ne h0]
      exact hchosen
  · obtain rfl := hidle hbusy
    exact ((u.resetParts_keeper.trans ⟨hset.keeper (by decide), hset.fld .keeperBad (by decide) (by decide),
      hset.fld .keeperTorn (by decide) (by decide)⟩)).recordsApplied (v.startUp_records (htakes.trans ha) why)
  · obtain rfl := hidle hbusy
    have hkept (r : Reg) (i : Nat) (h : resetKeeps r = true) (hne : r ≠ .SV_STRAPS) :
        v.reg r i = (u.setReg .SV_STRAPS 0 straps).reg r i := by
      rw [State.setReg_reg_of_ne _ _ _ _ hne.symm, hset.reg r i (by simp [regs, hne]) (by decide), State.resetParts_reg,
        if_pos h]
    refine (v.startUp_image why (by omega)).of_same (W := []) (fun i => hkept _ i rfl (by decide))
      (fun i => hkept _ i rfl (by decide)) (hread.trans (State.setReg_reg_of_lt _ _ _ (Nat.lt_trans hstraps (by decide))).symm)
      (.refl _ _) (by simp) (by simp) (by simp) (by simp)

theorem strapBits_lt (boot : Fin 4) (defaultsN : Bool) : strapBits boot defaultsN < 8 := by
  have hboot := boot.isLt
  cases defaultsN
  · exact Nat.lt_of_lt_of_le hboot (by decide)
  · exact Nat.add_lt_add_right hboot 4

/-- What a reset leaves of the Keeper is what the page writes left. -/
theorem State.afterReset_keeper (u : State) (straps why : Nat) : SameKeeper u (u.resetParts.afterReset straps why) := by
  have hset : SameKeeper u.resetParts (u.resetParts.setReg .SV_STRAPS 0 straps) := ⟨rfl, rfl, rfl⟩
  exact (u.resetParts_keeper.trans hset).trans (StartsFrom.startUp _ why).sameKeeper

/-- What a reset leaves of the copies of the words is what the page writes left, but for the boot selector. -/
theorem State.afterReset_tri (u : State) {straps : Nat} (why : Nat) {i : Nat} (h : i % 16 ≠ 6) :
    (u.resetParts.afterReset straps why).reg .iTRI i = u.reg .iTRI i :=
  (State.startUp_tri _ why h).trans ((State.setReg_reg_of_ne _ _ _ _ (by decide)).trans
    ((u.resetParts_reg .iTRI i).trans (if_pos rfl)))

theorem KeeperStored.of_same {s u t : State} {a : Nat} {data : List Byte} (h : KeeperStored s u a data)
    (hk : t.keeper = u.keeper) : KeeperStored s t a data := fun b =>
  (congrArg (Sparse.get keeperDefault · b) hk).trans (h b)

/-- Page writes dealt with leave the bytes outside what they were given. -/
theorem foldl_page_byte {f : State → PageWrite → State} (n : PageWrite → Nat) (hf : ∀ t w, f t w = t.tearPage w (n w))
    {l : List PageWrite} {a : Nat} (h : ∀ w ∈ l, a < 256 * w.page ∨ 256 * w.page + w.data.length ≤ a) (t : State) :
    (l.foldl f t).keeperByte a = t.keeperByte a := by
  induction l generalizing t with
  | nil => rfl
  | cons w l ih =>
    rw [List.foldl_cons, ih (fun x hx => h x (by simp [hx])), hf]
    exact t.tearPage_byte w (n w) (h w (by simp))

/-- Every command keeps the form of the state, whatever it changes. -/
theorem exec_touches_all {W : List Part} (hW : ∀ p ∈ allParts, p ∈ W) (c : Instr) (s : State) :
    OutTouches W s (exec c s) := by
  obtain ⟨t, ht, hkeeps⟩ := exec_keeps c s
  exact ⟨t, ht, .all hW hkeeps⟩

/-! ## The resets -/

/-- R452, R480 to R482, R484. A POWER reset resets everything but the contents of the Keeper and the NOR. -/
theorem powerReset_resets (boot : Fin 4) (defaultsN : Bool) (groups : List (Fin 17)) (s : State) :
    ∃ t, exec (.powerReset boot defaultsN groups) s = .next t ∧
      Touches [.keeper, .anyReg, .keys, .mem, .time, .anyFld] s t ∧
      (FullReset s t (strapBits boot defaultsN) 0 ∧
       (s.keeperBusy = [] → t.keeper = s.keeper ∧ t.keeperTorn = s.keeperTorn ∧ t.keeperBad = s.keeperBad) ∧
       ∀ w, s.keeperBusy = [w] → w.by_.triCopy = none →
         let g := (groups.getD (keeperBank w.page) 0).val
         if g = 16 then KeeperStored s t (256 * w.page) w.data
         else KeeperStored s t (256 * w.page) (w.data.take (16 * g)) ∧ 16 * w.page + g ∈ t.keeperTorn) := by
  let cut (t : State) (w : PageWrite) : State := t.tearPage w (groups.getD (keeperBank w.page) 0).val
  have hrun : exec (.powerReset boot defaultsN groups) s =
      .next ((s.keeperBusy.foldl cut s).resetParts.afterReset (strapBits boot defaultsN) 0) := rfl
  have hframe : OutTouches [.keeper, .anyReg, .keys, .mem, .time, .anyFld] s (exec (.powerReset boot defaultsN groups) s) :=
    exec_touches_all (by decide) _ s
  have hcut : Touches State.tearPage_foot s (s.keeperBusy.foldl cut s) :=
    foldl_touches (.refl _ s) fun _ _ h => State.tearPage_touches (fun _ hp => hp) h
  refine completes_of_next hrun hframe ⟨?_, fun hidle => ?_, fun w hw hcopy => ?_⟩
  · exact fullReset_of hcut (fun a ha => foldl_page_byte _ (fun _ _ => rfl) ha s) (fun hidle => by rw [hidle]; rfl)
      (strapBits_lt ..) (by decide)
  · rw [hidle]
    have hkeeper := State.afterReset_keeper s (strapBits boot defaultsN) 0
    exact ⟨hkeeper.keeper, hkeeper.torn, hkeeper.bad⟩
  · rw [hw]
    have hkeeper := State.afterReset_keeper (cut s w) (strapBits boot defaultsN) 0
    dsimp only
    by_cases hall : (groups.getD (keeperBank w.page) 0).val = 16
    · rw [if_pos hall]
      have hland : cut s w = s.landPage w := congrArg (s.tearPage w) hall
      exact KeeperStored.of_same (hland ▸ s.landPage_stored w hcopy) hkeeper.keeper
    · rw [if_neg hall]
      obtain ⟨hstored, htorn⟩ := s.tearPage_stored w _ hcopy (show (groups.getD (keeperBank w.page) 0).val < 16 by omega)
      exact ⟨hstored.of_same hkeeper.keeper, hkeeper.torn ▸ htorn⟩

/-- A DEVICE reset lets page writes run to their end, and resets everything else. -/
theorem State.deviceReset_resets (s : State) {straps : Nat} (h : straps < 8) : DeviceReset s (s.deviceReset straps) straps := by
  have hcut : Touches State.tearPage_foot s (s.keeperBusy.foldl State.landPage s) :=
    foldl_touches (.refl _ s) fun _ _ h => State.landPage_touches (by decide) h
  unfold State.deviceReset
  refine ⟨fullReset_of hcut (fun a ha => foldl_page_byte (fun _ => 16) (fun t w => t.landPage_eq w) ha s)
    (fun hidle => by rw [hidle]; rfl) h (by decide), fun hidle => ?_, fun w hw => ?_⟩
  · rw [hidle]
    exact (State.afterReset_keeper s straps 1).keeper
  · rw [hw]
    split
    · next word value copy hcopy =>
      intro h6
      have hland : s.landPage w = s.setReg .iTRI (triIx copy word) value := by
        unfold State.landPage
        rw [hcopy]
      exact (State.afterReset_tri (s.landPage w) 1 h6).trans (by rw [hland]; exact State.setReg_reg_self ..)
    · next hcopy =>
      exact (s.landPage_stored w hcopy).of_same (State.afterReset_keeper _ straps 1).keeper

/-- R480, R484. An accepted write of SV_RESET is a DEVICE reset; one that R380 refuses is answered with its status. -/
theorem svReset_resets (acc : Accessor) (boot : Fin 4) (defaultsN : Bool) (s : State) :
    if s.reachable acc = false then exec (.svReset acc boot defaultsN) s = .next s
    else
      match writeFault s acc .SV_RESET 0 1 1 false with
      | some code => exec (.svReset acc boot defaultsN) s = .next (s.answered acc .SV_RESET 0 code)
      | none =>
        ∃ t, exec (.svReset acc boot defaultsN) s = .next t ∧
          Touches [.anyReg, .keys, .mem, .keeper, .time, .anyFld] s t ∧
          DeviceReset s t (strapBits boot defaultsN) := by
  have hrun : exec (.svReset acc boot defaultsN) s =
      if s.reachable acc && (writeFault s acc .SV_RESET 0 1 1 false).isNone then
        .next (s.deviceReset (strapBits boot defaultsN))
      else .next (writeParam s acc .SV_RESET 0 1 (fun t => t)) := rfl
  have hframe : OutTouches [.anyReg, .keys, .mem, .keeper, .time, .anyFld] s (exec (.svReset acc boot defaultsN) s) :=
    exec_touches_all (by decide) _ s
  cases hreach : s.reachable acc with
  | false =>
    rw [if_pos rfl, hrun, hreach, Bool.false_and]
    exact congrArg Host.Outcome.next (writeParam_of_unreachable hreach)
  | true =>
    rw [if_neg (by decide)]
    cases hfault : writeFault s acc .SV_RESET 0 1 1 false with
    | some code =>
      rw [hrun, hreach, hfault]
      exact congrArg Host.Outcome.next (writeParam_of_fault hreach hfault)
    | none =>
      refine completes_of_next (hrun.trans ?_) hframe (s.deviceReset_resets (strapBits_lt boot defaultsN))
      rw [hreach, hfault]
      rfl

end

/-! ## The thermal restart (R440, R480) -/

section
variable (s : State)

theorem State.recordRestored_badLog (apply : Bool) (id : Nat) : (s.recordRestored apply id).badLog = s.badLog := by
  have hresolved : (s.resolveRecord id).2.badLog = s.badLog :=
    (State.resolveRecord_touches (fun _ h => h) (.refl _ s)).fld .badLog (by decide) (by decide)
  have happlied (u : State) (c : List Byte) : (u.applyRecord id c).badLog = u.badLog :=
    (State.applyRecord_touches (fun _ h => h) (.refl _ u)).fld .badLog (by decide) (by decide)
  rw [State.recordRestored_eq]
  generalize (s.resolveRecord id).2 = u at hresolved
  cases (s.resolveRecord id).1 with
  | none => exact hresolved
  | some c =>
    cases apply with
    | true => exact (happlied u c).trans hresolved
    | false => exact hresolved

/-- Where the Keeper holds no group that cannot be read, start-up logs none. -/
theorem State.startUp_badLog (hbad : s.keeperBad = []) (htorn : s.keeperTorn = []) (why : Nat) :
    (s.startUp why).badLog = s.badLog := by
  have hvoted : Touches (State.voteWord_foot ++ State.loadComparators_foot) s s.wordsVoted :=
    State.loadComparators_touches (fun _ => List.mem_append_right _)
      (forN_touches (.refl _ s) fun _ _ h => State.voteWord_touches (fun _ => List.mem_append_left _) h)
  have hread : s.wordsVoted.readPool = s.wordsVoted := by
    have hb := (hvoted.fld .keeperBad (by decide) (by decide)).trans hbad
    have ht := (hvoted.fld .keeperTorn (by decide) (by decide)).trans htorn
    unfold State.readPool
    rw [hb, ht, List.foldl_nil, List.foldl_nil]
  have hrecords : s.recordsIn.badLog = s.wordsVoted.badLog := by
    unfold State.recordsIn
    rw [State.restoreRecords_eq, hread]
    exact List.foldlRecOn (motive := fun t : State => t.badLog = s.wordsVoted.badLog) _ _ rfl
      fun t ht id _ => (t.recordRestored_badLog _ id).trans ht
  exact ((s.wordsUsed_frame.append (s.startUp_frame why)).fld .badLog (by decide +kernel) (by decide)).trans
    (hrecords.trans (hvoted.fld .badLog (by decide) (by decide)))

theorem State.thermalParts_reg (r : Reg) (i : Nat) :
    s.thermalParts.reg r i = if thermalKeeps r then s.reg r i else regDefault r i % 2 ^ r.width :=
  s.reg_of_kept thermalKeeps rfl r i

theorem State.thermalParts_same (f : Fld) (h : f ∉ thermalFlds) : f.same State.reset s.thermalParts := by
  cases f <;> first | rfl | exact absurd (by decide) h

/-- Every PLL but PLL-NT goes to its bypass clock, for no cause. -/
def State.onBypass : State := forN 7 s (fun t k => if k = 5 then t else (t.setReg .iCK_WHY k 0).toBypass k)

theorem State.onBypass_frame : Touches (.reg .iCK_WHY :: State.toBypass_foot) s s.onBypass :=
  forN_touches (.refl _ s) fun _ _ h => .ite h (State.toBypass_touches (by decide) (State.setReg_touches (by decide) h))

theorem State.onBypass_state {k : Nat} (hk : k < 7) :
    s.onBypass.reg .CK_STATE k = if k = 5 then s.reg .CK_STATE k else 0 := by
  refine State.forN_reg_each (g := fun k v => if k = 5 then v else 0) (fun t k j => ?_) s hk
  by_cases h5 : k = 5
  · rw [if_pos h5, if_pos h5, ite_self]
  · rw [if_neg h5, State.toBypass_state, State.setReg_reg_of_ne _ _ _ _ (by decide), if_neg h5]

/-- Every channel that is held is to retrain all its steps. -/
theorem State.holdChannels_left {c : Nat} (hc : c < 32) : s.holdChannels.reg .iRT_LEFT c = 8 := by
  refine (State.setReg_reg_of_ne _ _ _ _ (by decide)).trans ?_
  refine State.forN_reg_each (g := fun _ _ => 8) (fun t k j => ?_) s hc
  by_cases h : k = j
  · subst h
    rw [if_pos rfl]
    exact t.startRetrain_left k
  · rw [if_neg h]
    exact State.startRetrain_onlyAt t k (l := [.iRT_LEFT]) (by decide) _ (by simp) _ h

/-- What a thermal restart hands to start-up. -/
def State.shutEnded : State := s.thermalParts.onBypass.holdChannels

theorem State.shutEnded_frame : Touches (Sys2Proof.Machine.regs thermalRegs) s.thermalParts s.shutEnded :=
  State.holdChannels_touches (by decide) (s.thermalParts.onBypass_frame.mono (by decide))

/-- A thermal restart keeps what the units of the domains that run on hold, and resets all else. -/
theorem thermalRestart_resets :
    let apply := bit (s.reg .SV_STRAPS 0) 2
    if s.reg .iPHASE 0 ≠ 4 ∨ s.reg .iCMP_COOL 0 < 30001 then exec .thermalRestart s = .next s
    else
      ∃ t, exec .thermalRestart s = .next t ∧
        Touches [.anyReg, .mem, .keeper, .time, .keys, .anyFld] s t ∧
        t.mem = s.mem ∧ t.poison = s.poison ∧ t.tb = s.tb ∧ t.local_ = s.local_ ∧ t.keeper = s.keeper ∧
        t.egress = s.egress ∧ t.macs = s.macs ∧ t.caps = s.caps ∧ t.eyeEdges = s.eyeEdges ∧
        t.keeperBusy = s.keeperBusy ∧ (s.keeperBad = [] → s.keeperTorn = [] → t.badLog = s.badLog) ∧
        (∀ r i, r ∉ startRegs → r ∉ thermalRegs → (apply = false ∨ (regRow r).keep = false) →
          t.reg r i = if thermalKeeps r then s.reg r i else regDefault r i % 2 ^ r.width) ∧
        (∀ f, f ∉ startFlds → f ∉ thermalFlds → f.same State.reset t) ∧
        (apply = true → RecordsApplied s t) ∧ TriwordsUsed t ∧ WindowsTaken t ∧ t.reg .SU_LAST_RESET 0 = 2 ∧
        (∀ k, k < 7 → k ≠ 5 → t.reg .CK_STATE k = 0) ∧ t.reg .CK_STATE 5 = s.reg .CK_STATE 5 ∧
        (∀ c, c < 32 → t.reg .iRT_LEFT c = 8) ∧ t.reg .iBOOT_IMAGE 0 = s.reg .iBOOT_IMAGE 0 := by
  intro apply
  have hrun : exec .thermalRestart s = if s.reg .iPHASE 0 ≠ 4 ∨ s.reg .iCMP_COOL 0 < 30001 then .next s
      else .next (s.shutEnded.startUp 2) := rfl
  by_cases hwait : s.reg .iPHASE 0 ≠ 4 ∨ s.reg .iCMP_COOL 0 < 30001
  · rw [if_pos hwait]
    exact hrun.trans (if_pos hwait)
  · rw [if_neg hwait]
    refine completes_of_next (hrun.trans (if_neg hwait)) (exec_touches_all (by decide) _ s) ?_
    have hframe := s.shutEnded_frame
    have hkept (r : Reg) (i : Nat) (h : r ∉ thermalRegs) :
        s.shutEnded.reg r i = if thermalKeeps r then s.reg r i else regDefault r i % 2 ^ r.width :=
      (hframe.reg r i (reg_notMem (l := thermalRegs) (fs := []) (by simp [flds]) h) (by decide)).trans
        (s.thermalParts_reg r i)
    have htakes : s.shutEnded.takesRecords = apply := congrArg (bit · 2) (hkept .SV_STRAPS 0 (by decide))
    have hstart := htakes ▸ StartsFrom.startUp s.shutEnded 2
    have hfld (f : Fld) (h : f ∉ startFlds) : f.same s.thermalParts (s.shutEnded.startUp 2) :=
      Fld.same_trans (hframe.fld f (by simp [Sys2Proof.Machine.regs]) (by decide)) (hstart.fld f h)
    have hpool : SameKeeper s s.shutEnded :=
      ⟨hframe.keeper (by decide), hframe.fld .keeperBad (by decide) (by decide), hframe.fld .keeperTorn (by decide) (by decide)⟩
    have hstays {r : Reg} (i : Nat) (hearly : r ∉ voteRegs ++ recordRegs) (hkeep : (regRow r).keep = false)
        (hlate : Part.reg r ∉ wordsFoot ++ lastFoot) : (s.shutEnded.startUp 2).reg r i = s.shutEnded.reg r i :=
      s.shutEnded.startUp_reg 2 i hearly (.inr hkeep) hlate
    have hpll {k : Nat} (hk : k < 7) : (s.shutEnded.startUp 2).reg .CK_STATE k = if k = 5 then s.reg .CK_STATE k else 0 := by
      rw [hstays k (by decide) (by decide) (by decide +kernel)]
      refine ((State.holdChannels_touches (fun _ h => h) (.refl _ s.thermalParts.onBypass)).reg _ _ (by decide)
        (by decide)).trans ((s.thermalParts.onBypass_state hk).trans (if_congr Iff.rfl ?_ rfl))
      exact s.thermalParts_reg .CK_STATE k
    refine ⟨hstart.mem.trans (hframe.mem (by decide)), hfld .poison (by decide), hstart.time.1.trans (hframe.time (by decide)).1,
      hstart.time.2.trans (hframe.time (by decide)).2, hstart.keeper.trans (hframe.keeper (by decide)), hfld .egress (by decide),
      hfld .macs (by decide), hfld .caps (by decide), hfld .eyeEdges (by decide), hfld .keeperBusy (by decide),
      fun hbad htorn => ?_, fun r i hr hth ha => (hstart.reg r i hr ha).trans (hkept r i hth),
      fun f hf hth => Fld.same_trans (s.thermalParts_same f hth) (hfld f hf),
      fun ha => hpool.recordsApplied (s.shutEnded.startUp_records (htakes.trans ha) 2), s.shutEnded.startUp_words 2,
      s.shutEnded.startUp_windows 2, s.shutEnded.startUp_cause 2 (by decide),
      fun k hk h5 => (hpll hk).trans (if_neg h5), (hpll (by decide)).trans (if_pos rfl), fun c hc => ?_,
      s.shutEnded.startUp_imageKept.trans (hkept .iBOOT_IMAGE 0 (by decide))⟩
    · exact (s.shutEnded.startUp_badLog (hpool.bad.trans hbad) (hpool.torn.trans htorn) 2).trans
        (hframe.fld .badLog (by decide) (by decide))
    · exact (hstays c (by decide) (by decide) (by decide +kernel)).trans (s.thermalParts.onBypass.holdChannels_left hc)

end

/-- Settles O59: what each reset of the whole part leaves. -/
theorem resetCommands : Obligations.ResetCommands := by
  unfold Obligations.ResetCommands
  refine ⟨powerReset_resets, fun boot defaultsN s => ?_, svReset_resets, thermalRestart_resets⟩
  exact completes_of_next rfl (exec_touches_all (by decide) _ s) (s.deviceReset_resets (strapBits_lt boot defaultsN))

/-! ## The store at a reset (R482) -/

section
variable {s t : State}

/-- After a POWER or DEVICE reset the whole sweep is to run. -/
theorem FullReset.store {straps why : Nat} (h : FullReset s t straps why) :
    t.mem = [] ∧ t.poison = [] ∧ t.reg .MS_INIT_STATE 0 = 0 ∧ ∀ p, t.reg .iSWEEP p = 0 := by
  obtain ⟨⟨hreg, hfld, -⟩, hmem, -⟩ := h
  exact ⟨hmem, hfld .poison (by decide) (by decide), (hreg .MS_INIT_STATE 0 (by decide) (.inr (by decide))).trans rfl,
    fun p => (hreg .iSWEEP p (by decide) (.inr (by decide))).trans rfl⟩

/-- What leaves the store and the state of its initialisation. -/
def KeepsStore (s t : State) : Prop :=
  t.mem = s.mem ∧ t.poison = s.poison ∧ t.reg .MS_INIT_STATE 0 = s.reg .MS_INIT_STATE 0 ∧
    ∀ p, t.reg .iSWEEP p = s.reg .iSWEEP p

theorem KeepsStore.of_frame {c : Instr} {V : List Part} (h : OutTouches V s (exec c s))
    (hV : ∀ p ∈ [Part.mem, .fld .poison, .anyFld, .reg .MS_INIT_STATE, .reg .iSWEEP, .anyReg], p ∉ V)
    (hc : exec c s = .next t) : KeepsStore s t := by
  obtain ⟨u, hu, hT⟩ := h
  obtain rfl := Host.Outcome.next.inj (hu.symm.trans hc)
  exact ⟨hT.mem (hV _ (by simp)), hT.fld .poison (hV _ (by simp)) (hV _ (by simp)), hT.reg _ _ (hV _ (by simp)) (hV _ (by simp)),
    fun p => hT.reg _ _ (hV _ (by simp)) (hV _ (by simp))⟩

theorem KeepsStore.thermalRestart (hc : exec .thermalRestart s = .next t) : KeepsStore s t := by
  have h := thermalRestart_resets s
  dsimp only at h
  by_cases hwait : s.reg .iPHASE 0 ≠ 4 ∨ s.reg .iCMP_COOL 0 < 30001
  · rw [if_pos hwait] at h
    obtain rfl := Host.Outcome.next.inj (h.symm.trans hc)
    exact ⟨rfl, rfl, rfl, fun _ => rfl⟩
  · rw [if_neg hwait] at h
    obtain ⟨u, hu, -, hmem, hpoison, -, -, -, -, -, -, -, -, -, hreg, -⟩ := h
    obtain rfl := Host.Outcome.next.inj (hu.symm.trans hc)
    exact ⟨hmem, hpoison, hreg .MS_INIT_STATE 0 (by decide) (by decide) (.inr (by decide)),
      fun p => hreg .iSWEEP p (by decide) (by decide) (.inr (by decide))⟩

end

/-- Settles O16: which resets initialise the central store. -/
theorem resetsAndTheStore : Obligations.ResetsAndTheStore := by
  unfold Obligations.ResetsAndTheStore
  intro s
  refine ⟨fun boot defaultsN groups t hc => ?_, fun boot defaultsN t hc => ?_, fun c hin t hc => ?_⟩
  · obtain ⟨u, hu, -, hfull, -⟩ := powerReset_resets boot defaultsN groups s
    obtain rfl := Host.Outcome.next.inj (hu.symm.trans hc)
    exact hfull.store
  · obtain rfl := Host.Outcome.next.inj hc
    exact (s.deviceReset_resets (strapBits_lt boot defaultsN)).1.store
  · simp only [List.mem_cons, List.not_mem_nil, or_false] at hin
    rcases hin with rfl | rfl | rfl | rfl | rfl | rfl | rfl | rfl
    · exact KeepsStore.thermalRestart hc
    · exact KeepsStore.of_frame (execWarmRestart_touches (fun _ h => h) (.refl _ s)) (by decide +kernel) hc
    · exact KeepsStore.of_frame (execPipFreezeWatchdog_touches (fun _ h => h) (.refl _ s)) (by decide +kernel) hc
    · exact KeepsStore.of_frame (execWatchdogTimeout_touches (_core := 0)
        (fun _ h => h) (.refl _ s)) (by decide +kernel) hc
    · exact KeepsStore.of_frame (execWatchdogTimeout_touches (_core := 1)
        (fun _ h => h) (.refl _ s)) (by decide +kernel) hc
    · exact KeepsStore.of_frame (execWatchdogTimeout_touches (_core := 2)
        (fun _ h => h) (.refl _ s)) (by decide +kernel) hc
    · exact KeepsStore.of_frame (execWatchdogTimeout_touches (_core := 3)
        (fun _ h => h) (.refl _ s)) (by decide +kernel) hc
    · exact KeepsStore.of_frame (execTrialTimeout_touches (fun _ h => h) (.refl _ s)) (by decide +kernel) hc

end Sys2Proof.Machine
end

section
/-! The warm restart (R495, R496). -/
namespace Sys2Proof.Machine

/-! ## Parts of a warm restart -/

section
variable (s : State)

/-- Validations of one kind under way end INVALID. -/
def State.stopValidation (r : Reg) (t : State) (i : Nat) : State := if t.reg r i = 1 then t.setReg r i 3 else t

theorem State.endValidations_eq : s.endValidations =
    forN 2 (forN 1024 (forN 64 s (State.stopValidation .CAL_STATE)) (State.stopValidation .CUE_STATE))
      (State.stopValidation .PG_STATE) := rfl

theorem State.stopValidation_reg {r : Reg} (hr : 3 < 2 ^ r.width) (t : State) (k j : Nat) :
    (State.stopValidation r t k).reg r j = if k = j then (if t.reg r j = 1 then 3 else t.reg r j) else t.reg r j := by
  unfold State.stopValidation
  by_cases hk : k = j
  · subst hk
    rw [if_pos rfl]
    by_cases h1 : t.reg r k = 1
    · rw [if_pos h1, if_pos h1, State.setReg_reg_of_lt _ _ _ hr]
    · rw [if_neg h1, if_neg h1]
  · rw [if_neg hk]
    split
    · exact State.setReg_reg_of_ix_ne _ _ _ _ hk
    · rfl

theorem State.stopValidations_frame (r : Reg) (n : Nat) : Touches [.reg r] s (forN n s (State.stopValidation r)) :=
  forN_touches (.refl _ s) fun _ _ h => .ite (State.setReg_touches (by simp) h) h

theorem State.stopValidations_reg {r : Reg} (hr : 3 < 2 ^ r.width) {n c : Nat} (hc : c < n) :
    (forN n s (State.stopValidation r)).reg r c = if s.reg r c = 1 then 3 else s.reg r c :=
  State.forN_reg_each (g := fun _ v => if v = 1 then 3 else v) (State.stopValidation_reg hr) s hc

/-- What the end of the validations leaves of their states. -/
theorem State.endValidations_states :
    (∀ n, n < 64 → s.endValidations.reg .CAL_STATE n = if s.reg .CAL_STATE n = 1 then 3 else s.reg .CAL_STATE n) ∧
    (∀ n, n < 1024 → s.endValidations.reg .CUE_STATE n = if s.reg .CUE_STATE n = 1 then 3 else s.reg .CUE_STATE n) ∧
    (∀ p, p < 2 → s.endValidations.reg .PG_STATE p = if s.reg .PG_STATE p = 1 then 3 else s.reg .PG_STATE p) := by
  rw [State.endValidations_eq]
  refine ⟨fun n hn => ?_, fun n hn => ?_, fun p hp => ?_⟩
  · rw [(State.stopValidations_frame _ .PG_STATE 2).reg .CAL_STATE n (by decide) (by decide),
      (State.stopValidations_frame _ .CUE_STATE 1024).reg .CAL_STATE n (by decide) (by decide)]
    exact State.stopValidations_reg s (by decide) hn
  · rw [(State.stopValidations_frame _ .PG_STATE 2).reg .CUE_STATE n (by decide) (by decide),
      State.stopValidations_reg _ (by decide) hn,
      (State.stopValidations_frame s .CAL_STATE 64).reg .CUE_STATE n (by decide) (by decide)]
  · rw [State.stopValidations_reg _ (by decide) hp,
      (State.stopValidations_frame _ .CUE_STATE 1024).reg .PG_STATE p (by decide) (by decide),
      (State.stopValidations_frame s .CAL_STATE 64).reg .PG_STATE p (by decide) (by decide)]

theorem State.endProgramming_state : s.endProgramming.reg .FW_PROG_STATE 0 =
    if 1 ≤ s.reg .FW_PROG_STATE 0 ∧ s.reg .FW_PROG_STATE 0 ≤ 4 then 6 else s.reg .FW_PROG_STATE 0 := by
  unfold State.endProgramming
  dsimp only
  by_cases h : 1 ≤ s.reg .FW_PROG_STATE 0 ∧ s.reg .FW_PROG_STATE 0 ≤ 4
  · rw [if_pos h, if_pos h, (State.imageBad_frame _ _).reg _ _ (by decide) (by decide)]
    exact State.setReg_reg_of_lt _ _ _ (by decide)
  · rw [if_neg h, if_neg h]

/-- The Pip cores released (R32, R496). -/
def State.releasePips : State :=
  (s.setReg .MS_FROZEN_CORE 0 (withBits (s.reg .MS_FROZEN_CORE 0) 0x63 0x60 0)).setReg .iPIP_FROZE_NS 0 0

theorem State.releasePips_frame : Touches [.reg .MS_FROZEN_CORE, .reg .iPIP_FROZE_NS] s s.releasePips :=
  State.setReg_touches (by simp) (State.setReg_touches (by simp) (.refl _ s))

/-- The four bits of the Pip cores are 0, and the other cores keep theirs. -/
theorem State.releasePips_frozen : bits (s.releasePips.reg .MS_FROZEN_CORE 0) 0x63 0x60 = 0 ∧
    ∀ k, k < 0x60 → bit (s.releasePips.reg .MS_FROZEN_CORE 0) k = bit (s.reg .MS_FROZEN_CORE 0) k := by
  have hvalue : s.releasePips.reg .MS_FROZEN_CORE 0 = withBits (s.reg .MS_FROZEN_CORE 0) 0x63 0x60 0 % 2 ^ 256 :=
    (State.setReg_reg_of_ne _ _ _ _ (by decide)).trans (State.setReg_reg_self ..)
  rw [hvalue]
  refine ⟨?_, fun k hk => ?_⟩
  · rw [bits_mod (n := 4) rfl (by decide), bits_withBits_self (n := 4) rfl, Nat.zero_mod]
  · rw [bit_mod (by omega)]
    unfold bit
    rw [testBit_withBits (n := 4) rfl, if_pos hk]

/-- Of a warm restart, everything before the counts: the cores are released, and what was under way ends. -/
def State.restartHalted : State :=
  ((((s.releasePips).endDelivery 0 5).endDelivery 1 5).endValidations).endProgramming

/-- Of a warm restart, everything before the choice of the image. -/
def State.restartCounted : State :=
  (((s.restartHalted.bump .FW_RESTARTS 0).bump .LF_WARM 0).setReg .SU_LAST_RESET 0 3).writeLife

theorem State.warmRestart_eq (cause : Nat) (hrun : s.reg .iPHASE 0 = 1) (hfree : s.reg .iPLV_CUR 0 = 0) :
    s.warmRestart cause = ((s.restartCounted.chooseImage).setReg .iWARM_CAUSE 0 cause).setReg .iPHASE 0 3 := by
  unfold State.warmRestart
  rw [if_neg (by simp [hrun]), if_neg (by simp [hfree])]
  rfl

end

/-! ## The warm restart has begun -/

/-- The parts that a warm restart writes before the counts. -/
def haltParts : List Part := [.reg .MS_FROZEN_CORE, .reg .iPIP_FROZE_NS] ++ State.endDelivery_foot ++
  State.endValidations_foot ++ State.endProgramming_foot

theorem State.restartHalted_frame (s : State) : Touches haltParts s s.restartHalted :=
  State.endProgramming_touches (fun _ h => List.mem_append_right _ h)
    (State.endValidations_touches (fun _ h => List.mem_append_left _ (List.mem_append_right _ h))
      (State.endDelivery_touches (fun _ h => List.mem_append_left _ (List.mem_append_left _ (List.mem_append_right _ h)))
        (State.endDelivery_touches (fun _ h => List.mem_append_left _ (List.mem_append_left _ (List.mem_append_right _ h)))
          (s.releasePips_frame.mono (by decide)))))

/-- What is under way when a warm restart begins has ended. -/
theorem State.restartHalted_ends (s : State) :
    let t := s.restartHalted
    bits (t.reg .MS_FROZEN_CORE 0) 0x63 0x60 = 0 ∧
    (∀ k, k < 0x60 → bit (t.reg .MS_FROZEN_CORE 0) k = bit (s.reg .MS_FROZEN_CORE 0) k) ∧
    (∀ n, n < 64 → t.reg .CAL_STATE n ≠ 1) ∧
    (∀ n, n < 1024 → t.reg .CUE_STATE n = if s.reg .CUE_STATE n = 1 then 3 else s.reg .CUE_STATE n) ∧
    (∀ p, p < 2 → t.reg .PG_STATE p = if s.reg .PG_STATE p = 1 then 3 else s.reg .PG_STATE p) ∧
    t.reg .FW_PROG_STATE 0 = (if 1 ≤ s.reg .FW_PROG_STATE 0 ∧ s.reg .FW_PROG_STATE 0 ≤ 4 then 6 else s.reg
      .FW_PROG_STATE 0) := by
  have hdelivery : Touches (State.endDelivery_foot ++ State.endDelivery_foot) s.releasePips
      ((s.releasePips.endDelivery 0 5).endDelivery 1 5) :=
    Touches.append (State.endDelivery_touches (fun _ h => h) (.refl _ _))
      (State.endDelivery_touches (fun _ h => h) (.refl _ _))
  unfold State.restartHalted
  generalize (s.releasePips.endDelivery 0 5).endDelivery 1 5 = u at hdelivery
  have hvalidations : Touches State.endValidations_foot u u.endValidations :=
    State.endValidations_touches (fun _ h => h) (.refl _ u)
  have hprogram : Touches State.endProgramming_foot u.endValidations u.endValidations.endProgramming :=
    State.endProgramming_touches (fun _ h => h) (.refl _ _)
  have hcores : u.endValidations.endProgramming.reg .MS_FROZEN_CORE 0 = s.releasePips.reg .MS_FROZEN_CORE 0 := by
    rw [hprogram.reg _ _ (by decide) (by decide), hvalidations.reg _ _ (by decide) (by decide),
      hdelivery.reg _ _ (by decide) (by decide)]
  have hbefore (q : Reg) (j : Nat) (hd : Part.reg q ∉ State.endDelivery_foot ++ State.endDelivery_foot)
      (hp : Part.reg q ∉ [Part.reg .MS_FROZEN_CORE, .reg .iPIP_FROZE_NS]) : u.reg q j = s.reg q j :=
    (hdelivery.reg q j hd (by decide)).trans (s.releasePips_frame.reg q j hp (by decide))
  obtain ⟨hcal, hcue, hprog⟩ := u.endValidations_states
  obtain ⟨hreleased, hothers⟩ := s.releasePips_frozen
  dsimp only
  refine ⟨(congrArg (bits · 0x63 0x60) hcores).trans hreleased,
    fun k hk => (congrArg (bit · k) hcores).trans (hothers k hk), fun n hn => ?_, fun n hn => ?_, fun p hp => ?_, ?_⟩
  · rw [hprogram.reg _ _ (by decide) (by decide), hcal n hn]
    split
    · decide
    · assumption
  · rw [hprogram.reg _ _ (by decide) (by decide), hcue n hn, hbefore _ _ (by decide) (by decide)]
  · rw [hprogram.reg _ _ (by decide) (by decide), hprog p hp, hbefore _ _ (by decide) (by decide)]
  · rw [State.endProgramming_state, hvalidations.reg _ _ (by decide) (by decide),
      hbefore _ _ (by decide) (by decide)]

/-- The parts that a warm restart writes before the choice of the image. -/
def countParts : List Part :=
  haltParts ++ [.reg .FW_RESTARTS, .reg .LF_WARM, .reg .SU_LAST_RESET] ++ State.writeLife_foot

/-- The parts that a warm restart writes after the counts. -/
def choiceParts : List Part := State.chooseImage_foot ++ [.reg .iWARM_CAUSE, .reg .iPHASE]

theorem State.writeLife_frame (s : State) : Touches State.writeLife_foot s s.writeLife :=
  State.writeLife_touches (fun _ h => h) (.refl _ s)

theorem State.restartCounted_frame (s : State) : Touches countParts s s.restartCounted :=
  State.writeLife_touches (fun _ h => List.mem_append_right _ h)
    (State.setReg_touches (by simp [countParts]) (State.setReg_touches (by simp [countParts])
      (State.setReg_touches (by simp [countParts])
        (s.restartHalted_frame.mono fun _ h => List.mem_append_left _ (List.mem_append_left _ h)))))

/-- The counts of a warm restart, and what it leaves of the state before them. -/
theorem State.restartCounted_counts (s : State) :
    let t := s.restartCounted
    t.reg .SU_LAST_RESET 0 = 3 ∧ Counted s t .FW_RESTARTS 0 1 ∧ Counted s t .LF_WARM 0 1 ∧
    ∀ q j, q ∉ [Reg.FW_RESTARTS, .LF_WARM, .SU_LAST_RESET] → Part.reg q ∉ State.writeLife_foot →
      t.reg q j = s.restartHalted.reg q j := by
  have hhalt := s.restartHalted_frame
  unfold State.restartCounted
  generalize s.restartHalted = u at hhalt
  have hlife := State.writeLife_frame (((u.bump .FW_RESTARTS 0).bump .LF_WARM 0).setReg .SU_LAST_RESET 0 3)
  dsimp only
  refine ⟨?_, Counted.touches (Counted.of_touches hhalt (by decide) ?_ (by decide)) hlife (by decide) (by decide),
    Counted.touches (Counted.of_touches hhalt (by decide) ?_ (by decide)) hlife (by decide) (by decide),
    fun q j hq hp => ?_⟩
  · exact (hlife.reg _ _ (by decide) (by decide)).trans (State.setReg_reg_of_lt _ _ _ (by decide))
  · unfold Counted
    rw [State.setReg_reg_of_ne _ _ _ _ (by decide), State.reg_bump, if_neg (by simp), State.reg_bump, if_pos (by simp)]
  · unfold Counted
    rw [State.setReg_reg_of_ne _ _ _ _ (by decide), State.reg_bump, if_pos (by simp), State.reg_bump, if_neg (by simp)]
  · simp only [List.mem_cons, List.not_mem_nil, or_false, not_or] at hq
    obtain ⟨hrestarts, hwarm, hreset⟩ := hq
    rw [hlife.reg q j hp (by decide), State.setReg_reg_of_ne _ _ _ _ (Ne.symm hreset), State.reg_bump,
      if_neg fun h => hwarm h.1.symm, State.reg_bump, if_neg fun h => hrestarts h.1.symm]

/-- A warm restart of a firmware that runs, with no Plovan message being performed, has begun (R495, R496). -/
theorem State.warmRestart_begun (s : State) {cause : Nat} (hcause : cause < 256) (hrun : s.reg .iPHASE 0 = 1)
    (hfree : s.reg .iPLV_CUR 0 = 0) : RestartBegun s (s.warmRestart cause) cause := by
  rw [s.warmRestart_eq cause hrun hfree]
  have hframe := s.restartCounted_frame
  obtain ⟨hreset, hrestarts, hwarm, hkept⟩ := s.restartCounted_counts
  obtain ⟨hreleased, hothers, hcal, hcue, hprog, himage⟩ := s.restartHalted_ends
  generalize s.restartCounted = u at hframe hreset hrestarts hwarm hkept
  have hlast : Touches [.reg .iWARM_CAUSE, .reg .iPHASE] u.chooseImage
      ((u.chooseImage.setReg .iWARM_CAUSE 0 cause).setReg .iPHASE 0 3) :=
    State.setReg_touches (by simp) (State.setReg_touches (by simp) (.refl _ _))
  have hend : Touches choiceParts u ((u.chooseImage.setReg .iWARM_CAUSE 0 cause).setReg .iPHASE 0 3) :=
    u.chooseImage_frame.append hlast
  have hchosen := u.chooseImage_chosen.of_same (fun i => hframe.reg .iTRI i (by decide +kernel) (by decide +kernel))
    (fun i => hframe.reg .iNOR_VALID i (by decide +kernel) (by decide +kernel))
    (hframe.reg .SV_STRAPS 0 (by decide +kernel) (by decide +kernel))
    hlast (by decide) (by decide) (by decide) (by decide)
  have hphase : ((u.chooseImage.setReg .iWARM_CAUSE 0 cause).setReg .iPHASE 0 3).reg .iPHASE 0 = 3 :=
    State.setReg_reg_of_lt _ _ _ (by decide)
  have howed : ((u.chooseImage.setReg .iWARM_CAUSE 0 cause).setReg .iPHASE 0 3).reg .iWARM_CAUSE 0 = cause :=
    (State.setReg_reg_of_ne _ _ _ _ (by decide)).trans (State.setReg_reg_of_lt _ _ _ hcause)
  generalize (u.chooseImage.setReg .iWARM_CAUSE 0 cause).setReg .iPHASE 0 3 = t at hend hchosen hphase howed
  have hsame (q : Reg) (j : Nat) (hc : Part.reg q ∉ choiceParts)
      (hq : q ∉ [Reg.FW_RESTARTS, .LF_WARM, .SU_LAST_RESET]) (hp : Part.reg q ∉ State.writeLife_foot) :
      t.reg q j = s.restartHalted.reg q j := (hend.reg q j hc (by decide)).trans (hkept q j hq hp)
  refine ⟨hphase, howed, (hend.reg _ _ (by decide) (by decide)).trans hreset,
    hrestarts.touches hend (by decide) (by decide), hwarm.touches hend (by decide) (by decide), ?_,
    fun k hk => ?_, fun n hn => ?_, fun n hn => ?_, fun p hp => ?_, ?_, hchosen⟩
  · rw [hsame _ _ (by decide) (by decide) (by decide)]
    exact hreleased
  · rw [hsame _ _ (by decide) (by decide) (by decide)]
    exact hothers k hk
  · rw [hsame _ _ (by decide) (by decide) (by decide)]
    exact hcal n hn
  · rw [hsame _ _ (by decide) (by decide) (by decide)]
    exact hcue n hn
  · rw [hsame _ _ (by decide) (by decide) (by decide)]
    exact hprog p hp
  · rw [hsame _ _ (by decide) (by decide) (by decide)]
    exact himage

/-- A firmware that does not run does not restart. -/
theorem State.warmRestart_idle (s : State) (cause : Nat) (h : s.reg .iPHASE 0 ≠ 1) : s.warmRestart cause = s :=
  if_pos h

/-- That a warm restart has begun is seen in a state that keeps what it wrote. -/
theorem RestartBegun.touches {s t u : State} {cause : Nat} {V : List Part} (h : RestartBegun s t cause)
    (hT : Touches V t u) (hV : ∀ r ∈ [Reg.iPHASE, .iWARM_CAUSE, .SU_LAST_RESET, .FW_RESTARTS, .LF_WARM, .MS_FROZEN_CORE,
      .CAL_STATE, .CUE_STATE, .PG_STATE, .FW_PROG_STATE, .iBOOT_IMAGE, .iBOOT_TRIAL, .iTRI, .TH_KEEPER_GATE,
      .KP_PROTECT], Part.reg r ∉ V) (hany : Part.anyReg ∉ V) (hlog : Part.fld .evLog ∉ V) (hfld : Part.anyFld ∉ V) :
    RestartBegun s u cause := by
  have hreg (r : Reg) (j : Nat) (hr : r ∈ [Reg.iPHASE, .iWARM_CAUSE, .SU_LAST_RESET, .FW_RESTARTS, .LF_WARM,
      .MS_FROZEN_CORE, .CAL_STATE, .CUE_STATE, .PG_STATE, .FW_PROG_STATE, .iBOOT_IMAGE, .iBOOT_TRIAL, .iTRI,
      .TH_KEEPER_GATE, .KP_PROTECT]) : u.reg r j = t.reg r j := hT.reg r j (hV r hr) hany
  obtain ⟨hphase, hcause, hreset, hrestarts, hwarm, hreleased, hothers, hcal, hcue, hprog, himage, hchosen⟩ := h
  unfold RestartBegun Counted at *
  simp only [hreg _ _ (show Reg.iPHASE ∈ _ by decide), hreg _ _ (show Reg.iWARM_CAUSE ∈ _ by decide),
    hreg _ _ (show Reg.SU_LAST_RESET ∈ _ by decide), hreg _ _ (show Reg.FW_RESTARTS ∈ _ by decide),
    hreg _ _ (show Reg.LF_WARM ∈ _ by decide), hreg _ _ (show Reg.MS_FROZEN_CORE ∈ _ by decide),
    hreg _ _ (show Reg.CAL_STATE ∈ _ by decide), hreg _ _ (show Reg.CUE_STATE ∈ _ by decide),
    hreg _ _ (show Reg.PG_STATE ∈ _ by decide), hreg _ _ (show Reg.FW_PROG_STATE ∈ _ by decide)]
  exact ⟨hphase, hcause, hreset, hrestarts, hwarm, hreleased, hothers, hcal, hcue, hprog, himage,
    hchosen.of_same (fun _ => rfl) (fun _ => rfl) rfl hT (fun r hr => hV r (by fin_cases hr <;> decide)) hany hlog
      hfld⟩

end Sys2Proof.Machine
end

section
/-! Firmware images (R486, R497, R498). -/
namespace Sys2Proof.Machine

/-! ## Programming (R497) -/

section
variable (s : State)

theorem State.noteAccess_frame (acc : Accessor) (id : Nat) :
    Touches [.reg .iACC_STATUS, .reg .iACC_ID] s (s.noteAccess acc id) :=
  State.noteAccess_touches (fun _ h => h) (.refl _ s)

theorem State.programTarget_eq : s.programTarget =
    if s.reg .FW_STATE 0 = 2 then (if s.bootMode = 1 then 0 else if s.bootMode = 2 then 1 else 1 - s.selActive % 2)
    else 1 - s.reg .FW_RUNNING 0 % 2 := by
  unfold State.programTarget
  by_cases hrec : s.reg .FW_STATE 0 = 2
  · rw [if_pos hrec, if_pos hrec]
    split
    · rename_i h; rw [if_pos h]
    · rename_i h; rw [if_neg (by omega), if_pos h]
    · rename_i h1 h2; rw [if_neg h1, if_neg h2]
  · rw [if_neg hrec, if_neg hrec]

theorem State.programTarget_lt : s.programTarget < 2 := by
  rw [State.programTarget_eq]
  split_ifs <;> omega

/-- Whether a write of FW_PROGRAM is refused: on trial, and while a sequence runs. -/
theorem State.programStart_eq : s.programStart =
    if s.reg .FW_STATE 0 = 1 ∨
        (s.reg .FW_PROG_STATE 0 ≠ 0 ∧ s.reg .FW_PROG_STATE 0 ≠ 5 ∧ s.reg .FW_PROG_STATE 0 ≠ 6) then
      s.refuse Code.odRange
    else ((s.setReg .iFW_TARGET 0 s.programTarget).setReg .FW_PROG_STATE 0 1).setReg .iNOR_VALID s.programTarget 0 :=
  if_congr (or_congr Iff.rfl (by simp [and_assoc])) rfl rfl

/-- FW_PROGRAM (R497). -/
theorem fwProgram_completes (acc : Accessor) (hp : s.Passes acc .FW_PROGRAM 0 1) :
    let st := s.reg .FW_PROG_STATE 0
    let k := if s.reg .FW_STATE 0 = 2 then
        (if s.bootMode = 1 then 0 else if s.bootMode = 2 then 1 else 1 - s.selActive % 2)
      else 1 - s.reg .FW_RUNNING 0 % 2
    if s.reg .FW_STATE 0 = 1 ∨ (st ≠ 0 ∧ st ≠ 5 ∧ st ≠ 6) then
      exec (.fwProgram acc) s = .next (s.answered acc .FW_PROGRAM 0 Code.odRange)
    else
      ∃ t, exec (.fwProgram acc) s = .next t ∧ Touches Changes.fwProgram s t ∧
        t.status = 0 ∧ t.reg .FW_PROG_STATE 0 = 1 ∧ t.reg .iFW_TARGET 0 = k ∧ t.reg .iNOR_VALID k = 0 ∧
        OnlyAt s t [.iNOR_VALID] k := by
  dsimp only
  rw [← s.programTarget_eq]
  have hframe : OutTouches Changes.fwProgram s (exec (.fwProgram acc) s) :=
    execFwProgram_touches (by decide) (.refl _ s)
  have hk : s.programTarget < 2 ^ Reg.width .iFW_TARGET := Nat.lt_trans s.programTarget_lt (by decide)
  refine write_completes_unless rfl hp hframe (fun hr => (State.programStart_eq _).trans (if_pos hr)) fun hr => ?_
  rw [(s.setStatus 0).programStart_eq.trans (if_neg hr)]
  have htarget : (s.setStatus 0).programTarget = s.programTarget := rfl
  rw [htarget]
  generalize s.programTarget = k at hk
  refine ⟨State.noteAccess_status _ _ _, ?_, ?_, ?_, ?_⟩
  · rw [State.noteAccess_reg _ _ _ _ (by decide) (by decide), State.setReg_reg_of_ne _ _ _ _ (by decide)]
    exact State.setReg_reg_of_lt _ _ _ (by decide)
  · rw [State.noteAccess_reg _ _ _ _ (by decide) (by decide), State.setReg_reg_of_ne _ _ _ _ (by decide),
      State.setReg_reg_of_ne _ _ _ _ (by decide)]
    exact State.setReg_reg_of_lt _ _ _ hk
  · rw [State.noteAccess_reg _ _ _ _ (by decide) (by decide)]
    exact State.setReg_reg_of_lt _ _ _ (by decide)
  · refine OnlyAt.noteAccess ?_ (by decide) (by decide) acc _
    refine OnlyAt.setReg ?_ _ _
    intro r hr j _
    obtain rfl := List.mem_singleton.mp hr
    rw [State.setReg_reg_of_ne _ _ _ _ (by decide), State.setReg_reg_of_ne _ _ _ _ (by decide)]
    rfl

/-! ## The end of the sequence (R486, R497) -/

/-- The slot holds the image that was programmed (R497). -/
def State.programmed (data : List Byte) (k : Nat) : State :=
  (((s.setReg .FW_PROG_STATE 0 5).setReg .iNOR_VALID k 1).setReg .iNOR_VERSION k (leAt data 4 4)).setReg .iNOR_PLEN k
    (leAt data 16 4)

/-- The sequence FAILED, which is reported (R497). -/
def State.programFailed (k : Nat) : State := (s.setReg .FW_PROG_STATE 0 6).imageBad k

/-- What the sequence has read of the image: from the store, or from host memory. -/
def State.imageRead (host : List Byte) (seen : Seen) : ReadAnswer × State :=
  if s.reg .FW_SRC_SPACE 0 = 0 then
    (s.see seen).fetch s.pipMaster .pip (s.reg .FW_SRC 0) (s.reg .FW_LENGTH 0)
  else (⟨false, host.take (s.reg .FW_LENGTH 0), []⟩, s)

theorem State.imageRead_answer (host : List Byte) (seen : Seen) : (s.imageRead host seen).1 =
    if s.reg .FW_SRC_SPACE 0 = 0 then
      ((s.see seen).fetch s.pipMaster .pip (s.reg .FW_SRC 0) (s.reg .FW_LENGTH 0)).1
    else ⟨false, host.take (s.reg .FW_LENGTH 0), []⟩ := apply_ite Prod.fst ..

theorem State.imageRead_reg (host : List Byte) (seen : Seen) {q : Reg} (j : Nat) (hq : Part.reg q ∉ State.fetch_foot) :
    (s.imageRead host seen).2.reg q j = s.reg q j := by
  unfold State.imageRead
  split
  · exact (State.fetch_touches (fun _ h => h) (.refl _ (s.see seen))).reg q j hq (by decide)
  · rfl

theorem execFwProgramDone_eq (host : List Byte) (readBack : Bool) (seen : Seen) :
    exec (.fwProgramDone host readBack seen) s =
      if s.reg .FW_PROG_STATE 0 = 0 ∨ 5 ≤ s.reg .FW_PROG_STATE 0 ∨
          (s.reg .FW_SRC_SPACE 0 = 0 ∧ s.storeServes = false) then .next s
      else .next ((if !(s.imageRead host seen).1.frozen && (s.imageRead host seen).1.poisoned.isEmpty &&
          imageOk (s.imageRead host seen).1.data && readBack then
        (s.imageRead host seen).2.programmed (s.imageRead host seen).1.data (s.reg .iFW_TARGET 0)
        else (s.imageRead host seen).2.programFailed (s.reg .iFW_TARGET 0)).see s.seen) := by
  change execFwProgramDone host readBack seen s = _
  unfold execFwProgramDone
  refine if_congr Iff.rfl rfl ?_
  dsimp only
  simp only [← State.imageRead.eq_1]
  generalize s.imageRead host seen = x
  obtain ⟨r, s1⟩ := x
  dsimp only
  split <;> rfl

theorem State.programmed_slot (data : List Byte) (k : Nat) :
    let t := s.programmed data k
    t.reg .FW_PROG_STATE 0 = 5 ∧ t.imageValid k = true ∧ t.Holds .iNOR_VERSION k (leAt data 4 4) ∧
    t.Holds .iNOR_PLEN k (leAt data 16 4) := by
  unfold State.programmed State.Holds State.imageValid
  refine ⟨?_, ?_, ?_, State.setReg_reg_self ..⟩
  · rw [State.setReg_reg_of_ne _ _ _ _ (by decide), State.setReg_reg_of_ne _ _ _ _ (by decide),
      State.setReg_reg_of_ne _ _ _ _ (by decide)]
    exact State.setReg_reg_of_lt _ _ _ (by decide)
  · rw [State.setReg_reg_of_ne _ _ _ _ (by decide), State.setReg_reg_of_ne _ _ _ _ (by decide), beq_iff_eq]
    exact State.setReg_reg_of_lt _ _ _ (by decide)
  · exact (State.setReg_reg_of_ne _ _ _ _ (by decide)).trans (State.setReg_reg_self ..)

theorem State.programmed_only (data : List Byte) (k : Nat) :
    OnlyAt s (s.programmed data k) [.iNOR_VALID, .iNOR_VERSION, .iNOR_PLEN] k := by
  refine OnlyAt.setReg (OnlyAt.setReg (OnlyAt.setReg (fun r hr j _ => ?_) _ _) _ _) _ _
  exact State.setReg_reg_of_ne _ _ _ _ (ne_of_mem_of_not_mem hr (by decide)).symm

theorem State.programFailed_reg (k : Nat) {q : Reg} (j : Nat) (h : q ∉ [Reg.FW_PROG_STATE, .EV_COUNT, .NQ_SEQ, .NQ_LOST]) :
    (s.programFailed k).reg q j = s.reg q j := by
  simp only [List.mem_cons, List.not_mem_nil, or_false, not_or] at h
  obtain ⟨hstate, hcount, hseq, hlost⟩ := h
  exact (State.raise_reg _ _ _ _ _ hcount hseq hlost).trans (State.setReg_reg_of_ne _ _ _ _ (Ne.symm hstate))

theorem State.programFailed_state (k : Nat) : (s.programFailed k).reg .FW_PROG_STATE 0 = 6 :=
  (State.raise_reg _ _ _ _ _ (by decide) (by decide) (by decide)).trans (State.setReg_reg_of_lt _ _ _ (by decide))

/-- FW_PROGRAM_DONE (R486, R497). -/
theorem fwProgramDone_completes (host : List Byte) (readBack : Bool) (seen : Seen) :
    let st := s.reg .FW_PROG_STATE 0
    let k := s.reg .iFW_TARGET 0
    let n := s.reg .FW_LENGTH 0
    let r : ReadAnswer := if s.reg .FW_SRC_SPACE 0 = 0 then ((s.see seen).fetch s.pipMaster .pip (s.reg .FW_SRC 0)
        n).1
      else ⟨false, host.take n, []⟩
    if st = 0 ∨ 5 ≤ st ∨ (s.reg .FW_SRC_SPACE 0 = 0 ∧ s.storeServes = false) then
      exec (.fwProgramDone host readBack seen) s = .next s
    else
      ∃ t, exec (.fwProgramDone host readBack seen) s = .next t ∧ Touches Changes.fwProgramDone s t ∧
        OnlyAt s t [.iNOR_VALID, .iNOR_VERSION, .iNOR_PLEN] k ∧
        if r.frozen = false ∧ r.poisoned = [] ∧ imageOk r.data = true ∧ readBack = true then
          t.reg .FW_PROG_STATE 0 = 5 ∧ t.imageValid k = true ∧ t.Holds .iNOR_VERSION k (leAt r.data 4 4) ∧
          t.Holds .iNOR_PLEN k (leAt r.data 16 4)
        else t.reg .FW_PROG_STATE 0 = 6 ∧ t.reg .iNOR_VALID k = s.reg .iNOR_VALID k ∧
          t.lastEvent = some (Code.fwImageBad, packBits [(8, k)]) := by
  have hframe : OutTouches Changes.fwProgramDone s (exec (.fwProgramDone host readBack seen) s) :=
    execFwProgramDone_touches (by decide) (.refl _ s)
  dsimp only
  rw [← s.imageRead_answer host seen]
  refine completes_unless (execFwProgramDone_eq s host readBack seen) hframe fun _ => ?_
  have hread (q : Reg) (j : Nat) (hq : Part.reg q ∉ State.fetch_foot) : (s.imageRead host seen).2.reg q j = s.reg q j :=
    s.imageRead_reg host seen j hq
  generalize s.reg .iFW_TARGET 0 = k
  generalize s.imageRead host seen = x at hread
  obtain ⟨r, u⟩ := x
  dsimp only at hread ⊢
  have honly : OnlyAt s u [.iNOR_VALID, .iNOR_VERSION, .iNOR_PLEN] k := fun q hq j _ =>
    hread q j ((by decide +kernel : ∀ q ∈ [Reg.iNOR_VALID, .iNOR_VERSION, .iNOR_PLEN], Part.reg q ∉ State.fetch_foot) q
      hq)
  by_cases hgood : r.frozen = false ∧ r.poisoned = [] ∧ imageOk r.data = true ∧ readBack = true
  · rw [if_pos hgood, if_pos (by simp [hgood])]
    have hslot := u.programmed_slot r.data k
    have hslots := u.programmed_only r.data k
    generalize u.programmed r.data k = t at hslot hslots
    exact ⟨fun q hq j hj => (hslots q hq j hj).trans (honly q hq j hj), hslot⟩
  · rw [if_neg hgood, if_neg (by simpa [and_assoc] using hgood)]
    refine ⟨fun q hq j hj => Eq.trans ?_ (honly q hq j hj), u.programFailed_state k, ?_, State.raise_lastEvent ..⟩
    · exact u.programFailed_reg k j (by fin_cases hq <;> decide)
    · exact (u.programFailed_reg k k (by decide)).trans (hread _ k (by decide +kernel))

end

/-! ## The switch of the image (R498) -/

section
variable (s : State)

/-- A trial asked for: another slot whose image is valid, of a firmware that is RUNNING. -/
theorem State.fwSwitch_trial : s.fwSwitch 1 =
    if s.reg .FW_STATE 0 = 0 ∧ s.imageValid (1 - s.reg .FW_RUNNING 0 % 2) = true then
      (s.setSelector (selector s.selActive (1 - s.reg .FW_RUNNING 0 % 2) 1)).warmRestart 0xFF
    else s.refuse Code.odRange := rfl

theorem State.fwSwitch_commit : s.fwSwitch 2 = if s.reg .FW_STATE 0 = 1 then
      ((s.setSelector (selector (s.reg .FW_RUNNING 0 % 2) 0xFF 0)).raise Code.fwSwitched none
        [(8, s.reg .FW_RUNNING 0 % 2), (32, s.reg .FW_VERSION 0)]).setReg .FW_STATE 0 0
    else s.refuse Code.odRange := by
  unfold State.fwSwitch
  rw [if_neg (by decide), if_pos rfl]

theorem State.fwSwitch_restart : s.fwSwitch 3 =
    if s.reg .FW_STATE 0 = 2 then s.refuse Code.odRange else s.warmRestart 0xFF := by
  unfold State.fwSwitch
  rw [if_neg (by decide), if_neg (by decide)]

/-- The trial image is the one chosen, and no attempt is left (R489). -/
theorem ImageChosen.of_trial {u t : State} {a x : Nat} (h : ImageChosen u t) (ha : a < 256) (hx : x < 2)
    (hword : u.triword 6 = selector a x 1) (hmode : u.bootMode = 0) (hvalid : u.imageValid x = true)
    (hopen : t.takesSelector = true) :
    t.reg .iBOOT_IMAGE 0 = x ∧ t.reg .iBOOT_TRIAL 0 = 1 ∧ t.triword 6 = selector (a % 2) x 0 := by
  obtain ⟨hactive, htrial, hattempts⟩ := selector_fields (active := a) (trial := x) (attempts := 1) ha (by omega) (by decide)
  rw [← hword] at hactive htrial hattempts
  have hxmod : x % 2 = x := Nat.mod_eq_of_lt hx
  unfold ImageChosen at h
  unfold State.takesSelector at hopen
  rw [hmode] at h
  simp only [State.selActive, State.selTrial, State.selAttempts, hactive, htrial, hattempts, hxmod, hopen,
    State.picked, hvalid, if_true, forall_const] at h
  rw [if_neg (by omega), if_neg (by decide)] at h
  obtain ⟨himage, hboot, -, hleft⟩ := h
  exact ⟨himage, hboot, hleft⟩

/-- FW_SWITCH_TRIAL (R498). -/
theorem fwSwitchTrial_completes (acc : Accessor) (hmessage : s.NoMessage) (hp : s.Passes acc .FW_SWITCH 0 1) :
    let run := s.reg .FW_RUNNING 0 % 2
    let u := ((s.send []).setStatus 0).setSelector (selector s.selActive (1 - run) 1)
    if s.reg .FW_STATE 0 = 0 ∧ s.imageValid (1 - run) = true then
      ∃ t, exec (.fwSwitchTrial acc) s = .next t ∧ Touches Changes.fwSwitchTrial s t ∧
        t.status = 0 ∧ (s.reg .iPHASE 0 = 1 → RestartBegun u t 0xFF ∧
          (s.keeperOpen = true → s.pageProtected 0 = false → s.bootMode = 0 →
            t.reg .iBOOT_IMAGE 0 = 1 - run ∧ t.reg .iBOOT_TRIAL 0 = 1 ∧
            t.triword 6 = selector (s.selActive % 2) (1 - run) 0)) ∧
        (s.reg .iPHASE 0 ≠ 1 → t.reg .iPHASE 0 = s.reg .iPHASE 0 ∧
          (s.keeperOpen = true → s.pageProtected 0 = false → t.triword 6 = selector s.selActive (1 - run) 1))
    else exec (.fwSwitchTrial acc) s = .next ((s.send []).answered acc .FW_SWITCH 0 Code.odRange) := by
  dsimp only
  obtain ⟨hfree, -, -⟩ := hmessage
  have hframe : OutTouches Changes.fwSwitchTrial s (exec (.fwSwitchTrial acc) s) :=
    execFwSwitchTrial_touches (by decide) (.refl _ s)
  have hpasses : (s.send []).Passes acc .FW_SWITCH 0 1 := hp
  by_cases hgo : s.reg .FW_STATE 0 = 0 ∧ s.imageValid (1 - s.reg .FW_RUNNING 0 % 2) = true
  case neg => exact (if_neg hgo).mpr (write_refused rfl hpasses ((State.fwSwitch_trial _).trans (if_neg hgo)))
  have hswitch : ((s.send []).setStatus 0).fwSwitch 1 =
      (((s.send []).setStatus 0).setSelector (selector s.selActive (1 - s.reg .FW_RUNNING 0 % 2) 1)).warmRestart 0xFF :=
    (State.fwSwitch_trial _).trans (if_pos hgo)
  refine (if_pos hgo).mpr (write_completes rfl hpasses hframe ?_)
  rw [hswitch]
  obtain ⟨-, hvalid⟩ := hgo
  have hactive : s.selActive < 256 := Nat.mod_lt _ (by decide)
  have hother : 1 - s.reg .FW_RUNNING 0 % 2 < 2 := by omega
  generalize 1 - s.reg .FW_RUNNING 0 % 2 = x at hvalid hother
  have hselector := ((s.send []).setStatus 0).setSelector_frame (selector s.selActive x 1)
  have hwritten := ((s.send []).setStatus 0).setSelector_word (selector_lt s.selActive x 1)
  generalize ((s.send []).setStatus 0).setSelector (selector s.selActive x 1) = u at hselector hwritten
  have hreg (q : Reg) (j : Nat) (hq : Part.reg q ∉ State.setSelector_foot) : u.reg q j = s.reg q j :=
    hselector.reg q j hq (by decide)
  have hphase : u.reg .iPHASE 0 = s.reg .iPHASE 0 := hreg _ _ (by decide)
  have hstatus : u.status = 0 := hselector.fld .status (by decide) (by decide)
  have hrestart : Touches State.warmRestart_foot u (u.warmRestart 0xFF) :=
    State.warmRestart_touches (fun _ h => h) (.refl _ u)
  have htakes (ho : s.keeperOpen = true) (hpage : s.pageProtected 0 = false) : s.takesSelector = true := by
    simp [State.takesSelector, ho, hpage]
  refine ⟨?_, fun hrun => ?_, fun hidle => ?_⟩
  · exact (State.noteAccess_status _ _ _).trans
      (Eq.trans (hrestart.fld .status (by decide) (by decide)) hstatus)
  · have hbegun := (u.warmRestart_begun (cause := 0xFF) (by decide) (hphase.trans hrun)
      ((hreg _ _ (by decide)).trans hfree)).touches (State.noteAccess_frame _ acc (Reg.FW_SWITCH.id 0)) (by decide) (by decide) (by decide)
      (by decide)
    refine ⟨hbegun, fun ho hpage hmode => ?_⟩
    obtain ⟨-, -, -, -, -, -, -, -, -, -, -, hchosen⟩ := hbegun
    refine hchosen.of_trial hactive hother (hwritten (htakes ho hpage))
      ((congrArg (bits · 1 0) (hreg .SV_STRAPS 0 (by decide))).trans hmode)
      ((congrArg (· == 1) (hreg .iNOR_VALID x (by decide))).trans hvalid) ?_
    rw [State.takesSelector_of_touches (State.noteAccess_frame _ acc (Reg.FW_SWITCH.id 0)) (by decide) (by decide) (by decide),
      State.takesSelector_of_touches hrestart (by decide) (by decide) (by decide),
      State.takesSelector_of_touches hselector (by decide) (by decide) (by decide)]
    exact htakes ho hpage
  · rw [u.warmRestart_idle 0xFF (by rwa [hphase])]
    refine ⟨(State.noteAccess_reg _ _ _ _ (by decide) (by decide)).trans hphase, fun ho hpage => ?_⟩
    exact (State.triword_of_touches (State.noteAccess_frame _ acc (Reg.FW_SWITCH.id 0)) (by decide) (by decide) 6).trans
      (hwritten (htakes ho hpage))

/-- FW_SWITCH_COMMIT (R498). -/
theorem fwSwitchCommit_completes (acc : Accessor) (hp : s.Passes acc .FW_SWITCH 0 2) :
    let run := s.reg .FW_RUNNING 0 % 2
    if s.reg .FW_STATE 0 = 1 then
      ∃ t, exec (.fwSwitchCommit acc) s = .next t ∧ Touches Changes.fwSwitchCommit s t ∧
        t.status = 0 ∧ t.reg .FW_STATE 0 = 0 ∧ t.reg .iPHASE 0 = s.reg .iPHASE 0 ∧
        t.lastEvent = some (Code.fwSwitched, packBits [(8, run), (32, s.reg .FW_VERSION 0)]) ∧
        (s.keeperOpen = true → s.pageProtected 0 = false → t.triword 6 = selector run 0xFF 0)
    else exec (.fwSwitchCommit acc) s = .next (s.answered acc .FW_SWITCH 0 Code.odRange) := by
  dsimp only
  have hframe : OutTouches Changes.fwSwitchCommit s (exec (.fwSwitchCommit acc) s) :=
    execFwSwitchCommit_touches (by decide) (.refl _ s)
  by_cases hgo : s.reg .FW_STATE 0 = 1
  case neg => exact (if_neg hgo).mpr (write_refused rfl hp ((State.fwSwitch_commit _).trans (if_neg hgo)))
  refine (if_pos hgo).mpr (write_completes rfl hp hframe ?_)
  rw [(s.setStatus 0).fwSwitch_commit.trans (if_pos hgo)]
  have hrun : (s.setStatus 0).reg .FW_RUNNING 0 = s.reg .FW_RUNNING 0 := rfl
  have hversion : (s.setStatus 0).reg .FW_VERSION 0 = s.reg .FW_VERSION 0 := rfl
  rw [hrun, hversion]
  generalize s.reg .FW_RUNNING 0 % 2 = run
  have hselector := (s.setStatus 0).setSelector_frame (selector run 0xFF 0)
  have hwritten := (s.setStatus 0).setSelector_word (selector_lt run 0xFF 0)
  generalize (s.setStatus 0).setSelector (selector run 0xFF 0) = u at hselector hwritten
  have hstatus : u.status = 0 := hselector.fld .status (by decide) (by decide)
  generalize hv : u.raise Code.fwSwitched none [(8, run), (32, s.reg .FW_VERSION 0)] = v
  have hraise : Touches State.raise_foot u v := hv ▸ State.raise_touches (fun _ h => h) (.refl _ u)
  have hlast : v.lastEvent = some (Code.fwSwitched, packBits [(8, run), (32, s.reg .FW_VERSION 0)]) :=
    hv ▸ State.raise_lastEvent ..
  refine ⟨?_, ?_, ?_, ?_, fun ho hpage => ?_⟩
  · exact (State.noteAccess_status _ _ _).trans
      (Eq.trans (hraise.fld .status (by decide) (by decide)) hstatus)
  · rw [State.noteAccess_reg _ _ _ _ (by decide) (by decide)]
    exact State.setReg_reg_of_lt _ _ _ (by decide)
  · rw [State.noteAccess_reg _ _ _ _ (by decide) (by decide), State.setReg_reg_of_ne _ _ _ _ (by decide),
      hraise.reg _ _ (by decide) (by decide), hselector.reg _ _ (by decide) (by decide)]
    rfl
  · exact (State.lastEvent_of_touches (State.noteAccess_frame _ acc (Reg.FW_SWITCH.id 0)) (by decide) (by decide)).trans hlast
  · have hafter : Touches [.reg .FW_STATE] v (v.setReg .FW_STATE 0 0) := State.setReg_touches (by simp) (.refl _ v)
    rw [State.triword_of_touches (State.noteAccess_frame _ acc (Reg.FW_SWITCH.id 0)) (by decide) (by decide),
      State.triword_of_touches hafter (by decide) (by decide), State.triword_of_touches hraise (by decide) (by decide)]
    have htakes : (s.setStatus 0).takesSelector = true := by
      change (s.keeperOpen && !s.pageProtected 0) = true
      simp [ho, hpage]
    exact hwritten htakes

/-- FW_SWITCH_RESTART (R498). -/
theorem fwSwitchRestart_completes (acc : Accessor) (hmessage : s.NoMessage) (hp : s.Passes acc .FW_SWITCH 0 3) :
    if s.reg .FW_STATE 0 = 2 then
      exec (.fwSwitchRestart acc) s = .next ((s.send []).answered acc .FW_SWITCH 0 Code.odRange)
    else
      ∃ t, exec (.fwSwitchRestart acc) s = .next t ∧ Touches Changes.fwSwitchRestart s t ∧
        t.status = 0 ∧ if s.reg .iPHASE 0 = 1 then RestartBegun s t 0xFF
        else t = (s.send []).answered acc .FW_SWITCH 0 0 := by
  obtain ⟨hfree, -, -⟩ := hmessage
  have hframe : OutTouches Changes.fwSwitchRestart s (exec (.fwSwitchRestart acc) s) :=
    execFwSwitchRestart_touches (by decide) (.refl _ s)
  have hpasses : (s.send []).Passes acc .FW_SWITCH 0 3 := hp
  refine write_completes_unless rfl hpasses hframe (fun hr => (State.fwSwitch_restart _).trans (if_pos hr)) fun hr => ?_
  rw [((s.send []).setStatus 0).fwSwitch_restart.trans (if_neg hr)]
  by_cases hrun : s.reg .iPHASE 0 = 1
  · rw [if_pos hrun]
    have hbegun : RestartBegun s (((s.send []).setStatus 0).warmRestart 0xFF) 0xFF :=
      ((s.send []).setStatus 0).warmRestart_begun (by decide) hrun hfree
    have hrestart : Touches State.warmRestart_foot ((s.send []).setStatus 0) (((s.send []).setStatus 0).warmRestart 0xFF) :=
      State.warmRestart_touches (fun _ h => h) (.refl _ _)
    exact ⟨(State.noteAccess_status _ _ _).trans (Eq.trans (hrestart.fld .status (by decide) (by decide)) rfl),
      hbegun.touches (State.noteAccess_frame _ acc (Reg.FW_SWITCH.id 0)) (by decide) (by decide) (by decide) (by decide)⟩
  · rw [if_neg hrun, ((s.send []).setStatus 0).warmRestart_idle 0xFF hrun]
    exact ⟨State.noteAccess_status _ _ _, rfl⟩

end

/-- Settles O57: what programming and switching firmware images do. -/
theorem firmwareUpdate : Obligations.FirmwareUpdate :=
  ⟨fun acc s hp => fwProgram_completes s acc hp, fun host readBack seen s => fwProgramDone_completes s host readBack seen,
    fun acc s hm hp => fwSwitchTrial_completes s acc hm hp, fun acc s hp => fwSwitchCommit_completes s acc hp,
    fun acc s hm hp => fwSwitchRestart_completes s acc hm hp⟩

end Sys2Proof.Machine
end

section
/-! Sessions that close, and the key table (R392, R393). -/
namespace Sys2Proof.Machine

/-! ## Loops and maps -/

/-- A loop whose step `k` changes at most part `k` of a view of the state leaves of each part what its own step made of
it. -/
theorem forN_each {α β : Type} {v : α → Nat → β} {f : α → Nat → α} {g : Nat → β → β}
    (hf : ∀ t k j, v (f t k) j = if k = j then g k (v t j) else v t j) (s : α) (n c : Nat) :
    v (forN n s f) c = if c < n then g c (v s c) else v s c := by
  induction n with
  | zero => rfl
  | succ n ih =>
    rw [forN_succ, hf, ih]
    obtain hlt | rfl | hgt := Nat.lt_trichotomy c n
    · rw [if_neg (Nat.ne_of_gt hlt), if_pos hlt, if_pos (Nat.lt_succ_of_lt hlt)]
    · rw [if_pos rfl, if_neg (Nat.lt_irrefl c), if_pos (Nat.lt_succ_self c)]
    · rw [if_neg (Nat.ne_of_lt hgt), if_neg (Nat.not_lt.mpr (Nat.le_of_lt hgt)), if_neg (by omega)]

/-- A key that a map does not list reads as the default. -/
theorem Sparse.get_of_notMem {α : Type} (d : Nat → α) {m : List (Nat × α)} {k : Nat} (h : k ∉ m.map Prod.fst) :
    Sparse.get d m k = d k := by
  induction m with
  | nil => rfl
  | cons e m ih =>
    obtain ⟨j, v⟩ := e
    simp only [List.map_cons, List.mem_cons, not_or] at h
    obtain ⟨hj, hm⟩ := h
    rw [Sparse.get_cons, if_neg (Ne.symm hj), ih hm]

/-! ## What a session leaves as it closes (R392) -/

section
variable (s : State)

/-- What the close of session `n` does to commit group `g`. -/
def State.leaveGroup (n : Nat) (t : State) (g : Nat) : State :=
  if t.reg .CG_OWNER g ≠ n then t
  else if t.reg .CG_STATE g = 1 ∨ t.reg .CG_STATE g = 3 then t.idleGroup g
  else t.setReg .CG_OWNER g 0xFFFF

theorem State.closeGroups_eq (n : Nat) : s.closeGroups n = forN 16 s (State.leaveGroup n) := rfl

/-- Owner and state of a group after the close of its owner `n`. -/
def groupLeft (n : Nat) (x : Nat × Nat) : Nat × Nat :=
  if x.1 = n then (0xFFFF, if x.2 = 1 ∨ x.2 = 3 then 0 else x.2) else x

theorem State.leaveGroup_group (n : Nat) (t : State) (k g : Nat) :
    ((State.leaveGroup n t k).reg .CG_OWNER g, (State.leaveGroup n t k).reg .CG_STATE g) =
      if k = g then groupLeft n (t.reg .CG_OWNER g, t.reg .CG_STATE g) else (t.reg .CG_OWNER g, t.reg .CG_STATE g) := by
  have howner : (0xFFFF : Nat) % 2 ^ Reg.width .CG_OWNER = 0xFFFF := by decide
  unfold State.leaveGroup groupLeft State.idleGroup
  by_cases hk : k = g
  · subst hk
    rw [if_pos rfl]
    by_cases hn : t.reg .CG_OWNER k = n
    · rw [if_neg (not_not.mpr hn), if_pos hn]
      by_cases hst : t.reg .CG_STATE k = 1 ∨ t.reg .CG_STATE k = 3
      · rw [if_pos hst, if_pos hst, State.setReg_reg_self, State.setReg_reg_of_ne _ _ _ _ (by decide),
          State.setReg_reg_self, howner, Nat.zero_mod]
      · rw [if_neg hst, if_neg hst, State.setReg_reg_self, State.setReg_reg_of_ne _ _ _ _ (by decide), howner]
    · rw [if_pos hn, if_neg hn]
  · rw [if_neg hk]
    split_ifs
    · rfl
    · simp only [State.setReg_reg_of_ix_ne _ _ _ _ hk]
      rfl
    · simp only [State.setReg_reg_of_ix_ne _ _ _ _ hk]

/-- The commit groups after the close of session `n`. -/
theorem State.closeGroups_group (n g : Nat) : ((s.closeGroups n).reg .CG_OWNER g, (s.closeGroups n).reg .CG_STATE g) =
    if g < 16 then groupLeft n (s.reg .CG_OWNER g, s.reg .CG_STATE g) else (s.reg .CG_OWNER g, s.reg .CG_STATE g) :=
  forN_each (v := fun (t : State) g => (t.reg .CG_OWNER g, t.reg .CG_STATE g)) (g := fun _ => groupLeft n)
    (State.leaveGroup_group n) s 16 g

theorem State.closeGroups_owned {n g : Nat} (hg : g < 16) (h : s.reg .CG_OWNER g = n) :
    (s.closeGroups n).reg .CG_OWNER g = 0xFFFF ∧ (s.closeGroups n).reg .CG_STATE g =
      if s.reg .CG_STATE g = 1 ∨ s.reg .CG_STATE g = 3 then 0 else s.reg .CG_STATE g := by
  have hleft := s.closeGroups_group n g
  rw [if_pos hg, groupLeft, if_pos h] at hleft
  exact Prod.mk.inj hleft

theorem State.closeGroups_other {n g : Nat} (h : s.reg .CG_OWNER g ≠ n) :
    (s.closeGroups n).reg .CG_OWNER g = s.reg .CG_OWNER g ∧ (s.closeGroups n).reg .CG_STATE g = s.reg .CG_STATE g := by
  have hleft := s.closeGroups_group n g
  rw [groupLeft, if_neg h, ite_self] at hleft
  exact Prod.mk.inj hleft

theorem State.closeGroups_frame (n : Nat) : Touches State.closeGroups_foot s (s.closeGroups n) :=
  State.closeGroups_touches (fun _ h => h) (.refl _ s)

theorem State.freeStream_frame (n : Nat) : Touches State.freeStream_foot s (s.freeStream n) :=
  State.freeStream_touches (fun _ h => h) (.refl _ s)

theorem State.reportGroups_frame (old : State) : Touches State.reportGroups_foot s (s.reportGroups old) :=
  State.reportGroups_touches (fun _ h => h) (.refl _ s)

/-- The stream slot of a session that closes is free. -/
theorem State.freeStream_slot {n : Nat} (h : s.reg .SS_SLOT n < 256) :
    (s.freeStream n).reg .STR_STATE (s.reg .SS_SLOT n) = 0 ∧
    (s.freeStream n).reg .STR_SESSION (s.reg .SS_SLOT n) = 0xFFFF := by
  have hfree : s.freeStream n = (((s.setReg .STR_STATE (s.reg .SS_SLOT n) 0).setReg .STR_SESSION (s.reg .SS_SLOT n)
      0xFFFF).reportGroups s) := if_pos h
  rw [hfree, (State.reportGroups_frame _ s).reg _ _ (by decide) (by decide),
    (State.reportGroups_frame _ s).reg _ _ (by decide) (by decide)]
  exact ⟨(State.setReg_reg_of_ne _ _ _ _ (by decide)).trans (State.setReg_reg_of_lt _ _ _ (by decide)),
    State.setReg_reg_of_lt _ _ _ (by decide)⟩

/-- Queue `q` without subscriber `n`. -/
def State.unsubscribed (n : Nat) (t : State) (q : Nat) : State :=
  t.setQueue q { t.queue q with subscribers := (t.queue q).subscribers.filter (fun x => x != n) }

theorem State.endSubscriptions_eq (n : Nat) :
    s.endSubscriptions n = (s.queues.map Prod.fst).foldl (State.unsubscribed n) s := rfl

theorem State.unsubscribed_queue (n : Nat) (t : State) (q k : Nat) : ((State.unsubscribed n t q).queue k) =
    if q = k then { t.queue k with subscribers := (t.queue k).subscribers.filter (fun x => x != n) } else t.queue k := by
  unfold State.unsubscribed
  rw [State.queue_setQueue]
  split
  · subst q; rfl
  · rfl

/-- Once taken out, a subscriber stays out, and it is out of every queue of the list. -/
theorem State.unsubscribed_all (n : Nat) (l : List Nat) (t : State) (k : Nat)
    (h : k ∈ l ∨ n ∉ (t.queue k).subscribers) : n ∉ ((l.foldl (State.unsubscribed n) t).queue k).subscribers := by
  induction l generalizing t with
  | nil => exact h.resolve_left List.not_mem_nil
  | cons q l ih =>
    refine ih _ ?_
    rw [State.unsubscribed_queue]
    by_cases hq : q = k
    · rw [if_pos hq]
      exact .inr (by simp)
    · rw [if_neg hq]
      exact h.imp_left fun hk => (List.mem_cons.mp hk).resolve_left (Ne.symm hq)

theorem State.endSubscriptions_subscribers (n k : Nat) : n ∉ ((s.endSubscriptions n).queue k).subscribers := by
  rw [State.endSubscriptions_eq]
  refine State.unsubscribed_all n _ s k ?_
  by_cases hk : k ∈ s.queues.map Prod.fst
  · exact .inl hk
  · refine .inr ?_
    rw [show s.queue k = NQueue.empty from Sparse.get_of_notMem _ hk]
    exact List.not_mem_nil

theorem State.endSubscriptions_frame (n : Nat) : Touches State.endSubscriptions_foot s (s.endSubscriptions n) :=
  State.endSubscriptions_touches (fun _ h => h) (.refl _ s)

theorem State.clearSession_frame (n : Nat) : Touches State.clearSession_foot s (s.clearSession n) :=
  State.clearSession_touches (fun _ h => h) (.refl _ s)

/-- The registers of a session that is cleared, by the register. -/
theorem State.clearSession_reg (n : Nat) (q : Reg) (j : Nat) : (s.clearSession n).reg q j =
    if q ∈ sessionRegs ∧ n = j then regDefault q j % 2 ^ q.width else s.reg q j := by
  have hfold (l : List Reg) (t : State) : (l.foldl (fun t r => t.setReg r n (regDefault r n)) t).reg q j =
      if q ∈ l ∧ n = j then regDefault q j % 2 ^ q.width else t.reg q j := by
    induction l generalizing t with
    | nil => simp
    | cons r l ih =>
      rw [List.foldl_cons, ih, State.reg_setReg]
      by_cases hn : n = j
      · subst hn
        by_cases hr : r = q
        · subst hr
          simp
        · simp [hr, Ne.symm hr]
      · simp [hn]
  have hclear := hfold sessionRegs s
  unfold State.clearSession
  generalize sessionRegs.foldl (fun t r => t.setReg r n (regDefault r n)) s = u at hclear
  exact hclear

/-! ## A session that has closed (R392) -/

/-- Posting and raising leave the subscribers of every queue. -/
theorem State.post_subscribers (q : Nat) (e : Entry) (k : Nat) :
    ((s.post q e).queue k).subscribers = (s.queue k).subscribers := by
  unfold State.post
  dsimp only
  split_ifs
  all_goals
    rw [State.queue_setQueue]
    split
    · subst q; rfl
    · rfl

theorem State.raise_subscribers (code : Nat) (unit : Option Nat) (args : List (Nat × Nat)) (k : Nat) :
    ((s.raise code unit args).queue k).subscribers = (s.queue k).subscribers := by
  unfold State.raise
  dsimp only
  split
  · exact State.post_subscribers _ _ _ _
  · rfl

/-- A session before it is cleared: its groups, its slot and its subscriptions are given up. -/
def State.sessionLeft (n : Nat) : State := ((s.closeGroups n).freeStream n).endSubscriptions n

theorem State.closeNow_eq (n cause : Nat) : s.closeNow n cause =
    ((s.sessionLeft n).clearSession n).raise Code.sessionClosed none [(16, n), (8, cause)] := rfl

theorem State.sessionLeft_frame (n : Nat) :
    Touches (State.closeGroups_foot ++ State.freeStream_foot ++ State.endSubscriptions_foot) s (s.sessionLeft n) :=
  ((s.closeGroups_frame n).append (State.freeStream_frame _ n)).append (State.endSubscriptions_frame _ n)

theorem State.closeNow_frame (n cause : Nat) : Touches State.closeNow_foot s (s.closeNow n cause) :=
  State.closeNow_touches (fun _ h => h) (.refl _ s)

/-- The session that closes has closed. -/
theorem State.closeNow_closed (n cause : Nat) : SessionClosed s (s.closeNow n cause) n cause := by
  have hleft (q : Reg) (j : Nat) (hq : Part.reg q ∉ State.freeStream_foot ++ State.endSubscriptions_foot ++
      State.clearSession_foot ++ State.raise_foot) :
      (s.closeNow n cause).reg q j = (s.closeGroups n).reg q j :=
    ((((State.freeStream_frame _ n).append (State.endSubscriptions_frame _ n)).append
      (State.clearSession_frame _ n)).append (State.raise_touches (fun _ h => h) (.refl _ _))).reg q j hq (by decide)
  have hafter (q : Reg) (j : Nat) (hq : Part.reg q ∉ State.endSubscriptions_foot ++ State.clearSession_foot ++
      State.raise_foot) : (s.closeNow n cause).reg q j = ((s.closeGroups n).freeStream n).reg q j :=
    (((State.endSubscriptions_frame _ n).append (State.clearSession_frame _ n)).append
      (State.raise_touches (fun _ h => h) (.refl _ _))).reg q j hq (by decide)
  have hsession (q : Reg) (j : Nat) (hq : q ∈ sessionRegs) : (s.closeNow n cause).reg q j =
      if n = j then regDefault q j % 2 ^ q.width else s.reg q j := by
    have hraise : (s.closeNow n cause).reg q j = ((s.sessionLeft n).clearSession n).reg q j :=
      (State.raise_touches (fun _ h => h) (.refl _ _)).reg q j
        ((by decide : ∀ q ∈ sessionRegs, Part.reg q ∉ State.raise_foot) q hq) (by decide)
    rw [hraise, State.clearSession_reg, (s.sessionLeft_frame n).reg q j
      ((by decide : ∀ q ∈ sessionRegs, Part.reg q ∉
        State.closeGroups_foot ++ State.freeStream_foot ++ State.endSubscriptions_foot) q hq) (by decide)]
    simp [hq]
  have hslot : (s.closeGroups n).reg .SS_SLOT n = s.reg .SS_SLOT n :=
    (s.closeGroups_frame n).reg _ _ (by decide) (by decide)
  refine ⟨?_, State.raise_lastEvent .., fun g hg hn => ?_, fun g hn => ?_, fun hs => ?_, fun k => ?_, fun q hq j hj => ?_⟩
  · rw [hsession _ _ (by decide), if_pos rfl]
    rfl
  · rw [hleft _ _ (by decide), hleft _ _ (by decide)]
    exact s.closeGroups_owned hg hn
  · rw [hleft _ _ (by decide), hleft _ _ (by decide)]
    exact s.closeGroups_other hn
  · have hfree := (s.closeGroups n).freeStream_slot (hslot.trans_lt hs)
    rw [hslot] at hfree
    rw [hafter _ _ (by decide), hafter _ _ (by decide)]
    exact hfree
  · rw [State.closeNow_eq, State.raise_subscribers]
    have hqueue : ((s.sessionLeft n).clearSession n).queue k = (s.sessionLeft n).queue k :=
      congrArg (fun m => Sparse.get _ m k) ((State.clearSession_frame _ n).fld .queues (by decide) (by decide))
    rw [hqueue]
    exact State.endSubscriptions_subscribers _ n k
  · rw [hsession q j hq, if_neg hj]

/-- A session that is open closes at once while no message of its own is performed. -/
theorem State.closeSession_now {n : Nat} (cause : Nat) (hopen : s.reg .SS_STATE n = 1) (hfree : s.reg .iPLV_CUR 0 = 0) :
    s.closeSession n cause = s.closeNow n cause := by
  unfold State.closeSession
  rw [if_neg (not_not.mpr hopen), if_neg (by omega)]

theorem State.closeSession_free {n : Nat} (cause : Nat) (hfree : s.reg .SS_STATE n ≠ 1) :
    s.closeSession n cause = s := if_pos hfree

end

/-- That a session has closed is told by what the close reads, and seen in a state that keeps what it wrote. -/
theorem SessionClosed.of_same {s u t v : State} {n cause : Nat} {V : List Part} (h : SessionClosed u t n cause)
    (hgroups : ∀ g, u.reg .CG_OWNER g = s.reg .CG_OWNER g ∧ u.reg .CG_STATE g = s.reg .CG_STATE g)
    (hslot : u.reg .SS_SLOT n = s.reg .SS_SLOT n) (honly : OnlyAt s u sessionRegs n) (hT : Touches V t v)
    (hV : ∀ r ∈ [Reg.CG_OWNER, .CG_STATE, .STR_STATE, .STR_SESSION] ++ sessionRegs, Part.reg r ∉ V)
    (hany : Part.anyReg ∉ V) (hlog : Part.fld .evLog ∉ V) (hqueues : Part.fld .queues ∉ V) (hfld : Part.anyFld ∉ V) :
    SessionClosed s v n cause := by
  obtain ⟨hstate, hevent, howned, hother, hfree, hsubs, hkept⟩ := h
  have hreg (r : Reg) (j : Nat) (hr : r ∈ [Reg.CG_OWNER, .CG_STATE, .STR_STATE, .STR_SESSION] ++ sessionRegs) :
      v.reg r j = t.reg r j := hT.reg r j (hV r hr) hany
  have howner (g : Nat) := (hgroups g).1
  have hgroup (g : Nat) := (hgroups g).2
  simp only [howner, hgroup] at howned hother
  rw [hslot] at hfree
  refine ⟨(hreg _ _ (by decide)).trans hstate, (State.lastEvent_of_touches hT hlog hfld).trans hevent,
    fun g hg hn => ?_, fun g hn => ?_, fun hs => ?_, fun k => ?_, fun q hq j hj => ?_⟩
  · rw [hreg _ _ (by decide), hreg _ _ (by decide)]
    exact howned g hg hn
  · rw [hreg _ _ (by decide), hreg _ _ (by decide)]
    exact hother g hn
  · rw [hreg _ _ (by decide), hreg _ _ (by decide)]
    exact hfree hs
  · rw [show v.queue k = t.queue k from congrArg (fun m => Sparse.get _ m k) (hT.fld .queues hqueues hfld)]
    exact hsubs k
  · rw [hreg q j (List.mem_append_right _ hq)]
    exact (hkept q hq j hj).trans (honly q hq j hj)

/-! ## SESSION_TIMEOUT and SS_CLOSE -/

/-- SESSION_TIMEOUT (R392). -/
theorem sessionTimeout_completes (n : Fin 1024) (s : State) (h : s.NoMessage) :
    if s.reg .SS_STATE n.val = 1 ∧ s.reg .iSS_SEEN n.val + s.reg .PLV_TIMEOUT 0 * 1000000 ≤ s.clock then
      ∃ t, exec (.sessionTimeout n) s = .next t ∧ Touches Changes.sessionTimeout s t ∧ SessionClosed s t n.val 1
    else exec (.sessionTimeout n) s = .next s := by
  have hframe : OutTouches Changes.sessionTimeout s (exec (.sessionTimeout n) s) :=
    execSessionTimeout_touches (by decide) (.refl _ s)
  refine completes_if rfl hframe fun hdue => ?_
  rw [(s.send []).closeSession_now 1 hdue.1 h.1]
  exact (s.send []).closeNow_closed n.val 1

/-- SS_CLOSE (R392). -/
theorem ssClose_completes (acc : Accessor) (n : Fin 1024) (s : State) (h : s.NoMessage)
    (hp : s.Passes acc .SS_CLOSE n.val 1) :
    ∃ t, exec (.ssClose acc n) s = .next t ∧ Touches Changes.ssClose s t ∧ t.status = 0 ∧
      if s.reg .SS_STATE n.val = 1 then SessionClosed s t n.val 3
      else t = (s.send []).answered acc .SS_CLOSE n.val 0 := by
  have hframe : OutTouches Changes.ssClose s (exec (.ssClose acc n) s) := execSsClose_touches (by decide) (.refl _ s)
  refine write_completes rfl hp hframe ?_
  by_cases hopen : s.reg .SS_STATE n.val = 1
  · rw [if_pos hopen, ((s.setStatus 0).send []).closeSession_now 3 hopen h.1]
    have hclosed := ((s.setStatus 0).send []).closeNow_closed n.val 3
    have hclose := ((s.setStatus 0).send []).closeNow_frame n.val 3
    generalize ((s.setStatus 0).send []).closeNow n.val 3 = u at hclosed hclose
    exact ⟨(State.noteAccess_status _ _ _).trans (Eq.trans (hclose.fld .status (by decide) (by decide)) rfl),
      hclosed.of_same (fun _ => ⟨rfl, rfl⟩) rfl (.refl _ _ _) (u.noteAccess_frame acc _) (by decide) (by decide)
        (by decide) (by decide) (by decide)⟩
  · rw [if_neg hopen, ((s.setStatus 0).send []).closeSession_free 3 hopen]
    exact ⟨State.noteAccess_status _ _ _, rfl⟩

/-! ## Keys (R393) -/

/-- The entry of a key table for a KEY_ID, as `keyOf` reads it. -/
def keyIn (ks : List (Nat × Nat × Nat)) (id : Nat) : Option (Nat × Nat) := (ks.find? (fun e => e.1 == id)).map Prod.snd

theorem State.keyOf_eq (s : State) (id : Nat) : s.keyOf id = keyIn s.keys id := rfl

theorem keyIn_append (a b : List (Nat × Nat × Nat)) (id : Nat) : keyIn (a ++ b) id = (keyIn a id).or (keyIn b id) := by
  unfold keyIn
  rw [List.find?_append, Option.map_or]

/-- Of a part of the table the entries with a KEY_ID are found as in the table, or not at all. -/
theorem keyIn_filter (ks : List (Nat × Nat × Nat)) (p : Nat → Bool) (id : Nat) :
    keyIn (ks.filter (fun e => p e.1)) id = if p id = true then keyIn ks id else none := by
  induction ks with
  | nil => simp [keyIn]
  | cons e ks ih =>
    unfold keyIn at ih ⊢
    rw [List.filter_cons]
    by_cases he : e.1 = id
    · subst he
      by_cases hp : p e.1 = true
      · simp [hp]
      · simpa [hp] using ih
    · by_cases hp : p e.1 = true
      · simpa [hp, he] using ih
      · simpa [hp, he] using ih

/-- The table with one entry put reads that entry, and every other as before. -/
theorem putKeyEntry_keyIn (ks : List (Nat × Nat × Nat)) (id ceiling key k : Nat) :
    keyIn (putKeyEntry ks id ceiling key) k =
      if k = id then (if key = 0 then none else some (ceiling, key)) else keyIn ks k := by
  have hlow := keyIn_filter ks (fun x => decide (x < id)) k
  have hhigh := keyIn_filter ks (fun x => decide (id < x)) k
  have hentry (l : List (Nat × Nat × Nat)) :
      keyIn ((id, ceiling, key) :: l) k = if k = id then some (ceiling, key) else keyIn l k := by
    unfold keyIn
    by_cases hk : k = id
    · simp [hk]
    · simp [hk, Ne.symm hk]
  unfold putKeyEntry
  dsimp only
  by_cases hkey : key = 0
  · rw [if_pos hkey, if_pos hkey, keyIn_append, hlow, hhigh]
    obtain hlt | rfl | hgt := Nat.lt_trichotomy k id
    · simp [hlt, Nat.ne_of_lt hlt, Nat.lt_asymm hlt]
    · simp
    · simp [hgt, Nat.ne_of_gt hgt, Nat.lt_asymm hgt]
  · rw [if_neg hkey, if_neg hkey, keyIn_append, hlow, hentry, hhigh]
    obtain hlt | rfl | hgt := Nat.lt_trichotomy k id
    · simp [hlt, Nat.ne_of_lt hlt, Nat.lt_asymm hlt]
    · simp
    · simp [hgt, Nat.ne_of_gt hgt, Nat.lt_asymm hgt]

/-- What a change of key `id` does to session `n`: it closes where it was opened under that key. -/
def State.rekeyed (id : Nat) (t : State) (n : Nat) : State :=
  if t.reg .SS_STATE n = 1 ∧ t.reg .SS_KEY_ID n = id then t.closeSession n 2 else t

/-- The key table with the entry put, owed to the Keeper. -/
def State.keyPut (s : State) (id ceiling key : Nat) : State :=
  ({ s with keys := putKeyEntry s.keys id ceiling key } : State).noteKeep .PLV_KEY_SET 0

theorem State.noteKeep_owes (s : State) {r : Reg} (i : Nat) (hr : (regRow r).keep = true) :
    regKey r i ∈ (s.noteKeep r i).keepPending := by
  unfold State.noteKeep
  split
  · simp
  · rename_i h
    simpa [hr] using h

theorem State.keyPut_put (s : State) (id ceiling key : Nat) :
    (∀ q j, (s.keyPut id ceiling key).reg q j = s.reg q j) ∧
    (s.keyPut id ceiling key).keys = putKeyEntry s.keys id ceiling key ∧
    regKey .PLV_KEY_SET 0 ∈ (s.keyPut id ceiling key).keepPending ∧ (s.keyPut id ceiling key).status = s.status :=
  ⟨fun _ _ => State.noteKeep_reg .., State.noteKeep_keys .., State.noteKeep_owes _ 0 (by decide),
    State.noteKeep_status ..⟩

theorem State.keySet_eq (s : State) (v : Nat) : s.keySet v =
    if (s.keyOf (blobGet v 0 2)).isNone ∧ blobGet v 4 32 ≠ 0 ∧ 64 ≤ s.keys.length then s.refuse Code.odRange
    else forN 1024 (s.keyPut (blobGet v 0 2) (blobGet v 2 1) (blobGet v 4 32)) (State.rekeyed (blobGet v 0 2)) := rfl

/-- The registers of one session after the change of a key, while no message is performed. -/
theorem State.rekeyed_session {t : State} (hfree : t.reg .iPLV_CUR 0 = 0) (id n : Nat) :
    (State.rekeyed id t n).reg .iPLV_CUR 0 = 0 ∧ OnlyAt t (State.rekeyed id t n) sessionRegs n ∧
    (t.reg .SS_STATE n = 1 → t.reg .SS_KEY_ID n = id → (State.rekeyed id t n).reg .SS_STATE n = 0) ∧
    (t.reg .SS_STATE n ≠ 1 ∨ t.reg .SS_KEY_ID n ≠ id → State.rekeyed id t n = t) := by
  unfold State.rekeyed
  by_cases h : t.reg .SS_STATE n = 1 ∧ t.reg .SS_KEY_ID n = id
  · rw [if_pos h, t.closeSession_now 2 h.1 hfree]
    obtain ⟨hstate, -, -, -, -, -, honly⟩ := t.closeNow_closed n 2
    exact ⟨((t.closeNow_frame n 2).reg _ _ (by decide) (by decide)).trans hfree, honly, fun _ _ => hstate,
      fun hn => hn.elim (absurd h.1) (absurd h.2)⟩
  · rw [if_neg h]
    exact ⟨hfree, .refl _ _ _, fun h1 h2 => absurd ⟨h1, h2⟩ h, fun _ => rfl⟩

/-- The sessions after the change of a key: those opened under it have closed, and the others stay. -/
theorem State.rekeyed_sessions {t : State} (hfree : t.reg .iPLV_CUR 0 = 0) (id m : Nat) :
    let u := forN m t (State.rekeyed id)
    u.reg .iPLV_CUR 0 = 0 ∧
    (∀ n, n < m → t.reg .SS_STATE n = 1 → t.reg .SS_KEY_ID n = id → u.reg .SS_STATE n = 0) ∧
    (∀ n, m ≤ n ∨ t.reg .SS_STATE n ≠ 1 ∨ t.reg .SS_KEY_ID n ≠ id → ∀ r ∈ sessionRegs, u.reg r n = t.reg r n) := by
  induction m with
  | zero => exact ⟨hfree, fun n hn => absurd hn (Nat.not_lt_zero n), fun _ _ _ _ => rfl⟩
  | succ m ih =>
    obtain ⟨hcur, hclosed, hkept⟩ := ih
    dsimp only at hcur hclosed hkept ⊢
    rw [forN_succ]
    generalize forN m t (State.rekeyed id) = u at hcur hclosed hkept
    obtain ⟨hcur', honly, hclose, hstay⟩ := State.rekeyed_session hcur id m
    have hm := hkept m (.inl (Nat.le_refl m))
    rw [hm .SS_STATE (by decide), hm .SS_KEY_ID (by decide)] at hclose hstay
    refine ⟨hcur', fun n hn h1 h2 => ?_, fun n hn r hr => ?_⟩
    · by_cases hnm : m = n
      · subst hnm
        exact hclose h1 h2
      · rw [honly .SS_STATE (by decide) n hnm]
        exact hclosed n (by omega) h1 h2
    · by_cases hnm : m = n
      · subst hnm
        rw [hstay (hn.resolve_left (by omega))]
        exact hm r hr
      · rw [honly r hr n hnm]
        exact hkept n (hn.imp_left (by omega)) r hr

theorem State.rekeyed_frame (s : State) (id m : Nat) : Touches State.closeSession_foot s (forN m s (State.rekeyed id)) :=
  forN_touches (.refl _ s) fun _ _ h => .ite (State.closeSession_touches (fun _ hp => hp) h) h

/-- PLV_KEY_SET (R392, R393). -/
theorem plvKeySet_completes (acc : Accessor) (v : BitVec 288) (s : State) (h : s.NoMessage)
    (hp : s.Passes acc .PLV_KEY_SET 0 v.toNat) :
    let id := blobGet v.toNat 0 2
    let key := blobGet v.toNat 4 32
    if s.keyOf id = none ∧ key ≠ 0 ∧ 64 ≤ s.keys.length then
      exec (.plvKeySet acc v) s = .next ((s.send []).answered acc .PLV_KEY_SET 0 Code.odRange)
    else
      ∃ t, exec (.plvKeySet acc v) s = .next t ∧ Touches Changes.plvKeySet s t ∧
        t.status = 0 ∧ regKey .PLV_KEY_SET 0 ∈ t.keepPending ∧
        t.keyOf id = (if key = 0 then none else some (blobGet v.toNat 2 1, key)) ∧
        (∀ k, k ≠ id → t.keyOf k = s.keyOf k) ∧
        (∀ n, n < 1024 → s.reg .SS_STATE n = 1 → s.reg .SS_KEY_ID n = id → t.reg .SS_STATE n = 0) ∧
        (∀ n, (s.reg .SS_STATE n ≠ 1 ∨ s.reg .SS_KEY_ID n ≠ id) → ∀ r ∈ sessionRegs, t.reg r n = s.reg r n) := by
  dsimp only
  have hframe : OutTouches Changes.plvKeySet s (exec (.plvKeySet acc v) s) :=
    execPlvKeySet_touches (by decide) (.refl _ s)
  by_cases hfull : s.keyOf (blobGet v.toNat 0 2) = none ∧ blobGet v.toNat 4 32 ≠ 0 ∧ 64 ≤ s.keys.length
  · rw [if_pos hfull]
    have hrefuse : ((s.setStatus 0).send []).keySet v.toNat = ((s.setStatus 0).send []).refuse Code.odRange :=
      (State.keySet_eq ..).trans (if_pos ⟨Option.isNone_iff_eq_none.mpr hfull.1, hfull.2⟩)
    exact (congrArg Host.Outcome.next (writeParam_of_passes (eff := fun t => (t.send []).keySet v.toNat) hp)).trans
      (congrArg (fun u => Host.Outcome.next (u.noteAccess acc (Reg.PLV_KEY_SET.id 0))) hrefuse)
  · rw [if_neg hfull]
    refine write_completes rfl hp hframe ?_
    rw [(State.keySet_eq ((s.setStatus 0).send []) v.toNat).trans
      (if_neg fun h => hfull ⟨Option.isNone_iff_eq_none.mp h.1, h.2⟩)]
    generalize blobGet v.toNat 0 2 = id
    generalize blobGet v.toNat 4 32 = key
    generalize blobGet v.toNat 2 1 = ceiling
    have hput := ((s.setStatus 0).send []).keyPut_put id ceiling key
    generalize ((s.setStatus 0).send []).keyPut id ceiling key = u at hput
    obtain ⟨hreg, hkeys, howed, hstatus⟩ := hput
    have hrekey := u.rekeyed_frame id 1024
    obtain ⟨-, hclosed, hkept⟩ := State.rekeyed_sessions ((hreg .iPLV_CUR 0).trans h.1) id 1024
    generalize forN 1024 u (State.rekeyed id) = w at hrekey hclosed hkept
    have hnote (q : Reg) (j : Nat) (hq : q ∈ sessionRegs) :
        (w.noteAccess acc (Reg.PLV_KEY_SET.id 0)).reg q j = w.reg q j :=
      (w.noteAccess_frame acc _).reg q j
        ((by decide : ∀ q ∈ sessionRegs, Part.reg q ∉ [Part.reg .iACC_STATUS, .reg .iACC_ID]) q hq) (by decide)
    have htable : (w.noteAccess acc (Reg.PLV_KEY_SET.id 0)).keys = putKeyEntry s.keys id ceiling key :=
      ((w.noteAccess_frame acc _).keys (by decide)).trans ((hrekey.keys (by decide)).trans hkeys)
    refine ⟨?_, ?_, ?_, fun k hk => ?_, fun n hn h1 h2 => ?_, fun n hn r hr => ?_⟩
    · exact (State.noteAccess_status _ _ _).trans (Eq.trans (hrekey.fld .status (by decide) (by decide)) hstatus)
    · have howing : (w.noteAccess acc (Reg.PLV_KEY_SET.id 0)).keepPending = u.keepPending :=
        Eq.trans ((w.noteAccess_frame acc _).fld .keepPending (by decide) (by decide))
          (hrekey.fld .keepPending (by decide) (by decide))
      rw [howing]
      exact howed
    · rw [State.keyOf_eq, htable, putKeyEntry_keyIn, if_pos rfl]
    · rw [State.keyOf_eq, htable, putKeyEntry_keyIn, if_neg hk, State.keyOf_eq]
    · rw [hnote _ _ (by decide)]
      exact hclosed n hn ((hreg ..).trans h1) ((hreg ..).trans h2)
    · rw [hnote _ _ hr, hkept n (.inr (by rwa [hreg, hreg])) r hr]
      exact hreg r n

end Sys2Proof.Machine
end

section
/-! Plovan datagrams and requests (R385 to R391). -/
namespace Sys2Proof.Machine

/-! ## Bytes -/

theorem leNat_lt (bs : List Byte) : leNat bs < 2 ^ (8 * bs.length) := by
  induction bs with
  | nil => decide
  | cons b bs ih =>
    have hb := b.isLt
    have hpow : 2 ^ (8 * (bs.length + 1)) = 256 * 2 ^ (8 * bs.length) := by
      rw [Nat.mul_succ, Nat.pow_add, Nat.mul_comm]
    rw [leNat, List.length_cons, hpow]
    omega

/-- Bytes read as a number and written again are the same bytes. -/
theorem leBytes_leNat (bs : List Byte) : leBytes bs.length (leNat bs) = bs := by
  induction bs with
  | nil => rfl
  | cons b bs ih =>
    have hb := b.isLt
    have hlow : BitVec.ofNat 8 (b.toNat + 256 * leNat bs) = b := by
      refine BitVec.eq_of_toNat_eq ?_
      rw [BitVec.toNat_ofNat]
      omega
    have hhigh : (b.toNat + 256 * leNat bs) >>> 8 = leNat bs := by
      rw [Nat.shiftRight_eq_div_pow]
      omega
    rw [List.length_cons, leNat, leBytes, hlow, hhigh, ih]

theorem plvPeer_length (src : BitVec 128) (srcPort : BitVec 16) : (plvPeer src srcPort).length = 18 := by
  simp [plvPeer, beBytes, leBytes_length]

/-! ## A datagram received (R385, R386, R388) -/

section
variable (s : State) (from_ : Nat) (mac : BitVec 48)

/-- The station is known to be where its datagram came from, and nothing is sent yet. -/
def State.received : State := (s.heard from_ mac).send []

theorem State.received_frame : Touches (flds [.macs, .sent]) s (s.received from_ mac) :=
  (Touches.refl _ s).other (fun f => by cases f <;> first | exact .inr rfl | exact .inl (by decide)) rfl rfl rfl rfl rfl
    rfl rfl

/-- What becomes of a datagram with right fields and whole items, by its TYPE. -/
def State.plvTaken (u : State) (from_ mac : Nat) (peer : List Byte) (h : PlvHead) (xs : List PlvItem) (p : List Byte) :
    State :=
  if h.type = 1 then (if u.reg .iPHASE 0 = 3 then u else u.plvOpen from_ mac peer h)
  else if 1024 ≤ h.session ∨ u.reg .SS_STATE h.session ≠ 1 then u.bump .PLV_BAD_MSG 0
  else if !u.sessionTagOk h then u.bump .PLV_BAD_AUTH 0
  else u.plvRequest from_ mac peer h xs p

/-- Whether a command's datagram is looked at. -/
def State.plvLooks (type : Nat) (p : List Byte) : Prop :=
  ¬ ((1 ≤ leAt p 3 1 ∧ leAt p 3 1 ≤ 8 ∧ leAt p 3 1 ≠ type) ∨ (s.firmwareServes = false ∧ s.reg .iPHASE 0 ≠ 3))

theorem State.plvCommand_away {type : Nat} {port : Fin 2} {sub : Fin 4} {src : BitVec 128} {srcPort : BitVec 16}
    {p : List Byte} (h : ¬ s.plvLooks type p) : s.plvCommand type port sub mac src srcPort p = s := by
  refine if_pos ?_
  rw [State.plvLooks, not_not] at h
  exact h.imp_right fun hs => by simp [hs.1, hs.2]

theorem State.plvCommand_looks {type : Nat} {port : Fin 2} {sub : Fin 4} {src : BitVec 128} {srcPort : BitVec 16}
    {p : List Byte} (h : s.plvLooks type p) : s.plvCommand type port sub mac src srcPort p =
      (s.received (plvFrom port sub) mac).plvDatagram (plvFrom port sub) mac.toNat (plvPeer src srcPort) p := by
  refine if_neg fun hn => h (hn.imp_right fun hs => ?_)
  simpa using hs

/-- The TYPE of a datagram with right fields that a command looks at is the command's. -/
theorem State.plvLooks_type {type : Nat} {p : List Byte} (h : s.plvLooks type p) (hok : plvHeadOk p = true) :
    (PlvHead.ofBytes p).type = type := by
  have hrange : 1 ≤ leAt p 3 1 ∧ leAt p 3 1 ≤ 8 := by
    unfold plvHeadOk at hok
    simp only [Bool.and_eq_true, decide_eq_true_eq] at hok
    tauto
  by_contra hne
  exact h (.inl ⟨hrange.1, hrange.2, hne⟩)

/-- A datagram leaves everything, is counted as malformed, or goes on with its header and its items. -/
theorem State.plvCommand_datagram {type : Nat} {port : Fin 2} {sub : Fin 4} {src : BitVec 128} {srcPort : BitVec 16}
    {p : List Byte} {G : State → Prop} (hG : ∀ t, Touches plvFrame s t → G t) {P : State → PlvHead → List PlvItem → Prop}
    (hP : ∀ h xs, h.type = type → h.items = some xs →
      G ((s.received (plvFrom port sub) mac).plvTaken (plvFrom port sub) mac.toNat (plvPeer src srcPort) h xs p) ∧
      P ((s.received (plvFrom port sub) mac).plvTaken (plvFrom port sub) mac.toNat (plvPeer src srcPort) h xs p) h xs) :
    G (s.plvCommand type port sub mac src srcPort p) ∧
    PlvDatagram s (s.plvCommand type port sub mac src srcPort p) (plvFrom port sub) mac type p
      (P (s.plvCommand type port sub mac src srcPort p)) := by
  unfold PlvDatagram
  by_cases hlook : s.plvLooks type p
  case neg =>
    rw [s.plvCommand_away mac hlook, if_pos (not_not.mp hlook)]
    exact ⟨hG s (.refl _ s), rfl⟩
  rw [s.plvCommand_looks mac hlook, if_neg hlook]
  generalize plvFrom port sub = f at hP
  generalize plvPeer src srcPort = peer at hP
  have hbad : G ((s.received f mac).bump .PLV_BAD_MSG 0) := hG _
    (State.setReg_touches (by decide) ((s.received_frame f mac).mono (by decide)))
  by_cases hok : plvHeadOk p = true
  case neg =>
    have hrun : (s.received f mac).plvDatagram f mac.toNat peer p = (s.received f mac).bump .PLV_BAD_MSG 0 :=
      if_pos (by simpa using hok)
    rw [hrun, if_pos (Bool.eq_false_iff.mpr hok)]
    exact ⟨hbad, rfl⟩
  have htype := s.plvLooks_type hlook hok
  rw [if_neg (by simp [hok])]
  have hrun (x : Option (List PlvItem)) (hx : (PlvHead.ofBytes p).items = x) :
      (s.received f mac).plvDatagram f mac.toNat peer p = x.elim ((s.received f mac).bump .PLV_BAD_MSG 0)
        (fun xs => (s.received f mac).plvTaken f mac.toNat peer (PlvHead.ofBytes p) xs p) := by
    unfold State.plvDatagram
    rw [if_neg (by simp [hok])]
    dsimp only
    rw [hx]
    cases x <;> rfl
  cases hitems : (PlvHead.ofBytes p).items with
  | none =>
    rw [hrun none hitems]
    exact ⟨hbad, rfl⟩
  | some xs =>
    rw [hrun (some xs) hitems]
    exact hP _ xs htype hitems

/-! ## A request of an open session (R391) -/

/-- A valid datagram of a session is noted. -/
def State.noted (u : State) (from_ mac : Nat) (peer : List Byte) (n : Nat) : State :=
  (((u.setReg .iSS_SEEN n u.clock).setReg .iSS_FROM n from_).setReg .iSS_MAC n mac).setReg .SS_PEER n (leNat peer)

theorem State.noted_frame (u : State) (from_ mac : Nat) (peer : List Byte) (n : Nat) :
    Touches (Sys2Proof.Machine.regs [.iSS_SEEN, .iSS_FROM, .iSS_MAC, .SS_PEER]) u (u.noted from_ mac peer n) :=
  State.setReg_touches (by decide) (State.setReg_touches (by decide) (State.setReg_touches (by decide)
    (State.setReg_touches (by decide) (.refl _ u))))

theorem State.sendPlv_sent (u : State) (f : Nat) (peer m : List Byte) :
    (u.sendPlv f peer m).sent = u.sent ++ [.plovan f peer m] := by
  have hown : Touches State.sendOwn_foot (u.sendMore [.plovan f peer m]) (u.sendPlv f peer m) :=
    State.sendOwn_touches (fun _ h => h) (.refl _ _)
  exact hown.fld .sent (by decide) (by decide)

theorem State.sendPlv_frame (u : State) (f : Nat) (peer m : List Byte) :
    Touches (flds [.sent, .egress, .waits]) u (u.sendPlv f peer m) :=
  State.sendPlv_touches (by decide) (.refl _ u)

/-- The latest request of session `n` is held (R496). -/
def State.holdRequest (u : State) (n : Nat) (raw : List Byte) : State :=
  { u with heldRequests := u.heldRequests.filter (fun e => e.1 != n) ++ [(n, raw)] }

theorem State.holdRequest_frame (u : State) (n : Nat) (raw : List Byte) :
    Touches (flds [.heldRequests]) u (u.holdRequest n raw) :=
  (Touches.refl _ u).other (fun f => by cases f <;> first | exact .inr rfl | exact .inl (by decide)) rfl rfl rfl rfl rfl
    rfl rfl

/-- What becomes of a request: a new one is performed, or held during a warm restart; a repeated one is answered with
its response again; any other is counted. -/
theorem State.plvRequest_eq (u : State) (from_ mac : Nat) (peer : List Byte) (h : PlvHead) (xs : List PlvItem)
    (raw : List Byte) : u.plvRequest from_ mac peer h xs raw =
      let v := u.noted from_ mac peer h.session
      if h.seq = (u.reg .iSS_SEQ h.session + 1) % 2 ^ 32 then
        if u.reg .iPHASE 0 = 3 then v.holdRequest h.session raw
        else v.perform h xs
      else if h.seq = u.reg .iSS_SEQ h.session then
        if u.reg .iPHASE 0 = 3 then v
        else v.sendPlv from_ peer (((v.responses.find? (fun e => e.1 == h.session)).map Prod.snd).getD [])
      else v.bump .PLV_BAD_SEQ 0 := rfl

theorem State.plvTaken_request {peer : List Byte} {h : PlvHead} {xs : List PlvItem} {raw : List Byte}
    (htype : h.type ≠ 1) {G : State → Prop} (hG : ∀ t, Touches plvFrame s t → G t) {P : State → Prop}
    (hP : h.session < 1024 → s.reg .SS_STATE h.session = 1 → h.seq = (s.reg .iSS_SEQ h.session + 1) % 2 ^ 32 →
      G (((s.received from_ mac).noted from_ mac.toNat peer h.session).perform h xs) ∧
      P (((s.received from_ mac).noted from_ mac.toNat peer h.session).perform h xs)) :
    G ((s.received from_ mac).plvTaken from_ mac.toNat peer h xs raw) ∧
    PlvRequest s ((s.received from_ mac).plvTaken from_ mac.toNat peer h xs raw) from_ mac peer raw h
      (P ((s.received from_ mac).plvTaken from_ mac.toNat peer h xs raw)) := by
  have hmono {V : List Part} {t : State} (hV : ∀ q ∈ V, q ∈ plvFrame) (h : Touches V s t) : G t := hG t (h.mono hV)
  have hreceived := s.received_frame from_ mac
  have htaken : (s.received from_ mac).plvTaken from_ mac.toNat peer h xs raw =
      if 1024 ≤ h.session ∨ s.reg .SS_STATE h.session ≠ 1 then (s.received from_ mac).bump .PLV_BAD_MSG 0
      else if !s.sessionTagOk h then (s.received from_ mac).bump .PLV_BAD_AUTH 0
      else (s.received from_ mac).plvRequest from_ mac.toNat peer h xs raw := if_neg htype
  rw [htaken]
  unfold PlvRequest
  dsimp only
  by_cases hclosed : 1024 ≤ h.session ∨ s.reg .SS_STATE h.session ≠ 1
  · rw [if_pos hclosed, if_pos hclosed]
    exact ⟨hmono (by decide) (hreceived.append (W := [.reg .PLV_BAD_MSG]) (State.setReg_touches (by simp) (.refl _ _))), rfl⟩
  rw [if_neg hclosed, if_neg hclosed]
  have hopen : s.reg .SS_STATE h.session = 1 := by tauto
  by_cases htag : s.sessionTagOk h = false
  · rw [if_pos (by simp [htag]), if_pos htag]
    exact ⟨hmono (by decide) (hreceived.append (W := [.reg .PLV_BAD_AUTH]) (State.setReg_touches (by simp) (.refl _ _))), rfl⟩
  rw [if_neg (by simpa using htag), if_neg htag, State.plvRequest_eq]
  have hseq : (s.received from_ mac).reg .iSS_SEQ h.session = s.reg .iSS_SEQ h.session := rfl
  have hphase : (s.received from_ mac).reg .iPHASE 0 = s.reg .iPHASE 0 := rfl
  have hnoted := (s.received from_ mac).noted_frame from_ mac.toNat peer h.session
  have hseen : ((s.received from_ mac).noted from_ mac.toNat peer h.session).Holds .iSS_SEEN h.session s.clock := by
    unfold State.Holds State.noted
    rw [State.setReg_reg_of_ne _ _ _ _ (by decide), State.setReg_reg_of_ne _ _ _ _ (by decide),
      State.setReg_reg_of_ne _ _ _ _ (by decide)]
    exact State.setReg_reg_self ..
  have hsent : (s.received from_ mac).sent = [] := rfl
  have hqueues : (s.received from_ mac).queues = s.queues := rfl
  have hresponses : (s.received from_ mac).responses = s.responses := rfl
  have hbefore := hreceived.append hnoted
  dsimp only
  rw [hseq, hphase]
  generalize s.received from_ mac = u at *
  by_cases hnext : h.seq = (s.reg .iSS_SEQ h.session + 1) % 2 ^ 32
  · rw [if_pos hnext, if_pos hnext]
    by_cases hrestart : s.reg .iPHASE 0 = 3
    · rw [if_pos hrestart, if_pos hrestart]
      generalize u.noted from_ mac.toNat peer h.session = v at hnoted hseen hbefore
      have hhold := v.holdRequest_frame h.session raw
      exact ⟨hmono (by decide) (hbefore.append hhold), by simp [State.holdRequest], (hnoted.fld .sent (by decide)
        (by decide)).trans hsent, hseen, (hnoted.reg _ _ (by decide) (by decide)).trans hseq⟩
    · rw [if_neg hrestart, if_neg hrestart]
      exact hP (by omega) hopen hnext
  rw [if_neg hnext, if_neg hnext]
  generalize u.noted from_ mac.toNat peer h.session = v at hnoted hseen hbefore
  have hlast : v.reg .iSS_SEQ h.session = s.reg .iSS_SEQ h.session :=
    (hnoted.reg _ _ (by decide) (by decide)).trans hseq
  have hquiet : v.sent = [] := Eq.trans (hnoted.fld .sent (by decide) (by decide)) hsent
  have hsame : v.queues = s.queues ∧ v.responses = s.responses :=
    ⟨Eq.trans (hnoted.fld .queues (by decide) (by decide)) hqueues,
      Eq.trans (hnoted.fld .responses (by decide) (by decide)) hresponses⟩
  by_cases hagain : h.seq = s.reg .iSS_SEQ h.session
  · rw [if_pos hagain, if_pos hagain]
    by_cases hrestart : s.reg .iPHASE 0 = 3
    · rw [if_pos hrestart, if_pos hrestart]
      exact ⟨hmono (by decide) hbefore, hseen, hlast, hsame.1, hsame.2, hquiet⟩
    · rw [if_neg hrestart, if_neg hrestart, hsame.2]
      generalize ((s.responses.find? (fun e => e.1 == h.session)).map Prod.snd).getD [] = m
      have hsend := v.sendPlv_frame from_ peer m
      have hmessage := v.sendPlv_sent from_ peer m
      rw [hquiet, List.nil_append] at hmessage
      generalize v.sendPlv from_ peer m = t at hsend hmessage
      exact ⟨hmono (by decide) (hbefore.append hsend), (hsend.reg _ _ (by decide) (by decide)).trans hseen,
        (hsend.reg _ _ (by decide) (by decide)).trans hlast,
        Eq.trans (hsend.fld .queues (by decide) (by decide)) hsame.1,
        Eq.trans (hsend.fld .responses (by decide) (by decide)) hsame.2, hmessage⟩
  · rw [if_neg hagain, if_neg hagain]
    have hbump : Touches [.reg .PLV_BAD_SEQ] v (v.bump .PLV_BAD_SEQ 0) := State.setReg_touches (by simp) (.refl _ v)
    refine ⟨hmono (by decide) (hbefore.append hbump), (hbump.reg _ _ (by decide) (by decide)).trans hseen,
      (hbump.reg _ _ (by decide) (by decide)).trans hlast, hsame.1, hsame.2, hquiet, ?_⟩
    exact Counted.of_touches hbefore (by decide) (bump_counted ..) (by decide)

end

end Sys2Proof.Machine
end

section
/-! A Plovan request that is performed and answered (R387, R391). -/
namespace Sys2Proof.Machine

section
variable (s : State)

/-! ## What a message leaves to be done -/

/-- No message is being performed any more. -/
def State.messageDone : State := ((s.setReg .iPLV_CUR 0 0).setReg .iPLV_CLOSE 0 0xFF).setReg .iPLV_RESET 0 0

theorem State.messageDone_frame :
    Touches (Sys2Proof.Machine.regs [.iPLV_CUR, .iPLV_CLOSE, .iPLV_RESET]) s s.messageDone :=
  State.setReg_touches (by decide) (State.setReg_touches (by decide) (State.setReg_touches (by decide) (.refl _ s)))

theorem State.messageDone_noMessage : s.messageDone.NoMessage := by
  unfold State.messageDone State.NoMessage
  refine ⟨?_, ?_, State.setReg_reg_of_lt _ _ _ (by decide)⟩
  · rw [State.setReg_reg_of_ne _ _ _ _ (by decide), State.setReg_reg_of_ne _ _ _ _ (by decide)]
    exact State.setReg_reg_of_lt _ _ _ (by decide)
  · rw [State.setReg_reg_of_ne _ _ _ _ (by decide)]
    exact State.setReg_reg_of_lt _ _ _ (by decide)

theorem State.afterMessage_quiet (n : Nat) (hclose : s.reg .iPLV_CLOSE 0 = 0xFF) (hreset : s.reg .iPLV_RESET 0 = 0) :
    s.afterMessage n = s.messageDone := by
  unfold State.afterMessage
  rw [hclose, hreset]
  rfl

theorem State.afterMessage_close (n : Nat) (hclose : s.reg .iPLV_CLOSE 0 ≠ 0xFF) (hreset : s.reg .iPLV_RESET 0 = 0) :
    s.afterMessage n = s.messageDone.closeNow n (s.reg .iPLV_CLOSE 0) := by
  unfold State.afterMessage
  rw [hreset]
  exact if_pos (by simpa using hclose)

/-! ## The response -/

/-- The response of session `n` is kept and leaves. -/
def State.replied (n f : Nat) (peer m : List Byte) : State :=
  ({ s with responses := s.responses.filter (fun e => e.1 != n) ++ [(n, m)] } : State).sendPlv f peer m

theorem State.replied_frame (n f : Nat) (peer m : List Byte) :
    Touches (flds [.responses, .sent, .egress, .waits]) s (s.replied n f peer m) :=
  (((Touches.refl _ s).other (u := { s with responses := s.responses.filter (fun e => e.1 != n) ++ [(n, m)] })
    (W := flds [.responses]) (fun f => by cases f <;> first | exact .inr rfl | exact .inl (by decide)) rfl rfl rfl rfl
    rfl rfl rfl).append (State.sendPlv_frame _ f peer m)).mono (by decide)

theorem State.replied_sent (n f : Nat) (peer m : List Byte) :
    (s.replied n f peer m).sent = s.sent ++ [.plovan f peer m] := State.sendPlv_sent ..

theorem State.replied_response (n f : Nat) (peer m : List Byte) : (n, m) ∈ (s.replied n f peer m).responses := by
  rw [State.replied, (State.sendPlv_frame _ f peer m).fld .responses (by decide) (by decide)]
  simp

/-- A request whose items are performed is answered, and what it left to be done is done. -/
def State.finished (h : PlvHead) (f : Nat) (peer m : List Byte) : State :=
  ((s.replied h.session f peer m).cond (h.type == 2) (fun a => a.setReg .iPLV_CLOSE 0 0)).afterMessage h.session

end

/-! ## The request under way -/

section
variable (s : State) (from_ : Nat) (mac : BitVec 48) (peer : List Byte) (h : PlvHead)

theorem State.messageBegun_eq : s.messageBegun from_ mac peer h =
    (((s.received from_ mac).noted from_ mac.toNat peer h.session).setReg .iSS_SEQ h.session h.seq).setReg .iPLV_CUR 0
      (h.session + 1) := rfl

/-- The parts that a request changes before its items. -/
def begunParts : List Part :=
  flds [.macs, .sent] ++ regs [.iSS_SEEN, .iSS_FROM, .iSS_MAC, .SS_PEER, .iSS_SEQ, .iPLV_CUR]

theorem State.messageBegun_frame : Touches begunParts s (s.messageBegun from_ mac peer h) := by
  rw [State.messageBegun_eq]
  exact State.setReg_touches (by decide) (State.setReg_touches (by decide)
    (((s.received_frame from_ mac).append (State.noted_frame _ ..)).mono (by decide)))

theorem State.messageBegun_reg {q : Reg} (j : Nat) (hq : Part.reg q ∉ begunParts) :
    (s.messageBegun from_ mac peer h).reg q j = s.reg q j :=
  (s.messageBegun_frame from_ mac peer h).reg q j hq (by decide)

theorem State.messageBegun_sent : (s.messageBegun from_ mac peer h).sent = [] := by
  have hnoted : ((s.received from_ mac).noted from_ mac.toNat peer h.session).sent = (s.received from_ mac).sent :=
    (State.noted_frame _ from_ mac.toNat peer h.session).fld .sent (by decide) (by decide)
  rw [State.messageBegun_eq]
  exact hnoted

theorem State.messageBegun_only : OnlyAt s (s.messageBegun from_ mac peer h) sessionRegs h.session := by
  rw [State.messageBegun_eq]
  refine OnlyAt.touches (V := [.reg .iPLV_CUR]) ?_ (State.setReg_touches (by simp) (.refl _ _)) (by decide) (by decide)
  exact OnlyAt.setReg (OnlyAt.setReg (OnlyAt.setReg (OnlyAt.setReg (OnlyAt.setReg
    (OnlyAt.touches (.refl s _ _) (s.received_frame from_ mac) (by decide) (by decide)) _ _) _ _) _ _) _ _) _ _

/-- Session, source and SEQ of a request under way. -/
theorem State.messageBegun_session (hn : h.session < 1024) (hfrom : from_ < 256) (hpeer : peer.length = 18) :
    let u := s.messageBegun from_ mac peer h
    u.Holds .iSS_SEQ h.session h.seq ∧ u.Holds .iSS_SEEN h.session s.clock ∧ u.reg .iSS_FROM h.session = from_ ∧
    u.peerOf h.session = peer ∧ u.reg .iPLV_CUR 0 = h.session + 1 := by
  have hlow (q : Reg) (j : Nat) (hseq : q ≠ .iSS_SEQ) (hcur : q ≠ .iPLV_CUR) : (s.messageBegun from_ mac peer h).reg q j =
      ((s.received from_ mac).noted from_ mac.toNat peer h.session).reg q j := by
    rw [State.messageBegun_eq, State.setReg_reg_of_ne _ _ _ _ hcur.symm, State.setReg_reg_of_ne _ _ _ _ hseq.symm]
  have hwidth : leNat peer < 2 ^ Reg.width .SS_PEER := by
    have hlt := leNat_lt peer
    rwa [hpeer] at hlt
  refine ⟨?_, ?_, ?_, ?_, ?_⟩
  · unfold State.Holds
    rw [State.messageBegun_eq, State.setReg_reg_of_ne _ _ _ _ (by decide)]
    exact State.setReg_reg_self ..
  · unfold State.Holds
    rw [hlow _ _ (by decide) (by decide), State.noted, State.setReg_reg_of_ne _ _ _ _ (by decide),
      State.setReg_reg_of_ne _ _ _ _ (by decide), State.setReg_reg_of_ne _ _ _ _ (by decide)]
    exact State.setReg_reg_self ..
  · rw [hlow _ _ (by decide) (by decide), State.noted, State.setReg_reg_of_ne _ _ _ _ (by decide),
      State.setReg_reg_of_ne _ _ _ _ (by decide)]
    exact State.setReg_reg_of_lt _ _ _ hfrom
  · unfold State.peerOf
    rw [hlow _ _ (by decide) (by decide), State.noted, State.setReg_reg_of_lt _ _ _ hwidth, ← hpeer]
    exact leBytes_leNat peer
  · rw [State.messageBegun_eq]
    have hcur : h.session + 1 < 2 ^ Reg.width .iPLV_CUR := Nat.lt_of_le_of_lt hn (by decide)
    exact State.setReg_reg_of_lt _ _ _ hcur

/-- A request is answered with PLV_TOO_BIG before its items, or with its items performed. -/
theorem State.perform_message (hfrom : from_ < 256) (hpeer : peer.length = 18) (xs : List PlvItem) :
    let q := (s.messageBegun from_ mac peer h).plvItems h.session h.type xs
    ((s.received from_ mac).noted from_ mac.toNat peer h.session).perform h xs =
      if s.tooBig h.session q.1 = true then
        (s.messageBegun from_ mac peer h).finished h from_ peer
          (plvMessage h.type h.session 2 h.seq 0 Code.plvTooBig (s.keyOfSession h.session) [])
      else q.2.finished h from_ peer (plvMessage h.type h.session 2 h.seq (if 4 ≤ h.type then xs.length else 0) 0
        (s.keyOfSession h.session) q.1) := by
  have hnoted := (s.received from_ mac).noted_frame from_ mac.toNat peer h.session
  have hkey : ((s.received from_ mac).noted from_ mac.toNat peer h.session).keyOfSession h.session =
      s.keyOfSession h.session := by
    unfold State.keyOfSession
    rw [hnoted.reg _ _ (by decide) (by decide), hnoted.reg _ _ (by decide) (by decide)]
    rfl
  have hwidth : leNat peer < 2 ^ Reg.width .SS_PEER := by
    have hlt := leNat_lt peer
    rwa [hpeer] at hlt
  have hsource : ((s.received from_ mac).noted from_ mac.toNat peer h.session).reg .iSS_FROM h.session = from_ := by
    rw [State.noted, State.setReg_reg_of_ne _ _ _ _ (by decide), State.setReg_reg_of_ne _ _ _ _ (by decide)]
    exact State.setReg_reg_of_lt _ _ _ hfrom
  have hback : ((s.received from_ mac).noted from_ mac.toNat peer h.session).peerOf h.session = peer := by
    unfold State.peerOf
    rw [State.noted, State.setReg_reg_of_lt _ _ _ hwidth, ← hpeer]
    exact leBytes_leNat peer
  dsimp only
  rw [State.messageBegun_eq]
  unfold State.perform State.tooBig
  dsimp only
  rw [hkey, hsource, hback]
  generalize (((s.received from_ mac).noted from_ mac.toNat peer h.session).setReg .iSS_SEQ h.session h.seq).setReg
    .iPLV_CUR 0 (h.session + 1) = u
  generalize u.plvItems h.session h.type xs = q
  obtain ⟨body, t⟩ := q
  dsimp only
  generalize decide (9000 < 32 + body.length + 16 * b2n (s.keyOfSession h.session).isSome) = big
  cases big <;> rfl

/-- The parts that answering a request of another TYPE than CLOSE changes. -/
def finishParts : List Part :=
  flds [.responses, .sent, .egress, .waits] ++ regs [.iPLV_CUR, .iPLV_CLOSE, .iPLV_RESET]

theorem State.finished_quiet (b : State) (f : Nat) (m : List Byte) (htype : h.type ≠ 2)
    (hclose : b.reg .iPLV_CLOSE 0 = 0xFF) (hreset : b.reg .iPLV_RESET 0 = 0) :
    b.finished h f peer m = (b.replied h.session f peer m).messageDone := by
  have hreply := b.replied_frame h.session f peer m
  unfold State.finished
  rw [show (b.replied h.session f peer m).cond (h.type == 2) (fun a => a.setReg .iPLV_CLOSE 0 0) =
    b.replied h.session f peer m from if_neg (by simpa using htype)]
  exact State.afterMessage_quiet _ _ ((hreply.reg _ _ (by decide) (by decide)).trans hclose)
    ((hreply.reg _ _ (by decide) (by decide)).trans hreset)

theorem State.finished_quiet_frame (b : State) (f : Nat) (m : List Byte) (htype : h.type ≠ 2)
    (hclose : b.reg .iPLV_CLOSE 0 = 0xFF) (hreset : b.reg .iPLV_RESET 0 = 0) :
    Touches finishParts b (b.finished h f peer m) ∧ (b.finished h f peer m).NoMessage ∧
    (b.finished h f peer m).sent = b.sent ++ [.plovan f peer m] ∧
    (h.session, m) ∈ (b.finished h f peer m).responses := by
  rw [State.finished_quiet peer h b f m htype hclose hreset]
  have hdone := (b.replied h.session f peer m).messageDone_frame
  refine ⟨(b.replied_frame h.session f peer m).append hdone, State.messageDone_noMessage _, ?_, ?_⟩
  · exact Eq.trans (hdone.fld .sent (by decide) (by decide)) (b.replied_sent h.session f peer m)
  · rw [show (b.replied h.session f peer m).messageDone.responses = (b.replied h.session f peer m).responses from
      hdone.fld .responses (by decide) (by decide)]
    exact b.replied_response h.session f peer m

/-- The registers and fields that the items of a request may not touch for it to be answered as it stands. -/
def answerKeeps : List Part :=
  regs ([.iPLV_CUR, .iPLV_CLOSE, .iPLV_RESET] ++ sessionRegs) ++ [.anyReg, .fld .sent, .anyFld]

/-- A request whose items leave its session and what was sent is answered (R387, R391). -/
theorem State.answered_of_items (hmessage : s.NoMessage) (hopen : s.reg .SS_STATE h.session = 1)
    (hn : h.session < 1024) (hfrom : from_ < 256) (hpeer : peer.length = 18) (htype : h.type ≠ 2) {b : State}
    {V : List Part} (hT : Touches V (s.messageBegun from_ mac peer h) b) (hV : ∀ p ∈ answerKeeps, p ∉ V) (count : Nat)
    (body : List Byte) {t : State} (ht : b.finished h from_ peer
      (plvMessage h.type h.session 2 h.seq count 0 (s.keyOfSession h.session) body) = t) :
    Touches (plvFrame ++ V) s t ∧ PlvAnswered s t from_ peer h count body ∧ Touches finishParts b t := by
  obtain ⟨hcur, hclose, hreset⟩ := hmessage
  have hkeep (q : Reg) (j : Nat) (hq : Part.reg q ∈ answerKeeps) :
      b.reg q j = (s.messageBegun from_ mac peer h).reg q j := hT.reg q j (hV _ hq) (hV _ (by decide))
  obtain ⟨hframe, hnone, hsent, hresponse⟩ := State.finished_quiet_frame peer h b from_
    (plvMessage h.type h.session 2 h.seq count 0 (s.keyOfSession h.session) body) htype
    ((hkeep _ _ (by decide)).trans ((s.messageBegun_reg from_ mac peer h 0 (by decide)).trans hclose))
    ((hkeep _ _ (by decide)).trans ((s.messageBegun_reg from_ mac peer h 0 (by decide)).trans hreset))
  rw [ht] at hframe hnone hsent hresponse
  obtain ⟨hseq, hseen, -, -, -⟩ := s.messageBegun_session from_ mac peer h hn hfrom hpeer
  have hquiet : b.sent = [] :=
    Eq.trans (hT.fld .sent (hV _ (by decide)) (hV _ (by decide))) (s.messageBegun_sent from_ mac peer h)
  have hsession (q : Reg) (j : Nat) (hq : q ∈ sessionRegs) : t.reg q j = (s.messageBegun from_ mac peer h).reg q j :=
    (hframe.reg q j ((by decide : ∀ q ∈ sessionRegs, Part.reg q ∉ finishParts) q hq) (by decide)).trans
      (hkeep q j ((by decide : ∀ q ∈ sessionRegs, Part.reg q ∈ answerKeeps) q hq))
  refine ⟨?_, ⟨?_, hresponse, (hsession _ _ (by decide)).trans hseq, (hsession _ _ (by decide)).trans hseen, ?_, hnone,
    fun q hq j hj => ?_⟩, hframe⟩
  · have hbegun : ∀ q ∈ begunParts, q ∈ plvFrame := by decide
    have hfinish : ∀ q ∈ finishParts, q ∈ plvFrame := by decide
    exact (((s.messageBegun_frame from_ mac peer h).mono fun q hq => List.mem_append_left V (hbegun q hq)).after
      (fun q hq => List.mem_append_right plvFrame hq) hT).after (fun q hq => List.mem_append_left V (hfinish q hq)) hframe
  · rw [hsent, hquiet, List.nil_append]
  · exact (hsession _ _ (by decide)).trans ((s.messageBegun_reg from_ mac peer h _ (by decide)).trans hopen)
  · exact (hsession q j hq).trans (s.messageBegun_only from_ mac peer h q hq j hj)

/-- A request with a response that is too big is answered so (R387). -/
theorem State.tooBig_of_items (hmessage : s.NoMessage) (hn : h.session < 1024) (hfrom : from_ < 256)
    (hpeer : peer.length = 18) (htype : h.type ≠ 2) {t : State}
    (ht : (s.messageBegun from_ mac peer h).finished h from_ peer
      (plvMessage h.type h.session 2 h.seq 0 Code.plvTooBig (s.keyOfSession h.session) []) = t) :
    PlvTooBig s t from_ peer h := by
  obtain ⟨hcur, hclose, hreset⟩ := hmessage
  obtain ⟨hframe, -, hsent, hresponse⟩ := State.finished_quiet_frame peer h (s.messageBegun from_ mac peer h) from_
    (plvMessage h.type h.session 2 h.seq 0 Code.plvTooBig (s.keyOfSession h.session) []) htype
    ((s.messageBegun_reg from_ mac peer h 0 (by decide)).trans hclose)
    ((s.messageBegun_reg from_ mac peer h 0 (by decide)).trans hreset)
  rw [ht] at hframe hsent hresponse
  obtain ⟨hseq, -, -, -, -⟩ := s.messageBegun_session from_ mac peer h hn hfrom hpeer
  refine ⟨?_, hresponse, (hframe.reg _ _ (by decide) (by decide)).trans hseq, ?_⟩
  · rw [hsent, s.messageBegun_sent, List.nil_append]
  · exact ((s.messageBegun_frame from_ mac peer h).append hframe).mono (by decide)

end

end Sys2Proof.Machine
end

section
/-! OPEN, CLOSE and KEEPALIVE (R389 to R393). -/
namespace Sys2Proof.Machine

/-! ## Session keys (R390) -/

theorem Sha.blocks_length (n : Nat) (bs : List Byte) (h : List Nat) : (Sha.blocks n bs h).length ≤ h.length := by
  induction n generalizing bs h with
  | zero => exact Nat.le_refl _
  | succ n ih =>
    refine (ih _ _).trans ?_
    rw [Sha.block, List.length_zipWith]
    exact Nat.min_le_left ..

theorem Sha.sha256_length (m : List Byte) : (Sha.sha256 m).length ≤ 32 := by
  have hwords (l : List Nat) : (l.flatMap (beBytes 4)).length = 4 * l.length := by
    induction l with
    | nil => rfl
    | cons x l ih =>
      rw [List.flatMap_cons, List.length_append, ih, beBytes, List.length_reverse, leBytes_length, List.length_cons]
      omega
  have hstart : Sha.start.length = 8 := by decide
  unfold Sha.sha256
  dsimp only
  rw [hwords]
  have hlen := Sha.blocks_length ((m ++ [BitVec.ofNat 8 0x80] ++ List.replicate ((119 - m.length % 64) % 64)
    (BitVec.ofNat 8 0) ++ beBytes 8 (8 * m.length)).length / 64) (m ++ [BitVec.ofNat 8 0x80] ++ List.replicate
    ((119 - m.length % 64) % 64) (BitVec.ofNat 8 0) ++ beBytes 8 (8 * m.length)) Sha.start
  omega

theorem sessionKey_lt (psk clientNonce serverNonce session : Nat) :
    sessionKey psk clientNonce serverNonce session < 2 ^ 256 := by
  unfold sessionKey Sha.hmac
  refine (leNat_lt _).trans_le (Nat.pow_le_pow_right (by decide) ?_)
  have hlen := Sha.sha256_length
  exact Nat.mul_le_mul_left 8 (hlen _)

/-! ## What is sent stays sent -/

section
variable (s : State)

theorem State.netSend_sent (port sub dst etype : Nat) (body : List Byte) :
    s.sent <+: (s.netSend port sub dst etype body).sent := by
  unfold State.netSend
  dsimp only
  generalize s.ownFrame dst (s.reg .NET_PCP_CTRL 0) etype body = f
  have hown := State.sendOwn_touches (W := State.sendOwn_foot) (port := port) (sub := sub)
    (queue := s.reg .NET_PCP_CTRL 0) (len := f.length) (msg := .frame port sub f) (fun _ h => h)
    (.refl _ (s.sendMore [.frame port sub f]))
  rw [show ((s.sendMore [OutMsg.frame port sub f]).sendOwn port sub (s.reg .NET_PCP_CTRL 0) f.length
    (.frame port sub f)).sent = (s.sendMore [OutMsg.frame port sub f]).sent from hown.fld .sent (by decide) (by decide)]
  exact List.prefix_append ..

theorem State.igmpReport_sent (port kind : Nat) (groups : List Nat) : s.sent <+: (s.igmpReport port kind groups).sent := by
  unfold State.igmpReport
  split
  · exact List.prefix_rfl
  · exact State.netSend_sent ..

theorem State.mldReport_sent (port kind : Nat) (groups : List Nat) : s.sent <+: (s.mldReport port kind groups).sent := by
  unfold State.mldReport
  split
  · exact List.prefix_rfl
  · exact State.netSend_sent ..

theorem State.reportGroups_sent (old : State) : s.sent <+: (s.reportGroups old).sent := by
  unfold State.reportGroups
  refine forN_inv (P := fun t : State => s.sent <+: t.sent) List.prefix_rfl fun t p h => ?_
  exact h.trans ((State.igmpReport_sent ..).trans ((State.igmpReport_sent ..).trans ((State.mldReport_sent ..).trans
    (State.mldReport_sent ..))))

theorem State.freeStream_sent (n : Nat) : s.sent <+: (s.freeStream n).sent := by
  have hreport := ((s.setReg .STR_STATE (s.reg .SS_SLOT n) 0).setReg .STR_SESSION (s.reg .SS_SLOT n)
    0xFFFF).reportGroups_sent s
  unfold State.freeStream
  dsimp only
  split
  · exact hreport
  · exact List.prefix_rfl

theorem State.closeNow_sent (n cause : Nat) : s.sent <+: (s.closeNow n cause).sent := by
  have hgroups : (s.closeGroups n).sent = s.sent := (s.closeGroups_frame n).fld .sent (by decide) (by decide)
  have hstream := (s.closeGroups n).freeStream_sent n
  have hrest : Touches (State.endSubscriptions_foot ++ State.clearSession_foot ++ State.raise_foot)
      ((s.closeGroups n).freeStream n) (s.closeNow n cause) :=
    ((State.endSubscriptions_frame _ n).append (State.clearSession_frame _ n)).append
      (State.raise_touches (fun _ h => h) (.refl _ _))
  rw [hgroups] at hstream
  rwa [show (s.closeNow n cause).sent = ((s.closeGroups n).freeStream n).sent from
    hrest.fld .sent (by decide) (by decide)]

end

/-! ## KEEPALIVE (R391) -/

/-- A CLOSE or KEEPALIVE has no items. -/
theorem PlvHead.items_nil {h : PlvHead} {xs : List PlvItem} (hitems : h.items = some xs) (htype : h.type = 2 ∨ h.type = 3) :
    xs = [] := by
  unfold PlvHead.items at hitems
  rw [if_neg (by omega), if_pos htype] at hitems
  split at hitems
  · exact (Option.some.inj hitems).symm
  · cases hitems

theorem State.tooBig_nil (s : State) (n : Nat) : s.tooBig n [] = false := by
  unfold State.tooBig b2n
  split <;> decide

/-- PLOVAN_KEEPALIVE (R387, R391). -/
theorem plovanKeepalive_completes (port : Fin 2) (sub : Fin 4) (mac : BitVec 48) (src : BitVec 128)
    (srcPort : BitVec 16) (p : List Byte) (s : State) (hmessage : s.NoMessage) :
    ∃ t, exec (.plovanKeepalive port sub mac src srcPort p) s = .next t ∧ Touches plvFrame s t ∧
      PlvDatagram s t (plvFrom port sub) mac 3 p (fun h _ => PlvRequest s t (plvFrom port sub) mac (plvPeer src
          srcPort) p h (PlvAnswered s t (plvFrom port sub) (plvPeer src srcPort) h 0 [])) := by
  refine ⟨_, rfl, s.plvCommand_datagram mac (G := Touches plvFrame s) (fun _ h => h) (P := fun t h _ => PlvRequest s t (plvFrom port sub) mac
    (plvPeer src srcPort) p h (PlvAnswered s t (plvFrom port sub) (plvPeer src srcPort) h 0 [])) fun h xs htype hitems => ?_⟩
  obtain rfl := PlvHead.items_nil hitems (.inr htype)
  refine s.plvTaken_request _ mac (by omega) (G := Touches plvFrame s) (fun _ h => h)
    (P := fun t => PlvAnswered s t (plvFrom port sub) (plvPeer src srcPort) h 0 []) fun hn hopen _ => ?_
  have hfrom : plvFrom port sub < 256 := by unfold plvFrom; omega
  rw [s.perform_message _ mac _ h hfrom (plvPeer_length ..)]
  have hnone : (s.messageBegun (plvFrom port sub) mac (plvPeer src srcPort) h).plvItems h.session h.type [] =
    ([], s.messageBegun (plvFrom port sub) mac (plvPeer src srcPort) h) := rfl
  rw [hnone, if_neg (by simp [State.tooBig_nil]), if_neg (show ¬ 4 ≤ h.type by omega)]
  obtain ⟨hframe, hanswer, -⟩ := s.answered_of_items _ mac _ h hmessage hopen hn hfrom (plvPeer_length ..) (by omega)
    (V := []) (.refl _ _) (fun _ _ => List.not_mem_nil) 0 [] rfl
  exact ⟨hframe.mono (by simp), hanswer⟩

end Sys2Proof.Machine
end

section
/-! OPEN and CLOSE (R389 to R393). -/
namespace Sys2Proof.Machine

/-! ## CLOSE (R392) -/

/-- A request that leaves its session to close is answered, and the session closes. -/
theorem State.finished_closes (b : State) (h : PlvHead) (f : Nat) (peer m : List Byte) (hreset : b.reg .iPLV_RESET 0 = 0)
    {c : Nat} (hc : c ≠ 0xFF) (hclose : (if h.type = 2 then 0 else b.reg .iPLV_CLOSE 0) = c) :
    ∃ v, Touches finishParts b v ∧ v.NoMessage ∧ v.sent = b.sent ++ [.plovan f peer m] ∧
      b.finished h f peer m = v.closeNow h.session c := by
  have hreply := b.replied_frame h.session f peer m
  have hsent := b.replied_sent h.session f peer m
  unfold State.finished
  generalize b.replied h.session f peer m = r at hreply hsent
  have hmark : Touches [.reg .iPLV_CLOSE] r (r.cond (h.type == 2) (fun a => a.setReg .iPLV_CLOSE 0 0)) :=
    cond_touches (.refl _ r) fun _ hx => State.setReg_touches (by simp) hx
  have hmarked : (r.cond (h.type == 2) (fun a => a.setReg .iPLV_CLOSE 0 0)).reg .iPLV_CLOSE 0 = c := by
    unfold State.cond
    by_cases htype : h.type = 2
    · rw [if_pos htype] at hclose
      rw [if_pos (by simpa using htype), ← hclose]
      exact State.setReg_reg_of_lt _ _ _ (by decide)
    · rw [if_neg htype] at hclose
      rw [if_neg (by simpa using htype), hreply.reg _ _ (by decide) (by decide), hclose]
  generalize r.cond (h.type == 2) (fun a => a.setReg .iPLV_CLOSE 0 0) = w at hmark hmarked
  have hdone := w.messageDone_frame
  refine ⟨w.messageDone, ((hreply.append hmark).append hdone).mono (by decide), w.messageDone_noMessage, ?_, ?_⟩
  · exact Eq.trans (hdone.fld .sent (by decide) (by decide))
      (Eq.trans (hmark.fld .sent (by decide) (by decide)) hsent)
  · rw [w.afterMessage_close h.session (by rw [hmarked]; exact hc), hmarked]
    exact (hmark.reg _ _ (by decide) (by decide)).trans ((hreply.reg _ _ (by decide) (by decide)).trans hreset)

/-- A session that its own message closed has closed, and its response left before (R392). -/
theorem State.closes_of_items {b v t : State} {n c f : Nat} {peer m : List Byte} (hT : Touches finishParts b v)
    (hnone : v.NoMessage) (hsent : v.sent = b.sent ++ [.plovan f peer m]) (ht : v.closeNow n c = t) :
    .plovan f peer m ∈ t.sent ∧ SessionClosed b t n c ∧ t.NoMessage ∧ Touches (finishParts ++ State.closeNow_foot) b t := by
  have hclose := v.closeNow_frame n c
  have hclosed := v.closeNow_closed n c
  have hgrown := v.closeNow_sent n c
  rw [ht] at hclose hclosed hgrown
  obtain ⟨hcur, hno, hreset⟩ := hnone
  refine ⟨hgrown.subset (by simp [hsent]), ?_, ?_, hT.append hclose⟩
  · exact hclosed.of_same (fun g => ⟨hT.reg _ _ (by decide) (by decide), hT.reg _ _ (by decide) (by decide)⟩)
      (hT.reg _ _ (by decide) (by decide)) (OnlyAt.touches (.refl b _ _) hT (by decide) (by decide)) (.refl [] t)
      (by decide) (by decide) (by decide) (by decide) (by decide)
  · exact ⟨(hclose.reg _ _ (by decide) (by decide)).trans hcur, (hclose.reg _ _ (by decide) (by decide)).trans hno,
      (hclose.reg _ _ (by decide) (by decide)).trans hreset⟩

/-- PLOVAN_CLOSE (R392). -/
theorem plovanClose_completes (port : Fin 2) (sub : Fin 4) (mac : BitVec 48) (src : BitVec 128)
    (srcPort : BitVec 16) (p : List Byte) (s : State) (hmessage : s.NoMessage) :
    ∃ t, exec (.plovanClose port sub mac src srcPort p) s = .next t ∧ Touches Changes.plovanClose s t ∧
      PlvDatagram s t (plvFrom port sub) mac 2 p (fun h _ => PlvRequest s t (plvFrom port sub) mac (plvPeer src
          srcPort) p h
        (.plovan (plvFrom port sub) (plvPeer src srcPort) (plvMessage 2 h.session 2 h.seq 0 0 (s.keyOfSession
            h.session)
          []) ∈ t.sent ∧ SessionClosed s t h.session 0 ∧ t.NoMessage)) := by
  have hF : ∀ q ∈ plvFrame, q ∈ Changes.plovanClose := fun _ h => List.mem_append_left _ (List.mem_append_left _ h)
  refine ⟨_, rfl, s.plvCommand_datagram mac (fun _ hT => hT.mono hF) (P := fun t h _ => PlvRequest s t (plvFrom port sub) mac
    (plvPeer src srcPort) p h (.plovan (plvFrom port sub) (plvPeer src srcPort) (plvMessage 2 h.session 2 h.seq 0 0
      (s.keyOfSession h.session) []) ∈ t.sent ∧ SessionClosed s t h.session 0 ∧ t.NoMessage))
    fun h xs htype hitems => ?_⟩
  obtain rfl := PlvHead.items_nil hitems (.inl htype)
  refine s.plvTaken_request _ mac (h := h) (by omega) (fun _ hT => hT.mono hF) (P := fun t => .plovan (plvFrom port sub) (plvPeer src srcPort)
    (plvMessage 2 h.session 2 h.seq 0 0 (s.keyOfSession h.session) []) ∈ t.sent ∧ SessionClosed s t h.session 0 ∧
      t.NoMessage) fun hn hopen _ => ?_
  have hfrom : plvFrom port sub < 256 := by unfold plvFrom; omega
  rw [s.perform_message _ mac _ h hfrom (plvPeer_length ..)]
  have hnone : (s.messageBegun (plvFrom port sub) mac (plvPeer src srcPort) h).plvItems h.session h.type [] =
    ([], s.messageBegun (plvFrom port sub) mac (plvPeer src srcPort) h) := rfl
  rw [hnone, if_neg (by simp [State.tooBig_nil]), if_neg (show ¬ 4 ≤ h.type by omega), htype]
  dsimp only
  have hbegun := s.messageBegun_frame (plvFrom port sub) mac (plvPeer src srcPort) h
  have honly := s.messageBegun_only (plvFrom port sub) mac (plvPeer src srcPort) h
  generalize s.messageBegun (plvFrom port sub) mac (plvPeer src srcPort) h = u at hbegun honly
  generalize plvMessage 2 h.session 2 h.seq 0 0 (s.keyOfSession h.session) [] = m
  obtain ⟨v, hT, hquiet, hsent, hrun⟩ := u.finished_closes h (plvFrom port sub) (plvPeer src srcPort) m
    ((hbegun.reg _ _ (by decide) (by decide)).trans hmessage.2.2) (c := 0) (by decide) (if_pos htype)
  rw [hrun]
  obtain ⟨hleft, hclosed, hdone, hframe⟩ := State.closes_of_items hT hquiet hsent rfl
  refine ⟨(hbegun.append hframe).mono (by decide), hleft, ?_, hdone⟩
  exact hclosed.of_same (fun g => ⟨hbegun.reg _ _ (by decide) (by decide), hbegun.reg _ _ (by decide) (by decide)⟩)
    (hbegun.reg _ _ (by decide) (by decide)) honly (.refl [] _) (by decide) (by decide) (by decide) (by decide)
    (by decide)

end Sys2Proof.Machine
end

section
/-! OPEN (R389, R390, R393). -/
namespace Sys2Proof.Machine

theorem leBytes_mod (n v : Nat) : leBytes n (v % 2 ^ (8 * n)) = leBytes n v := by
  have h := leBytes_leNat (leBytes n v)
  rwa [leBytes_length, leNat_leBytes] at h

/-! ## A session opens (R389) -/

section
variable (s : State)

/-- Session `n` as its OPEN asks, without a slot. -/
def State.sessionOpened (n role kind keyId : Nat) (key : Option Nat) : State :=
  (((((((s.setReg .SS_STATE n 1).setReg .SS_ROLE n role).setReg .SS_KIND n kind).setReg .SS_KEY_ID n keyId).setReg
    .iSS_KEYED n (b2n key.isSome)).setReg .iSS_KEY n (key.getD 0)).setReg .iSS_SEQ n 0).setReg .iSS_NOTIFY n 0

/-- Session `n` with the slot it takes, if it takes one. -/
def State.slotTaken (n : Nat) (slot : Option Nat) : State := slot.elim s (s.bindSlot n)

theorem State.openSession_eq (n role kind keyId : Nat) (key slot : Option Nat) :
    s.openSession n role kind keyId key slot = (s.sessionOpened n role kind keyId key).slotTaken n slot := by
  unfold State.openSession State.slotTaken
  cases slot with
  | none => rfl
  | some k => dsimp only [Option.elim]; rfl

theorem State.slotTaken_none (n : Nat) : s.slotTaken n none = s := rfl

theorem State.slotTaken_some (n k : Nat) : s.slotTaken n (some k) = s.bindSlot n k := by
  rw [State.slotTaken, Option.elim_some]

/-- The registers that an OPEN gives a session. -/
theorem State.sessionOpened_regs {n role kind keyId : Nat} {key : Option Nat} (hrole : role < 256) (hkind : kind < 256)
    (hid : keyId < 2 ^ 16) (hkey : ∀ k ∈ key, k < 2 ^ 256) :
    let t := s.sessionOpened n role kind keyId key
    t.reg .SS_STATE n = 1 ∧ t.reg .SS_ROLE n = role ∧ t.reg .SS_KIND n = kind ∧ t.reg .SS_KEY_ID n = keyId ∧
    t.reg .iSS_SEQ n = 0 ∧ t.keyOfSession n = key := by
  have hkeyed : b2n key.isSome < 2 ^ Reg.width .iSS_KEYED := by
    unfold b2n
    split <;> decide
  have hvalue : key.getD 0 < 2 ^ Reg.width .iSS_KEY := by
    cases key with
    | none => decide
    | some k => exact hkey k rfl
  unfold State.sessionOpened State.keyOfSession
  refine ⟨?_, ?_, ?_, ?_, ?_, ?_⟩
  · rw [State.setReg_reg_of_ne _ _ _ _ (by decide), State.setReg_reg_of_ne _ _ _ _ (by decide),
      State.setReg_reg_of_ne _ _ _ _ (by decide), State.setReg_reg_of_ne _ _ _ _ (by decide),
      State.setReg_reg_of_ne _ _ _ _ (by decide), State.setReg_reg_of_ne _ _ _ _ (by decide),
      State.setReg_reg_of_ne _ _ _ _ (by decide)]
    exact State.setReg_reg_of_lt _ _ _ (by decide)
  · rw [State.setReg_reg_of_ne _ _ _ _ (by decide), State.setReg_reg_of_ne _ _ _ _ (by decide),
      State.setReg_reg_of_ne _ _ _ _ (by decide), State.setReg_reg_of_ne _ _ _ _ (by decide),
      State.setReg_reg_of_ne _ _ _ _ (by decide), State.setReg_reg_of_ne _ _ _ _ (by decide)]
    exact State.setReg_reg_of_lt _ _ _ hrole
  · rw [State.setReg_reg_of_ne _ _ _ _ (by decide), State.setReg_reg_of_ne _ _ _ _ (by decide),
      State.setReg_reg_of_ne _ _ _ _ (by decide), State.setReg_reg_of_ne _ _ _ _ (by decide),
      State.setReg_reg_of_ne _ _ _ _ (by decide)]
    exact State.setReg_reg_of_lt _ _ _ hkind
  · rw [State.setReg_reg_of_ne _ _ _ _ (by decide), State.setReg_reg_of_ne _ _ _ _ (by decide),
      State.setReg_reg_of_ne _ _ _ _ (by decide), State.setReg_reg_of_ne _ _ _ _ (by decide)]
    exact State.setReg_reg_of_lt _ _ _ hid
  · rw [State.setReg_reg_of_ne _ _ _ _ (by decide)]
    exact State.setReg_reg_of_lt _ _ _ (by decide)
  · rw [State.setReg_reg_of_ne _ _ _ _ (by decide), State.setReg_reg_of_ne _ _ _ _ (by decide),
      State.setReg_reg_of_ne _ _ _ _ (by decide), State.setReg_reg_of_lt _ _ _ hkeyed,
      State.setReg_reg_of_ne _ _ _ _ (by decide), State.setReg_reg_of_ne _ _ _ _ (by decide),
      State.setReg_reg_of_lt _ _ _ hvalue]
    cases key <;> rfl

/-- The session registers that an OPEN writes before the slot. -/
def openRegs : List Reg :=
  [.SS_STATE, .SS_ROLE, .SS_KIND, .SS_KEY_ID, .iSS_KEYED, .iSS_KEY, .iSS_SEQ, .iSS_NOTIFY]

theorem State.sessionOpened_frame (n role kind keyId : Nat) (key : Option Nat) :
    Touches (Sys2Proof.Machine.regs openRegs) s (s.sessionOpened n role kind keyId key) :=
  State.setReg_touches (by decide) (State.setReg_touches (by decide) (State.setReg_touches (by decide)
    (State.setReg_touches (by decide) (State.setReg_touches (by decide) (State.setReg_touches (by decide)
      (State.setReg_touches (by decide) (State.setReg_touches (by decide) (.refl _ s))))))))

theorem State.sessionOpened_only (n role kind keyId : Nat) (key : Option Nat) :
    OnlyAt s (s.sessionOpened n role kind keyId key) sessionRegs n :=
  OnlyAt.setReg (OnlyAt.setReg (OnlyAt.setReg (OnlyAt.setReg (OnlyAt.setReg (OnlyAt.setReg (OnlyAt.setReg
    (OnlyAt.setReg (.refl s _ _) _ _) _ _) _ _) _ _) _ _) _ _) _ _) _ _

/-- The registers of slot `k` and the session that takes it. -/
def State.slotRegs (n k : Nat) : State :=
  (((((s.setReg .SS_SLOT n k).setReg .STR_SESSION k n).setReg .STR_STATE k
    (if bit (s.reg .MS_FROZEN_INGEST 0) k then 2 else 1)).setReg .STR_PACKETS k 0).setReg .STR_DISCARDS k 0).setReg
    .STR_TILES_LOST k 0

/-- A slot that is taken forgets what it replayed. -/
def State.replayForgotten (k : Nat) : State := { s with replay := s.replay.filter (fun e => e.1 != k) }

theorem State.bindSlot_eq (n k : Nat) :
    s.bindSlot n k = (((s.slotRegs n k).replayForgotten k).setReg .iSEQ_HIGH k 0).reportGroups s := rfl

theorem State.replayForgotten_frame (k : Nat) : Touches (flds [.replay]) s (s.replayForgotten k) :=
  (Touches.refl _ s).other (fun f => by cases f <;> first | exact .inr rfl | exact .inl (by decide)) rfl rfl rfl rfl rfl
    rfl rfl

/-- What follows once the registers of a slot are written. -/
theorem State.bindSlot_rest (n k : Nat) :
    Touches (flds [.replay] ++ ([.reg .iSEQ_HIGH] ++ State.reportGroups_foot)) (s.slotRegs n k) (s.bindSlot n k) := by
  rw [State.bindSlot_eq]
  exact (State.replayForgotten_frame _ k).append
    (Touches.append (V := [.reg .iSEQ_HIGH]) (State.setReg_touches (by simp) (.refl _ _)) (State.reportGroups_frame _ s))

theorem State.bindSlot_slot {n k : Nat} (hn : n < 1024) (hk : k < 256) :
    let t := s.bindSlot n k
    t.reg .SS_SLOT n = k ∧ t.reg .STR_SESSION k = n ∧ t.reg .STR_PACKETS k = 0 ∧
    t.reg .STR_STATE k = (if bit (s.reg .MS_FROZEN_INGEST 0) k then 2 else 1) ∧ OnlyAt s t sessionRegs n := by
  have hrest := s.bindSlot_rest n k
  dsimp only
  refine ⟨?_, ?_, ?_, ?_, fun q hq j hj => ?_⟩
  · rw [hrest.reg _ _ (by decide) (by decide), State.slotRegs, State.setReg_reg_of_ne _ _ _ _ (by decide),
      State.setReg_reg_of_ne _ _ _ _ (by decide), State.setReg_reg_of_ne _ _ _ _ (by decide),
      State.setReg_reg_of_ne _ _ _ _ (by decide), State.setReg_reg_of_ne _ _ _ _ (by decide)]
    exact State.setReg_reg_of_lt _ _ _ (Nat.lt_trans hk (by decide))
  · rw [hrest.reg _ _ (by decide) (by decide), State.slotRegs, State.setReg_reg_of_ne _ _ _ _ (by decide),
      State.setReg_reg_of_ne _ _ _ _ (by decide), State.setReg_reg_of_ne _ _ _ _ (by decide),
      State.setReg_reg_of_ne _ _ _ _ (by decide)]
    exact State.setReg_reg_of_lt _ _ _ (Nat.lt_trans hn (by decide))
  · rw [hrest.reg _ _ (by decide) (by decide), State.slotRegs, State.setReg_reg_of_ne _ _ _ _ (by decide),
      State.setReg_reg_of_ne _ _ _ _ (by decide)]
    exact State.setReg_reg_of_lt _ _ _ (by decide)
  · rw [hrest.reg _ _ (by decide) (by decide), State.slotRegs, State.setReg_reg_of_ne _ _ _ _ (by decide),
      State.setReg_reg_of_ne _ _ _ _ (by decide), State.setReg_reg_of_ne _ _ _ _ (by decide)]
    exact State.setReg_reg_of_lt _ _ _ (by split <;> decide)
  · rw [hrest.reg q j ((by decide : ∀ q ∈ sessionRegs, Part.reg q ∉
      flds [.replay] ++ ([.reg .iSEQ_HIGH] ++ State.reportGroups_foot)) q hq) (by decide)]
    have hne : ∀ r ∈ [Reg.STR_SESSION, .STR_STATE, .STR_PACKETS, .STR_DISCARDS, .STR_TILES_LOST], r ≠ q := fun r hr hrq =>
      (by decide : ∀ r ∈ [Reg.STR_SESSION, .STR_STATE, .STR_PACKETS, .STR_DISCARDS, .STR_TILES_LOST], r ∉ sessionRegs)
        r hr (hrq ▸ hq)
    rw [State.slotRegs, State.setReg_reg_of_ne _ _ _ _ (hne _ (by decide)), State.setReg_reg_of_ne _ _ _ _ (hne _ (by decide)),
      State.setReg_reg_of_ne _ _ _ _ (hne _ (by decide)), State.setReg_reg_of_ne _ _ _ _ (hne _ (by decide)),
      State.setReg_reg_of_ne _ _ _ _ (hne _ (by decide)), State.setReg_reg_of_ix_ne _ _ _ _ hj]

theorem State.slotTaken_frame (n : Nat) (slot : Option Nat) : Touches State.bindSlot_foot s (s.slotTaken n slot) := by
  cases slot with
  | none => exact .refl _ s
  | some k =>
    rw [State.slotTaken_some]
    exact State.bindSlot_touches (fun _ h => h) (.refl _ s)

theorem State.slotTaken_only {n : Nat} (hn : n < 1024) {slot : Option Nat} (hslot : ∀ k ∈ slot, k < 256) :
    OnlyAt s (s.slotTaken n slot) sessionRegs n := by
  cases slot with
  | none => exact .refl s _ _
  | some k =>
    obtain ⟨-, -, -, -, honly⟩ := s.bindSlot_slot hn (hslot k rfl)
    rw [State.slotTaken_some]
    exact honly

/-! ## The response to an OPEN -/

/-- Where a session's OPEN came from. -/
def State.fromPeer (n clock f mac : Nat) (peer : List Byte) : State :=
  (((s.setReg .iSS_SEEN n clock).setReg .iSS_FROM n f).setReg .iSS_MAC n mac).setReg .SS_PEER n (leNat peer)

/-- The response to an OPEN is kept and leaves. -/
def State.openReplied (n f : Nat) (peer m : List Byte) : State :=
  ({ s with responses := s.responses ++ [(n, m)] } : State).sendPlv f peer m

theorem State.fromPeer_frame (n clock f mac : Nat) (peer : List Byte) :
    Touches (Sys2Proof.Machine.regs [.iSS_SEEN, .iSS_FROM, .iSS_MAC, .SS_PEER]) s (s.fromPeer n clock f mac peer) :=
  State.setReg_touches (by decide) (State.setReg_touches (by decide) (State.setReg_touches (by decide)
    (State.setReg_touches (by decide) (.refl _ s))))

theorem State.fromPeer_peerOf {n : Nat} (clock f mac : Nat) {peer : List Byte} (hpeer : peer.length = 18) :
    (s.fromPeer n clock f mac peer).peerOf n = peer := by
  have hwidth : leNat peer < 2 ^ Reg.width .SS_PEER := by
    have hlt := leNat_lt peer
    rwa [hpeer] at hlt
  unfold State.peerOf State.fromPeer
  rw [State.setReg_reg_of_lt _ _ _ hwidth, ← hpeer]
  exact leBytes_leNat peer

theorem State.fromPeer_only (n clock f mac : Nat) (peer : List Byte) :
    OnlyAt s (s.fromPeer n clock f mac peer) sessionRegs n :=
  OnlyAt.setReg (OnlyAt.setReg (OnlyAt.setReg (OnlyAt.setReg (.refl s _ _) _ _) _ _) _ _) _ _

theorem State.openReplied_frame (n f : Nat) (peer m : List Byte) :
    Touches (flds [.responses, .sent, .egress, .waits]) s (s.openReplied n f peer m) :=
  (((Touches.refl _ s).other (u := { s with responses := s.responses ++ [(n, m)] }) (W := flds [.responses])
    (fun f => by cases f <;> first | exact .inr rfl | exact .inl (by decide)) rfl rfl rfl rfl rfl rfl rfl).append
    (State.sendPlv_frame _ f peer m)).mono (by decide)

theorem State.openReplied_response (n f : Nat) (peer m : List Byte) : (n, m) ∈ (s.openReplied n f peer m).responses := by
  rw [State.openReplied, (State.sendPlv_frame _ f peer m).fld .responses (by decide) (by decide)]
  simp

theorem State.openReplied_sent (n f : Nat) (peer m : List Byte) : .plovan f peer m ∈ (s.openReplied n f peer m).sent := by
  rw [State.openReplied, State.sendPlv_sent]
  simp

end

/-! ## OPEN -/

section
variable (s : State)

theorem State.freeSession_lt {n : Nat} (h : s.freeSession = some n) : n < 1024 := by
  unfold State.freeSession at h
  exact List.mem_range.mp (List.mem_of_find?_eq_some h)

theorem State.freeSlot_lt {k : Nat} (h : s.freeSlot = some k) : k < 256 := by
  unfold State.freeSlot at h
  exact List.mem_range.mp (List.mem_of_find?_eq_some h)

/-- An OPEN that is accepted names a role and a kind that there are, and there is a session, and a slot where it needs
one. -/
theorem State.openStatus_accepts {role kind id : Nat} (h : s.openStatus role kind id = 0) :
    role < 256 ∧ kind < 256 ∧ (∃ n, s.freeSession = some n ∧ n < 1024) ∧
    (∀ k, (if kind = 1 then s.freeSlot else none) = some k → k < 256) := by
  unfold State.openStatus at h
  dsimp only at h
  generalize (if id = 0xFFFF then s.reg .PLV_ANON_OBSERVER 0 == 1 else (s.keyOf id).isSome) = known at h
  generalize (if id = 0xFFFF then 0 else ((s.keyOf id).map Prod.fst).getD 0) = ceiling at h
  split at h
  · exact absurd h (by decide)
  split at h
  · exact absurd h (by decide)
  split at h
  · exact absurd h (by decide)
  rename_i hrole hfree
  rw [not_or, not_or, not_or] at hrole
  obtain ⟨n, hn⟩ := Option.ne_none_iff_exists'.mp (fun hnone => hfree (Option.isNone_iff_eq_none.mpr hnone))
  refine ⟨by omega, by omega, ⟨n, hn, s.freeSession_lt hn⟩, fun k hk => ?_⟩
  split at hk
  · exact s.freeSlot_lt hk
  · cases hk

/-- The response to an OPEN that is accepted. -/
def State.openAnswer (h : PlvHead) (key slot : Option Nat) (n nonce : Nat) : List Byte :=
  plvMessage 1 n 2 h.seq 0 0 key (leBytes 8 nonce ++ leBytes 2 (slot.getD 0xFFFF) ++ leBytes 2 0 ++
    leBytes 4 (s.reg .PLV_TIMEOUT 0))

/-- The session key and the slot that an OPEN gets. -/
def State.openKey (h : PlvHead) (id n nonce : Nat) : Option Nat :=
  (s.keyOf id).map (fun k => sessionKey k.2 (leAt h.body 4 8) nonce n)

/-- What an OPEN that is accepted leaves. -/
def State.openAccepted (f mac : Nat) (peer : List Byte) (h : PlvHead) (n : Nat) : State :=
  let role := leAt h.body 0 1
  let kind := leAt h.body 1 1
  let id := leAt h.body 2 2
  let nonce := s.draw.1 % 2 ^ 64
  let slot := if kind = 1 then s.freeSlot else none
  let key := s.openKey h id n nonce
  (((s.draw.2.sessionOpened n role kind id key).slotTaken n slot).fromPeer n s.clock f mac peer).openReplied n f peer
    (s.openAnswer h key slot n nonce)

theorem State.plvOpen_accepted (f mac : Nat) (peer : List Byte) (h : PlvHead) {n : Nat} (hn : s.freeSession = some n)
    (htag : s.openTagOk h (leAt h.body 2 2) = true)
    (hcode : s.openStatus (leAt h.body 0 1) (leAt h.body 1 1) (leAt h.body 2 2) = 0) :
    s.plvOpen f mac peer h = s.openAccepted f mac peer h n := by
  unfold State.plvOpen State.openAccepted State.openAnswer
  dsimp only
  rw [if_neg (by simp [htag]), if_neg (not_not.mpr hcode), hn, ← State.openSession_eq, leBytes_mod 8 s.draw.1]
  rfl

end

end Sys2Proof.Machine
end

section
/-! The effect of an OPEN (R389, R390, R393). -/
namespace Sys2Proof.Machine

section
variable (s : State) {h : PlvHead} {n : Nat} (f mac : Nat) (peer : List Byte)

/-- What an OPEN that is accepted gives its session. -/
theorem State.openAccepted_session (hn : n < 1024) (hpeer : peer.length = 18) (hrole : leAt h.body 0 1 < 256)
    (hkind : leAt h.body 1 1 < 256)
    (hslot : ∀ k, (if leAt h.body 1 1 = 1 then s.freeSlot else none) = some k → k < 256) :
    let nonce := s.draw.1 % 2 ^ 64
    let key := s.openKey h (leAt h.body 2 2) n nonce
    let slot := if leAt h.body 1 1 = 1 then s.freeSlot else none
    let m := s.openAnswer h key slot n nonce
    let t := s.openAccepted f mac peer h n
    t.reg .SS_STATE n = 1 ∧ t.reg .SS_ROLE n = leAt h.body 0 1 ∧ t.reg .SS_KIND n = leAt h.body 1 1 ∧
    t.reg .SS_KEY_ID n = leAt h.body 2 2 ∧ t.reg .iSS_SEQ n = 0 ∧ t.keyOfSession n = key ∧ t.peerOf n = peer ∧
    OnlyAt s t sessionRegs n ∧ .plovan f peer m ∈ t.sent ∧ (n, m) ∈ t.responses ∧
    (∀ k, slot = some k → t.reg .SS_SLOT n = k ∧ t.reg .STR_SESSION k = n ∧ t.reg .STR_PACKETS k = 0 ∧
      t.reg .STR_STATE k = if bit (s.reg .MS_FROZEN_INGEST 0) k then 2 else 1) := by
  have hid : leAt h.body 2 2 < 2 ^ 16 := by
    refine (leNat_lt _).trans_le (Nat.pow_le_pow_right (by decide) ?_)
    exact Nat.mul_le_mul_left 8 (List.length_take_le ..)
  have hkey : ∀ k ∈ s.openKey h (leAt h.body 2 2) n (s.draw.1 % 2 ^ 64), k < 2 ^ 256 := by
    intro k hk
    unfold State.openKey at hk
    obtain ⟨x, -, rfl⟩ := Option.mem_map.mp hk
    exact sessionKey_lt ..
  dsimp only
  unfold State.openAccepted
  dsimp only
  generalize s.openKey h (leAt h.body 2 2) n (s.draw.1 % 2 ^ 64) = key at hkey
  generalize s.openAnswer h key _ n (s.draw.1 % 2 ^ 64) = m
  generalize (if leAt h.body 1 1 = 1 then s.freeSlot else none) = slot at hslot
  have hdraw : Touches [.fld .draws] s s.draw.2 := State.draw_touches (by simp) (.refl _ s)
  obtain ⟨hstate, hrole', hkind', hid', hseq, hkeyed⟩ := s.draw.2.sessionOpened_regs (n := n) hrole hkind hid hkey
  have hopened := s.draw.2.sessionOpened_frame n (leAt h.body 0 1) (leAt h.body 1 1) (leAt h.body 2 2) key
  have honly := s.draw.2.sessionOpened_only n (leAt h.body 0 1) (leAt h.body 1 1) (leAt h.body 2 2) key
  generalize s.draw.2.sessionOpened n (leAt h.body 0 1) (leAt h.body 1 1) (leAt h.body 2 2) key = a at *
  have hslotOnly := a.slotTaken_only hn hslot
  have hslotFrame := a.slotTaken_frame n slot
  have hslotRegs : ∀ k, slot = some k → (a.slotTaken n slot).reg .SS_SLOT n = k ∧
      (a.slotTaken n slot).reg .STR_SESSION k = n ∧ (a.slotTaken n slot).reg .STR_PACKETS k = 0 ∧
      (a.slotTaken n slot).reg .STR_STATE k = if bit (a.reg .MS_FROZEN_INGEST 0) k then 2 else 1 := by
    rintro k rfl
    obtain ⟨hs1, hs2, hs3, hs4, -⟩ := a.bindSlot_slot hn (hslot k rfl)
    rw [State.slotTaken_some]
    exact ⟨hs1, hs2, hs3, hs4⟩
  generalize a.slotTaken n slot = b at *
  have hpeerFrame := b.fromPeer_frame n s.clock f mac peer
  have hpeerOnly := b.fromPeer_only n s.clock f mac peer
  have hback := b.fromPeer_peerOf (n := n) s.clock f mac hpeer
  generalize b.fromPeer n s.clock f mac peer = c at *
  have hreply := c.openReplied_frame n f peer m
  have hsent := c.openReplied_sent n f peer m
  have hresponse := c.openReplied_response n f peer m
  generalize c.openReplied n f peer m = t at *
  have hlate := hpeerFrame.append hreply
  have hafter := hslotFrame.append hlate
  have hfrozen : a.reg .MS_FROZEN_INGEST 0 = s.reg .MS_FROZEN_INGEST 0 :=
    (hdraw.append hopened).reg _ _ (by decide) (by decide)
  refine ⟨(hafter.reg _ _ (by decide) (by decide)).trans hstate, (hafter.reg _ _ (by decide) (by decide)).trans hrole',
    (hafter.reg _ _ (by decide) (by decide)).trans hkind', (hafter.reg _ _ (by decide) (by decide)).trans hid',
    (hafter.reg _ _ (by decide) (by decide)).trans hseq, ?_, ?_, fun q hq j hj => ?_, hsent, hresponse, fun k hk => ?_⟩
  · rw [← hkeyed]
    unfold State.keyOfSession
    rw [hafter.reg _ _ (by decide) (by decide), hafter.reg _ _ (by decide) (by decide)]
  · rw [← hback]
    exact congrArg (leBytes 18) (hreply.reg _ _ (by decide) (by decide))
  · rw [hreply.reg q j ((by decide : ∀ q ∈ sessionRegs, Part.reg q ∉ flds [.responses, .sent, .egress, .waits]) q hq)
      (by decide), hpeerOnly q hq j hj, hslotOnly q hq j hj, honly q hq j hj,
      hdraw.reg q j ((by decide : ∀ q ∈ sessionRegs, Part.reg q ∉ [Part.fld .draws]) q hq) (by decide)]
  · rw [hlate.reg _ _ (by decide) (by decide), hlate.reg _ _ (by decide) (by decide),
      hlate.reg _ _ (by decide) (by decide), hlate.reg _ _ (by decide) (by decide), ← hfrozen]
    exact hslotRegs k hk

theorem State.plvOpen_frame (f mac : Nat) (peer : List Byte) (h : PlvHead) :
    Touches State.plvOpen_foot s (s.plvOpen f mac peer h) := State.plvOpen_touches (fun _ h => h) (.refl _ s)

/-- An OPEN that is refused is answered untagged, with its status. -/
theorem State.plvOpen_refused (h : PlvHead) (htag : s.openTagOk h (leAt h.body 2 2) = true)
    (hcode : s.openStatus (leAt h.body 0 1) (leAt h.body 1 1) (leAt h.body 2 2) ≠ 0) :
    s.plvOpen f mac peer h = s.sendPlv f peer (plvMessage 1 0xFFFF 2 h.seq 0
      (s.openStatus (leAt h.body 0 1) (leAt h.body 1 1) (leAt h.body 2 2)) none []) := by
  unfold State.plvOpen
  dsimp only
  rw [if_neg (by simp [htag]), if_pos hcode]

/-- An OPEN without the tag of its key is counted. -/
theorem State.plvOpen_untagged (h : PlvHead) (htag : s.openTagOk h (leAt h.body 2 2) = false) :
    s.plvOpen f mac peer h = s.bump .PLV_BAD_AUTH 0 := by
  unfold State.plvOpen
  dsimp only
  rw [if_pos (by simp [htag])]

end

/-! ## What is read of the state when an OPEN is received -/

section
variable (s : State) (f : Nat) (mac : BitVec 48)

theorem State.received_freeSession : (s.received f mac).freeSession = s.freeSession := rfl

theorem State.received_freeSlot : (s.received f mac).freeSlot = s.freeSlot := rfl

theorem State.received_openTagOk (h : PlvHead) (id : Nat) : (s.received f mac).openTagOk h id = s.openTagOk h id := rfl

theorem State.received_openStatus (role kind id : Nat) :
    (s.received f mac).openStatus role kind id = s.openStatus role kind id := rfl

theorem State.received_openKey (h : PlvHead) (id n nonce : Nat) :
    (s.received f mac).openKey h id n nonce = s.openKey h id n nonce := rfl

theorem State.received_openAnswer (h : PlvHead) (key slot : Option Nat) (n nonce : Nat) :
    (s.received f mac).openAnswer h key slot n nonce = s.openAnswer h key slot n nonce := rfl

end

/-- What an OPEN does (R389, R390, R393). -/
def OpenDone (s t : State) (f : Nat) (mac : BitVec 48) (peer : List Byte) (h : PlvHead) : Prop :=
  let role := leAt h.body 0 1
  let kind := leAt h.body 1 1
  let id := leAt h.body 2 2
  let code := s.openStatus role kind id
  if s.reg .iPHASE 0 = 3 then t = (s.heard f mac).send []
  else if s.openTagOk h id = false then t = ((s.heard f mac).send []).bump .PLV_BAD_AUTH 0
  else if code ≠ 0 then
    t.sent = [.plovan f peer (plvMessage 1 0xFFFF 2 h.seq 0 code none [])] ∧
    Touches (flds [.sent, .egress, .waits, .macs]) s t
  else ∃ n nonce, s.freeSession = some n ∧ nonce < 2 ^ 64 ∧
    let key := (s.keyOf id).map (fun k => sessionKey k.2 (leAt h.body 4 8) nonce n)
    let slot := if kind = 1 then s.freeSlot else none
    let m := plvMessage 1 n 2 h.seq 0 0 key
      (leBytes 8 nonce ++ leBytes 2 (slot.getD 0xFFFF) ++ leBytes 2 0 ++ leBytes 4 (s.reg .PLV_TIMEOUT 0))
    t.reg .SS_STATE n = 1 ∧ t.reg .SS_ROLE n = role ∧ t.reg .SS_KIND n = kind ∧ t.reg .SS_KEY_ID n = id ∧
    t.reg .iSS_SEQ n = 0 ∧ t.keyOfSession n = key ∧ t.peerOf n = peer ∧ OnlyAt s t sessionRegs n ∧
    .plovan f peer m ∈ t.sent ∧ (n, m) ∈ t.responses ∧
    (∀ k, slot = some k → t.reg .SS_SLOT n = k ∧ t.reg .STR_SESSION k = n ∧ t.reg .STR_PACKETS k = 0 ∧
      t.reg .STR_STATE k = if bit (s.reg .MS_FROZEN_INGEST 0) k then 2 else 1)

/-- PLOVAN_OPEN (R389, R390, R393). -/
theorem plovanOpen_completes (port : Fin 2) (sub : Fin 4) (mac : BitVec 48) (src : BitVec 128)
    (srcPort : BitVec 16) (p : List Byte) (s : State) :
    ∃ t, exec (.plovanOpen port sub mac src srcPort p) s = .next t ∧ Touches Changes.plovanOpen s t ∧
      PlvDatagram s t (plvFrom port sub) mac 1 p (fun h _ =>
        OpenDone s t (plvFrom port sub) mac (plvPeer src srcPort) h) := by
  have hF : ∀ q ∈ plvFrame, q ∈ Changes.plovanOpen := fun _ h => List.mem_append_left _ (List.mem_append_left _ h)
  refine ⟨_, rfl, s.plvCommand_datagram mac (fun _ hT => hT.mono hF) (P := fun t h _ =>
    OpenDone s t (plvFrom port sub) mac (plvPeer src srcPort) h) fun h xs htype hitems => ?_⟩
  have htaken : (s.received (plvFrom port sub) mac).plvTaken (plvFrom port sub) mac.toNat (plvPeer src srcPort) h xs p =
      if s.reg .iPHASE 0 = 3 then s.received (plvFrom port sub) mac
      else (s.received (plvFrom port sub) mac).plvOpen (plvFrom port sub) mac.toNat (plvPeer src srcPort) h :=
    if_pos htype
  rw [htaken]
  unfold OpenDone
  dsimp only
  have hreceived := s.received_frame (plvFrom port sub) mac
  by_cases hrestart : s.reg .iPHASE 0 = 3
  · rw [if_pos hrestart, if_pos hrestart]
    exact ⟨hreceived.mono (by decide), rfl⟩
  rw [if_neg hrestart, if_neg hrestart]
  refine ⟨(hreceived.append (State.plvOpen_frame _ _ _ _ h)).mono (by decide), ?_⟩
  by_cases htag : s.openTagOk h (leAt h.body 2 2) = false
  · rw [if_pos htag]
    exact State.plvOpen_untagged (s.received (plvFrom port sub) mac) _ _ _ h htag
  rw [if_neg htag]
  have htagged : (s.received (plvFrom port sub) mac).openTagOk h (leAt h.body 2 2) = true := by
    rw [State.received_openTagOk]
    simpa using htag
  by_cases hcode : s.openStatus (leAt h.body 0 1) (leAt h.body 1 1) (leAt h.body 2 2) ≠ 0
  · rw [if_pos hcode, State.plvOpen_refused _ _ _ _ h htagged (by rwa [State.received_openStatus]),
      State.received_openStatus]
    generalize plvMessage 1 0xFFFF 2 h.seq 0 _ none [] = m
    exact ⟨State.sendPlv_sent .., (hreceived.append (State.sendPlv_frame ..)).mono (by decide)⟩
  rw [if_neg hcode]
  rw [not_not] at hcode
  obtain ⟨hrole, hkind, ⟨n, hn, hlt⟩, hslot⟩ := s.openStatus_accepts hcode
  have hsession := (s.received_freeSession (plvFrom port sub) mac).trans hn
  have hstatus : (s.received (plvFrom port sub) mac).openStatus (leAt h.body 0 1) (leAt h.body 1 1)
      (leAt h.body 2 2) = 0 := (s.received_openStatus ..).trans hcode
  have haccepted := State.plvOpen_accepted (s.received (plvFrom port sub) mac) (plvFrom port sub) mac.toNat
    (plvPeer src srcPort) h hsession htagged hstatus
  rw [haccepted]
  have hdone := State.openAccepted_session (s.received (plvFrom port sub) mac) (plvFrom port sub) mac.toNat _ hlt
    (plvPeer_length src srcPort) hrole hkind hslot
  dsimp only at hdone
  rw [State.received_openKey, State.received_freeSlot, State.received_openAnswer] at hdone
  generalize (s.received (plvFrom port sub) mac).openAccepted _ _ _ _ n = t at hdone ⊢
  generalize (s.received (plvFrom port sub) mac).draw.1 = x at hdone
  exact ⟨n, x % 2 ^ 64, hn, Nat.mod_lt _ (by decide), hdone⟩

/-- Settles O54: what opens and closes a session and changes the key table. -/
theorem sessionsAndKeys : Obligations.SessionsAndKeys :=
  ⟨sessionTimeout_completes, ssClose_completes, plvKeySet_completes, plovanOpen_completes, plovanClose_completes,
    plovanKeepalive_completes⟩

end Sys2Proof.Machine
end

section
/-! READ, DESCRIBE, SUBSCRIBE and UNSUBSCRIBE (R384, R387, R402). -/
namespace Sys2Proof.Machine

/-! ## Items in message order (R387) -/

section
variable (s : State)

/-- One item after those before it: its response follows theirs. -/
def plvItemNext (n type : Nat) (a : List Byte × State) (x : PlvItem) : List Byte × State :=
  (a.1 ++ (a.2.plvItem n type x).1, (a.2.plvItem n type x).2)

theorem State.plvItems_eq (n type : Nat) (xs : List PlvItem) :
    s.plvItems n type xs = xs.foldl (plvItemNext n type) ([], s) := rfl

/-- What every item keeps, the items of a message keep. -/
theorem State.plvItems_keeps {n type : Nat} {P : State → Prop} (hP : ∀ t x, P t → P (t.plvItem n type x).2) (h : P s)
    (xs : List PlvItem) : P (s.plvItems n type xs).2 := by
  have hfold (a : List Byte × State) (ha : P a.2) : P (xs.foldl (plvItemNext n type) a).2 := by
    induction xs generalizing a with
    | nil => exact ha
    | cons x xs ih => exact ih _ (hP a.2 x ha)
  rw [State.plvItems_eq]
  exact hfold ([], s) h

theorem State.plvItems_one (n type : Nat) (x : PlvItem) :
    s.plvItems n type [x] = ((s.plvItem n type x).1, (s.plvItem n type x).2) := by
  rw [State.plvItems_eq, List.foldl_cons, List.foldl_nil, plvItemNext, List.nil_append]

/-! ## READ -/

/-- What the items of a READ may change (R387). -/
def readParts : List Part := regs [.iCAP_FULL] ++ flds [.status, .draws, .caps, .queues]

theorem State.readReg_session (n : Fin 1024) (r : Reg) (i : Nat) (staged : Bool) :
    Touches readParts s (s.readReg (.session n) r i staged).2 := by
  unfold State.readReg
  split
  · exact .refl _ s
  split
  · exact State.setStatus_touches (by decide) (.refl _ s)
  have hvalue : Touches readParts s (s.valueBytes (.session n) r i staged).2 :=
    State.valueBytes_touches (by decide) (.refl _ s)
  generalize s.valueBytes (.session n) r i staged = x at hvalue
  obtain ⟨b, t⟩ := x
  exact State.setStatus_touches (by decide) (State.afterRead_touches (by decide) hvalue)

theorem State.readId_session (n : Fin 1024) (index sub : Nat) (staged : Bool) :
    Touches readParts s (s.readId (.session n) index sub staged).2 := by
  unfold State.readId
  dsimp only
  split
  · exact .refl _ s
  split
  · exact State.setStatus_touches (by decide) (.refl _ s)
  split
  · exact State.setStatus_touches (by decide) (.refl _ s)
  · exact s.readReg_session n _ _ staged

theorem State.readItem_session (n : Fin 1024) (x : PlvItem) : Touches readParts s (s.readItem (.session n) x).2 := by
  have hread := s.readId_session n (bits x.id 23 8) (bits x.id 7 0) (bit x.flags 0)
  unfold State.readItem
  exact .iteSnd (.refl _ s) (.iteSnd (.refl _ s) hread)

theorem State.plvItem_read (n : Nat) (x : PlvItem) : Touches readParts s (s.plvItem n 4 x).2 := by
  unfold State.plvItem
  dsimp only
  rw [if_pos rfl]
  exact s.readItem_session _ x

/-! ## DESCRIBE -/

theorem State.plvItems_describe (n : Nat) (xs : List PlvItem) : s.plvItems n 6 xs = (xs.flatMap s.describeItem, s) := by
  have hone (x : PlvItem) (t : State) : t.plvItem n 6 x = (t.describeItem x, t) := by
    unfold State.plvItem
    dsimp only
    rw [if_neg (by decide), if_neg (by decide), if_pos rfl]
  have hfold (b : List Byte) : xs.foldl (plvItemNext n 6) (b, s) = (b ++ xs.flatMap s.describeItem, s) := by
    induction xs generalizing b with
    | nil => rw [List.foldl_nil, List.flatMap_nil, List.append_nil]
    | cons x xs ih =>
      rw [List.foldl_cons, plvItemNext, hone, ih, List.flatMap_cons, List.append_assoc]
  rw [State.plvItems_eq, hfold, List.nil_append]

/-! ## SUBSCRIBE and UNSUBSCRIBE (R402) -/

theorem State.plvItem_subscribe {n type : Nat} (htype : type = 7 ∨ type = 8) (x : PlvItem) :
    s.plvItem n type x = s.subscribeItem n (type == 7) x := by
  unfold State.plvItem
  dsimp only
  rw [if_neg (by omega), if_neg (by omega), if_neg (by omega)]

/-- One item gives its queue the subscribers that R402 says, and answers with its status. -/
theorem State.subscribeItem_subscribed (n : Nat) (on : Bool) (x : PlvItem) :
    let r := subscribed on n x.id (s.subscriptions n) (s.queue x.id).subscribers
    (s.subscribeItem n on x).1 = leBytes 4 r.1 ∧
    ((s.subscribeItem n on x).2 = s ∧ r.2 = (s.queue x.id).subscribers ∨
      (s.subscribeItem n on x).2 = s.setQueue x.id { s.queue x.id with subscribers := r.2 }) := by
  unfold State.subscribeItem subscribed
  dsimp only
  by_cases hq : 2048 ≤ x.id
  · rw [if_pos hq, if_pos hq]
    exact ⟨rfl, .inl ⟨rfl, rfl⟩⟩
  rw [if_neg hq, if_neg hq]
  cases on <;> cases hin : (s.queue x.id).subscribers.contains n
  case false.false =>
    have hout : (s.queue x.id).subscribers.filter (fun k => k != n) = (s.queue x.id).subscribers :=
      List.filter_eq_self.mpr fun k hk => bne_iff_ne.mpr fun hkn => by simp [← hkn, hk] at hin
    simp [hout]
  case false.true => simp
  case true.false =>
    by_cases hfull : 16 ≤ (s.queue x.id).subscribers.length ∨ 64 ≤ s.subscriptions n
    · simp [hfull]
    · simp [hfull]
  case true.true => simp

theorem State.subscribeItem_frame (n : Nat) (on : Bool) (x : PlvItem) :
    Touches (flds [.queues]) s (s.subscribeItem n on x).2 := State.subscribeItem_touches (by decide) (.refl _ s)

/-- The subscribers of the queues after one item. -/
theorem State.subscribeItem_queue (n : Nat) (on : Bool) (x : PlvItem) (k : Nat) :
    (s.subscribeItem n on x).2.queue k = if x.id = k then { s.queue k with subscribers :=
      (subscribed on n x.id (s.subscriptions n) (s.queue x.id).subscribers).2 } else s.queue k := by
  obtain ⟨-, ⟨hsame, hsubs⟩ | hset⟩ := s.subscribeItem_subscribed n on x
  · rw [hsame, hsubs]
    split
    · subst k; rfl
    · rfl
  · rw [hset, State.queue_setQueue]
    split
    · subst k; rfl
    · rfl

/-- From `s` to `t` the entries of every queue stay. -/
def EntriesStay (s t : State) : Prop :=
  ∀ k, (t.queue k).entries = (s.queue k).entries ∧ (t.queue k).unsignalled = (s.queue k).unsignalled

theorem EntriesStay.of_queues {s t : State} (h : t.queues = s.queues) : EntriesStay s t := fun k => by
  unfold State.queue
  rw [h]
  exact ⟨rfl, rfl⟩

theorem EntriesStay.trans {s t u : State} (h : EntriesStay s t) (k : EntriesStay t u) : EntriesStay s u := fun q =>
  ⟨(k q).1.trans (h q).1, (k q).2.trans (h q).2⟩

theorem State.subscribeItem_entries (n : Nat) (on : Bool) (x : PlvItem) : EntriesStay s (s.subscribeItem n on x).2 :=
  fun k => by
    rw [State.subscribeItem_queue]
    split <;> exact ⟨rfl, rfl⟩

end

/-! ## The messages -/

theorem plvFrom_lt (port : Fin 2) (sub : Fin 4) : plvFrom port sub < 256 := by
  unfold plvFrom
  omega

/-- The items of a request, performed in message order: what they answer, and what they leave. -/
def State.itemsDone (s : State) (f : Nat) (mac : BitVec 48) (peer : List Byte) (type : Nat) (h : PlvHead)
    (xs : List PlvItem) : List Byte × State := (s.messageBegun f mac peer h).plvItems h.session type xs

/-- What a request with items comes to: its response is too big, or it is answered with `Q`. -/
def ItemsAnswered (s t : State) (f : Nat) (mac : BitVec 48) (peer : List Byte) (type : Nat) (Q : State → PlvHead →
    List PlvItem → Prop) (h : PlvHead) (xs : List PlvItem) : Prop :=
  if s.tooBig h.session (s.itemsDone f mac peer type h xs).1 = true then PlvTooBig s t f peer h else Q t h xs

/-- A request with items is answered with PLV_TOO_BIG before its items, or with its items performed. -/
theorem State.perform_items (s : State) {f : Nat} (mac : BitVec 48) {peer : List Byte} {type : Nat} {h : PlvHead}
    (hfrom : f < 256) (hpeer : peer.length = 18) (htype : h.type = type) (hitems : 4 ≤ type) (xs : List PlvItem) :
    ((s.received f mac).noted f mac.toNat peer h.session).perform h xs =
      if s.tooBig h.session (s.itemsDone f mac peer type h xs).1 = true then
        (s.messageBegun f mac peer h).finished h f peer
          (plvMessage h.type h.session 2 h.seq 0 Code.plvTooBig (s.keyOfSession h.session) [])
      else (s.itemsDone f mac peer type h xs).2.finished h f peer (plvMessage h.type h.session 2 h.seq xs.length 0
        (s.keyOfSession h.session) (s.itemsDone f mac peer type h xs).1) := by
  subst htype
  have hrun := s.perform_message f mac peer h hfrom hpeer xs
  rw [if_pos hitems] at hrun
  exact hrun

/-- A message whose items leave its session and what was sent, by what its items leave (R387, R391). -/
theorem State.itemsMessage_completes (s : State) (hmessage : s.NoMessage) {type : Nat} (htype : 4 ≤ type)
    (port : Fin 2) (sub : Fin 4) (mac : BitVec 48) (src : BitVec 128) (srcPort : BitVec 16) (p : List Byte)
    {V : List Part} (hV : ∀ q ∈ answerKeeps, q ∉ V) (hitem : ∀ (t : State) n x, Touches V t (t.plvItem n type x).2)
    {G : State → Prop} (hG : ∀ t, Touches plvFrame s t → G t) {Q : State → PlvHead → List PlvItem → Prop}
    (hanswer : ∀ h xs t, Touches (plvFrame ++ V) s t →
      PlvAnswered s t (plvFrom port sub) (plvPeer src srcPort) h xs.length
        (s.itemsDone (plvFrom port sub) mac (plvPeer src srcPort) type h xs).1 →
      Touches finishParts (s.itemsDone (plvFrom port sub) mac (plvPeer src srcPort) type h xs).2 t → G t ∧ Q t h xs) :
    G (s.plvCommand type port sub mac src srcPort p) ∧
    PlvDatagram s (s.plvCommand type port sub mac src srcPort p) (plvFrom port sub) mac type p (fun h xs =>
      PlvRequest s (s.plvCommand type port sub mac src srcPort p) (plvFrom port sub) mac (plvPeer src srcPort) p h
        (ItemsAnswered s (s.plvCommand type port sub mac src srcPort p) (plvFrom port sub) mac (plvPeer src srcPort)
          type Q h xs)) := by
  have hpeer := plvPeer_length src srcPort
  have hfrom := plvFrom_lt port sub
  refine s.plvCommand_datagram mac hG (P := fun t h xs => PlvRequest s t (plvFrom port sub) mac
      (plvPeer src srcPort) p h (ItemsAnswered s t (plvFrom port sub) mac (plvPeer src srcPort) type Q h xs))
    fun h xs hh _ => ?_
  generalize plvFrom port sub = f at *
  generalize plvPeer src srcPort = peer at *
  refine s.plvTaken_request f mac (h := h) (by omega) hG (P := fun t => ItemsAnswered s t f mac peer type Q h xs)
    fun hn hopen _ => ?_
  have hkept : Touches V (s.messageBegun f mac peer h) (s.itemsDone f mac peer type h xs).2 :=
    State.plvItems_keeps _ (fun t x ht => ht.trans (hitem t _ x)) (.refl _ _) xs
  have hrun := hanswer h xs
  rw [s.perform_items mac hfrom hpeer hh htype xs]
  unfold ItemsAnswered
  generalize s.itemsDone f mac peer type h xs = q at hrun hkept
  by_cases hbig : s.tooBig h.session q.1 = true
  · rw [if_pos hbig, if_pos hbig]
    have hdone := s.tooBig_of_items f mac peer h hmessage hn hfrom hpeer (by omega) rfl
    exact ⟨hG _ hdone.2.2.2, hdone⟩
  · rw [if_neg hbig, if_neg hbig]
    obtain ⟨hframe, hdone, hafter⟩ := s.answered_of_items f mac peer h hmessage hopen hn hfrom hpeer (by omega) hkept hV
      xs.length q.1 rfl
    exact hrun _ hframe hdone hafter

/-- PLOVAN_READ (R381, R387). -/
theorem plovanRead_completes (port : Fin 2) (sub : Fin 4) (mac : BitVec 48) (src : BitVec 128)
    (srcPort : BitVec 16) (p : List Byte) (s : State) (hmessage : s.NoMessage) :
    ∃ t, exec (.plovanRead port sub mac src srcPort p) s = .next t ∧ Touches Changes.plovanRead s t ∧
      PlvDatagram s t (plvFrom port sub) mac 4 p (fun h xs => PlvRequest s t (plvFrom port sub) mac (plvPeer src
          srcPort) p h
        (let u := s.messageBegun (plvFrom port sub) mac (plvPeer src srcPort) h
         let q := u.plvItems h.session 4 xs
         if s.tooBig h.session q.1 = true then PlvTooBig s t (plvFrom port sub) (plvPeer src srcPort) h
         else PlvAnswered s t (plvFrom port sub) (plvPeer src srcPort) h xs.length q.1 ∧ t.queues = q.2.queues ∧
           t.caps = q.2.caps)) := by
  have hF : ∀ q ∈ plvFrame ++ readParts, q ∈ Changes.plovanRead := by decide
  refine ⟨_, rfl, s.itemsMessage_completes hmessage (Nat.le_refl 4) port sub mac src srcPort p (V := readParts) (by decide)
    State.plvItem_read (fun t hT => hT.mono fun q hq => hF q (List.mem_append_left _ hq))
    (Q := fun t h xs => PlvAnswered s t (plvFrom port sub) (plvPeer src srcPort) h xs.length ((s.messageBegun
      (plvFrom port sub) mac (plvPeer src srcPort) h).plvItems h.session 4 xs).1 ∧
      t.queues = ((s.messageBegun (plvFrom port sub) mac (plvPeer src srcPort) h).plvItems h.session 4 xs).2.queues ∧
      t.caps = ((s.messageBegun (plvFrom port sub) mac (plvPeer src srcPort) h).plvItems h.session 4 xs).2.caps)
    fun h xs t hT hanswer hafter => ?_⟩
  exact ⟨hT.mono hF, hanswer, hafter.fld .queues (by decide) (by decide), hafter.fld .caps (by decide) (by decide)⟩

/-- PLOVAN_DESCRIBE (R384, R387). -/
theorem plovanDescribe_completes (port : Fin 2) (sub : Fin 4) (mac : BitVec 48) (src : BitVec 128)
    (srcPort : BitVec 16) (p : List Byte) (s : State) (hmessage : s.NoMessage) :
    ∃ t, exec (.plovanDescribe port sub mac src srcPort p) s = .next t ∧ Touches plvFrame s t ∧
      PlvDatagram s t (plvFrom port sub) mac 6 p (fun h xs => PlvRequest s t (plvFrom port sub) mac (plvPeer src
          srcPort) p h
        (let u := s.messageBegun (plvFrom port sub) mac (plvPeer src srcPort) h
         let body := xs.flatMap u.describeItem
         if s.tooBig h.session body = true then PlvTooBig s t (plvFrom port sub) (plvPeer src srcPort) h
         else PlvAnswered s t (plvFrom port sub) (plvPeer src srcPort) h xs.length body)) := by
  have hitem (t : State) (n : Nat) (x : PlvItem) : Touches [] t (t.plvItem n 6 x).2 := by
    have hone := t.plvItems_describe n [x]
    rw [State.plvItems_one] at hone
    rw [(Prod.mk.inj hone).2]
    exact .refl _ t
  have hdone := s.itemsMessage_completes hmessage (type := 6) (by decide) port sub mac src srcPort p (V := [])
    (by simp) hitem (G := Touches plvFrame s) (fun t hT => hT)
    (Q := fun t h xs => PlvAnswered s t (plvFrom port sub) (plvPeer src srcPort) h xs.length ((s.messageBegun
      (plvFrom port sub) mac (plvPeer src srcPort) h).plvItems h.session 6 xs).1)
    fun h xs t hT hanswer hafter => ⟨hT.mono (by simp), hanswer⟩
  simp only [ItemsAnswered, State.itemsDone, State.plvItems_describe] at hdone
  exact ⟨_, rfl, hdone⟩

/-- The answer to one SUBSCRIBE or UNSUBSCRIBE item, and the subscribers after it (R402). -/
theorem State.subscribed_one (u : State) {s t : State} {n type : Nat} (htype : type = 7 ∨ type = 8) {x : PlvItem}
    (hbegun : u.queues = s.queues) (hqueues : t.queues = (u.plvItems n type [x]).2.queues) :
    let r := subscribed (type == 7) n x.id (s.subscriptions n) (s.queue x.id).subscribers
    (u.plvItems n type [x]).1 = leBytes 4 r.1 ∧ (t.queue x.id).subscribers = r.2 ∧
    ∀ k, k ≠ x.id → t.queue k = s.queue k := by
  have hqueue (k : Nat) : s.queue k = u.queue k := congrArg (fun m => Sparse.get _ m k) hbegun.symm
  have hcount : s.subscriptions n = u.subscriptions n := by
    unfold State.subscriptions
    rw [hbegun]
  rw [State.plvItems_one, State.plvItem_subscribe u htype] at hqueues ⊢
  have hafter (k : Nat) : t.queue k = (u.subscribeItem n (type == 7) x).2.queue k :=
    congrArg (fun m => Sparse.get _ m k) hqueues
  dsimp only
  rw [hcount, hqueue, hafter, State.subscribeItem_queue, if_pos rfl]
  refine ⟨(u.subscribeItem_subscribed n _ x).1, rfl, fun k hk => ?_⟩
  rw [hafter, State.subscribeItem_queue, if_neg (Ne.symm hk), hqueue]

/-- PLOVAN_SUBSCRIBE and PLOVAN_UNSUBSCRIBE (R402, R387), by their TYPE. -/
theorem State.subscribeMessage_completes (s : State) (hmessage : s.NoMessage) {type : Nat} (htype : type = 7 ∨ type = 8)
    (port : Fin 2) (sub : Fin 4) (mac : BitVec 48) (src : BitVec 128) (srcPort : BitVec 16) (p : List Byte) :
    let t := s.plvCommand type port sub mac src srcPort p
    (Touches (plvFrame ++ flds [.queues]) s t ∧ EntriesStay s t) ∧
      PlvDatagram s t (plvFrom port sub) mac type p (fun h xs => PlvRequest s t (plvFrom port sub) mac (plvPeer src
          srcPort) p h
        (let u := s.messageBegun (plvFrom port sub) mac (plvPeer src srcPort) h
         let q := u.plvItems h.session type xs
         if s.tooBig h.session q.1 = true then PlvTooBig s t (plvFrom port sub) (plvPeer src srcPort) h
         else PlvAnswered s t (plvFrom port sub) (plvPeer src srcPort) h xs.length q.1 ∧ t.queues = q.2.queues ∧
           ∀ x, xs = [x] →
             let r := subscribed (type == 7) h.session x.id (s.subscriptions h.session) (s.queue x.id).subscribers
             q.1 = leBytes 4 r.1 ∧ (t.queue x.id).subscribers = r.2 ∧ ∀ k, k ≠ x.id → t.queue k = s.queue k)) := by
  have hitem (t : State) (n : Nat) (x : PlvItem) : Touches (flds [.queues]) t (t.plvItem n type x).2 := by
    rw [t.plvItem_subscribe htype]
    exact t.subscribeItem_frame n _ x
  refine s.itemsMessage_completes hmessage (by omega) port sub mac src srcPort p (V := flds [.queues]) (by decide)
    hitem (G := fun t => Touches (plvFrame ++ flds [.queues]) s t ∧ EntriesStay s t)
    (fun t hT => ⟨hT.mono fun q hq => List.mem_append_left _ hq, .of_queues (hT.fld .queues (by decide) (by decide))⟩)
    (Q := fun t h xs => PlvAnswered s t (plvFrom port sub) (plvPeer src srcPort) h xs.length ((s.messageBegun
      (plvFrom port sub) mac (plvPeer src srcPort) h).plvItems h.session type xs).1 ∧
      t.queues = ((s.messageBegun (plvFrom port sub) mac (plvPeer src srcPort) h).plvItems h.session type xs).2.queues ∧
      ∀ x, xs = [x] →
        let r := subscribed (type == 7) h.session x.id (s.subscriptions h.session) (s.queue x.id).subscribers
        ((s.messageBegun (plvFrom port sub) mac (plvPeer src srcPort) h).plvItems h.session type xs).1 = leBytes 4 r.1 ∧
        (t.queue x.id).subscribers = r.2 ∧ ∀ k, k ≠ x.id → t.queue k = s.queue k)
    fun h xs t hT hanswer hafter => ?_
  have hqueues : t.queues = (s.itemsDone (plvFrom port sub) mac (plvPeer src srcPort) type h xs).2.queues :=
    hafter.fld .queues (by decide) (by decide)
  have hbegun : (s.messageBegun (plvFrom port sub) mac (plvPeer src srcPort) h).queues = s.queues :=
    (s.messageBegun_frame (plvFrom port sub) mac (plvPeer src srcPort) h).fld .queues (by decide) (by decide)
  unfold State.itemsDone at hqueues hanswer
  generalize s.messageBegun (plvFrom port sub) mac (plvPeer src srcPort) h = u at *
  have hentries : EntriesStay u (u.plvItems h.session type xs).2 :=
    State.plvItems_keeps (P := EntriesStay u) u (fun v x hv => hv.trans (by
      rw [v.plvItem_subscribe htype]
      exact v.subscribeItem_entries h.session _ x)) (.of_queues rfl) xs
  refine ⟨⟨hT, (EntriesStay.of_queues hbegun).trans (hentries.trans (.of_queues hqueues))⟩, hanswer, hqueues, ?_⟩
  rintro x rfl
  exact u.subscribed_one htype hbegun hqueues

end Sys2Proof.Machine
end

section
/-! What a Plovan message being performed rests on while its items are performed (R381, R391, R392, R496): the registers
of the message itself and of its session, which no other function writes but a warm restart, a DEVICE reset and the
close of a session. -/
namespace Sys2Proof.Machine

/-- A key put into the table, which is owed to the Keeper (R393). -/
theorem State.keyPut_frame (s : State) (id ceiling key : Nat) :
    Touches [.keys, .fld .keepPending] s (s.keyPut id ceiling key) :=
  State.noteKeep_touches (by decide) (Touches.keysToo (by decide)
    (fun f => by cases f <;> exact .inr rfl) (.refl _ s) rfl rfl rfl rfl rfl rfl)

/-! ## Guarded statements -/

/-- The registers of the message being performed, and those of its session that its response rests on. -/
def guardRegs : List Reg := [.iPLV_CUR, .iPLV_CLOSE, .iPLV_RESET, .iSS_FROM, .SS_PEER]

/-- Parts without the registers of the message being performed. -/
def guardFree (V : List Part) : Bool := !V.contains .anyReg && guardRegs.all fun r => !V.contains (.reg r)

/-- A statement about the message being performed: what touches none of its registers keeps it, and so do a warm restart,
a DEVICE reset and the close of a session. -/
structure Guarded (P : State → Prop) : Prop where
  frame : ∀ {V s t}, guardFree V = true → Touches V s t → P s → P t
  restart : ∀ {s} cause, P s → P (s.warmRestart cause)
  close : ∀ {s n} cause, n < 1024 → P s → P (s.closeSession n cause)
  reset : ∀ {s}, P s → P s.svReset

theorem guardFree_reg {V : List Part} (h : guardFree V = true) {s t : State} (hT : Touches V s t) {r : Reg}
    (hr : r ∈ guardRegs) (i : Nat) : t.reg r i = s.reg r i := by
  rw [guardFree, Bool.and_eq_true, List.all_eq_true] at h
  exact hT.reg r i (by simpa using h.2 r hr) (by simpa using h.1)

/-- Where a command goes on, `P` holds of the next state. -/
def OutGuarded (P : State → Prop) (o : Out) : Prop := ∃ t, o = .next t ∧ P t

/-- Likewise for a command, where there is one. -/
def OptGuarded (P : State → Prop) (x : Option Out) : Prop := ∀ o, x = some o → OutGuarded P o

section
variable {P : State → Prop}

theorem OutGuarded.next {t : State} (h : P t) : OutGuarded P (.next t) := ⟨t, rfl, h⟩

theorem OutGuarded.ite {c : Prop} [Decidable c] {o p : Out} (ho : OutGuarded P o) (hp : OutGuarded P p) :
    OutGuarded P (if c then o else p) := by split <;> assumption

theorem OutGuarded.oneOr {v : Nat} {a b : Out} (ha : OutGuarded P a) (hb : OutGuarded P b) :
    OutGuarded P (oneOr v a b) := .ite ha hb

theorem OptGuarded.none : OptGuarded P .none := fun _ e => nomatch e

theorem OptGuarded.some {o : Out} (h : OutGuarded P o) : OptGuarded P (.some o) := fun _ e => Option.some.inj e ▸ h

theorem OptGuarded.or {x y : Option Out} (hx : OptGuarded P x) (hy : OptGuarded P y) : OptGuarded P (x.or y) :=
  fun o e => (Option.or_eq_some_iff.mp e).elim (hx o) fun h => hy o h.2

theorem OutGuarded.stateOf {o : Out} (h : OutGuarded P o) (s : State) : P (stateOf o s) := by
  obtain ⟨t, rfl, ht⟩ := h
  exact ht

theorem OutTouches.guarded {V : List Part} {s : State} {o : Out} (h : OutTouches V s o) (hP : Guarded P) (hs : P s)
    (hV : guardFree V = true) : OutGuarded P o :=
  let ⟨t, e, ht⟩ := h
  ⟨t, e, hP.frame hV ht hs⟩

theorem Touches.guarded {V : List Part} {s t : State} (h : Touches V s t) (hP : Guarded P) (hs : P s)
    (hV : guardFree V = true) : P t := hP.frame hV h hs

/-! ## The accesses -/

namespace Guarded
variable (hP : Guarded P)
include hP

theorem setReg {s : State} (hs : P s) {r : Reg} (hr : r ∉ guardRegs) (i v : Nat) : P (s.setReg r i v) :=
  hP.frame (V := [.reg r]) (by
    refine Bool.and_eq_true_iff.mpr ⟨by simp, List.all_eq_true.mpr fun q hq => ?_⟩
    have hne : q ≠ r := fun h => hr (h ▸ hq)
    simpa using hne) (State.setReg_touches (by simp) (.refl _ s)) hs

theorem putReg {s : State} (hs : P s) {r : Reg} (hr : r ∉ guardRegs) (i v : Nat) : P (s.putReg r i v) :=
  (State.noteKeep_touches (W := [.fld .keepPending]) (by simp) (.refl _ _)).guarded hP (hP.setReg hs hr i v)
    (by decide)

omit hP in
theorem cond {s : State} (hs : P s) (c : Bool) {f : State → State} (hf : P s → P (f s)) : P (s.cond c f) := by
  unfold State.cond
  split
  · exact hf hs
  · exact hs

theorem send {s : State} (hs : P s) (x : List OutMsg) : P (s.send x) :=
  hP.frame (V := [.fld .sent]) (by decide) (State.send_touches (by decide) (.refl _ s)) hs

theorem status {s : State} (hs : P s) (code : Nat) : P (s.setStatus code) :=
  (State.setStatus_touches (W := [.fld .status]) (by simp) (.refl _ s)).guarded hP hs (by decide)

theorem writeAccess {s : State} (hs : P s) {acc : Accessor} {r : Reg} {i len v : Nat} {g : Bool} {eff : State → State}
    (heff : ∀ t, writeFault s acc r i len v g = none → P t → P (eff t)) : P (writeAccess s acc r i len v g eff) := by
  have hnote (t : State) (ht : P t) : P (t.noteAccess acc (r.id i)) :=
    (State.noteAccess_touches (fun _ h => h) (.refl _ t)).guarded hP ht (by decide)
  unfold Machine.writeAccess
  split
  · refine hnote _ ?_
    split
    · exact hP.status hs _
    · exact heff _ ‹_› (hP.status hs 0)
  · exact hs

/-- A write of one parameter keeps what its effect keeps. -/
theorem writeParam {s : State} (hs : P s) {acc : Accessor} {r : Reg} {i v : Nat} {eff : State → State}
    (heff : ∀ t, P t → P (eff t)) : OutGuarded P (.next (writeParam s acc r i v eff)) :=
  .next (hP.writeAccess hs fun t _ => heff t)

/-! ## Commands that close sessions or restart -/

theorem keySet {s : State} (hs : P s) (v : Nat) : P (s.keySet v) := by
  rw [State.keySet_eq]
  split
  · exact hP.status hs _
  · refine forN_inv_lt (hP.frame (by decide) (s.keyPut_frame ..) hs) fun t n hn ht => ?_
    unfold State.rekeyed
    split
    · exact hP.close 2 hn ht
    · exact ht

theorem plvKeySet {s : State} (hs : P s) (acc : Accessor) (v : BitVec 288) : OutGuarded P (execPlvKeySet acc v s) := by
  unfold execPlvKeySet
  exact hP.writeParam hs fun t ht => hP.keySet (hP.send ht []) _

theorem ssClose {s : State} (hs : P s) (acc : Accessor) (n : Fin 1024) : OutGuarded P (execSsClose acc n s) := by
  unfold execSsClose
  exact hP.writeParam hs fun t ht => hP.close 3 n.isLt (hP.send ht [])

theorem sessionTimeout {s : State} (hs : P s) (n : Fin 1024) : OutGuarded P (execSessionTimeout n s) := by
  unfold execSessionTimeout
  exact .ite (.next (hP.close 1 n.isLt (hP.send hs []))) (.next hs)

theorem fwSwitch {s : State} (hs : P s) (v : Nat) : P (s.fwSwitch v) := by
  have hselector (x : Nat) : P (s.setSelector x) :=
    (State.setSelector_touches (fun _ h => h) (.refl _ s)).guarded hP hs (by decide)
  unfold State.fwSwitch
  dsimp only
  split
  · split
    · exact hP.restart _ (hselector _)
    · exact hP.status hs _
  split
  · split
    · refine hP.setReg ?_ (by decide) 0 0
      exact (State.raise_touches (fun _ h => h) (.refl _ _)).guarded hP (hselector _) (by decide)
    · exact hP.status hs _
  split
  · exact hP.status hs _
  · exact hP.restart _ hs

theorem fwSwitchTrial {s : State} (hs : P s) (acc : Accessor) : OutGuarded P (execFwSwitchTrial acc s) := by
  unfold execFwSwitchTrial
  exact hP.writeParam (hP.send hs []) fun t ht => hP.fwSwitch ht 1

theorem fwSwitchCommit {s : State} (hs : P s) (acc : Accessor) : OutGuarded P (execFwSwitchCommit acc s) := by
  unfold execFwSwitchCommit
  exact hP.writeParam hs fun t ht => hP.fwSwitch ht 2

theorem fwSwitchRestart {s : State} (hs : P s) (acc : Accessor) : OutGuarded P (execFwSwitchRestart acc s) := by
  unfold execFwSwitchRestart
  exact hP.writeParam (hP.send hs []) fun t ht => hP.fwSwitch ht 3

end Guarded
end
end Sys2Proof.Machine
end

section
/-! The effect of a write of any parameter (R380 to R382), as the message being performed sees it: the five tables of
the parameters with an effect of their own, and the commit classes of the others. -/
namespace Sys2Proof.Machine

namespace Guarded
section
variable {P : State → Prop} (hP : Guarded P)
include hP

theorem forgetMasters {s : State} (hs : P s) {r : Reg} (hr : r ∉ guardRegs) (i v : Nat) (c : Bool) :
    P ((s.putReg r i v).cond c State.forgetMasters) :=
  cond (hP.putReg hs hr i v) c fun h =>
    (State.forgetMasters_touches (fun _ h => h) (.refl _ _)).guarded hP h (by decide)

theorem slotParam {s : State} (hs : P s) {r : Reg} (hr : r ∉ guardRegs) (i v : Nat) : P (s.slotParam r i v) := by
  unfold State.slotParam
  split
  · exact hP.status hs _
  · exact hP.setReg hs hr i v

/-- Writes of the scene, the streams, the commit and the array. -/
theorem sceneWrite {s : State} (hs : P s) (acc : Accessor) (r : Reg) (i v : Nat) :
    OptGuarded P (sceneWrite acc r i v s) := by
  unfold Machine.sceneWrite
  split
  iterate 8
    exact .some ((execBufParamWrite_touches (fun _ h => h) (.refl _ s)).guarded hP hs (by decide))
  · exact .some (.oneOr ((execBufCtrlOpen_touches (fun _ h => h) (.refl _ s)).guarded hP hs (by decide)) (.ite
      ((execBufCtrlSeal_touches (fun _ h => h) (.refl _ s)).guarded hP hs (by decide)) ((execBufCtrlDiscard_touches
      (fun _ h => h) (.refl _ s)).guarded hP hs (by decide))))
  iterate 3
    exact .some (.next ((State.reportGroups_touches (fun _ h => h) (.refl _ _)).guarded hP (hP.putReg hs (by decide)
        i v) (by decide)))
  · exact .some ((execStrRingTailWrite_touches (fun _ h => h) (.refl _ s)).guarded hP hs (by decide))
  · exact .some (.oneOr ((execCgCtrlOpen_touches (fun _ h => h) (.refl _ s)).guarded hP hs (by decide)) (.ite
      ((execCgCtrlGo_touches (fun _ h => h) (.refl _ s)).guarded hP hs (by decide)) ((execCgCtrlAbort_touches (fun _
      h => h) (.refl _ s)).guarded hP hs (by decide))))
  iterate 5
    exact .some ((execCgParamWrite_touches (fun _ h => h) (.refl _ s)).guarded hP hs (by decide))
  · exact .some (.oneOr ((execPbCtrlArm_touches (fun _ h => h) (.refl _ s)).guarded hP hs (by decide))
      ((execPbCtrlStop_touches (fun _ h => h) (.refl _ s)).guarded hP hs (by decide)))
  iterate 4
    exact .some ((execCueParamWrite_touches (fun _ h => h) (.refl _ s)).guarded hP hs (by decide))
  · exact .some (.oneOr ((execCueLoadValidate_touches (fun _ h => h) (.refl _ s)).guarded hP hs (by decide))
      ((execCueLoadEmpty_touches (fun _ h => h) (.refl _ s)).guarded hP hs (by decide)))
  iterate 5
    exact .some ((execCalSlotWrite_touches (fun _ h => h) (.refl _ s)).guarded hP hs (by decide))
  · exact .some (.oneOr ((execCalLoadValidate_touches (fun _ h => h) (.refl _ s)).guarded hP hs (by decide))
      ((execCalLoadEmpty_touches (fun _ h => h) (.refl _ s)).guarded hP hs (by decide)))
  iterate 2
    exact .some ((execLutWrite_touches (fun _ h => h) (.refl _ s)).guarded hP hs (by decide))
  iterate 5
    exact .some ((execArrayParamWrite_touches (fun _ h => h) (.refl _ s)).guarded hP hs (by decide))
  · exact .some ((execClFaultClear_touches (fun _ h => h) (.refl _ s)).guarded hP hs (by decide))
  · exact .some ((execHzProgTarget_touches (fun _ h => h) (.refl _ s)).guarded hP hs (by decide))
  iterate 2
    exact .some (.next (hP.slotParam hs (by decide) ..))
  · exact .some (.oneOr ((execPgLoadVerify_touches (fun _ h => h) (.refl _ s)).guarded hP hs (by decide))
      ((execPgLoadEmpty_touches (fun _ h => h) (.refl _ s)).guarded hP hs (by decide)))
  · exact .none

/-- Writes of the codecs, scan-out, the taps and the Welt link. -/
theorem scanWrite {s : State} (hs : P s) (acc : Accessor) (r : Reg) (i v : Nat) :
    OptGuarded P (scanWrite acc r i v s) := by
  unfold Machine.scanWrite
  split
  iterate 2
    exact .some ((execCodecAssignWrite_touches (fun _ h => h) (.refl _ s)).guarded hP hs (by decide))
  · exact .some (.oneOr ((execGcEnableResume_touches (fun _ h => h) (.refl _ s)).guarded hP hs (by decide))
      ((execGcEnableDisable_touches (fun _ h => List.mem_cons_of_mem (.fld .draws) h) (State.draw_touches (by simp)
      (.refl _ s))).guarded hP hs (by decide)))
  · exact .some (.next ((State.drainCodec_touches (fun _ h => h) (.refl _ _)).guarded hP hs (by decide)))
  iterate 2
    exact .some ((execGcRingWrite_touches (fun _ h => h) (.refl _ s)).guarded hP hs (by decide))
  · exact .some ((execGcTailWrite_touches (fun _ h => h) (.refl _ s)).guarded hP hs (by decide))
  iterate 2
    exact .some (.next ((State.refreshNext_touches (fun _ h => h) (.refl _ _)).guarded hP (hP.putReg hs (by decide)
        i v) (by decide)))
  · exact .some ((execLastRateWrite_touches (fun _ h => h) (.refl _ s)).guarded hP hs (by decide))
  · exact .some ((execLastResync_touches (fun _ h => h) (.refl _ s)).guarded hP hs (by decide))
  · exact .some (.oneOr ((execSoEnableResume_touches (fun _ h => h) (.refl _ s)).guarded hP hs (by decide))
      ((execSoEnableDisable_touches (fun _ h => h) (.refl _ s)).guarded hP hs (by decide)))
  · exact .some (.next ((State.drainScan_touches (fun _ h => h) (.refl _ _)).guarded hP hs (by decide)))
  iterate 3
    exact .some ((execTapParamWrite_touches (fun _ h => h) (.refl _ s)).guarded hP hs (by decide))
  · exact .some ((execTapTailWrite_touches (fun _ h => h) (.refl _ s)).guarded hP hs (by decide))
  · exact .some ((execWlMapReset_touches (fun _ h => h) (.refl _ s)).guarded hP hs (by decide))
  · exact .some ((execWlCalFetch_touches (fun _ h => h) (.refl _ s)).guarded hP hs (by decide))
  · exact .some (.oneOr ((execWlCtrlRetrain_touches (fun _ h => h) (.refl _ s)).guarded hP hs (by decide)) (.ite
      ((execWlCtrlSpare_touches (fun _ h => h) (.refl _ s)).guarded hP hs (by decide)) ((execWlCtrlRetry_touches
      (fun _ h => h) (.refl _ s)).guarded hP hs (by decide))))
  · exact .some ((execWlPrbsMode_touches (fun _ h => h) (.refl _ s)).guarded hP hs (by decide))
  · exact .some ((execWrPrbsMode_touches (fun _ h => h) (.refl _ s)).guarded hP hs (by decide))
  · exact .none

/-- Writes of the central store, the laces and the Skivers. -/
theorem storeWrite {s : State} (hs : P s) (acc : Accessor) (r : Reg) (i v : Nat) :
    OptGuarded P (storeWrite acc r i v s) := by
  unfold Machine.storeWrite
  split
  · exact .some (.oneOr (.next ((State.retrainEnable_touches (fun _ h => h) (.refl _ _)).guarded hP hs (by decide)))
      ((execMsRetrainEnDisable_touches (fun _ h => h) (.refl _ s)).guarded hP hs (by decide)))
  · exact .some (.next ((State.drainRetrain_touches (fun _ h => h) (.refl _ _)).guarded hP hs (by decide)))
  · exact .some ((execMsRelease_touches (fun _ h => h) (.refl _ s)).guarded hP hs (by decide))
  iterate 7
    exact .some (.next (hP.setReg hs (by decide) _ _))
  · exact .some ((execWinApply_touches (fun _ h => h) (.refl _ s)).guarded hP hs (by decide))
  · exact .some ((execChRetrainNow_touches (fun _ h => h) (.refl _ s)).guarded hP hs (by decide))
  · exact .some (.oneOr ((execScEnableResume_touches (fun _ h => h) (.refl _ s)).guarded hP hs (by decide))
      ((execScEnableDisable_touches (fun _ h => h) (.refl _ s)).guarded hP hs (by decide)))
  · exact .some (.next ((State.drainScrub_touches (fun _ h => h) (.refl _ _)).guarded hP hs (by decide)))
  · exact .some ((execPnClear_touches (fun _ h => h) (.refl _ s)).guarded hP hs (by decide))
  · exact .some (.oneOr ((execLcEnableResume_touches (fun _ h => h) (.refl _ s)).guarded hP hs (by decide))
      ((execLcEnableDisable_touches (fun _ h => h) (.refl _ s)).guarded hP hs (by decide)))
  · exact .some (.next ((State.drainLace_touches (fun _ h => h) (.refl _ _)).guarded hP hs (by decide)))
  · exact .some ((execLcShDescWrite_touches (fun _ h => h) (.refl _ s)).guarded hP hs (by decide))
  · exact .some (.oneOr ((execLcArm_touches (fun _ h => h) (.refl _ s)).guarded hP hs (by decide))
      ((execLcDisarm_touches (fun _ h => h) (.refl _ s)).guarded hP hs (by decide)))
  · exact .some (.oneOr ((execLcCtrlResume_touches (fun _ h => h) (.refl _ s)).guarded hP hs (by decide))
      ((execLcCtrlAbandon_touches (fun _ h => h) (.refl _ s)).guarded hP hs (by decide)))
  · exact .some ((execLsBusClear_touches (fun _ h => h) (.refl _ s)).guarded hP hs (by decide))
  · exact .some (.oneOr ((execSkEnableResume_touches (fun _ h => h) (.refl _ s)).guarded hP hs (by decide))
      ((execSkEnableDisable_touches (fun _ h => List.mem_cons_of_mem (.fld .draws) h) (State.draw_touches (by simp)
      (.refl _ s))).guarded hP hs (by decide)))
  · exact .some (.next ((State.drainSkiver_touches (fun _ h => h) (.refl _ _)).guarded hP hs (by decide)))
  iterate 2
    exact .some ((execSkRingWrite_touches (fun _ h => h) (.refl _ s)).guarded hP hs (by decide))
  · exact .some ((execSkTailWrite_touches (fun _ h => h) (.refl _ s)).guarded hP hs (by decide))
  · exact .none

/-- Writes of the network, time, the eyelets and the dictionary itself. -/
theorem networkWrite {s : State} (hs : P s) (acc : Accessor) (r : Reg) (i v : Nat) :
    OptGuarded P (networkWrite acc r i v s) := by
  unfold Machine.networkWrite
  split
  iterate 3
    exact .some ((execEthModeWrite_touches (fun _ h => h) (.refl _ s)).guarded hP hs (by decide))
  iterate 3
    exact .some ((execRqParamWrite_touches (fun _ h => h) (.refl _ s)).guarded hP hs (by decide))
  · exact .some (.next ((State.ptpEnable_touches (fun _ h => h) (.refl _ _)).guarded hP hs (by decide)))
  · exact .some (.next ((State.profileWrite_touches (fun _ h => h) (.refl _ _)).guarded hP hs (by decide)))
  · exact .some (.next ((State.reportGroups_touches (fun _ h => h) (.refl _ _)).guarded hP (hP.forgetMasters hs (by decide) ..)
      (by decide)))
  · exact .some (.next (hP.forgetMasters hs (by decide) ..))
  · exact .some (.next ((State.selectMaster_touches (fun _ h => h) (.refl _ _)).guarded hP (hP.putReg hs (by decide)
      i v) (by decide)))
  · exact .some ((execTbSourceWrite_touches (fun _ h => h) (.refl _ s)).guarded hP hs (by decide))
  · exact .some ((execTbSet_touches (fun _ h => h) (.refl _ s)).guarded hP hs (by decide))
  · exact .some ((execTbAdj_touches (fun _ h => h) (.refl _ s)).guarded hP hs (by decide))
  iterate 8
    exact .some ((execEyeParamWrite_touches (fun _ h => h) (.refl _ s)).guarded hP hs (by decide))
  · exact .some (.oneOr ((execEyeCtrlArm_touches (fun _ h => h) (.refl _ s)).guarded hP hs (by decide))
      ((execEyeCtrlDisarm_touches (fun _ h => h) (.refl _ s)).guarded hP hs (by decide)))
  · exact .some (.next ((State.modeQueue_touches (fun _ h => h) (.refl _ _)).guarded hP hs (by decide)))
  · exact .some (hP.plvKeySet hs ..)
  · exact .some (hP.ssClose hs ..)
  iterate 3
    exact .some (.next (hP.setReg hs (by decide) _ _))
  · exact .none

/-- Writes of the clocks, power, the Keeper, the Insole, the seam loops and the firmware. -/
theorem serviceWrite {s : State} (hs : P s) (acc : Accessor) (r : Reg) (i v : Nat) :
    OptGuarded P (serviceWrite acc r i v s) := by
  unfold Machine.serviceWrite
  split
  · exact .some ((execCkMarginWrite_touches (fun _ h => h) (.refl _ s)).guarded hP hs (by decide))
  · exact .some ((spreadWrite_touches (fun _ h => h) (.refl _ s)).guarded hP hs (by decide))
  · exact .some ((execCkRelock_touches (fun _ h => h) (.refl _ s)).guarded hP hs (by decide))
  · exact .some (.oneOr ((execCkSyncArm_touches (fun _ h => h) (.refl _ s)).guarded hP hs (by decide)) (.next hs))
  · exact .some ((execPwCeilingWrite_touches (fun _ h => h) (.refl _ s)).guarded hP hs (by decide))
  · exact .some ((execThStageMaxWrite_touches (fun _ h => h) (.refl _ s)).guarded hP hs (by decide))
  iterate 2
    exact .some ((execThShutWrite_touches (fun _ h => h) (.refl _ s)).guarded hP hs (by decide))
  · exact .some ((execKpProtectWrite_touches (fun _ h => h) (.refl _ s)).guarded hP hs (by decide))
  · exact .some (.oneOr ((execInsEnableResume_touches (fun _ h => h) (.refl _ s)).guarded hP hs (by decide))
      ((execInsEnableDisable_touches (fun _ h => h) (.refl _ s)).guarded hP hs (by decide)))
  · exact .some (.next ((State.insoleDrain_touches (fun _ h => h) (.refl _ _)).guarded hP hs (by decide)))
  · exact .some ((execInsoleImageWrite_touches (fun _ h => h) (.refl _ s)).guarded hP hs (by decide))
  · exact .some ((execSmEnableWrite_touches (fun _ h => h) (.refl _ s)).guarded hP hs (by decide))
  · exact .some ((execSmPolicyWrite_touches (fun _ h => h) (.refl _ s)).guarded hP hs (by decide))
  · exact .some ((execSmClear_touches (fun _ h => h) (.refl _ s)).guarded hP hs (by decide))
  · exact .some ((execFwProgram_touches (fun _ h => h) (.refl _ s)).guarded hP hs (by decide))
  · exact .some (.oneOr (hP.fwSwitchTrial hs ..) (.ite (hP.fwSwitchCommit hs ..) (hP.fwSwitchRestart hs ..)))
  · exact .some (.next (hP.reset hs))
  · exact .none
end
end Guarded
end Sys2Proof.Machine
end

section
/-! A write by ID and an item of a WRITE, as the message being performed sees them (R378, R380, R381). -/
namespace Sys2Proof.Machine

/-- The registers of the message being performed are read-only, so no access passes the checks of R380 for one. -/
theorem notGuardReg_of_passes {s : State} {acc : Accessor} {r : Reg} {i len v : Nat} {g : Bool}
    (h : writeFault s acc r i len v g = none) : r ∉ guardRegs := by
  intro hr
  have hro := (by decide : ∀ q ∈ guardRegs, (regRow q).access = .ro) r hr
  unfold writeFault at h
  rw [hro] at h
  split at h <;> exact nomatch h

namespace Guarded
section
variable {P : State → Prop} (hP : Guarded P)
include hP

theorem performWrite {s : State} (hs : P s) (acc : Accessor) {r : Reg} (hr : r ∉ guardRegs) (i v : Nat) :
    P (s.performWrite acc r i v) := by
  have htables := (hP.sceneWrite hs acc r i v).or ((hP.scanWrite hs acc r i v).or ((hP.storeWrite hs acc r i v).or
    ((hP.networkWrite hs acc r i v).or (hP.serviceWrite hs acc r i v))))
  unfold State.performWrite
  split
  · exact (htables _ ‹_›).stateOf s
  · unfold State.classWrite
    split
    · exact hP.putReg hs hr i v
    · exact (State.stageWrite_touches (fun _ h => h) (.refl _ s)).guarded hP hs (by decide)

theorem writeId {s : State} (hs : P s) (acc : Accessor) (index sub : Nat) (data : List Byte) :
    P (s.writeId acc index sub data) := by
  have hrefused (code id : Nat) : P ((s.setStatus code).noteAccess acc id) :=
    (State.noteAccess_touches (fun _ h => h) (.refl _ _)).guarded hP (hP.status hs code) (by decide)
  unfold State.writeId
  split
  · exact hs
  split
  · exact hrefused ..
  split
  · exact hrefused ..
  dsimp only
  split
  · next h => exact hP.performWrite hs acc (h.1 ▸ by decide) _ _
  · exact hP.writeAccess hs fun t hpass ht => hP.performWrite ht acc (notGuardReg_of_passes hpass) _ _

theorem writeItem {s : State} (hs : P s) (acc : Accessor) (x : PlvItem) : P (s.writeItem acc x).2 := by
  unfold State.writeItem
  split
  · exact hs
  · exact hP.send (hP.writeId (hP.send hs []) acc _ _ _) _

theorem plvItems_write {s : State} (hs : P s) (n : Nat) (xs : List PlvItem) : P (s.plvItems n 5 xs).2 :=
  State.plvItems_keeps s (fun t x ht => by
    unfold State.plvItem
    dsimp only
    rw [if_neg (by decide), if_pos rfl]
    exact hP.writeItem ht _ x) hs xs

end
end Guarded
end Sys2Proof.Machine
end

section
/-! WRITE (R381, R387): its items are performed in message order, and what they leave to do comes after the last. -/
namespace Sys2Proof.Machine

/-! ## The message of session `n` stays the one being performed -/

/-- A message of session `n` is being performed, and the session answers to the place it had when it began. -/
def State.Performing (n f : Nat) (peer : List Byte) (t : State) : Prop :=
  t.reg .iPLV_CUR 0 = n + 1 ∧ t.reg .iSS_FROM n = f ∧ t.peerOf n = peer

section
variable {n f : Nat} {peer : List Byte} {s t : State}

theorem State.Performing.of_reg (h : s.Performing n f peer) (hcur : t.reg .iPLV_CUR 0 = s.reg .iPLV_CUR 0)
    (hfrom : t.reg .iSS_FROM n = s.reg .iSS_FROM n) (hpeer : t.reg .SS_PEER n = s.reg .SS_PEER n) :
    t.Performing n f peer := by
  obtain ⟨h1, h2, h3⟩ := h
  exact ⟨hcur.trans h1, hfrom.trans h2, (congrArg (leBytes 18) hpeer).trans h3⟩

theorem State.Performing.setReg (h : s.Performing n f peer) {r : Reg} (hr : r ∉ [.iPLV_CUR, .iSS_FROM, .SS_PEER])
    (i v : Nat) : (s.setReg r i v).Performing n f peer := by
  have hne (q : Reg) (hq : q ∈ [Reg.iPLV_CUR, .iSS_FROM, .SS_PEER]) : r ≠ q := fun e => hr (e ▸ hq)
  exact h.of_reg (s.setReg_reg_of_ne _ _ _ (hne _ (by decide))) (s.setReg_reg_of_ne _ _ _ (hne _ (by decide)))
    (s.setReg_reg_of_ne _ _ _ (hne _ (by decide)))

/-- While a message is performed a warm restart, a DEVICE reset and the close of its session wait for its end, and other
sessions close. -/
theorem performing_guarded (n f : Nat) (peer : List Byte) : Guarded (State.Performing n f peer) where
  frame hV hT h := h.of_reg (guardFree_reg hV hT (by decide) 0) (guardFree_reg hV hT (by decide) n) (guardFree_reg hV hT (by decide) n)
  restart := fun {s} cause h => by
    unfold State.warmRestart
    split
    · exact h
    · rw [if_pos (by rw [h.1]; exact Nat.succ_ne_zero n)]
      exact h.setReg (by decide) 0 1
  close := fun {s m} cause _ h => by
    unfold State.closeSession
    split
    · exact h
    split
    · unfold State.cond
      split
      · exact h.setReg (by decide) 0 cause
      · exact h
    · next hcur =>
      have hmn : m ≠ n := fun e => hcur (e ▸ h.1)
      obtain ⟨-, -, -, -, -, -, honly⟩ := s.closeNow_closed m cause
      exact h.of_reg ((s.closeNow_frame m cause).reg _ _ (by decide) (by decide)) (honly _ (by decide) n hmn)
        (honly _ (by decide) n hmn)
  reset := fun {s} h => by
    unfold State.svReset
    rw [if_pos (by rw [h.1]; exact Nat.succ_ne_zero n)]
    exact h.setReg (by decide) 0 2

end

/-- What the end of a WRITE leaves, where no restart was asked for: its answer is sent, and its session has closed where an
item closed it. -/
def WriteEnded (b t : State) (n : Nat) (m : List Byte) : Prop :=
  b.reg .iPLV_RESET 0 = 0 → .plovan (b.reg .iSS_FROM n) (b.peerOf n) m ∈ t.sent ∧ t.NoMessage ∧
    (b.reg .iPLV_CLOSE 0 ≠ 0xFF → SessionClosed b t n (b.reg .iPLV_CLOSE 0)) ∧
    (b.reg .iPLV_CLOSE 0 = 0xFF → (n, m) ∈ t.responses ∧ Touches plvFrame b t)

theorem State.writeEnded {b t : State} {h : PlvHead} {f : Nat} {peer m : List Byte} (htype : h.type ≠ 2)
    (hb : b.Performing h.session f peer) (ht : b.finished h f peer m = t) : WriteEnded b t h.session m := by
  obtain ⟨-, rfl, rfl⟩ := hb
  intro hreset
  by_cases hclose : b.reg .iPLV_CLOSE 0 = 0xFF
  · obtain ⟨hframe, hnone, hsent, hresponse⟩ := State.finished_quiet_frame _ h b _ m htype hclose hreset
    rw [ht] at hframe hnone hsent hresponse
    exact ⟨by simp [hsent], hnone, fun hne => absurd hclose hne, fun _ => ⟨hresponse, hframe.mono (by decide)⟩⟩
  · obtain ⟨v, hT, hnone, hsent, hv⟩ := b.finished_closes h _ _ m hreset hclose (if_neg htype)
    obtain ⟨hin, hclosed, hquiet, -⟩ := State.closes_of_items hT hnone hsent (hv.symm.trans ht)
    exact ⟨hin, hquiet, fun _ => hclosed, fun h => absurd h hclose⟩

/-- PLOVAN_WRITE (R381, R387). -/
theorem plovanWrite_completes (port : Fin 2) (sub : Fin 4) (mac : BitVec 48) (src : BitVec 128)
    (srcPort : BitVec 16) (p : List Byte) (s : State) (hmessage : s.NoMessage) :
    ∃ t, exec (.plovanWrite port sub mac src srcPort p) s = .next t ∧
      Touches [.anyReg, .mem, .keeper, .time, .keys, .anyFld] s t ∧
      PlvDatagram s t (plvFrom port sub) mac 5 p (fun h xs => PlvRequest s t (plvFrom port sub) mac (plvPeer src
          srcPort) p h
        (let u := s.messageBegun (plvFrom port sub) mac (plvPeer src srcPort) h
         let q := u.plvItems h.session 5 xs
         let m := plvMessage 5 h.session 2 h.seq xs.length 0 (s.keyOfSession h.session) q.1
         if s.tooBig h.session q.1 = true then PlvTooBig s t (plvFrom port sub) (plvPeer src srcPort) h
         else
           (q.2.reg .iPLV_RESET 0 = 0 → .plovan (q.2.reg .iSS_FROM h.session) (q.2.peerOf h.session) m ∈ t.sent ∧
             t.NoMessage ∧ (q.2.reg .iPLV_CLOSE 0 ≠ 0xFF → SessionClosed q.2 t h.session (q.2.reg .iPLV_CLOSE 0)) ∧
             (q.2.reg .iPLV_CLOSE 0 = 0xFF → (h.session, m) ∈ t.responses ∧ Touches plvFrame q.2 t)))) := by
  obtain ⟨t, ht, hT⟩ := exec_touches_all (W := allParts) (by decide) (.plovanWrite port sub mac src srcPort p) s
  refine ⟨t, ht, hT, ?_⟩
  obtain rfl : s.plvCommand 5 port sub mac src srcPort p = t := by injection ht
  have hpeer := plvPeer_length src srcPort
  have hfrom := plvFrom_lt port sub
  refine (s.plvCommand_datagram (type := 5) mac (G := fun _ => True) (fun _ _ => trivial)
    (P := fun t h xs => PlvRequest s t (plvFrom port sub) mac (plvPeer src srcPort) p h
      (ItemsAnswered s t (plvFrom port sub) mac (plvPeer src srcPort) 5 (fun t h xs =>
        WriteEnded (s.itemsDone (plvFrom port sub) mac (plvPeer src srcPort) 5 h xs).2 t h.session (plvMessage 5
          h.session 2 h.seq xs.length 0 (s.keyOfSession h.session)
          (s.itemsDone (plvFrom port sub) mac (plvPeer src srcPort) 5 h xs).1)) h xs)) fun h xs hh _ => ?_).2
  generalize plvFrom port sub = f at *
  generalize plvPeer src srcPort = peer at *
  refine s.plvTaken_request f mac (h := h) (by omega) (G := fun _ => True) (fun _ _ => trivial)
    (P := fun t => ItemsAnswered s t f mac peer 5 (fun t h xs => WriteEnded (s.itemsDone f mac peer 5 h xs).2 t h.session
      (plvMessage 5 h.session 2 h.seq xs.length 0 (s.keyOfSession h.session) (s.itemsDone f mac peer 5 h xs).1)) h xs)
    fun hn _ _ => ⟨trivial, ?_⟩
  obtain ⟨-, -, hat, hplace, hcur⟩ := s.messageBegun_session f mac peer h hn hfrom hpeer
  have hperforming : (s.itemsDone f mac peer 5 h xs).2.Performing h.session f peer :=
    (performing_guarded h.session f peer).plvItems_write ⟨hcur, hat, hplace⟩ h.session xs
  rw [s.perform_items mac hfrom hpeer hh (by decide) xs]
  unfold ItemsAnswered
  dsimp only
  generalize s.itemsDone f mac peer 5 h xs = q at hperforming
  by_cases hbig : s.tooBig h.session q.1 = true
  · rw [if_pos hbig, if_pos hbig]
    exact s.tooBig_of_items f mac peer h hmessage hn hfrom hpeer (by omega) rfl
  · rw [if_neg hbig, if_neg hbig]
    exact State.writeEnded (by omega) hperforming (by rw [hh])

/-- Settles O55: each message by its own lemma; SUBSCRIBE and UNSUBSCRIBE by one. -/
theorem plovanItems : Obligations.PlovanItems := by
  refine ⟨plovanRead_completes, plovanWrite_completes, plovanDescribe_completes,
    fun port sub mac src srcPort p s hmessage => ?_, fun port sub mac src srcPort p s hmessage => ?_⟩
  · obtain ⟨⟨hT, hentries⟩, hdone⟩ := s.subscribeMessage_completes hmessage (.inl rfl) port sub mac src srcPort p
    exact ⟨_, rfl, hT, hentries, hdone⟩
  · obtain ⟨⟨hT, hentries⟩, hdone⟩ := s.subscribeMessage_completes hmessage (.inr rfl) port sub mac src srcPort p
    exact ⟨_, rfl, hT, hentries, hdone⟩

end Sys2Proof.Machine
end

section
/-! The frame boundary as the message being performed sees it (R21): a commit writes any parameter that is not read-only. -/
namespace Sys2Proof.Machine

theorem State.accepted_frame (s : State) (l : List Accepted) :
    Touches [.fld .accepted] s ({ s with accepted := l } : State) :=
  (Touches.refl _ s).other (fun f => by cases f <;> first | exact .inr rfl | exact .inl (by decide)) rfl rfl rfl rfl rfl
    rfl rfl

namespace Guarded
section
variable {P : State → Prop} (hP : Guarded P)
include hP

theorem putKey {s : State} (hs : P s) (k v : Nat) : P (s.putKey k v) := by
  unfold State.putKey
  split
  · exact hP.setReg hs (by decide) _ _
  split
  · exact hs
  · next hro =>
    exact hP.putReg hs (fun hr => hro ((by decide : ∀ q ∈ guardRegs, (regRow q).access = .ro) _ hr)) _ _

theorem applyCommit {s : State} (hs : P s) (surf : Nat) (c : Commit) : P (s.applyCommit surf c) := by
  unfold State.applyCommit
  extract_lets s1 s2 s3 last
  have h1 : P s1 := List.foldlRecOn _ _ hs fun t ht kv _ => hP.putKey ht kv.1 kv.2
  have h2 : P s2 := hP.setReg h1 (by decide) _ _
  have h3 : P s3 := List.foldlRecOn _ _ h2 fun t ht b _ =>
    (State.swapBuffer_touches (fun _ h => h) (.refl _ t)).guarded hP ht (by decide)
  have h4 := hP.setReg (hP.setReg h3 (r := .CMT_IN_FORCE) (by decide) surf
    (if last = 0 ∨ idBefore last c.id = true then c.id else last)) (r := .CMT_ACCEPTED) (by decide)
  exact (State.finishGroup_touches (fun _ h => h) (.refl _ _)).guarded hP (h4 _ _) (by decide)

theorem applyCommits {s : State} (hs : P s) (surf frame : Nat) (cs : List Commit) (found : List Nat × Nat) :
    P (s.applyCommits surf frame cs found) := by
  unfold State.applyCommits
  extract_lets dark oldLanes oldConfig s1 changes s2 s3 s4
  have h1 : P s1 := List.foldlRecOn _ _ hs fun t ht c _ => hP.applyCommit ht surf c
  have h2 : P s2 := hP.setReg ((State.setCost_touches (fun _ h => h) (.refl _ _)).guarded hP
    ((State.refreshTiming_touches (fun _ h => h) (.refl _ _)).guarded hP h1 (by decide)) (by decide)) (by decide) _ _
  have h3 : P s3 := by
    unfold s3
    split
    · have hrelock : P (s2.cond (changes [.WL_SSC]) fun t => t.relockWelt surf) :=
        cond h2 _ fun h => (State.relockWelt_touches (fun _ h => h) (.refl _ _)).guarded hP h (by decide)
      exact (State.reconfigure_touches (fun _ h => h) (.refl _ _)).guarded hP (hP.setReg (hP.setReg (hP.setReg hrelock
        (by decide) _ _) (by decide) _ _) (by decide) _ _) (by decide)
    split
    · exact h2
    · exact cond ((State.announce_touches (fun _ h => h) (.refl _ _)).guarded hP h2 (by decide)) _ fun h =>
        (State.capsFault_touches (fun _ h => h) (.refl _ _)).guarded hP h (by decide)
  have h4 : P s4 := (State.checkPlayback_touches (fun _ h => h) (.refl _ _)).guarded hP h3 (by decide)
  exact List.foldlRecOn _ _ h4 fun t ht c _ =>
    (State.raise_touches (fun _ h => h) (.refl _ _)).guarded hP ht (by decide)

theorem stepCommits {s : State} (hs : P s) (surf frame : Nat) : P (s.stepCommits surf frame) := by
  unfold State.stepCommits
  extract_lets s0 mine go back later s1 s2
  have h0 : P s0 := hP.setReg hs (by decide) _ _
  have h1 : P s1 := hP.frame (by decide) (s0.accepted_frame later) h0
  have h2 : P s2 := List.foldlRecOn _ _ h1 fun t ht a _ => cond
    ((State.putBack_touches (fun _ h => h) (.refl _ t)).guarded hP ht (by decide)) _ fun h => hP.setReg h (by decide) _ _
  split
  · exact (State.refreshNext_touches (fun _ h => h) (.refl _ _)).guarded hP h2 (by decide)
  · exact hP.applyCommits h2 ..

theorem frameBoundary {s : State} (hs : P s) (surf : Nat) : P (s.frameBoundary surf) := by
  unfold State.frameBoundary
  extract_lets g s1 s2 s3 s4 s5 s6
  have h1 : P s1 := (State.closeFrame_touches (fun _ h => h) (.refl _ s)).guarded hP hs (by decide)
  have h2 : P s2 := by
    unfold s2
    split
    · exact h1
    · exact (State.genAdvance_touches (fun _ h => h) (.refl _ s1)).guarded hP h1 (by decide)
  have h3 : P s3 := (State.applyStage_touches (fun _ h => h) (.refl _ _)).guarded hP
    ((State.samplePanel_touches (fun _ h => h) (.refl _ _)).guarded hP
      ((State.stepEnable_touches (fun _ h => h) (.refl _ _)).guarded hP h2 (by decide)) (by decide)) (by decide)
  have h4 : P s4 := (State.takeLuts_touches (fun _ h => h) (.refl _ _)).guarded hP
    ((State.stepDark_touches (fun _ h => h) (.refl _ _)).guarded hP h3 (by decide)) (by decide)
  have h5 : P s5 := hP.stepCommits h4 ..
  have h6 : P s6 := by
    unfold s6
    split
    · exact (State.arrayBoundary_touches (fun _ h => h) (.refl _ s5)).guarded hP h5 (by decide)
    · exact h5
  have h7 := (State.openRecord_touches (surf := surf) (fun _ h => h) (.refl _ _)).guarded hP
    ((State.blendSets_touches (surf := surf) (fun _ h => h) (.refl _ _)).guarded hP h6 (by decide)) (by decide)
  exact (State.laceEvent_touches (fun _ h => h) (.refl _ _)).guarded hP h7 (by decide)

theorem execFrameBoundary {s : State} (hs : P s) (surf : Surface) : OutGuarded P (execFrameBoundary surf s) := by
  unfold Machine.execFrameBoundary
  exact .ite (.next (hP.frameBoundary (hP.send hs []) _)) (.next hs)

end
end Guarded
end Sys2Proof.Machine
end

section
/-! That no Plovan message is being performed, through warm restarts, resets and the messages themselves (R381, R391,
R392, R480, R496). -/
namespace Sys2Proof.Machine

/-- The registers of the message being performed. -/
def messageRegs : List Reg := [.iPLV_CUR, .iPLV_CLOSE, .iPLV_RESET]

/-- Parts without the registers of the message being performed. -/
def messageFree (V : List Part) : Bool := !V.contains .anyReg && messageRegs.all fun r => !V.contains (.reg r)

section
variable {s t : State}

theorem State.NoMessage.of_reg (h : s.NoMessage) (hreg : ∀ r ∈ messageRegs, t.reg r 0 = s.reg r 0) : t.NoMessage := by
  obtain ⟨hcur, hclose, hreset⟩ := h
  exact ⟨(hreg _ (by decide)).trans hcur, (hreg _ (by decide)).trans hclose, (hreg _ (by decide)).trans hreset⟩

theorem State.NoMessage.touches (h : s.NoMessage) {V : List Part} (hT : Touches V s t) (hV : messageFree V = true) :
    t.NoMessage := by
  rw [messageFree, Bool.and_eq_true, List.all_eq_true] at hV
  exact h.of_reg fun r hr => hT.reg r 0 (by simpa using hV.2 r hr) (by simpa using hV.1)

/-- At the reset values of its registers no message is being performed. -/
theorem State.NoMessage.of_default (h : ∀ r ∈ messageRegs, t.reg r 0 = regDefault r 0 % 2 ^ r.width) : t.NoMessage :=
  ⟨h _ (by decide), h _ (by decide), h _ (by decide)⟩

/-! ## Restarts and resets -/

theorem State.NoMessage.warmRestart (h : s.NoMessage) (cause : Nat) : (s.warmRestart cause).NoMessage := by
  by_cases hrun : s.reg .iPHASE 0 = 1
  · rw [s.warmRestart_eq cause hrun h.1]
    have hend : Touches [.reg .iWARM_CAUSE, .reg .iPHASE] s.restartCounted.chooseImage
        ((s.restartCounted.chooseImage.setReg .iWARM_CAUSE 0 cause).setReg .iPHASE 0 3) :=
      State.setReg_touches (by simp) (State.setReg_touches (by simp) (.refl _ _))
    exact h.touches ((s.restartCounted_frame.append s.restartCounted.chooseImage_frame).append hend) (by decide)
  · rw [s.warmRestart_idle cause hrun]
    exact h

/-- Start-up keeps the registers of the message being performed. -/
theorem State.startUp_message (s : State) (why : Nat) {r : Reg} (hr : r ∈ messageRegs) :
    (s.startUp why).reg r 0 = s.reg r 0 :=
  s.startUp_reg why 0 ((by decide : ∀ q ∈ messageRegs, q ∉ voteRegs ++ recordRegs) r hr)
    (.inr ((by decide : ∀ q ∈ messageRegs, (regRow q).keep = false) r hr))
    ((by decide : ∀ q ∈ messageRegs, Part.reg q ∉ wordsFoot ++ lastFoot) r hr)

theorem State.afterReset_noMessage (u : State) (straps why : Nat) : (u.resetParts.afterReset straps why).NoMessage :=
  .of_default fun r hr => by
    unfold State.afterReset
    rw [State.startUp_message _ why hr, State.setReg_reg_of_ne _ _ _ _
      ((by decide : ∀ q ∈ messageRegs, Reg.SV_STRAPS ≠ q) r hr), State.resetParts_reg,
      (by decide : ∀ q ∈ messageRegs, resetKeeps q = false) r hr]
    rfl

theorem State.deviceReset_noMessage (s : State) (straps : Nat) : (s.deviceReset straps).NoMessage :=
  State.afterReset_noMessage _ straps 1

theorem State.shutEnded_noMessage (s : State) : (s.shutEnded.startUp 2).NoMessage :=
  .of_default fun r hr => by
    rw [State.startUp_message _ 2 hr, s.shutEnded_frame.reg r 0
      ((by decide : ∀ q ∈ messageRegs, Part.reg q ∉ Sys2Proof.Machine.regs thermalRegs) r hr) (by decide),
      State.thermalParts_reg, (by decide : ∀ q ∈ messageRegs, thermalKeeps q = false) r hr]
    rfl

/-- The registers of the endpoint that its reset clears. -/
def endpointRegs : List Reg :=
  [.iMSIX_EN, .iMSIX_ADDR, .iMSIX_DATA, .iMSIX_MASK, .iMSIX_PEND, .iLATCH, .iACC_STATUS, .iACC_ID, .iF2_BM, .PCI_LINK]

theorem State.NoMessage.endpointReset (h : s.NoMessage) : s.endpointReset.NoMessage :=
  h.of_reg fun r hr => by
    rw [s.reg_of_kept (fun q => !endpointRegs.contains q) (u := s.endpointReset) rfl,
      (by decide : ∀ q ∈ messageRegs, (!endpointRegs.contains q) = true) r hr]
    rfl

/-! ## Sessions that close -/

theorem State.NoMessage.closeNow (h : s.NoMessage) (n cause : Nat) : (s.closeNow n cause).NoMessage :=
  h.touches (s.closeNow_frame n cause) (by decide)

theorem State.NoMessage.closeSession (h : s.NoMessage) (n cause : Nat) : (s.closeSession n cause).NoMessage := by
  by_cases hopen : s.reg .SS_STATE n = 1
  · rw [s.closeSession_now cause hopen h.1]
    exact h.closeNow n cause
  · rw [s.closeSession_free cause hopen]
    exact h

theorem noMessage_guarded : Guarded State.NoMessage where
  frame hV hT h := h.of_reg fun r hr =>
    guardFree_reg hV hT ((by decide : ∀ q ∈ messageRegs, q ∈ guardRegs) r hr) 0
  restart cause h := h.warmRestart cause
  close cause _ h := h.closeSession _ cause
  reset := fun {s} h => by
    unfold State.svReset
    rw [if_neg (by simp [h.1])]
    exact s.deviceReset_noMessage _

/-! ## The end of a message -/

/-- What the items of a message left to do has been done. -/
theorem State.afterMessage_noMessage (s : State) (n : Nat) : (s.afterMessage n).NoMessage := by
  have hclosed (c : Bool) (cause : Nat) : (s.messageDone.cond c fun t => t.closeNow n cause).NoMessage := by
    unfold State.cond
    split
    · exact s.messageDone_noMessage.closeNow n cause
    · exact s.messageDone_noMessage
  unfold State.afterMessage
  dsimp only
  split
  · exact hclosed _ _
  · exact (hclosed _ _).warmRestart _
  · exact State.deviceReset_noMessage _ _

theorem State.perform_noMessage (s : State) (h : PlvHead) (xs : List PlvItem) : (s.perform h xs).NoMessage := by
  unfold State.perform
  exact State.afterMessage_noMessage _ _

theorem State.NoMessage.plvRequest (hs : s.NoMessage) (from_ mac : Nat) (peer : List Byte) (h : PlvHead)
    (xs : List PlvItem) (raw : List Byte) : (s.plvRequest from_ mac peer h xs raw).NoMessage := by
  have hnoted : (s.noted from_ mac peer h.session).NoMessage := hs.touches (s.noted_frame from_ mac peer h.session) (by decide)
  rw [State.plvRequest_eq]
  dsimp only
  generalize s.noted from_ mac peer h.session = u at hnoted
  split
  · split
    · exact hnoted.touches (u.holdRequest_frame h.session raw) (by decide)
    · exact u.perform_noMessage h xs
  split
  · split
    · exact hnoted
    · exact hnoted.touches (u.sendPlv_frame from_ peer _) (by decide)
  · exact hnoted.touches (State.bump_touches (W := [.reg .PLV_BAD_SEQ]) (by simp) (.refl _ u)) (by decide)

theorem State.NoMessage.plvDatagram (hs : s.NoMessage) (from_ mac : Nat) (peer p : List Byte) :
    (s.plvDatagram from_ mac peer p).NoMessage := by
  have hbad {r : Reg} (hr : r = .PLV_BAD_MSG ∨ r = .PLV_BAD_AUTH) : (s.bump r 0).NoMessage := by
    refine hs.touches (V := Sys2Proof.Machine.regs [.PLV_BAD_MSG, .PLV_BAD_AUTH]) (State.bump_touches ?_ (.refl _ s)) (by decide)
    obtain rfl | rfl := hr <;> decide
  unfold State.plvDatagram
  dsimp only
  split
  · exact hbad (.inl rfl)
  split
  · exact hbad (.inl rfl)
  split
  · split
    · exact hs
    · exact hs.touches (State.plvOpen_touches (fun _ h => h) (.refl _ s)) (by decide)
  split
  · exact hbad (.inl rfl)
  split
  · exact hbad (.inr rfl)
  · exact hs.plvRequest ..

theorem State.NoMessage.plvCommand (hs : s.NoMessage) (type : Nat) (port : Fin 2) (sub : Fin 4) (mac : BitVec 48)
    (src : BitVec 128) (srcPort : BitVec 16) (p : List Byte) :
    (s.plvCommand type port sub mac src srcPort p).NoMessage := by
  unfold State.plvCommand
  dsimp only
  split
  · exact hs
  · exact State.NoMessage.plvDatagram (hs.touches (s.received_frame (4 * port.val + sub.val) mac) (by decide)) ..

end

/-! ## The firmware runs again (R404, R496) -/

theorem State.cleared_frame (s : State) :
    Touches [.keys, .fld .luts] s ({ s with keys := [], luts := [] } : State) :=
  Touches.keysToo (by decide) (fun f => by cases f <;> first | exact .inr rfl | exact .inl (by decide)) (.refl _ s)
    rfl rfl rfl rfl rfl rfl

namespace Guarded
section
variable {P : State → Prop} (hP : Guarded P)
include hP

theorem factoryOne {s : State} (hs : P s) {e : Reg × Nat} (he : e ∈ keepKeys) : P (s.factoryOne e.1 e.2) := by
  have hkeep : (regRow e.1).keep = true := by
    obtain ⟨r, -, hr⟩ := List.mem_flatMap.mp he
    split at hr
    · next h =>
      obtain ⟨i, -, rfl⟩ := List.mem_map.mp hr
      exact h
    · exact absurd hr List.not_mem_nil
  have hfree : e.1 ∉ guardRegs := fun hr => by
    rw [(by decide : ∀ q ∈ guardRegs, (regRow q).keep = false) _ hr] at hkeep
    exact nomatch hkeep
  have hend (t : State) (ht : P t) : P ((t.noteKeep e.1 e.2).saveTri e.1) :=
    (State.saveTri_touches (fun _ h => h) (.refl _ _)).guarded hP ((State.noteKeep_touches (W := [.fld .keepPending])
      (by simp) (.refl _ t)).guarded hP ht (by decide)) (by decide)
  unfold State.factoryOne
  refine hend _ ?_
  split
  · exact hP.setReg hs (by decide) _ _
  · exact hP.setReg hs hfree _ _

theorem factory {s : State} (hs : P s) : P s.factory := by
  unfold State.factory
  split
  · exact hs
  extract_lets s1 windows s2 s3 s4
  have h1 : P s1 := List.foldlRecOn _ _ (hP.setReg hs (by decide) _ _) fun t ht e he => hP.factoryOne ht he
  have hwindows : P windows := s1.windowsInForce_frame.guarded hP h1 (by decide)
  have h2 : P s2 := windows.cleared_frame.guarded hP hwindows (by decide)
  have h3 : P s3 := forN_inv h2 fun t n ht => by
    have hfences := (State.refreshFences_touches (n := n) (fun _ h => h) (.refl _ t)).guarded hP ht (by decide)
    dsimp only
    split
    · exact (State.startSelfTest_touches (fun _ h => h) (.refl _ _)).guarded hP hfences (by decide)
    · exact hfences
  have h4 : P s4 := forN_inv h3 fun t surf ht => by
    split
    · exact hP.setReg ht (by decide) _ _
    · exact ht
  exact (State.refreshAll_touches (fun _ h => h) (.refl _ _)).guarded hP
    ((State.syncEnables_touches (fun _ h => h) (.refl _ _)).guarded hP h4 (by decide)) (by decide)

end
end Guarded

section
variable {s : State}

theorem State.NoMessage.performHeld (hs : s.NoMessage) : s.performHeld.NoMessage := by
  unfold State.performHeld
  refine List.foldlRecOn _ _ hs fun t ht e _ => ?_
  dsimp only
  split
  · split
    · exact State.perform_noMessage _ _ _
    · exact ht
  · exact ht

theorem State.NoMessage.runningAgain (hs : s.NoMessage) : s.runningAgain.NoMessage := by
  have hP := noMessage_guarded
  have hvoted : (forN 16 (s.setReg .iPHASE 0 1) State.voteWord).NoMessage :=
    forN_inv (hP.setReg hs (by decide) 0 1) fun t n ht =>
      (State.voteWord_touches (fun _ h => h) (.refl _ t)).guarded hP ht (by decide)
  have hread := (State.readPool_touches (fun _ h => h) (.refl _ _)).guarded hP
    ((State.loadComparators_touches (fun _ h => h) (.refl _ _)).guarded hP hvoted (by decide)) (by decide)
  have hshown := (State.showImage_touches (fun _ h => h) (.refl _ _)).guarded hP
    ((State.resolveAll_touches (fun _ h => h) (.refl _ _)).guarded hP hread (by decide)) (by decide)
  have htaken := (State.takeRestart_touches (fun _ h => h) (.refl _ _)).guarded hP hshown (by decide)
  have hreported := (State.restartReports_touches (fun _ h => h) (.refl _ _)).guarded hP (hP.factory htaken) (by decide)
  exact State.NoMessage.performHeld hreported

end

end Sys2Proof.Machine
end

section
/-! Every command leaves a state in which no Plovan message is being performed (R381, R391, R392, R496), and so does a cycle
of the timebase. -/
namespace Sys2Proof.Machine

section
variable {s : State}

theorem State.NoMessage.pcieReset (hs : s.NoMessage) : OutGuarded State.NoMessage (execPcieReset s) := by
  have hP := noMessage_guarded
  unfold execPcieReset
  extract_lets hosts s1 s2
  have h1 : s1.NoMessage := by
    unfold s1
    generalize hosts = l
    split
    · exact (State.busError_touches (fun _ h => h) (.refl _ s)).guarded hP hs (by decide)
    · exact hs
  have h2 : s2.NoMessage := forN_inv h1 fun t k ht =>
    Guarded.cond ht _ fun h => hP.setReg h (by decide) k 1
  exact .next h2.endpointReset

theorem State.NoMessage.firmwareRunning (hs : s.NoMessage) (version : BitVec 32) (k : BitVec 80) (failed : BitVec 16) :
    OutGuarded State.NoMessage (execFirmwareRunning version k failed s) := by
  have hP := noMessage_guarded
  have hquiet := hP.send hs []
  unfold execFirmwareRunning
  dsimp only
  refine .ite (.next hs) (.ite (.next ?_) (.ite (.next ?_) (.next hquiet.runningAgain)))
  · exact (State.toRecovery_touches (fun _ h => h) (.refl _ _)).guarded hP hquiet (by decide)
  · exact (State.firstRunning_touches (fun _ h => h) (.refl _ _)).guarded hP hquiet (by decide)

theorem State.NoMessage.thermalRestart (hs : s.NoMessage) : OutGuarded State.NoMessage (execThermalRestart s) := by
  unfold execThermalRestart
  exact .ite (.next hs) (.next s.shutEnded_noMessage)

theorem State.NoMessage.windowWrite (hs : s.NoMessage) (f3 : Bool) (index sub : Nat) (whole : Bool) (v : Nat) :
    (s.windowWrite f3 index sub whole v).NoMessage := by
  have hP := noMessage_guarded
  unfold State.windowWrite
  split
  · exact hP.setReg hs (by decide) _ _
  · exact hP.writeId (hP.send hs []) ..

theorem State.NoMessage.svReset (hs : s.NoMessage) (acc : Accessor) (boot : Fin 4) (defaultsN : Bool) :
    OutGuarded State.NoMessage (execSvReset acc boot defaultsN s) := by
  unfold execSvReset
  exact .ite (.next (s.deviceReset_noMessage _)) (noMessage_guarded.writeParam hs fun _ h => h)

end

/-- Every command leaves no message being performed. The cases are those of the dispatch: most commands touch none of the
message's registers, and the others close sessions, restart Flaed or perform a message. -/
theorem exec_noMessage (c : Instr) {s : State} (hs : s.NoMessage) : OutGuarded State.NoMessage (exec c s) := by
  have hP := noMessage_guarded
  cases c with
  | frameBoundary surf => exact hP.execFrameBoundary hs surf
  | frameRecordPublish _ =>
    exact (execFrameRecordPublish_touches (fun _ h => h) (.refl _ s)).guarded hP hs (by decide)
  | commitDeadline _ _ => exact (execCommitDeadline_touches (fun _ h => h) (.refl _ s)).guarded hP hs (by decide)
  | bandDispatch _ => exact (execBandDispatch_touches (fun _ h => h) (.refl _ s)).guarded hP hs (by decide)
  | tileAssign => exact (execTileAssign_touches (fun _ h => h) (.refl _ s)).guarded hP hs (by decide)
  | tileComplete _ _ _ => exact (execTileComplete_touches (fun _ h => h) (.refl _ s)).guarded hP hs (by decide)
  | slotRelease _ _ => exact (execSlotRelease_touches (fun _ h => h) (.refl _ s)).guarded hP hs (by decide)
  | rayLineStart _ _ => exact (execRayLineStart_touches (fun _ h => h) (.refl _ s)).guarded hP hs (by decide)
  | tapRowCoded _ _ _ => exact (execTapRowCoded_touches (fun _ h => h) (.refl _ s)).guarded hP hs (by decide)
  | tapFrameHeaderWrite _ _ _ =>
    exact (execTapFrameHeaderWrite_touches (fun _ h => h) (.refl _ s)).guarded hP hs (by decide)
  | memoryRead _ _ _ _ _ => exact (execMemoryRead_touches (fun _ h => h) (.refl _ s)).guarded hP hs (by decide)
  | memoryWrite _ _ _ _ _ => exact (execMemoryWrite_touches (fun _ h => h) (.refl _ s)).guarded hP hs (by decide)
  | correctedWriteBack _ =>
    exact (execCorrectedWriteBack_touches (fun _ h => h) (.refl _ s)).guarded hP hs (by decide)
  | pipFreezeWatchdog => exact .ite (.next ((hP.send hs []).warmRestart 0)) (.next hs)
  | powerGrantRequest _ => exact (execPowerGrantRequest_touches (fun _ h => h) (.refl _ s)).guarded hP hs (by decide)
  | powerGrant => exact (execPowerGrant_touches (fun _ h => h) (.refl _ s)).guarded hP hs (by decide)
  | powerGrantReturn _ => exact (execPowerGrantReturn_touches (fun _ h => h) (.refl _ s)).guarded hP hs (by decide)
  | pwCeilingWrite _ _ => exact (execPwCeilingWrite_touches (fun _ h => h) (.refl _ s)).guarded hP hs (by decide)
  | calLoadValidate _ _ => exact (execCalLoadValidate_touches (fun _ h => h) (.refl _ s)).guarded hP hs (by decide)
  | calLoadEmpty _ _ => exact (execCalLoadEmpty_touches (fun _ h => h) (.refl _ s)).guarded hP hs (by decide)
  | calValidationDone _ _ =>
    exact (execCalValidationDone_touches (fun _ h => h) (.refl _ s)).guarded hP hs (by decide)
  | calSlotWrite _ _ _ _ => exact (execCalSlotWrite_touches (fun _ h => h) (.refl _ s)).guarded hP hs (by decide)
  | lutWrite _ _ _ => exact (execLutWrite_touches (fun _ h => h) (.refl _ s)).guarded hP hs (by decide)
  | pgLoadVerify _ _ => exact (execPgLoadVerify_touches (fun _ h => h) (.refl _ s)).guarded hP hs (by decide)
  | pgLoadEmpty _ _ => exact (execPgLoadEmpty_touches (fun _ h => h) (.refl _ s)).guarded hP hs (by decide)
  | pgLoadDone _ _ _ _ => exact (execPgLoadDone_touches (fun _ h => h) (.refl _ s)).guarded hP hs (by decide)
  | hzProgTarget _ _ => exact (execHzProgTarget_touches (fun _ h => h) (.refl _ s)).guarded hP hs (by decide)
  | clusterLoadDone _ _ => exact (execClusterLoadDone_touches (fun _ h => h) (.refl _ s)).guarded hP hs (by decide)
  | engineFaultFence _ _ _ =>
    exact (execEngineFaultFence_touches (fun _ h => h) (.refl _ s)).guarded hP hs (by decide)
  | hogelOverrun _ _ _ => exact (execHogelOverrun_touches (fun _ h => h) (.refl _ s)).guarded hP hs (by decide)
  | clusterFaultFence _ _ =>
    exact (execClusterFaultFence_touches (fun _ h => h) (.refl _ s)).guarded hP hs (by decide)
  | arrayParamWrite _ _ _ => exact (execArrayParamWrite_touches (fun _ h => h) (.refl _ s)).guarded hP hs (by decide)
  | clFaultClear _ _ _ => exact (execClFaultClear_touches (fun _ h => h) (.refl _ s)).guarded hP hs (by decide)
  | selfTestDone _ _ => exact (execSelfTestDone_touches (fun _ h => h) (.refl _ s)).guarded hP hs (by decide)
  | clusterWakeDone _ => exact (execClusterWakeDone_touches (fun _ h => h) (.refl _ s)).guarded hP hs (by decide)
  | gcTailWrite _ _ _ => exact (execGcTailWrite_touches (fun _ h => h) (.refl _ s)).guarded hP hs (by decide)
  | gcJobStart _ _ => exact (execGcJobStart_touches (fun _ h => h) (.refl _ s)).guarded hP hs (by decide)
  | gcJobRun _ => exact (execGcJobRun_touches (fun _ h => h) (.refl _ s)).guarded hP hs (by decide)
  | gcJobEnd _ _ => exact (execGcJobEnd_touches (fun _ h => h) (.refl _ s)).guarded hP hs (by decide)
  | gcEnableDisable _ _ _ => exact (execGcEnableDisable_touches (fun _ h => h) (.refl _ s)).guarded hP hs (by decide)
  | gcEnableResume _ _ => exact (execGcEnableResume_touches (fun _ h => h) (.refl _ s)).guarded hP hs (by decide)
  | gcRingWrite _ _ _ _ => exact (execGcRingWrite_touches (fun _ h => h) (.refl _ s)).guarded hP hs (by decide)
  | codecAssignWrite _ _ _ =>
    exact (execCodecAssignWrite_touches (fun _ h => h) (.refl _ s)).guarded hP hs (by decide)
  | ingestTileDecoded _ _ =>
    exact (execIngestTileDecoded_touches (fun _ h => h) (.refl _ s)).guarded hP hs (by decide)
  | standingGrantRequest _ =>
    exact (execStandingGrantRequest_touches (fun _ h => h) (.refl _ s)).guarded hP hs (by decide)
  | streamTilesPacket _ _ =>
    exact (execStreamTilesPacket_touches (fun _ h => h) (.refl _ s)).guarded hP hs (by decide)
  | streamEndPacket _ _ => exact (execStreamEndPacket_touches (fun _ h => h) (.refl _ s)).guarded hP hs (by decide)
  | strRingTailWrite _ _ _ =>
    exact (execStrRingTailWrite_touches (fun _ h => h) (.refl _ s)).guarded hP hs (by decide)
  | streamPacketFetch _ _ _ _ =>
    exact (execStreamPacketFetch_touches (fun _ h => h) (.refl _ s)).guarded hP hs (by decide)
  | bufCtrlOpen _ _ => exact (execBufCtrlOpen_touches (fun _ h => h) (.refl _ s)).guarded hP hs (by decide)
  | bufCtrlSeal _ _ => exact (execBufCtrlSeal_touches (fun _ h => h) (.refl _ s)).guarded hP hs (by decide)
  | bufCtrlDiscard _ _ => exact (execBufCtrlDiscard_touches (fun _ h => h) (.refl _ s)).guarded hP hs (by decide)
  | bufParamWrite _ _ _ _ => exact (execBufParamWrite_touches (fun _ h => h) (.refl _ s)).guarded hP hs (by decide)
  | sealComplete _ _ => exact (execSealComplete_touches (fun _ h => h) (.refl _ s)).guarded hP hs (by decide)
  | cgCtrlOpen _ _ => exact (execCgCtrlOpen_touches (fun _ h => h) (.refl _ s)).guarded hP hs (by decide)
  | cgCtrlGo _ _ => exact (execCgCtrlGo_touches (fun _ h => h) (.refl _ s)).guarded hP hs (by decide)
  | cgCtrlAbort _ _ => exact (execCgCtrlAbort_touches (fun _ h => h) (.refl _ s)).guarded hP hs (by decide)
  | cgParamWrite _ _ _ _ => exact (execCgParamWrite_touches (fun _ h => h) (.refl _ s)).guarded hP hs (by decide)
  | cueLoadValidate _ _ => exact (execCueLoadValidate_touches (fun _ h => h) (.refl _ s)).guarded hP hs (by decide)
  | cueLoadEmpty _ _ => exact (execCueLoadEmpty_touches (fun _ h => h) (.refl _ s)).guarded hP hs (by decide)
  | cueValidationDone _ _ =>
    exact (execCueValidationDone_touches (fun _ h => h) (.refl _ s)).guarded hP hs (by decide)
  | cueParamWrite _ _ _ _ => exact (execCueParamWrite_touches (fun _ h => h) (.refl _ s)).guarded hP hs (by decide)
  | pbCtrlArm _ _ => exact (execPbCtrlArm_touches (fun _ h => h) (.refl _ s)).guarded hP hs (by decide)
  | pbCtrlStop _ _ => exact (execPbCtrlStop_touches (fun _ h => h) (.refl _ s)).guarded hP hs (by decide)
  | lastResync _ _ => exact (execLastResync_touches (fun _ h => h) (.refl _ s)).guarded hP hs (by decide)
  | lastRateWrite _ _ _ => exact (execLastRateWrite_touches (fun _ h => h) (.refl _ s)).guarded hP hs (by decide)
  | soEnableDisable _ _ => exact (execSoEnableDisable_touches (fun _ h => h) (.refl _ s)).guarded hP hs (by decide)
  | soEnableResume _ _ => exact (execSoEnableResume_touches (fun _ h => h) (.refl _ s)).guarded hP hs (by decide)
  | tapTailWrite _ _ _ _ => exact (execTapTailWrite_touches (fun _ h => h) (.refl _ s)).guarded hP hs (by decide)
  | tapParamWrite _ _ _ _ _ => exact (execTapParamWrite_touches (fun _ h => h) (.refl _ s)).guarded hP hs (by decide)
  | receiverDetectPulse _ _ _ =>
    exact (execReceiverDetectPulse_touches (fun _ h => h) (.refl _ s)).guarded hP hs (by decide)
  | laneTimeout _ _ => exact (execLaneTimeout_touches (fun _ h => h) (.refl _ s)).guarded hP hs (by decide)
  | laneActiveEntry _ _ => exact (execLaneActiveEntry_touches (fun _ h => h) (.refl _ s)).guarded hP hs (by decide)
  | sparedAttempt _ _ => exact (execSparedAttempt_touches (fun _ h => h) (.refl _ s)).guarded hP hs (by decide)
  | caps _ _ _ => exact (execCaps_touches (fun _ h => h) (.refl _ s)).guarded hP hs (by decide)
  | laneStatus _ _ _ => exact (execLaneStatus_touches (fun _ h => h) (.refl _ s)).guarded hP hs (by decide)
  | eqReq _ _ _ => exact (execEqReq_touches (fun _ h => h) (.refl _ s)).guarded hP hs (by decide)
  | eqApply _ _ => exact (execEqApply_touches (fun _ h => h) (.refl _ s)).guarded hP hs (by decide)
  | eqDone _ _ _ => exact (execEqDone_touches (fun _ h => h) (.refl _ s)).guarded hP hs (by decide)
  | eqNegotiationTimeout _ _ =>
    exact (execEqNegotiationTimeout_touches (fun _ h => h) (.refl _ s)).guarded hP hs (by decide)
  | spareReq _ _ _ => exact (execSpareReq_touches (fun _ h => h) (.refl _ s)).guarded hP hs (by decide)
  | spareAck _ _ _ => exact (execSpareAck_touches (fun _ h => h) (.refl _ s)).guarded hP hs (by decide)
  | sensors _ _ _ => exact (execSensors_touches (fun _ h => h) (.refl _ s)).guarded hP hs (by decide)
  | calBegin _ _ _ => exact (execCalBegin_touches (fun _ h => h) (.refl _ s)).guarded hP hs (by decide)
  | calData _ _ _ _ => exact (execCalData_touches (fun _ h => h) (.refl _ s)).guarded hP hs (by decide)
  | calEnd _ _ _ _ => exact (execCalEnd_touches (fun _ h => h) (.refl _ s)).guarded hP hs (by decide)
  | calNone _ _ _ => exact (execCalNone_touches (fun _ h => h) (.refl _ s)).guarded hP hs (by decide)
  | prbsReport _ _ _ => exact (execPrbsReport_touches (fun _ h => h) (.refl _ s)).guarded hP hs (by decide)
  | returnLaneLock _ _ _ => exact (execReturnLaneLock_touches (fun _ h => h) (.refl _ s)).guarded hP hs (by decide)
  | returnLaneUnlock _ _ _ =>
    exact (execReturnLaneUnlock_touches (fun _ h => h) (.refl _ s)).guarded hP hs (by decide)
  | capsHoldExpire _ => exact (execCapsHoldExpire_touches (fun _ h => h) (.refl _ s)).guarded hP hs (by decide)
  | fwdMsgResend _ => exact (execFwdMsgResend_touches (fun _ h => h) (.refl _ s)).guarded hP hs (by decide)
  | laneIdleEntry _ _ => exact (execLaneIdleEntry_touches (fun _ h => h) (.refl _ s)).guarded hP hs (by decide)
  | blankIdleExit _ => exact (execBlankIdleExit_touches (fun _ h => h) (.refl _ s)).guarded hP hs (by decide)
  | fastwakeDone _ _ => exact (execFastwakeDone_touches (fun _ h => h) (.refl _ s)).guarded hP hs (by decide)
  | spareEffect _ _ => exact (execSpareEffect_touches (fun _ h => h) (.refl _ s)).guarded hP hs (by decide)
  | spareAckTimeout _ _ => exact (execSpareAckTimeout_touches (fun _ h => h) (.refl _ s)).guarded hP hs (by decide)
  | wlCtrlRetrain _ _ _ => exact (execWlCtrlRetrain_touches (fun _ h => h) (.refl _ s)).guarded hP hs (by decide)
  | wlCtrlSpare _ _ _ => exact (execWlCtrlSpare_touches (fun _ h => h) (.refl _ s)).guarded hP hs (by decide)
  | wlCtrlRetry _ _ _ => exact (execWlCtrlRetry_touches (fun _ h => h) (.refl _ s)).guarded hP hs (by decide)
  | wlMapReset _ _ => exact (execWlMapReset_touches (fun _ h => h) (.refl _ s)).guarded hP hs (by decide)
  | wlCalFetch _ _ _ => exact (execWlCalFetch_touches (fun _ h => h) (.refl _ s)).guarded hP hs (by decide)
  | wlPrbsMode _ _ _ _ => exact (execWlPrbsMode_touches (fun _ h => h) (.refl _ s)).guarded hP hs (by decide)
  | prbsStart _ _ => exact (execPrbsStart_touches (fun _ h => h) (.refl _ s)).guarded hP hs (by decide)
  | wrPrbsMode _ _ _ _ => exact (execWrPrbsMode_touches (fun _ h => h) (.refl _ s)).guarded hP hs (by decide)
  | refresh _ => exact (execRefresh_touches (fun _ h => h) (.refl _ s)).guarded hP hs (by decide)
  | stackTempRead _ _ => exact (execStackTempRead_touches (fun _ h => h) (.refl _ s)).guarded hP hs (by decide)
  | neighbourRefresh _ _ => exact (execNeighbourRefresh_touches (fun _ h => h) (.refl _ s)).guarded hP hs (by decide)
  | retrainDue _ => exact (execRetrainDue_touches (fun _ h => h) (.refl _ s)).guarded hP hs (by decide)
  | retrainPause _ _ _ _ _ _ _ =>
    exact (execRetrainPause_touches (fun _ h => h) (.refl _ s)).guarded hP hs (by decide)
  | chRetrainNow _ _ => exact (execChRetrainNow_touches (fun _ h => h) (.refl _ s)).guarded hP hs (by decide)
  | msRetrainEnDisable _ =>
    exact (execMsRetrainEnDisable_touches (fun _ h => h) (.refl _ s)).guarded hP hs (by decide)
  | sweepBurst _ => exact (execSweepBurst_touches (fun _ h => h) (.refl _ s)).guarded hP hs (by decide)
  | scrubBurst _ => exact (execScrubBurst_touches (fun _ h => h) (.refl _ s)).guarded hP hs (by decide)
  | cacheScrub _ _ _ => exact (execCacheScrub_touches (fun _ h => h) (.refl _ s)).guarded hP hs (by decide)
  | scEnableDisable _ _ => exact (execScEnableDisable_touches (fun _ h => h) (.refl _ s)).guarded hP hs (by decide)
  | scEnableResume _ _ => exact (execScEnableResume_touches (fun _ h => h) (.refl _ s)).guarded hP hs (by decide)
  | winApply _ => exact (execWinApply_touches (fun _ h => h) (.refl _ s)).guarded hP hs (by decide)
  | msRelease _ _ => exact (execMsRelease_touches (fun _ h => h) (.refl _ s)).guarded hP hs (by decide)
  | pnClear _ => exact (execPnClear_touches (fun _ h => h) (.refl _ s)).guarded hP hs (by decide)
  | lcShDescWrite _ _ _ => exact (execLcShDescWrite_touches (fun _ h => h) (.refl _ s)).guarded hP hs (by decide)
  | lcArm _ _ => exact (execLcArm_touches (fun _ h => h) (.refl _ s)).guarded hP hs (by decide)
  | lcDisarm _ _ => exact (execLcDisarm_touches (fun _ h => h) (.refl _ s)).guarded hP hs (by decide)
  | laceDescriptorStart _ _ =>
    exact (execLaceDescriptorStart_touches (fun _ h => h) (.refl _ s)).guarded hP hs (by decide)
  | laceBurst _ _ _ _ _ => exact (execLaceBurst_touches (fun _ h => h) (.refl _ s)).guarded hP hs (by decide)
  | laceComplete _ _ => exact (execLaceComplete_touches (fun _ h => h) (.refl _ s)).guarded hP hs (by decide)
  | laceHalf _ => exact (execLaceHalf_touches (fun _ h => h) (.refl _ s)).guarded hP hs (by decide)
  | laceError _ _ => exact (execLaceError_touches (fun _ h => h) (.refl _ s)).guarded hP hs (by decide)
  | laceBusError _ _ _ => exact (execLaceBusError_touches (fun _ h => h) (.refl _ s)).guarded hP hs (by decide)
  | laceBusStopped => exact (execLaceBusStopped_touches (fun _ h => h) (.refl _ s)).guarded hP hs (by decide)
  | lsBusClear _ => exact (execLsBusClear_touches (fun _ h => h) (.refl _ s)).guarded hP hs (by decide)
  | lcCtrlResume _ _ => exact (execLcCtrlResume_touches (fun _ h => h) (.refl _ s)).guarded hP hs (by decide)
  | lcCtrlAbandon _ _ => exact (execLcCtrlAbandon_touches (fun _ h => h) (.refl _ s)).guarded hP hs (by decide)
  | lcEnableDisable _ _ => exact (execLcEnableDisable_touches (fun _ h => h) (.refl _ s)).guarded hP hs (by decide)
  | lcEnableResume _ _ => exact (execLcEnableResume_touches (fun _ h => h) (.refl _ s)).guarded hP hs (by decide)
  | skTailWrite _ _ _ => exact (execSkTailWrite_touches (fun _ h => h) (.refl _ s)).guarded hP hs (by decide)
  | skJobStart _ _ => exact (execSkJobStart_touches (fun _ h => h) (.refl _ s)).guarded hP hs (by decide)
  | skJobEnd _ _ => exact (execSkJobEnd_touches (fun _ h => h) (.refl _ s)).guarded hP hs (by decide)
  | skEnableDisable _ _ _ => exact (execSkEnableDisable_touches (fun _ h => h) (.refl _ s)).guarded hP hs (by decide)
  | skEnableResume _ _ => exact (execSkEnableResume_touches (fun _ h => h) (.refl _ s)).guarded hP hs (by decide)
  | skRingWrite _ _ _ _ => exact (execSkRingWrite_touches (fun _ h => h) (.refl _ s)).guarded hP hs (by decide)
  | ethFrameReceive _ _ _ _ _ _ _ _ =>
    exact (execEthFrameReceive_touches (fun _ h => h) (.refl _ s)).guarded hP hs (by decide)
  | ethModeWrite _ _ _ _ => exact (execEthModeWrite_touches (fun _ h => h) (.refl _ s)).guarded hP hs (by decide)
  | linkUp _ _ _ => exact (execLinkUp_touches (fun _ h => h) (.refl _ s)).guarded hP hs (by decide)
  | linkDown _ _ => exact (execLinkDown_touches (fun _ h => h) (.refl _ s)).guarded hP hs (by decide)
  | rqParamWrite _ _ _ _ => exact (execRqParamWrite_touches (fun _ h => h) (.refl _ s)).guarded hP hs (by decide)
  | ptpSync _ _ _ _ _ _ _ => exact (execPtpSync_touches (fun _ h => h) (.refl _ s)).guarded hP hs (by decide)
  | ptpAnnounce _ _ => exact (execPtpAnnounce_touches (fun _ h => h) (.refl _ s)).guarded hP hs (by decide)
  | ptpAnnounceTimeout _ =>
    exact (execPtpAnnounceTimeout_touches (fun _ h => h) (.refl _ s)).guarded hP hs (by decide)
  | ptpDelayResp _ _ _ _ _ _ => exact (execPtpDelayResp_touches (fun _ h => h) (.refl _ s)).guarded hP hs (by decide)
  | ptpDelayReqSend _ => exact (execPtpDelayReqSend_touches (fun _ h => h) (.refl _ s)).guarded hP hs (by decide)
  | pdelayReqSend _ _ => exact (execPdelayReqSend_touches (fun _ h => h) (.refl _ s)).guarded hP hs (by decide)
  | pdelayReq _ _ _ _ _ _ => exact (execPdelayReq_touches (fun _ h => h) (.refl _ s)).guarded hP hs (by decide)
  | pdelayResp _ _ _ _ _ => exact (execPdelayResp_touches (fun _ h => h) (.refl _ s)).guarded hP hs (by decide)
  | ptpManagement _ _ _ => exact (execPtpManagement_touches (fun _ h => h) (.refl _ s)).guarded hP hs (by decide)
  | tbSourceWrite _ _ => exact (execTbSourceWrite_touches (fun _ h => h) (.refl _ s)).guarded hP hs (by decide)
  | tbSet _ _ => exact (execTbSet_touches (fun _ h => h) (.refl _ s)).guarded hP hs (by decide)
  | tbAdj _ _ => exact (execTbAdj_touches (fun _ h => h) (.refl _ s)).guarded hP hs (by decide)
  | syncInEdge _ => exact (execSyncInEdge_touches (fun _ h => h) (.refl _ s)).guarded hP hs (by decide)
  | syncInHoldover => exact (execSyncInHoldover_touches (fun _ h => h) (.refl _ s)).guarded hP hs (by decide)
  | eyeCtrlArm _ _ => exact (execEyeCtrlArm_touches (fun _ h => h) (.refl _ s)).guarded hP hs (by decide)
  | eyeCtrlDisarm _ _ => exact (execEyeCtrlDisarm_touches (fun _ h => h) (.refl _ s)).guarded hP hs (by decide)
  | eyeParamWrite _ _ _ _ => exact (execEyeParamWrite_touches (fun _ h => h) (.refl _ s)).guarded hP hs (by decide)
  | eyeAssertEdge _ => exact (execEyeAssertEdge_touches (fun _ h => h) (.refl _ s)).guarded hP hs (by decide)
  | eyePulseEnd _ => exact (execEyePulseEnd_touches (fun _ h => h) (.refl _ s)).guarded hP hs (by decide)
  | captureEdge _ _ _ _ => exact (execCaptureEdge_touches (fun _ h => h) (.refl _ s)).guarded hP hs (by decide)
  | capRead _ _ => exact (execCapRead_touches (fun _ h => h) (.refl _ s)).guarded hP hs (by decide)
  | plovanOpen port sub mac src srcPort p => exact .next (hs.plvCommand ..)
  | plovanClose port sub mac src srcPort p => exact .next (hs.plvCommand ..)
  | plovanKeepalive port sub mac src srcPort p => exact .next (hs.plvCommand ..)
  | plovanRead port sub mac src srcPort p => exact .next (hs.plvCommand ..)
  | plovanWrite port sub mac src srcPort p => exact .next (hs.plvCommand ..)
  | plovanDescribe port sub mac src srcPort p => exact .next (hs.plvCommand ..)
  | plovanSubscribe port sub mac src srcPort p => exact .next (hs.plvCommand ..)
  | plovanUnsubscribe port sub mac src srcPort p => exact .next (hs.plvCommand ..)
  | sessionTimeout n => exact hP.sessionTimeout hs n
  | ssClose acc n => exact hP.ssClose hs acc n
  | plvKeySet acc v => exact hP.plvKeySet hs acc v
  | windowRead _ _ _ => exact (execWindowRead_touches (fun _ h => h) (.refl _ s)).guarded hP hs (by decide)
  | windowWrite f3 dword be v => exact .next (hs.windowWrite ..)
  | latchWrite _ _ _ _ => exact (execLatchWrite_touches (fun _ h => h) (.refl _ s)).guarded hP hs (by decide)
  | parameterWrite acc index sub data => exact .next (hP.writeId hs acc ..)
  | keepWrite => exact (execKeepWrite_touches (fun _ h => h) (.refl _ s)).guarded hP hs (by decide)
  | keepRetry => exact (execKeepRetry_touches (fun _ h => h) (.refl _ s)).guarded hP hs (by decide)
  | nqSignal _ => exact (execNqSignal_touches (fun _ h => h) (.refl _ s)).guarded hP hs (by decide)
  | nqRead _ _ => exact (execNqRead_touches (fun _ h => h) (.refl _ s)).guarded hP hs (by decide)
  | nqModeWrite _ _ _ => exact (execNqModeWrite_touches (fun _ h => h) (.refl _ s)).guarded hP hs (by decide)
  | odFactory _ => exact (execOdFactory_touches (fun _ h => h) (.refl _ s)).guarded hP hs (by decide)
  | refclkLoss => exact (execRefclkLoss_touches (fun _ h => h) (.refl _ s)).guarded hP hs (by decide)
  | refclkReturn => exact (execRefclkReturn_touches (fun _ h => h) (.refl _ s)).guarded hP hs (by decide)
  | backupPeriodMeasure _ =>
    exact (execBackupPeriodMeasure_touches (fun _ h => h) (.refl _ s)).guarded hP hs (by decide)
  | vcoSettled _ => exact (execVcoSettled_touches (fun _ h => h) (.refl _ s)).guarded hP hs (by decide)
  | bandSearchDone _ _ => exact (execBandSearchDone_touches (fun _ h => h) (.refl _ s)).guarded hP hs (by decide)
  | pllLocked _ => exact (execPllLocked_touches (fun _ h => h) (.refl _ s)).guarded hP hs (by decide)
  | acquireTimeout _ => exact (execAcquireTimeout_touches (fun _ h => h) (.refl _ s)).guarded hP hs (by decide)
  | pllRetry _ => exact (execPllRetry_touches (fun _ h => h) (.refl _ s)).guarded hP hs (by decide)
  | pllUnlock _ => exact (execPllUnlock_touches (fun _ h => h) (.refl _ s)).guarded hP hs (by decide)
  | ckMarginWrite _ _ _ => exact (execCkMarginWrite_touches (fun _ h => h) (.refl _ s)).guarded hP hs (by decide)
  | ckRelock _ _ => exact (execCkRelock_touches (fun _ h => h) (.refl _ s)).guarded hP hs (by decide)
  | sscRampEnd _ => exact (execSscRampEnd_touches (fun _ h => h) (.refl _ s)).guarded hP hs (by decide)
  | ckSyncArm _ => exact (execCkSyncArm_touches (fun _ h => h) (.refl _ s)).guarded hP hs (by decide)
  | thermalSample die diodes rails =>
    exact (execThermalSample_touches (die := die) (diodes := diodes) (rails := rails)
      (fun _ h => h) (.refl _ s)).guarded hP hs (by decide)
  | thermalGraceExpire => exact (execThermalGraceExpire_touches (fun _ h => h) (.refl _ s)).guarded hP hs (by decide)
  | thStageMaxWrite _ _ => exact (execThStageMaxWrite_touches (fun _ h => h) (.refl _ s)).guarded hP hs (by decide)
  | thShutWrite _ _ _ => exact (execThShutWrite_touches (fun _ h => h) (.refl _ s)).guarded hP hs (by decide)
  | hardwareShutdown => exact (execHardwareShutdown_touches (fun _ h => h) (.refl _ s)).guarded hP hs (by decide)
  | thermalRestart => exact hs.thermalRestart
  | keeperWriteStart _ => exact (execKeeperWriteStart_touches (fun _ h => h) (.refl _ s)).guarded hP hs (by decide)
  | keeperWriteDone _ => exact (execKeeperWriteDone_touches (fun _ h => h) (.refl _ s)).guarded hP hs (by decide)
  | triwordVote _ => exact (execTriwordVote_touches (fun _ h => h) (.refl _ s)).guarded hP hs (by decide)
  | keeperScrub _ => exact (execKeeperScrub_touches (fun _ h => h) (.refl _ s)).guarded hP hs (by decide)
  | kpProtectWrite _ _ => exact (execKpProtectWrite_touches (fun _ h => h) (.refl _ s)).guarded hP hs (by decide)
  | insoleUpdateStart => exact (execInsoleUpdateStart_touches (fun _ h => h) (.refl _ s)).guarded hP hs (by decide)
  | insoleFrame => exact (execInsoleFrame_touches (fun _ h => h) (.refl _ s)).guarded hP hs (by decide)
  | insoleUpdateEnd => exact (execInsoleUpdateEnd_touches (fun _ h => h) (.refl _ s)).guarded hP hs (by decide)
  | insoleImageWrite _ _ => exact (execInsoleImageWrite_touches (fun _ h => h) (.refl _ s)).guarded hP hs (by decide)
  | pwrFailLow => exact (execPwrFailLow_touches (fun _ h => h) (.refl _ s)).guarded hP hs (by decide)
  | insEnableDisable _ => exact (execInsEnableDisable_touches (fun _ h => h) (.refl _ s)).guarded hP hs (by decide)
  | insEnableResume _ => exact (execInsEnableResume_touches (fun _ h => h) (.refl _ s)).guarded hP hs (by decide)
  | seamLoopSample _ _ => exact (execSeamLoopSample_touches (fun _ h => h) (.refl _ s)).guarded hP hs (by decide)
  | smClear _ _ => exact (execSmClear_touches (fun _ h => h) (.refl _ s)).guarded hP hs (by decide)
  | smPolicyWrite _ _ _ => exact (execSmPolicyWrite_touches (fun _ h => h) (.refl _ s)).guarded hP hs (by decide)
  | smEnableWrite _ _ _ => exact (execSmEnableWrite_touches (fun _ h => h) (.refl _ s)).guarded hP hs (by decide)
  | powerReset boot defaultsN groups => exact .next (State.afterReset_noMessage _ _ _)
  | deviceReset boot defaultsN => exact .next (s.deviceReset_noMessage _)
  | svReset acc boot defaultsN => exact hs.svReset acc boot defaultsN
  | warmRestart => exact .next ((hP.send hs []).warmRestart 0xFF)
  | pcieReset => exact hs.pcieReset
  | firmwareRunning version k failed => exact hs.firmwareRunning version k failed
  | startupDarkLimit _ => exact (execStartupDarkLimit_touches (fun _ h => h) (.refl _ s)).guarded hP hs (by decide)
  | watchdogTimeout core => exact .next ((hP.send hs []).warmRestart 1)
  | fwProgram _ => exact (execFwProgram_touches (fun _ h => h) (.refl _ s)).guarded hP hs (by decide)
  | fwProgramDone _ _ _ => exact (execFwProgramDone_touches (fun _ h => h) (.refl _ s)).guarded hP hs (by decide)
  | fwSwitchTrial acc => exact hP.fwSwitchTrial hs acc
  | fwSwitchCommit acc => exact hP.fwSwitchCommit hs acc
  | fwSwitchRestart acc => exact hP.fwSwitchRestart hs acc
  | trialTimeout => exact .ite (.next ((hP.send hs []).warmRestart 2)) (.next hs)
  | lifetimeMinute => exact (execLifetimeMinute_touches (fun _ h => h) (.refl _ s)).guarded hP hs (by decide)
  | lifetimeHourWrite => exact (execLifetimeHourWrite_touches (fun _ h => h) (.refl _ s)).guarded hP hs (by decide)
  | smbReadJunction => exact (execSmbReadJunction_touches (fun _ h => h) (.refl _ s)).guarded hP hs (by decide)
  | smbReadPower => exact (execSmbReadPower_touches (fun _ h => h) (.refl _ s)).guarded hP hs (by decide)
  | smbReadStatus => exact (execSmbReadStatus_touches (fun _ h => h) (.refl _ s)).guarded hP hs (by decide)
  | smbReadPeak => exact (execSmbReadPeak_touches (fun _ h => h) (.refl _ s)).guarded hP hs (by decide)
  | smbReadSerial => exact (execSmbReadSerial_touches (fun _ h => h) (.refl _ s)).guarded hP hs (by decide)
  | smbAlertResponse => exact (execSmbAlertResponse_touches (fun _ h => h) (.refl _ s)).guarded hP hs (by decide)
  | pwrFailHigh => exact (execPwrFailHigh_touches (fun _ h => h) (.refl _ s)).guarded hP hs (by decide)
  | pcieLinkUp _ _ _ => exact (execPcieLinkUp_touches (fun _ h => h) (.refl _ s)).guarded hP hs (by decide)
  | egressFrameSent _ _ => exact (execEgressFrameSent_touches (fun _ h => h) (.refl _ s)).guarded hP hs (by decide)
  | msixEnable _ => exact (execMsixEnable_touches (fun _ h => h) (.refl _ s)).guarded hP hs (by decide)
  | sscRelockRamp _ => exact (execSscRelockRamp_touches (fun _ h => h) (.refl _ s)).guarded hP hs (by decide)
/-- Settles O5: a cycle where no command waits, and the front command on the rest of the queue elsewhere. -/
theorem stepKeepsNoMessage : Obligations.StepKeepsNoMessage := by
  intro s t hs hstep
  unfold step at hstep
  split at hstep
  case h_1 =>
    obtain rfl := Host.Outcome.next.inj hstep
    exact (State.tick_touches (fun _ h => h) (.refl _ s)).guarded noMessage_guarded hs (by decide)
  case h_2 c rest _ =>
    have hrest : State.NoMessage { s with pending := rest } := hs
    obtain ⟨u, hu, hnone⟩ := exec_noMessage c hrest
    obtain rfl := Host.Outcome.next.inj (hu.symm.trans hstep)
    exact hnone

end Sys2Proof.Machine
end

section
/-! The masters in view and the one followed (R358, R359, R361). -/
namespace Sys2Proof.Machine

section
variable (s : State)

/-! ## The state of the ports -/

/-- Both ports show their states. -/
def State.showPorts : State := (s.showPort 0).showPort 1

theorem State.showPorts_frame : Touches [.reg .PP_STATE] s s.showPorts :=
  State.setReg_touches (by simp) (State.setReg_touches (by simp) (.refl _ s))

/-! ## A master is chosen (R359) -/

/-- A master is followed; the discipline counts anew where it is another one. -/
def State.masterTaken (m : ForeignMaster) : State :=
  let shown := ((((s.setReg .PTP_SLAVE_PORT 0 m.port).setReg .iPTP_SOURCE 0 m.source).setReg .PTP_GM_ID 0 m.gm).setReg
    .PTP_UTC_OFFSET 0 m.utc).showPorts
  if s.reg .PTP_SLAVE_PORT 0 == m.port && s.reg .iPTP_SOURCE 0 == m.source then shown
  else (shown.setReg .iPTP_FIRST 0 1).setReg .iPTP_RUN 0 0

/-- The registers that taking a master writes after those that show it. -/
def takenSide : List Reg := [.PP_STATE, .iPTP_FIRST, .iPTP_RUN]

theorem State.masterTaken_frame (m : ForeignMaster) : Touches (Sys2Proof.Machine.regs takenSide)
    ((((s.setReg .PTP_SLAVE_PORT 0 m.port).setReg .iPTP_SOURCE 0 m.source).setReg .PTP_GM_ID 0 m.gm).setReg
      .PTP_UTC_OFFSET 0 m.utc) (s.masterTaken m) := by
  unfold State.masterTaken
  generalize (((s.setReg .PTP_SLAVE_PORT 0 m.port).setReg .iPTP_SOURCE 0 m.source).setReg .PTP_GM_ID 0 m.gm).setReg
    .PTP_UTC_OFFSET 0 m.utc = u
  have hports : Touches (Sys2Proof.Machine.regs takenSide) u u.showPorts := u.showPorts_frame.mono (by decide)
  exact .ite hports (State.setReg_touches (by decide) (State.setReg_touches (by decide) hports))

/-- The master taken is shown, and the discipline's state stays. -/
theorem State.masterTaken_shows (m : ForeignMaster) :
    let t := s.masterTaken m
    t.Holds .PTP_SLAVE_PORT 0 m.port ∧ t.Holds .PTP_GM_ID 0 m.gm ∧ t.Holds .PTP_UTC_OFFSET 0 m.utc ∧
    t.reg .iSERVO 0 = s.reg .iSERVO 0 ∧ t.reg .CK_STATE 5 = s.reg .CK_STATE 5 ∧ t.foreign = s.foreign := by
  have hframe := s.masterTaken_frame m
  have hreg (q : Reg) (i : Nat) (hq : Part.reg q ∉ Sys2Proof.Machine.regs takenSide) :=
    hframe.reg q i hq (by decide)
  refine ⟨?_, ?_, ?_, ?_, ?_, hframe.fld .foreign (by decide) (by decide)⟩
  · unfold State.Holds
    rw [hreg _ _ (by decide), State.setReg_reg_of_ne _ _ _ _ (by decide), State.setReg_reg_of_ne _ _ _ _ (by decide),
      State.setReg_reg_of_ne _ _ _ _ (by decide), State.setReg_reg_self]
  · unfold State.Holds
    rw [hreg _ _ (by decide), State.setReg_reg_of_ne _ _ _ _ (by decide), State.setReg_reg_self]
  · unfold State.Holds
    rw [hreg _ _ (by decide), State.setReg_reg_self]
  · rw [hreg _ _ (by decide)]
    simp only [State.setReg_reg_of_ne, ne_eq, reduceCtorEq, not_false_eq_true]
  · rw [hreg _ _ (by decide)]
    simp only [State.setReg_reg_of_ne, ne_eq, reduceCtorEq, not_false_eq_true]

theorem State.selectMaster_eq : s.selectMaster =
    if s.reg .PTP_ENABLE 0 = 0 then s.showPorts
    else match s.bestMaster with
    | none => s.showPorts
    | some m =>
      if (s.masterTaken m).reg .CK_STATE 5 = 3 ∧
          ((s.masterTaken m).reg .iSERVO 0 = 0 ∨ (s.masterTaken m).reg .iSERVO 0 = 3) then
        (s.masterTaken m).discAcquire false
      else s.masterTaken m := rfl

/-- A discipline of PTP that begins to acquire writes its own registers. -/
theorem State.discAcquire_ptp :
    Touches [.reg .iSERVO, .reg .iPTP_RUN, .reg .iPTP_FIRST, .reg .PTP_STATE] s (s.discAcquire false) :=
  ((State.setReg_touches (by decide) (State.setReg_touches (by decide) (State.setReg_touches (by decide)
    (.refl _ s)))) : Touches _ s ((s.putDisc false 1 0).setReg .iPTP_FIRST 0 1)).after (by decide)
    (State.showServo_shows _)

theorem State.discAcquire_servo : (s.discAcquire false).reg .iSERVO 0 = 1 := (Prod.mk.inj (s.discAcquire_disc false)).1

theorem State.selectMaster_foreign : s.selectMaster.foreign = s.foreign :=
  (State.selectMaster_touches (W := State.selectMaster_foot) (fun _ h => h) (.refl _ s)).fld .foreign (by decide) (by decide)

/-- The best master in view is followed (R359, R361). -/
theorem State.selectMaster_follows {m : ForeignMaster} (hon : s.reg .PTP_ENABLE 0 ≠ 0) (hbest : s.bestMaster = some m) :
    Follows s s.selectMaster m := by
  obtain ⟨hport, hgm, hutc, hservo, hpll, -⟩ := s.masterTaken_shows m
  rw [State.selectMaster_eq, if_neg hon, hbest]
  dsimp only
  rw [hpll, hservo]
  unfold Follows
  split
  · have hstart := (s.masterTaken m).discAcquire_ptp
    exact ⟨(hstart.reg _ _ (by decide) (by decide)).trans hport, (hstart.reg _ _ (by decide) (by decide)).trans hgm,
      (hstart.reg _ _ (by decide) (by decide)).trans hutc, State.discAcquire_servo _⟩
  · exact ⟨hport, hgm, hutc, hservo⟩

/-- Without a master in view that qualifies the clock keeps its place (R359). -/
theorem State.selectMaster_stays (hbest : s.bestMaster = none) : s.selectMaster = s.showPorts := by
  rw [State.selectMaster_eq, hbest]
  exact ite_self _

/-! ## No master is left (R359, R361) -/

/-- No port leads to a master. -/
def State.portsLost : State := ((s.setReg .PTP_SLAVE_PORT 0 0xFF).setReg .iPTP_SOURCE 0 0).showPorts

theorem State.portsLost_frame : Touches [.reg .PTP_SLAVE_PORT, .reg .iPTP_SOURCE, .reg .PP_STATE] s s.portsLost :=
  ((State.setReg_touches (by decide) (State.setReg_touches (by decide) (.refl _ s))) : Touches _ s
    ((s.setReg .PTP_SLAVE_PORT 0 0xFF).setReg .iPTP_SOURCE 0 0)).after (by decide) (State.showPorts_frame _)

theorem State.portsLost_slave : s.portsLost.reg .PTP_SLAVE_PORT 0 = 0xFF := by
  unfold State.portsLost
  rw [(State.showPorts_frame _).reg _ _ (by decide) (by decide), State.setReg_reg_of_ne _ _ _ _ (by decide)]
  exact State.setReg_reg_of_lt _ _ _ (by decide)

theorem State.masterLost_eq : s.masterLost =
    if s.portsLost.reg .iSERVO 0 = 2 then s.portsLost.discHoldover false else s.portsLost := rfl

/-- TB_RATE is held at its mean where PTP acts on the timebase and is LOCKED. -/
def State.rateHeld : State :=
  if s.disciplines false ∧ s.reg .iSERVO 0 = 2 then s.setRegInt .TB_RATE 0 s.rateMean else s

theorem State.rateHeld_frame : Touches [.reg .TB_RATE] s s.rateHeld :=
  .ite (State.setReg_touches (by simp) (.refl _ s)) (.refl _ s)

theorem State.discHoldover_eq : s.discHoldover false = (s.rateHeld.putDisc false 3 0).showServo.raise Code.ptpHoldover
    (some ((s.rateHeld.putDisc false 3 0).reg .PTP_QUEUE 0)) [(64, (s.rateHeld.putDisc false 3 0).reg .PTP_GM_ID 0)] := rfl

/-- The servo of PTP enters HOLDOVER, which is reported with the grandmaster. -/
theorem State.discHoldover_ptp :
    (s.discHoldover false).reg .iSERVO 0 = 3 ∧ (s.discHoldover false).reg .PTP_SLAVE_PORT 0 = s.reg .PTP_SLAVE_PORT 0 ∧
    (s.discHoldover false).lastEvent = some (Code.ptpHoldover, packBits [(64, s.reg .PTP_GM_ID 0)]) := by
  have hheld := s.rateHeld_frame
  rw [State.discHoldover_eq]
  generalize s.rateHeld = u at hheld
  have hput : Touches [.reg .iSERVO, .reg .iPTP_RUN] u (u.putDisc false 3 0) :=
    State.setReg_touches (by decide) (State.setReg_touches (by decide) (.refl _ u))
  have hservo : (u.putDisc false 3 0).reg .iSERVO 0 = 3 :=
    (Prod.mk.inj (u.putDisc_disc false (st := 3) (run := 0) (by decide) (by decide))).1
  generalize u.putDisc false 3 0 = v at hput hservo
  have hraise := State.raise_touches (W := State.raise_foot) (code := Code.ptpHoldover)
    (unit := some (v.reg .PTP_QUEUE 0)) (args := [(64, v.reg .PTP_GM_ID 0)]) (fun _ h => h) (.refl _ v.showServo)
  have hend := (State.showServo_shows v).append hraise
  refine ⟨(hend.reg _ _ (by decide) (by decide)).trans hservo, ?_, ?_⟩
  · rw [hend.reg _ _ (by decide) (by decide), hput.reg _ _ (by decide) (by decide), hheld.reg _ _ (by decide) (by decide)]
  · rw [State.raise_lastEvent, hput.reg _ _ (by decide) (by decide), hheld.reg _ _ (by decide) (by decide)]

theorem State.masterLost_lost :
    let t := s.masterLost
    t.reg .PTP_SLAVE_PORT 0 = 0xFF ∧ t.foreign = s.foreign ∧
    if s.reg .iSERVO 0 = 2 then t.reg .iSERVO 0 = 3 ∧
      t.lastEvent = some (Code.ptpHoldover, packBits [(64, s.reg .PTP_GM_ID 0)])
    else t.reg .iSERVO 0 = s.reg .iSERVO 0 := by
  have hforeign : s.masterLost.foreign = s.foreign :=
    (State.masterLost_touches (W := State.masterLost_foot) (fun _ h => h) (.refl _ s)).fld .foreign (by decide) (by decide)
  have hports := s.portsLost_frame
  have hslave := s.portsLost_slave
  dsimp only
  rw [hforeign, State.masterLost_eq]
  generalize s.portsLost = u at hports hslave
  rw [hports.reg .iSERVO 0 (by decide) (by decide)]
  by_cases hlocked : s.reg .iSERVO 0 = 2
  · obtain ⟨hservo, hstay, hevent⟩ := u.discHoldover_ptp
    rw [if_pos hlocked, if_pos hlocked, ← hports.reg .PTP_GM_ID 0 (by decide) (by decide)]
    exact ⟨hstay.trans hslave, rfl, hservo, hevent⟩
  · rw [if_neg hlocked, if_neg hlocked]
    exact ⟨hslave, rfl, hports.reg _ _ (by decide) (by decide)⟩

end

/-! ## The commands -/

/-- PTP_ANNOUNCE (R358, R359). -/
theorem ptpAnnounce_completes (port : Fin 2) (a : Announce) (s : State) :
    let p := port.val
    let m := masterOf s p a
    let view := s.foreign.filter (fun x => !(x.port == p && x.source == m.source)) ++ [m]
    if s.reg .PP_ENABLE p = 0 ∨ s.linkUp p 0 = false ∨ s.ptpTaken a.head = false ∨ 255 ≤ a.steps.toNat then
      exec (.ptpAnnounce port a) s = .next s
    else
      ∃ t, exec (.ptpAnnounce port a) s = .next t ∧ Touches Changes.ptpAnnounce s t ∧
        t.foreign = view ∧ (s.reg .PTP_ENABLE 0 ≠ 0 →
          match ({ s with foreign := view } : State).bestMaster with
          | some b => Follows s t b
          | none => t.reg .PTP_SLAVE_PORT 0 = s.reg .PTP_SLAVE_PORT 0 ∧ t.reg .PTP_GM_ID 0 = s.reg .PTP_GM_ID 0 ∧
            t.reg .iSERVO 0 = s.reg .iSERVO 0) := by
  intro p m view
  refine completes_unless (t := ({ s with foreign := view } : State).selectMaster) rfl
    (execPtpAnnounce_touches (by decide) (.refl _ s)) fun _ => ⟨State.selectMaster_foreign _, fun hon => ?_⟩
  have hon' : ({ s with foreign := view } : State).reg .PTP_ENABLE 0 ≠ 0 := hon
  have hreg (q : Reg) : ({ s with foreign := view } : State).reg q = s.reg q := rfl
  have hfollows {b : ForeignMaster} {t : State} (h : Follows { s with foreign := view } t b) : Follows s t b := h
  generalize ({ s with foreign := view } : State) = u at hon' hreg hfollows
  cases hbest : u.bestMaster with
  | some b => exact hfollows (u.selectMaster_follows hon' hbest)
  | none =>
    have hports := u.showPorts_frame
    simp only [← hreg]
    rw [u.selectMaster_stays hbest]
    exact ⟨hports.reg _ _ (by decide) (by decide), hports.reg _ _ (by decide) (by decide),
      hports.reg _ _ (by decide) (by decide)⟩

/-- PTP_ANNOUNCE_TIMEOUT (R359, R361). -/
theorem ptpAnnounceTimeout_completes (port : Fin 2) (s : State) :
    let stale (m : ForeignMaster) := m.port == port.val && s.masterStale m
    let u : State := { s with foreign := s.foreign.filter (fun m => !stale m) }
    ∃ t, exec (.ptpAnnounceTimeout port) s = .next t ∧ Touches Changes.ptpAnnounceTimeout s t ∧
      (t.foreign = u.foreign ∧
       if s.foreign.any (fun m => stale m && s.reg .PTP_SLAVE_PORT 0 == m.port && s.reg .iPTP_SOURCE 0 == m.source) =
           true
       then match u.bestMaster with
         | some b => s.reg .PTP_ENABLE 0 ≠ 0 → Follows s t b
         | none => t.reg .PTP_SLAVE_PORT 0 = 0xFF ∧
           if s.reg .iSERVO 0 = 2 then t.reg .iSERVO 0 = 3 ∧
             t.lastEvent = some (Code.ptpHoldover, packBits [(64, s.reg .PTP_GM_ID 0)])
           else t.reg .iSERVO 0 = s.reg .iSERVO 0
       else t = u) := by
  intro stale u
  obtain ⟨t, ht, hT⟩ := execPtpAnnounceTimeout_touches (W := Changes.ptpAnnounceTimeout) (port := port) (by decide)
    (.refl _ s)
  refine ⟨t, ht, hT, ?_⟩
  have hreg (q : Reg) : u.reg q = s.reg q := rfl
  have hfollows {b : ForeignMaster} {t : State} (h : Follows u t b) : Follows s t b := h
  unfold execPtpAnnounceTimeout at ht
  change (if s.foreign.any (fun m => stale m && s.reg .PTP_SLAVE_PORT 0 == m.port && s.reg .iPTP_SOURCE 0 == m.source) =
    true then (match u.bestMaster with
      | some _ => .next u.selectMaster
      | none => .next u.masterLost) else .next u) = Host.Outcome.next t at ht
  generalize u = u at *
  by_cases hused : s.foreign.any (fun m => stale m && s.reg .PTP_SLAVE_PORT 0 == m.port &&
      s.reg .iPTP_SOURCE 0 == m.source) = true
  · rw [if_pos hused] at ht ⊢
    cases hbest : u.bestMaster with
    | some b =>
      rw [hbest] at ht
      obtain rfl := Host.Outcome.next.inj ht
      exact ⟨u.selectMaster_foreign, fun hon => hfollows (u.selectMaster_follows (hreg .PTP_ENABLE ▸ hon) hbest)⟩
    | none =>
      rw [hbest] at ht
      obtain rfl := Host.Outcome.next.inj ht
      obtain ⟨hport, hforeign, hservo⟩ := u.masterLost_lost
      rw [hreg, hreg] at hservo
      exact ⟨hforeign, hport, hservo⟩
  · rw [if_neg hused] at ht ⊢
    obtain rfl := Host.Outcome.next.inj ht
    exact ⟨rfl, rfl⟩

end Sys2Proof.Machine
end

section
/-! The messages of PTP: Sync, and those of the two delay mechanisms (R358, R360, R361, R365). -/
namespace Sys2Proof.Machine

/-! ## Sync (R358, R360, R361) -/

section
variable (s : State) (offset : Int)

/-- A value written with a sign is what the register holds of it. -/
theorem State.setRegInt_holds (r : Reg) (i : Nat) (v : Int) : (s.setRegInt r i v).reg r i = ofInt r.width v := by
  unfold State.setRegInt
  rw [State.setReg_reg_self, Nat.mod_eq_of_lt (ofInt_lt _ _)]

/-- The first offset of an acquisition. -/
abbrev State.firstOffset : Prop := s.reg .iSERVO 0 = 0 ∨ s.reg .iSERVO 0 = 3 ∨ s.reg .iPTP_FIRST 0 = 1

theorem State.discStarted_ptp :
    Touches [.reg .iSERVO, .reg .iPTP_RUN, .reg .iPTP_FIRST, .reg .PTP_STATE] s (s.discStarted false) :=
  .ite s.discAcquire_ptp (.refl _ s)

theorem State.discStarted_first : (s.discStarted false).reg .iPTP_FIRST 0 = 1 ↔ s.firstOffset := by
  unfold State.discStarted State.firstOffset
  rw [← or_assoc]
  split
  case isTrue h =>
    refine iff_of_true ?_ (.inl h)
    exact Eq.trans ((State.showServo_shows _).reg _ _ (by decide) (by decide)) (State.setReg_reg_of_lt _ _ _ (by decide))
  case isFalse h => exact ⟨.inr, fun hor => hor.resolve_left h⟩

/-- An offset of PTP acts where PTP is the source: the first one by a step where it exceeds the limit, any other by the PI
loop. -/
theorem State.discActed_ptp : s.discActed false offset =
    if s.reg .TB_SOURCE 0 = 0 then
      if s.reg .iPTP_FIRST 0 = 1 ∧ s.reg .PTP_STEP_LIMIT 0 * 65536 ≠ 0 ∧
          s.reg .PTP_STEP_LIMIT 0 * 65536 < offset.natAbs then
        (s.setReg .iPTP_FIRST 0 0).stepTime (-(offset * 2 ^ 32))
      else (s.setReg .iPTP_FIRST 0 0).slew
    else s.setReg .iPTP_FIRST 0 0 := by
  have hsource : (s.setReg .iPTP_FIRST 0 0).disciplines false = decide (s.reg .TB_SOURCE 0 = 0) := by
    unfold State.disciplines
    rw [State.setReg_reg_of_ne _ _ _ _ (by decide)]
    exact beq_eq_decide ..
  have hcond : s.cond (!false) (·.setReg .iPTP_FIRST 0 0) = s.setReg .iPTP_FIRST 0 0 := rfl
  unfold State.discActed
  rw [hcond]
  dsimp only
  rw [hsource]
  simp only [decide_eq_true_eq, Bool.not_false, Bool.true_and, Bool.and_eq_true, beq_iff_eq, bne_iff_ne, ne_eq,
    and_assoc]

theorem State.discActed_after : Touches (State.stepTime_foot ++ State.slew_foot) (s.setReg .iPTP_FIRST 0 0)
    (s.discActed false offset) := by
  rw [State.discActed_ptp]
  exact .ite (.ite ((State.stepTime_frame _ _).mono fun _ => List.mem_append_left _)
    ((State.slew_frame _).mono fun _ => List.mem_append_right _)) (.refl _ _)

/-- The offset and the time between the stamps are kept. -/
def State.offsetNoted (diff : Int) : State := (s.setRegInt .PTP_OFFSET 0 offset).setRegInt .iPTP_DIFF 0 diff

theorem State.offsetNoted_frame (diff : Int) : Touches [.reg .PTP_OFFSET, .reg .iPTP_DIFF] s (s.offsetNoted offset diff) :=
  State.setRegInt_touches (by simp) (State.setRegInt_touches (by simp) (.refl _ s))

theorem State.offsetNoted_offset (diff : Int) :
    (s.offsetNoted offset diff).reg .PTP_OFFSET 0 = ofInt Reg.PTP_OFFSET.width offset :=
  (State.setReg_reg_of_ne _ _ _ _ (by decide)).trans (s.setRegInt_holds ..)

/-- What an offset does to the timebase (R361). -/
theorem State.discOffset_time :
    let t := (s.discStarted false).discOffset false offset
    let limit := s.reg .PTP_STEP_LIMIT 0 * 65536
    if s.reg .TB_SOURCE 0 ≠ 0 then t.tb = s.tb
    else if s.firstOffset ∧ limit ≠ 0 ∧ limit < offset.natAbs then t.tb = s.stepped (-(offset * 2 ^ 32))
    else t.tb = s.tb ∧ SlewKept s t := by
  have hstart := s.discStarted_ptp
  have hfirst := s.discStarted_first
  dsimp only
  generalize s.discStarted false = v at hstart hfirst
  have hjudge := (v.discActed false offset).discJudged_frame false offset
  rw [State.discOffset_eq]
  generalize (v.discActed false offset).discJudged false offset = t at hjudge
  simp only [State.discActed_ptp, hfirst, hstart.reg .TB_SOURCE 0 (by decide) (by decide),
    hstart.reg .PTP_STEP_LIMIT 0 (by decide) (by decide)] at hjudge
  have hcleared : Touches [.reg .iPTP_FIRST] v (v.setReg .iPTP_FIRST 0 0) := State.setReg_touches (by simp) (.refl _ v)
  have hbefore := hstart.append hcleared
  generalize v.setReg .iPTP_FIRST 0 0 = w at hcleared hbefore hjudge
  have htime := (hbefore.time (by decide)).1
  by_cases hsource : s.reg .TB_SOURCE 0 = 0
  · rw [if_pos hsource] at hjudge
    rw [if_neg (by simpa using hsource)]
    by_cases hstep : s.firstOffset ∧ s.reg .PTP_STEP_LIMIT 0 * 65536 ≠ 0 ∧
        s.reg .PTP_STEP_LIMIT 0 * 65536 < offset.natAbs
    · rw [if_pos hstep] at hjudge ⊢
      rw [(hjudge.time (by decide)).1, State.stepTime_tb, State.stepped, State.stepped, htime]
    · rw [if_neg hstep] at hjudge ⊢
      have hkept := w.slew_kept.of_touches hbefore (by decide) (by decide)
      refine ⟨by rw [(hjudge.time (by decide)).1, (w.slew_frame.time (by decide)).1, htime], ?_⟩
      unfold SlewKept State.regInt at hkept ⊢
      rwa [hjudge.reg _ _ (by decide) (by decide)]
  · rw [if_neg hsource] at hjudge
    rw [if_pos hsource, (hjudge.time (by decide)).1, htime]

/-- An offset of PTP is the first no more. -/
theorem State.discOffset_notFirst : (s.discOffset false offset).reg .iPTP_FIRST 0 = 0 := by
  rw [State.discOffset_eq, (State.discJudged_frame _ false offset).reg _ _ (by decide) (by decide),
    (s.discActed_after offset).reg _ _ (by decide) (by decide), State.setReg_reg_self]
  rfl

end

/-- PTP_SYNC (R358, R360, R361). -/
theorem ptpSync_completes (port : Fin 2) (h : PtpHead) (source : BitVec 80) (log : BitVec 8) (t1 : Nat) (corr : Int)
    (t2 : Nat) (s : State) :
    let p := port.val
    let offset : Int := (t2 : Int) - t1 - corr - s.asym p - s.pathDelay p
    let limit := s.reg .PTP_STEP_LIMIT 0 * 65536
    let first := s.reg .iSERVO 0 = 0 ∨ s.reg .iSERVO 0 = 3 ∨ s.reg .iPTP_FIRST 0 = 1
    if s.ptpTaken h = false ∨ s.syncUsed p source.toNat log.toInt = false then
      exec (.ptpSync port h source log t1 corr t2) s = .next s
    else
      ∃ t, exec (.ptpSync port h source log t1 corr t2) s = .next t ∧ Touches Changes.ptpSync s t ∧
        t.reg .PTP_OFFSET 0 = ofInt Reg.PTP_OFFSET.width offset ∧ t.reg .iPTP_FIRST 0 = 0 ∧
        Disciplined s t false offset ∧
        if s.reg .TB_SOURCE 0 ≠ 0 then t.tb = s.tb
        else if first ∧ limit ≠ 0 ∧ limit < offset.natAbs then t.tb = s.stepped (-(offset * 2 ^ 32))
        else t.tb = s.tb ∧ SlewKept s t := by
  intro p offset limit first
  refine completes_unless (t := ((s.offsetNoted offset ((t2 : Int) - t1 - corr)).discStarted false).discOffset false
    offset) rfl (execPtpSync_touches (by decide) (.refl _ s)) fun _ => ?_
  have hnoted := s.offsetNoted_frame offset ((t2 : Int) - t1 - corr)
  have hoffset := s.offsetNoted_offset offset ((t2 : Int) - t1 - corr)
  generalize s.offsetNoted offset ((t2 : Int) - t1 - corr) = u at hnoted hoffset
  generalize offset = x at *
  have hdisc := u.discStarted_disciplined false x
  have htime := u.discOffset_time x
  have hstart := u.discStarted_ptp
  have hnot := (u.discStarted false).discOffset_notFirst x
  have hrest := ((u.discStarted false).discActed_frame false x).append
    (((u.discStarted false).discActed false x).discJudged_frame false x)
  rw [← State.discOffset_eq] at hrest
  dsimp only at htime
  generalize (u.discStarted false).discOffset false x = t at *
  have hslew (hk : SlewKept u t) : SlewKept s t := hk.of_touches hnoted (by decide) (by decide)
  refine ⟨?_, hnot, hdisc.of_touches hnoted (by decide) (by decide) (by decide), ?_⟩
  · rw [hrest.reg _ _ (by decide) (by decide), hstart.reg _ _ (by decide) (by decide), hoffset]
  · unfold State.firstOffset State.stepped at htime
    rw [hnoted.reg .TB_SOURCE 0 (by decide) (by decide), hnoted.reg .PTP_STEP_LIMIT 0 (by decide) (by decide),
      hnoted.reg .iSERVO 0 (by decide) (by decide), hnoted.reg .iPTP_FIRST 0 (by decide) (by decide),
      (hnoted.time (by decide)).1] at htime
    split at htime
    · next hsource => rwa [if_pos hsource]
    next hsource =>
    rw [if_neg hsource]
    split at htime
    · next hstep =>
      rw [if_pos hstep]
      exact htime
    · next hstep =>
      rw [if_neg hstep]
      exact ⟨htime.1, hslew htime.2⟩

end Sys2Proof.Machine
end

section
/-! The messages of the two delay mechanisms, and the metadata of the grandmaster (R346, R358, R360, R365). -/
namespace Sys2Proof.Machine

section
variable (s : State)

/-! ## Messages that are sent (R346, R349) -/

theorem State.ptpSend_frame (p kind seq len : Nat) (fields : List Int) :
    Touches (flds [.sent, .egress, .waits]) s (s.ptpSend p kind seq len fields) :=
  State.ptpSend_touches (by decide) (.refl _ s)

theorem State.ptpSend_sent (p kind seq len : Nat) (fields : List Int) :
    (s.ptpSend p kind seq len fields).sent = s.sent ++ [.ptp p kind seq fields] := by
  unfold State.ptpSend
  have hown := State.sendOwn_touches (W := State.sendOwn_foot) (port := p) (sub := 0) (queue := s.reg .NET_PCP_PTP 0)
    (len := s.ptpLen len) (msg := .ptp p kind seq fields) (fun _ h => h)
    (.refl _ (s.sendMore [.ptp p kind seq fields]))
  exact hown.fld .sent (by decide) (by decide)

theorem State.linkUp_congr {t : State} {V : List Part} (h : Touches V s t) (hV : Part.reg .ETH_LINK ∉ V)
    (hany : Part.anyReg ∉ V) (p sub : Nat) : t.linkUp p sub = s.linkUp p sub :=
  congrArg (bit · sub) (h.reg .ETH_LINK p hV hany)

/-- A multicast message leaves on the ports whose links are up, in their order. -/
theorem State.ptpSendBoth_sent (kind seq len : Nat) : (s.ptpSendBoth kind seq len).sent =
    ((List.range 2).filter fun q => s.linkUp q 0).map fun q => .ptp q kind seq [] := by
  have hone (t : State) (p : Nat) : Touches (flds [.sent, .egress, .waits]) t
      (t.cond (t.linkUp p 0) fun u => u.ptpSend p kind seq len []) :=
    cond_touches (.refl _ t) fun u hu => State.ptpSend_touches (by decide) hu
  have hsent (t : State) (p : Nat) : (t.cond (t.linkUp p 0) fun u => u.ptpSend p kind seq len []).sent =
      t.sent ++ if t.linkUp p 0 then [.ptp p kind seq []] else [] := by
    unfold State.cond
    cases t.linkUp p 0
    · exact (List.append_nil _).symm
    · exact t.ptpSend_sent p kind seq len []
  have hboth : s.ptpSendBoth kind seq len =
      (((s.send []).cond ((s.send []).linkUp 0 0) fun u => u.ptpSend 0 kind seq len []).cond
        (((s.send []).cond ((s.send []).linkUp 0 0) fun u => u.ptpSend 0 kind seq len []).linkUp 1 0)
          fun u => u.ptpSend 1 kind seq len []) := rfl
  have hlink : ((s.send []).cond ((s.send []).linkUp 0 0) fun u => u.ptpSend 0 kind seq len []).linkUp 1 0 =
    s.linkUp 1 0 := State.linkUp_congr _ (hone (s.send []) 0) (by decide) (by decide) 1 0
  rw [hboth, hsent, hsent, hlink]
  change [] ++ (if s.linkUp 0 0 then _ else _) ++ _ = _
  cases h0 : s.linkUp 0 0 <;> cases h1 : s.linkUp 1 0 <;> simp [List.range_succ, h0, h1]

/-- A Delay_Req is on its way, and its answer awaited. -/
def State.delayAsked (seq t3 : Nat) : State :=
  (((s.setReg .iPTP_SEQ 0 seq).setReg .iPTP_T3 0 t3).setReg .iPTP_WAIT 0 1).setReg .iPTP_SENT 0 (s.clock + 1)

theorem State.delayAsked_frame (seq t3 : Nat) :
    Touches (Sys2Proof.Machine.regs [.iPTP_SENT, .iPTP_WAIT, .iPTP_T3, .iPTP_SEQ]) s (s.delayAsked seq t3) :=
  State.setReg_touches (by decide) (State.setReg_touches (by decide) (State.setReg_touches (by decide)
    (State.setReg_touches (by decide) (.refl _ s))))

theorem State.delayAsked_awaits {seq t3 : Nat} (hseq : seq < 65536) :
    (s.delayAsked seq t3).reg .iPTP_SEQ 0 = seq ∧ (s.delayAsked seq t3).Holds .iPTP_T3 0 t3 ∧
    (s.delayAsked seq t3).reg .iPTP_WAIT 0 = 1 := by
  unfold State.delayAsked State.Holds
  refine ⟨?_, ?_, (State.setReg_reg_of_ne _ _ _ _ (by decide)).trans (State.setReg_reg_of_lt _ _ _ (by decide))⟩
  · rw [State.setReg_reg_of_ne _ _ _ _ (by decide), State.setReg_reg_of_ne _ _ _ _ (by decide),
      State.setReg_reg_of_ne _ _ _ _ (by decide)]
    exact State.setReg_reg_of_lt _ _ _ hseq
  · rw [State.setReg_reg_of_ne _ _ _ _ (by decide), State.setReg_reg_of_ne _ _ _ _ (by decide),
      State.setReg_reg_self]

end

/-! ## The ordinary clock's delay (R358, R360) -/

/-- PTP_DELAY_REQ_SEND (R346, R358). -/
theorem ptpDelayReqSend_completes (t3 : Nat) (s : State) :
    let p := s.reg .PTP_SLAVE_PORT 0
    let seq := (s.reg .iPTP_SEQ 0 + 1) % 65536
    if s.reg .PTP_ENABLE 0 = 0 ∨ 1 < p ∨ s.reg .PTP_DELAY_MECH 0 = 1 ∨ s.linkUp p 0 = false ∨
         (s.reg .iPTP_SENT 0 ≠ 0 ∧
           s.clock + 1 < s.reg .iPTP_SENT 0 + logInterval (asInt 8 (s.reg .iPTP_EVERY 0))) then
      exec (.ptpDelayReqSend t3) s = .next s
    else
      ∃ t, exec (.ptpDelayReqSend t3) s = .next t ∧ Touches Changes.ptpDelayReqSend s t ∧
        t.reg .iPTP_SEQ 0 = seq ∧ t.Holds .iPTP_T3 0 t3 ∧ t.reg .iPTP_WAIT 0 = 1 ∧
        t.sent = ((List.range 2).filter (fun q => s.linkUp q 0)).map (fun q => .ptp q 1 seq []) := by
  intro p seq
  have hdue : (s.reg .iPTP_SENT 0 == 0 ||
      decide (s.reg .iPTP_SENT 0 + logInterval (asInt 8 (s.reg .iPTP_EVERY 0)) ≤ s.clock + 1)) = false ↔
      s.reg .iPTP_SENT 0 ≠ 0 ∧ s.clock + 1 < s.reg .iPTP_SENT 0 + logInterval (asInt 8 (s.reg .iPTP_EVERY 0)) := by
    rw [Bool.or_eq_false_iff, beq_eq_false_iff_ne, decide_eq_false_iff_not, Nat.not_le]
  refine completes_unless (t := (s.delayAsked seq t3).ptpSendBoth 1 seq 44) ?_
    (execPtpDelayReqSend_touches (by decide) (.refl _ s)) fun _ => ?_
  · simp only [← hdue]
    rfl
  have hnoted := s.delayAsked_frame seq t3
  obtain ⟨hseq, hstamp, hwait⟩ := s.delayAsked_awaits (seq := seq) (t3 := t3) (Nat.mod_lt _ (by decide))
  generalize s.delayAsked seq t3 = u at hnoted hseq hstamp hwait
  have hsend : Touches State.ptpSendBoth_foot u (u.ptpSendBoth 1 seq 44) :=
    State.ptpSendBoth_touches (fun _ h => h) (.refl _ u)
  refine ⟨(hsend.reg _ _ (by decide) (by decide)).trans hseq, (hsend.reg _ _ (by decide) (by decide)).trans hstamp,
    (hsend.reg _ _ (by decide) (by decide)).trans hwait, ?_⟩
  rw [State.ptpSendBoth_sent]
  simp only [s.linkUp_congr hnoted (by decide) (by decide)]

/-- PTP_DELAY_RESP (R358, R360). -/
theorem ptpDelayResp_completes (port : Fin 2) (h : PtpHead) (seq : BitVec 16) (t4 : Nat) (corr : Int)
    (every : BitVec 8) (s : State) :
    if s.ptpTaken h = false ∨ s.reg .iPTP_WAIT 0 = 0 ∨ s.reg .PTP_SLAVE_PORT 0 ≠ port.val ∨ seq.toNat ≠ s.reg
        .iPTP_SEQ 0 ∨
         s.reg .PTP_DELAY_MECH 0 = 1 then exec (.ptpDelayResp port h seq t4 corr every) s = .next s
    else
      ∃ t, exec (.ptpDelayResp port h seq t4 corr every) s = .next t ∧
        Touches (regs [.iPTP_EVERY, .PTP_MEAN_DELAY, .iPTP_WAIT]) s t ∧
        t.reg .iPTP_WAIT 0 = 0 ∧ t.reg .iPTP_EVERY 0 = every.toNat ∧
        t.reg .PTP_MEAN_DELAY 0 = ofInt Reg.PTP_MEAN_DELAY.width
          ((s.regInt .iPTP_DIFF 0 + ((t4 : Int) - s.regInt .iPTP_T3 0 - corr)) / 2) := by
  refine completes_unless rfl (execPtpDelayResp_touches (by decide) (.refl _ s)) fun _ => ⟨?_, ?_, ?_⟩
  · unfold State.setRegInt
    rw [State.setReg_reg_of_ne _ _ _ _ (by decide), State.setReg_reg_of_ne _ _ _ _ (by decide), State.setReg_reg_self]
    rfl
  · exact State.setReg_reg_of_lt _ _ _ every.isLt
  · rw [State.setReg_reg_of_ne _ _ _ _ (by decide)]
    exact State.setRegInt_holds ..

/-! ## Peer delay (R365) -/

/-- PDELAY_REQ_SEND (R365). -/
theorem pdelayReqSend_completes (port : Fin 2) (t1 : Nat) (s : State) :
    let p := port.val
    let seq := (s.reg .iPP_SEQ p + 1) % 65536
    if s.peerPort p = false ∨ (s.reg .iPP_SENT p ≠ 0 ∧ s.clock + 1 < s.reg .iPP_SENT p + 1000000000) then
      exec (.pdelayReqSend port t1) s = .next s
    else
      ∃ t, exec (.pdelayReqSend port t1) s = .next t ∧ Touches Changes.pdelayReqSend s t ∧
        t.reg .iPP_SEQ p = seq ∧ t.Holds .iPP_T1 p t1 ∧ t.sent = [.ptp p 2 seq []] ∧
        OnlyAt s t [.iPP_SEQ, .iPP_T1, .iPP_SENT] p := by
  intro p seq
  refine completes_unless rfl (execPdelayReqSend_touches (by decide) (.refl _ s)) fun _ => ?_
  have hsend := (((((s.setReg .iPP_SEQ p seq).setReg .iPP_T1 p t1).setReg .iPP_SENT p (s.clock + 1)).send
    []).ptpSend_frame p 2 seq 54 [])
  refine ⟨?_, ?_, State.ptpSend_sent .., ?_⟩
  · rw [hsend.reg _ _ (by decide) (by decide), State.send_reg, State.setReg_reg_of_ne _ _ _ _ (by decide),
      State.setReg_reg_of_ne _ _ _ _ (by decide)]
    exact State.setReg_reg_of_lt _ _ _ (Nat.mod_lt _ (by decide))
  · unfold State.Holds
    rw [hsend.reg _ _ (by decide) (by decide), State.send_reg, State.setReg_reg_of_ne _ _ _ _ (by decide),
      State.setReg_reg_self]
  · have honly : OnlyAt s ((((s.setReg .iPP_SEQ p seq).setReg .iPP_T1 p t1).setReg .iPP_SENT p (s.clock + 1)).send [])
        [.iPP_SEQ, .iPP_T1, .iPP_SENT] p :=
      (((OnlyAt.refl s _ p).setReg .iPP_SEQ seq).setReg .iPP_T1 t1).setReg .iPP_SENT (s.clock + 1)
    exact honly.touches hsend (by decide) (by decide)

/-- PDELAY_REQ (R365). -/
theorem pdelayReq_completes (port : Fin 2) (h : PtpHead) (seq : BitVec 16) (corr : Int) (t2 t3 : Nat) (s : State) :
    if s.peerPort port.val = true ∧ h.transport.val = s.reg .PTP_TRANSPORT 0 then
      ∃ t, exec (.pdelayReq port h seq corr t2 t3) s = .next t ∧
        Touches (flds [.sent, .egress, .waits]) s t ∧
        t.sent = [.ptp port.val 3 seq.toNat [corr + (t3 : Int) - t2]]
    else exec (.pdelayReq port h seq corr t2 t3) s = .next s := by
  refine completes_if (t := (s.send []).ptpSend port.val 3 seq.toNat 54 [corr + (t3 : Int) - t2]) ?_
    (execPdelayReq_touches (by decide) (.refl _ s)) fun _ => State.ptpSend_sent ..
  have htaken : (s.peerPort port.val && h.transport.val == s.reg .PTP_TRANSPORT 0) = true ↔
      s.peerPort port.val = true ∧ h.transport.val = s.reg .PTP_TRANSPORT 0 := by
    rw [Bool.and_eq_true, beq_iff_eq]
  simp only [← htaken]
  rfl

/-- PDELAY_RESP (R365). -/
theorem pdelayResp_completes (port : Fin 2) (h : PtpHead) (seq : BitVec 16) (corr : Int) (t4 : Nat) (s : State) :
    let p := port.val
    if s.peerPort p = false ∨ h.transport.val ≠ s.reg .PTP_TRANSPORT 0 ∨ seq.toNat ≠ s.reg .iPP_SEQ p then
      exec (.pdelayResp port h seq corr t4) s = .next s
    else
      ∃ t, exec (.pdelayResp port h seq corr t4) s = .next t ∧ Touches (regs [.PP_PEER_DELAY]) s t ∧
        t.reg .PP_PEER_DELAY p = ofInt Reg.PP_PEER_DELAY.width (((t4 : Int) - s.regInt .iPP_T1 p - corr) / 2) ∧
        OnlyAt s t [.PP_PEER_DELAY] p :=
  completes_unless rfl (execPdelayResp_touches (by decide) (.refl _ s)) fun _ =>
    ⟨s.setRegInt_holds .., (OnlyAt.refl s _ _).setReg _ _⟩

/-! ## Management (R358) -/

/-- PTP_MANAGEMENT (R358). -/
theorem ptpManagement_completes (h : PtpHead) (gm : BitVec 64) (tlv : List Byte) (s : State) :
    if s.ptpTaken h = true ∧ s.reg .PTP_PROFILE 0 = 0 ∧ gm.toNat = s.reg .PTP_GM_ID 0 then
      ∃ t, exec (.ptpManagement h gm tlv) s = .next t ∧ Touches (regs [.PTP_SMPTE]) s t ∧
        t.reg .PTP_SMPTE 0 = leNat (tlv.take 64)
    else exec (.ptpManagement h gm tlv) s = .next s := by
  have hwidth : leNat (tlv.take 64) < 2 ^ Reg.width .PTP_SMPTE :=
    Nat.lt_of_lt_of_le (leNat_lt _) (Nat.pow_le_pow_right (by decide) (Nat.mul_le_mul_left 8 (List.length_take_le 64 tlv)))
  exact completes_if rfl (execPtpManagement_touches (by decide) (.refl _ s)) fun _ =>
    State.setReg_reg_of_lt _ _ _ hwidth

/-- Settles O45: each message by its own lemma. -/
theorem ptpMessages : Obligations.PtpMessages :=
  ⟨ptpAnnounce_completes, ptpAnnounceTimeout_completes, ptpSync_completes, ptpDelayReqSend_completes,
    ptpDelayResp_completes, pdelayReqSend_completes, pdelayReq_completes, pdelayResp_completes,
    ptpManagement_completes⟩

end Sys2Proof.Machine
end

section
/-! The links of the switch, the modes of its ports, the filters of the receive queues, and the frames that leave (R342,
R349, R357, R374). -/
namespace Sys2Proof.Machine

/-! ## Links (R342) -/

section
variable (s : State) {p k : Nat}

/-- A register's bits lie below its width. -/
theorem State.reg_bit_of_le {r : Reg} {i j : Nat} (h : r.width ≤ j) : bit (s.reg r i) j = false :=
  Nat.testBit_lt_two_pow (Nat.lt_of_lt_of_le (reg_lt s r i) (Nat.pow_le_pow_right (by decide) h))

/-- The links of a port after one of them is written. -/
theorem State.setLink_linkUp (hk : k < 4) (on : Bool) (j : Nat) :
    (s.setReg .ETH_LINK p (setBit (s.reg .ETH_LINK p) k on)).linkUp p j = if k = j then on else s.linkUp p j := by
  have hwidth : 4 ≤ Reg.width .ETH_LINK := by decide
  unfold State.linkUp
  by_cases hj : j < Reg.width .ETH_LINK
  · rw [State.setReg_reg_self, bit_mod hj, bit_setBit]
  · rw [State.reg_bit_of_le _ (Nat.le_of_not_lt hj), if_neg (by omega), State.reg_bit_of_le _ (Nat.le_of_not_lt hj)]

/-- A link is marked as down and its frame under way is lost, and the PTP port of sub-port 0 is FAULTY. -/
def State.linkDropped (p k : Nat) : State :=
  let t := s.setReg .ETH_LINK p (setBit (s.reg .ETH_LINK p) k false)
  ({ t with egress := t.egress.filter (fun f => !(f.port == p && f.sub == k && f.started)) } : State).cond (k == 0)
    (fun t => t.setReg .PP_STATE p 0)

theorem State.egress_frame (l : List EgressFrame) : Touches [.fld .egress] s ({ s with egress := l } : State) :=
  (Touches.refl _ s).other (fun f => by cases f <;> first | exact .inr rfl | exact .inl (by decide)) rfl rfl rfl rfl rfl
    rfl rfl

theorem State.linkDropped_frame (p k : Nat) :
    Touches [.fld .egress, .reg .PP_STATE] (s.setReg .ETH_LINK p (setBit (s.reg .ETH_LINK p) k false)) (s.linkDropped p k) :=
  cond_touches ((State.egress_frame _ _).mono (by simp)) fun _ hx => State.setReg_touches (by simp) hx

theorem State.dropLink_eq (p k : Nat) : s.dropLink p k =
    if s.linkUp p k = false then s
    else (s.linkDropped p k).raise Code.linkDown (some (s.reg .ETH_QUEUE p)) [(8, p), (8, k)] := by
  have hqueue : (s.setReg .ETH_LINK p (setBit (s.reg .ETH_LINK p) k false)).reg .ETH_QUEUE p = s.reg .ETH_QUEUE p :=
    State.setReg_reg_of_ne _ _ _ _ (by decide)
  unfold State.dropLink
  rw [← hqueue]
  rfl

theorem State.dropped_frame (p k : Nat) : Touches (.fld .egress :: .reg .PP_STATE :: State.raise_foot)
    (s.setReg .ETH_LINK p (setBit (s.reg .ETH_LINK p) k false))
    ((s.linkDropped p k).raise Code.linkDown (some (s.reg .ETH_QUEUE p)) [(8, p), (8, k)]) :=
  State.raise_touches (fun _ h => List.mem_cons_of_mem _ (List.mem_cons_of_mem _ h))
    ((s.linkDropped_frame p k).mono (by decide))

/-- The links of a port after one goes down. -/
theorem State.dropLink_linkUp (hk : k < 4) (j : Nat) :
    (s.dropLink p k).linkUp p j = if k = j then false else s.linkUp p j := by
  rw [State.dropLink_eq]
  by_cases hup : s.linkUp p k = false
  · rw [if_pos hup]
    split
    · subst j
      exact hup
    · rfl
  · rw [if_neg hup, State.linkUp_congr _ (s.dropped_frame p k) (by decide) (by decide), State.setLink_linkUp s hk]

/-- The PTP port of sub-port 0 is FAULTY where its link goes down. -/
theorem State.dropLink_port (p k : Nat) :
    (s.dropLink p k).reg .PP_STATE p = if s.linkUp p k = true ∧ k = 0 then 0 else s.reg .PP_STATE p := by
  rw [State.dropLink_eq]
  cases hup : s.linkUp p k
  · rw [if_pos rfl, if_neg (by simp)]
  rw [if_neg (by simp), (State.raise_touches (W := State.raise_foot) (fun _ h => h) (.refl _ _)).reg _ _ (by decide)
    (by decide)]
  have hkept : (s.setReg .ETH_LINK p (setBit (s.reg .ETH_LINK p) k false)).reg .PP_STATE p = s.reg .PP_STATE p :=
    State.setReg_reg_of_ne _ _ _ _ (by decide)
  unfold State.linkDropped State.cond
  by_cases hk : k = 0
  · rw [if_pos (by simpa using hk), if_pos ⟨rfl, hk⟩]
    exact State.setReg_reg_of_lt _ _ _ (by decide)
  · rw [if_neg (by simpa using hk), if_neg fun h => hk h.2]
    exact hkept

theorem State.dropLink_onlyAt {t : State} {l : List Reg} (h : OnlyAt s t l p) (hl : ∀ r ∈ l, Part.reg r ∉ State.raise_foot)
    (k : Nat) : OnlyAt s (t.dropLink p k) l p := by
  have hmarked : OnlyAt s (t.linkDropped p k) l p := by
    have hlink := h.setReg .ETH_LINK (setBit (t.reg .ETH_LINK p) k false)
    unfold State.linkDropped State.cond
    dsimp only
    split
    · exact OnlyAt.setReg (t := { t.setReg .ETH_LINK p (setBit (t.reg .ETH_LINK p) k false) with egress := _ }) hlink
        .PP_STATE 0
    · exact hlink
  rw [State.dropLink_eq]
  exact h.ite (hmarked.touches (State.raise_touches (W := State.raise_foot) (fun _ h => h) (.refl _ _)) hl (by decide))

theorem State.dropLink_event (hup : s.linkUp p k = true) :
    (s.dropLink p k).lastEvent = some (Code.linkDown, packBits [(8, p), (8, k)]) := by
  rw [State.dropLink_eq, if_neg (by simp [hup]), State.raise_lastEvent]

/-- All links of a port go down. -/
theorem State.dropPort_eq (p : Nat) :
    s.dropPort p = ((((s.dropLink p 0).dropLink p 1).dropLink p 2).dropLink p 3) := rfl

theorem State.dropPort_linkUp (hk : k < 4) : (s.dropPort p).linkUp p k = false := by
  rw [State.dropPort_eq, State.dropLink_linkUp _ (by decide), State.dropLink_linkUp _ (by decide),
    State.dropLink_linkUp _ (by decide), State.dropLink_linkUp _ (by decide)]
  obtain rfl | rfl | rfl | rfl : k = 0 ∨ k = 1 ∨ k = 2 ∨ k = 3 := by omega
  all_goals simp

theorem State.dropPort_port (hup : s.linkUp p 0 = true) : (s.dropPort p).reg .PP_STATE p = 0 := by
  rw [State.dropPort_eq, State.dropLink_port, if_neg (by simp), State.dropLink_port, if_neg (by simp),
    State.dropLink_port, if_neg (by simp), State.dropLink_port, if_pos ⟨hup, rfl⟩]

theorem State.dropPort_onlyAt {t : State} {l : List Reg} (h : OnlyAt s t l p)
    (hl : ∀ r ∈ l, Part.reg r ∉ State.raise_foot) : OnlyAt s (t.dropPort p) l p := by
  rw [State.dropPort_eq]
  exact s.dropLink_onlyAt (s.dropLink_onlyAt (s.dropLink_onlyAt (s.dropLink_onlyAt h hl 0) hl 1) hl 2) hl 3

theorem State.dropPort_frame (p : Nat) : Touches State.dropLink_foot s (s.dropPort p) :=
  forN_touches (.refl _ s) fun _ _ h => State.dropLink_touches (fun _ h => h) h

end

/-! ## Modes (R342) -/

theorem ethReg_injective {p q : EthParam} (h : ethReg p = ethReg q) : p = q := by
  cases p <;> cases q <;> simp_all [ethReg]

/-- The parameters of a port are not what links and accesses write. -/
theorem ethReg_apart (p : EthParam) : Part.reg (ethReg p) ∉ State.dropLink_foot ∧ ethReg p ≠ .iACC_STATUS ∧
    ethReg p ≠ .iACC_ID ∧ Part.reg (ethReg p) ∉ State.raise_foot ∧ ethReg p ≠ .ETH_LINK := by
  cases p <;> decide

/-- ETH_MODE_WRITE (R342). -/
theorem ethModeWrite_completes (acc : Accessor) (port : Fin 2) (p : EthParam) (v : BitVec 8) (s : State)
    (hp : s.Passes acc (ethReg p) port.val v.toNat) :
    ∃ t, exec (.ethModeWrite acc port p v) s = .next t ∧ Touches Changes.ethModeWrite s t ∧
      t.status = 0 ∧ t.Holds (ethReg p) port.val v.toNat ∧ (∀ k, k < 4 → t.linkUp port.val k = false) ∧
      OnlyAt s t [ethReg p, .ETH_LINK] port.val ∧ (∀ q, q ≠ p → t.reg (ethReg q) port.val = s.reg (ethReg q)
          port.val) ∧
      (s.linkUp port.val 0 = true → t.reg .PP_STATE port.val = 0) := by
  have hframe : OutTouches Changes.ethModeWrite s (exec (.ethModeWrite acc port p v) s) :=
    execEthModeWrite_touches (by decide) (.refl _ s)
  refine write_completes rfl hp hframe ?_
  obtain ⟨-, -, -, hraise, hlink⟩ := ethReg_apart p
  have hput (q : EthParam) (j : Nat) : ((s.setStatus 0).putReg (ethReg p) port.val v.toNat).reg (ethReg q) j =
    if ethReg p = ethReg q ∧ port.val = j then v.toNat % 2 ^ (ethReg p).width else s.reg (ethReg q) j := State.reg_putReg ..
  have hup (k : Nat) : ((s.setStatus 0).putReg (ethReg p) port.val v.toNat).linkUp port.val k = s.linkUp port.val k :=
    congrArg (bit · k) ((State.reg_putReg ..).trans (if_neg fun h => hlink h.1))
  have honly : OnlyAt s ((s.setStatus 0).putReg (ethReg p) port.val v.toNat) [ethReg p, .ETH_LINK] port.val :=
    OnlyAt.putReg (t := s.setStatus 0) (OnlyAt.refl s _ _) _ _
  have hstatus : ((s.setStatus 0).putReg (ethReg p) port.val v.toNat).status = 0 := State.putReg_status ..
  generalize (s.setStatus 0).putReg (ethReg p) port.val v.toNat = u at *
  have hdrop := u.dropPort_frame port.val
  have hreg (q : EthParam) (j : Nat) : ((u.dropPort port.val).noteAccess acc ((ethReg p).id port.val)).reg (ethReg q) j =
      u.reg (ethReg q) j := by
    obtain ⟨hfree, hstatus, hid, -, -⟩ := ethReg_apart q
    rw [State.noteAccess_reg _ _ _ _ hstatus hid, hdrop.reg _ _ hfree (by decide)]
  have hnote := (u.dropPort port.val).noteAccess_frame acc ((ethReg p).id port.val)
  refine ⟨?_, (hreg p _).trans ((hput p _).trans (if_pos ⟨rfl, rfl⟩)), fun k hk => ?_, ?_, fun q hq => ?_, fun h0 => ?_⟩
  · rw [State.noteAccess_status]
    exact Eq.trans (hdrop.fld .status (by decide) (by decide)) hstatus
  · rw [State.linkUp_congr _ hnote (by decide) (by decide), u.dropPort_linkUp hk]
  · refine OnlyAt.noteAccess (s.dropPort_onlyAt honly fun r hr => ?_) ?_ ?_ acc _
    · obtain rfl | rfl : r = ethReg p ∨ r = .ETH_LINK := by simpa using hr
      · exact hraise
      · decide
    · cases p <;> decide
    · cases p <;> decide
  · exact (hreg q _).trans ((hput q _).trans (if_neg fun h => hq (ethReg_injective h.1).symm))
  · rw [State.noteAccess_reg _ _ _ _ (by decide) (by decide)]
    exact u.dropPort_port ((hup 0).trans h0)

/-! ## LINK_UP and LINK_DOWN (R342, R357) -/

/-- LINK_UP (R342, R357). -/
theorem linkUp_completes (port : Fin 2) (sub : Fin 4) (m : Module) (s : State) :
    let p := port.val
    if sub.val < modeSubs (s.reg .ETH_MODE p) ∧ s.linkUp p sub.val = false ∧ s.reg .CK_STATE 5 = 3 ∧
         s.portsRun = true then
      ∃ t, exec (.linkUp port sub m) s = .next t ∧ Touches Changes.linkUp s t ∧
        t.Holds .iETH_FEC (4 * p + sub.val) (s.fecOf p m) ∧
        t.linkUp p sub.val = true ∧ (∀ k, k ≠ sub.val → t.linkUp p k = s.linkUp p k) ∧
        t.reg .PP_STATE p = (if sub.val = 0 then 1 else s.reg .PP_STATE p) ∧
        OnlyAt s t [.ETH_LINK, .PP_STATE] p ∧
        t.lastEvent = some (Code.linkUp, packBits [(8, p), (8, sub.val)])
    else exec (.linkUp port sub m) s = .next s := by
  intro p
  refine completes_if rfl (execLinkUp_touches (by decide) (.refl _ s)) fun _ => ?_
  have hlink (j : Nat) := s.setLink_linkUp (p := p) sub.isLt true j
  have honly : OnlyAt s (s.setReg .ETH_LINK p (setBit (s.reg .ETH_LINK p) sub.val true)) [.ETH_LINK, .PP_STATE] p :=
    (OnlyAt.refl s _ _).setReg _ _
  have hport : (s.setReg .ETH_LINK p (setBit (s.reg .ETH_LINK p) sub.val true)).reg .PP_STATE p = s.reg .PP_STATE p :=
    State.setReg_reg_of_ne _ _ _ _ (by decide)
  generalize s.setReg .ETH_LINK p (setBit (s.reg .ETH_LINK p) sub.val true) = u at *
  have hfec : Touches [.reg .iETH_FEC] u (u.setReg .iETH_FEC (4 * p + sub.val) (s.fecOf p m)) :=
    State.setReg_touches (by simp) (.refl _ u)
  have hholds : (u.setReg .iETH_FEC (4 * p + sub.val) (s.fecOf p m)).Holds .iETH_FEC (4 * p + sub.val) (s.fecOf p m) :=
    State.setReg_reg_self ..
  generalize u.setReg .iETH_FEC (4 * p + sub.val) (s.fecOf p m) = v at *
  have hlisten : Touches [.reg .PP_STATE] v (v.cond (sub.val == 0) fun t => t.setReg .PP_STATE p 1) :=
    cond_touches (.refl _ v) fun _ hx => State.setReg_touches (by simp) hx
  have hlistens : (v.cond (sub.val == 0) fun t => t.setReg .PP_STATE p 1).reg .PP_STATE p =
      if sub.val = 0 then 1 else s.reg .PP_STATE p := by
    unfold State.cond
    by_cases h0 : sub.val = 0
    · rw [if_pos (by simpa using h0), if_pos h0]
      exact State.setReg_reg_of_lt _ _ _ (by decide)
    · rw [if_neg (by simpa using h0), if_neg h0, hfec.reg _ _ (by decide) (by decide), hport]
  have hset : OnlyAt s (v.cond (sub.val == 0) fun t => t.setReg .PP_STATE p 1) [.ETH_LINK, .PP_STATE] p := by
    have hv := honly.touches hfec (by decide) (by decide)
    unfold State.cond
    exact (hv.setReg _ _).ite hv
  generalize (v.cond (sub.val == 0) fun t => t.setReg .PP_STATE p 1) = w at *
  have hraise := State.raise_touches (W := State.raise_foot) (code := Code.linkUp) (unit := some (w.reg .ETH_QUEUE p))
    (args := [(8, p), (8, sub.val)]) (fun _ h => h) (.refl _ w)
  have hend := (hfec.append hlisten).append hraise
  have hup (j : Nat) : (w.raise Code.linkUp (some (w.reg .ETH_QUEUE p)) [(8, p), (8, sub.val)]).linkUp p j =
      if sub.val = j then true else s.linkUp p j :=
    (State.linkUp_congr _ hend (by decide) (by decide) p j).trans (hlink j)
  refine ⟨((hlisten.append hraise).reg _ _ (by decide) (by decide)).trans hholds, (hup _).trans (if_pos rfl),
    fun k hk => (hup k).trans (if_neg (Ne.symm hk)), (hraise.reg _ _ (by decide) (by decide)).trans hlistens,
    hset.touches hraise (by decide) (by decide), State.raise_lastEvent ..⟩

/-- A port whose link is down is FAULTY, whatever master is chosen (R359). -/
theorem State.selectMaster_faulty (s : State) {p : Nat} (hp : p < 2) (hdown : s.linkUp p 0 = false) :
    s.selectMaster.reg .PP_STATE p = 0 := by
  have hshown (u : State) (hu : u.linkUp p 0 = false) : u.showPorts.reg .PP_STATE p = 0 := by
    have h0 : Touches [.reg .PP_STATE] u (u.showPort 0) := State.setReg_touches (by simp) (.refl _ u)
    have hdown' := (State.linkUp_congr _ h0 (by decide) (by decide) p 0).trans hu
    unfold State.showPorts State.showPort
    obtain rfl | rfl : p = 0 ∨ p = 1 := by omega
    · rw [State.reg_setReg, if_neg (by simp), hu, if_pos rfl]
      exact State.setReg_reg_of_lt _ _ _ (by decide)
    · rw [State.reg_setReg, if_pos ⟨rfl, rfl⟩]
      unfold State.showPort at hdown'
      rw [if_pos hdown']
      rfl
  have htaken (m : ForeignMaster) : (s.masterTaken m).reg .PP_STATE p = 0 := by
    have hset : Touches (Sys2Proof.Machine.regs [.PTP_SLAVE_PORT, .iPTP_SOURCE, .PTP_GM_ID, .PTP_UTC_OFFSET]) s
        ((((s.setReg .PTP_SLAVE_PORT 0 m.port).setReg .iPTP_SOURCE 0 m.source).setReg .PTP_GM_ID 0 m.gm).setReg
          .PTP_UTC_OFFSET 0 m.utc) :=
      State.setReg_touches (by decide) (State.setReg_touches (by decide) (State.setReg_touches (by decide)
        (State.setReg_touches (by decide) (.refl _ s))))
    have hports := hshown _ ((State.linkUp_congr _ hset (by decide) (by decide) p 0).trans hdown)
    unfold State.masterTaken
    dsimp only
    split
    · exact hports
    · rw [State.setReg_reg_of_ne _ _ _ _ (by decide), State.setReg_reg_of_ne _ _ _ _ (by decide)]
      exact hports
  rw [State.selectMaster_eq]
  split
  · exact hshown s hdown
  split
  · exact hshown s hdown
  split
  · rw [(State.discAcquire_ptp _).reg _ _ (by decide) (by decide)]
    exact htaken _
  · exact htaken _

/-- LINK_DOWN (R342, R359). -/
theorem linkDown_completes (port : Fin 2) (sub : Fin 4) (s : State) :
    let p := port.val
    ∃ t, exec (.linkDown port sub) s = .next t ∧ Touches Changes.linkDown s t ∧
      t.linkUp p sub.val = false ∧ (∀ k, k ≠ sub.val → t.linkUp p k = s.linkUp p k) ∧ OnlyAt s t [.ETH_LINK] p ∧
      (sub.val = 0 → t.reg .PP_STATE p = 0) ∧
      (s.linkUp p sub.val = true →
        t.lastEvent = some (Code.linkDown, packBits [(8, p), (8, sub.val)])) ∧
      (s.linkUp p sub.val = false → sub.val ≠ 0 → t = s) := by
  intro p
  refine completes_of_next rfl (execLinkDown_touches (by decide) (.refl _ s)) ?_
  have hlink := s.dropLink_linkUp (p := p) sub.isLt
  have honly := s.dropLink_onlyAt (p := p) (OnlyAt.refl s [.ETH_LINK] p) (by decide) sub.val
  have hevent := s.dropLink_event (p := p) (k := sub.val)
  have hstay (hdown : s.linkUp p sub.val = false) : s.dropLink p sub.val = s := by
    rw [State.dropLink_eq, if_pos hdown]
  generalize s.dropLink p sub.val = u at *
  have hchosen : Touches State.selectMaster_foot u (u.cond (sub.val == 0) State.selectMaster) :=
    cond_touches (.refl _ u) fun _ hx => State.selectMaster_touches (fun _ h => h) hx
  have hup (j : Nat) := (State.linkUp_congr _ hchosen (by decide) (by decide) p j).trans (hlink j)
  refine ⟨(hup _).trans (if_pos rfl), fun k hk => (hup k).trans (if_neg (Ne.symm hk)),
    honly.touches hchosen (by decide) (by decide), fun h0 => ?_, fun h => ?_, fun hdown hne => ?_⟩
  · unfold State.cond
    rw [if_pos (by simpa using h0)]
    exact u.selectMaster_faulty port.isLt ((hlink 0).trans (if_pos h0))
  · exact (State.lastEvent_of_touches hchosen (by decide) (by decide)).trans (hevent h)
  · unfold State.cond
    rw [if_neg (by simpa using hne)]
    exact hstay hdown

/-! ## Filters of the receive queues (R374) -/

theorem rqReg_injective {p q : RqParam} (h : rqReg p = rqReg q) : p = q := by
  cases p <;> cases q <;> simp_all [rqReg]

theorem rqReg_apart (p : RqParam) : rqReg p ≠ .RQ_LEVEL ∧ rqReg p ≠ .iACC_STATUS ∧ rqReg p ≠ .iACC_ID := by
  cases p <;> decide

theorem State.setRx_reg (s : State) (q : Nat) (bs : List Byte) (r : Reg) (j : Nat) : (s.setRx q bs).reg r j =
    if Reg.RQ_LEVEL = r ∧ q = j then bs.length % 2 ^ Reg.width .RQ_LEVEL else s.reg r j := State.reg_setReg ..

theorem State.setRx_rxBytes (s : State) (q j : Nat) (bs : List Byte) :
    (s.setRx q bs).rxBytes j = if q = j then bs else s.rxBytes j := Sparse.get_set ..

/-- RQ_PARAM_WRITE (R374). -/
theorem rqParamWrite_completes (acc : Accessor) (q : Fin 64) (p : RqParam) (v : Nat) (s : State)
    (hp : s.Passes acc (rqReg p) q.val v) :
    ∃ t, exec (.rqParamWrite acc q p v) s = .next t ∧ Touches Changes.rqParamWrite s t ∧
      (t.status = 0 ∧ t.Holds (rqReg p) q.val v ∧ t.rxBytes q.val = [] ∧ t.reg .RQ_LEVEL q.val = 0 ∧
       (∀ j, j ≠ q.val → t.rxBytes j = s.rxBytes j) ∧ OnlyAt s t [rqReg p, .RQ_LEVEL] q.val ∧
       ∀ r, r ≠ p → t.reg (rqReg r) q.val = s.reg (rqReg r) q.val) := by
  have hframe : OutTouches Changes.rqParamWrite s (exec (.rqParamWrite acc q p v) s) :=
    execRqParamWrite_touches (by decide) (.refl _ s)
  refine write_completes (eff := fun t => (t.putReg (rqReg p) q.val v).setRx q.val []) rfl hp hframe ?_
  have hput (r : Reg) (j : Nat) : ((s.setStatus 0).putReg (rqReg p) q.val v).reg r j =
    if rqReg p = r ∧ q.val = j then v % 2 ^ (rqReg p).width else s.reg r j := State.reg_putReg ..
  have hbytes (j : Nat) : ((s.setStatus 0).putReg (rqReg p) q.val v).rxBytes j = s.rxBytes j :=
    congrArg (fun m => Sparse.get (fun _ => []) m j) (State.putReg_rxq ..)
  have hstatus : ((s.setStatus 0).putReg (rqReg p) q.val v).status = 0 := State.putReg_status ..
  generalize (s.setStatus 0).putReg (rqReg p) q.val v = u at *
  have hreg (r : Reg) (j : Nat) (hs : r ≠ .iACC_STATUS) (hi : r ≠ .iACC_ID) :
      ((u.setRx q.val []).noteAccess acc ((rqReg p).id q.val)).reg r j = if Reg.RQ_LEVEL = r ∧ q.val = j then 0 else
        if rqReg p = r ∧ q.val = j then v % 2 ^ (rqReg p).width else s.reg r j := by
    rw [State.noteAccess_reg _ _ _ _ hs hi, State.setRx_reg, hput]
    rfl
  have hfilter (r : RqParam) (j : Nat) := hreg (rqReg r) j (rqReg_apart r).2.1 (rqReg_apart r).2.2
  have hrx (j : Nat) : ((u.setRx q.val []).noteAccess acc ((rqReg p).id q.val)).rxBytes j =
      if q.val = j then [] else s.rxBytes j := by
    have hnote := (u.setRx q.val []).noteAccess_frame acc ((rqReg p).id q.val)
    have hsame := congrArg (fun m => Sparse.get (fun _ => []) m j) (hnote.fld .rxq (by decide) (by decide))
    exact hsame.trans ((u.setRx_rxBytes q.val j []).trans (by rw [hbytes]))
  refine ⟨?_, ?_, (hrx _).trans (if_pos rfl), (hreg _ _ (by decide) (by decide)).trans (if_pos ⟨rfl, rfl⟩),
    fun j hj => (hrx j).trans (if_neg (Ne.symm hj)), fun r hr j hj => ?_, fun r hr => ?_⟩
  · rw [State.noteAccess_status]
    exact hstatus
  · exact (hfilter p _).trans ((if_neg fun h => (rqReg_apart p).1 h.1.symm).trans (if_pos ⟨rfl, rfl⟩))
  · obtain rfl | rfl : r = rqReg p ∨ r = .RQ_LEVEL := by simpa using hr
    · exact (hfilter p j).trans ((if_neg fun h => hj h.2).trans (if_neg fun h => hj h.2))
    · exact (hreg _ j (by decide) (by decide)).trans ((if_neg fun h => hj h.2).trans (if_neg fun h => hj h.2))
  · exact (hfilter r _).trans ((if_neg fun h => (rqReg_apart r).1 h.1.symm).trans
      (if_neg fun h => hr (rqReg_injective h.1).symm))

/-! ## Frames that leave (R349) -/

/-- What a port sends next, and so its egress queues, as an idle port begins its next frame. -/
theorem State.portStart_egress (u : State) (port tx : Nat) : (u.portStart port tx).egress =
    if u.portSending port = true then u.egress
    else match u.nextEgress port with
      | none => u.egress
      | some g => { (u.stampFrame g tx).1 with started := true } :: u.egress.erase g := by
  unfold State.portStart
  split
  · rfl
  cases hnext : u.nextEgress port with
  | none => rfl
  | some g =>
    have hstamp : Touches State.stampFrame_foot u (u.stampFrame g tx).2 :=
      State.stampFrame_touches (fun _ h => h) (.refl _ u)
    have hegress : (u.stampFrame g tx).2.egress = u.egress := hstamp.fld .egress (by decide) (by decide)
    rw [← hegress]

theorem State.portStart_frame (u : State) (port tx : Nat) : Touches (flds [.egress, .waits]) u (u.portStart port tx) :=
  State.portStart_touches (by decide) (.refl _ u)

/-- The registers that the choice and the stamping of a frame read. -/
def egressReads : List Reg := [.ETH_LINK, .PTP_DELAY_MECH, .PP_PEER_DELAY]

section
variable {u v : State} (hegress : v.egress = u.egress) (hreads : ∀ r ∈ egressReads, ∀ i, v.reg r i = u.reg r i)
include hreads

theorem State.stampFrame_congr (g : EgressFrame) (tx : Nat) : (v.stampFrame g tx).1 = (u.stampFrame g tx).1 := by
  have hresidence (f : List Byte) (ingress rx : Nat) : v.residence f ingress rx tx = u.residence f ingress rx tx := by
    unfold State.residence State.regInt
    rw [hreads .PTP_DELAY_MECH (by decide), hreads .PP_PEER_DELAY (by decide)]
  unfold State.stampFrame
  split
  · simp only [hresidence]
  · rfl

include hegress

theorem State.nextEgress_congr (port : Nat) : v.nextEgress port = u.nextEgress port := by
  unfold State.nextEgress State.linkUp
  simp only [hegress, hreads .ETH_LINK (by decide)]

end

/-- The egress queues of `t` are those of `u` after an idle port began its next frame. -/
def EgressBegins (u t : State) (port tx : Nat) : Prop :=
  if u.portSending port = true then t.egress = u.egress
  else match u.nextEgress port with
    | none => t.egress = u.egress
    | some g => t.egress = { (u.stampFrame g tx).1 with started := true } :: u.egress.erase g

/-- What an idle port begins, told of a state with the same egress queues. -/
theorem State.portStart_begins {u v : State} (hegress : v.egress = u.egress)
    (hreads : ∀ r ∈ egressReads, ∀ i, v.reg r i = u.reg r i) (port tx : Nat) :
    EgressBegins u (v.portStart port tx) port tx := by
  have hsending : v.portSending port = u.portSending port := by
    unfold State.portSending
    rw [hegress]
  unfold EgressBegins
  rw [State.portStart_egress, hsending, State.nextEgress_congr hegress hreads, hegress]
  split
  · rfl
  cases u.nextEgress port with
  | none => rfl
  | some g => simp only [State.stampFrame_congr hreads]

/-- The frame under way is gone, sent and counted. -/
def State.frameGone (s : State) (port : Nat) (f : EgressFrame) : State :=
  (({ s with egress := s.egress.erase f } : State).send [f.msg]).bump .ETH_TX_FRAMES port

/-- EGRESS_FRAME_SENT (R349). -/
theorem egressFrameSent_completes (port : Fin 2) (tx : Nat) (s : State) :
    ∃ t, exec (.egressFrameSent port tx) s = .next t ∧
      Touches (regs [.ETH_TX_FRAMES] ++ flds [.egress, .sent, .waits]) s t ∧
      let go (u : State) : Prop := if u.portSending port.val = true then t.egress = u.egress
        else match u.nextEgress port.val with
          | none => t.egress = u.egress
          | some g => t.egress = { (u.stampFrame g tx).1 with started := true } :: u.egress.erase g
      match s.egress.find? (fun f => f.port == port.val && f.started) with
      | none => t.reg .ETH_TX_FRAMES port.val = s.reg .ETH_TX_FRAMES port.val ∧ t.sent = s.sent ∧ go s
      | some f => Counted s t .ETH_TX_FRAMES port.val 1 ∧ t.sent = [f.msg] ∧
        go { s with egress := s.egress.erase f } := by
  have hframe : OutTouches (regs [.ETH_TX_FRAMES] ++ flds [.egress, .sent, .waits]) s (exec (.egressFrameSent port tx) s) :=
    execEgressFrameSent_touches (by decide) (.refl _ s)
  cases hsent : s.egress.find? fun f => f.port == port.val && f.started with
  | none =>
    have hexec : exec (.egressFrameSent port tx) s = .next (s.portStart port.val tx) := by
      change execEgressFrameSent port tx s = _
      unfold execEgressFrameSent
      rw [hsent]
    have hstart := s.portStart_frame port.val tx
    exact completes_of_next hexec hframe ⟨hstart.reg _ _ (by decide) (by decide),
      hstart.fld .sent (by decide) (by decide), State.portStart_begins rfl (fun _ _ _ => rfl) port.val tx⟩
  | some f =>
    have hexec : exec (.egressFrameSent port tx) s = .next ((s.frameGone port.val f).portStart port.val tx) := by
      change execEgressFrameSent port tx s = _
      unfold execEgressFrameSent
      rw [hsent]
      rfl
    have hcount : Counted s (s.frameGone port.val f) .ETH_TX_FRAMES port.val 1 := State.setReg_reg_self ..
    have hmsg : (s.frameGone port.val f).sent = [f.msg] := rfl
    have hegress : (s.frameGone port.val f).egress = ({ s with egress := s.egress.erase f } : State).egress := rfl
    have hreads : ∀ r ∈ egressReads, ∀ i,
        (s.frameGone port.val f).reg r i = ({ s with egress := s.egress.erase f } : State).reg r i := fun r hr i =>
      State.setReg_reg_of_ne _ _ _ _ ((by decide : ∀ q ∈ egressReads, Reg.ETH_TX_FRAMES ≠ q) r hr)
    have hbegins := State.portStart_begins hegress hreads port.val tx
    have hstart := (s.frameGone port.val f).portStart_frame port.val tx
    exact completes_of_next hexec hframe ⟨hcount.touches hstart (by decide) (by decide),
      Eq.trans (hstart.fld .sent (by decide) (by decide)) hmsg, hbegins⟩

end Sys2Proof.Machine
end

section
/-! A frame received by the switch (R342, R343, R345, R346, R348 to R353). -/
namespace Sys2Proof.Machine

/-! ## What the counters of a frame have no part in -/

/-- The counters of received and forwarded frames. -/
def frameCounters : List Reg :=
  [.ETH_RX_FRAMES, .ETH_FEC_CORR, .ETH_FEC_UNCORR, .ETH_OVERSIZE, .ETH_FCS_ERR, .ETH_CUT, .ETH_STOMPED, .ETH_FWD_DROPS,
    .ETH_STORED]

/-- From `u` to `v` no register but the counters of frames has changed. -/
def CountsOnly (u v : State) : Prop := ∀ r, r ∉ frameCounters → ∀ i, v.reg r i = u.reg r i

theorem CountsOnly.of_touches {u v : State} {V : List Part} (h : Touches V u v)
    (hV : ∀ r, Part.reg r ∈ V → r ∈ frameCounters) (hany : Part.anyReg ∉ V) : CountsOnly u v := fun r hr i =>
  h.reg r i (fun hin => hr (hV r hin)) hany

section
variable {u v : State} (h : CountsOnly u v)
include h

theorem CountsOnly.linkUp (p k : Nat) : v.linkUp p k = u.linkUp p k := congrArg (bit · k) (h .ETH_LINK (by decide) p)

theorem CountsOnly.mac : v.mac = u.mac := by
  unfold State.mac
  rw [h .NET_MAC (by decide)]

theorem CountsOnly.ip6 : v.ip6 = u.ip6 := by
  unfold State.ip6
  rw [h .NET_IP6 (by decide)]

theorem CountsOnly.members4 : v.members4 = u.members4 := by
  unfold State.members4 State.groups4
  simp only [h .STR_STATE (by decide), h .STR_TRANSPORT (by decide), h .STR_GROUP_V4 (by decide),
    h .PTP_TRANSPORT (by decide)]

theorem CountsOnly.members6 : v.members6 = u.members6 := by
  unfold State.members6 State.groups6 groupV6
  simp only [h .STR_STATE (by decide), h .STR_TRANSPORT (by decide), h .STR_GROUP_V6 (by decide),
    h .PTP_TRANSPORT (by decide)]

theorem CountsOnly.switchTo (dst : Nat) : v.switchTo dst = u.switchTo dst := by
  unfold State.switchTo State.memberMac
  rw [h.mac, h.ip6, h.members4, h.members6]

theorem CountsOnly.ptpForwarded (f : List Byte) : v.ptpForwarded f = u.ptpForwarded f := by
  unfold State.ptpForwarded
  rw [h .PTP_TC_EN (by decide), h .PTP_DELAY_MECH (by decide)]

theorem CountsOnly.cutsThrough (hegress : v.egress = u.egress) (inp out : Nat) (f : List Byte) :
    v.cutsThrough inp out f = u.cutsThrough inp out f := by
  unfold State.cutsThrough
  rw [hegress, h .ETH_MODE (by decide), h .ETH_MODE (by decide), h .PTP_TC_EN (by decide)]

theorem CountsOnly.ownIp (p : Packet) : v.ownIp p = u.ownIp p := by
  unfold State.ownIp
  rw [h.mac, h.ip6, h.members4, h.members6, h .NET_IP4 (by decide)]

theorem CountsOnly.rxMatches (q port : Nat) (e : Ether) : v.rxMatches q port e = u.rxMatches q port e := by
  unfold State.rxMatches
  simp only [h .RQ_PORTS (by decide), h .RQ_KIND (by decide), h .RQ_VALUE (by decide), h.ownIp]

theorem CountsOnly.timeLocked : v.timeLocked = u.timeLocked := by
  unfold State.timeLocked State.discState
  rw [h .CK_REF_STATE (by decide), h .TB_SOURCE (by decide), h .iSERVO (by decide), h .iSYNC_STATE (by decide)]

end

/-! ## Receive queues (R352, R353) -/

theorem State.toQueue_queued (u : State) (port sub time : Nat) (f : List Byte) :
    Queued u (u.toQueue port sub time (Ether.ofBytes f) f) port sub time f := by
  unfold Queued State.toQueue
  cases (List.range 64).find? fun q => u.rxMatches q port (Ether.ofBytes f) with
  | none => exact ⟨u.bump_counted .NET_UNCLAIMED 0, rfl⟩
  | some q =>
    dsimp only
    generalize rxRecord port sub time (!u.timeLocked) f = r
    split
    · exact ⟨u.bump_counted .RQ_DROPS q, rfl⟩
    · refine ⟨((u.setRx_rxBytes q q _).trans (if_pos rfl)), ?_, ?_, fun j hj =>
        (u.setRx_rxBytes q j _).trans (if_neg (Ne.symm hj))⟩
      · have hsame : (u.setRx q (u.rxBytes q ++ r)).reg .RQ_FRAMES q = u.reg .RQ_FRAMES q :=
          (u.setRx_reg ..).trans (if_neg (by simp))
        unfold Counted
        rw [← hsame]
        exact (u.setRx q (u.rxBytes q ++ r)).bump_counted .RQ_FRAMES q
      · unfold State.Holds
        rw [State.reg_bump, if_neg (by simp), State.setRx_reg, if_pos ⟨rfl, rfl⟩, List.length_append]

/-- Where a frame goes is told of a state before its counters. -/
theorem Queued.of_counts {s u t : State} {port sub time : Nat} {f : List Byte} (h : Queued u t port sub time f)
    (hc : CountsOnly s u) (hrxq : u.rxq = s.rxq) : Queued s t port sub time f := by
  have hbytes (j : Nat) : u.rxBytes j = s.rxBytes j := congrArg (fun m => Sparse.get (fun _ => []) m j) hrxq
  have hcounted {r : Reg} {i n : Nat} (hr : r ∉ frameCounters) (hn : Counted u t r i n) : Counted s t r i n := by
    unfold Counted at hn ⊢
    rwa [hc r hr] at hn
  unfold Queued at h ⊢
  simp only [hc.rxMatches, hc.timeLocked, hbytes, hrxq] at h
  split
  · next hq =>
    rw [hq] at h
    exact ⟨hcounted (by decide) h.1, h.2⟩
  · next q hq =>
    rw [hq] at h
    dsimp only at h ⊢
    split
    · next hfull =>
      rw [if_pos hfull] at h
      exact ⟨hcounted (by decide) h.1, h.2⟩
    · next hfull =>
      rw [if_neg hfull] at h
      obtain ⟨hrx, hcount, hlevel, hothers⟩ := h
      exact ⟨hrx, hcounted (by decide) hcount, hlevel, hothers⟩

/-- A frame that no protocol claims goes to the receive queues (R345). -/
theorem State.deliver_queued (u : State) (port sub time : Nat) {f : List Byte} (hptp : ptpAt f = none)
    (harp : (Ether.ofBytes f).etype ≠ 0x0806) (hip : Packet.ofEther (Ether.ofBytes f) = none)
    (hvlan : (Ether.ofBytes f).tagged = false ∨ (Ether.ofBytes f).vid = 0 ∨ (Ether.ofBytes f).vid = u.reg .NET_VID 0) :
    u.deliver port sub time f = u.toQueue port sub time (Ether.ofBytes f) f := by
  have hanswer : u.answerFrame port sub (Ether.ofBytes f) = none := by
    unfold State.answerFrame
    rw [if_neg harp, hip]
  have hours : ((Ether.ofBytes f).tagged && (Ether.ofBytes f).vid != 0 && (Ether.ofBytes f).vid != u.reg .NET_VID 0) =
      false := by
    obtain h | h | h := hvlan <;> simp [h]
  unfold State.deliver
  dsimp only
  rw [hours, hptp, hip, hanswer]
  rfl

end Sys2Proof.Machine
end

section
/-! A frame received by the switch, from its counters to the queue it reaches (R342, R343, R346, R348 to R353). -/
namespace Sys2Proof.Machine

/-- A counter that nothing has touched has counted nothing. -/
theorem Counted.zero {s t : State} {V : List Part} (h : Touches V s t) (r : Reg) (i : Nat) (hV : Part.reg r ∉ V)
    (hany : Part.anyReg ∉ V) : Counted s t r i 0 :=
  (h.reg r i hV hany).trans (Nat.mod_eq_of_lt (s.reg_lt r i)).symm

section
variable {u v : State} (h : CountsOnly u v)
include h

theorem CountsOnly.goesAcross (p sub : Nat) (f : List Byte) : v.goesAcross p sub f = u.goesAcross p sub f := by
  unfold State.goesAcross
  rw [h.switchTo, h.linkUp, h.ptpForwarded]

theorem CountsOnly.trans {w : State} (h' : CountsOnly v w) : CountsOnly u w := fun r hr i =>
  (h' r hr i).trans (h r hr i)

end

theorem State.egressLevel_congr {u v : State} (h : v.egress = u.egress) (port q : Nat) :
    v.egressLevel port q = u.egressLevel port q := by
  unfold State.egressLevel
  rw [h]

/-! ## Forwarding (R349 to R351) -/

/-- The egress queue a frame received on port `inp` takes (R349). -/
def State.frameQueue (u : State) (inp : Nat) (f : List Byte) : Nat :=
  if (Ether.ofBytes f).tagged then (Ether.ofBytes f).pcp else u.reg .ETH_DEF_PCP inp

/-- Whether the egress queue of a frame has room for it (R349). -/
def State.frameFits (u : State) (inp : Nat) (f : List Byte) : Bool :=
  decide (u.egressLevel (1 - inp) (u.frameQueue inp f) + f.length ≤ egressSize)

/-- Whether the link and the transparent clock let a frame be forwarded (R351, R363). -/
def State.mayForward (u : State) (inp : Nat) (f : List Byte) : Bool := u.linkUp (1 - inp) 0 && u.ptpForwarded f

section
variable {u v : State} (h : CountsOnly u v)
include h

theorem CountsOnly.mayForward (inp : Nat) (f : List Byte) : v.mayForward inp f = u.mayForward inp f := by
  unfold State.mayForward
  rw [h.linkUp, h.ptpForwarded]

theorem CountsOnly.frameFits (hegress : v.egress = u.egress) (inp : Nat) (f : List Byte) :
    v.frameFits inp f = u.frameFits inp f := by
  unfold State.frameFits State.frameQueue
  rw [State.egressLevel_congr hegress, h .ETH_DEF_PCP (by decide)]

end

/-- The counters of forwarded frames. -/
def forwardCounters : List Reg := [.ETH_CUT, .ETH_STOMPED, .ETH_STORED, .ETH_FWD_DROPS]

/-- What forwarding counts on port `o`: `go` where the frame is forwarded, `cut` where it cuts through. -/
def ForwardCounts (u t : State) (o : Nat) (go cut bad fits : Bool) : Prop :=
  Counted u t .ETH_CUT o (b2n (go && cut)) ∧ Counted u t .ETH_STOMPED o (b2n (go && cut && bad)) ∧
  Counted u t .ETH_STORED o (b2n (go && !(go && cut) && !bad && fits)) ∧
  Counted u t .ETH_FWD_DROPS o (b2n (go && !(go && cut) && !bad && !fits))

theorem ForwardCounts.unforwarded (u : State) (o : Nat) (cut bad fits : Bool) :
    ForwardCounts u u o false cut bad fits :=
  have hzero (r : Reg) : Counted u u r o 0 := .zero (V := []) (.refl _ u) r o (by simp) (by simp)
  ⟨hzero _, hzero _, hzero _, hzero _⟩

/-- The counts of forwarding are told of a state before others are touched, and of one after. -/
theorem ForwardCounts.between {u v w t : State} {V W : List Part} {o : Nat} {go cut bad fits : Bool}
    (h : ForwardCounts v w o go cut bad fits) (hv : Touches V u v) (ht : Touches W w t)
    (hV : ∀ r ∈ forwardCounters, Part.reg r ∉ V ∧ Part.reg r ∉ W)
    (hany : Part.anyReg ∉ V ∧ Part.anyReg ∉ W) :
    ForwardCounts u t o go cut bad fits := by
  have hkeep {r : Reg} {n : Nat} (hc : Counted v w r o n) (hr : r ∈ forwardCounters) : Counted u t r o n :=
    (Counted.of_touches hv hany.1 hc (hV r hr).1).touches ht (hV r hr).2 hany.2
  obtain ⟨hcut, hstomp, hstored, hdrops⟩ := h
  exact ⟨hkeep hcut (by decide), hkeep hstomp (by decide), hkeep hstored (by decide), hkeep hdrops (by decide)⟩

/-- A wrong frame that does not cut through is discarded without a count of its egress port. -/
theorem ForwardCounts.discarded (u : State) (o : Nat) (go fits : Bool) : ForwardCounts u u o go false true fits := by
  have h := ForwardCounts.unforwarded u o false true fits
  cases go <;> exact h

/-- A frame that cuts through is counted, and so is its stomp. -/
theorem ForwardCounts.cut {u v : State} (h : Touches (flds [.egress, .waits]) u v) (o : Nat) (bad fits : Bool) :
    ForwardCounts u ((v.bump .ETH_CUT o).cond bad (·.bump .ETH_STOMPED o)) o true true bad fits := by
  have hcut : Touches [.reg .ETH_CUT] v (v.bump .ETH_CUT o) := State.bump_touches (by simp) (.refl _ v)
  have hstomp : Touches [.reg .ETH_STOMPED] (v.bump .ETH_CUT o)
      ((v.bump .ETH_CUT o).cond bad (·.bump .ETH_STOMPED o)) :=
    cond_touches (.refl _ _) fun _ hx => State.bump_touches (by simp) hx
  refine ⟨?_, ?_, ?_, ?_⟩
  · exact Counted.of_touches h (by decide) ((v.bump_counted .ETH_CUT o).touches hstomp (by decide) (by decide))
      (by decide)
  · exact Counted.of_touches (h.append hcut) (by decide) (State.cond_bump_counted ..) (by decide)
  · exact .zero ((h.append hcut).append hstomp) _ _ (by decide) (by decide)
  · exact .zero ((h.append hcut).append hstomp) _ _ (by decide) (by decide)

/-- A frame that finds no room is counted as dropped. -/
theorem ForwardCounts.dropped (u : State) (o : Nat) :
    ForwardCounts u (u.bump .ETH_FWD_DROPS o) o true false false false := by
  have h : Touches [.reg .ETH_FWD_DROPS] u (u.bump .ETH_FWD_DROPS o) := State.bump_touches (by simp) (.refl _ u)
  exact ⟨.zero h _ _ (by decide) (by decide), .zero h _ _ (by decide) (by decide), .zero h _ _ (by decide) (by decide),
    u.bump_counted .ETH_FWD_DROPS o⟩

/-- A frame that is stored is counted. -/
theorem ForwardCounts.stored (u : State) (o tx : Nat) (l : List EgressFrame) :
    ForwardCounts u ((({ u with egress := l } : State).bump .ETH_STORED o).portStart o tx) o true false false true := by
  have hput := u.egress_frame l
  generalize ({ u with egress := l } : State) = v at hput ⊢
  have hbump : Touches [.reg .ETH_STORED] v (v.bump .ETH_STORED o) := State.bump_touches (by simp) (.refl _ v)
  have hstart := (v.bump .ETH_STORED o).portStart_frame o tx
  have hall := (hput.append hbump).append hstart
  exact ⟨.zero hall _ _ (by decide) (by decide), .zero hall _ _ (by decide) (by decide),
    Counted.of_touches hput (by decide) ((v.bump_counted .ETH_STORED o).touches hstart (by decide) (by decide))
      (by decide), .zero hall _ _ (by decide) (by decide)⟩

/-- Forwarding counts a frame once: as cut, as stored or as dropped. -/
theorem State.forward_counts (u : State) (inp : Nat) (f : List Byte) (bad : Bool) (rx tx : Nat) :
    ForwardCounts u (u.forward inp f bad rx tx) (1 - inp) (u.mayForward inp f) (u.cutsThrough inp (1 - inp) f) bad
      (u.frameFits inp f) := by
  have hmay : (!u.linkUp (1 - inp) 0 || !u.ptpForwarded f) = !u.mayForward inp f := by
    unfold State.mayForward
    rw [Bool.not_and]
  have hfits : (egressSize < u.egressLevel (1 - inp) (u.frameQueue inp f) + f.length) ↔ u.frameFits inp f = false := by
    unfold State.frameFits
    rw [decide_eq_false_iff_not, Nat.not_le]
  unfold State.frameQueue at hfits
  unfold State.forward
  dsimp only
  simp only [hmay, hfits]
  cases u.mayForward inp f
  · exact .unforwarded ..
  cases u.cutsThrough inp (1 - inp) f
  · cases bad
    · cases u.frameFits inp f
      · exact .dropped u _
      · exact .stored u _ tx _
    · exact .discarded u _ true _
  · refine ForwardCounts.cut (v := { (u.stampFrame _ tx).2 with egress := _ }) ?_ _ bad _
    have hstamp (g : EgressFrame) : Touches (flds [.waits]) u (u.stampFrame g tx).2 :=
      State.stampFrame_touches (by decide) (.refl _ u)
    exact ((hstamp _).append (State.egress_frame _ _)).mono (by decide)

/-! ## The frame as it is received (R342, R343, R348) -/

/-- A frame is counted with what its FEC corrected, and as oversized where it is (R342, R343). -/
def State.frameSized (s : State) (p corr uncorr : Nat) (long : Bool) : State :=
  ((((s.send []).bump .ETH_RX_FRAMES p).bumpBy .ETH_FEC_CORR p corr).bumpBy .ETH_FEC_UNCORR p uncorr).cond long
    (·.bump .ETH_OVERSIZE p)

/-- The parts of a frame's first counters. -/
def sizedParts : List Part :=
  Sys2Proof.Machine.regs [.ETH_RX_FRAMES, .ETH_FEC_CORR, .ETH_FEC_UNCORR, .ETH_OVERSIZE] ++ [.fld .sent]

section
variable (s : State) (p corr uncorr : Nat) (long : Bool)

theorem State.frameSized_frame : Touches sizedParts s (s.frameSized p corr uncorr long) :=
  cond_touches (State.bumpBy_touches (by decide) (State.bumpBy_touches (by decide) (State.bump_touches (by decide)
    (State.send_touches (by decide) (.refl _ s))))) fun _ hx => State.bump_touches (by decide) hx

theorem State.frameSized_counts :
    Counted s (s.frameSized p corr uncorr long) .ETH_RX_FRAMES p 1 ∧
    Counted s (s.frameSized p corr uncorr long) .ETH_FEC_CORR p corr ∧
    Counted s (s.frameSized p corr uncorr long) .ETH_FEC_UNCORR p uncorr ∧
    Counted s (s.frameSized p corr uncorr long) .ETH_OVERSIZE p (b2n long) := by
  have hsend (r : Reg) (i : Nat) : (s.send []).reg r i = s.reg r i := rfl
  unfold State.frameSized Counted
  refine ⟨?_, ?_, ?_, ?_⟩
  · rw [State.cond_bump_reg _ _ _ _ (by simp), State.reg_bumpBy, if_neg (by simp), State.reg_bumpBy, if_neg (by simp),
      State.reg_bump, if_pos ⟨rfl, rfl⟩, hsend]
  · rw [State.cond_bump_reg _ _ _ _ (by simp), State.reg_bumpBy, if_neg (by simp), State.reg_bumpBy, if_pos ⟨rfl, rfl⟩,
      State.reg_bump, if_neg (by simp), hsend]
  · rw [State.cond_bump_reg _ _ _ _ (by simp), State.reg_bumpBy, if_pos ⟨rfl, rfl⟩, State.reg_bumpBy, if_neg (by simp),
      State.reg_bump, if_neg (by simp), hsend]
  · rw [State.cond_bump_counted, State.reg_bumpBy, if_neg (by simp), State.reg_bumpBy, if_neg (by simp),
      State.reg_bump, if_neg (by simp), hsend]

end

/-- Where the switch sends a frame (R343, R348): to the other port, and to the device. -/
def State.frameWays (u : State) (sub : Nat) (f : List Byte) : Bool × Bool :=
  if sub = 0 then u.switchTo (Ether.ofBytes f).dst else (false, true)

theorem State.frameWays_here (u : State) (sub : Nat) (f : List Byte) :
    (u.frameWays sub f).2 = true ↔ sub ≠ 0 ∨ (u.switchTo (Ether.ofBytes f).dst).2 = true := by
  unfold State.frameWays
  by_cases h : sub = 0 <;> simp [h]

theorem CountsOnly.frameWays {u v : State} (h : CountsOnly u v) (sub : Nat) (f : List Byte) :
    v.frameWays sub f = u.frameWays sub f := by
  unfold State.frameWays
  rw [h.switchTo]

/-- Whether a frame cuts through to the other port (R350). -/
def State.frameCuts (u : State) (p sub : Nat) (f : List Byte) : Bool :=
  (u.frameWays sub f).1 && u.linkUp (1 - p) 0 && u.ptpForwarded f && u.cutsThrough p (1 - p) f

/-- A wrong frame that does not cut through is counted as discarded (R343). -/
def State.frameChecked (u : State) (p sub : Nat) (f : List Byte) (wrong : Bool) : State :=
  u.cond (wrong && !u.frameCuts p sub f) (·.bump .ETH_FCS_ERR p)

/-- The frame has gone to the other port where it goes there. -/
def State.frameCrossed (u : State) (p sub : Nat) (f : List Byte) (wrong : Bool) (rx tx : Nat) : State :=
  (u.frameChecked p sub f wrong).cond (u.frameWays sub f).1 (fun t => t.forward p f wrong rx tx)

/-- A right frame has taught its source address (R348). -/
def State.frameLearnt (u : State) (p sub : Nat) (f : List Byte) (wrong : Bool) (rx tx : Nat) : State :=
  let t := u.frameCrossed p sub f wrong rx tx
  { t with macs := Sparse.set (fun _ => 0) t.macs (Ether.ofBytes f).src (4 * p + sub) }

/-- A right frame has reached the device where it is for it (R344, R348). -/
def State.frameTaken (u : State) (p sub : Nat) (f : List Byte) (wrong : Bool) (rx tx : Nat) : State :=
  (u.frameLearnt p sub f wrong rx tx).cond
    ((u.frameWays sub f).2 && u.reg .iPHASE 0 != 4 && !(sub != 0 && (ptpAt f).isSome))
    (fun t => t.deliver p sub (rx >>> 48) f)

/-- ETH_FRAME_RECEIVE in its parts. -/
theorem execEthFrameReceive_eq (port : Fin 2) (sub : Fin 4) (f : List Byte) (bad : Bool) (corr uncorr rx tx : Nat)
    (s : State) :
    let fec (n : Nat) : Nat := if s.reg .iETH_FEC (4 * port.val + sub.val) = 0 then 0 else n
    let long := decide (9600 < f.length)
    let u := s.frameSized port.val (fec corr) (fec uncorr) long
    execEthFrameReceive port sub f bad corr uncorr rx tx s =
      if s.linkUp port.val sub.val = false then .next s
      else .next (if bad || long then u.frameCrossed port.val sub.val f (bad || long) rx tx
        else u.frameTaken port.val sub.val f (bad || long) rx tx) := by
  intro fec long u
  unfold execEthFrameReceive
  by_cases hup : s.linkUp port.val sub.val = false
  · exact (if_pos hup).trans (if_pos hup).symm
  refine (if_neg hup).trans (Eq.trans ?_ (if_neg hup).symm)
  by_cases hwrong : (bad || long) = true
  · exact (if_pos hwrong).trans (congrArg Host.Outcome.next (if_pos hwrong).symm)
  · exact (if_neg hwrong).trans (congrArg Host.Outcome.next (if_neg hwrong).symm)

section
variable (u : State) (p sub : Nat) (f : List Byte) (wrong : Bool) (rx tx : Nat)

theorem State.frameCuts_eq : u.frameCuts p sub f = (u.goesAcross p sub f && u.cutsThrough p (1 - p) f) := by
  unfold State.frameCuts State.goesAcross State.frameWays
  by_cases h : sub = 0 <;> simp [h]

theorem State.goesAcross_eq : u.goesAcross p sub f = ((u.frameWays sub f).1 && u.mayForward p f) := by
  unfold State.mayForward State.goesAcross State.frameWays
  by_cases h : sub = 0 <;> simp [h, Bool.and_assoc]

theorem State.frameChecked_frame : Touches [.reg .ETH_FCS_ERR] u (u.frameChecked p sub f wrong) :=
  cond_touches (.refl _ u) fun _ hx => State.bump_touches (by simp) hx

theorem State.frameChecked_counts : CountsOnly u (u.frameChecked p sub f wrong) :=
  .of_touches (u.frameChecked_frame p sub f wrong) (by simp [frameCounters]) (by decide)

/-- What a received frame counts on its way to the other port. -/
theorem State.frameCrossed_counts :
    Counted u (u.frameCrossed p sub f wrong rx tx) .ETH_FCS_ERR p
      (b2n (wrong && !(u.goesAcross p sub f && u.cutsThrough p (1 - p) f))) ∧
    ForwardCounts u (u.frameCrossed p sub f wrong rx tx) (1 - p) (u.goesAcross p sub f) (u.cutsThrough p (1 - p) f) wrong
      (u.frameFits p f) := by
  have hchecked := u.frameChecked_frame p sub f wrong
  have hcounts := u.frameChecked_counts p sub f wrong
  have hegress : (u.frameChecked p sub f wrong).egress = u.egress := hchecked.fld .egress (by decide) (by decide)
  have hforward : Touches State.forward_foot (u.frameChecked p sub f wrong) (u.frameCrossed p sub f wrong rx tx) :=
    cond_touches (.refl _ _) fun _ hx => State.forward_touches (fun _ h => h) hx
  have herr : Counted u (u.frameChecked p sub f wrong) .ETH_FCS_ERR p (b2n (wrong && !u.frameCuts p sub f)) :=
    State.cond_bump_counted ..
  rw [State.frameCuts_eq] at herr
  refine ⟨herr.touches hforward (by decide) (by decide), ?_⟩
  rw [State.goesAcross_eq, ← hcounts.frameFits hegress, ← hcounts.mayForward, ← hcounts.cutsThrough hegress]
  unfold State.frameCrossed
  cases (u.frameWays sub f).1
  · exact (ForwardCounts.unforwarded (u.frameChecked p sub f wrong) (1 - p) _ wrong _).between hchecked (.refl [] _)
      (by decide) (by decide)
  · exact (State.forward_counts (u.frameChecked p sub f wrong) p f wrong rx tx).between hchecked (.refl [] _) (by decide)
      (by decide)

theorem State.frameCrossed_frame :
    Touches (.reg .ETH_FCS_ERR :: State.forward_foot) u (u.frameCrossed p sub f wrong rx tx) :=
  cond_touches ((u.frameChecked_frame p sub f wrong).mono (by simp)) fun _ hx =>
    State.forward_touches (fun _ h => List.mem_cons_of_mem _ h) hx

theorem State.frameLearnt_frame :
    Touches [.fld .macs] (u.frameCrossed p sub f wrong rx tx) (u.frameLearnt p sub f wrong rx tx) :=
  (Touches.refl _ _).other (fun f => by cases f <;> first | exact .inr rfl | exact .inl (by decide)) rfl rfl rfl rfl rfl
    rfl rfl

theorem State.frameTaken_frame :
    Touches State.deliver_foot (u.frameLearnt p sub f wrong rx tx) (u.frameTaken p sub f wrong rx tx) :=
  cond_touches (.refl _ _) fun _ hx => State.deliver_touches (fun _ h => h) hx

/-- A right frame teaches its source address, and that alone. -/
theorem State.frameTaken_macPort (a : Nat) : (u.frameTaken p sub f wrong rx tx).macPort a =
    if (Ether.ofBytes f).src = a then 4 * p + sub else u.macPort a := by
  have htaken : (u.frameTaken p sub f wrong rx tx).macs = (u.frameLearnt p sub f wrong rx tx).macs :=
    (u.frameTaken_frame p sub f wrong rx tx).fld .macs (by decide) (by decide)
  have hcrossed : (u.frameCrossed p sub f wrong rx tx).macs = u.macs :=
    (u.frameCrossed_frame p sub f wrong rx tx).fld .macs (by decide) (by decide)
  unfold State.macPort
  rw [htaken, ← hcrossed]
  exact Sparse.get_set ..

end

/-! ## What holds of the end of a frame, told of the state before its counters -/

section
variable (s : State) (p sub : Nat) (f : List Byte) (corr uncorr : Nat) (long wrong : Bool) (rx tx : Nat)

theorem State.frameSized_counted : CountsOnly s (s.frameSized p corr uncorr long) :=
  .of_touches (s.frameSized_frame p corr uncorr long) (by simp [sizedParts, Sys2Proof.Machine.regs, frameCounters])
    (by decide)

theorem State.frameLearnt_counted (u : State) : CountsOnly u (u.frameLearnt p sub f wrong rx tx) :=
  .trans (.of_touches (u.frameCrossed_frame p sub f wrong rx tx)
    (by simp [State.forward_foot, State.stampFrame_foot, State.portStart_foot, frameCounters]) (by decide))
    fun _ _ _ => rfl

/-- Each count of a frame is kept by its delivery. -/
theorem State.frame_counts {t : State} (ht : Touches (.fld .macs :: State.deliver_foot)
    ((s.frameSized p corr uncorr long).frameCrossed p sub f wrong rx tx) t) :
    (Counted s t .ETH_RX_FRAMES p 1 ∧ Counted s t .ETH_FEC_CORR p corr ∧ Counted s t .ETH_FEC_UNCORR p uncorr ∧
      Counted s t .ETH_OVERSIZE p (b2n long)) ∧
    Counted s t .ETH_FCS_ERR p (b2n (wrong && !(s.goesAcross p sub f && s.cutsThrough p (1 - p) f))) ∧
    ForwardCounts s t (1 - p) (s.goesAcross p sub f) (s.cutsThrough p (1 - p) f) wrong (s.frameFits p f) := by
  have hsized := s.frameSized_frame p corr uncorr long
  have hcounted := s.frameSized_counted p corr uncorr long
  obtain ⟨hrx, hcorr, huncorr, hlong⟩ := s.frameSized_counts p corr uncorr long
  generalize s.frameSized p corr uncorr long = u at *
  have hegress : u.egress = s.egress := hsized.fld .egress (by decide) (by decide)
  obtain ⟨herr, hforward⟩ := u.frameCrossed_counts p sub f wrong rx tx
  have hafter := (u.frameCrossed_frame p sub f wrong rx tx).append ht
  rw [hcounted.goesAcross, hcounted.cutsThrough hegress] at herr hforward
  rw [hcounted.frameFits hegress] at hforward
  exact ⟨⟨hrx.touches hafter (by decide) (by decide), hcorr.touches hafter (by decide) (by decide),
      huncorr.touches hafter (by decide) (by decide), hlong.touches hafter (by decide) (by decide)⟩,
    (Counted.of_touches hsized (by decide) herr (by decide)).touches ht (by decide) (by decide),
    hforward.between hsized ht (by decide) (by decide)⟩

/-- A wrong frame teaches no address and reaches no queue (R343). -/
theorem State.frameCrossed_keeps : ((s.frameSized p corr uncorr long).frameCrossed p sub f wrong rx tx).macs = s.macs ∧
    ((s.frameSized p corr uncorr long).frameCrossed p sub f wrong rx tx).rxq = s.rxq := by
  have h := (s.frameSized_frame p corr uncorr long).append
    ((s.frameSized p corr uncorr long).frameCrossed_frame p sub f wrong rx tx)
  exact ⟨h.fld .macs (by decide) (by decide), h.fld .rxq (by decide) (by decide)⟩

/-- A frame that is not for the device reaches no queue (R348). -/
theorem State.frameTaken_away (u : State) (haway : (u.frameWays sub f).2 = false) :
    u.frameTaken p sub f wrong rx tx = u.frameLearnt p sub f wrong rx tx := by
  unfold State.frameTaken
  rw [haway]
  rfl

/-- A frame for the device that no protocol claims goes to the receive queues (R345, R348, R353). -/
theorem State.frameTaken_queued (u : State) (hhere : (u.frameWays sub f).2 = true) (hphase : u.reg .iPHASE 0 ≠ 4)
    (hptp : ptpAt f = none) (harp : (Ether.ofBytes f).etype ≠ 0x0806)
    (hip : Packet.ofEther (Ether.ofBytes f) = none)
    (hvlan : (Ether.ofBytes f).tagged = false ∨ (Ether.ofBytes f).vid = 0 ∨ (Ether.ofBytes f).vid = u.reg .NET_VID 0) :
    Queued u (u.frameTaken p sub f wrong rx tx) p sub (rx >>> 48) f := by
  have hcounted := State.frameLearnt_counted p sub f wrong rx tx u
  have hrxq : (u.frameLearnt p sub f wrong rx tx).rxq = u.rxq :=
    (u.frameCrossed_frame p sub f wrong rx tx).fld .rxq (by decide) (by decide)
  have htaken : u.frameTaken p sub f wrong rx tx =
      (u.frameLearnt p sub f wrong rx tx).toQueue p sub (rx >>> 48) (Ether.ofBytes f) f := by
    rw [← State.deliver_queued _ p sub (rx >>> 48) hptp harp hip (by rwa [hcounted .NET_VID (by decide)])]
    unfold State.frameTaken State.cond
    rw [if_pos (by simp [hhere, hphase, hptp])]
  rw [htaken]
  exact Queued.of_counts (State.toQueue_queued ..) hcounted hrxq

end

/-- ETH_FRAME_RECEIVE (R342, R343, R346, R348 to R353). -/
theorem ethFrameReceive_completes (port : Fin 2) (sub : Fin 4) (f : List Byte) (bad : Bool) (corr uncorr rx tx : Nat)
    (s : State) :
    let p := port.val
    let o := 1 - p
    let e := Ether.ofBytes f
    let long := decide (9600 < f.length)
    let wrong := bad || long
    let across := s.goesAcross p sub.val f
    let cut := across && s.cutsThrough p o f
    let q := if e.tagged then e.pcp else s.reg .ETH_DEF_PCP p
    let room := decide (s.egressLevel o q + f.length ≤ egressSize)
    let here := sub.val ≠ 0 ∨ (s.switchTo e.dst).2 = true
    let fec (n : Nat) : Nat := if s.reg .iETH_FEC (4 * p + sub.val) = 0 then 0 else n
    if s.linkUp p sub.val = false then exec (.ethFrameReceive port sub f bad corr uncorr rx tx) s = .next s
    else
      ∃ t, exec (.ethFrameReceive port sub f bad corr uncorr rx tx) s = .next t ∧
        Touches Changes.ethFrameReceive s t ∧
        Counted s t .ETH_RX_FRAMES p 1 ∧ Counted s t .ETH_FEC_CORR p (fec corr) ∧ Counted s t .ETH_FEC_UNCORR p (fec
            uncorr) ∧
        Counted s t .ETH_OVERSIZE p (b2n long) ∧ Counted s t .ETH_FCS_ERR p (b2n (wrong && !cut)) ∧
        Counted s t .ETH_CUT o (b2n cut) ∧ Counted s t .ETH_STOMPED o (b2n (cut && wrong)) ∧
        Counted s t .ETH_STORED o (b2n (across && !cut && !wrong && room)) ∧
        Counted s t .ETH_FWD_DROPS o (b2n (across && !cut && !wrong && !room)) ∧
        if wrong then t.macs = s.macs ∧ t.rxq = s.rxq
        else t.macPort e.src = 4 * p + sub.val ∧ (∀ a, a ≠ e.src → t.macPort a = s.macPort a) ∧
          (¬ here → t.rxq = s.rxq) ∧
          (here → s.reg .iPHASE 0 ≠ 4 → ptpAt f = none → e.etype ≠ 0x0806 →
            Packet.ofEther e = none → (e.tagged = false ∨ e.vid = 0 ∨ e.vid = s.reg .NET_VID 0) →
            Queued s t p sub.val (rx >>> 48) f) := by
  intro p o e long wrong across cut q room here fec
  have hframe : OutTouches Changes.ethFrameReceive s (exec (.ethFrameReceive port sub f bad corr uncorr rx tx) s) :=
    execEthFrameReceive_touches (by decide) (.refl _ s)
  refine completes_unless (execEthFrameReceive_eq port sub f bad corr uncorr rx tx s) hframe fun hup => ?_
  have hsized := s.frameSized_frame p (fec corr) (fec uncorr) long
  have hcounted := s.frameSized_counted p (fec corr) (fec uncorr) long
  obtain ⟨hmacs, hrxq⟩ := s.frameCrossed_keeps p sub.val f (fec corr) (fec uncorr) long wrong rx tx
  have hcounts {t : State} := s.frame_counts p sub.val f (fec corr) (fec uncorr) long wrong rx tx (t := t)
  by_cases hwrong : wrong = true
  · rw [if_pos (show (bad || long) = true from hwrong)]
    obtain ⟨⟨hrx, hcorr, huncorr, hlong⟩, herr, hcut, hstomp, hstore, hdrop⟩ := hcounts (.refl _ _)
    refine ⟨hrx, hcorr, huncorr, hlong, herr, hcut, hstomp, hstore, hdrop, ?_⟩
    rw [if_pos hwrong]
    exact ⟨hmacs, hrxq⟩
  · rw [if_neg (show ¬ (bad || long) = true from hwrong)]
    obtain ⟨⟨hrx, hcorr, huncorr, hlong⟩, herr, hcut, hstomp, hstore, hdrop⟩ :=
      hcounts ((State.frameLearnt_frame ..).append (State.frameTaken_frame ..))
    refine ⟨hrx, hcorr, huncorr, hlong, herr, hcut, hstomp, hstore, hdrop, ?_⟩
    rw [if_neg hwrong]
    have hhere : here ↔ ((s.frameSized p (fec corr) (fec uncorr) long).frameWays sub.val f).2 = true := by
      rw [hcounted.frameWays, State.frameWays_here]
    have hmac (a : Nat) : (s.frameSized p (fec corr) (fec uncorr) long).macPort a = s.macPort a :=
      congrArg (fun m => Sparse.get (fun _ => 0) m a) (hsized.fld .macs (by decide) (by decide))
    refine ⟨(State.frameTaken_macPort ..).trans (if_pos rfl), fun a ha =>
      (State.frameTaken_macPort ..).trans ((if_neg (Ne.symm ha)).trans (hmac a)), fun hnot => ?_,
      fun h hphase hptp harp hip hvlan => ?_⟩
    · rw [State.frameTaken_away _ _ _ _ _ _ _ (Bool.eq_false_iff.mpr fun h => hnot (hhere.mpr h))]
      exact hrxq
    · have hqueued := State.frameTaken_queued p sub.val f wrong rx tx _ (hhere.mp h)
        (by rwa [hcounted .iPHASE (by decide)]) hptp harp hip (by rwa [hcounted .NET_VID (by decide)])
      exact Queued.of_counts hqueued hcounted (hsized.fld .rxq (by decide) (by decide))

/-- Settles O43, clause by clause. -/
theorem switchAndLinks : Obligations.SwitchAndLinks :=
  ⟨ethFrameReceive_completes, egressFrameSent_completes, ethModeWrite_completes, linkUp_completes, linkDown_completes,
    rqParamWrite_completes⟩

end Sys2Proof.Machine
end
